-- ==== Sys2Proof/Word.lean ====
section
/-! DEFINITION. The words of the machine and the plain data that events carry (00 R8, 02 R62, 17 R471). -/

namespace Sys2Proof

/-- A 32-bit register value (02 R62). -/
abbrev Word := BitVec 32
/-- A 64-bit virtual address or a 64-bit value held in a pair (02 R62, 06 R176). -/
abbrev DWord := BitVec 64
/-- One byte of memory: a location of the memory model (03 R79). -/
abbrev Byte := BitVec 8
/-- A physical address (07 R207): the key of a memory cell. -/
abbrev PAddr := Nat

/-- The four masters that send commands (17 R470), numbered as the reply's master field numbers them (17 R471). -/
inductive Master where
  | host | board | remote0 | remote1
  deriving DecidableEq, Repr

/-- A command record (17 R471) as the firmware takes it: its op is the constructor of the instruction that carries it. -/
structure Cmd where
  master : Master
  tag : BitVec 32
  /-- Bits [31:16] of the record: reserved, must be zero. -/
  rsv : BitVec 16
  a0 : DWord
  a1 : DWord
  a2 : DWord
  a3 : DWord
  a4 : DWord
  a5 : DWord
  a6 : DWord
  deriving DecidableEq, Repr

/-- The access classes of a payload, in order: of so many bytes, the class that their flits carry (15 R432). A request's bytes without one are
scratchpad bytes (06 R186) and the engine's own words; a response's are denied bytes, of which zeros stand for the payload (15 R431). -/
abbrev Runs := List (Nat × Option (BitVec 16))

/-- What a peer's request asks of this device (15 R437 to R443): `fetch` is `lld`, `lgat` and a window load, `store` is
`lwr`, a window store and a remote stamp, `update` is `lred`, and `reduce` is what another rank of an `mxr` contributes: its parameters and its
run (log 14). -/
inductive PeerAct where
  | fetch (n : Nat)
  | store (bytes : List Byte)
  | update (ty : BitVec 2) (bytes : List Byte)
  | reduce (bytes : List Byte)
  deriving DecidableEq, Repr

/-- A request that arrives from a peer (15 R430, R431, R432, R441). -/
structure PeerReq where
  /-- Requesting device, and the tag that a resend keeps (15 R435). -/
  dev : Nat
  tag : BitVec 24
  /-- Bound queue of this device (15 R430), the requesting queue (15 R432) and the identity that the request carries (15 R431). -/
  queue : Nat
  squeue : Nat
  identity : BitVec 32
  /-- Classes that the payload's flits carry. -/
  runs : Runs
  port : Nat
  va : DWord
  act : PeerAct
  deriving DecidableEq, Repr

/-- A peer's answer to one request, or to one lane of one (15 R432 status, R435, R437, R438, R439). -/
inductive Remote where
  /-- Done: the bytes that came back, and the classes that the flits carried. -/
  | arrived (bytes : List Byte) (runs : Runs)
  /-- Denied at the remote: zeros for a read (15 R431). -/
  | denied
  /-- The remote translation is invalid or malformed (15 R437). -/
  | unmapped
  /-- The remote met an uncorrectable error. -/
  | uncorrectable
  /-- The remote refused the access (15 R439 cause 5). -/
  | refused
  /-- The request failed after 2^20 cycles (15 R435). -/
  | failed
  deriving DecidableEq, Repr


end Sys2Proof
end

