-- ==== Sys2Proof/Config.lean ====
section
/-! DEFINITION. What an implementation fixes and the free values: constants without a body, so that a statement about them
holds whatever they are. -/

namespace Sys2Proof

/-- A byte that the manual leaves open, by its number in the run and its place (log 7: report layouts, snapshot layout). -/
opaque Config.freeByte : Nat → Nat → Byte

/-- The reliability report in the firmware's layout: corrected errors, dropped flits, spares used of each die, moved channels, lane faults (17 R473; log 7). -/
opaque Config.reliabilityLayout : Nat → Nat → List Nat → List (Nat × Nat) → List Nat → List Byte

/-- A word of 64 bits that the manual leaves open, by its number in the run (log 7). -/
opaque Config.freeDWord : Nat → DWord

/-- SHA-384 of a byte string, little end first (17 R477, R478; FIPS 180-4 is outside the manual; log 8). -/
opaque Config.sha384 : List Byte → BitVec 384

/-- The hashes that the ROM holds of the vendor's public keys, by kind: 2 ECDSA P-384, 3 LMS (17 R476). -/
opaque Config.romKeyHash : Nat → BitVec 384

/-- The public key of a kind under which an image is checked; where the image or the device holds it is not given (17 R477; log 8). -/
opaque Config.imageKey : List Byte → Nat → List Byte

/-- Whether a signature of a kind verifies: the public key, the 48-byte hash that is signed, the signature (17 R479; FIPS 186-5 and RFC 8554 are outside the
manual; log 8). -/
opaque Config.verifies : Nat → List Byte → BitVec 384 → List Byte → Bool

/-- The bytes of a signature of a kind by their place: the public key of its pair, the 48-byte hash, the LMS leaf index (17 R479; log 8). -/
opaque Config.sign : Nat → List Byte → BitVec 384 → Nat → Nat → Byte

/-- The bytes of a public key that no parameter of 17 R479 fixes, by kind and place: of the device's identity pairs, and of the vendor's pairs. -/
opaque Config.identityKey : Nat → Nat → Byte
opaque Config.vendorKey : Nat → Nat → Byte

/-- The vendor's LMS leaf index for a certificate of a kind, and the signatures of the image that runs after reset, by place (17 R480; log 5). -/
opaque Config.vendorLeaf : Nat → Nat
opaque Config.resetSignature : Nat → Byte

/-- The device numbers of the two remote owners (17 R470; log 101). -/
opaque Config.ownerDevice : Nat → Nat

/-- The ports that a route table gives for a device, and the bytes of one of its entries: the table's layout is not given
(15 R435, 17 R473 `ROUTE`; log 14). -/
opaque Config.routePorts : List Byte → Nat → List Nat
opaque Config.routeEntryBytes : Nat

/-- The codes of the flit header's op field (15 R432: request or response kind), and this device's number. -/
opaque Config.flitOp : Nat → BitVec 6
opaque Config.device : Nat

/-- The device's serial (17 R473 `IDENT`), its fused minimum security version (17 R476) and its ROM (17 R478). -/
opaque Config.serial : DWord
opaque Config.minSvn : BitVec 32
opaque Config.rom : List Byte

/-- The configuration that an image's body holds (17 R478 m_cfg; the body is in the firmware's own format, R480). -/
opaque Config.imageConfig : List Byte → List Byte

end Sys2Proof
end

