-- ==== Sys2Proof/Machine/Bits.lean ====
section
/-! DEFINITION. Bit fields, sign extension, byte order and lane masks (00 R8, 02 R62). -/

namespace Sys2Proof

/-- Bits [lo+n-1 : lo] of a number. -/
def bitsOf (w lo n : Nat) : Nat := w / 2 ^ lo % 2 ^ n

/-- One bit of a number. -/
def bitOf (w i : Nat) : Bool := w / 2 ^ i % 2 == 1

/-- A word from an integer, modulo its width. -/
def wordOfInt (i : Int) : Word := BitVec.ofInt 32 i

/-- The least significant `n` bytes of a number, lowest address first (00 R8). -/
def bytesOf : Nat → Nat → List Byte
  | 0, _ => []
  | n + 1, v => BitVec.ofNat 8 v :: bytesOf n (v / 256)

/-- The number that little-endian bytes hold (00 R8). -/
def natOfBytes : List Byte → Nat
  | [] => 0
  | b :: t => b.toNat + 256 * natOfBytes t

/-- A signed number from its two's-complement bits. -/
def signedOf (width v : Nat) : Int :=
  if v % 2 ^ width < 2 ^ (width - 1) then (v % 2 ^ width : Nat) else ((v % 2 ^ width : Nat) : Int) - 2 ^ width

/-- An address is canonical when bits [63:56] all equal bit 56 (06 R176). -/
def canonical (a : DWord) : Bool :=
  a.toNat / 2 ^ 56 == 0 || a.toNat / 2 ^ 56 == 255

/-- Lane numbers in ascending order (00, pseudocode). -/
def allLanes : List Nat := List.range 32

/-- The lanes of a mask, ascending. -/
def lanesOf (m : BitVec 32) : List Nat := allLanes.filter (fun l => m.getLsbD l)

/-- The mask of the lanes that satisfy a test. -/
def maskOf (p : Nat → Bool) : BitVec 32 := BitVec.ofNat 32 ((allLanes.filter p).foldl (fun n l => n + 2 ^ l) 0)

/-- The lowest lane of a mask; 0 for the empty mask. -/
def lowLane (m : BitVec 32) : Nat := (lanesOf m).headD 0

/-- A 64-bit value from an even register and the odd register above it (02 R62). -/
def pairVal (lo hi : Word) : DWord := hi ++ lo

/-- The words of a 64-bit value, lower half first (06 R182). -/
def pairWords (d : DWord) : List Word := [d.setWidth 32, (d >>> 32).setWidth 32]

/-- Words of a byte string, four bytes each. -/
def wordsOfBytes : Nat → List Byte → List Word
  | 0, _ => []
  | n + 1, bs => BitVec.ofNat 32 (natOfBytes (bs.take 4)) :: wordsOfBytes n (bs.drop 4)

/-- Round a number up or down to a multiple. -/
def alignDown (a n : Nat) : Nat := a / n * n
def alignUp (a n : Nat) : Nat := (a + n - 1) / n * n

/-- Two half-open ranges meet. -/
def overlaps (lo₁ hi₁ lo₂ hi₂ : Nat) : Bool := decide (lo₁ < hi₂) && decide (lo₂ < hi₁)

/-- `n` at index `i` of a list. -/
def listSet {α : Type} : List α → Nat → α → List α
  | [], _, _ => []
  | _ :: t, 0, v => v :: t
  | a :: t, i + 1, v => a :: listSet t i v

/-- The bits of a list of (width, value) fields, least significant field first. -/
def packBits : List (Nat × Nat) → Nat
  | [] => 0
  | (w, v) :: t => v % 2 ^ w + 2 ^ w * packBits t

/-- Pieces of `n` elements each. -/
def chunks {α : Type} : Nat → Nat → List α → List (List α)
  | 0, _, _ => []
  | k + 1, n, xs => xs.take n :: chunks k n (xs.drop n)

end Sys2Proof
end

