-- ==== Sys2Proof/Machine/Num.lean ====
section
/-! DEFINITION. Exact numbers and the four rounding helpers (08 R243 to R255). -/

namespace Sys2Proof

/-- A decoded value (08 R251): NaN, a signed infinity, or the real (-1)^neg · m · 2^e, whose zero keeps its sign. -/
inductive Num where
  | nan
  | inf (neg : Bool)
  | fin (neg : Bool) (m : Nat) (e : Int)
  deriving DecidableEq, Repr

/-- Which encodings with an exponent of all ones are special (08 R243, R244). -/
inductive Special where
  | ieee | e4m3 | none
  deriving DecidableEq, Repr

/-- A floating-point element format (08 R243). -/
structure Fmt where
  ebits : Nat
  mbits : Nat
  bias : Nat
  special : Special
  /-- Exponent and significand fields of the largest finite value. -/
  maxE : Nat
  maxM : Nat
  deriving DecidableEq, Repr

def fp32 : Fmt := ⟨8, 23, 127, .ieee, 254, 2 ^ 23 - 1⟩
def fp16 : Fmt := ⟨5, 10, 15, .ieee, 30, 1023⟩
def bf16 : Fmt := ⟨8, 7, 127, .ieee, 254, 127⟩
def e4m3 : Fmt := ⟨4, 3, 7, .e4m3, 15, 6⟩
def e5m2 : Fmt := ⟨5, 2, 15, .ieee, 30, 3⟩
def e3m2 : Fmt := ⟨3, 2, 3, .none, 7, 3⟩
def e2m3 : Fmt := ⟨2, 3, 1, .none, 3, 7⟩
def e2m1 : Fmt := ⟨2, 1, 1, .none, 3, 1⟩

/-- The four rounding directions (02 R66: mode 0 to 3). -/
inductive Rnd where
  | rne | rz | rd | ru
  deriving DecidableEq, Repr

def rndOf (m : BitVec 2) : Rnd :=
  match m.toNat with
  | 0 => .rne
  | 1 => .rz
  | 2 => .rd
  | _ => .ru

/-- Least normal exponent (08 R243). -/
def Fmt.emin (f : Fmt) : Int := 1 - (f.bias : Int)
/-- Precision (08 R243). -/
def Fmt.prec (f : Fmt) : Nat := f.mbits + 1
def Fmt.width (f : Fmt) : Nat := 1 + f.ebits + f.mbits

/-- `decode` of a floating-point format (08 R243, R244, R251). -/
def fdecode (f : Fmt) (bits : Nat) : Num :=
  let neg := bits / 2 ^ (f.ebits + f.mbits) % 2 == 1
  let e := bits / 2 ^ f.mbits % 2 ^ f.ebits
  let m := bits % 2 ^ f.mbits
  let ones := decide (e = 2 ^ f.ebits - 1)
  let value : Num :=
    if e = 0 then .fin neg m (f.emin - f.mbits)
    else .fin neg (2 ^ f.mbits + m) ((e : Int) - f.bias - f.mbits)
  match f.special with
  | .ieee => if ones then (if m = 0 then .inf neg else .nan) else value
  | .e4m3 => if ones && decide (m = 7) then .nan else value
  | .none => value

/-- The canonical NaN (08 R243). Formats without a NaN never encode one (08 R244, R258). -/
def Fmt.qnan (f : Fmt) : Nat :=
  match f.special with
  | .ieee => (2 ^ f.ebits - 1) * 2 ^ f.mbits + 2 ^ (f.mbits - 1)
  | .e4m3 => 127
  | .none => 0

/-- `m · 2^p` as a whole number, with the bits below the point dropped. -/
def scaleTo (m : Nat) (p : Int) : Nat :=
  if 0 ≤ p then m * 2 ^ p.toNat
  else if (m.log2 : Int) < -p then 0 else m / 2 ^ (-p).toNat

/-- `encode` of a value that the format represents (08 R255). -/
def fencode (f : Fmt) (n : Num) : Nat :=
  let sign := fun (neg : Bool) => if neg then 2 ^ (f.ebits + f.mbits) else 0
  match n with
  | .nan => f.qnan
  | .inf neg => sign neg + (2 ^ f.ebits - 1) * 2 ^ f.mbits
  | .fin neg m e =>
    if m = 0 then sign neg
    else
      let top : Int := m.log2 + e
      if top < f.emin then sign neg + scaleTo m (e - (f.emin - f.mbits))
      else sign neg + (top + f.bias).toNat * 2 ^ f.mbits + (scaleTo m (e - (top - f.mbits)) - 2 ^ f.mbits)

/-- The multiple of 2^q that a helper picks for the magnitude m · 2^e, raised by a part too small to see when `more`
(08 R252): the quotient by 2^q. -/
def quotient (r : Rnd) (neg : Bool) (m : Nat) (e q : Int) (more : Bool) : Nat :=
  if q ≤ e then m * 2 ^ (e - q).toNat
  else
    let sh := (q - e).toNat
    -- a magnitude far below half a quantum is never divided out
    let k := if m.log2 + 2 < sh then 0 else m / 2 ^ sh
    let rest := if m.log2 + 2 < sh then m else m % 2 ^ sh
    let exact := decide (rest = 0) && !more
    let aboveHalf := decide (m.log2 + 2 ≥ sh) && (decide (2 * rest > 2 ^ sh) || (decide (2 * rest = 2 ^ sh) && more))
    let half := decide (m.log2 + 2 ≥ sh) && decide (2 * rest = 2 ^ sh) && !more
    let up : Bool := match r with
      | .rne => aboveHalf || (half && k % 2 == 1)
      | .rz => false
      | .rd => neg && !exact
      | .ru => !neg && !exact
    if up then k + 1 else k

/-- A rounding helper on a finite value, with an exponent unbounded above (08 R252). -/
def roundFree (f : Fmt) (r : Rnd) (neg : Bool) (m : Nat) (e : Int) (more : Bool) : Num :=
  if m = 0 then .fin neg 0 0
  else
    let q := max ((m.log2 : Int) + e) f.emin - f.mbits
    if q ≤ e ∧ !more then .fin neg m e else .fin neg (quotient r neg m e q more) q

/-- The largest finite value. -/
def Fmt.maxNum (f : Fmt) (neg : Bool) : Num := .fin neg (2 ^ f.mbits + f.maxM) ((f.maxE : Int) - f.bias - f.mbits)

/-- A magnitude exceeds the largest finite value of a format. -/
def Fmt.exceeds (f : Fmt) (m : Nat) (e : Int) : Bool :=
  let top : Int := m.log2 + e
  let lim : Int := (f.maxE : Int) - f.bias
  decide (m ≠ 0) && (decide (lim < top) ||
    (decide (top = lim) &&
      (let c := min e (lim - f.mbits)
       decide (scaleTo m (e - c) > scaleTo (2 ^ f.mbits + f.maxM) (lim - f.mbits - c)))))

/-- The rounding helpers for formats with infinities (08 R252, R253). -/
def roundNum (f : Fmt) (r : Rnd) (x : Num) (more : Bool := false) : Num :=
  match x with
  | .nan => .nan
  | .inf s => .inf s
  | .fin neg m e =>
    match roundFree f r neg m e more with
    | .fin s m' e' =>
      if f.exceeds m' e' then
        match r with
        | .rne => .inf neg
        | .rz => f.maxNum neg
        | .rd => if neg then .inf neg else f.maxNum neg
        | .ru => if neg then f.maxNum neg else .inf neg
      else .fin s m' e'
    | y => y

/-- `sat` of a rounding helper (08 R254), for formats without infinities. -/
def satNum (f : Fmt) (r : Rnd) (x : Num) : Num :=
  match x with
  | .nan => .nan
  | .inf s => f.maxNum s
  | .fin neg m e =>
    match roundFree f r neg m e false with
    | .fin s m' e' => if f.exceeds m' e' then f.maxNum neg else .fin s m' e'
    | y => y

/-- Round and encode by the rule of the destination: R253 where the format has infinities, R254 where not (08 R255). -/
def fround (f : Fmt) (r : Rnd) (x : Num) (more : Bool := false) : Nat :=
  match f.special with
  | .ieee => fencode f (roundNum f r x more)
  | _ => fencode f (satNum f r x)

/-- The signed whole number of a finite value at exponent `c`, for `c` at most its own. -/
def numAt (neg : Bool) (m : Nat) (e c : Int) : Int :=
  let v : Int := (scaleTo m (e - c) : Nat)
  if neg then -v else v

/-- A value from a signed whole number; `nz` is the sign that a zero takes. -/
def numOfInt (i : Int) (e : Int) (nz : Bool) : Num :=
  if i = 0 then .fin nz 0 0 else .fin (decide (i < 0)) i.natAbs e

/-- The exact sum, with the NaN, infinity and zero rules of 05 R151; `down` is rounding towards minus infinity. -/
def addNum (down : Bool) (a b : Num) : Num :=
  match a, b with
  | .nan, _ => .nan
  | _, .nan => .nan
  | .inf s, .inf t => if s = t then .inf s else .nan
  | .inf s, .fin _ _ _ => .inf s
  | .fin _ _ _, .inf t => .inf t
  | .fin s m e, .fin t n f =>
    let c := min e f
    numOfInt (numAt s m e c + numAt t n f c) c (if m = 0 ∧ n = 0 ∧ s = t then s else down)

def negNum : Num → Num
  | .nan => .nan
  | .inf s => .inf (!s)
  | .fin s m e => .fin (!s) m e

/-- The exact product (05 R151, 08 R260). -/
def mulNum (a b : Num) : Num :=
  match a, b with
  | .nan, _ => .nan
  | _, .nan => .nan
  | .inf s, .inf t => .inf (s != t)
  | .inf s, .fin t n _ => if n = 0 then .nan else .inf (s != t)
  | .fin s m _, .inf t => if m = 0 then .nan else .inf (s != t)
  | .fin s m e, .fin t n f => .fin (s != t) (m * n) (e + f)

/-- Multiply by a power of two, exactly. -/
def shiftNum (x : Num) (k : Int) : Num :=
  match x with
  | .fin s m e => .fin s m (e + k)
  | y => y

/-- Numerical order of two values that are not NaN, with -0 equal to +0: less than. -/
def ltNum (a b : Num) : Bool :=
  match a, b with
  | .nan, _ => false
  | _, .nan => false
  | .inf s, .inf t => s && !t
  | .inf s, .fin _ _ _ => s
  | .fin _ _ _, .inf t => !t
  | .fin s m e, .fin t n f => let c := min e f; decide (numAt s m e c < numAt t n f c)

/-- Numerical equality, with -0 equal to +0; NaN equals nothing. -/
def eqNum (a b : Num) : Bool :=
  match a, b with
  | .nan, _ => false
  | _, .nan => false
  | .inf s, .inf t => s == t
  | .fin s m e, .fin t n f => let c := min e f; decide (numAt s m e c = numAt t n f c)
  | _, _ => false

def Num.isNan : Num → Bool
  | .nan => true
  | _ => false

/-- The exact quotient of finite magnitudes, truncated below its 80th bit, and whether anything was dropped. -/
def divMag (m : Nat) (e : Int) (n : Nat) (f : Int) : Nat × Int × Bool :=
  let k := 80 + n.log2
  (m * 2 ^ k / n, e - f - k, decide (m * 2 ^ k % n ≠ 0))

/-- The quotient of two values rounded once, under the zero and infinity rules of IEEE 754 (10 R314 divides finite values
by a positive one). -/
def divRound (f : Fmt) (r : Rnd) (a b : Num) : Num :=
  match a, b with
  | .nan, _ => .nan
  | _, .nan => .nan
  | .inf _, .inf _ => .nan
  | .inf s, .fin t _ _ => .inf (s != t)
  | .fin s _ _, .inf t => .fin (s != t) 0 0
  | .fin s m e, .fin t n g =>
    if n = 0 then (if m = 0 then .nan else .inf (s != t))
    else if m = 0 then .fin (s != t) 0 0
    else let (q, x, more) := divMag m e n g; roundNum f r (.fin (s != t) q x) more

/-- The whole number that a finite value rounds to (08 R252 with a quantum of 1). -/
def roundInt (r : Rnd) (neg : Bool) (m : Nat) (e : Int) : Int :=
  if m = 0 then 0
  else let k := quotient r neg m e 0 false; if neg then -(k : Int) else k

/-- Floor of a finite value times 2^k. -/
def floorScaled (neg : Bool) (m : Nat) (e k : Int) : Int :=
  let p := e + k
  if m = 0 then 0
  else if 0 ≤ p then numAt neg m p 0
  else
    let s := (-p).toNat
    if m.log2 < s then (if neg then -1 else 0)
    else
      let t : Int := (m / 2 ^ s : Nat)
      if neg then (if m % 2 ^ s = 0 then -t else -t - 1) else t

end Sys2Proof
end

