-- ==== Sys2Proof/Machine/Format.lean ====
section
/-! DEFINITION. Block formats, page and block quantisation, the fixed summation order and the transcendental functions
(08 R245 to R266). -/

namespace Sys2Proof

/-! ### Element formats of the Quern (09 R279) -/

/-- The A and B formats (09 R279) and the MX formats (08 R246), by the codes of R279. -/
inductive QFmt where
  | bf16 | e4m3 | e5m2 | mxe4m3 | mxe5m2 | mxe3m2 | mxe2m3 | mxe2m1 | mxint8 | i8
  deriving DecidableEq, Repr

/-- The codes of 09 R279; 10 to 15 are illegal. -/
def qfmtOf (code : Nat) : Option QFmt :=
  match code with
  | 0 => some .bf16
  | 1 => some .e4m3
  | 2 => some .e5m2
  | 3 => some .mxe4m3
  | 4 => some .mxe5m2
  | 5 => some .mxe3m2
  | 6 => some .mxe2m3
  | 7 => some .mxe2m1
  | 8 => some .mxint8
  | 9 => some .i8
  | _ => none

/-- The codes of 08 R268; 0 and 7 are illegal. -/
def mxfmtOf (code : Nat) : Option QFmt :=
  match code with
  | 1 => some .mxe4m3
  | 2 => some .mxe2m3
  | 3 => some .mxe3m2
  | 4 => some .mxe2m1
  | 5 => some .mxint8
  | 6 => some .mxe5m2
  | _ => none

def QFmt.isMx : QFmt → Bool
  | .mxe4m3 | .mxe5m2 | .mxe3m2 | .mxe2m3 | .mxe2m1 | .mxint8 => true
  | .bf16 | .e4m3 | .e5m2 | .i8 => false

/-- Element width in bits. -/
def QFmt.bits : QFmt → Nat
  | .bf16 => 16
  | .e4m3 | .e5m2 | .mxe4m3 | .mxe5m2 | .mxint8 | .i8 => 8
  | .mxe3m2 | .mxe2m3 => 6
  | .mxe2m1 => 4

/-- Element bytes per block of 32 (08 R246, 09 R279). -/
def QFmt.blockBytes (f : QFmt) : Nat := f.bits * 4

/-- Largest `nb` of `qla` (09 R279). -/
def QFmt.maxBlocks : QFmt → Nat
  | .bf16 => 2
  | .mxe3m2 | .mxe2m3 => 5
  | .mxe2m1 => 8
  | .e4m3 | .e5m2 | .mxe4m3 | .mxe5m2 | .mxint8 | .i8 => 4

/-- The floating-point format of an element; none for the integer formats. -/
def QFmt.elem : QFmt → Option Fmt
  | .bf16 => some Sys2Proof.bf16
  | .e4m3 | .mxe4m3 => some Sys2Proof.e4m3
  | .e5m2 | .mxe5m2 => some Sys2Proof.e5m2
  | .mxe3m2 => some e3m2
  | .mxe2m3 => some e2m3
  | .mxe2m1 => some e2m1
  | .mxint8 | .i8 => none

/-- emax of an MX format (08 R246). -/
def QFmt.emax : QFmt → Int
  | .mxe4m3 => 8
  | .mxe5m2 => 15
  | .mxe3m2 => 4
  | .mxe2m3 => 2
  | .mxe2m1 => 2
  | _ => 0

/-- The exact value of one element's bits, without its scale (08 R243, R247, R250). -/
def QFmt.decode (f : QFmt) (v : Nat) : Num :=
  match f.elem with
  | some g => fdecode g v
  | none =>
    let i := signedOf 8 v
    match f with
    | .mxint8 => numOfInt i (-6) false
    | _ => numOfInt i 0 false

/-- An element under its block's scale byte (08 R248). -/
def mxValue (f : QFmt) (scale v : Nat) : Num :=
  if scale = 255 then .nan else shiftNum (f.decode v) ((scale : Int) - 127)

/-- Element `i` of a little-endian bit string of `w`-bit elements (08 R249). -/
def elemAt (w : Nat) (bits i : Nat) : Nat := bitsOf bits (w * i) w

/-- The packed bytes of a list of elements (08 R249). -/
def packElems (w : Nat) (vs : List Nat) : List Byte :=
  bytesOf (w * vs.length / 8) (packBits (vs.map fun v => (w, v)))

/-- Element `i` of a run: without scales for a plain format, as a packed MX run of `nb` blocks for an MX format (08 R249). -/
def runValue (f : QFmt) (nb : Nat) (run : List Byte) (i : Nat) : Num :=
  let v := elemAt f.bits (natOfBytes ((run.drop (f.blockBytes * (i / 32))).take f.blockBytes)) (i % 32)
  if f.isMx then mxValue f ((run.getD (f.blockBytes * nb + i / 32) 0).toNat) v else f.decode v

/-- All elements of a run of `nb` blocks. -/
def runValues (f : QFmt) (nb : Nat) (run : List Byte) : List Num :=
  (List.range nb).flatMap fun b =>
    let bits := natOfBytes ((run.drop (f.blockBytes * b)).take f.blockBytes)
    let scale := (run.getD (f.blockBytes * nb + b) 0).toNat
    (List.range 32).map fun i =>
      if f.isMx then mxValue f scale (elemAt f.bits bits i) else f.decode (elemAt f.bits bits i)

/-! ### Quantisation (08 R256 to R259) -/

/-- floor(log2) of the largest finite magnitude; none when no value is finite and nonzero (08 R256). -/
def amaxLog (vals : List Num) : Option Int :=
  vals.foldl (fun acc v =>
    match v with
    | .fin _ m e =>
      if m = 0 then acc
      else match acc with
        | none => some ((m.log2 : Int) + e)
        | some a => some (max a ((m.log2 : Int) + e))
    | _ => acc) none

/-- `fp8_page`: the page scale exponent and the encoded elements (08 R257). -/
def fp8Page (vals : List Num) : Int × List Nat :=
  let e := match amaxLog vals with
    | none => 0
    | some a => min (max (a - 8) (-127)) 127
  (e, vals.map fun v => fround Sys2Proof.e4m3 .rne (shiftNum v (-e)))

/-- Quantise one value already divided by 2^X (08 R254, R258). -/
def QFmt.quant (f : QFmt) (x : Num) : Nat :=
  match f.elem with
  | some g => fencode g (satNum g .rne x)
  | none =>
    match x with
    | .nan => 0
    | .inf s => if s then 129 else 127
    | .fin s m e =>
      let i := roundInt .rne s m (e + 6)
      let c := min (max i (-127)) 127
      (c % 256).toNat

/-- `mx_block`: the scale byte and the encoded elements of 32 values (08 R258). -/
def mxBlock (f : QFmt) (vals : List Num) : Nat × List Nat :=
  if vals.any Num.isNan then (255, vals.map fun _ => 0)
  else
    let x := match amaxLog vals with
      | none => (-127 : Int)
      | some a => min (max (a - f.emax) (-127)) 127
    ((x + 127).toNat, vals.map fun v => f.quant (shiftNum v (-x)))

/-- A packed MX run of whole blocks (08 R249, R258). -/
def mxRun (f : QFmt) (nb : Nat) (vals : List Num) : List Byte :=
  let bs := (chunks nb 32 vals).map (mxBlock f)
  (bs.flatMap fun b => packElems f.bits b.2) ++ bs.map fun b => BitVec.ofNat 8 b.1

/-! ### The fixed summation order (08 R260 to R262) -/

/-- The exact sum of one k-block's products before its rounding: specials as 08 R261, an exact zero is +0. -/
def blockSum (ps : List Num) : Num :=
  if ps.any Num.isNan then .nan
  else if ps.contains (.inf true) then (if ps.contains (.inf false) then .nan else .inf true)
  else if ps.contains (.inf false) then .inf false
  else
    match ps.foldl (addNum false) (.fin false 0 0) with
    | .fin s m e => if m = 0 then .fin false 0 0 else .fin s m e
    | y => y

/-- One rounded addition in FP32 (05 R151). -/
def faddRne (a b : Num) : Num := roundNum fp32 .rne (addNum false a b)

/-- `qsum` over whole k-blocks in ascending order (08 R261). -/
def qsum (nb : Nat) (acc : Num) (ps : List Num) : Num :=
  (chunks nb 32 ps).foldl (fun acc blk => faddRne acc (roundNum fp32 .rne (blockSum blk))) acc

/-- FP32 bits of a value that FP32 represents; every NaN is canonical. -/
def f32Bits (x : Num) : Word := BitVec.ofNat 32 (fencode fp32 x)
def f32Num (w : Word) : Num := fdecode fp32 w.toNat
def bf16Num (v : Nat) : Num := fdecode bf16 v

/-- `uq16` of a non-negative real, truncated and saturating (08 R250). -/
def uq16 (x : Num) : Nat :=
  match x with
  | .fin false m e => min (floorScaled false m e 16).toNat 0xffffffff
  | .inf false => 0xffffffff
  | _ => 0

/-! ### Transcendental functions (08 R264 to R266) -/

/-- The greatest r below 2^bits with r^p ≤ n, found bit by bit. -/
def iroot (p n : Nat) : Nat → Nat → Nat
  | 0, r => r
  | b + 1, r => iroot p n b (if (r + 2 ^ b) ^ p ≤ n then r + 2 ^ b else r)

/-- T[j] = round_rne(2^(j/256)) (08 R264): the root is taken to 26 bits and rounded once. -/
def exp2Table (j : Nat) : Num :=
  if j = 0 then .fin false 1 0
  else roundNum fp32 .rne (.fin false (iroot 256 (2 ^ (j + 256 * 26)) 27 0) (-26)) true

def exp2C1 : Num := f32Num 0x3f317218
def exp2C2 : Num := f32Num 0x3e75fdf0

/-- `exp2_d` (08 R265). -/
def exp2d (x : Num) : Num :=
  match x with
  | .nan => .nan
  | .inf s => if s then .fin false 0 0 else .inf false
  | .fin s m e =>
    let n := floorScaled s m e 0
    if 128 ≤ n then .inf false
    else if n < -151 then .fin false 0 0
    else
      let t := floorScaled s m e 8 - 256 * n
      let j := t.toNat
      -- r = x - n - j/256, exact
      let r := addNum false (.fin s m e) (numOfInt (-(256 * n + t)) (-8) false)
      let rn := fun y => roundNum fp32 .rne y
      let a := rn (mulNum exp2C2 r)
      let b := rn (addNum false exp2C1 a)
      let c := rn (mulNum b r)
      let d := rn (mulNum (exp2Table j) c)
      let y := rn (addNum false (exp2Table j) d)
      rn (shiftNum y n)

/-- `rcp_d` (08 R266). -/
def rcpd (x : Num) : Num :=
  match x with
  | .nan => .nan
  | .inf s => .fin s 0 0
  | .fin s m e =>
    if m = 0 then .inf s
    else let (q, f, more) := divMag 1 0 m e; roundNum fp32 .rne (.fin s q f) more

/-- `rsqrt_d` (08 R266). -/
def rsqrtd (x : Num) : Num :=
  match x with
  | .nan => .nan
  | .inf s => if s then .nan else .fin false 0 0
  | .fin s m e =>
    if m = 0 then .inf s
    else if s then .nan
    else
      -- an even exponent, so that 1/√(n·2^f) = √(2^(2k)/n) · 2^(-f/2 - k)
      let n := if e % 2 = 0 then m else 2 * m
      let f := if e % 2 = 0 then e else e - 1
      let k := n.log2 + 60
      let r := iroot 2 (2 ^ (2 * k) / n) (k + 1) 0
      roundNum fp32 .rne (.fin false r (-(f / 2) - k)) (decide (r * r * n ≠ 2 ^ (2 * k)))

/-- The next `n` binary digits of the logarithm of a number between `lo` and `hi`, in units of 2^-200 and from 1 to 2;
none where the bounds do not agree on a digit. -/
def logDigits : Nat → Nat → Nat → Nat → Option Nat
  | 0, _, _, acc => some acc
  | n + 1, lo, hi, acc =>
    let lo2 := lo * lo / 2 ^ 200
    let hi2 := hi * hi / 2 ^ 200 + 1
    if 2 ^ 201 ≤ lo2 then logDigits n (lo2 / 2) (hi2 / 2 + 1) (2 * acc + 1)
    else if hi2 < 2 ^ 201 then logDigits n lo2 hi2 (2 * acc)
    else none

/-- floor(2^k · log2 (m / 2^(log2 m))): exact, by digits where the bounds decide and by the power itself where they do not. -/
def logFraction (k m : Nat) : Nat :=
  let x := m * 2 ^ (200 - m.log2)
  match logDigits k x x 0 with
  | some d => d
  | none => (m ^ 2 ^ k).log2 - 2 ^ k * m.log2

/-- `log2_d` (08 R266). -/
def log2d (x : Num) : Num :=
  match x with
  | .nan => .nan
  | .inf s => if s then .nan else .inf false
  | .fin s m e =>
    if m = 0 then .inf true
    else if s then .nan
    else
      let top : Int := (m.log2 : Int) + e
      if m = 2 ^ m.log2 then roundNum fp32 .rne (numOfInt top 0 false)
      else
        let v : Int := top * 2 ^ 60 + logFraction 60 m
        -- the real lies strictly between v and v + 1 units of 2^-60
        if 0 ≤ v then roundNum fp32 .rne (.fin false v.toNat (-60)) true
        else roundNum fp32 .rne (.fin true (-v - 1).toNat (-60)) true

/-! ### Helpers shared by several chapters -/

/-- `fmin` and `fmax` of 05 R152 on a format: one operand unchanged, -0 below +0, a NaN loses to a number. -/
def fminBits (f : Fmt) (wantMax : Bool) (a b : Nat) : Nat :=
  let x := fdecode f a
  let y := fdecode f b
  if x.isNan && y.isNan then f.qnan
  else if x.isNan then b
  else if y.isNan then a
  else
    let lt := ltNum x y || (eqNum x y && decide (a / 2 ^ (f.width - 1) % 2 = 1) && decide (b / 2 ^ (f.width - 1) % 2 = 0))
    if lt != wantMax then a else b

/-- `upd` of the bank arithmetic on one 4-byte element (07 R216); ops 0 `.add`, 1 `.min`, 2 `.max`; types 0 `.f32`,
1 `.i32`, 2 `.n32`, 3 `.bf16x2`. -/
def bankUpd (op ty : Nat) (x y : Word) : Word :=
  match ty with
  | 0 =>
    if op = 0 then f32Bits (faddRne (f32Num x) (f32Num y))
    else BitVec.ofNat 32 (fminBits fp32 (op == 2) x.toNat y.toNat)
  | 1 =>
    if op = 0 then x + y
    else if op = 1 then (if x.slt y then x else y)
    else if x.slt y then y else x
  | 2 =>
    if op = 0 then BitVec.ofNat 32 (min (x.toNat + y.toNat) 0xffffffff)
    else if op = 1 then (if x.toNat < y.toNat then x else y)
    else if x.toNat < y.toNat then y else x
  | _ =>
    let half := fun (a b : Nat) =>
      if op = 0 then fround bf16 .rne (addNum false (fdecode bf16 a) (fdecode bf16 b)) else fminBits bf16 (op == 2) a b
    BitVec.ofNat 32 (half (x.toNat % 65536) (y.toNat % 65536) + 65536 * half (x.toNat / 65536) (y.toNat / 65536))

end Sys2Proof
end

