-- ==== Sys2Proof/Machine/Table.lean ====
section
/-! DEFINITION. Sparse data by number: a list of pairs with rising keys. It holds registers, teams, queues and memory. -/

namespace Sys2Proof

/-- A finite map from numbers, as the list of its pairs with strictly rising keys. -/
abbrev Tab (β : Type) := List (Nat × β)

/-- The value at a key. -/
def tabGet {β : Type} : Tab β → Nat → Option β
  | [], _ => none
  | (a, b) :: t, k => if a = k then some b else tabGet t k

/-- Set the value at a key, keeping the keys in rising order. -/
def tabPut {β : Type} : Tab β → Nat → β → Tab β
  | [], k, v => [(k, v)]
  | (a, b) :: t, k, v =>
    if k < a then (k, v) :: (a, b) :: t else if k = a then (k, v) :: t else (a, b) :: tabPut t k v

/-- Remove a key. -/
def tabDel {β : Type} : Tab β → Nat → Tab β
  | [], _ => []
  | (a, b) :: t, k => if a = k then tabDel t k else (a, b) :: tabDel t k

/-- Change the value at a key that is present. -/
def tabMod {β : Type} (t : Tab β) (k : Nat) (f : β → β) : Tab β :=
  match tabGet t k with
  | some v => tabPut t k (f v)
  | none => t

/-- The keys rise strictly. -/
def tabSorted {β : Type} : Tab β → Bool
  | [] => true
  | [_] => true
  | (a, _) :: (b, v) :: t => decide (a < b) && tabSorted ((b, v) :: t)

end Sys2Proof
end

