-- ==== Sys2Proof/Syntax.lean ====
section
/-! DEFINITION. The instruction set: one constructor for each row of the opcode table (02 R65, spec/95). A row with an encoding carries
the fields that the table names, as bits, in the table's order; an event or a command carries what it acts on. -/

namespace Sys2Proof

/-- Polrel units' parts (02 R43 to R70), engine and machine events (spec/95) and firmware commands (17 R473). -/
inductive Instr where
  /-- `add` (R144): Lane integer add, wrapping or saturating by mode. -/
  | add (m : BitVec 2) (y : BitVec 1) (x : BitVec 1) (b : BitVec 6) (a : BitVec 6) (d : BitVec 6)
  /-- `sub` (R144): Lane integer subtract, wrapping or saturating by mode. -/
  | sub (m : BitVec 2) (y : BitVec 1) (x : BitVec 1) (b : BitVec 6) (a : BitVec 6) (d : BitVec 6)
  /-- `mul.lo` (R144): Low 32 bits of the lane product. -/
  | mulLo (y : BitVec 1) (x : BitVec 1) (b : BitVec 6) (a : BitVec 6) (d : BitVec 6)
  /-- `mul.hi` (R144): High 32 bits of the signed or unsigned 64-bit lane product. -/
  | mulHi (m : BitVec 2) (y : BitVec 1) (x : BitVec 1) (b : BitVec 6) (a : BitVec 6) (d : BitVec 6)
  /-- `mad.lo` (R144): Low 32 bits of a times b plus the accumulating operand. -/
  | madLo (y : BitVec 1) (x : BitVec 1) (b : BitVec 6) (a : BitVec 6) (d : BitVec 6)
  /-- `adda` (R144): 64-bit add of even register pairs modulo 2^64. -/
  | adda (y : BitVec 1) (x : BitVec 1) (b : BitVec 5) (a : BitVec 5) (d : BitVec 5)
  /-- `min` (R144): Signed or unsigned lane minimum. -/
  | min (m : BitVec 2) (y : BitVec 1) (x : BitVec 1) (b : BitVec 6) (a : BitVec 6) (d : BitVec 6)
  /-- `max` (R144): Signed or unsigned lane maximum. -/
  | max (m : BitVec 2) (y : BitVec 1) (x : BitVec 1) (b : BitVec 6) (a : BitVec 6) (d : BitVec 6)
  /-- `and` (R145): Lane bitwise AND. -/
  | and (y : BitVec 1) (x : BitVec 1) (b : BitVec 6) (a : BitVec 6) (d : BitVec 6)
  /-- `or` (R145): Lane bitwise OR. -/
  | or (y : BitVec 1) (x : BitVec 1) (b : BitVec 6) (a : BitVec 6) (d : BitVec 6)
  /-- `xor` (R145): Lane bitwise XOR. -/
  | xor (y : BitVec 1) (x : BitVec 1) (b : BitVec 6) (a : BitVec 6) (d : BitVec 6)
  /-- `andn` (R145): Lane a AND NOT b. -/
  | andn (y : BitVec 1) (x : BitVec 1) (b : BitVec 6) (a : BitVec 6) (d : BitVec 6)
  /-- `shl` (R145): Lane logical shift left, zero for amounts of 32 or more. -/
  | shl (y : BitVec 1) (x : BitVec 1) (b : BitVec 6) (a : BitVec 6) (d : BitVec 6)
  /-- `shr` (R145): Lane logical shift right. -/
  | shr (y : BitVec 1) (x : BitVec 1) (b : BitVec 6) (a : BitVec 6) (d : BitVec 6)
  /-- `sra` (R145): Lane arithmetic shift right. -/
  | sra (y : BitVec 1) (x : BitVec 1) (b : BitVec 6) (a : BitVec 6) (d : BitVec 6)
  /-- `rot` (R145): Lane rotate left by b[4:0]. -/
  | rot (y : BitVec 1) (x : BitVec 1) (b : BitVec 6) (a : BitVec 6) (d : BitVec 6)
  /-- `bfe` (R146): Bit-field extract, zero- or sign-extending. -/
  | bfe (m : BitVec 2) (y : BitVec 1) (x : BitVec 1) (b : BitVec 6) (a : BitVec 6) (d : BitVec 6)
  /-- `bfi` (R146): Bit-field insert into the accumulating operand. -/
  | bfi (y : BitVec 1) (x : BitVec 1) (b : BitVec 6) (a : BitVec 6) (d : BitVec 6)
  /-- `popc` (R146): Population count. -/
  | popc (x : BitVec 1) (a : BitVec 6) (d : BitVec 6)
  /-- `popc.lt` (R146): Population count of the bits below position b. -/
  | popcLt (y : BitVec 1) (x : BitVec 1) (b : BitVec 6) (a : BitVec 6) (d : BitVec 6)
  /-- `clz` (R146): Count leading zeros. -/
  | clz (x : BitVec 1) (a : BitVec 6) (d : BitVec 6)
  /-- `brev` (R146): Bit reversal. -/
  | brev (x : BitVec 1) (a : BitVec 6) (d : BitVec 6)
  /-- `abs` (R146): Integer absolute value. -/
  | abs (x : BitVec 1) (a : BitVec 6) (d : BitVec 6)
  /-- `not` (R146): Bitwise complement. -/
  | not (x : BitVec 1) (a : BitVec 6) (d : BitVec 6)
  /-- `dot4` (R147): Four-way 8-bit dot product added to the accumulating operand. -/
  | dot4I8 (m : BitVec 2) (y : BitVec 1) (x : BitVec 1) (b : BitVec 6) (a : BitVec 6) (d : BitVec 6)
  /-- `addi` (R148): Add immediate, wrapping or saturating. -/
  | addi (m : BitVec 1) (x : BitVec 1) (i : BitVec 11) (a : BitVec 6) (d : BitVec 6)
  /-- `andi` (R148): AND with immediate. -/
  | andi (x : BitVec 1) (i : BitVec 11) (a : BitVec 6) (d : BitVec 6)
  /-- `ori` (R148): OR with immediate. -/
  | ori (x : BitVec 1) (i : BitVec 11) (a : BitVec 6) (d : BitVec 6)
  /-- `xori` (R148): XOR with immediate. -/
  | xori (x : BitVec 1) (i : BitVec 11) (a : BitVec 6) (d : BitVec 6)
  /-- `shli` (R148): Shift left by an immediate amount. -/
  | shli (x : BitVec 1) (n : BitVec 5) (a : BitVec 6) (d : BitVec 6)
  /-- `shri` (R148): Logical shift right by an immediate amount. -/
  | shri (x : BitVec 1) (n : BitVec 5) (a : BitVec 6) (d : BitVec 6)
  /-- `srai` (R148): Arithmetic shift right by an immediate amount. -/
  | srai (x : BitVec 1) (n : BitVec 5) (a : BitVec 6) (d : BitVec 6)
  /-- `roti` (R148): Rotate left by an immediate amount. -/
  | roti (x : BitVec 1) (n : BitVec 5) (a : BitVec 6) (d : BitVec 6)
  /-- `movi` (R148): Move immediate into a lane register. -/
  | movi (i : BitVec 11) (d : BitVec 6)
  /-- `mini` (R148): Minimum with immediate, signed or unsigned. -/
  | mini (m : BitVec 1) (x : BitVec 1) (i : BitVec 11) (a : BitVec 6) (d : BitVec 6)
  /-- `maxi` (R148): Maximum with immediate, signed or unsigned. -/
  | maxi (m : BitVec 1) (x : BitVec 1) (i : BitVec 11) (a : BitVec 6) (d : BitVec 6)
  /-- `kadd` (R149): Uniform add. -/
  | kadd (m : BitVec 2) (b : BitVec 5) (a : BitVec 5) (d : BitVec 5)
  /-- `ksub` (R149): Uniform subtract. -/
  | ksub (m : BitVec 2) (b : BitVec 5) (a : BitVec 5) (d : BitVec 5)
  /-- `kmul.lo` (R149): Uniform low product. -/
  | kmulLo (b : BitVec 5) (a : BitVec 5) (d : BitVec 5)
  /-- `kmul.hi` (R149): Uniform high product. -/
  | kmulHi (m : BitVec 2) (b : BitVec 5) (a : BitVec 5) (d : BitVec 5)
  /-- `kmad.lo` (R149): Uniform multiply-add low. -/
  | kmadLo (b : BitVec 5) (a : BitVec 5) (d : BitVec 5)
  /-- `kadda` (R149): Uniform 64-bit pair add. -/
  | kadda (b : BitVec 4) (a : BitVec 4) (d : BitVec 4)
  /-- `kmin` (R149): Uniform minimum. -/
  | kmin (m : BitVec 2) (b : BitVec 5) (a : BitVec 5) (d : BitVec 5)
  /-- `kmax` (R149): Uniform maximum. -/
  | kmax (m : BitVec 2) (b : BitVec 5) (a : BitVec 5) (d : BitVec 5)
  /-- `kand` (R149): Uniform AND. -/
  | kand (b : BitVec 5) (a : BitVec 5) (d : BitVec 5)
  /-- `kor` (R149): Uniform OR. -/
  | kor (b : BitVec 5) (a : BitVec 5) (d : BitVec 5)
  /-- `kxor` (R149): Uniform XOR. -/
  | kxor (b : BitVec 5) (a : BitVec 5) (d : BitVec 5)
  /-- `kandn` (R149): Uniform AND NOT. -/
  | kandn (b : BitVec 5) (a : BitVec 5) (d : BitVec 5)
  /-- `kshl` (R149): Uniform shift left. -/
  | kshl (b : BitVec 5) (a : BitVec 5) (d : BitVec 5)
  /-- `kshr` (R149): Uniform logical shift right. -/
  | kshr (b : BitVec 5) (a : BitVec 5) (d : BitVec 5)
  /-- `ksra` (R149): Uniform arithmetic shift right. -/
  | ksra (b : BitVec 5) (a : BitVec 5) (d : BitVec 5)
  /-- `krot` (R149): Uniform rotate. -/
  | krot (b : BitVec 5) (a : BitVec 5) (d : BitVec 5)
  /-- `kaddi` (R149): Uniform add immediate, wrapping. -/
  | kaddi (i : BitVec 11) (a : BitVec 5) (d : BitVec 5)
  /-- `kmovi` (R149): Uniform move immediate. -/
  | kmovi (i : BitVec 11) (d : BitVec 5)
  /-- `kbfe` (R149): Uniform bit-field extract. -/
  | kbfe (m : BitVec 2) (b : BitVec 5) (a : BitVec 5) (d : BitVec 5)
  /-- `kbfi` (R149): Uniform bit-field insert. -/
  | kbfi (b : BitVec 5) (a : BitVec 5) (d : BitVec 5)
  /-- `kpopc` (R149): Uniform population count. -/
  | kpopc (a : BitVec 5) (d : BitVec 5)
  /-- `kclz` (R149): Uniform count leading zeros. -/
  | kclz (a : BitVec 5) (d : BitVec 5)
  /-- `kbrev` (R149): Uniform bit reversal. -/
  | kbrev (a : BitVec 5) (d : BitVec 5)
  /-- `knot` (R149): Uniform complement. -/
  | knot (a : BitVec 5) (d : BitVec 5)
  /-- `kabs` (R149): Uniform absolute value. -/
  | kabs (a : BitVec 5) (d : BitVec 5)
  /-- `kmov` (R149): Uniform register copy. -/
  | kmov (a : BitVec 5) (d : BitVec 5)
  /-- `fadd` (R151): FP32 add, rounded once by mode. -/
  | fadd (m : BitVec 2) (y : BitVec 1) (x : BitVec 1) (b : BitVec 6) (a : BitVec 6) (d : BitVec 6)
  /-- `fsub` (R151): FP32 subtract. -/
  | fsub (m : BitVec 2) (y : BitVec 1) (x : BitVec 1) (b : BitVec 6) (a : BitVec 6) (d : BitVec 6)
  /-- `fmul` (R151): FP32 multiply. -/
  | fmul (m : BitVec 2) (y : BitVec 1) (x : BitVec 1) (b : BitVec 6) (a : BitVec 6) (d : BitVec 6)
  /-- `fma` (R151): FP32 fused multiply-add, rounded once. -/
  | fma (m : BitVec 2) (y : BitVec 1) (x : BitVec 1) (b : BitVec 6) (a : BitVec 6) (d : BitVec 6)
  /-- `fmin` (R152): FP32 minimum returning an operand. -/
  | fmin (y : BitVec 1) (x : BitVec 1) (b : BitVec 6) (a : BitVec 6) (d : BitVec 6)
  /-- `fmax` (R152): FP32 maximum returning an operand. -/
  | fmax (y : BitVec 1) (x : BitVec 1) (b : BitVec 6) (a : BitVec 6) (d : BitVec 6)
  /-- `fadd.bf16x2` (R153): Packed BF16 add per half. -/
  | faddBf16x2 (m : BitVec 2) (y : BitVec 1) (x : BitVec 1) (b : BitVec 6) (a : BitVec 6) (d : BitVec 6)
  /-- `fmul.bf16x2` (R153): Packed BF16 multiply per half. -/
  | fmulBf16x2 (m : BitVec 2) (y : BitVec 1) (x : BitVec 1) (b : BitVec 6) (a : BitVec 6) (d : BitVec 6)
  /-- `fma.bf16x2` (R153): Packed BF16 fused multiply-add per half. -/
  | fmaBf16x2 (m : BitVec 2) (y : BitVec 1) (x : BitVec 1) (b : BitVec 6) (a : BitVec 6) (d : BitVec 6)
  /-- `fmin.bf16x2` (R153): Packed BF16 minimum per half. -/
  | fminBf16x2 (y : BitVec 1) (x : BitVec 1) (b : BitVec 6) (a : BitVec 6) (d : BitVec 6)
  /-- `fmax.bf16x2` (R153): Packed BF16 maximum per half. -/
  | fmaxBf16x2 (y : BitVec 1) (x : BitVec 1) (b : BitVec 6) (a : BitVec 6) (d : BitVec 6)
  /-- `fadd.f16x2` (R153): Packed binary16 add per half. -/
  | faddF16x2 (m : BitVec 2) (y : BitVec 1) (x : BitVec 1) (b : BitVec 6) (a : BitVec 6) (d : BitVec 6)
  /-- `fmul.f16x2` (R153): Packed binary16 multiply per half. -/
  | fmulF16x2 (m : BitVec 2) (y : BitVec 1) (x : BitVec 1) (b : BitVec 6) (a : BitVec 6) (d : BitVec 6)
  /-- `fma.f16x2` (R153): Packed binary16 fused multiply-add per half. -/
  | fmaF16x2 (m : BitVec 2) (y : BitVec 1) (x : BitVec 1) (b : BitVec 6) (a : BitVec 6) (d : BitVec 6)
  /-- `fmin.f16x2` (R153): Packed binary16 minimum per half. -/
  | fminF16x2 (y : BitVec 1) (x : BitVec 1) (b : BitVec 6) (a : BitVec 6) (d : BitVec 6)
  /-- `fmax.f16x2` (R153): Packed binary16 maximum per half. -/
  | fmaxF16x2 (y : BitVec 1) (x : BitVec 1) (b : BitVec 6) (a : BitVec 6) (d : BitVec 6)
  /-- `rcp` (R154): Correctly rounded FP32 reciprocal. -/
  | rcp (x : BitVec 1) (a : BitVec 6) (d : BitVec 6)
  /-- `rsqrt` (R154): Correctly rounded FP32 reciprocal square root. -/
  | rsqrt (x : BitVec 1) (a : BitVec 6) (d : BitVec 6)
  /-- `exp2` (R154): Base-2 exponential by exp2_d. -/
  | exp2 (x : BitVec 1) (a : BitVec 6) (d : BitVec 6)
  /-- `log2` (R154): Correctly rounded FP32 base-2 logarithm. -/
  | log2 (x : BitVec 1) (a : BitVec 6) (d : BitVec 6)
  /-- `cvt` (R155): Convert one value per lane between the seven types. -/
  | cvt (m : BitVec 2) (x : BitVec 1) (s : BitVec 3) (t : BitVec 3) (a : BitVec 6) (d : BitVec 6)
  /-- `cmp.eq` (R156): Compare equal into a predicate. -/
  | cmpEq (m : BitVec 2) (y : BitVec 1) (x : BitVec 1) (b : BitVec 6) (a : BitVec 6) (p : BitVec 3)
  /-- `cmp.ne` (R156): Compare not equal into a predicate. -/
  | cmpNe (m : BitVec 2) (y : BitVec 1) (x : BitVec 1) (b : BitVec 6) (a : BitVec 6) (p : BitVec 3)
  /-- `cmp.lt` (R156): Compare less than into a predicate. -/
  | cmpLt (m : BitVec 2) (y : BitVec 1) (x : BitVec 1) (b : BitVec 6) (a : BitVec 6) (p : BitVec 3)
  /-- `cmp.le` (R156): Compare less or equal into a predicate. -/
  | cmpLe (m : BitVec 2) (y : BitVec 1) (x : BitVec 1) (b : BitVec 6) (a : BitVec 6) (p : BitVec 3)
  /-- `cmp.gt` (R156): Compare greater than into a predicate. -/
  | cmpGt (m : BitVec 2) (y : BitVec 1) (x : BitVec 1) (b : BitVec 6) (a : BitVec 6) (p : BitVec 3)
  /-- `cmp.ge` (R156): Compare greater or equal into a predicate. -/
  | cmpGe (m : BitVec 2) (y : BitVec 1) (x : BitVec 1) (b : BitVec 6) (a : BitVec 6) (p : BitVec 3)
  /-- `pand` (R157): Predicate AND. -/
  | pand (b : BitVec 3) (a : BitVec 3) (d : BitVec 3)
  /-- `por` (R157): Predicate OR. -/
  | por (b : BitVec 3) (a : BitVec 3) (d : BitVec 3)
  /-- `pxor` (R157): Predicate XOR. -/
  | pxor (b : BitVec 3) (a : BitVec 3) (d : BitVec 3)
  /-- `pnot` (R157): Predicate NOT. -/
  | pnot (a : BitVec 3) (d : BitVec 3)
  /-- `sel` (R158): Select va or vb per lane by a predicate, optionally negated. -/
  | sel (n : BitVec 1) (y : BitVec 1) (x : BitVec 1) (p : BitVec 3) (b : BitVec 6) (a : BitVec 6) (d : BitVec 6)
  /-- `mov` (R159): Copy a lane register. -/
  | mov (y : BitVec 1) (b : BitVec 6) (d : BitVec 6)
  /-- `movk` (R159): Copy a uniform register into a lane register. -/
  | movk (a : BitVec 5) (d : BitVec 6)
  /-- `sreg` (R139): Read a special register into a lane register. -/
  | sreg (s : BitVec 6) (d : BitVec 6)
  /-- `shfl.idx` (R161): Shuffle from an indexed lane. -/
  | shflIdx (y : BitVec 1) (x : BitVec 1) (b : BitVec 6) (a : BitVec 6) (d : BitVec 6)
  /-- `shfl.up` (R161): Shuffle from a lower lane. -/
  | shflUp (y : BitVec 1) (x : BitVec 1) (b : BitVec 6) (a : BitVec 6) (d : BitVec 6)
  /-- `shfl.down` (R161): Shuffle from a higher lane. -/
  | shflDown (y : BitVec 1) (x : BitVec 1) (b : BitVec 6) (a : BitVec 6) (d : BitVec 6)
  /-- `shfl.xor` (R161): Shuffle from the lane at l XOR b. -/
  | shflXor (y : BitVec 1) (x : BitVec 1) (b : BitVec 6) (a : BitVec 6) (d : BitVec 6)
  /-- `xg` (R162): Gather from an eight-register window across all lanes. -/
  | xg (y : BitVec 1) (x : BitVec 1) (b : BitVec 6) (a : BitVec 3) (d : BitVec 6)
  /-- `perm.b` (R163): Per-byte nibble lookup in a 16-byte uniform table. -/
  | permB (h : BitVec 1) (x : BitVec 1) (q : BitVec 3) (a : BitVec 6) (d : BitVec 6)
  /-- `vote.any` (R164): Predicate set in any receiving lane. -/
  | voteAny (a : BitVec 3) (d : BitVec 3)
  /-- `vote.all` (R164): Predicate set in every receiving lane. -/
  | voteAll (a : BitVec 3) (d : BitVec 3)
  /-- `vote.ballot` (R164): Predicate ballot into a uniform register. -/
  | voteBallot (a : BitVec 3) (d : BitVec 5)
  /-- `gred.add` (R165): Group sum in ascending lane order. -/
  | gredAdd (m : BitVec 2) (x : BitVec 1) (a : BitVec 6) (d : BitVec 6)
  /-- `gred.min` (R165): Group minimum. -/
  | gredMin (m : BitVec 2) (x : BitVec 1) (a : BitVec 6) (d : BitVec 6)
  /-- `gred.max` (R165): Group maximum. -/
  | gredMax (m : BitVec 2) (x : BitVec 1) (a : BitVec 6) (d : BitVec 6)
  /-- `gscan.add` (R165): Inclusive group prefix sum. -/
  | gscanAdd (m : BitVec 2) (x : BitVec 1) (a : BitVec 6) (d : BitVec 6)
  /-- `rbal` (R166): Flatten variable-length rows across lanes. -/
  | rbal (x : BitVec 1) (b : BitVec 5) (a : BitVec 6) (d : BitVec 5)
  /-- `ld` (R182): Lane load from virtual memory. -/
  | ld (m : BitVec 1) (r : BitVec 1) (l : BitVec 4) (s : BitVec 2) (i : BitVec 6) (k : BitVec 4) (d : BitVec 6)
  /-- `st` (R182): Lane store to virtual memory. -/
  | st (r : BitVec 1) (l : BitVec 4) (s : BitVec 2) (i : BitVec 6) (k : BitVec 4) (d : BitVec 6)
  /-- `ld.q` (R182): 16-byte lane load into a register quad. -/
  | ldQ (r : BitVec 1) (l : BitVec 4) (i : BitVec 6) (k : BitVec 4) (d : BitVec 4)
  /-- `st.q` (R182): 16-byte lane store from a register quad. -/
  | stQ (r : BitVec 1) (l : BitVec 4) (i : BitVec 6) (k : BitVec 4) (d : BitVec 4)
  /-- `ld.ro` (R183): Read-only load with quad-peer forwarding. -/
  | ldRo (m : BitVec 1) (r : BitVec 1) (l : BitVec 4) (s : BitVec 2) (i : BitVec 6) (k : BitVec 4) (d : BitVec 6)
  /-- `ldk` (R184): Load 4 or 8 bytes into uniform registers once per issue. -/
  | ldk (l : BitVec 4) (s : BitVec 1) (k : BitVec 4) (d : BitVec 5)
  /-- `ldl` (R185): Load 1 to 8 whole registers across every lane. -/
  | ldl (l : BitVec 4) (s : BitVec 2) (k : BitVec 4) (d : BitVec 6)
  /-- `lds` (R186): Load from the team's scratchpad. -/
  | lds (r : BitVec 1) (l : BitVec 4) (s : BitVec 2) (i : BitVec 6) (k : BitVec 5) (d : BitVec 6)
  /-- `sts` (R186): Store to the team's scratchpad. -/
  | sts (r : BitVec 1) (l : BitVec 4) (s : BitVec 2) (i : BitVec 6) (k : BitVec 5) (d : BitVec 6)
  /-- `ldsd` (R186): Load through the die scratchpad window. -/
  | ldsd (r : BitVec 1) (l : BitVec 4) (s : BitVec 2) (i : BitVec 6) (k : BitVec 5) (d : BitVec 6)
  /-- `stsd` (R186): Store through the die scratchpad window. -/
  | stsd (r : BitVec 1) (l : BitVec 4) (s : BitVec 2) (i : BitVec 6) (k : BitVec 5) (d : BitVec 6)
  /-- `pf` (R187): Prefetch lines into L1, dropped on any problem. -/
  | pf (r : BitVec 1) (l : BitVec 4) (i : BitVec 6) (k : BitVec 4)
  /-- `mwait` (R188): Wait until an 8-byte word reaches a 48-bit sequence. -/
  | mwait (l : BitVec 4) (k : BitVec 4) (d : BitVec 4)
  /-- `atom.add` (R212): Atomic add returning the old value. -/
  | atomAdd (m : BitVec 2) (y : BitVec 1) (x : BitVec 1) (b : BitVec 6) (a : BitVec 5) (d : BitVec 6)
  /-- `atom.min` (R212): Atomic minimum returning the old value. -/
  | atomMin (m : BitVec 2) (y : BitVec 1) (x : BitVec 1) (b : BitVec 6) (a : BitVec 5) (d : BitVec 6)
  /-- `atom.max` (R212): Atomic maximum returning the old value. -/
  | atomMax (m : BitVec 2) (y : BitVec 1) (x : BitVec 1) (b : BitVec 6) (a : BitVec 5) (d : BitVec 6)
  /-- `atom.and` (R212): Atomic AND returning the old value. -/
  | atomAnd (m : BitVec 2) (y : BitVec 1) (x : BitVec 1) (b : BitVec 6) (a : BitVec 5) (d : BitVec 6)
  /-- `atom.or` (R212): Atomic OR returning the old value. -/
  | atomOr (m : BitVec 2) (y : BitVec 1) (x : BitVec 1) (b : BitVec 6) (a : BitVec 5) (d : BitVec 6)
  /-- `atom.xor` (R212): Atomic XOR returning the old value. -/
  | atomXor (m : BitVec 2) (y : BitVec 1) (x : BitVec 1) (b : BitVec 6) (a : BitVec 5) (d : BitVec 6)
  /-- `atom.exch` (R212): Atomic exchange. -/
  | atomExch (m : BitVec 2) (y : BitVec 1) (x : BitVec 1) (b : BitVec 6) (a : BitVec 5) (d : BitVec 6)
  /-- `atom.cas` (R212): Atomic compare-and-swap. -/
  | atomCas (m : BitVec 2) (y : BitVec 1) (x : BitVec 1) (b : BitVec 6) (a : BitVec 5) (d : BitVec 6)
  /-- `red.add` (R212): Atomic add without return. -/
  | redAdd (m : BitVec 2) (y : BitVec 1) (x : BitVec 1) (b : BitVec 6) (a : BitVec 5)
  /-- `red.min` (R212): Atomic minimum without return. -/
  | redMin (m : BitVec 2) (y : BitVec 1) (x : BitVec 1) (b : BitVec 6) (a : BitVec 5)
  /-- `red.max` (R212): Atomic maximum without return. -/
  | redMax (m : BitVec 2) (y : BitVec 1) (x : BitVec 1) (b : BitVec 6) (a : BitVec 5)
  /-- `red.and` (R212): Atomic AND without return. -/
  | redAnd (m : BitVec 2) (y : BitVec 1) (x : BitVec 1) (b : BitVec 6) (a : BitVec 5)
  /-- `red.or` (R212): Atomic OR without return. -/
  | redOr (m : BitVec 2) (y : BitVec 1) (x : BitVec 1) (b : BitVec 6) (a : BitVec 5)
  /-- `red.xor` (R212): Atomic XOR without return. -/
  | redXor (m : BitVec 2) (y : BitVec 1) (x : BitVec 1) (b : BitVec 6) (a : BitVec 5)
  /-- `bupd.add` (R218): Element add merged in update-only lines. -/
  | bupdAdd (m : BitVec 2) (y : BitVec 1) (x : BitVec 1) (b : BitVec 6) (a : BitVec 5)
  /-- `bupd.min` (R218): Element minimum merged in update-only lines. -/
  | bupdMin (m : BitVec 2) (y : BitVec 1) (x : BitVec 1) (b : BitVec 6) (a : BitVec 5)
  /-- `bupd.max` (R218): Element maximum merged in update-only lines. -/
  | bupdMax (m : BitVec 2) (y : BitVec 1) (x : BitVec 1) (b : BitVec 6) (a : BitVec 5)
  /-- `bred.add` (R217): Element add performed at the home bank. -/
  | bredAdd (m : BitVec 2) (y : BitVec 1) (x : BitVec 1) (b : BitVec 6) (a : BitVec 5)
  /-- `bred.min` (R217): Element minimum performed at the home bank. -/
  | bredMin (m : BitVec 2) (y : BitVec 1) (x : BitVec 1) (b : BitVec 6) (a : BitVec 5)
  /-- `bred.max` (R217): Element maximum performed at the home bank. -/
  | bredMax (m : BitVec 2) (y : BitVec 1) (x : BitVec 1) (b : BitVec 6) (a : BitVec 5)
  /-- `fence` (R222): Full fence at a scope. -/
  | fence (s : BitVec 3)
  /-- `fence.acq` (R222): Acquire fence at a scope. -/
  | fenceAcq (s : BitVec 3)
  /-- `fence.rel` (R222): Release fence at a scope, flushing update-only lines. -/
  | fenceRel (s : BitVec 3)
  /-- `tfence` (R222): Full fence that also orders stores before later walks. -/
  | tfence (s : BitVec 3)
  /-- `binit` (R198): Initialise a barrier object and set its tag. -/
  | binit (w : BitVec 1) (b : BitVec 5) (a : BitVec 5)
  /-- `barv` (R199): Release, then count one arrival and evaluate. -/
  | barv (w : BitVec 1) (a : BitVec 5) (d : BitVec 5)
  /-- `bexp` (R200): Add expected transaction bytes and evaluate. -/
  | bexp (w : BitVec 1) (b : BitVec 5) (a : BitVec 5)
  /-- `btest` (R201): Test whether a barrier phase has passed. -/
  | btest (w : BitVec 1) (b : BitVec 5) (a : BitVec 5) (d : BitVec 3)
  /-- `bwait` (R202): Wait until a barrier phase passes. -/
  | bwait (w : BitVec 1) (b : BitVec 5) (a : BitVec 5)
  /-- `binval` (R203): Invalidate a barrier object and clear its tag. -/
  | binval (w : BitVec 1) (a : BitVec 5)
  /-- `tsync` (R204): Full fence and team rendezvous. -/
  | tsync
  /-- `clsync` (R205): Full fence and cluster rendezvous. -/
  | clsync
  /-- `hld` (R385): Load a reference through the barrier and heal the slot. -/
  | hld (r : BitVec 1) (l : BitVec 4) (i : BitVec 6) (k : BitVec 4) (h : BitVec 4)
  /-- `hst` (R385): Store a healed reference without its pin bit. -/
  | hst (r : BitVec 1) (l : BitVec 4) (i : BitVec 6) (k : BitVec 4) (h : BitVec 4)
  /-- `ldh` (R386): Barriered load from an object body. -/
  | ldh (m : BitVec 2) (y : BitVec 1) (b : BitVec 6) (h : BitVec 4) (d : BitVec 6)
  /-- `sth` (R386): Barriered store to an object body. -/
  | sth (m : BitVec 2) (y : BitVec 1) (x : BitVec 1) (b : BitVec 6) (a : BitVec 6) (h : BitVec 4)
  /-- `hnew` (R387): Allocate one zeroed object per acting lane. -/
  | hnew (y : BitVec 1) (x : BitVec 1) (b : BitVec 6) (a : BitVec 6) (h : BitVec 4)
  /-- `hfree` (R388): Free the objects named by a reference register. -/
  | hfree (h : BitVec 4)
  /-- `hpin` (R389): Pin objects and return raw body addresses. -/
  | hpin (h : BitVec 4) (d : BitVec 5)
  /-- `hunpin` (R389): Release the pin held by a reference register. -/
  | hunpin (h : BitVec 4)
  /-- `heq` (R390): Test whether two references name the same object. -/
  | heq (g : BitVec 4) (h : BitVec 4) (p : BitVec 3)
  /-- `htag` (R390): Read a reference's tag bits and heal it. -/
  | htag (h : BitVec 4) (d : BitVec 6)
  /-- `qla` (R280): Fill the group's A latch from a register window. -/
  | qla (l : BitVec 4) (u : BitVec 1) (f : BitVec 4) (n : BitVec 3) (a : BitVec 6)
  /-- `qzero` (R293): Set quarter tiles to zero or empty top-k lists. -/
  | qzero (l : BitVec 4) (v : BitVec 1) (t : BitVec 2) (n : BitVec 5) (q : BitVec 4) (d : BitVec 3)
  /-- `qrd` (R293): Read accumulator columns or top-k entries into registers. -/
  | qrd (l : BitVec 4) (i : BitVec 1) (n : BitVec 2) (c : BitVec 2) (r : BitVec 6) (d : BitVec 3)
  /-- `qwr` (R293): Write registers into accumulator columns. -/
  | qwr (l : BitVec 4) (t : BitVec 1) (n : BitVec 2) (c : BitVec 2) (r : BitVec 6) (d : BitVec 3)
  /-- `qrel` (R293): Release quarter tiles. -/
  | qrel (l : BitVec 4) (q : BitVec 4) (d : BitVec 3)
  /-- `qmm` (R283): Matrix multiply-accumulate of latched A against strided B. -/
  | qmm (l : BitVec 4) (z : BitVec 1) (s : BitVec 1) (k : BitVec 2) (f : BitVec 4) (q : BitVec 4) (d : BitVec 3)
  /-- `qmmg` (R283): Matrix multiply-accumulate with per-lane B column addresses. -/
  | qmmg (l : BitVec 4) (z : BitVec 1) (c : BitVec 5) (f : BitVec 4) (q : BitVec 4) (d : BitVec 3)
  /-- `qdist` (R283): Accumulate squared differences of A rows and B columns. -/
  | qdist (l : BitVec 4) (z : BitVec 1) (s : BitVec 1) (k : BitVec 2) (f : BitVec 4) (q : BitVec 4) (d : BitVec 3)
  /-- `qtopk` (R295): Merge a tile's values into top-k lists. -/
  | qtopk (l : BitVec 4) (k : BitVec 5) (q : BitVec 4) (s : BitVec 3) (d : BitVec 3)
  /-- `qatt` (R314): Attention over a window of a page list. -/
  | qatt (l : BitVec 4) (h : BitVec 4) (q : BitVec 4) (s : BitVec 3) (e : BitVec 1) (k : BitVec 2)
  /-- `qatf` (R317): Attention that also returns mass to page counters. -/
  | qatf (l : BitVec 4) (h : BitVec 4) (q : BitVec 4) (s : BitVec 3) (e : BitVec 1) (k : BitVec 2)
  /-- `qsel` (R323): Winnow selection of pages from summaries. -/
  | qsel (l : BitVec 4) (h : BitVec 4) (q : BitVec 4) (s : BitVec 3) (e : BitVec 1) (k : BitVec 2)
  /-- `mxq` (R270): Quantise FP32 or BF16 values into a packed MX run. -/
  | mxq (l : BitVec 4) (f : BitVec 3) (d : BitVec 1) (s : BitVec 1) (t : BitVec 1) (k : BitVec 2)
  /-- `mxd` (R271): Decode a packed MX run into FP32 or BF16. -/
  | mxd (l : BitVec 4) (f : BitVec 3) (d : BitVec 1) (s : BitVec 1) (t : BitVec 1) (k : BitVec 2)
  /-- `mload` (R340): Validate and load a mask program into a slot. -/
  | mload (l : BitVec 4) (k : BitVec 4) (s : BitVec 3)
  /-- `mfree` (R342): Empty a mask program slot. -/
  | mfree (l : BitVec 4) (s : BitVec 3)
  /-- `mclass` (R343): Classify one explicit tile with a slot's program. -/
  | mclass (l : BitVec 4) (q : BitVec 2) (d : BitVec 5) (s : BitVec 3)
  /-- `mstat` (R344): Read a mask-block counter or the slot bitmap. -/
  | mstat (l : BitVec 4) (d : BitVec 4) (s : BitVec 3)
  /-- `kvnew` (R367): Create an open BF16 page in an invalid entry. -/
  | kvnew (l : BitVec 4) (q : BitVec 2) (d : BitVec 5)
  /-- `kvseal` (R368): Append token rows to an open page, sealing it when full. -/
  | kvseal (l : BitVec 4) (q : BitVec 2) (d : BitVec 5)
  /-- `kvdem` (R369): Perform a page's next format step at once. -/
  | kvdem (l : BitVec 4) (q : BitVec 2) (d : BitVec 5)
  /-- `kvdem.inv` (R369): Invalidate a page and release its object. -/
  | kvdemInv (l : BitVec 4) (q : BitVec 2) (d : BitVec 5)
  /-- `kvcold` (R369): Move a sealed MXFP4 page to the cold tier at once. -/
  | kvcold (l : BitVec 4) (q : BitVec 2) (d : BitVec 5)
  /-- `kvq` (R370): Read a pool's sweep counts. -/
  | kvq (l : BitVec 4) (q : BitVec 2) (d : BitVec 4) (s : BitVec 3)
  /-- `kvpol.reg` (R371): Register a pool for the issuing queue. -/
  | kvpolReg (l : BitVec 4) (q : BitVec 2) (d : BitVec 5)
  /-- `kvpol.sweep` (R371): Release and queue one sweep of a pool. -/
  | kvpolSweep (l : BitVec 4) (q : BitVec 2) (d : BitVec 5)
  /-- `kvpol.unreg` (R371): Unregister a pool, dropping its sweeps. -/
  | kvpolUnreg (l : BitVec 4) (q : BitVec 2) (d : BitVec 5)
  /-- `kvpol.set` (R371): Reload a pool's policy fields. -/
  | kvpolSet (l : BitVec 4) (q : BitVec 2) (d : BitVec 5)
  /-- `cpy` (R406): Start a linear copy operation. -/
  | cpy (l : BitVec 4) (k : BitVec 3) (t : BitVec 1) (b : BitVec 1) (d : BitVec 1) (s : BitVec 1) (q : BitVec 2)
  /-- `cpy2d` (R406): Start a two-dimensional copy operation. -/
  | cpy2d (l : BitVec 4) (k : BitVec 3) (t : BitVec 1) (b : BitVec 1) (d : BitVec 1) (s : BitVec 1) (q : BitVec 2)
  /-- `cpym` (R407): Start a multicast copy to cluster receivers. -/
  | cpym (l : BitVec 4) (k : BitVec 3) (t : BitVec 1) (b : BitVec 1) (s : BitVec 1) (q : BitVec 2)
  /-- `cpyc` (R424): Start a transfer chain on a team channel. -/
  | cpyc (l : BitVec 4) (k : BitVec 3) (t : BitVec 1) (a : BitVec 4) (c : BitVec 2)
  /-- `cpyst` (R427): Read a chain channel's state. -/
  | cpyst (l : BitVec 4) (d : BitVec 4) (c : BitVec 2)
  /-- `cpyx` (R428): Cancel a chain. -/
  | cpyx (l : BitVec 4) (c : BitVec 2)
  /-- `lld` (R437): Remote load into lane registers. -/
  | lld (l : BitVec 4) (d : BitVec 6) (a : BitVec 5) (p : BitVec 4) (z : BitVec 2)
  /-- `lgat` (R438): Gather remote rows into scratchpad. -/
  | lgat (l : BitVec 4) (d : BitVec 3) (a : BitVec 5) (p : BitVec 4) (q : BitVec 2) (n : BitVec 1)
  /-- `lwr` (R439): Write a local range to a peer. -/
  | lwr (l : BitVec 4) (p : BitVec 4) (q : BitVec 2) (s : BitVec 1) (t : BitVec 1) (r : BitVec 1) (k : BitVec 3)
  /-- `lred` (R439): Add a local range element-wise into peer memory. -/
  | lred (l : BitVec 4) (p : BitVec 4) (q : BitVec 2) (s : BitVec 1) (t : BitVec 1) (r : BitVec 1) (k : BitVec 3) (y : BitVec 2)
  /-- `mxr` (R443): Exact MX sum across the ranks of a collective. -/
  | mxr (l : BitVec 4) (f : BitVec 3) (q : BitVec 2) (t : BitVec 1) (k : BitVec 3)
  /-- `dlaunch` (R467): Append a launch record to a permitted queue's ring. -/
  | dlaunch (l : BitVec 4) (d : BitVec 5) (a : BitVec 4) (b : BitVec 5)
  /-- `qsig` (R468): Raise a permitted queue's events. -/
  | qsig (l : BitVec 4) (b : BitVec 5)
  /-- `bra` (R167): Relative branch, dividing or serialising the split. -/
  | bra (o : BitVec 19) (h : BitVec 2) (n : BitVec 1) (p : BitVec 3)
  /-- `call` (R169): Direct call pushing per-lane return addresses. -/
  | call (o : BitVec 19)
  /-- `trap` (R174): Trap with code 0x02 and an operand. -/
  | trap (n : BitVec 6)
  /-- `snap` (R174): Raise the snapshot trigger if enabled. -/
  | snap
  /-- `csrr` (R140): Read a placement register into a uniform register. -/
  | csrr (s : BitVec 6) (d : BitVec 5)
  /-- `clock` (R174): Read the 64-bit cycle counter at one moment. -/
  | clock (d : BitVec 4)
  /-- `jmp` (R170): Indirect jump to per-lane targets. -/
  | jmp (x : BitVec 1) (a : BitVec 5)
  /-- `call` (R170): Indirect call to per-lane targets. -/
  | callIndirect (x : BitVec 1) (a : BitVec 5)
  /-- `ext` (R54): Immediate extension prefix of the following instruction. -/
  | extImm (p : BitVec 23)
  /-- `ext` (R54): Register extension prefix: third source or lookahead. -/
  | extReg (p : BitVec 23)
  /-- `mov` (R55): 16-bit lane register copy. -/
  | mov16 (b : BitVec 5) (d : BitVec 5)
  /-- `add` (R55): 16-bit two-address add. -/
  | add16 (b : BitVec 5) (d : BitVec 5)
  /-- `sub` (R55): 16-bit two-address subtract. -/
  | sub16 (b : BitVec 5) (d : BitVec 5)
  /-- `mul` (R55): 16-bit two-address low multiply. -/
  | mul16 (b : BitVec 5) (d : BitVec 5)
  /-- `and` (R55): 16-bit two-address AND. -/
  | and16 (b : BitVec 5) (d : BitVec 5)
  /-- `or` (R55): 16-bit two-address OR. -/
  | or16 (b : BitVec 5) (d : BitVec 5)
  /-- `xor` (R55): 16-bit two-address XOR. -/
  | xor16 (b : BitVec 5) (d : BitVec 5)
  /-- `andn` (R55): 16-bit two-address AND NOT. -/
  | andn16 (b : BitVec 5) (d : BitVec 5)
  /-- `shl` (R55): 16-bit two-address shift left. -/
  | shl16 (b : BitVec 5) (d : BitVec 5)
  /-- `shr` (R55): 16-bit two-address logical shift right. -/
  | shr16 (b : BitVec 5) (d : BitVec 5)
  /-- `sra` (R55): 16-bit two-address arithmetic shift right. -/
  | sra16 (b : BitVec 5) (d : BitVec 5)
  /-- `min` (R55): 16-bit two-address signed minimum. -/
  | min16 (b : BitVec 5) (d : BitVec 5)
  /-- `max` (R55): 16-bit two-address signed maximum. -/
  | max16 (b : BitVec 5) (d : BitVec 5)
  /-- `fadd` (R55): 16-bit two-address FP32 add. -/
  | fadd16 (b : BitVec 5) (d : BitVec 5)
  /-- `fmul` (R55): 16-bit two-address FP32 multiply. -/
  | fmul16 (b : BitVec 5) (d : BitVec 5)
  /-- `fmax` (R55): 16-bit two-address FP32 maximum. -/
  | fmax16 (b : BitVec 5) (d : BitVec 5)
  /-- `nop` (R56): Occupies one issue slot. -/
  | nop
  /-- `join` (R116): Merge point of splits, resuming deferred lanes. -/
  | join
  /-- `yield` (R173): Skip the group for one cycle and leave the active set. -/
  | yield
  /-- `exit` (R172): End the acting lanes; may end split, group and team. -/
  | exit
  /-- `ret` (R171): Return by popping each lane's return stack. -/
  | ret
  /-- `?pN` (R57): Guard prefix restricting the unit to guarded lanes. -/
  | guard (n : BitVec 1) (p : BitVec 3)
  /-- `ILLEGAL_INSTRUCTION` (R70): An illegal unit reaches issue and traps 0x01 with no effect. -/
  | illegalInstruction
  /-- `FAULT_RECORD_WRITE` (R240): A fault record is written to the fault ring, waiting while the ring is full. -/
  | faultRecordWrite (f : Nat)
  /-- `TRAP_RECORD_WRITE` (R132): After the save, a trap record is written and the queue policy applied. -/
  | trapRecordWrite (t : Nat)
  /-- `TEAM_FILL_COMPLETE` (R110): A FILLING slot's team is fully present and becomes SHADOW. -/
  | teamFillComplete (core slot : Nat)
  /-- `DRAIN_COMPLETE` (R127): Every issued unit of a draining team has ended. -/
  | drainComplete (core slot : Nat)
  /-- `CONTEXT_SAVE_COMPLETE` (R129): A team's frame is written and the slot becomes EMPTY. -/
  | contextSaveComplete (core slot : Nat)
  /-- `ACTIVE_SET_EXCHANGE` (R112): Groups are exchanged between active set and team at the 256-cycle limit. -/
  | activeSetExchange (core : Nat) (groups : List Nat)
  /-- `JOIN_WAIT_TIMEOUT` (R117): A split waiting at a join is released after 2,048 cycles. -/
  | joinWaitTimeout (team group split : Nat)
  /-- `MWAIT_REREAD` (R188): mwait re-reads its word on a slice write report or every 4,096 cycles. -/
  | mwaitReread (team group split : Nat)
  /-- `BARRIER_DECREMENT` (R417): An engine applies a transaction-byte decrement piece to a barrier. -/
  | barrierDecrement (op pos bytes : Nat)
  /-- `UPDATE_ONLY_TIMEOUT` (R219): An update-only line is flushed 1,024 cycles after its first update. -/
  | updateOnlyTimeout (core line : Nat)
  /-- `MIGRATION_PRECOPY_DONE` (R233): All lines of a migrating page have been copied once. -/
  | migrationPrecopyDone (g : Nat)
  /-- `MIGRATION_RECOPY_DONE` (R233): A recopy round ends; the migrator recopies again or enters FINAL. -/
  | migrationRecopyDone (g : Nat)
  /-- `MIGRATION_FLIP` (R233): Remaining dirty lines are copied and the leaf compare-and-swap is tried. -/
  | migrationFlip (g : Nat)
  /-- `MIGRATION_INVAL_ACK` (R233): The invalidation is acknowledged; held writes go to the destination. -/
  | migrationInvalAck (g : Nat)
  /-- `MIGRATION_HOLD_TIMEOUT` (R233): A hold that would pass 6,000 cycles abandons the migration. -/
  | migrationHoldTimeout (g : Nat)
  /-- `HOST_WRITE` (R108): A host posted write arrives over PCI Express. -/
  | hostWrite (at_ : Nat) (bytes : List Byte)
  /-- `HOST_READ` (R108): A host read arrives over PCI Express. -/
  | hostRead (at_ n : Nat)
  /-- `PASS_GRANT` (R290): The Quern arbiter grants a fused pass led by the leader. -/
  | passGrant (quern : Nat)
  /-- `FUSION_WAIT_EXPIRY` (R290): The arbiter's wait of up to 64 cycles for further fusion ends. -/
  | fusionWaitExpiry (quern : Nat)
  /-- `PASS_COMMIT` (R285): A pass ends and commits its quarter tiles whole. -/
  | passCommit (quern : Nat)
  /-- `ATTENTION_COMPLETE` (R319): An attention unit writes outputs, counters, audit and mass merges. -/
  | attentionComplete (op : Nat)
  /-- `CONVERSION_COMPLETE` (R273): mxq or mxd has performed every destination byte. -/
  | conversionComplete (op : Nat)
  /-- `OBJECT_FREE` (R33): A released object is freed once every report passes its e_rel. -/
  | objectFree (r : Nat)
  /-- `SWEEP_INTERVAL_START` (R354): A periodic sweep starts when its interval expires. -/
  | sweepIntervalStart (pool : Nat)
  /-- `SWEEP_REQUEST_START` (R354): A queued requested sweep starts after the previous one. -/
  | sweepRequestStart (pool : Nat)
  /-- `SWEEP_VISIT` (R355): The Thresher decays one entry's counter and decides a step. -/
  | sweepVisit (pool : Nat)
  /-- `COLD_MOVE_COPY_DONE` (R359): The Gleaner's cold copy ends; tier and ref are published. -/
  | coldMoveCopyDone (pool : Nat)
  /-- `SWEEP_COMPLETE` (R356): A sweep ends, writes its counts and its stamp. -/
  | sweepComplete (pool : Nat)
  /-- `DIRECTORY_TAKEUP` (R366): The Thresher takes up a directory form's change and rechecks it. -/
  | directoryTakeup (op : Nat)
  /-- `DIRECTORY_BUSY_TIMEOUT` (R366): A change not begun within 8,192 cycles returns status busy. -/
  | directoryBusyTimeout (op : Nat)
  /-- `WRITE_COMBINE_TIMEOUT` (R363): A write-combining entry closes after wc_timeout cycles. -/
  | writeCombineTimeout (entry : Nat)
  /-- `RELOC_AUTO_START` (R392): A relocation cycle starts automatically on the heap trigger. -/
  | relocAutoStart (q : Nat) (set : List (Nat × Nat))
  /-- `RELOC_COPY_DONE` (R392): All lines of a relocation cycle are copied. -/
  | relocCopyDone (q : Nat)
  /-- `RELOC_RECOPY_DONE` (R392): A relocation recopy round ends. -/
  | relocRecopyDone (q : Nat)
  /-- `RELOC_FLIP` (R392): Forwarding entries flip and ce is raised. -/
  | relocFlip (q : Nat)
  /-- `RELOC_FINAL_TIMEOUT` (R392): A relocation abandons 6,000 cycles after entering FINAL. -/
  | relocFinalTimeout (q : Nat)
  /-- `RELOC_ACK` (R392): Every core has performed its old-epoch accesses; held accesses proceed. -/
  | relocAck (q : Nat)
  /-- `HEAL_PASS_COMPLETE` (R395): The Gleaner's heal pass ends and the cycle returns to IDLE. -/
  | healPassComplete (q : Nat)
  /-- `COPY_OPERATION_COMPLETE` (R412): A copy operation ends and writes its stamp. -/
  | copyOperationComplete (op : Nat)
  /-- `MULTICAST_DELIVERY` (R418): A multicast delivery lands in a receiver's allocation or image. -/
  | multicastDelivery (op pos : Nat)
  /-- `CHAIN_RECORD_FETCH` (R426): A chain channel reads its next transfer record. -/
  | chainRecordFetch (team ch : Nat)
  /-- `CHAIN_WAIT_TIMEOUT` (R426): A waiting channel re-reads after a write or 4,096 cycles. -/
  | chainWaitTimeout (team ch : Nat)
  /-- `CHAIN_RECORD_COMPLETE` (R426): A record ends, writing its stamp and write-back. -/
  | chainRecordComplete (team ch : Nat)
  /-- `FLIT_ARRIVAL` (R432): A link flit arrives at a port and is checked. -/
  | flitArrival (port : Nat) (header : BitVec 160) (payload : List Byte) (checkOk : Bool)
  /-- `PEER_REQUEST` (R441): A peer's request is performed at the remote home slices. -/
  | peerRequest (r : PeerReq)
  /-- `PORT_FAILURE` (R435): A port's credits stall 4,096 cycles or its lanes go down; requests resend. -/
  | portFailure (port : Nat)
  /-- `LINK_RETRY_TIMEOUT` (R435): A request fails 2^20 cycles after it was first sent. -/
  | linkRetryTimeout (op lane : Nat)
  /-- `LINK_OPERATION_COMPLETE` (R440): A link operation ends and writes its stamp. -/
  | linkOperationComplete (op : Nat)
  /-- `MXR_TIMEOUT` (R444): Ranks missing at tmo end the collective with cause 7. -/
  | mxrTimeout (op : Nat)
  /-- `DOORBELL` (R448): A doorbell write moves a queue's ltail forward. -/
  | doorbell (q : Nat) (v : DWord)
  /-- `LAUNCH_RECORD_READ` (R451): The distributor reads and checks a launch record. -/
  | launchRecordRead (q : Nat)
  /-- `DEPENDENCE_REREAD` (R453): A dependence word is re-read on a write or every 4,096 cycles. -/
  | dependenceReread (q : Nat)
  /-- `TEAM_PLACEMENT` (R458): A ready team is placed on a core along the curve. -/
  | teamPlacement (team : Nat)
  /-- `GANG_PLACEMENT` (R459): A cluster or resident-only grid is placed at once on a rectangle. -/
  | gangPlacement (team : Nat)
  /-- `WAITING_LEVEL_AGE` (R456): An unplaced team's effective level rises after 65,536 cycles. -/
  | waitingLevelAge (team : Nat)
  /-- `GANG_FIRST_AGE` (R461): A waiting gang's candidate rectangles are reserved after 65,536 cycles. -/
  | gangFirstAge (team : Nat)
  /-- `GANG_SECOND_AGE` (R461): After 1,048,576 cycles residents are pre-empted to fit the gang. -/
  | gangSecondAge (team : Nat)
  /-- `TIME_SLICE_EXPIRY` (R464): An equal-level SHADOW team takes the core after 1,048,576 cycles. -/
  | timeSliceExpiry (core : Nat)
  /-- `NO_ROOM_EVICTION` (R464): A team without room for 4,096 cycles evicts a lower-level resident. -/
  | noRoomEviction (team : Nat)
  /-- `GRID_COMPLETE` (R455): A grid completes: release, events, stamp and interrupt. -/
  | gridComplete (grid : Nat)
  /-- `IDENT` (R473): Report form, cold capacity, serial, version and spares. -/
  | ident (c : Cmd)
  /-- `CLAIM` (R474): Take ownership when there is no owner. -/
  | claim (c : Cmd)
  /-- `HANDOVER` (R475): Make the owner read-only and name a target. -/
  | handover (c : Cmd)
  /-- `ATTEST` (R478): Write a doubly signed attestation report. -/
  | attest (c : Cmd)
  /-- `LOADIMG` (R477): Stage and check a signed firmware image. -/
  | loadimg (c : Cmd)
  /-- `RESET` (R473): Kill every grid, reply, then reset and bring up. -/
  | reset (c : Cmd)
  /-- `QCREATE` (R473): Create a queue descriptor and zero its rings and mask block. -/
  | qcreate (c : Cmd)
  /-- `QSTOP` (R473): Set a queue stopping. -/
  | qstop (c : Cmd)
  /-- `QSTOP_DESTROY` (R473): Stop a queue and destroy it once its grids end. -/
  | qstopDestroy (c : Cmd)
  /-- `QUEUE_DESTROY_COMPLETE` (R473): A destroyed queue's grids have ended; qstate 0 and second reply. -/
  | queueDestroyComplete (q : Nat)
  /-- `ASGEN` (R230): Raise a queue's address-space generation. -/
  | asgen (c : Cmd)
  /-- `INVPAGE` (R231): Single-page invalidation, replying at acknowledgement. -/
  | invpage (c : Cmd)
  /-- `GRANTREF` (R235): Refresh a queue's cached grant set. -/
  | grantref (c : Cmd)
  /-- `FAULTANS_RETRY` (R135): Answer a fault record so the team may replay. -/
  | faultansRetry (c : Cmd)
  /-- `FAULTANS_KILL` (R473): Answer a fault record by killing the grid. -/
  | faultansKill (c : Cmd)
  /-- `RESUME_SKIP` (R138): Resume a parked team, skipping the trapping unit. -/
  | resumeSkip (c : Cmd)
  /-- `RESUME_RETRY` (R138): Resume a parked team, retrying the trapping unit. -/
  | resumeRetry (c : Cmd)
  /-- `RESUME_END` (R138): End a parked team and kill its grid. -/
  | resumeEnd (c : Cmd)
  /-- `PREEMPT` (R464): Pre-empt every resident team of a grid by command. -/
  | preempt (c : Cmd)
  /-- `FRAMEREL` (R137): Free a frame kept after a kill, with its pins. -/
  | framerel (c : Cmd)
  /-- `HEAPBIND` (R373): Bind a heap descriptor to a queue. -/
  | heapbind (c : Cmd)
  /-- `HEAPBIND_UNBIND` (R473): Unbind a queue's heap. -/
  | heapbindUnbind (c : Cmd)
  /-- `RELOC` (R490): Start one relocation cycle by command. -/
  | reloc (c : Cmd) (set : List (Nat × Nat))
  /-- `MIGRATE` (R233): Start a page migration between tiers. -/
  | migrate (c : Cmd)
  /-- `PEERBIND` (R430): Bind a peer slot once the remote firmware agrees. -/
  | peerbind (c : Cmd)
  /-- `ROUTE` (R473): Replace the peer route table. -/
  | route (c : Cmd)
  /-- `QREAD` (R473): Copy a queue descriptor to the host. -/
  | qread (c : Cmd)
  /-- `SNAPCFG` (R482): Enable snapshot trigger sources. -/
  | snapcfg (c : Cmd)
  /-- `SNAPTRIG` (R481): Raise the common snapshot trigger. -/
  | snaptrig (c : Cmd)
  /-- `SNAPREAD` (R473): Copy the held snapshot to the host. -/
  | snapread (c : Cmd)
  /-- `SNAPREL` (R482): Release the held snapshot. -/
  | snaprel (c : Cmd)
  /-- `RELREP` (R473): Write the reliability report. -/
  | relrep (c : Cmd)
  /-- `RETIRE` (R483): Retire the core at a logical position. -/
  | retire (c : Cmd)
  /-- `PWRCAP` (R487): Set the module power cap. -/
  | pwrcap (c : Cmd)
  /-- `THERM` (R473): Report junction temperature and module power. -/
  | therm (c : Cmd)
  /-- `UNKNOWN_COMMAND` (R473): A command with an unlisted op replies status 3. -/
  | unknownCommand (c : Cmd) (op : BitVec 16)
  /-- `REGISTER_WRITE` (R470): A write to a BAR 0 register without behaviour of its own. -/
  | registerWrite (off : Nat) (v : DWord)
  /-- `SNAPSHOT_LATCH` (R481): Every engine's snapshot registers latch at the named cycle. -/
  | snapshotLatch
  /-- `OWNERSHIP_LAPSE` (R474): Ownership lapses after the owner's path is down 1 s. -/
  | ownershipLapse
  /-- `HANDOVER_TIMEOUT` (R475): Ownership returns to the issuer 100 ms after an unclaimed handover. -/
  | handoverTimeout
  /-- `POWER_ON` (R485): Power-on runs the ROM bring-up sequence. -/
  | powerOn (imageOk coldOk : Bool)
  /-- `CORE_FAILURE` (R483): A core fails self-test or its registers; it is retired and a spare mapped. -/
  | coreFailure (core : Nat)
  /-- `HBM_CHANNEL_FAILURE` (R484): A failing HBM4E channel is moved onto a spare. -/
  | hbmChannelFailure (stack channel : Nat)
  /-- `LINK_LANE_FAULT` (R484): A link lane fault engages the spare or reduces port width. -/
  | linkLaneFault (port : Nat)
  /-- `THERMAL_LIMIT` (R487): A power or temperature limit crossing changes the clock. -/
  | thermalLimit (temp watts : Nat)
  /-- `THERMAL_SHUTDOWN` (R487): Junction temperature of 110 °C shuts the device down. -/
  | thermalShutdown
  /-- `POWER_DOWN` (R485): The device loses power: no domain stays powered, and only the image store, with its LMS leaf index, keeps its contents. -/
  | powerDown
  /-- `PCIE_LINK_DOWN` (R474): The PCI Express link goes down, which starts the 1 s count after which the host's ownership lapses. -/
  | pcieLinkDown
  /-- `PCIE_LINK_UP` (R474): The PCI Express link comes back up, which ends the owner's path-down interval before ownership lapses. -/
  | pcieLinkUp
  deriving DecidableEq, Repr

end Sys2Proof
end

