-- ==== Sys2Proof/Machine/Data.lean ====
section
/-! DEFINITION. The pieces of state: records of plain data, named as the manual names them. -/

namespace Sys2Proof.Machine

open Sys2Proof

/-! ### Core (04, 05, 06) -/

/-- One lane register name's value: 32 words, one per lane (02 R62). -/
abbrev Lanes := List Word

/-- A translation as a walk found it (07 R180, R225, R229): the page, its leaf entry and the tag. -/
structure Xlat where
  base : Nat
  size : Nat
  leaf : DWord
  leafAt : PAddr
  asid : Nat
  gen : Nat
  deriving DecidableEq, Repr

/-- A pointer entry of a page table in a die's walk cache (07 R229): its tag, its level, the address bits above its index's lowest, and the
table that it names. -/
structure WalkEnt where
  asid : Nat
  gen : Nat
  level : Nat
  pre : Nat
  table : PAddr
  deriving DecidableEq, Repr

/-- An older value of 8 aligned bytes that `ld.ro` and instruction fetch of a grid can still meet (03 R85), and whether they meet it now. -/
structure Past where
  grid : Nat
  unit : Nat
  value : Nat
  on : Bool
  deriving DecidableEq, Repr

/-- A deferral-stack entry (04 R113, R115, R116). -/
inductive StackEnt where
  | defer (pc : DWord) (lanes : BitVec 32)
  | merge (at_ : DWord) (lanes : BitVec 32)
  deriving DecidableEq, Repr

/-- What a split is inside of, when it is not ready (04 R112, R117; 06 R202, R204, R205). `npc` is the unit after. A `bwait` keeps the offset
and the phase it read at issue; it is `counted` in its object's waiters until it is abandoned at a drain (04 R127). -/
inductive Wait where
  | none
  | join (at_ : DWord) (since : Nat)
  | bwait (o : Nat) (phase : Nat) (window counted : Bool) (npc : DWord)
  | tsync (npc : DWord)
  | clsync (npc : DWord)
  deriving DecidableEq, Repr

/-- A replay record (04 R127): the unit as fetched, and the registers as it read them when it first issued. -/
structure Replay where
  halves : List (BitVec 16)
  v : Tab Lanes
  k : Tab Word
  p : Tab (BitVec 32)
  h : Tab (List DWord)
  deriving DecidableEq, Repr

/-- A split (04 R113); `windows` are the lookahead windows still open: operation and units left (02 R60). `replay` is the record of the unit
at its program counter, where that unit faulted (04 R127, R135). -/
structure Split where
  pc : DWord
  mask : BitVec 32
  idx : Nat
  stack : List StackEnt
  wait : Wait
  windows : List (Nat × Nat)
  replay : Option Replay
  deriving DecidableEq, Repr

/-- The states of a quarter tile (09 R275). -/
inductive TileKind where
  | f32 | i32
  | topk (kk : Nat) (wantMax : Bool) (int : Bool)
  deriving DecidableEq, Repr

/-- A quarter tile that is not RELEASED: 8 rows of 32 elements, or 8 lists of (value, index) entries (09 R275). -/
structure Tile where
  kind : TileKind
  elems : List (List Word)
  lists : List (List (Word × Word))
  deriving DecidableEq, Repr

/-- A full A latch (09 R278, R280): format, k-blocks, reuse flag, and each lane's row: its data bytes and its scale bytes. -/
structure Latch where
  afmt : QFmt
  nb : Nat
  ru : Bool
  rows : List (List Byte × List Byte)
  deriving DecidableEq, Repr

/-- A group (02 R62, 04 R113, R120). Names that hold no value are absent from `v`; `k`, `p`, `h` default to zero. -/
structure Group where
  num : Nat
  v : Tab Lanes
  k : Tab Word
  p : Tab (BitVec 32)
  h : Tab (List DWord)
  ret : Tab (List DWord)
  splits : List Split
  tiles : Tab Tile
  latch : Option Latch
  lastPage : Tab Xlat
  /-- Dirty bits since the last checkpoint (04 R129): 0 to 63 lane names, 64 to 95 uniform, 96 to 103 predicate, 104 to 119
  reference registers, 120 to 127 accumulator handles. -/
  dirty : List Nat
  /-- A unit of the group trapped: the group issues no further unit (04 R132). -/
  stopped : Bool
  /-- Of each division by `bra` of which neither half has issued: the split that its hint lets issue first, and the one that waits for it
  (02 R61). -/
  hints : List (Nat × Nat)
  deriving DecidableEq, Repr

/-- Core-side slot states (04 R110). -/
inductive SlotState where
  | empty | filling | shadow | running | draining | saving
  deriving DecidableEq, Repr

/-- Why a team left RUNNING (04 R110, R127, R132, R135, 16 R463). -/
inductive Cause where
  | preempt | fault | trap | retire
  deriving DecidableEq, Repr

/-- A context slot (04 R110): its team's key, when it took its present state, and whether the distributor retains it. -/
structure Slot where
  st : SlotState
  team : Nat
  since : Nat
  retain : Bool
  /-- A SHADOW slot whose eviction waits for the streaming path, or a FILLING slot to be evicted when it is filled. -/
  evict : Bool
  deriving DecidableEq, Repr

/-- A range-lock entry (06 R192): a range rounded to 64 bytes, its kind (an address space, or scratchpad offsets), whether
the operation writes it, the issuing team and the operation that holds it. -/
structure RangeLock where
  lo : Nat
  hi : Nat
  asid : Option Nat
  write : Bool
  team : Nat
  op : Nat
  deriving DecidableEq, Repr

/-- An update-only line (07 R218): op 0 add, 1 min, 2 max; elements touched with their partial values. -/
structure UpdLine where
  pa : PAddr
  op : Nat
  ty : Nat
  elems : Tab Word
  first : Nat
  team : Nat
  /-- For an invalidation or a generation raise that covers the line (07 R219): the virtual lines under which it was updated. -/
  asid : Nat
  vas : List Nat
  deriving DecidableEq, Repr

/-- A core (04, 06 R192, 07 R218, R229). -/
structure Core where
  slots : List Slot
  locks : List RangeLock
  upd : List UpdLine
  tlb : List Xlat
  active : List Nat
  /-- Being retired: it takes no team while those it holds drain (17 R483). -/
  retiring : Bool
  /-- Retired and unplaced: no slots (17 R483). -/
  gone : Bool
  deriving DecidableEq, Repr

/-! ### Teams (04, 14, 16) -/

/-- Distributor states (16 R463). -/
inductive TeamState where
  | ready | resident | faulted | parked | ended | failed
  deriving DecidableEq, Repr

/-- A trap as it stands until its record is written (04 R132, R133). -/
structure Trap where
  code : Nat
  detail0 : DWord
  detail1 : DWord
  unit : DWord
  npc : DWord
  cycle : Nat
  lanes : BitVec 32
  splitLanes : BitVec 32
  group : Nat
  split : Nat
  defer : Nat
  core : Nat
  drain : Bool
  /-- The engine operation that trapped, 0 for a unit at its own program counter (04 R127, R138). -/
  op : Nat
  /-- Address space generation at the trap (04 R133). -/
  gen : Nat
  deriving DecidableEq, Repr

/-- Chain channel states (14 R426). -/
inductive ChState where
  | idle | fetch | run | wait | halt
  deriving DecidableEq, Repr

/-- A latched stamp block (14 R405): address and 48-bit sequence. -/
structure StampTo where
  va : DWord
  seq : Nat
  deriving DecidableEq, Repr

/-- A chain channel (14 R403, R426). `flags` are the OR of the records' status bits. -/
structure Channel where
  st : ChState
  at_ : DWord
  cause : Nat
  stamp : Option StampTo
  flags : Nat
  cancel : Bool
  since : Nat
  /-- The record operation in flight, 0 for none. -/
  op : Nat
  /-- The fault record that the channel waits on, 0 for none; the address that was walked again after its answer, plus 1 (14 R414). -/
  fault : Nat
  retried : Nat
  /-- The record as the last fetch read it, and the 128 bytes of its line. -/
  word : Nat
  line : Nat
  /-- The chain has appended its event of denied source bytes (14 R402, R415: one for the operation). -/
  audited : Bool
  /-- The state that the chain stamp's write leads to; none while the chain runs. -/
  ending : Option ChState
  /-- The `cpyc` unit: its address, core, group and split. -/
  unit : DWord
  core : Nat
  group : Nat
  split : Nat
  deriving DecidableEq, Repr

/-! ### Launch records, grids and queues (16) -/

/-- The fields of a launch record (16 R449), decoded: shapes, `groups`, `peak` and `min` without their minus 1, `spad` in
bytes, `ctab` as an address. -/
structure Launch where
  entry : DWord
  args : DWord
  depAddr : DWord
  doneAddr : DWord
  depSeq : Nat
  evCount : Nat
  evQueue : Nat
  prio : Nat
  ntx : Nat
  nty : Nat
  ntz : Nat
  ctab : Nat
  curve : Nat
  resonly : Bool
  clustered : Bool
  cw : Nat
  ch : Nat
  groups : Nat
  spad : Nat
  peak : Nat
  min : Nat
  kfirst : Nat
  kn : Nat
  evOn : Bool
  deriving DecidableEq, Repr

/-- A launched or refused grid (16 R451, R455). -/
structure Grid where
  queue : Nat
  launch : Launch
  /-- Words of the argument block and of a user curve table (16 R454, R457). -/
  args : List Word
  table : List Nat
  refused : Bool
  killed : Bool
  failed : Bool
  /-- The package core on which the grid's previous team was placed (16 R458). -/
  prev : Option Nat
  /-- The team whose frame is kept after a kill (04 R137). -/
  kept : Option Nat
  /-- It has completed (16 R455). -/
  done : Bool
  deriving DecidableEq, Repr

/-- The record that a queue waits on: its ring index, grid identifier, user table and the dependences met (16 R451, R453, R457). -/
structure Waiting where
  index : Nat
  grid : Nat
  launch : Launch
  table : List Nat
  stampMet : Bool
  eventMet : Bool
  deriving DecidableEq, Repr

/-- A queue descriptor (16 R446); `at_` is its physical address. The consumer indices stand in its memory (log 10). -/
structure Queue where
  at_ : PAddr
  fbytes : Nat
  frames : PAddr
  heap : DWord
  ptab : PAddr
  mblock : PAddr
  tring : PAddr
  fring : PAddr
  aring : PAddr
  lring : PAddr
  grant : PAddr
  ptroot : PAddr
  events : Nat
  alost : Nat
  tprod : Nat
  fprod : Nat
  aprod : Nat
  lhead : Nat
  ltail : Nat
  dlOwner : Nat
  dlEn : Bool
  policy : Bool
  roOk : Bool
  irqEn : Bool
  pmax : Nat
  llog : Nat
  alog : Nat
  flog : Nat
  tlog : Nat
  qstate : Nat
  identity : BitVec 32
  asid : Nat
  gen : Nat
  /-- The record whose dependences are awaited. -/
  waiting : Option Waiting
  /-- Ignored doorbell values, counted in the firmware's queue status (16 R448). -/
  ignored : Nat
  /-- A destroy command waits for the grids to end: its master and tag (17 R473). -/
  destroy : Option (Master × BitVec 32)
  /-- The grant set as cached, at the last refresh (07 R235): physical addresses of bytes with their values. -/
  grants : Tab Byte
  deriving DecidableEq, Repr

/-- A team: the unit of placement (01 R19, 16 R463). -/
structure Team where
  queue : Nat
  grid : Nat
  teamid : Nat
  st : TeamState
  groups : Tab Group
  core : Nat
  slot : Nat
  spadOff : Nat
  spadSize : Nat
  budget : Nat
  saves : Nat
  faults : Nat
  cause : Cause
  /-- Arrivals of the present `tsync` round, by group, and of `clsync`, by group (06 R204, R205). -/
  arrived : List Nat
  clArrived : List Nat
  channels : List Channel
  traps : List Trap
  /-- Fault records of the present save not yet answered (04 R135). -/
  pending : Nat
  /-- PARK waits for a resume (04 R138); a resume that came first leaves only answers to wait for. -/
  resumed : Bool
  /-- A frame is reserved, and its address; the barrier tags of the scratchpad image while saved (04 R130). -/
  framed : Bool
  frame : PAddr
  imageTags : List Nat
  saved : Bool
  /-- Released range-lock entries of a saved team stay in force (03 R100). -/
  locks : List RangeLock
  /-- Since when it waits to be placed, its raised levels, when it was placed (16 R456, R461). -/
  readySince : Nat
  /-- When it last gave up its slot to its frame (16 R460). -/
  savedAt : Nat
  levelUp : Nat
  aged : Nat
  placedAt : Nat
  exempt : Bool
  /-- Cycles run before the present stay in RUNNING (04 R117: running time). -/
  ran : Nat
  /-- Groups and splits whose units wait for registers, in the order in which they asked (04 R123). -/
  requests : List (Nat × Nat)
  /-- The queue as it stood when its number was given up, for chains that outlive it (01 R22, 14 R426). -/
  own : Option Queue
  deriving DecidableEq, Repr

/-! ### Records waiting (07 R240, 04 R132) -/

/-- Who waits on a fault record (04 R135, 12 R491, 14 R414). -/
inductive Faulter where
  | team (key : Nat)
  | op (id : Nat)
  | channel (team ch : Nat)
  | pool (id : Nat)
  /-- The heal pass of a queue's heap (13 R395). -/
  | heal (queue : Nat)
  deriving DecidableEq, Repr

/-- A fault record (07 R241): its bits [511:0] without `seq`, which the write fills in. -/
structure FaultRec where
  queue : Nat
  bits : Nat
  who : Faulter
  /-- Ring sequence number once written (16 R447). -/
  seq : Option Nat
  deriving DecidableEq, Repr

/-- A trap record not of a unit, or of a unit whose team is saved, waiting for the ring (04 R132, 16 R447, R452, R455). -/
structure TrapRec where
  queue : Nat
  bits : Nat
  /-- The team whose policy applies once the record is written. -/
  team : Option Nat
  deriving DecidableEq, Repr

/-! ### Engine operations -/

/-- Where a range lies (08 R268, 14 R405). -/
inductive Space where
  | mem | spad
  deriving DecidableEq, Repr

/-- A matrix unit in flight (09 R283, R288). -/
structure Pass where
  /-- 0 `qmm`, 1 `qdist`, 2 `qmmg`. -/
  form : Nat
  latch : Latch
  bfmt : QFmt
  z : Bool
  md : Nat
  qmask : BitVec 4
  /-- The 32 column starts. -/
  cols : List Nat
  space : Space
  level : Nat
  /-- Quarters in the present pass, and quarters not yet committed: each is a reservation entry (09 R288, R290). -/
  inPass : BitVec 4
  left : BitVec 4
  /-- The handle's quarter tiles before the unit, for a unit that ends without effect (09 R285). -/
  before : Tab Tile
  /-- Generation of the address space when it was posted (09 R289). -/
  gen : Nat
  /-- Its event of denied bytes has been appended (09 R286). -/
  audited : Bool
  /-- Its quarters stand in the reservation table; not those of a unit that faulted and has yet to replay (09 R285, R288). -/
  posted : Bool
  /-- The unit ended without effect, and the latch that it had emptied is full again (09 R285). -/
  refilled : Bool
  deriving DecidableEq, Repr

/-- What an attention unit that has run its chain still owes: moves of the tile counters as (counter, tiles), output as (scratchpad offset, bytes), and its
audit event as (address, count, detail, class). No output and no event exists before the unit completes (10 R319); the counters may move one
by one before that (11 R345). -/
structure AttDone where
  moves : List (Nat × Nat)
  outs : List (Nat × List Byte)
  event : Option (Nat × Nat × Nat × Nat)
  deriving DecidableEq, Repr

/-- An attention unit in flight (10 R305 to R307). -/
structure Att where
  /-- 0 `qatt`, 1 `qatf`, 2 `qsel`. -/
  form : Nat
  /-- The reference register, its lane, and the list's reference as the barrier healed it. -/
  hl : Nat
  lane : Nat
  ref : DWord
  /-- The list object that the barrier named; none for a replay that has yet to begin. -/
  list : Option Nat
  qmask : BitVec 4
  /-- The slot named, and the program bound to it. -/
  prog : Option (Nat × List Word)
  /-- The operand block. -/
  k : List Word
  /-- The latch: row, query bits, position, document of every selected row. -/
  rows : List (Nat × List Nat × Nat × Nat)
  /-- Scratchpad ranges entered: offset, bytes, whether written. -/
  hulls : List (Nat × Nat × Bool)
  /-- The page epoch sampled at step 1 (01 R33); none while the unit is abandoned (01 R34). -/
  sample : Option Nat
  /-- The chain has run, and the unit completes with what it owes. -/
  owed : Option AttDone
  level : Nat
  deriving DecidableEq, Repr

/-- A conversion in flight (08 R268 to R271). -/
structure Conv where
  quant : Bool
  fmt : QFmt
  bf : Bool
  n : Nat
  dst : Nat
  dstSp : Space
  src : Nat
  srcSp : Space
  deriving DecidableEq, Repr

/-- The directory forms that the Thresher takes up (12 R366); and the two registration forms, whose write of the descriptor can wait on a fault
record (12 R371, R491). -/
inductive DirForm where
  | new | seal | dem | inv | cold | reg | unreg
  deriving DecidableEq, Repr

/-- A directory form in flight (12 R366). -/
structure Dir where
  form : DirForm
  pool : Nat
  x : Nat
  /-- k(8q+3) to k(8q+5). -/
  a : Word
  b : Word
  c : Word
  kd : Nat
  /-- The Thresher has begun it (12 R350, R366): it is the pool's change until it ends. -/
  begun : Bool
  /-- A cold copy is under way (12 R359). -/
  moving : Bool
  /-- It waits, begun, for a page or an object that is being moved: no other change of its Thresher is performed meanwhile (12 R350). -/
  held : Bool
  /-- Its change is made and its status decided; a write of the descriptor's HW fields is still owed (12 R491). -/
  status : Option Nat
  fault : Nat
  /-- The address whose access walked again after its answer, plus 1; 0 for none. -/
  retried : Nat
  deriving DecidableEq, Repr

/-- A copy operation, or a chain record, in flight (14 R402, R406, R407, R422). -/
structure Copy where
  cpym : Bool
  n : Nat
  rows : Nat
  spitch : Nat
  dpitch : Nat
  dst : Nat
  dstSp : Space
  src : Nat
  srcSp : Space
  bar : Option Nat
  stamp : Option StampTo
  /-- Receivers by cluster position; position 0 stands for the single destination of `cpy` and `cpy2d`. -/
  todo : List Nat
  /-- Bytes delivered and not yet counted at each position's barrier (14 R417). -/
  owed : Tab Nat
  cause : Nat
  denied : Bool
  drops : Nat
  audited : Bool
  /-- The fault record it waits on, 0 for none; the address that was walked again after its answer, plus 1 (14 R414). -/
  fault : Nat
  retried : Nat
  /-- The source as a multicast read it, once it has (14 R407). -/
  buf : Option (List Byte)
  /-- The channel a chain record belongs to. -/
  chain : Option Nat
  /-- The record's stamp could not be written: the chain halts with cause 12, whatever cause the record has (14 R412). -/
  unstamped : Bool
  deriving DecidableEq, Repr

/-- Kinds of link operations (15 R436), with the peer-window forms of ordinary loads, stores, `mwait` and `hld` (15 R434). -/
inductive LinkForm where
  | lld | lgat | lwr | lred | mxr | windowLoad | windowStore | windowWait | windowRef | windowLaunch
  deriving DecidableEq, Repr

/-- A request of a link operation (15 R435): its tag, the lane, piece or rank it serves, the remote address, its peer, what it asks, the
bytes it sends, the bytes that have come back, and those that a class of the local grant set denied. -/
structure LinkReq where
  tag : Nat
  lane : Nat
  /-- Further lanes of one unit that name the same bytes: they share the answer to a load, and the highest lane's bytes are what a store
  sends (03 R86, R87). -/
  also : List Nat
  /-- The address as the issuing lane gave it, and the slot. -/
  at_ : Nat
  slot : Nat
  va : DWord
  n : Nat
  dev : Nat
  rq : Nat
  kind : Nat
  runs : Runs
  data : List Byte
  got : List Byte
  denied : Option (Nat × Nat)
  port : Nat
  sent : Nat
  done : Option Remote
  deriving DecidableEq, Repr

/-- A link operation in flight (15 R436 to R444). -/
structure Link where
  form : LinkForm
  peer : Nat
  /-- Bytes of a lane's access. For a window load, `shape` is 0 for a form of the lanes, 1 for `ldk`, 2 for `ldl`. -/
  size : Nat
  shape : Nat
  vd : Nat
  pd : Nat
  nt : Bool
  sx : Bool
  dst : Nat
  len : Nat
  src : Nat
  srcSp : Space
  ty : Nat
  rs : Bool
  stamp : Option StampTo
  /-- The requests have been sent. -/
  begun : Bool
  reqs : List LinkReq
  /-- The lanes of an access through the peer window with the addresses as they gave them and the bytes that they store, and whether it takes the
  read-only path: what the unit needs to execute again (04 R127). -/
  lanes : List (Nat × Nat × List Byte)
  ro : Bool
  /-- `mxr`: format, blocks, the descriptor's bits, own run, when it times out (15 R442). -/
  fmt : QFmt
  nb : Nat
  desc : Nat
  run : List Byte
  until_ : Nat
  cause : Nat
  denied : Bool
  audited : Bool
  /-- The fault record it waits on, and the address walked again after its answer, plus 1. -/
  fault : Nat
  retried : Nat
  deriving DecidableEq, Repr

/-- A `mwait` that has not returned (06 R188): address, awaited value, pair written, whether a denial was audited. -/
structure MWait where
  va : DWord
  target : Nat
  kd : Nat
  audited : Bool
  deriving DecidableEq, Repr

/-- What an operation in flight does. -/
inductive OpBody where
  | mwait (w : MWait)
  | pass (p : Pass)
  | att (a : Att)
  | conv (c : Conv)
  | dir (d : Dir)
  | copy (c : Copy)
  | link (l : Link)
  deriving DecidableEq, Repr

/-- An operation in flight and the unit that issued it (03 R78). -/
structure Op where
  team : Nat
  group : Nat
  split : Nat
  core : Nat
  queue : Nat
  grid : Nat
  unit : DWord
  npc : DWord
  lanes : BitVec 32
  /-- The split's lane mask when the unit issued (04 R133). -/
  mask : BitVec 32
  issued : Nat
  /-- It trapped or faulted, and waits for the team's resumption (04 R127, R138). -/
  halted : Bool
  /-- The queue as it stood when it was destroyed, for an operation that outlives it (01 R22, 17 R473). -/
  own : Option Queue
  /-- Lane register names that the unit created, and names that its marks freed with what they held, for a unit that can still trap
  (02 R59, 04 R122). -/
  made : List Nat
  marked : Tab Lanes
  body : OpBody
  deriving DecidableEq, Repr

/-! ### Thresher (12) -/

/-- The SW fields of a pool descriptor (12 R348). -/
structure PoolSw where
  home : Nat
  vvar : Bool
  kvar : Bool
  ccode : Nat
  tcode : Nat
  decay : Nat
  wcTimeout : Nat
  minAge : Nat
  interval : Nat
  tCold : Nat
  tFp4 : Nat
  tFp6 : Nat
  tFp8 : Nat
  count : Nat
  stamp : DWord
  sumBase : DWord
  dirBase : DWord
  deriving DecidableEq, Repr

/-- A running sweep (12 R355): its number, the next index, counts, status bits. -/
structure Sweep where
  n : Nat
  next : Nat
  stepped : Nat
  skipped : Nat
  status : Nat
  /-- The address whose access walked again after its answer (12 R491), plus 1; 0 for none. -/
  retried : Nat
  /-- Its place among the sweeps of its die: the round of its next visit, and its rank by start (12 R354). -/
  turn : Nat
  started : Nat
  /-- A write of the stuck count is still owed (12 R491); at its end, the counts are written and the stamp is not (12 R356). -/
  owed : Bool
  counted : Bool
  deriving DecidableEq, Repr

/-- A cold move handed to the Gleaner (12 R359): entry index, the directory form that asked, 0 for a sweep, the object, its
destination, and the sweep number that the entry takes. -/
structure ColdMove where
  x : Nat
  op : Nat
  src : Nat
  dest : Nat
  n : Nat
  deriving DecidableEq, Repr

/-- A registered pool (12 R349). -/
structure Pool where
  queue : Nat
  desc : DWord
  sw : PoolSw
  /-- Fields that `kvpol.set` loaded, in force from the next sweep (12 R371). -/
  nextSw : Option PoolSw
  done : Nat
  stuck : Nat
  stepped : Nat
  skipped : Nat
  requests : Nat
  lastStart : Nat
  sweep : Option Sweep
  cold : Option ColdMove
  /-- The fault record that the pool's engine waits on, 0 for none (12 R491). -/
  fault : Nat
  deriving DecidableEq, Repr

/-- A format write-combining entry (12 R362): the block's queue, object, half, index, format, written values. -/
structure WcEntry where
  queue : Nat
  /-- Virtual address of the object's body. -/
  body : Nat
  valueHalf : Bool
  block : Nat
  fmt : QFmt
  vals : Tab Nat
  opened : Nat
  timeout : Nat
  slice : Nat
  /-- Where the block's elements lie, as its stores were translated, and its scale: a close writes there when the page has no entry any
  more (12 R364). -/
  elemsAt : List (PAddr × Nat)
  scaleAt : List (PAddr × Nat)
  /-- Groups with a store in the entry, as (team, group): a fence of one closes it (12 R363). -/
  writers : List (Nat × Nat)
  deriving DecidableEq, Repr

/-- The tag of a narrow page's lines (12 R361): its queue, the object, its entry's format, variants, exponents and geometry. -/
structure Narrow where
  queue : Nat
  obj : Nat
  keyFmt : QFmt
  valFmt : QFmt
  ek : Int
  ev : Int
  tokens : Nat
  chans : Nat
  /-- The timeout while no pool is registered at `desc` (12 R363). -/
  wcTimeout : Nat
  /-- The descriptor of its pool, which it is found by: a registration of the same descriptor rules its pages again. -/
  desc : DWord
  deriving DecidableEq, Repr

/-- A `mload` or `mfree` that waits at issue holds its slot (11 R340, R342). -/
structure MaskHold where
  queue : Nat
  slot : Nat
  team : Nat
  group : Nat
  split : Nat
  deriving DecidableEq, Repr

/-! ### Heap and Gleaner (13) -/

/-- One object of a relocation cycle (13 R392): source and destination object addresses and body size. -/
structure RelObj where
  old : Nat
  new : Nat
  size : Nat
  deriving DecidableEq, Repr

inductive RelState where
  | copying | recopy | final | ack
  deriving DecidableEq, Repr

/-- A relocation cycle between its start and its acknowledgement (13 R392, R490). -/
structure RelCycle where
  st : RelState
  objs : List RelObj
  rounds : Nat
  finalAt : Nat
  cmd : Option (Master × BitVec 32)
  eRel : Nat
  /-- Sources with a line that was written since the last round's copy: the dirty bitmap, by object. -/
  dirty : List Nat
  /-- Host writes that meet a source between FINAL and the acknowledgement, in order of arrival (13 R392). -/
  held : List (PAddr × List Byte)
  deriving DecidableEq, Repr

/-- A forwarding entry (13 R397) with its cycle's number. -/
structure Fwd where
  cycle : Nat
  forwarded : Bool
  old : Nat
  new : Nat
  deriving DecidableEq, Repr

/-- A bound heap (13 R373, R374): the SW fields as read at binding, and the HW fields. -/
structure Heap where
  desc : DWord
  hbase : Nat
  hbytes : Nat
  cbase : Nat
  cbytes : Nat
  bitmap : DWord
  fwdTab : DWord
  refTab : DWord
  refCount : Nat
  trigger : Nat
  /-- Flips performed since binding; ce is its value modulo 4. -/
  flips : Nat
  cycles : Nat
  cycle : Option RelCycle
  heal : Bool
  healCmd : Option (Master × BitVec 32)
  /-- The fault record that the heal pass waits on, 0 for none, and the addresses whose access walked again after its answer (12 R491). -/
  healFault : Nat
  healTried : List Nat
  fwd : List Fwd
  autoAt : Nat
  deriving DecidableEq, Repr

/-- An object released through the page epoch (01 R32, R33): its queue, object address, bytes, e_rel. -/
structure Released where
  queue : Nat
  addr : Nat
  bytes : Nat
  eRel : Nat
  deriving DecidableEq, Repr

/-! ### Page migration (07 R233) -/

inductive MigState where
  | precopy | recopy | final | inval
  deriving DecidableEq, Repr

structure Migration where
  queue : Nat
  va : Nat
  leafAt : PAddr
  e0 : DWord
  dest : Nat
  st : MigState
  rounds : Nat
  /-- Source frame and page size, the armed dirty bitmap as line numbers, and whether any line was dirty. -/
  src : Nat
  size : Nat
  lines : List Nat
  wasDirty : Bool
  finalAt : Nat
  die : Nat
  /-- A command beyond the eighth of its die waits (07 R233). -/
  begun : Bool
  cmd : Master × BitVec 32
  deriving DecidableEq, Repr

/-! ### Firmware (17) and outputs -/

/-- A reply record (17 R471). -/
structure Reply where
  master : Master
  tag : BitVec 32
  status : Nat
  r : List DWord
  deriving DecidableEq, Repr

/-- The snapshot items (17 R481). -/
structure Snapshot where
  cycle : Nat
  missed : Nat
  slots : List (Nat × List SlotState)
  splits : List (Nat × Nat × Nat × DWord × BitVec 32)
  locks : List (Nat × List RangeLock)
  reserved : List (Nat × BitVec 4)
  reports : List (Nat × Nat)
  sweeps : List (Nat × Nat)
  gleaners : List (Nat × Nat × Option RelState)
  channels : List (Nat × List ChState)
  teams : List (Nat × TeamState)
  deriving DecidableEq, Repr

/-- The bytes of a snapshot in the firmware's layout, a free value (17 R481, log 7). -/
opaque snapshotLayout : Snapshot → List Byte

/-- The answer to a peer's request: its device and tag, when it was performed (15 R435: each tag at most once). -/
structure Answer where
  dev : Nat
  tag : BitVec 24
  at_ : Nat
  res : Remote
  deriving DecidableEq, Repr

/-- What a rank of an `mxr` has contributed, until the operation of a queue here takes it (15 R443, log 14): the rank's device and queue, the port
by which it came, its classes and its bytes. A `void` one has not come, and is dropped when it comes, since the operation that it was for has ended
without it (R444): of its bytes it names the collective identifier. -/
structure Contribution where
  queue : Nat
  dev : Nat
  rank : Nat
  port : Nat
  runs : Runs
  bytes : List Byte
  void : Bool
  deriving DecidableEq, Repr

/-- A flit as it leaves a port (15 R432): its header and payload; the check trailer is the link's own. -/
structure Flit where
  port : Nat
  header : BitVec 160
  payload : List Byte
  /-- The remote address of a request; where a flit carries it is not given (log 14). -/
  va : Nat
  deriving DecidableEq, Repr

/-- A peer-link port (15 R432, R435, 17 R484). -/
structure Port where
  up : Bool
  laneFaults : Nat
  /-- Since when, in wall time, it has failed with nothing heard since (17 R474). -/
  failedAt : Option Nat
  deriving DecidableEq, Repr

/-- What a command must have performed before its reply is written (17 R472): a grid's teams have ended; the teams have ended or left their slots since, each with
how often it had been saved; a core is no longer being retired; every grid has completed, so that the device resets. -/
inductive Task where
  | killed (grid : Nat)
  | evicted (teams : List (Nat × Nat))
  | retired (core : Nat)
  | reset
  deriving DecidableEq, Repr

/-- A command that is being performed: whose reply it is, and what it waits for. -/
structure Doing where
  cmd : Master × BitVec 32
  task : Task
  deriving DecidableEq, Repr

/-- A record of a master that has no ring (17 R470): its bits, and `cmd_tail` when it arrived, which orders it among the host's records (R472). -/
structure Mail where
  master : Master
  bits : Nat
  tail : Nat
  deriving DecidableEq, Repr

/-- The firmware's state (17). Wall time is counted in ticks (`wallNow`). -/
structure Firmware where
  owner : Option Master
  /-- A handover: issuer and target, and when it was made (17 R475). -/
  handover : Option (Master × Master)
  handoverAt : Nat
  /-- The wall time at which the clock took its present frequency, and the cycle of that moment (00 R4). -/
  wallAt : Nat
  wallCycle : Nat
  /-- Since when the host's link is down; whether the I3C target is addressed, and since when it is not (17 R474). -/
  pcieDownAt : Nat
  i3cUp : Bool
  i3cDownAt : Nat
  /-- Records of the board controller and of remote owners that have arrived, oldest first; replies to the board controller that it has not read: the first
  four stand in its buffer (17 R470). -/
  mail : List Mail
  i3cReplies : List Nat
  /-- The command that is being performed, and the PEERBIND commands whose remote has not agreed (17 R472, R473). -/
  doing : Option Doing
  binds : List Cmd
  /-- A reset has begun and bring-up has not ended (17 R485). -/
  booting : Bool
  ready : Bool
  recovery : Bool
  powered : Bool
  cmdBase : DWord
  repBase : DWord
  cmdTail : Nat
  cmdHead : Nat
  repTail : Nat
  image : Option (List Byte)
  staged : Option (List Byte)
  lmsNext : Nat
  lmsLimit : Nat
  routes : List Byte
  snapOn : BitVec 3
  snapCode : Nat
  snapClass : Nat
  /-- The cycles that triggers have named, oldest first (17 R481, R482). -/
  snapPending : List Nat
  snap : Option Snapshot
  missed : Nat
  capWatts : Nat
  clockMhz : Nat
  /-- Junction and lid temperature in steps of 0.125 degrees, and power (17 R487). -/
  temp : Nat
  lid : Nat
  watts : Nat
  corrected : Nat
  droppedFlits : Nat
  /-- Ordering form (00 R1) and fitted cold-tier bytes (00 R2; 0 when none is found). -/
  form : Nat
  cold : Nat
  /-- Spares left on each die, and the channels moved onto spares (17 R483, R484). -/
  spares : List Nat
  movedChannels : List (Nat × Nat)
  pcieUp : Bool
  deriving DecidableEq, Repr

/-- What the outside does to the firmware beside the events of the table: I3C transfers and the bus (17 R470, R474), a remote firmware that agrees (R473), a lid
sensor (R487); and the firmware's own work on a command that has been performed (R472). -/
inductive FwAct where
  | i3cWrite (record : BitVec 512)
  | i3cRead
  | i3cTarget (up : Bool)
  | peerAgree (i : Nat)
  | lidSensor (t : Nat)
  | finish
  deriving DecidableEq, Repr

/-! ### The unit being executed, and turns -/

/-- The parts of the unit that the issuing split executes (02 R44): its address, the address after it, its guard and its
extension, its halfwords. -/
structure UnitCtx where
  addr : DWord
  npc : DWord
  guard : Option (BitVec 1 × BitVec 3)
  extImm : Option (BitVec 23)
  extReg : Option (BitVec 23)
  halves : List (BitVec 16)
  deriving DecidableEq, Repr

/-- Which split issues. -/
structure Who where
  core : Nat
  group : Nat
  split : Nat
  deriving DecidableEq, Repr

/-- Who moves in a turn (log 2): a split issues, an event of the table takes place, or the outside acts on the memory arrays:
a line or a translation is displaced from a cache (07 R229, R236), the pointer entries of an address enter or leave a die's walk cache
(07 R229), an L1 keeps the present value of 8 aligned bytes for the read-only path of a grid, or serves the i-th value that it kept, or none
(03 R85), a single-bit or an uncorrectable error arises (07 R210). -/
inductive Act where
  | issue (w : Who)
  | event (e : Instr)
  | displaceLine (line : Nat)
  | displaceL1 (core line : Nat)
  | displaceXlat (core : Option Nat) (die : Nat) (base : Nat)
  | cacheWalk (die queue va : Nat)
  | displaceWalk (die level pre : Nat)
  | keepPast (grid unit : Nat)
  | servePast (grid unit : Nat) (i : Option Nat)
  | bitError (granule : Nat) (uncorrectable : Bool)
  | firmware (a : FwAct)
  deriving DecidableEq, Repr

/-- One turn: the cycles that pass before it, and who moves. -/
structure Turn where
  dt : Nat
  act : Act
  deriving DecidableEq, Repr

end Sys2Proof.Machine
end

