-- ==== Sys2Proof/Machine/State.lean ====
section
/-! DEFINITION. The state of the package, its value after reset, and the reasons a step can stop. -/

namespace Sys2Proof.Machine

open Sys2Proof

/-- Reasons for a fault of the model. Every stop that the manual describes is a trap, a fault record or a status, each a next
state; the model has one fault of its own. -/
inductive Fault where
  /-- Raised by nothing: no rule of the manual leaves a unit or an event without an effect (safe). -/
  | noEffectGiven
  deriving DecidableEq, Repr

/-- Reasons for a refusal. -/
inductive Refusal where
  /-- Raised by an arm of `exec` whose instruction has no meaning yet (safe). -/
  | notModelled (mnemonic : String)
  /-- Raised by `step` when the agenda presents an encodable instruction as an event: such an agenda is no behaviour of the
  machine, since an instruction runs only when it is fetched (safe). -/
  | notAnEvent
  deriving DecidableEq, Repr

/-- The state of one package. Fields marked MODEL belong to the model and not to the manual (logs 2 to 4). -/
structure State where
  /-- Physical memory: hot tier, scratchpad windows, host window and cold tier (07 R207), in canonical form. -/
  mem : List Host.Cell
  /-- Barrier tags: physical addresses of the tagged 16-byte granules, ascending (06 R195). -/
  tags : List Nat
  /-- 64-byte granules with bad check bits, ascending (07 R210). -/
  bad : List Nat
  /-- Units of 256 bytes of the scratchpad windows written since their occupant's last save or restore, ascending: a block of 4 KiB of an
  allocation is dirty where one of its units is here (04 R129). -/
  spadDirty : List Nat
  /-- Access class a 128-byte line carries, where an engine has written it (07 R236). -/
  lineClass : Tab Nat
  /-- Identity of the queue whose access filled a line (07 R236). -/
  lineIdent : Tab Nat
  /-- Lines in the L1s, by core and line (`l1Key`): the class and the identity that each carries (07 R236). -/
  l1Lines : Tab (Nat × Nat)
  /-- Device cycle counter (04 R139, 05 R174), read modulo 2^64. -/
  cycle : Nat
  /-- Page epoch counter (01 R32). -/
  pe : Nat
  cores : Tab Core
  teams : Tab Team
  grids : Tab Grid
  /-- The package counter that names grids (16 R451). -/
  nextGrid : Nat
  queues : Tab Queue
  /-- Queue served last at each level (16 R456). -/
  served : Tab Nat
  /-- Shared TLB of each die (07 R229). -/
  dieTlb : Tab (List Xlat)
  /-- Walk cache of each die (07 R229). -/
  dieWalk : Tab (List WalkEnt)
  /-- Older values that the read-only path can still meet (03 R85). -/
  past : List Past
  ops : Tab Op
  pools : Tab Pool
  wc : Tab WcEntry
  heaps : Tab Heap
  released : List Released
  narrow : List Narrow
  maskHolds : List MaskHold
  migrations : Tab Migration
  faults : Tab FaultRec
  trapRecs : Tab TrapRec
  ports : Tab Port
  fw : Firmware
  /-- Outputs: replies, interrupt vectors raised, flits sent (17 R471, R486; 15 R432), newest first. -/
  replies : List Reply
  irqs : List Nat
  sent : List Flit
  /-- Results of peers' requests, newest first (15 R441). -/
  answers : List Answer
  /-- Contributions of other ranks that no `mxr` has taken, oldest first (15 R443). -/
  inbox : List Contribution
  /-- What the host has read, newest first: address and bytes (03 R108). -/
  hostReads : List (Nat × List Byte)
  /-- MODEL: turns to come (log 2). -/
  agenda : List Turn
  /-- MODEL: the split that issues, and the unit it executes (log 3). -/
  cur : Who
  unit : UnitCtx
  /-- MODEL: the implementation's free choices still to be taken (log 4). -/
  choices : List Nat
  /-- MODEL: counter of free values taken, and of names given to operations, faults and records. -/
  fresh : Nat
  nextOp : Nat
  deriving DecidableEq, Repr

/-- A core with three EMPTY slots (17 R485: no slot survives a reset). -/
def Core.reset : Core :=
  { slots := [⟨.empty, 0, 0, false, false⟩, ⟨.empty, 0, 0, false, false⟩, ⟨.empty, 0, 0, false, false⟩]
    locks := [], upd := [], tlb := [], active := [], retiring := false, gone := false }

/-- The unit context before any unit. -/
def UnitCtx.reset : UnitCtx :=
  { addr := 0, npc := 0, guard := none, extImm := none, extReg := none, halves := [] }

/-- The image that runs after reset, laid out as 17 R480: layout 1, kind 1, the highest security version, an empty body, the vendor's signatures, whose bytes
are free (log 5). -/
def resetImage : List Byte :=
  [1, 0, 0, 0, 1, 0, 0, 0, 255, 255, 255, 255] ++ List.replicate 12 0 ++ (List.range 1872).map Config.resetSignature

/-- The firmware at the end of bring-up: ready, without an owner, its indices 0 (17 R474, R485). Values the manual does not give:
log 5. -/
def Firmware.reset : Firmware :=
  { owner := none, handover := none, handoverAt := 0, wallAt := 0, wallCycle := 0, pcieDownAt := 0, i3cUp := true, i3cDownAt := 0, mail := [], i3cReplies := []
    doing := none, binds := [], booting := false, ready := true, recovery := false, powered := true, cmdBase := 0, repBase := 0, cmdTail := 0
    cmdHead := 0, repTail := 0, image := some resetImage, staged := none, lmsNext := 0, lmsLimit := 1024, routes := [], snapOn := 0
    snapCode := 0, snapClass := 0, snapPending := [], snap := none, missed := 0, capWatts := 3000, clockMhz := 1500, temp := 200, lid := 200
    watts := 0, corrected := 0, droppedFlits := 0, form := 1, cold := 2 ^ 40, spares := [8, 8, 8, 8], movedChannels := [], pcieUp := true }

/-- The machine right after reset (17 R485): bring-up has ended; no queue, pool, heap, slot or snapshot survives; memory lists
nothing. -/
def State.reset : State :=
  { mem := [], tags := [], bad := [], spadDirty := [], lineClass := [], lineIdent := [], l1Lines := [], cycle := 0, pe := 0, cores := [], teams := [], grids := [], nextGrid := 1
    queues := [], served := [], dieTlb := [], dieWalk := [], past := [], ops := [], pools := [], wc := [], heaps := [], released := [], narrow := [], maskHolds := [], migrations := []
    faults := [], trapRecs := [], ports := (List.range 12).map (fun p => (p, ⟨true, 0, none⟩)), fw := Firmware.reset, replies := []
    irqs := [], sent := [], answers := [], inbox := [], hostReads := [], agenda := [], cur := ⟨0, 0, 0⟩, unit := UnitCtx.reset, choices := [], fresh := 0, nextOp := 1 }

end Sys2Proof.Machine
end

