-- ==== Sys2Proof/Machine/Memory.lean ====
section
/-! DEFINITION. Bytes of physical memory: the canonical list of cells, ranges (07 R207), homes (07 R208), and the marks that
granules and lines carry (06 R195, 07 R210, R236). -/

namespace Sys2Proof.Machine

open Sys2Proof

/-! ### Cells -/

/-- What an unlisted address reads as. The manual leaves the contents after reset undefined (17 R485): log 1. -/
def memDefault : Byte := 0

/-- The byte at a physical address. -/
def memGet : List Host.Cell → Nat → Byte
  | [], _ => memDefault
  | (a, b) :: t, p => if a = p then b else memGet t p

/-- Write one byte, keeping the canonical form. -/
def memSet : List Host.Cell → Nat → Byte → List Host.Cell
  | [], p, v => if v = memDefault then [] else [(p, v)]
  | (a, b) :: t, p, v =>
    if p < a then (if v = memDefault then (a, b) :: t else (p, v) :: (a, b) :: t)
    else if p = a then (if v = memDefault then t else (p, v) :: t)
    else (a, b) :: memSet t p v

/-- Write consecutive bytes from an address. -/
def memSetMany : List Host.Cell → Nat → List Byte → List Host.Cell
  | m, _, [] => m
  | m, p, b :: t => memSetMany (memSet m p b) (p + 1) t

/-- Read `n` consecutive bytes. -/
def memGetMany (m : List Host.Cell) : Nat → Nat → List Byte
  | _, 0 => []
  | p, n + 1 => memGet m p :: memGetMany m (p + 1) n

/-- The canonical form: addresses rise strictly and no cell holds the default. -/
def Memory.wf : List Host.Cell → Bool
  | [] => true
  | [(_, v)] => decide (v ≠ memDefault)
  | (a, v) :: (b, w) :: t => decide (v ≠ memDefault) && decide (a < b) && Memory.wf ((b, w) :: t)

/-! ### Sorted sets of numbers -/

/-- Insert a number into an ascending list without repeats. -/
def setAdd : List Nat → Nat → List Nat
  | [], x => [x]
  | a :: t, x => if x < a then x :: a :: t else if x = a then a :: t else a :: setAdd t x

/-- Remove a number. -/
def setDel : List Nat → Nat → List Nat
  | [], _ => []
  | a :: t, x => if a = x then setDel t x else a :: setDel t x

/-! ### Ranges and homes -/

/-- Ranges of the physical address space (07 R207). -/
inductive Place where
  | hot | window | host | peer | cold
  deriving DecidableEq, Repr

/-- The range that holds a physical address; none where it is unpopulated (07 R207). -/
def placeOf (s : State) (pa : Nat) : Option Place :=
  if pa < 0x8000000000 then some .hot
  else if pa < 0x8010000000 then some .window
  else if pa < 0xc000000000 then none
  else if pa < 0xe000000000 then some .host
  else if pa < 0x10000000000 then some .peer
  else if pa < 0x10000000000 + s.fw.cold then some .cold
  else none

/-- Home die of an address (07 R207): PA[38:37], PA[27:26], 0, the die of the link port that its peer is reached by (15:
three ports to a die), or by a quarter of the cold tier. -/
def homeDie (s : State) (pa : Nat) (port : Nat := 0) : Nat :=
  match placeOf s pa with
  | some .hot => pa / 2 ^ 37 % 4
  | some .window => pa / 2 ^ 26 % 4
  | some .peer => port / 3
  | some .cold => (pa - 0x10000000000) / (s.fw.cold / 4)
  | _ => 0

/-- Home slice of an address, as a package slice number (07 R208). -/
def homeSlice (s : State) (pa : Nat) : Nat :=
  homeDie s pa * 128 +
    Nat.xor (Nat.xor (pa / 2 ^ 7 % 128) (pa / 2 ^ 14 % 128)) (Nat.xor (pa / 2 ^ 21 % 128) (pa / 2 ^ 28 % 128))

/-- Physical address of a byte of a core's scratchpad (06 R178, 07 R207). -/
def spadAddr (core off : Nat) : Nat := 0x8000000000 + core * 524288 + off

/-- Granules of 64 bytes that a range meets. -/
def granules (pa n : Nat) : List Nat :=
  if n = 0 then [] else (List.range ((pa + n - 1) / 64 - pa / 64 + 1)).map (fun i => pa / 64 + i)

/-- Lines of 128 bytes that a range meets, by number. -/
def linesOf (pa n : Nat) : List Nat :=
  if n = 0 then [] else (List.range ((pa + n - 1) / 128 - pa / 128 + 1)).map (fun i => pa / 128 + i)

/-- The first granule of a range with bad check bits (07 R210). -/
def badIn (s : State) (pa n : Nat) : Option Nat :=
  if s.bad.isEmpty then none else ((granules pa n).find? (fun g => s.bad.contains g)).map (· * 64)

/-- The first bad granule that a write of a range would cover only in part (07 R210). -/
def badPart (s : State) (pa n : Nat) : Option Nat :=
  if s.bad.isEmpty then none else
    ((granules pa n).find? (fun g => s.bad.contains g && !(decide (pa ≤ g * 64) && decide (g * 64 + 64 ≤ pa + n)))).map (· * 64)

/-! ### Reads and writes of the state -/

/-- Read bytes. -/
def State.bytes (s : State) (pa n : Nat) : List Byte := memGetMany s.mem pa n

/-- Read a little-endian number of `n` bytes (00 R8). -/
def State.num (s : State) (pa n : Nat) : Nat := natOfBytes (s.bytes pa n)

/-- Migrations whose armed source frame meets a written range record its lines as dirty (07 R233). -/
def markDirty (ms : Tab Migration) (pa n : Nat) : Tab Migration :=
  ms.map (fun (k, m) =>
    if m.begun && overlaps pa (pa + n) m.src (m.src + m.size) then
      (k, { m with lines := ((linesOf pa n).filter (fun l => decide (m.src / 128 ≤ l) && decide (l < (m.src + m.size) / 128))).foldl setAdd m.lines
                   wasDirty := true })
    else (k, m))

/-- Units of 256 bytes of the scratchpad windows that a write meets: allocations begin and end at them (06 R191), so that each unit belongs to one
block of 4 KiB of one allocation (04 R129). -/
def spadBlocks (pa n : Nat) : List Nat :=
  if n = 0 || pa + n ≤ 0x8000000000 || pa ≥ 0x8010000000 then []
  else (List.range ((pa + n - 1) / 256 - pa / 256 + 1)).map (fun i => pa / 256 + i)

/-- The name of a line in the L1 of a core. -/
def l1Key (core line : Nat) : Nat := 2 ^ 33 * core + line

/-- L1 lines without those that a range of bytes meets, in whatever core. -/
def l1Without (t : Tab (Nat × Nat)) (pa n : Nat) : Tab (Nat × Nat) :=
  if t.isEmpty then [] else t.filter (fun x => !(decide (n ≠ 0) && decide (pa / 128 ≤ x.1 % 2 ^ 33) && decide (128 * (x.1 % 2 ^ 33) < pa + n)))

/-- What a write of a range leaves beside the bytes: a granule that is covered whole loses its bad check bits (07 R210), lines of a page in
migration become dirty (07 R233), and the copies of its lines in L1s go (06 R181). -/
def State.touched (s : State) (pa n : Nat) : State :=
  { s with
    bad := if s.bad.isEmpty then [] else s.bad.filter (fun g => !(decide (pa ≤ g * 64) && decide (g * 64 + 64 ≤ pa + n)))
    spadDirty := (spadBlocks pa n).foldl setAdd s.spadDirty
    l1Lines := l1Without s.l1Lines pa n
    migrations := if n = 0 then s.migrations else markDirty s.migrations pa n }

/-- Write bytes. Memory changes through this operation, `State.zero` and `State.free` alone. -/
def State.write (s : State) (pa : Nat) (bs : List Byte) : State := { s.touched pa bs.length with mem := memSetMany s.mem pa bs }

/-- Write a little-endian number of `n` bytes. -/
def State.writeNum (s : State) (pa n v : Nat) : State := s.write pa (bytesOf n v)

/-- Cells without those of a range: its bytes read as the default. -/
def memClear (m : List Host.Cell) (pa n : Nat) : List Host.Cell := m.filter (fun c => !(decide (pa ≤ c.1) && decide (c.1 < pa + n)))

/-- Write zeros over a range: zero is what an unlisted address reads as. -/
def State.zero (s : State) (pa n : Nat) : State := { s.touched pa n with mem := memClear s.mem pa n }

/-- Cells of consecutive bytes. -/
def cellsOf : Nat → List Byte → List Host.Cell
  | _, [] => []
  | p, b :: t => if b = memDefault then cellsOf (p + 1) t else (p, b) :: cellsOf (p + 1) t

/-- Write consecutive bytes in one pass over the cells: what `memSetMany` gives, for long ranges. -/
def memSplice : List Host.Cell → Nat → List Byte → List Host.Cell
  | [], pa, bs => cellsOf pa bs
  | (a, b) :: t, pa, bs => if a < pa then (a, b) :: memSplice t pa bs else cellsOf pa bs ++ memClear ((a, b) :: t) pa bs.length

/-- Write bytes that the manual leaves open over a range (log 7). -/
def State.free (s : State) (pa n : Nat) : State :=
  { s.touched pa n with mem := memSplice s.mem pa ((List.range n).map (Config.freeByte s.fresh)), fresh := s.fresh + 1 }

/-- A barrier tag is set in some 16-byte granule that a range meets; its address (06 R195). -/
def tagIn (s : State) (pa n : Nat) : Option Nat :=
  if n = 0 then none else s.tags.find? (fun t => overlaps pa (pa + n) t (t + 16))

/-- Class a line carries (07 R236): what last filled or stamped it, else the class of the translation in use. -/
def carried (s : State) (pa cls : Nat) : Nat := (tabGet s.lineClass (pa / 128)).getD cls

/-- A table in which the lines of a range that carry nothing carry a value. -/
def stampNew (t : Tab Nat) (pa n v : Nat) : Tab Nat := (linesOf pa n).foldl (fun t l => if (tabGet t l).isSome then t else tabPut t l v) t

/-- L1 lines of a core in which the lines of a range that it does not hold carry a class and an identity. -/
def stampL1 (t : Tab (Nat × Nat)) (core pa n ident cls : Nat) : Tab (Nat × Nat) :=
  (linesOf pa n).foldl (fun t l => if (tabGet t (l1Key core l)).isSome then t else tabPut t (l1Key core l) (cls, ident)) t

/-- An access fills its lines with the identity of its queue and the class of its translation, where they carry none: those of the slice, and, for an
access that allocates in the L1 of a core, those there (07 R236, 06 R181). -/
def State.fill (s : State) (l1 : Option Nat) (pa n ident cls : Nat) : State :=
  { s with
    lineClass := stampNew s.lineClass pa n cls
    lineIdent := stampNew s.lineIdent pa n ident
    l1Lines := match l1 with | some k => stampL1 s.l1Lines k pa n ident cls | none => s.l1Lines }

end Sys2Proof.Machine
end

