-- ==== Sys2Proof/Machine/Access.lean ====
section
/-! DEFINITION. Queue descriptors in memory (16 R446), rings (16 R447), audit events (07 R238, R239), grant sets (07 R235), page
tables and cached translations (07 R223 to R231). -/

namespace Sys2Proof.Machine

open Sys2Proof

/-! ### Queues -/

/-- A queue's consumer indices, which software writes in the descriptor's memory (16 R446, log 10). -/
def acons (s : State) (q : Queue) : Nat := s.num (q.at_ + 24) 4
def fcons (s : State) (q : Queue) : Nat := s.num (q.at_ + 32) 4
def tcons (s : State) (q : Queue) : Nat := s.num (q.at_ + 40) 4

/-- The descriptor's bits (16 R446). -/
def queueBits (s : State) (q : Queue) : Nat :=
  packBits [(20, q.gen), (12, q.asid), (32, q.identity.toNat), (22, 0), (2, q.qstate), (5, q.tlog), (5, q.flog), (5, q.alog),
    (5, q.llog), (4, q.pmax), (1, q.irqEn.toNat), (1, q.roOk.toNat), (1, q.policy.toNat), (1, q.dlEn.toNat), (12, q.dlOwner),
    (32, q.ltail), (32, q.lhead), (32, acons s q), (32, q.aprod), (32, fcons s q), (32, q.fprod), (32, tcons s q), (32, q.tprod),
    (32, 0), (32, q.alost), (48, q.events), (16, 0), (64, q.ptroot), (64, q.grant), (64, q.lring), (64, q.aring), (64, q.fring),
    (64, q.tring), (64, q.mblock), (64, q.ptab), (64, q.heap.toNat), (64, q.frames), (64, q.fbytes), (832, 0)]

/-- Change a queue: the record and its descriptor in memory change together. -/
def State.putQueue (s : State) (n : Nat) (q : Queue) : State :=
  let s' := { s with queues := tabPut s.queues n q }
  s'.writeNum q.at_ 256 (queueBits s q)

/-- Change a queue that exists. -/
def State.modQueue (s : State) (n : Nat) (f : Queue → Queue) : State :=
  match tabGet s.queues n with
  | some q => s.putQueue n (f q)
  | none => s

/-- Raise a queue's interrupt (17 R486): vector 1 + (q mod 2047). -/
def State.irq (s : State) (v : Nat) : State := { s with irqs := v :: s.irqs }
def queueVector (q : Nat) : Nat := 1 + q % 2047

/-- A class is admitted when its bit of the grant set, as cached at the last refresh, is 1 (07 R235). -/
def admits (q : Queue) (c : Nat) : Bool := ((tabGet q.grants (c / 8)).getD 0).getLsbD (c % 8)

/-- The grant set as memory holds it (07 R235): its nonzero bytes. -/
def readGrants (s : State) (q : Queue) : Tab Byte :=
  (s.mem.filter (fun c => decide (q.grant ≤ c.1) && decide (c.1 < q.grant + 8192))).map (fun c => (c.1 - q.grant, c.2))

/-! ### Snapshot triggers (17 R481, R482) -/

/-- Raise the common trigger: it names the cycle 512 ahead; while a snapshot is held it only counts as missed. Triggers that name different cycles each keep
theirs; R482 does not say what becomes of the later (log 65). -/
def snapTrigger (s : State) : State :=
  if s.fw.snap.isSome then { s with fw := { s.fw with missed := s.fw.missed + 1 } }
  else if s.fw.snapPending.contains (s.cycle + 512) then s
  else { s with fw := { s.fw with snapPending := s.fw.snapPending ++ [s.cycle + 512] } }

/-! ### Audit events (07 R238, R239) -/

/-- What an audit event says; `lost` and `seq` are filled in by the write. -/
structure AuditEv where
  unit : Nat
  va : Nat
  identity : Nat
  grid : Nat
  team : Nat
  lanes : Nat
  count : Nat
  detail : Nat
  cls : Nat
  core : Nat
  group : Nat
  path : Nat
  kind : Nat
  deriving DecidableEq, Repr

/-- The event's bits (07 R239). -/
def auditBits (s : State) (qn : Nat) (q : Queue) (e : AuditEv) : Nat :=
  packBits [(4, 0), (2, e.kind), (4, e.path), (5, e.group), (9, e.core), (16, e.cls), (12, q.asid), (12, qn), (32, q.aprod),
    (32, q.alost), (32, e.detail), (32, e.count), (32, e.lanes), (32, e.team), (32, e.grid), (32, e.identity), (64, s.cycle),
    (64, e.va), (64, e.unit)]

/-- Append an audit event to a queue's ring, or raise its lost count when the ring is full (07 R238, 16 R447). The count stays at 2^32 - 1: the
manual does not say what it does beyond (log 114). An enabled class match raises the snapshot trigger (17 R482). -/
def audit (s : State) (qn : Nat) (e : AuditEv) : State :=
  match tabGet s.queues qn with
  | none => s
  | some q =>
    let s := if s.fw.snapOn.getLsbD 2 && s.fw.snapClass == e.cls then snapTrigger s else s
    if (q.aprod + 2 ^ 32 - acons s q) % 2 ^ 32 == 2 ^ q.alog then
      s.putQueue qn { q with alost := Nat.min (q.alost + 1) (2 ^ 32 - 1) }
    else
      let s := s.writeNum (q.aring + 64 * (q.aprod % 2 ^ q.alog)) 64 (auditBits s qn q e)
      s.putQueue qn { q with aprod := (q.aprod + 1) % 2 ^ 32, alost := 0 }

/-! ### Page tables (07 R223 to R228) -/

/-- How a walk ends: at a leaf, at an invalid entry, at a malformed one (07 R226), or at one whose granule has an uncorrectable error: the walk meets it
as the access that it serves would (07 R210, log 113). -/
inductive Walk where
  | leaf (x : Xlat)
  | invalid (level : Nat) (entry : Nat)
  | malformed (level : Nat) (entry : Nat)
  | bad (granule : Nat)
  deriving DecidableEq, Repr

/-- Fields of a leaf entry (07 R225). -/
def Xlat.region (x : Xlat) : Nat := bitsOf x.leaf.toNat 60 2
def Xlat.cls (x : Xlat) : Nat := bitsOf x.leaf.toNat 44 16
def Xlat.w (x : Xlat) : Bool := bitOf x.leaf.toNat 43
def Xlat.d (x : Xlat) : Bool := bitOf x.leaf.toNat 41
def Xlat.tier (x : Xlat) : Nat := bitsOf x.leaf.toNat 40 1
def Xlat.frame (x : Xlat) : Nat := bitsOf x.leaf.toNat 0 36 * 65536

/-- Physical address of a virtual address under a translation. -/
def Xlat.pa (x : Xlat) (va : Nat) : Nat := x.frame + (va - x.base)

/-- A leaf is well formed (07 R226): its level, its reserved bits, its frame and its region agree. -/
def leafOk (s : State) (level e : Nat) : Bool :=
  let size := if level = 1 then 2 ^ 21 else 2 ^ 16
  let fpa := bitsOf e 0 36 * 65536
  let k := placeOf s fpa
  let region := bitsOf e 60 2
  decide (level ≤ 1) && bitsOf e 36 4 == 0 && (level == 0 || bitsOf e 0 5 == 0) &&
  k.isSome && k == placeOf s (fpa + size - 1) &&
  (if region = 2 then !bitOf e 40 && (k == some .window || k == some .host || k == some .peer)
   else k == some (if bitOf e 40 then Place.cold else Place.hot)) &&
  !(region == 3 && bitOf e 43)

/-- A pointer is well formed (07 R224, R226). -/
def pointerOk (s : State) (level e : Nat) : Bool :=
  decide (level ≥ 1) && bitsOf e 44 18 == 0 && (placeOf s (bitsOf e 0 44 * 256)).isSome

/-- The levels of the tree, from the root: level, lowest index bit, index bits (07 R223). -/
def walkLevels : List (Nat × Nat × Nat) := [(4, 48, 9), (3, 39, 9), (2, 30, 9), (1, 21, 9), (0, 16, 5)]

/-- Walk from a table at some level. -/
def walkFrom (s : State) (asid gen va : Nat) : List (Nat × Nat × Nat) → Nat → Walk
  | [], _ => .invalid 0 0
  | (level, sh, w) :: rest, table =>
    let at_ := table + 8 * bitsOf va sh w
    let e := s.num at_ 8
    match badIn s at_ 8 with
    | some g => .bad g
    | none =>
    if !bitOf e 63 then .invalid level e
    else if bitOf e 62 then
      if leafOk s level e then
        let size := if level = 1 then 2 ^ 21 else 2 ^ 16
        .leaf { base := va / size * size, size := size, leaf := BitVec.ofNat 64 e, leafAt := at_, asid := asid, gen := gen }
      else .malformed level e
    else if pointerOk s level e then walkFrom s asid gen va rest (bitsOf e 0 44 * 256)
    else .malformed level e

/-- The entry that a die's walk cache holds for the pointer that serves an address at a level (07 R229). -/
def walkHeld (s : State) (die asid gen level sh va : Nat) : Option WalkEnt :=
  ((tabGet s.dieWalk die).getD []).find? (fun e => e.asid == asid && e.gen == gen && e.level == level && e.pre == va / 2 ^ sh)

/-- A walk that takes pointer entries from the die's walk cache: it goes on below the lowest that the cache holds (07 R229). -/
def walkCached (s : State) (q : Queue) (die va : Nat) : Walk :=
  match walkHeld s die q.asid q.gen 1 21 va, walkHeld s die q.asid q.gen 2 30 va, walkHeld s die q.asid q.gen 3 39 va,
      walkHeld s die q.asid q.gen 4 48 va with
  | some e, _, _, _ => walkFrom s q.asid q.gen va (walkLevels.drop 4) e.table
  | _, some e, _, _ => walkFrom s q.asid q.gen va (walkLevels.drop 3) e.table
  | _, _, some e, _ => walkFrom s q.asid q.gen va (walkLevels.drop 2) e.table
  | _, _, _, some e => walkFrom s q.asid q.gen va (walkLevels.drop 1) e.table
  | _, _, _, _ => walkFrom s q.asid q.gen va walkLevels q.ptroot

/-- The pointer entries that a walk of an address meets (07 R224). -/
def walkPointers (s : State) (asid gen va : Nat) : List (Nat × Nat × Nat) → Nat → List WalkEnt
  | [], _ => []
  | (level, sh, w) :: rest, table =>
    let e := s.num (table + 8 * bitsOf va sh w) 8
    if (badIn s (table + 8 * bitsOf va sh w) 8).isNone && bitOf e 63 && !bitOf e 62 && pointerOk s level e then
      let next := bitsOf e 0 44 * 256
      { asid := asid, gen := gen, level := level, pre := va / 2 ^ sh, table := next } :: walkPointers s asid gen va rest next
    else []

/-- A walk of a queue's page table that re-reads every level (07 R223, R228). -/
def walk (s : State) (q : Queue) (va : Nat) : Walk := walkFrom s q.asid q.gen va walkLevels q.ptroot

/-! ### Cached translations (06 R180; 07 R228 to R231) -/

/-- A held translation serves an address of a queue under its present generation. -/
def Xlat.serves (x : Xlat) (q : Queue) (va : Nat) : Bool :=
  x.asid == q.asid && x.gen == q.gen && decide (x.base ≤ va) && decide (va < x.base + x.size)

/-- The core's die. -/
def dieOf (core : Nat) : Nat := core / 128

/-- The translation that the caches hold, in the order of 07 R229: last-page register, core TLB, shared TLB. -/
def held (s : State) (q : Queue) (last : Option Xlat) (core : Option Nat) (die va : Nat) : Option Xlat :=
  match last.filter (fun x => x.serves q va) with
  | some x => some x
  | none =>
    match core.bind (fun c => (tabGet s.cores c).bind (fun k => k.tlb.find? (fun x => x.serves q va))) with
    | some x => some x
    | none => ((tabGet s.dieTlb die).getD []).find? (fun x => x.serves q va)

/-- Translate: a held translation, but a write does not use one that shows dirty clear: it walks again and re-reads every level (07 R228). The
flag tells whether a walk was made. -/
def translate (s : State) (q : Queue) (last : Option Xlat) (core : Option Nat) (die va : Nat) (write : Bool) : Walk × Bool :=
  match held s q last core die va with
  | some x => if !write || x.d then (.leaf x, false) else (walk s q va, true)
  | none => (walkCached s q die va, true)

/-- Put a translation at the head of a cache of bounded size. -/
def cachePut (n : Nat) (xs : List Xlat) (x : Xlat) : List Xlat :=
  (x :: xs.filter (fun y => !(y.base == x.base && y.size == x.size && y.asid == x.asid))).take n

/-- The leaf after a walk: accessed, and dirty for a write (07 R228). -/
def walkedLeaf (x : Xlat) (write : Bool) : Xlat :=
  { x with leaf := if write then x.leaf ||| 0x60000000000#64 else x.leaf ||| 0x40000000000#64 }

/-- What a translation leaves behind: a and d bits in the entry, if a walk was made, and the caches filled (07 R228, R229). -/
def noteXlat (s : State) (core : Option Nat) (die : Nat) (x : Xlat) (write walked : Bool) : State :=
  let x' := if walked then walkedLeaf x write else x
  let s := if walked && x'.leaf != x.leaf then s.writeNum x.leafAt 8 (s.num x.leafAt 8 ||| (x'.leaf.toNat ^^^ x.leaf.toNat)) else s
  let s := { s with dieTlb := tabPut s.dieTlb die (cachePut 16384 ((tabGet s.dieTlb die).getD []) x') }
  match core with
  | some c => { s with cores := tabMod s.cores c (fun k => { k with tlb := cachePut 256 k.tlb x' }) }
  | none => s

/-- The translation as the caches then hold it. -/
def noted (x : Xlat) (write walked : Bool) : Xlat := if walked then walkedLeaf x write else x

/-- Remove the pointer entries that a test picks from every walk cache (07 R230, R231). -/
def dropWalks (s : State) (p : WalkEnt → Bool) : State :=
  { s with dieWalk := s.dieWalk.map (fun x => (x.1, x.2.filter (fun e => !p e))) }

/-- Remove from every cache the translations that a test picks: every TLB and every last-page register (07 R230, R231). -/
def dropXlats (s : State) (p : Xlat → Bool) : State :=
  { s with
    dieTlb := s.dieTlb.map (fun (d, xs) => (d, xs.filter (fun x => !p x)))
    cores := s.cores.map (fun (c, k) => (c, { k with tlb := k.tlb.filter (fun x => !p x) }))
    teams := s.teams.map (fun (t, tm) => (t, { tm with groups := tm.groups.map (fun (g, gr) =>
      (g, { gr with lastPage := gr.lastPage.filter (fun lx => !p lx.2) })) })) }

/-- Remove from every cache the entries of an address space that cover a byte of a range, pointer entries among them (07 R231). -/
def dropRange (s : State) (asid va size : Nat) : State :=
  dropWalks (dropXlats s (fun x => x.asid == asid && overlaps va (va + size) x.base (x.base + x.size)))
    (fun e => e.asid == asid && overlaps va (va + size) (e.pre * 2 ^ (12 + 9 * e.level)) ((e.pre + 1) * 2 ^ (12 + 9 * e.level)))

end Sys2Proof.Machine
end

