-- ==== Sys2Proof/Machine/Ops.lean ====
section
/-! DEFINITION. The named operations that the meanings share: who issues (04 R110), register reads and writes (02 R62, 04 R121), the held
count (04 R122, R123), ending a unit, taking a trap or a page fault (04 R132, R135), leaving RUNNING and switching (04 R110,
R126), and returning from a trap (04 R138). -/

namespace Sys2Proof.Machine

open Sys2Proof

/-- The three outcomes of a step of this machine. -/
abbrev Out := Host.Outcome State Fault Refusal

/-! ### Cores, teams, groups -/

/-- A core by package number; a core never touched is as after reset. -/
def State.core (s : State) (c : Nat) : Core := (tabGet s.cores c).getD Core.reset

/-- Change a core. -/
def State.modCore (s : State) (c : Nat) (f : Core → Core) : State := { s with cores := tabPut s.cores c (f (s.core c)) }

/-- Change a team that exists. -/
def State.modTeam (s : State) (key : Nat) (f : Team → Team) : State := { s with teams := tabMod s.teams key f }

/-- Change a group of a team. -/
def State.modGroup (s : State) (key g : Nat) (f : Group → Group) : State :=
  s.modTeam key (fun t => { t with groups := tabMod t.groups g f })

/-- A group that has not ended has a split (04 R118). -/
def Group.ended (g : Group) : Bool := g.splits.isEmpty

/-- Change a group of a team that has not ended: one that has ended holds no register and no tile (04 R121, log 105). -/
def State.modLive (s : State) (key g : Nat) (f : Group → Group) : State := s.modGroup key g (fun gr => if gr.ended then gr else f gr)

/-- Change a split of a group. -/
def Group.modSplit (g : Group) (i : Nat) (f : Split → Split) : Group :=
  { g with splits := g.splits.map (fun sp => if sp.idx = i then f sp else sp) }

/-- The slot of a core that is RUNNING (04 R110: at most one). -/
def Core.running (c : Core) : Option Slot := c.slots.find? (fun sl => sl.st == .running)

/-- A team's key names its grid and its linear number. -/
def teamKey (grid teamid : Nat) : Nat := grid * 2 ^ 32 + teamid

/-- Record level of a resident team (16 R456). -/
def recordLevel (s : State) (t : Team) : Nat :=
  match tabGet s.grids t.grid, tabGet s.queues t.queue with
  | some g, some q => Nat.min g.launch.prio q.pmax
  | _, _ => 0

/-- A group as a replay record shows it: every source operand as the unit read it when it first issued (04 R127). -/
def Group.under (g : Group) : Option Replay → Group
  | none => g
  | some r => { g with v := r.v, k := r.k, p := r.p, h := r.h }

/-- Everything a unit of the issuing split works on: `group` is where it reads its operands, `live` the group as it stands. -/
structure Ctx where
  core : Nat
  key : Nat
  team : Team
  live : Group
  group : Group
  split : Split
  q : Queue
  grid : Grid
  deriving DecidableEq, Repr

/-- The context of a split, when its team is RUNNING on that core. -/
def ctxAt (s : State) (w : Who) : Option Ctx :=
  match (s.core w.core).running with
  | none => none
  | some sl =>
    match tabGet s.teams sl.team with
    | none => none
    | some t =>
      match (tabGet t.groups w.group).filter (fun g => g.num == w.group) with
      | none => none
      | some g =>
        match g.splits.find? (fun sp => sp.idx == w.split) with
        | none => none
        | some sp =>
          match tabGet s.queues t.queue, tabGet s.grids t.grid with
          | some q, some gr => some { core := w.core, key := sl.team, team := t, live := g, group := g.under sp.replay, split := sp, q := q, grid := gr }
          | _, _ => none

/-- The context of the issuing split. -/
def ctx? (s : State) : Option Ctx := ctxAt s s.cur

/-- A unit acts for the issuing split; without one nothing issues. -/
def issue (s : State) (f : Ctx → State) : Out :=
  match ctx? s with
  | some c => .next (f c)
  | none => .next s

/-! ### Registers (02 R62, 04 R120, R121) -/

/-- A lane register's 32 words; a name with no value reads zero in every lane (04 R121). -/
def Group.vread (g : Group) (n : Nat) : Lanes := (tabGet g.v n).getD (List.replicate 32 0)

/-- One lane of a lane register. -/
def Group.vlane (g : Group) (n l : Nat) : Word := (g.vread n).getD l 0

/-- A 64-bit value in an even-odd pair (02 R62). -/
def Group.vpair (g : Group) (n l : Nat) : DWord := pairVal (g.vlane n l) (g.vlane (n + 1) l)

/-- A uniform register. -/
def Group.kread (g : Group) (n : Nat) : Word := (tabGet g.k n).getD 0

/-- A uniform pair. -/
def Group.kpair (g : Group) (n : Nat) : DWord := pairVal (g.kread n) (g.kread (n + 1))

/-- A predicate's 32 lanes; p0 reads as 1 (02 R62, R64). -/
def Group.pread (g : Group) (n : Nat) : BitVec 32 := if n = 0 then 0xffffffff#32 else (tabGet g.p n).getD 0

/-- One lane of a reference register. -/
def Group.hlane (g : Group) (n l : Nat) : DWord := ((tabGet g.h n).getD (List.replicate 32 0)).getD l 0

/-- A lane's return stack, top first (05 R168). -/
def Group.rets (g : Group) (l : Nat) : List DWord := (tabGet g.ret l).getD []

/-- Set an item's dirty bit (04 R129). -/
def Group.soil (g : Group) (i : Nat) : Group := { g with dirty := setAdd g.dirty i }

/-- A partial write: lanes outside `m` keep what the name held (04 R121). No lane, no write. -/
def Group.vwrite (g : Group) (n : Nat) (m : BitVec 32) (f : Nat → Word) : Group :=
  if m = 0 then g else { g.soil n with v := tabPut g.v n (allLanes.map (fun l => if m.getLsbD l then f l else g.vlane n l)) }

/-- Free a lane register: the name holds no value (02 R59). -/
def Group.vfree (g : Group) (n : Nat) : Group := { g.soil n with v := tabDel g.v n }

def Group.kwrite (g : Group) (n : Nat) (w : Word) : Group := { g.soil (64 + n) with k := tabPut g.k n w }

/-- Write a predicate in the lanes of `m`; p0 is never written (02 R64). -/
def Group.pwrite (g : Group) (n : Nat) (m bits : BitVec 32) : Group :=
  if n = 0 || m = 0 then g else { g.soil (96 + n) with p := tabPut g.p n ((g.pread n &&& ~~~m) ||| (bits &&& m)) }

def Group.hwrite (g : Group) (n : Nat) (m : BitVec 32) (f : Nat → DWord) : Group :=
  if m = 0 then g else { g.soil (104 + n) with h := tabPut g.h n (allLanes.map (fun l => if m.getLsbD l then f l else g.hlane n l)) }

/-- What a unit does to registers: names it frees, lane registers, uniform registers, predicates and references it writes. -/
structure Eff where
  frees : List Nat := []
  v : List (Nat × BitVec 32 × (Nat → Word)) := []
  k : List (Nat × Word) := []
  p : List (Nat × BitVec 32 × BitVec 32) := []
  h : List (Nat × BitVec 32 × (Nat → DWord)) := []

/-- The group after the frees of a unit (02 R59: a marked source is freed before the destination is written). -/
def Group.freed (g : Group) (e : Eff) : Group := e.frees.foldl Group.vfree g

/-- The group after a unit's register effects. -/
def Group.apply (g : Group) (e : Eff) : Group :=
  let g := e.v.foldl (fun g w => g.vwrite w.1 w.2.1 w.2.2) (g.freed e)
  let g := e.k.foldl (fun g w => g.kwrite w.1 w.2) g
  let g := e.p.foldl (fun g w => g.pwrite w.1 w.2.1 w.2.2) g
  e.h.foldl (fun g w => g.hwrite w.1 w.2.1 w.2.2) g

/-- Acting lanes: the guarded lanes, or the split's lanes without a guard (02 R57, 05 R141). -/
def acting (s : State) (c : Ctx) : BitVec 32 :=
  match s.unit.guard with
  | none => c.split.mask
  | some (n, p) => c.split.mask &&& (if n = 1 then ~~~(c.group.pread p.toNat) else c.group.pread p.toNat)

/-! ### Trap conditions -/

/-- A trap condition that holds: its code, its detail words and the lanes it holds in. -/
structure Cond where
  code : Nat
  d0 : Nat
  d1 : Nat
  lanes : BitVec 32
  deriving DecidableEq, Repr

/-- A condition of single lanes: detail0 is the lowest lane's, detail1 the offending lanes or as given. -/
def laneCond (code : Nat) (m : BitVec 32) (d0 : Nat → Nat) (d1 : Nat → Nat) : List Cond :=
  if m = 0 then [] else [{ code := code, d0 := d0 (lowLane m), d1 := d1 (lowLane m), lanes := m }]

/-- A condition of the whole unit. -/
def wholeCond (hold : Bool) (code d0 d1 : Nat) (lanes : BitVec 32) : List Cond :=
  if hold then [{ code := code, d0 := d0, d1 := d1, lanes := lanes }] else []

/-- The condition with the lowest code (01 R40). -/
def lowest : List Cond → Option Cond
  | [] => none
  | c :: t =>
    match lowest t with
    | some d => if d.code < c.code then some d else some c
    | none => some c

/-! ### The held count and the register pool (04 R122, R123) -/

/-- Lane register names that a unit creates. -/
def created (g : Group) (e : Eff) : List Nat :=
  ((e.v.filter (fun w => w.2.1 ≠ 0)).map (·.1)).filter (fun n => (tabGet (g.freed e).v n).isNone)

/-- Held count (04 R122). -/
def Group.heldCount (g : Group) : Nat := g.v.length

/-- The peak condition, of the whole unit (04 R122, R133). -/
def peakCond (c : Ctx) (e : Eff) : List Cond :=
  let n := created c.live e
  wholeCond (!n.isEmpty && decide ((c.live.apply e).heldCount > c.grid.launch.peak)) 0x04 (n.headD 0) c.live.heldCount c.split.mask

/-- The pool's free registers (04 R123). -/
def poolFree (t : Team) (minRegs : Nat) : Nat :=
  t.budget - t.groups.length * minRegs - (t.groups.map (fun g => g.2.heldCount - minRegs)).foldl (· + ·) 0

/-- The senior group: the unended group with the lowest number (04 R123). -/
def seniorGroup (t : Team) : Option Nat := ((t.groups.filter (fun g => !g.2.ended)).map (·.1)).head?

/-- Units that asked for registers before the issuing split did, and wait (04 R123). -/
def asksBefore (c : Ctx) : List (Nat × Nat) := c.team.requests.takeWhile (fun r => r != (c.group.num, c.split.idx))

/-- Whether a unit's new values get their registers; otherwise it waits at issue (04 R123). The senior group is served whenever registers
are free, the others in the order in which they asked. -/
def poolOk (c : Ctx) (e : Eff) : Bool :=
  let mn := c.grid.launch.min
  let before := (c.live.freed e).heldCount
  let after := (c.live.apply e).heldCount
  let need := (after - mn) - (before - mn)
  let free := poolFree c.team mn + (c.live.heldCount - mn) - (before - mn)
  need == 0 || (if seniorGroup c.team = some c.group.num then decide (free ≥ need)
                else decide (free ≥ need + (c.grid.launch.peak - mn)) && (asksBefore c).all (fun r => seniorGroup c.team == some r.1))

/-- A unit that cannot have its registers waits at issue, in its place among those that ask (04 R123). -/
def askRegs (s : State) (c : Ctx) : State :=
  s.modTeam c.key (fun t =>
    { t with requests := if t.requests.contains (c.group.num, c.split.idx) then t.requests else t.requests ++ [(c.group.num, c.split.idx)] })

/-- A unit that issues asks no more. -/
def Team.served (t : Team) (g i : Nat) : Team := { t with requests := t.requests.filter (fun r => r != (g, i)) }

/-! ### Update-only lines (07 R218, R219) -/

/-- Flush an update-only line: the home bank applies every touched element (07 R218). -/
def flushLine (s : State) (u : UpdLine) : State :=
  u.elems.foldl (fun s el =>
    let a := u.pa + 4 * el.1
    s.writeNum a 4 (bankUpd u.op u.ty (BitVec.ofNat 32 (s.num a 4)) el.2).toNat) s

/-- Flush the lines of a core that a test picks. -/
def flushCore (s : State) (core : Nat) (p : UpdLine → Bool) : State :=
  let k := s.core core
  if (k.upd.filter p).isEmpty then s else
  ((k.upd.filter p).foldl flushLine s).modCore core (fun k => { k with upd := k.upd.filter (fun u => !p u) })

/-! ### Writes that home slices hold (07 R233, 13 R392) -/

/-- A write to these bytes waits at its home slice, because their page is being moved (07 R233). Between the flip and its acknowledgement the
destination is held too, so that no read of the source is older than a read of the destination (R234). -/
def heldByMigration (s : State) (pa n : Nat) : Bool :=
  s.migrations.any (fun m => m.2.begun &&
    (((m.2.st == .final || m.2.st == .inval) && overlaps pa (pa + n) m.2.src (m.2.src + m.2.size)) ||
      (m.2.st == .inval && overlaps pa (pa + n) m.2.dest (m.2.dest + m.2.size))))

/-- A write to these bytes of a queue's address space waits, because their object is between FINAL and its acknowledgement
(13 R392). -/
def heldByCycle (s : State) (qn va n : Nat) : Bool :=
  match (tabGet s.heaps qn).bind (·.cycle) with
  | none => false
  | some c => (c.st == .final || c.st == .ack) && c.objs.any (fun o => overlaps va (va + n) o.old (o.old + 16 + o.size))

/-! ### Leaving RUNNING and switching (04 R110, R126) -/

/-- Set a slot of a core. -/
def State.setSlot (s : State) (core i : Nat) (sl : Slot) : State :=
  s.modCore core (fun k => { k with slots := listSet k.slots i sl })

/-- Index of the slot of a core that a test picks. -/
def slotIdx (k : Core) (p : Slot → Bool) : Option Nat := k.slots.findIdx? p

/-- Of two SHADOW slots, the one to switch in: the higher level, then the earlier (04 R110). A slot whose eviction waits for the streaming path is not
switched in, though no slot be RUNNING: the manual does not say (log 94). -/
def shadowPick (s : State) (k : Core) : Option Nat :=
  let cand := (List.range k.slots.length).filterMap (fun i =>
    match k.slots[i]? with
    | some sl => if sl.st == .shadow && !sl.evict then some (i, sl) else none
    | none => none)
  let lvl := fun (sl : Slot) => match tabGet s.teams sl.team with | some t => recordLevel s t | none => 0
  (cand.foldl (fun best c =>
    match best with
    | none => some c
    | some b => if lvl b.2 < lvl c.2 || (lvl b.2 == lvl c.2 && decide (c.2.since < b.2.since)) then some c else some b) none).map (·.1)

/-- Range entries that an attention unit holds on its core (10 R307). -/
def Att.locks (a : Att) (key id : Nat) : List RangeLock :=
  a.hulls.map (fun h => { lo := alignDown h.1 64, hi := alignUp (h.1 + h.2.1) 64, asid := none, write := h.2.2, team := key, op := id })

/-- An attention unit that was abandoned, or stopped, begins anew: a fresh sample, a fresh look at its list (01 R34, 10 R320). -/
def Att.restart (a : Att) (pe : Nat) (stopped : Bool) : Att :=
  if stopped || a.sample.isNone then { a with sample := some pe, list := none } else a

/-- Enough range-lock entries of a core are free; otherwise who needs them waits (03 R100). -/
def locksFit (s : State) (core n : Nat) : Bool := decide ((s.core core).locks.length + n ≤ 32)

/-- An attention unit that was abandoned begins anew, entering its ranges anew (10 R307); it stays abandoned while its core has too few free
entries (03 R100). -/
def readmit (s : State) (core key id : Nat) (o : Op) (a : Att) : State :=
  let again := fun (s : State) => { s with ops := tabPut s.ops id { o with halted := false, body := .att (a.restart s.pe o.halted) } }
  if a.sample.isSome then again s
  else if locksFit s core a.hulls.length then again (s.modCore core (fun k => { k with locks := k.locks ++ a.locks key id }))
  else { s with ops := tabPut s.ops id { o with halted := false } }

/-- A team that runs again executes its replay records (04 R127): units that faulted go on, and abandoned attention units begin at step 1. -/
def resample (s : State) (core key : Nat) : State :=
  s.ops.foldl (fun s o =>
    if o.2.team ≠ key then s else
    match o.2.body with
    | .att a => readmit s core key o.1 o.2 a
    | _ => { s with ops := tabPut s.ops o.1 { o.2 with halted := false } }) s

/-- No slot of a core is FILLING or SAVING: the streaming path is free (04 R110). -/
def pathFree (k : Core) : Bool := k.slots.all (fun sl => sl.st != .filling && sl.st != .saving)

/-- The groups that a switch loads into the schedulers: the first 16 that have not ended (04 R112, R126). -/
def firstActive (s : State) (key : Nat) : List Nat :=
  match tabGet s.teams key with
  | some t => ((t.groups.filter (fun g => !g.2.ended)).map (·.1)).take 16
  | none => []

/-- Switch in a SHADOW slot when none is RUNNING (04 R110, R126). -/
def switchIn (s : State) (core : Nat) : State :=
  let k := s.core core
  if k.running.isSome then s
  else match shadowPick s k with
    | none => s
    | some i =>
      match k.slots[i]? with
      | none => s
      | some sl => 
        resample ((s.setSlot core i { sl with st := .running, since := s.cycle, retain := false }).modCore core
          (fun k => { k with active := firstActive s sl.team })) core sl.team

/-- The team on a core's RUNNING slot leaves RUNNING: the slot drains and a SHADOW slot is switched in (04 R110). -/
def leaveRunning (s : State) (core : Nat) (why : Cause) (retain : Bool) : State :=
  let k := s.core core
  match slotIdx k (fun sl => sl.st == .running), k.running with
  | some i, some sl =>
    let s := s.setSlot core i { sl with st := .draining, since := s.cycle, retain := retain }
    let s := { s with maskHolds := s.maskHolds.filter (fun h => h.team != sl.team) }
    switchIn (s.modTeam sl.team (fun t => { t with cause := why, ran := t.ran + (s.cycle - sl.since), requests := [] })) core
  | _, _ => s

/-- The team that causes its own leaving while it drains already: the trap's course applies (04 R128, R136). -/
def noteCause (s : State) (core key : Nat) (why : Cause) : State :=
  let k := s.core core
  match slotIdx k (fun sl => sl.st == .draining && sl.team == key) with
  | some i =>
    match k.slots[i]? with
    | some sl => (s.setSlot core i { sl with retain := false }).modTeam key
        (fun t => { t with cause := if t.cause == .trap then .trap else why })
    | none => s
  | none => s

/-! ### Taking a trap, and a page fault (04 R132, R133, R135) -/

/-- Where a unit stands when it traps or faults. -/
structure Site where
  key : Nat
  core : Nat
  group : Nat
  split : Nat
  unit : DWord
  npc : DWord
  splitLanes : BitVec 32
  defer : Nat
  op : Nat
  deriving DecidableEq, Repr

/-- The site of the unit that the issuing split executes. -/
def unitSite (s : State) (c : Ctx) : Site :=
  { key := c.key, core := c.core, group := c.group.num, split := c.split.idx, unit := s.unit.addr, npc := s.unit.npc
    splitLanes := c.split.mask, defer := c.split.stack.length, op := 0 }

/-- Deferral depth of a split as it stands. -/
def deferOf (t : Team) (g i : Nat) : Nat :=
  match (tabGet t.groups g).bind (fun gr => gr.splits.find? (fun sp => sp.idx == i)) with
  | some sp => sp.stack.length
  | none => 0

/-- The site of an engine operation. -/
def opSite (s : State) (id : Nat) (o : Op) : Site :=
  { key := o.team, core := o.core, group := o.group, split := o.split, unit := o.unit, npc := o.npc, splitLanes := o.mask
    defer := ((tabGet s.teams o.team).map (fun t => deferOf t o.group o.split)).getD 0, op := id }

/-- Mark an operation as stopped by its trap or fault. -/
def haltOp (s : State) (id : Nat) : State :=
  if id = 0 then s else { s with ops := tabMod s.ops id (fun o => { o with halted := true }) }

/-- A unit in flight that traps frees nothing and creates nothing (02 R59, R44): names that it created hold no value, and names that its marks
freed hold theirs again, unless a later unit has written them (log 99). -/
def Op.undo (o : Op) (g : Group) : Group :=
  o.marked.foldl (fun g m => if (tabGet g.v m.1).isSome then g else { g.soil m.1 with v := tabPut g.v m.1 m.2 }) (o.made.foldl Group.vfree g)

/-- A unit in flight that executes again frees and creates as at its issue (04 R138). -/
def Op.redo (o : Op) (g : Group) : Group :=
  o.made.foldl (fun g n => if (tabGet g.v n).isSome then g else { g.soil n with v := tabPut g.v n (List.replicate 32 0) })
    ((o.marked.map (·.1)).foldl Group.vfree g)

/-- The registers of an operation's group change; 0 names no operation. -/
def opGroup (s : State) (id : Nat) (f : Op → Group → Group) : State :=
  if id = 0 then s else
  match tabGet s.ops id with
  | some o => if o.made.isEmpty && o.marked.isEmpty then s else s.modLive o.team o.group (f o)
  | none => s

/-- Generation of a team's address space (04 R133). -/
def teamGen (s : State) (key : Nat) : Nat := (((tabGet s.teams key).bind (fun t => tabGet s.queues t.queue)).map (·.gen)).getD 0

/-- TAKING A TRAP (04 R132). The unit has no effect; its group issues no further unit; the team leaves RUNNING, or, where it
drains already, the trap joins that drain (04 R128, R136). The record is written after the save (TRAP_RECORD_WRITE). -/
def takeTrap (s : State) (at_ : Site) (c : Cond) : State :=
  let running := match (s.core at_.core).running with | some sl => sl.team == at_.key | none => false
  let t : Trap := { code := c.code, detail0 := BitVec.ofNat 64 c.d0, detail1 := BitVec.ofNat 64 c.d1, unit := at_.unit
                    npc := at_.npc, cycle := s.cycle, lanes := c.lanes, splitLanes := at_.splitLanes, group := at_.group
                    split := at_.split, defer := at_.defer, core := at_.core, drain := !running, op := at_.op, gen := teamGen s at_.key }
  let s := (opGroup (haltOp s at_.op) at_.op Op.undo).modTeam at_.key (fun tm =>
    { tm with traps := tm.traps ++ [t], groups := tabMod tm.groups at_.group (fun g => { g with stopped := true }) })
  if running then leaveRunning s at_.core .trap false else noteCause s at_.core at_.key .trap

/-- What a walk that met an invalid entry reports (07 R241). -/
structure FaultInfo where
  va : Nat
  lanes : BitVec 32
  level : Nat
  entry : Nat
  access : Nat
  source : Nat
  deriving DecidableEq, Repr

/-- The bits of a fault record, `seq` still zero (07 R241). -/
def faultBits (s : State) (qn : Nat) (q : Queue) (grid team core group split : Nat) (unit : DWord) (f : FaultInfo) : Nat :=
  packBits [(26, 0), (4, f.source), (3, f.access), (3, f.level), (2, split), (5, group), (9, core), (12, qn), (32, 0), (12, q.asid),
    (20, q.gen), (64, f.entry), (32, 0), (32, f.lanes.toNat), (32, team), (32, grid), (64, s.cycle), (64, unit.toNat), (64, f.va)]

/-- A new name for an operation, a fault or a record. -/
def State.named (s : State) : State := { s with nextOp := s.nextOp + 1 }

/-- A fault record waits to be written (07 R240). -/
def addFault (s : State) (qn bits : Nat) (who : Faulter) : State :=
  { s.named with faults := tabPut s.faults s.nextOp { queue := qn, bits := bits, who := who, seq := none } }

/-- A unit that faults becomes a replay record, with its operands as it read them (04 R127, R135). One whose fetch faulted was never issued. -/
def keepReplay (s : State) (at_ : Site) : State :=
  if at_.op ≠ 0 || s.unit.halves.isEmpty then s else
  s.modGroup at_.key at_.group (fun g => g.modSplit at_.split (fun sp =>
    if sp.replay.isSome then sp else { sp with replay := some ⟨s.unit.halves, g.v, g.k, g.p, g.h⟩ }))

/-- TAKING A PAGE FAULT (04 R135): the unit has no effect and will replay; a fault record is queued and the team leaves RUNNING. A
unit that faults in the drain of a killed grid writes no record (04 R137). `%faults` counts these records, the ones on which the team itself
waits: whether it counts those of its engine operations and channels is not said (log 76). -/
def takeFault (s : State) (at_ : Site) (f : FaultInfo) : State :=
  match tabGet s.teams at_.key with
  | none => s
  | some t =>
    match tabGet s.queues t.queue, tabGet s.grids t.grid with
    | some q, some g =>
      let s := keepReplay (haltOp s at_.op) at_
      let s := if g.killed then s else
        (addFault s t.queue (faultBits s t.queue q t.grid t.teamid at_.core at_.group at_.split at_.unit f) (.team at_.key)).modTeam
          at_.key (fun t => { t with pending := t.pending + 1, faults := t.faults + 1 })
      let running := match (s.core at_.core).running with | some sl => sl.team == at_.key | none => false
      if running then leaveRunning s at_.core .fault false else noteCause s at_.core at_.key .fault
    | _, _ => s

/-! ### Returning from a trap (04 R138, 16 R463) -/

/-- Release the entries of an operation that a test picks, on whichever core or with the saved team (03 R99, R100). -/
def releaseLocks (s : State) (op : Nat) (p : RangeLock → Bool) : State :=
  { s with cores := s.cores.map (fun k => (k.1, { k.2 with locks := k.2.locks.filter (fun l => !(l.op == op && p l)) }))
           teams := s.teams.map (fun t => (t.1, { t.2 with locks := t.2.locks.filter (fun l => !(l.op == op && p l)) })) }

/-- An operation ends: it leaves the machine and releases what it still holds. -/
def endOp (s : State) (id : Nat) : State :=
  let s := releaseLocks s id (fun _ => true)
  { s with ops := tabDel s.ops id }

/-- The trapping unit is treated as completed without effect: its split continues at the next unit (04 R138 skip). -/
def skipUnit (tm : Team) (t : Trap) : Team :=
  if t.op ≠ 0 then tm else
  { tm with groups := tabMod tm.groups t.group (fun g => g.modSplit t.split (fun sp => if sp.pc = t.unit then { sp with pc := t.npc, replay := none } else sp)) }

/-- RETURNING FROM A TRAP (04 R138): the groups may issue again, the trapping units continue after themselves (skip) or execute again
(retry); those that were in flight do so when the team is RUNNING again. The team is READY once every fault of its save is answered. -/
def resumeTeam (s : State) (key : Nat) (skip : Bool) : State :=
  match tabGet s.teams key with
  | none => s
  | some t =>
    let done := t.traps.map (·.op)
    let t' := if skip then t.traps.foldl skipUnit t else t
    let t' := { t' with traps := [], resumed := true, groups := t'.groups.map (fun g => (g.1, { g.2 with stopped := false }))
                        st := if t.pending = 0 then .ready else t.st
                        readySince := if t.pending = 0 then s.cycle else t.readySince, levelUp := 0 }
    let s := { s with teams := tabPut s.teams key t' }
    let mine := (s.ops.filter (fun o => o.2.team == key && done.contains o.1)).map (·.1)
    if skip then mine.foldl endOp s
    else mine.foldl (fun s id => opGroup s id Op.redo) s

/-! ### Ending a unit -/

/-- One unit of the split has issued: every open lookahead window has one unit less (02 R60), and a replay record has been executed
(04 R127). -/
def tick (sp : Split) : Split := { sp with windows := sp.windows.map (fun w => (w.1, w.2 - 1)), replay := none }

/-- The issuing split's unit ends, as a change of its group; it asks for registers no more. -/
def endUnit (s : State) (c : Ctx) (f : Group → Group) : State :=
  (s.modTeam c.key (fun t => t.served c.group.num c.split.idx)).modGroup c.key c.group.num f

/-- The unit ends: registers take its effects and the split goes to `pc`. -/
def finishAt (s : State) (c : Ctx) (e : Eff) (pc : DWord) : State :=
  endUnit s c (fun g => (g.apply e).modSplit c.split.idx (fun sp => { tick sp with pc := pc }))

/-- The same, to the next unit. -/
def finish (s : State) (c : Ctx) (e : Eff) : State := finishAt s c e s.unit.npc

/-- A unit with trap conditions, register effects and an action on the rest of the state: the lowest code traps (01 R40); a unit that
cannot have its registers waits (04 R123); otherwise it takes effect whole. -/
def unitWith (s : State) (c : Ctx) (conds : List Cond) (e : Eff) (act : State → State) : State :=
  match lowest (peakCond c e ++ conds) with
  | some t => takeTrap s (unitSite s c) t
  | none => if poolOk c e then finish (act s) c e else askRegs s c

/-- A unit that changes registers only. -/
def unit (s : State) (c : Ctx) (e : Eff) : State := unitWith s c [] e id

/-! ### Audit events of a unit (07 R239) -/

/-- An audit event of the issuing group. -/
def unitAudit (s : State) (c : Ctx) (va lanes count cls path kind : Nat) : State :=
  audit s c.team.queue { unit := s.unit.addr.toNat, va := va, identity := c.q.identity.toNat, grid := c.team.grid, team := c.team.teamid
                         lanes := lanes, count := count, detail := 0, cls := cls, core := c.core, group := c.group.num, path := path, kind := kind }

/-- The queue that an operation acts for: its own, as it stood at its destruction, once its number has been given up (01 R22). -/
def opQueue (s : State) (o : Op) : Option Queue := if o.own.isSome then o.own else tabGet s.queues o.queue

/-- A number that no queue has. -/
def noQueue : Nat := 4096

/-- The number under which an operation finds the heap and the narrow pages of its queue: those of a queue that is gone are gone with it. -/
def Op.qn (o : Op) : Nat := if o.own.isSome then noQueue else o.queue

/-- The same for a team whose chains outlive its queue. -/
def Team.qn (t : Team) : Nat := if t.own.isSome then noQueue else t.queue
def teamQueue (s : State) (t : Team) : Option Queue := if t.own.isSome then t.own else tabGet s.queues t.queue

/-- An audit event of a unit that is in flight, with its lanes. A destroyed queue has no ring. -/
def opAuditL (s : State) (o : Op) (va lanes count detail cls path kind : Nat) : State :=
  match if o.own.isSome then none else tabGet s.queues o.queue with
  | none => s
  | some q => audit s o.queue { unit := o.unit.toNat, va := va, identity := q.identity.toNat, grid := o.grid, team := o.team % 2 ^ 32
                                lanes := lanes, count := count, detail := detail, cls := cls, core := o.core, group := o.group, path := path
                                kind := kind }

/-- An audit event of an engine operation. -/
def opAudit (s : State) (o : Op) (va count detail cls path kind : Nat) : State := opAuditL s o va 0 count detail cls path kind

/-! ### Free choices (log 4) -/

/-- The implementation's next choice; 0 when none is listed. -/
def choice (s : State) : Nat := s.choices.headD 0
def State.chosen (s : State) : State := { s with choices := s.choices.tail }

/-- A 64-bit value that the manual leaves open (log 7); the state after it is taken. -/
def freeWord (s : State) : State × DWord := ({ s with fresh := s.fresh + 1 }, Config.freeDWord s.fresh)

/-! ### Scratchpad of a team (06 R177, R191; 04 R130) -/

/-- Address of the scratchpad image in a team's frame (04 R130). -/
def imageAddr (t : Team) : Nat := t.frame + 8192 + 94208 * t.groups.length

/-- Physical address of a byte of a team's allocation: in its core's scratchpad, or in its saved image (14 R419). -/
def Team.spadAt (t : Team) (o : Nat) : Nat := if t.saved then imageAddr t + o else spadAddr t.core (t.spadOff + o)

/-- A barrier tag in a team's allocation that a range of offsets meets: its granule's offset (06 R195). -/
def teamTag (s : State) (t : Team) (o n : Nat) : Option Nat :=
  if t.saved then (if n = 0 then none else t.imageTags.find? (fun g => overlaps o (o + n) g (g + 16)))
  else (tagIn s (t.spadAt o) n).map (fun a => a - t.spadAt 0)

/-- A team's running time (04 R117). -/
def runTime (s : State) (t : Team) : Nat :=
  match (s.core t.core).running with
  | some sl => if sl.team = teamKey t.grid t.teamid then t.ran + (s.cycle - sl.since) else t.ran
  | none => t.ran

/-- Core-side slot of a team, when it holds one. -/
def slotOf (s : State) (key : Nat) : Option Slot :=
  (tabGet s.teams key).bind (fun t => (s.core t.core).slots.find? (fun sl => sl.team == key && sl.st != .empty))

/-- A team's slot is RUNNING, SHADOW or DRAINING (06 R178). -/
def liveSlot (s : State) (key : Nat) : Bool :=
  match slotOf s key with
  | some sl => sl.st == .running || sl.st == .shadow || sl.st == .draining
  | none => false

end Sys2Proof.Machine
end

