-- ==== Sys2Proof/Machine/Engine.lean ====
section
/-! DEFINITION. Ranges of virtual addresses as engines and lanes reach them: pages, translation, the grant set (07 R225 to R237). -/

namespace Sys2Proof.Machine

open Sys2Proof

/-- Where an access looks its lines up (06 R181, R183): at their home slices; in the L1 of a core first; or, for `ld.ro`, also in those of its
quad. -/
inductive Via where
  | slice
  | l1 (core : Nat)
  | ro (core : Nat)
  deriving DecidableEq, Repr

/-- The L1 in which an access allocates. -/
def Via.fills : Via → Option Nat
  | .l1 k => some k
  | _ => none

/-- A part of a range that lies in one page: its addresses, its length and its translation. -/
structure Piece where
  va : Nat
  pa : Nat
  n : Nat
  x : Xlat
  walked : Bool
  /-- Where its lines are looked up. -/
  via : Via := .slice
  deriving DecidableEq, Repr

/-- How a range is reached: whole, or up to the first page whose entry is invalid or malformed. -/
inductive Reach where
  | ok (ps : List Piece)
  | invalid (va level entry : Nat)
  | malformed (va level entry : Nat)
  | bad (va granule : Nat)
  deriving DecidableEq, Repr

/-- A range cut at every multiple of the smallest page size. -/
def pageCuts (va n : Nat) : List (Nat × Nat) :=
  if n = 0 then [] else
  (List.range ((va + n - 1) / 65536 - va / 65536 + 1)).map (fun i =>
    let lo := Nat.max va ((va / 65536 + i) * 65536)
    let hi := Nat.min (va + n) ((va / 65536 + i + 1) * 65536)
    (lo, hi - lo))

/-- Translate the pages of a list of cuts, in ascending order. -/
def reachCuts (s : State) (q : Queue) (last : Option Xlat) (core : Option Nat) (die : Nat) (write : Bool) : List (Nat × Nat) → Reach
  | [] => .ok []
  | (va, n) :: t =>
    match translate s q last core die va write with
    | (.invalid l e, _) => .invalid va l e
    | (.malformed l e, _) => .malformed va l e
    | (.bad g, _) => .bad va g
    | (.leaf x, w) =>
      match reachCuts s q last core die write t with
      | .ok ps => .ok ({ va := va, pa := x.pa va, n := n, x := x, walked := w } :: ps)
      | r => r

/-- Translate a range. -/
def reach (s : State) (q : Queue) (last : Option Xlat) (core : Option Nat) (die : Nat) (write : Bool) (va n : Nat) : Reach :=
  reachCuts s q last core die write (pageCuts va n)

/-- The entry as a malformed-entry trap reports it: the level replaces bits [63:61] (07 R242). -/
def entryWithLevel (level entry : Nat) : Nat := entry % 2 ^ 61 + level * 2 ^ 61

/-- The class that a line carries where an access meets it: in the L1 of the core, else at the slice, and where neither holds it, that of the
translation in use. `ld.ro` takes a quad peer's copy before the slice's where the queue admits it (06 R183, 07 R236). -/
def lineCarries (s : State) (q : Queue) (v : Via) (cls line : Nat) : Nat :=
  let slice := (tabGet s.lineClass line).getD cls
  let at_ := fun (k : Nat) => (tabGet s.l1Lines (l1Key k line)).map (·.1)
  match v with
  | .slice => slice
  | .l1 k => (at_ k).getD slice
  | .ro k => (at_ k).getD (((List.range 4).findSome? (fun i => (at_ (k / 4 * 4 + i)).filter (admits q))).getD slice)

/-- The lowest class that a queue does not admit, of a piece's translation and of its lines (07 R236); none where all are admitted. -/
def deniedClass (s : State) (q : Queue) (p : Piece) : Option Nat :=
  (((p.x.cls :: (linesOf p.pa p.n).map (lineCarries s q p.via p.x.cls)).filter (fun c => !admits q c))).min?

/-- Bytes of a piece whose class is denied, by line (07 R237: zeros for each denied byte). -/
def byteDenied (s : State) (q : Queue) (p : Piece) (i : Nat) : Bool :=
  !admits q p.x.cls || !admits q (lineCarries s q p.via p.x.cls ((p.pa + i) / 128))

/-- Number of denied bytes of a piece. -/
def deniedCount (s : State) (q : Queue) (p : Piece) : Nat :=
  if (deniedClass s q p).isNone then 0
  else ((List.range p.n).filter (byteDenied s q p)).length

/-- The first granule with bad check bits that a read of a piece delivers bytes of: a denied line delivers none (07 R210, R237). -/
def badAdmitted (s : State) (q : Queue) (p : Piece) : Option Nat :=
  if s.bad.isEmpty then none else
  ((granules p.pa p.n).find? (fun g => s.bad.contains g && !byteDenied s q p (Nat.max (g * 64) p.pa - p.pa))).map (· * 64)

/-- A piece's bytes as a reader receives them: denied bytes are zeros. -/
def readPiece (s : State) (q : Queue) (p : Piece) : List Byte :=
  if (deniedClass s q p).isNone then s.bytes p.pa p.n
  else (List.range p.n).map (fun i => if byteDenied s q p i then 0 else memGet s.mem (p.pa + i))

/-- A byte as the read-only path of a grid meets it: the value that memory holds, or an older one that the 8 bytes around it held since the
grid's launch (03 R85, 02 R46). -/
def roByte (s : State) (grid a : Nat) : Byte :=
  match s.past.find? (fun x => x.on && x.grid == grid && x.unit == a / 8) with
  | some x => BitVec.ofNat 8 (x.value / 2 ^ (8 * (a % 8)))
  | none => memGet s.mem a

/-- A piece's bytes on the read-only path. -/
def readOnlyPath (s : State) (q : Queue) (grid : Nat) (p : Piece) : List Byte :=
  (List.range p.n).map (fun i => if byteDenied s q p i then 0 else roByte s grid (p.pa + i))

/-- Bytes of a range, in order. -/
def readPieces (s : State) (q : Queue) (ps : List Piece) : List Byte := ps.flatMap (readPiece s q)

/-- Write bytes over the pieces of a range. -/
def writePieces (s : State) : List Piece → List Byte → State
  | [], _ => s
  | p :: t, bs => writePieces (s.write p.pa (bs.take p.n)) t (bs.drop p.n)

/-- What the translations of a range leave behind (07 R228, R229, R236). Lines outside the device region take the queue's identity and the
translation's class. -/
def notePieces (s : State) (q : Queue) (core : Option Nat) (die : Nat) (write : Bool) (ps : List Piece) : State :=
  ps.foldl (fun s p =>
    let s := noteXlat s core die p.x write p.walked
    if p.x.region = 2 then s else s.fill none p.pa p.n q.identity.toNat p.x.cls) s

/-- Store of bytes is forbidden by the page: w = 0, or read-only shared (07 R227). -/
def Piece.readOnly (p : Piece) : Bool := !p.x.w || p.x.region == 3

/-! ### Update-only lines that an access meets (07 R219) -/

/-- Any other access by a core to a line's bytes flushes it first. -/
def flushMet (s : State) (core : Nat) (pa n : Nat) : State :=
  flushCore s core (fun u => overlaps pa (pa + n) u.pa (u.pa + 128))

/-! ### The hardware's own reads and writes, without a grant-set check (07 R236) -/

/-- Physical pieces of a range by the page table as it stands; none where some page has no leaf. -/
def hwPieces (s : State) (q : Queue) (va n : Nat) : Option (List (Nat × Nat)) :=
  (pageCuts va n).foldl (fun acc c =>
    match acc, walk s q c.1 with
    | some l, .leaf x => some (l ++ [(x.pa c.1, c.2)])
    | _, _ => none) (some [])

/-- Read bytes. -/
def hwRead (s : State) (q : Queue) (va n : Nat) : Option (List Byte) :=
  (hwPieces s q va n).map (fun ps => ps.flatMap (fun p => s.bytes p.1 p.2))

/-- Read a little-endian number; zero where it cannot be reached. -/
def hwNum (s : State) (q : Queue) (va n : Nat) : Nat := natOfBytes ((hwRead s q va n).getD [])

/-- The walks of the hardware's own accesses set a, and d for a write, in the leaves that they meet (07 R228). -/
def hwNote (s : State) (q : Queue) (va n : Nat) (write : Bool) : State :=
  (pageCuts va n).foldl (fun s c =>
    match walk s q c.1 with
    | .leaf x =>
      let e := (walkedLeaf x write).leaf
      if e = x.leaf then s else s.writeNum x.leafAt 8 e.toNat
    | _ => s) s

/-- Write bytes; nothing where they cannot be reached. -/
def hwWrite (s : State) (q : Queue) (va : Nat) (bs : List Byte) : State :=
  match hwPieces s q va bs.length with
  | none => s
  | some ps => hwNote (ps.foldl (fun (a : State × List Byte) p => (a.1.write p.1 (a.2.take p.2), a.2.drop p.2)) (s, bs)).1 q va bs.length true

/-- Write a little-endian number. -/
def hwWriteNum (s : State) (q : Queue) (va n v : Nat) : State := hwWrite s q va (bytesOf n v)

/-! ### Flushes that home slices hold (07 R233, 13 R392) -/

/-- A range of physical bytes meets a range of a queue's address space. -/
def meetsVirtual (s : State) (q : Queue) (va n pa m : Nat) : Bool :=
  match hwPieces s q va n with
  | some ps => ps.any (fun x => overlaps pa (pa + m) x.1 (x.1 + x.2))
  | none => false

/-- A write to these physical bytes meets a source between FINAL and its acknowledgement, in a cycle of the heap (13 R392). -/
def sourceHolds (s : State) (h : Nat × Heap) (pa n : Nat) : Bool :=
  match h.2.cycle, tabGet s.queues h.1 with
  | some c, some q => (c.st == .final || c.st == .ack) && c.objs.any (fun o => meetsVirtual s q o.old (16 + o.size) pa n)
  | _, _ => false

/-- An access to these physical bytes meets a destination between the flip and its acknowledgement (13 R392). -/
def destHolds (s : State) (pa n : Nat) : Bool :=
  s.heaps.any (fun h => match h.2.cycle, tabGet s.queues h.1 with
    | some c, some q => c.st == .ack && c.objs.any (fun o => meetsVirtual s q o.new (16 + o.size) pa n)
    | _, _ => false)

/-- A write to these physical bytes waits, because they lie in a source between FINAL and its acknowledgement, or in a destination between
the flip and it (13 R392). -/
def heldObject (s : State) (pa n : Nat) : Bool := s.heaps.any (fun h => sourceHolds s h pa n) || destHolds s pa n

/-- A flush would write bytes that a page migration or a relocation cycle holds: what needs the flush waits. -/
def flushHeld (s : State) (core : Nat) (p : UpdLine → Bool) : Bool :=
  ((s.core core).upd.filter p).any (fun u => heldByMigration s u.pa 128 || heldObject s u.pa 128)

/-! ### Live window accesses (06 R178) -/

/-- The team of a grid whose allocation on a core holds a range of scratchpad bytes, while its slot is RUNNING, SHADOW or
DRAINING. -/
def windowTeam (s : State) (grid core off n : Nat) : Option Nat :=
  ((s.core core).slots.filter (fun sl => sl.st == .running || sl.st == .shadow || sl.st == .draining)).findSome? (fun sl =>
    match tabGet s.teams sl.team with
    | some t => if t.grid = grid && decide (t.spadOff ≤ off) && decide (off + n ≤ t.spadOff + t.spadSize) then some sl.team else none
    | none => none)

end Sys2Proof.Machine
end

