-- ==== Sys2Proof/Machine/Object.lean ====
section
/-! DEFINITION. Heap objects: the allocation bitmap (13 R376), headers (13 R379), references and the barrier (13 R377 to R381),
allocation and release (13 R387, 01 R32). -/

namespace Sys2Proof.Machine

open Sys2Proof

/-! ### Ranges and granules -/

/-- Current epoch of a heap (13 R374). -/
def Heap.ce (h : Heap) : Nat := h.flips % 4

/-- A range of addresses lies wholly in the hot range, or in the cold range (13 R373). -/
def Heap.inHot (h : Heap) (va n : Nat) : Bool := decide (h.hbase ≤ va) && decide (va + n ≤ h.hbase + h.hbytes)
def Heap.inCold (h : Heap) (va n : Nat) : Bool := decide (h.cbase ≤ va) && decide (va + n ≤ h.cbase + h.cbytes)
def Heap.inRange (h : Heap) (va n : Nat) : Bool := h.inHot va n || h.inCold va n

/-- Bitmap bit of a granule, and back (13 R376: the hot range and then the cold range). -/
def Heap.bitOf (h : Heap) (va : Nat) : Nat := if h.inHot va 1 then (va - h.hbase) / 16 else h.hbytes / 16 + (va - h.cbase) / 16
def Heap.vaOf (h : Heap) (g : Nat) : Nat := if g < h.hbytes / 16 then h.hbase + 16 * g else h.cbase + 16 * (g - h.hbytes / 16)

/-- Set bits of one physical stretch of the bitmap, whose first byte holds bit `g0`. -/
def bitsIn (mem : List Host.Cell) (pa n g0 : Nat) : List Nat :=
  (mem.filter (fun c => decide (pa ≤ c.1) && decide (c.1 < pa + n))).flatMap (fun c =>
    ((List.range 8).filter (fun i => c.2.getLsbD i)).map (fun i => g0 + 8 * (c.1 - pa) + i))

/-- Allocated granules among bits [lo, hi), ascending. -/
def allocBits (s : State) (q : Queue) (h : Heap) (lo hi : Nat) : List Nat :=
  if hi ≤ lo then [] else
  let b0 := lo / 8
  let cuts := pageCuts (h.bitmap.toNat + b0) ((hi - 1) / 8 - b0 + 1)
  (cuts.flatMap (fun c =>
    match walk s q c.1 with
    | .leaf x => bitsIn s.mem (x.pa c.1) c.2 (8 * (c.1 - h.bitmap.toNat))
    | _ => [])).filter (fun g => decide (lo ≤ g) && decide (g < hi))

/-- The byte of the bitmap that holds an address's bit. -/
def Heap.bitAt (h : Heap) (va : Nat) : Nat := h.bitmap.toNat + h.bitOf va / 8

/-- The allocation bit of an address. -/
def allocated (s : State) (q : Queue) (h : Heap) (va : Nat) : Bool := bitOf (hwNum s q (h.bitAt va) 1) (h.bitOf va % 8)

/-- Write an allocation bit. -/
def setAlloc (s : State) (q : Queue) (h : Heap) (va : Nat) (on : Bool) : State :=
  let at_ := h.bitAt va
  let b := hwNum s q at_ 1
  let m := 2 ^ (h.bitOf va % 8)
  hwWriteNum s q at_ 1 (if on then Nat.lor b m else b - Nat.land b m)

/-! ### Headers (13 R379) -/

/-- An object header; `rel` is 0 still, 1 copying, 2 final, 3 forwarded. -/
structure Header where
  size : Nat
  cls : Nat
  pins : Nat
  rel : Nat
  frozen : Bool
  kind : Bool
  rsv : Nat
  deriving DecidableEq, Repr

def headerOf (w : Nat) : Header :=
  { size := bitsOf w 96 32, cls := bitsOf w 80 16, pins := bitsOf w 64 16, rel := bitsOf w 62 2, frozen := Sys2Proof.bitOf w 61
    kind := Sys2Proof.bitOf w 60, rsv := bitsOf w 0 60 }

def Header.bits (h : Header) : Nat :=
  packBits [(60, h.rsv), (1, h.kind.toNat), (1, h.frozen.toNat), (2, h.rel), (16, h.pins), (16, h.cls), (32, h.size)]

/-- The header at an object address. -/
def headerAt (s : State) (q : Queue) (a : Nat) : Header := headerOf (hwNum s q a 16)

/-- Write a header: one indivisible change (13 R379). -/
def putHeader (s : State) (q : Queue) (a : Nat) (h : Header) : State := hwWriteNum s q a 16 h.bits

/-- A header is sound (13 R379). -/
def soundAt (s : State) (q : Queue) (h : Heap) (a : Nat) (hd : Header) : Bool :=
  hd.rsv == 0 && hd.size % 16 == 0 && decide (16 ≤ hd.size) && decide (hd.size ≤ 2 ^ 30) && h.inRange a (16 + hd.size) && allocated s q h a

/-- Objects whose header or body meets [va, va + n): the last that starts at or before it, and those that start inside. -/
def objsMeeting (s : State) (q : Queue) (h : Heap) (va n : Nat) : List Nat :=
  if !h.inRange va 1 then [] else
  let base := if h.inHot va 1 then 0 else h.hbytes / 16
  let g := h.bitOf va
  let before := (allocBits s q h (Nat.max base (g - 2 ^ 26)) (g + 1)).getLast?.toList.map h.vaOf
  let inside := (allocBits s q h (g + 1) (g + (va % 16 + n + 15) / 16)).map h.vaOf
  (before ++ inside).filter (fun a => overlaps va (va + n) a (a + 16 + (headerAt s q a).size))

/-! ### References and the barrier (13 R377 to R381) -/

/-- How the barrier answers: a failure has its code and detail words, the second the offending lanes where none is given. -/
inductive Res where
  | null
  | obj (a : Nat) (h : Header) (healed : DWord)
  | fail (code d0 : Nat) (d1 : Option Nat)
  | fault (va level entry : Nat)
  deriving DecidableEq, Repr

/-- The bits of a healed reference. -/
def refBits (epoch : Nat) (pin kind : Bool) (a : Nat) : DWord :=
  BitVec.ofNat 64 (epoch % 4 * 2 ^ 62 + (if pin then 2 ^ 61 else 0) + (if kind then 2 ^ 60 else 0) + a % 2 ^ 57 +
    (if Sys2Proof.bitOf a 56 then 7 * 2 ^ 57 else 0))

/-- The address that a reference holds, extended to 64 bits as an object address (13 R377). -/
def refAddr (r : DWord) : Nat :=
  bitsOf r.toNat 0 57 + (if Sys2Proof.bitOf r.toNat 56 then 0x7f * 2 ^ 57 else 0)

/-- A nonzero reference is well-formed (13 R378). -/
def wellFormedRef (r : DWord) : Bool :=
  bitsOf r.toNat 0 4 == 0 && bitsOf r.toNat 57 3 == (if Sys2Proof.bitOf r.toNat 56 then 7 else 0)

/-- Epoch of a reference relative to ce (13 R378): 0 current, 1 and 2 live, 3 retired. -/
def refAge (h : Heap) (r : DWord) : Nat := (h.ce + 4 - bitsOf r.toNat 62 2) % 4

/-- Follow the forwarded entries of the cycles after a reference's epoch, oldest first (13 R380). -/
def followFwd (h : Heap) : Nat → Nat → Nat
  | 0, a => a
  | k + 1, a =>
    followFwd h k (match h.fwd.find? (fun f => f.cycle + k == h.flips && f.forwarded && f.old == a) with
      | some f => f.new
      | none => a)

/-- `resolve` (13 R380). Its reads of the header and of the allocation bit are demand reads: they meet the page table (07 R240) and
uncorrectable errors (07 R210) like the access that follows them. -/
def resolve (s : State) (q : Queue) (h : Heap) (r : DWord) : Res :=
  if r = 0 then .null
  else if !wellFormedRef r then .fail 0x51 r.toNat none
  else if refAge h r = 3 then .fail 0x52 r.toNat (some h.ce)
  else
    let a := followFwd h (refAge h r) (refAddr r)
    if !h.inRange a 16 then .fail 0x51 r.toNat none
    else match walk s q a with
      | .invalid l e => .fault a l e
      | .malformed l e => .fail 0x23 a (some (entryWithLevel l e))
      | .bad g => .fail 0x25 a (some g)
      | .leaf x =>
        let hd := headerAt s q a
        match badIn s (x.pa a) 16, walk s q (h.bitAt a) with
        | some g, _ => .fail 0x25 a (some g)
        | none, .invalid l e => .fault (h.bitAt a) l e
        | none, .malformed l e => .fail 0x23 (h.bitAt a) (some (entryWithLevel l e))
        | none, .bad g => .fail 0x25 (h.bitAt a) (some g)
        | none, .leaf y =>
          if (badIn s (y.pa (h.bitAt a)) 1).isSome then .fail 0x25 (h.bitAt a) (badIn s (y.pa (h.bitAt a)) 1)
          else if !soundAt s q h a hd || hd.kind != Sys2Proof.bitOf r.toNat 60 then .fail 0x51 r.toNat none
          else .obj a hd (refBits h.ce (Sys2Proof.bitOf r.toNat 61) (Sys2Proof.bitOf r.toNat 60) a)

/-- The walks that the barrier makes for references, whatever becomes of their unit (07 R228). -/
def noteRefs (s : State) (q : Queue) (h : Option Heap) (rs : List DWord) : State :=
  match h with
  | none => s
  | some h => rs.foldl (fun s r =>
    let a := followFwd h (refAge h r) (refAddr r)
    if r = 0 || !wellFormedRef r || refAge h r = 3 || !h.inRange a 16 then s
    else hwNote (hwNote s q a 16 false) q (h.bitAt a) 1 false) s

/-! ### Relocation's holds (13 R392, R393) -/

/-- A cycle that has not flipped, and one whose flip is not acknowledged. -/
def RelCycle.unflipped (c : RelCycle) : Bool := c.st != .ack

/-- The destination of an object whose flip is not yet acknowledged: accesses to it wait (13 R392). -/
def heldDest (h : Heap) (a : Nat) : Bool :=
  match h.cycle with
  | some c => c.st == .ack && c.objs.any (fun o => o.new == a)
  | none => false

/-- The source of an object in FINAL: writes wait (13 R392). -/
def heldSource (h : Heap) (a : Nat) : Bool :=
  match h.cycle with
  | some c => (c.st == .final || c.st == .ack) && c.objs.any (fun o => o.old == a)
  | none => false

/-! ### HW fields of the descriptor (13 R374, R490) -/

/-- gstate (13 R490). -/
def Heap.gstate (h : Heap) : Nat := (if h.cycle.isSome then 1 else 0) + (if h.heal then 2 else 0)

/-- Extents that no allocation may take: allocated objects, space awaiting the page epoch, and destinations of a cycle (13 R376). -/
def occupied (s : State) (qn : Nat) (q : Queue) (h : Heap) (hot : Bool) : List (Nat × Nat) :=
  let objs := (allocBits s q h (if hot then 0 else h.hbytes / 16) (if hot then h.hbytes / 16 else h.hbytes / 16 + h.cbytes / 16)).map
    (fun g => (h.vaOf g, 16 + (headerAt s q (h.vaOf g)).size))
  let rel := ((s.released.filter (fun r => r.queue == qn)).map (fun r => (r.addr, r.bytes))) ++
    (match h.cycle with | some c => c.objs.map (fun o => (o.new, 16 + o.size)) | none => [])
  objs ++ rel.filter (fun r => h.inHot r.1 1 == hot)

/-- Occupied extents in ascending order of address. -/
def sortExtents (xs : List (Nat × Nat)) : List (Nat × Nat) := xs.foldl (fun t x => tabPut t x.1 (Nat.max x.2 ((tabGet t x.1).getD 0))) []

/-- Free runs between extents that rise: start and length. -/
def freeRuns (cur stop : Nat) : List (Nat × Nat) → List (Nat × Nat)
  | [] => if cur < stop then [(cur, stop - cur)] else []
  | (a, n) :: t => (if cur < a then [(cur, a - cur)] else []) ++ freeRuns (Nat.max cur (a + n)) stop t

/-- Free runs of a range. -/
def freeIn (s : State) (qn : Nat) (q : Queue) (h : Heap) (hot : Bool) : List (Nat × Nat) :=
  let base := if hot then h.hbase else h.cbase
  freeRuns base (base + if hot then h.hbytes else h.cbytes) (sortExtents (occupied s qn q h hot))

/-- Write the HW fields (13 R374: 8-byte writes; the SW fields beside them stay). -/
def syncHeap (s : State) (qn : Nat) : State :=
  match tabGet s.heaps qn, tabGet s.queues qn with
  | some h, some q =>
    let longest := (freeIn s qn q h true).foldl (fun m r => Nat.max m (r.2 / 16)) 0
    let s := hwWriteNum s q h.desc.toNat 8 (packBits [(32, longest), (2, h.ce), (2, h.gstate), (12, 0), (16, hwNum s q (h.desc.toNat + 6) 2)])
    hwWriteNum s q (h.desc.toNat + 8) 8 (packBits [(32, h.cycles), (32, hwNum s q (h.desc.toNat + 12) 4)])
  | _, _ => s

/-! ### Allocation and release -/

/-- Where an object of `n` body bytes goes: the implementation's choice (13 R387), taken from the choices where it names free space, else the
first free run that is long enough. -/
def placeObject (s : State) (qn : Nat) (q : Queue) (h : Heap) (hot : Bool) (n : Nat) : Option Nat :=
  let runs := freeIn s qn q h hot
  let c := choice s
  if c % 16 = 0 && runs.any (fun r => decide (r.1 ≤ c) && decide (c + 16 + n ≤ r.1 + r.2)) then some c
  else (runs.find? (fun r => decide (16 + n ≤ r.2))).map (·.1)

/-- Allocate an object: a zero body, its header, then its allocation bit (13 R387). The address is none where nothing is free. -/
def allocObject (s : State) (qn : Nat) (hot : Bool) (n cls : Nat) (kind frozen : Bool) : State × Option Nat :=
  match tabGet s.heaps qn, tabGet s.queues qn with
  | some h, some q =>
    match placeObject s qn q h hot n with
    | none => (s.chosen, none)
    | some a =>
      let s := hwWrite s.chosen q (a + 16) (List.replicate n 0)
      let s := putHeader s q a { size := n, cls := cls, pins := 0, rel := 0, frozen := frozen, kind := kind, rsv := 0 }
      (syncHeap (setAlloc s q h a true) qn, some a)
  | _, _ => (s, none)

/-- Release space through the page epoch (01 R32): recorded with e_rel := pe, then pe rises. -/
def releaseSpace (s : State) (qn addr bytes : Nat) : State :=
  { s with released := s.released ++ [{ queue := qn, addr := addr, bytes := bytes, eRel := s.pe }], pe := s.pe + 1 }

/-- An entry's bits (13 R397): state 0 free, 1 copying, 2 forwarded, 3 retired. -/
def fwdBits (cycle state : Nat) (o : RelObj) : Nat :=
  packBits [(2, 0), (2, state), (2, cycle % 4), (16, 0), (53, o.old / 16), (53, o.new / 16)]

/-- The table of a cycle: three tables take turns. -/
def fwdTable (h : Heap) (cycle : Nat) : Nat := h.fwdTab.toNat + cycle % 3 * 65536

/-- Write the entries of a cycle. -/
def writeFwd (s : State) (q : Queue) (h : Heap) (cycle state : Nat) (os : List RelObj) : State :=
  (os.zip (List.range os.length)).foldl (fun s x => hwWriteNum s q (fwdTable h cycle + 16 * x.2) 16 (if state = 0 then 0 else fwdBits cycle state x.1)) s

/-- Withdraw an object from a cycle that has not flipped (13 R393): its entry goes, here and in the forwarding area, its header is still again, its
destination is free, and the writes that were held for it alone are performed. -/
def withdraw (s : State) (qn a : Nat) : State :=
  match tabGet s.heaps qn, tabGet s.queues qn with
  | some h, some q =>
    match h.cycle with
    | some c =>
      if c.unflipped && c.objs.any (fun o => o.old == a) then
        let os := c.objs.filter (fun o => o.old != a)
        let stays := fun (w : PAddr × List Byte) => os.any (fun o => meetsVirtual s q o.old (16 + o.size) w.1 w.2.length)
        let h' := { h with cycle := some { c with objs := os, held := c.held.filter stays }
                           fwd := h.fwd.filter (fun f => !(f.cycle == h.flips + 1 && f.old == a)) }
        let s := (c.held.filter (fun w => !stays w)).foldl (fun s w => s.write w.1 w.2) { s with heaps := tabPut s.heaps qn h' }
        let s := hwWriteNum (writeFwd s q h (h.flips + 1) 1 os) q (fwdTable h (h.flips + 1) + 16 * os.length) 16 0
        syncHeap (putHeader s q a { headerAt s q a with rel := 0 }) qn
      else s
    | none => s
  | _, _ => s

/-! ### Pins (13 R389, R400) -/

/-- Lower the pin count of the object of a pinned reference. -/
def unpinRef (s : State) (qn : Nat) (r : DWord) : State :=
  match tabGet s.heaps qn, tabGet s.queues qn with
  | some h, some q =>
    match resolve s q h r with
    | .obj a hd _ => putHeader s q a { hd with pins := hd.pins - 1 }
    | _ => s
  | _, _ => s

/-- Release every pin that a group's reference registers hold (13 R400). -/
def releasePins (s : State) (qn : Nat) (g : Group) : State :=
  g.h.foldl (fun s hr => hr.2.foldl (fun s r => if Sys2Proof.bitOf r.toNat 61 then unpinRef s qn r else s) s) s

end Sys2Proof.Machine
end

