-- ==== Sys2Proof/Machine/Narrow.lean ====
section
/-! DEFINITION. Page geometry (10 R298, R299), narrow pages and the format write-combining buffers (12 R361 to R364). -/

namespace Sys2Proof.Machine

open Sys2Proof

/-- Tokens and channels of a geometry code (10 R298). -/
def tokensOf (tcode : Nat) : Nat := 16 * 2 ^ tcode
def chansOf (ccode : Nat) : Nat := 32 * 2 ^ ccode

/-- The formats of a page's halves by the entry's `fmt` and `vvar` (10 R300). -/
def keyFmtOf (fmt : Nat) : QFmt :=
  match fmt with
  | 0 => .bf16 | 1 => .e4m3 | 2 => .mxe2m3 | 3 => .mxe3m2 | _ => .mxe2m1
def valFmtOf (fmt : Nat) (vvar : Bool) : QFmt :=
  match fmt with
  | 0 => .bf16 | 1 => .e4m3 | 2 | 3 => if vvar then .mxe3m2 else .mxe2m3 | _ => .mxe2m1

/-- Bytes of a half of `n` elements: elements, and a scale byte per block for an MX format (10 R299). -/
def halfBytes (f : QFmt) (n : Nat) : Nat := f.blockBytes * (n / 32) + (if f.isMx then n / 32 else 0)

/-- Body bytes of a page object (10 R299). -/
def pageBytes (fmt t c : Nat) : Nat := halfBytes (keyFmtOf fmt) (t * c) + halfBytes (valFmtOf fmt false) (t * c)

/-- Decode every element of a half from its bytes (10 R299, R312); `e` is the page exponent of the E4M3 stage. -/
def decodeHalfPage (f : QFmt) (e : Int) (n : Nat) (bytes : List Byte) : List Num :=
  let vs := runValues f (n / 32) bytes
  if f = .e4m3 then vs.map (fun v => shiftNum v e) else vs

/-! ### Narrow pages -/

/-- The tag of a narrow object (12 R361). -/
def narrowAt (s : State) (qn obj : Nat) : Option Narrow := s.narrow.find? (fun t => t.queue == qn && t.obj == obj)

/-- Set or drop a tag. -/
def setNarrow (s : State) (t : Narrow) : State :=
  { s with narrow := t :: s.narrow.filter (fun u => !(u.queue == t.queue && u.obj == t.obj)) }
def dropNarrow (s : State) (qn obj : Nat) : State :=
  { s with narrow := s.narrow.filter (fun u => !(u.queue == qn && u.obj == obj)) }

/-- Format of a half of a narrow page. -/
def Narrow.half (t : Narrow) (value : Bool) : QFmt := if value then t.valFmt else t.keyFmt

/-- Body offset of a half. -/
def Narrow.halfAt (t : Narrow) (value : Bool) : Nat := if value then halfBytes t.keyFmt (t.tokens * t.chans) else 0

/-- Addresses of a block's elements and of its scale. -/
def Narrow.elemsAt (t : Narrow) (value : Bool) (b : Nat) : Nat := t.obj + 16 + t.halfAt value + (t.half value).blockBytes * b
def Narrow.scaleAt (t : Narrow) (value : Bool) (b : Nat) : Nat :=
  t.obj + 16 + t.halfAt value + (t.half value).blockBytes * (t.tokens * t.chans / 32) + b

/-! ### Write combining (12 R362, R363) -/

/-- Where a block's bytes lie: by the page table, or, when their page has lost its entry, where its stores were translated to (12 R364). -/
def blockAt (s : State) (q : Queue) (va n : Nat) (kept : List (PAddr × Nat)) : List (PAddr × Nat) := (hwPieces s q va n).getD kept

/-- Read, and write, bytes that lie in physical pieces. -/
def readAt (s : State) (ps : List (PAddr × Nat)) : List Byte := ps.flatMap (fun p => s.bytes p.1 p.2)
def writeAt (s : State) : List (PAddr × Nat) → List Byte → State
  | [], _ => s
  | p :: t, bs => writeAt (s.write p.1 (bs.take p.2)) t (bs.drop p.2)

/-- Close an entry: the block's elements and scale are written as one indivisible write (12 R363). -/
def closeWc (s : State) (id : Nat) : State :=
  match tabGet s.wc id with
  | none => s
  | some w =>
    let s := { s with wc := tabDel s.wc id }
    match tabGet s.queues w.queue, narrowAt s w.queue (w.body - 16) with
    | some q, some t =>
      let f := t.half w.valueHalf
      let ea := t.elemsAt w.valueHalf w.block
      let sa := t.scaleAt w.valueHalf w.block
      let eps := blockAt s q ea f.blockBytes w.elemsAt
      let sps := blockAt s q sa 1 w.scaleAt
      let present := natOfBytes (readAt s eps)
      let scale := natOfBytes (readAt s sps)
      let vals := (List.range 32).map (fun i =>
        match tabGet w.vals i with
        | some v => bf16Num v
        | none => mxValue f scale (elemAt f.bits present i))
      let (sc, out) := mxBlock f vals
      let s := writeAt (hwNote (hwNote s q ea f.blockBytes true) q sa 1 true) eps (packElems f.bits out)
      writeAt s sps (bytesOf 1 sc)
    | _, _ => s

/-- Close every entry that a test picks. -/
def closeWcs (s : State) (p : WcEntry → Bool) : State :=
  if s.wc.isEmpty then s else ((s.wc.filter (fun w => p w.2)).map (·.1)).foldl closeWc s

/-- A read of bytes of a block closes its entry (12 R363). -/
def closeRead (s : State) (qn va n : Nat) : State :=
  closeWcs s (fun w => w.queue == qn &&
    match narrowAt s qn (w.body - 16) with
    | some t =>
      overlaps va (va + n) (t.elemsAt w.valueHalf w.block) (t.elemsAt w.valueHalf w.block + (t.half w.valueHalf).blockBytes) ||
      overlaps va (va + n) (t.scaleAt w.valueHalf w.block) (t.scaleAt w.valueHalf w.block + 1)
    | none => false)

/-- A read of physical bytes, by an agent without a queue, or an invalidation that covers a page: the entries with a block there close (12 R363). -/
def closePhys (s : State) (pa n : Nat) : State :=
  closeWcs s (fun w => (w.elemsAt ++ w.scaleAt).any (fun p => overlaps pa (pa + n) p.1 (p.1 + p.2)))

/-- A fence or an ordering instruction of a group closes the entries that hold one of its stores (12 R363). -/
def closeFor (s : State) (team group : Nat) : State := closeWcs s (fun w => w.writers.contains (team, group))

/-- The entries of an object close (12 R357, R363). -/
def closeObject (s : State) (qn obj : Nat) : State := closeWcs s (fun w => w.queue == qn && w.body == obj + 16)

/-- The timeout of a narrow page's blocks: that of the pool registered at its descriptor (12 R363). -/
def wcTimeoutOf (s : State) (t : Narrow) : Nat :=
  ((s.pools.find? (fun x => x.2.queue == t.queue && x.2.desc == t.desc)).map (fun x => x.2.sw.wcTimeout)).getD t.wcTimeout

/-- The elements of one unit that fall in one block arrive together (12 R362): they join the block's entry or open one; a 17th entry
at the slice closes its oldest; a full entry, or any when the timeout is 0, closes at once. -/
def arriveWc (s : State) (qn : Nat) (q : Queue) (t : Narrow) (value : Bool) (block : Nat) (vals : List (Nat × Nat)) (who : Nat × Nat) : State :=
  let body := t.obj + 16
  let mine := fun (w : WcEntry) => w.queue == qn && w.body == body && w.valueHalf == value && w.block == block
  let slice := match walk s q (t.elemsAt value block) with | .leaf x => homeSlice s (x.pa (t.elemsAt value block)) | _ => 0
  let open_ := (s.wc.find? (fun w => mine w.2))
  let s := if open_.isSome then s else
    let here := s.wc.filter (fun w => w.2.slice == slice)
    if here.length < 16 then s else
      match here.foldl (fun (b : Option (Nat × WcEntry)) w => match b with | some x => if w.2.opened < x.2.opened then some w else some x | none => some w) none with
      | some o => closeWc s o.1
      | none => s
  let id := match open_ with | some w => w.1 | none => s.nextOp
  let e : WcEntry := match open_ with
    | some w => w.2
    | none => { queue := qn, body := body, valueHalf := value, block := block, fmt := t.half value, vals := [], opened := s.cycle
                timeout := wcTimeoutOf s t, slice := slice
                elemsAt := blockAt s q (t.elemsAt value block) (t.half value).blockBytes [], scaleAt := blockAt s q (t.scaleAt value block) 1 []
                writers := [] }
  let e := { e with vals := vals.foldl (fun m v => tabPut m v.1 v.2) e.vals
                    writers := if e.writers.contains who then e.writers else who :: e.writers }
  let s := { s.named with wc := tabPut s.wc id e }
  if e.vals.length = 32 || e.timeout = 0 then closeWc s id else s

/-- The timeout of an entry (12 R363). -/
def execWriteCombineTimeout (entry : Nat) (s : State) : Out :=
  match tabGet s.wc entry with
  | some w => if s.cycle ≥ w.opened + w.timeout then .next (closeWc s entry) else .next s
  | none => .next s

/-! ### What a store cannot change (12 R360, R361) -/

/-- Update-only elements that would land in a range of a queue's address space are suppressed: the home bank would not apply them (12 R360,
R361, log 96). -/
def dropUpdates (s : State) (q : Queue) (va n : Nat) : State :=
  { s with cores := s.cores.map (fun k => (k.1, { k.2 with upd := k.2.upd.filterMap (fun u =>
      let el := u.elems.filter (fun e => !meetsVirtual s q va n (u.pa + 4 * e.1) 4)
      if el.isEmpty && !u.elems.isEmpty then none else some { u with elems := el }) })) }

/-- Bytes of a narrow body, or of an object that stays frozen until it is freed: a write of the host changes none of them (12 R360, R361). -/
def sealedAt (s : State) (pa n : Nat) : Bool :=
  s.narrow.any (fun t => match tabGet s.queues t.queue with
    | some q => meetsVirtual s q (t.obj + 16) (t.halfAt true + halfBytes t.valFmt (t.tokens * t.chans)) pa n
    | none => false) ||
  s.released.any (fun r => match tabGet s.queues r.queue with
    | some q => (headerAt s q r.addr).frozen && meetsVirtual s q (r.addr + 16) (r.bytes - 16) pa n
    | none => false) ||
  s.pools.any (fun p => match p.2.cold, tabGet s.queues p.2.queue with
    | some m, some q => meetsVirtual s q (m.src + 16) (headerAt s q m.src).size pa n
    | _, _ => false)

/-! ### Raw access to the managed-heap region (13 R399, 12 R360, R361) -/

/-- Bytes of the managed-heap region meet a header granule. -/
def headerMet (s : State) (qn : Nat) (q : Queue) (va n : Nat) : Bool :=
  match tabGet s.heaps qn with
  | some h => (objsMeeting s q h va n).any (fun a => overlaps va (va + n) a (a + 16))
  | none => false

/-- The trap that bytes of the managed-heap region give a raw access, if any. -/
def rawCode (s : State) (qn : Nat) (q : Queue) (va n : Nat) (write : Bool) : List Nat :=
  match tabGet s.heaps qn with
  | none => []
  | some h =>
    let objs := objsMeeting s q h va n
    let hdr := objs.any (fun a => overlaps va (va + n) a (a + 16))
    let held := (match h.cycle with
        | some c => c.objs.any (fun o => overlaps va (va + n) o.old (o.old + 16 + o.size) || overlaps va (va + n) o.new (o.new + 16 + o.size))
        | none => false) ||
      s.released.any (fun r => r.queue == qn && overlaps va (va + n) r.addr (r.addr + r.bytes) && (headerAt s q r.addr).rel == 3)
    let body := fun (a : Nat) => overlaps va (va + n) (a + 16) (a + 16 + (headerAt s q a).size)
    (if write && objs.any (fun a => body a && (headerAt s q a).frozen) then [0x4c] else []) ++
    (if write && objs.any (fun a => body a && (narrowAt s qn a).isSome) then [0x4d] else []) ++
    (if held || (write && hdr) then [0x54] else [])

end Sys2Proof.Machine
end

