-- ==== Sys2Proof/Decode.lean ====
section
/-! DEFINITION. Decoding of halfwords into the parts of units (02 R43, R47, R53 to R56, R65), and the encoder. A word decodes when its major,
its selector and every bit that its form holds at zero agree with the map; whether the part stands in a legal unit (02 R69) is the
business of `Sys2Proof.legalUnit`. -/

namespace Sys2Proof

/-- Why a word is no part of a unit (02 R69). -/
inductive Reject where
  /-- A major that the map reserves (02 R65: 0x15 to 0x17), or a form that the major does not list, or a nonzero must-be-zero bit. -/
  | noSuchForm (major : Nat)
  /-- A 16-bit control form with cop 6 to 15, or with bits set outside a guard (02 R56). -/
  | reservedControl (half : Nat)
  /-- The bytes end inside the instruction. -/
  | truncated
  deriving DecidableEq, Repr

/-- The field of `n` bits from bit `lo`. -/
def fld (w lo n : Nat) : BitVec n := BitVec.ofNat n (w / 2 ^ lo)

/-- Major 0x00 (02 R65). -/
def decodeMajor00 (w : Nat) : Option Instr :=
  if bitsOf w 25 3 = 0 then
    some (.add (fld w 30 2) (fld w 29 1) (fld w 28 1) (fld w 19 6) (fld w 13 6) (fld w 7 6))
  else if bitsOf w 25 3 = 1 then
    some (.sub (fld w 30 2) (fld w 29 1) (fld w 28 1) (fld w 19 6) (fld w 13 6) (fld w 7 6))
  else if bitsOf w 25 3 = 2 ∧ bitsOf w 30 2 = 0 then
    some (.mulLo (fld w 29 1) (fld w 28 1) (fld w 19 6) (fld w 13 6) (fld w 7 6))
  else if bitsOf w 25 3 = 3 then
    some (.mulHi (fld w 30 2) (fld w 29 1) (fld w 28 1) (fld w 19 6) (fld w 13 6) (fld w 7 6))
  else if bitsOf w 25 3 = 4 ∧ bitsOf w 30 2 = 0 then
    some (.madLo (fld w 29 1) (fld w 28 1) (fld w 19 6) (fld w 13 6) (fld w 7 6))
  else if bitsOf w 7 1 = 0 ∧ bitsOf w 13 1 = 0 ∧ bitsOf w 19 1 = 0 ∧ bitsOf w 25 3 = 5 ∧ bitsOf w 30 2 = 0 then
    some (.adda (fld w 29 1) (fld w 28 1) (fld w 20 5) (fld w 14 5) (fld w 8 5))
  else if bitsOf w 25 3 = 6 then
    some (.min (fld w 30 2) (fld w 29 1) (fld w 28 1) (fld w 19 6) (fld w 13 6) (fld w 7 6))
  else if bitsOf w 25 3 = 7 then
    some (.max (fld w 30 2) (fld w 29 1) (fld w 28 1) (fld w 19 6) (fld w 13 6) (fld w 7 6))
  else none

/-- Major 0x01 (02 R65). -/
def decodeMajor01 (w : Nat) : Option Instr :=
  if bitsOf w 25 3 = 0 ∧ bitsOf w 30 2 = 0 then
    some (.and (fld w 29 1) (fld w 28 1) (fld w 19 6) (fld w 13 6) (fld w 7 6))
  else if bitsOf w 25 3 = 1 ∧ bitsOf w 30 2 = 0 then
    some (.or (fld w 29 1) (fld w 28 1) (fld w 19 6) (fld w 13 6) (fld w 7 6))
  else if bitsOf w 25 3 = 2 ∧ bitsOf w 30 2 = 0 then
    some (.xor (fld w 29 1) (fld w 28 1) (fld w 19 6) (fld w 13 6) (fld w 7 6))
  else if bitsOf w 25 3 = 3 ∧ bitsOf w 30 2 = 0 then
    some (.andn (fld w 29 1) (fld w 28 1) (fld w 19 6) (fld w 13 6) (fld w 7 6))
  else if bitsOf w 25 3 = 4 ∧ bitsOf w 30 2 = 0 then
    some (.shl (fld w 29 1) (fld w 28 1) (fld w 19 6) (fld w 13 6) (fld w 7 6))
  else if bitsOf w 25 3 = 5 ∧ bitsOf w 30 2 = 0 then
    some (.shr (fld w 29 1) (fld w 28 1) (fld w 19 6) (fld w 13 6) (fld w 7 6))
  else if bitsOf w 25 3 = 6 ∧ bitsOf w 30 2 = 0 then
    some (.sra (fld w 29 1) (fld w 28 1) (fld w 19 6) (fld w 13 6) (fld w 7 6))
  else if bitsOf w 25 3 = 7 ∧ bitsOf w 30 2 = 0 then
    some (.rot (fld w 29 1) (fld w 28 1) (fld w 19 6) (fld w 13 6) (fld w 7 6))
  else none

/-- Major 0x02 (02 R65). -/
def decodeMajor02 (w : Nat) : Option Instr :=
  if bitsOf w 25 3 = 0 then
    some (.bfe (fld w 30 2) (fld w 29 1) (fld w 28 1) (fld w 19 6) (fld w 13 6) (fld w 7 6))
  else if bitsOf w 25 3 = 1 ∧ bitsOf w 30 2 = 0 then
    some (.bfi (fld w 29 1) (fld w 28 1) (fld w 19 6) (fld w 13 6) (fld w 7 6))
  else if bitsOf w 19 9 = 128 ∧ bitsOf w 29 3 = 0 then
    some (.popc (fld w 28 1) (fld w 13 6) (fld w 7 6))
  else if bitsOf w 25 3 = 3 ∧ bitsOf w 30 2 = 0 then
    some (.popcLt (fld w 29 1) (fld w 28 1) (fld w 19 6) (fld w 13 6) (fld w 7 6))
  else if bitsOf w 19 9 = 256 ∧ bitsOf w 29 3 = 0 then
    some (.clz (fld w 28 1) (fld w 13 6) (fld w 7 6))
  else if bitsOf w 19 9 = 320 ∧ bitsOf w 29 3 = 0 then
    some (.brev (fld w 28 1) (fld w 13 6) (fld w 7 6))
  else if bitsOf w 19 9 = 384 ∧ bitsOf w 29 3 = 0 then
    some (.abs (fld w 28 1) (fld w 13 6) (fld w 7 6))
  else if bitsOf w 19 9 = 448 ∧ bitsOf w 29 3 = 0 then
    some (.not (fld w 28 1) (fld w 13 6) (fld w 7 6))
  else none

/-- Major 0x03 (02 R65). -/
def decodeMajor03 (w : Nat) : Option Instr :=
  if bitsOf w 25 3 = 0 then
    some (.dot4I8 (fld w 30 2) (fld w 29 1) (fld w 28 1) (fld w 19 6) (fld w 13 6) (fld w 7 6))
  else none

/-- Major 0x04 (02 R65). -/
def decodeMajor04 (w : Nat) : Option Instr :=
  some (.addi (fld w 31 1) (fld w 30 1) (fld w 19 11) (fld w 13 6) (fld w 7 6))

/-- Major 0x05 (02 R65). -/
def decodeMajor05 (w : Nat) : Option Instr :=
  if bitsOf w 31 1 = 0 then
    some (.andi (fld w 30 1) (fld w 19 11) (fld w 13 6) (fld w 7 6))
  else none

/-- Major 0x06 (02 R65). -/
def decodeMajor06 (w : Nat) : Option Instr :=
  if bitsOf w 31 1 = 0 then
    some (.ori (fld w 30 1) (fld w 19 11) (fld w 13 6) (fld w 7 6))
  else none

/-- Major 0x07 (02 R65). -/
def decodeMajor07 (w : Nat) : Option Instr :=
  if bitsOf w 31 1 = 0 then
    some (.xori (fld w 30 1) (fld w 19 11) (fld w 13 6) (fld w 7 6))
  else none

/-- Major 0x08 (02 R65). -/
def decodeMajor08 (w : Nat) : Option Instr :=
  if bitsOf w 24 6 = 0 ∧ bitsOf w 31 1 = 0 then
    some (.shli (fld w 30 1) (fld w 19 5) (fld w 13 6) (fld w 7 6))
  else if bitsOf w 24 6 = 1 ∧ bitsOf w 31 1 = 0 then
    some (.shri (fld w 30 1) (fld w 19 5) (fld w 13 6) (fld w 7 6))
  else if bitsOf w 24 6 = 2 ∧ bitsOf w 31 1 = 0 then
    some (.srai (fld w 30 1) (fld w 19 5) (fld w 13 6) (fld w 7 6))
  else if bitsOf w 24 6 = 3 ∧ bitsOf w 31 1 = 0 then
    some (.roti (fld w 30 1) (fld w 19 5) (fld w 13 6) (fld w 7 6))
  else none

/-- Major 0x09 (02 R65). -/
def decodeMajor09 (w : Nat) : Option Instr :=
  if bitsOf w 13 6 = 0 ∧ bitsOf w 30 2 = 0 then
    some (.movi (fld w 19 11) (fld w 7 6))
  else none

/-- Major 0x0a (02 R65). -/
def decodeMajor0a (w : Nat) : Option Instr :=
  some (.mini (fld w 31 1) (fld w 30 1) (fld w 19 11) (fld w 13 6) (fld w 7 6))

/-- Major 0x0b (02 R65). -/
def decodeMajor0b (w : Nat) : Option Instr :=
  some (.maxi (fld w 31 1) (fld w 30 1) (fld w 19 11) (fld w 13 6) (fld w 7 6))

/-- Major 0x0c (02 R65). -/
def decodeMajor0c (w : Nat) : Option Instr :=
  if bitsOf w 12 1 = 0 ∧ bitsOf w 18 1 = 0 ∧ bitsOf w 24 6 = 0 then
    some (.kadd (fld w 30 2) (fld w 19 5) (fld w 13 5) (fld w 7 5))
  else if bitsOf w 12 1 = 0 ∧ bitsOf w 18 1 = 0 ∧ bitsOf w 24 6 = 2 then
    some (.ksub (fld w 30 2) (fld w 19 5) (fld w 13 5) (fld w 7 5))
  else if bitsOf w 12 1 = 0 ∧ bitsOf w 18 1 = 0 ∧ bitsOf w 24 8 = 4 then
    some (.kmulLo (fld w 19 5) (fld w 13 5) (fld w 7 5))
  else if bitsOf w 12 1 = 0 ∧ bitsOf w 18 1 = 0 ∧ bitsOf w 24 6 = 6 then
    some (.kmulHi (fld w 30 2) (fld w 19 5) (fld w 13 5) (fld w 7 5))
  else if bitsOf w 12 1 = 0 ∧ bitsOf w 18 1 = 0 ∧ bitsOf w 24 8 = 8 then
    some (.kmadLo (fld w 19 5) (fld w 13 5) (fld w 7 5))
  else if bitsOf w 7 1 = 0 ∧ bitsOf w 12 2 = 0 ∧ bitsOf w 18 2 = 0 ∧ bitsOf w 24 8 = 10 then
    some (.kadda (fld w 20 4) (fld w 14 4) (fld w 8 4))
  else if bitsOf w 12 1 = 0 ∧ bitsOf w 18 1 = 0 ∧ bitsOf w 24 6 = 12 then
    some (.kmin (fld w 30 2) (fld w 19 5) (fld w 13 5) (fld w 7 5))
  else if bitsOf w 12 1 = 0 ∧ bitsOf w 18 1 = 0 ∧ bitsOf w 24 6 = 14 then
    some (.kmax (fld w 30 2) (fld w 19 5) (fld w 13 5) (fld w 7 5))
  else none

/-- Major 0x0d (02 R65). -/
def decodeMajor0d (w : Nat) : Option Instr :=
  if bitsOf w 12 1 = 0 ∧ bitsOf w 18 1 = 0 ∧ bitsOf w 24 8 = 0 then
    some (.kand (fld w 19 5) (fld w 13 5) (fld w 7 5))
  else if bitsOf w 12 1 = 0 ∧ bitsOf w 18 1 = 0 ∧ bitsOf w 24 8 = 2 then
    some (.kor (fld w 19 5) (fld w 13 5) (fld w 7 5))
  else if bitsOf w 12 1 = 0 ∧ bitsOf w 18 1 = 0 ∧ bitsOf w 24 8 = 4 then
    some (.kxor (fld w 19 5) (fld w 13 5) (fld w 7 5))
  else if bitsOf w 12 1 = 0 ∧ bitsOf w 18 1 = 0 ∧ bitsOf w 24 8 = 6 then
    some (.kandn (fld w 19 5) (fld w 13 5) (fld w 7 5))
  else if bitsOf w 12 1 = 0 ∧ bitsOf w 18 1 = 0 ∧ bitsOf w 24 8 = 8 then
    some (.kshl (fld w 19 5) (fld w 13 5) (fld w 7 5))
  else if bitsOf w 12 1 = 0 ∧ bitsOf w 18 1 = 0 ∧ bitsOf w 24 8 = 10 then
    some (.kshr (fld w 19 5) (fld w 13 5) (fld w 7 5))
  else if bitsOf w 12 1 = 0 ∧ bitsOf w 18 1 = 0 ∧ bitsOf w 24 8 = 12 then
    some (.ksra (fld w 19 5) (fld w 13 5) (fld w 7 5))
  else if bitsOf w 12 1 = 0 ∧ bitsOf w 18 1 = 0 ∧ bitsOf w 24 8 = 14 then
    some (.krot (fld w 19 5) (fld w 13 5) (fld w 7 5))
  else none

/-- Major 0x0e (02 R65). -/
def decodeMajor0e (w : Nat) : Option Instr :=
  if bitsOf w 12 1 = 0 ∧ bitsOf w 18 1 = 0 ∧ bitsOf w 30 2 = 0 then
    some (.kaddi (fld w 19 11) (fld w 13 5) (fld w 7 5))
  else if bitsOf w 12 7 = 0 ∧ bitsOf w 30 2 = 2 then
    some (.kmovi (fld w 19 11) (fld w 7 5))
  else none

/-- Major 0x0f (02 R65). -/
def decodeMajor0f (w : Nat) : Option Instr :=
  if bitsOf w 12 1 = 0 ∧ bitsOf w 18 1 = 0 ∧ bitsOf w 24 6 = 0 then
    some (.kbfe (fld w 30 2) (fld w 19 5) (fld w 13 5) (fld w 7 5))
  else if bitsOf w 12 1 = 0 ∧ bitsOf w 18 1 = 0 ∧ bitsOf w 24 8 = 2 then
    some (.kbfi (fld w 19 5) (fld w 13 5) (fld w 7 5))
  else if bitsOf w 12 1 = 0 ∧ bitsOf w 18 14 = 256 then
    some (.kpopc (fld w 13 5) (fld w 7 5))
  else if bitsOf w 12 1 = 0 ∧ bitsOf w 18 14 = 384 then
    some (.kclz (fld w 13 5) (fld w 7 5))
  else if bitsOf w 12 1 = 0 ∧ bitsOf w 18 14 = 512 then
    some (.kbrev (fld w 13 5) (fld w 7 5))
  else if bitsOf w 12 1 = 0 ∧ bitsOf w 18 14 = 640 then
    some (.knot (fld w 13 5) (fld w 7 5))
  else if bitsOf w 12 1 = 0 ∧ bitsOf w 18 14 = 768 then
    some (.kabs (fld w 13 5) (fld w 7 5))
  else if bitsOf w 12 1 = 0 ∧ bitsOf w 18 14 = 896 then
    some (.kmov (fld w 13 5) (fld w 7 5))
  else none

/-- Major 0x10 (02 R65). -/
def decodeMajor10 (w : Nat) : Option Instr :=
  if bitsOf w 25 3 = 0 then
    some (.fadd (fld w 30 2) (fld w 29 1) (fld w 28 1) (fld w 19 6) (fld w 13 6) (fld w 7 6))
  else if bitsOf w 25 3 = 1 then
    some (.fsub (fld w 30 2) (fld w 29 1) (fld w 28 1) (fld w 19 6) (fld w 13 6) (fld w 7 6))
  else if bitsOf w 25 3 = 2 then
    some (.fmul (fld w 30 2) (fld w 29 1) (fld w 28 1) (fld w 19 6) (fld w 13 6) (fld w 7 6))
  else if bitsOf w 25 3 = 3 then
    some (.fma (fld w 30 2) (fld w 29 1) (fld w 28 1) (fld w 19 6) (fld w 13 6) (fld w 7 6))
  else if bitsOf w 25 3 = 4 ∧ bitsOf w 30 2 = 0 then
    some (.fmin (fld w 29 1) (fld w 28 1) (fld w 19 6) (fld w 13 6) (fld w 7 6))
  else if bitsOf w 25 3 = 5 ∧ bitsOf w 30 2 = 0 then
    some (.fmax (fld w 29 1) (fld w 28 1) (fld w 19 6) (fld w 13 6) (fld w 7 6))
  else none

/-- Major 0x11 (02 R65). -/
def decodeMajor11 (w : Nat) : Option Instr :=
  if bitsOf w 25 3 = 0 then
    some (.faddBf16x2 (fld w 30 2) (fld w 29 1) (fld w 28 1) (fld w 19 6) (fld w 13 6) (fld w 7 6))
  else if bitsOf w 25 3 = 1 then
    some (.fmulBf16x2 (fld w 30 2) (fld w 29 1) (fld w 28 1) (fld w 19 6) (fld w 13 6) (fld w 7 6))
  else if bitsOf w 25 3 = 2 then
    some (.fmaBf16x2 (fld w 30 2) (fld w 29 1) (fld w 28 1) (fld w 19 6) (fld w 13 6) (fld w 7 6))
  else if bitsOf w 25 3 = 3 ∧ bitsOf w 30 2 = 0 then
    some (.fminBf16x2 (fld w 29 1) (fld w 28 1) (fld w 19 6) (fld w 13 6) (fld w 7 6))
  else if bitsOf w 25 3 = 4 ∧ bitsOf w 30 2 = 0 then
    some (.fmaxBf16x2 (fld w 29 1) (fld w 28 1) (fld w 19 6) (fld w 13 6) (fld w 7 6))
  else none

/-- Major 0x12 (02 R65). -/
def decodeMajor12 (w : Nat) : Option Instr :=
  if bitsOf w 25 3 = 0 then
    some (.faddF16x2 (fld w 30 2) (fld w 29 1) (fld w 28 1) (fld w 19 6) (fld w 13 6) (fld w 7 6))
  else if bitsOf w 25 3 = 1 then
    some (.fmulF16x2 (fld w 30 2) (fld w 29 1) (fld w 28 1) (fld w 19 6) (fld w 13 6) (fld w 7 6))
  else if bitsOf w 25 3 = 2 then
    some (.fmaF16x2 (fld w 30 2) (fld w 29 1) (fld w 28 1) (fld w 19 6) (fld w 13 6) (fld w 7 6))
  else if bitsOf w 25 3 = 3 ∧ bitsOf w 30 2 = 0 then
    some (.fminF16x2 (fld w 29 1) (fld w 28 1) (fld w 19 6) (fld w 13 6) (fld w 7 6))
  else if bitsOf w 25 3 = 4 ∧ bitsOf w 30 2 = 0 then
    some (.fmaxF16x2 (fld w 29 1) (fld w 28 1) (fld w 19 6) (fld w 13 6) (fld w 7 6))
  else none

/-- Major 0x13 (02 R65). -/
def decodeMajor13 (w : Nat) : Option Instr :=
  if bitsOf w 19 9 = 0 ∧ bitsOf w 29 3 = 0 then
    some (.rcp (fld w 28 1) (fld w 13 6) (fld w 7 6))
  else if bitsOf w 19 9 = 64 ∧ bitsOf w 29 3 = 0 then
    some (.rsqrt (fld w 28 1) (fld w 13 6) (fld w 7 6))
  else if bitsOf w 19 9 = 128 ∧ bitsOf w 29 3 = 0 then
    some (.exp2 (fld w 28 1) (fld w 13 6) (fld w 7 6))
  else if bitsOf w 19 9 = 192 ∧ bitsOf w 29 3 = 0 then
    some (.log2 (fld w 28 1) (fld w 13 6) (fld w 7 6))
  else none

/-- Major 0x14 (02 R65). -/
def decodeMajor14 (w : Nat) : Option Instr :=
  if bitsOf w 22 3 = 0 ∧ bitsOf w 29 1 = 0 then
    some (.cvt (fld w 30 2) (fld w 28 1) (fld w 25 3) (fld w 19 3) (fld w 13 6) (fld w 7 6))
  else none

/-- Major 0x18 (02 R65). -/
def decodeMajor18 (w : Nat) : Option Instr :=
  if bitsOf w 10 3 = 0 ∧ bitsOf w 25 3 = 0 then
    some (.cmpEq (fld w 30 2) (fld w 29 1) (fld w 28 1) (fld w 19 6) (fld w 13 6) (fld w 7 3))
  else if bitsOf w 10 3 = 0 ∧ bitsOf w 25 3 = 1 then
    some (.cmpNe (fld w 30 2) (fld w 29 1) (fld w 28 1) (fld w 19 6) (fld w 13 6) (fld w 7 3))
  else if bitsOf w 10 3 = 0 ∧ bitsOf w 25 3 = 2 then
    some (.cmpLt (fld w 30 2) (fld w 29 1) (fld w 28 1) (fld w 19 6) (fld w 13 6) (fld w 7 3))
  else if bitsOf w 10 3 = 0 ∧ bitsOf w 25 3 = 3 then
    some (.cmpLe (fld w 30 2) (fld w 29 1) (fld w 28 1) (fld w 19 6) (fld w 13 6) (fld w 7 3))
  else if bitsOf w 10 3 = 0 ∧ bitsOf w 25 3 = 4 then
    some (.cmpGt (fld w 30 2) (fld w 29 1) (fld w 28 1) (fld w 19 6) (fld w 13 6) (fld w 7 3))
  else if bitsOf w 10 3 = 0 ∧ bitsOf w 25 3 = 5 then
    some (.cmpGe (fld w 30 2) (fld w 29 1) (fld w 28 1) (fld w 19 6) (fld w 13 6) (fld w 7 3))
  else none

/-- Major 0x19 (02 R65). -/
def decodeMajor19 (w : Nat) : Option Instr :=
  if bitsOf w 10 3 = 0 ∧ bitsOf w 16 3 = 0 ∧ bitsOf w 22 10 = 0 then
    some (.pand (fld w 19 3) (fld w 13 3) (fld w 7 3))
  else if bitsOf w 10 3 = 0 ∧ bitsOf w 16 3 = 0 ∧ bitsOf w 22 10 = 8 then
    some (.por (fld w 19 3) (fld w 13 3) (fld w 7 3))
  else if bitsOf w 10 3 = 0 ∧ bitsOf w 16 3 = 0 ∧ bitsOf w 22 10 = 16 then
    some (.pxor (fld w 19 3) (fld w 13 3) (fld w 7 3))
  else if bitsOf w 10 3 = 0 ∧ bitsOf w 16 16 = 1536 then
    some (.pnot (fld w 13 3) (fld w 7 3))
  else none

/-- Major 0x1a (02 R65). -/
def decodeMajor1a (w : Nat) : Option Instr :=
  if bitsOf w 31 1 = 0 then
    some (.sel (fld w 30 1) (fld w 29 1) (fld w 28 1) (fld w 25 3) (fld w 19 6) (fld w 13 6) (fld w 7 6))
  else none

/-- Major 0x1b (02 R65). -/
def decodeMajor1b (w : Nat) : Option Instr :=
  if bitsOf w 13 6 = 0 ∧ bitsOf w 25 4 = 0 ∧ bitsOf w 30 2 = 0 then
    some (.mov (fld w 29 1) (fld w 19 6) (fld w 7 6))
  else if bitsOf w 18 14 = 128 then
    some (.movk (fld w 13 5) (fld w 7 6))
  else if bitsOf w 19 13 = 128 then
    some (.sreg (fld w 13 6) (fld w 7 6))
  else none

/-- Major 0x1c (02 R65). -/
def decodeMajor1c (w : Nat) : Option Instr :=
  if bitsOf w 25 3 = 0 ∧ bitsOf w 30 2 = 0 then
    some (.shflIdx (fld w 29 1) (fld w 28 1) (fld w 19 6) (fld w 13 6) (fld w 7 6))
  else if bitsOf w 25 3 = 1 ∧ bitsOf w 30 2 = 0 then
    some (.shflUp (fld w 29 1) (fld w 28 1) (fld w 19 6) (fld w 13 6) (fld w 7 6))
  else if bitsOf w 25 3 = 2 ∧ bitsOf w 30 2 = 0 then
    some (.shflDown (fld w 29 1) (fld w 28 1) (fld w 19 6) (fld w 13 6) (fld w 7 6))
  else if bitsOf w 25 3 = 3 ∧ bitsOf w 30 2 = 0 then
    some (.shflXor (fld w 29 1) (fld w 28 1) (fld w 19 6) (fld w 13 6) (fld w 7 6))
  else if bitsOf w 13 3 = 0 ∧ bitsOf w 25 3 = 4 ∧ bitsOf w 30 2 = 0 then
    some (.xg (fld w 29 1) (fld w 28 1) (fld w 19 6) (fld w 16 3) (fld w 7 6))
  else if bitsOf w 19 2 = 0 ∧ bitsOf w 24 4 = 10 ∧ bitsOf w 29 1 = 0 ∧ bitsOf w 31 1 = 0 then
    some (.permB (fld w 30 1) (fld w 28 1) (fld w 21 3) (fld w 13 6) (fld w 7 6))
  else none

/-- Major 0x1d (02 R65). -/
def decodeMajor1d (w : Nat) : Option Instr :=
  if bitsOf w 10 3 = 0 ∧ bitsOf w 16 16 = 0 then
    some (.voteAny (fld w 13 3) (fld w 7 3))
  else if bitsOf w 10 3 = 0 ∧ bitsOf w 16 16 = 512 then
    some (.voteAll (fld w 13 3) (fld w 7 3))
  else if bitsOf w 12 1 = 0 ∧ bitsOf w 16 16 = 1024 then
    some (.voteBallot (fld w 13 3) (fld w 7 5))
  else none

/-- Major 0x1e (02 R65). -/
def decodeMajor1e (w : Nat) : Option Instr :=
  if bitsOf w 19 9 = 0 ∧ bitsOf w 29 1 = 0 then
    some (.gredAdd (fld w 30 2) (fld w 28 1) (fld w 13 6) (fld w 7 6))
  else if bitsOf w 19 9 = 64 ∧ bitsOf w 29 1 = 0 then
    some (.gredMin (fld w 30 2) (fld w 28 1) (fld w 13 6) (fld w 7 6))
  else if bitsOf w 19 9 = 128 ∧ bitsOf w 29 1 = 0 then
    some (.gredMax (fld w 30 2) (fld w 28 1) (fld w 13 6) (fld w 7 6))
  else if bitsOf w 19 9 = 192 ∧ bitsOf w 29 1 = 0 then
    some (.gscanAdd (fld w 30 2) (fld w 28 1) (fld w 13 6) (fld w 7 6))
  else none

/-- Major 0x1f (02 R65). -/
def decodeMajor1f (w : Nat) : Option Instr :=
  if bitsOf w 7 1 = 0 ∧ bitsOf w 24 4 = 0 ∧ bitsOf w 29 3 = 0 then
    some (.rbal (fld w 28 1) (fld w 19 5) (fld w 13 6) (fld w 8 5))
  else none

/-- Major 0x20 (02 R65). -/
def decodeMajor20 (w : Nat) : Option Instr :=
  if bitsOf w 13 1 = 0 then
    some (.ld (fld w 31 1) (fld w 30 1) (fld w 26 4) (fld w 24 2) (fld w 18 6) (fld w 14 4) (fld w 7 6))
  else none

/-- Major 0x21 (02 R65). -/
def decodeMajor21 (w : Nat) : Option Instr :=
  if bitsOf w 13 1 = 0 ∧ bitsOf w 31 1 = 0 then
    some (.st (fld w 30 1) (fld w 26 4) (fld w 24 2) (fld w 18 6) (fld w 14 4) (fld w 7 6))
  else none

/-- Major 0x22 (02 R65). -/
def decodeMajor22 (w : Nat) : Option Instr :=
  if bitsOf w 7 2 = 0 ∧ bitsOf w 13 1 = 0 ∧ bitsOf w 24 2 = 0 ∧ bitsOf w 31 1 = 0 then
    some (.ldQ (fld w 30 1) (fld w 26 4) (fld w 18 6) (fld w 14 4) (fld w 9 4))
  else if bitsOf w 7 2 = 0 ∧ bitsOf w 13 1 = 0 ∧ bitsOf w 24 2 = 0 ∧ bitsOf w 31 1 = 1 then
    some (.stQ (fld w 30 1) (fld w 26 4) (fld w 18 6) (fld w 14 4) (fld w 9 4))
  else none

/-- Major 0x23 (02 R65). -/
def decodeMajor23 (w : Nat) : Option Instr :=
  if bitsOf w 13 1 = 0 then
    some (.ldRo (fld w 31 1) (fld w 30 1) (fld w 26 4) (fld w 24 2) (fld w 18 6) (fld w 14 4) (fld w 7 6))
  else none

/-- Major 0x24 (02 R65). -/
def decodeMajor24 (w : Nat) : Option Instr :=
  if bitsOf w 12 2 = 0 ∧ bitsOf w 18 6 = 63 ∧ bitsOf w 25 1 = 1 ∧ bitsOf w 30 2 = 0 then
    some (.ldk (fld w 26 4) (fld w 24 1) (fld w 14 4) (fld w 7 5))
  else if bitsOf w 13 1 = 0 ∧ bitsOf w 18 6 = 63 ∧ bitsOf w 30 2 = 2 then
    some (.ldl (fld w 26 4) (fld w 24 2) (fld w 14 4) (fld w 7 6))
  else none

/-- Major 0x25 (02 R65). -/
def decodeMajor25 (w : Nat) : Option Instr :=
  if bitsOf w 31 1 = 0 then
    some (.lds (fld w 30 1) (fld w 26 4) (fld w 24 2) (fld w 18 6) (fld w 13 5) (fld w 7 6))
  else if bitsOf w 31 1 = 1 then
    some (.sts (fld w 30 1) (fld w 26 4) (fld w 24 2) (fld w 18 6) (fld w 13 5) (fld w 7 6))
  else none

/-- Major 0x26 (02 R65). -/
def decodeMajor26 (w : Nat) : Option Instr :=
  if bitsOf w 31 1 = 0 then
    some (.ldsd (fld w 30 1) (fld w 26 4) (fld w 24 2) (fld w 18 6) (fld w 13 5) (fld w 7 6))
  else if bitsOf w 31 1 = 1 then
    some (.stsd (fld w 30 1) (fld w 26 4) (fld w 24 2) (fld w 18 6) (fld w 13 5) (fld w 7 6))
  else none

/-- Major 0x27 (02 R65). -/
def decodeMajor27 (w : Nat) : Option Instr :=
  if bitsOf w 7 7 = 0 ∧ bitsOf w 24 2 = 0 ∧ bitsOf w 31 1 = 0 then
    some (.pf (fld w 30 1) (fld w 26 4) (fld w 18 6) (fld w 14 4))
  else if bitsOf w 7 1 = 0 ∧ bitsOf w 12 2 = 0 ∧ bitsOf w 18 8 = 255 ∧ bitsOf w 30 2 = 2 then
    some (.mwait (fld w 26 4) (fld w 14 4) (fld w 8 4))
  else none

/-- Major 0x28 (02 R65). -/
def decodeMajor28 (w : Nat) : Option Instr :=
  if bitsOf w 13 1 = 0 ∧ bitsOf w 25 3 = 0 then
    some (.atomAdd (fld w 30 2) (fld w 29 1) (fld w 28 1) (fld w 19 6) (fld w 14 5) (fld w 7 6))
  else if bitsOf w 13 1 = 0 ∧ bitsOf w 25 3 = 1 then
    some (.atomMin (fld w 30 2) (fld w 29 1) (fld w 28 1) (fld w 19 6) (fld w 14 5) (fld w 7 6))
  else if bitsOf w 13 1 = 0 ∧ bitsOf w 25 3 = 2 then
    some (.atomMax (fld w 30 2) (fld w 29 1) (fld w 28 1) (fld w 19 6) (fld w 14 5) (fld w 7 6))
  else if bitsOf w 13 1 = 0 ∧ bitsOf w 25 3 = 3 then
    some (.atomAnd (fld w 30 2) (fld w 29 1) (fld w 28 1) (fld w 19 6) (fld w 14 5) (fld w 7 6))
  else if bitsOf w 13 1 = 0 ∧ bitsOf w 25 3 = 4 then
    some (.atomOr (fld w 30 2) (fld w 29 1) (fld w 28 1) (fld w 19 6) (fld w 14 5) (fld w 7 6))
  else if bitsOf w 13 1 = 0 ∧ bitsOf w 25 3 = 5 then
    some (.atomXor (fld w 30 2) (fld w 29 1) (fld w 28 1) (fld w 19 6) (fld w 14 5) (fld w 7 6))
  else if bitsOf w 13 1 = 0 ∧ bitsOf w 25 3 = 6 then
    some (.atomExch (fld w 30 2) (fld w 29 1) (fld w 28 1) (fld w 19 6) (fld w 14 5) (fld w 7 6))
  else if bitsOf w 13 1 = 0 ∧ bitsOf w 25 3 = 7 then
    some (.atomCas (fld w 30 2) (fld w 29 1) (fld w 28 1) (fld w 19 6) (fld w 14 5) (fld w 7 6))
  else none

/-- Major 0x29 (02 R65). -/
def decodeMajor29 (w : Nat) : Option Instr :=
  if bitsOf w 7 7 = 0 ∧ bitsOf w 25 3 = 0 then
    some (.redAdd (fld w 30 2) (fld w 29 1) (fld w 28 1) (fld w 19 6) (fld w 14 5))
  else if bitsOf w 7 7 = 0 ∧ bitsOf w 25 3 = 1 then
    some (.redMin (fld w 30 2) (fld w 29 1) (fld w 28 1) (fld w 19 6) (fld w 14 5))
  else if bitsOf w 7 7 = 0 ∧ bitsOf w 25 3 = 2 then
    some (.redMax (fld w 30 2) (fld w 29 1) (fld w 28 1) (fld w 19 6) (fld w 14 5))
  else if bitsOf w 7 7 = 0 ∧ bitsOf w 25 3 = 3 then
    some (.redAnd (fld w 30 2) (fld w 29 1) (fld w 28 1) (fld w 19 6) (fld w 14 5))
  else if bitsOf w 7 7 = 0 ∧ bitsOf w 25 3 = 4 then
    some (.redOr (fld w 30 2) (fld w 29 1) (fld w 28 1) (fld w 19 6) (fld w 14 5))
  else if bitsOf w 7 7 = 0 ∧ bitsOf w 25 3 = 5 then
    some (.redXor (fld w 30 2) (fld w 29 1) (fld w 28 1) (fld w 19 6) (fld w 14 5))
  else none

/-- Major 0x2a (02 R65). -/
def decodeMajor2a (w : Nat) : Option Instr :=
  if bitsOf w 7 7 = 0 ∧ bitsOf w 25 3 = 0 then
    some (.bupdAdd (fld w 30 2) (fld w 29 1) (fld w 28 1) (fld w 19 6) (fld w 14 5))
  else if bitsOf w 7 7 = 0 ∧ bitsOf w 25 3 = 1 then
    some (.bupdMin (fld w 30 2) (fld w 29 1) (fld w 28 1) (fld w 19 6) (fld w 14 5))
  else if bitsOf w 7 7 = 0 ∧ bitsOf w 25 3 = 2 then
    some (.bupdMax (fld w 30 2) (fld w 29 1) (fld w 28 1) (fld w 19 6) (fld w 14 5))
  else if bitsOf w 7 7 = 0 ∧ bitsOf w 25 3 = 3 then
    some (.bredAdd (fld w 30 2) (fld w 29 1) (fld w 28 1) (fld w 19 6) (fld w 14 5))
  else if bitsOf w 7 7 = 0 ∧ bitsOf w 25 3 = 4 then
    some (.bredMin (fld w 30 2) (fld w 29 1) (fld w 28 1) (fld w 19 6) (fld w 14 5))
  else if bitsOf w 7 7 = 0 ∧ bitsOf w 25 3 = 5 then
    some (.bredMax (fld w 30 2) (fld w 29 1) (fld w 28 1) (fld w 19 6) (fld w 14 5))
  else none

/-- Major 0x2b (02 R65). -/
def decodeMajor2b (w : Nat) : Option Instr :=
  if bitsOf w 7 6 = 0 ∧ bitsOf w 16 16 = 0 then
    some (.fence (fld w 13 3))
  else if bitsOf w 7 6 = 0 ∧ bitsOf w 16 16 = 16384 then
    some (.fenceAcq (fld w 13 3))
  else if bitsOf w 7 6 = 0 ∧ bitsOf w 16 16 = 32768 then
    some (.fenceRel (fld w 13 3))
  else if bitsOf w 7 6 = 0 ∧ bitsOf w 16 16 = 512 then
    some (.tfence (fld w 13 3))
  else none

/-- Major 0x2c (02 R65). -/
def decodeMajor2c (w : Nat) : Option Instr :=
  if bitsOf w 7 6 = 0 ∧ bitsOf w 18 1 = 0 ∧ bitsOf w 24 6 = 0 ∧ bitsOf w 31 1 = 0 then
    some (.binit (fld w 30 1) (fld w 19 5) (fld w 13 5))
  else if bitsOf w 12 1 = 0 ∧ bitsOf w 18 12 = 128 ∧ bitsOf w 31 1 = 0 then
    some (.barv (fld w 30 1) (fld w 13 5) (fld w 7 5))
  else if bitsOf w 7 6 = 0 ∧ bitsOf w 18 1 = 0 ∧ bitsOf w 24 6 = 4 ∧ bitsOf w 31 1 = 0 then
    some (.bexp (fld w 30 1) (fld w 19 5) (fld w 13 5))
  else if bitsOf w 10 3 = 0 ∧ bitsOf w 18 1 = 0 ∧ bitsOf w 24 6 = 6 ∧ bitsOf w 31 1 = 0 then
    some (.btest (fld w 30 1) (fld w 19 5) (fld w 13 5) (fld w 7 3))
  else if bitsOf w 7 6 = 0 ∧ bitsOf w 18 1 = 0 ∧ bitsOf w 24 6 = 8 ∧ bitsOf w 31 1 = 0 then
    some (.bwait (fld w 30 1) (fld w 19 5) (fld w 13 5))
  else if bitsOf w 7 6 = 0 ∧ bitsOf w 18 12 = 640 ∧ bitsOf w 31 1 = 0 then
    some (.binval (fld w 30 1) (fld w 13 5))
  else none

/-- Major 0x2d (02 R65). -/
def decodeMajor2d (w : Nat) : Option Instr :=
  if bitsOf w 7 25 = 0 then
    some .tsync
  else if bitsOf w 7 25 = 262144 then
    some .clsync
  else none

/-- Major 0x2e (02 R65). -/
def decodeMajor2e (w : Nat) : Option Instr :=
  if bitsOf w 11 3 = 0 ∧ bitsOf w 24 2 = 3 ∧ bitsOf w 31 1 = 0 then
    some (.hld (fld w 30 1) (fld w 26 4) (fld w 18 6) (fld w 14 4) (fld w 7 4))
  else if bitsOf w 11 3 = 0 ∧ bitsOf w 24 2 = 3 ∧ bitsOf w 31 1 = 1 then
    some (.hst (fld w 30 1) (fld w 26 4) (fld w 18 6) (fld w 14 4) (fld w 7 4))
  else none

/-- Major 0x2f (02 R65). -/
def decodeMajor2f (w : Nat) : Option Instr :=
  if bitsOf w 17 2 = 0 ∧ bitsOf w 25 4 = 0 then
    some (.ldh (fld w 30 2) (fld w 29 1) (fld w 19 6) (fld w 13 4) (fld w 7 6))
  else if bitsOf w 11 2 = 0 ∧ bitsOf w 25 3 = 1 then
    some (.sth (fld w 30 2) (fld w 29 1) (fld w 28 1) (fld w 19 6) (fld w 13 6) (fld w 7 4))
  else if bitsOf w 11 2 = 0 ∧ bitsOf w 25 3 = 2 ∧ bitsOf w 30 2 = 0 then
    some (.hnew (fld w 29 1) (fld w 28 1) (fld w 19 6) (fld w 13 6) (fld w 7 4))
  else if bitsOf w 11 21 = 49152 then
    some (.hfree (fld w 7 4))
  else if bitsOf w 7 1 = 0 ∧ bitsOf w 17 15 = 1024 then
    some (.hpin (fld w 13 4) (fld w 8 5))
  else if bitsOf w 11 21 = 81920 then
    some (.hunpin (fld w 7 4))
  else if bitsOf w 10 3 = 0 ∧ bitsOf w 17 2 = 0 ∧ bitsOf w 23 9 = 24 then
    some (.heq (fld w 19 4) (fld w 13 4) (fld w 7 3))
  else if bitsOf w 17 15 = 1792 then
    some (.htag (fld w 13 4) (fld w 7 6))
  else none

/-- Major 0x30 (02 R65). -/
def decodeMajor30 (w : Nat) : Option Instr :=
  if bitsOf w 7 3 = 0 ∧ bitsOf w 24 4 = 0 then
    some (.qla (fld w 28 4) (fld w 23 1) (fld w 19 4) (fld w 16 3) (fld w 10 6))
  else if bitsOf w 7 3 = 1 ∧ bitsOf w 25 3 = 0 then
    some (.qzero (fld w 28 4) (fld w 24 1) (fld w 22 2) (fld w 17 5) (fld w 13 4) (fld w 10 3))
  else if bitsOf w 7 3 = 2 ∧ bitsOf w 24 4 = 0 then
    some (.qrd (fld w 28 4) (fld w 23 1) (fld w 21 2) (fld w 19 2) (fld w 13 6) (fld w 10 3))
  else if bitsOf w 7 3 = 3 ∧ bitsOf w 24 4 = 0 then
    some (.qwr (fld w 28 4) (fld w 23 1) (fld w 21 2) (fld w 19 2) (fld w 13 6) (fld w 10 3))
  else if bitsOf w 7 3 = 4 ∧ bitsOf w 17 11 = 0 then
    some (.qrel (fld w 28 4) (fld w 13 4) (fld w 10 3))
  else none

/-- Major 0x31 (02 R65). -/
def decodeMajor31 (w : Nat) : Option Instr :=
  if bitsOf w 7 3 = 0 ∧ bitsOf w 25 3 = 0 then
    some (.qmm (fld w 28 4) (fld w 24 1) (fld w 23 1) (fld w 21 2) (fld w 17 4) (fld w 13 4) (fld w 10 3))
  else none

/-- Major 0x32 (02 R65). -/
def decodeMajor32 (w : Nat) : Option Instr :=
  if bitsOf w 7 3 = 0 ∧ bitsOf w 21 1 = 0 then
    some (.qmmg (fld w 28 4) (fld w 27 1) (fld w 22 5) (fld w 17 4) (fld w 13 4) (fld w 10 3))
  else none

/-- Major 0x33 (02 R65). -/
def decodeMajor33 (w : Nat) : Option Instr :=
  if bitsOf w 7 3 = 0 ∧ bitsOf w 25 3 = 0 then
    some (.qdist (fld w 28 4) (fld w 24 1) (fld w 23 1) (fld w 21 2) (fld w 17 4) (fld w 13 4) (fld w 10 3))
  else if bitsOf w 7 3 = 1 ∧ bitsOf w 25 3 = 0 then
    some (.qtopk (fld w 28 4) (fld w 20 5) (fld w 16 4) (fld w 13 3) (fld w 10 3))
  else none

/-- Major 0x34 (02 R65). -/
def decodeMajor34 (w : Nat) : Option Instr :=
  if bitsOf w 7 7 = 0 then
    some (.qatt (fld w 28 4) (fld w 24 4) (fld w 20 4) (fld w 17 3) (fld w 16 1) (fld w 14 2))
  else if bitsOf w 7 7 = 1 then
    some (.qatf (fld w 28 4) (fld w 24 4) (fld w 20 4) (fld w 17 3) (fld w 16 1) (fld w 14 2))
  else if bitsOf w 7 7 = 2 then
    some (.qsel (fld w 28 4) (fld w 24 4) (fld w 20 4) (fld w 17 3) (fld w 16 1) (fld w 14 2))
  else none

/-- Major 0x35 (02 R65). -/
def decodeMajor35 (w : Nat) : Option Instr :=
  if bitsOf w 7 3 = 0 ∧ bitsOf w 12 10 = 0 then
    some (.mxq (fld w 28 4) (fld w 25 3) (fld w 24 1) (fld w 23 1) (fld w 22 1) (fld w 10 2))
  else if bitsOf w 7 3 = 1 ∧ bitsOf w 12 10 = 0 then
    some (.mxd (fld w 28 4) (fld w 25 3) (fld w 24 1) (fld w 23 1) (fld w 22 1) (fld w 10 2))
  else none

/-- Major 0x36 (02 R65). -/
def decodeMajor36 (w : Nat) : Option Instr :=
  if bitsOf w 7 3 = 0 ∧ bitsOf w 13 1 = 0 ∧ bitsOf w 18 10 = 0 then
    some (.mload (fld w 28 4) (fld w 14 4) (fld w 10 3))
  else if bitsOf w 7 3 = 1 ∧ bitsOf w 13 15 = 0 then
    some (.mfree (fld w 28 4) (fld w 10 3))
  else if bitsOf w 7 3 = 2 ∧ bitsOf w 20 8 = 0 then
    some (.mclass (fld w 28 4) (fld w 18 2) (fld w 13 5) (fld w 10 3))
  else if bitsOf w 7 3 = 3 ∧ bitsOf w 13 1 = 0 ∧ bitsOf w 18 10 = 0 then
    some (.mstat (fld w 28 4) (fld w 14 4) (fld w 10 3))
  else none

/-- Major 0x37 (02 R65). -/
def decodeMajor37 (w : Nat) : Option Instr :=
  if bitsOf w 7 6 = 0 ∧ bitsOf w 20 8 = 0 then
    some (.kvnew (fld w 28 4) (fld w 18 2) (fld w 13 5))
  else if bitsOf w 7 6 = 1 ∧ bitsOf w 20 8 = 0 then
    some (.kvseal (fld w 28 4) (fld w 18 2) (fld w 13 5))
  else if bitsOf w 7 6 = 2 ∧ bitsOf w 20 8 = 0 then
    some (.kvdem (fld w 28 4) (fld w 18 2) (fld w 13 5))
  else if bitsOf w 7 6 = 10 ∧ bitsOf w 20 8 = 0 then
    some (.kvdemInv (fld w 28 4) (fld w 18 2) (fld w 13 5))
  else if bitsOf w 7 6 = 3 ∧ bitsOf w 20 8 = 0 then
    some (.kvcold (fld w 28 4) (fld w 18 2) (fld w 13 5))
  else if bitsOf w 7 3 = 4 ∧ bitsOf w 13 1 = 0 ∧ bitsOf w 20 8 = 0 then
    some (.kvq (fld w 28 4) (fld w 18 2) (fld w 14 4) (fld w 10 3))
  else if bitsOf w 7 6 = 5 ∧ bitsOf w 20 8 = 0 then
    some (.kvpolReg (fld w 28 4) (fld w 18 2) (fld w 13 5))
  else if bitsOf w 7 6 = 13 ∧ bitsOf w 20 8 = 0 then
    some (.kvpolSweep (fld w 28 4) (fld w 18 2) (fld w 13 5))
  else if bitsOf w 7 6 = 21 ∧ bitsOf w 20 8 = 0 then
    some (.kvpolUnreg (fld w 28 4) (fld w 18 2) (fld w 13 5))
  else if bitsOf w 7 6 = 29 ∧ bitsOf w 20 8 = 0 then
    some (.kvpolSet (fld w 28 4) (fld w 18 2) (fld w 13 5))
  else none

/-- Major 0x38 (02 R65). -/
def decodeMajor38 (w : Nat) : Option Instr :=
  if bitsOf w 7 3 = 0 ∧ bitsOf w 12 2 = 0 ∧ bitsOf w 21 7 = 0 then
    some (.cpy (fld w 28 4) (fld w 18 3) (fld w 17 1) (fld w 16 1) (fld w 15 1) (fld w 14 1) (fld w 10 2))
  else if bitsOf w 7 3 = 1 ∧ bitsOf w 12 2 = 0 ∧ bitsOf w 21 7 = 0 then
    some (.cpy2d (fld w 28 4) (fld w 18 3) (fld w 17 1) (fld w 16 1) (fld w 15 1) (fld w 14 1) (fld w 10 2))
  else if bitsOf w 7 3 = 2 ∧ bitsOf w 12 2 = 0 ∧ bitsOf w 15 1 = 1 ∧ bitsOf w 21 7 = 0 then
    some (.cpym (fld w 28 4) (fld w 18 3) (fld w 17 1) (fld w 16 1) (fld w 14 1) (fld w 10 2))
  else none

/-- Major 0x39 (02 R65). -/
def decodeMajor39 (w : Nat) : Option Instr :=
  if bitsOf w 7 3 = 0 ∧ bitsOf w 12 1 = 0 ∧ bitsOf w 21 7 = 0 then
    some (.cpyc (fld w 28 4) (fld w 18 3) (fld w 17 1) (fld w 13 4) (fld w 10 2))
  else if bitsOf w 7 3 = 1 ∧ bitsOf w 12 1 = 0 ∧ bitsOf w 17 11 = 0 then
    some (.cpyst (fld w 28 4) (fld w 13 4) (fld w 10 2))
  else if bitsOf w 7 3 = 2 ∧ bitsOf w 12 16 = 0 then
    some (.cpyx (fld w 28 4) (fld w 10 2))
  else none

/-- Major 0x3a (02 R65). -/
def decodeMajor3a (w : Nat) : Option Instr :=
  if bitsOf w 7 3 = 0 ∧ bitsOf w 16 1 = 0 then
    some (.lld (fld w 28 4) (fld w 22 6) (fld w 17 5) (fld w 12 4) (fld w 10 2))
  else if bitsOf w 7 5 = 1 ∧ bitsOf w 19 1 = 0 then
    some (.lgat (fld w 28 4) (fld w 25 3) (fld w 20 5) (fld w 15 4) (fld w 13 2) (fld w 12 1))
  else if bitsOf w 7 9 = 2 then
    some (.lwr (fld w 28 4) (fld w 24 4) (fld w 22 2) (fld w 21 1) (fld w 20 1) (fld w 19 1) (fld w 16 3))
  else if bitsOf w 7 7 = 3 then
    some (.lred (fld w 28 4) (fld w 24 4) (fld w 22 2) (fld w 21 1) (fld w 20 1) (fld w 19 1) (fld w 16 3) (fld w 14 2))
  else if bitsOf w 7 9 = 4 ∧ bitsOf w 19 1 = 0 ∧ bitsOf w 21 1 = 0 ∧ bitsOf w 24 1 = 0 then
    some (.mxr (fld w 28 4) (fld w 25 3) (fld w 22 2) (fld w 20 1) (fld w 16 3))
  else none

/-- Major 0x3b (02 R65). -/
def decodeMajor3b (w : Nat) : Option Instr :=
  if bitsOf w 7 3 = 0 ∧ bitsOf w 15 1 = 0 ∧ bitsOf w 25 3 = 0 then
    some (.dlaunch (fld w 28 4) (fld w 20 5) (fld w 16 4) (fld w 10 5))
  else if bitsOf w 7 3 = 1 ∧ bitsOf w 15 13 = 0 then
    some (.qsig (fld w 28 4) (fld w 10 5))
  else none

/-- Major 0x3c (02 R65). -/
def decodeMajor3c (w : Nat) : Option Instr :=
  some (.bra (fld w 13 19) (fld w 11 2) (fld w 10 1) (fld w 7 3))

/-- Major 0x3d (02 R65). -/
def decodeMajor3d (w : Nat) : Option Instr :=
  if bitsOf w 7 6 = 0 then
    some (.call (fld w 13 19))
  else none

/-- Major 0x3e (02 R65). -/
def decodeMajor3e (w : Nat) : Option Instr :=
  if bitsOf w 7 6 = 0 ∧ bitsOf w 19 13 = 0 then
    some (.trap (fld w 13 6))
  else if bitsOf w 7 25 = 262144 then
    some .snap
  else if bitsOf w 12 1 = 0 ∧ bitsOf w 19 13 = 128 then
    some (.csrr (fld w 13 6) (fld w 7 5))
  else if bitsOf w 7 1 = 0 ∧ bitsOf w 12 20 = 24576 then
    some (.clock (fld w 8 4))
  else if bitsOf w 7 7 = 0 ∧ bitsOf w 19 9 = 256 ∧ bitsOf w 29 3 = 0 then
    some (.jmp (fld w 28 1) (fld w 14 5))
  else if bitsOf w 7 7 = 0 ∧ bitsOf w 19 9 = 320 ∧ bitsOf w 29 3 = 0 then
    some (.callIndirect (fld w 28 1) (fld w 14 5))
  else none

/-- Major 0x3f (02 R65). -/
def decodeMajor3f (w : Nat) : Option Instr :=
  if bitsOf w 7 2 = 0 then
    some (.extImm (fld w 9 23))
  else if bitsOf w 7 2 = 1 then
    some (.extReg (fld w 9 23))
  else none

/-- A 32-bit instruction (02 R47): bit 0 is 1 and bits [6:1] hold the major. -/
def decodeWord (w : Nat) : Option Instr :=
  match bitsOf w 1 6 with
  | 0 => decodeMajor00 w
  | 1 => decodeMajor01 w
  | 2 => decodeMajor02 w
  | 3 => decodeMajor03 w
  | 4 => decodeMajor04 w
  | 5 => decodeMajor05 w
  | 6 => decodeMajor06 w
  | 7 => decodeMajor07 w
  | 8 => decodeMajor08 w
  | 9 => decodeMajor09 w
  | 10 => decodeMajor0a w
  | 11 => decodeMajor0b w
  | 12 => decodeMajor0c w
  | 13 => decodeMajor0d w
  | 14 => decodeMajor0e w
  | 15 => decodeMajor0f w
  | 16 => decodeMajor10 w
  | 17 => decodeMajor11 w
  | 18 => decodeMajor12 w
  | 19 => decodeMajor13 w
  | 20 => decodeMajor14 w
  | 24 => decodeMajor18 w
  | 25 => decodeMajor19 w
  | 26 => decodeMajor1a w
  | 27 => decodeMajor1b w
  | 28 => decodeMajor1c w
  | 29 => decodeMajor1d w
  | 30 => decodeMajor1e w
  | 31 => decodeMajor1f w
  | 32 => decodeMajor20 w
  | 33 => decodeMajor21 w
  | 34 => decodeMajor22 w
  | 35 => decodeMajor23 w
  | 36 => decodeMajor24 w
  | 37 => decodeMajor25 w
  | 38 => decodeMajor26 w
  | 39 => decodeMajor27 w
  | 40 => decodeMajor28 w
  | 41 => decodeMajor29 w
  | 42 => decodeMajor2a w
  | 43 => decodeMajor2b w
  | 44 => decodeMajor2c w
  | 45 => decodeMajor2d w
  | 46 => decodeMajor2e w
  | 47 => decodeMajor2f w
  | 48 => decodeMajor30 w
  | 49 => decodeMajor31 w
  | 50 => decodeMajor32 w
  | 51 => decodeMajor33 w
  | 52 => decodeMajor34 w
  | 53 => decodeMajor35 w
  | 54 => decodeMajor36 w
  | 55 => decodeMajor37 w
  | 56 => decodeMajor38 w
  | 57 => decodeMajor39 w
  | 58 => decodeMajor3a w
  | 59 => decodeMajor3b w
  | 60 => decodeMajor3c w
  | 61 => decodeMajor3d w
  | 62 => decodeMajor3e w
  | 63 => decodeMajor3f w
  | _ => none

/-- A 16-bit instruction (02 R55, R56): bit 0 is 0. -/
def decodeHalf (w : Nat) : Option Instr :=
  match bitsOf w 0 6 with
  | 0 => some (.mov16 (fld w 11 5) (fld w 6 5))
  | 4 => some (.add16 (fld w 11 5) (fld w 6 5))
  | 8 => some (.sub16 (fld w 11 5) (fld w 6 5))
  | 12 => some (.mul16 (fld w 11 5) (fld w 6 5))
  | 16 => some (.and16 (fld w 11 5) (fld w 6 5))
  | 20 => some (.or16 (fld w 11 5) (fld w 6 5))
  | 24 => some (.xor16 (fld w 11 5) (fld w 6 5))
  | 28 => some (.andn16 (fld w 11 5) (fld w 6 5))
  | 32 => some (.shl16 (fld w 11 5) (fld w 6 5))
  | 36 => some (.shr16 (fld w 11 5) (fld w 6 5))
  | 40 => some (.sra16 (fld w 11 5) (fld w 6 5))
  | 44 => some (.min16 (fld w 11 5) (fld w 6 5))
  | 48 => some (.max16 (fld w 11 5) (fld w 6 5))
  | 52 => some (.fadd16 (fld w 11 5) (fld w 6 5))
  | 56 => some (.fmul16 (fld w 11 5) (fld w 6 5))
  | 60 => some (.fmax16 (fld w 11 5) (fld w 6 5))
  | 2 => if bitsOf w 6 10 = 0 then some .nop else none
  | 6 => if bitsOf w 6 10 = 0 then some .join else none
  | 10 => if bitsOf w 6 10 = 0 then some .yield else none
  | 14 => if bitsOf w 6 10 = 0 then some .exit else none
  | 18 => if bitsOf w 6 10 = 0 then some .ret else none
  | 22 => if bitsOf w 10 6 = 0 then some (.guard (fld w 9 1) (fld w 6 3)) else none
  | _ => none

/-- Decode the instruction at the head of a byte string, lowest address first (02 R43). -/
def decode : List Byte → Except Reject (Instr × List Byte)
  | b0 :: b1 :: rest =>
    if bitOf b0.toNat 0 then
      match rest with
      | b2 :: b3 :: rest' =>
        let w := natOfBytes [b0, b1, b2, b3]
        match decodeWord w with
        | some i => .ok (i, rest')
        | none => .error (.noSuchForm (bitsOf w 1 6))
      | _ => .error .truncated
    else
      let h := natOfBytes [b0, b1]
      match decodeHalf h with
      | some i => .ok (i, rest)
      | none => .error (.reservedControl h)
  | _ => .error .truncated

/-- What the decoder reads from an instruction whose bits are `w`, numbered as the opcode table numbers them; bits from `nbits` up
are zero. -/
def decodeTableWord (nbits w : Nat) : Option Instr :=
  match decode (bytesOf 4 (w % 2 ^ nbits)) with
  | .ok (i, _) => some i
  | .error _ => none

/-- Bits of an instruction's encoding: 16 or 32, and 0 for an event, which no word encodes (02 R43). -/
def wordBits : Instr → Nat
  | .add .. | .sub .. | .mulLo .. | .mulHi .. | .madLo .. | .adda ..
  | .min .. | .max .. | .and .. | .or .. | .xor .. | .andn ..
  | .shl .. | .shr .. | .sra .. | .rot .. | .bfe .. | .bfi ..
  | .popc .. | .popcLt .. | .clz .. | .brev .. | .abs .. | .not ..
  | .dot4I8 .. | .addi .. | .andi .. | .ori .. | .xori .. | .shli ..
  | .shri .. | .srai .. | .roti .. | .movi .. | .mini .. | .maxi ..
  | .kadd .. | .ksub .. | .kmulLo .. | .kmulHi .. | .kmadLo .. | .kadda ..
  | .kmin .. | .kmax .. | .kand .. | .kor .. | .kxor .. | .kandn ..
  | .kshl .. | .kshr .. | .ksra .. | .krot .. | .kaddi .. | .kmovi ..
  | .kbfe .. | .kbfi .. | .kpopc .. | .kclz .. | .kbrev .. | .knot ..
  | .kabs .. | .kmov .. | .fadd .. | .fsub .. | .fmul .. | .fma ..
  | .fmin .. | .fmax .. | .faddBf16x2 .. | .fmulBf16x2 .. | .fmaBf16x2 .. | .fminBf16x2 ..
  | .fmaxBf16x2 .. | .faddF16x2 .. | .fmulF16x2 .. | .fmaF16x2 .. | .fminF16x2 .. | .fmaxF16x2 ..
  | .rcp .. | .rsqrt .. | .exp2 .. | .log2 .. | .cvt .. | .cmpEq ..
  | .cmpNe .. | .cmpLt .. | .cmpLe .. | .cmpGt .. | .cmpGe .. | .pand ..
  | .por .. | .pxor .. | .pnot .. | .sel .. | .mov .. | .movk ..
  | .sreg .. | .shflIdx .. | .shflUp .. | .shflDown .. | .shflXor .. | .xg ..
  | .permB .. | .voteAny .. | .voteAll .. | .voteBallot .. | .gredAdd .. | .gredMin ..
  | .gredMax .. | .gscanAdd .. | .rbal .. | .ld .. | .st .. | .ldQ ..
  | .stQ .. | .ldRo .. | .ldk .. | .ldl .. | .lds .. | .sts ..
  | .ldsd .. | .stsd .. | .pf .. | .mwait .. | .atomAdd .. | .atomMin ..
  | .atomMax .. | .atomAnd .. | .atomOr .. | .atomXor .. | .atomExch .. | .atomCas ..
  | .redAdd .. | .redMin .. | .redMax .. | .redAnd .. | .redOr .. | .redXor ..
  | .bupdAdd .. | .bupdMin .. | .bupdMax .. | .bredAdd .. | .bredMin .. | .bredMax ..
  | .fence .. | .fenceAcq .. | .fenceRel .. | .tfence .. | .binit .. | .barv ..
  | .bexp .. | .btest .. | .bwait .. | .binval .. | .tsync | .clsync
  | .hld .. | .hst .. | .ldh .. | .sth .. | .hnew .. | .hfree ..
  | .hpin .. | .hunpin .. | .heq .. | .htag .. | .qla .. | .qzero ..
  | .qrd .. | .qwr .. | .qrel .. | .qmm .. | .qmmg .. | .qdist ..
  | .qtopk .. | .qatt .. | .qatf .. | .qsel .. | .mxq .. | .mxd ..
  | .mload .. | .mfree .. | .mclass .. | .mstat .. | .kvnew .. | .kvseal ..
  | .kvdem .. | .kvdemInv .. | .kvcold .. | .kvq .. | .kvpolReg .. | .kvpolSweep ..
  | .kvpolUnreg .. | .kvpolSet .. | .cpy .. | .cpy2d .. | .cpym .. | .cpyc ..
  | .cpyst .. | .cpyx .. | .lld .. | .lgat .. | .lwr .. | .lred ..
  | .mxr .. | .dlaunch .. | .qsig .. | .bra .. | .call .. | .trap ..
  | .snap | .csrr .. | .clock .. | .jmp .. | .callIndirect .. | .extImm ..
  | .extReg .. => 32
  | .mov16 .. | .add16 .. | .sub16 .. | .mul16 .. | .and16 .. | .or16 ..
  | .xor16 .. | .andn16 .. | .shl16 .. | .shr16 .. | .sra16 .. | .min16 ..
  | .max16 .. | .fadd16 .. | .fmul16 .. | .fmax16 .. | .nop | .join
  | .yield | .exit | .ret | .guard .. => 16
  | .illegalInstruction | .faultRecordWrite .. | .trapRecordWrite .. | .teamFillComplete .. | .drainComplete .. | .contextSaveComplete ..
  | .activeSetExchange .. | .joinWaitTimeout .. | .mwaitReread .. | .barrierDecrement .. | .updateOnlyTimeout .. | .migrationPrecopyDone ..
  | .migrationRecopyDone .. | .migrationFlip .. | .migrationInvalAck .. | .migrationHoldTimeout .. | .hostWrite .. | .hostRead ..
  | .passGrant .. | .fusionWaitExpiry .. | .passCommit .. | .attentionComplete .. | .conversionComplete .. | .objectFree ..
  | .sweepIntervalStart .. | .sweepRequestStart .. | .sweepVisit .. | .coldMoveCopyDone .. | .sweepComplete .. | .directoryTakeup ..
  | .directoryBusyTimeout .. | .writeCombineTimeout .. | .relocAutoStart .. | .relocCopyDone .. | .relocRecopyDone .. | .relocFlip ..
  | .relocFinalTimeout .. | .relocAck .. | .healPassComplete .. | .copyOperationComplete .. | .multicastDelivery .. | .chainRecordFetch ..
  | .chainWaitTimeout .. | .chainRecordComplete .. | .flitArrival .. | .peerRequest .. | .portFailure .. | .linkRetryTimeout ..
  | .linkOperationComplete .. | .mxrTimeout .. | .doorbell .. | .launchRecordRead .. | .dependenceReread .. | .teamPlacement ..
  | .gangPlacement .. | .waitingLevelAge .. | .gangFirstAge .. | .gangSecondAge .. | .timeSliceExpiry .. | .noRoomEviction ..
  | .gridComplete .. | .ident .. | .claim .. | .handover .. | .attest .. | .loadimg ..
  | .reset .. | .qcreate .. | .qstop .. | .qstopDestroy .. | .queueDestroyComplete .. | .asgen ..
  | .invpage .. | .grantref .. | .faultansRetry .. | .faultansKill .. | .resumeSkip .. | .resumeRetry ..
  | .resumeEnd .. | .preempt .. | .framerel .. | .heapbind .. | .heapbindUnbind .. | .reloc ..
  | .migrate .. | .peerbind .. | .route .. | .qread .. | .snapcfg .. | .snaptrig ..
  | .snapread .. | .snaprel .. | .relrep .. | .retire .. | .pwrcap .. | .therm ..
  | .unknownCommand .. | .registerWrite .. | .snapshotLatch | .ownershipLapse | .handoverTimeout | .powerOn ..
  | .coreFailure .. | .hbmChannelFailure .. | .linkLaneFault .. | .thermalLimit .. | .thermalShutdown | .powerDown
  | .pcieLinkDown | .pcieLinkUp => 0

/-- The word of an instruction, from the encoding tables (02 R47, R55, R56, R65). -/
def encodeWord : Instr → Nat
  | .add m y x b a d => 1 + m.toNat * 1073741824 + y.toNat * 536870912 + x.toNat * 268435456 + b.toNat * 524288 + a.toNat * 8192 + d.toNat * 128
  | .sub m y x b a d => 33554433 + m.toNat * 1073741824 + y.toNat * 536870912 + x.toNat * 268435456 + b.toNat * 524288 + a.toNat * 8192 + d.toNat * 128
  | .mulLo y x b a d => 67108865 + y.toNat * 536870912 + x.toNat * 268435456 + b.toNat * 524288 + a.toNat * 8192 + d.toNat * 128
  | .mulHi m y x b a d => 100663297 + m.toNat * 1073741824 + y.toNat * 536870912 + x.toNat * 268435456 + b.toNat * 524288 + a.toNat * 8192 + d.toNat * 128
  | .madLo y x b a d => 134217729 + y.toNat * 536870912 + x.toNat * 268435456 + b.toNat * 524288 + a.toNat * 8192 + d.toNat * 128
  | .adda y x b a d => 167772161 + y.toNat * 536870912 + x.toNat * 268435456 + b.toNat * 1048576 + a.toNat * 16384 + d.toNat * 256
  | .min m y x b a d => 201326593 + m.toNat * 1073741824 + y.toNat * 536870912 + x.toNat * 268435456 + b.toNat * 524288 + a.toNat * 8192 + d.toNat * 128
  | .max m y x b a d => 234881025 + m.toNat * 1073741824 + y.toNat * 536870912 + x.toNat * 268435456 + b.toNat * 524288 + a.toNat * 8192 + d.toNat * 128
  | .and y x b a d => 3 + y.toNat * 536870912 + x.toNat * 268435456 + b.toNat * 524288 + a.toNat * 8192 + d.toNat * 128
  | .or y x b a d => 33554435 + y.toNat * 536870912 + x.toNat * 268435456 + b.toNat * 524288 + a.toNat * 8192 + d.toNat * 128
  | .xor y x b a d => 67108867 + y.toNat * 536870912 + x.toNat * 268435456 + b.toNat * 524288 + a.toNat * 8192 + d.toNat * 128
  | .andn y x b a d => 100663299 + y.toNat * 536870912 + x.toNat * 268435456 + b.toNat * 524288 + a.toNat * 8192 + d.toNat * 128
  | .shl y x b a d => 134217731 + y.toNat * 536870912 + x.toNat * 268435456 + b.toNat * 524288 + a.toNat * 8192 + d.toNat * 128
  | .shr y x b a d => 167772163 + y.toNat * 536870912 + x.toNat * 268435456 + b.toNat * 524288 + a.toNat * 8192 + d.toNat * 128
  | .sra y x b a d => 201326595 + y.toNat * 536870912 + x.toNat * 268435456 + b.toNat * 524288 + a.toNat * 8192 + d.toNat * 128
  | .rot y x b a d => 234881027 + y.toNat * 536870912 + x.toNat * 268435456 + b.toNat * 524288 + a.toNat * 8192 + d.toNat * 128
  | .bfe m y x b a d => 5 + m.toNat * 1073741824 + y.toNat * 536870912 + x.toNat * 268435456 + b.toNat * 524288 + a.toNat * 8192 + d.toNat * 128
  | .bfi y x b a d => 33554437 + y.toNat * 536870912 + x.toNat * 268435456 + b.toNat * 524288 + a.toNat * 8192 + d.toNat * 128
  | .popc x a d => 67108869 + x.toNat * 268435456 + a.toNat * 8192 + d.toNat * 128
  | .popcLt y x b a d => 100663301 + y.toNat * 536870912 + x.toNat * 268435456 + b.toNat * 524288 + a.toNat * 8192 + d.toNat * 128
  | .clz x a d => 134217733 + x.toNat * 268435456 + a.toNat * 8192 + d.toNat * 128
  | .brev x a d => 167772165 + x.toNat * 268435456 + a.toNat * 8192 + d.toNat * 128
  | .abs x a d => 201326597 + x.toNat * 268435456 + a.toNat * 8192 + d.toNat * 128
  | .not x a d => 234881029 + x.toNat * 268435456 + a.toNat * 8192 + d.toNat * 128
  | .dot4I8 m y x b a d => 7 + m.toNat * 1073741824 + y.toNat * 536870912 + x.toNat * 268435456 + b.toNat * 524288 + a.toNat * 8192 + d.toNat * 128
  | .addi m x i a d => 9 + m.toNat * 2147483648 + x.toNat * 1073741824 + i.toNat * 524288 + a.toNat * 8192 + d.toNat * 128
  | .andi x i a d => 11 + x.toNat * 1073741824 + i.toNat * 524288 + a.toNat * 8192 + d.toNat * 128
  | .ori x i a d => 13 + x.toNat * 1073741824 + i.toNat * 524288 + a.toNat * 8192 + d.toNat * 128
  | .xori x i a d => 15 + x.toNat * 1073741824 + i.toNat * 524288 + a.toNat * 8192 + d.toNat * 128
  | .shli x n a d => 17 + x.toNat * 1073741824 + n.toNat * 524288 + a.toNat * 8192 + d.toNat * 128
  | .shri x n a d => 16777233 + x.toNat * 1073741824 + n.toNat * 524288 + a.toNat * 8192 + d.toNat * 128
  | .srai x n a d => 33554449 + x.toNat * 1073741824 + n.toNat * 524288 + a.toNat * 8192 + d.toNat * 128
  | .roti x n a d => 50331665 + x.toNat * 1073741824 + n.toNat * 524288 + a.toNat * 8192 + d.toNat * 128
  | .movi i d => 19 + i.toNat * 524288 + d.toNat * 128
  | .mini m x i a d => 21 + m.toNat * 2147483648 + x.toNat * 1073741824 + i.toNat * 524288 + a.toNat * 8192 + d.toNat * 128
  | .maxi m x i a d => 23 + m.toNat * 2147483648 + x.toNat * 1073741824 + i.toNat * 524288 + a.toNat * 8192 + d.toNat * 128
  | .kadd m b a d => 25 + m.toNat * 1073741824 + b.toNat * 524288 + a.toNat * 8192 + d.toNat * 128
  | .ksub m b a d => 33554457 + m.toNat * 1073741824 + b.toNat * 524288 + a.toNat * 8192 + d.toNat * 128
  | .kmulLo b a d => 67108889 + b.toNat * 524288 + a.toNat * 8192 + d.toNat * 128
  | .kmulHi m b a d => 100663321 + m.toNat * 1073741824 + b.toNat * 524288 + a.toNat * 8192 + d.toNat * 128
  | .kmadLo b a d => 134217753 + b.toNat * 524288 + a.toNat * 8192 + d.toNat * 128
  | .kadda b a d => 167772185 + b.toNat * 1048576 + a.toNat * 16384 + d.toNat * 256
  | .kmin m b a d => 201326617 + m.toNat * 1073741824 + b.toNat * 524288 + a.toNat * 8192 + d.toNat * 128
  | .kmax m b a d => 234881049 + m.toNat * 1073741824 + b.toNat * 524288 + a.toNat * 8192 + d.toNat * 128
  | .kand b a d => 27 + b.toNat * 524288 + a.toNat * 8192 + d.toNat * 128
  | .kor b a d => 33554459 + b.toNat * 524288 + a.toNat * 8192 + d.toNat * 128
  | .kxor b a d => 67108891 + b.toNat * 524288 + a.toNat * 8192 + d.toNat * 128
  | .kandn b a d => 100663323 + b.toNat * 524288 + a.toNat * 8192 + d.toNat * 128
  | .kshl b a d => 134217755 + b.toNat * 524288 + a.toNat * 8192 + d.toNat * 128
  | .kshr b a d => 167772187 + b.toNat * 524288 + a.toNat * 8192 + d.toNat * 128
  | .ksra b a d => 201326619 + b.toNat * 524288 + a.toNat * 8192 + d.toNat * 128
  | .krot b a d => 234881051 + b.toNat * 524288 + a.toNat * 8192 + d.toNat * 128
  | .kaddi i a d => 29 + i.toNat * 524288 + a.toNat * 8192 + d.toNat * 128
  | .kmovi i d => 2147483677 + i.toNat * 524288 + d.toNat * 128
  | .kbfe m b a d => 31 + m.toNat * 1073741824 + b.toNat * 524288 + a.toNat * 8192 + d.toNat * 128
  | .kbfi b a d => 33554463 + b.toNat * 524288 + a.toNat * 8192 + d.toNat * 128
  | .kpopc a d => 67108895 + a.toNat * 8192 + d.toNat * 128
  | .kclz a d => 100663327 + a.toNat * 8192 + d.toNat * 128
  | .kbrev a d => 134217759 + a.toNat * 8192 + d.toNat * 128
  | .knot a d => 167772191 + a.toNat * 8192 + d.toNat * 128
  | .kabs a d => 201326623 + a.toNat * 8192 + d.toNat * 128
  | .kmov a d => 234881055 + a.toNat * 8192 + d.toNat * 128
  | .fadd m y x b a d => 33 + m.toNat * 1073741824 + y.toNat * 536870912 + x.toNat * 268435456 + b.toNat * 524288 + a.toNat * 8192 + d.toNat * 128
  | .fsub m y x b a d => 33554465 + m.toNat * 1073741824 + y.toNat * 536870912 + x.toNat * 268435456 + b.toNat * 524288 + a.toNat * 8192 + d.toNat * 128
  | .fmul m y x b a d => 67108897 + m.toNat * 1073741824 + y.toNat * 536870912 + x.toNat * 268435456 + b.toNat * 524288 + a.toNat * 8192 + d.toNat * 128
  | .fma m y x b a d => 100663329 + m.toNat * 1073741824 + y.toNat * 536870912 + x.toNat * 268435456 + b.toNat * 524288 + a.toNat * 8192 + d.toNat * 128
  | .fmin y x b a d => 134217761 + y.toNat * 536870912 + x.toNat * 268435456 + b.toNat * 524288 + a.toNat * 8192 + d.toNat * 128
  | .fmax y x b a d => 167772193 + y.toNat * 536870912 + x.toNat * 268435456 + b.toNat * 524288 + a.toNat * 8192 + d.toNat * 128
  | .faddBf16x2 m y x b a d => 35 + m.toNat * 1073741824 + y.toNat * 536870912 + x.toNat * 268435456 + b.toNat * 524288 + a.toNat * 8192 + d.toNat * 128
  | .fmulBf16x2 m y x b a d => 33554467 + m.toNat * 1073741824 + y.toNat * 536870912 + x.toNat * 268435456 + b.toNat * 524288 + a.toNat * 8192 + d.toNat * 128
  | .fmaBf16x2 m y x b a d => 67108899 + m.toNat * 1073741824 + y.toNat * 536870912 + x.toNat * 268435456 + b.toNat * 524288 + a.toNat * 8192 + d.toNat * 128
  | .fminBf16x2 y x b a d => 100663331 + y.toNat * 536870912 + x.toNat * 268435456 + b.toNat * 524288 + a.toNat * 8192 + d.toNat * 128
  | .fmaxBf16x2 y x b a d => 134217763 + y.toNat * 536870912 + x.toNat * 268435456 + b.toNat * 524288 + a.toNat * 8192 + d.toNat * 128
  | .faddF16x2 m y x b a d => 37 + m.toNat * 1073741824 + y.toNat * 536870912 + x.toNat * 268435456 + b.toNat * 524288 + a.toNat * 8192 + d.toNat * 128
  | .fmulF16x2 m y x b a d => 33554469 + m.toNat * 1073741824 + y.toNat * 536870912 + x.toNat * 268435456 + b.toNat * 524288 + a.toNat * 8192 + d.toNat * 128
  | .fmaF16x2 m y x b a d => 67108901 + m.toNat * 1073741824 + y.toNat * 536870912 + x.toNat * 268435456 + b.toNat * 524288 + a.toNat * 8192 + d.toNat * 128
  | .fminF16x2 y x b a d => 100663333 + y.toNat * 536870912 + x.toNat * 268435456 + b.toNat * 524288 + a.toNat * 8192 + d.toNat * 128
  | .fmaxF16x2 y x b a d => 134217765 + y.toNat * 536870912 + x.toNat * 268435456 + b.toNat * 524288 + a.toNat * 8192 + d.toNat * 128
  | .rcp x a d => 39 + x.toNat * 268435456 + a.toNat * 8192 + d.toNat * 128
  | .rsqrt x a d => 33554471 + x.toNat * 268435456 + a.toNat * 8192 + d.toNat * 128
  | .exp2 x a d => 67108903 + x.toNat * 268435456 + a.toNat * 8192 + d.toNat * 128
  | .log2 x a d => 100663335 + x.toNat * 268435456 + a.toNat * 8192 + d.toNat * 128
  | .cvt m x s t a d => 41 + m.toNat * 1073741824 + x.toNat * 268435456 + s.toNat * 33554432 + t.toNat * 524288 + a.toNat * 8192 + d.toNat * 128
  | .cmpEq m y x b a p => 49 + m.toNat * 1073741824 + y.toNat * 536870912 + x.toNat * 268435456 + b.toNat * 524288 + a.toNat * 8192 + p.toNat * 128
  | .cmpNe m y x b a p => 33554481 + m.toNat * 1073741824 + y.toNat * 536870912 + x.toNat * 268435456 + b.toNat * 524288 + a.toNat * 8192 + p.toNat * 128
  | .cmpLt m y x b a p => 67108913 + m.toNat * 1073741824 + y.toNat * 536870912 + x.toNat * 268435456 + b.toNat * 524288 + a.toNat * 8192 + p.toNat * 128
  | .cmpLe m y x b a p => 100663345 + m.toNat * 1073741824 + y.toNat * 536870912 + x.toNat * 268435456 + b.toNat * 524288 + a.toNat * 8192 + p.toNat * 128
  | .cmpGt m y x b a p => 134217777 + m.toNat * 1073741824 + y.toNat * 536870912 + x.toNat * 268435456 + b.toNat * 524288 + a.toNat * 8192 + p.toNat * 128
  | .cmpGe m y x b a p => 167772209 + m.toNat * 1073741824 + y.toNat * 536870912 + x.toNat * 268435456 + b.toNat * 524288 + a.toNat * 8192 + p.toNat * 128
  | .pand b a d => 51 + b.toNat * 524288 + a.toNat * 8192 + d.toNat * 128
  | .por b a d => 33554483 + b.toNat * 524288 + a.toNat * 8192 + d.toNat * 128
  | .pxor b a d => 67108915 + b.toNat * 524288 + a.toNat * 8192 + d.toNat * 128
  | .pnot a d => 100663347 + a.toNat * 8192 + d.toNat * 128
  | .sel n y x p b a d => 53 + n.toNat * 1073741824 + y.toNat * 536870912 + x.toNat * 268435456 + p.toNat * 33554432 + b.toNat * 524288 + a.toNat * 8192 + d.toNat * 128
  | .mov y b d => 55 + y.toNat * 536870912 + b.toNat * 524288 + d.toNat * 128
  | .movk a d => 33554487 + a.toNat * 8192 + d.toNat * 128
  | .sreg s d => 67108919 + s.toNat * 8192 + d.toNat * 128
  | .shflIdx y x b a d => 57 + y.toNat * 536870912 + x.toNat * 268435456 + b.toNat * 524288 + a.toNat * 8192 + d.toNat * 128
  | .shflUp y x b a d => 33554489 + y.toNat * 536870912 + x.toNat * 268435456 + b.toNat * 524288 + a.toNat * 8192 + d.toNat * 128
  | .shflDown y x b a d => 67108921 + y.toNat * 536870912 + x.toNat * 268435456 + b.toNat * 524288 + a.toNat * 8192 + d.toNat * 128
  | .shflXor y x b a d => 100663353 + y.toNat * 536870912 + x.toNat * 268435456 + b.toNat * 524288 + a.toNat * 8192 + d.toNat * 128
  | .xg y x b a d => 134217785 + y.toNat * 536870912 + x.toNat * 268435456 + b.toNat * 524288 + a.toNat * 65536 + d.toNat * 128
  | .permB h x q a d => 167772217 + h.toNat * 1073741824 + x.toNat * 268435456 + q.toNat * 2097152 + a.toNat * 8192 + d.toNat * 128
  | .voteAny a d => 59 + a.toNat * 8192 + d.toNat * 128
  | .voteAll a d => 33554491 + a.toNat * 8192 + d.toNat * 128
  | .voteBallot a d => 67108923 + a.toNat * 8192 + d.toNat * 128
  | .gredAdd m x a d => 61 + m.toNat * 1073741824 + x.toNat * 268435456 + a.toNat * 8192 + d.toNat * 128
  | .gredMin m x a d => 33554493 + m.toNat * 1073741824 + x.toNat * 268435456 + a.toNat * 8192 + d.toNat * 128
  | .gredMax m x a d => 67108925 + m.toNat * 1073741824 + x.toNat * 268435456 + a.toNat * 8192 + d.toNat * 128
  | .gscanAdd m x a d => 100663357 + m.toNat * 1073741824 + x.toNat * 268435456 + a.toNat * 8192 + d.toNat * 128
  | .rbal x b a d => 63 + x.toNat * 268435456 + b.toNat * 524288 + a.toNat * 8192 + d.toNat * 256
  | .ld m r l s i k d => 65 + m.toNat * 2147483648 + r.toNat * 1073741824 + l.toNat * 67108864 + s.toNat * 16777216 + i.toNat * 262144 + k.toNat * 16384 + d.toNat * 128
  | .st r l s i k d => 67 + r.toNat * 1073741824 + l.toNat * 67108864 + s.toNat * 16777216 + i.toNat * 262144 + k.toNat * 16384 + d.toNat * 128
  | .ldQ r l i k d => 69 + r.toNat * 1073741824 + l.toNat * 67108864 + i.toNat * 262144 + k.toNat * 16384 + d.toNat * 512
  | .stQ r l i k d => 2147483717 + r.toNat * 1073741824 + l.toNat * 67108864 + i.toNat * 262144 + k.toNat * 16384 + d.toNat * 512
  | .ldRo m r l s i k d => 71 + m.toNat * 2147483648 + r.toNat * 1073741824 + l.toNat * 67108864 + s.toNat * 16777216 + i.toNat * 262144 + k.toNat * 16384 + d.toNat * 128
  | .ldk l s k d => 50069577 + l.toNat * 67108864 + s.toNat * 16777216 + k.toNat * 16384 + d.toNat * 128
  | .ldl l s k d => 2163998793 + l.toNat * 67108864 + s.toNat * 16777216 + k.toNat * 16384 + d.toNat * 128
  | .lds r l s i k d => 75 + r.toNat * 1073741824 + l.toNat * 67108864 + s.toNat * 16777216 + i.toNat * 262144 + k.toNat * 8192 + d.toNat * 128
  | .sts r l s i k d => 2147483723 + r.toNat * 1073741824 + l.toNat * 67108864 + s.toNat * 16777216 + i.toNat * 262144 + k.toNat * 8192 + d.toNat * 128
  | .ldsd r l s i k d => 77 + r.toNat * 1073741824 + l.toNat * 67108864 + s.toNat * 16777216 + i.toNat * 262144 + k.toNat * 8192 + d.toNat * 128
  | .stsd r l s i k d => 2147483725 + r.toNat * 1073741824 + l.toNat * 67108864 + s.toNat * 16777216 + i.toNat * 262144 + k.toNat * 8192 + d.toNat * 128
  | .pf r l i k => 79 + r.toNat * 1073741824 + l.toNat * 67108864 + i.toNat * 262144 + k.toNat * 16384
  | .mwait l k d => 2214330447 + l.toNat * 67108864 + k.toNat * 16384 + d.toNat * 256
  | .atomAdd m y x b a d => 81 + m.toNat * 1073741824 + y.toNat * 536870912 + x.toNat * 268435456 + b.toNat * 524288 + a.toNat * 16384 + d.toNat * 128
  | .atomMin m y x b a d => 33554513 + m.toNat * 1073741824 + y.toNat * 536870912 + x.toNat * 268435456 + b.toNat * 524288 + a.toNat * 16384 + d.toNat * 128
  | .atomMax m y x b a d => 67108945 + m.toNat * 1073741824 + y.toNat * 536870912 + x.toNat * 268435456 + b.toNat * 524288 + a.toNat * 16384 + d.toNat * 128
  | .atomAnd m y x b a d => 100663377 + m.toNat * 1073741824 + y.toNat * 536870912 + x.toNat * 268435456 + b.toNat * 524288 + a.toNat * 16384 + d.toNat * 128
  | .atomOr m y x b a d => 134217809 + m.toNat * 1073741824 + y.toNat * 536870912 + x.toNat * 268435456 + b.toNat * 524288 + a.toNat * 16384 + d.toNat * 128
  | .atomXor m y x b a d => 167772241 + m.toNat * 1073741824 + y.toNat * 536870912 + x.toNat * 268435456 + b.toNat * 524288 + a.toNat * 16384 + d.toNat * 128
  | .atomExch m y x b a d => 201326673 + m.toNat * 1073741824 + y.toNat * 536870912 + x.toNat * 268435456 + b.toNat * 524288 + a.toNat * 16384 + d.toNat * 128
  | .atomCas m y x b a d => 234881105 + m.toNat * 1073741824 + y.toNat * 536870912 + x.toNat * 268435456 + b.toNat * 524288 + a.toNat * 16384 + d.toNat * 128
  | .redAdd m y x b a => 83 + m.toNat * 1073741824 + y.toNat * 536870912 + x.toNat * 268435456 + b.toNat * 524288 + a.toNat * 16384
  | .redMin m y x b a => 33554515 + m.toNat * 1073741824 + y.toNat * 536870912 + x.toNat * 268435456 + b.toNat * 524288 + a.toNat * 16384
  | .redMax m y x b a => 67108947 + m.toNat * 1073741824 + y.toNat * 536870912 + x.toNat * 268435456 + b.toNat * 524288 + a.toNat * 16384
  | .redAnd m y x b a => 100663379 + m.toNat * 1073741824 + y.toNat * 536870912 + x.toNat * 268435456 + b.toNat * 524288 + a.toNat * 16384
  | .redOr m y x b a => 134217811 + m.toNat * 1073741824 + y.toNat * 536870912 + x.toNat * 268435456 + b.toNat * 524288 + a.toNat * 16384
  | .redXor m y x b a => 167772243 + m.toNat * 1073741824 + y.toNat * 536870912 + x.toNat * 268435456 + b.toNat * 524288 + a.toNat * 16384
  | .bupdAdd m y x b a => 85 + m.toNat * 1073741824 + y.toNat * 536870912 + x.toNat * 268435456 + b.toNat * 524288 + a.toNat * 16384
  | .bupdMin m y x b a => 33554517 + m.toNat * 1073741824 + y.toNat * 536870912 + x.toNat * 268435456 + b.toNat * 524288 + a.toNat * 16384
  | .bupdMax m y x b a => 67108949 + m.toNat * 1073741824 + y.toNat * 536870912 + x.toNat * 268435456 + b.toNat * 524288 + a.toNat * 16384
  | .bredAdd m y x b a => 100663381 + m.toNat * 1073741824 + y.toNat * 536870912 + x.toNat * 268435456 + b.toNat * 524288 + a.toNat * 16384
  | .bredMin m y x b a => 134217813 + m.toNat * 1073741824 + y.toNat * 536870912 + x.toNat * 268435456 + b.toNat * 524288 + a.toNat * 16384
  | .bredMax m y x b a => 167772245 + m.toNat * 1073741824 + y.toNat * 536870912 + x.toNat * 268435456 + b.toNat * 524288 + a.toNat * 16384
  | .fence s => 87 + s.toNat * 8192
  | .fenceAcq s => 1073741911 + s.toNat * 8192
  | .fenceRel s => 2147483735 + s.toNat * 8192
  | .tfence s => 33554519 + s.toNat * 8192
  | .binit w b a => 89 + w.toNat * 1073741824 + b.toNat * 524288 + a.toNat * 8192
  | .barv w a d => 33554521 + w.toNat * 1073741824 + a.toNat * 8192 + d.toNat * 128
  | .bexp w b a => 67108953 + w.toNat * 1073741824 + b.toNat * 524288 + a.toNat * 8192
  | .btest w b a d => 100663385 + w.toNat * 1073741824 + b.toNat * 524288 + a.toNat * 8192 + d.toNat * 128
  | .bwait w b a => 134217817 + w.toNat * 1073741824 + b.toNat * 524288 + a.toNat * 8192
  | .binval w a => 167772249 + w.toNat * 1073741824 + a.toNat * 8192
  | .tsync => 91
  | .clsync => 33554523
  | .hld r l i k h => 50331741 + r.toNat * 1073741824 + l.toNat * 67108864 + i.toNat * 262144 + k.toNat * 16384 + h.toNat * 128
  | .hst r l i k h => 2197815389 + r.toNat * 1073741824 + l.toNat * 67108864 + i.toNat * 262144 + k.toNat * 16384 + h.toNat * 128
  | .ldh m y b h d => 95 + m.toNat * 1073741824 + y.toNat * 536870912 + b.toNat * 524288 + h.toNat * 8192 + d.toNat * 128
  | .sth m y x b a h => 33554527 + m.toNat * 1073741824 + y.toNat * 536870912 + x.toNat * 268435456 + b.toNat * 524288 + a.toNat * 8192 + h.toNat * 128
  | .hnew y x b a h => 67108959 + y.toNat * 536870912 + x.toNat * 268435456 + b.toNat * 524288 + a.toNat * 8192 + h.toNat * 128
  | .hfree h => 100663391 + h.toNat * 128
  | .hpin h d => 134217823 + h.toNat * 8192 + d.toNat * 256
  | .hunpin h => 167772255 + h.toNat * 128
  | .heq g h p => 201326687 + g.toNat * 524288 + h.toNat * 8192 + p.toNat * 128
  | .htag h d => 234881119 + h.toNat * 8192 + d.toNat * 128
  | .qla l u f n a => 97 + l.toNat * 268435456 + u.toNat * 8388608 + f.toNat * 524288 + n.toNat * 65536 + a.toNat * 1024
  | .qzero l v t n q d => 225 + l.toNat * 268435456 + v.toNat * 16777216 + t.toNat * 4194304 + n.toNat * 131072 + q.toNat * 8192 + d.toNat * 1024
  | .qrd l i n c r d => 353 + l.toNat * 268435456 + i.toNat * 8388608 + n.toNat * 2097152 + c.toNat * 524288 + r.toNat * 8192 + d.toNat * 1024
  | .qwr l t n c r d => 481 + l.toNat * 268435456 + t.toNat * 8388608 + n.toNat * 2097152 + c.toNat * 524288 + r.toNat * 8192 + d.toNat * 1024
  | .qrel l q d => 609 + l.toNat * 268435456 + q.toNat * 8192 + d.toNat * 1024
  | .qmm l z s k f q d => 99 + l.toNat * 268435456 + z.toNat * 16777216 + s.toNat * 8388608 + k.toNat * 2097152 + f.toNat * 131072 + q.toNat * 8192 + d.toNat * 1024
  | .qmmg l z c f q d => 101 + l.toNat * 268435456 + z.toNat * 134217728 + c.toNat * 4194304 + f.toNat * 131072 + q.toNat * 8192 + d.toNat * 1024
  | .qdist l z s k f q d => 103 + l.toNat * 268435456 + z.toNat * 16777216 + s.toNat * 8388608 + k.toNat * 2097152 + f.toNat * 131072 + q.toNat * 8192 + d.toNat * 1024
  | .qtopk l k q s d => 231 + l.toNat * 268435456 + k.toNat * 1048576 + q.toNat * 65536 + s.toNat * 8192 + d.toNat * 1024
  | .qatt l h q s e k => 105 + l.toNat * 268435456 + h.toNat * 16777216 + q.toNat * 1048576 + s.toNat * 131072 + e.toNat * 65536 + k.toNat * 16384
  | .qatf l h q s e k => 233 + l.toNat * 268435456 + h.toNat * 16777216 + q.toNat * 1048576 + s.toNat * 131072 + e.toNat * 65536 + k.toNat * 16384
  | .qsel l h q s e k => 361 + l.toNat * 268435456 + h.toNat * 16777216 + q.toNat * 1048576 + s.toNat * 131072 + e.toNat * 65536 + k.toNat * 16384
  | .mxq l f d s t k => 107 + l.toNat * 268435456 + f.toNat * 33554432 + d.toNat * 16777216 + s.toNat * 8388608 + t.toNat * 4194304 + k.toNat * 1024
  | .mxd l f d s t k => 235 + l.toNat * 268435456 + f.toNat * 33554432 + d.toNat * 16777216 + s.toNat * 8388608 + t.toNat * 4194304 + k.toNat * 1024
  | .mload l k s => 109 + l.toNat * 268435456 + k.toNat * 16384 + s.toNat * 1024
  | .mfree l s => 237 + l.toNat * 268435456 + s.toNat * 1024
  | .mclass l q d s => 365 + l.toNat * 268435456 + q.toNat * 262144 + d.toNat * 8192 + s.toNat * 1024
  | .mstat l d s => 493 + l.toNat * 268435456 + d.toNat * 16384 + s.toNat * 1024
  | .kvnew l q d => 111 + l.toNat * 268435456 + q.toNat * 262144 + d.toNat * 8192
  | .kvseal l q d => 239 + l.toNat * 268435456 + q.toNat * 262144 + d.toNat * 8192
  | .kvdem l q d => 367 + l.toNat * 268435456 + q.toNat * 262144 + d.toNat * 8192
  | .kvdemInv l q d => 1391 + l.toNat * 268435456 + q.toNat * 262144 + d.toNat * 8192
  | .kvcold l q d => 495 + l.toNat * 268435456 + q.toNat * 262144 + d.toNat * 8192
  | .kvq l q d s => 623 + l.toNat * 268435456 + q.toNat * 262144 + d.toNat * 16384 + s.toNat * 1024
  | .kvpolReg l q d => 751 + l.toNat * 268435456 + q.toNat * 262144 + d.toNat * 8192
  | .kvpolSweep l q d => 1775 + l.toNat * 268435456 + q.toNat * 262144 + d.toNat * 8192
  | .kvpolUnreg l q d => 2799 + l.toNat * 268435456 + q.toNat * 262144 + d.toNat * 8192
  | .kvpolSet l q d => 3823 + l.toNat * 268435456 + q.toNat * 262144 + d.toNat * 8192
  | .cpy l k t b d s q => 113 + l.toNat * 268435456 + k.toNat * 262144 + t.toNat * 131072 + b.toNat * 65536 + d.toNat * 32768 + s.toNat * 16384 + q.toNat * 1024
  | .cpy2d l k t b d s q => 241 + l.toNat * 268435456 + k.toNat * 262144 + t.toNat * 131072 + b.toNat * 65536 + d.toNat * 32768 + s.toNat * 16384 + q.toNat * 1024
  | .cpym l k t b s q => 33137 + l.toNat * 268435456 + k.toNat * 262144 + t.toNat * 131072 + b.toNat * 65536 + s.toNat * 16384 + q.toNat * 1024
  | .cpyc l k t a c => 115 + l.toNat * 268435456 + k.toNat * 262144 + t.toNat * 131072 + a.toNat * 8192 + c.toNat * 1024
  | .cpyst l d c => 243 + l.toNat * 268435456 + d.toNat * 8192 + c.toNat * 1024
  | .cpyx l c => 371 + l.toNat * 268435456 + c.toNat * 1024
  | .lld l d a p z => 117 + l.toNat * 268435456 + d.toNat * 4194304 + a.toNat * 131072 + p.toNat * 4096 + z.toNat * 1024
  | .lgat l d a p q n => 245 + l.toNat * 268435456 + d.toNat * 33554432 + a.toNat * 1048576 + p.toNat * 32768 + q.toNat * 8192 + n.toNat * 4096
  | .lwr l p q s t r k => 373 + l.toNat * 268435456 + p.toNat * 16777216 + q.toNat * 4194304 + s.toNat * 2097152 + t.toNat * 1048576 + r.toNat * 524288 + k.toNat * 65536
  | .lred l p q s t r k y => 501 + l.toNat * 268435456 + p.toNat * 16777216 + q.toNat * 4194304 + s.toNat * 2097152 + t.toNat * 1048576 + r.toNat * 524288 + k.toNat * 65536 + y.toNat * 16384
  | .mxr l f q t k => 629 + l.toNat * 268435456 + f.toNat * 33554432 + q.toNat * 4194304 + t.toNat * 1048576 + k.toNat * 65536
  | .dlaunch l d a b => 119 + l.toNat * 268435456 + d.toNat * 1048576 + a.toNat * 65536 + b.toNat * 1024
  | .qsig l b => 247 + l.toNat * 268435456 + b.toNat * 1024
  | .bra o h n p => 121 + o.toNat * 8192 + h.toNat * 2048 + n.toNat * 1024 + p.toNat * 128
  | .call o => 123 + o.toNat * 8192
  | .trap n => 125 + n.toNat * 8192
  | .snap => 33554557
  | .csrr s d => 67108989 + s.toNat * 8192 + d.toNat * 128
  | .clock d => 100663421 + d.toNat * 256
  | .jmp x a => 134217853 + x.toNat * 268435456 + a.toNat * 16384
  | .callIndirect x a => 167772285 + x.toNat * 268435456 + a.toNat * 16384
  | .extImm p => 127 + p.toNat * 512
  | .extReg p => 255 + p.toNat * 512
  | .mov16 b d => 0 + b.toNat * 2048 + d.toNat * 64
  | .add16 b d => 4 + b.toNat * 2048 + d.toNat * 64
  | .sub16 b d => 8 + b.toNat * 2048 + d.toNat * 64
  | .mul16 b d => 12 + b.toNat * 2048 + d.toNat * 64
  | .and16 b d => 16 + b.toNat * 2048 + d.toNat * 64
  | .or16 b d => 20 + b.toNat * 2048 + d.toNat * 64
  | .xor16 b d => 24 + b.toNat * 2048 + d.toNat * 64
  | .andn16 b d => 28 + b.toNat * 2048 + d.toNat * 64
  | .shl16 b d => 32 + b.toNat * 2048 + d.toNat * 64
  | .shr16 b d => 36 + b.toNat * 2048 + d.toNat * 64
  | .sra16 b d => 40 + b.toNat * 2048 + d.toNat * 64
  | .min16 b d => 44 + b.toNat * 2048 + d.toNat * 64
  | .max16 b d => 48 + b.toNat * 2048 + d.toNat * 64
  | .fadd16 b d => 52 + b.toNat * 2048 + d.toNat * 64
  | .fmul16 b d => 56 + b.toNat * 2048 + d.toNat * 64
  | .fmax16 b d => 60 + b.toNat * 2048 + d.toNat * 64
  | .nop => 2
  | .join => 6
  | .yield => 10
  | .exit => 14
  | .ret => 18
  | .guard n p => 22 + n.toNat * 512 + p.toNat * 64
  | .illegalInstruction | .faultRecordWrite .. | .trapRecordWrite .. | .teamFillComplete .. | .drainComplete .. | .contextSaveComplete ..
  | .activeSetExchange .. | .joinWaitTimeout .. | .mwaitReread .. | .barrierDecrement .. | .updateOnlyTimeout .. | .migrationPrecopyDone ..
  | .migrationRecopyDone .. | .migrationFlip .. | .migrationInvalAck .. | .migrationHoldTimeout .. | .hostWrite .. | .hostRead ..
  | .passGrant .. | .fusionWaitExpiry .. | .passCommit .. | .attentionComplete .. | .conversionComplete .. | .objectFree ..
  | .sweepIntervalStart .. | .sweepRequestStart .. | .sweepVisit .. | .coldMoveCopyDone .. | .sweepComplete .. | .directoryTakeup ..
  | .directoryBusyTimeout .. | .writeCombineTimeout .. | .relocAutoStart .. | .relocCopyDone .. | .relocRecopyDone .. | .relocFlip ..
  | .relocFinalTimeout .. | .relocAck .. | .healPassComplete .. | .copyOperationComplete .. | .multicastDelivery .. | .chainRecordFetch ..
  | .chainWaitTimeout .. | .chainRecordComplete .. | .flitArrival .. | .peerRequest .. | .portFailure .. | .linkRetryTimeout ..
  | .linkOperationComplete .. | .mxrTimeout .. | .doorbell .. | .launchRecordRead .. | .dependenceReread .. | .teamPlacement ..
  | .gangPlacement .. | .waitingLevelAge .. | .gangFirstAge .. | .gangSecondAge .. | .timeSliceExpiry .. | .noRoomEviction ..
  | .gridComplete .. | .ident .. | .claim .. | .handover .. | .attest .. | .loadimg ..
  | .reset .. | .qcreate .. | .qstop .. | .qstopDestroy .. | .queueDestroyComplete .. | .asgen ..
  | .invpage .. | .grantref .. | .faultansRetry .. | .faultansKill .. | .resumeSkip .. | .resumeRetry ..
  | .resumeEnd .. | .preempt .. | .framerel .. | .heapbind .. | .heapbindUnbind .. | .reloc ..
  | .migrate .. | .peerbind .. | .route .. | .qread .. | .snapcfg .. | .snaptrig ..
  | .snapread .. | .snaprel .. | .relrep .. | .retire .. | .pwrcap .. | .therm ..
  | .unknownCommand .. | .registerWrite .. | .snapshotLatch | .ownershipLapse | .handoverTimeout | .powerOn ..
  | .coreFailure .. | .hbmChannelFailure .. | .linkLaneFault .. | .thermalLimit .. | .thermalShutdown | .powerDown
  | .pcieLinkDown | .pcieLinkUp => 0

/-- The bytes of an instruction, lowest address first (00 R8). -/
def encode (i : Instr) : List Byte := bytesOf (wordBits i / 8) (encodeWord i)

end Sys2Proof
end

