-- ==== Sys2Proof/Machine/Legal.lean ====
section
/-! DEFINITION. Which decoded parts stand in a legal unit (02 R53, R54, R58, R59, R63, R64, R66 to R69), and the registers that a form names. -/

namespace Sys2Proof

/-- Register classes that units name (02 R62). -/
inductive RegClass where
  | lane | uni | pred | ref
  deriving DecidableEq, Repr

/-- A register operand: class, first register, number of registers. -/
structure Opnd where
  cls : RegClass
  reg : Nat
  width : Nat
  deriving DecidableEq, Repr

/-- Registers of a lane value by size code: one, or a pair under `.d` (02 R62, R67). -/
def wordsOf (size : Nat) : Nat := if size = 3 then 2 else 1

/-- Registers of a `qla` window (09 R279): data registers, then scale registers for an MX format. -/
def laWindow (fmt n : Nat) : Nat :=
  match qfmtOf fmt with
  | some f => (n + 1) * f.bits + (if f.isMx then (n + 1 + 3) / 4 else 0)
  | none => 0

/-- The registers that a form names, sources and destinations alike (02 R63 and the owning chapters). -/
def operands : Instr → List Opnd
  | .add _ _ _ b a d => [⟨.lane, b.toNat, 1⟩, ⟨.lane, a.toNat, 1⟩, ⟨.lane, d.toNat, 1⟩]
  | .sub _ _ _ b a d => [⟨.lane, b.toNat, 1⟩, ⟨.lane, a.toNat, 1⟩, ⟨.lane, d.toNat, 1⟩]
  | .mulLo _ _ b a d => [⟨.lane, b.toNat, 1⟩, ⟨.lane, a.toNat, 1⟩, ⟨.lane, d.toNat, 1⟩]
  | .mulHi _ _ _ b a d => [⟨.lane, b.toNat, 1⟩, ⟨.lane, a.toNat, 1⟩, ⟨.lane, d.toNat, 1⟩]
  | .madLo _ _ b a d => [⟨.lane, b.toNat, 1⟩, ⟨.lane, a.toNat, 1⟩, ⟨.lane, d.toNat, 1⟩]
  | .adda _ _ b a d => [⟨.lane, (b.toNat * 2), 2⟩, ⟨.lane, (a.toNat * 2), 2⟩, ⟨.lane, (d.toNat * 2), 2⟩]
  | .min _ _ _ b a d => [⟨.lane, b.toNat, 1⟩, ⟨.lane, a.toNat, 1⟩, ⟨.lane, d.toNat, 1⟩]
  | .max _ _ _ b a d => [⟨.lane, b.toNat, 1⟩, ⟨.lane, a.toNat, 1⟩, ⟨.lane, d.toNat, 1⟩]
  | .and _ _ b a d => [⟨.lane, b.toNat, 1⟩, ⟨.lane, a.toNat, 1⟩, ⟨.lane, d.toNat, 1⟩]
  | .or _ _ b a d => [⟨.lane, b.toNat, 1⟩, ⟨.lane, a.toNat, 1⟩, ⟨.lane, d.toNat, 1⟩]
  | .xor _ _ b a d => [⟨.lane, b.toNat, 1⟩, ⟨.lane, a.toNat, 1⟩, ⟨.lane, d.toNat, 1⟩]
  | .andn _ _ b a d => [⟨.lane, b.toNat, 1⟩, ⟨.lane, a.toNat, 1⟩, ⟨.lane, d.toNat, 1⟩]
  | .shl _ _ b a d => [⟨.lane, b.toNat, 1⟩, ⟨.lane, a.toNat, 1⟩, ⟨.lane, d.toNat, 1⟩]
  | .shr _ _ b a d => [⟨.lane, b.toNat, 1⟩, ⟨.lane, a.toNat, 1⟩, ⟨.lane, d.toNat, 1⟩]
  | .sra _ _ b a d => [⟨.lane, b.toNat, 1⟩, ⟨.lane, a.toNat, 1⟩, ⟨.lane, d.toNat, 1⟩]
  | .rot _ _ b a d => [⟨.lane, b.toNat, 1⟩, ⟨.lane, a.toNat, 1⟩, ⟨.lane, d.toNat, 1⟩]
  | .bfe _ _ _ b a d => [⟨.lane, b.toNat, 1⟩, ⟨.lane, a.toNat, 1⟩, ⟨.lane, d.toNat, 1⟩]
  | .bfi _ _ b a d => [⟨.lane, b.toNat, 1⟩, ⟨.lane, a.toNat, 1⟩, ⟨.lane, d.toNat, 1⟩]
  | .popc _ a d => [⟨.lane, a.toNat, 1⟩, ⟨.lane, d.toNat, 1⟩]
  | .popcLt _ _ b a d => [⟨.lane, b.toNat, 1⟩, ⟨.lane, a.toNat, 1⟩, ⟨.lane, d.toNat, 1⟩]
  | .clz _ a d => [⟨.lane, a.toNat, 1⟩, ⟨.lane, d.toNat, 1⟩]
  | .brev _ a d => [⟨.lane, a.toNat, 1⟩, ⟨.lane, d.toNat, 1⟩]
  | .abs _ a d => [⟨.lane, a.toNat, 1⟩, ⟨.lane, d.toNat, 1⟩]
  | .not _ a d => [⟨.lane, a.toNat, 1⟩, ⟨.lane, d.toNat, 1⟩]
  | .dot4I8 _ _ _ b a d => [⟨.lane, b.toNat, 1⟩, ⟨.lane, a.toNat, 1⟩, ⟨.lane, d.toNat, 1⟩]
  | .addi _ _ _ a d => [⟨.lane, a.toNat, 1⟩, ⟨.lane, d.toNat, 1⟩]
  | .andi _ _ a d => [⟨.lane, a.toNat, 1⟩, ⟨.lane, d.toNat, 1⟩]
  | .ori _ _ a d => [⟨.lane, a.toNat, 1⟩, ⟨.lane, d.toNat, 1⟩]
  | .xori _ _ a d => [⟨.lane, a.toNat, 1⟩, ⟨.lane, d.toNat, 1⟩]
  | .shli _ _ a d => [⟨.lane, a.toNat, 1⟩, ⟨.lane, d.toNat, 1⟩]
  | .shri _ _ a d => [⟨.lane, a.toNat, 1⟩, ⟨.lane, d.toNat, 1⟩]
  | .srai _ _ a d => [⟨.lane, a.toNat, 1⟩, ⟨.lane, d.toNat, 1⟩]
  | .roti _ _ a d => [⟨.lane, a.toNat, 1⟩, ⟨.lane, d.toNat, 1⟩]
  | .movi _ d => [⟨.lane, d.toNat, 1⟩]
  | .mini _ _ _ a d => [⟨.lane, a.toNat, 1⟩, ⟨.lane, d.toNat, 1⟩]
  | .maxi _ _ _ a d => [⟨.lane, a.toNat, 1⟩, ⟨.lane, d.toNat, 1⟩]
  | .kadd _ b a d => [⟨.uni, b.toNat, 1⟩, ⟨.uni, a.toNat, 1⟩, ⟨.uni, d.toNat, 1⟩]
  | .ksub _ b a d => [⟨.uni, b.toNat, 1⟩, ⟨.uni, a.toNat, 1⟩, ⟨.uni, d.toNat, 1⟩]
  | .kmulLo b a d => [⟨.uni, b.toNat, 1⟩, ⟨.uni, a.toNat, 1⟩, ⟨.uni, d.toNat, 1⟩]
  | .kmulHi _ b a d => [⟨.uni, b.toNat, 1⟩, ⟨.uni, a.toNat, 1⟩, ⟨.uni, d.toNat, 1⟩]
  | .kmadLo b a d => [⟨.uni, b.toNat, 1⟩, ⟨.uni, a.toNat, 1⟩, ⟨.uni, d.toNat, 1⟩]
  | .kadda b a d => [⟨.uni, (b.toNat * 2), 2⟩, ⟨.uni, (a.toNat * 2), 2⟩, ⟨.uni, (d.toNat * 2), 2⟩]
  | .kmin _ b a d => [⟨.uni, b.toNat, 1⟩, ⟨.uni, a.toNat, 1⟩, ⟨.uni, d.toNat, 1⟩]
  | .kmax _ b a d => [⟨.uni, b.toNat, 1⟩, ⟨.uni, a.toNat, 1⟩, ⟨.uni, d.toNat, 1⟩]
  | .kand b a d => [⟨.uni, b.toNat, 1⟩, ⟨.uni, a.toNat, 1⟩, ⟨.uni, d.toNat, 1⟩]
  | .kor b a d => [⟨.uni, b.toNat, 1⟩, ⟨.uni, a.toNat, 1⟩, ⟨.uni, d.toNat, 1⟩]
  | .kxor b a d => [⟨.uni, b.toNat, 1⟩, ⟨.uni, a.toNat, 1⟩, ⟨.uni, d.toNat, 1⟩]
  | .kandn b a d => [⟨.uni, b.toNat, 1⟩, ⟨.uni, a.toNat, 1⟩, ⟨.uni, d.toNat, 1⟩]
  | .kshl b a d => [⟨.uni, b.toNat, 1⟩, ⟨.uni, a.toNat, 1⟩, ⟨.uni, d.toNat, 1⟩]
  | .kshr b a d => [⟨.uni, b.toNat, 1⟩, ⟨.uni, a.toNat, 1⟩, ⟨.uni, d.toNat, 1⟩]
  | .ksra b a d => [⟨.uni, b.toNat, 1⟩, ⟨.uni, a.toNat, 1⟩, ⟨.uni, d.toNat, 1⟩]
  | .krot b a d => [⟨.uni, b.toNat, 1⟩, ⟨.uni, a.toNat, 1⟩, ⟨.uni, d.toNat, 1⟩]
  | .kaddi _ a d => [⟨.uni, a.toNat, 1⟩, ⟨.uni, d.toNat, 1⟩]
  | .kmovi _ d => [⟨.uni, d.toNat, 1⟩]
  | .kbfe _ b a d => [⟨.uni, b.toNat, 1⟩, ⟨.uni, a.toNat, 1⟩, ⟨.uni, d.toNat, 1⟩]
  | .kbfi b a d => [⟨.uni, b.toNat, 1⟩, ⟨.uni, a.toNat, 1⟩, ⟨.uni, d.toNat, 1⟩]
  | .kpopc a d => [⟨.uni, a.toNat, 1⟩, ⟨.uni, d.toNat, 1⟩]
  | .kclz a d => [⟨.uni, a.toNat, 1⟩, ⟨.uni, d.toNat, 1⟩]
  | .kbrev a d => [⟨.uni, a.toNat, 1⟩, ⟨.uni, d.toNat, 1⟩]
  | .knot a d => [⟨.uni, a.toNat, 1⟩, ⟨.uni, d.toNat, 1⟩]
  | .kabs a d => [⟨.uni, a.toNat, 1⟩, ⟨.uni, d.toNat, 1⟩]
  | .kmov a d => [⟨.uni, a.toNat, 1⟩, ⟨.uni, d.toNat, 1⟩]
  | .fadd _ _ _ b a d => [⟨.lane, b.toNat, 1⟩, ⟨.lane, a.toNat, 1⟩, ⟨.lane, d.toNat, 1⟩]
  | .fsub _ _ _ b a d => [⟨.lane, b.toNat, 1⟩, ⟨.lane, a.toNat, 1⟩, ⟨.lane, d.toNat, 1⟩]
  | .fmul _ _ _ b a d => [⟨.lane, b.toNat, 1⟩, ⟨.lane, a.toNat, 1⟩, ⟨.lane, d.toNat, 1⟩]
  | .fma _ _ _ b a d => [⟨.lane, b.toNat, 1⟩, ⟨.lane, a.toNat, 1⟩, ⟨.lane, d.toNat, 1⟩]
  | .fmin _ _ b a d => [⟨.lane, b.toNat, 1⟩, ⟨.lane, a.toNat, 1⟩, ⟨.lane, d.toNat, 1⟩]
  | .fmax _ _ b a d => [⟨.lane, b.toNat, 1⟩, ⟨.lane, a.toNat, 1⟩, ⟨.lane, d.toNat, 1⟩]
  | .faddBf16x2 _ _ _ b a d => [⟨.lane, b.toNat, 1⟩, ⟨.lane, a.toNat, 1⟩, ⟨.lane, d.toNat, 1⟩]
  | .fmulBf16x2 _ _ _ b a d => [⟨.lane, b.toNat, 1⟩, ⟨.lane, a.toNat, 1⟩, ⟨.lane, d.toNat, 1⟩]
  | .fmaBf16x2 _ _ _ b a d => [⟨.lane, b.toNat, 1⟩, ⟨.lane, a.toNat, 1⟩, ⟨.lane, d.toNat, 1⟩]
  | .fminBf16x2 _ _ b a d => [⟨.lane, b.toNat, 1⟩, ⟨.lane, a.toNat, 1⟩, ⟨.lane, d.toNat, 1⟩]
  | .fmaxBf16x2 _ _ b a d => [⟨.lane, b.toNat, 1⟩, ⟨.lane, a.toNat, 1⟩, ⟨.lane, d.toNat, 1⟩]
  | .faddF16x2 _ _ _ b a d => [⟨.lane, b.toNat, 1⟩, ⟨.lane, a.toNat, 1⟩, ⟨.lane, d.toNat, 1⟩]
  | .fmulF16x2 _ _ _ b a d => [⟨.lane, b.toNat, 1⟩, ⟨.lane, a.toNat, 1⟩, ⟨.lane, d.toNat, 1⟩]
  | .fmaF16x2 _ _ _ b a d => [⟨.lane, b.toNat, 1⟩, ⟨.lane, a.toNat, 1⟩, ⟨.lane, d.toNat, 1⟩]
  | .fminF16x2 _ _ b a d => [⟨.lane, b.toNat, 1⟩, ⟨.lane, a.toNat, 1⟩, ⟨.lane, d.toNat, 1⟩]
  | .fmaxF16x2 _ _ b a d => [⟨.lane, b.toNat, 1⟩, ⟨.lane, a.toNat, 1⟩, ⟨.lane, d.toNat, 1⟩]
  | .rcp _ a d => [⟨.lane, a.toNat, 1⟩, ⟨.lane, d.toNat, 1⟩]
  | .rsqrt _ a d => [⟨.lane, a.toNat, 1⟩, ⟨.lane, d.toNat, 1⟩]
  | .exp2 _ a d => [⟨.lane, a.toNat, 1⟩, ⟨.lane, d.toNat, 1⟩]
  | .log2 _ a d => [⟨.lane, a.toNat, 1⟩, ⟨.lane, d.toNat, 1⟩]
  | .cvt _ _ _ _ a d => [⟨.lane, a.toNat, 1⟩, ⟨.lane, d.toNat, 1⟩]
  | .cmpEq _ _ _ b a p => [⟨.lane, b.toNat, 1⟩, ⟨.lane, a.toNat, 1⟩, ⟨.pred, p.toNat, 1⟩]
  | .cmpNe _ _ _ b a p => [⟨.lane, b.toNat, 1⟩, ⟨.lane, a.toNat, 1⟩, ⟨.pred, p.toNat, 1⟩]
  | .cmpLt _ _ _ b a p => [⟨.lane, b.toNat, 1⟩, ⟨.lane, a.toNat, 1⟩, ⟨.pred, p.toNat, 1⟩]
  | .cmpLe _ _ _ b a p => [⟨.lane, b.toNat, 1⟩, ⟨.lane, a.toNat, 1⟩, ⟨.pred, p.toNat, 1⟩]
  | .cmpGt _ _ _ b a p => [⟨.lane, b.toNat, 1⟩, ⟨.lane, a.toNat, 1⟩, ⟨.pred, p.toNat, 1⟩]
  | .cmpGe _ _ _ b a p => [⟨.lane, b.toNat, 1⟩, ⟨.lane, a.toNat, 1⟩, ⟨.pred, p.toNat, 1⟩]
  | .pand b a d => [⟨.pred, b.toNat, 1⟩, ⟨.pred, a.toNat, 1⟩, ⟨.pred, d.toNat, 1⟩]
  | .por b a d => [⟨.pred, b.toNat, 1⟩, ⟨.pred, a.toNat, 1⟩, ⟨.pred, d.toNat, 1⟩]
  | .pxor b a d => [⟨.pred, b.toNat, 1⟩, ⟨.pred, a.toNat, 1⟩, ⟨.pred, d.toNat, 1⟩]
  | .pnot a d => [⟨.pred, a.toNat, 1⟩, ⟨.pred, d.toNat, 1⟩]
  | .sel _ _ _ p b a d => [⟨.pred, p.toNat, 1⟩, ⟨.lane, b.toNat, 1⟩, ⟨.lane, a.toNat, 1⟩, ⟨.lane, d.toNat, 1⟩]
  | .mov _ b d => [⟨.lane, b.toNat, 1⟩, ⟨.lane, d.toNat, 1⟩]
  | .movk a d => [⟨.uni, a.toNat, 1⟩, ⟨.lane, d.toNat, 1⟩]
  | .sreg _ d => [⟨.lane, d.toNat, 1⟩]
  | .shflIdx _ _ b a d => [⟨.lane, d.toNat, 1⟩, ⟨.lane, a.toNat, 1⟩, ⟨.lane, b.toNat, 1⟩]
  | .shflUp _ _ b a d => [⟨.lane, d.toNat, 1⟩, ⟨.lane, a.toNat, 1⟩, ⟨.lane, b.toNat, 1⟩]
  | .shflDown _ _ b a d => [⟨.lane, d.toNat, 1⟩, ⟨.lane, a.toNat, 1⟩, ⟨.lane, b.toNat, 1⟩]
  | .shflXor _ _ b a d => [⟨.lane, d.toNat, 1⟩, ⟨.lane, a.toNat, 1⟩, ⟨.lane, b.toNat, 1⟩]
  | .xg _ _ b a d => [⟨.lane, d.toNat, 1⟩, ⟨.lane, (a.toNat * 8), 8⟩, ⟨.lane, b.toNat, 1⟩]
  | .permB _ _ q a d => [⟨.lane, d.toNat, 1⟩, ⟨.lane, a.toNat, 1⟩, ⟨.uni, (q.toNat * 4), 4⟩]
  | .voteAny a d => [⟨.pred, a.toNat, 1⟩, ⟨.pred, d.toNat, 1⟩]
  | .voteAll a d => [⟨.pred, a.toNat, 1⟩, ⟨.pred, d.toNat, 1⟩]
  | .voteBallot a d => [⟨.pred, a.toNat, 1⟩, ⟨.uni, d.toNat, 1⟩]
  | .gredAdd _ _ a d => [⟨.lane, a.toNat, 1⟩, ⟨.lane, d.toNat, 1⟩]
  | .gredMin _ _ a d => [⟨.lane, a.toNat, 1⟩, ⟨.lane, d.toNat, 1⟩]
  | .gredMax _ _ a d => [⟨.lane, a.toNat, 1⟩, ⟨.lane, d.toNat, 1⟩]
  | .gscanAdd _ _ a d => [⟨.lane, a.toNat, 1⟩, ⟨.lane, d.toNat, 1⟩]
  | .rbal _ b a d => [⟨.lane, a.toNat, 1⟩, ⟨.uni, b.toNat, 1⟩, ⟨.lane, (d.toNat * 2), 2⟩]
  | .ld _ _ _ s i k d => [⟨.lane, i.toNat, 1⟩, ⟨.uni, (k.toNat * 2), 2⟩, ⟨.lane, d.toNat, (wordsOf s.toNat)⟩]
  | .st _ _ s i k d => [⟨.lane, i.toNat, 1⟩, ⟨.uni, (k.toNat * 2), 2⟩, ⟨.lane, d.toNat, (wordsOf s.toNat)⟩]
  | .ldQ _ _ i k d => [⟨.lane, i.toNat, 1⟩, ⟨.uni, (k.toNat * 2), 2⟩, ⟨.lane, (d.toNat * 4), 4⟩]
  | .stQ _ _ i k d => [⟨.lane, i.toNat, 1⟩, ⟨.uni, (k.toNat * 2), 2⟩, ⟨.lane, (d.toNat * 4), 4⟩]
  | .ldRo _ _ _ s i k d => [⟨.lane, i.toNat, 1⟩, ⟨.uni, (k.toNat * 2), 2⟩, ⟨.lane, d.toNat, (wordsOf s.toNat)⟩]
  | .ldk _ s k d => [⟨.uni, (k.toNat * 2), 2⟩, ⟨.uni, d.toNat, (s.toNat + 1)⟩]
  | .ldl _ s k d => [⟨.uni, (k.toNat * 2), 2⟩, ⟨.lane, d.toNat, (2 ^ s.toNat)⟩]
  | .lds _ _ s i k d => [⟨.lane, i.toNat, 1⟩, ⟨.uni, k.toNat, 1⟩, ⟨.lane, d.toNat, (wordsOf s.toNat)⟩]
  | .sts _ _ s i k d => [⟨.lane, i.toNat, 1⟩, ⟨.uni, k.toNat, 1⟩, ⟨.lane, d.toNat, (wordsOf s.toNat)⟩]
  | .ldsd _ _ s i k d => [⟨.lane, i.toNat, 1⟩, ⟨.uni, k.toNat, 1⟩, ⟨.lane, d.toNat, (wordsOf s.toNat)⟩]
  | .stsd _ _ s i k d => [⟨.lane, i.toNat, 1⟩, ⟨.uni, k.toNat, 1⟩, ⟨.lane, d.toNat, (wordsOf s.toNat)⟩]
  | .pf _ _ i k => [⟨.lane, i.toNat, 1⟩, ⟨.uni, (k.toNat * 2), 2⟩]
  | .mwait _ k d => [⟨.uni, (k.toNat * 2), 2⟩, ⟨.uni, (d.toNat * 2), 2⟩]
  | .atomAdd m _ _ b a d => [⟨.lane, (a.toNat * 2), 2⟩, ⟨.lane, b.toNat, (if m = 2 then 2 else 1)⟩, ⟨.lane, d.toNat, (if m = 2 then 2 else 1)⟩]
  | .atomMin m _ _ b a d => [⟨.lane, (a.toNat * 2), 2⟩, ⟨.lane, b.toNat, (if m = 2 then 2 else 1)⟩, ⟨.lane, d.toNat, (if m = 2 then 2 else 1)⟩]
  | .atomMax m _ _ b a d => [⟨.lane, (a.toNat * 2), 2⟩, ⟨.lane, b.toNat, (if m = 2 then 2 else 1)⟩, ⟨.lane, d.toNat, (if m = 2 then 2 else 1)⟩]
  | .atomAnd m _ _ b a d => [⟨.lane, (a.toNat * 2), 2⟩, ⟨.lane, b.toNat, (if m = 2 then 2 else 1)⟩, ⟨.lane, d.toNat, (if m = 2 then 2 else 1)⟩]
  | .atomOr m _ _ b a d => [⟨.lane, (a.toNat * 2), 2⟩, ⟨.lane, b.toNat, (if m = 2 then 2 else 1)⟩, ⟨.lane, d.toNat, (if m = 2 then 2 else 1)⟩]
  | .atomXor m _ _ b a d => [⟨.lane, (a.toNat * 2), 2⟩, ⟨.lane, b.toNat, (if m = 2 then 2 else 1)⟩, ⟨.lane, d.toNat, (if m = 2 then 2 else 1)⟩]
  | .atomExch m _ _ b a d => [⟨.lane, (a.toNat * 2), 2⟩, ⟨.lane, b.toNat, (if m = 2 then 2 else 1)⟩, ⟨.lane, d.toNat, (if m = 2 then 2 else 1)⟩]
  | .atomCas m _ _ b a d => [⟨.lane, (a.toNat * 2), 2⟩, ⟨.lane, b.toNat, (if m = 2 then 2 else 1)⟩, ⟨.lane, d.toNat, (if m = 2 then 2 else 1)⟩]
  | .redAdd m _ _ b a => [⟨.lane, (a.toNat * 2), 2⟩, ⟨.lane, b.toNat, (if m = 2 then 2 else 1)⟩]
  | .redMin m _ _ b a => [⟨.lane, (a.toNat * 2), 2⟩, ⟨.lane, b.toNat, (if m = 2 then 2 else 1)⟩]
  | .redMax m _ _ b a => [⟨.lane, (a.toNat * 2), 2⟩, ⟨.lane, b.toNat, (if m = 2 then 2 else 1)⟩]
  | .redAnd m _ _ b a => [⟨.lane, (a.toNat * 2), 2⟩, ⟨.lane, b.toNat, (if m = 2 then 2 else 1)⟩]
  | .redOr m _ _ b a => [⟨.lane, (a.toNat * 2), 2⟩, ⟨.lane, b.toNat, (if m = 2 then 2 else 1)⟩]
  | .redXor m _ _ b a => [⟨.lane, (a.toNat * 2), 2⟩, ⟨.lane, b.toNat, (if m = 2 then 2 else 1)⟩]
  | .bupdAdd _ _ _ b a => [⟨.lane, (a.toNat * 2), 2⟩, ⟨.lane, b.toNat, 1⟩]
  | .bupdMin _ _ _ b a => [⟨.lane, (a.toNat * 2), 2⟩, ⟨.lane, b.toNat, 1⟩]
  | .bupdMax _ _ _ b a => [⟨.lane, (a.toNat * 2), 2⟩, ⟨.lane, b.toNat, 1⟩]
  | .bredAdd _ _ _ b a => [⟨.lane, (a.toNat * 2), 2⟩, ⟨.lane, b.toNat, 1⟩]
  | .bredMin _ _ _ b a => [⟨.lane, (a.toNat * 2), 2⟩, ⟨.lane, b.toNat, 1⟩]
  | .bredMax _ _ _ b a => [⟨.lane, (a.toNat * 2), 2⟩, ⟨.lane, b.toNat, 1⟩]
  | .fence _ => []
  | .fenceAcq _ => []
  | .fenceRel _ => []
  | .tfence _ => []
  | .binit _ b a => [⟨.uni, a.toNat, 1⟩, ⟨.uni, b.toNat, 1⟩]
  | .barv _ a d => [⟨.uni, a.toNat, 1⟩, ⟨.uni, d.toNat, 1⟩]
  | .bexp _ b a => [⟨.uni, a.toNat, 1⟩, ⟨.uni, b.toNat, 1⟩]
  | .btest _ b a d => [⟨.uni, a.toNat, 1⟩, ⟨.uni, b.toNat, 1⟩, ⟨.pred, d.toNat, 1⟩]
  | .bwait _ b a => [⟨.uni, a.toNat, 1⟩, ⟨.uni, b.toNat, 1⟩]
  | .binval _ a => [⟨.uni, a.toNat, 1⟩]
  | .tsync => []
  | .clsync => []
  | .hld _ _ i k h => [⟨.lane, i.toNat, 1⟩, ⟨.uni, (k.toNat * 2), 2⟩, ⟨.ref, h.toNat, 1⟩]
  | .hst _ _ i k h => [⟨.lane, i.toNat, 1⟩, ⟨.uni, (k.toNat * 2), 2⟩, ⟨.ref, h.toNat, 1⟩]
  | .ldh m _ b h d => [⟨.ref, h.toNat, 1⟩, ⟨.lane, b.toNat, 1⟩, ⟨.lane, d.toNat, (wordsOf m.toNat)⟩]
  | .sth m _ _ b a h => [⟨.ref, h.toNat, 1⟩, ⟨.lane, b.toNat, 1⟩, ⟨.lane, a.toNat, (wordsOf m.toNat)⟩]
  | .hnew _ _ b a h => [⟨.ref, h.toNat, 1⟩, ⟨.lane, a.toNat, 1⟩, ⟨.lane, b.toNat, 1⟩]
  | .hfree h => [⟨.ref, h.toNat, 1⟩]
  | .hpin h d => [⟨.ref, h.toNat, 1⟩, ⟨.lane, (d.toNat * 2), 2⟩]
  | .hunpin h => [⟨.ref, h.toNat, 1⟩]
  | .heq g h p => [⟨.ref, h.toNat, 1⟩, ⟨.ref, g.toNat, 1⟩, ⟨.pred, p.toNat, 1⟩]
  | .htag h d => [⟨.ref, h.toNat, 1⟩, ⟨.lane, d.toNat, 1⟩]
  | .qla _ _ f n a => [⟨.lane, a.toNat, (laWindow f.toNat n.toNat)⟩]
  | .qzero _ _ _ _ _ _ => []
  | .qrd _ _ n _ r _ => [⟨.lane, r.toNat, (8 * 2 ^ n.toNat)⟩]
  | .qwr _ _ n _ r _ => [⟨.lane, r.toNat, (8 * 2 ^ n.toNat)⟩]
  | .qrel _ _ _ => []
  | .qmm _ _ _ k _ _ _ => [⟨.uni, (k.toNat * 8), 8⟩]
  | .qmmg _ _ c _ _ _ => [⟨.lane, (c.toNat * 2), 2⟩]
  | .qdist _ _ _ k _ _ _ => [⟨.uni, (k.toNat * 8), 8⟩]
  | .qtopk _ k _ _ _ => [⟨.uni, k.toNat, 1⟩]
  | .qatt _ h _ _ _ k => [⟨.ref, h.toNat, 1⟩, ⟨.uni, (k.toNat * 8), 8⟩]
  | .qatf _ h _ _ _ k => [⟨.ref, h.toNat, 1⟩, ⟨.uni, (k.toNat * 8), 8⟩]
  | .qsel _ h _ _ _ k => [⟨.ref, h.toNat, 1⟩, ⟨.uni, (k.toNat * 8), 8⟩]
  | .mxq _ _ _ _ _ k => [⟨.uni, (k.toNat * 8), 8⟩]
  | .mxd _ _ _ _ _ k => [⟨.uni, (k.toNat * 8), 8⟩]
  | .mload _ k _ => [⟨.uni, (k.toNat * 2), 2⟩]
  | .mfree _ _ => []
  | .mclass _ q d _ => [⟨.uni, (q.toNat * 8), 8⟩, ⟨.uni, d.toNat, 1⟩]
  | .mstat _ d _ => [⟨.uni, (d.toNat * 2), 2⟩]
  | .kvnew _ q d => [⟨.uni, (q.toNat * 8), 8⟩, ⟨.uni, d.toNat, 1⟩]
  | .kvseal _ q d => [⟨.uni, (q.toNat * 8), 8⟩, ⟨.uni, d.toNat, 1⟩]
  | .kvdem _ q d => [⟨.uni, (q.toNat * 8), 8⟩, ⟨.uni, d.toNat, 1⟩]
  | .kvdemInv _ q d => [⟨.uni, (q.toNat * 8), 8⟩, ⟨.uni, d.toNat, 1⟩]
  | .kvcold _ q d => [⟨.uni, (q.toNat * 8), 8⟩, ⟨.uni, d.toNat, 1⟩]
  | .kvq _ q d _ => [⟨.uni, (q.toNat * 8), 8⟩, ⟨.uni, (d.toNat * 2), 2⟩]
  | .kvpolReg _ q d => [⟨.uni, (q.toNat * 8), 8⟩, ⟨.uni, d.toNat, 1⟩]
  | .kvpolSweep _ q d => [⟨.uni, (q.toNat * 8), 8⟩, ⟨.uni, d.toNat, 1⟩]
  | .kvpolUnreg _ q d => [⟨.uni, (q.toNat * 8), 8⟩, ⟨.uni, d.toNat, 1⟩]
  | .kvpolSet _ q d => [⟨.uni, (q.toNat * 8), 8⟩, ⟨.uni, d.toNat, 1⟩]
  | .cpy _ k _ _ _ _ q => [⟨.uni, (q.toNat * 8), 8⟩, ⟨.uni, (k.toNat * 4), 4⟩]
  | .cpy2d _ k _ _ _ _ q => [⟨.uni, (q.toNat * 8), 8⟩, ⟨.uni, (k.toNat * 4), 4⟩]
  | .cpym _ k _ _ _ q => [⟨.uni, (q.toNat * 8), 8⟩, ⟨.uni, (k.toNat * 4), 4⟩]
  | .cpyc _ k _ a _ => [⟨.uni, (a.toNat * 2), 2⟩, ⟨.uni, (k.toNat * 4), 4⟩]
  | .cpyst _ d _ => [⟨.uni, (d.toNat * 2), 2⟩]
  | .cpyx _ _ => []
  | .lld _ d a _ z => [⟨.lane, (a.toNat * 2), 2⟩, ⟨.lane, d.toNat, (wordsOf z.toNat)⟩]
  | .lgat _ d a _ q _ => [⟨.lane, (a.toNat * 2), 2⟩, ⟨.uni, (q.toNat * 8), 8⟩, ⟨.pred, d.toNat, 1⟩]
  | .lwr _ _ q _ _ _ k => [⟨.uni, (q.toNat * 8), 8⟩, ⟨.uni, (k.toNat * 4), 4⟩]
  | .lred _ _ q _ _ _ k _ => [⟨.uni, (q.toNat * 8), 8⟩, ⟨.uni, (k.toNat * 4), 4⟩]
  | .mxr _ _ q _ k => [⟨.uni, (q.toNat * 8), 8⟩, ⟨.uni, (k.toNat * 4), 4⟩]
  | .dlaunch _ d a b => [⟨.uni, (a.toNat * 2), 2⟩, ⟨.uni, b.toNat, 1⟩, ⟨.uni, d.toNat, 1⟩]
  | .qsig _ b => [⟨.uni, b.toNat, 1⟩]
  | .bra _ _ _ p => [⟨.pred, p.toNat, 1⟩]
  | .call _ => []
  | .trap _ => []
  | .snap => []
  | .csrr _ d => [⟨.uni, d.toNat, 1⟩]
  | .clock d => [⟨.uni, (d.toNat * 2), 2⟩]
  | .jmp _ a => [⟨.lane, (a.toNat * 2), 2⟩]
  | .callIndirect _ a => [⟨.lane, (a.toNat * 2), 2⟩]
  | .extImm _ => []
  | .extReg _ => []
  | .mov16 b d => [⟨.lane, b.toNat, 1⟩, ⟨.lane, d.toNat, 1⟩]
  | .add16 b d => [⟨.lane, b.toNat, 1⟩, ⟨.lane, d.toNat, 1⟩]
  | .sub16 b d => [⟨.lane, b.toNat, 1⟩, ⟨.lane, d.toNat, 1⟩]
  | .mul16 b d => [⟨.lane, b.toNat, 1⟩, ⟨.lane, d.toNat, 1⟩]
  | .and16 b d => [⟨.lane, b.toNat, 1⟩, ⟨.lane, d.toNat, 1⟩]
  | .or16 b d => [⟨.lane, b.toNat, 1⟩, ⟨.lane, d.toNat, 1⟩]
  | .xor16 b d => [⟨.lane, b.toNat, 1⟩, ⟨.lane, d.toNat, 1⟩]
  | .andn16 b d => [⟨.lane, b.toNat, 1⟩, ⟨.lane, d.toNat, 1⟩]
  | .shl16 b d => [⟨.lane, b.toNat, 1⟩, ⟨.lane, d.toNat, 1⟩]
  | .shr16 b d => [⟨.lane, b.toNat, 1⟩, ⟨.lane, d.toNat, 1⟩]
  | .sra16 b d => [⟨.lane, b.toNat, 1⟩, ⟨.lane, d.toNat, 1⟩]
  | .min16 b d => [⟨.lane, b.toNat, 1⟩, ⟨.lane, d.toNat, 1⟩]
  | .max16 b d => [⟨.lane, b.toNat, 1⟩, ⟨.lane, d.toNat, 1⟩]
  | .fadd16 b d => [⟨.lane, b.toNat, 1⟩, ⟨.lane, d.toNat, 1⟩]
  | .fmul16 b d => [⟨.lane, b.toNat, 1⟩, ⟨.lane, d.toNat, 1⟩]
  | .fmax16 b d => [⟨.lane, b.toNat, 1⟩, ⟨.lane, d.toNat, 1⟩]
  | .nop => []
  | .join => []
  | .yield => []
  | .exit => []
  | .ret => []
  | .guard _ p => [⟨.pred, p.toNat, 1⟩]
  | .illegalInstruction | .faultRecordWrite .. | .trapRecordWrite .. | .teamFillComplete .. | .drainComplete .. | .contextSaveComplete ..
  | .activeSetExchange .. | .joinWaitTimeout .. | .mwaitReread .. | .barrierDecrement .. | .updateOnlyTimeout .. | .migrationPrecopyDone ..
  | .migrationRecopyDone .. | .migrationFlip .. | .migrationInvalAck .. | .migrationHoldTimeout .. | .hostWrite .. | .hostRead ..
  | .passGrant .. | .fusionWaitExpiry .. | .passCommit .. | .attentionComplete .. | .conversionComplete .. | .objectFree ..
  | .sweepIntervalStart .. | .sweepRequestStart .. | .sweepVisit .. | .coldMoveCopyDone .. | .sweepComplete .. | .directoryTakeup ..
  | .directoryBusyTimeout .. | .writeCombineTimeout .. | .relocAutoStart .. | .relocCopyDone .. | .relocRecopyDone .. | .relocFlip ..
  | .relocFinalTimeout .. | .relocAck .. | .healPassComplete .. | .copyOperationComplete .. | .multicastDelivery .. | .chainRecordFetch ..
  | .chainWaitTimeout .. | .chainRecordComplete .. | .flitArrival .. | .peerRequest .. | .portFailure .. | .linkRetryTimeout ..
  | .linkOperationComplete .. | .mxrTimeout .. | .doorbell .. | .launchRecordRead .. | .dependenceReread .. | .teamPlacement ..
  | .gangPlacement .. | .waitingLevelAge .. | .gangFirstAge .. | .gangSecondAge .. | .timeSliceExpiry .. | .noRoomEviction ..
  | .gridComplete .. | .ident .. | .claim .. | .handover .. | .attest .. | .loadimg ..
  | .reset .. | .qcreate .. | .qstop .. | .qstopDestroy .. | .queueDestroyComplete .. | .asgen ..
  | .invpage .. | .grantref .. | .faultansRetry .. | .faultansKill .. | .resumeSkip .. | .resumeRetry ..
  | .resumeEnd .. | .preempt .. | .framerel .. | .heapbind .. | .heapbindUnbind .. | .reloc ..
  | .migrate .. | .peerbind .. | .route .. | .qread .. | .snapcfg .. | .snaptrig ..
  | .snapread .. | .snaprel .. | .relrep .. | .retire .. | .pwrcap .. | .therm ..
  | .unknownCommand .. | .registerWrite .. | .snapshotLatch | .ownershipLapse | .handoverTimeout | .powerOn ..
  | .coreFailure .. | .hbmChannelFailure .. | .linkLaneFault .. | .thermalLimit .. | .thermalShutdown | .powerDown
  | .pcieLinkDown | .pcieLinkUp => []

/-- Forms that a guard may precede (02 R58, R65). -/
def guardable : Instr → Bool
  | .add .. | .sub .. | .mulLo .. | .mulHi .. | .madLo .. | .adda ..
  | .min .. | .max .. | .and .. | .or .. | .xor .. | .andn ..
  | .shl .. | .shr .. | .sra .. | .rot .. | .bfe .. | .bfi ..
  | .popc .. | .popcLt .. | .clz .. | .brev .. | .abs .. | .not ..
  | .dot4I8 .. | .addi .. | .andi .. | .ori .. | .xori .. | .shli ..
  | .shri .. | .srai .. | .roti .. | .movi .. | .mini .. | .maxi ..
  | .fadd .. | .fsub .. | .fmul .. | .fma .. | .fmin .. | .fmax ..
  | .faddBf16x2 .. | .fmulBf16x2 .. | .fmaBf16x2 .. | .fminBf16x2 .. | .fmaxBf16x2 .. | .faddF16x2 ..
  | .fmulF16x2 .. | .fmaF16x2 .. | .fminF16x2 .. | .fmaxF16x2 .. | .rcp .. | .rsqrt ..
  | .exp2 .. | .log2 .. | .cvt .. | .cmpEq .. | .cmpNe .. | .cmpLt ..
  | .cmpLe .. | .cmpGt .. | .cmpGe .. | .pand .. | .por .. | .pxor ..
  | .pnot .. | .sel .. | .mov .. | .movk .. | .sreg .. | .shflIdx ..
  | .shflUp .. | .shflDown .. | .shflXor .. | .xg .. | .permB .. | .voteAny ..
  | .voteAll .. | .voteBallot .. | .gredAdd .. | .gredMin .. | .gredMax .. | .gscanAdd ..
  | .rbal .. | .ld .. | .st .. | .ldQ .. | .stQ .. | .ldRo ..
  | .lds .. | .sts .. | .ldsd .. | .stsd .. | .pf .. | .atomAdd ..
  | .atomMin .. | .atomMax .. | .atomAnd .. | .atomOr .. | .atomXor .. | .atomExch ..
  | .atomCas .. | .redAdd .. | .redMin .. | .redMax .. | .redAnd .. | .redOr ..
  | .redXor .. | .bupdAdd .. | .bupdMin .. | .bupdMax .. | .bredAdd .. | .bredMin ..
  | .bredMax .. | .hld .. | .hst .. | .ldh .. | .sth .. | .hnew ..
  | .hfree .. | .hpin .. | .hunpin .. | .heq .. | .htag .. | .mov16 ..
  | .add16 .. | .sub16 .. | .mul16 .. | .and16 .. | .or16 .. | .xor16 ..
  | .andn16 .. | .shl16 .. | .shr16 .. | .sra16 .. | .min16 .. | .max16 ..
  | .fadd16 .. | .fmul16 .. | .fmax16 .. | .exit => true
  | .kadd .. | .ksub .. | .kmulLo .. | .kmulHi .. | .kmadLo .. | .kadda ..
  | .kmin .. | .kmax .. | .kand .. | .kor .. | .kxor .. | .kandn ..
  | .kshl .. | .kshr .. | .ksra .. | .krot .. | .kaddi .. | .kmovi ..
  | .kbfe .. | .kbfi .. | .kpopc .. | .kclz .. | .kbrev .. | .knot ..
  | .kabs .. | .kmov .. | .ldk .. | .ldl .. | .mwait .. | .fence ..
  | .fenceAcq .. | .fenceRel .. | .tfence .. | .binit .. | .barv .. | .bexp ..
  | .btest .. | .bwait .. | .binval .. | .tsync | .clsync | .qla ..
  | .qzero .. | .qrd .. | .qwr .. | .qrel .. | .qmm .. | .qmmg ..
  | .qdist .. | .qtopk .. | .qatt .. | .qatf .. | .qsel .. | .mxq ..
  | .mxd .. | .mload .. | .mfree .. | .mclass .. | .mstat .. | .kvnew ..
  | .kvseal .. | .kvdem .. | .kvdemInv .. | .kvcold .. | .kvq .. | .kvpolReg ..
  | .kvpolSweep .. | .kvpolUnreg .. | .kvpolSet .. | .cpy .. | .cpy2d .. | .cpym ..
  | .cpyc .. | .cpyst .. | .cpyx .. | .lld .. | .lgat .. | .lwr ..
  | .lred .. | .mxr .. | .dlaunch .. | .qsig .. | .bra .. | .call ..
  | .trap .. | .snap | .csrr .. | .clock .. | .jmp .. | .callIndirect ..
  | .extImm .. | .extReg .. | .nop | .join | .yield | .ret
  | .guard .. | .illegalInstruction | .faultRecordWrite .. | .trapRecordWrite .. | .teamFillComplete .. | .drainComplete ..
  | .contextSaveComplete .. | .activeSetExchange .. | .joinWaitTimeout .. | .mwaitReread .. | .barrierDecrement .. | .updateOnlyTimeout ..
  | .migrationPrecopyDone .. | .migrationRecopyDone .. | .migrationFlip .. | .migrationInvalAck .. | .migrationHoldTimeout .. | .hostWrite ..
  | .hostRead .. | .passGrant .. | .fusionWaitExpiry .. | .passCommit .. | .attentionComplete .. | .conversionComplete ..
  | .objectFree .. | .sweepIntervalStart .. | .sweepRequestStart .. | .sweepVisit .. | .coldMoveCopyDone .. | .sweepComplete ..
  | .directoryTakeup .. | .directoryBusyTimeout .. | .writeCombineTimeout .. | .relocAutoStart .. | .relocCopyDone .. | .relocRecopyDone ..
  | .relocFlip .. | .relocFinalTimeout .. | .relocAck .. | .healPassComplete .. | .copyOperationComplete .. | .multicastDelivery ..
  | .chainRecordFetch .. | .chainWaitTimeout .. | .chainRecordComplete .. | .flitArrival .. | .peerRequest .. | .portFailure ..
  | .linkRetryTimeout .. | .linkOperationComplete .. | .mxrTimeout .. | .doorbell .. | .launchRecordRead .. | .dependenceReread ..
  | .teamPlacement .. | .gangPlacement .. | .waitingLevelAge .. | .gangFirstAge .. | .gangSecondAge .. | .timeSliceExpiry ..
  | .noRoomEviction .. | .gridComplete .. | .ident .. | .claim .. | .handover .. | .attest ..
  | .loadimg .. | .reset .. | .qcreate .. | .qstop .. | .qstopDestroy .. | .queueDestroyComplete ..
  | .asgen .. | .invpage .. | .grantref .. | .faultansRetry .. | .faultansKill .. | .resumeSkip ..
  | .resumeRetry .. | .resumeEnd .. | .preempt .. | .framerel .. | .heapbind .. | .heapbindUnbind ..
  | .reloc .. | .migrate .. | .peerbind .. | .route .. | .qread .. | .snapcfg ..
  | .snaptrig .. | .snapread .. | .snaprel .. | .relrep .. | .retire .. | .pwrcap ..
  | .therm .. | .unknownCommand .. | .registerWrite .. | .snapshotLatch | .ownershipLapse | .handoverTimeout
  | .powerOn .. | .coreFailure .. | .hbmChannelFailure .. | .linkLaneFault .. | .thermalLimit .. | .thermalShutdown
  | .powerDown | .pcieLinkDown | .pcieLinkUp => false

/-- What an immediate extension does to a form (02 R54, R65). -/
inductive ImmUse where
  | no | imm11 (i : BitVec 11) | offset | branch (o : BitVec 19)
  deriving DecidableEq, Repr

/-- Forms that accept an extension of kind 0. -/
def immUse : Instr → ImmUse
  | .addi _ _ i _ _ => .imm11 i
  | .andi _ i _ _ => .imm11 i
  | .ori _ i _ _ => .imm11 i
  | .xori _ i _ _ => .imm11 i
  | .movi i _ => .imm11 i
  | .mini _ _ i _ _ => .imm11 i
  | .maxi _ _ i _ _ => .imm11 i
  | .kaddi i _ _ => .imm11 i
  | .kmovi i _ => .imm11 i
  | .bra o _ _ _ => .branch o
  | .call o => .branch o
  | .ld .. | .st .. | .ldQ .. | .stQ .. | .ldRo .. | .ldk ..
  | .ldl .. | .lds .. | .sts .. | .ldsd .. | .stsd .. | .pf ..
  | .mwait .. | .hld .. | .hst .. => .offset
  | .add .. | .sub .. | .mulLo .. | .mulHi .. | .madLo .. | .adda ..
  | .min .. | .max .. | .and .. | .or .. | .xor .. | .andn ..
  | .shl .. | .shr .. | .sra .. | .rot .. | .bfe .. | .bfi ..
  | .popc .. | .popcLt .. | .clz .. | .brev .. | .abs .. | .not ..
  | .dot4I8 .. | .shli .. | .shri .. | .srai .. | .roti .. | .kadd ..
  | .ksub .. | .kmulLo .. | .kmulHi .. | .kmadLo .. | .kadda .. | .kmin ..
  | .kmax .. | .kand .. | .kor .. | .kxor .. | .kandn .. | .kshl ..
  | .kshr .. | .ksra .. | .krot .. | .kbfe .. | .kbfi .. | .kpopc ..
  | .kclz .. | .kbrev .. | .knot .. | .kabs .. | .kmov .. | .fadd ..
  | .fsub .. | .fmul .. | .fma .. | .fmin .. | .fmax .. | .faddBf16x2 ..
  | .fmulBf16x2 .. | .fmaBf16x2 .. | .fminBf16x2 .. | .fmaxBf16x2 .. | .faddF16x2 .. | .fmulF16x2 ..
  | .fmaF16x2 .. | .fminF16x2 .. | .fmaxF16x2 .. | .rcp .. | .rsqrt .. | .exp2 ..
  | .log2 .. | .cvt .. | .cmpEq .. | .cmpNe .. | .cmpLt .. | .cmpLe ..
  | .cmpGt .. | .cmpGe .. | .pand .. | .por .. | .pxor .. | .pnot ..
  | .sel .. | .mov .. | .movk .. | .sreg .. | .shflIdx .. | .shflUp ..
  | .shflDown .. | .shflXor .. | .xg .. | .permB .. | .voteAny .. | .voteAll ..
  | .voteBallot .. | .gredAdd .. | .gredMin .. | .gredMax .. | .gscanAdd .. | .rbal ..
  | .atomAdd .. | .atomMin .. | .atomMax .. | .atomAnd .. | .atomOr .. | .atomXor ..
  | .atomExch .. | .atomCas .. | .redAdd .. | .redMin .. | .redMax .. | .redAnd ..
  | .redOr .. | .redXor .. | .bupdAdd .. | .bupdMin .. | .bupdMax .. | .bredAdd ..
  | .bredMin .. | .bredMax .. | .fence .. | .fenceAcq .. | .fenceRel .. | .tfence ..
  | .binit .. | .barv .. | .bexp .. | .btest .. | .bwait .. | .binval ..
  | .tsync | .clsync | .ldh .. | .sth .. | .hnew .. | .hfree ..
  | .hpin .. | .hunpin .. | .heq .. | .htag .. | .qla .. | .qzero ..
  | .qrd .. | .qwr .. | .qrel .. | .qmm .. | .qmmg .. | .qdist ..
  | .qtopk .. | .qatt .. | .qatf .. | .qsel .. | .mxq .. | .mxd ..
  | .mload .. | .mfree .. | .mclass .. | .mstat .. | .kvnew .. | .kvseal ..
  | .kvdem .. | .kvdemInv .. | .kvcold .. | .kvq .. | .kvpolReg .. | .kvpolSweep ..
  | .kvpolUnreg .. | .kvpolSet .. | .cpy .. | .cpy2d .. | .cpym .. | .cpyc ..
  | .cpyst .. | .cpyx .. | .lld .. | .lgat .. | .lwr .. | .lred ..
  | .mxr .. | .dlaunch .. | .qsig .. | .trap .. | .snap | .csrr ..
  | .clock .. | .jmp .. | .callIndirect .. | .extImm .. | .extReg .. | .mov16 ..
  | .add16 .. | .sub16 .. | .mul16 .. | .and16 .. | .or16 .. | .xor16 ..
  | .andn16 .. | .shl16 .. | .shr16 .. | .sra16 .. | .min16 .. | .max16 ..
  | .fadd16 .. | .fmul16 .. | .fmax16 .. | .nop | .join | .yield
  | .exit | .ret | .guard .. | .illegalInstruction | .faultRecordWrite .. | .trapRecordWrite ..
  | .teamFillComplete .. | .drainComplete .. | .contextSaveComplete .. | .activeSetExchange .. | .joinWaitTimeout .. | .mwaitReread ..
  | .barrierDecrement .. | .updateOnlyTimeout .. | .migrationPrecopyDone .. | .migrationRecopyDone .. | .migrationFlip .. | .migrationInvalAck ..
  | .migrationHoldTimeout .. | .hostWrite .. | .hostRead .. | .passGrant .. | .fusionWaitExpiry .. | .passCommit ..
  | .attentionComplete .. | .conversionComplete .. | .objectFree .. | .sweepIntervalStart .. | .sweepRequestStart .. | .sweepVisit ..
  | .coldMoveCopyDone .. | .sweepComplete .. | .directoryTakeup .. | .directoryBusyTimeout .. | .writeCombineTimeout .. | .relocAutoStart ..
  | .relocCopyDone .. | .relocRecopyDone .. | .relocFlip .. | .relocFinalTimeout .. | .relocAck .. | .healPassComplete ..
  | .copyOperationComplete .. | .multicastDelivery .. | .chainRecordFetch .. | .chainWaitTimeout .. | .chainRecordComplete .. | .flitArrival ..
  | .peerRequest .. | .portFailure .. | .linkRetryTimeout .. | .linkOperationComplete .. | .mxrTimeout .. | .doorbell ..
  | .launchRecordRead .. | .dependenceReread .. | .teamPlacement .. | .gangPlacement .. | .waitingLevelAge .. | .gangFirstAge ..
  | .gangSecondAge .. | .timeSliceExpiry .. | .noRoomEviction .. | .gridComplete .. | .ident .. | .claim ..
  | .handover .. | .attest .. | .loadimg .. | .reset .. | .qcreate .. | .qstop ..
  | .qstopDestroy .. | .queueDestroyComplete .. | .asgen .. | .invpage .. | .grantref .. | .faultansRetry ..
  | .faultansKill .. | .resumeSkip .. | .resumeRetry .. | .resumeEnd .. | .preempt .. | .framerel ..
  | .heapbind .. | .heapbindUnbind .. | .reloc .. | .migrate .. | .peerbind .. | .route ..
  | .qread .. | .snapcfg .. | .snaptrig .. | .snapread .. | .snaprel .. | .relrep ..
  | .retire .. | .pwrcap .. | .therm .. | .unknownCommand .. | .registerWrite .. | .snapshotLatch
  | .ownershipLapse | .handoverTimeout | .powerOn .. | .coreFailure .. | .hbmChannelFailure .. | .linkLaneFault ..
  | .thermalLimit .. | .thermalShutdown | .powerDown | .pcieLinkDown | .pcieLinkUp => .no

/-- What a register extension does to a form (02 R54, R65). -/
inductive RegUse where
  | no | thirdLane | thirdUniform | lookahead
  deriving DecidableEq, Repr

/-- Forms that accept an extension of kind 1. -/
def regUse : Instr → RegUse
  | .madLo .. | .bfi .. | .dot4I8 .. | .fma .. | .fmaBf16x2 .. | .fmaF16x2 .. => .thirdLane
  | .kmadLo .. | .kbfi .. => .thirdUniform
  | .atomAdd .. | .atomMin .. | .atomMax .. | .atomAnd .. | .atomOr .. | .atomXor ..
  | .atomExch .. | .atomCas .. | .redAdd .. | .redMin .. | .redMax .. | .redAnd ..
  | .redOr .. | .redXor .. | .bupdAdd .. | .bupdMin .. | .bupdMax .. | .bredAdd ..
  | .bredMin .. | .bredMax .. => .lookahead
  | .add .. | .sub .. | .mulLo .. | .mulHi .. | .adda .. | .min ..
  | .max .. | .and .. | .or .. | .xor .. | .andn .. | .shl ..
  | .shr .. | .sra .. | .rot .. | .bfe .. | .popc .. | .popcLt ..
  | .clz .. | .brev .. | .abs .. | .not .. | .addi .. | .andi ..
  | .ori .. | .xori .. | .shli .. | .shri .. | .srai .. | .roti ..
  | .movi .. | .mini .. | .maxi .. | .kadd .. | .ksub .. | .kmulLo ..
  | .kmulHi .. | .kadda .. | .kmin .. | .kmax .. | .kand .. | .kor ..
  | .kxor .. | .kandn .. | .kshl .. | .kshr .. | .ksra .. | .krot ..
  | .kaddi .. | .kmovi .. | .kbfe .. | .kpopc .. | .kclz .. | .kbrev ..
  | .knot .. | .kabs .. | .kmov .. | .fadd .. | .fsub .. | .fmul ..
  | .fmin .. | .fmax .. | .faddBf16x2 .. | .fmulBf16x2 .. | .fminBf16x2 .. | .fmaxBf16x2 ..
  | .faddF16x2 .. | .fmulF16x2 .. | .fminF16x2 .. | .fmaxF16x2 .. | .rcp .. | .rsqrt ..
  | .exp2 .. | .log2 .. | .cvt .. | .cmpEq .. | .cmpNe .. | .cmpLt ..
  | .cmpLe .. | .cmpGt .. | .cmpGe .. | .pand .. | .por .. | .pxor ..
  | .pnot .. | .sel .. | .mov .. | .movk .. | .sreg .. | .shflIdx ..
  | .shflUp .. | .shflDown .. | .shflXor .. | .xg .. | .permB .. | .voteAny ..
  | .voteAll .. | .voteBallot .. | .gredAdd .. | .gredMin .. | .gredMax .. | .gscanAdd ..
  | .rbal .. | .ld .. | .st .. | .ldQ .. | .stQ .. | .ldRo ..
  | .ldk .. | .ldl .. | .lds .. | .sts .. | .ldsd .. | .stsd ..
  | .pf .. | .mwait .. | .fence .. | .fenceAcq .. | .fenceRel .. | .tfence ..
  | .binit .. | .barv .. | .bexp .. | .btest .. | .bwait .. | .binval ..
  | .tsync | .clsync | .hld .. | .hst .. | .ldh .. | .sth ..
  | .hnew .. | .hfree .. | .hpin .. | .hunpin .. | .heq .. | .htag ..
  | .qla .. | .qzero .. | .qrd .. | .qwr .. | .qrel .. | .qmm ..
  | .qmmg .. | .qdist .. | .qtopk .. | .qatt .. | .qatf .. | .qsel ..
  | .mxq .. | .mxd .. | .mload .. | .mfree .. | .mclass .. | .mstat ..
  | .kvnew .. | .kvseal .. | .kvdem .. | .kvdemInv .. | .kvcold .. | .kvq ..
  | .kvpolReg .. | .kvpolSweep .. | .kvpolUnreg .. | .kvpolSet .. | .cpy .. | .cpy2d ..
  | .cpym .. | .cpyc .. | .cpyst .. | .cpyx .. | .lld .. | .lgat ..
  | .lwr .. | .lred .. | .mxr .. | .dlaunch .. | .qsig .. | .bra ..
  | .call .. | .trap .. | .snap | .csrr .. | .clock .. | .jmp ..
  | .callIndirect .. | .extImm .. | .extReg .. | .mov16 .. | .add16 .. | .sub16 ..
  | .mul16 .. | .and16 .. | .or16 .. | .xor16 .. | .andn16 .. | .shl16 ..
  | .shr16 .. | .sra16 .. | .min16 .. | .max16 .. | .fadd16 .. | .fmul16 ..
  | .fmax16 .. | .nop | .join | .yield | .exit | .ret
  | .guard .. | .illegalInstruction | .faultRecordWrite .. | .trapRecordWrite .. | .teamFillComplete .. | .drainComplete ..
  | .contextSaveComplete .. | .activeSetExchange .. | .joinWaitTimeout .. | .mwaitReread .. | .barrierDecrement .. | .updateOnlyTimeout ..
  | .migrationPrecopyDone .. | .migrationRecopyDone .. | .migrationFlip .. | .migrationInvalAck .. | .migrationHoldTimeout .. | .hostWrite ..
  | .hostRead .. | .passGrant .. | .fusionWaitExpiry .. | .passCommit .. | .attentionComplete .. | .conversionComplete ..
  | .objectFree .. | .sweepIntervalStart .. | .sweepRequestStart .. | .sweepVisit .. | .coldMoveCopyDone .. | .sweepComplete ..
  | .directoryTakeup .. | .directoryBusyTimeout .. | .writeCombineTimeout .. | .relocAutoStart .. | .relocCopyDone .. | .relocRecopyDone ..
  | .relocFlip .. | .relocFinalTimeout .. | .relocAck .. | .healPassComplete .. | .copyOperationComplete .. | .multicastDelivery ..
  | .chainRecordFetch .. | .chainWaitTimeout .. | .chainRecordComplete .. | .flitArrival .. | .peerRequest .. | .portFailure ..
  | .linkRetryTimeout .. | .linkOperationComplete .. | .mxrTimeout .. | .doorbell .. | .launchRecordRead .. | .dependenceReread ..
  | .teamPlacement .. | .gangPlacement .. | .waitingLevelAge .. | .gangFirstAge .. | .gangSecondAge .. | .timeSliceExpiry ..
  | .noRoomEviction .. | .gridComplete .. | .ident .. | .claim .. | .handover .. | .attest ..
  | .loadimg .. | .reset .. | .qcreate .. | .qstop .. | .qstopDestroy .. | .queueDestroyComplete ..
  | .asgen .. | .invpage .. | .grantref .. | .faultansRetry .. | .faultansKill .. | .resumeSkip ..
  | .resumeRetry .. | .resumeEnd .. | .preempt .. | .framerel .. | .heapbind .. | .heapbindUnbind ..
  | .reloc .. | .migrate .. | .peerbind .. | .route .. | .qread .. | .snapcfg ..
  | .snaptrig .. | .snapread .. | .snaprel .. | .relrep .. | .retire .. | .pwrcap ..
  | .therm .. | .unknownCommand .. | .registerWrite .. | .snapshotLatch | .ownershipLapse | .handoverTimeout
  | .powerOn .. | .coreFailure .. | .hbmChannelFailure .. | .linkLaneFault .. | .thermalLimit .. | .thermalShutdown
  | .powerDown | .pcieLinkDown | .pcieLinkUp => .no

/-- Field conditions of a form beyond its map row (02 R63, R64, R66 to R69 and the owning chapters). No word encodes an event. -/
def legalForm : Instr → Bool
  | .add m _ _ _ _ _ => m != 3
  | .sub m _ _ _ _ _ => m != 3
  | .mulHi m _ _ _ _ _ => decide (m.toNat < 2)
  | .min m _ _ _ _ _ => decide (m.toNat < 2)
  | .max m _ _ _ _ _ => decide (m.toNat < 2)
  | .bfe m _ _ _ _ _ => decide (m.toNat < 2)
  | .kadd m _ _ _ => m != 3
  | .ksub m _ _ _ => m != 3
  | .kmulHi m _ _ _ => decide (m.toNat < 2)
  | .kmin m _ _ _ => decide (m.toNat < 2)
  | .kmax m _ _ _ => decide (m.toNat < 2)
  | .kbfe m _ _ _ => decide (m.toNat < 2)
  | .cvt _ _ s t _ _ => decide (s.toNat < 7) && decide (t.toNat < 7) && s != t
  | .cmpEq m _ _ _ _ p => m != 3 && p != 0
  | .cmpNe m _ _ _ _ p => m != 3 && p != 0
  | .cmpLt m _ _ _ _ p => m != 3 && p != 0
  | .cmpLe m _ _ _ _ p => m != 3 && p != 0
  | .cmpGt m _ _ _ _ p => m != 3 && p != 0
  | .cmpGe m _ _ _ _ p => m != 3 && p != 0
  | .pand _ _ d => d != 0
  | .por _ _ d => d != 0
  | .pxor _ _ d => d != 0
  | .pnot _ d => d != 0
  | .sreg s _ => decide (s.toNat ≤ 28)
  | .voteAny _ d => d != 0
  | .voteAll _ d => d != 0
  | .gredAdd m _ _ _ => m != 3
  | .gredMin m _ _ _ => m != 3
  | .gredMax m _ _ _ => m != 3
  | .gscanAdd m _ _ _ => m != 3
  | .ld m r _ s i _ d => (m == 0 || decide (s.toNat < 2)) && !(i == 63 && r == 1) && (s != 3 || d.toNat % 2 == 0)
  | .st r _ s i _ d => !(i == 63 && r == 1) && (s != 3 || d.toNat % 2 == 0)
  | .ldQ r _ i _ _ => !(i == 63 && r == 1)
  | .stQ r _ i _ _ => !(i == 63 && r == 1)
  | .ldRo m r _ s i _ d => (m == 0 || decide (s.toNat < 2)) && !(i == 63 && r == 1) && (s != 3 || d.toNat % 2 == 0)
  | .ldk _ s _ d => (s == 0 || d.toNat % 2 == 0)
  | .ldl _ s _ d => d.toNat % 2 ^ s.toNat == 0
  | .lds r _ s i _ d => !(i == 63 && r == 1) && (s != 3 || d.toNat % 2 == 0)
  | .sts r _ s i _ d => !(i == 63 && r == 1) && (s != 3 || d.toNat % 2 == 0)
  | .ldsd r _ s i _ d => !(i == 63 && r == 1) && (s != 3 || d.toNat % 2 == 0)
  | .stsd r _ s i _ d => !(i == 63 && r == 1) && (s != 3 || d.toNat % 2 == 0)
  | .pf r _ i _ => !(i == 63 && r == 1)
  | .atomAdd m _ _ b _ d => (m != 2 || (d.toNat % 2 == 0 && b.toNat % 2 == 0))
  | .atomMin m _ _ b _ d => m != 3 && (m != 2 || (d.toNat % 2 == 0 && b.toNat % 2 == 0))
  | .atomMax m _ _ b _ d => m != 3 && (m != 2 || (d.toNat % 2 == 0 && b.toNat % 2 == 0))
  | .atomAnd m _ _ b _ d => m != 3 && (m != 2 || (d.toNat % 2 == 0 && b.toNat % 2 == 0))
  | .atomOr m _ _ b _ d => m != 3 && (m != 2 || (d.toNat % 2 == 0 && b.toNat % 2 == 0))
  | .atomXor m _ _ b _ d => m != 3 && (m != 2 || (d.toNat % 2 == 0 && b.toNat % 2 == 0))
  | .atomExch m _ _ b _ d => (m != 2 || (d.toNat % 2 == 0 && b.toNat % 2 == 0))
  | .atomCas m _ _ b _ d => m != 3 && (m != 2 || (d.toNat % 2 == 0 && b.toNat % 2 == 0))
  | .redAdd m _ _ b _ => (m != 2 || b.toNat % 2 == 0)
  | .redMin m _ _ b _ => m != 3 && (m != 2 || b.toNat % 2 == 0)
  | .redMax m _ _ b _ => m != 3 && (m != 2 || b.toNat % 2 == 0)
  | .redAnd m _ _ b _ => m != 3 && (m != 2 || b.toNat % 2 == 0)
  | .redOr m _ _ b _ => m != 3 && (m != 2 || b.toNat % 2 == 0)
  | .redXor m _ _ b _ => m != 3 && (m != 2 || b.toNat % 2 == 0)
  | .fence s => decide (s.toNat < 6)
  | .fenceAcq s => decide (s.toNat < 6)
  | .fenceRel s => decide (s.toNat < 6)
  | .tfence s => decide (s.toNat < 6)
  | .btest _ _ _ d => d != 0
  | .hld r _ i _ _ => !(i == 63 && r == 1)
  | .hst r _ i _ _ => !(i == 63 && r == 1)
  | .ldh m _ _ _ d => (m != 3 || d.toNat % 2 == 0)
  | .sth m _ _ _ a _ => (m != 3 || a.toNat % 2 == 0)
  | .heq _ _ p => p != 0
  | .qla _ _ f n a => (match qfmtOf f.toNat with | some g => decide (n.toNat + 1 ≤ g.maxBlocks) && decide (a.toNat + laWindow f.toNat n.toNat ≤ 64) | none => false)
  | .qzero _ v t n q _ => q != 0 && (decide (t.toNat ≥ 2) || (v == 0 && n == 0))
  | .qrd _ _ n c r _ => n != 3 && decide (8 * c.toNat + 8 * 2 ^ n.toNat ≤ 32) && decide (r.toNat + 8 * 2 ^ n.toNat ≤ 64)
  | .qwr _ _ n c r _ => n != 3 && decide (8 * c.toNat + 8 * 2 ^ n.toNat ≤ 32) && decide (r.toNat + 8 * 2 ^ n.toNat ≤ 64)
  | .qrel _ q _ => q != 0
  | .qmm _ _ _ _ f q _ => q != 0 && decide (f.toNat < 10)
  | .qmmg _ _ _ f q _ => q != 0 && decide (f.toNat < 10)
  | .qdist _ _ _ _ f q _ => q != 0 && decide (f.toNat < 10)
  | .qtopk _ _ q s d => q != 0 && s != d
  | .qatt _ _ q s e _ => q != 0 && (e == 1 || s == 0)
  | .qatf _ _ q s e _ => q != 0 && (e == 1 || s == 0)
  | .qsel _ _ q s e _ => q != 0 && (e == 1 || s == 0)
  | .mxq _ f _ _ _ _ => f != 0 && f != 7
  | .mxd _ f _ _ _ _ => f != 0 && f != 7
  | .kvq _ _ _ s => decide (s.toNat < 2)
  | .cpy _ k t _ _ _ _ => (t == 1 || k == 0)
  | .cpy2d _ k t _ _ _ _ => (t == 1 || k == 0)
  | .cpym _ k t _ _ _ => (t == 1 || k == 0)
  | .cpyc _ k t _ _ => (t == 1 || k == 0)
  | .lld _ d _ _ z => (z != 3 || d.toNat % 2 == 0)
  | .lgat _ d _ _ _ _ => d != 0
  | .lwr _ _ _ _ t r k => (r == 0 || t == 1) && (t == 1 || k == 0)
  | .lred _ _ _ _ t r k _ => (r == 0 || t == 1) && (t == 1 || k == 0)
  | .mxr _ f _ t k => f != 0 && f != 7 && (t == 1 || k == 0)
  | .mstat _ _ s => decide (s.toNat ≤ 4)
  | .bra _ _ n p => !(p == 0 && n == 1)
  | .csrr s _ => decide (s.toNat ≤ 6)
  | .mov16 b d => !(b == 0 && d == 0)
  | .guard _ p => p != 0
  | .mulLo .. | .madLo .. | .adda .. | .and .. | .or .. | .xor ..
  | .andn .. | .shl .. | .shr .. | .sra .. | .rot .. | .bfi ..
  | .popc .. | .popcLt .. | .clz .. | .brev .. | .abs .. | .not ..
  | .dot4I8 .. | .addi .. | .andi .. | .ori .. | .xori .. | .shli ..
  | .shri .. | .srai .. | .roti .. | .movi .. | .mini .. | .maxi ..
  | .kmulLo .. | .kmadLo .. | .kadda .. | .kand .. | .kor .. | .kxor ..
  | .kandn .. | .kshl .. | .kshr .. | .ksra .. | .krot .. | .kaddi ..
  | .kmovi .. | .kbfi .. | .kpopc .. | .kclz .. | .kbrev .. | .knot ..
  | .kabs .. | .kmov .. | .fadd .. | .fsub .. | .fmul .. | .fma ..
  | .fmin .. | .fmax .. | .faddBf16x2 .. | .fmulBf16x2 .. | .fmaBf16x2 .. | .fminBf16x2 ..
  | .fmaxBf16x2 .. | .faddF16x2 .. | .fmulF16x2 .. | .fmaF16x2 .. | .fminF16x2 .. | .fmaxF16x2 ..
  | .rcp .. | .rsqrt .. | .exp2 .. | .log2 .. | .sel .. | .mov ..
  | .movk .. | .shflIdx .. | .shflUp .. | .shflDown .. | .shflXor .. | .xg ..
  | .permB .. | .voteBallot .. | .rbal .. | .mwait .. | .bupdAdd .. | .bupdMin ..
  | .bupdMax .. | .bredAdd .. | .bredMin .. | .bredMax .. | .binit .. | .barv ..
  | .bexp .. | .bwait .. | .binval .. | .tsync | .clsync | .hnew ..
  | .hfree .. | .hpin .. | .hunpin .. | .htag .. | .mload .. | .mfree ..
  | .mclass .. | .kvnew .. | .kvseal .. | .kvdem .. | .kvdemInv ..
  | .kvcold .. | .kvpolReg .. | .kvpolSweep .. | .kvpolUnreg .. | .kvpolSet .. | .cpyst ..
  | .cpyx .. | .dlaunch .. | .qsig .. | .call .. | .trap .. | .snap
  | .clock .. | .jmp .. | .callIndirect .. | .extImm .. | .extReg .. | .add16 ..
  | .sub16 .. | .mul16 .. | .and16 .. | .or16 .. | .xor16 .. | .andn16 ..
  | .shl16 .. | .shr16 .. | .sra16 .. | .min16 .. | .max16 .. | .fadd16 ..
  | .fmul16 .. | .fmax16 .. | .nop | .join | .yield | .exit
  | .ret => true
  | .illegalInstruction | .faultRecordWrite .. | .trapRecordWrite .. | .teamFillComplete .. | .drainComplete .. | .contextSaveComplete ..
  | .activeSetExchange .. | .joinWaitTimeout .. | .mwaitReread .. | .barrierDecrement .. | .updateOnlyTimeout .. | .migrationPrecopyDone ..
  | .migrationRecopyDone .. | .migrationFlip .. | .migrationInvalAck .. | .migrationHoldTimeout .. | .hostWrite .. | .hostRead ..
  | .passGrant .. | .fusionWaitExpiry .. | .passCommit .. | .attentionComplete .. | .conversionComplete .. | .objectFree ..
  | .sweepIntervalStart .. | .sweepRequestStart .. | .sweepVisit .. | .coldMoveCopyDone .. | .sweepComplete .. | .directoryTakeup ..
  | .directoryBusyTimeout .. | .writeCombineTimeout .. | .relocAutoStart .. | .relocCopyDone .. | .relocRecopyDone .. | .relocFlip ..
  | .relocFinalTimeout .. | .relocAck .. | .healPassComplete .. | .copyOperationComplete .. | .multicastDelivery .. | .chainRecordFetch ..
  | .chainWaitTimeout .. | .chainRecordComplete .. | .flitArrival .. | .peerRequest .. | .portFailure .. | .linkRetryTimeout ..
  | .linkOperationComplete .. | .mxrTimeout .. | .doorbell .. | .launchRecordRead .. | .dependenceReread .. | .teamPlacement ..
  | .gangPlacement .. | .waitingLevelAge .. | .gangFirstAge .. | .gangSecondAge .. | .timeSliceExpiry .. | .noRoomEviction ..
  | .gridComplete .. | .ident .. | .claim .. | .handover .. | .attest .. | .loadimg ..
  | .reset .. | .qcreate .. | .qstop .. | .qstopDestroy .. | .queueDestroyComplete .. | .asgen ..
  | .invpage .. | .grantref .. | .faultansRetry .. | .faultansKill .. | .resumeSkip .. | .resumeRetry ..
  | .resumeEnd .. | .preempt .. | .framerel .. | .heapbind .. | .heapbindUnbind .. | .reloc ..
  | .migrate .. | .peerbind .. | .route .. | .qread .. | .snapcfg .. | .snaptrig ..
  | .snapread .. | .snaprel .. | .relrep .. | .retire .. | .pwrcap .. | .therm ..
  | .unknownCommand .. | .registerWrite .. | .snapshotLatch | .ownershipLapse | .handoverTimeout | .powerOn ..
  | .coreFailure .. | .hbmChannelFailure .. | .linkLaneFault .. | .thermalLimit .. | .thermalShutdown | .powerDown
  | .pcieLinkDown | .pcieLinkUp => false

/-- The prefix of an extension (02 R53). -/
inductive Ext where
  | imm (p : BitVec 23) | reg (p : BitVec 23)
  deriving DecidableEq, Repr

/-- An extension is legal before a 32-bit form that accepts its kind, with the fields of R54 zero. -/
def legalExt (x : Ext) (body : Instr) : Bool :=
  match x with
  | .imm _ =>
    match immUse body with
    | .no => false
    | .imm11 i => decide (i.toNat < 512)
    | .offset => true
    | .branch o => decide (o.toNat < 512)
  | .reg p =>
    match regUse body with
    | .no => false
    | .thirdLane => decide (p.toNat < 128)
    | .thirdUniform => decide (p.toNat < 32)
    | .lookahead => p.toNat % 128 == 0 && decide (p.toNat < 2048)

/-- A prefix stands before an instruction; it is none itself. -/
def isPrefix (i : Instr) : Bool :=
  match i with
  | .guard _ _ => true
  | .extImm _ => true
  | .extReg _ => true
  | _ => false

/-- A unit is legal (02 R69): no listed violation, in its body, its extension or its guard. -/
def legalUnit (guard : Option (BitVec 1 × BitVec 3)) (ext : Option Ext) (body : Instr) : Bool :=
  !isPrefix body && legalForm body &&
  (match ext with | none => true | some x => wordBits body == 32 && legalExt x body) &&
  (match guard with | none => true | some (_, p) => p != 0 && guardable body)

end Sys2Proof
end

