-- ==== Sys2Proof/Machine/Operands.lean ====
section
/-! DEFINITION. Operand forms: immediates and extensions (02 R49, R54), third sources and marks (02 R54, R59), branch targets
(02 R51), lookahead (02 R60), and the addresses of the M format (02 R50, 06 R176 to R178). -/

namespace Sys2Proof.Machine

open Sys2Proof

/-- The immediate of an I form: imm11 sign-extended, or the 32-bit value {payload, imm11[8:0]} (02 R49, R54, 05 R143). -/
def immediate (s : State) (i : BitVec 11) : Word :=
  match s.unit.extImm with
  | none => i.signExtend 32
  | some p => p ++ i.setWidth 9

/-- The byte offset of an M form: 0, or the payload sign-extended (02 R50, R54). -/
def byteOffset (s : State) : Int :=
  match s.unit.extImm with
  | none => 0
  | some p => p.toInt

/-- Where the accumulating operand is read: vd, or vc with its mark (02 R54, 05 R142). -/
def thirdSource (s : State) (d : Nat) : Nat × Bool :=
  match s.unit.extReg with
  | none => (d, false)
  | some p => (p.toNat % 64, bitOf p.toNat 6)

/-- The lookahead of majors 0x28 to 0x2A (02 R54, R60). -/
def extLookahead (s : State) : Nat :=
  match s.unit.extReg with
  | none => 0
  | some p => bitsOf p.toNat 7 4

/-- The names a last-read mark frees: `w` registers from `n` (02 R59). -/
def mark (x : BitVec 1) (n w : Nat) : List Nat := if x = 1 then (List.range w).map (fun j => n + j) else []

/-- Address of the instruction itself within its unit: after its guard and its extension (02 R51, R54). -/
def bodyAddr (s : State) : DWord :=
  s.unit.addr + (if s.unit.guard.isSome then 2 else 0) + (if s.unit.extImm.isSome || s.unit.extReg.isSome then 4 else 0)

/-- The target of a B form (02 R51, R54): halfwords relative to the branch instruction. -/
def branchTarget (s : State) (o : BitVec 19) : DWord :=
  match s.unit.extImm with
  | none => bodyAddr s + (o.signExtend 64 <<< 1)
  | some p => bodyAddr s + ((p ++ o.setWidth 9).signExtend 64 <<< 1)

/-- A lane's index of an M form: 0 for "no index", else the signed value of vi (02 R50). -/
def laneIndex (g : Group) (vi l : Nat) : Int := if vi = 63 then 0 else (g.vlane vi l).toInt

/-- Names freed by lr, the index register's mark (02 R50, R59). -/
def indexMark (r : BitVec 1) (vi : BitVec 6) : List Nat := if vi = 63 then [] else mark r vi.toNat 1

/-- The virtual address of a lane (06 R176): the exact sum, then the low 64 bits. `kp` numbers the uniform pair. -/
def laneEa (s : State) (g : Group) (kp vi size l : Nat) : DWord :=
  BitVec.ofInt 64 ((g.kpair (2 * kp)).toNat + laneIndex g vi l * size + byteOffset s)

/-- The scratchpad or window offset of a lane, exact (06 R177, R178). -/
def laneOff (s : State) (g : Group) (k vi size l : Nat) : Int :=
  ((g.kread k).toNat : Int) + laneIndex g vi l * size + byteOffset s

/-- The address of a form that acts once: vi is 63 (06 R176). -/
def unitEa (s : State) (g : Group) (kp : Nat) : DWord := laneEa s g kp 63 1 0

/-- The scope field of a fence (02 R13, 07 R221). -/
inductive Scope where
  | grp | team | clu | die | dev | sys
  deriving DecidableEq, Repr

/-- Scopes by code; 6 and 7 are illegal and never reach a meaning. -/
def scopeOf (s : BitVec 3) : Scope :=
  match s.toNat with
  | 0 => .grp | 1 => .team | 2 => .clu | 3 => .die | 4 => .dev | _ => .sys

end Sys2Proof.Machine
end

