-- ==== Sys2Proof/Machine/Begin.lean ====
section
/-! DEFINITION. Issuing engine operations: lookahead windows (02 R60), replay limits (04 R127), range-lock entries (03 R97 to R100, 06 R192). -/

namespace Sys2Proof.Machine

open Sys2Proof

/-- Operations in flight of a group. -/
def groupOps (s : State) (key g : Nat) : List (Nat × Op) := s.ops.filter (fun o => o.2.team == key && o.2.group == g)

/-- Operations that can still fault or be abandoned (04 R127). -/
def canReplay (o : Op) : Bool :=
  match o.body with
  | .mwait _ | .att _ | .pass _ | .conv _ => true
  | .link l => match l.form with | .lld | .lgat | .windowLoad | .windowStore | .windowWait | .windowRef | .windowLaunch => true | _ => false
  | _ => false

/-- A split is inside a unit that a drain abandons (04 R127). -/
def Split.abandons (sp : Split) : Bool := match sp.wait with | .bwait .. => true | .tsync _ => true | .clsync _ => true | _ => false

/-- A group has 8 units that can still fault or be abandoned: a ninth waits at issue (04 R127). -/
def replayFull (s : State) (c : Ctx) : Bool :=
  decide (((groupOps s c.key c.group.num).filter (fun o => canReplay o.2)).length + (c.live.splits.filter Split.abandons).length ≥ 8)

/-- An operation of the issuing unit. -/
def opOf (s : State) (c : Ctx) (lanes : BitVec 32) (body : OpBody) : Op :=
  { team := c.key, group := c.group.num, split := c.split.idx, core := c.core, queue := c.team.queue, grid := c.team.grid
    unit := s.unit.addr, npc := s.unit.npc, lanes := lanes, mask := c.split.mask, issued := s.cycle, halted := false, own := none, made := [], marked := [], body := body }

/-- Put an operation in flight; the split may issue `look` more units before it completes (02 R60). The unit has ended. -/
def beginOp (s : State) (c : Ctx) (lanes : BitVec 32) (look : Nat) (body : OpBody) : State :=
  let id := s.nextOp
  ({ s.named with ops := tabPut s.ops id (opOf s c lanes body) }).modGroup c.key c.group.num
    (fun g => g.modSplit c.split.idx (fun sp => { sp with windows := sp.windows ++ [(id, look)] }))

/-- The registers of an operation that can still trap: names that it creates hold a value from its issue on (04 R122, R123), its marks free
theirs, and both are remembered in its record. -/
def Op.claims (o : Op) (g : Group) (e : Eff) : Op :=
  { o with made := created g e, marked := (e.frees.eraseDups.filterMap (fun n => (tabGet g.v n).map (fun x => (n, x)))) }

/-- Put an operation in flight that can still trap; `e` names the lane registers that it writes when it completes, with any value, and what its
unit does to registers at once. -/
def beginLoad (s : State) (c : Ctx) (e : Eff) (lanes : BitVec 32) (look : Nat) (body : OpBody) : State :=
  let id := s.nextOp
  let made := created c.live e
  let hold : Eff := { e with v := made.map (fun n => (n, 0xffffffff#32, fun _ => 0)) }
  let s' := beginOp (finish s c hold) c lanes look body
  { s' with ops := tabMod s'.ops id (fun o => o.claims c.live e) }

/-- The operation's record changes. -/
def State.putOp (s : State) (id : Nat) (o : Op) : State := { s with ops := tabPut s.ops id o }

/-! ### Range locks -/

/-- Enter entries in a core's table. -/
def enterLocks (s : State) (core : Nat) (ls : List RangeLock) : State :=
  s.modCore core (fun k => { k with locks := k.locks ++ ls })

/-- A virtual range meets an entry; a hull that passes 2^64 goes on at 0 (14 R406). -/
def RangeLock.meets (l : RangeLock) (va n : Nat) : Bool :=
  overlaps va (va + n) l.lo l.hi || overlaps (va + 2 ^ 64) (va + 2 ^ 64 + n) l.lo l.hi || overlaps va (va + n) (l.lo + 2 ^ 64) (l.hi + 2 ^ 64)

/-- Index of the first entry that a virtual access meets: a load meets write entries, a store every entry (03 R98). The index is the entry's
place in the list, which shifts when an earlier one is released: the manual does not say how entries are numbered (log 77). -/
def virtConflict (s : State) (core asid va n : Nat) (write : Bool) : Option Nat :=
  (s.core core).locks.findIdx? (fun l => l.asid == some asid && (write || l.write) && l.meets va n)

/-- The same for a scratchpad access of a team (06 R192). -/
def spadConflict (s : State) (core team o n : Nat) (write : Bool) : Option Nat :=
  (s.core core).locks.findIdx? (fun l => l.asid.isNone && l.team == team && (write || l.write) && overlaps o (o + n) l.lo l.hi)

end Sys2Proof.Machine
end

