-- ==== Sys2Proof/Machine/Peer.lean ====
section
/-! DEFINITION. Peers: the peer table (15 R430), flits (15 R432), requests and their first port (15 R435). -/

namespace Sys2Proof.Machine

open Sys2Proof

/-- Wall time in ticks of 1 / (50 · 2329089562800) microseconds, of which a cycle at each of the clock's frequencies, a multiple of 50 MHz up to 1500, has a whole
number: it does not stretch with a lowered clock (00 R4, 17 R487). -/
def wallNow (s : State) : Nat := s.fw.wallAt + (s.cycle - s.fw.wallCycle) * (2329089562800 / (s.fw.clockMhz / 50))

/-- Milliseconds in ticks. -/
def wallMs (n : Nat) : Nat := n * 50000 * 2329089562800

/-- A port has failed, from now on if it had not before (15 R435, 17 R474). -/
def Port.fails (p : Port) (now : Nat) : Port := { p with failedAt := some (p.failedAt.getD now) }

/-- A bound slot of a queue's peer table (15 R430): window base, device, remote queue. An entry with a reserved bit set is refused (01 R12). -/
def peerSlot (s : State) (q : Queue) (slot : Nat) : Option (Nat × Nat × Nat) :=
  let e := s.num (q.ptab + 16 * slot) 16
  if bitOf e 0 && bitsOf e 1 35 == 0 then some (bitsOf e 64 64, bitsOf e 48 16, bitsOf e 36 12) else none

/-- Ports towards a device that are up, in ascending order whatever order the route table lists them in (15 R435). -/
def portsTo (s : State) (dev : Nat) : List Nat :=
  (List.range 12).filter (fun p => (Config.routePorts s.fw.routes dev).contains p && match tabGet s.ports p with | some x => x.up | none => false)

/-- The first port; 12 where none is up, and the request waits for one. -/
def firstPort (s : State) (dev : Nat) : Nat := (portsTo s dev).headD 12

/-- The next port after one that failed, wrapping round (15 R435). -/
def nextPort (s : State) (dev p : Nat) : Nat := ((portsTo s dev).find? (fun x => decide (x > p))).getD (firstPort s dev)

/-- Home die of an address of the peer window: the die of the port by which a queue reaches the slot's peer (07 R207). -/
def peerDie (s : State) (q : Queue) (pa : Nat) : Nat :=
  homeDie s pa (match peerSlot s q ((pa - 0xe000000000) / 2 ^ 33) with | some x => firstPort s x.2.1 | none => 0)

/-- Kinds of request: the codes of the header's op field are not given (log 14). An update names its type: 0 `.f32`, 1 `.i32`, 2 `.n32`,
3 `.bf16x2` (15 R436). -/
def kindFetch : Nat := 0
def kindStore : Nat := 1
def kindReduce : Nat := 2
def kindReply : Nat := 3
def kindUpdate (ty : Nat) : Nat := 4 + ty
def kindCommand : Nat := 8
def kindAnswer : Nat := 9

/-- A header (15 R432). -/
def flitHeader (q : Queue) (qn dev rq tag kind cls len vc status : Nat) : BitVec 160 :=
  BitVec.ofNat 160 (packBits [(8, 0), (4, status), (3, 0), (3, vc), (6, (Config.flitOp kind).toNat), (8, len), (24, tag), (16, dev),
    (16, Config.device), (12, rq), (12, qn), (16, cls), (32, q.identity.toNat)])

/-- The header of a management flit with one record (15 R432, 17 R470). No queue is behind it. -/
def mgmtHeader (dev kind : Nat) : BitVec 160 :=
  BitVec.ofNat 160 (packBits [(18, 0), (6, (Config.flitOp kind).toNat), (8, 64), (24, 0), (16, dev), (16, Config.device), (72, 0)])

/-- Cut a payload into the parts that flits carry: at most 228 bytes of one class each (15 R432). A message without data is one flit. -/
def cutFlits : Runs → List Byte → List (Option (BitVec 16) × List Byte)
  | [], bs => if bs.isEmpty then [] else (chunks ((bs.length + 227) / 228) 228 bs).map (fun d => (none, d))
  | r :: t, bs =>
    let d := bs.take r.1
    (if d.isEmpty then [] else (chunks ((d.length + 227) / 228) 228 d).map (fun x => (r.2, x))) ++ cutFlits t (bs.drop r.1)

/-- The class field of a header: 0 where the payload carries none. -/
def classField (c : Option (BitVec 16)) : Nat := match c with | some k => k.toNat | none => 0

/-- Send a request or its data. Nothing leaves while no port is up. -/
def sendFlits (s : State) (port : Nat) (q : Queue) (qn dev rq tag kind va : Nat) (runs : Runs) (data : List Byte) : State :=
  if port ≥ 12 then s else
  let parts := if data.isEmpty then [(none, [])] else cutFlits runs data
  { s with sent := (parts.map (fun d => { port := port, header := flitHeader q qn dev rq tag kind (classField d.1) d.2.length 1 0, payload := d.2
                                          va := va : Flit })).reverse ++ s.sent }

/-- Request tags are new for every request (15 R435). -/
def newTag (s : State) : Nat := s.nextOp % 2 ^ 24

/-- A lane that needs no request: its bytes are at hand. -/
def LinkReq.near (lane at_ n now : Nat) (bytes : List Byte) : LinkReq :=
  { tag := 0, lane := lane, also := [], at_ := at_, slot := 0, va := 0, n := n, dev := 0, rq := 0, kind := kindFetch, runs := [], data := [], got := bytes
    denied := none, port := 12, sent := now, done := some (.arrived bytes []) }

/-- Send a request on its port. -/
def sendReq (s : State) (qn : Nat) (q : Queue) (r : LinkReq) : State :=
  sendFlits s r.port q qn r.dev r.rq r.tag r.kind r.va.toNat r.runs r.data

/-- The requests of one operation, one for each lane, piece or rank: the record kept for each, and the flits sent. Each entry gives the lane,
the local address, the remote address, the bytes asked or sent, and the data; `runs` are the classes of data. -/
def sendReqs (s : State) (q : Queue) (qn dev rq slot kind : Nat) (runs : Runs) : List (Nat × Nat × Nat × Nat × List Byte) → State × List LinkReq
  | [] => (s, [])
  | (lane, at_, va, n, data) :: t =>
    let r : LinkReq := { tag := newTag s, lane := lane, also := [], at_ := at_, slot := slot, va := BitVec.ofNat 64 va, n := n, dev := dev, rq := rq, kind := kind
                         runs := runs, data := data, got := [], denied := none, port := firstPort s dev
                         sent := s.cycle, done := none }
    let s := (sendReq s qn q r).named
    let (s, rs) := sendReqs s q qn dev rq slot kind runs t
    (s, r :: rs)

end Sys2Proof.Machine
end

