-- ==== Sys2Proof/Machine/Lsu.lean ====
section
/-! DEFINITION. The checks and the shared course of a group's memory accesses (06 R176 to R180, R190, 07 R210, R213, R214, R227, R236,
R237). Every condition of every acting lane is evaluated before any lane acts (06 R179). -/

namespace Sys2Proof.Machine

open Sys2Proof

/-- What an access does: a load, a store, an atomic or reduction, or a bank update. -/
inductive Acc where
  | load | store | atomic | bank
  deriving DecidableEq, Repr

def Acc.writes (a : Acc) : Bool := a != .load

/-- Access and kind codes of fault records and audit events (07 R239, R241). -/
def Acc.code (a : Acc) : Nat := match a with | .load => 0 | .store => 1 | .atomic => 2 | .bank => 2

/-- Path of an audit event (07 R239). -/
def Acc.path (a : Acc) : Nat := match a with | .load => 0 | .store => 0 | .atomic => 2 | .bank => 2

/-- A condition of one lane; without a second detail word the offending lanes are reported. -/
structure LaneTrap where
  lane : Nat
  code : Nat
  d0 : Nat
  d1 : Option Nat
  deriving DecidableEq, Repr

/-- What one lane's access meets. -/
structure Look where
  lane : Nat
  va : Nat
  n : Nat
  traps : List LaneTrap
  fault : Option (Nat × Nat)
  piece : Option Piece
  denied : Option Nat
  /-- Denied bytes (07 R239). -/
  count : Nat := 0
  deriving DecidableEq, Repr

/-- The lowest code among lane conditions, with its lanes (01 R40, 06 R179). `whole` replaces the lanes of a form that acts once. -/
def condsOf (whole : Option (BitVec 32)) (ls : List LaneTrap) : List Cond :=
  match (ls.map (·.code)).min? with
  | none => []
  | some m =>
    let xs := ls.filter (fun t => t.code == m)
    let lanes := whole.getD (maskOf (fun l => xs.any (fun t => t.lane == l)))
    match xs with
    | [] => []
    | t :: _ => [{ code := m, d0 := t.d0, d1 := t.d1.getD lanes.toNat, lanes := lanes }]

/-- Conditions of the page's region (07 R214, R227, 06 R178, R195, 13 R399, 15 R430). -/
def regionTraps (s : State) (c : Ctx) (acc : Acc) (lane va n : Nat) (p : Piece) : List LaneTrap :=
  if p.x.region = 1 then (rawCode s c.team.queue c.q va n acc.writes).map (fun k => ⟨lane, k, va, none⟩)
  else if p.x.region = 2 then
    match placeOf s p.pa with
    | some .window =>
      if acc = .bank then [⟨lane, 0x24, va, some 2⟩]
      else
        let o := (p.pa - 0x8000000000) % 2 ^ 26
        (if (windowTeam s c.team.grid ((p.pa - 0x8000000000) / 524288) (p.pa % 524288) n).isNone then [⟨lane, 0x13, o, none⟩] else []) ++
        (match (if acc.writes then tagIn s p.pa n else none) with | some g => [⟨lane, 0x14, (g - 0x8000000000) % 2 ^ 26, none⟩] | none => [])
    | some .peer =>
      if acc = .atomic || acc = .bank then [⟨lane, 0x24, va, some 2⟩]
      else if (peerSlot s c.q ((p.pa - 0xe000000000) / 2 ^ 33)).isNone then [⟨lane, 0x73, (p.pa - 0xe000000000) / 2 ^ 33, some c.team.queue⟩]
      else []
    | _ => if acc = .atomic || acc = .bank then [⟨lane, 0x24, va, some 2⟩] else []
  else []

/-- The conditions of a misaligned access that have a lower code than its misalignment: those of the scratchpad window, on each of its pages
(01 R40, 06 R179, 07 R213). -/
def skewTraps (s : State) (c : Ctx) (acc : Acc) (last : Option Xlat) (lane va n : Nat) : List LaneTrap :=
  ((pageCuts va n).flatMap (fun k =>
    match translate s c.q last (some c.core) (dieOf c.core) k.1 acc.writes with
    | (.leaf x, w) => regionTraps s c acc lane k.1 k.2 { va := k.1, pa := x.pa k.1, n := k.2, x := x, walked := w }
    | _ => [])).filter (fun t => decide (t.code < 0x20))

/-- Look at one lane's access of `n` bytes, aligned to `al`. `locks` tells whether it is an access of the core's own memory
port: the range-lock table is checked, and a load reads through the L1. -/
def lookAt (s : State) (c : Ctx) (acc : Acc) (last : Option Xlat) (locks : Bool) (lane va n al : Nat) (ro : Bool := false) : Look :=
  let t0 := (if canonical (BitVec.ofNat 64 va) then [] else [⟨lane, 0x11, va, none⟩]) ++
    (if va % al = 0 then [] else [⟨lane, 0x20, va, none⟩])
  let t1 := if locks then
      match virtConflict s c.core c.q.asid va n acc.writes with | some i => [⟨lane, 0x10, va, some i⟩] | none => []
    else []
  if !t0.isEmpty then
    { lane := lane, va := va, n := n, fault := none, piece := none, denied := none
      traps := t0 ++ t1 ++ (if canonical (BitVec.ofNat 64 va) then skewTraps s c acc last lane va n else []) }
  else match translate s c.q last (some c.core) (dieOf c.core) va acc.writes with
    | (.invalid l e, _) => { lane := lane, va := va, n := n, traps := t1, fault := some (l, e), piece := none, denied := none }
    | (.malformed l e, _) =>
      { lane := lane, va := va, n := n, traps := t1 ++ [⟨lane, 0x23, va, some (entryWithLevel l e)⟩], fault := none, piece := none, denied := none }
    | (.bad g, _) => { lane := lane, va := va, n := n, traps := t1 ++ [⟨lane, 0x25, va, some g⟩], fault := none, piece := none, denied := none }
    | (.leaf x, w) =>
      let via := if acc = .load && locks then (if ro then Via.ro c.core else .l1 c.core) else .slice
      let p : Piece := { va := va, pa := x.pa va, n := n, x := x, walked := w, via := via }
      let dn := deniedClass s c.q p
      let t2 := (match dn with | some k => if acc.writes then [⟨lane, 0x21, va, some k⟩] else [] | none => []) ++
        (if acc.writes && p.readOnly then [⟨lane, 0x22, va, some x.leaf.toNat⟩] else []) ++ regionTraps s c acc lane va n p ++
        (if dn.isSome then [] else
          match (if acc = .store then badPart s p.pa n else badIn s p.pa n) with | some g => [⟨lane, 0x25, va, some g⟩] | none => [])
      { lane := lane, va := va, n := n, traps := t1 ++ t2, fault := none, piece := some p, denied := dn, count := deniedCount s c.q p }

/-- Looks of a unit's acting lanes. -/
def looksOf (s : State) (c : Ctx) (acc : Acc) (m : BitVec 32) (n : Nat) (ea : Nat → Nat) (ro : Bool := false) : List Look :=
  (lanesOf m).map (fun l => lookAt s c acc (tabGet c.group.lastPage l) true l (ea l) n n ro)

/-- The page fault of a unit, if a lane met an invalid entry: the lowest lane's (07 R241). -/
def faultOf (whole : Option (BitVec 32)) (acc : Acc) (looks : List Look) : Option FaultInfo :=
  match looks.filter (fun k => k.fault.isSome) with
  | [] => none
  | k :: t =>
    let lanes := whole.getD (maskOf (fun l => (k :: t).any (fun j => j.lane == l)))
    k.fault.map (fun f => { va := k.va, lanes := lanes, level := f.1, entry := f.2, access := acc.code, source := 0 })

/-- The audit event of a unit with denied lanes: one per unit (06 R190, 07 R239). -/
def denialEvent (s : State) (c : Ctx) (whole : Option (BitVec 32)) (path kind : Nat) (looks : List Look) : State :=
  match looks.filter (fun k => k.denied.isSome) with
  | [] => s
  | k :: t =>
    let ds := k :: t
    let lanes := whole.getD (maskOf (fun l => ds.any (fun j => j.lane == l)))
    let bytes := (ds.map (·.count)).foldl (· + ·) 0
    unitAudit s c k.va lanes.toNat bytes ((ds.filterMap (·.denied)).min?.getD 0) path kind

/-- Pieces that a unit reaches. -/
def piecesOf (looks : List Look) : List Piece := looks.filterMap (·.piece)

/-- A location of the peer window: its slot, and its address at the remote (15 R434). -/
def peerPlace (s : State) (q : Queue) (pa : Nat) : Option (Nat × Nat) :=
  let off := pa - 0xe000000000
  if placeOf s pa == some .peer then (peerSlot s q (off / 2 ^ 33)).map (fun x => (off / 2 ^ 33, (x.1 + off % 2 ^ 33) % 2 ^ 64)) else none

/-- The forms that stand for ordinary accesses through the peer window (15 R434). -/
def LinkForm.isWindow (f : LinkForm) : Bool :=
  match f with | .windowLoad | .windowStore | .windowWait | .windowRef | .windowLaunch => true | _ => false

/-- A lane of a store through the peer window that does not lie in it: its bytes are written when the unit completes, at the address that it
keeps. -/
def LinkReq.isNearStore (r : LinkReq) : Bool := r.tag == 0 && r.port == 12 && r.kind == kindStore

/-- An earlier access of the split that is still in flight touches physical bytes: same-location order makes the later access wait (03 R89). -/
def meetsEarlier (s : State) (c : Ctx) (pa n : Nat) (o : Op) : Bool :=
  match o.body with
  | .mwait w =>
    (match translate s c.q none (some c.core) (dieOf c.core) w.va.toNat false with
      | (.leaf x, _) => overlaps pa (pa + n) (x.pa w.va.toNat) (x.pa w.va.toNat + 8)
      | _ => false)
  | .link l =>
    l.form.isWindow && l.reqs.any (fun r =>
      (r.isNearStore && overlaps pa (pa + n) r.va.toNat (r.va.toNat + r.n)) ||
      (r.done.isNone && match peerPlace s c.q pa with
        | some (slot, va) => r.slot == slot && overlaps va (va + n) r.va.toNat (r.va.toNat + r.n)
        | none => false))
  | _ => false

/-- Some earlier access of the issuing split, still inside its lookahead window, touches physical bytes. -/
def behindEarlier (s : State) (c : Ctx) (pa n : Nat) : Bool :=
  c.split.windows.any (fun w => match tabGet s.ops w.1 with | some o => meetsEarlier s c pa n o | none => false)

/-- The access waits: a write aimed at a page in migration is held at its home slice, and so is the flush of a line that the access meets
(07 R219, R233); or an earlier access of its split to the same bytes is in flight. -/
def mustWait (s : State) (c : Ctx) (acc : Acc) (looks : List Look) : Bool :=
  (piecesOf looks).any (fun p => (acc.writes && heldByMigration s p.pa p.n) || behindEarlier s c p.pa p.n ||
    flushHeld s c.core (fun u => overlaps p.pa (p.pa + p.n) u.pa (u.pa + 128)))

/-- A bank update of the team has not been flushed, and so is not performed (07 R218): an acquire waits for it (03 R93, R94, 07 R222, log 34). -/
def ownUpdates (s : State) (c : Ctx) : Bool := (s.core c.core).upd.any (fun u => u.team == c.key)

/-- Accesses of a split that a fence orders and that are not performed: an `mwait` that has not returned, and accesses through the
peer window. Every other access of the model is performed in its own step (log 6). -/
def inFlight (s : State) (stores : Bool) (sp : Split) : Bool :=
  sp.windows.any (fun w =>
    match (tabGet s.ops w.1).map Op.body with
    | some (.mwait _) => true
    | some (.link l) =>
      (match l.form with | .windowLoad | .windowWait | .windowRef | .windowLaunch => true | .windowStore => stores | _ => false)
    | _ => false)

/-- The context of a unit in flight: only the operations that its split issued before it are earlier than it. -/
def Ctx.before (c : Ctx) (id : Nat) : Ctx := { c with split := { c.split with windows := c.split.windows.filter (fun w => decide (w.1 < id)) } }

/-- The return of an `mwait` is an acquire (03 R94): it waits for what an acquire waits for, of the accesses before it. -/
def returnWaits (s : State) (c : Ctx) (id : Nat) : Bool := inFlight s false (c.before id).split || ownUpdates s c

/-- The walks that a unit's lanes made, whatever becomes of the unit: accessed and dirty bits, and the caches (07 R228, R229). -/
def noteWalks (s : State) (c : Ctx) (write : Bool) (looks : List Look) : State :=
  (piecesOf looks).foldl (fun s p => if p.walked then noteXlat s (some c.core) (dieOf c.core) p.x write true else s) s

/-- What happens before the bytes are reached: update-only lines that they meet are flushed (07 R219), and write-combining entries that they
read are closed (12 R363). -/
def settle (s : State) (c : Ctx) (looks : List Look) : State :=
  (piecesOf looks).foldl (fun s p =>
    let s := flushMet s c.core p.pa p.n
    if p.x.region = 1 then closeRead s c.team.queue p.va p.n else s) s

/-- What the accesses leave in page tables, translation caches, last-page registers and line classes (07 R228, R236, 06 R180). -/
def noteLooks (s : State) (c : Ctx) (write lastPages : Bool) (looks : List Look) : State :=
  looks.foldl (fun s k =>
    match k.piece with
    | none => s
    | some p =>
      let s := noteXlat s (some c.core) (dieOf c.core) p.x write p.walked
      let s := if p.x.region = 2 || k.denied.isSome then s else s.fill p.via.fills p.pa p.n c.q.identity.toNat p.x.cls
      if lastPages && p.x.region != 1 then
        s.modGroup c.key c.group.num (fun g => { g with lastPage := tabPut g.lastPage k.lane (noted p.x write p.walked) })
      else s) s

/-- THE COURSE OF A MEMORY UNIT (06 R179): the lowest trap code; else a fault; else it waits for registers or holds; else it takes
effect by `act`, with one audit event where a read was denied. A denied write's event comes with its trap 0x21. `hold` is a further reason
to wait. -/
def memCourse (s : State) (c : Ctx) (whole : Option (BitVec 32)) (acc : Acc) (path : Nat) (looks : List Look) (extra : List Cond)
    (e : Eff) (act : State → State) (hold : Bool := false) : State :=
  match lowest (peakCond c e ++ extra ++ condsOf whole (looks.flatMap (·.traps))) with
  | some t =>
    takeTrap (noteWalks (if t.code = 0x21 then denialEvent s c whole path (acc.code) looks else s) c acc.writes looks) (unitSite s c) t
  | none =>
    match faultOf whole acc looks with
    | some f => takeFault (noteWalks s c acc.writes looks) (unitSite s c) f
    | none =>
      if !poolOk c e then askRegs s c
      else if mustWait s c acc looks || hold then noteWalks s c acc.writes looks
      else act (if acc.writes then s else denialEvent s c whole path 0 looks)

/-! ### Values -/

/-- The little-endian number that a lane's load delivers; denied bytes are zeros. -/
def loadNum (s : State) (c : Ctx) (looks : List Look) (l : Nat) : Nat :=
  match looks.find? (fun k => k.lane == l) with
  | some k => match k.piece with | some p => natOfBytes (readPiece s c.q p) | none => 0
  | none => 0

/-- The same for `ld.ro` (06 R183, 03 R85). -/
def roNum (s : State) (c : Ctx) (looks : List Look) (l : Nat) : Nat :=
  match looks.find? (fun k => k.lane == l) with
  | some k => match k.piece with | some p => natOfBytes (readOnlyPath s c.q c.team.grid p) | none => 0
  | none => 0

/-- A loaded value as words of its register, pair or quad; below four bytes it is extended (06 R182). -/
def extendTo (n : Nat) (sx : Bool) (v : Nat) : Nat := if sx && decide (n < 4) then (wordOfInt (signedOf (8 * n) v)).toNat else v
def loadWrites (d n : Nat) (m : BitVec 32) (f : Nat → Nat) : List (Nat × BitVec 32 × (Nat → Word)) :=
  (List.range ((n + 3) / 4)).map (fun j => (d + j, m, fun l => BitVec.ofNat 32 (f l / 2 ^ (32 * j))))

/-- The bytes that a lane stores from its register, pair or quad, read at issue (04 R121). -/
def storeBytes (g : Group) (d n l : Nat) : List Byte := bytesOf n (natOfBytes ((List.range ((n + 3) / 4)).flatMap (fun j => bytesOf 4 (g.vlane (d + j) l).toNat)))

/-- A lane's access lies in the peer window, and the local check lets it leave (15 R434, 07 R236): a load whose translation's class is denied
reads zeros here (07 R237). -/
def Look.remote (s : State) (k : Look) : Bool :=
  match k.piece with
  | some p => p.x.region == 2 && placeOf s p.pa == some .peer && k.denied.isNone
  | none => false

/-- The lanes of a unit that name the same remote bytes as a look: accesses of one unit are aligned and of one size, so that two of them
coincide or are disjoint. -/
def sameBytes (looks : List Look) (k : Look) : List Nat := (looks.filter (fun j => j.piece.map (·.pa) == k.piece.map (·.pa))).map (·.lane)

/-- The requests of the remote lanes, one for each set of lanes that name the same bytes, in the lowest lane's name: a load's lanes share the
answer (03 R86), and the highest lane's bytes are the ones stored (03 R87). Every request goes to the peer that its window offset selects. -/
def windowReqs (s : State) (c : Ctx) (kind : Nat) (data : Nat → List Byte) (looks : List Look) : State × List LinkReq :=
  looks.foldl (fun (a : State × List LinkReq) k =>
    let lanes := sameBytes looks k
    match k.piece with
    | none => a
    | some p =>
      let off := p.pa - 0xe000000000
      if lanes.headD k.lane ≠ k.lane then a else
      match peerSlot a.1 c.q (off / 2 ^ 33) with
      | none => a
      | some (wbase, dev, rq) =>
        let (s', rs) := sendReqs a.1 c.q c.team.queue dev rq (off / 2 ^ 33) kind [(k.n, some (BitVec.ofNat 16 p.x.cls))]
          [(k.lane, k.va, (wbase + off % 2 ^ 33) % 2 ^ 64, k.n, data (lanes.foldl Nat.max k.lane))]
        (s', a.2 ++ rs.map (fun r => { r with also := lanes.drop 1 }))) (s, [])

/-- The lanes of a unit that lie outside the peer window, beside others that lie in it: a load's have their bytes, a store's wait for the unit to
complete, with their physical addresses, since a unit that traps writes no lane (15 R434, R437, 06 R179). -/
def nearReq (s : State) (acc : Acc) (bytes : Nat → List Byte) (k : Look) : LinkReq :=
  let r := LinkReq.near k.lane k.va k.n s.cycle (bytes k.lane)
  if acc.writes then { r with va := BitVec.ofNat 64 ((k.piece.map (·.pa)).getD 0), kind := kindStore, data := bytes k.lane, got := [] } else r

/-- The accesses of a unit of which a lane lies in the peer window: what the lanes leave behind, and a request for each. `acc` tells loads and stores
apart, `ro` the read-only path; `data` are the bytes that lanes store. -/
def windowBegin (s : State) (c : Ctx) (acc : Acc) (dirty lastPages ro : Bool) (data : Nat → List Byte) (looks : List Look) : State × List LinkReq :=
  let s1 := settle s c looks
  let bytes := fun l => if acc.writes then data l else
    match looks.find? (fun k => k.lane == l) with
    | some k => bytesOf k.n (if ro then roNum s1 c looks l else loadNum s1 c looks l)
    | none => []
  let s2 := noteLooks s1 c dirty lastPages looks
  let (s3, reqs) := windowReqs s2 c (if acc.writes then kindStore else kindFetch) data (looks.filter (Look.remote s))
  (s3, (looks.filter (fun k => !k.remote s)).map (nearReq s acc bytes) ++ reqs)

/-- A link operation with nothing set but its form and its requests. -/
def Link.of (form : LinkForm) (reqs : List LinkReq) : Link :=
  { form := form, peer := 0, size := 0, shape := 0, vd := 0, pd := 0, nt := false, sx := false, dst := 0, len := 0, src := 0, srcSp := .mem, ty := 0
    rs := false, stamp := none, begun := true, reqs := reqs, lanes := [], ro := false, fmt := .bf16, nb := 0, desc := 0, run := [], until_ := 0, cause := 0, denied := false
    audited := false, fault := 0, retried := 0 }

/-- A link operation that stands for an ordinary access through the peer window (15 R434), with its lanes' looks. -/
def windowOp (form : LinkForm) (shape n d : Nat) (sx ro : Bool) (looks : List Look) (data : Nat → List Byte) (reqs : List LinkReq) : OpBody :=
  .link { Link.of form reqs with shape := shape, size := n, vd := d, sx := sx, ro := ro, lanes := looks.map (fun k => (k.lane, k.va, data k.lane)) }

/-! ### Scratchpad accesses (06 R177, R178, R186, R192, R195) -/

/-- What one lane's scratchpad access meets: its conditions and its physical address. -/
structure SpadLook where
  lane : Nat
  pa : Nat
  n : Nat
  traps : List LaneTrap
  deriving DecidableEq, Repr

/-- An offset as a detail word: an offset below zero is written in two's complement, which the manual does not say (log 78). -/
def offWord (o : Int) : Nat := (BitVec.ofInt 64 o).toNat

/-- An access of a lane to its team's allocation (06 R177). -/
def lookSpad (s : State) (c : Ctx) (write : Bool) (lane : Nat) (o : Int) (n : Nat) : SpadLook :=
  let k := o.toNat
  let inside := decide (0 ≤ o) && decide (k + n ≤ c.team.spadSize)
  { lane := lane, pa := spadAddr c.core (c.team.spadOff + k), n := n
    traps := (if inside then [] else [⟨lane, 0x12, offWord o, some c.team.spadSize⟩]) ++
      (if o % n = 0 then [] else [⟨lane, 0x20, offWord o, none⟩]) ++
      (match (if 0 ≤ o + n then spadConflict s c.core c.key k (o + n - k).toNat write else none) with
        | some i => [⟨lane, 0x10, offWord o, some i⟩]
        | none => []) ++
      (match (if write && inside then teamTag s c.team k n else none) with | some g => [⟨lane, 0x14, g, none⟩] | none => []) }

/-- An access of a lane through the die window (06 R178). Only an access that lies wholly in the team's own allocation is converted to its offsets
and checked against its entries: the manual does not say what one that straddles the allocation's edge meets besides 0x13 (log 102). -/
def lookWindow (s : State) (c : Ctx) (write : Bool) (lane : Nat) (o : Int) (n : Nat) : SpadLook :=
  let k := o.toNat
  let core := dieOf c.core * 128 + k / 524288
  let off := k % 524288
  let team := if decide (0 ≤ o) && decide (k + n ≤ 67108864) then windowTeam s c.team.grid core off n else none
  { lane := lane, pa := spadAddr core off, n := n
    traps := (if team.isSome then [] else [⟨lane, 0x13, offWord o, none⟩]) ++
      (if o % n = 0 then [] else [⟨lane, 0x20, offWord o, none⟩]) ++
      (match (if team == some c.key then spadConflict s c.core c.key (off - c.team.spadOff) n write else none) with
        | some i => [⟨lane, 0x10, offWord o, some i⟩]
        | none => []) ++
      (match (if write && team.isSome then tagIn s (spadAddr core off) n else none) with
        | some g => [⟨lane, 0x14, (g - 0x8000000000) % 2 ^ 26, none⟩]
        | none => []) }

/-- The course of a scratchpad unit: no translation and no grant set (06 R186). A unit that meets no trap waits for an earlier access of its split
to the same bytes (03 R89). -/
def spadCourse (s : State) (c : Ctx) (looks : List SpadLook) (e : Eff) (act : State → State) : State :=
  let conds := condsOf none (looks.flatMap (·.traps))
  if (lowest (peakCond c e ++ conds)).isNone && looks.any (fun k => behindEarlier s c k.pa k.n) then s else unitWith s c conds e act

/-- The number that a lane loads from scratchpad. -/
def spadNum (s : State) (looks : List SpadLook) (l : Nat) : Nat :=
  match looks.find? (fun k => k.lane == l) with
  | some k => s.num k.pa k.n
  | none => 0

end Sys2Proof.Machine
end

