-- ==== Sys2Proof/Machine/Atomic.lean ====
section
/-! DEFINITION. Atomics, reductions, bank updates and fences (07 R211 to R222). -/

namespace Sys2Proof.Machine

open Sys2Proof

/-! ### Element operations -/

/-- The operations of `atom` and `red`, in func order (07 R212). -/
inductive AtomOp where
  | add | min | max | and | or | xor | exch | cas
  deriving DecidableEq, Repr

/-- Bytes under a type: 0 `.n32`, 1 `.i32`, 2 `.n64`, 3 `.f32` (02 R66, 07 R212). -/
def atomBytes (ty : BitVec 2) : Nat := if ty = 2 then 8 else 4

/-- The new value of a location (07 R212). -/
def atomNew (op : AtomOp) (ty : BitVec 2) (old b cmp : Nat) : Nat :=
  let less := if ty = 1 then decide (signedOf 32 old < signedOf 32 b) else decide (old < b)
  match op with
  | .add => if ty = 3 then (f32Bits (faddRne (f32Num (BitVec.ofNat 32 old)) (f32Num (BitVec.ofNat 32 b)))).toNat
            else (old + b) % 2 ^ (8 * atomBytes ty)
  | .min => if less then old else b
  | .max => if less then b else old
  | .and => Nat.land old b
  | .or => Nat.lor old b
  | .xor => Nat.xor old b
  | .exch => b
  | .cas => if old = cmp then b else old

/-- A lane's operand: a register, or a pair under `.n64`. -/
def laneNum (g : Group) (n r l : Nat) : Nat := if n = 8 then (g.vpair r l).toNat else (g.vlane r l).toNat

/-- A lane's address in an even pair. -/
def pairEa (g : Group) (a : BitVec 5) (l : Nat) : Nat := (g.vpair (2 * a.toNat) l).toNat

/-- Lanes act in ascending order as one sequence: the state after them, and each lane's old value (07 R212, 03 R88). -/
def sequence (n : Nat) (new : Nat → Nat → Nat) : State → List Look → State × List (Nat × Nat)
  | s, [] => (s, [])
  | s, k :: t =>
    match k.piece with
    | none => sequence n new s t
    | some p =>
      let old := s.num p.pa n
      let r := sequence n new (s.writeNum p.pa n (new k.lane old)) t
      (r.1, (k.lane, old) :: r.2)

/-- Old value of a lane. -/
def oldOf (os : List (Nat × Nat)) (l : Nat) : Nat := ((os.find? (fun o => o.1 == l)).map (·.2)).getD 0

/-- The course of `atom` and `red` (07 R212 to R215). `d` is the destination of `atom`. -/
def atomUnit (s : State) (c : Ctx) (op : AtomOp) (ty : BitVec 2) (y x : BitVec 1) (b : BitVec 6) (a : BitVec 5) (d : Option Nat) : State :=
  let n := atomBytes ty
  let m := acting s c
  let looks := looksOf s c .atomic m n (pairEa c.group a)
  let frees := mark x (2 * a.toNat) 2 ++ mark y b.toNat (n / 4)
  let writes := fun (f : Nat → Nat) => match d with | some r => loadWrites r n m f | none => []
  memCourse s c none .atomic 2 looks [] { frees := frees, v := writes (fun _ => 0) } fun s' =>
    let s1 := noteLooks (settle s' c looks) c true true looks
    let cmp := fun l => match d with | some r => laneNum c.group n r l | none => 0
    let r := sequence n (fun l old => atomNew op ty old (laneNum c.group n b.toNat l) (cmp l)) s1 looks
    finish r.1 c { frees := frees, v := writes (oldOf r.2) }

/-! ### atom (07 R212) -/

def execAtomAdd (m : BitVec 2) (y x : BitVec 1) (b : BitVec 6) (a : BitVec 5) (d : BitVec 6) (s : State) : Out :=
  issue s fun c => atomUnit s c .add m y x b a (some d.toNat)
def execAtomMin (m : BitVec 2) (y x : BitVec 1) (b : BitVec 6) (a : BitVec 5) (d : BitVec 6) (s : State) : Out :=
  issue s fun c => atomUnit s c .min m y x b a (some d.toNat)
def execAtomMax (m : BitVec 2) (y x : BitVec 1) (b : BitVec 6) (a : BitVec 5) (d : BitVec 6) (s : State) : Out :=
  issue s fun c => atomUnit s c .max m y x b a (some d.toNat)
def execAtomAnd (m : BitVec 2) (y x : BitVec 1) (b : BitVec 6) (a : BitVec 5) (d : BitVec 6) (s : State) : Out :=
  issue s fun c => atomUnit s c .and m y x b a (some d.toNat)
def execAtomOr (m : BitVec 2) (y x : BitVec 1) (b : BitVec 6) (a : BitVec 5) (d : BitVec 6) (s : State) : Out :=
  issue s fun c => atomUnit s c .or m y x b a (some d.toNat)
def execAtomXor (m : BitVec 2) (y x : BitVec 1) (b : BitVec 6) (a : BitVec 5) (d : BitVec 6) (s : State) : Out :=
  issue s fun c => atomUnit s c .xor m y x b a (some d.toNat)
def execAtomExch (m : BitVec 2) (y x : BitVec 1) (b : BitVec 6) (a : BitVec 5) (d : BitVec 6) (s : State) : Out :=
  issue s fun c => atomUnit s c .exch m y x b a (some d.toNat)
def execAtomCas (m : BitVec 2) (y x : BitVec 1) (b : BitVec 6) (a : BitVec 5) (d : BitVec 6) (s : State) : Out :=
  issue s fun c => atomUnit s c .cas m y x b a (some d.toNat)

/-! ### red (07 R212, R215) -/

def execRedAdd (m : BitVec 2) (y x : BitVec 1) (b : BitVec 6) (a : BitVec 5) (s : State) : Out :=
  issue s fun c => atomUnit s c .add m y x b a none
def execRedMin (m : BitVec 2) (y x : BitVec 1) (b : BitVec 6) (a : BitVec 5) (s : State) : Out :=
  issue s fun c => atomUnit s c .min m y x b a none
def execRedMax (m : BitVec 2) (y x : BitVec 1) (b : BitVec 6) (a : BitVec 5) (s : State) : Out :=
  issue s fun c => atomUnit s c .max m y x b a none
def execRedAnd (m : BitVec 2) (y x : BitVec 1) (b : BitVec 6) (a : BitVec 5) (s : State) : Out :=
  issue s fun c => atomUnit s c .and m y x b a none
def execRedOr (m : BitVec 2) (y x : BitVec 1) (b : BitVec 6) (a : BitVec 5) (s : State) : Out :=
  issue s fun c => atomUnit s c .or m y x b a none
def execRedXor (m : BitVec 2) (y x : BitVec 1) (b : BitVec 6) (a : BitVec 5) (s : State) : Out :=
  issue s fun c => atomUnit s c .xor m y x b a none

/-! ### bred (07 R217) -/

/-- Each acting lane's update is performed at the bank, past the update-only lines. -/
def bredUnit (s : State) (c : Ctx) (op : Nat) (ty : BitVec 2) (y x : BitVec 1) (b : BitVec 6) (a : BitVec 5) : State :=
  let looks := looksOf s c .bank (acting s c) 4 (pairEa c.group a)
  let frees := mark x (2 * a.toNat) 2 ++ mark y b.toNat 1
  memCourse s c none .bank 2 looks [] { frees := frees } fun s' =>
    let s1 := noteLooks (settle s' c looks) c true true looks
    let r := sequence 4 (fun l old => (bankUpd op ty.toNat (BitVec.ofNat 32 old) (c.group.vlane b.toNat l)).toNat) s1 looks
    finish r.1 c { frees := frees }

def execBredAdd (m : BitVec 2) (y x : BitVec 1) (b : BitVec 6) (a : BitVec 5) (s : State) : Out :=
  issue s fun c => bredUnit s c 0 m y x b a
def execBredMin (m : BitVec 2) (y x : BitVec 1) (b : BitVec 6) (a : BitVec 5) (s : State) : Out :=
  issue s fun c => bredUnit s c 1 m y x b a
def execBredMax (m : BitVec 2) (y x : BitVec 1) (b : BitVec 6) (a : BitVec 5) (s : State) : Out :=
  issue s fun c => bredUnit s c 2 m y x b a

/-! ### bupd (07 R218, R219) -/

/-- A line that a `bupd` names is flushed before it when it is bound otherwise, or holds another team's updates. -/
def boundElse (op ty key pa : Nat) (u : UpdLine) : Bool := u.pa == alignDown pa 128 && !(u.op == op && u.ty == ty && u.team == key)

/-- Merge one lane's value into an update-only line of the core; a 33rd line displaces one, by the implementation's choice (07 R219). -/
def mergeLane (s : State) (c : Ctx) (op ty : Nat) (p : Piece) (v : Word) : State :=
  let line := alignDown p.pa 128
  let el := (p.pa - line) / 4
  let s := flushCore s c.core (boundElse op ty c.key p.pa)
  let k := s.core c.core
  if k.upd.any (fun u => u.pa == line) then
    s.modCore c.core (fun k => { k with upd := k.upd.map (fun u =>
      if u.pa = line then { u with elems := tabPut u.elems el (match tabGet u.elems el with | some w => bankUpd op ty w v | none => v)
                                   vas := setAdd u.vas (alignDown p.va 128) } else u) })
  else
    let s := if k.upd.length < 32 then s else
      match k.upd[choice s % k.upd.length]? with
      | some u => flushCore s.chosen c.core (fun w => w.pa == u.pa)
      | none => s
    s.modCore c.core (fun k => { k with upd := k.upd ++ [{ pa := line, op := op, ty := ty, elems := [(el, v)], first := s.cycle, team := c.key,
                                                            asid := c.q.asid, vas := [alignDown p.va 128] }] })

/-- The course of `bupd`: the checks of `red`, then the merges in ascending order of lanes. -/
def bupdUnit (s : State) (c : Ctx) (op : Nat) (ty : BitVec 2) (y x : BitVec 1) (b : BitVec 6) (a : BitVec 5) : State :=
  let looks := looksOf s c .bank (acting s c) 4 (pairEa c.group a)
  let frees := mark x (2 * a.toNat) 2 ++ mark y b.toNat 1
  if decide ((s.core c.core).upd.length + looks.length > 32) && flushHeld s c.core (fun _ => true) then s else
  memCourse s c none .bank 2 looks [] { frees := frees } fun s' =>
    let s1 := noteLooks s' c true true looks
    let s2 := looks.foldl (fun s k => match k.piece with | some p => mergeLane s c op ty.toNat p (c.group.vlane b.toNat k.lane) | none => s) s1
    finish s2 c { frees := frees }

def execBupdAdd (m : BitVec 2) (y x : BitVec 1) (b : BitVec 6) (a : BitVec 5) (s : State) : Out :=
  issue s fun c => bupdUnit s c 0 m y x b a
def execBupdMin (m : BitVec 2) (y x : BitVec 1) (b : BitVec 6) (a : BitVec 5) (s : State) : Out :=
  issue s fun c => bupdUnit s c 1 m y x b a
def execBupdMax (m : BitVec 2) (y x : BitVec 1) (b : BitVec 6) (a : BitVec 5) (s : State) : Out :=
  issue s fun c => bupdUnit s c 2 m y x b a

/-- An update-only line, named by its physical address, is flushed 1,024 cycles after its first update (07 R219). -/
def execUpdateOnlyTimeout (core line : Nat) (s : State) : Out :=
  let due := fun (u : UpdLine) => u.pa == line && decide (s.cycle ≥ u.first + 1024)
  if flushHeld s core due then .next s else .next (flushCore s core due)

/-! ### Fences (07 R221, R222; 03 R93) -/

/-- The issuing split waits for them. -/
def fenceWaits (s : State) (c : Ctx) (stores : Bool) : Bool := inFlight s stores c.split

/-- An acquire waits for every earlier load, and for the bank updates of its team, which count as loads too, until they are performed
(03 R93, 07 R222). -/
def acquireWaits (s : State) (c : Ctx) : Bool := fenceWaits s c false || ownUpdates s c

/-- Update-only lines of the core are flushed, and the write-combining entries that hold a store of the group close (07 R219, 12 R363). -/
def releaseWrites (s : State) (c : Ctx) : State := closeFor (flushCore s c.core (fun _ => true)) c.key c.group.num

/-- A release waits while a flush that it needs is held (07 R233). -/
def releaseWaits (s : State) (c : Ctx) : Bool := fenceWaits s c true || flushHeld s c.core (fun _ => true)

/-- A full or release fence, and `tfence`. Its scope bounds which agents it orders for; with one sequentially consistent interleaving every
scope orders for all (log 6). -/
def fenceUnit (s : State) (c : Ctx) : State := if releaseWaits s c then s else finish (releaseWrites s c) c {}

/-- `fence`: full. -/
def execFence (_sc : BitVec 3) (s : State) : Out := issue s fun c => fenceUnit s c

/-- `fence.acq`: holds later accesses until earlier loads are performed. -/
def execFenceAcq (_sc : BitVec 3) (s : State) : Out := issue s fun c => if acquireWaits s c then s else finish s c {}

/-- `fence.rel`. -/
def execFenceRel (_sc : BitVec 3) (s : State) : Out := issue s fun c => fenceUnit s c

/-- `tfence`: besides, later walks read page tables as earlier stores left them (03 R106); a walk of the model always does. -/
def execTfence (_sc : BitVec 3) (s : State) : Out := issue s fun c => fenceUnit s c

end Sys2Proof.Machine
end

