-- ==== Sys2Proof/Machine/Fetch.lean ====
section
/-! DEFINITION. Fetching and parsing a unit (02 R43 to R46, R69, R70; 07 R236, R237), and when a split may issue (04 R112, 02 R60). -/

namespace Sys2Proof.Machine

open Sys2Proof

/-! ### Which splits may issue -/

/-- Registers that an operation in flight will still write: the core interlocks them (02 R60). -/
def pendingRegs (o : Op) : List Opnd :=
  match o.body with
  | .mwait w => [⟨.uni, w.kd, 2⟩]
  | .dir d => [⟨.uni, d.kd, 1⟩]
  | .link l =>
    match l.form with
    | .lld => [⟨.lane, l.vd, (l.size + 3) / 4⟩]
    | .windowLoad => if l.shape = 1 then [⟨.uni, l.vd, l.size / 4⟩] else if l.shape = 2 then [⟨.lane, l.vd, l.size / 128⟩]
                     else [⟨.lane, l.vd, (l.size + 3) / 4⟩]
    | .lgat => [⟨.pred, l.pd, 1⟩]
    | .windowWait => [⟨.uni, l.vd, 2⟩]
    | .windowRef => [⟨.ref, l.vd, 1⟩]
    | .windowLaunch => [⟨.uni, l.vd, 1⟩]
    | _ => []
  | _ => []

/-- Two operands share a register. -/
def opndMeets (a b : Opnd) : Bool := a.cls == b.cls && overlaps a.reg (a.reg + a.width) b.reg (b.reg + b.width)

/-- Every open lookahead window of a split still admits a unit (02 R60). -/
def windowsOpen (s : State) (sp : Split) : Bool :=
  sp.windows.all (fun w => w.2 > 0 || (tabGet s.ops w.1).isNone)

/-- Windows of operations that have ended are closed. -/
def pruneWindows (s : State) (sp : Split) : Split :=
  { sp with windows := sp.windows.filter (fun w => (tabGet s.ops w.1).isSome) }

/-- A split may issue its next unit, were its group in the active set (04 R112): its group has not trapped, it waits in nothing, and its
windows are open. -/
def couldIssue (s : State) (c : Ctx) : Bool :=
  !c.group.stopped && c.split.wait == .none && windowsOpen s c.split

/-- Another split of the group, ready itself, issues first after the division that made both (02 R61). -/
def hintFirst (s : State) (c : Ctx) : Bool :=
  c.live.hints.any (fun h => h.2 == c.split.idx && c.live.splits.any (fun sp => sp.idx == h.1 && couldIssue s { c with split := sp }))

/-- A split is ready: the core schedules from its active set (04 R112), and the split that a hint names issues first (02 R61). -/
def ready (s : State) (c : Ctx) : Bool := (s.core c.core).active.contains c.group.num && couldIssue s c && !hintFirst s c

/-- A unit waits for a register that an operation in flight writes, the predicate of its guard among them (02 R57, R60). -/
def interlocked (s : State) (c : Ctx) (guard : Option (BitVec 1 × BitVec 3)) (body : Instr) (ext : Option Ext) : Bool :=
  let ps := (groupOps s c.key c.group.num).flatMap (fun o => pendingRegs o.2)
  let os := operands body ++ (match guard with | some (_, p) => [⟨.pred, p.toNat, 1⟩] | none => []) ++ (match ext with
    | some (.reg p) => match regUse body with
      | .thirdLane => [⟨.lane, p.toNat % 64, 1⟩]
      | .thirdUniform => [⟨.uni, p.toNat % 32, 1⟩]
      | _ => []
    | _ => [])
  !ps.isEmpty && os.any (fun o => ps.any (opndMeets o))

/-! ### Fetch -/

/-- How a fetch ends: with a unit, or with what stopped it and the halfwords fetched before. -/
inductive Fetched where
  | unit (halves : List Nat) (used : List (Xlat × Bool))
  | trap (c : Cond) (audit : Option (Nat × Nat)) (known : List Nat)
  | fault (f : FaultInfo)
  deriving DecidableEq, Repr

/-- One halfword: its value and translation, or why not (07 R237, R240, R242). -/
inductive Half where
  | got (h : Nat) (x : Xlat) (walked : Bool)
  | denied (cls : Nat)
  | trap (code d1 : Nat)
  | fault (level entry : Nat)
  deriving DecidableEq, Repr

/-- Fetch a halfword: on the read-only path (03 R85), by the core's translations, checked against the grant set like a load (02 R46, 07
R236). -/
def fetchHalf (s : State) (c : Ctx) (va : Nat) : Half :=
  if !canonical (BitVec.ofNat 64 va) then .trap 0x11 c.split.mask.toNat
  else match translate s c.q none (some c.core) (dieOf c.core) va false with
    | (.invalid l e, _) => .fault l e
    | (.malformed l e, _) => .trap 0x23 (e % 2 ^ 61 + l * 2 ^ 61)
    | (.bad g, _) => .trap 0x25 g
    | (.leaf x, walked) =>
      let pa := x.pa va
      let line := carried s pa x.cls
      if !admits c.q x.cls then .denied (if admits c.q line then x.cls else Nat.min x.cls line)
      else if !admits c.q line then .denied line
      else match badIn s pa 2 with
        | some g => .trap 0x25 g
        | none => .got (natOfBytes [roByte s c.team.grid pa, roByte s c.team.grid (pa + 1)]) x walked

/-- Halfwords that the body at the head of a list takes, as far as the list tells (02 R43, R44): one, two, or an `ext` and what
follows it. -/
def wantsBody : List Nat → Nat
  | [] => 1
  | h :: t =>
    if h % 2 = 0 then 1
    else if bitsOf h 1 6 ≠ 63 then 2
    else match t with
      | [] => 2
      | [_] => 3
      | _ :: h2 :: _ => if h2 % 2 = 0 then 3 else 4

/-- A halfword is a guard (02 R56). -/
def isGuardHalf (h : Nat) : Bool := bitsOf h 0 6 == 0x16 && bitsOf h 10 6 == 0

/-- Halfwords that the unit at the head of a list takes (02 R44). -/
def wants : List Nat → Nat
  | [] => 1
  | h :: t => if isGuardHalf h then 1 + wantsBody t else wantsBody (h :: t)

/-- Fetch halfwords until the unit is whole; the first that fails decides (02 R44: a fault of the whole unit). -/
def fetchLoop (s : State) (c : Ctx) : Nat → List Nat → List (Xlat × Bool) → Fetched
  | 0, hs, xs => .unit hs xs
  | n + 1, hs, xs =>
    if hs.length ≥ wants hs then .unit hs xs
    else
      let va := (c.split.pc + BitVec.ofNat 64 (2 * hs.length)).toNat
      match fetchHalf s c va with
      | .got h x w => fetchLoop s c n (hs ++ [h]) (xs ++ [(x, w)])
      | .denied cls => .trap ⟨0x21, c.split.pc.toNat, cls, c.split.mask⟩ (some (va, cls)) hs
      | .trap code d1 => .trap ⟨code, va, d1, c.split.mask⟩ none hs
      | .fault l e => .fault ⟨va, c.split.mask, l, e, 3, 0⟩

/-- Fetch the unit at a split's program counter: at most five halfwords (02 R44). -/
def fetchUnit (s : State) (c : Ctx) : Fetched := fetchLoop s c 5 [] []

/-! ### Parsing -/

/-- The parts of a unit; the body is absent where its halfwords decode to nothing (02 R69). -/
structure Parts where
  guard : Option (BitVec 1 × BitVec 3)
  ext : Option Ext
  body : Option Instr
  deriving DecidableEq, Repr

/-- The instruction at the head of a list of halfwords. -/
def decodeHalves : List Nat → Option Instr
  | [] => none
  | h :: t => if h % 2 = 0 then decodeHalf h else match t with | h2 :: _ => decodeWord (h + 65536 * h2) | [] => none

/-- An extension and its body, or a body alone. -/
def parseBody (hs : List Nat) : Option Ext × Option Instr :=
  match decodeHalves hs with
  | some (.extImm p) => (some (.imm p), decodeHalves (hs.drop 2))
  | some (.extReg p) => (some (.reg p), decodeHalves (hs.drop 2))
  | i => (none, i)

/-- A unit's parts (02 R44). -/
def parseUnit (hs : List Nat) : Parts :=
  match decodeHalves hs with
  | some (.guard n p) => let b := parseBody (hs.drop 1); ⟨some (n, p), b.1, b.2⟩
  | _ => let b := parseBody hs; ⟨none, b.1, b.2⟩

end Sys2Proof.Machine
end

