-- ==== Sys2Proof/Machine/Flags.lean ====
section
/-! DEFINITION. Polrel keeps no status flags: no lane form sets one (05 R141). Its conditions are predicates. This file computes
them: the comparisons of 05 R156, the votes of 05 R164, and the lanes that take a branch (05 R167). -/

namespace Sys2Proof.Machine

open Sys2Proof

/-- The six conditions of `cmp`, in func order (05 R156). -/
inductive Cc where
  | eq | ne | lt | le | gt | ge
  deriving DecidableEq, Repr

/-- A condition from the outcome of a comparison: less, equal. -/
def ccHolds (cc : Cc) (lt eq : Bool) : Bool :=
  match cc with
  | .eq => eq | .ne => !eq | .lt => lt | .le => lt || eq | .gt => !(lt || eq) | .ge => !lt

/-- `cmp` on one lane (05 R156): types 0 `.i32`, 1 `.n32`, 2 `.f32`; under `.f32` -0 equals +0, and a NaN makes every
condition false but `.ne`. -/
def compare (cc : Cc) (ty : BitVec 2) (a b : Word) : Bool :=
  if ty = 2 then
    let x := f32Num a
    let y := f32Num b
    if x.isNan || y.isNan then cc == .ne else ccHolds cc (ltNum x y) (eqNum x y)
  else if ty = 0 then ccHolds cc (a.slt b) (a == b)
  else ccHolds cc (decide (a.toNat < b.toNat)) (a == b)

/-- `vote.any` and `vote.all` over the receiving lanes (05 R164). -/
def voteAnyOf (m p : BitVec 32) : Bool := (m &&& p) != 0
def voteAllOf (m p : BitVec 32) : Bool := (m &&& p) == m

/-- Lanes of a split that take a branch: pN XOR neg is 1; every lane for p0 (02 R51, 05 R167). -/
def takenLanes (g : Group) (sp : Split) (p : BitVec 3) (neg : BitVec 1) : BitVec 32 :=
  sp.mask &&& (if neg = 1 then ~~~(g.pread p.toNat) else g.pread p.toNat)

end Sys2Proof.Machine
end

