-- ==== Sys2Proof/Machine/Shape.lean ====
section
/-! DEFINITION. The shape of grids, clusters, dies and quads (01 R15, R16, 16 R489), and the special registers (04 R139, R140). -/

namespace Sys2Proof.Machine

open Sys2Proof

/-! ### Teams in a grid (16 R489) -/

/-- Coordinates of a team by its linear number. -/
def Launch.xOf (r : Launch) (t : Nat) : Nat := t % r.ntx
def Launch.yOf (r : Launch) (t : Nat) : Nat := t / r.ntx % r.nty
def Launch.zOf (r : Launch) (t : Nat) : Nat := t / r.ntx / r.nty

/-- Teams of a grid, and teams of one cluster. -/
def Launch.teams (r : Launch) : Nat := r.ntx * r.nty * r.ntz
def Launch.clusterSize (r : Launch) : Nat := if r.clustered then r.cw * r.ch else 1

/-- Position of a team within its cluster, `%clx` and `%cly`, and its cluster position. -/
def Launch.clx (r : Launch) (t : Nat) : Nat := if r.clustered then r.xOf t % r.cw else 0
def Launch.cly (r : Launch) (t : Nat) : Nat := if r.clustered then r.yOf t % r.ch else 0
def Launch.clpos (r : Launch) (t : Nat) : Nat := r.cly t * r.cw + r.clx t

/-- Cluster number, `%clid`. -/
def Launch.clid (r : Launch) (t : Nat) : Nat :=
  if r.clustered then r.xOf t / r.cw + r.ntx / r.cw * (r.yOf t / r.ch + r.nty / r.ch * r.zOf t) else t

/-- Linear number of the team at a position of the cluster of a team. -/
def Launch.teamAt (r : Launch) (t pos : Nat) : Nat :=
  if r.clustered then
    (r.xOf t / r.cw * r.cw + pos % r.cw) + r.ntx * ((r.yOf t / r.ch * r.ch + pos / r.cw) + r.nty * r.zOf t)
  else t

/-- The teams of the cluster of a team, by position. -/
def Launch.cluster (r : Launch) (t : Nat) : List Nat := (List.range r.clusterSize).map (r.teamAt t)

/-! ### Cores, dies and quads (01 R15, R16) -/

/-- Coordinates of a package core. -/
def coreX (c : Nat) : Nat := c % 16
def coreY (c : Nat) : Nat := c / 16 % 8

/-- Package quad number of a core: the number of its Quern and mask unit; the core's position in the quad. -/
def quadOf (c : Nat) : Nat := c / 128 * 32 + coreY c / 2 * 8 + coreX c / 2
def quadPos (c : Nat) : Nat := coreY c % 2 * 2 + coreX c % 2

/-- The cores of a quad, by position. -/
def quadCores (q : Nat) : List Nat :=
  (List.range 4).map (fun p => q / 32 * 128 + (q % 32 / 8 * 2 + p / 2) * 16 + (q % 8 * 2 + p % 2))

/-! ### Special registers (04 R139, R140) -/

/-- `sreg`: the value in a lane; numbers above 28 are illegal and never reach a meaning. -/
def sregValue (s : State) (c : Ctx) (n l : Nat) : Nat :=
  let r := c.grid.launch
  let t := c.team.teamid
  match n with
  | 0 => l
  | 1 => c.group.num
  | 2 => r.groups
  | 3 => r.xOf t
  | 4 => r.yOf t
  | 5 => r.zOf t
  | 6 => r.ntx
  | 7 => r.nty
  | 8 => r.ntz
  | 9 => t
  | 10 => r.clx t
  | 11 => r.cly t
  | 12 => if r.clustered then r.cw else 1
  | 13 => if r.clustered then r.ch else 1
  | 14 => r.clid t
  | 15 => c.core
  | 16 => coreX c.core
  | 17 => coreY c.core
  | 18 => dieOf c.core
  | 19 => quadOf c.core
  | 20 => quadPos c.core
  | 21 => c.team.queue
  | 22 => c.q.asid
  | 23 => c.team.grid
  | 24 => s.cycle % 2 ^ 32
  | 25 => s.cycle / 2 ^ 32 % 2 ^ 32
  | 26 => c.split.mask.toNat
  | 27 => c.team.spadOff
  | _ => c.team.spadSize

/-- Free entries of a core's range-lock table, which has 32 (06 R192). -/
def locksFree (s : State) (core : Nat) : Nat := 32 - (s.core core).locks.length

/-- `csrr`: numbers above 6 are illegal and never reach a meaning. -/
def csrValue (s : State) (c : Ctx) (n : Nat) : Nat :=
  match n with
  | 0 => c.team.saves
  | 1 => c.team.faults
  | 2 => c.team.budget
  | 3 => c.group.heldCount
  | 4 => c.group.splits.length
  | 5 => c.split.stack.length
  | _ => locksFree s c.core

end Sys2Proof.Machine
end

