-- ==== Sys2Proof/Machine/Control.lean ====
section
/-! DEFINITION. Control flow and system forms (02 R51, R55 to R58, 04 R112 to R118, 05 R167 to R174), and the prefixes of a unit. `exit` is
in `Ending`. -/

namespace Sys2Proof.Machine

open Sys2Proof

/-! ### Prefixes (02 R44, R53, R57) -/

/-- A guard restricts the unit it opens (02 R57). -/
def execGuard (n : BitVec 1) (p : BitVec 3) (s : State) : Out := .next { s with unit := { s.unit with guard := some (n, p) } }

/-- An `ext` of kind 0 gives the immediate's upper bits (02 R53, R54). -/
def execExtImm (p : BitVec 23) (s : State) : Out := .next { s with unit := { s.unit with extImm := some p } }

/-- An `ext` of kind 1 gives a third source or a lookahead (02 R53, R54). -/
def execExtReg (p : BitVec 23) (s : State) : Out := .next { s with unit := { s.unit with extReg := some p } }

/-- An illegal unit traps 0x01 with the unit's halfwords (02 R69, R70; 04 R134). -/
def execIllegalInstruction (s : State) : Out :=
  issue s fun c =>
    let h := fun i => ((s.unit.halves.getD i 0).toNat : Nat)
    takeTrap s (unitSite s c)
      { code := 0x01, d0 := h 0 + 2 ^ 16 * h 1 + 2 ^ 32 * h 2 + 2 ^ 48 * h 3, d1 := h 4, lanes := c.split.mask }

/-! ### Divisions (04 R113 to R115) -/

/-- Free split indices of a group, ascending. -/
def freeIdx (g : Group) : List Nat := [0, 1, 2, 3].filter (fun i => g.splits.all (fun sp => sp.idx != i))

/-- A new split (04 R114: its deferral stack is empty). The lookahead windows of the split it came from bind it too (02 R60). -/
def newSplit (pc : DWord) (m : BitVec 32) (i : Nat) (ws : List (Nat × Nat)) : Split :=
  { pc := pc, mask := m, idx := i, stack := [], wait := .none, windows := ws, replay := none }

/-- Lanes grouped by target, in ascending order of each part's lowest lane. -/
def partsOf (tgt : Nat → DWord) : List Nat → List (DWord × BitVec 32)
  | [] => []
  | l :: t =>
    let m := maskOf (fun j => (j == l || t.contains j) && tgt j == tgt l)
    (tgt l, m) :: (partsOf tgt t).filter (fun p => p.1 != tgt l)

/-- A transfer of every lane of the split to its own target (04 R114, R115): the first part keeps the split, further parts take free
indices, and the lanes of the rest are deferred at the transfer's own address. `stackOp` changes the return stack of a
lane that transfers. -/
def transfer (s : State) (c : Ctx) (frees : List Nat) (conds : List Cond) (tgt : Nat → DWord) (stackOp : List DWord → List DWord) : State :=
  let parts := partsOf tgt (lanesOf c.split.mask)
  let free := freeIdx c.group
  let placed := (parts.drop 1).zip free
  let rest := (parts.drop (1 + free.length)).foldl (fun m p => m ||| p.2) 0#32
  let tooDeep := wholeCond (rest != 0 && decide (c.split.stack.length ≥ 8)) 0x03 (bodyAddr s).toNat rest.toNat c.split.mask
  match lowest (conds ++ tooDeep) with
  | some t => takeTrap s (unitSite s c) t
  | none =>
    let stack := if rest = 0 then c.split.stack else .defer s.unit.addr rest :: c.split.stack
    let first := parts.headD (s.unit.npc, c.split.mask)
    endUnit s c (fun g =>
      let g := g.apply { frees := frees }
      let g := (lanesOf (c.split.mask &&& ~~~rest)).foldl (fun g l => { g with ret := tabPut g.ret l (stackOp (g.rets l)) }) g
      let g := g.modSplit c.split.idx (fun sp => { tick sp with pc := first.1, mask := first.2, stack := stack })
      { g with splits := g.splits ++ placed.map (fun p => newSplit p.1.1 p.1.2 p.2 (tick c.split).windows) })

/-! ### Branches, calls and returns (05 R167 to R171) -/

/-- `bra`: the split moves whole, divides or serialises (05 R167, 04 R114, R115). On a division its hint names the split that issues first: the
taken lanes' under `.lk` and `.uni`, else the fall-through's (02 R61). -/
def execBra (o : BitVec 19) (h : BitVec 2) (n : BitVec 1) (p : BitVec 3) (s : State) : Out :=
  issue s fun c =>
    let taken := takenLanes c.group c.split p n
    let rest := c.split.mask &&& ~~~taken
    let dst := branchTarget s o
    if rest = 0 then finishAt s c {} dst
    else if taken = 0 then finish s c {}
    else match freeIdx c.group with
      | i :: _ =>
        endUnit s c (fun g =>
          let g := g.modSplit c.split.idx (fun sp => { tick sp with pc := s.unit.npc, mask := rest })
          { g with splits := g.splits ++ [newSplit dst taken i (tick c.split).windows]
                   hints := g.hints ++ [if h = 1 || h = 3 then (i, c.split.idx) else (c.split.idx, i)] })
      | [] =>
        if c.split.stack.length ≥ 8 then
          takeTrap s (unitSite s c) { code := 0x03, d0 := (bodyAddr s).toNat, d1 := rest.toNat, lanes := c.split.mask }
        else
          endUnit s c (fun g => g.modSplit c.split.idx (fun sp =>
            { tick sp with pc := dst, mask := taken, stack := .defer s.unit.npc rest :: sp.stack }))

/-- Active lanes whose return stack is full (05 R169), or empty (05 R171). -/
def fullLanes (c : Ctx) : BitVec 32 := c.split.mask &&& maskOf (fun l => decide ((c.group.rets l).length ≥ 16))
def emptyLanes (c : Ctx) : BitVec 32 := c.split.mask &&& maskOf (fun l => (c.group.rets l).isEmpty)

/-- `call` (05 R169). -/
def execCall (o : BitVec 19) (s : State) : Out :=
  issue s fun c =>
    transfer s c [] (laneCond 0x08 (fullLanes c) (fun _ => (bodyAddr s).toNat) (fun _ => (fullLanes c).toNat))
      (fun _ => branchTarget s o) (s.unit.npc :: ·)

/-- Active lanes whose indirect target is odd or not canonical (05 R170). -/
def badTargets (c : Ctx) (a : Nat) : BitVec 32 :=
  c.split.mask &&& maskOf (fun l => (c.group.vpair a l).toNat % 2 == 1 || !canonical (c.group.vpair a l))

/-- The condition of a bad target: its lowest lane's target, and the offending lanes (05 R175). -/
def badTargetCond (c : Ctx) (a : Nat) : List Cond :=
  laneCond 0x0a (badTargets c a) (fun l => (c.group.vpair a l).toNat) (fun _ => (badTargets c a).toNat)

/-- `jmp` (05 R170). -/
def execJmp (x : BitVec 1) (a : BitVec 5) (s : State) : Out :=
  issue s fun c =>
    transfer s c (mark x (2 * a.toNat) 2) (badTargetCond c (2 * a.toNat)) (c.group.vpair (2 * a.toNat)) id

/-- Indirect `call` (05 R170). -/
def execCallIndirect (x : BitVec 1) (a : BitVec 5) (s : State) : Out :=
  issue s fun c =>
    transfer s c (mark x (2 * a.toNat) 2)
      (laneCond 0x08 (fullLanes c) (fun _ => (bodyAddr s).toNat) (fun _ => (fullLanes c).toNat) ++ badTargetCond c (2 * a.toNat))
      (c.group.vpair (2 * a.toNat)) (s.unit.npc :: ·)

/-- `ret` (05 R171). A lane whose stack is empty has no target, so that such a unit traps 0x09 whatever parts its other lanes would make: the
manual does not say how 0x03 weighs there (log 80). -/
def execRet (s : State) : Out :=
  issue s fun c =>
    if emptyLanes c ≠ 0 then
      takeTrap s (unitSite s c) { code := 0x09, d0 := (bodyAddr s).toNat, d1 := (emptyLanes c).toNat, lanes := emptyLanes c }
    else transfer s c [] [] (fun l => (c.group.rets l).headD 0) List.tail

/-! ### join (04 R116, R117) -/

/-- A split waits at this `join`. -/
def waitsAt (j : DWord) (sp : Split) : Bool :=
  match sp.wait with
  | .join a _ => a == j
  | _ => false

/-- A split waits while another live split of its group has a lower program counter, or stands at the `join` and has yet to execute it
(04 R117; the second from the table of 03, log 13). -/
def joinHeld (g : Group) (i : Nat) (j : DWord) : Bool :=
  g.splits.any (fun o => o.idx != i && (o.pc.ult j || (o.pc == j && !waitsAt j o)))

/-- Release: the lowest-numbered split waiting at the address with an empty stack takes the union of all such, and goes on (04 R116). Their
lookahead windows all bind it (02 R60). -/
def joinMerge (g : Group) (j : DWord) : Group :=
  let here := g.splits.filter (fun sp => waitsAt j sp && sp.stack.isEmpty)
  let lead := (here.map (·.idx)).foldl Nat.min 4
  let all := here.foldl (fun m sp => m ||| sp.mask) 0#32
  { g with splits := (g.splits.filter (fun sp => !(waitsAt j sp && sp.stack.isEmpty) || sp.idx == lead)).map (fun sp =>
      if sp.idx = lead && waitsAt j sp then { sp with pc := j + 2, mask := all, wait := .none, windows := here.flatMap (·.windows) } else sp) }

/-- Where splits merge, every access of theirs before the `join` is performed first (03 R91): what is in flight, bank updates that have not
been flushed, and stores that wait in a write-combining buffer. A `join` that merges nothing orders nothing (04 R116). -/
def joinPerformed (s : State) (core key : Nat) (g : Group) (j : DWord) : Bool :=
  let here := g.splits.filter (fun sp => waitsAt j sp && sp.stack.isEmpty)
  decide (here.length < 2) || !(here.any (inFlight s true) || (s.core core).upd.any (fun u => u.team == key) ||
    s.wc.any (fun w => w.2.writers.contains (key, g.num)))

/-- A group whose wait at a `join` has ended merges, once its accesses are performed. -/
def joinRelease (s : State) (core key : Nat) (j : DWord) (g : Group) : Group := if joinPerformed s core key g j then joinMerge g j else g

/-- Merge where the wait of a split has ended. -/
def joinTry (s : State) (core key : Nat) (g : Group) (i : Nat) (j : DWord) : Group :=
  if joinHeld g i j then g else joinRelease s core key j g

/-- `join` (04 R116). -/
def execJoin (s : State) : Out :=
  issue s fun c =>
    let j := s.unit.addr
    let now := runTime s c.team
    let set := fun (f : Split → Split) => endUnit s c (fun g => g.modSplit c.split.idx (fun sp => f (tick sp)))
    let waitAt := fun (m : BitVec 32) => endUnit s c (fun g =>
      joinTry s c.core c.key (g.modSplit c.split.idx (fun sp => { tick sp with mask := m, stack := [], wait := .join j now })) c.split.idx j)
    match c.split.stack with
    | .defer pc ls :: t => set (fun sp => { sp with pc := pc, mask := ls, stack := .merge j sp.mask :: t })
    | .merge a ls :: t =>
      if a ≠ j then set (fun sp => { sp with pc := s.unit.npc })
      else if t.isEmpty then waitAt (c.split.mask ||| ls)
      else set (fun sp => { sp with pc := s.unit.npc, mask := sp.mask ||| ls, stack := t })
    | [] => waitAt c.split.mask

/-- A waiting split looks again whether its wait has ended (04 R117). -/
def joinPoll (s : State) (c : Ctx) (j : DWord) : State :=
  s.modGroup c.key c.group.num (fun g => joinTry s c.core c.key g c.split.idx j)

/-- The context of a split of a team, where the team is RUNNING. -/
def ctxOf (s : State) (key g i : Nat) : Option Ctx :=
  match tabGet s.teams key with
  | none => none
  | some t => (ctxAt s { core := t.core, group := g, split := i }).filter (fun c => c.key == key)

/-- A split that has waited 2,048 cycles of its team's running time is released (04 R117). -/
def execJoinWaitTimeout (team group split : Nat) (s : State) : Out :=
  match ctxOf s team group split with
  | none => .next s
  | some c =>
    match c.split.wait with
    | .join j since =>
      if runTime s c.team ≥ since + 2048 && !c.group.stopped then .next (endUnit s c (joinRelease s c.core c.key j)) else .next s
    | _ => .next s

/-! ### The active set (04 R112, 05 R173) -/

/-- A group holds a split that is ready. -/
def groupReady (s : State) (c : Ctx) (g : Group) : Bool :=
  g.splits.any (fun sp => couldIssue s { c with group := g, split := sp })

/-- Groups are exchanged: any set of unended groups of the running team, 16 or as many as there are (04 R112). -/
def execActiveSetExchange (core : Nat) (groups : List Nat) (s : State) : Out :=
  match (s.core core).running.bind (fun sl => tabGet s.teams sl.team) with
  | none => .next s
  | some t =>
    let live := (t.groups.filter (fun g => !g.2.ended)).map (·.1)
    if groups.all (fun g => live.contains g) && groups.eraseDups.length == groups.length && groups.length == Nat.min 16 live.length then
      .next (s.modCore core (fun k => { k with active := groups }))
    else .next s

/-- `yield`: the group leaves the active set when more than 16 groups hold a ready split (05 R173). -/
def execYield (s : State) : Out :=
  issue s fun c =>
    let others := (c.team.groups.filter (fun g => groupReady s c g.2 && !(s.core c.core).active.contains g.1)).map (·.1)
    let many := decide ((c.team.groups.filter (fun g => groupReady s c g.2)).length > 16)
    let s' := finish s c {}
    match many, others with
    | true, o :: _ => s'.modCore c.core (fun k => { k with active := k.active.filter (· != c.group.num) ++ [o] })
    | _, _ => s'

/-! ### System forms (05 R174) and `nop` -/

/-- `nop` (02 R56). -/
def execNop (s : State) : Out := issue s fun c => unit s c {}

/-- `trap #n` (05 R174). -/
def execTrap (n : BitVec 6) (s : State) : Out :=
  issue s fun c => takeTrap s (unitSite s c) { code := 0x02, d0 := n.toNat, d1 := 0, lanes := c.split.mask }

/-- `snap` (05 R174): raises the common trigger where firmware enabled it as a source (17 R482). -/
def execSnap (s : State) : Out :=
  issue s fun c => unitWith s c [] {} (fun s => if s.fw.snapOn.getLsbD 0 then snapTrigger s else s)

/-- `csrr` (05 R174, 04 R140). -/
def execCsrr (n : BitVec 6) (d : BitVec 5) (s : State) : Out :=
  issue s fun c => unit s c { k := [(d.toNat, BitVec.ofNat 32 (csrValue s c n.toNat))] }

/-- `clock`: 64 bits at one moment (05 R174). -/
def execClock (d : BitVec 4) (s : State) : Out :=
  issue s fun c => unit s c { k := [(2 * d.toNat, BitVec.ofNat 32 s.cycle), (2 * d.toNat + 1, BitVec.ofNat 32 (s.cycle / 2 ^ 32))] }

end Sys2Proof.Machine
end

