-- ==== Sys2Proof/Machine/Barrier.lean ====
section
/-! DEFINITION. Barrier objects (06 R194 to R203), the team and cluster rendezvous (06 R204, R205), and how a waiting split looks
again. -/

namespace Sys2Proof.Machine

open Sys2Proof

/-! ### Objects (06 R194, R196) -/

/-- A barrier object; `tx` is its 32 bits. -/
structure Bar where
  waiters : Nat
  expect : Nat
  arrive : Nat
  tx : Word
  phase : Nat
  deriving DecidableEq, Repr

/-- The object at a physical address (06 R194). -/
def barAt (s : State) (pa : Nat) : Bar :=
  let w := s.num pa 16
  { waiters := bitsOf w 16 16, expect := bitsOf w 32 16, arrive := bitsOf w 48 16, tx := BitVec.ofNat 32 (w / 2 ^ 64), phase := bitsOf w 96 32 }

/-- Write an initialised object. -/
def putBar (s : State) (pa : Nat) (b : Bar) : State :=
  s.writeNum pa 16 (packBits [(16, 1), (16, b.waiters), (16, b.expect), (16, b.arrive), (32, b.tx.toNat), (32, b.phase)])

/-- The evaluation that ends an arrival, an announcement and a decrement (06 R196). -/
def Bar.eval (b : Bar) : Bar :=
  if b.arrive = 0 ∧ b.tx = 0 then { b with phase := (b.phase + 1) % 2 ^ 32, arrive := b.expect } else b

/-- An engine decrement (06 R196, 14 R417): modulo 2^32, then an evaluation. -/
def decrBar (s : State) (pa bytes : Nat) : State :=
  let b := barAt s pa
  putBar s pa (Bar.eval { b with tx := b.tx - BitVec.ofNat 32 bytes })

/-! ### Addresses and checks (06 R197) -/

/-- Physical address of an operand: an offset of the team's allocation, or of the die window. -/
def barPa (c : Ctx) (window : Bool) (o : Nat) : Nat :=
  if window then spadAddr (dieOf c.core * 128 + o / 524288) (o % 524288) else c.team.spadAt o

/-- The conditions on the operand. -/
def barPlace (s : State) (c : Ctx) (window : Bool) (o : Nat) : List Cond :=
  let m := c.split.mask
  wholeCond (!window && decide (o + 16 > c.team.spadSize)) 0x12 o c.team.spadSize m ++
  wholeCond (window && (decide (o + 16 > 67108864) || (windowTeam s c.team.grid (dieOf c.core * 128 + o / 524288) (o % 524288) 16).isNone)) 0x13 o m.toNat m ++
  wholeCond (o % 16 != 0) 0x16 o 0 m

/-- The object is initialised: its granule's tag is set (06 R195). -/
def tagged (s : State) (pa : Nat) : Bool := s.tags.contains pa

/-- Conditions of a form other than `binit`. -/
def barConds (s : State) (c : Ctx) (window : Bool) (o : Nat) : List Cond :=
  let p := barPlace s c window o
  p ++ wholeCond (p.isEmpty && !tagged s (barPa c window o)) 0x18 o 0 c.split.mask

/-- A condition of the object, which is looked at only where the operand reaches one. -/
def barCond (s : State) (c : Ctx) (window : Bool) (o : Nat) (hold : Bool) (code d1 : Nat) : List Cond :=
  wholeCond ((barConds s c window o).isEmpty && hold) code o d1 c.split.mask

/-- Offset in a uniform register. -/
def barOff (c : Ctx) (a : BitVec 5) : Nat := (c.group.kread a.toNat).toNat

/-! ### The forms (06 R198 to R203) -/

/-- `binit`. -/
def execBinit (w : BitVec 1) (b a : BitVec 5) (s : State) : Out :=
  issue s fun c =>
    let o := barOff c a
    let pa := barPa c (w == 1) o
    let n := (c.group.kread b.toNat).toNat
    let p := barPlace s c (w == 1) o
    unitWith s c (p ++ wholeCond ((p.isEmpty && tagged s pa) || decide (n = 0) || decide (n > 65535)) 0x17 o n c.split.mask) {} fun s =>
      let s := putBar s pa { waiters := 0, expect := n, arrive := n, tx := 0, phase := 0 }
      { s with tags := setAdd s.tags pa }

/-- `barv`: release, then one arrival. The second detail word of 0x19 is tx with zeros above its 32 bits, which the manual does not say (log
89). -/
def execBarv (w : BitVec 1) (a d : BitVec 5) (s : State) : Out :=
  issue s fun c =>
    if releaseWaits s c then s else
    let o := barOff c a
    let pa := barPa c (w == 1) o
    let b := barAt s pa
    unitWith s c (barConds s c (w == 1) o ++ barCond s c (w == 1) o (b.arrive == 0) 0x19 b.tx.toNat)
      { k := [(d.toNat, BitVec.ofNat 32 b.phase)] } fun s =>
        putBar (releaseWrites s c) pa (Bar.eval { b with arrive := b.arrive - 1 })

/-- `bexp`: announce bytes. -/
def execBexp (w : BitVec 1) (b a : BitVec 5) (s : State) : Out :=
  issue s fun c =>
    let o := barOff c a
    let pa := barPa c (w == 1) o
    let n := (c.group.kread b.toNat).toNat
    let x := barAt s pa
    unitWith s c (barConds s c (w == 1) o ++
        barCond s c (w == 1) o (decide (n > 0x7fffffff) || decide (x.tx.toInt + n > 0x7fffffff)) 0x1a n) {} fun s =>
      putBar s pa (Bar.eval { x with tx := x.tx + BitVec.ofNat 32 n })

/-- `btest`. -/
def execBtest (w : BitVec 1) (b a : BitVec 5) (d : BitVec 3) (s : State) : Out :=
  issue s fun c =>
    let o := barOff c a
    let ph := (barAt s (barPa c (w == 1) o)).phase
    let bit := (ph + (c.group.kread b.toNat).toNat) % 2 == 1
    if bit && (barConds s c (w == 1) o).isEmpty && acquireWaits s c then s else
    unitWith s c (barConds s c (w == 1) o) { p := [(d.toNat, c.split.mask, if bit then c.split.mask else 0)] } id

/-- `bwait` on the values it read at issue: it returns, once the loads that its acquire orders are performed (03 R94), or counts itself as a
waiter and waits (06 R202). -/
def bwaitOn (s : State) (c : Ctx) (window : Bool) (o ph : Nat) (npc : DWord) : State :=
  let site := { unitSite s c with unit := c.split.pc, npc := npc }
  match lowest (barConds s c window o) with
  | some t => takeTrap (s.modGroup c.key c.group.num (fun g => g.modSplit c.split.idx (fun sp => { sp with wait := .none }))) site t
  | none =>
    let pa := barPa c window o
    let b := barAt s pa
    if b.phase ≠ ph then if acquireWaits s c then s else endUnit s c (fun g => g.modSplit c.split.idx (fun sp => { tick sp with pc := npc, wait := .none }))
    else endUnit (putBar s pa { b with waiters := (b.waiters + 1) % 2 ^ 16 }) c
      (fun g => g.modSplit c.split.idx (fun sp => { sp with wait := .bwait o ph window true npc }))

/-- `bwait`. -/
def execBwait (w : BitVec 1) (b a : BitVec 5) (s : State) : Out :=
  issue s fun c => if replayFull s c then s else bwaitOn s c (w == 1) (barOff c a) (c.group.kread b.toNat).toNat s.unit.npc

/-- `binval`. -/
def execBinval (w : BitVec 1) (a : BitVec 5) (s : State) : Out :=
  issue s fun c =>
    let o := barOff c a
    let pa := barPa c (w == 1) o
    let n := (barAt s pa).waiters
    unitWith s c (barConds s c (w == 1) o ++ barCond s c (w == 1) o (n != 0) 0x15 n) {} fun s =>
      { s.zero pa 16 with tags := setDel s.tags pa }

/-! ### Waiters (06 R202, 04 R127) -/

/-- A waiting split looks again: an abandoned wait begins anew, a counted one ends when the phase has passed and what its acquire orders is
performed (03 R94). -/
def bwaitPoll (s : State) (c : Ctx) (o ph : Nat) (window counted : Bool) (npc : DWord) : State :=
  if counted then
    let pa := barPa c window o
    let b := barAt s pa
    if (tagged s pa && b.phase == ph) || acquireWaits s c then s
    else (putBar s pa { b with waiters := b.waiters - 1 }).modGroup c.key c.group.num
      (fun g => g.modSplit c.split.idx (fun sp => { tick sp with pc := npc, wait := .none }))
  else bwaitOn s c window o ph npc

/-- Lower an object's waiters by one. -/
def uncount (s : State) (pa : Nat) : State :=
  let b := barAt s pa
  putBar s pa { b with waiters := b.waiters - 1 }

/-- Splits of a team that are counted as waiters: group, split, and the object's address. -/
def countedWaits (t : Team) : List (Nat × Split × Nat × Bool) :=
  t.groups.flatMap (fun g => g.2.splits.filterMap (fun sp =>
    match sp.wait with
    | .bwait o _ window true _ =>
      some (g.1, sp, (if window then spadAddr (dieOf t.core * 128 + o / 524288) (o % 524288) else t.spadAt o), window)
    | _ => none))

/-- A `bwait` is abandoned. -/
def uncounted (sp : Split) : Split :=
  match sp.wait with
  | .bwait o ph window _ npc => { sp with wait := .bwait o ph window false npc }
  | _ => sp

/-- At a drain every `bwait` of the team is abandoned, lowering its object's waiters (06 R202, 04 R127). -/
def abandonWaits (s : State) (key : Nat) : State :=
  match tabGet s.teams key with
  | none => s
  | some t =>
    (countedWaits t).foldl (fun s w => (uncount s w.2.2.1).modGroup key w.1 (fun g => g.modSplit w.2.1.idx uncounted)) s

/-- An allocation stops being live: every `bwait` of another team that waits on an object in it through the window lowers its waiters and
traps 0x13 (06 R191, R202). -/
def loseWindow (s : State) (key : Nat) : State :=
  match tabGet s.teams key with
  | none => s
  | some t =>
    let lo := spadAddr t.core t.spadOff
    s.teams.foldl (fun s u =>
      if u.1 = key then s else
      (countedWaits u.2).foldl (fun s w =>
        if w.2.2.2 && overlaps w.2.2.1 (w.2.2.1 + 16) lo (lo + t.spadSize) then
          let o := match w.2.1.wait with | .bwait o _ _ _ _ => o | _ => 0
          let npc := match w.2.1.wait with | .bwait _ _ _ _ n => n | _ => 0
          let s := (uncount s w.2.2.1).modGroup u.1 w.1 (fun g => g.modSplit w.2.1.idx (fun sp => { sp with wait := .none }))
          takeTrap s { key := u.1, core := u.2.core, group := w.1, split := w.2.1.idx, unit := w.2.1.pc, npc := npc
                       splitLanes := w.2.1.mask, defer := w.2.1.stack.length, op := 0 }
            { code := 0x13, d0 := o, d1 := w.2.1.mask.toNat, lanes := w.2.1.mask }
        else s) s) s

/-! ### tsync and clsync (06 R204, R205) -/

/-- Release every split of a group that waits in `tsync` (or in `clsync`). -/
def releaseSync (cl : Bool) (g : Group) : Group :=
  { g with splits := g.splits.map (fun sp =>
      match sp.wait, cl with
      | .tsync npc, false => { tick sp with pc := npc, wait := .none }
      | .clsync npc, true => { tick sp with pc := npc, wait := .none }
      | _, _ => sp) }

/-- The groups of a team that have not ended. -/
def liveGroups (t : Team) : List Nat := (t.groups.filter (fun g => !g.2.ended)).map (·.1)

/-- The team's round completes once every unended group has arrived. -/
def tsyncTry (s : State) (key : Nat) : State :=
  s.modTeam key (fun t =>
    if !t.arrived.isEmpty && (liveGroups t).all (fun g => t.arrived.contains g) then
      { t with arrived := [], groups := t.groups.map (fun g => (g.1, releaseSync false g.2)) }
    else t)

/-- The teams of a team's cluster. -/
def clusterKeys (s : State) (t : Team) : List Nat :=
  match tabGet s.grids t.grid with
  | some g => (g.launch.cluster t.teamid).map (teamKey t.grid)
  | none => []

/-- A team has ended, or every unended group of it has issued `clsync` in the round. -/
def clArrivedAll (s : State) (key : Nat) : Bool :=
  match tabGet s.teams key with
  | none => true
  | some t => t.st == .ended || (!t.clArrived.isEmpty && (liveGroups t).all (fun g => t.clArrived.contains g))

/-- The cluster's round completes once every unended team has arrived. -/
def clsyncTry (s : State) (key : Nat) : State :=
  match tabGet s.teams key with
  | none => s
  | some t =>
    let ks := clusterKeys s t
    if ks.all (clArrivedAll s) then
      ks.foldl (fun s k => s.modTeam k (fun t => { t with clArrived := [], groups := t.groups.map (fun g => (g.1, releaseSync true g.2)) })) s
    else s

/-- Arrive in the team's round and wait. -/
def tsyncUnit (s : State) (c : Ctx) : State :=
  if replayFull s c || releaseWaits s c then s else
  let s := (releaseWrites s c).modTeam c.key (fun t =>
    { t.served c.group.num c.split.idx with arrived := setAdd t.arrived c.group.num
                                            groups := tabMod t.groups c.group.num (fun g => g.modSplit c.split.idx (fun sp => { sp with wait := .tsync s.unit.npc })) })
  tsyncTry s c.key

/-- `tsync`. -/
def execTsync (s : State) : Out := issue s fun c => tsyncUnit s c

/-- `clsync`; in a team that is not clustered it acts as `tsync`. -/
def execClsync (s : State) : Out :=
  issue s fun c =>
    if !c.grid.launch.clustered then tsyncUnit s c
    else if replayFull s c || releaseWaits s c then s
    else
      let s := (releaseWrites s c).modTeam c.key (fun t =>
        { t.served c.group.num c.split.idx with clArrived := setAdd t.clArrived c.group.num
                                                groups := tabMod t.groups c.group.num (fun g => g.modSplit c.split.idx (fun sp => { sp with wait := .clsync s.unit.npc })) })
      clsyncTry s c.key

/-! ### A waiting split's turn -/

/-- What a split that waits does in its turn: it looks whether its wait has ended. -/
def pollWait (s : State) (c : Ctx) : State :=
  if c.group.stopped then s else
  match c.split.wait with
  | .none => s
  | .join j _ => joinPoll s c j
  | .bwait o ph window counted npc => bwaitPoll s c o ph window counted npc
  | .tsync _ => tsyncTry s c.key
  | .clsync _ => clsyncTry s c.key

end Sys2Proof.Machine
end

