-- ==== Sys2Proof/Machine/LoadStore.lean ====
section
/-! DEFINITION. Loads, stores, scratchpad accesses, prefetch and `mwait` (06 R176 to R190). -/

namespace Sys2Proof.Machine

open Sys2Proof

/-! ### Shared forms -/

/-- Bytes of a size field (02 R67). -/
def sizeOf (sz : BitVec 2) : Nat := 2 ^ sz.toNat

/-- A lane address as a number. -/
def eaOf (s : State) (c : Ctx) (k vi n l : Nat) : Nat := (laneEa s c.group k vi n l).toNat

/-- A load of `n` bytes in each acting lane into registers from `d` (06 R182), by the read-only path for `ld.ro`. Lanes in the peer window leave
a link operation, which writes the registers when every lane has its answer (15 R434). A denied `ld.ro` appends the event of a load, path 0: the
manual gives path 1 to a line that is forwarded, and does not say which of the two a denial takes (log 103). -/
def loadLanes (s : State) (c : Ctx) (d n : Nat) (sx : Bool) (frees : List Nat) (look : Nat) (ea : Nat → Nat) (ro : Bool := false) : State :=
  let m := acting s c
  let looks := looksOf s c .load m n ea ro
  let far := looks.any (Look.remote s)
  if far && replayFull s c then s else
  memCourse s c none .load 0 looks [] { frees := frees, v := loadWrites d n m (fun _ => 0) } fun s' =>
    if far then
      let (s1, reqs) := windowBegin s' c .load false true ro (fun _ => []) looks
      beginLoad s1 c { frees := frees, v := loadWrites d n m (fun _ => 0) } m look (windowOp .windowLoad 0 n d sx ro looks (fun _ => []) reqs)
    else
      let s1 := settle s' c looks
      finish (noteLooks s1 c false true looks) c
        { frees := frees, v := loadWrites d n m (fun l => extendTo n sx (if ro then roNum s1 c looks l else loadNum s1 c looks l)) }

/-- Write the near lanes' bytes in ascending order of lanes, so that the highest lane of a collision wins (03 R87). -/
def storeNear (s : State) (looks : List Look) (data : Nat → List Byte) : State :=
  looks.foldl (fun s k => match k.piece with | some p => s.write p.pa (data k.lane) | none => s) s

/-- A store of `n` bytes in each acting lane (06 R182). With lanes in the peer window the whole unit is a link operation, which completes when the
remote has acknowledged it, and writes its other lanes then (15 R434). -/
def storeLanes (s : State) (c : Ctx) (n : Nat) (frees : List Nat) (look : Nat) (data : Nat → List Byte) (ea : Nat → Nat) : State :=
  let m := acting s c
  let looks := looksOf s c .store m n ea
  let far := looks.any (Look.remote s)
  if far && replayFull s c then s else
  memCourse s c none .store 0 looks [] { frees := frees } fun s' =>
    if far then
      let (s1, reqs) := windowBegin s' c .store true true false data looks
      beginLoad s1 c { frees := frees } m look (windowOp .windowStore 0 n 0 false false looks data reqs)
    else finish (storeNear (noteLooks (settle s' c looks) c true true looks) looks data) c { frees := frees }

/-! ### Loads and stores (06 R182, R183) -/

/-- `ld`. -/
def execLd (m r : BitVec 1) (l : BitVec 4) (sz : BitVec 2) (i : BitVec 6) (k : BitVec 4) (d : BitVec 6) (s : State) : Out :=
  issue s fun c => loadLanes s c d.toNat (sizeOf sz) (m == 1) (indexMark r i) l.toNat (eaOf s c k.toNat i.toNat (sizeOf sz))

/-- `st`. -/
def execSt (r : BitVec 1) (l : BitVec 4) (sz : BitVec 2) (i : BitVec 6) (k : BitVec 4) (d : BitVec 6) (s : State) : Out :=
  issue s fun c =>
    storeLanes s c (sizeOf sz) (indexMark r i) l.toNat (storeBytes c.group d.toNat (sizeOf sz)) (eaOf s c k.toNat i.toNat (sizeOf sz))

/-- `ld.q`: each lane's 16 bytes, register vd + j holding bytes 4j to 4j + 3. -/
def execLdQ (r : BitVec 1) (l : BitVec 4) (i : BitVec 6) (k d : BitVec 4) (s : State) : Out :=
  issue s fun c => loadLanes s c (4 * d.toNat) 16 false (indexMark r i) l.toNat (eaOf s c k.toNat i.toNat 16)

/-- `st.q`. -/
def execStQ (r : BitVec 1) (l : BitVec 4) (i : BitVec 6) (k d : BitVec 4) (s : State) : Out :=
  issue s fun c => storeLanes s c 16 (indexMark r i) l.toNat (storeBytes c.group (4 * d.toNat) 16) (eaOf s c k.toNat i.toNat 16)

/-- `ld.ro` (06 R183): the effect of `ld`, with the visibility of 03 R85. -/
def execLdRo (m r : BitVec 1) (l : BitVec 4) (sz : BitVec 2) (i : BitVec 6) (k : BitVec 4) (d : BitVec 6) (s : State) : Out :=
  issue s fun c => loadLanes s c d.toNat (sizeOf sz) (m == 1) (indexMark r i) l.toNat (eaOf s c k.toNat i.toNat (sizeOf sz)) true

/-! ### Loads that act once (06 R184, R185) -/

/-- `ldk`: 4 or 8 bytes into uniform registers; unguarded, with the outcome of a one-lane access. -/
def execLdk (l : BitVec 4) (sz : BitVec 1) (k : BitVec 4) (d : BitVec 5) (s : State) : Out :=
  issue s fun c =>
    let n := if sz = 1 then 8 else 4
    let m := c.split.mask
    let looks := [lookAt s c .load none true (lowLane m) (unitEa s c.group k.toNat).toNat n n]
    let far := looks.any (Look.remote s)
    if far && replayFull s c then s else
    memCourse s c (some m) .load 0 looks [] {} fun s' =>
      if far then
        let (s1, reqs) := windowBegin s' c .load false false false (fun _ => []) looks
        beginOp (finish s1 c {}) c m l.toNat (windowOp .windowLoad 1 n d.toNat false false looks (fun _ => []) reqs)
      else
        let s1 := settle s' c looks
        let v := loadNum s1 c looks (lowLane m)
        finish (noteLooks s1 c false false looks) c { k := (List.range (n / 4)).map (fun j => (d.toNat + j, BitVec.ofNat 32 (v / 2 ^ (32 * j)))) }

/-- `ldl`: `n` registers in every lane from `n` × 128 bytes. -/
def execLdl (l : BitVec 4) (sz : BitVec 2) (k : BitVec 4) (d : BitVec 6) (s : State) : Out :=
  issue s fun c =>
    let n := sizeOf sz
    let m := c.split.mask
    let ea := (unitEa s c.group k.toNat).toNat
    let looks := (List.range n).map (fun j => lookAt s c .load none true j ((ea + 128 * j) % 2 ^ 64) 128 128)
    let far := looks.any (Look.remote s)
    let writes := fun (f : Nat → Nat → Nat) =>
      (List.range n).map (fun j => (d.toNat + j, 0xffffffff#32, fun lane => BitVec.ofNat 32 (f j lane)))
    if far && replayFull s c then s else
    memCourse s c (some m) .load 0 looks [] { v := writes (fun _ _ => 0) } fun s' =>
      if far then
        let (s1, reqs) := windowBegin s' c .load false false false (fun _ => []) looks
        beginLoad s1 c { v := writes (fun _ _ => 0) } m l.toNat (windowOp .windowLoad 2 (128 * n) d.toNat false false looks (fun _ => []) reqs)
      else
        let s1 := settle s' c looks
        let rows := looks.map (fun j => match j.piece with | some p => readPiece s1 c.q p | none => [])
        finish (noteLooks s1 c false false looks) c { v := writes (fun j lane => natOfBytes (((rows.getD j []).drop (4 * lane)).take 4)) }

/-! ### Scratchpad (06 R186) -/

/-- A scratchpad load in each acting lane, always zero-extended. -/
def spadLoad (s : State) (c : Ctx) (d n : Nat) (frees : List Nat) (look : Nat → SpadLook) : State :=
  let m := acting s c
  let looks := (lanesOf m).map look
  spadCourse s c looks { frees := frees, v := loadWrites d n m (spadNum s looks) } id

/-- A scratchpad store in each acting lane. -/
def spadStore (s : State) (c : Ctx) (d n : Nat) (frees : List Nat) (look : Nat → SpadLook) : State :=
  let looks := (lanesOf (acting s c)).map look
  spadCourse s c looks { frees := frees } (fun s => looks.foldl (fun s k => s.write k.pa (storeBytes c.group d n k.lane)) s)

/-- `lds`. A load completes within its step, so its lookahead bounds nothing. -/
def execLds (r : BitVec 1) (_l : BitVec 4) (sz : BitVec 2) (i : BitVec 6) (k : BitVec 5) (d : BitVec 6) (s : State) : Out :=
  issue s fun c => spadLoad s c d.toNat (sizeOf sz) (indexMark r i)
    (fun l => lookSpad s c false l (laneOff s c.group k.toNat i.toNat (sizeOf sz) l) (sizeOf sz))

/-- `sts`. -/
def execSts (r : BitVec 1) (_l : BitVec 4) (sz : BitVec 2) (i : BitVec 6) (k : BitVec 5) (d : BitVec 6) (s : State) : Out :=
  issue s fun c => spadStore s c d.toNat (sizeOf sz) (indexMark r i)
    (fun l => lookSpad s c true l (laneOff s c.group k.toNat i.toNat (sizeOf sz) l) (sizeOf sz))

/-- `ldsd`. -/
def execLdsd (r : BitVec 1) (_l : BitVec 4) (sz : BitVec 2) (i : BitVec 6) (k : BitVec 5) (d : BitVec 6) (s : State) : Out :=
  issue s fun c => spadLoad s c d.toNat (sizeOf sz) (indexMark r i)
    (fun l => lookWindow s c false l (laneOff s c.group k.toNat i.toNat (sizeOf sz) l) (sizeOf sz))

/-- `stsd`. -/
def execStsd (r : BitVec 1) (_l : BitVec 4) (sz : BitVec 2) (i : BitVec 6) (k : BitVec 5) (d : BitVec 6) (s : State) : Out :=
  issue s fun c => spadStore s c d.toNat (sizeOf sz) (indexMark r i)
    (fun l => lookWindow s c true l (laneOff s c.group k.toNat i.toNat (sizeOf sz) l) (sizeOf sz))

/-! ### Prefetch (06 R187) -/

/-- The line that a lane's prefetch brings in; none where it is dropped (06 R187, 07 R227, R232). -/
def prefetchLine (s : State) (c : Ctx) (lane va : Nat) : Option Nat :=
  let k := lookAt s c .load (tabGet c.group.lastPage lane) true lane va 1 1
  match k.piece with
  | some p => if k.traps.isEmpty && k.denied.isNone && p.x.region != 1 && p.x.region != 2 then some (alignDown p.pa 128) else none
  | none => none

/-- `pf`: no effect but the flush of update-only lines that it names (07 R219). -/
def execPf (r : BitVec 1) (_l : BitVec 4) (i : BitVec 6) (k : BitVec 4) (s : State) : Out :=
  issue s fun c =>
    let ls := (lanesOf (acting s c)).filterMap (fun l => prefetchLine s c l (eaOf s c k.toNat i.toNat 1 l))
    if ls.any (fun a => flushHeld s c.core (fun u => u.pa == a)) then s
    else finish (ls.foldl (fun s a => flushMet s c.core a 128) s) c { frees := indexMark r i }

/-! ### mwait (06 R188) -/

/-- The awaited word has reached or passed the awaited 48-bit value. -/
def reached (w target : Nat) : Bool := decide ((w % 2 ^ 48 + 2 ^ 48 - target % 2 ^ 48) % 2 ^ 48 < 2 ^ 47)

/-- The word into the pair. -/
def waitWrites (kd w : Nat) : List (Nat × Word) := [(kd, BitVec.ofNat 32 w), (kd + 1, BitVec.ofNat 32 (w / 2 ^ 32))]

/-- The acquire of an `mwait` orders every earlier load before the accesses of units beyond its window (03 R94, 06 R188): earlier lookahead
windows of the split end with its own. -/
def capWindows (s : State) (c : Ctx) (look : Nat) : State :=
  if c.split.windows.isEmpty then s else
  s.modGroup c.key c.group.num (fun g => g.modSplit c.split.idx (fun sp => { sp with windows := sp.windows.map (fun w => (w.1, Nat.min w.2 (look + 1))) }))

/-- `mwait`: it returns at once, or stays in flight until a re-read finds the value. A word of the peer window is read by a link
operation (15 R434). -/
def execMwait (l k d : BitVec 4) (s : State) : Out :=
  issue s fun c =>
    if replayFull s c then s else
    let m := c.split.mask
    let ea := (unitEa s c.group k.toNat).toNat
    let kd := 2 * d.toNat
    let target := (c.group.kpair kd).toNat % 2 ^ 48
    let look := lookAt s c .load none false (lowLane m) ea 8 8
    if ownUpdates s c then s else
    memCourse s c (some m) .load 3 [look] [] {} fun s' =>
      let s0 := capWindows s' c l.toNat
      let s1 := settle s0 c [look]
      let w := loadNum s1 c [look] (lowLane m)
      let s2 := noteLooks s1 c false false [look]
      if look.remote s then
        let (s3, reqs) := windowBegin s0 c .load false false false (fun _ => []) [look]
        beginOp (finish s3 c {}) c m l.toNat (.link { Link.of .windowWait reqs with size := 8, vd := kd, dst := target, audited := look.denied.isSome })
      else if reached w target then finish s2 c { k := waitWrites kd w }
      else beginOp (finish s2 c {}) c m l.toNat (.mwait { va := BitVec.ofNat 64 ea, target := target, kd := kd, audited := look.denied.isSome })

/-- The context of an operation: its own split, or one in its place. -/
def opCtxAny (s : State) (o : Op) : Option Ctx :=
  match tabGet s.teams o.team, opQueue s o, tabGet s.grids o.grid with
  | some t, some q, some g =>
    (tabGet t.groups o.group).map (fun gr =>
      { core := o.core, key := o.team, team := t, live := gr, group := gr, q := q, grid := g
        split := (gr.splits.find? (fun sp => sp.idx == o.split)).getD
          { pc := o.npc, mask := o.lanes, idx := o.split, stack := [], wait := .none, windows := [], replay := none } })
  | _, _, _ => none

/-- The same, while its team is RUNNING on the core that issued it. -/
def opCtx (s : State) (o : Op) : Option Ctx :=
  match (s.core o.core).running with
  | some sl => if sl.team = o.team then opCtxAny s o else none
  | none => none

/-- Registers change when an operation completes, whatever its split does; a group that has ended has none (04 R121). -/
def opWrites (s : State) (o : Op) (e : Eff) : State := s.modLive o.team o.group (fun g => g.apply e)

/-- A waiting `mwait` reads its word again: it returns, goes on waiting, faults or traps (06 R188, R190). A word of the peer window is asked for
(15 R434). -/
def execMwaitReread (team group split : Nat) (s : State) : Out :=
  let isIt := fun (x : Nat × Op) => x.2.team == team && x.2.group == group && x.2.split == split && !x.2.halted &&
    (match x.2.body with | .mwait _ => true | _ => false)
  match s.ops.find? isIt with
  | none => .next s
  | some (id, o) =>
    match opCtx s o, o.body with
    | some c, .mwait w =>
      let look := lookAt s c .load none false (lowLane o.lanes) w.va.toNat 8 8
      match lowest (condsOf (some o.lanes) look.traps) with
      | some t => .next (takeTrap (noteWalks s c false [look]) (opSite s id o) t)
      | none =>
        match faultOf (some o.lanes) .load [look] with
        | some f => .next (takeFault (noteWalks s c false [look]) (opSite s id o) f)
        | none =>
          if mustWait s (c.before id) .load [look] || returnWaits s c id then .next s else
          let cause := look.denied.getD 0
          let far := look.remote s
          let s := if look.denied.isSome && !w.audited then opAuditL s o w.va.toNat o.lanes.toNat 8 0 cause 3 0 else s
          let audited := w.audited || look.denied.isSome
          if far then
            let (s, reqs) := windowBegin s c .load false false false (fun _ => []) [look]
            .next (s.putOp id { o with body := .link { Link.of .windowWait reqs with size := 8, vd := w.kd, dst := w.target, audited := audited } })
          else
            let s := settle s c [look]
            let v := loadNum s c [look] (lowLane o.lanes)
            let s := noteLooks s c false false [look]
            if reached v w.target then .next (endOp (opWrites s o { k := waitWrites w.kd v }) id)
            else .next (s.putOp id { o with body := .mwait { w with audited := audited } })
    | _, _ => .next s

end Sys2Proof.Machine
end

