-- ==== Sys2Proof/Machine/Convert.lean ====
section
/-! DEFINITION. Ranges of engine operations (03 R95 to R99), and the conversions `mxq` and `mxd` (08 R268 to R274). -/

namespace Sys2Proof.Machine

open Sys2Proof

/-! ### Ranges of engine operations -/

/-- A range that an operation reads or writes: virtual addresses, or offsets of the team's allocation; both exact. -/
structure Rng where
  sp : Space
  addr : Nat
  n : Nat
  write : Bool
  deriving DecidableEq, Repr

/-- Before an engine operation, every earlier access of the group is performed, as by a release fence (03 R95): update-only lines are flushed
and write-combining entries closed. It waits for what a release waits for: an `mwait` that has not returned, accesses through the peer window,
and held flushes. -/
def engineWaits (s : State) (c : Ctx) : Bool := releaseWaits s c

/-- First and last byte of a virtual range are canonical (14 R408). -/
def rngCanonical (r : Rng) : Bool := canonical (BitVec.ofNat 64 r.addr) && canonical (BitVec.ofNat 64 (r.addr + r.n - 1))

/-- The conditions of a range that the core checks at issue: 0x11, 0x12, 0x14 and, where the form is checked against the table, 0x10. -/
def rngConds (s : State) (c : Ctx) (locks : Bool) (r : Rng) : List Cond :=
  let m := c.split.mask
  match r.sp with
  | .mem =>
    wholeCond (!rngCanonical r) 0x11 (r.addr % 2 ^ 64) m.toNat m ++
    (if locks then match virtConflict s c.core c.q.asid r.addr r.n r.write with
      | some i => [{ code := 0x10, d0 := r.addr, d1 := i, lanes := m }] | none => [] else [])
  | .spad =>
    wholeCond (decide (r.addr + r.n > c.team.spadSize)) 0x12 r.addr c.team.spadSize m ++
    (if locks then match spadConflict s c.core c.key r.addr r.n r.write with
      | some i => [{ code := 0x10, d0 := r.addr, d1 := i, lanes := m }] | none => [] else []) ++
    (if r.write && decide (r.addr + r.n ≤ c.team.spadSize) then match teamTag s c.team r.addr r.n with
      | some g => [{ code := 0x14, d0 := g, d1 := m.toNat, lanes := m }] | none => [] else [])

/-- An entry for a range of a team: virtual in its queue's address space, or offsets of its allocation, rounded outward (03 R97). -/
def rangeEntry (key asid : Nat) (r : Rng) (op : Nat) : RangeLock :=
  { lo := alignDown r.addr 64, hi := alignUp (r.addr + r.n) 64, asid := if r.sp = .mem then some asid else none, write := r.write, team := key, op := op }

/-- The place in the scratchpad windows of a virtual range's first byte, where the range is given through them. -/
def windowPlace (s : State) (q : Queue) (core : Nat) (r : Rng) : Option Nat :=
  if r.sp = .spad then none else
  match translate s q none none (dieOf core) (r.addr % 2 ^ 64) r.write with
  | (.leaf x, _) => if placeOf s (x.pa (r.addr % 2 ^ 64)) = some .window then some (x.pa (r.addr % 2 ^ 64) - 0x8000000000) else none
  | _ => none

/-- The entries of a range (03 R97): one given through the scratchpad window is entered as a scratchpad range where it falls in the core's own
scratchpad, and not at all elsewhere. Its first byte tells whether it is given so, and bytes outside the team's allocation, which no
lane of the team reaches by an offset, stand beyond every allocation (log 91). -/
def entriesFor (s : State) (q : Queue) (core key spadOff : Nat) (r : Rng) (op : Nat) : List RangeLock :=
  match windowPlace s q core r with
  | none => [rangeEntry key q.asid r op]
  | some w =>
    if w / 524288 ≠ core || decide (w % 524288 + r.n > 524288) then []
    else
      let o := w % 524288
      [rangeEntry key q.asid { r with sp := .spad, addr := if o < spadOff then 524288 + o else o - spadOff } op]

/-- The entries of a unit's ranges. -/
def rngLocks (s : State) (c : Ctx) (rs : List Rng) (op : Nat) : List RangeLock :=
  rs.flatMap (fun r => entriesFor s c.q c.core c.key c.team.spadOff r op)

/-- Enough entries are free for a unit's ranges (03 R100). -/
def locksFor (s : State) (c : Ctx) (rs : List Rng) : Bool := locksFit s c.core (rngLocks s c rs s.nextOp).length

/-- Issue an engine operation: earlier accesses are performed, its ranges are entered, the unit ends with its register effects, and the
operation is in flight. -/
def issueOp (s : State) (c : Ctx) (rs : List Rng) (e : Eff) (look : Nat) (body : OpBody) : State :=
  let s := enterLocks (releaseWrites s c) c.core (rngLocks s c rs s.nextOp)
  beginOp (finish s c e) c c.split.mask look body

/-- Pages of a virtual range as an engine of a die translates them; nothing is translated for a scratchpad range. -/
def rngReach (s : State) (c : Ctx) (r : Rng) : Reach :=
  match r.sp with
  | .mem => if rngCanonical r then reach s c.q none none (dieOf c.core) r.write r.addr r.n else .ok []
  | .spad => .ok []

/-- The pieces of a range that is reached whole. -/
def Reach.pieces : Reach → List Piece
  | .ok ps => ps
  | _ => []

/-- Bytes of a range. -/
def rngBytes (s : State) (c : Ctx) (r : Rng) : List Byte :=
  match r.sp with
  | .mem => readPieces s c.q (rngReach s c r).pieces
  | .spad => s.bytes (c.team.spadAt r.addr) r.n

/-- Write bytes over a range. -/
def rngWrite (s : State) (c : Ctx) (r : Rng) (bs : List Byte) : State :=
  match r.sp with
  | .mem => writePieces s (rngReach s c r).pieces bs
  | .spad => s.write (c.team.spadAt r.addr) bs

/-- The lowest denied class of pieces, and how many bytes are denied. -/
def piecesDenied (s : State) (c : Ctx) (ps : List Piece) : Option Nat := (ps.filterMap (deniedClass s c.q)).min?
def piecesCount (s : State) (c : Ctx) (ps : List Piece) : Nat := (ps.map (deniedCount s c.q)).foldl (· + ·) 0

/-- The address of the lowest denied byte of pieces. -/
def piecesFirst (s : State) (c : Ctx) (ps : List Piece) : Nat :=
  (((ps.filter (fun p => (deniedClass s c.q p).isSome)).map (fun p =>
    p.va + ((List.range p.n).find? (byteDenied s c.q p)).getD 0)).min?).getD 0

/-- Every page of a virtual range with its translation, as an engine of the core's die finds it. -/
def rngPages (s : State) (c : Ctx) (r : Rng) : List (Nat × Nat × Walk × Bool) :=
  match r.sp with
  | .mem => if rngCanonical r then (pageCuts r.addr r.n).map (fun k => (k.1, k.2, translate s c.q none none (dieOf c.core) k.1 r.write)) else []
  | .spad => []

/-- The pieces of a virtual range whose pages have a translation, whatever the other pages meet. -/
def rngLeaves (s : State) (c : Ctx) (r : Rng) : List Piece :=
  (rngPages s c r).filterMap (fun k =>
    match k.2.2.1 with
    | .leaf x => some { va := k.1, pa := x.pa k.1, n := k.2.1, x := x, walked := k.2.2.2 }
    | _ => none)

/-- A granule with an initialised barrier that a write through the scratchpad window meets, as an offset of the window (06 R195, R206). -/
def windowTag (s : State) (p : Piece) : Option Nat :=
  if placeOf s p.pa = some .window then (tagIn s p.pa p.n).map (fun g => (g - 0x8000000000) % 2 ^ 26) else none

/-- The conditions of one page of a Quern operand. -/
def quernPieceConds (s : State) (c : Ctx) (write : Bool) (p : Piece) : List Cond :=
  let m := c.split.mask
  wholeCond (p.x.region == 2) 0x24 p.va 2 m ++
  (match (if write && p.x.region == 2 then windowTag s p else none) with | some g => [{ code := 0x14, d0 := g, d1 := m.toNat, lanes := m }] | none => []) ++
  wholeCond (write && p.readOnly) 0x22 p.va p.x.leaf.toNat m ++
  (match (if write then badPart s p.pa p.n else badAdmitted s c.q p) with
    | some g => [{ code := 0x25, d0 := p.va, d1 := g, lanes := m }]
    | none => []) ++
  (if p.x.region = 1 then
    (rawCode s c.team.queue c.q p.va p.n write).map (fun k => { code := k, d0 := p.va, d1 := m.toNat, lanes := m }) ++
      wholeCond (!write && headerMet s c.team.queue c.q p.va p.n) 0x54 p.va m.toNat m
   else []) ++
  (match deniedClass s c.q p with | some k => if write then [{ code := 0x21, d0 := p.va, d1 := k, lanes := m }] else [] | none => [])

/-- Trap conditions that the pages of a Quern operand give, of every page whatever the others meet (08 R272, 09 R286, 01 R40). -/
def quernPageConds (s : State) (c : Ctx) (r : Rng) : List Cond :=
  (rngPages s c r).flatMap (fun k =>
    match k.2.2.1 with
    | .invalid _ _ => []
    | .malformed l e => [{ code := 0x23, d0 := k.1, d1 := entryWithLevel l e, lanes := c.split.mask }]
    | .bad g => [{ code := 0x25, d0 := k.1, d1 := g, lanes := c.split.mask }]
    | .leaf x => quernPieceConds s c r.write { va := k.1, pa := x.pa k.1, n := k.2.1, x := x, walked := k.2.2.2 })

/-- The walks that the checks of a range made, whatever becomes of its unit (07 R228). -/
def rngWalks (s : State) (c : Ctx) (r : Rng) : State :=
  (rngPages s c r).foldl (fun s k =>
    match k.2.2 with
    | (.leaf x, true) => noteXlat s none (dieOf c.core) x r.write true
    | _ => s) s

/-- The page fault that a range of the Quern meets: its lowest invalid page (07 R241: source 2). -/
def quernFault (s : State) (c : Ctx) (r : Rng) : Option FaultInfo :=
  (rngPages s c r).findSome? (fun k =>
    match k.2.2.1 with
    | .invalid l e => some { va := k.1, lanes := 0, level := l, entry := e, access := if r.write then 5 else 4, source := 2 }
    | _ => none)

/-- An access to a range waits: a page of it is being moved (07 R233). -/
def rngHeld (s : State) (c : Ctx) (r : Rng) : Bool := r.write && (rngReach s c r).pieces.any (fun p => heldByMigration s p.pa p.n)

/-- Entries of the write-combining buffers that a read meets are closed (12 R363). -/
def rngClose (s : State) (c : Ctx) (r : Rng) : State :=
  (rngReach s c r).pieces.foldl (fun s p => if p.x.region = 1 then closeRead s c.team.queue p.va p.n else s) s

/-- What a range's translations leave behind. -/
def rngNote (s : State) (c : Ctx) (r : Rng) : State := notePieces s c.q none (dieOf c.core) r.write (rngReach s c r).pieces

/-! ### mxq and mxd (08 R268 to R273) -/

/-- Bytes of the MX run and of the plain run of a conversion (08 R269). -/
def Conv.mxBytes (v : Conv) : Nat := (v.fmt.blockBytes + 1) * v.n
def Conv.plainBytes (v : Conv) : Nat := 32 * (if v.bf then 2 else 4) * v.n

/-- The source and destination ranges. -/
def Conv.source (v : Conv) : Rng := { sp := v.srcSp, addr := v.src, n := if v.quant then v.plainBytes else v.mxBytes, write := false }
def Conv.dest (v : Conv) : Rng := { sp := v.dstSp, addr := v.dst, n := if v.quant then v.mxBytes else v.plainBytes, write := true }

/-- The destination bytes (08 R270, R271). -/
def Conv.result (v : Conv) (src : List Byte) : List Byte :=
  if v.quant then
    let vals := if v.bf then (chunks (32 * v.n) 2 src).map (fun b => bf16Num (natOfBytes b))
                else (chunks (32 * v.n) 4 src).map (fun b => f32Num (BitVec.ofNat 32 (natOfBytes b)))
    mxRun v.fmt v.n vals
  else
    let vals := runValues v.fmt v.n src
    if v.bf then vals.flatMap (fun x => bytesOf 2 (fround bf16 .rne x)) else vals.flatMap (fun x => bytesOf 4 (fround fp32 .rne x))

/-- Conditions of a conversion (08 R272); range conflicts are met at issue only. -/
def convConds (s : State) (c : Ctx) (v : Conv) (locks : Bool) : List Cond :=
  let m := c.split.mask
  rngConds s c locks v.source ++ rngConds s c locks v.dest ++
  wholeCond (v.src % 4 != 0) 0x20 v.src m.toNat m ++ wholeCond (v.dst % 4 != 0) 0x20 v.dst m.toNat m ++
  quernPageConds s c v.source ++ quernPageConds s c v.dest

/-- The walks of a conversion's two runs. -/
def convWalks (s : State) (c : Ctx) (v : Conv) : State := rngWalks (rngWalks s c v.source) c v.dest

/-- The audit event of a denied destination, which comes with its trap. -/
def convAudit (s : State) (c : Ctx) (v : Conv) (t : Cond) (unit : DWord) : State :=
  if t.code = 0x21 then
    let ps := rngLeaves s c v.dest
    audit s c.team.queue { unit := unit.toNat, va := piecesFirst s c ps, identity := c.q.identity.toNat, grid := c.team.grid, team := c.team.teamid
                           lanes := 0, count := piecesCount s c ps, detail := 0, cls := (piecesDenied s c ps).getD 0, core := c.core
                           group := c.group.num, path := 7, kind := 1 }
  else s

/-- The operand block begins at k(8q) (08 R269). -/
def operandAddr (g : Group) (sp : Space) (k : Nat) : Nat :=
  match sp with
  | .mem => (g.kpair k).toNat
  | .spad => (g.kread k).toNat

/-- The issue of `mxq` and `mxd`. -/
def convUnit (s : State) (c : Ctx) (quant : Bool) (f : BitVec 3) (d sp t : BitVec 1) (k : BitVec 2) (look : Nat) : State :=
  let kq := 8 * k.toNat
  let space := fun (b : BitVec 1) => if b = 1 then Space.spad else Space.mem
  let v : Conv := { quant := quant, fmt := (mxfmtOf f.toNat).getD .mxe4m3, bf := t == 1, n := (c.group.kread (kq + 4)).toNat % 4096 + 1
                    dst := operandAddr c.group (space d) kq, dstSp := space d, src := operandAddr c.group (space sp) (kq + 2), srcSp := space sp }
  match lowest (convConds s c v true) with
  | some t => takeTrap (convWalks (convAudit s c v t s.unit.addr) c v) (unitSite s c) t
  | none =>
    match (quernFault s c v.source).or (quernFault s c v.dest) with
    | some f => takeFault (convWalks s c v) (unitSite s c) f
    | none => if replayFull s c || engineWaits s c || !locksFor s c [v.source, v.dest] then s else issueOp s c [v.source, v.dest] {} look (.conv v)

/-- `mxq`. -/
def execMxq (l : BitVec 4) (f : BitVec 3) (d sp t : BitVec 1) (k : BitVec 2) (s : State) : Out :=
  issue s fun c => convUnit s c true f d sp t k l.toNat

/-- `mxd`. -/
def execMxd (l : BitVec 4) (f : BitVec 3) (d sp t : BitVec 1) (k : BitVec 2) (s : State) : Out :=
  issue s fun c => convUnit s c false f d sp t k l.toNat

/-- The conversion performs every destination byte and completes (08 R273). What it meets by then, it meets as a unit that takes no effect
(08 R272). -/
def execConversionComplete (op : Nat) (s : State) : Out :=
  match tabGet s.ops op with
  | none => .next s
  | some o =>
    match opCtxAny s o, o.body with
    | some c, .conv v =>
      if o.halted then .next s else
      match lowest (convConds s c v false) with
      | some t => .next (takeTrap (convWalks (convAudit s c v t o.unit) c v) (opSite s op o) t)
      | none =>
        match (quernFault s c v.source).or (quernFault s c v.dest) with
        | some f => .next (takeFault (convWalks s c v) (opSite s op o) f)
        | none =>
          if rngHeld s c v.dest then .next s else
          let s := rngClose s c v.source
          let ps := (rngReach s c v.source).pieces
          let src := rngBytes s c v.source
          let s := match piecesDenied s c ps with
            | some k => opAudit s o (piecesFirst s c ps) (piecesCount s c ps) 0 k 7 0
            | none => s
          let s := rngWrite (rngNote (rngNote s c v.source) c v.dest) c v.dest (v.result src)
          .next (endOp s op)
    | _, _ => .next s

end Sys2Proof.Machine
end

