-- ==== Sys2Proof/Machine/Directory.lean ====
section
/-! DEFINITION. Directory entries (10 R300, R301), page ranges of token groups (10 R299, R312), page lists (10 R303, R304). -/

namespace Sys2Proof.Machine

open Sys2Proof

/-! ### Entries (10 R300) -/

/-- A directory entry; `res` is its reserved bits. -/
structure DirEnt where
  ref : DWord
  summ : Nat
  sweep : Nat
  mass : Nat
  pos0 : Nat
  doc : Nat
  cls : Nat
  version : Nat
  ek : Nat
  ev : Nat
  fill : Nat
  state : Nat
  tier : Nat
  vvar : Bool
  fmt : Nat
  res : Nat
  deriving DecidableEq, Repr

/-- Read an entry from its bits. -/
def dirEnt (w : Nat) : DirEnt :=
  { ref := BitVec.ofNat 64 (bitsOf w 448 64), summ := bitsOf w 416 32, sweep := bitsOf w 384 32, mass := bitsOf w 352 32
    pos0 := bitsOf w 320 32, doc := bitsOf w 288 32, cls := bitsOf w 272 16, version := bitsOf w 256 16, ek := bitsOf w 248 8
    ev := bitsOf w 240 8, fill := bitsOf w 232 8, state := bitsOf w 230 2, tier := bitsOf w 229 1, vvar := bitOf w 228, fmt := bitsOf w 225 3
    res := bitsOf w 0 225 }

/-- The bits of an entry. -/
def DirEnt.bits (e : DirEnt) : Nat :=
  packBits [(225, e.res), (3, e.fmt), (1, e.vvar.toNat), (1, e.tier), (2, e.state), (8, e.fill), (8, e.ev), (8, e.ek), (16, e.version),
    (16, e.cls), (32, e.doc), (32, e.pos0), (32, e.mass), (32, e.sweep), (32, e.summ), (64, e.ref.toNat)]

/-- An entry other than an invalid one is malformed (10 R301), under a geometry of `t` tokens. -/
def DirEnt.malformed (e : DirEnt) (t : Nat) : Bool :=
  e.fmt != 7 && (e.res != 0 || e.fmt == 5 || e.fmt == 6 || e.state == 3 || decide (e.fill > t) ||
    ((e.state == 1 || e.state == 2) && e.fill != t) || (e.state == 0 && e.fmt != 0) || (e.vvar && e.fmt != 2 && e.fmt != 3) || e.ref == 0)

/-- Page exponents of the E4M3 stage, signed. -/
def DirEnt.exp (e : DirEnt) (value : Bool) : Int := signedOf 8 (if value then e.ev else e.ek)

/-- Format of a half. -/
def DirEnt.half (e : DirEnt) (value : Bool) : QFmt := if value then valFmtOf e.fmt e.vvar else keyFmtOf e.fmt

/-! ### Page bodies (10 R299) -/

/-- Body offsets of the 16-row group `g` of a half: its elements, and its scales where it has any. -/
def groupRanges (f : QFmt) (half0 t c g : Nat) : List (Nat × Nat) :=
  let nb := 16 * c / 32
  (half0 + f.blockBytes * (nb * g), f.blockBytes * nb) :: (if f.isMx then [(half0 + f.blockBytes * (t * c / 32) + nb * g, nb)] else [])

/-- Body offset of a half of an entry's page. -/
def DirEnt.halfAt (e : DirEnt) (t c : Nat) (value : Bool) : Nat := if value then halfBytes (e.half false) (t * c) else 0

/-- Ranges of both halves that the 16-row groups occupy. -/
def DirEnt.ranges (e : DirEnt) (t c : Nat) (gs : List Nat) : List (Nat × Nat) :=
  gs.flatMap (fun g => groupRanges (e.half false) (e.halfAt t c false) t c g ++ groupRanges (e.half true) (e.halfAt t c true) t c g)

/-- Decoded elements of a 16-row group from its bytes, elements first and scales after them (10 R312). -/
def DirEnt.decodeGroup (e : DirEnt) (c : Nat) (value : Bool) (bytes : List Byte) : List Num := decodeHalfPage (e.half value) (e.exp value) (16 * c) bytes

/-! ### Page lists (10 R303, R304) -/

/-- A page list's header. -/
structure PageList where
  dirBase : Nat
  sumBase : Nat
  count : Nat
  tcode : Nat
  ccode : Nat
  res : Nat
  deriving DecidableEq, Repr

def pageList (w : Nat) : PageList :=
  { dirBase := bitsOf w 0 64, sumBase := bitsOf w 64 64, count := bitsOf w 128 32, tcode := bitsOf w 160 2, ccode := bitsOf w 162 2, res := bitsOf w 164 92 }

/-- The lowest nonzero bit of a number below 2^n. -/
def lowBit (n w : Nat) : Nat := ((List.range n).find? (fun i => bitOf w i)).getD 0

/-- The first condition of 10 R304 that holds, as the position that detail1 carries. -/
def PageList.bad (h : PageList) (size i0 nl ccode : Nat) : Option Nat :=
  if h.res ≠ 0 then some (164 + lowBit 92 h.res)
  else if h.count = 0 ∨ h.count > 32768 then some 128
  else if h.dirBase % 64 ≠ 0 || !canonical (BitVec.ofNat 64 h.dirBase) then some 0
  else if h.sumBase % 64 ≠ 0 || !canonical (BitVec.ofNat 64 h.sumBase) then some 64
  else if size < 32 + 4 * h.count ∨ i0 + nl > h.count then some 128
  else if h.ccode ≠ ccode then some 162
  else none

end Sys2Proof.Machine
end

