-- ==== Sys2Proof/Machine/HeapForms.lean ====
section
/-! DEFINITION. The heap forms (13 R380 to R391) and view stores to narrow pages (12 R361, R362). -/

namespace Sys2Proof.Machine

open Sys2Proof

/-! ### Lanes and the barrier -/

/-- The heap bound to the issuing queue. -/
def heapOf (s : State) (c : Ctx) : Option Heap := tabGet s.heaps c.team.queue

/-- A heap form of a queue without a heap traps 0x58, a condition of the whole unit (13 R373, 04 R133). -/
def noHeap (s : State) (c : Ctx) : List Cond :=
  wholeCond (heapOf s c).isNone 0x58 s.unit.addr.toNat c.team.queue c.split.mask

/-- The references that a unit's acting lanes read from a register. -/
def laneRefs (s : State) (c : Ctx) (h : Nat) : List DWord := (lanesOf (acting s c)).map (c.group.hlane h)

/-- The course of a heap form: that of its accesses, after the walks that the barrier makes for its references (07 R228). -/
def heapCourse (s : State) (c : Ctx) (refs : List DWord) (acc : Acc) (looks : List Look) (e : Eff) (act : State → State) (hold : Bool := false) : State :=
  memCourse (noteRefs s c.q (heapOf s c) refs) c none acc 0 looks (noHeap s c) e act hold

/-- The barrier's answer for a reference; without a heap nothing is resolved. -/
def resolveFor (s : State) (c : Ctx) (r : DWord) : Res :=
  match heapOf s c with
  | some h => resolve s c.q h r
  | none => .null

/-- What a lane's look is where nothing is met. -/
def lookNone (l : Nat) : Look := { lane := l, va := 0, n := 0, traps := [], fault := none, piece := none, denied := none }

/-- The conditions that the barrier's answer gives a lane. -/
def resLook (l : Nat) (r : Res) : Look :=
  match r with
  | .fail code d0 d1 => { lookNone l with traps := [⟨l, code, d0, d1⟩] }
  | .fault va level entry => { lookNone l with va := va, fault := some (level, entry) }
  | _ => lookNone l

/-- The value that a reference register takes: healed where it resolved, else as it was (13 R381). -/
def healedOf (r : DWord) (res : Res) : DWord :=
  match res with
  | .obj _ _ v => v
  | _ => r

/-- The register write that heals a reference register in the acting lanes. -/
def healWrite (s : State) (c : Ctx) (h : Nat) : Nat × BitVec 32 × (Nat → DWord) :=
  (h, acting s c, fun l => healedOf (c.group.hlane h l) (resolveFor s c (c.group.hlane h l)))

/-- The access waits at a destination whose flip is not acknowledged, or, for a write, at a source in FINAL (13 R392). -/
def resHeld (s : State) (c : Ctx) (write : Bool) (r : Res) : Bool :=
  match r, heapOf s c with
  | .obj a _ _, some h => heldDest h a || (write && heldSource h a)
  | _, _ => false

/-! ### hld and hst (13 R385) -/

/-- The slot lies in the directory of a registered pool of the queue (12 R351). -/
def inDirectory (s : State) (qn va : Nat) : Bool :=
  s.pools.any (fun p => p.2.queue == qn && decide (p.2.sw.dirBase.toNat ≤ va) && decide (va < p.2.sw.dirBase.toNat + 64 * p.2.sw.count))

/-- Where a slot may be healed, by a translation for a write (13 R381): its page and its class can be written, and it is no slot of a directory. Host and
peer windows have no home bank (07 R214). -/
def healPiece (s : State) (c : Ctx) (va : Nat) : Option Piece :=
  match translate s c.q none (some c.core) (dieOf c.core) va true with
  | (.leaf x, walked) =>
    let p : Piece := { va := va, pa := x.pa va, n := 8, x := x, walked := walked }
    let banked := match placeOf s p.pa with | some .host => false | some .peer => false | _ => true
    if p.readOnly || !banked || (deniedClass s c.q p).isSome || inDirectory s c.team.queue va then none else some p
  | _ => none

/-- Heal a slot by compare-and-swap at its home bank (13 R381). -/
def healSlot (s : State) (c : Ctx) (p : Option Piece) (old new : DWord) : State :=
  match p with
  | none => s
  | some p =>
    if old = new || s.num p.pa 8 != old.toNat then s
    else (noteXlat s (some c.core) (dieOf c.core) p.x true p.walked).writeNum p.pa 8 new.toNat

/-- `hld`: load references through the barrier, heal registers and slots. -/
def execHld (r : BitVec 1) (l : BitVec 4) (i : BitVec 6) (k h : BitVec 4) (s : State) : Out :=
  issue s fun c =>
    let m := acting s c
    let looks := looksOf s c .load m 8 (eaOf s c k.toNat i.toNat 8)
    let far := looks.any (Look.remote s)
    if far && replayFull s c then s else
    let s1 := settle s c looks
    let word := fun lane => BitVec.ofNat 64 (loadNum s1 c looks lane)
    let x := fun lane => word lane &&& ~~~(0x2000000000000000#64)
    let usable := fun (k : Look) => k.traps.isEmpty && k.fault.isNone && !k.remote s
    let res := fun (k : Look) => if usable k then resolveFor s1 c (x k.lane) else .null
    let slot := fun (k : Look) => healPiece s1 c k.va
    let held := looks.any (fun k => usable k && healedOf (x k.lane) (res k) != word k.lane &&
      (match k.piece with | some p => heldByMigration s p.pa 8 | none => false))
    heapCourse s c ((looks.filter usable).map (fun k => x k.lane)) .load (looks.flatMap (fun k => [k, resLook k.lane (res k)])) { frees := indexMark r i } (fun s' =>
      let heal := fun (s : State) =>
        looks.foldl (fun s k => if usable k && k.denied.isNone then healSlot s c (slot k) (word k.lane) (healedOf (x k.lane) (res k)) else s) s
      if far then
        let (s2, reqs) := windowBegin s' c .load false true false (fun _ => []) looks
        beginLoad (heal s2) c { frees := indexMark r i } m l.toNat (windowOp .windowRef 0 8 h.toNat false false looks (fun _ => []) reqs)
      else
        finish (heal (noteLooks (settle s' c looks) c false true looks)) c { frees := indexMark r i, h := [(h.toNat, m, fun lane =>
          match looks.find? (fun k => k.lane == lane) with
          | some k => healedOf (x lane) (res k)
          | none => 0)] }) held

/-- `hst`: store references without pins. -/
def execHst (r : BitVec 1) (l : BitVec 4) (i : BitVec 6) (k h : BitVec 4) (s : State) : Out :=
  issue s fun c =>
    let m := acting s c
    let looks := looksOf s c .store m 8 (eaOf s c k.toNat i.toNat 8)
    let far := looks.any (Look.remote s)
    if far && replayFull s c then s else
    let res := fun lane => resolveFor s c (c.group.hlane h.toNat lane)
    let data := fun lane => bytesOf 8 (healedOf (c.group.hlane h.toNat lane) (res lane) &&& ~~~(0x2000000000000000#64)).toNat
    let e : Eff := { frees := indexMark r i, h := [healWrite s c h.toNat] }
    heapCourse s c (laneRefs s c h.toNat) .store (looks.flatMap (fun k => [k, resLook k.lane (res k.lane)])) e fun s' =>
      if far then
        let (s1, reqs) := windowBegin s' c .store true true false data looks
        beginLoad s1 c e m l.toNat (windowOp .windowStore 0 8 0 false false looks data reqs)
      else finish (storeNear (noteLooks (settle s' c looks) c true true looks) looks data) c e

/-! ### Barriered data accesses (13 R382, R386) -/

/-- The lower of two classes that are denied. -/
def minClass (a b : Option Nat) : Option Nat :=
  match a, b with
  | some x, some y => some (Nat.min x y)
  | some x, none => some x
  | none, y => y

/-- A look at body bytes, where the barrier has replaced the checks of a raw access and the header's class is checked too. -/
def bodyLook (s : State) (c : Ctx) (acc : Acc) (l va n al : Nat) (hd : Header) : Look :=
  let k := lookAt s c acc none true l va n al
  let hdr := if admits c.q hd.cls then none else some hd.cls
  let dn := minClass k.denied hdr
  let raw := k.traps.filter (fun t => t.code != 0x4c && t.code != 0x4d && t.code != 0x54 && t.code != 0x21 && !(t.code == 0x25 && hdr.isSome))
  { k with denied := dn, count := if hdr.isSome then n else k.count
           traps := if acc.writes then raw ++ (match dn with | some x => [⟨l, 0x21, va, some x⟩] | none => []) else raw }

/-- A lane of `ldh`: every condition is evaluated, also of a lane beyond the body (13 R384, 01 R40). -/
def ldhLook (s : State) (c : Ctx) (l n o : Nat) (res : Res) : Look :=
  match res with
  | .null => if (heapOf s c).isSome then { lookNone l with traps := [⟨l, 0x50, s.unit.addr.toNat, none⟩] } else lookNone l
  | .obj a hd _ =>
    let k := bodyLook s c .load l (a + 16 + o) n n hd
    if o + n > hd.size then { k with traps := k.traps ++ [⟨l, 0x53, o, some hd.size⟩] } else k
  | r => resLook l r

/-- `ldh`. -/
def execLdh (mode : BitVec 2) (y : BitVec 1) (b : BitVec 6) (h : BitVec 4) (d : BitVec 6) (s : State) : Out :=
  issue s fun c =>
    let n := sizeOf mode
    let m := acting s c
    let res := fun lane => resolveFor s c (c.group.hlane h.toNat lane)
    let looks := (lanesOf m).map (fun lane => ldhLook s c lane n (c.group.vlane b.toNat lane).toNat (res lane))
    let e := fun (f : Nat → Nat) => ({ frees := mark y b.toNat 1, v := loadWrites d.toNat n m f, h := [healWrite s c h.toNat] } : Eff)
    heapCourse s c (laneRefs s c h.toNat) .load looks (e (fun _ => 0)) (fun s' =>
      let s1 := settle s' c looks
      let val := fun lane =>
        match res lane with
        | .obj _ hd _ => if admits c.q hd.cls then loadNum s1 c looks lane else 0
        | _ => 0
      finish (noteLooks s1 c false false looks) c (e val)) ((lanesOf m).any (fun lane => resHeld s c false (res lane)))

/-- Where a store to a narrow page's view lands: the encoded byte of its first element, and its bytes (12 R361). -/
def viewByte (t : Narrow) (o n : Nat) : Nat × Nat :=
  let e := o / 2
  let tc := t.tokens * t.chans
  if t.keyFmt = .e4m3 then (t.obj + 16 + e, n / 2)
  else if e < tc then (t.elemsAt false (e / 32) + t.keyFmt.bits * (e % 32) / 8, 1)
  else (t.elemsAt true ((e - tc) / 32) + t.valFmt.bits * ((e - tc) % 32) / 8, 1)

/-- A lane of `sth`. -/
def sthLook (s : State) (c : Ctx) (l n o : Nat) (res : Res) : Look :=
  match res with
  | .null => if (heapOf s c).isSome then { lookNone l with traps := [⟨l, 0x50, s.unit.addr.toNat, none⟩] } else lookNone l
  | .obj a hd _ =>
    let va := a + 16 + o
    let tag := narrowAt s c.team.queue a
    let lim := match tag with | some t => if n > 1 then 4 * t.tokens * t.chans else hd.size | none => hd.size
    let mis : List LaneTrap := if o % n = 0 then [] else [⟨l, 0x20, va, none⟩]
    let own : List LaneTrap := (if hd.frozen then [⟨l, 0x4c, va, none⟩] else []) ++ (if tag.isSome && n == 1 then [⟨l, 0x4d, va, none⟩] else [])
    let out : List LaneTrap := if o + n > lim then [⟨l, 0x53, o, some hd.size⟩] else []
    let (at_, bytes) := match tag with | some t => if n > 1 && out.isEmpty then viewByte t (o / n * n) n else (va, n) | none => (va, n)
    let k := bodyLook s c .store l at_ bytes 1 hd
    { k with traps := k.traps ++ mis ++ own ++ out }
  | r => resLook l r

/-- The halfwords of a view store, as (element of the page, bits). -/
def viewElems (o n v : Nat) : List (Nat × Nat) := (List.range (n / 2)).map (fun j => (o / 2 + j, bitsOf v (16 * j) 16))

/-- Elements of one unit for one narrow page, in ascending order of lanes: E4M3 elements are encoded at once; MX elements arrive block by
block (12 R362). -/
def viewStore (s : State) (c : Ctx) (t : Narrow) (es : List (Nat × Nat)) : State :=
  let tc := t.tokens * t.chans
  if t.keyFmt = .e4m3 then
    es.foldl (fun s e =>
      let x := if e.1 < tc then t.ek else t.ev
      hwWriteNum s c.q (t.obj + 16 + e.1) 1 (fround e4m3 .rne (shiftNum (bf16Num e.2) (-x)))) s
  else
    let blocks := (es.map (fun e => e.1 / 32)).foldl setAdd []
    blocks.foldl (fun s b =>
      let value := decide (32 * b ≥ tc)
      arriveWc s c.team.queue c.q t value (if value then b - tc / 32 else b)
        ((es.filter (fun e => e.1 / 32 == b)).map (fun e => (e.1 % 32, e.2))) (c.key, c.group.num)) s

/-- An object of a cycle that has not reached FINAL has a line written (13 R392). -/
def markObjDirty (s : State) (qn a : Nat) : State :=
  { s with heaps := tabMod s.heaps qn (fun h =>
      match h.cycle with
      | some y => if y.objs.any (fun o => o.old == a) then { h with cycle := some { y with dirty := setAdd y.dirty a } } else h
      | none => h) }

/-- `sth`. -/
def execSth (mode : BitVec 2) (y x : BitVec 1) (b a : BitVec 6) (h : BitVec 4) (s : State) : Out :=
  issue s fun c =>
    let n := sizeOf mode
    let m := acting s c
    let off := fun lane => (c.group.vlane b.toNat lane).toNat
    let data := storeBytes c.group a.toNat n
    let res := fun lane => resolveFor s c (c.group.hlane h.toNat lane)
    let looks := (lanesOf m).map (fun lane => sthLook s c lane n (off lane) (res lane))
    let e : Eff := { frees := mark y b.toNat 1 ++ mark x a.toNat ((n + 3) / 4), h := [healWrite s c h.toNat] }
    heapCourse s c (laneRefs s c h.toNat) .store looks e (fun s' =>
      let s1 := noteLooks (settle s' c looks) c true false looks
      let tagOf := fun lane => match res lane with | .obj o _ _ => narrowAt s c.team.queue o | _ => none
      let s2 := storeNear s1 (looks.filter (fun k => (tagOf k.lane).isNone)) data
      let pages := ((lanesOf m).filterMap tagOf).eraseDups
      let s3 := pages.foldl (fun s t =>
        viewStore s c t (((lanesOf m).filter (fun lane => tagOf lane == some t)).flatMap (fun lane => viewElems (off lane) n (natOfBytes (data lane))))) s2
      let s4 := (lanesOf m).foldl (fun s lane => match res lane with | .obj o _ _ => markObjDirty s c.team.queue o | _ => s) s3
      finish s4 c e) ((lanesOf m).any (fun lane => resHeld s c true (res lane)))

/-! ### hnew and hfree (13 R387, R388) -/

/-- Allocate for lanes in ascending order: each lane's reference, null where no space is free. -/
def newLanes (s : State) (c : Ctx) (h : Heap) (size cls : Nat → Nat) : List Nat → State × List (Nat × DWord)
  | [] => (s, [])
  | l :: t =>
    let (s, a) := allocObject s c.team.queue true (alignUp (size l) 16) (cls l) false false
    let r := newLanes s c h size cls t
    (r.1, (l, match a with | some a => refBits h.ce false false a | none => 0) :: r.2)

/-- One store of `hnew` to one page: the lane, its bytes, and how their translation ends. -/
structure NewPage where
  lane : Nat
  va : Nat
  n : Nat
  walk : Walk
  walked : Bool
  deriving DecidableEq, Repr

/-- The stores of `hnew`, by page: the body, the header and the allocation bit of each object that its lanes would receive (13 R387). -/
def newPages (s : State) (c : Ctx) (h : Heap) (size : Nat → Nat) (refs : List (Nat × DWord)) : List NewPage :=
  refs.flatMap (fun r =>
    let a := refAddr r.2
    if r.2 = 0 then [] else (pageCuts (a + 16) (alignUp (size r.1) 16) ++ [(a, 16), (h.bitAt a, 1)]).map (fun (k : Nat × Nat) =>
      let t := translate s c.q none (some c.core) (dieOf c.core) k.1 true
      { lane := r.1, va := k.1, n := k.2, walk := t.1, walked := t.2 }))

/-- The lanes whose stores meet a page at an address. -/
def pageLanes (ps : List NewPage) (va : Nat) : BitVec 32 := maskOf (fun l => ps.any (fun x => x.lane == l && x.va == va))

/-- The fault of the stores of `hnew` (07 R240). -/
def newFault (ps : List NewPage) : Option FaultInfo :=
  ps.findSome? (fun x => match x.walk with
    | .invalid l e => some { va := x.va, lanes := pageLanes ps x.va, level := l, entry := e, access := 1, source := 0 }
    | _ => none)

/-- The traps of the stores of `hnew` (07 R210, R227, log 97). -/
def newConds (s : State) (ps : List NewPage) : List Cond :=
  ps.flatMap (fun x =>
    let m := pageLanes ps x.va
    match x.walk with
    | .malformed l e => [{ code := 0x23, d0 := x.va, d1 := entryWithLevel l e, lanes := m }]
    | .bad g => [{ code := 0x25, d0 := x.va, d1 := g, lanes := m }]
    | .leaf y => wholeCond (!y.w || y.region == 3) 0x22 x.va y.leaf.toNat m ++
        (match badPart s (y.pa x.va) x.n with | some g => [{ code := 0x25, d0 := x.va, d1 := g, lanes := m }] | none => [])
    | .invalid _ _ => [])

/-- The walks of the stores of `hnew`, whatever becomes of them (07 R228). -/
def noteNew (s : State) (c : Ctx) (ps : List NewPage) : State :=
  ps.foldl (fun s x => match x.walk with
    | .leaf y => noteXlat s (some c.core) (dieOf c.core) y true x.walked
    | _ => s) s

/-- `hnew`. The audit event of a denied class has no virtual address: its field is a free value (log 7). -/
def execHnew (y x : BitVec 1) (b a : BitVec 6) (h : BitVec 4) (s : State) : Out :=
  issue s fun c =>
    let m := acting s c
    let size := fun l => (c.group.vlane a.toNat l).toNat
    let op := fun l => (c.group.vlane b.toNat l).toNat
    let cls := fun l => op l % 65536
    let badSize := (lanesOf m).filter (fun l => decide (size l = 0) || decide (size l > 2 ^ 30) || decide (op l ≥ 65536))
    let denied := (lanesOf m).filter (fun l => !admits c.q (cls l))
    let new := match heapOf s c with | some hp => if badSize.isEmpty then newLanes s c hp size cls (lanesOf m) else (s, []) | none => (s, [])
    let pages := match heapOf s c with | some hp => newPages s c hp size new.2 | none => []
    let conds := noHeap s c ++ newConds s pages ++ laneCond 0x57 (m &&& maskOf badSize.contains) size op ++ laneCond 0x21 (m &&& maskOf denied.contains) size cls
    let e : Eff := { frees := mark y b.toNat 1 ++ mark x a.toNat 1 }
    match lowest conds with
    | some t =>
      let s := noteNew s c pages
      if t.code = 0x21 then
        let (s1, va) := freeWord s
        takeTrap (unitAudit s1 c va.toNat t.lanes.toNat ((denied.map size).foldl (· + ·) 0) ((denied.map cls).min?.getD 0) 0 1) (unitSite s1 c) t
      else takeTrap s (unitSite s c) t
    | none =>
      match newFault pages with
      | some f => takeFault (noteNew s c pages) (unitSite s c) f
      | none => finish new.1 c { e with h := [(h.toNat, m, fun l => ((new.2.find? (fun x => x.1 == l)).map (·.2)).getD 0)] }

/-- Conditions of lanes whose references resolve, as one list of looks. -/
def refLooks (s : State) (c : Ctx) (h : Nat) (own : Nat → DWord → Res → List LaneTrap) : List Look :=
  (lanesOf (acting s c)).map (fun l =>
    let r := c.group.hlane h l
    let res := resolveFor s c r
    let k := resLook l res
    { k with traps := k.traps ++ own l r res })

/-- The distinct objects of a list. -/
def objectsOf (s : State) (c : Ctx) (h : Nat) : List Nat :=
  ((lanesOf (acting s c)).filterMap (fun l => match resolveFor s c (c.group.hlane h l) with | .obj a _ _ => some a | _ => none)).eraseDups

/-- Some acting lane's object is held. -/
def lanesHeld (s : State) (c : Ctx) (h : Nat) (write : Bool) : Bool :=
  (lanesOf (acting s c)).any (fun l => resHeld s c write (resolveFor s c (c.group.hlane h l)))

/-- `hfree`. -/
def execHfree (h : BitVec 4) (s : State) : Out :=
  issue s fun c =>
    let looks := refLooks s c h.toNat (fun l r res =>
      match res with
      | .obj _ hd _ => if hd.pins > 0 || hd.kind || hd.frozen then [⟨l, 0x55, r.toNat, some (hd.bits / 2 ^ 64)⟩] else []
      | _ => [])
    let m := acting s c
    heapCourse s c (laneRefs s c h.toNat) .store looks {} (fun s' =>
      let s' := (objectsOf s c h.toNat).foldl (fun s a =>
        match heapOf s c with
        | none => s
        | some hp =>
          let n := 16 + (headerAt s c.q a).size
          syncHeap (releaseSpace (setAlloc (withdraw s c.team.queue a) c.q hp a false) c.team.queue a n) c.team.queue) s'
      finish s' c { h := [(h.toNat, m, fun _ => 0)] }) (lanesHeld s c h.toNat false)

/-! ### Pins, comparison, tags (13 R389, R390) -/

/-- Change an object's pin count. -/
def addPins (s : State) (c : Ctx) (a : Nat) (by_ : Int) : State :=
  let hd := headerAt s c.q a
  putHeader s c.q a { hd with pins := ((hd.pins : Int) + by_).toNat }

/-- Acting lanes that name an object. -/
def namers (s : State) (c : Ctx) (h a : Nat) : Nat :=
  ((lanesOf (acting s c)).filter (fun l => match resolveFor s c (c.group.hlane h l) with | .obj o _ _ => o == a | _ => false)).length

/-- `hpin`. -/
def execHpin (h : BitVec 4) (d : BitVec 5) (s : State) : Out :=
  issue s fun c =>
    let m := acting s c
    let looks := refLooks s c h.toNat (fun l r res =>
      match res with
      | .null => if (heapOf s c).isSome then [⟨l, 0x50, s.unit.addr.toNat, none⟩] else []
      | .obj a hd _ => if bitOf r.toNat 61 || decide (hd.pins + namers s c h.toNat a > 65535) then [⟨l, 0x56, r.toNat, some hd.pins⟩] else []
      | _ => [])
    let addr := fun l => match resolveFor s c (c.group.hlane h.toNat l) with | .obj a _ _ => a + 16 | _ => 0
    let e : Eff := { v := loadWrites (2 * d.toNat) 8 m addr
                     h := [(h.toNat, m, fun l =>
                        healedOf (c.group.hlane h.toNat l) (resolveFor s c (c.group.hlane h.toNat l)) ||| 0x2000000000000000#64)] }
    heapCourse s c (laneRefs s c h.toNat) .load looks e (fun s' =>
      let s' := (objectsOf s c h.toNat).foldl (fun s' a => addPins (withdraw s' c.team.queue a) c a (namers s c h.toNat a)) s'
      finish s' c e) (lanesHeld s c h.toNat false)

/-- `hunpin`: a lane whose pin bit is 0 traps and resolves nothing. The pins that its record reports are those of the object that the reference
designates, a free value where it designates none (log 75). -/
def execHunpin (h : BitVec 4) (s : State) : Out :=
  issue s fun c =>
    let m := acting s c
    let unpinned := fun l => (heapOf s c).isSome && !bitOf (c.group.hlane h.toNat l).toNat 61
    let look := fun l =>
      let r := c.group.hlane h.toNat l
      let res := resolveFor s c r
      let k := if unpinned l then lookNone l else resLook l res
      let low := match res with | .obj a hd _ => decide (hd.pins < namers s c h.toNat a) | _ => false
      if unpinned l || low then
        { k with traps := k.traps ++ [⟨l, 0x56, r.toNat, some (match res with | .obj _ hd _ => hd.pins | _ => (freeWord s).2.toNat % 65536)⟩] }
      else k
    let open_ := (lanesOf m).any (fun l => unpinned l && (match resolveFor s c (c.group.hlane h.toNat l) with | .obj _ _ _ => false | _ => true))
    heapCourse (if open_ then (freeWord s).1 else s) c ((laneRefs s c h.toNat).filter (fun r => bitOf r.toNat 61)) .load ((lanesOf m).map look) {} (fun s' =>
      let s' := (objectsOf s c h.toNat).foldl (fun s' a => addPins s' c a (-(namers s c h.toNat a))) s'
      finish s' c { h := [(h.toNat, m, fun l =>
        healedOf (c.group.hlane h.toNat l) (resolveFor s c (c.group.hlane h.toNat l)) &&& ~~~(0x2000000000000000#64))] })
      (lanesHeld s c h.toNat false)

/-- The object that a lane's reference designates. -/
def designates (s : State) (c : Ctx) (h l : Nat) : Option Nat :=
  match resolveFor s c (c.group.hlane h l) with
  | .obj a _ _ => some a
  | _ => none

/-- `heq`. -/
def execHeq (g h : BitVec 4) (p : BitVec 3) (s : State) : Out :=
  issue s fun c =>
    let m := acting s c
    let looks := (refLooks s c h.toNat (fun _ _ _ => [])).zip (refLooks s c g.toNat (fun _ _ _ => []))
    let e : Eff := { p := [(p.toNat, m, maskOf (fun l => designates s c h.toNat l == designates s c g.toNat l))]
                     h := [healWrite s c h.toNat, healWrite s c g.toNat] }
    heapCourse s c (laneRefs s c h.toNat ++ laneRefs s c g.toNat) .load (looks.flatMap (fun k => [k.1, k.2])) e fun s => finish s c e

/-- `htag`. -/
def execHtag (h : BitVec 4) (d : BitVec 6) (s : State) : Out :=
  issue s fun c =>
    let m := acting s c
    let looks := refLooks s c h.toNat (fun _ _ _ => [])
    let val := fun l =>
      let r := c.group.hlane h.toNat l
      let stale := match heapOf s c with | some hp => r != 0 && refAge hp r != 0 | none => false
      BitVec.ofNat 32 (bitsOf r.toNat 60 4 + (if stale then 16 else 0) + (if r = 0 then 32 else 0))
    let e : Eff := { v := [(d.toNat, m, val)], h := [healWrite s c h.toNat] }
    heapCourse s c (laneRefs s c h.toNat) .load looks e fun s => finish s c e

end Sys2Proof.Machine
end

