-- ==== Sys2Proof/Machine/Thresher.lean ====
section
/-! DEFINITION. The Thresher: pools, directory forms, sweeps, rewrites and cold moves (12 R348 to R360, R365 to R372, R491). -/

namespace Sys2Proof.Machine

open Sys2Proof

/-! ### Pool descriptors (12 R348, R349) -/

/-- The SW fields of a descriptor's bits. -/
def poolSwOf (w : Nat) : PoolSw :=
  { home := bitsOf w 426 2, vvar := bitOf w 425, kvar := bitOf w 424, ccode := bitsOf w 422 2, tcode := bitsOf w 420 2, decay := bitsOf w 416 4
    wcTimeout := bitsOf w 400 16, minAge := bitsOf w 384 16, interval := bitsOf w 352 32, tCold := bitsOf w 320 32, tFp4 := bitsOf w 288 32
    tFp6 := bitsOf w 256 32, tFp8 := bitsOf w 224 32, count := bitsOf w 192 32, stamp := BitVec.ofNat 64 (bitsOf w 128 64)
    sumBase := BitVec.ofNat 64 (bitsOf w 64 64), dirBase := BitVec.ofNat 64 (bitsOf w 0 64) }

/-- A descriptor's address is malformed. -/
def badDesc (p : DWord) : Bool := p.toNat % 64 != 0 || !canonical p

/-- A descriptor's bits are malformed. -/
def badPool (w : Nat) : Bool :=
  let d := poolSwOf w
  bitsOf w 428 84 != 0 || bitsOf w 641 383 != 0 || d.count == 0 || decide (d.count > 16777216) || d.decay == 0 || d.minAge == 0 ||
  d.dirBase.toNat % 64 != 0 || !canonical d.dirBase || d.sumBase.toNat % 64 != 0 || !canonical d.sumBase ||
  d.stamp.toNat % 8 != 0 || !canonical d.stamp

/-- The pool that a queue registered under a descriptor's address. -/
def poolAt (s : State) (qn : Nat) (p : DWord) : Option (Nat × Pool) := s.pools.find? (fun x => x.2.queue == qn && x.2.desc == p)

/-- Entry address. -/
def Pool.entry (p : Pool) (x : Nat) : Nat := (p.sw.dirBase.toNat + 64 * x) % 2 ^ 64

/-- Tokens and channels. -/
def Pool.tokens (p : Pool) : Nat := tokensOf p.sw.tcode
def Pool.chans (p : Pool) : Nat := chansOf p.sw.ccode

/-- Change a pool. -/
def State.modPool (s : State) (id : Nat) (f : Pool → Pool) : State := { s with pools := tabMod s.pools id f }

/-! ### The Thresher's accesses (12 R491) -/

/-- How an access of the Thresher goes. -/
inductive Thr where
  | ok (ps : List Piece)
  | invalid (write : Bool) (va level entry : Nat)
  | refused
  deriving DecidableEq, Repr

/-- An access of a die's Thresher for a queue, not checked against a grant set. -/
def thrAccess (s : State) (q : Queue) (die : Nat) (write : Bool) (va n : Nat) : Thr :=
  if !rngCanonical { sp := .mem, addr := va, n := n, write := write } then .refused else
  match reach s q none none die write va n with
  | .invalid a l e => .invalid write a l e
  | .malformed _ _ _ => .refused
  | .bad _ _ => .refused
  | .ok ps =>
    if ps.any (fun p => p.x.region == 2 || (write && p.readOnly) || (if write then badPart s p.pa p.n else badIn s p.pa p.n).isSome) then .refused
    else .ok ps

/-- What an access leaves in the page table and the shared TLB. -/
def thrNote (s : State) (die : Nat) (write : Bool) (ps : List Piece) : State := ps.foldl (fun s p => noteXlat s none die p.x write p.walked) s

/-- A write of the Thresher that is dropped where it is refused or not translated. -/
def thrWrite (s : State) (q : Queue) (die va : Nat) (bs : List Byte) : State :=
  match thrAccess s q die true va bs.length with
  | .ok ps => writePieces (thrNote s die true ps) ps bs
  | _ => s

/-- An access that the Thresher needs, with the kind that its record gives: `fault` the first time that its translation is invalid, `refused` after the answer. -/
def thrNeed (s : State) (q : Queue) (die : Nat) (write : Bool) (va n retried : Nat) : Thr :=
  match thrAccess s q die write va n with
  | .invalid w a l e => if retried = a + 1 then .refused else .invalid w a l e
  | r => r

/-- Write the HW counts (12 R348), the numbers as they stand in 32 bits: stuck and sweep, skipped and stepped, and the registration. -/
def syncPool (s : State) (p : Pool) (reg : Bool) : State :=
  match tabGet s.queues p.queue with
  | none => s
  | some q =>
    let at_ := p.desc.toNat
    let s := thrWrite s q p.sw.home (at_ + 64) (bytesOf 8 (packBits [(32, p.done % 2 ^ 32), (32, p.stuck)]))
    let s := thrWrite s q p.sw.home (at_ + 72) (bytesOf 8 (packBits [(32, p.stepped % 2 ^ 32), (32, p.skipped % 2 ^ 32)]))
    thrWrite s q p.sw.home (at_ + 80) (bytesOf 8 (packBits [(1, reg.toNat), (63, 0)]))

/-! ### Entry changes (12 R350) -/

/-- The entry at an address, as the Thresher reads it. -/
def entryAt (s : State) (ps : List Piece) : DirEnt := dirEnt (natOfBytes (ps.flatMap (fun p => s.bytes p.pa p.n)))

/-- Change an entry in one read-modify-write that keeps the mass as the bank holds it; version is raised by one. -/
def changeEntry (s : State) (die : Nat) (ps : List Piece) (f : DirEnt → DirEnt) : State :=
  let e := entryAt s ps
  let e' := f e
  writePieces (thrNote s die true ps) ps (bytesOf 64 { e' with version := (e.version + 1) % 2 ^ 16, sweep := e'.sweep % 2 ^ 32 }.bits)

/-- A change of these bytes is held by a page migration. -/
def heldPieces (s : State) (ps : List Piece) : Bool := ps.any (fun p => heldByMigration s p.pa p.n)

/-! ### Fault records of the Thresher (12 R491) -/

/-- A fault record with source 4. For a form it names the issuing unit; for a sweep, which no unit need have asked for, the manual gives
no values: they are free (log 7). -/
def thrFault (s : State) (qn : Nat) (who : Faulter) (o : Option Op) (write : Bool) (va level entry : Nat) : State :=
  match tabGet s.queues qn with
  | none => s
  | some q =>
    let f : FaultInfo := { va := va, lanes := 0, level := level, entry := entry, access := if write then 5 else 4, source := 4 }
    match o with
    | some o => addFault s qn (faultBits s qn q o.grid (o.team % 2 ^ 32) o.core o.group o.split o.unit f) who
    | none =>
      let (s, u) := freeWord s
      let (s, w) := freeWord s
      let (s, x) := freeWord s
      let r := x.toNat
      addFault s qn (faultBits s qn q (w.toNat % 2 ^ 32) (w.toNat / 2 ^ 32) (r % 512) (r / 512 % 32) (r / 16384 % 4) u f) who

/-- Write the HW fields, or drop the write where it is refused; otherwise it is owed, and waits on the fault record named, or, for 0, on a page
migration (12 R491). -/
def trySync (s : State) (p : Pool) (reg : Bool) (retried : Nat) (who : Faulter) (o : Option Op) : State × Option Nat :=
  match tabGet s.queues p.queue with
  | none => (s, none)
  | some q =>
    match thrNeed s q p.sw.home true (p.desc.toNat + 64) 24 retried with
    | .invalid w va l e => (thrFault s p.queue who o w va l e, some s.nextOp)
    | .refused => (s, none)
    | .ok ps => if heldPieces s ps then (s, some 0) else (syncPool s p reg, none)

/-! ### Claims, rewrites and moves (12 R357 to R359, 01 R24) -/

/-- The Gleaner holds an object: it is a source or a destination of a cycle before its acknowledgement. -/
def gleanerHolds (h : Heap) (a : Nat) : Bool :=
  match h.cycle with
  | some c => c.objs.any (fun o => o.old == a || o.new == a)
  | none => false

/-- Set or clear an object's frozen mark. -/
def freeze (s : State) (q : Queue) (a : Nat) (on : Bool) : State := putHeader s q a { headerAt s q a with frozen := on }

/-- The access of a change to an entry: the entry is read, whole, and written (12 R350). -/
def entryNeed (s : State) (q : Queue) (p : Pool) (x retried : Nat) : Thr :=
  match thrNeed s q p.sw.home false (p.entry x) 64 retried with
  | .ok _ => thrNeed s q p.sw.home true (p.entry x) 64 retried
  | r => r

/-- How a step on a page ends: made, found a NaN, held or pinned, no memory, its ref or an access refused; or a cold copy is under way. -/
inductive StepEnd where
  | made | stuck | held | noMem | refused | copying
  deriving DecidableEq, Repr

/-- Every element of a half, decoded (10 R312). -/
def halfValues (s : State) (q : Queue) (e : DirEnt) (obj t c : Nat) (value : Bool) : List Num :=
  decodeHalfPage (e.half value) (e.exp value) (t * c) ((hwRead s q (obj + 16 + e.halfAt t c value) (halfBytes (e.half value) (t * c))).getD [])

/-- A half in its next format (12 R358): its bytes, and its exponent. -/
def rewriteHalf (f : QFmt) (vals : List Num) : List Byte × Nat :=
  if f = .e4m3 then
    let r := fp8Page vals
    (r.2.map (fun v => BitVec.ofNat 8 v), (r.1 % 256).toNat)
  else (mxRun f (vals.length / 32) vals, 0)

/-- The tag of a narrow object (12 R361). -/
def narrowTag (qn obj : Nat) (p : Pool) (e : DirEnt) : Narrow :=
  { queue := qn, obj := obj, keyFmt := e.half false, valFmt := e.half true, ek := e.exp false, ev := e.exp true, tokens := p.tokens
    chans := p.chans, wcTimeout := p.sw.wcTimeout, desc := p.desc }

/-- A page is stuck from now on (12 R353); the descriptor's count follows. -/
def makeStuck (s : State) (id : Nat) (p : Pool) (ps : List Piece) (n : Nat) : State :=
  let s := changeEntry s p.sw.home ps (fun e => { e with state := 2, sweep := n })
  s.modPool id (fun p => { p with stuck := (p.stuck + 1) % 2 ^ 32 })

/-- An entry's page holds a NaN. -/
def pageNan (s : State) (p : Pool) (q : Queue) (e : DirEnt) (a : Nat) : Bool :=
  (halfValues s q e a p.tokens p.chans false ++ halfValues s q e a p.tokens p.chans true).any Num.isNan

/-- The accesses of a step on an entry's page, beside those of the entry (12 R357, R359, R491): its object's header and body, and the object
that it will write, of `size` bytes; a step that is skipped or finds a NaN writes none. The manual gives no outcome of its own to a refused access
of a body: it is that of the entry (log 85). -/
def stepNeed (s : State) (p : Pool) (q : Queue) (e : DirEnt) (hot : Bool) (size retried : Nat) : Thr :=
  match tabGet s.heaps p.queue with
  | none => .refused
  | some h =>
    match resolve s q h e.ref with
    | .fault va l x => if retried = va + 1 then .refused else .invalid false va l x
    | .obj a hd _ =>
      if gleanerHolds h a || hd.pins > 0 then .ok [] else
      (match thrNeed s q p.sw.home true a 16 retried, thrNeed s q p.sw.home false (a + 16) hd.size retried with
      | .ok hs, .ok bs =>
        if pageNan s p q e a then .ok (hs ++ bs) else
        (match placeObject s p.queue q h hot size with
        | none => .ok (hs ++ bs)
        | some b =>
          match thrNeed s q p.sw.home true b (16 + size) retried with
          | .ok ns => .ok (hs ++ bs ++ ns)
          | r => r)
      | .ok _, r => r
      | r, _ => r)
    | _ => .refused

/-- Claim and freeze the object of an entry, close its write-combining entries, and look for a NaN; go on by `next` with its address
and its heap where it is sound. -/
def claim (s : State) (id : Nat) (p : Pool) (q : Queue) (ps : List Piece) (n : Nat) (next : State → Heap → Nat → Header → State × StepEnd) :
    State × StepEnd :=
  match tabGet s.heaps p.queue with
  | none => (s, .refused)
  | some h =>
    let e := entryAt s ps
    match resolve s q h e.ref with
    | .obj a hd _ =>
      if gleanerHolds h a || hd.pins > 0 then (s, .held) else
      let s := closeWcs (freeze s q a true) (fun w => w.queue == p.queue && w.body == a + 16)
      let s := hwNote s q (a + 16) hd.size false
      if pageNan s p q e a then (makeStuck (freeze s q a false) id p ps n, .stuck) else next s h a hd
    | _ => (s, .refused)

/-- The next format of a sealed page: its entry fields. -/
def nextEntry (p : Pool) (e : DirEnt) : DirEnt :=
  if e.fmt = 0 then { e with fmt := 1, vvar := false }
  else if e.fmt = 1 then { e with fmt := 2 + p.sw.kvar.toNat, vvar := p.sw.vvar }
  else { e with fmt := 4, vvar := false }

/-- A format step (12 R357, R358). Its new object is hot, as all that is not a cold move's is (13 R373, log 98). -/
def formatStep (s : State) (id : Nat) (p : Pool) (q : Queue) (ps : List Piece) (n : Nat) : State × StepEnd :=
  claim s id p q ps n fun s h a hd =>
    let e := entryAt s ps
    let e' := nextEntry p e
    let (tc, t, c) := (p.tokens * p.chans, p.tokens, p.chans)
    let k := rewriteHalf (e'.half false) (halfValues s q e a t c false)
    let v := rewriteHalf (e'.half true) (halfValues s q e a t c true)
    match allocObject s p.queue true (alignUp (pageBytes e'.fmt t c) 16) hd.cls true false with
    | (s, none) => (freeze s q a false, .noMem)
    | (s, some b) =>
      let s := dropUpdates (dropUpdates s q (a + 16) hd.size) q (b + 16) (pageBytes e'.fmt t c)
      let e' := { e' with ek := k.2, ev := v.2, ref := refBits h.ce false true b, sweep := n }
      let s := hwWrite (hwWrite s q (b + 16) k.1) q (b + 16 + halfBytes (e'.half false) tc) v.1
      let s := setNarrow s (narrowTag p.queue b p e')
      let s := changeEntry s p.sw.home ps (fun x => { x with ref := e'.ref, fmt := e'.fmt, ek := e'.ek, ev := e'.ev, vvar := e'.vvar, sweep := n })
      (releaseSpace s p.queue a (16 + hd.size), .made)

/-- A cold move begins (12 R359): its destination is allocated and the Gleaner copies. `op` is the form that asked, 0 for a sweep. -/
def coldStep (s : State) (id : Nat) (p : Pool) (q : Queue) (x : Nat) (ps : List Piece) (n op : Nat) : State × StepEnd :=
  claim s id p q ps n fun s _ a hd =>
    match allocObject s p.queue false hd.size hd.cls true false with
    | (s, none) => (freeze s q a false, .noMem)
    | (s, some b) => ((dropUpdates s q (a + 16) hd.size).modPool id (fun p => { p with cold := some { x := x, op := op, src := a, dest := b, n := n } }), .copying)

/-! ### Issue of the directory forms (12 R365 to R369) -/

/-- Word of the operand block, and the descriptor's address. -/
def kvWord (c : Ctx) (q : BitVec 2) (i : Nat) : Word := c.group.kread (8 * q.toNat + i)
def kvDesc (c : Ctx) (q : BitVec 2) : DWord := c.group.kpair (8 * q.toNat)

/-- The core translates an address for a directory form: a fault, or conditions. -/
def kvTranslate (s : State) (c : Ctx) (write : Bool) (va n : Nat) : Option FaultInfo × List Cond :=
  match reach s c.q none (some c.core) (dieOf c.core) write va n with
  | .invalid a l e => (some { va := a, lanes := 0, level := l, entry := e, access := if write then 5 else 4, source := 0 }, [])
  | .malformed a l e => (none, [{ code := 0x23, d0 := a, d1 := entryWithLevel l e, lanes := c.split.mask }])
  | .bad a g => (none, [{ code := 0x25, d0 := a, d1 := g, lanes := c.split.mask }])
  | .ok _ => (none, [])

/-- The trap 0x48, with bits of the descriptor as memory holds it; where it cannot be read they are free (log 7). A lower code among those that the
operands give goes before it (01 R40). -/
def kvBadPool (s : State) (c : Ctx) (q : BitVec 2) (early : List Cond) : State :=
  let p := (kvDesc c q).toNat
  match lowest early, hwRead s c.q (p + 56) 8 with
  | some t, _ => takeTrap s (unitSite s c) t
  | none, some bs => takeTrap s (unitSite s c) { code := 0x48, d0 := p, d1 := natOfBytes bs, lanes := c.split.mask }
  | none, none => let (s, w) := freeWord s; takeTrap s (unitSite s c) { code := 0x48, d0 := p, d1 := w.toNat, lanes := c.split.mask }

/-- The core translates the descriptor's address of a form (12 R366): a fault, or conditions. -/
def kvNamed (s : State) (c : Ctx) (q : BitVec 2) : Option FaultInfo × List Cond := kvTranslate s c false (kvDesc c q).toNat 128

/-- A form goes on where none of the conditions holds and no page is invalid. -/
def kvOn (s : State) (c : Ctx) (conds : List Cond) (fault : Option FaultInfo) (next : State) : State :=
  match lowest conds, fault with
  | some t, _ => takeTrap s (unitSite s c) t
  | none, some f => takeFault s (unitSite s c) f
  | none, none => next

/-- A form that names a registered pool: a descriptor that is malformed or not registered traps. `early` are the conditions that the operands alone
give; `next` takes the pool, and what the descriptor's page gives. -/
def kvPool (s : State) (c : Ctx) (q : BitVec 2) (early : List Cond) (next : Nat → Pool → List Cond → Option FaultInfo → State) : State :=
  if badDesc (kvDesc c q) then kvBadPool s c q early else
  let t := kvNamed s c q
  match poolAt s c.team.queue (kvDesc c q) with
  | none => kvOn s c (early ++ t.2) t.1 (kvBadPool s c q [])
  | some (id, p) => next id p (early ++ t.2) t.1

/-- The check that a form makes on an entry's state and fill (12 R367 to R369). -/
def dirForbids (form : DirForm) (e : DirEnt) (t r : Nat) : Bool :=
  match form with
  | .new => e.fmt != 7
  | .seal => e.fmt == 7 || e.state != 0 || decide (r > t - e.fill)
  | .dem => e.fmt == 7 || e.state == 0
  | .cold => e.fmt == 7 || e.state == 0
  | .inv => e.fmt == 7
  | .reg | .unreg => false

/-- The scratchpad ranges of `kvseal` (12 R368). -/
def sealRanges (form : DirForm) (p : Pool) (a b c : Word) : List Rng :=
  match form with
  | .seal => [b, c].map (fun o => { sp := .spad, addr := (o.toNat : Nat), n := 2 * p.chans * (a.toNat : Nat), write := false })
  | _ => []

/-- The condition of a misaligned offset of `kvseal` (12 R368). -/
def sealEarly (form : DirForm) (c : Ctx) (b w : Word) : List Cond :=
  match form with
  | .seal => [b, w].flatMap (fun o => wholeCond (o.toNat % 4 != 0) 0x20 o.toNat c.split.mask.toNat c.split.mask)
  | _ => []

/-- A directory form as it is issued. -/
def dirStart (form : DirForm) (pool x : Nat) (a b w : Word) (kd : Nat) : Dir :=
  { form := form, pool := pool, x := x, a := a, b := b, c := w, kd := kd, begun := false, moving := false, held := false, status := none, fault := 0, retried := 0 }

/-- The issue of a form that changes an entry. -/
def dirUnit (s : State) (c : Ctx) (form : DirForm) (q : BitVec 2) (kd : BitVec 5) (look : Nat) : State :=
  let (a, b, w) := (kvWord c q 3, kvWord c q 4, kvWord c q 5)
  kvPool s c q (sealEarly form c b w) fun id p pre pf =>
    let m := c.split.mask
    let x := ((kvWord c q 2).toNat : Nat)
    let rs := sealRanges form p a b w
    let own := pre ++ rs.flatMap (rngConds s c false)
    if x ≥ p.sw.count then kvOn s c ({ code := 0x49, d0 := x, d1 := p.sw.count, lanes := m } :: own) pf s
    else
      let at_ := p.entry x
      let tr := kvTranslate s c true at_ 64
      let e := dirEnt (natOfBytes ((hwRead s c.q at_ 64).getD []))
      let d1 := bitsOf (natOfBytes ((hwRead s c.q at_ 64).getD [])) 192 64
      let ok := tr.1.isNone && tr.2.isEmpty
      let conds := own ++ tr.2 ++
        wholeCond (ok && dirForbids form e p.tokens a.toNat) 0x4a at_ d1 m ++ wholeCond (ok && e.malformed p.tokens) 0x4b at_ d1 m
      kvOn s c conds (pf.or tr.1)
        (if engineWaits s c || !locksFor s c rs then s
         else issueOp s c rs {} look (.dir (dirStart form id x a b w kd.toNat)))

/-- `kvnew`. -/
def execKvnew (l : BitVec 4) (q : BitVec 2) (d : BitVec 5) (s : State) : Out := issue s fun c => dirUnit s c .new q d l.toNat
/-- `kvseal`. -/
def execKvseal (l : BitVec 4) (q : BitVec 2) (d : BitVec 5) (s : State) : Out := issue s fun c => dirUnit s c .seal q d l.toNat
/-- `kvdem`. -/
def execKvdem (l : BitVec 4) (q : BitVec 2) (d : BitVec 5) (s : State) : Out := issue s fun c => dirUnit s c .dem q d l.toNat
/-- `kvdem.inv`. -/
def execKvdemInv (l : BitVec 4) (q : BitVec 2) (d : BitVec 5) (s : State) : Out := issue s fun c => dirUnit s c .inv q d l.toNat
/-- `kvcold`. -/
def execKvcold (l : BitVec 4) (q : BitVec 2) (d : BitVec 5) (s : State) : Out := issue s fun c => dirUnit s c .cold q d l.toNat

/-- `kvq`: the Thresher's own counts; selections 2 to 7 are illegal and never reach a meaning (12 R370). -/
def execKvq (_l : BitVec 4) (q : BitVec 2) (d : BitVec 4) (sel : BitVec 3) (s : State) : Out :=
  issue s fun c => kvPool s c q [] fun _ p pre pf => kvOn s c pre pf
    (if engineWaits s c then s else
     let (lo, hi) := if sel = 0 then (p.done, p.stepped) else (p.stuck, p.skipped)
     unit (releaseWrites s c) c { k := [(2 * d.toNat, BitVec.ofNat 32 lo), (2 * d.toNat + 1, BitVec.ofNat 32 hi)] })

/-! ### Registration (12 R371) -/

/-- A form that reads the descriptor in memory. -/
def kvRead (s : State) (c : Ctx) (q : BitVec 2) (next : Nat → State) : State :=
  if badDesc (kvDesc c q) then kvBadPool s c q [] else
  let t := kvNamed s c q
  kvOn s c t.2 t.1 (next (hwNum s c.q (kvDesc c q).toNat 128))

/-- Status 0 into kd, and the unit ends. -/
def kvDone (s : State) (c : Ctx) (d : BitVec 5) : State := finish s c { k := [(d.toNat, 0)] }

/-- A registration form's write of the descriptor is made or refused: an unregistered pool goes. -/
def closePool (s : State) (form : DirForm) (id : Nat) : State := if form = .unreg then { s with pools := tabDel s.pools id } else s

/-- A registration form is accepted, and writes the descriptor's HW fields: it completes at once, or waits, in flight, until the write can be made
or is refused (12 R491). -/
def kvSync (s : State) (c : Ctx) (form : DirForm) (id : Nat) (p : Pool) (d : BitVec 5) (look : Nat) : State :=
  let r := trySync s p (form == .reg) 0 (.op s.nextOp) none
  match r.2 with
  | none => kvDone (closePool r.1 form id) c d
  | some _ =>
    let op := s.nextOp
    let s := issueOp s c [] {} look (.dir { dirStart form id 0 0 0 0 d.toNat with begun := true, status := some 0 })
    match tabGet s.ops op with
    | none => s
    | some o =>
      let r := trySync s p (form == .reg) 0 (.op op) (some o)
      r.1.putOp op { o with body := .dir { dirStart form id 0 0 0 0 d.toNat with begun := true, status := some 0, fault := r.2.getD 0 } }

/-- `kvpol.reg`. -/
def execKvpolReg (l : BitVec 4) (q : BitVec 2) (d : BitVec 5) (s : State) : Out :=
  issue s fun c => kvRead s c q fun w =>
    if badPool w || (poolAt s c.team.queue (kvDesc c q)).isSome then kvBadPool s c q []
    else if (s.pools.filter (fun p => p.2.sw.home == (poolSwOf w).home)).length ≥ 256 then
      takeTrap s (unitSite s c) { code := 0x4e, d0 := (kvDesc c q).toNat, d1 := 0, lanes := c.split.mask }
    else if engineWaits s c then s
    else
      let p : Pool := { queue := c.team.queue, desc := kvDesc c q, sw := poolSwOf w, nextSw := none, done := 0, stuck := 0, stepped := 0, skipped := 0
                        requests := 0, lastStart := s.cycle, sweep := none, cold := none, fault := 0 }
      let s := releaseWrites s c
      kvSync { s.named with pools := tabPut s.pools s.nextOp p } c .reg s.nextOp p d l.toNat

/-- `kvpol.sweep`: at most 16 requested sweeps wait (12 R354). -/
def execKvpolSweep (_l : BitVec 4) (q : BitVec 2) (d : BitVec 5) (s : State) : Out :=
  issue s fun c => kvPool s c q [] fun id p pre pf => kvOn s c pre pf
    (if engineWaits s c || decide (p.requests ≥ 16) then s
     else kvDone ((releaseWrites s c).modPool id (fun p => { p with requests := p.requests + 1 })) c d)

/-- Fields that `kvpol.set` may not change. -/
def PoolSw.fixed (p : PoolSw) : PoolSw := { p with decay := 0, wcTimeout := 0, minAge := 0, interval := 0, tCold := 0, tFp4 := 0, tFp6 := 0, tFp8 := 0, stamp := 0 }

/-- `kvpol.set`: the SW fields from the next sweep on. -/
def execKvpolSet (_l : BitVec 4) (q : BitVec 2) (d : BitVec 5) (s : State) : Out :=
  issue s fun c => kvPool s c q [] fun id p pre pf => kvOn s c pre pf (kvRead s c q fun w =>
    if badPool w || (poolSwOf w).fixed != p.sw.fixed then kvBadPool s c q []
    else if engineWaits s c then s
    else kvDone ((releaseWrites s c).modPool id (fun p => { p with nextSw := some (poolSwOf w) })) c d)

/-! ### One change of a pool at a time (12 R350) -/

/-- Directory forms of a pool that the Thresher has begun, beside one. -/
def begunForms (s : State) (pool but : Nat) : Bool :=
  s.ops.any (fun o => o.1 != but && match o.2.body with | .dir d => d.pool == pool && d.begun | _ => false)

/-- A sweep's change waits: for its cold copy, on a fault record, or with a write still to be made (12 R359, R491). -/
def Pool.busy (p : Pool) : Bool :=
  p.cold.isSome || p.fault != 0 || (match p.sweep with | some w => w.retried != 0 || w.owed | none => false)

/-- A change of another pool of the same die is being performed: the home Thresher performs one at a time (12 R350). One that waits on a fault
record lets those of other pools go on (12 R491). -/
def dieBusy (s : State) (id home : Nat) : Bool :=
  let other := fun (i : Nat) => i != id && (match tabGet s.pools i with | some p => p.sw.home == home | none => false)
  let held := fun (o : Nat × Op) => match o.2.body with
    | .dir d => other d.pool && d.begun && d.fault == 0 && (d.moving || d.held)
    | _ => false
  s.ops.any held || s.pools.any (fun x => other x.1 && x.2.fault == 0 && (match x.2.cold with | some m => m.op == 0 | none => false))

/-- Another change of the pool has been taken up and has not ended. -/
def poolBusy (s : State) (id : Nat) (p : Pool) (but : Nat) : Bool := p.busy || begunForms s id but

/-- `kvpol.unreg`: it is accepted between two visits; the running sweep ends without its stamp. -/
def execKvpolUnreg (l : BitVec 4) (q : BitVec 2) (d : BitVec 5) (s : State) : Out :=
  issue s fun c => kvPool s c q [] fun id p pre pf => kvOn s c pre pf
    (if engineWaits s c || poolBusy s id p 0 then s
     else
       let p := { p with requests := 0, sweep := none }
       -- narrow pages keep the timeout of their pool
       let s := { (releaseWrites s c).modPool id (fun _ => p) with
                  narrow := s.narrow.map (fun t => if t.queue = p.queue && t.desc = p.desc then { t with wcTimeout := p.sw.wcTimeout } else t) }
       kvSync s c .unreg id p d l.toNat)

/-! ### Take-up (12 R366 to R369) -/

/-- A directory form ends with a status. -/
def dirEnd (s : State) (id : Nat) (o : Op) (d : Dir) (status : Nat) : State :=
  endOp (opWrites s o { k := [(d.kd, BitVec.ofNat 32 status)] }) id

/-- The status of a step (12 R366, R369). -/
def stepStatus : StepEnd → Nat
  | .made => 0 | .stuck => 2 | .held => 1 | .noMem => 3 | .refused => 5 | .copying => 0

/-- A fresh page (12 R367). -/
def newEntry (d : Dir) (p : Pool) (ref : DWord) (e : DirEnt) : DirEnt :=
  { ref := ref, summ := d.x, sweep := p.done, mass := 0, pos0 := d.a.toNat, doc := d.b.toNat, cls := d.c.toNat % 65536, version := e.version, ek := 0
    ev := 0, fill := 0, state := 0, tier := 0, vvar := false, fmt := 0, res := 0 }

/-- `kvnew` at take-up. -/
def takeNew (s : State) (id : Nat) (o : Op) (d : Dir) (p : Pool) (ps : List Piece) : State :=
  match tabGet s.heaps p.queue with
  | none => dirEnd s id o d 3
  | some h =>
    match allocObject s p.queue true (4 * p.tokens * p.chans) (d.c.toNat % 65536) true false with
    | (s, none) => dirEnd s id o d 3
    | (s, some a) => dirEnd (changeEntry s p.sw.home ps (newEntry d p (refBits h.ce false true a))) id o d 0

/-- The summary of a full page's keys (10 R302, 12 R368): minima, then maxima, of each channel over the token rows. -/
def summaryOf (t c : Nat) (keys : List Nat) : List Byte :=
  let fold := fun (wantMax : Bool) (ch : Nat) =>
    (List.range (t - 1)).foldl (fun b i => fminBits bf16 wantMax b (keys.getD (c * (i + 1) + ch) 0)) (keys.getD ch 0)
  (List.range c).flatMap (fun ch => bytesOf 2 (fold false ch)) ++ (List.range c).flatMap (fun ch => bytesOf 2 (fold true ch))

/-- BF16 elements of a byte string. -/
def halfwords (n : Nat) (bs : List Byte) : List Nat := (chunks n 2 bs).map natOfBytes

/-- What `kvseal` writes beside the entry: its rows, and, of a page that it fills, the summary record, whose pieces are the answer (12 R368, R491). -/
def sealNeed (s : State) (c : Ctx) (d : Dir) (p : Pool) (e : DirEnt) (obj : Nat) : Thr :=
  let r := (d.a.toNat : Nat)
  let row := 2 * p.chans
  if r = 0 then .ok [] else
  match thrNeed s c.q p.sw.home true (obj + 16 + row * e.fill) (row * r) d.retried,
      thrNeed s c.q p.sw.home true (obj + 16 + row * p.tokens + row * e.fill) (row * r) d.retried with
  | .ok _, .ok _ =>
    if e.fill + r < p.tokens then .ok [] else thrNeed s c.q p.sw.home true (p.sw.sumBase.toNat + 4 * p.chans * e.summ) (4 * p.chans) d.retried
  | .ok _, x => x
  | x, _ => x

/-- A form's change is made and its status decided; where it raised the stuck count, it ends when the count is written or the write refused
(12 R491). -/
def dirFinish (s : State) (id : Nat) (o : Op) (d : Dir) (stuck : Bool) (status : Nat) : State :=
  match (tabGet s.pools d.pool).filter (fun _ => stuck) with
  | none => dirEnd s id o d status
  | some p =>
    let r := trySync s p true 0 (.op id) (some o)
    match r.2 with
    | none => dirEnd r.1 id o d status
    | some f => r.1.putOp id { o with body := .dir { d with begun := true, status := some status, fault := f, retried := 0 } }

/-- `kvseal` at take-up: it appends its rows at the fill that stands, and seals a full page. `need` are the pieces of the summary. -/
def takeSeal (s : State) (id : Nat) (o : Op) (d : Dir) (p : Pool) (c : Ctx) (ps need : List Piece) (obj : Nat) : State :=
  let e := entryAt s ps
  let r := (d.a.toNat : Nat)
  if r = 0 then dirEnd s id o d 0 else
  let row := 2 * p.chans
  let rows := fun (w : Word) => s.bytes (c.team.spadAt (w.toNat : Nat)) (row * r)
  let half := row * p.tokens
  let s := hwWrite s c.q (obj + 16 + row * e.fill) (rows d.b)
  let s := hwWrite s c.q (obj + 16 + half + row * e.fill) (rows d.c)
  let s := markObjDirty s p.queue obj
  if e.fill + r < p.tokens then dirEnd (changeEntry s p.sw.home ps (fun e => { e with fill := e.fill + r })) id o d 0
  else
    let tc := p.tokens * p.chans
    let keys := halfwords tc ((hwRead s c.q (obj + 16) half).getD [])
    let vals := halfwords tc ((hwRead s c.q (obj + 16 + half) half).getD [])
    let nan := (keys ++ vals).any (fun v => (bf16Num v).isNan)
    let s := writePieces (thrNote s p.sw.home true need) need (summaryOf p.tokens p.chans keys)
    let s := changeEntry s p.sw.home ps (fun e => { e with fill := p.tokens, state := if nan then 2 else 1, sweep := p.done })
    let s := if nan then s.modPool d.pool (fun p => { p with stuck := (p.stuck + 1) % 2 ^ 32 }) else s
    dirFinish s id o d nan 0

/-- A form waits, begun, on a fault record of the Thresher. -/
def dirFault (s : State) (id : Nat) (o : Op) (d : Dir) (qn : Nat) (write : Bool) (va l e : Nat) : State :=
  (thrFault s qn (.op id) (some o) write va l e).putOp id { o with body := .dir { d with begun := true, held := false, fault := s.nextOp } }

/-- A form that the Thresher has begun waits for a page or an object that is being moved: it is no longer busy (12 R366, R368). -/
def dirHold (s : State) (id : Nat) (o : Op) (d : Dir) : State := s.putOp id { o with body := .dir { d with begun := true, held := true } }

/-- A form goes on when the accesses that it needs can be made; otherwise it waits on a record, or ends with status 5. -/
def dirNeed (s : State) (id : Nat) (o : Op) (d : Dir) (qn : Nat) (t : Thr) (next : List Piece → State) : State :=
  match t with
  | .ok ps => next ps
  | .invalid w va l e => dirFault s id o d qn w va l e
  | .refused => dirEnd s id o d 5

/-- A form that steps or invalidates, at take-up. -/
def takeStep (s : State) (id : Nat) (o : Op) (d : Dir) (p : Pool) (q : Queue) (ps : List Piece) : State :=
  let e := entryAt s ps
  let n := p.done + 1
  match d.form with
  | .dem =>
    if e.state = 2 || e.fmt = 4 then dirEnd s id o d 2 else
    dirNeed s id o d p.queue (stepNeed s p q e true (alignUp (pageBytes (nextEntry p e).fmt p.tokens p.chans) 16) d.retried) fun ns =>
      let r := formatStep (thrNote s p.sw.home false ns) d.pool p q ps n
      dirFinish r.1 id o d (r.2 == .stuck) (stepStatus r.2)
  | .cold =>
    if e.state = 2 || e.fmt != 4 || e.tier != 0 then dirEnd s id o d 2 else
    dirNeed s id o d p.queue (stepNeed s p q e false (alignUp (pageBytes e.fmt p.tokens p.chans) 16) d.retried) fun ns =>
      let r := coldStep (thrNote s p.sw.home false ns) d.pool p q d.x ps n id
      if r.2 = .copying then r.1.putOp id { o with body := .dir { d with begun := true, moving := true, held := false, retried := 0 } }
      else dirFinish r.1 id o d (r.2 == .stuck) (stepStatus r.2)
  | _ =>
    match tabGet s.heaps p.queue with
    | none => dirEnd s id o d 5
    | some h =>
      match resolve s q h e.ref with
      | .obj a hd _ =>
        if gleanerHolds h a || hd.pins > 0 then dirEnd s id o d 1
        else dirNeed s id o d p.queue (thrNeed s q p.sw.home true a 16 d.retried) fun _ =>
          let s := closeWcs (freeze s q a true) (fun w => w.queue == p.queue && w.body == a + 16)
          let s := changeEntry (dropUpdates s q (a + 16) hd.size) p.sw.home ps (fun e => { e with fmt := 7, sweep := n })
          dirEnd (releaseSpace s p.queue a (16 + hd.size)) id o d 0
      | .fault va l x => if d.retried = va + 1 then dirEnd s id o d 5 else dirFault s id o d p.queue false va l x
      | _ => dirEnd s id o d 5

/-- The Thresher performs a form whose entry it has read (12 R366 to R369). -/
def takeForm (s : State) (id : Nat) (o : Op) (d : Dir) (p : Pool) (c : Ctx) (ps : List Piece) : State :=
  let e := entryAt s ps
  if heldPieces s ps then dirHold s id o d
  else if dirForbids d.form e p.tokens d.a.toNat || e.malformed p.tokens then dirEnd s id o d 5
  else match d.form with
    | .new =>
      (match (tabGet s.heaps p.queue).bind (fun h => placeObject s p.queue c.q h true (4 * p.tokens * p.chans)) with
      | none => takeNew s id o d p ps
      | some b => dirNeed s id o d p.queue (thrNeed s c.q p.sw.home true b (16 + 4 * p.tokens * p.chans) d.retried) fun _ => takeNew s id o d p ps)
    | .seal =>
      (match resolveFor s c e.ref with
      | .obj a hd hl =>
        if resHeld s c true (.obj a hd hl) then dirHold s id o d
        else dirNeed s id o d p.queue (sealNeed s c d p e a) fun need =>
          if heldPieces s need then dirHold s id o d else takeSeal s id o d p c ps need a
      | .fault va l x => if d.retried = va + 1 then dirEnd s id o d 5 else dirFault s id o d p.queue false va l x
      | _ => dirEnd s id o d 5)
    | .dem => takeStep s id o d p c.q ps
    | .inv => takeStep s id o d p c.q ps
    | .cold => takeStep s id o d p c.q ps
    | .reg => dirEnd s id o d 0
    | .unreg => dirEnd s id o d 0

/-- The Thresher takes up a directory form, checks it again and performs it; or goes on with one that it has begun. A form waits while another
change of its pool, or of another pool of its die, is being performed (12 R350). -/
def execDirectoryTakeup (op : Nat) (s : State) : Out :=
  match tabGet s.ops op with
  | none => .next s
  | some o =>
    match opCtxAny s o, o.body with
    | some c, .dir d =>
      if d.moving || d.fault != 0 || (!d.begun && decide (s.cycle > o.issued + 8192)) then .next s else
      match tabGet s.pools d.pool with
      | none => .next (dirEnd s op o d (d.status.getD 5))
      | some p =>
        if poolBusy s d.pool p op || dieBusy s d.pool p.sw.home then .next s else
        match d.status with
        | some status =>
          let r := trySync s p (d.form != .unreg) d.retried (.op op) (some o)
          (match r.2 with
          | none => .next (dirEnd (closePool r.1 d.form d.pool) op o d status)
          | some f => .next (r.1.putOp op { o with body := .dir { d with fault := f } }))
        | none => .next (dirNeed s op o d p.queue (entryNeed s c.q p d.x d.retried) fun ps => takeForm s op o d p c ps)
    | _, _ => .next s

/-- A change that the Thresher did not begin within 8,192 cycles returns status 4. -/
def execDirectoryBusyTimeout (op : Nat) (s : State) : Out :=
  match tabGet s.ops op with
  | none => .next s
  | some o =>
    match o.body with
    | .dir d => if !d.begun && decide (s.cycle ≥ o.issued + 8192) then .next (dirEnd s op o d 4) else .next s
    | _ => .next s

/-! ### Sweeps (12 R354 to R356) -/

/-- The lowest round among the sweeps of a die that satisfy a test. -/
def firstTurn (s : State) (home : Nat) (ok : Nat → Pool → Bool) : Option Nat :=
  ((s.pools.filter (fun x => x.2.sw.home == home && ok x.1 x.2)).filterMap (fun x => x.2.sweep.map (·.turn))).min?

/-- A sweep starts, with the SW fields that `kvpol.set` loaded; it takes the last place of its die's present round (12 R354). -/
def startSweep (s : State) (id : Nat) (p : Pool) : State :=
  s.named.modPool id (fun _ => { p with sw := p.nextSw.getD p.sw, nextSw := none, lastStart := s.cycle
                                        sweep := some { n := p.done + 1, next := 0, stepped := 0, skipped := 0, status := 0, retried := 0
                                                        turn := (firstTurn s p.sw.home (fun _ _ => true)).getD 0, started := s.nextOp
                                                        owed := false, counted := false } })

/-- The interval has passed. -/
def execSweepIntervalStart (pool : Nat) (s : State) : Out :=
  match tabGet s.pools pool with
  | some p =>
    if p.sweep.isNone && p.sw.interval != 0 && decide (s.cycle ≥ p.lastStart + 1024 * p.sw.interval) then .next (startSweep s pool p) else .next s
  | none => .next s

/-- A requested sweep starts. -/
def execSweepRequestStart (pool : Nat) (s : State) : Out :=
  match tabGet s.pools pool with
  | some p =>
    if p.sweep.isNone && decide (p.requests > 0) then .next (startSweep s pool { p with requests := p.requests - 1 }) else .next s
  | none => .next s

/-- Status bits of a step that ended. -/
def stepBits (w : Sweep) : StepEnd → Sweep
  | .made => { w with stepped := w.stepped + 1 }
  | .stuck => { w with status := Nat.lor w.status 2 }
  | .held => { w with skipped := w.skipped + 1, status := Nat.lor w.status 4 }
  | .noMem => { w with skipped := w.skipped + 1, status := Nat.lor w.status 1 }
  | .refused => { w with status := Nat.lor w.status 8 }
  | .copying => w

/-- A sweep can visit: it has entries left, and no change of its pool is under way. -/
def visiting (s : State) (id : Nat) (p : Pool) : Bool :=
  match p.sweep with
  | some w => decide (w.next < p.sw.count) && p.cold.isNone && p.fault == 0 && !begunForms s id 0
  | none => false

/-- It is a sweep's turn: the sweeps of its die that can visit are not before it, by round and then by start (12 R354). -/
def itsTurn (s : State) (id : Nat) (p : Pool) (w : Sweep) : Bool :=
  s.pools.all (fun x => x.1 == id || x.2.sw.home != p.sw.home || !visiting s x.1 x.2 || (match x.2.sweep with
    | some v => decide (w.turn < v.turn) || (w.turn == v.turn && decide (w.started ≤ v.started))
    | none => true))

/-- A sweep's turn passes: its next is in the round after the present one. -/
def passTurn (s : State) (id : Nat) : State :=
  s.modPool id (fun p => { p with sweep := p.sweep.map (fun w =>
    { w with turn := 1 + Nat.max w.turn ((firstTurn s p.sw.home (fun i x => i != id && visiting s i x)).getD 0) }) })

/-- The sweep goes on to its next entry. -/
def sweepOn (s : State) (id : Nat) (f : Sweep → Sweep) : State :=
  (passTurn s id).modPool id (fun p => { p with sweep := p.sweep.map (fun w => { f w with next := w.next + 1, retried := 0 }) })

/-- A sweep waits on a fault record (12 R491). -/
def sweepWait (s : State) (id : Nat) (p : Pool) (write : Bool) (va l e : Nat) : State :=
  (thrFault s p.queue (.pool id) none write va l e).modPool id (fun p => { p with fault := s.nextOp })

/-- The write of the HW fields that a sweep owes: made or dropped, and the sweep goes on by `next`; or still owed. -/
def sweepSync (s : State) (id : Nat) (p : Pool) (retried : Nat) (next : State → State) : State :=
  let r := trySync s p true retried (.pool id) none
  match r.2 with
  | none => next (r.1.modPool id (fun p => { p with sweep := p.sweep.map (fun w => { w with owed := false, retried := 0 }) }))
  | some f => r.1.modPool id (fun p => { p with fault := f, sweep := p.sweep.map (fun w => { w with owed := true, retried := 0 }) })

/-- The threshold of an entry's next step: the step is the cold move for format 4 on the hot tier. -/
def stepThreshold (p : Pool) (e : DirEnt) : Option Nat :=
  match e.fmt with
  | 0 => some p.sw.tFp8
  | 1 => some p.sw.tFp6
  | 2 | 3 => some p.sw.tFp4
  | 4 => if e.tier = 0 then some p.sw.tCold else none
  | _ => none

/-- The mass that a decay leaves, and whether a step is due on an entry (12 R355). -/
def decayed (p : Pool) (e : DirEnt) : Nat := e.mass - e.mass / 2 ^ p.sw.decay
def stepDue (p : Pool) (w : Sweep) (e : DirEnt) : Bool :=
  e.state == 1 && decide ((w.n + 2 ^ 32 - e.sweep) % 2 ^ 32 ≥ p.sw.minAge) &&
    (match stepThreshold p e with | some t => decide (decayed p e < t) | none => false)

/-- A visit to an entry that can be read and written, and whose step, if one is due, can be made or is `refused`. -/
def visitEntry (s : State) (id : Nat) (p : Pool) (q : Queue) (w : Sweep) (ps : List Piece) (refused : Bool) : State :=
  let e := entryAt s ps
  if e.fmt = 7 then sweepOn s id (fun w => w)
  else if e.malformed p.tokens then sweepOn s id (fun w => { w with status := Nat.lor w.status 8 })
  else
    let s := match ps with | pc :: _ => (thrNote s p.sw.home true ps).writeNum (pc.pa + 44) 4 (decayed p e) | [] => s
    if !stepDue p w e then sweepOn s id (fun w => w)
    else if refused then sweepOn s id (fun w => { w with status := Nat.lor w.status 8 })
    else
      let r := if e.fmt = 4 then coldStep s id p q w.next ps w.n 0 else formatStep s id p q ps w.n
      if r.2 = .copying then r.1 else
      let s := sweepOn r.1 id (fun w => stepBits w r.2)
      match (tabGet s.pools id).filter (fun _ => r.2 == .stuck) with
      | some p => sweepSync s id p 0 (fun s => s)
      | none => s

/-- The accesses of the step that a visit will make (12 R491). -/
def visitNeed (s : State) (p : Pool) (q : Queue) (w : Sweep) (e : DirEnt) : Thr :=
  if e.fmt = 7 || e.malformed p.tokens || !stepDue p w e then .ok []
  else if e.fmt = 4 then stepNeed s p q e false (alignUp (pageBytes e.fmt p.tokens p.chans) 16) w.retried
  else stepNeed s p q e true (alignUp (pageBytes (nextEntry p e).fmt p.tokens p.chans) 16) w.retried

/-- A sweep visits its next entry. One whose page is being moved is visited later, and the turn passes. -/
def execSweepVisit (pool : Nat) (s : State) : Out :=
  match tabGet s.pools pool with
  | none => .next s
  | some p =>
    match p.sweep, tabGet s.queues p.queue with
    | some w, some q =>
      if !visiting s pool p || dieBusy s pool p.sw.home || !itsTurn s pool p w then .next s else
      if w.owed then .next (sweepSync s pool p w.retried (fun s => s)) else
      let at_ := p.entry w.next
      let pass := sweepOn s pool (fun w => { w with status := Nat.lor w.status 8 })
      match thrNeed s q p.sw.home false at_ 64 w.retried with
      | .refused => .next pass
      | .invalid w va l e => .next (sweepWait s pool p w va l e)
      | .ok rs =>
        if (entryAt s rs).fmt = 7 then .next (sweepOn (thrNote s p.sw.home false rs) pool (fun w => w)) else
        match thrNeed s q p.sw.home true at_ 64 w.retried with
        | .refused => .next pass
        | .invalid w va l e => .next (sweepWait s pool p w va l e)
        | .ok ps =>
          if heldPieces s ps then .next (passTurn s pool) else
          match visitNeed s p q w (entryAt s ps) with
          | .invalid w va l e => .next (sweepWait s pool p w va l e)
          | .refused => .next (visitEntry s pool p q w ps true)
          | .ok ns => .next (visitEntry (thrNote s p.sw.home false ns) pool p q w ps false)
    | _, _ => .next s

/-! ### Cold moves (12 R359) -/

/-- The form that asked for a cold move. -/
def coldForm (s : State) (m : ColdMove) : Option (Op × Dir) :=
  if m.op = 0 then none else (tabGet s.ops m.op).bind (fun o => match o.body with | .dir d => some (o, d) | _ => none)

/-- A cold move is over: its sweep goes on, or its form ends. -/
def coldEnd (s : State) (pool : Nat) (m : ColdMove) (how : StepEnd) : State :=
  let s := s.modPool pool (fun p => { p with cold := none })
  if m.op = 0 then sweepOn s pool (fun w => stepBits w how)
  else match coldForm s m with
    | some (o, d) => dirEnd s m.op o d (stepStatus how)
    | none => s

/-- The accesses that publish a cold move: the copy, and the entry. -/
def coldNeed (s : State) (q : Queue) (p : Pool) (m : ColdMove) (retried : Nat) : Thr :=
  match thrNeed s q p.sw.home false m.src (16 + (headerAt s q m.src).size) retried,
      thrNeed s q p.sw.home true m.dest (16 + (headerAt s q m.src).size) retried with
  | .ok _, .ok _ => entryNeed s q p m.x retried
  | .ok _, r => r
  | r, _ => r

/-- The Gleaner has copied a cold object: the entry takes its new ref and tier 1, and the old object is released. An access that is refused, or an
entry that has become malformed (01 R12), leaves the object where it is, and the destination is given back (12 R491). -/
def execColdMoveCopyDone (pool : Nat) (s : State) : Out :=
  match tabGet s.pools pool with
  | none => .next s
  | some p =>
    match p.cold, tabGet s.queues p.queue, tabGet s.heaps p.queue with
    | some m, some q, some h =>
      let refused := fun (s : State) =>
        let s := freeze s q m.src false
        coldEnd (syncHeap (setAlloc s q h m.dest false) p.queue) pool m .refused
      let form := coldForm s m
      if p.fault != 0 || (match form with | some (_, d) => d.fault != 0 | none => false) then .next s else
      let retried := match form with | some (_, d) => d.retried | none => ((p.sweep.map (·.retried)).getD 0)
      (match coldNeed s q p m retried with
      | .ok ps =>
        if heldPieces s ps then .next s else
        if (entryAt s ps).fmt = 7 || (entryAt s ps).malformed p.tokens then .next (refused s) else
        let n := (headerAt s q m.src).size
        let s := hwWrite (hwNote s q m.src (16 + n) false) q (m.dest + 16) ((hwRead s q (m.src + 16) n).getD [])
        let s := match narrowAt s p.queue m.src with | some t => setNarrow s { t with obj := m.dest } | none => s
        let s := dropUpdates s q (m.dest + 16) n
        let s := changeEntry s p.sw.home ps (fun e => { e with ref := refBits h.ce false true m.dest, tier := 1, sweep := m.n })
        .next (coldEnd (releaseSpace s p.queue m.src (16 + n)) pool m .made)
      | .invalid w va l e =>
        .next (match form with
          | some (o, d) => dirFault s m.op o d p.queue w va l e
          | none => sweepWait s pool p w va l e)
      | .refused => .next (refused s))
    | _, _, _ => .next s

/-- A sweep's stamp: written, or dropped where it is refused; the sweep is complete (12 R356). -/
def sweepStamp (s : State) (id : Nat) (p : Pool) (q : Queue) (w : Sweep) (retried : Nat) : State :=
  match thrNeed s q p.sw.home true p.sw.stamp.toNat 8 retried with
  | .invalid w va l e => sweepWait s id p w va l e
  | .refused => s.modPool id (fun p => { p with sweep := none })
  | .ok ps =>
    if heldPieces s ps then s else
    (writePieces (thrNote s p.sw.home true ps) ps (bytesOf 8 (w.n % 2 ^ 48 + 2 ^ 48 * w.status))).modPool id (fun p => { p with sweep := none })

/-- A sweep is complete after its last visit: counts, then the stamp. A stuck count still owed is written first; counts that are refused after the
answer are dropped, and the stamp follows all the same (12 R491). -/
def execSweepComplete (pool : Nat) (s : State) : Out :=
  match tabGet s.pools pool with
  | none => .next s
  | some p =>
    match p.sweep, tabGet s.queues p.queue with
    | some w, some q =>
      if decide (w.next < p.sw.count) || p.cold.isSome || p.fault != 0 || begunForms s pool 0 then .next s
      else if w.counted then .next (sweepStamp s pool p q w w.retried)
      else if w.owed && p.done != w.n then .next (sweepSync s pool p w.retried (fun s => s))
      else
        let p' := { p with done := w.n, stepped := w.stepped, skipped := w.skipped }
        .next (sweepSync (s.modPool pool (fun _ => p')) pool p' w.retried (fun s =>
          sweepStamp (s.modPool pool (fun p => { p with sweep := some { w with counted := true, owed := false, retried := 0 } })) pool p' q w 0))
    | _, _ => .next s

end Sys2Proof.Machine
end

