-- ==== Sys2Proof/Machine/Copy.lean ====
section
/-! DEFINITION. The copy engine: transfers, multicast, transaction counts and stamps (14 R402 to R421). -/

namespace Sys2Proof.Machine

open Sys2Proof

/-! ### Where a team's scratchpad stands (14 R418) -/

/-- An allocation as an engine finds it: the engine waits, the team has ended, or bytes can be reached. -/
inductive Home where
  | wait
  | ended
  | live (t : Team)
  deriving DecidableEq, Repr

/-- Where deliveries to a team go: RUNNING and SHADOW into the live allocation; a saved team into its image; DRAINING, SAVING, FILLING and a team
not yet placed wait; an ended team has none. -/
def spadHome (s : State) (key : Nat) : Home :=
  match tabGet s.teams key with
  | none => .ended
  | some t =>
    if t.st == .ended || t.st == .failed then .ended
    else match slotOf s key with
      | some sl => if !t.saved && (sl.st == .running || sl.st == .shadow) then .live t else .wait
      | none => if t.saved then .live t else .wait

/-! ### Parts of a transfer -/

/-- A range cut where pages end: offset and length of each cut; scratchpad is one cut. -/
def cutsOf (sp : Space) (a n : Nat) : List (Nat × Nat) :=
  match sp with
  | .mem => (pageCuts a n).map (fun p => (p.1 - a, p.2))
  | .spad => [(0, n)]

/-- The parts of a row: no part crosses a page of the source or of the destination. -/
def rowCuts (ssp : Space) (src : Nat) (dsp : Space) (dst n : Nat) : List (Nat × Nat) :=
  (cutsOf ssp src n).flatMap (fun p => (cutsOf dsp (dst + p.1) p.2).map (fun d => (p.1 + d.1, d.2)))

/-- Why a transfer stops (14 R414 to R416). -/
inductive Stop where
  | none
  | cause (k : Nat)
  | fault (va level entry : Nat) (write : Bool)
  | wait
  deriving DecidableEq, Repr

/-- A transfer as it goes: the state, bytes delivered, denied bytes (the first address, their number, the lowest class), destination pages that
it has reached, and why it stopped. -/
structure Move where
  st : State
  n : Nat := 0
  den : Option (Nat × Nat × Nat) := none
  pages : List Nat := []
  stop : Stop := .none

/-- Denied bytes of a piece join those of the transfer. -/
def Move.deny (m : Move) (s : State) (q : Queue) (p : Piece) : Move :=
  match deniedClass s q p with
  | none => m
  | some k =>
    let va := p.va + ((List.range p.n).find? (byteDenied s q p)).getD 0
    let n := deniedCount s q p
    { m with den := match m.den with
        | some (a, c, l) => some (a, c + n, Nat.min l k)
        | none => some (va, n, k) }

/-- An open translation of an engine: the piece, or why it stops (14 R414). `retried` is the address walked after its answer, plus 1. Where the
queue is gone there is no ring to write a fault record to, and nobody to answer it: the entry stays invalid (log 84). -/
def copyPiece (s : State) (qn : Nat) (q : Queue) (die : Nat) (write : Bool) (retried va n : Nat) : Except Stop Piece :=
  let a := va % 2 ^ 64
  match translate s q none none die a write with
  | (.invalid l e, _) => .error (if retried = a + 1 || qn == noQueue then .cause 3 else .fault a l e write)
  | (.malformed _ _, _) => .error (.cause 11)
  | (.bad _, _) => .error (.cause 5)
  | (.leaf x, w) => .ok { va := a, pa := x.pa a, n := n, x := x, walked := w }

/-- Read a part in memory: its bytes, the denied as zeros. Bytes of a peer window have no value here: they are free (log 7). -/
def copyRead (m : Move) (qn : Nat) (q : Queue) (die retried va n : Nat) : Move × List Byte :=
  let s := m.st
  match copyPiece s qn q die false retried va n with
  | .error e => ({ m with stop := e }, [])
  | .ok p =>
    if (badAdmitted s q p).isSome then ({ m with stop := .cause 5 }, [])
    else if p.x.region = 1 && !(rawCode s qn q p.va n false).isEmpty then ({ m with stop := .cause 7 }, [])
    else
      let s1 := if p.x.region = 1 then closeRead s qn p.va n else s
      let s2 := notePieces s1 q none die false [p]
      if placeOf s p.pa = some .peer then
        ({ m with st := { s2 with fresh := s.fresh + 1 } }, (List.range n).map (Config.freeByte s.fresh))
      else ((({ m with st := s2 }).deny s1 q p), readPiece s1 q p)

/-- The cause that refuses a write of a part in memory; conditions in the order of their causes. -/
def writeCause (s : State) (qn : Nat) (q : Queue) (p : Piece) : Option Nat :=
  if (deniedClass s q p).isSome then some 4
  else if (badPart s p.pa p.n).isSome then some 5
  else if p.x.region = 1 && !(rawCode s qn q p.va p.n true).isEmpty then some 7
  else if p.readOnly || (p.x.region == 2 && placeOf s p.pa != some .host) then some 8
  else none

/-- A write is held at its home slice: by a page migration (07 R233), or by a relocation cycle (13 R392). -/
def writeHeld (s : State) (qn : Nat) (p : Piece) : Bool := heldByMigration s p.pa p.n || heldByCycle s qn p.va p.n

/-- Write a part in memory. -/
def copyWrite (m : Move) (qn : Nat) (q : Queue) (die retried va : Nat) (bs : List Byte) : Move :=
  let s := m.st
  match copyPiece s qn q die true retried va bs.length with
  | .error e => { m with stop := e }
  | .ok p =>
    match writeCause s qn q p with
    | some k => { m with stop := .cause k }
    | none =>
      if writeHeld s qn p then { m with stop := .wait }
      else { m with st := (notePieces s q none die true [p]).write p.pa bs, n := m.n + bs.length }

/-- The destination bytes of a transfer that lie from `lo` up to `hi`, before their addresses are truncated: rows that meet leave no gap. -/
def Copy.destBetween (c : Copy) (lo hi : Nat) : List (Nat × Nat) :=
  let clip := fun (a n : Nat) => (Nat.max a lo, Nat.min (a + n) hi - Nat.max a lo)
  let rs := if c.dpitch ≤ c.n then [clip c.dst ((c.rows - 1) * c.dpitch + c.n)] else (List.range c.rows).map (fun r => clip (c.dst + r * c.dpitch) c.n)
  rs.filter (fun r => r.2 != 0)

/-- The same with addresses truncated to 64 bits: a transfer that passes 2^64 goes on at 0 (14 R406). -/
def Copy.destIn (c : Copy) (lo hi : Nat) : List (Nat × Nat) :=
  c.destBetween lo hi ++ (c.destBetween (lo + 2 ^ 64) (hi + 2 ^ 64)).map (fun r => (r.1 - 2 ^ 64, r.2))

/-- The bytes of a destination page that a transfer is to write, with their translation. -/
def destPieces (c : Copy) (x : Xlat) (walked : Bool) : List Piece :=
  (c.destIn x.base (x.base + x.size)).map (fun r => { va := r.1, pa := x.pa r.1, n := r.2, x := x, walked := walked })

/-- The audit event of a transfer's denied write: path 5, kind write, with every denied byte of the page (14 R415). -/
def denyWriteAudit (s : State) (o : Op) (q : Queue) (ps : List Piece) : State :=
  let den := ps.filter (fun p => (deniedClass s q p).isSome)
  match den.filterMap (deniedClass s q), den with
  | k :: ks, p :: _ =>
    opAudit s o (p.va + ((List.range p.n).find? (byteDenied s q p)).getD 0) ((den.map (deniedCount s q)).foldl (· + ·) 0) 0 (ks.foldl Nat.min k) 5 1
  | _, _ => s

/-- A transfer reaches a destination page: where a byte of it is denied, no byte of the page is written (14 R415). -/
def enterPage (m : Move) (o : Op) (c : Copy) (q : Queue) (va n : Nat) : Move :=
  match copyPiece m.st o.qn q (dieOf o.core) true c.retried va n with
  | .error _ => m
  | .ok p =>
    if m.pages.contains p.x.base then m else
    let ps := destPieces c p.x p.walked
    if ps.any (fun p => (deniedClass m.st q p).isSome) then { m with st := denyWriteAudit m.st o q ps, stop := .cause 4 }
    else { m with pages := p.x.base :: m.pages }

/-- Bytes of a team's scratchpad; an ended team has none left, and what is read is free (log 7). -/
def spadRead (m : Move) (h : Home) (o n : Nat) : Move × List Byte :=
  match h with
  | .live t => (m, m.st.bytes (t.spadAt o) n)
  | .ended => ({ m with st := { m.st with fresh := m.st.fresh + 1 } }, (List.range n).map (Config.freeByte m.st.fresh))
  | .wait => ({ m with stop := .wait }, [])

/-- Write into a team's scratchpad: refused where a granule holds an initialised barrier (06 R195); dropped once the team has ended. -/
def spadWrite (m : Move) (h : Home) (o : Nat) (bs : List Byte) : Move :=
  match h with
  | .live t => if (teamTag m.st t o bs.length).isSome then { m with stop := .cause 6 }
               else { m with st := m.st.write (t.spadAt o) bs, n := m.n + bs.length }
  | .ended => m
  | .wait => { m with stop := .wait }

/-- Move one part of a single transfer. -/
def movePart (o : Op) (c : Copy) (q : Queue) (h : Home) (m : Move) (src dst n : Nat) : Move :=
  if m.stop ≠ .none then m else
  let die := dieOf o.core
  let (m1, bs) := match c.srcSp with
    | .mem => copyRead m o.qn q die c.retried src n
    | .spad => spadRead m h src n
  if m1.stop ≠ .none then m1 else
  match c.dstSp with
  | .mem =>
    let m2 := enterPage m1 o c q dst n
    if m2.stop ≠ .none then m2 else copyWrite m2 o.qn q die c.retried dst bs
  | .spad => spadWrite m1 h dst bs

/-- Rows in ascending order, parts in ascending order: where rows meet, the higher row's bytes stay (14 R406). -/
def moveRows (o : Op) (c : Copy) (q : Queue) (h : Home) (m : Move) : Move :=
  (List.range c.rows).foldl (fun m r =>
    let src := c.src + r * c.spitch
    let dst := c.dst + r * c.dpitch
    (rowCuts c.srcSp src c.dstSp dst c.n).foldl (fun m p => movePart o c q h m (src + p.1) (dst + p.1) p.2) m) m

/-! ### Fault records of the copy engine (14 R414) -/

/-- An operation waits on a fault record: source 1, access 4 or 5. -/
def copyFault (s : State) (id : Nat) (o : Op) (c : Copy) (q : Queue) (va l e : Nat) (write : Bool) : State :=
  let f : FaultInfo := { va := va, lanes := 0, level := l, entry := e, access := if write then 5 else 4, source := 1 }
  (addFault s o.queue (faultBits s o.queue q o.grid (o.team % 2 ^ 32) o.core o.group o.split o.unit f) (.op id)).putOp id
    { o with body := .copy { c with fault := s.nextOp } }

/-- The first cause stays. -/
def Copy.fail (c : Copy) (k : Nat) : Copy := if c.cause = 0 then { c with cause := k } else c

/-- The event of denied source bytes: one per operation, path 4, kind read (14 R415). -/
def Copy.auditRead (s : State) (o : Op) (c : Copy) (den : Option (Nat × Nat × Nat)) : State × Copy :=
  match den with
  | some (va, n, k) => ((if c.audited then s else opAudit s o va n 0 k 4 0), { c with denied := true, audited := true })
  | none => (s, c)

/-- Bytes delivered to a position wait to be counted at its barrier (14 R417). -/
def Copy.owe (c : Copy) (pos n : Nat) : Copy :=
  if c.bar.isSome && n != 0 then { c with owed := tabPut c.owed pos ((tabGet c.owed pos).getD 0 + n) } else c

/-- A position has had its delivery. -/
def Copy.did (c : Copy) (pos : Nat) : Copy := { c with todo := c.todo.filter (fun p => p != pos) }

/-! ### Deliveries (14 R406, R407, R418 to R420) -/

/-- The transfer of `cpy`, `cpy2d` or a chain record: whole, or up to its first condition. Its entries are then released (14 R409). Which aligned
8-byte units of a transfer have landed before it is finished is left open (03 R104); here a transfer lands in one event, so that no racing
access meets it half done (log 83). -/
def deliverSingle (s : State) (id : Nat) (o : Op) (c : Copy) (q : Queue) : State :=
  let h := if c.srcSp = .spad || c.dstSp = .spad then spadHome s o.team else .ended
  let m := moveRows o c q h { st := s }
  let done := fun (c : Copy) =>
    let (s, c) := Copy.auditRead m.st o c m.den
    releaseLocks (s.putOp id { o with body := .copy ((c.did 0).owe 0 m.n) }) id (fun _ => true)
  match m.stop with
  | .none => done c
  | .cause k => done (c.fail k)
  | .wait => s
  | .fault va l e w => copyFault s id o c q va l e w

/-- The source of a multicast, read once (14 R407). -/
def readSource (o : Op) (c : Copy) (q : Queue) (s : State) : Move × List Byte :=
  (cutsOf c.srcSp c.src c.n).foldl (fun (a : Move × List Byte) p =>
    if a.1.stop ≠ .none then a else
    let (m, bs) := match c.srcSp with
      | .mem => copyRead a.1 o.qn q (dieOf o.core) c.retried (c.src + p.1) p.2
      | .spad => spadRead a.1 (spadHome s o.team) (c.src + p.1) p.2
    (m, a.2 ++ bs)) ({ st := s }, [])

/-- The team at a position of the issuing team's cluster. -/
def receiver (s : State) (o : Op) (pos : Nat) : Nat :=
  match tabGet s.grids o.grid with
  | some g => teamKey o.grid (g.launch.teamAt (o.team % 2 ^ 32) pos)
  | none => o.team

/-- Deliver a multicast's bytes to one position; the issuer's own entry is released with its own delivery, or when that is dropped (14 R409). -/
def deliverTo (s : State) (id : Nat) (o : Op) (c : Copy) (bs : List Byte) (pos : Nat) : State :=
  let key := receiver s o pos
  let free := fun (s : State) => if key = o.team then releaseLocks s id RangeLock.write else s
  match spadHome s key with
  | .wait => s.putOp id { o with body := .copy c }
  | .ended => free (s.putOp id { o with body := .copy { c.did pos with drops := Nat.min (c.drops + 1) 255 } })
  | .live t =>
    if (teamTag s t c.dst bs.length).isSome then free (s.putOp id { o with body := .copy ((c.did pos).fail 6) })
    else free ((s.write (t.spadAt c.dst) bs).putOp id { o with body := .copy ((c.did pos).owe pos bs.length) })

/-- A multicast reads its source at its first delivery, and releases the source's entry. A source that stops the read ends the operation. -/
def deliverMulti (s : State) (id : Nat) (o : Op) (c : Copy) (q : Queue) (pos : Nat) : State :=
  match c.buf with
  | some bs => deliverTo s id o c bs pos
  | none =>
    let (m, bs) := readSource o c q s
    let (s', c') := Copy.auditRead m.st o c m.den
    match m.stop with
    | .none => deliverTo (releaseLocks s' id (fun l => !l.write)) id o { c' with buf := some bs } bs pos
    | .cause k => releaseLocks (s'.putOp id { o with body := .copy { c'.fail k with todo := [], buf := some [] } }) id (fun _ => true)
    | .wait => s
    | .fault va l e w => copyFault s id o c q va l e w

/-- A delivery lands (14 R418). For a single transfer, position 0 stands for it. -/
def execMulticastDelivery (op pos : Nat) (s : State) : Out :=
  match tabGet s.ops op with
  | none => .next s
  | some o =>
    match o.body, opQueue s o with
    | .copy c, some q =>
      if c.fault != 0 || !c.todo.contains pos then .next s
      else if c.cpym then .next (deliverMulti s op o c q pos) else .next (deliverSingle s op o c q)
    | _, _ => .next s

/-! ### Transaction counts (14 R417) -/

/-- One piece at a barrier: where no initialised object stands the piece is not applied, and cause 9 is recorded. -/
def decrPiece (s : State) (h : Home) (off n : Nat) : State × Bool :=
  match h with
  | .live t =>
    if t.saved then (if t.imageTags.contains off then (decrBar s (t.spadAt off) n, true) else (s, false))
    else if tagged s (t.spadAt off) then (decrBar s (t.spadAt off) n, true) else (s, false)
  | _ => (s, false)

/-- Bytes counted may be the last that a multicast delivers, while its issuer's own delivery, whose entry is still held, may yet be dropped: every entry
is released before such a piece is applied (14 R409). -/
def mayBeLast (s : State) (o : Op) (c : Copy) (pos n : Nat) : Bool :=
  c.cpym && c.owed == [(pos, n)] && c.todo.any (fun p => receiver s o p == o.team)

/-- Count bytes of a position at its barrier. -/
def countBytes (s : State) (id : Nat) (o : Op) (c : Copy) (pos n : Nat) : State :=
  if mayBeLast s o c pos n then s else
  match c.bar, spadHome s (if c.cpym then receiver s o pos else o.team) with
  | some _, .wait => s
  | none, _ => s
  | some off, h =>
    let (s, ok) := decrPiece s h off n
    let left := (tabGet c.owed pos).getD 0 - n
    let c := { c with owed := if left = 0 then tabDel c.owed pos else tabPut c.owed pos left }
    s.putOp id { o with body := .copy (if ok then c else c.fail 9) }

/-- An engine applies a piece of a decrement: at most 4,096 bytes, of bytes that are performed. -/
def execBarrierDecrement (op pos bytes : Nat) (s : State) : Out :=
  match tabGet s.ops op with
  | none => .next s
  | some o =>
    match o.body with
    | .copy c =>
      if bytes = 0 || decide (bytes > 4096) || decide (bytes > (tabGet c.owed pos).getD 0) || c.fault != 0 then .next s
      else .next (countBytes s op o c pos bytes)
    | _ => .next s

/-- The copy operation of a name, as it stands. -/
def copyOf (s : State) (id : Nat) : Option (Op × Copy) :=
  match tabGet s.ops id with
  | some o => match o.body with | .copy c => some (o, c) | _ => none
  | none => none

/-- Count what is left of one position, in pieces of 4,096 bytes. -/
def countAll (s : State) (id pos : Nat) : Nat → State
  | 0 => s
  | k + 1 =>
    match copyOf s id with
    | some (o, c) =>
      let n := (tabGet c.owed pos).getD 0
      if n = 0 then s else countAll (countBytes s id o c pos (Nat.min n 4096)) id pos k
    | none => s

/-- Count everything that is owed. -/
def countRest (s : State) (id : Nat) : State :=
  match copyOf s id with
  | some (_, c) => c.owed.foldl (fun s e => countAll s id e.1 (e.2 / 4096 + 1)) s
  | none => s

/-! ### Stamps (14 R411 to R413) -/

/-- The stamp's word (14 R411). -/
def stampWord (seq cause drops : Nat) (denied part cancel : Bool) : Nat :=
  packBits [(48, seq), (1, (cause != 0).toNat), (1, part.toNat), (1, denied.toNat), (1, cancel.toNat), (4, cause), (8, drops)]

/-- How a write of 8 bytes by the engine goes: it is made, it is dropped, it waits on a fault record, or it is held. -/
inductive Wrote where
  | made (s : State)
  | dropped (s : State)
  | fault (va level entry : Nat)
  | held

/-- Write a stamp, or a record's write-back (14 R412, R423). `aud` appends the event of a denied class. -/
def stampWrite (s : State) (qn : Nat) (q : Queue) (die retried : Nat) (va : DWord) (w : Nat) (aud : State → Nat → Nat → Nat → State) : Wrote :=
  match copyPiece s qn q die true retried va.toNat 8 with
  | .error (.fault a l e _) => .fault a l e
  | .error _ => .dropped s
  | .ok p =>
    match writeCause s qn q p with
    | some 4 => .dropped (aud s (p.va + ((List.range p.n).find? (byteDenied s q p)).getD 0) (deniedCount s q p) ((deniedClass s q p).getD 0))
    | some _ => .dropped s
    | none => if writeHeld s qn p then .held else .made ((notePieces s q none die true [p]).writeNum p.pa 8 w)

/-- The event of a stamp whose class is denied: path 5, kind write. -/
def opStampAudit (o : Op) (s : State) (va n k : Nat) : State := opAudit s o va n 0 k 5 1

/-- A copy operation ends and writes its stamp; a transfer that is still to be made, and bytes still to be counted, come first. -/
def execCopyOperationComplete (op : Nat) (s : State) : Out :=
  match copyOf s op with
  | none => .next s
  | some (o, c) =>
    match opQueue s o with
    | none => .next (endOp s op)
    | some q =>
      if c.fault != 0 || c.chain.isSome then .next s else
      let s := countRest (if c.cpym || c.todo.isEmpty then s else deliverSingle s op o c q) op
      match copyOf s op with
      | none => .next s
      | some (o, c) =>
        if c.fault != 0 || !c.todo.isEmpty || !c.owed.isEmpty then .next s else
        let s := releaseLocks s op (fun _ => true)
        match c.stamp with
        | none => .next (endOp s op)
        | some st =>
          match stampWrite s o.qn q (dieOf o.core) c.retried st.va
              (stampWord st.seq c.cause c.drops c.denied (c.drops != 0) false) (opStampAudit o) with
          | .made s => .next (endOp s op)
          | .dropped s => .next (endOp s op)
          | .held => .next s
          | .fault va l e => .next (copyFault s op o c q va l e true)

/-! ### Issue (14 R404, R405, R408 to R410) -/

/-- The stamp block, when st = 1 (14 R405). -/
def stampBlock (c : Ctx) (t : BitVec 1) (kt : BitVec 3) : Option StampTo :=
  if t = 1 then
    let b := 4 * kt.toNat
    some { va := c.group.kpair b, seq := (c.group.kread (b + 2)).toNat + 2 ^ 32 * ((c.group.kread (b + 3)).toNat % 65536) }
  else none

/-- Conditions of a stamp address (14 R408). -/
def stampConds (c : Ctx) (st : Option StampTo) : List Cond :=
  match st with
  | some x => wholeCond (!canonical x.va) 0x11 x.va.toNat c.split.mask.toNat c.split.mask ++
              wholeCond (x.va.toNat % 8 != 0) 0x20 x.va.toNat c.split.mask.toNat c.split.mask
  | none => []

/-- Conditions of a barrier offset. -/
def barOperand (c : Ctx) (b : Option Nat) : List Cond :=
  match b with
  | some o => wholeCond (decide (o + 16 > c.team.spadSize)) 0x12 o c.team.spadSize c.split.mask ++
              wholeCond (o % 16 != 0) 0x16 o 0 c.split.mask
  | none => []

/-- Rows of the destination that fall in a granule with an initialised barrier. -/
def tagConds (s : State) (c : Ctx) (v : Copy) : List Cond :=
  match ((List.range v.rows).filterMap (fun r => teamTag s c.team (v.dst + r * v.dpitch) v.n)).min? with
  | some g => [{ code := 0x14, d0 := g, d1 := c.split.mask.toNat, lanes := c.split.mask }]
  | none => []

/-- The hulls of source and destination. -/
def Copy.srcRng (v : Copy) : Rng := { sp := v.srcSp, addr := v.src, n := (v.rows - 1) * v.spitch + v.n, write := false }
def Copy.dstRng (v : Copy) : Rng := { sp := v.dstSp, addr := v.dst, n := (v.rows - 1) * v.dpitch + v.n, write := true }

/-- The bounds of a range at issue; its tags are looked at apart. -/
def boundConds (s : State) (c : Ctx) (r : Rng) : List Cond := if r.n = 0 then [] else rngConds s c false { r with write := false }

/-- Operations of a core in the copy engines: transfers in flight and running chains (14 R402). -/
def chainsOf (s : State) (core : Nat) : Nat :=
  ((s.teams.filter (fun t => t.2.core == core)).map (fun t =>
    (t.2.channels.filter (fun ch => ch.st == .fetch || ch.st == .run || ch.st == .wait)).length)).foldl (· + ·) 0
def copiesOf (s : State) (core : Nat) : Nat :=
  (s.ops.filter (fun o => o.2.core == core && match o.2.body with | .copy c => c.chain.isNone | _ => false)).length

/-- Put a transfer in flight. Its unit completes as its entries stand in the table: no lookahead window stays open (14 R410). -/
def issueCopy (s : State) (c : Ctx) (rs : List Rng) (v : Copy) : State :=
  let s := enterLocks (releaseWrites s c) c.core (rngLocks s c rs s.nextOp)
  let id := s.nextOp
  finish ({ s.named with ops := tabPut s.ops id (opOf s c c.split.mask (.copy v)) }) c {}

/-- The issue of a transfer: the lowest code, or a wait for entries and for a place among the 32, or its entries. `own` tells whether the issuer's
allocation is written; `extra` are the form's own conditions. -/
def copyUnit (s : State) (c : Ctx) (v : Copy) (own : Bool) (extra : List Cond) : State :=
  let tags := if v.dstSp = .spad && own && (boundConds s c v.dstRng).isEmpty then tagConds s c v else []
  match lowest (boundConds s c v.srcRng ++ boundConds s c v.dstRng ++ stampConds c v.stamp ++ barOperand c v.bar ++ tags ++ extra) with
  | some t => takeTrap s (unitSite s c) t
  | none =>
    let rs := if v.cpym && !own then [v.srcRng] else [v.srcRng, v.dstRng]
    if engineWaits s c || !locksFor s c rs || decide (copiesOf s c.core + chainsOf s c.core ≥ 32) then s
    else issueCopy s c rs v

/-- The operand block as a transfer (14 R405). -/
def copyBlock (c : Ctx) (two : Bool) (k : BitVec 3) (t b d sp : BitVec 1) (q : BitVec 2) : Copy :=
  let kq := 8 * q.toNat
  let space := fun (b : BitVec 1) => if b = 1 then Space.spad else Space.mem
  let w := (c.group.kread (kq + 4)).toNat
  { cpym := false, n := if two then w % 2 ^ 24 else w, rows := if two then w / 2 ^ 24 + 1 else 1
    spitch := if two then (c.group.kread (kq + 6)).toNat else 0, dpitch := if two then (c.group.kread (kq + 7)).toNat else 0
    dst := operandAddr c.group (space d) kq, dstSp := space d, src := operandAddr c.group (space sp) (kq + 2), srcSp := space sp
    bar := if b = 1 then some (c.group.kread (kq + 5)).toNat else none, stamp := stampBlock c t k, todo := [0], owed := []
    cause := 0, denied := false, drops := 0, audited := false, fault := 0, retried := 0, buf := none, chain := none, unstamped := false }

/-- The length's condition. -/
def lenCond (s : State) (c : Ctx) (q : BitVec 2) (n : Nat) : List Cond :=
  wholeCond (n == 0 || decide (n > 16777215)) 0x60 (c.group.kread (8 * q.toNat + 4)).toNat s.unit.addr.toNat c.split.mask

/-- `cpy`. -/
def execCpy (_l : BitVec 4) (k : BitVec 3) (t b d sp : BitVec 1) (q : BitVec 2) (s : State) : Out :=
  issue s fun c =>
    let v := copyBlock c false k t b d sp q
    copyUnit s c v true (lenCond s c q v.n)

/-- `cpy2d`. -/
def execCpy2d (_l : BitVec 4) (k : BitVec 3) (t b d sp : BitVec 1) (q : BitVec 2) (s : State) : Out :=
  issue s fun c =>
    let v := copyBlock c true k t b d sp q
    copyUnit s c v true (lenCond s c q v.n)

/-- Positions that a receiver mask names. -/
def maskPositions (m : Nat) : List Nat := (List.range 16).filter (fun p => bitOf m p)

/-- `cpym`. -/
def execCpym (_l : BitVec 4) (k : BitVec 3) (t b sp : BitVec 1) (q : BitVec 2) (s : State) : Out :=
  issue s fun c =>
    let m := (c.group.kread (8 * q.toNat + 6)).toNat % 65536
    let n := c.grid.launch.clusterSize
    let v := { copyBlock c false k t b 1 sp q with cpym := true, todo := maskPositions m }
    copyUnit s c v (v.todo.contains (if c.grid.launch.clustered then c.grid.launch.clpos c.team.teamid else 0))
      (lenCond s c q v.n ++ wholeCond (m == 0 || decide (m ≥ 2 ^ n)) 0x61 m n c.split.mask)

end Sys2Proof.Machine
end

