-- ==== Sys2Proof/Machine/Turn.lean ====
section
/-! DEFINITION. What a turn of the agenda does apart from executing an instruction: the outside's actions on the memory arrays (log 2),
and placing an instruction where the next step fetches it (log 12). -/

namespace Sys2Proof.Machine

open Sys2Proof

/-- Constructors of events and commands: rows of the opcode table without an encoding. -/
def isEvent (i : Instr) : Bool := wordBits i == 0

/-- An uncorrectable error marks a granule; a single-bit error is corrected and counted (07 R210). -/
def bitErrorAt (s : State) (g : Nat) (uncorrectable : Bool) : State :=
  if uncorrectable then { s with bad := setAdd s.bad g } else { s with fw := { s.fw with corrected := s.fw.corrected + 1 } }

/-- A translation leaves one cache (07 R229, R230: entries are displaced). -/
def displaceXlatAt (s : State) (core : Option Nat) (die base : Nat) : State :=
  match core with
  | some c => s.modCore c (fun k => { k with tlb := k.tlb.filter (fun x => x.base != base) })
  | none => { s with dieTlb := tabMod s.dieTlb die (fun xs => xs.filter (fun x => x.base != base)) }

/-- The pointer entries that a walk of an address of a queue meets enter a die's walk cache; invalid and malformed ones never do (07 R226,
R229). Which of them it holds, and for how long, the manual leaves to the implementation (log 2). -/
def cacheWalkAt (s : State) (die qn va : Nat) : State :=
  match tabGet s.queues qn with
  | none => s
  | some q =>
    let es := walkPointers s q.asid q.gen va walkLevels q.ptroot
    { s with dieWalk := tabPut s.dieWalk die (es ++ ((tabGet s.dieWalk die).getD []).filter (fun e =>
        es.all (fun x => !(x.asid == e.asid && x.level == e.level && x.pre == e.pre)))) }

/-- The read-only path keeps the present value of 8 aligned bytes for a grid that has been launched (03 R85). -/
def keepPastAt (s : State) (grid unit : Nat) : State :=
  match tabGet s.grids grid with
  | some g => if g.refused || g.done then s
              else { s with past := s.past ++ [{ grid := grid, unit := unit, value := s.num (8 * unit) 8, on := false }] }
  | none => s

/-- Number, and mark as served, the i-th value kept of a unit. -/
def serveNth (grid unit : Nat) (i : Option Nat) : Nat → List Past → List Past
  | _, [] => []
  | n, x :: t =>
    if x.grid = grid ∧ x.unit = unit then { x with on := i == some n } :: serveNth grid unit i (n + 1) t
    else x :: serveNth grid unit i n t

/-- The read-only path of a grid meets the i-th value that it kept of 8 aligned bytes, or, for none, what memory holds (03 R85). -/
def servePastAt (s : State) (grid unit : Nat) (i : Option Nat) : State := { s with past := serveNth grid unit i 0 s.past }

/-- The state in which a unit's body executes: its address, the address after it, its halfwords, and no prefix yet. -/
def startUnit (s : State) (w : Who) (c : Ctx) (hs : List Nat) (used : List (Xlat × Bool)) : State :=
  let s := (used.zip (List.range used.length)).foldl (fun s x =>
    let pa := x.1.1.pa (c.split.pc + BitVec.ofNat 64 (2 * x.2)).toNat
    noteXlat (if x.1.1.region = 2 then s else s.fill none pa 2 c.q.identity.toNat x.1.1.cls) (some c.core) (dieOf c.core) x.1.1 false x.1.2) s
  let s := s.modGroup c.key c.group.num (fun g =>
    { g.modSplit c.split.idx (pruneWindows s) with
      hints := g.hints.filter (fun h => h.1 != c.split.idx && h.2 != c.split.idx) })
  { s with cur := w
           unit := { addr := c.split.pc, npc := c.split.pc + BitVec.ofNat 64 (2 * hs.length), guard := none, extImm := none
                     extReg := none, halves := hs.map (BitVec.ofNat 16) } }

/-- The walks for the first halfwords at a split's program counter, whatever becomes of the unit (07 R228). -/
def noteFetch (s : State) (c : Ctx) (n : Nat) : State :=
  (List.range n).foldl (fun s j =>
    let va := c.split.pc + BitVec.ofNat 64 (2 * j)
    match translate s c.q none (some c.core) (dieOf c.core) va.toNat false with
    | (.leaf x, w) => if canonical va then noteXlat s (some c.core) (dieOf c.core) x false w else s
    | _ => s) s

/-- A unit whose fetch met a trap condition (07 R237, 02 R44). The next unit is the one after the halfwords that the unit is known to take: one
that could not be fetched at all counts as one halfword, and the body of an extension that could not be fetched as one, since its length
is not known (log 81). -/
def fetchTrap (s : State) (w : Who) (c : Ctx) (t : Cond) (ev : Option (Nat × Nat)) (known : List Nat) : State :=
  let s := { noteFetch s c (known.length + 1) with cur := w, unit := { UnitCtx.reset with addr := c.split.pc, npc := c.split.pc + BitVec.ofNat 64 (2 * wants known) } }
  let s := match ev with
    | some (va, cls) => unitAudit s c va c.split.mask.toNat 2 cls 10 0
    | none => s
  takeTrap s (unitSite s c) t

/-- A unit whose fetch met an invalid entry (04 R135, 02 R44). -/
def fetchFault (s : State) (w : Who) (c : Ctx) (f : FaultInfo) : State :=
  let s := { noteFetch s c ((f.va + 2 ^ 64 - c.split.pc.toNat) % 2 ^ 64 / 2) with cur := w, unit := { UnitCtx.reset with addr := c.split.pc, npc := c.split.pc + 2 } }
  takeFault s (unitSite s c) f

/-! ### Placing an instruction -/

/-- Physical addresses of the ten bytes at the issuing split's program counter, where all can be fetched. -/
def fetchAddrs (s : State) : Option (List Nat) :=
  match ctx? s with
  | none => none
  | some c =>
    if !ready s c then none else
    (List.range 5).foldl (fun acc j =>
      match acc, fetchHalf s c (c.split.pc + BitVec.ofNat 64 (2 * j)).toNat with
      | some l, .got _ x _ => some (l ++ [x.pa (c.split.pc + BitVec.ofNat 64 (2 * j)).toNat])
      | _, _ => none) (some [])

/-- Write the halfwords of a unit at their addresses. -/
def placeHalves (s : State) : List Nat → List Byte → State
  | a :: t, b0 :: b1 :: bs => placeHalves (s.write a [b0, b1]) t bs
  | _, _ => s

/-- A queue that a driver could have created, with rings, page tables and a grant set of its own (log 12). -/
def hostQueue : Queue :=
  { at_ := 0x10000000, fbytes := 0x1000000, frames := 0x50000000, heap := 0, ptab := 0x10001000, mblock := 0x10002000
    tring := 0x40000000, fring := 0x40010000, aring := 0x40020000, lring := 0x40030000, grant := 0x20010000, ptroot := 0x20000000
    events := 0, alost := 0, tprod := 0, fprod := 0, aprod := 0, lhead := 1, ltail := 1, dlOwner := 0, dlEn := false, policy := true
    roOk := true, irqEn := false, pmax := 15, llog := 4, alog := 4, flog := 4, tlog := 4, qstate := 1, identity := 1, asid := 0, gen := 0
    waiting := none, ignored := 0, destroy := none, grants := [(6, 1)] }

/-- The record of a grid of one team of one group (log 12). -/
def hostLaunch : Launch :=
  { entry := 0x10000, args := 0, depAddr := 0, doneAddr := 0, depSeq := 0, evCount := 0, evQueue := 0, prio := 0, ntx := 1, nty := 1
    ntz := 1, ctab := 0, curve := 0, resonly := false, clustered := false, cw := 1, ch := 1, groups := 1, spad := 4096, peak := 64
    min := 64, kfirst := 0, kn := 0, evOn := false }

/-- A group as it starts (04 R120): one split at the entry with every lane, registers as R120 gives them. -/
def Group.start (num : Nat) (entry : DWord) (k : Tab Word) : Group :=
  { num := num, v := [], k := k, p := [], h := [], ret := [], splits := [⟨entry, 0xffffffff#32, 0, [], .none, [], none⟩], tiles := []
    latch := none, lastPage := [], dirty := [], stopped := false, hints := [] }

/-- An idle chain channel (14 R426). -/
def Channel.idle : Channel :=
  { st := .idle, at_ := 0, cause := 0, stamp := none, flags := 0, cancel := false, since := 0, op := 0, fault := 0, retried := 0
    word := 0, line := 0, audited := false, ending := none, unit := 0, core := 0, group := 0, split := 0 }

/-- A team as its grid's launch makes it (16 R454, R463). -/
def Team.start (q grid teamid groups spad now : Nat) (entry : DWord) (k : Tab Word) : Team :=
  { queue := q, grid := grid, teamid := teamid, st := .ready
    groups := (List.range groups).map (fun g => (g, Group.start g entry k)), core := 0, slot := 0, spadOff := 0, spadSize := spad
    budget := 0, saves := 0, faults := 0, cause := .preempt, arrived := [], clArrived := []
    channels := [Channel.idle, Channel.idle, Channel.idle, Channel.idle], traps := [], pending := 0, resumed := false, framed := false, frame := 0
    imageTags := [], saved := false, locks := [], readySince := now, savedAt := 0, levelUp := 0, aged := 0, placedAt := 0, exempt := false, ran := 0, requests := [], own := none }

/-- What stands for the load of a program (log 12): queue 0 with page tables that map two 64 KiB pages, grid 1 of one team, and that team
RUNNING on core 0, its split at 0x10000. -/
def scaffold (s : State) : State :=
  let leaf := fun (pa : Nat) => 0xc003080000000000 + pa / 65536
  let ptr := fun (pa : Nat) => 0x8000000000000000 + pa / 256
  let s := { s with queues := [(0, hostQueue)], grids := [(1, ⟨0, hostLaunch, [], [], false, false, false, some 0, none, false⟩)]
                    teams := [(teamKey 1 0, { Team.start 0 1 0 1 4096 s.cycle 0x10000 [] with st := .resident, budget := 64 })]
                    cur := ⟨0, 0, 0⟩, nextGrid := 2 }
  let s := s.modCore 0 (fun k => { k with slots := [⟨.running, teamKey 1 0, s.cycle, false, false⟩, ⟨.empty, 0, 0, false, false⟩, ⟨.empty, 0, 0, false, false⟩], active := [0] })
  let s := s.putQueue 0 hostQueue
  let s := s.write 0x20010006 [1]
  let s := s.writeNum 0x20000000 8 (ptr 0x20001000)
  let s := s.writeNum 0x20001000 8 (ptr 0x20002000)
  let s := s.writeNum 0x20002000 8 (ptr 0x20003000)
  let s := s.writeNum 0x20003000 8 (ptr 0x20004000)
  let s := s.writeNum 0x20004000 8 (leaf 0x30000000)
  s.writeNum 0x20004008 8 (leaf 0x30010000)

end Sys2Proof.Machine
end

