-- ==== Sys2Proof/Machine/Chain.lean ====
section
/-! DEFINITION. Transfer chains (14 R422 to R428). -/

namespace Sys2Proof.Machine

open Sys2Proof

/-! ### Channels -/

/-- A team's channel. -/
def Team.channel (t : Team) (ch : Nat) : Channel := t.channels.getD ch Channel.idle

/-- Change a channel of a team. -/
def State.modChannel (s : State) (key ch : Nat) (f : Channel → Channel) : State :=
  s.modTeam key (fun t => { t with channels := listSet t.channels ch (f (t.channel ch)) })

/-- A channel is in FETCH, RUN or WAIT. -/
def Channel.busy (c : Channel) : Bool := c.st == .fetch || c.st == .run || c.st == .wait

/-! ### Transfer records (14 R422, R425) -/

/-- Fields of a record. -/
structure Rec where
  next : Nat
  src : Nat
  dst : Nat
  stamp : Nat
  seq : Nat
  rows : Nat
  len : Nat
  spitch : Nat
  dpitch : Nat
  bar : Nat
  b : Bool
  st : Bool
  ds : Bool
  ss : Bool
  own : Bool
  deriving DecidableEq, Repr

/-- A record of its 512 bits. -/
def recOf (w : Nat) : Rec :=
  { next := bitsOf w 448 64, src := bitsOf w 384 64, dst := bitsOf w 320 64, stamp := bitsOf w 256 64, seq := bitsOf w 208 48
    rows := bitsOf w 192 16, len := bitsOf w 160 32, spitch := bitsOf w 128 32, dpitch := bitsOf w 96 32, bar := bitsOf w 80 16
    b := bitOf w 7, st := bitOf w 6, ds := bitOf w 5, ss := bitOf w 4, own := bitOf w 0 }

/-- The operation that a record asks for (14 R426: as a `cpy2d`). -/
def Rec.copy (r : Rec) (ch : Nat) : Copy :=
  { cpym := false, n := r.len, rows := r.rows, spitch := r.spitch, dpitch := r.dpitch
    dst := if r.ds then r.dst % 2 ^ 32 else r.dst, dstSp := if r.ds then .spad else .mem
    src := if r.ss then r.src % 2 ^ 32 else r.src, srcSp := if r.ss then .spad else .mem
    bar := if r.b then some (16 * r.bar) else none
    stamp := if r.st then some { va := BitVec.ofNat 64 r.stamp, seq := r.seq } else none, todo := [0], owed := [], cause := 0
    denied := false, drops := 0, audited := false, fault := 0, retried := 0, buf := none, chain := some ch, unstamped := false }

/-- A record is malformed (14 R425). -/
def badRec (w : Nat) : Bool :=
  let r := recOf w
  let c := r.copy 0
  let canon := fun (g : Rng) => g.sp == .spad || rngCanonical g
  bitsOf w 64 16 != 0 || bitsOf w 8 40 != 0 || bitsOf w 1 3 != 0 ||
  r.rows == 0 || r.len == 0 || decide (r.len > 16777215) || r.next % 64 != 0 || !canonical (BitVec.ofNat 64 r.next) ||
  !canon c.srcRng || !canon c.dstRng || !canonical (BitVec.ofNat 64 r.stamp) || (r.st && r.stamp % 8 != 0)

/-- A scratchpad range or the barrier lies outside the team's allocation. -/
def recOutside (t : Team) (r : Rec) : Bool :=
  let c := r.copy 0
  let out := fun (g : Rng) => g.sp == .spad && decide (g.addr + g.n > t.spadSize)
  out c.srcRng || out c.dstRng || (r.b && decide (16 * r.bar + 16 > t.spadSize))

/-! ### Who acts for a chain -/

/-- An operation standing for the chain's `cpyc` unit, for audit events and fault records. -/
def chainOp (t : Team) (key : Nat) (c : Channel) : Op :=
  { team := key, group := c.group, split := c.split, core := c.core, queue := t.queue, grid := t.grid, unit := c.unit, npc := c.unit, lanes := 0, mask := 0
    issued := 0, halted := false, own := t.own, made := [], marked := [], body := .mwait { va := 0, target := 0, kd := 0, audited := false } }

/-- The channel waits on a fault record: source 1 (14 R414). -/
def chainFault (s : State) (key ch : Nat) (t : Team) (q : Queue) (va l e : Nat) (write : Bool) : State :=
  let c := t.channel ch
  let f : FaultInfo := { va := va, lanes := 0, level := l, entry := e, access := if write then 5 else 4, source := 1 }
  (addFault s t.queue (faultBits s t.queue q t.grid t.teamid c.core c.group c.split c.unit f) (.channel key ch)).modChannel key ch
    (fun c => { c with fault := s.nextOp })

/-! ### The end of a chain -/

/-- The channel takes the state that its chain stamp leads to. -/
def chainClose (s : State) (key ch : Nat) : State :=
  s.modChannel key ch (fun c =>
    match c.ending with
    | some .halt => { c with st := .halt, ending := none, cancel := false, stamp := none, op := 0 }
    | some _ => Channel.idle
    | none => c)

/-- Write the chain stamp, if any, and close (14 R411, R412, R426). -/
def chainStamp (s : State) (key ch : Nat) : State :=
  match tabGet s.teams key with
  | none => s
  | some t =>
    let c := t.channel ch
    match c.stamp, teamQueue s t with
    | some st, some q =>
      let w := packBits [(48, st.seq), (3, Nat.lor c.flags (c.cause != 0).toNat % 8), (1, (bitOf c.flags 3 || c.cancel).toNat), (4, c.cause), (8, 0)]
      (match stampWrite s t.qn q (dieOf c.core) c.retried st.va w (opStampAudit (chainOp t key c)) with
      | .made s => chainClose s key ch
      | .dropped s => chainClose s key ch
      | .held => s
      | .fault va l e => chainFault s key ch t q va l e true)
    | _, _ => chainClose s key ch

/-- A chain ends: in HALT with a cause, or in IDLE where it was cancelled or has no next record. -/
def chainEnd (s : State) (key ch cause : Nat) : State :=
  chainStamp (s.modChannel key ch (fun c =>
    { c with ending := some (if c.cancel || cause == 0 then .idle else .halt), cause := cause, retried := 0
             flags := if cause = 0 then c.flags else Nat.lor c.flags 1 })) key ch

/-! ### Fetch (14 R423, R426) -/

/-- The write-back of a record: own 0, rstat, the flags kept (14 R423). -/
def backWord (w rstat : Nat) : Nat := bitsOf w 1 7 * 2 + 2 ^ 48 * rstat

/-- Write a record back and end the chain with a cause; a write-back that cannot be made halts it with cause 12 (14 R412). -/
def backEnd (s : State) (key ch cause rstat : Nat) : State :=
  match tabGet s.teams key with
  | none => s
  | some t =>
    let c := t.channel ch
    match teamQueue s t with
    | none => chainEnd s key ch cause
    | some q =>
      match stampWrite s t.qn q (dieOf c.core) c.retried c.at_ (backWord c.word rstat) (opStampAudit (chainOp t key c)) with
      | .made s => chainEnd s key ch cause
      | .dropped s => chainEnd s key ch 12
      | .held => s
      | .fault va l e => chainFault s key ch t q va l e true

/-- A team's entries stand in the table of the core on which it is resident, and else in its frame (14 R426, 03 R100). -/
def tabled (s : State) (key : Nat) (t : Team) : Bool := (slotOf s key).isSome && !t.saved

/-- The entries of a record's ranges; a range given through the scratchpad window is in no core's own scratchpad while the team has none. -/
def recLocks (s : State) (key ch : Nat) (t : Team) (q : Queue) (r : Rec) : List RangeLock :=
  let v := r.copy ch
  [v.srcRng, v.dstRng].flatMap (fun g =>
    if tabled s key t || (windowPlace s q t.core g).isNone then entriesFor s q t.core key t.spadOff g s.nextOp else [])

/-- Room for a record's entries. -/
def recFits (s : State) (key : Nat) (t : Team) (ls : List RangeLock) : Bool :=
  if tabled s key t then locksFit s t.core ls.length else decide (t.locks.length + ls.length ≤ 32)

/-- Enter a record's ranges and start its operation. -/
def startRec (s : State) (key ch : Nat) (t : Team) (q : Queue) (r : Rec) : State :=
  let c := t.channel ch
  let id := s.nextOp
  let v := { r.copy ch with audited := c.audited }
  let ls := recLocks s key ch t q r
  let s := if tabled s key t then enterLocks s t.core ls else s.modTeam key (fun t => { t with locks := t.locks ++ ls })
  let s := { s.named with ops := tabPut s.ops id { chainOp t key c with core := t.core, issued := s.cycle, body := .copy v } }
  s.modChannel key ch (fun c => { c with st := .run, op := id })

/-- The 128 bytes of the line that holds a channel's record. -/
def chainLine (s : State) (q : Queue) (c : Channel) : Nat := hwNum s q (alignDown c.at_.toNat 128) 128

/-- A record that the fetch has read. -/
def fetchedRec (s : State) (key ch : Nat) (t : Team) (q : Queue) (w : Nat) : State :=
  let c := t.channel ch
  let r := recOf w
  let s := s.modChannel key ch (fun c => { c with word := w, line := chainLine s q c })
  if !r.own then
    (if c.cancel then chainEnd s key ch 0 else s.modChannel key ch (fun c => { c with st := .wait, since := s.cycle }))
  else if badRec w then backEnd s key ch 2 0x21
  else if recOutside t r then backEnd s key ch 1 0x11
  else if recFits s key t (recLocks s key ch t q r) then startRec s key ch t q r
  else s

/-- The fetch of a channel: one 64-byte read. -/
def fetchRec (s : State) (key ch : Nat) (t : Team) (q : Queue) : State :=
  let c := t.channel ch
  let die := dieOf c.core
  match copyPiece s t.qn q die false c.retried c.at_.toNat 64 with
  | .error (.fault va l e _) => chainFault s key ch t q va l e false
  | .error (.cause k) => chainEnd s key ch k
  | .error _ => s
  | .ok p =>
    match deniedClass s q p with
    | some k =>
      let va := p.va + ((List.range p.n).find? (byteDenied s q p)).getD 0
      chainEnd (opAudit s (chainOp t key c) va (deniedCount s q p) 0 k 4 0) key ch 10
    | none =>
      if (badIn s p.pa 64).isSome then chainEnd s key ch 10
      else if p.x.region = 1 && !(rawCode s t.qn q p.va 64 false).isEmpty then chainEnd s key ch 7
      else
        let s := notePieces (if p.x.region = 1 then closeRead s t.qn p.va 64 else s) q none die false [p]
        match tabGet s.teams key with
        | some t => fetchedRec s key ch t q (s.num p.pa 64)
        | none => s

/-- A chain that is ending writes its stamp again after a wait; a channel in FETCH reads its record. -/
def execChainRecordFetch (team ch : Nat) (s : State) : Out :=
  match tabGet s.teams team with
  | none => .next s
  | some t =>
    let c := t.channel ch
    if ch ≥ 4 || c.fault != 0 then .next s
    else if c.ending.isSome then .next (chainStamp s team ch)
    else match c.st, teamQueue s t with
      | .fetch, some q => .next (fetchRec s team ch t q)
      | _, _ => .next s

/-- A waiting channel reads its record again: after 4,096 cycles, or when a write has reached the record's line (14 R426): the line has changed,
or, by the implementation's choice 1, a write has left it as it was (log 45). -/
def execChainWaitTimeout (team ch : Nat) (s : State) : Out :=
  match tabGet s.teams team with
  | none => .next s
  | some t =>
    let c := t.channel ch
    match teamQueue s t with
    | none => .next s
    | some q =>
      if c.st == .wait && c.ending.isNone && (decide (s.cycle ≥ c.since + 4096) || chainLine s q c != c.line || choice s == 1) then
        .next (s.chosen.modChannel team ch (fun c => { c with st := .fetch, retried := 0 }))
      else .next s

/-! ### The end of a record (14 R426) -/

/-- After a record: the next, or the end. -/
def afterRec (s : State) (key ch cause : Nat) : State :=
  match tabGet s.teams key with
  | none => s
  | some t =>
    let c := t.channel ch
    let next := (recOf c.word).next
    if c.cancel || cause != 0 || next == 0 then chainEnd s key ch cause
    else s.modChannel key ch (fun c => { c with st := .fetch, at_ := BitVec.ofNat 64 next, op := 0, retried := 0 })

/-- A record's status bits, as in its stamp's bits [63:48]. -/
def rstatOf (c : Copy) : Nat := packBits [(1, (c.cause != 0).toNat), (1, 0), (1, c.denied.toNat), (1, 0), (4, c.cause), (8, 0)]

/-- The write-back of a record that ran, and what follows. -/
def backRec (s : State) (id key ch : Nat) (q : Queue) (o : Op) (c : Copy) : State :=
  match tabGet s.teams key with
  | none => endOp s id
  | some t =>
    let x := t.channel ch
    let noted := fun (s : State) => s.modChannel key ch (fun x => { x with flags := Nat.lor x.flags (rstatOf c % 16), audited := c.audited })
    match stampWrite s o.qn q (dieOf o.core) c.retried x.at_ (backWord x.word (rstatOf c)) (opStampAudit o) with
    | .made s => afterRec (noted (endOp s id)) key ch (if c.unstamped then 12 else c.cause)
    | .dropped s => afterRec (noted (endOp s id)) key ch 12
    | .held => s
    | .fault va l e => copyFault s id o c q va l e true

/-- The record stamp, then the write-back. A stamp that cannot be written halts the chain with cause 12; the record keeps its first cause (14 R411, R412,
R416). -/
def closeRec (s : State) (id key ch : Nat) (q : Queue) (o : Op) (c : Copy) : State :=
  match c.stamp with
  | none => backRec s id key ch q o c
  | some st =>
    match stampWrite s o.qn q (dieOf o.core) c.retried st.va (stampWord st.seq c.cause 0 c.denied false false) (opStampAudit o) with
    | .made s => let c := { c with stamp := none }; backRec (s.putOp id { o with body := .copy c }) id key ch q o c
    | .dropped s => let c := { c.fail 12 with stamp := none, unstamped := true }; backRec (s.putOp id { o with body := .copy c }) id key ch q o c
    | .held => s
    | .fault va l e => copyFault s id o c q va l e true

/-- A record ends: what is left of its transfer and its counts, its entries, its stamp, its write-back. -/
def execChainRecordComplete (team ch : Nat) (s : State) : Out :=
  match tabGet s.teams team with
  | none => .next s
  | some t =>
    let x := t.channel ch
    if ch ≥ 4 || x.st != .run || x.fault != 0 then .next s
    else if x.ending.isSome then .next (chainStamp s team ch)
    else match copyOf s x.op, teamQueue s t with
      | some (o, c), some q =>
        if c.fault != 0 then .next s else
        let s := countRest (if c.todo.isEmpty then s else deliverSingle s x.op o c q) x.op
        (match copyOf s x.op with
        | some (o, c) =>
          if c.fault != 0 || !c.todo.isEmpty || !c.owed.isEmpty then .next s
          else .next (closeRec (releaseLocks s x.op (fun _ => true)) x.op team ch q o c)
        | none => .next s)
      | _, _ => .next s

/-! ### cpyc, cpyst, cpyx (14 R424, R427, R428) -/

/-- `cpyc`. -/
def execCpyc (_l : BitVec 4) (k : BitVec 3) (t : BitVec 1) (a : BitVec 4) (ch : BitVec 2) (s : State) : Out :=
  issue s fun c =>
    let m := c.split.mask
    let head := c.group.kpair (2 * a.toNat)
    let st := stampBlock c t k
    let x := c.team.channel ch.toNat
    match lowest (wholeCond (!canonical head) 0x11 head.toNat m.toNat m ++ stampConds c st ++
        wholeCond x.busy 0x62 ch.toNat x.at_.toNat m ++ wholeCond (head.toNat % 64 != 0) 0x63 head.toNat ch.toNat m) with
    | some t => takeTrap s (unitSite s c) t
    | none =>
      if engineWaits s c || decide (chainsOf s c.core ≥ 4) || decide (copiesOf s c.core + chainsOf s c.core ≥ 32) then s else
      let unit := s.unit.addr
      finish ((releaseWrites s c).modChannel c.key ch.toNat (fun _ =>
        { Channel.idle with st := .fetch, at_ := head, stamp := st, unit := unit, core := c.core, group := c.group.num, split := c.split.idx })) c {}

/-- The value that `cpyst` reads (14 R427). -/
def channelWord (x : Channel) : Nat :=
  match x.st with
  | .idle => 0
  | .fetch | .run => alignDown x.at_.toNat 64 + 1
  | .wait => alignDown x.at_.toNat 64 + 2
  | .halt => alignDown x.at_.toNat 64 + 4 * (x.cause % 16) + 3

/-- `cpyst`. -/
def execCpyst (_l d : BitVec 4) (ch : BitVec 2) (s : State) : Out :=
  issue s fun c =>
    let w := channelWord (c.team.channel ch.toNat)
    unit s c { k := [(2 * d.toNat, BitVec.ofNat 32 w), (2 * d.toNat + 1, BitVec.ofNat 32 (w / 2 ^ 32))] }

/-- Cancel a channel's chain, as `cpyx` and the end of its team do (14 R426). -/
def cancelChain (s : State) (key ch : Nat) (unit : Bool) : State :=
  match tabGet s.teams key with
  | none => s
  | some t =>
    match (t.channel ch).st with
    | .idle => s
    | .halt => if unit then s.modChannel key ch (fun _ => Channel.idle) else s
    | .wait =>
      if (t.channel ch).ending.isSome then s else chainEnd (s.modChannel key ch (fun c => { c with cancel := true })) key ch 0
    | .fetch | .run => s.modChannel key ch (fun c => { c with cancel := true, ending := c.ending.map (fun _ => .idle) })

/-- `cpyx`. -/
def execCpyx (_l : BitVec 4) (ch : BitVec 2) (s : State) : Out :=
  issue s fun c => finish (cancelChain s c.key ch.toNat true) c {}

end Sys2Proof.Machine
end

