-- ==== Sys2Proof/Machine/Link.lean ====
section
/-! DEFINITION. The link engine: `lld`, `lgat`, `lwr`, `lred`, `mxr`, accesses through the peer window, flits, and peers' requests
(15 R430 to R445). -/

namespace Sys2Proof.Machine

open Sys2Proof

/-! ### Operations -/

/-- A slot that is not bound (15 R430). -/
def unboundCond (s : State) (c : Ctx) (slot : Nat) : List Cond :=
  wholeCond (peerSlot s c.q slot).isNone 0x73 slot c.team.queue c.split.mask

/-- The link operation of a name. -/
def linkOf (s : State) (id : Nat) : Option (Op × Link) :=
  match tabGet s.ops id with
  | some o => match o.body with | .link l => some (o, l) | _ => none
  | none => none

/-- Its record changes. -/
def State.putLink (s : State) (id : Nat) (o : Op) (l : Link) : State := s.putOp id { o with body := .link l }

/-- Put a link operation in flight that cannot trap any more; its unit has ended. Nothing leaves before the earlier accesses of the group are
performed (03 R95). -/
def issueLink (s : State) (c : Ctx) (look : Nat) (l : Link) : State := beginOp (finish s c {}) c c.split.mask look (.link l)

/-- A link operation waits on a fault record of its local range: source 3 (07 R241). -/
def linkFault (s : State) (id : Nat) (o : Op) (l : Link) (q : Queue) (va level e : Nat) (write : Bool) : State :=
  let f : FaultInfo := { va := va, lanes := 0, level := level, entry := e, access := if write then 5 else 4, source := 3 }
  (addFault s o.queue (faultBits s o.queue q o.grid (o.team % 2 ^ 32) o.core o.group o.split o.unit f) (.op id)).putLink id o
    { l with fault := s.nextOp }

/-! ### lld (15 R437) -/

/-- Conditions on the lanes' remote addresses. -/
def remoteConds (c : Ctx) (ea : Nat → Nat) (al : Nat) : List Cond :=
  let m := c.split.mask
  let bad := maskOf (fun l => m.getLsbD l && !canonical (BitVec.ofNat 64 (ea l)))
  let off := maskOf (fun l => m.getLsbD l && ea l % al != 0)
  laneCond 0x11 bad ea (fun _ => bad.toNat) ++ laneCond 0x20 off ea (fun _ => off.toNat)

/-- `lld`. -/
def execLld (l : BitVec 4) (d : BitVec 6) (a : BitVec 5) (p : BitVec 4) (z : BitVec 2) (s : State) : Out :=
  issue s fun c =>
    let n := sizeOf z
    let m := c.split.mask
    let ea := pairEa c.group a
    let e : Eff := { v := loadWrites d.toNat n m (fun _ => 0) }
    if replayFull s c then s else
    match lowest (peakCond c e ++ remoteConds c ea n ++ unboundCond s c p.toNat), peerSlot s c.q p.toNat with
    | some t, _ => takeTrap s (unitSite s c) t
    | none, none => s
    | none, some (_, dev, rq) =>
      if engineWaits s c then s else if !poolOk c e then askRegs s c else
      let (s, rs) := sendReqs (releaseWrites s c) c.q c.team.queue dev rq p.toNat kindFetch [] ((lanesOf m).map (fun x => (x, ea x, ea x, n, [])))
      beginLoad s c e m l.toNat (.link { Link.of .lld rs with peer := p.toNat, size := n, vd := d.toNat })

/-! ### lgat (15 R438) -/

/-- The hull of the active lanes' rows. -/
def gatherHull (m : BitVec 32) (dst len : Nat) : Nat × Nat :=
  let lo := lowLane m
  let hi := (lanesOf m).foldl Nat.max lo
  (dst + len * lo, len * (hi + 1 - lo))

/-- The destination of a gather, as a range that is written. -/
def gatherRng (m : BitVec 32) (dst len : Nat) : Rng := { sp := .spad, addr := (gatherHull m dst len).1, n := (gatherHull m dst len).2, write := true }

/-- `lgat`. -/
def execLgat (l : BitVec 4) (d : BitVec 3) (a : BitVec 5) (p : BitVec 4) (q : BitVec 2) (n : BitVec 1) (s : State) : Out :=
  issue s fun c =>
    let m := c.split.mask
    let ea := pairEa c.group a
    let dst := (c.group.kread (8 * q.toNat)).toNat
    let len := (c.group.kread (8 * q.toNat + 1)).toNat
    let rng := gatherRng m dst len
    let badLen := len % 4 != 0 || decide (len < 4) || decide (len > 2048)
    if replayFull s c then s else
    match lowest (remoteConds c ea 4 ++ rngConds s c false rng ++ unboundCond s c p.toNat ++
        wholeCond (badLen || dst % 4 != 0) 0x74 (if badLen then len else dst) s.unit.addr.toNat m), peerSlot s c.q p.toNat with
    | some t, _ => takeTrap s (unitSite s c) t
    | none, none => s
    | none, some (_, dev, rq) =>
      if engineWaits s c || !locksFor s c [rng] then s else
      let (s, rs) := sendReqs (releaseWrites s c) c.q c.team.queue dev rq p.toNat kindFetch [] ((lanesOf m).map (fun x => (x, ea x, ea x, len, [])))
      let s := enterLocks s c.core (rngLocks s c [rng] s.nextOp)
      issueLink s c l.toNat { Link.of .lgat rs with peer := p.toNat, size := len, pd := d.toNat, nt := n == 1, dst := dst, len := len }

/-! ### lwr and lred (15 R439) -/

/-- The remote range, as an address range of the remote queue. -/
def Link.srcRng (l : Link) : Rng := { sp := l.srcSp, addr := l.src, n := l.len, write := false }

/-- Parts of a range that are sent as one request each: cut where source pages end, and at 4 KiB of the remote address (log 14). -/
def sendParts (sp : Space) (src dst n : Nat) : List (Nat × Nat) :=
  (cutsOf sp src n).flatMap (fun p =>
    let a := dst + p.1
    (List.range ((a + p.2 - 1) / 4096 - a / 4096 + 1)).map (fun i =>
      let lo := Nat.max a ((a / 4096 + i) * 4096)
      let hi := Nat.min (a + p.2) ((a / 4096 + i + 1) * 4096)
      (p.1 + (lo - a), hi - lo)))

/-- The cause of a local condition in a link operation's stamp: those of R439, read for the local side (log 15). -/
def localCause (k : Nat) : Nat :=
  match k with
  | 3 => 2 | 11 => 2 | 4 => 3 | 5 => 4 | _ => 5

/-- A local read of a link operation: what has been read, and the first cause. -/
structure Sending where
  mv : Move
  parts : List (Nat × Nat × Runs × List Byte)
  cause : Nat

/-- Neighbouring runs of one class are one run. -/
def joinRuns : Runs → Runs
  | a :: b :: t =>
    match joinRuns (b :: t) with
    | [] => [a]
    | c :: u => if a.2 = c.2 then (a.1 + c.1, a.2) :: u else a :: c :: u
  | rs => rs

/-- The classes that the lines of a piece carry, in order (07 R236, 15 R432); `bar` tells which bytes are denied. -/
def pieceRuns (s : State) (p : Piece) (bar : Nat → Bool) : Runs :=
  joinRuns ((linesOf p.pa p.n).map (fun l =>
    let lo := Nat.max p.pa (128 * l)
    (Nat.min (p.pa + p.n) (128 * l + 128) - lo, if bar (lo - p.pa) then none else some (BitVec.ofNat 16 (carried s lo p.x.cls)))))

/-- Read the local source in parts: denied bytes are zeros; a part that cannot be read is left out, and the others go on. -/
def readLocal (o : Op) (l : Link) (q : Queue) (s : State) (ps : List (Nat × Nat)) : Sending :=
  ps.foldl (fun (a : Sending) p =>
    if a.mv.stop ≠ .none then a else
    let (m, bs) := match l.srcSp with
      | .mem => copyRead a.mv o.qn q (dieOf o.core) l.retried (l.src + p.1) p.2
      | .spad => spadRead a.mv (spadHome a.mv.st o.team) (l.src + p.1) p.2
    let runs := match l.srcSp with
      | .mem => match copyPiece m.st o.qn q (dieOf o.core) false 0 (l.src + p.1) p.2 with | .ok x => pieceRuns m.st x (fun _ => false) | .error _ => []
      | .spad => []
    match m.stop with
    | .none => { a with mv := m, parts := a.parts ++ [(p.1, p.2, runs, bs)] }
    | .cause k => { a with mv := { m with stop := .none }, cause := if a.cause = 0 then localCause k else a.cause }
    | _ => { a with mv := m }) { mv := { st := s }, parts := [], cause := 0 }

/-- The event of denied source bytes: one per operation, path 9, kind read (15 R431). -/
def outAudit (s : State) (o : Op) (l : Link) (den : Option (Nat × Nat × Nat)) : State × Link :=
  match den with
  | some (va, n, k) => ((if l.audited then s else opAudit s o va n 0 k 9 0), { l with denied := true, audited := true })
  | none => (s, l)

/-- Send what was read, one request for each part. -/
def sendData (s : State) (q : Queue) (o : Op) (l : Link) (dev rq kind : Nat) : List (Nat × Nat × Runs × List Byte) → State × List LinkReq
  | [] => (s, [])
  | (off, n, runs, bs) :: t =>
    let (s, r) := sendReqs s q o.queue dev rq l.peer kind runs [(0, l.src + off, (l.dst + off) % 2 ^ 64, n, bs)]
    let (s, rs) := sendData s q o l dev rq kind t
    (s, r ++ rs)

/-- Name the requests of an operation by their order. -/
def numbered (rs : List LinkReq) : List LinkReq := (rs.zip (List.range rs.length)).map (fun x => { x.1 with lane := x.2 })

/-- The data of `lwr` or `lred` leaves, and the source's entry is released (15 R440). -/
def beginSend (s : State) (id : Nat) (o : Op) (l : Link) (q : Queue) : State :=
  let x := readLocal o l q s (sendParts l.srcSp l.src l.dst l.len)
  match x.mv.stop with
  | .fault va lv e w => linkFault s id o l q va lv e w
  | .none =>
    let (s, l) := outAudit x.mv.st o l x.mv.den
    match peerSlot s q l.peer with
    | some (_, dev, rq) =>
      let (s, rs) := sendData s q o l dev rq (if l.form = .lred then kindUpdate l.ty else kindStore) x.parts
      (releaseLocks s id (fun _ => true)).putLink id o { l with begun := true, reqs := numbered rs, cause := x.cause }
    | none => (releaseLocks s id (fun _ => true)).putLink id o { l with begun := true, cause := 1 }
  | _ => s

/-- The issue of `lwr` and `lred`; `red` asks that everything be a multiple of 4. -/
def sendUnit (s : State) (c : Ctx) (look : Nat) (red : Bool) (v : Link) (q : BitVec 2) : State :=
  let m := c.split.mask
  let w := (c.group.kread (8 * q.toNat + 4)).toNat
  let far : Rng := { sp := .mem, addr := v.dst, n := w, write := false }
  let conds := boundConds s c v.srcRng ++ boundConds s c far ++ stampConds c v.stamp ++ unboundCond s c v.peer ++
    wholeCond (red && v.dst % 4 != 0) 0x20 v.dst m.toNat m ++ wholeCond (red && v.src % 4 != 0) 0x20 v.src m.toNat m ++
    wholeCond (w == 0 || decide (w > 16777215) || (red && w % 4 != 0)) 0x74 w s.unit.addr.toNat m
  match lowest conds with
  | some t => takeTrap s (unitSite s c) t
  | none =>
    if engineWaits s c || !locksFor s c [v.srcRng] then s else
    let s := enterLocks (releaseWrites s c) c.core (rngLocks s c [v.srcRng] s.nextOp)
    let id := s.nextOp
    let s := issueLink s c look v
    match linkOf s id with
    | some (o, l) => beginSend s id o l c.q
    | none => s

/-- The operand block of `lwr` and `lred`. -/
def sendBlock (c : Ctx) (form : LinkForm) (p : BitVec 4) (q : BitVec 2) (sp t r : BitVec 1) (k : BitVec 3) (ty : Nat) : Link :=
  let kq := 8 * q.toNat
  let space := if sp = 1 then Space.spad else Space.mem
  { Link.of form [] with
    peer := p.toNat, begun := false, dst := (c.group.kpair kq).toNat, src := operandAddr c.group space (kq + 2), srcSp := space
    len := (c.group.kread (kq + 4)).toNat, ty := ty, rs := r == 1, stamp := stampBlock c t k }

/-- `lwr`. -/
def execLwr (l : BitVec 4) (p : BitVec 4) (q : BitVec 2) (sp t r : BitVec 1) (k : BitVec 3) (s : State) : Out :=
  issue s fun c => sendUnit s c l.toNat false (sendBlock c .lwr p q sp t r k 0) q

/-- `lred`. -/
def execLred (l : BitVec 4) (p : BitVec 4) (q : BitVec 2) (sp t r : BitVec 1) (k : BitVec 3) (y : BitVec 2) (s : State) : Out :=
  issue s fun c => sendUnit s c l.toNat true (sendBlock c .lred p q sp t r k y.toNat) q

/-! ### mxr (15 R442 to R444) -/

/-- A collective descriptor. -/
structure Coll where
  cid : Nat
  nr : Nat
  me : Nat
  rtab : Nat
  tmo : Nat
  res : Bool
  deriving DecidableEq, Repr

def collOf (w : Nat) : Coll :=
  { cid := bitsOf w 480 32, nr := bitsOf w 472 8, me := bitsOf w 464 8, rtab := bitsOf w 384 64, tmo := bitsOf w 352 32
    res := bitsOf w 448 16 != 0 || bitsOf w 0 352 != 0 }

/-- A rank's entry: device and queue. -/
def rankAt (s : State) (q : Queue) (c : Coll) (r : Nat) : Nat := hwNum s q (c.rtab + 4 * r) 4

/-- A descriptor or its own rank's entry is malformed. -/
def badColl (s : State) (q : Queue) (qn : Nat) (at_ : Nat) (c : Coll) : Bool :=
  at_ % 64 != 0 || c.res || decide (c.me > c.nr) || c.rtab % 8 != 0 || !canonical (BitVec.ofNat 64 c.rtab) || c.tmo == 0 ||
  (List.range (c.nr + 1)).any (fun r => bitsOf (rankAt s q c r) 12 4 != 0) ||
  rankAt s q c c.me != qn + 65536 * (Config.device % 65536)

/-- log2 of q(fmt) (15 R443). -/
def quantumExp (f : QFmt) : Int :=
  match f with
  | .mxe4m3 => -9
  | .mxe5m2 => -16
  | .mxe3m2 => -4
  | .mxe2m3 => -3
  | .mxe2m1 => -1
  | _ => -6

/-- A value in units of 2^c, for a value that is a multiple of it. -/
def inUnits (c : Int) (x : Num) : Int :=
  match x with
  | .fin neg m e => numAt neg m e c
  | _ => 0

/-- A value is NaN or infinite. -/
def notFinite (x : Num) : Bool :=
  match x with
  | .fin _ _ _ => false
  | _ => true

/-- One block of the exact sum (15 R443): each rank's scale byte and decoded elements. -/
def mxrBlock (f : QFmt) (ranks : List (Nat × List Num)) : Nat × List Nat :=
  if ranks.any (fun r => r.1 == 255 || r.2.any notFinite) then (255, List.replicate 32 0)
  else
    let x : Int := (ranks.map (fun r => (r.1 : Int) - 127)).foldl max (-127)
    let n := fun (v : Num) => inUnits (quantumExp f) (f.decode (f.quant (shiftNum v (-x))))
    let sums := (List.range 32).map (fun i => (ranks.map (fun r => n (r.2.getD i (.fin false 0 0)))).foldl (· + ·) 0)
    mxBlock f (sums.map (fun k => numOfInt k (quantumExp f + x) false))

/-- The result run of `nb` blocks. -/
def mxrRun (f : QFmt) (nb : Nat) (runs : List (List Byte)) : List Byte :=
  let bs := (List.range nb).map (fun j => mxrBlock f (runs.map (fun r =>
    ((r.getD (f.blockBytes * nb + j) 0).toNat, ((runValues f nb r).drop (32 * j)).take 32))))
  (bs.flatMap fun b => packElems f.bits b.2) ++ bs.map fun b => BitVec.ofNat 8 b.1

/-- What a rank tells the others before its run: cid, nr, n − 1 and fmt (log 14). -/
def collHead (c : Coll) (f : QFmt) (nb : Nat) : List Byte :=
  bytesOf 4 c.cid ++ bytesOf 1 c.nr ++ bytesOf 2 (nb - 1) ++ bytesOf 1 (quantumExp f).natAbs

/-- Requests to the other ranks, which carry this rank's contribution: its parameters, which have no class, and its run. -/
def rankReqs (s : State) (q : Queue) (qn : Nat) (c : Coll) (data : List Byte) (runs : Runs) : List Nat → State × List LinkReq
  | [] => (s, [])
  | r :: t =>
    let e := rankAt s q c r
    let (s, a) := sendReqs s q qn (e / 65536) (e % 4096) 0 kindReduce runs [(r, 0, 0, data.length, data)]
    let (s, b) := rankReqs s q qn c data runs t
    (s, a ++ b)

/-- The collective identifier that a contribution names. -/
def Contribution.cid (x : Contribution) : Nat := natOfBytes (x.bytes.take 4)

/-- A rank's contributions to an operation's queue that have come. -/
def fromRank (s : State) (o : Op) (r : LinkReq) : List Contribution :=
  s.inbox.filter (fun x => !x.void && x.queue == o.qn && x.dev == r.dev && x.rank == r.rq)

/-- What a rank has contributed with the operation's collective identifier: the first that no earlier operation has taken. -/
def contribution (s : State) (o : Op) (l : Link) (r : LinkReq) : Option Contribution := (fromRank s o r).find? (fun x => x.cid == (collOf l.desc).cid)

/-- Every rank's contribution, where all are there. -/
def contributions (s : State) (o : Op) (l : Link) : Option (List Contribution) := l.reqs.mapM (contribution s o l)

/-- A rank has contributed under another identifier, which no other `mxr` of the queue has: when the operation times out that is a mismatch (15 R444), and
until then it may be for an operation that the queue has yet to issue (log 14). -/
def strayOf (s : State) (id : Nat) (o : Op) (l : Link) (r : LinkReq) : Option Contribution :=
  if (contribution s o l r).isSome then none else
  let others := s.ops.filterMap (fun p => match p.2.body with
    | .link k => if p.1 != id && p.2.qn == o.qn && k.form == .mxr then some (collOf k.desc).cid else none
    | _ => none)
  (fromRank s o r).find? (fun x => !others.contains x.cid)

/-- An operation that ends without a sum gives up what the ranks contribute to it: what has come leaves the inbox, and what has not is dropped when it
comes, so that no later operation of the same identifier takes it (15 R444). -/
def dropContributions (s : State) (id : Nat) (o : Op) (l : Link) : State :=
  { s with inbox := l.reqs.foldl (fun xs r =>
      match (contribution s o l r).or (strayOf s id o l r) with
      | some x => xs.erase x
      | none => xs ++ [{ queue := o.qn, dev := r.dev, rank := r.rq, port := 0, runs := [], bytes := bytesOf 4 (collOf l.desc).cid, void := true }]) s.inbox }

/-- The other ranks of an operation that has sent them nothing, as its requests would name them. -/
def mxrRanks (s : State) (q : Queue) (l : Link) : List LinkReq :=
  let c := collOf l.desc
  ((List.range (c.nr + 1)).filter (fun r => r != c.me)).map (fun r =>
    { LinkReq.near r 0 0 0 [] with dev := rankAt s q c r / 65536, rq := rankAt s q c r % 4096 })

/-- The own run is read and sent to the other ranks. -/
def beginReduce (s : State) (id : Nat) (o : Op) (l : Link) (q : Queue) : State :=
  let x := readLocal o l q s (cutsOf .mem l.src l.len)
  match x.mv.stop with
  | .fault va lv e w => linkFault s id o l q va lv e w
  | .none =>
    let (s, l) := outAudit x.mv.st o l x.mv.den
    let s := releaseLocks s id (fun k => !k.write)
    let run := x.parts.flatMap (fun p => p.2.2.2)
    let c := collOf l.desc
    if x.cause ≠ 0 then (dropContributions s id o { l with reqs := mxrRanks s q l }).putLink id o { l with begun := true, cause := x.cause }
    else
      let (s, rs) := rankReqs s q o.queue c (collHead c l.fmt l.nb ++ run) ((8, none) :: x.parts.flatMap (fun p => p.2.2.1)) ((List.range (c.nr + 1)).filter (fun r => r != c.me))
      s.putLink id o { l with begun := true, reqs := rs, run := run }
  | _ => s

/-- What the core meets as it reads the descriptor and its rank's entry. -/
def collReads (s : State) (c : Ctx) (at_ : Nat) : List Look :=
  let look := fun (va n : Nat) => lookAt s c .load none false (lowLane c.split.mask) va n 1
  let d := look at_ 64
  let w := match d.piece with | some p => natOfBytes (readPiece s c.q p) | none => 0
  if d.traps.isEmpty && d.piece.isSome && canonical (BitVec.ofNat 64 (collOf w).rtab) then
    d :: (List.range ((collOf w).nr + 1)).map (fun r => look (((collOf w).rtab + 4 * r) % 2 ^ 64) 4)
  else [d]

/-- `mxr`. -/
def execMxr (l : BitVec 4) (f : BitVec 3) (q : BitVec 2) (t : BitVec 1) (k : BitVec 3) (s : State) : Out :=
  issue s fun c =>
    let m := c.split.mask
    let kq := 8 * q.toNat
    let fmt := (mxfmtOf f.toNat).getD .mxe4m3
    let nb := (c.group.kread (kq + 6)).toNat % 4096 + 1
    let desc := (c.group.kpair kq).toNat
    let st := stampBlock c t k
    let v : Link := { Link.of .mxr [] with
      begun := false, src := (c.group.kpair (kq + 2)).toNat, dst := (c.group.kpair (kq + 4)).toNat, len := (fmt.blockBytes + 1) * nb
      fmt := fmt, nb := nb, stamp := st }
    let looks := collReads s c desc
    let dst : Rng := { sp := .mem, addr := v.dst, n := v.len, write := true }
    let sound := looks.all (fun x => x.traps.isEmpty && x.fault.isNone)
    let word := match (looks.head?).bind (·.piece) with | some p => natOfBytes (readPiece s c.q p) | none => 0
    let conds := condsOf (some m) (looks.flatMap (·.traps)) ++ rngConds s c false v.srcRng ++ rngConds s c false dst ++ stampConds c st ++
      wholeCond (v.src % 4 != 0) 0x20 v.src m.toNat m ++ wholeCond (v.dst % 4 != 0) 0x20 v.dst m.toNat m ++
      wholeCond (sound && (badColl s c.q c.team.queue desc (collOf word) || looks.any (fun x => x.denied.isSome))) 0x75 desc (collOf word).me m
    match lowest conds with
    | some t => takeTrap (if t.code = 0x75 then denialEvent s c (some m) 9 0 looks else s) (unitSite s c) t
    | none =>
      match faultOf (some m) .load looks with
      | some f => takeFault s (unitSite s c) f
      | none =>
        if engineWaits s c || !locksFor s c [v.srcRng, dst] || mustWait s c .load looks then s else
        let s := noteLooks (settle (releaseWrites s c) c looks) c false false looks
        let s := enterLocks s c.core (rngLocks s c [v.srcRng, dst] s.nextOp)
        let id := s.nextOp
        let s := issueLink s c l.toNat { v with desc := word, until_ := s.cycle + 1024 * (collOf word).tmo }
        match linkOf s id with
        | some (o, x) => beginReduce s id o x c.q
        | none => s

/-! ### Outcomes of lanes (15 R437, R438) -/

/-- Requests with an outcome. -/
def LinkReq.is (r : LinkReq) (x : Remote) : Bool := r.done == some x

/-- The bytes that a request delivers: zeros where it was denied or did not arrive. -/
def LinkReq.bytes (r : LinkReq) : List Byte :=
  match r.done with
  | some (.arrived bs _) => bs
  | _ => List.replicate r.n 0

/-- A request serves a lane. -/
def LinkReq.serves (r : LinkReq) (l : Nat) : Bool := r.lane == l || r.also.contains l

/-- The target queue of a unit, where it is permitted (16 R466). -/
def targetOf (c : Ctx) (b : BitVec 5) : Nat := (c.group.kread b.toNat).toNat % 4096
def permitted (s : State) (c : Ctx) (t : Nat) : Bool :=
  match tabGet s.queues t with
  | some q => q.qstate != 0 && (t == c.team.queue || (q.dlEn && q.dlOwner == c.team.queue))
  | none => false
def targetCond (s : State) (c : Ctx) (t : Nat) : List Cond := wholeCond (!permitted s c t) 0x7b t c.team.queue c.split.mask

/-- Append a record to a ring, or say why not: the state and the value of kd (16 R467). A stopping target whose ring is full gives 2 (log 100). -/
def appendRecord (s : State) (t : Nat) (bs : List Byte) : State × Word :=
  match tabGet s.queues t with
  | none => (s, 0)
  | some q =>
    if q.qstate = 2 then (s, 2)
    else if (q.ltail + 2 ^ 32 - q.lhead) % 2 ^ 32 == 2 ^ q.llog then (s, 1)
    else ((s.write (q.lring + 64 * (q.ltail % 2 ^ q.llog)) bs).putQueue t { q with ltail := (q.ltail + 1) % 2 ^ 32 }, 0)

/-- A `dlaunch` whose record lies in a peer's window. -/
def launchOp (d t : Nat) (looks : List Look) (reqs : List LinkReq) : OpBody :=
  .link { Link.of .windowLaunch reqs with shape := 1, size := 64, vd := d, dst := t, lanes := looks.map (fun k => (k.lane, k.va, [])) }

/-- The lanes of requests that a test picks. -/
def reqLanes (whole : Option (BitVec 32)) (rs : List LinkReq) : BitVec 32 :=
  if rs.isEmpty then 0 else whole.getD (maskOf (fun l => rs.any (fun r => r.serves l)))

/-- One condition of requests with an outcome; `d0` of the first of them. -/
def reqCond (whole : Option (BitVec 32)) (rs : List LinkReq) (code : Nat) (d0 : LinkReq → Nat) (d1 : Option Nat) : List Cond :=
  match rs with
  | [] => []
  | r :: _ =>
    let m := reqLanes whole rs
    [{ code := code, d0 := d0 r, d1 := d1.getD m.toNat, lanes := m }]

/-- Traps of an access whose lanes have their outcomes: 0x70, 0x71, 0x72, and for stores the remote's denial 0x21 and its refusal 0x22, of
which `w` stands for the second detail word, which the peer does not tell (log 15). -/
def outcomeConds (whole : Option (BitVec 32)) (store : Bool) (w : DWord) (rs : List LinkReq) : List Cond :=
  reqCond whole (rs.filter (fun r => r.is .failed)) 0x70 LinkReq.slot none ++
  reqCond whole (rs.filter (fun r => r.is .unmapped || (!store && r.is .refused))) 0x71 (fun r => r.va.toNat) none ++
  reqCond whole (rs.filter (fun r => r.is .uncorrectable)) 0x72 (fun r => r.va.toNat) none ++
  (if store then reqCond whole (rs.filter (fun r => r.is .denied)) 0x21 LinkReq.at_ (some w.toNat) ++
    reqCond whole (rs.filter (fun r => r.is .refused)) 0x22 LinkReq.at_ (some w.toNat) else [])

/-- The event of bytes that the local grant set denied on arrival: one per operation (15 R431). -/
def inAudit (s : State) (o : Op) (whole : Option (BitVec 32)) (rs : List LinkReq) : State :=
  match rs.filter (fun r => r.denied.isSome) with
  | [] => s
  | r :: t =>
    let ds := (r :: t).filterMap (·.denied)
    opAuditL s o r.va.toNat (reqLanes whole (r :: t)).toNat ((ds.map (·.2)).foldl (· + ·) 0) r.port ((ds.map (·.1)).min?.getD 0) 8 0

/-- A link unit traps: it may execute again, when its requests are sent anew (04 R138). -/
def linkTrap (s : State) (id : Nat) (o : Op) (l : Link) (t : Cond) : State :=
  takeTrap (s.putLink id o { l with begun := false }) (opSite s id o) t

/-- A form that acts once for its lanes. -/
def linkWhole (o : Op) (l : Link) : Option (BitVec 32) :=
  if l.form == .windowWait || l.form == .windowLaunch || (l.form == .windowLoad && l.shape != 0) then some o.lanes else none

/-- A lane's number from its request. -/
def reqNum (rs : List LinkReq) (lane : Nat) : Nat :=
  match rs.find? (fun r => r.serves lane) with
  | some r => natOfBytes r.bytes
  | none => 0

/-- The registers that a completed load writes (15 R434, R437). -/
def linkEff (o : Op) (l : Link) : Eff :=
  match l.form with
  | .lld => { v := loadWrites l.vd l.size o.lanes (reqNum l.reqs) }
  | .windowLoad =>
    if l.shape = 0 then { v := loadWrites l.vd l.size o.lanes (fun x => extendTo l.size l.sx (reqNum l.reqs x)) }
    else if l.shape = 1 then
      let v := natOfBytes (l.reqs.flatMap LinkReq.bytes)
      { k := (List.range (l.size / 4)).map (fun j => (l.vd + j, BitVec.ofNat 32 (v / 2 ^ (32 * j)))) }
    else
      { v := (List.range (l.size / 128)).map (fun j => (l.vd + j, 0xffffffff#32, fun lane =>
          BitVec.ofNat 32 (reqNum l.reqs j / 2 ^ (32 * lane)))) }
  | _ => {}

/-- Rows of a gather, and the predicate (15 R438). -/
def gatherRows (s : State) (o : Op) (l : Link) (t : Team) : State :=
  let ok := fun (r : LinkReq) => match r.done with | some (.arrived _ _) => true | some .denied => true | _ => false
  let s := l.reqs.foldl (fun s r =>
    let a := l.dst + l.len * r.lane
    if (teamTag s t a l.len).isSome then s else s.write (t.spadAt a) r.bytes) s
  opWrites s o { p := [(l.pd, o.lanes, maskOf (fun x => l.reqs.any (fun r => r.lane == x && ok r)))] }

/-- A gather completes. -/
def gatherDone (s : State) (id : Nat) (o : Op) (l : Link) (c : Ctx) : State :=
  let s := inAudit (gatherRows s o l c.team) o none l.reqs
  match reqCond none (l.reqs.filter (fun r => r.is .failed)) 0x70 (fun _ => l.peer) none with
  | t :: _ => if l.nt then endOp s id else linkTrap (releaseLocks s id (fun _ => true)) id o l t
  | [] => endOp s id

/-- A reference load through the peer window: what arrived goes through the barrier (13 R385). -/
def refDone (s : State) (id : Nat) (o : Op) (l : Link) (c : Ctx) : State :=
  let x := fun lane => BitVec.ofNat 64 (reqNum l.reqs lane) &&& ~~~(0x2000000000000000#64)
  let looks := (lanesOf o.lanes).map (fun lane => resLook lane (resolveFor s c (x lane)))
  match lowest (condsOf none (looks.flatMap (·.traps))) with
  | some t => linkTrap s id o l t
  | none =>
    match faultOf none .load looks with
    | some f => takeFault (s.putLink id o { l with begun := false }) (opSite s id o) f
    | none =>
      endOp (opWrites (inAudit s o none l.reqs) o { h := [(l.vd, o.lanes, fun lane => healedOf (x lane) (resolveFor s c (x lane)))] }) id

/-- An `mwait` that reads through a peer window as it stands between two reads: it waits as any other, and reads again. -/
def Link.asWait (l : Link) (audited : Bool) : OpBody :=
  .mwait { va := BitVec.ofNat 64 ((l.reqs.head?.map (·.at_)).getD 0), target := l.dst, kd := l.vd, audited := audited }

/-- One event tells of the bytes denied to an `mwait` (06 R190). -/
def waitAudit (s : State) (o : Op) (l : Link) : State := if l.audited then s else inAudit s o (linkWhole o l) l.reqs

/-- The word that an `mwait` asked a peer for has come: it returns, or waits on (06 R188). -/
def waitDone (s : State) (id : Nat) (o : Op) (l : Link) (c : Ctx) : State :=
  let v := natOfBytes (l.reqs.flatMap LinkReq.bytes)
  if reached v l.dst then
    (if returnWaits s c id then s else endOp (opWrites (waitAudit s o l) o { k := waitWrites l.vd v }) id)
  else (waitAudit s o l).putOp id { o with body := l.asWait (l.audited || l.reqs.any (fun r => r.denied.isSome)) }

/-- Where a near lane of a store through the window writes: at the frame that its page has now (07 R233), or, where it has none any more, at the one that
the unit met at issue. -/
def nearAt (s : State) (o : Op) (c : Ctx) (r : LinkReq) : Nat :=
  match translate s c.q none (some o.core) (dieOf o.core) r.at_ true with
  | (.leaf x, _) => x.pa r.at_
  | _ => r.va.toNat

/-- The near lanes of a store whose remote lanes have been acknowledged are written, in ascending order of lanes (03 R87); a write that its home slice
holds makes the unit wait. -/
def storeDone (s : State) (id : Nat) (o : Op) (l : Link) (c : Ctx) : State :=
  let near := l.reqs.filter LinkReq.isNearStore
  if near.any (fun r => heldByMigration s (nearAt s o c r) r.n) then s
  else endOp (near.foldl (fun s r => s.write (nearAt s o c r) r.data) (inAudit s o none l.reqs)) id

/-- A lane form completes: it traps, or writes its registers. -/
def laneDone (s : State) (id : Nat) (o : Op) (l : Link) (c : Ctx) : State :=
  let (s1, w) := freeWord s
  match lowest (outcomeConds (linkWhole o l) (l.form == .windowStore) w l.reqs) with
  | some t => linkTrap s1 id o l t
  | none =>
    match l.form with
    | .windowRef => refDone s id o l c
    | .windowWait => waitDone s id o l c
    | .windowStore => storeDone s id o l c
    | .windowLaunch =>
      let r := appendRecord (inAudit s o (linkWhole o l) l.reqs) l.dst (l.reqs.flatMap LinkReq.bytes)
      endOp (opWrites r.1 o { k := [(l.vd, r.2)] }) id
    | _ => endOp (opWrites (inAudit s o (linkWhole o l) l.reqs) o (linkEff o l)) id

/-! ### Stamps (15 R439, R440, R444) -/

/-- The local stamp; the entries are released before it. -/
def linkStamp (s : State) (id : Nat) (o : Op) (l : Link) (q : Queue) : State :=
  let s := releaseLocks s id (fun _ => true)
  match l.stamp with
  | none => endOp s id
  | some st =>
    match stampWrite s o.qn q (dieOf o.core) l.retried st.va (stampWord st.seq l.cause 0 l.denied false false)
        (fun s va n k => opAudit s o va n 0 k 9 1) with
    | .made s => endOp s id
    | .dropped s => endOp s id
    | .held => s.putLink id o l
    | .fault va lv e => linkFault (s.putLink id o l) id o l q va lv e true

/-- The cause that a piece's outcome gives (15 R439). -/
def outcomeCause (r : LinkReq) : Nat :=
  match r.done with
  | some .failed => 1
  | some .unmapped => 2
  | some .denied => 3
  | some .uncorrectable => 4
  | some .refused => 5
  | _ => 0

/-- `lwr` and `lred` end when every piece is acknowledged; a remote stamp follows the payload as a last request (`shape` 1). -/
def sendDone (s : State) (id : Nat) (o : Op) (l : Link) (q : Queue) : State :=
  if l.shape = 1 then endOp s id else
  let l := { l with cause := if l.cause ≠ 0 then l.cause else ((l.reqs.map outcomeCause).filter (· != 0)).headD 0 }
  match l.rs, l.stamp, peerSlot s q l.peer with
  | true, some st, some (_, dev, rq) =>
    let (s, rs) := sendReqs s q o.queue dev rq l.peer kindStore [] [(0, st.va.toNat, st.va.toNat, 8, bytesOf 8 (stampWord st.seq l.cause 0 l.denied false false))]
    s.putLink id o { l with reqs := rs, shape := 1 }
  | true, _, _ => endOp s id
  | false, _, _ => linkStamp s id o l q

/-- A contribution as it is delivered under the local grant set: its run with zeros for the bytes of classes that are not admitted, how many these are,
and the lowest of the classes (15 R431). Its parameters belong to no class. -/
def delivered (q : Queue) (x : Contribution) : List Byte × Option (Nat × Nat) :=
  let parts := x.runs.foldl (fun (a : List (List Byte × Option Nat) × List Byte) r =>
    let bar := match r.2 with | some k => !admits q k.toNat | none => false
    let d := a.2.take r.1
    (a.1 ++ [(if bar then List.replicate d.length 0 else d, if bar then r.2.map (·.toNat) else none)], a.2.drop r.1)) ([], x.bytes)
  let den := parts.1.filterMap (fun p => p.2.map (fun k => (k, p.1.length)))
  ((parts.1.flatMap (·.1)) ++ parts.2, (den.map (·.1)).min?.map (fun k => (k, (den.map (·.2)).foldl (· + ·) 0)))

/-- Write a range of the local memory whole, or tell why not. -/
def writeLocal (s : State) (qn : Nat) (q : Queue) (die retried va : Nat) (bs : List Byte) : State × Stop :=
  let ps := (pageCuts va bs.length).map (fun p => copyPiece s qn q die true retried p.1 p.2)
  let ok := ps.filterMap (fun x => match x with | .ok p => some p | .error _ => none)
  match ps.findSome? (fun x => match x with | .error e => some e | .ok p => (writeCause s qn q p).map Stop.cause) with
  | some e => (s, e)
  | none => if ok.any (writeHeld s qn) then (s, .wait) else (writePieces (notePieces s q none die true ok) ok bs, .none)

/-- The contributions of an operation leave the inbox; its event of bytes that the local grant set denied is one for the operation (15 R431). -/
def takeContributions (s : State) (o : Op) (l : Link) (q : Queue) (xs : List Contribution) : State :=
  let rs := (l.reqs.zip xs).map (fun p => { p.1 with denied := (delivered q p.2).2, port := p.2.port })
  inAudit { s with inbox := xs.foldl List.erase s.inbox } o (some 0) rs

/-- `mxr` ends (15 R443, R444): the result is written (`shape` 1 from then on), or no byte of it. A request of its own that failed gives cause 1, and the
result is written where every rank's run is there all the same. -/
def reduceDone (s : State) (id : Nat) (o : Op) (l : Link) (q : Queue) : State :=
  if l.shape = 1 || l.cause != 0 then linkStamp s id o l q else
  let failed := if l.reqs.any (fun r => outcomeCause r != 0) then 1 else 0
  match contributions s o l with
  | none => if failed = 0 then s else linkStamp (dropContributions s id o l) id o { l with cause := 1 } q
  | some xs =>
    let runs := xs.map (fun x => (delivered q x).1)
    if runs.any (fun r => r.take 8 != collHead (collOf l.desc) l.fmt l.nb) then
      linkStamp (takeContributions s o l q xs) id o { l with cause := if failed = 0 then 6 else failed } q
    else
      match writeLocal s o.qn q (dieOf o.core) l.retried l.dst (mxrRun l.fmt l.nb (l.run :: runs.map (·.drop 8))) with
      | (s, .none) => linkStamp (takeContributions s o l q xs) id o { l with shape := 1, cause := failed } q
      | (s, .cause k) => linkStamp (takeContributions s o l q xs) id o { l with cause := if failed = 0 then localCause k else failed } q
      | (_, .fault va lv e w) => linkFault s id o l q va lv e w
      | (_, .wait) => s

/-- `lld` and `lgat` execute again: the peer that the slot then names, the allocation and its barrier granules are checked anew, an entry is entered anew,
and every lane's bytes are asked for anew (15 R430, R438, 04 R138). -/
def readAgain (s : State) (id : Nat) (o : Op) (l : Link) (c : Ctx) : State :=
  let c := { c with split := { c.split with mask := o.mask } }
  let rngs := if l.form = .lgat then [gatherRng o.lanes l.dst l.len] else []
  match lowest (rngs.flatMap (rngConds s c false) ++ unboundCond s c l.peer), peerSlot s c.q l.peer with
  | some t, _ => linkTrap s id o l t
  | none, none => s
  | none, some (_, dev, rq) =>
    if !locksFit s o.core rngs.length then s else
    let (s, rs) := sendReqs s c.q o.queue dev rq l.peer kindFetch [] (l.reqs.map (fun r => (r.lane, r.at_, r.at_, l.size, [])))
    (enterLocks s o.core (rngLocks s c rngs id)).putLink id o { l with begun := true, reqs := rs }

/-- An access through the peer window executes again, with the lanes' addresses and bytes as it read them at issue (04 R127, R138). -/
def windowAgain (s : State) (id : Nat) (o : Op) (l : Link) (c : Ctx) : State :=
  let c := { c.before id with split := { (c.before id).split with mask := o.mask } }
  let acc := if l.form = .windowStore then Acc.store else .load
  let n := if l.shape = 2 then 128 else l.size
  let looks := l.lanes.map (fun x => lookAt s c acc (if l.shape = 0 then tabGet c.group.lastPage x.1 else none) true x.1 x.2.1 n n)
  let data := fun lane => ((l.lanes.find? (fun x => x.1 == lane)).map (·.2.2)).getD []
  match lowest (condsOf (linkWhole o l) (looks.flatMap (·.traps)) ++ (if l.form = .windowLaunch then targetCond s c l.dst else [])) with
  | some t => linkTrap (noteWalks s c acc.writes looks) id o l t
  | none =>
    match faultOf (linkWhole o l) acc looks with
    | some f => takeFault (noteWalks s c acc.writes looks) (opSite s id o) f
    | none =>
      if mustWait s c acc looks then s else
      let (s, reqs) := windowBegin s c acc (l.form == .windowStore) (l.shape == 0) l.ro data looks
      s.putLink id o { l with begun := true, reqs := reqs }

/-- A unit of the core that trapped through its requests, or met a fault, executes again while its team is RUNNING (04 R127, R138). -/
def linkAgain (s : State) (id : Nat) (o : Op) (l : Link) : State :=
  match opCtx s o with
  | none => s
  | some c =>
    match l.form with
    | .lld | .lgat => readAgain s id o l c
    | .windowWait => s.putOp id { o with body := l.asWait l.audited }
    | _ => windowAgain s id o l c

/-- A link operation goes on or ends (15 R434, R437 to R444): it sends what a fault or a trap held back; with every answer there, it completes. An
`mwait` goes on while its team is RUNNING only (04 R127). -/
def execLinkOperationComplete (op : Nat) (s : State) : Out :=
  match linkOf s op with
  | none => .next s
  | some (o, l) =>
    match opQueue s o with
    | none => .next (endOp s op)
    | some q =>
      if o.halted || l.fault != 0 || (l.form == .windowWait && (opCtx s o).isNone) then .next s
      else if !l.begun then
        (match l.form with
        | .lwr | .lred => .next (beginSend s op o l q)
        | .mxr => .next (beginReduce s op o l q)
        | _ => .next (linkAgain s op o l))
      else if l.reqs.any (fun r => r.done.isNone) then .next s
      else match l.form, opCtxAny s o with
        | .lwr, _ => .next (sendDone s op o l q)
        | .lred, _ => .next (sendDone s op o l q)
        | .mxr, _ => .next (reduceDone s op o l q)
        | .lgat, some c => .next (gatherDone s op o l c)
        | _, some c => .next (laneDone s op o l c)
        | _, none => .next (endOp s op)

/-- Ranks are missing at tmo: cause 7, or 6 where such a rank has contributed under another identifier; no destination byte is written (15 R444). -/
def execMxrTimeout (op : Nat) (s : State) : Out :=
  match linkOf s op with
  | none => .next s
  | some (o, l) =>
    match opQueue s o with
    | none => .next (endOp s op)
    | some q =>
      if l.form == .mxr && l.shape == 0 && decide (s.cycle ≥ l.until_) && l.fault == 0 &&
          (!l.begun || l.reqs.any (fun r => r.done.isNone) || (contributions s o l).isNone) then
        let l := { l with reqs := if l.reqs.isEmpty then mxrRanks s q l else l.reqs }
        .next (linkStamp (dropContributions s op o l) op o
          { l with cause := if l.reqs.any (fun r => (strayOf s op o l r).isSome) then 6 else 7, begun := true, reqs := [], shape := 1 } q)
      else .next s

/-! ### Flits and failures (15 R432, R433, R435) -/

/-- Fields of a header. -/
def hdrTag (h : BitVec 160) : Nat := bitsOf h.toNat 32 24
def hdrLen (h : BitVec 160) : Nat := bitsOf h.toNat 24 8
def hdrStatus (h : BitVec 160) : Nat := bitsOf h.toNat 8 4
def hdrClass (h : BitVec 160) : Nat := bitsOf h.toNat 112 16
def hdrDest (h : BitVec 160) : Nat := bitsOf h.toNat 56 16
def hdrSource (h : BitVec 160) : Nat := bitsOf h.toNat 72 16

/-- Data that a response brings joins what has come: the request is answered when all has come, and a request that asks no data at once. -/
def LinkReq.gain (r : LinkReq) (bs : List Byte) (den : Option (Nat × Nat)) : LinkReq :=
  let got := r.got ++ bs
  let whole := r.kind != kindFetch || decide (got.length ≥ r.n)
  { r with got := got, denied := den, done := if whole then some (.arrived (got.take r.n) []) else none }

/-- A request receives a response: its class is checked against the local grant set; bytes that the remote denied arrive as zeros (15 R431). -/
def LinkReq.receive (r : LinkReq) (q : Queue) (h : BitVec 160) (bs : List Byte) : LinkReq :=
  let cls := hdrClass h
  match hdrStatus h with
  | 0 =>
    let barred := !bs.isEmpty && !admits q cls
    r.gain (if barred then List.replicate bs.length 0 else bs)
      (if barred then (match r.denied with
        | some (k, n) => some (Nat.min k cls, n + bs.length)
        | none => some (cls, bs.length)) else r.denied)
  | 1 => if bs.isEmpty then { r with done := some .denied } else r.gain (List.replicate bs.length 0) r.denied
  | 2 => { r with done := some .unmapped }
  | 3 => { r with done := some .uncorrectable }
  | _ => { r with done := some .refused }

/-- Deliver a response to the operation that waits for its tag. -/
def receiveAll (s : State) (h : BitVec 160) (bs : List Byte) : State :=
  { s with ops := s.ops.map (fun o =>
      match o.2.body, opQueue s o.2 with
      | .link l, some q =>
        (o.1, { o.2 with body := .link { l with reqs := l.reqs.map (fun r =>
          if l.begun && r.done.isNone && r.tag == hdrTag h then r.receive q h bs else r) } })
      | _, _ => o) }

/-- A port that is up and brings a flit has not failed, or no longer (17 R474). -/
def heard (s : State) (port : Nat) : State := { s with ports := tabMod s.ports port (fun p => if p.up then { p with failedAt := none } else p) }

/-- A management flit brings the command record of a remote owner (17 R470). -/
def takeMail (s : State) (dev : Nat) (payload : List Byte) : State :=
  let put := fun (m : Master) => { s with fw := { s.fw with mail := s.fw.mail ++ [⟨m, natOfBytes (payload.take 64), s.fw.cmdTail⟩] } }
  if dev = Config.ownerDevice 0 % 65536 then put .remote0 else if dev = Config.ownerDevice 1 % 65536 then put .remote1 else s

/-- A flit arrives: one whose check fails is resent by the port; one with a reserved field nonzero is dropped and counted; one for another
device is forwarded unread; a response reaches its request, and a command record the firmware. Requests of peers are `PEER_REQUEST`. -/
def execFlitArrival (port : Nat) (h : BitVec 160) (payload : List Byte) (checkOk : Bool) (s : State) : Out :=
  if port ≥ 12 || !checkOk then .next s else
  let s := heard s port
  if bitsOf h.toNat 0 8 != 0 || bitsOf h.toNat 12 3 != 0 then
    .next { s with fw := { s.fw with droppedFlits := s.fw.droppedFlits + 1 } }
  else if hdrDest h ≠ Config.device % 65536 then
    (if firstPort s (hdrDest h) ≥ 12 then .next s
     else .next { s with sent := { port := firstPort s (hdrDest h), header := h, payload := payload, va := 0 } :: s.sent })
  else if bitsOf h.toNat 18 6 = (Config.flitOp kindReply).toNat then .next (receiveAll s h (payload.take (hdrLen h)))
  else if bitsOf h.toNat 15 3 = 0 && bitsOf h.toNat 18 6 = (Config.flitOp kindCommand).toNat && hdrLen h = 64 then .next (takeMail s (hdrSource h) payload)
  else .next s

/-- Resend on the next port what waits on a port that failed. -/
def rerouteReqs (s : State) (qn : Nat) (q : Queue) (port : Nat) : List LinkReq → State × List LinkReq
  | [] => (s, [])
  | r :: t =>
    if r.done.isNone && r.port == port && decide (s.cycle < r.sent + 2 ^ 20) then
      let r := { r with port := nextPort s r.dev port, got := [], denied := none }
      let (s, rs) := rerouteReqs (sendReq s qn q r) qn q port t
      (s, r :: rs)
    else
      let (s, rs) := rerouteReqs s qn q port t
      (s, r :: rs)

/-- What waits on a port that fails is sent again (15 R435). -/
def portFails (s : State) (port : Nat) : State :=
  s.ops.foldl (fun s o =>
    match o.2.body, opQueue s o.2 with
    | .link l, some q =>
      let (s, rs) := if l.begun then rerouteReqs s o.2.queue q port l.reqs else (s, l.reqs)
      s.putLink o.1 o.2 { l with reqs := rs }
    | _, _ => s) s

/-- A port fails. -/
def execPortFailure (port : Nat) (s : State) : Out :=
  .next (portFails { s with ports := tabMod s.ports port (fun p => p.fails (wallNow s)) } port)

/-- A request fails 2^20 cycles after it was first sent (15 R435). -/
def execLinkRetryTimeout (op lane : Nat) (s : State) : Out :=
  match linkOf s op with
  | none => .next s
  | some (o, l) =>
    .next (s.putLink op o { l with reqs := l.reqs.map (fun r =>
      if r.lane == lane && r.done.isNone && decide (s.cycle ≥ r.sent + 2 ^ 20) then { r with done := some .failed, got := [] } else r) })

/-! ### Peers' requests (15 R430, R431, R435, R441) -/

/-- The remote's event of a denied request: its first denied address, how many bytes, and the lowest class; the fields that the manual gives no value for a
link arrival are free (log 7). -/
def peerAudit (s : State) (r : PeerReq) (va count cls kind : Nat) : State :=
  let (s, w) := freeWord s
  let (s, x) := freeWord s
  audit s r.queue { unit := 0, va := va, identity := r.identity.toNat, grid := w.toNat % 2 ^ 32, team := w.toNat / 2 ^ 32, lanes := 0, count := count
                    detail := r.port, cls := cls, core := x.toNat % 512, group := x.toNat / 512 % 32, path := 8, kind := kind }

/-- The event of pieces of which bytes are denied. -/
def peerDenies (s : State) (r : PeerReq) (q : Queue) (ps : List Piece) (kind : Nat) : State :=
  match ps.filter (fun p => (deniedClass s q p).isSome) with
  | [] => s
  | p :: t => peerAudit s r (p.va + ((List.range p.n).find? (byteDenied s q p)).getD 0) (((p :: t).map (deniedCount s q)).foldl (· + ·) 0)
      (((p :: t).filterMap (deniedClass s q)).min?.getD 0) kind

/-- The bytes that a request touches, and its kind for audit events. -/
def peerSize (a : PeerAct) : Nat := match a with | .fetch n => n | .store bs => bs.length | .update _ bs => bs.length | .reduce bs => bs.length
def peerKind (a : PeerAct) : Nat := match a with | .fetch _ => 0 | .store _ => 1 | .update _ _ => 2 | .reduce _ => 0
def peerWrites (a : PeerAct) : Bool := match a with | .fetch _ => false | .store _ => true | .update _ _ => true | .reduce _ => false

/-- Payload bytes of a request whose flits' class the bound queue does not admit, and the lowest of their classes (01 R38, 15 R431). -/
def barredPayload (r : PeerReq) (q : Queue) : Option (Nat × Nat) :=
  let bar := r.runs.filterMap (fun x => x.2.bind (fun k => if admits q k.toNat then none else some (k.toNat, x.1)))
  ((bar.map (·.1)).min?).map (fun k => (k, (bar.map (·.2)).foldl (· + ·) 0))

/-- A remote refusal (15 R439 cause 5): a page that forbids the write, a device, or a heap refusal. -/
def peerRefused (s : State) (r : PeerReq) (q : Queue) (p : Piece) : Bool :=
  ((peerWrites r.act) && p.readOnly) ||
  (p.x.region == 2 && ((peerWrites r.act) || placeOf s p.pa != some .host)) ||
  (p.x.region == 1 && !(rawCode s r.queue q p.va p.n (peerWrites r.act)).isEmpty)

/-- A bad granule that a request meets. -/
def peerBad (s : State) (r : PeerReq) (q : Queue) (p : Piece) : Bool :=
  match r.act with
  | .store _ => (badPart s p.pa p.n).isSome
  | .fetch _ => (badAdmitted s q p).isSome
  | _ => (badIn s p.pa p.n).isSome

/-- Perform a request whose pieces are sound. -/
def peerAct (s : State) (r : PeerReq) (q : Queue) (ps : List Piece) : State × Remote :=
  let s := ps.foldl (fun s p => if p.x.region = 1 then closeRead s r.queue p.va p.n else s) s
  let s := notePieces s q none (r.port / 3) (peerWrites r.act) ps
  match r.act with
  | .fetch _ => (s, .arrived (readPieces s q ps) (joinRuns (ps.flatMap (fun p => pieceRuns s p (byteDenied s q p)))))
  | .store bs => (writePieces s ps bs, .arrived [] [])
  | .reduce _ => (s, .arrived [] [])
  | .update ty bs =>
    let old := ps.flatMap (fun p => s.bytes p.pa p.n)
    let upd := ((chunks (bs.length / 4) 4 old).zip (chunks (bs.length / 4) 4 bs)).flatMap (fun e =>
      bytesOf 4 (bankUpd 0 ty.toNat (BitVec.ofNat 32 (natOfBytes e.1)) (BitVec.ofNat 32 (natOfBytes e.2))).toNat)
    (writePieces s ps upd, .arrived [] [])

/-- The answer to a request, in the address space of the bound queue and under its grant set; none where a write is held. A rank's contribution is kept for
the operation that takes it. A write of which a byte is denied writes nothing; a read delivers zeros for its denied bytes. -/
def peerAnswer (s : State) (r : PeerReq) (q : Queue) : Option (State × Remote) :=
  match r.act with
  | .reduce bs =>
    let x : Contribution := { queue := r.queue, dev := r.dev, rank := r.squeue, port := r.port, runs := r.runs, bytes := bs, void := false }
    some ({ s with inbox := match s.inbox.find? (fun y => y.void && y.queue == x.queue && y.dev == x.dev && y.rank == x.rank && y.cid == x.cid) with
        | some y => s.inbox.erase y
        | none => s.inbox ++ [x] }, .arrived [] [])
  | _ =>
  if !canonical r.va then some (s, .unmapped) else
  match barredPayload r q with
  | some (k, n) => some (peerAudit s r r.va.toNat n k (peerKind r.act), .denied)
  | none =>
  match reach s q none none (r.port / 3) (peerWrites r.act) r.va.toNat (peerSize r.act) with
  | .invalid _ _ _ => some (s, .unmapped)
  | .malformed _ _ _ => some (s, .unmapped)
  | .bad _ _ => some (s, .uncorrectable)
  | .ok ps =>
    let count := (ps.map (deniedCount s q)).foldl (· + ·) 0
    if count != 0 && (peerWrites r.act || count == peerSize r.act) then some (peerDenies s r q ps (peerKind r.act), .denied)
    else if ps.any (peerBad s r q) then some (s, .uncorrectable)
    else if ps.any (peerRefused s r q) then some (s, .refused)
    else if (peerWrites r.act) && ps.any (writeHeld s r.queue) then none
    else some (peerAct (peerDenies s r q ps (peerKind r.act)) r q ps)

/-- The status of a response (15 R432). -/
def remoteStatus (x : Remote) : Nat :=
  match x with
  | .arrived _ _ => 0 | .denied => 1 | .unmapped => 2 | .uncorrectable => 3 | _ => 4

/-- The response leaves on the port the request came by. -/
def respond (s : State) (r : PeerReq) (q : Queue) (x : Remote) : State :=
  let parts : List (Nat × Option (BitVec 16) × List Byte) := match x with
    | .arrived bs runs => if bs.isEmpty then [(remoteStatus x, none, [])] else (cutFlits runs bs).map (fun d => (if d.1.isNone then 1 else 0, d.1, d.2))
    | _ => [(remoteStatus x, none, [])]
  let head := fun (status : Nat) (cls : Option (BitVec 16)) (n : Nat) =>
    flitHeader { q with identity := r.identity } r.squeue r.dev r.queue r.tag.toNat kindReply (classField cls) n 4 status
  { s with sent := (parts.map (fun d => { port := r.port, header := head d.1 d.2.1 d.2.2.length, payload := d.2.2, va := 0 : Flit })).reverse ++ s.sent }

/-- The answer that a tag had, while its resends may still come (15 R435). -/
def answered (s : State) (r : PeerReq) : Option Answer :=
  s.answers.find? (fun a => a.dev == r.dev && a.tag == r.tag && decide (s.cycle < a.at_ + 2 ^ 21))

/-- A peer's request is performed, each tag at most once (15 R435, R441). -/
def execPeerRequest (r : PeerReq) (s : State) : Out :=
  match tabGet s.queues r.queue with
  | none => .next s
  | some q =>
    if r.port ≥ 12 then .next s else
    match answered s r with
    | some a => .next (respond s r q a.res)
    | none =>
      match peerAnswer s r q with
      | none => .next s
      | some (s', x) => .next (respond { s' with answers := { dev := r.dev, tag := r.tag, at_ := s.cycle, res := x } :: s'.answers } r q x)

end Sys2Proof.Machine
end

