-- ==== Sys2Proof/Machine/Mask.lean ====
section
/-! DEFINITION. The mask unit: interval programs, their validation and evaluation, and the mask forms (11 R327 to R347). -/

namespace Sys2Proof.Machine

open Sys2Proof

/-! ### Interval programs (11 R330 to R335) -/

/-- A register's value: a closed interval of integers, or a truth, 0 false, 1 maybe, 2 true. -/
inductive MVal where
  | num (lo hi : Int)
  | truth (t : Nat)
  deriving DecidableEq, Repr

/-- Fields of an instruction word (11 R331). -/
def mOp (w : Word) : Nat := bitsOf w.toNat 0 4
def mXd (w : Word) : Nat := bitsOf w.toNat 4 4
def mXa (w : Word) : Nat := bitsOf w.toNat 8 4
def mXb (w : Word) : Nat := bitsOf w.toNat 12 4

/-- Bounds of a number, and a truth; a validated program never asks a register for the other kind (11 R338). -/
def MVal.lo : MVal → Int | .num a _ => a | .truth _ => 0
def MVal.hi : MVal → Int | .num _ b => b | .truth _ => 0
def MVal.tv : MVal → Nat | .truth t => t | .num _ _ => 0

/-- The effect of one instruction on its operands (11 R332); `emit` delivers its source. -/
def mEffect (w : Word) (a b : MVal) : MVal :=
  match mOp w with
  | 0 => let i := signedOf 24 (bitsOf w.toNat 8 24); .num i i
  | 1 => .truth (if bitOf w.toNat 8 then 2 else 0)
  | 2 => .num (a.lo + b.lo) (a.hi + b.hi)
  | 3 => .num (a.lo - b.hi) (a.hi - b.lo)
  | 4 => .truth (if a.hi < b.lo then 2 else if a.lo ≥ b.hi then 0 else 1)
  | 5 => .truth (if a.hi ≤ b.lo then 2 else if a.lo > b.hi then 0 else 1)
  | 6 => .truth (if a.lo = a.hi ∧ a.hi = b.lo ∧ b.lo = b.hi then 2 else if a.hi < b.lo ∨ b.hi < a.lo then 0 else 1)
  | 7 => .truth (Nat.min a.tv b.tv)
  | 8 => .truth (Nat.max a.tv b.tv)
  | 9 => .truth (2 - a.tv)
  | 10 => .truth (Nat.min a.tv (2 - b.tv))
  | _ => a

/-- Run a program on its registers: the truth that `emit` delivers. -/
def mRun : List Word → List MVal → Nat
  | [], _ => 0
  | w :: t, xs =>
    let v := mEffect w (xs.getD (mXa w) (.truth 0)) (xs.getD (mXb w) (.truth 0))
    if mOp w = 11 then v.tv else mRun t (listSet xs (mXd w) v)

/-- Evaluate over the intervals of query positions, key positions and query documents, and a document (11 R330). -/
def classify (prog : List Word) (x0 x1 x2 x3 : Int × Int) : Nat :=
  mRun prog ([x0, x1, x2, x3].map (fun x => .num x.1 x.2) ++ List.replicate 4 (.truth 0))

/-! ### Validation (11 R338) -/

/-- Kinds of the sources that an op reads, and of what it writes: 0 number, 1 truth. -/
def mSources (w : Word) : List (Nat × Nat) :=
  match mOp w with
  | 2 | 3 | 4 | 5 | 6 => [(mXa w, 0), (mXb w, 0)]
  | 7 | 8 | 10 => [(mXa w, 1), (mXb w, 1)]
  | 9 | 11 => [(mXa w, 1)]
  | _ => []
def mWrites (w : Word) : Option (Nat × Nat) :=
  match mOp w with
  | 0 | 2 | 3 => some (mXd w, 0)
  | 1 | 4 | 5 | 6 | 7 | 8 | 9 | 10 => some (mXd w, 1)
  | _ => none

/-- Bits that an instruction does not use (11 R331). -/
def mReserved (w : Word) : Nat :=
  match mOp w with
  | 0 => 0
  | 1 => bitsOf w.toNat 9 23
  | 9 => bitsOf w.toNat 12 20
  | 11 => bitsOf w.toNat 12 20 + mXd w
  | _ => bitsOf w.toNat 16 16

/-- The codes that an instruction holds, by the kinds of the registers before it. -/
def mCodes (w : Word) (kinds : Tab Nat) (last : Bool) : List Nat :=
  let regs := (mSources w).map (·.1) ++ (mWrites w).toList.map (·.1)
  (if mOp w ≥ 12 then [0x40] else []) ++
  (if regs.any (fun r => decide (r ≥ 8)) then [0x41] else []) ++
  (if (mSources w).any (fun x => (tabGet kinds x.1).isNone) then [0x42] else []) ++
  (if (mSources w).any (fun x => match tabGet kinds x.1 with | some k => k != x.2 | none => false) then [0x43] else []) ++
  (if mOp w < 12 && mReserved w != 0 then [0x44] else []) ++
  (if last != (mOp w == 11) then [0x45] else [])

/-- The codes of every instruction, as (code, index, word). -/
def mCheck : List Word → Nat → Tab Nat → List (Nat × Nat × Word)
  | [], _, _ => []
  | w :: t, i, kinds =>
    (mCodes w kinds t.isEmpty).map (fun k => (k, i, w)) ++
      mCheck t (i + 1) (match mWrites w with | some (r, k) => tabPut kinds r k | none => kinds)

/-- Instruction count of a header. -/
def mCount (header : Word) : Nat := header.toNat % 32

/-- The condition of an illegal image: the lowest code, the header before the instructions. -/
def imageCond (header : Word) (ws : List Word) (m : BitVec 32) : List Cond :=
  let hd : List (Nat × Nat × Word) := if mCount header = 0 || decide (mCount header > 16) || header.toNat / 32 != 0 then [(0x44, 16, header)] else []
  let all := hd ++ mCheck ws 0 [(0, 0), (1, 0), (2, 0), (3, 0)]
  match (all.map (·.1)).min? with
  | none => []
  | some k => (all.find? (fun x => x.1 == k)).toList.map (fun x => { code := k, d0 := x.2.1, d1 := x.2.2.toNat, lanes := m })

/-! ### Slots (11 R327 to R329, R340 to R342) -/

/-- Address of a slot's entry in the queue's mask block. -/
def slotAt (q : Queue) (slot : Nat) : PAddr := q.mblock + 64 + 128 * slot

/-- The program in a slot; none where the slot is empty. An entry whose reserved bits or count are none that the hardware writes holds no
program (01 R12). -/
def slotProgram (s : State) (q : Queue) (slot : Nat) : Option (List Word) :=
  let e := s.num (slotAt q slot) 128
  let fit := bitsOf e 5 3 == 0 && bitsOf e 9 23 == 0 && bitsOf e 576 448 == 0 && bitsOf e 0 5 != 0 && decide (bitsOf e 0 5 ≤ 16)
  if bitOf e 8 && fit then some ((List.range (bitsOf e 0 5)).map (fun i => BitVec.ofNat 32 (bitsOf e (64 + 32 * i) 32))) else none

/-- Write a slot's entry: seq is raised by one. -/
def putSlot (s : State) (q : Queue) (slot : Nat) (ws : List Word) : State :=
  let seq := (s.num (slotAt q slot + 4) 4 + 1) % 2 ^ 32
  let code := (List.range 16).map (fun i => (32, ((ws.getD i 0).toNat : Nat)))
  s.writeNum (slotAt q slot) 128 (packBits ([(5, ws.length), (3, 0), (1, if ws.isEmpty then 0 else 1), (23, 0), (32, seq)] ++ code))

/-- The entry that an operation is bound to: an attention unit that has begun and is not abandoned (11 R329). -/
def Op.bound (o : Op) : Option (Nat × Nat) :=
  if o.halted then none else
  match o.body with
  | .att a => if a.sample.isSome && a.list.isSome then a.prog.map (fun (p : Nat × List Word) => (o.queue, p.1)) else none
  | _ => none

/-- A unit in flight is bound to a slot of a queue. -/
def slotBound (s : State) (qn slot : Nat) : Bool := s.ops.any (fun o => o.2.bound == some (qn, slot))

/-- All 8 cached entries of a core's mask unit are bound by units in flight, and a slot's is none of them: who names it waits at issue (11 R329).
The cores of a quad share one mask unit. -/
def bindFull (s : State) (core qn slot : Nat) : Bool :=
  let bound := ((s.ops.filter (fun o => quadOf o.2.core == quadOf core)).filterMap (fun o => o.2.bound)).eraseDups
  decide (bound.length ≥ 8) && !bound.contains (qn, slot)

/-- An `mload` or `mfree` that waits at issue holds a slot (11 R340). -/
def slotHeld (s : State) (qn slot : Nat) : Bool := s.maskHolds.any (fun h => h.queue == qn && h.slot == slot)

/-- The hold of the issuing split. -/
def ownHold (c : Ctx) (slot : Nat) : MaskHold := { queue := c.team.queue, slot := slot, team := c.key, group := c.group.num, split := c.split.idx }

/-- A unit that changes a slot: it waits, holding the slot, while a unit in flight is bound to it; then it acts. -/
def slotUnit (s : State) (c : Ctx) (slot : Nat) (act : State → State) : State :=
  let h := ownHold c slot
  if slotBound s c.team.queue slot then
    (if s.maskHolds.contains h then s else { s with maskHolds := s.maskHolds ++ [h] })
  else act { s with maskHolds := s.maskHolds.filter (fun x => x != h) }

/-! ### The mask forms (11 R340 to R344) -/

/-- A word of an image: a device region gives 0x24, and none of the conditions that a device gives an ordinary load (11 R340). -/
def imageLook (k : Look) : Look :=
  { k with traps := k.traps.filter (fun t => t.code != 0x13 && t.code != 0x73) ++
      (if k.piece.any (fun p => p.x.region == 2) then [⟨k.lane, 0x24, k.va, some 2⟩] else []) }

/-- `mload`: read the image, validate it, publish it. A header that cannot be read names no instruction words. -/
def execMload (_l : BitVec 4) (k : BitVec 4) (slot : BitVec 3) (s : State) : Out :=
  issue s fun c => slotUnit s c slot.toNat fun s =>
    let m := c.split.mask
    let ea := (c.group.kpair (2 * k.toNat)).toNat
    let at_ := fun (i : Nat) => imageLook (lookAt s c .load none false (lowLane m) ((ea + 4 * i) % 2 ^ 64) 4 4)
    let look0 := at_ 0
    let wordOf := fun (s : State) (x : Look) => BitVec.ofNat 32 (loadNum s c [x] (lowLane m))
    let header := wordOf (settle s c [look0]) look0
    let body := if look0.traps.isEmpty && look0.fault.isNone then (List.range (mCount header)).map (fun i => at_ (i + 1)) else []
    let looks := look0 :: body
    memCourse s c (some m) .load 0 looks [] {} fun s' =>
      let s1 := settle s' c looks
      let ws := body.map (wordOf s1)
      let s2 := noteLooks s1 c false false looks
      match lowest (imageCond header ws m) with
      | some t => takeTrap s2 (unitSite s2 c) t
      | none => finish (putSlot s2 c.q slot.toNat ws) c {}

/-- `mfree`: an empty slot stays as it is. -/
def execMfree (_l : BitVec 4) (slot : BitVec 3) (s : State) : Out :=
  issue s fun c => slotUnit s c slot.toNat fun s =>
    finish (if (slotProgram s c.q slot.toNat).isSome then putSlot s c.q slot.toNat [] else s) c {}

/-- The trap of an empty slot (11 R347). -/
def emptySlot (s : State) (c : Ctx) (slot : Nat) : List Cond :=
  wholeCond (slotProgram s c.q slot).isNone 0x46 slot c.team.queue c.split.mask

/-- `mclass`: classify one explicit tile. -/
def execMclass (_l : BitVec 4) (q : BitVec 2) (d : BitVec 5) (slot : BitVec 3) (s : State) : Out :=
  issue s fun c =>
    if slotHeld s c.team.queue slot.toNat || bindFull s c.core c.team.queue slot.toNat then s else
    let k := fun (i : Nat) => ((c.group.kread (8 * q.toNat + i)).toNat : Nat)
    let bad := [0, 2, 4].find? (fun i => decide (k i > k (i + 1)))
    let iv := fun (i j : Nat) => ((k i : Int), (k j : Int))
    let r := classify ((slotProgram s c.q slot.toNat).getD []) (iv 0 1) (iv 2 3) (iv 4 5) (iv 6 6)
    unitWith s c (emptySlot s c slot.toNat ++ wholeCond bad.isSome 0x47 (bad.getD 0) 0 c.split.mask) { k := [(d.toNat, BitVec.ofNat 32 r)] } id

/-- `mstat`: a counter, or the bitmap of valid slots, once every earlier unit of the split has completed, as copy units have when their entries stand in
the table (14 R410, R424); selections 5 to 7 are illegal and
never reach a meaning. -/
def execMstat (_l : BitVec 4) (d : BitVec 4) (sel : BitVec 3) (s : State) : Out :=
  issue s fun c =>
    let busy := c.split.windows.any (fun w => (tabGet s.ops w.1).isSome) ||
      (groupOps s c.key c.group.num).any (fun o => o.2.split == c.split.idx && !(match o.2.body with | .copy _ => true | _ => false))
    if busy then s else
    let v := if sel.toNat < 4 then s.num (c.q.mblock + 8 * sel.toNat) 8
             else ((List.range 8).map (fun i => if (slotProgram s c.q i).isSome then 2 ^ i else 0)).foldl (· + ·) 0
    unit s c { k := [(2 * d.toNat, BitVec.ofNat 32 v), (2 * d.toNat + 1, BitVec.ofNat 32 (v / 2 ^ 32))] }

end Sys2Proof.Machine
end

