-- ==== Sys2Proof/Machine/Matrix.lean ====
section
/-! DEFINITION. The Quern's matrix passes: accumulator handles, the A latch, passes and their arbiter, top-k (09 R275 to R297). -/

namespace Sys2Proof.Machine

open Sys2Proof

/-! ### Quarter tiles (09 R275 to R277) -/

/-- Quarters of a mask, ascending. -/
def quarters (m : BitVec 4) : List Nat := (List.range 4).filter (fun q => m.getLsbD q)

/-- The quarter tile of a handle; none while RELEASED. -/
def Group.tile (g : Group) (m q : Nat) : Option Tile := tabGet g.tiles (4 * m + q)

/-- The code of a tile's state (09 R297). -/
def tileCode : Option Tile → Nat
  | none => 0
  | some t => match t.kind with | .f32 => 1 | .i32 => 2 | .topk _ _ _ => 3

/-- Set or release a quarter tile; the handle's dirty bit is set (04 R129). -/
def Group.setTile (g : Group) (m q : Nat) (t : Option Tile) : Group :=
  match t with
  | some x => { g.soil (120 + m) with tiles := tabPut g.tiles (4 * m + q) x }
  | none => { g.soil (120 + m) with tiles := tabDel g.tiles (4 * m + q) }

/-- A tile of zeros, and an empty list of ranks. -/
def zeroTile (int : Bool) : Tile :=
  { kind := if int then .i32 else .f32, elems := List.replicate 8 (List.replicate 32 0), lists := [] }
def emptyTopk (kk : Nat) (wantMax int : Bool) : Tile := { kind := .topk kk wantMax int, elems := [], lists := List.replicate 8 [] }

/-- Element of a tile. -/
def Tile.at_ (t : Tile) (r c : Nat) : Word := (t.elems.getD r []).getD c 0

/-- Quarter tiles of a team outside RELEASED. -/
def tilesHeld (t : Team) : Nat := (t.groups.map (fun g => g.2.tiles.length)).foldl (· + ·) 0

/-- The trap of a tile in a state that the form does not accept (09 R297). -/
def tileCond (c : Ctx) (m : Nat) (bad : List Nat) : List Cond :=
  wholeCond (!bad.isEmpty) 0x30 (m + 16 * (bad.map (2 ^ ·)).foldl (· + ·) 0)
    ((List.range 4).map (fun q => tileCode (c.group.tile m q) * 4 ^ q) |>.foldl (· + ·) 0) c.split.mask

/-- The trap of a team that would hold more than 128 tiles (09 R277). -/
def fullCond (c : Ctx) (m : Nat) (qs : List Nat) : List Cond :=
  let new := (qs.filter (fun q => (c.group.tile m q).isNone)).length
  wholeCond (new > 0 && decide (tilesHeld c.team + new > 128)) 0x33 m (tilesHeld c.team) c.split.mask

/-- A pass in flight names the handle: units of a group on one handle are performed in issue order (09 R276), so a later one waits. -/
def handleBusy (s : State) (c : Ctx) (m : Nat) : Bool :=
  (groupOps s c.key c.group.num).any (fun o => match o.2.body with | .pass p => p.md == m | _ => false)

/-- A unit on handles: conditions, register effects and a change of the group. -/
def handleUnit (s : State) (c : Ctx) (ms : List Nat) (conds : List Cond) (e : Eff) (f : Group → Group) : State :=
  if ms.any (handleBusy s c) then s
  else unitWith s c conds e (fun s => s.modGroup c.key c.group.num f)

/-- `qzero` (09 R293). -/
def execQzero (_l : BitVec 4) (v : BitVec 1) (t : BitVec 2) (n : BitVec 5) (q : BitVec 4) (d : BitVec 3) (s : State) : Out :=
  issue s fun c =>
    let tile := match t.toNat with
      | 0 => zeroTile false
      | 1 => zeroTile true
      | 2 => emptyTopk (n.toNat + 1) true (v == 1)
      | _ => emptyTopk (n.toNat + 1) false (v == 1)
    handleUnit s c [d.toNat] (fullCond c d.toNat (quarters q)) {}
      (fun g => (quarters q).foldl (fun g i => g.setTile d.toNat i (some tile)) g)

/-- `qrel` (09 R293). -/
def execQrel (_l : BitVec 4) (q : BitVec 4) (d : BitVec 3) (s : State) : Out :=
  issue s fun c => handleUnit s c [d.toNat] [] {} (fun g => (quarters q).foldl (fun g i => g.setTile d.toNat i none) g)

/-- Registers of a window: 8, 16 or 32 (09 R292). -/
def windowRegs (n : BitVec 2) : Nat := 8 * 2 ^ n.toNat

/-- A tile with some columns replaced from registers of its quarter's lanes. -/
def Tile.fillFrom (t : Tile) (g : Group) (q c0 n r : Nat) : Tile :=
  { t with elems := (List.range 8).map (fun row => (List.range 32).map (fun c =>
      if c0 ≤ c ∧ c < c0 + n then g.vlane (r + (c - c0)) (8 * q + row) else t.at_ row c)) }

/-- `qwr` (09 R293): all four quarters, every lane. -/
def execQwr (_l : BitVec 4) (t : BitVec 1) (n cs : BitVec 2) (r : BitVec 6) (d : BitVec 3) (s : State) : Out :=
  issue s fun c =>
    let want := if t = 1 then 2 else 1
    let bad := (List.range 4).filter (fun q => tileCode (c.group.tile d.toNat q) != 0 && tileCode (c.group.tile d.toNat q) != want)
    handleUnit s c [d.toNat] (tileCond c d.toNat bad ++ fullCond c d.toNat (List.range 4)) {} (fun g =>
      (List.range 4).foldl (fun g q =>
        g.setTile d.toNat q (some (((g.tile d.toNat q).getD (zeroTile (t == 1))).fillFrom c.group q (8 * cs.toNat) (windowRegs n) r.toNat))) g)

/-- The empty entry of a list of ranks (09 R296). -/
def emptyEntry (wantMax int : Bool) : Word × Word :=
  (if int then (if wantMax then 0x80000000 else 0x7fffffff) else (if wantMax then 0xff800000 else 0x7f800000), 0xffffffff)

/-- What `qrd` delivers for a row and a column or rank (09 R293). -/
def tileRead (t : Option Tile) (idx : Bool) (row col : Nat) : Word :=
  match t with
  | none => 0
  | some x =>
    match x.kind with
    | .topk _ wantMax int =>
      let e := (x.lists.getD row []).getD col (emptyEntry wantMax int)
      if idx then e.2 else e.1
    | _ => x.at_ row col

/-- `qrd` (09 R293). -/
def execQrd (_l : BitVec 4) (i : BitVec 1) (n cs : BitVec 2) (r : BitVec 6) (d : BitVec 3) (s : State) : Out :=
  issue s fun c =>
    let bad := if i = 1 then (List.range 4).filter (fun q => tileCode (c.group.tile d.toNat q) == 1 || tileCode (c.group.tile d.toNat q) == 2) else []
    handleUnit s c [d.toNat] (tileCond c d.toNat bad)
      { v := (List.range (windowRegs n)).map (fun j => (r.toNat + j, 0xffffffff#32,
          fun l => tileRead (c.group.tile d.toNat (l / 8)) (i == 1) (l % 8) (8 * cs.toNat + j))) } id

/-! ### Top-k (09 R294 to R296) -/

/-- One entry ranks before another: by value, then by index. The list is to depend on the multiset of the pairs alone (09 R296), so pairs that
tie in both, +0 with -0 or two NaNs, stand by the bits of their values; the manual does not say how (log 82). -/
def ranksBefore (wantMax int : Bool) (a b : Word × Word) : Bool :=
  let less := fun (x y : Word) => if int then x.slt y else ltNum (f32Num x) (f32Num y)
  let nan := fun (x : Word) => !int && (f32Num x).isNan
  let first := if nan a.1 then false else if nan b.1 then true else if wantMax then less b.1 a.1 else less a.1 b.1
  let later := if nan b.1 then false else if nan a.1 then true else if wantMax then less a.1 b.1 else less b.1 a.1
  if first then true else if later then false
  else decide (a.2.toNat < b.2.toNat) || (a.2 == b.2 && decide (a.1.toNat < b.1.toNat))

/-- Insert an entry in rank order. -/
def insertRank (wantMax int : Bool) (e : Word × Word) : List (Word × Word) → List (Word × Word)
  | [] => [e]
  | x :: t => if ranksBefore wantMax int e x then e :: x :: t else x :: insertRank wantMax int e t

/-- Offer a row of 32 values to a list (09 R295). A pair that is offered twice takes two places: R296 speaks of the multiset of the pairs, R295 of a
union (log 104). -/
def offerRow (kk : Nat) (wantMax int : Bool) (base : Nat) (src : Tile) (row : Nat) (xs : List (Word × Word)) : List (Word × Word) :=
  ((List.range 32).foldl (fun xs c => insertRank wantMax int (src.at_ row c, BitVec.ofNat 32 (base + c)) xs) xs).take kk

/-- `qtopk`. -/
def execQtopk (_l : BitVec 4) (k : BitVec 5) (q : BitVec 4) (ms md : BitVec 3) (s : State) : Out :=
  issue s fun c =>
    let base := (c.group.kread k.toNat).toNat
    let code := fun i => tileCode (c.group.tile ms.toNat i)
    let badS := (quarters q).filter (fun i => !(code i == 1 || code i == 2))
    let badD := (quarters q).filter (fun i =>
      match c.group.tile md.toNat i with
      | some t => (match t.kind with | .topk _ _ int => (code i == 1 && int) || (code i == 2 && !int) | _ => true)
      | none => true)
    let conds := if !badS.isEmpty then tileCond c ms.toNat badS else tileCond c md.toNat badD
    handleUnit s c [ms.toNat, md.toNat] conds {} (fun g =>
      (quarters q).foldl (fun g i =>
        match g.tile ms.toNat i, g.tile md.toNat i with
        | some src, some dst =>
          (match dst.kind with
            | .topk kk wantMax int =>
              g.setTile md.toNat i (some { dst with lists := (List.range 8).map (fun row => offerRow kk wantMax int base src row (dst.lists.getD row [])) })
            | _ => g)
        | _, _ => g) g)

/-! ### The A latch (09 R278 to R280) -/

/-- `qla`: every lane of the window, whatever the split's mask. -/
def execQla (_l : BitVec 4) (u : BitVec 1) (f : BitVec 4) (n : BitVec 3) (a : BitVec 6) (s : State) : Out :=
  issue s fun c =>
    let fmt := (qfmtOf f.toNat).getD .bf16
    let nb := n.toNat + 1
    let nd := nb * fmt.blockBytes / 4
    let regs := fun (first count l : Nat) => (List.range count).flatMap (fun j => bytesOf 4 (c.group.vlane (first + j) l).toNat)
    let row := fun l => (regs a.toNat nd l, if fmt.isMx then (regs (a.toNat + nd) ((nb + 3) / 4) l).take nb else [])
    unitWith s c [] {} (fun s => s.modGroup c.key c.group.num (fun g =>
      { g with latch := some { afmt := fmt, nb := nb, ru := u == 1, rows := allLanes.map row } }))

/-! ### Passes (09 R281 to R287) -/

/-- The code of an element format (09 R279). -/
def fmtCode : QFmt → Nat
  | .bf16 => 0 | .e4m3 => 1 | .e5m2 => 2 | .mxe4m3 => 3 | .mxe5m2 => 4 | .mxe3m2 => 5 | .mxe2m3 => 6 | .mxe2m1 => 7 | .mxint8 => 8 | .i8 => 9

/-- Bytes of one column of B (09 R282). -/
def columnBytes (f : QFmt) (nb : Nat) : Nat := nb * f.blockBytes + (if f.isMx then nb else 0)

/-- The hull of B. -/
def Pass.hull (p : Pass) : Rng :=
  let lo := p.cols.foldl Nat.min (p.cols.headD 0)
  { sp := p.space, addr := lo, n := p.cols.foldl Nat.max lo + columnBytes p.bfmt p.latch.nb - lo, write := false }

/-- Column `i` of B as a range. -/
def Pass.column (p : Pass) (i : Nat) : Rng := { sp := p.space, addr := p.cols.getD i 0, n := columnBytes p.bfmt p.latch.nb, write := false }

/-- Every column's bytes are canonical; the first that are not. A column that starts beyond 2^64 counts as not canonical, and one whose tail passes
it wraps: the manual does not say (log 107). -/
def Pass.badColumn (p : Pass) : Option Nat :=
  if p.space = .spad then none
  else p.cols.find? (fun a => decide (a ≥ 2 ^ 64) || !rngCanonical { sp := .mem, addr := a, n := columnBytes p.bfmt p.latch.nb, write := false })

/-- The 32 columns of B start where an operand block says (09 R282). -/
def strideCols (c : Ctx) (k : BitVec 2) (sp : Space) : List Nat :=
  (List.range 32).map (fun i => operandAddr c.group sp (8 * k.toNat) + i * (c.group.kread (8 * k.toNat + 2)).toNat)

/-- Conditions at issue, with a full latch (09 R283, R286). -/
def passConds (s : State) (c : Ctx) (p : Pass) : List Cond :=
  let m := c.split.mask
  let int := p.latch.afmt == .i8
  let bad := if p.z then [] else (quarters p.qmask).filter (fun q => tileCode (c.group.tile p.md q) != (if int then 2 else 1))
  wholeCond (int != (p.bfmt == .i8)) 0x32 (fmtCode p.latch.afmt) (fmtCode p.bfmt) m ++ tileCond c p.md bad ++
  fullCond c p.md (if p.z then quarters p.qmask else []) ++
  (match p.badColumn with
    | some a => { code := 0x11, d0 := a % 2 ^ 64, d1 := m.toNat, lanes := m } :: (rngConds s c true p.hull).filter (fun k => k.code != 0x11)
    | none => rngConds s c true p.hull)

/-- Reservation entries in use on a Quern: one for each posted quarter not yet done (09 R288, 10 R307). -/
def quernEntries (s : State) (quern : Nat) : Nat :=
  ((s.ops.filter (fun o => quadOf o.2.core == quern && !o.2.halted)).map (fun o =>
    match o.2.body with
    | .pass p => if p.posted then (quarters p.left).length else 0
    | .att a => if a.sample.isSome then (quarters a.qmask).length else 0
    | _ => 0)).foldl (· + ·) 0

/-- Enough reservation entries of a core's Quern are free for the quarters of a mask (09 R288). -/
def entriesFit (s : State) (core : Nat) (m : BitVec 4) : Bool := decide (quernEntries s (quadOf core) + (quarters m).length ≤ 32)

/-- What a unit does to its group at issue: the state changes of `.z` (09 R283). -/
def Pass.zeroed (p : Pass) (g : Group) : Group :=
  if p.z then (quarters p.qmask).foldl (fun g i => g.setTile p.md i (some (zeroTile (p.latch.afmt == .i8)))) g else g

/-- The issue of `qmm`, `qdist` and `qmmg`: the state changes that take place at issue, and the posting (09 R283, R288). -/
def passUnit (s : State) (c : Ctx) (form : Nat) (z : BitVec 1) (f q : BitVec 4) (d : BitVec 3) (sp : Space) (cols : List Nat) (look : Nat) : State :=
  match c.group.latch with
  | none => takeTrap s (unitSite s c) { code := 0x31, d0 := s.unit.addr.toNat, d1 := 0, lanes := c.split.mask }
  | some lt =>
    let p : Pass := { form := form, latch := lt, bfmt := (qfmtOf f.toNat).getD .bf16, z := z == 1, md := d.toNat, qmask := q, cols := cols, space := sp
                      level := recordLevel s c.team, inPass := 0, left := q
                      before := (quarters q).filterMap (fun i => (c.group.tile d.toNat i).map (fun t => (i, t)))
                      gen := c.q.gen, audited := false, posted := true, refilled := false }
    if handleBusy s c p.md then s else
    match lowest (passConds s c p) with
    | some t => takeTrap s (unitSite s c) t
    | none =>
      if replayFull s c || engineWaits s c || !locksFor s c [p.hull] || !entriesFit s c.core q then s
      else
        (issueOp s c [p.hull] {} look (.pass p)).modGroup c.key c.group.num (fun g =>
          if lt.ru then p.zeroed g else { p.zeroed g with latch := none })

/-- `qmm`. -/
def execQmm (l : BitVec 4) (z sb : BitVec 1) (k : BitVec 2) (f q : BitVec 4) (d : BitVec 3) (s : State) : Out :=
  issue s fun c =>
    let sp := if sb = 1 then Space.spad else Space.mem
    passUnit s c 0 z f q d sp (strideCols c k sp) l.toNat

/-- `qdist`. -/
def execQdist (l : BitVec 4) (z sb : BitVec 1) (k : BitVec 2) (f q : BitVec 4) (d : BitVec 3) (s : State) : Out :=
  issue s fun c =>
    let sp := if sb = 1 then Space.spad else Space.mem
    passUnit s c 1 z f q d sp (strideCols c k sp) l.toNat

/-- `qmmg`: a column address in each lane's pair, whatever the split's mask. -/
def execQmmg (l : BitVec 4) (z : BitVec 1) (v : BitVec 5) (f q : BitVec 4) (d : BitVec 3) (s : State) : Out :=
  issue s fun c => passUnit s c 2 z f q d .mem (allLanes.map (fun i => (c.group.vpair (2 * v.toNat) i).toNat)) l.toNat

/-! ### The result of a pass (09 R283, R284) -/

/-- The squared difference: NaN if either is NaN or the difference is of equal infinities. -/
def sqDiff (a b : Num) : Num :=
  let d := addNum false a (negNum b)
  mulNum d d

/-- The product that a form sums. -/
def passTerm (form : Nat) (a b : Num) : Num := if form = 1 then sqDiff a b else mulNum a b

/-- One element: float operands by `qsum`, INT8 operands modulo 2^32. -/
def passElem (form nb : Nat) (acc : Word) (as bs : List Num) : Word :=
  f32Bits (qsum nb (f32Num acc) ((as.zip bs).map (fun x => passTerm form x.1 x.2)))
def passElemInt (form : Nat) (acc : Word) (as bs : List Int) : Word :=
  acc + wordOfInt (((as.zip bs).map (fun x => if form = 1 then (x.1 - x.2) * (x.1 - x.2) else x.1 * x.2)).foldl (· + ·) 0)

/-- The quarter tile after a unit. -/
def passTile (p : Pass) (old : Tile) (cols : List (List Byte)) (q : Nat) : Tile :=
  let nb := p.latch.nb
  let row := fun r => p.latch.rows.getD (8 * q + r) ([], [])
  if p.latch.afmt = .i8 then
    let bs := cols.map (fun b => b.map (fun x => x.toInt))
    { kind := .i32, lists := [], elems := (List.range 8).map (fun r =>
        let as := (row r).1.map (fun x => x.toInt)
        (List.range 32).map (fun c => passElemInt p.form (old.at_ r c) as (bs.getD c []))) }
  else
    let bs := cols.map (runValues p.bfmt nb)
    { kind := .f32, lists := [], elems := (List.range 8).map (fun r =>
        let as := runValues p.latch.afmt nb ((row r).1 ++ (row r).2)
        (List.range 32).map (fun c => passElem p.form nb (old.at_ r c) as (bs.getD c []))) }

/-- The latch as it was before a unit: full again, unless a later `qla` has filled it (09 R285). -/
def Group.refill (g : Group) (l : Latch) : Group := if !l.ru && g.latch.isNone then { g with latch := some l } else g

/-- A unit that ends without effect: its tiles and the latch as before it (09 R285). Its quarters leave the reservation table. -/
def undoPass (s : State) (id : Nat) (o : Op) (p : Pass) : State :=
  let empty := (((tabGet s.teams o.team).bind (fun t => tabGet t.groups o.group)).map (fun g => g.latch.isNone)).getD false
  let s := s.putOp id { o with body := .pass { p with inPass := 0, left := p.qmask, posted := false, refilled := !p.latch.ru && empty } }
  s.modLive o.team o.group (fun g =>
    ((quarters p.qmask).foldl (fun g q => g.setTile p.md q (tabGet p.before q)) g).refill p.latch)

/-- A unit that faulted, or is retried, executes again with its operands as it read them (04 R127, R138): its state changes take place anew, the
bound on tiles is met anew (09 R277), and its quarters are posted anew, under the present generation (R289), as soon as the entries are free (R288). -/
def repost (s : State) (id : Nat) (o : Op) (p : Pass) (c : Ctx) : State :=
  match lowest (fullCond c p.md (if p.z then quarters p.qmask else [])) with
  | some t => takeTrap s (opSite s id o) t
  | none =>
    if !entriesFit s o.core p.qmask then s
    else
      (s.putOp id { o with issued := s.cycle
                           body := .pass { p with level := recordLevel s c.team, gen := c.q.gen, posted := true, refilled := false } }).modLive
        o.team o.group (fun g => if p.refilled then { p.zeroed g with latch := none } else p.zeroed g)

/-- The first matrix unit of a group that has yet to replay; none while it waits for its team's resumption. -/
def unposted (s : State) (key g : Nat) : Option (Nat × Op × Pass) :=
  (groupOps s key g).findSome? (fun o =>
    match o.2.body with
    | .pass p => if p.posted || o.2.halted then none else some (o.1, o.2, p)
    | _ => none)

/-- The matrix units of a Quern's RUNNING teams that have yet to replay try again to be posted. -/
def repostAll (s : State) (quern : Nat) : State :=
  (s.ops.filter (fun o => quadOf o.2.core == quern)).foldl (fun s o =>
    match unposted s o.2.team o.2.group, opCtx s o.2 with
    | some (id, o', p), some c => if id = o.1 then repost s id o' p c else s
    | _, _ => s) s

/-- The quarters of one unit in a pass that ends: committed whole, or the unit traps or faults (09 R285, R286). Denied bytes are counted once for each
column that holds them (log 106). A group that has ended keeps no tile of a unit that was in flight (log 105). -/
def commitUnit (s : State) (x : Nat × Op) : State :=
  match x.2.body, opCtxAny s x.2 with
  | .pass p, some c =>
    let cols := (List.range 32).map p.column
    match lowest (cols.flatMap (quernPageConds s c)) with
    | some t => takeTrap (undoPass (cols.foldl (fun s r => rngWalks s c r) s) x.1 x.2 p) (opSite s x.1 x.2) t
    | none =>
      match cols.findSome? (quernFault s c) with
      | some f => takeFault (undoPass (cols.foldl (fun s r => rngWalks s c r) s) x.1 x.2 p) (opSite s x.1 x.2) f
      | none =>
        let s := cols.foldl (fun s r => rngClose s c r) s
        let dps := cols.flatMap (fun r => (rngReach s c r).pieces)
        let bytes := cols.map (rngBytes s c)
        let denied := (piecesDenied s c dps).filter (fun _ => !p.audited)
        let s := match denied with
          | some k => opAudit s x.2 (piecesFirst s c dps) (piecesCount s c dps) 0 k 7 0
          | none => s
        let s := cols.foldl (fun s r => rngNote s c r) s
        let s := s.modLive x.2.team x.2.group (fun g => (quarters p.inPass).foldl (fun g q =>
          let old := if p.z then zeroTile (p.latch.afmt == .i8) else (g.tile p.md q).getD (zeroTile (p.latch.afmt == .i8))
          g.setTile p.md q (some (passTile p old bytes q))) g)
        let left := p.left &&& ~~~p.inPass
        if left = 0 then endOp s x.1 else s.putOp x.1 { x.2 with body := .pass { p with inPass := 0, left := left, audited := p.audited || denied.isSome } }
  | _, _ => s

/-- A pass ends and commits (09 R285). -/
def execPassCommit (quern : Nat) (s : State) : Out :=
  .next ((s.ops.filter (fun o => quadOf o.2.core == quern && !o.2.halted &&
    (match o.2.body with | .pass p => p.inPass != 0 | _ => false))).foldl commitUnit s)

/-! ### The arbiter (09 R288 to R290) -/

/-- A quarter operation as the arbiter sees it: its operation, its quarter, effective level, posting time (0 for a draining team). -/
structure Quarter where
  op : Nat
  q : Nat
  level : Nat
  posted : Nat
  pass : Pass
  queue : Nat
  core : Nat
  deriving DecidableEq, Repr

/-- A team is DRAINING. -/
def teamDraining (s : State) (key : Nat) : Bool :=
  match slotOf s key with
  | some sl => sl.st == .draining
  | none => false

/-- The entries that wait on a Quern. -/
def waitingQuarters (s : State) (quern : Nat) : List Quarter :=
  s.ops.flatMap (fun o =>
    match o.2.body with
    | .pass p =>
      if quadOf o.2.core = quern && !o.2.halted && p.posted then
        let dr := teamDraining s o.2.team
        (quarters (p.left &&& ~~~p.inPass)).map (fun q =>
          { op := o.1, q := q, level := if dr then 15 else Nat.min 15 (p.level + (s.cycle - o.2.issued) / 2048)
            posted := if dr then 0 else o.2.issued, pass := p, queue := o.2.queue, core := o.2.core : Quarter })
      else []
    | _ => [])

/-- The fusion key agrees (09 R289). -/
def sameKey (a b : Quarter) : Bool :=
  a.pass.form == b.pass.form && a.queue == b.queue && a.pass.latch.afmt == b.pass.latch.afmt && a.pass.latch.nb == b.pass.latch.nb &&
  a.pass.bfmt == b.pass.bfmt && a.pass.space == b.pass.space && a.pass.cols == b.pass.cols && (if a.pass.space = .mem then a.pass.gen == b.pass.gen else a.core == b.core)

/-- The leader: the highest effective level, then the oldest (09 R290); of two entries of one posting cycle, and of those of two DRAINING teams, the
one of the earlier operation, which the manual does not say (log 108). -/
def leaderOf : List Quarter → Option Quarter
  | [] => none
  | x :: t =>
    match leaderOf t with
    | none => some x
    | some y => if y.level > x.level || (y.level == x.level && decide (y.posted < x.posted)) then some y else some x

/-- Insert by age. -/
def insertAge (x : Quarter) : List Quarter → List Quarter
  | [] => [x]
  | y :: t => if x.posted < y.posted then x :: y :: t else y :: insertAge x t

/-- The quarters of the next pass: the leader and the oldest of its key, at most 16; none while a pass runs. -/
def nextPass (s : State) (quern : Nat) : List Quarter :=
  let busy := s.ops.any (fun o => quadOf o.2.core == quern && (match o.2.body with | .pass p => p.inPass != 0 | _ => false))
  let ws := waitingQuarters s quern
  match busy, leaderOf ws with
  | false, some ld =>
    let rest := ws.filter (fun x => sameKey ld x && !(x.op == ld.op && x.q == ld.q))
    ld :: ((rest.foldl (fun xs x => insertAge x xs) []).take 15)
  | _, _ => []

/-- The pass is granted. -/
def grantPass (s : State) (qs : List Quarter) : State :=
  qs.foldl (fun s x => { s with ops := tabMod s.ops x.op (fun o =>
    match o.body with
    | .pass p => { o with body := .pass { p with inPass := p.inPass ||| BitVec.ofNat 4 (2 ^ x.q) } }
    | _ => o) }) s

/-- The arbiter grants without, or before the end of, its wait for further entries (09 R290). Replayed units that waited for entries are
posted first. -/
def execPassGrant (quern : Nat) (s : State) : Out :=
  let s := repostAll s quern
  .next (grantPass s (nextPass s quern))

/-- The wait for further entries ends: a pass of fewer than 16 quarters is granted (09 R290). -/
def execFusionWaitExpiry (quern : Nat) (s : State) : Out :=
  let qs := nextPass s quern
  if qs.length < 16 then .next (grantPass s qs) else .next s

end Sys2Proof.Machine
end

