-- ==== Sys2Proof/Machine/Ending.lean ====
section
/-! DEFINITION. How groups and teams end: `exit` (05 R172, 04 R118), drains and saves (04 R110, R127 to R131), the fault and trap records
(04 R132 to R136, 07 R240, R241), kills (04 R137), and retired cores (17 R483). -/

namespace Sys2Proof.Machine

open Sys2Proof

/-! ### Operations bound to their core -/

/-- An issued unit that a drain waits for: it completes or faults (04 R127). A directory form runs to completion, whatever it waits for (12
R372); an attention unit that has had its effects and owes moves of the tile counters completes (11 R345). A matrix unit or a link unit that has yet to
replay is a replay record. -/
def drainsFirst (o : Op) : Bool :=
  !o.halted && match o.body with
  | .pass p => p.posted
  | .conv _ => true
  | .dir _ => true
  | .att a => a.owed.isSome
  | .link l => l.begun && (match l.form with | .lld | .lgat | .windowLoad | .windowStore | .windowRef | .windowLaunch => true | _ => false)
  | _ => false

/-- An operation that continues in its engine whatever becomes of its team (04 R109, R127). -/
def ownEngine (o : Op) : Bool :=
  match o.body with
  | .copy _ => true
  | .link l => (match l.form with | .lwr | .lred | .mxr => true | _ => false)
  | _ => false

/-- Operations of a team. -/
def teamOps (s : State) (key : Nat) : List (Nat × Op) := s.ops.filter (fun o => o.2.team == key)

/-- Operations of a team that are bound to it end with it. -/
def dropOps (s : State) (key : Nat) : State :=
  ((teamOps s key).filter (fun o => !ownEngine o.2)).foldl (fun s o => endOp s o.1) s

/-! ### Replays (04 R127) -/

/-- A unit in flight that was abandoned, that faulted or that is retried, and that has yet to execute again: the matrix units of a split's group, and the
attention and link units of the split itself. One that still waits for its team's resumption is none. -/
def yetToReplay (c : Ctx) (o : Op) : Bool :=
  !o.halted && match o.body with
  | .pass p => !p.posted
  | .att a => a.sample.isNone && a.owed.isNone && o.split == c.split.idx
  | .link l => !l.begun && !ownEngine o && o.split == c.split.idx
  | _ => false

/-- Replay records of a split come before its next unit, in the order in which their units issued. One that finds no free entry goes on waiting. -/
def replayFirst (s : State) (c : Ctx) : Option State :=
  match (groupOps s c.key c.group.num).find? (fun o => yetToReplay c o.2) with
  | none => none
  | some (id, o) =>
    match o.body with
    | .pass p => some (repost s id o p c)
    | .att a => some (readmit s c.core c.key id o a)
    | .link l => some (linkAgain s id o l)
    | _ => none

/-! ### The end of a group and of a team -/

/-- Items of a group that hold a value, by the number of their dirty bit (04 R129). -/
def Group.items (g : Group) : List Nat :=
  g.v.map (·.1) ++ g.k.map (fun x => 64 + x.1) ++ g.p.map (fun x => 96 + x.1) ++ g.h.map (fun x => 104 + x.1) ++ g.tiles.map (fun x => 120 + x.1 / 4)

/-- A group without registers (04 R121): those that it held are freed, which sets their dirty bits (04 R129). -/
def Group.cleared (g : Group) : Group :=
  { g.items.foldl Group.soil g with v := [], k := [], p := [], h := [], ret := [], tiles := [], latch := none, lastPage := [], splits := [], hints := [] }

/-- The active set takes another group for one that ended (04 R112). -/
def refillActive (s : State) (core key g : Nat) : State :=
  s.modCore core (fun k =>
    let left := k.active.filter (· != g)
    let more := match tabGet s.teams key with
      | some t => ((t.groups.filter (fun x => !x.2.ended && x.1 != g && !left.contains x.1)).map (·.1)).take 1
      | none => []
    { k with active := left ++ more })

/-- A group ends: its pins are released, its registers freed, and the rendezvous of its team and cluster count without it (04 R118, R121,
13 R400, 06 R204, R205). -/
def endGroup (s : State) (core key g : Nat) : State :=
  match (tabGet s.teams key).bind (fun t => (tabGet t.groups g).map (fun gr => (t, gr))) with
  | none => s
  | some (t, gr) =>
    let s := (releasePins s t.queue gr).modGroup key g Group.cleared
    clsyncTry (tsyncTry (refillActive s core key g) key) key

/-- Barrier tags of a team's live allocation are cleared (06 R191). -/
def clearTags (s : State) (t : Team) : State :=
  let lo := spadAddr t.core t.spadOff
  { s with tags := s.tags.filter (fun a => !(decide (lo ≤ a) && decide (a < lo + t.spadSize))) }

/-! ### Switches (16 R462, R464) -/

/-- A team of a resident-only grid (16 R462). -/
def residentOnly (s : State) (t : Team) : Bool := match tabGet s.grids t.grid with | some g => g.launch.resonly | none => false

/-- The core's RUNNING team is switched out and keeps its slot; a team of a resident-only grid takes its whole grid (16 R462, R464). -/
def switchOut (s : State) (core : Nat) : State :=
  match (s.core core).running.bind (fun sl => tabGet s.teams sl.team) with
  | none => s
  | some t =>
    if residentOnly s t then
      (s.teams.filter (fun x => x.2.grid == t.grid)).foldl (fun s x =>
        match (s.core x.2.core).running with
        | some sl => if sl.team = x.1 then leaveRunning s x.2.core .preempt true else s
        | none => s) s
    else leaveRunning s core .preempt true

/-- Effective level of a slot's team: that of a resident team is its record level (16 R456). -/
def slotLevel (s : State) (sl : Slot) : Nat := match tabGet s.teams sl.team with | some t => recordLevel s t | none => 0

/-- The other teams of a resident-only grid that hold a slot; none for another grid. -/
def mates (s : State) (key : Nat) : List (Nat × Team) :=
  match tabGet s.teams key with
  | some t =>
    if residentOnly s t then
      s.teams.filter (fun x => x.2.grid == t.grid && x.1 != key && (slotOf s x.1).isSome)
    else []
  | none => []

/-- A SHADOW slot may take the core: none is RUNNING, or the RUNNING team is lower, or is equal and has used its time slice (04 R110, 16 R464). -/
def mayEnter (s : State) (core : Nat) (sl : Slot) : Bool :=
  sl.st == .shadow && !sl.evict && match (s.core core).running with
    | none => true
    | some r => decide (slotLevel s r < slotLevel s sl) || (slotLevel s r == slotLevel s sl && decide (r.since + 1048576 ≤ s.cycle))

/-- The other teams of a resident-only grid can be switched in together with one (16 R462): each is RUNNING, or may take its core. One that leaves its
core for its own fault or trap, or is evicted, is not waited for. -/
def together (s : State) (key : Nat) : Bool :=
  (mates s key).all (fun x => match slotOf s x.1 with
    | some sl => (match sl.st with
      | .shadow => sl.evict || mayEnter s x.2.core sl
      | .filling => false
      | .draining => !sl.retain
      | _ => true)
    | none => true)

/-- A core's slots, and the teams in them, stand in a state as in another. -/
def keepsCore (s t : State) (core : Nat) : Bool :=
  t.core core == s.core core && (s.core core).slots.all (fun sl => tabGet t.teams sl.team == tabGet s.teams sl.team)

/-- Where a team of a resident-only grid is RUNNING, the grid's other teams are switched in on their cores, as far as R464 lets them and this core keeps
its own (16 R462, log 64). -/
def gatherMates (s : State) (core : Nat) : State :=
  match (s.core core).running with
  | none => s
  | some r =>
    (mates s r.team).foldl (fun s x =>
      match slotOf s x.1, (s.core x.2.core).running.bind (fun y => tabGet s.teams y.team) with
      | some sl, some y =>
        if y.grid ≠ x.2.grid && mayEnter s x.2.core sl && keepsCore s (switchOut s x.2.core) core then switchOut s x.2.core else s
      | _, _ => s) s

/-- Free a team's slot, and switch in another team if none is RUNNING (04 R110). -/
def freeSlot (s : State) (core key : Nat) : State :=
  match slotIdx (s.core core) (fun sl => sl.team == key && sl.st != .empty) with
  | some i => gatherMates (switchIn (s.setSlot core i { st := .empty, team := 0, since := s.cycle, retain := false, evict := false }) core) core
  | none => s

/-- What every end of a team has in common: its windows are lost, its allocation and tags discarded, its chains cancelled, its operations that
are bound to it dropped. -/
def closeTeam (s : State) (key : Nat) : State :=
  match tabGet s.teams key with
  | none => s
  | some t =>
    let s := if liveSlot s key then loseWindow s key else s
    let s := if t.saved || (slotOf s key).isNone then s else clearTags s t
    let s := (List.range 4).foldl (fun s ch => cancelChain s key ch false) s
    let s := dropOps s key
    { s with maskHolds := s.maskHolds.filter (fun h => h.team != key) }

/-- The last group of a RUNNING team has ended: its lines are flushed (07 R219), its entries closed, its frame freed, its slot EMPTY. -/
def endTeam (s : State) (core key : Nat) : State :=
  let s := closeWcs (flushCore s core (fun u => u.team == key)) (fun w => w.writers.any (fun x => x.1 == key))
  let s := (closeTeam s key).modTeam key (fun t => { t with st := .ended, framed := false, frame := 0, saved := false, imageTags := [] })
  clsyncTry (freeSlot s core key) key

/-- The units in flight that a team's last lanes issued complete as if the `exit` had not been issued (05 R172): the end of the team waits for them (log
17). Operations that continue in their engines it does not wait for. -/
def endWaits (s : State) (c : Ctx) : Bool := (teamOps s c.key).any (fun o => !ownEngine o.2)

/-- Would the split's leaving end its team? -/
def lastSplit (c : Ctx) : Bool :=
  c.team.groups.all (fun g => if g.1 = c.group.num then g.2.splits.all (fun sp => sp.idx == c.split.idx) else g.2.ended)

/-- The stack below its merge records (04 R118). Merge records with no deferral below them are dropped too, and the split ceases: R118 names no entry to
take there (log 27). -/
def dropMerges : List StackEnt → List StackEnt
  | .merge _ _ :: t => dropMerges t
  | st => st

/-- `exit` (05 R172). -/
def execExit (s : State) : Out :=
  issue s fun c =>
    let gone := acting s c
    let rest := c.split.mask &&& ~~~gone
    if flushHeld s c.core (fun _ => true) then s else
    let s' := flushCore s c.core (fun _ => true)
    let put := fun (f : Split → Split) => endUnit s' c (fun g => g.modSplit c.split.idx (fun sp => f (tick sp)))
    if rest ≠ 0 then put (fun sp => { sp with pc := s.unit.npc, mask := rest })
    else match dropMerges c.split.stack with
      | .defer pc ls :: t => put (fun sp => { sp with pc := pc, mask := ls, stack := t })
      | _ =>
        if lastSplit c && endWaits s c then s else
        let s1 := endUnit s' c (fun g => { g with splits := g.splits.filter (fun sp => sp.idx != c.split.idx) })
        if c.group.splits.all (fun sp => sp.idx == c.split.idx) then
          let s2 := endGroup s1 c.core c.key c.group.num
          if lastSplit c then endTeam s2 c.core c.key else s2
        else s1

/-! ### Trap records (04 R132, R133, 16 R447) -/

/-- The bits of a trap record, without seq, fault_pend and kill (04 R133). -/
def trapBits (qn : Nat) (q : Queue) (t : Team) (x : Trap) (saved : Bool) : Nat :=
  packBits [(8, x.code), (8, 0), (1, 0), (1, saved.toNat), (1, x.drain.toNat), (1, 0), (12, 0), (4, x.defer), (2, x.split), (5, x.group), (9, x.core),
    (12, qn), (32, 0), (12, q.asid), (20, x.gen), (32, t.grid), (32, t.teamid), (32, x.splitLanes.toNat), (32, x.lanes.toNat), (64, x.cycle),
    (64, x.unit.toNat), (64, x.detail0.toNat), (64, x.detail1.toNat)]

/-- A trap record that names no team, group, core, split or unit (16 R452, R455). -/
def gridTrapBits (s : State) (qn : Nat) (q : Queue) (grid code d0 d1 : Nat) : Nat :=
  packBits [(8, code), (44, 0), (12, qn), (32, 0), (12, q.asid), (20, q.gen), (32, grid), (96, 0), (64, s.cycle), (64, 0), (64, d0), (64, d1)]

/-- A trap record waits to be written. -/
def addTrapRec (s : State) (qn bits : Nat) (team : Option Nat) : State :=
  { s.named with trapRecs := tabPut s.trapRecs s.nextOp { queue := qn, bits := bits, team := team } }

/-- Traps in the order of their records: by the cycle in which they occurred, then group, then split (04 R132). -/
def trapBefore (a b : Trap) : Bool :=
  decide (a.cycle < b.cycle) || (a.cycle == b.cycle && (decide (a.group < b.group) || (a.group == b.group && decide (a.split < b.split))))

def insertTrap (x : Trap) : List Trap → List Trap
  | [] => [x]
  | y :: t => if trapBefore x y then x :: y :: t else y :: insertTrap x t

/-- The traps of a team wait as records, in order. -/
def queueTraps (s : State) (key : Nat) (saved : Bool) : State :=
  match tabGet s.teams key with
  | none => s
  | some t =>
    match tabGet s.queues t.queue with
    | none => s
    | some q => (t.traps.foldl (fun l x => insertTrap x l) []).foldl (fun s x => addTrapRec s t.queue (trapBits t.queue q t x saved) (some key)) s

/-! ### Kills (04 R137) -/

/-- The traps of a team that is not saved, and will not be, wait as records whose saved bit is 0 (04 R128, R132, log 90). -/
def queueUnsaved (s : State) (key : Nat) : State :=
  match tabGet s.teams key with
  | some t => if t.saved then s else queueTraps s key false
  | none => s

/-- A team of a killed grid is discarded as it stands. Traps of its drain that have no record get one (04 R128). The kept team keeps its frame
and its pins (04 R137, 13 R400). -/
def discardTeam (s : State) (key : Nat) (keep : Bool) : State :=
  match tabGet s.teams key with
  | none => s
  | some t =>
    if t.st == .ended || t.st == .failed then s else
    let s := closeTeam (queueUnsaved s key) key
    let s := if keep then s else t.groups.foldl (fun s g => (releasePins s t.queue g.2).modGroup key g.1 Group.cleared) s
    let s := s.modTeam key (fun t => { t with st := .ended, framed := keep && t.framed, frame := if keep then t.frame else 0, traps := [], locks := [], saved := keep && t.saved })
    clsyncTry (freeSlot s t.core key) key

/-- The team of a killed grid whose frame is kept (04 R137). -/
def keptOf (s : State) (grid : Nat) : Option Nat := (tabGet s.grids grid).bind (·.kept)

/-- One team of a grid that is being killed: a RUNNING or DRAINING team drains first. -/
def killTeam (s : State) (key : Nat) (keep : Bool) : State :=
  match slotOf s key, tabGet s.teams key with
  | some sl, some t =>
    if sl.st == .running then leaveRunning s t.core .preempt false
    else if sl.st == .draining then s
    else discardTeam s key keep
  | _, _ => discardTeam s key keep

/-- KILL (04 R137): every team of the grid stops; the frame of `kept` stays for inspection, where it has one. -/
def killGrid (s : State) (grid : Nat) (kept : Option Nat) : State :=
  match tabGet s.grids grid with
  | none => s
  | some g =>
    if g.done then s else
    let kept := kept.filter (fun k => match tabGet s.teams k with | some t => t.framed | none => false)
    let s := { s with grids := tabPut s.grids grid { g with killed := true, kept := if g.kept.isSome then g.kept else kept } }
    ((s.teams.filter (fun t => t.2.grid == grid)).map (·.1)).foldl (fun s k => killTeam s k (some k == kept)) s

/-! ### Trap and fault records are written (04 R132, R133, 07 R240) -/

/-- After the last record of a team, its queue's policy applies: KILL, or PARK (04 R132, R136, 16 R463). KILL applies also for a team that ended
because its frame could not be written (04 R133). -/
def applyPolicy (s : State) (key : Nat) (kill : Bool) : State :=
  match tabGet s.teams key with
  | none => s
  | some t =>
    if t.st == .failed then s
    else if kill then killGrid s t.grid (some key)
    else if t.st == .ended then s
    else s.modTeam key (fun t => { t with st := .parked, resumed := false })

/-- A trap record is written once the ring has room; records of a queue are written in their order. -/
def execTrapRecordWrite (r : Nat) (s : State) : Out :=
  match tabGet s.trapRecs r with
  | none => .next s
  | some x =>
    match tabGet s.queues x.queue with
    | none => .next { s with trapRecs := tabDel s.trapRecs r }
    | some q =>
      if (s.trapRecs.any (fun y => y.2.queue == x.queue && decide (y.1 < r))) ||
          (q.tprod + 2 ^ 32 - tcons s q) % 2 ^ 32 == 2 ^ q.tlog then .next s
      else
        let team := x.team.bind (fun k => tabGet s.teams k)
        let kill := match team with
          | some t => t.st != .failed && (!q.policy || !bitOf x.bits 17)
          | none => false
        let pend := match team with | some t => decide (t.pending > 0) | none => false
        let bits := x.bits + 2 ^ 64 * q.tprod + 2 ^ 16 * kill.toNat + 2 ^ 19 * pend.toNat
        let s := if s.fw.snapOn.getLsbD 1 && s.fw.snapCode == bitsOf x.bits 0 8 then snapTrigger s else s
        let s := s.writeNum (q.tring + 64 * (q.tprod % 2 ^ q.tlog)) 64 bits
        let s := s.putQueue x.queue { q with tprod := (q.tprod + 1) % 2 ^ 32 }
        let s := { s with trapRecs := tabDel s.trapRecs r }
        match x.team with
        | some k => if s.trapRecs.any (fun y => y.2.team == some k) then .next s else .next (applyPolicy s k kill)
        | none => .next s

/-- A fault record is written once the ring has room; it stays until it is answered (07 R240, R241). -/
def execFaultRecordWrite (f : Nat) (s : State) : Out :=
  match tabGet s.faults f with
  | none => .next s
  | some x =>
    match tabGet s.queues x.queue with
    | none => .next s
    | some q =>
      if x.seq.isSome || (q.fprod + 2 ^ 32 - fcons s q) % 2 ^ 32 == 2 ^ q.flog then .next s
      else
        let s := s.writeNum (q.fring + 64 * (q.fprod % 2 ^ q.flog)) 64 (x.bits + 2 ^ 64 * q.fprod)
        let s := s.putQueue x.queue { q with fprod := (q.fprod + 1) % 2 ^ 32 }
        .next { s with faults := tabPut s.faults f { x with seq := some q.fprod } }

/-! ### Retired cores (17 R483) -/

/-- A team becomes FAILED: it is not saved, its context is discarded, its pins are released, and code 0x7D is reported (16 R463, R469). -/
def failTeam (s : State) (key : Nat) : State :=
  match tabGet s.teams key with
  | none => s
  | some t =>
    match tabGet s.queues t.queue with
    | none => s
    | some q =>
      let s := closeTeam (queueUnsaved s key) key
      let s := t.groups.foldl (fun s g => (releasePins s t.queue g.2).modGroup key g.1 Group.cleared) s
      let x : Trap := { code := 0x7d, detail0 := BitVec.ofNat 64 t.core, detail1 := BitVec.ofNat 64 t.teamid, unit := 0, npc := 0, cycle := s.cycle
                        lanes := 0, splitLanes := 0, group := 0, split := 0, defer := 0, core := t.core, drain := false, op := 0, gen := q.gen }
      let s := (addTrapRec s t.queue (trapBits t.queue q t x false) none).modTeam key
        (fun t => { t with st := .failed, framed := false, frame := 0, saved := false, traps := [], locks := [] })
      let s := { s with grids := tabMod s.grids t.grid (fun g => { g with failed := true }) }
      freeSlot s t.core key

/-- A position's core is replaced by a spare of its die; once the die has none left, it stays unplaced. -/
def mapSpare (s : State) (core : Nat) : State :=
  let n := s.fw.spares.getD (dieOf core) 0
  let s := { s with fw := { s.fw with spares := listSet s.fw.spares (dieOf core) (n - 1) } }
  s.modCore core (fun k => { k with retiring := false, gone := decide (n = 0), tlb := [], active := [] })

/-- A retired core whose slots are all EMPTY is replaced. -/
def finishRetire (s : State) (core : Nat) : State :=
  let k := s.core core
  if !k.retiring || k.slots.any (fun sl => sl.st != .empty) then s else mapSpare s core

/-- A core is retired: its running team drains, the others fail at once. -/
def retireCore (s : State) (core : Nat) : State :=
  let s := s.modCore core (fun k => { k with retiring := true })
  let idle := ((s.core core).slots.filter (fun sl => sl.st == .shadow || sl.st == .filling || sl.st == .saving)).map (·.team)
  let s := idle.foldl failTeam s
  let s := leaveRunning s core .retire false
  finishRetire s core

/-! ### Drains and saves (04 R110, R127 to R131) -/

/-- Attention units of a draining team are abandoned: they leave their Quern's set, and their ranges are released (04 R127, 01 R34). -/
def abandonAttention (s : State) (key : Nat) : State :=
  (teamOps s key).foldl (fun s o =>
    match o.2.body with
    | .att a => releaseLocks { s with ops := tabPut s.ops o.1 { o.2 with body := .att { a with sample := none, list := none } } } o.1 (fun _ => true)
    | _ => s) s

/-- Every `mwait` of a draining team that reads through a peer window is abandoned: an answer under way is lost to it, and it reads anew when its
team is RUNNING again (04 R127). -/
def abandonPeers (s : State) (key : Nat) : State :=
  { s with ops := s.ops.map (fun o =>
      match o.2.body with
      | .link l => if o.2.team = key ∧ l.form = .windowWait then (o.1, { o.2 with body := l.asWait l.audited }) else o
      | _ => o) }

/-- A team's accesses are performed: its update-only lines are flushed, its write-combining entries closed (07 R219, 03 R94); what a drain
abandons is abandoned (04 R127). -/
def settleTeam (s : State) (core key : Nat) : State :=
  abandonAttention (abandonPeers (abandonWaits (closeWcs (flushCore s core (fun u => u.team == key)) (fun w => w.writers.any (fun x => x.1 == key))) key) key) key

/-- A slot of a core. -/
def slotAtIdx (s : State) (core i : Nat) : Option Slot := (s.core core).slots[i]?

/-- The slot enters SAVING: the window on its allocation is lost (06 R191). -/
def startSave (s : State) (core i : Nat) (sl : Slot) : State :=
  (loseWindow s sl.team).setSlot core i { sl with st := .saving, since := s.cycle, retain := false, evict := false }

/-- A SHADOW slot outranks the RUNNING one: the core switches (16 R464 case 1). A team of a resident-only grid waits for the others of its grid
(16 R462). -/
def outranks (s : State) (core i : Nat) : Bool :=
  match slotAtIdx s core i, (s.core core).running with
  | some sl, some r => sl.st == .shadow && !sl.evict && decide (slotLevel s r < slotLevel s sl) && together s sl.team
  | _, _ => false

/-- A slot has become SHADOW: it is switched in where no slot is RUNNING, or where it outranks the one that is (04 R110, 16 R464). -/
def shadowed (s : State) (core i : Nat) : State := gatherMates (if outranks s core i then switchOut s core else switchIn s core) core

/-- Every issued unit of a draining team has ended; or an evicted SHADOW slot can use the streaming path. -/
def execDrainComplete (core slot : Nat) (s : State) : Out :=
  match slotAtIdx s core slot with
  | none => .next s
  | some sl =>
    match tabGet s.teams sl.team with
    | none => .next s
    | some t =>
      if sl.st == .shadow then
        (if sl.evict && pathFree (s.core core) then .next (startSave s core slot sl) else .next s)
      else if sl.st != .draining || (teamOps s sl.team).any (fun o => drainsFirst o.2) || flushHeld s core (fun u => u.team == sl.team) then .next s
      else
        let s := settleTeam s core sl.team
        let killed := match tabGet s.grids t.grid with | some g => g.killed | none => false
        if (s.core core).retiring then .next (finishRetire (failTeam s sl.team) core)
        else if killed then .next (discardTeam s sl.team (keptOf s t.grid == some sl.team))
        else if t.cause == .preempt && sl.retain then
          .next (shadowed (s.setSlot core slot { sl with st := .shadow, since := s.cycle, retain := false }) core slot)
        else if pathFree (s.core core) then .next (gatherMates (startSave s core slot sl) core)
        else .next s

/-- Blocks of 4 KiB of a team's allocation that its save writes, as offset and length: those with a dirty byte, or all at the first save
(04 R129). -/
def saveBlocks (s : State) (t : Team) : List (Nat × Nat) :=
  let lo := spadAddr t.core t.spadOff
  ((List.range ((t.spadSize + 4095) / 4096)).map (fun b => (4096 * b, Nat.min 4096 (t.spadSize - 4096 * b)))).filter (fun b =>
    t.saves == 0 || (spadBlocks (lo + b.1) b.2).any (fun x => s.spadDirty.contains x))

/-- The dirty bits of an allocation are cleared. -/
def cleanBlocks (s : State) (t : Team) : State :=
  let lo := spadAddr t.core t.spadOff
  { s with spadDirty := s.spadDirty.filter (fun b => !(decide (lo ≤ 256 * b) && decide (256 * b < lo + t.spadSize))) }

/-- A frame can be written where every byte of it is device memory. -/
def frameOk (s : State) (t : Team) : Bool :=
  let k := placeOf s t.frame
  (k == some .hot || k == some .cold) && placeOf s (imageAddr t + t.spadSize - 1) == k

/-- Regions of a group's part of the frame that a save writes, as offset and length: those that hold a dirty item, or all at the first save, and
always the control region, whose split states have moved (04 R129, R130). Their order is that of R130's table (log 29). -/
def groupRegions (first : Bool) (num : Nat) (g : Group) : List (Nat × Nat) :=
  let base := 8192 + 94208 * num
  let hit := fun (lo n : Nat) => first || g.dirty.any (fun d => decide (lo ≤ d) && decide (d < lo + n))
  ((List.range 8).filter (fun r => hit (8 * r) 8)).map (fun r => (base + 1024 * r, 1024)) ++
  ((List.range 4).filter (fun r => hit (104 + 4 * r) 4)).map (fun r => (base + 8192 + 1024 * r, 1024)) ++
  ((List.range 8).filter (fun r => hit (120 + r) 1)).map (fun r => (base + 12288 + 8192 * r, 8192)) ++ [(base + 77824, 16384)]

/-- Compressed regions that a save writes: the team region, and those of its groups. -/
def savedRegions (t : Team) : List (Nat × Nat) := (0, 8192) :: t.groups.flatMap (fun g => groupRegions (t.saves == 0) g.1 g.2)

/-- Write the frame: what the compressed regions then hold has no defined meaning, and is free; the dirty blocks are copied into the scratchpad
image (04 R129, R130). -/
def writeImage (s : State) (t : Team) : State :=
  (saveBlocks s t).foldl (fun s b => s.write (imageAddr t + b.1) (s.bytes (spadAddr t.core t.spadOff + b.1) b.2))
    ((savedRegions t).foldl (fun s r => s.free (t.frame + r.1) r.2) s)

/-- The team after its save: clean registers, no last-page registers, its entries with it. -/
def Team.afterSave (t : Team) (s : State) : Team :=
  let lo := spadAddr t.core t.spadOff
  { t with
    saved := true, saves := t.saves + 1
    imageTags := (s.tags.filter (fun a => decide (lo ≤ a) && decide (a < lo + t.spadSize))).map (fun a => a - lo)
    locks := t.locks ++ (s.core t.core).locks.filter (fun l => l.team == teamKey t.grid t.teamid)
    groups := t.groups.map (fun g => (g.1, { g.2 with dirty := [], lastPage := [] }))
    st := if !t.traps.isEmpty then .resident else if t.pending > 0 then .faulted else .ready
    readySince := s.cycle, savedAt := s.cycle, levelUp := 0, aged := 0 }

/-- A team's frame is written: the slot is EMPTY, and the team takes the course of its cause. A frame that cannot be written ends the team and
kills its grid, after the team's records where it has any (04 R132, R133). -/
def execContextSaveComplete (core slot : Nat) (s : State) : Out :=
  match slotAtIdx s core slot with
  | none => .next s
  | some sl =>
    match tabGet s.teams sl.team with
    | none => .next s
    | some t =>
      if sl.st != .saving then .next s
      else if !frameOk s t then
        (if t.traps.isEmpty then .next (killGrid s t.grid none)
         else .next (discardTeam s sl.team false))
      else
        let s := writeImage s t
        let t' := t.afterSave s
        let s := clearTags (cleanBlocks s t) t
        let s := s.modCore core (fun k => { k with locks := k.locks.filter (fun l => l.team != sl.team) })
        let s := { s with teams := tabPut s.teams sl.team t' }
        let s := queueTraps s sl.team true
        .next (freeSlot s core sl.team)

/-- A FILLING slot's team is fully present (04 R110, R120, R131, 06 R191): every dirty bit is clear, and its entries are installed, for which it
waits until the core's table has room (03 R100). -/
def execTeamFillComplete (core slot : Nat) (s : State) : Out :=
  match slotAtIdx s core slot with
  | none => .next s
  | some sl =>
    match tabGet s.teams sl.team with
    | none => .next s
    | some t =>
      if sl.st != .filling || !locksFit s core t.locks.length then .next s else
      let lo := spadAddr t.core t.spadOff
      let s := if t.saved then s.write lo (s.bytes (imageAddr t) t.spadSize) else s.zero lo t.spadSize
      let s := cleanBlocks (clearTags s t) t
      let s := { s with tags := t.imageTags.foldl (fun ts o => setAdd ts (lo + o)) s.tags }
      let s := s.modCore core (fun k => { k with locks := k.locks ++ t.locks })
      let s := s.modTeam sl.team (fun t =>
        { t with saved := false, imageTags := [], locks := [], cause := .preempt, resumed := false
                 groups := t.groups.map (fun g => (g.1, { g.2 with dirty := [] })) })
      let s := { s with ops := s.ops.map (fun (o : Nat × Op) => if o.2.team = sl.team then (o.1, { o.2 with core := core }) else o) }
      .next (shadowed (s.setSlot core slot { sl with st := .shadow, since := s.cycle }) core slot)

/-! ### Answers (04 R135, 07 R240) -/

/-- A team's fault record is answered. -/
def answerTeam (s : State) (key : Nat) : State :=
  s.modTeam key (fun t =>
    let n := t.pending - 1
    let go := n == 0 && (t.st == .faulted || (t.st == .parked && t.resumed))
    { t with pending := n, st := if go then .ready else t.st, readySince := if go then s.cycle else t.readySince, levelUp := if go then 0 else t.levelUp })

/-- A fault record is answered: who waited on it walks again. -/
def answerFault (s : State) (f : Nat) : State :=
  match tabGet s.faults f with
  | none => s
  | some x =>
    let s := { s with faults := tabDel s.faults f }
    let va := bitsOf x.bits 448 64
    match x.who with
    | .team key => answerTeam s key
    | .op id => { s with ops := tabMod s.ops id (fun o =>
        match o.body with
        | .copy c => { o with body := .copy { c with fault := 0, retried := va + 1 } }
        | .dir d => { o with body := .dir { d with fault := 0, retried := va + 1 } }
        | .link l => { o with body := .link { l with fault := 0, retried := va + 1 } }
        | _ => o) }
    | .channel key ch => s.modChannel key ch (fun c => { c with fault := 0, retried := va + 1 })
    | .pool id => s.modPool id (fun p => { p with fault := 0, sweep := p.sweep.map (fun w => { w with retried := va + 1 }) })
    | .heal q => { s with heaps := tabMod s.heaps q (fun h => { h with healFault := 0, healTried := va :: h.healTried }) }

end Sys2Proof.Machine
end

