-- ==== Sys2Proof/Machine/Placement.lean ====
section
/-! DEFINITION. Where and when teams are placed: curves (16 R457), room (04 R111), frames, gangs (R459, R460), resident-only grids (R462), the order
of offers (R456), ages (R461), evictions and switches (R464). -/

namespace Sys2Proof.Machine

open Sys2Proof

/-! ### Curves (16 R457) -/

/-- The Hilbert curve of an 8 by 8 half. -/
def hilbert8 (d : Nat) : Nat × Nat :=
  ([1, 2, 4].foldl (fun (a : (Nat × Nat) × Nat) s =>
    let rx := a.2 / 2 % 2
    let ry := (a.2 % 2 + rx) % 2
    let p := if ry = 0 then (if rx = 1 then (s - 1 - a.1.2, s - 1 - a.1.1) else (a.1.2, a.1.1)) else a.1
    ((p.1 + s * rx, p.2 + s * ry), a.2 / 4)) ((0, 0), d)).1

/-- Coordinates at an index of a die's curve. -/
def curveAt (curve d : Nat) : Nat × Nat :=
  if curve = 0 then (d % 16, d / 16)
  else if curve = 1 then (d / 8, d % 8)
  else if curve = 2 then
    (d / 64 * 8 + (d % 2 + d / 4 % 2 * 2 + d / 16 % 2 * 4), d / 2 % 2 + d / 8 % 2 * 2 + d / 32 % 2 * 4)
  else ((hilbert8 (d % 64)).1 + d / 64 * 8, (hilbert8 (d % 64)).2)

/-- A user table up to the entry that ends it. -/
def tableCores (table : List Nat) : List Nat := table.takeWhile (fun c => decide (c < 512))

/-- Cores in curve order, dies from 0 to 3. -/
def curveOrder (g : Grid) : List Nat :=
  if g.launch.curve = 4 then tableCores g.table
  else (List.range 4).flatMap (fun die => (List.range 128).map (fun d => die * 128 + (curveAt g.launch.curve d).2 * 16 + (curveAt g.launch.curve d).1))

/-- Curves skip a core that is unplaced, or is being retired (17 R483). -/
def onCurve (s : State) (c : Nat) : Bool := !(s.core c).gone && !(s.core c).retiring

/-- A curve from the place after a core, wrapping (16 R458). -/
def curveAfter (cores : List Nat) (prev : Option Nat) : List Nat :=
  match prev.bind (fun p => cores.findIdx? (· == p)) with
  | some i => cores.drop (i + 1) ++ cores.take (i + 1)
  | none => cores

/-! ### Room (04 R111) and frames (04 R130, 16 R458) -/

/-- Teams of a core's occupied slots. -/
def occupants (s : State) (k : Core) : List Team := (k.slots.filter (fun sl => sl.st != .empty)).filterMap (fun sl => tabGet s.teams sl.team)

/-- First-fit place for `n` units between extents. -/
def firstFit (lo hi n : Nat) (used : List (Nat × Nat)) : Option Nat :=
  if n = 0 then some lo else ((freeRuns lo hi (sortExtents used)).find? (fun r => decide (n ≤ r.2))).map (·.1)

/-- A scratchpad place: the one named, where it is free, else the first that fits. -/
def spadPlace (n : Nat) (used : List (Nat × Nat)) : Option Nat → Option Nat
  | some o => if used.any (fun x => overlaps o (o + n) x.1 (x.1 + x.2)) then none else some o
  | none => firstFit 0 524288 n used

/-- Room on a core for a team of a grid: its scratchpad offset and its budget. A team that returns to its gang's rectangle keeps its offset, `at_`
(16 R460). -/
def roomOn (s : State) (k : Core) (r : Launch) (at_ : Option Nat := none) : Option (Nat × Nat) :=
  let os := occupants s k
  let left := 2816 - (os.map (·.budget)).foldl (· + ·) 0
  if !k.slots.any (fun sl => sl.st == .empty) || decide (r.groups * r.min + (r.peak - r.min) > left) then none
  else (spadPlace r.spad (os.map (fun t => (t.spadOff, t.spadSize))) at_).map
    (fun o => (o, r.groups * r.min + Nat.min (left - r.groups * r.min) (r.groups * (r.peak - r.min))))

/-- Bytes of a team's frame (04 R130). -/
def Launch.frameBytes (r : Launch) : Nat := 8192 + 94208 * r.groups + r.spad

/-- Frames of a queue that are reserved, with those that a plan has taken. -/
def reservedFrames (s : State) (qn : Nat) (more : List (Nat × Nat)) : List (Nat × Nat) :=
  more ++ ((s.teams.filter (fun t => t.2.queue == qn && t.2.framed)).map (fun t =>
    (t.2.frame, alignUp (8192 + 94208 * t.2.groups.length + t.2.spadSize) 4096)))

/-- Frames for the teams of a plan that have none; none where the area is full. -/
def planFrames (s : State) (qn : Nat) (q : Queue) (n : Nat) : List Nat → List (Nat × Nat × Nat) → Option (List (Nat × Nat × Nat))
  | [], acc => some acc
  | k :: t, acc =>
    match firstFit (alignUp q.frames 4096) (q.frames + q.fbytes) (alignUp n 4096) (reservedFrames s qn (acc.map (·.2))) with
    | some a => planFrames s qn q n t (acc ++ [(k, a, alignUp n 4096)])
    | none => none

/-! ### What is placed at once (16 R458 to R460, R462) -/

/-- A part of a placement: one team anywhere on the curve, one team on its own core of its gang's rectangle, or teams of a cluster by their
positions on a rectangle. -/
inductive Part where
  | single (key : Nat)
  | fixed (key core : Nat)
  | rect (teams : List (Nat × Nat))
  deriving DecidableEq, Repr

/-- Teams of a grid that hold a slot: one that is saved, and whose trap record is still to be written, holds none (16 R460). -/
def residents (s : State) (grid : Nat) : List (Nat × Team) := s.teams.filter (fun t => t.2.grid == grid && t.2.st == .resident && (slotOf s t.1).isSome)

/-- Teams of a grid in a state, by key. -/
def teamsIn (s : State) (grid : Nat) (st : TeamState) : List (Nat × Team) := s.teams.filter (fun t => t.2.grid == grid && t.2.st == st)

/-- The core that a cluster position occupies, from the core of another member (16 R460). -/
def mateCore (r : Launch) (mate t : Nat) (core : Nat) : Nat :=
  dieOf core * 128 + (coreY core - r.cly mate + r.cly t) * 16 + (coreX core - r.clx mate + r.clx t)

/-- The part that holds a READY team. -/
def partFor (s : State) (r : Launch) (key : Nat) (t : Team) : Part :=
  if !r.clustered then .single key else
  match (residents s t.grid).find? (fun x => r.clid x.2.teamid == r.clid t.teamid) with
  | some x => .fixed key (mateCore r x.2.teamid t.teamid x.2.core)
  | none => .rect (((teamsIn s t.grid .ready).filter (fun x => r.clid x.2.teamid == r.clid t.teamid)).map (fun x => (x.1, r.clpos x.2.teamid)))

/-- The scratchpad offset that a team keeps: that of one that returns to its gang's rectangle (16 R460). -/
def keptOff (s : State) (r : Launch) (key : Nat) : Option Nat :=
  match tabGet s.teams key with
  | none => none
  | some t =>
    match partFor s r key t with
    | .fixed _ _ => some t.spadOff
    | _ => none

/-- Teams of a part. -/
def Part.keys : Part → List Nat
  | .single k => [k]
  | .fixed k _ => [k]
  | .rect ts => ts.map (·.1)

/-- A slot on its way out. -/
def leaving (sl : Slot) : Bool := (sl.st == .draining && !sl.retain) || sl.st == .saving || sl.evict

/-- The parts of READY teams of a resident-only grid, each once. -/
def gridParts (s : State) (g : Grid) (ts : List (Nat × Team)) : List Part :=
  ts.foldl (fun ps x => if ps.any (fun p => p.keys.contains x.1) then ps else ps ++ [partFor s g.launch x.1 x.2]) []

/-- The parts that are placed with a READY team, all or none. A resident-only grid is placed whole; one of its teams that was saved alone, by a fault or a
trap, returns alone. Its pre-empted teams wait until no team of it is on its way out, and are placed together, beside a team that has returned
alone meanwhile (16 R462). -/
def partsFor (s : State) (g : Grid) (key : Nat) (t : Team) : List Part :=
  if g.launch.resonly then
    if (residents s t.grid).isEmpty then gridParts s g (teamsIn s t.grid .ready)
    else if t.cause == .preempt then
      if (residents s t.grid).any (fun x => (slotOf s x.1).any leaving) then []
      else gridParts s g ((teamsIn s t.grid .ready).filter (fun x => x.2.cause == .preempt))
    else [partFor s g.launch key t]
  else [partFor s g.launch key t]

/-- The placement counts as a gang (16 R459, R460, R462). -/
def isGang (g : Grid) : Bool := g.launch.clustered || g.launch.resonly

/-- Cores of a rectangle by cluster position, from its origin; none where it leaves the die. -/
def rectangle (r : Launch) (origin : Nat) : List Nat :=
  if coreX origin + r.cw ≤ 16 && coreY origin + r.ch ≤ 8 then (List.range (r.cw * r.ch)).map (fun p => origin + p % r.cw + 16 * (p / r.cw)) else []

/-- A place for a part: the cores that it needs, and which team goes where. -/
structure Rect where
  cores : List Nat
  put : List (Nat × Nat)
  deriving DecidableEq, Repr

/-- The places of a part in the order in which they are tried. Of a rectangle, the cores of the teams to be placed are asked for: at a cluster's
first placement those are all (16 R459). -/
def sitesOf (s : State) (g : Grid) (prev : Option Nat) : Part → List Rect
  | .single k => ((curveAfter (curveOrder g) prev).filter (onCurve s)).map (fun c => { cores := [c], put := [(k, c)] })
  | .fixed k c => if (curveOrder g).contains c && onCurve s c then [{ cores := [c], put := [(k, c)] }] else []
  | .rect ts =>
    let all := curveOrder g
    all.filterMap (fun o =>
      let cs := rectangle g.launch o
      let put := ts.map (fun t => (t.1, cs.getD t.2 0))
      if cs.isEmpty || !put.all (fun x => all.contains x.2 && onCurve s x.2) then none else some { cores := cs, put := put })

/-- A plan: where the grid's last team went, the cores that its teams hold, the placements. -/
structure Plan where
  prev : Option Nat
  used : List Nat
  put : List (Nat × Nat)
  deriving DecidableEq, Repr

/-- Extend a plan by a part, on its first place that fits. `view` shows each core, `open_` tells which cores may be used. -/
def planPart (s : State) (view : Nat → Core) (open_ : Nat → Bool) (g : Grid) (p : Plan) (part : Part) : Option Plan :=
  ((sitesOf s g p.prev part).find? (fun st => st.put.all (fun x => open_ x.2 && !p.used.contains x.2 && (roomOn s (view x.2) g.launch (keptOff s g.launch x.1)).isSome))).map (fun st =>
    { prev := (st.put.getLast?.map (·.2)).orElse (fun _ => p.prev), used := if g.launch.resonly then p.used ++ st.put.map (·.2) else p.used
      put := p.put ++ st.put })

/-- Extend a plan by every part. -/
def planParts (s : State) (view : Nat → Core) (open_ : Nat → Bool) (g : Grid) (p : Plan) : List Part → Option Plan
  | [] => some p
  | part :: t =>
    match planPart s view open_ g p part with
    | some p' => planParts s view open_ g p' t
    | none => none

/-! ### Ages and reserved rectangles (16 R461) -/

/-- Record levels of a core's residents. -/
def levelsOn (s : State) (k : Core) : List Nat := (occupants s k).map (recordLevel s)

/-- Candidate rectangles of a part: those whose residents all have record levels at or below the gang's. -/
def candidates (s : State) (g : Grid) (lvl : Nat) (part : Part) : List Rect :=
  (sitesOf s g none part).filter (fun st => st.cores.all (fun c => (levelsOn s (s.core c)).all (fun l => decide (l ≤ lvl))))

/-- READY teams of queues that are not disabled, whose grids were not killed. -/
def readyTeams (s : State) : List (Nat × Team) :=
  s.teams.filter (fun t => t.2.st == .ready && (match tabGet s.grids t.2.grid, tabGet s.queues t.2.queue with
    | some g, some q => !g.killed && q.qstate != 0
    | _, _ => false))

/-- A waiting gang that has reached its first age keeps a core from teams of its level and below, except its own. -/
def reserved (s : State) (lvl : Nat) (own : List Nat) (core : Nat) : Bool :=
  (readyTeams s).any (fun t => decide (t.2.aged ≥ 1) && !own.contains t.1 && decide (lvl ≤ recordLevel s t.2) &&
    match tabGet s.grids t.2.grid with
    | some g => (partsFor s g t.1 t.2).any (fun p => (candidates s g (recordLevel s t.2) p).any (fun st => st.cores.contains core))
    | none => false)

/-! ### Plans as the machine stands -/

/-- Plan for a READY team and what goes with it, with its frames. -/
def planFor (s : State) (view : Nat → Core) (key : Nat) (t : Team) : Option (Plan × List (Nat × Nat × Nat)) :=
  match tabGet s.grids t.grid, tabGet s.queues t.queue with
  | some g, some q =>
    let parts := partsFor s g key t
    if parts.isEmpty then none else
    let own := parts.flatMap Part.keys
    let used := if g.launch.resonly then (residents s t.grid).map (fun x => x.2.core) else []
    match planParts s view (fun c => !reserved s (recordLevel s t) own c) g { prev := g.prev, used := used, put := [] } parts with
    | none => none
    | some p =>
      let bare := (p.put.map (·.1)).filter (fun k => match tabGet s.teams k with | some x => !x.framed | none => false)
      (planFrames s t.queue q g.launch.frameBytes bare []).map (fun f => (p, f))
  | _, _ => none

/-! ### The order of offers (16 R456) -/

/-- Effective level of a team that is not resident. -/
def effLevel (s : State) (t : Team) : Nat := Nat.min 15 (recordLevel s t + t.levelUp)

/-- Rank of a READY team among those at one level: queues round-robin, then the oldest grid, then the lowest number. -/
def offerRank (s : State) (t : Team) : Nat × Nat × Nat :=
  (match tabGet s.served (effLevel s t) with | some l => (t.queue + 4096 - l - 1) % 4096 | none => t.queue,
    (t.grid + 2 ^ 32 - s.nextGrid) % 2 ^ 32, t.teamid)

/-- One READY team is offered room before another. -/
def offeredBefore (s : State) (a b : Team) : Bool :=
  let ra := offerRank s a
  let rb := offerRank s b
  decide (effLevel s a > effLevel s b) || (effLevel s a == effLevel s b &&
    (decide (ra.1 < rb.1) || (ra.1 == rb.1 && (decide (ra.2.1 < rb.2.1) || (ra.2.1 == rb.2.1 && decide (ra.2.2 < rb.2.2))))))

/-- The first of some teams in the order of offers. -/
def leadOf (s : State) (ts : List (Nat × Team)) : Option (Nat × Team) :=
  ts.foldl (fun best t => match best with | none => some t | some b => if offeredBefore s t.2 b.2 then some t else some b) none

/-- A team that is offered room earlier could be placed: it goes first. -/
def earlierFits (s : State) (own : List Nat) (lead : Team) : Bool :=
  (readyTeams s).any (fun t => !own.contains t.1 && offeredBefore s t.2 lead && (planFor s s.core t.1 t.2).isSome)

/-! ### Placing (16 R458, R463) -/

/-- Place one team on a core: slot EMPTY to FILLING. `at_` is the scratchpad offset that it keeps, if any. -/
def placeTeam (s : State) (g : Grid) (frames : List (Nat × Nat × Nat)) (at_ : Option Nat) (key core : Nat) : State :=
  let k := s.core core
  match roomOn s k g.launch at_, slotIdx k (fun sl => sl.st == .empty) with
  | some (off, budget), some i =>
    let s := s.setSlot core i { st := .filling, team := key, since := s.cycle, retain := false, evict := false }
    s.modTeam key (fun t =>
      { t with st := .resident, core := core, slot := i, spadOff := off, budget := budget, placedAt := s.cycle
               framed := true, frame := ((frames.find? (fun f => f.1 == key)).map (fun f => f.2.1)).getD t.frame
               exempt := g.launch.resonly || decide (t.aged ≥ 2), levelUp := 0, aged := 0 })
  | _, _ => s

/-- Carry out a plan, once every core's streaming path is free. -/
def carryOut (s : State) (g : Grid) (lead : Team) (p : Plan) (frames : List (Nat × Nat × Nat)) : State :=
  if !p.put.all (fun x => pathFree (s.core x.2)) then s else
  let lvl := effLevel s lead
  let s0 := s
  let s := p.put.foldl (fun s x => placeTeam s g frames (keptOff s0 g.launch x.1) x.1 x.2) s
  { s with grids := tabMod s.grids lead.grid (fun g => { g with prev := p.prev }), served := tabPut s.served lvl lead.queue }

/-- A placement of more than one team that stands or falls whole. -/
def wholeGang (parts : List Part) : Bool := parts.any (fun p => match p with | .rect _ => true | _ => false) || decide (parts.length > 1)

/-- Place a READY team and what goes with it; `gang` tells which event this is. -/
def placeReady (s : State) (key : Nat) (gang : Bool) : State :=
  match (readyTeams s).find? (fun t => t.1 == key) with
  | none => s
  | some (_, t) =>
    match tabGet s.grids t.grid with
    | none => s
    | some g =>
      let parts := partsFor s g key t
      let own := parts.flatMap Part.keys
      match leadOf s ((readyTeams s).filter (fun x => own.contains x.1)), planFor s s.core key t with
      | some lead, some (p, f) =>
        if wholeGang parts != gang || earlierFits s own lead.2 then s else carryOut s g lead.2 p f
      | _, _ => s

/-- A team is placed on the first core of its curve that has room, or on its own core of its gang's rectangle. -/
def execTeamPlacement (team : Nat) (s : State) : Out := .next (placeReady s team false)

/-- A cluster, or a resident-only grid, is placed at once. -/
def execGangPlacement (team : Nat) (s : State) : Out := .next (placeReady s team true)

/-! ### Ages (16 R456, R461) -/

/-- A team that is not resident has waited another 65,536 cycles: its effective level rises by one. -/
def execWaitingLevelAge (team : Nat) (s : State) : Out :=
  match (readyTeams s).find? (fun t => t.1 == team) with
  | some (_, t) =>
    if decide (s.cycle < t.readySince + 65536 * (t.levelUp + 1)) || decide (effLevel s t ≥ 15) then .next s
    else .next (s.modTeam team (fun t => { t with levelUp := t.levelUp + 1 }))
  | none => .next s

/-- When a gang first became ready: with its first READY team, once every team of its cluster, or of its resident-only grid, has given up its slot; a team
that becomes READY later does not put it off. A team that returns alone is a gang of one (16 R460, R461, log 22). -/
def waitingSince (s : State) (g : Grid) (t : Team) (parts : List Part) : Nat :=
  let first := (((parts.flatMap Part.keys).filterMap (fun k => (tabGet s.teams k).map (·.readySince))).min?).getD 0
  let mates := s.teams.filter (fun x => x.2.grid == t.grid && (g.launch.resonly || g.launch.clid x.2.teamid == g.launch.clid t.teamid))
  if wholeGang parts then (mates.map (fun x => x.2.savedAt)).foldl Nat.max first else first

/-- The READY teams that are placed with a gang's team, where it is one. -/
def gangOf (s : State) (team : Nat) : Option (Team × Grid × List Part) :=
  match (readyTeams s).find? (fun t => t.1 == team) with
  | none => none
  | some (_, t) =>
    match tabGet s.grids t.grid with
    | none => none
    | some g => if isGang g then some (t, g, partsFor s g team t) else none

/-- A waiting gang reaches its first age: its candidate rectangles are kept for it. -/
def execGangFirstAge (team : Nat) (s : State) : Out :=
  match gangOf s team with
  | none => .next s
  | some (t, g, parts) =>
    let own := parts.flatMap Part.keys
    if own.isEmpty || decide (s.cycle < waitingSince s g t parts + 65536) then .next s
    else .next (own.foldl (fun s k => s.modTeam k (fun t => { t with aged := Nat.max t.aged 1 })) s)

/-! ### Evictions (16 R461, R462, R464) -/

/-- A core without the slots that are on their way out and without some teams. -/
def vacate (k : Core) (gone : List Nat) : Core :=
  { k with slots := k.slots.map (fun sl => if leaving sl || gone.contains sl.team then { sl with st := .empty } else sl) }

/-- The teams that leave with a resident: its whole gang or resident-only grid. -/
def leaveWith (s : State) (key : Nat) (t : Team) : List Nat :=
  match tabGet s.grids t.grid with
  | none => [key]
  | some g =>
    if g.launch.resonly then (residents s t.grid).map (·.1)
    else if g.launch.clustered then ((residents s t.grid).filter (fun x => g.launch.clid x.2.teamid == g.launch.clid t.teamid)).map (·.1)
    else [key]

/-- A team that R461 or R462 placed is exempt for a time, save from a gang of higher record level. -/
def evictable (s : State) (gang : Option Nat) (t : Team) : Bool :=
  !(t.exempt && decide (s.cycle < t.placedAt + 1048576)) || (match gang with | some l => decide (l > recordLevel s t) | none => false)

/-- Evict a team: it drains and saves, or is saved once it can be. -/
def evictTeam (s : State) (key : Nat) : State :=
  match tabGet s.teams key with
  | none => s
  | some t =>
    match slotIdx (s.core t.core) (fun sl => sl.team == key && sl.st != .empty) with
    | none => s
    | some i =>
      match slotAtIdx s t.core i with
      | none => s
      | some sl =>
        match sl.st with
        | .running => leaveRunning s t.core .preempt false
        | .draining => s.setSlot t.core i { sl with retain := false }
        | .shadow => if pathFree (s.core t.core) then startSave s t.core i sl else s.setSlot t.core i { sl with evict := true }
        | .filling => s.setSlot t.core i { sl with evict := true }
        | _ => s

/-- Of two residents, the one to evict: the lower level, then the most recently placed. -/
def evictFirst (s : State) (a b : Team) : Bool :=
  decide (recordLevel s a < recordLevel s b) || (recordLevel s a == recordLevel s b && decide (b.placedAt < a.placedAt))

/-- Residents in the order in which they would be evicted. -/
def insertVictim (s : State) (x : Nat × Team) : List (Nat × Team) → List (Nat × Team)
  | [] => [x]
  | y :: t => if evictFirst s x.2 y.2 then x :: y :: t else y :: insertVictim s x t

/-- A READY team without room for 4,096 cycles: the resident of lowest level below its own whose removal makes room is evicted, with its gang. A gang
has the ages of R461 instead: in their example a gang waits for its second age although one eviction would make room (log 22). -/
def execNoRoomEviction (team : Nat) (s : State) : Out :=
  match (readyTeams s).find? (fun t => t.1 == team) with
  | none => .next s
  | some (_, t) =>
    let gang := match tabGet s.grids t.grid with | some g => isGang g | none => false
    let fits := fun (gone : List Nat) => (planFor s (fun c => vacate (s.core c) gone) team t).isSome
    if gang || decide (s.cycle < t.readySince + 4096) || fits [] then .next s else
    let low := (s.teams.filter (fun x => x.2.st == .resident && decide (recordLevel s x.2 < effLevel s t))).foldl (fun l x => insertVictim s x l) []
    match low.find? (fun x => (leaveWith s x.1 x.2).all (fun k => match tabGet s.teams k with | some v => evictable s none v | none => true) &&
        fits (leaveWith s x.1 x.2)) with
    | some x => .next ((leaveWith s x.1 x.2).foldl evictTeam s)
    | none => .next s

/-- Subsets of a core's residents, the smallest first. -/
def subsets (xs : List Nat) : List (List Nat) :=
  let two := (List.range xs.length).flatMap (fun i => (xs.drop (i + 1)).map (fun y => [xs.getD i 0, y]))
  [[]] ++ xs.map (fun x => [x]) ++ two ++ (if xs.length > 2 then [xs] else [])

/-- The evictions that make room on one core, added to those already chosen: the fewest teams, a gang or resident-only grid counted by its teams
(log 49). -/
def clearCore (s : State) (g : Grid) (lvl key core : Nat) (gone : List Nat) : Option (List Nat) :=
  let k := s.core core
  let here := ((k.slots.filter (fun sl => sl.st != .empty && !leaving sl && !gone.contains sl.team)).filterMap (fun sl =>
    (tabGet s.teams sl.team).map (fun t => (sl.team, t)))).foldl (fun l x => insertVictim s x l) []
  let whole := fun (xs : List Nat) => xs.foldl (fun l x => match tabGet s.teams x with
    | some t => (leaveWith s x t).foldl (fun l y => if l.contains y then l else l ++ [y]) l
    | none => l) gone
  let ok := fun (xs : List Nat) => xs.all (fun x => match tabGet s.teams x with | some v => evictable s (some lvl) v | none => true)
  (((subsets (here.map (·.1))).map whole).filter (fun ws => ok (ws.filter (fun x => !gone.contains x)) && (roomOn s (vacate k ws) g.launch (keptOff s g.launch key)).isSome)).foldl
    (fun best ws => match best with | none => some ws | some b => if ws.length < b.length then some ws else some b) none

/-- The evictions that a place needs. -/
def clearSite (s : State) (g : Grid) (lvl : Nat) (st : Rect) (gone : List Nat) : Option (List Nat) :=
  st.put.foldl (fun acc x => acc.bind (clearCore s g lvl x.1 x.2)) (some gone)

/-- The candidate that needs the fewest evictions, the first on a tie. -/
def fewest (s : State) (g : Grid) (lvl : Nat) (used gone : List Nat) (part : Part) : Option (Rect × List Nat) :=
  ((candidates s g lvl part).filter (fun st => !st.put.any (fun x => used.contains x.2))).foldl (fun best st =>
    match clearSite s g lvl st gone, best with
    | none, b => b
    | some v, none => some (st, v)
    | some v, some b => if v.length < b.2.length then some (st, v) else some b) none

/-- A waiting gang reaches its second age: the residents that keep it from one candidate rectangle are pre-empted. A resident-only grid chooses part by part. -/
def execGangSecondAge (team : Nat) (s : State) : Out :=
  match gangOf s team with
  | none => .next s
  | some (t, g, parts) =>
    let own := parts.flatMap Part.keys
    let lvl := recordLevel s t
    if own.isEmpty || decide (s.cycle < waitingSince s g t parts + 1048576) || (planFor s s.core team t).isSome then .next s else
    let used := if g.launch.resonly then (residents s t.grid).map (fun x => x.2.core) else []
    match parts.foldl (fun (acc : Option (List Nat × List Nat)) p => acc.bind (fun a =>
        (fewest s g lvl a.1 a.2 p).map (fun b => (if g.launch.resonly then a.1 ++ b.1.put.map (·.2) else a.1, b.2)))) (some (used, [])) with
    | some (_, gone) => .next (gone.foldl evictTeam (own.foldl (fun s k => s.modTeam k (fun t => { t with aged := 2 })) s))
    | none => .next s

/-- A SHADOW team of equal level has waited while the RUNNING team ran 1,048,576 cycles: the core switches. -/
def execTimeSliceExpiry (core : Nat) (s : State) : Out :=
  let k := s.core core
  match k.running with
  | none => .next s
  | some r =>
    if decide (s.cycle < r.since + 1048576) || !k.slots.any (fun sl => sl.st == .shadow && !sl.evict && slotLevel s sl == slotLevel s r) then .next s
    else .next (gatherMates (switchOut s core) core)

end Sys2Proof.Machine
end

