-- ==== Sys2Proof/Machine/Distributor.lean ====
section
/-! DEFINITION. The distributor: doorbells (16 R448), launch records and their checks (R449 to R452), dependences and launches (R453, R454), the
completion of grids (R455), `dlaunch` and `qsig` (R465 to R468). -/

namespace Sys2Proof.Machine

open Sys2Proof

/-! ### Launch records (16 R449) -/

/-- A record's fields. -/
def recordOf (w : Nat) : Launch :=
  { entry := BitVec.ofNat 64 (bitsOf w 448 64), args := BitVec.ofNat 64 (bitsOf w 384 64), depAddr := BitVec.ofNat 64 (bitsOf w 320 64)
    doneAddr := BitVec.ofNat 64 (bitsOf w 256 64), depSeq := bitsOf w 208 48, evCount := bitsOf w 176 32, evQueue := bitsOf w 164 12
    prio := bitsOf w 160 4, ntx := bitsOf w 144 16 + 1, nty := bitsOf w 128 16 + 1, ntz := bitsOf w 112 16 + 1
    ctab := ((BitVec.ofNat 57 (bitsOf w 61 51 * 64)).signExtend 64).toNat, curve := bitsOf w 58 3, resonly := bitOf w 57, clustered := bitOf w 56
    cw := bitsOf w 52 4 + 1, ch := bitsOf w 49 3 + 1, groups := bitsOf w 44 5 + 1, spad := bitsOf w 32 12 * 256, peak := bitsOf w 26 6 + 1
    min := bitsOf w 20 6 + 1, kfirst := bitsOf w 15 5, kn := bitsOf w 9 6, evOn := bitOf w 8 }

/-- A core is listed twice in a user table. -/
def listsTwice : List Nat → Bool
  | [] => false
  | c :: t => t.contains c || listsTwice t

/-- A record malformed in itself (16 R452, code 0x78). -/
def badRecord (w : Nat) (r : Launch) : Bool :=
  w % 256 != 0 || r.entry == 0 || r.entry.toNat % 2 != 0 || !canonical r.entry || (r.kn != 0 && r.args.toNat % 4 != 0) || decide (r.kfirst + r.kn > 32) ||
  r.depAddr.toNat % 8 != 0 || !canonical r.depAddr || r.doneAddr.toNat % 8 != 0 || !canonical r.doneAddr || decide (r.curve > 4) ||
  decide (r.min > r.peak) || decide (r.spad > 524288) || decide (r.teams ≥ 2 ^ 32) ||
  (if r.clustered then decide (r.cw * r.ch > 16) || r.ntx % r.cw != 0 || r.nty % r.ch != 0 else r.cw != 1 || r.ch != 1)

/-- The lowest code that refuses a record; `twice` says that its table lists a core twice (16 R452). -/
def refusal (q : Queue) (w : Nat) (r : Launch) (twice : Bool) : Option Nat :=
  if badRecord w r || twice then some 0x78
  else if decide (r.groups * r.min + (r.peak - r.min) > 2816) || decide (r.frameBytes > q.fbytes) then some 0x79
  else if r.resonly && (!q.roOk || decide (r.teams > 512)) then some 0x7a
  else none

/-! ### The distributor's reads (16 R452) -/

/-- An audit event of the distributor: it names the grid only. -/
def gridAudit (s : State) (qn : Nat) (q : Queue) (grid va count cls path kind : Nat) : State :=
  audit s qn { unit := 0, va := va, identity := q.identity.toNat, grid := grid, team := 0, lanes := 0, count := count, detail := 0, cls := cls, core := 0
               group := 0, path := path, kind := kind }

/-- Read the pieces of a range; the address that failed, or the state and the bytes, the denied as zeros. -/
def readCuts (s : State) (q : Queue) : List (Nat × Nat) → Except Nat (State × List Byte × List (Nat × Nat × Nat))
  | [] => .ok (s, [], [])
  | (va, n) :: t =>
    match copyPiece s 0 q 0 false 0 va n with
    | .error _ => .error va
    | .ok p =>
      match badAdmitted s q p with
      | some g => .error (p.va + (g - p.pa))
      | none =>
        let peer := placeOf s p.pa == some .peer
        let s := if peer then s else closePhys s p.pa n
        let bs := if peer then (List.range n).map (Config.freeByte s.fresh) else readPiece s q p
        let den := match deniedClass s q p with
          | some k => [(p.va + ((List.range p.n).find? (byteDenied s q p)).getD 0, deniedCount s q p, k)]
          | none => []
        let s' := notePieces s q none 0 false [p]
        match readCuts (if peer then { s' with fresh := s.fresh + 1 } else s') q t with
        | .error a => .error a
        | .ok (s', bs', den') => .ok (s', bs ++ bs', den ++ den')

/-- Read bytes for a grid, with one audit event of path 0 where some were denied, and whether they were. A read closes the write-combining entries
that it meets (12 R363). -/
def distReadD (s : State) (qn : Nat) (q : Queue) (grid va n : Nat) : Except Nat (State × List Byte × Bool) :=
  if n = 0 then .ok (s, [], false) else
  if !canonical (BitVec.ofNat 64 va) then .error va else
  match readCuts s q (pageCuts va n) with
  | .error a => .error a
  | .ok (s, bs, den) =>
    match den with
    | [] => .ok (s, bs, false)
    | (a, _, k) :: t => .ok (gridAudit s qn q grid a (den.map (·.2.1)).sum ((t.map (·.2.2)).foldl Nat.min k) 0 0, bs, true)

/-- The same, where it does not matter whether bytes were denied. -/
def distRead (s : State) (qn : Nat) (q : Queue) (grid va n : Nat) : Except Nat (State × List Byte) :=
  match distReadD s qn q grid va n with
  | .error a => .error a
  | .ok (s, bs, _) => .ok (s, bs)

/-! ### Refusal and launch (16 R451 to R454) -/

/-- The queue goes past its record. -/
def passRecord (s : State) (qn : Nat) : State := s.modQueue qn (fun q => { q with lhead := (q.lhead + 1) % 2 ^ 32, waiting := none })

/-- A grid as its record makes it. -/
def Grid.of (qn : Nat) (r : Launch) (args : List Word) (table : List Nat) : Grid :=
  { queue := qn, launch := r, args := args, table := table, refused := false, killed := false, failed := false, prev := none, kept := none, done := false }

/-- A refused record: no team, one trap record, and a grid that completes as refused. Of code 0x7C detail1 is the address that failed (16 R469, log 51). -/
def refuseRecord (s : State) (qn grid idx : Nat) (r : Launch) (code d1 : Nat) : State :=
  match tabGet s.queues qn with
  | none => s
  | some q =>
    let s := { s with grids := tabPut s.grids grid { Grid.of qn r [] [] with refused := true } }
    passRecord (addTrapRec s qn (gridTrapBits s qn q grid code idx d1) none) qn

/-- The grid is launched: its teams are READY. -/
def launchGrid (s : State) (qn grid : Nat) (r : Launch) (args : List Word) (table : List Nat) : State :=
  let k := (args.zip (List.range args.length)).map (fun x => (r.kfirst + x.2, x.1))
  let s := { s with grids := tabPut s.grids grid (Grid.of qn r args table) }
  let s := (List.range r.teams).foldl (fun (s : State) t =>
    { s with teams := tabPut s.teams (teamKey grid t) (Team.start qn grid t r.groups r.spad s.cycle r.entry k) }) s
  passRecord s qn

/-- A user table's entries. -/
def tableOf (bs : List Byte) : List Nat := (chunks 512 2 bs).map natOfBytes

/-- Both dependences are tested; one that was met stays met (16 R453). The address that failed, or the state and the record. -/
def testDeps (s : State) (qn : Nat) (q : Queue) (w : Waiting) : Except Nat (State × Waiting) :=
  let ev := match tabGet s.queues w.launch.evQueue with | some e => e.events % 2 ^ 32 | none => 0
  let w := { w with eventMet := w.eventMet || decide ((ev + 2 ^ 32 - w.launch.evCount) % 2 ^ 32 < 2 ^ 31) }
  if w.stampMet then .ok (s, w) else
  match distRead s qn q w.grid w.launch.depAddr.toNat 8 with
  | .error a => .error a
  | .ok (s, bs) => .ok (s, { w with stampMet := decide ((natOfBytes bs + 2 ^ 48 - w.launch.depSeq) % 2 ^ 48 < 2 ^ 47) })

/-- The record that waits is launched if its dependences are met and its argument block is read (16 R454). -/
def tryLaunch (s : State) (qn : Nat) : State :=
  match tabGet s.queues qn with
  | none => s
  | some q =>
    match q.waiting with
    | none => s
    | some w =>
      if q.qstate != 1 then s else
      match testDeps s qn q w with
      | .error a => refuseRecord s qn w.grid w.index w.launch 0x7c a
      | .ok (s, w) =>
        if !(w.stampMet && w.eventMet) then s.modQueue qn (fun q => { q with waiting := some w }) else
        match distRead s qn q w.grid w.launch.args.toNat (4 * w.launch.kn) with
        | .error a => refuseRecord s qn w.grid w.index w.launch 0x7c a
        | .ok (s, bs) => launchGrid s qn w.grid w.launch (wordsOfBytes w.launch.kn bs) w.table

/-- The next grid identifier after one: 0 names no grid (16 R451). -/
def gridAfter (g : Nat) : Nat := if (g + 1) % 2 ^ 32 = 0 then 1 else (g + 1) % 2 ^ 32

/-- The distributor reads and checks the next record of a queue, gives it a grid identifier, and tests its dependences. A table is read for a record
that is not malformed in itself; one with denied bytes is not checked for a core listed twice, since its launch proceeds (16 R452). -/
def execLaunchRecordRead (q : Nat) (s : State) : Out :=
  match tabGet s.queues q with
  | none => .next s
  | some qu =>
    if qu.qstate != 1 || qu.waiting.isSome || qu.lhead == qu.ltail then .next s else
    let w := s.num (qu.lring + 64 * (qu.lhead % 2 ^ qu.llog)) 64
    let r := recordOf w
    let grid := s.nextGrid
    let s := { s with nextGrid := gridAfter grid }
    let d1 := r.entry.toNat
    match (if r.curve = 4 && !badRecord w r then distReadD s q qu grid r.ctab 1024 else .ok (s, [], false)) with
    | .error a =>
      (match refusal qu w r false with
       | some code => .next (refuseRecord s q grid qu.lhead r code d1)
       | none => .next (refuseRecord s q grid qu.lhead r 0x7c a))
    | .ok (s, tb, den) =>
      match refusal qu w r (r.curve == 4 && !den && listsTwice (tableCores (tableOf tb))) with
      | some code => .next (refuseRecord s q grid qu.lhead r code d1)
      | none =>
        let wait : Waiting := { index := qu.lhead, grid := grid, launch := r, table := if r.curve = 4 then tableOf tb else [], stampMet := r.depAddr == 0, eventMet := !r.evOn }
        .next (tryLaunch (s.modQueue q (fun x => { x with waiting := some wait })) q)

/-- The distributor reads the dependences of the record that waits again. -/
def execDependenceReread (q : Nat) (s : State) : Out := .next (tryLaunch s q)

/-! ### Doorbells (16 R448) -/

/-- A write of a doorbell moves ltail forward or leaves it; any other value is ignored and counted. -/
def ringBell (s : State) (q : Nat) (v : DWord) : State :=
  s.modQueue q (fun x =>
    let d := (v.toNat % 2 ^ 32 + 2 ^ 32 - x.lhead) % 2 ^ 32
    if decide (d ≤ 2 ^ x.llog) && decide (d ≥ (x.ltail + 2 ^ 32 - x.lhead) % 2 ^ 32) then { x with ltail := v.toNat % 2 ^ 32 }
    else { x with ignored := x.ignored + 1 })

/-- A doorbell is rung. -/
def execDoorbell (q : Nat) (v : DWord) (s : State) : Out := .next (ringBell s q v)

/-! ### Events and completion (16 R455) -/

/-- A queue's events rise by one, and its interrupt is raised where it is enabled. -/
def raiseEvents (s : State) (qn : Nat) : State := s.modQueue qn (fun q => { q with events := (q.events + 1) % 2 ^ 48 })
def raiseIrq (s : State) (qn : Nat) : State :=
  match tabGet s.queues qn with
  | some q => if q.irqEn then s.irq (queueVector qn) else s
  | none => s

/-- How the completion stamp goes: written, denied, not writable with its cause, or held by a migration. -/
def writeDone (s : State) (qn : Nat) (q : Queue) (grid va w : Nat) : Option State :=
  let trap := fun (cause : Nat) => some (addTrapRec s qn (gridTrapBits s qn q grid 0x7e va cause) none)
  match copyPiece s 0 q 0 true 0 va 8 with
  | .error e => trap (if e = .cause 5 then 3 else 1)
  | .ok p =>
    match deniedClass s q p with
    | some k => some (gridAudit s qn q grid (p.va + ((List.range p.n).find? (byteDenied s q p)).getD 0) (deniedCount s q p) k 5 1)
    | none =>
      if p.readOnly || (p.x.region == 2 && placeOf s p.pa != some .host) then trap 2
      else if (badPart s p.pa 8).isSome then trap 3
      else if heldByMigration s p.pa 8 || heldByCycle s qn va 8 then none
      else some ((notePieces s q none 0 true [p]).writeNum p.pa 8 w)

/-- Work of a grid in engines: operations in flight and chains that run (04 R137). -/
def gridBusy (s : State) (grid : Nat) : Bool :=
  s.ops.any (fun o => o.2.grid == grid) || s.teams.any (fun t => t.2.grid == grid && t.2.channels.any Channel.busy)

/-- A grid has come to its end: every team has ended or failed, after a kill every operation too, and a refused grid's record is written. A team that
ended because its frame could not be written kills the grid once its record is written (04 R132, R133). -/
def gridOver (s : State) (grid : Nat) (g : Grid) : Bool :=
  if g.refused then !s.trapRecs.any (fun r => r.2.queue == g.queue && bitsOf r.2.bits 128 32 == grid)
  else s.teams.all (fun t => t.2.grid != grid || t.2.st == .ended || t.2.st == .failed) &&
    (if g.killed then !gridBusy s grid
     else !s.trapRecs.any (fun r => r.2.team.any (fun k => (tabGet s.teams k).any (fun t => t.grid == grid && t.st == .ended))))

/-- A grid completes: events, the stamp, the interrupt. Its accesses were performed as its teams ended. -/
def execGridComplete (grid : Nat) (s : State) : Out :=
  match tabGet s.grids grid with
  | none => .next s
  | some g =>
    if g.done || !gridOver s grid g then .next s else
    let s1 := raiseEvents { s with grids := tabPut s.grids grid { g with done := true } } g.queue
    match tabGet s1.queues g.queue with
    | none => .next s1
    | some q =>
      let w := packBits [(48, q.events), (1, g.killed.toNat), (1, g.refused.toNat), (1, g.failed.toNat)]
      let va := g.launch.doneAddr.toNat
      let skip := va == 0 || va % 8 != 0 || !canonical g.launch.doneAddr
      match (if skip then some s1 else writeDone s1 g.queue q grid va w) with
      | none => .next s
      | some s2 => .next (raiseIrq s2 g.queue)

/-! ### `dlaunch` and `qsig` (16 R465 to R468) -/

/-- `dlaunch`: a release, a load of 64 bytes, an append. The read is a load of the issuing group and meets the range-lock table as other loads do, with
code 0x10, though 03 R98 does not list it (log 79). A record in a peer's window leaves a link operation, which appends it when it has come (15 R434). -/
def execDlaunch (l : BitVec 4) (d : BitVec 5) (a : BitVec 4) (b : BitVec 5) (s : State) : Out :=
  issue s fun c =>
    let m := c.split.mask
    let t := targetOf c b
    let looks := [lookAt s c .load none true (lowLane m) (c.group.kpair (2 * a.toNat)).toNat 64 64]
    let far := looks.any (Look.remote s)
    if far && replayFull s c then s else
    memCourse s c (some m) .load 0 looks (targetCond s c t) {} (fun s' =>
      let s1 := releaseWrites s' c
      if far then
        let (s2, reqs) := windowBegin s1 c .load false false false (fun _ => []) looks
        beginOp (finish s2 c {}) c m l.toNat (launchOp d.toNat t looks reqs)
      else
        let s1 := settle s1 c looks
        let bs := match (looks.filterMap (·.piece)) with | p :: _ => readPiece s1 c.q p | [] => []
        let (s3, kd) := appendRecord (noteLooks s1 c false false looks) t bs
        finish s3 c { k := [(d.toNat, kd)] }) (releaseWaits s c)

/-- `qsig`: a release, then the target's events rise. -/
def execQsig (_l : BitVec 4) (b : BitVec 5) (s : State) : Out :=
  issue s fun c =>
    let t := targetOf c b
    match lowest (targetCond s c t) with
    | some x => takeTrap s (unitSite s c) x
    | none =>
      if releaseWaits s c then s else finish (raiseIrq (raiseEvents (releaseWrites s c) t) t) c {}

end Sys2Proof.Machine
end

