-- ==== Sys2Proof/Machine/Gleaner.lean ====
section
/-! DEFINITION. The Gleaner: the page epoch's releases (01 R32, R33), relocation cycles (13 R392 to R398, R490), heal passes
(13 R395); replies to commands (17 R471). -/

namespace Sys2Proof.Machine

open Sys2Proof

/-! ### Replies (17 R471, R486) -/

/-- Masters as the reply's field numbers them. -/
def Master.num : Master → Nat
  | .host => 0
  | .board => 1
  | .remote0 => 2
  | .remote1 => 3

/-- A reply record's bits (17 R471). -/
def replyBits (r : Reply) : Nat :=
  packBits ([(8, r.status), (2, Master.num r.master), (22, 0), (32, r.tag.toNat)] ++ ((List.range 7).map (fun i => (64, (r.r.getD i 0).toNat))))

/-- Host addresses, behind the host window (log 19). -/
def hostPa (h : Nat) : PAddr := 0xc000000000 + h
def hostFits (h n : Nat) : Bool := decide (h + n ≤ 2 ^ 37)

/-- A reply to a remote owner: a management flit on the first port towards it; none leaves while no port is up (17 R470, log 101). -/
def remoteReply (s : State) (dev : Nat) (x : Reply) : State :=
  let p := firstPort s dev
  if p ≥ 12 then s
  else { s with sent := { port := p, header := mgmtHeader dev kindAnswer, payload := bytesOf 64 (replyBits x), va := 0 } :: s.sent }

/-- A reply, by the mailbox of its master (17 R470). One for the host is written to its reply ring and raises vector 0. -/
def addReply (s : State) (m : Master) (tag : BitVec 32) (status : Nat) (r : List DWord) : State :=
  let x : Reply := { master := m, tag := tag, status := status, r := r }
  let s := { s with replies := x :: s.replies }
  if m = .host then
    let at_ := s.fw.repBase.toNat + 64 * (s.fw.repTail % 64)
    let s := if hostFits at_ 64 then s.writeNum (hostPa at_) 64 (replyBits x) else s
    { s with fw := { s.fw with repTail := (s.fw.repTail + 1) % 2 ^ 32 } }.irq 0
  else if m = .board then { s with fw := { s.fw with i3cReplies := s.fw.i3cReplies ++ [replyBits x] } }
  else remoteReply s (Config.ownerDevice (Master.num m - 2)) x

/-- The second reply of a command that was accepted. -/
def secondReply (s : State) (cmd : Option (Master × BitVec 32)) (r : List DWord) : State :=
  match cmd with
  | some (m, tag) => addReply s m tag 0 r
  | none => s

/-! ### Freeing released objects (01 R33, 10 R325) -/

/-- Every Quern's report is empty or above a release's e_rel. -/
def epochPassed (s : State) (eRel : Nat) : Bool :=
  s.ops.all (fun o => match o.2.body with | .att a => (match a.sample with | some e => decide (e > eRel) | none => true) | _ => true)

/-- Released space is freed, by its place in the list of releases: its allocation bit and its tag go, and its granules may be reused. -/
def execObjectFree (r : Nat) (s : State) : Out :=
  match s.released[r]? with
  | none => .next s
  | some x =>
    if !epochPassed s x.eRel then .next s else
    let s := { s with released := s.released.eraseIdx r }
    match tabGet s.queues x.queue, tabGet s.heaps x.queue with
    | some q, some h => .next (syncHeap (dropNarrow (setAlloc s q h x.addr false) x.queue x.addr) x.queue)
    | _, _ => .next s

/-! ### Forwarding entries (13 R397) -/

/-- The forwarding entries of a cycle, as the barrier reads them. -/
def fwdList (cycle : Nat) (forwarded : Bool) (os : List RelObj) : List Fwd :=
  os.map (fun o => { cycle := cycle, forwarded := forwarded, old := o.old, new := o.new })

/-! ### Starting a cycle (13 R392) -/

/-- Some entry of a Quern or conversion operation of the queue covers a byte of an object (13 R399). -/
def lockedRange (s : State) (q : Queue) (a n : Nat) : Bool :=
  let quern := fun (id : Nat) => match (tabGet s.ops id).map Op.body with | some (.pass _) => true | some (.conv _) => true | _ => false
  s.cores.any (fun k => k.2.locks.any (fun l => l.asid == some q.asid && quern l.op && overlaps a (a + n) l.lo l.hi)) ||
  s.teams.any (fun t => t.2.locks.any (fun l => l.asid == some q.asid && quern l.op && overlaps a (a + n) l.lo l.hi))

/-- An object may be selected. -/
def selectable (s : State) (q : Queue) (h : Heap) (a : Nat) : Bool :=
  let hd := headerAt s q a
  h.inRange a 16 && soundAt s q h a hd && hd.rel == 0 && hd.pins == 0 && !hd.frozen && !lockedRange s q a (16 + hd.size) &&
  !s.released.any (fun r => r.addr == a && tabGet s.queues r.queue == some q) &&
  !s.pools.any (fun p => match p.2.cold with | some m => tabGet s.queues p.2.queue == some q && (m.src == a || m.dest == a) | none => false)

/-- A range of virtual bytes can be copied: its pages have leaves, none of its granules is uncorrectable, and, for a destination, they can be written.
An object that cannot is not selected, and is withdrawn before the flip (log 86). -/
def copyable (s : State) (q : Queue) (a n : Nat) (write : Bool) : Bool :=
  match hwPieces s q a n with
  | some ps => ps.all (fun p => (badIn s p.1 p.2).isNone) &&
      (!write || (pageCuts a n).all (fun k => match walk s q k.1 with | .leaf x => x.w && x.region != 3 | _ => false))
  | none => false

/-- A destination: free and aligned. -/
def destOk (runs : List (Nat × Nat)) (new n : Nat) : Bool :=
  new % 16 == 0 && runs.any (fun r => decide (r.1 ≤ new) && decide (new + 16 + n ≤ r.1 + r.2))

/-- The objects of a proposed set, (source, destination), that a cycle can move: at most 4,096 and 64 MiB. A relocation stays in one range (13 R392)
and allocates in the hot range (13 R373), so it moves hot objects only. -/
def selectSet (s : State) (qn : Nat) (q : Queue) (h : Heap) (set : List (Nat × Nat)) : List RelObj :=
  (set.foldl (fun (acc : List RelObj × Nat) x =>
    let n := (headerAt s q x.1).size
    let ok := selectable s q h x.1 && h.inHot x.1 1 && h.inHot x.2 1 && destOk (freeIn s qn q h true) x.2 n &&
      copyable s q x.1 (16 + n) false && copyable s q x.2 (16 + n) true &&
      acc.1.all (fun o => o.old != x.1 && !overlaps x.2 (x.2 + 16 + n) o.new (o.new + 16 + o.size)) &&
      decide (acc.1.length < 4096) && decide (acc.2 + 16 + n ≤ 67108864)
    if ok then (acc.1 ++ [{ old := x.1, new := x.2, size := n }], acc.2 + 16 + n) else acc) ([], 0)).1

/-- Start a cycle on a set, the implementation's choice. -/
def startCycle (s : State) (qn : Nat) (set : List (Nat × Nat)) (cmd : Option (Master × BitVec 32)) : State :=
  match tabGet s.heaps qn, tabGet s.queues qn with
  | some h, some q =>
    let os := selectSet s qn q h set
    let n := h.flips + 1
    let s := os.foldl (fun s o => putHeader s q o.old { headerAt s q o.old with rel := 1 }) s
    let s := writeFwd s q h n 1 os
    let h := { h with fwd := h.fwd ++ fwdList n false os
                      cycle := some { st := .copying, objs := os, rounds := 0, finalAt := 0, cmd := cmd, eRel := 0, dirty := [], held := [] } }
    syncHeap { s with heaps := tabPut s.heaps qn h } qn
  | _, _ => s

/-- `largest` of a heap. -/
def largestRun (s : State) (qn : Nat) (q : Queue) (h : Heap) : Nat := (freeIn s qn q h true).foldl (fun m r => Nat.max m (r.2 / 16)) 0

/-- The heap's trigger starts a cycle, at most once every 2^20 cycles. A test that finds a cycle before its acknowledgement starts none, and
counts (13 R490). -/
def execRelocAutoStart (q : Nat) (set : List (Nat × Nat)) (s : State) : Out :=
  match tabGet s.heaps q, tabGet s.queues q with
  | some h, some qu =>
    if h.trigger = 0 || decide (s.cycle < h.autoAt) || decide (largestRun s q qu h ≥ 4096 * h.trigger) then .next s
    else
      let s' := { s with heaps := tabPut s.heaps q { h with autoAt := s.cycle + 2 ^ 20 } }
      if h.cycle.isSome then .next s' else .next (startCycle s' q set none)
  | _, _ => .next s

/-! ### The states of a cycle (13 R392) -/

/-- A cycle's step, where it stands in a state. -/
def cycleStep (s : State) (qn : Nat) (st : RelState) (f : Heap → Queue → RelCycle → State) : Out :=
  match tabGet s.heaps qn, tabGet s.queues qn with
  | some h, some q =>
    match h.cycle with
    | some c => if c.st = st then .next (f h q c) else .next s
    | none => .next s
  | _, _ => .next s

/-- Change a heap's cycle. -/
def putCycle (s : State) (qn : Nat) (h : Heap) (c : Option RelCycle) : State := syncHeap { s with heaps := tabPut s.heaps qn { h with cycle := c } } qn

/-- The body of an object is copied to its destination: a read of it closes the write-combining entries of a narrow page. One that cannot be copied is
withdrawn at the flip (log 86). -/
def copyBody (s : State) (qn : Nat) (q : Queue) (o : RelObj) : State :=
  if !(copyable s q o.old (16 + o.size) false && copyable s q o.new (16 + o.size) true) then s else
  let s := closeWcs s (fun w => w.queue == qn && w.body == o.old + 16)
  hwWrite (hwNote s q o.old (16 + o.size) false) q (o.new + 16) ((hwRead s q (o.old + 16) o.size).getD [])

/-- Every line is copied once. -/
def execRelocCopyDone (q : Nat) (s : State) : Out :=
  cycleStep s q .copying fun h qu c => putCycle (c.objs.foldl (fun s o => copyBody s q qu o) s) q h (some { c with st := .recopy })

/-- A recopy round ends: another, which copies the dirty lines' objects again, where dirty lines remain and fewer than 4 are done, else the hold
begins. -/
def execRelocRecopyDone (q : Nat) (s : State) : Out :=
  cycleStep s q .recopy fun h qu c =>
    if !c.dirty.isEmpty && decide (c.rounds < 4) then
      putCycle ((c.objs.filter (fun o => c.dirty.contains o.old)).foldl (fun s o => copyBody s q qu o) s) q h
        (some { c with rounds := c.rounds + 1, dirty := [] })
    else
      let s := c.objs.foldl (fun s o => putHeader s qu o.old { headerAt s qu o.old with rel := 2 }) s
      putCycle s q h (some { c with st := .final, finalAt := s.cycle })

/-- Copy an object to its destination: a still header, the body, the tag of a narrow page. -/
def copyObject (s : State) (qn : Nat) (q : Queue) (h : Heap) (o : RelObj) : State :=
  let s := closeWcs s (fun w => w.queue == qn && w.body == o.old + 16)
  let hd := headerAt s q o.old
  let s := hwWrite (hwNote s q o.old (16 + hd.size) false) q (o.new + 16) ((hwRead s q (o.old + 16) hd.size).getD [])
  let s := putHeader s q o.new { hd with rel := 0 }
  let s := match narrowAt s qn o.old with | some t => setNarrow s { t with obj := o.new } | none => s
  let s := putHeader s q o.old { hd with rel := 3 }
  setAlloc s q h o.new true

/-- The flip: remaining lines are copied, entries are forwarded, ce rises; it waits for the heal pass of the cycle before (13 R396). The table
of two cycles before is retired. -/
def execRelocFlip (q : Nat) (s : State) : Out :=
  cycleStep s q .final fun h qu c =>
    if h.heal then s else
    let s := (c.objs.filter (fun o => !(copyable s qu o.old (16 + o.size) false && copyable s qu o.new (16 + o.size) true))).foldl
      (fun s o => withdraw s q o.old) s
    match tabGet s.heaps q with
    | none => s
    | some h =>
    let c := h.cycle.getD c
    let n := h.flips + 1
    let s := c.objs.foldl (fun s o => copyObject s q qu h o) s
    let s := writeFwd s qu h n 2 c.objs
    let old := (h.fwd.filter (fun f => f.cycle + 2 == n)).map (fun f => ({ old := f.old, new := f.new, size := 0 } : RelObj))
    let s := writeFwd s qu h (n - 2) 3 old
    let h := { h with flips := n, fwd := h.fwd.filter (fun f => f.cycle + 1 == n) ++ fwdList n true c.objs }
    let c := { c with st := .ack, eRel := s.pe }
    putCycle { s with pe := s.pe + 1 } q h (some c)

/-- The hold would last too long: the cycle is abandoned. -/
def execRelocFinalTimeout (q : Nat) (s : State) : Out :=
  cycleStep s q .final fun h qu c =>
    if s.cycle < c.finalAt + 6000 then s else
    let s := c.objs.foldl (fun s o => putHeader s qu o.old { headerAt s qu o.old with rel := 0 }) s
    let s := writeFwd s qu h (h.flips + 1) 0 c.objs
    let s := c.held.foldl (fun s w => s.write w.1 w.2) s
    secondReply (putCycle s q { h with fwd := h.fwd.filter (fun f => f.cycle != h.flips + 1) } none) c.cmd []

/-- The place of a physical byte in a list of pieces, as an offset from their start. -/
def offsetIn : List (PAddr × Nat) → Nat → Option Nat
  | [], _ => none
  | p :: t, pa => if decide (p.1 ≤ pa) && decide (pa < p.1 + p.2) then some (pa - p.1) else (offsetIn t pa).map (· + p.2)

/-- Update-only elements that wait for a source are performed on its destination, with the writes that were held (13 R392). -/
def moveElements (s : State) (q : Queue) (o : RelObj) : State :=
  match hwPieces s q (o.old + 16) o.size with
  | none => s
  | some ps =>
    let mine := s.cores.flatMap (fun k => k.2.upd.flatMap (fun u => u.elems.filterMap (fun e =>
      (offsetIn ps (u.pa + 4 * e.1)).map (fun f => (u.op, u.ty, o.new + 16 + f, e.2)))))
    dropUpdates (mine.foldl (fun s x =>
      match walk s q x.2.2.1 with
      | .leaf y => s.writeNum (y.pa x.2.2.1) 4 (bankUpd x.1 x.2.1 (BitVec.ofNat 32 (s.num (y.pa x.2.2.1) 4)) x.2.2.2).toNat
      | _ => s) s) q (o.old + 16) o.size

/-- Where a byte of a source lies after the flip: in its destination. A byte of none stays where it is. -/
def movedByte (s : State) (q : Queue) (os : List RelObj) (pa : PAddr) : PAddr :=
  (os.findSome? (fun o =>
    ((hwPieces s q o.old (16 + o.size)).bind (fun ps => offsetIn ps pa)).bind (fun f =>
      match walk s q (o.new + f) with
      | .leaf x => some (x.pa (o.new + f))
      | _ => none))).getD pa

/-- The held writes of the host are performed on the destinations, in order of arrival (13 R392). -/
def moveHeld (s : State) (q : Queue) (c : RelCycle) : State :=
  c.held.foldl (fun s w => (w.2.zip (List.range w.2.length)).foldl (fun s b => s.write (movedByte s q c.objs (w.1 + b.2)) [b.1]) s) s

/-- The flip is acknowledged: holds end, sources are released with the flip's e_rel, the heal pass begins. Every access that a core resolved
under the old ce is performed in its own step. -/
def execRelocAck (q : Nat) (s : State) : Out :=
  cycleStep s q .ack fun h qu c =>
    let s := moveHeld (c.objs.foldl (fun s o => moveElements s qu o) s) qu c
    let s := { s with released := s.released ++ c.objs.map (fun o => { queue := q, addr := o.old, bytes := 16 + o.size, eRel := c.eRel }) }
    putCycle s q { h with heal := true, healCmd := c.cmd, cycles := (h.cycles + 1) % 2 ^ 32 } none

/-! ### The heal pass (13 R395) -/

/-- A reference after a heal pass: healed where it is stale and resolves. -/
def healedRef (s : State) (q : Queue) (h : Heap) (r : DWord) : DWord :=
  if r = 0 || !wellFormedRef r || refAge h r = 0 then r else
  match resolve s q h r with
  | .obj _ _ v => v
  | _ => r

/-- Heal a slot in memory, where the queue could write it (13 R381). -/
def healWord (s : State) (qn : Nat) (q : Queue) (h : Heap) (va : Nat) : State :=
  match walk s q va with
  | .leaf x =>
    let p : Piece := { va := va, pa := x.pa va, n := 8, x := x, walked := false }
    let r := BitVec.ofNat 64 (s.num p.pa 8)
    let v := healedRef s q h r
    if v = r || p.readOnly || x.region == 2 || (deniedClass s q p).isSome || inDirectory s qn va then hwNote s q va 8 false
    else (hwNote s q va 8 true).writeNum p.pa 8 v.toNat
  | _ => s

/-- The slots of a referrer table entry (13 R375). An entry with a reserved bit set, or with fields out of their range, is refused (01 R12). -/
def referrerSlots (e : Nat) : List Nat :=
  if bitsOf e 0 16 != 0 || bitsOf e 32 32 == 0 || bitsOf e 16 16 == 0 || bitsOf e 16 16 % 8 != 0 || bitsOf e 64 64 % 8 != 0 then []
  else (List.range (bitsOf e 32 32)).map (fun i => (bitsOf e 64 64 + bitsOf e 16 16 * i) % 2 ^ 64)

/-- An access of the heal pass to a directory entry: refused where its translation is still invalid after the answer (12 R491). -/
def healAccess (s : State) (q : Queue) (h : Heap) (p : Pool) (write : Bool) (x : Nat) : Thr :=
  match thrAccess s q p.sw.home write (p.entry x) 64 with
  | .invalid w a l e => if h.healTried.contains a then .refused else .invalid w a l e
  | r => r

/-- What the heal of an entry needs: nothing where its ref is not stale, or it is invalid or malformed, since no field of such an entry is acted on
(01 R12); else that it can be changed. -/
def healNeed (s : State) (q : Queue) (h : Heap) (p : Pool) (x : Nat) : Thr :=
  match healAccess s q h p false x with
  | .ok ps =>
    let e := entryAt s ps
    if e.fmt = 7 || e.malformed p.tokens || healedRef s q h e.ref = e.ref then .ok [] else healAccess s q h p true x
  | r => r

/-- Heal the directory of a pool: an entry change that replaces ref alone. An entry that cannot be read or changed stays as it is. -/
def healPool (s : State) (q : Queue) (h : Heap) (p : Pool) : State :=
  (List.range p.sw.count).foldl (fun s x =>
    match healNeed s q h p x with
    | .ok [] => s
    | .ok ps => changeEntry s p.sw.home ps (fun e => { e with ref := healedRef s q h e.ref })
    | _ => s) s

/-- The first access of the heal pass to the queue's directories whose translation is invalid. -/
def healFaults (s : State) (qn : Nat) (q : Queue) (h : Heap) : Option Thr :=
  (s.pools.filter (fun p => p.2.queue == qn)).findSome? (fun p => (List.range p.2.sw.count).findSome? (fun x =>
    match healNeed s q h p.2 x with
    | .invalid w a l e => some (.invalid w a l e)
    | _ => none))

/-- A page migration holds a slot or an entry that the heal pass would change (07 R233). -/
def healHeld (s : State) (qn : Nat) (q : Queue) (h : Heap) (slots : List Nat) : Bool :=
  slots.any (fun va => match walk s q va with | .leaf x => heldByMigration s (x.pa va) 8 | _ => false) ||
  (s.pools.filter (fun p => p.2.queue == qn)).any (fun p => (List.range p.2.sw.count).any (fun x =>
    match healNeed s q h p.2 x with
    | .ok ps => heldPieces s ps
    | _ => false))

/-- Heal the reference registers of a team, and the reference operands of its replay records and of its units in flight. -/
def healTeam (s : State) (q : Queue) (h : Heap) (key : Nat) : State :=
  let f := healedRef s q h
  let s' := s.modTeam key (fun t => { t with groups := t.groups.map (fun g => (g.1, { g.2 with
    h := g.2.h.map (fun r => (r.1, r.2.map f))
    splits := g.2.splits.map (fun sp => { sp with replay := sp.replay.map (fun r => { r with h := r.h.map (fun x => (x.1, x.2.map f)) }) }) })) })
  { s' with ops := s'.ops.map (fun o => if o.2.team = key then (match o.2.body with | .att a => (o.1, { o.2 with body := .att { a with ref := f a.ref } }) | _ => o) else o) }

/-- The slots of the referrer table's entries (13 R375). -/
def allSlots (s : State) (q : Queue) (h : Heap) : List Nat :=
  ((List.range h.refCount).map (fun i => hwNum s q (h.refTab.toNat + 16 * i) 16)).flatMap referrerSlots

/-- Heal the slots of the referrer tables, the directories and the teams. -/
def healAll (s : State) (q : Nat) (qu : Queue) (h : Heap) : State :=
  let slots := allSlots s qu h
  let s := hwNote s qu h.refTab.toNat (16 * h.refCount) false
  let s := slots.foldl (fun s va => healWord s q qu h va) s
  let s := (s.pools.filter (fun p => p.2.queue == q)).foldl (fun s p => healPool s qu h p.2) s
  (s.teams.filter (fun t => t.2.queue == q)).foldl (fun s t => healTeam s qu h t.1) s

/-- The heal pass has replaced every stale reference where the Gleaner looks, and ends. An invalid translation of a directory entry writes a fault
record with source 4, and the pass waits on it (12 R491). -/
def execHealPassComplete (q : Nat) (s : State) : Out :=
  match tabGet s.heaps q, tabGet s.queues q with
  | some h, some qu =>
    if !h.heal || h.healFault != 0 || healHeld s q qu h (allSlots s qu h) then .next s else
    match healFaults s q qu h with
    | some (.invalid w a l e) =>
      let t := thrFault s q (.heal q) none w a l e
      .next { t with heaps := tabPut t.heaps q { h with healFault := s.nextOp } }
    | _ =>
    let s := healAll s q qu h
    let s := syncHeap { s with heaps := tabPut s.heaps q { h with heal := false, healCmd := none, healFault := 0, healTried := [] } } q
    .next (secondReply s h.healCmd [])
  | _, _ => .next s

end Sys2Proof.Machine
end

