-- ==== Sys2Proof/Machine/Migration.lean ====
section
/-! DEFINITION. Page migration (07 R233, R234), and the host's reads and writes of memory (03 R108). -/

namespace Sys2Proof.Machine

open Sys2Proof

/-! ### Moving lines -/

/-- A table of lines in which one line carries what another does. -/
def carryOver (t : Tab Nat) (src dest : Nat) : Tab Nat :=
  match tabGet t src with
  | some c => tabPut t dest c
  | none => tabDel t dest

/-- Copy one line: its bytes, and the class and the identity that it carries (07 R236). No error mark travels with it (07 R210). -/
def copyLine (s : State) (src dest : Nat) : State :=
  { s.write dest (s.bytes src 128) with lineClass := carryOver s.lineClass (src / 128) (dest / 128)
                                        lineIdent := carryOver s.lineIdent (src / 128) (dest / 128) }

/-- Copy lines of a page, by number. -/
def copyLines (s : State) (m : Migration) (lines : List Nat) : State :=
  lines.foldl (fun s l => copyLine s (128 * l) (m.dest + (128 * l - m.src))) s

/-- Every line of the source. -/
def Migration.all (m : Migration) : List Nat := (List.range (m.size / 128)).map (fun i => m.src / 128 + i)

/-- Change a migration. -/
def State.putMig (s : State) (g : Nat) (m : Migration) : State := { s with migrations := tabPut s.migrations g m }

/-! ### Start and end -/

/-- Outcomes as r0 of the second reply gives them, numbered as the table lists them (log 18). -/
def migDone : DWord := 0
def migRegion : DWord := 1
def migChanged : DWord := 2

/-- A migration of a die runs (07 R233: at most 8 at once). -/
def runningOn (s : State) (die : Nat) : Nat := (s.migrations.filter (fun m => m.2.begun && m.2.die == die)).length

/-- A command is accepted: START reads the leaf and arms the dirty bitmap. A heap or device page is refused with its status. -/
def beginMigration (s : State) (g : Nat) : State :=
  match tabGet s.migrations g with
  | none => s
  | some m =>
    let gone := fun (r : DWord) => secondReply { s with migrations := tabDel s.migrations g } (some m.cmd) [r]
    match (tabGet s.queues m.queue).map (fun q => walk s q m.va) with
    | some (.leaf x) =>
      if x.leafAt ≠ m.leafAt then gone migChanged
      else if x.region = 1 || x.region = 2 then gone migRegion
      else s.putMig g { m with e0 := x.leaf, src := x.frame, size := x.size, begun := true, st := .precopy, rounds := 0, lines := [], wasDirty := false }
    | _ => gone migChanged

/-- A migration ends: its reply, and commands of its die that wait begin, until 8 run. -/
def endMigration (s : State) (g : Nat) (m : Migration) (r : DWord) : State :=
  let s := secondReply { s with migrations := tabDel s.migrations g } (some m.cmd) [r]
  (s.migrations.filter (fun x => !x.2.begun && x.2.die == m.die)).foldl (fun s x => if runningOn s m.die < 8 then beginMigration s x.1 else s) s

/-- Where a migration stands in a state. -/
def migStep (s : State) (g : Nat) (f : Migration → State) (st : MigState) : Out :=
  match tabGet s.migrations g with
  | some m => if m.begun && m.st == st then .next (f m) else .next s
  | none => .next s

/-! ### The states of a migration (07 R233) -/

/-- Remove a page's entries from every cache (07 R231). -/
def dropPage (s : State) (asid va size : Nat) : State := dropRange s asid va size

/-- A migration is abandoned, with status changed. Where the leaf has been flipped it goes back to the source (log 18). -/
def abandonMig (s : State) (g : Nat) (m : Migration) : State :=
  if m.st = .inval then
    let e := BitVec.ofNat 64 (s.num m.leafAt 8)
    let s := s.writeNum m.leafAt 8 ((e &&& ~~~0x10fffffffff#64) ||| (m.e0 &&& 0x10fffffffff#64)).toNat
    let s := match tabGet s.queues m.queue with | some q => dropPage s q.asid (m.va / m.size * m.size) m.size | none => s
    endMigration s g m migChanged
  else endMigration s g m migChanged

/-- Lines that are to be copied: where one has an uncorrectable granule the migration is abandoned, since it can move neither the bytes nor the error
(07 R210, log 88). -/
def copyOr (s : State) (g : Nat) (m : Migration) (lines : List Nat) (next : State → State) : State :=
  if lines.any (fun l => (badIn s (128 * l) 128).isSome) then abandonMig s g m else next (copyLines s m lines)

/-- The bound of 6,000 cycles on the hold has been passed. -/
def holdOver (s : State) (m : Migration) : Bool := decide (s.cycle > m.finalAt + 6000)

/-- All lines are copied. -/
def execMigrationPrecopyDone (g : Nat) (s : State) : Out :=
  migStep s g (fun m => copyOr s g m m.all fun s => s.putMig g { m with st := .recopy }) .precopy

/-- A recopy round, or the hold begins. -/
def execMigrationRecopyDone (g : Nat) (s : State) : Out :=
  migStep s g (fun m =>
    if !m.lines.isEmpty && decide (m.rounds < 4) then copyOr s g m m.lines fun s => s.putMig g { m with rounds := m.rounds + 1, lines := [] }
    else s.putMig g { m with st := .final, finalAt := s.cycle }) .recopy

/-- A leaf without its a and d bits. -/
def leafCore (e : DWord) : DWord := e &&& ~~~0x60000000000#64

/-- The leaf that replaces another (07 R225): new frame, the other tier, d where a line was dirty. -/
def movedLeaf (s : State) (e : DWord) (frame : Nat) (dirty : Bool) : DWord :=
  let tier := if placeOf s frame = some .cold then 0x10000000000#64 else 0#64
  (e &&& ~~~0x10fffffffff#64) ||| BitVec.ofNat 64 (frame / 65536) ||| tier ||| (if dirty then 0x20000000000#64 else 0#64)

/-- The remaining lines are copied and the leaf's compare-and-swap is tried. -/
def execMigrationFlip (g : Nat) (s : State) : Out :=
  migStep s g (fun m =>
    if holdOver s m then abandonMig s g m else
    copyOr s g m m.lines fun s =>
      let e1 := BitVec.ofNat 64 (s.num m.leafAt 8)
      if leafCore e1 ≠ leafCore m.e0 then abandonMig s g m
      else (s.writeNum m.leafAt 8 (movedLeaf s e1 m.dest m.wasDirty).toNat).putMig g { m with st := .inval, lines := [] }) .final

/-- Update-only lines of the source go to the destination with the held writes. -/
def moveUpdates (s : State) (m : Migration) : State :=
  { s with cores := s.cores.map (fun k => (k.1, { k.2 with upd := k.2.upd.map (fun u =>
      if decide (m.src ≤ u.pa) && decide (u.pa < m.src + m.size) then { u with pa := m.dest + (u.pa - m.src) } else u) })) }

/-- The invalidation is acknowledged: no cache holds the old entry, and held writes go to the destination. -/
def execMigrationInvalAck (g : Nat) (s : State) : Out :=
  migStep s g (fun m =>
    if holdOver s m then abandonMig s g m else
    let s := moveUpdates s m
    let s := match tabGet s.queues m.queue with | some q => dropPage s q.asid (m.va / m.size * m.size) m.size | none => s
    let s := { s with migrations := tabDel s.migrations g }
    let s := (s.cores.map (·.1)).foldl (fun s c => flushCore s c (fun u => overlaps u.pa (u.pa + 128) m.dest (m.dest + m.size))) s
    endMigration s g m migDone) .inval

/-- The hold would pass 6,000 cycles: the migration is abandoned. -/
def execMigrationHoldTimeout (g : Nat) (s : State) : Out :=
  match tabGet s.migrations g with
  | none => .next s
  | some m =>
    if !m.begun || decide (s.cycle < m.finalAt + 6000) then .next s
    else if m.st = .final || m.st = .inval then .next (abandonMig s g m)
    else .next s

/-! ### The host's accesses (03 R108) -/

/-- Places that the host reaches; device memory, and its own behind the host window (07 R207). -/
def hostPlace (s : State) (pa n : Nat) : Bool :=
  match placeOf s pa with
  | some .hot => s.fw.powered && placeOf s (pa + n - 1) == some .hot
  | some .cold => s.fw.powered && placeOf s (pa + n - 1) == some .cold
  | some .host => placeOf s (pa + n - 1) == some .host
  | _ => false

/-- A byte of a queue descriptor that only the firmware and the hardware change (16 R446); the consumer indices are the host's. -/
def descOwned (s : State) (pa : Nat) : Bool :=
  s.queues.any (fun q => decide (q.2.at_ ≤ pa) && decide (pa < q.2.at_ + 256) &&
    !([24, 32, 40].any (fun o => decide (q.2.at_ + o ≤ pa) && decide (pa < q.2.at_ + o + 4))))

/-- A host write that meets a source in COPYING or RECOPY arms its dirty bit (13 R392). -/
def markHostDirty (s : State) (pa n : Nat) : State :=
  { s with heaps := s.heaps.map (fun h => (h.1, { h.2 with cycle := h.2.cycle.map (fun c =>
      { c with dirty := ((c.objs.filter (fun o => match tabGet s.queues h.1 with
        | some q => meetsVirtual s q o.old (16 + o.size) pa n
        | none => false)).map (·.old)).foldl setAdd c.dirty }) })) }

/-- A write of the host that meets a source between FINAL and its acknowledgement arrives, and is held there: it is performed with the others of its
cycle (13 R392). -/
def holdHostWrite (s : State) (h : Nat × Heap) (pa : PAddr) (bs : List Byte) : State :=
  { s with heaps := tabPut s.heaps h.1 { h.2 with cycle := h.2.cycle.map (fun c => { c with held := c.held ++ [(pa, bs)] }) } }

/-- A host write's bytes go to memory, but for the fields of a queue descriptor that are not the host's. -/
def hostStore (s : State) (at_ : Nat) (bytes : List Byte) : State :=
  if s.queues.any (fun q => overlaps at_ (at_ + bytes.length) q.2.at_ (q.2.at_ + 256)) then
    (bytes.zip (List.range bytes.length)).foldl (fun s b => if descOwned s (at_ + b.2) then s else s.write (at_ + b.2) [b.1]) s
  else s.write at_ bytes

/-- A host write becomes visible at its home slices, unless they hold it, or it would touch a narrow body or a frozen object (12 R360, R361, log 87). -/
def execHostWrite (at_ : Nat) (bytes : List Byte) (s : State) : Out :=
  if bytes.isEmpty || !hostPlace s at_ bytes.length || heldByMigration s at_ bytes.length || sealedAt s at_ bytes.length then .next s
  else if let some h := s.heaps.find? (fun h => sourceHolds s h at_ bytes.length) then .next (holdHostWrite s h at_ bytes)
  else if destHolds s at_ bytes.length then .next s
  else .next (hostStore (markHostDirty s at_ bytes.length) at_ bytes)

/-- A read meets a line that holds a write of the host (13 R392). -/
def behindHeld (s : State) (pa n : Nat) : Bool :=
  s.heaps.any (fun h => match h.2.cycle with
    | some c => c.held.any (fun w => overlaps pa (pa + n) (w.1 / 128 * 128) ((w.1 + w.2.length + 127) / 128 * 128))
    | none => false)

/-- A host read, which home slices hold while its object is between the flip and the acknowledgement, or its line has a held write. Bytes that no rule gives a value
(log 7) are free: uncorrectable ones, and those outside the places that the host reaches. -/
def execHostRead (at_ n : Nat) (s : State) : Out :=
  if hostPlace s at_ n && (destHolds s at_ n || behindHeld s at_ n) then .next s else
  let s := if hostPlace s at_ n then closePhys s at_ n else s
  if hostPlace s at_ n && (badIn s at_ n).isNone then .next { s with hostReads := (at_, s.bytes at_ n) :: s.hostReads }
  else .next { s with hostReads := (at_, (List.range n).map (Config.freeByte s.fresh)) :: s.hostReads, fresh := s.fresh + 1 }

end Sys2Proof.Machine
end

