-- ==== Sys2Proof/Machine/Firmware.lean ====
section
/-! DEFINITION. The firmware: how a command is served (17 R470 to R472), ownership (R474, R475), images and attestation (R476 to R480), reset and
bring-up (R485), snapshots (R481, R482), spares (R483, R484), limits (R487). -/

namespace Sys2Proof.Machine

open Sys2Proof

/-! ### Command records (17 R470, R471) -/

/-- A command record's bits. -/
def cmdBits (op : Nat) (c : Cmd) : Nat :=
  packBits [(16, op), (16, c.rsv.toNat), (32, c.tag.toNat), (64, c.a0.toNat), (64, c.a1.toNat), (64, c.a2.toNat), (64, c.a3.toNat), (64, c.a4.toNat),
    (64, c.a5.toNat), (64, c.a6.toNat)]

/-- Commands that change state are performed one at a time, in the order in which they arrive (17 R472). The others read: `ATTEST`, which also takes a leaf
index, among them. -/
def changes (op : Nat) : Bool := [0x02, 0x03, 0x05, 0x06, 0x20, 0x21, 0x23, 0x31, 0x40].contains op || (decide (0x10 ≤ op) && decide (op ≤ 0x1d))

/-- Where the host's record of an index stands. -/
def hostRecord (s : State) (i : Nat) : Nat := s.fw.cmdBase.toNat + 64 * (i % 64)

/-- The first record of a master that has no ring. -/
def mailOf (s : State) (m : Master) : Option Mail := s.fw.mail.find? (fun x => x.master == m)

/-- Some record of the host that was handed over before `cmd_tail` was `tail`, and that has not been taken, changes state. -/
def hostBefore (s : State) (tail : Nat) : Bool :=
  let n := (tail + 2 ^ 32 - s.fw.cmdHead) % 2 ^ 32
  s.fw.pcieUp && decide (n < 2 ^ 31) && (List.range (Nat.min n 64)).any (fun i => changes (s.num (hostPa (hostRecord s (s.fw.cmdHead + i))) 2))

/-- No command that changes state arrived before a master's first record (17 R472). -/
def arrivedFirst (s : State) (m : Master) : Bool :=
  if m = .host then
    s.fw.mail.all (fun x => !changes (x.bits % 65536) || decide ((s.fw.cmdHead + 2 ^ 32 - x.tail) % 2 ^ 32 < 2 ^ 31))
  else
    let before := s.fw.mail.takeWhile (fun x => x.master != m)
    before.all (fun x => !changes (x.bits % 65536)) && !((mailOf s m).any (fun x => hostBefore s x.tail))

/-- The master's first record is this command: the host's stands at the head of its command ring, and a write of `cmd_tail` has handed it over; another's has
arrived by its mailbox (17 R470). -/
def recordIs (s : State) (op : Nat) (c : Cmd) : Bool :=
  if c.master = .host then
    let at_ := hostRecord s s.fw.cmdHead
    s.fw.pcieUp && s.fw.cmdHead != s.fw.cmdTail && hostFits at_ 64 && s.num (hostPa at_) 64 == cmdBits op c
  else (mailOf s c.master).any (fun x => x.bits == cmdBits op c)

/-- Since when the path of a master is down: the host's link; the board's I3C target; every port that the route table gives towards a remote owner, where it
gives one (17 R474, log 63). -/
def pathDown (s : State) (m : Master) : Option Nat :=
  let remote := fun (k : Nat) =>
    let ps := s.ports.filter (fun p => (Config.routePorts s.fw.routes (Config.ownerDevice k)).contains p.1)
    if ps.isEmpty || ps.any (fun p => p.2.failedAt.isNone) then none else some (ps.foldl (fun t p => Nat.max t (p.2.failedAt.getD 0)) 0)
  match m with
  | .host => if s.fw.pcieUp then none else some s.fw.pcieDownAt
  | .board => if s.fw.i3cUp then none else some s.fw.i3cDownAt
  | .remote0 => remote 0
  | .remote1 => remote 1

/-- The owner's path has been down for 1 s of wall time. -/
def lapseDue (s : State) : Bool :=
  match s.fw.owner with
  | some m => (pathDown s m).any (fun t => decide (wallNow s ≥ t + wallMs 1000))
  | none => false

/-- 100 ms of wall time have passed since a handover. -/
def handoverDue (s : State) : Bool := s.fw.handover.isSome && decide (wallNow s ≥ s.fw.handoverAt + wallMs 100)

/-- The firmware takes a command: its record is its master's first, bring-up has ended, a change of ownership that is due comes first; one that changes state waits
for those that arrived before it and for the one that is being performed (17 R472, R474, R475, R485). -/
def handed (s : State) (op : Nat) (c : Cmd) : Bool :=
  recordIs s op c && !s.fw.booting && !lapseDue s && !handoverDue s && (!changes op || (arrivedFirst s c.master && s.fw.doing.isNone))

/-- The record is taken. -/
def takeRecord (s : State) (c : Cmd) : State :=
  if c.master = .host then { s with fw := { s.fw with cmdHead := (s.fw.cmdHead + 1) % 2 ^ 32 } }
  else { s with fw := { s.fw with mail := s.fw.mail.eraseP (fun x => x.master == c.master) } }

/-- The reply to a command. -/
def answer (s : State) (c : Cmd) (status : Nat) (r : List DWord) : State := addReply s c.master c.tag status r

/-! ### Reset and power (17 R485) -/

/-- Cores after a reset: those retired and unplaced stay so. -/
def coresAfter (s : State) : Tab Core := (s.cores.filter (fun k => k.2.gone)).map (fun k => (k.1, { Core.reset with gone := true }))

/-- Nothing of the device's volatile state survives. Host memory, what has been sent, and the outside's turns stay. -/
def wiped (s : State) (fw : Firmware) : State :=
  { State.reset with
    mem := s.mem.filter (fun c => placeOf s c.1 == some .host), cores := coresAfter s, ports := s.ports, fw := fw, replies := s.replies, irqs := s.irqs
    sent := s.sent, hostReads := s.hostReads, agenda := s.agenda, choices := s.choices, fresh := s.fresh, nextOp := s.nextOp }

/-- What stays while no firmware runs: the image store with its leaf indices (17 R479), the form, the spares, the moved channels, the sensors, the paths and the
reference clock. The device is not ready (17 R485). -/
def storedFw (s : State) : Firmware :=
  let f := s.fw
  { Firmware.reset with
    image := f.image, staged := f.staged, lmsNext := f.lmsNext, lmsLimit := f.lmsLimit, form := f.form, cold := f.cold, spares := f.spares
    movedChannels := f.movedChannels, temp := f.temp, lid := f.lid, watts := f.watts, pcieUp := f.pcieUp, pcieDownAt := f.pcieDownAt, i3cUp := f.i3cUp
    i3cDownAt := f.i3cDownAt, wallAt := wallNow s, ready := false }

/-- A reset begins. -/
def resetDevice (s : State) : State := wiped s { storedFw s with booting := true }

/-- Power is gone. -/
def powerOff (s : State) : State := wiped s { storedFw s with powered := false }

/-! ### Serving a command (17 R472) -/

/-- What a command waits for has been performed (17 R472). -/
def performed (s : State) : Task → Bool
  | .killed g => s.teams.all (fun t => t.2.grid != g || t.2.st == .ended || t.2.st == .failed)
  | .evicted ts => ts.all (fun x => match tabGet s.teams x.1 with
    | some t => (slotOf s x.1).isNone || decide (t.saves > x.2) || t.st == .ended || t.st == .failed
    | none => true)
  | .retired n => !(s.core n).retiring
  | .reset => s.grids.all (fun g => g.2.done)

/-- The command that is being performed gets its reply once it has been; the device then resets, where it was `RESET`. -/
def payDoing (s : State) : State :=
  match s.fw.doing with
  | none => s
  | some d =>
    if !performed s d.task then s else
    let t := addReply { s with fw := { s.fw with doing := none } } d.cmd.1 d.cmd.2 0 []
    if d.task = .reset then resetDevice t else t

/-- The reply follows once a command has been performed; other commands that change state wait for it. -/
def answerAfter (s : State) (c : Cmd) (task : Task) : State :=
  payDoing { s with fw := { s.fw with doing := some { cmd := (c.master, c.tag), task := task } } }

/-- SERVING A COMMAND: in recovery only four commands are served (R477), an Own command is its owner's (R474), a malformed record replies 4;
otherwise it acts, or waits. A command that replies 2 to 8 has no other effect. -/
def serve (s : State) (op : Nat) (c : Cmd) (own always bad : Bool) (act : State → Option State) : Out :=
  if !s.fw.powered || !handed s op c then .next s else
  let t := takeRecord s c
  if s.fw.recovery && !always then .next (answer t c 8 [])
  else if own && s.fw.owner != some c.master then .next (answer t c 2 [])
  else if c.rsv != 0 || bad then .next (answer t c 4 [])
  else match act t with
    | some t => .next t
    | none => .next s

/-- Change the firmware's state. -/
def State.modFw (s : State) (f : Firmware → Firmware) : State := { s with fw := f s.fw }

/-- A change of ownership raises vector 0 (17 R486). -/
def setOwner (s : State) (o : Option Master) (h : Option (Master × Master)) : State := (s.modFw (fun f => { f with owner := o, handover := h })).irq 0

/-- Masters by number. -/
def masterOf (n : Nat) : Master := if n = 0 then .host else if n = 1 then .board else if n = 2 then .remote0 else .remote1

/-! ### Ownership (17 R474, R475) -/

/-- A handover's time is kept beside it. -/
def State.handoverNow (s : State) : State := s.modFw (fun f => { f with handoverAt := wallNow s })

/-- `CLAIM`. -/
def execClaim (c : Cmd) (s : State) : Out :=
  serve s 0x02 c false true false fun s =>
    if s.fw.owner = some c.master then some (answer s c 0 [])
    else if s.fw.owner.isNone && (match s.fw.handover with | some h => h.2 == c.master | none => true) then
      some (answer (setOwner s (some c.master) none) c 0 [])
    else some (answer s c 2 [])

/-- `HANDOVER`: its issuer is read-only at once. -/
def execHandover (c : Cmd) (s : State) : Out :=
  serve s 0x03 c true false (decide (c.a0.toNat ≥ 4)) fun s =>
    some (answer (setOwner s.handoverNow none (some (c.master, masterOf c.a0.toNat))) c 0 [])

/-- The target has not claimed within 100 ms: ownership returns. -/
def execHandoverTimeout (s : State) : Out :=
  match s.fw.handover with
  | some h => if handoverDue s then .next (setOwner s (some h.1) none) else .next s
  | none => .next s

/-- Ownership lapses once the owner's path has been down for 1 s. -/
def execOwnershipLapse (s : State) : Out := if lapseDue s then .next (setOwner s none none) else .next s

/-! ### Images, identity and attestation (17 R476 to R480) -/

/-- Security version of an image. -/
def svnOf (image : List Byte) : Nat := natOfBytes ((image.drop 8).take 4)

/-- Body of an image. -/
def imageBody (image : List Byte) : List Byte := (image.drop 24).take (natOfBytes ((image.drop 12).take 4))

/-- An image's layout: version, kind, lengths and padding. -/
def imageLaidOut (image : List Byte) : Bool :=
  let b := natOfBytes ((image.drop 12).take 4)
  let n := alignUp (24 + b) 8
  natOfBytes (image.take 4) == 1 && natOfBytes ((image.drop 4).take 4) == 1 && natOfBytes ((image.drop 16).take 8) == 0 &&
  ((image.drop (24 + b)).take (n - 24 - b)).all (· == 0) && image.length == n + 96 + 1776

/-- A signature of a kind, over the hash of what precedes both, verifies under a key whose hash the ROM holds (17 R476, R477). -/
def signedBy (image : List Byte) (kind : Nat) (hash : BitVec 384) (signature : List Byte) : Bool :=
  Config.sha384 (Config.imageKey image kind) == Config.romKeyHash kind && Config.verifies kind (Config.imageKey image kind) hash signature

/-- Both signatures of an image verify: 96 bytes of ECDSA, then 1,776 of HSS (17 R477, R480). -/
def imageVerifies (image : List Byte) : Bool :=
  let s := alignUp (24 + natOfBytes ((image.drop 12).take 4)) 8
  let hash := Config.sha384 (image.take s)
  signedBy image 2 hash ((image.drop s).take 96) && signedBy image 3 hash ((image.drop (s + 96)).take 1776)

/-- An image is accepted (17 R477): at `LOADIMG`, and again at each reset. -/
def imageAccepted (image : List Byte) : Bool := imageLaidOut image && imageVerifies image && decide (svnOf image ≥ Config.minSvn.toNat)

/-- `LOADIMG`: an image is checked and staged; it runs from the next reset. -/
def execLoadimg (c : Cmd) (s : State) : Out :=
  serve s 0x05 c true true (!hostFits c.a0.toNat c.a1.toNat) fun s =>
    let image := s.bytes (hostPa c.a0.toNat) c.a1.toNat
    some (if imageAccepted image then answer (s.modFw (fun f => { f with staged := some image })) c 0 [] else answer s c 7 [])

/-- Cold-tier capacity as reported: none in recovery (17 R473). -/
def coldReported (s : State) : Nat := if s.fw.recovery then 0 else s.fw.cold / 2 ^ 40

/-- `IDENT`. -/
def execIdent (c : Cmd) (s : State) : Out :=
  serve s 0x01 c false true false fun s =>
    some (answer s c 0 [BitVec.ofNat 64 (packBits [(2, s.fw.form), (6, 0), (2, coldReported s)]), Config.serial,
      BitVec.ofNat 64 ((s.fw.image.map svnOf).getD 0), BitVec.ofNat 64 (packBits (s.fw.spares.map (fun n => (8, n))))])

/-- The report body (17 R478). -/
def reportBits (s : State) (c : Cmd) : Nat :=
  let image := s.fw.image.getD []
  packBits [(2, s.fw.form), (30, 0), (32, svnOf image), (64, Config.serial.toNat), (384, (Config.sha384 s.fw.routes).toNat),
    (384, (Config.sha384 (Config.imageConfig (imageBody image))).toNat), (384, (Config.sha384 image).toNat), (384, (Config.sha384 Config.rom).toNat),
    (64, c.a0.toNat), (64, c.a1.toNat), (64, c.a2.toNat), (64, c.a3.toNat), (64, c.a4.toNat), (64, c.a5.toNat)]

/-- Numbers in a key or a signature stand big end first (17 R479). -/
def bigEndian (n v : Nat) : List Byte := (bytesOf n v).reverse

/-- A public key's encoding (17 R479): for ECDSA the 97-byte uncompressed point, which begins with 4; for LMS L = 1, then the key of 56 bytes, which begins with
the numbers of its LMS and LM-OTS types (8 and 4, log 8). -/
def publicKey (kind : Nat) (key : Nat → Byte) : List Byte :=
  if kind = 2 then 4 :: (List.range 96).map key else bigEndian 4 1 ++ bigEndian 4 8 ++ bigEndian 4 4 ++ (List.range 48).map key

/-- Two signatures over a hash, with the pairs of some public keys: ECDSA in 96 bytes; HSS in 1,776: Nspk = 0, the leaf index, the LM-OTS type, its part of the
signature, the LMS type, the path (17 R479, log 8). -/
def signatures (keys : Nat → List Byte) (hash : BitVec 384) (leaf : Nat) : List Byte :=
  let hss := Config.sign 3 (keys 3) hash leaf
  (List.range 96).map (Config.sign 2 (keys 2) hash leaf) ++ bigEndian 4 0 ++ bigEndian 4 leaf ++ bigEndian 4 4 ++ (List.range 1120).map hss ++ bigEndian 4 8 ++
    (List.range 640).map (fun i => hss (1120 + i))

/-- The public keys of the device's identity pairs, and of the vendor's. -/
def identityKeys (kind : Nat) : List Byte := publicKey kind (Config.identityKey kind)
def vendorKeys (kind : Nat) : List Byte := publicKey kind (Config.vendorKey kind)

/-- A certificate of the device's public key of a kind, signed twice by the vendor (17 R478, R480). -/
def certificate (kind : Nat) (key : List Byte) : List Byte :=
  let head := bytesOf 4 1 ++ bytesOf 4 kind ++ bytesOf 4 0 ++ bytesOf 4 key.length ++ bytesOf 8 Config.serial.toNat ++ key
  let signed := head ++ List.replicate (alignUp head.length 8 - head.length) 0
  signed ++ signatures vendorKeys (Config.sha384 signed) (Config.vendorLeaf kind)

/-- The ECDSA certificate, then the LMS certificate. -/
def certificates : List Byte := certificate 2 (identityKeys 2) ++ certificate 3 (identityKeys 3)

/-- What `ATTEST` writes: the body, the identity pairs' signatures over its hash under the next leaf index, the certificates (17 R478). -/
def attestReport (s : State) (c : Cmd) : List Byte :=
  let body := bytesOf 256 (reportBits s c)
  body ++ signatures identityKeys (Config.sha384 body) s.fw.lmsNext ++ certificates

/-- `ATTEST`. No leaf index is used twice (17 R479). -/
def execAttest (c : Cmd) (s : State) : Out :=
  serve s 0x04 c false true (!hostFits c.a6.toNat (attestReport s c).length) fun s =>
    if s.fw.lmsNext ≥ s.fw.lmsLimit then some (answer s c 8 [])
    else some (answer ((s.write (hostPa c.a6.toNat) (attestReport s c)).modFw (fun f => { f with lmsNext := f.lmsNext + 1 })) c 0 [])

/-! ### Bring-up (17 R485) -/

/-- The image that the ROM finds at reset, the staged one, else the one that ran, where it accepts it (17 R477, R480). -/
def acceptedImage (f : Firmware) : Option (List Byte) := (f.staged.orElse (fun _ => f.image)).filter imageAccepted

/-- Cold-tier capacity of a device whose cold tier trains: a module's own; on a UB4-P that of its tray, which is the outside's: choice 1 is 1 TiB, 2 is
2 TiB, any other is what was found before, 1 TiB where nothing was (00 R2, log 9). -/
def coldFitted (f : Firmware) (x : Nat) : Nat :=
  if f.form = 1 then 2 ^ 40 else if f.form = 2 then 2 ^ 41 else if x = 1 then 2 ^ 40 else if x = 2 then 2 ^ 41 else if f.cold ≠ 0 then f.cold else 2 ^ 40

/-- A port is trained: it is up with at least 4 of its 8 lanes (15 R435, 17 R484). -/
def Port.trained (p : Port) (now : Nat) : Port :=
  let up := decide (p.laneFaults ≤ 5)
  { p with up := up, failedAt := if up then none else some (p.failedAt.getD now) }

/-- Every placed core tests itself, and a spare is mapped in for each that fails: the outside's choice, a bit for each position (17 R483, R485). -/
def selfTest (s : State) (failing : Nat) : State :=
  ((List.range 512).filter (fun n => bitOf failing n && !(s.core n).gone)).foldl mapSpare s

/-- Bring-up (17 R485): the image runs, with the next 1,024 leaf indices reserved (R479); ports train; cores test themselves; ready. Without an image or a cold
tier the device stays in recovery (00 R2, R477). -/
def bringUp (s : State) (image : Option (List Byte)) (cold failing : Nat) : State :=
  let stuck := image.isNone || cold == 0
  let s := wiped s { storedFw s with image := image, staged := none, cold := cold, lmsNext := s.fw.lmsLimit, lmsLimit := Nat.min (2 ^ 20) (s.fw.lmsLimit + 1024)
                                     ready := !stuck, recovery := stuck }
  selfTest { s with ports := s.ports.map (fun p => (p.1, p.2.trained (wallNow s))) } failing

/-- `RESET`: every grid is killed; once all have completed the reply is written and the device resets. -/
def execReset (c : Cmd) (s : State) : Out :=
  serve s 0x06 c true false false fun s => some (answerAfter ((s.grids.map (·.1)).foldl (fun s g => killGrid s g none) s) c .reset)

/-- The ROM's bring-up, after power-on or after a reset: it checks the stored image, which may be unreadable, and trains the cold tier. -/
def execPowerOn (imageOk coldOk : Bool) (s : State) : Out :=
  if s.fw.powered && !s.fw.booting then .next s
  else .next (bringUp s.chosen.chosen (if imageOk then acceptedImage s.fw else none) (if coldOk then coldFitted s.fw (choice s) else 0) (choice s.chosen))

/-- The device is powered down. -/
def execPowerDown (s : State) : Out := .next (powerOff s)

/-- 110 degrees, in steps of 0.125 (17 R487): shutdown without a reply. -/
def execThermalShutdown (s : State) : Out := if s.fw.temp ≥ 880 then .next (powerOff s) else .next s

/-! ### Limits (17 R487) -/

/-- A limit is passed: 95 degrees at the junction, 85 degrees at the lid, or the power cap. -/
def limitPassed (f : Firmware) (temp watts : Nat) : Bool := decide (temp ≥ 760) || decide (f.lid > 680) || decide (watts > f.capWatts)

/-- The sensors cross a limit, or leave it: the clock goes down or up by a step. It changes timing only: wall time goes on as before. -/
def execThermalLimit (temp watts : Nat) (s : State) : Out :=
  .next (s.modFw (fun f =>
    { f with temp := temp, watts := watts, wallAt := wallNow s, wallCycle := s.cycle
             clockMhz := if limitPassed f temp watts then Nat.max 600 (f.clockMhz - 50) else Nat.min 1500 (f.clockMhz + 50) }))

/-- `PWRCAP`. -/
def execPwrcap (c : Cmd) (s : State) : Out :=
  serve s 0x40 c true false (decide (c.a0.toNat < 1500) || decide (c.a0.toNat > 3000)) fun s =>
    some (answer (s.modFw (fun f => { f with capWatts := c.a0.toNat })) c 0 [])

/-- `THERM`. -/
def execTherm (c : Cmd) (s : State) : Out :=
  serve s 0x41 c false false false fun s => some (answer s c 0 [BitVec.ofNat 64 s.fw.temp, BitVec.ofNat 64 s.fw.watts])

/-! ### Snapshots (17 R481, R482) -/

/-- Reservation entries of the Querns: the units in flight that hold some, with the quarters that wait. -/
def reservations (s : State) : List (Nat × BitVec 4) :=
  s.ops.filterMap (fun o => match o.2.body with | .pass p => if p.posted then some (o.1, p.left) else none | .att a => some (o.1, a.qmask) | _ => none)

/-- The lowest page epoch that a Quern's units hold (10 R325). -/
def epochReports (s : State) : List (Nat × Nat) :=
  s.ops.foldl (fun t o =>
    match o.2.body with
    | .att a =>
      (match a.sample with
       | some e => let q := quadOf o.2.core; tabPut t q (Nat.min e ((tabGet t q).getD e))
       | none => t)
    | _ => t) []

/-- The items of a snapshot (17 R481). -/
def takeSnapshot (s : State) : Snapshot :=
  { cycle := s.cycle, missed := s.fw.missed, slots := s.cores.map (fun k => (k.1, k.2.slots.map (·.st)))
    splits := s.teams.flatMap (fun t => t.2.groups.flatMap (fun g => g.2.splits.map (fun sp => (t.1, g.1, sp.idx, sp.pc, sp.mask))))
    locks := s.cores.map (fun k => (k.1, k.2.locks)), reserved := reservations s, reports := epochReports s
    sweeps := s.pools.filterMap (fun p => p.2.sweep.map (fun w => (p.1, w.next))), gleaners := s.heaps.map (fun h => (h.1, h.2.gstate, h.2.cycle.map (·.st)))
    channels := s.teams.map (fun t => (t.1, t.2.channels.map (·.st))), teams := s.teams.map (fun t => (t.1, t.2.st)) }

/-- A cycle that a trigger named has come: every engine's registers are latched, unless a snapshot is held, when the trigger counts as missed. -/
def execSnapshotLatch (s : State) : Out :=
  if !s.fw.snapPending.contains s.cycle then .next s
  else .next (s.modFw (fun f =>
    let f := { f with snapPending := f.snapPending.filter (fun n => n != s.cycle) }
    if f.snap.isSome then { f with missed := f.missed + 1 } else { f with snap := some (takeSnapshot s), missed := 0 }))

/-- `SNAPCFG`. -/
def execSnapcfg (c : Cmd) (s : State) : Out :=
  serve s 0x20 c true false (decide (c.a0.toNat ≥ 8) || bitsOf c.a1.toNat 8 8 != 0 || bitsOf c.a1.toNat 32 32 != 0) fun s =>
    some (answer (s.modFw (fun f => { f with snapOn := BitVec.ofNat 3 c.a0.toNat, snapCode := bitsOf c.a1.toNat 0 8, snapClass := bitsOf c.a1.toNat 16 16 })) c 0 [])

/-- `SNAPTRIG`. -/
def execSnaptrig (c : Cmd) (s : State) : Out := serve s 0x21 c true false false fun s => some (answer (snapTrigger s) c 0 [])

/-- `SNAPREAD`: the held snapshot in the firmware's layout, as far as the buffer reaches, and its length. -/
def execSnapread (c : Cmd) (s : State) : Out :=
  serve s 0x22 c false false (!hostFits c.a0.toNat c.a1.toNat) fun s =>
    match s.fw.snap with
    | none => some (answer s c 8 [])
    | some x =>
      let bs := snapshotLayout x
      some (answer (s.write (hostPa c.a0.toNat) (bs.take c.a1.toNat)) c 0 [BitVec.ofNat 64 bs.length])

/-- `SNAPREL`. -/
def execSnaprel (c : Cmd) (s : State) : Out :=
  serve s 0x23 c true false false fun s =>
    if s.fw.snap.isNone then some (answer s c 8 []) else some (answer (s.modFw (fun f => { f with snap := none })) c 0 [])

/-- The reliability report: corrected errors, dropped flits, spares used of cores, channels and lanes, in the firmware's layout (log 7). -/
def reliabilityReport (s : State) : List Byte :=
  Config.reliabilityLayout s.fw.corrected s.fw.droppedFlits (s.fw.spares.map (fun n => 8 - n)) s.fw.movedChannels (s.ports.map (fun p => p.2.laneFaults))

/-- `RELREP`. -/
def execRelrep (c : Cmd) (s : State) : Out :=
  serve s 0x30 c false false (!hostFits c.a0.toNat (reliabilityReport s).length) fun s =>
    some (answer (s.write (hostPa c.a0.toNat) (reliabilityReport s)) c 0 [])

/-! ### Spares (17 R483, R484) -/

/-- `RETIRE`: its reply follows once the core's teams have drained. A core that is being retired already is retired with it (log 54). -/
def execRetire (c : Cmd) (s : State) : Out :=
  serve s 0x31 c true false (decide (c.a0.toNat ≥ 512)) fun s =>
    let n := c.a0.toNat
    if (s.core n).gone then some (answer s c 8 []) else some (answerAfter (if (s.core n).retiring then s else retireCore s n) c (.retired n))

/-- A core fails, be it one that is being retired. Units in flight whose completion needs state that the error has made unreadable take no effect: which they
are is the outside's choice, a bit for each unit of the core. -/
def execCoreFailure (core : Nat) (s : State) : Out :=
  if core ≥ 512 || (s.core core).gone then .next s else
  let mine := (s.ops.filter (fun o => o.2.core == core && !ownEngine o.2)).map (·.1)
  let lost := ((mine.zip (List.range mine.length)).filter (fun x => bitOf (choice s) x.2)).map (·.1)
  let s := lost.foldl endOp s.chosen
  .next (if (s.core core).retiring then s else retireCore s core)

/-- A channel's contents are moved onto a spare: outcomes are unchanged, and granules that were bad stay so. -/
def execHbmChannelFailure (stack channel : Nat) (s : State) : Out :=
  .next (s.modFw (fun f => { f with movedChannels := f.movedChannels ++ [(stack, channel)] }))

/-- A lane of a port fails: the first takes the spare, the others narrow the port; below 4 of its 8 lanes it has failed. -/
def execLinkLaneFault (port : Nat) (s : State) : Out :=
  match tabGet s.ports port with
  | none => .next s
  | some p =>
    let up := p.up && decide (p.laneFaults + 1 ≤ 5)
    let p' := { p with laneFaults := p.laneFaults + 1, up := up }
    let s' := { s with ports := tabPut s.ports port (if up then p' else p'.fails (wallNow s)) }
    if p.up && !up then .next (portFails s' port) else .next s'

/-! ### The host's path (17 R470, R474, R486) -/

/-- A write of a BAR 0 register. `status` is read-only, and other offsets hold no register. -/
def execRegisterWrite (off : Nat) (v : DWord) (s : State) : Out :=
  if off = 0x0000 then .next (s.modFw (fun f => { f with cmdBase := v }))
  else if off = 0x0008 then .next (s.modFw (fun f => { f with repBase := v }))
  else if off = 0x0010 then .next (s.modFw (fun f => { f with cmdTail := v.toNat % 2 ^ 32 }))
  else if decide (off ≥ 0x100000) && decide (off < 0x108000) && off % 8 = 0 then .next (ringBell s ((off - 0x100000) / 8) v)
  else .next s

/-- The PCI Express link goes down, and comes up. -/
def execPcieLinkDown (s : State) : Out := .next (s.modFw (fun f => { f with pcieUp := false, pcieDownAt := if f.pcieUp then wallNow s else f.pcieDownAt }))
def execPcieLinkUp (s : State) : Out := .next (s.modFw (fun f => { f with pcieUp := true }))

/-- An op that is not listed replies 3. -/
def listedOps : List Nat :=
  [0x01, 0x02, 0x03, 0x04, 0x05, 0x06] ++ (List.range 15).map (· + 0x10) ++ [0x20, 0x21, 0x22, 0x23, 0x30, 0x31, 0x40, 0x41]
def execUnknownCommand (c : Cmd) (op : BitVec 16) (s : State) : Out :=
  if !s.fw.powered || listedOps.contains op.toNat || !handed s op.toNat c then .next s
  else .next (answer (takeRecord s c) c (if s.fw.recovery then 8 else 3) [])

end Sys2Proof.Machine
end

