-- ==== Sys2Proof/Machine/Commands.lean ====
section
/-! DEFINITION. Commands on queues, translations, faults, teams, heaps, pages and peers (17 R473). -/

namespace Sys2Proof.Machine

open Sys2Proof

/-- Queue numbers are of 12 bits. -/
def badQueue (c : Cmd) : Bool := decide (c.a0.toNat ≥ 4096)

/-- The record's variant is not another row's: the argument that selects it names none of the other variants' numbers. An argument out of range is any
row's (17 R473). -/
def variant (s : State) (x : DWord) (others : List Nat) (o : Out) : Out := if others.contains x.toNat then .next s else o

/-- Serve a command on a queue that exists. -/
def onQueue (s : State) (op : Nat) (c : Cmd) (bad : Bool) (act : State → Nat → Queue → Option State) : Out :=
  serve s op c true false (badQueue c || bad) fun s =>
    match (tabGet s.queues c.a0.toNat).filter (fun q => q.qstate != 0) with
    | some q => act s c.a0.toNat q
    | none => some (answer s c 5 [])

/-! ### Creating, stopping and destroying queues (16 R446, 17 R473) -/

/-- A queue from the SW fields of a descriptor image. -/
def queueOf (at_ w : Nat) : Queue :=
  { at_ := at_, fbytes := bitsOf w 1152 64, frames := bitsOf w 1088 64, heap := 0, ptab := bitsOf w 960 64, mblock := bitsOf w 896 64
    tring := bitsOf w 832 64, fring := bitsOf w 768 64, aring := bitsOf w 704 64, lring := bitsOf w 640 64, grant := bitsOf w 576 64
    ptroot := bitsOf w 512 64, events := 0, alost := 0, tprod := 0, fprod := 0, aprod := 0, lhead := 0, ltail := 0, dlOwner := bitsOf w 116 12
    dlEn := bitOf w 115, policy := bitOf w 114, roOk := bitOf w 113, irqEn := bitOf w 112, pmax := bitsOf w 108 4, llog := bitsOf w 103 5
    alog := bitsOf w 98 5, flog := bitsOf w 93 5, tlog := bitsOf w 88 5, qstate := 1, identity := BitVec.ofNat 32 (bitsOf w 32 32)
    asid := bitsOf w 20 12, gen := 0, waiting := none, ignored := 0, destroy := none, grants := [] }

/-- A descriptor image out of range: a reserved bit, a ring size, an alignment. -/
def badDescriptor (w : Nat) : Bool :=
  let q := queueOf 0 w
  let ring := fun (n hi : Nat) => decide (n < 4) || decide (n > hi)
  bitsOf w 64 22 != 0 || bitsOf w 384 32 != 0 || bitsOf w 496 16 != 0 || bitsOf w 1216 832 != 0 || ring q.llog 16 || ring q.alog 20 || ring q.flog 20 ||
  ring q.tlog 20 || q.ptroot % 4096 != 0 || q.tring % 64 != 0 || q.fring % 64 != 0 || q.aring % 64 != 0 || q.lring % 64 != 0 || q.mblock % 64 != 0 || q.grant % 8192 != 0 ||
  q.frames % 4096 != 0 || q.fbytes % 4096 != 0

/-- Where the firmware puts a descriptor: its own choice (log 20), where that names free memory of the hot tier, else the first free place from one that
the number gives. -/
def descriptorAt (s : State) (qn : Nat) : PAddr :=
  let free := fun (x : Nat) => !s.queues.any (fun q => q.1 != qn && overlaps x (x + 256) q.2.at_ (q.2.at_ + 256))
  let x := choice s
  if x ≠ 0 && x % 256 = 0 && decide (x + 256 ≤ 0x8000000000) && free x then x
  else (((List.range 4096).map (fun k => 0x7fff000000 + 256 * ((qn + k) % 4096))).find? free).getD 0

/-- The operations and chains of a destroyed queue that go on keep the queue as it stood (01 R22). -/
def keepOwn (s : State) (qn : Nat) : State :=
  let old := tabGet s.queues qn
  { s with
    ops := s.ops.map (fun o => if o.2.queue = qn ∧ o.2.own = none then (o.1, { o.2 with own := old }) else o)
    teams := s.teams.map (fun t => if t.2.queue = qn ∧ t.2.own = none then (t.1, { t.2 with own := old }) else t) }

/-- Nothing of a destroyed queue of this number is left. The replies that commands on its heap and its peers are owed are written: the heap's work ends with it,
and no queue is left to bind in (log 20). Its stored values are written, and what still waits on a record of its fault ring walks again
(log 84). -/
def forgetQueue (s : State) (qn : Nat) : State :=
  let s := closeWcs s (fun w => w.queue == qn)
  let s := match tabGet s.heaps qn with
    | some h => secondReply (secondReply s h.healCmd []) (h.cycle.bind (·.cmd)) []
    | none => s
  let s := (s.fw.binds.filter (fun b => b.a0.toNat == qn)).foldl (fun s b => addReply s b.master b.tag 5 []) s
  let s := s.modFw (fun f => { f with binds := f.binds.filter (fun b => b.a0.toNat != qn) })
  let s := keepOwn (((s.faults.filter (fun f => f.2.queue == qn)).map (·.1)).foldl answerFault s) qn
  { s with
    heaps := tabDel s.heaps qn
    pools := s.pools.filter (fun p => p.2.queue != qn), wc := s.wc.filter (fun w => w.2.queue != qn), narrow := s.narrow.filter (fun n => n.queue != qn)
    released := s.released.filter (fun r => r.queue != qn), faults := s.faults.filter (fun f => f.2.queue != qn)
    trapRecs := s.trapRecs.filter (fun r => r.2.queue != qn)
    teams := s.teams.map (fun t => if t.2.queue = qn then (t.1, { t.2 with framed := false }) else t)
    grids := s.grids.map (fun g => if g.2.queue = qn then (g.1, { g.2 with kept := none }) else g) }

/-- `QCREATE`: the descriptor is written, the mask block and the rings are zeroed, the queue is enabled. Its generation is 0 again: every entry of the
address space goes first, so that no stale one can match (07 R230, log 20). -/
def execQcreate (c : Cmd) (s : State) : Out :=
  let w := s.num (hostPa c.a1.toNat) 256
  serve s 0x10 c true false (badQueue c || !hostFits c.a1.toNat 256 || badDescriptor w) fun s =>
    let qn := c.a0.toNat
    if (tabGet s.queues qn).any (fun q => q.qstate != 0) then some (answer s c 8 []) else
    let q := queueOf (descriptorAt s qn) w
    let s := forgetQueue s.chosen qn
    let s := dropWalks (dropXlats s (fun x => x.asid == q.asid)) (fun e => e.asid == q.asid)
    let s := (s.zero q.mblock 1088).zero q.tring (64 * 2 ^ q.tlog)
    let s := ((s.zero q.fring (64 * 2 ^ q.flog)).zero q.aring (64 * 2 ^ q.alog)).zero q.lring (64 * 2 ^ q.llog)
    let s := ((s.writeNum (q.at_ + 24) 4 (bitsOf w 192 32)).writeNum (q.at_ + 32) 4 (bitsOf w 256 32)).writeNum (q.at_ + 40) 4 (bitsOf w 320 32)
    some (answer (s.putQueue qn { q with grants := readGrants s q }) c 0 [BitVec.ofNat 64 q.at_])

/-- `QSTOP`, stop: no further record is launched. A destroy that is under way comes first (R472). -/
def execQstop (c : Cmd) (s : State) : Out :=
  variant s c.a1 [1] <| onQueue s 0x11 c (decide (c.a1.toNat ≥ 2)) fun s qn q =>
    if q.destroy.isSome then none else some (answer (s.putQueue qn { q with qstate := 2 }) c 0 [])

/-- `QSTOP`, destroy: accepted; the second reply follows when the queue's grids have ended. -/
def execQstopDestroy (c : Cmd) (s : State) : Out :=
  variant s c.a1 [0] <| onQueue s 0x11 c (decide (c.a1.toNat ≥ 2)) fun s qn q =>
    if q.destroy.isSome then none else some (answer (s.putQueue qn { q with qstate := 2, destroy := some (c.master, c.tag) }) c 1 [])

/-- The grids of a queue that is being destroyed have ended: qstate 0, its unlaunched records are discarded (16 R451). -/
def execQueueDestroyComplete (q : Nat) (s : State) : Out :=
  match tabGet s.queues q with
  | none => .next s
  | some qu =>
    match qu.destroy with
    | none => .next s
    | some d =>
      if s.grids.any (fun g => g.2.queue == q && !g.2.done) then .next s
      else .next (secondReply (s.putQueue q { qu with qstate := 0, waiting := none, destroy := none }) (some d) [])

/-- `QREAD`: the descriptor as it stands. -/
def execQread (c : Cmd) (s : State) : Out :=
  serve s 0x1e c false false (badQueue c || !hostFits c.a1.toNat 256) fun s =>
    match tabGet s.queues c.a0.toNat with
    | some q => some (answer (s.write (hostPa c.a1.toNat) (s.bytes q.at_ 256)) c 0 [])
    | none => some (answer s c 5 [])

/-! ### Translations and grants (07 R230, R231, R235) -/

/-- A block's elements or its scale lie in one of some pages. -/
def wcIn (s : State) (ps : List (Nat × Nat)) (w : WcEntry) : Bool :=
  match narrowAt s w.queue (w.body - 16) with
  | some t =>
    let meets := fun (a n : Nat) => ps.any (fun p => overlaps a (a + n) p.1 (p.1 + p.2))
    meets (t.elemsAt w.valueHalf w.block) (t.half w.valueHalf).blockBytes || meets (t.scaleAt w.valueHalf w.block) 1
  | none => false

/-- Flush the update-only lines of every core that a test picks; none while a flush is held (07 R219, R233). -/
def flushCores (s : State) (p : UpdLine → Bool) : Option State :=
  if s.cores.any (fun k => flushHeld s k.1 p) then none else some ((s.cores.map (·.1)).foldl (fun s k => flushCore s k p) s)

/-- `ASGEN`: the generation rises; when it wraps, every entry of the address space is removed first. -/
def execAsgen (c : Cmd) (s : State) : Out :=
  onQueue s 0x12 c false fun s qn q =>
    (flushCores s (fun u => u.asid == q.asid)).map (fun s =>
      let s := if q.gen = 0xfffff then dropWalks (dropXlats s (fun x => x.asid == q.asid)) (fun e => e.asid == q.asid) else s
      answer (s.modQueue qn (fun q => { q with gen := (q.gen + 1) % 2 ^ 20 })) c 0 [])

/-- Slice copies of a page's lines take the class of its leaf as it now stands, and copies in L1s are discarded (07 R231). -/
def restamp (s : State) (q : Queue) (va : Nat) : State :=
  match walk s q va with
  | .leaf x => { s with lineClass := s.lineClass.map (fun l => if decide (x.frame ≤ 128 * l.1) && decide (128 * l.1 < x.frame + x.size) then (l.1, x.cls) else l)
                        l1Lines := l1Without s.l1Lines x.frame x.size }
  | _ => s

/-- The pages that cover an address of a queue: as its table now stands, as some cache holds it, and the smallest (07 R223, R231, log 57). -/
def pagesAt (s : State) (q : Queue) (va : Nat) : List (Nat × Nat) :=
  let held := (s.dieTlb.flatMap (·.2) ++ s.cores.flatMap (fun k => k.2.tlb) ++ s.teams.flatMap (fun t => t.2.groups.flatMap (fun g => g.2.lastPage.map (·.2)))).filter
    (fun x => x.asid == q.asid && decide (x.base ≤ va) && decide (va < x.base + x.size))
  (alignDown va (2 ^ 16), 2 ^ 16) :: (held.map (fun x => (x.base, x.size)) ++ match walk s q va with | .leaf x => [(x.base, x.size)] | _ => [])

/-- An address lies in one of some pages. -/
def inPages (ps : List (Nat × Nat)) (va : Nat) : Bool := ps.any (fun p => decide (p.1 ≤ va) && decide (va < p.1 + p.2))

/-- An access through the peer window, translated under an address in one of some pages, has not been performed (07 R231, 15 R434). -/
def peersOut (s : State) (asid : Nat) (ps : List (Nat × Nat)) : Bool :=
  s.ops.any (fun o => (opQueue s o.2).any (fun q => q.asid == asid) &&
    match o.2.body with
    | .link l => l.form.isWindow && l.begun && !o.2.halted && l.reqs.any (fun r => (r.done.isNone || r.isNearStore) && inPages ps r.at_)
    | _ => false)

/-- `INVPAGE` (07 R231): the update-only lines of the page are flushed, whichever of its addresses they were updated under, and its write-combining
entries closed (12 R363); every entry that covers the address is removed; its lines are re-stamped. The reply waits for the accesses that the
old entry translated and that are not performed. -/
def execInvpage (c : Cmd) (s : State) : Out :=
  onQueue s 0x13 c (!canonical c.a1) fun s _ q =>
    let ps := pagesAt s q c.a1.toNat
    if peersOut s q.asid ps then none else
    (flushCores s (fun u => u.asid == q.asid && u.vas.any (inPages ps))).map (fun s =>
      let s := closeWcs s (fun w => (tabGet s.queues w.queue).any (fun x => x.asid == q.asid) && wcIn s ps w)
      answer (restamp (dropRange s q.asid c.a1.toNat 1) q c.a1.toNat) c 0 [])

/-- `GRANTREF`: the cached grant set is read anew. -/
def execGrantref (c : Cmd) (s : State) : Out :=
  onQueue s 0x14 c false fun s qn q => some (answer (s.putQueue qn { q with grants := readGrants s q }) c 0 [])

/-! ### Faults and teams (04 R135 to R138, 16 R463, R464) -/

/-- The fault record of a queue with a sequence number. -/
def faultOfSeq (s : State) (qn seq : Nat) : Option (Nat × FaultRec) := s.faults.find? (fun f => f.2.queue == qn && f.2.seq == some seq)

/-- The grid that waits on a fault record, and the team whose frame its kill keeps. On the record of an engine operation or of a channel no team
waits: 04 R137 does not say whether its kill keeps a frame, and none is kept (log 92). -/
def faultGrid (s : State) (f : FaultRec) : Option (Nat × Option Nat) :=
  match f.who with
  | .team key => (tabGet s.teams key).map (fun t => (t.grid, some key))
  | .op id => (tabGet s.ops id).map (fun o => (o.grid, none))
  | .channel key _ => (tabGet s.teams key).map (fun t => (t.grid, none))
  | .pool _ => none
  | .heal _ => none

/-- Reserved bits of `FAULTANS`. -/
def badFaultans (c : Cmd) : Bool := decide (c.a1.toNat ≥ 2 ^ 32) || decide (c.a2.toNat ≥ 2)

/-- `FAULTANS`, retry: what waited on the record walks again. -/
def execFaultansRetry (c : Cmd) (s : State) : Out :=
  variant s c.a2 [1] <| onQueue s 0x15 c (badFaultans c) fun s qn _ =>
    match faultOfSeq s qn c.a1.toNat with
    | some (f, _) => some (answer (answerFault s f) c 0 [])
    | none => some (answer s c 5 [])

/-- `FAULTANS`, kill: the grid ends as under KILL, and the frame of the team whose record was answered is kept. A pool's engine, which serves no grid,
walks again. -/
def execFaultansKill (c : Cmd) (s : State) : Out :=
  variant s c.a2 [0] <| onQueue s 0x15 c (badFaultans c) fun s qn _ =>
    match faultOfSeq s qn c.a1.toNat with
    | some (f, x) =>
      match faultGrid s x with
      | some (g, kept) => some (answerAfter (answerFault (killGrid s g kept) f) c (.killed g))
      | none => some (answer (answerFault s f) c 0 [])
    | none => some (answer s c 5 [])

/-- The team that a command names. -/
def namedTeam (s : State) (c : Cmd) : Option (Nat × Team) :=
  let key := teamKey c.a1.toNat c.a2.toNat
  ((tabGet s.teams key).filter (fun t => t.queue == c.a0.toNat && t.grid == c.a1.toNat)).map (fun t => (key, t))

/-- Reserved bits of `RESUME`. -/
def badResume (c : Cmd) : Bool := decide (c.a1.toNat ≥ 2 ^ 32) || decide (c.a2.toNat ≥ 2 ^ 32) || decide (c.a3.toNat ≥ 3)

/-- `RESUME` acts on a PARKED team. One that was resumed already and still waits for fault answers replies 8, whatever the mode: 04 R138 does not say
(log 93). -/
def resumeCmd (s : State) (c : Cmd) (f : State → Nat → Team → State) : Out :=
  onQueue s 0x16 c (badResume c) fun s _ _ =>
    match namedTeam s c with
    | some (key, t) => if t.st != .parked || t.resumed then some (answer s c 8 []) else some (f s key t)
    | none => some (answer s c 5 [])

/-- `RESUME`, skip. -/
def execResumeSkip (c : Cmd) (s : State) : Out := variant s c.a3 [1, 2] <| resumeCmd s c (fun s key _ => answer (resumeTeam s key true) c 0 [])

/-- `RESUME`, retry. -/
def execResumeRetry (c : Cmd) (s : State) : Out := variant s c.a3 [0, 2] <| resumeCmd s c (fun s key _ => answer (resumeTeam s key false) c 0 [])

/-- `RESUME`, end: the team's grid ends as under KILL. -/
def execResumeEnd (c : Cmd) (s : State) : Out := variant s c.a3 [0, 1] <| resumeCmd s c (fun s key t => answerAfter (killGrid s t.grid (some key)) c (.killed t.grid))

/-- Serve a command on a grid of a queue. -/
def onGrid (s : State) (op : Nat) (c : Cmd) (act : State → Nat → Grid → State) : Out :=
  onQueue s op c (decide (c.a1.toNat ≥ 2 ^ 32)) fun s qn _ =>
    match (tabGet s.grids c.a1.toNat).filter (fun g => g.queue == qn) with
    | some g => some (act s c.a1.toNat g)
    | none => some (answer s c 5 [])

/-- `PREEMPT`: every resident team of the grid. -/
def execPreempt (c : Cmd) (s : State) : Out :=
  onGrid s 0x17 c fun s grid g =>
    if g.done then answer s c 5 [] else
    let ts := residents s grid
    answerAfter ((ts.map (·.1)).foldl evictTeam s) c (.evicted (ts.map (fun t => (t.1, t.2.saves))))

/-- `FRAMEREL`: the frame kept after a kill is freed, with its pins. -/
def execFramerel (c : Cmd) (s : State) : Out :=
  onGrid s 0x18 c fun s grid g =>
    match g.kept.bind (fun k => (tabGet s.teams k).map (fun t => (k, t))) with
    | none => answer s c 5 []
    | some (k, t) =>
      if t.st != .ended then answer s c 8 [] else
      let s := t.groups.foldl (fun s x => (releasePins s t.queue x.2).modGroup k x.1 Group.cleared) s
      let s := s.modTeam k (fun t => { t with framed := false, frame := 0, saved := false })
      answer { s with grids := tabMod s.grids grid (fun g => { g with kept := none }) } c 0 []

/-! ### Heaps (13 R373, R374, R490) -/

/-- A heap from its descriptor. -/
def heapFrom (desc : DWord) (w : Nat) : Heap :=
  { desc := desc, hbase := bitsOf w 192 64, hbytes := bitsOf w 128 32 * 2 ^ 21, cbase := bitsOf w 256 64, cbytes := bitsOf w 160 32 * 2 ^ 21
    bitmap := BitVec.ofNat 64 (bitsOf w 320 64), fwdTab := BitVec.ofNat 64 (bitsOf w 384 64), refTab := BitVec.ofNat 64 (bitsOf w 448 64)
    refCount := bitsOf w 48 16, trigger := bitsOf w 96 32, flips := 0, cycles := 0, cycle := none, heal := false, healCmd := none, healFault := 0, healTried := [], fwd := []
    autoAt := 0 }

/-- A malformed descriptor; an address that is not the multiple its field names is malformed too (log 54). -/
def badHeap (w : Nat) (h : Heap) : Bool :=
  let canon := fun (a : Nat) => canonical (BitVec.ofNat 64 a)
  bitsOf w 36 12 != 0 || h.hbase % 2 ^ 21 != 0 || h.cbase % 2 ^ 21 != 0 || !canon h.hbase || !canon h.cbase || !canon (h.hbase + h.hbytes - 1) ||
  (h.cbytes != 0 && !canon (h.cbase + h.cbytes - 1)) || (h.cbytes == 0 && h.cbase != 0) || h.hbytes == 0 || decide (h.refCount > 256) ||
  overlaps h.hbase (h.hbase + h.hbytes) h.cbase (h.cbase + h.cbytes) || h.bitmap.toNat % 8 != 0 || h.fwdTab.toNat % 4096 != 0 || h.refTab.toNat % 16 != 0 ||
  !canonical h.bitmap || !canonical h.fwdTab || !canonical h.refTab

/-- The descriptor's bits, where they stand in one page of the normal region. -/
def readHeapDesc (s : State) (q : Queue) (va : DWord) : Option Nat :=
  if va.toNat % 64 ≠ 0 || !canonical va then none else
  match walk s q va.toNat with
  | .leaf x => if x.region = 0 then some (s.num (x.pa va.toNat) 64) else none
  | _ => none

/-- `HEAPBIND`, bind. -/
def execHeapbind (c : Cmd) (s : State) : Out :=
  variant s c.a2 [1] <| onQueue s 0x19 c (decide (c.a2.toNat ≥ 2)) fun s qn q =>
    if (tabGet s.heaps qn).isSome then some (answer s c 8 []) else
    match readHeapDesc s q c.a1 with
    | none => some (answer s c 4 [])
    | some w =>
      let h := heapFrom c.a1 w
      if badHeap w h then some (answer s c 4 [])
      else some (answer (syncHeap ({ s with heaps := tabPut s.heaps qn h }.putQueue qn { q with heap := c.a1 }) qn) c 0 [])

/-- Some object of a heap is allocated. -/
def anyObject (s : State) (q : Queue) (h : Heap) : Bool := !(allocBits s q h 0 ((h.hbytes + h.cbytes) / 16)).isEmpty

/-- A relocation command's work on a heap has not ended: its second reply is owed (13 R490). -/
def relocWork (h : Heap) : Bool := h.healCmd.isSome || h.cycle.any (fun c => c.cmd.isSome)

/-- `HEAPBIND`, unbind. It waits for the work of a relocation command on the heap (17 R472, log 54). -/
def execHeapbindUnbind (c : Cmd) (s : State) : Out :=
  variant s c.a2 [0] <| onQueue s 0x19 c (decide (c.a2.toNat ≥ 2)) fun s qn q =>
    match tabGet s.heaps qn with
    | none => some (answer s c 8 [])
    | some h =>
      if relocWork h then none
      else if anyObject s q h then some (answer s c 8 [])
      else some (answer ({ s with heaps := tabDel s.heaps qn }.putQueue qn { q with heap := 0 }) c 0 [])

/-- `RELOC`: one relocation cycle, of a set that the implementation chooses. -/
def execReloc (c : Cmd) (set : List (Nat × Nat)) (s : State) : Out :=
  onQueue s 0x1a c false fun s qn _ =>
    match tabGet s.heaps qn with
    | none => some (answer s c 5 [])
    | some h =>
      if h.cycle.isSome then some (answer s c 6 [])
      else some (startCycle (answer s c 1 []) qn set (some (c.master, c.tag)))

/-! ### Pages and peers (07 R233, 15 R430, R433) -/

/-- A destination frame lies in the other tier, whole and aligned. -/
def destFits (s : State) (x : Xlat) (dest : Nat) : Bool :=
  dest % x.size == 0 && placeOf s dest == some (if x.tier = 1 then Place.hot else Place.cold) && placeOf s (dest + x.size - 1) == placeOf s dest

/-- A migration of a leaf has not ended. -/
def migrating (s : State) (leafAt : PAddr) : Bool := s.migrations.any (fun m => m.2.leafAt == leafAt)

/-- `MIGRATE`: accepted; it begins where its die runs fewer than 8, and its outcome follows. The die is that of the cold tier's controller. A second
command on a leaf waits for the first one's work (17 R472, log 54). -/
def execMigrate (c : Cmd) (s : State) : Out :=
  onQueue s 0x1b c (!canonical c.a1 || c.a2.toNat % 8 != 0) fun s qn q =>
    match walk s q c.a1.toNat with
    | .leaf x =>
      if x.leafAt ≠ c.a2.toNat then some (answer s c 5 [])
      else if migrating s x.leafAt then none
      else if x.region ≠ 1 && x.region ≠ 2 && !destFits s x c.a3.toNat then some (answer s c 4 [])
      else
        let die := homeDie s (if x.tier = 1 then x.frame else c.a3.toNat)
        let g := s.nextOp
        let m : Migration := { queue := qn, va := c.a1.toNat, leafAt := x.leafAt, e0 := x.leaf, dest := c.a3.toNat, st := .precopy, rounds := 0, src := x.frame
                               size := x.size, lines := [], wasDirty := false, finalAt := 0, die := die, begun := false, cmd := (c.master, c.tag) }
        let s' := (answer s c 1 []).named.putMig g m
        some (if runningOn s die < 8 || x.region = 1 || x.region = 2 then beginMigration s' g else s')
    | _ => some (answer s c 5 [])

/-- Reserved bits of `PEERBIND`. -/
def badPeerbind (c : Cmd) : Bool := decide (c.a1.toNat ≥ 16) || decide (c.a2.toNat ≥ 2 ^ 16) || decide (c.a3.toNat ≥ 4096)

/-- An entry of the peer table. -/
def peerEntry (c : Cmd) : Nat := packBits [(1, 1), (35, 0), (12, c.a3.toNat), (16, c.a2.toNat), (64, c.a4.toNat)]

/-- The remote firmware has agreed: the slot is bound, and the second reply follows. A queue that is no longer there is not bound (log 21). -/
def agreed (s : State) (c : Cmd) : State :=
  match (tabGet s.queues c.a0.toNat).filter (fun q => q.qstate != 0) with
  | some q => secondReply (s.writeNum (q.ptab + 16 * c.a1.toNat) 16 (peerEntry c)) (some (c.master, c.tag)) []
  | none => addReply s c.master c.tag 5 []

/-- `PEERBIND`: accepted; the slot is bound once the remote firmware agrees: at once or later, which is the outside's choice (log 21). A second command on a slot
waits for the first one's work (17 R472). -/
def execPeerbind (c : Cmd) (s : State) : Out :=
  onQueue s 0x1c c (badPeerbind c) fun s qn _ =>
    if s.fw.binds.any (fun b => b.a0.toNat == qn && b.a1 == c.a1) then none else
    let t := answer s.chosen c 1 []
    some (if choice s = 0 then agreed t c else t.modFw (fun f => { f with binds := f.binds ++ [c] }))

/-- `ROUTE`: the route table is replaced. The size of an entry is the firmware's (log 14). -/
def execRoute (c : Cmd) (s : State) : Out :=
  let n := c.a1.toNat * Config.routeEntryBytes
  serve s 0x1d c true false (!hostFits c.a0.toNat n) fun s =>
    some (answer (s.modFw (fun f => { f with routes := s.bytes (hostPa c.a0.toNat) n })) c 0 [])

/-! ### The firmware's outside -/

/-- What the outside does to the firmware, and the firmware's own work. The board's buffer takes a fifth command once one of its four has been taken (17 R470,
log 101). -/
def fwAct (s : State) : FwAct → State
  | .i3cWrite r =>
    if !s.fw.powered || decide ((s.fw.mail.filter (fun x => x.master == .board)).length ≥ 4) then s
    else s.modFw (fun f => { f with mail := f.mail ++ [⟨.board, r.toNat, f.cmdTail⟩] })
  | .i3cRead => s.modFw (fun f => { f with i3cReplies := f.i3cReplies.drop 1 })
  | .i3cTarget up => s.modFw (fun f => { f with i3cUp := up, i3cDownAt := if f.i3cUp then wallNow s else f.i3cDownAt })
  | .peerAgree i =>
    match s.fw.binds[i]? with
    | some c => agreed (s.modFw (fun f => { f with binds := f.binds.eraseIdx i })) c
    | none => s
  | .lidSensor t => s.modFw (fun f => { f with lid := t })
  | .finish => payDoing s

end Sys2Proof.Machine
end

