-- ==== Sys2Proof/Machine/Attention.lean ====
section
/-! DEFINITION. The Quern's attention units `qatt`, `qatf` and `qsel` (10 R303 to R326). -/

namespace Sys2Proof.Machine

open Sys2Proof

/-! ### Operands and ranges (10 R306, R307) -/

/-- A word of the operand block. -/
def Att.op (a : Att) (i : Nat) : Nat := ((a.k.getD i 0).toNat : Nat)

/-- Channels of the rows, window, first position. -/
def Att.chans (a : Att) : Nat := chansOf (a.op 7 % 4)
def Att.nl (a : Att) : Nat := a.op 5
def Att.i0 (a : Att) : Nat := a.op 4

/-- The selected rows. -/
def rowsOf (qmask : BitVec 4) : List Nat := (quarters qmask).flatMap (fun q => (List.range 8).map (fun r => 8 * q + r))

/-- The hull of rows of `n` bytes from an offset. -/
def rowHull (off n : Nat) (rows : List Nat) : Nat × Nat := (off + n * rows.headD 0, n * (rows.getLastD 0 + 1 - rows.headD 0))

/-- Bytes of an output row. -/
def outBytes (c : Nat) : Nat := 4 * c + 16

/-- The scratchpad ranges that a unit uses: query rows, metadata, output or selection. -/
def attHulls (form : Nat) (me : Bool) (k : Nat → Nat) (rows : List Nat) : List (Nat × Nat × Bool) :=
  let c := chansOf (k 7 % 4)
  let h := fun (x : Nat × Nat) (w : Bool) => (x.1, x.2, w)
  [h (rowHull (k 0) (2 * c) rows) false] ++ (if me then [h (rowHull (k 1) 8 rows) false] else []) ++
    [if form = 2 then (k 2, 8 + 8 * k 5, true) else h (rowHull (k 2) (outBytes c) rows) true]

/-- A scratchpad range. -/
def hullRng (h : Nat × Nat × Bool) : Rng := { sp := .spad, addr := h.1, n := h.2.1, write := h.2.2 }

/-- Conditions on the operands and the scratchpad ranges. 0x3B gives k(8q + 6) as `nsel` whatever the form, although `qatt` and `qatf` ignore that
register: the manual does not say what the detail is then (log 110). -/
def attConds (s : State) (c : Ctx) (a : Att) : List Cond :=
  let m := c.split.mask
  let offs := [a.op 0] ++ (if a.prog.isSome then [a.op 1] else []) ++ [a.op 2]
  (match offs.find? (fun o => o % 16 != 0) with | some o => [{ code := 0x20, d0 := o, d1 := m.toNat, lanes := m }] | none => []) ++
  a.hulls.flatMap (fun h => rngConds s c false (hullRng h)) ++
  wholeCond (a.nl == 0 || (a.form == 2 && (a.op 6 == 0 || decide (a.op 6 > a.nl)))) 0x3b a.nl (a.op 6) m ++
  (match a.prog with | some p => emptySlot s c p.1 | none => [])

/-- The condition that the barrier gives the list's reference (10 R308, 13 R401). -/
def listCond (s : State) (c : Ctx) (lane : Nat) (res : Res) : List Cond :=
  let m := BitVec.ofNat 32 (2 ^ lane)
  if (heapOf s c).isNone then [{ code := 0x58, d0 := s.unit.addr.toNat, d1 := c.team.queue, lanes := c.split.mask }] else
  match res with
  | .null => [{ code := 0x50, d0 := s.unit.addr.toNat, d1 := m.toNat, lanes := m }]
  | .fail code d0 d1 => [{ code := code, d0 := d0, d1 := d1.getD m.toNat, lanes := m }]
  | _ => []

/-- The fault that the barrier meets. -/
def resFault (res : Res) : Option FaultInfo :=
  match res with
  | .fault va level entry => some { va := va, lanes := 0, level := level, entry := entry, access := 4, source := 2 }
  | _ => none

/-- Latch the query rows and, under a mask program, the row metadata (10 R307). -/
def latchRows (s : State) (c : Ctx) (a : Att) : List (Nat × List Nat × Nat × Nat) :=
  let at_ := fun (o n : Nat) => s.num (c.team.spadAt o) n
  (rowsOf a.qmask).map (fun j =>
    (j, (List.range a.chans).map (fun ch => at_ (a.op 0 + 2 * a.chans * j + 2 * ch) 2),
      (if a.prog.isSome then at_ (a.op 1 + 8 * j) 4 else 0), (if a.prog.isSome then at_ (a.op 1 + 8 * j + 4) 4 else 0)))

/-- The issue of an attention unit. -/
def attUnit (s : State) (c : Ctx) (form : Nat) (h q : BitVec 4) (slot : BitVec 3) (me : BitVec 1) (kq : BitVec 2) (look : Nat) : State :=
  let k := (List.range 8).map (fun i => c.group.kread (8 * kq.toNat + i))
  let lane := lowLane c.split.mask
  let ref := c.group.hlane h.toNat lane
  let res := resolveFor s c ref
  let a : Att := { form := form, hl := h.toNat, lane := lane, ref := healedOf ref res, list := match res with | .obj o _ _ => some o | _ => none
                   qmask := q, prog := if me = 1 then some (slot.toNat, (slotProgram s c.q slot.toNat).getD []) else none, k := k, rows := []
                   hulls := attHulls form (me == 1) (fun i => ((k.getD i 0).toNat : Nat)) (rowsOf q), sample := some s.pe, owed := none, level := recordLevel s c.team }
  if me = 1 && (slotHeld s c.team.queue slot.toNat || bindFull s c.core c.team.queue slot.toNat) then s else
  match lowest (attConds s c a ++ listCond s c lane res) with
  | some t => takeTrap (noteRefs s c.q (heapOf s c) [ref]) (unitSite s c) t
  | none =>
    match resFault res with
    | some f => takeFault (noteRefs s c.q (heapOf s c) [ref]) (unitSite s c) f
    | none =>
      if replayFull s c || engineWaits s c || !locksFit s c.core a.hulls.length || resHeld s c false res || !entriesFit s c.core q then s
      else issueOp s c (a.hulls.map hullRng) { h := [(h.toNat, BitVec.ofNat 32 (2 ^ lane), fun _ => a.ref)] } look
        (.att { a with rows := latchRows s c a })

/-- `qatt`. -/
def execQatt (l h q : BitVec 4) (slot : BitVec 3) (e : BitVec 1) (k : BitVec 2) (s : State) : Out :=
  issue s fun c => attUnit s c 0 h q slot e k l.toNat

/-- `qatf`. -/
def execQatf (l h q : BitVec 4) (slot : BitVec 3) (e : BitVec 1) (k : BitVec 2) (s : State) : Out :=
  issue s fun c => attUnit s c 1 h q slot e k l.toNat

/-- `qsel`. -/
def execQsel (l h q : BitVec 4) (slot : BitVec 3) (e : BitVec 1) (k : BitVec 2) (s : State) : Out :=
  issue s fun c => attUnit s c 2 h q slot e k l.toNat

/-! ### Reads of the chain (10 R308, R309, R315) -/

/-- Conditions that the pages of a read give, of every page whatever the others meet; a denied piece shows no error. -/
def readConds (s : State) (c : Ctx) (raw : Bool) (r : Rng) : List Cond :=
  let m := c.split.mask
  let malformed := (rngPages s c r).filterMap (fun k => match k.2.2.1 with
    | .malformed l e => some (0x23, k.1, entryWithLevel l e)
    | .bad g => some (0x25, k.1, g)
    | _ => none)
  wholeCond (!rngCanonical r) 0x11 (r.addr % 2 ^ 64) m.toNat m ++ malformed.map (fun k => { code := k.1, d0 := k.2.1, d1 := k.2.2, lanes := m }) ++
  (rngLeaves s c r).flatMap (fun p =>
    wholeCond (p.x.region == 2) 0x24 p.va 2 m ++
    (match badAdmitted s c.q p with
      | some g => [{ code := 0x25, d0 := p.va, d1 := g, lanes := m }]
      | none => []) ++
    (if raw && p.x.region == 1 then (rawCode s c.team.queue c.q p.va p.n false).map (fun k => { code := k, d0 := p.va, d1 := m.toNat, lanes := m }) else []))

/-- A read of virtual bytes. -/
def readRng (va n : Nat) : Rng := { sp := .mem, addr := va % 2 ^ 64, n := n, write := false }

/-- A page that survives step 4: its list position, index, entry, object and tiles as (quarter, 16-row group, class). -/
structure AttPage where
  pos : Nat
  x : Nat
  eva : Nat
  e : DirEnt
  obj : Nat
  tiles : List (Nat × Nat × Nat)
  deriving DecidableEq, Repr

/-- What becomes of a list position (10 R301, R309). -/
inductive PageLook where
  | gone
  | excluded (x eva cls : Nat)
  | stop (cs : List Cond)
  | fault (f : FaultInfo)
  | held
  | page (p : AttPage)
  deriving DecidableEq, Repr

/-- Least and greatest of a list of numbers, as an interval. -/
def span (xs : List Nat) : Int × Int := ((xs.foldl Nat.min (xs.headD 0) : Nat), (xs.foldl Nat.max 0 : Nat))
def point (x : Nat) : Int × Int := (x, x)

/-- Present token rows of a 16-row group. -/
def presentRows (e : DirEnt) (g : Nat) : List Nat := ((List.range 16).map (16 * g + ·)).filter (fun t => decide (t < e.fill))

/-- Position of a token row. -/
def DirEnt.posOf (e : DirEnt) (t : Nat) : Nat := (e.pos0 + t) % 2 ^ 32

/-- The class of a tile (10 R310, 11 R334): 0 empty, 1 partial, 2 full. -/
def tileClass (a : Att) (e : DirEnt) (q g : Nat) : Nat :=
  let ts := presentRows e g
  let rs := a.rows.filter (fun r => r.1 / 8 == q)
  if ts.isEmpty then 0 else
  match a.prog with
  | none => 2
  | some p => classify p.2 (span (rs.map (·.2.2.1))) (span (ts.map e.posOf)) (span (rs.map (·.2.2.2))) (point e.doc)

/-- 16-row groups of a page that hold a tile that is not empty. -/
def AttPage.groups (p : AttPage) : List Nat := ((p.tiles.filter (fun t => t.2.2 != 0)).map (·.2.1)).foldl setAdd []

/-- The ranges of a page that step 6 fetches (10 R312). -/
def AttPage.ranges (p : AttPage) (t c : Nat) : List Rng := (p.e.ranges t c p.groups).map (fun r => readRng (p.obj + 16 + r.1) r.2)

/-- One list position through steps 3 to 6, as far as stops and exclusions go. Step 4 decides before any fetch (01 R26), so it looks at the
classes that the object's lines carry as well as at those of its translations: no byte of a denied line is handed out, and no zeros
stand for one (07 R236, log 38). -/
def lookPage (s : State) (c : Ctx) (a : Att) (h : PageList) (pos x : Nat) : PageLook :=
  let m := c.split.mask
  let t := tokensOf h.tcode
  let eva := (h.dirBase + 64 * x) % 2 ^ 64
  let er := readRng eva 64
  match piecesDenied s c (rngLeaves s c er) with
  | some k => .excluded x eva k
  | none =>
    let cs := readConds s c true er
    if !cs.isEmpty then .stop cs else
    match quernFault s c er with
    | some f => .fault f
    | none =>
      let e := dirEnt (natOfBytes (rngBytes s c er))
      if e.fmt = 7 then .gone
      else if e.malformed t then .stop [{ code := 0x38, d0 := eva, d1 := pos, lanes := m }]
      else match resolveFor s c e.ref with
        | .null => .stop [{ code := 0x38, d0 := eva, d1 := pos, lanes := m }]
        | .fail code d0 d1 => .stop [{ code := code, d0 := d0, d1 := d1.getD m.toNat, lanes := m }]
        | .fault va level entry => .fault { va := va, lanes := 0, level := level, entry := entry, access := 4, source := 2 }
        | .obj o hd hl =>
          let whole := readRng o (16 + hd.size)
          match minClass (if admits c.q e.cls then none else some e.cls) (piecesDenied s c (rngLeaves s c whole)) with
          | some k => .excluded x eva k
          | none =>
            if resHeld s c false (.obj o hd hl) then .held
            else if hd.size ≠ pageBytes e.fmt t a.chans then .stop [{ code := 0x3a, d0 := eva, d1 := hd.size, lanes := m }]
            else
            match quernFault s c whole with
            | some f => .fault f
            | none =>
              let p : AttPage := { pos := pos, x := x, eva := eva, e := e, obj := o
                                   tiles := (quarters a.qmask).flatMap (fun q => (List.range (t / 16)).map (fun g => (q, g, tileClass a e q g))) }
              if a.form = 2 || p.groups.isEmpty then .page p
              else
                let cs := (p.ranges t a.chans).flatMap (readConds s c false)
                if cs.isEmpty then .page p else .stop cs

/-- What the page list gives: a stop, a fault, a denied list with its class, or the header and the pages. -/
inductive ListLook where
  | stop (cs : List Cond)
  | fault (f : FaultInfo)
  | denied (va cls : Nat)
  | ok (h : PageList) (pages : List PageLook) (reads : List Rng)
  deriving DecidableEq, Repr

/-- Steps 1 to 4 over the window (10 R303, R304, R308, R309). -/
def lookList (s : State) (c : Ctx) (a : Att) (obj : Nat) : ListLook :=
  let hd := headerAt s c.q obj
  let hr := readRng (obj + 16) 32
  let hdr := if admits c.q hd.cls then none else some hd.cls
  match minClass (piecesDenied s c (rngLeaves s c hr)) hdr with
  | some k => .denied obj k
  | none =>
    let cs := readConds s c false hr
    if !cs.isEmpty then .stop cs else
    match quernFault s c hr with
    | some f => .fault f
    | none =>
      let h := pageList (natOfBytes (rngBytes s c hr))
      let bad := fun (b : Nat) => ({ code := 0x39, d0 := obj, d1 := h.count + 2 ^ 40 * b, lanes := c.split.mask } : Cond)
      match h.bad hd.size a.i0 a.nl h.ccode with
      | some b => .stop [bad b]
      | none =>
        let ir := readRng (obj + 48 + 4 * a.i0) (4 * a.nl)
        match piecesDenied s c (rngLeaves s c ir) with
        | some k => .denied obj k
        | none =>
          let cs := readConds s c false ir ++ ((h.bad hd.size a.i0 a.nl (a.op 7 % 4)).map bad).toList
          if !cs.isEmpty then .stop cs else
          match quernFault s c ir with
          | some f => .fault f
          | none =>
            let idx := (chunks a.nl 4 (rngBytes s c ir)).map natOfBytes
            .ok h ((idx.zip (List.range a.nl)).map (fun x => lookPage s c a h (a.i0 + x.2) x.1)) [hr, ir]

/-! ### Scores and softmax (10 R313, R314) -/

/-- One rounding to FP32. -/
def r32 (x : Num) : Num := roundNum fp32 .rne x

/-- The larger of two scores; -0 is below +0 (05 R152). -/
def maxScore (x y : Num) : Num :=
  if ltNum x y then y else if eqNum x y then (match x with | .fin true 0 _ => y | _ => x) else x

/-- Tokens that a row may attend in a page (10 R310, 11 R335). -/
def admitted (a : Att) (p : AttPage) (row : Nat × List Nat × Nat × Nat) : List Nat :=
  p.tiles.flatMap (fun t =>
    if t.1 ≠ row.1 / 8 then [] else
    match t.2.2 with
    | 0 => []
    | 2 => presentRows p.e t.2.1
    | _ => (presentRows p.e t.2.1).filter (fun tok =>
        match a.prog with
        | some g => classify g.2 (point row.2.2.1) (point (p.e.posOf tok)) (point row.2.2.2) (point p.e.doc) == 2
        | none => true))

/-- A page's decoded 16-row groups: keys and values. -/
abbrev Body := Tab (List Num × List Num)

/-- A token's channels. -/
def tokenRow (b : Body) (value : Bool) (c t : Nat) : List Num :=
  match tabGet b (t / 16) with
  | some x => ((if value then x.2 else x.1).drop (c * (t % 16))).take c
  | none => []

/-- A score. -/
def scoreOf (c : Nat) (sigma : Num) (q key : List Num) : Num :=
  r32 (mulNum (qsum (c / 32) (.fin false 0 0) ((q.zip key).map (fun x => mulNum x.1 x.2))) sigma)

/-- A row's state: m, l, O, and the records (page number, L, m2) of the pages that performed the step. -/
structure RowAcc where
  m : Num
  l : Num
  o : List Num
  recs : List (Nat × Num × Num)
  deriving DecidableEq, Repr

/-- One page's step for a row: its contributing tokens as (score, value row). -/
def rowStep (r : RowAcc) (page : Nat) (toks : List (Num × List Num)) : RowAcc :=
  match toks with
  | [] => r
  | t0 :: ts =>
    let m2 := maxScore r.m (ts.foldl (fun x t => maxScore x t.1) t0.1)
    let ex := fun (x : Num) => exp2d (r32 (addNum false x (negNum m2)))
    let al := ex r.m
    let ps := toks.map (fun t => (ex t.1, t.2))
    let tot := r32 (blockSum (ps.map (·.1)))
    { m := m2, l := r32 (addNum false (r32 (mulNum r.l al)) tot)
      o := (List.range r.o.length).map (fun ch =>
        let pc := r32 (blockSum (ps.map (fun p => mulNum p.1 (p.2.getD ch (.fin false 0 0)))))
        r32 (addNum false (r32 (mulNum (r.o.getD ch (.fin false 0 0)) al)) pc))
      recs := r.recs ++ [(page, tot, m2)] }

/-- A row's result: the bits of O, m and l, the pages used, and its masses as (page number, mass). -/
structure RowOut where
  o : List Word
  m : Word
  l : Word
  used : Nat
  mass : List (Nat × Nat)
  deriving DecidableEq, Repr

/-- `uq16` of an exact quotient (10 R317). -/
def uqQuot (w l : Num) : Nat :=
  match w, l with
  | .fin s m e, .fin _ n f => if n = 0 then 0 else let (q, x, _) := divMag m e n f; uq16 (.fin s q x)
  | _, _ => 0

/-- A score that a row admits contributes unless it is -∞; NaN and +∞ make a NaN row. -/
def isNegInf (x : Num) : Bool := x == .inf true
def spoils (x : Num) : Bool := x.isNan || x == .inf false

/-- Run R314 and R317 for one row over the pages, in list order. -/
def rowResult (a : Att) (pages : List (AttPage × Body)) (row : Nat × List Nat × Nat × Nat) : RowOut :=
  let c := a.chans
  let sigma := f32Num (a.k.getD 3 0)
  let q := row.2.1.map bf16Num
  let toks := pages.map (fun p => ((admitted a p.1 row).map (fun t => (scoreOf c sigma q (tokenRow p.2 false c t), tokenRow p.2 true c t))).filter
    (fun t => !isNegInf t.1))
  let used := (toks.filter (fun t => !t.isEmpty)).length
  let nan := f32Bits .nan
  if toks.any (fun t => t.any (fun x => spoils x.1)) then { o := List.replicate c nan, m := nan, l := nan, used := used, mass := [] }
  else
    let z : RowAcc := { m := .inf true, l := .fin false 0 0, o := List.replicate c (.fin false 0 0), recs := [] }
    let r := ((toks.zip (List.range toks.length)).foldl (fun r t => rowStep r t.2 t.1) z)
    if r.recs.isEmpty then { o := List.replicate c 0, m := f32Bits (.inf true), l := 0, used := 0, mass := [] }
    else { o := r.o.map (fun x => f32Bits (divRound fp32 .rne x r.l)), m := f32Bits r.m, l := f32Bits r.l, used := used
           mass := r.recs.map (fun x => (x.1, uqQuot (r32 (mulNum x.2.1 (exp2d (r32 (addNum false x.2.2 (negNum r.m)))))) r.l)) }

/-- The bytes of an output row (10 R306). -/
def RowOut.bytes (r : RowOut) : List Byte :=
  r.o.flatMap (fun w => bytesOf 4 w.toNat) ++ bytesOf 4 r.m.toNat ++ bytesOf 4 r.l.toNat ++ bytesOf 4 r.used ++ bytesOf 4 0

/-! ### Winnow (10 R323, R324) -/

/-- A summary's bytes; none where the speculative read is dropped (07 R232). -/
def summaryBytes (s : State) (c : Ctx) (va n : Nat) : Option (List Byte) :=
  let r := readRng va n
  match rngReach s c r with
  | .ok ps =>
    if rngCanonical r && ps.all (fun p => p.x.region != 1 && p.x.region != 2 && (deniedClass s c.q p).isNone && (badIn s p.pa p.n).isNone)
    then some (rngBytes s c r) else none
  | _ => none

/-- The larger of two exact products; NaN if either is NaN. -/
def maxTerm (x y : Num) : Num := if x.isNan || y.isNan then .nan else if ltNum x y then y else x

/-- A page's score from its summary. -/
def summaryScore (s : State) (c : Ctx) (a : Att) (h : PageList) (p : AttPage) : Num :=
  let ch := a.chans
  match summaryBytes s c (h.sumBase + 4 * ch * p.e.summ) (4 * ch) with
  | none => .inf true
  | some bs =>
    let vs := (chunks (2 * ch) 2 bs).map (fun b => bf16Num (natOfBytes b))
    let lo := vs.take ch
    let hi := vs.drop ch
    let sc := a.rows.map (fun r =>
      let q := r.2.1.map bf16Num
      qsum (ch / 32) (.fin false 0 0) ((q.zip (lo.zip hi)).map (fun x => maxTerm (mulNum x.1 x.2.1) (mulNum x.1 x.2.2))))
    match sc with
    | [] => .inf true
    | x :: t => t.foldl (fun b y => if b.isNan || y.isNan then .nan else if ltNum b y then y else b) x

/-- A scored candidate ranks before another: NaN first, then the larger score, then the lower index, then the lower position. -/
def rankFirst (a b : Num × Nat × Nat) : Bool :=
  let tie := decide (a.2.1 < b.2.1) || (a.2.1 == b.2.1 && decide (a.2.2 < b.2.2))
  if a.1.isNan then (!b.1.isNan || tie)
  else if b.1.isNan then false
  else if ltNum b.1 a.1 then true
  else if ltNum a.1 b.1 then false
  else tie

/-- Insert in rank order. -/
def insertScored (x : Num × Nat × Nat) : List (Num × Nat × Nat) → List (Num × Nat × Nat)
  | [] => [x]
  | y :: t => if rankFirst x y then x :: y :: t else y :: insertScored x t

/-- The selection's bytes: every kept and every selected candidate, in ascending list position. -/
def selectionBytes (s : State) (c : Ctx) (a : Att) (h : PageList) (pages : List AttPage) : List Byte :=
  let scored := ((pages.filter (fun p => p.e.state != 0)).map (fun p => (summaryScore s c a h p, p.x, p.pos))).foldl (fun xs x => insertScored x xs) []
  let picked := (scored.take (a.op 6)).map (fun x => x.2.2)
  let out := pages.filter (fun p => p.e.state == 0 || picked.contains p.pos)
  bytesOf 4 out.length ++ bytesOf 4 0 ++
    out.flatMap (fun p => bytesOf 4 p.x ++ bytesOf 4 (p.pos % 2 ^ 31 + (if p.e.state = 0 then 2 ^ 31 else 0)))

/-! ### Completion (10 R311, R318, R319) -/

/-- Add to a queue's tile counter (11 R345): 0 full, 1 partial, 2 empty, 3 denied. -/
def addCounter (s : State) (q : Queue) (i n : Nat) : State :=
  s.writeNum (q.mblock + 8 * i) 8 ((s.num (q.mblock + 8 * i) 8 + n) % 2 ^ 64)

/-- A range of offsets cut at every granule of 16 bytes. -/
def granuleCuts (o n : Nat) : List (Nat × Nat) :=
  if n = 0 then [] else
  (List.range ((o + n - 1) / 16 - o / 16 + 1)).map (fun i =>
    let lo := Nat.max o (16 * (o / 16 + i))
    (lo, Nat.min (o + n) (16 * (o / 16 + i) + 16) - lo))

/-- Write output bytes. A granule in which a barrier has been initialised since the unit issued is left alone, since only barrier forms and decrements
change an object (06 R194, R195, log 112). -/
def writeOut (s : State) (t : Team) (o : Nat) (bs : List Byte) : State :=
  if (teamTag s t o bs.length).isNone then s.write (t.spadAt o) bs
  else (granuleCuts o bs.length).foldl (fun s k =>
    if (teamTag s t k.1 k.2).isSome then s else s.write (t.spadAt k.1) ((bs.drop (k.1 - o)).take k.2)) s

/-- The output rows, as (offset, bytes). -/
def rowOuts (a : Att) (rows : List (Nat × RowOut)) : List (Nat × List Byte) := rows.map (fun r => (a.op 2 + outBytes a.chans * r.1, r.2.bytes))

/-- The row of an attention unit without any contribution. -/
def emptyRow (c : Nat) : RowOut := { o := List.replicate c 0, m := f32Bits (.inf true), l := 0, used := 0, mass := [] }

/-- Pages that survived, and the exclusions. -/
def pagesOf (ls : List PageLook) : List AttPage := ls.filterMap (fun x => match x with | .page p => some p | _ => none)
def exclusionsOf (ls : List PageLook) : List (Nat × Nat × Nat) := ls.filterMap (fun x => match x with | .excluded x e k => some (x, e, k) | _ => none)

/-- The mass field of an entry, as a bank update reaches it. -/
def massRng (eva : Nat) : Rng := { readRng (eva + 44) 4 with write := true }

/-- Merge a page's addition into the issuing core's update-only lines (10 R318). -/
def addMass (s : State) (c : Ctx) (eva v : Nat) : State :=
  match (rngReach s c (massRng eva)).pieces with
  | p :: t => mergeLane (notePieces s c.q none (dieOf c.core) true (p :: t)) c 0 2 p (BitVec.ofNat 32 (Nat.min v (2 ^ 32 - 1)))
  | [] => s

/-- The 16-row groups of a page that hold a tile that is not empty, decoded (10 R312). -/
def bodyOf (s : State) (c : Ctx) (a : Att) (t : Nat) (p : AttPage) : Body :=
  p.groups.map (fun g =>
    let half := fun (v : Bool) => p.e.decodeGroup a.chans v ((groupRanges (p.e.half v) (p.e.halfAt t a.chans v) t a.chans g).flatMap
      (fun r => rngBytes s c (readRng (p.obj + 16 + r.1) r.2)))
    (g, (half false, half true)))

/-- Pages that survive step 5. -/
def livePages (looks : List PageLook) : List AttPage := (pagesOf looks).filter (fun p => !p.groups.isEmpty)

/-- Every row's result. -/
def attRows (s : State) (c : Ctx) (a : Att) (h : PageList) (looks : List PageLook) : List (Nat × RowOut) :=
  let pages := (livePages looks).map (fun p => (p, bodyOf s c a (tokensOf h.tcode) p))
  a.rows.map (fun r => (r.1, rowResult a pages r))

/-- The additions of `qatf` that are not zero, in list order: the entry's address and the sum over the rows (10 R317). -/
def attMasses (rows : List (Nat × RowOut)) (live : List AttPage) : List (Nat × Nat) :=
  ((live.zip (List.range live.length)).map (fun p =>
    (p.1.eva, (rows.map (fun r => ((r.2.mass.filter (fun x => x.1 == p.2)).map (·.2)).foldl (· + ·) 0)).foldl (· + ·) 0))).filter (fun x => x.2 != 0)

/-- The fetch of the bodies closes the write-combining entries that it reads (12 R363). -/
def attClose (s : State) (c : Ctx) (a : Att) (h : PageList) (looks : List PageLook) : State :=
  if a.form = 2 then s
  else ((livePages looks).flatMap (fun p => p.ranges (tokensOf h.tcode) a.chans)).foldl (fun s r => rngClose s c r) s

/-- What a unit that has run its chain brings about before it completes: what its reads leave behind, and the additions of `qatf`. -/
def attEffect (s : State) (c : Ctx) (a : Att) (h : PageList) (looks : List PageLook) (reads : List Rng) (masses : List (Nat × Nat)) : State :=
  let t := tokensOf h.tcode
  let pages := pagesOf looks
  let live := pages.filter (fun p => !p.groups.isEmpty)
  let ranges := if a.form = 2 then [] else live.flatMap (fun p => p.ranges t a.chans)
  let entries := pages.map (fun p => readRng p.eva 64)
  let s := (reads ++ entries ++ ranges).foldl (fun s r => rngNote s c r) s
  masses.foldl (fun s x => addMass s c x.1 x.2) s

/-- The moves of the tile counters (10 R311): counter and tiles; `qsel` moves none. Where they are seen one by one, they come in this order: full,
partial, empty, denied; the manual names none (log 111). -/
def attMoves (a : Att) (h : PageList) (looks : List PageLook) : List (Nat × Nat) :=
  let count := fun (k : Nat) => ((pagesOf looks).map (fun p => (p.tiles.filter (fun t => t.2.2 == k)).length)).foldl (· + ·) 0
  let all := [(0, count 2), (1, count 1), (2, count 0), (3, (exclusionsOf looks).length * (tokensOf h.tcode / 16) * (quarters a.qmask).length)]
  if a.form = 2 then [] else all.filter (fun m => m.2 != 0)

/-- What a unit owes when its chain has run: the moves, the output rows or the selection, and one event for the excluded pages (10 R309). -/
def attOwes (s : State) (c : Ctx) (a : Att) (h : PageList) (looks : List PageLook) (rows : List (Nat × RowOut)) : AttDone :=
  let excl := exclusionsOf looks
  { moves := attMoves a h looks
    outs := if a.form = 2 then [(a.op 2, selectionBytes s c a h ((pagesOf looks).filter (fun p => !p.groups.isEmpty)))] else rowOuts a rows
    event := excl.head?.map (fun x => (x.2.1, excl.length, x.1, (excl.map (fun y => y.2.2)).min?.getD 0)) }

/-- A unit completes with what it owes (10 R319). -/
def attFinish (s : State) (id : Nat) (o : Op) (c : Ctx) (d : AttDone) : State :=
  let s := d.moves.foldl (fun s m => addCounter s c.q m.1 m.2) s
  let s := match d.event with | some e => opAudit s o e.1 e.2.1 e.2.2.1 e.2.2.2 6 0 | none => s
  endOp (d.outs.foldl (fun s x => writeOut s c.team x.1 x.2) s) id

/-- A unit completes; or, by the implementation's choice 1, makes the next move of a counter alone, so that others can see it made and the rest not (11
R345). -/
def moveCounters (s : State) (id : Nat) (o : Op) (c : Ctx) (a : Att) (d : AttDone) : State :=
  match d.moves with
  | m :: (n :: t) =>
    if choice s = 1 then (addCounter s.chosen c.q m.1 m.2).putOp id { o with body := .att { a with owed := some { d with moves := n :: t } } }
    else attFinish s.chosen id o c d
  | _ => attFinish s id o c d

/-- The effects of a unit whose page list is denied (10 R309). Its event names the list object and detail 0: the manual gives path and count only (log
109). -/
def attDenied (s : State) (o : Op) (c : Ctx) (a : Att) (va cls : Nat) : State :=
  let s := opAudit s o va 0 0 cls 7 0
  let outs := if a.form = 2 then [(a.op 2, bytesOf 8 0)] else rowOuts a ((rowsOf a.qmask).map (fun j => (j, emptyRow a.chans)))
  outs.foldl (fun s x => writeOut s c.team x.1 x.2) s

/-- The unit begins its chain anew after an abandonment: it binds, latches and resolves again, where nothing stops it. -/
def attBegin (s : State) (c : Ctx) (a : Att) : Res × Att :=
  let res := resolveFor s c a.ref
  let a := { a with prog := a.prog.map (fun (p : Nat × List Word) => (p.1, (slotProgram s c.q p.1).getD [])) }
  (res, { a with ref := healedOf a.ref res, rows := latchRows s c a, list := match res with | .obj o _ _ => some o | _ => none })

/-- The walks that a unit made for its list and for the pages that it had decided on, whatever becomes of it (07 R228). -/
def attWalks (s : State) (c : Ctx) (a : Att) (obj t : Nat) (looks : List PageLook) : State :=
  let page := fun (x : PageLook) => match x with
    | .page p => readRng p.eva 64 :: (if a.form = 2 then [] else p.ranges t a.chans)
    | .excluded _ eva _ => [readRng eva 64]
    | _ => []
  let idx := if looks.isEmpty then [] else [readRng (obj + 48 + 4 * a.i0) (4 * a.nl)]
  let refs := a.ref :: looks.filterMap (fun x => match x with | .page p => some p.e.ref | _ => none)
  (readRng (obj + 16) 32 :: idx ++ looks.flatMap page).foldl (fun s r => rngWalks s c r) (noteRefs s c.q (heapOf s c) refs)

/-- The unit runs its chain and completes, or stops without effect (10 R315, R319, R320). -/
def attComplete (s : State) (id : Nat) (o : Op) (c : Ctx) (a : Att) (obj : Nat) : State :=
  match lookList s c a obj with
  | .stop cs => match lowest cs with | some t => takeTrap (attWalks s c a obj 0 []) (opSite s id o) t | none => s
  | .fault f => takeFault (attWalks s c a obj 0 []) (opSite s id o) f
  | .denied va k => endOp (attDenied s o c a va k) id
  | .ok h looks reads =>
    match lowest (looks.flatMap (fun x => match x with | .stop cs => cs | _ => [])) with
    | some t => takeTrap (attWalks s c a obj (tokensOf h.tcode) looks) (opSite s id o) t
    | none =>
      match looks.findSome? (fun x => match x with | .fault f => some f | _ => none) with
      | some f => takeFault (attWalks s c a obj (tokensOf h.tcode) looks) (opSite s id o) f
      | none =>
        if looks.contains .held || (a.form == 1 && decide ((s.core c.core).upd.length + looks.length > 32) && flushHeld s c.core (fun _ => true)) then s
        else
          let s1 := attClose s c a h looks
          let rows := if a.form = 2 then [] else attRows s1 c a h looks
          let masses := if a.form = 1 then attMasses rows (livePages looks) else []
          match lowest (masses.flatMap (fun x => quernPageConds s c (massRng x.1))) with
          | some t => takeTrap (masses.foldl (fun s x => rngWalks s c (massRng x.1)) s) (opSite s id o) t
          | none =>
            match masses.findSome? (fun x => quernFault s c (massRng x.1)) with
            | some f => takeFault (masses.foldl (fun s x => rngWalks s c (massRng x.1)) s) (opSite s id o) { f with access := 4 }
            | none =>
              let d := attOwes s1 c a h looks rows
              moveCounters (attEffect (attWalks s1 c a obj (tokensOf h.tcode) looks) c a h looks reads masses) id o c a d

/-- An attention unit completes. -/
def execAttentionComplete (op : Nat) (s : State) : Out :=
  match tabGet s.ops op with
  | none => .next s
  | some o =>
    match opCtxAny s o, o.body with
    | some c, .att a =>
      match a.owed with
      | some d => .next (moveCounters s op o c a d)
      | none =>
      if o.halted || a.sample.isNone then .next s
      else match a.list with
      | some obj => .next (attComplete s op o c a obj)
      | none =>
        if a.prog.any (fun (p : Nat × List Word) => slotHeld s o.queue p.1 || bindFull s o.core o.queue p.1) then .next s else
        let s0 := { s with unit := { s.unit with addr := o.unit } }
        let (res, a') := attBegin s c a
        match lowest (attConds s c a ++ listCond s0 c a.lane res) with
        | some t => .next (takeTrap s (opSite s op o) t)
        | none =>
          match resFault res, a'.list with
          | some f, _ => .next (takeFault s (opSite s op o) f)
          | none, some obj => .next (attComplete (opWrites s o { h := [(a.hl, BitVec.ofNat 32 (2 ^ a.lane), fun _ =>
              if c.group.hlane a.hl a.lane = a.ref then a'.ref else c.group.hlane a.hl a.lane)] }) op o c a' obj)
          | none, none => .next s
    | _, _ => .next s

end Sys2Proof.Machine
end

