-- ==== Sys2Proof/Machine/Alu.lean ====
section
/-! DEFINITION. Integer and logic functions on 32-bit words (05 R144 to R148); lane and uniform forms share them (05 R149). -/

namespace Sys2Proof

/-- Clamp an exact integer to the signed or the unsigned 32-bit range (05 R144). -/
def clampI32 (i : Int) : Word := wordOfInt (max (-2147483648) (min i 2147483647))
def clampN32 (i : Int) : Word := wordOfInt (max 0 (min i 4294967295))

/-- `add` by mode: 0 wrapping, 1 `.sat.i32`, 2 `.sat.n32` (05 R144). -/
def addOp (m : BitVec 2) (a b : Word) : Word :=
  if m = 1 then clampI32 (a.toInt + b.toInt) else if m = 2 then clampN32 (a.toNat + b.toNat) else a + b

/-- `sub` by mode, with the same clamps. -/
def subOp (m : BitVec 2) (a b : Word) : Word :=
  if m = 1 then clampI32 (a.toInt - b.toInt) else if m = 2 then clampN32 ((a.toNat : Int) - b.toNat) else a - b

/-- `mul.hi`: bits [63:32] of the exact product; mode 0 signed, 1 unsigned. -/
def mulHiOp (m : BitVec 2) (a b : Word) : Word :=
  if m = 1 then BitVec.ofNat 32 (a.toNat * b.toNat / 2 ^ 32) else wordOfInt (a.toInt * b.toInt / 2 ^ 32)

/-- `mad.lo` (05 R144). -/
def madOp (a b c : Word) : Word := a * b + c

/-- `min` and `max`: mode 0 signed, 1 unsigned. -/
def minOp (m : BitVec 2) (a b : Word) : Word := if (if m = 1 then a.ult b else a.slt b) then a else b
def maxOp (m : BitVec 2) (a b : Word) : Word := if (if m = 1 then b.ult a else b.slt a) then a else b

/-- Shifts: an amount of 32 or more leaves nothing, or copies of the sign (05 R145). -/
def shlOp (a b : Word) : Word := if b.toNat ≥ 32 then 0 else a <<< b.toNat
def shrOp (a b : Word) : Word := if b.toNat ≥ 32 then 0 else a >>> b.toNat
def sraOp (a b : Word) : Word := a.sshiftRight (if b.toNat ≥ 32 then 31 else b.toNat)

/-- `rot`: left by b[4:0] (05 R145). -/
def rotOp (a b : Word) : Word := a.rotateLeft (b.toNat % 32)

/-- Field position, width and mask of `bfe` and `bfi` (05 R146). -/
def fieldPos (b : Word) : Nat := b.toNat % 32
def fieldWidth (b : Word) : Nat := min (bitsOf b.toNat 8 6) (32 - fieldPos b)
def fieldMask (b : Word) : Word := BitVec.ofNat 32 ((2 ^ fieldWidth b - 1) * 2 ^ fieldPos b)

/-- `bfe`: mode 0 zero-extends, 1 sign-extends (05 R146). -/
def bfeOp (m : BitVec 2) (a b : Word) : Word :=
  let v := ((a &&& fieldMask b) >>> fieldPos b).toNat
  if m = 1 then (if fieldWidth b = 0 then 0 else wordOfInt (signedOf (fieldWidth b) v)) else BitVec.ofNat 32 v

/-- `bfi` (05 R146). -/
def bfiOp (a b c : Word) : Word := (c &&& ~~~(fieldMask b)) ||| ((a <<< fieldPos b) &&& fieldMask b)

/-- Number of 1 bits among the lowest `n`. -/
def onesBelow (n : Nat) (a : Word) : Nat := ((List.range n).filter (fun i => a.getLsbD i)).length

/-- `popc`, `popc.lt`, `clz`, `brev`, `abs`, `not` (05 R146). -/
def popcOp (a : Word) : Word := BitVec.ofNat 32 (onesBelow 32 a)
def popcLtOp (a b : Word) : Word := BitVec.ofNat 32 (onesBelow (min b.toNat 32) a)
def clzOp (a : Word) : Word := BitVec.ofNat 32 (((List.range 32).find? (fun i => a.getLsbD (31 - i))).getD 32)
def brevOp (a : Word) : Word := maskOf (fun i => a.getLsbD (31 - i))
def absOp (a : Word) : Word := if a.msb then 0 - a else a

/-- Byte `i` of a word, signed or unsigned. -/
def byteVal (signed : Bool) (a : Word) (i : Nat) : Int :=
  if signed then signedOf 8 (bitsOf a.toNat (8 * i) 8) else (bitsOf a.toNat (8 * i) 8 : Nat)

/-- `dot4.i8`: modes 0 `.i8.i8`, 1 `.n8.n8`, 2 `.i8.n8`, 3 `.n8.i8` (02 R66, 05 R147). -/
def dot4Op (m : BitVec 2) (a b c : Word) : Word :=
  let sa := m == 0 || m == 2
  let sb := m == 0 || m == 3
  wordOfInt ((c.toNat : Int) + byteVal sa a 0 * byteVal sb b 0 + byteVal sa a 1 * byteVal sb b 1 +
    byteVal sa a 2 * byteVal sb b 2 + byteVal sa a 3 * byteVal sb b 3)

end Sys2Proof
end

