-- ==== Sys2Proof/Machine/Lane.lean ====
section
/-! DEFINITION. Lane integer and logic forms: majors 0x00 to 0x0B (05 R141 to R148) and the 16-bit lane forms (02 R55). -/

namespace Sys2Proof.Machine

open Sys2Proof

/-- A lane form of two sources: it acts in each acting lane (05 R141). -/
def laneOp2 (s : State) (d a b : Nat) (frees : List Nat) (f : Word → Word → Word) : Out :=
  issue s fun c => unit s c
    { frees := frees, v := [(d, acting s c, fun l => f (c.group.vlane a l) (c.group.vlane b l))] }

/-- A lane form of one source. -/
def laneOp1 (s : State) (d a : Nat) (frees : List Nat) (f : Word → Word) : Out :=
  issue s fun c => unit s c { frees := frees, v := [(d, acting s c, fun l => f (c.group.vlane a l))] }

/-- A lane form with an accumulating operand from vd or vc (05 R142). -/
def laneOp3 (s : State) (d a b : Nat) (frees : List Nat) (f : Word → Word → Word → Word) : Out :=
  let t := thirdSource s d
  issue s fun c => unit s c
    { frees := frees ++ (if t.2 then [t.1] else [])
      v := [(d, acting s c, fun l => f (c.group.vlane a l) (c.group.vlane b l) (c.group.vlane t.1 l))] }

/-- The two words of a 64-bit result in the even and the odd register (02 R62). -/
def pairOut (d : Nat) (m : BitVec 32) (f : Nat → DWord) : List (Nat × BitVec 32 × (Nat → Word)) :=
  [(d, m, fun l => (f l).setWidth 32), (d + 1, m, fun l => ((f l) >>> 32).setWidth 32)]

/-! ### Major 0x00 (05 R144) -/

/-- `add` (05 R144). -/
def execAdd (m : BitVec 2) (y x : BitVec 1) (b a d : BitVec 6) (s : State) : Out :=
  laneOp2 s d.toNat a.toNat b.toNat (mark x a.toNat 1 ++ mark y b.toNat 1) (addOp m)

/-- `sub` (05 R144). -/
def execSub (m : BitVec 2) (y x : BitVec 1) (b a d : BitVec 6) (s : State) : Out :=
  laneOp2 s d.toNat a.toNat b.toNat (mark x a.toNat 1 ++ mark y b.toNat 1) (subOp m)

/-- `mul.lo` (05 R144). -/
def execMulLo (y x : BitVec 1) (b a d : BitVec 6) (s : State) : Out :=
  laneOp2 s d.toNat a.toNat b.toNat (mark x a.toNat 1 ++ mark y b.toNat 1) (· * ·)

/-- `mul.hi` (05 R144). -/
def execMulHi (m : BitVec 2) (y x : BitVec 1) (b a d : BitVec 6) (s : State) : Out :=
  laneOp2 s d.toNat a.toNat b.toNat (mark x a.toNat 1 ++ mark y b.toNat 1) (mulHiOp m)

/-- `mad.lo` (05 R144, R142). -/
def execMadLo (y x : BitVec 1) (b a d : BitVec 6) (s : State) : Out :=
  laneOp3 s d.toNat a.toNat b.toNat (mark x a.toNat 1 ++ mark y b.toNat 1) madOp

/-- `adda`: 64-bit sum of pairs, modulo 2^64 (05 R144). -/
def execAdda (y x : BitVec 1) (b a d : BitVec 5) (s : State) : Out :=
  issue s fun c => unit s c
    { frees := mark x (2 * a.toNat) 2 ++ mark y (2 * b.toNat) 2
      v := pairOut (2 * d.toNat) (acting s c) (fun l => c.group.vpair (2 * a.toNat) l + c.group.vpair (2 * b.toNat) l) }

/-- `min` (05 R144). -/
def execMin (m : BitVec 2) (y x : BitVec 1) (b a d : BitVec 6) (s : State) : Out :=
  laneOp2 s d.toNat a.toNat b.toNat (mark x a.toNat 1 ++ mark y b.toNat 1) (minOp m)

/-- `max` (05 R144). -/
def execMax (m : BitVec 2) (y x : BitVec 1) (b a d : BitVec 6) (s : State) : Out :=
  laneOp2 s d.toNat a.toNat b.toNat (mark x a.toNat 1 ++ mark y b.toNat 1) (maxOp m)

/-! ### Major 0x01 (05 R145) -/

/-- `and` (05 R145). -/
def execAnd (y x : BitVec 1) (b a d : BitVec 6) (s : State) : Out :=
  laneOp2 s d.toNat a.toNat b.toNat (mark x a.toNat 1 ++ mark y b.toNat 1) (· &&& ·)

/-- `or` (05 R145). -/
def execOr (y x : BitVec 1) (b a d : BitVec 6) (s : State) : Out :=
  laneOp2 s d.toNat a.toNat b.toNat (mark x a.toNat 1 ++ mark y b.toNat 1) (· ||| ·)

/-- `xor` (05 R145). -/
def execXor (y x : BitVec 1) (b a d : BitVec 6) (s : State) : Out :=
  laneOp2 s d.toNat a.toNat b.toNat (mark x a.toNat 1 ++ mark y b.toNat 1) (· ^^^ ·)

/-- `andn` (05 R145). -/
def execAndn (y x : BitVec 1) (b a d : BitVec 6) (s : State) : Out :=
  laneOp2 s d.toNat a.toNat b.toNat (mark x a.toNat 1 ++ mark y b.toNat 1) (fun p q => p &&& ~~~q)

/-- `shl` (05 R145). -/
def execShl (y x : BitVec 1) (b a d : BitVec 6) (s : State) : Out :=
  laneOp2 s d.toNat a.toNat b.toNat (mark x a.toNat 1 ++ mark y b.toNat 1) shlOp

/-- `shr` (05 R145). -/
def execShr (y x : BitVec 1) (b a d : BitVec 6) (s : State) : Out :=
  laneOp2 s d.toNat a.toNat b.toNat (mark x a.toNat 1 ++ mark y b.toNat 1) shrOp

/-- `sra` (05 R145). -/
def execSra (y x : BitVec 1) (b a d : BitVec 6) (s : State) : Out :=
  laneOp2 s d.toNat a.toNat b.toNat (mark x a.toNat 1 ++ mark y b.toNat 1) sraOp

/-- `rot` (05 R145). -/
def execRot (y x : BitVec 1) (b a d : BitVec 6) (s : State) : Out :=
  laneOp2 s d.toNat a.toNat b.toNat (mark x a.toNat 1 ++ mark y b.toNat 1) rotOp

/-! ### Majors 0x02 and 0x03 (05 R146, R147) -/

/-- `bfe` (05 R146). -/
def execBfe (m : BitVec 2) (y x : BitVec 1) (b a d : BitVec 6) (s : State) : Out :=
  laneOp2 s d.toNat a.toNat b.toNat (mark x a.toNat 1 ++ mark y b.toNat 1) (bfeOp m)

/-- `bfi` (05 R146, R142). -/
def execBfi (y x : BitVec 1) (b a d : BitVec 6) (s : State) : Out :=
  laneOp3 s d.toNat a.toNat b.toNat (mark x a.toNat 1 ++ mark y b.toNat 1) bfiOp

/-- `popc` (05 R146). -/
def execPopc (x : BitVec 1) (a d : BitVec 6) (s : State) : Out :=
  laneOp1 s d.toNat a.toNat (mark x a.toNat 1) popcOp

/-- `popc.lt` (05 R146). -/
def execPopcLt (y x : BitVec 1) (b a d : BitVec 6) (s : State) : Out :=
  laneOp2 s d.toNat a.toNat b.toNat (mark x a.toNat 1 ++ mark y b.toNat 1) popcLtOp

/-- `clz` (05 R146). -/
def execClz (x : BitVec 1) (a d : BitVec 6) (s : State) : Out :=
  laneOp1 s d.toNat a.toNat (mark x a.toNat 1) clzOp

/-- `brev` (05 R146). -/
def execBrev (x : BitVec 1) (a d : BitVec 6) (s : State) : Out :=
  laneOp1 s d.toNat a.toNat (mark x a.toNat 1) brevOp

/-- `abs` (05 R146). -/
def execAbs (x : BitVec 1) (a d : BitVec 6) (s : State) : Out :=
  laneOp1 s d.toNat a.toNat (mark x a.toNat 1) absOp

/-- `not` (05 R146). -/
def execNot (x : BitVec 1) (a d : BitVec 6) (s : State) : Out :=
  laneOp1 s d.toNat a.toNat (mark x a.toNat 1) (~~~ ·)

/-- `dot4.i8` (05 R147, R142). -/
def execDot4I8 (m : BitVec 2) (y x : BitVec 1) (b a d : BitVec 6) (s : State) : Out :=
  laneOp3 s d.toNat a.toNat b.toNat (mark x a.toNat 1 ++ mark y b.toNat 1) (dot4Op m)

/-! ### Immediate forms, majors 0x04 to 0x0B (05 R148) -/

/-- `addi` (05 R148). -/
def execAddi (m : BitVec 1) (x : BitVec 1) (i : BitVec 11) (a d : BitVec 6) (s : State) : Out :=
  laneOp1 s d.toNat a.toNat (mark x a.toNat 1) (fun w => addOp (m.setWidth 2) w (immediate s i))

/-- `andi` (05 R148). -/
def execAndi (x : BitVec 1) (i : BitVec 11) (a d : BitVec 6) (s : State) : Out :=
  laneOp1 s d.toNat a.toNat (mark x a.toNat 1) (fun w => w &&& immediate s i)

/-- `ori` (05 R148). -/
def execOri (x : BitVec 1) (i : BitVec 11) (a d : BitVec 6) (s : State) : Out :=
  laneOp1 s d.toNat a.toNat (mark x a.toNat 1) (fun w => w ||| immediate s i)

/-- `xori` (05 R148). -/
def execXori (x : BitVec 1) (i : BitVec 11) (a d : BitVec 6) (s : State) : Out :=
  laneOp1 s d.toNat a.toNat (mark x a.toNat 1) (fun w => w ^^^ immediate s i)

/-- `shli`: amount 0 to 31 (05 R148). -/
def execShli (x : BitVec 1) (n : BitVec 5) (a d : BitVec 6) (s : State) : Out :=
  laneOp1 s d.toNat a.toNat (mark x a.toNat 1) (fun w => shlOp w (n.setWidth 32))

/-- `shri`: amount 0 to 31 (05 R148). -/
def execShri (x : BitVec 1) (n : BitVec 5) (a d : BitVec 6) (s : State) : Out :=
  laneOp1 s d.toNat a.toNat (mark x a.toNat 1) (fun w => shrOp w (n.setWidth 32))

/-- `srai`: amount 0 to 31 (05 R148). -/
def execSrai (x : BitVec 1) (n : BitVec 5) (a d : BitVec 6) (s : State) : Out :=
  laneOp1 s d.toNat a.toNat (mark x a.toNat 1) (fun w => sraOp w (n.setWidth 32))

/-- `roti`: amount 0 to 31 (05 R148). -/
def execRoti (x : BitVec 1) (n : BitVec 5) (a d : BitVec 6) (s : State) : Out :=
  laneOp1 s d.toNat a.toNat (mark x a.toNat 1) (fun w => rotOp w (n.setWidth 32))

/-- `movi` (05 R148). -/
def execMovi (i : BitVec 11) (d : BitVec 6) (s : State) : Out :=
  issue s fun c => unit s c { v := [(d.toNat, acting s c, fun _ => immediate s i)] }

/-- `mini` (05 R148). -/
def execMini (m : BitVec 1) (x : BitVec 1) (i : BitVec 11) (a d : BitVec 6) (s : State) : Out :=
  laneOp1 s d.toNat a.toNat (mark x a.toNat 1) (fun w => minOp (m.setWidth 2) w (immediate s i))

/-- `maxi` (05 R148). -/
def execMaxi (m : BitVec 1) (x : BitVec 1) (i : BitVec 11) (a d : BitVec 6) (s : State) : Out :=
  laneOp1 s d.toNat a.toNat (mark x a.toNat 1) (fun w => maxOp (m.setWidth 2) w (immediate s i))

/-! ### 16-bit lane forms (02 R55): both marks 0, mode 0, va is vd -/

/-- `mov v, v` in 16 bits (02 R55, 05 R159). -/
def execMov16 (b d : BitVec 5) (s : State) : Out := laneOp1 s d.toNat b.toNat [] id

/-- `add` in 16 bits (02 R55). -/
def execAdd16 (b d : BitVec 5) (s : State) : Out := laneOp2 s d.toNat d.toNat b.toNat [] (addOp 0)

/-- `sub` in 16 bits (02 R55). -/
def execSub16 (b d : BitVec 5) (s : State) : Out := laneOp2 s d.toNat d.toNat b.toNat [] (subOp 0)

/-- `mul` in 16 bits (02 R55). -/
def execMul16 (b d : BitVec 5) (s : State) : Out := laneOp2 s d.toNat d.toNat b.toNat [] (· * ·)

/-- `and` in 16 bits (02 R55). -/
def execAnd16 (b d : BitVec 5) (s : State) : Out := laneOp2 s d.toNat d.toNat b.toNat [] (· &&& ·)

/-- `or` in 16 bits (02 R55). -/
def execOr16 (b d : BitVec 5) (s : State) : Out := laneOp2 s d.toNat d.toNat b.toNat [] (· ||| ·)

/-- `xor` in 16 bits (02 R55). -/
def execXor16 (b d : BitVec 5) (s : State) : Out := laneOp2 s d.toNat d.toNat b.toNat [] (· ^^^ ·)

/-- `andn` in 16 bits (02 R55). -/
def execAndn16 (b d : BitVec 5) (s : State) : Out := laneOp2 s d.toNat d.toNat b.toNat [] (fun p q => p &&& ~~~q)

/-- `shl` in 16 bits (02 R55). -/
def execShl16 (b d : BitVec 5) (s : State) : Out := laneOp2 s d.toNat d.toNat b.toNat [] shlOp

/-- `shr` in 16 bits (02 R55). -/
def execShr16 (b d : BitVec 5) (s : State) : Out := laneOp2 s d.toNat d.toNat b.toNat [] shrOp

/-- `sra` in 16 bits (02 R55). -/
def execSra16 (b d : BitVec 5) (s : State) : Out := laneOp2 s d.toNat d.toNat b.toNat [] sraOp

/-- `min` in 16 bits (02 R55). -/
def execMin16 (b d : BitVec 5) (s : State) : Out := laneOp2 s d.toNat d.toNat b.toNat [] (minOp 0)

/-- `max` in 16 bits (02 R55). -/
def execMax16 (b d : BitVec 5) (s : State) : Out := laneOp2 s d.toNat d.toNat b.toNat [] (maxOp 0)

end Sys2Proof.Machine
end

