-- ==== Sys2Proof/Machine/Cross.lean ====
section
/-! DEFINITION. Predicates, moves and cross-lane forms: majors 0x18 to 0x1F (05 R156 to R166). -/

namespace Sys2Proof.Machine

open Sys2Proof

/-! ### Comparisons (05 R156) -/

/-- `cmp` in every acting lane; predicate bits of other lanes stay. -/
def cmpOp (s : State) (cc : Cc) (m : BitVec 2) (p a b : Nat) (frees : List Nat) : Out :=
  issue s fun c => unit s c
    { frees := frees, p := [(p, acting s c, maskOf (fun l => compare cc m (c.group.vlane a l) (c.group.vlane b l)))] }

/-- `cmp.eq` (05 R156). -/
def execCmpEq (m : BitVec 2) (y x : BitVec 1) (b a : BitVec 6) (p : BitVec 3) (s : State) : Out :=
  cmpOp s .eq m p.toNat a.toNat b.toNat (mark x a.toNat 1 ++ mark y b.toNat 1)

/-- `cmp.ne` (05 R156). -/
def execCmpNe (m : BitVec 2) (y x : BitVec 1) (b a : BitVec 6) (p : BitVec 3) (s : State) : Out :=
  cmpOp s .ne m p.toNat a.toNat b.toNat (mark x a.toNat 1 ++ mark y b.toNat 1)

/-- `cmp.lt` (05 R156). -/
def execCmpLt (m : BitVec 2) (y x : BitVec 1) (b a : BitVec 6) (p : BitVec 3) (s : State) : Out :=
  cmpOp s .lt m p.toNat a.toNat b.toNat (mark x a.toNat 1 ++ mark y b.toNat 1)

/-- `cmp.le` (05 R156). -/
def execCmpLe (m : BitVec 2) (y x : BitVec 1) (b a : BitVec 6) (p : BitVec 3) (s : State) : Out :=
  cmpOp s .le m p.toNat a.toNat b.toNat (mark x a.toNat 1 ++ mark y b.toNat 1)

/-- `cmp.gt` (05 R156). -/
def execCmpGt (m : BitVec 2) (y x : BitVec 1) (b a : BitVec 6) (p : BitVec 3) (s : State) : Out :=
  cmpOp s .gt m p.toNat a.toNat b.toNat (mark x a.toNat 1 ++ mark y b.toNat 1)

/-- `cmp.ge` (05 R156). -/
def execCmpGe (m : BitVec 2) (y x : BitVec 1) (b a : BitVec 6) (p : BitVec 3) (s : State) : Out :=
  cmpOp s .ge m p.toNat a.toNat b.toNat (mark x a.toNat 1 ++ mark y b.toNat 1)

/-! ### Predicate logic (05 R157): p0 reads 1 -/

/-- Combine predicates in the acting lanes. -/
def predOp (s : State) (d : Nat) (f : Group → BitVec 32) : Out :=
  issue s fun c => unit s c { p := [(d, acting s c, f c.group)] }

/-- `pand` (05 R157). -/
def execPand (b a d : BitVec 3) (s : State) : Out := predOp s d.toNat (fun g => g.pread a.toNat &&& g.pread b.toNat)

/-- `por` (05 R157). -/
def execPor (b a d : BitVec 3) (s : State) : Out := predOp s d.toNat (fun g => g.pread a.toNat ||| g.pread b.toNat)

/-- `pxor` (05 R157). -/
def execPxor (b a d : BitVec 3) (s : State) : Out := predOp s d.toNat (fun g => g.pread a.toNat ^^^ g.pread b.toNat)

/-- `pnot` (05 R157). -/
def execPnot (a d : BitVec 3) (s : State) : Out := predOp s d.toNat (fun g => ~~~(g.pread a.toNat))

/-! ### Selection and moves (05 R158, R159) -/

/-- `sel`: va where pN XOR neg is 1, else vb (05 R158). -/
def execSel (n y x : BitVec 1) (p : BitVec 3) (b a d : BitVec 6) (s : State) : Out :=
  issue s fun c => unit s c
    { frees := mark x a.toNat 1 ++ mark y b.toNat 1
      v := [(d.toNat, acting s c, fun l =>
        if (c.group.pread p.toNat).getLsbD l != (n == 1) then c.group.vlane a.toNat l else c.group.vlane b.toNat l)] }

/-- `mov` (05 R159). -/
def execMov (y : BitVec 1) (b d : BitVec 6) (s : State) : Out := laneOp1 s d.toNat b.toNat (mark y b.toNat 1) id

/-- `movk` (05 R159). -/
def execMovk (a : BitVec 5) (d : BitVec 6) (s : State) : Out :=
  issue s fun c => unit s c { v := [(d.toNat, acting s c, fun _ => c.group.kread a.toNat)] }

/-- `sreg` (05 R159, 04 R139). -/
def execSreg (n d : BitVec 6) (s : State) : Out :=
  issue s fun c => unit s c { v := [(d.toNat, acting s c, fun l => BitVec.ofNat 32 (sregValue s c n.toNat l))] }

/-! ### Shuffles (05 R160, R161) -/

/-- A shuffle: a function of the lane and its vb value gives the source lane; none means the lane's own value. -/
def shuffle (s : State) (d a b : Nat) (frees : List Nat) (src : Nat → Nat → Option Nat) : Out :=
  issue s fun c => unit s c
    { frees := frees
      v := [(d, acting s c, fun l =>
        match src l (c.group.vlane b l).toNat with
        | none => c.group.vlane a l
        | some j => if c.split.mask.getLsbD j then c.group.vlane a j else 0)] }

/-- `shfl.idx` (05 R161). -/
def execShflIdx (y x : BitVec 1) (b a d : BitVec 6) (s : State) : Out :=
  shuffle s d.toNat a.toNat b.toNat (mark x a.toNat 1 ++ mark y b.toNat 1) (fun _ v => some (v % 32))

/-- `shfl.up` (05 R161). -/
def execShflUp (y x : BitVec 1) (b a d : BitVec 6) (s : State) : Out :=
  shuffle s d.toNat a.toNat b.toNat (mark x a.toNat 1 ++ mark y b.toNat 1) (fun l v => if v > l then none else some (l - v))

/-- `shfl.down` (05 R161). -/
def execShflDown (y x : BitVec 1) (b a d : BitVec 6) (s : State) : Out :=
  shuffle s d.toNat a.toNat b.toNat (mark x a.toNat 1 ++ mark y b.toNat 1) (fun l v => if l + v > 31 then none else some (l + v))

/-- `shfl.xor` (05 R161). -/
def execShflXor (y x : BitVec 1) (b a d : BitVec 6) (s : State) : Out :=
  shuffle s d.toNat a.toNat b.toNat (mark x a.toNat 1 ++ mark y b.toNat 1) (fun l v => some (Nat.xor l (v % 32)))

/-- `xg`: gathers from a window of eight registers, every lane of it (05 R162). -/
def execXg (y x : BitVec 1) (b : BitVec 6) (a : BitVec 3) (d : BitVec 6) (s : State) : Out :=
  issue s fun c => unit s c
    { frees := mark x (8 * a.toNat) 8 ++ mark y b.toNat 1
      v := [(d.toNat, acting s c, fun l =>
        let i := (c.group.vlane b.toNat l).toNat
        if i < 256 then c.group.vlane (8 * a.toNat + i / 32) (i % 32) else 0)] }

/-- `perm.b`: looks up four bytes in a table of 16; mode 0 `.lo`, 1 `.hi` (05 R163, 02 R66). -/
def execPermB (h x : BitVec 1) (q : BitVec 3) (a d : BitVec 6) (s : State) : Out :=
  issue s fun c => unit s c
    { frees := mark x a.toNat 1
      v := [(d.toNat, acting s c, fun l =>
        let w := (c.group.vlane a.toNat l).toNat
        BitVec.ofNat 32 (natOfBytes ((List.range 4).map (fun i =>
          let n := bitsOf w (8 * i + if h = 1 then 4 else 0) 4
          BitVec.ofNat 8 (bitsOf (c.group.kread (4 * q.toNat + n / 4)).toNat (8 * (n % 4)) 8)))))] }

/-! ### Votes (05 R164) -/

/-- `vote.any` (05 R164). -/
def execVoteAny (a d : BitVec 3) (s : State) : Out :=
  issue s fun c => unit s c
    { p := [(d.toNat, acting s c, if voteAnyOf (acting s c) (c.group.pread a.toNat) then 0xffffffff#32 else 0)] }

/-- `vote.all` (05 R164). -/
def execVoteAll (a d : BitVec 3) (s : State) : Out :=
  issue s fun c => unit s c
    { p := [(d.toNat, acting s c, if voteAllOf (acting s c) (c.group.pread a.toNat) then 0xffffffff#32 else 0)] }

/-- `vote.ballot`: if no lane receives, nothing is written (05 R164). -/
def execVoteBallot (a : BitVec 3) (d : BitVec 5) (s : State) : Out :=
  issue s fun c => unit s c
    { k := if acting s c = 0 then [] else [(d.toNat, acting s c &&& c.group.pread a.toNat)] }

/-! ### Reductions and scan (05 R165) -/

/-- One step of an addition by type: 0 `.i32`, 1 `.n32` wrap; 2 `.f32` rounds. -/
def redAddStep (m : BitVec 2) (a b : Word) : Word := if m = 2 then f32Bits (faddRne (f32Num a) (f32Num b)) else a + b

/-- The smaller or the larger by type. -/
def redMinStep (m : BitVec 2) (a b : Word) : Word :=
  if m = 2 then BitVec.ofNat 32 (fminBits fp32 false a.toNat b.toNat) else minOp m a b
def redMaxStep (m : BitVec 2) (a b : Word) : Word :=
  if m = 2 then BitVec.ofNat 32 (fminBits fp32 true a.toNat b.toNat) else maxOp m a b

/-- Fold the values of lanes in ascending order, starting from a copy of the first: a sum over one lane is an exact copy, a NaN that is not canonical
too (05 R165, log 95). -/
def foldLanes (f : Word → Word → Word) : List Word → Word
  | [] => 0
  | x :: t => t.foldl f x

/-- The smallest or the largest value: one lane's is that of the lane and itself, so that a NaN that no number stands beside gives the canonical one
(05 R152, 08 R244). -/
def foldBest (f : Word → Word → Word) : List Word → Word
  | [] => 0
  | x :: t => t.foldl f (f x x)

/-- A reduction: every receiving lane gets the fold over the receiving lanes. -/
def reduceOp (s : State) (d a : Nat) (frees : List Nat) (fold : List Word → Word) : Out :=
  issue s fun c =>
    let r := fold ((lanesOf (acting s c)).map (c.group.vlane a))
    unit s c { frees := frees, v := [(d, acting s c, fun _ => r)] }

/-- `gred.add` (05 R165). -/
def execGredAdd (m : BitVec 2) (x : BitVec 1) (a d : BitVec 6) (s : State) : Out :=
  reduceOp s d.toNat a.toNat (mark x a.toNat 1) (foldLanes (redAddStep m))

/-- `gred.min` (05 R165). -/
def execGredMin (m : BitVec 2) (x : BitVec 1) (a d : BitVec 6) (s : State) : Out :=
  reduceOp s d.toNat a.toNat (mark x a.toNat 1) (foldBest (redMinStep m))

/-- `gred.max` (05 R165). -/
def execGredMax (m : BitVec 2) (x : BitVec 1) (a d : BitVec 6) (s : State) : Out :=
  reduceOp s d.toNat a.toNat (mark x a.toNat 1) (foldBest (redMaxStep m))

/-- `gscan.add`: inclusive, in ascending lane order (05 R165). -/
def execGscanAdd (m : BitVec 2) (x : BitVec 1) (a d : BitVec 6) (s : State) : Out :=
  issue s fun c => unit s c
    { frees := mark x a.toNat 1
      v := [(d.toNat, acting s c, fun l =>
        foldLanes (redAddStep m) (((lanesOf (acting s c)).filter (fun j => decide (j ≤ l))).map (c.group.vlane a.toNat)))] }

/-! ### Row balancing (05 R166) -/

/-- The row that holds a flattened element, and the element's offset in it. -/
def findRow : List (Nat × Nat) → Nat → Option (Nat × Nat)
  | [], _ => none
  | (l, len) :: t, e => if e < len then some (l, e) else findRow t (e - len)

/-- `rbal` (05 R166). -/
def execRbal (x : BitVec 1) (b : BitVec 5) (a : BitVec 6) (d : BitVec 5) (s : State) : Out :=
  issue s fun c =>
    let ls := lanesOf (acting s c)
    let rows := ls.map (fun l => (l, (c.group.vlane a.toNat l).toNat))
    let at_ := fun l => findRow rows ((c.group.kread b.toNat).toNat + (ls.filter (fun j => decide (j < l))).length)
    unit s c
      { frees := mark x a.toNat 1
        v := [(2 * d.toNat, acting s c, fun l => match at_ l with | some r => BitVec.ofNat 32 r.1 | none => 0xffffffff#32),
              (2 * d.toNat + 1, acting s c, fun l => match at_ l with | some r => BitVec.ofNat 32 r.2 | none => 0)] }

end Sys2Proof.Machine
end

