-- ==== Sys2Proof/Machine/Float.lean ====
section
/-! DEFINITION. Lane floating point and conversion: majors 0x10 to 0x14 (05 R151 to R155). -/

namespace Sys2Proof.Machine

open Sys2Proof

/-- One rounded result in a format: the exact result, rounded once (05 R151). -/
def faddIn (f : Fmt) (m : BitVec 2) (a b : Nat) : Nat := fround f (rndOf m) (addNum (rndOf m == .rd) (fdecode f a) (fdecode f b))
def fsubIn (f : Fmt) (m : BitVec 2) (a b : Nat) : Nat := fround f (rndOf m) (addNum (rndOf m == .rd) (fdecode f a) (negNum (fdecode f b)))
def fmulIn (f : Fmt) (m : BitVec 2) (a b : Nat) : Nat := fround f (rndOf m) (mulNum (fdecode f a) (fdecode f b))
def fmaIn (f : Fmt) (m : BitVec 2) (a b c : Nat) : Nat :=
  fround f (rndOf m) (addNum (rndOf m == .rd) (mulNum (fdecode f a) (fdecode f b)) (fdecode f c))

/-- A function on FP32 bits as one on words. -/
def onF32 (f : Nat → Nat → Nat) (a b : Word) : Word := BitVec.ofNat 32 (f a.toNat b.toNat)

/-- The two halves of a packed form (05 R153). -/
def onHalves (f : Nat → Nat → Nat) (a b : Word) : Word :=
  BitVec.ofNat 32 (f (a.toNat % 65536) (b.toNat % 65536) + 65536 * f (a.toNat / 65536) (b.toNat / 65536))
def onHalves3 (f : Nat → Nat → Nat → Nat) (a b c : Word) : Word :=
  BitVec.ofNat 32 (f (a.toNat % 65536) (b.toNat % 65536) (c.toNat % 65536) +
    65536 * f (a.toNat / 65536) (b.toNat / 65536) (c.toNat / 65536))

/-- `fadd` (05 R151). -/
def execFadd (m : BitVec 2) (y x : BitVec 1) (b a d : BitVec 6) (s : State) : Out :=
  laneOp2 s d.toNat a.toNat b.toNat (mark x a.toNat 1 ++ mark y b.toNat 1) (onF32 (faddIn fp32 m))

/-- `fsub` (05 R151). -/
def execFsub (m : BitVec 2) (y x : BitVec 1) (b a d : BitVec 6) (s : State) : Out :=
  laneOp2 s d.toNat a.toNat b.toNat (mark x a.toNat 1 ++ mark y b.toNat 1) (onF32 (fsubIn fp32 m))

/-- `fmul` (05 R151). -/
def execFmul (m : BitVec 2) (y x : BitVec 1) (b a d : BitVec 6) (s : State) : Out :=
  laneOp2 s d.toNat a.toNat b.toNat (mark x a.toNat 1 ++ mark y b.toNat 1) (onF32 (fmulIn fp32 m))

/-- `fma`, rounded once (05 R151, R142). -/
def execFma (m : BitVec 2) (y x : BitVec 1) (b a d : BitVec 6) (s : State) : Out :=
  laneOp3 s d.toNat a.toNat b.toNat (mark x a.toNat 1 ++ mark y b.toNat 1) (fun p q r => BitVec.ofNat 32 (fmaIn fp32 m p.toNat q.toNat r.toNat))

/-- `fmin` (05 R152). -/
def execFmin (y x : BitVec 1) (b a d : BitVec 6) (s : State) : Out :=
  laneOp2 s d.toNat a.toNat b.toNat (mark x a.toNat 1 ++ mark y b.toNat 1) (onF32 (fminBits fp32 false))

/-- `fmax` (05 R152). -/
def execFmax (y x : BitVec 1) (b a d : BitVec 6) (s : State) : Out :=
  laneOp2 s d.toNat a.toNat b.toNat (mark x a.toNat 1 ++ mark y b.toNat 1) (onF32 (fminBits fp32 true))

/-- `fadd.bf16x2` (05 R153). -/
def execFaddBf16x2 (m : BitVec 2) (y x : BitVec 1) (b a d : BitVec 6) (s : State) : Out :=
  laneOp2 s d.toNat a.toNat b.toNat (mark x a.toNat 1 ++ mark y b.toNat 1) (onHalves (faddIn bf16 m))

/-- `fmul.bf16x2` (05 R153). -/
def execFmulBf16x2 (m : BitVec 2) (y x : BitVec 1) (b a d : BitVec 6) (s : State) : Out :=
  laneOp2 s d.toNat a.toNat b.toNat (mark x a.toNat 1 ++ mark y b.toNat 1) (onHalves (fmulIn bf16 m))

/-- `fma.bf16x2` (05 R153). -/
def execFmaBf16x2 (m : BitVec 2) (y x : BitVec 1) (b a d : BitVec 6) (s : State) : Out :=
  laneOp3 s d.toNat a.toNat b.toNat (mark x a.toNat 1 ++ mark y b.toNat 1) (onHalves3 (fmaIn bf16 m))

/-- `fmin.bf16x2` (05 R153). -/
def execFminBf16x2 (y x : BitVec 1) (b a d : BitVec 6) (s : State) : Out :=
  laneOp2 s d.toNat a.toNat b.toNat (mark x a.toNat 1 ++ mark y b.toNat 1) (onHalves (fminBits bf16 false))

/-- `fmax.bf16x2` (05 R153). -/
def execFmaxBf16x2 (y x : BitVec 1) (b a d : BitVec 6) (s : State) : Out :=
  laneOp2 s d.toNat a.toNat b.toNat (mark x a.toNat 1 ++ mark y b.toNat 1) (onHalves (fminBits bf16 true))

/-- `fadd.f16x2` (05 R153). -/
def execFaddF16x2 (m : BitVec 2) (y x : BitVec 1) (b a d : BitVec 6) (s : State) : Out :=
  laneOp2 s d.toNat a.toNat b.toNat (mark x a.toNat 1 ++ mark y b.toNat 1) (onHalves (faddIn fp16 m))

/-- `fmul.f16x2` (05 R153). -/
def execFmulF16x2 (m : BitVec 2) (y x : BitVec 1) (b a d : BitVec 6) (s : State) : Out :=
  laneOp2 s d.toNat a.toNat b.toNat (mark x a.toNat 1 ++ mark y b.toNat 1) (onHalves (fmulIn fp16 m))

/-- `fma.f16x2` (05 R153). -/
def execFmaF16x2 (m : BitVec 2) (y x : BitVec 1) (b a d : BitVec 6) (s : State) : Out :=
  laneOp3 s d.toNat a.toNat b.toNat (mark x a.toNat 1 ++ mark y b.toNat 1) (onHalves3 (fmaIn fp16 m))

/-- `fmin.f16x2` (05 R153). -/
def execFminF16x2 (y x : BitVec 1) (b a d : BitVec 6) (s : State) : Out :=
  laneOp2 s d.toNat a.toNat b.toNat (mark x a.toNat 1 ++ mark y b.toNat 1) (onHalves (fminBits fp16 false))

/-- `fmax.f16x2` (05 R153). -/
def execFmaxF16x2 (y x : BitVec 1) (b a d : BitVec 6) (s : State) : Out :=
  laneOp2 s d.toNat a.toNat b.toNat (mark x a.toNat 1 ++ mark y b.toNat 1) (onHalves (fminBits fp16 true))

/-- `rcp` (05 R154, 08 R264 to R267). -/
def execRcp (x : BitVec 1) (a d : BitVec 6) (s : State) : Out :=
  laneOp1 s d.toNat a.toNat (mark x a.toNat 1) (fun w => f32Bits (rcpd (f32Num w)))

/-- `rsqrt` (05 R154, 08 R264 to R267). -/
def execRsqrt (x : BitVec 1) (a d : BitVec 6) (s : State) : Out :=
  laneOp1 s d.toNat a.toNat (mark x a.toNat 1) (fun w => f32Bits (rsqrtd (f32Num w)))

/-- `exp2` (05 R154, 08 R264 to R267). -/
def execExp2 (x : BitVec 1) (a d : BitVec 6) (s : State) : Out :=
  laneOp1 s d.toNat a.toNat (mark x a.toNat 1) (fun w => f32Bits (exp2d (f32Num w)))

/-- `log2` (05 R154, 08 R264 to R267). -/
def execLog2 (x : BitVec 1) (a d : BitVec 6) (s : State) : Out :=
  laneOp1 s d.toNat a.toNat (mark x a.toNat 1) (fun w => f32Bits (log2d (f32Num w)))

/-- Decode a source of `cvt` exactly (02 R68, 05 R155): an 8-bit type reads [7:0], a 16-bit type [15:0]. -/
def cvtDecode (ty : BitVec 3) (a : Word) : Num :=
  match ty.toNat with
  | 0 => fdecode fp32 a.toNat
  | 1 => fdecode fp16 (a.toNat % 65536)
  | 2 => fdecode bf16 (a.toNat % 65536)
  | 3 => numOfInt a.toInt 0 false
  | 4 => numOfInt a.toNat 0 false
  | 5 => fdecode e4m3 (a.toNat % 256)
  | _ => fdecode e5m2 (a.toNat % 256)

/-- An integer destination: rounded by the mode, then clamped; infinities clamp and a NaN gives 0 (05 R155). -/
def cvtInt (signed : Bool) (m : BitVec 2) (x : Num) : Word :=
  let clamp := fun i => if signed then clampI32 i else clampN32 i
  match x with
  | .nan => 0
  | .inf neg => if neg then clamp (-2 ^ 40) else clamp (2 ^ 40)
  | .fin neg mant e => clamp (roundInt (rndOf m) neg mant e)

/-- Encode into a destination of `cvt` (05 R155): narrower results are zero-extended; E4M3 clamps to ±448. -/
def cvtEncode (ty : BitVec 3) (m : BitVec 2) (x : Num) : Word :=
  match ty.toNat with
  | 0 => BitVec.ofNat 32 (fround fp32 (rndOf m) x)
  | 1 => BitVec.ofNat 32 (fround fp16 (rndOf m) x)
  | 2 => BitVec.ofNat 32 (fround bf16 (rndOf m) x)
  | 3 => cvtInt true m x
  | 4 => cvtInt false m x
  | 5 => BitVec.ofNat 32 (fencode e4m3 (satNum e4m3 (rndOf m) x))
  | _ => BitVec.ofNat 32 (fround e5m2 (rndOf m) x)

/-- `cvt` (05 R155). -/
def execCvt (m : BitVec 2) (x : BitVec 1) (s_ t : BitVec 3) (a d : BitVec 6) (s : State) : Out :=
  laneOp1 s d.toNat a.toNat (mark x a.toNat 1) (fun w => cvtEncode t m (cvtDecode s_ w))

/-! ### 16-bit forms (02 R55) -/

/-- `fadd` in 16 bits (02 R55). -/
def execFadd16 (b d : BitVec 5) (s : State) : Out := laneOp2 s d.toNat d.toNat b.toNat [] (onF32 (faddIn fp32 0))

/-- `fmul` in 16 bits (02 R55). -/
def execFmul16 (b d : BitVec 5) (s : State) : Out := laneOp2 s d.toNat d.toNat b.toNat [] (onF32 (fmulIn fp32 0))

/-- `fmax` in 16 bits (02 R55). -/
def execFmax16 (b d : BitVec 5) (s : State) : Out := laneOp2 s d.toNat d.toNat b.toNat [] (onF32 (fminBits fp32 true))

end Sys2Proof.Machine
end

