-- ==== Sys2Proof/Machine/Uniform.lean ====
section
/-! DEFINITION. Uniform forms: majors 0x0C to 0x0F (05 R149, R150). They act once per issue, whatever the lane mask. -/

namespace Sys2Proof.Machine

open Sys2Proof

/-- A uniform form of two sources. -/
def uniOp2 (s : State) (d a b : Nat) (f : Word → Word → Word) : Out :=
  issue s fun c => unit s c { k := [(d, f (c.group.kread a) (c.group.kread b))] }

/-- A uniform form of one source. -/
def uniOp1 (s : State) (d a : Nat) (f : Word → Word) : Out :=
  issue s fun c => unit s c { k := [(d, f (c.group.kread a))] }

/-- A uniform form with an accumulating operand from vd or vc (05 R142). -/
def uniOp3 (s : State) (d a b : Nat) (f : Word → Word → Word → Word) : Out :=
  issue s fun c => unit s c { k := [(d, f (c.group.kread a) (c.group.kread b) (c.group.kread (thirdSource s d).1))] }

/-- `kadd` (05 R149). -/
def execKadd (m : BitVec 2) (b a d : BitVec 5) (s : State) : Out := uniOp2 s d.toNat a.toNat b.toNat (addOp m)

/-- `ksub` (05 R149). -/
def execKsub (m : BitVec 2) (b a d : BitVec 5) (s : State) : Out := uniOp2 s d.toNat a.toNat b.toNat (subOp m)

/-- `kmullo` (05 R149). -/
def execKmulLo (b a d : BitVec 5) (s : State) : Out := uniOp2 s d.toNat a.toNat b.toNat (· * ·)

/-- `kmulhi` (05 R149). -/
def execKmulHi (m : BitVec 2) (b a d : BitVec 5) (s : State) : Out := uniOp2 s d.toNat a.toNat b.toNat (mulHiOp m)

/-- `kmadlo` (05 R149, R142). -/
def execKmadLo (b a d : BitVec 5) (s : State) : Out := uniOp3 s d.toNat a.toNat b.toNat madOp

/-- `kadda`: 64-bit sum of even pairs (05 R149). -/
def execKadda (b a d : BitVec 4) (s : State) : Out :=
  issue s fun c =>
    let r := c.group.kpair (2 * a.toNat) + c.group.kpair (2 * b.toNat)
    unit s c { k := [(2 * d.toNat, r.setWidth 32), (2 * d.toNat + 1, (r >>> 32).setWidth 32)] }

/-- `kmin` (05 R149). -/
def execKmin (m : BitVec 2) (b a d : BitVec 5) (s : State) : Out := uniOp2 s d.toNat a.toNat b.toNat (minOp m)

/-- `kmax` (05 R149). -/
def execKmax (m : BitVec 2) (b a d : BitVec 5) (s : State) : Out := uniOp2 s d.toNat a.toNat b.toNat (maxOp m)

/-- `kand` (05 R149). -/
def execKand (b a d : BitVec 5) (s : State) : Out := uniOp2 s d.toNat a.toNat b.toNat (· &&& ·)

/-- `kor` (05 R149). -/
def execKor (b a d : BitVec 5) (s : State) : Out := uniOp2 s d.toNat a.toNat b.toNat (· ||| ·)

/-- `kxor` (05 R149). -/
def execKxor (b a d : BitVec 5) (s : State) : Out := uniOp2 s d.toNat a.toNat b.toNat (· ^^^ ·)

/-- `kandn` (05 R149). -/
def execKandn (b a d : BitVec 5) (s : State) : Out := uniOp2 s d.toNat a.toNat b.toNat (fun p q => p &&& ~~~q)

/-- `kshl` (05 R149). -/
def execKshl (b a d : BitVec 5) (s : State) : Out := uniOp2 s d.toNat a.toNat b.toNat shlOp

/-- `kshr` (05 R149). -/
def execKshr (b a d : BitVec 5) (s : State) : Out := uniOp2 s d.toNat a.toNat b.toNat shrOp

/-- `ksra` (05 R149). -/
def execKsra (b a d : BitVec 5) (s : State) : Out := uniOp2 s d.toNat a.toNat b.toNat sraOp

/-- `krot` (05 R149). -/
def execKrot (b a d : BitVec 5) (s : State) : Out := uniOp2 s d.toNat a.toNat b.toNat rotOp

/-- `kaddi`: wrapping (05 R149). -/
def execKaddi (i : BitVec 11) (a d : BitVec 5) (s : State) : Out := uniOp1 s d.toNat a.toNat (· + immediate s i)

/-- `kmovi` (05 R149). -/
def execKmovi (i : BitVec 11) (d : BitVec 5) (s : State) : Out :=
  issue s fun c => unit s c { k := [(d.toNat, immediate s i)] }

/-- `kbfe` (05 R149). -/
def execKbfe (m : BitVec 2) (b a d : BitVec 5) (s : State) : Out := uniOp2 s d.toNat a.toNat b.toNat (bfeOp m)

/-- `kbfi` (05 R149, R142). -/
def execKbfi (b a d : BitVec 5) (s : State) : Out := uniOp3 s d.toNat a.toNat b.toNat bfiOp

/-- `kpopc` (05 R149). -/
def execKpopc (a d : BitVec 5) (s : State) : Out := uniOp1 s d.toNat a.toNat popcOp

/-- `kclz` (05 R149). -/
def execKclz (a d : BitVec 5) (s : State) : Out := uniOp1 s d.toNat a.toNat clzOp

/-- `kbrev` (05 R149). -/
def execKbrev (a d : BitVec 5) (s : State) : Out := uniOp1 s d.toNat a.toNat brevOp

/-- `knot` (05 R149). -/
def execKnot (a d : BitVec 5) (s : State) : Out := uniOp1 s d.toNat a.toNat (~~~ ·)

/-- `kabs` (05 R149). -/
def execKabs (a d : BitVec 5) (s : State) : Out := uniOp1 s d.toNat a.toNat absOp

/-- `kmov` (05 R149). -/
def execKmov (a d : BitVec 5) (s : State) : Out := uniOp1 s d.toNat a.toNat id

end Sys2Proof.Machine
end

