-- ==== Sys2Proof/Machine/Dispatch.lean ====
section
/-! DEFINITION. One arm for each constructor of the instruction set: what executing it does to the state. -/

namespace Sys2Proof.Machine

open Sys2Proof

def exec (i : Instr) (s : State) : Host.Outcome State Fault Refusal :=
  match i with
  | .add m y x b a d => Sys2Proof.Machine.execAdd m y x b a d s
  | .sub m y x b a d => Sys2Proof.Machine.execSub m y x b a d s
  | .mulLo y x b a d => Sys2Proof.Machine.execMulLo y x b a d s
  | .mulHi m y x b a d => Sys2Proof.Machine.execMulHi m y x b a d s
  | .madLo y x b a d => Sys2Proof.Machine.execMadLo y x b a d s
  | .adda y x b a d => Sys2Proof.Machine.execAdda y x b a d s
  | .min m y x b a d => Sys2Proof.Machine.execMin m y x b a d s
  | .max m y x b a d => Sys2Proof.Machine.execMax m y x b a d s
  | .and y x b a d => Sys2Proof.Machine.execAnd y x b a d s
  | .or y x b a d => Sys2Proof.Machine.execOr y x b a d s
  | .xor y x b a d => Sys2Proof.Machine.execXor y x b a d s
  | .andn y x b a d => Sys2Proof.Machine.execAndn y x b a d s
  | .shl y x b a d => Sys2Proof.Machine.execShl y x b a d s
  | .shr y x b a d => Sys2Proof.Machine.execShr y x b a d s
  | .sra y x b a d => Sys2Proof.Machine.execSra y x b a d s
  | .rot y x b a d => Sys2Proof.Machine.execRot y x b a d s
  | .bfe m y x b a d => Sys2Proof.Machine.execBfe m y x b a d s
  | .bfi y x b a d => Sys2Proof.Machine.execBfi y x b a d s
  | .popc x a d => Sys2Proof.Machine.execPopc x a d s
  | .popcLt y x b a d => Sys2Proof.Machine.execPopcLt y x b a d s
  | .clz x a d => Sys2Proof.Machine.execClz x a d s
  | .brev x a d => Sys2Proof.Machine.execBrev x a d s
  | .abs x a d => Sys2Proof.Machine.execAbs x a d s
  | .not x a d => Sys2Proof.Machine.execNot x a d s
  | .dot4I8 m y x b a d => Sys2Proof.Machine.execDot4I8 m y x b a d s
  | .addi m x i_ a d => Sys2Proof.Machine.execAddi m x i_ a d s
  | .andi x i_ a d => Sys2Proof.Machine.execAndi x i_ a d s
  | .ori x i_ a d => Sys2Proof.Machine.execOri x i_ a d s
  | .xori x i_ a d => Sys2Proof.Machine.execXori x i_ a d s
  | .shli x n a d => Sys2Proof.Machine.execShli x n a d s
  | .shri x n a d => Sys2Proof.Machine.execShri x n a d s
  | .srai x n a d => Sys2Proof.Machine.execSrai x n a d s
  | .roti x n a d => Sys2Proof.Machine.execRoti x n a d s
  | .movi i_ d => Sys2Proof.Machine.execMovi i_ d s
  | .mini m x i_ a d => Sys2Proof.Machine.execMini m x i_ a d s
  | .maxi m x i_ a d => Sys2Proof.Machine.execMaxi m x i_ a d s
  | .kadd m b a d => Sys2Proof.Machine.execKadd m b a d s
  | .ksub m b a d => Sys2Proof.Machine.execKsub m b a d s
  | .kmulLo b a d => Sys2Proof.Machine.execKmulLo b a d s
  | .kmulHi m b a d => Sys2Proof.Machine.execKmulHi m b a d s
  | .kmadLo b a d => Sys2Proof.Machine.execKmadLo b a d s
  | .kadda b a d => Sys2Proof.Machine.execKadda b a d s
  | .kmin m b a d => Sys2Proof.Machine.execKmin m b a d s
  | .kmax m b a d => Sys2Proof.Machine.execKmax m b a d s
  | .kand b a d => Sys2Proof.Machine.execKand b a d s
  | .kor b a d => Sys2Proof.Machine.execKor b a d s
  | .kxor b a d => Sys2Proof.Machine.execKxor b a d s
  | .kandn b a d => Sys2Proof.Machine.execKandn b a d s
  | .kshl b a d => Sys2Proof.Machine.execKshl b a d s
  | .kshr b a d => Sys2Proof.Machine.execKshr b a d s
  | .ksra b a d => Sys2Proof.Machine.execKsra b a d s
  | .krot b a d => Sys2Proof.Machine.execKrot b a d s
  | .kaddi i_ a d => Sys2Proof.Machine.execKaddi i_ a d s
  | .kmovi i_ d => Sys2Proof.Machine.execKmovi i_ d s
  | .kbfe m b a d => Sys2Proof.Machine.execKbfe m b a d s
  | .kbfi b a d => Sys2Proof.Machine.execKbfi b a d s
  | .kpopc a d => Sys2Proof.Machine.execKpopc a d s
  | .kclz a d => Sys2Proof.Machine.execKclz a d s
  | .kbrev a d => Sys2Proof.Machine.execKbrev a d s
  | .knot a d => Sys2Proof.Machine.execKnot a d s
  | .kabs a d => Sys2Proof.Machine.execKabs a d s
  | .kmov a d => Sys2Proof.Machine.execKmov a d s
  | .fadd m y x b a d => Sys2Proof.Machine.execFadd m y x b a d s
  | .fsub m y x b a d => Sys2Proof.Machine.execFsub m y x b a d s
  | .fmul m y x b a d => Sys2Proof.Machine.execFmul m y x b a d s
  | .fma m y x b a d => Sys2Proof.Machine.execFma m y x b a d s
  | .fmin y x b a d => Sys2Proof.Machine.execFmin y x b a d s
  | .fmax y x b a d => Sys2Proof.Machine.execFmax y x b a d s
  | .faddBf16x2 m y x b a d => Sys2Proof.Machine.execFaddBf16x2 m y x b a d s
  | .fmulBf16x2 m y x b a d => Sys2Proof.Machine.execFmulBf16x2 m y x b a d s
  | .fmaBf16x2 m y x b a d => Sys2Proof.Machine.execFmaBf16x2 m y x b a d s
  | .fminBf16x2 y x b a d => Sys2Proof.Machine.execFminBf16x2 y x b a d s
  | .fmaxBf16x2 y x b a d => Sys2Proof.Machine.execFmaxBf16x2 y x b a d s
  | .faddF16x2 m y x b a d => Sys2Proof.Machine.execFaddF16x2 m y x b a d s
  | .fmulF16x2 m y x b a d => Sys2Proof.Machine.execFmulF16x2 m y x b a d s
  | .fmaF16x2 m y x b a d => Sys2Proof.Machine.execFmaF16x2 m y x b a d s
  | .fminF16x2 y x b a d => Sys2Proof.Machine.execFminF16x2 y x b a d s
  | .fmaxF16x2 y x b a d => Sys2Proof.Machine.execFmaxF16x2 y x b a d s
  | .rcp x a d => Sys2Proof.Machine.execRcp x a d s
  | .rsqrt x a d => Sys2Proof.Machine.execRsqrt x a d s
  | .exp2 x a d => Sys2Proof.Machine.execExp2 x a d s
  | .log2 x a d => Sys2Proof.Machine.execLog2 x a d s
  | .cvt m x s_ t a d => Sys2Proof.Machine.execCvt m x s_ t a d s
  | .cmpEq m y x b a p => Sys2Proof.Machine.execCmpEq m y x b a p s
  | .cmpNe m y x b a p => Sys2Proof.Machine.execCmpNe m y x b a p s
  | .cmpLt m y x b a p => Sys2Proof.Machine.execCmpLt m y x b a p s
  | .cmpLe m y x b a p => Sys2Proof.Machine.execCmpLe m y x b a p s
  | .cmpGt m y x b a p => Sys2Proof.Machine.execCmpGt m y x b a p s
  | .cmpGe m y x b a p => Sys2Proof.Machine.execCmpGe m y x b a p s
  | .pand b a d => Sys2Proof.Machine.execPand b a d s
  | .por b a d => Sys2Proof.Machine.execPor b a d s
  | .pxor b a d => Sys2Proof.Machine.execPxor b a d s
  | .pnot a d => Sys2Proof.Machine.execPnot a d s
  | .sel n y x p b a d => Sys2Proof.Machine.execSel n y x p b a d s
  | .mov y b d => Sys2Proof.Machine.execMov y b d s
  | .movk a d => Sys2Proof.Machine.execMovk a d s
  | .sreg s_ d => Sys2Proof.Machine.execSreg s_ d s
  | .shflIdx y x b a d => Sys2Proof.Machine.execShflIdx y x b a d s
  | .shflUp y x b a d => Sys2Proof.Machine.execShflUp y x b a d s
  | .shflDown y x b a d => Sys2Proof.Machine.execShflDown y x b a d s
  | .shflXor y x b a d => Sys2Proof.Machine.execShflXor y x b a d s
  | .xg y x b a d => Sys2Proof.Machine.execXg y x b a d s
  | .permB h x q a d => Sys2Proof.Machine.execPermB h x q a d s
  | .voteAny a d => Sys2Proof.Machine.execVoteAny a d s
  | .voteAll a d => Sys2Proof.Machine.execVoteAll a d s
  | .voteBallot a d => Sys2Proof.Machine.execVoteBallot a d s
  | .gredAdd m x a d => Sys2Proof.Machine.execGredAdd m x a d s
  | .gredMin m x a d => Sys2Proof.Machine.execGredMin m x a d s
  | .gredMax m x a d => Sys2Proof.Machine.execGredMax m x a d s
  | .gscanAdd m x a d => Sys2Proof.Machine.execGscanAdd m x a d s
  | .rbal x b a d => Sys2Proof.Machine.execRbal x b a d s
  | .ld m r l s_ i_ k d => Sys2Proof.Machine.execLd m r l s_ i_ k d s
  | .st r l s_ i_ k d => Sys2Proof.Machine.execSt r l s_ i_ k d s
  | .ldQ r l i_ k d => Sys2Proof.Machine.execLdQ r l i_ k d s
  | .stQ r l i_ k d => Sys2Proof.Machine.execStQ r l i_ k d s
  | .ldRo m r l s_ i_ k d => Sys2Proof.Machine.execLdRo m r l s_ i_ k d s
  | .ldk l s_ k d => Sys2Proof.Machine.execLdk l s_ k d s
  | .ldl l s_ k d => Sys2Proof.Machine.execLdl l s_ k d s
  | .lds r l s_ i_ k d => Sys2Proof.Machine.execLds r l s_ i_ k d s
  | .sts r l s_ i_ k d => Sys2Proof.Machine.execSts r l s_ i_ k d s
  | .ldsd r l s_ i_ k d => Sys2Proof.Machine.execLdsd r l s_ i_ k d s
  | .stsd r l s_ i_ k d => Sys2Proof.Machine.execStsd r l s_ i_ k d s
  | .pf r l i_ k => Sys2Proof.Machine.execPf r l i_ k s
  | .mwait l k d => Sys2Proof.Machine.execMwait l k d s
  | .atomAdd m y x b a d => Sys2Proof.Machine.execAtomAdd m y x b a d s
  | .atomMin m y x b a d => Sys2Proof.Machine.execAtomMin m y x b a d s
  | .atomMax m y x b a d => Sys2Proof.Machine.execAtomMax m y x b a d s
  | .atomAnd m y x b a d => Sys2Proof.Machine.execAtomAnd m y x b a d s
  | .atomOr m y x b a d => Sys2Proof.Machine.execAtomOr m y x b a d s
  | .atomXor m y x b a d => Sys2Proof.Machine.execAtomXor m y x b a d s
  | .atomExch m y x b a d => Sys2Proof.Machine.execAtomExch m y x b a d s
  | .atomCas m y x b a d => Sys2Proof.Machine.execAtomCas m y x b a d s
  | .redAdd m y x b a => Sys2Proof.Machine.execRedAdd m y x b a s
  | .redMin m y x b a => Sys2Proof.Machine.execRedMin m y x b a s
  | .redMax m y x b a => Sys2Proof.Machine.execRedMax m y x b a s
  | .redAnd m y x b a => Sys2Proof.Machine.execRedAnd m y x b a s
  | .redOr m y x b a => Sys2Proof.Machine.execRedOr m y x b a s
  | .redXor m y x b a => Sys2Proof.Machine.execRedXor m y x b a s
  | .bupdAdd m y x b a => Sys2Proof.Machine.execBupdAdd m y x b a s
  | .bupdMin m y x b a => Sys2Proof.Machine.execBupdMin m y x b a s
  | .bupdMax m y x b a => Sys2Proof.Machine.execBupdMax m y x b a s
  | .bredAdd m y x b a => Sys2Proof.Machine.execBredAdd m y x b a s
  | .bredMin m y x b a => Sys2Proof.Machine.execBredMin m y x b a s
  | .bredMax m y x b a => Sys2Proof.Machine.execBredMax m y x b a s
  | .fence s_ => Sys2Proof.Machine.execFence s_ s
  | .fenceAcq s_ => Sys2Proof.Machine.execFenceAcq s_ s
  | .fenceRel s_ => Sys2Proof.Machine.execFenceRel s_ s
  | .tfence s_ => Sys2Proof.Machine.execTfence s_ s
  | .binit w b a => Sys2Proof.Machine.execBinit w b a s
  | .barv w a d => Sys2Proof.Machine.execBarv w a d s
  | .bexp w b a => Sys2Proof.Machine.execBexp w b a s
  | .btest w b a d => Sys2Proof.Machine.execBtest w b a d s
  | .bwait w b a => Sys2Proof.Machine.execBwait w b a s
  | .binval w a => Sys2Proof.Machine.execBinval w a s
  | .tsync => Sys2Proof.Machine.execTsync s
  | .clsync => Sys2Proof.Machine.execClsync s
  | .hld r l i_ k h => Sys2Proof.Machine.execHld r l i_ k h s
  | .hst r l i_ k h => Sys2Proof.Machine.execHst r l i_ k h s
  | .ldh m y b h d => Sys2Proof.Machine.execLdh m y b h d s
  | .sth m y x b a h => Sys2Proof.Machine.execSth m y x b a h s
  | .hnew y x b a h => Sys2Proof.Machine.execHnew y x b a h s
  | .hfree h => Sys2Proof.Machine.execHfree h s
  | .hpin h d => Sys2Proof.Machine.execHpin h d s
  | .hunpin h => Sys2Proof.Machine.execHunpin h s
  | .heq g h p => Sys2Proof.Machine.execHeq g h p s
  | .htag h d => Sys2Proof.Machine.execHtag h d s
  | .qla l u f n a => Sys2Proof.Machine.execQla l u f n a s
  | .qzero l v t n q d => Sys2Proof.Machine.execQzero l v t n q d s
  | .qrd l i_ n c r d => Sys2Proof.Machine.execQrd l i_ n c r d s
  | .qwr l t n c r d => Sys2Proof.Machine.execQwr l t n c r d s
  | .qrel l q d => Sys2Proof.Machine.execQrel l q d s
  | .qmm l z s_ k f q d => Sys2Proof.Machine.execQmm l z s_ k f q d s
  | .qmmg l z c f q d => Sys2Proof.Machine.execQmmg l z c f q d s
  | .qdist l z s_ k f q d => Sys2Proof.Machine.execQdist l z s_ k f q d s
  | .qtopk l k q s_ d => Sys2Proof.Machine.execQtopk l k q s_ d s
  | .qatt l h q s_ e k => Sys2Proof.Machine.execQatt l h q s_ e k s
  | .qatf l h q s_ e k => Sys2Proof.Machine.execQatf l h q s_ e k s
  | .qsel l h q s_ e k => Sys2Proof.Machine.execQsel l h q s_ e k s
  | .mxq l f d s_ t k => Sys2Proof.Machine.execMxq l f d s_ t k s
  | .mxd l f d s_ t k => Sys2Proof.Machine.execMxd l f d s_ t k s
  | .mload l k s_ => Sys2Proof.Machine.execMload l k s_ s
  | .mfree l s_ => Sys2Proof.Machine.execMfree l s_ s
  | .mclass l q d s_ => Sys2Proof.Machine.execMclass l q d s_ s
  | .mstat l d s_ => Sys2Proof.Machine.execMstat l d s_ s
  | .kvnew l q d => Sys2Proof.Machine.execKvnew l q d s
  | .kvseal l q d => Sys2Proof.Machine.execKvseal l q d s
  | .kvdem l q d => Sys2Proof.Machine.execKvdem l q d s
  | .kvdemInv l q d => Sys2Proof.Machine.execKvdemInv l q d s
  | .kvcold l q d => Sys2Proof.Machine.execKvcold l q d s
  | .kvq l q d s_ => Sys2Proof.Machine.execKvq l q d s_ s
  | .kvpolReg l q d => Sys2Proof.Machine.execKvpolReg l q d s
  | .kvpolSweep l q d => Sys2Proof.Machine.execKvpolSweep l q d s
  | .kvpolUnreg l q d => Sys2Proof.Machine.execKvpolUnreg l q d s
  | .kvpolSet l q d => Sys2Proof.Machine.execKvpolSet l q d s
  | .cpy l k t b d s_ q => Sys2Proof.Machine.execCpy l k t b d s_ q s
  | .cpy2d l k t b d s_ q => Sys2Proof.Machine.execCpy2d l k t b d s_ q s
  | .cpym l k t b s_ q => Sys2Proof.Machine.execCpym l k t b s_ q s
  | .cpyc l k t a c => Sys2Proof.Machine.execCpyc l k t a c s
  | .cpyst l d c => Sys2Proof.Machine.execCpyst l d c s
  | .cpyx l c => Sys2Proof.Machine.execCpyx l c s
  | .lld l d a p z => Sys2Proof.Machine.execLld l d a p z s
  | .lgat l d a p q n => Sys2Proof.Machine.execLgat l d a p q n s
  | .lwr l p q s_ t r k => Sys2Proof.Machine.execLwr l p q s_ t r k s
  | .lred l p q s_ t r k y => Sys2Proof.Machine.execLred l p q s_ t r k y s
  | .mxr l f q t k => Sys2Proof.Machine.execMxr l f q t k s
  | .dlaunch l d a b => Sys2Proof.Machine.execDlaunch l d a b s
  | .qsig l b => Sys2Proof.Machine.execQsig l b s
  | .bra o h n p => Sys2Proof.Machine.execBra o h n p s
  | .call o => Sys2Proof.Machine.execCall o s
  | .trap n => Sys2Proof.Machine.execTrap n s
  | .snap => Sys2Proof.Machine.execSnap s
  | .csrr s_ d => Sys2Proof.Machine.execCsrr s_ d s
  | .clock d => Sys2Proof.Machine.execClock d s
  | .jmp x a => Sys2Proof.Machine.execJmp x a s
  | .callIndirect x a => Sys2Proof.Machine.execCallIndirect x a s
  | .extImm p => Sys2Proof.Machine.execExtImm p s
  | .extReg p => Sys2Proof.Machine.execExtReg p s
  | .mov16 b d => Sys2Proof.Machine.execMov16 b d s
  | .add16 b d => Sys2Proof.Machine.execAdd16 b d s
  | .sub16 b d => Sys2Proof.Machine.execSub16 b d s
  | .mul16 b d => Sys2Proof.Machine.execMul16 b d s
  | .and16 b d => Sys2Proof.Machine.execAnd16 b d s
  | .or16 b d => Sys2Proof.Machine.execOr16 b d s
  | .xor16 b d => Sys2Proof.Machine.execXor16 b d s
  | .andn16 b d => Sys2Proof.Machine.execAndn16 b d s
  | .shl16 b d => Sys2Proof.Machine.execShl16 b d s
  | .shr16 b d => Sys2Proof.Machine.execShr16 b d s
  | .sra16 b d => Sys2Proof.Machine.execSra16 b d s
  | .min16 b d => Sys2Proof.Machine.execMin16 b d s
  | .max16 b d => Sys2Proof.Machine.execMax16 b d s
  | .fadd16 b d => Sys2Proof.Machine.execFadd16 b d s
  | .fmul16 b d => Sys2Proof.Machine.execFmul16 b d s
  | .fmax16 b d => Sys2Proof.Machine.execFmax16 b d s
  | .nop => Sys2Proof.Machine.execNop s
  | .join => Sys2Proof.Machine.execJoin s
  | .yield => Sys2Proof.Machine.execYield s
  | .exit => Sys2Proof.Machine.execExit s
  | .ret => Sys2Proof.Machine.execRet s
  | .guard n p => Sys2Proof.Machine.execGuard n p s
  | .illegalInstruction => Sys2Proof.Machine.execIllegalInstruction s
  | .faultRecordWrite f => Sys2Proof.Machine.execFaultRecordWrite f s
  | .trapRecordWrite t => Sys2Proof.Machine.execTrapRecordWrite t s
  | .teamFillComplete core slot => Sys2Proof.Machine.execTeamFillComplete core slot s
  | .drainComplete core slot => Sys2Proof.Machine.execDrainComplete core slot s
  | .contextSaveComplete core slot => Sys2Proof.Machine.execContextSaveComplete core slot s
  | .activeSetExchange core groups => Sys2Proof.Machine.execActiveSetExchange core groups s
  | .joinWaitTimeout team group split => Sys2Proof.Machine.execJoinWaitTimeout team group split s
  | .mwaitReread team group split => Sys2Proof.Machine.execMwaitReread team group split s
  | .barrierDecrement op pos bytes => Sys2Proof.Machine.execBarrierDecrement op pos bytes s
  | .updateOnlyTimeout core line => Sys2Proof.Machine.execUpdateOnlyTimeout core line s
  | .migrationPrecopyDone g => Sys2Proof.Machine.execMigrationPrecopyDone g s
  | .migrationRecopyDone g => Sys2Proof.Machine.execMigrationRecopyDone g s
  | .migrationFlip g => Sys2Proof.Machine.execMigrationFlip g s
  | .migrationInvalAck g => Sys2Proof.Machine.execMigrationInvalAck g s
  | .migrationHoldTimeout g => Sys2Proof.Machine.execMigrationHoldTimeout g s
  | .hostWrite at_ bytes => Sys2Proof.Machine.execHostWrite at_ bytes s
  | .hostRead at_ n => Sys2Proof.Machine.execHostRead at_ n s
  | .passGrant quern => Sys2Proof.Machine.execPassGrant quern s
  | .fusionWaitExpiry quern => Sys2Proof.Machine.execFusionWaitExpiry quern s
  | .passCommit quern => Sys2Proof.Machine.execPassCommit quern s
  | .attentionComplete op => Sys2Proof.Machine.execAttentionComplete op s
  | .conversionComplete op => Sys2Proof.Machine.execConversionComplete op s
  | .objectFree r => Sys2Proof.Machine.execObjectFree r s
  | .sweepIntervalStart pool => Sys2Proof.Machine.execSweepIntervalStart pool s
  | .sweepRequestStart pool => Sys2Proof.Machine.execSweepRequestStart pool s
  | .sweepVisit pool => Sys2Proof.Machine.execSweepVisit pool s
  | .coldMoveCopyDone pool => Sys2Proof.Machine.execColdMoveCopyDone pool s
  | .sweepComplete pool => Sys2Proof.Machine.execSweepComplete pool s
  | .directoryTakeup op => Sys2Proof.Machine.execDirectoryTakeup op s
  | .directoryBusyTimeout op => Sys2Proof.Machine.execDirectoryBusyTimeout op s
  | .writeCombineTimeout entry => Sys2Proof.Machine.execWriteCombineTimeout entry s
  | .relocAutoStart q set => Sys2Proof.Machine.execRelocAutoStart q set s
  | .relocCopyDone q => Sys2Proof.Machine.execRelocCopyDone q s
  | .relocRecopyDone q => Sys2Proof.Machine.execRelocRecopyDone q s
  | .relocFlip q => Sys2Proof.Machine.execRelocFlip q s
  | .relocFinalTimeout q => Sys2Proof.Machine.execRelocFinalTimeout q s
  | .relocAck q => Sys2Proof.Machine.execRelocAck q s
  | .healPassComplete q => Sys2Proof.Machine.execHealPassComplete q s
  | .copyOperationComplete op => Sys2Proof.Machine.execCopyOperationComplete op s
  | .multicastDelivery op pos => Sys2Proof.Machine.execMulticastDelivery op pos s
  | .chainRecordFetch team ch => Sys2Proof.Machine.execChainRecordFetch team ch s
  | .chainWaitTimeout team ch => Sys2Proof.Machine.execChainWaitTimeout team ch s
  | .chainRecordComplete team ch => Sys2Proof.Machine.execChainRecordComplete team ch s
  | .flitArrival port header payload checkOk => Sys2Proof.Machine.execFlitArrival port header payload checkOk s
  | .peerRequest r => Sys2Proof.Machine.execPeerRequest r s
  | .portFailure port => Sys2Proof.Machine.execPortFailure port s
  | .linkRetryTimeout op lane => Sys2Proof.Machine.execLinkRetryTimeout op lane s
  | .linkOperationComplete op => Sys2Proof.Machine.execLinkOperationComplete op s
  | .mxrTimeout op => Sys2Proof.Machine.execMxrTimeout op s
  | .doorbell q v => Sys2Proof.Machine.execDoorbell q v s
  | .launchRecordRead q => Sys2Proof.Machine.execLaunchRecordRead q s
  | .dependenceReread q => Sys2Proof.Machine.execDependenceReread q s
  | .teamPlacement team => Sys2Proof.Machine.execTeamPlacement team s
  | .gangPlacement team => Sys2Proof.Machine.execGangPlacement team s
  | .waitingLevelAge team => Sys2Proof.Machine.execWaitingLevelAge team s
  | .gangFirstAge team => Sys2Proof.Machine.execGangFirstAge team s
  | .gangSecondAge team => Sys2Proof.Machine.execGangSecondAge team s
  | .timeSliceExpiry core => Sys2Proof.Machine.execTimeSliceExpiry core s
  | .noRoomEviction team => Sys2Proof.Machine.execNoRoomEviction team s
  | .gridComplete grid => Sys2Proof.Machine.execGridComplete grid s
  | .ident c => Sys2Proof.Machine.execIdent c s
  | .claim c => Sys2Proof.Machine.execClaim c s
  | .handover c => Sys2Proof.Machine.execHandover c s
  | .attest c => Sys2Proof.Machine.execAttest c s
  | .loadimg c => Sys2Proof.Machine.execLoadimg c s
  | .reset c => Sys2Proof.Machine.execReset c s
  | .qcreate c => Sys2Proof.Machine.execQcreate c s
  | .qstop c => Sys2Proof.Machine.execQstop c s
  | .qstopDestroy c => Sys2Proof.Machine.execQstopDestroy c s
  | .queueDestroyComplete q => Sys2Proof.Machine.execQueueDestroyComplete q s
  | .asgen c => Sys2Proof.Machine.execAsgen c s
  | .invpage c => Sys2Proof.Machine.execInvpage c s
  | .grantref c => Sys2Proof.Machine.execGrantref c s
  | .faultansRetry c => Sys2Proof.Machine.execFaultansRetry c s
  | .faultansKill c => Sys2Proof.Machine.execFaultansKill c s
  | .resumeSkip c => Sys2Proof.Machine.execResumeSkip c s
  | .resumeRetry c => Sys2Proof.Machine.execResumeRetry c s
  | .resumeEnd c => Sys2Proof.Machine.execResumeEnd c s
  | .preempt c => Sys2Proof.Machine.execPreempt c s
  | .framerel c => Sys2Proof.Machine.execFramerel c s
  | .heapbind c => Sys2Proof.Machine.execHeapbind c s
  | .heapbindUnbind c => Sys2Proof.Machine.execHeapbindUnbind c s
  | .reloc c set => Sys2Proof.Machine.execReloc c set s
  | .migrate c => Sys2Proof.Machine.execMigrate c s
  | .peerbind c => Sys2Proof.Machine.execPeerbind c s
  | .route c => Sys2Proof.Machine.execRoute c s
  | .qread c => Sys2Proof.Machine.execQread c s
  | .snapcfg c => Sys2Proof.Machine.execSnapcfg c s
  | .snaptrig c => Sys2Proof.Machine.execSnaptrig c s
  | .snapread c => Sys2Proof.Machine.execSnapread c s
  | .snaprel c => Sys2Proof.Machine.execSnaprel c s
  | .relrep c => Sys2Proof.Machine.execRelrep c s
  | .retire c => Sys2Proof.Machine.execRetire c s
  | .pwrcap c => Sys2Proof.Machine.execPwrcap c s
  | .therm c => Sys2Proof.Machine.execTherm c s
  | .unknownCommand c op => Sys2Proof.Machine.execUnknownCommand c op s
  | .registerWrite off v => Sys2Proof.Machine.execRegisterWrite off v s
  | .snapshotLatch => Sys2Proof.Machine.execSnapshotLatch s
  | .ownershipLapse => Sys2Proof.Machine.execOwnershipLapse s
  | .handoverTimeout => Sys2Proof.Machine.execHandoverTimeout s
  | .powerOn imageOk coldOk => Sys2Proof.Machine.execPowerOn imageOk coldOk s
  | .coreFailure core => Sys2Proof.Machine.execCoreFailure core s
  | .hbmChannelFailure stack channel => Sys2Proof.Machine.execHbmChannelFailure stack channel s
  | .linkLaneFault port => Sys2Proof.Machine.execLinkLaneFault port s
  | .thermalLimit temp watts => Sys2Proof.Machine.execThermalLimit temp watts s
  | .thermalShutdown => Sys2Proof.Machine.execThermalShutdown s
  | .powerDown => Sys2Proof.Machine.execPowerDown s
  | .pcieLinkDown => Sys2Proof.Machine.execPcieLinkDown s
  | .pcieLinkUp => Sys2Proof.Machine.execPcieLinkUp s

end Sys2Proof.Machine
end

