-- ==== Sys2Proof/Machine/Step.lean ====
section
/-! DEFINITION. One step: a turn of the agenda (log 2). A split issues one whole unit, or an event takes place. -/

namespace Sys2Proof.Machine

open Sys2Proof

/-- Continue from a next state. -/
def andThen (o : Host.Outcome State Fault Refusal) (f : State → Host.Outcome State Fault Refusal) :
    Host.Outcome State Fault Refusal :=
  match o with
  | .next s => f s
  | .fault r => .fault r
  | .refused r => .refused r

/-- Run the parts of a legal unit in one step: guard, extension, body (02 R44: a unit is indivisible). -/
def runUnit (g : Option (BitVec 1 × BitVec 3)) (x : Option Ext) (body : Instr) (s : State) : Host.Outcome State Fault Refusal :=
  andThen (match g with | some (n, p) => exec (.guard n p) s | none => .next s) fun s =>
  andThen (match x with | some (.imm p) => exec (.extImm p) s | some (.reg p) => exec (.extReg p) s | none => .next s) fun s =>
  exec body s

/-- Run a fetched unit: a legal one executes; any other halfwords are an illegal instruction (02 R69, R70). -/
def runParts (c : Ctx) (p : Parts) (s : State) : Host.Outcome State Fault Refusal :=
  match p.body with
  | none => exec .illegalInstruction s
  | some body =>
    if legalUnit p.guard p.ext body then
      if interlocked s c p.guard body p.ext then .next s else runUnit p.guard p.ext body s
    else exec .illegalInstruction s

/-- A split takes its turn: units of its that have yet to replay do so first (04 R127); where it waits, it looks again; where it may issue, it
executes its replay record, or fetches its unit and executes it. -/
def issueTurn (s : State) (w : Who) : Host.Outcome State Fault Refusal :=
  match ctxAt s w with
  | none => .next s
  | some c =>
    match replayFirst s c with
    | some s => .next s
    | none =>
      if c.split.wait != .none then .next (pollWait s c)
      else if ready s c then
        match c.split.replay with
        | some r => let hs := r.halves.map BitVec.toNat; runParts c (parseUnit hs) (startUnit s w c hs [])
        | none =>
          match fetchUnit s c with
          | .trap t ev known => .next (fetchTrap s w c t ev known)
          | .fault f => .next (fetchFault s w c f)
          | .unit hs used => runParts c (parseUnit hs) (startUnit s w c hs used)
      else .next s

/-- A turn. -/
def runTurn (s : State) : Act → Host.Outcome State Fault Refusal
  | .issue w => issueTurn s w
  | .event e => if isEvent e then exec e s else .refused .notAnEvent
  | .displaceLine l => .next { s with lineClass := tabDel s.lineClass l, lineIdent := tabDel s.lineIdent l }
  | .displaceXlat core die base => .next (displaceXlatAt s core die base)
  | .displaceL1 core l => .next { s with l1Lines := tabDel s.l1Lines (l1Key core l) }
  | .cacheWalk die q va => .next (cacheWalkAt s die q va)
  | .displaceWalk die level pre =>
    .next { s with dieWalk := tabMod s.dieWalk die (fun es => es.filter (fun e => !(e.level == level && e.pre == pre))) }
  | .keepPast grid unit => .next (keepPastAt s grid unit)
  | .servePast grid unit i => .next (servePastAt s grid unit i)
  | .bitError g u => .next (bitErrorAt s g u)
  | .firmware a => .next (fwAct s a)

/-- One step: the next turn of the agenda; where none is listed, one cycle passes and the current split issues. -/
def step (s : State) : Host.Outcome State Fault Refusal :=
  match s.agenda with
  | [] => runTurn { s with cycle := s.cycle + 1 } (.issue s.cur)
  | t :: rest => runTurn { s with agenda := rest, cycle := s.cycle + t.dt } t.act

/-- The state with an instruction placed where the next step fetches it: bits `w`, then zeros up to the longest unit. Where no split can
fetch, a program is loaded first (log 12). -/
def State.withFetchWord (s : State) (nbits w : Nat) : State :=
  let s := { s with agenda := [], past := [] }
  let s := if (fetchAddrs s).isSome then s else scaffold s
  match fetchAddrs s with
  | some as => placeHalves s as (bytesOf 10 (w % 2 ^ nbits))
  | none => s

end Sys2Proof.Machine
end

