-- ==== Sys2Proof/Safety.lean ====
section
/-! DEFINITION. What the statements call a well-formed state, a unit that fits, and the change that a unit makes. -/

namespace Sys2Proof.Machine

open Sys2Proof

/-- The invariant that every step keeps: the memory is in its canonical form (log 1). -/
abbrev State.Inv (s : State) : Prop := Memory.wf s.mem = true

/-! ### Readers -/

/-- A group of a team, by the team's key and the group's number. -/
def groupOf (s : State) (key n : Nat) : Option Group := (tabGet s.teams key).bind (fun t => tabGet t.groups n)

/-- One byte of physical memory. -/
def State.byteAt (s : State) (pa : Nat) : Byte := memGet s.mem pa

/-- An operation of the issuing unit is in flight under a name. -/
def OpIs (s : State) (id : Nat) (o : Op) : Prop := tabGet s.ops id = some o

/-! ### When a unit can take its effect -/

/-- The new names of a unit do not take the group past its peak (04 R122), and the pool has their registers (04 R123): neither looks at
the values written. -/
def Fits (_s : State) (c : Ctx) (e : Eff) : Prop := peakCond c e = [] ∧ poolOk c e = true

/-- The register names that an effect writes are all different, so that what it leaves does not depend on an order. -/
def Eff.distinct (e : Eff) : Prop :=
  (e.v.map (·.1)).Nodup ∧ (e.k.map (·.1)).Nodup ∧ (e.p.map (·.1)).Nodup ∧ (e.h.map (·.1)).Nodup

/-! ### What a unit leaves -/

/-- The splits of a group after its split `i` went on to `pc`; each open lookahead window has one unit less (02 R60). -/
def wentOn (g : Group) (i : Nat) (pc : DWord) : List Split :=
  g.splits.map (fun sp => if sp.idx = i then { tick sp with pc := pc } else sp)

/-- What the registers hold after an effect: the lanes, words and bits that it names hold the values that it gives, a name that it frees and
does not write holds no value, and every other register holds what it held. -/
structure RegsAfter (g : Group) (e : Eff) (g' : Group) : Prop where
  v : ∀ w ∈ e.v, ∀ l < 32, g'.vlane w.1 l = if w.2.1.getLsbD l then w.2.2 l else if w.1 ∈ e.frees then 0 else g.vlane w.1 l
  vOther : ∀ n, (∀ w ∈ e.v, w.1 = n → w.2.1 = 0) → tabGet g'.v n = if n ∈ e.frees then none else tabGet g.v n
  k : ∀ w ∈ e.k, g'.kread w.1 = w.2
  kOther : ∀ n, (∀ w ∈ e.k, w.1 ≠ n) → tabGet g'.k n = tabGet g.k n
  p : ∀ w ∈ e.p, w.1 ≠ 0 → g'.pread w.1 = (g.pread w.1 &&& ~~~w.2.1) ||| (w.2.2 &&& w.2.1)
  pOther : ∀ n, (∀ w ∈ e.p, w.1 ≠ n) → tabGet g'.p n = tabGet g.p n
  p0 : g'.pread 0 = 0xffffffff#32
  h : ∀ w ∈ e.h, ∀ l < 32, g'.hlane w.1 l = if w.2.1.getLsbD l then w.2.2 l else g.hlane w.1 l
  hOther : ∀ n, (∀ w ∈ e.h, w.1 ≠ n) → tabGet g'.h n = tabGet g.h n

/-- A group after a unit: its registers took the effect, the split went on to `pc`, and of its other fields only the dirty bits of
registers (04 R129) may differ. The effect comes to the group as it stands; a unit that replays read its operands in its record (04 R127). -/
structure GroupAfter (c : Ctx) (e : Eff) (pc : DWord) (g' : Group) : Prop where
  regs : RegsAfter c.live e g'
  splits : g'.splits = wentOn c.live c.split.idx pc
  rest : { g' with v := c.live.v, k := c.live.k, p := c.live.p, h := c.live.h, splits := c.live.splits, dirty := c.live.dirty } =
    c.live

/-- Of the whole state one group may differ: all other fields of the state, every other team, every other field of the team and every other
group of it are as before; the unit no longer asks for registers, where it did (04 R123). -/
structure OnlyGroup (s t : State) (c : Ctx) (g' : Group) : Prop where
  rest : { t with teams := s.teams } = s
  teams : ∀ k, k ≠ c.key → tabGet t.teams k = tabGet s.teams k
  team : ∃ tm, tabGet t.teams c.key = some tm ∧ { tm with groups := c.team.groups } = c.team.served c.group.num c.split.idx ∧
    tabGet tm.groups c.group.num = some g' ∧ ∀ n, n ≠ c.group.num → tabGet tm.groups n = tabGet c.team.groups n

/-- A register unit completes: the one group takes its effect, and the split goes to the next unit. -/
def Completes (s t : State) (c : Ctx) (e : Eff) : Prop := ∃ g', OnlyGroup s t c g' ∧ GroupAfter c e s.unit.npc g'

/-! ### Accesses to memory (06 R176 to R190) -/

/-- Nothing stops a lane's access: no condition holds in it, its page has a leaf entry, no class of its bytes is denied, and its page is not in
the peer window. -/
def Look.opens (s : State) (k : Look) (p : Piece) : Prop :=
  k.traps = [] ∧ k.fault = none ∧ k.piece = some p ∧ k.denied = none ∧ k.remote s = false

/-- No update-only line of the core, no write-combining entry and no page migration is open, and no earlier `mwait` or peer access of the split is
in flight: nothing is flushed, closed or held by the access, and it waits for nothing. -/
def Calm (s : State) (c : Ctx) : Prop := (s.core c.core).upd = [] ∧ s.wc = [] ∧ s.migrations = [] ∧ inFlight s true c.split = false

/-- The bytes of the leaf entries that an access walked to, whose accessed and dirty bits it sets (07 R228). -/
def InWalked (ps : List Piece) (a : Nat) : Prop := ∃ p ∈ ps, p.walked = true ∧ p.x.leafAt ≤ a ∧ a < p.x.leafAt + 8

/-- Of a table of teams one group has changed, and its unit asks for registers no more. -/
def GroupIs (ts ts' : Tab Team) (c : Ctx) (g' : Group) : Prop :=
  (∀ k, k ≠ c.key → tabGet ts' k = tabGet ts k) ∧
  ∃ tm, tabGet ts' c.key = some tm ∧ { tm with groups := c.team.groups } = c.team.served c.group.num c.split.idx ∧
    tabGet tm.groups c.group.num = some g' ∧ ∀ n, n ≠ c.group.num → tabGet tm.groups n = tabGet c.team.groups n

/-- Of the whole state an access changes one group, and beside it only memory with the marks that writes leave, the translation caches and the
classes and identities of lines. -/
structure OnlyAccess (s t : State) (c : Ctx) (g' : Group) : Prop where
  rest : { t with mem := s.mem, bad := s.bad, spadDirty := s.spadDirty, l1Lines := s.l1Lines, lineClass := s.lineClass, lineIdent := s.lineIdent, dieTlb := s.dieTlb, cores := s.cores
                  teams := s.teams } = s
  cores : ∀ n, { t.core n with tlb := (s.core n).tlb } = s.core n
  group : OnlyGroup { t with teams := s.teams } t c g'

/-- A group after an access: the effect, the split's next unit, and the last-page registers of the lanes that name a page outside the
managed-heap region. -/
structure GroupAccess (c : Ctx) (e : Eff) (pc : DWord) (write : Bool) (m : BitVec 32) (p : Nat → Piece) (g' : Group) : Prop where
  after : GroupAfter c e pc { g' with lastPage := c.live.lastPage }
  pages : ∀ l < 32, tabGet g'.lastPage l =
    if m.getLsbD l = true ∧ (p l).x.region ≠ 1 then some (noted (p l).x write (p l).walked) else tabGet c.live.lastPage l

end Sys2Proof.Machine
end

