-- ==== Sys2Proof/WellFormed.lean ====
section
/-! DEFINITION. Well-formed instructions: the parts of units that violate none of 02 R69's conditions on a single form. -/

namespace Sys2Proof

/-- A form that can stand in a legal unit: every field in its class, every selector listed (02 R63 to R69). Events have no
word and are no parts of units. -/
def Instr.wellFormed (i : Instr) : Bool := legalForm i

end Sys2Proof
end

