-- ==== Sys2Proof/Certificates/Slice0/Obligations.lean ====
section
/-! DEFINITION. The statements for the provers. Each is a conjunction of claims, which stand first, by the chapter of the rules that they formalise. -/

namespace Sys2Proof.Machine

open Sys2Proof

/-- An exact sum or difference clamped to the signed, or to the unsigned, 32-bit range (05 R144). -/
def satS (i : Int) : Word :=
  if i < -2147483648 then 0x80000000#32 else if 2147483647 < i then 0x7fffffff#32 else BitVec.ofInt 32 i
def satU (i : Int) : Word := if i < 0 then 0#32 else if 4294967295 < i then 0xffffffff#32 else BitVec.ofInt 32 i

/-- Sum, difference, high product, smaller and larger by mode (05 R144). -/
def sumBy (m : BitVec 2) (p q : Word) : Word :=
  if m = 1 then satS (p.toInt + q.toInt) else if m = 2 then satU (p.toNat + q.toNat) else p + q
def diffBy (m : BitVec 2) (p q : Word) : Word :=
  if m = 1 then satS (p.toInt - q.toInt) else if m = 2 then satU ((p.toNat : Int) - q.toNat) else p - q
def highBy (m : BitVec 2) (p q : Word) : Word :=
  if m = 1 then BitVec.ofNat 32 (p.toNat * q.toNat / 4294967296) else BitVec.ofInt 32 (p.toInt * q.toInt / 4294967296)
def smallerBy (m : BitVec 2) (p q : Word) : Word :=
  if m = 1 then BitVec.ofNat 32 (Nat.min p.toNat q.toNat) else BitVec.ofInt 32 (Min.min p.toInt q.toInt)
def largerBy (m : BitVec 2) (p q : Word) : Word :=
  if m = 1 then BitVec.ofNat 32 (Nat.max p.toNat q.toNat) else BitVec.ofInt 32 (Max.max p.toInt q.toInt)

/-- Shifts of a word by an amount of any size, and the rotation to the left (05 R145). -/
def shiftedLeft (p q : Word) : Word := BitVec.ofNat 32 (p.toNat * 2 ^ q.toNat)
def shiftedRight (p q : Word) : Word := BitVec.ofNat 32 (p.toNat / 2 ^ q.toNat)
def shiftedSigned (p q : Word) : Word := BitVec.ofInt 32 (p.toInt / 2 ^ Nat.min q.toNat 31)
def rotated (p q : Word) : Word := p <<< (q.toNat % 32) ||| p >>> (32 - q.toNat % 32)

/-- Number of 1 bits below bit `n`; number of 0 bits above the highest 1 bit (05 R146). -/
def onesUnder (n : Nat) (p : Word) : Nat := (List.range n).countP (fun i => p.getLsbD i)

/-- The two words of a 64-bit value in an even-odd pair (02 R62). -/
def pairWrites (d : Nat) (m : BitVec 32) (f : Nat → DWord) : List (Nat × BitVec 32 × (Nat → Word)) :=
  [(d, m, fun l => (f l).extractLsb' 0 32), (d + 1, m, fun l => (f l).extractLsb' 32 32)]

/-- The lane integer and logic forms (05 R141 to R148, 02 R55): registers freed by their marks, and the word that each acting lane gets. -/
def laneIntegerEff (s : State) (c : Ctx) : Instr → Option Eff :=
  let v := fun (n : BitVec 6) (l : Nat) => c.group.vlane n.toNat l
  let r := fun (n : BitVec 5) (l : Nat) => c.group.vlane n.toNat l
  let w := fun (n : BitVec 5) (l : Nat) => c.group.vpair (2 * n.toNat) l
  let m2 := fun (x y : BitVec 1) (a b : BitVec 6) => mark x a.toNat 1 ++ mark y b.toNat 1
  let one := fun (fr : List Nat) (d : BitVec 6) (f : Nat → Word) => some ({ frees := fr, v := [(d.toNat, acting s c, f)] } : Eff)
  let short := fun (d : BitVec 5) (f : Nat → Word) => some ({ v := [(d.toNat, acting s c, f)] } : Eff)
  let third := fun (d : BitVec 6) => thirdSource s d.toNat
  let free3 := fun (d : BitVec 6) => if (third d).2 then [(third d).1] else []
  let acc := fun (d : BitVec 6) (l : Nat) => c.group.vlane (third d).1 l
  let im := fun (i : BitVec 11) => immediate s i
  fun i => match i with
  | .add m y x b a d => one (m2 x y a b) d (fun l => sumBy m (v a l) (v b l))
  | .sub m y x b a d => one (m2 x y a b) d (fun l => diffBy m (v a l) (v b l))
  | .mulLo y x b a d => one (m2 x y a b) d (fun l => v a l * v b l)
  | .mulHi m y x b a d => one (m2 x y a b) d (fun l => highBy m (v a l) (v b l))
  | .madLo y x b a d => one (m2 x y a b ++ free3 d) d (fun l => v a l * v b l + acc d l)
  | .adda y x b a d =>
    some { frees := mark x (2 * a.toNat) 2 ++ mark y (2 * b.toNat) 2, v := pairWrites (2 * d.toNat) (acting s c) (fun l => w a l + w b l) }
  | .min m y x b a d => one (m2 x y a b) d (fun l => smallerBy m (v a l) (v b l))
  | .max m y x b a d => one (m2 x y a b) d (fun l => largerBy m (v a l) (v b l))
  | .and y x b a d => one (m2 x y a b) d (fun l => v a l &&& v b l)
  | .or y x b a d => one (m2 x y a b) d (fun l => v a l ||| v b l)
  | .xor y x b a d => one (m2 x y a b) d (fun l => v a l ^^^ v b l)
  | .andn y x b a d => one (m2 x y a b) d (fun l => v a l &&& ~~~v b l)
  | .shl y x b a d => one (m2 x y a b) d (fun l => shiftedLeft (v a l) (v b l))
  | .shr y x b a d => one (m2 x y a b) d (fun l => shiftedRight (v a l) (v b l))
  | .sra y x b a d => one (m2 x y a b) d (fun l => shiftedSigned (v a l) (v b l))
  | .rot y x b a d => one (m2 x y a b) d (fun l => rotated (v a l) (v b l))
  | .bfe m y x b a d => one (m2 x y a b) d (fun l => bfeOp m (v a l) (v b l))
  | .bfi y x b a d => one (m2 x y a b ++ free3 d) d (fun l => bfiOp (v a l) (v b l) (acc d l))
  | .popc x a d => one (mark x a.toNat 1) d (fun l => BitVec.ofNat 32 (onesUnder 32 (v a l)))
  | .popcLt y x b a d => one (m2 x y a b) d (fun l => BitVec.ofNat 32 (onesUnder (Nat.min (v b l).toNat 32) (v a l)))
  | .clz x a d => one (mark x a.toNat 1) d (fun l => clzOp (v a l))
  | .brev x a d => one (mark x a.toNat 1) d (fun l => brevOp (v a l))
  | .abs x a d => one (mark x a.toNat 1) d (fun l => BitVec.ofInt 32 (Int.natAbs (v a l).toInt))
  | .not x a d => one (mark x a.toNat 1) d (fun l => ~~~v a l)
  | .dot4I8 m y x b a d => one (m2 x y a b ++ free3 d) d (fun l => dot4Op m (v a l) (v b l) (acc d l))
  | .addi m x i a d => one (mark x a.toNat 1) d (fun l => sumBy (m.setWidth 2) (v a l) (im i))
  | .andi x i a d => one (mark x a.toNat 1) d (fun l => v a l &&& im i)
  | .ori x i a d => one (mark x a.toNat 1) d (fun l => v a l ||| im i)
  | .xori x i a d => one (mark x a.toNat 1) d (fun l => v a l ^^^ im i)
  | .shli x n a d => one (mark x a.toNat 1) d (fun l => v a l <<< n.toNat)
  | .shri x n a d => one (mark x a.toNat 1) d (fun l => v a l >>> n.toNat)
  | .srai x n a d => one (mark x a.toNat 1) d (fun l => (v a l).sshiftRight n.toNat)
  | .roti x n a d => one (mark x a.toNat 1) d (fun l => v a l <<< n.toNat ||| v a l >>> (32 - n.toNat))
  | .movi i d => one [] d (fun _ => im i)
  | .mini m x i a d => one (mark x a.toNat 1) d (fun l => smallerBy (m.setWidth 2) (v a l) (im i))
  | .maxi m x i a d => one (mark x a.toNat 1) d (fun l => largerBy (m.setWidth 2) (v a l) (im i))
  | .mov16 b d => short d (fun l => r b l)
  | .add16 b d => short d (fun l => r d l + r b l)
  | .sub16 b d => short d (fun l => r d l - r b l)
  | .mul16 b d => short d (fun l => r d l * r b l)
  | .and16 b d => short d (fun l => r d l &&& r b l)
  | .or16 b d => short d (fun l => r d l ||| r b l)
  | .xor16 b d => short d (fun l => r d l ^^^ r b l)
  | .andn16 b d => short d (fun l => r d l &&& ~~~r b l)
  | .shl16 b d => short d (fun l => shiftedLeft (r d l) (r b l))
  | .shr16 b d => short d (fun l => shiftedRight (r d l) (r b l))
  | .sra16 b d => short d (fun l => shiftedSigned (r d l) (r b l))
  | .min16 b d => short d (fun l => smallerBy 0 (r d l) (r b l))
  | .max16 b d => short d (fun l => largerBy 0 (r d l) (r b l))
  | _ => none

/-- The uniform forms (05 R149, R150, R174): the uniform registers that they write, whatever the lane mask. -/
def uniformEff (s : State) (c : Ctx) : Instr → Option Eff :=
  let u := fun (n : BitVec 5) => c.group.kread n.toNat
  let w := fun (n : BitVec 4) => c.group.kpair (2 * n.toNat)
  let one := fun (d : BitVec 5) (x : Word) => some ({ k := [(d.toNat, x)] } : Eff)
  let two := fun (d : BitVec 4) (x : DWord) => some ({ k := [(2 * d.toNat, x.extractLsb' 0 32), (2 * d.toNat + 1, x.extractLsb' 32 32)] } : Eff)
  let acc := fun (d : BitVec 5) => c.group.kread (thirdSource s d.toNat).1
  fun i => match i with
  | .kadd m b a d => one d (sumBy m (u a) (u b))
  | .ksub m b a d => one d (diffBy m (u a) (u b))
  | .kmulLo b a d => one d (u a * u b)
  | .kmulHi m b a d => one d (highBy m (u a) (u b))
  | .kmadLo b a d => one d (u a * u b + acc d)
  | .kadda b a d => two d (w a + w b)
  | .kmin m b a d => one d (smallerBy m (u a) (u b))
  | .kmax m b a d => one d (largerBy m (u a) (u b))
  | .kand b a d => one d (u a &&& u b)
  | .kor b a d => one d (u a ||| u b)
  | .kxor b a d => one d (u a ^^^ u b)
  | .kandn b a d => one d (u a &&& ~~~u b)
  | .kshl b a d => one d (shiftedLeft (u a) (u b))
  | .kshr b a d => one d (shiftedRight (u a) (u b))
  | .ksra b a d => one d (shiftedSigned (u a) (u b))
  | .krot b a d => one d (rotated (u a) (u b))
  | .kaddi i a d => one d (u a + immediate s i)
  | .kmovi i d => one d (immediate s i)
  | .kbfe m b a d => one d (bfeOp m (u a) (u b))
  | .kbfi b a d => one d (bfiOp (u a) (u b) (acc d))
  | .kpopc a d => one d (BitVec.ofNat 32 (onesUnder 32 (u a)))
  | .kclz a d => one d (clzOp (u a))
  | .kbrev a d => one d (brevOp (u a))
  | .knot a d => one d (~~~u a)
  | .kabs a d => one d (BitVec.ofInt 32 (Int.natAbs (u a).toInt))
  | .kmov a d => one d (u a)
  | .csrr n d => one d (BitVec.ofNat 32 (csrValue s c n.toNat))
  | .clock d => two d (BitVec.ofNat 64 s.cycle)
  | .nop => some {}
  | _ => none

/-- TAKING A TRAP as 04 R132 describes it, for the unit of the issuing split: the trap joins the team's, with the unit's address, the address
after it, code, details, cycle, lanes, group, split and generation; the unit's group is stopped; the team's slot, which was RUNNING, is
DRAINING; no register, no byte of memory and no other team changes. -/
structure TrapTaken (s t : State) (c : Ctx) (k : Cond) : Prop where
  rest : { t with teams := s.teams, cores := s.cores, ops := s.ops, maskHolds := s.maskHolds } = s
  teams : ∀ n, n ≠ c.key → tabGet t.teams n = tabGet s.teams n
  team : ∃ tm, tabGet t.teams c.key = some tm ∧ tm.cause = .trap ∧
    { tm with groups := c.team.groups, traps := c.team.traps, cause := c.team.cause, ran := c.team.ran, requests := c.team.requests } = c.team ∧
    tm.requests = [] ∧
    tm.traps = c.team.traps ++ [{ code := k.code, detail0 := BitVec.ofNat 64 k.d0, detail1 := BitVec.ofNat 64 k.d1, unit := s.unit.addr
                                  npc := s.unit.npc, cycle := s.cycle, lanes := k.lanes, splitLanes := c.split.mask
                                  group := c.group.num, split := c.split.idx, defer := c.split.stack.length, core := c.core
                                  drain := false, op := 0, gen := c.q.gen }] ∧
    tabGet tm.groups c.group.num = some { c.live with stopped := true } ∧
    ∀ n, n ≠ c.group.num → tabGet tm.groups n = tabGet c.team.groups n
  slot : ∃ i sl, slotIdx (s.core c.core) (fun x => x.st == .running) = some i ∧ (s.core c.core).slots[i]? = some sl ∧ sl.team = c.key ∧
    (t.core c.core).slots[i]? = some { sl with st := .draining, since := s.cycle, retain := false }

/-- A unit of a register form completes with the effect that a table gives it, wherever the split has a context and the effect fits. -/
def RegisterForms (eff : State → Ctx → Instr → Option Eff) : Prop :=
  ∀ (i : Instr) (s : State) (c : Ctx) (e : Eff), ctx? s = some c → eff s c i = some e → Fits s c e →
    ∃ t, exec i s = .next t ∧ Completes s t c e

/-- What stops a unit of a register form (04 R122, R123): where the lane registers that it would create take the group's held count above the kernel's
peak, it traps 0x04 with the first name that it would create and the held count before it; otherwise, where the pool does not give it its registers, it
waits, and stands once among the team's requests. -/
def PeakForms (eff : State → Ctx → Instr → Option Eff) : Prop :=
  ∀ (i : Instr) (s : State) (c : Ctx) (e : Eff), ctx? s = some c → eff s c i = some e →
    let held := (c.live.apply e).v.length
    (∀ n rest, created c.live e = n :: rest → c.grid.launch.peak < held → ∃ t, exec i s = .next t ∧
      TrapTaken s t c ⟨0x04, n, c.live.v.length, c.split.mask⟩) ∧
    ((created c.live e = [] ∨ held ≤ c.grid.launch.peak) → poolOk c e = false → ∃ t, exec i s = .next t ∧ { t with teams := s.teams } = s ∧
      (∀ k, k ≠ c.key → tabGet t.teams k = tabGet s.teams k) ∧ tabGet t.teams c.key = some { c.team with
        requests := c.team.requests ++ if (c.group.num, c.split.idx) ∈ c.team.requests then [] else [(c.group.num, c.split.idx)] })

/-- One packed pair of 16-bit results from the halves of the sources (05 R153). -/
def packedPair (f : Nat → Nat → Nat) (p q : Word) : Word :=
  BitVec.ofNat 32 (f (p.toNat % 65536) (q.toNat % 65536) + 65536 * f (p.toNat / 65536) (q.toNat / 65536))
def packedPair3 (f : Nat → Nat → Nat → Nat) (p q r : Word) : Word :=
  BitVec.ofNat 32 (f (p.toNat % 65536) (q.toNat % 65536) (r.toNat % 65536) +
    65536 * f (p.toNat / 65536) (q.toNat / 65536) (r.toNat / 65536))

/-- The exact sum, product or fused sum of two decoded numbers, rounded once to a format (05 R151). -/
def sumIn (f : Fmt) (m : BitVec 2) (p q : Nat) : Nat := fround f (rndOf m) (addNum (rndOf m == .rd) (fdecode f p) (fdecode f q))
def diffIn (f : Fmt) (m : BitVec 2) (p q : Nat) : Nat :=
  fround f (rndOf m) (addNum (rndOf m == .rd) (fdecode f p) (negNum (fdecode f q)))
def prodIn (f : Fmt) (m : BitVec 2) (p q : Nat) : Nat := fround f (rndOf m) (mulNum (fdecode f p) (fdecode f q))
def fusedIn (f : Fmt) (m : BitVec 2) (p q r : Nat) : Nat :=
  fround f (rndOf m) (addNum (rndOf m == .rd) (mulNum (fdecode f p) (fdecode f q)) (fdecode f r))

/-- The floating-point forms (05 R151 to R155, 02 R55): the marks' registers are freed and every acting lane gets the rounded result. -/
def floatEff (s : State) (c : Ctx) : Instr → Option Eff :=
  let v := fun (n : BitVec 6) (l : Nat) => c.group.vlane n.toNat l
  let r := fun (n : BitVec 5) (l : Nat) => c.group.vlane n.toNat l
  let m2 := fun (x y : BitVec 1) (a b : BitVec 6) => mark x a.toNat 1 ++ mark y b.toNat 1
  let one := fun (fr : List Nat) (d : BitVec 6) (f : Nat → Word) => some ({ frees := fr, v := [(d.toNat, acting s c, f)] } : Eff)
  let short := fun (d : BitVec 5) (f : Nat → Word) => some ({ v := [(d.toNat, acting s c, f)] } : Eff)
  let free3 := fun (d : BitVec 6) => if (thirdSource s d.toNat).2 then [(thirdSource s d.toNat).1] else []
  let acc := fun (d : BitVec 6) (l : Nat) => c.group.vlane (thirdSource s d.toNat).1 l
  let w32 := fun (f : Nat → Nat → Nat) (p q : Word) => BitVec.ofNat 32 (f p.toNat q.toNat)
  fun i => match i with
  | .fadd m y x b a d => one (m2 x y a b) d (fun l => w32 (sumIn fp32 m) (v a l) (v b l))
  | .fsub m y x b a d => one (m2 x y a b) d (fun l => w32 (diffIn fp32 m) (v a l) (v b l))
  | .fmul m y x b a d => one (m2 x y a b) d (fun l => w32 (prodIn fp32 m) (v a l) (v b l))
  | .fma m y x b a d =>
    one (m2 x y a b ++ free3 d) d (fun l => BitVec.ofNat 32 (fusedIn fp32 m (v a l).toNat (v b l).toNat (acc d l).toNat))
  | .fmin y x b a d => one (m2 x y a b) d (fun l => w32 (fminBits fp32 false) (v a l) (v b l))
  | .fmax y x b a d => one (m2 x y a b) d (fun l => w32 (fminBits fp32 true) (v a l) (v b l))
  | .faddBf16x2 m y x b a d => one (m2 x y a b) d (fun l => packedPair (sumIn bf16 m) (v a l) (v b l))
  | .fmulBf16x2 m y x b a d => one (m2 x y a b) d (fun l => packedPair (prodIn bf16 m) (v a l) (v b l))
  | .fmaBf16x2 m y x b a d => one (m2 x y a b ++ free3 d) d (fun l => packedPair3 (fusedIn bf16 m) (v a l) (v b l) (acc d l))
  | .fminBf16x2 y x b a d => one (m2 x y a b) d (fun l => packedPair (fminBits bf16 false) (v a l) (v b l))
  | .fmaxBf16x2 y x b a d => one (m2 x y a b) d (fun l => packedPair (fminBits bf16 true) (v a l) (v b l))
  | .faddF16x2 m y x b a d => one (m2 x y a b) d (fun l => packedPair (sumIn fp16 m) (v a l) (v b l))
  | .fmulF16x2 m y x b a d => one (m2 x y a b) d (fun l => packedPair (prodIn fp16 m) (v a l) (v b l))
  | .fmaF16x2 m y x b a d => one (m2 x y a b ++ free3 d) d (fun l => packedPair3 (fusedIn fp16 m) (v a l) (v b l) (acc d l))
  | .fminF16x2 y x b a d => one (m2 x y a b) d (fun l => packedPair (fminBits fp16 false) (v a l) (v b l))
  | .fmaxF16x2 y x b a d => one (m2 x y a b) d (fun l => packedPair (fminBits fp16 true) (v a l) (v b l))
  | .rcp x a d => one (mark x a.toNat 1) d (fun l => f32Bits (rcpd (f32Num (v a l))))
  | .rsqrt x a d => one (mark x a.toNat 1) d (fun l => f32Bits (rsqrtd (f32Num (v a l))))
  | .exp2 x a d => one (mark x a.toNat 1) d (fun l => f32Bits (exp2d (f32Num (v a l))))
  | .log2 x a d => one (mark x a.toNat 1) d (fun l => f32Bits (log2d (f32Num (v a l))))
  | .cvt m x fr ty a d => one (mark x a.toNat 1) d (fun l => cvtEncode ty m (cvtDecode fr (v a l)))
  | .fadd16 b d => short d (fun l => w32 (sumIn fp32 0) (r d l) (r b l))
  | .fmul16 b d => short d (fun l => w32 (prodIn fp32 0) (r d l) (r b l))
  | .fmax16 b d => short d (fun l => w32 (fminBits fp32 true) (r d l) (r b l))
  | _ => none

/-- A comparison of two words of a type: 0 signed, 1 unsigned, 2 FP32, where -0 equals +0 and a NaN makes all false but `ne` (05 R156). -/
def relates (cc : Cc) (ty : BitVec 2) (p q : Word) : Bool :=
  let holds := fun (lt eq : Bool) => match cc with
    | .eq => eq | .ne => !eq | .lt => lt | .le => lt || eq | .gt => !lt && !eq | .ge => !lt
  if ty = 2 then
    if (f32Num p).isNan || (f32Num q).isNan then (match cc with | .ne => true | _ => false)
    else holds (ltNum (f32Num p) (f32Num q)) (eqNum (f32Num p) (f32Num q))
  else if ty = 0 then holds (decide (p.toInt < q.toInt)) (decide (p = q))
  else holds (decide (p.toNat < q.toNat)) (decide (p = q))

/-- The value that lane `j` gives to a shuffle: its own register, where it is in the split, and else 0 (05 R161). -/
def splitLane (c : Ctx) (a j : Nat) : Word := if c.split.mask.getLsbD j then c.group.vlane a j else 0

/-- The sum of the receiving lanes' values, each step by the type, from a copy of the first (05 R165). The sum over one lane keeps a NaN's bits, which
is log entry 95, a choice between R165's copy and 08 R244. -/
def foldOver (f : Word → Word → Word) : List Word → Word
  | [] => 0
  | x :: t => t.foldl f x

/-- The smallest or the largest of the values: a lone value is compared with itself, so that a NaN comes out canonical (05 R152, R165, 08 R244). -/
def bestOver (f : Word → Word → Word) : List Word → Word
  | [] => 0
  | x :: t => t.foldl f (f x x)

/-- Where a flattened element stands: the lane of its row and its offset in the row; the rows are the receiving lanes' lengths (05 R166). -/
def rowOf : List (Nat × Nat) → Nat → Option (Nat × Nat)
  | [], _ => none
  | (l, len) :: t, e => if e < len then some (l, e) else rowOf t (e - len)

/-- Predicates, moves and cross-lane forms (05 R156 to R166): the registers that they free and the lanes, bits and words that they write. -/
def crossEff (s : State) (c : Ctx) : Instr → Option Eff :=
  let m := acting s c
  let v := fun (n : BitVec 6) (l : Nat) => c.group.vlane n.toNat l
  let m2 := fun (x y : BitVec 1) (a b : BitVec 6) => mark x a.toNat 1 ++ mark y b.toNat 1
  let one := fun (fr : List Nat) (d : BitVec 6) (f : Nat → Word) => some ({ frees := fr, v := [(d.toNat, m, f)] } : Eff)
  let bits := fun (d : BitVec 3) (x : BitVec 32) => some ({ p := [(d.toNat, m, x)] } : Eff)
  let cmp := fun (cc : Cc) (ty : BitVec 2) (y x : BitVec 1) (b a : BitVec 6) (p : BitVec 3) =>
    some ({ frees := m2 x y a b, p := [(p.toNat, m, maskOf (fun l => relates cc ty (v a l) (v b l)))] } : Eff)
  let p := fun (n : BitVec 3) => c.group.pread n.toNat
  let got := fun (a : BitVec 6) => (lanesOf m).map (v a)
  let red := fun (fold : List Word → Word) (x : BitVec 1) (a d : BitVec 6) => one (mark x a.toNat 1) d (fun _ => fold (got a))
  fun i => match i with
  | .cmpEq ty y x b a d => cmp .eq ty y x b a d
  | .cmpNe ty y x b a d => cmp .ne ty y x b a d
  | .cmpLt ty y x b a d => cmp .lt ty y x b a d
  | .cmpLe ty y x b a d => cmp .le ty y x b a d
  | .cmpGt ty y x b a d => cmp .gt ty y x b a d
  | .cmpGe ty y x b a d => cmp .ge ty y x b a d
  | .pand b a d => bits d (p a &&& p b)
  | .por b a d => bits d (p a ||| p b)
  | .pxor b a d => bits d (p a ^^^ p b)
  | .pnot a d => bits d (~~~p a)
  | .sel n y x q b a d => one (m2 x y a b) d (fun l => if Bool.xor ((p q).getLsbD l) (n == 1) then v a l else v b l)
  | .mov y b d => one (mark y b.toNat 1) d (v b)
  | .movk a d => one [] d (fun _ => c.group.kread a.toNat)
  | .sreg n d => one [] d (fun l => BitVec.ofNat 32 (sregValue s c n.toNat l))
  | .shflIdx y x b a d => one (m2 x y a b) d (fun l => splitLane c a.toNat ((v b l).toNat % 32))
  | .shflUp y x b a d => one (m2 x y a b) d (fun l => if (v b l).toNat > l then v a l else splitLane c a.toNat (l - (v b l).toNat))
  | .shflDown y x b a d => one (m2 x y a b) d (fun l => if l + (v b l).toNat > 31 then v a l else splitLane c a.toNat (l + (v b l).toNat))
  | .shflXor y x b a d => one (m2 x y a b) d (fun l => splitLane c a.toNat (Nat.xor l ((v b l).toNat % 32)))
  | .xg y x b a d => one (mark x (8 * a.toNat) 8 ++ mark y b.toNat 1) d
      (fun l => if (v b l).toNat < 256 then c.group.vlane (8 * a.toNat + (v b l).toNat / 32) ((v b l).toNat % 32) else 0)
  | .permB h x q a d => one (mark x a.toNat 1) d (fun l =>
      let byte := fun (i : Nat) => -- nibble i selects byte n AND 3 of register kq + (n >> 2)
        let n := (v a l).toNat / 2 ^ (8 * i + if h = 1 then 4 else 0) % 16
        (c.group.kread (4 * q.toNat + n / 4)).toNat / 2 ^ (8 * (n % 4)) % 256
      BitVec.ofNat 32 (byte 0 + 256 * byte 1 + 65536 * byte 2 + 16777216 * byte 3))
  | .voteAny a d => bits d (if m &&& p a = 0 then 0 else 0xffffffff#32)
  | .voteAll a d => bits d (if m &&& p a = m then 0xffffffff#32 else 0)
  | .voteBallot a d => some { k := if m = 0 then [] else [(d.toNat, m &&& p a)] }
  | .gredAdd ty x a d => red (foldOver (redAddStep ty)) x a d
  | .gredMin ty x a d => red (bestOver (redMinStep ty)) x a d
  | .gredMax ty x a d => red (bestOver (redMaxStep ty)) x a d
  | .gscanAdd ty x a d => one (mark x a.toNat 1) d
      (fun l => foldOver (redAddStep ty) (((lanesOf m).filter (fun j => decide (j ≤ l))).map (v a)))
  | .rbal x b a d =>
    let place := fun (l : Nat) => rowOf ((lanesOf m).map (fun j => (j, (v a j).toNat)))
      ((c.group.kread b.toNat).toNat + ((lanesOf m).filter (fun j => decide (j < l))).length)
    some { frees := mark x a.toNat 1
           v := [(2 * d.toNat, m, fun l => match place l with | some r => BitVec.ofNat 32 r.1 | none => 0xffffffff#32),
                 (2 * d.toNat + 1, m, fun l => match place l with | some r => BitVec.ofNat 32 r.2 | none => 0)] }
  | _ => none

/-! ### Two rules stated whole (05 R157, R158) -/

/-- R157: the four forms of major 0x19 by func, each field of a predicate's range alone, and what each writes in every acting lane; p0 reads 1 and is
never written. -/
def PredicateClaim : Prop :=
  (∀ b a d : BitVec 3, let w := 51 + 2 ^ 7 * d.toNat + 2 ^ 13 * a.toNat
    decodeTableWord 32 (w + 2 ^ 19 * b.toNat) = some (.pand b a d) ∧ decodeTableWord 32 (w + 2 ^ 19 * b.toNat + 2 ^ 25) = some (.por b a d) ∧
    decodeTableWord 32 (w + 2 ^ 19 * b.toNat + 2 ^ 25 * 2) = some (.pxor b a d) ∧
    decodeTableWord 32 (w + 2 ^ 19 * b.toNat + 2 ^ 25 * 3) = if b = 0 then some (.pnot a d) else none) ∧
  (∀ (w : Nat) (i : Instr), w % 2 ^ 7 = 51 → decodeTableWord 32 w = some i → bitsOf w 10 3 = 0 ∧ bitsOf w 16 3 = 0 ∧ bitsOf w 22 3 = 0) ∧
  ∀ (s : State) (c : Ctx) (b a d : BitVec 3), ctx? s = some c →
    let p := fun (n : BitVec 3) (l : Nat) => if n = 0 then true else ((tabGet c.group.p n.toNat).getD 0).getLsbD l
    let gets := fun (i : Instr) (f : Nat → Bool) => ∃ t g', exec i s = .next t ∧ OnlyGroup s t c g' ∧
      (∀ l < 32, (g'.pread d.toNat).getLsbD l = if d = 0 then true else if (acting s c).getLsbD l then f l else
        ((tabGet c.live.p d.toNat).getD 0).getLsbD l) ∧
      GroupAfter c { p := [(d.toNat, acting s c, g'.pread d.toNat)] } s.unit.npc g'
    gets (.pand b a d) (fun l => p a l && p b l) ∧ gets (.por b a d) (fun l => p a l || p b l) ∧
    gets (.pxor b a d) (fun l => p a l ^^ p b l) ∧ gets (.pnot a d) (fun l => !p a l)

/-- R158: `sel` by its fields, and what it writes in every acting lane; with p0 the selection is constant; and the rule's own example. -/
def SelClaim : Prop :=
  (∀ (n y x : BitVec 1) (p : BitVec 3) (b a d : BitVec 6),
    let w := 53 + 2 ^ 7 * d.toNat + 2 ^ 13 * a.toNat + 2 ^ 19 * b.toNat + 2 ^ 25 * p.toNat + 2 ^ 28 * x.toNat + 2 ^ 29 * y.toNat + 2 ^ 30 * n.toNat
    decodeTableWord 32 w = some (.sel n y x p b a d) ∧ decodeTableWord 32 (w + 2 ^ 31) = none) ∧
  decodeTableWord 32 0x461840b5 = some (.sel 1 0 0 3 3 2 1) ∧
  ∀ (s : State) (c : Ctx) (n y x : BitVec 1) (p : BitVec 3) (b a d : BitVec 6), ctx? s = some c →
    let e : Eff := { frees := mark x a.toNat 1 ++ mark y b.toNat 1, v := [(d.toNat, acting s c, fun l =>
      if (c.group.pread p.toNat).getLsbD l ^^ (n == 1) then c.group.vlane a.toNat l else c.group.vlane b.toNat l)] }
    Fits s c e → ∃ t g', exec (.sel n y x p b a d) s = .next t ∧ OnlyGroup s t c g' ∧ GroupAfter c e s.unit.npc g' ∧
      (p = 0 → ∀ l < 32, (acting s c).getLsbD l = true →
        g'.vlane d.toNat l = if n = 0 then c.group.vlane a.toNat l else c.group.vlane b.toNat l)

/-- Taking a trap, for the unit of the issuing split (04 R132). -/
def TrapEntryClaim : Prop := ∀ (s : State) (c : Ctx) (k : Cond), ctx? s = some c → TrapTaken s (takeTrap s (unitSite s c) k) c k

/-- The group with its issuing split changed, and with further splits. -/
def reSplit (c : Ctx) (f : Split → Split) (more : List Split) : Group :=
  { c.live with splits := (c.live.splits.map fun sp => if sp.idx = c.split.idx then f (tick sp) else sp) ++ more }

/-- The lanes of a branch that take it: those of the split whose predicate bit, inverted under `neg`, is 1 (02 R51, 05 R167). -/
def branchTaken (c : Ctx) (p : BitVec 3) (n : BitVec 1) : BitVec 32 :=
  if n = 1 then c.split.mask &&& ~~~c.group.pread p.toNat else c.split.mask &&& c.group.pread p.toNat

/-- The lowest split index that the group leaves free (04 R113: indices 0 to 3). -/
def lowestFree (g : Group) : Option Nat := (List.range 4).find? (fun i => g.splits.all (fun sp => sp.idx != i))

/-- A lane of a split ends up where it should: in a split at its target, or in the deferral that the issuing split holds for the transfer's own
address. -/
def LaneLands (s : State) (c : Ctx) (g' : Group) (tgt : DWord) (l : Nat) : Prop :=
  (∃ sp ∈ g'.splits, sp.mask.getLsbD l = true ∧ sp.pc = tgt) ∨
  (∃ sp ∈ g'.splits, sp.idx = c.split.idx ∧ ∃ ls st, sp.stack = .defer s.unit.addr ls :: st ∧ ls.getLsbD l = true)

/-- `trap #n` traps 0x02 with its number (05 R174); an illegal unit traps 0x01 with its halfwords (02 R69, 04 R134). -/
def SoftwareTrapsClaim : Prop := ∀ (s : State) (c : Ctx), ctx? s = some c →
  (∀ n : BitVec 6, ∃ t, exec (.trap n) s = .next t ∧ TrapTaken s t c { code := 0x02, d0 := n.toNat, d1 := 0, lanes := c.split.mask }) ∧
  ∃ t, exec .illegalInstruction s = .next t ∧ TrapTaken s t c
    { code := 0x01
      d0 := (s.unit.halves.getD 0 0).toNat + 2 ^ 16 * (s.unit.halves.getD 1 0).toNat + 2 ^ 32 * (s.unit.halves.getD 2 0).toNat +
        2 ^ 48 * (s.unit.halves.getD 3 0).toNat
      d1 := (s.unit.halves.getD 4 0).toNat, lanes := c.split.mask }

/-- `bra` (05 R167, 04 R114, R115): no lane or every lane taken moves the split whole; else the taken lanes form a new split in the lowest free
index, with the open lookahead windows of the old one (log 33), and of the two the one that the hint names issues first (02 R61); with no free index the split goes to the target and defers the rest, and where its stack is full it traps 0x03. -/
def BranchClaim : Prop := ∀ (s : State) (c : Ctx) (o : BitVec 19) (h : BitVec 2) (n : BitVec 1) (p : BitVec 3), ctx? s = some c →
  let tk := branchTaken c p n
  let rest := c.split.mask &&& ~~~tk
  (rest = 0 → ∃ t g', exec (.bra o h n p) s = .next t ∧ OnlyGroup s t c g' ∧ GroupAfter c {} (branchTarget s o) g') ∧
  (rest ≠ 0 → tk = 0 → ∃ t, exec (.bra o h n p) s = .next t ∧ Completes s t c {}) ∧
  (rest ≠ 0 → tk ≠ 0 → ∀ i, lowestFree c.live = some i → ∃ t, exec (.bra o h n p) s = .next t ∧
    OnlyGroup s t c { reSplit c (fun sp => { sp with pc := s.unit.npc, mask := rest })
      [{ pc := branchTarget s o, mask := tk, idx := i, stack := [], wait := .none, windows := (tick c.split).windows, replay := none }] with
        hints := c.live.hints ++ [if h = 1 ∨ h = 3 then (i, c.split.idx) else (c.split.idx, i)] }) ∧
  (rest ≠ 0 → tk ≠ 0 → lowestFree c.live = none → c.split.stack.length < 8 → ∃ t, exec (.bra o h n p) s = .next t ∧
    OnlyGroup s t c (reSplit c (fun sp => { sp with pc := branchTarget s o, mask := tk, stack := .defer s.unit.npc rest :: sp.stack }) [])) ∧
  (rest ≠ 0 → tk ≠ 0 → lowestFree c.live = none → 8 ≤ c.split.stack.length → ∃ t, exec (.bra o h n p) s = .next t ∧
    TrapTaken s t c { code := 0x03, d0 := (bodyAddr s).toNat, d1 := rest.toNat, lanes := c.split.mask })

/-- Direct and indirect transfers where every lane of the split has one target (05 R169 to R171): the split moves whole; a call pushes the next
unit's address on every lane's return stack, a return pops it. -/
def UniformTransferClaim : Prop := ∀ (s : State) (c : Ctx) (w : DWord), ctx? s = some c → c.split.mask ≠ 0 →
  let moved := fun (t : State) (fr : List Nat) (f : List DWord → List DWord) => ∃ g', OnlyGroup s t c g' ∧ 
    g'.splits = (reSplit c (fun sp => { sp with pc := w, mask := c.split.mask, stack := c.split.stack }) []).splits ∧
    (∀ l < 32, g'.rets l = if c.split.mask.getLsbD l then f (c.live.rets l) else c.live.rets l) ∧
    (∀ n, tabGet g'.v n = if n ∈ fr then none else tabGet c.live.v n) ∧
    { g' with v := c.live.v, ret := c.live.ret, splits := c.live.splits, dirty := c.live.dirty } = c.live
  let room := ∀ l < 32, c.split.mask.getLsbD l = true → (c.group.rets l).length < 16
  (∀ o, branchTarget s o = w → room → ∃ t, exec (.call o) s = .next t ∧ moved t [] (s.unit.npc :: ·)) ∧
  (∀ x a, canonical w = true → w.toNat % 2 = 0 → (∀ l < 32, c.split.mask.getLsbD l = true → c.group.vpair (2 * a.toNat) l = w) →
    (∃ t, exec (.jmp x a) s = .next t ∧ moved t (mark x (2 * a.toNat) 2) id) ∧
    (room → ∃ t, exec (.callIndirect x a) s = .next t ∧ moved t (mark x (2 * a.toNat) 2) (s.unit.npc :: ·))) ∧
  ((∀ l < 32, c.split.mask.getLsbD l = true → (c.group.rets l).head? = some w) →
    ∃ t, exec .ret s = .next t ∧ moved t [] List.tail)

/-- A transfer to a target of each lane's own (04 R114, R115; 05 R170, R171): whatever the targets, where there is no condition and the deferral
stack has room, each lane lands at its target in some split, or is deferred at the transfer's own address; and no lane of the split is lost. -/
def TransferLandsClaim : Prop := ∀ (s : State) (c : Ctx) (fr : List Nat) (tgt : Nat → DWord) (f : List DWord → List DWord), ctx? s = some c →
  c.split.stack.length < 8 → ∃ g', OnlyGroup s (transfer s c fr [] tgt f) c g' ∧
    ∀ l < 32, c.split.mask.getLsbD l = true → LaneLands s c g' (tgt l) l

/-- A bad or missing target traps before any lane moves (05 R169, R170, R171, 04 R134): 0x08 where an active lane's return stack is full, 0x0a
where an active lane's indirect target is odd or not canonical, also of an indirect call where no stack is full, 0x09 where an active lane's return stack is empty,
however deep the deferral stack is (log 80). An indirect transfer that could overflow the deferral stack is left out: 0x03 is the lower code. -/
def TransferTrapClaim : Prop := ∀ (s : State) (c : Ctx), ctx? s = some c →
  let full := c.split.mask &&& maskOf (fun l => decide (16 ≤ (c.group.rets l).length))
  let none_ := c.split.mask &&& maskOf (fun l => decide (c.group.rets l = []))
  let bad := fun (a : BitVec 5) => c.split.mask &&&
    maskOf (fun l => !decide ((c.group.vpair (2 * a.toNat) l).toNat % 2 = 0) || !canonical (c.group.vpair (2 * a.toNat) l))
  (full ≠ 0 → ∀ o, ∃ t, exec (.call o) s = .next t ∧ TrapTaken s t c ⟨0x08, (bodyAddr s).toNat, full.toNat, full⟩) ∧
  (full ≠ 0 → c.split.stack.length < 8 → ∀ x a, ∃ t, exec (.callIndirect x a) s = .next t ∧ TrapTaken s t c ⟨0x08, (bodyAddr s).toNat, full.toNat, full⟩) ∧
  (∀ x a, bad a ≠ 0 → c.split.stack.length < 8 → ∃ t, exec (.jmp x a) s = .next t ∧
    TrapTaken s t c ⟨0x0a, (c.group.vpair (2 * a.toNat) (lowLane (bad a))).toNat, (bad a).toNat, bad a⟩) ∧
  (full = 0 → ∀ x a, bad a ≠ 0 → c.split.stack.length < 8 → ∃ t, exec (.callIndirect x a) s = .next t ∧
    TrapTaken s t c ⟨0x0a, (c.group.vpair (2 * a.toNat) (lowLane (bad a))).toNat, (bad a).toNat, bad a⟩) ∧
  (none_ ≠ 0 → ∃ t, exec .ret s = .next t ∧ TrapTaken s t c ⟨0x09, (bodyAddr s).toNat, none_.toNat, none_⟩)

/-! ### Memory units (06 R176 to R190) -/

/-- The loads of single lanes: first register, bytes, sign extension, names freed, lane addresses (06 R176, R182, R183). -/
def loadForm (s : State) (c : Ctx) : Instr → Option (Nat × Nat × Bool × List Nat × (Nat → Nat))
  | .ld m r _ sz i k d => some (d.toNat, sizeOf sz, m == 1, indexMark r i, eaOf s c k.toNat i.toNat (sizeOf sz))
  | .ldRo m r _ sz i k d => some (d.toNat, sizeOf sz, m == 1, indexMark r i, eaOf s c k.toNat i.toNat (sizeOf sz))
  | .ldQ r _ i k d => some (4 * d.toNat, 16, false, indexMark r i, eaOf s c k.toNat i.toNat 16)
  | _ => none

/-- The words of a loaded value: a value below four bytes is extended to 32 bits (06 R182). -/
def loadedWords (d n : Nat) (sx : Bool) (m : BitVec 32) (bytes : Nat → List Byte) : List (Nat × BitVec 32 × (Nat → Word)) :=
  if n < 4 then [(d, m, fun l => if sx then (BitVec.ofNat (8 * n) (natOfBytes (bytes l))).signExtend 32 else BitVec.ofNat 32 (natOfBytes (bytes l)))]
  else (List.range (n / 4)).map (fun j => (d + j, m, fun l => BitVec.ofNat 32 (natOfBytes (((bytes l).drop (4 * j)).take 4))))

/-- A load takes the read-only path. -/
def isRo : Instr → Bool
  | .ldRo _ _ _ _ _ _ _ => true
  | _ => false

/-- `ld`, `ld.ro`, where its path serves no older value (03 R85), and `ld` of quads (06 R182, R183): each acting lane's registers take the bytes at its translated address, extended as the mode says; no byte
changes but the walked leaf entries. -/
def LoadClaim : Prop := ∀ (i : Instr) (s : State) (c : Ctx) (d n : Nat) (sx : Bool) (fr : List Nat) (ea : Nat → Nat) (p : Nat → Piece),
  ctx? s = some c → loadForm s c i = some (d, n, sx, fr, ea) → Calm s c → (isRo i = true → ∀ x ∈ s.past, x.on = false) →
  (∀ l < 32, (acting s c).getLsbD l = true → (lookAt s c .load (tabGet c.group.lastPage l) true l (ea l) n n (isRo i)).opens s (p l)) →
  Fits s c { frees := fr, v := loadedWords d n sx (acting s c) (fun _ => []) } →
  ∃ t g', exec i s = .next t ∧ OnlyAccess s t c g' ∧ t.bad = s.bad ∧
    GroupAccess c { frees := fr, v := loadedWords d n sx (acting s c) (fun l => s.bytes (p l).pa n) } s.unit.npc false (acting s c) p g' ∧
    ∀ a, ¬ InWalked ((lanesOf (acting s c)).map p) a → t.byteAt a = s.byteAt a

/-- The stores of single lanes: register, bytes, names freed, lane addresses (06 R182). -/
def storeForm (s : State) (c : Ctx) : Instr → Option (Nat × Nat × List Nat × (Nat → Nat))
  | .st r _ sz i k d => some (d.toNat, sizeOf sz, indexMark r i, eaOf s c k.toNat i.toNat (sizeOf sz))
  | .stQ r _ i k d => some (4 * d.toNat, 16, indexMark r i, eaOf s c k.toNat i.toNat 16)
  | _ => none

/-- Byte `j` of a lane's value in its register, pair or quad (06 R182). -/
def storedByte (c : Ctx) (d l j : Nat) : Byte := (c.group.vlane (d + j / 4) l).extractLsb' (8 * (j % 4)) 8

/-- `st` (06 R182, 03 R87): each acting lane's bytes stand at its translated address, the highest lane winning; no other byte changes but the walked leaf
entries. -/
def StoreClaim : Prop := ∀ (i : Instr) (s : State) (c : Ctx) (d n : Nat) (fr : List Nat) (ea : Nat → Nat) (p : Nat → Piece),
  ctx? s = some c → storeForm s c i = some (d, n, fr, ea) → Calm s c → s.Inv →
  (∀ l < 32, (acting s c).getLsbD l = true → (lookAt s c .store (tabGet c.group.lastPage l) true l (ea l) n n).opens s (p l)) →
  Fits s c { frees := fr } →
  let m := acting s c
  let stores := fun (l a : Nat) => m.getLsbD l = true ∧ (p l).pa ≤ a ∧ a < (p l).pa + n
  ∃ t g', exec i s = .next t ∧ OnlyAccess s t c g' ∧ GroupAccess c { frees := fr } s.unit.npc true m p g' ∧
    (∀ l < 32, ∀ a, stores l a → (∀ h < 32, l < h → ¬ stores h a) → t.byteAt a = storedByte c d l (a - (p l).pa)) ∧
    ∀ a, (∀ l < 32, ¬ stores l a) → ¬ InWalked ((lanesOf m).map p) a → t.byteAt a = s.byteAt a

/-- `ldk` and `ldl` act once, for all the split's lanes (06 R184, R185): `ldk` writes 4 or 8 bytes to uniform registers; `ldl` writes register
`d + j` of every lane from the `j`th row of 128 bytes, whether or not the lane is in the split. -/
def WholeLoadClaim : Prop := ∀ (s : State) (c : Ctx), ctx? s = some c → Calm s c →
  (∀ (la : BitVec 4) (sz : BitVec 1) (k : BitVec 4) (d : BitVec 5) (p : Piece),
    let n := if sz = 1 then 8 else 4
    (lookAt s c .load none true (lowLane c.split.mask) (unitEa s c.group k.toNat).toNat n n).opens s p →
    ∃ t g', exec (.ldk la sz k d) s = .next t ∧ OnlyAccess s t c g' ∧
      GroupAfter c { k := (List.range (n / 4)).map (fun j => (d.toNat + j, BitVec.ofNat 32 (natOfBytes (s.bytes (p.pa + 4 * j) 4)))) } s.unit.npc g' ∧
      ∀ a, ¬ InWalked [p] a → t.byteAt a = s.byteAt a) ∧
  ∀ (la : BitVec 4) (sz : BitVec 2) (k : BitVec 4) (d : BitVec 6) (p : Nat → Piece),
    let n := 2 ^ sz.toNat
    let words := fun (f : Nat → Nat → Word) => (List.range n).map (fun j => (d.toNat + j, 0xffffffff#32, f j))
    (∀ j < n, (lookAt s c .load none true j (((unitEa s c.group k.toNat).toNat + 128 * j) % 2 ^ 64) 128 128).opens s (p j)) →
    Fits s c { v := words (fun _ _ => 0) } →
    ∃ t g', exec (.ldl la sz k d) s = .next t ∧ OnlyAccess s t c g' ∧
      GroupAfter c { v := words (fun j l => BitVec.ofNat 32 (natOfBytes (s.bytes ((p j).pa + 4 * l) 4))) } s.unit.npc g' ∧
      ∀ a, ¬ InWalked ((List.range n).map p) a → t.byteAt a = s.byteAt a

/-- Scratchpad forms: whether it stores, register, bytes, names freed, and what each lane's access meets (06 R177, R178, R186). -/
def spadForm (s : State) (c : Ctx) : Instr → Option (Bool × Nat × Nat × List Nat × (Nat → SpadLook))
  | .lds r _ sz i k d => some (false, d.toNat, sizeOf sz, indexMark r i,
      fun l => lookSpad s c false l (laneOff s c.group k.toNat i.toNat (sizeOf sz) l) (sizeOf sz))
  | .sts r _ sz i k d => some (true, d.toNat, sizeOf sz, indexMark r i,
      fun l => lookSpad s c true l (laneOff s c.group k.toNat i.toNat (sizeOf sz) l) (sizeOf sz))
  | .ldsd r _ sz i k d => some (false, d.toNat, sizeOf sz, indexMark r i,
      fun l => lookWindow s c false l (laneOff s c.group k.toNat i.toNat (sizeOf sz) l) (sizeOf sz))
  | .stsd r _ sz i k d => some (true, d.toNat, sizeOf sz, indexMark r i,
      fun l => lookWindow s c true l (laneOff s c.group k.toNat i.toNat (sizeOf sz) l) (sizeOf sz))
  | _ => none

/-- Where no lane has a condition and no earlier access of the split to its bytes is in flight (03 R89), a scratchpad load zero-extends and changes no
byte; a store writes each acting lane's bytes at its address, the highest lane winning, and changes no other byte (06 R186, 03 R87). -/
def ScratchpadClaim : Prop := ∀ (i : Instr) (s : State) (c : Ctx) (d n : Nat) (fr : List Nat) (look : Nat → SpadLook), ctx? s = some c →
  (∀ l < 32, (acting s c).getLsbD l = true → (look l).traps = [] ∧ behindEarlier s c (look l).pa (look l).n = false) →
  (spadForm s c i = some (false, d, n, fr, look) → Fits s c { frees := fr, v := loadedWords d n false (acting s c) (fun _ => []) } →
    ∃ t, exec i s = .next t ∧
      Completes s t c { frees := fr, v := loadedWords d n false (acting s c) (fun l => s.bytes (look l).pa n) }) ∧
  (spadForm s c i = some (true, d, n, fr, look) → Fits s c { frees := fr } → s.Inv →
    let stores := fun (l a : Nat) => (acting s c).getLsbD l = true ∧ (look l).pa ≤ a ∧ a < (look l).pa + n
    ∃ t, exec i s = .next t ∧ Completes { s with mem := t.mem, bad := t.bad, spadDirty := t.spadDirty, l1Lines := t.l1Lines, migrations := t.migrations } t c { frees := fr } ∧
      (∀ l < 32, ∀ a, stores l a → (∀ h < 32, l < h → ¬ stores h a) → t.byteAt a = storedByte c d l (a - (look l).pa)) ∧
      ∀ a, (∀ l < 32, ¬ stores l a) → t.byteAt a = s.byteAt a)

/-- `pf` changes nothing but the names its index mark frees (06 R187), where the core holds no update-only line. -/
def PrefetchClaim : Prop := ∀ (s : State) (c : Ctx) (r : BitVec 1) (la : BitVec 4) (i : BitVec 6) (k : BitVec 4), ctx? s = some c →
  (s.core c.core).upd = [] → ∃ t, exec (.pf r la i k) s = .next t ∧ Completes s t c { frees := indexMark r i }

/-- A split's earlier lookahead windows end with one that it opens (03 R94, 06 R188). -/
def withCap (c : Ctx) (look : Nat) : Ctx :=
  { c with live := c.live.modSplit c.split.idx (fun sp => { sp with windows := sp.windows.map (fun w => (w.1, Nat.min w.2 (look + 1))) }) }

/-- `mwait` (06 R188): where the word read has reached the 48-bit value of its pair, compared modulo 2^48, the pair takes the word; otherwise the
unit ends with an operation in flight, which reads again. -/
def MwaitClaim : Prop := ∀ (s : State) (c : Ctx) (la k d : BitVec 4) (p : Piece), ctx? s = some c → Calm s c → replayFull s c = false →
  (lookAt s c .load none false (lowLane c.split.mask) (unitEa s c.group k.toNat).toNat 8 8).opens s p →
  let target := (c.group.kpair (2 * d.toNat)).toNat % 2 ^ 48
  let word := s.num p.pa 8
  (reached word target = true → ∃ t g', exec (.mwait la k d) s = .next t ∧ OnlyAccess s t c g' ∧
    GroupAfter (withCap c la.toNat) { k := [(2 * d.toNat, BitVec.ofNat 32 word), (2 * d.toNat + 1, BitVec.ofNat 32 (word / 2 ^ 32))] } s.unit.npc g' ∧
    ∀ a, ¬ InWalked [p] a → t.byteAt a = s.byteAt a) ∧
  (reached word target = false → ∃ t, exec (.mwait la k d) s = .next t ∧
    tabGet t.ops s.nextOp = some (opOf s c c.split.mask (.mwait ⟨unitEa s c.group k.toNat, target, 2 * d.toNat, false⟩)) ∧
    t.nextOp = s.nextOp + 1 ∧ (∀ id, id ≠ s.nextOp → tabGet t.ops id = tabGet s.ops id) ∧
    ∃ g', groupOf t c.key c.group.num = some g' ∧ g'.v = c.live.v ∧ g'.k = c.live.k ∧
      g'.splits = (wentOn (withCap c la.toNat).live c.split.idx s.unit.npc).map
        (fun sp => if sp.idx = c.split.idx then { sp with windows := sp.windows ++ [(s.nextOp, la.toNat)] } else sp))

/-- The re-read of an `mwait` in flight, once the loads that its acquire orders are performed (06 R188, R190, 03 R94): where the word has reached the value, the pair takes the word and the operation ends;
otherwise it stays in flight and no register changes. -/
def RereadClaim : Prop := ∀ (s : State) (g n id : Nat) (key : Nat) (o : Op) (c : Ctx) (w : MWait) (p : Piece),
  s.ops.find? (fun x => x.2.team == key && x.2.group == g && x.2.split == n && !x.2.halted &&
    (match x.2.body with | .mwait _ => true | _ => false)) = some (id, o) →
  let look := lookAt s c .load none false (lowLane o.lanes) w.va.toNat 8 8
  o.body = .mwait w → opCtx s o = some c → (s.core c.core).upd = [] → s.wc = [] → s.migrations = [] → mustWait s (c.before id) .load [look] = false →
  returnWaits s c id = false → c.group.splits ≠ [] → look.opens s p →
  (reached (s.num p.pa 8) w.target = true → ∃ t, exec (.mwaitReread key g n) s = .next t ∧ tabGet t.ops id = none ∧
    groupOf t o.team o.group = some (c.group.apply { k := [(w.kd, BitVec.ofNat 32 (s.num p.pa 8)), (w.kd + 1, BitVec.ofNat 32 (s.num p.pa 8 / 2 ^ 32))] }) ∧
    ∀ a, ¬ InWalked [p] a → t.byteAt a = s.byteAt a) ∧
  (reached (s.num p.pa 8) w.target = false → ∃ t, exec (.mwaitReread key g n) s = .next t ∧ tabGet t.ops id = some o ∧ t.teams = s.teams ∧
    ∀ a, ¬ InWalked [p] a → t.byteAt a = s.byteAt a)

/-! ### Atomics, bank updates, fences (07 R211 to R222) -/

/-- What an atomic leaves of an old value `o`, with operand `b` and comparison `x`, under type `ty`: 0 `n32`, 1 `i32`, 2 `n64`, 3 `f32`
(07 R212). -/
def atomicNew (op : AtomOp) (ty : BitVec 2) (o b x : Nat) : Nat :=
  let smaller := if ty = 1 then (BitVec.ofNat 32 o).slt (BitVec.ofNat 32 b) else decide (o < b)
  match op with
  | .add => if ty = 3 then sumIn fp32 0 o b else if ty = 2 then (o + b) % 2 ^ 64 else (o + b) % 2 ^ 32
  | .min => if smaller then o else b
  | .max => if smaller then b else o
  | .and => o &&& b
  | .or => o ||| b
  | .xor => o ^^^ b
  | .exch => b
  | .cas => if o = x then b else o

/-- The 14 forms: operation, type, marks, operand, address pair, destination of the old value. -/
def atomicForm : Instr → Option (AtomOp × BitVec 2 × BitVec 1 × BitVec 1 × BitVec 6 × BitVec 5 × Option (BitVec 6))
  | .atomAdd ty y x b a d => some (.add, ty, y, x, b, a, some d)
  | .atomMin ty y x b a d => some (.min, ty, y, x, b, a, some d)
  | .atomMax ty y x b a d => some (.max, ty, y, x, b, a, some d)
  | .atomAnd ty y x b a d => some (.and, ty, y, x, b, a, some d)
  | .atomOr ty y x b a d => some (.or, ty, y, x, b, a, some d)
  | .atomXor ty y x b a d => some (.xor, ty, y, x, b, a, some d)
  | .atomExch ty y x b a d => some (.exch, ty, y, x, b, a, some d)
  | .atomCas ty y x b a d => some (.cas, ty, y, x, b, a, some d)
  | .redAdd ty y x b a => some (.add, ty, y, x, b, a, none)
  | .redMin ty y x b a => some (.min, ty, y, x, b, a, none)
  | .redMax ty y x b a => some (.max, ty, y, x, b, a, none)
  | .redAnd ty y x b a => some (.and, ty, y, x, b, a, none)
  | .redOr ty y x b a => some (.or, ty, y, x, b, a, none)
  | .redXor ty y x b a => some (.xor, ty, y, x, b, a, none)
  | _ => none

/-- A unit's acting lanes read and replace an element one after another, in ascending order (03 R88): memory after them, with each lane's old
value. -/
def inTurn (n : Nat) (new : Nat → Nat → Nat) (pa : Nat → Nat) : List Host.Cell → List Nat → List Host.Cell × (Nat → Nat)
  | m, [] => (m, fun _ => 0)
  | m, l :: t =>
    let o := natOfBytes (memGetMany m (pa l) n)
    let r := inTurn n new pa (memSetMany m (pa l) (bytesOf n (new l o))) t
    (r.1, fun j => if j = l then o else r.2 j)

/-- Atomics and reductions (07 R212, R215): from the memory in which the walks' leaf entries are marked, the lanes act in turn; `atom` delivers the
old values, and bytes outside the elements and the walked entries are as before. -/
def AtomicClaim : Prop := ∀ (i : Instr) (s : State) (c : Ctx) (op : AtomOp) (ty : BitVec 2) (y x : BitVec 1) (b : BitVec 6) (a : BitVec 5)
    (d : Option (BitVec 6)) (p : Nat → Piece),
  atomicForm i = some (op, ty, y, x, b, a, d) → ctx? s = some c → Calm s c →
  let n := if ty = 2 then 8 else 4
  let m := acting s c
  let ea := fun (l : Nat) => (c.group.vpair (2 * a.toNat) l).toNat
  let val := fun (r l : Nat) => if ty = 2 then (c.group.vpair r l).toNat else (c.group.vlane r l).toNat
  let olds := fun (f : Nat → Nat) => match d with
    | none => []
    | some r => (List.range (n / 4)).map (fun j => (r.toNat + j, m, fun l => BitVec.ofNat 32 (f l / 2 ^ (32 * j))))
  let frees := mark x (2 * a.toNat) 2 ++ mark y b.toNat (n / 4)
  (∀ l < 32, m.getLsbD l = true → (lookAt s c .atomic (tabGet c.group.lastPage l) true l (ea l) n n).opens s (p l)) →
  Fits s c { frees := frees, v := olds (fun _ => 0) } →
  let marks := noteLooks s c true true (looksOf s c .atomic m n ea)
  let r := inTurn n (fun l o => atomicNew op ty o (val b.toNat l) (match d with | some r => val r.toNat l | none => 0)) (fun l => (p l).pa) marks.mem (lanesOf m)
  ∃ t g', exec i s = .next t ∧ OnlyAccess s t c g' ∧ GroupAccess c { frees := frees, v := olds r.2 } s.unit.npc true m p g' ∧ t.mem = r.1 ∧
    ∀ z, (∀ l < 32, m.getLsbD l = true → z < (p l).pa ∨ (p l).pa + n ≤ z) → ¬ InWalked ((lanesOf m).map p) z → t.byteAt z = s.byteAt z

/-- Bank updates (07 R217, R218): operation 0 add, 1 minimum, 2 maximum; at once (`bred`), or merged in the core (`bupd`). -/
def bankForm : Instr → Option (Bool × Nat × BitVec 2 × BitVec 1 × BitVec 1 × BitVec 6 × BitVec 5)
  | .bredAdd ty y x b a => some (true, 0, ty, y, x, b, a)
  | .bredMin ty y x b a => some (true, 1, ty, y, x, b, a)
  | .bredMax ty y x b a => some (true, 2, ty, y, x, b, a)
  | .bupdAdd ty y x b a => some (false, 0, ty, y, x, b, a)
  | .bupdMin ty y x b a => some (false, 1, ty, y, x, b, a)
  | .bupdMax ty y x b a => some (false, 2, ty, y, x, b, a)
  | _ => none

/-- `bred` updates memory in turn. `bupd` changes no byte of the elements: its lines, in a core that held none, hold for each element the acting
lanes' values merged in ascending order. -/
def BankClaim : Prop := ∀ (i : Instr) (s : State) (c : Ctx) (now : Bool) (op : Nat) (ty : BitVec 2) (y x : BitVec 1) (b : BitVec 6) (a : BitVec 5)
    (p : Nat → Piece),
  bankForm i = some (now, op, ty, y, x, b, a) → ctx? s = some c → Calm s c →
  let m := acting s c
  let ea := fun (l : Nat) => (c.group.vpair (2 * a.toNat) l).toNat
  let frees := mark x (2 * a.toNat) 2 ++ mark y b.toNat 1
  (∀ l < 32, m.getLsbD l = true → (lookAt s c .bank (tabGet c.group.lastPage l) true l (ea l) 4 4).opens s (p l)) →
  let marks := noteLooks s c true true (looksOf s c .bank m 4 ea)
  (now = true → ∃ t g', exec i s = .next t ∧ OnlyAccess s t c g' ∧ GroupAccess c { frees := frees } s.unit.npc true m p g' ∧
    t.mem = (inTurn 4 (fun l o => (bankUpd op ty.toNat (BitVec.ofNat 32 o) (c.group.vlane b.toNat l)).toNat) (fun l => (p l).pa) marks.mem (lanesOf m)).1) ∧
  (now = false → ∃ t g', exec i s = .next t ∧ GroupIs s.teams t.teams c g' ∧ GroupAccess c { frees := frees } s.unit.npc true m p g' ∧ t.mem = marks.mem ∧
    ∀ l < 32, m.getLsbD l = true → ∃ u ∈ (t.core c.core).upd, u.pa = (p l).pa / 128 * 128 ∧ u.op = op ∧ u.ty = ty.toNat ∧ u.team = c.key ∧
      u.first = s.cycle ∧ tabGet u.elems (((p l).pa - u.pa) / 4) =
        some (foldOver (bankUpd op ty.toNat) (((lanesOf m).filter (fun j => (p j).pa == (p l).pa)).map (fun j => c.group.vlane b.toNat j))))

/-- What a look at one lane's access of `n` bytes finds, through the core's memory port (06 R179, 07 R213, R226, R227, R236, R237, R241): an address that is not
canonical is 0x11, a misaligned one 0x20; for the others an invalid entry is a fault, a malformed one 0x23, and at a leaf a write to a page that
cannot be written is 0x22, a write that meets a class not admitted 0x21; a class is met in the translation and in every line touched. -/
def LookClaim : Prop := ∀ (s : State) (c : Ctx) (acc : Acc) (last : Option Xlat) (lane va n al : Nat) (ro : Bool),
  let k := lookAt s c acc last true lane va n al ro
  let has := fun (code : Nat) => ∃ t ∈ k.traps, t.code = code
  let w := translate s c.q last (some c.core) (dieOf c.core) va acc.writes
  (has 0x11 ↔ canonical (BitVec.ofNat 64 va) = false) ∧ (has 0x20 ↔ va % al ≠ 0) ∧
  (canonical (BitVec.ofNat 64 va) = true → va % al = 0 →
    (∀ l e, k.fault = some (l, e) ↔ w.1 = .invalid l e) ∧ (has 0x23 ↔ ∃ l e, w.1 = .malformed l e) ∧
    ∀ x, w.1 = .leaf x → ∃ p, k.piece = some p ∧ p.va = va ∧ p.pa = x.pa va ∧ p.n = n ∧ p.x = x ∧ p.walked = w.2 ∧
      (has 0x22 ↔ acc.writes = true ∧ (x.w = false ∨ x.region = 3)) ∧ (has 0x21 ↔ acc.writes = true ∧ k.denied.isSome = true) ∧
      (k.denied.isSome = true ↔ admits c.q x.cls = false ∨ ∃ l ∈ linesOf p.pa n, admits c.q (lineCarries s c.q p.via x.cls l) = false))

/-- An access form of single lanes: its kind, its register effect and its lanes' looks (06 R176, R182, R183; 07 R211, R217). -/
def accessForm (s : State) (c : Ctx) (i : Instr) : Option (Acc × Eff × List Look) :=
  let m := acting s c
  let pair := fun (a : BitVec 5) (l : Nat) => (c.group.vpair (2 * a.toNat) l).toNat
  match loadForm s c i, storeForm s c i, atomicForm i, bankForm i with
  | some (d, n, sx, fr, ea), _, _, _ => some (.load, { frees := fr, v := loadedWords d n sx m (fun _ => []) }, looksOf s c .load m n ea (isRo i))
  | _, some (_, n, fr, ea), _, _ => some (.store, { frees := fr }, looksOf s c .store m n ea)
  | _, _, some (_, ty, y, x, b, a, d), _ =>
    let n := if ty = 2 then 8 else 4
    some (.atomic, { frees := mark x (2 * a.toNat) 2 ++ mark y b.toNat (n / 4)
                     v := match d with | none => [] | some r => (List.range (n / 4)).map (fun j => (r.toNat + j, m, fun _ => 0)) },
      looksOf s c .atomic m n (pair a))
  | _, _, _, some (_, _, _, y, x, b, a) =>
    some (.bank, { frees := mark x (2 * a.toNat) 2 ++ mark y b.toNat 1 }, looksOf s c .bank m 4 (pair a))
  | _, _, _, _ => none

/-- Where the accesses of a kind stop (01 R40, 06 R179, R190; 07 R213, R237, R241): the lowest trap code of all lanes is taken, a denied write with its
audit event; with no trap an invalid entry is a fault of the whole unit. The lanes' walks have left their marks by then. -/
def AccessStops (kind : Acc → Bool) : Prop := ∀ (i : Instr) (s : State) (c : Ctx) (acc : Acc) (e : Eff) (looks : List Look), ctx? s = some c →
  accessForm s c i = some (acc, e, looks) → kind acc = true → replayFull s c = false →
  let traps := lowest (peakCond c e ++ condsOf none (looks.flatMap (·.traps)))
  (∀ k, traps = some k →
    let s1 := noteWalks (if k.code = 0x21 then denialEvent s c none acc.path acc.code looks else s) c acc.writes looks
    ∃ t, exec i s = .next t ∧ TrapTaken s1 t c k) ∧
  ∀ f, traps = none → faultOf none acc looks = some f → exec i s = .next (takeFault (noteWalks s c acc.writes looks) (unitSite s c) f)

/-- Nothing but a denial stops a lane's read: no condition holds in it, its page has a leaf entry and lies outside the peer window. -/
def Look.reads (s : State) (k : Look) (p : Piece) : Prop := k.traps = [] ∧ k.fault = none ∧ k.piece = some p ∧ k.remote s = false

/-- A denied read (07 R237, R239, 06 R190): the load completes; each byte of a class that is not admitted is zero, the others are memory's; and one
audit event names the denied lanes, the lowest one's address, the denied bytes of all and the lowest class. -/
def DeniedLoadClaim : Prop := ∀ (i : Instr) (s : State) (c : Ctx) (d n : Nat) (sx : Bool) (fr : List Nat) (ea : Nat → Nat) (p : Nat → Piece),
  ctx? s = some c → loadForm s c i = some (d, n, sx, fr, ea) → Calm s c → (isRo i = true → ∀ x ∈ s.past, x.on = false) →
  let m := acting s c
  let look := fun l => lookAt s c .load (tabGet c.group.lastPage l) true l (ea l) n n (isRo i)
  (∀ l < 32, m.getLsbD l = true → (look l).reads s (p l)) → Fits s c { frees := fr, v := loadedWords d n sx m (fun _ => []) } →
  let dm := maskOf (fun l => m.getLsbD l && (look l).denied.isSome)
  let bytes := ((lanesOf dm).map (fun l => deniedCount s c.q (p l))).foldl (· + ·) 0
  ∀ cls, ((lanesOf dm).filterMap (fun l => (look l).denied)).min? = some cls →
    let s1 := unitAudit s c (ea (lowLane dm)) dm.toNat bytes cls 0 0
    ∃ t g', exec i s = .next t ∧ OnlyAccess s1 t c g' ∧
      GroupAccess c { frees := fr, v := loadedWords d n sx m (fun l =>
        (List.range n).map (fun j => if byteDenied s1 c.q (p l) j then 0 else s1.byteAt ((p l).pa + j))) } s.unit.npc false m p g' ∧
      ∀ a, ¬ InWalked ((lanesOf m).map p) a → t.byteAt a = s1.byteAt a

/-- An update-only line whose home does not hold it is flushed 1,024 cycles after its first update (07 R219): its home bank applies every touched
element, the core holds the line no longer, and no other byte changes. Before that nothing happens. -/
def UpdateTimeoutClaim : Prop := ∀ (s : State) (core line : Nat) (u : UpdLine), (s.core core).upd.filter (fun w => w.pa == line) = [u] →
  flushHeld s core (fun w => w.pa == line) = false →
  (u.first + 1024 ≤ s.cycle → ∃ t, exec (.updateOnlyTimeout core line) s = .next t ∧
    (t.core core).upd = (s.core core).upd.filter (fun w => w.pa != line) ∧ t.teams = s.teams ∧
    t.mem = (u.elems.foldl (fun m el => memSetMany m (u.pa + 4 * el.1)
      (bytesOf 4 (bankUpd u.op u.ty (BitVec.ofNat 32 (natOfBytes (memGetMany m (u.pa + 4 * el.1) 4))) el.2).toNat)) s.mem)) ∧
  (s.cycle < u.first + 1024 → exec (.updateOnlyTimeout core line) s = .next s)

/-- Fences (07 R221, R222; 03 R93). With nothing before them in flight or unflushed they only go on, whatever their scope (log 6); a full or release fence
leaves no update-only line on its core and no write-combining entry with a store of its group; each waits for accesses that it orders, an acquire also
while a bank update of its team stands in an update-only line (log 34). -/
def FenceClaim : Prop := ∀ (s : State) (c : Ctx) (sc : BitVec 3), ctx? s = some c →
  (acquireWaits s c = false → ∃ t, exec (.fenceAcq sc) s = .next t ∧ Completes s t c {}) ∧
  (acquireWaits s c = true → exec (.fenceAcq sc) s = .next s) ∧
  ∀ i ∈ [Instr.fence sc, Instr.fenceRel sc, Instr.tfence sc],
    (releaseWaits s c = true → exec i s = .next s) ∧
    (releaseWaits s c = false → (s.core c.core).upd = [] → s.wc = [] → ∃ t, exec i s = .next t ∧ Completes s t c {}) ∧
    (releaseWaits s c = false → ∃ t, exec i s = .next t ∧ (t.core c.core).upd = [] ∧
      (∀ w ∈ t.wc, (c.key, c.group.num) ∉ w.2.writers) ∧ ∃ g', GroupIs s.teams t.teams c g' ∧ GroupAfter c {} s.unit.npc g')

/-! ### Barrier objects (06 R194 to R203) -/

/-- A state with the memory of another, and the marks that writes leave. -/
def withMemory (s t : State) : State :=
  { s with mem := t.mem, bad := t.bad, spadDirty := t.spadDirty, l1Lines := t.l1Lines, migrations := t.migrations, tags := t.tags }

/-- A form's operand reaches an initialised object at `pa`. -/
def ReachesBar (s : State) (c : Ctx) (w : BitVec 1) (a : BitVec 5) (pa : Nat) : Prop :=
  barConds s c (w == 1) (c.group.kread a.toNat).toNat = [] ∧ barPa c (w == 1) (c.group.kread a.toNat).toNat = pa

/-- An object after its counts change: where both are zero the phase passes and the arrivals begin anew (06 R196). -/
def settled (b : Bar) : Bar :=
  if b.arrive = 0 ∧ b.tx = 0 then { b with phase := (b.phase + 1) % 2 ^ 32, arrive := b.expect } else b

/-- The one object that a form changes: no byte outside its 16 changes. -/
def BarLeft (s t : State) (pa : Nat) (b : Bar) : Prop :=
  barAt t pa = b ∧ t.tags = setAdd s.tags pa ∧ ∀ a, a < pa ∨ pa + 16 ≤ a → t.byteAt a = s.byteAt a

def BarrierClaim : Prop := ∀ (s : State) (c : Ctx) (w : BitVec 1) (a : BitVec 5) (pa : Nat), ctx? s = some c → s.Inv →
  (∀ b n, barPlace s c (w == 1) (c.group.kread a.toNat).toNat = [] → barPa c (w == 1) (c.group.kread a.toNat).toNat = pa →
    tagged s pa = false → (c.group.kread b.toNat).toNat = n → 1 ≤ n → n ≤ 65535 →
    ∃ t, exec (.binit w b a) s = .next t ∧ Completes (withMemory s t) t c {} ∧ BarLeft s t pa ⟨0, n, n, 0, 0⟩) ∧
  (ReachesBar s c w a pa →
    let o := barAt s pa
    (∀ d, releaseWaits s c = false → (s.core c.core).upd = [] → s.wc = [] → o.arrive ≠ 0 →
      ∃ t, exec (.barv w a d) s = .next t ∧ Completes (withMemory s t) t c { k := [(d.toNat, BitVec.ofNat 32 o.phase)] } ∧
        barAt t pa = settled { o with arrive := o.arrive - 1 } ∧ t.tags = s.tags ∧ ∀ z, z < pa ∨ pa + 16 ≤ z → t.byteAt z = s.byteAt z) ∧
    (∀ b n, (c.group.kread b.toNat).toNat = n → n ≤ 0x7fffffff → o.tx.toInt + n ≤ 0x7fffffff →
      ∃ t, exec (.bexp w b a) s = .next t ∧ Completes (withMemory s t) t c {} ∧
        barAt t pa = settled { o with tx := o.tx + BitVec.ofNat 32 n } ∧ t.tags = s.tags ∧ ∀ z, z < pa ∨ pa + 16 ≤ z → t.byteAt z = s.byteAt z) ∧
    (∀ b d, acquireWaits s c = false → ∃ t, exec (.btest w b a d) s = .next t ∧ Completes s t c { p := [(d.toNat, c.split.mask,
      if (o.phase % 2 = 1) ↔ ((c.group.kread b.toNat).getLsbD 0 = true) then 0 else 0xffffffff#32)] }) ∧
    (∀ b, o.phase ≠ (c.group.kread b.toNat).toNat → acquireWaits s c = false → replayFull s c = false → ∃ t, exec (.bwait w b a) s = .next t ∧
      OnlyGroup s t c (reSplit c (fun sp => { sp with pc := s.unit.npc, wait := .none }) [])) ∧
    (∀ b, o.phase = (c.group.kread b.toNat).toNat → replayFull s c = false → ∃ t, exec (.bwait w b a) s = .next t ∧
      OnlyGroup (withMemory s t) t c (c.live.modSplit c.split.idx (fun sp =>
        { sp with wait := .bwait (c.group.kread a.toNat).toNat (c.group.kread b.toNat).toNat (w == 1) true s.unit.npc })) ∧
      barAt t pa = { o with waiters := (o.waiters + 1) % 2 ^ 16 } ∧ ∀ z, z < pa ∨ pa + 16 ≤ z → t.byteAt z = s.byteAt z) ∧
    (o.waiters = 0 → ∃ t, exec (.binval w a) s = .next t ∧ Completes (withMemory s t) t c {} ∧ pa ∉ t.tags ∧
      (∀ z, pa ≤ z → z < pa + 16 → t.byteAt z = 0) ∧ ∀ z, z < pa ∨ pa + 16 ≤ z → t.byteAt z = s.byteAt z))

/-- Barrier traps (06 R197 to R203): an operand that is not aligned to 16 bytes traps 0x16, one that reaches no initialised object 0x18, a
`binit` on an initialised one, or with a count outside 1 to 65,535, 0x17, a `bexp` beyond the range of `tx` 0x1a, an arrival with none outstanding 0x19, whose
second detail is `tx` without a sign (log 89, a choice), a `binval` with waiters 0x15. -/
def BarrierTrapClaim : Prop := ∀ (s : State) (c : Ctx) (a : BitVec 5), ctx? s = some c →
  let o := (c.group.kread a.toNat).toNat
  let trap := fun (t : State) (code d1 : Nat) => TrapTaken s t c ⟨code, o, d1, c.split.mask⟩
  let pa := barPa c false o
  o + 16 ≤ c.team.spadSize →
  (o % 16 ≠ 0 → ∀ b d, (∃ t, exec (.btest 0 b a d) s = .next t ∧ trap t 0x16 0) ∧
    (∃ t, exec (.binit 0 b a) s = .next t ∧ trap t 0x16 0) ∧ ∃ t, exec (.binval 0 a) s = .next t ∧ trap t 0x16 0) ∧
  (o % 16 = 0 → tagged s pa = false → ∀ b d, (∃ t, exec (.btest 0 b a d) s = .next t ∧ trap t 0x18 0) ∧
    (∃ t, exec (.bexp 0 b a) s = .next t ∧ trap t 0x18 0) ∧ (∃ t, exec (.binval 0 a) s = .next t ∧ trap t 0x18 0) ∧
    (releaseWaits s c = false → ∀ k, ∃ t, exec (.barv 0 a k) s = .next t ∧ trap t 0x18 0) ∧
    (replayFull s c = false → s.unit.addr = c.split.pc → (∀ sp ∈ c.live.splits, sp.wait = .none) →
      ∃ t, exec (.bwait 0 b a) s = .next t ∧ trap t 0x18 0) ∧
    let n := (c.group.kread b.toNat).toNat
    (n = 0 ∨ 65535 < n) → ∃ t, exec (.binit 0 b a) s = .next t ∧ trap t 0x17 n) ∧
  (o % 16 = 0 → tagged s pa = true →
    (∀ b, ∃ t, exec (.binit 0 b a) s = .next t ∧ trap t 0x17 (c.group.kread b.toNat).toNat) ∧
    (∀ b, let n := (c.group.kread b.toNat).toNat
      (0x7fffffff < n ∨ 0x7fffffff < (barAt s pa).tx.toInt + n) → ∃ t, exec (.bexp 0 b a) s = .next t ∧ trap t 0x1a n) ∧
    ((barAt s pa).arrive = 0 → releaseWaits s c = false → ∀ d, ∃ t, exec (.barv 0 a d) s = .next t ∧ trap t 0x19 (barAt s pa).tx.toNat) ∧
    ((barAt s pa).waiters ≠ 0 → ∃ t, exec (.binval 0 a) s = .next t ∧ trap t 0x15 (barAt s pa).waiters))

/-! ### tsync and clsync (06 R204, R205) -/

/-- A group whose splits that wait in the rendezvous go on, each to the unit after its own. -/
def letGo (cl : Bool) (g : Group) : Group :=
  { g with splits := g.splits.map (fun sp =>
      match sp.wait with
      | .tsync n => if cl then sp else { tick sp with pc := n, wait := .none }
      | .clsync n => if cl then { tick sp with pc := n, wait := .none } else sp
      | _ => sp) }

/-- The team once the issuing split has arrived. -/
def arrivedTeam (s : State) (c : Ctx) (cl : Bool) : Team :=
  let tm := c.team.served c.group.num c.split.idx
  let gs := tabMod c.team.groups c.group.num (fun g => g.modSplit c.split.idx (fun sp =>
    { sp with wait := if cl then .clsync s.unit.npc else .tsync s.unit.npc }))
  if cl then { tm with clArrived := setAdd c.team.clArrived c.group.num, groups := gs }
  else { tm with arrived := setAdd c.team.arrived c.group.num, groups := gs }

/-- `tsync`, and `clsync` in a team that is not clustered, where the group has room for one more unit that can be abandoned (04 R127): the split waits; where
every unended group has arrived, the round ends and every waiting split of the team goes on. -/
def TsyncClaim : Prop := ∀ (i : Instr) (s : State) (c : Ctx), ctx? s = some c → releaseWaits s c = false → replayFull s c = false → (s.core c.core).upd = [] → s.wc = [] →
  (i = .tsync ∨ i = .clsync ∧ c.grid.launch.clustered = false) →
  let tm := arrivedTeam s c false
  ∃ t, exec i s = .next t ∧ { t with teams := s.teams } = s ∧ (∀ k, k ≠ c.key → tabGet t.teams k = tabGet s.teams k) ∧
    tabGet t.teams c.key = some (if (tm.groups.filter (fun g => !g.2.splits.isEmpty)).all (fun g => tm.arrived.contains g.1)
      then { tm with arrived := [], groups := tm.groups.map (fun g => (g.1, letGo false g.2)) } else tm)

/-- `clsync` in a clustered team: where every team of the cluster has ended or has all its unended groups arrived, the round ends for all of
them; otherwise the split waits. -/
def ClsyncClaim : Prop := ∀ (s : State) (c : Ctx), ctx? s = some c → releaseWaits s c = false → replayFull s c = false → (s.core c.core).upd = [] → s.wc = [] →
  c.grid.launch.clustered = true →
  let tm := arrivedTeam s c true
  let s1 := { s with teams := tabPut s.teams c.key tm }
  let ks := (c.grid.launch.cluster c.team.teamid).map (teamKey c.team.grid)
  let all := ∀ k ∈ ks, ∀ u, tabGet s1.teams k = some u → u.st ≠ .ended →
    u.clArrived ≠ [] ∧ ∀ g ∈ u.groups, g.2.splits ≠ [] → g.1 ∈ u.clArrived
  (¬ all → exec .clsync s = .next s1) ∧
  (all → ∃ t, exec .clsync s = .next t ∧ { t with teams := s.teams } = s ∧
    ∀ k, tabGet t.teams k = if k ∈ ks then (tabGet s1.teams k).map (fun u => { u with clArrived := [], groups := u.groups.map (fun g => (g.1, letGo true g.2)) })
      else tabGet s1.teams k)

/-! ### Prefixes, control and system forms (02 R44, R53, R57; 05 R172 to R174) -/

/-- Each prefix of a unit leaves what it says in the unit's context and nothing else (02 R44, R53, R54, R57). -/
def PrefixClaim : Prop := ∀ (s : State) (n : BitVec 1) (p : BitVec 3) (x : BitVec 23),
  exec (.guard n p) s = .next { s with unit := { s.unit with guard := some (n, p) } } ∧
  exec (.extImm x) s = .next { s with unit := { s.unit with extImm := some x } } ∧
  exec (.extReg x) s = .next { s with unit := { s.unit with extReg := some x } }

/-- `snap` (05 R174, 17 R481, R482): where its source is enabled it names the cycle 512 ahead, beside the cycles that other triggers named, each of
which keeps its own (log 65, a choice); while a snapshot is held the trigger only counts as missed; the same cycle named again changes nothing. -/
def SnapClaim : Prop := ∀ (s : State) (c : Ctx), ctx? s = some c →
  let missed : Firmware := { s.fw with missed := s.fw.missed + 1 }
  let named : Firmware := { s.fw with snapPending := s.fw.snapPending ++ [s.cycle + 512] }
  let after : Firmware := if s.fw.snapOn.getLsbD 0 = false then s.fw else if s.fw.snap.isSome = true then missed
    else if s.cycle + 512 ∈ s.fw.snapPending then s.fw else named
  ∃ t, exec .snap s = .next t ∧ Completes { s with fw := after } t c {}

/-- `yield` (05 R173): with at most 16 groups that hold a ready split it only goes on; with more, its group leaves the active set and a group
outside it that holds a ready split comes in: the first by number, which R173 leaves open (log 65). -/
def YieldClaim : Prop := ∀ (s : State) (c : Ctx), ctx? s = some c →
  let able := c.team.groups.filter (fun g => g.2.splits.any (fun sp => couldIssue s { c with group := g.2, split := sp }))
  let active := (s.core c.core).active
  (able.length ≤ 16 → ∃ t, exec .yield s = .next t ∧ Completes s t c {}) ∧
  (16 < able.length → ∀ o gr more, able.filter (fun g => !active.contains g.1) = (o, gr) :: more →
    ∃ t, exec .yield s = .next t ∧ Completes { s with cores := t.cores } t c {} ∧
      t.core c.core = { s.core c.core with active := active.filter (fun x => x != c.group.num) ++ [o] } ∧
      ∀ n, n ≠ c.core → t.core n = s.core n)

/-- Splits of a group that wait at a `join` with empty stacks. -/
def joiners (g : Group) (j : DWord) : List Split :=
  g.splits.filter (fun sp => (match sp.wait with | .join a _ => a == j | _ => false) && sp.stack.isEmpty)

/-- `join` (04 R116, R117): a deferral at the top of the stack runs the deferred lanes and records the merge; a merge record of another address
goes on; one of this address takes its lanes back; with an empty stack the split waits, unless no other live split has a lower program counter
or stands at the `join`: then all that wait there become one split, the lowest-numbered, which goes on, once the accesses before the `join` of
splits that merge are performed (03 R91). -/
def JoinClaim : Prop := ∀ (s : State) (c : Ctx), ctx? s = some c → c.split.idx < 4 →
  let j := s.unit.addr
  (∀ pc ls rest, c.split.stack = .defer pc ls :: rest → ∃ t, exec .join s = .next t ∧
    OnlyGroup s t c (reSplit c (fun sp => { sp with pc := pc, mask := ls, stack := .merge j sp.mask :: rest }) [])) ∧
  (∀ a ls rest, c.split.stack = .merge a ls :: rest → a ≠ j → ∃ t, exec .join s = .next t ∧ Completes s t c {}) ∧
  (∀ ls e rest, c.split.stack = .merge j ls :: e :: rest → ∃ t, exec .join s = .next t ∧
    OnlyGroup s t c (reSplit c (fun sp => { sp with pc := s.unit.npc, mask := sp.mask ||| ls, stack := e :: rest }) [])) ∧
  (∀ m, (c.split.stack = [] ∧ m = c.split.mask ∨ ∃ ls, c.split.stack = [.merge j ls] ∧ m = c.split.mask ||| ls) →
    let g1 := reSplit c (fun sp => { sp with mask := m, stack := [], wait := .join j (runTime s c.team) }) []
    let held := ∃ o ∈ g1.splits, o.idx ≠ c.split.idx ∧ (o.pc < j ∨ o.pc = j ∧ ∀ n, o.wait ≠ .join j n)
    (held ∨ joinPerformed s c.core c.key g1 j = false → ∃ t, exec .join s = .next t ∧ OnlyGroup s t c g1) ∧
    (¬ held → joinPerformed s c.core c.key g1 j = true → ∃ t g', exec .join s = .next t ∧ OnlyGroup s t c g' ∧ { g' with splits := g1.splits } = g1 ∧
      (∃ sp ∈ g'.splits, sp.pc = j + 2 ∧ sp.wait = .none ∧ sp.stack = [] ∧ sp.mask = (joiners g1 j).foldl (fun x y => x ||| y.mask) 0#32 ∧
        ∀ x ∈ joiners g1 j, sp.idx ≤ x.idx) ∧
      ∀ x ∈ g1.splits, x ∉ joiners g1 j → x.idx ∉ (joiners g1 j).map (·.idx) → x ∈ g'.splits))

/-- A split that has waited 2,048 cycles of its team's running time at a `join` is released with all that wait there (04 R117), once their accesses
are performed (03 R91); before that nothing happens. -/
def JoinTimeoutClaim : Prop := ∀ (s : State) (key g i since : Nat) (c : Ctx) (j : DWord), ctxOf s key g i = some c → c.split.wait = .join j since →
  (runTime s c.team < since + 2048 → exec (.joinWaitTimeout key g i) s = .next s) ∧
  (since + 2048 ≤ runTime s c.team → c.group.stopped = false → c.split.idx < 4 → c.split.stack = [] →
    joinPerformed s c.core c.key c.live j = true → ∃ t g', exec (.joinWaitTimeout key g i) s = .next t ∧
    OnlyGroup s t c g' ∧ ∃ sp ∈ g'.splits, sp.pc = j + 2 ∧ sp.wait = .none ∧
      sp.mask = (joiners c.live j).foldl (fun x y => x ||| y.mask) 0#32 ∧ ∀ x ∈ joiners c.live j, sp.idx ≤ x.idx)

/-- The active set (04 R112): the core may take any 16 unended groups of its running team, or all where there are fewer; any other list is no
exchange. -/
def ActiveSetClaim : Prop := ∀ (s : State) (core : Nat) (gs : List Nat) (sl : Slot) (tm : Team), (s.core core).running = some sl →
  tabGet s.teams sl.team = some tm →
  let live := (tm.groups.filter (fun g => !g.2.splits.isEmpty)).map (·.1)
  ((∀ g ∈ gs, g ∈ live) → gs.Nodup → gs.length = Nat.min 16 live.length →
    ∃ t, exec (.activeSetExchange core gs) s = .next t ∧ { t with cores := s.cores } = s ∧
      t.core core = { s.core core with active := gs } ∧ ∀ n, n ≠ core → t.core n = s.core n) ∧
  (¬ (∀ g ∈ gs, g ∈ live) → exec (.activeSetExchange core gs) s = .next s)

/-- `exit` (05 R172, 04 R118): lanes that stay go on; else the youngest deferral runs; else the split ends, and with the group's last split the
group loses its registers, which sets their dirty bits (04 R121, R129), and with the team's last group the team ends. -/
def ExitClaim : Prop := ∀ (s : State) (c : Ctx), ctx? s = some c → (s.core c.core).upd = [] →
  let rest := c.split.mask &&& ~~~acting s c
  let left := c.live.splits.filter (fun sp => sp.idx != c.split.idx)
  (rest ≠ 0 → ∃ t, exec .exit s = .next t ∧ OnlyGroup s t c (reSplit c (fun sp => { sp with pc := s.unit.npc, mask := rest }) [])) ∧
  (rest = 0 → ∀ ms pc ls st, c.split.stack = ms ++ .defer pc ls :: st → (∀ m ∈ ms, ∃ a x, m = .merge a x) →
    ∃ t, exec .exit s = .next t ∧ OnlyGroup s t c (reSplit c (fun sp => { sp with pc := pc, mask := ls, stack := st }) [])) ∧
  (rest = 0 → (∀ m ∈ c.split.stack, ∃ a x, m = .merge a x) →
    (left ≠ [] → ∃ t, exec .exit s = .next t ∧ OnlyGroup s t c { c.live with splits := left }) ∧
    (left = [] → (∃ g ∈ c.team.groups, g.1 ≠ c.group.num ∧ g.2.splits ≠ []) → ∃ t ds, exec .exit s = .next t ∧
      groupOf t c.key c.group.num = some { c.live with v := [], k := [], p := [], h := [], ret := [], tiles := [], latch := none, lastPage := [], splits := [], hints := [], dirty := ds } ∧
      ∀ d, d ∈ ds ↔ d ∈ c.live.dirty ∨ d ∈ c.live.items) ∧
    (left = [] → lastSplit c = true → endWaits s c = true → exec .exit s = .next s) ∧
    (left = [] → lastSplit c = true → endWaits s c = false → ∃ t tm, exec .exit s = .next t ∧ tabGet t.teams c.key = some tm ∧ tm.st = .ended ∧
      tm.framed = false ∧ tm.saved = false))

/-! ### Words, and the step (02 R43 to R70; log 2, log 12) -/

/-- Words that the spec writes out, or that its tables of 02 fix, decode to the instruction they stand for. -/
def SpecWordsClaim : Prop :=
  decodeTableWord 32 0x461840b5 = some (.sel 1 0 0 3 3 2 1) ∧ decodeTableWord 32 0x4a408539 = some (.permB 1 0 2 4 10) ∧
  decodeTableWord 32 0x4201c73d = some (.gredMin 1 0 14 14) ∧ decodeTableWord 16 0x0012 = some .ret ∧
  decodeTableWord 16 0x000e = some .exit ∧ decodeTableWord 16 0x000a = some .yield ∧ decodeTableWord 16 0x001a = none

/-- Every well-formed instruction with an encoding is read back from its bytes, with every operand at every value. -/
def DecodeEncodeClaim : Prop := ∀ i : Instr, i.wellFormed = true → ∀ rest : List Byte, decode (encode i ++ rest) = .ok (i, rest)

/-- No bit of a word is dropped: what decodes is the encoding of what it decodes to. -/
def EncodeDecodeClaim : Prop := ∀ (bs rest : List Byte) (i : Instr), decode bs = .ok (i, rest) → encode i ++ rest = bs

/-- The state in which a turn acts, and who moves: the head of the agenda after its cycles, or one cycle and the current split. -/
def TurnOf (s s0 : State) (a : Act) : Prop :=
  (s.agenda = [] ∧ s0 = { s with cycle := s.cycle + 1 } ∧ a = .issue s.cur) ∨
  ∃ t rest, s.agenda = t :: rest ∧ s0 = { s with agenda := rest, cycle := s.cycle + t.dt } ∧ a = t.act

/-- The unit context with its prefixes. -/
def withPrefixes (s : State) (g : Option (BitVec 1 × BitVec 3)) (x : Option Ext) : State :=
  { s with unit := { s.unit with
    guard := if g = none then s.unit.guard else g
    extImm := match x with | some (.imm p) => some p | _ => s.unit.extImm
    extReg := match x with | some (.reg p) => some p | _ => s.unit.extReg } }

/-- The halfwords of the unit that a split is to execute, and the translations of their fetch: those of its replay record, where it has one (04 R127), and
else those at its program counter. -/
def NextUnit (s : State) (c : Ctx) (hs : List Nat) (used : List (Xlat × Bool)) : Prop :=
  (∃ r, c.split.replay = some r ∧ hs = r.halves.map BitVec.toNat ∧ used = []) ∨ c.split.replay = none ∧ fetchUnit s c = .unit hs used

/-- A step of a split that may issue, and has no earlier unit to replay, runs the unit that its bytes decode to: `exec` of the body, in the state that
holds the unit's address, the address after it and its prefixes; halfwords that are no legal unit run as an illegal instruction; a unit that waits for a register that an
operation in flight writes runs later. -/
def StepClaim : Prop := ∀ (s s0 : State) (w : Who) (c : Ctx) (hs : List Nat) (used : List (Xlat × Bool)), TurnOf s s0 (.issue w) →
  ctxAt s0 w = some c → replayFirst s0 c = none → c.split.wait = .none → ready s0 c = true → NextUnit s0 c hs used →
  let s1 := startUnit s0 w c hs used
  let p := parseUnit hs
  (∀ body, p.body = some body → legalUnit p.guard p.ext body = true → interlocked s1 c p.guard body p.ext = false →
    step s = exec body (withPrefixes s1 p.guard p.ext)) ∧
  (∀ body, p.body = some body → legalUnit p.guard p.ext body = true → interlocked s1 c p.guard body p.ext = true → step s = .next s1) ∧
  ((p.body = none ∨ ∃ body, p.body = some body ∧ legalUnit p.guard p.ext body = false) → step s = exec .illegalInstruction s1)

/-- Other turns: no team RUNNING or a split that is not ready changes nothing but time; a split that waits looks again; a unit that has yet to replay
does so first; an event of the table takes place; the outside displaces what a line carries or a translation, the read-only path keeps or serves a
value, or an error arises in the arrays. -/
def OtherTurnsClaim : Prop := ∀ (s s0 : State) (a : Act), TurnOf s s0 a →
  (∀ w, a = .issue w → ctxAt s0 w = none → step s = .next s0) ∧
  (∀ w c u, a = .issue w → ctxAt s0 w = some c → replayFirst s0 c = some u → step s = .next u) ∧
  (∀ w c, a = .issue w → ctxAt s0 w = some c → replayFirst s0 c = none → c.split.wait = .none → ready s0 c = false → step s = .next s0) ∧
  (∀ w c, a = .issue w → ctxAt s0 w = some c → replayFirst s0 c = none → c.split.wait ≠ .none → step s = .next (pollWait s0 c)) ∧
  (∀ e, a = .event e → wordBits e = 0 → step s = exec e s0) ∧
  (∀ l, a = .displaceLine l → step s = .next { s0 with lineClass := tabDel s0.lineClass l, lineIdent := tabDel s0.lineIdent l }) ∧
  (∀ d k p, a = .displaceWalk d k p → ∃ t, step s = .next t ∧ { t with dieWalk := s0.dieWalk } = s0) ∧
  (∀ d q v, a = .cacheWalk d q v → ∃ t, step s = .next t ∧ { t with dieWalk := s0.dieWalk } = s0) ∧
  (∀ d k v, a = .displaceXlat none d v ∨ a = .displaceXlat (some k) d v → ∃ t, step s = .next t ∧
    { t with cores := s0.cores, dieTlb := s0.dieTlb } = s0 ∧ ∀ n, { t.core n with tlb := (s0.core n).tlb } = s0.core n) ∧
  (∀ g u, a = .keepPast g u → ∃ t, step s = .next t ∧ { t with past := s0.past } = s0 ∧ (∀ x ∈ s0.past, x ∈ t.past) ∧
    ∀ x ∈ t.past, x ∈ s0.past ∨ x = { grid := g, unit := u, value := s0.num (8 * u) 8, on := false }) ∧
  (∀ g u i, a = .servePast g u i → ∃ t, step s = .next t ∧ { t with past := s0.past } = s0 ∧
    t.past.map (fun x => (x.grid, x.unit, x.value)) = s0.past.map (fun x => (x.grid, x.unit, x.value))) ∧
  (∀ g, a = .bitError g true → step s = .next { s0 with bad := setAdd s0.bad g }) ∧
  (∀ g, a = .bitError g false → step s = .next { s0 with fw := { s0.fw with corrected := s0.fw.corrected + 1 } })

/-- A fetch from a program counter that is not canonical traps 0x11 (02 R46, 07 R237); one that meets an invalid entry is a page fault of the
whole unit; one of a denied class traps 0x21 with its audit event, and its walk leaves its marks (07 R228). The record of a unit of which no halfword was fetched
carries the address after one halfword as that of the next unit (log 81, a choice). -/
def FetchTrapClaim : Prop := ∀ (s s0 : State) (w : Who) (c : Ctx), TurnOf s s0 (.issue w) → ctxAt s0 w = some c → c.split.wait = .none →
  replayFirst s0 c = none → c.split.replay = none → ready s0 c = true →
  let s1 := { s0 with cur := w, unit := { UnitCtx.reset with addr := c.split.pc, npc := c.split.pc + 2 } }
  (canonical c.split.pc = false → ∃ t, step s = .next t ∧ TrapTaken s1 t c ⟨0x11, c.split.pc.toNat, c.split.mask.toNat, c.split.mask⟩) ∧
  (∀ l e, canonical c.split.pc = true → (translate s0 c.q none (some c.core) (dieOf c.core) c.split.pc.toNat false).1 = .invalid l e →
    step s = .next (takeFault s1 (unitSite s1 c) ⟨c.split.pc.toNat, c.split.mask, l, e, 3, 0⟩)) ∧
  (∀ x, canonical c.split.pc = true → (translate s0 c.q none (some c.core) (dieOf c.core) c.split.pc.toNat false).1 = .leaf x →
    admits c.q x.cls = false → admits c.q (carried s0 (x.pa c.split.pc.toNat) x.cls) = true →
    let walked := (translate s0 c.q none (some c.core) (dieOf c.core) c.split.pc.toNat false).2
    let s2 := { noteXlat s0 (some c.core) (dieOf c.core) x false walked with cur := w, unit := s1.unit }
    step s = .next (takeTrap (unitAudit s2 c c.split.pc.toNat c.split.mask.toNat 2 x.cls 10 0) (unitSite s2 c)
      ⟨0x21, c.split.pc.toNat, x.cls, c.split.mask⟩))

/-- The bytes of a well-formed instruction at the program counter are fetched whole and parse to it: for every instruction that is no prefix. -/
def FetchEncodedClaim : Prop := ∀ (i : Instr) (s : State) (c : Ctx), i.wellFormed = true → wordBits i ≠ 0 →
  (∀ n p, i ≠ .guard n p) → (∀ p, i ≠ .extImm p ∧ i ≠ .extReg p) →
  (∀ j < wordBits i / 16, ∃ x w, fetchHalf s c (c.split.pc + BitVec.ofNat 64 (2 * j)).toNat =
    .got (natOfBytes (((encode i).drop (2 * j)).take 2)) x w) →
  ∃ hs used, fetchUnit s c = .unit hs used ∧ hs.length = wordBits i / 16 ∧ parseUnit hs = ⟨none, none, some i⟩

/-! ### Reset and the invariant (17 R485; log 1) -/

/-- After reset: no queue, grid, team, pool or heap, every slot EMPTY, no snapshot held or pending, nothing released or in flight; the command
registers and ring indices read 0; there is no owner, and bring-up has ended. -/
def ResetClaim : Prop :=
  State.reset.queues = [] ∧ State.reset.grids = [] ∧ State.reset.teams = [] ∧ State.reset.pools = [] ∧ State.reset.heaps = [] ∧
  (∀ n, ∀ sl ∈ (State.reset.core n).slots, sl.st = .empty) ∧ State.reset.fw.snap = none ∧ State.reset.fw.snapPending = [] ∧
  State.reset.ops = [] ∧ State.reset.fw.cmdBase = 0 ∧ State.reset.fw.repBase = 0 ∧ State.reset.fw.cmdTail = 0 ∧ State.reset.fw.cmdHead = 0 ∧
  State.reset.fw.repTail = 0 ∧ State.reset.fw.owner = none ∧ State.reset.fw.ready = true

def ResetInvClaim : Prop := State.reset.Inv

/-- Every step keeps the memory in its canonical form. -/
def StepInvClaim : Prop := ∀ s t : State, s.Inv → step s = .next t → t.Inv

/-- A step always answers a next state, unless the agenda presents as an event an instruction that only a fetch may run. -/
def StepAnswersClaim : Prop := ∀ s s0 : State, ∀ a, TurnOf s s0 a → (∀ e, a = .event e → wordBits e = 0) → ∃ t, step s = .next t

/-! ### Reading and writing memory (00 R8; log 1) -/

/-- A little-endian number of `n` bytes is read back where it was written, and every byte outside its `n` reads as before. -/
def WriteReadClaim : Prop := ∀ (s : State) (pa n v : Nat), s.Inv →
  (s.writeNum pa n v).num pa n = v % 2 ^ (8 * n) ∧ (∀ a, a < pa ∨ pa + n ≤ a → (s.writeNum pa n v).byteAt a = s.byteAt a) ∧
  (s.writeNum pa n v).Inv

/-! ### The managed heap (13 R377 to R391) -/

/-- The barrier lets a reference through: it is null, or it designates an object (13 R380). -/
def Res.lets (r : Res) : Prop :=
  match r with
  | .null => True
  | .obj _ _ _ => True
  | _ => False

/-- The object that a resolved reference designates. -/
def Res.object : Res → Option Nat
  | .obj a _ _ => some a
  | _ => none

/-- What a reference register takes in a lane: the healed reference, or what it held (13 R381). -/
def Res.heals (r : DWord) : Res → DWord
  | .obj _ _ v => v
  | _ => r

/-- The reference of a lane, resolved. -/
def laneRes (s : State) (c : Ctx) (h : BitVec 4) (l : Nat) : Res := resolveFor s c (c.group.hlane h.toNat l)

/-- The heal of a reference register in the acting lanes. -/
def healing (s : State) (c : Ctx) (h : BitVec 4) : Nat × BitVec 32 × (Nat → DWord) :=
  (h.toNat, acting s c, fun l => (laneRes s c h l).heals (c.group.hlane h.toNat l))

/-- Every acting lane's reference is let through, and no object of theirs waits on a flip (13 R380, R392). -/
def RefsPass (s : State) (c : Ctx) (h : BitVec 4) (write : Bool) : Prop :=
  ∀ l < 32, (acting s c).getLsbD l = true → (laneRes s c h l).lets ∧ resHeld s c write (laneRes s c h l) = false

/-- The bit that says that a reference holds a pin (13 R377). -/
def pinBit : DWord := 0x2000000000000000#64

/-- The state in which the barrier's walks for references have left their marks in the page table (07 R228). -/
def walkedFor (s : State) (c : Ctx) (hp : Heap) (refs : List DWord) : State := noteRefs s c.q (some hp) refs

/-- `ldh` (13 R382, R386): each lane's bytes of its object's body at its offset, inside the object and aligned; the reference is healed. -/
def HeapLoadClaim : Prop := ∀ (s : State) (c : Ctx) (hp : Heap) (mode : BitVec 2) (y : BitVec 1) (b : BitVec 6) (h : BitVec 4) (d : BitVec 6)
    (obj : Nat → Nat) (hd : Nat → Header) (v : Nat → DWord) (p : Nat → Piece),
  let n := 2 ^ mode.toNat
  let m := acting s c
  let off := fun l => (c.group.vlane b.toNat l).toNat
  let e := fun (f : Nat → List Byte) => ({ frees := mark y b.toNat 1, v := loadedWords d.toNat n false m f, h := [healing s c h] } : Eff)
  let s1 := walkedFor s c hp (laneRefs s c h.toNat)
  ctx? s = some c → heapOf s c = some hp → Calm s c → RefsPass s c h false →
  (∀ l < 32, m.getLsbD l = true → laneRes s c h l = .obj (obj l) (hd l) (v l) ∧ off l + n ≤ (hd l).size ∧
    (bodyLook s c .load l (obj l + 16 + off l) n n (hd l)).opens s (p l)) → Fits s c (e (fun _ => [])) →
  ∃ t g', exec (.ldh mode y b h d) s = .next t ∧ OnlyAccess s t c g' ∧ GroupAfter c (e (fun l => s1.bytes (p l).pa n)) s.unit.npc g' ∧
    ∀ a, ¬ InWalked ((lanesOf m).map p) a → t.byteAt a = s1.byteAt a

/-- `sth` to objects that are no narrow page (13 R382, R386, R392): each lane's bytes at its offset of its object's body, the highest lane winning; an object of a
running cycle that is stored to is dirty. -/
def HeapStoreClaim : Prop := ∀ (s : State) (c : Ctx) (hp : Heap) (mode : BitVec 2) (y x : BitVec 1) (b a : BitVec 6) (h : BitVec 4)
    (obj : Nat → Nat) (hd : Nat → Header) (v : Nat → DWord) (p : Nat → Piece),
  let n := 2 ^ mode.toNat
  let m := acting s c
  let off := fun l => (c.group.vlane b.toNat l).toNat
  let e : Eff := { frees := mark y b.toNat 1 ++ mark x a.toNat ((n + 3) / 4), h := [healing s c h] }
  let s1 := walkedFor s c hp (laneRefs s c h.toNat)
  ctx? s = some c → heapOf s c = some hp → Calm s c → s.Inv → RefsPass s c h true →
  (∀ l < 32, m.getLsbD l = true → laneRes s c h l = .obj (obj l) (hd l) (v l) ∧ off l + n ≤ (hd l).size ∧ off l % n = 0 ∧ (hd l).frozen = false ∧
    narrowAt s c.team.queue (obj l) = none ∧ (bodyLook s c .store l (obj l + 16 + off l) n 1 (hd l)).opens s (p l)) → Fits s c e →
  let stores := fun (l z : Nat) => m.getLsbD l = true ∧ (p l).pa ≤ z ∧ z < (p l).pa + n
  ∃ t g', exec (.sth mode y x b a h) s = .next t ∧ OnlyAccess { s with heaps := t.heaps } t c g' ∧ GroupAfter c e s.unit.npc g' ∧
    (∀ l < 32, ∀ z, stores l z → (∀ k < 32, l < k → ¬ stores k z) → t.byteAt z = storedByte c a.toNat l (z - (p l).pa)) ∧
    (∀ z, (∀ l < 32, ¬ stores l z) → ¬ InWalked ((lanesOf m).map p) z → t.byteAt z = s1.byteAt z) ∧
    (∀ k, k ≠ c.team.queue → tabGet t.heaps k = tabGet s.heaps k) ∧ (hp.cycle = none → tabGet t.heaps c.team.queue = some hp) ∧
    ∀ y, hp.cycle = some y → ∃ ds, tabGet t.heaps c.team.queue = some { hp with cycle := some { y with dirty := ds } } ∧
      ∀ o, o ∈ ds ↔ o ∈ y.dirty ∨ (o ∈ y.objs.map (·.old) ∧ ∃ l < 32, m.getLsbD l = true ∧ obj l = o)

/-- `sth` to one narrow page (12 R360 to R362): its lanes' halfwords arrive as elements of the page. An E4M3 element is encoded at once, into its byte; elements of one
block of an MX half wait in the block's write-combining entry, and no byte changes, unless the entry is full or its timeout is 0. -/
def ViewStoreClaim : Prop :=
  (∀ (s : State) (c : Ctx) (hp : Heap) (mode : BitVec 2) (y x : BitVec 1) (b a : BitVec 6) (h : BitVec 4) (page : Narrow) (p : Nat → Piece),
    let n := 2 ^ mode.toNat
    let m := acting s c
    let off := fun l => (c.group.vlane b.toNat l).toNat
    let e : Eff := { frees := mark y b.toNat 1 ++ mark x a.toNat ((n + 3) / 4), h := [healing s c h] }
    let looks := (lanesOf m).map (fun l => sthLook s c l n (off l) (laneRes s c h l))
    let s1 := noteLooks (walkedFor s c hp (laneRefs s c h.toNat)) c true false looks
    ctx? s = some c → heapOf s c = some hp → Calm s c → RefsPass s c h true → m ≠ 0 →
    (∀ l < 32, m.getLsbD l = true → (∃ hd v, laneRes s c h l = .obj page.obj hd v) ∧ narrowAt s c.team.queue page.obj = some page ∧
      (sthLook s c l n (off l) (laneRes s c h l)).opens s (p l)) → Fits s c e →
    ∃ t g', exec (.sth mode y x b a h) s = .next t ∧ GroupIs s.teams t.teams c g' ∧ GroupAfter c e s.unit.npc g' ∧
      t.mem = (viewStore s1 c page ((lanesOf m).flatMap (fun l => viewElems (off l) n (natOfBytes (storeBytes c.group a.toNat n l))))).mem) ∧
  ∀ (s : State) (c : Ctx) (page : Narrow) (es : List (Nat × Nat)), let tc := page.tokens * page.chans
    (∀ i v x, es = [(i, v)] → page.keyFmt = .e4m3 → s.Inv → walk s c.q (page.obj + 16 + i) = .leaf x →
      let z := x.pa (page.obj + 16 + i)
      let w := fround e4m3 .rne (shiftNum (bf16Num v) (-(if i < tc then page.ek else page.ev)))
      (∀ y, walk (s.writeNum z 1 w) c.q (page.obj + 16 + i) = .leaf y → (walkedLeaf y true).leaf = y.leaf) →
      (viewStore s c page es).byteAt z = BitVec.ofNat 8 w ∧ ∀ k, k ≠ z → (viewStore s c page es).byteAt k = s.byteAt k) ∧
    ∀ blk, page.keyFmt ≠ .e4m3 → s.wc = [] → es ≠ [] → es.length < 32 → wcTimeoutOf s page ≠ 0 → (∀ x ∈ es, x.1 / 32 = blk) → (es.map (·.1)).Nodup →
      (viewStore s c page es).mem = s.mem ∧ ∃ w, tabGet (viewStore s c page es).wc s.nextOp = some w ∧ w.queue = c.team.queue ∧ w.body = page.obj + 16 ∧
        w.valueHalf = decide (tc ≤ 32 * blk) ∧ w.block = (if tc ≤ 32 * blk then blk - tc / 32 else blk) ∧ w.opened = s.cycle ∧
        w.timeout = wcTimeoutOf s page ∧ w.vals.length = es.length ∧ ∀ x ∈ es, tabGet w.vals (x.1 % 32) = some x.2

/-- `hst` (13 R385): each lane stores its reference, healed and without its pin bit, and its register is healed. -/
def RefStoreClaim : Prop := ∀ (s : State) (c : Ctx) (hp : Heap) (r : BitVec 1) (la : BitVec 4) (i : BitVec 6) (k h : BitVec 4) (p : Nat → Piece),
  let m := acting s c
  let e : Eff := { frees := indexMark r i, h := [healing s c h] }
  ctx? s = some c → heapOf s c = some hp → Calm s c → s.Inv →
  (∀ l < 32, m.getLsbD l = true → (laneRes s c h l).lets ∧
    (lookAt s c .store (tabGet c.group.lastPage l) true l (eaOf s c k.toNat i.toNat 8 l) 8 8).opens s (p l)) → Fits s c e →
  let stores := fun (l z : Nat) => m.getLsbD l = true ∧ (p l).pa ≤ z ∧ z < (p l).pa + 8
  ∃ t g', exec (.hst r la i k h) s = .next t ∧ OnlyAccess s t c g' ∧ GroupAccess c e s.unit.npc true m p g' ∧
    (∀ l < 32, ∀ z, stores l z → (∀ k < 32, l < k → ¬ stores k z) →
      t.byteAt z = ((laneRes s c h l).heals (c.group.hlane h.toNat l) &&& ~~~pinBit).extractLsb' (8 * (z - (p l).pa)) 8) ∧
    ∀ z, (∀ l < 32, ¬ stores l z) → ¬ InWalked ((lanesOf m).map p) z →
      t.byteAt z = (walkedFor s c hp (laneRefs s c h.toNat)).byteAt z

/-- `hld` (13 R381, R385): each lane's register takes the healed reference of the slot's word without its pin bit. A slot whose word is not the healed one,
and that may be healed, holds the healed word; no other byte changes but the marks of walks. -/
def RefLoadClaim : Prop := ∀ (s : State) (c : Ctx) (hp : Heap) (r : BitVec 1) (la : BitVec 4) (i : BitVec 6) (k h : BitVec 4) (p : Nat → Piece),
  let m := acting s c
  let word := fun l => BitVec.ofNat 64 (s.num (p l).pa 8)
  let new := fun l => (resolveFor s c (word l &&& ~~~pinBit)).heals (word l &&& ~~~pinBit)
  ctx? s = some c → heapOf s c = some hp → Calm s c → Fits s c { frees := indexMark r i } →
  (∀ l < 32, m.getLsbD l = true → (resolveFor s c (word l &&& ~~~pinBit)).lets ∧
    (lookAt s c .load (tabGet c.group.lastPage l) true l (eaOf s c k.toNat i.toNat 8 l) 8 8).opens s (p l)) →
  ∃ t g', exec (.hld r la i k h) s = .next t ∧ OnlyAccess s t c g' ∧
    GroupAccess c { frees := indexMark r i, h := [(h.toNat, m, new)] } s.unit.npc false m p g' ∧
    (let s1 := walkedFor s c hp ((lanesOf m).map (fun l => word l &&& ~~~pinBit))
      let slot := fun l => healPiece s c (eaOf s c k.toNat i.toNat 8 l)
      let heals := fun (l : Nat) (w : Piece) => m.getLsbD l = true ∧ new l ≠ word l ∧ slot l = some w
      let walked := fun (z : Nat) => InWalked ((lanesOf m).map p ++ (lanesOf m).filterMap slot) z
      (∀ z, ¬ walked z → (∀ l < 32, ∀ w, heals l w → ¬ (w.pa ≤ z ∧ z < w.pa + 8)) → t.byteAt z = s1.byteAt z) ∧
      (s.Inv → (∀ l < 32, ∀ w, heals l w → w.pa = (p l).pa ∧ s1.num w.pa 8 = s.num w.pa 8 ∧ (∀ z, w.pa ≤ z → z < w.pa + 8 → ¬ walked z) ∧
          ∀ j < 32, ∀ x, heals j x → x.pa = w.pa ∨ x.pa + 8 ≤ w.pa ∨ w.pa + 8 ≤ x.pa) →
        ∀ l < 32, ∀ w, heals l w → t.num w.pa 8 = (new l).toNat))

/-- `heq` and `htag` (13 R390): whether two references designate one object; a reference's tag bits with stale and null; both heal what they read,
and change nothing else but the marks of the barrier's walks. -/
def RefTestClaim : Prop := ∀ (s : State) (c : Ctx) (hp : Heap) (g h : BitVec 4), ctx? s = some c → heapOf s c = some hp →
  (∀ l < 32, (acting s c).getLsbD l = true → (laneRes s c h l).lets) →
  (∀ p : BitVec 3, (∀ l < 32, (acting s c).getLsbD l = true → (laneRes s c g l).lets) → ∃ t, exec (.heq g h p) s = .next t ∧
    Completes (walkedFor s c hp (laneRefs s c h.toNat ++ laneRefs s c g.toNat)) t c
                    { p := [(p.toNat, acting s c, maskOf (fun l => (laneRes s c h l).object == (laneRes s c g l).object))]
                      h := if g = h then [healing s c h] else [healing s c h, healing s c g] }) ∧
  (∀ d : BitVec 6,
    let tag := fun (l : Nat) => let r := c.group.hlane h.toNat l
      (r.extractLsb' 60 4).setWidth 32 ||| (if r ≠ 0 ∧ refAge hp r ≠ 0 then 16#32 else 0) ||| (if r = 0 then 32#32 else 0)
    Fits s c { v := [(d.toNat, acting s c, tag)], h := [healing s c h] } → ∃ t, exec (.htag h d) s = .next t ∧
      Completes (walkedFor s c hp (laneRefs s c h.toNat)) t c { v := [(d.toNat, acting s c, tag)], h := [healing s c h] })

/-- `hpin` and `hunpin` (13 R389): each object named gains, or loses, one pin for every acting lane that names it; `hpin` delivers the address of
the body and sets the register's pin bit, `hunpin` clears it. -/
def PinClaim : Prop := ∀ (s : State) (c : Ctx) (hp : Heap) (h : BitVec 4), ctx? s = some c → heapOf s c = some hp → hp.cycle = none →
  let m := acting s c
  let bit := fun l => (c.group.hlane h.toNat l).getLsbD 61
  let count := fun a => ((lanesOf m).filter (fun l => (laneRes s c h l).object == some a)).length
  let objs := objectsOf s c h.toNat
  let s1 := walkedFor s c hp (laneRefs s c h.toNat)
  RefsPass s c h false →
  (∀ d : BitVec 5,
    let e : Eff := { v := pairWrites (2 * d.toNat) m (fun l => BitVec.ofNat 64 (match (laneRes s c h l).object with | some a => a + 16 | none => 0))
                     h := [(h.toNat, m, fun l => (laneRes s c h l).heals (c.group.hlane h.toNat l) ||| pinBit)] }
    (∀ l < 32, m.getLsbD l = true → ∃ a hd v, laneRes s c h l = .obj a hd v ∧ bit l = false ∧ hd.pins + count a ≤ 65535) → Fits s c e →
    ∃ t g', exec (.hpin h d) s = .next t ∧ GroupIs s.teams t.teams c g' ∧ GroupAfter c e s.unit.npc g' ∧
      t.mem = (objs.foldl (fun s a => putHeader s c.q a { headerAt s c.q a with pins := (headerAt s c.q a).pins + count a }) s1).mem) ∧
  ((∀ l < 32, m.getLsbD l = true → ∃ a hd v, laneRes s c h l = .obj a hd v ∧ bit l = true ∧ count a ≤ hd.pins) →
    ∃ t g', exec (.hunpin h) s = .next t ∧ GroupIs s.teams t.teams c g' ∧
      GroupAfter c { h := [(h.toNat, m, fun l => (laneRes s c h l).heals (c.group.hlane h.toNat l) &&& ~~~pinBit)] } s.unit.npc g' ∧
      t.mem = (objs.foldl (fun s a => putHeader s c.q a { headerAt s c.q a with pins := (headerAt s c.q a).pins - count a }) s1).mem)

/-- `hnew` and `hfree` (13 R387, R388, 01 R32): where the pages of the new objects can be written, lanes allocate one after another, each from the state
that the lanes before it leave: a lane takes null where no place is free, and otherwise a reference of the current epoch to its place, where the zero
body, the header and then the allocation bit are written; `hfree` leaves null and hands each object's space to the page epoch, which rises with every one. -/
def AllocClaim : Prop := ∀ (s : State) (c : Ctx) (hp : Heap) (h : BitVec 4), ctx? s = some c → heapOf s c = some hp →
  let m := acting s c
  (∀ (y x : BitVec 1) (b a : BitVec 6),
    let size := fun l => (c.group.vlane a.toNat l).toNat
    let cls := fun l => (c.group.vlane b.toNat l).toNat
    (∀ l < 32, m.getLsbD l = true → 0 < size l ∧ size l ≤ 2 ^ 30 ∧ cls l < 65536 ∧ admits c.q (cls l) = true) →
    let r := newLanes s c hp size (fun l => cls l % 65536) (lanesOf m)
    let upTo := fun (p : Nat → Bool) => (newLanes s c hp size (fun l => cls l % 65536) ((lanesOf m).filter p)).1
    newConds s (newPages s c hp size r.2) = [] → newFault (newPages s c hp size r.2) = none →
    ∃ t g' refs, exec (.hnew y x b a h) s = .next t ∧ GroupIs s.teams t.teams c g' ∧ t.mem = r.1.mem ∧
      GroupAfter c { frees := mark y b.toNat 1 ++ mark x a.toNat 1, h := [(h.toNat, m, refs)] } s.unit.npc g' ∧
      ∀ l < 32, m.getLsbD l = true → ∀ h1 q1, tabGet (upTo (· < l)).heaps c.team.queue = some h1 → tabGet (upTo (· < l)).queues c.team.queue = some q1 →
        let n := alignUp (size l) 16
        (placeObject (upTo (· < l)) c.team.queue q1 h1 true n = none → refs l = 0) ∧
        ∀ at_, placeObject (upTo (· < l)) c.team.queue q1 h1 true n = some at_ → refs l = refBits hp.ce false false at_ ∧
          upTo (· ≤ l) = syncHeap (setAlloc (putHeader (hwWrite (upTo (· < l)).chosen q1 (at_ + 16) (List.replicate n 0)) q1 at_
            { size := n, cls := cls l, pins := 0, rel := 0, frozen := false, kind := false, rsv := 0 }) q1 h1 at_ true) c.team.queue) ∧
  (RefsPass s c h false →
    (∀ l < 32, m.getLsbD l = true → ∀ a hd v, laneRes s c h l = .obj a hd v → hd.pins = 0 ∧ hd.kind = false ∧ hd.frozen = false) →
    ∃ t g' freed, exec (.hfree h) s = .next t ∧ GroupIs s.teams t.teams c g' ∧ GroupAfter c { h := [(h.toNat, m, fun _ => 0)] } s.unit.npc g' ∧
      t.released = s.released ++ freed ∧ freed.map (·.addr) = objectsOf s c h.toNat ∧ t.pe = s.pe + freed.length ∧
      freed.map (·.eRel) = (List.range freed.length).map (fun i => s.pe + i) ∧ ∀ f ∈ freed, f.queue = c.team.queue)

/-- Heap traps (13 R373, R380, R388): a form of a queue without a heap traps 0x58; a reference that is not well-formed 0x51, one of the retired
epoch 0x52; `ldh` of null traps 0x50. -/
def HeapTrapClaim : Prop := ∀ (s : State) (c : Ctx) (h : BitVec 4) (d : BitVec 6), ctx? s = some c → acting s c ≠ 0 →
  (heapOf s c = none → ∃ t, exec (.hfree h) s = .next t ∧ TrapTaken s t c ⟨0x58, s.unit.addr.toNat, c.team.queue, c.split.mask⟩) ∧
  (∀ hp bad, heapOf s c = some hp → bad = acting s c → (∀ l < 32, (acting s c).getLsbD l = true →
      c.group.hlane h.toNat l ≠ 0 ∧ wellFormedRef (c.group.hlane h.toNat l) = false) →
    ∃ t, exec (.hfree h) s = .next t ∧ TrapTaken s t c ⟨0x51, (c.group.hlane h.toNat (lowLane bad)).toNat, bad.toNat, bad⟩) ∧
  (∀ hp bad, heapOf s c = some hp → bad = acting s c → (∀ l < 32, (acting s c).getLsbD l = true →
      c.group.hlane h.toNat l ≠ 0 ∧ wellFormedRef (c.group.hlane h.toNat l) = true ∧ refAge hp (c.group.hlane h.toNat l) = 3) →
    ∃ t, exec (.hfree h) s = .next t ∧ TrapTaken s t c ⟨0x52, (c.group.hlane h.toNat (lowLane bad)).toNat, hp.ce, bad⟩) ∧
  (∀ hp y b mode, heapOf s c = some hp → (∀ l < 32, (acting s c).getLsbD l = true → c.group.hlane h.toNat l = 0) →
    peakCond c { frees := mark y b.toNat 1, v := loadedWords d.toNat (2 ^ mode.toNat) false (acting s c) (fun _ => []), h := [healing s c h] } = [] →
    ∃ t, exec (.ldh mode y b h d) s = .next t ∧ TrapTaken s t c ⟨0x50, s.unit.addr.toNat, (acting s c).toNat, acting s c⟩)

/-! ### The Quern: accumulators, passes, conversions (08 R268 to R274, 09 R275 to R297) -/

/-- A unit that changes accumulator handles and the A latch: its register effects, its split at the next unit, and the tiles and the latch as
given; nothing else differs. -/
def QuernUnit (s t : State) (c : Ctx) (e : Eff) (tile : Nat → Nat → Option Tile) (latch : Option Latch) : Prop :=
  ∃ g', OnlyGroup s t c g' ∧ GroupAfter c e s.unit.npc { g' with tiles := c.group.tiles, latch := c.group.latch } ∧ g'.latch = latch ∧
    ∀ m q, q < 4 → g'.tile m q = tile m q

/-- Quarter tiles that a unit takes newly on a handle; the team holds 128 at most (09 R277). -/
def RoomFor (c : Ctx) (m : Nat) (qs : List Nat) : Prop :=
  let new := (qs.filter (fun q => (c.group.tile m q).isNone)).length
  new = 0 ∨ tilesHeld c.team + new ≤ 128

/-- A number of the tiles of one handle and quarters, replaced. -/
def tilesWith (c : Ctx) (d : Nat) (sel : Nat → Bool) (x : Nat → Option Tile) (m q : Nat) : Option Tile :=
  if m = d ∧ sel q = true then x q else c.group.tile m q

/-- `qzero`, `qrel`, `qwr` (09 R277, R293): the selected quarter tiles are zero or hold empty lists, are RELEASED, or take in each row the columns of a
window from the registers of their lanes, the other columns staying, or zero where the tile was RELEASED. -/
def TileClaim : Prop := ∀ (s : State) (c : Ctx) (l : BitVec 4) (d : BitVec 3), ctx? s = some c → handleBusy s c d.toNat = false →
  (∀ (v : BitVec 1) (ty : BitVec 2) (n : BitVec 5) (q : BitVec 4), RoomFor c d.toNat (quarters q) →
    ∃ t, exec (.qzero l v ty n q d) s = .next t ∧ QuernUnit s t c {} (tilesWith c d.toNat q.getLsbD (fun _ => some (
      if ty = 0 then zeroTile false else if ty = 1 then zeroTile true else emptyTopk (n.toNat + 1) (ty == 2) (v == 1)))) c.group.latch) ∧
  (∀ (q : BitVec 4), ∃ t, exec (.qrel l q d) s = .next t ∧ QuernUnit s t c {} (tilesWith c d.toNat q.getLsbD (fun _ => none)) c.group.latch) ∧
  (∀ (ty : BitVec 1) (n cs : BitVec 2) (r : BitVec 6), RoomFor c d.toNat (List.range 4) →
    (∀ q < 4, c.group.tile d.toNat q = none ∨ ∃ x, c.group.tile d.toNat q = some x ∧ x.kind = (if ty = 1 then .i32 else .f32)) →
    ∃ t, ∃ x : Nat → Tile, exec (.qwr l ty n cs r d) s = .next t ∧ QuernUnit s t c {} (tilesWith c d.toNat (fun _ => true) (fun q => some (x q))) c.group.latch ∧
      ∀ q < 4, (x q).kind = (if ty = 1 then .i32 else .f32) ∧ ∀ row < 8, ∀ col < 32, (x q).at_ row col =
        if 8 * cs.toNat ≤ col ∧ col < 8 * cs.toNat + windowRegs n then c.group.vlane (r.toNat + (col - 8 * cs.toNat)) (8 * q + row)
        else match c.group.tile d.toNat q with | some y => y.at_ row col | none => 0)

/-- `qrd`, `qtopk`, `qla` (09 R278, R280, R293 to R296): `qrd` delivers rows of every quarter to the lanes of their quarter, zero from a RELEASED one; `qtopk`
offers each row of 32 values to its list; `qla` fills the latch from every lane. -/
def TileReadClaim : Prop := ∀ (s : State) (c : Ctx) (l : BitVec 4), ctx? s = some c →
  (∀ (i : BitVec 1) (n cs : BitVec 2) (r : BitVec 6) (d : BitVec 3), handleBusy s c d.toNat = false →
    (i = 1 → ∀ q < 4, ∀ x, c.group.tile d.toNat q = some x → x.kind ≠ .f32 ∧ x.kind ≠ .i32) →
    let e : Eff := { v := (List.range (windowRegs n)).map (fun j => (r.toNat + j, 0xffffffff#32,
      fun l => tileRead (c.group.tile d.toNat (l / 8)) (i == 1) (l % 8) (8 * cs.toNat + j))) }
    Fits s c e → ∃ t, exec (.qrd l i n cs r d) s = .next t ∧ Completes s t c e) ∧
  (∀ (k : BitVec 5) (q : BitVec 4) (ms md : BitVec 3) (src : Nat → Tile) (dst : Nat → Tile) (kk : Nat → Nat) (wm int : Nat → Bool),
    handleBusy s c ms.toNat = false → handleBusy s c md.toNat = false →
    (∀ i < 4, q.getLsbD i = true → c.group.tile ms.toNat i = some (src i) ∧ (src i).kind = (if int i then .i32 else .f32) ∧
      c.group.tile md.toNat i = some (dst i) ∧ (dst i).kind = .topk (kk i) (wm i) (int i)) →
    ∃ t, exec (.qtopk l k q ms md) s = .next t ∧ QuernUnit s t c {} (tilesWith c md.toNat q.getLsbD (fun i => some { dst i with
      lists := (List.range 8).map (fun row => offerRow (kk i) (wm i) (int i) (c.group.kread k.toNat).toNat (src i) row ((dst i).lists.getD row [])) }))
      c.group.latch) ∧
  (∀ (u : BitVec 1) (f : BitVec 4) (n : BitVec 3) (a : BitVec 6) (fmt : QFmt), qfmtOf f.toNat = some fmt →
    let nb := n.toNat + 1
    let nd := nb * fmt.blockBytes / 4
    let regByte := fun (first lane j : Nat) => (c.group.vlane (first + j / 4) lane).extractLsb' (8 * (j % 4)) 8
    ∃ t lt, exec (.qla l u f n a) s = .next t ∧ QuernUnit s t c {} c.group.tile (some lt) ∧ lt.afmt = fmt ∧ lt.nb = nb ∧ lt.ru = (u == 1) ∧
      ∀ lane < 32, let row := lt.rows.getD lane ([], [])
        row.1.length = nb * fmt.blockBytes ∧ (∀ j < nb * fmt.blockBytes, row.1.getD j 0 = regByte a.toNat lane j) ∧
        row.2.length = (if fmt.isMx then nb else 0) ∧ ∀ j < row.2.length, row.2.getD j 0 = regByte (a.toNat + nd) lane j)

/-- An operation goes in flight (02 R60, 03 R95 to R97): the unit ends with its register effects, the split gains the lookahead windows `win`, the operation
stands under the next name, and its ranges are entered in the core's table; tiles, latch and last pages apart, nothing else differs. -/
structure OpIssued (s t : State) (c : Ctx) (e : Eff) (rs : List Rng) (win : List Nat) (body : OpBody) (g' : Group) : Prop where
  rest : { t with teams := s.teams, cores := s.cores, ops := s.ops, nextOp := s.nextOp } = s
  group : GroupIs s.teams t.teams c g'
  op : tabGet t.ops s.nextOp = some (opOf s c c.split.mask body)
  ops : ∀ id, id ≠ s.nextOp → tabGet t.ops id = tabGet s.ops id
  name : t.nextOp = s.nextOp + 1
  locks : t.core c.core = { s.core c.core with locks := (s.core c.core).locks ++ rngLocks s c rs s.nextOp }
  cores : ∀ n, n ≠ c.core → t.core n = s.core n
  regs : RegsAfter c.live e g'
  splits : g'.splits = (wentOn c.live c.split.idx s.unit.npc).map
    (fun sp => if sp.idx = c.split.idx then { sp with windows := sp.windows ++ win.map (fun look => (s.nextOp, look)) } else sp)

/-- An engine operation may issue: no line of the core and no write-combining entry is open, no window access is outstanding, and the core's range
table has room for its ranges. -/
structure EngineFree (s : State) (c : Ctx) (rs : List Rng) : Prop where
  upd : (s.core c.core).upd = []
  wc : s.wc = []
  waits : engineWaits s c = false
  room : locksFor s c rs = true

/-- The pass that a matrix unit posts. -/
def passOf (s : State) (c : Ctx) (form : Nat) (lt : Latch) (z : BitVec 1) (f q : BitVec 4) (d : BitVec 3) (sp : Space) (cols : List Nat) : Pass :=
  { form := form, latch := lt, bfmt := (qfmtOf f.toNat).getD .bf16, z := z == 1, md := d.toNat, qmask := q, cols := cols, space := sp
    level := recordLevel s c.team, inPass := 0, left := q, before := (quarters q).filterMap (fun i => (c.group.tile d.toNat i).map (fun t => (i, t)))
    gen := c.q.gen, audited := false, posted := true, refilled := false }

/-- The three matrix forms: look, form, zeroing bit, format, quarters, handle, space and column starts of B (09 R281, R282). -/
def passForm (c : Ctx) : Instr → Option (BitVec 4 × Nat × BitVec 1 × BitVec 4 × BitVec 4 × BitVec 3 × Space × List Nat)
  | .qmm l z sb k f q d => let sp := if sb = 1 then Space.spad else Space.mem
    some (l, 0, z, f, q, d, sp, strideCols c k sp)
  | .qdist l z sb k f q d => let sp := if sb = 1 then Space.spad else Space.mem
    some (l, 1, z, f, q, d, sp, strideCols c k sp)
  | .qmmg l z v f q d => some (l, 2, z, f, q, d, .mem, allLanes.map (fun i => (c.group.vpair (2 * v.toNat) i).toNat))
  | _ => none

/-- `qmm`, `qdist`, `qmmg` at issue (09 R281 to R283, R288): with an empty latch they trap 0x31; otherwise the pass is posted with the latch, whose
content is kept under the reuse flag only, and under `z` the selected tiles are zero at once. -/
def PassIssueClaim : Prop := ∀ (i : Instr) (s : State) (c : Ctx) (l : BitVec 4) (form : Nat) (z : BitVec 1) (f q : BitVec 4) (d : BitVec 3) (sp : Space)
    (cols : List Nat), ctx? s = some c → passForm c i = some (l, form, z, f, q, d, sp, cols) →
  (c.group.latch = none → ∃ t, exec i s = .next t ∧ TrapTaken s t c ⟨0x31, s.unit.addr.toNat, 0, c.split.mask⟩) ∧
  (∀ lt, c.group.latch = some lt → let p := passOf s c form lt z f q d sp cols
    handleBusy s c d.toNat = false → passConds s c p = [] → replayFull s c = false → EngineFree s c [p.hull] →
    quernEntries s (quadOf c.core) + (quarters q).length ≤ 32 →
    ∃ t g', exec i s = .next t ∧ OpIssued s t c {} [p.hull] [l.toNat] (.pass p) g' ∧ g'.latch = (if lt.ru then some lt else none) ∧
      ∀ m k, k < 4 → g'.tile m k =
        tilesWith c d.toNat (fun k => q.getLsbD k && z == 1) (fun _ => some (zeroTile (lt.afmt == .i8))) m k)

/-- The arbiter (09 R288 to R290): a pass takes 16 quarters at most, all of the leader's key, and no waiting quarter has a higher level than the
leader; exactly these quarters are marked, once units that wait to be posted anew are (R285). `fusionWaitExpiry` grants a pass of fewer than 16. -/
def PassGrantClaim : Prop := ∀ (s : State) (quern : Nat), let qs := nextPass s quern
  let grants := fun (s t : State) (qs : List Quarter) => { t with ops := s.ops } = s ∧
    (∀ id o, tabGet s.ops id = some o → (∀ p, o.body ≠ .pass p) → tabGet t.ops id = some o) ∧
    ∀ id o p, tabGet s.ops id = some o → o.body = .pass p → ∃ p', tabGet t.ops id = some { o with body := .pass p' } ∧
      { p' with inPass := p.inPass } = p ∧ ∀ q < 4, p'.inPass.getLsbD q = (p.inPass.getLsbD q || qs.any (fun x => x.op == id && x.q == q))
  (∃ t, exec (.passGrant quern) s = .next t ∧ grants (repostAll s quern) t (nextPass (repostAll s quern) quern)) ∧
  (qs.length < 16 → ∃ t, exec (.fusionWaitExpiry quern) s = .next t ∧ grants s t qs) ∧
  qs.length ≤ 16 ∧ (∀ x ∈ qs, x ∈ waitingQuarters s quern) ∧
  ∀ ld rest, qs = ld :: rest → (∀ x ∈ rest, sameKey ld x = true) ∧ ∀ x ∈ waitingQuarters s quern, x.level ≤ ld.level

/-- A pass commits (09 R283 to R285): each element of the quarters in the pass is the sum of its old value, or zero under `z`, with the products, or
squared differences, of its row of A and its column of B, in the reduction order of 09 R284 or modulo 2^32; other tiles stay; the unit ends when no
quarter is left. -/
def PassCommitClaim : Prop := ∀ (s : State) (quern id : Nat) (o : Op) (p : Pass) (c : Ctx),
  s.ops.filter (fun o => quadOf o.2.core == quern && !o.2.halted && (match o.2.body with | .pass p => p.inPass != 0 | _ => false)) = [(id, o)] →
  o.body = .pass p → opCtxAny s o = some c → c.live.splits ≠ [] → s.wc = [] →
  (∀ i < 32, quernPageConds s c (p.column i) = [] ∧ quernFault s c (p.column i) = none ∧ piecesDenied s c (rngReach s c (p.column i)).pieces = none) →
  let elem := fun (q r col : Nat) =>
    let old := if p.z then 0 else match c.group.tile p.md q with | some x => x.at_ r col | none => 0
    let row := p.latch.rows.getD (8 * q + r) ([], [])
    let b := rngBytes s c (p.column col)
    if p.latch.afmt = .i8 then passElemInt p.form old (row.1.map (fun x => x.toInt)) (b.map (fun x => x.toInt))
    else passElem p.form p.latch.nb old (runValues p.latch.afmt p.latch.nb (row.1 ++ row.2)) (runValues p.bfmt p.latch.nb b)
  ∃ t g', exec (.passCommit quern) s = .next t ∧ groupOf t o.team o.group = some g' ∧
    { g' with tiles := c.group.tiles, dirty := c.group.dirty } = c.group ∧
    (∀ m q, q < 4 → ¬ (m = p.md ∧ p.inPass.getLsbD q = true) → g'.tile m q = c.group.tile m q) ∧
    (∀ q < 4, p.inPass.getLsbD q = true → ∃ x, g'.tile p.md q = some x ∧ x.kind = (if p.latch.afmt = .i8 then .i32 else .f32) ∧
      ∀ r < 8, ∀ col < 32, x.at_ r col = elem q r col) ∧
    tabGet t.ops id = (if p.left &&& ~~~p.inPass = 0 then none
      else some { o with body := .pass { p with inPass := 0, left := p.left &&& ~~~p.inPass } })

/-- The operands of a conversion (08 R269). -/
def convOf (c : Ctx) (quant : Bool) (fmt : QFmt) (d sp ty : BitVec 1) (k : BitVec 2) : Conv :=
  let space := fun (b : BitVec 1) => if b = 1 then Space.spad else Space.mem
  { quant := quant, fmt := fmt, bf := ty == 1, n := (c.group.kread (8 * k.toNat + 4)).toNat % 4096 + 1
    dst := operandAddr c.group (space d) (8 * k.toNat), dstSp := space d, src := operandAddr c.group (space sp) (8 * k.toNat + 2), srcSp := space sp }

/-- `mxq`, `mxd` and their completion (08 R268 to R273): the conversion issues with its two ranges; when it completes, its destination holds the
converted bytes of its source, the operation and its locks are gone, and where both are scratchpad no other byte of memory has changed. -/
def ConversionClaim : Prop :=
  (∀ (s : State) (c : Ctx) (l : BitVec 4) (f : BitVec 3) (fmt : QFmt) (d sp ty : BitVec 1) (k : BitVec 2) (quant : Bool), ctx? s = some c →
    mxfmtOf f.toNat = some fmt → let v := convOf c quant fmt d sp ty k
    convConds s c v true = [] → quernFault s c v.source = none → quernFault s c v.dest = none → replayFull s c = false → EngineFree s c [v.source, v.dest] →
    ∃ t g', exec (if quant then .mxq l f d sp ty k else .mxd l f d sp ty k) s = .next t ∧
      OpIssued s t c {} [v.source, v.dest] [l.toNat] (.conv v) g') ∧
  ∀ (s : State) (id : Nat) (o : Op) (c : Ctx) (v : Conv), tabGet s.ops id = some o → opCtxAny s o = some c → o.body = .conv v → o.halted = false →
    convConds s c v false = [] → quernFault s c v.source = none → quernFault s c v.dest = none → rngHeld s c v.dest = false → s.wc = [] →
    piecesDenied s c (rngReach s c v.source).pieces = none → s.Inv → ∃ t, exec (.conversionComplete id) s = .next t ∧ tabGet t.ops id = none ∧
      (∀ n, ∀ x ∈ (t.core n).locks, x.op ≠ id) ∧
      (v.srcSp = .spad → v.dstSp = .spad →
        (∀ j < (v.result (s.bytes (c.team.spadAt v.src) v.source.n)).length,
          t.byteAt (c.team.spadAt v.dst + j) = (v.result (s.bytes (c.team.spadAt v.src) v.source.n)).getD j 0) ∧
        ∀ a, ¬ (c.team.spadAt v.dst ≤ a ∧ a < c.team.spadAt v.dst + (v.result (s.bytes (c.team.spadAt v.src) v.source.n)).length) →
          t.byteAt a = s.byteAt a) ∧
      t.mem = (rngWrite (rngNote (rngNote s c v.source) c v.dest) c v.dest (v.result (rngBytes s c v.source))).mem

/-! ### The mask unit (11 R327 to R347) -/

/-- `mload`, `mfree`, `mclass`, `mstat` (11 R340 to R346): a legal image, outside the device regions, is published in its slot, and nothing else of memory changes but the entries that
the walks mark; `mfree` empties the slot; `mclass` delivers the class of its tile; `mstat` a counter or the bitmap of valid slots. -/
def MaskClaim : Prop := ∀ (s : State) (c : Ctx) (l : BitVec 4) (slot : BitVec 3), ctx? s = some c →
  let at_ := slotAt c.q slot.toNat
  (∀ (k : BitVec 4) (p : Nat → Piece), Calm s c → s.Inv → slotBound s c.team.queue slot.toNat = false → ownHold c slot.toNat ∉ s.maskHolds →
    let ea := (c.group.kpair (2 * k.toNat)).toNat
    let header := BitVec.ofNat 32 (s.num (p 0).pa 4)
    let ws := (List.range (mCount header)).map (fun i => BitVec.ofNat 32 (s.num (p (i + 1)).pa 4))
    (∀ i ≤ mCount header, (lookAt s c .load none false (lowLane c.split.mask) ((ea + 4 * i) % 2 ^ 64) 4 4).opens s (p i) ∧ (p i).x.region ≠ 2) →
    imageCond header ws c.split.mask = [] →
    ∃ t g', exec (.mload l k slot) s = .next t ∧ OnlyAccess s t c g' ∧ GroupAfter c {} s.unit.npc g' ∧ slotProgram t c.q slot.toNat = some ws ∧
      ∀ a, ¬ InWalked ((List.range (mCount header + 1)).map p) a → ¬ (at_ ≤ a ∧ a < at_ + 128) → t.byteAt a = s.byteAt a) ∧
  (slotBound s c.team.queue slot.toNat = false → s.Inv →
    ∃ t, exec (.mfree l slot) s = .next t ∧
      Completes { s with mem := t.mem, bad := t.bad, spadDirty := t.spadDirty, l1Lines := t.l1Lines, migrations := t.migrations, maskHolds := t.maskHolds } t c {} ∧
      slotProgram t c.q slot.toNat = none ∧ (∀ a, ¬ (at_ ≤ a ∧ a < at_ + 128) → t.byteAt a = s.byteAt a) ∧
      t.num (at_ + 4) 4 = if (slotProgram s c.q slot.toNat).isSome then (s.num (at_ + 4) 4 + 1) % 2 ^ 32 else s.num (at_ + 4) 4) ∧
  (∀ (q : BitVec 2) (d : BitVec 5) (prog : List Word), slotHeld s c.team.queue slot.toNat = false → bindFull s c.core c.team.queue slot.toNat = false →
    slotProgram s c.q slot.toNat = some prog →
    let k := fun (i : Nat) => ((c.group.kread (8 * q.toNat + i)).toNat : Int)
    k 0 ≤ k 1 → k 2 ≤ k 3 → k 4 ≤ k 5 → ∃ t, exec (.mclass l q d slot) s = .next t ∧
      Completes s t c { k := [(d.toNat, BitVec.ofNat 32 (classify prog (k 0, k 1) (k 2, k 3) (k 4, k 5) (k 6, k 6)))] }) ∧
  ∀ (d : BitVec 4) (sel : BitVec 3), sel.toNat ≤ 4 → (∀ w ∈ c.split.windows, tabGet s.ops w.1 = none) →
    (∀ o ∈ groupOps s c.key c.group.num, o.2.split = c.split.idx → ∃ cp, o.2.body = .copy cp) → ∃ t v, exec (.mstat l d sel) s = .next t ∧
      Completes s t c { k := [(2 * d.toNat, BitVec.ofNat 32 v), (2 * d.toNat + 1, BitVec.ofNat 32 (v / 2 ^ 32))] } ∧
      (sel.toNat < 4 → v = s.num (c.q.mblock + 8 * sel.toNat) 8) ∧
      (sel.toNat = 4 → v < 256 ∧ ∀ i < 8, v.testBit i = (slotProgram s c.q i).isSome)

/-! ### Attention (10 R303 to R326) -/

/-- The three attention forms: look, form, list register, quarters, slot, whether a mask program applies, operand block. -/
def attForm : Instr → Option (BitVec 4 × Nat × BitVec 4 × BitVec 4 × BitVec 3 × BitVec 1 × BitVec 2)
  | .qatt l h q slot e k => some (l, 0, h, q, slot, e, k)
  | .qatf l h q slot e k => some (l, 1, h, q, slot, e, k)
  | .qsel l h q slot e k => some (l, 2, h, q, slot, e, k)
  | _ => none

/-- The attention unit as issued, before its rows are latched. -/
def attOf (s : State) (c : Ctx) (form : Nat) (h q : BitVec 4) (slot : BitVec 3) (me : BitVec 1) (kq : BitVec 2) : Att :=
  let k := (List.range 8).map (fun i => c.group.kread (8 * kq.toNat + i))
  let lane := lowLane c.split.mask
  let ref := c.group.hlane h.toNat lane
  let res := resolveFor s c ref
  { form := form, hl := h.toNat, lane := lane, ref := healedOf ref res, list := match res with | .obj o _ _ => some o | _ => none
    qmask := q, prog := if me = 1 then some (slot.toNat, (slotProgram s c.q slot.toNat).getD []) else none, k := k, rows := []
    hulls := attHulls form (me == 1) (fun i => ((k.getD i 0).toNat : Nat)) (rowsOf q), sample := some s.pe, owed := none, level := recordLevel s c.team }

/-- `qatt`, `qatf`, `qsel` at issue (10 R306 to R308): where the lowest lane's reference designates a list and nothing stops the unit, it goes in flight
with its rows latched, its scratchpad ranges entered and the list's reference healed; a null list traps 0x50. -/
def AttentionIssueClaim : Prop := ∀ (i : Instr) (s : State) (c : Ctx) (l : BitVec 4) (form : Nat) (h q : BitVec 4) (slot : BitVec 3) (me : BitVec 1)
    (kq : BitVec 2), ctx? s = some c → attForm i = some (l, form, h, q, slot, me, kq) → (heapOf s c).isSome = true →
  (me = 1 → slotHeld s c.team.queue slot.toNat = false ∧ bindFull s c.core c.team.queue slot.toNat = false) → let a := attOf s c form h q slot me kq
  let ref := c.group.hlane h.toNat (lowLane c.split.mask)
  attConds s c a = [] →
  (ref = 0 → ∃ t, exec i s = .next t ∧ TrapTaken s t c ⟨0x50, s.unit.addr.toNat, 2 ^ (lowLane c.split.mask), BitVec.ofNat 32 (2 ^ (lowLane c.split.mask))⟩) ∧
  (∀ o hd v, resolveFor s c ref = .obj o hd v → resHeld s c false (.obj o hd v) = false → replayFull s c = false → EngineFree s c (a.hulls.map hullRng) →
    quernEntries s (quadOf c.core) + (quarters q).length ≤ 32 →
    ∃ t g', exec i s = .next t ∧ OpIssued s t c { h := [(h.toNat, BitVec.ofNat 32 (2 ^ (lowLane c.split.mask)), fun _ => v)] } (a.hulls.map hullRng)
      [l.toNat] (.att { a with rows := latchRows s c a }) g')

/-- What an attention unit leaves when it completes with what it owes: counters moved, its event appended, its output written (10 R319). -/
def attEnds (s : State) (o : Op) (c : Ctx) (d : AttDone) : State :=
  let s := d.moves.foldl (fun s m => addCounter s c.q m.1 m.2) s
  let s := match d.event with | some e => opAudit s o e.1 e.2.1 e.2.2.1 e.2.2.2 6 0 | none => s
  d.outs.foldl (fun s x => writeOut s c.team x.1 x.2) s

/-- An attention unit completes (10 R309, R311, R318, R319; 11 R345): where its list and its pages stop nothing, its additions are merged, and then, in one
event, its counters are moved, its audit event is appended, its output is written and the operation is gone; by the choice 1 (log 4) one counter is moved
before that, and the unit goes on with what it still owes. Where its list is denied, each selected row stands as a row without contribution, or the selection
as empty, where no barrier was initialised there meanwhile (log 112). A row without contribution is
zeros, negative infinity, zero and no page; one score that is NaN or positive infinity makes the whole row NaN. -/
def AttentionCompleteClaim : Prop :=
  (∀ (s : State) (id : Nat) (o : Op) (c : Ctx) (a : Att) (obj : Nat), tabGet s.ops id = some o → opCtxAny s o = some c → o.body = .att a →
    let goes := fun (u : State) (d : AttDone) =>
      ((choice u ≠ 1 ∨ d.moves.length ≤ 1) → ∃ t, exec (.attentionComplete id) s = .next t ∧ tabGet t.ops id = none ∧
        t.mem = (attEnds (if d.moves.length ≤ 1 then u else u.chosen) o c d).mem) ∧
      (∀ m n ms, choice u = 1 → d.moves = m :: n :: ms → ∃ t, exec (.attentionComplete id) s = .next t ∧
        tabGet t.ops id = some { o with body := .att { a with owed := some { d with moves := n :: ms } } } ∧
        t.mem = (addCounter u.chosen c.q m.1 m.2).mem)
    (∀ d, a.owed = some d → goes s d) ∧
    (o.halted = false → a.owed = none → a.sample.isSome = true → a.list = some obj →
    (∀ h looks reads, lookList s c a obj = .ok h looks reads → (∀ x ∈ looks, (∀ cs, x ≠ .stop cs) ∧ (∀ f, x ≠ .fault f) ∧ x ≠ .held) →
      (a.form = 1 → (s.core c.core).upd.length + looks.length ≤ 32) →
      let s1 := attClose s c a h looks
      let rows := if a.form = 2 then [] else attRows s1 c a h looks
      let masses := if a.form = 1 then attMasses rows (livePages looks) else []
      (∀ x ∈ masses, quernPageConds s c (massRng x.1) = [] ∧ quernFault s c (massRng x.1) = none) →
      goes (attEffect (attWalks s1 c a obj (tokensOf h.tcode) looks) c a h looks reads masses) (attOwes s1 c a h looks rows)) ∧
    (∀ va k, lookList s c a obj = .denied va k → s.Inv → ∃ t, exec (.attentionComplete id) s = .next t ∧ tabGet t.ops id = none ∧
      (a.form = 2 → teamTag s c.team (a.op 2) 8 = none → t.num (c.team.spadAt (a.op 2)) 8 = 0) ∧
      (a.form ≠ 2 → (∀ j ∈ rowsOf a.qmask, teamTag s c.team (a.op 2 + outBytes a.chans * j) (outBytes a.chans) = none) → ∀ j ∈ rowsOf a.qmask, t.bytes (c.team.spadAt (a.op 2 + outBytes a.chans * j)) (outBytes a.chans) = (emptyRow a.chans).bytes)))) ∧
  (∀ (a : Att) (row : Nat × List Nat × Nat × Nat), rowResult a [] row = emptyRow a.chans) ∧
  ∀ (a : Att) (row : Nat × List Nat × Nat × Nat) (p : AttPage) (b : Body) (t : Nat), t ∈ admitted a p row →
    spoils (scoreOf a.chans (f32Num (a.k.getD 3 0)) (row.2.1.map bf16Num) (tokenRow b false a.chans t)) = true →
    (rowResult a [(p, b)] row).o = List.replicate a.chans (f32Bits .nan) ∧ (rowResult a [(p, b)] row).m = f32Bits .nan ∧
    (rowResult a [(p, b)] row).l = f32Bits .nan

/-! ### The Thresher (12 R348 to R371) -/

/-- A directory form: look, form, operand block, destination. -/
def dirInstr : Instr → Option (BitVec 4 × DirForm × BitVec 2 × BitVec 5)
  | .kvnew l q d => some (l, .new, q, d)
  | .kvseal l q d => some (l, .seal, q, d)
  | .kvdem l q d => some (l, .dem, q, d)
  | .kvdemInv l q d => some (l, .inv, q, d)
  | .kvcold l q d => some (l, .cold, q, d)
  | _ => none

/-- The operand block names a pool of the queue whose descriptor the core can translate (12 R365). -/
def PoolNamed (s : State) (c : Ctx) (q : BitVec 2) (id : Nat) (p : Pool) : Prop :=
  badDesc (kvDesc c q) = false ∧ kvTranslate s c false (kvDesc c q).toNat 128 = (none, []) ∧ poolAt s c.team.queue (kvDesc c q) = some (id, p) ∧
    tabGet s.pools id = some p

/-- The directory forms at issue (12 R365 to R369): an index outside the pool traps 0x49 and a forbidden entry 0x4A; otherwise the operation goes to the
Thresher of the pool, with the scratchpad ranges of `kvseal` entered. -/
def DirectoryIssueClaim : Prop := ∀ (i : Instr) (s : State) (c : Ctx) (l : BitVec 4) (form : DirForm) (q : BitVec 2) (kd : BitVec 5) (id : Nat) (p : Pool),
  ctx? s = some c → dirInstr i = some (l, form, q, kd) → PoolNamed s c q id p →
  let x := ((kvWord c q 2).toNat : Nat)
  let rs := sealRanges form p (kvWord c q 3) (kvWord c q 4) (kvWord c q 5)
  let bits := natOfBytes ((hwRead s c.q (p.entry x) 64).getD [])
  (∀ r ∈ rs, rngConds s c false r = [] ∧ r.addr % 4 = 0) →
  (p.sw.count ≤ x → ∃ t, exec i s = .next t ∧ TrapTaken s t c ⟨0x49, x, p.sw.count, c.split.mask⟩) ∧
  (x < p.sw.count → kvTranslate s c true (p.entry x) 64 = (none, []) →
    (dirForbids form (dirEnt bits) p.tokens (kvWord c q 3).toNat = true →
      ∃ t, exec i s = .next t ∧ TrapTaken s t c ⟨0x4a, p.entry x, bitsOf bits 192 64, c.split.mask⟩) ∧
    (dirForbids form (dirEnt bits) p.tokens (kvWord c q 3).toNat = false → (dirEnt bits).malformed p.tokens = false → EngineFree s c rs →
      let d : Dir := { form := form, pool := id, x := x, a := kvWord c q 3, b := kvWord c q 4, c := kvWord c q 5, kd := kd.toNat, begun := false
                       moving := false, held := false, status := none, fault := 0, retried := 0 }
      ∃ t g', exec i s = .next t ∧ OpIssued s t c {} rs [l.toNat] (.dir d) g'))

/-- Of the pools one has changed. -/
def PoolIs (s t : State) (id : Nat) (p : Option Pool) : Prop := tabGet t.pools id = p ∧ ∀ n, n ≠ id → tabGet t.pools n = tabGet s.pools n

/-- `kvq`, `kvpol.reg`, `.sweep`, `.set`, `.unreg` (12 R370, R371): counts; a new pool with its counts zero; one more sweep requested; new policy fields from the
next sweep on; the pool gone. The last four deliver status 0; registering and unregistering write the descriptor's fields first (R491). -/
def PoolFormsClaim : Prop := ∀ (s : State) (c : Ctx) (l : BitVec 4) (q : BitVec 2), ctx? s = some c → EngineFree s c [] →
  let w := hwNum s c.q (kvDesc c q).toNat 128
  let zero := fun (t : State) (d : BitVec 5) => ∃ g', GroupIs s.teams t.teams c g' ∧ GroupAfter c { k := [(d.toNat, 0)] } s.unit.npc g'
  let writable := fun (home : Nat) => ∃ ps, thrNeed s c.q home true ((kvDesc c q).toNat + 64) 24 0 = .ok ps ∧ heldPieces s ps = false
  (∀ (d : BitVec 4) (sel : BitVec 3) (id : Nat) (p : Pool), PoolNamed s c q id p → sel.toNat ≤ 1 →
    let r := if sel = 0 then (p.done, p.stepped) else (p.stuck, p.skipped)
    ∃ t, exec (.kvq l q d sel) s = .next t ∧ Completes s t c { k := [(2 * d.toNat, BitVec.ofNat 32 r.1), (2 * d.toNat + 1, BitVec.ofNat 32 r.2)] }) ∧
  (∀ (d : BitVec 5), badDesc (kvDesc c q) = false → kvTranslate s c false (kvDesc c q).toNat 128 = (none, []) → badPool w = false →
    poolAt s c.team.queue (kvDesc c q) = none → (s.pools.filter (fun p => p.2.sw.home == (poolSwOf w).home)).length < 256 → writable (poolSwOf w).home →
    ∃ t, exec (.kvpolReg l q d) s = .next t ∧ zero t d ∧ t.nextOp = s.nextOp + 1 ∧ PoolIs s t s.nextOp (some
      { queue := c.team.queue, desc := kvDesc c q, sw := poolSwOf w, nextSw := none, done := 0, stuck := 0, stepped := 0, skipped := 0
        requests := 0, lastStart := s.cycle, sweep := none, cold := none, fault := 0 })) ∧
  (∀ (d : BitVec 5) (id : Nat) (p : Pool), PoolNamed s c q id p →
    (p.requests < 16 → ∃ t, exec (.kvpolSweep l q d) s = .next t ∧ Completes { s with pools := t.pools } t c { k := [(d.toNat, 0)] } ∧
      PoolIs s t id (some { p with requests := p.requests + 1 })) ∧
    (badPool w = false → (poolSwOf w).fixed = p.sw.fixed → ∃ t, exec (.kvpolSet l q d) s = .next t ∧
      Completes { s with pools := t.pools } t c { k := [(d.toNat, 0)] } ∧ PoolIs s t id (some { p with nextSw := some (poolSwOf w) })) ∧
    (poolBusy s id p 0 = false → writable p.sw.home → ∃ t, exec (.kvpolUnreg l q d) s = .next t ∧ zero t d ∧ PoolIs s t id none))

/-- A directory operation ends with a status in its register. -/
def DirEnds (t : State) (id : Nat) (o : Op) (d : Dir) (status : Nat) : Prop :=
  tabGet t.ops id = none ∧ ∃ g', groupOf t o.team o.group = some g' ∧ g'.kread d.kd = BitVec.ofNat 32 status

/-- The Thresher takes a form up (12 R366 to R369), where no other change of its pool is begun and none of another pool of its die is being performed (R350), and
what it delivers: 5 where the entry is
forbidden or malformed by then; for `kvnew` 0 with the fresh entry written, or 3 without memory; for `kvseal` 0 with its rows appended, a full page
sealed with its summary; for `kvdem` of a stuck page or one at the last format 2, and else its step's status; for `kvdem.inv` 1 while
pinned or moved and else 0; a `kvcold` that begins to copy stays. A form that is not begun within 8,192 cycles delivers 4. -/
def DirectoryTakeupClaim : Prop := ∀ (s : State) (id : Nat) (o : Op) (c : Ctx) (d : Dir), tabGet s.ops id = some o → opCtxAny s o = some c →
  c.live.splits ≠ [] → o.body = .dir d →
  (d.begun = false → o.issued + 8192 ≤ s.cycle → ∃ t, exec (.directoryBusyTimeout id) s = .next t ∧ DirEnds t id o d 4 ∧ t.mem = s.mem) ∧
  (∀ (p : Pool) (ps : List Piece), d.moving = false → d.fault = 0 → d.status = none → (d.begun = true ∨ s.cycle ≤ o.issued + 8192) →
    tabGet s.pools d.pool = some p → tabGet s.queues p.queue = some c.q → poolBusy s d.pool p id = false → dieBusy s d.pool p.sw.home = false →
    entryNeed s c.q p d.x d.retried = .ok ps → heldPieces s ps = false →
    let e := entryAt s ps
    let n := p.done + 1
    let takes := fun (P : State → Prop) => ∃ t, exec (.directoryTakeup id) s = .next t ∧ P t
    let ends := fun (status : Nat) (m : List Host.Cell) => takes (fun t => DirEnds t id o d status ∧ t.mem = m)
    let read := fun (ns : List Piece) => thrNote s p.sw.home false ns
    ((dirForbids d.form e p.tokens d.a.toNat = true ∨ e.malformed p.tokens = true) → ends 5 s.mem) ∧
    (dirForbids d.form e p.tokens d.a.toNat = false → e.malformed p.tokens = false →
      (d.form = .new → ∀ (h : Heap), tabGet s.heaps p.queue = some h → let size := 4 * p.tokens * p.chans
        (placeObject s p.queue c.q h true size = none → ends 3 s.mem) ∧
        ∀ b bs, placeObject s p.queue c.q h true size = some b → thrNeed s c.q p.sw.home true b (16 + size) d.retried = .ok bs →
          ends 0 (changeEntry (allocObject s p.queue true size (d.c.toNat % 65536) true false).1 p.sw.home ps
            (newEntry d p (refBits h.ce false true b))).mem) ∧
      (d.form = .seal → ∀ obj hd hl, resolveFor s c e.ref = .obj obj hd hl → resHeld s c true (.obj obj hd hl) = false →
        let r := (d.a.toNat : Nat)
        let row := 2 * p.chans
        let half := row * p.tokens
        let rows := fun (w : Word) => s.bytes (c.team.spadAt (w.toNat : Nat)) (row * r)
        let s1 := hwWrite (hwWrite s c.q (obj + 16 + row * e.fill) (rows d.b)) c.q (obj + 16 + half + row * e.fill) (rows d.c)
        let got := fun (at_ : Nat) => halfwords (p.tokens * p.chans) ((hwRead s1 c.q at_ half).getD [])
        (r = 0 → ends 0 s.mem) ∧
        (∀ need, r ≠ 0 → sealNeed s c d p e obj = .ok need → heldPieces s need = false →
          (e.fill + r < p.tokens → ends 0 (changeEntry s1 p.sw.home ps (fun e => { e with fill := e.fill + r })).mem) ∧
          (p.tokens ≤ e.fill + r → (∀ v ∈ got (obj + 16) ++ got (obj + 16 + half), (bf16Num v).isNan = false) →
            ends 0 (changeEntry (writePieces (thrNote s1 p.sw.home true need) need (summaryOf p.tokens p.chans (got (obj + 16)))) p.sw.home ps
              (fun e => { e with fill := p.tokens, state := 1, sweep := p.done })).mem))) ∧
      (d.form = .dem → (e.state = 2 ∨ e.fmt = 4) → ends 2 s.mem) ∧
      (d.form = .dem → e.state ≠ 2 → e.fmt ≠ 4 → ∀ ns,
        stepNeed s p c.q e true (alignUp (pageBytes (nextEntry p e).fmt p.tokens p.chans) 16) d.retried = .ok ns →
        let r := formatStep (read ns) d.pool p c.q ps n
        r.2 ≠ .stuck → ends (stepStatus r.2) r.1.mem) ∧
      (d.form = .inv → ∀ h obj hd hl, tabGet s.heaps p.queue = some h → resolve s c.q h e.ref = .obj obj hd hl →
        ((gleanerHolds h obj = true ∨ 0 < hd.pins) → ends 1 s.mem) ∧
        ∀ hs, gleanerHolds h obj = false → hd.pins = 0 → thrNeed s c.q p.sw.home true obj 16 d.retried = .ok hs → takes (fun t => DirEnds t id o d 0)) ∧
      (d.form = .cold → (e.state = 2 ∨ e.fmt ≠ 4 ∨ e.tier ≠ 0) → ends 2 s.mem) ∧
      (d.form = .cold → e.state ≠ 2 → e.fmt = 4 → e.tier = 0 → ∀ ns,
        stepNeed s p c.q e false (alignUp (pageBytes e.fmt p.tokens p.chans) 16) d.retried = .ok ns →
        let r := coldStep (read ns) d.pool p c.q d.x ps n id
        (r.2 = .copying → takes (fun t => tabGet t.ops id = some { o with body := .dir { d with begun := true, moving := true, held := false, retried := 0 } } ∧
          t.mem = r.1.mem)) ∧
        (r.2 ≠ .copying → r.2 ≠ .stuck → ends (stepStatus r.2) r.1.mem))))

/-- Sweeps (12 R353 to R359): a sweep starts when its interval has passed or by a request, with the fields that `kvpol.set` loaded; at its turn a visit
passes an invalid entry by, and decays the mass of an entry of which no step is due, changing no other byte; where a step is due, it decays the mass and
makes the format step, or begins the cold move, and counts how it ends; after the last visit the counts are taken over and the stamp is written. A cold
copy that ends leaves its object's bytes in the destination and its entry with the new reference and tier 1, and releases the source. -/
def SweepClaim : Prop := ∀ (s : State) (pool : Nat) (p : Pool), tabGet s.pools pool = some p →
  let first := fun (p : Pool) => ({ n := p.done + 1, next := 0, stepped := 0, skipped := 0, status := 0, retried := 0
                                    turn := (firstTurn s p.sw.home (fun _ _ => true)).getD 0, started := s.nextOp, owed := false, counted := false } : Sweep)
  let started := fun (p : Pool) => ({ p with sw := p.nextSw.getD p.sw, nextSw := none, lastStart := s.cycle, sweep := some (first p) } : Pool)
  (p.sweep = none → p.sw.interval ≠ 0 → p.lastStart + 1024 * p.sw.interval ≤ s.cycle → ∃ t, exec (.sweepIntervalStart pool) s = .next t ∧
    { t with pools := s.pools, nextOp := s.nextOp } = s ∧ PoolIs s t pool (some (started p))) ∧
  (p.sweep = none → 0 < p.requests → ∃ t, exec (.sweepRequestStart pool) s = .next t ∧ { t with pools := s.pools, nextOp := s.nextOp } = s ∧
    PoolIs s t pool (some (started { p with requests := p.requests - 1 }))) ∧
  ∀ (w : Sweep) (q : Queue), tabGet s.queues p.queue = some q → p.fault = 0 →
    let later := 1 + Nat.max w.turn ((firstTurn s p.sw.home (fun i x => i != pool && visiting s i x)).getD 0)
    let on := some ({ p with sweep := some { w with next := w.next + 1, retried := 0, turn := later } } : Pool)
    (p.sweep = some w → w.owed = false → visiting s pool p = true → dieBusy s pool p.sw.home = false →
      itsTurn s pool p w = true → ∀ rs, thrNeed s q p.sw.home false (p.entry w.next) 64 w.retried = .ok rs →
      ((entryAt s rs).fmt = 7 → ∃ t, exec (.sweepVisit pool) s = .next t ∧ PoolIs s t pool on) ∧
      (∀ pc, (entryAt s rs).fmt ≠ 7 → thrNeed s q p.sw.home true (p.entry w.next) 64 w.retried = .ok [pc] → heldPieces s [pc] = false →
        let e := entryAt s [pc]
        let left := e.mass - e.mass / 2 ^ p.sw.decay
        let due := e.state = 1 ∧ p.sw.minAge ≤ (w.n + 2 ^ 32 - e.sweep) % 2 ^ 32 ∧ ∃ x, stepThreshold p e = some x ∧ left < x
        e.fmt ≠ 7 → e.malformed p.tokens = false →
        (¬ due → s.Inv → ∃ t, exec (.sweepVisit pool) s = .next t ∧ PoolIs s t pool on ∧ t.num (pc.pa + 44) 4 = left ∧
          ∀ a, ¬ InWalked [pc] a → ¬ (pc.pa + 44 ≤ a ∧ a < pc.pa + 48) → t.byteAt a = s.byteAt a) ∧
        ∀ ns, due → visitNeed s p q w e = .ok ns →
          let s1 := (thrNote (thrNote s p.sw.home false ns) p.sw.home true [pc]).writeNum (pc.pa + 44) 4 left
          let r := if e.fmt = 4 then coldStep s1 pool p q w.next [pc] w.n 0 else formatStep s1 pool p q [pc] w.n
          (r.2 = .copying → exec (.sweepVisit pool) s = .next r.1) ∧
          (r.2 ≠ .copying → r.2 ≠ .stuck → ∃ t, exec (.sweepVisit pool) s = .next t ∧ t.mem = r.1.mem ∧ t.released = r.1.released ∧ ∃ p' w',
            tabGet t.pools pool = some p' ∧ p'.sweep = some w' ∧ w'.next = w.next + 1 ∧
            w'.stepped = w.stepped + (if r.2 = .made then 1 else 0) ∧ w'.skipped = w.skipped + (if r.2 = .held ∨ r.2 = .noMem then 1 else 0)))) ∧
    (p.sweep = some w → p.cold = none → p.sw.count ≤ w.next → begunForms s pool 0 = false → w.counted = false → w.owed = false →
      let p' := { p with done := w.n, stepped := w.stepped, skipped := w.skipped }
      let s1 := syncPool (s.modPool pool (fun _ => p')) p' true
      ∀ ps ps', thrNeed s q p.sw.home true (p.desc.toNat + 64) 24 w.retried = .ok ps → heldPieces s ps = false →
      thrNeed s1 q p.sw.home true p.sw.stamp.toNat 8 0 = .ok ps' → heldPieces s1 ps' = false →
      ∃ t, exec (.sweepComplete pool) s = .next t ∧ PoolIs s t pool (some { p' with sweep := none }) ∧
        t.mem = (writePieces (thrNote s1 p.sw.home true ps') ps' (bytesOf 8 (w.n % 2 ^ 48 + 2 ^ 48 * w.status))).mem) ∧
    ∀ m h ps, p.cold = some m → tabGet s.heaps p.queue = some h → m.op = 0 → coldNeed s q p m ((p.sweep.map (·.retried)).getD 0) = .ok ps →
      heldPieces s ps = false → let n := (headerAt s q m.src).size
      let whole := (entryAt s ps).fmt ≠ 7 ∧ (entryAt s ps).malformed p.tokens = false
      let copied := hwWrite (hwNote s q m.src (16 + n) false) q (m.dest + 16) ((hwRead s q (m.src + 16) n).getD [])
      let back := freeze s q m.src false
      ∃ t p', exec (.coldMoveCopyDone pool) s = .next t ∧ tabGet t.pools pool = some p' ∧ p'.cold = none ∧ p'.done = p.done ∧ p'.sw = p.sw ∧
        (whole → t.mem = (changeEntry copied p.sw.home ps (fun e => { e with ref := refBits h.ce false true m.dest, tier := 1, sweep := m.n })).mem ∧
          t.released = s.released ++ [{ queue := p.queue, addr := m.src, bytes := 16 + n, eRel := s.pe }]) ∧
        (¬ whole → t.mem = (syncHeap (setAlloc back q h m.dest false) p.queue).mem ∧ t.released = s.released)

/-! ### The copy engine (14 R402 to R421) -/

/-- The transfer that `cpy`, `cpy2d` or `cpym` asks for, whether it writes the issuer's allocation, and the form's own conditions. -/
def copyForm (s : State) (c : Ctx) : Instr → Option (Copy × Bool × List Cond)
  | .cpy _ k t b d sp q => let v := copyBlock c false k t b d sp q
    some (v, true, lenCond s c q v.n)
  | .cpy2d _ k t b d sp q => let v := copyBlock c true k t b d sp q
    some (v, true, lenCond s c q v.n)
  | .cpym _ k t b sp q => let m := (c.group.kread (8 * q.toNat + 6)).toNat % 65536
    let n := c.grid.launch.clusterSize
    let v := { copyBlock c false k t b 1 sp q with cpym := true, todo := maskPositions m }
    some (v, v.todo.contains (if c.grid.launch.clustered then c.grid.launch.clpos c.team.teamid else 0),
      lenCond s c q v.n ++ wholeCond (m == 0 || decide (m ≥ 2 ^ n)) 0x61 m n c.split.mask)
  | _ => none

/-- Transfers at issue (14 R404 to R410): where nothing else stops it, the form's own condition traps, a length of zero with 0x60; and with none the
transfer is in flight, its ranges entered, and its unit has completed without a lookahead window. -/
def CopyIssueClaim : Prop := ∀ (i : Instr) (s : State) (c : Ctx) (v : Copy) (own : Bool) (extra : List Cond), ctx? s = some c →
  copyForm s c i = some (v, own, extra) → boundConds s c v.srcRng = [] → boundConds s c v.dstRng = [] → stampConds c v.stamp = [] →
  barOperand c v.bar = [] → (v.dstSp = .spad → own = true → tagConds s c v = []) →
  let rs := if v.cpym && !own then [v.srcRng] else [v.srcRng, v.dstRng]
  (∀ k, lowest extra = some k → ∃ t, exec i s = .next t ∧ TrapTaken s t c k) ∧
  (v.n = 0 → ∃ k, lowest extra = some k ∧ k.code = 0x60) ∧
  (extra = [] → EngineFree s c rs → copiesOf s c.core + chainsOf s c.core < 32 →
    ∃ t g', exec i s = .next t ∧ OpIssued s t c {} rs [] (.copy v) g')

/-- The source of a transfer of one row can be read whole where it stands: `a` is its physical address, `s1` the state that the reading leaves. -/
def ReadsFrom (s s1 : State) (o : Op) (c : Copy) (q : Queue) (tm : Team) (a : Nat) : Prop :=
  match c.srcSp with
  | .spad => spadHome s o.team = .live tm ∧ s1 = s ∧ a = tm.spadAt c.src
  | .mem => pageCuts c.src c.n = [(c.src, c.n)] ∧ ∃ p, copyPiece s o.qn q (dieOf o.core) false c.retried c.src c.n = .ok p ∧ badAdmitted s q p = none ∧
      deniedClass s q p = none ∧ placeOf s p.pa ≠ some .peer ∧ (p.x.region = 1 → s.wc = [] ∧ rawCode s o.qn q p.va c.n false = []) ∧
      s1 = notePieces s q none (dieOf o.core) false [p] ∧ a = p.pa

/-- Its destination can be written whole: `b` is its physical address, `s2` the state that the translation leaves. -/
def WritesTo (s s1 s2 : State) (o : Op) (c : Copy) (q : Queue) (tm : Team) (b : Nat) : Prop :=
  match c.dstSp with
  | .spad => spadHome s o.team = .live tm ∧ teamTag s1 tm c.dst c.n = none ∧ s2 = s1 ∧ b = tm.spadAt c.dst
  | .mem => pageCuts c.dst c.n = [(c.dst, c.n)] ∧ ∃ p, copyPiece s1 o.qn q (dieOf o.core) true c.retried c.dst c.n = .ok p ∧
      writeCause s1 o.qn q p = none ∧ writeHeld s1 o.qn p = false ∧ (∀ x ∈ destPieces c p.x p.walked, deniedClass s1 q x = none) ∧
      s2 = notePieces s1 q none (dieOf o.core) true [p] ∧ b = p.pa

/-- Deliveries (14 R406, R407, R417, R418): a transfer of one row moves exactly its bytes, whether its operands are scratchpad or memory; one of several
rows within a scratchpad moves the bytes of every row, those of the higher row staying where rows meet. A transfer lands in one event (log 83, a choice).
A multicast whose source is read delivers to a position, which is then done. The delivered bytes are owed to the barrier; a decrement counts bytes there,
but for one that may be the last while the issuer's own delivery is still to come (14 R409). -/
def DeliveryClaim : Prop := ∀ (s : State) (id : Nat) (o : Op) (c : Copy) (q : Queue) (tm : Team), tabGet s.ops id = some o → o.body = .copy c →
  opQueue s o = some q → c.fault = 0 → s.Inv →
  (∀ pos ∈ c.todo, c.cpym = false → c.rows = 1 → c.srcSp = .spad → c.dstSp = .spad → spadHome s o.team = .live tm → teamTag s tm c.dst c.n = none →
    ∃ t, exec (.multicastDelivery id pos) s = .next t ∧ (∀ j < c.n, t.byteAt (tm.spadAt c.dst + j) = s.byteAt (tm.spadAt c.src + j)) ∧
      (∀ a, ¬ (tm.spadAt c.dst ≤ a ∧ a < tm.spadAt c.dst + c.n) → t.byteAt a = s.byteAt a) ∧
      tabGet t.ops id = some { o with body := .copy ((c.did 0).owe 0 c.n) } ∧ ∀ n, ∀ x ∈ (t.core n).locks, x.op ≠ id) ∧
  (∀ pos ∈ c.todo, ∀ s1 s2 a b, c.cpym = false → c.rows = 1 → ReadsFrom s s1 o c q tm a → WritesTo s s1 s2 o c q tm b →
    ∃ t, exec (.multicastDelivery id pos) s = .next t ∧ (∀ j < c.n, t.byteAt (b + j) = s.byteAt (a + j)) ∧
      (∀ z, ¬ (b ≤ z ∧ z < b + c.n) → t.byteAt z = s2.byteAt z) ∧
      tabGet t.ops id = some { o with body := .copy ((c.did 0).owe 0 c.n) } ∧ ∀ n, ∀ x ∈ (t.core n).locks, x.op ≠ id) ∧
  (∀ pos ∈ c.todo, c.cpym = false → c.srcSp = .spad → c.dstSp = .spad → spadHome s o.team = .live tm →
    let row := fun (r j : Nat) => tm.spadAt (c.dst + r * c.dpitch + j)
    let from_ := fun (r j : Nat) => tm.spadAt (c.src + r * c.spitch + j)
    (∀ r < c.rows, teamTag s tm (c.dst + r * c.dpitch) c.n = none) → (∀ r < c.rows, ∀ j < c.n, ∀ r' < c.rows, ∀ j' < c.n, row r j ≠ from_ r' j') →
    ∃ t, exec (.multicastDelivery id pos) s = .next t ∧
      (∀ r < c.rows, ∀ j < c.n, (∀ r' < c.rows, ∀ j' < c.n, r < r' → row r' j' ≠ row r j) → t.byteAt (row r j) = s.byteAt (from_ r j)) ∧
      (∀ z, (∀ r < c.rows, ∀ j < c.n, row r j ≠ z) → t.byteAt z = s.byteAt z) ∧
      tabGet t.ops id = some { o with body := .copy ((c.did 0).owe 0 (c.rows * c.n)) }) ∧
  (∀ pos ∈ c.todo, ∀ bs, c.cpym = true → c.buf = some bs → spadHome s (receiver s o pos) = .live tm → teamTag s tm c.dst bs.length = none →
    ∃ t, exec (.multicastDelivery id pos) s = .next t ∧ (∀ j < bs.length, t.byteAt (tm.spadAt c.dst + j) = bs.getD j 0) ∧
      (∀ a, ¬ (tm.spadAt c.dst ≤ a ∧ a < tm.spadAt c.dst + bs.length) → t.byteAt a = s.byteAt a) ∧
      tabGet t.ops id = some { o with body := .copy ((c.did pos).owe pos bs.length) } ∧ (c.did pos).todo = c.todo.filter (fun p => p != pos)) ∧
  ∀ pos n off, c.bar = some off → 0 < n → n ≤ 4096 → n ≤ (tabGet c.owed pos).getD 0 →
    spadHome s (if c.cpym then receiver s o pos else o.team) = .live tm → tm.saved = false → tagged s (tm.spadAt off) = true →
    (mayBeLast s o c pos n = true → exec (.barrierDecrement id pos n) s = .next s) ∧
    (mayBeLast s o c pos n = false → ∃ t, exec (.barrierDecrement id pos n) s = .next t ∧ t.mem = (decrBar s (tm.spadAt off) n).mem ∧
      ∃ c', tabGet t.ops id = some { o with body := .copy c' } ∧ { c' with owed := c.owed } = c ∧
        (tabGet c'.owed pos).getD 0 = (tabGet c.owed pos).getD 0 - n ∧ ∀ j, j ≠ pos → tabGet c'.owed j = tabGet c.owed j)

/-- A copy operation completes (14 R411 to R413): with nothing left to deliver or to count it is gone with its entries, and its stamp, where it has one
that can be written, stands in memory: sequence, causes and drops; no other byte but the marks of the walk has changed. -/
def CopyCompleteClaim : Prop := ∀ (s : State) (id : Nat) (o : Op) (c : Copy) (q : Queue), tabGet s.ops id = some o → o.body = .copy c →
  opQueue s o = some q → c.fault = 0 → c.chain = none → c.todo = [] → c.owed = [] → s.Inv →
  (c.stamp = none → ∃ t, exec (.copyOperationComplete id) s = .next t ∧ tabGet t.ops id = none ∧ t.mem = s.mem) ∧
  (∀ st p, c.stamp = some st → copyPiece s o.qn q (dieOf o.core) true c.retried st.va.toNat 8 = .ok p → writeCause s o.qn q p = none →
    writeHeld s o.qn p = false → ∃ t, exec (.copyOperationComplete id) s = .next t ∧ tabGet t.ops id = none ∧
      t.num p.pa 8 = stampWord st.seq c.cause c.drops c.denied (c.drops != 0) false ∧
      ∀ a, ¬ InWalked [p] a → ¬ (p.pa ≤ a ∧ a < p.pa + 8) → t.byteAt a = s.byteAt a)

/-! ### Chains (14 R422 to R428) -/

/-- Of a team one channel has changed, and of the state only that team. -/
def ChannelIs (s t : State) (key ch : Nat) (x : Channel) : Prop :=
  (∀ k, k ≠ key → tabGet t.teams k = tabGet s.teams k) ∧ ∃ a b, tabGet s.teams key = some a ∧ tabGet t.teams key = some b ∧
    { b with channels := a.channels } = a ∧ b.channel ch = x ∧ ∀ j, j ≠ ch → b.channel j = a.channel j

/-- A unit that changes one channel of its team: its group as by a unit without effect. -/
def ChannelUnit (s t : State) (c : Ctx) (ch : Nat) (x : Channel) : Prop :=
  { t with teams := s.teams } = s ∧ (∀ k, k ≠ c.key → tabGet t.teams k = tabGet s.teams k) ∧
  ∃ tm g', tabGet t.teams c.key = some tm ∧ { tm with groups := c.team.groups, channels := c.team.channels } = c.team.served c.group.num c.split.idx ∧
    tm.channel ch = x ∧ (∀ j, j ≠ ch → tm.channel j = c.team.channel j) ∧ tabGet tm.groups c.group.num = some g' ∧
    (∀ n, n ≠ c.group.num → tabGet tm.groups n = tabGet c.team.groups n) ∧ GroupAfter c {} s.unit.npc g'

/-- `cpyc`, `cpyst`, `cpyx` (14 R424, R426 to R428): a chain starts on an idle or halted channel, which a running one refuses with 0x62; its state is read;
it is cancelled: an idle channel stays, a halted one or one that waits without a stamp is idle, a running one is marked. -/
def ChainUnitClaim : Prop := ∀ (s : State) (c : Ctx) (l : BitVec 4) (ch : BitVec 2), ctx? s = some c → ch.toNat < c.team.channels.length →
  let x := c.team.channel ch.toNat
  (∀ (k : BitVec 3) (ty : BitVec 1) (a : BitVec 4), let head := c.group.kpair (2 * a.toNat)
    canonical head = true → head.toNat % 64 = 0 → stampConds c (stampBlock c ty k) = [] →
    (x.busy = true → ∃ t, exec (.cpyc l k ty a ch) s = .next t ∧ TrapTaken s t c ⟨0x62, ch.toNat, x.at_.toNat, c.split.mask⟩) ∧
    (x.busy = false → EngineFree s c [] → chainsOf s c.core < 4 → copiesOf s c.core + chainsOf s c.core < 32 →
      ∃ t, exec (.cpyc l k ty a ch) s = .next t ∧ ChannelUnit s t c ch.toNat { Channel.idle with
        st := .fetch, at_ := head, stamp := stampBlock c ty k, unit := s.unit.addr, core := c.core, group := c.group.num, split := c.split.idx })) ∧
  (∀ (d : BitVec 4), ∃ t w, exec (.cpyst l d ch) s = .next t ∧
    Completes s t c { k := [(2 * d.toNat, BitVec.ofNat 32 w), (2 * d.toNat + 1, BitVec.ofNat 32 (w / 2 ^ 32))] } ∧
    (x.st = .idle → w = 0) ∧ (x.st ≠ .idle → w / 64 = x.at_.toNat / 64 ∧
      w % 4 = (match x.st with | .halt => 3 | .wait => 2 | _ => 1) ∧ w / 4 % 16 = (if x.st = .halt then x.cause % 16 else 0))) ∧
  (x.st = .idle → ∃ t, exec (.cpyx l ch) s = .next t ∧ Completes s t c {}) ∧
  (x.st = .halt → ∃ t, exec (.cpyx l ch) s = .next t ∧ ChannelUnit s t c ch.toNat Channel.idle) ∧
  (x.st = .wait → x.ending = none → x.stamp = none → ∃ t, exec (.cpyx l ch) s = .next t ∧ ChannelUnit s t c ch.toNat Channel.idle) ∧
  ((x.st = .fetch ∨ x.st = .run) → ∃ t, exec (.cpyx l ch) s = .next t ∧ ChannelUnit s t c ch.toNat { x with cancel := true, ending := x.ending.map (fun _ => .idle) })

/-- Records of a chain (14 R423, R425, R426): a fetched record without `own` makes its channel wait; one that is well formed and fits starts its operation;
a waiting channel reads again after 4,096 cycles, when the record's line has changed, or by the choice 1 for a write that left it as it was; a record without a stamp that ran gets its word back, `own` cleared, and the channel
fetches the next record, or is idle after the last. -/
def ChainRecordClaim : Prop := ∀ (s : State) (key ch : Nat) (tm : Team) (q : Queue), tabGet s.teams key = some tm → teamQueue s tm = some q →
  ch < 4 → ch < tm.channels.length → let x := tm.channel ch
  x.fault = 0 → x.ending = none →
  (x.st = .fetch → ∀ p, copyPiece s tm.qn q (dieOf x.core) false x.retried x.at_.toNat 64 = .ok p → deniedClass s q p = none → badIn s p.pa 64 = none →
    p.x.region ≠ 1 → let s1 := notePieces s q none (dieOf x.core) false [p]
    let w := s1.num p.pa 64
    let y := { x with word := w, line := chainLine s1 q x }
    (bitOf w 0 = false → x.cancel = false → ∃ t, exec (.chainRecordFetch key ch) s = .next t ∧
      ChannelIs s t key ch { y with st := .wait, since := s.cycle }) ∧
    (bitOf w 0 = true → badRec w = false → recOutside tm (recOf w) = false → recFits s1 key tm (recLocks s1 key ch tm q (recOf w)) = true →
      ∃ t o, exec (.chainRecordFetch key ch) s = .next t ∧ (tabGet t.teams key).map (fun a => a.channel ch) = some { y with st := .run, op := s.nextOp } ∧
        tabGet t.ops s.nextOp = some o ∧ o.body = .copy { (recOf w).copy ch with audited := x.audited } ∧ o.team = key)) ∧
  (x.st = .wait → (x.since + 4096 ≤ s.cycle ∨ chainLine s q x ≠ x.line ∨ choice s = 1) → ∃ t, exec (.chainWaitTimeout key ch) s = .next t ∧
    { t with teams := s.teams } = s.chosen ∧ ChannelIs s t key ch { x with st := .fetch, retried := 0 }) ∧
  (x.st = .run → s.Inv → ∀ o c p, tabGet s.ops x.op = some o → o.body = .copy c → c.fault = 0 → c.todo = [] → c.owed = [] → c.stamp = none → c.cause = 0 → c.unstamped = false →
    x.cancel = false → x.cause = 0 → copyPiece s o.qn q (dieOf o.core) true c.retried x.at_.toNat 8 = .ok p → writeCause s o.qn q p = none →
    writeHeld s o.qn p = false → ((recOf x.word).next ≠ 0 ∨ x.stamp = none) →
    ∃ t, exec (.chainRecordComplete key ch) s = .next t ∧ t.num p.pa 8 = backWord x.word (rstatOf c) ∧ bitOf (t.num p.pa 8) 0 = false ∧
      tabGet t.ops x.op = none ∧
      ((recOf x.word).next ≠ 0 → ∃ y, (tabGet t.teams key).map (fun a => a.channel ch) = some y ∧ y.st = .fetch ∧ y.at_.toNat = (recOf x.word).next) ∧
      ((recOf x.word).next = 0 → x.stamp = none → (tabGet t.teams key).map (fun a => a.channel ch) = some Channel.idle))

/-! ### Links and peers (15 R430 to R445) -/

/-- A link operation is in flight under a name: its unit has ended, the names `made` that it is to write hold a value from now on (04 R122, R123) and no
other register has changed, the split gained a lookahead window, and the record of the operation is as `P` says. -/
def LinkIssued (s t : State) (c : Ctx) (look id : Nat) (made : List Nat) (P : Link → Prop) : Prop :=
  ∃ l g', tabGet t.ops id = some { opOf s c c.split.mask (.link l) with made := made } ∧ P l ∧ groupOf t c.key c.group.num = some g' ∧
    RegsAfter c.live { v := made.map (fun n => (n, 0xffffffff#32, fun _ => 0)) } g' ∧
    g'.splits = (wentOn c.live c.split.idx s.unit.npc).map
      (fun sp => if sp.idx = c.split.idx then { sp with windows := sp.windows ++ [(id, look)] } else sp)

/-- The requests of lanes as `lld` and `lgat` send them: one for each lane, for its bytes at its remote address, none answered. -/
def LaneRequests (c : Ctx) (rs : List LinkReq) (ea : Nat → Nat) (n dev rq : Nat) : Prop :=
  rs.map (fun r => (r.lane, r.va, r.n)) = (lanesOf c.split.mask).map (fun x => (x, BitVec.ofNat 64 (ea x), n)) ∧
  ∀ r ∈ rs, r.dev = dev ∧ r.rq = rq ∧ r.kind = kindFetch ∧ r.done = none ∧ r.got = []

/-- `lld` and `lgat` at issue (15 R437, R438): an unbound slot traps 0x73; otherwise one request leaves for each lane and the operation waits for the
answers, `lgat` with its destination rows locked. -/
def LinkLoadClaim : Prop := ∀ (s : State) (c : Ctx) (l : BitVec 4) (a : BitVec 5) (p : BitVec 4), ctx? s = some c → replayFull s c = false →
  let ea := pairEa c.group a
  (∀ (d : BitVec 6) (z : BitVec 2), let n := sizeOf z
    let e : Eff := { v := loadWrites d.toNat n c.split.mask (fun _ => 0) }
    remoteConds c ea n = [] → Fits s c e →
    (peerSlot s c.q p.toNat = none → ∃ t, exec (.lld l d a p z) s = .next t ∧ TrapTaken s t c ⟨0x73, p.toNat, c.team.queue, c.split.mask⟩) ∧
    (∀ base dev rq, peerSlot s c.q p.toNat = some (base, dev, rq) → EngineFree s c [] → ∃ t id, exec (.lld l d a p z) s = .next t ∧ t.mem = s.mem ∧
      LinkIssued s t c l.toNat id (created c.live e) (fun x => x.form = .lld ∧ x.peer = p.toNat ∧ x.size = n ∧ x.vd = d.toNat ∧ x.begun = true ∧
        LaneRequests c x.reqs ea n dev rq))) ∧
  (∀ (d : BitVec 3) (q : BitVec 2) (nt : BitVec 1), let dst := (c.group.kread (8 * q.toNat)).toNat
    let len := (c.group.kread (8 * q.toNat + 1)).toNat
    let rng := gatherRng c.split.mask dst len
    remoteConds c ea 4 = [] → rngConds s c false rng = [] → len % 4 = 0 → 4 ≤ len → len ≤ 2048 → dst % 4 = 0 →
    ∀ base dev rq, peerSlot s c.q p.toNat = some (base, dev, rq) → EngineFree s c [rng] → ∃ t id, exec (.lgat l d a p q nt) s = .next t ∧ t.mem = s.mem ∧
      (t.core c.core).locks = (s.core c.core).locks ++ rngLocks s c [rng] id ∧
      LinkIssued s t c l.toNat id [] (fun x => x.form = .lgat ∧ x.peer = p.toNat ∧ x.dst = dst ∧ x.len = len ∧ x.pd = d.toNat ∧ x.nt = (nt == 1) ∧
        x.begun = true ∧ LaneRequests c x.reqs ea len dev rq))

/-- `lwr`, `lred`, `mxr` at issue (15 R439, R440, R442): an operation that no condition stops is in flight with its ranges and its stamp; the data of a
scratchpad source leaves at once, in the order of its addresses, and with it the source's lock. -/
def LinkSendClaim : Prop := ∀ (s : State) (c : Ctx) (l : BitVec 4) (q : BitVec 2) (st : BitVec 1) (k : BitVec 3), ctx? s = some c →
  (∀ (red : Bool) (p : BitVec 4) (sp r : BitVec 1) (y : BitVec 2),
    let v := sendBlock c (if red then .lred else .lwr) p q sp st r k (if red then y.toNat else 0)
    boundConds s c v.srcRng = [] → boundConds s c { sp := .mem, addr := v.dst, n := v.len, write := false } = [] → stampConds c v.stamp = [] →
    (peerSlot s c.q p.toNat).isSome = true → 0 < v.len → v.len ≤ 16777215 → (red = true → v.dst % 4 = 0 ∧ v.src % 4 = 0 ∧ v.len % 4 = 0) →
    EngineFree s c [v.srcRng] →
    ∃ t, exec (if red then .lred l p q sp st r k y else .lwr l p q sp st r k) s = .next t ∧
      LinkIssued s t c l.toNat s.nextOp [] (fun x => x.form = v.form ∧ x.peer = v.peer ∧ x.dst = v.dst ∧ x.src = v.src ∧ x.srcSp = v.srcSp ∧ x.len = v.len ∧
        x.ty = v.ty ∧ x.rs = v.rs ∧ x.stamp = v.stamp ∧
        (v.srcSp = .spad → spadHome s c.key = .live c.team → x.begun = true ∧ x.reqs.flatMap (·.data) = s.bytes (c.team.spadAt v.src) v.len ∧
          ∀ z ∈ (t.core c.core).locks, z ∈ (s.core c.core).locks))) ∧
  (∀ (f : BitVec 3) (fmt : QFmt), mxfmtOf f.toNat = some fmt → let kq := 8 * q.toNat
    let nb := (c.group.kread (kq + 6)).toNat % 4096 + 1
    let desc := (c.group.kpair kq).toNat
    let rng := fun (i : Nat) (w : Bool) => ({ sp := .mem, addr := (c.group.kpair i).toNat, n := (fmt.blockBytes + 1) * nb, write := w } : Rng)
    (∀ x ∈ collReads s c desc, ∃ p, x.opens s p) → rngConds s c false (rng (kq + 2) false) = [] → rngConds s c false (rng (kq + 4) true) = [] →
    stampConds c (stampBlock c st k) = [] → (rng (kq + 2) false).addr % 4 = 0 → (rng (kq + 4) true).addr % 4 = 0 →
    ∀ p, ((collReads s c desc).head?).bind (·.piece) = some p → let w := natOfBytes (readPiece s c.q p)
    badColl s c.q c.team.queue desc (collOf w) = false → s.migrations = [] → EngineFree s c [rng (kq + 2) false, rng (kq + 4) true] →
    ∃ t, exec (.mxr l f q st k) s = .next t ∧
      LinkIssued s t c l.toNat s.nextOp [] (fun x => x.form = .mxr ∧ x.fmt = fmt ∧ x.nb = nb ∧ x.desc = w ∧ x.len = (fmt.blockBytes + 1) * nb ∧
        x.until_ = s.cycle + 1024 * (collOf w).tmo ∧ x.stamp = stampBlock c st k))

/-- A port that brought a sound flit: one that is up has not failed (17 R474). -/
def Heard (s t : State) (port : Nat) : Prop := ∀ n p, tabGet s.ports n = some p →
  tabGet t.ports n = some (if n = port ∧ p.up = true then { p with failedAt := none } else p)

/-- Flits that arrive (15 R431 to R433, 17 R470): a check that fails changes nothing; a reserved field that is not zero drops the flit and counts it; a flit for
another device leaves on a port towards it, unread; a response reaches exactly the requests of its tag that wait; a management flit from a remote owner brings its
command record (log 101). A response of status 1 to 4 without data ends its request; bytes that the peer denied, and bytes of a class that the queue does not admit,
are taken as zeros; a read is answered when all its bytes are there. -/
def FlitClaim : Prop :=
  (∀ (s : State) (port : Nat) (h : BitVec 160) (bs : List Byte), port < 12 →
    (∃ t, exec (.flitArrival port h bs false) s = .next t ∧ t = s) ∧
    ((bitsOf h.toNat 0 8 ≠ 0 ∨ bitsOf h.toNat 12 3 ≠ 0) → ∃ t, exec (.flitArrival port h bs true) s = .next t ∧ Heard s t port ∧
      { t with fw := s.fw, ports := s.ports } = s ∧ { t.fw with droppedFlits := s.fw.droppedFlits } = s.fw ∧ t.fw.droppedFlits = s.fw.droppedFlits + 1) ∧
    (bitsOf h.toNat 0 8 = 0 → bitsOf h.toNat 12 3 = 0 → hdrDest h ≠ Config.device % 65536 → firstPort s (hdrDest h) < 12 →
      ∃ t f, exec (.flitArrival port h bs true) s = .next t ∧ Heard s t port ∧ { t with sent := s.sent, ports := s.ports } = s ∧ t.sent = f :: s.sent ∧
        f.header = h ∧ f.payload = bs ∧ f.port = firstPort s (hdrDest h)) ∧
    (bitsOf h.toNat 0 8 = 0 → bitsOf h.toNat 12 3 = 0 → hdrDest h = Config.device % 65536 → bitsOf h.toNat 15 3 = 0 →
      bitsOf h.toNat 18 6 = (Config.flitOp kindCommand).toNat → Config.flitOp kindCommand ≠ Config.flitOp kindReply → hdrLen h = 64 →
      ∀ k < 2, hdrSource h = Config.ownerDevice k % 65536 → (k = 1 → Config.ownerDevice 0 % 65536 ≠ Config.ownerDevice 1 % 65536) →
      ∃ t, exec (.flitArrival port h bs true) s = .next t ∧ Heard s t port ∧ { t with fw := s.fw, ports := s.ports } = s ∧
        { t.fw with mail := s.fw.mail } = s.fw ∧
        t.fw.mail = s.fw.mail ++ [⟨if k = 0 then .remote0 else .remote1, natOfBytes (bs.take 64), s.fw.cmdTail⟩]) ∧
    (bitsOf h.toNat 0 8 = 0 → bitsOf h.toNat 12 3 = 0 → hdrDest h = Config.device % 65536 → bitsOf h.toNat 18 6 = (Config.flitOp kindReply).toNat →
      ∃ t, exec (.flitArrival port h bs true) s = .next t ∧ Heard s t port ∧ { t with ops := s.ops, ports := s.ports } = s ∧
        (∀ id o, tabGet s.ops id = some o → (∀ l, o.body ≠ .link l) → tabGet t.ops id = some o) ∧
        ∀ id o l q, tabGet s.ops id = some o → o.body = .link l → opQueue s o = some q →
          tabGet t.ops id = some { o with body := .link { l with reqs := l.reqs.map (fun r =>
            if l.begun && r.done.isNone && r.tag == hdrTag h then r.receive q h (bs.take (hdrLen h)) else r) } })) ∧
  ∀ (r : LinkReq) (q : Queue) (h : BitVec 160) (bs : List Byte),
    (hdrStatus h = 1 → bs = [] → (r.receive q h bs).done = some .denied) ∧ (4 ≤ hdrStatus h → (r.receive q h bs).done = some .refused) ∧ (hdrStatus h = 2 → (r.receive q h bs).done = some .unmapped) ∧
    (hdrStatus h = 3 → (r.receive q h bs).done = some .uncorrectable) ∧
    (hdrStatus h = 1 → bs ≠ [] → (r.receive q h bs).got = r.got ++ List.replicate bs.length 0) ∧
    (hdrStatus h = 0 → admits q (hdrClass h) = false → (r.receive q h bs).got = r.got ++ List.replicate bs.length 0 ∧
      (bs ≠ [] → r.denied = none → (r.receive q h bs).denied = some (hdrClass h, bs.length))) ∧
    (hdrStatus h = 0 → admits q (hdrClass h) = true → (r.receive q h bs).got = r.got ++ bs ∧
      (r.kind = kindFetch → (r.got ++ bs).length < r.n → (r.receive q h bs).done = none) ∧
      (r.kind = kindFetch → r.n ≤ (r.got ++ bs).length →
        (r.receive q h bs).done = some (.arrived ((r.got ++ bs).take r.n) [])))

/-- Peers' requests (15 R430, R431, R435, R441, R443): a tag that was answered is answered alike and performed no second time; a rank's contribution is kept, or
dropped where its operation has ended without it (log 14);
another request outside the canonical range is unmapped; one whose payload is of a class that the bound queue does not admit is denied, and so is a write of
which a byte is denied; a read delivers the bytes of the bound queue's address space, a write leaves its bytes there. -/
def PeerRequestClaim : Prop := ∀ (s : State) (r : PeerReq) (q : Queue), tabGet s.queues r.queue = some q → r.port < 12 →
  let said := fun (t : State) (x : Remote) => t.answers = { dev := r.dev, tag := r.tag, at_ := s.cycle, res := x } :: s.answers
  (∀ a, answered s r = some a → ∃ t, exec (.peerRequest r) s = .next t ∧ { t with sent := s.sent } = s ∧ t.sent.length > s.sent.length) ∧
  (∀ bs, answered s r = none → r.act = .reduce bs → ∃ t, exec (.peerRequest r) s = .next t ∧ said t (.arrived [] []) ∧ t.mem = s.mem ∧
    let given := s.inbox.find? (fun y => y.void && y.queue == r.queue && y.dev == r.dev && y.rank == r.squeue && y.cid == natOfBytes (bs.take 4))
    (given = none → t.inbox = s.inbox ++ [{ queue := r.queue, dev := r.dev, rank := r.squeue, port := r.port, runs := r.runs, bytes := bs, void := false }]) ∧
    ∀ y, given = some y → t.inbox = s.inbox.erase y) ∧
  (answered s r = none → (∀ bs, r.act ≠ .reduce bs) →
    (canonical r.va = false → ∃ t, exec (.peerRequest r) s = .next t ∧ said t .unmapped ∧ t.mem = s.mem) ∧
    (canonical r.va = true → (barredPayload r q).isSome = true → ∃ t, exec (.peerRequest r) s = .next t ∧ said t .denied) ∧
    ∀ ps, canonical r.va = true → barredPayload r q = none → reach s q none none (r.port / 3) (peerWrites r.act) r.va.toNat (peerSize r.act) = .ok ps →
      (peerWrites r.act = true → (∃ p ∈ ps, 0 < deniedCount s q p) → ∃ t, exec (.peerRequest r) s = .next t ∧ said t .denied) ∧
      (s.wc = [] → (∀ p ∈ ps, deniedClass s q p = none ∧ peerBad s r q p = false ∧ peerRefused s r q p = false ∧ writeHeld s r.queue p = false) →
        let s1 := notePieces s q none (r.port / 3) (peerWrites r.act) ps
        (∀ n, r.act = .fetch n → ∃ t runs, exec (.peerRequest r) s = .next t ∧ said t (.arrived (readPieces s1 q ps) runs) ∧ t.mem = s1.mem) ∧
        ∀ bs, r.act = .store bs → ∃ t, exec (.peerRequest r) s = .next t ∧ said t (.arrived [] []) ∧ t.mem = (writePieces s1 ps bs).mem))

/-- Failures (15 R435): a request that waits on a port that fails goes to the next port, its partial data discarded; 2^20 cycles after it was first sent
it fails. -/
def PortClaim : Prop := ∀ (s : State) (id : Nat) (o : Op) (l : Link) (q : Queue), (s.ops.map (·.1)).Nodup → tabGet s.ops id = some o →
  o.body = .link l → opQueue s o = some q →
  (∀ port, ∃ t, exec (.portFailure port) s = .next t ∧ t.mem = s.mem ∧ t.teams = s.teams ∧
    (∀ p, tabGet s.ports port = some p → tabGet t.ports port = some { p with failedAt := some (p.failedAt.getD (wallNow s)) }) ∧
    tabGet t.ops id = some { o with body := .link { l with reqs := l.reqs.map (fun r =>
      if l.begun && r.done.isNone && r.port == port && decide (s.cycle < r.sent + 2 ^ 20) then { r with port := nextPort s r.dev port, got := [], denied := none } else r) } }) ∧
  ∀ lane, ∃ t, exec (.linkRetryTimeout id lane) s = .next t ∧ { t with ops := s.ops } = s ∧ (∀ n, n ≠ id → tabGet t.ops n = tabGet s.ops n) ∧
    tabGet t.ops id = some { o with body := .link { l with reqs := l.reqs.map (fun r =>
      if r.lane == lane && r.done.isNone && decide (r.sent + 2 ^ 20 ≤ s.cycle) then { r with done := some .failed, got := [] } else r) } }

/-- The bytes of a written stamp: at its place, of which nothing but the marks of its walk are elsewhere. -/
def Stamped (s t : State) (p : Piece) (w : Nat) : Prop := t.num p.pa 8 = w ∧ ∀ a, ¬ InWalked [p] a → ¬ (p.pa ≤ a ∧ a < p.pa + 8) → t.byteAt a = s.byteAt a

/-- Link operations end (15 R437 to R440, R443, R444): with every answer there `lld` writes its lanes' registers, `lgat` its rows, a denied one as zeros, and its
predicate, in which exactly the lanes whose row came, or was denied, are set; `lwr` and `lred` end, with their first cause in a local stamp, or as one request more to
the peer in a remote one; `mxr` whose ranks have all contributed writes the sum of their runs; one whose ranks are missing at its time ends with cause 7 in its stamp,
or with cause 6 where such a rank has contributed under another identifier (log 14), and no other byte of memory but the marks of the stamp's walk changes. -/
def LinkCompleteClaim : Prop := ∀ (s : State) (id : Nat) (o : Op) (l : Link) (q : Queue) (c : Ctx), tabGet s.ops id = some o → o.body = .link l →
  opQueue s o = some q → opCtxAny s o = some c → o.halted = false → l.fault = 0 → c.live.splits ≠ [] →
  (l.begun = true → (∀ r ∈ l.reqs, r.denied = none ∧ ∃ bs cls, r.done = some (.arrived bs cls)) →
    (l.form = .lld → ∃ t, exec (.linkOperationComplete id) s = .next t ∧ tabGet t.ops id = none ∧ t.mem = s.mem ∧
      groupOf t o.team o.group = some (c.group.apply { v := loadWrites l.vd l.size o.lanes (reqNum l.reqs) })) ∧
    (l.form = .mxr → l.shape = 0 → l.cause = 0 → l.stamp = none → s.Inv → ∀ xs p, contributions s o l = some xs →
      (∀ x ∈ xs, (delivered q x).2 = none ∧ (delivered q x).1.take 8 = collHead (collOf l.desc) l.fmt l.nb) →
      let run := mxrRun l.fmt l.nb (l.run :: xs.map (fun x => (delivered q x).1.drop 8))
      pageCuts l.dst run.length = [(l.dst, run.length)] → copyPiece s o.qn q (dieOf o.core) true l.retried l.dst run.length = .ok p →
      writeCause s o.qn q p = none → writeHeld s o.qn p = false → ∃ t, exec (.linkOperationComplete id) s = .next t ∧ tabGet t.ops id = none ∧
        t.inbox = xs.foldl List.erase s.inbox ∧ t.bytes p.pa run.length = run ∧
        ∀ a, ¬ InWalked [p] a → ¬ (p.pa ≤ a ∧ a < p.pa + run.length) → t.byteAt a = s.byteAt a)) ∧
  (l.begun = true → l.form = .lgat → l.pd ≠ 0 → s.Inv → (l.reqs.map (·.lane)).Nodup →
    (∀ r ∈ l.reqs, r.denied = none ∧ (r.done = some .denied ∨ ∃ bs cls, r.done = some (.arrived bs cls)) ∧ r.bytes.length = l.len ∧
      teamTag s c.team (l.dst + l.len * r.lane) l.len = none) →
    ∃ t g', exec (.linkOperationComplete id) s = .next t ∧ tabGet t.ops id = none ∧ groupOf t o.team o.group = some g' ∧
      g'.v = c.group.v ∧ (∀ x < 32, (g'.pread l.pd).getLsbD x =
        if o.lanes.getLsbD x then l.reqs.any (fun r => r.lane == x) else (c.group.pread l.pd).getLsbD x) ∧
      (∀ r ∈ l.reqs, ∀ j < l.len, t.byteAt (c.team.spadAt (l.dst + l.len * r.lane) + j) = r.bytes.getD j 0) ∧
      ∀ a, (∀ r ∈ l.reqs, ¬ (c.team.spadAt (l.dst + l.len * r.lane) ≤ a ∧ a < c.team.spadAt (l.dst + l.len * r.lane) + l.len)) → t.byteAt a = s.byteAt a) ∧
  (l.begun = true → (l.form = .lwr ∨ l.form = .lred) → (∀ r ∈ l.reqs, r.done.isSome = true) →
    let k := if l.cause ≠ 0 then l.cause else ((l.reqs.map outcomeCause).filter (· != 0)).headD 0
    (l.shape = 1 → ∃ t, exec (.linkOperationComplete id) s = .next t ∧ tabGet t.ops id = none ∧ t.mem = s.mem) ∧
    (l.shape ≠ 1 → l.stamp = none → ∃ t, exec (.linkOperationComplete id) s = .next t ∧ tabGet t.ops id = none ∧ t.mem = s.mem) ∧
    ∀ st, l.shape ≠ 1 → l.stamp = some st →
      (∀ p, l.rs = false → s.Inv → copyPiece s o.qn q (dieOf o.core) true l.retried st.va.toNat 8 = .ok p → writeCause s o.qn q p = none →
        writeHeld s o.qn p = false → ∃ t, exec (.linkOperationComplete id) s = .next t ∧ tabGet t.ops id = none ∧
          Stamped s t p (stampWord st.seq k 0 l.denied false false)) ∧
      ∀ base dev rq, l.rs = true → peerSlot s q l.peer = some (base, dev, rq) → ∃ t r, exec (.linkOperationComplete id) s = .next t ∧ t.mem = s.mem ∧
        tabGet t.ops id = some { o with body := .link { l with cause := k, reqs := [r], shape := 1 } } ∧ r.va = st.va ∧ r.n = 8 ∧ r.kind = kindStore ∧
        r.data = bytesOf 8 (stampWord st.seq k 0 l.denied false false) ∧ r.dev = dev ∧ r.rq = rq ∧ r.done = none) ∧
  (l.form = .mxr → l.shape = 0 → l.until_ ≤ s.cycle → (l.begun = false ∨ (∃ r ∈ l.reqs, r.done = none) ∨ contributions s o l = none) →
    let ranks := if l.reqs = [] then mxrRanks s q l else l.reqs
    let k := if ranks.any (fun r => (strayOf s id o l r).isSome) then 6 else 7
    (l.stamp = none → ∃ t, exec (.mxrTimeout id) s = .next t ∧ tabGet t.ops id = none ∧ t.mem = s.mem) ∧
    (∀ st p, l.stamp = some st → s.Inv → copyPiece s o.qn q (dieOf o.core) true l.retried st.va.toNat 8 = .ok p → writeCause s o.qn q p = none →
      writeHeld s o.qn p = false → ∃ t, exec (.mxrTimeout id) s = .next t ∧ tabGet t.ops id = none ∧ Stamped s t p (stampWord st.seq k 0 l.denied false false)))

/-! ### The distributor (16 R448 to R455, R465 to R468) -/

/-- A state as another but for its queues, and the bytes of memory and marks that a write of a descriptor leaves. -/
def withQueues (s t : State) : State :=
  { s with queues := t.queues, mem := t.mem, bad := t.bad, spadDirty := t.spadDirty, l1Lines := t.l1Lines, migrations := t.migrations }

/-- A queue's events have reached a launch's count, modulo 2^32 (16 R453). -/
def eventReached (s : State) (r : Launch) : Prop :=
  ((match tabGet s.queues r.evQueue with | some e => e.events % 2 ^ 32 | none => 0) + 2 ^ 32 - r.evCount) % 2 ^ 32 < 2 ^ 31

/-- A grid is launched (16 R454): its teams are READY with their first split at the entry, and its queue is past the record. -/
structure Launched (s t : State) (qn grid : Nat) (qu : Queue) (r : Launch) (table : List Nat) : Prop where
  made : tabGet t.grids grid = some (Grid.of qn r [] table)
  past : tabGet t.queues qn = some { qu with lhead := (qu.lhead + 1) % 2 ^ 32, waiting := none }
  ready : ∀ n < r.teams, tabGet t.teams (teamKey grid n) = some (Team.start qn grid n r.groups r.spad s.cycle r.entry [])

/-- Doorbells and launches (16 R448, R451 to R454; what a refused record leaves, logs 50 and 51): a doorbell moves `ltail` forward within the ring, and any other value is counted; a record that the
checks refuse makes a refused grid with one trap record; one without dependences and arguments is launched at once; one whose event is not reached
waits, and is launched once it is. -/
def LaunchClaim : Prop := ∀ (s : State) (qn : Nat) (qu : Queue), tabGet s.queues qn = some qu →
  (∀ (v : DWord), let d := fun (n : Nat) => (n + 2 ^ 32 - qu.lhead) % 2 ^ 32
    let n := v.toNat % 2 ^ 32
    ∃ t, exec (.doorbell qn v) s = .next t ∧ { t with mem := s.mem, bad := s.bad, spadDirty := s.spadDirty, l1Lines := s.l1Lines, migrations := s.migrations, queues := s.queues } = s ∧
      (∀ k, k ≠ qn → tabGet t.queues k = tabGet s.queues k) ∧
      tabGet t.queues qn = some (if d n ≤ 2 ^ qu.llog ∧ d qu.ltail ≤ d n then { qu with ltail := n } else { qu with ignored := qu.ignored + 1 })) ∧
  (qu.qstate = 1 → qu.waiting = none → qu.lhead ≠ qu.ltail →
    let w := s.num (qu.lring + 64 * (qu.lhead % 2 ^ qu.llog)) 64
    let r := recordOf w
    (r.curve = 4 → badRecord w r = true) →
    (∀ code, refusal qu w r false = some code → ∃ t g, exec (.launchRecordRead qn) s = .next t ∧ t.nextGrid = gridAfter s.nextGrid ∧
      tabGet t.grids s.nextGrid = some g ∧ g.refused = true ∧ g.queue = qn ∧ g.launch = r ∧ t.teams = s.teams ∧
      tabGet t.trapRecs s.nextOp = some { queue := qn, bits := gridTrapBits s qn qu s.nextGrid code qu.lhead r.entry.toNat, team := none } ∧
      tabGet t.queues qn = some { qu with lhead := (qu.lhead + 1) % 2 ^ 32, waiting := none }) ∧
    (refusal qu w r false = none → r.depAddr = 0 → r.evOn = false → r.kn = 0 → ∃ t, exec (.launchRecordRead qn) s = .next t ∧
      t.nextGrid = gridAfter s.nextGrid ∧ Launched s t qn s.nextGrid qu r []) ∧
    (refusal qu w r false = none → r.depAddr = 0 → r.evOn = true → ¬ eventReached s r → ∃ t, exec (.launchRecordRead qn) s = .next t ∧
      t.teams = s.teams ∧ t.grids = s.grids ∧ tabGet t.queues qn = some { qu with
        waiting := some { index := qu.lhead, grid := s.nextGrid, launch := r, table := [], stampMet := true, eventMet := false } })) ∧
  (∀ w, qu.qstate = 1 → qu.waiting = some w → w.stampMet = true → (w.eventMet = true ∨ eventReached s w.launch) → w.launch.kn = 0 →
    ∃ t, exec (.dependenceReread qn) s = .next t ∧ Launched s t qn w.grid qu w.launch w.table)

/-- A grid completes (16 R455) once it is over: its queue's events rise by one, its stamp, where it asks for one that can be written, holds the events and how
it ended, and the queue's interrupt is raised where it is enabled. -/
def GridClaim : Prop := ∀ (s : State) (grid : Nat) (g : Grid) (q : Queue), tabGet s.grids grid = some g → tabGet s.queues g.queue = some q →
  g.done = false → gridOver s grid g = true →
  let q1 := { q with events := (q.events + 1) % 2 ^ 48 }
  let s1 := raiseEvents { s with grids := tabPut s.grids grid { g with done := true } } g.queue
  let irqs := if q.irqEn then queueVector g.queue :: s.irqs else s.irqs
  (g.launch.doneAddr = 0 → ∃ t, exec (.gridComplete grid) s = .next t ∧ tabGet t.grids grid = some { g with done := true } ∧
    tabGet t.queues g.queue = some q1 ∧ t.irqs = irqs ∧ t.teams = s.teams) ∧
  (g.launch.doneAddr ≠ 0 → g.launch.doneAddr.toNat % 8 = 0 → canonical g.launch.doneAddr = true → s.Inv →
    ∀ p, copyPiece s1 0 q1 0 true 0 g.launch.doneAddr.toNat 8 = .ok p → deniedClass s1 q1 p = none → p.readOnly = false →
    (p.x.region = 2 → placeOf s1 p.pa = some .host) →
    badPart s1 p.pa 8 = none → heldByMigration s1 p.pa 8 = false → heldByCycle s1 g.queue g.launch.doneAddr.toNat 8 = false →
    ∃ t, exec (.gridComplete grid) s = .next t ∧ tabGet t.grids grid = some { g with done := true } ∧ tabGet t.queues g.queue = some q1 ∧ t.irqs = irqs ∧
      t.num p.pa 8 = packBits [(48, q1.events), (1, g.killed.toNat), (1, g.refused.toNat), (1, g.failed.toNat)])

/-- `dlaunch` and `qsig` (16 R465 to R468; a stopping target whose ring is full too delivers 2, log 100): a target that the unit's queue may not use traps 0x7B; `qsig` raises the target's events by one; `dlaunch` appends the
64 bytes it reads to the target's ring and delivers 0, or delivers 1 where the ring is full, 2 where the queue is stopped. -/
def QueueUnitClaim : Prop := ∀ (s : State) (c : Ctx) (b : BitVec 5) (l : BitVec 4), ctx? s = some c → let tq := targetOf c b
  (permitted s c tq = false → ∃ t, exec (.qsig l b) s = .next t ∧ TrapTaken s t c ⟨0x7b, tq, c.team.queue, c.split.mask⟩) ∧
  (∀ q, permitted s c tq = true → tabGet s.queues tq = some q → Calm s c → releaseWaits s c = false →
    (∃ t, exec (.qsig l b) s = .next t ∧ Completes { withQueues s t with irqs := t.irqs } t c {} ∧
      t.irqs = (if q.irqEn then queueVector tq :: s.irqs else s.irqs) ∧ tabGet t.queues tq = some { q with events := (q.events + 1) % 2 ^ 48 }) ∧
    ∀ (d : BitVec 5) (a : BitVec 4) (p : Piece), s.Inv →
      (lookAt s c .load none true (lowLane c.split.mask) (c.group.kpair (2 * a.toNat)).toNat 64 64).opens s p →
      let used := (q.ltail + 2 ^ 32 - q.lhead) % 2 ^ 32
      let slot := q.lring + 64 * (q.ltail % 2 ^ q.llog)
      let ends := fun (t : State) (v : Word) => ∃ g', GroupIs s.teams t.teams c g' ∧ GroupAfter c { k := [(d.toNat, v)] } s.unit.npc g'
      (q.qstate = 2 → ∃ t, exec (.dlaunch l d a b) s = .next t ∧ ends t 2 ∧ t.queues = s.queues) ∧
      (q.qstate ≠ 2 → used = 2 ^ q.llog → ∃ t, exec (.dlaunch l d a b) s = .next t ∧ ends t 1 ∧ t.queues = s.queues) ∧
      (q.qstate ≠ 2 → used ≠ 2 ^ q.llog → ∃ t, exec (.dlaunch l d a b) s = .next t ∧ ends t 0 ∧
        tabGet t.queues tq = some { q with ltail := (q.ltail + 1) % 2 ^ 32 } ∧
        ((slot + 64 ≤ q.at_ ∨ q.at_ + 256 ≤ slot) → ∀ j < 64, t.byteAt (slot + j) = s.byteAt (p.pa + j))))

/-! ### Records, drains, saves, fills (04 R110, R127 to R133, 07 R240) -/

/-- Trap and fault records (04 R132, R136, 07 R240, R241, 16 R447): a record is written to the next place of its ring, where the ring has room, and the producer
index rises; a fault record then has its sequence number; a team whose last record is written is PARKED under that policy, and under KILL, or where it could not be saved, its
grid is killed. -/
def RecordClaim : Prop :=
  (∀ (s : State) (f : Nat) (x : FaultRec) (q : Queue), tabGet s.faults f = some x → tabGet s.queues x.queue = some q → x.seq = none → s.Inv →
    (q.fprod + 2 ^ 32 - fcons s q) % 2 ^ 32 ≠ 2 ^ q.flog → let slot := q.fring + 64 * (q.fprod % 2 ^ q.flog)
    (slot + 64 ≤ q.at_ ∨ q.at_ + 256 ≤ slot) → ∃ t, exec (.faultRecordWrite f) s = .next t ∧ tabGet t.faults f = some { x with seq := some q.fprod } ∧
      tabGet t.queues x.queue = some { q with fprod := (q.fprod + 1) % 2 ^ 32 } ∧ t.num slot 64 = (x.bits + 2 ^ 64 * q.fprod) % 2 ^ 512 ∧
      ∀ a, ¬ (slot ≤ a ∧ a < slot + 64) → ¬ (q.at_ ≤ a ∧ a < q.at_ + 256) → t.byteAt a = s.byteAt a) ∧
  ∀ (s : State) (r : Nat) (x : TrapRec) (q : Queue), tabGet s.trapRecs r = some x → tabGet s.queues x.queue = some q → s.Inv →
    s.fw.snapOn.getLsbD 1 = false → (∀ y ∈ s.trapRecs, y.2.queue = x.queue → r ≤ y.1) → (q.tprod + 2 ^ 32 - tcons s q) % 2 ^ 32 ≠ 2 ^ q.tlog →
    let slot := q.tring + 64 * (q.tprod % 2 ^ q.tlog)
    let q' := { q with tprod := (q.tprod + 1) % 2 ^ 32 }
    (slot + 64 ≤ q.at_ ∨ q.at_ + 256 ≤ slot) →
    (x.team = none → ∃ t, exec (.trapRecordWrite r) s = .next t ∧ tabGet t.trapRecs r = none ∧ tabGet t.queues x.queue = some q' ∧
      t.num slot 64 = (x.bits + 2 ^ 64 * q.tprod) % 2 ^ 512 ∧ t.teams = s.teams) ∧
    ∀ k tm g, x.team = some k → tabGet s.teams k = some tm → tabGet s.grids tm.grid = some g → tm.st ≠ .failed →
      (∀ y ∈ s.trapRecs, y.2.team = some k → y.1 = r) →
      (tm.st ≠ .ended → q.policy = true → bitOf x.bits 17 = true → ∃ t, exec (.trapRecordWrite r) s = .next t ∧ tabGet t.trapRecs r = none ∧ tabGet t.queues x.queue = some q' ∧
        t.num slot 64 = (x.bits + 2 ^ 64 * q.tprod + 2 ^ 19 * (decide (0 < tm.pending)).toNat) % 2 ^ 512 ∧
        tabGet t.teams k = some { tm with st := .parked, resumed := false }) ∧
      ((q.policy = false ∨ bitOf x.bits 17 = false) → g.done = false → ∃ t, exec (.trapRecordWrite r) s = .next t ∧ tabGet t.trapRecs r = none ∧
        (tabGet t.grids tm.grid).map (·.killed) = some true)

/-- The regions of a group's part of a frame (04 R130): the first item that a region holds and how many, where it lies, its bytes (their order is that of log 29). -/
def frameItems : List (Nat × Nat × Nat × Nat) :=
  (List.range 8).map (fun r => (8 * r, 8, 1024 * r, 1024)) ++ (List.range 4).map (fun r => (104 + 4 * r, 4, 8192 + 1024 * r, 1024)) ++
  (List.range 8).map (fun r => (120 + r, 1, 12288 + 8192 * r, 8192))

/-- Drains, saves and fills (04 R110, R120, R127 to R131): a team without units in flight whose drain ends goes to SAVING, or stays SHADOW or runs again where it
was only pre-empted; a saved team has its scratchpad in its frame, one more save, and is READY, or waits for its records; a later save writes only the blocks with a
dirty byte and the regions with a dirty item; a filled team's allocation holds its image, or zeros at first. -/
def SaveClaim : Prop := ∀ (s : State) (core i : Nat) (sl : Slot) (tm : Team) (g : Grid), slotAtIdx s core i = some sl → tabGet s.teams sl.team = some tm →
  tabGet s.grids tm.grid = some g → g.killed = false → (s.core core).retiring = false →
  let lo := spadAddr tm.core tm.spadOff
  (sl.st = .draining → teamOps s sl.team = [] → (s.core core).upd = [] → s.wc = [] →
    (tm.cause = .preempt → sl.retain = true → (s.core core).running = none → ∃ t sl', exec (.drainComplete core i) s = .next t ∧
      slotAtIdx t core i = some sl' ∧ sl'.team = sl.team ∧ (sl'.st = .shadow ∨ sl'.st = .running)) ∧
    ((tm.cause ≠ .preempt ∨ sl.retain = false) → pathFree (s.core core) = true → ∃ t, exec (.drainComplete core i) s = .next t ∧
      slotAtIdx t core i = some { sl with st := .saving, since := s.cycle, retain := false, evict := false })) ∧
  (sl.st = .saving → frameOk s tm = true → s.Inv → tm.saves = 0 → (∀ j < tm.spadSize, ∀ k < tm.spadSize, imageAddr tm + j ≠ lo + k) →
    (∀ r ∈ savedRegions tm, ∀ j < r.2, ∀ k < tm.spadSize, tm.frame + r.1 + j ≠ lo + k) →
    slotIdx (s.core core) (fun x => x.team == sl.team && x.st != .empty) = some i → (∀ o ∈ s.ops, o.2.team ≠ sl.team) →
    ∃ t sl' tm', exec (.contextSaveComplete core i) s = .next t ∧ slotAtIdx t core i = some sl' ∧ sl'.st = .empty ∧
      (∀ j < tm.spadSize, t.byteAt (imageAddr tm + j) = s.byteAt (lo + j)) ∧ tabGet t.teams sl.team = some tm' ∧ tm'.saved = true ∧ tm'.saves = tm.saves + 1 ∧
      tm'.st = (if tm.traps ≠ [] then .resident else if 0 < tm.pending then .faulted else .ready) ∧
      ∀ n x, tabGet tm.groups n = some x → tabGet tm'.groups n = some { x with dirty := [], lastPage := [] }) ∧
  (sl.st = .saving → frameOk s tm = true → s.Inv → tm.saves ≠ 0 → (∀ j < tm.spadSize, ∀ k < tm.spadSize, imageAddr tm + j ≠ lo + k) →
    (∀ r ∈ savedRegions tm, ∀ j < r.2, ∀ k < tm.spadSize, tm.frame + r.1 + j ≠ lo + k) → (tm.groups.map (·.1)).Nodup →
    (∀ x ∈ tm.groups, x.1 < tm.groups.length) →
    let dirty := fun (j : Nat) => ∃ x ∈ spadBlocks (lo + 4096 * (j / 4096)) (Nat.min 4096 (tm.spadSize - 4096 * (j / 4096))), x ∈ s.spadDirty
    ∃ t, exec (.contextSaveComplete core i) s = .next t ∧
      (∀ j < tm.spadSize, (dirty j → t.byteAt (imageAddr tm + j) = s.byteAt (lo + j)) ∧ (¬ dirty j → t.byteAt (imageAddr tm + j) = s.byteAt (imageAddr tm + j))) ∧
      ∀ x ∈ tm.groups, ∀ r ∈ frameItems, (∀ d ∈ x.2.dirty, ¬ (r.1 ≤ d ∧ d < r.1 + r.2.1)) → ∀ j < r.2.2.2,
        let a := tm.frame + 8192 + 94208 * x.1 + r.2.2.1 + j
        t.byteAt a = s.byteAt a) ∧
  (sl.st = .filling → s.Inv → (s.core core).running = none → locksFit s core tm.locks.length = true → (tm.saved = true → ∀ j < tm.spadSize, ∀ k < tm.spadSize, imageAddr tm + j ≠ lo + k) →
    ∃ t sl', exec (.teamFillComplete core i) s = .next t ∧ slotAtIdx t core i = some sl' ∧ sl'.team = sl.team ∧ (sl'.st = .shadow ∨ sl'.st = .running) ∧
      (∀ j < tm.spadSize, t.byteAt (lo + j) = if tm.saved then s.byteAt (imageAddr tm + j) else 0) ∧
      (∀ a, ¬ (lo ≤ a ∧ a < lo + tm.spadSize) → t.byteAt a = s.byteAt a) ∧
      tabGet t.teams sl.team = some { tm with
        saved := false, imageTags := [], locks := [], cause := .preempt, resumed := false
        groups := tm.groups.map (fun g => (g.1, { g.2 with dirty := [] })) })

/-! ### Placement, ages, evictions (16 R456 to R464) -/

/-- Placement (16 R458 to R460, R463): a single team that is first to be offered room takes an EMPTY slot of its core, which is FILLING, with its place of the
scratchpad and its budget; a gang is placed whole or, while some core's streaming path is in use, not at all. A team that returns to its rectangle keeps its
offset. Which teams make a gang, and what it asks for, are the model's choices of logs 48 and 49. -/
def PlacementClaim : Prop := ∀ (s : State) (key : Nat) (tm : Team) (g : Grid) (p : Plan) (f : List (Nat × Nat × Nat)),
  (readyTeams s).filter (fun x => x.1 == key) = [(key, tm)] → tabGet s.teams key = some tm → tabGet s.grids tm.grid = some g →
  planFor s s.core key tm = some (p, f) → let parts := partsFor s g key tm
  (∀ core off budget i, parts = [.single key] → p.put = [(key, core)] → earlierFits s [key] tm = false → pathFree (s.core core) = true →
    roomOn s (s.core core) g.launch = some (off, budget) → slotIdx (s.core core) (fun sl => sl.st == .empty) = some i →
    ∃ t, exec (.teamPlacement key) s = .next t ∧ t.mem = s.mem ∧
      slotAtIdx t core i = some { st := .filling, team := key, since := s.cycle, retain := false, evict := false } ∧
      tabGet t.teams key = some { tm with
        st := .resident, core := core, slot := i, spadOff := off, budget := budget, placedAt := s.cycle, framed := true
        frame := ((f.find? (fun x => x.1 == key)).map (fun x => x.2.1)).getD tm.frame
        exempt := g.launch.resonly || decide (2 ≤ tm.aged), levelUp := 0, aged := 0 }) ∧
  (∀ lead, (1 < parts.length ∨ ∃ ts, parts = [.rect ts]) → leadOf s ((readyTeams s).filter (fun x => (parts.flatMap Part.keys).contains x.1)) = some lead →
    earlierFits s (parts.flatMap Part.keys) lead.2 = false →
    ((∃ x ∈ p.put, pathFree (s.core x.2) = false) → ∃ t, exec (.gangPlacement key) s = .next t ∧ t = s) ∧
    ((∀ x ∈ p.put, pathFree (s.core x.2) = true) → ∃ t, exec (.gangPlacement key) s = .next t ∧ t.mem = s.mem ∧
      t.cores = (p.put.foldl (fun a x => placeTeam a g f (keptOff s g.launch x.1) x.1 x.2) s).cores ∧
      t.teams = (p.put.foldl (fun a x => placeTeam a g f (keptOff s g.launch x.1) x.1 x.2) s).teams ∧ tabGet t.served (effLevel s lead.2) = some lead.2.queue))

/-- Ages and evictions (16 R456, R461, R464): a waiting team gains a level every 65,536 cycles; a waiting gang, whose age counts as log 22 says, reaches its first
age, in which its rectangles are kept, and its second, in which the residents that `fewest` picks (log 49) are pre-empted for it: each one that is RUNNING or
DRAINING drains, to be saved; a team of lower level is evicted for one without room. -/
def AgeClaim : Prop := ∀ (s : State) (key : Nat) (tm : Team), (readyTeams s).find? (fun t => t.1 == key) = some (key, tm) →
  tabGet s.teams key = some tm →
  (tm.readySince + 65536 * (tm.levelUp + 1) ≤ s.cycle → effLevel s tm < 15 → ∃ t, exec (.waitingLevelAge key) s = .next t ∧
    { t with teams := s.teams } = s ∧ tabGet t.teams key = some { tm with levelUp := tm.levelUp + 1 } ∧
    ∀ n, n ≠ key → tabGet t.teams n = tabGet s.teams n) ∧
  (∀ g, tabGet s.grids tm.grid = some g → isGang g = true → let own := (partsFor s g key tm).flatMap Part.keys
    own ≠ [] →
    (waitingSince s g tm (partsFor s g key tm) + 65536 ≤ s.cycle → ∃ t, exec (.gangFirstAge key) s = .next t ∧ { t with teams := s.teams } = s ∧
      ∀ n a, tabGet s.teams n = some a → tabGet t.teams n = some (if n ∈ own then { a with aged := Nat.max a.aged 1 } else a)) ∧
    (waitingSince s g tm (partsFor s g key tm) + 1048576 ≤ s.cycle → planFor s s.core key tm = none →
      let used := if g.launch.resonly then (residents s tm.grid).map (fun x => x.2.core) else []
      ∀ r, (partsFor s g key tm).foldl (fun (acc : Option (List Nat × List Nat)) p => acc.bind (fun a =>
        (fewest s g (recordLevel s tm) a.1 a.2 p).map (fun b => (if g.launch.resonly then a.1 ++ b.1.put.map (·.2) else a.1, b.2)))) (some (used, [])) = some r →
      ∃ t, exec (.gangSecondAge key) s = .next t ∧ (∀ n ∈ own, ∀ a, tabGet s.teams n = some a → ∃ b, tabGet t.teams n = some b ∧ b.aged = 2) ∧
        ∀ v ∈ r.2, ∀ vt i sl, tabGet s.teams v = some vt → slotIdx (s.core vt.core) (fun x => x.team == v && x.st != .empty) = some i →
          slotAtIdx s vt.core i = some sl →
          (sl.st = .running → slotIdx (s.core vt.core) (fun x => x.st == .running) = some i →
            slotAtIdx t vt.core i = some { sl with st := .draining, since := s.cycle, retain := false }) ∧
          (sl.st = .draining → slotAtIdx t vt.core i = some { sl with retain := false }))) ∧
  (∀ g v vt i sl, tabGet s.grids tm.grid = some g → isGang g = false → tm.readySince + 4096 ≤ s.cycle → planFor s s.core key tm = none →
    let fits := fun (gone : List Nat) => (planFor s (fun c => vacate (s.core c) gone) key tm).isSome
    let low := (s.teams.filter (fun x => x.2.st == .resident && decide (recordLevel s x.2 < effLevel s tm))).foldl (fun l x => insertVictim s x l) []
    fits [] = false → low.find? (fun x => (leaveWith s x.1 x.2).all (fun k => match tabGet s.teams k with | some v => evictable s none v | none => true) &&
      fits (leaveWith s x.1 x.2)) = some (v, vt) → leaveWith s v vt = [v] → tabGet s.teams v = some vt →
    slotIdx (s.core vt.core) (fun x => x.team == v && x.st != .empty) = some i → slotAtIdx s vt.core i = some sl → sl.st = .running →
    slotIdx (s.core vt.core) (fun x => x.st == .running) = some i →
    ∃ t, exec (.noRoomEviction key) s = .next t ∧ t.mem = s.mem ∧ slotAtIdx t vt.core i = some { sl with st := .draining, since := s.cycle, retain := false })

/-- A time slice ends (16 R464 case 2, 04 R110): the RUNNING team of a core drains and keeps its slot, and of the core's SHADOW teams the one of its level that became
SHADOW first runs, where none is higher. -/
def SliceClaim : Prop := ∀ (s : State) (core i j : Nat) (r w : Slot) (tm : Team) (g : Grid), slotAtIdx s core i = some r → r.st = .running →
  (∀ n x, slotAtIdx s core n = some x → x.st = .running → n = i) → tabGet s.teams r.team = some tm → tabGet s.grids tm.grid = some g → g.launch.resonly = false →
  r.since + 1048576 ≤ s.cycle →
  slotAtIdx s core j = some w → w.st = .shadow → w.evict = false → slotLevel s w = recordLevel s tm →
  (∀ n x, slotAtIdx s core n = some x → x.st = .shadow → x.evict = false →
    slotLevel s x < slotLevel s w ∨ (slotLevel s x = slotLevel s w ∧ (w.since < x.since ∨ (w.since = x.since ∧ j ≤ n)))) →
  ∃ t, exec (.timeSliceExpiry core) s = .next t ∧ t.mem = s.mem ∧ slotAtIdx t core i = some { r with st := .draining, since := s.cycle, retain := true } ∧
    slotAtIdx t core j = some { w with st := .running, since := s.cycle, retain := false } ∧
    (t.core core).running = some { w with st := .running, since := s.cycle, retain := false }

/-! ### Page migration, the host's accesses (07 R233, R234, 03 R108) -/

/-- No command waits behind a migration. -/
def noneWaits (s : State) (g : Nat) : Prop := ∀ x ∈ s.migrations, x.1 ≠ g → x.2.begun = true

/-- A migration step by step (07 R233, R234): the page is copied, then its dirty lines in rounds, at most four; in the hold the leaf is exchanged, where software has not
changed it; after the acknowledgement, or when the hold would last 6,000 cycles or a line is uncorrectable, the migration is gone and its
command has its second reply. -/
def MigrationClaim : Prop := ∀ (s : State) (g : Nat) (m : Migration), tabGet s.migrations g = some m → m.begun = true →
  let sound := fun (ls : List Nat) => ∀ l ∈ ls, badIn s (128 * l) 128 = none
  let gone := fun (t : State) (r : DWord) => tabGet t.migrations g = none ∧ t.replies = { master := m.cmd.1, tag := m.cmd.2, status := 0, r := [r] } :: s.replies
  (m.st = .precopy → s.Inv → m.src % 128 = 0 → m.dest % 128 = 0 → m.size % 128 = 0 → (m.src + m.size ≤ m.dest ∨ m.dest + m.size ≤ m.src) →
    sound m.all → ∃ t, exec (.migrationPrecopyDone g) s = .next t ∧ tabGet t.migrations g = some { m with st := .recopy } ∧
      (∀ j < m.size, t.byteAt (m.dest + j) = s.byteAt (m.src + j)) ∧ ∀ a, ¬ (m.dest ≤ a ∧ a < m.dest + m.size) → t.byteAt a = s.byteAt a) ∧
  (m.st = .precopy → ¬ sound m.all → noneWaits s g → ∃ t, exec (.migrationPrecopyDone g) s = .next t ∧ gone t migChanged) ∧
  (m.st = .recopy → (m.lines ≠ [] ∧ m.rounds < 4 → sound m.lines → ∃ t, exec (.migrationRecopyDone g) s = .next t ∧ t.mem = (copyLines s m m.lines).mem ∧
      tabGet t.migrations g = some { m with rounds := m.rounds + 1, lines := [] }) ∧
    ((m.lines = [] ∨ 4 ≤ m.rounds) → ∃ t, exec (.migrationRecopyDone g) s = .next t ∧ t.mem = s.mem ∧
      tabGet t.migrations g = some { m with st := .final, finalAt := s.cycle })) ∧
  (m.st = .final → s.Inv → s.cycle ≤ m.finalAt + 6000 → sound m.lines → let s1 := copyLines s m m.lines
    let e1 := BitVec.ofNat 64 (s1.num m.leafAt 8)
    (leafCore e1 = leafCore m.e0 → ∃ t, exec (.migrationFlip g) s = .next t ∧ tabGet t.migrations g = some { m with st := .inval, lines := [] } ∧
      t.num m.leafAt 8 = (movedLeaf s1 e1 m.dest m.wasDirty).toNat ∧
      ∀ a, ¬ (m.leafAt ≤ a ∧ a < m.leafAt + 8) → t.byteAt a = s1.byteAt a) ∧
    (leafCore e1 ≠ leafCore m.e0 → noneWaits s g → ∃ t, exec (.migrationFlip g) s = .next t ∧ gone t migChanged)) ∧
  (m.st = .final → (m.finalAt + 6000 < s.cycle ∨ ¬ sound m.lines) → noneWaits s g → ∃ t, exec (.migrationFlip g) s = .next t ∧ gone t migChanged) ∧
  (m.st = .inval → s.cycle ≤ m.finalAt + 6000 → noneWaits s g → ∃ t, exec (.migrationInvalAck g) s = .next t ∧ gone t migDone) ∧
  ((m.st = .final ∨ m.st = .inval) → m.finalAt + 6000 ≤ s.cycle → noneWaits s g → ∃ t, exec (.migrationHoldTimeout g) s = .next t ∧ gone t migChanged)

/-- The host's accesses (03 R108, 13 R392): a write of device memory or of its own, outside descriptors, narrow bodies, frozen objects, and what is moved, changes
exactly its bytes, and the dirty bits of the objects of running cycles that it meets; one that meets a source between FINAL and the acknowledgement is kept, behind
those that came before it; an access to a destination between the flip and the acknowledgement waits. A read of sound bytes closes the write-combining entries that
it meets, and delivers them; one elsewhere delivers free bytes (log 7). -/
def HostClaim : Prop := ∀ (s : State) (at_ : Nat),
  (∀ (bs : List Byte), bs ≠ [] → hostPlace s at_ bs.length = true → heldByMigration s at_ bs.length = false → heldObject s at_ bs.length = false →
    sealedAt s at_ bs.length = false → s.Inv →
    (∀ q ∈ s.queues, overlaps at_ (at_ + bs.length) q.2.at_ (q.2.at_ + 256) = false) → ∃ t, exec (.hostWrite at_ bs) s = .next t ∧
      { t with mem := s.mem, bad := s.bad, spadDirty := s.spadDirty, l1Lines := s.l1Lines, migrations := s.migrations, heaps := s.heaps } = s ∧
      (∀ j < bs.length, t.byteAt (at_ + j) = bs.getD j 0) ∧ (∀ a, ¬ (at_ ≤ a ∧ a < at_ + bs.length) → t.byteAt a = s.byteAt a) ∧
      ∀ k h, tabGet s.heaps k = some h → ∃ h', tabGet t.heaps k = some h' ∧ { h' with cycle := h.cycle } = h ∧ (h.cycle = none → h'.cycle = none) ∧
        ∀ y, h.cycle = some y → ∃ ds, h'.cycle = some { y with dirty := ds } ∧
          ∀ x, x ∈ ds ↔ x ∈ y.dirty ∨ ∃ o ∈ y.objs, o.old = x ∧ ∃ q, tabGet s.queues k = some q ∧ meetsVirtual s q o.old (16 + o.size) at_ bs.length = true) ∧
  (∀ (bs : List Byte), bs ≠ [] → hostPlace s at_ bs.length = true → heldByMigration s at_ bs.length = false → sealedAt s at_ bs.length = false →
    (∀ h, s.heaps.find? (fun h => sourceHolds s h at_ bs.length) = some h → ∃ t, exec (.hostWrite at_ bs) s = .next t ∧ { t with heaps := s.heaps } = s ∧
      tabGet t.heaps h.1 = some { h.2 with cycle := h.2.cycle.map (fun y => { y with held := y.held ++ [(at_, bs)] }) } ∧
      ∀ k, k ≠ h.1 → tabGet t.heaps k = tabGet s.heaps k) ∧
    ((∀ h ∈ s.heaps, sourceHolds s h at_ bs.length = false) → destHolds s at_ bs.length = true → exec (.hostWrite at_ bs) s = .next s)) ∧
  ∀ n, let s1 := closePhys s at_ n
    (s.wc = [] → s1 = s) ∧ s1.hostReads = s.hostReads ∧
    (hostPlace s at_ n = true → (destHolds s at_ n = true ∨ behindHeld s at_ n = true) → exec (.hostRead at_ n) s = .next s) ∧
    (hostPlace s at_ n = true → destHolds s at_ n = false → behindHeld s at_ n = false → hostPlace s1 at_ n = true → badIn s1 at_ n = none → ∃ t, exec (.hostRead at_ n) s = .next t ∧
      { t with hostReads := s1.hostReads } = s1 ∧ t.hostReads = (at_, s1.bytes at_ n) :: s.hostReads) ∧
    (hostPlace s at_ n = false → ∃ t bs, exec (.hostRead at_ n) s = .next t ∧ bs.length = n ∧
      t = { s with hostReads := (at_, bs) :: s.hostReads, fresh := s.fresh + 1 })

/-! ### The Gleaner and the write-combining buffers (01 R32, R33, 12 R363, 13 R392 to R396, R490) -/

/-- A state's memory is that of another with a heap's table entry as it now stands, after the heap's HW fields are written. -/
def Synced (t s : State) (qn : Nat) : Prop := t.mem = (syncHeap { s with heaps := t.heaps, released := t.released } qn).mem

/-- Relocation cycles (13 R392): the bodies are copied, then those of dirty objects again, in at most four rounds, and at the hold the headers say so; the flip,
which raises `ce` and waits for the last heal pass, copies every object with its header and forwards its entry; the acknowledgement performs what was held on the
destinations and releases the sources with the flip's page epoch; the heal pass replaces the stale references of slots, directories and teams (13 R395), or
waits on a record where a directory's translation is invalid (12 R491, log 85). A hold that lasts 6,000 cycles ends the cycle. -/
def CycleClaim : Prop := ∀ (s : State) (qn : Nat) (h : Heap) (q : Queue), tabGet s.heaps qn = some h → tabGet s.queues qn = some q →
  (∀ set, h.trigger ≠ 0 → h.autoAt ≤ s.cycle → largestRun s qn q h < 4096 * h.trigger → ∃ t h', exec (.relocAutoStart qn set) s = .next t ∧
    tabGet t.heaps qn = some h' ∧ h'.autoAt = s.cycle + 2 ^ 20 ∧ (∀ c, h.cycle = some c → h' = { h with autoAt := s.cycle + 2 ^ 20 }) ∧
    (h.cycle = none → ∃ c, h'.cycle = some c ∧ c.st = .copying ∧ c.cmd = none ∧ c.objs.length ≤ 4096 ∧ c.objs = selectSet s qn q h set)) ∧
  (∀ c, h.cycle = some c →
    (c.st = .copying → ∃ t, exec (.relocCopyDone qn) s = .next t ∧ tabGet t.heaps qn = some { h with cycle := some { c with st := .recopy } } ∧
      Synced t (c.objs.foldl (fun a o => copyBody a qn q o) s) qn) ∧
    (c.st = .recopy → ∃ t, exec (.relocRecopyDone qn) s = .next t ∧ tabGet t.heaps qn = some { h with
      cycle := some (if c.dirty ≠ [] ∧ c.rounds < 4 then { c with rounds := c.rounds + 1, dirty := [] } else { c with st := .final, finalAt := s.cycle }) } ∧
      (c.dirty ≠ [] → c.rounds < 4 → Synced t ((c.objs.filter (fun o => c.dirty.contains o.old)).foldl (fun a o => copyBody a qn q o) s) qn) ∧
      ((c.dirty = [] ∨ 4 ≤ c.rounds) → Synced t (c.objs.foldl (fun a o => putHeader a q o.old { headerAt a q o.old with rel := 2 }) s) qn)) ∧
    (c.st = .final → h.heal = false → ∃ t h', exec (.relocFlip qn) s = .next t ∧ tabGet t.heaps qn = some h' ∧ h'.flips = h.flips + 1 ∧
      t.pe = s.pe + 1 ∧ ∃ c', h'.cycle = some c' ∧ c'.st = .ack ∧ c'.eRel = s.pe ∧ c'.cmd = c.cmd ∧ (∀ o ∈ c'.objs, o ∈ c.objs) ∧
      ((∀ o ∈ c.objs, copyable s q o.old (16 + o.size) false = true ∧ copyable s q o.new (16 + o.size) true = true) → c' = { c with st := .ack, eRel := s.pe } ∧
        Synced t (writeFwd (writeFwd (c.objs.foldl (fun a o => copyObject a qn q h o) s) q h (h.flips + 1) 2 c.objs) q h (h.flips - 1) 3
          ((h.fwd.filter (fun f => f.cycle + 1 == h.flips)).map (fun f => { old := f.old, new := f.new, size := 0 }))) qn)) ∧
    (c.st = .final → c.finalAt + 6000 ≤ s.cycle → ∃ t h', exec (.relocFinalTimeout qn) s = .next t ∧ tabGet t.heaps qn = some h' ∧ h'.cycle = none ∧
      h'.flips = h.flips ∧ (∀ x, c.cmd = some x → t.replies = { master := x.1, tag := x.2, status := 0, r := [] } :: s.replies) ∧
      ((∀ x, c.cmd = some x → x.1 ≠ .host) → Synced t (c.held.foldl (fun a w => a.write w.1 w.2)
        (writeFwd (c.objs.foldl (fun a o => putHeader a q o.old { headerAt a q o.old with rel := 0 }) s) q h (h.flips + 1) 0 c.objs)) qn)) ∧
    (c.st = .ack → ∃ t, exec (.relocAck qn) s = .next t ∧
      tabGet t.heaps qn = some { h with cycle := none, heal := true, healCmd := c.cmd, cycles := (h.cycles + 1) % 2 ^ 32 } ∧
      t.released = s.released ++ c.objs.map (fun o => { queue := qn, addr := o.old, bytes := 16 + o.size, eRel := c.eRel }) ∧
      Synced t (moveHeld (c.objs.foldl (fun a o => moveElements a q o) s) q c) qn)) ∧
  (h.heal = true → h.healFault = 0 → healHeld s qn q h (allSlots s q h) = false →
    ((∀ w a l e, healFaults s qn q h ≠ some (.invalid w a l e)) → ∃ t, exec (.healPassComplete qn) s = .next t ∧
      tabGet t.heaps qn = some { h with heal := false, healCmd := none, healFault := 0, healTried := [] } ∧
      (∀ x, h.healCmd = some x → t.replies = { master := x.1, tag := x.2, status := 0, r := [] } :: s.replies) ∧ t.teams = (healAll s qn q h).teams ∧
      ((∀ x, h.healCmd = some x → x.1 ≠ .host) → Synced t (healAll s qn q h) qn)) ∧
    ∀ w a l e, healFaults s qn q h = some (.invalid w a l e) → ∃ t x, exec (.healPassComplete qn) s = .next t ∧ t.mem = s.mem ∧ t.teams = s.teams ∧
      tabGet t.heaps qn = some { h with healFault := s.nextOp } ∧ tabGet t.faults s.nextOp = some x ∧ x.queue = qn ∧ x.who = .heal qn)

/-- A released object is freed only when every attention unit's page epoch is past its release (01 R33, 10 R325): its allocation bit goes, and no other bit of the
bitmap's byte. A write-combining entry whose timeout has come is closed (12 R363, R364): the block's elements, those that arrived in the place of the ones that were
there, and its scale are encoded and written. -/
def ReleaseClaim : Prop :=
  (∀ (s : State) (r : Nat) (x : Released), s.released[r]? = some x →
    (epochPassed s x.eRel = true → ∃ t, exec (.objectFree r) s = .next t ∧ t.released = s.released.eraseIdx r ∧
      ∀ q h, tabGet s.queues x.queue = some q → tabGet s.heaps x.queue = some h → Synced t (setAlloc s q h x.addr false) x.queue) ∧
    (epochPassed s x.eRel = false → ∃ t, exec (.objectFree r) s = .next t ∧ t = s)) ∧
  (∀ (s : State) (q : Queue) (h : Heap) (va : Nat) (y : Xlat), s.Inv → walk s q (h.bitAt va) = .leaf y →
    let z := y.pa (h.bitAt va)
    let b := BitVec.ofNat 8 (2 ^ (h.bitOf va % 8))
    (∀ u, (∀ v, v &&& ~~~b = s.byteAt z &&& ~~~b → ∀ x, walk (s.write z [v]) q (h.bitAt va) = .leaf x → (walkedLeaf x true).leaf = x.leaf) →
      (setAlloc s q h va u).byteAt z = (if u then s.byteAt z ||| b else s.byteAt z &&& ~~~b) ∧
      ∀ a, a ≠ z → (setAlloc s q h va u).byteAt a = s.byteAt a)) ∧
  ∀ (s : State) (id : Nat) (w : WcEntry), tabGet s.wc id = some w → w.opened + w.timeout ≤ s.cycle → ∃ t, exec (.writeCombineTimeout id) s = .next t ∧
    tabGet t.wc id = none ∧ (∀ n, n ≠ id → tabGet t.wc n = tabGet s.wc n) ∧ t.teams = s.teams ∧
    ∀ q g, tabGet s.queues w.queue = some q → narrowAt s w.queue (w.body - 16) = some g →
      let f := g.half w.valueHalf
      let ea := g.elemsAt w.valueHalf w.block
      let sa := g.scaleAt w.valueHalf w.block
      let at_ := blockAt s q ea f.blockBytes w.elemsAt
      let sc := blockAt s q sa 1 w.scaleAt
      let was := fun i => mxValue f (natOfBytes (readAt s sc)) (elemAt f.bits (natOfBytes (readAt s at_)) i)
      let new := mxBlock f ((List.range 32).map (fun i => ((tabGet w.vals i).map bf16Num).getD (was i)))
      t.mem = (writeAt (writeAt (hwNote (hwNote s q ea f.blockBytes true) q sa 1 true) at_ (packElems f.bits new.2)) sc (bytesOf 1 new.1)).mem

/-! ### The firmware (17 R470 to R490) -/

/-- A command is served: the device has power, its record is its master's first and its turn has come (R470, R472, log 101), no recovery forbids it (R477), an Own
command comes from the owner (R474), and the reserved bits of its first word are 0 (R470). -/
structure Served (s : State) (op : Nat) (c : Cmd) (own always : Bool) : Prop where
  powered : s.fw.powered = true
  record : handed s op c = true
  image : s.fw.recovery = false ∨ always = true
  owner : own = true → s.fw.owner = some c.master
  rsv : c.rsv = 0

/-- The reply record of a command. -/
def replyTo (c : Cmd) (status : Nat) (r : List DWord) : Reply := { master := c.master, tag := c.tag, status := status, r := r }

/-- A state after the reply to a command, from a state with the command's effect: one reply more, and the record taken; for the host the reply is in its ring and
raises vector 0; the board's joins its buffer; a remote owner's leaves as a flit, where a port is up (log 101); nothing else (17 R470, R471, R486). -/
structure Replied (s t : State) (c : Cmd) (status : Nat) (r : List DWord) : Prop where
  reply : t.replies = replyTo c status r :: s.replies
  rest : { t with fw := s.fw, replies := s.replies, irqs := s.irqs, mem := s.mem, bad := s.bad, spadDirty := s.spadDirty, l1Lines := s.l1Lines, migrations := s.migrations, sent := s.sent } = s
  fw : { t.fw with cmdHead := s.fw.cmdHead, repTail := s.fw.repTail, mail := s.fw.mail, i3cReplies := s.fw.i3cReplies } = s.fw
  mailbox : c.master ≠ .host → { t with fw := s.fw, replies := s.replies, sent := s.sent } = s ∧ t.fw.cmdHead = s.fw.cmdHead ∧ t.fw.repTail = s.fw.repTail ∧
    t.fw.mail = s.fw.mail.eraseP (fun x => x.master == c.master)
  buffer : t.fw.i3cReplies = s.fw.i3cReplies ++ if c.master = .board then [replyBits (replyTo c status r)] else []
  flit : t.sent = (if c.master = .host ∨ c.master = .board then s else remoteReply s (Config.ownerDevice (Master.num c.master - 2)) (replyTo c status r)).sent
  ring : c.master = .host → t.irqs = 0 :: s.irqs ∧ t.fw.cmdHead = (s.fw.cmdHead + 1) % 2 ^ 32 ∧ t.fw.repTail = (s.fw.repTail + 1) % 2 ^ 32 ∧ t.fw.mail = s.fw.mail ∧
    (s.Inv → let slot := hostPa (s.fw.repBase.toNat + 64 * (s.fw.repTail % 64)); ∀ a, ¬ (slot ≤ a ∧ a < slot + 64) → t.byteAt a = s.byteAt a)

/-- The number of a command, its arguments, whether it is Own, whether it is served in recovery (17 R473, R477). -/
def commandOf : Instr → Option (Nat × Cmd × Bool × Bool)
  | .ident c => some (0x01, c, false, true)
  | .claim c => some (0x02, c, false, true)
  | .handover c => some (0x03, c, true, false)
  | .attest c => some (0x04, c, false, true)
  | .loadimg c => some (0x05, c, true, true)
  | .reset c => some (0x06, c, true, false)
  | .qcreate c => some (0x10, c, true, false)
  | .qstop c => some (0x11, c, true, false)
  | .qstopDestroy c => some (0x11, c, true, false)
  | .asgen c => some (0x12, c, true, false)
  | .invpage c => some (0x13, c, true, false)
  | .grantref c => some (0x14, c, true, false)
  | .faultansRetry c => some (0x15, c, true, false)
  | .faultansKill c => some (0x15, c, true, false)
  | .resumeSkip c => some (0x16, c, true, false)
  | .resumeRetry c => some (0x16, c, true, false)
  | .resumeEnd c => some (0x16, c, true, false)
  | .preempt c => some (0x17, c, true, false)
  | .framerel c => some (0x18, c, true, false)
  | .heapbind c => some (0x19, c, true, false)
  | .heapbindUnbind c => some (0x19, c, true, false)
  | .reloc c _ => some (0x1a, c, true, false)
  | .migrate c => some (0x1b, c, true, false)
  | .peerbind c => some (0x1c, c, true, false)
  | .route c => some (0x1d, c, true, false)
  | .qread c => some (0x1e, c, false, false)
  | .snapcfg c => some (0x20, c, true, false)
  | .snaptrig c => some (0x21, c, true, false)
  | .snapread c => some (0x22, c, false, false)
  | .snaprel c => some (0x23, c, true, false)
  | .relrep c => some (0x30, c, false, false)
  | .retire c => some (0x31, c, true, false)
  | .pwrcap c => some (0x40, c, true, false)
  | .therm c => some (0x41, c, false, false)
  | _ => none

/-- The argument of a record names this variant of its command, or no variant (17 R473, log 55). -/
def Selected : Instr → Prop
  | .qstop c => c.a1 ≠ 1
  | .qstopDestroy c => c.a1 ≠ 0
  | .faultansRetry c => c.a2 ≠ 1
  | .faultansKill c => c.a2 ≠ 0
  | .resumeSkip c => c.a3 ≠ 1 ∧ c.a3 ≠ 2
  | .resumeRetry c => c.a3 ≠ 0 ∧ c.a3 ≠ 2
  | .resumeEnd c => c.a3 ≠ 0 ∧ c.a3 ≠ 1
  | .heapbind c => c.a2 ≠ 1
  | .heapbindUnbind c => c.a2 ≠ 0
  | _ => True

/-- A command that must be performed before its reply (17 R472): it has its reply, or is the one that is being performed. -/
def PaidOr (t : State) (c : Cmd) (task : Task) : Prop :=
  (performed t task = true → t.fw.doing = none ∧ t.replies.head? = some (replyTo c 0 [])) ∧
  (performed t task = false → t.fw.doing = some { cmd := (c.master, c.tag), task := task })

/-- What every command has in common (17 R470 to R474, R477): without power or a record, or where the record names another variant (log 55), nothing happens; in recovery all but four reply 8; an Own command
of another master replies 2; reserved bits reply 4; none of these has another effect. An op that is not listed replies 3. -/
def CommandRefusalClaim : Prop :=
  (∀ (i : Instr) (s : State) (op : Nat) (c : Cmd) (own always : Bool), commandOf i = some (op, c, own, always) →
    ((s.fw.powered = false ∨ handed s op c = false ∨ ¬ Selected i) → exec i s = .next s) ∧
    (s.fw.powered = true → handed s op c = true → Selected i →
      (s.fw.recovery = true → always = false → ∃ t, exec i s = .next t ∧ Replied s t c 8 []) ∧
      ((s.fw.recovery = false ∨ always = true) → own = true → s.fw.owner ≠ some c.master → ∃ t, exec i s = .next t ∧ Replied s t c 2 []) ∧
      ((s.fw.recovery = false ∨ always = true) → (own = true → s.fw.owner = some c.master) → c.rsv ≠ 0 → ∃ t, exec i s = .next t ∧ Replied s t c 4 []))) ∧
  ∀ (s : State) (c : Cmd) (op : BitVec 16), op.toNat ∉ listedOps → s.fw.powered = true → handed s op.toNat c = true →
    ∃ t, exec (.unknownCommand c op) s = .next t ∧ Replied s t c (if s.fw.recovery then 8 else 3) []

/-- Ownership, identity, images (17 R473 to R480): a handover's target has 100 ms of wall time, and ownership lapses when the owner's path has been down for 1 s of it
(log 63). -/
def OwnershipClaim : Prop := ∀ (s : State) (c : Cmd),
  (Served s 0x01 c false true → ∃ t, exec (.ident c) s = .next t ∧ Replied s t c 0
    [BitVec.ofNat 64 (packBits [(2, s.fw.form), (6, 0), (2, coldReported s)]), Config.serial, BitVec.ofNat 64 ((s.fw.image.map svnOf).getD 0),
      BitVec.ofNat 64 (packBits (s.fw.spares.map (fun n => (8, n))))]) ∧
  (Served s 0x02 c false true →
    (s.fw.owner = some c.master → ∃ t, exec (.claim c) s = .next t ∧ Replied s t c 0 []) ∧
    (s.fw.owner = none → (∀ h, s.fw.handover = some h → h.2 = c.master) → ∃ t, exec (.claim c) s = .next t ∧
      Replied { s with fw := { s.fw with owner := some c.master, handover := none }, irqs := 0 :: s.irqs } t c 0 []) ∧
    (∀ m, s.fw.owner = some m → m ≠ c.master → ∃ t, exec (.claim c) s = .next t ∧ Replied s t c 2 [])) ∧
  (Served s 0x03 c true false → c.a0.toNat < 4 → ∃ t, exec (.handover c) s = .next t ∧
    Replied { s with fw := { s.fw with owner := none, handover := some (c.master, masterOf c.a0.toNat), handoverAt := wallNow s }, irqs := 0 :: s.irqs } t c 0 []) ∧
  (∀ h, s.fw.handover = some h → (s.fw.handoverAt + wallMs 100 ≤ wallNow s → exec .handoverTimeout s =
      .next { s with fw := { s.fw with owner := some h.1, handover := none }, irqs := 0 :: s.irqs }) ∧
    (wallNow s < s.fw.handoverAt + wallMs 100 → exec .handoverTimeout s = .next s)) ∧
  (∀ m, s.fw.owner = some m → (∀ t, pathDown s m = some t → t + wallMs 1000 ≤ wallNow s → exec .ownershipLapse s =
      .next { s with fw := { s.fw with owner := none, handover := none }, irqs := 0 :: s.irqs }) ∧
    ((∀ t, pathDown s m = some t → wallNow s < t + wallMs 1000) → exec .ownershipLapse s = .next s)) ∧
  (Served s 0x04 c false true →
    let report := attestReport s c
    hostFits c.a6.toNat report.length = true → s.fw.lmsNext < s.fw.lmsLimit → ∃ t, exec (.attest c) s = .next t ∧
      Replied { s.write (hostPa c.a6.toNat) report with fw := { s.fw with lmsNext := s.fw.lmsNext + 1 } } t c 0 []) ∧
  (Served s 0x05 c true true → hostFits c.a0.toNat c.a1.toNat = true → let image := s.bytes (hostPa c.a0.toNat) c.a1.toNat
    (imageAccepted image = true → ∃ t, exec (.loadimg c) s = .next t ∧ Replied { s with fw := { s.fw with staged := some image } } t c 0 []) ∧
    (imageAccepted image = false → ∃ t, exec (.loadimg c) s = .next t ∧ Replied s t c 7 []))

/-- Nothing of the device's volatile state is left (17 R485). -/
structure Wiped (t : State) : Prop where
  tables : t.queues = [] ∧ t.teams = [] ∧ t.grids = [] ∧ t.ops = [] ∧ t.pools = [] ∧ t.heaps = [] ∧ t.faults = [] ∧ t.trapRecs = [] ∧ t.tags = [] ∧ t.bad = []
  owner : t.fw.owner = none ∧ t.fw.snap = none
  slots : ∀ n, ∀ sl ∈ (t.core n).slots, sl.st = .empty
  mem : ∀ x ∈ t.mem, 0xc000000000 ≤ x.1 ∧ x.1 < 0xe000000000

/-- Reset, power, sensors, registers, links (17 R470, R477, R483 to R487, 15 R435): a reset leaves nothing ready; bring-up runs the stored image where the ROM accepts
it, and the cold tier trains (log 9). A report of the sensors moves the clock by one step (log 60), and faults of lanes count as log 61 says. -/
def PowerClaim : Prop := ∀ (s : State) (c : Cmd),
  (Served s 0x06 c true false → (∀ g ∈ s.grids, g.2.done = true) → ∃ t, exec (.reset c) s = .next t ∧ Wiped t ∧ t.fw.powered = true ∧ t.fw.booting = true ∧
    t.fw.ready = false ∧ t.replies = replyTo c 0 [] :: s.replies ∧ t.fw.image = s.fw.image ∧ t.fw.staged = s.fw.staged) ∧
  (Served s 0x06 c true false → (∃ t, exec (.reset c) s = .next t ∧ ∀ g x, tabGet s.grids g = some x → x.done = false →
    t.fw.booting = true ∨ (tabGet t.grids g).map (·.killed) = some true)) ∧
  (∀ imageOk coldOk, (s.fw.powered = false ∨ s.fw.booting = true) → ∃ t, exec (.powerOn imageOk coldOk) s = .next t ∧ Wiped t ∧ t.fw.powered = true ∧
    t.fw.booting = false ∧ t.fw.staged = none ∧
    t.fw.image = (if imageOk then (s.fw.staged.orElse (fun _ => s.fw.image)).filter (fun x => imageLaidOut x && imageVerifies x && decide (Config.minSvn.toNat ≤ svnOf x)) else none) ∧
    t.fw.ready = (t.fw.image.isSome && coldOk) ∧ t.fw.recovery = !t.fw.ready ∧
    ∀ n p, tabGet s.ports n = some p → tabGet t.ports n =
      some (if p.laneFaults ≤ 5 then { p with up := true, failedAt := none } else { p with up := false, failedAt := some (p.failedAt.getD (wallNow s)) })) ∧
  (s.fw.powered = true → s.fw.booting = false → ∀ imageOk coldOk, exec (.powerOn imageOk coldOk) s = .next s) ∧
  (∃ t, exec .powerDown s = .next t ∧ Wiped t ∧ t.fw.powered = false ∧ t.fw.image = s.fw.image ∧ t.fw.staged = s.fw.staged ∧ t.fw.lmsNext = s.fw.lmsNext) ∧
  (880 ≤ s.fw.temp → ∃ t, exec .thermalShutdown s = .next t ∧ Wiped t ∧ t.fw.powered = false ∧ t.replies = s.replies) ∧
  (∀ temp watts, exec (.thermalLimit temp watts) s = .next { s with fw := { s.fw with
    temp := temp, watts := watts, wallAt := wallNow s, wallCycle := s.cycle
    clockMhz := if 760 ≤ temp ∨ 680 < s.fw.lid ∨ s.fw.capWatts < watts then Nat.max 600 (s.fw.clockMhz - 50) else Nat.min 1500 (s.fw.clockMhz + 50) } }) ∧
  (Served s 0x40 c true false → 1500 ≤ c.a0.toNat → c.a0.toNat ≤ 3000 → ∃ t, exec (.pwrcap c) s = .next t ∧
    Replied { s with fw := { s.fw with capWatts := c.a0.toNat } } t c 0 []) ∧
  (Served s 0x41 c false false → ∃ t, exec (.therm c) s = .next t ∧ Replied s t c 0 [BitVec.ofNat 64 s.fw.temp, BitVec.ofNat 64 s.fw.watts]) ∧
  (Served s 0x31 c true false → ∀ core, c.a0.toNat = core → core < 512 → (s.core core).gone = false → (s.core core).retiring = false →
    (∀ sl ∈ (s.core core).slots, sl.st = .empty) → ∃ t, exec (.retire c) s = .next t ∧ t.replies = replyTo c 0 [] :: s.replies ∧
      (t.core core).gone = decide (s.fw.spares.getD (dieOf core) 0 = 0) ∧ (t.core core).retiring = false ∧ ∀ n, n ≠ core → t.core n = s.core n) ∧
  (∀ core, core < 512 → (s.core core).gone = false → (s.core core).retiring = false → (∀ sl ∈ (s.core core).slots, sl.st = .empty) →
    (∀ o ∈ s.ops, o.2.core ≠ core) → ∃ t, exec (.coreFailure core) s = .next t ∧
      (t.core core).gone = decide (s.fw.spares.getD (dieOf core) 0 = 0) ∧ (t.core core).retiring = false ∧ ∀ n, n ≠ core → t.core n = s.core n) ∧
  (∀ stack channel, exec (.hbmChannelFailure stack channel) s =
    .next { s with fw := { s.fw with movedChannels := s.fw.movedChannels ++ [(stack, channel)] } }) ∧
  (∀ port p, tabGet s.ports port = some p → (p.up = false ∨ p.laneFaults ≤ 4) → exec (.linkLaneFault port) s =
    .next { s with ports := tabPut s.ports port { up := p.up, laneFaults := p.laneFaults + 1, failedAt := if p.up then p.failedAt else some (p.failedAt.getD (wallNow s)) } }) ∧
  (∀ port p, tabGet s.ports port = some p → p.up = true → 5 ≤ p.laneFaults → ∃ t, exec (.linkLaneFault port) s = .next t ∧ t.mem = s.mem ∧ t.teams = s.teams ∧
    tabGet t.ports port = some { up := false, laneFaults := p.laneFaults + 1, failedAt := some (p.failedAt.getD (wallNow s)) }) ∧
  (∀ v, exec (.registerWrite 0x0000 v) s = .next { s with fw := { s.fw with cmdBase := v } } ∧
    exec (.registerWrite 0x0008 v) s = .next { s with fw := { s.fw with repBase := v } } ∧
    exec (.registerWrite 0x0010 v) s = .next { s with fw := { s.fw with cmdTail := v.toNat % 2 ^ 32 } } ∧
    ∀ q < 4096, exec (.registerWrite (0x100000 + 8 * q) v) s = exec (.doorbell q v) s) ∧
  exec .pcieLinkDown s = .next { s with fw := { s.fw with pcieUp := false, pcieDownAt := if s.fw.pcieUp then wallNow s else s.fw.pcieDownAt } } ∧ exec .pcieLinkUp s = .next { s with fw := { s.fw with pcieUp := true } }

/-- Snapshots and reports (17 R481, R482): a trigger names the cycle 512 ahead, beside the cycles that others have named (log 65); when it comes the registers are
latched, or the trigger counts as missed. The layouts of what is written are the firmware's (log 7). -/
def SnapshotClaim : Prop := ∀ (s : State) (c : Cmd),
  (Served s 0x20 c true false → c.a0.toNat < 8 → bitsOf c.a1.toNat 8 8 = 0 → bitsOf c.a1.toNat 32 32 = 0 → ∃ t, exec (.snapcfg c) s = .next t ∧ Replied { s with
    fw := { s.fw with snapOn := BitVec.ofNat 3 c.a0.toNat, snapCode := bitsOf c.a1.toNat 0 8, snapClass := bitsOf c.a1.toNat 16 16 } } t c 0 []) ∧
  (Served s 0x21 c true false →
    (s.fw.snap = none → ∃ t, exec (.snaptrig c) s = .next t ∧ Replied { s with fw := { s.fw with
      snapPending := if s.cycle + 512 ∈ s.fw.snapPending then s.fw.snapPending else s.fw.snapPending ++ [s.cycle + 512] } } t c 0 []) ∧
    (s.fw.snap.isSome = true → ∃ t, exec (.snaptrig c) s = .next t ∧ Replied { s with fw := { s.fw with missed := s.fw.missed + 1 } } t c 0 [])) ∧
  (∀ later, later = s.fw.snapPending.filter (fun n => n != s.cycle) →
    (s.cycle ∉ s.fw.snapPending → exec .snapshotLatch s = .next s) ∧
    (s.cycle ∈ s.fw.snapPending → s.fw.snap = none → exec .snapshotLatch s =
      .next { s with fw := { s.fw with snap := some (takeSnapshot s), snapPending := later, missed := 0 } }) ∧
    (s.cycle ∈ s.fw.snapPending → s.fw.snap.isSome = true → exec .snapshotLatch s =
      .next { s with fw := { s.fw with snapPending := later, missed := s.fw.missed + 1 } })) ∧
  (Served s 0x22 c false false → hostFits c.a0.toNat c.a1.toNat = true → ∀ x, s.fw.snap = some x → ∃ t, exec (.snapread c) s = .next t ∧
    Replied (s.write (hostPa c.a0.toNat) ((snapshotLayout x).take c.a1.toNat)) t c 0 [BitVec.ofNat 64 (snapshotLayout x).length]) ∧
  (Served s 0x22 c false false → hostFits c.a0.toNat c.a1.toNat = true → s.fw.snap = none → ∃ t, exec (.snapread c) s = .next t ∧ Replied s t c 8 []) ∧
  (Served s 0x23 c true false →
    (s.fw.snap.isSome = true → ∃ t, exec (.snaprel c) s = .next t ∧ Replied { s with fw := { s.fw with snap := none } } t c 0 []) ∧
    (s.fw.snap = none → ∃ t, exec (.snaprel c) s = .next t ∧ Replied s t c 8 [])) ∧
  (Served s 0x30 c false false →
    let report := Config.reliabilityLayout s.fw.corrected s.fw.droppedFlits (s.fw.spares.map (fun n => 8 - n)) s.fw.movedChannels (s.ports.map (fun p => p.2.laneFaults))
    hostFits c.a0.toNat report.length = true → ∃ t, exec (.relrep c) s = .next t ∧ Replied (s.write (hostPa c.a0.toNat) report) t c 0 [])

/-- Queues, translations, grants (16 R446, 17 R472, R473, 07 R230, R231, R235): what a command covers and waits for are the model's choices of logs 20, 54 and 57. -/
def QueueCommandClaim : Prop := ∀ (s : State) (c : Cmd) (n : Nat), c.a0.toNat = n → n < 4096 →
  (Served s 0x10 c true false → hostFits c.a1.toNat 256 = true → let w := s.num (hostPa c.a1.toNat) 256
    badDescriptor w = false →
    ((∀ q, tabGet s.queues n = some q → q.qstate = 0) → ∃ t q, exec (.qcreate c) s = .next t ∧ tabGet t.queues n = some q ∧
      { q with grants := [] } = queueOf q.at_ w ∧ t.replies.head? = some (replyTo c 0 [BitVec.ofNat 64 q.at_]) ∧
      (tabGet s.heaps n = none → (∀ b ∈ s.fw.binds, b.a0.toNat ≠ n) → t.replies = replyTo c 0 [BitVec.ofNat 64 q.at_] :: s.replies) ∧
      tabGet t.heaps n = none ∧ ∀ k, k ≠ n → tabGet t.queues k = tabGet s.queues k) ∧
    (∀ q, tabGet s.queues n = some q → q.qstate ≠ 0 → ∃ t, exec (.qcreate c) s = .next t ∧ Replied s t c 8 [])) ∧
  (Served s 0x14 c true false → (∀ q, tabGet s.queues n = some q → q.qstate = 0) → ∃ t, exec (.grantref c) s = .next t ∧ Replied s t c 5 []) ∧
  ∀ q, tabGet s.queues n = some q →
    (Served s 0x1e c false false → hostFits c.a1.toNat 256 = true → ∃ t, exec (.qread c) s = .next t ∧
      Replied (s.write (hostPa c.a1.toNat) (s.bytes q.at_ 256)) t c 0 []) ∧
    (∀ d, q.destroy = some d → (∀ g ∈ s.grids, g.2.queue = n → g.2.done = true) → ∃ t, exec (.queueDestroyComplete n) s = .next t ∧
      tabGet t.queues n = some { q with qstate := 0, waiting := none, destroy := none } ∧
      t.replies = { master := d.1, tag := d.2, status := 0, r := [] } :: s.replies) ∧
    (q.qstate ≠ 0 →
      (Served s 0x11 c true false → q.destroy = none →
        (c.a1 = 0 → ∃ t, exec (.qstop c) s = .next t ∧ Replied (s.putQueue n { q with qstate := 2 }) t c 0 []) ∧
        (c.a1 = 1 → ∃ t, exec (.qstopDestroy c) s = .next t ∧ Replied (s.putQueue n { q with qstate := 2, destroy := some (c.master, c.tag) }) t c 1 [])) ∧
      (Served s 0x12 c true false → (∀ k, (s.core k).upd = []) → ∃ t, exec (.asgen c) s = .next t ∧
        Replied ((if q.gen = 0xfffff then dropWalks (dropXlats s (fun x => x.asid == q.asid)) (fun e => e.asid == q.asid) else s).putQueue n { q with gen := (q.gen + 1) % 2 ^ 20 }) t c 0 []) ∧
      (Served s 0x13 c true false → canonical c.a1 = true → (∀ k, (s.core k).upd = []) → s.wc = [] →
        (peersOut s q.asid (pagesAt s q c.a1.toNat) = true → exec (.invpage c) s = .next s) ∧
        (peersOut s q.asid (pagesAt s q c.a1.toNat) = false → ∃ t, exec (.invpage c) s = .next t ∧
        t.replies = { master := c.master, tag := c.tag, status := 0, r := [] } :: s.replies ∧ t.queues = s.queues ∧
        (∀ k, (t.core k).tlb = (s.core k).tlb.filter (fun x => !(x.asid == q.asid && decide (x.base ≤ c.a1.toNat) && decide (c.a1.toNat < x.base + x.size)))) ∧
        ∀ x, walk s q c.a1.toNat = .leaf x → ∀ l, tabGet t.lineClass l =
          if x.frame ≤ 128 * l ∧ 128 * l < x.frame + x.size then (tabGet s.lineClass l).map (fun _ => x.cls) else tabGet s.lineClass l)) ∧
      (Served s 0x14 c true false → ∃ t, exec (.grantref c) s = .next t ∧ Replied (s.putQueue n { q with grants := readGrants s q }) t c 0 []))

/-- Faults, teams, grids by command (04 R135 to R138, 16 R463, R464, 17 R472, R473): a kill and a pre-emption have their reply once every team has left (logs 54, 55). -/
def TeamCommandClaim : Prop := ∀ (s : State) (c : Cmd) (n : Nat) (q : Queue), c.a0.toNat = n → n < 4096 → tabGet s.queues n = some q → q.qstate ≠ 0 →
  let said := fun (t : State) (status : Nat) => t.replies.head? = some { master := c.master, tag := c.tag, status := status, r := [] }
  (Served s 0x15 c true false → c.a1.toNat < 2 ^ 32 →
    (∀ f x, faultOfSeq s n c.a1.toNat = some (f, x) → tabGet s.faults f = some x →
      (c.a2 = 0 → ∃ t, exec (.faultansRetry c) s = .next t ∧ said t 0 ∧ tabGet t.faults f = none ∧
        ∀ k tm, x.who = .team k → tabGet s.teams k = some tm → ∃ tm', tabGet t.teams k = some tm' ∧ tm'.pending = tm.pending - 1 ∧
          tm'.st = (if tm.pending - 1 = 0 ∧ (tm.st = .faulted ∨ (tm.st = .parked ∧ tm.resumed = true)) then .ready else tm.st)) ∧
      ∀ g kept gr, c.a2 = 1 → faultGrid s x = some (g, kept) → tabGet s.grids g = some gr → gr.done = false → ∃ t, exec (.faultansKill c) s = .next t ∧
        PaidOr t c (.killed g) ∧ tabGet t.faults f = none ∧ (tabGet t.grids g).map (·.killed) = some true) ∧
    (faultOfSeq s n c.a1.toNat = none → c.a2 = 0 → ∃ t, exec (.faultansRetry c) s = .next t ∧ Replied s t c 5 [])) ∧
  (Served s 0x16 c true false → c.a1.toNat < 2 ^ 32 → c.a2.toNat < 2 ^ 32 → ∀ k tm, namedTeam s c = some (k, tm) →
    (tm.st = .parked → tm.resumed = false →
      let back := fun (t : State) => ∃ tm', tabGet t.teams k = some tm' ∧ tm'.traps = [] ∧ tm'.resumed = true ∧
        tm'.st = (if tm.pending = 0 then .ready else .parked) ∧ ∀ x ∈ tm'.groups, x.2.stopped = false
      (c.a3 = 0 → ∃ t, exec (.resumeSkip c) s = .next t ∧ said t 0 ∧ back t) ∧ (c.a3 = 1 → ∃ t, exec (.resumeRetry c) s = .next t ∧ said t 0 ∧ back t) ∧
      ∀ gr, c.a3 = 2 → tabGet s.grids tm.grid = some gr → gr.done = false → ∃ t, exec (.resumeEnd c) s = .next t ∧ PaidOr t c (.killed tm.grid) ∧
        (tabGet t.grids tm.grid).map (·.killed) = some true) ∧
    (tm.st ≠ .parked → c.a3 = 0 → ∃ t, exec (.resumeSkip c) s = .next t ∧ Replied s t c 8 [])) ∧
  ∀ gr, c.a1.toNat < 2 ^ 32 → tabGet s.grids c.a1.toNat = some gr → gr.queue = n →
    (Served s 0x17 c true false → gr.done = false → ∀ k tm i sl, residents s c.a1.toNat = [(k, tm)] → tabGet s.teams k = some tm →
      slotIdx (s.core tm.core) (fun x => x.team == k && x.st != .empty) = some i → slotAtIdx s tm.core i = some sl → sl.st = .running →
      slotIdx (s.core tm.core) (fun x => x.st == .running) = some i → ∃ t, exec (.preempt c) s = .next t ∧ PaidOr t c (.evicted [(k, tm.saves)]) ∧
        slotAtIdx t tm.core i = some { sl with st := .draining, since := s.cycle, retain := false }) ∧
    (Served s 0x18 c true false → ∀ k tm, gr.kept = some k → tabGet s.teams k = some tm → tm.st = .ended → ∃ t tm', exec (.framerel c) s = .next t ∧ said t 0 ∧
      tabGet t.teams k = some tm' ∧ tm'.framed = false ∧ tabGet t.grids c.a1.toNat = some { gr with kept := none })

/-- Heaps, migrations, peers, routes by command (13 R373, R374, R392, 07 R233, 15 R430, R433, 17 R473): an unbind and a migration wait for the work of earlier ones
(log 54), the argument selects the variant (log 55), and the remote firmware agrees to a peer's slot at once or later, which is the outside's choice (log 21). -/
def HeapCommandClaim : Prop := ∀ (s : State) (c : Cmd) (n : Nat), c.a0.toNat = n →
  (Served s 0x1d c true false → let k := c.a1.toNat * Config.routeEntryBytes
    hostFits n k = true → ∃ t, exec (.route c) s = .next t ∧ Replied { s with fw := { s.fw with routes := s.bytes (hostPa n) k } } t c 0 []) ∧
  ∀ q, n < 4096 → tabGet s.queues n = some q → q.qstate ≠ 0 →
    let said := fun (t : State) (status : Nat) => t.replies.head? = some { master := c.master, tag := c.tag, status := status, r := [] }
    (Served s 0x19 c true false →
      (∀ w, c.a2 = 0 → tabGet s.heaps n = none → readHeapDesc s q c.a1 = some w → badHeap w (heapFrom c.a1 w) = false → ∃ t, exec (.heapbind c) s = .next t ∧ said t 0 ∧
        tabGet t.heaps n = some (heapFrom c.a1 w) ∧ tabGet t.queues n = some { q with heap := c.a1 }) ∧
      (∀ h, tabGet s.heaps n = some h → (c.a2 = 0 → ∃ t, exec (.heapbind c) s = .next t ∧ Replied s t c 8 []) ∧
        (c.a2 = 1 → relocWork h = true → exec (.heapbindUnbind c) s = .next s) ∧
        (c.a2 = 1 → relocWork h = false → anyObject s q h = false → ∃ t, exec (.heapbindUnbind c) s = .next t ∧ said t 0 ∧ tabGet t.heaps n = none ∧
          tabGet t.queues n = some { q with heap := 0 }) ∧
        (c.a2 = 1 → relocWork h = false → anyObject s q h = true → ∃ t, exec (.heapbindUnbind c) s = .next t ∧ Replied s t c 8 []))) ∧
    (Served s 0x1a c true false → ∀ set h, tabGet s.heaps n = some h →
      (h.cycle = none → ∃ t h' x, exec (.reloc c set) s = .next t ∧ said t 1 ∧ tabGet t.heaps n = some h' ∧ h'.cycle = some x ∧ x.st = .copying ∧
        x.cmd = some (c.master, c.tag)) ∧
      (h.cycle.isSome = true → ∃ t, exec (.reloc c set) s = .next t ∧ Replied s t c 6 [])) ∧
    (Served s 0x1b c true false → canonical c.a1 = true → c.a2.toNat % 8 = 0 → ∀ x, walk s q c.a1.toNat = .leaf x →
      (x.leafAt ≠ c.a2.toNat → ∃ t, exec (.migrate c) s = .next t ∧ Replied s t c 5 []) ∧
      (x.leafAt = c.a2.toNat → migrating s x.leafAt = true → exec (.migrate c) s = .next s) ∧
      (x.leafAt = c.a2.toNat → migrating s x.leafAt = false → x.region ≠ 1 → x.region ≠ 2 → destFits s x c.a3.toNat = true → walk (answer (takeRecord s c) c 1 []) q c.a1.toNat = .leaf x →
        runningOn s (homeDie s (if x.tier = 1 then x.frame else c.a3.toNat)) < 8 → ∃ t m, exec (.migrate c) s = .next t ∧ said t 1 ∧
          tabGet t.migrations s.nextOp = some m ∧ m.begun = true ∧ m.st = .precopy ∧ m.src = x.frame ∧ m.dest = c.a3.toNat ∧ m.size = x.size ∧
          m.e0 = x.leaf ∧ m.leafAt = x.leafAt ∧ m.lines = []) ∧
      (x.leafAt = c.a2.toNat → migrating s x.leafAt = false → (x.region = 1 ∨ x.region = 2) → walk (answer (takeRecord s c) c 1 []) q c.a1.toNat = .leaf x → ∃ t, exec (.migrate c) s = .next t ∧
        t.replies = { master := c.master, tag := c.tag, status := 0, r := [migRegion] } ::
          { master := c.master, tag := c.tag, status := 1, r := [] } :: s.replies)) ∧
    (Served s 0x1c c true false → c.a1.toNat < 16 → c.a2.toNat < 2 ^ 16 → c.a3.toNat < 4096 → s.Inv →
      ((∃ b ∈ s.fw.binds, b.a0.toNat = n ∧ b.a1 = c.a1) → exec (.peerbind c) s = .next s) ∧
      ((∀ b ∈ s.fw.binds, ¬ (b.a0.toNat = n ∧ b.a1 = c.a1)) → choice s ≠ 0 → ∃ t, exec (.peerbind c) s = .next t ∧
        Replied { s.chosen with fw := { s.fw with binds := s.fw.binds ++ [c] } } t c 1 []) ∧
      ((∀ b ∈ s.fw.binds, ¬ (b.a0.toNat = n ∧ b.a1 = c.a1)) → choice s = 0 → ∃ t, exec (.peerbind c) s = .next t ∧ said t 0 ∧
        (let ring := hostPa (s.fw.repBase.toNat + 64 * ((s.fw.repTail + 1) % 2 ^ 32 % 64))
         let at_ := q.ptab + 16 * c.a1.toNat
         (c.master = .host → ring + 64 ≤ at_ ∨ at_ + 16 ≤ ring) → t.num at_ 16 = peerEntry c) ∧
        (c.master ≠ .host → ∀ a, ¬ (q.ptab + 16 * c.a1.toNat ≤ a ∧ a < q.ptab + 16 * c.a1.toNat + 16) → t.byteAt a = s.byteAt a)))

end Sys2Proof.Machine

/-- The 49 lane integer and logic forms complete with the results of their rules; where they, the floating-point and the cross-lane forms pass the register peak, or wait
for registers. -/
def Obligations.LaneIntegerResults : Prop := Sys2Proof.Machine.RegisterForms Sys2Proof.Machine.laneIntegerEff ∧
  Sys2Proof.Machine.PeakForms Sys2Proof.Machine.laneIntegerEff ∧ Sys2Proof.Machine.PeakForms Sys2Proof.Machine.floatEff ∧
  Sys2Proof.Machine.PeakForms Sys2Proof.Machine.crossEff

/-- The 29 uniform forms complete with the results of their rules. -/
def Obligations.UniformResults : Prop := Sys2Proof.Machine.RegisterForms Sys2Proof.Machine.uniformEff

/-- The 24 floating-point and conversion forms complete with exactly rounded results. -/
def Obligations.FloatResults : Prop := Sys2Proof.Machine.RegisterForms Sys2Proof.Machine.floatEff

/-- The 28 comparisons, predicate forms, moves, shuffles, votes, reductions and rbal complete with the results of their rules;
the bits of a NaN that a sum over one lane delivers are log 95. -/
def Obligations.CrossLaneResults : Prop := Sys2Proof.Machine.RegisterForms Sys2Proof.Machine.crossEff

/-- Major 0x19: encodings of pand, por, pxor, pnot, and what each writes. -/
def Obligations.PredicateForms : Prop := Sys2Proof.Machine.PredicateClaim

/-- sel: its encoding, and the lane value that it selects. -/
def Obligations.SelResult : Prop := Sys2Proof.Machine.SelClaim

/-- Taking a trap: what is recorded, what stops, what stays. -/
def Obligations.TrapEntry : Prop := Sys2Proof.Machine.TrapEntryClaim

/-- trap and illegal units, full and empty return stacks, bad targets: where they trap, with which details; which of two conditions of ret comes first is log 80. -/
def Obligations.ControlTraps : Prop := Sys2Proof.Machine.SoftwareTrapsClaim ∧ Sys2Proof.Machine.TransferTrapClaim

/-- bra: whole, divided, deferred or trapped; a new split has the open windows of the old one (log 33). -/
def Obligations.BranchResults : Prop := Sys2Proof.Machine.BranchClaim

/-- call, jmp, indirect call and ret: stacks, targets, and no lane lost. -/
def Obligations.TransferResults : Prop := Sys2Proof.Machine.UniformTransferClaim ∧ Sys2Proof.Machine.TransferLandsClaim

/-- ld, ld.ro and ld quad complete: bytes, extension, destination, frame; where they trap or fault, and what a denied one delivers. -/
def Obligations.LoadResults : Prop := Sys2Proof.Machine.LoadClaim ∧ Sys2Proof.Machine.LookClaim ∧
  Sys2Proof.Machine.AccessStops (· == .load) ∧ Sys2Proof.Machine.DeniedLoadClaim

/-- st and st quad complete: the bytes stored, the highest lane wins, no other byte changes; where they trap or fault. -/
def Obligations.StoreResults : Prop := Sys2Proof.Machine.StoreClaim ∧ Sys2Proof.Machine.AccessStops (· == .store)

/-- ldk, ldl and pf complete: what they deliver, and that they change no other state. -/
def Obligations.WholeLoadResults : Prop := Sys2Proof.Machine.WholeLoadClaim ∧ Sys2Proof.Machine.PrefetchClaim

/-- Scratchpad and window loads and stores complete: bytes, lanes, frame. -/
def Obligations.ScratchpadResults : Prop := Sys2Proof.Machine.ScratchpadClaim

/-- mwait completes at once or goes in flight; its re-read delivers or keeps waiting. -/
def Obligations.MwaitResults : Prop := Sys2Proof.Machine.MwaitClaim ∧ Sys2Proof.Machine.RereadClaim

/-- The 14 atomics and reductions act lane after lane in ascending order; where they trap or fault. -/
def Obligations.AtomicResults : Prop := Sys2Proof.Machine.AtomicClaim ∧ Sys2Proof.Machine.AccessStops (· == .atomic)

/-- bred and bupd, and the timeout that flushes an update-only line. -/
def Obligations.BankUpdates : Prop := Sys2Proof.Machine.BankClaim ∧ Sys2Proof.Machine.UpdateTimeoutClaim

/-- Fences complete: whatever their scope (log 6), an acquire once no bank update of the team stands in an update-only line (log 34). -/
def Obligations.FenceResults : Prop := Sys2Proof.Machine.FenceClaim

/-- Barrier objects: binit, barv, bexp, btest, bwait, binval complete, and where they trap; tx as a detail word is log 89. -/
def Obligations.BarrierResults : Prop := Sys2Proof.Machine.BarrierClaim ∧ Sys2Proof.Machine.BarrierTrapClaim

/-- tsync and clsync: who waits and when all go on. -/
def Obligations.RendezvousResults : Prop := Sys2Proof.Machine.TsyncClaim ∧ Sys2Proof.Machine.ClsyncClaim

/-- guard, ext, snap and yield do what their rules say and nothing else; the group that yield brings in, and a trigger beside another, are log 65. -/
def Obligations.PrefixSnapYield : Prop := Sys2Proof.Machine.PrefixClaim ∧ Sys2Proof.Machine.SnapClaim ∧ Sys2Proof.Machine.YieldClaim

/-- join, its timeout, and the exchange of the active set. -/
def Obligations.JoinResults : Prop := Sys2Proof.Machine.JoinClaim ∧ Sys2Proof.Machine.JoinTimeoutClaim ∧ Sys2Proof.Machine.ActiveSetClaim

/-- exit ends lanes, splits, groups and teams. -/
def Obligations.ExitResults : Prop := Sys2Proof.Machine.ExitClaim

/-- Words that the spec writes out decode to the instructions they stand for. -/
def Obligations.SpecWordsDecode : Prop := Sys2Proof.Machine.SpecWordsClaim

/-- Decoding the encoding of any well-formed instruction gives it back. -/
def Obligations.DecodeOfEncode : Prop := Sys2Proof.Machine.DecodeEncodeClaim

/-- What decodes is the encoding of what it decodes to: no bit of a word is dropped. -/
def Obligations.EncodeOfDecode : Prop := Sys2Proof.Machine.EncodeDecodeClaim

/-- A step runs the unit that the bytes at the program counter decode to. -/
def Obligations.StepRunsDecodedUnit : Prop := Sys2Proof.Machine.StepClaim

/-- Turns without a unit: idle splits, waits, events, displaced lines, errors. -/
def Obligations.OtherTurns : Prop := Sys2Proof.Machine.OtherTurnsClaim

/-- Fetching: what traps or faults, and that an encoded instruction is fetched whole; the next pc of a unit without a halfword is log 81. -/
def Obligations.FetchResults : Prop := Sys2Proof.Machine.FetchTrapClaim ∧ Sys2Proof.Machine.FetchEncodedClaim

/-- After reset no queue, slot, heap, pool or snapshot is left and the ring registers read 0. -/
def Obligations.ResetValues : Prop := Sys2Proof.Machine.ResetClaim

/-- Memory after reset is in the model's canonical form. -/
def Obligations.ResetMemoryCanonical : Prop := Sys2Proof.Machine.ResetInvClaim

/-- Every step keeps the memory in its canonical form. -/
def Obligations.StepKeepsMemoryCanonical : Prop := Sys2Proof.Machine.StepInvClaim

/-- A step never stops: every unit and every event answers a next state. -/
def Obligations.StepAnswersNext : Prop := Sys2Proof.Machine.StepAnswersClaim

/-- Memory: a little-endian number is read back where it was written, and no other byte changes. -/
def Obligations.WriteThenRead : Prop := Sys2Proof.Machine.WriteReadClaim

/-- ldh and sth complete: the body's bytes at each lane's offset, references healed; sth to narrow pages and to objects of a running cycle. -/
def Obligations.HeapAccesses : Prop := Sys2Proof.Machine.HeapLoadClaim ∧ Sys2Proof.Machine.HeapStoreClaim ∧ Sys2Proof.Machine.ViewStoreClaim

/-- hst, hld, heq and htag complete: references stored, loaded, compared and tagged; slots healed. -/
def Obligations.ReferenceForms : Prop := Sys2Proof.Machine.RefStoreClaim ∧ Sys2Proof.Machine.RefLoadClaim ∧ Sys2Proof.Machine.RefTestClaim

/-- hpin, hunpin, hnew and hfree complete: pin counts, new references, released objects. -/
def Obligations.PinsAndAllocation : Prop := Sys2Proof.Machine.PinClaim ∧ Sys2Proof.Machine.AllocClaim

/-- Heap traps: no heap, an ill-formed reference, a retired epoch, null. -/
def Obligations.HeapTraps : Prop := Sys2Proof.Machine.HeapTrapClaim

/-- qzero, qrel, qwr, qrd, qtopk and qla complete: quarter tiles, registers and the A latch. -/
def Obligations.TileResults : Prop := Sys2Proof.Machine.TileClaim ∧ Sys2Proof.Machine.TileReadClaim

/-- qmm, qdist and qmmg issue: the pass that is posted, and the trap of an empty latch. -/
def Obligations.MatrixIssue : Prop := Sys2Proof.Machine.PassIssueClaim

/-- The arbiter's grant and a pass's commit: fused quarters, sums in the rule's order. -/
def Obligations.MatrixPasses : Prop := Sys2Proof.Machine.PassGrantClaim ∧ Sys2Proof.Machine.PassCommitClaim

/-- mxq and mxd issue and complete: the converted bytes, the locks released. -/
def Obligations.ConversionResults : Prop := Sys2Proof.Machine.ConversionClaim

/-- mload, mfree, mclass and mstat complete: slots, classes, counters. -/
def Obligations.MaskResults : Prop := Sys2Proof.Machine.MaskClaim

/-- qatt, qatf and qsel issue. -/
def Obligations.AttentionIssue : Prop := Sys2Proof.Machine.AttentionIssueClaim

/-- Attention units complete; rows without contribution; NaN rows. -/
def Obligations.AttentionCompletion : Prop := Sys2Proof.Machine.AttentionCompleteClaim

/-- kvnew, kvseal, kvdem, kvdem.inv, kvcold issue; kvq and the kvpol forms complete. -/
def Obligations.DirectoryForms : Prop := Sys2Proof.Machine.DirectoryIssueClaim ∧ Sys2Proof.Machine.PoolFormsClaim

/-- Take-up of directory forms with their statuses, and sweeps. -/
def Obligations.ThresherWork : Prop := Sys2Proof.Machine.DirectoryTakeupClaim ∧ Sys2Proof.Machine.SweepClaim

/-- cpy, cpy2d and cpym issue, deliver and complete: bytes, barriers, stamps; a transfer lands in one event (log 83). -/
def Obligations.CopyResults : Prop := Sys2Proof.Machine.CopyIssueClaim ∧ Sys2Proof.Machine.DeliveryClaim ∧ Sys2Proof.Machine.CopyCompleteClaim

/-- cpyc, cpyst and cpyx complete, and the course of a chain's records. -/
def Obligations.ChainResults : Prop := Sys2Proof.Machine.ChainUnitClaim ∧ Sys2Proof.Machine.ChainRecordClaim

/-- lld, lgat, lwr, lred and mxr issue and complete. -/
def Obligations.LinkOperations : Prop := Sys2Proof.Machine.LinkLoadClaim ∧ Sys2Proof.Machine.LinkSendClaim ∧ Sys2Proof.Machine.LinkCompleteClaim

/-- Flits that arrive, peers' requests, failing ports. -/
def Obligations.LinkTraffic : Prop := Sys2Proof.Machine.FlitClaim ∧ Sys2Proof.Machine.PeerRequestClaim ∧ Sys2Proof.Machine.PortClaim

/-- Doorbells, launches, refusals, grid completion, dlaunch and qsig; refused records follow logs 50 and 51, a full ring of a stopping target log 100. -/
def Obligations.QueueResults : Prop := Sys2Proof.Machine.LaunchClaim ∧ Sys2Proof.Machine.GridClaim ∧ Sys2Proof.Machine.QueueUnitClaim

/-- Trap and fault records, drains, saves and fills. -/
def Obligations.RecordsAndSaves : Prop := Sys2Proof.Machine.RecordClaim ∧ Sys2Proof.Machine.SaveClaim

/-- Placement of teams and gangs, ages, time slices, evictions (logs 22, 48, 49). -/
def Obligations.PlacementResults : Prop := Sys2Proof.Machine.PlacementClaim ∧ Sys2Proof.Machine.AgeClaim ∧ Sys2Proof.Machine.SliceClaim

/-- Page migrations, step by step. -/
def Obligations.MigrationResults : Prop := Sys2Proof.Machine.MigrationClaim

/-- The host's accesses, freed objects, closed write-combining entries. -/
def Obligations.HostAndReleases : Prop := Sys2Proof.Machine.HostClaim ∧ Sys2Proof.Machine.ReleaseClaim

/-- Relocation cycles, step by step. -/
def Obligations.RelocationCycles : Prop := Sys2Proof.Machine.CycleClaim

/-- What all firmware commands share: power, recovery, ownership, reserved bits. -/
def Obligations.CommandRefusals : Prop := Sys2Proof.Machine.CommandRefusalClaim

/-- Ownership, identity, images, reset, power, snapshots, spares, limits (logs 19, 60, 61, 63). -/
def Obligations.FirmwareResults : Prop := Sys2Proof.Machine.OwnershipClaim ∧ Sys2Proof.Machine.PowerClaim ∧ Sys2Proof.Machine.SnapshotClaim

/-- Commands on queues, translations, faults, teams, grids, heaps, migrations and peers (logs 18, 20, 21, 54, 55, 57). -/
def Obligations.CommandResults : Prop := Sys2Proof.Machine.QueueCommandClaim ∧ Sys2Proof.Machine.TeamCommandClaim ∧ Sys2Proof.Machine.HeapCommandClaim
end

