-- ==== Sys2Proof/Laws/Memory.lean ====
section
/-! SUPPORT. Laws of memory: the canonical form is kept, a read after a write to the same address gives the value written, and a write leaves
every other address alone. -/

namespace Sys2Proof.Machine

open Sys2Proof

/-- Every address of a list of cells is above `p`. -/
def Memory.above (p : Nat) (m : List Host.Cell) : Prop := ∀ c ∈ m, p < c.1

/-- The canonical form of a list with a head. -/
theorem Memory.wf_cons (a : Nat) (v : Byte) (t : List Host.Cell) :
    Memory.wf ((a, v) :: t) = true ↔ v ≠ memDefault ∧ Memory.above a t ∧ Memory.wf t = true := by
  induction t generalizing a v with
  | nil => simp [Memory.wf, Memory.above]
  | cons x t ih =>
    obtain ⟨b, w⟩ := x
    simp only [Memory.wf, Bool.and_eq_true, decide_eq_true_eq]
    constructor
    · rintro ⟨⟨hv, hab⟩, ht⟩
      refine ⟨hv, ?_, ht⟩
      intro c hc
      rcases List.mem_cons.1 hc with rfl | hc
      · exact hab
      · exact Nat.lt_trans hab (((ih b w).1 ht).2.1 c hc)
    · rintro ⟨hv, hab, ht⟩
      exact ⟨⟨hv, hab (b, w) (List.mem_cons_self ..)⟩, ht⟩

/-- Below the first address every byte reads as the default. -/
theorem memGet_of_above {p : Nat} {m : List Host.Cell} (h : Memory.above p m) : memGet m p = memDefault := by
  induction m with
  | nil => rfl
  | cons x t ih =>
    obtain ⟨a, b⟩ := x
    have ha : p < a := h (a, b) (List.mem_cons_self ..)
    simp only [memGet]
    rw [if_neg (by omega)]
    exact ih (fun c hc => h c (List.mem_cons_of_mem _ hc))

theorem Memory.above_mono {p q : Nat} {m : List Host.Cell} (hpq : p ≤ q) (h : Memory.above q m) : Memory.above p m :=
  fun c hc => Nat.lt_of_le_of_lt hpq (h c hc)

/-- A write adds no address but its own. -/
theorem Memory.above_memSet {q : Nat} {m : List Host.Cell} {p : Nat} (v : Byte) (h : Memory.above q m) (hp : q < p) :
    Memory.above q (memSet m p v) := by
  induction m with
  | nil =>
    simp only [memSet]
    split
    · exact fun c hc => by simp at hc
    · intro c hc
      obtain rfl : c = (p, v) := by simpa using hc
      exact hp
  | cons x t ih =>
    obtain ⟨a, b⟩ := x
    have ht : Memory.above q t := fun c hc => h c (List.mem_cons_of_mem _ hc)
    have ha : q < a := h (a, b) (List.mem_cons_self ..)
    simp only [memSet]
    split
    · split
      · exact h
      · intro c hc
        rcases List.mem_cons.1 hc with rfl | hc
        · exact hp
        · exact h c hc
    · split
      · split
        · exact ht
        · intro c hc
          rcases List.mem_cons.1 hc with rfl | hc
          · exact hp
          · exact ht c hc
      · intro c hc
        rcases List.mem_cons.1 hc with rfl | hc
        · exact ha
        · exact ih ht c hc

/-- A write keeps the canonical form. -/
theorem Memory.wf_memSet {m : List Host.Cell} (p : Nat) (v : Byte) (h : Memory.wf m = true) : Memory.wf (memSet m p v) = true := by
  induction m with
  | nil =>
    simp only [memSet]
    split
    · rfl
    · rename_i hv; simpa [Memory.wf] using hv
  | cons x t ih =>
    obtain ⟨a, b⟩ := x
    obtain ⟨hb, hab, ht⟩ := (Memory.wf_cons a b t).1 h
    simp only [memSet]
    split
    · rename_i hpa
      split
      · exact h
      · rename_i hv
        refine (Memory.wf_cons p v _).2 ⟨hv, ?_, h⟩
        intro c hc
        rcases List.mem_cons.1 hc with rfl | hc
        · exact hpa
        · exact Nat.lt_trans hpa (hab c hc)
    · split
      · rename_i hpa
        subst hpa
        split
        · exact ht
        · rename_i hv
          exact (Memory.wf_cons p v t).2 ⟨hv, hab, ht⟩
      · rename_i h1 h2
        exact (Memory.wf_cons a b _).2 ⟨hb, Memory.above_memSet v hab (by omega), ih ht⟩

/-- Any list of cells that a test picks from a canonical memory is canonical. -/
theorem Memory.wf_filter {m : List Host.Cell} (f : Host.Cell → Bool) (h : Memory.wf m = true) : Memory.wf (m.filter f) = true := by
  induction m with
  | nil => rfl
  | cons x t ih =>
    obtain ⟨a, b⟩ := x
    obtain ⟨hb, hab, ht⟩ := (Memory.wf_cons a b t).1 h
    simp only [List.filter]
    split
    · exact (Memory.wf_cons a b _).2 ⟨hb, fun c hc => hab c (List.mem_filter.1 hc).1, ih ht⟩
    · exact ih ht

theorem Memory.wf_memSetMany {m : List Host.Cell} (p : Nat) (bs : List Byte) (h : Memory.wf m = true) :
    Memory.wf (memSetMany m p bs) = true := by
  induction bs generalizing m p with
  | nil => exact h
  | cons b t ih => exact ih (p + 1) (Memory.wf_memSet p b h)

theorem Memory.wf_memClear {m : List Host.Cell} (pa n : Nat) (h : Memory.wf m = true) : Memory.wf (memClear m pa n) = true :=
  Memory.wf_filter _ h

theorem Memory.wf_append {l m : List Host.Cell} (hl : Memory.wf l = true) (hm : Memory.wf m = true)
    (h : ∀ c ∈ l, ∀ d ∈ m, c.1 < d.1) : Memory.wf (l ++ m) = true := by
  induction l with
  | nil => exact hm
  | cons x t ih =>
    obtain ⟨a, b⟩ := x
    obtain ⟨hb, hab, ht⟩ := (Memory.wf_cons a b t).1 hl
    refine (Memory.wf_cons a b _).2 ⟨hb, fun c hc => ?_, ih ht (fun c hc => h c (List.mem_cons_of_mem _ hc))⟩
    rcases List.mem_append.1 hc with hc | hc
    · exact hab c hc
    · exact h (a, b) (List.mem_cons_self ..) c hc

theorem mem_cellsOf {p : Nat} {bs : List Byte} {c : Host.Cell} (h : c ∈ cellsOf p bs) : p ≤ c.1 ∧ c.1 < p + bs.length := by
  induction bs generalizing p with
  | nil => simp [cellsOf] at h
  | cons b t ih =>
    rw [cellsOf] at h
    split at h
    · have := ih h; simp only [List.length_cons]; omega
    · rcases List.mem_cons.1 h with rfl | h
      · simp
      · have := ih h; simp only [List.length_cons]; omega

theorem Memory.wf_cellsOf (p : Nat) (bs : List Byte) : Memory.wf (cellsOf p bs) = true := by
  induction bs generalizing p with
  | nil => rfl
  | cons b t ih =>
    rw [cellsOf]
    split
    · exact ih (p + 1)
    · rename_i hb
      exact (Memory.wf_cons p b _).2 ⟨hb, fun c hc => (mem_cellsOf hc).1, ih (p + 1)⟩

theorem mem_memSplice {m : List Host.Cell} {pa : Nat} {bs : List Byte} {c : Host.Cell} (h : c ∈ memSplice m pa bs) :
    c ∈ m ∨ pa ≤ c.1 := by
  induction m with
  | nil => exact Or.inr (mem_cellsOf h).1
  | cons x t ih =>
    obtain ⟨a, b⟩ := x
    rw [memSplice] at h
    split at h
    · rcases List.mem_cons.1 h with rfl | h
      · exact Or.inl (List.mem_cons_self ..)
      · exact (ih h).imp_left (List.mem_cons_of_mem _)
    · rcases List.mem_append.1 h with h | h
      · exact Or.inr (mem_cellsOf h).1
      · exact Or.inl (List.mem_filter.1 h).1

theorem Memory.wf_memSplice {m : List Host.Cell} (pa : Nat) (bs : List Byte) (h : Memory.wf m = true) :
    Memory.wf (memSplice m pa bs) = true := by
  induction m with
  | nil => exact Memory.wf_cellsOf pa bs
  | cons x t ih =>
    obtain ⟨a, b⟩ := x
    obtain ⟨hb, hab, ht⟩ := (Memory.wf_cons a b t).1 h
    rw [memSplice]
    split
    · refine (Memory.wf_cons a b _).2 ⟨hb, fun c hc => ?_, ih ht⟩
      rcases mem_memSplice hc with hc | hc
      · exact hab c hc
      · omega
    · refine Memory.wf_append (Memory.wf_cellsOf pa bs) (Memory.wf_memClear pa _ h) (fun c hc d hd => ?_)
      have h1 := mem_cellsOf hc
      have h2 := List.mem_filter.1 hd
      have h3 : a ≤ d.1 := by
        rcases List.mem_cons.1 h2.1 with rfl | h4
        · exact Nat.le_refl _
        · exact Nat.le_of_lt (hab d h4)
      have h4 := h2.2
      simp only [Bool.not_eq_true', Bool.and_eq_false_iff, decide_eq_false_iff_not] at h4
      omega

/-- A read after a write to the same address gives the value written. -/
theorem memGet_memSet_self {m : List Host.Cell} (p : Nat) (v : Byte) (h : Memory.wf m = true) : memGet (memSet m p v) p = v := by
  induction m with
  | nil =>
    simp only [memSet]
    split
    · rename_i hv; rw [hv]; rfl
    · simp [memGet]
  | cons x t ih =>
    obtain ⟨a, b⟩ := x
    obtain ⟨hb, hab, ht⟩ := (Memory.wf_cons a b t).1 h
    simp only [memSet]
    split
    · rename_i hpa
      split
      · rename_i hv
        rw [hv]
        refine memGet_of_above (fun c hc => ?_)
        rcases List.mem_cons.1 hc with rfl | hc
        · exact hpa
        · exact Nat.lt_trans hpa (hab c hc)
      · simp [memGet]
    · split
      · rename_i hpa
        subst hpa
        split
        · rename_i hv; rw [hv]; exact memGet_of_above hab
        · simp [memGet]
      · rename_i h1 h2
        simp only [memGet]
        rw [if_neg (Ne.symm h2)]
        exact ih ht

/-- A write leaves every other address alone. -/
theorem memGet_memSet_ne (m : List Host.Cell) {p q : Nat} (v : Byte) (hq : q ≠ p) : memGet (memSet m p v) q = memGet m q := by
  induction m with
  | nil =>
    simp only [memSet]
    split
    · rfl
    · simp [memGet, Ne.symm hq]
  | cons x t ih =>
    obtain ⟨a, b⟩ := x
    simp only [memSet]
    split
    · split
      · rfl
      · simp [memGet, Ne.symm hq]
    · split
      · rename_i hpa
        subst hpa
        split <;> simp [memGet, Ne.symm hq]
      · simp only [memGet, ih]

/-- A write of consecutive bytes leaves every address outside them alone. -/
theorem memGet_memSetMany_of_outside (m : List Host.Cell) {p q : Nat} (bs : List Byte) (h : q < p ∨ p + bs.length ≤ q) :
    memGet (memSetMany m p bs) q = memGet m q := by
  induction bs generalizing m p with
  | nil => rfl
  | cons b t ih =>
    simp only [List.length_cons] at h
    rw [memSetMany, ih _ (by omega), memGet_memSet_ne _ _ (by omega)]

/-- Consecutive bytes read back as they were written. -/
theorem memGetMany_memSetMany {m : List Host.Cell} (p : Nat) (bs : List Byte) (h : Memory.wf m = true) :
    memGetMany (memSetMany m p bs) p bs.length = bs := by
  induction bs generalizing m p with
  | nil => rfl
  | cons b t ih =>
    have h1 : memGet (memSetMany (memSet m p b) (p + 1) t) p = b := by
      rw [memGet_memSetMany_of_outside _ _ (by omega), memGet_memSet_self p b h]
    simp only [memSetMany, List.length_cons, memGetMany, h1]
    rw [ih (p + 1) (Memory.wf_memSet p b h)]

/-- Clearing a range leaves every address outside it alone. -/
theorem memGet_memClear_of_outside (m : List Host.Cell) {pa n q : Nat} (h : q < pa ∨ pa + n ≤ q) :
    memGet (memClear m pa n) q = memGet m q := by
  induction m with
  | nil => rfl
  | cons x t ih =>
    obtain ⟨a, b⟩ := x
    unfold memClear at ih ⊢
    rw [List.filter_cons]
    split
    · simp only [memGet, ih]
    · rename_i hx
      simp only [Bool.not_eq_true, Bool.not_eq_false', Bool.and_eq_true, decide_eq_true_eq] at hx
      rw [ih, memGet, if_neg (by omega)]

/-! ### The operations over the state -/

theorem State.wf_write {s : State} (pa : Nat) (bs : List Byte) (h : Memory.wf s.mem = true) : Memory.wf (s.write pa bs).mem = true :=
  Memory.wf_memSetMany pa bs h

theorem State.wf_writeNum {s : State} (pa n v : Nat) (h : Memory.wf s.mem = true) : Memory.wf (s.writeNum pa n v).mem = true :=
  Memory.wf_memSetMany pa _ h

theorem State.wf_zero {s : State} (pa n : Nat) (h : Memory.wf s.mem = true) : Memory.wf (s.zero pa n).mem = true :=
  Memory.wf_memClear pa n h

@[simp] theorem State.mem_touched (s : State) (pa n : Nat) : (s.touched pa n).mem = s.mem := rfl
@[simp] theorem State.mem_fill (s : State) (l1 : Option Nat) (pa n ident cls : Nat) : (s.fill l1 pa n ident cls).mem = s.mem := rfl
theorem State.wf_free {s : State} (pa n : Nat) (h : Memory.wf s.mem = true) : Memory.wf (s.free pa n).mem = true :=
  Memory.wf_memSplice pa _ h
@[simp] theorem State.mem_write (s : State) (pa : Nat) (bs : List Byte) : (s.write pa bs).mem = memSetMany s.mem pa bs := rfl
@[simp] theorem State.mem_zero (s : State) (pa n : Nat) : (s.zero pa n).mem = memClear s.mem pa n := rfl

end Sys2Proof.Machine
end

