-- ==== Sys2Proof/Laws/Table.lean ====
section
/-! SUPPORT. Laws of tables: what a key holds after a value is put, removed or changed. They need no order of the keys. -/

namespace Sys2Proof

@[simp] theorem tabGet_nil {β : Type} (k : Nat) : tabGet ([] : Tab β) k = none := rfl

theorem tabGet_cons {β : Type} (a : Nat) (b : β) (t : Tab β) (k : Nat) :
    tabGet ((a, b) :: t) k = if a = k then some b else tabGet t k := rfl

/-- The key that was put holds the value. -/
@[simp] theorem tabGet_tabPut_self {β : Type} (t : Tab β) (k : Nat) (v : β) : tabGet (tabPut t k v) k = some v := by
  induction t with
  | nil => simp [tabPut, tabGet]
  | cons x t ih =>
    obtain ⟨a, b⟩ := x
    simp only [tabPut]
    split
    · simp [tabGet]
    · split
      · simp [tabGet]
      · rename_i h1 h2
        simp [tabGet, Ne.symm h2, ih]

/-- Another key holds what it held. -/
theorem tabGet_tabPut_ne {β : Type} (t : Tab β) {k j : Nat} (v : β) (h : j ≠ k) : tabGet (tabPut t k v) j = tabGet t j := by
  induction t with
  | nil => simp [tabPut, tabGet, Ne.symm h]
  | cons x t ih =>
    obtain ⟨a, b⟩ := x
    simp only [tabPut]
    split
    · simp [tabGet, Ne.symm h]
    · split
      · rename_i h1 h2
        subst h2
        simp [tabGet, Ne.symm h]
      · simp [tabGet, ih]

theorem tabGet_tabPut {β : Type} (t : Tab β) (k j : Nat) (v : β) :
    tabGet (tabPut t k v) j = if j = k then some v else tabGet t j := by
  by_cases h : j = k
  · subst h; simp
  · simp [h, tabGet_tabPut_ne t v h]

/-- A key that was removed holds nothing. -/
@[simp] theorem tabGet_tabDel_self {β : Type} (t : Tab β) (k : Nat) : tabGet (tabDel t k) k = none := by
  induction t with
  | nil => rfl
  | cons x t ih =>
    obtain ⟨a, b⟩ := x
    by_cases h : a = k <;> simp [tabDel, tabGet, h, ih]

theorem tabGet_tabDel_ne {β : Type} (t : Tab β) {k j : Nat} (h : j ≠ k) : tabGet (tabDel t k) j = tabGet t j := by
  induction t with
  | nil => rfl
  | cons x t ih =>
    obtain ⟨a, b⟩ := x
    by_cases hk : a = k
    · subst hk; simp [tabDel, tabGet, Ne.symm h, ih]
    · simp [tabDel, tabGet, hk, ih]

theorem tabGet_tabDel {β : Type} (t : Tab β) (k j : Nat) : tabGet (tabDel t k) j = if j = k then none else tabGet t j := by
  by_cases h : j = k
  · subst h; simp
  · simp [h, tabGet_tabDel_ne t h]

/-- A key that is present holds the changed value. -/
theorem tabGet_tabMod_self {β : Type} (t : Tab β) (k : Nat) (f : β → β) : tabGet (tabMod t k f) k = (tabGet t k).map f := by
  unfold tabMod
  split
  · rename_i v h; simp [h]
  · rename_i h; simp [h]

theorem tabGet_tabMod_ne {β : Type} (t : Tab β) {k j : Nat} (f : β → β) (h : j ≠ k) : tabGet (tabMod t k f) j = tabGet t j := by
  unfold tabMod
  split
  · exact tabGet_tabPut_ne t _ h
  · rfl

theorem tabGet_tabMod {β : Type} (t : Tab β) (k j : Nat) (f : β → β) :
    tabGet (tabMod t k f) j = if j = k then (tabGet t k).map f else tabGet t j := by
  by_cases h : j = k
  · subst h; simp [tabGet_tabMod_self]
  · simp [h, tabGet_tabMod_ne t f h]

theorem tabMod_of_get {β : Type} {t : Tab β} {k : Nat} {v : β} (f : β → β) (h : tabGet t k = some v) :
    tabMod t k f = tabPut t k (f v) := by
  simp [tabMod, h]

end Sys2Proof
end

