-- ==== Sys2Proof/Laws/Unit.lean ====
section
/-! SUPPORT. What the shared operations of a unit do: the context of the issuing split, the registers after an effect, the state after a
unit ends. -/

namespace Sys2Proof.Machine

open Sys2Proof

/-! ### The context -/

/-- A replay record shows other registers, and nothing else of the group (04 R127). -/
@[simp] theorem under_num (g : Group) (r : Option Replay) : (g.under r).num = g.num := by cases r <;> rfl
@[simp] theorem under_none (g : Group) : g.under none = g := rfl

/-- What it means that a split has a context. -/
theorem ctxAt_spec {s : State} {w : Who} {c : Ctx} (h : ctxAt s w = some c) :
    c.core = w.core ∧ tabGet s.teams c.key = some c.team ∧ c.group.num = w.group ∧ tabGet c.team.groups c.group.num = some c.live ∧
    c.split ∈ c.live.splits ∧ c.split.idx = w.split ∧ tabGet s.queues c.team.queue = some c.q ∧
    tabGet s.grids c.team.grid = some c.grid ∧ (∃ sl, (s.core w.core).running = some sl ∧ sl.team = c.key) ∧
    c.group = c.live.under c.split.replay := by
  unfold ctxAt at h
  split at h
  · cases h
  · rename_i sl hsl
    split at h
    · cases h
    · rename_i t ht
      split at h
      · cases h
      · rename_i g hg
        split at h
        · cases h
        · rename_i sp hsp
          split at h
          · rename_i q gr hq hgr
            cases h
            obtain ⟨hg, hn⟩ := Option.filter_eq_some_iff.1 hg
            simp only [beq_iff_eq] at hn
            have hu : (g.under sp.replay).num = w.group := by rw [under_num]; exact hn
            refine ⟨rfl, ht, hu, by rw [hu]; exact hg, List.mem_of_find?_eq_some hsp, ?_, hq, hgr, ⟨sl, hsl, rfl⟩, rfl⟩
            simpa using List.find?_some hsp
          · cases h

/-- A unit of a split that has a context answers a next state. -/
theorem issue_eq {s : State} {c : Ctx} (h : ctx? s = some c) (f : Ctx → State) : issue s f = .next (f c) := by
  simp [issue, h]

/-! ### Registers -/

theorem getD_replicate_self {α : Type} (n : Nat) (d : α) (l : Nat) : (List.replicate n d).getD l d = d := by
  rw [List.getD_eq_getElem?_getD, List.getElem?_replicate]
  split <;> rfl

theorem vlane_of_get {g : Group} {n l : Nat} {ws : Lanes} (h : tabGet g.v n = some ws) : g.vlane n l = ws.getD l 0 := by
  simp [Group.vlane, Group.vread, h]

theorem getD_allLanes {α : Type} (f : Nat → α) (d : α) {l : Nat} (h : l < 32) : (allLanes.map f).getD l d = f l := by
  have : allLanes = List.range 32 := by decide
  simp [this, h]

@[simp] theorem vwrite_k (g : Group) (n : Nat) (m : BitVec 32) (f : Nat → Word) : (g.vwrite n m f).k = g.k := by
  unfold Group.vwrite; split <;> rfl
@[simp] theorem vwrite_p (g : Group) (n : Nat) (m : BitVec 32) (f : Nat → Word) : (g.vwrite n m f).p = g.p := by
  unfold Group.vwrite; split <;> rfl
@[simp] theorem vwrite_h (g : Group) (n : Nat) (m : BitVec 32) (f : Nat → Word) : (g.vwrite n m f).h = g.h := by
  unfold Group.vwrite; split <;> rfl
@[simp] theorem vfree_k (g : Group) (n : Nat) : (g.vfree n).k = g.k := rfl
@[simp] theorem vfree_p (g : Group) (n : Nat) : (g.vfree n).p = g.p := rfl
@[simp] theorem vfree_h (g : Group) (n : Nat) : (g.vfree n).h = g.h := rfl
@[simp] theorem kwrite_v (g : Group) (n : Nat) (w : Word) : (g.kwrite n w).v = g.v := rfl
@[simp] theorem kwrite_p (g : Group) (n : Nat) (w : Word) : (g.kwrite n w).p = g.p := rfl
@[simp] theorem kwrite_h (g : Group) (n : Nat) (w : Word) : (g.kwrite n w).h = g.h := rfl
@[simp] theorem pwrite_v (g : Group) (n : Nat) (m b : BitVec 32) : (g.pwrite n m b).v = g.v := by
  unfold Group.pwrite; split <;> rfl
@[simp] theorem pwrite_k (g : Group) (n : Nat) (m b : BitVec 32) : (g.pwrite n m b).k = g.k := by
  unfold Group.pwrite; split <;> rfl
@[simp] theorem pwrite_h (g : Group) (n : Nat) (m b : BitVec 32) : (g.pwrite n m b).h = g.h := by
  unfold Group.pwrite; split <;> rfl
@[simp] theorem hwrite_v (g : Group) (n : Nat) (m : BitVec 32) (f : Nat → DWord) : (g.hwrite n m f).v = g.v := by
  unfold Group.hwrite; split <;> rfl
@[simp] theorem hwrite_k (g : Group) (n : Nat) (m : BitVec 32) (f : Nat → DWord) : (g.hwrite n m f).k = g.k := by
  unfold Group.hwrite; split <;> rfl
@[simp] theorem hwrite_p (g : Group) (n : Nat) (m : BitVec 32) (f : Nat → DWord) : (g.hwrite n m f).p = g.p := by
  unfold Group.hwrite; split <;> rfl

/-- Freeing names. -/
theorem freed_get (ns : List Nat) (g : Group) (n : Nat) :
    tabGet (ns.foldl Group.vfree g).v n = if n ∈ ns then none else tabGet g.v n := by
  induction ns generalizing g with
  | nil => simp
  | cons a t ih =>
    rw [List.foldl_cons, ih]
    by_cases ht : n ∈ t
    · simp [ht]
    · simp only [ht, if_false, Group.vfree, tabGet_tabDel, List.mem_cons, or_false]

theorem freed_k (ns : List Nat) (g : Group) : (ns.foldl Group.vfree g).k = g.k := by
  induction ns generalizing g with
  | nil => rfl
  | cons a t ih => rw [List.foldl_cons, ih, vfree_k]
theorem freed_p (ns : List Nat) (g : Group) : (ns.foldl Group.vfree g).p = g.p := by
  induction ns generalizing g with
  | nil => rfl
  | cons a t ih => rw [List.foldl_cons, ih, vfree_p]
theorem freed_h (ns : List Nat) (g : Group) : (ns.foldl Group.vfree g).h = g.h := by
  induction ns generalizing g with
  | nil => rfl
  | cons a t ih => rw [List.foldl_cons, ih, vfree_h]

/-- One lane write. -/
theorem vwrite_get_ne (g : Group) {a n : Nat} (m : BitVec 32) (f : Nat → Word) (h : n ≠ a) :
    tabGet (g.vwrite a m f).v n = tabGet g.v n := by
  unfold Group.vwrite
  split
  · rfl
  · exact tabGet_tabPut_ne _ _ h

theorem vwrite_lane (g : Group) (n : Nat) (m : BitVec 32) (f : Nat → Word) {l : Nat} (h : l < 32) :
    (g.vwrite n m f).vlane n l = if m.getLsbD l then f l else g.vlane n l := by
  unfold Group.vwrite
  split
  · rename_i hm; simp [hm]
  · rw [vlane_of_get (by simp; rfl), getD_allLanes _ _ h]

/-- A write of no lane writes nothing. -/
theorem vwrite_zero (g : Group) (n : Nat) (f : Nat → Word) : g.vwrite n 0 f = g := by simp [Group.vwrite]

/-- The lane writes of a unit, for names that are all different. -/
theorem vwrites_get (ws : List (Nat × BitVec 32 × (Nat → Word))) (g : Group) (n : Nat) (h : ∀ w ∈ ws, w.1 = n → w.2.1 = 0) :
    tabGet (ws.foldl (fun g w => g.vwrite w.1 w.2.1 w.2.2) g).v n = tabGet g.v n := by
  induction ws generalizing g with
  | nil => rfl
  | cons w t ih =>
    rw [List.foldl_cons, ih _ (fun x hx => h x (List.mem_cons_of_mem _ hx))]
    by_cases hn : n = w.1
    · rw [h w (List.mem_cons_self ..) hn.symm, vwrite_zero]
    · exact vwrite_get_ne _ _ _ hn

theorem vlane_congr {g g' : Group} {n : Nat} (h : tabGet g.v n = tabGet g'.v n) (l : Nat) : g.vlane n l = g'.vlane n l := by
  simp [Group.vlane, Group.vread, h]

theorem vwrites_lane (ws : List (Nat × BitVec 32 × (Nat → Word))) (g : Group) (hd : (ws.map (·.1)).Nodup)
    (w : Nat × BitVec 32 × (Nat → Word)) (hw : w ∈ ws) {l : Nat} (hl : l < 32) :
    (ws.foldl (fun g w => g.vwrite w.1 w.2.1 w.2.2) g).vlane w.1 l = if w.2.1.getLsbD l then w.2.2 l else g.vlane w.1 l := by
  induction ws generalizing g with
  | nil => cases hw
  | cons x t ih =>
    rw [List.map_cons, List.nodup_cons] at hd
    rw [List.foldl_cons]
    rcases List.mem_cons.1 hw with rfl | hw
    · rw [vlane_congr (vwrites_get t _ w.1 (fun y hy he => absurd (List.mem_map.2 ⟨y, hy, he⟩) hd.1)), vwrite_lane _ _ _ _ hl]
    · rw [ih _ hd.2 hw]
      have hne : w.1 ≠ x.1 := fun he => hd.1 (he ▸ List.mem_map_of_mem hw)
      rw [vlane_congr (vwrite_get_ne g x.2.1 x.2.2 hne)]

theorem vwrites_k (ws : List (Nat × BitVec 32 × (Nat → Word))) (g : Group) :
    (ws.foldl (fun g w => g.vwrite w.1 w.2.1 w.2.2) g).k = g.k := by
  induction ws generalizing g with
  | nil => rfl
  | cons w t ih => rw [List.foldl_cons, ih, vwrite_k]
theorem vwrites_p (ws : List (Nat × BitVec 32 × (Nat → Word))) (g : Group) :
    (ws.foldl (fun g w => g.vwrite w.1 w.2.1 w.2.2) g).p = g.p := by
  induction ws generalizing g with
  | nil => rfl
  | cons w t ih => rw [List.foldl_cons, ih, vwrite_p]
theorem vwrites_h (ws : List (Nat × BitVec 32 × (Nat → Word))) (g : Group) :
    (ws.foldl (fun g w => g.vwrite w.1 w.2.1 w.2.2) g).h = g.h := by
  induction ws generalizing g with
  | nil => rfl
  | cons w t ih => rw [List.foldl_cons, ih, vwrite_h]

/-- The uniform writes of a unit. -/
theorem kwrites_get (ws : List (Nat × Word)) (g : Group) (n : Nat) (h : ∀ w ∈ ws, w.1 ≠ n) :
    tabGet (ws.foldl (fun g w => g.kwrite w.1 w.2) g).k n = tabGet g.k n := by
  induction ws generalizing g with
  | nil => rfl
  | cons w t ih =>
    rw [List.foldl_cons, ih _ (fun x hx => h x (List.mem_cons_of_mem _ hx))]
    exact tabGet_tabPut_ne _ _ (Ne.symm (h w (List.mem_cons_self ..)))

theorem kwrites_val (ws : List (Nat × Word)) (g : Group) (hd : (ws.map (·.1)).Nodup) (w : Nat × Word) (hw : w ∈ ws) :
    (ws.foldl (fun g w => g.kwrite w.1 w.2) g).kread w.1 = w.2 := by
  induction ws generalizing g with
  | nil => cases hw
  | cons x t ih =>
    rw [List.map_cons, List.nodup_cons] at hd
    rw [List.foldl_cons]
    rcases List.mem_cons.1 hw with rfl | hw
    · rw [Group.kread, kwrites_get t _ w.1 (fun y hy he => hd.1 (he ▸ List.mem_map_of_mem hy))]
      simp [Group.kwrite]
    · exact ih _ hd.2 hw

theorem kwrites_v (ws : List (Nat × Word)) (g : Group) : (ws.foldl (fun g w => g.kwrite w.1 w.2) g).v = g.v := by
  induction ws generalizing g with
  | nil => rfl
  | cons w t ih => rw [List.foldl_cons, ih, kwrite_v]
theorem kwrites_p (ws : List (Nat × Word)) (g : Group) : (ws.foldl (fun g w => g.kwrite w.1 w.2) g).p = g.p := by
  induction ws generalizing g with
  | nil => rfl
  | cons w t ih => rw [List.foldl_cons, ih, kwrite_p]
theorem kwrites_h (ws : List (Nat × Word)) (g : Group) : (ws.foldl (fun g w => g.kwrite w.1 w.2) g).h = g.h := by
  induction ws generalizing g with
  | nil => rfl
  | cons w t ih => rw [List.foldl_cons, ih, kwrite_h]

/-- The predicate writes of a unit. -/
theorem pwrite_get_ne (g : Group) {a n : Nat} (m b : BitVec 32) (h : n ≠ a) : tabGet (g.pwrite a m b).p n = tabGet g.p n := by
  unfold Group.pwrite
  split
  · rfl
  · exact tabGet_tabPut_ne _ _ h

theorem pwrite_val (g : Group) {n : Nat} (m b : BitVec 32) (h : n ≠ 0) :
    (g.pwrite n m b).pread n = (g.pread n &&& ~~~m) ||| (b &&& m) := by
  unfold Group.pwrite
  split
  · rename_i hm
    have : m = 0 := by simpa [h] using hm
    subst this
    have h1 : (~~~(0 : BitVec 32)) = BitVec.allOnes 32 := by decide
    rw [h1, BitVec.and_allOnes]
    exact ((congrArg (g.pread n ||| ·) (BitVec.and_zero : b &&& 0#32 = 0#32)).trans BitVec.or_zero).symm
  · simp [Group.pread, h]

theorem pread_congr {g g' : Group} {n : Nat} (h : tabGet g.p n = tabGet g'.p n) : g.pread n = g'.pread n := by
  simp [Group.pread, h]

theorem pwrites_get (ws : List (Nat × BitVec 32 × BitVec 32)) (g : Group) (n : Nat) (h : ∀ w ∈ ws, w.1 ≠ n) :
    tabGet (ws.foldl (fun g w => g.pwrite w.1 w.2.1 w.2.2) g).p n = tabGet g.p n := by
  induction ws generalizing g with
  | nil => rfl
  | cons w t ih =>
    rw [List.foldl_cons, ih _ (fun x hx => h x (List.mem_cons_of_mem _ hx))]
    exact pwrite_get_ne _ _ _ (Ne.symm (h w (List.mem_cons_self ..)))

theorem pwrites_val (ws : List (Nat × BitVec 32 × BitVec 32)) (g : Group) (hd : (ws.map (·.1)).Nodup)
    (w : Nat × BitVec 32 × BitVec 32) (hw : w ∈ ws) (h0 : w.1 ≠ 0) :
    (ws.foldl (fun g w => g.pwrite w.1 w.2.1 w.2.2) g).pread w.1 = (g.pread w.1 &&& ~~~w.2.1) ||| (w.2.2 &&& w.2.1) := by
  induction ws generalizing g with
  | nil => cases hw
  | cons x t ih =>
    rw [List.map_cons, List.nodup_cons] at hd
    rw [List.foldl_cons]
    rcases List.mem_cons.1 hw with rfl | hw
    · rw [pread_congr (pwrites_get t _ w.1 (fun y hy he => hd.1 (he ▸ List.mem_map_of_mem hy))), pwrite_val _ _ _ h0]
    · rw [ih _ hd.2 hw]
      have hne : w.1 ≠ x.1 := fun he => hd.1 (he ▸ List.mem_map_of_mem hw)
      rw [pread_congr (pwrite_get_ne g x.2.1 x.2.2 hne)]

theorem pwrites_v (ws : List (Nat × BitVec 32 × BitVec 32)) (g : Group) :
    (ws.foldl (fun g w => g.pwrite w.1 w.2.1 w.2.2) g).v = g.v := by
  induction ws generalizing g with
  | nil => rfl
  | cons w t ih => rw [List.foldl_cons, ih, pwrite_v]
theorem pwrites_k (ws : List (Nat × BitVec 32 × BitVec 32)) (g : Group) :
    (ws.foldl (fun g w => g.pwrite w.1 w.2.1 w.2.2) g).k = g.k := by
  induction ws generalizing g with
  | nil => rfl
  | cons w t ih => rw [List.foldl_cons, ih, pwrite_k]
theorem pwrites_h (ws : List (Nat × BitVec 32 × BitVec 32)) (g : Group) :
    (ws.foldl (fun g w => g.pwrite w.1 w.2.1 w.2.2) g).h = g.h := by
  induction ws generalizing g with
  | nil => rfl
  | cons w t ih => rw [List.foldl_cons, ih, pwrite_h]

/-- The reference writes of a unit. -/
theorem hlane_of_get {g : Group} {n l : Nat} {ws : List DWord} (h : tabGet g.h n = some ws) : g.hlane n l = ws.getD l 0 := by
  simp [Group.hlane, h]

theorem hlane_congr {g g' : Group} {n : Nat} (h : tabGet g.h n = tabGet g'.h n) (l : Nat) : g.hlane n l = g'.hlane n l := by
  simp [Group.hlane, h]

theorem hwrite_get_ne (g : Group) {a n : Nat} (m : BitVec 32) (f : Nat → DWord) (h : n ≠ a) :
    tabGet (g.hwrite a m f).h n = tabGet g.h n := by
  unfold Group.hwrite
  split
  · rfl
  · exact tabGet_tabPut_ne _ _ h

theorem hwrite_lane (g : Group) (n : Nat) (m : BitVec 32) (f : Nat → DWord) {l : Nat} (h : l < 32) :
    (g.hwrite n m f).hlane n l = if m.getLsbD l then f l else g.hlane n l := by
  unfold Group.hwrite
  split
  · rename_i hm; simp [hm]
  · rw [hlane_of_get (by simp; rfl), getD_allLanes _ _ h]

theorem hwrites_get (ws : List (Nat × BitVec 32 × (Nat → DWord))) (g : Group) (n : Nat) (h : ∀ w ∈ ws, w.1 ≠ n) :
    tabGet (ws.foldl (fun g w => g.hwrite w.1 w.2.1 w.2.2) g).h n = tabGet g.h n := by
  induction ws generalizing g with
  | nil => rfl
  | cons w t ih =>
    rw [List.foldl_cons, ih _ (fun x hx => h x (List.mem_cons_of_mem _ hx))]
    exact hwrite_get_ne _ _ _ (Ne.symm (h w (List.mem_cons_self ..)))

theorem hwrites_lane (ws : List (Nat × BitVec 32 × (Nat → DWord))) (g : Group) (hd : (ws.map (·.1)).Nodup)
    (w : Nat × BitVec 32 × (Nat → DWord)) (hw : w ∈ ws) {l : Nat} (hl : l < 32) :
    (ws.foldl (fun g w => g.hwrite w.1 w.2.1 w.2.2) g).hlane w.1 l = if w.2.1.getLsbD l then w.2.2 l else g.hlane w.1 l := by
  induction ws generalizing g with
  | nil => cases hw
  | cons x t ih =>
    rw [List.map_cons, List.nodup_cons] at hd
    rw [List.foldl_cons]
    rcases List.mem_cons.1 hw with rfl | hw
    · rw [hlane_congr (hwrites_get t _ w.1 (fun y hy he => hd.1 (he ▸ List.mem_map_of_mem hy))), hwrite_lane _ _ _ _ hl]
    · rw [ih _ hd.2 hw]
      have hne : w.1 ≠ x.1 := fun he => hd.1 (he ▸ List.mem_map_of_mem hw)
      rw [hlane_congr (hwrite_get_ne g x.2.1 x.2.2 hne)]

theorem hwrites_v (ws : List (Nat × BitVec 32 × (Nat → DWord))) (g : Group) :
    (ws.foldl (fun g w => g.hwrite w.1 w.2.1 w.2.2) g).v = g.v := by
  induction ws generalizing g with
  | nil => rfl
  | cons w t ih => rw [List.foldl_cons, ih, hwrite_v]
theorem hwrites_k (ws : List (Nat × BitVec 32 × (Nat → DWord))) (g : Group) :
    (ws.foldl (fun g w => g.hwrite w.1 w.2.1 w.2.2) g).k = g.k := by
  induction ws generalizing g with
  | nil => rfl
  | cons w t ih => rw [List.foldl_cons, ih, hwrite_k]
theorem hwrites_p (ws : List (Nat × BitVec 32 × (Nat → DWord))) (g : Group) :
    (ws.foldl (fun g w => g.hwrite w.1 w.2.1 w.2.2) g).p = g.p := by
  induction ws generalizing g with
  | nil => rfl
  | cons w t ih => rw [List.foldl_cons, ih, hwrite_p]

/-- Everything that an effect does to the registers. -/
theorem apply_regs (g : Group) {e : Eff} (hd : e.distinct) : RegsAfter g e (g.apply e) := by
  obtain ⟨hv, hk, hp, hh⟩ := hd
  refine ⟨?_, ?_, ?_, ?_, ?_, ?_, by simp [Group.pread], ?_, ?_⟩
  · intro w hw l hl
    have h1 : tabGet (g.apply e).v w.1 = tabGet (e.v.foldl (fun g w => g.vwrite w.1 w.2.1 w.2.2) (g.freed e)).v w.1 := by
      simp only [Group.apply, hwrites_v, pwrites_v, kwrites_v]
    rw [vlane_congr h1, vwrites_lane _ _ hv w hw hl]
    have h2 := freed_get e.frees g w.1
    split
    · rfl
    · split
      · rename_i hf
        simp only [Group.vlane, Group.vread, Group.freed, h2, if_pos hf, Option.getD_none]
        exact getD_replicate_self 32 0 l
      · rename_i hf
        exact vlane_congr (by rw [Group.freed, h2, if_neg hf]) l
  · intro n hn
    simp only [Group.apply, hwrites_v, pwrites_v, kwrites_v]
    rw [vwrites_get _ _ _ hn]
    exact freed_get e.frees g n
  · intro w hw
    have : (g.apply e).k = (e.k.foldl (fun g w => g.kwrite w.1 w.2) (e.v.foldl (fun g w => g.vwrite w.1 w.2.1 w.2.2) (g.freed e))).k := by
      simp only [Group.apply, hwrites_k, pwrites_k]
    rw [Group.kread, this]
    exact kwrites_val _ _ hk w hw
  · intro n hn
    simp only [Group.apply, hwrites_k, pwrites_k]
    rw [kwrites_get _ _ _ hn, vwrites_k, Group.freed, freed_k]
  · intro w hw h0
    have h1 : tabGet (g.apply e).p w.1 = tabGet (e.p.foldl (fun g w => g.pwrite w.1 w.2.1 w.2.2)
        (e.k.foldl (fun g w => g.kwrite w.1 w.2) (e.v.foldl (fun g w => g.vwrite w.1 w.2.1 w.2.2) (g.freed e)))).p w.1 := by
      simp only [Group.apply, hwrites_p]
    rw [pread_congr h1, pwrites_val _ _ hp w hw h0]
    have h2 : tabGet (e.k.foldl (fun g w => g.kwrite w.1 w.2) (e.v.foldl (fun g w => g.vwrite w.1 w.2.1 w.2.2) (g.freed e))).p w.1 =
        tabGet g.p w.1 := by rw [kwrites_p, vwrites_p, Group.freed, freed_p]
    rw [pread_congr h2]
  · intro n hn
    simp only [Group.apply, hwrites_p]
    rw [pwrites_get _ _ _ hn, kwrites_p, vwrites_p, Group.freed, freed_p]
  · intro w hw l hl
    rw [Group.apply, hwrites_lane _ _ hh w hw hl]
    have h2 : tabGet (e.p.foldl (fun g w => g.pwrite w.1 w.2.1 w.2.2)
        (e.k.foldl (fun g w => g.kwrite w.1 w.2) (e.v.foldl (fun g w => g.vwrite w.1 w.2.1 w.2.2) (g.freed e)))).h w.1 =
        tabGet g.h w.1 := by rw [pwrites_h, kwrites_h, vwrites_h, Group.freed, freed_h]
    rw [hlane_congr h2]
  · intro n hn
    rw [Group.apply, hwrites_get _ _ _ hn, pwrites_h, kwrites_h, vwrites_h, Group.freed, freed_h]

/-- Of a group only registers and dirty bits differ. -/
def OnlyRegs (g x : Group) : Prop := { x with v := g.v, k := g.k, p := g.p, h := g.h, dirty := g.dirty } = g

theorem onlyRegs_vfree {g x : Group} (h : OnlyRegs g x) (n : Nat) : OnlyRegs g (x.vfree n) := h
theorem onlyRegs_kwrite {g x : Group} (h : OnlyRegs g x) (n : Nat) (w : Word) : OnlyRegs g (x.kwrite n w) := h
theorem onlyRegs_vwrite {g x : Group} (h : OnlyRegs g x) (n : Nat) (m : BitVec 32) (f : Nat → Word) : OnlyRegs g (x.vwrite n m f) := by
  unfold Group.vwrite; split <;> exact h
theorem onlyRegs_pwrite {g x : Group} (h : OnlyRegs g x) (n : Nat) (m b : BitVec 32) : OnlyRegs g (x.pwrite n m b) := by
  unfold Group.pwrite; split <;> exact h
theorem onlyRegs_hwrite {g x : Group} (h : OnlyRegs g x) (n : Nat) (m : BitVec 32) (f : Nat → DWord) : OnlyRegs g (x.hwrite n m f) := by
  unfold Group.hwrite; split <;> exact h

theorem onlyRegs_foldl {β : Type} {g : Group} (f : Group → β → Group) (hf : ∀ x b, OnlyRegs g x → OnlyRegs g (f x b)) (l : List β)
    {x : Group} (h : OnlyRegs g x) : OnlyRegs g (l.foldl f x) := by
  induction l generalizing x with
  | nil => exact h
  | cons a t ih => exact ih (hf x a h)

/-- An effect changes nothing of a group but registers and dirty bits. -/
theorem apply_rest (g : Group) (e : Eff) : OnlyRegs g (g.apply e) := by
  unfold Group.apply Group.freed
  exact onlyRegs_foldl _ (fun x b h => onlyRegs_hwrite h _ _ _) _ (onlyRegs_foldl _ (fun x b h => onlyRegs_pwrite h _ _ _) _
    (onlyRegs_foldl _ (fun x b h => onlyRegs_kwrite h _ _) _ (onlyRegs_foldl _ (fun x b h => onlyRegs_vwrite h _ _ _) _
    (onlyRegs_foldl _ (fun x b h => onlyRegs_vfree h _) _ (rfl : OnlyRegs g g)))))

/-! ### The end of a unit -/

/-- Changing the group of the issuing split, whose unit asks for registers no more, changes nothing else. -/
theorem modGroup_only {s : State} {c : Ctx} (h : ctx? s = some c) (f : Group → Group) :
    OnlyGroup s ((s.modTeam c.key (fun t => t.served c.group.num c.split.idx)).modGroup c.key c.group.num f) c (f c.live) := by
  obtain ⟨-, ht, -, hg, -⟩ := ctxAt_spec h
  refine ⟨rfl, fun k hk => ?_, { c.team.served c.group.num c.split.idx with groups := tabMod c.team.groups c.group.num f }, ?_, rfl, ?_, ?_⟩
  · simp only [State.modGroup, State.modTeam, tabGet_tabMod_ne _ _ hk]
  · simp [State.modGroup, State.modTeam, tabGet_tabMod_self, ht, Team.served]
  · simp [tabGet_tabMod_self, hg]
  · exact fun n hn => tabGet_tabMod_ne _ _ hn

/-- A register unit that ends: its group takes the effect and its split goes on. -/
theorem finishAt_spec {s : State} {c : Ctx} (h : ctx? s = some c) {e : Eff} (hd : e.distinct) (pc : DWord) :
    ∃ g', OnlyGroup s (finishAt s c e pc) c g' ∧ GroupAfter c e pc g' := by
  have hr := apply_rest c.live e
  unfold OnlyRegs at hr
  have hs : (c.live.apply e).splits = c.live.splits := by
    have := congrArg (fun x : Group => x.splits) hr
    exact this
  refine ⟨_, modGroup_only h _, ?_, ?_, ?_⟩
  · exact { apply_regs c.live hd with }
  · simp only [Group.modSplit, wentOn, hs]
  · have := congrArg (fun x : Group => { x with splits := c.live.splits }) hr
    exact this

/-- A register unit that fits completes. -/
theorem unit_spec {s : State} {c : Ctx} (h : ctx? s = some c) {e : Eff} (hd : e.distinct) (hf : Fits s c e) :
    Completes s (unit s c e) c e := by
  have : unit s c e = finish s c e := by
    simp [unit, unitWith, hf.1, hf.2, lowest]
  rw [this]
  exact finishAt_spec h hd _

end Sys2Proof.Machine
end

