-- ==== Sys2Proof/Laws/Course.lean ====
section
/-! SUPPORT. What the marks of memory accesses leave (07 R227 to R229, R236), and the course of a memory unit that nothing stops. -/

namespace Sys2Proof.Machine

open Sys2Proof

/-- Of a table of teams one group has changed. -/
def GroupAt (ts ts' : Tab Team) (c : Ctx) (g' : Group) : Prop :=
  (∀ k, k ≠ c.key → tabGet ts' k = tabGet ts k) ∧
  ∃ tm, tabGet ts' c.key = some tm ∧ { tm with groups := c.team.groups } = c.team ∧
    tabGet tm.groups c.group.num = some g' ∧ ∀ n, n ≠ c.group.num → tabGet tm.groups n = tabGet c.team.groups n

/-- The unit asks for registers no more, and its group changes. -/
theorem onlyGroup_served {s t : State} {c : Ctx} {g' : Group} (f : Group → Group) (h : { t with teams := s.teams } = s)
    (hg : GroupAt s.teams t.teams c g') :
    OnlyGroup s ((t.modTeam c.key (fun t => t.served c.group.num c.split.idx)).modGroup c.key c.group.num f) c (f g') := by
  obtain ⟨h1, tm, h2, h3, h4, h5⟩ := hg
  refine ⟨h, fun k hk => ?_, { tm.served c.group.num c.split.idx with groups := tabMod tm.groups c.group.num f }, ?_, ?_, ?_, ?_⟩
  · simp only [State.modGroup, State.modTeam, tabGet_tabMod_ne _ _ hk]; exact h1 k hk
  · simp [State.modGroup, State.modTeam, tabGet_tabMod_self, h2, Team.served]
  · exact congrArg (fun x : Team => x.served c.group.num c.split.idx) h3
  · simp [tabGet_tabMod_self, h4]
  · exact fun n hn => (tabGet_tabMod_ne _ _ hn).trans (h5 n hn)

theorem groupAt_refl {s : State} {c : Ctx} (h : ctx? s = some c) : GroupAt s.teams s.teams c c.live := by
  obtain ⟨-, ht, -, hg, -⟩ := ctxAt_spec h
  exact ⟨fun _ _ => rfl, c.team, ht, rfl, hg, fun _ _ => rfl⟩

theorem groupAt_modGroup {s : State} {ts : Tab Team} {c : Ctx} {g' : Group} (h : GroupAt ts s.teams c g') (f : Group → Group) :
    GroupAt ts (s.modGroup c.key c.group.num f).teams c (f g') := by
  obtain ⟨h1, tm, h2, h3, h4, h5⟩ := h
  refine ⟨fun k hk => (tabGet_tabMod_ne _ _ hk).trans (h1 k hk), { tm with groups := tabMod tm.groups c.group.num f }, ?_, h3, ?_, ?_⟩
  · simp [State.modGroup, State.modTeam, tabGet_tabMod_self, h2]
  · simp [tabGet_tabMod_self, h4]
  · exact fun n hn => (tabGet_tabMod_ne _ _ hn).trans (h5 n hn)

/-! ### Marks of an access -/

/-- What the marks of accesses may change beside one group. -/
structure Marked (s t : State) : Prop where
  rest : { t with mem := s.mem, bad := s.bad, spadDirty := s.spadDirty, l1Lines := s.l1Lines, lineClass := s.lineClass, lineIdent := s.lineIdent, dieTlb := s.dieTlb, cores := s.cores
                  teams := s.teams } = s
  cores : ∀ n, { t.core n with tlb := (s.core n).tlb } = s.core n

theorem Marked.refl (s : State) : Marked s s := ⟨rfl, fun _ => rfl⟩

theorem Marked.trans {s t u : State} (h : Marked s t) (k : Marked t u) : Marked s u := by
  obtain ⟨h1, h2⟩ := h
  obtain ⟨k1, k2⟩ := k
  refine ⟨?_, fun n => ?_⟩
  · have := congrArg (fun x : State => { x with mem := s.mem, bad := s.bad, spadDirty := s.spadDirty, l1Lines := s.l1Lines, lineClass := s.lineClass, lineIdent := s.lineIdent, dieTlb := s.dieTlb, cores := s.cores, teams := s.teams }) k1
    exact this.trans h1
  · have := congrArg (fun x : Core => { x with tlb := (s.core n).tlb }) (k2 n)
    exact this.trans (h2 n)

theorem touched_bad (s : State) (pa n : Nat) (h : n < 64) : (s.touched pa n).bad = s.bad := by
  unfold State.touched
  simp only
  split
  · rename_i h; simp at h; exact h.symm
  · apply List.filter_eq_self.2
    intro g _
    simp; omega

theorem bytesOf_length (n v : Nat) : (bytesOf n v).length = n := by
  induction n generalizing v with
  | zero => rfl
  | succ n ih => simp [bytesOf, ih]

theorem write_marked {s : State} (hm : s.migrations = []) (pa : Nat) (bs : List Byte) :
    Marked s (s.write pa bs) ∧ (s.write pa bs).teams = s.teams ∧ (s.write pa bs).migrations = [] := by
  have : (s.write pa bs).migrations = [] := by simp [State.write, State.touched, hm, markDirty]
  refine ⟨⟨?_, fun n => rfl⟩, rfl, this⟩
  cases s; simp_all [State.write, State.touched, markDirty]

theorem byteAt_write_outside (s : State) {pa a : Nat} (bs : List Byte) (h : a < pa ∨ pa + bs.length ≤ a) :
    (s.write pa bs).byteAt a = s.byteAt a := memGet_memSetMany_of_outside _ _ h

/-- The caches after a translation. -/
def cached (s : State) (core : Option Nat) (die : Nat) (x : Xlat) : State :=
  let s := { s with dieTlb := tabPut s.dieTlb die (cachePut 16384 ((tabGet s.dieTlb die).getD []) x) }
  match core with
  | some c => { s with cores := tabMod s.cores c (fun k => { k with tlb := cachePut 256 k.tlb x }) }
  | none => s

theorem cached_marked (s : State) (core : Option Nat) (die : Nat) (x : Xlat) : Marked s (cached s core die x) := by
  cases core with
  | none => exact ⟨rfl, fun _ => rfl⟩
  | some c =>
    refine ⟨rfl, fun n => ?_⟩
    simp only [cached, State.core, tabGet_tabMod]
    split
    · subst_vars
      cases tabGet s.cores n <;> rfl
    · rfl

theorem cached_mem (s : State) (core : Option Nat) (die : Nat) (x : Xlat) :
    (cached s core die x).mem = s.mem ∧ (cached s core die x).teams = s.teams ∧ (cached s core die x).migrations = s.migrations ∧
    (cached s core die x).bad = s.bad := by
  cases core <;> exact ⟨rfl, rfl, rfl, rfl⟩

/-- The entry after a walk. -/
def marked (s : State) (x : Xlat) (w k : Bool) : State :=
  if k && (noted x w k).leaf != x.leaf then s.writeNum x.leafAt 8 (s.num x.leafAt 8 ||| ((noted x w k).leaf.toNat ^^^ x.leaf.toNat)) else s

theorem noteXlat_eq (s : State) (core : Option Nat) (die : Nat) (x : Xlat) (w k : Bool) :
    noteXlat s core die x w k = cached (marked s x w k) core die (noted x w k) := by
  cases core <;> rfl

/-- What one translation leaves behind. -/
theorem noteXlat_marked {s : State} (hm : s.migrations = []) (core : Option Nat) (die : Nat) (x : Xlat) (w k : Bool) :
    Marked s (noteXlat s core die x w k) ∧ (noteXlat s core die x w k).teams = s.teams ∧ (noteXlat s core die x w k).migrations = [] ∧
    (noteXlat s core die x w k).bad = s.bad ∧
    ∀ a, ¬ (k = true ∧ x.leafAt ≤ a ∧ a < x.leafAt + 8) → (noteXlat s core die x w k).byteAt a = s.byteAt a := by
  have h1 : Marked s (marked s x w k) ∧ (marked s x w k).teams = s.teams ∧ (marked s x w k).migrations = [] ∧ (marked s x w k).bad = s.bad ∧
      ∀ a, ¬ (k = true ∧ x.leafAt ≤ a ∧ a < x.leafAt + 8) → (marked s x w k).byteAt a = s.byteAt a := by
    unfold marked
    split
    · rename_i hk
      obtain ⟨h1, h2, h3⟩ := write_marked hm x.leafAt (bytesOf 8 (s.num x.leafAt 8 ||| ((noted x w k).leaf.toNat ^^^ x.leaf.toNat)))
      refine ⟨h1, h2, h3, touched_bad _ _ _ (by rw [bytesOf_length]; omega), fun a ha => byteAt_write_outside _ _ ?_⟩
      rw [bytesOf_length]
      simp only [Bool.and_eq_true] at hk
      simp only [hk.1, true_and] at ha
      rw [not_and_or, not_le, not_lt] at ha
      exact ha
    · exact ⟨Marked.refl s, rfl, hm, rfl, fun _ _ => rfl⟩
  rw [noteXlat_eq]
  obtain ⟨h1, h2, h3, h4, h5⟩ := h1
  obtain ⟨c1, c2, c3, c4⟩ := cached_mem (marked s x w k) core die (noted x w k)
  refine ⟨h1.trans (cached_marked ..), c2.trans h2, c3.trans h3, c4.trans h4, fun a ha => ?_⟩
  have : (cached (marked s x w k) core die (noted x w k)).byteAt a = (marked s x w k).byteAt a := by simp only [State.byteAt, c1]
  exact this.trans (h5 a ha)

theorem fill_marked (s : State) (l1 : Option Nat) (pa n ident cls : Nat) : Marked s (s.fill l1 pa n ident cls) := ⟨rfl, fun _ => rfl⟩

/-- Only the last-page registers of a group may differ. -/
def PagesOnly (g x : Group) : Prop := { x with lastPage := g.lastPage } = g

/-- The marks of one look that has a piece. -/
def noteOne (s : State) (c : Ctx) (write lp : Bool) (k : Look) (p : Piece) : State :=
  let s := noteXlat s (some c.core) (dieOf c.core) p.x write p.walked
  let s := if p.x.region = 2 || k.denied.isSome then s else s.fill p.via.fills p.pa p.n c.q.identity.toNat p.x.cls
  if lp && p.x.region != 1 then
    s.modGroup c.key c.group.num (fun g => { g with lastPage := tabPut g.lastPage k.lane (noted p.x write p.walked) })
  else s

theorem noteLooks_cons {k : Look} {p : Piece} (hk : k.piece = some p) (s : State) (c : Ctx) (write lp : Bool) (t : List Look) :
    noteLooks s c write lp (k :: t) = noteLooks (noteOne s c write lp k p) c write lp t := by
  simp only [noteLooks, List.foldl_cons, hk]
  rfl

theorem noteOne_spec {s : State} {c : Ctx} {ts : Tab Team} (write lp : Bool) (k : Look) (p : Piece) (hm : s.migrations = []) {g : Group}
    (hg : GroupAt ts s.teams c g) : ∃ g1, GroupAt ts (noteOne s c write lp k p).teams c g1 ∧ Marked s (noteOne s c write lp k p) ∧
      (noteOne s c write lp k p).migrations = [] ∧ (noteOne s c write lp k p).bad = s.bad ∧
      (∀ a, ¬ (p.walked = true ∧ p.x.leafAt ≤ a ∧ a < p.x.leafAt + 8) → (noteOne s c write lp k p).byteAt a = s.byteAt a) ∧
      PagesOnly g g1 ∧ ∀ l, tabGet g1.lastPage l = if lp = true ∧ l = k.lane ∧ p.x.region ≠ 1
          then some (noted p.x write p.walked) else tabGet g.lastPage l := by
  unfold noteOne
  obtain ⟨a1, a2, a3, a4, a5⟩ := noteXlat_marked hm (some c.core) (dieOf c.core) p.x write p.walked
  generalize noteXlat s (some c.core) (dieOf c.core) p.x write p.walked = s1 at *
  have b : ∀ s2, s2 = (if (p.x.region = 2 || k.denied.isSome) = true then s1 else s1.fill p.via.fills p.pa p.n c.q.identity.toNat p.x.cls) →
      Marked s1 s2 ∧ s2.teams = s1.teams ∧ s2.migrations = s1.migrations ∧ s2.bad = s1.bad ∧ s2.mem = s1.mem := by
    rintro s2 rfl
    split
    · exact ⟨Marked.refl _, rfl, rfl, rfl, rfl⟩
    · exact ⟨fill_marked .., rfl, rfl, rfl, rfl⟩
  simp only
  generalize hs2 : (if (p.x.region = 2 || k.denied.isSome) = true then s1 else s1.fill p.via.fills p.pa p.n c.q.identity.toNat p.x.cls) = s2
  obtain ⟨b1, b2, b3, b4, b5⟩ := b s2 hs2.symm
  have hg2 : GroupAt ts s2.teams c g := by rw [b2, a2]; exact hg
  have hb : ∀ a, s2.byteAt a = s1.byteAt a := fun a => by simp only [State.byteAt, b5]
  split
  · rename_i h
    simp only [Bool.and_eq_true, bne_iff_ne] at h
    refine ⟨_, groupAt_modGroup hg2 _, (a1.trans b1).trans ⟨rfl, fun _ => rfl⟩, b3.trans a3, b4.trans a4,
      fun a ha => (hb a).trans (a5 a ha), rfl, fun l => ?_⟩
    simp only [tabGet_tabPut]
    by_cases hl : l = k.lane <;> simp [hl, h]
  · rename_i h
    simp only [Bool.and_eq_true, bne_iff_ne, not_and] at h
    refine ⟨g, hg2, a1.trans b1, b3.trans a3, b4.trans a4, fun a ha => (hb a).trans (a5 a ha), rfl, fun l => ?_⟩
    rw [if_neg (fun hl => h hl.1 hl.2.2)]

/-- The marks of all looks of a unit. -/
theorem noteLooks_spec {s : State} {c : Ctx} {ts : Tab Team} (write lp : Bool) (looks : List Look) (p : Nat → Piece) :
    (∀ k ∈ looks, k.piece = some (p k.lane)) → s.migrations = [] → ∀ g, GroupAt ts s.teams c g → (looks.map (·.lane)).Nodup →
    ∃ g', GroupAt ts (noteLooks s c write lp looks).teams c g' ∧ Marked s (noteLooks s c write lp looks) ∧
      (noteLooks s c write lp looks).migrations = [] ∧ (noteLooks s c write lp looks).bad = s.bad ∧
      (∀ a, ¬ InWalked (looks.map (fun k => p k.lane)) a → (noteLooks s c write lp looks).byteAt a = s.byteAt a) ∧
      PagesOnly g g' ∧ (∀ l, tabGet g'.lastPage l = if lp = true ∧ (∃ k ∈ looks, k.lane = l) ∧ (p l).x.region ≠ 1
        then some (noted (p l).x write (p l).walked) else tabGet g.lastPage l) := by
  induction looks generalizing s with
  | nil => intro _ hm g hg _; exact ⟨g, hg, Marked.refl s, hm, rfl, fun _ _ => rfl, rfl, by simp⟩
  | cons k t ih =>
    intro hp hm g hg hd
    rw [List.map_cons, List.nodup_cons] at hd
    rw [noteLooks_cons (hp k (List.mem_cons_self ..))]
    obtain ⟨g1, e5, e1, e2, e3, e4, e6, e7⟩ := noteOne_spec write lp k (p k.lane) hm hg
    obtain ⟨g', f1, f2, f3, f4, f5, f6, f7⟩ := ih (fun j hj => hp j (List.mem_cons_of_mem _ hj)) e2 g1 e5 hd.2
    refine ⟨g', f1, e1.trans f2, f3, f4.trans e3, ?_, ?_, ?_⟩
    · intro a ha
      exact (f5 a (fun ⟨q, hq, h⟩ => ha ⟨q, List.mem_cons_of_mem _ hq, h⟩)).trans (e4 a (fun h => ha ⟨_, List.mem_cons_self .., h⟩))
    · unfold PagesOnly at *
      exact (congrArg (fun x : Group => { x with lastPage := g.lastPage }) f6).trans e6
    · intro l
      rw [f7, e7]
      by_cases h1 : lp = true <;> simp only [h1, true_and, Bool.false_eq_true, false_and, if_false]
      by_cases h2 : (p l).x.region ≠ 1
      · by_cases h3 : ∃ j ∈ t, j.lane = l
        · have h4 : ∃ j ∈ k :: t, j.lane = l := by obtain ⟨j, hj, hl⟩ := h3; exact ⟨j, List.mem_cons_of_mem _ hj, hl⟩
          simp [h2, h3]
        · by_cases h4 : l = k.lane
          · subst h4; simp [h2]
          · have : ¬ (k.lane = l) := fun h => h4 h.symm
            simp [h2, h3, h4, this]
      · simp only [h2, and_false, if_false]
        rw [if_neg]
        rintro ⟨h3, h4⟩; subst h3; exact h2 h4

/-! ### The course of an access that nothing stops -/

theorem flushMet_calm {s : State} {core : Nat} (h : (s.core core).upd = []) (pa n : Nat) : flushMet s core pa n = s := by
  simp [flushMet, flushCore, h]
theorem closeRead_calm {s : State} (h : s.wc = []) (qn va n : Nat) : closeRead s qn va n = s := by
  simp [closeRead, closeWcs, h]
theorem settle_calm {s : State} {c : Ctx} (h : Calm s c) (looks : List Look) : settle s c looks = s := by
  unfold settle
  induction piecesOf looks with
  | nil => rfl
  | cons p t ih => simp only [List.foldl_cons, flushMet_calm h.1, closeRead_calm h.2.1, ite_self]; exact ih
theorem heldByMigration_calm {s : State} (h : s.migrations = []) (pa n : Nat) : heldByMigration s pa n = false := by
  simp [heldByMigration, h]
theorem behindEarlier_calm {s : State} {c : Ctx} (h : inFlight s true c.split = false) (pa n : Nat) : behindEarlier s c pa n = false := by
  simp only [inFlight, behindEarlier, List.any_eq_false] at h ⊢
  intro x hx
  have h := h x hx
  cases ho : tabGet s.ops x.1 with
  | none => simp
  | some o =>
    simp only [ho, Option.map_some] at h
    unfold meetsEarlier
    cases hb : o.body with
    | mwait w => simp [hb] at h
    | link l => simp only [hb] at h; cases hf : l.form <;> simp_all [LinkForm.isWindow]
    | _ => simp [hb]
theorem mustWait_calm {s : State} {c : Ctx} (h : Calm s c) (acc : Acc) (looks : List Look) : mustWait s c acc looks = false := by
  simp [mustWait, heldByMigration_calm h.2.2.1, flushHeld, h.1, behindEarlier_calm h.2.2.2]

theorem memCourse_opens {s : State} {c : Ctx} {e : Eff} (whole : Option (BitVec 32)) (acc : Acc) (path : Nat) (looks : List Look) (act : State → State) (p : Nat → Piece)
    (hc : Calm s c) (hf : Fits s c e) (ho : ∀ k ∈ looks, k.opens s (p k.lane)) :
    memCourse s c whole acc path looks [] e act = act s := by
  have h1 : looks.flatMap (·.traps) = [] := List.flatMap_eq_nil_iff.2 (fun k hk => (ho k hk).1)
  have h2 : faultOf whole acc looks = none := by
    unfold faultOf
    rw [List.filter_eq_nil_iff.2 (fun k hk => by simp [(ho k hk).2.1])]
  have h3 : denialEvent s c whole path 0 looks = s := by
    unfold denialEvent
    rw [List.filter_eq_nil_iff.2 (fun k hk => by simp [(ho k hk).2.2.2.1])]
  have h4 : condsOf whole [] = [] := rfl
  unfold memCourse
  simp [h1, h2, h3, h4, hf.1, hf.2, lowest, mustWait_calm hc]

theorem looks_near {s : State} {looks : List Look} {p : Nat → Piece} (ho : ∀ k ∈ looks, k.opens s (p k.lane)) :
    looks.any (Look.remote s) = false := by
  rw [List.any_eq_false]; intro k hk; simp [(ho k hk).2.2.2.2]

theorem mem_lanesOf {m : BitVec 32} {l : Nat} : l ∈ lanesOf m ↔ l < 32 ∧ m.getLsbD l = true := by
  simp [lanesOf, allLanes]

theorem lookAt_lane (s : State) (c : Ctx) (acc : Acc) (last : Option Xlat) (locks : Bool) (lane va n al : Nat) (ro : Bool) :
    (lookAt s c acc last locks lane va n al ro).lane = lane := by
  unfold lookAt
  dsimp only
  generalize (!List.isEmpty _) = b
  cases b
  · obtain ⟨x, w⟩ := translate s c.q last (some c.core) (dieOf c.core) va acc.writes
    cases x <;> rfl
  · rfl

theorem find_map_lane {f : Nat → Look} (hf : ∀ l, (f l).lane = l) (ls : List Nat) {l : Nat} (h : l ∈ ls) : (ls.map f).find? (fun k => k.lane == l) = some (f l) := by
  induction ls with
  | nil => cases h
  | cons a t ih =>
    simp only [List.map_cons, List.find?_cons, hf]
    by_cases ha : a = l
    · simp [ha]
    · rw [show (a == l) = false by simpa using ha]; exact ih (by simpa [Ne.symm ha] using h)
theorem readPiece_open {s : State} {q : Queue} {p : Piece} (h : deniedClass s q p = none) : readPiece s q p = s.bytes p.pa p.n := by
  simp [readPiece, h]
theorem lookAt_piece {s : State} {c : Ctx} {acc : Acc} {last : Option Xlat} {locks : Bool} {lane va n al : Nat} {ro : Bool} {p : Piece}
    (h : (lookAt s c acc last locks lane va n al ro).piece = some p) :
    p.n = n ∧ (lookAt s c acc last locks lane va n al ro).denied = deniedClass s c.q p := by
  unfold lookAt at *
  dsimp only at *
  revert h
  generalize (!List.isEmpty _) = b
  cases b
  · obtain ⟨x, w⟩ := translate s c.q last (some c.core) (dieOf c.core) va acc.writes
    cases x
    · intro h; injection h with h; subst h; exact ⟨rfl, rfl⟩
    · intro h; cases h
    · intro h; cases h
    · intro h; cases h
  · intro h; cases h

/-- a finished unit over marks. -/
theorem finish_access {s t : State} {c : Ctx} {g1 : Group} {e : Eff} (hd : e.distinct) (write : Bool) (m : BitVec 32) (p : Nat → Piece)
    (hu : t.unit = s.unit) (hM : Marked s t) (hg : GroupAt s.teams t.teams c g1) (hp : PagesOnly c.live g1)
    (hl : ∀ l < 32, tabGet g1.lastPage l = if m.getLsbD l = true ∧ (p l).x.region ≠ 1 then some (noted (p l).x write (p l).walked) else tabGet c.live.lastPage l) :
    ∃ g', OnlyAccess s (finish t c e) c g' ∧ GroupAccess c e s.unit.npc write m p g' := by
  have hr := apply_rest g1 e
  unfold OnlyRegs at hr
  have hs : (g1.apply e).splits = g1.splits := by have := congrArg (fun x : Group => x.splits) hr; exact this
  have hlp : (g1.apply e).lastPage = g1.lastPage := by have := congrArg (fun x : Group => x.lastPage) hr; exact this
  unfold PagesOnly at hp
  have hgs : g1.splits = c.live.splits := by have := congrArg (fun x : Group => x.splits) hp; exact this
  refine ⟨_, ⟨?_, ?_, onlyGroup_served (s := { t with teams := s.teams }) _ rfl hg⟩, ⟨⟨?_, ?_, ?_⟩, ?_⟩⟩
  · exact hM.rest
  · exact hM.cores
  · have h1 := apply_regs g1 hd
    have e1 : g1.v = c.live.v := by have := congrArg (fun x : Group => x.v) hp; exact this
    have e2 : g1.k = c.live.k := by have := congrArg (fun x : Group => x.k) hp; exact this
    have e3 : g1.p = c.live.p := by have := congrArg (fun x : Group => x.p) hp; exact this
    have e4 : g1.h = c.live.h := by have := congrArg (fun x : Group => x.h) hp; exact this
    constructor
    · intro w hw l hl'; have := h1.v w hw l hl'; rw [show c.live.vlane w.1 l = g1.vlane w.1 l by simp [Group.vlane, Group.vread, e1]]; exact this
    · intro n hn; rw [← e1]; exact h1.vOther n hn
    · exact h1.k
    · intro n hn; rw [← e2]; exact h1.kOther n hn
    · intro w hw h0; rw [show c.live.pread w.1 = g1.pread w.1 by simp [Group.pread, e3]]; exact h1.p w hw h0
    · intro n hn; rw [← e3]; exact h1.pOther n hn
    · exact h1.p0
    · intro w hw l hl'; rw [show c.live.hlane w.1 l = g1.hlane w.1 l by simp [Group.hlane, e4]]; exact h1.h w hw l hl'
    · intro n hn; rw [← e4]; exact h1.hOther n hn
  · simp only [Group.modSplit, wentOn, hs, hgs, hu]
  · have h2 := congrArg (fun x : Group => { x with v := c.live.v, k := c.live.k, p := c.live.p, h := c.live.h, splits := c.live.splits, lastPage := c.live.lastPage, dirty := c.live.dirty }) hr
    have h3 := congrArg (fun x : Group => { x with v := c.live.v, k := c.live.k, p := c.live.p, h := c.live.h, splits := c.live.splits, dirty := c.live.dirty }) hp
    exact h2.trans h3
  · intro l hl'
    simp only [Group.modSplit, hlp]
    exact hl l hl'

end Sys2Proof.Machine
end

