-- ==== Sys2Proof/Laws/Packed.lean ====
section
/-! SUPPORT. A packed word reads back field by field; a word or a halfword that an instruction encodes to decodes to it. -/

namespace Sys2Proof

/-- Bits that a list of fields takes. -/
def packWidth : List (Nat × Nat) → Nat
  | [] => 0
  | (w, _) :: t => w + packWidth t

/-- Bits inside one field of a packed word. -/
theorem bits_pack (pre : List (Nat × Nat)) (w v : Nat) (post : List (Nat × Nat)) (off n : Nat) (h : off + n ≤ w) :
    bitsOf (packBits (pre ++ (w, v) :: post)) (packWidth pre + off) n = v / 2 ^ off % 2 ^ n := by
  induction pre with
  | nil =>
    simp only [List.nil_append, packBits, packWidth, Nat.zero_add, bitsOf]
    obtain ⟨k, rfl⟩ : ∃ k, w = off + n + k := ⟨w - (off + n), by omega⟩
    have h1 : 2 ^ (off + n + k) = 2 ^ off * (2 ^ n * 2 ^ k) := by rw [Nat.pow_add, Nat.pow_add, Nat.mul_assoc]
    rw [h1, Nat.mod_mul, Nat.add_assoc, Nat.mul_assoc (2 ^ off), ← Nat.mul_add, Nat.add_mul_div_left _ _ (Nat.two_pow_pos off),
      Nat.div_eq_of_lt (Nat.mod_lt _ (Nat.two_pow_pos off)), Nat.zero_add, Nat.mul_assoc (2 ^ n), Nat.add_mul_mod_self_left,
      Nat.mod_mul_right_mod]
  | cons x t ih =>
    obtain ⟨a, b⟩ := x
    simp only [List.cons_append, packBits, packWidth, bitsOf] at ih ⊢
    rw [Nat.add_assoc, Nat.pow_add, ← Nat.div_div_eq_div_mul, Nat.add_mul_div_left _ _ (Nat.two_pow_pos a),
      Nat.div_eq_of_lt (Nat.mod_lt _ (Nat.two_pow_pos a)), Nat.zero_add]
    exact ih

/-- A whole field of a packed word. -/
theorem fld_pack (pre : List (Nat × Nat)) {n : Nat} (x : BitVec n) (post : List (Nat × Nat)) :
    fld (packBits (pre ++ (n, x.toNat) :: post)) (packWidth pre) n = x := by
  apply BitVec.eq_of_toNat_eq
  have := bits_pack pre n x.toNat post 0 n (by omega)
  simp only [bitsOf, Nat.add_zero, Nat.pow_zero, Nat.div_one] at this
  rw [fld, BitVec.toNat_ofNat, this, Nat.mod_eq_of_lt x.isLt]

theorem pack_split (fs : List (Nat × Nat)) {i : Nat} {f : Nat × Nat} (h : fs[i]? = some f) : fs = fs.take i ++ f :: fs.drop (i + 1) := by
  obtain ⟨hi, rfl⟩ := List.getElem?_eq_some_iff.1 h
  rw [List.getElem_cons_drop, List.take_append_drop]

/-- Bits [off+n-1:off] of field `i` of a packed word. -/
theorem bits_at {u : Nat} {fs : List (Nat × Nat)} (hu : u = packBits fs) (i off : Nat) {w v lo n r : Nat} (h : fs[i]? = some (w, v))
    (hl : packWidth (fs.take i) + off = lo) (hn : off + n ≤ w) (hr : v / 2 ^ off % 2 ^ n = r) : bitsOf u lo n = r := by
  rw [hu, ← hl, pack_split fs h, ← hr]
  have := bits_pack (fs.take i) w v (fs.drop (i + 1)) off n hn
  simpa [← pack_split fs h] using this

/-- Field `i` of a packed word. -/
theorem fld_at {u : Nat} {fs : List (Nat × Nat)} (hu : u = packBits fs) (i : Nat) {n lo : Nat} {x : BitVec n} (h : fs[i]? = some (n, x.toNat))
    (hl : packWidth (fs.take i) = lo) : fld u lo n = x := by
  have := fld_pack (fs.take i) x (fs.drop (i + 1))
  rw [← pack_split fs h] at this
  rw [hu, ← hl, this]

theorem packBits_lt (fs : List (Nat × Nat)) : packBits fs < 2 ^ packWidth fs := by
  induction fs with
  | nil => simp [packBits, packWidth]
  | cons x t ih =>
    obtain ⟨w, v⟩ := x
    simp only [packBits, packWidth, Nat.pow_add]
    have h1 := Nat.mod_lt v (Nat.two_pow_pos w)
    calc v % 2 ^ w + 2 ^ w * packBits t < 2 ^ w + 2 ^ w * packBits t := by omega
      _ = 2 ^ w * (packBits t + 1) := by rw [Nat.mul_add, Nat.mul_one, Nat.add_comm]
      _ ≤ 2 ^ w * 2 ^ packWidth t := Nat.mul_le_mul_left _ ih

/-- A 32-bit word stands for an instruction (02 R43, R47). -/
structure WordOf (i : Instr) (w : Nat) : Prop where
  odd : bitsOf w 0 1 = 1
  lt : w < 2 ^ 32
  dec : decodeWord w = some i

/-- A halfword stands for an instruction (02 R43, R55, R56). -/
structure HalfOf (i : Instr) (w : Nat) : Prop where
  even : bitsOf w 0 1 = 0
  lt : w < 2 ^ 16
  dec : decodeHalf w = some i

theorem natOfBytes_word {w : Nat} (h : w < 2 ^ 32) :
    natOfBytes [BitVec.ofNat 8 w, BitVec.ofNat 8 (w / 256), BitVec.ofNat 8 (w / 256 / 256), BitVec.ofNat 8 (w / 256 / 256 / 256)] = w := by
  simp only [natOfBytes, BitVec.toNat_ofNat]
  omega

theorem natOfBytes_half {w : Nat} (h : w < 2 ^ 16) : natOfBytes [BitVec.ofNat 8 w, BitVec.ofNat 8 (w / 256)] = w := by
  simp only [natOfBytes, BitVec.toNat_ofNat]
  omega

theorem decode_word {i : Instr} {w : Nat} (h : WordOf i w) (rest : List Byte) : decode (bytesOf 4 w ++ rest) = .ok (i, rest) := by
  have hb : bitOf (BitVec.ofNat 8 w).toNat 0 = true := by
    have := h.odd
    simp only [bitsOf, bitOf, BitVec.toNat_ofNat, beq_iff_eq] at this ⊢
    omega
  simp only [bytesOf, List.cons_append, List.nil_append, decode, hb, if_true, natOfBytes_word h.lt, h.dec]

theorem decode_half {i : Instr} {w : Nat} (h : HalfOf i w) (rest : List Byte) : decode (bytesOf 2 w ++ rest) = .ok (i, rest) := by
  have hb : bitOf (BitVec.ofNat 8 w).toNat 0 = false := by
    have := h.even
    simp only [bitsOf, bitOf, BitVec.toNat_ofNat, beq_eq_false_iff_ne] at this ⊢
    omega
  simp only [bytesOf, List.cons_append, List.nil_append, decode, hb, natOfBytes_half h.lt, h.dec]
  rfl

theorem decodeWord_00 {w : Nat} (h : bitsOf w 1 6 = 0) : decodeWord w = decodeMajor00 w := by unfold decodeWord; rw [h]; rfl
theorem decodeWord_01 {w : Nat} (h : bitsOf w 1 6 = 1) : decodeWord w = decodeMajor01 w := by unfold decodeWord; rw [h]; rfl
theorem decodeWord_02 {w : Nat} (h : bitsOf w 1 6 = 2) : decodeWord w = decodeMajor02 w := by unfold decodeWord; rw [h]; rfl
theorem decodeWord_03 {w : Nat} (h : bitsOf w 1 6 = 3) : decodeWord w = decodeMajor03 w := by unfold decodeWord; rw [h]; rfl
theorem decodeWord_04 {w : Nat} (h : bitsOf w 1 6 = 4) : decodeWord w = decodeMajor04 w := by unfold decodeWord; rw [h]; rfl
theorem decodeWord_05 {w : Nat} (h : bitsOf w 1 6 = 5) : decodeWord w = decodeMajor05 w := by unfold decodeWord; rw [h]; rfl
theorem decodeWord_06 {w : Nat} (h : bitsOf w 1 6 = 6) : decodeWord w = decodeMajor06 w := by unfold decodeWord; rw [h]; rfl
theorem decodeWord_07 {w : Nat} (h : bitsOf w 1 6 = 7) : decodeWord w = decodeMajor07 w := by unfold decodeWord; rw [h]; rfl
theorem decodeWord_08 {w : Nat} (h : bitsOf w 1 6 = 8) : decodeWord w = decodeMajor08 w := by unfold decodeWord; rw [h]; rfl
theorem decodeWord_09 {w : Nat} (h : bitsOf w 1 6 = 9) : decodeWord w = decodeMajor09 w := by unfold decodeWord; rw [h]; rfl
theorem decodeWord_0a {w : Nat} (h : bitsOf w 1 6 = 10) : decodeWord w = decodeMajor0a w := by unfold decodeWord; rw [h]; rfl
theorem decodeWord_0b {w : Nat} (h : bitsOf w 1 6 = 11) : decodeWord w = decodeMajor0b w := by unfold decodeWord; rw [h]; rfl
theorem decodeWord_0c {w : Nat} (h : bitsOf w 1 6 = 12) : decodeWord w = decodeMajor0c w := by unfold decodeWord; rw [h]; rfl
theorem decodeWord_0d {w : Nat} (h : bitsOf w 1 6 = 13) : decodeWord w = decodeMajor0d w := by unfold decodeWord; rw [h]; rfl
theorem decodeWord_0e {w : Nat} (h : bitsOf w 1 6 = 14) : decodeWord w = decodeMajor0e w := by unfold decodeWord; rw [h]; rfl
theorem decodeWord_0f {w : Nat} (h : bitsOf w 1 6 = 15) : decodeWord w = decodeMajor0f w := by unfold decodeWord; rw [h]; rfl
theorem decodeWord_10 {w : Nat} (h : bitsOf w 1 6 = 16) : decodeWord w = decodeMajor10 w := by unfold decodeWord; rw [h]; rfl
theorem decodeWord_11 {w : Nat} (h : bitsOf w 1 6 = 17) : decodeWord w = decodeMajor11 w := by unfold decodeWord; rw [h]; rfl
theorem decodeWord_12 {w : Nat} (h : bitsOf w 1 6 = 18) : decodeWord w = decodeMajor12 w := by unfold decodeWord; rw [h]; rfl
theorem decodeWord_13 {w : Nat} (h : bitsOf w 1 6 = 19) : decodeWord w = decodeMajor13 w := by unfold decodeWord; rw [h]; rfl
theorem decodeWord_14 {w : Nat} (h : bitsOf w 1 6 = 20) : decodeWord w = decodeMajor14 w := by unfold decodeWord; rw [h]; rfl
theorem decodeWord_18 {w : Nat} (h : bitsOf w 1 6 = 24) : decodeWord w = decodeMajor18 w := by unfold decodeWord; rw [h]; rfl
theorem decodeWord_19 {w : Nat} (h : bitsOf w 1 6 = 25) : decodeWord w = decodeMajor19 w := by unfold decodeWord; rw [h]; rfl
theorem decodeWord_1a {w : Nat} (h : bitsOf w 1 6 = 26) : decodeWord w = decodeMajor1a w := by unfold decodeWord; rw [h]; rfl
theorem decodeWord_1b {w : Nat} (h : bitsOf w 1 6 = 27) : decodeWord w = decodeMajor1b w := by unfold decodeWord; rw [h]; rfl
theorem decodeWord_1c {w : Nat} (h : bitsOf w 1 6 = 28) : decodeWord w = decodeMajor1c w := by unfold decodeWord; rw [h]; rfl
theorem decodeWord_1d {w : Nat} (h : bitsOf w 1 6 = 29) : decodeWord w = decodeMajor1d w := by unfold decodeWord; rw [h]; rfl
theorem decodeWord_1e {w : Nat} (h : bitsOf w 1 6 = 30) : decodeWord w = decodeMajor1e w := by unfold decodeWord; rw [h]; rfl
theorem decodeWord_1f {w : Nat} (h : bitsOf w 1 6 = 31) : decodeWord w = decodeMajor1f w := by unfold decodeWord; rw [h]; rfl
theorem decodeWord_20 {w : Nat} (h : bitsOf w 1 6 = 32) : decodeWord w = decodeMajor20 w := by unfold decodeWord; rw [h]; rfl
theorem decodeWord_21 {w : Nat} (h : bitsOf w 1 6 = 33) : decodeWord w = decodeMajor21 w := by unfold decodeWord; rw [h]; rfl
theorem decodeWord_22 {w : Nat} (h : bitsOf w 1 6 = 34) : decodeWord w = decodeMajor22 w := by unfold decodeWord; rw [h]; rfl
theorem decodeWord_23 {w : Nat} (h : bitsOf w 1 6 = 35) : decodeWord w = decodeMajor23 w := by unfold decodeWord; rw [h]; rfl
theorem decodeWord_24 {w : Nat} (h : bitsOf w 1 6 = 36) : decodeWord w = decodeMajor24 w := by unfold decodeWord; rw [h]; rfl
theorem decodeWord_25 {w : Nat} (h : bitsOf w 1 6 = 37) : decodeWord w = decodeMajor25 w := by unfold decodeWord; rw [h]; rfl
theorem decodeWord_26 {w : Nat} (h : bitsOf w 1 6 = 38) : decodeWord w = decodeMajor26 w := by unfold decodeWord; rw [h]; rfl
theorem decodeWord_27 {w : Nat} (h : bitsOf w 1 6 = 39) : decodeWord w = decodeMajor27 w := by unfold decodeWord; rw [h]; rfl
theorem decodeWord_28 {w : Nat} (h : bitsOf w 1 6 = 40) : decodeWord w = decodeMajor28 w := by unfold decodeWord; rw [h]; rfl
theorem decodeWord_29 {w : Nat} (h : bitsOf w 1 6 = 41) : decodeWord w = decodeMajor29 w := by unfold decodeWord; rw [h]; rfl
theorem decodeWord_2a {w : Nat} (h : bitsOf w 1 6 = 42) : decodeWord w = decodeMajor2a w := by unfold decodeWord; rw [h]; rfl
theorem decodeWord_2b {w : Nat} (h : bitsOf w 1 6 = 43) : decodeWord w = decodeMajor2b w := by unfold decodeWord; rw [h]; rfl
theorem decodeWord_2c {w : Nat} (h : bitsOf w 1 6 = 44) : decodeWord w = decodeMajor2c w := by unfold decodeWord; rw [h]; rfl
theorem decodeWord_2d {w : Nat} (h : bitsOf w 1 6 = 45) : decodeWord w = decodeMajor2d w := by unfold decodeWord; rw [h]; rfl
theorem decodeWord_2e {w : Nat} (h : bitsOf w 1 6 = 46) : decodeWord w = decodeMajor2e w := by unfold decodeWord; rw [h]; rfl
theorem decodeWord_2f {w : Nat} (h : bitsOf w 1 6 = 47) : decodeWord w = decodeMajor2f w := by unfold decodeWord; rw [h]; rfl
theorem decodeWord_30 {w : Nat} (h : bitsOf w 1 6 = 48) : decodeWord w = decodeMajor30 w := by unfold decodeWord; rw [h]; rfl
theorem decodeWord_31 {w : Nat} (h : bitsOf w 1 6 = 49) : decodeWord w = decodeMajor31 w := by unfold decodeWord; rw [h]; rfl
theorem decodeWord_32 {w : Nat} (h : bitsOf w 1 6 = 50) : decodeWord w = decodeMajor32 w := by unfold decodeWord; rw [h]; rfl
theorem decodeWord_33 {w : Nat} (h : bitsOf w 1 6 = 51) : decodeWord w = decodeMajor33 w := by unfold decodeWord; rw [h]; rfl
theorem decodeWord_34 {w : Nat} (h : bitsOf w 1 6 = 52) : decodeWord w = decodeMajor34 w := by unfold decodeWord; rw [h]; rfl
theorem decodeWord_35 {w : Nat} (h : bitsOf w 1 6 = 53) : decodeWord w = decodeMajor35 w := by unfold decodeWord; rw [h]; rfl
theorem decodeWord_36 {w : Nat} (h : bitsOf w 1 6 = 54) : decodeWord w = decodeMajor36 w := by unfold decodeWord; rw [h]; rfl
theorem decodeWord_37 {w : Nat} (h : bitsOf w 1 6 = 55) : decodeWord w = decodeMajor37 w := by unfold decodeWord; rw [h]; rfl
theorem decodeWord_38 {w : Nat} (h : bitsOf w 1 6 = 56) : decodeWord w = decodeMajor38 w := by unfold decodeWord; rw [h]; rfl
theorem decodeWord_39 {w : Nat} (h : bitsOf w 1 6 = 57) : decodeWord w = decodeMajor39 w := by unfold decodeWord; rw [h]; rfl
theorem decodeWord_3a {w : Nat} (h : bitsOf w 1 6 = 58) : decodeWord w = decodeMajor3a w := by unfold decodeWord; rw [h]; rfl
theorem decodeWord_3b {w : Nat} (h : bitsOf w 1 6 = 59) : decodeWord w = decodeMajor3b w := by unfold decodeWord; rw [h]; rfl
theorem decodeWord_3c {w : Nat} (h : bitsOf w 1 6 = 60) : decodeWord w = decodeMajor3c w := by unfold decodeWord; rw [h]; rfl
theorem decodeWord_3d {w : Nat} (h : bitsOf w 1 6 = 61) : decodeWord w = decodeMajor3d w := by unfold decodeWord; rw [h]; rfl
theorem decodeWord_3e {w : Nat} (h : bitsOf w 1 6 = 62) : decodeWord w = decodeMajor3e w := by unfold decodeWord; rw [h]; rfl
theorem decodeWord_3f {w : Nat} (h : bitsOf w 1 6 = 63) : decodeWord w = decodeMajor3f w := by unfold decodeWord; rw [h]; rfl

end Sys2Proof
end

