-- ==== Sys2Proof/Laws/EncodingA.lean ====
section
/-! SUPPORT. Every encoded instruction decodes to itself, one lemma per constructor with a word (02 R65, R66). -/

namespace Sys2Proof

theorem word_add (m : BitVec 2) (y : BitVec 1) (x : BitVec 1) (b : BitVec 6) (a : BitVec 6) (d : BitVec 6) : WordOf (.add m y x b a d) (encodeWord (.add m y x b a d)) := by
  have hp : encodeWord (.add m y x b a d) = packBits [(7, 1), (6, d.toNat), (6, a.toNat), (6, b.toNat), (3, 0), (1, x.toNat), (1, y.toNat), (2, m.toNat)] := by
    have := m.isLt; have := y.isLt; have := x.isLt; have := b.isLt; have := a.isLt; have := d.isLt
    change 1 + m.toNat * 1073741824 + y.toNat * 536870912 + x.toNat * 268435456 + b.toNat * 524288 + a.toNat * 8192 + d.toNat * 128 = _; simp only [packBits]; omega
  obtain ⟨uw, hu⟩ : ∃ uw, uw = packBits [(7, 1), (6, d.toNat), (6, a.toNat), (6, b.toNat), (3, 0), (1, x.toNat), (1, y.toNat), (2, m.toNat)] := ⟨_, rfl⟩
  rw [hp, ← hu]
  refine ⟨bits_at hu 0 0 rfl rfl (by decide) rfl, hu ▸ packBits_lt _, ?_⟩
  have f0 : bitsOf uw 1 6 = 0 := bits_at hu 0 1 rfl rfl (by decide) rfl
  have f1 : bitsOf uw 25 3 = 0 := bits_at hu 4 0 rfl rfl (by decide) rfl
  have em : fld uw 30 2 = m := fld_at hu 7 rfl rfl
  have ey : fld uw 29 1 = y := fld_at hu 6 rfl rfl
  have ex : fld uw 28 1 = x := fld_at hu 5 rfl rfl
  have eb : fld uw 19 6 = b := fld_at hu 3 rfl rfl
  have ea : fld uw 13 6 = a := fld_at hu 2 rfl rfl
  have ed : fld uw 7 6 = d := fld_at hu 1 rfl rfl
  rw [decodeWord_00 f0]
  unfold decodeMajor00
  rw [if_pos f1, em, ey, ex, eb, ea, ed]

theorem word_sub (m : BitVec 2) (y : BitVec 1) (x : BitVec 1) (b : BitVec 6) (a : BitVec 6) (d : BitVec 6) : WordOf (.sub m y x b a d) (encodeWord (.sub m y x b a d)) := by
  have hp : encodeWord (.sub m y x b a d) = packBits [(7, 1), (6, d.toNat), (6, a.toNat), (6, b.toNat), (3, 1), (1, x.toNat), (1, y.toNat), (2, m.toNat)] := by
    have := m.isLt; have := y.isLt; have := x.isLt; have := b.isLt; have := a.isLt; have := d.isLt
    change 33554433 + m.toNat * 1073741824 + y.toNat * 536870912 + x.toNat * 268435456 + b.toNat * 524288 + a.toNat * 8192 + d.toNat * 128 = _; simp only [packBits]; omega
  obtain ⟨uw, hu⟩ : ∃ uw, uw = packBits [(7, 1), (6, d.toNat), (6, a.toNat), (6, b.toNat), (3, 1), (1, x.toNat), (1, y.toNat), (2, m.toNat)] := ⟨_, rfl⟩
  rw [hp, ← hu]
  refine ⟨bits_at hu 0 0 rfl rfl (by decide) rfl, hu ▸ packBits_lt _, ?_⟩
  have f0 : bitsOf uw 1 6 = 0 := bits_at hu 0 1 rfl rfl (by decide) rfl
  have f1 : bitsOf uw 25 3 = 1 := bits_at hu 4 0 rfl rfl (by decide) rfl
  have em : fld uw 30 2 = m := fld_at hu 7 rfl rfl
  have ey : fld uw 29 1 = y := fld_at hu 6 rfl rfl
  have ex : fld uw 28 1 = x := fld_at hu 5 rfl rfl
  have eb : fld uw 19 6 = b := fld_at hu 3 rfl rfl
  have ea : fld uw 13 6 = a := fld_at hu 2 rfl rfl
  have ed : fld uw 7 6 = d := fld_at hu 1 rfl rfl
  rw [decodeWord_00 f0]
  unfold decodeMajor00
  rw [if_neg (fun h => absurd (f1.symm.trans h) (by decide)), if_pos f1, em, ey, ex, eb, ea, ed]

theorem word_mulLo (y : BitVec 1) (x : BitVec 1) (b : BitVec 6) (a : BitVec 6) (d : BitVec 6) : WordOf (.mulLo y x b a d) (encodeWord (.mulLo y x b a d)) := by
  have hp : encodeWord (.mulLo y x b a d) = packBits [(7, 1), (6, d.toNat), (6, a.toNat), (6, b.toNat), (3, 2), (1, x.toNat), (1, y.toNat), (2, 0)] := by
    have := y.isLt; have := x.isLt; have := b.isLt; have := a.isLt; have := d.isLt
    change 67108865 + y.toNat * 536870912 + x.toNat * 268435456 + b.toNat * 524288 + a.toNat * 8192 + d.toNat * 128 = _; simp only [packBits]; omega
  obtain ⟨uw, hu⟩ : ∃ uw, uw = packBits [(7, 1), (6, d.toNat), (6, a.toNat), (6, b.toNat), (3, 2), (1, x.toNat), (1, y.toNat), (2, 0)] := ⟨_, rfl⟩
  rw [hp, ← hu]
  refine ⟨bits_at hu 0 0 rfl rfl (by decide) rfl, hu ▸ packBits_lt _, ?_⟩
  have f0 : bitsOf uw 1 6 = 0 := bits_at hu 0 1 rfl rfl (by decide) rfl
  have f1 : bitsOf uw 25 3 = 2 := bits_at hu 4 0 rfl rfl (by decide) rfl
  have f2 : bitsOf uw 30 2 = 0 := bits_at hu 7 0 rfl rfl (by decide) rfl
  have ey : fld uw 29 1 = y := fld_at hu 6 rfl rfl
  have ex : fld uw 28 1 = x := fld_at hu 5 rfl rfl
  have eb : fld uw 19 6 = b := fld_at hu 3 rfl rfl
  have ea : fld uw 13 6 = a := fld_at hu 2 rfl rfl
  have ed : fld uw 7 6 = d := fld_at hu 1 rfl rfl
  rw [decodeWord_00 f0]
  unfold decodeMajor00
  rw [if_neg (fun h => absurd (f1.symm.trans h) (by decide)), if_neg (fun h => absurd (f1.symm.trans h) (by decide)), if_pos ⟨f1, f2⟩, ey, ex, eb, ea, ed]

theorem word_mulHi (m : BitVec 2) (y : BitVec 1) (x : BitVec 1) (b : BitVec 6) (a : BitVec 6) (d : BitVec 6) : WordOf (.mulHi m y x b a d) (encodeWord (.mulHi m y x b a d)) := by
  have hp : encodeWord (.mulHi m y x b a d) = packBits [(7, 1), (6, d.toNat), (6, a.toNat), (6, b.toNat), (3, 3), (1, x.toNat), (1, y.toNat), (2, m.toNat)] := by
    have := m.isLt; have := y.isLt; have := x.isLt; have := b.isLt; have := a.isLt; have := d.isLt
    change 100663297 + m.toNat * 1073741824 + y.toNat * 536870912 + x.toNat * 268435456 + b.toNat * 524288 + a.toNat * 8192 + d.toNat * 128 = _; simp only [packBits]; omega
  obtain ⟨uw, hu⟩ : ∃ uw, uw = packBits [(7, 1), (6, d.toNat), (6, a.toNat), (6, b.toNat), (3, 3), (1, x.toNat), (1, y.toNat), (2, m.toNat)] := ⟨_, rfl⟩
  rw [hp, ← hu]
  refine ⟨bits_at hu 0 0 rfl rfl (by decide) rfl, hu ▸ packBits_lt _, ?_⟩
  have f0 : bitsOf uw 1 6 = 0 := bits_at hu 0 1 rfl rfl (by decide) rfl
  have f1 : bitsOf uw 25 3 = 3 := bits_at hu 4 0 rfl rfl (by decide) rfl
  have em : fld uw 30 2 = m := fld_at hu 7 rfl rfl
  have ey : fld uw 29 1 = y := fld_at hu 6 rfl rfl
  have ex : fld uw 28 1 = x := fld_at hu 5 rfl rfl
  have eb : fld uw 19 6 = b := fld_at hu 3 rfl rfl
  have ea : fld uw 13 6 = a := fld_at hu 2 rfl rfl
  have ed : fld uw 7 6 = d := fld_at hu 1 rfl rfl
  rw [decodeWord_00 f0]
  unfold decodeMajor00
  rw [if_neg (fun h => absurd (f1.symm.trans h) (by decide)), if_neg (fun h => absurd (f1.symm.trans h) (by decide)), if_neg (fun h => absurd (f1.symm.trans h.1) (by decide)), if_pos f1, em, ey, ex, eb, ea, ed]

theorem word_madLo (y : BitVec 1) (x : BitVec 1) (b : BitVec 6) (a : BitVec 6) (d : BitVec 6) : WordOf (.madLo y x b a d) (encodeWord (.madLo y x b a d)) := by
  have hp : encodeWord (.madLo y x b a d) = packBits [(7, 1), (6, d.toNat), (6, a.toNat), (6, b.toNat), (3, 4), (1, x.toNat), (1, y.toNat), (2, 0)] := by
    have := y.isLt; have := x.isLt; have := b.isLt; have := a.isLt; have := d.isLt
    change 134217729 + y.toNat * 536870912 + x.toNat * 268435456 + b.toNat * 524288 + a.toNat * 8192 + d.toNat * 128 = _; simp only [packBits]; omega
  obtain ⟨uw, hu⟩ : ∃ uw, uw = packBits [(7, 1), (6, d.toNat), (6, a.toNat), (6, b.toNat), (3, 4), (1, x.toNat), (1, y.toNat), (2, 0)] := ⟨_, rfl⟩
  rw [hp, ← hu]
  refine ⟨bits_at hu 0 0 rfl rfl (by decide) rfl, hu ▸ packBits_lt _, ?_⟩
  have f0 : bitsOf uw 1 6 = 0 := bits_at hu 0 1 rfl rfl (by decide) rfl
  have f1 : bitsOf uw 25 3 = 4 := bits_at hu 4 0 rfl rfl (by decide) rfl
  have f2 : bitsOf uw 30 2 = 0 := bits_at hu 7 0 rfl rfl (by decide) rfl
  have ey : fld uw 29 1 = y := fld_at hu 6 rfl rfl
  have ex : fld uw 28 1 = x := fld_at hu 5 rfl rfl
  have eb : fld uw 19 6 = b := fld_at hu 3 rfl rfl
  have ea : fld uw 13 6 = a := fld_at hu 2 rfl rfl
  have ed : fld uw 7 6 = d := fld_at hu 1 rfl rfl
  rw [decodeWord_00 f0]
  unfold decodeMajor00
  rw [if_neg (fun h => absurd (f1.symm.trans h) (by decide)), if_neg (fun h => absurd (f1.symm.trans h) (by decide)), if_neg (fun h => absurd (f1.symm.trans h.1) (by decide)), if_neg (fun h => absurd (f1.symm.trans h) (by decide)), if_pos ⟨f1, f2⟩, ey, ex, eb, ea, ed]

theorem word_adda (y : BitVec 1) (x : BitVec 1) (b : BitVec 5) (a : BitVec 5) (d : BitVec 5) : WordOf (.adda y x b a d) (encodeWord (.adda y x b a d)) := by
  have hp : encodeWord (.adda y x b a d) = packBits [(8, 1), (5, d.toNat), (1, 0), (5, a.toNat), (1, 0), (5, b.toNat), (3, 5), (1, x.toNat), (1, y.toNat), (2, 0)] := by
    have := y.isLt; have := x.isLt; have := b.isLt; have := a.isLt; have := d.isLt
    change 167772161 + y.toNat * 536870912 + x.toNat * 268435456 + b.toNat * 1048576 + a.toNat * 16384 + d.toNat * 256 = _; simp only [packBits]; omega
  obtain ⟨uw, hu⟩ : ∃ uw, uw = packBits [(8, 1), (5, d.toNat), (1, 0), (5, a.toNat), (1, 0), (5, b.toNat), (3, 5), (1, x.toNat), (1, y.toNat), (2, 0)] := ⟨_, rfl⟩
  rw [hp, ← hu]
  refine ⟨bits_at hu 0 0 rfl rfl (by decide) rfl, hu ▸ packBits_lt _, ?_⟩
  have f0 : bitsOf uw 1 6 = 0 := bits_at hu 0 1 rfl rfl (by decide) rfl
  have f1 : bitsOf uw 25 3 = 5 := bits_at hu 6 0 rfl rfl (by decide) rfl
  have f2 : bitsOf uw 7 1 = 0 := bits_at hu 0 7 rfl rfl (by decide) rfl
  have f3 : bitsOf uw 13 1 = 0 := bits_at hu 2 0 rfl rfl (by decide) rfl
  have f4 : bitsOf uw 19 1 = 0 := bits_at hu 4 0 rfl rfl (by decide) rfl
  have f5 : bitsOf uw 30 2 = 0 := bits_at hu 9 0 rfl rfl (by decide) rfl
  have ey : fld uw 29 1 = y := fld_at hu 8 rfl rfl
  have ex : fld uw 28 1 = x := fld_at hu 7 rfl rfl
  have eb : fld uw 20 5 = b := fld_at hu 5 rfl rfl
  have ea : fld uw 14 5 = a := fld_at hu 3 rfl rfl
  have ed : fld uw 8 5 = d := fld_at hu 1 rfl rfl
  rw [decodeWord_00 f0]
  unfold decodeMajor00
  rw [if_neg (fun h => absurd (f1.symm.trans h) (by decide)), if_neg (fun h => absurd (f1.symm.trans h) (by decide)), if_neg (fun h => absurd (f1.symm.trans h.1) (by decide)), if_neg (fun h => absurd (f1.symm.trans h) (by decide)), if_neg (fun h => absurd (f1.symm.trans h.1) (by decide)), if_pos ⟨f2, f3, f4, f1, f5⟩, ey, ex, eb, ea, ed]

theorem word_min (m : BitVec 2) (y : BitVec 1) (x : BitVec 1) (b : BitVec 6) (a : BitVec 6) (d : BitVec 6) : WordOf (.min m y x b a d) (encodeWord (.min m y x b a d)) := by
  have hp : encodeWord (.min m y x b a d) = packBits [(7, 1), (6, d.toNat), (6, a.toNat), (6, b.toNat), (3, 6), (1, x.toNat), (1, y.toNat), (2, m.toNat)] := by
    have := m.isLt; have := y.isLt; have := x.isLt; have := b.isLt; have := a.isLt; have := d.isLt
    change 201326593 + m.toNat * 1073741824 + y.toNat * 536870912 + x.toNat * 268435456 + b.toNat * 524288 + a.toNat * 8192 + d.toNat * 128 = _; simp only [packBits]; omega
  obtain ⟨uw, hu⟩ : ∃ uw, uw = packBits [(7, 1), (6, d.toNat), (6, a.toNat), (6, b.toNat), (3, 6), (1, x.toNat), (1, y.toNat), (2, m.toNat)] := ⟨_, rfl⟩
  rw [hp, ← hu]
  refine ⟨bits_at hu 0 0 rfl rfl (by decide) rfl, hu ▸ packBits_lt _, ?_⟩
  have f0 : bitsOf uw 1 6 = 0 := bits_at hu 0 1 rfl rfl (by decide) rfl
  have f1 : bitsOf uw 25 3 = 6 := bits_at hu 4 0 rfl rfl (by decide) rfl
  have em : fld uw 30 2 = m := fld_at hu 7 rfl rfl
  have ey : fld uw 29 1 = y := fld_at hu 6 rfl rfl
  have ex : fld uw 28 1 = x := fld_at hu 5 rfl rfl
  have eb : fld uw 19 6 = b := fld_at hu 3 rfl rfl
  have ea : fld uw 13 6 = a := fld_at hu 2 rfl rfl
  have ed : fld uw 7 6 = d := fld_at hu 1 rfl rfl
  rw [decodeWord_00 f0]
  unfold decodeMajor00
  rw [if_neg (fun h => absurd (f1.symm.trans h) (by decide)), if_neg (fun h => absurd (f1.symm.trans h) (by decide)), if_neg (fun h => absurd (f1.symm.trans h.1) (by decide)), if_neg (fun h => absurd (f1.symm.trans h) (by decide)), if_neg (fun h => absurd (f1.symm.trans h.1) (by decide)), if_neg (fun h => absurd (f1.symm.trans h.2.2.2.1) (by decide)), if_pos f1, em, ey, ex, eb, ea, ed]

theorem word_max (m : BitVec 2) (y : BitVec 1) (x : BitVec 1) (b : BitVec 6) (a : BitVec 6) (d : BitVec 6) : WordOf (.max m y x b a d) (encodeWord (.max m y x b a d)) := by
  have hp : encodeWord (.max m y x b a d) = packBits [(7, 1), (6, d.toNat), (6, a.toNat), (6, b.toNat), (3, 7), (1, x.toNat), (1, y.toNat), (2, m.toNat)] := by
    have := m.isLt; have := y.isLt; have := x.isLt; have := b.isLt; have := a.isLt; have := d.isLt
    change 234881025 + m.toNat * 1073741824 + y.toNat * 536870912 + x.toNat * 268435456 + b.toNat * 524288 + a.toNat * 8192 + d.toNat * 128 = _; simp only [packBits]; omega
  obtain ⟨uw, hu⟩ : ∃ uw, uw = packBits [(7, 1), (6, d.toNat), (6, a.toNat), (6, b.toNat), (3, 7), (1, x.toNat), (1, y.toNat), (2, m.toNat)] := ⟨_, rfl⟩
  rw [hp, ← hu]
  refine ⟨bits_at hu 0 0 rfl rfl (by decide) rfl, hu ▸ packBits_lt _, ?_⟩
  have f0 : bitsOf uw 1 6 = 0 := bits_at hu 0 1 rfl rfl (by decide) rfl
  have f1 : bitsOf uw 25 3 = 7 := bits_at hu 4 0 rfl rfl (by decide) rfl
  have em : fld uw 30 2 = m := fld_at hu 7 rfl rfl
  have ey : fld uw 29 1 = y := fld_at hu 6 rfl rfl
  have ex : fld uw 28 1 = x := fld_at hu 5 rfl rfl
  have eb : fld uw 19 6 = b := fld_at hu 3 rfl rfl
  have ea : fld uw 13 6 = a := fld_at hu 2 rfl rfl
  have ed : fld uw 7 6 = d := fld_at hu 1 rfl rfl
  rw [decodeWord_00 f0]
  unfold decodeMajor00
  rw [if_neg (fun h => absurd (f1.symm.trans h) (by decide)), if_neg (fun h => absurd (f1.symm.trans h) (by decide)), if_neg (fun h => absurd (f1.symm.trans h.1) (by decide)), if_neg (fun h => absurd (f1.symm.trans h) (by decide)), if_neg (fun h => absurd (f1.symm.trans h.1) (by decide)), if_neg (fun h => absurd (f1.symm.trans h.2.2.2.1) (by decide)), if_neg (fun h => absurd (f1.symm.trans h) (by decide)), if_pos f1, em, ey, ex, eb, ea, ed]

theorem word_and (y : BitVec 1) (x : BitVec 1) (b : BitVec 6) (a : BitVec 6) (d : BitVec 6) : WordOf (.and y x b a d) (encodeWord (.and y x b a d)) := by
  have hp : encodeWord (.and y x b a d) = packBits [(7, 3), (6, d.toNat), (6, a.toNat), (6, b.toNat), (3, 0), (1, x.toNat), (1, y.toNat), (2, 0)] := by
    have := y.isLt; have := x.isLt; have := b.isLt; have := a.isLt; have := d.isLt
    change 3 + y.toNat * 536870912 + x.toNat * 268435456 + b.toNat * 524288 + a.toNat * 8192 + d.toNat * 128 = _; simp only [packBits]; omega
  obtain ⟨uw, hu⟩ : ∃ uw, uw = packBits [(7, 3), (6, d.toNat), (6, a.toNat), (6, b.toNat), (3, 0), (1, x.toNat), (1, y.toNat), (2, 0)] := ⟨_, rfl⟩
  rw [hp, ← hu]
  refine ⟨bits_at hu 0 0 rfl rfl (by decide) rfl, hu ▸ packBits_lt _, ?_⟩
  have f0 : bitsOf uw 1 6 = 1 := bits_at hu 0 1 rfl rfl (by decide) rfl
  have f1 : bitsOf uw 25 3 = 0 := bits_at hu 4 0 rfl rfl (by decide) rfl
  have f2 : bitsOf uw 30 2 = 0 := bits_at hu 7 0 rfl rfl (by decide) rfl
  have ey : fld uw 29 1 = y := fld_at hu 6 rfl rfl
  have ex : fld uw 28 1 = x := fld_at hu 5 rfl rfl
  have eb : fld uw 19 6 = b := fld_at hu 3 rfl rfl
  have ea : fld uw 13 6 = a := fld_at hu 2 rfl rfl
  have ed : fld uw 7 6 = d := fld_at hu 1 rfl rfl
  rw [decodeWord_01 f0]
  unfold decodeMajor01
  rw [if_pos ⟨f1, f2⟩, ey, ex, eb, ea, ed]

theorem word_or (y : BitVec 1) (x : BitVec 1) (b : BitVec 6) (a : BitVec 6) (d : BitVec 6) : WordOf (.or y x b a d) (encodeWord (.or y x b a d)) := by
  have hp : encodeWord (.or y x b a d) = packBits [(7, 3), (6, d.toNat), (6, a.toNat), (6, b.toNat), (3, 1), (1, x.toNat), (1, y.toNat), (2, 0)] := by
    have := y.isLt; have := x.isLt; have := b.isLt; have := a.isLt; have := d.isLt
    change 33554435 + y.toNat * 536870912 + x.toNat * 268435456 + b.toNat * 524288 + a.toNat * 8192 + d.toNat * 128 = _; simp only [packBits]; omega
  obtain ⟨uw, hu⟩ : ∃ uw, uw = packBits [(7, 3), (6, d.toNat), (6, a.toNat), (6, b.toNat), (3, 1), (1, x.toNat), (1, y.toNat), (2, 0)] := ⟨_, rfl⟩
  rw [hp, ← hu]
  refine ⟨bits_at hu 0 0 rfl rfl (by decide) rfl, hu ▸ packBits_lt _, ?_⟩
  have f0 : bitsOf uw 1 6 = 1 := bits_at hu 0 1 rfl rfl (by decide) rfl
  have f1 : bitsOf uw 25 3 = 1 := bits_at hu 4 0 rfl rfl (by decide) rfl
  have f2 : bitsOf uw 30 2 = 0 := bits_at hu 7 0 rfl rfl (by decide) rfl
  have ey : fld uw 29 1 = y := fld_at hu 6 rfl rfl
  have ex : fld uw 28 1 = x := fld_at hu 5 rfl rfl
  have eb : fld uw 19 6 = b := fld_at hu 3 rfl rfl
  have ea : fld uw 13 6 = a := fld_at hu 2 rfl rfl
  have ed : fld uw 7 6 = d := fld_at hu 1 rfl rfl
  rw [decodeWord_01 f0]
  unfold decodeMajor01
  rw [if_neg (fun h => absurd (f1.symm.trans h.1) (by decide)), if_pos ⟨f1, f2⟩, ey, ex, eb, ea, ed]

theorem word_xor (y : BitVec 1) (x : BitVec 1) (b : BitVec 6) (a : BitVec 6) (d : BitVec 6) : WordOf (.xor y x b a d) (encodeWord (.xor y x b a d)) := by
  have hp : encodeWord (.xor y x b a d) = packBits [(7, 3), (6, d.toNat), (6, a.toNat), (6, b.toNat), (3, 2), (1, x.toNat), (1, y.toNat), (2, 0)] := by
    have := y.isLt; have := x.isLt; have := b.isLt; have := a.isLt; have := d.isLt
    change 67108867 + y.toNat * 536870912 + x.toNat * 268435456 + b.toNat * 524288 + a.toNat * 8192 + d.toNat * 128 = _; simp only [packBits]; omega
  obtain ⟨uw, hu⟩ : ∃ uw, uw = packBits [(7, 3), (6, d.toNat), (6, a.toNat), (6, b.toNat), (3, 2), (1, x.toNat), (1, y.toNat), (2, 0)] := ⟨_, rfl⟩
  rw [hp, ← hu]
  refine ⟨bits_at hu 0 0 rfl rfl (by decide) rfl, hu ▸ packBits_lt _, ?_⟩
  have f0 : bitsOf uw 1 6 = 1 := bits_at hu 0 1 rfl rfl (by decide) rfl
  have f1 : bitsOf uw 25 3 = 2 := bits_at hu 4 0 rfl rfl (by decide) rfl
  have f2 : bitsOf uw 30 2 = 0 := bits_at hu 7 0 rfl rfl (by decide) rfl
  have ey : fld uw 29 1 = y := fld_at hu 6 rfl rfl
  have ex : fld uw 28 1 = x := fld_at hu 5 rfl rfl
  have eb : fld uw 19 6 = b := fld_at hu 3 rfl rfl
  have ea : fld uw 13 6 = a := fld_at hu 2 rfl rfl
  have ed : fld uw 7 6 = d := fld_at hu 1 rfl rfl
  rw [decodeWord_01 f0]
  unfold decodeMajor01
  rw [if_neg (fun h => absurd (f1.symm.trans h.1) (by decide)), if_neg (fun h => absurd (f1.symm.trans h.1) (by decide)), if_pos ⟨f1, f2⟩, ey, ex, eb, ea, ed]

theorem word_andn (y : BitVec 1) (x : BitVec 1) (b : BitVec 6) (a : BitVec 6) (d : BitVec 6) : WordOf (.andn y x b a d) (encodeWord (.andn y x b a d)) := by
  have hp : encodeWord (.andn y x b a d) = packBits [(7, 3), (6, d.toNat), (6, a.toNat), (6, b.toNat), (3, 3), (1, x.toNat), (1, y.toNat), (2, 0)] := by
    have := y.isLt; have := x.isLt; have := b.isLt; have := a.isLt; have := d.isLt
    change 100663299 + y.toNat * 536870912 + x.toNat * 268435456 + b.toNat * 524288 + a.toNat * 8192 + d.toNat * 128 = _; simp only [packBits]; omega
  obtain ⟨uw, hu⟩ : ∃ uw, uw = packBits [(7, 3), (6, d.toNat), (6, a.toNat), (6, b.toNat), (3, 3), (1, x.toNat), (1, y.toNat), (2, 0)] := ⟨_, rfl⟩
  rw [hp, ← hu]
  refine ⟨bits_at hu 0 0 rfl rfl (by decide) rfl, hu ▸ packBits_lt _, ?_⟩
  have f0 : bitsOf uw 1 6 = 1 := bits_at hu 0 1 rfl rfl (by decide) rfl
  have f1 : bitsOf uw 25 3 = 3 := bits_at hu 4 0 rfl rfl (by decide) rfl
  have f2 : bitsOf uw 30 2 = 0 := bits_at hu 7 0 rfl rfl (by decide) rfl
  have ey : fld uw 29 1 = y := fld_at hu 6 rfl rfl
  have ex : fld uw 28 1 = x := fld_at hu 5 rfl rfl
  have eb : fld uw 19 6 = b := fld_at hu 3 rfl rfl
  have ea : fld uw 13 6 = a := fld_at hu 2 rfl rfl
  have ed : fld uw 7 6 = d := fld_at hu 1 rfl rfl
  rw [decodeWord_01 f0]
  unfold decodeMajor01
  rw [if_neg (fun h => absurd (f1.symm.trans h.1) (by decide)), if_neg (fun h => absurd (f1.symm.trans h.1) (by decide)), if_neg (fun h => absurd (f1.symm.trans h.1) (by decide)), if_pos ⟨f1, f2⟩, ey, ex, eb, ea, ed]

theorem word_shl (y : BitVec 1) (x : BitVec 1) (b : BitVec 6) (a : BitVec 6) (d : BitVec 6) : WordOf (.shl y x b a d) (encodeWord (.shl y x b a d)) := by
  have hp : encodeWord (.shl y x b a d) = packBits [(7, 3), (6, d.toNat), (6, a.toNat), (6, b.toNat), (3, 4), (1, x.toNat), (1, y.toNat), (2, 0)] := by
    have := y.isLt; have := x.isLt; have := b.isLt; have := a.isLt; have := d.isLt
    change 134217731 + y.toNat * 536870912 + x.toNat * 268435456 + b.toNat * 524288 + a.toNat * 8192 + d.toNat * 128 = _; simp only [packBits]; omega
  obtain ⟨uw, hu⟩ : ∃ uw, uw = packBits [(7, 3), (6, d.toNat), (6, a.toNat), (6, b.toNat), (3, 4), (1, x.toNat), (1, y.toNat), (2, 0)] := ⟨_, rfl⟩
  rw [hp, ← hu]
  refine ⟨bits_at hu 0 0 rfl rfl (by decide) rfl, hu ▸ packBits_lt _, ?_⟩
  have f0 : bitsOf uw 1 6 = 1 := bits_at hu 0 1 rfl rfl (by decide) rfl
  have f1 : bitsOf uw 25 3 = 4 := bits_at hu 4 0 rfl rfl (by decide) rfl
  have f2 : bitsOf uw 30 2 = 0 := bits_at hu 7 0 rfl rfl (by decide) rfl
  have ey : fld uw 29 1 = y := fld_at hu 6 rfl rfl
  have ex : fld uw 28 1 = x := fld_at hu 5 rfl rfl
  have eb : fld uw 19 6 = b := fld_at hu 3 rfl rfl
  have ea : fld uw 13 6 = a := fld_at hu 2 rfl rfl
  have ed : fld uw 7 6 = d := fld_at hu 1 rfl rfl
  rw [decodeWord_01 f0]
  unfold decodeMajor01
  rw [if_neg (fun h => absurd (f1.symm.trans h.1) (by decide)), if_neg (fun h => absurd (f1.symm.trans h.1) (by decide)), if_neg (fun h => absurd (f1.symm.trans h.1) (by decide)), if_neg (fun h => absurd (f1.symm.trans h.1) (by decide)), if_pos ⟨f1, f2⟩, ey, ex, eb, ea, ed]

theorem word_shr (y : BitVec 1) (x : BitVec 1) (b : BitVec 6) (a : BitVec 6) (d : BitVec 6) : WordOf (.shr y x b a d) (encodeWord (.shr y x b a d)) := by
  have hp : encodeWord (.shr y x b a d) = packBits [(7, 3), (6, d.toNat), (6, a.toNat), (6, b.toNat), (3, 5), (1, x.toNat), (1, y.toNat), (2, 0)] := by
    have := y.isLt; have := x.isLt; have := b.isLt; have := a.isLt; have := d.isLt
    change 167772163 + y.toNat * 536870912 + x.toNat * 268435456 + b.toNat * 524288 + a.toNat * 8192 + d.toNat * 128 = _; simp only [packBits]; omega
  obtain ⟨uw, hu⟩ : ∃ uw, uw = packBits [(7, 3), (6, d.toNat), (6, a.toNat), (6, b.toNat), (3, 5), (1, x.toNat), (1, y.toNat), (2, 0)] := ⟨_, rfl⟩
  rw [hp, ← hu]
  refine ⟨bits_at hu 0 0 rfl rfl (by decide) rfl, hu ▸ packBits_lt _, ?_⟩
  have f0 : bitsOf uw 1 6 = 1 := bits_at hu 0 1 rfl rfl (by decide) rfl
  have f1 : bitsOf uw 25 3 = 5 := bits_at hu 4 0 rfl rfl (by decide) rfl
  have f2 : bitsOf uw 30 2 = 0 := bits_at hu 7 0 rfl rfl (by decide) rfl
  have ey : fld uw 29 1 = y := fld_at hu 6 rfl rfl
  have ex : fld uw 28 1 = x := fld_at hu 5 rfl rfl
  have eb : fld uw 19 6 = b := fld_at hu 3 rfl rfl
  have ea : fld uw 13 6 = a := fld_at hu 2 rfl rfl
  have ed : fld uw 7 6 = d := fld_at hu 1 rfl rfl
  rw [decodeWord_01 f0]
  unfold decodeMajor01
  rw [if_neg (fun h => absurd (f1.symm.trans h.1) (by decide)), if_neg (fun h => absurd (f1.symm.trans h.1) (by decide)), if_neg (fun h => absurd (f1.symm.trans h.1) (by decide)), if_neg (fun h => absurd (f1.symm.trans h.1) (by decide)), if_neg (fun h => absurd (f1.symm.trans h.1) (by decide)), if_pos ⟨f1, f2⟩, ey, ex, eb, ea, ed]

theorem word_sra (y : BitVec 1) (x : BitVec 1) (b : BitVec 6) (a : BitVec 6) (d : BitVec 6) : WordOf (.sra y x b a d) (encodeWord (.sra y x b a d)) := by
  have hp : encodeWord (.sra y x b a d) = packBits [(7, 3), (6, d.toNat), (6, a.toNat), (6, b.toNat), (3, 6), (1, x.toNat), (1, y.toNat), (2, 0)] := by
    have := y.isLt; have := x.isLt; have := b.isLt; have := a.isLt; have := d.isLt
    change 201326595 + y.toNat * 536870912 + x.toNat * 268435456 + b.toNat * 524288 + a.toNat * 8192 + d.toNat * 128 = _; simp only [packBits]; omega
  obtain ⟨uw, hu⟩ : ∃ uw, uw = packBits [(7, 3), (6, d.toNat), (6, a.toNat), (6, b.toNat), (3, 6), (1, x.toNat), (1, y.toNat), (2, 0)] := ⟨_, rfl⟩
  rw [hp, ← hu]
  refine ⟨bits_at hu 0 0 rfl rfl (by decide) rfl, hu ▸ packBits_lt _, ?_⟩
  have f0 : bitsOf uw 1 6 = 1 := bits_at hu 0 1 rfl rfl (by decide) rfl
  have f1 : bitsOf uw 25 3 = 6 := bits_at hu 4 0 rfl rfl (by decide) rfl
  have f2 : bitsOf uw 30 2 = 0 := bits_at hu 7 0 rfl rfl (by decide) rfl
  have ey : fld uw 29 1 = y := fld_at hu 6 rfl rfl
  have ex : fld uw 28 1 = x := fld_at hu 5 rfl rfl
  have eb : fld uw 19 6 = b := fld_at hu 3 rfl rfl
  have ea : fld uw 13 6 = a := fld_at hu 2 rfl rfl
  have ed : fld uw 7 6 = d := fld_at hu 1 rfl rfl
  rw [decodeWord_01 f0]
  unfold decodeMajor01
  rw [if_neg (fun h => absurd (f1.symm.trans h.1) (by decide)), if_neg (fun h => absurd (f1.symm.trans h.1) (by decide)), if_neg (fun h => absurd (f1.symm.trans h.1) (by decide)), if_neg (fun h => absurd (f1.symm.trans h.1) (by decide)), if_neg (fun h => absurd (f1.symm.trans h.1) (by decide)), if_neg (fun h => absurd (f1.symm.trans h.1) (by decide)), if_pos ⟨f1, f2⟩, ey, ex, eb, ea, ed]

theorem word_rot (y : BitVec 1) (x : BitVec 1) (b : BitVec 6) (a : BitVec 6) (d : BitVec 6) : WordOf (.rot y x b a d) (encodeWord (.rot y x b a d)) := by
  have hp : encodeWord (.rot y x b a d) = packBits [(7, 3), (6, d.toNat), (6, a.toNat), (6, b.toNat), (3, 7), (1, x.toNat), (1, y.toNat), (2, 0)] := by
    have := y.isLt; have := x.isLt; have := b.isLt; have := a.isLt; have := d.isLt
    change 234881027 + y.toNat * 536870912 + x.toNat * 268435456 + b.toNat * 524288 + a.toNat * 8192 + d.toNat * 128 = _; simp only [packBits]; omega
  obtain ⟨uw, hu⟩ : ∃ uw, uw = packBits [(7, 3), (6, d.toNat), (6, a.toNat), (6, b.toNat), (3, 7), (1, x.toNat), (1, y.toNat), (2, 0)] := ⟨_, rfl⟩
  rw [hp, ← hu]
  refine ⟨bits_at hu 0 0 rfl rfl (by decide) rfl, hu ▸ packBits_lt _, ?_⟩
  have f0 : bitsOf uw 1 6 = 1 := bits_at hu 0 1 rfl rfl (by decide) rfl
  have f1 : bitsOf uw 25 3 = 7 := bits_at hu 4 0 rfl rfl (by decide) rfl
  have f2 : bitsOf uw 30 2 = 0 := bits_at hu 7 0 rfl rfl (by decide) rfl
  have ey : fld uw 29 1 = y := fld_at hu 6 rfl rfl
  have ex : fld uw 28 1 = x := fld_at hu 5 rfl rfl
  have eb : fld uw 19 6 = b := fld_at hu 3 rfl rfl
  have ea : fld uw 13 6 = a := fld_at hu 2 rfl rfl
  have ed : fld uw 7 6 = d := fld_at hu 1 rfl rfl
  rw [decodeWord_01 f0]
  unfold decodeMajor01
  rw [if_neg (fun h => absurd (f1.symm.trans h.1) (by decide)), if_neg (fun h => absurd (f1.symm.trans h.1) (by decide)), if_neg (fun h => absurd (f1.symm.trans h.1) (by decide)), if_neg (fun h => absurd (f1.symm.trans h.1) (by decide)), if_neg (fun h => absurd (f1.symm.trans h.1) (by decide)), if_neg (fun h => absurd (f1.symm.trans h.1) (by decide)), if_neg (fun h => absurd (f1.symm.trans h.1) (by decide)), if_pos ⟨f1, f2⟩, ey, ex, eb, ea, ed]

theorem word_bfe (m : BitVec 2) (y : BitVec 1) (x : BitVec 1) (b : BitVec 6) (a : BitVec 6) (d : BitVec 6) : WordOf (.bfe m y x b a d) (encodeWord (.bfe m y x b a d)) := by
  have hp : encodeWord (.bfe m y x b a d) = packBits [(7, 5), (6, d.toNat), (6, a.toNat), (6, b.toNat), (3, 0), (1, x.toNat), (1, y.toNat), (2, m.toNat)] := by
    have := m.isLt; have := y.isLt; have := x.isLt; have := b.isLt; have := a.isLt; have := d.isLt
    change 5 + m.toNat * 1073741824 + y.toNat * 536870912 + x.toNat * 268435456 + b.toNat * 524288 + a.toNat * 8192 + d.toNat * 128 = _; simp only [packBits]; omega
  obtain ⟨uw, hu⟩ : ∃ uw, uw = packBits [(7, 5), (6, d.toNat), (6, a.toNat), (6, b.toNat), (3, 0), (1, x.toNat), (1, y.toNat), (2, m.toNat)] := ⟨_, rfl⟩
  rw [hp, ← hu]
  refine ⟨bits_at hu 0 0 rfl rfl (by decide) rfl, hu ▸ packBits_lt _, ?_⟩
  have f0 : bitsOf uw 1 6 = 2 := bits_at hu 0 1 rfl rfl (by decide) rfl
  have f1 : bitsOf uw 25 3 = 0 := bits_at hu 4 0 rfl rfl (by decide) rfl
  have em : fld uw 30 2 = m := fld_at hu 7 rfl rfl
  have ey : fld uw 29 1 = y := fld_at hu 6 rfl rfl
  have ex : fld uw 28 1 = x := fld_at hu 5 rfl rfl
  have eb : fld uw 19 6 = b := fld_at hu 3 rfl rfl
  have ea : fld uw 13 6 = a := fld_at hu 2 rfl rfl
  have ed : fld uw 7 6 = d := fld_at hu 1 rfl rfl
  rw [decodeWord_02 f0]
  unfold decodeMajor02
  rw [if_pos f1, em, ey, ex, eb, ea, ed]

theorem word_bfi (y : BitVec 1) (x : BitVec 1) (b : BitVec 6) (a : BitVec 6) (d : BitVec 6) : WordOf (.bfi y x b a d) (encodeWord (.bfi y x b a d)) := by
  have hp : encodeWord (.bfi y x b a d) = packBits [(7, 5), (6, d.toNat), (6, a.toNat), (6, b.toNat), (3, 1), (1, x.toNat), (1, y.toNat), (2, 0)] := by
    have := y.isLt; have := x.isLt; have := b.isLt; have := a.isLt; have := d.isLt
    change 33554437 + y.toNat * 536870912 + x.toNat * 268435456 + b.toNat * 524288 + a.toNat * 8192 + d.toNat * 128 = _; simp only [packBits]; omega
  obtain ⟨uw, hu⟩ : ∃ uw, uw = packBits [(7, 5), (6, d.toNat), (6, a.toNat), (6, b.toNat), (3, 1), (1, x.toNat), (1, y.toNat), (2, 0)] := ⟨_, rfl⟩
  rw [hp, ← hu]
  refine ⟨bits_at hu 0 0 rfl rfl (by decide) rfl, hu ▸ packBits_lt _, ?_⟩
  have f0 : bitsOf uw 1 6 = 2 := bits_at hu 0 1 rfl rfl (by decide) rfl
  have f1 : bitsOf uw 25 3 = 1 := bits_at hu 4 0 rfl rfl (by decide) rfl
  have f2 : bitsOf uw 30 2 = 0 := bits_at hu 7 0 rfl rfl (by decide) rfl
  have ey : fld uw 29 1 = y := fld_at hu 6 rfl rfl
  have ex : fld uw 28 1 = x := fld_at hu 5 rfl rfl
  have eb : fld uw 19 6 = b := fld_at hu 3 rfl rfl
  have ea : fld uw 13 6 = a := fld_at hu 2 rfl rfl
  have ed : fld uw 7 6 = d := fld_at hu 1 rfl rfl
  rw [decodeWord_02 f0]
  unfold decodeMajor02
  rw [if_neg (fun h => absurd (f1.symm.trans h) (by decide)), if_pos ⟨f1, f2⟩, ey, ex, eb, ea, ed]

theorem word_popc (x : BitVec 1) (a : BitVec 6) (d : BitVec 6) : WordOf (.popc x a d) (encodeWord (.popc x a d)) := by
  have hp : encodeWord (.popc x a d) = packBits [(7, 5), (6, d.toNat), (6, a.toNat), (9, 128), (1, x.toNat), (3, 0)] := by
    have := x.isLt; have := a.isLt; have := d.isLt
    change 67108869 + x.toNat * 268435456 + a.toNat * 8192 + d.toNat * 128 = _; simp only [packBits]; omega
  obtain ⟨uw, hu⟩ : ∃ uw, uw = packBits [(7, 5), (6, d.toNat), (6, a.toNat), (9, 128), (1, x.toNat), (3, 0)] := ⟨_, rfl⟩
  rw [hp, ← hu]
  refine ⟨bits_at hu 0 0 rfl rfl (by decide) rfl, hu ▸ packBits_lt _, ?_⟩
  have f0 : bitsOf uw 1 6 = 2 := bits_at hu 0 1 rfl rfl (by decide) rfl
  have f1 : bitsOf uw 25 3 = 2 := bits_at hu 3 6 rfl rfl (by decide) rfl
  have f2 : bitsOf uw 19 9 = 128 := bits_at hu 3 0 rfl rfl (by decide) rfl
  have f3 : bitsOf uw 29 3 = 0 := bits_at hu 5 0 rfl rfl (by decide) rfl
  have ex : fld uw 28 1 = x := fld_at hu 4 rfl rfl
  have ea : fld uw 13 6 = a := fld_at hu 2 rfl rfl
  have ed : fld uw 7 6 = d := fld_at hu 1 rfl rfl
  rw [decodeWord_02 f0]
  unfold decodeMajor02
  rw [if_neg (fun h => absurd (f1.symm.trans h) (by decide)), if_neg (fun h => absurd (f1.symm.trans h.1) (by decide)), if_pos ⟨f2, f3⟩, ex, ea, ed]

theorem word_popcLt (y : BitVec 1) (x : BitVec 1) (b : BitVec 6) (a : BitVec 6) (d : BitVec 6) : WordOf (.popcLt y x b a d) (encodeWord (.popcLt y x b a d)) := by
  have hp : encodeWord (.popcLt y x b a d) = packBits [(7, 5), (6, d.toNat), (6, a.toNat), (6, b.toNat), (3, 3), (1, x.toNat), (1, y.toNat), (2, 0)] := by
    have := y.isLt; have := x.isLt; have := b.isLt; have := a.isLt; have := d.isLt
    change 100663301 + y.toNat * 536870912 + x.toNat * 268435456 + b.toNat * 524288 + a.toNat * 8192 + d.toNat * 128 = _; simp only [packBits]; omega
  obtain ⟨uw, hu⟩ : ∃ uw, uw = packBits [(7, 5), (6, d.toNat), (6, a.toNat), (6, b.toNat), (3, 3), (1, x.toNat), (1, y.toNat), (2, 0)] := ⟨_, rfl⟩
  rw [hp, ← hu]
  refine ⟨bits_at hu 0 0 rfl rfl (by decide) rfl, hu ▸ packBits_lt _, ?_⟩
  have f0 : bitsOf uw 1 6 = 2 := bits_at hu 0 1 rfl rfl (by decide) rfl
  have f1 : bitsOf uw 25 3 = 3 := bits_at hu 4 0 rfl rfl (by decide) rfl
  have f2 : bitsOf uw 30 2 = 0 := bits_at hu 7 0 rfl rfl (by decide) rfl
  have ey : fld uw 29 1 = y := fld_at hu 6 rfl rfl
  have ex : fld uw 28 1 = x := fld_at hu 5 rfl rfl
  have eb : fld uw 19 6 = b := fld_at hu 3 rfl rfl
  have ea : fld uw 13 6 = a := fld_at hu 2 rfl rfl
  have ed : fld uw 7 6 = d := fld_at hu 1 rfl rfl
  rw [decodeWord_02 f0]
  unfold decodeMajor02
  rw [if_neg (fun h => absurd (f1.symm.trans h) (by decide)), if_neg (fun h => absurd (f1.symm.trans h.1) (by decide)), if_neg (by rw [hu, ← hp]; change ¬ ((100663301 + y.toNat * 536870912 + x.toNat * 268435456 + b.toNat * 524288 + a.toNat * 8192 + d.toNat * 128) / 2 ^ 19 % 2 ^ 9 = 128 ∧ (100663301 + y.toNat * 536870912 + x.toNat * 268435456 + b.toNat * 524288 + a.toNat * 8192 + d.toNat * 128) / 2 ^ 29 % 2 ^ 3 = 0); have := y.isLt; have := x.isLt; have := b.isLt; have := a.isLt; have := d.isLt; omega), if_pos ⟨f1, f2⟩, ey, ex, eb, ea, ed]

theorem word_clz (x : BitVec 1) (a : BitVec 6) (d : BitVec 6) : WordOf (.clz x a d) (encodeWord (.clz x a d)) := by
  have hp : encodeWord (.clz x a d) = packBits [(7, 5), (6, d.toNat), (6, a.toNat), (9, 256), (1, x.toNat), (3, 0)] := by
    have := x.isLt; have := a.isLt; have := d.isLt
    change 134217733 + x.toNat * 268435456 + a.toNat * 8192 + d.toNat * 128 = _; simp only [packBits]; omega
  obtain ⟨uw, hu⟩ : ∃ uw, uw = packBits [(7, 5), (6, d.toNat), (6, a.toNat), (9, 256), (1, x.toNat), (3, 0)] := ⟨_, rfl⟩
  rw [hp, ← hu]
  refine ⟨bits_at hu 0 0 rfl rfl (by decide) rfl, hu ▸ packBits_lt _, ?_⟩
  have f0 : bitsOf uw 1 6 = 2 := bits_at hu 0 1 rfl rfl (by decide) rfl
  have f1 : bitsOf uw 25 3 = 4 := bits_at hu 3 6 rfl rfl (by decide) rfl
  have f2 : bitsOf uw 19 9 = 256 := bits_at hu 3 0 rfl rfl (by decide) rfl
  have f3 : bitsOf uw 29 3 = 0 := bits_at hu 5 0 rfl rfl (by decide) rfl
  have ex : fld uw 28 1 = x := fld_at hu 4 rfl rfl
  have ea : fld uw 13 6 = a := fld_at hu 2 rfl rfl
  have ed : fld uw 7 6 = d := fld_at hu 1 rfl rfl
  rw [decodeWord_02 f0]
  unfold decodeMajor02
  rw [if_neg (fun h => absurd (f1.symm.trans h) (by decide)), if_neg (fun h => absurd (f1.symm.trans h.1) (by decide)), if_neg (fun h => absurd (f2.symm.trans h.1) (by decide)), if_neg (fun h => absurd (f1.symm.trans h.1) (by decide)), if_pos ⟨f2, f3⟩, ex, ea, ed]

theorem word_brev (x : BitVec 1) (a : BitVec 6) (d : BitVec 6) : WordOf (.brev x a d) (encodeWord (.brev x a d)) := by
  have hp : encodeWord (.brev x a d) = packBits [(7, 5), (6, d.toNat), (6, a.toNat), (9, 320), (1, x.toNat), (3, 0)] := by
    have := x.isLt; have := a.isLt; have := d.isLt
    change 167772165 + x.toNat * 268435456 + a.toNat * 8192 + d.toNat * 128 = _; simp only [packBits]; omega
  obtain ⟨uw, hu⟩ : ∃ uw, uw = packBits [(7, 5), (6, d.toNat), (6, a.toNat), (9, 320), (1, x.toNat), (3, 0)] := ⟨_, rfl⟩
  rw [hp, ← hu]
  refine ⟨bits_at hu 0 0 rfl rfl (by decide) rfl, hu ▸ packBits_lt _, ?_⟩
  have f0 : bitsOf uw 1 6 = 2 := bits_at hu 0 1 rfl rfl (by decide) rfl
  have f1 : bitsOf uw 25 3 = 5 := bits_at hu 3 6 rfl rfl (by decide) rfl
  have f2 : bitsOf uw 19 9 = 320 := bits_at hu 3 0 rfl rfl (by decide) rfl
  have f3 : bitsOf uw 29 3 = 0 := bits_at hu 5 0 rfl rfl (by decide) rfl
  have ex : fld uw 28 1 = x := fld_at hu 4 rfl rfl
  have ea : fld uw 13 6 = a := fld_at hu 2 rfl rfl
  have ed : fld uw 7 6 = d := fld_at hu 1 rfl rfl
  rw [decodeWord_02 f0]
  unfold decodeMajor02
  rw [if_neg (fun h => absurd (f1.symm.trans h) (by decide)), if_neg (fun h => absurd (f1.symm.trans h.1) (by decide)), if_neg (fun h => absurd (f2.symm.trans h.1) (by decide)), if_neg (fun h => absurd (f1.symm.trans h.1) (by decide)), if_neg (fun h => absurd (f2.symm.trans h.1) (by decide)), if_pos ⟨f2, f3⟩, ex, ea, ed]

theorem word_abs (x : BitVec 1) (a : BitVec 6) (d : BitVec 6) : WordOf (.abs x a d) (encodeWord (.abs x a d)) := by
  have hp : encodeWord (.abs x a d) = packBits [(7, 5), (6, d.toNat), (6, a.toNat), (9, 384), (1, x.toNat), (3, 0)] := by
    have := x.isLt; have := a.isLt; have := d.isLt
    change 201326597 + x.toNat * 268435456 + a.toNat * 8192 + d.toNat * 128 = _; simp only [packBits]; omega
  obtain ⟨uw, hu⟩ : ∃ uw, uw = packBits [(7, 5), (6, d.toNat), (6, a.toNat), (9, 384), (1, x.toNat), (3, 0)] := ⟨_, rfl⟩
  rw [hp, ← hu]
  refine ⟨bits_at hu 0 0 rfl rfl (by decide) rfl, hu ▸ packBits_lt _, ?_⟩
  have f0 : bitsOf uw 1 6 = 2 := bits_at hu 0 1 rfl rfl (by decide) rfl
  have f1 : bitsOf uw 25 3 = 6 := bits_at hu 3 6 rfl rfl (by decide) rfl
  have f2 : bitsOf uw 19 9 = 384 := bits_at hu 3 0 rfl rfl (by decide) rfl
  have f3 : bitsOf uw 29 3 = 0 := bits_at hu 5 0 rfl rfl (by decide) rfl
  have ex : fld uw 28 1 = x := fld_at hu 4 rfl rfl
  have ea : fld uw 13 6 = a := fld_at hu 2 rfl rfl
  have ed : fld uw 7 6 = d := fld_at hu 1 rfl rfl
  rw [decodeWord_02 f0]
  unfold decodeMajor02
  rw [if_neg (fun h => absurd (f1.symm.trans h) (by decide)), if_neg (fun h => absurd (f1.symm.trans h.1) (by decide)), if_neg (fun h => absurd (f2.symm.trans h.1) (by decide)), if_neg (fun h => absurd (f1.symm.trans h.1) (by decide)), if_neg (fun h => absurd (f2.symm.trans h.1) (by decide)), if_neg (fun h => absurd (f2.symm.trans h.1) (by decide)), if_pos ⟨f2, f3⟩, ex, ea, ed]

theorem word_not (x : BitVec 1) (a : BitVec 6) (d : BitVec 6) : WordOf (.not x a d) (encodeWord (.not x a d)) := by
  have hp : encodeWord (.not x a d) = packBits [(7, 5), (6, d.toNat), (6, a.toNat), (9, 448), (1, x.toNat), (3, 0)] := by
    have := x.isLt; have := a.isLt; have := d.isLt
    change 234881029 + x.toNat * 268435456 + a.toNat * 8192 + d.toNat * 128 = _; simp only [packBits]; omega
  obtain ⟨uw, hu⟩ : ∃ uw, uw = packBits [(7, 5), (6, d.toNat), (6, a.toNat), (9, 448), (1, x.toNat), (3, 0)] := ⟨_, rfl⟩
  rw [hp, ← hu]
  refine ⟨bits_at hu 0 0 rfl rfl (by decide) rfl, hu ▸ packBits_lt _, ?_⟩
  have f0 : bitsOf uw 1 6 = 2 := bits_at hu 0 1 rfl rfl (by decide) rfl
  have f1 : bitsOf uw 25 3 = 7 := bits_at hu 3 6 rfl rfl (by decide) rfl
  have f2 : bitsOf uw 19 9 = 448 := bits_at hu 3 0 rfl rfl (by decide) rfl
  have f3 : bitsOf uw 29 3 = 0 := bits_at hu 5 0 rfl rfl (by decide) rfl
  have ex : fld uw 28 1 = x := fld_at hu 4 rfl rfl
  have ea : fld uw 13 6 = a := fld_at hu 2 rfl rfl
  have ed : fld uw 7 6 = d := fld_at hu 1 rfl rfl
  rw [decodeWord_02 f0]
  unfold decodeMajor02
  rw [if_neg (fun h => absurd (f1.symm.trans h) (by decide)), if_neg (fun h => absurd (f1.symm.trans h.1) (by decide)), if_neg (fun h => absurd (f2.symm.trans h.1) (by decide)), if_neg (fun h => absurd (f1.symm.trans h.1) (by decide)), if_neg (fun h => absurd (f2.symm.trans h.1) (by decide)), if_neg (fun h => absurd (f2.symm.trans h.1) (by decide)), if_neg (fun h => absurd (f2.symm.trans h.1) (by decide)), if_pos ⟨f2, f3⟩, ex, ea, ed]

theorem word_dot4I8 (m : BitVec 2) (y : BitVec 1) (x : BitVec 1) (b : BitVec 6) (a : BitVec 6) (d : BitVec 6) : WordOf (.dot4I8 m y x b a d) (encodeWord (.dot4I8 m y x b a d)) := by
  have hp : encodeWord (.dot4I8 m y x b a d) = packBits [(7, 7), (6, d.toNat), (6, a.toNat), (6, b.toNat), (3, 0), (1, x.toNat), (1, y.toNat), (2, m.toNat)] := by
    have := m.isLt; have := y.isLt; have := x.isLt; have := b.isLt; have := a.isLt; have := d.isLt
    change 7 + m.toNat * 1073741824 + y.toNat * 536870912 + x.toNat * 268435456 + b.toNat * 524288 + a.toNat * 8192 + d.toNat * 128 = _; simp only [packBits]; omega
  obtain ⟨uw, hu⟩ : ∃ uw, uw = packBits [(7, 7), (6, d.toNat), (6, a.toNat), (6, b.toNat), (3, 0), (1, x.toNat), (1, y.toNat), (2, m.toNat)] := ⟨_, rfl⟩
  rw [hp, ← hu]
  refine ⟨bits_at hu 0 0 rfl rfl (by decide) rfl, hu ▸ packBits_lt _, ?_⟩
  have f0 : bitsOf uw 1 6 = 3 := bits_at hu 0 1 rfl rfl (by decide) rfl
  have f1 : bitsOf uw 25 3 = 0 := bits_at hu 4 0 rfl rfl (by decide) rfl
  have em : fld uw 30 2 = m := fld_at hu 7 rfl rfl
  have ey : fld uw 29 1 = y := fld_at hu 6 rfl rfl
  have ex : fld uw 28 1 = x := fld_at hu 5 rfl rfl
  have eb : fld uw 19 6 = b := fld_at hu 3 rfl rfl
  have ea : fld uw 13 6 = a := fld_at hu 2 rfl rfl
  have ed : fld uw 7 6 = d := fld_at hu 1 rfl rfl
  rw [decodeWord_03 f0]
  unfold decodeMajor03
  rw [if_pos f1, em, ey, ex, eb, ea, ed]

theorem word_addi (m : BitVec 1) (x : BitVec 1) (i : BitVec 11) (a : BitVec 6) (d : BitVec 6) : WordOf (.addi m x i a d) (encodeWord (.addi m x i a d)) := by
  have hp : encodeWord (.addi m x i a d) = packBits [(7, 9), (6, d.toNat), (6, a.toNat), (11, i.toNat), (1, x.toNat), (1, m.toNat)] := by
    have := m.isLt; have := x.isLt; have := i.isLt; have := a.isLt; have := d.isLt
    change 9 + m.toNat * 2147483648 + x.toNat * 1073741824 + i.toNat * 524288 + a.toNat * 8192 + d.toNat * 128 = _; simp only [packBits]; omega
  obtain ⟨uw, hu⟩ : ∃ uw, uw = packBits [(7, 9), (6, d.toNat), (6, a.toNat), (11, i.toNat), (1, x.toNat), (1, m.toNat)] := ⟨_, rfl⟩
  rw [hp, ← hu]
  refine ⟨bits_at hu 0 0 rfl rfl (by decide) rfl, hu ▸ packBits_lt _, ?_⟩
  have f0 : bitsOf uw 1 6 = 4 := bits_at hu 0 1 rfl rfl (by decide) rfl
  have em : fld uw 31 1 = m := fld_at hu 5 rfl rfl
  have ex : fld uw 30 1 = x := fld_at hu 4 rfl rfl
  have ei : fld uw 19 11 = i := fld_at hu 3 rfl rfl
  have ea : fld uw 13 6 = a := fld_at hu 2 rfl rfl
  have ed : fld uw 7 6 = d := fld_at hu 1 rfl rfl
  rw [decodeWord_04 f0]
  unfold decodeMajor04
  rw [em, ex, ei, ea, ed]

theorem word_andi (x : BitVec 1) (i : BitVec 11) (a : BitVec 6) (d : BitVec 6) : WordOf (.andi x i a d) (encodeWord (.andi x i a d)) := by
  have hp : encodeWord (.andi x i a d) = packBits [(7, 11), (6, d.toNat), (6, a.toNat), (11, i.toNat), (1, x.toNat), (1, 0)] := by
    have := x.isLt; have := i.isLt; have := a.isLt; have := d.isLt
    change 11 + x.toNat * 1073741824 + i.toNat * 524288 + a.toNat * 8192 + d.toNat * 128 = _; simp only [packBits]; omega
  obtain ⟨uw, hu⟩ : ∃ uw, uw = packBits [(7, 11), (6, d.toNat), (6, a.toNat), (11, i.toNat), (1, x.toNat), (1, 0)] := ⟨_, rfl⟩
  rw [hp, ← hu]
  refine ⟨bits_at hu 0 0 rfl rfl (by decide) rfl, hu ▸ packBits_lt _, ?_⟩
  have f0 : bitsOf uw 1 6 = 5 := bits_at hu 0 1 rfl rfl (by decide) rfl
  have f1 : bitsOf uw 31 1 = 0 := bits_at hu 5 0 rfl rfl (by decide) rfl
  have ex : fld uw 30 1 = x := fld_at hu 4 rfl rfl
  have ei : fld uw 19 11 = i := fld_at hu 3 rfl rfl
  have ea : fld uw 13 6 = a := fld_at hu 2 rfl rfl
  have ed : fld uw 7 6 = d := fld_at hu 1 rfl rfl
  rw [decodeWord_05 f0]
  unfold decodeMajor05
  rw [if_pos f1, ex, ei, ea, ed]

theorem word_ori (x : BitVec 1) (i : BitVec 11) (a : BitVec 6) (d : BitVec 6) : WordOf (.ori x i a d) (encodeWord (.ori x i a d)) := by
  have hp : encodeWord (.ori x i a d) = packBits [(7, 13), (6, d.toNat), (6, a.toNat), (11, i.toNat), (1, x.toNat), (1, 0)] := by
    have := x.isLt; have := i.isLt; have := a.isLt; have := d.isLt
    change 13 + x.toNat * 1073741824 + i.toNat * 524288 + a.toNat * 8192 + d.toNat * 128 = _; simp only [packBits]; omega
  obtain ⟨uw, hu⟩ : ∃ uw, uw = packBits [(7, 13), (6, d.toNat), (6, a.toNat), (11, i.toNat), (1, x.toNat), (1, 0)] := ⟨_, rfl⟩
  rw [hp, ← hu]
  refine ⟨bits_at hu 0 0 rfl rfl (by decide) rfl, hu ▸ packBits_lt _, ?_⟩
  have f0 : bitsOf uw 1 6 = 6 := bits_at hu 0 1 rfl rfl (by decide) rfl
  have f1 : bitsOf uw 31 1 = 0 := bits_at hu 5 0 rfl rfl (by decide) rfl
  have ex : fld uw 30 1 = x := fld_at hu 4 rfl rfl
  have ei : fld uw 19 11 = i := fld_at hu 3 rfl rfl
  have ea : fld uw 13 6 = a := fld_at hu 2 rfl rfl
  have ed : fld uw 7 6 = d := fld_at hu 1 rfl rfl
  rw [decodeWord_06 f0]
  unfold decodeMajor06
  rw [if_pos f1, ex, ei, ea, ed]

theorem word_xori (x : BitVec 1) (i : BitVec 11) (a : BitVec 6) (d : BitVec 6) : WordOf (.xori x i a d) (encodeWord (.xori x i a d)) := by
  have hp : encodeWord (.xori x i a d) = packBits [(7, 15), (6, d.toNat), (6, a.toNat), (11, i.toNat), (1, x.toNat), (1, 0)] := by
    have := x.isLt; have := i.isLt; have := a.isLt; have := d.isLt
    change 15 + x.toNat * 1073741824 + i.toNat * 524288 + a.toNat * 8192 + d.toNat * 128 = _; simp only [packBits]; omega
  obtain ⟨uw, hu⟩ : ∃ uw, uw = packBits [(7, 15), (6, d.toNat), (6, a.toNat), (11, i.toNat), (1, x.toNat), (1, 0)] := ⟨_, rfl⟩
  rw [hp, ← hu]
  refine ⟨bits_at hu 0 0 rfl rfl (by decide) rfl, hu ▸ packBits_lt _, ?_⟩
  have f0 : bitsOf uw 1 6 = 7 := bits_at hu 0 1 rfl rfl (by decide) rfl
  have f1 : bitsOf uw 31 1 = 0 := bits_at hu 5 0 rfl rfl (by decide) rfl
  have ex : fld uw 30 1 = x := fld_at hu 4 rfl rfl
  have ei : fld uw 19 11 = i := fld_at hu 3 rfl rfl
  have ea : fld uw 13 6 = a := fld_at hu 2 rfl rfl
  have ed : fld uw 7 6 = d := fld_at hu 1 rfl rfl
  rw [decodeWord_07 f0]
  unfold decodeMajor07
  rw [if_pos f1, ex, ei, ea, ed]

theorem word_shli (x : BitVec 1) (n : BitVec 5) (a : BitVec 6) (d : BitVec 6) : WordOf (.shli x n a d) (encodeWord (.shli x n a d)) := by
  have hp : encodeWord (.shli x n a d) = packBits [(7, 17), (6, d.toNat), (6, a.toNat), (5, n.toNat), (6, 0), (1, x.toNat), (1, 0)] := by
    have := x.isLt; have := n.isLt; have := a.isLt; have := d.isLt
    change 17 + x.toNat * 1073741824 + n.toNat * 524288 + a.toNat * 8192 + d.toNat * 128 = _; simp only [packBits]; omega
  obtain ⟨uw, hu⟩ : ∃ uw, uw = packBits [(7, 17), (6, d.toNat), (6, a.toNat), (5, n.toNat), (6, 0), (1, x.toNat), (1, 0)] := ⟨_, rfl⟩
  rw [hp, ← hu]
  refine ⟨bits_at hu 0 0 rfl rfl (by decide) rfl, hu ▸ packBits_lt _, ?_⟩
  have f0 : bitsOf uw 1 6 = 8 := bits_at hu 0 1 rfl rfl (by decide) rfl
  have f1 : bitsOf uw 24 6 = 0 := bits_at hu 4 0 rfl rfl (by decide) rfl
  have f2 : bitsOf uw 31 1 = 0 := bits_at hu 6 0 rfl rfl (by decide) rfl
  have ex : fld uw 30 1 = x := fld_at hu 5 rfl rfl
  have en : fld uw 19 5 = n := fld_at hu 3 rfl rfl
  have ea : fld uw 13 6 = a := fld_at hu 2 rfl rfl
  have ed : fld uw 7 6 = d := fld_at hu 1 rfl rfl
  rw [decodeWord_08 f0]
  unfold decodeMajor08
  rw [if_pos ⟨f1, f2⟩, ex, en, ea, ed]

theorem word_shri (x : BitVec 1) (n : BitVec 5) (a : BitVec 6) (d : BitVec 6) : WordOf (.shri x n a d) (encodeWord (.shri x n a d)) := by
  have hp : encodeWord (.shri x n a d) = packBits [(7, 17), (6, d.toNat), (6, a.toNat), (5, n.toNat), (6, 1), (1, x.toNat), (1, 0)] := by
    have := x.isLt; have := n.isLt; have := a.isLt; have := d.isLt
    change 16777233 + x.toNat * 1073741824 + n.toNat * 524288 + a.toNat * 8192 + d.toNat * 128 = _; simp only [packBits]; omega
  obtain ⟨uw, hu⟩ : ∃ uw, uw = packBits [(7, 17), (6, d.toNat), (6, a.toNat), (5, n.toNat), (6, 1), (1, x.toNat), (1, 0)] := ⟨_, rfl⟩
  rw [hp, ← hu]
  refine ⟨bits_at hu 0 0 rfl rfl (by decide) rfl, hu ▸ packBits_lt _, ?_⟩
  have f0 : bitsOf uw 1 6 = 8 := bits_at hu 0 1 rfl rfl (by decide) rfl
  have f1 : bitsOf uw 24 6 = 1 := bits_at hu 4 0 rfl rfl (by decide) rfl
  have f2 : bitsOf uw 31 1 = 0 := bits_at hu 6 0 rfl rfl (by decide) rfl
  have ex : fld uw 30 1 = x := fld_at hu 5 rfl rfl
  have en : fld uw 19 5 = n := fld_at hu 3 rfl rfl
  have ea : fld uw 13 6 = a := fld_at hu 2 rfl rfl
  have ed : fld uw 7 6 = d := fld_at hu 1 rfl rfl
  rw [decodeWord_08 f0]
  unfold decodeMajor08
  rw [if_neg (fun h => absurd (f1.symm.trans h.1) (by decide)), if_pos ⟨f1, f2⟩, ex, en, ea, ed]

theorem word_srai (x : BitVec 1) (n : BitVec 5) (a : BitVec 6) (d : BitVec 6) : WordOf (.srai x n a d) (encodeWord (.srai x n a d)) := by
  have hp : encodeWord (.srai x n a d) = packBits [(7, 17), (6, d.toNat), (6, a.toNat), (5, n.toNat), (6, 2), (1, x.toNat), (1, 0)] := by
    have := x.isLt; have := n.isLt; have := a.isLt; have := d.isLt
    change 33554449 + x.toNat * 1073741824 + n.toNat * 524288 + a.toNat * 8192 + d.toNat * 128 = _; simp only [packBits]; omega
  obtain ⟨uw, hu⟩ : ∃ uw, uw = packBits [(7, 17), (6, d.toNat), (6, a.toNat), (5, n.toNat), (6, 2), (1, x.toNat), (1, 0)] := ⟨_, rfl⟩
  rw [hp, ← hu]
  refine ⟨bits_at hu 0 0 rfl rfl (by decide) rfl, hu ▸ packBits_lt _, ?_⟩
  have f0 : bitsOf uw 1 6 = 8 := bits_at hu 0 1 rfl rfl (by decide) rfl
  have f1 : bitsOf uw 24 6 = 2 := bits_at hu 4 0 rfl rfl (by decide) rfl
  have f2 : bitsOf uw 31 1 = 0 := bits_at hu 6 0 rfl rfl (by decide) rfl
  have ex : fld uw 30 1 = x := fld_at hu 5 rfl rfl
  have en : fld uw 19 5 = n := fld_at hu 3 rfl rfl
  have ea : fld uw 13 6 = a := fld_at hu 2 rfl rfl
  have ed : fld uw 7 6 = d := fld_at hu 1 rfl rfl
  rw [decodeWord_08 f0]
  unfold decodeMajor08
  rw [if_neg (fun h => absurd (f1.symm.trans h.1) (by decide)), if_neg (fun h => absurd (f1.symm.trans h.1) (by decide)), if_pos ⟨f1, f2⟩, ex, en, ea, ed]

theorem word_roti (x : BitVec 1) (n : BitVec 5) (a : BitVec 6) (d : BitVec 6) : WordOf (.roti x n a d) (encodeWord (.roti x n a d)) := by
  have hp : encodeWord (.roti x n a d) = packBits [(7, 17), (6, d.toNat), (6, a.toNat), (5, n.toNat), (6, 3), (1, x.toNat), (1, 0)] := by
    have := x.isLt; have := n.isLt; have := a.isLt; have := d.isLt
    change 50331665 + x.toNat * 1073741824 + n.toNat * 524288 + a.toNat * 8192 + d.toNat * 128 = _; simp only [packBits]; omega
  obtain ⟨uw, hu⟩ : ∃ uw, uw = packBits [(7, 17), (6, d.toNat), (6, a.toNat), (5, n.toNat), (6, 3), (1, x.toNat), (1, 0)] := ⟨_, rfl⟩
  rw [hp, ← hu]
  refine ⟨bits_at hu 0 0 rfl rfl (by decide) rfl, hu ▸ packBits_lt _, ?_⟩
  have f0 : bitsOf uw 1 6 = 8 := bits_at hu 0 1 rfl rfl (by decide) rfl
  have f1 : bitsOf uw 24 6 = 3 := bits_at hu 4 0 rfl rfl (by decide) rfl
  have f2 : bitsOf uw 31 1 = 0 := bits_at hu 6 0 rfl rfl (by decide) rfl
  have ex : fld uw 30 1 = x := fld_at hu 5 rfl rfl
  have en : fld uw 19 5 = n := fld_at hu 3 rfl rfl
  have ea : fld uw 13 6 = a := fld_at hu 2 rfl rfl
  have ed : fld uw 7 6 = d := fld_at hu 1 rfl rfl
  rw [decodeWord_08 f0]
  unfold decodeMajor08
  rw [if_neg (fun h => absurd (f1.symm.trans h.1) (by decide)), if_neg (fun h => absurd (f1.symm.trans h.1) (by decide)), if_neg (fun h => absurd (f1.symm.trans h.1) (by decide)), if_pos ⟨f1, f2⟩, ex, en, ea, ed]

theorem word_movi (i : BitVec 11) (d : BitVec 6) : WordOf (.movi i d) (encodeWord (.movi i d)) := by
  have hp : encodeWord (.movi i d) = packBits [(7, 19), (6, d.toNat), (6, 0), (11, i.toNat), (2, 0)] := by
    have := i.isLt; have := d.isLt
    change 19 + i.toNat * 524288 + d.toNat * 128 = _; simp only [packBits]; omega
  obtain ⟨uw, hu⟩ : ∃ uw, uw = packBits [(7, 19), (6, d.toNat), (6, 0), (11, i.toNat), (2, 0)] := ⟨_, rfl⟩
  rw [hp, ← hu]
  refine ⟨bits_at hu 0 0 rfl rfl (by decide) rfl, hu ▸ packBits_lt _, ?_⟩
  have f0 : bitsOf uw 1 6 = 9 := bits_at hu 0 1 rfl rfl (by decide) rfl
  have f1 : bitsOf uw 13 6 = 0 := bits_at hu 2 0 rfl rfl (by decide) rfl
  have f2 : bitsOf uw 30 2 = 0 := bits_at hu 4 0 rfl rfl (by decide) rfl
  have ei : fld uw 19 11 = i := fld_at hu 3 rfl rfl
  have ed : fld uw 7 6 = d := fld_at hu 1 rfl rfl
  rw [decodeWord_09 f0]
  unfold decodeMajor09
  rw [if_pos ⟨f1, f2⟩, ei, ed]

theorem word_mini (m : BitVec 1) (x : BitVec 1) (i : BitVec 11) (a : BitVec 6) (d : BitVec 6) : WordOf (.mini m x i a d) (encodeWord (.mini m x i a d)) := by
  have hp : encodeWord (.mini m x i a d) = packBits [(7, 21), (6, d.toNat), (6, a.toNat), (11, i.toNat), (1, x.toNat), (1, m.toNat)] := by
    have := m.isLt; have := x.isLt; have := i.isLt; have := a.isLt; have := d.isLt
    change 21 + m.toNat * 2147483648 + x.toNat * 1073741824 + i.toNat * 524288 + a.toNat * 8192 + d.toNat * 128 = _; simp only [packBits]; omega
  obtain ⟨uw, hu⟩ : ∃ uw, uw = packBits [(7, 21), (6, d.toNat), (6, a.toNat), (11, i.toNat), (1, x.toNat), (1, m.toNat)] := ⟨_, rfl⟩
  rw [hp, ← hu]
  refine ⟨bits_at hu 0 0 rfl rfl (by decide) rfl, hu ▸ packBits_lt _, ?_⟩
  have f0 : bitsOf uw 1 6 = 10 := bits_at hu 0 1 rfl rfl (by decide) rfl
  have em : fld uw 31 1 = m := fld_at hu 5 rfl rfl
  have ex : fld uw 30 1 = x := fld_at hu 4 rfl rfl
  have ei : fld uw 19 11 = i := fld_at hu 3 rfl rfl
  have ea : fld uw 13 6 = a := fld_at hu 2 rfl rfl
  have ed : fld uw 7 6 = d := fld_at hu 1 rfl rfl
  rw [decodeWord_0a f0]
  unfold decodeMajor0a
  rw [em, ex, ei, ea, ed]

theorem word_maxi (m : BitVec 1) (x : BitVec 1) (i : BitVec 11) (a : BitVec 6) (d : BitVec 6) : WordOf (.maxi m x i a d) (encodeWord (.maxi m x i a d)) := by
  have hp : encodeWord (.maxi m x i a d) = packBits [(7, 23), (6, d.toNat), (6, a.toNat), (11, i.toNat), (1, x.toNat), (1, m.toNat)] := by
    have := m.isLt; have := x.isLt; have := i.isLt; have := a.isLt; have := d.isLt
    change 23 + m.toNat * 2147483648 + x.toNat * 1073741824 + i.toNat * 524288 + a.toNat * 8192 + d.toNat * 128 = _; simp only [packBits]; omega
  obtain ⟨uw, hu⟩ : ∃ uw, uw = packBits [(7, 23), (6, d.toNat), (6, a.toNat), (11, i.toNat), (1, x.toNat), (1, m.toNat)] := ⟨_, rfl⟩
  rw [hp, ← hu]
  refine ⟨bits_at hu 0 0 rfl rfl (by decide) rfl, hu ▸ packBits_lt _, ?_⟩
  have f0 : bitsOf uw 1 6 = 11 := bits_at hu 0 1 rfl rfl (by decide) rfl
  have em : fld uw 31 1 = m := fld_at hu 5 rfl rfl
  have ex : fld uw 30 1 = x := fld_at hu 4 rfl rfl
  have ei : fld uw 19 11 = i := fld_at hu 3 rfl rfl
  have ea : fld uw 13 6 = a := fld_at hu 2 rfl rfl
  have ed : fld uw 7 6 = d := fld_at hu 1 rfl rfl
  rw [decodeWord_0b f0]
  unfold decodeMajor0b
  rw [em, ex, ei, ea, ed]

theorem word_kadd (m : BitVec 2) (b : BitVec 5) (a : BitVec 5) (d : BitVec 5) : WordOf (.kadd m b a d) (encodeWord (.kadd m b a d)) := by
  have hp : encodeWord (.kadd m b a d) = packBits [(7, 25), (5, d.toNat), (1, 0), (5, a.toNat), (1, 0), (5, b.toNat), (6, 0), (2, m.toNat)] := by
    have := m.isLt; have := b.isLt; have := a.isLt; have := d.isLt
    change 25 + m.toNat * 1073741824 + b.toNat * 524288 + a.toNat * 8192 + d.toNat * 128 = _; simp only [packBits]; omega
  obtain ⟨uw, hu⟩ : ∃ uw, uw = packBits [(7, 25), (5, d.toNat), (1, 0), (5, a.toNat), (1, 0), (5, b.toNat), (6, 0), (2, m.toNat)] := ⟨_, rfl⟩
  rw [hp, ← hu]
  refine ⟨bits_at hu 0 0 rfl rfl (by decide) rfl, hu ▸ packBits_lt _, ?_⟩
  have f0 : bitsOf uw 1 6 = 12 := bits_at hu 0 1 rfl rfl (by decide) rfl
  have f1 : bitsOf uw 12 1 = 0 := bits_at hu 2 0 rfl rfl (by decide) rfl
  have f2 : bitsOf uw 18 1 = 0 := bits_at hu 4 0 rfl rfl (by decide) rfl
  have f3 : bitsOf uw 24 6 = 0 := bits_at hu 6 0 rfl rfl (by decide) rfl
  have em : fld uw 30 2 = m := fld_at hu 7 rfl rfl
  have eb : fld uw 19 5 = b := fld_at hu 5 rfl rfl
  have ea : fld uw 13 5 = a := fld_at hu 3 rfl rfl
  have ed : fld uw 7 5 = d := fld_at hu 1 rfl rfl
  rw [decodeWord_0c f0]
  unfold decodeMajor0c
  rw [if_pos ⟨f1, f2, f3⟩, em, eb, ea, ed]

theorem word_ksub (m : BitVec 2) (b : BitVec 5) (a : BitVec 5) (d : BitVec 5) : WordOf (.ksub m b a d) (encodeWord (.ksub m b a d)) := by
  have hp : encodeWord (.ksub m b a d) = packBits [(7, 25), (5, d.toNat), (1, 0), (5, a.toNat), (1, 0), (5, b.toNat), (6, 2), (2, m.toNat)] := by
    have := m.isLt; have := b.isLt; have := a.isLt; have := d.isLt
    change 33554457 + m.toNat * 1073741824 + b.toNat * 524288 + a.toNat * 8192 + d.toNat * 128 = _; simp only [packBits]; omega
  obtain ⟨uw, hu⟩ : ∃ uw, uw = packBits [(7, 25), (5, d.toNat), (1, 0), (5, a.toNat), (1, 0), (5, b.toNat), (6, 2), (2, m.toNat)] := ⟨_, rfl⟩
  rw [hp, ← hu]
  refine ⟨bits_at hu 0 0 rfl rfl (by decide) rfl, hu ▸ packBits_lt _, ?_⟩
  have f0 : bitsOf uw 1 6 = 12 := bits_at hu 0 1 rfl rfl (by decide) rfl
  have f1 : bitsOf uw 24 6 = 2 := bits_at hu 6 0 rfl rfl (by decide) rfl
  have f2 : bitsOf uw 12 1 = 0 := bits_at hu 2 0 rfl rfl (by decide) rfl
  have f3 : bitsOf uw 18 1 = 0 := bits_at hu 4 0 rfl rfl (by decide) rfl
  have em : fld uw 30 2 = m := fld_at hu 7 rfl rfl
  have eb : fld uw 19 5 = b := fld_at hu 5 rfl rfl
  have ea : fld uw 13 5 = a := fld_at hu 3 rfl rfl
  have ed : fld uw 7 5 = d := fld_at hu 1 rfl rfl
  rw [decodeWord_0c f0]
  unfold decodeMajor0c
  rw [if_neg (fun h => absurd (f1.symm.trans h.2.2) (by decide)), if_pos ⟨f2, f3, f1⟩, em, eb, ea, ed]

theorem word_kmulLo (b : BitVec 5) (a : BitVec 5) (d : BitVec 5) : WordOf (.kmulLo b a d) (encodeWord (.kmulLo b a d)) := by
  have hp : encodeWord (.kmulLo b a d) = packBits [(7, 25), (5, d.toNat), (1, 0), (5, a.toNat), (1, 0), (5, b.toNat), (8, 4)] := by
    have := b.isLt; have := a.isLt; have := d.isLt
    change 67108889 + b.toNat * 524288 + a.toNat * 8192 + d.toNat * 128 = _; simp only [packBits]; omega
  obtain ⟨uw, hu⟩ : ∃ uw, uw = packBits [(7, 25), (5, d.toNat), (1, 0), (5, a.toNat), (1, 0), (5, b.toNat), (8, 4)] := ⟨_, rfl⟩
  rw [hp, ← hu]
  refine ⟨bits_at hu 0 0 rfl rfl (by decide) rfl, hu ▸ packBits_lt _, ?_⟩
  have f0 : bitsOf uw 1 6 = 12 := bits_at hu 0 1 rfl rfl (by decide) rfl
  have f1 : bitsOf uw 24 6 = 4 := bits_at hu 6 0 rfl rfl (by decide) rfl
  have f2 : bitsOf uw 12 1 = 0 := bits_at hu 2 0 rfl rfl (by decide) rfl
  have f3 : bitsOf uw 18 1 = 0 := bits_at hu 4 0 rfl rfl (by decide) rfl
  have f4 : bitsOf uw 24 8 = 4 := bits_at hu 6 0 rfl rfl (by decide) rfl
  have eb : fld uw 19 5 = b := fld_at hu 5 rfl rfl
  have ea : fld uw 13 5 = a := fld_at hu 3 rfl rfl
  have ed : fld uw 7 5 = d := fld_at hu 1 rfl rfl
  rw [decodeWord_0c f0]
  unfold decodeMajor0c
  rw [if_neg (fun h => absurd (f1.symm.trans h.2.2) (by decide)), if_neg (fun h => absurd (f1.symm.trans h.2.2) (by decide)), if_pos ⟨f2, f3, f4⟩, eb, ea, ed]

theorem word_kmulHi (m : BitVec 2) (b : BitVec 5) (a : BitVec 5) (d : BitVec 5) : WordOf (.kmulHi m b a d) (encodeWord (.kmulHi m b a d)) := by
  have hp : encodeWord (.kmulHi m b a d) = packBits [(7, 25), (5, d.toNat), (1, 0), (5, a.toNat), (1, 0), (5, b.toNat), (6, 6), (2, m.toNat)] := by
    have := m.isLt; have := b.isLt; have := a.isLt; have := d.isLt
    change 100663321 + m.toNat * 1073741824 + b.toNat * 524288 + a.toNat * 8192 + d.toNat * 128 = _; simp only [packBits]; omega
  obtain ⟨uw, hu⟩ : ∃ uw, uw = packBits [(7, 25), (5, d.toNat), (1, 0), (5, a.toNat), (1, 0), (5, b.toNat), (6, 6), (2, m.toNat)] := ⟨_, rfl⟩
  rw [hp, ← hu]
  refine ⟨bits_at hu 0 0 rfl rfl (by decide) rfl, hu ▸ packBits_lt _, ?_⟩
  have f0 : bitsOf uw 1 6 = 12 := bits_at hu 0 1 rfl rfl (by decide) rfl
  have f1 : bitsOf uw 24 6 = 6 := bits_at hu 6 0 rfl rfl (by decide) rfl
  have f2 : bitsOf uw 12 1 = 0 := bits_at hu 2 0 rfl rfl (by decide) rfl
  have f3 : bitsOf uw 18 1 = 0 := bits_at hu 4 0 rfl rfl (by decide) rfl
  have em : fld uw 30 2 = m := fld_at hu 7 rfl rfl
  have eb : fld uw 19 5 = b := fld_at hu 5 rfl rfl
  have ea : fld uw 13 5 = a := fld_at hu 3 rfl rfl
  have ed : fld uw 7 5 = d := fld_at hu 1 rfl rfl
  rw [decodeWord_0c f0]
  unfold decodeMajor0c
  rw [if_neg (fun h => absurd (f1.symm.trans h.2.2) (by decide)), if_neg (fun h => absurd (f1.symm.trans h.2.2) (by decide)), if_neg (by rw [hu, ← hp]; change ¬ ((100663321 + m.toNat * 1073741824 + b.toNat * 524288 + a.toNat * 8192 + d.toNat * 128) / 2 ^ 12 % 2 ^ 1 = 0 ∧ (100663321 + m.toNat * 1073741824 + b.toNat * 524288 + a.toNat * 8192 + d.toNat * 128) / 2 ^ 18 % 2 ^ 1 = 0 ∧ (100663321 + m.toNat * 1073741824 + b.toNat * 524288 + a.toNat * 8192 + d.toNat * 128) / 2 ^ 24 % 2 ^ 8 = 4); have := m.isLt; have := b.isLt; have := a.isLt; have := d.isLt; omega), if_pos ⟨f2, f3, f1⟩, em, eb, ea, ed]

theorem word_kmadLo (b : BitVec 5) (a : BitVec 5) (d : BitVec 5) : WordOf (.kmadLo b a d) (encodeWord (.kmadLo b a d)) := by
  have hp : encodeWord (.kmadLo b a d) = packBits [(7, 25), (5, d.toNat), (1, 0), (5, a.toNat), (1, 0), (5, b.toNat), (8, 8)] := by
    have := b.isLt; have := a.isLt; have := d.isLt
    change 134217753 + b.toNat * 524288 + a.toNat * 8192 + d.toNat * 128 = _; simp only [packBits]; omega
  obtain ⟨uw, hu⟩ : ∃ uw, uw = packBits [(7, 25), (5, d.toNat), (1, 0), (5, a.toNat), (1, 0), (5, b.toNat), (8, 8)] := ⟨_, rfl⟩
  rw [hp, ← hu]
  refine ⟨bits_at hu 0 0 rfl rfl (by decide) rfl, hu ▸ packBits_lt _, ?_⟩
  have f0 : bitsOf uw 1 6 = 12 := bits_at hu 0 1 rfl rfl (by decide) rfl
  have f1 : bitsOf uw 24 6 = 8 := bits_at hu 6 0 rfl rfl (by decide) rfl
  have f2 : bitsOf uw 24 8 = 8 := bits_at hu 6 0 rfl rfl (by decide) rfl
  have f3 : bitsOf uw 12 1 = 0 := bits_at hu 2 0 rfl rfl (by decide) rfl
  have f4 : bitsOf uw 18 1 = 0 := bits_at hu 4 0 rfl rfl (by decide) rfl
  have eb : fld uw 19 5 = b := fld_at hu 5 rfl rfl
  have ea : fld uw 13 5 = a := fld_at hu 3 rfl rfl
  have ed : fld uw 7 5 = d := fld_at hu 1 rfl rfl
  rw [decodeWord_0c f0]
  unfold decodeMajor0c
  rw [if_neg (fun h => absurd (f1.symm.trans h.2.2) (by decide)), if_neg (fun h => absurd (f1.symm.trans h.2.2) (by decide)), if_neg (fun h => absurd (f2.symm.trans h.2.2) (by decide)), if_neg (fun h => absurd (f1.symm.trans h.2.2) (by decide)), if_pos ⟨f3, f4, f2⟩, eb, ea, ed]

theorem word_kadda (b : BitVec 4) (a : BitVec 4) (d : BitVec 4) : WordOf (.kadda b a d) (encodeWord (.kadda b a d)) := by
  have hp : encodeWord (.kadda b a d) = packBits [(8, 25), (4, d.toNat), (2, 0), (4, a.toNat), (2, 0), (4, b.toNat), (8, 10)] := by
    have := b.isLt; have := a.isLt; have := d.isLt
    change 167772185 + b.toNat * 1048576 + a.toNat * 16384 + d.toNat * 256 = _; simp only [packBits]; omega
  obtain ⟨uw, hu⟩ : ∃ uw, uw = packBits [(8, 25), (4, d.toNat), (2, 0), (4, a.toNat), (2, 0), (4, b.toNat), (8, 10)] := ⟨_, rfl⟩
  rw [hp, ← hu]
  refine ⟨bits_at hu 0 0 rfl rfl (by decide) rfl, hu ▸ packBits_lt _, ?_⟩
  have f0 : bitsOf uw 1 6 = 12 := bits_at hu 0 1 rfl rfl (by decide) rfl
  have f1 : bitsOf uw 24 6 = 10 := bits_at hu 6 0 rfl rfl (by decide) rfl
  have f2 : bitsOf uw 24 8 = 10 := bits_at hu 6 0 rfl rfl (by decide) rfl
  have f3 : bitsOf uw 7 1 = 0 := bits_at hu 0 7 rfl rfl (by decide) rfl
  have f4 : bitsOf uw 12 2 = 0 := bits_at hu 2 0 rfl rfl (by decide) rfl
  have f5 : bitsOf uw 18 2 = 0 := bits_at hu 4 0 rfl rfl (by decide) rfl
  have eb : fld uw 20 4 = b := fld_at hu 5 rfl rfl
  have ea : fld uw 14 4 = a := fld_at hu 3 rfl rfl
  have ed : fld uw 8 4 = d := fld_at hu 1 rfl rfl
  rw [decodeWord_0c f0]
  unfold decodeMajor0c
  rw [if_neg (fun h => absurd (f1.symm.trans h.2.2) (by decide)), if_neg (fun h => absurd (f1.symm.trans h.2.2) (by decide)), if_neg (fun h => absurd (f2.symm.trans h.2.2) (by decide)), if_neg (fun h => absurd (f1.symm.trans h.2.2) (by decide)), if_neg (fun h => absurd (f2.symm.trans h.2.2) (by decide)), if_pos ⟨f3, f4, f5, f2⟩, eb, ea, ed]

theorem word_kmin (m : BitVec 2) (b : BitVec 5) (a : BitVec 5) (d : BitVec 5) : WordOf (.kmin m b a d) (encodeWord (.kmin m b a d)) := by
  have hp : encodeWord (.kmin m b a d) = packBits [(7, 25), (5, d.toNat), (1, 0), (5, a.toNat), (1, 0), (5, b.toNat), (6, 12), (2, m.toNat)] := by
    have := m.isLt; have := b.isLt; have := a.isLt; have := d.isLt
    change 201326617 + m.toNat * 1073741824 + b.toNat * 524288 + a.toNat * 8192 + d.toNat * 128 = _; simp only [packBits]; omega
  obtain ⟨uw, hu⟩ : ∃ uw, uw = packBits [(7, 25), (5, d.toNat), (1, 0), (5, a.toNat), (1, 0), (5, b.toNat), (6, 12), (2, m.toNat)] := ⟨_, rfl⟩
  rw [hp, ← hu]
  refine ⟨bits_at hu 0 0 rfl rfl (by decide) rfl, hu ▸ packBits_lt _, ?_⟩
  have f0 : bitsOf uw 1 6 = 12 := bits_at hu 0 1 rfl rfl (by decide) rfl
  have f1 : bitsOf uw 24 6 = 12 := bits_at hu 6 0 rfl rfl (by decide) rfl
  have f2 : bitsOf uw 12 1 = 0 := bits_at hu 2 0 rfl rfl (by decide) rfl
  have f3 : bitsOf uw 18 1 = 0 := bits_at hu 4 0 rfl rfl (by decide) rfl
  have em : fld uw 30 2 = m := fld_at hu 7 rfl rfl
  have eb : fld uw 19 5 = b := fld_at hu 5 rfl rfl
  have ea : fld uw 13 5 = a := fld_at hu 3 rfl rfl
  have ed : fld uw 7 5 = d := fld_at hu 1 rfl rfl
  rw [decodeWord_0c f0]
  unfold decodeMajor0c
  rw [if_neg (fun h => absurd (f1.symm.trans h.2.2) (by decide)), if_neg (fun h => absurd (f1.symm.trans h.2.2) (by decide)), if_neg (by rw [hu, ← hp]; change ¬ ((201326617 + m.toNat * 1073741824 + b.toNat * 524288 + a.toNat * 8192 + d.toNat * 128) / 2 ^ 12 % 2 ^ 1 = 0 ∧ (201326617 + m.toNat * 1073741824 + b.toNat * 524288 + a.toNat * 8192 + d.toNat * 128) / 2 ^ 18 % 2 ^ 1 = 0 ∧ (201326617 + m.toNat * 1073741824 + b.toNat * 524288 + a.toNat * 8192 + d.toNat * 128) / 2 ^ 24 % 2 ^ 8 = 4); have := m.isLt; have := b.isLt; have := a.isLt; have := d.isLt; omega), if_neg (fun h => absurd (f1.symm.trans h.2.2) (by decide)), if_neg (by rw [hu, ← hp]; change ¬ ((201326617 + m.toNat * 1073741824 + b.toNat * 524288 + a.toNat * 8192 + d.toNat * 128) / 2 ^ 12 % 2 ^ 1 = 0 ∧ (201326617 + m.toNat * 1073741824 + b.toNat * 524288 + a.toNat * 8192 + d.toNat * 128) / 2 ^ 18 % 2 ^ 1 = 0 ∧ (201326617 + m.toNat * 1073741824 + b.toNat * 524288 + a.toNat * 8192 + d.toNat * 128) / 2 ^ 24 % 2 ^ 8 = 8); have := m.isLt; have := b.isLt; have := a.isLt; have := d.isLt; omega), if_neg (by rw [hu, ← hp]; change ¬ ((201326617 + m.toNat * 1073741824 + b.toNat * 524288 + a.toNat * 8192 + d.toNat * 128) / 2 ^ 7 % 2 ^ 1 = 0 ∧ (201326617 + m.toNat * 1073741824 + b.toNat * 524288 + a.toNat * 8192 + d.toNat * 128) / 2 ^ 12 % 2 ^ 2 = 0 ∧ (201326617 + m.toNat * 1073741824 + b.toNat * 524288 + a.toNat * 8192 + d.toNat * 128) / 2 ^ 18 % 2 ^ 2 = 0 ∧ (201326617 + m.toNat * 1073741824 + b.toNat * 524288 + a.toNat * 8192 + d.toNat * 128) / 2 ^ 24 % 2 ^ 8 = 10); have := m.isLt; have := b.isLt; have := a.isLt; have := d.isLt; omega), if_pos ⟨f2, f3, f1⟩, em, eb, ea, ed]

theorem word_kmax (m : BitVec 2) (b : BitVec 5) (a : BitVec 5) (d : BitVec 5) : WordOf (.kmax m b a d) (encodeWord (.kmax m b a d)) := by
  have hp : encodeWord (.kmax m b a d) = packBits [(7, 25), (5, d.toNat), (1, 0), (5, a.toNat), (1, 0), (5, b.toNat), (6, 14), (2, m.toNat)] := by
    have := m.isLt; have := b.isLt; have := a.isLt; have := d.isLt
    change 234881049 + m.toNat * 1073741824 + b.toNat * 524288 + a.toNat * 8192 + d.toNat * 128 = _; simp only [packBits]; omega
  obtain ⟨uw, hu⟩ : ∃ uw, uw = packBits [(7, 25), (5, d.toNat), (1, 0), (5, a.toNat), (1, 0), (5, b.toNat), (6, 14), (2, m.toNat)] := ⟨_, rfl⟩
  rw [hp, ← hu]
  refine ⟨bits_at hu 0 0 rfl rfl (by decide) rfl, hu ▸ packBits_lt _, ?_⟩
  have f0 : bitsOf uw 1 6 = 12 := bits_at hu 0 1 rfl rfl (by decide) rfl
  have f1 : bitsOf uw 24 6 = 14 := bits_at hu 6 0 rfl rfl (by decide) rfl
  have f2 : bitsOf uw 12 1 = 0 := bits_at hu 2 0 rfl rfl (by decide) rfl
  have f3 : bitsOf uw 18 1 = 0 := bits_at hu 4 0 rfl rfl (by decide) rfl
  have em : fld uw 30 2 = m := fld_at hu 7 rfl rfl
  have eb : fld uw 19 5 = b := fld_at hu 5 rfl rfl
  have ea : fld uw 13 5 = a := fld_at hu 3 rfl rfl
  have ed : fld uw 7 5 = d := fld_at hu 1 rfl rfl
  rw [decodeWord_0c f0]
  unfold decodeMajor0c
  rw [if_neg (fun h => absurd (f1.symm.trans h.2.2) (by decide)), if_neg (fun h => absurd (f1.symm.trans h.2.2) (by decide)), if_neg (by rw [hu, ← hp]; change ¬ ((234881049 + m.toNat * 1073741824 + b.toNat * 524288 + a.toNat * 8192 + d.toNat * 128) / 2 ^ 12 % 2 ^ 1 = 0 ∧ (234881049 + m.toNat * 1073741824 + b.toNat * 524288 + a.toNat * 8192 + d.toNat * 128) / 2 ^ 18 % 2 ^ 1 = 0 ∧ (234881049 + m.toNat * 1073741824 + b.toNat * 524288 + a.toNat * 8192 + d.toNat * 128) / 2 ^ 24 % 2 ^ 8 = 4); have := m.isLt; have := b.isLt; have := a.isLt; have := d.isLt; omega), if_neg (fun h => absurd (f1.symm.trans h.2.2) (by decide)), if_neg (by rw [hu, ← hp]; change ¬ ((234881049 + m.toNat * 1073741824 + b.toNat * 524288 + a.toNat * 8192 + d.toNat * 128) / 2 ^ 12 % 2 ^ 1 = 0 ∧ (234881049 + m.toNat * 1073741824 + b.toNat * 524288 + a.toNat * 8192 + d.toNat * 128) / 2 ^ 18 % 2 ^ 1 = 0 ∧ (234881049 + m.toNat * 1073741824 + b.toNat * 524288 + a.toNat * 8192 + d.toNat * 128) / 2 ^ 24 % 2 ^ 8 = 8); have := m.isLt; have := b.isLt; have := a.isLt; have := d.isLt; omega), if_neg (by rw [hu, ← hp]; change ¬ ((234881049 + m.toNat * 1073741824 + b.toNat * 524288 + a.toNat * 8192 + d.toNat * 128) / 2 ^ 7 % 2 ^ 1 = 0 ∧ (234881049 + m.toNat * 1073741824 + b.toNat * 524288 + a.toNat * 8192 + d.toNat * 128) / 2 ^ 12 % 2 ^ 2 = 0 ∧ (234881049 + m.toNat * 1073741824 + b.toNat * 524288 + a.toNat * 8192 + d.toNat * 128) / 2 ^ 18 % 2 ^ 2 = 0 ∧ (234881049 + m.toNat * 1073741824 + b.toNat * 524288 + a.toNat * 8192 + d.toNat * 128) / 2 ^ 24 % 2 ^ 8 = 10); have := m.isLt; have := b.isLt; have := a.isLt; have := d.isLt; omega), if_neg (fun h => absurd (f1.symm.trans h.2.2) (by decide)), if_pos ⟨f2, f3, f1⟩, em, eb, ea, ed]

theorem word_kand (b : BitVec 5) (a : BitVec 5) (d : BitVec 5) : WordOf (.kand b a d) (encodeWord (.kand b a d)) := by
  have hp : encodeWord (.kand b a d) = packBits [(7, 27), (5, d.toNat), (1, 0), (5, a.toNat), (1, 0), (5, b.toNat), (8, 0)] := by
    have := b.isLt; have := a.isLt; have := d.isLt
    change 27 + b.toNat * 524288 + a.toNat * 8192 + d.toNat * 128 = _; simp only [packBits]; omega
  obtain ⟨uw, hu⟩ : ∃ uw, uw = packBits [(7, 27), (5, d.toNat), (1, 0), (5, a.toNat), (1, 0), (5, b.toNat), (8, 0)] := ⟨_, rfl⟩
  rw [hp, ← hu]
  refine ⟨bits_at hu 0 0 rfl rfl (by decide) rfl, hu ▸ packBits_lt _, ?_⟩
  have f0 : bitsOf uw 1 6 = 13 := bits_at hu 0 1 rfl rfl (by decide) rfl
  have f1 : bitsOf uw 12 1 = 0 := bits_at hu 2 0 rfl rfl (by decide) rfl
  have f2 : bitsOf uw 18 1 = 0 := bits_at hu 4 0 rfl rfl (by decide) rfl
  have f3 : bitsOf uw 24 8 = 0 := bits_at hu 6 0 rfl rfl (by decide) rfl
  have eb : fld uw 19 5 = b := fld_at hu 5 rfl rfl
  have ea : fld uw 13 5 = a := fld_at hu 3 rfl rfl
  have ed : fld uw 7 5 = d := fld_at hu 1 rfl rfl
  rw [decodeWord_0d f0]
  unfold decodeMajor0d
  rw [if_pos ⟨f1, f2, f3⟩, eb, ea, ed]

theorem word_kor (b : BitVec 5) (a : BitVec 5) (d : BitVec 5) : WordOf (.kor b a d) (encodeWord (.kor b a d)) := by
  have hp : encodeWord (.kor b a d) = packBits [(7, 27), (5, d.toNat), (1, 0), (5, a.toNat), (1, 0), (5, b.toNat), (8, 2)] := by
    have := b.isLt; have := a.isLt; have := d.isLt
    change 33554459 + b.toNat * 524288 + a.toNat * 8192 + d.toNat * 128 = _; simp only [packBits]; omega
  obtain ⟨uw, hu⟩ : ∃ uw, uw = packBits [(7, 27), (5, d.toNat), (1, 0), (5, a.toNat), (1, 0), (5, b.toNat), (8, 2)] := ⟨_, rfl⟩
  rw [hp, ← hu]
  refine ⟨bits_at hu 0 0 rfl rfl (by decide) rfl, hu ▸ packBits_lt _, ?_⟩
  have f0 : bitsOf uw 1 6 = 13 := bits_at hu 0 1 rfl rfl (by decide) rfl
  have f1 : bitsOf uw 24 8 = 2 := bits_at hu 6 0 rfl rfl (by decide) rfl
  have f2 : bitsOf uw 12 1 = 0 := bits_at hu 2 0 rfl rfl (by decide) rfl
  have f3 : bitsOf uw 18 1 = 0 := bits_at hu 4 0 rfl rfl (by decide) rfl
  have eb : fld uw 19 5 = b := fld_at hu 5 rfl rfl
  have ea : fld uw 13 5 = a := fld_at hu 3 rfl rfl
  have ed : fld uw 7 5 = d := fld_at hu 1 rfl rfl
  rw [decodeWord_0d f0]
  unfold decodeMajor0d
  rw [if_neg (fun h => absurd (f1.symm.trans h.2.2) (by decide)), if_pos ⟨f2, f3, f1⟩, eb, ea, ed]

theorem word_kxor (b : BitVec 5) (a : BitVec 5) (d : BitVec 5) : WordOf (.kxor b a d) (encodeWord (.kxor b a d)) := by
  have hp : encodeWord (.kxor b a d) = packBits [(7, 27), (5, d.toNat), (1, 0), (5, a.toNat), (1, 0), (5, b.toNat), (8, 4)] := by
    have := b.isLt; have := a.isLt; have := d.isLt
    change 67108891 + b.toNat * 524288 + a.toNat * 8192 + d.toNat * 128 = _; simp only [packBits]; omega
  obtain ⟨uw, hu⟩ : ∃ uw, uw = packBits [(7, 27), (5, d.toNat), (1, 0), (5, a.toNat), (1, 0), (5, b.toNat), (8, 4)] := ⟨_, rfl⟩
  rw [hp, ← hu]
  refine ⟨bits_at hu 0 0 rfl rfl (by decide) rfl, hu ▸ packBits_lt _, ?_⟩
  have f0 : bitsOf uw 1 6 = 13 := bits_at hu 0 1 rfl rfl (by decide) rfl
  have f1 : bitsOf uw 24 8 = 4 := bits_at hu 6 0 rfl rfl (by decide) rfl
  have f2 : bitsOf uw 12 1 = 0 := bits_at hu 2 0 rfl rfl (by decide) rfl
  have f3 : bitsOf uw 18 1 = 0 := bits_at hu 4 0 rfl rfl (by decide) rfl
  have eb : fld uw 19 5 = b := fld_at hu 5 rfl rfl
  have ea : fld uw 13 5 = a := fld_at hu 3 rfl rfl
  have ed : fld uw 7 5 = d := fld_at hu 1 rfl rfl
  rw [decodeWord_0d f0]
  unfold decodeMajor0d
  rw [if_neg (fun h => absurd (f1.symm.trans h.2.2) (by decide)), if_neg (fun h => absurd (f1.symm.trans h.2.2) (by decide)), if_pos ⟨f2, f3, f1⟩, eb, ea, ed]

theorem word_kandn (b : BitVec 5) (a : BitVec 5) (d : BitVec 5) : WordOf (.kandn b a d) (encodeWord (.kandn b a d)) := by
  have hp : encodeWord (.kandn b a d) = packBits [(7, 27), (5, d.toNat), (1, 0), (5, a.toNat), (1, 0), (5, b.toNat), (8, 6)] := by
    have := b.isLt; have := a.isLt; have := d.isLt
    change 100663323 + b.toNat * 524288 + a.toNat * 8192 + d.toNat * 128 = _; simp only [packBits]; omega
  obtain ⟨uw, hu⟩ : ∃ uw, uw = packBits [(7, 27), (5, d.toNat), (1, 0), (5, a.toNat), (1, 0), (5, b.toNat), (8, 6)] := ⟨_, rfl⟩
  rw [hp, ← hu]
  refine ⟨bits_at hu 0 0 rfl rfl (by decide) rfl, hu ▸ packBits_lt _, ?_⟩
  have f0 : bitsOf uw 1 6 = 13 := bits_at hu 0 1 rfl rfl (by decide) rfl
  have f1 : bitsOf uw 24 8 = 6 := bits_at hu 6 0 rfl rfl (by decide) rfl
  have f2 : bitsOf uw 12 1 = 0 := bits_at hu 2 0 rfl rfl (by decide) rfl
  have f3 : bitsOf uw 18 1 = 0 := bits_at hu 4 0 rfl rfl (by decide) rfl
  have eb : fld uw 19 5 = b := fld_at hu 5 rfl rfl
  have ea : fld uw 13 5 = a := fld_at hu 3 rfl rfl
  have ed : fld uw 7 5 = d := fld_at hu 1 rfl rfl
  rw [decodeWord_0d f0]
  unfold decodeMajor0d
  rw [if_neg (fun h => absurd (f1.symm.trans h.2.2) (by decide)), if_neg (fun h => absurd (f1.symm.trans h.2.2) (by decide)), if_neg (fun h => absurd (f1.symm.trans h.2.2) (by decide)), if_pos ⟨f2, f3, f1⟩, eb, ea, ed]

theorem word_kshl (b : BitVec 5) (a : BitVec 5) (d : BitVec 5) : WordOf (.kshl b a d) (encodeWord (.kshl b a d)) := by
  have hp : encodeWord (.kshl b a d) = packBits [(7, 27), (5, d.toNat), (1, 0), (5, a.toNat), (1, 0), (5, b.toNat), (8, 8)] := by
    have := b.isLt; have := a.isLt; have := d.isLt
    change 134217755 + b.toNat * 524288 + a.toNat * 8192 + d.toNat * 128 = _; simp only [packBits]; omega
  obtain ⟨uw, hu⟩ : ∃ uw, uw = packBits [(7, 27), (5, d.toNat), (1, 0), (5, a.toNat), (1, 0), (5, b.toNat), (8, 8)] := ⟨_, rfl⟩
  rw [hp, ← hu]
  refine ⟨bits_at hu 0 0 rfl rfl (by decide) rfl, hu ▸ packBits_lt _, ?_⟩
  have f0 : bitsOf uw 1 6 = 13 := bits_at hu 0 1 rfl rfl (by decide) rfl
  have f1 : bitsOf uw 24 8 = 8 := bits_at hu 6 0 rfl rfl (by decide) rfl
  have f2 : bitsOf uw 12 1 = 0 := bits_at hu 2 0 rfl rfl (by decide) rfl
  have f3 : bitsOf uw 18 1 = 0 := bits_at hu 4 0 rfl rfl (by decide) rfl
  have eb : fld uw 19 5 = b := fld_at hu 5 rfl rfl
  have ea : fld uw 13 5 = a := fld_at hu 3 rfl rfl
  have ed : fld uw 7 5 = d := fld_at hu 1 rfl rfl
  rw [decodeWord_0d f0]
  unfold decodeMajor0d
  rw [if_neg (fun h => absurd (f1.symm.trans h.2.2) (by decide)), if_neg (fun h => absurd (f1.symm.trans h.2.2) (by decide)), if_neg (fun h => absurd (f1.symm.trans h.2.2) (by decide)), if_neg (fun h => absurd (f1.symm.trans h.2.2) (by decide)), if_pos ⟨f2, f3, f1⟩, eb, ea, ed]

theorem word_kshr (b : BitVec 5) (a : BitVec 5) (d : BitVec 5) : WordOf (.kshr b a d) (encodeWord (.kshr b a d)) := by
  have hp : encodeWord (.kshr b a d) = packBits [(7, 27), (5, d.toNat), (1, 0), (5, a.toNat), (1, 0), (5, b.toNat), (8, 10)] := by
    have := b.isLt; have := a.isLt; have := d.isLt
    change 167772187 + b.toNat * 524288 + a.toNat * 8192 + d.toNat * 128 = _; simp only [packBits]; omega
  obtain ⟨uw, hu⟩ : ∃ uw, uw = packBits [(7, 27), (5, d.toNat), (1, 0), (5, a.toNat), (1, 0), (5, b.toNat), (8, 10)] := ⟨_, rfl⟩
  rw [hp, ← hu]
  refine ⟨bits_at hu 0 0 rfl rfl (by decide) rfl, hu ▸ packBits_lt _, ?_⟩
  have f0 : bitsOf uw 1 6 = 13 := bits_at hu 0 1 rfl rfl (by decide) rfl
  have f1 : bitsOf uw 24 8 = 10 := bits_at hu 6 0 rfl rfl (by decide) rfl
  have f2 : bitsOf uw 12 1 = 0 := bits_at hu 2 0 rfl rfl (by decide) rfl
  have f3 : bitsOf uw 18 1 = 0 := bits_at hu 4 0 rfl rfl (by decide) rfl
  have eb : fld uw 19 5 = b := fld_at hu 5 rfl rfl
  have ea : fld uw 13 5 = a := fld_at hu 3 rfl rfl
  have ed : fld uw 7 5 = d := fld_at hu 1 rfl rfl
  rw [decodeWord_0d f0]
  unfold decodeMajor0d
  rw [if_neg (fun h => absurd (f1.symm.trans h.2.2) (by decide)), if_neg (fun h => absurd (f1.symm.trans h.2.2) (by decide)), if_neg (fun h => absurd (f1.symm.trans h.2.2) (by decide)), if_neg (fun h => absurd (f1.symm.trans h.2.2) (by decide)), if_neg (fun h => absurd (f1.symm.trans h.2.2) (by decide)), if_pos ⟨f2, f3, f1⟩, eb, ea, ed]

theorem word_ksra (b : BitVec 5) (a : BitVec 5) (d : BitVec 5) : WordOf (.ksra b a d) (encodeWord (.ksra b a d)) := by
  have hp : encodeWord (.ksra b a d) = packBits [(7, 27), (5, d.toNat), (1, 0), (5, a.toNat), (1, 0), (5, b.toNat), (8, 12)] := by
    have := b.isLt; have := a.isLt; have := d.isLt
    change 201326619 + b.toNat * 524288 + a.toNat * 8192 + d.toNat * 128 = _; simp only [packBits]; omega
  obtain ⟨uw, hu⟩ : ∃ uw, uw = packBits [(7, 27), (5, d.toNat), (1, 0), (5, a.toNat), (1, 0), (5, b.toNat), (8, 12)] := ⟨_, rfl⟩
  rw [hp, ← hu]
  refine ⟨bits_at hu 0 0 rfl rfl (by decide) rfl, hu ▸ packBits_lt _, ?_⟩
  have f0 : bitsOf uw 1 6 = 13 := bits_at hu 0 1 rfl rfl (by decide) rfl
  have f1 : bitsOf uw 24 8 = 12 := bits_at hu 6 0 rfl rfl (by decide) rfl
  have f2 : bitsOf uw 12 1 = 0 := bits_at hu 2 0 rfl rfl (by decide) rfl
  have f3 : bitsOf uw 18 1 = 0 := bits_at hu 4 0 rfl rfl (by decide) rfl
  have eb : fld uw 19 5 = b := fld_at hu 5 rfl rfl
  have ea : fld uw 13 5 = a := fld_at hu 3 rfl rfl
  have ed : fld uw 7 5 = d := fld_at hu 1 rfl rfl
  rw [decodeWord_0d f0]
  unfold decodeMajor0d
  rw [if_neg (fun h => absurd (f1.symm.trans h.2.2) (by decide)), if_neg (fun h => absurd (f1.symm.trans h.2.2) (by decide)), if_neg (fun h => absurd (f1.symm.trans h.2.2) (by decide)), if_neg (fun h => absurd (f1.symm.trans h.2.2) (by decide)), if_neg (fun h => absurd (f1.symm.trans h.2.2) (by decide)), if_neg (fun h => absurd (f1.symm.trans h.2.2) (by decide)), if_pos ⟨f2, f3, f1⟩, eb, ea, ed]

theorem word_krot (b : BitVec 5) (a : BitVec 5) (d : BitVec 5) : WordOf (.krot b a d) (encodeWord (.krot b a d)) := by
  have hp : encodeWord (.krot b a d) = packBits [(7, 27), (5, d.toNat), (1, 0), (5, a.toNat), (1, 0), (5, b.toNat), (8, 14)] := by
    have := b.isLt; have := a.isLt; have := d.isLt
    change 234881051 + b.toNat * 524288 + a.toNat * 8192 + d.toNat * 128 = _; simp only [packBits]; omega
  obtain ⟨uw, hu⟩ : ∃ uw, uw = packBits [(7, 27), (5, d.toNat), (1, 0), (5, a.toNat), (1, 0), (5, b.toNat), (8, 14)] := ⟨_, rfl⟩
  rw [hp, ← hu]
  refine ⟨bits_at hu 0 0 rfl rfl (by decide) rfl, hu ▸ packBits_lt _, ?_⟩
  have f0 : bitsOf uw 1 6 = 13 := bits_at hu 0 1 rfl rfl (by decide) rfl
  have f1 : bitsOf uw 24 8 = 14 := bits_at hu 6 0 rfl rfl (by decide) rfl
  have f2 : bitsOf uw 12 1 = 0 := bits_at hu 2 0 rfl rfl (by decide) rfl
  have f3 : bitsOf uw 18 1 = 0 := bits_at hu 4 0 rfl rfl (by decide) rfl
  have eb : fld uw 19 5 = b := fld_at hu 5 rfl rfl
  have ea : fld uw 13 5 = a := fld_at hu 3 rfl rfl
  have ed : fld uw 7 5 = d := fld_at hu 1 rfl rfl
  rw [decodeWord_0d f0]
  unfold decodeMajor0d
  rw [if_neg (fun h => absurd (f1.symm.trans h.2.2) (by decide)), if_neg (fun h => absurd (f1.symm.trans h.2.2) (by decide)), if_neg (fun h => absurd (f1.symm.trans h.2.2) (by decide)), if_neg (fun h => absurd (f1.symm.trans h.2.2) (by decide)), if_neg (fun h => absurd (f1.symm.trans h.2.2) (by decide)), if_neg (fun h => absurd (f1.symm.trans h.2.2) (by decide)), if_neg (fun h => absurd (f1.symm.trans h.2.2) (by decide)), if_pos ⟨f2, f3, f1⟩, eb, ea, ed]

theorem word_kaddi (i : BitVec 11) (a : BitVec 5) (d : BitVec 5) : WordOf (.kaddi i a d) (encodeWord (.kaddi i a d)) := by
  have hp : encodeWord (.kaddi i a d) = packBits [(7, 29), (5, d.toNat), (1, 0), (5, a.toNat), (1, 0), (11, i.toNat), (2, 0)] := by
    have := i.isLt; have := a.isLt; have := d.isLt
    change 29 + i.toNat * 524288 + a.toNat * 8192 + d.toNat * 128 = _; simp only [packBits]; omega
  obtain ⟨uw, hu⟩ : ∃ uw, uw = packBits [(7, 29), (5, d.toNat), (1, 0), (5, a.toNat), (1, 0), (11, i.toNat), (2, 0)] := ⟨_, rfl⟩
  rw [hp, ← hu]
  refine ⟨bits_at hu 0 0 rfl rfl (by decide) rfl, hu ▸ packBits_lt _, ?_⟩
  have f0 : bitsOf uw 1 6 = 14 := bits_at hu 0 1 rfl rfl (by decide) rfl
  have f1 : bitsOf uw 12 1 = 0 := bits_at hu 2 0 rfl rfl (by decide) rfl
  have f2 : bitsOf uw 18 1 = 0 := bits_at hu 4 0 rfl rfl (by decide) rfl
  have f3 : bitsOf uw 30 2 = 0 := bits_at hu 6 0 rfl rfl (by decide) rfl
  have ei : fld uw 19 11 = i := fld_at hu 5 rfl rfl
  have ea : fld uw 13 5 = a := fld_at hu 3 rfl rfl
  have ed : fld uw 7 5 = d := fld_at hu 1 rfl rfl
  rw [decodeWord_0e f0]
  unfold decodeMajor0e
  rw [if_pos ⟨f1, f2, f3⟩, ei, ea, ed]

theorem word_kmovi (i : BitVec 11) (d : BitVec 5) : WordOf (.kmovi i d) (encodeWord (.kmovi i d)) := by
  have hp : encodeWord (.kmovi i d) = packBits [(7, 29), (5, d.toNat), (7, 0), (11, i.toNat), (2, 2)] := by
    have := i.isLt; have := d.isLt
    change 2147483677 + i.toNat * 524288 + d.toNat * 128 = _; simp only [packBits]; omega
  obtain ⟨uw, hu⟩ : ∃ uw, uw = packBits [(7, 29), (5, d.toNat), (7, 0), (11, i.toNat), (2, 2)] := ⟨_, rfl⟩
  rw [hp, ← hu]
  refine ⟨bits_at hu 0 0 rfl rfl (by decide) rfl, hu ▸ packBits_lt _, ?_⟩
  have f0 : bitsOf uw 1 6 = 14 := bits_at hu 0 1 rfl rfl (by decide) rfl
  have f1 : bitsOf uw 30 2 = 2 := bits_at hu 4 0 rfl rfl (by decide) rfl
  have f2 : bitsOf uw 12 7 = 0 := bits_at hu 2 0 rfl rfl (by decide) rfl
  have ei : fld uw 19 11 = i := fld_at hu 3 rfl rfl
  have ed : fld uw 7 5 = d := fld_at hu 1 rfl rfl
  rw [decodeWord_0e f0]
  unfold decodeMajor0e
  rw [if_neg (fun h => absurd (f1.symm.trans h.2.2) (by decide)), if_pos ⟨f2, f1⟩, ei, ed]

theorem word_kbfe (m : BitVec 2) (b : BitVec 5) (a : BitVec 5) (d : BitVec 5) : WordOf (.kbfe m b a d) (encodeWord (.kbfe m b a d)) := by
  have hp : encodeWord (.kbfe m b a d) = packBits [(7, 31), (5, d.toNat), (1, 0), (5, a.toNat), (1, 0), (5, b.toNat), (6, 0), (2, m.toNat)] := by
    have := m.isLt; have := b.isLt; have := a.isLt; have := d.isLt
    change 31 + m.toNat * 1073741824 + b.toNat * 524288 + a.toNat * 8192 + d.toNat * 128 = _; simp only [packBits]; omega
  obtain ⟨uw, hu⟩ : ∃ uw, uw = packBits [(7, 31), (5, d.toNat), (1, 0), (5, a.toNat), (1, 0), (5, b.toNat), (6, 0), (2, m.toNat)] := ⟨_, rfl⟩
  rw [hp, ← hu]
  refine ⟨bits_at hu 0 0 rfl rfl (by decide) rfl, hu ▸ packBits_lt _, ?_⟩
  have f0 : bitsOf uw 1 6 = 15 := bits_at hu 0 1 rfl rfl (by decide) rfl
  have f1 : bitsOf uw 12 1 = 0 := bits_at hu 2 0 rfl rfl (by decide) rfl
  have f2 : bitsOf uw 18 1 = 0 := bits_at hu 4 0 rfl rfl (by decide) rfl
  have f3 : bitsOf uw 24 6 = 0 := bits_at hu 6 0 rfl rfl (by decide) rfl
  have em : fld uw 30 2 = m := fld_at hu 7 rfl rfl
  have eb : fld uw 19 5 = b := fld_at hu 5 rfl rfl
  have ea : fld uw 13 5 = a := fld_at hu 3 rfl rfl
  have ed : fld uw 7 5 = d := fld_at hu 1 rfl rfl
  rw [decodeWord_0f f0]
  unfold decodeMajor0f
  rw [if_pos ⟨f1, f2, f3⟩, em, eb, ea, ed]

theorem word_kbfi (b : BitVec 5) (a : BitVec 5) (d : BitVec 5) : WordOf (.kbfi b a d) (encodeWord (.kbfi b a d)) := by
  have hp : encodeWord (.kbfi b a d) = packBits [(7, 31), (5, d.toNat), (1, 0), (5, a.toNat), (1, 0), (5, b.toNat), (8, 2)] := by
    have := b.isLt; have := a.isLt; have := d.isLt
    change 33554463 + b.toNat * 524288 + a.toNat * 8192 + d.toNat * 128 = _; simp only [packBits]; omega
  obtain ⟨uw, hu⟩ : ∃ uw, uw = packBits [(7, 31), (5, d.toNat), (1, 0), (5, a.toNat), (1, 0), (5, b.toNat), (8, 2)] := ⟨_, rfl⟩
  rw [hp, ← hu]
  refine ⟨bits_at hu 0 0 rfl rfl (by decide) rfl, hu ▸ packBits_lt _, ?_⟩
  have f0 : bitsOf uw 1 6 = 15 := bits_at hu 0 1 rfl rfl (by decide) rfl
  have f1 : bitsOf uw 24 6 = 2 := bits_at hu 6 0 rfl rfl (by decide) rfl
  have f2 : bitsOf uw 12 1 = 0 := bits_at hu 2 0 rfl rfl (by decide) rfl
  have f3 : bitsOf uw 18 1 = 0 := bits_at hu 4 0 rfl rfl (by decide) rfl
  have f4 : bitsOf uw 24 8 = 2 := bits_at hu 6 0 rfl rfl (by decide) rfl
  have eb : fld uw 19 5 = b := fld_at hu 5 rfl rfl
  have ea : fld uw 13 5 = a := fld_at hu 3 rfl rfl
  have ed : fld uw 7 5 = d := fld_at hu 1 rfl rfl
  rw [decodeWord_0f f0]
  unfold decodeMajor0f
  rw [if_neg (fun h => absurd (f1.symm.trans h.2.2) (by decide)), if_pos ⟨f2, f3, f4⟩, eb, ea, ed]

theorem word_kpopc (a : BitVec 5) (d : BitVec 5) : WordOf (.kpopc a d) (encodeWord (.kpopc a d)) := by
  have hp : encodeWord (.kpopc a d) = packBits [(7, 31), (5, d.toNat), (1, 0), (5, a.toNat), (14, 256)] := by
    have := a.isLt; have := d.isLt
    change 67108895 + a.toNat * 8192 + d.toNat * 128 = _; simp only [packBits]; omega
  obtain ⟨uw, hu⟩ : ∃ uw, uw = packBits [(7, 31), (5, d.toNat), (1, 0), (5, a.toNat), (14, 256)] := ⟨_, rfl⟩
  rw [hp, ← hu]
  refine ⟨bits_at hu 0 0 rfl rfl (by decide) rfl, hu ▸ packBits_lt _, ?_⟩
  have f0 : bitsOf uw 1 6 = 15 := bits_at hu 0 1 rfl rfl (by decide) rfl
  have f1 : bitsOf uw 24 6 = 4 := bits_at hu 4 6 rfl rfl (by decide) rfl
  have f2 : bitsOf uw 24 8 = 4 := bits_at hu 4 6 rfl rfl (by decide) rfl
  have f3 : bitsOf uw 12 1 = 0 := bits_at hu 2 0 rfl rfl (by decide) rfl
  have f4 : bitsOf uw 18 14 = 256 := bits_at hu 4 0 rfl rfl (by decide) rfl
  have ea : fld uw 13 5 = a := fld_at hu 3 rfl rfl
  have ed : fld uw 7 5 = d := fld_at hu 1 rfl rfl
  rw [decodeWord_0f f0]
  unfold decodeMajor0f
  rw [if_neg (fun h => absurd (f1.symm.trans h.2.2) (by decide)), if_neg (fun h => absurd (f2.symm.trans h.2.2) (by decide)), if_pos ⟨f3, f4⟩, ea, ed]

theorem word_kclz (a : BitVec 5) (d : BitVec 5) : WordOf (.kclz a d) (encodeWord (.kclz a d)) := by
  have hp : encodeWord (.kclz a d) = packBits [(7, 31), (5, d.toNat), (1, 0), (5, a.toNat), (14, 384)] := by
    have := a.isLt; have := d.isLt
    change 100663327 + a.toNat * 8192 + d.toNat * 128 = _; simp only [packBits]; omega
  obtain ⟨uw, hu⟩ : ∃ uw, uw = packBits [(7, 31), (5, d.toNat), (1, 0), (5, a.toNat), (14, 384)] := ⟨_, rfl⟩
  rw [hp, ← hu]
  refine ⟨bits_at hu 0 0 rfl rfl (by decide) rfl, hu ▸ packBits_lt _, ?_⟩
  have f0 : bitsOf uw 1 6 = 15 := bits_at hu 0 1 rfl rfl (by decide) rfl
  have f1 : bitsOf uw 24 6 = 6 := bits_at hu 4 6 rfl rfl (by decide) rfl
  have f2 : bitsOf uw 24 8 = 6 := bits_at hu 4 6 rfl rfl (by decide) rfl
  have f3 : bitsOf uw 18 14 = 384 := bits_at hu 4 0 rfl rfl (by decide) rfl
  have f4 : bitsOf uw 12 1 = 0 := bits_at hu 2 0 rfl rfl (by decide) rfl
  have ea : fld uw 13 5 = a := fld_at hu 3 rfl rfl
  have ed : fld uw 7 5 = d := fld_at hu 1 rfl rfl
  rw [decodeWord_0f f0]
  unfold decodeMajor0f
  rw [if_neg (fun h => absurd (f1.symm.trans h.2.2) (by decide)), if_neg (fun h => absurd (f2.symm.trans h.2.2) (by decide)), if_neg (fun h => absurd (f3.symm.trans h.2) (by decide)), if_pos ⟨f4, f3⟩, ea, ed]

theorem word_kbrev (a : BitVec 5) (d : BitVec 5) : WordOf (.kbrev a d) (encodeWord (.kbrev a d)) := by
  have hp : encodeWord (.kbrev a d) = packBits [(7, 31), (5, d.toNat), (1, 0), (5, a.toNat), (14, 512)] := by
    have := a.isLt; have := d.isLt
    change 134217759 + a.toNat * 8192 + d.toNat * 128 = _; simp only [packBits]; omega
  obtain ⟨uw, hu⟩ : ∃ uw, uw = packBits [(7, 31), (5, d.toNat), (1, 0), (5, a.toNat), (14, 512)] := ⟨_, rfl⟩
  rw [hp, ← hu]
  refine ⟨bits_at hu 0 0 rfl rfl (by decide) rfl, hu ▸ packBits_lt _, ?_⟩
  have f0 : bitsOf uw 1 6 = 15 := bits_at hu 0 1 rfl rfl (by decide) rfl
  have f1 : bitsOf uw 24 6 = 8 := bits_at hu 4 6 rfl rfl (by decide) rfl
  have f2 : bitsOf uw 24 8 = 8 := bits_at hu 4 6 rfl rfl (by decide) rfl
  have f3 : bitsOf uw 18 14 = 512 := bits_at hu 4 0 rfl rfl (by decide) rfl
  have f4 : bitsOf uw 12 1 = 0 := bits_at hu 2 0 rfl rfl (by decide) rfl
  have ea : fld uw 13 5 = a := fld_at hu 3 rfl rfl
  have ed : fld uw 7 5 = d := fld_at hu 1 rfl rfl
  rw [decodeWord_0f f0]
  unfold decodeMajor0f
  rw [if_neg (fun h => absurd (f1.symm.trans h.2.2) (by decide)), if_neg (fun h => absurd (f2.symm.trans h.2.2) (by decide)), if_neg (fun h => absurd (f3.symm.trans h.2) (by decide)), if_neg (fun h => absurd (f3.symm.trans h.2) (by decide)), if_pos ⟨f4, f3⟩, ea, ed]

theorem word_knot (a : BitVec 5) (d : BitVec 5) : WordOf (.knot a d) (encodeWord (.knot a d)) := by
  have hp : encodeWord (.knot a d) = packBits [(7, 31), (5, d.toNat), (1, 0), (5, a.toNat), (14, 640)] := by
    have := a.isLt; have := d.isLt
    change 167772191 + a.toNat * 8192 + d.toNat * 128 = _; simp only [packBits]; omega
  obtain ⟨uw, hu⟩ : ∃ uw, uw = packBits [(7, 31), (5, d.toNat), (1, 0), (5, a.toNat), (14, 640)] := ⟨_, rfl⟩
  rw [hp, ← hu]
  refine ⟨bits_at hu 0 0 rfl rfl (by decide) rfl, hu ▸ packBits_lt _, ?_⟩
  have f0 : bitsOf uw 1 6 = 15 := bits_at hu 0 1 rfl rfl (by decide) rfl
  have f1 : bitsOf uw 24 6 = 10 := bits_at hu 4 6 rfl rfl (by decide) rfl
  have f2 : bitsOf uw 24 8 = 10 := bits_at hu 4 6 rfl rfl (by decide) rfl
  have f3 : bitsOf uw 18 14 = 640 := bits_at hu 4 0 rfl rfl (by decide) rfl
  have f4 : bitsOf uw 12 1 = 0 := bits_at hu 2 0 rfl rfl (by decide) rfl
  have ea : fld uw 13 5 = a := fld_at hu 3 rfl rfl
  have ed : fld uw 7 5 = d := fld_at hu 1 rfl rfl
  rw [decodeWord_0f f0]
  unfold decodeMajor0f
  rw [if_neg (fun h => absurd (f1.symm.trans h.2.2) (by decide)), if_neg (fun h => absurd (f2.symm.trans h.2.2) (by decide)), if_neg (fun h => absurd (f3.symm.trans h.2) (by decide)), if_neg (fun h => absurd (f3.symm.trans h.2) (by decide)), if_neg (fun h => absurd (f3.symm.trans h.2) (by decide)), if_pos ⟨f4, f3⟩, ea, ed]

theorem word_kabs (a : BitVec 5) (d : BitVec 5) : WordOf (.kabs a d) (encodeWord (.kabs a d)) := by
  have hp : encodeWord (.kabs a d) = packBits [(7, 31), (5, d.toNat), (1, 0), (5, a.toNat), (14, 768)] := by
    have := a.isLt; have := d.isLt
    change 201326623 + a.toNat * 8192 + d.toNat * 128 = _; simp only [packBits]; omega
  obtain ⟨uw, hu⟩ : ∃ uw, uw = packBits [(7, 31), (5, d.toNat), (1, 0), (5, a.toNat), (14, 768)] := ⟨_, rfl⟩
  rw [hp, ← hu]
  refine ⟨bits_at hu 0 0 rfl rfl (by decide) rfl, hu ▸ packBits_lt _, ?_⟩
  have f0 : bitsOf uw 1 6 = 15 := bits_at hu 0 1 rfl rfl (by decide) rfl
  have f1 : bitsOf uw 24 6 = 12 := bits_at hu 4 6 rfl rfl (by decide) rfl
  have f2 : bitsOf uw 24 8 = 12 := bits_at hu 4 6 rfl rfl (by decide) rfl
  have f3 : bitsOf uw 18 14 = 768 := bits_at hu 4 0 rfl rfl (by decide) rfl
  have f4 : bitsOf uw 12 1 = 0 := bits_at hu 2 0 rfl rfl (by decide) rfl
  have ea : fld uw 13 5 = a := fld_at hu 3 rfl rfl
  have ed : fld uw 7 5 = d := fld_at hu 1 rfl rfl
  rw [decodeWord_0f f0]
  unfold decodeMajor0f
  rw [if_neg (fun h => absurd (f1.symm.trans h.2.2) (by decide)), if_neg (fun h => absurd (f2.symm.trans h.2.2) (by decide)), if_neg (fun h => absurd (f3.symm.trans h.2) (by decide)), if_neg (fun h => absurd (f3.symm.trans h.2) (by decide)), if_neg (fun h => absurd (f3.symm.trans h.2) (by decide)), if_neg (fun h => absurd (f3.symm.trans h.2) (by decide)), if_pos ⟨f4, f3⟩, ea, ed]

theorem word_kmov (a : BitVec 5) (d : BitVec 5) : WordOf (.kmov a d) (encodeWord (.kmov a d)) := by
  have hp : encodeWord (.kmov a d) = packBits [(7, 31), (5, d.toNat), (1, 0), (5, a.toNat), (14, 896)] := by
    have := a.isLt; have := d.isLt
    change 234881055 + a.toNat * 8192 + d.toNat * 128 = _; simp only [packBits]; omega
  obtain ⟨uw, hu⟩ : ∃ uw, uw = packBits [(7, 31), (5, d.toNat), (1, 0), (5, a.toNat), (14, 896)] := ⟨_, rfl⟩
  rw [hp, ← hu]
  refine ⟨bits_at hu 0 0 rfl rfl (by decide) rfl, hu ▸ packBits_lt _, ?_⟩
  have f0 : bitsOf uw 1 6 = 15 := bits_at hu 0 1 rfl rfl (by decide) rfl
  have f1 : bitsOf uw 24 6 = 14 := bits_at hu 4 6 rfl rfl (by decide) rfl
  have f2 : bitsOf uw 24 8 = 14 := bits_at hu 4 6 rfl rfl (by decide) rfl
  have f3 : bitsOf uw 18 14 = 896 := bits_at hu 4 0 rfl rfl (by decide) rfl
  have f4 : bitsOf uw 12 1 = 0 := bits_at hu 2 0 rfl rfl (by decide) rfl
  have ea : fld uw 13 5 = a := fld_at hu 3 rfl rfl
  have ed : fld uw 7 5 = d := fld_at hu 1 rfl rfl
  rw [decodeWord_0f f0]
  unfold decodeMajor0f
  rw [if_neg (fun h => absurd (f1.symm.trans h.2.2) (by decide)), if_neg (fun h => absurd (f2.symm.trans h.2.2) (by decide)), if_neg (fun h => absurd (f3.symm.trans h.2) (by decide)), if_neg (fun h => absurd (f3.symm.trans h.2) (by decide)), if_neg (fun h => absurd (f3.symm.trans h.2) (by decide)), if_neg (fun h => absurd (f3.symm.trans h.2) (by decide)), if_neg (fun h => absurd (f3.symm.trans h.2) (by decide)), if_pos ⟨f4, f3⟩, ea, ed]

theorem word_fadd (m : BitVec 2) (y : BitVec 1) (x : BitVec 1) (b : BitVec 6) (a : BitVec 6) (d : BitVec 6) : WordOf (.fadd m y x b a d) (encodeWord (.fadd m y x b a d)) := by
  have hp : encodeWord (.fadd m y x b a d) = packBits [(7, 33), (6, d.toNat), (6, a.toNat), (6, b.toNat), (3, 0), (1, x.toNat), (1, y.toNat), (2, m.toNat)] := by
    have := m.isLt; have := y.isLt; have := x.isLt; have := b.isLt; have := a.isLt; have := d.isLt
    change 33 + m.toNat * 1073741824 + y.toNat * 536870912 + x.toNat * 268435456 + b.toNat * 524288 + a.toNat * 8192 + d.toNat * 128 = _; simp only [packBits]; omega
  obtain ⟨uw, hu⟩ : ∃ uw, uw = packBits [(7, 33), (6, d.toNat), (6, a.toNat), (6, b.toNat), (3, 0), (1, x.toNat), (1, y.toNat), (2, m.toNat)] := ⟨_, rfl⟩
  rw [hp, ← hu]
  refine ⟨bits_at hu 0 0 rfl rfl (by decide) rfl, hu ▸ packBits_lt _, ?_⟩
  have f0 : bitsOf uw 1 6 = 16 := bits_at hu 0 1 rfl rfl (by decide) rfl
  have f1 : bitsOf uw 25 3 = 0 := bits_at hu 4 0 rfl rfl (by decide) rfl
  have em : fld uw 30 2 = m := fld_at hu 7 rfl rfl
  have ey : fld uw 29 1 = y := fld_at hu 6 rfl rfl
  have ex : fld uw 28 1 = x := fld_at hu 5 rfl rfl
  have eb : fld uw 19 6 = b := fld_at hu 3 rfl rfl
  have ea : fld uw 13 6 = a := fld_at hu 2 rfl rfl
  have ed : fld uw 7 6 = d := fld_at hu 1 rfl rfl
  rw [decodeWord_10 f0]
  unfold decodeMajor10
  rw [if_pos f1, em, ey, ex, eb, ea, ed]

theorem word_fsub (m : BitVec 2) (y : BitVec 1) (x : BitVec 1) (b : BitVec 6) (a : BitVec 6) (d : BitVec 6) : WordOf (.fsub m y x b a d) (encodeWord (.fsub m y x b a d)) := by
  have hp : encodeWord (.fsub m y x b a d) = packBits [(7, 33), (6, d.toNat), (6, a.toNat), (6, b.toNat), (3, 1), (1, x.toNat), (1, y.toNat), (2, m.toNat)] := by
    have := m.isLt; have := y.isLt; have := x.isLt; have := b.isLt; have := a.isLt; have := d.isLt
    change 33554465 + m.toNat * 1073741824 + y.toNat * 536870912 + x.toNat * 268435456 + b.toNat * 524288 + a.toNat * 8192 + d.toNat * 128 = _; simp only [packBits]; omega
  obtain ⟨uw, hu⟩ : ∃ uw, uw = packBits [(7, 33), (6, d.toNat), (6, a.toNat), (6, b.toNat), (3, 1), (1, x.toNat), (1, y.toNat), (2, m.toNat)] := ⟨_, rfl⟩
  rw [hp, ← hu]
  refine ⟨bits_at hu 0 0 rfl rfl (by decide) rfl, hu ▸ packBits_lt _, ?_⟩
  have f0 : bitsOf uw 1 6 = 16 := bits_at hu 0 1 rfl rfl (by decide) rfl
  have f1 : bitsOf uw 25 3 = 1 := bits_at hu 4 0 rfl rfl (by decide) rfl
  have em : fld uw 30 2 = m := fld_at hu 7 rfl rfl
  have ey : fld uw 29 1 = y := fld_at hu 6 rfl rfl
  have ex : fld uw 28 1 = x := fld_at hu 5 rfl rfl
  have eb : fld uw 19 6 = b := fld_at hu 3 rfl rfl
  have ea : fld uw 13 6 = a := fld_at hu 2 rfl rfl
  have ed : fld uw 7 6 = d := fld_at hu 1 rfl rfl
  rw [decodeWord_10 f0]
  unfold decodeMajor10
  rw [if_neg (fun h => absurd (f1.symm.trans h) (by decide)), if_pos f1, em, ey, ex, eb, ea, ed]

theorem word_fmul (m : BitVec 2) (y : BitVec 1) (x : BitVec 1) (b : BitVec 6) (a : BitVec 6) (d : BitVec 6) : WordOf (.fmul m y x b a d) (encodeWord (.fmul m y x b a d)) := by
  have hp : encodeWord (.fmul m y x b a d) = packBits [(7, 33), (6, d.toNat), (6, a.toNat), (6, b.toNat), (3, 2), (1, x.toNat), (1, y.toNat), (2, m.toNat)] := by
    have := m.isLt; have := y.isLt; have := x.isLt; have := b.isLt; have := a.isLt; have := d.isLt
    change 67108897 + m.toNat * 1073741824 + y.toNat * 536870912 + x.toNat * 268435456 + b.toNat * 524288 + a.toNat * 8192 + d.toNat * 128 = _; simp only [packBits]; omega
  obtain ⟨uw, hu⟩ : ∃ uw, uw = packBits [(7, 33), (6, d.toNat), (6, a.toNat), (6, b.toNat), (3, 2), (1, x.toNat), (1, y.toNat), (2, m.toNat)] := ⟨_, rfl⟩
  rw [hp, ← hu]
  refine ⟨bits_at hu 0 0 rfl rfl (by decide) rfl, hu ▸ packBits_lt _, ?_⟩
  have f0 : bitsOf uw 1 6 = 16 := bits_at hu 0 1 rfl rfl (by decide) rfl
  have f1 : bitsOf uw 25 3 = 2 := bits_at hu 4 0 rfl rfl (by decide) rfl
  have em : fld uw 30 2 = m := fld_at hu 7 rfl rfl
  have ey : fld uw 29 1 = y := fld_at hu 6 rfl rfl
  have ex : fld uw 28 1 = x := fld_at hu 5 rfl rfl
  have eb : fld uw 19 6 = b := fld_at hu 3 rfl rfl
  have ea : fld uw 13 6 = a := fld_at hu 2 rfl rfl
  have ed : fld uw 7 6 = d := fld_at hu 1 rfl rfl
  rw [decodeWord_10 f0]
  unfold decodeMajor10
  rw [if_neg (fun h => absurd (f1.symm.trans h) (by decide)), if_neg (fun h => absurd (f1.symm.trans h) (by decide)), if_pos f1, em, ey, ex, eb, ea, ed]

theorem word_fma (m : BitVec 2) (y : BitVec 1) (x : BitVec 1) (b : BitVec 6) (a : BitVec 6) (d : BitVec 6) : WordOf (.fma m y x b a d) (encodeWord (.fma m y x b a d)) := by
  have hp : encodeWord (.fma m y x b a d) = packBits [(7, 33), (6, d.toNat), (6, a.toNat), (6, b.toNat), (3, 3), (1, x.toNat), (1, y.toNat), (2, m.toNat)] := by
    have := m.isLt; have := y.isLt; have := x.isLt; have := b.isLt; have := a.isLt; have := d.isLt
    change 100663329 + m.toNat * 1073741824 + y.toNat * 536870912 + x.toNat * 268435456 + b.toNat * 524288 + a.toNat * 8192 + d.toNat * 128 = _; simp only [packBits]; omega
  obtain ⟨uw, hu⟩ : ∃ uw, uw = packBits [(7, 33), (6, d.toNat), (6, a.toNat), (6, b.toNat), (3, 3), (1, x.toNat), (1, y.toNat), (2, m.toNat)] := ⟨_, rfl⟩
  rw [hp, ← hu]
  refine ⟨bits_at hu 0 0 rfl rfl (by decide) rfl, hu ▸ packBits_lt _, ?_⟩
  have f0 : bitsOf uw 1 6 = 16 := bits_at hu 0 1 rfl rfl (by decide) rfl
  have f1 : bitsOf uw 25 3 = 3 := bits_at hu 4 0 rfl rfl (by decide) rfl
  have em : fld uw 30 2 = m := fld_at hu 7 rfl rfl
  have ey : fld uw 29 1 = y := fld_at hu 6 rfl rfl
  have ex : fld uw 28 1 = x := fld_at hu 5 rfl rfl
  have eb : fld uw 19 6 = b := fld_at hu 3 rfl rfl
  have ea : fld uw 13 6 = a := fld_at hu 2 rfl rfl
  have ed : fld uw 7 6 = d := fld_at hu 1 rfl rfl
  rw [decodeWord_10 f0]
  unfold decodeMajor10
  rw [if_neg (fun h => absurd (f1.symm.trans h) (by decide)), if_neg (fun h => absurd (f1.symm.trans h) (by decide)), if_neg (fun h => absurd (f1.symm.trans h) (by decide)), if_pos f1, em, ey, ex, eb, ea, ed]

theorem word_fmin (y : BitVec 1) (x : BitVec 1) (b : BitVec 6) (a : BitVec 6) (d : BitVec 6) : WordOf (.fmin y x b a d) (encodeWord (.fmin y x b a d)) := by
  have hp : encodeWord (.fmin y x b a d) = packBits [(7, 33), (6, d.toNat), (6, a.toNat), (6, b.toNat), (3, 4), (1, x.toNat), (1, y.toNat), (2, 0)] := by
    have := y.isLt; have := x.isLt; have := b.isLt; have := a.isLt; have := d.isLt
    change 134217761 + y.toNat * 536870912 + x.toNat * 268435456 + b.toNat * 524288 + a.toNat * 8192 + d.toNat * 128 = _; simp only [packBits]; omega
  obtain ⟨uw, hu⟩ : ∃ uw, uw = packBits [(7, 33), (6, d.toNat), (6, a.toNat), (6, b.toNat), (3, 4), (1, x.toNat), (1, y.toNat), (2, 0)] := ⟨_, rfl⟩
  rw [hp, ← hu]
  refine ⟨bits_at hu 0 0 rfl rfl (by decide) rfl, hu ▸ packBits_lt _, ?_⟩
  have f0 : bitsOf uw 1 6 = 16 := bits_at hu 0 1 rfl rfl (by decide) rfl
  have f1 : bitsOf uw 25 3 = 4 := bits_at hu 4 0 rfl rfl (by decide) rfl
  have f2 : bitsOf uw 30 2 = 0 := bits_at hu 7 0 rfl rfl (by decide) rfl
  have ey : fld uw 29 1 = y := fld_at hu 6 rfl rfl
  have ex : fld uw 28 1 = x := fld_at hu 5 rfl rfl
  have eb : fld uw 19 6 = b := fld_at hu 3 rfl rfl
  have ea : fld uw 13 6 = a := fld_at hu 2 rfl rfl
  have ed : fld uw 7 6 = d := fld_at hu 1 rfl rfl
  rw [decodeWord_10 f0]
  unfold decodeMajor10
  rw [if_neg (fun h => absurd (f1.symm.trans h) (by decide)), if_neg (fun h => absurd (f1.symm.trans h) (by decide)), if_neg (fun h => absurd (f1.symm.trans h) (by decide)), if_neg (fun h => absurd (f1.symm.trans h) (by decide)), if_pos ⟨f1, f2⟩, ey, ex, eb, ea, ed]

theorem word_fmax (y : BitVec 1) (x : BitVec 1) (b : BitVec 6) (a : BitVec 6) (d : BitVec 6) : WordOf (.fmax y x b a d) (encodeWord (.fmax y x b a d)) := by
  have hp : encodeWord (.fmax y x b a d) = packBits [(7, 33), (6, d.toNat), (6, a.toNat), (6, b.toNat), (3, 5), (1, x.toNat), (1, y.toNat), (2, 0)] := by
    have := y.isLt; have := x.isLt; have := b.isLt; have := a.isLt; have := d.isLt
    change 167772193 + y.toNat * 536870912 + x.toNat * 268435456 + b.toNat * 524288 + a.toNat * 8192 + d.toNat * 128 = _; simp only [packBits]; omega
  obtain ⟨uw, hu⟩ : ∃ uw, uw = packBits [(7, 33), (6, d.toNat), (6, a.toNat), (6, b.toNat), (3, 5), (1, x.toNat), (1, y.toNat), (2, 0)] := ⟨_, rfl⟩
  rw [hp, ← hu]
  refine ⟨bits_at hu 0 0 rfl rfl (by decide) rfl, hu ▸ packBits_lt _, ?_⟩
  have f0 : bitsOf uw 1 6 = 16 := bits_at hu 0 1 rfl rfl (by decide) rfl
  have f1 : bitsOf uw 25 3 = 5 := bits_at hu 4 0 rfl rfl (by decide) rfl
  have f2 : bitsOf uw 30 2 = 0 := bits_at hu 7 0 rfl rfl (by decide) rfl
  have ey : fld uw 29 1 = y := fld_at hu 6 rfl rfl
  have ex : fld uw 28 1 = x := fld_at hu 5 rfl rfl
  have eb : fld uw 19 6 = b := fld_at hu 3 rfl rfl
  have ea : fld uw 13 6 = a := fld_at hu 2 rfl rfl
  have ed : fld uw 7 6 = d := fld_at hu 1 rfl rfl
  rw [decodeWord_10 f0]
  unfold decodeMajor10
  rw [if_neg (fun h => absurd (f1.symm.trans h) (by decide)), if_neg (fun h => absurd (f1.symm.trans h) (by decide)), if_neg (fun h => absurd (f1.symm.trans h) (by decide)), if_neg (fun h => absurd (f1.symm.trans h) (by decide)), if_neg (fun h => absurd (f1.symm.trans h.1) (by decide)), if_pos ⟨f1, f2⟩, ey, ex, eb, ea, ed]

theorem word_faddBf16x2 (m : BitVec 2) (y : BitVec 1) (x : BitVec 1) (b : BitVec 6) (a : BitVec 6) (d : BitVec 6) : WordOf (.faddBf16x2 m y x b a d) (encodeWord (.faddBf16x2 m y x b a d)) := by
  have hp : encodeWord (.faddBf16x2 m y x b a d) = packBits [(7, 35), (6, d.toNat), (6, a.toNat), (6, b.toNat), (3, 0), (1, x.toNat), (1, y.toNat), (2, m.toNat)] := by
    have := m.isLt; have := y.isLt; have := x.isLt; have := b.isLt; have := a.isLt; have := d.isLt
    change 35 + m.toNat * 1073741824 + y.toNat * 536870912 + x.toNat * 268435456 + b.toNat * 524288 + a.toNat * 8192 + d.toNat * 128 = _; simp only [packBits]; omega
  obtain ⟨uw, hu⟩ : ∃ uw, uw = packBits [(7, 35), (6, d.toNat), (6, a.toNat), (6, b.toNat), (3, 0), (1, x.toNat), (1, y.toNat), (2, m.toNat)] := ⟨_, rfl⟩
  rw [hp, ← hu]
  refine ⟨bits_at hu 0 0 rfl rfl (by decide) rfl, hu ▸ packBits_lt _, ?_⟩
  have f0 : bitsOf uw 1 6 = 17 := bits_at hu 0 1 rfl rfl (by decide) rfl
  have f1 : bitsOf uw 25 3 = 0 := bits_at hu 4 0 rfl rfl (by decide) rfl
  have em : fld uw 30 2 = m := fld_at hu 7 rfl rfl
  have ey : fld uw 29 1 = y := fld_at hu 6 rfl rfl
  have ex : fld uw 28 1 = x := fld_at hu 5 rfl rfl
  have eb : fld uw 19 6 = b := fld_at hu 3 rfl rfl
  have ea : fld uw 13 6 = a := fld_at hu 2 rfl rfl
  have ed : fld uw 7 6 = d := fld_at hu 1 rfl rfl
  rw [decodeWord_11 f0]
  unfold decodeMajor11
  rw [if_pos f1, em, ey, ex, eb, ea, ed]

theorem word_fmulBf16x2 (m : BitVec 2) (y : BitVec 1) (x : BitVec 1) (b : BitVec 6) (a : BitVec 6) (d : BitVec 6) : WordOf (.fmulBf16x2 m y x b a d) (encodeWord (.fmulBf16x2 m y x b a d)) := by
  have hp : encodeWord (.fmulBf16x2 m y x b a d) = packBits [(7, 35), (6, d.toNat), (6, a.toNat), (6, b.toNat), (3, 1), (1, x.toNat), (1, y.toNat), (2, m.toNat)] := by
    have := m.isLt; have := y.isLt; have := x.isLt; have := b.isLt; have := a.isLt; have := d.isLt
    change 33554467 + m.toNat * 1073741824 + y.toNat * 536870912 + x.toNat * 268435456 + b.toNat * 524288 + a.toNat * 8192 + d.toNat * 128 = _; simp only [packBits]; omega
  obtain ⟨uw, hu⟩ : ∃ uw, uw = packBits [(7, 35), (6, d.toNat), (6, a.toNat), (6, b.toNat), (3, 1), (1, x.toNat), (1, y.toNat), (2, m.toNat)] := ⟨_, rfl⟩
  rw [hp, ← hu]
  refine ⟨bits_at hu 0 0 rfl rfl (by decide) rfl, hu ▸ packBits_lt _, ?_⟩
  have f0 : bitsOf uw 1 6 = 17 := bits_at hu 0 1 rfl rfl (by decide) rfl
  have f1 : bitsOf uw 25 3 = 1 := bits_at hu 4 0 rfl rfl (by decide) rfl
  have em : fld uw 30 2 = m := fld_at hu 7 rfl rfl
  have ey : fld uw 29 1 = y := fld_at hu 6 rfl rfl
  have ex : fld uw 28 1 = x := fld_at hu 5 rfl rfl
  have eb : fld uw 19 6 = b := fld_at hu 3 rfl rfl
  have ea : fld uw 13 6 = a := fld_at hu 2 rfl rfl
  have ed : fld uw 7 6 = d := fld_at hu 1 rfl rfl
  rw [decodeWord_11 f0]
  unfold decodeMajor11
  rw [if_neg (fun h => absurd (f1.symm.trans h) (by decide)), if_pos f1, em, ey, ex, eb, ea, ed]

theorem word_fmaBf16x2 (m : BitVec 2) (y : BitVec 1) (x : BitVec 1) (b : BitVec 6) (a : BitVec 6) (d : BitVec 6) : WordOf (.fmaBf16x2 m y x b a d) (encodeWord (.fmaBf16x2 m y x b a d)) := by
  have hp : encodeWord (.fmaBf16x2 m y x b a d) = packBits [(7, 35), (6, d.toNat), (6, a.toNat), (6, b.toNat), (3, 2), (1, x.toNat), (1, y.toNat), (2, m.toNat)] := by
    have := m.isLt; have := y.isLt; have := x.isLt; have := b.isLt; have := a.isLt; have := d.isLt
    change 67108899 + m.toNat * 1073741824 + y.toNat * 536870912 + x.toNat * 268435456 + b.toNat * 524288 + a.toNat * 8192 + d.toNat * 128 = _; simp only [packBits]; omega
  obtain ⟨uw, hu⟩ : ∃ uw, uw = packBits [(7, 35), (6, d.toNat), (6, a.toNat), (6, b.toNat), (3, 2), (1, x.toNat), (1, y.toNat), (2, m.toNat)] := ⟨_, rfl⟩
  rw [hp, ← hu]
  refine ⟨bits_at hu 0 0 rfl rfl (by decide) rfl, hu ▸ packBits_lt _, ?_⟩
  have f0 : bitsOf uw 1 6 = 17 := bits_at hu 0 1 rfl rfl (by decide) rfl
  have f1 : bitsOf uw 25 3 = 2 := bits_at hu 4 0 rfl rfl (by decide) rfl
  have em : fld uw 30 2 = m := fld_at hu 7 rfl rfl
  have ey : fld uw 29 1 = y := fld_at hu 6 rfl rfl
  have ex : fld uw 28 1 = x := fld_at hu 5 rfl rfl
  have eb : fld uw 19 6 = b := fld_at hu 3 rfl rfl
  have ea : fld uw 13 6 = a := fld_at hu 2 rfl rfl
  have ed : fld uw 7 6 = d := fld_at hu 1 rfl rfl
  rw [decodeWord_11 f0]
  unfold decodeMajor11
  rw [if_neg (fun h => absurd (f1.symm.trans h) (by decide)), if_neg (fun h => absurd (f1.symm.trans h) (by decide)), if_pos f1, em, ey, ex, eb, ea, ed]

theorem word_fminBf16x2 (y : BitVec 1) (x : BitVec 1) (b : BitVec 6) (a : BitVec 6) (d : BitVec 6) : WordOf (.fminBf16x2 y x b a d) (encodeWord (.fminBf16x2 y x b a d)) := by
  have hp : encodeWord (.fminBf16x2 y x b a d) = packBits [(7, 35), (6, d.toNat), (6, a.toNat), (6, b.toNat), (3, 3), (1, x.toNat), (1, y.toNat), (2, 0)] := by
    have := y.isLt; have := x.isLt; have := b.isLt; have := a.isLt; have := d.isLt
    change 100663331 + y.toNat * 536870912 + x.toNat * 268435456 + b.toNat * 524288 + a.toNat * 8192 + d.toNat * 128 = _; simp only [packBits]; omega
  obtain ⟨uw, hu⟩ : ∃ uw, uw = packBits [(7, 35), (6, d.toNat), (6, a.toNat), (6, b.toNat), (3, 3), (1, x.toNat), (1, y.toNat), (2, 0)] := ⟨_, rfl⟩
  rw [hp, ← hu]
  refine ⟨bits_at hu 0 0 rfl rfl (by decide) rfl, hu ▸ packBits_lt _, ?_⟩
  have f0 : bitsOf uw 1 6 = 17 := bits_at hu 0 1 rfl rfl (by decide) rfl
  have f1 : bitsOf uw 25 3 = 3 := bits_at hu 4 0 rfl rfl (by decide) rfl
  have f2 : bitsOf uw 30 2 = 0 := bits_at hu 7 0 rfl rfl (by decide) rfl
  have ey : fld uw 29 1 = y := fld_at hu 6 rfl rfl
  have ex : fld uw 28 1 = x := fld_at hu 5 rfl rfl
  have eb : fld uw 19 6 = b := fld_at hu 3 rfl rfl
  have ea : fld uw 13 6 = a := fld_at hu 2 rfl rfl
  have ed : fld uw 7 6 = d := fld_at hu 1 rfl rfl
  rw [decodeWord_11 f0]
  unfold decodeMajor11
  rw [if_neg (fun h => absurd (f1.symm.trans h) (by decide)), if_neg (fun h => absurd (f1.symm.trans h) (by decide)), if_neg (fun h => absurd (f1.symm.trans h) (by decide)), if_pos ⟨f1, f2⟩, ey, ex, eb, ea, ed]

theorem word_fmaxBf16x2 (y : BitVec 1) (x : BitVec 1) (b : BitVec 6) (a : BitVec 6) (d : BitVec 6) : WordOf (.fmaxBf16x2 y x b a d) (encodeWord (.fmaxBf16x2 y x b a d)) := by
  have hp : encodeWord (.fmaxBf16x2 y x b a d) = packBits [(7, 35), (6, d.toNat), (6, a.toNat), (6, b.toNat), (3, 4), (1, x.toNat), (1, y.toNat), (2, 0)] := by
    have := y.isLt; have := x.isLt; have := b.isLt; have := a.isLt; have := d.isLt
    change 134217763 + y.toNat * 536870912 + x.toNat * 268435456 + b.toNat * 524288 + a.toNat * 8192 + d.toNat * 128 = _; simp only [packBits]; omega
  obtain ⟨uw, hu⟩ : ∃ uw, uw = packBits [(7, 35), (6, d.toNat), (6, a.toNat), (6, b.toNat), (3, 4), (1, x.toNat), (1, y.toNat), (2, 0)] := ⟨_, rfl⟩
  rw [hp, ← hu]
  refine ⟨bits_at hu 0 0 rfl rfl (by decide) rfl, hu ▸ packBits_lt _, ?_⟩
  have f0 : bitsOf uw 1 6 = 17 := bits_at hu 0 1 rfl rfl (by decide) rfl
  have f1 : bitsOf uw 25 3 = 4 := bits_at hu 4 0 rfl rfl (by decide) rfl
  have f2 : bitsOf uw 30 2 = 0 := bits_at hu 7 0 rfl rfl (by decide) rfl
  have ey : fld uw 29 1 = y := fld_at hu 6 rfl rfl
  have ex : fld uw 28 1 = x := fld_at hu 5 rfl rfl
  have eb : fld uw 19 6 = b := fld_at hu 3 rfl rfl
  have ea : fld uw 13 6 = a := fld_at hu 2 rfl rfl
  have ed : fld uw 7 6 = d := fld_at hu 1 rfl rfl
  rw [decodeWord_11 f0]
  unfold decodeMajor11
  rw [if_neg (fun h => absurd (f1.symm.trans h) (by decide)), if_neg (fun h => absurd (f1.symm.trans h) (by decide)), if_neg (fun h => absurd (f1.symm.trans h) (by decide)), if_neg (fun h => absurd (f1.symm.trans h.1) (by decide)), if_pos ⟨f1, f2⟩, ey, ex, eb, ea, ed]

theorem word_faddF16x2 (m : BitVec 2) (y : BitVec 1) (x : BitVec 1) (b : BitVec 6) (a : BitVec 6) (d : BitVec 6) : WordOf (.faddF16x2 m y x b a d) (encodeWord (.faddF16x2 m y x b a d)) := by
  have hp : encodeWord (.faddF16x2 m y x b a d) = packBits [(7, 37), (6, d.toNat), (6, a.toNat), (6, b.toNat), (3, 0), (1, x.toNat), (1, y.toNat), (2, m.toNat)] := by
    have := m.isLt; have := y.isLt; have := x.isLt; have := b.isLt; have := a.isLt; have := d.isLt
    change 37 + m.toNat * 1073741824 + y.toNat * 536870912 + x.toNat * 268435456 + b.toNat * 524288 + a.toNat * 8192 + d.toNat * 128 = _; simp only [packBits]; omega
  obtain ⟨uw, hu⟩ : ∃ uw, uw = packBits [(7, 37), (6, d.toNat), (6, a.toNat), (6, b.toNat), (3, 0), (1, x.toNat), (1, y.toNat), (2, m.toNat)] := ⟨_, rfl⟩
  rw [hp, ← hu]
  refine ⟨bits_at hu 0 0 rfl rfl (by decide) rfl, hu ▸ packBits_lt _, ?_⟩
  have f0 : bitsOf uw 1 6 = 18 := bits_at hu 0 1 rfl rfl (by decide) rfl
  have f1 : bitsOf uw 25 3 = 0 := bits_at hu 4 0 rfl rfl (by decide) rfl
  have em : fld uw 30 2 = m := fld_at hu 7 rfl rfl
  have ey : fld uw 29 1 = y := fld_at hu 6 rfl rfl
  have ex : fld uw 28 1 = x := fld_at hu 5 rfl rfl
  have eb : fld uw 19 6 = b := fld_at hu 3 rfl rfl
  have ea : fld uw 13 6 = a := fld_at hu 2 rfl rfl
  have ed : fld uw 7 6 = d := fld_at hu 1 rfl rfl
  rw [decodeWord_12 f0]
  unfold decodeMajor12
  rw [if_pos f1, em, ey, ex, eb, ea, ed]

theorem word_fmulF16x2 (m : BitVec 2) (y : BitVec 1) (x : BitVec 1) (b : BitVec 6) (a : BitVec 6) (d : BitVec 6) : WordOf (.fmulF16x2 m y x b a d) (encodeWord (.fmulF16x2 m y x b a d)) := by
  have hp : encodeWord (.fmulF16x2 m y x b a d) = packBits [(7, 37), (6, d.toNat), (6, a.toNat), (6, b.toNat), (3, 1), (1, x.toNat), (1, y.toNat), (2, m.toNat)] := by
    have := m.isLt; have := y.isLt; have := x.isLt; have := b.isLt; have := a.isLt; have := d.isLt
    change 33554469 + m.toNat * 1073741824 + y.toNat * 536870912 + x.toNat * 268435456 + b.toNat * 524288 + a.toNat * 8192 + d.toNat * 128 = _; simp only [packBits]; omega
  obtain ⟨uw, hu⟩ : ∃ uw, uw = packBits [(7, 37), (6, d.toNat), (6, a.toNat), (6, b.toNat), (3, 1), (1, x.toNat), (1, y.toNat), (2, m.toNat)] := ⟨_, rfl⟩
  rw [hp, ← hu]
  refine ⟨bits_at hu 0 0 rfl rfl (by decide) rfl, hu ▸ packBits_lt _, ?_⟩
  have f0 : bitsOf uw 1 6 = 18 := bits_at hu 0 1 rfl rfl (by decide) rfl
  have f1 : bitsOf uw 25 3 = 1 := bits_at hu 4 0 rfl rfl (by decide) rfl
  have em : fld uw 30 2 = m := fld_at hu 7 rfl rfl
  have ey : fld uw 29 1 = y := fld_at hu 6 rfl rfl
  have ex : fld uw 28 1 = x := fld_at hu 5 rfl rfl
  have eb : fld uw 19 6 = b := fld_at hu 3 rfl rfl
  have ea : fld uw 13 6 = a := fld_at hu 2 rfl rfl
  have ed : fld uw 7 6 = d := fld_at hu 1 rfl rfl
  rw [decodeWord_12 f0]
  unfold decodeMajor12
  rw [if_neg (fun h => absurd (f1.symm.trans h) (by decide)), if_pos f1, em, ey, ex, eb, ea, ed]

theorem word_fmaF16x2 (m : BitVec 2) (y : BitVec 1) (x : BitVec 1) (b : BitVec 6) (a : BitVec 6) (d : BitVec 6) : WordOf (.fmaF16x2 m y x b a d) (encodeWord (.fmaF16x2 m y x b a d)) := by
  have hp : encodeWord (.fmaF16x2 m y x b a d) = packBits [(7, 37), (6, d.toNat), (6, a.toNat), (6, b.toNat), (3, 2), (1, x.toNat), (1, y.toNat), (2, m.toNat)] := by
    have := m.isLt; have := y.isLt; have := x.isLt; have := b.isLt; have := a.isLt; have := d.isLt
    change 67108901 + m.toNat * 1073741824 + y.toNat * 536870912 + x.toNat * 268435456 + b.toNat * 524288 + a.toNat * 8192 + d.toNat * 128 = _; simp only [packBits]; omega
  obtain ⟨uw, hu⟩ : ∃ uw, uw = packBits [(7, 37), (6, d.toNat), (6, a.toNat), (6, b.toNat), (3, 2), (1, x.toNat), (1, y.toNat), (2, m.toNat)] := ⟨_, rfl⟩
  rw [hp, ← hu]
  refine ⟨bits_at hu 0 0 rfl rfl (by decide) rfl, hu ▸ packBits_lt _, ?_⟩
  have f0 : bitsOf uw 1 6 = 18 := bits_at hu 0 1 rfl rfl (by decide) rfl
  have f1 : bitsOf uw 25 3 = 2 := bits_at hu 4 0 rfl rfl (by decide) rfl
  have em : fld uw 30 2 = m := fld_at hu 7 rfl rfl
  have ey : fld uw 29 1 = y := fld_at hu 6 rfl rfl
  have ex : fld uw 28 1 = x := fld_at hu 5 rfl rfl
  have eb : fld uw 19 6 = b := fld_at hu 3 rfl rfl
  have ea : fld uw 13 6 = a := fld_at hu 2 rfl rfl
  have ed : fld uw 7 6 = d := fld_at hu 1 rfl rfl
  rw [decodeWord_12 f0]
  unfold decodeMajor12
  rw [if_neg (fun h => absurd (f1.symm.trans h) (by decide)), if_neg (fun h => absurd (f1.symm.trans h) (by decide)), if_pos f1, em, ey, ex, eb, ea, ed]

theorem word_fminF16x2 (y : BitVec 1) (x : BitVec 1) (b : BitVec 6) (a : BitVec 6) (d : BitVec 6) : WordOf (.fminF16x2 y x b a d) (encodeWord (.fminF16x2 y x b a d)) := by
  have hp : encodeWord (.fminF16x2 y x b a d) = packBits [(7, 37), (6, d.toNat), (6, a.toNat), (6, b.toNat), (3, 3), (1, x.toNat), (1, y.toNat), (2, 0)] := by
    have := y.isLt; have := x.isLt; have := b.isLt; have := a.isLt; have := d.isLt
    change 100663333 + y.toNat * 536870912 + x.toNat * 268435456 + b.toNat * 524288 + a.toNat * 8192 + d.toNat * 128 = _; simp only [packBits]; omega
  obtain ⟨uw, hu⟩ : ∃ uw, uw = packBits [(7, 37), (6, d.toNat), (6, a.toNat), (6, b.toNat), (3, 3), (1, x.toNat), (1, y.toNat), (2, 0)] := ⟨_, rfl⟩
  rw [hp, ← hu]
  refine ⟨bits_at hu 0 0 rfl rfl (by decide) rfl, hu ▸ packBits_lt _, ?_⟩
  have f0 : bitsOf uw 1 6 = 18 := bits_at hu 0 1 rfl rfl (by decide) rfl
  have f1 : bitsOf uw 25 3 = 3 := bits_at hu 4 0 rfl rfl (by decide) rfl
  have f2 : bitsOf uw 30 2 = 0 := bits_at hu 7 0 rfl rfl (by decide) rfl
  have ey : fld uw 29 1 = y := fld_at hu 6 rfl rfl
  have ex : fld uw 28 1 = x := fld_at hu 5 rfl rfl
  have eb : fld uw 19 6 = b := fld_at hu 3 rfl rfl
  have ea : fld uw 13 6 = a := fld_at hu 2 rfl rfl
  have ed : fld uw 7 6 = d := fld_at hu 1 rfl rfl
  rw [decodeWord_12 f0]
  unfold decodeMajor12
  rw [if_neg (fun h => absurd (f1.symm.trans h) (by decide)), if_neg (fun h => absurd (f1.symm.trans h) (by decide)), if_neg (fun h => absurd (f1.symm.trans h) (by decide)), if_pos ⟨f1, f2⟩, ey, ex, eb, ea, ed]

theorem word_fmaxF16x2 (y : BitVec 1) (x : BitVec 1) (b : BitVec 6) (a : BitVec 6) (d : BitVec 6) : WordOf (.fmaxF16x2 y x b a d) (encodeWord (.fmaxF16x2 y x b a d)) := by
  have hp : encodeWord (.fmaxF16x2 y x b a d) = packBits [(7, 37), (6, d.toNat), (6, a.toNat), (6, b.toNat), (3, 4), (1, x.toNat), (1, y.toNat), (2, 0)] := by
    have := y.isLt; have := x.isLt; have := b.isLt; have := a.isLt; have := d.isLt
    change 134217765 + y.toNat * 536870912 + x.toNat * 268435456 + b.toNat * 524288 + a.toNat * 8192 + d.toNat * 128 = _; simp only [packBits]; omega
  obtain ⟨uw, hu⟩ : ∃ uw, uw = packBits [(7, 37), (6, d.toNat), (6, a.toNat), (6, b.toNat), (3, 4), (1, x.toNat), (1, y.toNat), (2, 0)] := ⟨_, rfl⟩
  rw [hp, ← hu]
  refine ⟨bits_at hu 0 0 rfl rfl (by decide) rfl, hu ▸ packBits_lt _, ?_⟩
  have f0 : bitsOf uw 1 6 = 18 := bits_at hu 0 1 rfl rfl (by decide) rfl
  have f1 : bitsOf uw 25 3 = 4 := bits_at hu 4 0 rfl rfl (by decide) rfl
  have f2 : bitsOf uw 30 2 = 0 := bits_at hu 7 0 rfl rfl (by decide) rfl
  have ey : fld uw 29 1 = y := fld_at hu 6 rfl rfl
  have ex : fld uw 28 1 = x := fld_at hu 5 rfl rfl
  have eb : fld uw 19 6 = b := fld_at hu 3 rfl rfl
  have ea : fld uw 13 6 = a := fld_at hu 2 rfl rfl
  have ed : fld uw 7 6 = d := fld_at hu 1 rfl rfl
  rw [decodeWord_12 f0]
  unfold decodeMajor12
  rw [if_neg (fun h => absurd (f1.symm.trans h) (by decide)), if_neg (fun h => absurd (f1.symm.trans h) (by decide)), if_neg (fun h => absurd (f1.symm.trans h) (by decide)), if_neg (fun h => absurd (f1.symm.trans h.1) (by decide)), if_pos ⟨f1, f2⟩, ey, ex, eb, ea, ed]

theorem word_rcp (x : BitVec 1) (a : BitVec 6) (d : BitVec 6) : WordOf (.rcp x a d) (encodeWord (.rcp x a d)) := by
  have hp : encodeWord (.rcp x a d) = packBits [(7, 39), (6, d.toNat), (6, a.toNat), (9, 0), (1, x.toNat), (3, 0)] := by
    have := x.isLt; have := a.isLt; have := d.isLt
    change 39 + x.toNat * 268435456 + a.toNat * 8192 + d.toNat * 128 = _; simp only [packBits]; omega
  obtain ⟨uw, hu⟩ : ∃ uw, uw = packBits [(7, 39), (6, d.toNat), (6, a.toNat), (9, 0), (1, x.toNat), (3, 0)] := ⟨_, rfl⟩
  rw [hp, ← hu]
  refine ⟨bits_at hu 0 0 rfl rfl (by decide) rfl, hu ▸ packBits_lt _, ?_⟩
  have f0 : bitsOf uw 1 6 = 19 := bits_at hu 0 1 rfl rfl (by decide) rfl
  have f1 : bitsOf uw 19 9 = 0 := bits_at hu 3 0 rfl rfl (by decide) rfl
  have f2 : bitsOf uw 29 3 = 0 := bits_at hu 5 0 rfl rfl (by decide) rfl
  have ex : fld uw 28 1 = x := fld_at hu 4 rfl rfl
  have ea : fld uw 13 6 = a := fld_at hu 2 rfl rfl
  have ed : fld uw 7 6 = d := fld_at hu 1 rfl rfl
  rw [decodeWord_13 f0]
  unfold decodeMajor13
  rw [if_pos ⟨f1, f2⟩, ex, ea, ed]

theorem word_rsqrt (x : BitVec 1) (a : BitVec 6) (d : BitVec 6) : WordOf (.rsqrt x a d) (encodeWord (.rsqrt x a d)) := by
  have hp : encodeWord (.rsqrt x a d) = packBits [(7, 39), (6, d.toNat), (6, a.toNat), (9, 64), (1, x.toNat), (3, 0)] := by
    have := x.isLt; have := a.isLt; have := d.isLt
    change 33554471 + x.toNat * 268435456 + a.toNat * 8192 + d.toNat * 128 = _; simp only [packBits]; omega
  obtain ⟨uw, hu⟩ : ∃ uw, uw = packBits [(7, 39), (6, d.toNat), (6, a.toNat), (9, 64), (1, x.toNat), (3, 0)] := ⟨_, rfl⟩
  rw [hp, ← hu]
  refine ⟨bits_at hu 0 0 rfl rfl (by decide) rfl, hu ▸ packBits_lt _, ?_⟩
  have f0 : bitsOf uw 1 6 = 19 := bits_at hu 0 1 rfl rfl (by decide) rfl
  have f1 : bitsOf uw 19 9 = 64 := bits_at hu 3 0 rfl rfl (by decide) rfl
  have f2 : bitsOf uw 29 3 = 0 := bits_at hu 5 0 rfl rfl (by decide) rfl
  have ex : fld uw 28 1 = x := fld_at hu 4 rfl rfl
  have ea : fld uw 13 6 = a := fld_at hu 2 rfl rfl
  have ed : fld uw 7 6 = d := fld_at hu 1 rfl rfl
  rw [decodeWord_13 f0]
  unfold decodeMajor13
  rw [if_neg (fun h => absurd (f1.symm.trans h.1) (by decide)), if_pos ⟨f1, f2⟩, ex, ea, ed]

theorem word_exp2 (x : BitVec 1) (a : BitVec 6) (d : BitVec 6) : WordOf (.exp2 x a d) (encodeWord (.exp2 x a d)) := by
  have hp : encodeWord (.exp2 x a d) = packBits [(7, 39), (6, d.toNat), (6, a.toNat), (9, 128), (1, x.toNat), (3, 0)] := by
    have := x.isLt; have := a.isLt; have := d.isLt
    change 67108903 + x.toNat * 268435456 + a.toNat * 8192 + d.toNat * 128 = _; simp only [packBits]; omega
  obtain ⟨uw, hu⟩ : ∃ uw, uw = packBits [(7, 39), (6, d.toNat), (6, a.toNat), (9, 128), (1, x.toNat), (3, 0)] := ⟨_, rfl⟩
  rw [hp, ← hu]
  refine ⟨bits_at hu 0 0 rfl rfl (by decide) rfl, hu ▸ packBits_lt _, ?_⟩
  have f0 : bitsOf uw 1 6 = 19 := bits_at hu 0 1 rfl rfl (by decide) rfl
  have f1 : bitsOf uw 19 9 = 128 := bits_at hu 3 0 rfl rfl (by decide) rfl
  have f2 : bitsOf uw 29 3 = 0 := bits_at hu 5 0 rfl rfl (by decide) rfl
  have ex : fld uw 28 1 = x := fld_at hu 4 rfl rfl
  have ea : fld uw 13 6 = a := fld_at hu 2 rfl rfl
  have ed : fld uw 7 6 = d := fld_at hu 1 rfl rfl
  rw [decodeWord_13 f0]
  unfold decodeMajor13
  rw [if_neg (fun h => absurd (f1.symm.trans h.1) (by decide)), if_neg (fun h => absurd (f1.symm.trans h.1) (by decide)), if_pos ⟨f1, f2⟩, ex, ea, ed]

theorem word_log2 (x : BitVec 1) (a : BitVec 6) (d : BitVec 6) : WordOf (.log2 x a d) (encodeWord (.log2 x a d)) := by
  have hp : encodeWord (.log2 x a d) = packBits [(7, 39), (6, d.toNat), (6, a.toNat), (9, 192), (1, x.toNat), (3, 0)] := by
    have := x.isLt; have := a.isLt; have := d.isLt
    change 100663335 + x.toNat * 268435456 + a.toNat * 8192 + d.toNat * 128 = _; simp only [packBits]; omega
  obtain ⟨uw, hu⟩ : ∃ uw, uw = packBits [(7, 39), (6, d.toNat), (6, a.toNat), (9, 192), (1, x.toNat), (3, 0)] := ⟨_, rfl⟩
  rw [hp, ← hu]
  refine ⟨bits_at hu 0 0 rfl rfl (by decide) rfl, hu ▸ packBits_lt _, ?_⟩
  have f0 : bitsOf uw 1 6 = 19 := bits_at hu 0 1 rfl rfl (by decide) rfl
  have f1 : bitsOf uw 19 9 = 192 := bits_at hu 3 0 rfl rfl (by decide) rfl
  have f2 : bitsOf uw 29 3 = 0 := bits_at hu 5 0 rfl rfl (by decide) rfl
  have ex : fld uw 28 1 = x := fld_at hu 4 rfl rfl
  have ea : fld uw 13 6 = a := fld_at hu 2 rfl rfl
  have ed : fld uw 7 6 = d := fld_at hu 1 rfl rfl
  rw [decodeWord_13 f0]
  unfold decodeMajor13
  rw [if_neg (fun h => absurd (f1.symm.trans h.1) (by decide)), if_neg (fun h => absurd (f1.symm.trans h.1) (by decide)), if_neg (fun h => absurd (f1.symm.trans h.1) (by decide)), if_pos ⟨f1, f2⟩, ex, ea, ed]

theorem word_cvt (m : BitVec 2) (x : BitVec 1) (s : BitVec 3) (t : BitVec 3) (a : BitVec 6) (d : BitVec 6) : WordOf (.cvt m x s t a d) (encodeWord (.cvt m x s t a d)) := by
  have hp : encodeWord (.cvt m x s t a d) = packBits [(7, 41), (6, d.toNat), (6, a.toNat), (3, t.toNat), (3, 0), (3, s.toNat), (1, x.toNat), (1, 0), (2, m.toNat)] := by
    have := m.isLt; have := x.isLt; have := s.isLt; have := t.isLt; have := a.isLt; have := d.isLt
    change 41 + m.toNat * 1073741824 + x.toNat * 268435456 + s.toNat * 33554432 + t.toNat * 524288 + a.toNat * 8192 + d.toNat * 128 = _; simp only [packBits]; omega
  obtain ⟨uw, hu⟩ : ∃ uw, uw = packBits [(7, 41), (6, d.toNat), (6, a.toNat), (3, t.toNat), (3, 0), (3, s.toNat), (1, x.toNat), (1, 0), (2, m.toNat)] := ⟨_, rfl⟩
  rw [hp, ← hu]
  refine ⟨bits_at hu 0 0 rfl rfl (by decide) rfl, hu ▸ packBits_lt _, ?_⟩
  have f0 : bitsOf uw 1 6 = 20 := bits_at hu 0 1 rfl rfl (by decide) rfl
  have f1 : bitsOf uw 22 3 = 0 := bits_at hu 4 0 rfl rfl (by decide) rfl
  have f2 : bitsOf uw 29 1 = 0 := bits_at hu 7 0 rfl rfl (by decide) rfl
  have em : fld uw 30 2 = m := fld_at hu 8 rfl rfl
  have ex : fld uw 28 1 = x := fld_at hu 6 rfl rfl
  have es : fld uw 25 3 = s := fld_at hu 5 rfl rfl
  have et : fld uw 19 3 = t := fld_at hu 3 rfl rfl
  have ea : fld uw 13 6 = a := fld_at hu 2 rfl rfl
  have ed : fld uw 7 6 = d := fld_at hu 1 rfl rfl
  rw [decodeWord_14 f0]
  unfold decodeMajor14
  rw [if_pos ⟨f1, f2⟩, em, ex, es, et, ea, ed]

theorem word_cmpEq (m : BitVec 2) (y : BitVec 1) (x : BitVec 1) (b : BitVec 6) (a : BitVec 6) (p : BitVec 3) : WordOf (.cmpEq m y x b a p) (encodeWord (.cmpEq m y x b a p)) := by
  have hp : encodeWord (.cmpEq m y x b a p) = packBits [(7, 49), (3, p.toNat), (3, 0), (6, a.toNat), (6, b.toNat), (3, 0), (1, x.toNat), (1, y.toNat), (2, m.toNat)] := by
    have := m.isLt; have := y.isLt; have := x.isLt; have := b.isLt; have := a.isLt; have := p.isLt
    change 49 + m.toNat * 1073741824 + y.toNat * 536870912 + x.toNat * 268435456 + b.toNat * 524288 + a.toNat * 8192 + p.toNat * 128 = _; simp only [packBits]; omega
  obtain ⟨uw, hu⟩ : ∃ uw, uw = packBits [(7, 49), (3, p.toNat), (3, 0), (6, a.toNat), (6, b.toNat), (3, 0), (1, x.toNat), (1, y.toNat), (2, m.toNat)] := ⟨_, rfl⟩
  rw [hp, ← hu]
  refine ⟨bits_at hu 0 0 rfl rfl (by decide) rfl, hu ▸ packBits_lt _, ?_⟩
  have f0 : bitsOf uw 1 6 = 24 := bits_at hu 0 1 rfl rfl (by decide) rfl
  have f1 : bitsOf uw 10 3 = 0 := bits_at hu 2 0 rfl rfl (by decide) rfl
  have f2 : bitsOf uw 25 3 = 0 := bits_at hu 5 0 rfl rfl (by decide) rfl
  have em : fld uw 30 2 = m := fld_at hu 8 rfl rfl
  have ey : fld uw 29 1 = y := fld_at hu 7 rfl rfl
  have ex : fld uw 28 1 = x := fld_at hu 6 rfl rfl
  have eb : fld uw 19 6 = b := fld_at hu 4 rfl rfl
  have ea : fld uw 13 6 = a := fld_at hu 3 rfl rfl
  have ep : fld uw 7 3 = p := fld_at hu 1 rfl rfl
  rw [decodeWord_18 f0]
  unfold decodeMajor18
  rw [if_pos ⟨f1, f2⟩, em, ey, ex, eb, ea, ep]

theorem word_cmpNe (m : BitVec 2) (y : BitVec 1) (x : BitVec 1) (b : BitVec 6) (a : BitVec 6) (p : BitVec 3) : WordOf (.cmpNe m y x b a p) (encodeWord (.cmpNe m y x b a p)) := by
  have hp : encodeWord (.cmpNe m y x b a p) = packBits [(7, 49), (3, p.toNat), (3, 0), (6, a.toNat), (6, b.toNat), (3, 1), (1, x.toNat), (1, y.toNat), (2, m.toNat)] := by
    have := m.isLt; have := y.isLt; have := x.isLt; have := b.isLt; have := a.isLt; have := p.isLt
    change 33554481 + m.toNat * 1073741824 + y.toNat * 536870912 + x.toNat * 268435456 + b.toNat * 524288 + a.toNat * 8192 + p.toNat * 128 = _; simp only [packBits]; omega
  obtain ⟨uw, hu⟩ : ∃ uw, uw = packBits [(7, 49), (3, p.toNat), (3, 0), (6, a.toNat), (6, b.toNat), (3, 1), (1, x.toNat), (1, y.toNat), (2, m.toNat)] := ⟨_, rfl⟩
  rw [hp, ← hu]
  refine ⟨bits_at hu 0 0 rfl rfl (by decide) rfl, hu ▸ packBits_lt _, ?_⟩
  have f0 : bitsOf uw 1 6 = 24 := bits_at hu 0 1 rfl rfl (by decide) rfl
  have f1 : bitsOf uw 25 3 = 1 := bits_at hu 5 0 rfl rfl (by decide) rfl
  have f2 : bitsOf uw 10 3 = 0 := bits_at hu 2 0 rfl rfl (by decide) rfl
  have em : fld uw 30 2 = m := fld_at hu 8 rfl rfl
  have ey : fld uw 29 1 = y := fld_at hu 7 rfl rfl
  have ex : fld uw 28 1 = x := fld_at hu 6 rfl rfl
  have eb : fld uw 19 6 = b := fld_at hu 4 rfl rfl
  have ea : fld uw 13 6 = a := fld_at hu 3 rfl rfl
  have ep : fld uw 7 3 = p := fld_at hu 1 rfl rfl
  rw [decodeWord_18 f0]
  unfold decodeMajor18
  rw [if_neg (fun h => absurd (f1.symm.trans h.2) (by decide)), if_pos ⟨f2, f1⟩, em, ey, ex, eb, ea, ep]

theorem word_cmpLt (m : BitVec 2) (y : BitVec 1) (x : BitVec 1) (b : BitVec 6) (a : BitVec 6) (p : BitVec 3) : WordOf (.cmpLt m y x b a p) (encodeWord (.cmpLt m y x b a p)) := by
  have hp : encodeWord (.cmpLt m y x b a p) = packBits [(7, 49), (3, p.toNat), (3, 0), (6, a.toNat), (6, b.toNat), (3, 2), (1, x.toNat), (1, y.toNat), (2, m.toNat)] := by
    have := m.isLt; have := y.isLt; have := x.isLt; have := b.isLt; have := a.isLt; have := p.isLt
    change 67108913 + m.toNat * 1073741824 + y.toNat * 536870912 + x.toNat * 268435456 + b.toNat * 524288 + a.toNat * 8192 + p.toNat * 128 = _; simp only [packBits]; omega
  obtain ⟨uw, hu⟩ : ∃ uw, uw = packBits [(7, 49), (3, p.toNat), (3, 0), (6, a.toNat), (6, b.toNat), (3, 2), (1, x.toNat), (1, y.toNat), (2, m.toNat)] := ⟨_, rfl⟩
  rw [hp, ← hu]
  refine ⟨bits_at hu 0 0 rfl rfl (by decide) rfl, hu ▸ packBits_lt _, ?_⟩
  have f0 : bitsOf uw 1 6 = 24 := bits_at hu 0 1 rfl rfl (by decide) rfl
  have f1 : bitsOf uw 25 3 = 2 := bits_at hu 5 0 rfl rfl (by decide) rfl
  have f2 : bitsOf uw 10 3 = 0 := bits_at hu 2 0 rfl rfl (by decide) rfl
  have em : fld uw 30 2 = m := fld_at hu 8 rfl rfl
  have ey : fld uw 29 1 = y := fld_at hu 7 rfl rfl
  have ex : fld uw 28 1 = x := fld_at hu 6 rfl rfl
  have eb : fld uw 19 6 = b := fld_at hu 4 rfl rfl
  have ea : fld uw 13 6 = a := fld_at hu 3 rfl rfl
  have ep : fld uw 7 3 = p := fld_at hu 1 rfl rfl
  rw [decodeWord_18 f0]
  unfold decodeMajor18
  rw [if_neg (fun h => absurd (f1.symm.trans h.2) (by decide)), if_neg (fun h => absurd (f1.symm.trans h.2) (by decide)), if_pos ⟨f2, f1⟩, em, ey, ex, eb, ea, ep]

theorem word_cmpLe (m : BitVec 2) (y : BitVec 1) (x : BitVec 1) (b : BitVec 6) (a : BitVec 6) (p : BitVec 3) : WordOf (.cmpLe m y x b a p) (encodeWord (.cmpLe m y x b a p)) := by
  have hp : encodeWord (.cmpLe m y x b a p) = packBits [(7, 49), (3, p.toNat), (3, 0), (6, a.toNat), (6, b.toNat), (3, 3), (1, x.toNat), (1, y.toNat), (2, m.toNat)] := by
    have := m.isLt; have := y.isLt; have := x.isLt; have := b.isLt; have := a.isLt; have := p.isLt
    change 100663345 + m.toNat * 1073741824 + y.toNat * 536870912 + x.toNat * 268435456 + b.toNat * 524288 + a.toNat * 8192 + p.toNat * 128 = _; simp only [packBits]; omega
  obtain ⟨uw, hu⟩ : ∃ uw, uw = packBits [(7, 49), (3, p.toNat), (3, 0), (6, a.toNat), (6, b.toNat), (3, 3), (1, x.toNat), (1, y.toNat), (2, m.toNat)] := ⟨_, rfl⟩
  rw [hp, ← hu]
  refine ⟨bits_at hu 0 0 rfl rfl (by decide) rfl, hu ▸ packBits_lt _, ?_⟩
  have f0 : bitsOf uw 1 6 = 24 := bits_at hu 0 1 rfl rfl (by decide) rfl
  have f1 : bitsOf uw 25 3 = 3 := bits_at hu 5 0 rfl rfl (by decide) rfl
  have f2 : bitsOf uw 10 3 = 0 := bits_at hu 2 0 rfl rfl (by decide) rfl
  have em : fld uw 30 2 = m := fld_at hu 8 rfl rfl
  have ey : fld uw 29 1 = y := fld_at hu 7 rfl rfl
  have ex : fld uw 28 1 = x := fld_at hu 6 rfl rfl
  have eb : fld uw 19 6 = b := fld_at hu 4 rfl rfl
  have ea : fld uw 13 6 = a := fld_at hu 3 rfl rfl
  have ep : fld uw 7 3 = p := fld_at hu 1 rfl rfl
  rw [decodeWord_18 f0]
  unfold decodeMajor18
  rw [if_neg (fun h => absurd (f1.symm.trans h.2) (by decide)), if_neg (fun h => absurd (f1.symm.trans h.2) (by decide)), if_neg (fun h => absurd (f1.symm.trans h.2) (by decide)), if_pos ⟨f2, f1⟩, em, ey, ex, eb, ea, ep]

theorem word_cmpGt (m : BitVec 2) (y : BitVec 1) (x : BitVec 1) (b : BitVec 6) (a : BitVec 6) (p : BitVec 3) : WordOf (.cmpGt m y x b a p) (encodeWord (.cmpGt m y x b a p)) := by
  have hp : encodeWord (.cmpGt m y x b a p) = packBits [(7, 49), (3, p.toNat), (3, 0), (6, a.toNat), (6, b.toNat), (3, 4), (1, x.toNat), (1, y.toNat), (2, m.toNat)] := by
    have := m.isLt; have := y.isLt; have := x.isLt; have := b.isLt; have := a.isLt; have := p.isLt
    change 134217777 + m.toNat * 1073741824 + y.toNat * 536870912 + x.toNat * 268435456 + b.toNat * 524288 + a.toNat * 8192 + p.toNat * 128 = _; simp only [packBits]; omega
  obtain ⟨uw, hu⟩ : ∃ uw, uw = packBits [(7, 49), (3, p.toNat), (3, 0), (6, a.toNat), (6, b.toNat), (3, 4), (1, x.toNat), (1, y.toNat), (2, m.toNat)] := ⟨_, rfl⟩
  rw [hp, ← hu]
  refine ⟨bits_at hu 0 0 rfl rfl (by decide) rfl, hu ▸ packBits_lt _, ?_⟩
  have f0 : bitsOf uw 1 6 = 24 := bits_at hu 0 1 rfl rfl (by decide) rfl
  have f1 : bitsOf uw 25 3 = 4 := bits_at hu 5 0 rfl rfl (by decide) rfl
  have f2 : bitsOf uw 10 3 = 0 := bits_at hu 2 0 rfl rfl (by decide) rfl
  have em : fld uw 30 2 = m := fld_at hu 8 rfl rfl
  have ey : fld uw 29 1 = y := fld_at hu 7 rfl rfl
  have ex : fld uw 28 1 = x := fld_at hu 6 rfl rfl
  have eb : fld uw 19 6 = b := fld_at hu 4 rfl rfl
  have ea : fld uw 13 6 = a := fld_at hu 3 rfl rfl
  have ep : fld uw 7 3 = p := fld_at hu 1 rfl rfl
  rw [decodeWord_18 f0]
  unfold decodeMajor18
  rw [if_neg (fun h => absurd (f1.symm.trans h.2) (by decide)), if_neg (fun h => absurd (f1.symm.trans h.2) (by decide)), if_neg (fun h => absurd (f1.symm.trans h.2) (by decide)), if_neg (fun h => absurd (f1.symm.trans h.2) (by decide)), if_pos ⟨f2, f1⟩, em, ey, ex, eb, ea, ep]

theorem word_cmpGe (m : BitVec 2) (y : BitVec 1) (x : BitVec 1) (b : BitVec 6) (a : BitVec 6) (p : BitVec 3) : WordOf (.cmpGe m y x b a p) (encodeWord (.cmpGe m y x b a p)) := by
  have hp : encodeWord (.cmpGe m y x b a p) = packBits [(7, 49), (3, p.toNat), (3, 0), (6, a.toNat), (6, b.toNat), (3, 5), (1, x.toNat), (1, y.toNat), (2, m.toNat)] := by
    have := m.isLt; have := y.isLt; have := x.isLt; have := b.isLt; have := a.isLt; have := p.isLt
    change 167772209 + m.toNat * 1073741824 + y.toNat * 536870912 + x.toNat * 268435456 + b.toNat * 524288 + a.toNat * 8192 + p.toNat * 128 = _; simp only [packBits]; omega
  obtain ⟨uw, hu⟩ : ∃ uw, uw = packBits [(7, 49), (3, p.toNat), (3, 0), (6, a.toNat), (6, b.toNat), (3, 5), (1, x.toNat), (1, y.toNat), (2, m.toNat)] := ⟨_, rfl⟩
  rw [hp, ← hu]
  refine ⟨bits_at hu 0 0 rfl rfl (by decide) rfl, hu ▸ packBits_lt _, ?_⟩
  have f0 : bitsOf uw 1 6 = 24 := bits_at hu 0 1 rfl rfl (by decide) rfl
  have f1 : bitsOf uw 25 3 = 5 := bits_at hu 5 0 rfl rfl (by decide) rfl
  have f2 : bitsOf uw 10 3 = 0 := bits_at hu 2 0 rfl rfl (by decide) rfl
  have em : fld uw 30 2 = m := fld_at hu 8 rfl rfl
  have ey : fld uw 29 1 = y := fld_at hu 7 rfl rfl
  have ex : fld uw 28 1 = x := fld_at hu 6 rfl rfl
  have eb : fld uw 19 6 = b := fld_at hu 4 rfl rfl
  have ea : fld uw 13 6 = a := fld_at hu 3 rfl rfl
  have ep : fld uw 7 3 = p := fld_at hu 1 rfl rfl
  rw [decodeWord_18 f0]
  unfold decodeMajor18
  rw [if_neg (fun h => absurd (f1.symm.trans h.2) (by decide)), if_neg (fun h => absurd (f1.symm.trans h.2) (by decide)), if_neg (fun h => absurd (f1.symm.trans h.2) (by decide)), if_neg (fun h => absurd (f1.symm.trans h.2) (by decide)), if_neg (fun h => absurd (f1.symm.trans h.2) (by decide)), if_pos ⟨f2, f1⟩, em, ey, ex, eb, ea, ep]

theorem word_pand (b : BitVec 3) (a : BitVec 3) (d : BitVec 3) : WordOf (.pand b a d) (encodeWord (.pand b a d)) := by
  have hp : encodeWord (.pand b a d) = packBits [(7, 51), (3, d.toNat), (3, 0), (3, a.toNat), (3, 0), (3, b.toNat), (10, 0)] := by
    have := b.isLt; have := a.isLt; have := d.isLt
    change 51 + b.toNat * 524288 + a.toNat * 8192 + d.toNat * 128 = _; simp only [packBits]; omega
  obtain ⟨uw, hu⟩ : ∃ uw, uw = packBits [(7, 51), (3, d.toNat), (3, 0), (3, a.toNat), (3, 0), (3, b.toNat), (10, 0)] := ⟨_, rfl⟩
  rw [hp, ← hu]
  refine ⟨bits_at hu 0 0 rfl rfl (by decide) rfl, hu ▸ packBits_lt _, ?_⟩
  have f0 : bitsOf uw 1 6 = 25 := bits_at hu 0 1 rfl rfl (by decide) rfl
  have f1 : bitsOf uw 10 3 = 0 := bits_at hu 2 0 rfl rfl (by decide) rfl
  have f2 : bitsOf uw 16 3 = 0 := bits_at hu 4 0 rfl rfl (by decide) rfl
  have f3 : bitsOf uw 22 10 = 0 := bits_at hu 6 0 rfl rfl (by decide) rfl
  have eb : fld uw 19 3 = b := fld_at hu 5 rfl rfl
  have ea : fld uw 13 3 = a := fld_at hu 3 rfl rfl
  have ed : fld uw 7 3 = d := fld_at hu 1 rfl rfl
  rw [decodeWord_19 f0]
  unfold decodeMajor19
  rw [if_pos ⟨f1, f2, f3⟩, eb, ea, ed]

theorem word_por (b : BitVec 3) (a : BitVec 3) (d : BitVec 3) : WordOf (.por b a d) (encodeWord (.por b a d)) := by
  have hp : encodeWord (.por b a d) = packBits [(7, 51), (3, d.toNat), (3, 0), (3, a.toNat), (3, 0), (3, b.toNat), (10, 8)] := by
    have := b.isLt; have := a.isLt; have := d.isLt
    change 33554483 + b.toNat * 524288 + a.toNat * 8192 + d.toNat * 128 = _; simp only [packBits]; omega
  obtain ⟨uw, hu⟩ : ∃ uw, uw = packBits [(7, 51), (3, d.toNat), (3, 0), (3, a.toNat), (3, 0), (3, b.toNat), (10, 8)] := ⟨_, rfl⟩
  rw [hp, ← hu]
  refine ⟨bits_at hu 0 0 rfl rfl (by decide) rfl, hu ▸ packBits_lt _, ?_⟩
  have f0 : bitsOf uw 1 6 = 25 := bits_at hu 0 1 rfl rfl (by decide) rfl
  have f1 : bitsOf uw 22 10 = 8 := bits_at hu 6 0 rfl rfl (by decide) rfl
  have f2 : bitsOf uw 10 3 = 0 := bits_at hu 2 0 rfl rfl (by decide) rfl
  have f3 : bitsOf uw 16 3 = 0 := bits_at hu 4 0 rfl rfl (by decide) rfl
  have eb : fld uw 19 3 = b := fld_at hu 5 rfl rfl
  have ea : fld uw 13 3 = a := fld_at hu 3 rfl rfl
  have ed : fld uw 7 3 = d := fld_at hu 1 rfl rfl
  rw [decodeWord_19 f0]
  unfold decodeMajor19
  rw [if_neg (fun h => absurd (f1.symm.trans h.2.2) (by decide)), if_pos ⟨f2, f3, f1⟩, eb, ea, ed]

theorem word_pxor (b : BitVec 3) (a : BitVec 3) (d : BitVec 3) : WordOf (.pxor b a d) (encodeWord (.pxor b a d)) := by
  have hp : encodeWord (.pxor b a d) = packBits [(7, 51), (3, d.toNat), (3, 0), (3, a.toNat), (3, 0), (3, b.toNat), (10, 16)] := by
    have := b.isLt; have := a.isLt; have := d.isLt
    change 67108915 + b.toNat * 524288 + a.toNat * 8192 + d.toNat * 128 = _; simp only [packBits]; omega
  obtain ⟨uw, hu⟩ : ∃ uw, uw = packBits [(7, 51), (3, d.toNat), (3, 0), (3, a.toNat), (3, 0), (3, b.toNat), (10, 16)] := ⟨_, rfl⟩
  rw [hp, ← hu]
  refine ⟨bits_at hu 0 0 rfl rfl (by decide) rfl, hu ▸ packBits_lt _, ?_⟩
  have f0 : bitsOf uw 1 6 = 25 := bits_at hu 0 1 rfl rfl (by decide) rfl
  have f1 : bitsOf uw 22 10 = 16 := bits_at hu 6 0 rfl rfl (by decide) rfl
  have f2 : bitsOf uw 10 3 = 0 := bits_at hu 2 0 rfl rfl (by decide) rfl
  have f3 : bitsOf uw 16 3 = 0 := bits_at hu 4 0 rfl rfl (by decide) rfl
  have eb : fld uw 19 3 = b := fld_at hu 5 rfl rfl
  have ea : fld uw 13 3 = a := fld_at hu 3 rfl rfl
  have ed : fld uw 7 3 = d := fld_at hu 1 rfl rfl
  rw [decodeWord_19 f0]
  unfold decodeMajor19
  rw [if_neg (fun h => absurd (f1.symm.trans h.2.2) (by decide)), if_neg (fun h => absurd (f1.symm.trans h.2.2) (by decide)), if_pos ⟨f2, f3, f1⟩, eb, ea, ed]

theorem word_pnot (a : BitVec 3) (d : BitVec 3) : WordOf (.pnot a d) (encodeWord (.pnot a d)) := by
  have hp : encodeWord (.pnot a d) = packBits [(7, 51), (3, d.toNat), (3, 0), (3, a.toNat), (16, 1536)] := by
    have := a.isLt; have := d.isLt
    change 100663347 + a.toNat * 8192 + d.toNat * 128 = _; simp only [packBits]; omega
  obtain ⟨uw, hu⟩ : ∃ uw, uw = packBits [(7, 51), (3, d.toNat), (3, 0), (3, a.toNat), (16, 1536)] := ⟨_, rfl⟩
  rw [hp, ← hu]
  refine ⟨bits_at hu 0 0 rfl rfl (by decide) rfl, hu ▸ packBits_lt _, ?_⟩
  have f0 : bitsOf uw 1 6 = 25 := bits_at hu 0 1 rfl rfl (by decide) rfl
  have f1 : bitsOf uw 22 10 = 24 := bits_at hu 4 6 rfl rfl (by decide) rfl
  have f2 : bitsOf uw 10 3 = 0 := bits_at hu 2 0 rfl rfl (by decide) rfl
  have f3 : bitsOf uw 16 16 = 1536 := bits_at hu 4 0 rfl rfl (by decide) rfl
  have ea : fld uw 13 3 = a := fld_at hu 3 rfl rfl
  have ed : fld uw 7 3 = d := fld_at hu 1 rfl rfl
  rw [decodeWord_19 f0]
  unfold decodeMajor19
  rw [if_neg (fun h => absurd (f1.symm.trans h.2.2) (by decide)), if_neg (fun h => absurd (f1.symm.trans h.2.2) (by decide)), if_neg (fun h => absurd (f1.symm.trans h.2.2) (by decide)), if_pos ⟨f2, f3⟩, ea, ed]

theorem word_sel (n : BitVec 1) (y : BitVec 1) (x : BitVec 1) (p : BitVec 3) (b : BitVec 6) (a : BitVec 6) (d : BitVec 6) : WordOf (.sel n y x p b a d) (encodeWord (.sel n y x p b a d)) := by
  have hp : encodeWord (.sel n y x p b a d) = packBits [(7, 53), (6, d.toNat), (6, a.toNat), (6, b.toNat), (3, p.toNat), (1, x.toNat), (1, y.toNat), (1, n.toNat), (1, 0)] := by
    have := n.isLt; have := y.isLt; have := x.isLt; have := p.isLt; have := b.isLt; have := a.isLt; have := d.isLt
    change 53 + n.toNat * 1073741824 + y.toNat * 536870912 + x.toNat * 268435456 + p.toNat * 33554432 + b.toNat * 524288 + a.toNat * 8192 + d.toNat * 128 = _; simp only [packBits]; omega
  obtain ⟨uw, hu⟩ : ∃ uw, uw = packBits [(7, 53), (6, d.toNat), (6, a.toNat), (6, b.toNat), (3, p.toNat), (1, x.toNat), (1, y.toNat), (1, n.toNat), (1, 0)] := ⟨_, rfl⟩
  rw [hp, ← hu]
  refine ⟨bits_at hu 0 0 rfl rfl (by decide) rfl, hu ▸ packBits_lt _, ?_⟩
  have f0 : bitsOf uw 1 6 = 26 := bits_at hu 0 1 rfl rfl (by decide) rfl
  have f1 : bitsOf uw 31 1 = 0 := bits_at hu 8 0 rfl rfl (by decide) rfl
  have en : fld uw 30 1 = n := fld_at hu 7 rfl rfl
  have ey : fld uw 29 1 = y := fld_at hu 6 rfl rfl
  have ex : fld uw 28 1 = x := fld_at hu 5 rfl rfl
  have ep : fld uw 25 3 = p := fld_at hu 4 rfl rfl
  have eb : fld uw 19 6 = b := fld_at hu 3 rfl rfl
  have ea : fld uw 13 6 = a := fld_at hu 2 rfl rfl
  have ed : fld uw 7 6 = d := fld_at hu 1 rfl rfl
  rw [decodeWord_1a f0]
  unfold decodeMajor1a
  rw [if_pos f1, en, ey, ex, ep, eb, ea, ed]

theorem word_mov (y : BitVec 1) (b : BitVec 6) (d : BitVec 6) : WordOf (.mov y b d) (encodeWord (.mov y b d)) := by
  have hp : encodeWord (.mov y b d) = packBits [(7, 55), (6, d.toNat), (6, 0), (6, b.toNat), (4, 0), (1, y.toNat), (2, 0)] := by
    have := y.isLt; have := b.isLt; have := d.isLt
    change 55 + y.toNat * 536870912 + b.toNat * 524288 + d.toNat * 128 = _; simp only [packBits]; omega
  obtain ⟨uw, hu⟩ : ∃ uw, uw = packBits [(7, 55), (6, d.toNat), (6, 0), (6, b.toNat), (4, 0), (1, y.toNat), (2, 0)] := ⟨_, rfl⟩
  rw [hp, ← hu]
  refine ⟨bits_at hu 0 0 rfl rfl (by decide) rfl, hu ▸ packBits_lt _, ?_⟩
  have f0 : bitsOf uw 1 6 = 27 := bits_at hu 0 1 rfl rfl (by decide) rfl
  have f1 : bitsOf uw 13 6 = 0 := bits_at hu 2 0 rfl rfl (by decide) rfl
  have f2 : bitsOf uw 25 4 = 0 := bits_at hu 4 0 rfl rfl (by decide) rfl
  have f3 : bitsOf uw 30 2 = 0 := bits_at hu 6 0 rfl rfl (by decide) rfl
  have ey : fld uw 29 1 = y := fld_at hu 5 rfl rfl
  have eb : fld uw 19 6 = b := fld_at hu 3 rfl rfl
  have ed : fld uw 7 6 = d := fld_at hu 1 rfl rfl
  rw [decodeWord_1b f0]
  unfold decodeMajor1b
  rw [if_pos ⟨f1, f2, f3⟩, ey, eb, ed]

theorem word_movk (a : BitVec 5) (d : BitVec 6) : WordOf (.movk a d) (encodeWord (.movk a d)) := by
  have hp : encodeWord (.movk a d) = packBits [(7, 55), (6, d.toNat), (5, a.toNat), (14, 128)] := by
    have := a.isLt; have := d.isLt
    change 33554487 + a.toNat * 8192 + d.toNat * 128 = _; simp only [packBits]; omega
  obtain ⟨uw, hu⟩ : ∃ uw, uw = packBits [(7, 55), (6, d.toNat), (5, a.toNat), (14, 128)] := ⟨_, rfl⟩
  rw [hp, ← hu]
  refine ⟨bits_at hu 0 0 rfl rfl (by decide) rfl, hu ▸ packBits_lt _, ?_⟩
  have f0 : bitsOf uw 1 6 = 27 := bits_at hu 0 1 rfl rfl (by decide) rfl
  have f1 : bitsOf uw 25 4 = 1 := bits_at hu 3 7 rfl rfl (by decide) rfl
  have f2 : bitsOf uw 18 14 = 128 := bits_at hu 3 0 rfl rfl (by decide) rfl
  have ea : fld uw 13 5 = a := fld_at hu 2 rfl rfl
  have ed : fld uw 7 6 = d := fld_at hu 1 rfl rfl
  rw [decodeWord_1b f0]
  unfold decodeMajor1b
  rw [if_neg (fun h => absurd (f1.symm.trans h.2.1) (by decide)), if_pos f2, ea, ed]

theorem word_sreg (s : BitVec 6) (d : BitVec 6) : WordOf (.sreg s d) (encodeWord (.sreg s d)) := by
  have hp : encodeWord (.sreg s d) = packBits [(7, 55), (6, d.toNat), (6, s.toNat), (13, 128)] := by
    have := s.isLt; have := d.isLt
    change 67108919 + s.toNat * 8192 + d.toNat * 128 = _; simp only [packBits]; omega
  obtain ⟨uw, hu⟩ : ∃ uw, uw = packBits [(7, 55), (6, d.toNat), (6, s.toNat), (13, 128)] := ⟨_, rfl⟩
  rw [hp, ← hu]
  refine ⟨bits_at hu 0 0 rfl rfl (by decide) rfl, hu ▸ packBits_lt _, ?_⟩
  have f0 : bitsOf uw 1 6 = 27 := bits_at hu 0 1 rfl rfl (by decide) rfl
  have f1 : bitsOf uw 25 4 = 2 := bits_at hu 3 6 rfl rfl (by decide) rfl
  have f2 : bitsOf uw 19 13 = 128 := bits_at hu 3 0 rfl rfl (by decide) rfl
  have es : fld uw 13 6 = s := fld_at hu 2 rfl rfl
  have ed : fld uw 7 6 = d := fld_at hu 1 rfl rfl
  rw [decodeWord_1b f0]
  unfold decodeMajor1b
  rw [if_neg (fun h => absurd (f1.symm.trans h.2.1) (by decide)), if_neg (by rw [hu, ← hp]; change ¬ ((67108919 + s.toNat * 8192 + d.toNat * 128) / 2 ^ 18 % 2 ^ 14 = 128); have := s.isLt; have := d.isLt; omega), if_pos f2, es, ed]

theorem word_shflIdx (y : BitVec 1) (x : BitVec 1) (b : BitVec 6) (a : BitVec 6) (d : BitVec 6) : WordOf (.shflIdx y x b a d) (encodeWord (.shflIdx y x b a d)) := by
  have hp : encodeWord (.shflIdx y x b a d) = packBits [(7, 57), (6, d.toNat), (6, a.toNat), (6, b.toNat), (3, 0), (1, x.toNat), (1, y.toNat), (2, 0)] := by
    have := y.isLt; have := x.isLt; have := b.isLt; have := a.isLt; have := d.isLt
    change 57 + y.toNat * 536870912 + x.toNat * 268435456 + b.toNat * 524288 + a.toNat * 8192 + d.toNat * 128 = _; simp only [packBits]; omega
  obtain ⟨uw, hu⟩ : ∃ uw, uw = packBits [(7, 57), (6, d.toNat), (6, a.toNat), (6, b.toNat), (3, 0), (1, x.toNat), (1, y.toNat), (2, 0)] := ⟨_, rfl⟩
  rw [hp, ← hu]
  refine ⟨bits_at hu 0 0 rfl rfl (by decide) rfl, hu ▸ packBits_lt _, ?_⟩
  have f0 : bitsOf uw 1 6 = 28 := bits_at hu 0 1 rfl rfl (by decide) rfl
  have f1 : bitsOf uw 25 3 = 0 := bits_at hu 4 0 rfl rfl (by decide) rfl
  have f2 : bitsOf uw 30 2 = 0 := bits_at hu 7 0 rfl rfl (by decide) rfl
  have ey : fld uw 29 1 = y := fld_at hu 6 rfl rfl
  have ex : fld uw 28 1 = x := fld_at hu 5 rfl rfl
  have eb : fld uw 19 6 = b := fld_at hu 3 rfl rfl
  have ea : fld uw 13 6 = a := fld_at hu 2 rfl rfl
  have ed : fld uw 7 6 = d := fld_at hu 1 rfl rfl
  rw [decodeWord_1c f0]
  unfold decodeMajor1c
  rw [if_pos ⟨f1, f2⟩, ey, ex, eb, ea, ed]

theorem word_shflUp (y : BitVec 1) (x : BitVec 1) (b : BitVec 6) (a : BitVec 6) (d : BitVec 6) : WordOf (.shflUp y x b a d) (encodeWord (.shflUp y x b a d)) := by
  have hp : encodeWord (.shflUp y x b a d) = packBits [(7, 57), (6, d.toNat), (6, a.toNat), (6, b.toNat), (3, 1), (1, x.toNat), (1, y.toNat), (2, 0)] := by
    have := y.isLt; have := x.isLt; have := b.isLt; have := a.isLt; have := d.isLt
    change 33554489 + y.toNat * 536870912 + x.toNat * 268435456 + b.toNat * 524288 + a.toNat * 8192 + d.toNat * 128 = _; simp only [packBits]; omega
  obtain ⟨uw, hu⟩ : ∃ uw, uw = packBits [(7, 57), (6, d.toNat), (6, a.toNat), (6, b.toNat), (3, 1), (1, x.toNat), (1, y.toNat), (2, 0)] := ⟨_, rfl⟩
  rw [hp, ← hu]
  refine ⟨bits_at hu 0 0 rfl rfl (by decide) rfl, hu ▸ packBits_lt _, ?_⟩
  have f0 : bitsOf uw 1 6 = 28 := bits_at hu 0 1 rfl rfl (by decide) rfl
  have f1 : bitsOf uw 25 3 = 1 := bits_at hu 4 0 rfl rfl (by decide) rfl
  have f2 : bitsOf uw 30 2 = 0 := bits_at hu 7 0 rfl rfl (by decide) rfl
  have ey : fld uw 29 1 = y := fld_at hu 6 rfl rfl
  have ex : fld uw 28 1 = x := fld_at hu 5 rfl rfl
  have eb : fld uw 19 6 = b := fld_at hu 3 rfl rfl
  have ea : fld uw 13 6 = a := fld_at hu 2 rfl rfl
  have ed : fld uw 7 6 = d := fld_at hu 1 rfl rfl
  rw [decodeWord_1c f0]
  unfold decodeMajor1c
  rw [if_neg (fun h => absurd (f1.symm.trans h.1) (by decide)), if_pos ⟨f1, f2⟩, ey, ex, eb, ea, ed]

theorem word_shflDown (y : BitVec 1) (x : BitVec 1) (b : BitVec 6) (a : BitVec 6) (d : BitVec 6) : WordOf (.shflDown y x b a d) (encodeWord (.shflDown y x b a d)) := by
  have hp : encodeWord (.shflDown y x b a d) = packBits [(7, 57), (6, d.toNat), (6, a.toNat), (6, b.toNat), (3, 2), (1, x.toNat), (1, y.toNat), (2, 0)] := by
    have := y.isLt; have := x.isLt; have := b.isLt; have := a.isLt; have := d.isLt
    change 67108921 + y.toNat * 536870912 + x.toNat * 268435456 + b.toNat * 524288 + a.toNat * 8192 + d.toNat * 128 = _; simp only [packBits]; omega
  obtain ⟨uw, hu⟩ : ∃ uw, uw = packBits [(7, 57), (6, d.toNat), (6, a.toNat), (6, b.toNat), (3, 2), (1, x.toNat), (1, y.toNat), (2, 0)] := ⟨_, rfl⟩
  rw [hp, ← hu]
  refine ⟨bits_at hu 0 0 rfl rfl (by decide) rfl, hu ▸ packBits_lt _, ?_⟩
  have f0 : bitsOf uw 1 6 = 28 := bits_at hu 0 1 rfl rfl (by decide) rfl
  have f1 : bitsOf uw 25 3 = 2 := bits_at hu 4 0 rfl rfl (by decide) rfl
  have f2 : bitsOf uw 30 2 = 0 := bits_at hu 7 0 rfl rfl (by decide) rfl
  have ey : fld uw 29 1 = y := fld_at hu 6 rfl rfl
  have ex : fld uw 28 1 = x := fld_at hu 5 rfl rfl
  have eb : fld uw 19 6 = b := fld_at hu 3 rfl rfl
  have ea : fld uw 13 6 = a := fld_at hu 2 rfl rfl
  have ed : fld uw 7 6 = d := fld_at hu 1 rfl rfl
  rw [decodeWord_1c f0]
  unfold decodeMajor1c
  rw [if_neg (fun h => absurd (f1.symm.trans h.1) (by decide)), if_neg (fun h => absurd (f1.symm.trans h.1) (by decide)), if_pos ⟨f1, f2⟩, ey, ex, eb, ea, ed]

theorem word_shflXor (y : BitVec 1) (x : BitVec 1) (b : BitVec 6) (a : BitVec 6) (d : BitVec 6) : WordOf (.shflXor y x b a d) (encodeWord (.shflXor y x b a d)) := by
  have hp : encodeWord (.shflXor y x b a d) = packBits [(7, 57), (6, d.toNat), (6, a.toNat), (6, b.toNat), (3, 3), (1, x.toNat), (1, y.toNat), (2, 0)] := by
    have := y.isLt; have := x.isLt; have := b.isLt; have := a.isLt; have := d.isLt
    change 100663353 + y.toNat * 536870912 + x.toNat * 268435456 + b.toNat * 524288 + a.toNat * 8192 + d.toNat * 128 = _; simp only [packBits]; omega
  obtain ⟨uw, hu⟩ : ∃ uw, uw = packBits [(7, 57), (6, d.toNat), (6, a.toNat), (6, b.toNat), (3, 3), (1, x.toNat), (1, y.toNat), (2, 0)] := ⟨_, rfl⟩
  rw [hp, ← hu]
  refine ⟨bits_at hu 0 0 rfl rfl (by decide) rfl, hu ▸ packBits_lt _, ?_⟩
  have f0 : bitsOf uw 1 6 = 28 := bits_at hu 0 1 rfl rfl (by decide) rfl
  have f1 : bitsOf uw 25 3 = 3 := bits_at hu 4 0 rfl rfl (by decide) rfl
  have f2 : bitsOf uw 30 2 = 0 := bits_at hu 7 0 rfl rfl (by decide) rfl
  have ey : fld uw 29 1 = y := fld_at hu 6 rfl rfl
  have ex : fld uw 28 1 = x := fld_at hu 5 rfl rfl
  have eb : fld uw 19 6 = b := fld_at hu 3 rfl rfl
  have ea : fld uw 13 6 = a := fld_at hu 2 rfl rfl
  have ed : fld uw 7 6 = d := fld_at hu 1 rfl rfl
  rw [decodeWord_1c f0]
  unfold decodeMajor1c
  rw [if_neg (fun h => absurd (f1.symm.trans h.1) (by decide)), if_neg (fun h => absurd (f1.symm.trans h.1) (by decide)), if_neg (fun h => absurd (f1.symm.trans h.1) (by decide)), if_pos ⟨f1, f2⟩, ey, ex, eb, ea, ed]

theorem word_xg (y : BitVec 1) (x : BitVec 1) (b : BitVec 6) (a : BitVec 3) (d : BitVec 6) : WordOf (.xg y x b a d) (encodeWord (.xg y x b a d)) := by
  have hp : encodeWord (.xg y x b a d) = packBits [(7, 57), (6, d.toNat), (3, 0), (3, a.toNat), (6, b.toNat), (3, 4), (1, x.toNat), (1, y.toNat), (2, 0)] := by
    have := y.isLt; have := x.isLt; have := b.isLt; have := a.isLt; have := d.isLt
    change 134217785 + y.toNat * 536870912 + x.toNat * 268435456 + b.toNat * 524288 + a.toNat * 65536 + d.toNat * 128 = _; simp only [packBits]; omega
  obtain ⟨uw, hu⟩ : ∃ uw, uw = packBits [(7, 57), (6, d.toNat), (3, 0), (3, a.toNat), (6, b.toNat), (3, 4), (1, x.toNat), (1, y.toNat), (2, 0)] := ⟨_, rfl⟩
  rw [hp, ← hu]
  refine ⟨bits_at hu 0 0 rfl rfl (by decide) rfl, hu ▸ packBits_lt _, ?_⟩
  have f0 : bitsOf uw 1 6 = 28 := bits_at hu 0 1 rfl rfl (by decide) rfl
  have f1 : bitsOf uw 25 3 = 4 := bits_at hu 5 0 rfl rfl (by decide) rfl
  have f2 : bitsOf uw 13 3 = 0 := bits_at hu 2 0 rfl rfl (by decide) rfl
  have f3 : bitsOf uw 30 2 = 0 := bits_at hu 8 0 rfl rfl (by decide) rfl
  have ey : fld uw 29 1 = y := fld_at hu 7 rfl rfl
  have ex : fld uw 28 1 = x := fld_at hu 6 rfl rfl
  have eb : fld uw 19 6 = b := fld_at hu 4 rfl rfl
  have ea : fld uw 16 3 = a := fld_at hu 3 rfl rfl
  have ed : fld uw 7 6 = d := fld_at hu 1 rfl rfl
  rw [decodeWord_1c f0]
  unfold decodeMajor1c
  rw [if_neg (fun h => absurd (f1.symm.trans h.1) (by decide)), if_neg (fun h => absurd (f1.symm.trans h.1) (by decide)), if_neg (fun h => absurd (f1.symm.trans h.1) (by decide)), if_neg (fun h => absurd (f1.symm.trans h.1) (by decide)), if_pos ⟨f2, f1, f3⟩, ey, ex, eb, ea, ed]

theorem word_permB (h : BitVec 1) (x : BitVec 1) (q : BitVec 3) (a : BitVec 6) (d : BitVec 6) : WordOf (.permB h x q a d) (encodeWord (.permB h x q a d)) := by
  have hp : encodeWord (.permB h x q a d) = packBits [(7, 57), (6, d.toNat), (6, a.toNat), (2, 0), (3, q.toNat), (4, 10), (1, x.toNat), (1, 0), (1, h.toNat), (1, 0)] := by
    have := h.isLt; have := x.isLt; have := q.isLt; have := a.isLt; have := d.isLt
    change 167772217 + h.toNat * 1073741824 + x.toNat * 268435456 + q.toNat * 2097152 + a.toNat * 8192 + d.toNat * 128 = _; simp only [packBits]; omega
  obtain ⟨uw, hu⟩ : ∃ uw, uw = packBits [(7, 57), (6, d.toNat), (6, a.toNat), (2, 0), (3, q.toNat), (4, 10), (1, x.toNat), (1, 0), (1, h.toNat), (1, 0)] := ⟨_, rfl⟩
  rw [hp, ← hu]
  refine ⟨bits_at hu 0 0 rfl rfl (by decide) rfl, hu ▸ packBits_lt _, ?_⟩
  have f0 : bitsOf uw 1 6 = 28 := bits_at hu 0 1 rfl rfl (by decide) rfl
  have f1 : bitsOf uw 25 3 = 5 := bits_at hu 5 1 rfl rfl (by decide) rfl
  have f2 : bitsOf uw 19 2 = 0 := bits_at hu 3 0 rfl rfl (by decide) rfl
  have f3 : bitsOf uw 24 4 = 10 := bits_at hu 5 0 rfl rfl (by decide) rfl
  have f4 : bitsOf uw 29 1 = 0 := bits_at hu 7 0 rfl rfl (by decide) rfl
  have f5 : bitsOf uw 31 1 = 0 := bits_at hu 9 0 rfl rfl (by decide) rfl
  have eh : fld uw 30 1 = h := fld_at hu 8 rfl rfl
  have ex : fld uw 28 1 = x := fld_at hu 6 rfl rfl
  have eq : fld uw 21 3 = q := fld_at hu 4 rfl rfl
  have ea : fld uw 13 6 = a := fld_at hu 2 rfl rfl
  have ed : fld uw 7 6 = d := fld_at hu 1 rfl rfl
  rw [decodeWord_1c f0]
  unfold decodeMajor1c
  rw [if_neg (fun h => absurd (f1.symm.trans h.1) (by decide)), if_neg (fun h => absurd (f1.symm.trans h.1) (by decide)), if_neg (fun h => absurd (f1.symm.trans h.1) (by decide)), if_neg (fun h => absurd (f1.symm.trans h.1) (by decide)), if_neg (fun h => absurd (f1.symm.trans h.2.1) (by decide)), if_pos ⟨f2, f3, f4, f5⟩, eh, ex, eq, ea, ed]

theorem word_voteAny (a : BitVec 3) (d : BitVec 3) : WordOf (.voteAny a d) (encodeWord (.voteAny a d)) := by
  have hp : encodeWord (.voteAny a d) = packBits [(7, 59), (3, d.toNat), (3, 0), (3, a.toNat), (16, 0)] := by
    have := a.isLt; have := d.isLt
    change 59 + a.toNat * 8192 + d.toNat * 128 = _; simp only [packBits]; omega
  obtain ⟨uw, hu⟩ : ∃ uw, uw = packBits [(7, 59), (3, d.toNat), (3, 0), (3, a.toNat), (16, 0)] := ⟨_, rfl⟩
  rw [hp, ← hu]
  refine ⟨bits_at hu 0 0 rfl rfl (by decide) rfl, hu ▸ packBits_lt _, ?_⟩
  have f0 : bitsOf uw 1 6 = 29 := bits_at hu 0 1 rfl rfl (by decide) rfl
  have f1 : bitsOf uw 10 3 = 0 := bits_at hu 2 0 rfl rfl (by decide) rfl
  have f2 : bitsOf uw 16 16 = 0 := bits_at hu 4 0 rfl rfl (by decide) rfl
  have ea : fld uw 13 3 = a := fld_at hu 3 rfl rfl
  have ed : fld uw 7 3 = d := fld_at hu 1 rfl rfl
  rw [decodeWord_1d f0]
  unfold decodeMajor1d
  rw [if_pos ⟨f1, f2⟩, ea, ed]

theorem word_voteAll (a : BitVec 3) (d : BitVec 3) : WordOf (.voteAll a d) (encodeWord (.voteAll a d)) := by
  have hp : encodeWord (.voteAll a d) = packBits [(7, 59), (3, d.toNat), (3, 0), (3, a.toNat), (16, 512)] := by
    have := a.isLt; have := d.isLt
    change 33554491 + a.toNat * 8192 + d.toNat * 128 = _; simp only [packBits]; omega
  obtain ⟨uw, hu⟩ : ∃ uw, uw = packBits [(7, 59), (3, d.toNat), (3, 0), (3, a.toNat), (16, 512)] := ⟨_, rfl⟩
  rw [hp, ← hu]
  refine ⟨bits_at hu 0 0 rfl rfl (by decide) rfl, hu ▸ packBits_lt _, ?_⟩
  have f0 : bitsOf uw 1 6 = 29 := bits_at hu 0 1 rfl rfl (by decide) rfl
  have f1 : bitsOf uw 16 16 = 512 := bits_at hu 4 0 rfl rfl (by decide) rfl
  have f2 : bitsOf uw 10 3 = 0 := bits_at hu 2 0 rfl rfl (by decide) rfl
  have ea : fld uw 13 3 = a := fld_at hu 3 rfl rfl
  have ed : fld uw 7 3 = d := fld_at hu 1 rfl rfl
  rw [decodeWord_1d f0]
  unfold decodeMajor1d
  rw [if_neg (fun h => absurd (f1.symm.trans h.2) (by decide)), if_pos ⟨f2, f1⟩, ea, ed]

theorem word_voteBallot (a : BitVec 3) (d : BitVec 5) : WordOf (.voteBallot a d) (encodeWord (.voteBallot a d)) := by
  have hp : encodeWord (.voteBallot a d) = packBits [(7, 59), (5, d.toNat), (1, 0), (3, a.toNat), (16, 1024)] := by
    have := a.isLt; have := d.isLt
    change 67108923 + a.toNat * 8192 + d.toNat * 128 = _; simp only [packBits]; omega
  obtain ⟨uw, hu⟩ : ∃ uw, uw = packBits [(7, 59), (5, d.toNat), (1, 0), (3, a.toNat), (16, 1024)] := ⟨_, rfl⟩
  rw [hp, ← hu]
  refine ⟨bits_at hu 0 0 rfl rfl (by decide) rfl, hu ▸ packBits_lt _, ?_⟩
  have f0 : bitsOf uw 1 6 = 29 := bits_at hu 0 1 rfl rfl (by decide) rfl
  have f1 : bitsOf uw 16 16 = 1024 := bits_at hu 4 0 rfl rfl (by decide) rfl
  have f2 : bitsOf uw 12 1 = 0 := bits_at hu 2 0 rfl rfl (by decide) rfl
  have ea : fld uw 13 3 = a := fld_at hu 3 rfl rfl
  have ed : fld uw 7 5 = d := fld_at hu 1 rfl rfl
  rw [decodeWord_1d f0]
  unfold decodeMajor1d
  rw [if_neg (fun h => absurd (f1.symm.trans h.2) (by decide)), if_neg (fun h => absurd (f1.symm.trans h.2) (by decide)), if_pos ⟨f2, f1⟩, ea, ed]

theorem word_gredAdd (m : BitVec 2) (x : BitVec 1) (a : BitVec 6) (d : BitVec 6) : WordOf (.gredAdd m x a d) (encodeWord (.gredAdd m x a d)) := by
  have hp : encodeWord (.gredAdd m x a d) = packBits [(7, 61), (6, d.toNat), (6, a.toNat), (9, 0), (1, x.toNat), (1, 0), (2, m.toNat)] := by
    have := m.isLt; have := x.isLt; have := a.isLt; have := d.isLt
    change 61 + m.toNat * 1073741824 + x.toNat * 268435456 + a.toNat * 8192 + d.toNat * 128 = _; simp only [packBits]; omega
  obtain ⟨uw, hu⟩ : ∃ uw, uw = packBits [(7, 61), (6, d.toNat), (6, a.toNat), (9, 0), (1, x.toNat), (1, 0), (2, m.toNat)] := ⟨_, rfl⟩
  rw [hp, ← hu]
  refine ⟨bits_at hu 0 0 rfl rfl (by decide) rfl, hu ▸ packBits_lt _, ?_⟩
  have f0 : bitsOf uw 1 6 = 30 := bits_at hu 0 1 rfl rfl (by decide) rfl
  have f1 : bitsOf uw 19 9 = 0 := bits_at hu 3 0 rfl rfl (by decide) rfl
  have f2 : bitsOf uw 29 1 = 0 := bits_at hu 5 0 rfl rfl (by decide) rfl
  have em : fld uw 30 2 = m := fld_at hu 6 rfl rfl
  have ex : fld uw 28 1 = x := fld_at hu 4 rfl rfl
  have ea : fld uw 13 6 = a := fld_at hu 2 rfl rfl
  have ed : fld uw 7 6 = d := fld_at hu 1 rfl rfl
  rw [decodeWord_1e f0]
  unfold decodeMajor1e
  rw [if_pos ⟨f1, f2⟩, em, ex, ea, ed]

theorem word_gredMin (m : BitVec 2) (x : BitVec 1) (a : BitVec 6) (d : BitVec 6) : WordOf (.gredMin m x a d) (encodeWord (.gredMin m x a d)) := by
  have hp : encodeWord (.gredMin m x a d) = packBits [(7, 61), (6, d.toNat), (6, a.toNat), (9, 64), (1, x.toNat), (1, 0), (2, m.toNat)] := by
    have := m.isLt; have := x.isLt; have := a.isLt; have := d.isLt
    change 33554493 + m.toNat * 1073741824 + x.toNat * 268435456 + a.toNat * 8192 + d.toNat * 128 = _; simp only [packBits]; omega
  obtain ⟨uw, hu⟩ : ∃ uw, uw = packBits [(7, 61), (6, d.toNat), (6, a.toNat), (9, 64), (1, x.toNat), (1, 0), (2, m.toNat)] := ⟨_, rfl⟩
  rw [hp, ← hu]
  refine ⟨bits_at hu 0 0 rfl rfl (by decide) rfl, hu ▸ packBits_lt _, ?_⟩
  have f0 : bitsOf uw 1 6 = 30 := bits_at hu 0 1 rfl rfl (by decide) rfl
  have f1 : bitsOf uw 19 9 = 64 := bits_at hu 3 0 rfl rfl (by decide) rfl
  have f2 : bitsOf uw 29 1 = 0 := bits_at hu 5 0 rfl rfl (by decide) rfl
  have em : fld uw 30 2 = m := fld_at hu 6 rfl rfl
  have ex : fld uw 28 1 = x := fld_at hu 4 rfl rfl
  have ea : fld uw 13 6 = a := fld_at hu 2 rfl rfl
  have ed : fld uw 7 6 = d := fld_at hu 1 rfl rfl
  rw [decodeWord_1e f0]
  unfold decodeMajor1e
  rw [if_neg (fun h => absurd (f1.symm.trans h.1) (by decide)), if_pos ⟨f1, f2⟩, em, ex, ea, ed]

end Sys2Proof
end

