-- ==== Sys2Proof/Laws/EncodingB.lean ====
section
/-! SUPPORT. Every encoded instruction decodes to itself, one lemma per constructor with a word (02 R65, R66). -/

namespace Sys2Proof

theorem word_gredMax (m : BitVec 2) (x : BitVec 1) (a : BitVec 6) (d : BitVec 6) : WordOf (.gredMax m x a d) (encodeWord (.gredMax m x a d)) := by
  have hp : encodeWord (.gredMax m x a d) = packBits [(7, 61), (6, d.toNat), (6, a.toNat), (9, 128), (1, x.toNat), (1, 0), (2, m.toNat)] := by
    have := m.isLt; have := x.isLt; have := a.isLt; have := d.isLt
    change 67108925 + m.toNat * 1073741824 + x.toNat * 268435456 + a.toNat * 8192 + d.toNat * 128 = _; simp only [packBits]; omega
  obtain ⟨uw, hu⟩ : ∃ uw, uw = packBits [(7, 61), (6, d.toNat), (6, a.toNat), (9, 128), (1, x.toNat), (1, 0), (2, m.toNat)] := ⟨_, rfl⟩
  rw [hp, ← hu]
  refine ⟨bits_at hu 0 0 rfl rfl (by decide) rfl, hu ▸ packBits_lt _, ?_⟩
  have f0 : bitsOf uw 1 6 = 30 := bits_at hu 0 1 rfl rfl (by decide) rfl
  have f1 : bitsOf uw 19 9 = 128 := bits_at hu 3 0 rfl rfl (by decide) rfl
  have f2 : bitsOf uw 29 1 = 0 := bits_at hu 5 0 rfl rfl (by decide) rfl
  have em : fld uw 30 2 = m := fld_at hu 6 rfl rfl
  have ex : fld uw 28 1 = x := fld_at hu 4 rfl rfl
  have ea : fld uw 13 6 = a := fld_at hu 2 rfl rfl
  have ed : fld uw 7 6 = d := fld_at hu 1 rfl rfl
  rw [decodeWord_1e f0]
  unfold decodeMajor1e
  rw [if_neg (fun h => absurd (f1.symm.trans h.1) (by decide)), if_neg (fun h => absurd (f1.symm.trans h.1) (by decide)), if_pos ⟨f1, f2⟩, em, ex, ea, ed]

theorem word_gscanAdd (m : BitVec 2) (x : BitVec 1) (a : BitVec 6) (d : BitVec 6) : WordOf (.gscanAdd m x a d) (encodeWord (.gscanAdd m x a d)) := by
  have hp : encodeWord (.gscanAdd m x a d) = packBits [(7, 61), (6, d.toNat), (6, a.toNat), (9, 192), (1, x.toNat), (1, 0), (2, m.toNat)] := by
    have := m.isLt; have := x.isLt; have := a.isLt; have := d.isLt
    change 100663357 + m.toNat * 1073741824 + x.toNat * 268435456 + a.toNat * 8192 + d.toNat * 128 = _; simp only [packBits]; omega
  obtain ⟨uw, hu⟩ : ∃ uw, uw = packBits [(7, 61), (6, d.toNat), (6, a.toNat), (9, 192), (1, x.toNat), (1, 0), (2, m.toNat)] := ⟨_, rfl⟩
  rw [hp, ← hu]
  refine ⟨bits_at hu 0 0 rfl rfl (by decide) rfl, hu ▸ packBits_lt _, ?_⟩
  have f0 : bitsOf uw 1 6 = 30 := bits_at hu 0 1 rfl rfl (by decide) rfl
  have f1 : bitsOf uw 19 9 = 192 := bits_at hu 3 0 rfl rfl (by decide) rfl
  have f2 : bitsOf uw 29 1 = 0 := bits_at hu 5 0 rfl rfl (by decide) rfl
  have em : fld uw 30 2 = m := fld_at hu 6 rfl rfl
  have ex : fld uw 28 1 = x := fld_at hu 4 rfl rfl
  have ea : fld uw 13 6 = a := fld_at hu 2 rfl rfl
  have ed : fld uw 7 6 = d := fld_at hu 1 rfl rfl
  rw [decodeWord_1e f0]
  unfold decodeMajor1e
  rw [if_neg (fun h => absurd (f1.symm.trans h.1) (by decide)), if_neg (fun h => absurd (f1.symm.trans h.1) (by decide)), if_neg (fun h => absurd (f1.symm.trans h.1) (by decide)), if_pos ⟨f1, f2⟩, em, ex, ea, ed]

theorem word_rbal (x : BitVec 1) (b : BitVec 5) (a : BitVec 6) (d : BitVec 5) : WordOf (.rbal x b a d) (encodeWord (.rbal x b a d)) := by
  have hp : encodeWord (.rbal x b a d) = packBits [(8, 63), (5, d.toNat), (6, a.toNat), (5, b.toNat), (4, 0), (1, x.toNat), (3, 0)] := by
    have := x.isLt; have := b.isLt; have := a.isLt; have := d.isLt
    change 63 + x.toNat * 268435456 + b.toNat * 524288 + a.toNat * 8192 + d.toNat * 256 = _; simp only [packBits]; omega
  obtain ⟨uw, hu⟩ : ∃ uw, uw = packBits [(8, 63), (5, d.toNat), (6, a.toNat), (5, b.toNat), (4, 0), (1, x.toNat), (3, 0)] := ⟨_, rfl⟩
  rw [hp, ← hu]
  refine ⟨bits_at hu 0 0 rfl rfl (by decide) rfl, hu ▸ packBits_lt _, ?_⟩
  have f0 : bitsOf uw 1 6 = 31 := bits_at hu 0 1 rfl rfl (by decide) rfl
  have f1 : bitsOf uw 7 1 = 0 := bits_at hu 0 7 rfl rfl (by decide) rfl
  have f2 : bitsOf uw 24 4 = 0 := bits_at hu 4 0 rfl rfl (by decide) rfl
  have f3 : bitsOf uw 29 3 = 0 := bits_at hu 6 0 rfl rfl (by decide) rfl
  have ex : fld uw 28 1 = x := fld_at hu 5 rfl rfl
  have eb : fld uw 19 5 = b := fld_at hu 3 rfl rfl
  have ea : fld uw 13 6 = a := fld_at hu 2 rfl rfl
  have ed : fld uw 8 5 = d := fld_at hu 1 rfl rfl
  rw [decodeWord_1f f0]
  unfold decodeMajor1f
  rw [if_pos ⟨f1, f2, f3⟩, ex, eb, ea, ed]

theorem word_ld (m : BitVec 1) (r : BitVec 1) (l : BitVec 4) (s : BitVec 2) (i : BitVec 6) (k : BitVec 4) (d : BitVec 6) : WordOf (.ld m r l s i k d) (encodeWord (.ld m r l s i k d)) := by
  have hp : encodeWord (.ld m r l s i k d) = packBits [(7, 65), (6, d.toNat), (1, 0), (4, k.toNat), (6, i.toNat), (2, s.toNat), (4, l.toNat), (1, r.toNat), (1, m.toNat)] := by
    have := m.isLt; have := r.isLt; have := l.isLt; have := s.isLt; have := i.isLt; have := k.isLt; have := d.isLt
    change 65 + m.toNat * 2147483648 + r.toNat * 1073741824 + l.toNat * 67108864 + s.toNat * 16777216 + i.toNat * 262144 + k.toNat * 16384 + d.toNat * 128 = _; simp only [packBits]; omega
  obtain ⟨uw, hu⟩ : ∃ uw, uw = packBits [(7, 65), (6, d.toNat), (1, 0), (4, k.toNat), (6, i.toNat), (2, s.toNat), (4, l.toNat), (1, r.toNat), (1, m.toNat)] := ⟨_, rfl⟩
  rw [hp, ← hu]
  refine ⟨bits_at hu 0 0 rfl rfl (by decide) rfl, hu ▸ packBits_lt _, ?_⟩
  have f0 : bitsOf uw 1 6 = 32 := bits_at hu 0 1 rfl rfl (by decide) rfl
  have f1 : bitsOf uw 13 1 = 0 := bits_at hu 2 0 rfl rfl (by decide) rfl
  have em : fld uw 31 1 = m := fld_at hu 8 rfl rfl
  have er : fld uw 30 1 = r := fld_at hu 7 rfl rfl
  have el : fld uw 26 4 = l := fld_at hu 6 rfl rfl
  have es : fld uw 24 2 = s := fld_at hu 5 rfl rfl
  have ei : fld uw 18 6 = i := fld_at hu 4 rfl rfl
  have ek : fld uw 14 4 = k := fld_at hu 3 rfl rfl
  have ed : fld uw 7 6 = d := fld_at hu 1 rfl rfl
  rw [decodeWord_20 f0]
  unfold decodeMajor20
  rw [if_pos f1, em, er, el, es, ei, ek, ed]

theorem word_st (r : BitVec 1) (l : BitVec 4) (s : BitVec 2) (i : BitVec 6) (k : BitVec 4) (d : BitVec 6) : WordOf (.st r l s i k d) (encodeWord (.st r l s i k d)) := by
  have hp : encodeWord (.st r l s i k d) = packBits [(7, 67), (6, d.toNat), (1, 0), (4, k.toNat), (6, i.toNat), (2, s.toNat), (4, l.toNat), (1, r.toNat), (1, 0)] := by
    have := r.isLt; have := l.isLt; have := s.isLt; have := i.isLt; have := k.isLt; have := d.isLt
    change 67 + r.toNat * 1073741824 + l.toNat * 67108864 + s.toNat * 16777216 + i.toNat * 262144 + k.toNat * 16384 + d.toNat * 128 = _; simp only [packBits]; omega
  obtain ⟨uw, hu⟩ : ∃ uw, uw = packBits [(7, 67), (6, d.toNat), (1, 0), (4, k.toNat), (6, i.toNat), (2, s.toNat), (4, l.toNat), (1, r.toNat), (1, 0)] := ⟨_, rfl⟩
  rw [hp, ← hu]
  refine ⟨bits_at hu 0 0 rfl rfl (by decide) rfl, hu ▸ packBits_lt _, ?_⟩
  have f0 : bitsOf uw 1 6 = 33 := bits_at hu 0 1 rfl rfl (by decide) rfl
  have f1 : bitsOf uw 13 1 = 0 := bits_at hu 2 0 rfl rfl (by decide) rfl
  have f2 : bitsOf uw 31 1 = 0 := bits_at hu 8 0 rfl rfl (by decide) rfl
  have er : fld uw 30 1 = r := fld_at hu 7 rfl rfl
  have el : fld uw 26 4 = l := fld_at hu 6 rfl rfl
  have es : fld uw 24 2 = s := fld_at hu 5 rfl rfl
  have ei : fld uw 18 6 = i := fld_at hu 4 rfl rfl
  have ek : fld uw 14 4 = k := fld_at hu 3 rfl rfl
  have ed : fld uw 7 6 = d := fld_at hu 1 rfl rfl
  rw [decodeWord_21 f0]
  unfold decodeMajor21
  rw [if_pos ⟨f1, f2⟩, er, el, es, ei, ek, ed]

theorem word_ldQ (r : BitVec 1) (l : BitVec 4) (i : BitVec 6) (k : BitVec 4) (d : BitVec 4) : WordOf (.ldQ r l i k d) (encodeWord (.ldQ r l i k d)) := by
  have hp : encodeWord (.ldQ r l i k d) = packBits [(9, 69), (4, d.toNat), (1, 0), (4, k.toNat), (6, i.toNat), (2, 0), (4, l.toNat), (1, r.toNat), (1, 0)] := by
    have := r.isLt; have := l.isLt; have := i.isLt; have := k.isLt; have := d.isLt
    change 69 + r.toNat * 1073741824 + l.toNat * 67108864 + i.toNat * 262144 + k.toNat * 16384 + d.toNat * 512 = _; simp only [packBits]; omega
  obtain ⟨uw, hu⟩ : ∃ uw, uw = packBits [(9, 69), (4, d.toNat), (1, 0), (4, k.toNat), (6, i.toNat), (2, 0), (4, l.toNat), (1, r.toNat), (1, 0)] := ⟨_, rfl⟩
  rw [hp, ← hu]
  refine ⟨bits_at hu 0 0 rfl rfl (by decide) rfl, hu ▸ packBits_lt _, ?_⟩
  have f0 : bitsOf uw 1 6 = 34 := bits_at hu 0 1 rfl rfl (by decide) rfl
  have f1 : bitsOf uw 7 2 = 0 := bits_at hu 0 7 rfl rfl (by decide) rfl
  have f2 : bitsOf uw 13 1 = 0 := bits_at hu 2 0 rfl rfl (by decide) rfl
  have f3 : bitsOf uw 24 2 = 0 := bits_at hu 5 0 rfl rfl (by decide) rfl
  have f4 : bitsOf uw 31 1 = 0 := bits_at hu 8 0 rfl rfl (by decide) rfl
  have er : fld uw 30 1 = r := fld_at hu 7 rfl rfl
  have el : fld uw 26 4 = l := fld_at hu 6 rfl rfl
  have ei : fld uw 18 6 = i := fld_at hu 4 rfl rfl
  have ek : fld uw 14 4 = k := fld_at hu 3 rfl rfl
  have ed : fld uw 9 4 = d := fld_at hu 1 rfl rfl
  rw [decodeWord_22 f0]
  unfold decodeMajor22
  rw [if_pos ⟨f1, f2, f3, f4⟩, er, el, ei, ek, ed]

theorem word_stQ (r : BitVec 1) (l : BitVec 4) (i : BitVec 6) (k : BitVec 4) (d : BitVec 4) : WordOf (.stQ r l i k d) (encodeWord (.stQ r l i k d)) := by
  have hp : encodeWord (.stQ r l i k d) = packBits [(9, 69), (4, d.toNat), (1, 0), (4, k.toNat), (6, i.toNat), (2, 0), (4, l.toNat), (1, r.toNat), (1, 1)] := by
    have := r.isLt; have := l.isLt; have := i.isLt; have := k.isLt; have := d.isLt
    change 2147483717 + r.toNat * 1073741824 + l.toNat * 67108864 + i.toNat * 262144 + k.toNat * 16384 + d.toNat * 512 = _; simp only [packBits]; omega
  obtain ⟨uw, hu⟩ : ∃ uw, uw = packBits [(9, 69), (4, d.toNat), (1, 0), (4, k.toNat), (6, i.toNat), (2, 0), (4, l.toNat), (1, r.toNat), (1, 1)] := ⟨_, rfl⟩
  rw [hp, ← hu]
  refine ⟨bits_at hu 0 0 rfl rfl (by decide) rfl, hu ▸ packBits_lt _, ?_⟩
  have f0 : bitsOf uw 1 6 = 34 := bits_at hu 0 1 rfl rfl (by decide) rfl
  have f1 : bitsOf uw 31 1 = 1 := bits_at hu 8 0 rfl rfl (by decide) rfl
  have f2 : bitsOf uw 7 2 = 0 := bits_at hu 0 7 rfl rfl (by decide) rfl
  have f3 : bitsOf uw 13 1 = 0 := bits_at hu 2 0 rfl rfl (by decide) rfl
  have f4 : bitsOf uw 24 2 = 0 := bits_at hu 5 0 rfl rfl (by decide) rfl
  have er : fld uw 30 1 = r := fld_at hu 7 rfl rfl
  have el : fld uw 26 4 = l := fld_at hu 6 rfl rfl
  have ei : fld uw 18 6 = i := fld_at hu 4 rfl rfl
  have ek : fld uw 14 4 = k := fld_at hu 3 rfl rfl
  have ed : fld uw 9 4 = d := fld_at hu 1 rfl rfl
  rw [decodeWord_22 f0]
  unfold decodeMajor22
  rw [if_neg (fun h => absurd (f1.symm.trans h.2.2.2) (by decide)), if_pos ⟨f2, f3, f4, f1⟩, er, el, ei, ek, ed]

theorem word_ldRo (m : BitVec 1) (r : BitVec 1) (l : BitVec 4) (s : BitVec 2) (i : BitVec 6) (k : BitVec 4) (d : BitVec 6) : WordOf (.ldRo m r l s i k d) (encodeWord (.ldRo m r l s i k d)) := by
  have hp : encodeWord (.ldRo m r l s i k d) = packBits [(7, 71), (6, d.toNat), (1, 0), (4, k.toNat), (6, i.toNat), (2, s.toNat), (4, l.toNat), (1, r.toNat), (1, m.toNat)] := by
    have := m.isLt; have := r.isLt; have := l.isLt; have := s.isLt; have := i.isLt; have := k.isLt; have := d.isLt
    change 71 + m.toNat * 2147483648 + r.toNat * 1073741824 + l.toNat * 67108864 + s.toNat * 16777216 + i.toNat * 262144 + k.toNat * 16384 + d.toNat * 128 = _; simp only [packBits]; omega
  obtain ⟨uw, hu⟩ : ∃ uw, uw = packBits [(7, 71), (6, d.toNat), (1, 0), (4, k.toNat), (6, i.toNat), (2, s.toNat), (4, l.toNat), (1, r.toNat), (1, m.toNat)] := ⟨_, rfl⟩
  rw [hp, ← hu]
  refine ⟨bits_at hu 0 0 rfl rfl (by decide) rfl, hu ▸ packBits_lt _, ?_⟩
  have f0 : bitsOf uw 1 6 = 35 := bits_at hu 0 1 rfl rfl (by decide) rfl
  have f1 : bitsOf uw 13 1 = 0 := bits_at hu 2 0 rfl rfl (by decide) rfl
  have em : fld uw 31 1 = m := fld_at hu 8 rfl rfl
  have er : fld uw 30 1 = r := fld_at hu 7 rfl rfl
  have el : fld uw 26 4 = l := fld_at hu 6 rfl rfl
  have es : fld uw 24 2 = s := fld_at hu 5 rfl rfl
  have ei : fld uw 18 6 = i := fld_at hu 4 rfl rfl
  have ek : fld uw 14 4 = k := fld_at hu 3 rfl rfl
  have ed : fld uw 7 6 = d := fld_at hu 1 rfl rfl
  rw [decodeWord_23 f0]
  unfold decodeMajor23
  rw [if_pos f1, em, er, el, es, ei, ek, ed]

theorem word_ldk (l : BitVec 4) (s : BitVec 1) (k : BitVec 4) (d : BitVec 5) : WordOf (.ldk l s k d) (encodeWord (.ldk l s k d)) := by
  have hp : encodeWord (.ldk l s k d) = packBits [(7, 73), (5, d.toNat), (2, 0), (4, k.toNat), (6, 63), (1, s.toNat), (1, 1), (4, l.toNat), (2, 0)] := by
    have := l.isLt; have := s.isLt; have := k.isLt; have := d.isLt
    change 50069577 + l.toNat * 67108864 + s.toNat * 16777216 + k.toNat * 16384 + d.toNat * 128 = _; simp only [packBits]; omega
  obtain ⟨uw, hu⟩ : ∃ uw, uw = packBits [(7, 73), (5, d.toNat), (2, 0), (4, k.toNat), (6, 63), (1, s.toNat), (1, 1), (4, l.toNat), (2, 0)] := ⟨_, rfl⟩
  rw [hp, ← hu]
  refine ⟨bits_at hu 0 0 rfl rfl (by decide) rfl, hu ▸ packBits_lt _, ?_⟩
  have f0 : bitsOf uw 1 6 = 36 := bits_at hu 0 1 rfl rfl (by decide) rfl
  have f1 : bitsOf uw 12 2 = 0 := bits_at hu 2 0 rfl rfl (by decide) rfl
  have f2 : bitsOf uw 18 6 = 63 := bits_at hu 4 0 rfl rfl (by decide) rfl
  have f3 : bitsOf uw 25 1 = 1 := bits_at hu 6 0 rfl rfl (by decide) rfl
  have f4 : bitsOf uw 30 2 = 0 := bits_at hu 8 0 rfl rfl (by decide) rfl
  have el : fld uw 26 4 = l := fld_at hu 7 rfl rfl
  have es : fld uw 24 1 = s := fld_at hu 5 rfl rfl
  have ek : fld uw 14 4 = k := fld_at hu 3 rfl rfl
  have ed : fld uw 7 5 = d := fld_at hu 1 rfl rfl
  rw [decodeWord_24 f0]
  unfold decodeMajor24
  rw [if_pos ⟨f1, f2, f3, f4⟩, el, es, ek, ed]

theorem word_ldl (l : BitVec 4) (s : BitVec 2) (k : BitVec 4) (d : BitVec 6) : WordOf (.ldl l s k d) (encodeWord (.ldl l s k d)) := by
  have hp : encodeWord (.ldl l s k d) = packBits [(7, 73), (6, d.toNat), (1, 0), (4, k.toNat), (6, 63), (2, s.toNat), (4, l.toNat), (2, 2)] := by
    have := l.isLt; have := s.isLt; have := k.isLt; have := d.isLt
    change 2163998793 + l.toNat * 67108864 + s.toNat * 16777216 + k.toNat * 16384 + d.toNat * 128 = _; simp only [packBits]; omega
  obtain ⟨uw, hu⟩ : ∃ uw, uw = packBits [(7, 73), (6, d.toNat), (1, 0), (4, k.toNat), (6, 63), (2, s.toNat), (4, l.toNat), (2, 2)] := ⟨_, rfl⟩
  rw [hp, ← hu]
  refine ⟨bits_at hu 0 0 rfl rfl (by decide) rfl, hu ▸ packBits_lt _, ?_⟩
  have f0 : bitsOf uw 1 6 = 36 := bits_at hu 0 1 rfl rfl (by decide) rfl
  have f1 : bitsOf uw 30 2 = 2 := bits_at hu 7 0 rfl rfl (by decide) rfl
  have f2 : bitsOf uw 13 1 = 0 := bits_at hu 2 0 rfl rfl (by decide) rfl
  have f3 : bitsOf uw 18 6 = 63 := bits_at hu 4 0 rfl rfl (by decide) rfl
  have el : fld uw 26 4 = l := fld_at hu 6 rfl rfl
  have es : fld uw 24 2 = s := fld_at hu 5 rfl rfl
  have ek : fld uw 14 4 = k := fld_at hu 3 rfl rfl
  have ed : fld uw 7 6 = d := fld_at hu 1 rfl rfl
  rw [decodeWord_24 f0]
  unfold decodeMajor24
  rw [if_neg (fun h => absurd (f1.symm.trans h.2.2.2) (by decide)), if_pos ⟨f2, f3, f1⟩, el, es, ek, ed]

theorem word_lds (r : BitVec 1) (l : BitVec 4) (s : BitVec 2) (i : BitVec 6) (k : BitVec 5) (d : BitVec 6) : WordOf (.lds r l s i k d) (encodeWord (.lds r l s i k d)) := by
  have hp : encodeWord (.lds r l s i k d) = packBits [(7, 75), (6, d.toNat), (5, k.toNat), (6, i.toNat), (2, s.toNat), (4, l.toNat), (1, r.toNat), (1, 0)] := by
    have := r.isLt; have := l.isLt; have := s.isLt; have := i.isLt; have := k.isLt; have := d.isLt
    change 75 + r.toNat * 1073741824 + l.toNat * 67108864 + s.toNat * 16777216 + i.toNat * 262144 + k.toNat * 8192 + d.toNat * 128 = _; simp only [packBits]; omega
  obtain ⟨uw, hu⟩ : ∃ uw, uw = packBits [(7, 75), (6, d.toNat), (5, k.toNat), (6, i.toNat), (2, s.toNat), (4, l.toNat), (1, r.toNat), (1, 0)] := ⟨_, rfl⟩
  rw [hp, ← hu]
  refine ⟨bits_at hu 0 0 rfl rfl (by decide) rfl, hu ▸ packBits_lt _, ?_⟩
  have f0 : bitsOf uw 1 6 = 37 := bits_at hu 0 1 rfl rfl (by decide) rfl
  have f1 : bitsOf uw 31 1 = 0 := bits_at hu 7 0 rfl rfl (by decide) rfl
  have er : fld uw 30 1 = r := fld_at hu 6 rfl rfl
  have el : fld uw 26 4 = l := fld_at hu 5 rfl rfl
  have es : fld uw 24 2 = s := fld_at hu 4 rfl rfl
  have ei : fld uw 18 6 = i := fld_at hu 3 rfl rfl
  have ek : fld uw 13 5 = k := fld_at hu 2 rfl rfl
  have ed : fld uw 7 6 = d := fld_at hu 1 rfl rfl
  rw [decodeWord_25 f0]
  unfold decodeMajor25
  rw [if_pos f1, er, el, es, ei, ek, ed]

theorem word_sts (r : BitVec 1) (l : BitVec 4) (s : BitVec 2) (i : BitVec 6) (k : BitVec 5) (d : BitVec 6) : WordOf (.sts r l s i k d) (encodeWord (.sts r l s i k d)) := by
  have hp : encodeWord (.sts r l s i k d) = packBits [(7, 75), (6, d.toNat), (5, k.toNat), (6, i.toNat), (2, s.toNat), (4, l.toNat), (1, r.toNat), (1, 1)] := by
    have := r.isLt; have := l.isLt; have := s.isLt; have := i.isLt; have := k.isLt; have := d.isLt
    change 2147483723 + r.toNat * 1073741824 + l.toNat * 67108864 + s.toNat * 16777216 + i.toNat * 262144 + k.toNat * 8192 + d.toNat * 128 = _; simp only [packBits]; omega
  obtain ⟨uw, hu⟩ : ∃ uw, uw = packBits [(7, 75), (6, d.toNat), (5, k.toNat), (6, i.toNat), (2, s.toNat), (4, l.toNat), (1, r.toNat), (1, 1)] := ⟨_, rfl⟩
  rw [hp, ← hu]
  refine ⟨bits_at hu 0 0 rfl rfl (by decide) rfl, hu ▸ packBits_lt _, ?_⟩
  have f0 : bitsOf uw 1 6 = 37 := bits_at hu 0 1 rfl rfl (by decide) rfl
  have f1 : bitsOf uw 31 1 = 1 := bits_at hu 7 0 rfl rfl (by decide) rfl
  have er : fld uw 30 1 = r := fld_at hu 6 rfl rfl
  have el : fld uw 26 4 = l := fld_at hu 5 rfl rfl
  have es : fld uw 24 2 = s := fld_at hu 4 rfl rfl
  have ei : fld uw 18 6 = i := fld_at hu 3 rfl rfl
  have ek : fld uw 13 5 = k := fld_at hu 2 rfl rfl
  have ed : fld uw 7 6 = d := fld_at hu 1 rfl rfl
  rw [decodeWord_25 f0]
  unfold decodeMajor25
  rw [if_neg (fun h => absurd (f1.symm.trans h) (by decide)), if_pos f1, er, el, es, ei, ek, ed]

theorem word_ldsd (r : BitVec 1) (l : BitVec 4) (s : BitVec 2) (i : BitVec 6) (k : BitVec 5) (d : BitVec 6) : WordOf (.ldsd r l s i k d) (encodeWord (.ldsd r l s i k d)) := by
  have hp : encodeWord (.ldsd r l s i k d) = packBits [(7, 77), (6, d.toNat), (5, k.toNat), (6, i.toNat), (2, s.toNat), (4, l.toNat), (1, r.toNat), (1, 0)] := by
    have := r.isLt; have := l.isLt; have := s.isLt; have := i.isLt; have := k.isLt; have := d.isLt
    change 77 + r.toNat * 1073741824 + l.toNat * 67108864 + s.toNat * 16777216 + i.toNat * 262144 + k.toNat * 8192 + d.toNat * 128 = _; simp only [packBits]; omega
  obtain ⟨uw, hu⟩ : ∃ uw, uw = packBits [(7, 77), (6, d.toNat), (5, k.toNat), (6, i.toNat), (2, s.toNat), (4, l.toNat), (1, r.toNat), (1, 0)] := ⟨_, rfl⟩
  rw [hp, ← hu]
  refine ⟨bits_at hu 0 0 rfl rfl (by decide) rfl, hu ▸ packBits_lt _, ?_⟩
  have f0 : bitsOf uw 1 6 = 38 := bits_at hu 0 1 rfl rfl (by decide) rfl
  have f1 : bitsOf uw 31 1 = 0 := bits_at hu 7 0 rfl rfl (by decide) rfl
  have er : fld uw 30 1 = r := fld_at hu 6 rfl rfl
  have el : fld uw 26 4 = l := fld_at hu 5 rfl rfl
  have es : fld uw 24 2 = s := fld_at hu 4 rfl rfl
  have ei : fld uw 18 6 = i := fld_at hu 3 rfl rfl
  have ek : fld uw 13 5 = k := fld_at hu 2 rfl rfl
  have ed : fld uw 7 6 = d := fld_at hu 1 rfl rfl
  rw [decodeWord_26 f0]
  unfold decodeMajor26
  rw [if_pos f1, er, el, es, ei, ek, ed]

theorem word_stsd (r : BitVec 1) (l : BitVec 4) (s : BitVec 2) (i : BitVec 6) (k : BitVec 5) (d : BitVec 6) : WordOf (.stsd r l s i k d) (encodeWord (.stsd r l s i k d)) := by
  have hp : encodeWord (.stsd r l s i k d) = packBits [(7, 77), (6, d.toNat), (5, k.toNat), (6, i.toNat), (2, s.toNat), (4, l.toNat), (1, r.toNat), (1, 1)] := by
    have := r.isLt; have := l.isLt; have := s.isLt; have := i.isLt; have := k.isLt; have := d.isLt
    change 2147483725 + r.toNat * 1073741824 + l.toNat * 67108864 + s.toNat * 16777216 + i.toNat * 262144 + k.toNat * 8192 + d.toNat * 128 = _; simp only [packBits]; omega
  obtain ⟨uw, hu⟩ : ∃ uw, uw = packBits [(7, 77), (6, d.toNat), (5, k.toNat), (6, i.toNat), (2, s.toNat), (4, l.toNat), (1, r.toNat), (1, 1)] := ⟨_, rfl⟩
  rw [hp, ← hu]
  refine ⟨bits_at hu 0 0 rfl rfl (by decide) rfl, hu ▸ packBits_lt _, ?_⟩
  have f0 : bitsOf uw 1 6 = 38 := bits_at hu 0 1 rfl rfl (by decide) rfl
  have f1 : bitsOf uw 31 1 = 1 := bits_at hu 7 0 rfl rfl (by decide) rfl
  have er : fld uw 30 1 = r := fld_at hu 6 rfl rfl
  have el : fld uw 26 4 = l := fld_at hu 5 rfl rfl
  have es : fld uw 24 2 = s := fld_at hu 4 rfl rfl
  have ei : fld uw 18 6 = i := fld_at hu 3 rfl rfl
  have ek : fld uw 13 5 = k := fld_at hu 2 rfl rfl
  have ed : fld uw 7 6 = d := fld_at hu 1 rfl rfl
  rw [decodeWord_26 f0]
  unfold decodeMajor26
  rw [if_neg (fun h => absurd (f1.symm.trans h) (by decide)), if_pos f1, er, el, es, ei, ek, ed]

theorem word_pf (r : BitVec 1) (l : BitVec 4) (i : BitVec 6) (k : BitVec 4) : WordOf (.pf r l i k) (encodeWord (.pf r l i k)) := by
  have hp : encodeWord (.pf r l i k) = packBits [(14, 79), (4, k.toNat), (6, i.toNat), (2, 0), (4, l.toNat), (1, r.toNat), (1, 0)] := by
    have := r.isLt; have := l.isLt; have := i.isLt; have := k.isLt
    change 79 + r.toNat * 1073741824 + l.toNat * 67108864 + i.toNat * 262144 + k.toNat * 16384 = _; simp only [packBits]; omega
  obtain ⟨uw, hu⟩ : ∃ uw, uw = packBits [(14, 79), (4, k.toNat), (6, i.toNat), (2, 0), (4, l.toNat), (1, r.toNat), (1, 0)] := ⟨_, rfl⟩
  rw [hp, ← hu]
  refine ⟨bits_at hu 0 0 rfl rfl (by decide) rfl, hu ▸ packBits_lt _, ?_⟩
  have f0 : bitsOf uw 1 6 = 39 := bits_at hu 0 1 rfl rfl (by decide) rfl
  have f1 : bitsOf uw 7 7 = 0 := bits_at hu 0 7 rfl rfl (by decide) rfl
  have f2 : bitsOf uw 24 2 = 0 := bits_at hu 3 0 rfl rfl (by decide) rfl
  have f3 : bitsOf uw 31 1 = 0 := bits_at hu 6 0 rfl rfl (by decide) rfl
  have er : fld uw 30 1 = r := fld_at hu 5 rfl rfl
  have el : fld uw 26 4 = l := fld_at hu 4 rfl rfl
  have ei : fld uw 18 6 = i := fld_at hu 2 rfl rfl
  have ek : fld uw 14 4 = k := fld_at hu 1 rfl rfl
  rw [decodeWord_27 f0]
  unfold decodeMajor27
  rw [if_pos ⟨f1, f2, f3⟩, er, el, ei, ek]

theorem word_mwait (l : BitVec 4) (k : BitVec 4) (d : BitVec 4) : WordOf (.mwait l k d) (encodeWord (.mwait l k d)) := by
  have hp : encodeWord (.mwait l k d) = packBits [(8, 79), (4, d.toNat), (2, 0), (4, k.toNat), (8, 255), (4, l.toNat), (2, 2)] := by
    have := l.isLt; have := k.isLt; have := d.isLt
    change 2214330447 + l.toNat * 67108864 + k.toNat * 16384 + d.toNat * 256 = _; simp only [packBits]; omega
  obtain ⟨uw, hu⟩ : ∃ uw, uw = packBits [(8, 79), (4, d.toNat), (2, 0), (4, k.toNat), (8, 255), (4, l.toNat), (2, 2)] := ⟨_, rfl⟩
  rw [hp, ← hu]
  refine ⟨bits_at hu 0 0 rfl rfl (by decide) rfl, hu ▸ packBits_lt _, ?_⟩
  have f0 : bitsOf uw 1 6 = 39 := bits_at hu 0 1 rfl rfl (by decide) rfl
  have f1 : bitsOf uw 24 2 = 3 := bits_at hu 4 6 rfl rfl (by decide) rfl
  have f2 : bitsOf uw 7 1 = 0 := bits_at hu 0 7 rfl rfl (by decide) rfl
  have f3 : bitsOf uw 12 2 = 0 := bits_at hu 2 0 rfl rfl (by decide) rfl
  have f4 : bitsOf uw 18 8 = 255 := bits_at hu 4 0 rfl rfl (by decide) rfl
  have f5 : bitsOf uw 30 2 = 2 := bits_at hu 6 0 rfl rfl (by decide) rfl
  have el : fld uw 26 4 = l := fld_at hu 5 rfl rfl
  have ek : fld uw 14 4 = k := fld_at hu 3 rfl rfl
  have ed : fld uw 8 4 = d := fld_at hu 1 rfl rfl
  rw [decodeWord_27 f0]
  unfold decodeMajor27
  rw [if_neg (fun h => absurd (f1.symm.trans h.2.1) (by decide)), if_pos ⟨f2, f3, f4, f5⟩, el, ek, ed]

theorem word_atomAdd (m : BitVec 2) (y : BitVec 1) (x : BitVec 1) (b : BitVec 6) (a : BitVec 5) (d : BitVec 6) : WordOf (.atomAdd m y x b a d) (encodeWord (.atomAdd m y x b a d)) := by
  have hp : encodeWord (.atomAdd m y x b a d) = packBits [(7, 81), (6, d.toNat), (1, 0), (5, a.toNat), (6, b.toNat), (3, 0), (1, x.toNat), (1, y.toNat), (2, m.toNat)] := by
    have := m.isLt; have := y.isLt; have := x.isLt; have := b.isLt; have := a.isLt; have := d.isLt
    change 81 + m.toNat * 1073741824 + y.toNat * 536870912 + x.toNat * 268435456 + b.toNat * 524288 + a.toNat * 16384 + d.toNat * 128 = _; simp only [packBits]; omega
  obtain ⟨uw, hu⟩ : ∃ uw, uw = packBits [(7, 81), (6, d.toNat), (1, 0), (5, a.toNat), (6, b.toNat), (3, 0), (1, x.toNat), (1, y.toNat), (2, m.toNat)] := ⟨_, rfl⟩
  rw [hp, ← hu]
  refine ⟨bits_at hu 0 0 rfl rfl (by decide) rfl, hu ▸ packBits_lt _, ?_⟩
  have f0 : bitsOf uw 1 6 = 40 := bits_at hu 0 1 rfl rfl (by decide) rfl
  have f1 : bitsOf uw 13 1 = 0 := bits_at hu 2 0 rfl rfl (by decide) rfl
  have f2 : bitsOf uw 25 3 = 0 := bits_at hu 5 0 rfl rfl (by decide) rfl
  have em : fld uw 30 2 = m := fld_at hu 8 rfl rfl
  have ey : fld uw 29 1 = y := fld_at hu 7 rfl rfl
  have ex : fld uw 28 1 = x := fld_at hu 6 rfl rfl
  have eb : fld uw 19 6 = b := fld_at hu 4 rfl rfl
  have ea : fld uw 14 5 = a := fld_at hu 3 rfl rfl
  have ed : fld uw 7 6 = d := fld_at hu 1 rfl rfl
  rw [decodeWord_28 f0]
  unfold decodeMajor28
  rw [if_pos ⟨f1, f2⟩, em, ey, ex, eb, ea, ed]

theorem word_atomMin (m : BitVec 2) (y : BitVec 1) (x : BitVec 1) (b : BitVec 6) (a : BitVec 5) (d : BitVec 6) : WordOf (.atomMin m y x b a d) (encodeWord (.atomMin m y x b a d)) := by
  have hp : encodeWord (.atomMin m y x b a d) = packBits [(7, 81), (6, d.toNat), (1, 0), (5, a.toNat), (6, b.toNat), (3, 1), (1, x.toNat), (1, y.toNat), (2, m.toNat)] := by
    have := m.isLt; have := y.isLt; have := x.isLt; have := b.isLt; have := a.isLt; have := d.isLt
    change 33554513 + m.toNat * 1073741824 + y.toNat * 536870912 + x.toNat * 268435456 + b.toNat * 524288 + a.toNat * 16384 + d.toNat * 128 = _; simp only [packBits]; omega
  obtain ⟨uw, hu⟩ : ∃ uw, uw = packBits [(7, 81), (6, d.toNat), (1, 0), (5, a.toNat), (6, b.toNat), (3, 1), (1, x.toNat), (1, y.toNat), (2, m.toNat)] := ⟨_, rfl⟩
  rw [hp, ← hu]
  refine ⟨bits_at hu 0 0 rfl rfl (by decide) rfl, hu ▸ packBits_lt _, ?_⟩
  have f0 : bitsOf uw 1 6 = 40 := bits_at hu 0 1 rfl rfl (by decide) rfl
  have f1 : bitsOf uw 25 3 = 1 := bits_at hu 5 0 rfl rfl (by decide) rfl
  have f2 : bitsOf uw 13 1 = 0 := bits_at hu 2 0 rfl rfl (by decide) rfl
  have em : fld uw 30 2 = m := fld_at hu 8 rfl rfl
  have ey : fld uw 29 1 = y := fld_at hu 7 rfl rfl
  have ex : fld uw 28 1 = x := fld_at hu 6 rfl rfl
  have eb : fld uw 19 6 = b := fld_at hu 4 rfl rfl
  have ea : fld uw 14 5 = a := fld_at hu 3 rfl rfl
  have ed : fld uw 7 6 = d := fld_at hu 1 rfl rfl
  rw [decodeWord_28 f0]
  unfold decodeMajor28
  rw [if_neg (fun h => absurd (f1.symm.trans h.2) (by decide)), if_pos ⟨f2, f1⟩, em, ey, ex, eb, ea, ed]

theorem word_atomMax (m : BitVec 2) (y : BitVec 1) (x : BitVec 1) (b : BitVec 6) (a : BitVec 5) (d : BitVec 6) : WordOf (.atomMax m y x b a d) (encodeWord (.atomMax m y x b a d)) := by
  have hp : encodeWord (.atomMax m y x b a d) = packBits [(7, 81), (6, d.toNat), (1, 0), (5, a.toNat), (6, b.toNat), (3, 2), (1, x.toNat), (1, y.toNat), (2, m.toNat)] := by
    have := m.isLt; have := y.isLt; have := x.isLt; have := b.isLt; have := a.isLt; have := d.isLt
    change 67108945 + m.toNat * 1073741824 + y.toNat * 536870912 + x.toNat * 268435456 + b.toNat * 524288 + a.toNat * 16384 + d.toNat * 128 = _; simp only [packBits]; omega
  obtain ⟨uw, hu⟩ : ∃ uw, uw = packBits [(7, 81), (6, d.toNat), (1, 0), (5, a.toNat), (6, b.toNat), (3, 2), (1, x.toNat), (1, y.toNat), (2, m.toNat)] := ⟨_, rfl⟩
  rw [hp, ← hu]
  refine ⟨bits_at hu 0 0 rfl rfl (by decide) rfl, hu ▸ packBits_lt _, ?_⟩
  have f0 : bitsOf uw 1 6 = 40 := bits_at hu 0 1 rfl rfl (by decide) rfl
  have f1 : bitsOf uw 25 3 = 2 := bits_at hu 5 0 rfl rfl (by decide) rfl
  have f2 : bitsOf uw 13 1 = 0 := bits_at hu 2 0 rfl rfl (by decide) rfl
  have em : fld uw 30 2 = m := fld_at hu 8 rfl rfl
  have ey : fld uw 29 1 = y := fld_at hu 7 rfl rfl
  have ex : fld uw 28 1 = x := fld_at hu 6 rfl rfl
  have eb : fld uw 19 6 = b := fld_at hu 4 rfl rfl
  have ea : fld uw 14 5 = a := fld_at hu 3 rfl rfl
  have ed : fld uw 7 6 = d := fld_at hu 1 rfl rfl
  rw [decodeWord_28 f0]
  unfold decodeMajor28
  rw [if_neg (fun h => absurd (f1.symm.trans h.2) (by decide)), if_neg (fun h => absurd (f1.symm.trans h.2) (by decide)), if_pos ⟨f2, f1⟩, em, ey, ex, eb, ea, ed]

theorem word_atomAnd (m : BitVec 2) (y : BitVec 1) (x : BitVec 1) (b : BitVec 6) (a : BitVec 5) (d : BitVec 6) : WordOf (.atomAnd m y x b a d) (encodeWord (.atomAnd m y x b a d)) := by
  have hp : encodeWord (.atomAnd m y x b a d) = packBits [(7, 81), (6, d.toNat), (1, 0), (5, a.toNat), (6, b.toNat), (3, 3), (1, x.toNat), (1, y.toNat), (2, m.toNat)] := by
    have := m.isLt; have := y.isLt; have := x.isLt; have := b.isLt; have := a.isLt; have := d.isLt
    change 100663377 + m.toNat * 1073741824 + y.toNat * 536870912 + x.toNat * 268435456 + b.toNat * 524288 + a.toNat * 16384 + d.toNat * 128 = _; simp only [packBits]; omega
  obtain ⟨uw, hu⟩ : ∃ uw, uw = packBits [(7, 81), (6, d.toNat), (1, 0), (5, a.toNat), (6, b.toNat), (3, 3), (1, x.toNat), (1, y.toNat), (2, m.toNat)] := ⟨_, rfl⟩
  rw [hp, ← hu]
  refine ⟨bits_at hu 0 0 rfl rfl (by decide) rfl, hu ▸ packBits_lt _, ?_⟩
  have f0 : bitsOf uw 1 6 = 40 := bits_at hu 0 1 rfl rfl (by decide) rfl
  have f1 : bitsOf uw 25 3 = 3 := bits_at hu 5 0 rfl rfl (by decide) rfl
  have f2 : bitsOf uw 13 1 = 0 := bits_at hu 2 0 rfl rfl (by decide) rfl
  have em : fld uw 30 2 = m := fld_at hu 8 rfl rfl
  have ey : fld uw 29 1 = y := fld_at hu 7 rfl rfl
  have ex : fld uw 28 1 = x := fld_at hu 6 rfl rfl
  have eb : fld uw 19 6 = b := fld_at hu 4 rfl rfl
  have ea : fld uw 14 5 = a := fld_at hu 3 rfl rfl
  have ed : fld uw 7 6 = d := fld_at hu 1 rfl rfl
  rw [decodeWord_28 f0]
  unfold decodeMajor28
  rw [if_neg (fun h => absurd (f1.symm.trans h.2) (by decide)), if_neg (fun h => absurd (f1.symm.trans h.2) (by decide)), if_neg (fun h => absurd (f1.symm.trans h.2) (by decide)), if_pos ⟨f2, f1⟩, em, ey, ex, eb, ea, ed]

theorem word_atomOr (m : BitVec 2) (y : BitVec 1) (x : BitVec 1) (b : BitVec 6) (a : BitVec 5) (d : BitVec 6) : WordOf (.atomOr m y x b a d) (encodeWord (.atomOr m y x b a d)) := by
  have hp : encodeWord (.atomOr m y x b a d) = packBits [(7, 81), (6, d.toNat), (1, 0), (5, a.toNat), (6, b.toNat), (3, 4), (1, x.toNat), (1, y.toNat), (2, m.toNat)] := by
    have := m.isLt; have := y.isLt; have := x.isLt; have := b.isLt; have := a.isLt; have := d.isLt
    change 134217809 + m.toNat * 1073741824 + y.toNat * 536870912 + x.toNat * 268435456 + b.toNat * 524288 + a.toNat * 16384 + d.toNat * 128 = _; simp only [packBits]; omega
  obtain ⟨uw, hu⟩ : ∃ uw, uw = packBits [(7, 81), (6, d.toNat), (1, 0), (5, a.toNat), (6, b.toNat), (3, 4), (1, x.toNat), (1, y.toNat), (2, m.toNat)] := ⟨_, rfl⟩
  rw [hp, ← hu]
  refine ⟨bits_at hu 0 0 rfl rfl (by decide) rfl, hu ▸ packBits_lt _, ?_⟩
  have f0 : bitsOf uw 1 6 = 40 := bits_at hu 0 1 rfl rfl (by decide) rfl
  have f1 : bitsOf uw 25 3 = 4 := bits_at hu 5 0 rfl rfl (by decide) rfl
  have f2 : bitsOf uw 13 1 = 0 := bits_at hu 2 0 rfl rfl (by decide) rfl
  have em : fld uw 30 2 = m := fld_at hu 8 rfl rfl
  have ey : fld uw 29 1 = y := fld_at hu 7 rfl rfl
  have ex : fld uw 28 1 = x := fld_at hu 6 rfl rfl
  have eb : fld uw 19 6 = b := fld_at hu 4 rfl rfl
  have ea : fld uw 14 5 = a := fld_at hu 3 rfl rfl
  have ed : fld uw 7 6 = d := fld_at hu 1 rfl rfl
  rw [decodeWord_28 f0]
  unfold decodeMajor28
  rw [if_neg (fun h => absurd (f1.symm.trans h.2) (by decide)), if_neg (fun h => absurd (f1.symm.trans h.2) (by decide)), if_neg (fun h => absurd (f1.symm.trans h.2) (by decide)), if_neg (fun h => absurd (f1.symm.trans h.2) (by decide)), if_pos ⟨f2, f1⟩, em, ey, ex, eb, ea, ed]

theorem word_atomXor (m : BitVec 2) (y : BitVec 1) (x : BitVec 1) (b : BitVec 6) (a : BitVec 5) (d : BitVec 6) : WordOf (.atomXor m y x b a d) (encodeWord (.atomXor m y x b a d)) := by
  have hp : encodeWord (.atomXor m y x b a d) = packBits [(7, 81), (6, d.toNat), (1, 0), (5, a.toNat), (6, b.toNat), (3, 5), (1, x.toNat), (1, y.toNat), (2, m.toNat)] := by
    have := m.isLt; have := y.isLt; have := x.isLt; have := b.isLt; have := a.isLt; have := d.isLt
    change 167772241 + m.toNat * 1073741824 + y.toNat * 536870912 + x.toNat * 268435456 + b.toNat * 524288 + a.toNat * 16384 + d.toNat * 128 = _; simp only [packBits]; omega
  obtain ⟨uw, hu⟩ : ∃ uw, uw = packBits [(7, 81), (6, d.toNat), (1, 0), (5, a.toNat), (6, b.toNat), (3, 5), (1, x.toNat), (1, y.toNat), (2, m.toNat)] := ⟨_, rfl⟩
  rw [hp, ← hu]
  refine ⟨bits_at hu 0 0 rfl rfl (by decide) rfl, hu ▸ packBits_lt _, ?_⟩
  have f0 : bitsOf uw 1 6 = 40 := bits_at hu 0 1 rfl rfl (by decide) rfl
  have f1 : bitsOf uw 25 3 = 5 := bits_at hu 5 0 rfl rfl (by decide) rfl
  have f2 : bitsOf uw 13 1 = 0 := bits_at hu 2 0 rfl rfl (by decide) rfl
  have em : fld uw 30 2 = m := fld_at hu 8 rfl rfl
  have ey : fld uw 29 1 = y := fld_at hu 7 rfl rfl
  have ex : fld uw 28 1 = x := fld_at hu 6 rfl rfl
  have eb : fld uw 19 6 = b := fld_at hu 4 rfl rfl
  have ea : fld uw 14 5 = a := fld_at hu 3 rfl rfl
  have ed : fld uw 7 6 = d := fld_at hu 1 rfl rfl
  rw [decodeWord_28 f0]
  unfold decodeMajor28
  rw [if_neg (fun h => absurd (f1.symm.trans h.2) (by decide)), if_neg (fun h => absurd (f1.symm.trans h.2) (by decide)), if_neg (fun h => absurd (f1.symm.trans h.2) (by decide)), if_neg (fun h => absurd (f1.symm.trans h.2) (by decide)), if_neg (fun h => absurd (f1.symm.trans h.2) (by decide)), if_pos ⟨f2, f1⟩, em, ey, ex, eb, ea, ed]

theorem word_atomExch (m : BitVec 2) (y : BitVec 1) (x : BitVec 1) (b : BitVec 6) (a : BitVec 5) (d : BitVec 6) : WordOf (.atomExch m y x b a d) (encodeWord (.atomExch m y x b a d)) := by
  have hp : encodeWord (.atomExch m y x b a d) = packBits [(7, 81), (6, d.toNat), (1, 0), (5, a.toNat), (6, b.toNat), (3, 6), (1, x.toNat), (1, y.toNat), (2, m.toNat)] := by
    have := m.isLt; have := y.isLt; have := x.isLt; have := b.isLt; have := a.isLt; have := d.isLt
    change 201326673 + m.toNat * 1073741824 + y.toNat * 536870912 + x.toNat * 268435456 + b.toNat * 524288 + a.toNat * 16384 + d.toNat * 128 = _; simp only [packBits]; omega
  obtain ⟨uw, hu⟩ : ∃ uw, uw = packBits [(7, 81), (6, d.toNat), (1, 0), (5, a.toNat), (6, b.toNat), (3, 6), (1, x.toNat), (1, y.toNat), (2, m.toNat)] := ⟨_, rfl⟩
  rw [hp, ← hu]
  refine ⟨bits_at hu 0 0 rfl rfl (by decide) rfl, hu ▸ packBits_lt _, ?_⟩
  have f0 : bitsOf uw 1 6 = 40 := bits_at hu 0 1 rfl rfl (by decide) rfl
  have f1 : bitsOf uw 25 3 = 6 := bits_at hu 5 0 rfl rfl (by decide) rfl
  have f2 : bitsOf uw 13 1 = 0 := bits_at hu 2 0 rfl rfl (by decide) rfl
  have em : fld uw 30 2 = m := fld_at hu 8 rfl rfl
  have ey : fld uw 29 1 = y := fld_at hu 7 rfl rfl
  have ex : fld uw 28 1 = x := fld_at hu 6 rfl rfl
  have eb : fld uw 19 6 = b := fld_at hu 4 rfl rfl
  have ea : fld uw 14 5 = a := fld_at hu 3 rfl rfl
  have ed : fld uw 7 6 = d := fld_at hu 1 rfl rfl
  rw [decodeWord_28 f0]
  unfold decodeMajor28
  rw [if_neg (fun h => absurd (f1.symm.trans h.2) (by decide)), if_neg (fun h => absurd (f1.symm.trans h.2) (by decide)), if_neg (fun h => absurd (f1.symm.trans h.2) (by decide)), if_neg (fun h => absurd (f1.symm.trans h.2) (by decide)), if_neg (fun h => absurd (f1.symm.trans h.2) (by decide)), if_neg (fun h => absurd (f1.symm.trans h.2) (by decide)), if_pos ⟨f2, f1⟩, em, ey, ex, eb, ea, ed]

theorem word_atomCas (m : BitVec 2) (y : BitVec 1) (x : BitVec 1) (b : BitVec 6) (a : BitVec 5) (d : BitVec 6) : WordOf (.atomCas m y x b a d) (encodeWord (.atomCas m y x b a d)) := by
  have hp : encodeWord (.atomCas m y x b a d) = packBits [(7, 81), (6, d.toNat), (1, 0), (5, a.toNat), (6, b.toNat), (3, 7), (1, x.toNat), (1, y.toNat), (2, m.toNat)] := by
    have := m.isLt; have := y.isLt; have := x.isLt; have := b.isLt; have := a.isLt; have := d.isLt
    change 234881105 + m.toNat * 1073741824 + y.toNat * 536870912 + x.toNat * 268435456 + b.toNat * 524288 + a.toNat * 16384 + d.toNat * 128 = _; simp only [packBits]; omega
  obtain ⟨uw, hu⟩ : ∃ uw, uw = packBits [(7, 81), (6, d.toNat), (1, 0), (5, a.toNat), (6, b.toNat), (3, 7), (1, x.toNat), (1, y.toNat), (2, m.toNat)] := ⟨_, rfl⟩
  rw [hp, ← hu]
  refine ⟨bits_at hu 0 0 rfl rfl (by decide) rfl, hu ▸ packBits_lt _, ?_⟩
  have f0 : bitsOf uw 1 6 = 40 := bits_at hu 0 1 rfl rfl (by decide) rfl
  have f1 : bitsOf uw 25 3 = 7 := bits_at hu 5 0 rfl rfl (by decide) rfl
  have f2 : bitsOf uw 13 1 = 0 := bits_at hu 2 0 rfl rfl (by decide) rfl
  have em : fld uw 30 2 = m := fld_at hu 8 rfl rfl
  have ey : fld uw 29 1 = y := fld_at hu 7 rfl rfl
  have ex : fld uw 28 1 = x := fld_at hu 6 rfl rfl
  have eb : fld uw 19 6 = b := fld_at hu 4 rfl rfl
  have ea : fld uw 14 5 = a := fld_at hu 3 rfl rfl
  have ed : fld uw 7 6 = d := fld_at hu 1 rfl rfl
  rw [decodeWord_28 f0]
  unfold decodeMajor28
  rw [if_neg (fun h => absurd (f1.symm.trans h.2) (by decide)), if_neg (fun h => absurd (f1.symm.trans h.2) (by decide)), if_neg (fun h => absurd (f1.symm.trans h.2) (by decide)), if_neg (fun h => absurd (f1.symm.trans h.2) (by decide)), if_neg (fun h => absurd (f1.symm.trans h.2) (by decide)), if_neg (fun h => absurd (f1.symm.trans h.2) (by decide)), if_neg (fun h => absurd (f1.symm.trans h.2) (by decide)), if_pos ⟨f2, f1⟩, em, ey, ex, eb, ea, ed]

theorem word_redAdd (m : BitVec 2) (y : BitVec 1) (x : BitVec 1) (b : BitVec 6) (a : BitVec 5) : WordOf (.redAdd m y x b a) (encodeWord (.redAdd m y x b a)) := by
  have hp : encodeWord (.redAdd m y x b a) = packBits [(14, 83), (5, a.toNat), (6, b.toNat), (3, 0), (1, x.toNat), (1, y.toNat), (2, m.toNat)] := by
    have := m.isLt; have := y.isLt; have := x.isLt; have := b.isLt; have := a.isLt
    change 83 + m.toNat * 1073741824 + y.toNat * 536870912 + x.toNat * 268435456 + b.toNat * 524288 + a.toNat * 16384 = _; simp only [packBits]; omega
  obtain ⟨uw, hu⟩ : ∃ uw, uw = packBits [(14, 83), (5, a.toNat), (6, b.toNat), (3, 0), (1, x.toNat), (1, y.toNat), (2, m.toNat)] := ⟨_, rfl⟩
  rw [hp, ← hu]
  refine ⟨bits_at hu 0 0 rfl rfl (by decide) rfl, hu ▸ packBits_lt _, ?_⟩
  have f0 : bitsOf uw 1 6 = 41 := bits_at hu 0 1 rfl rfl (by decide) rfl
  have f1 : bitsOf uw 7 7 = 0 := bits_at hu 0 7 rfl rfl (by decide) rfl
  have f2 : bitsOf uw 25 3 = 0 := bits_at hu 3 0 rfl rfl (by decide) rfl
  have em : fld uw 30 2 = m := fld_at hu 6 rfl rfl
  have ey : fld uw 29 1 = y := fld_at hu 5 rfl rfl
  have ex : fld uw 28 1 = x := fld_at hu 4 rfl rfl
  have eb : fld uw 19 6 = b := fld_at hu 2 rfl rfl
  have ea : fld uw 14 5 = a := fld_at hu 1 rfl rfl
  rw [decodeWord_29 f0]
  unfold decodeMajor29
  rw [if_pos ⟨f1, f2⟩, em, ey, ex, eb, ea]

theorem word_redMin (m : BitVec 2) (y : BitVec 1) (x : BitVec 1) (b : BitVec 6) (a : BitVec 5) : WordOf (.redMin m y x b a) (encodeWord (.redMin m y x b a)) := by
  have hp : encodeWord (.redMin m y x b a) = packBits [(14, 83), (5, a.toNat), (6, b.toNat), (3, 1), (1, x.toNat), (1, y.toNat), (2, m.toNat)] := by
    have := m.isLt; have := y.isLt; have := x.isLt; have := b.isLt; have := a.isLt
    change 33554515 + m.toNat * 1073741824 + y.toNat * 536870912 + x.toNat * 268435456 + b.toNat * 524288 + a.toNat * 16384 = _; simp only [packBits]; omega
  obtain ⟨uw, hu⟩ : ∃ uw, uw = packBits [(14, 83), (5, a.toNat), (6, b.toNat), (3, 1), (1, x.toNat), (1, y.toNat), (2, m.toNat)] := ⟨_, rfl⟩
  rw [hp, ← hu]
  refine ⟨bits_at hu 0 0 rfl rfl (by decide) rfl, hu ▸ packBits_lt _, ?_⟩
  have f0 : bitsOf uw 1 6 = 41 := bits_at hu 0 1 rfl rfl (by decide) rfl
  have f1 : bitsOf uw 25 3 = 1 := bits_at hu 3 0 rfl rfl (by decide) rfl
  have f2 : bitsOf uw 7 7 = 0 := bits_at hu 0 7 rfl rfl (by decide) rfl
  have em : fld uw 30 2 = m := fld_at hu 6 rfl rfl
  have ey : fld uw 29 1 = y := fld_at hu 5 rfl rfl
  have ex : fld uw 28 1 = x := fld_at hu 4 rfl rfl
  have eb : fld uw 19 6 = b := fld_at hu 2 rfl rfl
  have ea : fld uw 14 5 = a := fld_at hu 1 rfl rfl
  rw [decodeWord_29 f0]
  unfold decodeMajor29
  rw [if_neg (fun h => absurd (f1.symm.trans h.2) (by decide)), if_pos ⟨f2, f1⟩, em, ey, ex, eb, ea]

theorem word_redMax (m : BitVec 2) (y : BitVec 1) (x : BitVec 1) (b : BitVec 6) (a : BitVec 5) : WordOf (.redMax m y x b a) (encodeWord (.redMax m y x b a)) := by
  have hp : encodeWord (.redMax m y x b a) = packBits [(14, 83), (5, a.toNat), (6, b.toNat), (3, 2), (1, x.toNat), (1, y.toNat), (2, m.toNat)] := by
    have := m.isLt; have := y.isLt; have := x.isLt; have := b.isLt; have := a.isLt
    change 67108947 + m.toNat * 1073741824 + y.toNat * 536870912 + x.toNat * 268435456 + b.toNat * 524288 + a.toNat * 16384 = _; simp only [packBits]; omega
  obtain ⟨uw, hu⟩ : ∃ uw, uw = packBits [(14, 83), (5, a.toNat), (6, b.toNat), (3, 2), (1, x.toNat), (1, y.toNat), (2, m.toNat)] := ⟨_, rfl⟩
  rw [hp, ← hu]
  refine ⟨bits_at hu 0 0 rfl rfl (by decide) rfl, hu ▸ packBits_lt _, ?_⟩
  have f0 : bitsOf uw 1 6 = 41 := bits_at hu 0 1 rfl rfl (by decide) rfl
  have f1 : bitsOf uw 25 3 = 2 := bits_at hu 3 0 rfl rfl (by decide) rfl
  have f2 : bitsOf uw 7 7 = 0 := bits_at hu 0 7 rfl rfl (by decide) rfl
  have em : fld uw 30 2 = m := fld_at hu 6 rfl rfl
  have ey : fld uw 29 1 = y := fld_at hu 5 rfl rfl
  have ex : fld uw 28 1 = x := fld_at hu 4 rfl rfl
  have eb : fld uw 19 6 = b := fld_at hu 2 rfl rfl
  have ea : fld uw 14 5 = a := fld_at hu 1 rfl rfl
  rw [decodeWord_29 f0]
  unfold decodeMajor29
  rw [if_neg (fun h => absurd (f1.symm.trans h.2) (by decide)), if_neg (fun h => absurd (f1.symm.trans h.2) (by decide)), if_pos ⟨f2, f1⟩, em, ey, ex, eb, ea]

theorem word_redAnd (m : BitVec 2) (y : BitVec 1) (x : BitVec 1) (b : BitVec 6) (a : BitVec 5) : WordOf (.redAnd m y x b a) (encodeWord (.redAnd m y x b a)) := by
  have hp : encodeWord (.redAnd m y x b a) = packBits [(14, 83), (5, a.toNat), (6, b.toNat), (3, 3), (1, x.toNat), (1, y.toNat), (2, m.toNat)] := by
    have := m.isLt; have := y.isLt; have := x.isLt; have := b.isLt; have := a.isLt
    change 100663379 + m.toNat * 1073741824 + y.toNat * 536870912 + x.toNat * 268435456 + b.toNat * 524288 + a.toNat * 16384 = _; simp only [packBits]; omega
  obtain ⟨uw, hu⟩ : ∃ uw, uw = packBits [(14, 83), (5, a.toNat), (6, b.toNat), (3, 3), (1, x.toNat), (1, y.toNat), (2, m.toNat)] := ⟨_, rfl⟩
  rw [hp, ← hu]
  refine ⟨bits_at hu 0 0 rfl rfl (by decide) rfl, hu ▸ packBits_lt _, ?_⟩
  have f0 : bitsOf uw 1 6 = 41 := bits_at hu 0 1 rfl rfl (by decide) rfl
  have f1 : bitsOf uw 25 3 = 3 := bits_at hu 3 0 rfl rfl (by decide) rfl
  have f2 : bitsOf uw 7 7 = 0 := bits_at hu 0 7 rfl rfl (by decide) rfl
  have em : fld uw 30 2 = m := fld_at hu 6 rfl rfl
  have ey : fld uw 29 1 = y := fld_at hu 5 rfl rfl
  have ex : fld uw 28 1 = x := fld_at hu 4 rfl rfl
  have eb : fld uw 19 6 = b := fld_at hu 2 rfl rfl
  have ea : fld uw 14 5 = a := fld_at hu 1 rfl rfl
  rw [decodeWord_29 f0]
  unfold decodeMajor29
  rw [if_neg (fun h => absurd (f1.symm.trans h.2) (by decide)), if_neg (fun h => absurd (f1.symm.trans h.2) (by decide)), if_neg (fun h => absurd (f1.symm.trans h.2) (by decide)), if_pos ⟨f2, f1⟩, em, ey, ex, eb, ea]

theorem word_redOr (m : BitVec 2) (y : BitVec 1) (x : BitVec 1) (b : BitVec 6) (a : BitVec 5) : WordOf (.redOr m y x b a) (encodeWord (.redOr m y x b a)) := by
  have hp : encodeWord (.redOr m y x b a) = packBits [(14, 83), (5, a.toNat), (6, b.toNat), (3, 4), (1, x.toNat), (1, y.toNat), (2, m.toNat)] := by
    have := m.isLt; have := y.isLt; have := x.isLt; have := b.isLt; have := a.isLt
    change 134217811 + m.toNat * 1073741824 + y.toNat * 536870912 + x.toNat * 268435456 + b.toNat * 524288 + a.toNat * 16384 = _; simp only [packBits]; omega
  obtain ⟨uw, hu⟩ : ∃ uw, uw = packBits [(14, 83), (5, a.toNat), (6, b.toNat), (3, 4), (1, x.toNat), (1, y.toNat), (2, m.toNat)] := ⟨_, rfl⟩
  rw [hp, ← hu]
  refine ⟨bits_at hu 0 0 rfl rfl (by decide) rfl, hu ▸ packBits_lt _, ?_⟩
  have f0 : bitsOf uw 1 6 = 41 := bits_at hu 0 1 rfl rfl (by decide) rfl
  have f1 : bitsOf uw 25 3 = 4 := bits_at hu 3 0 rfl rfl (by decide) rfl
  have f2 : bitsOf uw 7 7 = 0 := bits_at hu 0 7 rfl rfl (by decide) rfl
  have em : fld uw 30 2 = m := fld_at hu 6 rfl rfl
  have ey : fld uw 29 1 = y := fld_at hu 5 rfl rfl
  have ex : fld uw 28 1 = x := fld_at hu 4 rfl rfl
  have eb : fld uw 19 6 = b := fld_at hu 2 rfl rfl
  have ea : fld uw 14 5 = a := fld_at hu 1 rfl rfl
  rw [decodeWord_29 f0]
  unfold decodeMajor29
  rw [if_neg (fun h => absurd (f1.symm.trans h.2) (by decide)), if_neg (fun h => absurd (f1.symm.trans h.2) (by decide)), if_neg (fun h => absurd (f1.symm.trans h.2) (by decide)), if_neg (fun h => absurd (f1.symm.trans h.2) (by decide)), if_pos ⟨f2, f1⟩, em, ey, ex, eb, ea]

theorem word_redXor (m : BitVec 2) (y : BitVec 1) (x : BitVec 1) (b : BitVec 6) (a : BitVec 5) : WordOf (.redXor m y x b a) (encodeWord (.redXor m y x b a)) := by
  have hp : encodeWord (.redXor m y x b a) = packBits [(14, 83), (5, a.toNat), (6, b.toNat), (3, 5), (1, x.toNat), (1, y.toNat), (2, m.toNat)] := by
    have := m.isLt; have := y.isLt; have := x.isLt; have := b.isLt; have := a.isLt
    change 167772243 + m.toNat * 1073741824 + y.toNat * 536870912 + x.toNat * 268435456 + b.toNat * 524288 + a.toNat * 16384 = _; simp only [packBits]; omega
  obtain ⟨uw, hu⟩ : ∃ uw, uw = packBits [(14, 83), (5, a.toNat), (6, b.toNat), (3, 5), (1, x.toNat), (1, y.toNat), (2, m.toNat)] := ⟨_, rfl⟩
  rw [hp, ← hu]
  refine ⟨bits_at hu 0 0 rfl rfl (by decide) rfl, hu ▸ packBits_lt _, ?_⟩
  have f0 : bitsOf uw 1 6 = 41 := bits_at hu 0 1 rfl rfl (by decide) rfl
  have f1 : bitsOf uw 25 3 = 5 := bits_at hu 3 0 rfl rfl (by decide) rfl
  have f2 : bitsOf uw 7 7 = 0 := bits_at hu 0 7 rfl rfl (by decide) rfl
  have em : fld uw 30 2 = m := fld_at hu 6 rfl rfl
  have ey : fld uw 29 1 = y := fld_at hu 5 rfl rfl
  have ex : fld uw 28 1 = x := fld_at hu 4 rfl rfl
  have eb : fld uw 19 6 = b := fld_at hu 2 rfl rfl
  have ea : fld uw 14 5 = a := fld_at hu 1 rfl rfl
  rw [decodeWord_29 f0]
  unfold decodeMajor29
  rw [if_neg (fun h => absurd (f1.symm.trans h.2) (by decide)), if_neg (fun h => absurd (f1.symm.trans h.2) (by decide)), if_neg (fun h => absurd (f1.symm.trans h.2) (by decide)), if_neg (fun h => absurd (f1.symm.trans h.2) (by decide)), if_neg (fun h => absurd (f1.symm.trans h.2) (by decide)), if_pos ⟨f2, f1⟩, em, ey, ex, eb, ea]

theorem word_bupdAdd (m : BitVec 2) (y : BitVec 1) (x : BitVec 1) (b : BitVec 6) (a : BitVec 5) : WordOf (.bupdAdd m y x b a) (encodeWord (.bupdAdd m y x b a)) := by
  have hp : encodeWord (.bupdAdd m y x b a) = packBits [(14, 85), (5, a.toNat), (6, b.toNat), (3, 0), (1, x.toNat), (1, y.toNat), (2, m.toNat)] := by
    have := m.isLt; have := y.isLt; have := x.isLt; have := b.isLt; have := a.isLt
    change 85 + m.toNat * 1073741824 + y.toNat * 536870912 + x.toNat * 268435456 + b.toNat * 524288 + a.toNat * 16384 = _; simp only [packBits]; omega
  obtain ⟨uw, hu⟩ : ∃ uw, uw = packBits [(14, 85), (5, a.toNat), (6, b.toNat), (3, 0), (1, x.toNat), (1, y.toNat), (2, m.toNat)] := ⟨_, rfl⟩
  rw [hp, ← hu]
  refine ⟨bits_at hu 0 0 rfl rfl (by decide) rfl, hu ▸ packBits_lt _, ?_⟩
  have f0 : bitsOf uw 1 6 = 42 := bits_at hu 0 1 rfl rfl (by decide) rfl
  have f1 : bitsOf uw 7 7 = 0 := bits_at hu 0 7 rfl rfl (by decide) rfl
  have f2 : bitsOf uw 25 3 = 0 := bits_at hu 3 0 rfl rfl (by decide) rfl
  have em : fld uw 30 2 = m := fld_at hu 6 rfl rfl
  have ey : fld uw 29 1 = y := fld_at hu 5 rfl rfl
  have ex : fld uw 28 1 = x := fld_at hu 4 rfl rfl
  have eb : fld uw 19 6 = b := fld_at hu 2 rfl rfl
  have ea : fld uw 14 5 = a := fld_at hu 1 rfl rfl
  rw [decodeWord_2a f0]
  unfold decodeMajor2a
  rw [if_pos ⟨f1, f2⟩, em, ey, ex, eb, ea]

theorem word_bupdMin (m : BitVec 2) (y : BitVec 1) (x : BitVec 1) (b : BitVec 6) (a : BitVec 5) : WordOf (.bupdMin m y x b a) (encodeWord (.bupdMin m y x b a)) := by
  have hp : encodeWord (.bupdMin m y x b a) = packBits [(14, 85), (5, a.toNat), (6, b.toNat), (3, 1), (1, x.toNat), (1, y.toNat), (2, m.toNat)] := by
    have := m.isLt; have := y.isLt; have := x.isLt; have := b.isLt; have := a.isLt
    change 33554517 + m.toNat * 1073741824 + y.toNat * 536870912 + x.toNat * 268435456 + b.toNat * 524288 + a.toNat * 16384 = _; simp only [packBits]; omega
  obtain ⟨uw, hu⟩ : ∃ uw, uw = packBits [(14, 85), (5, a.toNat), (6, b.toNat), (3, 1), (1, x.toNat), (1, y.toNat), (2, m.toNat)] := ⟨_, rfl⟩
  rw [hp, ← hu]
  refine ⟨bits_at hu 0 0 rfl rfl (by decide) rfl, hu ▸ packBits_lt _, ?_⟩
  have f0 : bitsOf uw 1 6 = 42 := bits_at hu 0 1 rfl rfl (by decide) rfl
  have f1 : bitsOf uw 25 3 = 1 := bits_at hu 3 0 rfl rfl (by decide) rfl
  have f2 : bitsOf uw 7 7 = 0 := bits_at hu 0 7 rfl rfl (by decide) rfl
  have em : fld uw 30 2 = m := fld_at hu 6 rfl rfl
  have ey : fld uw 29 1 = y := fld_at hu 5 rfl rfl
  have ex : fld uw 28 1 = x := fld_at hu 4 rfl rfl
  have eb : fld uw 19 6 = b := fld_at hu 2 rfl rfl
  have ea : fld uw 14 5 = a := fld_at hu 1 rfl rfl
  rw [decodeWord_2a f0]
  unfold decodeMajor2a
  rw [if_neg (fun h => absurd (f1.symm.trans h.2) (by decide)), if_pos ⟨f2, f1⟩, em, ey, ex, eb, ea]

theorem word_bupdMax (m : BitVec 2) (y : BitVec 1) (x : BitVec 1) (b : BitVec 6) (a : BitVec 5) : WordOf (.bupdMax m y x b a) (encodeWord (.bupdMax m y x b a)) := by
  have hp : encodeWord (.bupdMax m y x b a) = packBits [(14, 85), (5, a.toNat), (6, b.toNat), (3, 2), (1, x.toNat), (1, y.toNat), (2, m.toNat)] := by
    have := m.isLt; have := y.isLt; have := x.isLt; have := b.isLt; have := a.isLt
    change 67108949 + m.toNat * 1073741824 + y.toNat * 536870912 + x.toNat * 268435456 + b.toNat * 524288 + a.toNat * 16384 = _; simp only [packBits]; omega
  obtain ⟨uw, hu⟩ : ∃ uw, uw = packBits [(14, 85), (5, a.toNat), (6, b.toNat), (3, 2), (1, x.toNat), (1, y.toNat), (2, m.toNat)] := ⟨_, rfl⟩
  rw [hp, ← hu]
  refine ⟨bits_at hu 0 0 rfl rfl (by decide) rfl, hu ▸ packBits_lt _, ?_⟩
  have f0 : bitsOf uw 1 6 = 42 := bits_at hu 0 1 rfl rfl (by decide) rfl
  have f1 : bitsOf uw 25 3 = 2 := bits_at hu 3 0 rfl rfl (by decide) rfl
  have f2 : bitsOf uw 7 7 = 0 := bits_at hu 0 7 rfl rfl (by decide) rfl
  have em : fld uw 30 2 = m := fld_at hu 6 rfl rfl
  have ey : fld uw 29 1 = y := fld_at hu 5 rfl rfl
  have ex : fld uw 28 1 = x := fld_at hu 4 rfl rfl
  have eb : fld uw 19 6 = b := fld_at hu 2 rfl rfl
  have ea : fld uw 14 5 = a := fld_at hu 1 rfl rfl
  rw [decodeWord_2a f0]
  unfold decodeMajor2a
  rw [if_neg (fun h => absurd (f1.symm.trans h.2) (by decide)), if_neg (fun h => absurd (f1.symm.trans h.2) (by decide)), if_pos ⟨f2, f1⟩, em, ey, ex, eb, ea]

theorem word_bredAdd (m : BitVec 2) (y : BitVec 1) (x : BitVec 1) (b : BitVec 6) (a : BitVec 5) : WordOf (.bredAdd m y x b a) (encodeWord (.bredAdd m y x b a)) := by
  have hp : encodeWord (.bredAdd m y x b a) = packBits [(14, 85), (5, a.toNat), (6, b.toNat), (3, 3), (1, x.toNat), (1, y.toNat), (2, m.toNat)] := by
    have := m.isLt; have := y.isLt; have := x.isLt; have := b.isLt; have := a.isLt
    change 100663381 + m.toNat * 1073741824 + y.toNat * 536870912 + x.toNat * 268435456 + b.toNat * 524288 + a.toNat * 16384 = _; simp only [packBits]; omega
  obtain ⟨uw, hu⟩ : ∃ uw, uw = packBits [(14, 85), (5, a.toNat), (6, b.toNat), (3, 3), (1, x.toNat), (1, y.toNat), (2, m.toNat)] := ⟨_, rfl⟩
  rw [hp, ← hu]
  refine ⟨bits_at hu 0 0 rfl rfl (by decide) rfl, hu ▸ packBits_lt _, ?_⟩
  have f0 : bitsOf uw 1 6 = 42 := bits_at hu 0 1 rfl rfl (by decide) rfl
  have f1 : bitsOf uw 25 3 = 3 := bits_at hu 3 0 rfl rfl (by decide) rfl
  have f2 : bitsOf uw 7 7 = 0 := bits_at hu 0 7 rfl rfl (by decide) rfl
  have em : fld uw 30 2 = m := fld_at hu 6 rfl rfl
  have ey : fld uw 29 1 = y := fld_at hu 5 rfl rfl
  have ex : fld uw 28 1 = x := fld_at hu 4 rfl rfl
  have eb : fld uw 19 6 = b := fld_at hu 2 rfl rfl
  have ea : fld uw 14 5 = a := fld_at hu 1 rfl rfl
  rw [decodeWord_2a f0]
  unfold decodeMajor2a
  rw [if_neg (fun h => absurd (f1.symm.trans h.2) (by decide)), if_neg (fun h => absurd (f1.symm.trans h.2) (by decide)), if_neg (fun h => absurd (f1.symm.trans h.2) (by decide)), if_pos ⟨f2, f1⟩, em, ey, ex, eb, ea]

theorem word_bredMin (m : BitVec 2) (y : BitVec 1) (x : BitVec 1) (b : BitVec 6) (a : BitVec 5) : WordOf (.bredMin m y x b a) (encodeWord (.bredMin m y x b a)) := by
  have hp : encodeWord (.bredMin m y x b a) = packBits [(14, 85), (5, a.toNat), (6, b.toNat), (3, 4), (1, x.toNat), (1, y.toNat), (2, m.toNat)] := by
    have := m.isLt; have := y.isLt; have := x.isLt; have := b.isLt; have := a.isLt
    change 134217813 + m.toNat * 1073741824 + y.toNat * 536870912 + x.toNat * 268435456 + b.toNat * 524288 + a.toNat * 16384 = _; simp only [packBits]; omega
  obtain ⟨uw, hu⟩ : ∃ uw, uw = packBits [(14, 85), (5, a.toNat), (6, b.toNat), (3, 4), (1, x.toNat), (1, y.toNat), (2, m.toNat)] := ⟨_, rfl⟩
  rw [hp, ← hu]
  refine ⟨bits_at hu 0 0 rfl rfl (by decide) rfl, hu ▸ packBits_lt _, ?_⟩
  have f0 : bitsOf uw 1 6 = 42 := bits_at hu 0 1 rfl rfl (by decide) rfl
  have f1 : bitsOf uw 25 3 = 4 := bits_at hu 3 0 rfl rfl (by decide) rfl
  have f2 : bitsOf uw 7 7 = 0 := bits_at hu 0 7 rfl rfl (by decide) rfl
  have em : fld uw 30 2 = m := fld_at hu 6 rfl rfl
  have ey : fld uw 29 1 = y := fld_at hu 5 rfl rfl
  have ex : fld uw 28 1 = x := fld_at hu 4 rfl rfl
  have eb : fld uw 19 6 = b := fld_at hu 2 rfl rfl
  have ea : fld uw 14 5 = a := fld_at hu 1 rfl rfl
  rw [decodeWord_2a f0]
  unfold decodeMajor2a
  rw [if_neg (fun h => absurd (f1.symm.trans h.2) (by decide)), if_neg (fun h => absurd (f1.symm.trans h.2) (by decide)), if_neg (fun h => absurd (f1.symm.trans h.2) (by decide)), if_neg (fun h => absurd (f1.symm.trans h.2) (by decide)), if_pos ⟨f2, f1⟩, em, ey, ex, eb, ea]

theorem word_bredMax (m : BitVec 2) (y : BitVec 1) (x : BitVec 1) (b : BitVec 6) (a : BitVec 5) : WordOf (.bredMax m y x b a) (encodeWord (.bredMax m y x b a)) := by
  have hp : encodeWord (.bredMax m y x b a) = packBits [(14, 85), (5, a.toNat), (6, b.toNat), (3, 5), (1, x.toNat), (1, y.toNat), (2, m.toNat)] := by
    have := m.isLt; have := y.isLt; have := x.isLt; have := b.isLt; have := a.isLt
    change 167772245 + m.toNat * 1073741824 + y.toNat * 536870912 + x.toNat * 268435456 + b.toNat * 524288 + a.toNat * 16384 = _; simp only [packBits]; omega
  obtain ⟨uw, hu⟩ : ∃ uw, uw = packBits [(14, 85), (5, a.toNat), (6, b.toNat), (3, 5), (1, x.toNat), (1, y.toNat), (2, m.toNat)] := ⟨_, rfl⟩
  rw [hp, ← hu]
  refine ⟨bits_at hu 0 0 rfl rfl (by decide) rfl, hu ▸ packBits_lt _, ?_⟩
  have f0 : bitsOf uw 1 6 = 42 := bits_at hu 0 1 rfl rfl (by decide) rfl
  have f1 : bitsOf uw 25 3 = 5 := bits_at hu 3 0 rfl rfl (by decide) rfl
  have f2 : bitsOf uw 7 7 = 0 := bits_at hu 0 7 rfl rfl (by decide) rfl
  have em : fld uw 30 2 = m := fld_at hu 6 rfl rfl
  have ey : fld uw 29 1 = y := fld_at hu 5 rfl rfl
  have ex : fld uw 28 1 = x := fld_at hu 4 rfl rfl
  have eb : fld uw 19 6 = b := fld_at hu 2 rfl rfl
  have ea : fld uw 14 5 = a := fld_at hu 1 rfl rfl
  rw [decodeWord_2a f0]
  unfold decodeMajor2a
  rw [if_neg (fun h => absurd (f1.symm.trans h.2) (by decide)), if_neg (fun h => absurd (f1.symm.trans h.2) (by decide)), if_neg (fun h => absurd (f1.symm.trans h.2) (by decide)), if_neg (fun h => absurd (f1.symm.trans h.2) (by decide)), if_neg (fun h => absurd (f1.symm.trans h.2) (by decide)), if_pos ⟨f2, f1⟩, em, ey, ex, eb, ea]

theorem word_fence (s : BitVec 3) : WordOf (.fence s) (encodeWord (.fence s)) := by
  have hp : encodeWord (.fence s) = packBits [(13, 87), (3, s.toNat), (16, 0)] := by
    have := s.isLt
    change 87 + s.toNat * 8192 = _; simp only [packBits]; omega
  obtain ⟨uw, hu⟩ : ∃ uw, uw = packBits [(13, 87), (3, s.toNat), (16, 0)] := ⟨_, rfl⟩
  rw [hp, ← hu]
  refine ⟨bits_at hu 0 0 rfl rfl (by decide) rfl, hu ▸ packBits_lt _, ?_⟩
  have f0 : bitsOf uw 1 6 = 43 := bits_at hu 0 1 rfl rfl (by decide) rfl
  have f1 : bitsOf uw 7 6 = 0 := bits_at hu 0 7 rfl rfl (by decide) rfl
  have f2 : bitsOf uw 16 16 = 0 := bits_at hu 2 0 rfl rfl (by decide) rfl
  have es : fld uw 13 3 = s := fld_at hu 1 rfl rfl
  rw [decodeWord_2b f0]
  unfold decodeMajor2b
  rw [if_pos ⟨f1, f2⟩, es]

theorem word_fenceAcq (s : BitVec 3) : WordOf (.fenceAcq s) (encodeWord (.fenceAcq s)) := by
  have hp : encodeWord (.fenceAcq s) = packBits [(13, 87), (3, s.toNat), (16, 16384)] := by
    have := s.isLt
    change 1073741911 + s.toNat * 8192 = _; simp only [packBits]; omega
  obtain ⟨uw, hu⟩ : ∃ uw, uw = packBits [(13, 87), (3, s.toNat), (16, 16384)] := ⟨_, rfl⟩
  rw [hp, ← hu]
  refine ⟨bits_at hu 0 0 rfl rfl (by decide) rfl, hu ▸ packBits_lt _, ?_⟩
  have f0 : bitsOf uw 1 6 = 43 := bits_at hu 0 1 rfl rfl (by decide) rfl
  have f1 : bitsOf uw 16 16 = 16384 := bits_at hu 2 0 rfl rfl (by decide) rfl
  have f2 : bitsOf uw 7 6 = 0 := bits_at hu 0 7 rfl rfl (by decide) rfl
  have es : fld uw 13 3 = s := fld_at hu 1 rfl rfl
  rw [decodeWord_2b f0]
  unfold decodeMajor2b
  rw [if_neg (fun h => absurd (f1.symm.trans h.2) (by decide)), if_pos ⟨f2, f1⟩, es]

theorem word_fenceRel (s : BitVec 3) : WordOf (.fenceRel s) (encodeWord (.fenceRel s)) := by
  have hp : encodeWord (.fenceRel s) = packBits [(13, 87), (3, s.toNat), (16, 32768)] := by
    have := s.isLt
    change 2147483735 + s.toNat * 8192 = _; simp only [packBits]; omega
  obtain ⟨uw, hu⟩ : ∃ uw, uw = packBits [(13, 87), (3, s.toNat), (16, 32768)] := ⟨_, rfl⟩
  rw [hp, ← hu]
  refine ⟨bits_at hu 0 0 rfl rfl (by decide) rfl, hu ▸ packBits_lt _, ?_⟩
  have f0 : bitsOf uw 1 6 = 43 := bits_at hu 0 1 rfl rfl (by decide) rfl
  have f1 : bitsOf uw 16 16 = 32768 := bits_at hu 2 0 rfl rfl (by decide) rfl
  have f2 : bitsOf uw 7 6 = 0 := bits_at hu 0 7 rfl rfl (by decide) rfl
  have es : fld uw 13 3 = s := fld_at hu 1 rfl rfl
  rw [decodeWord_2b f0]
  unfold decodeMajor2b
  rw [if_neg (fun h => absurd (f1.symm.trans h.2) (by decide)), if_neg (fun h => absurd (f1.symm.trans h.2) (by decide)), if_pos ⟨f2, f1⟩, es]

theorem word_tfence (s : BitVec 3) : WordOf (.tfence s) (encodeWord (.tfence s)) := by
  have hp : encodeWord (.tfence s) = packBits [(13, 87), (3, s.toNat), (16, 512)] := by
    have := s.isLt
    change 33554519 + s.toNat * 8192 = _; simp only [packBits]; omega
  obtain ⟨uw, hu⟩ : ∃ uw, uw = packBits [(13, 87), (3, s.toNat), (16, 512)] := ⟨_, rfl⟩
  rw [hp, ← hu]
  refine ⟨bits_at hu 0 0 rfl rfl (by decide) rfl, hu ▸ packBits_lt _, ?_⟩
  have f0 : bitsOf uw 1 6 = 43 := bits_at hu 0 1 rfl rfl (by decide) rfl
  have f1 : bitsOf uw 16 16 = 512 := bits_at hu 2 0 rfl rfl (by decide) rfl
  have f2 : bitsOf uw 7 6 = 0 := bits_at hu 0 7 rfl rfl (by decide) rfl
  have es : fld uw 13 3 = s := fld_at hu 1 rfl rfl
  rw [decodeWord_2b f0]
  unfold decodeMajor2b
  rw [if_neg (fun h => absurd (f1.symm.trans h.2) (by decide)), if_neg (fun h => absurd (f1.symm.trans h.2) (by decide)), if_neg (fun h => absurd (f1.symm.trans h.2) (by decide)), if_pos ⟨f2, f1⟩, es]

theorem word_binit (w : BitVec 1) (b : BitVec 5) (a : BitVec 5) : WordOf (.binit w b a) (encodeWord (.binit w b a)) := by
  have hp : encodeWord (.binit w b a) = packBits [(13, 89), (5, a.toNat), (1, 0), (5, b.toNat), (6, 0), (1, w.toNat), (1, 0)] := by
    have := w.isLt; have := b.isLt; have := a.isLt
    change 89 + w.toNat * 1073741824 + b.toNat * 524288 + a.toNat * 8192 = _; simp only [packBits]; omega
  obtain ⟨uw, hu⟩ : ∃ uw, uw = packBits [(13, 89), (5, a.toNat), (1, 0), (5, b.toNat), (6, 0), (1, w.toNat), (1, 0)] := ⟨_, rfl⟩
  rw [hp, ← hu]
  refine ⟨bits_at hu 0 0 rfl rfl (by decide) rfl, hu ▸ packBits_lt _, ?_⟩
  have f0 : bitsOf uw 1 6 = 44 := bits_at hu 0 1 rfl rfl (by decide) rfl
  have f1 : bitsOf uw 7 6 = 0 := bits_at hu 0 7 rfl rfl (by decide) rfl
  have f2 : bitsOf uw 18 1 = 0 := bits_at hu 2 0 rfl rfl (by decide) rfl
  have f3 : bitsOf uw 24 6 = 0 := bits_at hu 4 0 rfl rfl (by decide) rfl
  have f4 : bitsOf uw 31 1 = 0 := bits_at hu 6 0 rfl rfl (by decide) rfl
  have ew : fld uw 30 1 = w := fld_at hu 5 rfl rfl
  have eb : fld uw 19 5 = b := fld_at hu 3 rfl rfl
  have ea : fld uw 13 5 = a := fld_at hu 1 rfl rfl
  rw [decodeWord_2c f0]
  unfold decodeMajor2c
  rw [if_pos ⟨f1, f2, f3, f4⟩, ew, eb, ea]

theorem word_barv (w : BitVec 1) (a : BitVec 5) (d : BitVec 5) : WordOf (.barv w a d) (encodeWord (.barv w a d)) := by
  have hp : encodeWord (.barv w a d) = packBits [(7, 89), (5, d.toNat), (1, 0), (5, a.toNat), (12, 128), (1, w.toNat), (1, 0)] := by
    have := w.isLt; have := a.isLt; have := d.isLt
    change 33554521 + w.toNat * 1073741824 + a.toNat * 8192 + d.toNat * 128 = _; simp only [packBits]; omega
  obtain ⟨uw, hu⟩ : ∃ uw, uw = packBits [(7, 89), (5, d.toNat), (1, 0), (5, a.toNat), (12, 128), (1, w.toNat), (1, 0)] := ⟨_, rfl⟩
  rw [hp, ← hu]
  refine ⟨bits_at hu 0 0 rfl rfl (by decide) rfl, hu ▸ packBits_lt _, ?_⟩
  have f0 : bitsOf uw 1 6 = 44 := bits_at hu 0 1 rfl rfl (by decide) rfl
  have f1 : bitsOf uw 24 6 = 2 := bits_at hu 4 6 rfl rfl (by decide) rfl
  have f2 : bitsOf uw 12 1 = 0 := bits_at hu 2 0 rfl rfl (by decide) rfl
  have f3 : bitsOf uw 18 12 = 128 := bits_at hu 4 0 rfl rfl (by decide) rfl
  have f4 : bitsOf uw 31 1 = 0 := bits_at hu 6 0 rfl rfl (by decide) rfl
  have ew : fld uw 30 1 = w := fld_at hu 5 rfl rfl
  have ea : fld uw 13 5 = a := fld_at hu 3 rfl rfl
  have ed : fld uw 7 5 = d := fld_at hu 1 rfl rfl
  rw [decodeWord_2c f0]
  unfold decodeMajor2c
  rw [if_neg (fun h => absurd (f1.symm.trans h.2.2.1) (by decide)), if_pos ⟨f2, f3, f4⟩, ew, ea, ed]

theorem word_bexp (w : BitVec 1) (b : BitVec 5) (a : BitVec 5) : WordOf (.bexp w b a) (encodeWord (.bexp w b a)) := by
  have hp : encodeWord (.bexp w b a) = packBits [(13, 89), (5, a.toNat), (1, 0), (5, b.toNat), (6, 4), (1, w.toNat), (1, 0)] := by
    have := w.isLt; have := b.isLt; have := a.isLt
    change 67108953 + w.toNat * 1073741824 + b.toNat * 524288 + a.toNat * 8192 = _; simp only [packBits]; omega
  obtain ⟨uw, hu⟩ : ∃ uw, uw = packBits [(13, 89), (5, a.toNat), (1, 0), (5, b.toNat), (6, 4), (1, w.toNat), (1, 0)] := ⟨_, rfl⟩
  rw [hp, ← hu]
  refine ⟨bits_at hu 0 0 rfl rfl (by decide) rfl, hu ▸ packBits_lt _, ?_⟩
  have f0 : bitsOf uw 1 6 = 44 := bits_at hu 0 1 rfl rfl (by decide) rfl
  have f1 : bitsOf uw 24 6 = 4 := bits_at hu 4 0 rfl rfl (by decide) rfl
  have f2 : bitsOf uw 7 6 = 0 := bits_at hu 0 7 rfl rfl (by decide) rfl
  have f3 : bitsOf uw 18 1 = 0 := bits_at hu 2 0 rfl rfl (by decide) rfl
  have f4 : bitsOf uw 31 1 = 0 := bits_at hu 6 0 rfl rfl (by decide) rfl
  have ew : fld uw 30 1 = w := fld_at hu 5 rfl rfl
  have eb : fld uw 19 5 = b := fld_at hu 3 rfl rfl
  have ea : fld uw 13 5 = a := fld_at hu 1 rfl rfl
  rw [decodeWord_2c f0]
  unfold decodeMajor2c
  rw [if_neg (fun h => absurd (f1.symm.trans h.2.2.1) (by decide)), if_neg (by rw [hu, ← hp]; change ¬ ((67108953 + w.toNat * 1073741824 + b.toNat * 524288 + a.toNat * 8192) / 2 ^ 12 % 2 ^ 1 = 0 ∧ (67108953 + w.toNat * 1073741824 + b.toNat * 524288 + a.toNat * 8192) / 2 ^ 18 % 2 ^ 12 = 128 ∧ (67108953 + w.toNat * 1073741824 + b.toNat * 524288 + a.toNat * 8192) / 2 ^ 31 % 2 ^ 1 = 0); have := w.isLt; have := b.isLt; have := a.isLt; omega), if_pos ⟨f2, f3, f1, f4⟩, ew, eb, ea]

theorem word_btest (w : BitVec 1) (b : BitVec 5) (a : BitVec 5) (d : BitVec 3) : WordOf (.btest w b a d) (encodeWord (.btest w b a d)) := by
  have hp : encodeWord (.btest w b a d) = packBits [(7, 89), (3, d.toNat), (3, 0), (5, a.toNat), (1, 0), (5, b.toNat), (6, 6), (1, w.toNat), (1, 0)] := by
    have := w.isLt; have := b.isLt; have := a.isLt; have := d.isLt
    change 100663385 + w.toNat * 1073741824 + b.toNat * 524288 + a.toNat * 8192 + d.toNat * 128 = _; simp only [packBits]; omega
  obtain ⟨uw, hu⟩ : ∃ uw, uw = packBits [(7, 89), (3, d.toNat), (3, 0), (5, a.toNat), (1, 0), (5, b.toNat), (6, 6), (1, w.toNat), (1, 0)] := ⟨_, rfl⟩
  rw [hp, ← hu]
  refine ⟨bits_at hu 0 0 rfl rfl (by decide) rfl, hu ▸ packBits_lt _, ?_⟩
  have f0 : bitsOf uw 1 6 = 44 := bits_at hu 0 1 rfl rfl (by decide) rfl
  have f1 : bitsOf uw 24 6 = 6 := bits_at hu 6 0 rfl rfl (by decide) rfl
  have f2 : bitsOf uw 10 3 = 0 := bits_at hu 2 0 rfl rfl (by decide) rfl
  have f3 : bitsOf uw 18 1 = 0 := bits_at hu 4 0 rfl rfl (by decide) rfl
  have f4 : bitsOf uw 31 1 = 0 := bits_at hu 8 0 rfl rfl (by decide) rfl
  have ew : fld uw 30 1 = w := fld_at hu 7 rfl rfl
  have eb : fld uw 19 5 = b := fld_at hu 5 rfl rfl
  have ea : fld uw 13 5 = a := fld_at hu 3 rfl rfl
  have ed : fld uw 7 3 = d := fld_at hu 1 rfl rfl
  rw [decodeWord_2c f0]
  unfold decodeMajor2c
  rw [if_neg (fun h => absurd (f1.symm.trans h.2.2.1) (by decide)), if_neg (by rw [hu, ← hp]; change ¬ ((100663385 + w.toNat * 1073741824 + b.toNat * 524288 + a.toNat * 8192 + d.toNat * 128) / 2 ^ 12 % 2 ^ 1 = 0 ∧ (100663385 + w.toNat * 1073741824 + b.toNat * 524288 + a.toNat * 8192 + d.toNat * 128) / 2 ^ 18 % 2 ^ 12 = 128 ∧ (100663385 + w.toNat * 1073741824 + b.toNat * 524288 + a.toNat * 8192 + d.toNat * 128) / 2 ^ 31 % 2 ^ 1 = 0); have := w.isLt; have := b.isLt; have := a.isLt; have := d.isLt; omega), if_neg (fun h => absurd (f1.symm.trans h.2.2.1) (by decide)), if_pos ⟨f2, f3, f1, f4⟩, ew, eb, ea, ed]

theorem word_bwait (w : BitVec 1) (b : BitVec 5) (a : BitVec 5) : WordOf (.bwait w b a) (encodeWord (.bwait w b a)) := by
  have hp : encodeWord (.bwait w b a) = packBits [(13, 89), (5, a.toNat), (1, 0), (5, b.toNat), (6, 8), (1, w.toNat), (1, 0)] := by
    have := w.isLt; have := b.isLt; have := a.isLt
    change 134217817 + w.toNat * 1073741824 + b.toNat * 524288 + a.toNat * 8192 = _; simp only [packBits]; omega
  obtain ⟨uw, hu⟩ : ∃ uw, uw = packBits [(13, 89), (5, a.toNat), (1, 0), (5, b.toNat), (6, 8), (1, w.toNat), (1, 0)] := ⟨_, rfl⟩
  rw [hp, ← hu]
  refine ⟨bits_at hu 0 0 rfl rfl (by decide) rfl, hu ▸ packBits_lt _, ?_⟩
  have f0 : bitsOf uw 1 6 = 44 := bits_at hu 0 1 rfl rfl (by decide) rfl
  have f1 : bitsOf uw 24 6 = 8 := bits_at hu 4 0 rfl rfl (by decide) rfl
  have f2 : bitsOf uw 7 6 = 0 := bits_at hu 0 7 rfl rfl (by decide) rfl
  have f3 : bitsOf uw 18 1 = 0 := bits_at hu 2 0 rfl rfl (by decide) rfl
  have f4 : bitsOf uw 31 1 = 0 := bits_at hu 6 0 rfl rfl (by decide) rfl
  have ew : fld uw 30 1 = w := fld_at hu 5 rfl rfl
  have eb : fld uw 19 5 = b := fld_at hu 3 rfl rfl
  have ea : fld uw 13 5 = a := fld_at hu 1 rfl rfl
  rw [decodeWord_2c f0]
  unfold decodeMajor2c
  rw [if_neg (fun h => absurd (f1.symm.trans h.2.2.1) (by decide)), if_neg (by rw [hu, ← hp]; change ¬ ((134217817 + w.toNat * 1073741824 + b.toNat * 524288 + a.toNat * 8192) / 2 ^ 12 % 2 ^ 1 = 0 ∧ (134217817 + w.toNat * 1073741824 + b.toNat * 524288 + a.toNat * 8192) / 2 ^ 18 % 2 ^ 12 = 128 ∧ (134217817 + w.toNat * 1073741824 + b.toNat * 524288 + a.toNat * 8192) / 2 ^ 31 % 2 ^ 1 = 0); have := w.isLt; have := b.isLt; have := a.isLt; omega), if_neg (fun h => absurd (f1.symm.trans h.2.2.1) (by decide)), if_neg (fun h => absurd (f1.symm.trans h.2.2.1) (by decide)), if_pos ⟨f2, f3, f1, f4⟩, ew, eb, ea]

theorem word_binval (w : BitVec 1) (a : BitVec 5) : WordOf (.binval w a) (encodeWord (.binval w a)) := by
  have hp : encodeWord (.binval w a) = packBits [(13, 89), (5, a.toNat), (12, 640), (1, w.toNat), (1, 0)] := by
    have := w.isLt; have := a.isLt
    change 167772249 + w.toNat * 1073741824 + a.toNat * 8192 = _; simp only [packBits]; omega
  obtain ⟨uw, hu⟩ : ∃ uw, uw = packBits [(13, 89), (5, a.toNat), (12, 640), (1, w.toNat), (1, 0)] := ⟨_, rfl⟩
  rw [hp, ← hu]
  refine ⟨bits_at hu 0 0 rfl rfl (by decide) rfl, hu ▸ packBits_lt _, ?_⟩
  have f0 : bitsOf uw 1 6 = 44 := bits_at hu 0 1 rfl rfl (by decide) rfl
  have f1 : bitsOf uw 24 6 = 10 := bits_at hu 2 6 rfl rfl (by decide) rfl
  have f2 : bitsOf uw 18 12 = 640 := bits_at hu 2 0 rfl rfl (by decide) rfl
  have f3 : bitsOf uw 7 6 = 0 := bits_at hu 0 7 rfl rfl (by decide) rfl
  have f4 : bitsOf uw 31 1 = 0 := bits_at hu 4 0 rfl rfl (by decide) rfl
  have ew : fld uw 30 1 = w := fld_at hu 3 rfl rfl
  have ea : fld uw 13 5 = a := fld_at hu 1 rfl rfl
  rw [decodeWord_2c f0]
  unfold decodeMajor2c
  rw [if_neg (fun h => absurd (f1.symm.trans h.2.2.1) (by decide)), if_neg (fun h => absurd (f2.symm.trans h.2.1) (by decide)), if_neg (fun h => absurd (f1.symm.trans h.2.2.1) (by decide)), if_neg (fun h => absurd (f1.symm.trans h.2.2.1) (by decide)), if_neg (fun h => absurd (f1.symm.trans h.2.2.1) (by decide)), if_pos ⟨f3, f2, f4⟩, ew, ea]

theorem word_tsync : WordOf .tsync (encodeWord .tsync) := by
  have hp : encodeWord .tsync = packBits [(32, 91)] := by decide
  obtain ⟨uw, hu⟩ : ∃ uw, uw = packBits [(32, 91)] := ⟨_, rfl⟩
  rw [hp, ← hu]
  refine ⟨bits_at hu 0 0 rfl rfl (by decide) rfl, hu ▸ packBits_lt _, ?_⟩
  have f0 : bitsOf uw 1 6 = 45 := bits_at hu 0 1 rfl rfl (by decide) rfl
  have f1 : bitsOf uw 7 25 = 0 := bits_at hu 0 7 rfl rfl (by decide) rfl
  rw [decodeWord_2d f0]
  unfold decodeMajor2d
  rw [if_pos f1]

theorem word_clsync : WordOf .clsync (encodeWord .clsync) := by
  have hp : encodeWord .clsync = packBits [(32, 33554523)] := by decide
  obtain ⟨uw, hu⟩ : ∃ uw, uw = packBits [(32, 33554523)] := ⟨_, rfl⟩
  rw [hp, ← hu]
  refine ⟨bits_at hu 0 0 rfl rfl (by decide) rfl, hu ▸ packBits_lt _, ?_⟩
  have f0 : bitsOf uw 1 6 = 45 := bits_at hu 0 1 rfl rfl (by decide) rfl
  have f1 : bitsOf uw 7 25 = 262144 := bits_at hu 0 7 rfl rfl (by decide) rfl
  rw [decodeWord_2d f0]
  unfold decodeMajor2d
  rw [if_neg (fun h => absurd (f1.symm.trans h) (by decide)), if_pos f1]

theorem word_hld (r : BitVec 1) (l : BitVec 4) (i : BitVec 6) (k : BitVec 4) (h : BitVec 4) : WordOf (.hld r l i k h) (encodeWord (.hld r l i k h)) := by
  have hp : encodeWord (.hld r l i k h) = packBits [(7, 93), (4, h.toNat), (3, 0), (4, k.toNat), (6, i.toNat), (2, 3), (4, l.toNat), (1, r.toNat), (1, 0)] := by
    have := r.isLt; have := l.isLt; have := i.isLt; have := k.isLt; have := h.isLt
    change 50331741 + r.toNat * 1073741824 + l.toNat * 67108864 + i.toNat * 262144 + k.toNat * 16384 + h.toNat * 128 = _; simp only [packBits]; omega
  obtain ⟨uw, hu⟩ : ∃ uw, uw = packBits [(7, 93), (4, h.toNat), (3, 0), (4, k.toNat), (6, i.toNat), (2, 3), (4, l.toNat), (1, r.toNat), (1, 0)] := ⟨_, rfl⟩
  rw [hp, ← hu]
  refine ⟨bits_at hu 0 0 rfl rfl (by decide) rfl, hu ▸ packBits_lt _, ?_⟩
  have f0 : bitsOf uw 1 6 = 46 := bits_at hu 0 1 rfl rfl (by decide) rfl
  have f1 : bitsOf uw 11 3 = 0 := bits_at hu 2 0 rfl rfl (by decide) rfl
  have f2 : bitsOf uw 24 2 = 3 := bits_at hu 5 0 rfl rfl (by decide) rfl
  have f3 : bitsOf uw 31 1 = 0 := bits_at hu 8 0 rfl rfl (by decide) rfl
  have er : fld uw 30 1 = r := fld_at hu 7 rfl rfl
  have el : fld uw 26 4 = l := fld_at hu 6 rfl rfl
  have ei : fld uw 18 6 = i := fld_at hu 4 rfl rfl
  have ek : fld uw 14 4 = k := fld_at hu 3 rfl rfl
  have eh : fld uw 7 4 = h := fld_at hu 1 rfl rfl
  rw [decodeWord_2e f0]
  unfold decodeMajor2e
  rw [if_pos ⟨f1, f2, f3⟩, er, el, ei, ek, eh]

theorem word_hst (r : BitVec 1) (l : BitVec 4) (i : BitVec 6) (k : BitVec 4) (h : BitVec 4) : WordOf (.hst r l i k h) (encodeWord (.hst r l i k h)) := by
  have hp : encodeWord (.hst r l i k h) = packBits [(7, 93), (4, h.toNat), (3, 0), (4, k.toNat), (6, i.toNat), (2, 3), (4, l.toNat), (1, r.toNat), (1, 1)] := by
    have := r.isLt; have := l.isLt; have := i.isLt; have := k.isLt; have := h.isLt
    change 2197815389 + r.toNat * 1073741824 + l.toNat * 67108864 + i.toNat * 262144 + k.toNat * 16384 + h.toNat * 128 = _; simp only [packBits]; omega
  obtain ⟨uw, hu⟩ : ∃ uw, uw = packBits [(7, 93), (4, h.toNat), (3, 0), (4, k.toNat), (6, i.toNat), (2, 3), (4, l.toNat), (1, r.toNat), (1, 1)] := ⟨_, rfl⟩
  rw [hp, ← hu]
  refine ⟨bits_at hu 0 0 rfl rfl (by decide) rfl, hu ▸ packBits_lt _, ?_⟩
  have f0 : bitsOf uw 1 6 = 46 := bits_at hu 0 1 rfl rfl (by decide) rfl
  have f1 : bitsOf uw 31 1 = 1 := bits_at hu 8 0 rfl rfl (by decide) rfl
  have f2 : bitsOf uw 11 3 = 0 := bits_at hu 2 0 rfl rfl (by decide) rfl
  have f3 : bitsOf uw 24 2 = 3 := bits_at hu 5 0 rfl rfl (by decide) rfl
  have er : fld uw 30 1 = r := fld_at hu 7 rfl rfl
  have el : fld uw 26 4 = l := fld_at hu 6 rfl rfl
  have ei : fld uw 18 6 = i := fld_at hu 4 rfl rfl
  have ek : fld uw 14 4 = k := fld_at hu 3 rfl rfl
  have eh : fld uw 7 4 = h := fld_at hu 1 rfl rfl
  rw [decodeWord_2e f0]
  unfold decodeMajor2e
  rw [if_neg (fun h => absurd (f1.symm.trans h.2.2) (by decide)), if_pos ⟨f2, f3, f1⟩, er, el, ei, ek, eh]

theorem word_ldh (m : BitVec 2) (y : BitVec 1) (b : BitVec 6) (h : BitVec 4) (d : BitVec 6) : WordOf (.ldh m y b h d) (encodeWord (.ldh m y b h d)) := by
  have hp : encodeWord (.ldh m y b h d) = packBits [(7, 95), (6, d.toNat), (4, h.toNat), (2, 0), (6, b.toNat), (4, 0), (1, y.toNat), (2, m.toNat)] := by
    have := m.isLt; have := y.isLt; have := b.isLt; have := h.isLt; have := d.isLt
    change 95 + m.toNat * 1073741824 + y.toNat * 536870912 + b.toNat * 524288 + h.toNat * 8192 + d.toNat * 128 = _; simp only [packBits]; omega
  obtain ⟨uw, hu⟩ : ∃ uw, uw = packBits [(7, 95), (6, d.toNat), (4, h.toNat), (2, 0), (6, b.toNat), (4, 0), (1, y.toNat), (2, m.toNat)] := ⟨_, rfl⟩
  rw [hp, ← hu]
  refine ⟨bits_at hu 0 0 rfl rfl (by decide) rfl, hu ▸ packBits_lt _, ?_⟩
  have f0 : bitsOf uw 1 6 = 47 := bits_at hu 0 1 rfl rfl (by decide) rfl
  have f1 : bitsOf uw 17 2 = 0 := bits_at hu 3 0 rfl rfl (by decide) rfl
  have f2 : bitsOf uw 25 4 = 0 := bits_at hu 5 0 rfl rfl (by decide) rfl
  have em : fld uw 30 2 = m := fld_at hu 7 rfl rfl
  have ey : fld uw 29 1 = y := fld_at hu 6 rfl rfl
  have eb : fld uw 19 6 = b := fld_at hu 4 rfl rfl
  have eh : fld uw 13 4 = h := fld_at hu 2 rfl rfl
  have ed : fld uw 7 6 = d := fld_at hu 1 rfl rfl
  rw [decodeWord_2f f0]
  unfold decodeMajor2f
  rw [if_pos ⟨f1, f2⟩, em, ey, eb, eh, ed]

theorem word_sth (m : BitVec 2) (y : BitVec 1) (x : BitVec 1) (b : BitVec 6) (a : BitVec 6) (h : BitVec 4) : WordOf (.sth m y x b a h) (encodeWord (.sth m y x b a h)) := by
  have hp : encodeWord (.sth m y x b a h) = packBits [(7, 95), (4, h.toNat), (2, 0), (6, a.toNat), (6, b.toNat), (3, 1), (1, x.toNat), (1, y.toNat), (2, m.toNat)] := by
    have := m.isLt; have := y.isLt; have := x.isLt; have := b.isLt; have := a.isLt; have := h.isLt
    change 33554527 + m.toNat * 1073741824 + y.toNat * 536870912 + x.toNat * 268435456 + b.toNat * 524288 + a.toNat * 8192 + h.toNat * 128 = _; simp only [packBits]; omega
  obtain ⟨uw, hu⟩ : ∃ uw, uw = packBits [(7, 95), (4, h.toNat), (2, 0), (6, a.toNat), (6, b.toNat), (3, 1), (1, x.toNat), (1, y.toNat), (2, m.toNat)] := ⟨_, rfl⟩
  rw [hp, ← hu]
  refine ⟨bits_at hu 0 0 rfl rfl (by decide) rfl, hu ▸ packBits_lt _, ?_⟩
  have f0 : bitsOf uw 1 6 = 47 := bits_at hu 0 1 rfl rfl (by decide) rfl
  have f1 : bitsOf uw 11 2 = 0 := bits_at hu 2 0 rfl rfl (by decide) rfl
  have f2 : bitsOf uw 25 3 = 1 := bits_at hu 5 0 rfl rfl (by decide) rfl
  have em : fld uw 30 2 = m := fld_at hu 8 rfl rfl
  have ey : fld uw 29 1 = y := fld_at hu 7 rfl rfl
  have ex : fld uw 28 1 = x := fld_at hu 6 rfl rfl
  have eb : fld uw 19 6 = b := fld_at hu 4 rfl rfl
  have ea : fld uw 13 6 = a := fld_at hu 3 rfl rfl
  have eh : fld uw 7 4 = h := fld_at hu 1 rfl rfl
  rw [decodeWord_2f f0]
  unfold decodeMajor2f
  rw [if_neg (by rw [hu, ← hp]; change ¬ ((33554527 + m.toNat * 1073741824 + y.toNat * 536870912 + x.toNat * 268435456 + b.toNat * 524288 + a.toNat * 8192 + h.toNat * 128) / 2 ^ 17 % 2 ^ 2 = 0 ∧ (33554527 + m.toNat * 1073741824 + y.toNat * 536870912 + x.toNat * 268435456 + b.toNat * 524288 + a.toNat * 8192 + h.toNat * 128) / 2 ^ 25 % 2 ^ 4 = 0); have := m.isLt; have := y.isLt; have := x.isLt; have := b.isLt; have := a.isLt; have := h.isLt; omega), if_pos ⟨f1, f2⟩, em, ey, ex, eb, ea, eh]

theorem word_hnew (y : BitVec 1) (x : BitVec 1) (b : BitVec 6) (a : BitVec 6) (h : BitVec 4) : WordOf (.hnew y x b a h) (encodeWord (.hnew y x b a h)) := by
  have hp : encodeWord (.hnew y x b a h) = packBits [(7, 95), (4, h.toNat), (2, 0), (6, a.toNat), (6, b.toNat), (3, 2), (1, x.toNat), (1, y.toNat), (2, 0)] := by
    have := y.isLt; have := x.isLt; have := b.isLt; have := a.isLt; have := h.isLt
    change 67108959 + y.toNat * 536870912 + x.toNat * 268435456 + b.toNat * 524288 + a.toNat * 8192 + h.toNat * 128 = _; simp only [packBits]; omega
  obtain ⟨uw, hu⟩ : ∃ uw, uw = packBits [(7, 95), (4, h.toNat), (2, 0), (6, a.toNat), (6, b.toNat), (3, 2), (1, x.toNat), (1, y.toNat), (2, 0)] := ⟨_, rfl⟩
  rw [hp, ← hu]
  refine ⟨bits_at hu 0 0 rfl rfl (by decide) rfl, hu ▸ packBits_lt _, ?_⟩
  have f0 : bitsOf uw 1 6 = 47 := bits_at hu 0 1 rfl rfl (by decide) rfl
  have f1 : bitsOf uw 25 3 = 2 := bits_at hu 5 0 rfl rfl (by decide) rfl
  have f2 : bitsOf uw 11 2 = 0 := bits_at hu 2 0 rfl rfl (by decide) rfl
  have f3 : bitsOf uw 30 2 = 0 := bits_at hu 8 0 rfl rfl (by decide) rfl
  have ey : fld uw 29 1 = y := fld_at hu 7 rfl rfl
  have ex : fld uw 28 1 = x := fld_at hu 6 rfl rfl
  have eb : fld uw 19 6 = b := fld_at hu 4 rfl rfl
  have ea : fld uw 13 6 = a := fld_at hu 3 rfl rfl
  have eh : fld uw 7 4 = h := fld_at hu 1 rfl rfl
  rw [decodeWord_2f f0]
  unfold decodeMajor2f
  rw [if_neg (by rw [hu, ← hp]; change ¬ ((67108959 + y.toNat * 536870912 + x.toNat * 268435456 + b.toNat * 524288 + a.toNat * 8192 + h.toNat * 128) / 2 ^ 17 % 2 ^ 2 = 0 ∧ (67108959 + y.toNat * 536870912 + x.toNat * 268435456 + b.toNat * 524288 + a.toNat * 8192 + h.toNat * 128) / 2 ^ 25 % 2 ^ 4 = 0); have := y.isLt; have := x.isLt; have := b.isLt; have := a.isLt; have := h.isLt; omega), if_neg (fun h => absurd (f1.symm.trans h.2) (by decide)), if_pos ⟨f2, f1, f3⟩, ey, ex, eb, ea, eh]

theorem word_hfree (h : BitVec 4) : WordOf (.hfree h) (encodeWord (.hfree h)) := by
  have hp : encodeWord (.hfree h) = packBits [(7, 95), (4, h.toNat), (21, 49152)] := by
    have := h.isLt
    change 100663391 + h.toNat * 128 = _; simp only [packBits]; omega
  obtain ⟨uw, hu⟩ : ∃ uw, uw = packBits [(7, 95), (4, h.toNat), (21, 49152)] := ⟨_, rfl⟩
  rw [hp, ← hu]
  refine ⟨bits_at hu 0 0 rfl rfl (by decide) rfl, hu ▸ packBits_lt _, ?_⟩
  have f0 : bitsOf uw 1 6 = 47 := bits_at hu 0 1 rfl rfl (by decide) rfl
  have f1 : bitsOf uw 25 4 = 3 := bits_at hu 2 14 rfl rfl (by decide) rfl
  have f2 : bitsOf uw 25 3 = 3 := bits_at hu 2 14 rfl rfl (by decide) rfl
  have f3 : bitsOf uw 11 21 = 49152 := bits_at hu 2 0 rfl rfl (by decide) rfl
  have eh : fld uw 7 4 = h := fld_at hu 1 rfl rfl
  rw [decodeWord_2f f0]
  unfold decodeMajor2f
  rw [if_neg (fun h => absurd (f1.symm.trans h.2) (by decide)), if_neg (fun h => absurd (f2.symm.trans h.2) (by decide)), if_neg (fun h => absurd (f2.symm.trans h.2.1) (by decide)), if_pos f3, eh]

theorem word_hpin (h : BitVec 4) (d : BitVec 5) : WordOf (.hpin h d) (encodeWord (.hpin h d)) := by
  have hp : encodeWord (.hpin h d) = packBits [(8, 95), (5, d.toNat), (4, h.toNat), (15, 1024)] := by
    have := h.isLt; have := d.isLt
    change 134217823 + h.toNat * 8192 + d.toNat * 256 = _; simp only [packBits]; omega
  obtain ⟨uw, hu⟩ : ∃ uw, uw = packBits [(8, 95), (5, d.toNat), (4, h.toNat), (15, 1024)] := ⟨_, rfl⟩
  rw [hp, ← hu]
  refine ⟨bits_at hu 0 0 rfl rfl (by decide) rfl, hu ▸ packBits_lt _, ?_⟩
  have f0 : bitsOf uw 1 6 = 47 := bits_at hu 0 1 rfl rfl (by decide) rfl
  have f1 : bitsOf uw 25 4 = 4 := bits_at hu 3 8 rfl rfl (by decide) rfl
  have f2 : bitsOf uw 25 3 = 4 := bits_at hu 3 8 rfl rfl (by decide) rfl
  have f3 : bitsOf uw 7 1 = 0 := bits_at hu 0 7 rfl rfl (by decide) rfl
  have f4 : bitsOf uw 17 15 = 1024 := bits_at hu 3 0 rfl rfl (by decide) rfl
  have eh : fld uw 13 4 = h := fld_at hu 2 rfl rfl
  have ed : fld uw 8 5 = d := fld_at hu 1 rfl rfl
  rw [decodeWord_2f f0]
  unfold decodeMajor2f
  rw [if_neg (fun h => absurd (f1.symm.trans h.2) (by decide)), if_neg (fun h => absurd (f2.symm.trans h.2) (by decide)), if_neg (fun h => absurd (f2.symm.trans h.2.1) (by decide)), if_neg (by rw [hu, ← hp]; change ¬ ((134217823 + h.toNat * 8192 + d.toNat * 256) / 2 ^ 11 % 2 ^ 21 = 49152); have := h.isLt; have := d.isLt; omega), if_pos ⟨f3, f4⟩, eh, ed]

theorem word_hunpin (h : BitVec 4) : WordOf (.hunpin h) (encodeWord (.hunpin h)) := by
  have hp : encodeWord (.hunpin h) = packBits [(7, 95), (4, h.toNat), (21, 81920)] := by
    have := h.isLt
    change 167772255 + h.toNat * 128 = _; simp only [packBits]; omega
  obtain ⟨uw, hu⟩ : ∃ uw, uw = packBits [(7, 95), (4, h.toNat), (21, 81920)] := ⟨_, rfl⟩
  rw [hp, ← hu]
  refine ⟨bits_at hu 0 0 rfl rfl (by decide) rfl, hu ▸ packBits_lt _, ?_⟩
  have f0 : bitsOf uw 1 6 = 47 := bits_at hu 0 1 rfl rfl (by decide) rfl
  have f1 : bitsOf uw 25 4 = 5 := bits_at hu 2 14 rfl rfl (by decide) rfl
  have f2 : bitsOf uw 25 3 = 5 := bits_at hu 2 14 rfl rfl (by decide) rfl
  have f3 : bitsOf uw 11 21 = 81920 := bits_at hu 2 0 rfl rfl (by decide) rfl
  have f4 : bitsOf uw 17 15 = 1280 := bits_at hu 2 6 rfl rfl (by decide) rfl
  have eh : fld uw 7 4 = h := fld_at hu 1 rfl rfl
  rw [decodeWord_2f f0]
  unfold decodeMajor2f
  rw [if_neg (fun h => absurd (f1.symm.trans h.2) (by decide)), if_neg (fun h => absurd (f2.symm.trans h.2) (by decide)), if_neg (fun h => absurd (f2.symm.trans h.2.1) (by decide)), if_neg (fun h => absurd (f3.symm.trans h) (by decide)), if_neg (fun h => absurd (f4.symm.trans h.2) (by decide)), if_pos f3, eh]

theorem word_heq (g : BitVec 4) (h : BitVec 4) (p : BitVec 3) : WordOf (.heq g h p) (encodeWord (.heq g h p)) := by
  have hp : encodeWord (.heq g h p) = packBits [(7, 95), (3, p.toNat), (3, 0), (4, h.toNat), (2, 0), (4, g.toNat), (9, 24)] := by
    have := g.isLt; have := h.isLt; have := p.isLt
    change 201326687 + g.toNat * 524288 + h.toNat * 8192 + p.toNat * 128 = _; simp only [packBits]; omega
  obtain ⟨uw, hu⟩ : ∃ uw, uw = packBits [(7, 95), (3, p.toNat), (3, 0), (4, h.toNat), (2, 0), (4, g.toNat), (9, 24)] := ⟨_, rfl⟩
  rw [hp, ← hu]
  refine ⟨bits_at hu 0 0 rfl rfl (by decide) rfl, hu ▸ packBits_lt _, ?_⟩
  have f0 : bitsOf uw 1 6 = 47 := bits_at hu 0 1 rfl rfl (by decide) rfl
  have f1 : bitsOf uw 25 4 = 6 := bits_at hu 6 2 rfl rfl (by decide) rfl
  have f2 : bitsOf uw 25 3 = 6 := bits_at hu 6 2 rfl rfl (by decide) rfl
  have f3 : bitsOf uw 10 3 = 0 := bits_at hu 2 0 rfl rfl (by decide) rfl
  have f4 : bitsOf uw 17 2 = 0 := bits_at hu 4 0 rfl rfl (by decide) rfl
  have f5 : bitsOf uw 23 9 = 24 := bits_at hu 6 0 rfl rfl (by decide) rfl
  have eg : fld uw 19 4 = g := fld_at hu 5 rfl rfl
  have eh : fld uw 13 4 = h := fld_at hu 3 rfl rfl
  have ep : fld uw 7 3 = p := fld_at hu 1 rfl rfl
  rw [decodeWord_2f f0]
  unfold decodeMajor2f
  rw [if_neg (fun h => absurd (f1.symm.trans h.2) (by decide)), if_neg (fun h => absurd (f2.symm.trans h.2) (by decide)), if_neg (fun h => absurd (f2.symm.trans h.2.1) (by decide)), if_neg (by rw [hu, ← hp]; change ¬ ((201326687 + g.toNat * 524288 + h.toNat * 8192 + p.toNat * 128) / 2 ^ 11 % 2 ^ 21 = 49152); have := g.isLt; have := h.isLt; have := p.isLt; omega), if_neg (by rw [hu, ← hp]; change ¬ ((201326687 + g.toNat * 524288 + h.toNat * 8192 + p.toNat * 128) / 2 ^ 7 % 2 ^ 1 = 0 ∧ (201326687 + g.toNat * 524288 + h.toNat * 8192 + p.toNat * 128) / 2 ^ 17 % 2 ^ 15 = 1024); have := g.isLt; have := h.isLt; have := p.isLt; omega), if_neg (by rw [hu, ← hp]; change ¬ ((201326687 + g.toNat * 524288 + h.toNat * 8192 + p.toNat * 128) / 2 ^ 11 % 2 ^ 21 = 81920); have := g.isLt; have := h.isLt; have := p.isLt; omega), if_pos ⟨f3, f4, f5⟩, eg, eh, ep]

theorem word_htag (h : BitVec 4) (d : BitVec 6) : WordOf (.htag h d) (encodeWord (.htag h d)) := by
  have hp : encodeWord (.htag h d) = packBits [(7, 95), (6, d.toNat), (4, h.toNat), (15, 1792)] := by
    have := h.isLt; have := d.isLt
    change 234881119 + h.toNat * 8192 + d.toNat * 128 = _; simp only [packBits]; omega
  obtain ⟨uw, hu⟩ : ∃ uw, uw = packBits [(7, 95), (6, d.toNat), (4, h.toNat), (15, 1792)] := ⟨_, rfl⟩
  rw [hp, ← hu]
  refine ⟨bits_at hu 0 0 rfl rfl (by decide) rfl, hu ▸ packBits_lt _, ?_⟩
  have f0 : bitsOf uw 1 6 = 47 := bits_at hu 0 1 rfl rfl (by decide) rfl
  have f1 : bitsOf uw 25 4 = 7 := bits_at hu 3 8 rfl rfl (by decide) rfl
  have f2 : bitsOf uw 25 3 = 7 := bits_at hu 3 8 rfl rfl (by decide) rfl
  have f3 : bitsOf uw 17 15 = 1792 := bits_at hu 3 0 rfl rfl (by decide) rfl
  have f4 : bitsOf uw 23 9 = 28 := bits_at hu 3 6 rfl rfl (by decide) rfl
  have eh : fld uw 13 4 = h := fld_at hu 2 rfl rfl
  have ed : fld uw 7 6 = d := fld_at hu 1 rfl rfl
  rw [decodeWord_2f f0]
  unfold decodeMajor2f
  rw [if_neg (fun h => absurd (f1.symm.trans h.2) (by decide)), if_neg (fun h => absurd (f2.symm.trans h.2) (by decide)), if_neg (fun h => absurd (f2.symm.trans h.2.1) (by decide)), if_neg (by rw [hu, ← hp]; change ¬ ((234881119 + h.toNat * 8192 + d.toNat * 128) / 2 ^ 11 % 2 ^ 21 = 49152); have := h.isLt; have := d.isLt; omega), if_neg (fun h => absurd (f3.symm.trans h.2) (by decide)), if_neg (by rw [hu, ← hp]; change ¬ ((234881119 + h.toNat * 8192 + d.toNat * 128) / 2 ^ 11 % 2 ^ 21 = 81920); have := h.isLt; have := d.isLt; omega), if_neg (fun h => absurd (f4.symm.trans h.2.2) (by decide)), if_pos f3, eh, ed]

theorem word_qla (l : BitVec 4) (u : BitVec 1) (f : BitVec 4) (n : BitVec 3) (a : BitVec 6) : WordOf (.qla l u f n a) (encodeWord (.qla l u f n a)) := by
  have hp : encodeWord (.qla l u f n a) = packBits [(10, 97), (6, a.toNat), (3, n.toNat), (4, f.toNat), (1, u.toNat), (4, 0), (4, l.toNat)] := by
    have := l.isLt; have := u.isLt; have := f.isLt; have := n.isLt; have := a.isLt
    change 97 + l.toNat * 268435456 + u.toNat * 8388608 + f.toNat * 524288 + n.toNat * 65536 + a.toNat * 1024 = _; simp only [packBits]; omega
  obtain ⟨uw, hu⟩ : ∃ uw, uw = packBits [(10, 97), (6, a.toNat), (3, n.toNat), (4, f.toNat), (1, u.toNat), (4, 0), (4, l.toNat)] := ⟨_, rfl⟩
  rw [hp, ← hu]
  refine ⟨bits_at hu 0 0 rfl rfl (by decide) rfl, hu ▸ packBits_lt _, ?_⟩
  have f0 : bitsOf uw 1 6 = 48 := bits_at hu 0 1 rfl rfl (by decide) rfl
  have f1 : bitsOf uw 7 3 = 0 := bits_at hu 0 7 rfl rfl (by decide) rfl
  have f2 : bitsOf uw 24 4 = 0 := bits_at hu 5 0 rfl rfl (by decide) rfl
  have el : fld uw 28 4 = l := fld_at hu 6 rfl rfl
  have eu : fld uw 23 1 = u := fld_at hu 4 rfl rfl
  have ef : fld uw 19 4 = f := fld_at hu 3 rfl rfl
  have en : fld uw 16 3 = n := fld_at hu 2 rfl rfl
  have ea : fld uw 10 6 = a := fld_at hu 1 rfl rfl
  rw [decodeWord_30 f0]
  unfold decodeMajor30
  rw [if_pos ⟨f1, f2⟩, el, eu, ef, en, ea]

theorem word_qzero (l : BitVec 4) (v : BitVec 1) (t : BitVec 2) (n : BitVec 5) (q : BitVec 4) (d : BitVec 3) : WordOf (.qzero l v t n q d) (encodeWord (.qzero l v t n q d)) := by
  have hp : encodeWord (.qzero l v t n q d) = packBits [(10, 225), (3, d.toNat), (4, q.toNat), (5, n.toNat), (2, t.toNat), (1, v.toNat), (3, 0), (4, l.toNat)] := by
    have := l.isLt; have := v.isLt; have := t.isLt; have := n.isLt; have := q.isLt; have := d.isLt
    change 225 + l.toNat * 268435456 + v.toNat * 16777216 + t.toNat * 4194304 + n.toNat * 131072 + q.toNat * 8192 + d.toNat * 1024 = _; simp only [packBits]; omega
  obtain ⟨uw, hu⟩ : ∃ uw, uw = packBits [(10, 225), (3, d.toNat), (4, q.toNat), (5, n.toNat), (2, t.toNat), (1, v.toNat), (3, 0), (4, l.toNat)] := ⟨_, rfl⟩
  rw [hp, ← hu]
  refine ⟨bits_at hu 0 0 rfl rfl (by decide) rfl, hu ▸ packBits_lt _, ?_⟩
  have f0 : bitsOf uw 1 6 = 48 := bits_at hu 0 1 rfl rfl (by decide) rfl
  have f1 : bitsOf uw 7 3 = 1 := bits_at hu 0 7 rfl rfl (by decide) rfl
  have f2 : bitsOf uw 25 3 = 0 := bits_at hu 6 0 rfl rfl (by decide) rfl
  have el : fld uw 28 4 = l := fld_at hu 7 rfl rfl
  have ev : fld uw 24 1 = v := fld_at hu 5 rfl rfl
  have et : fld uw 22 2 = t := fld_at hu 4 rfl rfl
  have en : fld uw 17 5 = n := fld_at hu 3 rfl rfl
  have eq : fld uw 13 4 = q := fld_at hu 2 rfl rfl
  have ed : fld uw 10 3 = d := fld_at hu 1 rfl rfl
  rw [decodeWord_30 f0]
  unfold decodeMajor30
  rw [if_neg (fun h => absurd (f1.symm.trans h.1) (by decide)), if_pos ⟨f1, f2⟩, el, ev, et, en, eq, ed]

theorem word_qrd (l : BitVec 4) (i : BitVec 1) (n : BitVec 2) (c : BitVec 2) (r : BitVec 6) (d : BitVec 3) : WordOf (.qrd l i n c r d) (encodeWord (.qrd l i n c r d)) := by
  have hp : encodeWord (.qrd l i n c r d) = packBits [(10, 353), (3, d.toNat), (6, r.toNat), (2, c.toNat), (2, n.toNat), (1, i.toNat), (4, 0), (4, l.toNat)] := by
    have := l.isLt; have := i.isLt; have := n.isLt; have := c.isLt; have := r.isLt; have := d.isLt
    change 353 + l.toNat * 268435456 + i.toNat * 8388608 + n.toNat * 2097152 + c.toNat * 524288 + r.toNat * 8192 + d.toNat * 1024 = _; simp only [packBits]; omega
  obtain ⟨uw, hu⟩ : ∃ uw, uw = packBits [(10, 353), (3, d.toNat), (6, r.toNat), (2, c.toNat), (2, n.toNat), (1, i.toNat), (4, 0), (4, l.toNat)] := ⟨_, rfl⟩
  rw [hp, ← hu]
  refine ⟨bits_at hu 0 0 rfl rfl (by decide) rfl, hu ▸ packBits_lt _, ?_⟩
  have f0 : bitsOf uw 1 6 = 48 := bits_at hu 0 1 rfl rfl (by decide) rfl
  have f1 : bitsOf uw 7 3 = 2 := bits_at hu 0 7 rfl rfl (by decide) rfl
  have f2 : bitsOf uw 24 4 = 0 := bits_at hu 6 0 rfl rfl (by decide) rfl
  have el : fld uw 28 4 = l := fld_at hu 7 rfl rfl
  have ei : fld uw 23 1 = i := fld_at hu 5 rfl rfl
  have en : fld uw 21 2 = n := fld_at hu 4 rfl rfl
  have ec : fld uw 19 2 = c := fld_at hu 3 rfl rfl
  have er : fld uw 13 6 = r := fld_at hu 2 rfl rfl
  have ed : fld uw 10 3 = d := fld_at hu 1 rfl rfl
  rw [decodeWord_30 f0]
  unfold decodeMajor30
  rw [if_neg (fun h => absurd (f1.symm.trans h.1) (by decide)), if_neg (fun h => absurd (f1.symm.trans h.1) (by decide)), if_pos ⟨f1, f2⟩, el, ei, en, ec, er, ed]

theorem word_qwr (l : BitVec 4) (t : BitVec 1) (n : BitVec 2) (c : BitVec 2) (r : BitVec 6) (d : BitVec 3) : WordOf (.qwr l t n c r d) (encodeWord (.qwr l t n c r d)) := by
  have hp : encodeWord (.qwr l t n c r d) = packBits [(10, 481), (3, d.toNat), (6, r.toNat), (2, c.toNat), (2, n.toNat), (1, t.toNat), (4, 0), (4, l.toNat)] := by
    have := l.isLt; have := t.isLt; have := n.isLt; have := c.isLt; have := r.isLt; have := d.isLt
    change 481 + l.toNat * 268435456 + t.toNat * 8388608 + n.toNat * 2097152 + c.toNat * 524288 + r.toNat * 8192 + d.toNat * 1024 = _; simp only [packBits]; omega
  obtain ⟨uw, hu⟩ : ∃ uw, uw = packBits [(10, 481), (3, d.toNat), (6, r.toNat), (2, c.toNat), (2, n.toNat), (1, t.toNat), (4, 0), (4, l.toNat)] := ⟨_, rfl⟩
  rw [hp, ← hu]
  refine ⟨bits_at hu 0 0 rfl rfl (by decide) rfl, hu ▸ packBits_lt _, ?_⟩
  have f0 : bitsOf uw 1 6 = 48 := bits_at hu 0 1 rfl rfl (by decide) rfl
  have f1 : bitsOf uw 7 3 = 3 := bits_at hu 0 7 rfl rfl (by decide) rfl
  have f2 : bitsOf uw 24 4 = 0 := bits_at hu 6 0 rfl rfl (by decide) rfl
  have el : fld uw 28 4 = l := fld_at hu 7 rfl rfl
  have et : fld uw 23 1 = t := fld_at hu 5 rfl rfl
  have en : fld uw 21 2 = n := fld_at hu 4 rfl rfl
  have ec : fld uw 19 2 = c := fld_at hu 3 rfl rfl
  have er : fld uw 13 6 = r := fld_at hu 2 rfl rfl
  have ed : fld uw 10 3 = d := fld_at hu 1 rfl rfl
  rw [decodeWord_30 f0]
  unfold decodeMajor30
  rw [if_neg (fun h => absurd (f1.symm.trans h.1) (by decide)), if_neg (fun h => absurd (f1.symm.trans h.1) (by decide)), if_neg (fun h => absurd (f1.symm.trans h.1) (by decide)), if_pos ⟨f1, f2⟩, el, et, en, ec, er, ed]

theorem word_qrel (l : BitVec 4) (q : BitVec 4) (d : BitVec 3) : WordOf (.qrel l q d) (encodeWord (.qrel l q d)) := by
  have hp : encodeWord (.qrel l q d) = packBits [(10, 609), (3, d.toNat), (4, q.toNat), (11, 0), (4, l.toNat)] := by
    have := l.isLt; have := q.isLt; have := d.isLt
    change 609 + l.toNat * 268435456 + q.toNat * 8192 + d.toNat * 1024 = _; simp only [packBits]; omega
  obtain ⟨uw, hu⟩ : ∃ uw, uw = packBits [(10, 609), (3, d.toNat), (4, q.toNat), (11, 0), (4, l.toNat)] := ⟨_, rfl⟩
  rw [hp, ← hu]
  refine ⟨bits_at hu 0 0 rfl rfl (by decide) rfl, hu ▸ packBits_lt _, ?_⟩
  have f0 : bitsOf uw 1 6 = 48 := bits_at hu 0 1 rfl rfl (by decide) rfl
  have f1 : bitsOf uw 7 3 = 4 := bits_at hu 0 7 rfl rfl (by decide) rfl
  have f2 : bitsOf uw 17 11 = 0 := bits_at hu 3 0 rfl rfl (by decide) rfl
  have el : fld uw 28 4 = l := fld_at hu 4 rfl rfl
  have eq : fld uw 13 4 = q := fld_at hu 2 rfl rfl
  have ed : fld uw 10 3 = d := fld_at hu 1 rfl rfl
  rw [decodeWord_30 f0]
  unfold decodeMajor30
  rw [if_neg (fun h => absurd (f1.symm.trans h.1) (by decide)), if_neg (fun h => absurd (f1.symm.trans h.1) (by decide)), if_neg (fun h => absurd (f1.symm.trans h.1) (by decide)), if_neg (fun h => absurd (f1.symm.trans h.1) (by decide)), if_pos ⟨f1, f2⟩, el, eq, ed]

theorem word_qmm (l : BitVec 4) (z : BitVec 1) (s : BitVec 1) (k : BitVec 2) (f : BitVec 4) (q : BitVec 4) (d : BitVec 3) : WordOf (.qmm l z s k f q d) (encodeWord (.qmm l z s k f q d)) := by
  have hp : encodeWord (.qmm l z s k f q d) = packBits [(10, 99), (3, d.toNat), (4, q.toNat), (4, f.toNat), (2, k.toNat), (1, s.toNat), (1, z.toNat), (3, 0), (4, l.toNat)] := by
    have := l.isLt; have := z.isLt; have := s.isLt; have := k.isLt; have := f.isLt; have := q.isLt; have := d.isLt
    change 99 + l.toNat * 268435456 + z.toNat * 16777216 + s.toNat * 8388608 + k.toNat * 2097152 + f.toNat * 131072 + q.toNat * 8192 + d.toNat * 1024 = _; simp only [packBits]; omega
  obtain ⟨uw, hu⟩ : ∃ uw, uw = packBits [(10, 99), (3, d.toNat), (4, q.toNat), (4, f.toNat), (2, k.toNat), (1, s.toNat), (1, z.toNat), (3, 0), (4, l.toNat)] := ⟨_, rfl⟩
  rw [hp, ← hu]
  refine ⟨bits_at hu 0 0 rfl rfl (by decide) rfl, hu ▸ packBits_lt _, ?_⟩
  have f0 : bitsOf uw 1 6 = 49 := bits_at hu 0 1 rfl rfl (by decide) rfl
  have f1 : bitsOf uw 7 3 = 0 := bits_at hu 0 7 rfl rfl (by decide) rfl
  have f2 : bitsOf uw 25 3 = 0 := bits_at hu 7 0 rfl rfl (by decide) rfl
  have el : fld uw 28 4 = l := fld_at hu 8 rfl rfl
  have ez : fld uw 24 1 = z := fld_at hu 6 rfl rfl
  have es : fld uw 23 1 = s := fld_at hu 5 rfl rfl
  have ek : fld uw 21 2 = k := fld_at hu 4 rfl rfl
  have ef : fld uw 17 4 = f := fld_at hu 3 rfl rfl
  have eq : fld uw 13 4 = q := fld_at hu 2 rfl rfl
  have ed : fld uw 10 3 = d := fld_at hu 1 rfl rfl
  rw [decodeWord_31 f0]
  unfold decodeMajor31
  rw [if_pos ⟨f1, f2⟩, el, ez, es, ek, ef, eq, ed]

theorem word_qmmg (l : BitVec 4) (z : BitVec 1) (c : BitVec 5) (f : BitVec 4) (q : BitVec 4) (d : BitVec 3) : WordOf (.qmmg l z c f q d) (encodeWord (.qmmg l z c f q d)) := by
  have hp : encodeWord (.qmmg l z c f q d) = packBits [(10, 101), (3, d.toNat), (4, q.toNat), (4, f.toNat), (1, 0), (5, c.toNat), (1, z.toNat), (4, l.toNat)] := by
    have := l.isLt; have := z.isLt; have := c.isLt; have := f.isLt; have := q.isLt; have := d.isLt
    change 101 + l.toNat * 268435456 + z.toNat * 134217728 + c.toNat * 4194304 + f.toNat * 131072 + q.toNat * 8192 + d.toNat * 1024 = _; simp only [packBits]; omega
  obtain ⟨uw, hu⟩ : ∃ uw, uw = packBits [(10, 101), (3, d.toNat), (4, q.toNat), (4, f.toNat), (1, 0), (5, c.toNat), (1, z.toNat), (4, l.toNat)] := ⟨_, rfl⟩
  rw [hp, ← hu]
  refine ⟨bits_at hu 0 0 rfl rfl (by decide) rfl, hu ▸ packBits_lt _, ?_⟩
  have f0 : bitsOf uw 1 6 = 50 := bits_at hu 0 1 rfl rfl (by decide) rfl
  have f1 : bitsOf uw 7 3 = 0 := bits_at hu 0 7 rfl rfl (by decide) rfl
  have f2 : bitsOf uw 21 1 = 0 := bits_at hu 4 0 rfl rfl (by decide) rfl
  have el : fld uw 28 4 = l := fld_at hu 7 rfl rfl
  have ez : fld uw 27 1 = z := fld_at hu 6 rfl rfl
  have ec : fld uw 22 5 = c := fld_at hu 5 rfl rfl
  have ef : fld uw 17 4 = f := fld_at hu 3 rfl rfl
  have eq : fld uw 13 4 = q := fld_at hu 2 rfl rfl
  have ed : fld uw 10 3 = d := fld_at hu 1 rfl rfl
  rw [decodeWord_32 f0]
  unfold decodeMajor32
  rw [if_pos ⟨f1, f2⟩, el, ez, ec, ef, eq, ed]

theorem word_qdist (l : BitVec 4) (z : BitVec 1) (s : BitVec 1) (k : BitVec 2) (f : BitVec 4) (q : BitVec 4) (d : BitVec 3) : WordOf (.qdist l z s k f q d) (encodeWord (.qdist l z s k f q d)) := by
  have hp : encodeWord (.qdist l z s k f q d) = packBits [(10, 103), (3, d.toNat), (4, q.toNat), (4, f.toNat), (2, k.toNat), (1, s.toNat), (1, z.toNat), (3, 0), (4, l.toNat)] := by
    have := l.isLt; have := z.isLt; have := s.isLt; have := k.isLt; have := f.isLt; have := q.isLt; have := d.isLt
    change 103 + l.toNat * 268435456 + z.toNat * 16777216 + s.toNat * 8388608 + k.toNat * 2097152 + f.toNat * 131072 + q.toNat * 8192 + d.toNat * 1024 = _; simp only [packBits]; omega
  obtain ⟨uw, hu⟩ : ∃ uw, uw = packBits [(10, 103), (3, d.toNat), (4, q.toNat), (4, f.toNat), (2, k.toNat), (1, s.toNat), (1, z.toNat), (3, 0), (4, l.toNat)] := ⟨_, rfl⟩
  rw [hp, ← hu]
  refine ⟨bits_at hu 0 0 rfl rfl (by decide) rfl, hu ▸ packBits_lt _, ?_⟩
  have f0 : bitsOf uw 1 6 = 51 := bits_at hu 0 1 rfl rfl (by decide) rfl
  have f1 : bitsOf uw 7 3 = 0 := bits_at hu 0 7 rfl rfl (by decide) rfl
  have f2 : bitsOf uw 25 3 = 0 := bits_at hu 7 0 rfl rfl (by decide) rfl
  have el : fld uw 28 4 = l := fld_at hu 8 rfl rfl
  have ez : fld uw 24 1 = z := fld_at hu 6 rfl rfl
  have es : fld uw 23 1 = s := fld_at hu 5 rfl rfl
  have ek : fld uw 21 2 = k := fld_at hu 4 rfl rfl
  have ef : fld uw 17 4 = f := fld_at hu 3 rfl rfl
  have eq : fld uw 13 4 = q := fld_at hu 2 rfl rfl
  have ed : fld uw 10 3 = d := fld_at hu 1 rfl rfl
  rw [decodeWord_33 f0]
  unfold decodeMajor33
  rw [if_pos ⟨f1, f2⟩, el, ez, es, ek, ef, eq, ed]

theorem word_qtopk (l : BitVec 4) (k : BitVec 5) (q : BitVec 4) (s : BitVec 3) (d : BitVec 3) : WordOf (.qtopk l k q s d) (encodeWord (.qtopk l k q s d)) := by
  have hp : encodeWord (.qtopk l k q s d) = packBits [(10, 231), (3, d.toNat), (3, s.toNat), (4, q.toNat), (5, k.toNat), (3, 0), (4, l.toNat)] := by
    have := l.isLt; have := k.isLt; have := q.isLt; have := s.isLt; have := d.isLt
    change 231 + l.toNat * 268435456 + k.toNat * 1048576 + q.toNat * 65536 + s.toNat * 8192 + d.toNat * 1024 = _; simp only [packBits]; omega
  obtain ⟨uw, hu⟩ : ∃ uw, uw = packBits [(10, 231), (3, d.toNat), (3, s.toNat), (4, q.toNat), (5, k.toNat), (3, 0), (4, l.toNat)] := ⟨_, rfl⟩
  rw [hp, ← hu]
  refine ⟨bits_at hu 0 0 rfl rfl (by decide) rfl, hu ▸ packBits_lt _, ?_⟩
  have f0 : bitsOf uw 1 6 = 51 := bits_at hu 0 1 rfl rfl (by decide) rfl
  have f1 : bitsOf uw 7 3 = 1 := bits_at hu 0 7 rfl rfl (by decide) rfl
  have f2 : bitsOf uw 25 3 = 0 := bits_at hu 5 0 rfl rfl (by decide) rfl
  have el : fld uw 28 4 = l := fld_at hu 6 rfl rfl
  have ek : fld uw 20 5 = k := fld_at hu 4 rfl rfl
  have eq : fld uw 16 4 = q := fld_at hu 3 rfl rfl
  have es : fld uw 13 3 = s := fld_at hu 2 rfl rfl
  have ed : fld uw 10 3 = d := fld_at hu 1 rfl rfl
  rw [decodeWord_33 f0]
  unfold decodeMajor33
  rw [if_neg (fun h => absurd (f1.symm.trans h.1) (by decide)), if_pos ⟨f1, f2⟩, el, ek, eq, es, ed]

theorem word_qatt (l : BitVec 4) (h : BitVec 4) (q : BitVec 4) (s : BitVec 3) (e : BitVec 1) (k : BitVec 2) : WordOf (.qatt l h q s e k) (encodeWord (.qatt l h q s e k)) := by
  have hp : encodeWord (.qatt l h q s e k) = packBits [(14, 105), (2, k.toNat), (1, e.toNat), (3, s.toNat), (4, q.toNat), (4, h.toNat), (4, l.toNat)] := by
    have := l.isLt; have := h.isLt; have := q.isLt; have := s.isLt; have := e.isLt; have := k.isLt
    change 105 + l.toNat * 268435456 + h.toNat * 16777216 + q.toNat * 1048576 + s.toNat * 131072 + e.toNat * 65536 + k.toNat * 16384 = _; simp only [packBits]; omega
  obtain ⟨uw, hu⟩ : ∃ uw, uw = packBits [(14, 105), (2, k.toNat), (1, e.toNat), (3, s.toNat), (4, q.toNat), (4, h.toNat), (4, l.toNat)] := ⟨_, rfl⟩
  rw [hp, ← hu]
  refine ⟨bits_at hu 0 0 rfl rfl (by decide) rfl, hu ▸ packBits_lt _, ?_⟩
  have f0 : bitsOf uw 1 6 = 52 := bits_at hu 0 1 rfl rfl (by decide) rfl
  have f1 : bitsOf uw 7 7 = 0 := bits_at hu 0 7 rfl rfl (by decide) rfl
  have el : fld uw 28 4 = l := fld_at hu 6 rfl rfl
  have eh : fld uw 24 4 = h := fld_at hu 5 rfl rfl
  have eq : fld uw 20 4 = q := fld_at hu 4 rfl rfl
  have es : fld uw 17 3 = s := fld_at hu 3 rfl rfl
  have ee : fld uw 16 1 = e := fld_at hu 2 rfl rfl
  have ek : fld uw 14 2 = k := fld_at hu 1 rfl rfl
  rw [decodeWord_34 f0]
  unfold decodeMajor34
  rw [if_pos f1, el, eh, eq, es, ee, ek]

theorem word_qatf (l : BitVec 4) (h : BitVec 4) (q : BitVec 4) (s : BitVec 3) (e : BitVec 1) (k : BitVec 2) : WordOf (.qatf l h q s e k) (encodeWord (.qatf l h q s e k)) := by
  have hp : encodeWord (.qatf l h q s e k) = packBits [(14, 233), (2, k.toNat), (1, e.toNat), (3, s.toNat), (4, q.toNat), (4, h.toNat), (4, l.toNat)] := by
    have := l.isLt; have := h.isLt; have := q.isLt; have := s.isLt; have := e.isLt; have := k.isLt
    change 233 + l.toNat * 268435456 + h.toNat * 16777216 + q.toNat * 1048576 + s.toNat * 131072 + e.toNat * 65536 + k.toNat * 16384 = _; simp only [packBits]; omega
  obtain ⟨uw, hu⟩ : ∃ uw, uw = packBits [(14, 233), (2, k.toNat), (1, e.toNat), (3, s.toNat), (4, q.toNat), (4, h.toNat), (4, l.toNat)] := ⟨_, rfl⟩
  rw [hp, ← hu]
  refine ⟨bits_at hu 0 0 rfl rfl (by decide) rfl, hu ▸ packBits_lt _, ?_⟩
  have f0 : bitsOf uw 1 6 = 52 := bits_at hu 0 1 rfl rfl (by decide) rfl
  have f1 : bitsOf uw 7 7 = 1 := bits_at hu 0 7 rfl rfl (by decide) rfl
  have el : fld uw 28 4 = l := fld_at hu 6 rfl rfl
  have eh : fld uw 24 4 = h := fld_at hu 5 rfl rfl
  have eq : fld uw 20 4 = q := fld_at hu 4 rfl rfl
  have es : fld uw 17 3 = s := fld_at hu 3 rfl rfl
  have ee : fld uw 16 1 = e := fld_at hu 2 rfl rfl
  have ek : fld uw 14 2 = k := fld_at hu 1 rfl rfl
  rw [decodeWord_34 f0]
  unfold decodeMajor34
  rw [if_neg (fun h => absurd (f1.symm.trans h) (by decide)), if_pos f1, el, eh, eq, es, ee, ek]

theorem word_qsel (l : BitVec 4) (h : BitVec 4) (q : BitVec 4) (s : BitVec 3) (e : BitVec 1) (k : BitVec 2) : WordOf (.qsel l h q s e k) (encodeWord (.qsel l h q s e k)) := by
  have hp : encodeWord (.qsel l h q s e k) = packBits [(14, 361), (2, k.toNat), (1, e.toNat), (3, s.toNat), (4, q.toNat), (4, h.toNat), (4, l.toNat)] := by
    have := l.isLt; have := h.isLt; have := q.isLt; have := s.isLt; have := e.isLt; have := k.isLt
    change 361 + l.toNat * 268435456 + h.toNat * 16777216 + q.toNat * 1048576 + s.toNat * 131072 + e.toNat * 65536 + k.toNat * 16384 = _; simp only [packBits]; omega
  obtain ⟨uw, hu⟩ : ∃ uw, uw = packBits [(14, 361), (2, k.toNat), (1, e.toNat), (3, s.toNat), (4, q.toNat), (4, h.toNat), (4, l.toNat)] := ⟨_, rfl⟩
  rw [hp, ← hu]
  refine ⟨bits_at hu 0 0 rfl rfl (by decide) rfl, hu ▸ packBits_lt _, ?_⟩
  have f0 : bitsOf uw 1 6 = 52 := bits_at hu 0 1 rfl rfl (by decide) rfl
  have f1 : bitsOf uw 7 7 = 2 := bits_at hu 0 7 rfl rfl (by decide) rfl
  have el : fld uw 28 4 = l := fld_at hu 6 rfl rfl
  have eh : fld uw 24 4 = h := fld_at hu 5 rfl rfl
  have eq : fld uw 20 4 = q := fld_at hu 4 rfl rfl
  have es : fld uw 17 3 = s := fld_at hu 3 rfl rfl
  have ee : fld uw 16 1 = e := fld_at hu 2 rfl rfl
  have ek : fld uw 14 2 = k := fld_at hu 1 rfl rfl
  rw [decodeWord_34 f0]
  unfold decodeMajor34
  rw [if_neg (fun h => absurd (f1.symm.trans h) (by decide)), if_neg (fun h => absurd (f1.symm.trans h) (by decide)), if_pos f1, el, eh, eq, es, ee, ek]

theorem word_mxq (l : BitVec 4) (f : BitVec 3) (d : BitVec 1) (s : BitVec 1) (t : BitVec 1) (k : BitVec 2) : WordOf (.mxq l f d s t k) (encodeWord (.mxq l f d s t k)) := by
  have hp : encodeWord (.mxq l f d s t k) = packBits [(10, 107), (2, k.toNat), (10, 0), (1, t.toNat), (1, s.toNat), (1, d.toNat), (3, f.toNat), (4, l.toNat)] := by
    have := l.isLt; have := f.isLt; have := d.isLt; have := s.isLt; have := t.isLt; have := k.isLt
    change 107 + l.toNat * 268435456 + f.toNat * 33554432 + d.toNat * 16777216 + s.toNat * 8388608 + t.toNat * 4194304 + k.toNat * 1024 = _; simp only [packBits]; omega
  obtain ⟨uw, hu⟩ : ∃ uw, uw = packBits [(10, 107), (2, k.toNat), (10, 0), (1, t.toNat), (1, s.toNat), (1, d.toNat), (3, f.toNat), (4, l.toNat)] := ⟨_, rfl⟩
  rw [hp, ← hu]
  refine ⟨bits_at hu 0 0 rfl rfl (by decide) rfl, hu ▸ packBits_lt _, ?_⟩
  have f0 : bitsOf uw 1 6 = 53 := bits_at hu 0 1 rfl rfl (by decide) rfl
  have f1 : bitsOf uw 7 3 = 0 := bits_at hu 0 7 rfl rfl (by decide) rfl
  have f2 : bitsOf uw 12 10 = 0 := bits_at hu 2 0 rfl rfl (by decide) rfl
  have el : fld uw 28 4 = l := fld_at hu 7 rfl rfl
  have ef : fld uw 25 3 = f := fld_at hu 6 rfl rfl
  have ed : fld uw 24 1 = d := fld_at hu 5 rfl rfl
  have es : fld uw 23 1 = s := fld_at hu 4 rfl rfl
  have et : fld uw 22 1 = t := fld_at hu 3 rfl rfl
  have ek : fld uw 10 2 = k := fld_at hu 1 rfl rfl
  rw [decodeWord_35 f0]
  unfold decodeMajor35
  rw [if_pos ⟨f1, f2⟩, el, ef, ed, es, et, ek]

theorem word_mxd (l : BitVec 4) (f : BitVec 3) (d : BitVec 1) (s : BitVec 1) (t : BitVec 1) (k : BitVec 2) : WordOf (.mxd l f d s t k) (encodeWord (.mxd l f d s t k)) := by
  have hp : encodeWord (.mxd l f d s t k) = packBits [(10, 235), (2, k.toNat), (10, 0), (1, t.toNat), (1, s.toNat), (1, d.toNat), (3, f.toNat), (4, l.toNat)] := by
    have := l.isLt; have := f.isLt; have := d.isLt; have := s.isLt; have := t.isLt; have := k.isLt
    change 235 + l.toNat * 268435456 + f.toNat * 33554432 + d.toNat * 16777216 + s.toNat * 8388608 + t.toNat * 4194304 + k.toNat * 1024 = _; simp only [packBits]; omega
  obtain ⟨uw, hu⟩ : ∃ uw, uw = packBits [(10, 235), (2, k.toNat), (10, 0), (1, t.toNat), (1, s.toNat), (1, d.toNat), (3, f.toNat), (4, l.toNat)] := ⟨_, rfl⟩
  rw [hp, ← hu]
  refine ⟨bits_at hu 0 0 rfl rfl (by decide) rfl, hu ▸ packBits_lt _, ?_⟩
  have f0 : bitsOf uw 1 6 = 53 := bits_at hu 0 1 rfl rfl (by decide) rfl
  have f1 : bitsOf uw 7 3 = 1 := bits_at hu 0 7 rfl rfl (by decide) rfl
  have f2 : bitsOf uw 12 10 = 0 := bits_at hu 2 0 rfl rfl (by decide) rfl
  have el : fld uw 28 4 = l := fld_at hu 7 rfl rfl
  have ef : fld uw 25 3 = f := fld_at hu 6 rfl rfl
  have ed : fld uw 24 1 = d := fld_at hu 5 rfl rfl
  have es : fld uw 23 1 = s := fld_at hu 4 rfl rfl
  have et : fld uw 22 1 = t := fld_at hu 3 rfl rfl
  have ek : fld uw 10 2 = k := fld_at hu 1 rfl rfl
  rw [decodeWord_35 f0]
  unfold decodeMajor35
  rw [if_neg (fun h => absurd (f1.symm.trans h.1) (by decide)), if_pos ⟨f1, f2⟩, el, ef, ed, es, et, ek]

theorem word_mload (l : BitVec 4) (k : BitVec 4) (s : BitVec 3) : WordOf (.mload l k s) (encodeWord (.mload l k s)) := by
  have hp : encodeWord (.mload l k s) = packBits [(10, 109), (3, s.toNat), (1, 0), (4, k.toNat), (10, 0), (4, l.toNat)] := by
    have := l.isLt; have := k.isLt; have := s.isLt
    change 109 + l.toNat * 268435456 + k.toNat * 16384 + s.toNat * 1024 = _; simp only [packBits]; omega
  obtain ⟨uw, hu⟩ : ∃ uw, uw = packBits [(10, 109), (3, s.toNat), (1, 0), (4, k.toNat), (10, 0), (4, l.toNat)] := ⟨_, rfl⟩
  rw [hp, ← hu]
  refine ⟨bits_at hu 0 0 rfl rfl (by decide) rfl, hu ▸ packBits_lt _, ?_⟩
  have f0 : bitsOf uw 1 6 = 54 := bits_at hu 0 1 rfl rfl (by decide) rfl
  have f1 : bitsOf uw 7 3 = 0 := bits_at hu 0 7 rfl rfl (by decide) rfl
  have f2 : bitsOf uw 13 1 = 0 := bits_at hu 2 0 rfl rfl (by decide) rfl
  have f3 : bitsOf uw 18 10 = 0 := bits_at hu 4 0 rfl rfl (by decide) rfl
  have el : fld uw 28 4 = l := fld_at hu 5 rfl rfl
  have ek : fld uw 14 4 = k := fld_at hu 3 rfl rfl
  have es : fld uw 10 3 = s := fld_at hu 1 rfl rfl
  rw [decodeWord_36 f0]
  unfold decodeMajor36
  rw [if_pos ⟨f1, f2, f3⟩, el, ek, es]

theorem word_mfree (l : BitVec 4) (s : BitVec 3) : WordOf (.mfree l s) (encodeWord (.mfree l s)) := by
  have hp : encodeWord (.mfree l s) = packBits [(10, 237), (3, s.toNat), (15, 0), (4, l.toNat)] := by
    have := l.isLt; have := s.isLt
    change 237 + l.toNat * 268435456 + s.toNat * 1024 = _; simp only [packBits]; omega
  obtain ⟨uw, hu⟩ : ∃ uw, uw = packBits [(10, 237), (3, s.toNat), (15, 0), (4, l.toNat)] := ⟨_, rfl⟩
  rw [hp, ← hu]
  refine ⟨bits_at hu 0 0 rfl rfl (by decide) rfl, hu ▸ packBits_lt _, ?_⟩
  have f0 : bitsOf uw 1 6 = 54 := bits_at hu 0 1 rfl rfl (by decide) rfl
  have f1 : bitsOf uw 7 3 = 1 := bits_at hu 0 7 rfl rfl (by decide) rfl
  have f2 : bitsOf uw 13 15 = 0 := bits_at hu 2 0 rfl rfl (by decide) rfl
  have el : fld uw 28 4 = l := fld_at hu 3 rfl rfl
  have es : fld uw 10 3 = s := fld_at hu 1 rfl rfl
  rw [decodeWord_36 f0]
  unfold decodeMajor36
  rw [if_neg (fun h => absurd (f1.symm.trans h.1) (by decide)), if_pos ⟨f1, f2⟩, el, es]

theorem word_mclass (l : BitVec 4) (q : BitVec 2) (d : BitVec 5) (s : BitVec 3) : WordOf (.mclass l q d s) (encodeWord (.mclass l q d s)) := by
  have hp : encodeWord (.mclass l q d s) = packBits [(10, 365), (3, s.toNat), (5, d.toNat), (2, q.toNat), (8, 0), (4, l.toNat)] := by
    have := l.isLt; have := q.isLt; have := d.isLt; have := s.isLt
    change 365 + l.toNat * 268435456 + q.toNat * 262144 + d.toNat * 8192 + s.toNat * 1024 = _; simp only [packBits]; omega
  obtain ⟨uw, hu⟩ : ∃ uw, uw = packBits [(10, 365), (3, s.toNat), (5, d.toNat), (2, q.toNat), (8, 0), (4, l.toNat)] := ⟨_, rfl⟩
  rw [hp, ← hu]
  refine ⟨bits_at hu 0 0 rfl rfl (by decide) rfl, hu ▸ packBits_lt _, ?_⟩
  have f0 : bitsOf uw 1 6 = 54 := bits_at hu 0 1 rfl rfl (by decide) rfl
  have f1 : bitsOf uw 7 3 = 2 := bits_at hu 0 7 rfl rfl (by decide) rfl
  have f2 : bitsOf uw 20 8 = 0 := bits_at hu 4 0 rfl rfl (by decide) rfl
  have el : fld uw 28 4 = l := fld_at hu 5 rfl rfl
  have eq : fld uw 18 2 = q := fld_at hu 3 rfl rfl
  have ed : fld uw 13 5 = d := fld_at hu 2 rfl rfl
  have es : fld uw 10 3 = s := fld_at hu 1 rfl rfl
  rw [decodeWord_36 f0]
  unfold decodeMajor36
  rw [if_neg (fun h => absurd (f1.symm.trans h.1) (by decide)), if_neg (fun h => absurd (f1.symm.trans h.1) (by decide)), if_pos ⟨f1, f2⟩, el, eq, ed, es]

theorem word_mstat (l : BitVec 4) (d : BitVec 4) (s : BitVec 3) : WordOf (.mstat l d s) (encodeWord (.mstat l d s)) := by
  have hp : encodeWord (.mstat l d s) = packBits [(10, 493), (3, s.toNat), (1, 0), (4, d.toNat), (10, 0), (4, l.toNat)] := by
    have := l.isLt; have := d.isLt; have := s.isLt
    change 493 + l.toNat * 268435456 + d.toNat * 16384 + s.toNat * 1024 = _; simp only [packBits]; omega
  obtain ⟨uw, hu⟩ : ∃ uw, uw = packBits [(10, 493), (3, s.toNat), (1, 0), (4, d.toNat), (10, 0), (4, l.toNat)] := ⟨_, rfl⟩
  rw [hp, ← hu]
  refine ⟨bits_at hu 0 0 rfl rfl (by decide) rfl, hu ▸ packBits_lt _, ?_⟩
  have f0 : bitsOf uw 1 6 = 54 := bits_at hu 0 1 rfl rfl (by decide) rfl
  have f1 : bitsOf uw 7 3 = 3 := bits_at hu 0 7 rfl rfl (by decide) rfl
  have f2 : bitsOf uw 13 1 = 0 := bits_at hu 2 0 rfl rfl (by decide) rfl
  have f3 : bitsOf uw 18 10 = 0 := bits_at hu 4 0 rfl rfl (by decide) rfl
  have el : fld uw 28 4 = l := fld_at hu 5 rfl rfl
  have ed : fld uw 14 4 = d := fld_at hu 3 rfl rfl
  have es : fld uw 10 3 = s := fld_at hu 1 rfl rfl
  rw [decodeWord_36 f0]
  unfold decodeMajor36
  rw [if_neg (fun h => absurd (f1.symm.trans h.1) (by decide)), if_neg (fun h => absurd (f1.symm.trans h.1) (by decide)), if_neg (fun h => absurd (f1.symm.trans h.1) (by decide)), if_pos ⟨f1, f2, f3⟩, el, ed, es]

theorem word_kvnew (l : BitVec 4) (q : BitVec 2) (d : BitVec 5) : WordOf (.kvnew l q d) (encodeWord (.kvnew l q d)) := by
  have hp : encodeWord (.kvnew l q d) = packBits [(13, 111), (5, d.toNat), (2, q.toNat), (8, 0), (4, l.toNat)] := by
    have := l.isLt; have := q.isLt; have := d.isLt
    change 111 + l.toNat * 268435456 + q.toNat * 262144 + d.toNat * 8192 = _; simp only [packBits]; omega
  obtain ⟨uw, hu⟩ : ∃ uw, uw = packBits [(13, 111), (5, d.toNat), (2, q.toNat), (8, 0), (4, l.toNat)] := ⟨_, rfl⟩
  rw [hp, ← hu]
  refine ⟨bits_at hu 0 0 rfl rfl (by decide) rfl, hu ▸ packBits_lt _, ?_⟩
  have f0 : bitsOf uw 1 6 = 55 := bits_at hu 0 1 rfl rfl (by decide) rfl
  have f1 : bitsOf uw 7 6 = 0 := bits_at hu 0 7 rfl rfl (by decide) rfl
  have f2 : bitsOf uw 20 8 = 0 := bits_at hu 3 0 rfl rfl (by decide) rfl
  have el : fld uw 28 4 = l := fld_at hu 4 rfl rfl
  have eq : fld uw 18 2 = q := fld_at hu 2 rfl rfl
  have ed : fld uw 13 5 = d := fld_at hu 1 rfl rfl
  rw [decodeWord_37 f0]
  unfold decodeMajor37
  rw [if_pos ⟨f1, f2⟩, el, eq, ed]

theorem word_kvseal (l : BitVec 4) (q : BitVec 2) (d : BitVec 5) : WordOf (.kvseal l q d) (encodeWord (.kvseal l q d)) := by
  have hp : encodeWord (.kvseal l q d) = packBits [(13, 239), (5, d.toNat), (2, q.toNat), (8, 0), (4, l.toNat)] := by
    have := l.isLt; have := q.isLt; have := d.isLt
    change 239 + l.toNat * 268435456 + q.toNat * 262144 + d.toNat * 8192 = _; simp only [packBits]; omega
  obtain ⟨uw, hu⟩ : ∃ uw, uw = packBits [(13, 239), (5, d.toNat), (2, q.toNat), (8, 0), (4, l.toNat)] := ⟨_, rfl⟩
  rw [hp, ← hu]
  refine ⟨bits_at hu 0 0 rfl rfl (by decide) rfl, hu ▸ packBits_lt _, ?_⟩
  have f0 : bitsOf uw 1 6 = 55 := bits_at hu 0 1 rfl rfl (by decide) rfl
  have f1 : bitsOf uw 7 6 = 1 := bits_at hu 0 7 rfl rfl (by decide) rfl
  have f2 : bitsOf uw 20 8 = 0 := bits_at hu 3 0 rfl rfl (by decide) rfl
  have el : fld uw 28 4 = l := fld_at hu 4 rfl rfl
  have eq : fld uw 18 2 = q := fld_at hu 2 rfl rfl
  have ed : fld uw 13 5 = d := fld_at hu 1 rfl rfl
  rw [decodeWord_37 f0]
  unfold decodeMajor37
  rw [if_neg (fun h => absurd (f1.symm.trans h.1) (by decide)), if_pos ⟨f1, f2⟩, el, eq, ed]

theorem word_kvdem (l : BitVec 4) (q : BitVec 2) (d : BitVec 5) : WordOf (.kvdem l q d) (encodeWord (.kvdem l q d)) := by
  have hp : encodeWord (.kvdem l q d) = packBits [(13, 367), (5, d.toNat), (2, q.toNat), (8, 0), (4, l.toNat)] := by
    have := l.isLt; have := q.isLt; have := d.isLt
    change 367 + l.toNat * 268435456 + q.toNat * 262144 + d.toNat * 8192 = _; simp only [packBits]; omega
  obtain ⟨uw, hu⟩ : ∃ uw, uw = packBits [(13, 367), (5, d.toNat), (2, q.toNat), (8, 0), (4, l.toNat)] := ⟨_, rfl⟩
  rw [hp, ← hu]
  refine ⟨bits_at hu 0 0 rfl rfl (by decide) rfl, hu ▸ packBits_lt _, ?_⟩
  have f0 : bitsOf uw 1 6 = 55 := bits_at hu 0 1 rfl rfl (by decide) rfl
  have f1 : bitsOf uw 7 6 = 2 := bits_at hu 0 7 rfl rfl (by decide) rfl
  have f2 : bitsOf uw 20 8 = 0 := bits_at hu 3 0 rfl rfl (by decide) rfl
  have el : fld uw 28 4 = l := fld_at hu 4 rfl rfl
  have eq : fld uw 18 2 = q := fld_at hu 2 rfl rfl
  have ed : fld uw 13 5 = d := fld_at hu 1 rfl rfl
  rw [decodeWord_37 f0]
  unfold decodeMajor37
  rw [if_neg (fun h => absurd (f1.symm.trans h.1) (by decide)), if_neg (fun h => absurd (f1.symm.trans h.1) (by decide)), if_pos ⟨f1, f2⟩, el, eq, ed]

theorem word_kvdemInv (l : BitVec 4) (q : BitVec 2) (d : BitVec 5) : WordOf (.kvdemInv l q d) (encodeWord (.kvdemInv l q d)) := by
  have hp : encodeWord (.kvdemInv l q d) = packBits [(13, 1391), (5, d.toNat), (2, q.toNat), (8, 0), (4, l.toNat)] := by
    have := l.isLt; have := q.isLt; have := d.isLt
    change 1391 + l.toNat * 268435456 + q.toNat * 262144 + d.toNat * 8192 = _; simp only [packBits]; omega
  obtain ⟨uw, hu⟩ : ∃ uw, uw = packBits [(13, 1391), (5, d.toNat), (2, q.toNat), (8, 0), (4, l.toNat)] := ⟨_, rfl⟩
  rw [hp, ← hu]
  refine ⟨bits_at hu 0 0 rfl rfl (by decide) rfl, hu ▸ packBits_lt _, ?_⟩
  have f0 : bitsOf uw 1 6 = 55 := bits_at hu 0 1 rfl rfl (by decide) rfl
  have f1 : bitsOf uw 7 6 = 10 := bits_at hu 0 7 rfl rfl (by decide) rfl
  have f2 : bitsOf uw 20 8 = 0 := bits_at hu 3 0 rfl rfl (by decide) rfl
  have el : fld uw 28 4 = l := fld_at hu 4 rfl rfl
  have eq : fld uw 18 2 = q := fld_at hu 2 rfl rfl
  have ed : fld uw 13 5 = d := fld_at hu 1 rfl rfl
  rw [decodeWord_37 f0]
  unfold decodeMajor37
  rw [if_neg (fun h => absurd (f1.symm.trans h.1) (by decide)), if_neg (fun h => absurd (f1.symm.trans h.1) (by decide)), if_neg (fun h => absurd (f1.symm.trans h.1) (by decide)), if_pos ⟨f1, f2⟩, el, eq, ed]

theorem word_kvcold (l : BitVec 4) (q : BitVec 2) (d : BitVec 5) : WordOf (.kvcold l q d) (encodeWord (.kvcold l q d)) := by
  have hp : encodeWord (.kvcold l q d) = packBits [(13, 495), (5, d.toNat), (2, q.toNat), (8, 0), (4, l.toNat)] := by
    have := l.isLt; have := q.isLt; have := d.isLt
    change 495 + l.toNat * 268435456 + q.toNat * 262144 + d.toNat * 8192 = _; simp only [packBits]; omega
  obtain ⟨uw, hu⟩ : ∃ uw, uw = packBits [(13, 495), (5, d.toNat), (2, q.toNat), (8, 0), (4, l.toNat)] := ⟨_, rfl⟩
  rw [hp, ← hu]
  refine ⟨bits_at hu 0 0 rfl rfl (by decide) rfl, hu ▸ packBits_lt _, ?_⟩
  have f0 : bitsOf uw 1 6 = 55 := bits_at hu 0 1 rfl rfl (by decide) rfl
  have f1 : bitsOf uw 7 6 = 3 := bits_at hu 0 7 rfl rfl (by decide) rfl
  have f2 : bitsOf uw 20 8 = 0 := bits_at hu 3 0 rfl rfl (by decide) rfl
  have el : fld uw 28 4 = l := fld_at hu 4 rfl rfl
  have eq : fld uw 18 2 = q := fld_at hu 2 rfl rfl
  have ed : fld uw 13 5 = d := fld_at hu 1 rfl rfl
  rw [decodeWord_37 f0]
  unfold decodeMajor37
  rw [if_neg (fun h => absurd (f1.symm.trans h.1) (by decide)), if_neg (fun h => absurd (f1.symm.trans h.1) (by decide)), if_neg (fun h => absurd (f1.symm.trans h.1) (by decide)), if_neg (fun h => absurd (f1.symm.trans h.1) (by decide)), if_pos ⟨f1, f2⟩, el, eq, ed]

theorem word_kvq (l : BitVec 4) (q : BitVec 2) (d : BitVec 4) (s : BitVec 3) : WordOf (.kvq l q d s) (encodeWord (.kvq l q d s)) := by
  have hp : encodeWord (.kvq l q d s) = packBits [(10, 623), (3, s.toNat), (1, 0), (4, d.toNat), (2, q.toNat), (8, 0), (4, l.toNat)] := by
    have := l.isLt; have := q.isLt; have := d.isLt; have := s.isLt
    change 623 + l.toNat * 268435456 + q.toNat * 262144 + d.toNat * 16384 + s.toNat * 1024 = _; simp only [packBits]; omega
  obtain ⟨uw, hu⟩ : ∃ uw, uw = packBits [(10, 623), (3, s.toNat), (1, 0), (4, d.toNat), (2, q.toNat), (8, 0), (4, l.toNat)] := ⟨_, rfl⟩
  rw [hp, ← hu]
  refine ⟨bits_at hu 0 0 rfl rfl (by decide) rfl, hu ▸ packBits_lt _, ?_⟩
  have f0 : bitsOf uw 1 6 = 55 := bits_at hu 0 1 rfl rfl (by decide) rfl
  have f1 : bitsOf uw 7 3 = 4 := bits_at hu 0 7 rfl rfl (by decide) rfl
  have f2 : bitsOf uw 13 1 = 0 := bits_at hu 2 0 rfl rfl (by decide) rfl
  have f3 : bitsOf uw 20 8 = 0 := bits_at hu 5 0 rfl rfl (by decide) rfl
  have el : fld uw 28 4 = l := fld_at hu 6 rfl rfl
  have eq : fld uw 18 2 = q := fld_at hu 4 rfl rfl
  have ed : fld uw 14 4 = d := fld_at hu 3 rfl rfl
  have es : fld uw 10 3 = s := fld_at hu 1 rfl rfl
  rw [decodeWord_37 f0]
  unfold decodeMajor37
  rw [if_neg (by rw [hu, ← hp]; change ¬ ((623 + l.toNat * 268435456 + q.toNat * 262144 + d.toNat * 16384 + s.toNat * 1024) / 2 ^ 7 % 2 ^ 6 = 0 ∧ (623 + l.toNat * 268435456 + q.toNat * 262144 + d.toNat * 16384 + s.toNat * 1024) / 2 ^ 20 % 2 ^ 8 = 0); have := l.isLt; have := q.isLt; have := d.isLt; have := s.isLt; omega), if_neg (by rw [hu, ← hp]; change ¬ ((623 + l.toNat * 268435456 + q.toNat * 262144 + d.toNat * 16384 + s.toNat * 1024) / 2 ^ 7 % 2 ^ 6 = 1 ∧ (623 + l.toNat * 268435456 + q.toNat * 262144 + d.toNat * 16384 + s.toNat * 1024) / 2 ^ 20 % 2 ^ 8 = 0); have := l.isLt; have := q.isLt; have := d.isLt; have := s.isLt; omega), if_neg (by rw [hu, ← hp]; change ¬ ((623 + l.toNat * 268435456 + q.toNat * 262144 + d.toNat * 16384 + s.toNat * 1024) / 2 ^ 7 % 2 ^ 6 = 2 ∧ (623 + l.toNat * 268435456 + q.toNat * 262144 + d.toNat * 16384 + s.toNat * 1024) / 2 ^ 20 % 2 ^ 8 = 0); have := l.isLt; have := q.isLt; have := d.isLt; have := s.isLt; omega), if_neg (by rw [hu, ← hp]; change ¬ ((623 + l.toNat * 268435456 + q.toNat * 262144 + d.toNat * 16384 + s.toNat * 1024) / 2 ^ 7 % 2 ^ 6 = 10 ∧ (623 + l.toNat * 268435456 + q.toNat * 262144 + d.toNat * 16384 + s.toNat * 1024) / 2 ^ 20 % 2 ^ 8 = 0); have := l.isLt; have := q.isLt; have := d.isLt; have := s.isLt; omega), if_neg (by rw [hu, ← hp]; change ¬ ((623 + l.toNat * 268435456 + q.toNat * 262144 + d.toNat * 16384 + s.toNat * 1024) / 2 ^ 7 % 2 ^ 6 = 3 ∧ (623 + l.toNat * 268435456 + q.toNat * 262144 + d.toNat * 16384 + s.toNat * 1024) / 2 ^ 20 % 2 ^ 8 = 0); have := l.isLt; have := q.isLt; have := d.isLt; have := s.isLt; omega), if_pos ⟨f1, f2, f3⟩, el, eq, ed, es]

theorem word_kvpolReg (l : BitVec 4) (q : BitVec 2) (d : BitVec 5) : WordOf (.kvpolReg l q d) (encodeWord (.kvpolReg l q d)) := by
  have hp : encodeWord (.kvpolReg l q d) = packBits [(13, 751), (5, d.toNat), (2, q.toNat), (8, 0), (4, l.toNat)] := by
    have := l.isLt; have := q.isLt; have := d.isLt
    change 751 + l.toNat * 268435456 + q.toNat * 262144 + d.toNat * 8192 = _; simp only [packBits]; omega
  obtain ⟨uw, hu⟩ : ∃ uw, uw = packBits [(13, 751), (5, d.toNat), (2, q.toNat), (8, 0), (4, l.toNat)] := ⟨_, rfl⟩
  rw [hp, ← hu]
  refine ⟨bits_at hu 0 0 rfl rfl (by decide) rfl, hu ▸ packBits_lt _, ?_⟩
  have f0 : bitsOf uw 1 6 = 55 := bits_at hu 0 1 rfl rfl (by decide) rfl
  have f1 : bitsOf uw 7 6 = 5 := bits_at hu 0 7 rfl rfl (by decide) rfl
  have f2 : bitsOf uw 7 3 = 5 := bits_at hu 0 7 rfl rfl (by decide) rfl
  have f3 : bitsOf uw 20 8 = 0 := bits_at hu 3 0 rfl rfl (by decide) rfl
  have el : fld uw 28 4 = l := fld_at hu 4 rfl rfl
  have eq : fld uw 18 2 = q := fld_at hu 2 rfl rfl
  have ed : fld uw 13 5 = d := fld_at hu 1 rfl rfl
  rw [decodeWord_37 f0]
  unfold decodeMajor37
  rw [if_neg (fun h => absurd (f1.symm.trans h.1) (by decide)), if_neg (fun h => absurd (f1.symm.trans h.1) (by decide)), if_neg (fun h => absurd (f1.symm.trans h.1) (by decide)), if_neg (fun h => absurd (f1.symm.trans h.1) (by decide)), if_neg (fun h => absurd (f1.symm.trans h.1) (by decide)), if_neg (fun h => absurd (f2.symm.trans h.1) (by decide)), if_pos ⟨f1, f3⟩, el, eq, ed]

theorem word_kvpolSweep (l : BitVec 4) (q : BitVec 2) (d : BitVec 5) : WordOf (.kvpolSweep l q d) (encodeWord (.kvpolSweep l q d)) := by
  have hp : encodeWord (.kvpolSweep l q d) = packBits [(13, 1775), (5, d.toNat), (2, q.toNat), (8, 0), (4, l.toNat)] := by
    have := l.isLt; have := q.isLt; have := d.isLt
    change 1775 + l.toNat * 268435456 + q.toNat * 262144 + d.toNat * 8192 = _; simp only [packBits]; omega
  obtain ⟨uw, hu⟩ : ∃ uw, uw = packBits [(13, 1775), (5, d.toNat), (2, q.toNat), (8, 0), (4, l.toNat)] := ⟨_, rfl⟩
  rw [hp, ← hu]
  refine ⟨bits_at hu 0 0 rfl rfl (by decide) rfl, hu ▸ packBits_lt _, ?_⟩
  have f0 : bitsOf uw 1 6 = 55 := bits_at hu 0 1 rfl rfl (by decide) rfl
  have f1 : bitsOf uw 7 6 = 13 := bits_at hu 0 7 rfl rfl (by decide) rfl
  have f2 : bitsOf uw 7 3 = 5 := bits_at hu 0 7 rfl rfl (by decide) rfl
  have f3 : bitsOf uw 20 8 = 0 := bits_at hu 3 0 rfl rfl (by decide) rfl
  have el : fld uw 28 4 = l := fld_at hu 4 rfl rfl
  have eq : fld uw 18 2 = q := fld_at hu 2 rfl rfl
  have ed : fld uw 13 5 = d := fld_at hu 1 rfl rfl
  rw [decodeWord_37 f0]
  unfold decodeMajor37
  rw [if_neg (fun h => absurd (f1.symm.trans h.1) (by decide)), if_neg (fun h => absurd (f1.symm.trans h.1) (by decide)), if_neg (fun h => absurd (f1.symm.trans h.1) (by decide)), if_neg (fun h => absurd (f1.symm.trans h.1) (by decide)), if_neg (fun h => absurd (f1.symm.trans h.1) (by decide)), if_neg (fun h => absurd (f2.symm.trans h.1) (by decide)), if_neg (fun h => absurd (f1.symm.trans h.1) (by decide)), if_pos ⟨f1, f3⟩, el, eq, ed]

theorem word_kvpolUnreg (l : BitVec 4) (q : BitVec 2) (d : BitVec 5) : WordOf (.kvpolUnreg l q d) (encodeWord (.kvpolUnreg l q d)) := by
  have hp : encodeWord (.kvpolUnreg l q d) = packBits [(13, 2799), (5, d.toNat), (2, q.toNat), (8, 0), (4, l.toNat)] := by
    have := l.isLt; have := q.isLt; have := d.isLt
    change 2799 + l.toNat * 268435456 + q.toNat * 262144 + d.toNat * 8192 = _; simp only [packBits]; omega
  obtain ⟨uw, hu⟩ : ∃ uw, uw = packBits [(13, 2799), (5, d.toNat), (2, q.toNat), (8, 0), (4, l.toNat)] := ⟨_, rfl⟩
  rw [hp, ← hu]
  refine ⟨bits_at hu 0 0 rfl rfl (by decide) rfl, hu ▸ packBits_lt _, ?_⟩
  have f0 : bitsOf uw 1 6 = 55 := bits_at hu 0 1 rfl rfl (by decide) rfl
  have f1 : bitsOf uw 7 6 = 21 := bits_at hu 0 7 rfl rfl (by decide) rfl
  have f2 : bitsOf uw 7 3 = 5 := bits_at hu 0 7 rfl rfl (by decide) rfl
  have f3 : bitsOf uw 20 8 = 0 := bits_at hu 3 0 rfl rfl (by decide) rfl
  have el : fld uw 28 4 = l := fld_at hu 4 rfl rfl
  have eq : fld uw 18 2 = q := fld_at hu 2 rfl rfl
  have ed : fld uw 13 5 = d := fld_at hu 1 rfl rfl
  rw [decodeWord_37 f0]
  unfold decodeMajor37
  rw [if_neg (fun h => absurd (f1.symm.trans h.1) (by decide)), if_neg (fun h => absurd (f1.symm.trans h.1) (by decide)), if_neg (fun h => absurd (f1.symm.trans h.1) (by decide)), if_neg (fun h => absurd (f1.symm.trans h.1) (by decide)), if_neg (fun h => absurd (f1.symm.trans h.1) (by decide)), if_neg (fun h => absurd (f2.symm.trans h.1) (by decide)), if_neg (fun h => absurd (f1.symm.trans h.1) (by decide)), if_neg (fun h => absurd (f1.symm.trans h.1) (by decide)), if_pos ⟨f1, f3⟩, el, eq, ed]

theorem word_kvpolSet (l : BitVec 4) (q : BitVec 2) (d : BitVec 5) : WordOf (.kvpolSet l q d) (encodeWord (.kvpolSet l q d)) := by
  have hp : encodeWord (.kvpolSet l q d) = packBits [(13, 3823), (5, d.toNat), (2, q.toNat), (8, 0), (4, l.toNat)] := by
    have := l.isLt; have := q.isLt; have := d.isLt
    change 3823 + l.toNat * 268435456 + q.toNat * 262144 + d.toNat * 8192 = _; simp only [packBits]; omega
  obtain ⟨uw, hu⟩ : ∃ uw, uw = packBits [(13, 3823), (5, d.toNat), (2, q.toNat), (8, 0), (4, l.toNat)] := ⟨_, rfl⟩
  rw [hp, ← hu]
  refine ⟨bits_at hu 0 0 rfl rfl (by decide) rfl, hu ▸ packBits_lt _, ?_⟩
  have f0 : bitsOf uw 1 6 = 55 := bits_at hu 0 1 rfl rfl (by decide) rfl
  have f1 : bitsOf uw 7 6 = 29 := bits_at hu 0 7 rfl rfl (by decide) rfl
  have f2 : bitsOf uw 7 3 = 5 := bits_at hu 0 7 rfl rfl (by decide) rfl
  have f3 : bitsOf uw 20 8 = 0 := bits_at hu 3 0 rfl rfl (by decide) rfl
  have el : fld uw 28 4 = l := fld_at hu 4 rfl rfl
  have eq : fld uw 18 2 = q := fld_at hu 2 rfl rfl
  have ed : fld uw 13 5 = d := fld_at hu 1 rfl rfl
  rw [decodeWord_37 f0]
  unfold decodeMajor37
  rw [if_neg (fun h => absurd (f1.symm.trans h.1) (by decide)), if_neg (fun h => absurd (f1.symm.trans h.1) (by decide)), if_neg (fun h => absurd (f1.symm.trans h.1) (by decide)), if_neg (fun h => absurd (f1.symm.trans h.1) (by decide)), if_neg (fun h => absurd (f1.symm.trans h.1) (by decide)), if_neg (fun h => absurd (f2.symm.trans h.1) (by decide)), if_neg (fun h => absurd (f1.symm.trans h.1) (by decide)), if_neg (fun h => absurd (f1.symm.trans h.1) (by decide)), if_neg (fun h => absurd (f1.symm.trans h.1) (by decide)), if_pos ⟨f1, f3⟩, el, eq, ed]

theorem word_cpy (l : BitVec 4) (k : BitVec 3) (t : BitVec 1) (b : BitVec 1) (d : BitVec 1) (s : BitVec 1) (q : BitVec 2) : WordOf (.cpy l k t b d s q) (encodeWord (.cpy l k t b d s q)) := by
  have hp : encodeWord (.cpy l k t b d s q) = packBits [(10, 113), (2, q.toNat), (2, 0), (1, s.toNat), (1, d.toNat), (1, b.toNat), (1, t.toNat), (3, k.toNat), (7, 0), (4, l.toNat)] := by
    have := l.isLt; have := k.isLt; have := t.isLt; have := b.isLt; have := d.isLt; have := s.isLt; have := q.isLt
    change 113 + l.toNat * 268435456 + k.toNat * 262144 + t.toNat * 131072 + b.toNat * 65536 + d.toNat * 32768 + s.toNat * 16384 + q.toNat * 1024 = _; simp only [packBits]; omega
  obtain ⟨uw, hu⟩ : ∃ uw, uw = packBits [(10, 113), (2, q.toNat), (2, 0), (1, s.toNat), (1, d.toNat), (1, b.toNat), (1, t.toNat), (3, k.toNat), (7, 0), (4, l.toNat)] := ⟨_, rfl⟩
  rw [hp, ← hu]
  refine ⟨bits_at hu 0 0 rfl rfl (by decide) rfl, hu ▸ packBits_lt _, ?_⟩
  have f0 : bitsOf uw 1 6 = 56 := bits_at hu 0 1 rfl rfl (by decide) rfl
  have f1 : bitsOf uw 7 3 = 0 := bits_at hu 0 7 rfl rfl (by decide) rfl
  have f2 : bitsOf uw 12 2 = 0 := bits_at hu 2 0 rfl rfl (by decide) rfl
  have f3 : bitsOf uw 21 7 = 0 := bits_at hu 8 0 rfl rfl (by decide) rfl
  have el : fld uw 28 4 = l := fld_at hu 9 rfl rfl
  have ek : fld uw 18 3 = k := fld_at hu 7 rfl rfl
  have et : fld uw 17 1 = t := fld_at hu 6 rfl rfl
  have eb : fld uw 16 1 = b := fld_at hu 5 rfl rfl
  have ed : fld uw 15 1 = d := fld_at hu 4 rfl rfl
  have es : fld uw 14 1 = s := fld_at hu 3 rfl rfl
  have eq : fld uw 10 2 = q := fld_at hu 1 rfl rfl
  rw [decodeWord_38 f0]
  unfold decodeMajor38
  rw [if_pos ⟨f1, f2, f3⟩, el, ek, et, eb, ed, es, eq]

theorem word_cpy2d (l : BitVec 4) (k : BitVec 3) (t : BitVec 1) (b : BitVec 1) (d : BitVec 1) (s : BitVec 1) (q : BitVec 2) : WordOf (.cpy2d l k t b d s q) (encodeWord (.cpy2d l k t b d s q)) := by
  have hp : encodeWord (.cpy2d l k t b d s q) = packBits [(10, 241), (2, q.toNat), (2, 0), (1, s.toNat), (1, d.toNat), (1, b.toNat), (1, t.toNat), (3, k.toNat), (7, 0), (4, l.toNat)] := by
    have := l.isLt; have := k.isLt; have := t.isLt; have := b.isLt; have := d.isLt; have := s.isLt; have := q.isLt
    change 241 + l.toNat * 268435456 + k.toNat * 262144 + t.toNat * 131072 + b.toNat * 65536 + d.toNat * 32768 + s.toNat * 16384 + q.toNat * 1024 = _; simp only [packBits]; omega
  obtain ⟨uw, hu⟩ : ∃ uw, uw = packBits [(10, 241), (2, q.toNat), (2, 0), (1, s.toNat), (1, d.toNat), (1, b.toNat), (1, t.toNat), (3, k.toNat), (7, 0), (4, l.toNat)] := ⟨_, rfl⟩
  rw [hp, ← hu]
  refine ⟨bits_at hu 0 0 rfl rfl (by decide) rfl, hu ▸ packBits_lt _, ?_⟩
  have f0 : bitsOf uw 1 6 = 56 := bits_at hu 0 1 rfl rfl (by decide) rfl
  have f1 : bitsOf uw 7 3 = 1 := bits_at hu 0 7 rfl rfl (by decide) rfl
  have f2 : bitsOf uw 12 2 = 0 := bits_at hu 2 0 rfl rfl (by decide) rfl
  have f3 : bitsOf uw 21 7 = 0 := bits_at hu 8 0 rfl rfl (by decide) rfl
  have el : fld uw 28 4 = l := fld_at hu 9 rfl rfl
  have ek : fld uw 18 3 = k := fld_at hu 7 rfl rfl
  have et : fld uw 17 1 = t := fld_at hu 6 rfl rfl
  have eb : fld uw 16 1 = b := fld_at hu 5 rfl rfl
  have ed : fld uw 15 1 = d := fld_at hu 4 rfl rfl
  have es : fld uw 14 1 = s := fld_at hu 3 rfl rfl
  have eq : fld uw 10 2 = q := fld_at hu 1 rfl rfl
  rw [decodeWord_38 f0]
  unfold decodeMajor38
  rw [if_neg (fun h => absurd (f1.symm.trans h.1) (by decide)), if_pos ⟨f1, f2, f3⟩, el, ek, et, eb, ed, es, eq]

theorem word_cpym (l : BitVec 4) (k : BitVec 3) (t : BitVec 1) (b : BitVec 1) (s : BitVec 1) (q : BitVec 2) : WordOf (.cpym l k t b s q) (encodeWord (.cpym l k t b s q)) := by
  have hp : encodeWord (.cpym l k t b s q) = packBits [(10, 369), (2, q.toNat), (2, 0), (1, s.toNat), (1, 1), (1, b.toNat), (1, t.toNat), (3, k.toNat), (7, 0), (4, l.toNat)] := by
    have := l.isLt; have := k.isLt; have := t.isLt; have := b.isLt; have := s.isLt; have := q.isLt
    change 33137 + l.toNat * 268435456 + k.toNat * 262144 + t.toNat * 131072 + b.toNat * 65536 + s.toNat * 16384 + q.toNat * 1024 = _; simp only [packBits]; omega
  obtain ⟨uw, hu⟩ : ∃ uw, uw = packBits [(10, 369), (2, q.toNat), (2, 0), (1, s.toNat), (1, 1), (1, b.toNat), (1, t.toNat), (3, k.toNat), (7, 0), (4, l.toNat)] := ⟨_, rfl⟩
  rw [hp, ← hu]
  refine ⟨bits_at hu 0 0 rfl rfl (by decide) rfl, hu ▸ packBits_lt _, ?_⟩
  have f0 : bitsOf uw 1 6 = 56 := bits_at hu 0 1 rfl rfl (by decide) rfl
  have f1 : bitsOf uw 7 3 = 2 := bits_at hu 0 7 rfl rfl (by decide) rfl
  have f2 : bitsOf uw 12 2 = 0 := bits_at hu 2 0 rfl rfl (by decide) rfl
  have f3 : bitsOf uw 15 1 = 1 := bits_at hu 4 0 rfl rfl (by decide) rfl
  have f4 : bitsOf uw 21 7 = 0 := bits_at hu 8 0 rfl rfl (by decide) rfl
  have el : fld uw 28 4 = l := fld_at hu 9 rfl rfl
  have ek : fld uw 18 3 = k := fld_at hu 7 rfl rfl
  have et : fld uw 17 1 = t := fld_at hu 6 rfl rfl
  have eb : fld uw 16 1 = b := fld_at hu 5 rfl rfl
  have es : fld uw 14 1 = s := fld_at hu 3 rfl rfl
  have eq : fld uw 10 2 = q := fld_at hu 1 rfl rfl
  rw [decodeWord_38 f0]
  unfold decodeMajor38
  rw [if_neg (fun h => absurd (f1.symm.trans h.1) (by decide)), if_neg (fun h => absurd (f1.symm.trans h.1) (by decide)), if_pos ⟨f1, f2, f3, f4⟩, el, ek, et, eb, es, eq]

theorem word_cpyc (l : BitVec 4) (k : BitVec 3) (t : BitVec 1) (a : BitVec 4) (c : BitVec 2) : WordOf (.cpyc l k t a c) (encodeWord (.cpyc l k t a c)) := by
  have hp : encodeWord (.cpyc l k t a c) = packBits [(10, 115), (2, c.toNat), (1, 0), (4, a.toNat), (1, t.toNat), (3, k.toNat), (7, 0), (4, l.toNat)] := by
    have := l.isLt; have := k.isLt; have := t.isLt; have := a.isLt; have := c.isLt
    change 115 + l.toNat * 268435456 + k.toNat * 262144 + t.toNat * 131072 + a.toNat * 8192 + c.toNat * 1024 = _; simp only [packBits]; omega
  obtain ⟨uw, hu⟩ : ∃ uw, uw = packBits [(10, 115), (2, c.toNat), (1, 0), (4, a.toNat), (1, t.toNat), (3, k.toNat), (7, 0), (4, l.toNat)] := ⟨_, rfl⟩
  rw [hp, ← hu]
  refine ⟨bits_at hu 0 0 rfl rfl (by decide) rfl, hu ▸ packBits_lt _, ?_⟩
  have f0 : bitsOf uw 1 6 = 57 := bits_at hu 0 1 rfl rfl (by decide) rfl
  have f1 : bitsOf uw 7 3 = 0 := bits_at hu 0 7 rfl rfl (by decide) rfl
  have f2 : bitsOf uw 12 1 = 0 := bits_at hu 2 0 rfl rfl (by decide) rfl
  have f3 : bitsOf uw 21 7 = 0 := bits_at hu 6 0 rfl rfl (by decide) rfl
  have el : fld uw 28 4 = l := fld_at hu 7 rfl rfl
  have ek : fld uw 18 3 = k := fld_at hu 5 rfl rfl
  have et : fld uw 17 1 = t := fld_at hu 4 rfl rfl
  have ea : fld uw 13 4 = a := fld_at hu 3 rfl rfl
  have ec : fld uw 10 2 = c := fld_at hu 1 rfl rfl
  rw [decodeWord_39 f0]
  unfold decodeMajor39
  rw [if_pos ⟨f1, f2, f3⟩, el, ek, et, ea, ec]

theorem word_cpyst (l : BitVec 4) (d : BitVec 4) (c : BitVec 2) : WordOf (.cpyst l d c) (encodeWord (.cpyst l d c)) := by
  have hp : encodeWord (.cpyst l d c) = packBits [(10, 243), (2, c.toNat), (1, 0), (4, d.toNat), (11, 0), (4, l.toNat)] := by
    have := l.isLt; have := d.isLt; have := c.isLt
    change 243 + l.toNat * 268435456 + d.toNat * 8192 + c.toNat * 1024 = _; simp only [packBits]; omega
  obtain ⟨uw, hu⟩ : ∃ uw, uw = packBits [(10, 243), (2, c.toNat), (1, 0), (4, d.toNat), (11, 0), (4, l.toNat)] := ⟨_, rfl⟩
  rw [hp, ← hu]
  refine ⟨bits_at hu 0 0 rfl rfl (by decide) rfl, hu ▸ packBits_lt _, ?_⟩
  have f0 : bitsOf uw 1 6 = 57 := bits_at hu 0 1 rfl rfl (by decide) rfl
  have f1 : bitsOf uw 7 3 = 1 := bits_at hu 0 7 rfl rfl (by decide) rfl
  have f2 : bitsOf uw 12 1 = 0 := bits_at hu 2 0 rfl rfl (by decide) rfl
  have f3 : bitsOf uw 17 11 = 0 := bits_at hu 4 0 rfl rfl (by decide) rfl
  have el : fld uw 28 4 = l := fld_at hu 5 rfl rfl
  have ed : fld uw 13 4 = d := fld_at hu 3 rfl rfl
  have ec : fld uw 10 2 = c := fld_at hu 1 rfl rfl
  rw [decodeWord_39 f0]
  unfold decodeMajor39
  rw [if_neg (fun h => absurd (f1.symm.trans h.1) (by decide)), if_pos ⟨f1, f2, f3⟩, el, ed, ec]

theorem word_cpyx (l : BitVec 4) (c : BitVec 2) : WordOf (.cpyx l c) (encodeWord (.cpyx l c)) := by
  have hp : encodeWord (.cpyx l c) = packBits [(10, 371), (2, c.toNat), (16, 0), (4, l.toNat)] := by
    have := l.isLt; have := c.isLt
    change 371 + l.toNat * 268435456 + c.toNat * 1024 = _; simp only [packBits]; omega
  obtain ⟨uw, hu⟩ : ∃ uw, uw = packBits [(10, 371), (2, c.toNat), (16, 0), (4, l.toNat)] := ⟨_, rfl⟩
  rw [hp, ← hu]
  refine ⟨bits_at hu 0 0 rfl rfl (by decide) rfl, hu ▸ packBits_lt _, ?_⟩
  have f0 : bitsOf uw 1 6 = 57 := bits_at hu 0 1 rfl rfl (by decide) rfl
  have f1 : bitsOf uw 7 3 = 2 := bits_at hu 0 7 rfl rfl (by decide) rfl
  have f2 : bitsOf uw 12 16 = 0 := bits_at hu 2 0 rfl rfl (by decide) rfl
  have el : fld uw 28 4 = l := fld_at hu 3 rfl rfl
  have ec : fld uw 10 2 = c := fld_at hu 1 rfl rfl
  rw [decodeWord_39 f0]
  unfold decodeMajor39
  rw [if_neg (fun h => absurd (f1.symm.trans h.1) (by decide)), if_neg (fun h => absurd (f1.symm.trans h.1) (by decide)), if_pos ⟨f1, f2⟩, el, ec]

theorem word_lld (l : BitVec 4) (d : BitVec 6) (a : BitVec 5) (p : BitVec 4) (z : BitVec 2) : WordOf (.lld l d a p z) (encodeWord (.lld l d a p z)) := by
  have hp : encodeWord (.lld l d a p z) = packBits [(10, 117), (2, z.toNat), (4, p.toNat), (1, 0), (5, a.toNat), (6, d.toNat), (4, l.toNat)] := by
    have := l.isLt; have := d.isLt; have := a.isLt; have := p.isLt; have := z.isLt
    change 117 + l.toNat * 268435456 + d.toNat * 4194304 + a.toNat * 131072 + p.toNat * 4096 + z.toNat * 1024 = _; simp only [packBits]; omega
  obtain ⟨uw, hu⟩ : ∃ uw, uw = packBits [(10, 117), (2, z.toNat), (4, p.toNat), (1, 0), (5, a.toNat), (6, d.toNat), (4, l.toNat)] := ⟨_, rfl⟩
  rw [hp, ← hu]
  refine ⟨bits_at hu 0 0 rfl rfl (by decide) rfl, hu ▸ packBits_lt _, ?_⟩
  have f0 : bitsOf uw 1 6 = 58 := bits_at hu 0 1 rfl rfl (by decide) rfl
  have f1 : bitsOf uw 7 3 = 0 := bits_at hu 0 7 rfl rfl (by decide) rfl
  have f2 : bitsOf uw 16 1 = 0 := bits_at hu 3 0 rfl rfl (by decide) rfl
  have el : fld uw 28 4 = l := fld_at hu 6 rfl rfl
  have ed : fld uw 22 6 = d := fld_at hu 5 rfl rfl
  have ea : fld uw 17 5 = a := fld_at hu 4 rfl rfl
  have ep : fld uw 12 4 = p := fld_at hu 2 rfl rfl
  have ez : fld uw 10 2 = z := fld_at hu 1 rfl rfl
  rw [decodeWord_3a f0]
  unfold decodeMajor3a
  rw [if_pos ⟨f1, f2⟩, el, ed, ea, ep, ez]

theorem word_lgat (l : BitVec 4) (d : BitVec 3) (a : BitVec 5) (p : BitVec 4) (q : BitVec 2) (n : BitVec 1) : WordOf (.lgat l d a p q n) (encodeWord (.lgat l d a p q n)) := by
  have hp : encodeWord (.lgat l d a p q n) = packBits [(12, 245), (1, n.toNat), (2, q.toNat), (4, p.toNat), (1, 0), (5, a.toNat), (3, d.toNat), (4, l.toNat)] := by
    have := l.isLt; have := d.isLt; have := a.isLt; have := p.isLt; have := q.isLt; have := n.isLt
    change 245 + l.toNat * 268435456 + d.toNat * 33554432 + a.toNat * 1048576 + p.toNat * 32768 + q.toNat * 8192 + n.toNat * 4096 = _; simp only [packBits]; omega
  obtain ⟨uw, hu⟩ : ∃ uw, uw = packBits [(12, 245), (1, n.toNat), (2, q.toNat), (4, p.toNat), (1, 0), (5, a.toNat), (3, d.toNat), (4, l.toNat)] := ⟨_, rfl⟩
  rw [hp, ← hu]
  refine ⟨bits_at hu 0 0 rfl rfl (by decide) rfl, hu ▸ packBits_lt _, ?_⟩
  have f0 : bitsOf uw 1 6 = 58 := bits_at hu 0 1 rfl rfl (by decide) rfl
  have f1 : bitsOf uw 7 3 = 1 := bits_at hu 0 7 rfl rfl (by decide) rfl
  have f2 : bitsOf uw 7 5 = 1 := bits_at hu 0 7 rfl rfl (by decide) rfl
  have f3 : bitsOf uw 19 1 = 0 := bits_at hu 4 0 rfl rfl (by decide) rfl
  have el : fld uw 28 4 = l := fld_at hu 7 rfl rfl
  have ed : fld uw 25 3 = d := fld_at hu 6 rfl rfl
  have ea : fld uw 20 5 = a := fld_at hu 5 rfl rfl
  have ep : fld uw 15 4 = p := fld_at hu 3 rfl rfl
  have eq : fld uw 13 2 = q := fld_at hu 2 rfl rfl
  have en : fld uw 12 1 = n := fld_at hu 1 rfl rfl
  rw [decodeWord_3a f0]
  unfold decodeMajor3a
  rw [if_neg (fun h => absurd (f1.symm.trans h.1) (by decide)), if_pos ⟨f2, f3⟩, el, ed, ea, ep, eq, en]

theorem word_lwr (l : BitVec 4) (p : BitVec 4) (q : BitVec 2) (s : BitVec 1) (t : BitVec 1) (r : BitVec 1) (k : BitVec 3) : WordOf (.lwr l p q s t r k) (encodeWord (.lwr l p q s t r k)) := by
  have hp : encodeWord (.lwr l p q s t r k) = packBits [(16, 373), (3, k.toNat), (1, r.toNat), (1, t.toNat), (1, s.toNat), (2, q.toNat), (4, p.toNat), (4, l.toNat)] := by
    have := l.isLt; have := p.isLt; have := q.isLt; have := s.isLt; have := t.isLt; have := r.isLt; have := k.isLt
    change 373 + l.toNat * 268435456 + p.toNat * 16777216 + q.toNat * 4194304 + s.toNat * 2097152 + t.toNat * 1048576 + r.toNat * 524288 + k.toNat * 65536 = _; simp only [packBits]; omega
  obtain ⟨uw, hu⟩ : ∃ uw, uw = packBits [(16, 373), (3, k.toNat), (1, r.toNat), (1, t.toNat), (1, s.toNat), (2, q.toNat), (4, p.toNat), (4, l.toNat)] := ⟨_, rfl⟩
  rw [hp, ← hu]
  refine ⟨bits_at hu 0 0 rfl rfl (by decide) rfl, hu ▸ packBits_lt _, ?_⟩
  have f0 : bitsOf uw 1 6 = 58 := bits_at hu 0 1 rfl rfl (by decide) rfl
  have f1 : bitsOf uw 7 3 = 2 := bits_at hu 0 7 rfl rfl (by decide) rfl
  have f2 : bitsOf uw 7 5 = 2 := bits_at hu 0 7 rfl rfl (by decide) rfl
  have f3 : bitsOf uw 7 9 = 2 := bits_at hu 0 7 rfl rfl (by decide) rfl
  have el : fld uw 28 4 = l := fld_at hu 7 rfl rfl
  have ep : fld uw 24 4 = p := fld_at hu 6 rfl rfl
  have eq : fld uw 22 2 = q := fld_at hu 5 rfl rfl
  have es : fld uw 21 1 = s := fld_at hu 4 rfl rfl
  have et : fld uw 20 1 = t := fld_at hu 3 rfl rfl
  have er : fld uw 19 1 = r := fld_at hu 2 rfl rfl
  have ek : fld uw 16 3 = k := fld_at hu 1 rfl rfl
  rw [decodeWord_3a f0]
  unfold decodeMajor3a
  rw [if_neg (fun h => absurd (f1.symm.trans h.1) (by decide)), if_neg (fun h => absurd (f2.symm.trans h.1) (by decide)), if_pos f3, el, ep, eq, es, et, er, ek]

theorem word_lred (l : BitVec 4) (p : BitVec 4) (q : BitVec 2) (s : BitVec 1) (t : BitVec 1) (r : BitVec 1) (k : BitVec 3) (y : BitVec 2) : WordOf (.lred l p q s t r k y) (encodeWord (.lred l p q s t r k y)) := by
  have hp : encodeWord (.lred l p q s t r k y) = packBits [(14, 501), (2, y.toNat), (3, k.toNat), (1, r.toNat), (1, t.toNat), (1, s.toNat), (2, q.toNat), (4, p.toNat), (4, l.toNat)] := by
    have := l.isLt; have := p.isLt; have := q.isLt; have := s.isLt; have := t.isLt; have := r.isLt; have := k.isLt; have := y.isLt
    change 501 + l.toNat * 268435456 + p.toNat * 16777216 + q.toNat * 4194304 + s.toNat * 2097152 + t.toNat * 1048576 + r.toNat * 524288 + k.toNat * 65536 + y.toNat * 16384 = _; simp only [packBits]; omega
  obtain ⟨uw, hu⟩ : ∃ uw, uw = packBits [(14, 501), (2, y.toNat), (3, k.toNat), (1, r.toNat), (1, t.toNat), (1, s.toNat), (2, q.toNat), (4, p.toNat), (4, l.toNat)] := ⟨_, rfl⟩
  rw [hp, ← hu]
  refine ⟨bits_at hu 0 0 rfl rfl (by decide) rfl, hu ▸ packBits_lt _, ?_⟩
  have f0 : bitsOf uw 1 6 = 58 := bits_at hu 0 1 rfl rfl (by decide) rfl
  have f1 : bitsOf uw 7 3 = 3 := bits_at hu 0 7 rfl rfl (by decide) rfl
  have f2 : bitsOf uw 7 5 = 3 := bits_at hu 0 7 rfl rfl (by decide) rfl
  have f3 : bitsOf uw 7 7 = 3 := bits_at hu 0 7 rfl rfl (by decide) rfl
  have el : fld uw 28 4 = l := fld_at hu 8 rfl rfl
  have ep : fld uw 24 4 = p := fld_at hu 7 rfl rfl
  have eq : fld uw 22 2 = q := fld_at hu 6 rfl rfl
  have es : fld uw 21 1 = s := fld_at hu 5 rfl rfl
  have et : fld uw 20 1 = t := fld_at hu 4 rfl rfl
  have er : fld uw 19 1 = r := fld_at hu 3 rfl rfl
  have ek : fld uw 16 3 = k := fld_at hu 2 rfl rfl
  have ey : fld uw 14 2 = y := fld_at hu 1 rfl rfl
  rw [decodeWord_3a f0]
  unfold decodeMajor3a
  rw [if_neg (fun h => absurd (f1.symm.trans h.1) (by decide)), if_neg (fun h => absurd (f2.symm.trans h.1) (by decide)), if_neg (by rw [hu, ← hp]; change ¬ ((501 + l.toNat * 268435456 + p.toNat * 16777216 + q.toNat * 4194304 + s.toNat * 2097152 + t.toNat * 1048576 + r.toNat * 524288 + k.toNat * 65536 + y.toNat * 16384) / 2 ^ 7 % 2 ^ 9 = 2); have := l.isLt; have := p.isLt; have := q.isLt; have := s.isLt; have := t.isLt; have := r.isLt; have := k.isLt; have := y.isLt; omega), if_pos f3, el, ep, eq, es, et, er, ek, ey]

theorem word_mxr (l : BitVec 4) (f : BitVec 3) (q : BitVec 2) (t : BitVec 1) (k : BitVec 3) : WordOf (.mxr l f q t k) (encodeWord (.mxr l f q t k)) := by
  have hp : encodeWord (.mxr l f q t k) = packBits [(16, 629), (3, k.toNat), (1, 0), (1, t.toNat), (1, 0), (2, q.toNat), (1, 0), (3, f.toNat), (4, l.toNat)] := by
    have := l.isLt; have := f.isLt; have := q.isLt; have := t.isLt; have := k.isLt
    change 629 + l.toNat * 268435456 + f.toNat * 33554432 + q.toNat * 4194304 + t.toNat * 1048576 + k.toNat * 65536 = _; simp only [packBits]; omega
  obtain ⟨uw, hu⟩ : ∃ uw, uw = packBits [(16, 629), (3, k.toNat), (1, 0), (1, t.toNat), (1, 0), (2, q.toNat), (1, 0), (3, f.toNat), (4, l.toNat)] := ⟨_, rfl⟩
  rw [hp, ← hu]
  refine ⟨bits_at hu 0 0 rfl rfl (by decide) rfl, hu ▸ packBits_lt _, ?_⟩
  have f0 : bitsOf uw 1 6 = 58 := bits_at hu 0 1 rfl rfl (by decide) rfl
  have f1 : bitsOf uw 7 3 = 4 := bits_at hu 0 7 rfl rfl (by decide) rfl
  have f2 : bitsOf uw 7 5 = 4 := bits_at hu 0 7 rfl rfl (by decide) rfl
  have f3 : bitsOf uw 7 9 = 4 := bits_at hu 0 7 rfl rfl (by decide) rfl
  have f4 : bitsOf uw 7 7 = 4 := bits_at hu 0 7 rfl rfl (by decide) rfl
  have f5 : bitsOf uw 19 1 = 0 := bits_at hu 2 0 rfl rfl (by decide) rfl
  have f6 : bitsOf uw 21 1 = 0 := bits_at hu 4 0 rfl rfl (by decide) rfl
  have f7 : bitsOf uw 24 1 = 0 := bits_at hu 6 0 rfl rfl (by decide) rfl
  have el : fld uw 28 4 = l := fld_at hu 8 rfl rfl
  have ef : fld uw 25 3 = f := fld_at hu 7 rfl rfl
  have eq : fld uw 22 2 = q := fld_at hu 5 rfl rfl
  have et : fld uw 20 1 = t := fld_at hu 3 rfl rfl
  have ek : fld uw 16 3 = k := fld_at hu 1 rfl rfl
  rw [decodeWord_3a f0]
  unfold decodeMajor3a
  rw [if_neg (fun h => absurd (f1.symm.trans h.1) (by decide)), if_neg (fun h => absurd (f2.symm.trans h.1) (by decide)), if_neg (fun h => absurd (f3.symm.trans h) (by decide)), if_neg (fun h => absurd (f4.symm.trans h) (by decide)), if_pos ⟨f3, f5, f6, f7⟩, el, ef, eq, et, ek]

theorem word_dlaunch (l : BitVec 4) (d : BitVec 5) (a : BitVec 4) (b : BitVec 5) : WordOf (.dlaunch l d a b) (encodeWord (.dlaunch l d a b)) := by
  have hp : encodeWord (.dlaunch l d a b) = packBits [(10, 119), (5, b.toNat), (1, 0), (4, a.toNat), (5, d.toNat), (3, 0), (4, l.toNat)] := by
    have := l.isLt; have := d.isLt; have := a.isLt; have := b.isLt
    change 119 + l.toNat * 268435456 + d.toNat * 1048576 + a.toNat * 65536 + b.toNat * 1024 = _; simp only [packBits]; omega
  obtain ⟨uw, hu⟩ : ∃ uw, uw = packBits [(10, 119), (5, b.toNat), (1, 0), (4, a.toNat), (5, d.toNat), (3, 0), (4, l.toNat)] := ⟨_, rfl⟩
  rw [hp, ← hu]
  refine ⟨bits_at hu 0 0 rfl rfl (by decide) rfl, hu ▸ packBits_lt _, ?_⟩
  have f0 : bitsOf uw 1 6 = 59 := bits_at hu 0 1 rfl rfl (by decide) rfl
  have f1 : bitsOf uw 7 3 = 0 := bits_at hu 0 7 rfl rfl (by decide) rfl
  have f2 : bitsOf uw 15 1 = 0 := bits_at hu 2 0 rfl rfl (by decide) rfl
  have f3 : bitsOf uw 25 3 = 0 := bits_at hu 5 0 rfl rfl (by decide) rfl
  have el : fld uw 28 4 = l := fld_at hu 6 rfl rfl
  have ed : fld uw 20 5 = d := fld_at hu 4 rfl rfl
  have ea : fld uw 16 4 = a := fld_at hu 3 rfl rfl
  have eb : fld uw 10 5 = b := fld_at hu 1 rfl rfl
  rw [decodeWord_3b f0]
  unfold decodeMajor3b
  rw [if_pos ⟨f1, f2, f3⟩, el, ed, ea, eb]

theorem word_qsig (l : BitVec 4) (b : BitVec 5) : WordOf (.qsig l b) (encodeWord (.qsig l b)) := by
  have hp : encodeWord (.qsig l b) = packBits [(10, 247), (5, b.toNat), (13, 0), (4, l.toNat)] := by
    have := l.isLt; have := b.isLt
    change 247 + l.toNat * 268435456 + b.toNat * 1024 = _; simp only [packBits]; omega
  obtain ⟨uw, hu⟩ : ∃ uw, uw = packBits [(10, 247), (5, b.toNat), (13, 0), (4, l.toNat)] := ⟨_, rfl⟩
  rw [hp, ← hu]
  refine ⟨bits_at hu 0 0 rfl rfl (by decide) rfl, hu ▸ packBits_lt _, ?_⟩
  have f0 : bitsOf uw 1 6 = 59 := bits_at hu 0 1 rfl rfl (by decide) rfl
  have f1 : bitsOf uw 7 3 = 1 := bits_at hu 0 7 rfl rfl (by decide) rfl
  have f2 : bitsOf uw 15 13 = 0 := bits_at hu 2 0 rfl rfl (by decide) rfl
  have el : fld uw 28 4 = l := fld_at hu 3 rfl rfl
  have eb : fld uw 10 5 = b := fld_at hu 1 rfl rfl
  rw [decodeWord_3b f0]
  unfold decodeMajor3b
  rw [if_neg (fun h => absurd (f1.symm.trans h.1) (by decide)), if_pos ⟨f1, f2⟩, el, eb]

theorem word_bra (o : BitVec 19) (h : BitVec 2) (n : BitVec 1) (p : BitVec 3) : WordOf (.bra o h n p) (encodeWord (.bra o h n p)) := by
  have hp : encodeWord (.bra o h n p) = packBits [(7, 121), (3, p.toNat), (1, n.toNat), (2, h.toNat), (19, o.toNat)] := by
    have := o.isLt; have := h.isLt; have := n.isLt; have := p.isLt
    change 121 + o.toNat * 8192 + h.toNat * 2048 + n.toNat * 1024 + p.toNat * 128 = _; simp only [packBits]; omega
  obtain ⟨uw, hu⟩ : ∃ uw, uw = packBits [(7, 121), (3, p.toNat), (1, n.toNat), (2, h.toNat), (19, o.toNat)] := ⟨_, rfl⟩
  rw [hp, ← hu]
  refine ⟨bits_at hu 0 0 rfl rfl (by decide) rfl, hu ▸ packBits_lt _, ?_⟩
  have f0 : bitsOf uw 1 6 = 60 := bits_at hu 0 1 rfl rfl (by decide) rfl
  have eo : fld uw 13 19 = o := fld_at hu 4 rfl rfl
  have eh : fld uw 11 2 = h := fld_at hu 3 rfl rfl
  have en : fld uw 10 1 = n := fld_at hu 2 rfl rfl
  have ep : fld uw 7 3 = p := fld_at hu 1 rfl rfl
  rw [decodeWord_3c f0]
  unfold decodeMajor3c
  rw [eo, eh, en, ep]

theorem word_call (o : BitVec 19) : WordOf (.call o) (encodeWord (.call o)) := by
  have hp : encodeWord (.call o) = packBits [(13, 123), (19, o.toNat)] := by
    have := o.isLt
    change 123 + o.toNat * 8192 = _; simp only [packBits]; omega
  obtain ⟨uw, hu⟩ : ∃ uw, uw = packBits [(13, 123), (19, o.toNat)] := ⟨_, rfl⟩
  rw [hp, ← hu]
  refine ⟨bits_at hu 0 0 rfl rfl (by decide) rfl, hu ▸ packBits_lt _, ?_⟩
  have f0 : bitsOf uw 1 6 = 61 := bits_at hu 0 1 rfl rfl (by decide) rfl
  have f1 : bitsOf uw 7 6 = 0 := bits_at hu 0 7 rfl rfl (by decide) rfl
  have eo : fld uw 13 19 = o := fld_at hu 1 rfl rfl
  rw [decodeWord_3d f0]
  unfold decodeMajor3d
  rw [if_pos f1, eo]

theorem word_trap (n : BitVec 6) : WordOf (.trap n) (encodeWord (.trap n)) := by
  have hp : encodeWord (.trap n) = packBits [(13, 125), (6, n.toNat), (13, 0)] := by
    have := n.isLt
    change 125 + n.toNat * 8192 = _; simp only [packBits]; omega
  obtain ⟨uw, hu⟩ : ∃ uw, uw = packBits [(13, 125), (6, n.toNat), (13, 0)] := ⟨_, rfl⟩
  rw [hp, ← hu]
  refine ⟨bits_at hu 0 0 rfl rfl (by decide) rfl, hu ▸ packBits_lt _, ?_⟩
  have f0 : bitsOf uw 1 6 = 62 := bits_at hu 0 1 rfl rfl (by decide) rfl
  have f1 : bitsOf uw 7 6 = 0 := bits_at hu 0 7 rfl rfl (by decide) rfl
  have f2 : bitsOf uw 19 13 = 0 := bits_at hu 2 0 rfl rfl (by decide) rfl
  have en : fld uw 13 6 = n := fld_at hu 1 rfl rfl
  rw [decodeWord_3e f0]
  unfold decodeMajor3e
  rw [if_pos ⟨f1, f2⟩, en]

theorem word_snap : WordOf .snap (encodeWord .snap) := by
  have hp : encodeWord .snap = packBits [(32, 33554557)] := by decide
  obtain ⟨uw, hu⟩ : ∃ uw, uw = packBits [(32, 33554557)] := ⟨_, rfl⟩
  rw [hp, ← hu]
  refine ⟨bits_at hu 0 0 rfl rfl (by decide) rfl, hu ▸ packBits_lt _, ?_⟩
  have f0 : bitsOf uw 1 6 = 62 := bits_at hu 0 1 rfl rfl (by decide) rfl
  have f1 : bitsOf uw 19 13 = 64 := bits_at hu 0 19 rfl rfl (by decide) rfl
  have f2 : bitsOf uw 7 25 = 262144 := bits_at hu 0 7 rfl rfl (by decide) rfl
  rw [decodeWord_3e f0]
  unfold decodeMajor3e
  rw [if_neg (fun h => absurd (f1.symm.trans h.2) (by decide)), if_pos f2]

theorem word_csrr (s : BitVec 6) (d : BitVec 5) : WordOf (.csrr s d) (encodeWord (.csrr s d)) := by
  have hp : encodeWord (.csrr s d) = packBits [(7, 125), (5, d.toNat), (1, 0), (6, s.toNat), (13, 128)] := by
    have := s.isLt; have := d.isLt
    change 67108989 + s.toNat * 8192 + d.toNat * 128 = _; simp only [packBits]; omega
  obtain ⟨uw, hu⟩ : ∃ uw, uw = packBits [(7, 125), (5, d.toNat), (1, 0), (6, s.toNat), (13, 128)] := ⟨_, rfl⟩
  rw [hp, ← hu]
  refine ⟨bits_at hu 0 0 rfl rfl (by decide) rfl, hu ▸ packBits_lt _, ?_⟩
  have f0 : bitsOf uw 1 6 = 62 := bits_at hu 0 1 rfl rfl (by decide) rfl
  have f1 : bitsOf uw 19 13 = 128 := bits_at hu 4 0 rfl rfl (by decide) rfl
  have f2 : bitsOf uw 12 1 = 0 := bits_at hu 2 0 rfl rfl (by decide) rfl
  have es : fld uw 13 6 = s := fld_at hu 3 rfl rfl
  have ed : fld uw 7 5 = d := fld_at hu 1 rfl rfl
  rw [decodeWord_3e f0]
  unfold decodeMajor3e
  rw [if_neg (fun h => absurd (f1.symm.trans h.2) (by decide)), if_neg (by rw [hu, ← hp]; change ¬ ((67108989 + s.toNat * 8192 + d.toNat * 128) / 2 ^ 7 % 2 ^ 25 = 262144); have := s.isLt; have := d.isLt; omega), if_pos ⟨f2, f1⟩, es, ed]

theorem word_clock (d : BitVec 4) : WordOf (.clock d) (encodeWord (.clock d)) := by
  have hp : encodeWord (.clock d) = packBits [(8, 125), (4, d.toNat), (20, 24576)] := by
    have := d.isLt
    change 100663421 + d.toNat * 256 = _; simp only [packBits]; omega
  obtain ⟨uw, hu⟩ : ∃ uw, uw = packBits [(8, 125), (4, d.toNat), (20, 24576)] := ⟨_, rfl⟩
  rw [hp, ← hu]
  refine ⟨bits_at hu 0 0 rfl rfl (by decide) rfl, hu ▸ packBits_lt _, ?_⟩
  have f0 : bitsOf uw 1 6 = 62 := bits_at hu 0 1 rfl rfl (by decide) rfl
  have f1 : bitsOf uw 19 13 = 192 := bits_at hu 2 7 rfl rfl (by decide) rfl
  have f2 : bitsOf uw 7 1 = 0 := bits_at hu 0 7 rfl rfl (by decide) rfl
  have f3 : bitsOf uw 12 20 = 24576 := bits_at hu 2 0 rfl rfl (by decide) rfl
  have ed : fld uw 8 4 = d := fld_at hu 1 rfl rfl
  rw [decodeWord_3e f0]
  unfold decodeMajor3e
  rw [if_neg (fun h => absurd (f1.symm.trans h.2) (by decide)), if_neg (by rw [hu, ← hp]; change ¬ ((100663421 + d.toNat * 256) / 2 ^ 7 % 2 ^ 25 = 262144); have := d.isLt; omega), if_neg (fun h => absurd (f1.symm.trans h.2) (by decide)), if_pos ⟨f2, f3⟩, ed]

theorem word_jmp (x : BitVec 1) (a : BitVec 5) : WordOf (.jmp x a) (encodeWord (.jmp x a)) := by
  have hp : encodeWord (.jmp x a) = packBits [(14, 125), (5, a.toNat), (9, 256), (1, x.toNat), (3, 0)] := by
    have := x.isLt; have := a.isLt
    change 134217853 + x.toNat * 268435456 + a.toNat * 16384 = _; simp only [packBits]; omega
  obtain ⟨uw, hu⟩ : ∃ uw, uw = packBits [(14, 125), (5, a.toNat), (9, 256), (1, x.toNat), (3, 0)] := ⟨_, rfl⟩
  rw [hp, ← hu]
  refine ⟨bits_at hu 0 0 rfl rfl (by decide) rfl, hu ▸ packBits_lt _, ?_⟩
  have f0 : bitsOf uw 1 6 = 62 := bits_at hu 0 1 rfl rfl (by decide) rfl
  have f1 : bitsOf uw 7 7 = 0 := bits_at hu 0 7 rfl rfl (by decide) rfl
  have f2 : bitsOf uw 19 9 = 256 := bits_at hu 2 0 rfl rfl (by decide) rfl
  have f3 : bitsOf uw 29 3 = 0 := bits_at hu 4 0 rfl rfl (by decide) rfl
  have ex : fld uw 28 1 = x := fld_at hu 3 rfl rfl
  have ea : fld uw 14 5 = a := fld_at hu 1 rfl rfl
  rw [decodeWord_3e f0]
  unfold decodeMajor3e
  rw [if_neg (by rw [hu, ← hp]; change ¬ ((134217853 + x.toNat * 268435456 + a.toNat * 16384) / 2 ^ 7 % 2 ^ 6 = 0 ∧ (134217853 + x.toNat * 268435456 + a.toNat * 16384) / 2 ^ 19 % 2 ^ 13 = 0); have := x.isLt; have := a.isLt; omega), if_neg (by rw [hu, ← hp]; change ¬ ((134217853 + x.toNat * 268435456 + a.toNat * 16384) / 2 ^ 7 % 2 ^ 25 = 262144); have := x.isLt; have := a.isLt; omega), if_neg (by rw [hu, ← hp]; change ¬ ((134217853 + x.toNat * 268435456 + a.toNat * 16384) / 2 ^ 12 % 2 ^ 1 = 0 ∧ (134217853 + x.toNat * 268435456 + a.toNat * 16384) / 2 ^ 19 % 2 ^ 13 = 128); have := x.isLt; have := a.isLt; omega), if_neg (by rw [hu, ← hp]; change ¬ ((134217853 + x.toNat * 268435456 + a.toNat * 16384) / 2 ^ 7 % 2 ^ 1 = 0 ∧ (134217853 + x.toNat * 268435456 + a.toNat * 16384) / 2 ^ 12 % 2 ^ 20 = 24576); have := x.isLt; have := a.isLt; omega), if_pos ⟨f1, f2, f3⟩, ex, ea]

theorem word_callIndirect (x : BitVec 1) (a : BitVec 5) : WordOf (.callIndirect x a) (encodeWord (.callIndirect x a)) := by
  have hp : encodeWord (.callIndirect x a) = packBits [(14, 125), (5, a.toNat), (9, 320), (1, x.toNat), (3, 0)] := by
    have := x.isLt; have := a.isLt
    change 167772285 + x.toNat * 268435456 + a.toNat * 16384 = _; simp only [packBits]; omega
  obtain ⟨uw, hu⟩ : ∃ uw, uw = packBits [(14, 125), (5, a.toNat), (9, 320), (1, x.toNat), (3, 0)] := ⟨_, rfl⟩
  rw [hp, ← hu]
  refine ⟨bits_at hu 0 0 rfl rfl (by decide) rfl, hu ▸ packBits_lt _, ?_⟩
  have f0 : bitsOf uw 1 6 = 62 := bits_at hu 0 1 rfl rfl (by decide) rfl
  have f1 : bitsOf uw 19 9 = 320 := bits_at hu 2 0 rfl rfl (by decide) rfl
  have f2 : bitsOf uw 7 7 = 0 := bits_at hu 0 7 rfl rfl (by decide) rfl
  have f3 : bitsOf uw 29 3 = 0 := bits_at hu 4 0 rfl rfl (by decide) rfl
  have ex : fld uw 28 1 = x := fld_at hu 3 rfl rfl
  have ea : fld uw 14 5 = a := fld_at hu 1 rfl rfl
  rw [decodeWord_3e f0]
  unfold decodeMajor3e
  rw [if_neg (by rw [hu, ← hp]; change ¬ ((167772285 + x.toNat * 268435456 + a.toNat * 16384) / 2 ^ 7 % 2 ^ 6 = 0 ∧ (167772285 + x.toNat * 268435456 + a.toNat * 16384) / 2 ^ 19 % 2 ^ 13 = 0); have := x.isLt; have := a.isLt; omega), if_neg (by rw [hu, ← hp]; change ¬ ((167772285 + x.toNat * 268435456 + a.toNat * 16384) / 2 ^ 7 % 2 ^ 25 = 262144); have := x.isLt; have := a.isLt; omega), if_neg (by rw [hu, ← hp]; change ¬ ((167772285 + x.toNat * 268435456 + a.toNat * 16384) / 2 ^ 12 % 2 ^ 1 = 0 ∧ (167772285 + x.toNat * 268435456 + a.toNat * 16384) / 2 ^ 19 % 2 ^ 13 = 128); have := x.isLt; have := a.isLt; omega), if_neg (by rw [hu, ← hp]; change ¬ ((167772285 + x.toNat * 268435456 + a.toNat * 16384) / 2 ^ 7 % 2 ^ 1 = 0 ∧ (167772285 + x.toNat * 268435456 + a.toNat * 16384) / 2 ^ 12 % 2 ^ 20 = 24576); have := x.isLt; have := a.isLt; omega), if_neg (fun h => absurd (f1.symm.trans h.2.1) (by decide)), if_pos ⟨f2, f1, f3⟩, ex, ea]

theorem word_extImm (p : BitVec 23) : WordOf (.extImm p) (encodeWord (.extImm p)) := by
  have hp : encodeWord (.extImm p) = packBits [(9, 127), (23, p.toNat)] := by
    have := p.isLt
    change 127 + p.toNat * 512 = _; simp only [packBits]; omega
  obtain ⟨uw, hu⟩ : ∃ uw, uw = packBits [(9, 127), (23, p.toNat)] := ⟨_, rfl⟩
  rw [hp, ← hu]
  refine ⟨bits_at hu 0 0 rfl rfl (by decide) rfl, hu ▸ packBits_lt _, ?_⟩
  have f0 : bitsOf uw 1 6 = 63 := bits_at hu 0 1 rfl rfl (by decide) rfl
  have f1 : bitsOf uw 7 2 = 0 := bits_at hu 0 7 rfl rfl (by decide) rfl
  have ep : fld uw 9 23 = p := fld_at hu 1 rfl rfl
  rw [decodeWord_3f f0]
  unfold decodeMajor3f
  rw [if_pos f1, ep]

theorem word_extReg (p : BitVec 23) : WordOf (.extReg p) (encodeWord (.extReg p)) := by
  have hp : encodeWord (.extReg p) = packBits [(9, 255), (23, p.toNat)] := by
    have := p.isLt
    change 255 + p.toNat * 512 = _; simp only [packBits]; omega
  obtain ⟨uw, hu⟩ : ∃ uw, uw = packBits [(9, 255), (23, p.toNat)] := ⟨_, rfl⟩
  rw [hp, ← hu]
  refine ⟨bits_at hu 0 0 rfl rfl (by decide) rfl, hu ▸ packBits_lt _, ?_⟩
  have f0 : bitsOf uw 1 6 = 63 := bits_at hu 0 1 rfl rfl (by decide) rfl
  have f1 : bitsOf uw 7 2 = 1 := bits_at hu 0 7 rfl rfl (by decide) rfl
  have ep : fld uw 9 23 = p := fld_at hu 1 rfl rfl
  rw [decodeWord_3f f0]
  unfold decodeMajor3f
  rw [if_neg (fun h => absurd (f1.symm.trans h) (by decide)), if_pos f1, ep]

theorem half_mov16 (b : BitVec 5) (d : BitVec 5) : HalfOf (.mov16 b d) (encodeWord (.mov16 b d)) := by
  have hp : encodeWord (.mov16 b d) = packBits [(6, 0), (5, d.toNat), (5, b.toNat)] := by
    have := b.isLt; have := d.isLt
    change 0 + b.toNat * 2048 + d.toNat * 64 = _; simp only [packBits]; omega
  obtain ⟨uw, hu⟩ : ∃ uw, uw = packBits [(6, 0), (5, d.toNat), (5, b.toNat)] := ⟨_, rfl⟩
  rw [hp, ← hu]
  refine ⟨bits_at hu 0 0 rfl rfl (by decide) rfl, hu ▸ packBits_lt _, ?_⟩
  have f0 : bitsOf uw 0 6 = 0 := bits_at hu 0 0 rfl rfl (by decide) rfl
  have eb : fld uw 11 5 = b := fld_at hu 2 rfl rfl
  have ed : fld uw 6 5 = d := fld_at hu 1 rfl rfl
  unfold decodeHalf
  rw [f0]
  exact (by rw [eb, ed] : some (Instr.mov16 (fld uw 11 5) (fld uw 6 5)) = some (Instr.mov16 b d))

theorem half_add16 (b : BitVec 5) (d : BitVec 5) : HalfOf (.add16 b d) (encodeWord (.add16 b d)) := by
  have hp : encodeWord (.add16 b d) = packBits [(6, 4), (5, d.toNat), (5, b.toNat)] := by
    have := b.isLt; have := d.isLt
    change 4 + b.toNat * 2048 + d.toNat * 64 = _; simp only [packBits]; omega
  obtain ⟨uw, hu⟩ : ∃ uw, uw = packBits [(6, 4), (5, d.toNat), (5, b.toNat)] := ⟨_, rfl⟩
  rw [hp, ← hu]
  refine ⟨bits_at hu 0 0 rfl rfl (by decide) rfl, hu ▸ packBits_lt _, ?_⟩
  have f0 : bitsOf uw 0 6 = 4 := bits_at hu 0 0 rfl rfl (by decide) rfl
  have eb : fld uw 11 5 = b := fld_at hu 2 rfl rfl
  have ed : fld uw 6 5 = d := fld_at hu 1 rfl rfl
  unfold decodeHalf
  rw [f0]
  exact (by rw [eb, ed] : some (Instr.add16 (fld uw 11 5) (fld uw 6 5)) = some (Instr.add16 b d))

theorem half_sub16 (b : BitVec 5) (d : BitVec 5) : HalfOf (.sub16 b d) (encodeWord (.sub16 b d)) := by
  have hp : encodeWord (.sub16 b d) = packBits [(6, 8), (5, d.toNat), (5, b.toNat)] := by
    have := b.isLt; have := d.isLt
    change 8 + b.toNat * 2048 + d.toNat * 64 = _; simp only [packBits]; omega
  obtain ⟨uw, hu⟩ : ∃ uw, uw = packBits [(6, 8), (5, d.toNat), (5, b.toNat)] := ⟨_, rfl⟩
  rw [hp, ← hu]
  refine ⟨bits_at hu 0 0 rfl rfl (by decide) rfl, hu ▸ packBits_lt _, ?_⟩
  have f0 : bitsOf uw 0 6 = 8 := bits_at hu 0 0 rfl rfl (by decide) rfl
  have eb : fld uw 11 5 = b := fld_at hu 2 rfl rfl
  have ed : fld uw 6 5 = d := fld_at hu 1 rfl rfl
  unfold decodeHalf
  rw [f0]
  exact (by rw [eb, ed] : some (Instr.sub16 (fld uw 11 5) (fld uw 6 5)) = some (Instr.sub16 b d))

theorem half_mul16 (b : BitVec 5) (d : BitVec 5) : HalfOf (.mul16 b d) (encodeWord (.mul16 b d)) := by
  have hp : encodeWord (.mul16 b d) = packBits [(6, 12), (5, d.toNat), (5, b.toNat)] := by
    have := b.isLt; have := d.isLt
    change 12 + b.toNat * 2048 + d.toNat * 64 = _; simp only [packBits]; omega
  obtain ⟨uw, hu⟩ : ∃ uw, uw = packBits [(6, 12), (5, d.toNat), (5, b.toNat)] := ⟨_, rfl⟩
  rw [hp, ← hu]
  refine ⟨bits_at hu 0 0 rfl rfl (by decide) rfl, hu ▸ packBits_lt _, ?_⟩
  have f0 : bitsOf uw 0 6 = 12 := bits_at hu 0 0 rfl rfl (by decide) rfl
  have eb : fld uw 11 5 = b := fld_at hu 2 rfl rfl
  have ed : fld uw 6 5 = d := fld_at hu 1 rfl rfl
  unfold decodeHalf
  rw [f0]
  exact (by rw [eb, ed] : some (Instr.mul16 (fld uw 11 5) (fld uw 6 5)) = some (Instr.mul16 b d))

theorem half_and16 (b : BitVec 5) (d : BitVec 5) : HalfOf (.and16 b d) (encodeWord (.and16 b d)) := by
  have hp : encodeWord (.and16 b d) = packBits [(6, 16), (5, d.toNat), (5, b.toNat)] := by
    have := b.isLt; have := d.isLt
    change 16 + b.toNat * 2048 + d.toNat * 64 = _; simp only [packBits]; omega
  obtain ⟨uw, hu⟩ : ∃ uw, uw = packBits [(6, 16), (5, d.toNat), (5, b.toNat)] := ⟨_, rfl⟩
  rw [hp, ← hu]
  refine ⟨bits_at hu 0 0 rfl rfl (by decide) rfl, hu ▸ packBits_lt _, ?_⟩
  have f0 : bitsOf uw 0 6 = 16 := bits_at hu 0 0 rfl rfl (by decide) rfl
  have eb : fld uw 11 5 = b := fld_at hu 2 rfl rfl
  have ed : fld uw 6 5 = d := fld_at hu 1 rfl rfl
  unfold decodeHalf
  rw [f0]
  exact (by rw [eb, ed] : some (Instr.and16 (fld uw 11 5) (fld uw 6 5)) = some (Instr.and16 b d))

theorem half_or16 (b : BitVec 5) (d : BitVec 5) : HalfOf (.or16 b d) (encodeWord (.or16 b d)) := by
  have hp : encodeWord (.or16 b d) = packBits [(6, 20), (5, d.toNat), (5, b.toNat)] := by
    have := b.isLt; have := d.isLt
    change 20 + b.toNat * 2048 + d.toNat * 64 = _; simp only [packBits]; omega
  obtain ⟨uw, hu⟩ : ∃ uw, uw = packBits [(6, 20), (5, d.toNat), (5, b.toNat)] := ⟨_, rfl⟩
  rw [hp, ← hu]
  refine ⟨bits_at hu 0 0 rfl rfl (by decide) rfl, hu ▸ packBits_lt _, ?_⟩
  have f0 : bitsOf uw 0 6 = 20 := bits_at hu 0 0 rfl rfl (by decide) rfl
  have eb : fld uw 11 5 = b := fld_at hu 2 rfl rfl
  have ed : fld uw 6 5 = d := fld_at hu 1 rfl rfl
  unfold decodeHalf
  rw [f0]
  exact (by rw [eb, ed] : some (Instr.or16 (fld uw 11 5) (fld uw 6 5)) = some (Instr.or16 b d))

theorem half_xor16 (b : BitVec 5) (d : BitVec 5) : HalfOf (.xor16 b d) (encodeWord (.xor16 b d)) := by
  have hp : encodeWord (.xor16 b d) = packBits [(6, 24), (5, d.toNat), (5, b.toNat)] := by
    have := b.isLt; have := d.isLt
    change 24 + b.toNat * 2048 + d.toNat * 64 = _; simp only [packBits]; omega
  obtain ⟨uw, hu⟩ : ∃ uw, uw = packBits [(6, 24), (5, d.toNat), (5, b.toNat)] := ⟨_, rfl⟩
  rw [hp, ← hu]
  refine ⟨bits_at hu 0 0 rfl rfl (by decide) rfl, hu ▸ packBits_lt _, ?_⟩
  have f0 : bitsOf uw 0 6 = 24 := bits_at hu 0 0 rfl rfl (by decide) rfl
  have eb : fld uw 11 5 = b := fld_at hu 2 rfl rfl
  have ed : fld uw 6 5 = d := fld_at hu 1 rfl rfl
  unfold decodeHalf
  rw [f0]
  exact (by rw [eb, ed] : some (Instr.xor16 (fld uw 11 5) (fld uw 6 5)) = some (Instr.xor16 b d))

theorem half_andn16 (b : BitVec 5) (d : BitVec 5) : HalfOf (.andn16 b d) (encodeWord (.andn16 b d)) := by
  have hp : encodeWord (.andn16 b d) = packBits [(6, 28), (5, d.toNat), (5, b.toNat)] := by
    have := b.isLt; have := d.isLt
    change 28 + b.toNat * 2048 + d.toNat * 64 = _; simp only [packBits]; omega
  obtain ⟨uw, hu⟩ : ∃ uw, uw = packBits [(6, 28), (5, d.toNat), (5, b.toNat)] := ⟨_, rfl⟩
  rw [hp, ← hu]
  refine ⟨bits_at hu 0 0 rfl rfl (by decide) rfl, hu ▸ packBits_lt _, ?_⟩
  have f0 : bitsOf uw 0 6 = 28 := bits_at hu 0 0 rfl rfl (by decide) rfl
  have eb : fld uw 11 5 = b := fld_at hu 2 rfl rfl
  have ed : fld uw 6 5 = d := fld_at hu 1 rfl rfl
  unfold decodeHalf
  rw [f0]
  exact (by rw [eb, ed] : some (Instr.andn16 (fld uw 11 5) (fld uw 6 5)) = some (Instr.andn16 b d))

theorem half_shl16 (b : BitVec 5) (d : BitVec 5) : HalfOf (.shl16 b d) (encodeWord (.shl16 b d)) := by
  have hp : encodeWord (.shl16 b d) = packBits [(6, 32), (5, d.toNat), (5, b.toNat)] := by
    have := b.isLt; have := d.isLt
    change 32 + b.toNat * 2048 + d.toNat * 64 = _; simp only [packBits]; omega
  obtain ⟨uw, hu⟩ : ∃ uw, uw = packBits [(6, 32), (5, d.toNat), (5, b.toNat)] := ⟨_, rfl⟩
  rw [hp, ← hu]
  refine ⟨bits_at hu 0 0 rfl rfl (by decide) rfl, hu ▸ packBits_lt _, ?_⟩
  have f0 : bitsOf uw 0 6 = 32 := bits_at hu 0 0 rfl rfl (by decide) rfl
  have eb : fld uw 11 5 = b := fld_at hu 2 rfl rfl
  have ed : fld uw 6 5 = d := fld_at hu 1 rfl rfl
  unfold decodeHalf
  rw [f0]
  exact (by rw [eb, ed] : some (Instr.shl16 (fld uw 11 5) (fld uw 6 5)) = some (Instr.shl16 b d))

theorem half_shr16 (b : BitVec 5) (d : BitVec 5) : HalfOf (.shr16 b d) (encodeWord (.shr16 b d)) := by
  have hp : encodeWord (.shr16 b d) = packBits [(6, 36), (5, d.toNat), (5, b.toNat)] := by
    have := b.isLt; have := d.isLt
    change 36 + b.toNat * 2048 + d.toNat * 64 = _; simp only [packBits]; omega
  obtain ⟨uw, hu⟩ : ∃ uw, uw = packBits [(6, 36), (5, d.toNat), (5, b.toNat)] := ⟨_, rfl⟩
  rw [hp, ← hu]
  refine ⟨bits_at hu 0 0 rfl rfl (by decide) rfl, hu ▸ packBits_lt _, ?_⟩
  have f0 : bitsOf uw 0 6 = 36 := bits_at hu 0 0 rfl rfl (by decide) rfl
  have eb : fld uw 11 5 = b := fld_at hu 2 rfl rfl
  have ed : fld uw 6 5 = d := fld_at hu 1 rfl rfl
  unfold decodeHalf
  rw [f0]
  exact (by rw [eb, ed] : some (Instr.shr16 (fld uw 11 5) (fld uw 6 5)) = some (Instr.shr16 b d))

theorem half_sra16 (b : BitVec 5) (d : BitVec 5) : HalfOf (.sra16 b d) (encodeWord (.sra16 b d)) := by
  have hp : encodeWord (.sra16 b d) = packBits [(6, 40), (5, d.toNat), (5, b.toNat)] := by
    have := b.isLt; have := d.isLt
    change 40 + b.toNat * 2048 + d.toNat * 64 = _; simp only [packBits]; omega
  obtain ⟨uw, hu⟩ : ∃ uw, uw = packBits [(6, 40), (5, d.toNat), (5, b.toNat)] := ⟨_, rfl⟩
  rw [hp, ← hu]
  refine ⟨bits_at hu 0 0 rfl rfl (by decide) rfl, hu ▸ packBits_lt _, ?_⟩
  have f0 : bitsOf uw 0 6 = 40 := bits_at hu 0 0 rfl rfl (by decide) rfl
  have eb : fld uw 11 5 = b := fld_at hu 2 rfl rfl
  have ed : fld uw 6 5 = d := fld_at hu 1 rfl rfl
  unfold decodeHalf
  rw [f0]
  exact (by rw [eb, ed] : some (Instr.sra16 (fld uw 11 5) (fld uw 6 5)) = some (Instr.sra16 b d))

theorem half_min16 (b : BitVec 5) (d : BitVec 5) : HalfOf (.min16 b d) (encodeWord (.min16 b d)) := by
  have hp : encodeWord (.min16 b d) = packBits [(6, 44), (5, d.toNat), (5, b.toNat)] := by
    have := b.isLt; have := d.isLt
    change 44 + b.toNat * 2048 + d.toNat * 64 = _; simp only [packBits]; omega
  obtain ⟨uw, hu⟩ : ∃ uw, uw = packBits [(6, 44), (5, d.toNat), (5, b.toNat)] := ⟨_, rfl⟩
  rw [hp, ← hu]
  refine ⟨bits_at hu 0 0 rfl rfl (by decide) rfl, hu ▸ packBits_lt _, ?_⟩
  have f0 : bitsOf uw 0 6 = 44 := bits_at hu 0 0 rfl rfl (by decide) rfl
  have eb : fld uw 11 5 = b := fld_at hu 2 rfl rfl
  have ed : fld uw 6 5 = d := fld_at hu 1 rfl rfl
  unfold decodeHalf
  rw [f0]
  exact (by rw [eb, ed] : some (Instr.min16 (fld uw 11 5) (fld uw 6 5)) = some (Instr.min16 b d))

theorem half_max16 (b : BitVec 5) (d : BitVec 5) : HalfOf (.max16 b d) (encodeWord (.max16 b d)) := by
  have hp : encodeWord (.max16 b d) = packBits [(6, 48), (5, d.toNat), (5, b.toNat)] := by
    have := b.isLt; have := d.isLt
    change 48 + b.toNat * 2048 + d.toNat * 64 = _; simp only [packBits]; omega
  obtain ⟨uw, hu⟩ : ∃ uw, uw = packBits [(6, 48), (5, d.toNat), (5, b.toNat)] := ⟨_, rfl⟩
  rw [hp, ← hu]
  refine ⟨bits_at hu 0 0 rfl rfl (by decide) rfl, hu ▸ packBits_lt _, ?_⟩
  have f0 : bitsOf uw 0 6 = 48 := bits_at hu 0 0 rfl rfl (by decide) rfl
  have eb : fld uw 11 5 = b := fld_at hu 2 rfl rfl
  have ed : fld uw 6 5 = d := fld_at hu 1 rfl rfl
  unfold decodeHalf
  rw [f0]
  exact (by rw [eb, ed] : some (Instr.max16 (fld uw 11 5) (fld uw 6 5)) = some (Instr.max16 b d))

theorem half_fadd16 (b : BitVec 5) (d : BitVec 5) : HalfOf (.fadd16 b d) (encodeWord (.fadd16 b d)) := by
  have hp : encodeWord (.fadd16 b d) = packBits [(6, 52), (5, d.toNat), (5, b.toNat)] := by
    have := b.isLt; have := d.isLt
    change 52 + b.toNat * 2048 + d.toNat * 64 = _; simp only [packBits]; omega
  obtain ⟨uw, hu⟩ : ∃ uw, uw = packBits [(6, 52), (5, d.toNat), (5, b.toNat)] := ⟨_, rfl⟩
  rw [hp, ← hu]
  refine ⟨bits_at hu 0 0 rfl rfl (by decide) rfl, hu ▸ packBits_lt _, ?_⟩
  have f0 : bitsOf uw 0 6 = 52 := bits_at hu 0 0 rfl rfl (by decide) rfl
  have eb : fld uw 11 5 = b := fld_at hu 2 rfl rfl
  have ed : fld uw 6 5 = d := fld_at hu 1 rfl rfl
  unfold decodeHalf
  rw [f0]
  exact (by rw [eb, ed] : some (Instr.fadd16 (fld uw 11 5) (fld uw 6 5)) = some (Instr.fadd16 b d))

theorem half_fmul16 (b : BitVec 5) (d : BitVec 5) : HalfOf (.fmul16 b d) (encodeWord (.fmul16 b d)) := by
  have hp : encodeWord (.fmul16 b d) = packBits [(6, 56), (5, d.toNat), (5, b.toNat)] := by
    have := b.isLt; have := d.isLt
    change 56 + b.toNat * 2048 + d.toNat * 64 = _; simp only [packBits]; omega
  obtain ⟨uw, hu⟩ : ∃ uw, uw = packBits [(6, 56), (5, d.toNat), (5, b.toNat)] := ⟨_, rfl⟩
  rw [hp, ← hu]
  refine ⟨bits_at hu 0 0 rfl rfl (by decide) rfl, hu ▸ packBits_lt _, ?_⟩
  have f0 : bitsOf uw 0 6 = 56 := bits_at hu 0 0 rfl rfl (by decide) rfl
  have eb : fld uw 11 5 = b := fld_at hu 2 rfl rfl
  have ed : fld uw 6 5 = d := fld_at hu 1 rfl rfl
  unfold decodeHalf
  rw [f0]
  exact (by rw [eb, ed] : some (Instr.fmul16 (fld uw 11 5) (fld uw 6 5)) = some (Instr.fmul16 b d))

theorem half_fmax16 (b : BitVec 5) (d : BitVec 5) : HalfOf (.fmax16 b d) (encodeWord (.fmax16 b d)) := by
  have hp : encodeWord (.fmax16 b d) = packBits [(6, 60), (5, d.toNat), (5, b.toNat)] := by
    have := b.isLt; have := d.isLt
    change 60 + b.toNat * 2048 + d.toNat * 64 = _; simp only [packBits]; omega
  obtain ⟨uw, hu⟩ : ∃ uw, uw = packBits [(6, 60), (5, d.toNat), (5, b.toNat)] := ⟨_, rfl⟩
  rw [hp, ← hu]
  refine ⟨bits_at hu 0 0 rfl rfl (by decide) rfl, hu ▸ packBits_lt _, ?_⟩
  have f0 : bitsOf uw 0 6 = 60 := bits_at hu 0 0 rfl rfl (by decide) rfl
  have eb : fld uw 11 5 = b := fld_at hu 2 rfl rfl
  have ed : fld uw 6 5 = d := fld_at hu 1 rfl rfl
  unfold decodeHalf
  rw [f0]
  exact (by rw [eb, ed] : some (Instr.fmax16 (fld uw 11 5) (fld uw 6 5)) = some (Instr.fmax16 b d))

theorem half_nop : HalfOf .nop (encodeWord .nop) := by
  have hp : encodeWord .nop = packBits [(16, 2)] := by decide
  obtain ⟨uw, hu⟩ : ∃ uw, uw = packBits [(16, 2)] := ⟨_, rfl⟩
  rw [hp, ← hu]
  refine ⟨bits_at hu 0 0 rfl rfl (by decide) rfl, hu ▸ packBits_lt _, ?_⟩
  have f0 : bitsOf uw 0 6 = 2 := bits_at hu 0 0 rfl rfl (by decide) rfl
  have f1 : bitsOf uw 6 10 = 0 := bits_at hu 0 6 rfl rfl (by decide) rfl
  unfold decodeHalf
  rw [f0]
  exact (if_pos f1)

theorem half_join : HalfOf .join (encodeWord .join) := by
  have hp : encodeWord .join = packBits [(16, 6)] := by decide
  obtain ⟨uw, hu⟩ : ∃ uw, uw = packBits [(16, 6)] := ⟨_, rfl⟩
  rw [hp, ← hu]
  refine ⟨bits_at hu 0 0 rfl rfl (by decide) rfl, hu ▸ packBits_lt _, ?_⟩
  have f0 : bitsOf uw 0 6 = 6 := bits_at hu 0 0 rfl rfl (by decide) rfl
  have f1 : bitsOf uw 6 10 = 0 := bits_at hu 0 6 rfl rfl (by decide) rfl
  unfold decodeHalf
  rw [f0]
  exact (if_pos f1)

theorem half_yield : HalfOf .yield (encodeWord .yield) := by
  have hp : encodeWord .yield = packBits [(16, 10)] := by decide
  obtain ⟨uw, hu⟩ : ∃ uw, uw = packBits [(16, 10)] := ⟨_, rfl⟩
  rw [hp, ← hu]
  refine ⟨bits_at hu 0 0 rfl rfl (by decide) rfl, hu ▸ packBits_lt _, ?_⟩
  have f0 : bitsOf uw 0 6 = 10 := bits_at hu 0 0 rfl rfl (by decide) rfl
  have f1 : bitsOf uw 6 10 = 0 := bits_at hu 0 6 rfl rfl (by decide) rfl
  unfold decodeHalf
  rw [f0]
  exact (if_pos f1)

theorem half_exit : HalfOf .exit (encodeWord .exit) := by
  have hp : encodeWord .exit = packBits [(16, 14)] := by decide
  obtain ⟨uw, hu⟩ : ∃ uw, uw = packBits [(16, 14)] := ⟨_, rfl⟩
  rw [hp, ← hu]
  refine ⟨bits_at hu 0 0 rfl rfl (by decide) rfl, hu ▸ packBits_lt _, ?_⟩
  have f0 : bitsOf uw 0 6 = 14 := bits_at hu 0 0 rfl rfl (by decide) rfl
  have f1 : bitsOf uw 6 10 = 0 := bits_at hu 0 6 rfl rfl (by decide) rfl
  unfold decodeHalf
  rw [f0]
  exact (if_pos f1)

theorem half_ret : HalfOf .ret (encodeWord .ret) := by
  have hp : encodeWord .ret = packBits [(16, 18)] := by decide
  obtain ⟨uw, hu⟩ : ∃ uw, uw = packBits [(16, 18)] := ⟨_, rfl⟩
  rw [hp, ← hu]
  refine ⟨bits_at hu 0 0 rfl rfl (by decide) rfl, hu ▸ packBits_lt _, ?_⟩
  have f0 : bitsOf uw 0 6 = 18 := bits_at hu 0 0 rfl rfl (by decide) rfl
  have f1 : bitsOf uw 6 10 = 0 := bits_at hu 0 6 rfl rfl (by decide) rfl
  unfold decodeHalf
  rw [f0]
  exact (if_pos f1)

theorem half_guard (n : BitVec 1) (p : BitVec 3) : HalfOf (.guard n p) (encodeWord (.guard n p)) := by
  have hp : encodeWord (.guard n p) = packBits [(6, 22), (3, p.toNat), (1, n.toNat), (6, 0)] := by
    have := n.isLt; have := p.isLt
    change 22 + n.toNat * 512 + p.toNat * 64 = _; simp only [packBits]; omega
  obtain ⟨uw, hu⟩ : ∃ uw, uw = packBits [(6, 22), (3, p.toNat), (1, n.toNat), (6, 0)] := ⟨_, rfl⟩
  rw [hp, ← hu]
  refine ⟨bits_at hu 0 0 rfl rfl (by decide) rfl, hu ▸ packBits_lt _, ?_⟩
  have f0 : bitsOf uw 0 6 = 22 := bits_at hu 0 0 rfl rfl (by decide) rfl
  have en : fld uw 9 1 = n := fld_at hu 2 rfl rfl
  have ep : fld uw 6 3 = p := fld_at hu 1 rfl rfl
  have f1 : bitsOf uw 10 6 = 0 := bits_at hu 3 0 rfl rfl (by decide) rfl
  unfold decodeHalf
  rw [f0]
  exact (if_pos f1).trans (by rw [en, ep])

end Sys2Proof
end

