-- ==== Sys2Proof/Laws/KeepShared.lean ====
section
/-! SUPPORT. The canonical form of memory is kept: the operations that the meanings share. One lemma per definition that answers a state. -/

namespace Sys2Proof.Machine

open Sys2Proof

/-- An outcome whose next state, if any, holds its memory in canonical form. -/
structure KeepsWf (o : Out) : Prop where
  next_wf : ∀ t, o = .next t → t.Inv

theorem KeepsWf.next {t : State} (h : t.Inv) : KeepsWf (.next t) :=
  ⟨fun _ hu => by cases hu; exact h⟩

theorem KeepsWf.fault (r : Fault) : KeepsWf (.fault r) := ⟨fun _ h => by cases h⟩
theorem KeepsWf.refused (r : Refusal) : KeepsWf (.refused r) := ⟨fun _ h => by cases h⟩

theorem wf_foldl {β : Type} {f : State → β → State} {l : List β} {s : State} (h : s.Inv)
    (hf : ∀ s x, s.Inv → (f s x).Inv) : (l.foldl f s).Inv := by
  induction l generalizing s with
  | nil => exact h
  | cons x t ih => exact ih (hf s x h)

theorem wf_foldl_fst {α β : Type} {f : State × α → β → State × α} {l : List β} {s : State × α} (h : s.1.Inv)
    (hf : ∀ s x, s.1.Inv → (f s x).1.Inv) : (l.foldl f s).1.Inv := by
  induction l generalizing s with
  | nil => exact h
  | cons x t ih => exact ih (hf s x h)

theorem wf_of_fst {α : Type} {e : State × α} {s : State} {a : α} (he : e = (s, a)) (h : e.1.Inv) :
    s.Inv := by
  rw [he] at h
  exact h

/-- An optional state that holds its memory in canonical form. -/
structure KeepsSome (o : Option State) : Prop where
  some_wf : ∀ r, o = some r → r.Inv

theorem KeepsSome.none : KeepsSome none := ⟨fun _ h => by cases h⟩
theorem KeepsSome.some {r : State} (h : r.Inv) : KeepsSome (some r) := ⟨fun _ hr => by cases hr; exact h⟩
theorem KeepsSome.of {o : Option State} {r : State} (h : o = Option.some r) (k : KeepsSome o) : r.Inv := k.some_wf r h

/-- The same for a state with a value. -/
structure KeepsSomeFst {α : Type} (o : Option (State × α)) : Prop where
  some_wf : ∀ r, o = some r → r.1.Inv

theorem KeepsSomeFst.none {α : Type} : KeepsSomeFst (none : Option (State × α)) := ⟨fun _ h => by cases h⟩
theorem KeepsSomeFst.some {α : Type} {r : State × α} (h : r.1.Inv) : KeepsSomeFst (some r) :=
  ⟨fun _ hr => by cases hr; exact h⟩
theorem KeepsSomeFst.of {α : Type} {o : Option (State × α)} {s : State} {a : α} (h : o = Option.some (s, a)) (k : KeepsSomeFst o) :
    s.Inv := k.some_wf _ h

/-- The same for a result that may be an error. -/
structure KeepsOk {ε α : Type} (o : Except ε (State × α)) : Prop where
  ok_wf : ∀ r, o = .ok r → r.1.Inv

theorem KeepsOk.error {ε α : Type} (e : ε) : KeepsOk (.error e : Except ε (State × α)) := ⟨fun _ h => by cases h⟩
theorem KeepsOk.ok {ε α : Type} {r : State × α} (h : r.1.Inv) : KeepsOk (.ok r : Except ε (State × α)) :=
  ⟨fun _ hr => by cases hr; exact h⟩
theorem KeepsOk.of {ε α : Type} {o : Except ε (State × α)} {s : State} {a : α} (h : o = .ok (s, a)) (k : KeepsOk o) :
    s.Inv := k.ok_wf _ h

theorem KeepsSome.map {o : Option State} {f : State → State} (k : KeepsSome o) (hf : ∀ s, s.Inv → (f s).Inv) :
    KeepsSome (o.map f) := by
  cases o with
  | none => exact KeepsSome.none
  | some s => exact KeepsSome.some (hf s (k.some_wf s rfl))

/-- The same for the write of a stamp. -/
structure KeepsWrote (w : Wrote) : Prop where
  made_wf : ∀ s, w = .made s → s.Inv
  dropped_wf : ∀ s, w = .dropped s → s.Inv

theorem KeepsWrote.made {s : State} (h : s.Inv) : KeepsWrote (.made s) :=
  ⟨fun _ e => (by cases e; exact h), fun _ e => (by cases e)⟩
theorem KeepsWrote.dropped {s : State} (h : s.Inv) : KeepsWrote (.dropped s) :=
  ⟨fun _ e => (by cases e), fun _ e => (by cases e; exact h)⟩
theorem KeepsWrote.fault (a l e : Nat) : KeepsWrote (.fault a l e) := ⟨fun _ h => (by cases h), fun _ h => (by cases h)⟩
theorem KeepsWrote.held : KeepsWrote .held := ⟨fun _ h => (by cases h), fun _ h => (by cases h)⟩
theorem KeepsWrote.of_made {w : Wrote} {s : State} (h : w = .made s) (k : KeepsWrote w) : s.Inv := k.made_wf s h
theorem KeepsWrote.of_dropped {w : Wrote} {s : State} (h : w = .dropped s) (k : KeepsWrote w) : s.Inv :=
  k.dropped_wf s h

theorem wf_foldl_st {β : Type} {f : Move → β → Move} {l : List β} {m : Move} (h : m.st.Inv)
    (hf : ∀ m x, m.st.Inv → (f m x).st.Inv) : (l.foldl f m).st.Inv := by
  induction l generalizing m with
  | nil => exact h
  | cons x t ih => exact ih (hf m x h)

theorem wf_foldl_fst_st {α β : Type} {f : Move × α → β → Move × α} {l : List β} {m : Move × α} (h : m.1.st.Inv)
    (hf : ∀ m x, m.1.st.Inv → (f m x).1.st.Inv) : (l.foldl f m).1.st.Inv := by
  induction l generalizing m with
  | nil => exact h
  | cons x t ih => exact ih (hf m x h)

theorem wf_foldl_mv {β : Type} {f : Sending → β → Sending} {l : List β} {m : Sending} (h : m.mv.st.Inv)
    (hf : ∀ m x, m.mv.st.Inv → (f m x).mv.st.Inv) : (l.foldl f m).mv.st.Inv := by
  induction l generalizing m with
  | nil => exact h
  | cons x t ih => exact ih (hf m x h)

theorem wf_st_of_fst {α : Type} {e : Move × α} {m : Move} {a : α} (he : e = (m, a)) (h : e.1.st.Inv) :
    m.st.Inv := by
  rw [he] at h
  exact h

theorem inv_of_eq {s t : State} (h : s = t) (ht : t.Inv) : s.Inv := by subst h; exact ht
theorem inv_ite {p : Prop} [Decidable p] {a b : State} (ha : a.Inv) (hb : b.Inv) : (if p then a else b).Inv := by
  split
  · exact ha
  · exact hb

theorem wf_State_touched : ∀ (s : State) (pa : ℕ) (n : ℕ), (s.Inv) → (@State.touched s pa n).Inv := by
  intros
  delta State.touched
  with_reducible repeat'
    first
    | assumption

theorem wf_State_fill : ∀ (s : State) (l1 : Option ℕ) (pa : ℕ) (n : ℕ) (ident : ℕ) (cls : ℕ), (s.Inv) → (@State.fill s l1 pa n ident cls).Inv := by
  intros
  delta State.fill
  with_reducible repeat'
    first
    | assumption

theorem wf_State_putQueue : ∀ (s : State) (n : ℕ) (q : Queue), (s.Inv) → (@State.putQueue s n q).Inv := by
  intros
  delta State.putQueue
  with_reducible repeat'
    first
    | assumption
    | apply State.wf_writeNum

theorem wf_State_modQueue : ∀ (s : State) (n : ℕ) (f : Queue → Queue), (s.Inv) → (@State.modQueue s n f).Inv := by
  intros
  delta State.modQueue
  with_reducible repeat'
    first
    | assumption
    | apply wf_State_putQueue
    | split

theorem wf_State_irq : ∀ (s : State) (v : ℕ), (s.Inv) → (@State.irq s v).Inv := by
  intros
  delta State.irq
  with_reducible repeat'
    first
    | assumption

theorem wf_snapTrigger : ∀ (s : State), (s.Inv) → (@snapTrigger s).Inv := by
  intros
  delta snapTrigger
  with_reducible repeat'
    first
    | assumption
    | (intro x; clear_value x)
    | lift_lets
    | split

theorem wf_audit : ∀ (s : State) (qn : ℕ) (e : AuditEv), (s.Inv) → (@audit s qn e).Inv := by
  intro s qn e h
  unfold audit
  cases tabGet s.queues qn with
  | none => exact h
  | some q =>
    have h1 : (if (s.fw.snapOn.getLsbD 2 && s.fw.snapClass == e.cls) = true then snapTrigger s else s).Inv := inv_ite (wf_snapTrigger _ h) h
    exact inv_ite (wf_State_putQueue _ _ _ h1) (wf_State_putQueue _ _ _ (State.wf_writeNum _ _ _ h1))

theorem wf_noteXlat : ∀ (s : State) (core : Option ℕ) (die : ℕ) (x : Xlat) (write : Bool) (walked : Bool), (s.Inv) → (@noteXlat s core die x write walked).Inv := by
  intros
  delta noteXlat
  with_reducible repeat'
    first
    | assumption
    | apply State.wf_writeNum
    | (intro (x : State); have hx : x.Inv; rotate_left; clear_value x; rotate_right; subst x)
    | (intro x; clear_value x)
    | lift_lets
    | split

theorem wf_dropWalks : ∀ (s : State) (p : WalkEnt → Bool), (s.Inv) → (@dropWalks s p).Inv := by
  intros
  delta dropWalks
  with_reducible repeat'
    first
    | assumption

theorem wf_dropXlats : ∀ (s : State) (p : Xlat → Bool), (s.Inv) → (@dropXlats s p).Inv := by
  intros
  delta dropXlats
  with_reducible repeat'
    first
    | assumption

theorem wf_dropRange : ∀ (s : State) (asid : ℕ) (va : ℕ) (size : ℕ), (s.Inv) → (@dropRange s asid va size).Inv := by
  intros
  delta dropRange
  with_reducible repeat'
    first
    | assumption
    | apply wf_dropWalks
    | apply wf_dropXlats

theorem wf_State_modCore : ∀ (s : State) (c : ℕ) (f : Core → Core), (s.Inv) → (@State.modCore s c f).Inv := by
  intros
  delta State.modCore
  with_reducible repeat'
    first
    | assumption

theorem wf_State_modTeam : ∀ (s : State) (key : ℕ) (f : Team → Team), (s.Inv) → (@State.modTeam s key f).Inv := by
  intros
  delta State.modTeam
  with_reducible repeat'
    first
    | assumption

theorem wf_State_modGroup : ∀ (s : State) (key : ℕ) (g : ℕ) (f : Group → Group), (s.Inv) → (@State.modGroup s key g f).Inv := by
  intros
  delta State.modGroup
  with_reducible repeat'
    first
    | assumption
    | apply wf_State_modTeam

theorem wf_State_modLive (s : State) (key g : ℕ) (f : Group → Group) (h : s.Inv) : (@State.modLive s key g f).Inv := wf_State_modGroup _ _ _ _ h

theorem wf_issue : ∀ (s : State) (f : Ctx → State), (s.Inv) → (∀ (a_0 : Ctx), (f a_0).Inv) → KeepsWf (@issue s f) := by
  intro s f h0 h1
  delta issue
  with_reducible repeat'
    first
    | assumption
    | apply h1
    | apply KeepsWf.next
    | split

theorem wf_askRegs : ∀ (s : State) (c : Ctx), (s.Inv) → (@askRegs s c).Inv := by
  intros
  delta askRegs
  with_reducible repeat'
    first
    | assumption
    | apply wf_State_modTeam

theorem wf_flushLine : ∀ (s : State) (u : UpdLine), (s.Inv) → (@flushLine s u).Inv := by
  intros
  delta flushLine
  with_reducible repeat'
    first
    | assumption
    | apply State.wf_writeNum
    | apply wf_foldl
    | intro x

theorem wf_flushCore : ∀ (s : State) (core : ℕ) (p : UpdLine → Bool), (s.Inv) → (@flushCore s core p).Inv := by
  intros
  delta flushCore
  with_reducible repeat'
    first
    | assumption
    | apply wf_State_modCore
    | apply wf_flushLine
    | apply wf_foldl
    | (intro x; clear_value x)
    | lift_lets
    | split

theorem wf_State_setSlot : ∀ (s : State) (core : ℕ) (i : ℕ) (sl : Slot), (s.Inv) → (@State.setSlot s core i sl).Inv := by
  intros
  delta State.setSlot
  with_reducible repeat'
    first
    | assumption
    | apply wf_State_modCore

theorem wf_readmit : ∀ (s : State) (core : ℕ) (key : ℕ) (id : ℕ) (o : Op) (a : Att), (s.Inv) → (@readmit s core key id o a).Inv := by
  intro s core key id o a h
  delta readmit
  dsimp only
  split
  · exact h
  · split
    · exact wf_State_modCore s core (fun k => { k with locks := k.locks ++ a.locks key id }) h
    · exact h

theorem wf_resample : ∀ (s : State) (core : ℕ) (key : ℕ), (s.Inv) → (@resample s core key).Inv := by
  intros
  delta resample
  with_reducible repeat'
    first
    | assumption
    | apply wf_readmit
    | apply wf_foldl
    | (intro x; clear_value x)
    | intro x
    | lift_lets
    | split

theorem wf_switchIn : ∀ (s : State) (core : ℕ), (s.Inv) → (@switchIn s core).Inv := by
  intros
  delta switchIn
  with_reducible repeat'
    first
    | assumption
    | apply wf_resample
    | apply wf_State_modCore
    | apply wf_State_setSlot
    | (intro x; clear_value x)
    | lift_lets
    | split

theorem wf_leaveRunning : ∀ (s : State) (core : ℕ) (why : Cause) (retain : Bool), (s.Inv) → (@leaveRunning s core why retain).Inv := by
  intros
  delta leaveRunning
  with_reducible repeat'
    first
    | assumption
    | apply wf_State_setSlot
    | apply wf_switchIn
    | apply wf_State_modTeam
    | (intro x; clear_value x)
    | lift_lets
    | split

theorem wf_noteCause : ∀ (s : State) (core : ℕ) (key : ℕ) (why : Cause), (s.Inv) → (@noteCause s core key why).Inv := by
  intros
  delta noteCause
  with_reducible repeat'
    first
    | assumption
    | apply wf_State_modTeam
    | apply wf_State_setSlot
    | (intro x; clear_value x)
    | lift_lets
    | split

theorem wf_haltOp : ∀ (s : State) (id : ℕ), (s.Inv) → (@haltOp s id).Inv := by
  intros
  delta haltOp
  with_reducible repeat'
    first
    | assumption
    | split

theorem wf_opGroup : ∀ (s : State) (id : ℕ) (f : Op → Group → Group), (s.Inv) → (@opGroup s id f).Inv := by
  intros
  delta opGroup
  with_reducible repeat'
    first
    | assumption
    | apply wf_State_modLive
    | split

theorem wf_takeTrap : ∀ (s : State) (at_ : Site) (c : Cond), (s.Inv) → (@takeTrap s at_ c).Inv := by
  intros
  delta takeTrap
  with_reducible repeat'
    first
    | assumption
    | apply wf_State_modTeam
    | apply wf_opGroup
    | apply wf_haltOp
    | apply wf_leaveRunning
    | apply wf_noteCause
    | (intro (x : State); have hx : x.Inv; rotate_left; clear_value x; rotate_right; subst x)
    | (intro x; clear_value x)
    | intro x
    | lift_lets
    | split

theorem wf_State_named : ∀ (s : State), (s.Inv) → (@State.named s).Inv := by
  intros
  delta State.named
  with_reducible repeat'
    first
    | assumption

theorem wf_addFault : ∀ (s : State) (qn : ℕ) (bits : ℕ) (who : Faulter), (s.Inv) → (@addFault s qn bits who).Inv := by
  intros
  delta addFault
  with_reducible repeat'
    first
    | assumption
    | apply wf_State_named

theorem wf_keepReplay : ∀ (s : State) (at_ : Site), (s.Inv) → (@keepReplay s at_).Inv := by
  intros
  delta keepReplay
  with_reducible repeat'
    first
    | assumption
    | apply wf_State_modGroup
    | split

theorem wf_takeFault : ∀ (s : State) (at_ : Site) (f : FaultInfo), (s.Inv) → (@takeFault s at_ f).Inv := by
  intros
  delta takeFault
  with_reducible repeat'
    first
    | assumption
    | apply wf_keepReplay
    | apply wf_haltOp
    | apply wf_State_modTeam
    | apply wf_addFault
    | apply wf_leaveRunning
    | apply wf_noteCause
    | (intro (x : State); have hx : x.Inv; rotate_left; clear_value x; rotate_right; subst x)
    | (intro x; clear_value x)
    | lift_lets
    | split

theorem wf_releaseLocks : ∀ (s : State) (op : ℕ) (p : RangeLock → Bool), (s.Inv) → (@releaseLocks s op p).Inv := by
  intros
  delta releaseLocks
  with_reducible repeat'
    first
    | assumption

theorem wf_endOp : ∀ (s : State) (id : ℕ), (s.Inv) → (@endOp s id).Inv := by
  intros
  delta endOp
  with_reducible repeat'
    first
    | assumption
    | apply wf_releaseLocks

theorem wf_resumeTeam : ∀ (s : State) (key : ℕ) (skip : Bool), (s.Inv) → (@resumeTeam s key skip).Inv := by
  intros
  delta resumeTeam
  with_reducible repeat'
    first
    | assumption
    | apply wf_endOp
    | apply wf_opGroup
    | apply wf_foldl
    | (intro (x : State); have hx : x.Inv; rotate_left; clear_value x; rotate_right; subst x)
    | (intro x; clear_value x)
    | intro x
    | lift_lets
    | split

theorem wf_endUnit : ∀ (s : State) (c : Ctx) (f : Group → Group), (s.Inv) → (@endUnit s c f).Inv := by
  intros
  delta endUnit
  with_reducible repeat'
    first
    | assumption
    | apply wf_State_modGroup
    | apply wf_State_modTeam

theorem wf_finishAt : ∀ (s : State) (c : Ctx) (e : Eff) (pc : DWord), (s.Inv) → (@finishAt s c e pc).Inv := by
  intros
  delta finishAt
  with_reducible repeat'
    first
    | assumption
    | apply wf_endUnit

theorem wf_finish : ∀ (s : State) (c : Ctx) (e : Eff), (s.Inv) → (@finish s c e).Inv := by
  intros
  delta finish
  with_reducible repeat'
    first
    | assumption
    | apply wf_finishAt

theorem wf_unitWith : ∀ (s : State) (c : Ctx) (conds : List Cond) (e : Eff) (act : State → State), (s.Inv) → (∀ (a_0 : State), a_0.Inv → (act a_0).Inv) → (@unitWith s c conds e act).Inv := by
  intro s c conds e act h0 h1
  delta unitWith
  with_reducible repeat'
    first
    | assumption
    | apply wf_takeTrap
    | apply wf_finish
    | apply wf_askRegs
    | apply h1
    | split

theorem wf_unit : ∀ (s : State) (c : Ctx) (e : Eff), (s.Inv) → (@unit s c e).Inv := by
  intros
  delta unit
  with_reducible repeat'
    first
    | assumption
    | apply wf_unitWith
    | intro x
    | lift_lets
    | dsimp only [State.Inv]
    | dsimp only [id]

theorem wf_unitAudit : ∀ (s : State) (c : Ctx) (va : ℕ) (lanes : ℕ) (count : ℕ) (cls : ℕ) (path : ℕ) (kind : ℕ), (s.Inv) → (@unitAudit s c va lanes count cls path kind).Inv := by
  intros
  delta unitAudit
  with_reducible repeat'
    first
    | assumption
    | apply wf_audit

theorem wf_opAuditL : ∀ (s : State) (o : Op) (va : ℕ) (lanes : ℕ) (count : ℕ) (detail : ℕ) (cls : ℕ) (path : ℕ) (kind : ℕ), (s.Inv) → (@opAuditL s o va lanes count detail cls path kind).Inv := by
  intros
  delta opAuditL
  with_reducible repeat'
    first
    | assumption
    | apply wf_audit
    | split

theorem wf_opAudit : ∀ (s : State) (o : Op) (va : ℕ) (count : ℕ) (detail : ℕ) (cls : ℕ) (path : ℕ) (kind : ℕ), (s.Inv) → (@opAudit s o va count detail cls path kind).Inv := by
  intros
  delta opAudit
  with_reducible repeat'
    first
    | assumption
    | apply wf_opAuditL

theorem wf_State_chosen : ∀ (s : State), (s.Inv) → (@State.chosen s).Inv := by
  intros
  delta State.chosen
  with_reducible repeat'
    first
    | assumption

theorem wf_freeWord : ∀ (s : State), (s.Inv) → (@freeWord s).1.Inv := by
  intros
  delta freeWord
  with_reducible repeat'
    first
    | assumption

theorem wf_writePieces : ∀ (s : State) (a_1 : List Piece) (a_0 : List Byte), (s.Inv) → (@writePieces s a_1 a_0).Inv := by
  intro s a_1 a_0
  induction a_1 generalizing s a_0 with
  | nil =>
    intros
    unfold writePieces
    with_reducible repeat'
      first
      | assumption
  | cons x t ih =>
    intros
    unfold writePieces
    with_reducible repeat'
      first
      | with_reducible apply ih
      | assumption
      | apply State.wf_write

theorem wf_notePieces : ∀ (s : State) (q : Queue) (core : Option ℕ) (die : ℕ) (write : Bool) (ps : List Piece), (s.Inv) → (@notePieces s q core die write ps).Inv := by
  intros
  delta notePieces
  with_reducible repeat'
    first
    | assumption
    | apply wf_noteXlat
    | apply wf_State_fill
    | apply wf_foldl
    | (intro (x : State); have hx : x.Inv; rotate_left; clear_value x; rotate_right; subst x)
    | intro x
    | lift_lets
    | split

theorem wf_flushMet : ∀ (s : State) (core : ℕ) (pa : ℕ) (n : ℕ), (s.Inv) → (@flushMet s core pa n).Inv := by
  intros
  delta flushMet
  with_reducible repeat'
    first
    | assumption
    | apply wf_flushCore

theorem wf_hwNote : ∀ (s : State) (q : Queue) (va : ℕ) (n : ℕ) (write : Bool), (s.Inv) → (@hwNote s q va n write).Inv := by
  intros
  delta hwNote
  with_reducible repeat'
    first
    | assumption
    | apply State.wf_writeNum
    | apply wf_foldl
    | (intro x; clear_value x)
    | intro x
    | lift_lets
    | split

theorem wf_hwWrite : ∀ (s : State) (q : Queue) (va : ℕ) (bs : List Byte), (s.Inv) → (@hwWrite s q va bs).Inv := by
  intros
  delta hwWrite
  with_reducible repeat'
    first
    | assumption
    | apply wf_hwNote
    | apply State.wf_write
    | apply wf_foldl_fst
    | intro x
    | split

theorem wf_hwWriteNum : ∀ (s : State) (q : Queue) (va : ℕ) (n : ℕ) (v : ℕ), (s.Inv) → (@hwWriteNum s q va n v).Inv := by
  intros
  delta hwWriteNum
  with_reducible repeat'
    first
    | assumption
    | apply wf_hwWrite

theorem wf_setAlloc : ∀ (s : State) (q : Queue) (h : Heap) (va : ℕ) (on : Bool), (s.Inv) → (@setAlloc s q h va on).Inv := by
  intros
  delta setAlloc
  with_reducible repeat'
    first
    | assumption
    | apply wf_hwWriteNum

theorem wf_putHeader : ∀ (s : State) (q : Queue) (a : ℕ) (h : Header), (s.Inv) → (@putHeader s q a h).Inv := by
  intros
  delta putHeader
  with_reducible repeat'
    first
    | assumption
    | apply wf_hwWriteNum

theorem wf_noteRefs : ∀ (s : State) (q : Queue) (h : Option Heap) (rs : List DWord), (s.Inv) → (@noteRefs s q h rs).Inv := by
  intros
  delta noteRefs
  with_reducible repeat'
    first
    | assumption
    | apply wf_hwNote
    | apply wf_foldl
    | (intro x; clear_value x)
    | intro x
    | lift_lets
    | split

theorem wf_syncHeap : ∀ (s : State) (qn : ℕ), (s.Inv) → (@syncHeap s qn).Inv := by
  intros
  delta syncHeap
  with_reducible repeat'
    first
    | assumption
    | apply wf_hwWriteNum
    | split

theorem wf_allocObject : ∀ (s : State) (qn : ℕ) (hot : Bool) (n : ℕ) (cls : ℕ) (kind : Bool) (frozen : Bool), (s.Inv) → (@allocObject s qn hot n cls kind frozen).1.Inv := by
  intros
  delta allocObject
  with_reducible repeat'
    first
    | assumption
    | apply wf_State_chosen
    | apply wf_hwWrite
    | apply wf_putHeader
    | apply wf_syncHeap
    | apply wf_setAlloc
    | split

theorem wf_releaseSpace : ∀ (s : State) (qn : ℕ) (addr : ℕ) (bytes : ℕ), (s.Inv) → (@releaseSpace s qn addr bytes).Inv := by
  intros
  delta releaseSpace
  with_reducible repeat'
    first
    | assumption

theorem wf_writeFwd : ∀ (s : State) (q : Queue) (h : Heap) (cycle : ℕ) (state : ℕ) (os : List RelObj), (s.Inv) → (@writeFwd s q h cycle state os).Inv := by
  intros
  delta writeFwd
  with_reducible repeat'
    first
    | assumption
    | apply wf_hwWriteNum
    | apply wf_foldl
    | intro x

theorem wf_withdraw : ∀ (s : State) (qn : ℕ) (a : ℕ), (s.Inv) → (@withdraw s qn a).Inv := by
  intros
  delta withdraw
  with_reducible repeat'
    first
    | assumption
    | apply wf_hwWriteNum
    | apply wf_writeFwd
    | apply wf_syncHeap
    | apply wf_putHeader
    | apply wf_foldl
    | apply State.wf_write
    | (intro (x : State); have hx : x.Inv; rotate_left; clear_value x; rotate_right; subst x)
    | intro x
    | lift_lets
    | split

theorem wf_unpinRef : ∀ (s : State) (qn : ℕ) (r : DWord), (s.Inv) → (@unpinRef s qn r).Inv := by
  intros
  delta unpinRef
  with_reducible repeat'
    first
    | assumption
    | apply wf_putHeader
    | split

theorem wf_releasePins : ∀ (s : State) (qn : ℕ) (g : Group), (s.Inv) → (@releasePins s qn g).Inv := by
  intros
  delta releasePins
  with_reducible repeat'
    first
    | assumption
    | apply wf_unpinRef
    | apply wf_foldl
    | intro x
    | lift_lets
    | split

theorem wf_setNarrow : ∀ (s : State) (t : Narrow), (s.Inv) → (@setNarrow s t).Inv := by
  intros
  delta setNarrow
  with_reducible repeat'
    first
    | assumption

theorem wf_dropNarrow : ∀ (s : State) (qn : ℕ) (obj : ℕ), (s.Inv) → (@dropNarrow s qn obj).Inv := by
  intros
  delta dropNarrow
  with_reducible repeat'
    first
    | assumption

theorem wf_writeAt : ∀ (s : State) (a_1 : List (PAddr × ℕ)) (a_0 : List Byte), (s.Inv) → (@writeAt s a_1 a_0).Inv := by
  intro s a_1 a_0
  induction a_1 generalizing s a_0 with
  | nil =>
    intros
    unfold writeAt
    with_reducible repeat'
      first
      | assumption
  | cons x t ih =>
    intros
    unfold writeAt
    with_reducible repeat'
      first
      | with_reducible apply ih
      | assumption
      | apply State.wf_write

theorem wf_closeWc : ∀ (s : State) (id : ℕ), (s.Inv) → (@closeWc s id).Inv := by
  intros
  delta closeWc
  with_reducible repeat'
    first
    | assumption
    | apply wf_writeAt
    | apply wf_hwNote
    | (intro (x : State); have hx : x.Inv; rotate_left; clear_value x; rotate_right; subst x)
    | lift_lets
    | split

theorem wf_closeWcs : ∀ (s : State) (p : WcEntry → Bool), (s.Inv) → (@closeWcs s p).Inv := by
  intros
  delta closeWcs
  with_reducible repeat'
    first
    | assumption
    | apply wf_closeWc
    | apply wf_foldl
    | split

theorem wf_closeRead : ∀ (s : State) (qn : ℕ) (va : ℕ) (n : ℕ), (s.Inv) → (@closeRead s qn va n).Inv := by
  intros
  delta closeRead
  with_reducible repeat'
    first
    | assumption
    | apply wf_closeWcs

theorem wf_closePhys : ∀ (s : State) (pa : ℕ) (n : ℕ), (s.Inv) → (@closePhys s pa n).Inv := by
  intros
  delta closePhys
  with_reducible repeat'
    first
    | assumption
    | apply wf_closeWcs

theorem wf_closeFor : ∀ (s : State) (team : ℕ) (group : ℕ), (s.Inv) → (@closeFor s team group).Inv := by
  intros
  delta closeFor
  with_reducible repeat'
    first
    | assumption
    | apply wf_closeWcs

theorem wf_closeObject : ∀ (s : State) (qn : ℕ) (obj : ℕ), (s.Inv) → (@closeObject s qn obj).Inv := by
  intros
  delta closeObject
  with_reducible repeat'
    first
    | assumption
    | apply wf_closeWcs

theorem wf_arriveWc : ∀ (s : State) (qn : ℕ) (q : Queue) (t : Narrow) (value : Bool) (block : ℕ) (vals : List (ℕ × ℕ)) (who : ℕ × ℕ), (s.Inv) → (@arriveWc s qn q t value block vals who).Inv := by
  intros
  delta arriveWc
  with_reducible repeat'
    first
    | assumption
    | apply wf_closeWc
    | apply wf_State_named
    | (intro (x : State); have hx : x.Inv; rotate_left; clear_value x; rotate_right; subst x)
    | (intro x; clear_value x)
    | lift_lets
    | split

theorem wf_execWriteCombineTimeout : ∀ (entry : ℕ) (s : State), (s.Inv) → KeepsWf (@execWriteCombineTimeout entry s) := by
  intros
  delta execWriteCombineTimeout
  with_reducible repeat'
    first
    | assumption
    | apply wf_closeWc
    | apply KeepsWf.next
    | split

theorem wf_dropUpdates : ∀ (s : State) (q : Queue) (va : ℕ) (n : ℕ), (s.Inv) → (@dropUpdates s q va n).Inv := by
  intros
  delta dropUpdates
  with_reducible repeat'
    first
    | assumption

theorem wf_beginOp : ∀ (s : State) (c : Ctx) (lanes : BitVec 32) (look : ℕ) (body : OpBody), (s.Inv) → (@beginOp s c lanes look body).Inv := by
  intros
  delta beginOp
  with_reducible repeat'
    first
    | assumption
    | apply wf_State_modGroup
    | apply wf_State_named

theorem wf_beginLoad : ∀ (s : State) (c : Ctx) (e : Eff) (lanes : BitVec 32) (look : ℕ) (body : OpBody), (s.Inv) → (@beginLoad s c e lanes look body).Inv := by
  intros
  delta beginLoad
  with_reducible repeat'
    first
    | assumption
    | apply wf_beginOp
    | apply wf_finish

theorem wf_State_putOp : ∀ (s : State) (id : ℕ) (o : Op), (s.Inv) → (@State.putOp s id o).Inv := by
  intros
  delta State.putOp
  with_reducible repeat'
    first
    | assumption

theorem wf_enterLocks : ∀ (s : State) (core : ℕ) (ls : List RangeLock), (s.Inv) → (@enterLocks s core ls).Inv := by
  intros
  delta enterLocks
  with_reducible repeat'
    first
    | assumption
    | apply wf_State_modCore

theorem wf_sendFlits : ∀ (s : State) (port : ℕ) (q : Queue) (qn : ℕ) (dev : ℕ) (rq : ℕ) (tag : ℕ) (kind : ℕ) (va : ℕ) (runs : Runs) (data : List Byte), (s.Inv) → (@sendFlits s port q qn dev rq tag kind va runs data).Inv := by
  intros
  delta sendFlits
  with_reducible repeat'
    first
    | assumption
    | (intro x; clear_value x)
    | lift_lets
    | split

theorem wf_sendReq : ∀ (s : State) (qn : ℕ) (q : Queue) (r : LinkReq), (s.Inv) → (@sendReq s qn q r).Inv := by
  intros
  delta sendReq
  with_reducible repeat'
    first
    | assumption
    | apply wf_sendFlits

theorem wf_sendReqs : ∀ (s : State) (q : Queue) (qn : ℕ) (dev : ℕ) (rq : ℕ) (slot : ℕ) (kind : ℕ) (runs : Runs) (a_0 : List (ℕ × ℕ × ℕ × ℕ × List Byte)), (s.Inv) → (@sendReqs s q qn dev rq slot kind runs a_0).1.Inv := by
  intro s q qn dev rq slot kind runs a_0
  induction a_0 generalizing s with
  | nil =>
    intros
    unfold sendReqs
    with_reducible repeat'
      first
      | assumption
  | cons x t ih =>
    intros
    unfold sendReqs
    with_reducible repeat'
      first
      | with_reducible apply ih
      | assumption
      | apply wf_State_named
      | apply wf_sendReq

theorem wf_denialEvent : ∀ (s : State) (c : Ctx) (whole : Option (BitVec 32)) (path : ℕ) (kind : ℕ) (looks : List Look), (s.Inv) → (@denialEvent s c whole path kind looks).Inv := by
  intros
  delta denialEvent
  with_reducible repeat'
    first
    | assumption
    | apply wf_unitAudit
    | split

theorem wf_noteWalks : ∀ (s : State) (c : Ctx) (write : Bool) (looks : List Look), (s.Inv) → (@noteWalks s c write looks).Inv := by
  intros
  delta noteWalks
  with_reducible repeat'
    first
    | assumption
    | apply wf_noteXlat
    | apply wf_foldl
    | intro x
    | lift_lets
    | split

theorem wf_settle : ∀ (s : State) (c : Ctx) (looks : List Look), (s.Inv) → (@settle s c looks).Inv := by
  intros
  delta settle
  with_reducible repeat'
    first
    | assumption
    | apply wf_flushMet
    | apply wf_closeRead
    | apply wf_foldl
    | (intro (x : State); have hx : x.Inv; rotate_left; clear_value x; rotate_right; subst x)
    | intro x
    | lift_lets
    | split

theorem wf_noteLooks : ∀ (s : State) (c : Ctx) (write : Bool) (lastPages : Bool) (looks : List Look), (s.Inv) → (@noteLooks s c write lastPages looks).Inv := by
  intros
  delta noteLooks
  with_reducible repeat'
    first
    | assumption
    | apply wf_noteXlat
    | apply wf_State_fill
    | apply wf_State_modGroup
    | apply wf_foldl
    | (intro (x : State); have hx : x.Inv; rotate_left; clear_value x; rotate_right; subst x)
    | intro x
    | lift_lets
    | split

theorem wf_memCourse : ∀ (s : State) (c : Ctx) (whole : Option (BitVec 32)) (acc : Acc) (path : ℕ) (looks : List Look) (extra : List Cond) (e : Eff) (act : State → State) (hold : optParam Bool Bool.false), (s.Inv) → (∀ (a_0 : State), a_0.Inv → (act a_0).Inv) → (@memCourse s c whole acc path looks extra e act hold).Inv := by
  intro s c whole acc path looks extra e act hold h0 h1
  delta memCourse
  with_reducible repeat'
    first
    | assumption
    | apply wf_takeTrap
    | apply wf_noteWalks
    | apply wf_denialEvent
    | apply wf_takeFault
    | apply wf_askRegs
    | apply h1
    | lift_lets
    | split

theorem wf_windowReqs : ∀ (s : State) (c : Ctx) (kind : ℕ) (data : ℕ → List Byte) (looks : List Look), (s.Inv) → (@windowReqs s c kind data looks).1.Inv := by
  intros
  delta windowReqs
  with_reducible repeat'
    first
    | assumption
    | apply wf_sendReqs
    | apply wf_foldl_fst
    | (intro x; clear_value x)
    | intro x
    | lift_lets
    | split

theorem wf_spadCourse : ∀ (s : State) (c : Ctx) (looks : List SpadLook) (e : Eff) (act : State → State), (s.Inv) → (∀ (a_0 : State), a_0.Inv → (act a_0).Inv) → (@spadCourse s c looks e act).Inv := by
  intros
  delta spadCourse
  with_reducible repeat'
    first
    | assumption
    | apply wf_unitWith
    | (intro x; clear_value x)
    | intro x
    | lift_lets
    | split

theorem wf_bitErrorAt : ∀ (s : State) (g : ℕ) (uncorrectable : Bool), (s.Inv) → (@bitErrorAt s g uncorrectable).Inv := by
  intros
  delta bitErrorAt
  with_reducible repeat'
    first
    | assumption
    | (intro x; clear_value x)
    | lift_lets
    | split

theorem wf_displaceXlatAt : ∀ (s : State) (core : Option ℕ) (die : ℕ) (base : ℕ), (s.Inv) → (@displaceXlatAt s core die base).Inv := by
  intros
  delta displaceXlatAt
  with_reducible repeat'
    first
    | assumption
    | apply wf_State_modCore
    | split

theorem wf_cacheWalkAt : ∀ (s : State) (die : ℕ) (qn : ℕ) (va : ℕ), (s.Inv) → (@cacheWalkAt s die qn va).Inv := by
  intros
  delta cacheWalkAt
  with_reducible repeat'
    first
    | assumption
    | split

theorem wf_keepPastAt : ∀ (s : State) (grid : ℕ) (unit : ℕ), (s.Inv) → (@keepPastAt s grid unit).Inv := by
  intros
  delta keepPastAt
  with_reducible repeat'
    first
    | assumption
    | split

theorem wf_servePastAt : ∀ (s : State) (grid : ℕ) (unit : ℕ) (i : Option ℕ), (s.Inv) → (@servePastAt s grid unit i).Inv := by
  intros
  delta servePastAt
  with_reducible repeat'
    first
    | assumption

theorem wf_startUnit : ∀ (s : State) (w : Who) (c : Ctx) (hs : List ℕ) (used : List (Xlat × Bool)), (s.Inv) → (@startUnit s w c hs used).Inv := by
  intros
  delta startUnit
  with_reducible repeat'
    first
    | assumption
    | apply wf_noteXlat
    | apply wf_State_fill
    | apply wf_State_modGroup
    | apply wf_foldl
    | intro x
    | lift_lets
    | split

theorem wf_noteFetch : ∀ (s : State) (c : Ctx) (n : ℕ), (s.Inv) → (@noteFetch s c n).Inv := by
  intros
  delta noteFetch
  with_reducible repeat'
    first
    | assumption
    | apply wf_noteXlat
    | apply wf_foldl
    | (intro x; clear_value x)
    | intro x
    | lift_lets
    | split

theorem wf_fetchTrap : ∀ (s : State) (w : Who) (c : Ctx) (t : Cond) (ev : Option (ℕ × ℕ)) (known : List ℕ), (s.Inv) → (@fetchTrap s w c t ev known).Inv := by
  intros
  delta fetchTrap
  with_reducible repeat'
    first
    | assumption
    | apply wf_noteFetch
    | apply wf_unit
    | apply wf_unitAudit
    | apply wf_takeTrap
    | (intro (x : State); have hx : x.Inv; rotate_left; clear_value x; rotate_right; subst x)
    | (intro x; clear_value x)
    | intro x
    | lift_lets
    | split

theorem inv_unit {s : State} (w : Who) (u : UnitCtx) (h : s.Inv) : ({ s with cur := w, unit := u } : State).Inv := h

theorem wf_fetchFault (s : State) (w : Who) (c : Ctx) (f : FaultInfo) (h : s.Inv) : (@fetchFault s w c f).Inv :=
  wf_takeFault _ _ _ (inv_unit _ _ (wf_noteFetch _ _ _ h))

end Sys2Proof.Machine
end

