-- ==== Sys2Proof/Laws/KeepUnits.lean ====
section
/-! SUPPORT. The canonical form of memory is kept: lane, uniform, float, cross-lane, control and memory forms. One lemma per definition that answers a state. -/

namespace Sys2Proof.Machine

open Sys2Proof

theorem wf_sequence : ∀ (n : ℕ) (new : ℕ → ℕ → ℕ) (a_1 : State) (a_0 : List Look), (a_1.Inv) → (@sequence n new a_1 a_0).1.Inv := by
  intro n new a_1 a_0
  induction a_0 generalizing a_1 with
  | nil =>
    intros
    unfold sequence
    with_reducible repeat'
      first
      | assumption
  | cons x t ih =>
    intros
    unfold sequence
    with_reducible repeat'
      first
      | with_reducible apply ih
      | assumption
      | apply State.wf_writeNum
      | split

theorem wf_atomUnit : ∀ (s : State) (c : Ctx) (op : AtomOp) (ty : BitVec 2) (y : BitVec 1) (x : BitVec 1) (b : BitVec 6) (a : BitVec 5) (d : Option ℕ), (s.Inv) → (@atomUnit s c op ty y x b a d).Inv := by
  intros
  delta atomUnit
  with_reducible repeat'
    first
    | assumption
    | apply wf_memCourse
    | apply wf_noteLooks
    | apply wf_settle
    | apply wf_sequence
    | apply wf_finish
    | intro x

theorem wf_execAtomAdd : ∀ (m : BitVec 2) (y : BitVec 1) (x : BitVec 1) (b : BitVec 6) (a : BitVec 5) (d : BitVec 6) (s : State), (s.Inv) → KeepsWf (@execAtomAdd m y x b a d s) := by
  intros
  delta execAtomAdd
  with_reducible repeat'
    first
    | assumption
    | apply wf_issue
    | apply wf_atomUnit
    | intro x

theorem wf_execAtomMin : ∀ (m : BitVec 2) (y : BitVec 1) (x : BitVec 1) (b : BitVec 6) (a : BitVec 5) (d : BitVec 6) (s : State), (s.Inv) → KeepsWf (@execAtomMin m y x b a d s) := by
  intros
  delta execAtomMin
  with_reducible repeat'
    first
    | assumption
    | apply wf_issue
    | apply wf_atomUnit
    | intro x

theorem wf_execAtomMax : ∀ (m : BitVec 2) (y : BitVec 1) (x : BitVec 1) (b : BitVec 6) (a : BitVec 5) (d : BitVec 6) (s : State), (s.Inv) → KeepsWf (@execAtomMax m y x b a d s) := by
  intros
  delta execAtomMax
  with_reducible repeat'
    first
    | assumption
    | apply wf_issue
    | apply wf_atomUnit
    | intro x

theorem wf_execAtomAnd : ∀ (m : BitVec 2) (y : BitVec 1) (x : BitVec 1) (b : BitVec 6) (a : BitVec 5) (d : BitVec 6) (s : State), (s.Inv) → KeepsWf (@execAtomAnd m y x b a d s) := by
  intros
  delta execAtomAnd
  with_reducible repeat'
    first
    | assumption
    | apply wf_issue
    | apply wf_atomUnit
    | intro x

theorem wf_execAtomOr : ∀ (m : BitVec 2) (y : BitVec 1) (x : BitVec 1) (b : BitVec 6) (a : BitVec 5) (d : BitVec 6) (s : State), (s.Inv) → KeepsWf (@execAtomOr m y x b a d s) := by
  intros
  delta execAtomOr
  with_reducible repeat'
    first
    | assumption
    | apply wf_issue
    | apply wf_atomUnit
    | intro x

theorem wf_execAtomXor : ∀ (m : BitVec 2) (y : BitVec 1) (x : BitVec 1) (b : BitVec 6) (a : BitVec 5) (d : BitVec 6) (s : State), (s.Inv) → KeepsWf (@execAtomXor m y x b a d s) := by
  intros
  delta execAtomXor
  with_reducible repeat'
    first
    | assumption
    | apply wf_issue
    | apply wf_atomUnit
    | intro x

theorem wf_execAtomExch : ∀ (m : BitVec 2) (y : BitVec 1) (x : BitVec 1) (b : BitVec 6) (a : BitVec 5) (d : BitVec 6) (s : State), (s.Inv) → KeepsWf (@execAtomExch m y x b a d s) := by
  intros
  delta execAtomExch
  with_reducible repeat'
    first
    | assumption
    | apply wf_issue
    | apply wf_atomUnit
    | intro x

theorem wf_execAtomCas : ∀ (m : BitVec 2) (y : BitVec 1) (x : BitVec 1) (b : BitVec 6) (a : BitVec 5) (d : BitVec 6) (s : State), (s.Inv) → KeepsWf (@execAtomCas m y x b a d s) := by
  intros
  delta execAtomCas
  with_reducible repeat'
    first
    | assumption
    | apply wf_issue
    | apply wf_atomUnit
    | intro x

theorem wf_execRedAdd : ∀ (m : BitVec 2) (y : BitVec 1) (x : BitVec 1) (b : BitVec 6) (a : BitVec 5) (s : State), (s.Inv) → KeepsWf (@execRedAdd m y x b a s) := by
  intros
  delta execRedAdd
  with_reducible repeat'
    first
    | assumption
    | apply wf_issue
    | apply wf_atomUnit
    | intro x

theorem wf_execRedMin : ∀ (m : BitVec 2) (y : BitVec 1) (x : BitVec 1) (b : BitVec 6) (a : BitVec 5) (s : State), (s.Inv) → KeepsWf (@execRedMin m y x b a s) := by
  intros
  delta execRedMin
  with_reducible repeat'
    first
    | assumption
    | apply wf_issue
    | apply wf_atomUnit
    | intro x

theorem wf_execRedMax : ∀ (m : BitVec 2) (y : BitVec 1) (x : BitVec 1) (b : BitVec 6) (a : BitVec 5) (s : State), (s.Inv) → KeepsWf (@execRedMax m y x b a s) := by
  intros
  delta execRedMax
  with_reducible repeat'
    first
    | assumption
    | apply wf_issue
    | apply wf_atomUnit
    | intro x

theorem wf_execRedAnd : ∀ (m : BitVec 2) (y : BitVec 1) (x : BitVec 1) (b : BitVec 6) (a : BitVec 5) (s : State), (s.Inv) → KeepsWf (@execRedAnd m y x b a s) := by
  intros
  delta execRedAnd
  with_reducible repeat'
    first
    | assumption
    | apply wf_issue
    | apply wf_atomUnit
    | intro x

theorem wf_execRedOr : ∀ (m : BitVec 2) (y : BitVec 1) (x : BitVec 1) (b : BitVec 6) (a : BitVec 5) (s : State), (s.Inv) → KeepsWf (@execRedOr m y x b a s) := by
  intros
  delta execRedOr
  with_reducible repeat'
    first
    | assumption
    | apply wf_issue
    | apply wf_atomUnit
    | intro x

theorem wf_execRedXor : ∀ (m : BitVec 2) (y : BitVec 1) (x : BitVec 1) (b : BitVec 6) (a : BitVec 5) (s : State), (s.Inv) → KeepsWf (@execRedXor m y x b a s) := by
  intros
  delta execRedXor
  with_reducible repeat'
    first
    | assumption
    | apply wf_issue
    | apply wf_atomUnit
    | intro x

theorem wf_bredUnit : ∀ (s : State) (c : Ctx) (op : ℕ) (ty : BitVec 2) (y : BitVec 1) (x : BitVec 1) (b : BitVec 6) (a : BitVec 5), (s.Inv) → (@bredUnit s c op ty y x b a).Inv := by
  intros
  delta bredUnit
  with_reducible repeat'
    first
    | assumption
    | apply wf_memCourse
    | apply wf_noteLooks
    | apply wf_settle
    | apply wf_sequence
    | apply wf_finish
    | intro x

theorem wf_execBredAdd : ∀ (m : BitVec 2) (y : BitVec 1) (x : BitVec 1) (b : BitVec 6) (a : BitVec 5) (s : State), (s.Inv) → KeepsWf (@execBredAdd m y x b a s) := by
  intros
  delta execBredAdd
  with_reducible repeat'
    first
    | assumption
    | apply wf_issue
    | apply wf_bredUnit
    | intro x

theorem wf_execBredMin : ∀ (m : BitVec 2) (y : BitVec 1) (x : BitVec 1) (b : BitVec 6) (a : BitVec 5) (s : State), (s.Inv) → KeepsWf (@execBredMin m y x b a s) := by
  intros
  delta execBredMin
  with_reducible repeat'
    first
    | assumption
    | apply wf_issue
    | apply wf_bredUnit
    | intro x

theorem wf_execBredMax : ∀ (m : BitVec 2) (y : BitVec 1) (x : BitVec 1) (b : BitVec 6) (a : BitVec 5) (s : State), (s.Inv) → KeepsWf (@execBredMax m y x b a s) := by
  intros
  delta execBredMax
  with_reducible repeat'
    first
    | assumption
    | apply wf_issue
    | apply wf_bredUnit
    | intro x

theorem wf_mergeLane : ∀ (s : State) (c : Ctx) (op : ℕ) (ty : ℕ) (p : Piece) (v : Word), (s.Inv) → (@mergeLane s c op ty p v).Inv := by
  intros
  delta mergeLane
  with_reducible repeat'
    first
    | assumption
    | apply wf_flushCore
    | apply wf_State_modCore
    | apply wf_State_chosen
    | (intro (x : State); have hx : x.Inv; rotate_left; clear_value x; rotate_right; subst x)
    | (intro x; clear_value x)
    | lift_lets
    | split

theorem wf_bupdUnit : ∀ (s : State) (c : Ctx) (op : ℕ) (ty : BitVec 2) (y : BitVec 1) (x : BitVec 1) (b : BitVec 6) (a : BitVec 5), (s.Inv) → (@bupdUnit s c op ty y x b a).Inv := by
  intros
  delta bupdUnit
  with_reducible repeat'
    first
    | assumption
    | apply wf_memCourse
    | apply wf_noteLooks
    | apply wf_mergeLane
    | apply wf_finish
    | apply wf_foldl
    | (intro x; clear_value x)
    | intro x
    | lift_lets
    | split

theorem wf_execBupdAdd : ∀ (m : BitVec 2) (y : BitVec 1) (x : BitVec 1) (b : BitVec 6) (a : BitVec 5) (s : State), (s.Inv) → KeepsWf (@execBupdAdd m y x b a s) := by
  intros
  delta execBupdAdd
  with_reducible repeat'
    first
    | assumption
    | apply wf_issue
    | apply wf_bupdUnit
    | intro x

theorem wf_execBupdMin : ∀ (m : BitVec 2) (y : BitVec 1) (x : BitVec 1) (b : BitVec 6) (a : BitVec 5) (s : State), (s.Inv) → KeepsWf (@execBupdMin m y x b a s) := by
  intros
  delta execBupdMin
  with_reducible repeat'
    first
    | assumption
    | apply wf_issue
    | apply wf_bupdUnit
    | intro x

theorem wf_execBupdMax : ∀ (m : BitVec 2) (y : BitVec 1) (x : BitVec 1) (b : BitVec 6) (a : BitVec 5) (s : State), (s.Inv) → KeepsWf (@execBupdMax m y x b a s) := by
  intros
  delta execBupdMax
  with_reducible repeat'
    first
    | assumption
    | apply wf_issue
    | apply wf_bupdUnit
    | intro x

theorem wf_execUpdateOnlyTimeout : ∀ (core : ℕ) (line : ℕ) (s : State), (s.Inv) → KeepsWf (@execUpdateOnlyTimeout core line s) := by
  intros
  delta execUpdateOnlyTimeout
  with_reducible repeat'
    first
    | assumption
    | apply wf_flushCore
    | apply KeepsWf.next
    | (intro x; clear_value x)
    | lift_lets
    | split

theorem wf_releaseWrites : ∀ (s : State) (c : Ctx), (s.Inv) → (@releaseWrites s c).Inv := by
  intros
  delta releaseWrites
  with_reducible repeat'
    first
    | assumption
    | apply wf_closeFor
    | apply wf_flushCore

theorem wf_fenceUnit : ∀ (s : State) (c : Ctx), (s.Inv) → (@fenceUnit s c).Inv := by
  intros
  delta fenceUnit
  with_reducible repeat'
    first
    | assumption
    | apply wf_finish
    | apply wf_releaseWrites
    | split

theorem wf_execFence : ∀ (_sc : BitVec 3) (s : State), (s.Inv) → KeepsWf (@execFence _sc s) := by
  intros
  delta execFence
  with_reducible repeat'
    first
    | assumption
    | apply wf_issue
    | apply wf_fenceUnit
    | intro x

theorem wf_execFenceAcq : ∀ (_sc : BitVec 3) (s : State), (s.Inv) → KeepsWf (@execFenceAcq _sc s) := by
  intros
  delta execFenceAcq
  with_reducible repeat'
    first
    | assumption
    | apply wf_issue
    | apply wf_finish
    | intro x
    | lift_lets
    | split

theorem wf_execFenceRel : ∀ (_sc : BitVec 3) (s : State), (s.Inv) → KeepsWf (@execFenceRel _sc s) := by
  intros
  delta execFenceRel
  with_reducible repeat'
    first
    | assumption
    | apply wf_issue
    | apply wf_fenceUnit
    | intro x

theorem wf_execTfence : ∀ (_sc : BitVec 3) (s : State), (s.Inv) → KeepsWf (@execTfence _sc s) := by
  intros
  delta execTfence
  with_reducible repeat'
    first
    | assumption
    | apply wf_issue
    | apply wf_fenceUnit
    | intro x

theorem wf_execGuard : ∀ (n : BitVec 1) (p : BitVec 3) (s : State), (s.Inv) → KeepsWf (@execGuard n p s) := by
  intros
  delta execGuard
  with_reducible repeat'
    first
    | assumption
    | apply KeepsWf.next

theorem wf_execExtImm : ∀ (p : BitVec 23) (s : State), (s.Inv) → KeepsWf (@execExtImm p s) := by
  intros
  delta execExtImm
  with_reducible repeat'
    first
    | assumption
    | apply KeepsWf.next

theorem wf_execExtReg : ∀ (p : BitVec 23) (s : State), (s.Inv) → KeepsWf (@execExtReg p s) := by
  intros
  delta execExtReg
  with_reducible repeat'
    first
    | assumption
    | apply KeepsWf.next

theorem wf_execIllegalInstruction : ∀ (s : State), (s.Inv) → KeepsWf (@execIllegalInstruction s) := by
  intros
  delta execIllegalInstruction
  with_reducible repeat'
    first
    | assumption
    | apply wf_issue
    | apply wf_takeTrap
    | intro x

theorem wf_transfer : ∀ (s : State) (c : Ctx) (frees : List ℕ) (conds : List Cond) (tgt : ℕ → DWord) (stackOp : List DWord → List DWord), (s.Inv) → (@transfer s c frees conds tgt stackOp).Inv := by
  intros
  delta transfer
  with_reducible repeat'
    first
    | assumption
    | apply wf_takeTrap
    | apply wf_endUnit
    | (intro x; clear_value x)
    | lift_lets
    | split

theorem wf_execBra : ∀ (o : BitVec 19) (h : BitVec 2) (n : BitVec 1) (p : BitVec 3) (s : State), (s.Inv) → KeepsWf (@execBra o h n p s) := by
  intros
  delta execBra
  with_reducible repeat'
    first
    | assumption
    | apply wf_issue
    | apply wf_finishAt
    | apply wf_finish
    | apply wf_endUnit
    | apply wf_takeTrap
    | (intro x; clear_value x)
    | intro x
    | lift_lets
    | split

theorem wf_execCall : ∀ (o : BitVec 19) (s : State), (s.Inv) → KeepsWf (@execCall o s) := by
  intros
  delta execCall
  with_reducible repeat'
    first
    | assumption
    | apply wf_issue
    | apply wf_transfer
    | intro x

theorem wf_execJmp : ∀ (x : BitVec 1) (a : BitVec 5) (s : State), (s.Inv) → KeepsWf (@execJmp x a s) := by
  intros
  delta execJmp
  with_reducible repeat'
    first
    | assumption
    | apply wf_issue
    | apply wf_transfer
    | intro x

theorem wf_execCallIndirect : ∀ (x : BitVec 1) (a : BitVec 5) (s : State), (s.Inv) → KeepsWf (@execCallIndirect x a s) := by
  intros
  delta execCallIndirect
  with_reducible repeat'
    first
    | assumption
    | apply wf_issue
    | apply wf_transfer
    | intro x

theorem wf_execRet : ∀ (s : State), (s.Inv) → KeepsWf (@execRet s) := by
  intros
  delta execRet
  with_reducible repeat'
    first
    | assumption
    | apply wf_issue
    | apply wf_takeTrap
    | apply wf_transfer
    | intro x
    | lift_lets
    | split

theorem wf_execJoin : ∀ (s : State), (s.Inv) → KeepsWf (@execJoin s) := by
  intros
  delta execJoin
  with_reducible repeat'
    first
    | assumption
    | apply wf_issue
    | apply wf_endUnit
    | (intro x; subst x)
    | intro x
    | lift_lets
    | split

theorem wf_joinPoll : ∀ (s : State) (c : Ctx) (j : DWord), (s.Inv) → (@joinPoll s c j).Inv := by
  intros
  delta joinPoll
  with_reducible repeat'
    first
    | assumption
    | apply wf_State_modGroup

theorem wf_execJoinWaitTimeout : ∀ (team : ℕ) (group : ℕ) (split : ℕ) (s : State), (s.Inv) → KeepsWf (@execJoinWaitTimeout team group split s) := by
  intros
  delta execJoinWaitTimeout
  with_reducible repeat'
    first
    | assumption
    | apply wf_endUnit
    | apply KeepsWf.next
    | split

theorem wf_execActiveSetExchange : ∀ (core : ℕ) (groups : List ℕ) (s : State), (s.Inv) → KeepsWf (@execActiveSetExchange core groups s) := by
  intros
  delta execActiveSetExchange
  with_reducible repeat'
    first
    | assumption
    | apply wf_State_modCore
    | apply KeepsWf.next
    | (intro x; clear_value x)
    | lift_lets
    | split

theorem wf_execYield : ∀ (s : State), (s.Inv) → KeepsWf (@execYield s) := by
  intros
  delta execYield
  with_reducible repeat'
    first
    | assumption
    | apply wf_issue
    | apply wf_finish
    | apply wf_State_modCore
    | (intro (x : State); have hx : x.Inv; rotate_left; clear_value x; rotate_right; subst x)
    | (intro x; clear_value x)
    | intro x
    | lift_lets
    | split

theorem wf_execNop : ∀ (s : State), (s.Inv) → KeepsWf (@execNop s) := by
  intros
  delta execNop
  with_reducible repeat'
    first
    | assumption
    | apply wf_issue
    | apply wf_unit
    | intro x

theorem wf_execTrap : ∀ (n : BitVec 6) (s : State), (s.Inv) → KeepsWf (@execTrap n s) := by
  intros
  delta execTrap
  with_reducible repeat'
    first
    | assumption
    | apply wf_issue
    | apply wf_takeTrap
    | intro x

theorem wf_execSnap : ∀ (s : State), (s.Inv) → KeepsWf (@execSnap s) := by
  intros
  delta execSnap
  with_reducible repeat'
    first
    | assumption
    | apply wf_issue
    | apply wf_unitWith
    | apply wf_snapTrigger
    | intro x
    | lift_lets
    | split

theorem wf_execCsrr : ∀ (n : BitVec 6) (d : BitVec 5) (s : State), (s.Inv) → KeepsWf (@execCsrr n d s) := by
  intros
  delta execCsrr
  with_reducible repeat'
    first
    | assumption
    | apply wf_issue
    | apply wf_unit
    | intro x

theorem wf_execClock : ∀ (d : BitVec 4) (s : State), (s.Inv) → KeepsWf (@execClock d s) := by
  intros
  delta execClock
  with_reducible repeat'
    first
    | assumption
    | apply wf_issue
    | apply wf_unit
    | intro x

theorem wf_putBar : ∀ (s : State) (pa : ℕ) (b : Bar), (s.Inv) → (@putBar s pa b).Inv := by
  intros
  delta putBar
  with_reducible repeat'
    first
    | assumption
    | apply State.wf_writeNum

theorem wf_decrBar : ∀ (s : State) (pa : ℕ) (bytes : ℕ), (s.Inv) → (@decrBar s pa bytes).Inv := by
  intros
  delta decrBar
  with_reducible repeat'
    first
    | assumption
    | apply wf_putBar

theorem wf_execBinit : ∀ (w : BitVec 1) (b : BitVec 5) (a : BitVec 5) (s : State), (s.Inv) → KeepsWf (@execBinit w b a s) := by
  intros
  delta execBinit
  with_reducible repeat'
    first
    | assumption
    | apply wf_issue
    | apply wf_unitWith
    | apply wf_putBar
    | intro x

theorem wf_execBarv : ∀ (w : BitVec 1) (a : BitVec 5) (d : BitVec 5) (s : State), (s.Inv) → KeepsWf (@execBarv w a d s) := by
  intros
  delta execBarv
  with_reducible repeat'
    first
    | assumption
    | apply wf_issue
    | apply wf_unitWith
    | apply wf_putBar
    | apply wf_releaseWrites
    | (intro x; clear_value x)
    | intro x
    | lift_lets
    | split

theorem wf_execBexp : ∀ (w : BitVec 1) (b : BitVec 5) (a : BitVec 5) (s : State), (s.Inv) → KeepsWf (@execBexp w b a s) := by
  intros
  delta execBexp
  with_reducible repeat'
    first
    | assumption
    | apply wf_issue
    | apply wf_unitWith
    | apply wf_putBar
    | intro x

theorem wf_execBtest : ∀ (w : BitVec 1) (b : BitVec 5) (a : BitVec 5) (d : BitVec 3) (s : State), (s.Inv) → KeepsWf (@execBtest w b a d s) := by
  intros
  delta execBtest
  with_reducible repeat'
    first
    | assumption
    | apply wf_issue
    | apply wf_unitWith
    | (intro x; subst x)
    | intro x
    | lift_lets
    | split
    | dsimp only [State.Inv]
    | dsimp only [id]

theorem wf_bwaitOn : ∀ (s : State) (c : Ctx) (window : Bool) (o : ℕ) (ph : ℕ) (npc : DWord), (s.Inv) → (@bwaitOn s c window o ph npc).Inv := by
  intros
  delta bwaitOn
  with_reducible repeat'
    first
    | assumption
    | apply wf_takeTrap
    | apply wf_State_modGroup
    | apply wf_endUnit
    | apply wf_putBar
    | (intro x; clear_value x)
    | lift_lets
    | split

theorem wf_execBwait : ∀ (w : BitVec 1) (b : BitVec 5) (a : BitVec 5) (s : State), (s.Inv) → KeepsWf (@execBwait w b a s) := by
  intros
  delta execBwait
  with_reducible repeat'
    first
    | assumption
    | apply wf_issue
    | apply wf_bwaitOn
    | apply KeepsWf.next
    | intro x
    | lift_lets
    | split

theorem wf_execBinval : ∀ (w : BitVec 1) (a : BitVec 5) (s : State), (s.Inv) → KeepsWf (@execBinval w a s) := by
  intros
  delta execBinval
  with_reducible repeat'
    first
    | assumption
    | apply wf_issue
    | apply wf_unitWith
    | apply State.wf_zero
    | intro x

theorem wf_bwaitPoll : ∀ (s : State) (c : Ctx) (o : ℕ) (ph : ℕ) (window : Bool) (counted : Bool) (npc : DWord), (s.Inv) → (@bwaitPoll s c o ph window counted npc).Inv := by
  intros
  delta bwaitPoll
  with_reducible repeat'
    first
    | assumption
    | apply wf_State_modGroup
    | apply wf_putBar
    | apply wf_bwaitOn
    | (intro x; clear_value x)
    | lift_lets
    | split

theorem wf_uncount : ∀ (s : State) (pa : ℕ), (s.Inv) → (@uncount s pa).Inv := by
  intros
  delta uncount
  with_reducible repeat'
    first
    | assumption
    | apply wf_putBar

theorem wf_abandonWaits : ∀ (s : State) (key : ℕ), (s.Inv) → (@abandonWaits s key).Inv := by
  intros
  delta abandonWaits
  with_reducible repeat'
    first
    | assumption
    | apply wf_State_modGroup
    | apply wf_uncount
    | apply wf_foldl
    | intro x
    | split

theorem wf_loseWindow : ∀ (s : State) (key : ℕ), (s.Inv) → (@loseWindow s key).Inv := by
  intros
  delta loseWindow
  with_reducible repeat'
    first
    | assumption
    | apply wf_State_modGroup
    | apply wf_uncount
    | apply wf_takeTrap
    | apply wf_foldl
    | (intro (x : State); have hx : x.Inv; rotate_left; clear_value x; rotate_right; subst x)
    | (intro x; clear_value x)
    | intro x
    | lift_lets
    | split

theorem wf_tsyncTry : ∀ (s : State) (key : ℕ), (s.Inv) → (@tsyncTry s key).Inv := by
  intros
  delta tsyncTry
  with_reducible repeat'
    first
    | assumption
    | apply wf_State_modTeam

theorem wf_clsyncTry : ∀ (s : State) (key : ℕ), (s.Inv) → (@clsyncTry s key).Inv := by
  intros
  delta clsyncTry
  with_reducible repeat'
    first
    | assumption
    | apply wf_State_modTeam
    | apply wf_foldl
    | (intro x; clear_value x)
    | intro x
    | lift_lets
    | split

theorem wf_tsyncUnit : ∀ (s : State) (c : Ctx), (s.Inv) → (@tsyncUnit s c).Inv := by
  intros
  delta tsyncUnit
  with_reducible repeat'
    first
    | assumption
    | apply wf_State_modTeam
    | apply wf_releaseWrites
    | apply wf_tsyncTry
    | (intro (x : State); have hx : x.Inv; rotate_left; clear_value x; rotate_right; subst x)
    | lift_lets
    | split

theorem wf_execTsync : ∀ (s : State), (s.Inv) → KeepsWf (@execTsync s) := by
  intros
  delta execTsync
  with_reducible repeat'
    first
    | assumption
    | apply wf_issue
    | apply wf_tsyncUnit
    | intro x

theorem wf_execClsync : ∀ (s : State), (s.Inv) → KeepsWf (@execClsync s) := by
  intros
  delta execClsync
  with_reducible repeat'
    first
    | assumption
    | apply wf_issue
    | apply wf_tsyncUnit
    | apply wf_State_modTeam
    | apply wf_releaseWrites
    | apply wf_clsyncTry
    | (intro (x : State); have hx : x.Inv; rotate_left; clear_value x; rotate_right; subst x)
    | intro x
    | lift_lets
    | split

theorem wf_pollWait : ∀ (s : State) (c : Ctx), (s.Inv) → (@pollWait s c).Inv := by
  intros
  delta pollWait
  with_reducible repeat'
    first
    | assumption
    | apply wf_joinPoll
    | apply wf_bwaitPoll
    | apply wf_tsyncTry
    | apply wf_clsyncTry
    | split

theorem wf_windowBegin : ∀ (s : State) (c : Ctx) (acc : Acc) (dirty : Bool) (lastPages : Bool) (ro : Bool) (data : ℕ → List Byte) (looks : List Look), (s.Inv) → (@windowBegin s c acc dirty lastPages ro data looks).1.Inv := by
  intros
  delta windowBegin
  with_reducible repeat'
    first
    | assumption
    | apply wf_settle
    | apply wf_noteLooks
    | apply wf_windowReqs

theorem wf_loadLanes : ∀ (s : State) (c : Ctx) (d : ℕ) (n : ℕ) (sx : Bool) (frees : List ℕ) (look : ℕ) (ea : ℕ → ℕ) (ro : optParam Bool false), (s.Inv) → (@loadLanes s c d n sx frees look ea ro).Inv := by
  intros
  delta loadLanes
  with_reducible repeat'
    first
    | assumption
    | apply wf_memCourse
    | apply wf_windowBegin
    | apply wf_beginLoad
    | apply wf_settle
    | apply wf_finish
    | apply wf_noteLooks
    | (refine wf_of_fst (by assumption) ?_)
    | (intro (x : State); have hx : x.Inv; rotate_left; clear_value x; rotate_right; subst x)
    | (intro x; clear_value x)
    | intro x
    | lift_lets
    | split

theorem wf_storeNear : ∀ (s : State) (looks : List Look) (data : ℕ → List Byte), (s.Inv) → (@storeNear s looks data).Inv := by
  intros
  delta storeNear
  with_reducible repeat'
    first
    | assumption
    | apply State.wf_write
    | apply wf_foldl
    | intro x
    | lift_lets
    | split

theorem wf_storeLanes : ∀ (s : State) (c : Ctx) (n : ℕ) (frees : List ℕ) (look : ℕ) (data : ℕ → List Byte) (ea : ℕ → ℕ), (s.Inv) → (@storeLanes s c n frees look data ea).Inv := by
  intros
  delta storeLanes
  with_reducible repeat'
    first
    | assumption
    | apply wf_memCourse
    | apply wf_windowBegin
    | apply wf_beginLoad
    | apply wf_finish
    | apply wf_storeNear
    | apply wf_noteLooks
    | apply wf_settle
    | (refine wf_of_fst (by assumption) ?_)
    | (intro x; clear_value x)
    | intro x
    | lift_lets
    | split

theorem wf_execLd : ∀ (m : BitVec 1) (r : BitVec 1) (l : BitVec 4) (sz : BitVec 2) (i : BitVec 6) (k : BitVec 4) (d : BitVec 6) (s : State), (s.Inv) → KeepsWf (@execLd m r l sz i k d s) := by
  intros
  delta execLd
  with_reducible repeat'
    first
    | assumption
    | apply wf_issue
    | apply wf_loadLanes
    | intro x

theorem wf_execSt : ∀ (r : BitVec 1) (l : BitVec 4) (sz : BitVec 2) (i : BitVec 6) (k : BitVec 4) (d : BitVec 6) (s : State), (s.Inv) → KeepsWf (@execSt r l sz i k d s) := by
  intros
  delta execSt
  with_reducible repeat'
    first
    | assumption
    | apply wf_issue
    | apply wf_storeLanes
    | intro x

theorem wf_execLdQ : ∀ (r : BitVec 1) (l : BitVec 4) (i : BitVec 6) (k : BitVec 4) (d : BitVec 4) (s : State), (s.Inv) → KeepsWf (@execLdQ r l i k d s) := by
  intros
  delta execLdQ
  with_reducible repeat'
    first
    | assumption
    | apply wf_issue
    | apply wf_loadLanes
    | intro x

theorem wf_execStQ : ∀ (r : BitVec 1) (l : BitVec 4) (i : BitVec 6) (k : BitVec 4) (d : BitVec 4) (s : State), (s.Inv) → KeepsWf (@execStQ r l i k d s) := by
  intros
  delta execStQ
  with_reducible repeat'
    first
    | assumption
    | apply wf_issue
    | apply wf_storeLanes
    | intro x

theorem wf_execLdRo : ∀ (m : BitVec 1) (r : BitVec 1) (l : BitVec 4) (sz : BitVec 2) (i : BitVec 6) (k : BitVec 4) (d : BitVec 6) (s : State), (s.Inv) → KeepsWf (@execLdRo m r l sz i k d s) := by
  intros
  delta execLdRo
  with_reducible repeat'
    first
    | assumption
    | apply wf_issue
    | apply wf_loadLanes
    | intro x

theorem wf_execLdk : ∀ (l : BitVec 4) (sz : BitVec 1) (k : BitVec 4) (d : BitVec 5) (s : State), (s.Inv) → KeepsWf (@execLdk l sz k d s) := by
  intros
  delta execLdk
  with_reducible repeat'
    first
    | assumption
    | apply wf_issue
    | apply wf_memCourse
    | apply wf_windowBegin
    | apply wf_beginOp
    | apply wf_finish
    | apply wf_settle
    | apply wf_noteLooks
    | apply KeepsWf.next
    | (refine wf_of_fst (by assumption) ?_)
    | (intro (x : State); have hx : x.Inv; rotate_left; clear_value x; rotate_right; subst x)
    | (intro x; clear_value x)
    | intro x
    | lift_lets
    | split

theorem wf_execLdl : ∀ (l : BitVec 4) (sz : BitVec 2) (k : BitVec 4) (d : BitVec 6) (s : State), (s.Inv) → KeepsWf (@execLdl l sz k d s) := by
  intros
  delta execLdl
  with_reducible repeat'
    first
    | assumption
    | apply wf_issue
    | apply wf_memCourse
    | apply wf_windowBegin
    | apply wf_beginLoad
    | apply wf_settle
    | apply wf_finish
    | apply wf_noteLooks
    | apply KeepsWf.next
    | (refine wf_of_fst (by assumption) ?_)
    | (intro (x : State); have hx : x.Inv; rotate_left; clear_value x; rotate_right; subst x)
    | (intro x; clear_value x)
    | intro x
    | lift_lets
    | split

theorem wf_spadLoad : ∀ (s : State) (c : Ctx) (d : ℕ) (n : ℕ) (frees : List ℕ) (look : ℕ → SpadLook), (s.Inv) → (@spadLoad s c d n frees look).Inv := by
  intros
  delta spadLoad
  with_reducible repeat'
    first
    | assumption
    | apply wf_spadCourse
    | intro x
    | lift_lets
    | dsimp only [State.Inv]
    | dsimp only [id]

theorem wf_spadStore : ∀ (s : State) (c : Ctx) (d : ℕ) (n : ℕ) (frees : List ℕ) (look : ℕ → SpadLook), (s.Inv) → (@spadStore s c d n frees look).Inv := by
  intros
  delta spadStore
  with_reducible repeat'
    first
    | assumption
    | apply wf_spadCourse
    | apply State.wf_write
    | apply wf_foldl
    | intro x

theorem wf_execLds : ∀ (r : BitVec 1) (_l : BitVec 4) (sz : BitVec 2) (i : BitVec 6) (k : BitVec 5) (d : BitVec 6) (s : State), (s.Inv) → KeepsWf (@execLds r _l sz i k d s) := by
  intros
  delta execLds
  with_reducible repeat'
    first
    | assumption
    | apply wf_issue
    | apply wf_spadLoad
    | intro x

theorem wf_execSts : ∀ (r : BitVec 1) (_l : BitVec 4) (sz : BitVec 2) (i : BitVec 6) (k : BitVec 5) (d : BitVec 6) (s : State), (s.Inv) → KeepsWf (@execSts r _l sz i k d s) := by
  intros
  delta execSts
  with_reducible repeat'
    first
    | assumption
    | apply wf_issue
    | apply wf_spadStore
    | intro x

theorem wf_execLdsd : ∀ (r : BitVec 1) (_l : BitVec 4) (sz : BitVec 2) (i : BitVec 6) (k : BitVec 5) (d : BitVec 6) (s : State), (s.Inv) → KeepsWf (@execLdsd r _l sz i k d s) := by
  intros
  delta execLdsd
  with_reducible repeat'
    first
    | assumption
    | apply wf_issue
    | apply wf_spadLoad
    | intro x

theorem wf_execStsd : ∀ (r : BitVec 1) (_l : BitVec 4) (sz : BitVec 2) (i : BitVec 6) (k : BitVec 5) (d : BitVec 6) (s : State), (s.Inv) → KeepsWf (@execStsd r _l sz i k d s) := by
  intros
  delta execStsd
  with_reducible repeat'
    first
    | assumption
    | apply wf_issue
    | apply wf_spadStore
    | intro x

theorem wf_execPf : ∀ (r : BitVec 1) (_l : BitVec 4) (i : BitVec 6) (k : BitVec 4) (s : State), (s.Inv) → KeepsWf (@execPf r _l i k s) := by
  intros
  delta execPf
  with_reducible repeat'
    first
    | assumption
    | apply wf_issue
    | apply wf_finish
    | apply wf_flushMet
    | apply wf_foldl
    | (intro x; clear_value x)
    | intro x
    | lift_lets
    | split

theorem wf_capWindows : ∀ (s : State) (c : Ctx) (look : ℕ), (s.Inv) → (@capWindows s c look).Inv := by
  intros
  delta capWindows
  with_reducible repeat'
    first
    | assumption
    | apply wf_State_modGroup
    | split

theorem wf_execMwait : ∀ (l : BitVec 4) (k : BitVec 4) (d : BitVec 4) (s : State), (s.Inv) → KeepsWf (@execMwait l k d s) := by
  intros
  delta execMwait
  with_reducible repeat'
    first
    | assumption
    | apply wf_issue
    | apply wf_memCourse
    | apply wf_capWindows
    | apply wf_settle
    | apply wf_noteLooks
    | apply wf_windowBegin
    | apply wf_beginOp
    | apply wf_finish
    | apply KeepsWf.next
    | (refine wf_of_fst (by assumption) ?_)
    | (intro (x : State); have hx : x.Inv; rotate_left; clear_value x; rotate_right; subst x)
    | (intro x; clear_value x)
    | intro x
    | lift_lets
    | split

theorem wf_opWrites : ∀ (s : State) (o : Op) (e : Eff), (s.Inv) → (@opWrites s o e).Inv := by
  intros
  delta opWrites
  with_reducible repeat'
    first
    | assumption
    | apply wf_State_modLive

theorem wf_execMwaitReread : ∀ (team : ℕ) (group : ℕ) (split : ℕ) (s : State), (s.Inv) → KeepsWf (@execMwaitReread team group split s) := by
  intros
  delta execMwaitReread
  with_reducible repeat'
    first
    | assumption
    | apply wf_takeTrap
    | apply wf_noteWalks
    | apply wf_takeFault
    | apply wf_opAuditL
    | apply wf_windowBegin
    | apply wf_State_putOp
    | apply wf_settle
    | apply wf_noteLooks
    | apply wf_endOp
    | apply wf_opWrites
    | apply KeepsWf.next
    | (refine wf_of_fst (by assumption) ?_)
    | (intro (x : State); have hx : x.Inv; rotate_left; clear_value x; rotate_right; subst x)
    | (intro x; clear_value x)
    | intro x
    | lift_lets
    | split

theorem wf_heapCourse : ∀ (s : State) (c : Ctx) (refs : List DWord) (acc : Acc) (looks : List Look) (e : Eff) (act : State → State) (hold : optParam Bool Bool.false), (s.Inv) → (∀ (a_0 : State), a_0.Inv → (act a_0).Inv) → (@heapCourse s c refs acc looks e act hold).Inv := by
  intro s c refs acc looks e act hold h0 h1
  delta heapCourse
  with_reducible repeat'
    first
    | assumption
    | apply wf_memCourse
    | apply wf_noteRefs

theorem wf_healSlot : ∀ (s : State) (c : Ctx) (p : Option Piece) (old : DWord) (new : DWord), (s.Inv) → (@healSlot s c p old new).Inv := by
  intros
  delta healSlot
  with_reducible repeat'
    first
    | assumption
    | apply wf_noteXlat
    | apply State.wf_writeNum
    | split

theorem wf_execHld : ∀ (r : BitVec 1) (l : BitVec 4) (i : BitVec 6) (k : BitVec 4) (h : BitVec 4) (s : State), (s.Inv) → KeepsWf (@execHld r l i k h s) := by
  intros
  delta execHld
  with_reducible repeat'
    first
    | assumption
    | apply wf_issue
    | apply wf_settle
    | apply wf_heapCourse
    | apply wf_healSlot
    | apply wf_windowBegin
    | apply wf_beginLoad
    | apply wf_finish
    | apply wf_noteLooks
    | apply KeepsWf.next
    | apply wf_foldl
    | apply wf_foldl_fst
    | (refine wf_of_fst (by assumption) ?_)
    | (intro (x : State → State); have hf : ∀ t : State, t.Inv → (x t).Inv; rotate_left; clear_value x; rotate_right; subst x)
    | apply hf
    | (intro (x : State); have hx : x.Inv; rotate_left; clear_value x; rotate_right; subst x)
    | (intro x; clear_value x)
    | intro x
    | lift_lets
    | split

theorem wf_execHst : ∀ (r : BitVec 1) (l : BitVec 4) (i : BitVec 6) (k : BitVec 4) (h : BitVec 4) (s : State), (s.Inv) → KeepsWf (@execHst r l i k h s) := by
  intros
  delta execHst
  with_reducible repeat'
    first
    | assumption
    | apply wf_issue
    | apply wf_heapCourse
    | apply wf_windowBegin
    | apply wf_beginLoad
    | apply wf_finish
    | apply wf_storeNear
    | apply wf_noteLooks
    | apply wf_settle
    | apply KeepsWf.next
    | (refine wf_of_fst (by assumption) ?_)
    | (intro x; clear_value x)
    | intro x
    | lift_lets
    | split

theorem wf_execLdh : ∀ (mode : BitVec 2) (y : BitVec 1) (b : BitVec 6) (h : BitVec 4) (d : BitVec 6) (s : State), (s.Inv) → KeepsWf (@execLdh mode y b h d s) := by
  intros
  delta execLdh
  with_reducible repeat'
    first
    | assumption
    | apply wf_issue
    | apply wf_heapCourse
    | apply wf_settle
    | apply wf_finish
    | apply wf_noteLooks
    | intro x

theorem wf_viewStore : ∀ (s : State) (c : Ctx) (t : Narrow) (es : List (ℕ × ℕ)), (s.Inv) → (@viewStore s c t es).Inv := by
  intros
  delta viewStore
  with_reducible repeat'
    first
    | assumption
    | apply wf_hwWriteNum
    | apply wf_arriveWc
    | apply wf_foldl
    | (intro x; clear_value x)
    | intro x
    | lift_lets
    | split

theorem wf_markObjDirty : ∀ (s : State) (qn : ℕ) (a : ℕ), (s.Inv) → (@markObjDirty s qn a).Inv := by
  intros
  delta markObjDirty
  with_reducible repeat'
    first
    | assumption

theorem wf_execSth : ∀ (mode : BitVec 2) (y : BitVec 1) (x : BitVec 1) (b : BitVec 6) (a : BitVec 6) (h : BitVec 4) (s : State), (s.Inv) → KeepsWf (@execSth mode y x b a h s) := by
  intros
  delta execSth
  with_reducible repeat'
    first
    | assumption
    | apply wf_issue
    | apply wf_heapCourse
    | apply wf_noteLooks
    | apply wf_settle
    | apply wf_storeNear
    | apply wf_viewStore
    | apply wf_markObjDirty
    | apply wf_finish
    | apply wf_foldl
    | intro x
    | lift_lets
    | split

theorem wf_newLanes : ∀ (s : State) (c : Ctx) (h : Heap) (size : ℕ → ℕ) (cls : ℕ → ℕ) (a_0 : List ℕ), (s.Inv) → (@newLanes s c h size cls a_0).1.Inv := by
  intro s c h size cls a_0
  induction a_0 generalizing s with
  | nil =>
    intros
    unfold newLanes
    with_reducible repeat'
      first
      | assumption
  | cons x t ih =>
    intros
    unfold newLanes
    with_reducible repeat'
      first
      | with_reducible apply ih
      | assumption
      | apply wf_allocObject

theorem wf_noteNew : ∀ (s : State) (c : Ctx) (ps : List NewPage), (s.Inv) → (@noteNew s c ps).Inv := by
  intros
  delta noteNew
  with_reducible repeat'
    first
    | assumption
    | apply wf_noteXlat
    | apply wf_foldl
    | intro x
    | lift_lets
    | split

theorem wf_execHnew : ∀ (y : BitVec 1) (x : BitVec 1) (b : BitVec 6) (a : BitVec 6) (h : BitVec 4) (s : State), (s.Inv) → KeepsWf (@execHnew y x b a h s) := by
  intros
  delta execHnew
  with_reducible repeat'
    first
    | assumption
    | apply wf_issue
    | apply wf_newLanes
    | apply wf_noteNew
    | apply wf_freeWord
    | apply wf_takeTrap
    | apply wf_unitAudit
    | apply wf_takeFault
    | apply wf_finish
    | apply KeepsWf.next
    | apply wf_foldl
    | apply wf_foldl_fst
    | (refine wf_of_fst (by assumption) ?_)
    | (intro (x : State × _); have hx : x.1.Inv; rotate_left; clear_value x; rotate_right; subst x)
    | (intro (x : State); have hx : x.Inv; rotate_left; clear_value x; rotate_right; subst x)
    | (intro x; clear_value x)
    | intro x
    | lift_lets
    | split

theorem wf_execHfree : ∀ (h : BitVec 4) (s : State), (s.Inv) → KeepsWf (@execHfree h s) := by
  intros
  delta execHfree
  with_reducible repeat'
    first
    | assumption
    | apply wf_issue
    | apply wf_heapCourse
    | apply wf_syncHeap
    | apply wf_releaseSpace
    | apply wf_setAlloc
    | apply wf_withdraw
    | apply wf_finish
    | apply wf_foldl
    | (intro x; clear_value x)
    | intro x
    | lift_lets
    | split

theorem wf_addPins : ∀ (s : State) (c : Ctx) (a : ℕ) (by_ : ℤ), (s.Inv) → (@addPins s c a by_).Inv := by
  intros
  delta addPins
  with_reducible repeat'
    first
    | assumption
    | apply wf_putHeader

theorem wf_execHpin : ∀ (h : BitVec 4) (d : BitVec 5) (s : State), (s.Inv) → KeepsWf (@execHpin h d s) := by
  intros
  delta execHpin
  with_reducible repeat'
    first
    | assumption
    | apply wf_issue
    | apply wf_heapCourse
    | apply wf_addPins
    | apply wf_withdraw
    | apply wf_finish
    | apply wf_foldl
    | intro x

theorem wf_execHunpin : ∀ (h : BitVec 4) (s : State), (s.Inv) → KeepsWf (@execHunpin h s) := by
  intros
  delta execHunpin
  with_reducible repeat'
    first
    | assumption
    | apply wf_issue
    | apply wf_freeWord
    | apply wf_heapCourse
    | apply wf_addPins
    | apply wf_finish
    | apply wf_foldl
    | intro x
    | lift_lets
    | split

theorem wf_execHeq : ∀ (g : BitVec 4) (h : BitVec 4) (p : BitVec 3) (s : State), (s.Inv) → KeepsWf (@execHeq g h p s) := by
  intros
  delta execHeq
  with_reducible repeat'
    first
    | assumption
    | apply wf_issue
    | apply wf_heapCourse
    | apply wf_finish
    | intro x

theorem wf_execHtag : ∀ (h : BitVec 4) (d : BitVec 6) (s : State), (s.Inv) → KeepsWf (@execHtag h d s) := by
  intros
  delta execHtag
  with_reducible repeat'
    first
    | assumption
    | apply wf_issue
    | apply wf_heapCourse
    | apply wf_finish
    | intro x

theorem wf_putSlot : ∀ (s : State) (q : Queue) (slot : ℕ) (ws : List Word), (s.Inv) → (@putSlot s q slot ws).Inv := by
  intros
  delta putSlot
  with_reducible repeat'
    first
    | assumption
    | apply State.wf_writeNum

theorem wf_slotUnit : ∀ (s : State) (c : Ctx) (slot : ℕ) (act : State → State), (s.Inv) → (∀ (a_0 : State), a_0.Inv → (act a_0).Inv) → (@slotUnit s c slot act).Inv := by
  intro s c slot act h0 h1
  delta slotUnit
  with_reducible repeat'
    first
    | assumption
    | apply h1
    | (intro x; clear_value x)
    | lift_lets
    | split

theorem wf_execMload : ∀ (_l : BitVec 4) (k : BitVec 4) (slot : BitVec 3) (s : State), (s.Inv) → KeepsWf (@execMload _l k slot s) := by
  intros
  delta execMload
  with_reducible repeat'
    first
    | assumption
    | apply wf_issue
    | apply wf_slotUnit
    | apply wf_settle
    | apply wf_memCourse
    | apply wf_noteLooks
    | apply wf_takeTrap
    | apply wf_finish
    | apply wf_putSlot
    | (intro (x : State); have hx : x.Inv; rotate_left; clear_value x; rotate_right; subst x)
    | (intro x; clear_value x)
    | intro x
    | lift_lets
    | split

theorem wf_execMfree : ∀ (_l : BitVec 4) (slot : BitVec 3) (s : State), (s.Inv) → KeepsWf (@execMfree _l slot s) := by
  intros
  delta execMfree
  with_reducible repeat'
    first
    | assumption
    | apply wf_issue
    | apply wf_slotUnit
    | apply wf_finish
    | apply wf_putSlot
    | intro x
    | lift_lets
    | split

theorem wf_execMclass : ∀ (_l : BitVec 4) (q : BitVec 2) (d : BitVec 5) (slot : BitVec 3) (s : State), (s.Inv) → KeepsWf (@execMclass _l q d slot s) := by
  intros
  delta execMclass
  with_reducible repeat'
    first
    | assumption
    | apply wf_issue
    | apply wf_unitWith
    | (intro x; clear_value x)
    | intro x
    | lift_lets
    | split
    | dsimp only [State.Inv]
    | dsimp only [id]

theorem wf_execMstat : ∀ (_l : BitVec 4) (d : BitVec 4) (sel : BitVec 3) (s : State), (s.Inv) → KeepsWf (@execMstat _l d sel s) := by
  intros
  delta execMstat
  with_reducible repeat'
    first
    | assumption
    | apply wf_issue
    | apply wf_unit
    | (intro x; clear_value x)
    | intro x
    | lift_lets
    | split

theorem wf_issueOp : ∀ (s : State) (c : Ctx) (rs : List Rng) (e : Eff) (look : ℕ) (body : OpBody), (s.Inv) → (@issueOp s c rs e look body).Inv := by
  intros
  delta issueOp
  with_reducible repeat'
    first
    | assumption
    | apply wf_enterLocks
    | apply wf_releaseWrites
    | apply wf_beginOp
    | apply wf_finish

theorem wf_rngWrite : ∀ (s : State) (c : Ctx) (r : Rng) (bs : List Byte), (s.Inv) → (@rngWrite s c r bs).Inv := by
  intros
  delta rngWrite
  with_reducible repeat'
    first
    | assumption
    | apply wf_writePieces
    | apply State.wf_write
    | split

theorem wf_rngWalks : ∀ (s : State) (c : Ctx) (r : Rng), (s.Inv) → (@rngWalks s c r).Inv := by
  intros
  delta rngWalks
  with_reducible repeat'
    first
    | assumption
    | apply wf_noteXlat
    | apply wf_foldl
    | intro x
    | lift_lets
    | split

theorem wf_rngClose : ∀ (s : State) (c : Ctx) (r : Rng), (s.Inv) → (@rngClose s c r).Inv := by
  intros
  delta rngClose
  with_reducible repeat'
    first
    | assumption
    | apply wf_closeRead
    | apply wf_foldl
    | intro x
    | lift_lets
    | split

theorem wf_rngNote : ∀ (s : State) (c : Ctx) (r : Rng), (s.Inv) → (@rngNote s c r).Inv := by
  intros
  delta rngNote
  with_reducible repeat'
    first
    | assumption
    | apply wf_notePieces

theorem wf_convWalks : ∀ (s : State) (c : Ctx) (v : Conv), (s.Inv) → (@convWalks s c v).Inv := by
  intros
  delta convWalks
  with_reducible repeat'
    first
    | assumption
    | apply wf_rngWalks

theorem wf_convAudit : ∀ (s : State) (c : Ctx) (v : Conv) (t : Cond) (unit : DWord), (s.Inv) → (@convAudit s c v t unit).Inv := by
  intros
  delta convAudit
  with_reducible repeat'
    first
    | assumption
    | apply wf_audit
    | (intro x; clear_value x)
    | lift_lets
    | split

theorem wf_convUnit : ∀ (s : State) (c : Ctx) (quant : Bool) (f : BitVec 3) (d : BitVec 1) (sp : BitVec 1) (t : BitVec 1) (k : BitVec 2) (look : ℕ), (s.Inv) → (@convUnit s c quant f d sp t k look).Inv := by
  intros
  delta convUnit
  with_reducible repeat'
    first
    | assumption
    | apply wf_takeTrap
    | apply wf_convWalks
    | apply wf_convAudit
    | apply wf_takeFault
    | apply wf_issueOp
    | (intro x; clear_value x)
    | lift_lets
    | split

theorem wf_execMxq : ∀ (l : BitVec 4) (f : BitVec 3) (d : BitVec 1) (sp : BitVec 1) (t : BitVec 1) (k : BitVec 2) (s : State), (s.Inv) → KeepsWf (@execMxq l f d sp t k s) := by
  intros
  delta execMxq
  with_reducible repeat'
    first
    | assumption
    | apply wf_issue
    | apply wf_convUnit
    | intro x

theorem wf_execMxd : ∀ (l : BitVec 4) (f : BitVec 3) (d : BitVec 1) (sp : BitVec 1) (t : BitVec 1) (k : BitVec 2) (s : State), (s.Inv) → KeepsWf (@execMxd l f d sp t k s) := by
  intros
  delta execMxd
  with_reducible repeat'
    first
    | assumption
    | apply wf_issue
    | apply wf_convUnit
    | intro x

theorem wf_execConversionComplete : ∀ (op : ℕ) (s : State), (s.Inv) → KeepsWf (@execConversionComplete op s) := by
  intros
  delta execConversionComplete
  with_reducible repeat'
    first
    | assumption
    | apply wf_takeTrap
    | apply wf_convWalks
    | apply wf_convAudit
    | apply wf_takeFault
    | apply wf_rngClose
    | apply wf_opAudit
    | apply wf_rngWrite
    | apply wf_rngNote
    | apply wf_endOp
    | apply KeepsWf.next
    | (intro (x : State); have hx : x.Inv; rotate_left; clear_value x; rotate_right; subst x)
    | (intro x; clear_value x)
    | lift_lets
    | split

theorem wf_handleUnit : ∀ (s : State) (c : Ctx) (ms : List ℕ) (conds : List Cond) (e : Eff) (f : Group → Group), (s.Inv) → (@handleUnit s c ms conds e f).Inv := by
  intros
  delta handleUnit
  with_reducible repeat'
    first
    | assumption
    | apply wf_unitWith
    | apply wf_State_modGroup
    | intro x
    | split

theorem wf_execQzero : ∀ (_l : BitVec 4) (v : BitVec 1) (t : BitVec 2) (n : BitVec 5) (q : BitVec 4) (d : BitVec 3) (s : State), (s.Inv) → KeepsWf (@execQzero _l v t n q d s) := by
  intros
  delta execQzero
  with_reducible repeat'
    first
    | assumption
    | apply wf_issue
    | apply wf_handleUnit
    | intro x

theorem wf_execQrel : ∀ (_l : BitVec 4) (q : BitVec 4) (d : BitVec 3) (s : State), (s.Inv) → KeepsWf (@execQrel _l q d s) := by
  intros
  delta execQrel
  with_reducible repeat'
    first
    | assumption
    | apply wf_issue
    | apply wf_handleUnit
    | intro x

theorem wf_execQwr : ∀ (_l : BitVec 4) (t : BitVec 1) (n : BitVec 2) (cs : BitVec 2) (r : BitVec 6) (d : BitVec 3) (s : State), (s.Inv) → KeepsWf (@execQwr _l t n cs r d s) := by
  intros
  delta execQwr
  with_reducible repeat'
    first
    | assumption
    | apply wf_issue
    | apply wf_handleUnit
    | intro x

theorem wf_execQrd : ∀ (_l : BitVec 4) (i : BitVec 1) (n : BitVec 2) (cs : BitVec 2) (r : BitVec 6) (d : BitVec 3) (s : State), (s.Inv) → KeepsWf (@execQrd _l i n cs r d s) := by
  intros
  delta execQrd
  with_reducible repeat'
    first
    | assumption
    | apply wf_issue
    | apply wf_handleUnit
    | intro x

theorem wf_execQtopk : ∀ (_l : BitVec 4) (k : BitVec 5) (q : BitVec 4) (ms : BitVec 3) (md : BitVec 3) (s : State), (s.Inv) → KeepsWf (@execQtopk _l k q ms md s) := by
  intros
  delta execQtopk
  with_reducible repeat'
    first
    | assumption
    | apply wf_issue
    | apply wf_handleUnit
    | intro x

theorem wf_execQla : ∀ (_l : BitVec 4) (u : BitVec 1) (f : BitVec 4) (n : BitVec 3) (a : BitVec 6) (s : State), (s.Inv) → KeepsWf (@execQla _l u f n a s) := by
  intros
  delta execQla
  with_reducible repeat'
    first
    | assumption
    | apply wf_issue
    | apply wf_unitWith
    | apply wf_State_modGroup
    | intro x

theorem wf_passUnit : ∀ (s : State) (c : Ctx) (form : ℕ) (z : BitVec 1) (f : BitVec 4) (q : BitVec 4) (d : BitVec 3) (sp : Space) (cols : List ℕ) (look : ℕ), (s.Inv) → (@passUnit s c form z f q d sp cols look).Inv := by
  intros
  delta passUnit
  with_reducible repeat'
    first
    | assumption
    | apply wf_takeTrap
    | apply wf_State_modGroup
    | apply wf_issueOp
    | (intro x; clear_value x)
    | lift_lets
    | split

theorem wf_execQmm : ∀ (l : BitVec 4) (z : BitVec 1) (sb : BitVec 1) (k : BitVec 2) (f : BitVec 4) (q : BitVec 4) (d : BitVec 3) (s : State), (s.Inv) → KeepsWf (@execQmm l z sb k f q d s) := by
  intros
  delta execQmm
  with_reducible repeat'
    first
    | assumption
    | apply wf_issue
    | apply wf_passUnit
    | intro x

theorem wf_execQdist : ∀ (l : BitVec 4) (z : BitVec 1) (sb : BitVec 1) (k : BitVec 2) (f : BitVec 4) (q : BitVec 4) (d : BitVec 3) (s : State), (s.Inv) → KeepsWf (@execQdist l z sb k f q d s) := by
  intros
  delta execQdist
  with_reducible repeat'
    first
    | assumption
    | apply wf_issue
    | apply wf_passUnit
    | intro x

theorem wf_execQmmg : ∀ (l : BitVec 4) (z : BitVec 1) (v : BitVec 5) (f : BitVec 4) (q : BitVec 4) (d : BitVec 3) (s : State), (s.Inv) → KeepsWf (@execQmmg l z v f q d s) := by
  intros
  delta execQmmg
  with_reducible repeat'
    first
    | assumption
    | apply wf_issue
    | apply wf_passUnit
    | intro x

theorem wf_undoPass : ∀ (s : State) (id : ℕ) (o : Op) (p : Pass), (s.Inv) → (@undoPass s id o p).Inv := by
  intros
  delta undoPass
  with_reducible repeat'
    first
    | assumption
    | apply wf_State_putOp
    | apply wf_State_modLive

theorem wf_repost : ∀ (s : State) (id : ℕ) (o : Op) (p : Pass) (c : Ctx), (s.Inv) → (@repost s id o p c).Inv := by
  intros
  delta repost
  with_reducible repeat'
    first
    | assumption
    | apply wf_takeTrap
    | apply wf_State_putOp
    | apply wf_State_modLive
    | intro x
    | lift_lets
    | split

theorem wf_repostAll : ∀ (s : State) (quern : ℕ), (s.Inv) → (@repostAll s quern).Inv := by
  intros
  delta repostAll
  with_reducible repeat'
    first
    | assumption
    | apply wf_repost
    | apply wf_foldl
    | intro x
    | lift_lets
    | split

theorem wf_commitUnit : ∀ (s : State) (x : ℕ × Op), (s.Inv) → (@commitUnit s x).Inv := by
  intros
  delta commitUnit
  with_reducible repeat'
    first
    | assumption
    | apply wf_takeTrap
    | apply wf_undoPass
    | apply wf_rngWalks
    | apply wf_takeFault
    | apply wf_rngClose
    | apply wf_opAudit
    | apply wf_rngNote
    | apply wf_State_modLive
    | apply wf_endOp
    | apply wf_State_putOp
    | apply wf_foldl
    | (intro x; clear_value x)
    | intro x
    | lift_lets
    | split
    | dsimp only [State.Inv]

theorem wf_execPassCommit : ∀ (quern : ℕ) (s : State), (s.Inv) → KeepsWf (@execPassCommit quern s) := by
  intros
  delta execPassCommit
  with_reducible repeat'
    first
    | assumption
    | apply wf_commitUnit
    | apply KeepsWf.next
    | apply wf_foldl

theorem wf_grantPass : ∀ (s : State) (qs : List Quarter), (s.Inv) → (@grantPass s qs).Inv := by
  intros
  delta grantPass
  with_reducible repeat'
    first
    | assumption
    | apply wf_foldl
    | intro x

theorem wf_execPassGrant : ∀ (quern : ℕ) (s : State), (s.Inv) → KeepsWf (@execPassGrant quern s) := by
  intros
  delta execPassGrant
  with_reducible repeat'
    first
    | assumption
    | apply wf_repostAll
    | apply wf_grantPass
    | apply KeepsWf.next

theorem wf_execFusionWaitExpiry : ∀ (quern : ℕ) (s : State), (s.Inv) → KeepsWf (@execFusionWaitExpiry quern s) := by
  intros
  delta execFusionWaitExpiry
  with_reducible repeat'
    first
    | assumption
    | apply wf_grantPass
    | apply KeepsWf.next
    | (intro x; clear_value x)
    | lift_lets
    | split

theorem wf_attUnit : ∀ (s : State) (c : Ctx) (form : ℕ) (h : BitVec 4) (q : BitVec 4) (slot : BitVec 3) (me : BitVec 1) (kq : BitVec 2) (look : ℕ), (s.Inv) → (@attUnit s c form h q slot me kq look).Inv := by
  intros
  delta attUnit
  with_reducible repeat'
    first
    | assumption
    | apply wf_takeTrap
    | apply wf_noteRefs
    | apply wf_takeFault
    | apply wf_issueOp
    | (intro x; clear_value x)
    | lift_lets
    | split

theorem wf_execQatt : ∀ (l : BitVec 4) (h : BitVec 4) (q : BitVec 4) (slot : BitVec 3) (e : BitVec 1) (k : BitVec 2) (s : State), (s.Inv) → KeepsWf (@execQatt l h q slot e k s) := by
  intros
  delta execQatt
  with_reducible repeat'
    first
    | assumption
    | apply wf_issue
    | apply wf_attUnit
    | intro x

theorem wf_execQatf : ∀ (l : BitVec 4) (h : BitVec 4) (q : BitVec 4) (slot : BitVec 3) (e : BitVec 1) (k : BitVec 2) (s : State), (s.Inv) → KeepsWf (@execQatf l h q slot e k s) := by
  intros
  delta execQatf
  with_reducible repeat'
    first
    | assumption
    | apply wf_issue
    | apply wf_attUnit
    | intro x

theorem wf_execQsel : ∀ (l : BitVec 4) (h : BitVec 4) (q : BitVec 4) (slot : BitVec 3) (e : BitVec 1) (k : BitVec 2) (s : State), (s.Inv) → KeepsWf (@execQsel l h q slot e k s) := by
  intros
  delta execQsel
  with_reducible repeat'
    first
    | assumption
    | apply wf_issue
    | apply wf_attUnit
    | intro x

theorem wf_addCounter : ∀ (s : State) (q : Queue) (i : ℕ) (n : ℕ), (s.Inv) → (@addCounter s q i n).Inv := by
  intros
  delta addCounter
  with_reducible repeat'
    first
    | assumption
    | apply State.wf_writeNum

theorem wf_addMass : ∀ (s : State) (c : Ctx) (eva : ℕ) (v : ℕ), (s.Inv) → (@addMass s c eva v).Inv := by
  intros
  delta addMass
  with_reducible repeat'
    first
    | assumption
    | apply wf_mergeLane
    | apply wf_notePieces
    | split

theorem wf_attEffect : ∀ (s : State) (c : Ctx) (a : Att) (h : PageList) (looks : List PageLook) (reads : List Rng) (masses : List (ℕ × ℕ)), (s.Inv) → (@attEffect s c a h looks reads masses).Inv := by
  intros
  delta attEffect
  with_reducible repeat'
    first
    | assumption
    | apply wf_rngNote
    | apply wf_addMass
    | apply wf_foldl
    | intro x

theorem wf_writeOut : ∀ (s : State) (t : Team) (o : ℕ) (bs : List Byte), (s.Inv) → (@writeOut s t o bs).Inv := by
  intros
  delta writeOut
  with_reducible repeat'
    first
    | assumption
    | apply State.wf_write
    | apply wf_foldl
    | intro x
    | lift_lets
    | split

theorem wf_attFinish : ∀ (s : State) (id : ℕ) (o : Op) (c : Ctx) (d : AttDone), (s.Inv) → (@attFinish s id o c d).Inv := by
  intros
  delta attFinish
  with_reducible repeat'
    first
    | assumption
    | apply wf_addCounter
    | apply wf_opAudit
    | apply wf_endOp
    | apply wf_writeOut
    | apply wf_foldl
    | intro x
    | lift_lets
    | split

theorem wf_moveCounters : ∀ (s : State) (id : ℕ) (o : Op) (c : Ctx) (a : Att) (d : AttDone), (s.Inv) → (@moveCounters s id o c a d).Inv := by
  intros
  delta moveCounters
  with_reducible repeat'
    first
    | assumption
    | apply wf_addCounter
    | apply wf_State_chosen
    | apply wf_State_putOp
    | apply wf_attFinish
    | intro x
    | lift_lets
    | split

theorem wf_attDenied : ∀ (s : State) (o : Op) (c : Ctx) (a : Att) (va : ℕ) (cls : ℕ), (s.Inv) → (@attDenied s o c a va cls).Inv := by
  intros
  delta attDenied
  with_reducible repeat'
    first
    | assumption
    | apply wf_opAudit
    | apply wf_writeOut
    | apply wf_foldl
    | intro x

theorem wf_attWalks : ∀ (s : State) (c : Ctx) (a : Att) (obj : ℕ) (t : ℕ) (looks : List PageLook), (s.Inv) → (@attWalks s c a obj t looks).Inv := by
  intros
  delta attWalks
  with_reducible repeat'
    first
    | assumption
    | apply wf_rngWalks
    | apply wf_noteRefs
    | apply wf_foldl
    | intro x

theorem wf_attClose : ∀ (s : State) (c : Ctx) (a : Att) (h : PageList) (looks : List PageLook), (s.Inv) → (@attClose s c a h looks).Inv := by
  intros
  delta attClose
  with_reducible repeat'
    first
    | assumption
    | apply wf_rngClose
    | apply wf_foldl
    | intro x
    | lift_lets
    | split

theorem wf_attComplete : ∀ (s : State) (id : ℕ) (o : Op) (c : Ctx) (a : Att) (obj : ℕ), (s.Inv) → (@attComplete s id o c a obj).Inv := by
  intros
  delta attComplete
  with_reducible repeat'
    first
    | assumption
    | apply wf_takeTrap
    | apply wf_attWalks
    | apply wf_takeFault
    | apply wf_endOp
    | apply wf_attDenied
    | apply wf_attClose
    | apply wf_rngWalks
    | apply wf_moveCounters
    | apply wf_attEffect
    | apply wf_foldl
    | (intro x; clear_value x)
    | intro x
    | lift_lets
    | split
    | dsimp only [State.Inv]

theorem wf_execAttentionComplete : ∀ (op : ℕ) (s : State), (s.Inv) → KeepsWf (@execAttentionComplete op s) := by
  intros
  delta execAttentionComplete
  with_reducible repeat'
    first
    | assumption
    | apply wf_moveCounters
    | apply wf_attComplete
    | apply wf_unit
    | apply wf_takeTrap
    | apply wf_takeFault
    | apply wf_opWrites
    | apply KeepsWf.next
    | (intro (x : State); have hx : x.Inv; rotate_left; clear_value x; rotate_right; subst x)
    | (intro x; clear_value x)
    | intro x
    | lift_lets
    | split

theorem wf_laneOp2 : ∀ (s : State) (d : ℕ) (a : ℕ) (b : ℕ) (frees : List ℕ) (f : Word → Word → Word), (s.Inv) → KeepsWf (@laneOp2 s d a b frees f) := by
  intros
  delta laneOp2
  with_reducible repeat'
    first
    | assumption
    | apply wf_issue
    | apply wf_unit
    | intro x

theorem wf_laneOp1 : ∀ (s : State) (d : ℕ) (a : ℕ) (frees : List ℕ) (f : Word → Word), (s.Inv) → KeepsWf (@laneOp1 s d a frees f) := by
  intros
  delta laneOp1
  with_reducible repeat'
    first
    | assumption
    | apply wf_issue
    | apply wf_unit
    | intro x

theorem wf_laneOp3 : ∀ (s : State) (d : ℕ) (a : ℕ) (b : ℕ) (frees : List ℕ) (f : Word → Word → Word → Word), (s.Inv) → KeepsWf (@laneOp3 s d a b frees f) := by
  intros
  delta laneOp3
  with_reducible repeat'
    first
    | assumption
    | apply wf_issue
    | apply wf_unit
    | intro x

theorem wf_execAdd : ∀ (m : BitVec 2) (y : BitVec 1) (x : BitVec 1) (b : BitVec 6) (a : BitVec 6) (d : BitVec 6) (s : State), (s.Inv) → KeepsWf (@execAdd m y x b a d s) := by
  intros
  delta execAdd
  with_reducible repeat'
    first
    | assumption
    | apply wf_laneOp2

theorem wf_execSub : ∀ (m : BitVec 2) (y : BitVec 1) (x : BitVec 1) (b : BitVec 6) (a : BitVec 6) (d : BitVec 6) (s : State), (s.Inv) → KeepsWf (@execSub m y x b a d s) := by
  intros
  delta execSub
  with_reducible repeat'
    first
    | assumption
    | apply wf_laneOp2

theorem wf_execMulLo : ∀ (y : BitVec 1) (x : BitVec 1) (b : BitVec 6) (a : BitVec 6) (d : BitVec 6) (s : State), (s.Inv) → KeepsWf (@execMulLo y x b a d s) := by
  intros
  delta execMulLo
  with_reducible repeat'
    first
    | assumption
    | apply wf_laneOp2

theorem wf_execMulHi : ∀ (m : BitVec 2) (y : BitVec 1) (x : BitVec 1) (b : BitVec 6) (a : BitVec 6) (d : BitVec 6) (s : State), (s.Inv) → KeepsWf (@execMulHi m y x b a d s) := by
  intros
  delta execMulHi
  with_reducible repeat'
    first
    | assumption
    | apply wf_laneOp2

theorem wf_execMadLo : ∀ (y : BitVec 1) (x : BitVec 1) (b : BitVec 6) (a : BitVec 6) (d : BitVec 6) (s : State), (s.Inv) → KeepsWf (@execMadLo y x b a d s) := by
  intros
  delta execMadLo
  with_reducible repeat'
    first
    | assumption
    | apply wf_laneOp3

theorem wf_execAdda : ∀ (y : BitVec 1) (x : BitVec 1) (b : BitVec 5) (a : BitVec 5) (d : BitVec 5) (s : State), (s.Inv) → KeepsWf (@execAdda y x b a d s) := by
  intros
  delta execAdda
  with_reducible repeat'
    first
    | assumption
    | apply wf_issue
    | apply wf_unit
    | intro x

theorem wf_execMin : ∀ (m : BitVec 2) (y : BitVec 1) (x : BitVec 1) (b : BitVec 6) (a : BitVec 6) (d : BitVec 6) (s : State), (s.Inv) → KeepsWf (@execMin m y x b a d s) := by
  intros
  delta execMin
  with_reducible repeat'
    first
    | assumption
    | apply wf_laneOp2

theorem wf_execMax : ∀ (m : BitVec 2) (y : BitVec 1) (x : BitVec 1) (b : BitVec 6) (a : BitVec 6) (d : BitVec 6) (s : State), (s.Inv) → KeepsWf (@execMax m y x b a d s) := by
  intros
  delta execMax
  with_reducible repeat'
    first
    | assumption
    | apply wf_laneOp2

theorem wf_execAnd : ∀ (y : BitVec 1) (x : BitVec 1) (b : BitVec 6) (a : BitVec 6) (d : BitVec 6) (s : State), (s.Inv) → KeepsWf (@execAnd y x b a d s) := by
  intros
  delta execAnd
  with_reducible repeat'
    first
    | assumption
    | apply wf_laneOp2

theorem wf_execOr : ∀ (y : BitVec 1) (x : BitVec 1) (b : BitVec 6) (a : BitVec 6) (d : BitVec 6) (s : State), (s.Inv) → KeepsWf (@execOr y x b a d s) := by
  intros
  delta execOr
  with_reducible repeat'
    first
    | assumption
    | apply wf_laneOp2

theorem wf_execXor : ∀ (y : BitVec 1) (x : BitVec 1) (b : BitVec 6) (a : BitVec 6) (d : BitVec 6) (s : State), (s.Inv) → KeepsWf (@execXor y x b a d s) := by
  intros
  delta execXor
  with_reducible repeat'
    first
    | assumption
    | apply wf_laneOp2

theorem wf_execAndn : ∀ (y : BitVec 1) (x : BitVec 1) (b : BitVec 6) (a : BitVec 6) (d : BitVec 6) (s : State), (s.Inv) → KeepsWf (@execAndn y x b a d s) := by
  intros
  delta execAndn
  with_reducible repeat'
    first
    | assumption
    | apply wf_laneOp2

theorem wf_execShl : ∀ (y : BitVec 1) (x : BitVec 1) (b : BitVec 6) (a : BitVec 6) (d : BitVec 6) (s : State), (s.Inv) → KeepsWf (@execShl y x b a d s) := by
  intros
  delta execShl
  with_reducible repeat'
    first
    | assumption
    | apply wf_laneOp2

theorem wf_execShr : ∀ (y : BitVec 1) (x : BitVec 1) (b : BitVec 6) (a : BitVec 6) (d : BitVec 6) (s : State), (s.Inv) → KeepsWf (@execShr y x b a d s) := by
  intros
  delta execShr
  with_reducible repeat'
    first
    | assumption
    | apply wf_laneOp2

theorem wf_execSra : ∀ (y : BitVec 1) (x : BitVec 1) (b : BitVec 6) (a : BitVec 6) (d : BitVec 6) (s : State), (s.Inv) → KeepsWf (@execSra y x b a d s) := by
  intros
  delta execSra
  with_reducible repeat'
    first
    | assumption
    | apply wf_laneOp2

theorem wf_execRot : ∀ (y : BitVec 1) (x : BitVec 1) (b : BitVec 6) (a : BitVec 6) (d : BitVec 6) (s : State), (s.Inv) → KeepsWf (@execRot y x b a d s) := by
  intros
  delta execRot
  with_reducible repeat'
    first
    | assumption
    | apply wf_laneOp2

theorem wf_execBfe : ∀ (m : BitVec 2) (y : BitVec 1) (x : BitVec 1) (b : BitVec 6) (a : BitVec 6) (d : BitVec 6) (s : State), (s.Inv) → KeepsWf (@execBfe m y x b a d s) := by
  intros
  delta execBfe
  with_reducible repeat'
    first
    | assumption
    | apply wf_laneOp2

theorem wf_execBfi : ∀ (y : BitVec 1) (x : BitVec 1) (b : BitVec 6) (a : BitVec 6) (d : BitVec 6) (s : State), (s.Inv) → KeepsWf (@execBfi y x b a d s) := by
  intros
  delta execBfi
  with_reducible repeat'
    first
    | assumption
    | apply wf_laneOp3

theorem wf_execPopc : ∀ (x : BitVec 1) (a : BitVec 6) (d : BitVec 6) (s : State), (s.Inv) → KeepsWf (@execPopc x a d s) := by
  intros
  delta execPopc
  with_reducible repeat'
    first
    | assumption
    | apply wf_laneOp1

theorem wf_execPopcLt : ∀ (y : BitVec 1) (x : BitVec 1) (b : BitVec 6) (a : BitVec 6) (d : BitVec 6) (s : State), (s.Inv) → KeepsWf (@execPopcLt y x b a d s) := by
  intros
  delta execPopcLt
  with_reducible repeat'
    first
    | assumption
    | apply wf_laneOp2

theorem wf_execClz : ∀ (x : BitVec 1) (a : BitVec 6) (d : BitVec 6) (s : State), (s.Inv) → KeepsWf (@execClz x a d s) := by
  intros
  delta execClz
  with_reducible repeat'
    first
    | assumption
    | apply wf_laneOp1

theorem wf_execBrev : ∀ (x : BitVec 1) (a : BitVec 6) (d : BitVec 6) (s : State), (s.Inv) → KeepsWf (@execBrev x a d s) := by
  intros
  delta execBrev
  with_reducible repeat'
    first
    | assumption
    | apply wf_laneOp1

theorem wf_execAbs : ∀ (x : BitVec 1) (a : BitVec 6) (d : BitVec 6) (s : State), (s.Inv) → KeepsWf (@execAbs x a d s) := by
  intros
  delta execAbs
  with_reducible repeat'
    first
    | assumption
    | apply wf_laneOp1

theorem wf_execNot : ∀ (x : BitVec 1) (a : BitVec 6) (d : BitVec 6) (s : State), (s.Inv) → KeepsWf (@execNot x a d s) := by
  intros
  delta execNot
  with_reducible repeat'
    first
    | assumption
    | apply wf_laneOp1

theorem wf_execDot4I8 : ∀ (m : BitVec 2) (y : BitVec 1) (x : BitVec 1) (b : BitVec 6) (a : BitVec 6) (d : BitVec 6) (s : State), (s.Inv) → KeepsWf (@execDot4I8 m y x b a d s) := by
  intros
  delta execDot4I8
  with_reducible repeat'
    first
    | assumption
    | apply wf_laneOp3

theorem wf_execAddi : ∀ (m : BitVec 1) (x : BitVec 1) (i : BitVec 11) (a : BitVec 6) (d : BitVec 6) (s : State), (s.Inv) → KeepsWf (@execAddi m x i a d s) := by
  intros
  delta execAddi
  with_reducible repeat'
    first
    | assumption
    | apply wf_laneOp1

theorem wf_execAndi : ∀ (x : BitVec 1) (i : BitVec 11) (a : BitVec 6) (d : BitVec 6) (s : State), (s.Inv) → KeepsWf (@execAndi x i a d s) := by
  intros
  delta execAndi
  with_reducible repeat'
    first
    | assumption
    | apply wf_laneOp1

theorem wf_execOri : ∀ (x : BitVec 1) (i : BitVec 11) (a : BitVec 6) (d : BitVec 6) (s : State), (s.Inv) → KeepsWf (@execOri x i a d s) := by
  intros
  delta execOri
  with_reducible repeat'
    first
    | assumption
    | apply wf_laneOp1

theorem wf_execXori : ∀ (x : BitVec 1) (i : BitVec 11) (a : BitVec 6) (d : BitVec 6) (s : State), (s.Inv) → KeepsWf (@execXori x i a d s) := by
  intros
  delta execXori
  with_reducible repeat'
    first
    | assumption
    | apply wf_laneOp1

theorem wf_execShli : ∀ (x : BitVec 1) (n : BitVec 5) (a : BitVec 6) (d : BitVec 6) (s : State), (s.Inv) → KeepsWf (@execShli x n a d s) := by
  intros
  delta execShli
  with_reducible repeat'
    first
    | assumption
    | apply wf_laneOp1

theorem wf_execShri : ∀ (x : BitVec 1) (n : BitVec 5) (a : BitVec 6) (d : BitVec 6) (s : State), (s.Inv) → KeepsWf (@execShri x n a d s) := by
  intros
  delta execShri
  with_reducible repeat'
    first
    | assumption
    | apply wf_laneOp1

theorem wf_execSrai : ∀ (x : BitVec 1) (n : BitVec 5) (a : BitVec 6) (d : BitVec 6) (s : State), (s.Inv) → KeepsWf (@execSrai x n a d s) := by
  intros
  delta execSrai
  with_reducible repeat'
    first
    | assumption
    | apply wf_laneOp1

theorem wf_execRoti : ∀ (x : BitVec 1) (n : BitVec 5) (a : BitVec 6) (d : BitVec 6) (s : State), (s.Inv) → KeepsWf (@execRoti x n a d s) := by
  intros
  delta execRoti
  with_reducible repeat'
    first
    | assumption
    | apply wf_laneOp1

theorem wf_execMovi : ∀ (i : BitVec 11) (d : BitVec 6) (s : State), (s.Inv) → KeepsWf (@execMovi i d s) := by
  intros
  delta execMovi
  with_reducible repeat'
    first
    | assumption
    | apply wf_issue
    | apply wf_unit
    | intro x

theorem wf_execMini : ∀ (m : BitVec 1) (x : BitVec 1) (i : BitVec 11) (a : BitVec 6) (d : BitVec 6) (s : State), (s.Inv) → KeepsWf (@execMini m x i a d s) := by
  intros
  delta execMini
  with_reducible repeat'
    first
    | assumption
    | apply wf_laneOp1

theorem wf_execMaxi : ∀ (m : BitVec 1) (x : BitVec 1) (i : BitVec 11) (a : BitVec 6) (d : BitVec 6) (s : State), (s.Inv) → KeepsWf (@execMaxi m x i a d s) := by
  intros
  delta execMaxi
  with_reducible repeat'
    first
    | assumption
    | apply wf_laneOp1

theorem wf_execMov16 : ∀ (b : BitVec 5) (d : BitVec 5) (s : State), (s.Inv) → KeepsWf (@execMov16 b d s) := by
  intros
  delta execMov16
  with_reducible repeat'
    first
    | assumption
    | apply wf_laneOp1

theorem wf_execAdd16 : ∀ (b : BitVec 5) (d : BitVec 5) (s : State), (s.Inv) → KeepsWf (@execAdd16 b d s) := by
  intros
  delta execAdd16
  with_reducible repeat'
    first
    | assumption
    | apply wf_laneOp2

theorem wf_execSub16 : ∀ (b : BitVec 5) (d : BitVec 5) (s : State), (s.Inv) → KeepsWf (@execSub16 b d s) := by
  intros
  delta execSub16
  with_reducible repeat'
    first
    | assumption
    | apply wf_laneOp2

theorem wf_execMul16 : ∀ (b : BitVec 5) (d : BitVec 5) (s : State), (s.Inv) → KeepsWf (@execMul16 b d s) := by
  intros
  delta execMul16
  with_reducible repeat'
    first
    | assumption
    | apply wf_laneOp2

theorem wf_execAnd16 : ∀ (b : BitVec 5) (d : BitVec 5) (s : State), (s.Inv) → KeepsWf (@execAnd16 b d s) := by
  intros
  delta execAnd16
  with_reducible repeat'
    first
    | assumption
    | apply wf_laneOp2

theorem wf_execOr16 : ∀ (b : BitVec 5) (d : BitVec 5) (s : State), (s.Inv) → KeepsWf (@execOr16 b d s) := by
  intros
  delta execOr16
  with_reducible repeat'
    first
    | assumption
    | apply wf_laneOp2

theorem wf_execXor16 : ∀ (b : BitVec 5) (d : BitVec 5) (s : State), (s.Inv) → KeepsWf (@execXor16 b d s) := by
  intros
  delta execXor16
  with_reducible repeat'
    first
    | assumption
    | apply wf_laneOp2

theorem wf_execAndn16 : ∀ (b : BitVec 5) (d : BitVec 5) (s : State), (s.Inv) → KeepsWf (@execAndn16 b d s) := by
  intros
  delta execAndn16
  with_reducible repeat'
    first
    | assumption
    | apply wf_laneOp2

theorem wf_execShl16 : ∀ (b : BitVec 5) (d : BitVec 5) (s : State), (s.Inv) → KeepsWf (@execShl16 b d s) := by
  intros
  delta execShl16
  with_reducible repeat'
    first
    | assumption
    | apply wf_laneOp2

theorem wf_execShr16 : ∀ (b : BitVec 5) (d : BitVec 5) (s : State), (s.Inv) → KeepsWf (@execShr16 b d s) := by
  intros
  delta execShr16
  with_reducible repeat'
    first
    | assumption
    | apply wf_laneOp2

theorem wf_execSra16 : ∀ (b : BitVec 5) (d : BitVec 5) (s : State), (s.Inv) → KeepsWf (@execSra16 b d s) := by
  intros
  delta execSra16
  with_reducible repeat'
    first
    | assumption
    | apply wf_laneOp2

theorem wf_execMin16 : ∀ (b : BitVec 5) (d : BitVec 5) (s : State), (s.Inv) → KeepsWf (@execMin16 b d s) := by
  intros
  delta execMin16
  with_reducible repeat'
    first
    | assumption
    | apply wf_laneOp2

theorem wf_execMax16 : ∀ (b : BitVec 5) (d : BitVec 5) (s : State), (s.Inv) → KeepsWf (@execMax16 b d s) := by
  intros
  delta execMax16
  with_reducible repeat'
    first
    | assumption
    | apply wf_laneOp2

theorem wf_cmpOp : ∀ (s : State) (cc : Cc) (m : BitVec 2) (p : ℕ) (a : ℕ) (b : ℕ) (frees : List ℕ), (s.Inv) → KeepsWf (@cmpOp s cc m p a b frees) := by
  intros
  delta cmpOp
  with_reducible repeat'
    first
    | assumption
    | apply wf_issue
    | apply wf_unit
    | intro x

theorem wf_execCmpEq : ∀ (m : BitVec 2) (y : BitVec 1) (x : BitVec 1) (b : BitVec 6) (a : BitVec 6) (p : BitVec 3) (s : State), (s.Inv) → KeepsWf (@execCmpEq m y x b a p s) := by
  intros
  delta execCmpEq
  with_reducible repeat'
    first
    | assumption
    | apply wf_cmpOp

theorem wf_execCmpNe : ∀ (m : BitVec 2) (y : BitVec 1) (x : BitVec 1) (b : BitVec 6) (a : BitVec 6) (p : BitVec 3) (s : State), (s.Inv) → KeepsWf (@execCmpNe m y x b a p s) := by
  intros
  delta execCmpNe
  with_reducible repeat'
    first
    | assumption
    | apply wf_cmpOp

theorem wf_execCmpLt : ∀ (m : BitVec 2) (y : BitVec 1) (x : BitVec 1) (b : BitVec 6) (a : BitVec 6) (p : BitVec 3) (s : State), (s.Inv) → KeepsWf (@execCmpLt m y x b a p s) := by
  intros
  delta execCmpLt
  with_reducible repeat'
    first
    | assumption
    | apply wf_cmpOp

theorem wf_execCmpLe : ∀ (m : BitVec 2) (y : BitVec 1) (x : BitVec 1) (b : BitVec 6) (a : BitVec 6) (p : BitVec 3) (s : State), (s.Inv) → KeepsWf (@execCmpLe m y x b a p s) := by
  intros
  delta execCmpLe
  with_reducible repeat'
    first
    | assumption
    | apply wf_cmpOp

theorem wf_execCmpGt : ∀ (m : BitVec 2) (y : BitVec 1) (x : BitVec 1) (b : BitVec 6) (a : BitVec 6) (p : BitVec 3) (s : State), (s.Inv) → KeepsWf (@execCmpGt m y x b a p s) := by
  intros
  delta execCmpGt
  with_reducible repeat'
    first
    | assumption
    | apply wf_cmpOp

theorem wf_execCmpGe : ∀ (m : BitVec 2) (y : BitVec 1) (x : BitVec 1) (b : BitVec 6) (a : BitVec 6) (p : BitVec 3) (s : State), (s.Inv) → KeepsWf (@execCmpGe m y x b a p s) := by
  intros
  delta execCmpGe
  with_reducible repeat'
    first
    | assumption
    | apply wf_cmpOp

theorem wf_predOp : ∀ (s : State) (d : ℕ) (f : Group → BitVec 32), (s.Inv) → KeepsWf (@predOp s d f) := by
  intros
  delta predOp
  with_reducible repeat'
    first
    | assumption
    | apply wf_issue
    | apply wf_unit
    | intro x

theorem wf_execPand : ∀ (b : BitVec 3) (a : BitVec 3) (d : BitVec 3) (s : State), (s.Inv) → KeepsWf (@execPand b a d s) := by
  intros
  delta execPand
  with_reducible repeat'
    first
    | assumption
    | apply wf_predOp

theorem wf_execPor : ∀ (b : BitVec 3) (a : BitVec 3) (d : BitVec 3) (s : State), (s.Inv) → KeepsWf (@execPor b a d s) := by
  intros
  delta execPor
  with_reducible repeat'
    first
    | assumption
    | apply wf_predOp

theorem wf_execPxor : ∀ (b : BitVec 3) (a : BitVec 3) (d : BitVec 3) (s : State), (s.Inv) → KeepsWf (@execPxor b a d s) := by
  intros
  delta execPxor
  with_reducible repeat'
    first
    | assumption
    | apply wf_predOp

theorem wf_execPnot : ∀ (a : BitVec 3) (d : BitVec 3) (s : State), (s.Inv) → KeepsWf (@execPnot a d s) := by
  intros
  delta execPnot
  with_reducible repeat'
    first
    | assumption
    | apply wf_predOp

theorem wf_execSel : ∀ (n : BitVec 1) (y : BitVec 1) (x : BitVec 1) (p : BitVec 3) (b : BitVec 6) (a : BitVec 6) (d : BitVec 6) (s : State), (s.Inv) → KeepsWf (@execSel n y x p b a d s) := by
  intros
  delta execSel
  with_reducible repeat'
    first
    | assumption
    | apply wf_issue
    | apply wf_unit
    | intro x

theorem wf_execMov : ∀ (y : BitVec 1) (b : BitVec 6) (d : BitVec 6) (s : State), (s.Inv) → KeepsWf (@execMov y b d s) := by
  intros
  delta execMov
  with_reducible repeat'
    first
    | assumption
    | apply wf_laneOp1

theorem wf_execMovk : ∀ (a : BitVec 5) (d : BitVec 6) (s : State), (s.Inv) → KeepsWf (@execMovk a d s) := by
  intros
  delta execMovk
  with_reducible repeat'
    first
    | assumption
    | apply wf_issue
    | apply wf_unit
    | intro x

theorem wf_execSreg : ∀ (n : BitVec 6) (d : BitVec 6) (s : State), (s.Inv) → KeepsWf (@execSreg n d s) := by
  intros
  delta execSreg
  with_reducible repeat'
    first
    | assumption
    | apply wf_issue
    | apply wf_unit
    | intro x

theorem wf_shuffle : ∀ (s : State) (d : ℕ) (a : ℕ) (b : ℕ) (frees : List ℕ) (src : ℕ → ℕ → Option ℕ), (s.Inv) → KeepsWf (@shuffle s d a b frees src) := by
  intros
  delta shuffle
  with_reducible repeat'
    first
    | assumption
    | apply wf_issue
    | apply wf_unit
    | intro x

theorem wf_execShflIdx : ∀ (y : BitVec 1) (x : BitVec 1) (b : BitVec 6) (a : BitVec 6) (d : BitVec 6) (s : State), (s.Inv) → KeepsWf (@execShflIdx y x b a d s) := by
  intros
  delta execShflIdx
  with_reducible repeat'
    first
    | assumption
    | apply wf_shuffle

theorem wf_execShflUp : ∀ (y : BitVec 1) (x : BitVec 1) (b : BitVec 6) (a : BitVec 6) (d : BitVec 6) (s : State), (s.Inv) → KeepsWf (@execShflUp y x b a d s) := by
  intros
  delta execShflUp
  with_reducible repeat'
    first
    | assumption
    | apply wf_shuffle

theorem wf_execShflDown : ∀ (y : BitVec 1) (x : BitVec 1) (b : BitVec 6) (a : BitVec 6) (d : BitVec 6) (s : State), (s.Inv) → KeepsWf (@execShflDown y x b a d s) := by
  intros
  delta execShflDown
  with_reducible repeat'
    first
    | assumption
    | apply wf_shuffle

theorem wf_execShflXor : ∀ (y : BitVec 1) (x : BitVec 1) (b : BitVec 6) (a : BitVec 6) (d : BitVec 6) (s : State), (s.Inv) → KeepsWf (@execShflXor y x b a d s) := by
  intros
  delta execShflXor
  with_reducible repeat'
    first
    | assumption
    | apply wf_shuffle

theorem wf_execXg : ∀ (y : BitVec 1) (x : BitVec 1) (b : BitVec 6) (a : BitVec 3) (d : BitVec 6) (s : State), (s.Inv) → KeepsWf (@execXg y x b a d s) := by
  intros
  delta execXg
  with_reducible repeat'
    first
    | assumption
    | apply wf_issue
    | apply wf_unit
    | intro x

theorem wf_execPermB : ∀ (h : BitVec 1) (x : BitVec 1) (q : BitVec 3) (a : BitVec 6) (d : BitVec 6) (s : State), (s.Inv) → KeepsWf (@execPermB h x q a d s) := by
  intros
  delta execPermB
  with_reducible repeat'
    first
    | assumption
    | apply wf_issue
    | apply wf_unit
    | intro x

theorem wf_execVoteAny : ∀ (a : BitVec 3) (d : BitVec 3) (s : State), (s.Inv) → KeepsWf (@execVoteAny a d s) := by
  intros
  delta execVoteAny
  with_reducible repeat'
    first
    | assumption
    | apply wf_issue
    | apply wf_unit
    | intro x

theorem wf_execVoteAll : ∀ (a : BitVec 3) (d : BitVec 3) (s : State), (s.Inv) → KeepsWf (@execVoteAll a d s) := by
  intros
  delta execVoteAll
  with_reducible repeat'
    first
    | assumption
    | apply wf_issue
    | apply wf_unit
    | intro x

theorem wf_execVoteBallot : ∀ (a : BitVec 3) (d : BitVec 5) (s : State), (s.Inv) → KeepsWf (@execVoteBallot a d s) := by
  intros
  delta execVoteBallot
  with_reducible repeat'
    first
    | assumption
    | apply wf_issue
    | apply wf_unit
    | intro x

theorem wf_reduceOp : ∀ (s : State) (d : ℕ) (a : ℕ) (frees : List ℕ) (fold : List Word → Word), (s.Inv) → KeepsWf (@reduceOp s d a frees fold) := by
  intros
  delta reduceOp
  with_reducible repeat'
    first
    | assumption
    | apply wf_issue
    | apply wf_unit
    | apply KeepsWf.next
    | intro x

theorem wf_execGredAdd : ∀ (m : BitVec 2) (x : BitVec 1) (a : BitVec 6) (d : BitVec 6) (s : State), (s.Inv) → KeepsWf (@execGredAdd m x a d s) := by
  intros
  delta execGredAdd
  with_reducible repeat'
    first
    | assumption
    | apply wf_reduceOp

theorem wf_execGredMin : ∀ (m : BitVec 2) (x : BitVec 1) (a : BitVec 6) (d : BitVec 6) (s : State), (s.Inv) → KeepsWf (@execGredMin m x a d s) := by
  intros
  delta execGredMin
  with_reducible repeat'
    first
    | assumption
    | apply wf_reduceOp

theorem wf_execGredMax : ∀ (m : BitVec 2) (x : BitVec 1) (a : BitVec 6) (d : BitVec 6) (s : State), (s.Inv) → KeepsWf (@execGredMax m x a d s) := by
  intros
  delta execGredMax
  with_reducible repeat'
    first
    | assumption
    | apply wf_reduceOp

theorem wf_execGscanAdd : ∀ (m : BitVec 2) (x : BitVec 1) (a : BitVec 6) (d : BitVec 6) (s : State), (s.Inv) → KeepsWf (@execGscanAdd m x a d s) := by
  intros
  delta execGscanAdd
  with_reducible repeat'
    first
    | assumption
    | apply wf_issue
    | apply wf_unit
    | intro x

theorem wf_execRbal : ∀ (x : BitVec 1) (b : BitVec 5) (a : BitVec 6) (d : BitVec 5) (s : State), (s.Inv) → KeepsWf (@execRbal x b a d s) := by
  intros
  delta execRbal
  with_reducible repeat'
    first
    | assumption
    | apply wf_issue
    | apply wf_unit
    | intro x

theorem wf_execFadd : ∀ (m : BitVec 2) (y : BitVec 1) (x : BitVec 1) (b : BitVec 6) (a : BitVec 6) (d : BitVec 6) (s : State), (s.Inv) → KeepsWf (@execFadd m y x b a d s) := by
  intros
  delta execFadd
  with_reducible repeat'
    first
    | assumption
    | apply wf_laneOp2

theorem wf_execFsub : ∀ (m : BitVec 2) (y : BitVec 1) (x : BitVec 1) (b : BitVec 6) (a : BitVec 6) (d : BitVec 6) (s : State), (s.Inv) → KeepsWf (@execFsub m y x b a d s) := by
  intros
  delta execFsub
  with_reducible repeat'
    first
    | assumption
    | apply wf_laneOp2

theorem wf_execFmul : ∀ (m : BitVec 2) (y : BitVec 1) (x : BitVec 1) (b : BitVec 6) (a : BitVec 6) (d : BitVec 6) (s : State), (s.Inv) → KeepsWf (@execFmul m y x b a d s) := by
  intros
  delta execFmul
  with_reducible repeat'
    first
    | assumption
    | apply wf_laneOp2

theorem wf_execFma : ∀ (m : BitVec 2) (y : BitVec 1) (x : BitVec 1) (b : BitVec 6) (a : BitVec 6) (d : BitVec 6) (s : State), (s.Inv) → KeepsWf (@execFma m y x b a d s) := by
  intros
  delta execFma
  with_reducible repeat'
    first
    | assumption
    | apply wf_laneOp3

theorem wf_execFmin : ∀ (y : BitVec 1) (x : BitVec 1) (b : BitVec 6) (a : BitVec 6) (d : BitVec 6) (s : State), (s.Inv) → KeepsWf (@execFmin y x b a d s) := by
  intros
  delta execFmin
  with_reducible repeat'
    first
    | assumption
    | apply wf_laneOp2

theorem wf_execFmax : ∀ (y : BitVec 1) (x : BitVec 1) (b : BitVec 6) (a : BitVec 6) (d : BitVec 6) (s : State), (s.Inv) → KeepsWf (@execFmax y x b a d s) := by
  intros
  delta execFmax
  with_reducible repeat'
    first
    | assumption
    | apply wf_laneOp2

theorem wf_execFaddBf16x2 : ∀ (m : BitVec 2) (y : BitVec 1) (x : BitVec 1) (b : BitVec 6) (a : BitVec 6) (d : BitVec 6) (s : State), (s.Inv) → KeepsWf (@execFaddBf16x2 m y x b a d s) := by
  intros
  delta execFaddBf16x2
  with_reducible repeat'
    first
    | assumption
    | apply wf_laneOp2

theorem wf_execFmulBf16x2 : ∀ (m : BitVec 2) (y : BitVec 1) (x : BitVec 1) (b : BitVec 6) (a : BitVec 6) (d : BitVec 6) (s : State), (s.Inv) → KeepsWf (@execFmulBf16x2 m y x b a d s) := by
  intros
  delta execFmulBf16x2
  with_reducible repeat'
    first
    | assumption
    | apply wf_laneOp2

theorem wf_execFmaBf16x2 : ∀ (m : BitVec 2) (y : BitVec 1) (x : BitVec 1) (b : BitVec 6) (a : BitVec 6) (d : BitVec 6) (s : State), (s.Inv) → KeepsWf (@execFmaBf16x2 m y x b a d s) := by
  intros
  delta execFmaBf16x2
  with_reducible repeat'
    first
    | assumption
    | apply wf_laneOp3

theorem wf_execFminBf16x2 : ∀ (y : BitVec 1) (x : BitVec 1) (b : BitVec 6) (a : BitVec 6) (d : BitVec 6) (s : State), (s.Inv) → KeepsWf (@execFminBf16x2 y x b a d s) := by
  intros
  delta execFminBf16x2
  with_reducible repeat'
    first
    | assumption
    | apply wf_laneOp2

theorem wf_execFmaxBf16x2 : ∀ (y : BitVec 1) (x : BitVec 1) (b : BitVec 6) (a : BitVec 6) (d : BitVec 6) (s : State), (s.Inv) → KeepsWf (@execFmaxBf16x2 y x b a d s) := by
  intros
  delta execFmaxBf16x2
  with_reducible repeat'
    first
    | assumption
    | apply wf_laneOp2

theorem wf_execFaddF16x2 : ∀ (m : BitVec 2) (y : BitVec 1) (x : BitVec 1) (b : BitVec 6) (a : BitVec 6) (d : BitVec 6) (s : State), (s.Inv) → KeepsWf (@execFaddF16x2 m y x b a d s) := by
  intros
  delta execFaddF16x2
  with_reducible repeat'
    first
    | assumption
    | apply wf_laneOp2

theorem wf_execFmulF16x2 : ∀ (m : BitVec 2) (y : BitVec 1) (x : BitVec 1) (b : BitVec 6) (a : BitVec 6) (d : BitVec 6) (s : State), (s.Inv) → KeepsWf (@execFmulF16x2 m y x b a d s) := by
  intros
  delta execFmulF16x2
  with_reducible repeat'
    first
    | assumption
    | apply wf_laneOp2

theorem wf_execFmaF16x2 : ∀ (m : BitVec 2) (y : BitVec 1) (x : BitVec 1) (b : BitVec 6) (a : BitVec 6) (d : BitVec 6) (s : State), (s.Inv) → KeepsWf (@execFmaF16x2 m y x b a d s) := by
  intros
  delta execFmaF16x2
  with_reducible repeat'
    first
    | assumption
    | apply wf_laneOp3

theorem wf_execFminF16x2 : ∀ (y : BitVec 1) (x : BitVec 1) (b : BitVec 6) (a : BitVec 6) (d : BitVec 6) (s : State), (s.Inv) → KeepsWf (@execFminF16x2 y x b a d s) := by
  intros
  delta execFminF16x2
  with_reducible repeat'
    first
    | assumption
    | apply wf_laneOp2

theorem wf_execFmaxF16x2 : ∀ (y : BitVec 1) (x : BitVec 1) (b : BitVec 6) (a : BitVec 6) (d : BitVec 6) (s : State), (s.Inv) → KeepsWf (@execFmaxF16x2 y x b a d s) := by
  intros
  delta execFmaxF16x2
  with_reducible repeat'
    first
    | assumption
    | apply wf_laneOp2

theorem wf_execRcp : ∀ (x : BitVec 1) (a : BitVec 6) (d : BitVec 6) (s : State), (s.Inv) → KeepsWf (@execRcp x a d s) := by
  intros
  delta execRcp
  with_reducible repeat'
    first
    | assumption
    | apply wf_laneOp1

theorem wf_execRsqrt : ∀ (x : BitVec 1) (a : BitVec 6) (d : BitVec 6) (s : State), (s.Inv) → KeepsWf (@execRsqrt x a d s) := by
  intros
  delta execRsqrt
  with_reducible repeat'
    first
    | assumption
    | apply wf_laneOp1

theorem wf_execExp2 : ∀ (x : BitVec 1) (a : BitVec 6) (d : BitVec 6) (s : State), (s.Inv) → KeepsWf (@execExp2 x a d s) := by
  intros
  delta execExp2
  with_reducible repeat'
    first
    | assumption
    | apply wf_laneOp1

theorem wf_execLog2 : ∀ (x : BitVec 1) (a : BitVec 6) (d : BitVec 6) (s : State), (s.Inv) → KeepsWf (@execLog2 x a d s) := by
  intros
  delta execLog2
  with_reducible repeat'
    first
    | assumption
    | apply wf_laneOp1

theorem wf_execCvt : ∀ (m : BitVec 2) (x : BitVec 1) (s_ : BitVec 3) (t : BitVec 3) (a : BitVec 6) (d : BitVec 6) (s : State), (s.Inv) → KeepsWf (@execCvt m x s_ t a d s) := by
  intros
  delta execCvt
  with_reducible repeat'
    first
    | assumption
    | apply wf_laneOp1

theorem wf_execFadd16 : ∀ (b : BitVec 5) (d : BitVec 5) (s : State), (s.Inv) → KeepsWf (@execFadd16 b d s) := by
  intros
  delta execFadd16
  with_reducible repeat'
    first
    | assumption
    | apply wf_laneOp2

theorem wf_execFmul16 : ∀ (b : BitVec 5) (d : BitVec 5) (s : State), (s.Inv) → KeepsWf (@execFmul16 b d s) := by
  intros
  delta execFmul16
  with_reducible repeat'
    first
    | assumption
    | apply wf_laneOp2

theorem wf_execFmax16 : ∀ (b : BitVec 5) (d : BitVec 5) (s : State), (s.Inv) → KeepsWf (@execFmax16 b d s) := by
  intros
  delta execFmax16
  with_reducible repeat'
    first
    | assumption
    | apply wf_laneOp2

theorem wf_uniOp2 : ∀ (s : State) (d : ℕ) (a : ℕ) (b : ℕ) (f : Word → Word → Word), (s.Inv) → KeepsWf (@uniOp2 s d a b f) := by
  intros
  delta uniOp2
  with_reducible repeat'
    first
    | assumption
    | apply wf_issue
    | apply wf_unit
    | intro x

theorem wf_uniOp1 : ∀ (s : State) (d : ℕ) (a : ℕ) (f : Word → Word), (s.Inv) → KeepsWf (@uniOp1 s d a f) := by
  intros
  delta uniOp1
  with_reducible repeat'
    first
    | assumption
    | apply wf_issue
    | apply wf_unit
    | intro x

theorem wf_uniOp3 : ∀ (s : State) (d : ℕ) (a : ℕ) (b : ℕ) (f : Word → Word → Word → Word), (s.Inv) → KeepsWf (@uniOp3 s d a b f) := by
  intros
  delta uniOp3
  with_reducible repeat'
    first
    | assumption
    | apply wf_issue
    | apply wf_unit
    | intro x

theorem wf_execKadd : ∀ (m : BitVec 2) (b : BitVec 5) (a : BitVec 5) (d : BitVec 5) (s : State), (s.Inv) → KeepsWf (@execKadd m b a d s) := by
  intros
  delta execKadd
  with_reducible repeat'
    first
    | assumption
    | apply wf_uniOp2

theorem wf_execKsub : ∀ (m : BitVec 2) (b : BitVec 5) (a : BitVec 5) (d : BitVec 5) (s : State), (s.Inv) → KeepsWf (@execKsub m b a d s) := by
  intros
  delta execKsub
  with_reducible repeat'
    first
    | assumption
    | apply wf_uniOp2

theorem wf_execKmulLo : ∀ (b : BitVec 5) (a : BitVec 5) (d : BitVec 5) (s : State), (s.Inv) → KeepsWf (@execKmulLo b a d s) := by
  intros
  delta execKmulLo
  with_reducible repeat'
    first
    | assumption
    | apply wf_uniOp2

theorem wf_execKmulHi : ∀ (m : BitVec 2) (b : BitVec 5) (a : BitVec 5) (d : BitVec 5) (s : State), (s.Inv) → KeepsWf (@execKmulHi m b a d s) := by
  intros
  delta execKmulHi
  with_reducible repeat'
    first
    | assumption
    | apply wf_uniOp2

theorem wf_execKmadLo : ∀ (b : BitVec 5) (a : BitVec 5) (d : BitVec 5) (s : State), (s.Inv) → KeepsWf (@execKmadLo b a d s) := by
  intros
  delta execKmadLo
  with_reducible repeat'
    first
    | assumption
    | apply wf_uniOp3

theorem wf_execKadda : ∀ (b : BitVec 4) (a : BitVec 4) (d : BitVec 4) (s : State), (s.Inv) → KeepsWf (@execKadda b a d s) := by
  intros
  delta execKadda
  with_reducible repeat'
    first
    | assumption
    | apply wf_issue
    | apply wf_unit
    | intro x

theorem wf_execKmin : ∀ (m : BitVec 2) (b : BitVec 5) (a : BitVec 5) (d : BitVec 5) (s : State), (s.Inv) → KeepsWf (@execKmin m b a d s) := by
  intros
  delta execKmin
  with_reducible repeat'
    first
    | assumption
    | apply wf_uniOp2

theorem wf_execKmax : ∀ (m : BitVec 2) (b : BitVec 5) (a : BitVec 5) (d : BitVec 5) (s : State), (s.Inv) → KeepsWf (@execKmax m b a d s) := by
  intros
  delta execKmax
  with_reducible repeat'
    first
    | assumption
    | apply wf_uniOp2

theorem wf_execKand : ∀ (b : BitVec 5) (a : BitVec 5) (d : BitVec 5) (s : State), (s.Inv) → KeepsWf (@execKand b a d s) := by
  intros
  delta execKand
  with_reducible repeat'
    first
    | assumption
    | apply wf_uniOp2

theorem wf_execKor : ∀ (b : BitVec 5) (a : BitVec 5) (d : BitVec 5) (s : State), (s.Inv) → KeepsWf (@execKor b a d s) := by
  intros
  delta execKor
  with_reducible repeat'
    first
    | assumption
    | apply wf_uniOp2

theorem wf_execKxor : ∀ (b : BitVec 5) (a : BitVec 5) (d : BitVec 5) (s : State), (s.Inv) → KeepsWf (@execKxor b a d s) := by
  intros
  delta execKxor
  with_reducible repeat'
    first
    | assumption
    | apply wf_uniOp2

theorem wf_execKandn : ∀ (b : BitVec 5) (a : BitVec 5) (d : BitVec 5) (s : State), (s.Inv) → KeepsWf (@execKandn b a d s) := by
  intros
  delta execKandn
  with_reducible repeat'
    first
    | assumption
    | apply wf_uniOp2

theorem wf_execKshl : ∀ (b : BitVec 5) (a : BitVec 5) (d : BitVec 5) (s : State), (s.Inv) → KeepsWf (@execKshl b a d s) := by
  intros
  delta execKshl
  with_reducible repeat'
    first
    | assumption
    | apply wf_uniOp2

theorem wf_execKshr : ∀ (b : BitVec 5) (a : BitVec 5) (d : BitVec 5) (s : State), (s.Inv) → KeepsWf (@execKshr b a d s) := by
  intros
  delta execKshr
  with_reducible repeat'
    first
    | assumption
    | apply wf_uniOp2

theorem wf_execKsra : ∀ (b : BitVec 5) (a : BitVec 5) (d : BitVec 5) (s : State), (s.Inv) → KeepsWf (@execKsra b a d s) := by
  intros
  delta execKsra
  with_reducible repeat'
    first
    | assumption
    | apply wf_uniOp2

theorem wf_execKrot : ∀ (b : BitVec 5) (a : BitVec 5) (d : BitVec 5) (s : State), (s.Inv) → KeepsWf (@execKrot b a d s) := by
  intros
  delta execKrot
  with_reducible repeat'
    first
    | assumption
    | apply wf_uniOp2

theorem wf_execKaddi : ∀ (i : BitVec 11) (a : BitVec 5) (d : BitVec 5) (s : State), (s.Inv) → KeepsWf (@execKaddi i a d s) := by
  intros
  delta execKaddi
  with_reducible repeat'
    first
    | assumption
    | apply wf_uniOp1

theorem wf_execKmovi : ∀ (i : BitVec 11) (d : BitVec 5) (s : State), (s.Inv) → KeepsWf (@execKmovi i d s) := by
  intros
  delta execKmovi
  with_reducible repeat'
    first
    | assumption
    | apply wf_issue
    | apply wf_unit
    | intro x

theorem wf_execKbfe : ∀ (m : BitVec 2) (b : BitVec 5) (a : BitVec 5) (d : BitVec 5) (s : State), (s.Inv) → KeepsWf (@execKbfe m b a d s) := by
  intros
  delta execKbfe
  with_reducible repeat'
    first
    | assumption
    | apply wf_uniOp2

theorem wf_execKbfi : ∀ (b : BitVec 5) (a : BitVec 5) (d : BitVec 5) (s : State), (s.Inv) → KeepsWf (@execKbfi b a d s) := by
  intros
  delta execKbfi
  with_reducible repeat'
    first
    | assumption
    | apply wf_uniOp3

theorem wf_execKpopc : ∀ (a : BitVec 5) (d : BitVec 5) (s : State), (s.Inv) → KeepsWf (@execKpopc a d s) := by
  intros
  delta execKpopc
  with_reducible repeat'
    first
    | assumption
    | apply wf_uniOp1

theorem wf_execKclz : ∀ (a : BitVec 5) (d : BitVec 5) (s : State), (s.Inv) → KeepsWf (@execKclz a d s) := by
  intros
  delta execKclz
  with_reducible repeat'
    first
    | assumption
    | apply wf_uniOp1

theorem wf_execKbrev : ∀ (a : BitVec 5) (d : BitVec 5) (s : State), (s.Inv) → KeepsWf (@execKbrev a d s) := by
  intros
  delta execKbrev
  with_reducible repeat'
    first
    | assumption
    | apply wf_uniOp1

theorem wf_execKnot : ∀ (a : BitVec 5) (d : BitVec 5) (s : State), (s.Inv) → KeepsWf (@execKnot a d s) := by
  intros
  delta execKnot
  with_reducible repeat'
    first
    | assumption
    | apply wf_uniOp1

theorem wf_execKabs : ∀ (a : BitVec 5) (d : BitVec 5) (s : State), (s.Inv) → KeepsWf (@execKabs a d s) := by
  intros
  delta execKabs
  with_reducible repeat'
    first
    | assumption
    | apply wf_uniOp1

theorem wf_execKmov : ∀ (a : BitVec 5) (d : BitVec 5) (s : State), (s.Inv) → KeepsWf (@execKmov a d s) := by
  intros
  delta execKmov
  with_reducible repeat'
    first
    | assumption
    | apply wf_uniOp1

end Sys2Proof.Machine
end

