-- ==== Sys2Proof/Laws/KeepEngines.lean ====
section
/-! SUPPORT. The canonical form of memory is kept: copies, chains, links and the Thresher. One lemma per definition that answers a state. -/

namespace Sys2Proof.Machine

open Sys2Proof

theorem wf_State_modPool : ∀ (s : State) (id : ℕ) (f : Pool → Pool), (s.Inv) → (@State.modPool s id f).Inv := by
  intros
  delta State.modPool
  with_reducible repeat'
    first
    | assumption

theorem wf_thrNote : ∀ (s : State) (die : ℕ) (write : Bool) (ps : List Piece), (s.Inv) → (@thrNote s die write ps).Inv := by
  intros
  delta thrNote
  with_reducible repeat'
    first
    | assumption
    | apply wf_noteXlat
    | apply wf_foldl
    | intro x

theorem wf_thrWrite : ∀ (s : State) (q : Queue) (die : ℕ) (va : ℕ) (bs : List Byte), (s.Inv) → (@thrWrite s q die va bs).Inv := by
  intros
  delta thrWrite
  with_reducible repeat'
    first
    | assumption
    | apply wf_writePieces
    | apply wf_thrNote
    | split

theorem wf_syncPool : ∀ (s : State) (p : Pool) (reg : Bool), (s.Inv) → (@syncPool s p reg).Inv := by
  intros
  delta syncPool
  with_reducible repeat'
    first
    | assumption
    | apply wf_thrWrite
    | (intro x; clear_value x)
    | lift_lets
    | split

theorem wf_changeEntry : ∀ (s : State) (die : ℕ) (ps : List Piece) (f : DirEnt → DirEnt), (s.Inv) → (@changeEntry s die ps f).Inv := by
  intros
  delta changeEntry
  with_reducible repeat'
    first
    | assumption
    | apply wf_writePieces
    | apply wf_thrNote

theorem wf_thrFault : ∀ (s : State) (qn : ℕ) (who : Faulter) (o : Option Op) (write : Bool) (va : ℕ) (level : ℕ) (entry : ℕ), (s.Inv) → (@thrFault s qn who o write va level entry).Inv := by
  intros
  delta thrFault
  with_reducible repeat'
    first
    | assumption
    | apply wf_addFault
    | apply wf_freeWord
    | (intro x; clear_value x)
    | lift_lets
    | split

theorem wf_trySync : ∀ (s : State) (p : Pool) (reg : Bool) (retried : ℕ) (who : Faulter) (o : Option Op), (s.Inv) → (@trySync s p reg retried who o).1.Inv := by
  intros
  delta trySync
  with_reducible repeat'
    first
    | assumption
    | apply wf_thrFault
    | apply wf_syncPool
    | split

theorem wf_freeze : ∀ (s : State) (q : Queue) (a : ℕ) (on : Bool), (s.Inv) → (@freeze s q a on).Inv := by
  intros
  delta freeze
  with_reducible repeat'
    first
    | assumption
    | apply wf_putHeader

theorem wf_makeStuck : ∀ (s : State) (id : ℕ) (p : Pool) (ps : List Piece) (n : ℕ), (s.Inv) → (@makeStuck s id p ps n).Inv := by
  intros
  delta makeStuck
  with_reducible repeat'
    first
    | assumption
    | apply wf_changeEntry
    | apply wf_State_modPool

theorem wf_claim : ∀ (s : State) (id : ℕ) (p : Pool) (q : Queue) (ps : List Piece) (n : ℕ) (next : State →   Heap → ℕ → Header → State × StepEnd), (s.Inv) → (∀ (a_3 : State) (a_2 : Heap) (a_1 : ℕ) (a_0 : Header), a_3.Inv → (next a_3 a_2 a_1 a_0).1.Inv) → (@claim s id p q ps n next).1.Inv := by
  intro s id p q ps n next h0 h1
  delta claim
  with_reducible repeat'
    first
    | assumption
    | apply wf_closeWcs
    | apply wf_freeze
    | apply wf_hwNote
    | apply wf_makeStuck
    | apply h1
    | (intro x; clear_value x)
    | lift_lets
    | split
    | dsimp only [State.Inv]

theorem wf_formatStep : ∀ (s : State) (id : ℕ) (p : Pool) (q : Queue) (ps : List Piece) (n : ℕ), (s.Inv) → (@formatStep s id p q ps n).1.Inv := by
  intros
  delta formatStep
  with_reducible repeat'
    first
    | assumption
    | apply wf_claim
    | apply wf_allocObject
    | apply wf_freeze
    | apply wf_dropUpdates
    | apply wf_hwWrite
    | apply wf_setNarrow
    | apply wf_changeEntry
    | apply wf_releaseSpace
    | (intro x; clear_value x)
    | intro x
    | lift_lets
    | split
    | (apply wf_of_fst; assumption)

theorem wf_coldStep : ∀ (s : State) (id : ℕ) (p : Pool) (q : Queue) (x : ℕ) (ps : List Piece) (n : ℕ) (op : ℕ), (s.Inv) → (@coldStep s id p q x ps n op).1.Inv := by
  intros
  delta coldStep
  with_reducible repeat'
    first
    | assumption
    | apply wf_claim
    | apply wf_allocObject
    | apply wf_freeze
    | apply wf_State_modPool
    | apply wf_dropUpdates
    | intro x
    | lift_lets
    | split
    | (apply wf_of_fst; assumption)

theorem wf_kvBadPool : ∀ (s : State) (c : Ctx) (q : BitVec 2) (early : List Cond), (s.Inv) → (@kvBadPool s c q early).Inv := by
  intros
  delta kvBadPool
  with_reducible repeat'
    first
    | assumption
    | apply wf_takeTrap
    | apply wf_freeWord
    | (intro x; clear_value x)
    | lift_lets
    | split

theorem wf_kvOn : ∀ (s : State) (c : Ctx) (conds : List Cond) (fault : Option FaultInfo) (next : State), (s.Inv) → (next.Inv) → (@kvOn s c conds fault next).Inv := by
  intros
  delta kvOn
  with_reducible repeat'
    first
    | assumption
    | apply wf_takeTrap
    | apply wf_takeFault
    | split

theorem wf_kvPool : ∀ (s : State) (c : Ctx) (q : BitVec 2) (early : List Cond) (next : ℕ → Pool → List Cond → Option FaultInfo → State), (s.Inv) → (∀ (a_3 : ℕ) (a_2 : Pool) (a_1 : List Cond) (a_0 : Option FaultInfo), (next a_3 a_2 a_1 a_0).Inv) → (@kvPool s c q early next).Inv := by
  intro s c q early next h0 h1
  delta kvPool
  with_reducible repeat'
    first
    | assumption
    | apply wf_kvBadPool
    | apply wf_kvOn
    | apply h1
    | (intro x; clear_value x)
    | lift_lets
    | split

theorem wf_dirUnit : ∀ (s : State) (c : Ctx) (form : DirForm) (q : BitVec 2) (kd : BitVec 5) (look : ℕ), (s.Inv) → (@dirUnit s c form q kd look).Inv := by
  intros
  delta dirUnit
  with_reducible repeat'
    first
    | assumption
    | apply wf_kvPool
    | apply wf_kvOn
    | apply wf_issueOp
    | (intro x; clear_value x)
    | intro x
    | lift_lets
    | split

theorem wf_execKvnew : ∀ (l : BitVec 4) (q : BitVec 2) (d : BitVec 5) (s : State), (s.Inv) → KeepsWf (@execKvnew l q d s) := by
  intros
  delta execKvnew
  with_reducible repeat'
    first
    | assumption
    | apply wf_issue
    | apply wf_dirUnit
    | intro x

theorem wf_execKvseal : ∀ (l : BitVec 4) (q : BitVec 2) (d : BitVec 5) (s : State), (s.Inv) → KeepsWf (@execKvseal l q d s) := by
  intros
  delta execKvseal
  with_reducible repeat'
    first
    | assumption
    | apply wf_issue
    | apply wf_dirUnit
    | intro x

theorem wf_execKvdem : ∀ (l : BitVec 4) (q : BitVec 2) (d : BitVec 5) (s : State), (s.Inv) → KeepsWf (@execKvdem l q d s) := by
  intros
  delta execKvdem
  with_reducible repeat'
    first
    | assumption
    | apply wf_issue
    | apply wf_dirUnit
    | intro x

theorem wf_execKvdemInv : ∀ (l : BitVec 4) (q : BitVec 2) (d : BitVec 5) (s : State), (s.Inv) → KeepsWf (@execKvdemInv l q d s) := by
  intros
  delta execKvdemInv
  with_reducible repeat'
    first
    | assumption
    | apply wf_issue
    | apply wf_dirUnit
    | intro x

theorem wf_execKvcold : ∀ (l : BitVec 4) (q : BitVec 2) (d : BitVec 5) (s : State), (s.Inv) → KeepsWf (@execKvcold l q d s) := by
  intros
  delta execKvcold
  with_reducible repeat'
    first
    | assumption
    | apply wf_issue
    | apply wf_dirUnit
    | intro x

theorem wf_execKvq : ∀ (_l : BitVec 4) (q : BitVec 2) (d : BitVec 4) (sel : BitVec 3) (s : State), (s.Inv) → KeepsWf (@execKvq _l q d sel s) := by
  intros
  delta execKvq
  with_reducible repeat'
    first
    | assumption
    | apply wf_issue
    | apply wf_kvPool
    | apply wf_kvOn
    | apply wf_unit
    | apply wf_releaseWrites
    | intro x
    | lift_lets
    | split

theorem wf_kvRead : ∀ (s : State) (c : Ctx) (q : BitVec 2) (next : ℕ → State), (s.Inv) → (∀ (a_0 : ℕ), (next a_0).Inv) → (@kvRead s c q next).Inv := by
  intro s c q next h0 h1
  delta kvRead
  with_reducible repeat'
    first
    | assumption
    | apply wf_kvBadPool
    | apply wf_kvOn
    | apply h1
    | (intro x; clear_value x)
    | lift_lets
    | split

theorem wf_kvDone : ∀ (s : State) (c : Ctx) (d : BitVec 5), (s.Inv) → (@kvDone s c d).Inv := by
  intros
  delta kvDone
  with_reducible repeat'
    first
    | assumption
    | apply wf_finish

theorem wf_closePool : ∀ (s : State) (form : DirForm) (id : ℕ), (s.Inv) → (@closePool s form id).Inv := by
  intros
  delta closePool
  with_reducible repeat'
    first
    | assumption
    | split

theorem wf_kvSync : ∀ (s : State) (c : Ctx) (form : DirForm) (id : ℕ) (p : Pool) (d : BitVec 5) (look : ℕ), (s.Inv) → (@kvSync s c form id p d look).Inv := by
  intros
  delta kvSync
  with_reducible repeat'
    first
    | assumption
    | apply wf_trySync
    | apply wf_kvDone
    | apply wf_closePool
    | apply wf_issueOp
    | apply wf_State_putOp
    | (intro (x : State); have hx : x.Inv; rotate_left; clear_value x; rotate_right; subst x)
    | (intro (x : State × _); have hx : x.1.Inv; rotate_left; clear_value x; rotate_right; subst x)
    | (intro x; clear_value x)
    | lift_lets
    | split

theorem wf_execKvpolReg : ∀ (l : BitVec 4) (q : BitVec 2) (d : BitVec 5) (s : State), (s.Inv) → KeepsWf (@execKvpolReg l q d s) := by
  intros
  delta execKvpolReg
  with_reducible repeat'
    first
    | assumption
    | apply wf_issue
    | apply wf_kvRead
    | apply wf_kvBadPool
    | apply wf_takeTrap
    | apply wf_releaseWrites
    | apply wf_kvSync
    | apply wf_State_named
    | (intro (x : State); have hx : x.Inv; rotate_left; clear_value x; rotate_right; subst x)
    | (intro x; clear_value x)
    | intro x
    | lift_lets
    | split

theorem wf_execKvpolSweep : ∀ (_l : BitVec 4) (q : BitVec 2) (d : BitVec 5) (s : State), (s.Inv) → KeepsWf (@execKvpolSweep _l q d s) := by
  intros
  delta execKvpolSweep
  with_reducible repeat'
    first
    | assumption
    | apply wf_issue
    | apply wf_kvPool
    | apply wf_kvOn
    | apply wf_kvDone
    | apply wf_State_modPool
    | apply wf_releaseWrites
    | intro x
    | lift_lets
    | split

theorem wf_execKvpolSet : ∀ (_l : BitVec 4) (q : BitVec 2) (d : BitVec 5) (s : State), (s.Inv) → KeepsWf (@execKvpolSet _l q d s) := by
  intros
  delta execKvpolSet
  with_reducible repeat'
    first
    | assumption
    | apply wf_issue
    | apply wf_kvPool
    | apply wf_kvOn
    | apply wf_kvRead
    | apply wf_kvBadPool
    | apply wf_kvDone
    | apply wf_State_modPool
    | apply wf_releaseWrites
    | intro x
    | lift_lets
    | split

theorem wf_execKvpolUnreg : ∀ (l : BitVec 4) (q : BitVec 2) (d : BitVec 5) (s : State), (s.Inv) → KeepsWf (@execKvpolUnreg l q d s) := by
  intros
  delta execKvpolUnreg
  with_reducible repeat'
    first
    | assumption
    | apply wf_issue
    | apply wf_kvPool
    | apply wf_kvOn
    | apply wf_State_modPool
    | apply wf_releaseWrites
    | apply wf_kvSync
    | (intro (x : State); have hx : x.Inv; rotate_left; clear_value x; rotate_right; subst x)
    | (intro x; clear_value x)
    | intro x
    | lift_lets
    | split

theorem wf_dirEnd : ∀ (s : State) (id : ℕ) (o : Op) (d : Dir) (status : ℕ), (s.Inv) → (@dirEnd s id o d status).Inv := by
  intros
  delta dirEnd
  with_reducible repeat'
    first
    | assumption
    | apply wf_endOp
    | apply wf_opWrites

theorem wf_takeNew : ∀ (s : State) (id : ℕ) (o : Op) (d : Dir) (p : Pool) (ps : List Piece), (s.Inv) → (@takeNew s id o d p ps).Inv := by
  intros
  delta takeNew
  with_reducible repeat'
    first
    | assumption
    | apply wf_dirEnd
    | apply wf_allocObject
    | apply wf_changeEntry
    | lift_lets
    | split
    | (apply wf_of_fst; assumption)

theorem wf_dirFinish : ∀ (s : State) (id : ℕ) (o : Op) (d : Dir) (stuck : Bool) (status : ℕ), (s.Inv) → (@dirFinish s id o d stuck status).Inv := by
  intros
  delta dirFinish
  with_reducible repeat'
    first
    | assumption
    | apply wf_dirEnd
    | apply wf_trySync
    | apply wf_State_putOp
    | (intro (x : State × _); have hx : x.1.Inv; rotate_left; clear_value x; rotate_right; subst x)
    | lift_lets
    | split

theorem wf_takeSeal : ∀ (s : State) (id : ℕ) (o : Op) (d : Dir) (p : Pool) (c : Ctx) (ps : List Piece) (need : List Piece) (obj : ℕ), (s.Inv) → (@takeSeal s id o d p c ps need obj).Inv := by
  intros
  delta takeSeal
  with_reducible repeat'
    first
    | assumption
    | apply wf_dirEnd
    | apply wf_hwWrite
    | apply wf_markObjDirty
    | apply wf_changeEntry
    | apply wf_writePieces
    | apply wf_thrNote
    | apply wf_State_modPool
    | apply wf_dirFinish
    | (intro (x : State); have hx : x.Inv; rotate_left; clear_value x; rotate_right; subst x)
    | (intro x; clear_value x)
    | lift_lets
    | split

theorem wf_dirFault : ∀ (s : State) (id : ℕ) (o : Op) (d : Dir) (qn : ℕ) (write : Bool) (va : ℕ) (l : ℕ) (e : ℕ), (s.Inv) → (@dirFault s id o d qn write va l e).Inv := by
  intros
  delta dirFault
  with_reducible repeat'
    first
    | assumption
    | apply wf_State_putOp
    | apply wf_thrFault

theorem wf_dirHold : ∀ (s : State) (id : ℕ) (o : Op) (d : Dir), (s.Inv) → (@dirHold s id o d).Inv := by
  intros
  delta dirHold
  with_reducible repeat'
    first
    | assumption
    | apply wf_State_putOp

theorem wf_dirNeed : ∀ (s : State) (id : ℕ) (o : Op) (d : Dir) (qn : ℕ) (t : Thr) (next : List Piece → State), (s.Inv) → (∀ (a_0 : List Piece), (next a_0).Inv) → (@dirNeed s id o d qn t next).Inv := by
  intro s id o d qn t next h0 h1
  delta dirNeed
  with_reducible repeat'
    first
    | assumption
    | apply wf_dirFault
    | apply wf_dirEnd
    | apply h1
    | split

theorem wf_takeStep : ∀ (s : State) (id : ℕ) (o : Op) (d : Dir) (p : Pool) (q : Queue) (ps : List Piece), (s.Inv) → (@takeStep s id o d p q ps).Inv := by
  intros
  delta takeStep
  with_reducible repeat'
    first
    | assumption
    | apply wf_dirEnd
    | apply wf_dirNeed
    | apply wf_formatStep
    | apply wf_thrNote
    | apply wf_dirFinish
    | apply wf_coldStep
    | apply wf_State_putOp
    | apply wf_closeWcs
    | apply wf_freeze
    | apply wf_changeEntry
    | apply wf_dropUpdates
    | apply wf_releaseSpace
    | apply wf_dirFault
    | (refine wf_of_fst (by assumption) ?_)
    | (intro (x : State × _); have hx : x.1.Inv; rotate_left; clear_value x; rotate_right; subst x)
    | (intro x; clear_value x)
    | intro x
    | lift_lets
    | split
    | dsimp only [State.Inv]

theorem wf_takeForm : ∀ (s : State) (id : ℕ) (o : Op) (d : Dir) (p : Pool) (c : Ctx) (ps : List Piece), (s.Inv) → (@takeForm s id o d p c ps).Inv := by
  intros
  delta takeForm
  with_reducible repeat'
    first
    | assumption
    | apply wf_dirHold
    | apply wf_dirEnd
    | apply wf_takeNew
    | apply wf_dirNeed
    | apply wf_takeSeal
    | apply wf_dirFault
    | apply wf_takeStep
    | (intro x; clear_value x)
    | intro x
    | lift_lets
    | split

theorem wf_execDirectoryTakeup : ∀ (op : ℕ) (s : State), (s.Inv) → KeepsWf (@execDirectoryTakeup op s) := by
  intros
  delta execDirectoryTakeup
  with_reducible repeat'
    first
    | assumption
    | apply wf_dirEnd
    | apply wf_trySync
    | apply wf_closePool
    | apply wf_State_putOp
    | apply wf_dirNeed
    | apply wf_takeForm
    | apply KeepsWf.next
    | (refine wf_of_fst (by assumption) ?_)
    | (intro (x : State × _); have hx : x.1.Inv; rotate_left; clear_value x; rotate_right; subst x)
    | intro x
    | lift_lets
    | split

theorem wf_execDirectoryBusyTimeout : ∀ (op : ℕ) (s : State), (s.Inv) → KeepsWf (@execDirectoryBusyTimeout op s) := by
  intros
  delta execDirectoryBusyTimeout
  with_reducible repeat'
    first
    | assumption
    | apply wf_dirEnd
    | apply KeepsWf.next
    | split

theorem wf_startSweep : ∀ (s : State) (id : ℕ) (p : Pool), (s.Inv) → (@startSweep s id p).Inv := by
  intros
  delta startSweep
  with_reducible repeat'
    first
    | assumption
    | apply wf_State_modPool
    | apply wf_State_named

theorem wf_execSweepIntervalStart : ∀ (pool : ℕ) (s : State), (s.Inv) → KeepsWf (@execSweepIntervalStart pool s) := by
  intros
  delta execSweepIntervalStart
  with_reducible repeat'
    first
    | assumption
    | apply wf_startSweep
    | apply KeepsWf.next
    | split

theorem wf_execSweepRequestStart : ∀ (pool : ℕ) (s : State), (s.Inv) → KeepsWf (@execSweepRequestStart pool s) := by
  intros
  delta execSweepRequestStart
  with_reducible repeat'
    first
    | assumption
    | apply wf_startSweep
    | apply KeepsWf.next
    | split

theorem wf_passTurn : ∀ (s : State) (id : ℕ), (s.Inv) → (@passTurn s id).Inv := by
  intros
  delta passTurn
  with_reducible repeat'
    first
    | assumption
    | apply wf_State_modPool

theorem wf_sweepOn : ∀ (s : State) (id : ℕ) (f : Sweep → Sweep), (s.Inv) → (@sweepOn s id f).Inv := by
  intros
  delta sweepOn
  with_reducible repeat'
    first
    | assumption
    | apply wf_State_modPool
    | apply wf_passTurn

theorem wf_sweepWait : ∀ (s : State) (id : ℕ) (p : Pool) (write : Bool) (va : ℕ) (l : ℕ) (e : ℕ), (s.Inv) → (@sweepWait s id p write va l e).Inv := by
  intros
  delta sweepWait
  with_reducible repeat'
    first
    | assumption
    | apply wf_State_modPool
    | apply wf_thrFault

theorem wf_sweepSync : ∀ (s : State) (id : ℕ) (p : Pool) (retried : ℕ) (next : State → State), (s.Inv) → (∀ (a_0 : State), a_0.Inv → (next a_0).Inv) → (@sweepSync s id p retried next).Inv := by
  intro s id p retried next h0 h1
  delta sweepSync
  with_reducible repeat'
    first
    | assumption
    | apply wf_trySync
    | apply wf_State_modPool
    | apply h1
    | (intro (x : State × _); have hx : x.1.Inv; rotate_left; clear_value x; rotate_right; subst x)
    | lift_lets
    | split

theorem wf_visitEntry : ∀ (s : State) (id : ℕ) (p : Pool) (q : Queue) (w : Sweep) (ps : List Piece) (refused : Bool), (s.Inv) → (@visitEntry s id p q w ps refused).Inv := by
  intros
  delta visitEntry
  with_reducible repeat'
    first
    | assumption
    | apply wf_sweepOn
    | apply wf_thrNote
    | apply wf_coldStep
    | apply wf_formatStep
    | apply wf_sweepSync
    | apply State.wf_writeNum
    | (intro (x : State); have hx : x.Inv; rotate_left; clear_value x; rotate_right; subst x)
    | (intro (x : State × _); have hx : x.1.Inv; rotate_left; clear_value x; rotate_right; subst x)
    | (intro x; clear_value x)
    | intro x
    | lift_lets
    | split

theorem wf_execSweepVisit : ∀ (pool : ℕ) (s : State), (s.Inv) → KeepsWf (@execSweepVisit pool s) := by
  intros
  delta execSweepVisit
  with_reducible repeat'
    first
    | assumption
    | apply wf_sweepSync
    | apply wf_sweepOn
    | apply wf_sweepWait
    | apply wf_thrNote
    | apply wf_passTurn
    | apply wf_visitEntry
    | apply KeepsWf.next
    | (intro (x : State); have hx : x.Inv; rotate_left; clear_value x; rotate_right; subst x)
    | intro x
    | lift_lets
    | split
    | dsimp only [State.Inv]

theorem wf_coldEnd : ∀ (s : State) (pool : ℕ) (m : ColdMove) (how : StepEnd), (s.Inv) → (@coldEnd s pool m how).Inv := by
  intros
  delta coldEnd
  with_reducible repeat'
    first
    | assumption
    | apply wf_State_modPool
    | apply wf_sweepOn
    | apply wf_dirEnd
    | (intro (x : State); have hx : x.Inv; rotate_left; clear_value x; rotate_right; subst x)
    | lift_lets
    | split

theorem wf_execColdMoveCopyDone : ∀ (pool : ℕ) (s : State), (s.Inv) → KeepsWf (@execColdMoveCopyDone pool s) := by
  intros
  delta execColdMoveCopyDone
  with_reducible repeat'
    first
    | assumption
    | apply wf_hwWrite
    | apply wf_hwNote
    | apply wf_setNarrow
    | apply wf_dropUpdates
    | apply wf_changeEntry
    | apply wf_coldEnd
    | apply wf_releaseSpace
    | apply wf_dirFault
    | apply wf_sweepWait
    | apply wf_freeze
    | apply wf_syncHeap
    | apply wf_setAlloc
    | apply KeepsWf.next
    | lift_lets
    | split
    | dsimp only [State.Inv]

theorem wf_sweepStamp : ∀ (s : State) (id : ℕ) (p : Pool) (q : Queue) (w : Sweep) (retried : ℕ), (s.Inv) → (@sweepStamp s id p q w retried).Inv := by
  intros
  delta sweepStamp
  with_reducible repeat'
    first
    | assumption
    | apply wf_sweepWait
    | apply wf_State_modPool
    | apply wf_writePieces
    | apply wf_thrNote
    | split

theorem wf_execSweepComplete : ∀ (pool : ℕ) (s : State), (s.Inv) → KeepsWf (@execSweepComplete pool s) := by
  intros
  delta execSweepComplete
  with_reducible repeat'
    first
    | assumption
    | apply wf_sweepStamp
    | apply wf_sweepSync
    | apply wf_State_modPool
    | apply KeepsWf.next
    | intro x
    | lift_lets
    | split
    | dsimp only [State.Inv]

theorem wf_Move_deny : ∀ (m : Move) (s : State) (q : Queue) (p : Piece), (m.st.Inv) → (s.Inv) → (@Move.deny m s q p).st.Inv := by
  intros
  delta Move.deny
  with_reducible repeat'
    first
    | assumption
    | (intro x; clear_value x)
    | lift_lets
    | split

theorem wf_copyRead : ∀ (m : Move) (qn : ℕ) (q : Queue) (die : ℕ) (retried : ℕ) (va : ℕ) (n : ℕ), (m.st.Inv) → (@copyRead m qn q die retried va n).1.st.Inv := by
  intros
  delta copyRead
  with_reducible repeat'
    first
    | assumption
    | apply wf_closeRead
    | apply wf_notePieces
    | apply wf_Move_deny
    | (intro (x : State); have hx : x.Inv; rotate_left; clear_value x; rotate_right; subst x)
    | lift_lets
    | split

theorem wf_copyWrite : ∀ (m : Move) (qn : ℕ) (q : Queue) (die : ℕ) (retried : ℕ) (va : ℕ) (bs : List Byte), (m.st.Inv) → (@copyWrite m qn q die retried va bs).st.Inv := by
  intros
  delta copyWrite
  with_reducible repeat'
    first
    | assumption
    | apply wf_notePieces
    | apply State.wf_write
    | (intro (x : State); have hx : x.Inv; rotate_left; clear_value x; rotate_right; subst x)
    | lift_lets
    | split

theorem wf_denyWriteAudit : ∀ (s : State) (o : Op) (q : Queue) (ps : List Piece), (s.Inv) → (@denyWriteAudit s o q ps).Inv := by
  intros
  delta denyWriteAudit
  with_reducible repeat'
    first
    | assumption
    | apply wf_opAudit
    | (intro x; clear_value x)
    | lift_lets
    | split

theorem wf_enterPage : ∀ (m : Move) (o : Op) (c : Copy) (q : Queue) (va : ℕ) (n : ℕ), (m.st.Inv) → (@enterPage m o c q va n).st.Inv := by
  intros
  delta enterPage
  with_reducible repeat'
    first
    | assumption
    | apply wf_denyWriteAudit
    | (intro x; clear_value x)
    | lift_lets
    | split

theorem wf_spadRead : ∀ (m : Move) (h : Home) (o : ℕ) (n : ℕ), (m.st.Inv) → (@spadRead m h o n).1.st.Inv := by
  intros
  delta spadRead
  with_reducible repeat'
    first
    | assumption
    | (intro (x : State); have hx : x.Inv; rotate_left; clear_value x; rotate_right; subst x)
    | lift_lets
    | split

theorem wf_spadWrite : ∀ (m : Move) (h : Home) (o : ℕ) (bs : List Byte), (m.st.Inv) → (@spadWrite m h o bs).st.Inv := by
  intros
  delta spadWrite
  with_reducible repeat'
    first
    | assumption
    | apply State.wf_write
    | split

theorem wf_movePart : ∀ (o : Op) (c : Copy) (q : Queue) (h : Home) (m : Move) (src : ℕ) (dst : ℕ) (n : ℕ), (m.st.Inv) → (@movePart o c q h m src dst n).st.Inv := by
  intros
  delta movePart
  with_reducible repeat'
    first
    | assumption
    | apply wf_copyRead
    | apply wf_spadRead
    | apply wf_enterPage
    | apply wf_copyWrite
    | apply wf_spadWrite
    | (intro x; clear_value x)
    | lift_lets
    | split
    | dsimp only [State.Inv]

theorem wf_moveRows : ∀ (o : Op) (c : Copy) (q : Queue) (h : Home) (m : Move), (m.st.Inv) → (@moveRows o c q h m).st.Inv := by
  intros
  delta moveRows
  with_reducible repeat'
    first
    | assumption
    | apply wf_movePart
    | apply wf_foldl_st
    | intro x

theorem wf_copyFault : ∀ (s : State) (id : ℕ) (o : Op) (c : Copy) (q : Queue) (va : ℕ) (l : ℕ) (e : ℕ) (write : Bool), (s.Inv) → (@copyFault s id o c q va l e write).Inv := by
  intros
  delta copyFault
  with_reducible repeat'
    first
    | assumption
    | apply wf_State_putOp
    | apply wf_addFault

theorem wf_Copy_auditRead : ∀ (s : State) (o : Op) (c : Copy) (den : Option (ℕ × ℕ × ℕ)), (s.Inv) → (@Copy.auditRead s o c den).1.Inv := by
  intros
  delta Copy.auditRead
  with_reducible repeat'
    first
    | assumption
    | apply wf_opAudit
    | split

theorem wf_deliverSingle : ∀ (s : State) (id : ℕ) (o : Op) (c : Copy) (q : Queue), (s.Inv) → (@deliverSingle s id o c q).Inv := by
  intros
  delta deliverSingle
  with_reducible repeat'
    first
    | assumption
    | apply wf_moveRows
    | apply wf_Copy_auditRead
    | apply wf_releaseLocks
    | apply wf_State_putOp
    | apply wf_copyFault
    | (intro (x : Move); have hx : x.st.Inv; rotate_left; clear_value x; rotate_right; subst x)
    | (intro x; subst x)
    | lift_lets
    | split

theorem wf_readSource : ∀ (o : Op) (c : Copy) (q : Queue) (s : State), (s.Inv) → (@readSource o c q s).1.st.Inv := by
  intros
  delta readSource
  with_reducible repeat'
    first
    | assumption
    | apply wf_copyRead
    | apply wf_spadRead
    | apply wf_foldl_fst_st
    | intro x
    | lift_lets
    | split
    | (apply wf_st_of_fst; assumption)

theorem wf_deliverTo : ∀ (s : State) (id : ℕ) (o : Op) (c : Copy) (bs : List Byte) (pos : ℕ), (s.Inv) → (@deliverTo s id o c bs pos).Inv := by
  intros
  delta deliverTo
  with_reducible repeat'
    first
    | assumption
    | apply wf_State_putOp
    | apply wf_releaseLocks
    | apply State.wf_write
    | (intro x; subst x)
    | lift_lets
    | split

theorem wf_deliverMulti : ∀ (s : State) (id : ℕ) (o : Op) (c : Copy) (q : Queue) (pos : ℕ), (s.Inv) → (@deliverMulti s id o c q pos).Inv := by
  intros
  delta deliverMulti
  with_reducible repeat'
    first
    | assumption
    | apply wf_deliverTo
    | apply wf_readSource
    | apply wf_Copy_auditRead
    | apply wf_releaseLocks
    | apply wf_State_putOp
    | apply wf_copyFault
    | lift_lets
    | split
    | (apply wf_of_fst; assumption)
    | (apply wf_st_of_fst; assumption)

theorem wf_execMulticastDelivery : ∀ (op : ℕ) (pos : ℕ) (s : State), (s.Inv) → KeepsWf (@execMulticastDelivery op pos s) := by
  intros
  delta execMulticastDelivery
  with_reducible repeat'
    first
    | assumption
    | apply wf_deliverMulti
    | apply wf_deliverSingle
    | apply KeepsWf.next
    | split

theorem wf_decrPiece : ∀ (s : State) (h : Home) (off : ℕ) (n : ℕ), (s.Inv) → (@decrPiece s h off n).1.Inv := by
  intros
  delta decrPiece
  with_reducible repeat'
    first
    | assumption
    | apply wf_decrBar
    | split

theorem wf_countBytes : ∀ (s : State) (id : ℕ) (o : Op) (c : Copy) (pos : ℕ) (n : ℕ), (s.Inv) → (@countBytes s id o c pos n).Inv := by
  intros
  delta countBytes
  with_reducible repeat'
    first
    | assumption
    | apply wf_decrPiece
    | apply wf_State_putOp
    | (intro x; clear_value x)
    | lift_lets
    | split

theorem wf_execBarrierDecrement : ∀ (op : ℕ) (pos : ℕ) (bytes : ℕ) (s : State), (s.Inv) → KeepsWf (@execBarrierDecrement op pos bytes s) := by
  intros
  delta execBarrierDecrement
  with_reducible repeat'
    first
    | assumption
    | apply wf_countBytes
    | apply KeepsWf.next
    | split

theorem wf_countAll : ∀ (s : State) (id : ℕ) (pos : ℕ) (a_0 : ℕ), (s.Inv) → (@countAll s id pos a_0).Inv := by
  intro s id pos a_0
  induction a_0 generalizing s with
  | zero =>
    intros
    unfold countAll
    with_reducible repeat'
      first
      | assumption
  | succ k ih =>
    intros
    unfold countAll
    with_reducible repeat'
      first
      | with_reducible apply ih
      | assumption
      | apply wf_countBytes
      | (intro x; subst x)
      | lift_lets
      | split

theorem wf_countRest : ∀ (s : State) (id : ℕ), (s.Inv) → (@countRest s id).Inv := by
  intros
  delta countRest
  with_reducible repeat'
    first
    | assumption
    | apply wf_countAll
    | apply wf_foldl
    | intro x
    | split

theorem wf_stampWrite : ∀ (s : State) (qn : ℕ) (q : Queue) (die : ℕ) (retried : ℕ) (va : DWord) (w : ℕ) (aud : State → ℕ → ℕ → ℕ → State), (s.Inv) → (∀ (a_3 : State) (a_2 : ℕ) (a_1 : ℕ) (a_0 : ℕ), a_3.Inv → (aud a_3 a_2 a_1 a_0).Inv) → KeepsWrote (@stampWrite s qn q die retried va w aud) := by
  intro s qn q die retried va w aud h0 h1
  delta stampWrite
  with_reducible repeat'
    first
    | assumption
    | apply wf_notePieces
    | apply h1
    | apply State.wf_writeNum
    | apply KeepsWrote.made
    | apply KeepsWrote.dropped
    | apply KeepsWrote.fault
    | apply KeepsWrote.held
    | split

theorem wf_opStampAudit : ∀ (o : Op) (s : State) (va : ℕ) (n : ℕ) (k : ℕ), (s.Inv) → (@opStampAudit o s va n k).Inv := by
  intros
  delta opStampAudit
  with_reducible repeat'
    first
    | assumption
    | apply wf_opAudit

theorem wf_execCopyOperationComplete : ∀ (op : ℕ) (s : State), (s.Inv) → KeepsWf (@execCopyOperationComplete op s) := by
  intros
  delta execCopyOperationComplete
  with_reducible repeat'
    first
    | assumption
    | apply wf_endOp
    | apply wf_countRest
    | apply wf_deliverSingle
    | apply wf_releaseLocks
    | apply wf_stampWrite
    | apply wf_opStampAudit
    | apply wf_copyFault
    | apply KeepsWf.next
    | (intro (x : State); have hx : x.Inv; rotate_left; clear_value x; rotate_right; subst x)
    | lift_lets
    | split
    | (apply KeepsWrote.of_made; assumption)
    | (apply KeepsWrote.of_dropped; assumption)

theorem wf_issueCopy : ∀ (s : State) (c : Ctx) (rs : List Rng) (v : Copy), (s.Inv) → (@issueCopy s c rs v).Inv := by
  intros
  delta issueCopy
  with_reducible repeat'
    first
    | assumption
    | apply wf_enterLocks
    | apply wf_releaseWrites
    | apply wf_finish
    | apply wf_State_named

theorem wf_copyUnit : ∀ (s : State) (c : Ctx) (v : Copy) (own : Bool) (extra : List Cond), (s.Inv) → (@copyUnit s c v own extra).Inv := by
  intros
  delta copyUnit
  with_reducible repeat'
    first
    | assumption
    | apply wf_takeTrap
    | apply wf_issueCopy
    | (intro x; clear_value x)
    | lift_lets
    | split

theorem wf_execCpy : ∀ (_l : BitVec 4) (k : BitVec 3) (t : BitVec 1) (b : BitVec 1) (d : BitVec 1) (sp : BitVec 1) (q : BitVec 2) (s : State), (s.Inv) → KeepsWf (@execCpy _l k t b d sp q s) := by
  intros
  delta execCpy
  with_reducible repeat'
    first
    | assumption
    | apply wf_issue
    | apply wf_copyUnit
    | intro x

theorem wf_execCpy2d : ∀ (_l : BitVec 4) (k : BitVec 3) (t : BitVec 1) (b : BitVec 1) (d : BitVec 1) (sp : BitVec 1) (q : BitVec 2) (s : State), (s.Inv) → KeepsWf (@execCpy2d _l k t b d sp q s) := by
  intros
  delta execCpy2d
  with_reducible repeat'
    first
    | assumption
    | apply wf_issue
    | apply wf_copyUnit
    | intro x

theorem wf_execCpym : ∀ (_l : BitVec 4) (k : BitVec 3) (t : BitVec 1) (b : BitVec 1) (sp : BitVec 1) (q : BitVec 2) (s : State), (s.Inv) → KeepsWf (@execCpym _l k t b sp q s) := by
  intros
  delta execCpym
  with_reducible repeat'
    first
    | assumption
    | apply wf_issue
    | apply wf_copyUnit
    | intro x

theorem wf_State_modChannel : ∀ (s : State) (key : ℕ) (ch : ℕ) (f : Channel → Channel), (s.Inv) → (@State.modChannel s key ch f).Inv := by
  intros
  delta State.modChannel
  with_reducible repeat'
    first
    | assumption
    | apply wf_State_modTeam

theorem wf_chainFault : ∀ (s : State) (key : ℕ) (ch : ℕ) (t : Team) (q : Queue) (va : ℕ) (l : ℕ) (e : ℕ) (write : Bool), (s.Inv) → (@chainFault s key ch t q va l e write).Inv := by
  intros
  delta chainFault
  with_reducible repeat'
    first
    | assumption
    | apply wf_State_modChannel
    | apply wf_addFault

theorem wf_chainClose : ∀ (s : State) (key : ℕ) (ch : ℕ), (s.Inv) → (@chainClose s key ch).Inv := by
  intros
  delta chainClose
  with_reducible repeat'
    first
    | assumption
    | apply wf_State_modChannel

theorem wf_chainStamp : ∀ (s : State) (key : ℕ) (ch : ℕ), (s.Inv) → (@chainStamp s key ch).Inv := by
  intros
  delta chainStamp
  with_reducible repeat'
    first
    | assumption
    | apply wf_stampWrite
    | apply wf_opStampAudit
    | apply wf_chainClose
    | apply wf_chainFault
    | (intro x; subst x)
    | lift_lets
    | split
    | (apply KeepsWrote.of_made; assumption)
    | (apply KeepsWrote.of_dropped; assumption)
    | dsimp only [State.Inv]

theorem wf_chainEnd : ∀ (s : State) (key : ℕ) (ch : ℕ) (cause : ℕ), (s.Inv) → (@chainEnd s key ch cause).Inv := by
  intros
  delta chainEnd
  with_reducible repeat'
    first
    | assumption
    | apply wf_chainStamp
    | apply wf_State_modChannel

theorem wf_backEnd : ∀ (s : State) (key : ℕ) (ch : ℕ) (cause : ℕ) (rstat : ℕ), (s.Inv) → (@backEnd s key ch cause rstat).Inv := by
  intros
  delta backEnd
  with_reducible repeat'
    first
    | assumption
    | apply wf_chainEnd
    | apply wf_stampWrite
    | apply wf_opStampAudit
    | apply wf_chainFault
    | (intro x; subst x)
    | lift_lets
    | split
    | (apply KeepsWrote.of_made; assumption)
    | (apply KeepsWrote.of_dropped; assumption)

theorem wf_startRec : ∀ (s : State) (key : ℕ) (ch : ℕ) (t : Team) (q : Queue) (r : Rec), (s.Inv) → (@startRec s key ch t q r).Inv := by
  intros
  delta startRec
  with_reducible repeat'
    first
    | assumption
    | apply wf_enterLocks
    | apply wf_State_modTeam
    | apply wf_State_named
    | apply wf_State_modChannel
    | lift_lets
    | split

theorem wf_fetchedRec : ∀ (s : State) (key : ℕ) (ch : ℕ) (t : Team) (q : Queue) (w : ℕ), (s.Inv) → (@fetchedRec s key ch t q w).Inv := by
  intros
  delta fetchedRec
  with_reducible repeat'
    first
    | assumption
    | apply wf_State_modChannel
    | apply wf_chainEnd
    | apply wf_backEnd
    | apply wf_startRec
    | (intro (x : State); have hx : x.Inv; rotate_left; clear_value x; rotate_right; subst x)
    | (intro x; clear_value x)
    | lift_lets
    | split

theorem wf_fetchRec : ∀ (s : State) (key : ℕ) (ch : ℕ) (t : Team) (q : Queue), (s.Inv) → (@fetchRec s key ch t q).Inv := by
  intros
  delta fetchRec
  with_reducible repeat'
    first
    | assumption
    | apply wf_chainFault
    | apply wf_chainEnd
    | apply wf_opAudit
    | apply wf_notePieces
    | apply wf_closeRead
    | apply wf_fetchedRec
    | (intro (x : State); have hx : x.Inv; rotate_left; clear_value x; rotate_right; subst x)
    | (intro x; clear_value x)
    | lift_lets
    | split

theorem wf_execChainRecordFetch : ∀ (team : ℕ) (ch : ℕ) (s : State), (s.Inv) → KeepsWf (@execChainRecordFetch team ch s) := by
  intros
  delta execChainRecordFetch
  with_reducible repeat'
    first
    | assumption
    | apply wf_chainStamp
    | apply wf_fetchRec
    | apply KeepsWf.next
    | (intro x; clear_value x)
    | lift_lets
    | split

theorem wf_execChainWaitTimeout : ∀ (team : ℕ) (ch : ℕ) (s : State), (s.Inv) → KeepsWf (@execChainWaitTimeout team ch s) := by
  intros
  delta execChainWaitTimeout
  with_reducible repeat'
    first
    | assumption
    | apply wf_State_modChannel
    | apply wf_State_chosen
    | apply KeepsWf.next
    | (intro x; clear_value x)
    | lift_lets
    | split

theorem wf_afterRec : ∀ (s : State) (key : ℕ) (ch : ℕ) (cause : ℕ), (s.Inv) → (@afterRec s key ch cause).Inv := by
  intros
  delta afterRec
  with_reducible repeat'
    first
    | assumption
    | apply wf_chainEnd
    | apply wf_State_modChannel
    | (intro x; clear_value x)
    | lift_lets
    | split

theorem wf_backRec : ∀ (s : State) (id : ℕ) (key : ℕ) (ch : ℕ) (q : Queue) (o : Op) (c : Copy), (s.Inv) → (@backRec s id key ch q o c).Inv := by
  intros
  delta backRec
  with_reducible repeat'
    first
    | assumption
    | apply wf_endOp
    | apply wf_stampWrite
    | apply wf_opStampAudit
    | apply wf_afterRec
    | apply wf_State_modChannel
    | apply wf_copyFault
    | (intro x; subst x)
    | lift_lets
    | split
    | (apply KeepsWrote.of_made; assumption)
    | (apply KeepsWrote.of_dropped; assumption)

theorem wf_closeRec : ∀ (s : State) (id : ℕ) (key : ℕ) (ch : ℕ) (q : Queue) (o : Op) (c : Copy), (s.Inv) → (@closeRec s id key ch q o c).Inv := by
  intros
  delta closeRec
  with_reducible repeat'
    first
    | assumption
    | apply wf_backRec
    | apply wf_stampWrite
    | apply wf_opStampAudit
    | apply wf_State_putOp
    | apply wf_copyFault
    | (intro x; subst x)
    | lift_lets
    | split
    | (apply KeepsWrote.of_made; assumption)
    | (apply KeepsWrote.of_dropped; assumption)

theorem wf_execChainRecordComplete : ∀ (team : ℕ) (ch : ℕ) (s : State), (s.Inv) → KeepsWf (@execChainRecordComplete team ch s) := by
  intros
  delta execChainRecordComplete
  with_reducible repeat'
    first
    | assumption
    | apply wf_chainStamp
    | apply wf_countRest
    | apply wf_deliverSingle
    | apply wf_closeRec
    | apply wf_releaseLocks
    | apply KeepsWf.next
    | (intro (x : State); have hx : x.Inv; rotate_left; clear_value x; rotate_right; subst x)
    | (intro x; clear_value x)
    | lift_lets
    | split

theorem wf_execCpyc : ∀ (_l : BitVec 4) (k : BitVec 3) (t : BitVec 1) (a : BitVec 4) (ch : BitVec 2) (s : State), (s.Inv) → KeepsWf (@execCpyc _l k t a ch s) := by
  intros
  delta execCpyc
  with_reducible repeat'
    first
    | assumption
    | apply wf_issue
    | apply wf_takeTrap
    | apply wf_finish
    | apply wf_State_modChannel
    | apply wf_releaseWrites
    | (intro x; clear_value x)
    | intro x
    | lift_lets
    | split

theorem wf_execCpyst : ∀ (_l : BitVec 4) (d : BitVec 4) (ch : BitVec 2) (s : State), (s.Inv) → KeepsWf (@execCpyst _l d ch s) := by
  intros
  delta execCpyst
  with_reducible repeat'
    first
    | assumption
    | apply wf_issue
    | apply wf_unit
    | intro x

theorem wf_cancelChain : ∀ (s : State) (key : ℕ) (ch : ℕ) (unit : Bool), (s.Inv) → (@cancelChain s key ch unit).Inv := by
  intros
  delta cancelChain
  with_reducible repeat'
    first
    | assumption
    | apply wf_State_modChannel
    | apply wf_chainEnd
    | split

theorem wf_execCpyx : ∀ (_l : BitVec 4) (ch : BitVec 2) (s : State), (s.Inv) → KeepsWf (@execCpyx _l ch s) := by
  intros
  delta execCpyx
  with_reducible repeat'
    first
    | assumption
    | apply wf_issue
    | apply wf_finish
    | apply wf_cancelChain
    | intro x

theorem wf_State_putLink : ∀ (s : State) (id : ℕ) (o : Op) (l : Link), (s.Inv) → (@State.putLink s id o l).Inv := by
  intros
  delta State.putLink
  with_reducible repeat'
    first
    | assumption
    | apply wf_State_putOp

theorem wf_issueLink : ∀ (s : State) (c : Ctx) (look : ℕ) (l : Link), (s.Inv) → (@issueLink s c look l).Inv := by
  intros
  delta issueLink
  with_reducible repeat'
    first
    | assumption
    | apply wf_beginOp
    | apply wf_finish

theorem wf_linkFault : ∀ (s : State) (id : ℕ) (o : Op) (l : Link) (q : Queue) (va : ℕ) (level : ℕ) (e : ℕ) (write : Bool), (s.Inv) → (@linkFault s id o l q va level e write).Inv := by
  intros
  delta linkFault
  with_reducible repeat'
    first
    | assumption
    | apply wf_State_putLink
    | apply wf_addFault

theorem wf_execLld : ∀ (l : BitVec 4) (d : BitVec 6) (a : BitVec 5) (p : BitVec 4) (z : BitVec 2) (s : State), (s.Inv) → KeepsWf (@execLld l d a p z s) := by
  intros
  delta execLld
  with_reducible repeat'
    first
    | assumption
    | apply wf_issue
    | apply wf_takeTrap
    | apply wf_askRegs
    | apply wf_sendReqs
    | apply wf_releaseWrites
    | apply wf_beginLoad
    | (intro x; clear_value x)
    | intro x
    | lift_lets
    | split

theorem wf_execLgat : ∀ (l : BitVec 4) (d : BitVec 3) (a : BitVec 5) (p : BitVec 4) (q : BitVec 2) (n : BitVec 1) (s : State), (s.Inv) → KeepsWf (@execLgat l d a p q n s) := by
  intros
  delta execLgat
  with_reducible repeat'
    first
    | assumption
    | apply wf_issue
    | apply wf_takeTrap
    | apply wf_sendReqs
    | apply wf_releaseWrites
    | apply wf_enterLocks
    | apply wf_issueLink
    | (intro x; clear_value x)
    | intro x
    | lift_lets
    | split

theorem wf_readLocal : ∀ (o : Op) (l : Link) (q : Queue) (s : State) (ps : List (ℕ × ℕ)), (s.Inv) → (@readLocal o l q s ps).mv.st.Inv := by
  intros
  delta readLocal
  with_reducible repeat'
    first
    | assumption
    | apply wf_copyRead
    | apply wf_spadRead
    | apply wf_foldl_mv
    | (intro x; clear_value x)
    | intro x
    | lift_lets
    | split
    | (apply wf_st_of_fst; assumption)
    | dsimp only [State.Inv]

theorem wf_outAudit : ∀ (s : State) (o : Op) (l : Link) (den : Option (ℕ × ℕ × ℕ)), (s.Inv) → (@outAudit s o l den).1.Inv := by
  intros
  delta outAudit
  with_reducible repeat'
    first
    | assumption
    | apply wf_opAudit
    | split

theorem wf_sendData : ∀ (s : State) (q : Queue) (o : Op) (l : Link) (dev : ℕ) (rq : ℕ) (kind : ℕ) (a_0 : List (ℕ × ℕ × Runs × List Byte)), (s.Inv) → (@sendData s q o l dev rq kind a_0).1.Inv := by
  intro s q o l dev rq kind a_0
  induction a_0 generalizing s with
  | nil =>
    intros
    unfold sendData
    with_reducible repeat'
      first
      | assumption
  | cons x t ih =>
    intros
    unfold sendData
    with_reducible repeat'
      first
      | with_reducible apply ih
      | assumption
      | apply wf_sendReqs

theorem wf_beginSend : ∀ (s : State) (id : ℕ) (o : Op) (l : Link) (q : Queue), (s.Inv) → (@beginSend s id o l q).Inv := by
  intros
  delta beginSend
  with_reducible repeat'
    first
    | assumption
    | apply wf_readLocal
    | apply wf_linkFault
    | apply wf_outAudit
    | apply wf_sendData
    | apply wf_State_putLink
    | apply wf_releaseLocks
    | (intro (x : Sending); have hx : x.mv.st.Inv; rotate_left; clear_value x; rotate_right; subst x)
    | lift_lets
    | split
    | (apply wf_of_fst; assumption)

theorem wf_sendUnit : ∀ (s : State) (c : Ctx) (look : ℕ) (red : Bool) (v : Link) (q : BitVec 2), (s.Inv) → (@sendUnit s c look red v q).Inv := by
  intros
  delta sendUnit
  with_reducible repeat'
    first
    | assumption
    | apply wf_takeTrap
    | apply wf_enterLocks
    | apply wf_releaseWrites
    | apply wf_issueLink
    | apply wf_beginSend
    | (intro (x : State); have hx : x.Inv; rotate_left; clear_value x; rotate_right; subst x)
    | (intro x; clear_value x)
    | lift_lets
    | split

theorem wf_execLwr : ∀ (l : BitVec 4) (p : BitVec 4) (q : BitVec 2) (sp : BitVec 1) (t : BitVec 1) (r : BitVec 1) (k : BitVec 3) (s : State), (s.Inv) → KeepsWf (@execLwr l p q sp t r k s) := by
  intros
  delta execLwr
  with_reducible repeat'
    first
    | assumption
    | apply wf_issue
    | apply wf_sendUnit
    | intro x

theorem wf_execLred : ∀ (l : BitVec 4) (p : BitVec 4) (q : BitVec 2) (sp : BitVec 1) (t : BitVec 1) (r : BitVec 1) (k : BitVec 3) (y : BitVec 2) (s : State), (s.Inv) → KeepsWf (@execLred l p q sp t r k y s) := by
  intros
  delta execLred
  with_reducible repeat'
    first
    | assumption
    | apply wf_issue
    | apply wf_sendUnit
    | intro x

theorem wf_rankReqs : ∀ (s : State) (q : Queue) (qn : ℕ) (c : Coll) (data : List Byte) (runs : Runs) (a_0 : List ℕ), (s.Inv) → (@rankReqs s q qn c data runs a_0).1.Inv := by
  intro s q qn c data runs a_0
  induction a_0 generalizing s with
  | nil =>
    intros
    unfold rankReqs
    with_reducible repeat'
      first
      | assumption
  | cons x t ih =>
    intros
    unfold rankReqs
    with_reducible repeat'
      first
      | with_reducible apply ih
      | assumption
      | apply wf_sendReqs

theorem wf_dropContributions : ∀ (s : State) (id : ℕ) (o : Op) (l : Link), (s.Inv) → (@dropContributions s id o l).Inv := by
  intros
  delta dropContributions
  with_reducible repeat'
    first
    | assumption

theorem wf_beginReduce : ∀ (s : State) (id : ℕ) (o : Op) (l : Link) (q : Queue), (s.Inv) → (@beginReduce s id o l q).Inv := by
  intros
  delta beginReduce
  with_reducible repeat'
    first
    | assumption
    | apply wf_readLocal
    | apply wf_linkFault
    | apply wf_outAudit
    | apply wf_releaseLocks
    | apply State.wf_write
    | apply wf_dropContributions
    | apply wf_State_putLink
    | apply wf_rankReqs
    | apply wf_foldl_mv
    | (intro (x : Sending); have hx : x.mv.st.Inv; rotate_left; clear_value x; rotate_right; subst x)
    | (refine wf_of_fst (by assumption) ?_)
    | (intro x; clear_value x)
    | intro x
    | lift_lets
    | split

theorem wf_execMxr : ∀ (l : BitVec 4) (f : BitVec 3) (q : BitVec 2) (t : BitVec 1) (k : BitVec 3) (s : State), (s.Inv) → KeepsWf (@execMxr l f q t k s) := by
  intros
  delta execMxr
  with_reducible repeat'
    first
    | assumption
    | apply wf_issue
    | apply wf_takeTrap
    | apply wf_denialEvent
    | apply wf_takeFault
    | apply wf_noteLooks
    | apply wf_settle
    | apply wf_releaseWrites
    | apply wf_enterLocks
    | apply wf_issueLink
    | apply wf_beginReduce
    | (intro (x : State); have hx : x.Inv; rotate_left; clear_value x; rotate_right; subst x)
    | (intro x; clear_value x)
    | intro x
    | lift_lets
    | split

theorem wf_inAudit : ∀ (s : State) (o : Op) (whole : Option (BitVec 32)) (rs : List LinkReq), (s.Inv) → (@inAudit s o whole rs).Inv := by
  intros
  delta inAudit
  with_reducible repeat'
    first
    | assumption
    | apply wf_opAuditL
    | split

theorem wf_linkTrap : ∀ (s : State) (id : ℕ) (o : Op) (l : Link) (t : Cond), (s.Inv) → (@linkTrap s id o l t).Inv := by
  intros
  delta linkTrap
  with_reducible repeat'
    first
    | assumption
    | apply wf_takeTrap
    | apply wf_State_putLink

theorem wf_gatherRows : ∀ (s : State) (o : Op) (l : Link) (t : Team), (s.Inv) → (@gatherRows s o l t).Inv := by
  intros
  delta gatherRows
  with_reducible repeat'
    first
    | assumption
    | apply wf_opWrites
    | apply State.wf_write
    | apply wf_foldl
    | (intro x; clear_value x)
    | intro x
    | lift_lets
    | split

theorem wf_gatherDone : ∀ (s : State) (id : ℕ) (o : Op) (l : Link) (c : Ctx), (s.Inv) → (@gatherDone s id o l c).Inv := by
  intros
  delta gatherDone
  with_reducible repeat'
    first
    | assumption
    | apply wf_inAudit
    | apply wf_gatherRows
    | apply wf_endOp
    | apply wf_linkTrap
    | apply wf_releaseLocks
    | (intro (x : State); have hx : x.Inv; rotate_left; clear_value x; rotate_right; subst x)
    | lift_lets
    | split

theorem wf_refDone : ∀ (s : State) (id : ℕ) (o : Op) (l : Link) (c : Ctx), (s.Inv) → (@refDone s id o l c).Inv := by
  intros
  delta refDone
  with_reducible repeat'
    first
    | assumption
    | apply wf_linkTrap
    | apply wf_takeFault
    | apply wf_State_putLink
    | apply wf_endOp
    | apply wf_opWrites
    | apply wf_inAudit
    | (intro x; clear_value x)
    | lift_lets
    | split

theorem wf_waitAudit : ∀ (s : State) (o : Op) (l : Link), (s.Inv) → (@waitAudit s o l).Inv := by
  intros
  delta waitAudit
  with_reducible repeat'
    first
    | assumption
    | apply wf_inAudit
    | split

theorem wf_waitDone : ∀ (s : State) (id : ℕ) (o : Op) (l : Link) (c : Ctx), (s.Inv) → (@waitDone s id o l c).Inv := by
  intro s id o l c h
  have e : waitDone s id o l c =
      if reached (natOfBytes (l.reqs.flatMap LinkReq.bytes)) l.dst then
        (if returnWaits s c id then s
         else endOp (opWrites (waitAudit s o l) o { k := waitWrites l.vd (natOfBytes (l.reqs.flatMap LinkReq.bytes)) }) id)
      else (waitAudit s o l).putOp id { o with body := l.asWait (l.audited || l.reqs.any (fun r => r.denied.isSome)) } := rfl
  have h1 := wf_waitAudit s o l h
  exact inv_of_eq e (inv_ite (inv_ite h (wf_endOp _ _ (wf_opWrites _ _ _ h1))) (wf_State_putOp _ _ _ h1))

theorem wf_storeDone : ∀ (s : State) (id : ℕ) (o : Op) (l : Link) (c : Ctx), (s.Inv) → (@storeDone s id o l c).Inv := by
  intros
  delta storeDone
  with_reducible repeat'
    first
    | assumption
    | apply wf_endOp
    | apply State.wf_write
    | apply wf_inAudit
    | apply wf_foldl
    | (intro x; clear_value x)
    | intro x
    | lift_lets
    | split

theorem wf_appendRecord : ∀ (s : State) (t : ℕ) (bs : List Byte), (s.Inv) → (@appendRecord s t bs).1.Inv := by
  intros
  delta appendRecord
  with_reducible repeat'
    first
    | assumption
    | apply State.wf_write
    | apply wf_State_putQueue
    | intro x
    | lift_lets
    | split

theorem wf_laneDone : ∀ (s : State) (id : ℕ) (o : Op) (l : Link) (c : Ctx), (s.Inv) → (@laneDone s id o l c).Inv := by
  intros
  delta laneDone
  with_reducible repeat'
    first
    | assumption
    | apply wf_freeWord
    | apply wf_linkTrap
    | apply wf_refDone
    | apply wf_waitDone
    | apply wf_storeDone
    | apply wf_appendRecord
    | apply wf_inAudit
    | apply wf_endOp
    | apply wf_opWrites
    | (refine wf_of_fst (by assumption) ?_)
    | (intro (x : State × _); have hx : x.1.Inv; rotate_left; clear_value x; rotate_right; subst x)
    | intro x
    | lift_lets
    | split

theorem wf_linkStamp : ∀ (s : State) (id : ℕ) (o : Op) (l : Link) (q : Queue), (s.Inv) → (@linkStamp s id o l q).Inv := by
  intros
  delta linkStamp
  with_reducible repeat'
    first
    | assumption
    | apply wf_releaseLocks
    | apply wf_endOp
    | apply wf_stampWrite
    | apply wf_opAudit
    | apply wf_linkFault
    | apply wf_State_putLink
    | (intro (x : State); have hx : x.Inv; rotate_left; clear_value x; rotate_right; subst x)
    | intro x
    | lift_lets
    | split
    | (apply KeepsWrote.of_made; assumption)
    | (apply KeepsWrote.of_dropped; assumption)

theorem wf_sendDone : ∀ (s : State) (id : ℕ) (o : Op) (l : Link) (q : Queue), (s.Inv) → (@sendDone s id o l q).Inv := by
  intros
  delta sendDone
  with_reducible repeat'
    first
    | assumption
    | apply wf_endOp
    | apply wf_sendReqs
    | apply wf_State_putLink
    | apply wf_linkStamp
    | (intro x; clear_value x)
    | lift_lets
    | split

theorem wf_writeLocal : ∀ (s : State) (qn : ℕ) (q : Queue) (die : ℕ) (retried : ℕ) (va : ℕ) (bs : List Byte), (s.Inv) → (@writeLocal s qn q die retried va bs).1.Inv := by
  intros
  delta writeLocal
  with_reducible repeat'
    first
    | assumption
    | apply wf_writePieces
    | apply wf_notePieces
    | (intro x; clear_value x)
    | lift_lets
    | split

theorem wf_takeContributions : ∀ (s : State) (o : Op) (l : Link) (q : Queue) (xs : List Contribution), (s.Inv) → (@takeContributions s o l q xs).Inv := by
  intros
  delta takeContributions
  with_reducible repeat'
    first
    | assumption
    | apply wf_inAudit

theorem wf_reduceDone : ∀ (s : State) (id : ℕ) (o : Op) (l : Link) (q : Queue), (s.Inv) → (@reduceDone s id o l q).Inv := by
  intros
  delta reduceDone
  with_reducible repeat'
    first
    | assumption
    | apply wf_linkStamp
    | apply wf_dropContributions
    | apply wf_takeContributions
    | apply wf_writeLocal
    | apply wf_linkFault
    | (refine wf_of_fst (by assumption) ?_)
    | (intro x; clear_value x)
    | intro x
    | lift_lets
    | split

theorem wf_readAgain : ∀ (s : State) (id : ℕ) (o : Op) (l : Link) (c : Ctx), (s.Inv) → (@readAgain s id o l c).Inv := by
  intros
  delta readAgain
  with_reducible repeat'
    first
    | assumption
    | apply wf_linkTrap
    | apply wf_sendReqs
    | apply wf_enterLocks
    | apply wf_State_putLink
    | (refine wf_of_fst (by assumption) ?_)
    | (intro x; clear_value x)
    | intro x
    | lift_lets
    | split

theorem wf_windowAgain : ∀ (s : State) (id : ℕ) (o : Op) (l : Link) (c : Ctx), (s.Inv) → (@windowAgain s id o l c).Inv := by
  intros
  delta windowAgain
  with_reducible repeat'
    first
    | assumption
    | apply wf_linkTrap
    | apply wf_noteWalks
    | apply wf_takeFault
    | apply wf_windowBegin
    | apply wf_State_putLink
    | (refine wf_of_fst (by assumption) ?_)
    | (intro x; clear_value x)
    | intro x
    | lift_lets
    | split

theorem wf_linkAgain : ∀ (s : State) (id : ℕ) (o : Op) (l : Link), (s.Inv) → (@linkAgain s id o l).Inv := by
  intros
  delta linkAgain
  with_reducible repeat'
    first
    | assumption
    | apply wf_readAgain
    | apply wf_State_putOp
    | apply wf_windowAgain
    | intro x
    | lift_lets
    | split

theorem wf_execLinkOperationComplete : ∀ (op : ℕ) (s : State), (s.Inv) → KeepsWf (@execLinkOperationComplete op s) := by
  intros
  delta execLinkOperationComplete
  with_reducible repeat'
    first
    | assumption
    | apply wf_endOp
    | apply wf_beginSend
    | apply wf_beginReduce
    | apply wf_linkAgain
    | apply wf_sendDone
    | apply wf_reduceDone
    | apply wf_gatherDone
    | apply wf_laneDone
    | apply KeepsWf.next
    | intro x
    | lift_lets
    | split

theorem wf_execMxrTimeout : ∀ (op : ℕ) (s : State), (s.Inv) → KeepsWf (@execMxrTimeout op s) := by
  intros
  delta execMxrTimeout
  with_reducible repeat'
    first
    | assumption
    | apply wf_endOp
    | apply wf_linkStamp
    | apply wf_dropContributions
    | apply KeepsWf.next
    | (intro x; clear_value x)
    | intro x
    | lift_lets
    | split

theorem wf_receiveAll : ∀ (s : State) (h : BitVec 160) (bs : List Byte), (s.Inv) → (@receiveAll s h bs).Inv := by
  intros
  delta receiveAll
  with_reducible repeat'
    first
    | assumption

theorem wf_heard : ∀ (s : State) (port : ℕ), (s.Inv) → (@heard s port).Inv := by
  intros
  delta heard
  with_reducible repeat'
    first
    | assumption

theorem wf_takeMail (s : State) (dev : ℕ) (payload : List Byte) (h : s.Inv) : (@takeMail s dev payload).Inv := by
  unfold takeMail
  exact inv_ite h (inv_ite h h)

theorem wf_execFlitArrival : ∀ (port : ℕ) (h : BitVec 160) (payload : List Byte) (checkOk : Bool) (s : State), (s.Inv) → KeepsWf (@execFlitArrival port h payload checkOk s) := by
  intros
  delta execFlitArrival
  with_reducible repeat'
    first
    | assumption
    | apply wf_heard
    | apply wf_receiveAll
    | apply wf_takeMail
    | apply KeepsWf.next
    | (intro (x : State); have hx : x.Inv; rotate_left; clear_value x; rotate_right; subst x)
    | (intro x; clear_value x)
    | intro x
    | lift_lets
    | split

theorem wf_rerouteReqs : ∀ (s : State) (qn : ℕ) (q : Queue) (port : ℕ) (a_0 : List LinkReq), (s.Inv) → (@rerouteReqs s qn q port a_0).1.Inv := by
  intro s qn q port a_0
  induction a_0 generalizing s with
  | nil =>
    intros
    unfold rerouteReqs
    with_reducible repeat'
      first
      | assumption
  | cons x t ih =>
    intros
    unfold rerouteReqs
    with_reducible repeat'
      first
      | with_reducible apply ih
      | assumption
      | apply wf_sendReq
      | (intro x; subst x)
      | lift_lets
      | split

theorem wf_portFails : ∀ (s : State) (port : ℕ), (s.Inv) → (@portFails s port).Inv := by
  intros
  delta portFails
  with_reducible repeat'
    first
    | assumption
    | apply wf_rerouteReqs
    | apply wf_State_putLink
    | apply wf_foldl
    | intro x
    | lift_lets
    | split

theorem wf_execPortFailure : ∀ (port : ℕ) (s : State), (s.Inv) → KeepsWf (@execPortFailure port s) := by
  intros
  delta execPortFailure
  with_reducible repeat'
    first
    | assumption
    | apply wf_portFails
    | apply KeepsWf.next

theorem wf_execLinkRetryTimeout : ∀ (op : ℕ) (lane : ℕ) (s : State), (s.Inv) → KeepsWf (@execLinkRetryTimeout op lane s) := by
  intros
  delta execLinkRetryTimeout
  with_reducible repeat'
    first
    | assumption
    | apply wf_State_putLink
    | apply KeepsWf.next
    | split

theorem wf_peerAudit : ∀ (s : State) (r : PeerReq) (va : ℕ) (count : ℕ) (cls : ℕ) (kind : ℕ), (s.Inv) → (@peerAudit s r va count cls kind).Inv := by
  intros
  delta peerAudit
  with_reducible repeat'
    first
    | assumption
    | apply wf_freeWord
    | apply wf_audit

theorem wf_peerDenies : ∀ (s : State) (r : PeerReq) (q : Queue) (ps : List Piece) (kind : ℕ), (s.Inv) → (@peerDenies s r q ps kind).Inv := by
  intros
  delta peerDenies
  with_reducible repeat'
    first
    | assumption
    | apply wf_peerAudit
    | split

theorem wf_peerAct : ∀ (s : State) (r : PeerReq) (q : Queue) (ps : List Piece), (s.Inv) → (@peerAct s r q ps).1.Inv := by
  intros
  delta peerAct
  with_reducible repeat'
    first
    | assumption
    | apply wf_closeRead
    | apply wf_notePieces
    | apply wf_writePieces
    | apply wf_foldl
    | (intro (x : State); have hx : x.Inv; rotate_left; clear_value x; rotate_right; subst x)
    | (intro x; clear_value x)
    | intro x
    | lift_lets
    | split

theorem wf_peerAnswer : ∀ (s : State) (r : PeerReq) (q : Queue), (s.Inv) → KeepsSomeFst (@peerAnswer s r q) := by
  intros
  delta peerAnswer
  with_reducible repeat'
    first
    | assumption
    | apply wf_peerAudit
    | apply wf_peerDenies
    | apply wf_peerAct
    | apply KeepsSomeFst.none
    | apply KeepsSomeFst.some
    | (intro x; clear_value x)
    | lift_lets
    | split

theorem wf_respond : ∀ (s : State) (r : PeerReq) (q : Queue) (x : Remote), (s.Inv) → (@respond s r q x).Inv := by
  intros
  delta respond
  with_reducible repeat'
    first
    | assumption

theorem wf_execPeerRequest : ∀ (r : PeerReq) (s : State), (s.Inv) → KeepsWf (@execPeerRequest r s) := by
  intros
  delta execPeerRequest
  with_reducible repeat'
    first
    | assumption
    | apply wf_respond
    | apply wf_peerAnswer
    | apply KeepsWf.next
    | lift_lets
    | split
    | (apply KeepsSomeFst.of; assumption)
    | dsimp only [State.Inv]

theorem wf_remoteReply : ∀ (s : State) (dev : ℕ) (x : Reply), (s.Inv) → (@remoteReply s dev x).Inv := by
  intros
  delta remoteReply
  with_reducible repeat'
    first
    | assumption
    | (intro x; clear_value x)
    | intro x
    | lift_lets
    | split

theorem wf_addReply : ∀ (s : State) (m : Master) (tag : BitVec 32) (status : ℕ) (r : List DWord), (s.Inv) → (@addReply s m tag status r).Inv := by
  intros
  delta addReply
  with_reducible repeat'
    first
    | assumption
    | apply State.wf_writeNum
    | apply wf_State_irq
    | apply wf_remoteReply
    | (intro (x : State); have hx : x.Inv; rotate_left; clear_value x; rotate_right; subst x)
    | (intro x; clear_value x)
    | intro x
    | lift_lets
    | split

theorem wf_secondReply : ∀ (s : State) (cmd : Option (Master × BitVec 32)) (r : List DWord), (s.Inv) → (@secondReply s cmd r).Inv := by
  intros
  delta secondReply
  with_reducible repeat'
    first
    | assumption
    | apply wf_addReply
    | split

theorem wf_execObjectFree : ∀ (r : ℕ) (s : State), (s.Inv) → KeepsWf (@execObjectFree r s) := by
  intros
  delta execObjectFree
  with_reducible repeat'
    first
    | assumption
    | apply wf_syncHeap
    | apply wf_dropNarrow
    | apply wf_setAlloc
    | apply KeepsWf.next
    | (intro (x : State); have hx : x.Inv; rotate_left; clear_value x; rotate_right; subst x)
    | lift_lets
    | split

theorem wf_startCycle : ∀ (s : State) (qn : ℕ) (set : List (ℕ × ℕ)) (cmd : Option (Master × BitVec 32)), (s.Inv) → (@startCycle s qn set cmd).Inv := by
  intros
  delta startCycle
  with_reducible repeat'
    first
    | assumption
    | apply wf_putHeader
    | apply wf_writeFwd
    | apply wf_syncHeap
    | apply wf_foldl
    | intro x
    | lift_lets
    | split
    | dsimp only [State.Inv]

theorem wf_execRelocAutoStart : ∀ (q : ℕ) (set : List (ℕ × ℕ)) (s : State), (s.Inv) → KeepsWf (@execRelocAutoStart q set s) := by
  intros
  delta execRelocAutoStart
  with_reducible repeat'
    first
    | assumption
    | apply wf_startCycle
    | apply KeepsWf.next
    | lift_lets
    | split
    | dsimp only [State.Inv]

theorem wf_cycleStep : ∀ (s : State) (qn : ℕ) (st : RelState) (f : Heap → Queue → RelCycle → State), (s.Inv) → (∀ (a_2 : Heap) (a_1 : Queue) (a_0 : RelCycle), (f a_2 a_1 a_0).Inv) → KeepsWf (@cycleStep s qn st f) := by
  intro s qn st f h0 h1
  delta cycleStep
  with_reducible repeat'
    first
    | assumption
    | apply h1
    | apply KeepsWf.next
    | split

theorem wf_putCycle : ∀ (s : State) (qn : ℕ) (h : Heap) (c : Option RelCycle), (s.Inv) → (@putCycle s qn h c).Inv := by
  intros
  delta putCycle
  with_reducible repeat'
    first
    | assumption
    | apply wf_syncHeap

theorem wf_copyBody : ∀ (s : State) (qn : ℕ) (q : Queue) (o : RelObj), (s.Inv) → (@copyBody s qn q o).Inv := by
  intros
  delta copyBody
  with_reducible repeat'
    first
    | assumption
    | apply wf_closeWcs
    | apply wf_hwWrite
    | apply wf_hwNote
    | lift_lets
    | split

theorem wf_execRelocCopyDone : ∀ (q : ℕ) (s : State), (s.Inv) → KeepsWf (@execRelocCopyDone q s) := by
  intros
  delta execRelocCopyDone
  with_reducible repeat'
    first
    | assumption
    | apply wf_cycleStep
    | apply wf_putCycle
    | apply wf_copyBody
    | apply wf_foldl
    | intro x

theorem wf_execRelocRecopyDone : ∀ (q : ℕ) (s : State), (s.Inv) → KeepsWf (@execRelocRecopyDone q s) := by
  intros
  delta execRelocRecopyDone
  with_reducible repeat'
    first
    | assumption
    | apply wf_cycleStep
    | apply wf_putCycle
    | apply wf_putHeader
    | apply wf_copyBody
    | apply wf_foldl
    | (intro (x : State); have hx : x.Inv; rotate_left; clear_value x; rotate_right; subst x)
    | intro x
    | lift_lets
    | split

theorem wf_copyObject : ∀ (s : State) (qn : ℕ) (q : Queue) (h : Heap) (o : RelObj), (s.Inv) → (@copyObject s qn q h o).Inv := by
  intros
  delta copyObject
  with_reducible repeat'
    first
    | assumption
    | apply wf_closeWcs
    | apply wf_hwWrite
    | apply wf_hwNote
    | apply wf_putHeader
    | apply wf_setNarrow
    | apply wf_setAlloc
    | lift_lets
    | split

theorem wf_execRelocFlip : ∀ (q : ℕ) (s : State), (s.Inv) → KeepsWf (@execRelocFlip q s) := by
  intros
  delta execRelocFlip
  with_reducible repeat'
    first
    | assumption
    | apply wf_cycleStep
    | apply wf_withdraw
    | apply wf_copyObject
    | apply wf_writeFwd
    | apply wf_putCycle
    | apply wf_foldl
    | (intro (x : State); have hx : x.Inv; rotate_left; clear_value x; rotate_right; subst x)
    | intro x
    | lift_lets
    | split

theorem wf_execRelocFinalTimeout : ∀ (q : ℕ) (s : State), (s.Inv) → KeepsWf (@execRelocFinalTimeout q s) := by
  intros
  delta execRelocFinalTimeout
  with_reducible repeat'
    first
    | assumption
    | apply wf_cycleStep
    | apply wf_putHeader
    | apply State.wf_write
    | apply wf_writeFwd
    | apply wf_secondReply
    | apply wf_putCycle
    | apply KeepsWf.next
    | apply wf_foldl
    | (intro (x : State); have hx : x.Inv; rotate_left; clear_value x; rotate_right; subst x)
    | intro x
    | lift_lets
    | split

theorem wf_moveElements : ∀ (s : State) (q : Queue) (o : RelObj), (s.Inv) → (@moveElements s q o).Inv := by
  intros
  delta moveElements
  with_reducible repeat'
    first
    | assumption
    | apply wf_dropUpdates
    | apply State.wf_writeNum
    | apply wf_foldl
    | intro x
    | lift_lets
    | split

theorem wf_moveHeld : ∀ (s : State) (q : Queue) (c : RelCycle), (s.Inv) → (@moveHeld s q c).Inv := by
  intros
  delta moveHeld
  with_reducible repeat'
    first
    | assumption
    | apply State.wf_write
    | apply wf_foldl
    | intro x

theorem wf_execRelocAck : ∀ (q : ℕ) (s : State), (s.Inv) → KeepsWf (@execRelocAck q s) := by
  intros
  delta execRelocAck
  with_reducible repeat'
    first
    | assumption
    | apply wf_cycleStep
    | apply wf_moveHeld
    | apply wf_moveElements
    | apply wf_putCycle
    | apply KeepsWf.next
    | apply wf_foldl
    | intro x

theorem wf_healWord : ∀ (s : State) (qn : ℕ) (q : Queue) (h : Heap) (va : ℕ), (s.Inv) → (@healWord s qn q h va).Inv := by
  intros
  delta healWord
  with_reducible repeat'
    first
    | assumption
    | apply wf_hwNote
    | apply State.wf_writeNum
    | (intro x; clear_value x)
    | lift_lets
    | split

theorem wf_healPool : ∀ (s : State) (q : Queue) (h : Heap) (p : Pool), (s.Inv) → (@healPool s q h p).Inv := by
  intros
  delta healPool
  with_reducible repeat'
    first
    | assumption
    | apply wf_changeEntry
    | apply wf_foldl
    | intro x
    | lift_lets
    | split

theorem wf_healTeam : ∀ (s : State) (q : Queue) (h : Heap) (key : ℕ), (s.Inv) → (@healTeam s q h key).Inv := by
  intros
  delta healTeam
  with_reducible repeat'
    first
    | assumption
    | apply wf_State_modTeam

theorem wf_healAll : ∀ (s : State) (q : ℕ) (qu : Queue) (h : Heap), (s.Inv) → (@healAll s q qu h).Inv := by
  intros
  delta healAll
  with_reducible repeat'
    first
    | assumption
    | apply wf_hwNote
    | apply wf_healWord
    | apply wf_healPool
    | apply wf_healTeam
    | apply wf_foldl
    | intro x

theorem wf_execHealPassComplete : ∀ (q : ℕ) (s : State), (s.Inv) → KeepsWf (@execHealPassComplete q s) := by
  intros
  delta execHealPassComplete
  with_reducible repeat'
    first
    | assumption
    | apply wf_thrFault
    | apply wf_healAll
    | apply wf_syncHeap
    | apply wf_secondReply
    | apply KeepsWf.next
    | (intro (x : State); have hx : x.Inv; rotate_left; clear_value x; rotate_right; subst x)
    | intro x
    | lift_lets
    | split

theorem wf_copyLine : ∀ (s : State) (src : ℕ) (dest : ℕ), (s.Inv) → (@copyLine s src dest).Inv := by
  intros
  delta copyLine
  with_reducible repeat'
    first
    | assumption
    | apply State.wf_write

theorem wf_copyLines : ∀ (s : State) (m : Migration) (lines : List ℕ), (s.Inv) → (@copyLines s m lines).Inv := by
  intros
  delta copyLines
  with_reducible repeat'
    first
    | assumption
    | apply wf_copyLine
    | apply wf_foldl
    | intro x

theorem wf_State_putMig : ∀ (s : State) (g : ℕ) (m : Migration), (s.Inv) → (@State.putMig s g m).Inv := by
  intros
  delta State.putMig
  with_reducible repeat'
    first
    | assumption

theorem wf_beginMigration : ∀ (s : State) (g : ℕ), (s.Inv) → (@beginMigration s g).Inv := by
  intros
  delta beginMigration
  with_reducible repeat'
    first
    | assumption
    | apply wf_secondReply
    | apply wf_State_putMig
    | (intro x; subst x)
    | lift_lets
    | split

theorem wf_endMigration : ∀ (s : State) (g : ℕ) (m : Migration) (r : DWord), (s.Inv) → (@endMigration s g m r).Inv := by
  intros
  delta endMigration
  with_reducible repeat'
    first
    | assumption
    | apply wf_secondReply
    | apply wf_beginMigration
    | apply wf_foldl
    | intro x
    | lift_lets
    | split

theorem wf_migStep : ∀ (s : State) (g : ℕ) (f : Migration → State) (st : MigState), (s.Inv) → (∀ (a_0 : Migration), (f a_0).Inv) → KeepsWf (@migStep s g f st) := by
  intro s g f st h0 h1
  delta migStep
  with_reducible repeat'
    first
    | assumption
    | apply h1
    | apply KeepsWf.next
    | split

theorem wf_dropPage : ∀ (s : State) (asid : ℕ) (va : ℕ) (size : ℕ), (s.Inv) → (@dropPage s asid va size).Inv := by
  intros
  delta dropPage
  with_reducible repeat'
    first
    | assumption
    | apply wf_dropRange

theorem wf_abandonMig : ∀ (s : State) (g : ℕ) (m : Migration), (s.Inv) → (@abandonMig s g m).Inv := by
  intros
  delta abandonMig
  with_reducible repeat'
    first
    | assumption
    | apply wf_dropPage
    | apply wf_endMigration
    | apply State.wf_writeNum
    | (intro (x : State); have hx : x.Inv; rotate_left; clear_value x; rotate_right; subst x)
    | (intro x; clear_value x)
    | lift_lets
    | split

theorem wf_copyOr : ∀ (s : State) (g : ℕ) (m : Migration) (lines : List ℕ) (next : State → State), (s.Inv) → (∀ (a_0 : State), a_0.Inv → (next a_0).Inv) → (@copyOr s g m lines next).Inv := by
  intro s g m lines next h0 h1
  delta copyOr
  with_reducible repeat'
    first
    | assumption
    | apply wf_abandonMig
    | apply wf_copyLines
    | apply h1
    | split

theorem wf_execMigrationPrecopyDone : ∀ (g : ℕ) (s : State), (s.Inv) → KeepsWf (@execMigrationPrecopyDone g s) := by
  intros
  delta execMigrationPrecopyDone
  with_reducible repeat'
    first
    | assumption
    | apply wf_migStep
    | apply wf_copyOr
    | apply wf_State_putMig
    | intro x

theorem wf_execMigrationRecopyDone : ∀ (g : ℕ) (s : State), (s.Inv) → KeepsWf (@execMigrationRecopyDone g s) := by
  intros
  delta execMigrationRecopyDone
  with_reducible repeat'
    first
    | assumption
    | apply wf_migStep
    | apply wf_copyOr
    | apply wf_State_putMig
    | intro x
    | lift_lets
    | split

theorem wf_execMigrationFlip : ∀ (g : ℕ) (s : State), (s.Inv) → KeepsWf (@execMigrationFlip g s) := by
  intros
  delta execMigrationFlip
  with_reducible repeat'
    first
    | assumption
    | apply wf_migStep
    | apply wf_abandonMig
    | apply wf_copyOr
    | apply wf_State_putMig
    | apply State.wf_writeNum
    | (intro x; clear_value x)
    | intro x
    | lift_lets
    | split

theorem wf_moveUpdates : ∀ (s : State) (m : Migration), (s.Inv) → (@moveUpdates s m).Inv := by
  intros
  delta moveUpdates
  with_reducible repeat'
    first
    | assumption

theorem wf_execMigrationInvalAck : ∀ (g : ℕ) (s : State), (s.Inv) → KeepsWf (@execMigrationInvalAck g s) := by
  intros
  delta execMigrationInvalAck
  with_reducible repeat'
    first
    | assumption
    | apply wf_migStep
    | apply wf_abandonMig
    | apply wf_moveUpdates
    | apply wf_dropPage
    | apply wf_flushCore
    | apply wf_endMigration
    | apply wf_foldl
    | (intro (x : State); have hx : x.Inv; rotate_left; clear_value x; rotate_right; subst x)
    | intro x
    | lift_lets
    | split

theorem wf_execMigrationHoldTimeout : ∀ (g : ℕ) (s : State), (s.Inv) → KeepsWf (@execMigrationHoldTimeout g s) := by
  intros
  delta execMigrationHoldTimeout
  with_reducible repeat'
    first
    | assumption
    | apply wf_abandonMig
    | apply KeepsWf.next
    | split

theorem wf_holdHostWrite : ∀ (s : State) (h : ℕ × Heap) (pa : PAddr) (bs : List Byte), (s.Inv) → (@holdHostWrite s h pa bs).Inv := by
  intros
  delta holdHostWrite
  with_reducible repeat'
    first
    | assumption

theorem wf_hostStore : ∀ (s : State) (at_ : ℕ) (bytes : List Byte), (s.Inv) → (@hostStore s at_ bytes).Inv := by
  intros
  delta hostStore
  with_reducible repeat'
    first
    | assumption
    | apply State.wf_write
    | apply wf_foldl
    | intro x
    | lift_lets
    | split

theorem wf_markHostDirty : ∀ (s : State) (pa : ℕ) (n : ℕ), (s.Inv) → (@markHostDirty s pa n).Inv := by
  intros
  delta markHostDirty
  with_reducible repeat'
    first
    | assumption

theorem wf_execHostWrite : ∀ (at_ : ℕ) (bytes : List Byte) (s : State), (s.Inv) → KeepsWf (@execHostWrite at_ bytes s) := by
  intros
  delta execHostWrite
  with_reducible repeat'
    first
    | assumption
    | apply wf_holdHostWrite
    | apply wf_hostStore
    | apply wf_markHostDirty
    | apply KeepsWf.next
    | intro x
    | lift_lets
    | split

theorem wf_execHostRead : ∀ (at_ : ℕ) (n : ℕ) (s : State), (s.Inv) → KeepsWf (@execHostRead at_ n s) := by
  intros
  delta execHostRead
  with_reducible repeat'
    first
    | assumption
    | apply wf_closePhys
    | apply KeepsWf.next
    | (intro (x : State); have hx : x.Inv; rotate_left; clear_value x; rotate_right; subst x)
    | lift_lets
    | split

end Sys2Proof.Machine
end

