-- ==== Sys2Proof/Laws/KeepSystem.lean ====
section
/-! SUPPORT. The canonical form of memory is kept: placement, launches, endings, firmware and commands. One lemma per definition that answers a state. -/

namespace Sys2Proof.Machine

open Sys2Proof

theorem wf_dropOps : ∀ (s : State) (key : ℕ), (s.Inv) → (@dropOps s key).Inv := by
  intros
  delta dropOps
  with_reducible repeat'
    first
    | assumption
    | apply wf_endOp
    | apply wf_foldl
    | intro x

theorem wf_refillActive : ∀ (s : State) (core : ℕ) (key : ℕ) (g : ℕ), (s.Inv) → (@refillActive s core key g).Inv := by
  intros
  delta refillActive
  with_reducible repeat'
    first
    | assumption
    | apply wf_State_modCore

theorem wf_endGroup : ∀ (s : State) (core : ℕ) (key : ℕ) (g : ℕ), (s.Inv) → (@endGroup s core key g).Inv := by
  intros
  delta endGroup
  with_reducible repeat'
    first
    | assumption
    | apply wf_State_modGroup
    | apply wf_releasePins
    | apply wf_clsyncTry
    | apply wf_tsyncTry
    | apply wf_refillActive
    | split

theorem wf_clearTags : ∀ (s : State) (t : Team), (s.Inv) → (@clearTags s t).Inv := by
  intros
  delta clearTags
  with_reducible repeat'
    first
    | assumption

theorem wf_switchOut : ∀ (s : State) (core : ℕ), (s.Inv) → (@switchOut s core).Inv := by
  intros
  delta switchOut
  with_reducible repeat'
    first
    | assumption
    | apply wf_leaveRunning
    | apply wf_foldl
    | intro x
    | lift_lets
    | split

theorem wf_gatherMates : ∀ (s : State) (core : ℕ), (s.Inv) → (@gatherMates s core).Inv := by
  intros
  delta gatherMates
  with_reducible repeat'
    first
    | assumption
    | apply wf_switchOut
    | apply wf_foldl
    | intro x
    | lift_lets
    | split

theorem wf_freeSlot : ∀ (s : State) (core : ℕ) (key : ℕ), (s.Inv) → (@freeSlot s core key).Inv := by
  intros
  delta freeSlot
  with_reducible repeat'
    first
    | assumption
    | apply wf_gatherMates
    | apply wf_switchIn
    | apply wf_State_setSlot
    | split

theorem wf_closeTeam : ∀ (s : State) (key : ℕ), (s.Inv) → (@closeTeam s key).Inv := by
  intros
  delta closeTeam
  with_reducible repeat'
    first
    | assumption
    | apply wf_loseWindow
    | apply wf_clearTags
    | apply wf_cancelChain
    | apply wf_dropOps
    | apply wf_foldl
    | (intro (x : State); have hx : x.Inv; rotate_left; clear_value x; rotate_right; subst x)
    | intro x
    | lift_lets
    | split

theorem wf_endTeam : ∀ (s : State) (core : ℕ) (key : ℕ), (s.Inv) → (@endTeam s core key).Inv := by
  intros
  delta endTeam
  with_reducible repeat'
    first
    | assumption
    | apply wf_closeWcs
    | apply wf_flushCore
    | apply wf_State_modTeam
    | apply wf_closeTeam
    | apply wf_clsyncTry
    | apply wf_freeSlot

theorem wf_execExit : ∀ (s : State), (s.Inv) → KeepsWf (@execExit s) := by
  intros
  delta execExit
  with_reducible repeat'
    first
    | assumption
    | apply wf_issue
    | apply wf_flushCore
    | apply wf_endUnit
    | apply wf_endGroup
    | apply wf_endTeam
    | (intro (x : State); have hx : x.Inv; rotate_left; clear_value x; rotate_right; subst x)
    | (intro x; subst x)
    | intro x
    | lift_lets
    | split

theorem wf_addTrapRec : ∀ (s : State) (qn : ℕ) (bits : ℕ) (team : Option ℕ), (s.Inv) → (@addTrapRec s qn bits team).Inv := by
  intros
  delta addTrapRec
  with_reducible repeat'
    first
    | assumption
    | apply wf_State_named

theorem wf_queueTraps : ∀ (s : State) (key : ℕ) (saved : Bool), (s.Inv) → (@queueTraps s key saved).Inv := by
  intros
  delta queueTraps
  with_reducible repeat'
    first
    | assumption
    | apply wf_addTrapRec
    | apply wf_foldl
    | intro x
    | split

theorem wf_queueUnsaved : ∀ (s : State) (key : ℕ), (s.Inv) → (@queueUnsaved s key).Inv := by
  intros
  delta queueUnsaved
  with_reducible repeat'
    first
    | assumption
    | apply wf_queueTraps
    | split

theorem wf_discardTeam : ∀ (s : State) (key : ℕ) (keep : Bool), (s.Inv) → (@discardTeam s key keep).Inv := by
  intros
  delta discardTeam
  with_reducible repeat'
    first
    | assumption
    | apply wf_closeTeam
    | apply wf_queueUnsaved
    | apply wf_State_modGroup
    | apply wf_releasePins
    | apply wf_State_modTeam
    | apply wf_clsyncTry
    | apply wf_freeSlot
    | apply wf_foldl
    | (intro (x : State); have hx : x.Inv; rotate_left; clear_value x; rotate_right; subst x)
    | intro x
    | lift_lets
    | split

theorem wf_killTeam : ∀ (s : State) (key : ℕ) (keep : Bool), (s.Inv) → (@killTeam s key keep).Inv := by
  intros
  delta killTeam
  with_reducible repeat'
    first
    | assumption
    | apply wf_leaveRunning
    | apply wf_discardTeam
    | split

theorem wf_killGrid : ∀ (s : State) (grid : ℕ) (kept : Option ℕ), (s.Inv) → (@killGrid s grid kept).Inv := by
  intros
  delta killGrid
  with_reducible repeat'
    first
    | assumption
    | apply wf_killTeam
    | apply wf_foldl
    | (intro (x : State); have hx : x.Inv; rotate_left; clear_value x; rotate_right; subst x)
    | (intro x; clear_value x)
    | intro x
    | lift_lets
    | split

theorem wf_applyPolicy : ∀ (s : State) (key : ℕ) (kill : Bool), (s.Inv) → (@applyPolicy s key kill).Inv := by
  intros
  delta applyPolicy
  with_reducible repeat'
    first
    | assumption
    | apply wf_killGrid
    | apply wf_State_modTeam
    | split

theorem wf_execTrapRecordWrite : ∀ (r : ℕ) (s : State), (s.Inv) → KeepsWf (@execTrapRecordWrite r s) := by
  intros
  delta execTrapRecordWrite
  with_reducible repeat'
    first
    | assumption
    | apply wf_snapTrigger
    | apply wf_State_putQueue
    | apply wf_applyPolicy
    | apply State.wf_writeNum
    | apply KeepsWf.next
    | (intro (x : State); have hx : x.Inv; rotate_left; clear_value x; rotate_right; subst x)
    | (intro x; clear_value x)
    | lift_lets
    | split

theorem wf_execFaultRecordWrite : ∀ (f : ℕ) (s : State), (s.Inv) → KeepsWf (@execFaultRecordWrite f s) := by
  intros
  delta execFaultRecordWrite
  with_reducible repeat'
    first
    | assumption
    | apply wf_State_putQueue
    | apply State.wf_writeNum
    | apply KeepsWf.next
    | (intro (x : State); have hx : x.Inv; rotate_left; clear_value x; rotate_right; subst x)
    | lift_lets
    | split

theorem wf_failTeam : ∀ (s : State) (key : ℕ), (s.Inv) → (@failTeam s key).Inv := by
  intros
  delta failTeam
  with_reducible repeat'
    first
    | assumption
    | apply wf_closeTeam
    | apply wf_queueUnsaved
    | apply wf_State_modGroup
    | apply wf_releasePins
    | apply wf_State_modTeam
    | apply wf_addTrapRec
    | apply wf_freeSlot
    | apply wf_foldl
    | (intro (x : State); have hx : x.Inv; rotate_left; clear_value x; rotate_right; subst x)
    | intro x
    | lift_lets
    | split

theorem wf_mapSpare : ∀ (s : State) (core : ℕ), (s.Inv) → (@mapSpare s core).Inv := by
  intros
  delta mapSpare
  with_reducible repeat'
    first
    | assumption
    | apply wf_State_modCore

theorem wf_finishRetire : ∀ (s : State) (core : ℕ), (s.Inv) → (@finishRetire s core).Inv := by
  intros
  delta finishRetire
  with_reducible repeat'
    first
    | assumption
    | apply wf_mapSpare
    | (intro x; clear_value x)
    | intro x
    | lift_lets
    | split

theorem wf_retireCore : ∀ (s : State) (core : ℕ), (s.Inv) → (@retireCore s core).Inv := by
  intros
  delta retireCore
  with_reducible repeat'
    first
    | assumption
    | apply wf_State_modCore
    | apply wf_failTeam
    | apply wf_leaveRunning
    | apply wf_finishRetire
    | apply wf_foldl

theorem wf_abandonAttention : ∀ (s : State) (key : ℕ), (s.Inv) → (@abandonAttention s key).Inv := by
  intros
  delta abandonAttention
  with_reducible repeat'
    first
    | assumption
    | apply wf_releaseLocks
    | apply wf_foldl
    | (intro x; clear_value x)
    | intro x
    | lift_lets
    | split

theorem wf_abandonPeers : ∀ (s : State) (key : ℕ), (s.Inv) → (@abandonPeers s key).Inv := by
  intros
  delta abandonPeers
  with_reducible repeat'
    first
    | assumption

theorem wf_settleTeam : ∀ (s : State) (core : ℕ) (key : ℕ), (s.Inv) → (@settleTeam s core key).Inv := by
  intros
  delta settleTeam
  with_reducible repeat'
    first
    | assumption
    | apply wf_abandonAttention
    | apply wf_abandonPeers
    | apply wf_abandonWaits
    | apply wf_closeWcs
    | apply wf_flushCore

theorem wf_startSave : ∀ (s : State) (core : ℕ) (i : ℕ) (sl : Slot), (s.Inv) → (@startSave s core i sl).Inv := by
  intros
  delta startSave
  with_reducible repeat'
    first
    | assumption
    | apply wf_State_setSlot
    | apply wf_loseWindow

theorem wf_shadowed : ∀ (s : State) (core : ℕ) (i : ℕ), (s.Inv) → (@shadowed s core i).Inv := by
  intros
  delta shadowed
  with_reducible repeat'
    first
    | assumption
    | apply wf_gatherMates
    | apply wf_switchOut
    | apply wf_switchIn
    | split

theorem wf_execDrainComplete : ∀ (core : ℕ) (slot : ℕ) (s : State), (s.Inv) → KeepsWf (@execDrainComplete core slot s) := by
  intros
  delta execDrainComplete
  with_reducible repeat'
    first
    | assumption
    | apply wf_gatherMates
    | apply wf_startSave
    | apply wf_settleTeam
    | apply wf_finishRetire
    | apply wf_failTeam
    | apply wf_discardTeam
    | apply wf_shadowed
    | apply wf_State_setSlot
    | apply KeepsWf.next
    | (intro (x : State); have hx : x.Inv; rotate_left; clear_value x; rotate_right; subst x)
    | (intro x; clear_value x)
    | lift_lets
    | split

theorem wf_cleanBlocks : ∀ (s : State) (t : Team), (s.Inv) → (@cleanBlocks s t).Inv := by
  intros
  delta cleanBlocks
  with_reducible repeat'
    first
    | assumption

theorem wf_writeImage : ∀ (s : State) (t : Team), (s.Inv) → (@writeImage s t).Inv := by
  intros
  delta writeImage
  with_reducible repeat'
    first
    | assumption
    | apply State.wf_write
    | apply State.wf_free
    | apply wf_foldl
    | intro x

theorem wf_execContextSaveComplete : ∀ (core : ℕ) (slot : ℕ) (s : State), (s.Inv) → KeepsWf (@execContextSaveComplete core slot s) := by
  intros
  delta execContextSaveComplete
  with_reducible repeat'
    first
    | assumption
    | apply wf_killGrid
    | apply wf_discardTeam
    | apply wf_writeImage
    | apply wf_clearTags
    | apply wf_cleanBlocks
    | apply wf_State_modCore
    | apply wf_queueTraps
    | apply wf_freeSlot
    | apply KeepsWf.next
    | (intro (x : State); have hx : x.Inv; rotate_left; clear_value x; rotate_right; subst x)
    | (intro x; clear_value x)
    | lift_lets
    | split

theorem wf_execTeamFillComplete : ∀ (core : ℕ) (slot : ℕ) (s : State), (s.Inv) → KeepsWf (@execTeamFillComplete core slot s) := by
  intros
  delta execTeamFillComplete
  with_reducible repeat'
    first
    | assumption
    | apply wf_cleanBlocks
    | apply wf_clearTags
    | apply wf_State_modCore
    | apply wf_State_modTeam
    | apply wf_shadowed
    | apply wf_State_setSlot
    | apply State.wf_write
    | apply State.wf_zero
    | apply KeepsWf.next
    | (intro (x : State); have hx : x.Inv; rotate_left; clear_value x; rotate_right; subst x)
    | (intro x; clear_value x)
    | lift_lets
    | split

theorem wf_answerTeam : ∀ (s : State) (key : ℕ), (s.Inv) → (@answerTeam s key).Inv := by
  intros
  delta answerTeam
  with_reducible repeat'
    first
    | assumption
    | apply wf_State_modTeam

theorem wf_answerFault : ∀ (s : State) (f : ℕ), (s.Inv) → (@answerFault s f).Inv := by
  intros
  delta answerFault
  with_reducible repeat'
    first
    | assumption
    | apply wf_answerTeam
    | apply wf_State_modChannel
    | apply wf_State_modPool
    | (intro (x : State); have hx : x.Inv; rotate_left; clear_value x; rotate_right; subst x)
    | (intro x; clear_value x)
    | lift_lets
    | split

theorem wf_placeTeam : ∀ (s : State) (g : Grid) (frames : List (ℕ × ℕ × ℕ)) (at_ : Option ℕ) (key : ℕ) (core : ℕ), (s.Inv) → (@placeTeam s g frames at_ key core).Inv := by
  intros
  delta placeTeam
  with_reducible repeat'
    first
    | assumption
    | apply wf_State_setSlot
    | apply wf_State_modTeam
    | (intro x; clear_value x)
    | intro x
    | lift_lets
    | split

theorem wf_carryOut : ∀ (s : State) (g : Grid) (lead : Team) (p : Plan) (frames : List (ℕ × ℕ × ℕ)), (s.Inv) → (@carryOut s g lead p frames).Inv := by
  intros
  delta carryOut
  with_reducible repeat'
    first
    | assumption
    | apply wf_placeTeam
    | apply wf_foldl
    | (intro (x : State); have hx : x.Inv; rotate_left; clear_value x; rotate_right; subst x)
    | (intro x; clear_value x)
    | intro x
    | lift_lets
    | split

theorem wf_placeReady : ∀ (s : State) (key : ℕ) (gang : Bool), (s.Inv) → (@placeReady s key gang).Inv := by
  intros
  delta placeReady
  with_reducible repeat'
    first
    | assumption
    | apply wf_carryOut
    | (intro x; clear_value x)
    | lift_lets
    | split

theorem wf_execTeamPlacement : ∀ (team : ℕ) (s : State), (s.Inv) → KeepsWf (@execTeamPlacement team s) := by
  intros
  delta execTeamPlacement
  with_reducible repeat'
    first
    | assumption
    | apply wf_placeReady
    | apply KeepsWf.next

theorem wf_execGangPlacement : ∀ (team : ℕ) (s : State), (s.Inv) → KeepsWf (@execGangPlacement team s) := by
  intros
  delta execGangPlacement
  with_reducible repeat'
    first
    | assumption
    | apply wf_placeReady
    | apply KeepsWf.next

theorem wf_execWaitingLevelAge : ∀ (team : ℕ) (s : State), (s.Inv) → KeepsWf (@execWaitingLevelAge team s) := by
  intros
  delta execWaitingLevelAge
  with_reducible repeat'
    first
    | assumption
    | apply wf_State_modTeam
    | apply KeepsWf.next
    | split

theorem wf_execGangFirstAge : ∀ (team : ℕ) (s : State), (s.Inv) → KeepsWf (@execGangFirstAge team s) := by
  intros
  delta execGangFirstAge
  with_reducible repeat'
    first
    | assumption
    | apply wf_State_modTeam
    | apply KeepsWf.next
    | apply wf_foldl
    | (intro x; clear_value x)
    | intro x
    | lift_lets
    | split

theorem wf_evictTeam : ∀ (s : State) (key : ℕ), (s.Inv) → (@evictTeam s key).Inv := by
  intros
  delta evictTeam
  with_reducible repeat'
    first
    | assumption
    | apply wf_leaveRunning
    | apply wf_State_setSlot
    | apply wf_startSave
    | split

theorem wf_execNoRoomEviction : ∀ (team : ℕ) (s : State), (s.Inv) → KeepsWf (@execNoRoomEviction team s) := by
  intros
  delta execNoRoomEviction
  with_reducible repeat'
    first
    | assumption
    | apply wf_evictTeam
    | apply KeepsWf.next
    | apply wf_foldl
    | (intro x; clear_value x)
    | lift_lets
    | split

theorem wf_execGangSecondAge : ∀ (team : ℕ) (s : State), (s.Inv) → KeepsWf (@execGangSecondAge team s) := by
  intros
  delta execGangSecondAge
  with_reducible repeat'
    first
    | assumption
    | apply wf_evictTeam
    | apply wf_State_modTeam
    | apply KeepsWf.next
    | apply wf_foldl
    | intro x
    | lift_lets
    | split
    | dsimp only [State.Inv]

theorem wf_execTimeSliceExpiry : ∀ (core : ℕ) (s : State), (s.Inv) → KeepsWf (@execTimeSliceExpiry core s) := by
  intros
  delta execTimeSliceExpiry
  with_reducible repeat'
    first
    | assumption
    | apply wf_gatherMates
    | apply wf_switchOut
    | apply KeepsWf.next
    | (intro x; clear_value x)
    | lift_lets
    | split

theorem wf_gridAudit : ∀ (s : State) (qn : ℕ) (q : Queue) (grid : ℕ) (va : ℕ) (count : ℕ) (cls : ℕ) (path : ℕ) (kind : ℕ), (s.Inv) → (@gridAudit s qn q grid va count cls path kind).Inv := by
  intros
  delta gridAudit
  with_reducible repeat'
    first
    | assumption
    | apply wf_audit

theorem wf_readCuts : ∀ (s : State) (q : Queue) (a_0 : List (ℕ × ℕ)), (s.Inv) → KeepsOk (@readCuts s q a_0) := by
  intro s q a_0
  induction a_0 generalizing s with
  | nil =>
    intros
    unfold readCuts
    with_reducible repeat'
      first
      | assumption
      | apply wf_closePhys
      | apply wf_notePieces
      | apply KeepsOk.error
      | apply KeepsOk.ok
  | cons x t ih =>
    intros
    unfold readCuts
    with_reducible repeat'
      first
      | with_reducible apply ih
      | assumption
      | apply wf_closePhys
      | apply wf_notePieces
      | apply KeepsOk.error
      | apply KeepsOk.ok
      | (intro (x : State); have hx : x.Inv; rotate_left; clear_value x; rotate_right; subst x)
      | (intro x; subst x)
      | lift_lets
      | split
      | (apply KeepsOk.of; assumption)

theorem wf_distReadD : ∀ (s : State) (qn : ℕ) (q : Queue) (grid : ℕ) (va : ℕ) (n : ℕ), (s.Inv) → KeepsOk (@distReadD s qn q grid va n) := by
  intros
  delta distReadD
  with_reducible repeat'
    first
    | assumption
    | apply wf_readCuts
    | apply wf_gridAudit
    | apply KeepsOk.error
    | apply KeepsOk.ok
    | lift_lets
    | split
    | (apply KeepsOk.of; assumption)

theorem wf_distRead : ∀ (s : State) (qn : ℕ) (q : Queue) (grid : ℕ) (va : ℕ) (n : ℕ), (s.Inv) → KeepsOk (@distRead s qn q grid va n) := by
  intros
  delta distRead
  with_reducible repeat'
    first
    | assumption
    | apply wf_distReadD
    | apply KeepsOk.error
    | apply KeepsOk.ok
    | lift_lets
    | split
    | (apply KeepsOk.of; assumption)

theorem wf_passRecord : ∀ (s : State) (qn : ℕ), (s.Inv) → (@passRecord s qn).Inv := by
  intros
  delta passRecord
  with_reducible repeat'
    first
    | assumption
    | apply wf_State_modQueue

theorem wf_refuseRecord : ∀ (s : State) (qn : ℕ) (grid : ℕ) (idx : ℕ) (r : Launch) (code : ℕ) (d1 : ℕ), (s.Inv) → (@refuseRecord s qn grid idx r code d1).Inv := by
  intros
  delta refuseRecord
  with_reducible repeat'
    first
    | assumption
    | apply wf_passRecord
    | apply wf_addTrapRec
    | (intro (x : State); have hx : x.Inv; rotate_left; clear_value x; rotate_right; subst x)
    | (intro x; clear_value x)
    | lift_lets
    | split

theorem wf_launchGrid : ∀ (s : State) (qn : ℕ) (grid : ℕ) (r : Launch) (args : List Word) (table : List ℕ), (s.Inv) → (@launchGrid s qn grid r args table).Inv := by
  intros
  delta launchGrid
  with_reducible repeat'
    first
    | assumption
    | apply wf_passRecord
    | apply wf_foldl
    | intro x

theorem wf_testDeps : ∀ (s : State) (qn : ℕ) (q : Queue) (w : Waiting), (s.Inv) → KeepsOk (@testDeps s qn q w) := by
  intros
  delta testDeps
  with_reducible repeat'
    first
    | assumption
    | apply wf_distRead
    | apply KeepsOk.error
    | apply KeepsOk.ok
    | (intro x; clear_value x)
    | lift_lets
    | split
    | (apply KeepsOk.of; assumption)

theorem wf_tryLaunch : ∀ (s : State) (qn : ℕ), (s.Inv) → (@tryLaunch s qn).Inv := by
  intros
  delta tryLaunch
  with_reducible repeat'
    first
    | assumption
    | apply wf_testDeps
    | apply wf_refuseRecord
    | apply wf_State_modQueue
    | apply wf_distRead
    | apply wf_launchGrid
    | lift_lets
    | split
    | (apply KeepsOk.of; assumption)

theorem wf_execLaunchRecordRead : ∀ (q : ℕ) (s : State), (s.Inv) → KeepsWf (@execLaunchRecordRead q s) := by
  intros
  delta execLaunchRecordRead
  with_reducible repeat'
    first
    | assumption
    | apply wf_distReadD
    | apply wf_refuseRecord
    | apply wf_tryLaunch
    | apply wf_State_modQueue
    | apply KeepsWf.next
    | apply KeepsOk.ok
    | (intro (x : State); have hx : x.Inv; rotate_left; clear_value x; rotate_right; subst x)
    | (intro x; clear_value x)
    | lift_lets
    | split
    | (apply KeepsOk.of; assumption)
    | dsimp only [State.Inv]

theorem wf_execDependenceReread : ∀ (q : ℕ) (s : State), (s.Inv) → KeepsWf (@execDependenceReread q s) := by
  intros
  delta execDependenceReread
  with_reducible repeat'
    first
    | assumption
    | apply wf_tryLaunch
    | apply KeepsWf.next

theorem wf_ringBell : ∀ (s : State) (q : ℕ) (v : DWord), (s.Inv) → (@ringBell s q v).Inv := by
  intros
  delta ringBell
  with_reducible repeat'
    first
    | assumption
    | apply wf_State_modQueue

theorem wf_execDoorbell : ∀ (q : ℕ) (v : DWord) (s : State), (s.Inv) → KeepsWf (@execDoorbell q v s) := by
  intros
  delta execDoorbell
  with_reducible repeat'
    first
    | assumption
    | apply wf_ringBell
    | apply KeepsWf.next

theorem wf_raiseEvents : ∀ (s : State) (qn : ℕ), (s.Inv) → (@raiseEvents s qn).Inv := by
  intros
  delta raiseEvents
  with_reducible repeat'
    first
    | assumption
    | apply wf_State_modQueue

theorem wf_raiseIrq : ∀ (s : State) (qn : ℕ), (s.Inv) → (@raiseIrq s qn).Inv := by
  intros
  delta raiseIrq
  with_reducible repeat'
    first
    | assumption
    | apply wf_State_irq
    | split

theorem wf_writeDone : ∀ (s : State) (qn : ℕ) (q : Queue) (grid : ℕ) (va : ℕ) (w : ℕ), (s.Inv) → KeepsSome (@writeDone s qn q grid va w) := by
  intros
  delta writeDone
  with_reducible repeat'
    first
    | assumption
    | apply wf_addTrapRec
    | apply wf_gridAudit
    | apply wf_notePieces
    | apply State.wf_writeNum
    | apply KeepsSome.none
    | apply KeepsSome.some
    | (intro x; subst x)
    | lift_lets
    | split

theorem wf_execGridComplete : ∀ (grid : ℕ) (s : State), (s.Inv) → KeepsWf (@execGridComplete grid s) := by
  intros
  delta execGridComplete
  with_reducible repeat'
    first
    | assumption
    | apply wf_raiseEvents
    | apply wf_writeDone
    | apply wf_raiseIrq
    | apply KeepsWf.next
    | apply KeepsSome.some
    | (intro (x : State); have hx : x.Inv; rotate_left; clear_value x; rotate_right; subst x)
    | (intro x; clear_value x)
    | lift_lets
    | split
    | (apply KeepsSome.of; assumption)

theorem wf_execDlaunch : ∀ (l : BitVec 4) (d : BitVec 5) (a : BitVec 4) (b : BitVec 5) (s : State), (s.Inv) → KeepsWf (@execDlaunch l d a b s) := by
  intros
  delta execDlaunch
  with_reducible repeat'
    first
    | assumption
    | apply wf_issue
    | apply wf_memCourse
    | apply wf_releaseWrites
    | apply wf_windowBegin
    | apply wf_beginOp
    | apply wf_finish
    | apply wf_settle
    | apply wf_appendRecord
    | apply wf_noteLooks
    | apply KeepsWf.next
    | (refine wf_of_fst (by assumption) ?_)
    | (intro (x : State); have hx : x.Inv; rotate_left; clear_value x; rotate_right; subst x)
    | (intro x; clear_value x)
    | intro x
    | lift_lets
    | split

theorem wf_execQsig : ∀ (_l : BitVec 4) (b : BitVec 5) (s : State), (s.Inv) → KeepsWf (@execQsig _l b s) := by
  intros
  delta execQsig
  with_reducible repeat'
    first
    | assumption
    | apply wf_issue
    | apply wf_takeTrap
    | apply wf_finish
    | apply wf_raiseIrq
    | apply wf_raiseEvents
    | apply wf_releaseWrites
    | (intro x; clear_value x)
    | intro x
    | lift_lets
    | split

theorem wf_takeRecord : ∀ (s : State) (c : Cmd), (s.Inv) → (@takeRecord s c).Inv := by
  intros
  delta takeRecord
  with_reducible repeat'
    first
    | assumption
    | (intro x; clear_value x)
    | lift_lets
    | split

theorem wf_answer : ∀ (s : State) (c : Cmd) (status : ℕ) (r : List DWord), (s.Inv) → (@answer s c status r).Inv := by
  intros
  delta answer
  with_reducible repeat'
    first
    | assumption
    | apply wf_addReply

theorem wf_serve : ∀ (s : State) (op : ℕ) (c : Cmd) (own : Bool) (always : Bool) (bad : Bool) (act : State → Option State), (s.Inv) → (∀ (a_0 : State), a_0.Inv → KeepsSome (act a_0)) → KeepsWf (@serve s op c own always bad act) := by
  intro s op c own always bad act h0 h1
  delta serve
  with_reducible repeat'
    first
    | assumption
    | apply wf_takeRecord
    | apply wf_answer
    | apply h1
    | apply KeepsWf.next
    | (intro (x : State); have hx : x.Inv; rotate_left; clear_value x; rotate_right; subst x)
    | lift_lets
    | split
    | (apply KeepsSome.of; assumption)

theorem wf_State_modFw : ∀ (s : State) (f : Firmware → Firmware), (s.Inv) → (@State.modFw s f).Inv := by
  intros
  delta State.modFw
  with_reducible repeat'
    first
    | assumption

theorem wf_setOwner : ∀ (s : State) (o : Option Master) (h : Option (Master × Master)), (s.Inv) → (@setOwner s o h).Inv := by
  intros
  delta setOwner
  with_reducible repeat'
    first
    | assumption
    | apply wf_State_irq
    | apply wf_State_modFw

theorem wf_execClaim : ∀ (c : Cmd) (s : State), (s.Inv) → KeepsWf (@execClaim c s) := by
  intros
  delta execClaim
  with_reducible repeat'
    first
    | assumption
    | apply wf_serve
    | apply wf_answer
    | apply wf_setOwner
    | apply KeepsSome.some
    | intro x
    | lift_lets
    | split

theorem wf_State_handoverNow : ∀ (s : State), (s.Inv) → (@State.handoverNow s).Inv := by
  intros
  delta State.handoverNow
  with_reducible repeat'
    first
    | assumption
    | apply wf_State_modFw

theorem wf_execHandover : ∀ (c : Cmd) (s : State), (s.Inv) → KeepsWf (@execHandover c s) := by
  intros
  delta execHandover
  with_reducible repeat'
    first
    | assumption
    | apply wf_serve
    | apply wf_answer
    | apply wf_setOwner
    | apply wf_State_handoverNow
    | apply KeepsWf.next
    | apply KeepsSome.some
    | exact KeepsSome.none
    | intro x

theorem wf_execHandoverTimeout : ∀ (s : State), (s.Inv) → KeepsWf (@execHandoverTimeout s) := by
  intros
  delta execHandoverTimeout
  with_reducible repeat'
    first
    | assumption
    | apply wf_setOwner
    | apply KeepsWf.next
    | split

theorem wf_execOwnershipLapse : ∀ (s : State), (s.Inv) → KeepsWf (@execOwnershipLapse s) := by
  intros
  delta execOwnershipLapse
  with_reducible repeat'
    first
    | assumption
    | apply wf_setOwner
    | apply KeepsWf.next
    | split

theorem wf_execLoadimg : ∀ (c : Cmd) (s : State), (s.Inv) → KeepsWf (@execLoadimg c s) := by
  intros
  delta execLoadimg
  with_reducible repeat'
    first
    | assumption
    | apply wf_serve
    | apply wf_answer
    | apply wf_State_modFw
    | apply KeepsSome.some
    | intro x
    | lift_lets
    | split

theorem wf_execIdent : ∀ (c : Cmd) (s : State), (s.Inv) → KeepsWf (@execIdent c s) := by
  intros
  delta execIdent
  with_reducible repeat'
    first
    | assumption
    | apply wf_serve
    | apply wf_answer
    | apply KeepsSome.some
    | intro x

theorem wf_execAttest : ∀ (c : Cmd) (s : State), (s.Inv) → KeepsWf (@execAttest c s) := by
  intros
  delta execAttest
  with_reducible repeat'
    first
    | assumption
    | apply wf_serve
    | apply wf_answer
    | apply wf_State_modFw
    | apply State.wf_write
    | apply KeepsSome.some
    | intro x
    | lift_lets
    | split

theorem wf_wiped : ∀ (s : State) (fw : Firmware), (s.Inv) → (@wiped s fw).Inv := by
  intro s fw h
  unfold wiped
  exact Memory.wf_filter _ h

theorem wf_selfTest : ∀ (s : State) (failing : ℕ), (s.Inv) → (@selfTest s failing).Inv := by
  intros
  delta selfTest
  with_reducible repeat'
    first
    | assumption
    | apply wf_mapSpare
    | apply wf_foldl

theorem wf_bringUp : ∀ (s : State) (image : Option (List Byte)) (cold : ℕ) (failing : ℕ), (s.Inv) → (@bringUp s image cold failing).Inv := by
  intros
  delta bringUp
  with_reducible repeat'
    first
    | assumption
    | apply wf_wiped
    | apply wf_selfTest

theorem wf_resetDevice : ∀ (s : State), (s.Inv) → (@resetDevice s).Inv := by
  intros
  delta resetDevice
  with_reducible repeat'
    first
    | assumption
    | apply wf_wiped

theorem wf_payDoing : ∀ (s : State), (s.Inv) → (@payDoing s).Inv := by
  intros
  delta payDoing
  with_reducible repeat'
    first
    | assumption
    | apply wf_addReply
    | apply wf_resetDevice
    | (intro (x : State); have hx : x.Inv; rotate_left; clear_value x; rotate_right; subst x)
    | (intro x; clear_value x)
    | intro x
    | lift_lets
    | split

theorem wf_answerAfter : ∀ (s : State) (c : Cmd) (task : Task), (s.Inv) → (@answerAfter s c task).Inv := by
  intros
  delta answerAfter
  with_reducible repeat'
    first
    | assumption
    | apply wf_payDoing

theorem wf_execReset : ∀ (c : Cmd) (s : State), (s.Inv) → KeepsWf (@execReset c s) := by
  intros
  delta execReset
  with_reducible repeat'
    first
    | assumption
    | apply wf_serve
    | apply wf_answerAfter
    | apply wf_killGrid
    | apply KeepsWf.next
    | apply KeepsSome.some
    | exact KeepsSome.none
    | apply wf_foldl
    | intro x

theorem wf_execPowerOn : ∀ (imageOk : Bool) (coldOk : Bool) (s : State), (s.Inv) → KeepsWf (@execPowerOn imageOk coldOk s) := by
  intros
  delta execPowerOn
  with_reducible repeat'
    first
    | assumption
    | apply wf_bringUp
    | apply wf_State_chosen
    | apply KeepsWf.next
    | split

theorem wf_powerOff : ∀ (s : State), (s.Inv) → (@powerOff s).Inv := by
  intros
  delta powerOff
  with_reducible repeat'
    first
    | assumption
    | apply wf_wiped

theorem wf_execPowerDown : ∀ (s : State), (s.Inv) → KeepsWf (@execPowerDown s) := by
  intros
  delta execPowerDown
  with_reducible repeat'
    first
    | assumption
    | apply wf_powerOff
    | apply KeepsWf.next

theorem wf_execThermalShutdown : ∀ (s : State), (s.Inv) → KeepsWf (@execThermalShutdown s) := by
  intros
  delta execThermalShutdown
  with_reducible repeat'
    first
    | assumption
    | apply wf_powerOff
    | apply KeepsWf.next
    | split

theorem wf_execThermalLimit : ∀ (temp : ℕ) (watts : ℕ) (s : State), (s.Inv) → KeepsWf (@execThermalLimit temp watts s) := by
  intros
  delta execThermalLimit
  with_reducible repeat'
    first
    | assumption
    | apply wf_State_modFw
    | apply KeepsWf.next

theorem wf_execPwrcap : ∀ (c : Cmd) (s : State), (s.Inv) → KeepsWf (@execPwrcap c s) := by
  intros
  delta execPwrcap
  with_reducible repeat'
    first
    | assumption
    | apply wf_serve
    | apply wf_answer
    | apply wf_State_modFw
    | apply KeepsSome.some
    | intro x

theorem wf_execTherm : ∀ (c : Cmd) (s : State), (s.Inv) → KeepsWf (@execTherm c s) := by
  intros
  delta execTherm
  with_reducible repeat'
    first
    | assumption
    | apply wf_serve
    | apply wf_answer
    | apply KeepsSome.some
    | intro x

theorem wf_execSnapshotLatch : ∀ (s : State), (s.Inv) → KeepsWf (@execSnapshotLatch s) := by
  intros
  delta execSnapshotLatch
  with_reducible repeat'
    first
    | assumption
    | apply wf_State_modFw
    | apply KeepsWf.next
    | split

theorem wf_execSnapcfg : ∀ (c : Cmd) (s : State), (s.Inv) → KeepsWf (@execSnapcfg c s) := by
  intros
  delta execSnapcfg
  with_reducible repeat'
    first
    | assumption
    | apply wf_serve
    | apply wf_answer
    | apply wf_State_modFw
    | apply KeepsSome.some
    | intro x

theorem wf_execSnaptrig : ∀ (c : Cmd) (s : State), (s.Inv) → KeepsWf (@execSnaptrig c s) := by
  intros
  delta execSnaptrig
  with_reducible repeat'
    first
    | assumption
    | apply wf_serve
    | apply wf_answer
    | apply wf_snapTrigger
    | apply KeepsSome.some
    | intro x

theorem wf_execSnapread : ∀ (c : Cmd) (s : State), (s.Inv) → KeepsWf (@execSnapread c s) := by
  intros
  delta execSnapread
  with_reducible repeat'
    first
    | assumption
    | apply wf_serve
    | apply wf_answer
    | apply State.wf_write
    | apply KeepsWf.next
    | apply KeepsSome.some
    | exact KeepsSome.none
    | intro x
    | lift_lets
    | split

theorem wf_execSnaprel : ∀ (c : Cmd) (s : State), (s.Inv) → KeepsWf (@execSnaprel c s) := by
  intros
  delta execSnaprel
  with_reducible repeat'
    first
    | assumption
    | apply wf_serve
    | apply wf_answer
    | apply wf_State_modFw
    | apply KeepsSome.some
    | intro x
    | lift_lets
    | split

theorem wf_execRelrep : ∀ (c : Cmd) (s : State), (s.Inv) → KeepsWf (@execRelrep c s) := by
  intros
  delta execRelrep
  with_reducible repeat'
    first
    | assumption
    | apply wf_serve
    | apply wf_answer
    | apply State.wf_write
    | apply KeepsWf.next
    | apply KeepsSome.some
    | exact KeepsSome.none
    | intro x

theorem wf_execRetire : ∀ (c : Cmd) (s : State), (s.Inv) → KeepsWf (@execRetire c s) := by
  intros
  delta execRetire
  with_reducible repeat'
    first
    | assumption
    | apply wf_serve
    | apply wf_answer
    | apply wf_answerAfter
    | apply wf_retireCore
    | apply KeepsWf.next
    | apply KeepsSome.some
    | exact KeepsSome.none
    | (intro x; clear_value x)
    | intro x
    | lift_lets
    | split

theorem wf_execCoreFailure : ∀ (core : ℕ) (s : State), (s.Inv) → KeepsWf (@execCoreFailure core s) := by
  intros
  delta execCoreFailure
  with_reducible repeat'
    first
    | assumption
    | apply wf_endOp
    | apply wf_State_chosen
    | apply wf_retireCore
    | apply KeepsWf.next
    | apply wf_foldl
    | (intro (x : State); have hx : x.Inv; rotate_left; clear_value x; rotate_right; subst x)
    | (intro x; clear_value x)
    | intro x
    | lift_lets
    | split

theorem wf_execHbmChannelFailure : ∀ (stack : ℕ) (channel : ℕ) (s : State), (s.Inv) → KeepsWf (@execHbmChannelFailure stack channel s) := by
  intros
  delta execHbmChannelFailure
  with_reducible repeat'
    first
    | assumption
    | apply wf_State_modFw
    | apply KeepsWf.next

theorem wf_execLinkLaneFault : ∀ (port : ℕ) (s : State), (s.Inv) → KeepsWf (@execLinkLaneFault port s) := by
  intros
  delta execLinkLaneFault
  with_reducible repeat'
    first
    | assumption
    | apply wf_portFails
    | apply KeepsWf.next
    | (intro (x : State); have hx : x.Inv; rotate_left; clear_value x; rotate_right; subst x)
    | (intro x; clear_value x)
    | lift_lets
    | split

theorem wf_execRegisterWrite : ∀ (off : ℕ) (v : DWord) (s : State), (s.Inv) → KeepsWf (@execRegisterWrite off v s) := by
  intros
  delta execRegisterWrite
  with_reducible repeat'
    first
    | assumption
    | apply wf_State_modFw
    | apply wf_ringBell
    | apply KeepsWf.next
    | split

theorem wf_execPcieLinkDown : ∀ (s : State), (s.Inv) → KeepsWf (@execPcieLinkDown s) := by
  intros
  delta execPcieLinkDown
  with_reducible repeat'
    first
    | assumption
    | apply wf_State_modFw
    | apply KeepsWf.next

theorem wf_execPcieLinkUp : ∀ (s : State), (s.Inv) → KeepsWf (@execPcieLinkUp s) := by
  intros
  delta execPcieLinkUp
  with_reducible repeat'
    first
    | assumption
    | apply wf_State_modFw
    | apply KeepsWf.next

theorem wf_execUnknownCommand : ∀ (c : Cmd) (op : BitVec 16) (s : State), (s.Inv) → KeepsWf (@execUnknownCommand c op s) := by
  intros
  delta execUnknownCommand
  with_reducible repeat'
    first
    | assumption
    | apply wf_answer
    | apply wf_takeRecord
    | apply KeepsWf.next
    | split

theorem wf_onQueue : ∀ (s : State) (op : ℕ) (c : Cmd) (bad : Bool) (act : State → ℕ → Queue → Option State), (s.Inv) → (∀ (a_2 : State) (a_1 : ℕ) (a_0 : Queue), a_2.Inv → KeepsSome (act a_2 a_1 a_0)) → KeepsWf (@onQueue s op c bad act) := by
  intro s op c bad act h0 h1
  delta onQueue
  with_reducible repeat'
    first
    | assumption
    | apply wf_serve
    | apply wf_answer
    | apply h1
    | apply KeepsSome.some
    | intro x
    | lift_lets
    | split

theorem wf_keepOwn : ∀ (s : State) (qn : ℕ), (s.Inv) → (@keepOwn s qn).Inv := by
  intros
  delta keepOwn
  with_reducible repeat'
    first
    | assumption

theorem wf_forgetQueue : ∀ (s : State) (qn : ℕ), (s.Inv) → (@forgetQueue s qn).Inv := by
  intros
  delta forgetQueue
  with_reducible repeat'
    first
    | assumption
    | apply wf_closeWcs
    | apply wf_secondReply
    | apply wf_addReply
    | apply wf_State_modFw
    | apply wf_keepOwn
    | apply wf_answerFault
    | apply wf_foldl
    | intro x
    | lift_lets
    | split

theorem wf_execQcreate : ∀ (c : Cmd) (s : State), (s.Inv) → KeepsWf (@execQcreate c s) := by
  intros
  delta execQcreate
  with_reducible repeat'
    first
    | assumption
    | apply wf_serve
    | apply wf_answer
    | apply wf_forgetQueue
    | apply wf_State_chosen
    | apply wf_dropWalks
    | apply wf_dropXlats
    | apply State.wf_zero
    | apply State.wf_writeNum
    | apply wf_State_putQueue
    | apply KeepsWf.next
    | apply KeepsSome.some
    | exact KeepsSome.none
    | (intro (x : State); have hx : x.Inv; rotate_left; clear_value x; rotate_right; subst x)
    | (intro x; clear_value x)
    | intro x
    | lift_lets
    | split

theorem wf_variant : ∀ (s : State) (x : DWord) (others : List ℕ) (o : Out), (s.Inv) → (KeepsWf o) → KeepsWf (@variant s x others o) := by
  intros
  delta variant
  with_reducible repeat'
    first
    | assumption
    | apply KeepsWf.next
    | split

theorem wf_execQstop : ∀ (c : Cmd) (s : State), (s.Inv) → KeepsWf (@execQstop c s) := by
  intros
  delta execQstop
  with_reducible repeat'
    first
    | assumption
    | apply wf_variant
    | apply wf_onQueue
    | apply wf_answer
    | apply wf_State_putQueue
    | apply KeepsWf.next
    | apply KeepsSome.some
    | exact KeepsSome.none
    | intro x
    | lift_lets
    | split

theorem wf_execQstopDestroy : ∀ (c : Cmd) (s : State), (s.Inv) → KeepsWf (@execQstopDestroy c s) := by
  intros
  delta execQstopDestroy
  with_reducible repeat'
    first
    | assumption
    | apply wf_variant
    | apply wf_onQueue
    | apply wf_answer
    | apply wf_State_putQueue
    | apply KeepsWf.next
    | apply KeepsSome.some
    | exact KeepsSome.none
    | intro x
    | lift_lets
    | split

theorem wf_execQueueDestroyComplete : ∀ (q : ℕ) (s : State), (s.Inv) → KeepsWf (@execQueueDestroyComplete q s) := by
  intros
  delta execQueueDestroyComplete
  with_reducible repeat'
    first
    | assumption
    | apply wf_secondReply
    | apply wf_State_putQueue
    | apply KeepsWf.next
    | split

theorem wf_execQread : ∀ (c : Cmd) (s : State), (s.Inv) → KeepsWf (@execQread c s) := by
  intros
  delta execQread
  with_reducible repeat'
    first
    | assumption
    | apply wf_serve
    | apply wf_answer
    | apply State.wf_write
    | apply KeepsSome.some
    | intro x
    | lift_lets
    | split

theorem wf_flushCores : ∀ (s : State) (p : UpdLine → Bool), (s.Inv) → KeepsSome (@flushCores s p) := by
  intros
  delta flushCores
  with_reducible repeat'
    first
    | assumption
    | apply wf_flushCore
    | apply KeepsSome.none
    | apply KeepsSome.some
    | apply wf_foldl
    | intro x
    | split

theorem wf_execAsgen : ∀ (c : Cmd) (s : State), (s.Inv) → KeepsWf (@execAsgen c s) := by
  intros
  delta execAsgen
  with_reducible repeat'
    first
    | assumption
    | apply wf_onQueue
    | apply wf_dropWalks
    | apply wf_dropXlats
    | apply wf_answer
    | apply wf_State_modQueue
    | apply wf_flushCores
    | apply KeepsSome.map
    | intro x
    | lift_lets
    | split

theorem wf_restamp : ∀ (s : State) (q : Queue) (va : ℕ), (s.Inv) → (@restamp s q va).Inv := by
  intros
  delta restamp
  with_reducible repeat'
    first
    | assumption
    | split

theorem wf_execInvpage : ∀ (c : Cmd) (s : State), (s.Inv) → KeepsWf (@execInvpage c s) := by
  intros
  delta execInvpage
  with_reducible repeat'
    first
    | assumption
    | apply wf_onQueue
    | apply wf_closeWcs
    | apply wf_answer
    | apply wf_restamp
    | apply wf_dropRange
    | apply wf_flushCores
    | apply KeepsSome.none
    | apply KeepsSome.map
    | (intro x; subst x)
    | intro x
    | lift_lets
    | split

theorem wf_execGrantref : ∀ (c : Cmd) (s : State), (s.Inv) → KeepsWf (@execGrantref c s) := by
  intros
  delta execGrantref
  with_reducible repeat'
    first
    | assumption
    | apply wf_onQueue
    | apply wf_answer
    | apply wf_State_putQueue
    | apply KeepsSome.some
    | intro x

theorem wf_execFaultansRetry : ∀ (c : Cmd) (s : State), (s.Inv) → KeepsWf (@execFaultansRetry c s) := by
  intros
  delta execFaultansRetry
  with_reducible repeat'
    first
    | assumption
    | apply wf_variant
    | apply wf_onQueue
    | apply wf_answer
    | apply wf_answerFault
    | apply KeepsWf.next
    | apply KeepsSome.some
    | exact KeepsSome.none
    | intro x
    | lift_lets
    | split

theorem wf_execFaultansKill : ∀ (c : Cmd) (s : State), (s.Inv) → KeepsWf (@execFaultansKill c s) := by
  intros
  delta execFaultansKill
  with_reducible repeat'
    first
    | assumption
    | apply wf_variant
    | apply wf_onQueue
    | apply wf_answer
    | apply wf_answerAfter
    | apply wf_answerFault
    | apply wf_killGrid
    | apply KeepsWf.next
    | apply KeepsSome.some
    | exact KeepsSome.none
    | intro x
    | lift_lets
    | split

theorem wf_resumeCmd : ∀ (s : State) (c : Cmd) (f : State → ℕ → Team → State), (s.Inv) → (∀ (a_2 : State) (a_1 : ℕ) (a_0 : Team), a_2.Inv → (f a_2 a_1 a_0).Inv) → KeepsWf (@resumeCmd s c f) := by
  intro s c f h0 h1
  delta resumeCmd
  with_reducible repeat'
    first
    | assumption
    | apply wf_onQueue
    | apply wf_answer
    | apply h1
    | apply KeepsSome.some
    | intro x
    | lift_lets
    | split

theorem wf_execResumeSkip : ∀ (c : Cmd) (s : State), (s.Inv) → KeepsWf (@execResumeSkip c s) := by
  intros
  delta execResumeSkip
  with_reducible repeat'
    first
    | assumption
    | apply wf_variant
    | apply wf_resumeCmd
    | apply wf_answer
    | apply wf_resumeTeam
    | apply KeepsWf.next
    | intro x

theorem wf_execResumeRetry : ∀ (c : Cmd) (s : State), (s.Inv) → KeepsWf (@execResumeRetry c s) := by
  intros
  delta execResumeRetry
  with_reducible repeat'
    first
    | assumption
    | apply wf_variant
    | apply wf_resumeCmd
    | apply wf_answer
    | apply wf_resumeTeam
    | apply KeepsWf.next
    | intro x

theorem wf_execResumeEnd : ∀ (c : Cmd) (s : State), (s.Inv) → KeepsWf (@execResumeEnd c s) := by
  intros
  delta execResumeEnd
  with_reducible repeat'
    first
    | assumption
    | apply wf_variant
    | apply wf_resumeCmd
    | apply wf_answerAfter
    | apply wf_killGrid
    | apply KeepsWf.next
    | intro x

theorem wf_onGrid : ∀ (s : State) (op : ℕ) (c : Cmd) (act : State → ℕ → Grid → State), (s.Inv) → (∀ (a_2 : State) (a_1 : ℕ) (a_0 : Grid), a_2.Inv → (act a_2 a_1 a_0).Inv) → KeepsWf (@onGrid s op c act) := by
  intro s op c act h0 h1
  delta onGrid
  with_reducible repeat'
    first
    | assumption
    | apply wf_onQueue
    | apply wf_answer
    | apply h1
    | apply KeepsSome.some
    | intro x
    | lift_lets
    | split

theorem wf_execPreempt : ∀ (c : Cmd) (s : State), (s.Inv) → KeepsWf (@execPreempt c s) := by
  intros
  delta execPreempt
  with_reducible repeat'
    first
    | assumption
    | apply wf_onGrid
    | apply wf_answer
    | apply wf_answerAfter
    | apply wf_evictTeam
    | apply KeepsWf.next
    | apply wf_foldl
    | (intro x; clear_value x)
    | intro x
    | lift_lets
    | split

theorem wf_execFramerel : ∀ (c : Cmd) (s : State), (s.Inv) → KeepsWf (@execFramerel c s) := by
  intros
  delta execFramerel
  with_reducible repeat'
    first
    | assumption
    | apply wf_onGrid
    | apply wf_answer
    | apply wf_State_modGroup
    | apply wf_releasePins
    | apply wf_State_modTeam
    | apply wf_foldl
    | (intro (x : State); have hx : x.Inv; rotate_left; clear_value x; rotate_right; subst x)
    | intro x
    | lift_lets
    | split

theorem wf_execHeapbind : ∀ (c : Cmd) (s : State), (s.Inv) → KeepsWf (@execHeapbind c s) := by
  intros
  delta execHeapbind
  with_reducible repeat'
    first
    | assumption
    | apply wf_variant
    | apply wf_onQueue
    | apply wf_answer
    | apply wf_syncHeap
    | apply wf_State_putQueue
    | apply KeepsWf.next
    | apply KeepsSome.some
    | exact KeepsSome.none
    | (intro x; clear_value x)
    | intro x
    | lift_lets
    | split

theorem wf_execHeapbindUnbind : ∀ (c : Cmd) (s : State), (s.Inv) → KeepsWf (@execHeapbindUnbind c s) := by
  intros
  delta execHeapbindUnbind
  with_reducible repeat'
    first
    | assumption
    | apply wf_variant
    | apply wf_onQueue
    | apply wf_answer
    | apply wf_State_putQueue
    | apply KeepsWf.next
    | apply KeepsSome.some
    | exact KeepsSome.none
    | intro x
    | lift_lets
    | split

theorem wf_execReloc : ∀ (c : Cmd) (set : List (ℕ × ℕ)) (s : State), (s.Inv) → KeepsWf (@execReloc c set s) := by
  intros
  delta execReloc
  with_reducible repeat'
    first
    | assumption
    | apply wf_onQueue
    | apply wf_answer
    | apply wf_startCycle
    | apply KeepsSome.some
    | intro x
    | lift_lets
    | split

theorem wf_execMigrate : ∀ (c : Cmd) (s : State), (s.Inv) → KeepsWf (@execMigrate c s) := by
  intros
  delta execMigrate
  with_reducible repeat'
    first
    | assumption
    | apply wf_onQueue
    | apply wf_answer
    | apply wf_State_putMig
    | apply wf_State_named
    | apply wf_beginMigration
    | exact KeepsSome.none
    | apply KeepsSome.some
    | (intro (x : State); have hx : x.Inv; rotate_left; clear_value x; rotate_right; subst x)
    | (intro x; clear_value x)
    | intro x
    | lift_lets
    | split

theorem wf_agreed : ∀ (s : State) (c : Cmd), (s.Inv) → (@agreed s c).Inv := by
  intros
  delta agreed
  with_reducible repeat'
    first
    | assumption
    | apply wf_secondReply
    | apply State.wf_writeNum
    | apply wf_addReply
    | intro x
    | lift_lets
    | split

theorem wf_execPeerbind : ∀ (c : Cmd) (s : State), (s.Inv) → KeepsWf (@execPeerbind c s) := by
  intros
  delta execPeerbind
  with_reducible repeat'
    first
    | assumption
    | apply wf_onQueue
    | apply wf_answer
    | apply wf_State_chosen
    | apply wf_agreed
    | apply wf_State_modFw
    | apply KeepsWf.next
    | apply KeepsSome.some
    | exact KeepsSome.none
    | (intro (x : State); have hx : x.Inv; rotate_left; clear_value x; rotate_right; subst x)
    | intro x
    | lift_lets
    | split

theorem wf_execRoute : ∀ (c : Cmd) (s : State), (s.Inv) → KeepsWf (@execRoute c s) := by
  intros
  delta execRoute
  with_reducible repeat'
    first
    | assumption
    | apply wf_serve
    | apply wf_answer
    | apply wf_State_modFw
    | apply KeepsSome.some
    | intro x

theorem wf_replayFirst : ∀ (s : State) (c : Ctx), (s.Inv) → KeepsSome (@replayFirst s c) := by
  intros
  delta replayFirst
  with_reducible repeat'
    first
    | assumption
    | apply wf_repost
    | apply wf_readmit
    | apply wf_linkAgain
    | apply KeepsSome.some
    | exact KeepsSome.none
    | intro x
    | lift_lets
    | split

theorem wf_fwAct : ∀ (s : State) (a : FwAct), (s.Inv) → (@fwAct s a).Inv := by
  intros
  delta fwAct
  with_reducible repeat'
    first
    | assumption
    | apply wf_State_modFw
    | apply wf_agreed
    | apply wf_finish
    | apply wf_payDoing
    | intro x
    | lift_lets
    | split

theorem wf_exec : ∀ (i : Instr) (s : State), (s.Inv) → KeepsWf (@exec i s) := by
  intros
  delta exec
  with_reducible repeat'
    first
    | assumption
    | apply wf_execAdd
    | apply wf_execSub
    | apply wf_execMulLo
    | apply wf_execMulHi
    | apply wf_execMadLo
    | apply wf_execAdda
    | apply wf_execMin
    | apply wf_execMax
    | apply wf_execAnd
    | apply wf_execOr
    | apply wf_execXor
    | apply wf_execAndn
    | apply wf_execShl
    | apply wf_execShr
    | apply wf_execSra
    | apply wf_execRot
    | apply wf_execBfe
    | apply wf_execBfi
    | apply wf_execPopc
    | apply wf_execPopcLt
    | apply wf_execClz
    | apply wf_execBrev
    | apply wf_execAbs
    | apply wf_execNot
    | apply wf_execDot4I8
    | apply wf_execAddi
    | apply wf_execAndi
    | apply wf_execOri
    | apply wf_execXori
    | apply wf_execShli
    | apply wf_execShri
    | apply wf_execSrai
    | apply wf_execRoti
    | apply wf_execMovi
    | apply wf_execMini
    | apply wf_execMaxi
    | apply wf_execKadd
    | apply wf_execKsub
    | apply wf_execKmulLo
    | apply wf_execKmulHi
    | apply wf_execKmadLo
    | apply wf_execKadda
    | apply wf_execKmin
    | apply wf_execKmax
    | apply wf_execKand
    | apply wf_execKor
    | apply wf_execKxor
    | apply wf_execKandn
    | apply wf_execKshl
    | apply wf_execKshr
    | apply wf_execKsra
    | apply wf_execKrot
    | apply wf_execKaddi
    | apply wf_execKmovi
    | apply wf_execKbfe
    | apply wf_execKbfi
    | apply wf_execKpopc
    | apply wf_execKclz
    | apply wf_execKbrev
    | apply wf_execKnot
    | apply wf_execKabs
    | apply wf_execKmov
    | apply wf_execFadd
    | apply wf_execFsub
    | apply wf_execFmul
    | apply wf_execFma
    | apply wf_execFmin
    | apply wf_execFmax
    | apply wf_execFaddBf16x2
    | apply wf_execFmulBf16x2
    | apply wf_execFmaBf16x2
    | apply wf_execFminBf16x2
    | apply wf_execFmaxBf16x2
    | apply wf_execFaddF16x2
    | apply wf_execFmulF16x2
    | apply wf_execFmaF16x2
    | apply wf_execFminF16x2
    | apply wf_execFmaxF16x2
    | apply wf_execRcp
    | apply wf_execRsqrt
    | apply wf_execExp2
    | apply wf_execLog2
    | apply wf_execCvt
    | apply wf_execCmpEq
    | apply wf_execCmpNe
    | apply wf_execCmpLt
    | apply wf_execCmpLe
    | apply wf_execCmpGt
    | apply wf_execCmpGe
    | apply wf_execPand
    | apply wf_execPor
    | apply wf_execPxor
    | apply wf_execPnot
    | apply wf_execSel
    | apply wf_execMov
    | apply wf_execMovk
    | apply wf_execSreg
    | apply wf_execShflIdx
    | apply wf_execShflUp
    | apply wf_execShflDown
    | apply wf_execShflXor
    | apply wf_execXg
    | apply wf_execPermB
    | apply wf_execVoteAny
    | apply wf_execVoteAll
    | apply wf_execVoteBallot
    | apply wf_execGredAdd
    | apply wf_execGredMin
    | apply wf_execGredMax
    | apply wf_execGscanAdd
    | apply wf_execRbal
    | apply wf_execLd
    | apply wf_execSt
    | apply wf_execLdQ
    | apply wf_execStQ
    | apply wf_execLdRo
    | apply wf_execLdk
    | apply wf_execLdl
    | apply wf_execLds
    | apply wf_execSts
    | apply wf_execLdsd
    | apply wf_execStsd
    | apply wf_execPf
    | apply wf_execMwait
    | apply wf_execAtomAdd
    | apply wf_execAtomMin
    | apply wf_execAtomMax
    | apply wf_execAtomAnd
    | apply wf_execAtomOr
    | apply wf_execAtomXor
    | apply wf_execAtomExch
    | apply wf_execAtomCas
    | apply wf_execRedAdd
    | apply wf_execRedMin
    | apply wf_execRedMax
    | apply wf_execRedAnd
    | apply wf_execRedOr
    | apply wf_execRedXor
    | apply wf_execBupdAdd
    | apply wf_execBupdMin
    | apply wf_execBupdMax
    | apply wf_execBredAdd
    | apply wf_execBredMin
    | apply wf_execBredMax
    | apply wf_execFence
    | apply wf_execFenceAcq
    | apply wf_execFenceRel
    | apply wf_execTfence
    | apply wf_execBinit
    | apply wf_execBarv
    | apply wf_execBexp
    | apply wf_execBtest
    | apply wf_execBwait
    | apply wf_execBinval
    | apply wf_execTsync
    | apply wf_execClsync
    | apply wf_execHld
    | apply wf_execHst
    | apply wf_execLdh
    | apply wf_execSth
    | apply wf_execHnew
    | apply wf_execHfree
    | apply wf_execHpin
    | apply wf_execHunpin
    | apply wf_execHeq
    | apply wf_execHtag
    | apply wf_execQla
    | apply wf_execQzero
    | apply wf_execQrd
    | apply wf_execQwr
    | apply wf_execQrel
    | apply wf_execQmm
    | apply wf_execQmmg
    | apply wf_execQdist
    | apply wf_execQtopk
    | apply wf_execQatt
    | apply wf_execQatf
    | apply wf_execQsel
    | apply wf_execMxq
    | apply wf_execMxd
    | apply wf_execMload
    | apply wf_execMfree
    | apply wf_execMclass
    | apply wf_execMstat
    | apply wf_execKvnew
    | apply wf_execKvseal
    | apply wf_execKvdem
    | apply wf_execKvdemInv
    | apply wf_execKvcold
    | apply wf_execKvq
    | apply wf_execKvpolReg
    | apply wf_execKvpolSweep
    | apply wf_execKvpolUnreg
    | apply wf_execKvpolSet
    | apply wf_execCpy
    | apply wf_execCpy2d
    | apply wf_execCpym
    | apply wf_execCpyc
    | apply wf_execCpyst
    | apply wf_execCpyx
    | apply wf_execLld
    | apply wf_execLgat
    | apply wf_execLwr
    | apply wf_execLred
    | apply wf_execMxr
    | apply wf_execDlaunch
    | apply wf_execQsig
    | apply wf_execBra
    | apply wf_execCall
    | apply wf_execTrap
    | apply wf_execSnap
    | apply wf_execCsrr
    | apply wf_execClock
    | apply wf_execJmp
    | apply wf_execCallIndirect
    | apply wf_execExtImm
    | apply wf_execExtReg
    | apply wf_execMov16
    | apply wf_execAdd16
    | apply wf_execSub16
    | apply wf_execMul16
    | apply wf_execAnd16
    | apply wf_execOr16
    | apply wf_execXor16
    | apply wf_execAndn16
    | apply wf_execShl16
    | apply wf_execShr16
    | apply wf_execSra16
    | apply wf_execMin16
    | apply wf_execMax16
    | apply wf_execFadd16
    | apply wf_execFmul16
    | apply wf_execFmax16
    | apply wf_execNop
    | apply wf_execJoin
    | apply wf_execYield
    | apply wf_execExit
    | apply wf_execRet
    | apply wf_execGuard
    | apply wf_execIllegalInstruction
    | apply wf_execFaultRecordWrite
    | apply wf_execTrapRecordWrite
    | apply wf_execTeamFillComplete
    | apply wf_execDrainComplete
    | apply wf_execContextSaveComplete
    | apply wf_execActiveSetExchange
    | apply wf_execJoinWaitTimeout
    | apply wf_execMwaitReread
    | apply wf_execBarrierDecrement
    | apply wf_execUpdateOnlyTimeout
    | apply wf_execMigrationPrecopyDone
    | apply wf_execMigrationRecopyDone
    | apply wf_execMigrationFlip
    | apply wf_execMigrationInvalAck
    | apply wf_execMigrationHoldTimeout
    | apply wf_execHostWrite
    | apply wf_execHostRead
    | apply wf_execPassGrant
    | apply wf_execFusionWaitExpiry
    | apply wf_execPassCommit
    | apply wf_execAttentionComplete
    | apply wf_execConversionComplete
    | apply wf_execObjectFree
    | apply wf_execSweepIntervalStart
    | apply wf_execSweepRequestStart
    | apply wf_execSweepVisit
    | apply wf_execColdMoveCopyDone
    | apply wf_execSweepComplete
    | apply wf_execDirectoryTakeup
    | apply wf_execDirectoryBusyTimeout
    | apply wf_execWriteCombineTimeout
    | apply wf_execRelocAutoStart
    | apply wf_execRelocCopyDone
    | apply wf_execRelocRecopyDone
    | apply wf_execRelocFlip
    | apply wf_execRelocFinalTimeout
    | apply wf_execRelocAck
    | apply wf_execHealPassComplete
    | apply wf_execCopyOperationComplete
    | apply wf_execMulticastDelivery
    | apply wf_execChainRecordFetch
    | apply wf_execChainWaitTimeout
    | apply wf_execChainRecordComplete
    | apply wf_execFlitArrival
    | apply wf_execPeerRequest
    | apply wf_execPortFailure
    | apply wf_execLinkRetryTimeout
    | apply wf_execLinkOperationComplete
    | apply wf_execMxrTimeout
    | apply wf_execDoorbell
    | apply wf_execLaunchRecordRead
    | apply wf_execDependenceReread
    | apply wf_execTeamPlacement
    | apply wf_execGangPlacement
    | apply wf_execWaitingLevelAge
    | apply wf_execGangFirstAge
    | apply wf_execGangSecondAge
    | apply wf_execTimeSliceExpiry
    | apply wf_execNoRoomEviction
    | apply wf_execGridComplete
    | apply wf_execIdent
    | apply wf_execClaim
    | apply wf_execHandover
    | apply wf_execAttest
    | apply wf_execLoadimg
    | apply wf_execReset
    | apply wf_execQcreate
    | apply wf_execQstop
    | apply wf_execQstopDestroy
    | apply wf_execQueueDestroyComplete
    | apply wf_execAsgen
    | apply wf_execInvpage
    | apply wf_execGrantref
    | apply wf_execFaultansRetry
    | apply wf_execFaultansKill
    | apply wf_execResumeSkip
    | apply wf_execResumeRetry
    | apply wf_execResumeEnd
    | apply wf_execPreempt
    | apply wf_execFramerel
    | apply wf_execHeapbind
    | apply wf_execHeapbindUnbind
    | apply wf_execReloc
    | apply wf_execMigrate
    | apply wf_execPeerbind
    | apply wf_execRoute
    | apply wf_execQread
    | apply wf_execSnapcfg
    | apply wf_execSnaptrig
    | apply wf_execSnapread
    | apply wf_execSnaprel
    | apply wf_execRelrep
    | apply wf_execRetire
    | apply wf_execPwrcap
    | apply wf_execTherm
    | apply wf_execUnknownCommand
    | apply wf_execRegisterWrite
    | apply wf_execSnapshotLatch
    | apply wf_execOwnershipLapse
    | apply wf_execHandoverTimeout
    | apply wf_execPowerOn
    | apply wf_execCoreFailure
    | apply wf_execHbmChannelFailure
    | apply wf_execLinkLaneFault
    | apply wf_execThermalLimit
    | apply wf_execThermalShutdown
    | apply wf_execPowerDown
    | apply wf_execPcieLinkDown
    | apply wf_execPcieLinkUp
    | split

theorem wf_andThen : ∀ (o : Host.Outcome State Fault Refusal) (f : State → Host.Outcome State Fault Refusal), (KeepsWf o) → (∀ (a_0 : State), a_0.Inv → KeepsWf (f a_0)) → KeepsWf (@andThen o f) := by
  intro o f ho hf
  unfold andThen
  split
  · exact hf _ (ho.next_wf _ rfl)
  · exact KeepsWf.fault _
  · exact KeepsWf.refused _

end Sys2Proof.Machine
end

