-- ==== Sys2Proof/Laws/PerInstr.lean ====
section
/-! SUPPORT. Laws stated per instruction: family `RoundTrip`, what its statement says and one lemma per constructor. -/

/-- The bytes of a well-formed instruction decode to it and leave what follows. -/
def Sys2Proof.Laws.RoundTrip.Statement (i : Sys2Proof.Instr) : Prop :=
  i.wellFormed = true → ∀ rest : List Sys2Proof.Byte, Sys2Proof.decode (Sys2Proof.encode i ++ rest) = .ok (i, rest)

namespace Sys2Proof

/-- An instruction with a word. -/
theorem roundTrip_word {i : Instr} (hb : wordBits i = 32) (h : WordOf i (encodeWord i)) : Laws.RoundTrip.Statement i :=
  fun _ rest => by rw [encode, hb]; exact decode_word h rest

/-- An instruction with a halfword. -/
theorem roundTrip_half {i : Instr} (hb : wordBits i = 16) (h : HalfOf i (encodeWord i)) : Laws.RoundTrip.Statement i :=
  fun _ rest => by rw [encode, hb]; exact decode_half h rest

/-- An event or a command has no word. -/
theorem roundTrip_event {i : Instr} (h : i.wellFormed = false) : Laws.RoundTrip.Statement i := fun hw => absurd (h.symm.trans hw) (by decide)

namespace Laws.RoundTrip

theorem add : ∀ x0 x1 x2 x3 x4 x5, Statement (.add x0 x1 x2 x3 x4 x5) := fun x0 x1 x2 x3 x4 x5 => roundTrip_word rfl (word_add x0 x1 x2 x3 x4 x5)
theorem sub : ∀ x0 x1 x2 x3 x4 x5, Statement (.sub x0 x1 x2 x3 x4 x5) := fun x0 x1 x2 x3 x4 x5 => roundTrip_word rfl (word_sub x0 x1 x2 x3 x4 x5)
theorem mulLo : ∀ x0 x1 x2 x3 x4, Statement (.mulLo x0 x1 x2 x3 x4) := fun x0 x1 x2 x3 x4 => roundTrip_word rfl (word_mulLo x0 x1 x2 x3 x4)
theorem mulHi : ∀ x0 x1 x2 x3 x4 x5, Statement (.mulHi x0 x1 x2 x3 x4 x5) := fun x0 x1 x2 x3 x4 x5 => roundTrip_word rfl (word_mulHi x0 x1 x2 x3 x4 x5)
theorem madLo : ∀ x0 x1 x2 x3 x4, Statement (.madLo x0 x1 x2 x3 x4) := fun x0 x1 x2 x3 x4 => roundTrip_word rfl (word_madLo x0 x1 x2 x3 x4)
theorem adda : ∀ x0 x1 x2 x3 x4, Statement (.adda x0 x1 x2 x3 x4) := fun x0 x1 x2 x3 x4 => roundTrip_word rfl (word_adda x0 x1 x2 x3 x4)
theorem min : ∀ x0 x1 x2 x3 x4 x5, Statement (.min x0 x1 x2 x3 x4 x5) := fun x0 x1 x2 x3 x4 x5 => roundTrip_word rfl (word_min x0 x1 x2 x3 x4 x5)
theorem max : ∀ x0 x1 x2 x3 x4 x5, Statement (.max x0 x1 x2 x3 x4 x5) := fun x0 x1 x2 x3 x4 x5 => roundTrip_word rfl (word_max x0 x1 x2 x3 x4 x5)
theorem and : ∀ x0 x1 x2 x3 x4, Statement (.and x0 x1 x2 x3 x4) := fun x0 x1 x2 x3 x4 => roundTrip_word rfl (word_and x0 x1 x2 x3 x4)
theorem or : ∀ x0 x1 x2 x3 x4, Statement (.or x0 x1 x2 x3 x4) := fun x0 x1 x2 x3 x4 => roundTrip_word rfl (word_or x0 x1 x2 x3 x4)
theorem xor : ∀ x0 x1 x2 x3 x4, Statement (.xor x0 x1 x2 x3 x4) := fun x0 x1 x2 x3 x4 => roundTrip_word rfl (word_xor x0 x1 x2 x3 x4)
theorem andn : ∀ x0 x1 x2 x3 x4, Statement (.andn x0 x1 x2 x3 x4) := fun x0 x1 x2 x3 x4 => roundTrip_word rfl (word_andn x0 x1 x2 x3 x4)
theorem shl : ∀ x0 x1 x2 x3 x4, Statement (.shl x0 x1 x2 x3 x4) := fun x0 x1 x2 x3 x4 => roundTrip_word rfl (word_shl x0 x1 x2 x3 x4)
theorem shr : ∀ x0 x1 x2 x3 x4, Statement (.shr x0 x1 x2 x3 x4) := fun x0 x1 x2 x3 x4 => roundTrip_word rfl (word_shr x0 x1 x2 x3 x4)
theorem sra : ∀ x0 x1 x2 x3 x4, Statement (.sra x0 x1 x2 x3 x4) := fun x0 x1 x2 x3 x4 => roundTrip_word rfl (word_sra x0 x1 x2 x3 x4)
theorem rot : ∀ x0 x1 x2 x3 x4, Statement (.rot x0 x1 x2 x3 x4) := fun x0 x1 x2 x3 x4 => roundTrip_word rfl (word_rot x0 x1 x2 x3 x4)
theorem bfe : ∀ x0 x1 x2 x3 x4 x5, Statement (.bfe x0 x1 x2 x3 x4 x5) := fun x0 x1 x2 x3 x4 x5 => roundTrip_word rfl (word_bfe x0 x1 x2 x3 x4 x5)
theorem bfi : ∀ x0 x1 x2 x3 x4, Statement (.bfi x0 x1 x2 x3 x4) := fun x0 x1 x2 x3 x4 => roundTrip_word rfl (word_bfi x0 x1 x2 x3 x4)
theorem popc : ∀ x0 x1 x2, Statement (.popc x0 x1 x2) := fun x0 x1 x2 => roundTrip_word rfl (word_popc x0 x1 x2)
theorem popcLt : ∀ x0 x1 x2 x3 x4, Statement (.popcLt x0 x1 x2 x3 x4) := fun x0 x1 x2 x3 x4 => roundTrip_word rfl (word_popcLt x0 x1 x2 x3 x4)
theorem clz : ∀ x0 x1 x2, Statement (.clz x0 x1 x2) := fun x0 x1 x2 => roundTrip_word rfl (word_clz x0 x1 x2)
theorem brev : ∀ x0 x1 x2, Statement (.brev x0 x1 x2) := fun x0 x1 x2 => roundTrip_word rfl (word_brev x0 x1 x2)
theorem abs : ∀ x0 x1 x2, Statement (.abs x0 x1 x2) := fun x0 x1 x2 => roundTrip_word rfl (word_abs x0 x1 x2)
theorem not : ∀ x0 x1 x2, Statement (.not x0 x1 x2) := fun x0 x1 x2 => roundTrip_word rfl (word_not x0 x1 x2)
theorem dot4I8 : ∀ x0 x1 x2 x3 x4 x5, Statement (.dot4I8 x0 x1 x2 x3 x4 x5) := fun x0 x1 x2 x3 x4 x5 => roundTrip_word rfl (word_dot4I8 x0 x1 x2 x3 x4 x5)
theorem addi : ∀ x0 x1 x2 x3 x4, Statement (.addi x0 x1 x2 x3 x4) := fun x0 x1 x2 x3 x4 => roundTrip_word rfl (word_addi x0 x1 x2 x3 x4)
theorem andi : ∀ x0 x1 x2 x3, Statement (.andi x0 x1 x2 x3) := fun x0 x1 x2 x3 => roundTrip_word rfl (word_andi x0 x1 x2 x3)
theorem ori : ∀ x0 x1 x2 x3, Statement (.ori x0 x1 x2 x3) := fun x0 x1 x2 x3 => roundTrip_word rfl (word_ori x0 x1 x2 x3)
theorem xori : ∀ x0 x1 x2 x3, Statement (.xori x0 x1 x2 x3) := fun x0 x1 x2 x3 => roundTrip_word rfl (word_xori x0 x1 x2 x3)
theorem shli : ∀ x0 x1 x2 x3, Statement (.shli x0 x1 x2 x3) := fun x0 x1 x2 x3 => roundTrip_word rfl (word_shli x0 x1 x2 x3)
theorem shri : ∀ x0 x1 x2 x3, Statement (.shri x0 x1 x2 x3) := fun x0 x1 x2 x3 => roundTrip_word rfl (word_shri x0 x1 x2 x3)
theorem srai : ∀ x0 x1 x2 x3, Statement (.srai x0 x1 x2 x3) := fun x0 x1 x2 x3 => roundTrip_word rfl (word_srai x0 x1 x2 x3)
theorem roti : ∀ x0 x1 x2 x3, Statement (.roti x0 x1 x2 x3) := fun x0 x1 x2 x3 => roundTrip_word rfl (word_roti x0 x1 x2 x3)
theorem movi : ∀ x0 x1, Statement (.movi x0 x1) := fun x0 x1 => roundTrip_word rfl (word_movi x0 x1)
theorem mini : ∀ x0 x1 x2 x3 x4, Statement (.mini x0 x1 x2 x3 x4) := fun x0 x1 x2 x3 x4 => roundTrip_word rfl (word_mini x0 x1 x2 x3 x4)
theorem maxi : ∀ x0 x1 x2 x3 x4, Statement (.maxi x0 x1 x2 x3 x4) := fun x0 x1 x2 x3 x4 => roundTrip_word rfl (word_maxi x0 x1 x2 x3 x4)
theorem kadd : ∀ x0 x1 x2 x3, Statement (.kadd x0 x1 x2 x3) := fun x0 x1 x2 x3 => roundTrip_word rfl (word_kadd x0 x1 x2 x3)
theorem ksub : ∀ x0 x1 x2 x3, Statement (.ksub x0 x1 x2 x3) := fun x0 x1 x2 x3 => roundTrip_word rfl (word_ksub x0 x1 x2 x3)
theorem kmulLo : ∀ x0 x1 x2, Statement (.kmulLo x0 x1 x2) := fun x0 x1 x2 => roundTrip_word rfl (word_kmulLo x0 x1 x2)
theorem kmulHi : ∀ x0 x1 x2 x3, Statement (.kmulHi x0 x1 x2 x3) := fun x0 x1 x2 x3 => roundTrip_word rfl (word_kmulHi x0 x1 x2 x3)
theorem kmadLo : ∀ x0 x1 x2, Statement (.kmadLo x0 x1 x2) := fun x0 x1 x2 => roundTrip_word rfl (word_kmadLo x0 x1 x2)
theorem kadda : ∀ x0 x1 x2, Statement (.kadda x0 x1 x2) := fun x0 x1 x2 => roundTrip_word rfl (word_kadda x0 x1 x2)
theorem kmin : ∀ x0 x1 x2 x3, Statement (.kmin x0 x1 x2 x3) := fun x0 x1 x2 x3 => roundTrip_word rfl (word_kmin x0 x1 x2 x3)
theorem kmax : ∀ x0 x1 x2 x3, Statement (.kmax x0 x1 x2 x3) := fun x0 x1 x2 x3 => roundTrip_word rfl (word_kmax x0 x1 x2 x3)
theorem kand : ∀ x0 x1 x2, Statement (.kand x0 x1 x2) := fun x0 x1 x2 => roundTrip_word rfl (word_kand x0 x1 x2)
theorem kor : ∀ x0 x1 x2, Statement (.kor x0 x1 x2) := fun x0 x1 x2 => roundTrip_word rfl (word_kor x0 x1 x2)
theorem kxor : ∀ x0 x1 x2, Statement (.kxor x0 x1 x2) := fun x0 x1 x2 => roundTrip_word rfl (word_kxor x0 x1 x2)
theorem kandn : ∀ x0 x1 x2, Statement (.kandn x0 x1 x2) := fun x0 x1 x2 => roundTrip_word rfl (word_kandn x0 x1 x2)
theorem kshl : ∀ x0 x1 x2, Statement (.kshl x0 x1 x2) := fun x0 x1 x2 => roundTrip_word rfl (word_kshl x0 x1 x2)
theorem kshr : ∀ x0 x1 x2, Statement (.kshr x0 x1 x2) := fun x0 x1 x2 => roundTrip_word rfl (word_kshr x0 x1 x2)
theorem ksra : ∀ x0 x1 x2, Statement (.ksra x0 x1 x2) := fun x0 x1 x2 => roundTrip_word rfl (word_ksra x0 x1 x2)
theorem krot : ∀ x0 x1 x2, Statement (.krot x0 x1 x2) := fun x0 x1 x2 => roundTrip_word rfl (word_krot x0 x1 x2)
theorem kaddi : ∀ x0 x1 x2, Statement (.kaddi x0 x1 x2) := fun x0 x1 x2 => roundTrip_word rfl (word_kaddi x0 x1 x2)
theorem kmovi : ∀ x0 x1, Statement (.kmovi x0 x1) := fun x0 x1 => roundTrip_word rfl (word_kmovi x0 x1)
theorem kbfe : ∀ x0 x1 x2 x3, Statement (.kbfe x0 x1 x2 x3) := fun x0 x1 x2 x3 => roundTrip_word rfl (word_kbfe x0 x1 x2 x3)
theorem kbfi : ∀ x0 x1 x2, Statement (.kbfi x0 x1 x2) := fun x0 x1 x2 => roundTrip_word rfl (word_kbfi x0 x1 x2)
theorem kpopc : ∀ x0 x1, Statement (.kpopc x0 x1) := fun x0 x1 => roundTrip_word rfl (word_kpopc x0 x1)
theorem kclz : ∀ x0 x1, Statement (.kclz x0 x1) := fun x0 x1 => roundTrip_word rfl (word_kclz x0 x1)
theorem kbrev : ∀ x0 x1, Statement (.kbrev x0 x1) := fun x0 x1 => roundTrip_word rfl (word_kbrev x0 x1)
theorem knot : ∀ x0 x1, Statement (.knot x0 x1) := fun x0 x1 => roundTrip_word rfl (word_knot x0 x1)
theorem kabs : ∀ x0 x1, Statement (.kabs x0 x1) := fun x0 x1 => roundTrip_word rfl (word_kabs x0 x1)
theorem kmov : ∀ x0 x1, Statement (.kmov x0 x1) := fun x0 x1 => roundTrip_word rfl (word_kmov x0 x1)
theorem fadd : ∀ x0 x1 x2 x3 x4 x5, Statement (.fadd x0 x1 x2 x3 x4 x5) := fun x0 x1 x2 x3 x4 x5 => roundTrip_word rfl (word_fadd x0 x1 x2 x3 x4 x5)
theorem fsub : ∀ x0 x1 x2 x3 x4 x5, Statement (.fsub x0 x1 x2 x3 x4 x5) := fun x0 x1 x2 x3 x4 x5 => roundTrip_word rfl (word_fsub x0 x1 x2 x3 x4 x5)
theorem fmul : ∀ x0 x1 x2 x3 x4 x5, Statement (.fmul x0 x1 x2 x3 x4 x5) := fun x0 x1 x2 x3 x4 x5 => roundTrip_word rfl (word_fmul x0 x1 x2 x3 x4 x5)
theorem fma : ∀ x0 x1 x2 x3 x4 x5, Statement (.fma x0 x1 x2 x3 x4 x5) := fun x0 x1 x2 x3 x4 x5 => roundTrip_word rfl (word_fma x0 x1 x2 x3 x4 x5)
theorem fmin : ∀ x0 x1 x2 x3 x4, Statement (.fmin x0 x1 x2 x3 x4) := fun x0 x1 x2 x3 x4 => roundTrip_word rfl (word_fmin x0 x1 x2 x3 x4)
theorem fmax : ∀ x0 x1 x2 x3 x4, Statement (.fmax x0 x1 x2 x3 x4) := fun x0 x1 x2 x3 x4 => roundTrip_word rfl (word_fmax x0 x1 x2 x3 x4)
theorem faddBf16x2 : ∀ x0 x1 x2 x3 x4 x5, Statement (.faddBf16x2 x0 x1 x2 x3 x4 x5) := fun x0 x1 x2 x3 x4 x5 => roundTrip_word rfl (word_faddBf16x2 x0 x1 x2 x3 x4 x5)
theorem fmulBf16x2 : ∀ x0 x1 x2 x3 x4 x5, Statement (.fmulBf16x2 x0 x1 x2 x3 x4 x5) := fun x0 x1 x2 x3 x4 x5 => roundTrip_word rfl (word_fmulBf16x2 x0 x1 x2 x3 x4 x5)
theorem fmaBf16x2 : ∀ x0 x1 x2 x3 x4 x5, Statement (.fmaBf16x2 x0 x1 x2 x3 x4 x5) := fun x0 x1 x2 x3 x4 x5 => roundTrip_word rfl (word_fmaBf16x2 x0 x1 x2 x3 x4 x5)
theorem fminBf16x2 : ∀ x0 x1 x2 x3 x4, Statement (.fminBf16x2 x0 x1 x2 x3 x4) := fun x0 x1 x2 x3 x4 => roundTrip_word rfl (word_fminBf16x2 x0 x1 x2 x3 x4)
theorem fmaxBf16x2 : ∀ x0 x1 x2 x3 x4, Statement (.fmaxBf16x2 x0 x1 x2 x3 x4) := fun x0 x1 x2 x3 x4 => roundTrip_word rfl (word_fmaxBf16x2 x0 x1 x2 x3 x4)
theorem faddF16x2 : ∀ x0 x1 x2 x3 x4 x5, Statement (.faddF16x2 x0 x1 x2 x3 x4 x5) := fun x0 x1 x2 x3 x4 x5 => roundTrip_word rfl (word_faddF16x2 x0 x1 x2 x3 x4 x5)
theorem fmulF16x2 : ∀ x0 x1 x2 x3 x4 x5, Statement (.fmulF16x2 x0 x1 x2 x3 x4 x5) := fun x0 x1 x2 x3 x4 x5 => roundTrip_word rfl (word_fmulF16x2 x0 x1 x2 x3 x4 x5)
theorem fmaF16x2 : ∀ x0 x1 x2 x3 x4 x5, Statement (.fmaF16x2 x0 x1 x2 x3 x4 x5) := fun x0 x1 x2 x3 x4 x5 => roundTrip_word rfl (word_fmaF16x2 x0 x1 x2 x3 x4 x5)
theorem fminF16x2 : ∀ x0 x1 x2 x3 x4, Statement (.fminF16x2 x0 x1 x2 x3 x4) := fun x0 x1 x2 x3 x4 => roundTrip_word rfl (word_fminF16x2 x0 x1 x2 x3 x4)
theorem fmaxF16x2 : ∀ x0 x1 x2 x3 x4, Statement (.fmaxF16x2 x0 x1 x2 x3 x4) := fun x0 x1 x2 x3 x4 => roundTrip_word rfl (word_fmaxF16x2 x0 x1 x2 x3 x4)
theorem rcp : ∀ x0 x1 x2, Statement (.rcp x0 x1 x2) := fun x0 x1 x2 => roundTrip_word rfl (word_rcp x0 x1 x2)
theorem rsqrt : ∀ x0 x1 x2, Statement (.rsqrt x0 x1 x2) := fun x0 x1 x2 => roundTrip_word rfl (word_rsqrt x0 x1 x2)
theorem exp2 : ∀ x0 x1 x2, Statement (.exp2 x0 x1 x2) := fun x0 x1 x2 => roundTrip_word rfl (word_exp2 x0 x1 x2)
theorem log2 : ∀ x0 x1 x2, Statement (.log2 x0 x1 x2) := fun x0 x1 x2 => roundTrip_word rfl (word_log2 x0 x1 x2)
theorem cvt : ∀ x0 x1 x2 x3 x4 x5, Statement (.cvt x0 x1 x2 x3 x4 x5) := fun x0 x1 x2 x3 x4 x5 => roundTrip_word rfl (word_cvt x0 x1 x2 x3 x4 x5)
theorem cmpEq : ∀ x0 x1 x2 x3 x4 x5, Statement (.cmpEq x0 x1 x2 x3 x4 x5) := fun x0 x1 x2 x3 x4 x5 => roundTrip_word rfl (word_cmpEq x0 x1 x2 x3 x4 x5)
theorem cmpNe : ∀ x0 x1 x2 x3 x4 x5, Statement (.cmpNe x0 x1 x2 x3 x4 x5) := fun x0 x1 x2 x3 x4 x5 => roundTrip_word rfl (word_cmpNe x0 x1 x2 x3 x4 x5)
theorem cmpLt : ∀ x0 x1 x2 x3 x4 x5, Statement (.cmpLt x0 x1 x2 x3 x4 x5) := fun x0 x1 x2 x3 x4 x5 => roundTrip_word rfl (word_cmpLt x0 x1 x2 x3 x4 x5)
theorem cmpLe : ∀ x0 x1 x2 x3 x4 x5, Statement (.cmpLe x0 x1 x2 x3 x4 x5) := fun x0 x1 x2 x3 x4 x5 => roundTrip_word rfl (word_cmpLe x0 x1 x2 x3 x4 x5)
theorem cmpGt : ∀ x0 x1 x2 x3 x4 x5, Statement (.cmpGt x0 x1 x2 x3 x4 x5) := fun x0 x1 x2 x3 x4 x5 => roundTrip_word rfl (word_cmpGt x0 x1 x2 x3 x4 x5)
theorem cmpGe : ∀ x0 x1 x2 x3 x4 x5, Statement (.cmpGe x0 x1 x2 x3 x4 x5) := fun x0 x1 x2 x3 x4 x5 => roundTrip_word rfl (word_cmpGe x0 x1 x2 x3 x4 x5)
theorem pand : ∀ x0 x1 x2, Statement (.pand x0 x1 x2) := fun x0 x1 x2 => roundTrip_word rfl (word_pand x0 x1 x2)
theorem por : ∀ x0 x1 x2, Statement (.por x0 x1 x2) := fun x0 x1 x2 => roundTrip_word rfl (word_por x0 x1 x2)
theorem pxor : ∀ x0 x1 x2, Statement (.pxor x0 x1 x2) := fun x0 x1 x2 => roundTrip_word rfl (word_pxor x0 x1 x2)
theorem pnot : ∀ x0 x1, Statement (.pnot x0 x1) := fun x0 x1 => roundTrip_word rfl (word_pnot x0 x1)
theorem sel : ∀ x0 x1 x2 x3 x4 x5 x6, Statement (.sel x0 x1 x2 x3 x4 x5 x6) := fun x0 x1 x2 x3 x4 x5 x6 => roundTrip_word rfl (word_sel x0 x1 x2 x3 x4 x5 x6)
theorem mov : ∀ x0 x1 x2, Statement (.mov x0 x1 x2) := fun x0 x1 x2 => roundTrip_word rfl (word_mov x0 x1 x2)
theorem movk : ∀ x0 x1, Statement (.movk x0 x1) := fun x0 x1 => roundTrip_word rfl (word_movk x0 x1)
theorem sreg : ∀ x0 x1, Statement (.sreg x0 x1) := fun x0 x1 => roundTrip_word rfl (word_sreg x0 x1)
theorem shflIdx : ∀ x0 x1 x2 x3 x4, Statement (.shflIdx x0 x1 x2 x3 x4) := fun x0 x1 x2 x3 x4 => roundTrip_word rfl (word_shflIdx x0 x1 x2 x3 x4)
theorem shflUp : ∀ x0 x1 x2 x3 x4, Statement (.shflUp x0 x1 x2 x3 x4) := fun x0 x1 x2 x3 x4 => roundTrip_word rfl (word_shflUp x0 x1 x2 x3 x4)
theorem shflDown : ∀ x0 x1 x2 x3 x4, Statement (.shflDown x0 x1 x2 x3 x4) := fun x0 x1 x2 x3 x4 => roundTrip_word rfl (word_shflDown x0 x1 x2 x3 x4)
theorem shflXor : ∀ x0 x1 x2 x3 x4, Statement (.shflXor x0 x1 x2 x3 x4) := fun x0 x1 x2 x3 x4 => roundTrip_word rfl (word_shflXor x0 x1 x2 x3 x4)
theorem xg : ∀ x0 x1 x2 x3 x4, Statement (.xg x0 x1 x2 x3 x4) := fun x0 x1 x2 x3 x4 => roundTrip_word rfl (word_xg x0 x1 x2 x3 x4)
theorem permB : ∀ x0 x1 x2 x3 x4, Statement (.permB x0 x1 x2 x3 x4) := fun x0 x1 x2 x3 x4 => roundTrip_word rfl (word_permB x0 x1 x2 x3 x4)
theorem voteAny : ∀ x0 x1, Statement (.voteAny x0 x1) := fun x0 x1 => roundTrip_word rfl (word_voteAny x0 x1)
theorem voteAll : ∀ x0 x1, Statement (.voteAll x0 x1) := fun x0 x1 => roundTrip_word rfl (word_voteAll x0 x1)
theorem voteBallot : ∀ x0 x1, Statement (.voteBallot x0 x1) := fun x0 x1 => roundTrip_word rfl (word_voteBallot x0 x1)
theorem gredAdd : ∀ x0 x1 x2 x3, Statement (.gredAdd x0 x1 x2 x3) := fun x0 x1 x2 x3 => roundTrip_word rfl (word_gredAdd x0 x1 x2 x3)
theorem gredMin : ∀ x0 x1 x2 x3, Statement (.gredMin x0 x1 x2 x3) := fun x0 x1 x2 x3 => roundTrip_word rfl (word_gredMin x0 x1 x2 x3)
theorem gredMax : ∀ x0 x1 x2 x3, Statement (.gredMax x0 x1 x2 x3) := fun x0 x1 x2 x3 => roundTrip_word rfl (word_gredMax x0 x1 x2 x3)
theorem gscanAdd : ∀ x0 x1 x2 x3, Statement (.gscanAdd x0 x1 x2 x3) := fun x0 x1 x2 x3 => roundTrip_word rfl (word_gscanAdd x0 x1 x2 x3)
theorem rbal : ∀ x0 x1 x2 x3, Statement (.rbal x0 x1 x2 x3) := fun x0 x1 x2 x3 => roundTrip_word rfl (word_rbal x0 x1 x2 x3)
theorem ld : ∀ x0 x1 x2 x3 x4 x5 x6, Statement (.ld x0 x1 x2 x3 x4 x5 x6) := fun x0 x1 x2 x3 x4 x5 x6 => roundTrip_word rfl (word_ld x0 x1 x2 x3 x4 x5 x6)
theorem st : ∀ x0 x1 x2 x3 x4 x5, Statement (.st x0 x1 x2 x3 x4 x5) := fun x0 x1 x2 x3 x4 x5 => roundTrip_word rfl (word_st x0 x1 x2 x3 x4 x5)
theorem ldQ : ∀ x0 x1 x2 x3 x4, Statement (.ldQ x0 x1 x2 x3 x4) := fun x0 x1 x2 x3 x4 => roundTrip_word rfl (word_ldQ x0 x1 x2 x3 x4)
theorem stQ : ∀ x0 x1 x2 x3 x4, Statement (.stQ x0 x1 x2 x3 x4) := fun x0 x1 x2 x3 x4 => roundTrip_word rfl (word_stQ x0 x1 x2 x3 x4)
theorem ldRo : ∀ x0 x1 x2 x3 x4 x5 x6, Statement (.ldRo x0 x1 x2 x3 x4 x5 x6) := fun x0 x1 x2 x3 x4 x5 x6 => roundTrip_word rfl (word_ldRo x0 x1 x2 x3 x4 x5 x6)
theorem ldk : ∀ x0 x1 x2 x3, Statement (.ldk x0 x1 x2 x3) := fun x0 x1 x2 x3 => roundTrip_word rfl (word_ldk x0 x1 x2 x3)
theorem ldl : ∀ x0 x1 x2 x3, Statement (.ldl x0 x1 x2 x3) := fun x0 x1 x2 x3 => roundTrip_word rfl (word_ldl x0 x1 x2 x3)
theorem lds : ∀ x0 x1 x2 x3 x4 x5, Statement (.lds x0 x1 x2 x3 x4 x5) := fun x0 x1 x2 x3 x4 x5 => roundTrip_word rfl (word_lds x0 x1 x2 x3 x4 x5)
theorem sts : ∀ x0 x1 x2 x3 x4 x5, Statement (.sts x0 x1 x2 x3 x4 x5) := fun x0 x1 x2 x3 x4 x5 => roundTrip_word rfl (word_sts x0 x1 x2 x3 x4 x5)
theorem ldsd : ∀ x0 x1 x2 x3 x4 x5, Statement (.ldsd x0 x1 x2 x3 x4 x5) := fun x0 x1 x2 x3 x4 x5 => roundTrip_word rfl (word_ldsd x0 x1 x2 x3 x4 x5)
theorem stsd : ∀ x0 x1 x2 x3 x4 x5, Statement (.stsd x0 x1 x2 x3 x4 x5) := fun x0 x1 x2 x3 x4 x5 => roundTrip_word rfl (word_stsd x0 x1 x2 x3 x4 x5)
theorem pf : ∀ x0 x1 x2 x3, Statement (.pf x0 x1 x2 x3) := fun x0 x1 x2 x3 => roundTrip_word rfl (word_pf x0 x1 x2 x3)
theorem mwait : ∀ x0 x1 x2, Statement (.mwait x0 x1 x2) := fun x0 x1 x2 => roundTrip_word rfl (word_mwait x0 x1 x2)
theorem atomAdd : ∀ x0 x1 x2 x3 x4 x5, Statement (.atomAdd x0 x1 x2 x3 x4 x5) := fun x0 x1 x2 x3 x4 x5 => roundTrip_word rfl (word_atomAdd x0 x1 x2 x3 x4 x5)
theorem atomMin : ∀ x0 x1 x2 x3 x4 x5, Statement (.atomMin x0 x1 x2 x3 x4 x5) := fun x0 x1 x2 x3 x4 x5 => roundTrip_word rfl (word_atomMin x0 x1 x2 x3 x4 x5)
theorem atomMax : ∀ x0 x1 x2 x3 x4 x5, Statement (.atomMax x0 x1 x2 x3 x4 x5) := fun x0 x1 x2 x3 x4 x5 => roundTrip_word rfl (word_atomMax x0 x1 x2 x3 x4 x5)
theorem atomAnd : ∀ x0 x1 x2 x3 x4 x5, Statement (.atomAnd x0 x1 x2 x3 x4 x5) := fun x0 x1 x2 x3 x4 x5 => roundTrip_word rfl (word_atomAnd x0 x1 x2 x3 x4 x5)
theorem atomOr : ∀ x0 x1 x2 x3 x4 x5, Statement (.atomOr x0 x1 x2 x3 x4 x5) := fun x0 x1 x2 x3 x4 x5 => roundTrip_word rfl (word_atomOr x0 x1 x2 x3 x4 x5)
theorem atomXor : ∀ x0 x1 x2 x3 x4 x5, Statement (.atomXor x0 x1 x2 x3 x4 x5) := fun x0 x1 x2 x3 x4 x5 => roundTrip_word rfl (word_atomXor x0 x1 x2 x3 x4 x5)
theorem atomExch : ∀ x0 x1 x2 x3 x4 x5, Statement (.atomExch x0 x1 x2 x3 x4 x5) := fun x0 x1 x2 x3 x4 x5 => roundTrip_word rfl (word_atomExch x0 x1 x2 x3 x4 x5)
theorem atomCas : ∀ x0 x1 x2 x3 x4 x5, Statement (.atomCas x0 x1 x2 x3 x4 x5) := fun x0 x1 x2 x3 x4 x5 => roundTrip_word rfl (word_atomCas x0 x1 x2 x3 x4 x5)
theorem redAdd : ∀ x0 x1 x2 x3 x4, Statement (.redAdd x0 x1 x2 x3 x4) := fun x0 x1 x2 x3 x4 => roundTrip_word rfl (word_redAdd x0 x1 x2 x3 x4)
theorem redMin : ∀ x0 x1 x2 x3 x4, Statement (.redMin x0 x1 x2 x3 x4) := fun x0 x1 x2 x3 x4 => roundTrip_word rfl (word_redMin x0 x1 x2 x3 x4)
theorem redMax : ∀ x0 x1 x2 x3 x4, Statement (.redMax x0 x1 x2 x3 x4) := fun x0 x1 x2 x3 x4 => roundTrip_word rfl (word_redMax x0 x1 x2 x3 x4)
theorem redAnd : ∀ x0 x1 x2 x3 x4, Statement (.redAnd x0 x1 x2 x3 x4) := fun x0 x1 x2 x3 x4 => roundTrip_word rfl (word_redAnd x0 x1 x2 x3 x4)
theorem redOr : ∀ x0 x1 x2 x3 x4, Statement (.redOr x0 x1 x2 x3 x4) := fun x0 x1 x2 x3 x4 => roundTrip_word rfl (word_redOr x0 x1 x2 x3 x4)
theorem redXor : ∀ x0 x1 x2 x3 x4, Statement (.redXor x0 x1 x2 x3 x4) := fun x0 x1 x2 x3 x4 => roundTrip_word rfl (word_redXor x0 x1 x2 x3 x4)
theorem bupdAdd : ∀ x0 x1 x2 x3 x4, Statement (.bupdAdd x0 x1 x2 x3 x4) := fun x0 x1 x2 x3 x4 => roundTrip_word rfl (word_bupdAdd x0 x1 x2 x3 x4)
theorem bupdMin : ∀ x0 x1 x2 x3 x4, Statement (.bupdMin x0 x1 x2 x3 x4) := fun x0 x1 x2 x3 x4 => roundTrip_word rfl (word_bupdMin x0 x1 x2 x3 x4)
theorem bupdMax : ∀ x0 x1 x2 x3 x4, Statement (.bupdMax x0 x1 x2 x3 x4) := fun x0 x1 x2 x3 x4 => roundTrip_word rfl (word_bupdMax x0 x1 x2 x3 x4)
theorem bredAdd : ∀ x0 x1 x2 x3 x4, Statement (.bredAdd x0 x1 x2 x3 x4) := fun x0 x1 x2 x3 x4 => roundTrip_word rfl (word_bredAdd x0 x1 x2 x3 x4)
theorem bredMin : ∀ x0 x1 x2 x3 x4, Statement (.bredMin x0 x1 x2 x3 x4) := fun x0 x1 x2 x3 x4 => roundTrip_word rfl (word_bredMin x0 x1 x2 x3 x4)
theorem bredMax : ∀ x0 x1 x2 x3 x4, Statement (.bredMax x0 x1 x2 x3 x4) := fun x0 x1 x2 x3 x4 => roundTrip_word rfl (word_bredMax x0 x1 x2 x3 x4)
theorem fence : ∀ x0, Statement (.fence x0) := fun x0 => roundTrip_word rfl (word_fence x0)
theorem fenceAcq : ∀ x0, Statement (.fenceAcq x0) := fun x0 => roundTrip_word rfl (word_fenceAcq x0)
theorem fenceRel : ∀ x0, Statement (.fenceRel x0) := fun x0 => roundTrip_word rfl (word_fenceRel x0)
theorem tfence : ∀ x0, Statement (.tfence x0) := fun x0 => roundTrip_word rfl (word_tfence x0)
theorem binit : ∀ x0 x1 x2, Statement (.binit x0 x1 x2) := fun x0 x1 x2 => roundTrip_word rfl (word_binit x0 x1 x2)
theorem barv : ∀ x0 x1 x2, Statement (.barv x0 x1 x2) := fun x0 x1 x2 => roundTrip_word rfl (word_barv x0 x1 x2)
theorem bexp : ∀ x0 x1 x2, Statement (.bexp x0 x1 x2) := fun x0 x1 x2 => roundTrip_word rfl (word_bexp x0 x1 x2)
theorem btest : ∀ x0 x1 x2 x3, Statement (.btest x0 x1 x2 x3) := fun x0 x1 x2 x3 => roundTrip_word rfl (word_btest x0 x1 x2 x3)
theorem bwait : ∀ x0 x1 x2, Statement (.bwait x0 x1 x2) := fun x0 x1 x2 => roundTrip_word rfl (word_bwait x0 x1 x2)
theorem binval : ∀ x0 x1, Statement (.binval x0 x1) := fun x0 x1 => roundTrip_word rfl (word_binval x0 x1)
theorem tsync : Statement .tsync := roundTrip_word rfl (word_tsync)
theorem clsync : Statement .clsync := roundTrip_word rfl (word_clsync)
theorem hld : ∀ x0 x1 x2 x3 x4, Statement (.hld x0 x1 x2 x3 x4) := fun x0 x1 x2 x3 x4 => roundTrip_word rfl (word_hld x0 x1 x2 x3 x4)
theorem hst : ∀ x0 x1 x2 x3 x4, Statement (.hst x0 x1 x2 x3 x4) := fun x0 x1 x2 x3 x4 => roundTrip_word rfl (word_hst x0 x1 x2 x3 x4)
theorem ldh : ∀ x0 x1 x2 x3 x4, Statement (.ldh x0 x1 x2 x3 x4) := fun x0 x1 x2 x3 x4 => roundTrip_word rfl (word_ldh x0 x1 x2 x3 x4)
theorem sth : ∀ x0 x1 x2 x3 x4 x5, Statement (.sth x0 x1 x2 x3 x4 x5) := fun x0 x1 x2 x3 x4 x5 => roundTrip_word rfl (word_sth x0 x1 x2 x3 x4 x5)
theorem hnew : ∀ x0 x1 x2 x3 x4, Statement (.hnew x0 x1 x2 x3 x4) := fun x0 x1 x2 x3 x4 => roundTrip_word rfl (word_hnew x0 x1 x2 x3 x4)
theorem hfree : ∀ x0, Statement (.hfree x0) := fun x0 => roundTrip_word rfl (word_hfree x0)
theorem hpin : ∀ x0 x1, Statement (.hpin x0 x1) := fun x0 x1 => roundTrip_word rfl (word_hpin x0 x1)
theorem hunpin : ∀ x0, Statement (.hunpin x0) := fun x0 => roundTrip_word rfl (word_hunpin x0)
theorem heq : ∀ x0 x1 x2, Statement (.heq x0 x1 x2) := fun x0 x1 x2 => roundTrip_word rfl (word_heq x0 x1 x2)
theorem htag : ∀ x0 x1, Statement (.htag x0 x1) := fun x0 x1 => roundTrip_word rfl (word_htag x0 x1)
theorem qla : ∀ x0 x1 x2 x3 x4, Statement (.qla x0 x1 x2 x3 x4) := fun x0 x1 x2 x3 x4 => roundTrip_word rfl (word_qla x0 x1 x2 x3 x4)
theorem qzero : ∀ x0 x1 x2 x3 x4 x5, Statement (.qzero x0 x1 x2 x3 x4 x5) := fun x0 x1 x2 x3 x4 x5 => roundTrip_word rfl (word_qzero x0 x1 x2 x3 x4 x5)
theorem qrd : ∀ x0 x1 x2 x3 x4 x5, Statement (.qrd x0 x1 x2 x3 x4 x5) := fun x0 x1 x2 x3 x4 x5 => roundTrip_word rfl (word_qrd x0 x1 x2 x3 x4 x5)
theorem qwr : ∀ x0 x1 x2 x3 x4 x5, Statement (.qwr x0 x1 x2 x3 x4 x5) := fun x0 x1 x2 x3 x4 x5 => roundTrip_word rfl (word_qwr x0 x1 x2 x3 x4 x5)
theorem qrel : ∀ x0 x1 x2, Statement (.qrel x0 x1 x2) := fun x0 x1 x2 => roundTrip_word rfl (word_qrel x0 x1 x2)
theorem qmm : ∀ x0 x1 x2 x3 x4 x5 x6, Statement (.qmm x0 x1 x2 x3 x4 x5 x6) := fun x0 x1 x2 x3 x4 x5 x6 => roundTrip_word rfl (word_qmm x0 x1 x2 x3 x4 x5 x6)
theorem qmmg : ∀ x0 x1 x2 x3 x4 x5, Statement (.qmmg x0 x1 x2 x3 x4 x5) := fun x0 x1 x2 x3 x4 x5 => roundTrip_word rfl (word_qmmg x0 x1 x2 x3 x4 x5)
theorem qdist : ∀ x0 x1 x2 x3 x4 x5 x6, Statement (.qdist x0 x1 x2 x3 x4 x5 x6) := fun x0 x1 x2 x3 x4 x5 x6 => roundTrip_word rfl (word_qdist x0 x1 x2 x3 x4 x5 x6)
theorem qtopk : ∀ x0 x1 x2 x3 x4, Statement (.qtopk x0 x1 x2 x3 x4) := fun x0 x1 x2 x3 x4 => roundTrip_word rfl (word_qtopk x0 x1 x2 x3 x4)
theorem qatt : ∀ x0 x1 x2 x3 x4 x5, Statement (.qatt x0 x1 x2 x3 x4 x5) := fun x0 x1 x2 x3 x4 x5 => roundTrip_word rfl (word_qatt x0 x1 x2 x3 x4 x5)
theorem qatf : ∀ x0 x1 x2 x3 x4 x5, Statement (.qatf x0 x1 x2 x3 x4 x5) := fun x0 x1 x2 x3 x4 x5 => roundTrip_word rfl (word_qatf x0 x1 x2 x3 x4 x5)
theorem qsel : ∀ x0 x1 x2 x3 x4 x5, Statement (.qsel x0 x1 x2 x3 x4 x5) := fun x0 x1 x2 x3 x4 x5 => roundTrip_word rfl (word_qsel x0 x1 x2 x3 x4 x5)
theorem mxq : ∀ x0 x1 x2 x3 x4 x5, Statement (.mxq x0 x1 x2 x3 x4 x5) := fun x0 x1 x2 x3 x4 x5 => roundTrip_word rfl (word_mxq x0 x1 x2 x3 x4 x5)
theorem mxd : ∀ x0 x1 x2 x3 x4 x5, Statement (.mxd x0 x1 x2 x3 x4 x5) := fun x0 x1 x2 x3 x4 x5 => roundTrip_word rfl (word_mxd x0 x1 x2 x3 x4 x5)
theorem mload : ∀ x0 x1 x2, Statement (.mload x0 x1 x2) := fun x0 x1 x2 => roundTrip_word rfl (word_mload x0 x1 x2)
theorem mfree : ∀ x0 x1, Statement (.mfree x0 x1) := fun x0 x1 => roundTrip_word rfl (word_mfree x0 x1)
theorem mclass : ∀ x0 x1 x2 x3, Statement (.mclass x0 x1 x2 x3) := fun x0 x1 x2 x3 => roundTrip_word rfl (word_mclass x0 x1 x2 x3)
theorem mstat : ∀ x0 x1 x2, Statement (.mstat x0 x1 x2) := fun x0 x1 x2 => roundTrip_word rfl (word_mstat x0 x1 x2)
theorem kvnew : ∀ x0 x1 x2, Statement (.kvnew x0 x1 x2) := fun x0 x1 x2 => roundTrip_word rfl (word_kvnew x0 x1 x2)
theorem kvseal : ∀ x0 x1 x2, Statement (.kvseal x0 x1 x2) := fun x0 x1 x2 => roundTrip_word rfl (word_kvseal x0 x1 x2)
theorem kvdem : ∀ x0 x1 x2, Statement (.kvdem x0 x1 x2) := fun x0 x1 x2 => roundTrip_word rfl (word_kvdem x0 x1 x2)
theorem kvdemInv : ∀ x0 x1 x2, Statement (.kvdemInv x0 x1 x2) := fun x0 x1 x2 => roundTrip_word rfl (word_kvdemInv x0 x1 x2)
theorem kvcold : ∀ x0 x1 x2, Statement (.kvcold x0 x1 x2) := fun x0 x1 x2 => roundTrip_word rfl (word_kvcold x0 x1 x2)
theorem kvq : ∀ x0 x1 x2 x3, Statement (.kvq x0 x1 x2 x3) := fun x0 x1 x2 x3 => roundTrip_word rfl (word_kvq x0 x1 x2 x3)
theorem kvpolReg : ∀ x0 x1 x2, Statement (.kvpolReg x0 x1 x2) := fun x0 x1 x2 => roundTrip_word rfl (word_kvpolReg x0 x1 x2)
theorem kvpolSweep : ∀ x0 x1 x2, Statement (.kvpolSweep x0 x1 x2) := fun x0 x1 x2 => roundTrip_word rfl (word_kvpolSweep x0 x1 x2)
theorem kvpolUnreg : ∀ x0 x1 x2, Statement (.kvpolUnreg x0 x1 x2) := fun x0 x1 x2 => roundTrip_word rfl (word_kvpolUnreg x0 x1 x2)
theorem kvpolSet : ∀ x0 x1 x2, Statement (.kvpolSet x0 x1 x2) := fun x0 x1 x2 => roundTrip_word rfl (word_kvpolSet x0 x1 x2)
theorem cpy : ∀ x0 x1 x2 x3 x4 x5 x6, Statement (.cpy x0 x1 x2 x3 x4 x5 x6) := fun x0 x1 x2 x3 x4 x5 x6 => roundTrip_word rfl (word_cpy x0 x1 x2 x3 x4 x5 x6)
theorem cpy2d : ∀ x0 x1 x2 x3 x4 x5 x6, Statement (.cpy2d x0 x1 x2 x3 x4 x5 x6) := fun x0 x1 x2 x3 x4 x5 x6 => roundTrip_word rfl (word_cpy2d x0 x1 x2 x3 x4 x5 x6)
theorem cpym : ∀ x0 x1 x2 x3 x4 x5, Statement (.cpym x0 x1 x2 x3 x4 x5) := fun x0 x1 x2 x3 x4 x5 => roundTrip_word rfl (word_cpym x0 x1 x2 x3 x4 x5)
theorem cpyc : ∀ x0 x1 x2 x3 x4, Statement (.cpyc x0 x1 x2 x3 x4) := fun x0 x1 x2 x3 x4 => roundTrip_word rfl (word_cpyc x0 x1 x2 x3 x4)
theorem cpyst : ∀ x0 x1 x2, Statement (.cpyst x0 x1 x2) := fun x0 x1 x2 => roundTrip_word rfl (word_cpyst x0 x1 x2)
theorem cpyx : ∀ x0 x1, Statement (.cpyx x0 x1) := fun x0 x1 => roundTrip_word rfl (word_cpyx x0 x1)
theorem lld : ∀ x0 x1 x2 x3 x4, Statement (.lld x0 x1 x2 x3 x4) := fun x0 x1 x2 x3 x4 => roundTrip_word rfl (word_lld x0 x1 x2 x3 x4)
theorem lgat : ∀ x0 x1 x2 x3 x4 x5, Statement (.lgat x0 x1 x2 x3 x4 x5) := fun x0 x1 x2 x3 x4 x5 => roundTrip_word rfl (word_lgat x0 x1 x2 x3 x4 x5)
theorem lwr : ∀ x0 x1 x2 x3 x4 x5 x6, Statement (.lwr x0 x1 x2 x3 x4 x5 x6) := fun x0 x1 x2 x3 x4 x5 x6 => roundTrip_word rfl (word_lwr x0 x1 x2 x3 x4 x5 x6)
theorem lred : ∀ x0 x1 x2 x3 x4 x5 x6 x7, Statement (.lred x0 x1 x2 x3 x4 x5 x6 x7) := fun x0 x1 x2 x3 x4 x5 x6 x7 => roundTrip_word rfl (word_lred x0 x1 x2 x3 x4 x5 x6 x7)
theorem mxr : ∀ x0 x1 x2 x3 x4, Statement (.mxr x0 x1 x2 x3 x4) := fun x0 x1 x2 x3 x4 => roundTrip_word rfl (word_mxr x0 x1 x2 x3 x4)
theorem dlaunch : ∀ x0 x1 x2 x3, Statement (.dlaunch x0 x1 x2 x3) := fun x0 x1 x2 x3 => roundTrip_word rfl (word_dlaunch x0 x1 x2 x3)
theorem qsig : ∀ x0 x1, Statement (.qsig x0 x1) := fun x0 x1 => roundTrip_word rfl (word_qsig x0 x1)
theorem bra : ∀ x0 x1 x2 x3, Statement (.bra x0 x1 x2 x3) := fun x0 x1 x2 x3 => roundTrip_word rfl (word_bra x0 x1 x2 x3)
theorem call : ∀ x0, Statement (.call x0) := fun x0 => roundTrip_word rfl (word_call x0)
theorem trap : ∀ x0, Statement (.trap x0) := fun x0 => roundTrip_word rfl (word_trap x0)
theorem snap : Statement .snap := roundTrip_word rfl (word_snap)
theorem csrr : ∀ x0 x1, Statement (.csrr x0 x1) := fun x0 x1 => roundTrip_word rfl (word_csrr x0 x1)
theorem clock : ∀ x0, Statement (.clock x0) := fun x0 => roundTrip_word rfl (word_clock x0)
theorem jmp : ∀ x0 x1, Statement (.jmp x0 x1) := fun x0 x1 => roundTrip_word rfl (word_jmp x0 x1)
theorem callIndirect : ∀ x0 x1, Statement (.callIndirect x0 x1) := fun x0 x1 => roundTrip_word rfl (word_callIndirect x0 x1)
theorem extImm : ∀ x0, Statement (.extImm x0) := fun x0 => roundTrip_word rfl (word_extImm x0)
theorem extReg : ∀ x0, Statement (.extReg x0) := fun x0 => roundTrip_word rfl (word_extReg x0)
theorem mov16 : ∀ x0 x1, Statement (.mov16 x0 x1) := fun x0 x1 => roundTrip_half rfl (half_mov16 x0 x1)
theorem add16 : ∀ x0 x1, Statement (.add16 x0 x1) := fun x0 x1 => roundTrip_half rfl (half_add16 x0 x1)
theorem sub16 : ∀ x0 x1, Statement (.sub16 x0 x1) := fun x0 x1 => roundTrip_half rfl (half_sub16 x0 x1)
theorem mul16 : ∀ x0 x1, Statement (.mul16 x0 x1) := fun x0 x1 => roundTrip_half rfl (half_mul16 x0 x1)
theorem and16 : ∀ x0 x1, Statement (.and16 x0 x1) := fun x0 x1 => roundTrip_half rfl (half_and16 x0 x1)
theorem or16 : ∀ x0 x1, Statement (.or16 x0 x1) := fun x0 x1 => roundTrip_half rfl (half_or16 x0 x1)
theorem xor16 : ∀ x0 x1, Statement (.xor16 x0 x1) := fun x0 x1 => roundTrip_half rfl (half_xor16 x0 x1)
theorem andn16 : ∀ x0 x1, Statement (.andn16 x0 x1) := fun x0 x1 => roundTrip_half rfl (half_andn16 x0 x1)
theorem shl16 : ∀ x0 x1, Statement (.shl16 x0 x1) := fun x0 x1 => roundTrip_half rfl (half_shl16 x0 x1)
theorem shr16 : ∀ x0 x1, Statement (.shr16 x0 x1) := fun x0 x1 => roundTrip_half rfl (half_shr16 x0 x1)
theorem sra16 : ∀ x0 x1, Statement (.sra16 x0 x1) := fun x0 x1 => roundTrip_half rfl (half_sra16 x0 x1)
theorem min16 : ∀ x0 x1, Statement (.min16 x0 x1) := fun x0 x1 => roundTrip_half rfl (half_min16 x0 x1)
theorem max16 : ∀ x0 x1, Statement (.max16 x0 x1) := fun x0 x1 => roundTrip_half rfl (half_max16 x0 x1)
theorem fadd16 : ∀ x0 x1, Statement (.fadd16 x0 x1) := fun x0 x1 => roundTrip_half rfl (half_fadd16 x0 x1)
theorem fmul16 : ∀ x0 x1, Statement (.fmul16 x0 x1) := fun x0 x1 => roundTrip_half rfl (half_fmul16 x0 x1)
theorem fmax16 : ∀ x0 x1, Statement (.fmax16 x0 x1) := fun x0 x1 => roundTrip_half rfl (half_fmax16 x0 x1)
theorem nop : Statement .nop := roundTrip_half rfl (half_nop)
theorem join : Statement .join := roundTrip_half rfl (half_join)
theorem yield : Statement .yield := roundTrip_half rfl (half_yield)
theorem exit : Statement .exit := roundTrip_half rfl (half_exit)
theorem ret : Statement .ret := roundTrip_half rfl (half_ret)
theorem guard : ∀ x0 x1, Statement (.guard x0 x1) := fun x0 x1 => roundTrip_half rfl (half_guard x0 x1)
theorem illegalInstruction : Statement .illegalInstruction := roundTrip_event rfl
theorem faultRecordWrite : ∀ x0, Statement (.faultRecordWrite x0) := fun _ => roundTrip_event rfl
theorem trapRecordWrite : ∀ x0, Statement (.trapRecordWrite x0) := fun _ => roundTrip_event rfl
theorem teamFillComplete : ∀ x0 x1, Statement (.teamFillComplete x0 x1) := fun _ _ => roundTrip_event rfl
theorem drainComplete : ∀ x0 x1, Statement (.drainComplete x0 x1) := fun _ _ => roundTrip_event rfl
theorem contextSaveComplete : ∀ x0 x1, Statement (.contextSaveComplete x0 x1) := fun _ _ => roundTrip_event rfl
theorem activeSetExchange : ∀ x0 x1, Statement (.activeSetExchange x0 x1) := fun _ _ => roundTrip_event rfl
theorem joinWaitTimeout : ∀ x0 x1 x2, Statement (.joinWaitTimeout x0 x1 x2) := fun _ _ _ => roundTrip_event rfl
theorem mwaitReread : ∀ x0 x1 x2, Statement (.mwaitReread x0 x1 x2) := fun _ _ _ => roundTrip_event rfl
theorem barrierDecrement : ∀ x0 x1 x2, Statement (.barrierDecrement x0 x1 x2) := fun _ _ _ => roundTrip_event rfl
theorem updateOnlyTimeout : ∀ x0 x1, Statement (.updateOnlyTimeout x0 x1) := fun _ _ => roundTrip_event rfl
theorem migrationPrecopyDone : ∀ x0, Statement (.migrationPrecopyDone x0) := fun _ => roundTrip_event rfl
theorem migrationRecopyDone : ∀ x0, Statement (.migrationRecopyDone x0) := fun _ => roundTrip_event rfl
theorem migrationFlip : ∀ x0, Statement (.migrationFlip x0) := fun _ => roundTrip_event rfl
theorem migrationInvalAck : ∀ x0, Statement (.migrationInvalAck x0) := fun _ => roundTrip_event rfl
theorem migrationHoldTimeout : ∀ x0, Statement (.migrationHoldTimeout x0) := fun _ => roundTrip_event rfl
theorem hostWrite : ∀ x0 x1, Statement (.hostWrite x0 x1) := fun _ _ => roundTrip_event rfl
theorem hostRead : ∀ x0 x1, Statement (.hostRead x0 x1) := fun _ _ => roundTrip_event rfl
theorem passGrant : ∀ x0, Statement (.passGrant x0) := fun _ => roundTrip_event rfl
theorem fusionWaitExpiry : ∀ x0, Statement (.fusionWaitExpiry x0) := fun _ => roundTrip_event rfl
theorem passCommit : ∀ x0, Statement (.passCommit x0) := fun _ => roundTrip_event rfl
theorem attentionComplete : ∀ x0, Statement (.attentionComplete x0) := fun _ => roundTrip_event rfl
theorem conversionComplete : ∀ x0, Statement (.conversionComplete x0) := fun _ => roundTrip_event rfl
theorem objectFree : ∀ x0, Statement (.objectFree x0) := fun _ => roundTrip_event rfl
theorem sweepIntervalStart : ∀ x0, Statement (.sweepIntervalStart x0) := fun _ => roundTrip_event rfl
theorem sweepRequestStart : ∀ x0, Statement (.sweepRequestStart x0) := fun _ => roundTrip_event rfl
theorem sweepVisit : ∀ x0, Statement (.sweepVisit x0) := fun _ => roundTrip_event rfl
theorem coldMoveCopyDone : ∀ x0, Statement (.coldMoveCopyDone x0) := fun _ => roundTrip_event rfl
theorem sweepComplete : ∀ x0, Statement (.sweepComplete x0) := fun _ => roundTrip_event rfl
theorem directoryTakeup : ∀ x0, Statement (.directoryTakeup x0) := fun _ => roundTrip_event rfl
theorem directoryBusyTimeout : ∀ x0, Statement (.directoryBusyTimeout x0) := fun _ => roundTrip_event rfl
theorem writeCombineTimeout : ∀ x0, Statement (.writeCombineTimeout x0) := fun _ => roundTrip_event rfl
theorem relocAutoStart : ∀ x0 x1, Statement (.relocAutoStart x0 x1) := fun _ _ => roundTrip_event rfl
theorem relocCopyDone : ∀ x0, Statement (.relocCopyDone x0) := fun _ => roundTrip_event rfl
theorem relocRecopyDone : ∀ x0, Statement (.relocRecopyDone x0) := fun _ => roundTrip_event rfl
theorem relocFlip : ∀ x0, Statement (.relocFlip x0) := fun _ => roundTrip_event rfl
theorem relocFinalTimeout : ∀ x0, Statement (.relocFinalTimeout x0) := fun _ => roundTrip_event rfl
theorem relocAck : ∀ x0, Statement (.relocAck x0) := fun _ => roundTrip_event rfl
theorem healPassComplete : ∀ x0, Statement (.healPassComplete x0) := fun _ => roundTrip_event rfl
theorem copyOperationComplete : ∀ x0, Statement (.copyOperationComplete x0) := fun _ => roundTrip_event rfl
theorem multicastDelivery : ∀ x0 x1, Statement (.multicastDelivery x0 x1) := fun _ _ => roundTrip_event rfl
theorem chainRecordFetch : ∀ x0 x1, Statement (.chainRecordFetch x0 x1) := fun _ _ => roundTrip_event rfl
theorem chainWaitTimeout : ∀ x0 x1, Statement (.chainWaitTimeout x0 x1) := fun _ _ => roundTrip_event rfl
theorem chainRecordComplete : ∀ x0 x1, Statement (.chainRecordComplete x0 x1) := fun _ _ => roundTrip_event rfl
theorem flitArrival : ∀ x0 x1 x2 x3, Statement (.flitArrival x0 x1 x2 x3) := fun _ _ _ _ => roundTrip_event rfl
theorem peerRequest : ∀ x0, Statement (.peerRequest x0) := fun _ => roundTrip_event rfl
theorem portFailure : ∀ x0, Statement (.portFailure x0) := fun _ => roundTrip_event rfl
theorem linkRetryTimeout : ∀ x0 x1, Statement (.linkRetryTimeout x0 x1) := fun _ _ => roundTrip_event rfl
theorem linkOperationComplete : ∀ x0, Statement (.linkOperationComplete x0) := fun _ => roundTrip_event rfl
theorem mxrTimeout : ∀ x0, Statement (.mxrTimeout x0) := fun _ => roundTrip_event rfl
theorem doorbell : ∀ x0 x1, Statement (.doorbell x0 x1) := fun _ _ => roundTrip_event rfl
theorem launchRecordRead : ∀ x0, Statement (.launchRecordRead x0) := fun _ => roundTrip_event rfl
theorem dependenceReread : ∀ x0, Statement (.dependenceReread x0) := fun _ => roundTrip_event rfl
theorem teamPlacement : ∀ x0, Statement (.teamPlacement x0) := fun _ => roundTrip_event rfl
theorem gangPlacement : ∀ x0, Statement (.gangPlacement x0) := fun _ => roundTrip_event rfl
theorem waitingLevelAge : ∀ x0, Statement (.waitingLevelAge x0) := fun _ => roundTrip_event rfl
theorem gangFirstAge : ∀ x0, Statement (.gangFirstAge x0) := fun _ => roundTrip_event rfl
theorem gangSecondAge : ∀ x0, Statement (.gangSecondAge x0) := fun _ => roundTrip_event rfl
theorem timeSliceExpiry : ∀ x0, Statement (.timeSliceExpiry x0) := fun _ => roundTrip_event rfl
theorem noRoomEviction : ∀ x0, Statement (.noRoomEviction x0) := fun _ => roundTrip_event rfl
theorem gridComplete : ∀ x0, Statement (.gridComplete x0) := fun _ => roundTrip_event rfl
theorem ident : ∀ x0, Statement (.ident x0) := fun _ => roundTrip_event rfl
theorem claim : ∀ x0, Statement (.claim x0) := fun _ => roundTrip_event rfl
theorem handover : ∀ x0, Statement (.handover x0) := fun _ => roundTrip_event rfl
theorem attest : ∀ x0, Statement (.attest x0) := fun _ => roundTrip_event rfl
theorem loadimg : ∀ x0, Statement (.loadimg x0) := fun _ => roundTrip_event rfl
theorem reset : ∀ x0, Statement (.reset x0) := fun _ => roundTrip_event rfl
theorem qcreate : ∀ x0, Statement (.qcreate x0) := fun _ => roundTrip_event rfl
theorem qstop : ∀ x0, Statement (.qstop x0) := fun _ => roundTrip_event rfl
theorem qstopDestroy : ∀ x0, Statement (.qstopDestroy x0) := fun _ => roundTrip_event rfl
theorem queueDestroyComplete : ∀ x0, Statement (.queueDestroyComplete x0) := fun _ => roundTrip_event rfl
theorem asgen : ∀ x0, Statement (.asgen x0) := fun _ => roundTrip_event rfl
theorem invpage : ∀ x0, Statement (.invpage x0) := fun _ => roundTrip_event rfl
theorem grantref : ∀ x0, Statement (.grantref x0) := fun _ => roundTrip_event rfl
theorem faultansRetry : ∀ x0, Statement (.faultansRetry x0) := fun _ => roundTrip_event rfl
theorem faultansKill : ∀ x0, Statement (.faultansKill x0) := fun _ => roundTrip_event rfl
theorem resumeSkip : ∀ x0, Statement (.resumeSkip x0) := fun _ => roundTrip_event rfl
theorem resumeRetry : ∀ x0, Statement (.resumeRetry x0) := fun _ => roundTrip_event rfl
theorem resumeEnd : ∀ x0, Statement (.resumeEnd x0) := fun _ => roundTrip_event rfl
theorem preempt : ∀ x0, Statement (.preempt x0) := fun _ => roundTrip_event rfl
theorem framerel : ∀ x0, Statement (.framerel x0) := fun _ => roundTrip_event rfl
theorem heapbind : ∀ x0, Statement (.heapbind x0) := fun _ => roundTrip_event rfl
theorem heapbindUnbind : ∀ x0, Statement (.heapbindUnbind x0) := fun _ => roundTrip_event rfl
theorem reloc : ∀ x0 x1, Statement (.reloc x0 x1) := fun _ _ => roundTrip_event rfl
theorem migrate : ∀ x0, Statement (.migrate x0) := fun _ => roundTrip_event rfl
theorem peerbind : ∀ x0, Statement (.peerbind x0) := fun _ => roundTrip_event rfl
theorem route : ∀ x0, Statement (.route x0) := fun _ => roundTrip_event rfl
theorem qread : ∀ x0, Statement (.qread x0) := fun _ => roundTrip_event rfl
theorem snapcfg : ∀ x0, Statement (.snapcfg x0) := fun _ => roundTrip_event rfl
theorem snaptrig : ∀ x0, Statement (.snaptrig x0) := fun _ => roundTrip_event rfl
theorem snapread : ∀ x0, Statement (.snapread x0) := fun _ => roundTrip_event rfl
theorem snaprel : ∀ x0, Statement (.snaprel x0) := fun _ => roundTrip_event rfl
theorem relrep : ∀ x0, Statement (.relrep x0) := fun _ => roundTrip_event rfl
theorem retire : ∀ x0, Statement (.retire x0) := fun _ => roundTrip_event rfl
theorem pwrcap : ∀ x0, Statement (.pwrcap x0) := fun _ => roundTrip_event rfl
theorem therm : ∀ x0, Statement (.therm x0) := fun _ => roundTrip_event rfl
theorem unknownCommand : ∀ x0 x1, Statement (.unknownCommand x0 x1) := fun _ _ => roundTrip_event rfl
theorem registerWrite : ∀ x0 x1, Statement (.registerWrite x0 x1) := fun _ _ => roundTrip_event rfl
theorem snapshotLatch : Statement .snapshotLatch := roundTrip_event rfl
theorem ownershipLapse : Statement .ownershipLapse := roundTrip_event rfl
theorem handoverTimeout : Statement .handoverTimeout := roundTrip_event rfl
theorem powerOn : ∀ x0 x1, Statement (.powerOn x0 x1) := fun _ _ => roundTrip_event rfl
theorem coreFailure : ∀ x0, Statement (.coreFailure x0) := fun _ => roundTrip_event rfl
theorem hbmChannelFailure : ∀ x0 x1, Statement (.hbmChannelFailure x0 x1) := fun _ _ => roundTrip_event rfl
theorem linkLaneFault : ∀ x0, Statement (.linkLaneFault x0) := fun _ => roundTrip_event rfl
theorem thermalLimit : ∀ x0 x1, Statement (.thermalLimit x0 x1) := fun _ _ => roundTrip_event rfl
theorem thermalShutdown : Statement .thermalShutdown := roundTrip_event rfl
theorem powerDown : Statement .powerDown := roundTrip_event rfl
theorem pcieLinkDown : Statement .pcieLinkDown := roundTrip_event rfl
theorem pcieLinkUp : Statement .pcieLinkUp := roundTrip_event rfl

end Laws.RoundTrip

end Sys2Proof
end

