-- ==== Sys2Proof/Laws/State.lean ====
section
/-! SUPPORT. One lemma for each field and each update of the state: what the update leaves it at. They hold by unfolding the update once, so
that no later proof has to. -/

namespace Sys2Proof.Machine

open Sys2Proof

/-! `State.modCore`: Change a core. -/

@[simp] theorem State.mem_modCore (s : State) (c : Nat) (f : Core → Core) : (s.modCore c f).mem = s.mem := rfl
@[simp] theorem State.tags_modCore (s : State) (c : Nat) (f : Core → Core) : (s.modCore c f).tags = s.tags := rfl
@[simp] theorem State.bad_modCore (s : State) (c : Nat) (f : Core → Core) : (s.modCore c f).bad = s.bad := rfl
@[simp] theorem State.spadDirty_modCore (s : State) (c : Nat) (f : Core → Core) : (s.modCore c f).spadDirty = s.spadDirty := rfl
@[simp] theorem State.lineClass_modCore (s : State) (c : Nat) (f : Core → Core) : (s.modCore c f).lineClass = s.lineClass := rfl
@[simp] theorem State.lineIdent_modCore (s : State) (c : Nat) (f : Core → Core) : (s.modCore c f).lineIdent = s.lineIdent := rfl
@[simp] theorem State.l1Lines_modCore (s : State) (c : Nat) (f : Core → Core) : (s.modCore c f).l1Lines = s.l1Lines := rfl
@[simp] theorem State.cycle_modCore (s : State) (c : Nat) (f : Core → Core) : (s.modCore c f).cycle = s.cycle := rfl
@[simp] theorem State.pe_modCore (s : State) (c : Nat) (f : Core → Core) : (s.modCore c f).pe = s.pe := rfl
@[simp] theorem State.cores_modCore (s : State) (c : Nat) (f : Core → Core) :
    (s.modCore c f).cores = tabPut s.cores c (f (s.core c)) := rfl
@[simp] theorem State.teams_modCore (s : State) (c : Nat) (f : Core → Core) : (s.modCore c f).teams = s.teams := rfl
@[simp] theorem State.grids_modCore (s : State) (c : Nat) (f : Core → Core) : (s.modCore c f).grids = s.grids := rfl
@[simp] theorem State.nextGrid_modCore (s : State) (c : Nat) (f : Core → Core) : (s.modCore c f).nextGrid = s.nextGrid := rfl
@[simp] theorem State.queues_modCore (s : State) (c : Nat) (f : Core → Core) : (s.modCore c f).queues = s.queues := rfl
@[simp] theorem State.served_modCore (s : State) (c : Nat) (f : Core → Core) : (s.modCore c f).served = s.served := rfl
@[simp] theorem State.dieTlb_modCore (s : State) (c : Nat) (f : Core → Core) : (s.modCore c f).dieTlb = s.dieTlb := rfl
@[simp] theorem State.dieWalk_modCore (s : State) (c : Nat) (f : Core → Core) : (s.modCore c f).dieWalk = s.dieWalk := rfl
@[simp] theorem State.past_modCore (s : State) (c : Nat) (f : Core → Core) : (s.modCore c f).past = s.past := rfl
@[simp] theorem State.ops_modCore (s : State) (c : Nat) (f : Core → Core) : (s.modCore c f).ops = s.ops := rfl
@[simp] theorem State.pools_modCore (s : State) (c : Nat) (f : Core → Core) : (s.modCore c f).pools = s.pools := rfl
@[simp] theorem State.wc_modCore (s : State) (c : Nat) (f : Core → Core) : (s.modCore c f).wc = s.wc := rfl
@[simp] theorem State.heaps_modCore (s : State) (c : Nat) (f : Core → Core) : (s.modCore c f).heaps = s.heaps := rfl
@[simp] theorem State.released_modCore (s : State) (c : Nat) (f : Core → Core) : (s.modCore c f).released = s.released := rfl
@[simp] theorem State.narrow_modCore (s : State) (c : Nat) (f : Core → Core) : (s.modCore c f).narrow = s.narrow := rfl
@[simp] theorem State.maskHolds_modCore (s : State) (c : Nat) (f : Core → Core) : (s.modCore c f).maskHolds = s.maskHolds := rfl
@[simp] theorem State.migrations_modCore (s : State) (c : Nat) (f : Core → Core) : (s.modCore c f).migrations = s.migrations := rfl
@[simp] theorem State.faults_modCore (s : State) (c : Nat) (f : Core → Core) : (s.modCore c f).faults = s.faults := rfl
@[simp] theorem State.trapRecs_modCore (s : State) (c : Nat) (f : Core → Core) : (s.modCore c f).trapRecs = s.trapRecs := rfl
@[simp] theorem State.ports_modCore (s : State) (c : Nat) (f : Core → Core) : (s.modCore c f).ports = s.ports := rfl
@[simp] theorem State.fw_modCore (s : State) (c : Nat) (f : Core → Core) : (s.modCore c f).fw = s.fw := rfl
@[simp] theorem State.replies_modCore (s : State) (c : Nat) (f : Core → Core) : (s.modCore c f).replies = s.replies := rfl
@[simp] theorem State.irqs_modCore (s : State) (c : Nat) (f : Core → Core) : (s.modCore c f).irqs = s.irqs := rfl
@[simp] theorem State.sent_modCore (s : State) (c : Nat) (f : Core → Core) : (s.modCore c f).sent = s.sent := rfl
@[simp] theorem State.answers_modCore (s : State) (c : Nat) (f : Core → Core) : (s.modCore c f).answers = s.answers := rfl
@[simp] theorem State.inbox_modCore (s : State) (c : Nat) (f : Core → Core) : (s.modCore c f).inbox = s.inbox := rfl
@[simp] theorem State.hostReads_modCore (s : State) (c : Nat) (f : Core → Core) : (s.modCore c f).hostReads = s.hostReads := rfl
@[simp] theorem State.agenda_modCore (s : State) (c : Nat) (f : Core → Core) : (s.modCore c f).agenda = s.agenda := rfl
@[simp] theorem State.cur_modCore (s : State) (c : Nat) (f : Core → Core) : (s.modCore c f).cur = s.cur := rfl
@[simp] theorem State.unit_modCore (s : State) (c : Nat) (f : Core → Core) : (s.modCore c f).unit = s.unit := rfl
@[simp] theorem State.choices_modCore (s : State) (c : Nat) (f : Core → Core) : (s.modCore c f).choices = s.choices := rfl
@[simp] theorem State.fresh_modCore (s : State) (c : Nat) (f : Core → Core) : (s.modCore c f).fresh = s.fresh := rfl
@[simp] theorem State.nextOp_modCore (s : State) (c : Nat) (f : Core → Core) : (s.modCore c f).nextOp = s.nextOp := rfl

/-! `State.setSlot`: Write a context slot (04 R110). -/

@[simp] theorem State.mem_setSlot (s : State) (c i : Nat) (sl : Slot) : (s.setSlot c i sl).mem = s.mem := rfl
@[simp] theorem State.tags_setSlot (s : State) (c i : Nat) (sl : Slot) : (s.setSlot c i sl).tags = s.tags := rfl
@[simp] theorem State.bad_setSlot (s : State) (c i : Nat) (sl : Slot) : (s.setSlot c i sl).bad = s.bad := rfl
@[simp] theorem State.spadDirty_setSlot (s : State) (c i : Nat) (sl : Slot) : (s.setSlot c i sl).spadDirty = s.spadDirty := rfl
@[simp] theorem State.lineClass_setSlot (s : State) (c i : Nat) (sl : Slot) : (s.setSlot c i sl).lineClass = s.lineClass := rfl
@[simp] theorem State.lineIdent_setSlot (s : State) (c i : Nat) (sl : Slot) : (s.setSlot c i sl).lineIdent = s.lineIdent := rfl
@[simp] theorem State.l1Lines_setSlot (s : State) (c i : Nat) (sl : Slot) : (s.setSlot c i sl).l1Lines = s.l1Lines := rfl
@[simp] theorem State.cycle_setSlot (s : State) (c i : Nat) (sl : Slot) : (s.setSlot c i sl).cycle = s.cycle := rfl
@[simp] theorem State.pe_setSlot (s : State) (c i : Nat) (sl : Slot) : (s.setSlot c i sl).pe = s.pe := rfl
@[simp] theorem State.cores_setSlot (s : State) (c i : Nat) (sl : Slot) :
    (s.setSlot c i sl).cores = tabPut s.cores c { s.core c with slots := listSet (s.core c).slots i sl } := rfl
@[simp] theorem State.teams_setSlot (s : State) (c i : Nat) (sl : Slot) : (s.setSlot c i sl).teams = s.teams := rfl
@[simp] theorem State.grids_setSlot (s : State) (c i : Nat) (sl : Slot) : (s.setSlot c i sl).grids = s.grids := rfl
@[simp] theorem State.nextGrid_setSlot (s : State) (c i : Nat) (sl : Slot) : (s.setSlot c i sl).nextGrid = s.nextGrid := rfl
@[simp] theorem State.queues_setSlot (s : State) (c i : Nat) (sl : Slot) : (s.setSlot c i sl).queues = s.queues := rfl
@[simp] theorem State.served_setSlot (s : State) (c i : Nat) (sl : Slot) : (s.setSlot c i sl).served = s.served := rfl
@[simp] theorem State.dieTlb_setSlot (s : State) (c i : Nat) (sl : Slot) : (s.setSlot c i sl).dieTlb = s.dieTlb := rfl
@[simp] theorem State.dieWalk_setSlot (s : State) (c i : Nat) (sl : Slot) : (s.setSlot c i sl).dieWalk = s.dieWalk := rfl
@[simp] theorem State.past_setSlot (s : State) (c i : Nat) (sl : Slot) : (s.setSlot c i sl).past = s.past := rfl
@[simp] theorem State.ops_setSlot (s : State) (c i : Nat) (sl : Slot) : (s.setSlot c i sl).ops = s.ops := rfl
@[simp] theorem State.pools_setSlot (s : State) (c i : Nat) (sl : Slot) : (s.setSlot c i sl).pools = s.pools := rfl
@[simp] theorem State.wc_setSlot (s : State) (c i : Nat) (sl : Slot) : (s.setSlot c i sl).wc = s.wc := rfl
@[simp] theorem State.heaps_setSlot (s : State) (c i : Nat) (sl : Slot) : (s.setSlot c i sl).heaps = s.heaps := rfl
@[simp] theorem State.released_setSlot (s : State) (c i : Nat) (sl : Slot) : (s.setSlot c i sl).released = s.released := rfl
@[simp] theorem State.narrow_setSlot (s : State) (c i : Nat) (sl : Slot) : (s.setSlot c i sl).narrow = s.narrow := rfl
@[simp] theorem State.maskHolds_setSlot (s : State) (c i : Nat) (sl : Slot) : (s.setSlot c i sl).maskHolds = s.maskHolds := rfl
@[simp] theorem State.migrations_setSlot (s : State) (c i : Nat) (sl : Slot) : (s.setSlot c i sl).migrations = s.migrations := rfl
@[simp] theorem State.faults_setSlot (s : State) (c i : Nat) (sl : Slot) : (s.setSlot c i sl).faults = s.faults := rfl
@[simp] theorem State.trapRecs_setSlot (s : State) (c i : Nat) (sl : Slot) : (s.setSlot c i sl).trapRecs = s.trapRecs := rfl
@[simp] theorem State.ports_setSlot (s : State) (c i : Nat) (sl : Slot) : (s.setSlot c i sl).ports = s.ports := rfl
@[simp] theorem State.fw_setSlot (s : State) (c i : Nat) (sl : Slot) : (s.setSlot c i sl).fw = s.fw := rfl
@[simp] theorem State.replies_setSlot (s : State) (c i : Nat) (sl : Slot) : (s.setSlot c i sl).replies = s.replies := rfl
@[simp] theorem State.irqs_setSlot (s : State) (c i : Nat) (sl : Slot) : (s.setSlot c i sl).irqs = s.irqs := rfl
@[simp] theorem State.sent_setSlot (s : State) (c i : Nat) (sl : Slot) : (s.setSlot c i sl).sent = s.sent := rfl
@[simp] theorem State.answers_setSlot (s : State) (c i : Nat) (sl : Slot) : (s.setSlot c i sl).answers = s.answers := rfl
@[simp] theorem State.inbox_setSlot (s : State) (c i : Nat) (sl : Slot) : (s.setSlot c i sl).inbox = s.inbox := rfl
@[simp] theorem State.hostReads_setSlot (s : State) (c i : Nat) (sl : Slot) : (s.setSlot c i sl).hostReads = s.hostReads := rfl
@[simp] theorem State.agenda_setSlot (s : State) (c i : Nat) (sl : Slot) : (s.setSlot c i sl).agenda = s.agenda := rfl
@[simp] theorem State.cur_setSlot (s : State) (c i : Nat) (sl : Slot) : (s.setSlot c i sl).cur = s.cur := rfl
@[simp] theorem State.unit_setSlot (s : State) (c i : Nat) (sl : Slot) : (s.setSlot c i sl).unit = s.unit := rfl
@[simp] theorem State.choices_setSlot (s : State) (c i : Nat) (sl : Slot) : (s.setSlot c i sl).choices = s.choices := rfl
@[simp] theorem State.fresh_setSlot (s : State) (c i : Nat) (sl : Slot) : (s.setSlot c i sl).fresh = s.fresh := rfl
@[simp] theorem State.nextOp_setSlot (s : State) (c i : Nat) (sl : Slot) : (s.setSlot c i sl).nextOp = s.nextOp := rfl

/-! `State.modTeam`: Change a team. -/

@[simp] theorem State.mem_modTeam (s : State) (key : Nat) (f : Team → Team) : (s.modTeam key f).mem = s.mem := rfl
@[simp] theorem State.tags_modTeam (s : State) (key : Nat) (f : Team → Team) : (s.modTeam key f).tags = s.tags := rfl
@[simp] theorem State.bad_modTeam (s : State) (key : Nat) (f : Team → Team) : (s.modTeam key f).bad = s.bad := rfl
@[simp] theorem State.spadDirty_modTeam (s : State) (key : Nat) (f : Team → Team) : (s.modTeam key f).spadDirty = s.spadDirty := rfl
@[simp] theorem State.lineClass_modTeam (s : State) (key : Nat) (f : Team → Team) : (s.modTeam key f).lineClass = s.lineClass := rfl
@[simp] theorem State.lineIdent_modTeam (s : State) (key : Nat) (f : Team → Team) : (s.modTeam key f).lineIdent = s.lineIdent := rfl
@[simp] theorem State.l1Lines_modTeam (s : State) (key : Nat) (f : Team → Team) : (s.modTeam key f).l1Lines = s.l1Lines := rfl
@[simp] theorem State.cycle_modTeam (s : State) (key : Nat) (f : Team → Team) : (s.modTeam key f).cycle = s.cycle := rfl
@[simp] theorem State.pe_modTeam (s : State) (key : Nat) (f : Team → Team) : (s.modTeam key f).pe = s.pe := rfl
@[simp] theorem State.cores_modTeam (s : State) (key : Nat) (f : Team → Team) : (s.modTeam key f).cores = s.cores := rfl
@[simp] theorem State.teams_modTeam (s : State) (key : Nat) (f : Team → Team) : (s.modTeam key f).teams = tabMod s.teams key f := rfl
@[simp] theorem State.grids_modTeam (s : State) (key : Nat) (f : Team → Team) : (s.modTeam key f).grids = s.grids := rfl
@[simp] theorem State.nextGrid_modTeam (s : State) (key : Nat) (f : Team → Team) : (s.modTeam key f).nextGrid = s.nextGrid := rfl
@[simp] theorem State.queues_modTeam (s : State) (key : Nat) (f : Team → Team) : (s.modTeam key f).queues = s.queues := rfl
@[simp] theorem State.served_modTeam (s : State) (key : Nat) (f : Team → Team) : (s.modTeam key f).served = s.served := rfl
@[simp] theorem State.dieTlb_modTeam (s : State) (key : Nat) (f : Team → Team) : (s.modTeam key f).dieTlb = s.dieTlb := rfl
@[simp] theorem State.dieWalk_modTeam (s : State) (key : Nat) (f : Team → Team) : (s.modTeam key f).dieWalk = s.dieWalk := rfl
@[simp] theorem State.past_modTeam (s : State) (key : Nat) (f : Team → Team) : (s.modTeam key f).past = s.past := rfl
@[simp] theorem State.ops_modTeam (s : State) (key : Nat) (f : Team → Team) : (s.modTeam key f).ops = s.ops := rfl
@[simp] theorem State.pools_modTeam (s : State) (key : Nat) (f : Team → Team) : (s.modTeam key f).pools = s.pools := rfl
@[simp] theorem State.wc_modTeam (s : State) (key : Nat) (f : Team → Team) : (s.modTeam key f).wc = s.wc := rfl
@[simp] theorem State.heaps_modTeam (s : State) (key : Nat) (f : Team → Team) : (s.modTeam key f).heaps = s.heaps := rfl
@[simp] theorem State.released_modTeam (s : State) (key : Nat) (f : Team → Team) : (s.modTeam key f).released = s.released := rfl
@[simp] theorem State.narrow_modTeam (s : State) (key : Nat) (f : Team → Team) : (s.modTeam key f).narrow = s.narrow := rfl
@[simp] theorem State.maskHolds_modTeam (s : State) (key : Nat) (f : Team → Team) : (s.modTeam key f).maskHolds = s.maskHolds := rfl
@[simp] theorem State.migrations_modTeam (s : State) (key : Nat) (f : Team → Team) : (s.modTeam key f).migrations = s.migrations := rfl
@[simp] theorem State.faults_modTeam (s : State) (key : Nat) (f : Team → Team) : (s.modTeam key f).faults = s.faults := rfl
@[simp] theorem State.trapRecs_modTeam (s : State) (key : Nat) (f : Team → Team) : (s.modTeam key f).trapRecs = s.trapRecs := rfl
@[simp] theorem State.ports_modTeam (s : State) (key : Nat) (f : Team → Team) : (s.modTeam key f).ports = s.ports := rfl
@[simp] theorem State.fw_modTeam (s : State) (key : Nat) (f : Team → Team) : (s.modTeam key f).fw = s.fw := rfl
@[simp] theorem State.replies_modTeam (s : State) (key : Nat) (f : Team → Team) : (s.modTeam key f).replies = s.replies := rfl
@[simp] theorem State.irqs_modTeam (s : State) (key : Nat) (f : Team → Team) : (s.modTeam key f).irqs = s.irqs := rfl
@[simp] theorem State.sent_modTeam (s : State) (key : Nat) (f : Team → Team) : (s.modTeam key f).sent = s.sent := rfl
@[simp] theorem State.answers_modTeam (s : State) (key : Nat) (f : Team → Team) : (s.modTeam key f).answers = s.answers := rfl
@[simp] theorem State.inbox_modTeam (s : State) (key : Nat) (f : Team → Team) : (s.modTeam key f).inbox = s.inbox := rfl
@[simp] theorem State.hostReads_modTeam (s : State) (key : Nat) (f : Team → Team) : (s.modTeam key f).hostReads = s.hostReads := rfl
@[simp] theorem State.agenda_modTeam (s : State) (key : Nat) (f : Team → Team) : (s.modTeam key f).agenda = s.agenda := rfl
@[simp] theorem State.cur_modTeam (s : State) (key : Nat) (f : Team → Team) : (s.modTeam key f).cur = s.cur := rfl
@[simp] theorem State.unit_modTeam (s : State) (key : Nat) (f : Team → Team) : (s.modTeam key f).unit = s.unit := rfl
@[simp] theorem State.choices_modTeam (s : State) (key : Nat) (f : Team → Team) : (s.modTeam key f).choices = s.choices := rfl
@[simp] theorem State.fresh_modTeam (s : State) (key : Nat) (f : Team → Team) : (s.modTeam key f).fresh = s.fresh := rfl
@[simp] theorem State.nextOp_modTeam (s : State) (key : Nat) (f : Team → Team) : (s.modTeam key f).nextOp = s.nextOp := rfl

/-! `State.modGroup`: Change a group. -/

@[simp] theorem State.mem_modGroup (s : State) (key g : Nat) (f : Group → Group) : (s.modGroup key g f).mem = s.mem := rfl
@[simp] theorem State.tags_modGroup (s : State) (key g : Nat) (f : Group → Group) : (s.modGroup key g f).tags = s.tags := rfl
@[simp] theorem State.bad_modGroup (s : State) (key g : Nat) (f : Group → Group) : (s.modGroup key g f).bad = s.bad := rfl
@[simp] theorem State.spadDirty_modGroup (s : State) (key g : Nat) (f : Group → Group) :
    (s.modGroup key g f).spadDirty = s.spadDirty := rfl
@[simp] theorem State.lineClass_modGroup (s : State) (key g : Nat) (f : Group → Group) :
    (s.modGroup key g f).lineClass = s.lineClass := rfl
@[simp] theorem State.lineIdent_modGroup (s : State) (key g : Nat) (f : Group → Group) :
    (s.modGroup key g f).lineIdent = s.lineIdent := rfl
@[simp] theorem State.l1Lines_modGroup (s : State) (key g : Nat) (f : Group → Group) :
    (s.modGroup key g f).l1Lines = s.l1Lines := rfl
@[simp] theorem State.cycle_modGroup (s : State) (key g : Nat) (f : Group → Group) : (s.modGroup key g f).cycle = s.cycle := rfl
@[simp] theorem State.pe_modGroup (s : State) (key g : Nat) (f : Group → Group) : (s.modGroup key g f).pe = s.pe := rfl
@[simp] theorem State.cores_modGroup (s : State) (key g : Nat) (f : Group → Group) : (s.modGroup key g f).cores = s.cores := rfl
@[simp] theorem State.teams_modGroup (s : State) (key g : Nat) (f : Group → Group) :
    (s.modGroup key g f).teams = tabMod s.teams key (fun t => { t with groups := tabMod t.groups g f }) := rfl
@[simp] theorem State.grids_modGroup (s : State) (key g : Nat) (f : Group → Group) : (s.modGroup key g f).grids = s.grids := rfl
@[simp] theorem State.nextGrid_modGroup (s : State) (key g : Nat) (f : Group → Group) : (s.modGroup key g f).nextGrid = s.nextGrid := rfl
@[simp] theorem State.queues_modGroup (s : State) (key g : Nat) (f : Group → Group) : (s.modGroup key g f).queues = s.queues := rfl
@[simp] theorem State.served_modGroup (s : State) (key g : Nat) (f : Group → Group) : (s.modGroup key g f).served = s.served := rfl
@[simp] theorem State.dieTlb_modGroup (s : State) (key g : Nat) (f : Group → Group) : (s.modGroup key g f).dieTlb = s.dieTlb := rfl
@[simp] theorem State.dieWalk_modGroup (s : State) (key g : Nat) (f : Group → Group) : (s.modGroup key g f).dieWalk = s.dieWalk := rfl
@[simp] theorem State.past_modGroup (s : State) (key g : Nat) (f : Group → Group) : (s.modGroup key g f).past = s.past := rfl
@[simp] theorem State.ops_modGroup (s : State) (key g : Nat) (f : Group → Group) : (s.modGroup key g f).ops = s.ops := rfl
@[simp] theorem State.pools_modGroup (s : State) (key g : Nat) (f : Group → Group) : (s.modGroup key g f).pools = s.pools := rfl
@[simp] theorem State.wc_modGroup (s : State) (key g : Nat) (f : Group → Group) : (s.modGroup key g f).wc = s.wc := rfl
@[simp] theorem State.heaps_modGroup (s : State) (key g : Nat) (f : Group → Group) : (s.modGroup key g f).heaps = s.heaps := rfl
@[simp] theorem State.released_modGroup (s : State) (key g : Nat) (f : Group → Group) : (s.modGroup key g f).released = s.released := rfl
@[simp] theorem State.narrow_modGroup (s : State) (key g : Nat) (f : Group → Group) : (s.modGroup key g f).narrow = s.narrow := rfl
@[simp] theorem State.maskHolds_modGroup (s : State) (key g : Nat) (f : Group → Group) :
    (s.modGroup key g f).maskHolds = s.maskHolds := rfl
@[simp] theorem State.migrations_modGroup (s : State) (key g : Nat) (f : Group → Group) :
    (s.modGroup key g f).migrations = s.migrations := rfl
@[simp] theorem State.faults_modGroup (s : State) (key g : Nat) (f : Group → Group) : (s.modGroup key g f).faults = s.faults := rfl
@[simp] theorem State.trapRecs_modGroup (s : State) (key g : Nat) (f : Group → Group) : (s.modGroup key g f).trapRecs = s.trapRecs := rfl
@[simp] theorem State.ports_modGroup (s : State) (key g : Nat) (f : Group → Group) : (s.modGroup key g f).ports = s.ports := rfl
@[simp] theorem State.fw_modGroup (s : State) (key g : Nat) (f : Group → Group) : (s.modGroup key g f).fw = s.fw := rfl
@[simp] theorem State.replies_modGroup (s : State) (key g : Nat) (f : Group → Group) : (s.modGroup key g f).replies = s.replies := rfl
@[simp] theorem State.irqs_modGroup (s : State) (key g : Nat) (f : Group → Group) : (s.modGroup key g f).irqs = s.irqs := rfl
@[simp] theorem State.sent_modGroup (s : State) (key g : Nat) (f : Group → Group) : (s.modGroup key g f).sent = s.sent := rfl
@[simp] theorem State.answers_modGroup (s : State) (key g : Nat) (f : Group → Group) : (s.modGroup key g f).answers = s.answers := rfl
@[simp] theorem State.inbox_modGroup (s : State) (key g : Nat) (f : Group → Group) : (s.modGroup key g f).inbox = s.inbox := rfl
@[simp] theorem State.hostReads_modGroup (s : State) (key g : Nat) (f : Group → Group) :
    (s.modGroup key g f).hostReads = s.hostReads := rfl
@[simp] theorem State.agenda_modGroup (s : State) (key g : Nat) (f : Group → Group) : (s.modGroup key g f).agenda = s.agenda := rfl
@[simp] theorem State.cur_modGroup (s : State) (key g : Nat) (f : Group → Group) : (s.modGroup key g f).cur = s.cur := rfl
@[simp] theorem State.unit_modGroup (s : State) (key g : Nat) (f : Group → Group) : (s.modGroup key g f).unit = s.unit := rfl
@[simp] theorem State.choices_modGroup (s : State) (key g : Nat) (f : Group → Group) : (s.modGroup key g f).choices = s.choices := rfl
@[simp] theorem State.fresh_modGroup (s : State) (key g : Nat) (f : Group → Group) : (s.modGroup key g f).fresh = s.fresh := rfl
@[simp] theorem State.nextOp_modGroup (s : State) (key g : Nat) (f : Group → Group) : (s.modGroup key g f).nextOp = s.nextOp := rfl

/-! `State.modChannel`: Change a chain channel (14 R426). -/

@[simp] theorem State.mem_modChannel (s : State) (key ch : Nat) (f : Channel → Channel) : (s.modChannel key ch f).mem = s.mem := rfl
@[simp] theorem State.tags_modChannel (s : State) (key ch : Nat) (f : Channel → Channel) : (s.modChannel key ch f).tags = s.tags := rfl
@[simp] theorem State.bad_modChannel (s : State) (key ch : Nat) (f : Channel → Channel) : (s.modChannel key ch f).bad = s.bad := rfl
@[simp] theorem State.spadDirty_modChannel (s : State) (key ch : Nat) (f : Channel → Channel) :
    (s.modChannel key ch f).spadDirty = s.spadDirty := rfl
@[simp] theorem State.lineClass_modChannel (s : State) (key ch : Nat) (f : Channel → Channel) :
    (s.modChannel key ch f).lineClass = s.lineClass := rfl
@[simp] theorem State.lineIdent_modChannel (s : State) (key ch : Nat) (f : Channel → Channel) :
    (s.modChannel key ch f).lineIdent = s.lineIdent := rfl
@[simp] theorem State.l1Lines_modChannel (s : State) (key ch : Nat) (f : Channel → Channel) :
    (s.modChannel key ch f).l1Lines = s.l1Lines := rfl
@[simp] theorem State.cycle_modChannel (s : State) (key ch : Nat) (f : Channel → Channel) : (s.modChannel key ch f).cycle = s.cycle := rfl
@[simp] theorem State.pe_modChannel (s : State) (key ch : Nat) (f : Channel → Channel) : (s.modChannel key ch f).pe = s.pe := rfl
@[simp] theorem State.cores_modChannel (s : State) (key ch : Nat) (f : Channel → Channel) : (s.modChannel key ch f).cores = s.cores := rfl
@[simp] theorem State.teams_modChannel (s : State) (key ch : Nat) (f : Channel → Channel) :
    (s.modChannel key ch f).teams = tabMod s.teams key (fun t => { t with channels := listSet t.channels ch (f (t.channel ch)) }) := rfl
@[simp] theorem State.grids_modChannel (s : State) (key ch : Nat) (f : Channel → Channel) : (s.modChannel key ch f).grids = s.grids := rfl
@[simp] theorem State.nextGrid_modChannel (s : State) (key ch : Nat) (f : Channel → Channel) :
    (s.modChannel key ch f).nextGrid = s.nextGrid := rfl
@[simp] theorem State.queues_modChannel (s : State) (key ch : Nat) (f : Channel → Channel) :
    (s.modChannel key ch f).queues = s.queues := rfl
@[simp] theorem State.served_modChannel (s : State) (key ch : Nat) (f : Channel → Channel) :
    (s.modChannel key ch f).served = s.served := rfl
@[simp] theorem State.dieTlb_modChannel (s : State) (key ch : Nat) (f : Channel → Channel) :
    (s.modChannel key ch f).dieTlb = s.dieTlb := rfl
@[simp] theorem State.dieWalk_modChannel (s : State) (key ch : Nat) (f : Channel → Channel) :
    (s.modChannel key ch f).dieWalk = s.dieWalk := rfl
@[simp] theorem State.past_modChannel (s : State) (key ch : Nat) (f : Channel → Channel) : (s.modChannel key ch f).past = s.past := rfl
@[simp] theorem State.ops_modChannel (s : State) (key ch : Nat) (f : Channel → Channel) : (s.modChannel key ch f).ops = s.ops := rfl
@[simp] theorem State.pools_modChannel (s : State) (key ch : Nat) (f : Channel → Channel) : (s.modChannel key ch f).pools = s.pools := rfl
@[simp] theorem State.wc_modChannel (s : State) (key ch : Nat) (f : Channel → Channel) : (s.modChannel key ch f).wc = s.wc := rfl
@[simp] theorem State.heaps_modChannel (s : State) (key ch : Nat) (f : Channel → Channel) : (s.modChannel key ch f).heaps = s.heaps := rfl
@[simp] theorem State.released_modChannel (s : State) (key ch : Nat) (f : Channel → Channel) :
    (s.modChannel key ch f).released = s.released := rfl
@[simp] theorem State.narrow_modChannel (s : State) (key ch : Nat) (f : Channel → Channel) :
    (s.modChannel key ch f).narrow = s.narrow := rfl
@[simp] theorem State.maskHolds_modChannel (s : State) (key ch : Nat) (f : Channel → Channel) :
    (s.modChannel key ch f).maskHolds = s.maskHolds := rfl
@[simp] theorem State.migrations_modChannel (s : State) (key ch : Nat) (f : Channel → Channel) :
    (s.modChannel key ch f).migrations = s.migrations := rfl
@[simp] theorem State.faults_modChannel (s : State) (key ch : Nat) (f : Channel → Channel) :
    (s.modChannel key ch f).faults = s.faults := rfl
@[simp] theorem State.trapRecs_modChannel (s : State) (key ch : Nat) (f : Channel → Channel) :
    (s.modChannel key ch f).trapRecs = s.trapRecs := rfl
@[simp] theorem State.ports_modChannel (s : State) (key ch : Nat) (f : Channel → Channel) : (s.modChannel key ch f).ports = s.ports := rfl
@[simp] theorem State.fw_modChannel (s : State) (key ch : Nat) (f : Channel → Channel) : (s.modChannel key ch f).fw = s.fw := rfl
@[simp] theorem State.replies_modChannel (s : State) (key ch : Nat) (f : Channel → Channel) :
    (s.modChannel key ch f).replies = s.replies := rfl
@[simp] theorem State.irqs_modChannel (s : State) (key ch : Nat) (f : Channel → Channel) : (s.modChannel key ch f).irqs = s.irqs := rfl
@[simp] theorem State.sent_modChannel (s : State) (key ch : Nat) (f : Channel → Channel) : (s.modChannel key ch f).sent = s.sent := rfl
@[simp] theorem State.answers_modChannel (s : State) (key ch : Nat) (f : Channel → Channel) :
    (s.modChannel key ch f).answers = s.answers := rfl
@[simp] theorem State.inbox_modChannel (s : State) (key ch : Nat) (f : Channel → Channel) : (s.modChannel key ch f).inbox = s.inbox := rfl
@[simp] theorem State.hostReads_modChannel (s : State) (key ch : Nat) (f : Channel → Channel) :
    (s.modChannel key ch f).hostReads = s.hostReads := rfl
@[simp] theorem State.agenda_modChannel (s : State) (key ch : Nat) (f : Channel → Channel) :
    (s.modChannel key ch f).agenda = s.agenda := rfl
@[simp] theorem State.cur_modChannel (s : State) (key ch : Nat) (f : Channel → Channel) : (s.modChannel key ch f).cur = s.cur := rfl
@[simp] theorem State.unit_modChannel (s : State) (key ch : Nat) (f : Channel → Channel) : (s.modChannel key ch f).unit = s.unit := rfl
@[simp] theorem State.choices_modChannel (s : State) (key ch : Nat) (f : Channel → Channel) :
    (s.modChannel key ch f).choices = s.choices := rfl
@[simp] theorem State.fresh_modChannel (s : State) (key ch : Nat) (f : Channel → Channel) : (s.modChannel key ch f).fresh = s.fresh := rfl
@[simp] theorem State.nextOp_modChannel (s : State) (key ch : Nat) (f : Channel → Channel) :
    (s.modChannel key ch f).nextOp = s.nextOp := rfl

/-! `State.irq`: Raise an interrupt vector (17 R486). -/

@[simp] theorem State.mem_irq (s : State) (v : Nat) : (s.irq v).mem = s.mem := rfl
@[simp] theorem State.tags_irq (s : State) (v : Nat) : (s.irq v).tags = s.tags := rfl
@[simp] theorem State.bad_irq (s : State) (v : Nat) : (s.irq v).bad = s.bad := rfl
@[simp] theorem State.spadDirty_irq (s : State) (v : Nat) : (s.irq v).spadDirty = s.spadDirty := rfl
@[simp] theorem State.lineClass_irq (s : State) (v : Nat) : (s.irq v).lineClass = s.lineClass := rfl
@[simp] theorem State.lineIdent_irq (s : State) (v : Nat) : (s.irq v).lineIdent = s.lineIdent := rfl
@[simp] theorem State.l1Lines_irq (s : State) (v : Nat) : (s.irq v).l1Lines = s.l1Lines := rfl
@[simp] theorem State.cycle_irq (s : State) (v : Nat) : (s.irq v).cycle = s.cycle := rfl
@[simp] theorem State.pe_irq (s : State) (v : Nat) : (s.irq v).pe = s.pe := rfl
@[simp] theorem State.cores_irq (s : State) (v : Nat) : (s.irq v).cores = s.cores := rfl
@[simp] theorem State.teams_irq (s : State) (v : Nat) : (s.irq v).teams = s.teams := rfl
@[simp] theorem State.grids_irq (s : State) (v : Nat) : (s.irq v).grids = s.grids := rfl
@[simp] theorem State.nextGrid_irq (s : State) (v : Nat) : (s.irq v).nextGrid = s.nextGrid := rfl
@[simp] theorem State.queues_irq (s : State) (v : Nat) : (s.irq v).queues = s.queues := rfl
@[simp] theorem State.served_irq (s : State) (v : Nat) : (s.irq v).served = s.served := rfl
@[simp] theorem State.dieTlb_irq (s : State) (v : Nat) : (s.irq v).dieTlb = s.dieTlb := rfl
@[simp] theorem State.dieWalk_irq (s : State) (v : Nat) : (s.irq v).dieWalk = s.dieWalk := rfl
@[simp] theorem State.past_irq (s : State) (v : Nat) : (s.irq v).past = s.past := rfl
@[simp] theorem State.ops_irq (s : State) (v : Nat) : (s.irq v).ops = s.ops := rfl
@[simp] theorem State.pools_irq (s : State) (v : Nat) : (s.irq v).pools = s.pools := rfl
@[simp] theorem State.wc_irq (s : State) (v : Nat) : (s.irq v).wc = s.wc := rfl
@[simp] theorem State.heaps_irq (s : State) (v : Nat) : (s.irq v).heaps = s.heaps := rfl
@[simp] theorem State.released_irq (s : State) (v : Nat) : (s.irq v).released = s.released := rfl
@[simp] theorem State.narrow_irq (s : State) (v : Nat) : (s.irq v).narrow = s.narrow := rfl
@[simp] theorem State.maskHolds_irq (s : State) (v : Nat) : (s.irq v).maskHolds = s.maskHolds := rfl
@[simp] theorem State.migrations_irq (s : State) (v : Nat) : (s.irq v).migrations = s.migrations := rfl
@[simp] theorem State.faults_irq (s : State) (v : Nat) : (s.irq v).faults = s.faults := rfl
@[simp] theorem State.trapRecs_irq (s : State) (v : Nat) : (s.irq v).trapRecs = s.trapRecs := rfl
@[simp] theorem State.ports_irq (s : State) (v : Nat) : (s.irq v).ports = s.ports := rfl
@[simp] theorem State.fw_irq (s : State) (v : Nat) : (s.irq v).fw = s.fw := rfl
@[simp] theorem State.replies_irq (s : State) (v : Nat) : (s.irq v).replies = s.replies := rfl
@[simp] theorem State.irqs_irq (s : State) (v : Nat) : (s.irq v).irqs = v :: s.irqs := rfl
@[simp] theorem State.sent_irq (s : State) (v : Nat) : (s.irq v).sent = s.sent := rfl
@[simp] theorem State.answers_irq (s : State) (v : Nat) : (s.irq v).answers = s.answers := rfl
@[simp] theorem State.inbox_irq (s : State) (v : Nat) : (s.irq v).inbox = s.inbox := rfl
@[simp] theorem State.hostReads_irq (s : State) (v : Nat) : (s.irq v).hostReads = s.hostReads := rfl
@[simp] theorem State.agenda_irq (s : State) (v : Nat) : (s.irq v).agenda = s.agenda := rfl
@[simp] theorem State.cur_irq (s : State) (v : Nat) : (s.irq v).cur = s.cur := rfl
@[simp] theorem State.unit_irq (s : State) (v : Nat) : (s.irq v).unit = s.unit := rfl
@[simp] theorem State.choices_irq (s : State) (v : Nat) : (s.irq v).choices = s.choices := rfl
@[simp] theorem State.fresh_irq (s : State) (v : Nat) : (s.irq v).fresh = s.fresh := rfl
@[simp] theorem State.nextOp_irq (s : State) (v : Nat) : (s.irq v).nextOp = s.nextOp := rfl

/-! `State.putOp`: Put an operation in flight. -/

@[simp] theorem State.mem_putOp (s : State) (id : Nat) (o : Op) : (s.putOp id o).mem = s.mem := rfl
@[simp] theorem State.tags_putOp (s : State) (id : Nat) (o : Op) : (s.putOp id o).tags = s.tags := rfl
@[simp] theorem State.bad_putOp (s : State) (id : Nat) (o : Op) : (s.putOp id o).bad = s.bad := rfl
@[simp] theorem State.spadDirty_putOp (s : State) (id : Nat) (o : Op) : (s.putOp id o).spadDirty = s.spadDirty := rfl
@[simp] theorem State.lineClass_putOp (s : State) (id : Nat) (o : Op) : (s.putOp id o).lineClass = s.lineClass := rfl
@[simp] theorem State.lineIdent_putOp (s : State) (id : Nat) (o : Op) : (s.putOp id o).lineIdent = s.lineIdent := rfl
@[simp] theorem State.l1Lines_putOp (s : State) (id : Nat) (o : Op) : (s.putOp id o).l1Lines = s.l1Lines := rfl
@[simp] theorem State.cycle_putOp (s : State) (id : Nat) (o : Op) : (s.putOp id o).cycle = s.cycle := rfl
@[simp] theorem State.pe_putOp (s : State) (id : Nat) (o : Op) : (s.putOp id o).pe = s.pe := rfl
@[simp] theorem State.cores_putOp (s : State) (id : Nat) (o : Op) : (s.putOp id o).cores = s.cores := rfl
@[simp] theorem State.teams_putOp (s : State) (id : Nat) (o : Op) : (s.putOp id o).teams = s.teams := rfl
@[simp] theorem State.grids_putOp (s : State) (id : Nat) (o : Op) : (s.putOp id o).grids = s.grids := rfl
@[simp] theorem State.nextGrid_putOp (s : State) (id : Nat) (o : Op) : (s.putOp id o).nextGrid = s.nextGrid := rfl
@[simp] theorem State.queues_putOp (s : State) (id : Nat) (o : Op) : (s.putOp id o).queues = s.queues := rfl
@[simp] theorem State.served_putOp (s : State) (id : Nat) (o : Op) : (s.putOp id o).served = s.served := rfl
@[simp] theorem State.dieTlb_putOp (s : State) (id : Nat) (o : Op) : (s.putOp id o).dieTlb = s.dieTlb := rfl
@[simp] theorem State.dieWalk_putOp (s : State) (id : Nat) (o : Op) : (s.putOp id o).dieWalk = s.dieWalk := rfl
@[simp] theorem State.past_putOp (s : State) (id : Nat) (o : Op) : (s.putOp id o).past = s.past := rfl
@[simp] theorem State.ops_putOp (s : State) (id : Nat) (o : Op) : (s.putOp id o).ops = tabPut s.ops id o := rfl
@[simp] theorem State.pools_putOp (s : State) (id : Nat) (o : Op) : (s.putOp id o).pools = s.pools := rfl
@[simp] theorem State.wc_putOp (s : State) (id : Nat) (o : Op) : (s.putOp id o).wc = s.wc := rfl
@[simp] theorem State.heaps_putOp (s : State) (id : Nat) (o : Op) : (s.putOp id o).heaps = s.heaps := rfl
@[simp] theorem State.released_putOp (s : State) (id : Nat) (o : Op) : (s.putOp id o).released = s.released := rfl
@[simp] theorem State.narrow_putOp (s : State) (id : Nat) (o : Op) : (s.putOp id o).narrow = s.narrow := rfl
@[simp] theorem State.maskHolds_putOp (s : State) (id : Nat) (o : Op) : (s.putOp id o).maskHolds = s.maskHolds := rfl
@[simp] theorem State.migrations_putOp (s : State) (id : Nat) (o : Op) : (s.putOp id o).migrations = s.migrations := rfl
@[simp] theorem State.faults_putOp (s : State) (id : Nat) (o : Op) : (s.putOp id o).faults = s.faults := rfl
@[simp] theorem State.trapRecs_putOp (s : State) (id : Nat) (o : Op) : (s.putOp id o).trapRecs = s.trapRecs := rfl
@[simp] theorem State.ports_putOp (s : State) (id : Nat) (o : Op) : (s.putOp id o).ports = s.ports := rfl
@[simp] theorem State.fw_putOp (s : State) (id : Nat) (o : Op) : (s.putOp id o).fw = s.fw := rfl
@[simp] theorem State.replies_putOp (s : State) (id : Nat) (o : Op) : (s.putOp id o).replies = s.replies := rfl
@[simp] theorem State.irqs_putOp (s : State) (id : Nat) (o : Op) : (s.putOp id o).irqs = s.irqs := rfl
@[simp] theorem State.sent_putOp (s : State) (id : Nat) (o : Op) : (s.putOp id o).sent = s.sent := rfl
@[simp] theorem State.answers_putOp (s : State) (id : Nat) (o : Op) : (s.putOp id o).answers = s.answers := rfl
@[simp] theorem State.inbox_putOp (s : State) (id : Nat) (o : Op) : (s.putOp id o).inbox = s.inbox := rfl
@[simp] theorem State.hostReads_putOp (s : State) (id : Nat) (o : Op) : (s.putOp id o).hostReads = s.hostReads := rfl
@[simp] theorem State.agenda_putOp (s : State) (id : Nat) (o : Op) : (s.putOp id o).agenda = s.agenda := rfl
@[simp] theorem State.cur_putOp (s : State) (id : Nat) (o : Op) : (s.putOp id o).cur = s.cur := rfl
@[simp] theorem State.unit_putOp (s : State) (id : Nat) (o : Op) : (s.putOp id o).unit = s.unit := rfl
@[simp] theorem State.choices_putOp (s : State) (id : Nat) (o : Op) : (s.putOp id o).choices = s.choices := rfl
@[simp] theorem State.fresh_putOp (s : State) (id : Nat) (o : Op) : (s.putOp id o).fresh = s.fresh := rfl
@[simp] theorem State.nextOp_putOp (s : State) (id : Nat) (o : Op) : (s.putOp id o).nextOp = s.nextOp := rfl

/-! `State.putLink`: Put a link operation in flight. -/

@[simp] theorem State.mem_putLink (s : State) (id : Nat) (o : Op) (l : Link) : (s.putLink id o l).mem = s.mem := rfl
@[simp] theorem State.tags_putLink (s : State) (id : Nat) (o : Op) (l : Link) : (s.putLink id o l).tags = s.tags := rfl
@[simp] theorem State.bad_putLink (s : State) (id : Nat) (o : Op) (l : Link) : (s.putLink id o l).bad = s.bad := rfl
@[simp] theorem State.spadDirty_putLink (s : State) (id : Nat) (o : Op) (l : Link) : (s.putLink id o l).spadDirty = s.spadDirty := rfl
@[simp] theorem State.lineClass_putLink (s : State) (id : Nat) (o : Op) (l : Link) : (s.putLink id o l).lineClass = s.lineClass := rfl
@[simp] theorem State.lineIdent_putLink (s : State) (id : Nat) (o : Op) (l : Link) : (s.putLink id o l).lineIdent = s.lineIdent := rfl
@[simp] theorem State.l1Lines_putLink (s : State) (id : Nat) (o : Op) (l : Link) : (s.putLink id o l).l1Lines = s.l1Lines := rfl
@[simp] theorem State.cycle_putLink (s : State) (id : Nat) (o : Op) (l : Link) : (s.putLink id o l).cycle = s.cycle := rfl
@[simp] theorem State.pe_putLink (s : State) (id : Nat) (o : Op) (l : Link) : (s.putLink id o l).pe = s.pe := rfl
@[simp] theorem State.cores_putLink (s : State) (id : Nat) (o : Op) (l : Link) : (s.putLink id o l).cores = s.cores := rfl
@[simp] theorem State.teams_putLink (s : State) (id : Nat) (o : Op) (l : Link) : (s.putLink id o l).teams = s.teams := rfl
@[simp] theorem State.grids_putLink (s : State) (id : Nat) (o : Op) (l : Link) : (s.putLink id o l).grids = s.grids := rfl
@[simp] theorem State.nextGrid_putLink (s : State) (id : Nat) (o : Op) (l : Link) : (s.putLink id o l).nextGrid = s.nextGrid := rfl
@[simp] theorem State.queues_putLink (s : State) (id : Nat) (o : Op) (l : Link) : (s.putLink id o l).queues = s.queues := rfl
@[simp] theorem State.served_putLink (s : State) (id : Nat) (o : Op) (l : Link) : (s.putLink id o l).served = s.served := rfl
@[simp] theorem State.dieTlb_putLink (s : State) (id : Nat) (o : Op) (l : Link) : (s.putLink id o l).dieTlb = s.dieTlb := rfl
@[simp] theorem State.dieWalk_putLink (s : State) (id : Nat) (o : Op) (l : Link) : (s.putLink id o l).dieWalk = s.dieWalk := rfl
@[simp] theorem State.past_putLink (s : State) (id : Nat) (o : Op) (l : Link) : (s.putLink id o l).past = s.past := rfl
@[simp] theorem State.ops_putLink (s : State) (id : Nat) (o : Op) (l : Link) :
    (s.putLink id o l).ops = tabPut s.ops id { o with body := .link l } := rfl
@[simp] theorem State.pools_putLink (s : State) (id : Nat) (o : Op) (l : Link) : (s.putLink id o l).pools = s.pools := rfl
@[simp] theorem State.wc_putLink (s : State) (id : Nat) (o : Op) (l : Link) : (s.putLink id o l).wc = s.wc := rfl
@[simp] theorem State.heaps_putLink (s : State) (id : Nat) (o : Op) (l : Link) : (s.putLink id o l).heaps = s.heaps := rfl
@[simp] theorem State.released_putLink (s : State) (id : Nat) (o : Op) (l : Link) : (s.putLink id o l).released = s.released := rfl
@[simp] theorem State.narrow_putLink (s : State) (id : Nat) (o : Op) (l : Link) : (s.putLink id o l).narrow = s.narrow := rfl
@[simp] theorem State.maskHolds_putLink (s : State) (id : Nat) (o : Op) (l : Link) : (s.putLink id o l).maskHolds = s.maskHolds := rfl
@[simp] theorem State.migrations_putLink (s : State) (id : Nat) (o : Op) (l : Link) : (s.putLink id o l).migrations = s.migrations := rfl
@[simp] theorem State.faults_putLink (s : State) (id : Nat) (o : Op) (l : Link) : (s.putLink id o l).faults = s.faults := rfl
@[simp] theorem State.trapRecs_putLink (s : State) (id : Nat) (o : Op) (l : Link) : (s.putLink id o l).trapRecs = s.trapRecs := rfl
@[simp] theorem State.ports_putLink (s : State) (id : Nat) (o : Op) (l : Link) : (s.putLink id o l).ports = s.ports := rfl
@[simp] theorem State.fw_putLink (s : State) (id : Nat) (o : Op) (l : Link) : (s.putLink id o l).fw = s.fw := rfl
@[simp] theorem State.replies_putLink (s : State) (id : Nat) (o : Op) (l : Link) : (s.putLink id o l).replies = s.replies := rfl
@[simp] theorem State.irqs_putLink (s : State) (id : Nat) (o : Op) (l : Link) : (s.putLink id o l).irqs = s.irqs := rfl
@[simp] theorem State.sent_putLink (s : State) (id : Nat) (o : Op) (l : Link) : (s.putLink id o l).sent = s.sent := rfl
@[simp] theorem State.answers_putLink (s : State) (id : Nat) (o : Op) (l : Link) : (s.putLink id o l).answers = s.answers := rfl
@[simp] theorem State.inbox_putLink (s : State) (id : Nat) (o : Op) (l : Link) : (s.putLink id o l).inbox = s.inbox := rfl
@[simp] theorem State.hostReads_putLink (s : State) (id : Nat) (o : Op) (l : Link) : (s.putLink id o l).hostReads = s.hostReads := rfl
@[simp] theorem State.agenda_putLink (s : State) (id : Nat) (o : Op) (l : Link) : (s.putLink id o l).agenda = s.agenda := rfl
@[simp] theorem State.cur_putLink (s : State) (id : Nat) (o : Op) (l : Link) : (s.putLink id o l).cur = s.cur := rfl
@[simp] theorem State.unit_putLink (s : State) (id : Nat) (o : Op) (l : Link) : (s.putLink id o l).unit = s.unit := rfl
@[simp] theorem State.choices_putLink (s : State) (id : Nat) (o : Op) (l : Link) : (s.putLink id o l).choices = s.choices := rfl
@[simp] theorem State.fresh_putLink (s : State) (id : Nat) (o : Op) (l : Link) : (s.putLink id o l).fresh = s.fresh := rfl
@[simp] theorem State.nextOp_putLink (s : State) (id : Nat) (o : Op) (l : Link) : (s.putLink id o l).nextOp = s.nextOp := rfl

/-! `State.putMig`: Put a page migration (07 R233). -/

@[simp] theorem State.mem_putMig (s : State) (g : Nat) (m : Migration) : (s.putMig g m).mem = s.mem := rfl
@[simp] theorem State.tags_putMig (s : State) (g : Nat) (m : Migration) : (s.putMig g m).tags = s.tags := rfl
@[simp] theorem State.bad_putMig (s : State) (g : Nat) (m : Migration) : (s.putMig g m).bad = s.bad := rfl
@[simp] theorem State.spadDirty_putMig (s : State) (g : Nat) (m : Migration) : (s.putMig g m).spadDirty = s.spadDirty := rfl
@[simp] theorem State.lineClass_putMig (s : State) (g : Nat) (m : Migration) : (s.putMig g m).lineClass = s.lineClass := rfl
@[simp] theorem State.lineIdent_putMig (s : State) (g : Nat) (m : Migration) : (s.putMig g m).lineIdent = s.lineIdent := rfl
@[simp] theorem State.l1Lines_putMig (s : State) (g : Nat) (m : Migration) : (s.putMig g m).l1Lines = s.l1Lines := rfl
@[simp] theorem State.cycle_putMig (s : State) (g : Nat) (m : Migration) : (s.putMig g m).cycle = s.cycle := rfl
@[simp] theorem State.pe_putMig (s : State) (g : Nat) (m : Migration) : (s.putMig g m).pe = s.pe := rfl
@[simp] theorem State.cores_putMig (s : State) (g : Nat) (m : Migration) : (s.putMig g m).cores = s.cores := rfl
@[simp] theorem State.teams_putMig (s : State) (g : Nat) (m : Migration) : (s.putMig g m).teams = s.teams := rfl
@[simp] theorem State.grids_putMig (s : State) (g : Nat) (m : Migration) : (s.putMig g m).grids = s.grids := rfl
@[simp] theorem State.nextGrid_putMig (s : State) (g : Nat) (m : Migration) : (s.putMig g m).nextGrid = s.nextGrid := rfl
@[simp] theorem State.queues_putMig (s : State) (g : Nat) (m : Migration) : (s.putMig g m).queues = s.queues := rfl
@[simp] theorem State.served_putMig (s : State) (g : Nat) (m : Migration) : (s.putMig g m).served = s.served := rfl
@[simp] theorem State.dieTlb_putMig (s : State) (g : Nat) (m : Migration) : (s.putMig g m).dieTlb = s.dieTlb := rfl
@[simp] theorem State.dieWalk_putMig (s : State) (g : Nat) (m : Migration) : (s.putMig g m).dieWalk = s.dieWalk := rfl
@[simp] theorem State.past_putMig (s : State) (g : Nat) (m : Migration) : (s.putMig g m).past = s.past := rfl
@[simp] theorem State.ops_putMig (s : State) (g : Nat) (m : Migration) : (s.putMig g m).ops = s.ops := rfl
@[simp] theorem State.pools_putMig (s : State) (g : Nat) (m : Migration) : (s.putMig g m).pools = s.pools := rfl
@[simp] theorem State.wc_putMig (s : State) (g : Nat) (m : Migration) : (s.putMig g m).wc = s.wc := rfl
@[simp] theorem State.heaps_putMig (s : State) (g : Nat) (m : Migration) : (s.putMig g m).heaps = s.heaps := rfl
@[simp] theorem State.released_putMig (s : State) (g : Nat) (m : Migration) : (s.putMig g m).released = s.released := rfl
@[simp] theorem State.narrow_putMig (s : State) (g : Nat) (m : Migration) : (s.putMig g m).narrow = s.narrow := rfl
@[simp] theorem State.maskHolds_putMig (s : State) (g : Nat) (m : Migration) : (s.putMig g m).maskHolds = s.maskHolds := rfl
@[simp] theorem State.migrations_putMig (s : State) (g : Nat) (m : Migration) : (s.putMig g m).migrations = tabPut s.migrations g m := rfl
@[simp] theorem State.faults_putMig (s : State) (g : Nat) (m : Migration) : (s.putMig g m).faults = s.faults := rfl
@[simp] theorem State.trapRecs_putMig (s : State) (g : Nat) (m : Migration) : (s.putMig g m).trapRecs = s.trapRecs := rfl
@[simp] theorem State.ports_putMig (s : State) (g : Nat) (m : Migration) : (s.putMig g m).ports = s.ports := rfl
@[simp] theorem State.fw_putMig (s : State) (g : Nat) (m : Migration) : (s.putMig g m).fw = s.fw := rfl
@[simp] theorem State.replies_putMig (s : State) (g : Nat) (m : Migration) : (s.putMig g m).replies = s.replies := rfl
@[simp] theorem State.irqs_putMig (s : State) (g : Nat) (m : Migration) : (s.putMig g m).irqs = s.irqs := rfl
@[simp] theorem State.sent_putMig (s : State) (g : Nat) (m : Migration) : (s.putMig g m).sent = s.sent := rfl
@[simp] theorem State.answers_putMig (s : State) (g : Nat) (m : Migration) : (s.putMig g m).answers = s.answers := rfl
@[simp] theorem State.inbox_putMig (s : State) (g : Nat) (m : Migration) : (s.putMig g m).inbox = s.inbox := rfl
@[simp] theorem State.hostReads_putMig (s : State) (g : Nat) (m : Migration) : (s.putMig g m).hostReads = s.hostReads := rfl
@[simp] theorem State.agenda_putMig (s : State) (g : Nat) (m : Migration) : (s.putMig g m).agenda = s.agenda := rfl
@[simp] theorem State.cur_putMig (s : State) (g : Nat) (m : Migration) : (s.putMig g m).cur = s.cur := rfl
@[simp] theorem State.unit_putMig (s : State) (g : Nat) (m : Migration) : (s.putMig g m).unit = s.unit := rfl
@[simp] theorem State.choices_putMig (s : State) (g : Nat) (m : Migration) : (s.putMig g m).choices = s.choices := rfl
@[simp] theorem State.fresh_putMig (s : State) (g : Nat) (m : Migration) : (s.putMig g m).fresh = s.fresh := rfl
@[simp] theorem State.nextOp_putMig (s : State) (g : Nat) (m : Migration) : (s.putMig g m).nextOp = s.nextOp := rfl

/-! `State.modPool`: Change a pool (12 R349). -/

@[simp] theorem State.mem_modPool (s : State) (id : Nat) (f : Pool → Pool) : (s.modPool id f).mem = s.mem := rfl
@[simp] theorem State.tags_modPool (s : State) (id : Nat) (f : Pool → Pool) : (s.modPool id f).tags = s.tags := rfl
@[simp] theorem State.bad_modPool (s : State) (id : Nat) (f : Pool → Pool) : (s.modPool id f).bad = s.bad := rfl
@[simp] theorem State.spadDirty_modPool (s : State) (id : Nat) (f : Pool → Pool) : (s.modPool id f).spadDirty = s.spadDirty := rfl
@[simp] theorem State.lineClass_modPool (s : State) (id : Nat) (f : Pool → Pool) : (s.modPool id f).lineClass = s.lineClass := rfl
@[simp] theorem State.lineIdent_modPool (s : State) (id : Nat) (f : Pool → Pool) : (s.modPool id f).lineIdent = s.lineIdent := rfl
@[simp] theorem State.l1Lines_modPool (s : State) (id : Nat) (f : Pool → Pool) : (s.modPool id f).l1Lines = s.l1Lines := rfl
@[simp] theorem State.cycle_modPool (s : State) (id : Nat) (f : Pool → Pool) : (s.modPool id f).cycle = s.cycle := rfl
@[simp] theorem State.pe_modPool (s : State) (id : Nat) (f : Pool → Pool) : (s.modPool id f).pe = s.pe := rfl
@[simp] theorem State.cores_modPool (s : State) (id : Nat) (f : Pool → Pool) : (s.modPool id f).cores = s.cores := rfl
@[simp] theorem State.teams_modPool (s : State) (id : Nat) (f : Pool → Pool) : (s.modPool id f).teams = s.teams := rfl
@[simp] theorem State.grids_modPool (s : State) (id : Nat) (f : Pool → Pool) : (s.modPool id f).grids = s.grids := rfl
@[simp] theorem State.nextGrid_modPool (s : State) (id : Nat) (f : Pool → Pool) : (s.modPool id f).nextGrid = s.nextGrid := rfl
@[simp] theorem State.queues_modPool (s : State) (id : Nat) (f : Pool → Pool) : (s.modPool id f).queues = s.queues := rfl
@[simp] theorem State.served_modPool (s : State) (id : Nat) (f : Pool → Pool) : (s.modPool id f).served = s.served := rfl
@[simp] theorem State.dieTlb_modPool (s : State) (id : Nat) (f : Pool → Pool) : (s.modPool id f).dieTlb = s.dieTlb := rfl
@[simp] theorem State.dieWalk_modPool (s : State) (id : Nat) (f : Pool → Pool) : (s.modPool id f).dieWalk = s.dieWalk := rfl
@[simp] theorem State.past_modPool (s : State) (id : Nat) (f : Pool → Pool) : (s.modPool id f).past = s.past := rfl
@[simp] theorem State.ops_modPool (s : State) (id : Nat) (f : Pool → Pool) : (s.modPool id f).ops = s.ops := rfl
@[simp] theorem State.pools_modPool (s : State) (id : Nat) (f : Pool → Pool) : (s.modPool id f).pools = tabMod s.pools id f := rfl
@[simp] theorem State.wc_modPool (s : State) (id : Nat) (f : Pool → Pool) : (s.modPool id f).wc = s.wc := rfl
@[simp] theorem State.heaps_modPool (s : State) (id : Nat) (f : Pool → Pool) : (s.modPool id f).heaps = s.heaps := rfl
@[simp] theorem State.released_modPool (s : State) (id : Nat) (f : Pool → Pool) : (s.modPool id f).released = s.released := rfl
@[simp] theorem State.narrow_modPool (s : State) (id : Nat) (f : Pool → Pool) : (s.modPool id f).narrow = s.narrow := rfl
@[simp] theorem State.maskHolds_modPool (s : State) (id : Nat) (f : Pool → Pool) : (s.modPool id f).maskHolds = s.maskHolds := rfl
@[simp] theorem State.migrations_modPool (s : State) (id : Nat) (f : Pool → Pool) : (s.modPool id f).migrations = s.migrations := rfl
@[simp] theorem State.faults_modPool (s : State) (id : Nat) (f : Pool → Pool) : (s.modPool id f).faults = s.faults := rfl
@[simp] theorem State.trapRecs_modPool (s : State) (id : Nat) (f : Pool → Pool) : (s.modPool id f).trapRecs = s.trapRecs := rfl
@[simp] theorem State.ports_modPool (s : State) (id : Nat) (f : Pool → Pool) : (s.modPool id f).ports = s.ports := rfl
@[simp] theorem State.fw_modPool (s : State) (id : Nat) (f : Pool → Pool) : (s.modPool id f).fw = s.fw := rfl
@[simp] theorem State.replies_modPool (s : State) (id : Nat) (f : Pool → Pool) : (s.modPool id f).replies = s.replies := rfl
@[simp] theorem State.irqs_modPool (s : State) (id : Nat) (f : Pool → Pool) : (s.modPool id f).irqs = s.irqs := rfl
@[simp] theorem State.sent_modPool (s : State) (id : Nat) (f : Pool → Pool) : (s.modPool id f).sent = s.sent := rfl
@[simp] theorem State.answers_modPool (s : State) (id : Nat) (f : Pool → Pool) : (s.modPool id f).answers = s.answers := rfl
@[simp] theorem State.inbox_modPool (s : State) (id : Nat) (f : Pool → Pool) : (s.modPool id f).inbox = s.inbox := rfl
@[simp] theorem State.hostReads_modPool (s : State) (id : Nat) (f : Pool → Pool) : (s.modPool id f).hostReads = s.hostReads := rfl
@[simp] theorem State.agenda_modPool (s : State) (id : Nat) (f : Pool → Pool) : (s.modPool id f).agenda = s.agenda := rfl
@[simp] theorem State.cur_modPool (s : State) (id : Nat) (f : Pool → Pool) : (s.modPool id f).cur = s.cur := rfl
@[simp] theorem State.unit_modPool (s : State) (id : Nat) (f : Pool → Pool) : (s.modPool id f).unit = s.unit := rfl
@[simp] theorem State.choices_modPool (s : State) (id : Nat) (f : Pool → Pool) : (s.modPool id f).choices = s.choices := rfl
@[simp] theorem State.fresh_modPool (s : State) (id : Nat) (f : Pool → Pool) : (s.modPool id f).fresh = s.fresh := rfl
@[simp] theorem State.nextOp_modPool (s : State) (id : Nat) (f : Pool → Pool) : (s.modPool id f).nextOp = s.nextOp := rfl

/-! `State.modFw`: Change the firmware's state (17). -/

@[simp] theorem State.mem_modFw (s : State) (f : Firmware → Firmware) : (s.modFw f).mem = s.mem := rfl
@[simp] theorem State.tags_modFw (s : State) (f : Firmware → Firmware) : (s.modFw f).tags = s.tags := rfl
@[simp] theorem State.bad_modFw (s : State) (f : Firmware → Firmware) : (s.modFw f).bad = s.bad := rfl
@[simp] theorem State.spadDirty_modFw (s : State) (f : Firmware → Firmware) : (s.modFw f).spadDirty = s.spadDirty := rfl
@[simp] theorem State.lineClass_modFw (s : State) (f : Firmware → Firmware) : (s.modFw f).lineClass = s.lineClass := rfl
@[simp] theorem State.lineIdent_modFw (s : State) (f : Firmware → Firmware) : (s.modFw f).lineIdent = s.lineIdent := rfl
@[simp] theorem State.l1Lines_modFw (s : State) (f : Firmware → Firmware) : (s.modFw f).l1Lines = s.l1Lines := rfl
@[simp] theorem State.cycle_modFw (s : State) (f : Firmware → Firmware) : (s.modFw f).cycle = s.cycle := rfl
@[simp] theorem State.pe_modFw (s : State) (f : Firmware → Firmware) : (s.modFw f).pe = s.pe := rfl
@[simp] theorem State.cores_modFw (s : State) (f : Firmware → Firmware) : (s.modFw f).cores = s.cores := rfl
@[simp] theorem State.teams_modFw (s : State) (f : Firmware → Firmware) : (s.modFw f).teams = s.teams := rfl
@[simp] theorem State.grids_modFw (s : State) (f : Firmware → Firmware) : (s.modFw f).grids = s.grids := rfl
@[simp] theorem State.nextGrid_modFw (s : State) (f : Firmware → Firmware) : (s.modFw f).nextGrid = s.nextGrid := rfl
@[simp] theorem State.queues_modFw (s : State) (f : Firmware → Firmware) : (s.modFw f).queues = s.queues := rfl
@[simp] theorem State.served_modFw (s : State) (f : Firmware → Firmware) : (s.modFw f).served = s.served := rfl
@[simp] theorem State.dieTlb_modFw (s : State) (f : Firmware → Firmware) : (s.modFw f).dieTlb = s.dieTlb := rfl
@[simp] theorem State.dieWalk_modFw (s : State) (f : Firmware → Firmware) : (s.modFw f).dieWalk = s.dieWalk := rfl
@[simp] theorem State.past_modFw (s : State) (f : Firmware → Firmware) : (s.modFw f).past = s.past := rfl
@[simp] theorem State.ops_modFw (s : State) (f : Firmware → Firmware) : (s.modFw f).ops = s.ops := rfl
@[simp] theorem State.pools_modFw (s : State) (f : Firmware → Firmware) : (s.modFw f).pools = s.pools := rfl
@[simp] theorem State.wc_modFw (s : State) (f : Firmware → Firmware) : (s.modFw f).wc = s.wc := rfl
@[simp] theorem State.heaps_modFw (s : State) (f : Firmware → Firmware) : (s.modFw f).heaps = s.heaps := rfl
@[simp] theorem State.released_modFw (s : State) (f : Firmware → Firmware) : (s.modFw f).released = s.released := rfl
@[simp] theorem State.narrow_modFw (s : State) (f : Firmware → Firmware) : (s.modFw f).narrow = s.narrow := rfl
@[simp] theorem State.maskHolds_modFw (s : State) (f : Firmware → Firmware) : (s.modFw f).maskHolds = s.maskHolds := rfl
@[simp] theorem State.migrations_modFw (s : State) (f : Firmware → Firmware) : (s.modFw f).migrations = s.migrations := rfl
@[simp] theorem State.faults_modFw (s : State) (f : Firmware → Firmware) : (s.modFw f).faults = s.faults := rfl
@[simp] theorem State.trapRecs_modFw (s : State) (f : Firmware → Firmware) : (s.modFw f).trapRecs = s.trapRecs := rfl
@[simp] theorem State.ports_modFw (s : State) (f : Firmware → Firmware) : (s.modFw f).ports = s.ports := rfl
@[simp] theorem State.fw_modFw (s : State) (f : Firmware → Firmware) : (s.modFw f).fw = f s.fw := rfl
@[simp] theorem State.replies_modFw (s : State) (f : Firmware → Firmware) : (s.modFw f).replies = s.replies := rfl
@[simp] theorem State.irqs_modFw (s : State) (f : Firmware → Firmware) : (s.modFw f).irqs = s.irqs := rfl
@[simp] theorem State.sent_modFw (s : State) (f : Firmware → Firmware) : (s.modFw f).sent = s.sent := rfl
@[simp] theorem State.answers_modFw (s : State) (f : Firmware → Firmware) : (s.modFw f).answers = s.answers := rfl
@[simp] theorem State.inbox_modFw (s : State) (f : Firmware → Firmware) : (s.modFw f).inbox = s.inbox := rfl
@[simp] theorem State.hostReads_modFw (s : State) (f : Firmware → Firmware) : (s.modFw f).hostReads = s.hostReads := rfl
@[simp] theorem State.agenda_modFw (s : State) (f : Firmware → Firmware) : (s.modFw f).agenda = s.agenda := rfl
@[simp] theorem State.cur_modFw (s : State) (f : Firmware → Firmware) : (s.modFw f).cur = s.cur := rfl
@[simp] theorem State.unit_modFw (s : State) (f : Firmware → Firmware) : (s.modFw f).unit = s.unit := rfl
@[simp] theorem State.choices_modFw (s : State) (f : Firmware → Firmware) : (s.modFw f).choices = s.choices := rfl
@[simp] theorem State.fresh_modFw (s : State) (f : Firmware → Firmware) : (s.modFw f).fresh = s.fresh := rfl
@[simp] theorem State.nextOp_modFw (s : State) (f : Firmware → Firmware) : (s.modFw f).nextOp = s.nextOp := rfl

/-! `State.named`: Take a name. -/

@[simp] theorem State.mem_named (s : State) : (s.named).mem = s.mem := rfl
@[simp] theorem State.tags_named (s : State) : (s.named).tags = s.tags := rfl
@[simp] theorem State.bad_named (s : State) : (s.named).bad = s.bad := rfl
@[simp] theorem State.spadDirty_named (s : State) : (s.named).spadDirty = s.spadDirty := rfl
@[simp] theorem State.lineClass_named (s : State) : (s.named).lineClass = s.lineClass := rfl
@[simp] theorem State.lineIdent_named (s : State) : (s.named).lineIdent = s.lineIdent := rfl
@[simp] theorem State.l1Lines_named (s : State) : (s.named).l1Lines = s.l1Lines := rfl
@[simp] theorem State.cycle_named (s : State) : (s.named).cycle = s.cycle := rfl
@[simp] theorem State.pe_named (s : State) : (s.named).pe = s.pe := rfl
@[simp] theorem State.cores_named (s : State) : (s.named).cores = s.cores := rfl
@[simp] theorem State.teams_named (s : State) : (s.named).teams = s.teams := rfl
@[simp] theorem State.grids_named (s : State) : (s.named).grids = s.grids := rfl
@[simp] theorem State.nextGrid_named (s : State) : (s.named).nextGrid = s.nextGrid := rfl
@[simp] theorem State.queues_named (s : State) : (s.named).queues = s.queues := rfl
@[simp] theorem State.served_named (s : State) : (s.named).served = s.served := rfl
@[simp] theorem State.dieTlb_named (s : State) : (s.named).dieTlb = s.dieTlb := rfl
@[simp] theorem State.dieWalk_named (s : State) : (s.named).dieWalk = s.dieWalk := rfl
@[simp] theorem State.past_named (s : State) : (s.named).past = s.past := rfl
@[simp] theorem State.ops_named (s : State) : (s.named).ops = s.ops := rfl
@[simp] theorem State.pools_named (s : State) : (s.named).pools = s.pools := rfl
@[simp] theorem State.wc_named (s : State) : (s.named).wc = s.wc := rfl
@[simp] theorem State.heaps_named (s : State) : (s.named).heaps = s.heaps := rfl
@[simp] theorem State.released_named (s : State) : (s.named).released = s.released := rfl
@[simp] theorem State.narrow_named (s : State) : (s.named).narrow = s.narrow := rfl
@[simp] theorem State.maskHolds_named (s : State) : (s.named).maskHolds = s.maskHolds := rfl
@[simp] theorem State.migrations_named (s : State) : (s.named).migrations = s.migrations := rfl
@[simp] theorem State.faults_named (s : State) : (s.named).faults = s.faults := rfl
@[simp] theorem State.trapRecs_named (s : State) : (s.named).trapRecs = s.trapRecs := rfl
@[simp] theorem State.ports_named (s : State) : (s.named).ports = s.ports := rfl
@[simp] theorem State.fw_named (s : State) : (s.named).fw = s.fw := rfl
@[simp] theorem State.replies_named (s : State) : (s.named).replies = s.replies := rfl
@[simp] theorem State.irqs_named (s : State) : (s.named).irqs = s.irqs := rfl
@[simp] theorem State.sent_named (s : State) : (s.named).sent = s.sent := rfl
@[simp] theorem State.answers_named (s : State) : (s.named).answers = s.answers := rfl
@[simp] theorem State.inbox_named (s : State) : (s.named).inbox = s.inbox := rfl
@[simp] theorem State.hostReads_named (s : State) : (s.named).hostReads = s.hostReads := rfl
@[simp] theorem State.agenda_named (s : State) : (s.named).agenda = s.agenda := rfl
@[simp] theorem State.cur_named (s : State) : (s.named).cur = s.cur := rfl
@[simp] theorem State.unit_named (s : State) : (s.named).unit = s.unit := rfl
@[simp] theorem State.choices_named (s : State) : (s.named).choices = s.choices := rfl
@[simp] theorem State.fresh_named (s : State) : (s.named).fresh = s.fresh := rfl
@[simp] theorem State.nextOp_named (s : State) : (s.named).nextOp = s.nextOp + 1 := rfl

/-! `State.chosen`: Take a free choice. -/

@[simp] theorem State.mem_chosen (s : State) : (s.chosen).mem = s.mem := rfl
@[simp] theorem State.tags_chosen (s : State) : (s.chosen).tags = s.tags := rfl
@[simp] theorem State.bad_chosen (s : State) : (s.chosen).bad = s.bad := rfl
@[simp] theorem State.spadDirty_chosen (s : State) : (s.chosen).spadDirty = s.spadDirty := rfl
@[simp] theorem State.lineClass_chosen (s : State) : (s.chosen).lineClass = s.lineClass := rfl
@[simp] theorem State.lineIdent_chosen (s : State) : (s.chosen).lineIdent = s.lineIdent := rfl
@[simp] theorem State.l1Lines_chosen (s : State) : (s.chosen).l1Lines = s.l1Lines := rfl
@[simp] theorem State.cycle_chosen (s : State) : (s.chosen).cycle = s.cycle := rfl
@[simp] theorem State.pe_chosen (s : State) : (s.chosen).pe = s.pe := rfl
@[simp] theorem State.cores_chosen (s : State) : (s.chosen).cores = s.cores := rfl
@[simp] theorem State.teams_chosen (s : State) : (s.chosen).teams = s.teams := rfl
@[simp] theorem State.grids_chosen (s : State) : (s.chosen).grids = s.grids := rfl
@[simp] theorem State.nextGrid_chosen (s : State) : (s.chosen).nextGrid = s.nextGrid := rfl
@[simp] theorem State.queues_chosen (s : State) : (s.chosen).queues = s.queues := rfl
@[simp] theorem State.served_chosen (s : State) : (s.chosen).served = s.served := rfl
@[simp] theorem State.dieTlb_chosen (s : State) : (s.chosen).dieTlb = s.dieTlb := rfl
@[simp] theorem State.dieWalk_chosen (s : State) : (s.chosen).dieWalk = s.dieWalk := rfl
@[simp] theorem State.past_chosen (s : State) : (s.chosen).past = s.past := rfl
@[simp] theorem State.ops_chosen (s : State) : (s.chosen).ops = s.ops := rfl
@[simp] theorem State.pools_chosen (s : State) : (s.chosen).pools = s.pools := rfl
@[simp] theorem State.wc_chosen (s : State) : (s.chosen).wc = s.wc := rfl
@[simp] theorem State.heaps_chosen (s : State) : (s.chosen).heaps = s.heaps := rfl
@[simp] theorem State.released_chosen (s : State) : (s.chosen).released = s.released := rfl
@[simp] theorem State.narrow_chosen (s : State) : (s.chosen).narrow = s.narrow := rfl
@[simp] theorem State.maskHolds_chosen (s : State) : (s.chosen).maskHolds = s.maskHolds := rfl
@[simp] theorem State.migrations_chosen (s : State) : (s.chosen).migrations = s.migrations := rfl
@[simp] theorem State.faults_chosen (s : State) : (s.chosen).faults = s.faults := rfl
@[simp] theorem State.trapRecs_chosen (s : State) : (s.chosen).trapRecs = s.trapRecs := rfl
@[simp] theorem State.ports_chosen (s : State) : (s.chosen).ports = s.ports := rfl
@[simp] theorem State.fw_chosen (s : State) : (s.chosen).fw = s.fw := rfl
@[simp] theorem State.replies_chosen (s : State) : (s.chosen).replies = s.replies := rfl
@[simp] theorem State.irqs_chosen (s : State) : (s.chosen).irqs = s.irqs := rfl
@[simp] theorem State.sent_chosen (s : State) : (s.chosen).sent = s.sent := rfl
@[simp] theorem State.answers_chosen (s : State) : (s.chosen).answers = s.answers := rfl
@[simp] theorem State.inbox_chosen (s : State) : (s.chosen).inbox = s.inbox := rfl
@[simp] theorem State.hostReads_chosen (s : State) : (s.chosen).hostReads = s.hostReads := rfl
@[simp] theorem State.agenda_chosen (s : State) : (s.chosen).agenda = s.agenda := rfl
@[simp] theorem State.cur_chosen (s : State) : (s.chosen).cur = s.cur := rfl
@[simp] theorem State.unit_chosen (s : State) : (s.chosen).unit = s.unit := rfl
@[simp] theorem State.choices_chosen (s : State) : (s.chosen).choices = s.choices.tail := rfl
@[simp] theorem State.fresh_chosen (s : State) : (s.chosen).fresh = s.fresh := rfl
@[simp] theorem State.nextOp_chosen (s : State) : (s.chosen).nextOp = s.nextOp := rfl

/-! `State.fill`: Fill lines with an identity and an access class (07 R236). -/

@[simp] theorem State.tags_fill (s : State) (l1 : Option Nat) (pa n ident cls : Nat) : (s.fill l1 pa n ident cls).tags = s.tags := rfl
@[simp] theorem State.bad_fill (s : State) (l1 : Option Nat) (pa n ident cls : Nat) : (s.fill l1 pa n ident cls).bad = s.bad := rfl
@[simp] theorem State.spadDirty_fill (s : State) (l1 : Option Nat) (pa n ident cls : Nat) : (s.fill l1 pa n ident cls).spadDirty = s.spadDirty := rfl
@[simp] theorem State.lineClass_fill (s : State) (l1 : Option Nat) (pa n ident cls : Nat) :
    (s.fill l1 pa n ident cls).lineClass = stampNew s.lineClass pa n cls := rfl
@[simp] theorem State.lineIdent_fill (s : State) (l1 : Option Nat) (pa n ident cls : Nat) :
    (s.fill l1 pa n ident cls).lineIdent = stampNew s.lineIdent pa n ident := rfl
@[simp] theorem State.l1Lines_fill (s : State) (l1 : Option Nat) (pa n ident cls : Nat) :
    (s.fill l1 pa n ident cls).l1Lines = (match l1 with | some k => stampL1 s.l1Lines k pa n ident cls | none => s.l1Lines) := rfl
@[simp] theorem State.cycle_fill (s : State) (l1 : Option Nat) (pa n ident cls : Nat) : (s.fill l1 pa n ident cls).cycle = s.cycle := rfl
@[simp] theorem State.pe_fill (s : State) (l1 : Option Nat) (pa n ident cls : Nat) : (s.fill l1 pa n ident cls).pe = s.pe := rfl
@[simp] theorem State.cores_fill (s : State) (l1 : Option Nat) (pa n ident cls : Nat) : (s.fill l1 pa n ident cls).cores = s.cores := rfl
@[simp] theorem State.teams_fill (s : State) (l1 : Option Nat) (pa n ident cls : Nat) : (s.fill l1 pa n ident cls).teams = s.teams := rfl
@[simp] theorem State.grids_fill (s : State) (l1 : Option Nat) (pa n ident cls : Nat) : (s.fill l1 pa n ident cls).grids = s.grids := rfl
@[simp] theorem State.nextGrid_fill (s : State) (l1 : Option Nat) (pa n ident cls : Nat) : (s.fill l1 pa n ident cls).nextGrid = s.nextGrid := rfl
@[simp] theorem State.queues_fill (s : State) (l1 : Option Nat) (pa n ident cls : Nat) : (s.fill l1 pa n ident cls).queues = s.queues := rfl
@[simp] theorem State.served_fill (s : State) (l1 : Option Nat) (pa n ident cls : Nat) : (s.fill l1 pa n ident cls).served = s.served := rfl
@[simp] theorem State.dieTlb_fill (s : State) (l1 : Option Nat) (pa n ident cls : Nat) : (s.fill l1 pa n ident cls).dieTlb = s.dieTlb := rfl
@[simp] theorem State.dieWalk_fill (s : State) (l1 : Option Nat) (pa n ident cls : Nat) : (s.fill l1 pa n ident cls).dieWalk = s.dieWalk := rfl
@[simp] theorem State.past_fill (s : State) (l1 : Option Nat) (pa n ident cls : Nat) : (s.fill l1 pa n ident cls).past = s.past := rfl
@[simp] theorem State.ops_fill (s : State) (l1 : Option Nat) (pa n ident cls : Nat) : (s.fill l1 pa n ident cls).ops = s.ops := rfl
@[simp] theorem State.pools_fill (s : State) (l1 : Option Nat) (pa n ident cls : Nat) : (s.fill l1 pa n ident cls).pools = s.pools := rfl
@[simp] theorem State.wc_fill (s : State) (l1 : Option Nat) (pa n ident cls : Nat) : (s.fill l1 pa n ident cls).wc = s.wc := rfl
@[simp] theorem State.heaps_fill (s : State) (l1 : Option Nat) (pa n ident cls : Nat) : (s.fill l1 pa n ident cls).heaps = s.heaps := rfl
@[simp] theorem State.released_fill (s : State) (l1 : Option Nat) (pa n ident cls : Nat) : (s.fill l1 pa n ident cls).released = s.released := rfl
@[simp] theorem State.narrow_fill (s : State) (l1 : Option Nat) (pa n ident cls : Nat) : (s.fill l1 pa n ident cls).narrow = s.narrow := rfl
@[simp] theorem State.maskHolds_fill (s : State) (l1 : Option Nat) (pa n ident cls : Nat) : (s.fill l1 pa n ident cls).maskHolds = s.maskHolds := rfl
@[simp] theorem State.migrations_fill (s : State) (l1 : Option Nat) (pa n ident cls : Nat) : (s.fill l1 pa n ident cls).migrations = s.migrations := rfl
@[simp] theorem State.faults_fill (s : State) (l1 : Option Nat) (pa n ident cls : Nat) : (s.fill l1 pa n ident cls).faults = s.faults := rfl
@[simp] theorem State.trapRecs_fill (s : State) (l1 : Option Nat) (pa n ident cls : Nat) : (s.fill l1 pa n ident cls).trapRecs = s.trapRecs := rfl
@[simp] theorem State.ports_fill (s : State) (l1 : Option Nat) (pa n ident cls : Nat) : (s.fill l1 pa n ident cls).ports = s.ports := rfl
@[simp] theorem State.fw_fill (s : State) (l1 : Option Nat) (pa n ident cls : Nat) : (s.fill l1 pa n ident cls).fw = s.fw := rfl
@[simp] theorem State.replies_fill (s : State) (l1 : Option Nat) (pa n ident cls : Nat) : (s.fill l1 pa n ident cls).replies = s.replies := rfl
@[simp] theorem State.irqs_fill (s : State) (l1 : Option Nat) (pa n ident cls : Nat) : (s.fill l1 pa n ident cls).irqs = s.irqs := rfl
@[simp] theorem State.sent_fill (s : State) (l1 : Option Nat) (pa n ident cls : Nat) : (s.fill l1 pa n ident cls).sent = s.sent := rfl
@[simp] theorem State.answers_fill (s : State) (l1 : Option Nat) (pa n ident cls : Nat) : (s.fill l1 pa n ident cls).answers = s.answers := rfl
@[simp] theorem State.inbox_fill (s : State) (l1 : Option Nat) (pa n ident cls : Nat) : (s.fill l1 pa n ident cls).inbox = s.inbox := rfl
@[simp] theorem State.hostReads_fill (s : State) (l1 : Option Nat) (pa n ident cls : Nat) : (s.fill l1 pa n ident cls).hostReads = s.hostReads := rfl
@[simp] theorem State.agenda_fill (s : State) (l1 : Option Nat) (pa n ident cls : Nat) : (s.fill l1 pa n ident cls).agenda = s.agenda := rfl
@[simp] theorem State.cur_fill (s : State) (l1 : Option Nat) (pa n ident cls : Nat) : (s.fill l1 pa n ident cls).cur = s.cur := rfl
@[simp] theorem State.unit_fill (s : State) (l1 : Option Nat) (pa n ident cls : Nat) : (s.fill l1 pa n ident cls).unit = s.unit := rfl
@[simp] theorem State.choices_fill (s : State) (l1 : Option Nat) (pa n ident cls : Nat) : (s.fill l1 pa n ident cls).choices = s.choices := rfl
@[simp] theorem State.fresh_fill (s : State) (l1 : Option Nat) (pa n ident cls : Nat) : (s.fill l1 pa n ident cls).fresh = s.fresh := rfl
@[simp] theorem State.nextOp_fill (s : State) (l1 : Option Nat) (pa n ident cls : Nat) : (s.fill l1 pa n ident cls).nextOp = s.nextOp := rfl

/-! `State.touched`: The marks of a written range. -/

@[simp] theorem State.tags_touched (s : State) (pa n : Nat) : (s.touched pa n).tags = s.tags := rfl
@[simp] theorem State.lineClass_touched (s : State) (pa n : Nat) : (s.touched pa n).lineClass = s.lineClass := rfl
@[simp] theorem State.lineIdent_touched (s : State) (pa n : Nat) : (s.touched pa n).lineIdent = s.lineIdent := rfl
@[simp] theorem State.l1Lines_touched (s : State) (pa n : Nat) : (s.touched pa n).l1Lines =
    l1Without s.l1Lines pa n := rfl
@[simp] theorem State.cycle_touched (s : State) (pa n : Nat) : (s.touched pa n).cycle = s.cycle := rfl
@[simp] theorem State.pe_touched (s : State) (pa n : Nat) : (s.touched pa n).pe = s.pe := rfl
@[simp] theorem State.cores_touched (s : State) (pa n : Nat) : (s.touched pa n).cores = s.cores := rfl
@[simp] theorem State.teams_touched (s : State) (pa n : Nat) : (s.touched pa n).teams = s.teams := rfl
@[simp] theorem State.grids_touched (s : State) (pa n : Nat) : (s.touched pa n).grids = s.grids := rfl
@[simp] theorem State.nextGrid_touched (s : State) (pa n : Nat) : (s.touched pa n).nextGrid = s.nextGrid := rfl
@[simp] theorem State.queues_touched (s : State) (pa n : Nat) : (s.touched pa n).queues = s.queues := rfl
@[simp] theorem State.served_touched (s : State) (pa n : Nat) : (s.touched pa n).served = s.served := rfl
@[simp] theorem State.dieTlb_touched (s : State) (pa n : Nat) : (s.touched pa n).dieTlb = s.dieTlb := rfl
@[simp] theorem State.dieWalk_touched (s : State) (pa n : Nat) : (s.touched pa n).dieWalk = s.dieWalk := rfl
@[simp] theorem State.past_touched (s : State) (pa n : Nat) : (s.touched pa n).past = s.past := rfl
@[simp] theorem State.ops_touched (s : State) (pa n : Nat) : (s.touched pa n).ops = s.ops := rfl
@[simp] theorem State.pools_touched (s : State) (pa n : Nat) : (s.touched pa n).pools = s.pools := rfl
@[simp] theorem State.wc_touched (s : State) (pa n : Nat) : (s.touched pa n).wc = s.wc := rfl
@[simp] theorem State.heaps_touched (s : State) (pa n : Nat) : (s.touched pa n).heaps = s.heaps := rfl
@[simp] theorem State.released_touched (s : State) (pa n : Nat) : (s.touched pa n).released = s.released := rfl
@[simp] theorem State.narrow_touched (s : State) (pa n : Nat) : (s.touched pa n).narrow = s.narrow := rfl
@[simp] theorem State.maskHolds_touched (s : State) (pa n : Nat) : (s.touched pa n).maskHolds = s.maskHolds := rfl
@[simp] theorem State.migrations_touched (s : State) (pa n : Nat) :
    (s.touched pa n).migrations = if n = 0 then s.migrations else markDirty s.migrations pa n := rfl
@[simp] theorem State.faults_touched (s : State) (pa n : Nat) : (s.touched pa n).faults = s.faults := rfl
@[simp] theorem State.trapRecs_touched (s : State) (pa n : Nat) : (s.touched pa n).trapRecs = s.trapRecs := rfl
@[simp] theorem State.ports_touched (s : State) (pa n : Nat) : (s.touched pa n).ports = s.ports := rfl
@[simp] theorem State.fw_touched (s : State) (pa n : Nat) : (s.touched pa n).fw = s.fw := rfl
@[simp] theorem State.replies_touched (s : State) (pa n : Nat) : (s.touched pa n).replies = s.replies := rfl
@[simp] theorem State.irqs_touched (s : State) (pa n : Nat) : (s.touched pa n).irqs = s.irqs := rfl
@[simp] theorem State.sent_touched (s : State) (pa n : Nat) : (s.touched pa n).sent = s.sent := rfl
@[simp] theorem State.answers_touched (s : State) (pa n : Nat) : (s.touched pa n).answers = s.answers := rfl
@[simp] theorem State.inbox_touched (s : State) (pa n : Nat) : (s.touched pa n).inbox = s.inbox := rfl
@[simp] theorem State.hostReads_touched (s : State) (pa n : Nat) : (s.touched pa n).hostReads = s.hostReads := rfl
@[simp] theorem State.agenda_touched (s : State) (pa n : Nat) : (s.touched pa n).agenda = s.agenda := rfl
@[simp] theorem State.cur_touched (s : State) (pa n : Nat) : (s.touched pa n).cur = s.cur := rfl
@[simp] theorem State.unit_touched (s : State) (pa n : Nat) : (s.touched pa n).unit = s.unit := rfl
@[simp] theorem State.choices_touched (s : State) (pa n : Nat) : (s.touched pa n).choices = s.choices := rfl
@[simp] theorem State.fresh_touched (s : State) (pa n : Nat) : (s.touched pa n).fresh = s.fresh := rfl
@[simp] theorem State.nextOp_touched (s : State) (pa n : Nat) : (s.touched pa n).nextOp = s.nextOp := rfl

/-! `State.write`: Write bytes. -/

@[simp] theorem State.tags_write (s : State) (pa : Nat) (bs : List Byte) : (s.write pa bs).tags = s.tags := rfl
@[simp] theorem State.bad_write (s : State) (pa : Nat) (bs : List Byte) : (s.write pa bs).bad = (s.touched pa bs.length).bad := rfl
@[simp] theorem State.spadDirty_write (s : State) (pa : Nat) (bs : List Byte) :
    (s.write pa bs).spadDirty = (s.touched pa bs.length).spadDirty := rfl
@[simp] theorem State.lineClass_write (s : State) (pa : Nat) (bs : List Byte) : (s.write pa bs).lineClass = s.lineClass := rfl
@[simp] theorem State.lineIdent_write (s : State) (pa : Nat) (bs : List Byte) : (s.write pa bs).lineIdent = s.lineIdent := rfl
@[simp] theorem State.l1Lines_write (s : State) (pa : Nat) (bs : List Byte) : (s.write pa bs).l1Lines =
    l1Without s.l1Lines pa bs.length := rfl
@[simp] theorem State.cycle_write (s : State) (pa : Nat) (bs : List Byte) : (s.write pa bs).cycle = s.cycle := rfl
@[simp] theorem State.pe_write (s : State) (pa : Nat) (bs : List Byte) : (s.write pa bs).pe = s.pe := rfl
@[simp] theorem State.cores_write (s : State) (pa : Nat) (bs : List Byte) : (s.write pa bs).cores = s.cores := rfl
@[simp] theorem State.teams_write (s : State) (pa : Nat) (bs : List Byte) : (s.write pa bs).teams = s.teams := rfl
@[simp] theorem State.grids_write (s : State) (pa : Nat) (bs : List Byte) : (s.write pa bs).grids = s.grids := rfl
@[simp] theorem State.nextGrid_write (s : State) (pa : Nat) (bs : List Byte) : (s.write pa bs).nextGrid = s.nextGrid := rfl
@[simp] theorem State.queues_write (s : State) (pa : Nat) (bs : List Byte) : (s.write pa bs).queues = s.queues := rfl
@[simp] theorem State.served_write (s : State) (pa : Nat) (bs : List Byte) : (s.write pa bs).served = s.served := rfl
@[simp] theorem State.dieTlb_write (s : State) (pa : Nat) (bs : List Byte) : (s.write pa bs).dieTlb = s.dieTlb := rfl
@[simp] theorem State.dieWalk_write (s : State) (pa : Nat) (bs : List Byte) : (s.write pa bs).dieWalk = s.dieWalk := rfl
@[simp] theorem State.past_write (s : State) (pa : Nat) (bs : List Byte) : (s.write pa bs).past = s.past := rfl
@[simp] theorem State.ops_write (s : State) (pa : Nat) (bs : List Byte) : (s.write pa bs).ops = s.ops := rfl
@[simp] theorem State.pools_write (s : State) (pa : Nat) (bs : List Byte) : (s.write pa bs).pools = s.pools := rfl
@[simp] theorem State.wc_write (s : State) (pa : Nat) (bs : List Byte) : (s.write pa bs).wc = s.wc := rfl
@[simp] theorem State.heaps_write (s : State) (pa : Nat) (bs : List Byte) : (s.write pa bs).heaps = s.heaps := rfl
@[simp] theorem State.released_write (s : State) (pa : Nat) (bs : List Byte) : (s.write pa bs).released = s.released := rfl
@[simp] theorem State.narrow_write (s : State) (pa : Nat) (bs : List Byte) : (s.write pa bs).narrow = s.narrow := rfl
@[simp] theorem State.maskHolds_write (s : State) (pa : Nat) (bs : List Byte) : (s.write pa bs).maskHolds = s.maskHolds := rfl
@[simp] theorem State.migrations_write (s : State) (pa : Nat) (bs : List Byte) :
    (s.write pa bs).migrations = (s.touched pa bs.length).migrations := rfl
@[simp] theorem State.faults_write (s : State) (pa : Nat) (bs : List Byte) : (s.write pa bs).faults = s.faults := rfl
@[simp] theorem State.trapRecs_write (s : State) (pa : Nat) (bs : List Byte) : (s.write pa bs).trapRecs = s.trapRecs := rfl
@[simp] theorem State.ports_write (s : State) (pa : Nat) (bs : List Byte) : (s.write pa bs).ports = s.ports := rfl
@[simp] theorem State.fw_write (s : State) (pa : Nat) (bs : List Byte) : (s.write pa bs).fw = s.fw := rfl
@[simp] theorem State.replies_write (s : State) (pa : Nat) (bs : List Byte) : (s.write pa bs).replies = s.replies := rfl
@[simp] theorem State.irqs_write (s : State) (pa : Nat) (bs : List Byte) : (s.write pa bs).irqs = s.irqs := rfl
@[simp] theorem State.sent_write (s : State) (pa : Nat) (bs : List Byte) : (s.write pa bs).sent = s.sent := rfl
@[simp] theorem State.answers_write (s : State) (pa : Nat) (bs : List Byte) : (s.write pa bs).answers = s.answers := rfl
@[simp] theorem State.inbox_write (s : State) (pa : Nat) (bs : List Byte) : (s.write pa bs).inbox = s.inbox := rfl
@[simp] theorem State.hostReads_write (s : State) (pa : Nat) (bs : List Byte) : (s.write pa bs).hostReads = s.hostReads := rfl
@[simp] theorem State.agenda_write (s : State) (pa : Nat) (bs : List Byte) : (s.write pa bs).agenda = s.agenda := rfl
@[simp] theorem State.cur_write (s : State) (pa : Nat) (bs : List Byte) : (s.write pa bs).cur = s.cur := rfl
@[simp] theorem State.unit_write (s : State) (pa : Nat) (bs : List Byte) : (s.write pa bs).unit = s.unit := rfl
@[simp] theorem State.choices_write (s : State) (pa : Nat) (bs : List Byte) : (s.write pa bs).choices = s.choices := rfl
@[simp] theorem State.fresh_write (s : State) (pa : Nat) (bs : List Byte) : (s.write pa bs).fresh = s.fresh := rfl
@[simp] theorem State.nextOp_write (s : State) (pa : Nat) (bs : List Byte) : (s.write pa bs).nextOp = s.nextOp := rfl

/-! `State.writeNum`: Write a little-endian number (00 R8). -/

@[simp] theorem State.mem_writeNum (s : State) (pa n v : Nat) : (s.writeNum pa n v).mem = memSetMany s.mem pa (bytesOf n v) := rfl
@[simp] theorem State.tags_writeNum (s : State) (pa n v : Nat) : (s.writeNum pa n v).tags = s.tags := rfl
@[simp] theorem State.bad_writeNum (s : State) (pa n v : Nat) : (s.writeNum pa n v).bad = (s.touched pa (bytesOf n v).length).bad := rfl
@[simp] theorem State.spadDirty_writeNum (s : State) (pa n v : Nat) :
    (s.writeNum pa n v).spadDirty = (s.touched pa (bytesOf n v).length).spadDirty := rfl
@[simp] theorem State.lineClass_writeNum (s : State) (pa n v : Nat) : (s.writeNum pa n v).lineClass = s.lineClass := rfl
@[simp] theorem State.lineIdent_writeNum (s : State) (pa n v : Nat) : (s.writeNum pa n v).lineIdent = s.lineIdent := rfl
@[simp] theorem State.l1Lines_writeNum (s : State) (pa n v : Nat) : (s.writeNum pa n v).l1Lines =
    l1Without s.l1Lines pa (bytesOf n v).length := rfl
@[simp] theorem State.cycle_writeNum (s : State) (pa n v : Nat) : (s.writeNum pa n v).cycle = s.cycle := rfl
@[simp] theorem State.pe_writeNum (s : State) (pa n v : Nat) : (s.writeNum pa n v).pe = s.pe := rfl
@[simp] theorem State.cores_writeNum (s : State) (pa n v : Nat) : (s.writeNum pa n v).cores = s.cores := rfl
@[simp] theorem State.teams_writeNum (s : State) (pa n v : Nat) : (s.writeNum pa n v).teams = s.teams := rfl
@[simp] theorem State.grids_writeNum (s : State) (pa n v : Nat) : (s.writeNum pa n v).grids = s.grids := rfl
@[simp] theorem State.nextGrid_writeNum (s : State) (pa n v : Nat) : (s.writeNum pa n v).nextGrid = s.nextGrid := rfl
@[simp] theorem State.queues_writeNum (s : State) (pa n v : Nat) : (s.writeNum pa n v).queues = s.queues := rfl
@[simp] theorem State.served_writeNum (s : State) (pa n v : Nat) : (s.writeNum pa n v).served = s.served := rfl
@[simp] theorem State.dieTlb_writeNum (s : State) (pa n v : Nat) : (s.writeNum pa n v).dieTlb = s.dieTlb := rfl
@[simp] theorem State.dieWalk_writeNum (s : State) (pa n v : Nat) : (s.writeNum pa n v).dieWalk = s.dieWalk := rfl
@[simp] theorem State.past_writeNum (s : State) (pa n v : Nat) : (s.writeNum pa n v).past = s.past := rfl
@[simp] theorem State.ops_writeNum (s : State) (pa n v : Nat) : (s.writeNum pa n v).ops = s.ops := rfl
@[simp] theorem State.pools_writeNum (s : State) (pa n v : Nat) : (s.writeNum pa n v).pools = s.pools := rfl
@[simp] theorem State.wc_writeNum (s : State) (pa n v : Nat) : (s.writeNum pa n v).wc = s.wc := rfl
@[simp] theorem State.heaps_writeNum (s : State) (pa n v : Nat) : (s.writeNum pa n v).heaps = s.heaps := rfl
@[simp] theorem State.released_writeNum (s : State) (pa n v : Nat) : (s.writeNum pa n v).released = s.released := rfl
@[simp] theorem State.narrow_writeNum (s : State) (pa n v : Nat) : (s.writeNum pa n v).narrow = s.narrow := rfl
@[simp] theorem State.maskHolds_writeNum (s : State) (pa n v : Nat) : (s.writeNum pa n v).maskHolds = s.maskHolds := rfl
@[simp] theorem State.migrations_writeNum (s : State) (pa n v : Nat) :
    (s.writeNum pa n v).migrations = (s.touched pa (bytesOf n v).length).migrations := rfl
@[simp] theorem State.faults_writeNum (s : State) (pa n v : Nat) : (s.writeNum pa n v).faults = s.faults := rfl
@[simp] theorem State.trapRecs_writeNum (s : State) (pa n v : Nat) : (s.writeNum pa n v).trapRecs = s.trapRecs := rfl
@[simp] theorem State.ports_writeNum (s : State) (pa n v : Nat) : (s.writeNum pa n v).ports = s.ports := rfl
@[simp] theorem State.fw_writeNum (s : State) (pa n v : Nat) : (s.writeNum pa n v).fw = s.fw := rfl
@[simp] theorem State.replies_writeNum (s : State) (pa n v : Nat) : (s.writeNum pa n v).replies = s.replies := rfl
@[simp] theorem State.irqs_writeNum (s : State) (pa n v : Nat) : (s.writeNum pa n v).irqs = s.irqs := rfl
@[simp] theorem State.sent_writeNum (s : State) (pa n v : Nat) : (s.writeNum pa n v).sent = s.sent := rfl
@[simp] theorem State.answers_writeNum (s : State) (pa n v : Nat) : (s.writeNum pa n v).answers = s.answers := rfl
@[simp] theorem State.inbox_writeNum (s : State) (pa n v : Nat) : (s.writeNum pa n v).inbox = s.inbox := rfl
@[simp] theorem State.hostReads_writeNum (s : State) (pa n v : Nat) : (s.writeNum pa n v).hostReads = s.hostReads := rfl
@[simp] theorem State.agenda_writeNum (s : State) (pa n v : Nat) : (s.writeNum pa n v).agenda = s.agenda := rfl
@[simp] theorem State.cur_writeNum (s : State) (pa n v : Nat) : (s.writeNum pa n v).cur = s.cur := rfl
@[simp] theorem State.unit_writeNum (s : State) (pa n v : Nat) : (s.writeNum pa n v).unit = s.unit := rfl
@[simp] theorem State.choices_writeNum (s : State) (pa n v : Nat) : (s.writeNum pa n v).choices = s.choices := rfl
@[simp] theorem State.fresh_writeNum (s : State) (pa n v : Nat) : (s.writeNum pa n v).fresh = s.fresh := rfl
@[simp] theorem State.nextOp_writeNum (s : State) (pa n v : Nat) : (s.writeNum pa n v).nextOp = s.nextOp := rfl

/-! `State.zero`: Zero a range. -/

@[simp] theorem State.tags_zero (s : State) (pa n : Nat) : (s.zero pa n).tags = s.tags := rfl
@[simp] theorem State.bad_zero (s : State) (pa n : Nat) : (s.zero pa n).bad = (s.touched pa n).bad := rfl
@[simp] theorem State.spadDirty_zero (s : State) (pa n : Nat) : (s.zero pa n).spadDirty = (s.touched pa n).spadDirty := rfl
@[simp] theorem State.lineClass_zero (s : State) (pa n : Nat) : (s.zero pa n).lineClass = s.lineClass := rfl
@[simp] theorem State.lineIdent_zero (s : State) (pa n : Nat) : (s.zero pa n).lineIdent = s.lineIdent := rfl
@[simp] theorem State.l1Lines_zero (s : State) (pa n : Nat) : (s.zero pa n).l1Lines =
    l1Without s.l1Lines pa n := rfl
@[simp] theorem State.cycle_zero (s : State) (pa n : Nat) : (s.zero pa n).cycle = s.cycle := rfl
@[simp] theorem State.pe_zero (s : State) (pa n : Nat) : (s.zero pa n).pe = s.pe := rfl
@[simp] theorem State.cores_zero (s : State) (pa n : Nat) : (s.zero pa n).cores = s.cores := rfl
@[simp] theorem State.teams_zero (s : State) (pa n : Nat) : (s.zero pa n).teams = s.teams := rfl
@[simp] theorem State.grids_zero (s : State) (pa n : Nat) : (s.zero pa n).grids = s.grids := rfl
@[simp] theorem State.nextGrid_zero (s : State) (pa n : Nat) : (s.zero pa n).nextGrid = s.nextGrid := rfl
@[simp] theorem State.queues_zero (s : State) (pa n : Nat) : (s.zero pa n).queues = s.queues := rfl
@[simp] theorem State.served_zero (s : State) (pa n : Nat) : (s.zero pa n).served = s.served := rfl
@[simp] theorem State.dieTlb_zero (s : State) (pa n : Nat) : (s.zero pa n).dieTlb = s.dieTlb := rfl
@[simp] theorem State.dieWalk_zero (s : State) (pa n : Nat) : (s.zero pa n).dieWalk = s.dieWalk := rfl
@[simp] theorem State.past_zero (s : State) (pa n : Nat) : (s.zero pa n).past = s.past := rfl
@[simp] theorem State.ops_zero (s : State) (pa n : Nat) : (s.zero pa n).ops = s.ops := rfl
@[simp] theorem State.pools_zero (s : State) (pa n : Nat) : (s.zero pa n).pools = s.pools := rfl
@[simp] theorem State.wc_zero (s : State) (pa n : Nat) : (s.zero pa n).wc = s.wc := rfl
@[simp] theorem State.heaps_zero (s : State) (pa n : Nat) : (s.zero pa n).heaps = s.heaps := rfl
@[simp] theorem State.released_zero (s : State) (pa n : Nat) : (s.zero pa n).released = s.released := rfl
@[simp] theorem State.narrow_zero (s : State) (pa n : Nat) : (s.zero pa n).narrow = s.narrow := rfl
@[simp] theorem State.maskHolds_zero (s : State) (pa n : Nat) : (s.zero pa n).maskHolds = s.maskHolds := rfl
@[simp] theorem State.migrations_zero (s : State) (pa n : Nat) : (s.zero pa n).migrations = (s.touched pa n).migrations := rfl
@[simp] theorem State.faults_zero (s : State) (pa n : Nat) : (s.zero pa n).faults = s.faults := rfl
@[simp] theorem State.trapRecs_zero (s : State) (pa n : Nat) : (s.zero pa n).trapRecs = s.trapRecs := rfl
@[simp] theorem State.ports_zero (s : State) (pa n : Nat) : (s.zero pa n).ports = s.ports := rfl
@[simp] theorem State.fw_zero (s : State) (pa n : Nat) : (s.zero pa n).fw = s.fw := rfl
@[simp] theorem State.replies_zero (s : State) (pa n : Nat) : (s.zero pa n).replies = s.replies := rfl
@[simp] theorem State.irqs_zero (s : State) (pa n : Nat) : (s.zero pa n).irqs = s.irqs := rfl
@[simp] theorem State.sent_zero (s : State) (pa n : Nat) : (s.zero pa n).sent = s.sent := rfl
@[simp] theorem State.answers_zero (s : State) (pa n : Nat) : (s.zero pa n).answers = s.answers := rfl
@[simp] theorem State.inbox_zero (s : State) (pa n : Nat) : (s.zero pa n).inbox = s.inbox := rfl
@[simp] theorem State.hostReads_zero (s : State) (pa n : Nat) : (s.zero pa n).hostReads = s.hostReads := rfl
@[simp] theorem State.agenda_zero (s : State) (pa n : Nat) : (s.zero pa n).agenda = s.agenda := rfl
@[simp] theorem State.cur_zero (s : State) (pa n : Nat) : (s.zero pa n).cur = s.cur := rfl
@[simp] theorem State.unit_zero (s : State) (pa n : Nat) : (s.zero pa n).unit = s.unit := rfl
@[simp] theorem State.choices_zero (s : State) (pa n : Nat) : (s.zero pa n).choices = s.choices := rfl
@[simp] theorem State.fresh_zero (s : State) (pa n : Nat) : (s.zero pa n).fresh = s.fresh := rfl
@[simp] theorem State.nextOp_zero (s : State) (pa n : Nat) : (s.zero pa n).nextOp = s.nextOp := rfl

/-! `State.free`: Write bytes that the manual leaves open over a range. -/

@[simp] theorem State.tags_free (s : State) (pa n : Nat) : (s.free pa n).tags = s.tags := rfl
@[simp] theorem State.bad_free (s : State) (pa n : Nat) : (s.free pa n).bad = (s.touched pa n).bad := rfl
@[simp] theorem State.spadDirty_free (s : State) (pa n : Nat) : (s.free pa n).spadDirty = (s.touched pa n).spadDirty := rfl
@[simp] theorem State.lineClass_free (s : State) (pa n : Nat) : (s.free pa n).lineClass = s.lineClass := rfl
@[simp] theorem State.lineIdent_free (s : State) (pa n : Nat) : (s.free pa n).lineIdent = s.lineIdent := rfl
@[simp] theorem State.l1Lines_free (s : State) (pa n : Nat) : (s.free pa n).l1Lines =
    l1Without s.l1Lines pa n := rfl
@[simp] theorem State.cycle_free (s : State) (pa n : Nat) : (s.free pa n).cycle = s.cycle := rfl
@[simp] theorem State.pe_free (s : State) (pa n : Nat) : (s.free pa n).pe = s.pe := rfl
@[simp] theorem State.cores_free (s : State) (pa n : Nat) : (s.free pa n).cores = s.cores := rfl
@[simp] theorem State.teams_free (s : State) (pa n : Nat) : (s.free pa n).teams = s.teams := rfl
@[simp] theorem State.grids_free (s : State) (pa n : Nat) : (s.free pa n).grids = s.grids := rfl
@[simp] theorem State.nextGrid_free (s : State) (pa n : Nat) : (s.free pa n).nextGrid = s.nextGrid := rfl
@[simp] theorem State.queues_free (s : State) (pa n : Nat) : (s.free pa n).queues = s.queues := rfl
@[simp] theorem State.served_free (s : State) (pa n : Nat) : (s.free pa n).served = s.served := rfl
@[simp] theorem State.dieTlb_free (s : State) (pa n : Nat) : (s.free pa n).dieTlb = s.dieTlb := rfl
@[simp] theorem State.dieWalk_free (s : State) (pa n : Nat) : (s.free pa n).dieWalk = s.dieWalk := rfl
@[simp] theorem State.past_free (s : State) (pa n : Nat) : (s.free pa n).past = s.past := rfl
@[simp] theorem State.ops_free (s : State) (pa n : Nat) : (s.free pa n).ops = s.ops := rfl
@[simp] theorem State.pools_free (s : State) (pa n : Nat) : (s.free pa n).pools = s.pools := rfl
@[simp] theorem State.wc_free (s : State) (pa n : Nat) : (s.free pa n).wc = s.wc := rfl
@[simp] theorem State.heaps_free (s : State) (pa n : Nat) : (s.free pa n).heaps = s.heaps := rfl
@[simp] theorem State.released_free (s : State) (pa n : Nat) : (s.free pa n).released = s.released := rfl
@[simp] theorem State.narrow_free (s : State) (pa n : Nat) : (s.free pa n).narrow = s.narrow := rfl
@[simp] theorem State.maskHolds_free (s : State) (pa n : Nat) : (s.free pa n).maskHolds = s.maskHolds := rfl
@[simp] theorem State.migrations_free (s : State) (pa n : Nat) : (s.free pa n).migrations = (s.touched pa n).migrations := rfl
@[simp] theorem State.faults_free (s : State) (pa n : Nat) : (s.free pa n).faults = s.faults := rfl
@[simp] theorem State.trapRecs_free (s : State) (pa n : Nat) : (s.free pa n).trapRecs = s.trapRecs := rfl
@[simp] theorem State.ports_free (s : State) (pa n : Nat) : (s.free pa n).ports = s.ports := rfl
@[simp] theorem State.fw_free (s : State) (pa n : Nat) : (s.free pa n).fw = s.fw := rfl
@[simp] theorem State.replies_free (s : State) (pa n : Nat) : (s.free pa n).replies = s.replies := rfl
@[simp] theorem State.irqs_free (s : State) (pa n : Nat) : (s.free pa n).irqs = s.irqs := rfl
@[simp] theorem State.sent_free (s : State) (pa n : Nat) : (s.free pa n).sent = s.sent := rfl
@[simp] theorem State.answers_free (s : State) (pa n : Nat) : (s.free pa n).answers = s.answers := rfl
@[simp] theorem State.inbox_free (s : State) (pa n : Nat) : (s.free pa n).inbox = s.inbox := rfl
@[simp] theorem State.hostReads_free (s : State) (pa n : Nat) : (s.free pa n).hostReads = s.hostReads := rfl
@[simp] theorem State.agenda_free (s : State) (pa n : Nat) : (s.free pa n).agenda = s.agenda := rfl
@[simp] theorem State.cur_free (s : State) (pa n : Nat) : (s.free pa n).cur = s.cur := rfl
@[simp] theorem State.unit_free (s : State) (pa n : Nat) : (s.free pa n).unit = s.unit := rfl
@[simp] theorem State.choices_free (s : State) (pa n : Nat) : (s.free pa n).choices = s.choices := rfl
@[simp] theorem State.fresh_free (s : State) (pa n : Nat) : (s.free pa n).fresh = s.fresh + 1 := rfl
@[simp] theorem State.nextOp_free (s : State) (pa n : Nat) : (s.free pa n).nextOp = s.nextOp := rfl

/-! `State.putQueue`: Put a queue; its descriptor in memory follows (16 R446). -/

@[simp] theorem State.mem_putQueue (s : State) (n : Nat) (q : Queue) :
    (s.putQueue n q).mem = memSetMany s.mem q.at_ (bytesOf 256 (queueBits s q)) := by simp only [State.putQueue, State.mem_writeNum]
@[simp] theorem State.tags_putQueue (s : State) (n : Nat) (q : Queue) : (s.putQueue n q).tags = s.tags := by simp only [State.putQueue, State.tags_writeNum]
@[simp] theorem State.l1Lines_putQueue (s : State) (n : Nat) (q : Queue) :
    (s.putQueue n q).l1Lines = l1Without s.l1Lines q.at_ (bytesOf 256 (queueBits s q)).length := by simp only [State.putQueue, State.l1Lines_writeNum]
@[simp] theorem State.lineClass_putQueue (s : State) (n : Nat) (q : Queue) : (s.putQueue n q).lineClass = s.lineClass := by simp only [State.putQueue, State.lineClass_writeNum]
@[simp] theorem State.lineIdent_putQueue (s : State) (n : Nat) (q : Queue) : (s.putQueue n q).lineIdent = s.lineIdent := by simp only [State.putQueue, State.lineIdent_writeNum]
@[simp] theorem State.cycle_putQueue (s : State) (n : Nat) (q : Queue) : (s.putQueue n q).cycle = s.cycle := by simp only [State.putQueue, State.cycle_writeNum]
@[simp] theorem State.pe_putQueue (s : State) (n : Nat) (q : Queue) : (s.putQueue n q).pe = s.pe := by simp only [State.putQueue, State.pe_writeNum]
@[simp] theorem State.cores_putQueue (s : State) (n : Nat) (q : Queue) : (s.putQueue n q).cores = s.cores := by simp only [State.putQueue, State.cores_writeNum]
@[simp] theorem State.teams_putQueue (s : State) (n : Nat) (q : Queue) : (s.putQueue n q).teams = s.teams := by simp only [State.putQueue, State.teams_writeNum]
@[simp] theorem State.grids_putQueue (s : State) (n : Nat) (q : Queue) : (s.putQueue n q).grids = s.grids := by simp only [State.putQueue, State.grids_writeNum]
@[simp] theorem State.nextGrid_putQueue (s : State) (n : Nat) (q : Queue) : (s.putQueue n q).nextGrid = s.nextGrid := by simp only [State.putQueue, State.nextGrid_writeNum]
@[simp] theorem State.queues_putQueue (s : State) (n : Nat) (q : Queue) : (s.putQueue n q).queues = tabPut s.queues n q := by simp only [State.putQueue, State.queues_writeNum]
@[simp] theorem State.served_putQueue (s : State) (n : Nat) (q : Queue) : (s.putQueue n q).served = s.served := by simp only [State.putQueue, State.served_writeNum]
@[simp] theorem State.dieTlb_putQueue (s : State) (n : Nat) (q : Queue) : (s.putQueue n q).dieTlb = s.dieTlb := by simp only [State.putQueue, State.dieTlb_writeNum]
@[simp] theorem State.dieWalk_putQueue (s : State) (n : Nat) (q : Queue) : (s.putQueue n q).dieWalk = s.dieWalk := by simp only [State.putQueue, State.dieWalk_writeNum]
@[simp] theorem State.past_putQueue (s : State) (n : Nat) (q : Queue) : (s.putQueue n q).past = s.past := by simp only [State.putQueue, State.past_writeNum]
@[simp] theorem State.ops_putQueue (s : State) (n : Nat) (q : Queue) : (s.putQueue n q).ops = s.ops := by simp only [State.putQueue, State.ops_writeNum]
@[simp] theorem State.pools_putQueue (s : State) (n : Nat) (q : Queue) : (s.putQueue n q).pools = s.pools := by simp only [State.putQueue, State.pools_writeNum]
@[simp] theorem State.wc_putQueue (s : State) (n : Nat) (q : Queue) : (s.putQueue n q).wc = s.wc := by simp only [State.putQueue, State.wc_writeNum]
@[simp] theorem State.heaps_putQueue (s : State) (n : Nat) (q : Queue) : (s.putQueue n q).heaps = s.heaps := by simp only [State.putQueue, State.heaps_writeNum]
@[simp] theorem State.released_putQueue (s : State) (n : Nat) (q : Queue) : (s.putQueue n q).released = s.released := by simp only [State.putQueue, State.released_writeNum]
@[simp] theorem State.narrow_putQueue (s : State) (n : Nat) (q : Queue) : (s.putQueue n q).narrow = s.narrow := by simp only [State.putQueue, State.narrow_writeNum]
@[simp] theorem State.maskHolds_putQueue (s : State) (n : Nat) (q : Queue) : (s.putQueue n q).maskHolds = s.maskHolds := by simp only [State.putQueue, State.maskHolds_writeNum]
@[simp] theorem State.faults_putQueue (s : State) (n : Nat) (q : Queue) : (s.putQueue n q).faults = s.faults := by simp only [State.putQueue, State.faults_writeNum]
@[simp] theorem State.trapRecs_putQueue (s : State) (n : Nat) (q : Queue) : (s.putQueue n q).trapRecs = s.trapRecs := by simp only [State.putQueue, State.trapRecs_writeNum]
@[simp] theorem State.ports_putQueue (s : State) (n : Nat) (q : Queue) : (s.putQueue n q).ports = s.ports := by simp only [State.putQueue, State.ports_writeNum]
@[simp] theorem State.fw_putQueue (s : State) (n : Nat) (q : Queue) : (s.putQueue n q).fw = s.fw := by simp only [State.putQueue, State.fw_writeNum]
@[simp] theorem State.replies_putQueue (s : State) (n : Nat) (q : Queue) : (s.putQueue n q).replies = s.replies := by simp only [State.putQueue, State.replies_writeNum]
@[simp] theorem State.irqs_putQueue (s : State) (n : Nat) (q : Queue) : (s.putQueue n q).irqs = s.irqs := by simp only [State.putQueue, State.irqs_writeNum]
@[simp] theorem State.sent_putQueue (s : State) (n : Nat) (q : Queue) : (s.putQueue n q).sent = s.sent := by simp only [State.putQueue, State.sent_writeNum]
@[simp] theorem State.answers_putQueue (s : State) (n : Nat) (q : Queue) : (s.putQueue n q).answers = s.answers := by simp only [State.putQueue, State.answers_writeNum]
@[simp] theorem State.inbox_putQueue (s : State) (n : Nat) (q : Queue) : (s.putQueue n q).inbox = s.inbox := by simp only [State.putQueue, State.inbox_writeNum]
@[simp] theorem State.hostReads_putQueue (s : State) (n : Nat) (q : Queue) : (s.putQueue n q).hostReads = s.hostReads := by simp only [State.putQueue, State.hostReads_writeNum]
@[simp] theorem State.agenda_putQueue (s : State) (n : Nat) (q : Queue) : (s.putQueue n q).agenda = s.agenda := by simp only [State.putQueue, State.agenda_writeNum]
@[simp] theorem State.cur_putQueue (s : State) (n : Nat) (q : Queue) : (s.putQueue n q).cur = s.cur := by simp only [State.putQueue, State.cur_writeNum]
@[simp] theorem State.unit_putQueue (s : State) (n : Nat) (q : Queue) : (s.putQueue n q).unit = s.unit := by simp only [State.putQueue, State.unit_writeNum]
@[simp] theorem State.choices_putQueue (s : State) (n : Nat) (q : Queue) : (s.putQueue n q).choices = s.choices := by simp only [State.putQueue, State.choices_writeNum]
@[simp] theorem State.fresh_putQueue (s : State) (n : Nat) (q : Queue) : (s.putQueue n q).fresh = s.fresh := by simp only [State.putQueue, State.fresh_writeNum]
@[simp] theorem State.nextOp_putQueue (s : State) (n : Nat) (q : Queue) : (s.putQueue n q).nextOp = s.nextOp := by simp only [State.putQueue, State.nextOp_writeNum]

end Sys2Proof.Machine
end

