-- ==== Sys2Proof/Laws/Switch.lean ====
section
/-! SUPPORT. What the switches of a core leave alone: memory, and, when a resident-only grid's teams are gathered, the core that they are gathered
for (04 R110, 16 R462, R464). -/

namespace Sys2Proof.Machine

open Sys2Proof

/-- A fold whose every step keeps memory keeps it. -/
theorem mem_foldl {α : Type} (f : State → α → State) (hf : ∀ s x, (f s x).mem = s.mem) : ∀ (xs : List α) (s : State), (xs.foldl f s).mem = s.mem
  | [], _ => rfl
  | x :: t, s => by rw [List.foldl_cons, mem_foldl f hf t, hf]

theorem mem_readmit (s : State) (core key id : Nat) (o : Op) (a : Att) : (readmit s core key id o a).mem = s.mem := by
  unfold readmit
  split
  · rfl
  · split <;> rfl

theorem mem_resample (s : State) (core key : Nat) : (resample s core key).mem = s.mem := by
  unfold resample
  apply mem_foldl
  intro s x
  split
  · rfl
  · split
    · exact mem_readmit _ _ _ _ _ _
    · rfl

@[simp] theorem mem_switchIn (s : State) (core : Nat) : (switchIn s core).mem = s.mem := by
  unfold switchIn
  dsimp only
  split
  · rfl
  · split
    · rfl
    · split
      · rfl
      · rw [mem_resample]; rfl

@[simp] theorem mem_leaveRunning (s : State) (core : Nat) (why : Cause) (retain : Bool) : (leaveRunning s core why retain).mem = s.mem := by
  unfold leaveRunning
  dsimp only
  split
  · rw [mem_switchIn]; rfl
  · rfl

@[simp] theorem mem_switchOut (s : State) (core : Nat) : (switchOut s core).mem = s.mem := by
  unfold switchOut
  split
  · rfl
  · split
    · apply mem_foldl
      intro s x
      split
      · split
        · exact mem_leaveRunning _ _ _ _
        · rfl
      · rfl
    · exact mem_leaveRunning _ _ _ _

@[simp] theorem mem_gatherMates (s : State) (core : Nat) : (gatherMates s core).mem = s.mem := by
  unfold gatherMates
  split
  · rfl
  · apply mem_foldl
    intro s x
    split
    · split
      · exact mem_switchOut _ _
      · rfl
    · rfl

@[simp] theorem mem_shadowed (s : State) (core i : Nat) : (shadowed s core i).mem = s.mem := by
  unfold shadowed
  rw [mem_gatherMates]
  split
  · exact mem_switchOut _ _
  · exact mem_switchIn _ _

/-- `keepsCore` as a proposition. -/
theorem keepsCore_iff {s t : State} {core : Nat} : keepsCore s t core = true ↔
    t.core core = s.core core ∧ ∀ sl ∈ (s.core core).slots, tabGet t.teams sl.team = tabGet s.teams sl.team := by
  simp [keepsCore, List.all_eq_true]

/-- Gathering a grid's teams leaves the core that it is done for, and the teams in its slots, as they are. -/
theorem gatherMates_keeps (s : State) (core : Nat) : (gatherMates s core).core core = s.core core ∧
    ∀ sl ∈ (s.core core).slots, tabGet (gatherMates s core).teams sl.team = tabGet s.teams sl.team := by
  unfold gatherMates
  split
  · exact ⟨rfl, fun _ _ => rfl⟩
  · rename_i r hr
    generalize mates s r.team = xs
    clear hr r
    induction xs generalizing s with
    | nil => exact ⟨rfl, fun _ _ => rfl⟩
    | cons x t ih =>
      rw [List.foldl_cons]
      split
      · split
        · rename_i h
          obtain ⟨h1, h2⟩ := keepsCore_iff.mp (by simp only [Bool.and_eq_true] at h; exact h.2)
          obtain ⟨k1, k2⟩ := ih (switchOut s x.2.core)
          refine ⟨k1.trans h1, fun sl hs => ?_⟩
          rw [k2 sl (by rw [h1]; exact hs), h2 sl hs]
        · exact ih s
      · exact ih s

end Sys2Proof.Machine
end

