-- ==== Sys2Proof/Tests/Slice0.lean ====
section
/-! SUPPORT. The model's own tests: decodings of words written from the encoding tables, ill-formed terms, one unit of most families with values of the
manual's own examples, and for each statement states and operands that meet its hypotheses. -/

namespace Sys2Proof.Machine

open Sys2Proof

-- one theorem after another: theorems checked side by side would each hold a thread and its stack
set_option Elab.async false

/-- Every word, of a number of bits, decodes to its instruction, which is well-formed. -/
def allDecode (xs : List (Nat × Nat × Instr)) : Bool :=
  xs.all (fun x => decide (decodeTableWord x.1 x.2.1 = some x.2.2) && x.2.2.wellFormed)

theorem test_decode_lane_integer : allDecode [
  (32, 0xa0686481, .add 2 1 0 13 3 9),
  (32, 0xa2686481, .sub 2 1 0 13 3 9),
  (32, 0x14a9a181, .mulLo 0 1 21 13 3),
  (32, 0x66686481, .mulHi 1 1 0 13 3 9),
  (32, 0x18a9a181, .madLo 0 1 21 13 3),
  (32, 0x1b534301, .adda 0 1 21 13 3),
  (32, 0x6c686481, .min 1 1 0 13 3 9),
  (32, 0x6e686481, .max 1 1 0 13 3 9),
  (32, 0x10a9a183, .and 0 1 21 13 3),
  (32, 0x12a9a183, .or 0 1 21 13 3),
  (32, 0x14a9a183, .xor 0 1 21 13 3),
  (32, 0x16a9a183, .andn 0 1 21 13 3),
  (32, 0x18a9a183, .shl 0 1 21 13 3),
  (32, 0x1aa9a183, .shr 0 1 21 13 3),
  (32, 0x1ca9a183, .sra 0 1 21 13 3),
  (32, 0x1ea9a183, .rot 0 1 21 13 3),
  (32, 0x60686485, .bfe 1 1 0 13 3 9),
  (32, 0x12a9a185, .bfi 0 1 21 13 3),
  (32, 0x0400ca85, .popc 0 6 21),
  (32, 0x16a9a185, .popcLt 0 1 21 13 3),
  (32, 0x0800ca85, .clz 0 6 21),
  (32, 0x0a00ca85, .brev 0 6 21),
  (32, 0x0c00ca85, .abs 0 6 21),
  (32, 0x0e00ca85, .not 0 6 21),
  (32, 0xe0686487, .dot4I8 3 1 0 13 3 9),
  (32, 0x40a9a189, .addi 0 1 21 13 3),
  (32, 0x0032a68b, .andi 0 6 21 13),
  (32, 0x0032a68d, .ori 0 6 21 13),
  (32, 0x0032a68f, .xori 0 6 21 13),
  (32, 0x0032a691, .shli 0 6 21 13),
  (32, 0x0132a691, .shri 0 6 21 13),
  (32, 0x0232a691, .srai 0 6 21 13),
  (32, 0x0332a691, .roti 0 6 21 13),
  (32, 0x00580313, .movi 11 6),
  (32, 0x40a9a195, .mini 0 1 21 13 3),
  (32, 0x40a9a197, .maxi 0 1 21 13 3)] = true := by decide +kernel

theorem test_decode_uniform : allDecode [
  (32, 0x8032a699, .kadd 2 6 21 13),
  (32, 0x8232a699, .ksub 2 6 21 13),
  (32, 0x0458ca99, .kmulLo 11 6 21),
  (32, 0x4632a699, .kmulHi 1 6 21 13),
  (32, 0x0858ca99, .kmadLo 11 6 21),
  (32, 0x0ab18519, .kadda 11 6 5),
  (32, 0x4c32a699, .kmin 1 6 21 13),
  (32, 0x4e32a699, .kmax 1 6 21 13),
  (32, 0x0058ca9b, .kand 11 6 21),
  (32, 0x0258ca9b, .kor 11 6 21),
  (32, 0x0458ca9b, .kxor 11 6 21),
  (32, 0x0658ca9b, .kandn 11 6 21),
  (32, 0x0858ca9b, .kshl 11 6 21),
  (32, 0x0a58ca9b, .kshr 11 6 21),
  (32, 0x0c58ca9b, .ksra 11 6 21),
  (32, 0x0e58ca9b, .krot 11 6 21),
  (32, 0x0058ca9d, .kaddi 11 6 21),
  (32, 0x8058031d, .kmovi 11 6),
  (32, 0x4032a69f, .kbfe 1 6 21 13),
  (32, 0x0258ca9f, .kbfi 11 6 21),
  (32, 0x0401631f, .kpopc 11 6),
  (32, 0x0601631f, .kclz 11 6),
  (32, 0x0801631f, .kbrev 11 6),
  (32, 0x0a01631f, .knot 11 6),
  (32, 0x0c01631f, .kabs 11 6),
  (32, 0x0e01631f, .kmov 11 6)] = true := by decide +kernel

theorem test_decode_float : allDecode [
  (32, 0xe06864a1, .fadd 3 1 0 13 3 9),
  (32, 0xe26864a1, .fsub 3 1 0 13 3 9),
  (32, 0xe46864a1, .fmul 3 1 0 13 3 9),
  (32, 0xe66864a1, .fma 3 1 0 13 3 9),
  (32, 0x18a9a1a1, .fmin 0 1 21 13 3),
  (32, 0x1aa9a1a1, .fmax 0 1 21 13 3),
  (32, 0xe06864a3, .faddBf16x2 3 1 0 13 3 9),
  (32, 0xe26864a3, .fmulBf16x2 3 1 0 13 3 9),
  (32, 0xe46864a3, .fmaBf16x2 3 1 0 13 3 9),
  (32, 0x16a9a1a3, .fminBf16x2 0 1 21 13 3),
  (32, 0x18a9a1a3, .fmaxBf16x2 0 1 21 13 3),
  (32, 0xe06864a5, .faddF16x2 3 1 0 13 3 9),
  (32, 0xe26864a5, .fmulF16x2 3 1 0 13 3 9),
  (32, 0xe46864a5, .fmaF16x2 3 1 0 13 3 9),
  (32, 0x16a9a1a5, .fminF16x2 0 1 21 13 3),
  (32, 0x18a9a1a5, .fmaxF16x2 0 1 21 13 3),
  (32, 0x0000caa7, .rcp 0 6 21),
  (32, 0x0200caa7, .rsqrt 0 6 21),
  (32, 0x0400caa7, .exp2 0 6 21),
  (32, 0x0600caa7, .log2 0 6 21)] = true := by decide +kernel

theorem test_decode_conversion : allDecode [
  (32, 0xd83064a9, .cvt 3 1 4 6 3 9)] = true := by decide +kernel

theorem test_decode_predicate : allDecode [
  (32, 0xa06862b1, .cmpEq 2 1 0 13 3 5),
  (32, 0xa26862b1, .cmpNe 2 1 0 13 3 5),
  (32, 0xa46862b1, .cmpLt 2 1 0 13 3 5),
  (32, 0xa66862b1, .cmpLe 2 1 0 13 3 5),
  (32, 0xa86862b1, .cmpGt 2 1 0 13 3 5),
  (32, 0xaa6862b1, .cmpGe 2 1 0 13 3 5),
  (32, 0x0018c2b3, .pand 3 6 5),
  (32, 0x0218c2b3, .por 3 6 5),
  (32, 0x0418c2b3, .pxor 3 6 5),
  (32, 0x06006333, .pnot 3 6),
  (32, 0x2a1922b5, .sel 0 1 0 5 3 9 5)] = true := by decide +kernel

theorem test_decode_moves_and_cross_lane : allDecode [
  (32, 0x00300ab7, .mov 0 6 21),
  (32, 0x02016337, .movk 11 6),
  (32, 0x10a9a1b9, .shflIdx 0 1 21 13 3),
  (32, 0x12a9a1b9, .shflUp 0 1 21 13 3),
  (32, 0x14a9a1b9, .shflDown 0 1 21 13 3),
  (32, 0x16a9a1b9, .shflXor 0 1 21 13 3),
  (32, 0x18ad01b9, .xg 0 1 21 5 3),
  (32, 0x1aa1a1b9, .permB 0 1 5 13 3),
  (32, 0x0000633b, .voteAny 3 6),
  (32, 0x0200633b, .voteAll 3 6),
  (32, 0x0400633b, .voteBallot 3 6),
  (32, 0x9002a6bd, .gredAdd 2 1 21 13),
  (32, 0x9202a6bd, .gredMin 2 1 21 13),
  (32, 0x5402a6bd, .gredMax 1 1 21 13),
  (32, 0x9602a6bd, .gscanAdd 2 1 21 13),
  (32, 0x0032ad3f, .rbal 0 6 21 13)] = true := by decide +kernel

theorem test_decode_control_and_prefix : allDecode [
  (32, 0x0402a337, .sreg 21 6),
  (32, 0x000172f9, .bra 11 2 0 5),
  (32, 0x0001607b, .call 11),
  (32, 0x0001607d, .trap 11),
  (32, 0x0200007d, .snap),
  (32, 0x0400a37d, .csrr 5 6),
  (32, 0x06000b7d, .clock 11),
  (32, 0x0801807d, .jmp 0 6),
  (32, 0x0a01807d, .callIndirect 0 6),
  (32, 0x0000167f, .extImm 11),
  (32, 0x000016ff, .extReg 11),
  (16, 0x0002, .nop),
  (16, 0x0006, .join),
  (16, 0x000a, .yield),
  (16, 0x000e, .exit),
  (16, 0x0012, .ret),
  (16, 0x0196, .guard 0 6)] = true := by decide +kernel

theorem test_decode_memory : allDecode [
  (32, 0x950e42c1, .ld 1 0 5 1 3 9 5),
  (32, 0x1934c4c3, .st 0 6 1 13 3 9),
  (32, 0x18574645, .ldQ 0 6 21 13 3),
  (32, 0x98574645, .stQ 0 6 21 13 3),
  (32, 0x950e42c7, .ldRo 1 0 5 1 3 9 5),
  (32, 0x2efd46c9, .ldk 11 0 5 13),
  (32, 0xaefd4a49, .ldl 11 2 5 20),
  (32, 0x193464cb, .lds 0 6 1 13 3 9),
  (32, 0x993464cb, .sts 0 6 1 13 3 9),
  (32, 0x193464cd, .ldsd 0 6 1 13 3 9),
  (32, 0x993464cd, .stsd 0 6 1 13 3 9),
  (32, 0x1857404f, .pf 0 6 21 13),
  (32, 0xaffd854f, .mwait 11 6 5)] = true := by decide +kernel

theorem test_decode_atomic : allDecode [
  (32, 0x6068c4d1, .atomAdd 1 1 0 13 3 9),
  (32, 0x6268c4d1, .atomMin 1 1 0 13 3 9),
  (32, 0x6468c4d1, .atomMax 1 1 0 13 3 9),
  (32, 0x6668c4d1, .atomAnd 1 1 0 13 3 9),
  (32, 0x6868c4d1, .atomOr 1 1 0 13 3 9),
  (32, 0x6a68c4d1, .atomXor 1 1 0 13 3 9),
  (32, 0xec68c4d1, .atomExch 3 1 0 13 3 9),
  (32, 0xaeb0c451, .atomCas 2 1 0 22 3 8),
  (32, 0xe068c053, .redAdd 3 1 0 13 3),
  (32, 0x6268c053, .redMin 1 1 0 13 3),
  (32, 0x6468c053, .redMax 1 1 0 13 3),
  (32, 0x6668c053, .redAnd 1 1 0 13 3),
  (32, 0x6868c053, .redOr 1 1 0 13 3),
  (32, 0x6a68c053, .redXor 1 1 0 13 3)] = true := by decide +kernel

theorem test_decode_bank : allDecode [
  (32, 0xe068c055, .bupdAdd 3 1 0 13 3),
  (32, 0xe268c055, .bupdMin 3 1 0 13 3),
  (32, 0xe468c055, .bupdMax 3 1 0 13 3),
  (32, 0xe668c055, .bredAdd 3 1 0 13 3),
  (32, 0xe868c055, .bredMin 3 1 0 13 3),
  (32, 0xea68c055, .bredMax 3 1 0 13 3)] = true := by decide +kernel

theorem test_decode_fence : allDecode [
  (32, 0x00006057, .fence 3),
  (32, 0x40006057, .fenceAcq 3),
  (32, 0x80006057, .fenceRel 3),
  (32, 0x02006057, .tfence 3)] = true := by decide +kernel

theorem test_decode_barrier : allDecode [
  (32, 0x0032a059, .binit 0 6 21),
  (32, 0x0200cad9, .barv 0 6 21),
  (32, 0x0432a059, .bexp 0 6 21),
  (32, 0x0632a1d9, .btest 0 6 21 3),
  (32, 0x0832a059, .bwait 0 6 21),
  (32, 0x0a00c059, .binval 0 6),
  (32, 0x0000005b, .tsync),
  (32, 0x0200005b, .clsync)] = true := by decide +kernel

theorem test_decode_heap : allDecode [
  (32, 0x1b5741dd, .hld 0 6 21 13 3),
  (32, 0x9b5741dd, .hst 0 6 21 13 3),
  (32, 0xa0a9a1df, .ldh 2 1 21 13 3),
  (32, 0xa26864df, .sth 2 1 0 13 3 9),
  (32, 0x14a9a1df, .hnew 0 1 21 13 3),
  (32, 0x060005df, .hfree 11),
  (32, 0x0801665f, .hpin 11 6),
  (32, 0x0a0005df, .hunpin 11),
  (32, 0x0c58c2df, .heq 11 6 5),
  (32, 0x0e01635f, .htag 11 6)] = true := by decide +kernel

theorem test_decode_quern : allDecode [
  (32, 0xb0c93061, .qla 11 1 9 1 12),
  (32, 0xb19a64e1, .qzero 11 1 2 13 3 1),
  (32, 0xb0b12561, .qrd 11 1 1 2 9 1),
  (32, 0xb0b125e1, .qwr 11 1 1 2 9 1),
  (32, 0xb000d661, .qrel 11 6 5),
  (32, 0xb1333463, .qmm 11 1 0 1 9 9 5),
  (32, 0xbd526465, .qmmg 11 1 21 9 3 1),
  (32, 0xb1333467, .qdist 11 1 0 1 9 9 5),
  (32, 0xb065ace7, .qtopk 11 6 5 5 3)] = true := by decide +kernel

theorem test_decode_attention : allDecode [
  (32, 0xb65b4069, .qatt 11 6 5 5 1 1),
  (32, 0xb65b40e9, .qatf 11 6 5 5 1 1),
  (32, 0xb65b4169, .qsel 11 6 5 5 1 1)] = true := by decide +kernel

theorem test_decode_mx : allDecode [
  (32, 0xba80046b, .mxq 11 5 0 1 0 1),
  (32, 0xba8004eb, .mxd 11 5 0 1 0 1)] = true := by decide +kernel

theorem test_decode_mask : allDecode [
  (32, 0xb001946d, .mload 11 6 5),
  (32, 0xb00018ed, .mfree 11 6),
  (32, 0xb00ab56d, .mclass 11 2 21 5),
  (32, 0xb00191ed, .mstat 11 6 4)] = true := by decide +kernel

theorem test_decode_thresher : allDecode [
  (32, 0xb00aa06f, .kvnew 11 2 21),
  (32, 0xb00aa0ef, .kvseal 11 2 21),
  (32, 0xb00aa16f, .kvdem 11 2 21),
  (32, 0xb00aa56f, .kvdemInv 11 2 21),
  (32, 0xb00aa1ef, .kvcold 11 2 21),
  (32, 0xb009466f, .kvq 11 2 5 1),
  (32, 0xb00aa2ef, .kvpolReg 11 2 21),
  (32, 0xb00aa6ef, .kvpolSweep 11 2 21),
  (32, 0xb00aaaef, .kvpolUnreg 11 2 21),
  (32, 0xb00aaeef, .kvpolSet 11 2 21)] = true := by decide +kernel

theorem test_decode_copy : allDecode [
  (32, 0xb01b4471, .cpy 11 6 1 1 0 1 1),
  (32, 0xb01a44f1, .cpy2d 11 6 1 0 0 1 1),
  (32, 0xb01b8571, .cpym 11 6 1 1 0 1),
  (32, 0xb01bac73, .cpyc 11 6 1 13 3),
  (32, 0xb000c4f3, .cpyst 11 6 1),
  (32, 0xb0000973, .cpyx 11 2)] = true := by decide +kernel

theorem test_decode_link : allDecode [
  (32, 0xb1aadc75, .lld 11 6 21 13 3),
  (32, 0xbd56f0f5, .lgat 11 6 21 13 3 1),
  (32, 0xb67d0175, .lwr 11 6 1 1 1 1 5),
  (32, 0xb675c1f5, .lred 11 6 1 1 1 0 5 3),
  (32, 0xba530275, .mxr 11 5 1 1 3)] = true := by decide +kernel

theorem test_decode_queue : allDecode [
  (32, 0xb0653477, .dlaunch 11 6 5 13),
  (32, 0xb00018f7, .qsig 11 6)] = true := by decide +kernel

theorem test_decode_short : allDecode [
  (16, 0x5980, .mov16 11 6),
  (16, 0x5984, .add16 11 6),
  (16, 0x5988, .sub16 11 6),
  (16, 0x598c, .mul16 11 6),
  (16, 0x5990, .and16 11 6),
  (16, 0x5994, .or16 11 6),
  (16, 0x5998, .xor16 11 6),
  (16, 0x599c, .andn16 11 6),
  (16, 0x59a0, .shl16 11 6),
  (16, 0x59a4, .shr16 11 6),
  (16, 0x59a8, .sra16 11 6),
  (16, 0x59ac, .min16 11 6),
  (16, 0x59b0, .max16 11 6),
  (16, 0x59b4, .fadd16 11 6),
  (16, 0x59b8, .fmul16 11 6),
  (16, 0x59bc, .fmax16 11 6)] = true := by decide +kernel

/-- Words that the spec's chapters write out beside their meaning (02, 05 to 13). -/
theorem test_decode_spec_examples : allDecode [
  (32, 0x2038c281, .add 0 1 0 7 6 5), (32, 0x01004109, .addi 0 0 32 2 2), (32, 0x020881c1, .ld 0 0 0 2 2 2 3),
  (32, 0xfffea8f9, .bra 0x7fff5 1 0 1), (16, 0x48c4, .add16 9 3), (16, 0x0296, .guard 1 2), (16, 0x0006, .join), (16, 0x0012, .ret),
  (16, 0x000e, .exit), (16, 0x000a, .yield), (32, 0x0001227f, .extImm 0x91), (32, 0x0a288209, .addi 0 0 0x145 4 4),
  (32, 0x0e08c1c3, .st 0 3 2 2 3 3), (32, 0x043040b1, .cmpLt 0 0 0 6 2 1), (32, 0x3ff8001d, .kaddi 0x7ff 0 0),
  (32, 0x04006129, .cvt 0 0 2 0 3 2), (32, 0x0028c2a9, .cvt 0 0 0 5 6 5), (32, 0x461840b5, .sel 1 0 0 3 3 2 1),
  (32, 0x4a408539, .permB 1 0 2 4 10), (32, 0x4201c73d, .gredMin 1 0 14 14), (32, 0x0008007b, .call 0x40), (32, 0x0801007d, .jmp 0 4),
  (32, 0x0000a07d, .trap 5), (32, 0x0200007d, .snap), (32, 0x040061fd, .csrr 3 3)] = true := by decide +kernel

theorem test_decode_spec_examples_memory : allDecode [
  (32, 0x0600017d, .clock 1), (32, 0x821922cb, .sts 0 0 2 6 9 5), (32, 0x83fc8849, .ldl 0 3 2 16), (32, 0x0008804f, .pf 0 0 2 2),
  (32, 0x83fd014f, .mwait 0 4 1), (32, 0x00390059, .binit 0 7 8), (32, 0x02010559, .barv 0 8 10), (32, 0x04590059, .bexp 0 11 8),
  (32, 0x06510159, .btest 0 10 8 2), (32, 0x08510059, .bwait 0 10 8), (32, 0x0a010059, .binval 0 8), (32, 0x42018559, .barv 1 12 10),
  (32, 0x0000005b, .tsync), (32, 0x0200005b, .clsync), (32, 0x006140d1, .atomAdd 0 0 0 12 5 1), (32, 0x8e214151, .atomCas 2 0 0 4 5 2),
  (32, 0xc0614053, .redAdd 3 0 0 12 5), (32, 0x000400ff, .extReg 0x200), (32, 0x80614055, .bupdAdd 2 0 0 12 5),
  (32, 0xca614055, .bredMax 3 0 0 12 5), (32, 0x00008057, .fence 4), (32, 0x40008057, .fenceAcq 4), (32, 0x80008057, .fenceRel 4),
  (32, 0x02008057, .tfence 4), (32, 0x00814061, .qla 0 1 0 1 16), (32, 0x02fc8149, .ldk 0 0 2 2),
  (32, 0x00914ce7, .qtopk 0 9 1 2 3), (32, 0x021040e9, .qatf 0 2 1 0 0 1)] = true := by decide +kernel

/-! ### Ill-formed instructions: one term or more for each condition of 02 R69 -/

/-- Reserved modes (02 R66, R67). -/
theorem test_ill_formed_modes : [Instr.add 3 0 0 1 2 3, .sub 3 0 0 1 2 3, .mulHi 2 0 0 1 2 3, .min 2 0 0 1 2 3, .max 3 0 0 1 2 3, .bfe 2 0 0 1 2 3, .kadd 3 1 2 3,
    .ksub 3 1 2 3, .kmulHi 2 1 2 3, .kmin 2 1 2 3, .kmax 3 1 2 3, .kbfe 2 1 2 3, .gredAdd 3 0 1 2, .gredMin 3 0 1 2, .gredMax 3 0 1 2, .gscanAdd 3 0 1 2,
    .cmpEq 3 0 0 1 2 1, .cmpNe 3 0 0 1 2 1, .cmpLt 3 0 0 1 2 1, .cmpLe 3 0 0 1 2 1, .cmpGt 3 0 0 1 2 1, .cmpGe 3 0 0 1 2 1, .ld 1 0 0 2 1 2 3, .ldRo 1 0 0 2 1 2 3,
    .atomMin 3 0 0 2 1 4, .atomMax 3 0 0 2 1 4, .atomAnd 3 0 0 2 1 4, .atomOr 3 0 0 2 1 4, .atomXor 3 0 0 2 1 4, .atomCas 3 0 0 2 1 4, .redMin 3 0 0 2 1,
    .redMax 3 0 0 2 1, .redAnd 3 0 0 2 1, .redOr 3 0 0 2 1, .redXor 3 0 0 2 1].all (fun i => !i.wellFormed) = true := by decide +kernel

/-- Selectors, codes and scopes outside their lists (05 R155, 04 R139, R140, 07 R221, 08 R268, 09 R279, 12 R370). -/
theorem test_ill_formed_selectors : [Instr.mstat 0 2 5, .cvt 0 0 7 1 1 2, .cvt 0 0 1 7 1 2, .cvt 0 0 3 3 1 2, .sreg 29 1, .csrr 7 1, .fence 6, .fenceAcq 6, .fenceRel 7, .tfence 6,
    .qla 0 0 10 0 0, .qla 0 0 0 2 0, .qmm 0 0 0 0 10 1 0, .qmmg 0 0 0 10 1 0, .qdist 0 0 0 0 15 1 0, .mxq 0 0 0 0 0 0, .mxq 0 7 0 0 0 0, .mxd 0 0 0 0 0 0,
    .mxd 0 7 0 0 0 0, .mxr 0 0 0 1 0, .mxr 0 7 0 1 0, .kvq 0 0 1 2].all (fun i => !i.wellFormed) = true := by decide +kernel

/-- Predicate 0 as a destination or a guard; an unconditional branch with `neg` (02 R64, 05 R167). -/
theorem test_ill_formed_predicates : [Instr.cmpEq 0 0 0 1 2 0, .cmpNe 0 0 0 1 2 0, .cmpLt 0 0 0 1 2 0, .cmpLe 0 0 0 1 2 0, .cmpGt 0 0 0 1 2 0, .cmpGe 0 0 0 1 2 0, .pand 1 2 0,
    .por 1 2 0, .pxor 1 2 0, .pnot 1 0, .voteAny 1 0, .voteAll 1 0, .btest 0 1 2 0, .heq 1 2 0, .lgat 0 0 1 2 0 0, .guard 0 0, .bra 4 0 1 0].all
    (fun i => !i.wellFormed) = true := by decide +kernel

/-- Registers outside their class: odd pairs, windows past v63 or past the tile's columns, an index mark without an index (02 R62, R63, 09 R279, R293). -/
theorem test_ill_formed_registers : [Instr.ld 0 0 0 3 1 2 5, .ld 0 1 0 2 63 2 4, .st 0 0 3 1 2 5, .st 1 0 2 63 2 4, .ldQ 1 0 63 2 1, .stQ 1 0 63 2 1, .ldRo 0 0 0 3 1 2 5,
    .ldRo 0 1 0 2 63 2 4, .ldk 0 1 2 3, .ldl 0 1 2 3, .ldl 0 3 2 12, .lds 0 0 3 1 2 5, .lds 1 0 2 63 2 4, .sts 0 0 3 1 2 5, .sts 1 0 2 63 2 4, .ldsd 0 0 3 1 2 5,
    .ldsd 1 0 2 63 2 4, .stsd 0 0 3 1 2 5, .stsd 1 0 2 63 2 4, .pf 1 0 63 2, .atomAdd 2 0 0 3 1 4, .atomMin 2 0 0 2 1 5, .atomMax 2 0 0 3 1 4, .atomAnd 2 0 0 3 1 4,
    .atomOr 2 0 0 3 1 4, .atomXor 2 0 0 3 1 4, .atomExch 2 0 0 3 1 4, .atomCas 2 0 0 3 1 4, .redAdd 2 0 0 3 1, .redMin 2 0 0 3 1, .redMax 2 0 0 3 1, .redAnd 2 0 0 3 1,
    .redOr 2 0 0 3 1, .redXor 2 0 0 3 1, .hld 1 0 63 2 1, .hst 1 0 63 2 1, .ldh 3 0 1 2 5, .sth 3 0 0 1 5 2, .lld 0 5 1 2 3, .qla 0 0 0 0 49, .qrd 0 0 3 0 0 1,
    .qrd 0 0 1 3 0 1, .qrd 0 0 2 0 33 1, .qwr 0 0 3 0 0 1, .qwr 0 0 1 3 0 1, .qwr 0 0 2 0 33 1].all (fun i => !i.wellFormed) = true := by decide +kernel

/-- Empty quarter masks, operands that another field forbids, the halfword 0, and events (02 R69, 09 R277, R295, 10 R306, 14 R404). -/
theorem test_ill_formed_rest : [Instr.qzero 0 0 0 0 0 1, .qzero 0 1 0 0 1 1, .qzero 0 0 1 3 1 1, .qrel 0 0 1, .qmm 0 0 0 0 0 0 1, .qmmg 0 0 0 0 0 1, .qdist 0 0 0 0 0 0 1,
    .qtopk 0 0 0 1 2, .qtopk 0 0 1 2 2, .qatt 0 1 0 0 0 0, .qatt 0 1 1 2 0 0, .qatf 0 1 1 2 0 0, .qsel 0 1 1 2 0 0, .qsel 0 1 0 0 0 0, .cpy 0 1 0 0 0 0 0, .cpy2d 0 1 0 0 0 0 0,
    .cpym 0 1 0 0 0 0, .cpyc 0 1 0 0 0, .lwr 0 0 0 0 0 1 0, .lwr 0 0 0 0 0 0 1, .lred 0 0 0 0 0 1 0 0, .lred 0 0 0 0 0 0 1 0, .mxr 0 1 0 0 1, .mov16 0 0, .illegalInstruction,
    .passGrant 0, .snapshotLatch].all (fun i => !i.wellFormed) = true := by decide +kernel

/-- Units that are not legal: a prefix as the body, an extension before a form or a value that takes none, a guard before a form that takes none or with p0
(02 R53, R54, R58, R69). -/
theorem test_illegal_units : !(legalUnit none none (.guard 0 1) || legalUnit none none (.extImm 1) || legalUnit none (some (.imm 1)) (.add 0 0 0 1 2 3) ||
    legalUnit none (some (.imm 1)) (.add16 1 2) || legalUnit none (some (.imm 1)) (.addi 0 0 512 2 4) || legalUnit none (some (.imm 1)) (.bra 512 0 0 0) ||
    legalUnit none (some (.reg 128)) (.madLo 0 0 1 2 3) || legalUnit none (some (.reg 32)) (.kmadLo 1 2 3) || legalUnit none (some (.reg 1)) (.redAdd 0 0 0 1 2) ||
    legalUnit none (some (.reg 2048)) (.redAdd 0 0 0 1 2) || legalUnit none (some (.reg 1)) (.add 0 0 0 1 2 3) || legalUnit (some (0, 1)) none (.kadd 0 1 2 3) ||
    legalUnit (some (0, 0)) none (.add 0 0 0 1 2 3)) = true := by decide +kernel

/-- A legal unit of three parts: `?p3 ld.b8.sx v8, [k4 + v6 + 0x080]` (06). -/
theorem test_parse_three_parts : parseUnit [0x00d6, 0x007f, 0x0001, 0x8441, 0x8018] = ⟨some (0, 3), some (.imm 0x80), some (.ld 1 0 0 0 6 2 8)⟩ ∧
    legalUnit (some (0, 3)) (some (.imm 0x80)) (.ld 1 0 0 0 6 2 8) = true := by decide +kernel

/-! ### States for one instruction -/

/-- The state after reset with a word placed where the next step fetches it. -/
def demo (w : Nat) : State := State.reset.withFetchWord 32 w

/-- A state in which queue 0 has a grid of one team, RUNNING on core 0, whose one group has one split of four lanes, at the unit 0x10000. -/
def bare : State :=
  ({ State.reset with
     queues := [(0, hostQueue)], grids := [(1, ⟨0, hostLaunch, [], [], false, false, false, some 0, none, false⟩)], nextGrid := 2
     teams := [(teamKey 1 0, { Team.start 0 1 0 1 4096 0 0x10000 [] with st := .resident, budget := 64 })]
     unit := { UnitCtx.reset with addr := 0x10000, npc := 0x10004 } }.modCore 0 (fun k => { k with
       slots := [⟨.running, teamKey 1 0, 0, false, false⟩, ⟨.empty, 0, 0, false, false⟩, ⟨.empty, 0, 0, false, false⟩], active := [0] })).modGroup
    (teamKey 1 0) 0 (fun g => { g with splits := [⟨0x10000, 0xf, 0, [], .none, [], none⟩] })

/-- The bytes of a number that are not 0, as cells. -/
def cells (a n v : Nat) : List Host.Cell := ((List.range n).map (fun j => (a + j, BitVec.ofNat 8 (v / 256 ^ j)))).filter (fun c => c.2 != 0)

/-- Page tables of queue 0: two writable pages of 64 KiB and class 0x30, at 0 and at 0x10000, in frames at 0x30000000. -/
def pageTables : List Host.Cell :=
  cells 0x20000000 8 0x8000000000200010 ++ cells 0x20001000 8 0x8000000000200020 ++ cells 0x20002000 8 0x8000000000200030 ++
    cells 0x20003000 8 0x8000000000200040 ++ cells 0x20004000 8 0xc003080000003000 ++ cells 0x20004008 8 0xc003080000003001

/-- `bare` with page tables. -/
def mapped : State := { bare with mem := pageTables }

/-- A state with its group changed. -/
def State.grp (s : State) (f : Group → Group) : State := s.modGroup (teamKey 1 0) 0 f

/-- The one group. -/
def itsGroup (s : State) : Group := (groupOf s (teamKey 1 0) 0).getD (Group.start 0 0 [])

/-- One step leads to a next state in which a property holds. -/
def leads (s : State) (p : State → Bool) : Bool :=
  match step s with
  | .next t => p t
  | _ => false

/-- An instruction leads to a next state in which a property holds. -/
def makes (i : Instr) (s : State) (p : State → Bool) : Bool :=
  match exec i s with
  | .next t => p t
  | _ => false

/-- A register with one value in every lane, or with given ones; a uniform register; a predicate. -/
def flat (n : Nat) (w : Word) (g : Group) : Group := { g with v := tabPut g.v n (List.replicate 32 w) }
def lanes (n : Nat) (ws : List Nat) (g : Group) : Group := { g with v := tabPut g.v n (ws.map (BitVec.ofNat 32)) }
def uni (n w : Nat) (g : Group) : Group := { g with k := tabPut g.k n (BitVec.ofNat 32 w) }
def prd (n : Nat) (w : BitVec 32) (g : Group) : Group := { g with p := tabPut g.p n w }
def refr (n : Nat) (w : DWord) (g : Group) : Group := { g with h := tabPut g.h n (List.replicate 32 w) }

/-! ### One unit, with the values of the spec's examples -/

/-- A step fetches `add v5, v6, v7!` (02): the sum wraps, the marked register is freed, the split goes on by four bytes. -/
theorem test_step_add : leads ((demo 0x2038c281).grp (fun g => flat 7 0xffffffff (flat 6 3 g))) (fun t =>
    (itsGroup t).vlane 5 31 == 2 && (tabGet (itsGroup t).v 7).isNone && (itsGroup t).splits.map (·.pc) == [0x10004]) = true := by decide +kernel

/-- 02 R69: the word 0 is no instruction: trap 0x01. -/
theorem test_step_zero_word_traps : leads (demo 0) (fun t =>
    ((tabGet t.teams (teamKey 1 0)).map (fun tm => tm.traps.map (·.code))) == some [1]) = true := by decide +kernel

/-- 05 R169: `call` at offset 0x40 halfwords: the return address on every lane's stack. -/
theorem test_step_call : leads (demo 0x0008007b) (fun t => (itsGroup t).splits.map (·.pc) == [0x10080] && (itsGroup t).rets 31 == [0x10004]) = true := by
  decide +kernel

/-- 16 R454: after reset, without a program, a step only counts a cycle. -/
theorem test_reset_idles : leads State.reset (fun t => t.cycle == 1 && t.teams == []) = true := by decide +kernel

/-- 05 R144: saturation. -/
theorem test_add_saturates : makes (.add 1 0 0 7 6 5) (bare.grp (fun g => flat 7 1 (flat 6 0x7fffffff g))) (fun t => (itsGroup t).vlane 5 0 == 0x7fffffff) = true := by
  decide +kernel

/-- 05 R146: with v6 = 0x0000_0804, `bfe.i32 v4, v5, v6` of 0x0000_0f80 yields 0xffff_fff8. -/
theorem test_bfe_example : bfeOp 1 0x00000f80 0x00000804 = 0xfffffff8 := by decide +kernel

/-- 02 R53: `addi` with an extension takes the payload's bits above its own. -/
theorem test_ext_immediate : immediate { State.reset with unit := { UnitCtx.reset with extImm := some 0x91 } } 0x145 = 0x00012345 := by decide +kernel

/-- 05 R153: 2.0 above and 3.0 below. -/
theorem test_fadd_bf16x2 : onHalves (faddIn bf16 0) 0x3f804000 0x3f803f80 = 0x40004040 := by decide +kernel

/-- 05 R155: the table's rows. -/
theorem test_cvt_table :
    [cvtEncode 0 0 (cvtDecode 2 0x0000c1a8), cvtEncode 5 0 (cvtDecode 0 0x43f80000), cvtEncode 5 0 (cvtDecode 0 0x41800000),
     cvtEncode 3 2 (cvtDecode 0 0xbfc00000), cvtEncode 6 0 (cvtDecode 0 0x47800000), cvtEncode 6 1 (cvtDecode 0 0x47800000)] =
    [0xc1a80000, 0x7e, 0x58, 0xfffffffe, 0x7c, 0x7b] := by decide +kernel

/-- 08 R265: the table's rows, and the ends of the range. -/
theorem test_exp2_table : [0x3f800000#32, 0x3f000000, 0xbf000000, 0x3a800000, 0x43000000, 0xc3160000].map (fun w => f32Bits (exp2d (f32Num w))) =
    [0x40000000, 0x3fb504f3, 0x3f3504f3, 0x3f801630, 0x7f800000, 0] := by decide +kernel

/-- 08 R266: exact cases. -/
theorem test_rcp_rsqrt_log2 : [f32Bits (rcpd (f32Num 0x00800000)), f32Bits (rsqrtd (f32Num 0x40800000)), f32Bits (log2d (f32Num 0x41000000)),
    f32Bits (rcpd (f32Num 0x80000000)), f32Bits (rsqrtd (f32Num 0xbf800000))] = [0x7e800000, 0x3f000000, 0x40400000, 0xff800000, 0x7fc00000] := by decide +kernel

/-- 05 R163: `perm.b.hi` takes the high nibbles 1, 15, 0, 3. -/
theorem test_perm_hi : makes (.permB 1 0 2 4 10) (bare.grp (fun g => uni 11 0x7f6f5f4f (uni 8 0x44332211 (flat 4 0x1ff50f39 g)))) (fun t =>
    (itsGroup t).vlane 10 3 == 0x227f1144) = true := by decide +kernel

/-- 05 R165: the smallest unsigned value of the split's lanes reaches every lane of it. -/
theorem test_gred_min : makes (.gredMin 1 0 14 14) (bare.grp (lanes 14 [7, 0xfffffff0, 5, 6, 1])) (fun t =>
    (itsGroup t).vlane 14 0 == 5 && (itsGroup t).vlane 14 3 == 5 && (itsGroup t).vlane 14 4 == 1) = true := by decide +kernel

/-- 05 R166: lanes 0 to 3 with the lengths 3, 0, 2, 4 from index 4. -/
theorem test_rbal_example : makes (.rbal 0 2 6 4) (bare.grp (fun g => uni 2 4 (lanes 6 [3, 0, 2, 4] g))) (fun t =>
    (List.range 4).map (fun l => ((itsGroup t).vlane 8 l, (itsGroup t).vlane 9 l)) == [(2, 1), (3, 0), (3, 1), (3, 2)]) = true := by decide +kernel

/-- 05 R158: with p3 1 in lane 0 only, `sel v1, !p3, v2, v3` takes v3 there. -/
theorem test_sel_example : makes (.sel 1 0 0 3 3 2 1) (bare.grp (fun g => prd 3 1 (flat 3 30 (flat 2 20 g)))) (fun t =>
    (itsGroup t).vlane 1 0 == 30 && (itsGroup t).vlane 1 1 == 20) = true := by decide +kernel

/-- 04 R116: the deferral (0x44, lanes 12 to 15) runs, and the merge (0x70, lanes 8 to 11) is recorded. -/
theorem test_join_example : makes .join { bare.grp (fun g => { g with splits := [⟨0x70, 0xf00, 2, [.defer 0x44 0xf000], .none, [], none⟩] }) with
      cur := ⟨0, 0, 2⟩, unit := { UnitCtx.reset with addr := 0x70, npc := 0x72 } } (fun t =>
    (itsGroup t).splits.map (fun sp => (sp.pc, sp.mask, sp.stack)) == [(0x44, 0xf000, [.merge 0x70 0xf00])]) = true := by decide +kernel

/-- 04 R114: a divergent `bra` of lanes 8 to 15 with p3 1 in lanes 8 to 11 and no free index defers lanes 12 to 15. -/
theorem test_bra_defers : makes (.bra 0x10 0 0 3) { bare.grp (fun g => prd 3 0xf00 { g with splits := [⟨0x40, 0xff00, 2, [], .none, [], none⟩,
        ⟨0x80, 1, 0, [], .none, [], none⟩, ⟨0x80, 2, 1, [], .none, [], none⟩, ⟨0x80, 4, 3, [], .none, [], none⟩] }) with
      cur := ⟨0, 0, 2⟩, unit := { UnitCtx.reset with addr := 0x40, npc := 0x44 } } (fun t =>
    ((itsGroup t).splits.filter (fun sp => sp.idx == 2)).map (fun sp => (sp.pc, sp.mask, sp.stack)) == [(0x60, 0xf00, [.defer 0x44 0xf000])]) = true := by
  decide +kernel

/-- 05 R174: `trap #5` records 0x02 with its number. -/
theorem test_trap : makes (.trap 5) bare (fun t =>
    ((tabGet t.teams (teamKey 1 0)).map (fun tm => tm.traps.map (fun x => (x.code, x.detail0)))) == some [(2, 5)]) = true := by decide +kernel

/-- 06 R182: `st.w` of v3 at [k6 + v2 * 4]: little-endian bytes in the page's frame. -/
theorem test_store_word : makes (.st 0 0 2 2 3 3) (mapped.grp (fun g => lanes 2 [0, 1, 2, 3] (flat 3 0x11223344 (uni 6 0x10100 g)))) (fun t =>
    (List.range 4).map (fun j => memGet t.mem (0x30010104 + j)) == [0x44, 0x33, 0x22, 0x11]) = true := by decide +kernel

/-- 06 R182: `ld.w v3, [k4 + v2*4]` (02). -/
theorem test_load_word : makes (.ld 0 0 0 2 2 2 3) ((mapped.grp (fun g => lanes 2 [0, 1, 2, 3] (uni 4 0x10100 g))).writeNum 0x30010104 4 0xdeadbeef) (fun t =>
    (itsGroup t).vlane 3 1 == 0xdeadbeef && (itsGroup t).vlane 3 0 == 0) = true := by decide +kernel

/-- 06 R186: `sts.w v5, [k9 + v6*4]`. -/
theorem test_sts : makes (.sts 0 0 2 6 9 5) (bare.grp (fun g => lanes 6 [0, 1, 2, 3] (flat 5 7 (uni 9 0x40 g)))) (fun t =>
    memGet t.mem (spadAddr 0 0 + 0x40 + 4 * 3) == 7) = true := by decide +kernel

/-- 07 R212, 03 R88: lanes at one address add one after another; the highest lane sees all others' sums. -/
theorem test_atom_add : makes (.atomAdd 0 0 0 12 5 1) (mapped.grp (fun g => flat 12 1 (flat 11 0 (flat 10 0x10200 g)))) (fun t =>
    memGet t.mem 0x30010200 == 4 && (itsGroup t).vlane 1 3 == 3) = true := by decide +kernel

/-- 06 R198: `binit [k8], k7` writes expect and arrive and tags its granule. -/
theorem test_binit : makes (.binit 0 7 8) (bare.grp (fun g => uni 8 0x100 (uni 7 9 g))) (fun t =>
    (barAt t (spadAddr 0 0 + 0x100)).expect == 9 && (barAt t (spadAddr 0 0 + 0x100)).arrive == 9 && tagged t (spadAddr 0 0 + 0x100)) = true := by decide +kernel

/-- 07 R225: the leaf 0xc003_0800_0020_0004: class 0x0030, writable, hot, frame 0x20_0004_0000. -/
theorem test_leaf_fields : (fun x : Xlat => (x.region, x.cls, x.w, x.d, x.tier, x.frame)) ⟨0, 65536, 0xc003080000200004, 0, 0, 0⟩ =
    (0, 0x0030, true, false, 0, 0x2000040000) := by decide +kernel

/-- 08 R250: 1.5 as UQ16.16. -/
theorem test_uq16 : uq16 (f32Num 0x3fc00000) = 0x00018000 := by decide +kernel

/-- 08 R258: the block of the conversion example: scale 0x7f, elements 7, 6, 0, 12, 4, 8. -/
theorem test_mx_block : (fun x : Nat × List Nat => (x.1, x.2.take 7)) (mxBlock .mxe2m1 (([0x40f00000, 0x40a00000, 0x3e800000, 0xc0200000, 0x3fe00000, 0x80000000] ++
    List.replicate 26 0).map f32Num)) = (0x7f, [7, 6, 0, 12, 4, 8, 0]) := by decide +kernel

/-- A state into which the board's controller has sent a command. -/
def asked (op : Nat) (c : Cmd) (s : State) : State := { s with fw := { s.fw with mail := [⟨c.master, cmdBits op c, 0⟩] } }

/-- 17 R474: from reset a master claims the device; the interrupt of vector 0 is raised. -/
theorem test_claim : makes (.claim ⟨.board, 7, 0, 0, 0, 0, 0, 0, 0, 0⟩) (asked 0x02 ⟨.board, 7, 0, 0, 0, 0, 0, 0, 0, 0⟩ State.reset)
    (fun t => t.fw.owner == some .board && t.irqs == [0] && t.fw.mail == []) = true := by decide +kernel

/-! ### Witnesses: for each statement's hypotheses a state and operands that meet them together -/

/-- The context of the one split. -/
def itsCtx (s : State) : Ctx :=
  { core := 0, key := teamKey 1 0, team := (tabGet s.teams (teamKey 1 0)).getD (Team.start 0 0 0 0 0 0 0 []), live := itsGroup s, group := itsGroup s
    split := (itsGroup s).splits.headD ⟨0, 0, 0, [], .none, [], none⟩, q := (tabGet s.queues 0).getD hostQueue
    grid := (tabGet s.grids 1).getD ⟨0, hostLaunch, [], [], false, false, false, none, none, false⟩ }

/-- The piece of an access. -/
def Look.part (k : Look) : Piece := k.piece.getD ⟨0, 0, 0, ⟨0, 0, 0, 0, 0, 0⟩, false, .slice⟩

/-- `bare`, `mapped` with registers that hold values. -/
def regs : State := bare.grp (fun g => uni 2 4 (prd 3 5 (flat 3 30 (lanes 2 [1, 2, 3, 4] g))))

/-- The register statements: a context, an effect, and room for it. -/
theorem witness_registers : ctx? regs = some (itsCtx regs) ∧
    (∃ e, laneIntegerEff regs (itsCtx regs) (.add 2 1 1 3 2 1) = some e ∧ Fits regs (itsCtx regs) e) ∧
    (∃ e, uniformEff regs (itsCtx regs) (.kadd 1 2 2 31) = some e ∧ Fits regs (itsCtx regs) e) ∧
    (∃ e, floatEff regs (itsCtx regs) (.fma 3 0 1 3 2 63) = some e ∧ Fits regs (itsCtx regs) e) ∧
    (∃ e, crossEff regs (itsCtx regs) (.rbal 1 2 2 31) = some e ∧ Fits regs (itsCtx regs) e) ∧
    Fits regs (itsCtx regs) { frees := mark 1 2 1 ++ mark 1 3 1, v := [(1, acting regs (itsCtx regs), fun _ => 0)] } := by
  refine ⟨by decide +kernel, ⟨_, rfl, ?_⟩, ⟨_, rfl, ?_⟩, ⟨_, rfl, ?_⟩, ⟨_, rfl, ?_⟩, ?_⟩ <;> unfold Fits <;> decide +kernel

/-- R157: a decoded word of major 0x19. -/
theorem witness_predicate_word : (0x02000033 + 2 ^ 7) % 2 ^ 7 = 51 ∧ decodeTableWord 32 (0x02000033 + 2 ^ 7) = some (.por 0 0 1) := by decide +kernel

/-! Control (04, 05) -/

/-- The group of `test_bra_defers`: splits at every index. -/
def fullGroup (g : Group) : Group := prd 3 0xf00 { g with splits := [⟨0x40, 0xff00, 2, [], .none, [], none⟩, ⟨0x80, 1, 0, [], .none, [], none⟩, ⟨0x80, 2, 1, [], .none, [], none⟩,
  ⟨0x80, 4, 3, [], .none, [], none⟩] }
def fullSplits : State := { bare.grp fullGroup with cur := ⟨0, 0, 2⟩ }
def fullStack : State := fullSplits.grp (fun g => g.modSplit 2 (fun sp => { sp with stack := List.replicate 8 (.merge 0 1) }))

/-- `bra`: all taken, none taken, a free index, none free with room, none free without. -/
theorem witness_branch : ctx? regs = some (itsCtx regs) ∧ (itsCtx regs).split.mask &&& ~~~branchTaken (itsCtx regs) 0 0 = 0 ∧
    ((itsCtx regs).split.mask &&& ~~~branchTaken (itsCtx regs) 2 0 ≠ 0 ∧ branchTaken (itsCtx regs) 2 0 = 0) ∧
    ((itsCtx regs).split.mask &&& ~~~branchTaken (itsCtx regs) 3 1 ≠ 0 ∧ branchTaken (itsCtx regs) 3 1 ≠ 0 ∧ lowestFree (itsCtx regs).group = some 1) := by
  decide +kernel
theorem witness_branch_full : ctx? fullSplits = some (itsCtx fullSplits) ∧ (itsCtx fullSplits).split.mask &&& ~~~branchTaken (itsCtx fullSplits) 3 0 ≠ 0 ∧
    branchTaken (itsCtx fullSplits) 3 0 ≠ 0 ∧ lowestFree (itsCtx fullSplits).group = none ∧ (itsCtx fullSplits).split.stack.length < 8 ∧
    ctx? fullStack = some (itsCtx fullStack) ∧ (itsCtx fullStack).split.mask &&& ~~~branchTaken (itsCtx fullStack) 3 0 ≠ 0 ∧
    branchTaken (itsCtx fullStack) 3 0 ≠ 0 ∧ lowestFree (itsCtx fullStack).group = none ∧ 8 ≤ (itsCtx fullStack).split.stack.length := by decide +kernel

/-- A target of all lanes in v4:v5, return stacks with one address, and full or empty ones. -/
def called : State := bare.grp (fun g => flat 5 0 (flat 4 0x10040 { g with ret := (List.range 4).map (fun l => (l, [0x10040])) }))
def deepStacks : State := bare.grp (fun g => { g with ret := (List.range 4).map (fun l => (l, List.replicate 16 0)) })

theorem witness_transfer : ctx? called = some (itsCtx called) ∧ (itsCtx called).split.mask ≠ 0 ∧ branchTarget called 0x20 = 0x10040 ∧
    (∀ l < 32, (itsCtx called).split.mask.getLsbD l = true → ((itsCtx called).group.rets l).length < 16) ∧ canonical 0x10040 = true ∧
    (0x10040#64).toNat % 2 = 0 ∧ (∀ l < 32, (itsCtx called).split.mask.getLsbD l = true → (itsCtx called).group.vpair (2 * (2#5).toNat) l = 0x10040) ∧
    (∀ l < 32, (itsCtx called).split.mask.getLsbD l = true → ((itsCtx called).group.rets l).head? = some 0x10040) ∧ (itsCtx called).split.stack.length < 8 := by
  decide +kernel
theorem witness_transfer_traps : ctx? deepStacks = some (itsCtx deepStacks) ∧
    (itsCtx deepStacks).split.mask &&& maskOf (fun l => decide (16 ≤ ((itsCtx deepStacks).group.rets l).length)) ≠ 0 ∧ (itsCtx deepStacks).split.stack.length < 8 ∧
    (itsCtx regs).split.mask &&& maskOf (fun l => decide ((itsCtx regs).group.rets l = [])) ≠ 0 ∧ (itsCtx regs).split.stack.length < 8 ∧
    (itsCtx regs).split.mask &&& maskOf (fun l => !decide (((itsCtx regs).group.vpair (2 * (1#5).toNat) l).toNat % 2 = 0) ||
      !canonical ((itsCtx regs).group.vpair (2 * (1#5).toNat) l)) ≠ 0 := by decide +kernel

/-! Memory units (06) -/

/-- Addresses of lanes: k4:k5 is the second page, v2 the index; k6 lies in it too. -/
def memS : State := mapped.grp (fun g => flat 3 0x11223344 (lanes 2 [0, 1, 2, 3] (uni 4 0x10100 (uni 6 0x10200 g))))

theorem witness_load : ctx? memS = some (itsCtx memS) ∧ (∃ ea, loadForm memS (itsCtx memS) (.ld 1 1 0 1 2 2 3) = some (3, 2, true, [2], ea) ∧
      ∀ l < 32, (acting memS (itsCtx memS)).getLsbD l = true → (lookAt memS (itsCtx memS) .load (tabGet (itsCtx memS).group.lastPage l) true l (ea l) 2 2).opens memS
        (lookAt memS (itsCtx memS) .load (tabGet (itsCtx memS).group.lastPage l) true l (ea l) 2 2).part) ∧ Calm memS (itsCtx memS) ∧ memS.past = [] ∧
    Fits memS (itsCtx memS) { frees := [2], v := loadedWords 3 2 true (acting memS (itsCtx memS)) (fun _ => []) } := by
  refine ⟨by decide +kernel, ⟨_, rfl, ?_⟩, ?_, rfl, ?_⟩ <;> (try unfold Look.opens) <;> (try unfold Calm) <;> (try unfold Fits) <;> decide +kernel

theorem witness_store : ctx? memS = some (itsCtx memS) ∧ (∃ ea, storeForm memS (itsCtx memS) (.st 0 0 3 2 2 4) = some (4, 8, [], ea) ∧
      ∀ l < 32, (acting memS (itsCtx memS)).getLsbD l = true → (lookAt memS (itsCtx memS) .store (tabGet (itsCtx memS).group.lastPage l) true l (ea l) 8 8).opens memS
        (lookAt memS (itsCtx memS) .store (tabGet (itsCtx memS).group.lastPage l) true l (ea l) 8 8).part) ∧ Calm memS (itsCtx memS) ∧ memS.Inv ∧
    Fits memS (itsCtx memS) {} := by
  refine ⟨by decide +kernel, ⟨_, rfl, ?_⟩, ?_, ?_, ?_⟩ <;> (try unfold Look.opens) <;> (try unfold Calm) <;> (try unfold Fits) <;> decide +kernel

theorem witness_whole_load : ctx? memS = some (itsCtx memS) ∧ Calm memS (itsCtx memS) ∧
    (lookAt memS (itsCtx memS) .load none true (lowLane (itsCtx memS).split.mask) (unitEa memS (itsCtx memS).group 2).toNat 8 8).opens memS
      (lookAt memS (itsCtx memS) .load none true (lowLane (itsCtx memS).split.mask) (unitEa memS (itsCtx memS).group 2).toNat 8 8).part ∧
    (∀ j < 8, (lookAt memS (itsCtx memS) .load none true j (((unitEa memS (itsCtx memS).group 2).toNat + 128 * j) % 2 ^ 64) 128 128).opens memS
      (lookAt memS (itsCtx memS) .load none true j (((unitEa memS (itsCtx memS).group 2).toNat + 128 * j) % 2 ^ 64) 128 128).part) ∧
    Fits memS (itsCtx memS) { v := (List.range 8).map (fun j => (56 + j, 0xffffffff#32, fun _ => 0)) } := by
  refine ⟨by decide +kernel, ?_, ?_, ?_, ?_⟩ <;> (try unfold Look.opens) <;> (try unfold Calm) <;> (try unfold Fits) <;> decide +kernel

theorem witness_scratchpad : ctx? memS = some (itsCtx memS) ∧ memS.Inv ∧ (∃ d n fr look, spadForm memS (itsCtx memS) (.lds 1 0 2 2 2 5) = some (false, d, n, fr, look) ∧
      (∀ l < 32, (acting memS (itsCtx memS)).getLsbD l = true → (look l).traps = []) ∧
      Fits memS (itsCtx memS) { frees := fr, v := loadedWords d n false (acting memS (itsCtx memS)) (fun _ => []) }) ∧
    ∃ d n fr look, spadForm memS (itsCtx memS) (.sts 0 0 0 2 3 5) = some (true, d, n, fr, look) ∧
      (∀ l < 32, (acting memS (itsCtx memS)).getLsbD l = true → (look l).traps = []) ∧ Fits memS (itsCtx memS) { frees := fr } := by
  refine ⟨by decide +kernel, by decide +kernel, ⟨_, _, _, _, rfl, ?_, ?_⟩, ⟨_, _, _, _, rfl, ?_, ?_⟩⟩ <;> (try unfold Fits) <;> decide +kernel

/-- A word at k4:k5 that has reached 5 and one that has not. -/
def waited : State := (memS.grp (uni 8 5)).writeNum 0x30010100 8 9
theorem witness_mwait : ctx? waited = some (itsCtx waited) ∧ Calm waited (itsCtx waited) ∧ replayFull waited (itsCtx waited) = false ∧
    (lookAt waited (itsCtx waited) .load none false (lowLane (itsCtx waited).split.mask) (unitEa waited (itsCtx waited).group 2).toNat 8 8).opens waited
      (lookAt waited (itsCtx waited) .load none false (lowLane (itsCtx waited).split.mask) (unitEa waited (itsCtx waited).group 2).toNat 8 8).part ∧
    reached (waited.num 0x30010100 8) (((itsCtx waited).group.kpair 8).toNat % 2 ^ 48) = true ∧
    reached (memS.num 0x30010100 8) (((itsCtx waited).group.kpair 8).toNat % 2 ^ 48) = false := by
  refine ⟨by decide +kernel, ?_, ?_, ?_, ?_, ?_⟩ <;> (try unfold Look.opens) <;> (try unfold Calm) <;> decide +kernel

/-- An `mwait` in flight. -/
def aWait : MWait := ⟨0x10100, 5, 8, false⟩
def waitOp : Op := { team := teamKey 1 0, group := 0, split := 0, core := 0, queue := 0, grid := 1, unit := 0x10000, npc := 0x10004, lanes := 0xf, mask := 0xf, issued := 0
                     halted := false, own := none, made := [], marked := [], body := .mwait aWait }
def waiting : State := { waited with ops := [(1, waitOp)], nextOp := 2 }
theorem witness_reread : waiting.ops.find? (fun x => x.2.team == teamKey 1 0 && x.2.group == 0 && x.2.split == 0 && !x.2.halted &&
      (match x.2.body with | .mwait _ => true | _ => false)) = some (1, waitOp) ∧ waitOp.body = .mwait aWait ∧ opCtx waiting waitOp = some (itsCtx waiting) ∧
    Calm waiting (itsCtx waiting) ∧ (lookAt waiting (itsCtx waiting) .load none false (lowLane waitOp.lanes) aWait.va.toNat 8 8).opens waiting
      (lookAt waiting (itsCtx waiting) .load none false (lowLane waitOp.lanes) aWait.va.toNat 8 8).part ∧ reached (waiting.num 0x30010100 8) aWait.target = true ∧
    returnWaits waiting (itsCtx waiting) 1 = false ∧ (itsCtx waiting).group.splits ≠ [] := by
  refine ⟨by decide +kernel, by decide +kernel, by decide +kernel, ?_, ?_, ?_, ?_, ?_⟩ <;> (try unfold Look.opens) <;> (try unfold Calm) <;> decide +kernel

/-! Atomics, bank updates, fences (07) -/

/-- v10:v11 is an address of the second page, v12 the operand. -/
def atomS : State := mapped.grp (fun g => flat 12 1 (flat 11 0 (lanes 10 [0x10200, 0x10200, 0x10204, 0x10208] g)))

theorem witness_atomic : atomicForm (.atomAdd 0 1 1 12 5 2) = some (.add, 0, 1, 1, 12, 5, some 2) ∧ ctx? atomS = some (itsCtx atomS) ∧ Calm atomS (itsCtx atomS) ∧
    (∀ l < 32, (acting atomS (itsCtx atomS)).getLsbD l = true →
      (lookAt atomS (itsCtx atomS) .atomic (tabGet (itsCtx atomS).group.lastPage l) true l ((itsCtx atomS).group.vpair 10 l).toNat 4 4).opens atomS
        (lookAt atomS (itsCtx atomS) .atomic (tabGet (itsCtx atomS).group.lastPage l) true l ((itsCtx atomS).group.vpair 10 l).toNat 4 4).part) ∧
    Fits atomS (itsCtx atomS) { frees := mark 1 10 2 ++ mark 1 12 1, v := [(2, acting atomS (itsCtx atomS), fun _ => 0)] } := by
  refine ⟨by decide +kernel, by decide +kernel, ?_, ?_, ?_⟩ <;> (try unfold Look.opens) <;> (try unfold Calm) <;> (try unfold Fits) <;> decide +kernel

theorem witness_bank : bankForm (.bredMax 3 0 0 12 5) = some (true, 2, 3, 0, 0, 12, 5) ∧ bankForm (.bupdAdd 2 0 0 12 5) = some (false, 0, 2, 0, 0, 12, 5) ∧
    ctx? atomS = some (itsCtx atomS) ∧ Calm atomS (itsCtx atomS) ∧
    (∀ l < 32, (acting atomS (itsCtx atomS)).getLsbD l = true →
      (lookAt atomS (itsCtx atomS) .bank (tabGet (itsCtx atomS).group.lastPage l) true l ((itsCtx atomS).group.vpair 10 l).toNat 4 4).opens atomS
        (lookAt atomS (itsCtx atomS) .bank (tabGet (itsCtx atomS).group.lastPage l) true l ((itsCtx atomS).group.vpair 10 l).toNat 4 4).part) := by
  refine ⟨rfl, rfl, by decide +kernel, ?_, ?_⟩ <;> (try unfold Look.opens) <;> (try unfold Calm) <;> decide +kernel

/-- An update-only line of the core; its flush is due at cycle 1,024. -/
def aLine : UpdLine := { pa := 0x30010200, op := 0, ty := 2, elems := [(0, 5)], first := 0, team := teamKey 1 0, asid := 0, vas := [0x10200] }
def openLine : State := mapped.modCore 0 (fun k => { k with upd := [aLine] })
theorem witness_update_timeout : (openLine.core 0).upd.filter (fun w => w.pa == 0x30010200) = [aLine] ∧ flushHeld openLine 0 (fun w => w.pa == 0x30010200) = false ∧ openLine.cycle < aLine.first + 1024 ∧
    aLine.first + 1024 ≤ { openLine with cycle := 1024 }.cycle ∧ ({ openLine with cycle := 1024 }.core 0).upd.filter (fun w => w.pa == 0x30010200) = [aLine] := by
  decide +kernel

theorem witness_fence : ctx? regs = some (itsCtx regs) ∧ acquireWaits regs (itsCtx regs) = false ∧ releaseWaits regs (itsCtx regs) = false ∧
    (regs.core (itsCtx regs).core).upd = [] ∧ regs.wc = [] := by decide +kernel

/-- An `mwait` of the split in flight holds a fence back. -/
def fenced : State := waiting.grp (fun g => g.modSplit 0 (fun sp => { sp with windows := [(1, 2)] }))
theorem witness_fence_waits : ctx? fenced = some (itsCtx fenced) ∧ acquireWaits fenced (itsCtx fenced) = true ∧ releaseWaits fenced (itsCtx fenced) = true := by
  decide +kernel

/-! Barrier objects (06) -/

/-- k8 an offset, k7 a count; the granule is free, or holds an object of one arrival. -/
def offS : State := bare.grp (fun g => uni 7 9 (uni 8 0x100 g))
def barS : State := { (putBar offS (spadAddr 0 0 + 0x100) ⟨0, 1, 1, 0, 0⟩) with tags := [spadAddr 0 0 + 0x100] }
theorem witness_binit : ctx? offS = some (itsCtx offS) ∧ offS.Inv ∧ barPlace offS (itsCtx offS) false ((itsCtx offS).group.kread 8).toNat = [] ∧
    barPa (itsCtx offS) false ((itsCtx offS).group.kread 8).toNat = spadAddr 0 0 + 0x100 ∧ tagged offS (spadAddr 0 0 + 0x100) = false ∧
    ((itsCtx offS).group.kread 7).toNat = 9 := by decide +kernel
theorem witness_barrier : ctx? barS = some (itsCtx barS) ∧ barS.Inv ∧ ReachesBar barS (itsCtx barS) 0 8 (spadAddr 0 0 + 0x100) ∧ acquireWaits barS (itsCtx barS) = false ∧ releaseWaits barS (itsCtx barS) = false ∧ replayFull barS (itsCtx barS) = false ∧
    (barS.core (itsCtx barS).core).upd = [] ∧ barS.wc = [] ∧ (barAt barS (spadAddr 0 0 + 0x100)).arrive ≠ 0 ∧ ((itsCtx barS).group.kread 7).toNat ≤ 0x7fffffff ∧
    (barAt barS (spadAddr 0 0 + 0x100)).tx.toInt + ((itsCtx barS).group.kread 7).toNat ≤ 0x7fffffff ∧
    (barAt barS (spadAddr 0 0 + 0x100)).phase ≠ ((itsCtx barS).group.kread 7).toNat ∧ (barAt barS (spadAddr 0 0 + 0x100)).phase = ((itsCtx barS).group.kread 6).toNat ∧
    (barAt barS (spadAddr 0 0 + 0x100)).waiters = 0 := by
  refine ⟨by decide +kernel, by decide +kernel, ?_, ?_⟩ <;> (try unfold ReachesBar) <;> decide +kernel

/-- Barrier traps: an offset that is not a multiple of 16, one without an object, one with an object that waits for nothing but has waiters. -/
def oddS : State := bare.grp (uni 8 0x104)
def spentS : State := { (putBar offS (spadAddr 0 0 + 0x100) ⟨2, 1, 0, 5, 0⟩) with tags := [spadAddr 0 0 + 0x100] }
theorem witness_barrier_traps : ctx? oddS = some (itsCtx oddS) ∧ 0x104 + 16 ≤ (itsCtx oddS).team.spadSize ∧ ((itsCtx oddS).group.kread 8).toNat % 16 ≠ 0 ∧
    ctx? offS = some (itsCtx offS) ∧ ((itsCtx offS).group.kread 8).toNat % 16 = 0 ∧ tagged offS (barPa (itsCtx offS) false 0x100) = false ∧
    ctx? spentS = some (itsCtx spentS) ∧ tagged spentS (barPa (itsCtx spentS) false 0x100) = true ∧ (barAt spentS (barPa (itsCtx spentS) false 0x100)).arrive = 0 ∧
    releaseWaits spentS (itsCtx spentS) = false ∧ (barAt spentS (barPa (itsCtx spentS) false 0x100)).waiters ≠ 0 := by decide +kernel

/-- No object for `barv` and `bwait`, a count of 0, and an announcement that passes the range of tx. -/
def brimS : State := { (putBar offS (spadAddr 0 0 + 0x100) ⟨0, 1, 1, 0x7fffffff, 0⟩) with tags := [spadAddr 0 0 + 0x100] }
theorem witness_barrier_more_traps : releaseWaits offS (itsCtx offS) = false ∧ replayFull offS (itsCtx offS) = false ∧ offS.unit.addr = (itsCtx offS).split.pc ∧
    (∀ sp ∈ (itsCtx offS).live.splits, sp.wait = .none) ∧ ((itsCtx offS).group.kread 5).toNat = 0 ∧ ctx? brimS = some (itsCtx brimS) ∧
    tagged brimS (barPa (itsCtx brimS) false 0x100) = true ∧
    0x7fffffff < (barAt brimS (barPa (itsCtx brimS) false 0x100)).tx.toInt + ((itsCtx brimS).group.kread 7).toNat := by decide +kernel

theorem witness_tsync : ctx? regs = some (itsCtx regs) ∧ releaseWaits regs (itsCtx regs) = false ∧ replayFull regs (itsCtx regs) = false ∧ (regs.core (itsCtx regs).core).upd = [] ∧ regs.wc = [] ∧
    (itsCtx regs).grid.launch.clustered = false := by decide +kernel
def clustered : State := { bare with grids := [(1, ⟨0, { hostLaunch with clustered := true }, [], [], false, false, false, some 0, none, false⟩)] }
theorem witness_clsync : ctx? clustered = some (itsCtx clustered) ∧ releaseWaits clustered (itsCtx clustered) = false ∧ replayFull clustered (itsCtx clustered) = false ∧
    (clustered.core (itsCtx clustered).core).upd = [] ∧ clustered.wc = [] ∧ (itsCtx clustered).grid.launch.clustered = true := by decide +kernel

/-! Prefixes, control, exit (04, 05) -/

theorem witness_snap : ctx? regs = some (itsCtx regs) := by decide +kernel

/-- A team of 17 groups, 16 of them active. -/
def many : State := { bare.modCore 0 (fun k => { k with active := List.range 16 }) with
  teams := [(teamKey 1 0, { Team.start 0 1 0 17 4096 0 0x10000 [] with st := .resident, budget := 1088 })] }
theorem witness_yield : ctx? regs = some (itsCtx regs) ∧
    ((itsCtx regs).team.groups.filter (fun g => g.2.splits.any (fun sp => couldIssue regs { itsCtx regs with group := g.2, split := sp }))).length ≤ 16 ∧
    ctx? many = some (itsCtx many) ∧
    16 < ((itsCtx many).team.groups.filter (fun g => g.2.splits.any (fun sp => couldIssue many { itsCtx many with group := g.2, split := sp }))).length ∧
    ((itsCtx many).team.groups.filter (fun g => g.2.splits.any (fun sp => couldIssue many { itsCtx many with group := g.2, split := sp }))).filter
      (fun g => !(many.core 0).active.contains g.1) = [(16, Group.start 16 0x10000 [])] := by decide +kernel

/-- The one split with a stack. -/
def stacked (st : List StackEnt) : State := bare.grp (fun g => { g with splits := [⟨0x10000, 0xf, 0, st, .none, [], none⟩] })
/-- A split that stands lower, and one that waits at the same `join`. -/
def behind : State := bare.grp (fun g => { g with splits := [⟨0x10000, 0xf, 0, [], .none, [], none⟩, ⟨0xf000, 0xf0, 1, [], .none, [], none⟩] })
def joined : State := bare.grp (fun g => { g with splits := [⟨0x10000, 0xf, 1, [], .none, [], none⟩, ⟨0x10000, 0xf0, 0, [], .join 0x10000 0, [], none⟩] })

theorem witness_join : (∀ st ∈ [[StackEnt.defer 0x44 0xf0], [.merge 0x20000 0xf0], [.merge 0x10000 0xf0, .defer 0x44 0xf00], [.merge 0x10000 0xf0], []],
      ctx? (stacked st) = some (itsCtx (stacked st)) ∧ (itsCtx (stacked st)).split.stack = st ∧ (itsCtx (stacked st)).split.idx < 4) ∧
    bare.unit.addr = 0x10000 ∧ (0x20000#64 ≠ 0x10000) ∧ ctx? behind = some (itsCtx behind) ∧
    (∃ o ∈ (itsCtx behind).group.splits, o.idx ≠ (itsCtx behind).split.idx ∧ o.pc < bare.unit.addr) := by decide +kernel
/-- A split that has waited 2,048 cycles. -/
def late : State := { bare.grp (fun g => { g with splits := [⟨0x10000, 0xf, 0, [], .join 0x10000 0, [], none⟩, ⟨0xf000, 0xf0, 1, [], .none, [], none⟩] }) with cycle := 2048 }
theorem witness_join_timeout : ctxOf late (teamKey 1 0) 0 0 = some (itsCtx late) ∧ (itsCtx late).split.wait = .join 0x10000 0 ∧ 0 + 2048 ≤ runTime late (itsCtx late).team ∧
    (itsCtx late).group.stopped = false ∧ (itsCtx late).split.idx < 4 ∧ (itsCtx late).split.stack = [] ∧
    runTime { late with cycle := 2047 } (itsCtx late).team < 0 + 2048 := by decide +kernel

/-- With the accesses before the `join` performed, and with one in flight. -/
def joining : State := { joined with ops := [(1, waitOp)], nextOp := 2, cur := ⟨0, 0, 1⟩ }.grp (fun g => g.modSplit 0 (fun sp => { sp with windows := [(1, 0)] }))
def atJoin (s : State) : Group := reSplit (itsCtx s) (fun sp => { sp with mask := (itsCtx s).split.mask, stack := [], wait := .join 0x10000 (runTime s (itsCtx s).team) }) []
theorem witness_join_performed : (itsCtx joining).split.idx = 1 ∧ ctx? joining = some (itsCtx joining) ∧ joinPerformed joining 0 (teamKey 1 0) (atJoin joining) 0x10000 = false ∧
    joinPerformed (stacked []) 0 (teamKey 1 0) (atJoin (stacked [])) 0x10000 = true ∧ (∀ o ∈ (atJoin (stacked [])).splits, o.idx = (itsCtx (stacked [])).split.idx) ∧
    joinPerformed late 0 (teamKey 1 0) (itsCtx late).live 0x10000 = true := by decide +kernel

theorem witness_active_set : (many.core 0).running = some ⟨.running, teamKey 1 0, 0, false, false⟩ ∧ tabGet many.teams (teamKey 1 0) = some (itsCtx many).team ∧
    (∀ g ∈ (List.range 16).map (· + 1), g ∈ ((itsCtx many).team.groups.filter (fun g => !g.2.splits.isEmpty)).map (·.1)) ∧ ((List.range 16).map (· + 1)).Nodup ∧
    ((List.range 16).map (· + 1)).length = Nat.min 16 (((itsCtx many).team.groups.filter (fun g => !g.2.splits.isEmpty)).map (·.1)).length ∧
    ¬ (∀ g ∈ [17], g ∈ ((itsCtx many).team.groups.filter (fun g => !g.2.splits.isEmpty)).map (·.1)) := by decide +kernel

/-- `exit` under a guard leaves lanes; without one, the youngest deferral runs, another split stays, another group stays, or the team ends. -/
def guarded : State := { regs with unit := { UnitCtx.reset with addr := 0x10000, npc := 0x10002, guard := some (0, 3) } }
theorem witness_exit : ctx? guarded = some (itsCtx guarded) ∧ (guarded.core 0).upd = [] ∧ (itsCtx guarded).split.mask &&& ~~~acting guarded (itsCtx guarded) ≠ 0 ∧
    ctx? (stacked [.merge 0 1, .defer 0x44 0xf0]) = some (itsCtx (stacked [.merge 0 1, .defer 0x44 0xf0])) ∧
    (itsCtx behind).split.mask &&& ~~~acting behind (itsCtx behind) = 0 ∧ (itsCtx behind).group.splits.filter (fun sp => sp.idx != 0) ≠ [] ∧
    (itsCtx many).split.mask &&& ~~~acting many (itsCtx many) = 0 ∧ (itsCtx many).group.splits.filter (fun sp => sp.idx != 0) = [] ∧
    (∃ g ∈ (itsCtx many).team.groups, g.1 ≠ (itsCtx many).group.num ∧ g.2.splits ≠ []) ∧
    lastSplit (itsCtx regs) = true ∧ endWaits regs (itsCtx regs) = false ∧ (itsCtx regs).group.splits.filter (fun sp => sp.idx != 0) = [] := by decide +kernel

/-- A conversion in flight keeps the team from ending. -/
def converting : State := { bare with ops := [(1, { waitOp with body := .conv { quant := true, fmt := .mxe2m1, bf := false, n := 1, dst := 0x200, dstSp := .spad, src := 0x400, srcSp := .spad } })], nextOp := 2 }
theorem witness_exit_waits : ctx? converting = some (itsCtx converting) ∧ lastSplit (itsCtx converting) = true ∧ endWaits converting (itsCtx converting) = true ∧
    (converting.core 0).upd = [] ∧ (itsCtx converting).group.splits.filter (fun sp => sp.idx != 0) = [] := by decide +kernel

/-! Words and the step (02) -/

/-- `mapped` with halfwords at its program counter. -/
def coded (w : Nat) : State := { mapped with mem := pageTables ++ cells 0x30010000 6 w }
/-- The same state after the cycle of its turn. -/
def ticked (s : State) : State := { s with cycle := s.cycle + 1 }
/-- What is fetched. -/
def gotHalves (s : State) : List Nat := match fetchUnit s (itsCtx s) with | .unit hs _ => hs | _ => []
def gotUses (s : State) : List (Xlat × Bool) := match fetchUnit s (itsCtx s) with | .unit _ u => u | _ => []

theorem witness_decode : Instr.wellFormed (.add 2 1 0 63 6 5) = true ∧ (∃ rest, decode [0x81, 0xc2, 0x38, 0x20, 7] = .ok (.add 0 1 0 7 6 5, rest)) := by
  refine ⟨by decide +kernel, [7], by decide +kernel⟩

theorem witness_step : TurnOf (coded 0x2038c281) (ticked (coded 0x2038c281)) (.issue ⟨0, 0, 0⟩) ∧
    ctxAt (ticked (coded 0x2038c281)) ⟨0, 0, 0⟩ = some (itsCtx (ticked (coded 0x2038c281))) ∧ (itsCtx (ticked (coded 0x2038c281))).split.wait = .none ∧
    replayFirst (ticked (coded 0x2038c281)) (itsCtx (ticked (coded 0x2038c281))) = none ∧ (itsCtx (ticked (coded 0x2038c281))).split.replay = none ∧
    ready (ticked (coded 0x2038c281)) (itsCtx (ticked (coded 0x2038c281))) = true ∧
    fetchUnit (ticked (coded 0x2038c281)) (itsCtx (ticked (coded 0x2038c281))) = .unit (gotHalves (ticked (coded 0x2038c281))) (gotUses (ticked (coded 0x2038c281))) ∧
    (parseUnit (gotHalves (ticked (coded 0x2038c281)))).body = some (.add 0 1 0 7 6 5) ∧ legalUnit none none (.add 0 1 0 7 6 5) = true ∧
    interlocked (startUnit (ticked (coded 0x2038c281)) ⟨0, 0, 0⟩ (itsCtx (ticked (coded 0x2038c281))) (gotHalves (ticked (coded 0x2038c281))) (gotUses (ticked (coded 0x2038c281))))
      (itsCtx (ticked (coded 0x2038c281))) none (.add 0 1 0 7 6 5) none = false := by
  refine ⟨Or.inl ⟨rfl, rfl, rfl⟩, ?_, ?_, ?_, ?_, ?_, ?_, ?_, ?_, ?_⟩ <;> decide +kernel

/-- A halfword that is no instruction, the halfword 0, and a unit that waits for the pair of an `mwait`. -/
def busyPair : State := { coded 0x3ff8001d with ops := [(1, { waitOp with body := .mwait ⟨0x10100, 5, 0, false⟩ })], nextOp := 2 }
theorem witness_step_other : (parseUnit (gotHalves (coded 0x1a))).body = none ∧ (parseUnit (gotHalves (coded 0))).body = some (.mov16 0 0) ∧
    legalUnit none none (.mov16 0 0) = false ∧ fetchUnit (coded 0) (itsCtx (coded 0)) = .unit (gotHalves (coded 0)) (gotUses (coded 0)) ∧
    interlocked busyPair (itsCtx busyPair) none (.kaddi 0x7ff 0 0) none = true ∧ (parseUnit (gotHalves busyPair)).body = some (.kaddi 0x7ff 0 0) ∧
    legalUnit none none (.kaddi 0x7ff 0 0) = true := by decide +kernel

/-- Other turns: no team on the core, a split that waits, one that is not ready, an event, the outside's actions. -/
def turned (s : State) (a : Act) : State := { s with agenda := [⟨3, a⟩] }
theorem witness_turn : ∀ a ∈ [Act.issue ⟨1, 0, 0⟩, .event .snapshotLatch, .displaceLine 4, .bitError 7 true, .bitError 7 false],
    TurnOf (turned bare a) { bare with cycle := 3 } a := by
  intro a _; exact Or.inr ⟨⟨3, a⟩, [], rfl, rfl, rfl⟩
theorem witness_other_turns : ctxAt bare ⟨1, 0, 0⟩ = none ∧ ctxAt late ⟨0, 0, 0⟩ = some (itsCtx late) ∧ (itsCtx late).split.wait ≠ .none ∧
    ready { bare with cores := [(0, { bare.core 0 with active := [] })] } (itsCtx bare) = false ∧ (itsCtx bare).split.wait = .none ∧ wordBits .snapshotLatch = 0 := by
  decide +kernel

/-- Fetches: a program counter that is not canonical, a page without an entry, a page of a class that the queue does not admit. -/
def astray (pc : DWord) (s : State) : State := s.grp (fun g => { g with splits := [⟨pc, 0xf, 0, [], .none, [], none⟩] })
def denied : State := { coded 0x2038c281 with queues := [(0, { hostQueue with grants := [(0, 1)] })], lineClass := [(0x600200, 0)] }
theorem witness_fetch : ctxAt (astray 0x200000000000000 mapped) ⟨0, 0, 0⟩ = some (itsCtx (astray 0x200000000000000 mapped)) ∧
    ready (astray 0x200000000000000 mapped) (itsCtx (astray 0x200000000000000 mapped)) = true ∧
    replayFirst (astray 0x200000000000000 mapped) (itsCtx (astray 0x200000000000000 mapped)) = none ∧ canonical 0x200000000000000 = false ∧
    canonical 0x20000 = true ∧ (translate mapped hostQueue none (some 0) 0 0x20000 false).1 = .invalid 0 0 ∧
    (∃ x, (translate denied ((tabGet denied.queues 0).getD hostQueue) none (some 0) 0 0x10000 false).1 = .leaf x ∧
      admits ((tabGet denied.queues 0).getD hostQueue) x.cls = false ∧
      admits ((tabGet denied.queues 0).getD hostQueue) (carried denied (x.pa 0x10000) x.cls) = true) := by
  refine ⟨by decide +kernel, by decide +kernel, by decide +kernel, by decide +kernel, by decide +kernel, by decide +kernel,
    ⟨0x10000, 65536, 0xc003080000003001, 0x20004008, 0, 0⟩, by decide +kernel, by decide +kernel, by decide +kernel⟩

/-- Halfwords of one encoded instruction at the program counter, as the fetch answers them. -/
def gotAt (s : State) (j : Nat) : Nat × Xlat × Bool :=
  match fetchHalf s (itsCtx s) (0x10000 + 2 * j) with | .got h x w => (h, x, w) | _ => (0, ⟨0, 0, 0, 0, 0, 0⟩, false)
theorem witness_fetch_encoded : Instr.wellFormed (.add 0 1 0 7 6 5) = true ∧ wordBits (.add 0 1 0 7 6 5) = 32 ∧
    ∀ j < 2, fetchHalf (coded 0x2038c281) (itsCtx (coded 0x2038c281)) ((itsCtx (coded 0x2038c281)).split.pc + BitVec.ofNat 64 (2 * j)).toNat =
      .got (natOfBytes (((encode (.add 0 1 0 7 6 5)).drop (2 * j)).take 2)) (gotAt (coded 0x2038c281) j).2.1 (gotAt (coded 0x2038c281) j).2.2 := by decide +kernel

theorem witness_invariant : State.reset.Inv ∧ (coded 0x2038c281).Inv ∧ leads (coded 0x2038c281) (fun _ => true) = true := by decide +kernel

/-! The managed heap (13) -/

/-- A heap of one page at 0x200000 with its bitmap at 0x18000; objects of 32 bytes stand at 0x200100 and, pinned once, at 0x200200. -/
def aHeap : Heap :=
  { desc := 0x11000, hbase := 0x200000, hbytes := 0x1000, cbase := 0, cbytes := 0, bitmap := 0x18000, fwdTab := 0x19000, refTab := 0x1a000, refCount := 0, trigger := 0
    flips := 0, cycles := 0, cycle := none, heal := false, healCmd := none, healFault := 0, healTried := [], fwd := [], autoAt := 0 }
def heapTables : List Host.Cell :=
  cells 0x20000000 8 0x8000000000200010 ++ cells 0x20001000 8 0x8000000000200020 ++ cells 0x20002000 8 0x8000000000200030 ++
    cells 0x20003000 8 0x8000000000200040 ++ cells 0x20003008 8 0xd003080000003200 ++ cells 0x20004000 8 0xc003080000003000 ++ cells 0x20004008 8 0xc003080000003001
def heapS : State :=
  { bare with heaps := [(0, aHeap)], mem := heapTables ++ cells 0x30018000 8 0x100010000 ++ cells 0x32000100 16 (32 * 2 ^ 96 + 0x30 * 2 ^ 80) ++
                cells 0x32000200 16 (32 * 2 ^ 96 + 0x30 * 2 ^ 80 + 2 ^ 64) }
/-- Every lane's h1 names the first object, h2 the pinned one; v2 holds offsets. -/
def refS : State := heapS.grp (fun g => refr 1 0x200100 (refr 2 0x2000000000200200 (lanes 2 [0, 4, 8, 28] (uni 4 0x10100 g))))
def obj1 : Res := .obj 0x200100 ⟨32, 0x30, 0, 0, false, false, 0⟩ 0x200100
def hd1 : Header := ⟨32, 0x30, 0, 0, false, false, 0⟩

/-- Being let through, as a truth value. -/
def Res.passes : Res → Bool
  | .null => true
  | .obj _ _ _ => true
  | .fail _ _ _ => false
  | .fault _ _ _ => false
theorem Res.lets_eq (r : Res) : r.lets = (r.passes = true) := by cases r <;> simp [Res.lets, Res.passes]

theorem witness_heap_load : ctx? refS = some (itsCtx refS) ∧ heapOf refS (itsCtx refS) = some aHeap ∧ Calm refS (itsCtx refS) ∧ RefsPass refS (itsCtx refS) 1 false ∧
    (∀ l < 32, (acting refS (itsCtx refS)).getLsbD l = true → laneRes refS (itsCtx refS) 1 l = obj1 ∧ ((itsCtx refS).group.vlane 2 l).toNat + 4 ≤ hd1.size ∧
      (bodyLook refS (itsCtx refS) .load l (0x200100 + 16 + ((itsCtx refS).group.vlane 2 l).toNat) 4 4 hd1).opens refS
        (bodyLook refS (itsCtx refS) .load l (0x200100 + 16 + ((itsCtx refS).group.vlane 2 l).toNat) 4 4 hd1).part) := by
  refine ⟨by decide +kernel, by decide +kernel, ?_, ?_, ?_⟩ <;> (try unfold Calm) <;> (try simp only [RefsPass, Res.lets_eq]) <;> (try unfold Look.opens) <;> decide +kernel
theorem witness_heap_load_fits : Fits refS (itsCtx refS) { frees := mark 1 2 1, v := loadedWords 5 4 false (acting refS (itsCtx refS)) (fun _ => [])
                                                           h := [healing refS (itsCtx refS) 1] } := by unfold Fits; decide +kernel

theorem witness_heap_store : aHeap.cycle = none ∧ refS.Inv ∧ RefsPass refS (itsCtx refS) 1 true ∧
    (∀ l < 32, (acting refS (itsCtx refS)).getLsbD l = true → laneRes refS (itsCtx refS) 1 l = obj1 ∧ ((itsCtx refS).group.vlane 2 l).toNat % 4 = 0 ∧
      narrowAt refS (itsCtx refS).team.queue 0x200100 = none ∧ (bodyLook refS (itsCtx refS) .store l (0x200100 + 16 + ((itsCtx refS).group.vlane 2 l).toNat) 4 1 hd1).opens refS
        (bodyLook refS (itsCtx refS) .store l (0x200100 + 16 + ((itsCtx refS).group.vlane 2 l).toNat) 4 1 hd1).part) ∧
    Fits refS (itsCtx refS) { frees := mark 1 2 1 ++ mark 0 5 1, h := [healing refS (itsCtx refS) 1] } := by
  refine ⟨by decide +kernel, by decide +kernel, ?_, ?_, ?_⟩ <;> (try simp only [RefsPass, Res.lets_eq]) <;> (try unfold Look.opens) <;> (try unfold Fits) <;> decide +kernel

/-- `hst` and `hld` at [k4 + v2 * 8]; the slots hold null. -/
theorem witness_references : (∀ l < 32, (acting refS (itsCtx refS)).getLsbD l = true → (laneRes refS (itsCtx refS) 1 l).lets ∧
      (lookAt refS (itsCtx refS) .store (tabGet (itsCtx refS).group.lastPage l) true l (eaOf refS (itsCtx refS) 2 2 8 l) 8 8).opens refS
        (lookAt refS (itsCtx refS) .store (tabGet (itsCtx refS).group.lastPage l) true l (eaOf refS (itsCtx refS) 2 2 8 l) 8 8).part) ∧
    (∀ l < 32, (acting refS (itsCtx refS)).getLsbD l = true →
      (resolveFor refS (itsCtx refS) (BitVec.ofNat 64 (refS.num (lookAt refS (itsCtx refS) .load (tabGet (itsCtx refS).group.lastPage l) true l
        (eaOf refS (itsCtx refS) 2 2 8 l) 8 8).part.pa 8) &&& ~~~pinBit)).lets ∧
      (lookAt refS (itsCtx refS) .load (tabGet (itsCtx refS).group.lastPage l) true l (eaOf refS (itsCtx refS) 2 2 8 l) 8 8).opens refS
        (lookAt refS (itsCtx refS) .load (tabGet (itsCtx refS).group.lastPage l) true l (eaOf refS (itsCtx refS) 2 2 8 l) 8 8).part) ∧
    Fits refS (itsCtx refS) { frees := indexMark 0 2, h := [healing refS (itsCtx refS) 1] } := by
  refine ⟨?_, ?_, ?_⟩ <;> (try simp only [Look.opens, Res.lets_eq]) <;> (try unfold Fits) <;> decide +kernel

theorem witness_reference_tests : (∀ l < 32, (acting refS (itsCtx refS)).getLsbD l = true → (laneRes refS (itsCtx refS) 1 l).lets) ∧
    (∀ l < 32, (acting refS (itsCtx refS)).getLsbD l = true → (laneRes refS (itsCtx refS) 2 l).lets) ∧
    Fits refS (itsCtx refS) { v := [(9, acting refS (itsCtx refS), fun _ => 0)], h := [healing refS (itsCtx refS) 1] } := by
  refine ⟨?_, ?_, ?_⟩ <;> (try simp only [Res.lets_eq]) <;> (try unfold Fits) <;> decide +kernel

/-- Four lanes pin the first object; four that hold a pin on the second would need a count of four. -/
def pinnedS : State := refS.grp (fun g => { g with splits := [⟨0x10000, 1, 0, [], .none, [], none⟩] })
theorem witness_pins : RefsPass refS (itsCtx refS) 1 false ∧ (∀ l < 32, (acting refS (itsCtx refS)).getLsbD l = true → ∃ a hd v, laneRes refS (itsCtx refS) 1 l = .obj a hd v ∧
      ((itsCtx refS).group.hlane 1 l).getLsbD 61 = false ∧
      hd.pins + ((lanesOf (acting refS (itsCtx refS))).filter (fun j => (laneRes refS (itsCtx refS) 1 j).object == some a)).length ≤ 65535) ∧
    Fits refS (itsCtx refS) { v := pairWrites 10 (acting refS (itsCtx refS)) (fun _ => 0), h := [(1, acting refS (itsCtx refS), fun _ => 0)] } := by
  refine ⟨?_, fun l h m => ⟨0x200100, hd1, 0x200100, ?_⟩, ?_⟩
  · simp only [RefsPass, Res.lets_eq]; decide +kernel
  · revert l; decide +kernel
  · unfold Fits; decide +kernel
theorem witness_unpin : ctx? pinnedS = some (itsCtx pinnedS) ∧ RefsPass pinnedS (itsCtx pinnedS) 2 false ∧ (∀ l < 32, (acting pinnedS (itsCtx pinnedS)).getLsbD l = true →
      ∃ a hd v, laneRes pinnedS (itsCtx pinnedS) 2 l = .obj a hd v ∧ ((itsCtx pinnedS).group.hlane 2 l).getLsbD 61 = true ∧
      ((lanesOf (acting pinnedS (itsCtx pinnedS))).filter (fun j => (laneRes pinnedS (itsCtx pinnedS) 2 j).object == some a)).length ≤ hd.pins) := by
  refine ⟨by decide +kernel, ?_, fun l h m => ⟨0x200200, { hd1 with pins := 1 }, 0x2000000000200200, ?_⟩⟩
  · simp only [RefsPass, Res.lets_eq]; decide +kernel
  · revert l; decide +kernel

/-- `hnew` of 16 bytes in class 0x30 by v3; `hfree` of the unpinned object. -/
def newS : State := refS.grp (fun g => flat 3 16 (flat 4 0x30 g))
theorem witness_allocation : ctx? newS = some (itsCtx newS) ∧ heapOf newS (itsCtx newS) = some aHeap ∧ (∀ l < 32, (acting newS (itsCtx newS)).getLsbD l = true →
      0 < ((itsCtx newS).group.vlane 3 l).toNat ∧ ((itsCtx newS).group.vlane 3 l).toNat ≤ 2 ^ 30 ∧ ((itsCtx newS).group.vlane 4 l).toNat < 65536 ∧
      admits (itsCtx newS).q ((itsCtx newS).group.vlane 4 l).toNat = true) ∧ RefsPass newS (itsCtx newS) 1 false ∧
    (∀ l < 32, (acting newS (itsCtx newS)).getLsbD l = true → laneRes newS (itsCtx newS) 1 l = .obj 0x200100 hd1 0x200100 ∧ hd1.pins = 0 ∧ hd1.kind = false ∧ hd1.frozen = false) := by
  refine ⟨by decide +kernel, by decide +kernel, ?_, ?_, ?_⟩ <;> (try simp only [RefsPass, Res.lets_eq]) <;> decide +kernel

/-- References of no heap, ill-formed, of the retired epoch, null. -/
def badRefS : State := heapS.grp (fun g => refr 3 0xc000000000200100 (refr 1 0x200108 g))
def retiredS : State := { badRefS with heaps := [(0, { aHeap with flips := 2 })] }
theorem witness_heap_traps : acting bare (itsCtx bare) ≠ 0 ∧ heapOf bare (itsCtx bare) = none ∧ heapOf badRefS (itsCtx badRefS) = some aHeap ∧
    (∀ l < 32, (acting badRefS (itsCtx badRefS)).getLsbD l = true → (itsCtx badRefS).group.hlane 1 l ≠ 0 ∧ wellFormedRef ((itsCtx badRefS).group.hlane 1 l) = false) ∧
    heapOf retiredS (itsCtx retiredS) = some { aHeap with flips := 2 } ∧ (∀ l < 32, (acting retiredS (itsCtx retiredS)).getLsbD l = true →
      (itsCtx retiredS).group.hlane 3 l ≠ 0 ∧ wellFormedRef ((itsCtx retiredS).group.hlane 3 l) = true ∧ refAge { aHeap with flips := 2 } ((itsCtx retiredS).group.hlane 3 l) = 3) ∧
    (∀ l < 32, (acting heapS (itsCtx heapS)).getLsbD l = true → (itsCtx heapS).group.hlane 1 l = 0) ∧
    peakCond (itsCtx heapS) { frees := mark 0 2 1, v := loadedWords 5 4 false (acting heapS (itsCtx heapS)) (fun _ => [])
                              h := [healing heapS (itsCtx heapS) 1] } = [] := by decide +kernel

/-! The Quern (08, 09) -/

/-- Tiles of the four quarters on handles 0 and 1: numbers, and lists of three ranks. -/
def tileS : State := bare.grp (fun g => (List.range 4).foldl (fun g q => (g.setTile 0 q (some (zeroTile false))).setTile 1 q (some (emptyTopk 3 true false))) g)
theorem witness_tiles : ctx? bare = some (itsCtx bare) ∧ handleBusy bare (itsCtx bare) 0 = false ∧ RoomFor (itsCtx bare) 0 (quarters 0xf) ∧
    RoomFor (itsCtx bare) 0 (List.range 4) ∧ (∀ q < 4, (itsCtx bare).group.tile 0 q = none) ∧
    (∀ q < 4, ∃ x, (itsCtx tileS).group.tile 0 q = some x ∧ x.kind = .f32) := by
  refine ⟨by decide +kernel, by decide +kernel, ?_, ?_, by decide +kernel, fun q h => ⟨zeroTile false, ?_, rfl⟩⟩ <;> (try unfold RoomFor) <;> (try decide +kernel)
  revert q; decide +kernel
theorem witness_tile_reads : ctx? tileS = some (itsCtx tileS) ∧ handleBusy tileS (itsCtx tileS) 0 = false ∧ handleBusy tileS (itsCtx tileS) 1 = false ∧
    (∀ q < 4, ∀ x, (itsCtx tileS).group.tile 1 q = some x → x.kind ≠ .f32 ∧ x.kind ≠ .i32) ∧
    Fits tileS (itsCtx tileS) { v := (List.range (windowRegs 0)).map (fun j => (8 + j, 0xffffffff#32, fun _ => 0)) } ∧
    (∀ i < 4, (0xf#4).getLsbD i = true → (itsCtx tileS).group.tile 0 i = some (zeroTile false) ∧ (zeroTile false).kind = .f32 ∧
      (itsCtx tileS).group.tile 1 i = some (emptyTopk 3 true false) ∧ (emptyTopk 3 true false).kind = .topk 3 true false) ∧ qfmtOf 0 = some .bf16 := by
  refine ⟨by decide +kernel, by decide +kernel, by decide +kernel, ?_, ?_, by decide +kernel, rfl⟩
  · have h : ∀ q < 4, (itsCtx tileS).group.tile 1 q = some (emptyTopk 3 true false) := by decide +kernel
    intro q hq x hx
    rw [h q hq] at hx
    cases hx
    decide
  · unfold Fits; decide +kernel

/-- A latch of int8 rows of one block; B stands in the scratchpad at k0, its columns 32 bytes apart. -/
def aLatch : Latch := { afmt := .i8, nb := 1, ru := true, rows := List.replicate 32 (List.replicate 32 3, []) }
def latched : State := bare.grp (fun g => uni 2 32 (uni 0 0x100 { g with latch := some aLatch }))
theorem witness_pass_issue : ctx? latched = some (itsCtx latched) ∧ (itsCtx bare).group.latch = none ∧ (itsCtx latched).group.latch = some aLatch ∧
    (∃ sp cols, passForm (itsCtx latched) (.qmm 3 1 1 0 9 3 2) = some (3, 0, 1, 9, 3, 2, sp, cols) ∧
      passConds latched (itsCtx latched) (passOf latched (itsCtx latched) 0 aLatch 1 9 3 2 sp cols) = []) ∧
    handleBusy latched (itsCtx latched) 2 = false ∧ replayFull latched (itsCtx latched) = false ∧
    EngineFree latched (itsCtx latched) [(passOf latched (itsCtx latched) 0 aLatch 1 9 3 2 .spad (strideCols (itsCtx latched) 0 .spad)).hull] ∧
    quernEntries latched (quadOf (itsCtx latched).core) + (quarters 3).length ≤ 32 := by
  refine ⟨by decide +kernel, by decide +kernel, by decide +kernel, ⟨_, _, rfl, ?_⟩, by decide +kernel, by decide +kernel,
    ⟨by decide +kernel, by decide +kernel, by decide +kernel, by decide +kernel⟩, ?_⟩ <;> decide +kernel

/-- A pass in flight on handle 2: two quarters wait, or are granted. -/
def aPass (granted : BitVec 4) : Pass := { passOf latched (itsCtx latched) 0 aLatch 1 9 3 2 .spad (strideCols (itsCtx latched) 0 .spad) with inPass := granted }
def passing (granted : BitVec 4) : State := { latched with ops := [(1, { waitOp with body := .pass (aPass granted) })], nextOp := 2 }
theorem witness_pass_grant : (nextPass (passing 0) 0).length < 16 ∧ tabGet (passing 0).ops 1 = some { waitOp with body := .pass (aPass 0) } ∧
    nextPass (passing 0) 0 ≠ [] := by decide +kernel
theorem witness_pass_commit : (passing 3).ops.filter (fun o => quadOf o.2.core == 0 && !o.2.halted &&
      (match o.2.body with | .pass p => p.inPass != 0 | _ => false)) = [(1, { waitOp with body := .pass (aPass 3) })] ∧
    opCtxAny (passing 3) { waitOp with body := .pass (aPass 3) } = some (itsCtx (passing 3)) ∧ (passing 3).wc = [] ∧
    (∀ i < 32, quernPageConds (passing 3) (itsCtx (passing 3)) ((aPass 3).column i) = [] ∧ quernFault (passing 3) (itsCtx (passing 3)) ((aPass 3).column i) = none ∧
      piecesDenied (passing 3) (itsCtx (passing 3)) (rngReach (passing 3) (itsCtx (passing 3)) ((aPass 3).column i)).pieces = none) := by decide +kernel

/-- `mxq` of one block within the scratchpad, at issue and when it completes. -/
def convertS : State := bare.grp (fun g => uni 2 0x400 (uni 0 0x200 g))
theorem witness_conversion_issue : ctx? convertS = some (itsCtx convertS) ∧ (∃ fmt, mxfmtOf 4 = some fmt ∧
      convConds convertS (itsCtx convertS) (convOf (itsCtx convertS) true fmt 1 1 0 0) true = [] ∧
      quernFault convertS (itsCtx convertS) (convOf (itsCtx convertS) true fmt 1 1 0 0).source = none ∧
      quernFault convertS (itsCtx convertS) (convOf (itsCtx convertS) true fmt 1 1 0 0).dest = none) ∧ replayFull convertS (itsCtx convertS) = false ∧
    EngineFree convertS (itsCtx convertS) [(convOf (itsCtx convertS) true .mxe2m1 1 1 0 0).source, (convOf (itsCtx convertS) true .mxe2m1 1 1 0 0).dest] := by
  refine ⟨by decide +kernel, ⟨_, rfl, ?_, ?_, ?_⟩, ?_, ⟨?_, ?_, ?_, ?_⟩⟩ <;> decide +kernel
def aConv : Conv := { quant := true, fmt := .mxe2m1, bf := false, n := 1, dst := 0x200, dstSp := .spad, src := 0x400, srcSp := .spad }
theorem witness_conversion : tabGet converting.ops 1 = some { waitOp with body := .conv aConv } ∧
    opCtxAny converting { waitOp with body := .conv aConv } = some (itsCtx converting) ∧ convConds converting (itsCtx converting) aConv false = [] ∧
    quernFault converting (itsCtx converting) aConv.source = none ∧ quernFault converting (itsCtx converting) aConv.dest = none ∧
    rngHeld converting (itsCtx converting) aConv.dest = false ∧ converting.wc = [] ∧
    piecesDenied converting (itsCtx converting) (rngReach converting (itsCtx converting) aConv.source).pieces = none ∧ converting.Inv := by decide +kernel

/-! The mask unit and attention (10, 11) -/

/-- An image at k4:k5 with two instructions: `x4 := true` and `emit x4`; slot 1 holds the same program. -/
def maskS : State := putSlot ((memS.writeNum 0x30010100 4 2).writeNum 0x30010104 8 0x40b00000141) hostQueue 1 [0x141, 0x40b]
/-- The piece of a word of the image. -/
def imagePiece (i : Nat) : Piece := (lookAt maskS (itsCtx maskS) .load none false (lowLane (itsCtx maskS).split.mask) ((0x10100 + 4 * i) % 2 ^ 64) 4 4).part
theorem witness_mask : ctx? maskS = some (itsCtx maskS) ∧ Calm maskS (itsCtx maskS) ∧ maskS.Inv ∧ slotBound maskS 0 0 = false ∧
    ownHold (itsCtx maskS) 0 ∉ maskS.maskHolds ∧ ((itsCtx maskS).group.kpair 4).toNat = 0x10100 ∧
    (∀ i ≤ mCount (BitVec.ofNat 32 (maskS.num (imagePiece 0).pa 4)),
      (lookAt maskS (itsCtx maskS) .load none false (lowLane (itsCtx maskS).split.mask) ((0x10100 + 4 * i) % 2 ^ 64) 4 4).opens maskS (imagePiece i)) ∧
    imageCond (BitVec.ofNat 32 (maskS.num (imagePiece 0).pa 4))
      ((List.range (mCount (BitVec.ofNat 32 (maskS.num (imagePiece 0).pa 4)))).map (fun i => BitVec.ofNat 32 (maskS.num (imagePiece (i + 1)).pa 4)))
      (itsCtx maskS).split.mask = [] ∧
    slotHeld maskS 0 1 = false ∧ slotProgram maskS (itsCtx maskS).q 1 = some [0x141, 0x40b] ∧ (∀ i < 7, (itsCtx maskS).group.kread (16 + i) = 0) ∧
    (∀ w ∈ (itsCtx maskS).split.windows, tabGet maskS.ops w.1 = none) ∧
    (∀ o ∈ groupOps maskS (itsCtx maskS).key (itsCtx maskS).group.num, o.2.split ≠ (itsCtx maskS).split.idx) := by
  refine ⟨by decide +kernel, ?_, by decide +kernel, by decide +kernel, by decide +kernel, by decide +kernel, ?_, ?_, ?_, ?_, ?_, ?_, ?_⟩ <;>
    (try unfold Look.opens) <;> (try unfold Calm) <;> decide +kernel

/-- A list object at 0x200300 of one page, whose directory entry at 0x10400 is invalid; its class is given. Every lane's h1 names it; the operand
block k16 to k23 asks for rows of 32 channels. -/
def listS (cls : Nat) : State :=
  { bare with heaps := [(0, aHeap)], mem := heapTables ++ cells 0x30010400 64 (7 * 2 ^ 225) ++ cells 0x30018000 8 (2 ^ 48) ++
                cells 0x32000300 16 (48 * 2 ^ 96 + cls * 2 ^ 80) ++ cells 0x32000310 36 (0x10400 + 0x10800 * 2 ^ 64 + 2 ^ 128) }
def attS (cls : Nat) : State := (listS cls).grp (fun g => uni 18 1024 (uni 21 1 (refr 1 0x200300 g)))
def listRes : Res := .obj 0x200300 ⟨48, 0x30, 0, 0, false, false, 0⟩ 0x200300
theorem witness_attention_issue : ctx? (attS 0x30) = some (itsCtx (attS 0x30)) ∧ attForm (.qatt 3 1 1 0 0 2) = some (3, 0, 1, 1, 0, 0, 2) ∧
    (heapOf (attS 0x30) (itsCtx (attS 0x30))).isSome = true ∧
    attConds (attS 0x30) (itsCtx (attS 0x30)) (attOf (attS 0x30) (itsCtx (attS 0x30)) 0 1 1 0 0 2) = [] ∧
    (itsCtx (attS 0x30)).group.hlane 3 (lowLane (itsCtx (attS 0x30)).split.mask) = 0 ∧
    resolveFor (attS 0x30) (itsCtx (attS 0x30)) ((itsCtx (attS 0x30)).group.hlane 1 (lowLane (itsCtx (attS 0x30)).split.mask)) = listRes ∧
    resHeld (attS 0x30) (itsCtx (attS 0x30)) false listRes = false ∧ replayFull (attS 0x30) (itsCtx (attS 0x30)) = false ∧
    EngineFree (attS 0x30) (itsCtx (attS 0x30)) ((attOf (attS 0x30) (itsCtx (attS 0x30)) 0 1 1 0 0 2).hulls.map hullRng) ∧
    quernEntries (attS 0x30) (quadOf (itsCtx (attS 0x30)).core) + (quarters 1).length ≤ 32 := by
  refine ⟨by decide +kernel, rfl, by decide +kernel, by decide +kernel, by decide +kernel, by decide +kernel, by decide +kernel, by decide +kernel,
    ⟨by decide +kernel, by decide +kernel, by decide +kernel, by decide +kernel⟩, by decide +kernel⟩

/-- The unit in flight: its list has one page, which is gone, or is denied by its header's class. -/
def anAtt : Att := { attOf (attS 0x30) (itsCtx (attS 0x30)) 0 1 1 0 0 2 with rows := latchRows (attS 0x30) (itsCtx (attS 0x30)) (attOf (attS 0x30) (itsCtx (attS 0x30)) 0 1 1 0 0 2) }
def attending (cls : Nat) : State := { attS cls with ops := [(1, { waitOp with body := .att anAtt })], nextOp := 2 }
/-- What a list gives, in the cases that complete. -/
def listGone (s : State) : Bool := match lookList s (itsCtx s) anAtt 0x200300 with | .ok _ looks _ => decide (looks = [.gone]) | _ => false
theorem witness_attention : opCtxAny (attending 0x30) { waitOp with body := .att anAtt } = some (itsCtx (attending 0x30)) ∧ anAtt.sample.isSome = true ∧
    anAtt.list = some 0x200300 ∧ listGone (attending 0x30) = true ∧
    opCtxAny (attending 0x31) { waitOp with body := .att anAtt } = some (itsCtx (attending 0x31)) ∧
    lookList (attending 0x31) (itsCtx (attending 0x31)) anAtt 0x200300 = .denied 0x200300 0x31 := by decide +kernel

/-- A list whose page holds two tokens of 32: of its two tiles one is full, one empty. Each moves a counter; by the choice 1 the first alone. -/
def liveList (choices : List Nat) : State :=
  { bare with heaps := [(0, { aHeap with hbytes := 0x3000 })], ops := [(1, { waitOp with body := .att anAtt })], nextOp := 2, choices := choices
              mem := heapTables ++ cells 0x30010400 64 (DirEnt.bits { dirEnt 0 with ref := 0x1000000000200400, mass := 100, cls := 0x30, fill := 2 }) ++
                cells 0x30018000 16 (2 ^ 48 + 2 ^ 64) ++ cells 0x32000300 16 (48 * 2 ^ 96 + 0x30 * 2 ^ 80) ++
                cells 0x32000310 36 (0x10400 + 0x10800 * 2 ^ 64 + 2 ^ 128 + 2 ^ 160) ++ cells 0x32000400 16 (4096 * 2 ^ 96 + 0x30 * 2 ^ 80 + 2 ^ 60) }
/-- What a list gives that stops nothing: with the state after all effects but the counters' moves, and its moves. -/
def listMoves (s : State) (a : Att) : Option (Nat × List (Nat × Nat)) :=
  match lookList s (itsCtx s) a 0x200300 with
  | .ok h looks reads =>
    let rows := attRows s (itsCtx s) a h looks
    let masses := if a.form = 1 then attMasses rows (livePages looks) else []
    if looks.any (fun x => match x with | .page _ => false | .gone => false | _ => true) || decide ((s.core 0).upd.length + looks.length > 32) ||
      masses.any (fun x => !(quernPageConds s (itsCtx s) (massRng x.1)).isEmpty || (quernFault s (itsCtx s) (massRng x.1)).isSome) then none
    else some (choice (attEffect (attWalks s (itsCtx s) a 0x200300 (tokensOf h.tcode) looks) (itsCtx s) a h looks reads masses), (attOwes s (itsCtx s) a h looks rows).moves)
  | _ => none
theorem witness_attention_moves : listMoves (liveList []) anAtt = some (0, [(0, 1), (2, 1)]) ∧ listMoves (liveList [1]) anAtt = some (1, [(0, 1), (2, 1)]) ∧
    listMoves (attending 0x30) { anAtt with form := 1 } = some (0, []) ∧
    anAtt.owed = none ∧ choice (liveList []) ≠ 1 := by decide +kernel

/-- A row with one token and a scale that is NaN. -/
def nanAtt : Att := { anAtt with k := [0, 0, 0, 0x7fc00000, 0, 1, 0, 0] }
def aPage : AttPage := { pos := 0, x := 0, eva := 0x10400, e := { dirEnt 0 with fill := 1 }, obj := 0x200300, tiles := [(0, 0, 2)] }
theorem witness_spoilt_row : 0 ∈ admitted nanAtt aPage (0, [], 0, 0) ∧
    spoils (scoreOf nanAtt.chans (f32Num (nanAtt.k.getD 3 0)) ([].map bf16Num) (tokenRow [] false nanAtt.chans 0)) = true := by decide +kernel

/-! The Thresher (12) -/

/-- A pool of eight pages of 16 tokens and 32 channels: its descriptor at 0x10c00, its entries at 0x10800, its summaries at 0x11000. Entry 0 is open with two
rows, 1 invalid, 2 sealed, 3 sealed in the last format. -/
def poolSw : PoolSw := { home := 0, vvar := false, kvar := false, ccode := 0, tcode := 0, decay := 1, wcTimeout := 0, minAge := 1, interval := 1, tCold := 0, tFp4 := 0, tFp6 := 0
                         tFp8 := 0, count := 8, stamp := 0x11400, sumBase := 0x11000, dirBase := 0x10800 }
def aPool : Pool := { queue := 0, desc := 0x10c00, sw := poolSw, nextSw := none, done := 0, stuck := 0, stepped := 0, skipped := 0, requests := 1, lastStart := 0, sweep := none
                      cold := none, fault := 0 }
def anEntry (ref : DWord) (fmt state fill : Nat) : Nat :=
  DirEnt.bits { ref := ref, summ := 0, sweep := 0, mass := 100, pos0 := 0, doc := 0, cls := 0x30, version := 0, ek := 0, ev := 0, fill := fill, state := state, tier := 0
                vvar := false, fmt := fmt, res := 0 }
def poolHeap : Heap := { aHeap with hbytes := 0x3000, cbase := 0x203000, cbytes := 0x1000 }
def pageHeader (n : Nat) : Nat := n * 2 ^ 96 + 0x30 * 2 ^ 80 + 2 ^ 60
def poolMem : List Host.Cell :=
  heapTables ++ cells 0x30010800 64 (anEntry 0x1000000000200400 0 0 2) ++ cells 0x30010840 64 (anEntry 0 7 0 0) ++ cells 0x30010880 64 (anEntry 0x1000000000201000 0 1 16) ++
    cells 0x300108c0 64 (anEntry 0x1000000000202000 4 1 16) ++ cells 0x30010c00 56 (0x10800 + 0x11000 * 2 ^ 64 + 0x11400 * 2 ^ 128 + 8 * 2 ^ 192 + 2 ^ 352 + 2 ^ 384 + 2 ^ 416) ++
    cells 0x30018000 72 (2 ^ 64 + 2 ^ 256 + 2 ^ 512) ++ cells 0x32000400 16 (pageHeader 2048) ++ cells 0x32001000 16 (pageHeader 2048) ++
    cells 0x32002000 16 (pageHeader (pageBytes 4 16 32))
/-- The operand block k16 to k21 for entry x, rows, and two scratchpad offsets. -/
def poolS (x rows : Nat) : State :=
  { bare.grp (fun g => uni 16 0x10c00 (uni 18 x (uni 19 rows (uni 20 0 (uni 21 0x100 g))))) with heaps := [(0, poolHeap)], pools := [(5, aPool)], nextOp := 6, mem := poolMem }
theorem witness_pool_named : PoolNamed (poolS 0 0) (itsCtx (poolS 0 0)) 2 5 aPool ∧ PoolNamed (poolS 9 0) (itsCtx (poolS 9 0)) 2 5 aPool ∧
    PoolNamed (poolS 1 1) (itsCtx (poolS 1 1)) 2 5 aPool := by
  refine ⟨?_, ?_, ?_⟩ <;> unfold PoolNamed <;> decide +kernel
theorem witness_directory_issue : ctx? (poolS 0 1) = some (itsCtx (poolS 0 1)) ∧ dirInstr (.kvseal 3 2 7) = some (3, .seal, 2, 7) ∧
    (∀ r ∈ sealRanges .seal aPool 1 0 0x100, rngConds (poolS 0 1) (itsCtx (poolS 0 1)) false r = [] ∧ r.addr % 4 = 0) ∧
    aPool.sw.count ≤ (kvWord (itsCtx (poolS 9 0)) 2 2).toNat ∧ (kvWord (itsCtx (poolS 0 1)) 2 2).toNat < aPool.sw.count ∧
    kvTranslate (poolS 0 1) (itsCtx (poolS 0 1)) true (aPool.entry 0) 64 = (none, []) ∧
    dirForbids .seal (dirEnt (natOfBytes ((hwRead (poolS 0 1) (itsCtx (poolS 0 1)).q (aPool.entry 1) 64).getD []))) aPool.tokens 1 = true ∧
    dirForbids .seal (dirEnt (natOfBytes ((hwRead (poolS 0 1) (itsCtx (poolS 0 1)).q (aPool.entry 0) 64).getD []))) aPool.tokens 1 = false ∧
    (dirEnt (natOfBytes ((hwRead (poolS 0 1) (itsCtx (poolS 0 1)).q (aPool.entry 0) 64).getD []))).malformed aPool.tokens = false ∧
    EngineFree (poolS 0 1) (itsCtx (poolS 0 1)) (sealRanges .seal aPool 1 0 0x100) := by
  refine ⟨by decide +kernel, rfl, by decide +kernel, by decide +kernel, by decide +kernel, by decide +kernel, by decide +kernel, by decide +kernel, by decide +kernel,
    ⟨by decide +kernel, by decide +kernel, by decide +kernel, by decide +kernel⟩⟩

/-- Without the registration, the same descriptor. -/
def unpooled : State := { poolS 0 0 with pools := [] }
/-- The Thresher's own fields of the descriptor can be written. -/
def itsWritable (s : State) : Bool :=
  match thrNeed s (itsCtx s).q 0 true ((kvDesc (itsCtx s) 2).toNat + 64) 24 0 with
  | .ok ps => !heldPieces s ps
  | _ => false
theorem witness_pool_forms : ctx? (poolS 0 0) = some (itsCtx (poolS 0 0)) ∧ EngineFree (poolS 0 0) (itsCtx (poolS 0 0)) [] ∧
    badPool (hwNum (poolS 0 0) (itsCtx (poolS 0 0)).q (kvDesc (itsCtx (poolS 0 0)) 2).toNat 128) = false ∧
    (poolSwOf (hwNum (poolS 0 0) (itsCtx (poolS 0 0)).q (kvDesc (itsCtx (poolS 0 0)) 2).toNat 128)).fixed = aPool.sw.fixed ∧ aPool.requests < 16 ∧
    poolBusy (poolS 0 0) 5 aPool 0 = false ∧ itsWritable (poolS 0 0) = true ∧ EngineFree unpooled (itsCtx unpooled) [] ∧ itsWritable unpooled = true ∧
    badPool (hwNum unpooled (itsCtx unpooled).q (kvDesc (itsCtx unpooled) 2).toNat 128) = false ∧
    ctx? unpooled = some (itsCtx unpooled) ∧ badDesc (kvDesc (itsCtx unpooled) 2) = false ∧
    kvTranslate unpooled (itsCtx unpooled) false (kvDesc (itsCtx unpooled) 2).toNat 128 = (none, []) ∧ poolAt unpooled 0 (kvDesc (itsCtx unpooled) 2) = none := by
  refine ⟨by decide +kernel, ⟨by decide +kernel, by decide +kernel, by decide +kernel, by decide +kernel⟩, ?_, ?_, ?_, ?_, ?_,
    ⟨by decide +kernel, by decide +kernel, by decide +kernel, by decide +kernel⟩, ?_, ?_, ?_, ?_, ?_, ?_⟩ <;> decide +kernel

/-- A directory form in flight, and what the Thresher reads for it. -/
def aDir (form : DirForm) (x : Nat) (a : Word) : Dir := ⟨form, 5, x, a, 0, 0x100, 7, false, false, false, none, 0, 0⟩
def dirOp (form : DirForm) (x : Nat) (a : Word) : Op := { waitOp with body := .dir (aDir form x a) }
def dirS (form : DirForm) (x : Nat) (a : Word) : State := { poolS 0 0 with ops := [(1, dirOp form x a)] }
def Thr.pieces : Thr → List Piece
  | .ok ps => ps
  | _ => []
def its (form : DirForm) (x : Nat) (a : Word) : List Piece := (thrNeed (dirS form x a) (itsCtx (dirS form x a)).q 0 true (aPool.entry x) 64 0).pieces
def readable (form : DirForm) (x : Nat) (a : Word) : Bool :=
  decide (opCtxAny (dirS form x a) (dirOp form x a) = some (itsCtx (dirS form x a))) &&
  decide (thrNeed (dirS form x a) (itsCtx (dirS form x a)).q 0 true (aPool.entry x) 64 0 = .ok (its form x a)) &&
  !heldPieces (dirS form x a) (its form x a) && !(itsCtx (dirS form x a)).live.splits.isEmpty && !poolBusy (dirS form x a) 5 aPool 1 &&
  decide (tabGet (dirS form x a).queues aPool.queue = some (itsCtx (dirS form x a)).q) && decide ((dirS form x a).cycle ≤ (dirOp form x a).issued + 8192)
/-- The Thresher reaches what a step of the form needs. -/
def Thr.fine : Thr → Bool
  | .ok _ => true
  | _ => false
def sound (form : DirForm) (x : Nat) (a : Word) : Bool :=
  !dirForbids form (entryAt (dirS form x a) (its form x a)) aPool.tokens a.toNat && !(entryAt (dirS form x a) (its form x a)).malformed aPool.tokens

/-- No room for a page on the heap. -/
def tightS : State := { dirS .new 1 0 with heaps := [(0, { poolHeap with hbytes := 0x200, cbytes := 0 })] }
theorem witness_takeup_new : readable .new 1 0 = true ∧ sound .new 1 0 = true ∧ tabGet (dirS .new 1 0).heaps 0 = some poolHeap ∧
    (∃ b, placeObject (dirS .new 1 0) 0 hostQueue poolHeap true 2048 = some b ∧ (thrNeed (dirS .new 1 0) hostQueue 0 true b 2064 0).fine = true) ∧
    placeObject tightS 0 hostQueue { poolHeap with hbytes := 0x200, cbytes := 0 } true 2048 = none ∧
    dirForbids .new (entryAt (dirS .new 0 0) (its .new 0 0)) aPool.tokens 0 = true ∧ readable .new 0 0 = true ∧
    (dirOp .new 1 0).issued + 8192 ≤ { dirS .new 1 0 with cycle := 8192 }.cycle := by
  refine ⟨by decide +kernel, by decide +kernel, by decide +kernel, ⟨((placeObject (dirS .new 1 0) 0 hostQueue poolHeap true 2048).getD 0), ?_, ?_⟩, ?_, ?_, ?_, ?_⟩ <;>
    decide +kernel
theorem witness_takeup_seal : readable .seal 0 0 = true ∧ sound .seal 0 0 = true ∧ readable .seal 0 1 = true ∧ sound .seal 0 1 = true ∧
    resolveFor (dirS .seal 0 1) (itsCtx (dirS .seal 0 1)) (entryAt (dirS .seal 0 1) (its .seal 0 1)).ref =
      .obj 0x200400 (headerOf (pageHeader 2048)) 0x1000000000200400 ∧
    resHeld (dirS .seal 0 1) (itsCtx (dirS .seal 0 1)) true (.obj 0x200400 (headerOf (pageHeader 2048)) 0x1000000000200400) = false ∧
    (entryAt (dirS .seal 0 1) (its .seal 0 1)).fill + 1 < aPool.tokens ∧
    (resolveFor (dirS .seal 0 0) (itsCtx (dirS .seal 0 0)) (entryAt (dirS .seal 0 0) (its .seal 0 0)).ref).object.isSome = true ∧
    resHeld (dirS .seal 0 0) (itsCtx (dirS .seal 0 0)) true (resolveFor (dirS .seal 0 0) (itsCtx (dirS .seal 0 0)) (entryAt (dirS .seal 0 0) (its .seal 0 0)).ref) = false := by
  decide +kernel
/-- What an appended row needs, and the page's values once it is full. -/
def sealS (r : Word) : Thr := sealNeed (dirS .seal 0 r) (itsCtx (dirS .seal 0 r)) (aDir .seal 0 r) aPool (entryAt (dirS .seal 0 r) (its .seal 0 r)) 0x200400
/-- Entry 0 with 15 rows. -/
def nearlyFull : State := (dirS .seal 0 1).writeNum 0x30010800 64 (anEntry 0x1000000000200400 0 0 15)
def sealValues : List Nat :=
  let s := nearlyFull
  let s1 := hwWrite (hwWrite s hostQueue 0x2007d0 (s.bytes ((itsCtx s).team.spadAt 0) 64)) hostQueue 0x200bd0 (s.bytes ((itsCtx s).team.spadAt 0x100) 64)
  [0x200410, 0x200810].flatMap (fun at_ => halfwords 512 ((hwRead s1 hostQueue at_ 1024).getD []))
theorem witness_takeup_last_row : (∀ v ∈ sealValues, (bf16Num v).isNan = false) ∧ sealValues.length = 1024 ∧
    (entryAt nearlyFull (thrNeed nearlyFull hostQueue 0 true (aPool.entry 0) 64 0).pieces).fill = 15 := by
  refine ⟨?_, ?_, ?_⟩ <;> decide +kernel
theorem witness_takeup_rows : (sealS 1).fine = true ∧ heldPieces (dirS .seal 0 1) (sealS 1).pieces = false ∧ (sealS 14).fine = true ∧
    heldPieces (dirS .seal 0 14) (sealS 14).pieces = false ∧ readable .seal 0 14 = true ∧ sound .seal 0 14 = true ∧
    aPool.tokens ≤ (entryAt (dirS .seal 0 14) (its .seal 0 14)).fill + 14 := by
  refine ⟨?_, ?_, ?_, ?_, ?_, ?_, ?_⟩ <;> decide +kernel
/-- What a change to the next format, and to the cold tier, need. -/
def stepS (form : DirForm) (x : Nat) (hot : Bool) : Thr :=
  let e := entryAt (dirS form x 0) (its form x 0)
  stepNeed (dirS form x 0) aPool hostQueue e hot (alignUp (pageBytes (if hot then (nextEntry aPool e).fmt else e.fmt) aPool.tokens aPool.chans) 16) 0
theorem witness_takeup_step : readable .dem 3 0 = true ∧ sound .dem 3 0 = true ∧ (entryAt (dirS .dem 3 0) (its .dem 3 0)).fmt = 4 ∧
    readable .dem 2 0 = true ∧ sound .dem 2 0 = true ∧ (entryAt (dirS .dem 2 0) (its .dem 2 0)).state ≠ 2 ∧ (entryAt (dirS .dem 2 0) (its .dem 2 0)).fmt ≠ 4 ∧
    readable .inv 2 0 = true ∧ sound .inv 2 0 = true ∧
    resolve (dirS .inv 2 0) (itsCtx (dirS .inv 2 0)).q poolHeap (entryAt (dirS .inv 2 0) (its .inv 2 0)).ref =
      .obj 0x201000 (headerOf (pageHeader 2048)) 0x1000000000201000 ∧ gleanerHolds poolHeap 0x201000 = false ∧
    readable .cold 3 0 = true ∧ sound .cold 3 0 = true ∧ (entryAt (dirS .cold 3 0) (its .cold 3 0)).state ≠ 2 ∧ (entryAt (dirS .cold 3 0) (its .cold 3 0)).tier = 0 := by
  decide +kernel
theorem witness_takeup_cold : (stepS .cold 3 false).fine = true ∧
    (coldStep (thrNote (dirS .cold 3 0) 0 false (stepS .cold 3 false).pieces) 5 aPool hostQueue 3 (its .cold 3 0) 1 1).2 = .copying := by decide +kernel
/-- The object of entry 2 is a source of a relocation cycle. -/
def heldHeap : Heap := { poolHeap with cycle := some { st := .copying, objs := [⟨0x201000, 0x202900, 2048⟩], rounds := 0, finalAt := 0, cmd := none, eRel := 0, dirty := [], held := [] } }
theorem witness_takeup_invalidation : (thrNeed (dirS .inv 2 0) hostQueue 0 true 0x201000 16 0).fine = true ∧ gleanerHolds heldHeap 0x201000 = true ∧
    resolve { dirS .inv 2 0 with heaps := [(0, heldHeap)] } hostQueue heldHeap (entryAt (dirS .inv 2 0) (its .inv 2 0)).ref =
      .obj 0x201000 (headerOf (pageHeader 2048)) 0x1000000000201000 := by decide +kernel
/-- Neither step claims an object that the Gleaner holds. -/
def heldS (form : DirForm) : State := { dirS form 2 0 with heaps := [(0, heldHeap)] }
theorem witness_takeup_held : (stepNeed (heldS .dem) aPool hostQueue (entryAt (heldS .dem) (its .dem 2 0)) true 2048 0) = .ok [] ∧
    (formatStep (heldS .dem) 5 aPool hostQueue (its .dem 2 0) 1).2 = .held ∧ (coldStep (heldS .cold) 5 aPool hostQueue 2 (its .cold 2 0) 1 1).2 = .held := by decide +kernel

/-- A pool whose sweep stands at an entry, and a cold copy that a sweep asked for. -/
def sweptPool (x : Nat) : Pool := { aPool with sweep := some { n := 1, next := x, stepped := 0, skipped := 0, status := 0, retried := 0, turn := 0, started := 0, owed := false, counted := false } }
def sweepS (x : Nat) : State := { poolS 0 0 with pools := [(5, sweptPool x)], cycle := 1024 }
def needs (x : Nat) (write : Bool) (a n : Nat) : Bool :=
  decide (thrNeed (sweepS x) hostQueue 0 write a n 0 = .ok (thrNeed (sweepS x) hostQueue 0 write a n 0).pieces) &&
    !heldPieces (sweepS x) (thrNeed (sweepS x) hostQueue 0 write a n 0).pieces
def movingPool : Pool := { sweptPool 3 with cold := some { x := 3, op := 0, src := 0x202000, dest := 0x203000, n := 1 } }
def countedPool : Pool := { sweptPool 8 with done := 1, stepped := 0, skipped := 0 }
theorem witness_sweep : aPool.sweep = none ∧ aPool.sw.interval ≠ 0 ∧ aPool.lastStart + 1024 * aPool.sw.interval ≤ (sweepS 0).cycle ∧ 0 < aPool.requests ∧
    tabGet (sweepS 0).queues 0 = some hostQueue ∧ needs 1 false (aPool.entry 1) 64 = true ∧
    (entryAt (sweepS 1) (thrNeed (sweepS 1) hostQueue 0 false (aPool.entry 1) 64 0).pieces).fmt = 7 ∧ needs 0 false (aPool.entry 0) 64 = true ∧
    (∀ x ∈ [0, 1], visiting (sweepS x) 5 (sweptPool x) = true ∧ (∀ w ∈ (sweptPool x).sweep, itsTurn (sweepS x) 5 (sweptPool x) w = true)) ∧
    begunForms (sweepS 8) 5 0 = false ∧ needs 0 true (aPool.entry 0) 64 = true ∧ (thrNeed (sweepS 0) hostQueue 0 true (aPool.entry 0) 64 0).pieces.length = 1 ∧
    (entryAt (sweepS 0) (thrNeed (sweepS 0) hostQueue 0 true (aPool.entry 0) 64 0).pieces).fmt ≠ 7 ∧
    (entryAt (sweepS 0) (thrNeed (sweepS 0) hostQueue 0 true (aPool.entry 0) 64 0).pieces).malformed aPool.tokens = false ∧
    (entryAt (sweepS 0) (thrNeed (sweepS 0) hostQueue 0 true (aPool.entry 0) 64 0).pieces).state ≠ 1 ∧ (sweepS 0).Inv ∧
    aPool.sw.count ≤ 8 ∧ needs 8 true (aPool.desc.toNat + 64) 24 = true ∧ needs 8 true aPool.sw.stamp.toNat 8 = true ∧
    (movingPool.cold.map (·.op)) = some 0 ∧ tabGet (sweepS 0).heaps 0 = some poolHeap ∧
    (∀ m ∈ movingPool.cold, (coldNeed (sweepS 3) hostQueue movingPool m 0).fine = true ∧ heldPieces (sweepS 3) (coldNeed (sweepS 3) hostQueue movingPool m 0).pieces = false) ∧
    (thrNeed (syncPool ((sweepS 8).modPool 5 (fun _ => countedPool)) countedPool true) hostQueue 0 true 0x11400 8 0).fine = true := by decide +kernel

/-! Copies and chains (14) -/

/-- The piece of an open translation. -/
def okPiece : Except Stop Piece → Option Piece
  | .ok p => some p
  | .error _ => none
theorem ok_of_okPiece {e : Except Stop Piece} {p : Piece} (h : okPiece e = some p) : e = .ok p := by
  cases e <;> simp_all [okPiece]

/-- A copy of `n` bytes within the scratchpad, from the block k16 to k21. -/
def copyS (n : Nat) : State := bare.grp (fun g => uni 16 0x200 (uni 18 0x400 (uni 20 n g)))
theorem witness_copy_issue : ctx? (copyS 64) = some (itsCtx (copyS 64)) ∧ (∃ v, copyForm (copyS 64) (itsCtx (copyS 64)) (.cpy 0 0 0 0 1 1 2) = some (v, true, []) ∧
      boundConds (copyS 64) (itsCtx (copyS 64)) v.srcRng = [] ∧ boundConds (copyS 64) (itsCtx (copyS 64)) v.dstRng = [] ∧ stampConds (itsCtx (copyS 64)) v.stamp = [] ∧
      barOperand (itsCtx (copyS 64)) v.bar = [] ∧ tagConds (copyS 64) (itsCtx (copyS 64)) v = []) ∧
    EngineFree (copyS 64) (itsCtx (copyS 64)) [(copyBlock (itsCtx (copyS 64)) false 0 0 0 1 1 2).srcRng, (copyBlock (itsCtx (copyS 64)) false 0 0 0 1 1 2).dstRng] ∧ copiesOf (copyS 64) 0 + chainsOf (copyS 64) 0 < 32 ∧
    (∃ v extra, copyForm (copyS 0) (itsCtx (copyS 0)) (.cpy 0 0 0 0 1 1 2) = some (v, true, extra) ∧ v.n = 0 ∧ (lowest extra).isSome = true ∧
      boundConds (copyS 0) (itsCtx (copyS 0)) v.srcRng = []) ∧
    (∃ v extra, copyForm (copyS 64) (itsCtx (copyS 64)) (.cpym 0 0 0 0 1 2) = some (v, false, extra) ∧ (lowest extra).isSome = true) := by
  refine ⟨by decide +kernel, ⟨_, rfl, ?_, ?_, ?_, ?_, ?_⟩, ⟨?_, ?_, ?_, ?_⟩, ?_, ⟨_, _, rfl, ?_, ?_, ?_⟩, ⟨_, _, rfl, ?_⟩⟩ <;> decide +kernel

/-- A transfer in flight: single, multicast with its source read, owing bytes to a barrier, or with nothing left. -/
def aCopy : Copy := { (copyBlock (itsCtx (copyS 64)) false 0 0 0 1 1 2) with bar := some 0x100 }
def copying (c : Copy) : State := { barS with ops := [(1, { waitOp with body := .copy c })], nextOp := 2 }
def multiCopy : Copy := { aCopy with cpym := true, buf := some (List.replicate 64 7), todo := [0] }
def owingCopy : Copy := { aCopy with todo := [], owed := [(0, 64)] }
theorem witness_delivery : tabGet (copying aCopy).ops 1 = some { waitOp with body := .copy aCopy } ∧ (copying aCopy).Inv ∧ 0 ∈ aCopy.todo ∧ aCopy.rows = 1 ∧
    spadHome (copying aCopy) (teamKey 1 0) = .live (itsCtx barS).team ∧ teamTag (copying aCopy) (itsCtx barS).team aCopy.dst aCopy.n = none ∧
    spadHome (copying multiCopy) (receiver (copying multiCopy) waitOp 0) = .live (itsCtx barS).team ∧
    teamTag (copying multiCopy) (itsCtx barS).team multiCopy.dst 64 = none ∧ 64 ≤ (tabGet owingCopy.owed 0).getD 0 ∧
    spadHome (copying owingCopy) (teamKey 1 0) = .live (itsCtx barS).team ∧ (itsCtx barS).team.saved = false ∧
    tagged (copying owingCopy) ((itsCtx barS).team.spadAt 0x100) = true := by decide +kernel

/-- Done, with a stamp at 0x10100. -/
def doneCopy (st : Option StampTo) : Copy := { aCopy with todo := [], stamp := st, bar := none }
def stamped : State := { mapped with ops := [(1, { waitOp with body := .copy (doneCopy (some ⟨0x10100, 5⟩)) })], nextOp := 2 }
def stampPiece : Piece := (okPiece (copyPiece stamped 0 hostQueue 0 true 0 0x10100 8)).getD ⟨0, 0, 0, ⟨0, 0, 0, 0, 0, 0⟩, false, .slice⟩
theorem witness_copy_complete : (doneCopy none).todo = [] ∧ (doneCopy none).owed = [] ∧ (copying (doneCopy none)).Inv ∧ stamped.Inv ∧
    copyPiece stamped waitOp.qn hostQueue 0 true 0 0x10100 8 = .ok stampPiece ∧ writeCause stamped 0 hostQueue stampPiece = none ∧
    writeHeld stamped 0 stampPiece = false := by
  refine ⟨rfl, rfl, by decide +kernel, by decide +kernel, ok_of_okPiece (by decide +kernel), by decide +kernel, by decide +kernel⟩

/-- A channel in a state; `cpyc` takes its head from k4:k5. -/
def chained (f : Channel → Channel) (s : State) : State := s.modChannel (teamKey 1 0) 1 f
def inState (st : ChState) : State := chained (fun x => { x with st := st, at_ := 0x10140 }) (bare.grp (uni 4 0x10140))
theorem witness_chain_units : (∀ st ∈ [ChState.idle, .fetch, .run, .wait, .halt], ctx? (inState st) = some (itsCtx (inState st)) ∧
      ((itsCtx (inState st)).team.channel 1).st = st) ∧ 1 < (itsCtx (inState .idle)).team.channels.length ∧
    canonical ((itsCtx (inState .idle)).group.kpair 4) = true ∧ ((itsCtx (inState .idle)).group.kpair 4).toNat % 64 = 0 ∧
    stampConds (itsCtx (inState .idle)) (stampBlock (itsCtx (inState .idle)) 0 0) = [] ∧ ((itsCtx (inState .run)).team.channel 1).busy = true ∧
    ((itsCtx (inState .idle)).team.channel 1).busy = false ∧ EngineFree (inState .idle) (itsCtx (inState .idle)) [] ∧ chainsOf (inState .idle) 0 < 4 ∧
    copiesOf (inState .idle) 0 + chainsOf (inState .idle) 0 < 32 ∧ ((itsCtx (inState .wait)).team.channel 1).stamp = none := by
  refine ⟨by decide +kernel, by decide +kernel, by decide +kernel, by decide +kernel, by decide +kernel, by decide +kernel, by decide +kernel,
    ⟨?_, ?_, ?_, ?_⟩, ?_, ?_, ?_⟩ <;> decide +kernel

/-- A record at 0x10140, owned or not: 64 bytes within the scratchpad. -/
def aRecord (own : Nat) : Nat := 0x400 * 2 ^ 384 + 0x200 * 2 ^ 320 + 2 ^ 192 + 64 * 2 ^ 160 + 0x30 + own
def recorded (own : Nat) (st : ChState) : State :=
  chained (fun x => { x with st := st, at_ := 0x10140, op := if st = .run then 1 else 0, word := if st = .run then aRecord 1 else 0 })
    { mapped with mem := pageTables ++ cells 0x30010140 64 (aRecord own), cycle := 4096, nextOp := 2
                  ops := if st = .run then [(1, { waitOp with body := .copy { doneCopy none with chain := some 1 } })] else [] }
def recPiece (own : Nat) (w : Bool) (n : Nat) : Piece :=
  (okPiece (copyPiece (recorded own (if w then .run else .fetch)) 0 hostQueue 0 w 0 0x10140 n)).getD ⟨0, 0, 0, ⟨0, 0, 0, 0, 0, 0⟩, false, .slice⟩
theorem witness_record_fetch : (∀ own ∈ [0, 1], okPiece (copyPiece (recorded own .fetch) (itsCtx (recorded own .fetch)).team.qn hostQueue 0 false 0 0x10140 64) = some (recPiece own false 64) ∧
      deniedClass (recorded own .fetch) hostQueue (recPiece own false 64) = none ∧ badIn (recorded own .fetch) (recPiece own false 64).pa 64 = none ∧
      (recPiece own false 64).x.region ≠ 1 ∧
      bitOf ((notePieces (recorded own .fetch) hostQueue none 0 false [recPiece own false 64]).num (recPiece own false 64).pa 64) 0 = (own == 1)) ∧
    badRec ((notePieces (recorded 1 .fetch) hostQueue none 0 false [recPiece 1 false 64]).num (recPiece 1 false 64).pa 64) = false ∧
    recOutside (itsCtx (recorded 1 .fetch)).team (recOf (aRecord 1)) = false ∧ recFits (notePieces (recorded 1 .fetch) hostQueue none 0 false [recPiece 1 false 64]) (teamKey 1 0) (itsCtx (recorded 1 .fetch)).team
      (recLocks (notePieces (recorded 1 .fetch) hostQueue none 0 false [recPiece 1 false 64]) (teamKey 1 0) 1 (itsCtx (recorded 1 .fetch)).team hostQueue (recOf (aRecord 1))) = true ∧
    teamQueue (recorded 1 .fetch) (itsCtx (recorded 1 .fetch)).team = some hostQueue ∧ ((itsCtx (recorded 1 .fetch)).team.channel 1).ending = none ∧
    (((itsCtx (recorded 0 .wait)).team.channel 1).since + 4096 ≤ (recorded 0 .wait).cycle) ∧
    chainLine (recorded 0 .wait) hostQueue ((itsCtx (recorded 0 .wait)).team.channel 1) ≠ ((itsCtx (recorded 0 .wait)).team.channel 1).line ∧
    choice { recorded 0 .wait with choices := [1] } = 1 := by decide +kernel
theorem witness_record_complete : (recorded 1 .run).Inv ∧ ((itsCtx (recorded 1 .run)).team.channel 1).st = .run ∧
    tabGet (recorded 1 .run).ops 1 = some { waitOp with body := .copy { doneCopy none with chain := some 1 } } ∧
    copyPiece (recorded 1 .run) waitOp.qn hostQueue 0 true 0 0x10140 8 = .ok (recPiece 1 true 8) ∧ writeCause (recorded 1 .run) 0 hostQueue (recPiece 1 true 8) = none ∧
    writeHeld (recorded 1 .run) 0 (recPiece 1 true 8) = false ∧ (recOf ((itsCtx (recorded 1 .run)).team.channel 1).word).next = 0 := by
  refine ⟨by decide +kernel, by decide +kernel, by decide +kernel, ok_of_okPiece (by decide +kernel), ?_, ?_, ?_⟩ <;> decide +kernel

/-! Links and peers (15) -/

/-- Slot 0 of queue 0's peer table names queue 3 of device 5; v10:v11 hold remote addresses, k16 to k20 the block of a send from the scratchpad. -/
def linkS : State :=
  { mapped.grp (fun g => uni 16 0x10000 (uni 18 0x200 (uni 20 64 (flat 11 0 (lanes 10 [0x10200, 0x10300, 0x10204, 0x10208] g))))) with
    mem := cells 0x10001000 16 (1 + 3 * 2 ^ 36 + 5 * 2 ^ 48) ++ pageTables }
theorem witness_link_load : ctx? linkS = some (itsCtx linkS) ∧ replayFull linkS (itsCtx linkS) = false ∧
    remoteConds (itsCtx linkS) (pairEa (itsCtx linkS).group 5) (sizeOf 2) = [] ∧
    Fits linkS (itsCtx linkS) { v := loadWrites 20 (sizeOf 2) (itsCtx linkS).split.mask (fun _ => 0) } ∧ peerSlot linkS (itsCtx linkS).q 1 = none ∧
    peerSlot linkS (itsCtx linkS).q 0 = some (0, 5, 3) ∧ EngineFree linkS (itsCtx linkS) [] := by
  refine ⟨by decide +kernel, by decide +kernel, by decide +kernel, ?_, by decide +kernel, by decide +kernel, ⟨?_, ?_, ?_, ?_⟩⟩ <;> (try unfold Fits) <;> decide +kernel
/-- `lgat` of rows of 64 bytes at 0x200. -/
def gatherS : State := linkS.grp (fun g => uni 16 0x200 (uni 17 64 g))
theorem witness_link_gather : ctx? gatherS = some (itsCtx gatherS) ∧ replayFull gatherS (itsCtx gatherS) = false ∧
    remoteConds (itsCtx gatherS) (pairEa (itsCtx gatherS).group 5) 4 = [] ∧
    rngConds gatherS (itsCtx gatherS) false (gatherRng (itsCtx gatherS).split.mask 0x200 64) = [] ∧
    (itsCtx gatherS).group.kread 16 = 0x200 ∧ (itsCtx gatherS).group.kread 17 = 64 ∧ peerSlot gatherS (itsCtx gatherS).q 0 = some (0, 5, 3) ∧
    EngineFree gatherS (itsCtx gatherS) [gatherRng (itsCtx gatherS).split.mask 0x200 64] := by
  refine ⟨by decide +kernel, by decide +kernel, by decide +kernel, by decide +kernel, by decide +kernel, by decide +kernel, by decide +kernel, ⟨?_, ?_, ?_, ?_⟩⟩ <;> decide +kernel

/-- `lwr` and `lred` from the scratchpad. -/
def aSend (red : Bool) : Link := sendBlock (itsCtx linkS) (if red then .lred else .lwr) 0 2 1 0 0 0 0
theorem witness_link_send : (∀ red ∈ [false, true], EngineFree linkS (itsCtx linkS) [(aSend red).srcRng]) ∧ ∀ red ∈ [false, true], boundConds linkS (itsCtx linkS) (aSend red).srcRng = [] ∧
    boundConds linkS (itsCtx linkS) { sp := .mem, addr := (aSend red).dst, n := (aSend red).len, write := false } = [] ∧ stampConds (itsCtx linkS) (aSend red).stamp = [] ∧
    (peerSlot linkS (itsCtx linkS).q 0).isSome = true ∧ 0 < (aSend red).len ∧ (aSend red).len ≤ 16777215 ∧
    ((aSend red).dst % 4 = 0 ∧ (aSend red).src % 4 = 0 ∧ (aSend red).len % 4 = 0) ∧ (aSend red).srcSp = .spad ∧
    spadHome linkS (itsCtx linkS).key = .live (itsCtx linkS).team := by
  refine ⟨fun red m => ⟨?_, ?_, ?_, ?_⟩, ?_⟩ <;> (try revert red) <;> decide +kernel

/-- `mxr` of one rank, which is this device and queue 0: its descriptor at 0x10000, its rank table at 0x10800, its runs at 0x10900 and 0x10a00. -/
def collBits : Nat := 2 ^ 352 + 0x10800 * 2 ^ 384
def rankByte (i : Nat) : Byte := BitVec.ofNat 8 (Config.device % 65536 / 256 ^ i)
def reduceMem : List Host.Cell := pageTables ++ cells 0x30010000 64 collBits
def reduceS : State :=
  { bare.grp (fun g => uni 16 0x10000 (uni 18 0x10900 (uni 20 0x10a00 g))) with
    mem := reduceMem ++ [(0x30010800, 0), (0x30010801, 0), (0x30010802, rankByte 0), (0x30010803, rankByte 1)] }
theorem memGet_past {m : List Host.Cell} (n : List Host.Cell) {p : Nat} (h : m.all (fun c => c.1 != p) = true) : memGet (m ++ n) p = memGet n p := by
  induction m with
  | nil => rfl
  | cons c t ih =>
    simp only [List.all_cons, Bool.and_eq_true, bne_iff_ne, ne_eq] at h
    simp [memGet, h.1, ih h.2]
theorem own_rank : rankAt reduceS (itsCtx reduceS).q (collOf collBits) 0 = 65536 * (Config.device % 65536) := by
  have h : hwPieces reduceS (itsCtx reduceS).q 0x10800 4 = some [(0x30010800, 4)] := by decide +kernel
  have e : (collOf collBits).rtab + 4 * 0 = 0x10800 := by decide +kernel
  have g : ∀ p ∈ [0x30010800, 0x30010801, 0x30010802, 0x30010803], reduceMem.all (fun c => c.1 != p) = true := by decide +kernel
  have b : reduceS.bytes 0x30010800 4 = [0, 0, rankByte 0, rankByte 1] := by
    change memGetMany (reduceMem ++ _) 0x30010800 4 = _
    simp only [memGetMany, memGet_past _ (g 0x30010800 (by simp)), memGet_past _ (g 0x30010801 (by simp)), memGet_past _ (g 0x30010802 (by simp)),
      memGet_past _ (g 0x30010803 (by simp)), Nat.reduceAdd]
    simp [memGet]
  unfold rankAt hwNum hwRead
  rw [e, h]
  simp only [Option.map_some, List.flatMap_cons, List.flatMap_nil, b, Option.getD_some, List.append_nil]
  simp [natOfBytes, rankByte]
  omega
theorem own_coll : badColl reduceS (itsCtx reduceS).q 0 0x10000 (collOf collBits) = false := by
  have a : (List.range ((collOf collBits).nr + 1)) = [0] := by decide +kernel
  have m : (collOf collBits).me = 0 := by decide +kernel
  have c : (0x10000 % 64 != 0 || (collOf collBits).res || decide ((collOf collBits).me > (collOf collBits).nr) ||
    (collOf collBits).rtab % 8 != 0 || !canonical (BitVec.ofNat 64 (collOf collBits).rtab) ||
    (collOf collBits).tmo == 0) = false := by decide +kernel
  unfold badColl
  rw [c, a, m, own_rank]
  simp [own_rank, bitsOf]
  omega
/-- The reads of the descriptor and of the rank's entry. -/
def collLooks : List Look := collReads reduceS (itsCtx reduceS) 0x10000
def reduceRng (i : Nat) (w : Bool) : Rng := { sp := .mem, addr := ((itsCtx reduceS).group.kpair i).toNat, n := 17, write := w }
theorem witness_link_reduce : ctx? reduceS = some (itsCtx reduceS) ∧ EngineFree reduceS (itsCtx reduceS) [reduceRng 18 false, reduceRng 20 true] ∧ mxfmtOf 4 = some .mxe2m1 ∧
    ((itsCtx reduceS).group.kpair 16).toNat = 0x10000 ∧ (∀ x ∈ collLooks, ∃ p, x.opens reduceS p) ∧
    (∀ w ∈ [false, true], rngConds reduceS (itsCtx reduceS) false { sp := .mem, addr := ((itsCtx reduceS).group.kpair (if w then 20 else 18)).toNat, n := 17, write := w } = []) ∧
    ((collLooks.head?).bind (·.piece)).isSome = true ∧
    natOfBytes (readPiece reduceS (itsCtx reduceS).q (((collLooks.head?).bind (·.piece)).getD ⟨0, 0, 0, ⟨0, 0, 0, 0, 0, 0⟩, false, .slice⟩)) = collBits ∧
    reduceS.migrations = [] := by
  have h : ∀ x ∈ collLooks, x.opens reduceS x.part := by simp only [Look.opens]; decide +kernel
  refine ⟨by decide +kernel, ⟨?_, ?_, ?_, ?_⟩, rfl, ?_, fun x m => ⟨_, h x m⟩, ?_, ?_, ?_, rfl⟩ <;> decide +kernel

/-! Flits, requests of peers, ports -/

/-- A response to this device. -/
def replyHeader : BitVec 160 := BitVec.ofNat 160 (2 ^ 56 * (Config.device % 65536) + 2 ^ 18 * (Config.flitOp kindReply).toNat)
theorem witness_flit : bitsOf replyHeader.toNat 0 8 = 0 ∧ bitsOf replyHeader.toNat 12 3 = 0 ∧ hdrDest replyHeader = Config.device % 65536 ∧
    bitsOf replyHeader.toNat 18 6 = (Config.flitOp kindReply).toNat ∧ bitsOf (1#160).toNat 0 8 ≠ 0 := by
  have a := (Config.flitOp kindReply).isLt
  have b : (2 ^ 56 * (Config.device % 65536) + 2 ^ 18 * (Config.flitOp kindReply).toNat) % 2 ^ 160 =
    2 ^ 56 * (Config.device % 65536) + 2 ^ 18 * (Config.flitOp kindReply).toNat := Nat.mod_eq_of_lt (by omega)
  refine ⟨?_, ?_, ?_, ?_, by decide⟩ <;> simp only [replyHeader, hdrDest, bitsOf, BitVec.toNat_ofNat, b] <;> omega
theorem witness_flit_status : hdrStatus (0x100#160) = 1 ∧ hdrStatus (0x200#160) = 2 ∧ hdrStatus (0x300#160) = 3 ∧ hdrStatus (0#160) = 0 ∧
    admits hostQueue (hdrClass 0#160) = false ∧ admits hostQueue (hdrClass (BitVec.ofNat 160 (0x30 * 2 ^ 112))) = true ∧
    hdrStatus (BitVec.ofNat 160 (0x30 * 2 ^ 112)) = 0 := by decide +kernel

/-- A request of device 5 to queue 0. -/
def aRequest (va : DWord) (act : PeerAct) : PeerReq := { dev := 5, tag := 9, queue := 0, squeue := 3, identity := 1, runs := [], port := 0, va := va, act := act }
def reqPieces (w : Bool) : List Piece := match reach mapped hostQueue none none 0 w 0x10100 4 with | .ok ps => ps | _ => []
theorem witness_peer_request : answered { mapped with answers := [⟨5, 9, 0, .denied⟩] } (aRequest 0x10100 (.fetch 4)) = some ⟨5, 9, 0, .denied⟩ ∧
    answered mapped (aRequest 0x10100 (.fetch 4)) = none ∧ canonical 0x200000000000000 = false ∧ mapped.wc = [] ∧
    (∀ a ∈ [PeerAct.fetch 4, .store [1, 2, 3, 4]], (reach mapped hostQueue none none 0 (peerWrites a) 0x10100 (peerSize a)) = .ok (reqPieces (peerWrites a)) ∧
      ∀ p ∈ reqPieces (peerWrites a), deniedClass mapped hostQueue p = none ∧ peerBad mapped (aRequest 0x10100 a) hostQueue p = false ∧
        peerRefused mapped (aRequest 0x10100 a) hostQueue p = false ∧ writeHeld mapped 0 p = false) ∧
    tabGet mapped.queues 0 = some hostQueue ∧ (barredPayload { aRequest 0x10100 (.store [1, 2, 3, 4]) with runs := [(4, some 0)] } hostQueue).isSome = true ∧
    barredPayload (aRequest 0x10100 (.fetch 4)) hostQueue = none ∧
    (match reach denied { hostQueue with grants := [(0, 1)] } none none 0 true 0x10100 4 with
      | .ok ps => ps.any (fun p => decide (0 < deniedCount denied { hostQueue with grants := [(0, 1)] } p))
      | _ => false) = true := by
  decide +kernel

/-- Operations whose requests have come back, or wait. -/
def aReq (d : Option Remote) : LinkReq :=
  { tag := 1, lane := 0, at_ := 0x10200, slot := 0, va := 0x10200, n := 4, dev := 5, rq := 3, kind := kindFetch, runs := [], also := [], data := [], got := [], denied := none, port := 2
    sent := 0, done := d }
def linkOp (form : LinkForm) (d : Option Remote) : Op :=
  { waitOp with lanes := 1, body := .link { Link.of form [aReq d] with peer := 0, size := 4, vd := 20, pd := 2, dst := 0x200, len := 4 } }
def linking (form : LinkForm) (d : Option Remote) : State := { linkS with ops := [(1, linkOp form d)], nextOp := 2, cycle := 2 ^ 20 }
theorem witness_port : ((linking .lld none).ops.map (·.1)).Nodup ∧ tabGet (linking .lld none).queues 0 = some hostQueue := by decide +kernel
theorem witness_link_complete : (∀ f ∈ [LinkForm.lld, .lgat, .lwr, .lred, .mxr],
      opCtxAny (linking f (some (.arrived [1, 2, 3, 4] []))) (linkOp f (some (.arrived [1, 2, 3, 4] []))) = some (itsCtx (linking f (some (.arrived [1, 2, 3, 4] []))))) ∧
    (∀ f ∈ [LinkForm.lld, .lgat, .lwr, .lred, .mxr], (itsCtx (linking f none)).live.splits ≠ []) ∧
    (∀ r ∈ [aReq (some (.arrived [1, 2, 3, 4] []))], r.denied = none ∧ ∃ bs cls, r.done = some (.arrived bs cls)) ∧ (∃ r ∈ [aReq none], r.done = none) ∧
    (Link.of .mxr [aReq none]).until_ ≤ (linking .mxr none).cycle ∧ (linking .mxr none).Inv ∧ (Link.of .mxr []).shape = 0 ∧
    (okPiece (copyPiece (linking .mxr none) 0 hostQueue 0 true 0 0x10100 8)).map (fun p => (writeCause (linking .mxr none) 0 hostQueue p, writeHeld (linking .mxr none) 0 p)) =
      some (none, false) := by
  refine ⟨by decide +kernel, by decide +kernel, ?_, ⟨aReq none, by simp, rfl⟩, by decide +kernel, by decide +kernel, rfl, by decide +kernel⟩
  intro r h
  simp only [List.mem_cons, List.not_mem_nil, or_false] at h
  subst h
  exact ⟨rfl, _, _, rfl⟩

/-! The distributor (16) -/

/-- A queue with one record to read: an entry, one team of one group, 64 registers, 4 KiB of scratchpad, and other bits. -/
def aRec (entry more : Nat) : Nat := entry * 2 ^ 448 + 63 * 2 ^ 26 + 63 * 2 ^ 20 + 16 * 2 ^ 32 + more
def launchS (w : Nat) : State := { bare with queues := [(0, { hostQueue with ltail := 2 })], mem := cells 0x40030040 64 w }
/-- The record waits on queue 0's event 1, which is an event early. -/
def waitRec : Nat := aRec 0x10000 (2 ^ 8 + 2 ^ 176)
def aWaiting (w : Nat) : Waiting := { index := 1, grid := 2, launch := recordOf w, table := [], stampMet := true, eventMet := false }
def waitingS : State := { bare with queues := [(0, { hostQueue with ltail := 2, events := 1, waiting := some (aWaiting waitRec) })], nextGrid := 3 }
theorem witness_launch : (launchS (aRec 0x10000 0)).num 0x40030040 64 = aRec 0x10000 0 ∧ (recordOf (aRec 0x10000 0)).curve ≠ 4 ∧
    refusal { hostQueue with ltail := 2 } (aRec 0 0) (recordOf (aRec 0 0)) false = some 0x78 ∧
    refusal { hostQueue with ltail := 2 } (aRec 0x10000 0) (recordOf (aRec 0x10000 0)) false = none ∧ (recordOf (aRec 0x10000 0)).depAddr = 0 ∧
    (recordOf (aRec 0x10000 0)).evOn = false ∧ (recordOf (aRec 0x10000 0)).kn = 0 ∧ refusal { hostQueue with ltail := 2 } waitRec (recordOf waitRec) false = none ∧
    (recordOf waitRec).evOn = true ∧ ¬ eventReached (launchS waitRec) (recordOf waitRec) ∧ eventReached waitingS (aWaiting waitRec).launch ∧
    (aWaiting waitRec).launch.kn = 0 := by
  refine ⟨?_, ?_, ?_, ?_, ?_, ?_, ?_, ?_, ?_, ?_, ?_, ?_⟩ <;> (try unfold eventReached) <;> decide +kernel

/-- A grid whose one team has ended, with a stamp address or without. -/
def overGrid (done : DWord) : Grid := ⟨0, { hostLaunch with doneAddr := done }, [], [], false, false, false, some 0, none, false⟩
def overS (done : DWord) : State := { mapped with grids := [(1, overGrid done)], teams := [(teamKey 1 0, { Team.start 0 1 0 1 4096 0 0x10000 [] with st := .ended })] }
def overAfter : State := raiseEvents { overS 0x10100 with grids := tabPut (overS 0x10100).grids 1 { overGrid 0x10100 with done := true } } 0
theorem witness_grid : gridOver (overS 0) 1 (overGrid 0) = true ∧ gridOver (overS 0x10100) 1 (overGrid 0x10100) = true ∧ canonical 0x10100 = true ∧ (overS 0x10100).Inv ∧
    (okPiece (copyPiece overAfter 0 { hostQueue with events := 1 } 0 true 0 0x10100 8)).map (fun p => (deniedClass overAfter { hostQueue with events := 1 } p, p.readOnly,
      p.x.region, badPart overAfter p.pa 8, heldByMigration overAfter p.pa 8, heldByCycle overAfter 0 0x10100 8)) = some (none, false, 0, none, false, false) := by decide +kernel

/-- `dlaunch` and `qsig` to the own queue (k9 holds 0), or to one that is not there; the ring stopped or full. -/
def targetS (q : Queue) (t : Nat) : State := { memS.grp (uni 9 t) with queues := [(0, q)] }
theorem witness_queue_units : permitted (targetS hostQueue 7) (itsCtx (targetS hostQueue 7)) (targetOf (itsCtx (targetS hostQueue 7)) 9) = false ∧
    ∀ q ∈ [hostQueue, { hostQueue with qstate := 2 }, { hostQueue with ltail := 17 }], ctx? (targetS q 0) = some (itsCtx (targetS q 0)) ∧
      permitted (targetS q 0) (itsCtx (targetS q 0)) (targetOf (itsCtx (targetS q 0)) 9) = true ∧ Calm (targetS q 0) (itsCtx (targetS q 0)) ∧
      releaseWaits (targetS q 0) (itsCtx (targetS q 0)) = false ∧ (targetS q 0).Inv ∧
      (lookAt (targetS q 0) (itsCtx (targetS q 0)) .load none true (lowLane (itsCtx (targetS q 0)).split.mask) ((itsCtx (targetS q 0)).group.kpair 4).toNat 64 64).opens (targetS q 0)
        (lookAt (targetS q 0) (itsCtx (targetS q 0)) .load none true (lowLane (itsCtx (targetS q 0)).split.mask) ((itsCtx (targetS q 0)).group.kpair 4).toNat 64 64).part := by
  refine ⟨?_, ?_⟩ <;> (try simp only [Look.opens, Calm]) <;> decide +kernel

/-! Records, drains, saves, fills (04) -/

def aFault : FaultRec := { queue := 0, bits := 7, who := .team (teamKey 1 0), seq := none }
def faultS : State := { bare with faults := [(1, aFault)] }
theorem witness_fault_record : tabGet faultS.faults 1 = some aFault ∧ tabGet faultS.queues 0 = some hostQueue ∧ faultS.Inv ∧
    (hostQueue.fprod + 2 ^ 32 - fcons faultS hostQueue) % 2 ^ 32 ≠ 2 ^ hostQueue.flog ∧
    (hostQueue.fring + 64 * (hostQueue.fprod % 2 ^ hostQueue.flog) + 64 ≤ hostQueue.at_ ∨ hostQueue.at_ + 256 ≤ hostQueue.fring + 64 * (hostQueue.fprod % 2 ^ hostQueue.flog)) := by
  decide +kernel
/-- A trap record of the grid, or of its team, under a policy. -/
def trapS (who : Option Nat) (park : Bool) : State :=
  { bare with trapRecs := [(1, { queue := 0, bits := 2 ^ 17, team := who })], queues := [(0, { hostQueue with policy := park })] }
theorem witness_trap_record : ∀ who ∈ [none, some (teamKey 1 0)], ∀ park ∈ [false, true], (trapS who park).Inv ∧ (trapS who park).fw.snapOn.getLsbD 1 = false ∧
    (∀ y ∈ (trapS who park).trapRecs, y.2.queue = 0 → 1 ≤ y.1) ∧ (0 + 2 ^ 32 - tcons (trapS who park) { hostQueue with policy := park }) % 2 ^ 32 ≠ 2 ^ 4 ∧
    bitOf (2 ^ 17) 17 = true ∧ (∀ tm ∈ tabGet (trapS who park).teams (teamKey 1 0), tm.st ≠ .ended ∧ tm.st ≠ .failed) := by decide +kernel

/-- The team's slot in a state, its team with a frame and a cause. -/
def slotS (st : SlotState) (cause : Cause) (retain saved : Bool) : State :=
  { bare.modCore 0 (fun k => { k with slots := [⟨st, teamKey 1 0, 0, retain, false⟩, ⟨.empty, 0, 0, false, false⟩, ⟨.empty, 0, 0, false, false⟩] }) with
    teams := [(teamKey 1 0, { Team.start 0 1 0 1 4096 0 0x10000 [] with st := .resident, budget := 64, framed := true, frame := 0x50000000, cause := cause, saved := saved })] }
theorem witness_drain : ∀ x ∈ [(Cause.preempt, true), (.trap, true), (.preempt, false)],
    slotAtIdx (slotS .draining x.1 x.2 false) 0 0 = some ⟨.draining, teamKey 1 0, 0, x.2, false⟩ ∧ teamOps (slotS .draining x.1 x.2 false) (teamKey 1 0) = [] ∧
    ((slotS .draining x.1 x.2 false).core 0).upd = [] ∧ (slotS .draining x.1 x.2 false).wc = [] ∧ ((slotS .draining x.1 x.2 false).core 0).running = none ∧
    pathFree ((slotS .draining x.1 x.2 false).core 0) = true ∧ ((slotS .draining x.1 x.2 false).core 0).retiring = false := by decide +kernel
theorem image_apart : ∀ tm ∈ tabGet (slotS .saving .preempt false false).teams (teamKey 1 0), ∀ j < tm.spadSize, ∀ k < tm.spadSize,
    imageAddr tm + j ≠ spadAddr tm.core tm.spadOff + k := by
  have h : ∀ tm ∈ tabGet (slotS .saving .preempt false false).teams (teamKey 1 0), imageAddr tm + tm.spadSize ≤ spadAddr tm.core tm.spadOff := by decide +kernel
  intro tm m j hj k _ e
  have := h tm m
  omega
theorem witness_save : frameOk (slotS .saving .preempt false false) (itsCtx (slotS .saving .preempt false false)).team = true ∧ (slotS .saving .preempt false false).Inv ∧
    (itsCtx (slotS .saving .preempt false false)).team.saves = 0 ∧
    slotIdx ((slotS .saving .preempt false false).core 0) (fun x => x.team == teamKey 1 0 && x.st != .empty) = some 0 ∧
    (∀ o ∈ (slotS .saving .preempt false false).ops, o.2.team ≠ teamKey 1 0) ∧
    locksFit (slotS .filling .preempt false true) 0 (itsCtx (slotS .filling .preempt false true)).team.locks.length = true ∧
    (∀ r ∈ savedRegions (itsCtx (slotS .saving .preempt false false)).team, r.1 + r.2 ≤ 0x10000000) ∧
    slotAtIdx (slotS .filling .preempt false false) 0 0 = some ⟨.filling, teamKey 1 0, 0, false, false⟩ ∧
    ((slotS .filling .preempt false true).core 0).running = none ∧ (slotS .filling .preempt false true).Inv := by decide +kernel

/-! Placement, ages, evictions, slices (16) -/

/-- A grid of two teams on the cores 0 and 1, or a single team on core 0, READY since cycle 0. -/
def tableLaunch (gang : Bool) : Launch :=
  if gang then { hostLaunch with ntx := 2, clustered := true, cw := 2, curve := 4, prio := 3 } else { hostLaunch with curve := 4, prio := 3 }
def tableGrid (gang : Bool) : Grid := ⟨0, tableLaunch gang, [], if gang then [0, 1, 512] else [0, 512], false, false, false, none, none, false⟩
/-- The cores' slots are given, and the cycle; frames are there or not. -/
def readyS (gang frames : Bool) (slots : List Slot) (now : Nat) : State :=
  { State.reset with
    queues := [(0, if frames then hostQueue else { hostQueue with fbytes := 0 })], grids := [(1, overGrid 0), (2, tableGrid gang)], nextGrid := 3
    teams := [(teamKey 1 0, { Team.start 0 1 0 1 4096 0 0x10000 [] with st := .resident, budget := 2816 })] ++
      (List.range (if gang then 2 else 1)).map (fun n => (teamKey 2 n, Team.start 0 2 n 1 4096 0 0x10000 []))
    cores := [(0, { Core.reset with slots := slots })], cycle := now }
def empties : List Slot := [⟨.empty, 0, 0, false, false⟩, ⟨.empty, 0, 0, false, false⟩, ⟨.empty, 0, 0, false, false⟩]
def heldBy (st : SlotState) : List Slot := ⟨st, teamKey 1 0, 0, false, false⟩ :: empties.drop 1
def firstTeam (n : Nat) : Team := Team.start 0 2 n 1 4096 0 0x10000 []
theorem witness_placement : (readyTeams (readyS false true empties 0)).filter (fun x => x.1 == teamKey 2 0) = [(teamKey 2 0, firstTeam 0)] ∧
    ((planFor (readyS false true empties 0) (readyS false true empties 0).core (teamKey 2 0) (firstTeam 0)).map (·.1.put)) = some [(teamKey 2 0, 0)] ∧
    partsFor (readyS false true empties 0) (tableGrid false) (teamKey 2 0) (firstTeam 0) = [.single (teamKey 2 0)] ∧
    earlierFits (readyS false true empties 0) [teamKey 2 0] (firstTeam 0) = false ∧ pathFree ((readyS false true empties 0).core 0) = true ∧
    (roomOn (readyS false true empties 0) ((readyS false true empties 0).core 0) (tableLaunch false)).isSome = true ∧
    slotIdx ((readyS false true empties 0).core 0) (fun sl => sl.st == .empty) = some 0 := by decide +kernel
/-- A core that fills a team of a small budget has room, but its streaming path is in use. -/
def fillingS : State :=
  { readyS true true (heldBy .filling) 0 with
    teams := tabPut (readyS true true empties 0).teams (teamKey 1 0) { Team.start 0 1 0 1 4096 0 0x10000 [] with st := .resident, budget := 64 } }
theorem witness_gang_placement : ∀ s ∈ [readyS true true empties 0, fillingS], (readyTeams s).filter (fun x => x.1 == teamKey 2 0) = [(teamKey 2 0, firstTeam 0)] ∧
    ((planFor s s.core (teamKey 2 0) (firstTeam 0)).map (·.1.put)) = some [(teamKey 2 0, 0), (teamKey 2 1, 1)] ∧
    partsFor s (tableGrid true) (teamKey 2 0) (firstTeam 0) = [.rect [(teamKey 2 0, 0), (teamKey 2 1, 1)]] ∧
    leadOf s ((readyTeams s).filter (fun x => [teamKey 2 0, teamKey 2 1].contains x.1)) = some (teamKey 2 0, firstTeam 0) ∧
    earlierFits s [teamKey 2 0, teamKey 2 1] (firstTeam 0) = false ∧ pathFree (s.core 1) = true := by decide +kernel
theorem witness_gang_paths : pathFree ((readyS true true empties 0).core 0) = true ∧ pathFree (fillingS.core 0) = false := by decide +kernel

theorem witness_ages : (readyTeams (readyS true false empties 1048576)).find? (fun t => t.1 == teamKey 2 0) = some (teamKey 2 0, firstTeam 0) ∧
    (firstTeam 0).readySince + 65536 * ((firstTeam 0).levelUp + 1) ≤ 1048576 ∧ effLevel (readyS true false empties 1048576) (firstTeam 0) < 15 ∧
    isGang (tableGrid true) = true ∧ waitingSince (readyS true false empties 1048576) (tableGrid true) (firstTeam 0) [.rect [(teamKey 2 0, 0), (teamKey 2 1, 1)]] + 1048576 ≤ 1048576 ∧
    planFor (readyS true false empties 1048576) (readyS true false empties 1048576).core (teamKey 2 0) (firstTeam 0) = none ∧
    (fewest (readyS true false empties 1048576) (tableGrid true) (recordLevel (readyS true false empties 1048576) (firstTeam 0)) [] []
      (.rect [(teamKey 2 0, 0), (teamKey 2 1, 1)])).isSome = true := by decide +kernel
/-- Core 0 is full of a team of level 0, and a single team of level 3 waits. -/
def fullS : State := readyS false true (heldBy .running) 4096
theorem witness_eviction : (readyTeams fullS).find? (fun t => t.1 == teamKey 2 0) = some (teamKey 2 0, firstTeam 0) ∧ isGang (tableGrid false) = false ∧
    planFor fullS fullS.core (teamKey 2 0) (firstTeam 0) = none ∧
    (planFor fullS (fun c => vacate (fullS.core c) []) (teamKey 2 0) (firstTeam 0)).isSome = false ∧
    ((fullS.teams.filter (fun x => x.2.st == .resident && decide (recordLevel fullS x.2 < effLevel fullS (firstTeam 0)))).map (·.1)) = [teamKey 1 0] ∧
    (∀ v ∈ tabGet fullS.teams (teamKey 1 0), evictable fullS none v = true ∧ leaveWith fullS (teamKey 1 0) v = [teamKey 1 0] ∧ v.core = 0) ∧
    (planFor fullS (fun c => vacate (fullS.core c) [teamKey 1 0]) (teamKey 2 0) (firstTeam 0)).isSome = true ∧
    slotIdx (fullS.core 0) (fun x => x.team == teamKey 1 0 && x.st != .empty) = some 0 ∧ slotAtIdx fullS 0 0 = some ⟨.running, teamKey 1 0, 0, false, false⟩ ∧
    slotIdx (fullS.core 0) (fun x => x.st == .running) = some 0 := by decide +kernel
/-- A SHADOW team of the same level. -/
def sliceS : State :=
  { bare.modCore 0 (fun k => { k with slots := [⟨.running, teamKey 1 0, 0, false, false⟩, ⟨.shadow, teamKey 3 0, 0, false, false⟩, ⟨.empty, 0, 0, false, false⟩] }) with
    grids := [(1, overGrid 0), (3, overGrid 0)], cycle := 1048576
    teams := bare.teams ++ [(teamKey 3 0, { Team.start 0 3 0 1 4096 0 0x10000 [] with st := .resident, spadOff := 4096 })] }
theorem witness_slice : (sliceS.core 0).running = some ⟨.running, teamKey 1 0, 0, false, false⟩ ∧ slotIdx (sliceS.core 0) (fun x => x.st == .running) = some 0 ∧
    (overGrid 0).launch.resonly = false ∧ 0 + 1048576 ≤ sliceS.cycle ∧ (∃ sl ∈ (sliceS.core 0).slots, sl.st = .shadow ∧ sl.evict = false ∧
      (match tabGet sliceS.teams sl.team with | some t => recordLevel sliceS t | none => 0) = recordLevel sliceS (itsCtx sliceS).team) := by decide +kernel

/-! Page migration, the host, relocation, releases (03, 07, 13) -/

/-- A migration of the second page to the cold tier, in a state, with dirty lines and a leaf as read. -/
def aMig (st : MigState) (lines : List Nat) (e0 : DWord) : Migration :=
  { queue := 0, va := 0x10000, leafAt := 0x20004008, e0 := e0, dest := 0x10000000000, st := st, rounds := 0, src := 0x30010000, size := 65536, lines := lines
    wasDirty := false, finalAt := 0, die := 0, begun := true, cmd := (.board, 1) }
def migS (m : Migration) : State := { mapped with migrations := [(1, m)], cycle := 6000 }
theorem witness_migration : (∀ st ∈ [MigState.precopy, .recopy, .final, .inval], tabGet (migS (aMig st [] 0)).migrations 1 = some (aMig st [] 0) ∧ (migS (aMig st [] 0)).Inv) ∧
    (aMig .precopy [] 0).src % 128 = 0 ∧ (aMig .precopy [] 0).dest % 128 = 0 ∧ (aMig .precopy [] 0).size % 128 = 0 ∧
    (aMig .precopy [] 0).src + (aMig .precopy [] 0).size ≤ (aMig .precopy [] 0).dest ∧ (aMig .recopy [0x600200] 0).rounds < 4 ∧
    leafCore (BitVec.ofNat 64 ((copyLines (migS (aMig .final [] 0xc003080000003001)) (aMig .final [] 0xc003080000003001) []).num 0x20004008 8)) =
      leafCore 0xc003080000003001 ∧
    leafCore (BitVec.ofNat 64 ((copyLines (migS (aMig .final [] 0)) (aMig .final [] 0) []).num 0x20004008 8)) ≠ leafCore 0 ∧
    (aMig .final [] 0).finalAt + 6000 ≤ (migS (aMig .final [] 0)).cycle ∧ (migS (aMig .final [] 0)).cycle ≤ (aMig .final [] 0).finalAt + 6000 ∧
    (migS (aMig .precopy [] 0)).bad = [] ∧ (aMig .final [] 0).finalAt + 6000 < { migS (aMig .final [] 0) with cycle := 6001 }.cycle ∧
    (∃ l ∈ (aMig .precopy [] 0).all, badIn { migS (aMig .precopy [] 0) with bad := [0x30010000 / 64] } (128 * l) 128 ≠ none) := by
  refine ⟨?_, ?_, ?_, ?_, ?_, ?_, ?_, ?_, ?_, ?_, ?_, ?_, ⟨0x30010000 / 128, ?_, ?_⟩⟩ <;> decide +kernel
theorem sound_of_none {s : State} (h : s.bad = []) (a n : Nat) : badIn s a n = none := by simp [badIn, h]
theorem witness_none_waits : noneWaits (migS (aMig .inval [] 0)) 1 := by
  intro x hx hne
  simp only [migS, List.mem_singleton] at hx
  exact absurd (congrArg Prod.fst hx) hne

theorem witness_host : hostPlace mapped 0x30010100 4 = true ∧ heldByMigration mapped 0x30010100 4 = false ∧ mapped.Inv ∧
    (∀ q ∈ mapped.queues, overlaps 0x30010100 0x30010104 q.2.at_ (q.2.at_ + 256) = false) ∧ badIn (closePhys mapped 0x30010100 4) 0x30010100 4 = none ∧
    heldObject mapped 0x30010100 4 = false ∧ sealedAt mapped 0x30010100 4 = false ∧ hostPlace (closePhys mapped 0x30010100 4) 0x30010100 4 = true ∧ mapped.wc = [] ∧
    hostPlace mapped 0xf0000000000 4 = false := by decide +kernel

/-- A heap whose cycle stands in a state, or whose heal pass runs. -/
def aCycle (st : RelState) : RelCycle := { st := st, objs := [⟨0x200100, 0x200800, 32⟩], rounds := 0, finalAt := 0, cmd := some (.board, 1), eRel := 0, dirty := [0], held := [] }
def cycleS (h : Heap) : State := { heapS with heaps := [(0, h)], cycle := 6000 }
theorem witness_cycle : largestRun (cycleS { aHeap with trigger := 1 }) 0 hostQueue { aHeap with trigger := 1 } < 4096 * 1 ∧ aHeap.autoAt ≤ (cycleS aHeap).cycle ∧ aHeap.cycle = none ∧
    aHeap.heal = false ∧ (aCycle .final).finalAt + 6000 ≤ (cycleS aHeap).cycle ∧
    (∀ st ∈ [RelState.copying, .recopy, .final, .ack], tabGet (cycleS { aHeap with cycle := some (aCycle st) }).heaps 0 = some { aHeap with cycle := some (aCycle st) }) ∧
    (∀ o ∈ (aCycle .final).objs, copyable (cycleS { aHeap with cycle := some (aCycle .final) }) hostQueue o.old (16 + o.size) false = true ∧
      copyable (cycleS { aHeap with cycle := some (aCycle .final) }) hostQueue o.new (16 + o.size) true = true) ∧
    tabGet (cycleS { aHeap with heal := true }).heaps 0 = some { aHeap with heal := true } := by decide +kernel

/-- A release that an attention unit's epoch is not past, and one that none holds; an entry of the write-combining buffers. -/
def relS (s : State) : State := { s with released := [⟨0, 0x200100, 48, 0⟩] }
def aWc : WcEntry := { queue := 0, body := 0x200110, valueHalf := false, block := 0, fmt := .e4m3, vals := [], opened := 0, timeout := 10, slice := 0, elemsAt := [], scaleAt := [], writers := [] }
theorem witness_release : epochPassed (relS bare) 0 = true ∧ epochPassed (relS (attending 0x30)) 0 = false ∧ (relS bare).released[0]? = some ⟨0, 0x200100, 48, 0⟩ ∧
    tabGet { bare with wc := [(1, aWc)], cycle := 10 }.wc 1 = some aWc ∧ aWc.opened + aWc.timeout ≤ 10 := by decide +kernel

/-! The firmware (17) -/

/-- Being served, as a truth value. -/
def serves (s₀ : State) (op : Nat) (c : Cmd) (own always : Bool) : Bool :=
  let s := asked op c s₀
  s.fw.powered && handed s op c && (!s.fw.recovery || always) && (!own || decide (s.fw.owner = some c.master)) && decide (c.rsv = 0)
theorem served_of_serves {s : State} {op : Nat} {c : Cmd} {own always : Bool} (h : serves s op c own always = true) : Served (asked op c s) op c own always := by
  simp only [serves, Bool.and_eq_true, Bool.or_eq_true, Bool.not_eq_true', decide_eq_true_eq] at h
  obtain ⟨⟨⟨⟨a, b⟩, d⟩, e⟩, f⟩ := h
  refine ⟨a, b, d, ?_, f⟩
  intro o
  rcases e with e | e
  · simp [o] at e
  · exact e

/-- A command of the board's controller, which owns the device. -/
def ask (a0 a1 a2 a3 : DWord) : Cmd := ⟨.board, 7, 0, a0, a1, a2, a3, 0, 0, 0⟩
def owned (s : State) : State := { s with fw := { s.fw with owner := some .board } }
theorem witness_command_refusals : commandOf (.qstop (ask 0 0 0 0)) = some (0x11, ask 0 0 0 0, true, false) ∧ State.reset.fw.powered = true ∧
    handed (asked 0x11 (ask 0 0 0 0) State.reset) 0x11 (ask 0 0 0 0) = true ∧ State.reset.fw.recovery = false ∧ State.reset.fw.owner ≠ some .board ∧ (owned State.reset).fw.owner = some .board ∧
    ({ ask 0 0 0 0 with rsv := 1 } : Cmd).rsv ≠ 0 ∧ handed State.reset 0x11 { ask 0 0 0 0 with master := .host } = false ∧ (0x99#16).toNat ∉ listedOps ∧
    handed (asked 0x99 (ask 0 0 0 0) State.reset) 0x99 (ask 0 0 0 0) = true := by decide +kernel

theorem witness_ownership : (∀ s ∈ [State.reset, owned State.reset], ∀ op ∈ [0x01, 0x02, 0x04], serves s op (ask 0 0 0 0) false true = true) ∧
    serves { State.reset with fw := { Firmware.reset with owner := some .host } } 0x02 (ask 0 0 0 0) false true = true ∧
    serves (owned State.reset) 0x03 (ask 3 0 0 0) true false = true ∧ (ask 3 0 0 0).a0.toNat < 4 ∧ hostFits (ask 0 0 0 0).a6.toNat (attestReport State.reset (ask 0 0 0 0)).length = true ∧
    State.reset.fw.lmsNext < State.reset.fw.lmsLimit ∧ serves (owned State.reset) 0x05 (ask 0 16 0 0) true true = true ∧
    hostFits (ask 0 16 0 0).a0.toNat (ask 0 16 0 0).a1.toNat = true ∧ imageAccepted ((owned State.reset).bytes (hostPa 0) 16) = false := by decide +kernel

theorem witness_power : serves (owned State.reset) 0x06 (ask 0 0 0 0) true false = true ∧ (∀ g ∈ (owned State.reset).grids, g.2.done = true) ∧
    { Firmware.reset with powered := false }.powered = false ∧ 880 ≤ { Firmware.reset with temp := 880 }.temp ∧ serves (owned State.reset) 0x40 (ask 1500 0 0 0) true false = true ∧
    1500 ≤ (ask 1500 0 0 0).a0.toNat ∧ (ask 1500 0 0 0).a0.toNat ≤ 3000 ∧ serves (owned State.reset) 0x41 (ask 0 0 0 0) false false = true ∧
    serves (owned State.reset) 0x31 (ask 511 0 0 0) true false = true ∧ ((owned State.reset).core 511).gone = false ∧ ((owned State.reset).core 511).retiring = false ∧
    (∀ sl ∈ ((owned State.reset).core 511).slots, sl.st = .empty) ∧ (∀ o ∈ (owned State.reset).ops, o.2.core ≠ 511) ∧
    tabGet State.reset.ports 11 = some ⟨true, 0, none⟩ := by decide +kernel

/-- With a snapshot held, or one awaited. -/
def snapped : State := { owned State.reset with fw := { (owned State.reset).fw with snap := some (takeSnapshot State.reset) } }
def snapping : State := { State.reset with fw := { Firmware.reset with snapPending := [512] }, cycle := 512 }
theorem witness_snapshots : (∀ s ∈ [owned State.reset, snapped], (∀ op ∈ [0x20, 0x21, 0x23], serves s op (ask 7 5 0 0) true false = true) ∧
      (∀ op ∈ [0x22, 0x30], serves s op (ask 7 5 0 0) false false = true)) ∧ (ask 7 5 0 0).a0.toNat < 8 ∧ bitsOf (ask 7 5 0 0).a1.toNat 8 8 = 0 ∧
    bitsOf (ask 7 5 0 0).a1.toNat 32 32 = 0 ∧ (owned State.reset).fw.snap = none ∧ (owned State.reset).fw.snapPending = [] ∧ snapped.fw.snap.isSome = true ∧
    hostFits 7 5 = true ∧ hostFits 7 4096 = true ∧ 512 ∈ snapping.fw.snapPending ∧ snapping.cycle = 512 := by decide +kernel

/-- Queue 0 stands, queue 1 does not; a descriptor image with rings of 16 records in host memory. -/
def ringBits : Nat := 4 * 2 ^ 88 + 4 * 2 ^ 93 + 4 * 2 ^ 98 + 4 * 2 ^ 103
def queueS (q : Queue) : State := { owned State.reset with queues := [(0, q)], mem := pageTables ++ cells 0xc000000000 256 ringBits }
theorem witness_queue_commands : (∀ op ∈ [0x10, 0x11, 0x12, 0x13, 0x14], serves (queueS hostQueue) op (ask 0 0 0 0) true false = true) ∧
    serves (queueS hostQueue) 0x1e (ask 0 0 0 0) false false = true ∧ serves (queueS hostQueue) 0x10 (ask 1 0 0 0) true false = true ∧ hostFits 0 256 = true ∧
    badDescriptor ((queueS hostQueue).num (hostPa 0) 256) = false ∧ (tabGet (queueS hostQueue).queues 1).isNone = true ∧ hostQueue.qstate ≠ 0 ∧ hostQueue.destroy = none ∧
    canonical (ask 0 0x10000 0 0).a1 = true ∧ tabGet (queueS { hostQueue with destroy := some (.board, 7) }).queues 0 = some { hostQueue with destroy := some (.board, 7) } ∧
    (∀ g ∈ (queueS hostQueue).grids, g.2.queue = 0 → g.2.done = true) := by decide +kernel
/-- A window load on the page that `INVPAGE` names waits for its answer. -/
def windowed : State := { owned linkS with ops := [(1, linkOp .windowLoad none)], nextOp := 2, cores := [] }
theorem witness_invpage : peersOut windowed hostQueue.asid (pagesAt windowed hostQueue 0x10000) = true ∧ serves windowed 0x13 (ask 0 0x10000 0 0) true false = true ∧
    (∀ k, (windowed.core k).upd = []) ∧ windowed.wc = [] ∧
    peersOut (queueS hostQueue) hostQueue.asid (pagesAt (queueS hostQueue) hostQueue 0x10000) = false := by
  refine ⟨by decide +kernel, by decide +kernel, fun k => ?_, rfl, by decide +kernel⟩
  rfl
theorem witness_no_updates : ∀ k, ((queueS hostQueue).core k).upd = [] := fun _ => rfl

/-- A written fault record that the team waits on; the team stands in a state. -/
def teamS (st : TeamState) (pending : Nat) : State :=
  { owned bare with
    faults := [(4, { aFault with seq := some 3 })], grids := [(1, { overGrid 0 with kept := some (teamKey 1 0) })]
    teams := [(teamKey 1 0, { Team.start 0 1 0 1 4096 0 0x10000 [] with st := st, budget := 64, pending := pending })] }
theorem witness_team_commands : (∀ st ∈ [TeamState.faulted, .parked, .resident, .ended], ∀ op ∈ [0x15, 0x16, 0x17, 0x18], serves (teamS st 1) op (ask 0 1 0 0) true false = true) ∧
    serves (teamS .faulted 1) 0x15 (ask 0 3 0 0) true false = true ∧ faultOfSeq (teamS .faulted 1) 0 3 = some (4, { aFault with seq := some 3 }) ∧
    faultOfSeq (teamS .faulted 1) 0 1 = none ∧ faultGrid (teamS .faulted 1) { aFault with seq := some 3 } = some (1, some (teamKey 1 0)) ∧
    (∀ st ∈ [TeamState.parked, .resident], (namedTeam (teamS st 0) (ask 0 1 0 0)).map (·.1) = some (teamKey 1 0)) ∧
    (teamsIn (teamS .resident 0) 1 .resident).map (·.1) = [teamKey 1 0] ∧
    slotIdx ((teamS .resident 0).core 0) (fun x => x.team == teamKey 1 0 && x.st != .empty) = some 0 ∧
    slotIdx ((teamS .resident 0).core 0) (fun x => x.st == .running) = some 0 := by decide +kernel

/-- A heap's descriptor at 0x10100; heaps with objects and without. -/
def bindS (h : Tab Heap) (mem : List Host.Cell) : State := { owned bare with heaps := h, mem := mem }
def heapBits : Nat := 2 ^ 128 + 0x200000 * 2 ^ 192
theorem witness_heap_commands : (∀ op ∈ [0x19, 0x1a, 0x1b, 0x1c, 0x1d], serves (bindS [] (pageTables ++ cells 0x30010100 64 heapBits)) op (ask 0 0x10100 0 0) true false = true) ∧
    relocWork aHeap = false ∧ relocWork { aHeap with healCmd := some (.host, 0) } = true ∧ migrating (bindS [] heapTables) 0x20004008 = false ∧ migrating (migS (aMig .final [] 0)) 0x20004008 = true ∧
    readHeapDesc (bindS [] (pageTables ++ cells 0x30010100 64 heapBits)) hostQueue 0x10100 = some heapBits ∧ badHeap heapBits (heapFrom 0x10100 heapBits) = false ∧
    anyObject (bindS [(0, aHeap)] heapTables) hostQueue aHeap = false ∧ anyObject (bindS [(0, aHeap)] heapS.mem) hostQueue aHeap = true ∧
    (∀ va ∈ [0x10000, 0x200000], canonical (BitVec.ofNat 64 va) = true) ∧ (0x20004008#64).toNat % 8 = 0 ∧
    walk (bindS [] heapTables) hostQueue 0x10000 = .leaf ⟨0x10000, 65536, 0xc003080000003001, 0x20004008, 0, 0⟩ ∧
    destFits (bindS [] heapTables) ⟨0x10000, 65536, 0xc003080000003001, 0x20004008, 0, 0⟩ 0x10000000000 = true ∧
    runningOn (bindS [] heapTables) (homeDie (bindS [] heapTables) 0x10000000000) < 8 ∧
    walk (answer (takeRecord (bindS [] heapTables) (ask 0 0x10000 0x20004008 0x10000000000)) (ask 0 0x10000 0x20004008 0x10000000000) 1 []) hostQueue 0x10000 =
      .leaf ⟨0x10000, 65536, 0xc003080000003001, 0x20004008, 0, 0⟩ ∧
    (match walk (bindS [] heapTables) hostQueue 0x200000 with | .leaf x => x.region == 1 && x.leafAt == 0x20003008 | _ => false) = true ∧
    (bindS [] heapTables).Inv ∧ choice (bindS [] heapTables) = 0 ∧ choice { bindS [] heapTables with choices := [1] } ≠ 0 := by decide +kernel
theorem witness_route : hostFits 0 ((ask 0 0 0 0).a1.toNat * Config.routeEntryBytes) = true := by simp [ask, hostFits]

/-! ### Witnesses of further clauses -/

/-- A unit that takes a third lane register: a kernel with a peak of two, one with no minimum whose team has no register left, one that fits. -/
def peakS (peak min budget : Nat) : State :=
  { regs with
    grids := [(1, ⟨0, { hostLaunch with peak := peak, min := min }, [], [], false, false, false, some 0, none, false⟩)]
    teams := regs.teams.map (fun x => (x.1, { x.2 with budget := budget })) }
def third : Eff := { v := [(20, 0xf, fun _ => 6)] }
theorem witness_peak : laneIntegerEff (peakS 2 2 64) (itsCtx (peakS 2 2 64)) (.movi 6 20) = some { v := [(20, acting (peakS 2 2 64) (itsCtx (peakS 2 2 64)), fun _ => immediate (peakS 2 2 64) 6)] } ∧
    created (itsCtx (peakS 2 2 64)).live third = [20] ∧ (itsCtx (peakS 2 2 64)).grid.launch.peak < ((itsCtx (peakS 2 2 64)).live.apply third).v.length ∧
    ((itsCtx (peakS 64 0 2)).live.apply third).v.length ≤ (itsCtx (peakS 64 0 2)).grid.launch.peak ∧ poolOk (itsCtx (peakS 64 0 2)) third = false ∧
    ctx? (peakS 2 2 64) = some (itsCtx (peakS 2 2 64)) ∧ ctx? (peakS 64 0 2) = some (itsCtx (peakS 64 0 2)) := by
  refine ⟨rfl, ?_⟩; decide +kernel

/-- Accesses that stop: an odd address, and a page without an entry; of every kind. -/
def stopS (a : Nat) : State := memS.grp (fun g => flat 2 0 (uni 4 a (uni 5 0 (flat 12 1 (flat 11 0 (flat 10 (BitVec.ofNat 32 a) g))))))
def stopsAt (i : Instr) (a : Nat) : Option (List Nat × Bool) :=
  (accessForm (stopS a) (itsCtx (stopS a)) i).map (fun x => ((peakCond (itsCtx (stopS a)) x.2.1 ++ condsOf none (x.2.2.flatMap (·.traps))).map (·.code), (faultOf none x.1 x.2.2).isSome))
theorem witness_access_stops : ∀ i ∈ [Instr.ld 0 0 0 2 2 2 3, .st 0 0 2 2 2 3, .atomAdd 0 0 0 12 5 1, .bredAdd 0 0 0 12 5],
    stopsAt i 0x10101 = some ([0x20], false) ∧ stopsAt i 0x20000 = some ([], true) ∧ replayFull (stopS 0x20000) (itsCtx (stopS 0x20000)) = false ∧
      ctx? (stopS 0x20000) = some (itsCtx (stopS 0x20000)) := by decide +kernel
/-- A load of a page of a class that the queue does not admit. -/
def barred : State := { memS with queues := [(0, { hostQueue with grants := [(0, 1)] })] }
theorem witness_denied_load : ctx? barred = some (itsCtx barred) ∧ Calm barred (itsCtx barred) ∧ (∃ ea, loadForm barred (itsCtx barred) (.ld 1 1 0 1 2 2 3) = some (3, 2, true, [2], ea) ∧
    ∀ l < 32, (acting barred (itsCtx barred)).getLsbD l = true → (lookAt barred (itsCtx barred) .load (tabGet (itsCtx barred).group.lastPage l) true l (ea l) 2 2).reads barred
        (lookAt barred (itsCtx barred) .load (tabGet (itsCtx barred).group.lastPage l) true l (ea l) 2 2).part ∧
      (lookAt barred (itsCtx barred) .load (tabGet (itsCtx barred).group.lastPage l) true l (ea l) 2 2).denied = some 0x30) := by
  refine ⟨by decide +kernel, ?_, ⟨_, rfl, ?_⟩⟩ <;> (try unfold Look.reads) <;> (try unfold Calm) <;> decide +kernel

/-- A split with a replay record of one halfword. -/
def replaying : State := (coded 0).grp (fun g => g.modSplit 0 (fun sp => { sp with replay := some { halves := [0x0002], v := [], k := [], p := [], h := [] } }))
theorem witness_replayed_step : ctxAt replaying ⟨0, 0, 0⟩ = some (itsCtx replaying) ∧ ready replaying (itsCtx replaying) = true ∧ replayFirst replaying (itsCtx replaying) = none ∧
    ((itsCtx replaying).split.replay.map (fun r => r.halves.map BitVec.toNat)) = some [2] ∧ (parseUnit [2]).body = some .nop ∧ legalUnit none none .nop = true := by
  decide +kernel

/-- The heap while a cycle that moves its first object runs, before FINAL; a stale reference to an object that a cycle has moved. -/
def runCycle (st : RelState) : RelCycle := { st := st, objs := [⟨0x200100, 0x200800, 32⟩], rounds := 0, finalAt := 0, cmd := some (.board, 1), eRel := 0, dirty := [], held := [] }
def cycled : State := { refS with heaps := [(0, { aHeap with cycle := some (runCycle .copying) })] }
theorem witness_heap_store_in_cycle : heapOf cycled (itsCtx cycled) = some { aHeap with cycle := some (runCycle .copying) } ∧ cycled.Inv ∧ RefsPass cycled (itsCtx cycled) 1 true ∧
    (∀ l < 32, (acting cycled (itsCtx cycled)).getLsbD l = true → laneRes cycled (itsCtx cycled) 1 l = obj1 ∧ narrowAt cycled (itsCtx cycled).team.queue 0x200100 = none ∧
      (bodyLook cycled (itsCtx cycled) .store l (0x200100 + 16 + ((itsCtx cycled).group.vlane 2 l).toNat) 4 1 hd1).opens cycled
        (bodyLook cycled (itsCtx cycled) .store l (0x200100 + 16 + ((itsCtx cycled).group.vlane 2 l).toNat) 4 1 hd1).part) ∧
    0x200100 ∈ (runCycle .copying).objs.map (·.old) := by
  refine ⟨by decide +kernel, by decide +kernel, ?_, ?_, by decide⟩ <;> (try simp only [RefsPass, Res.lets_eq]) <;> (try unfold Look.opens) <;> decide +kernel

/-- The first object as a narrow page of one token, in E4M3 or in MXFP4. -/
def aNarrow (f : QFmt) : Narrow := { queue := 0, obj := 0x200100, keyFmt := f, valFmt := f, ek := 0, ev := 0, tokens := 1, chans := 32, wcTimeout := 64, desc := 0x10c00 }
def viewS (f : QFmt) : State := { refS with narrow := [aNarrow f] }
theorem witness_view_store : ∀ f ∈ [QFmt.e4m3, .mxe2m1], heapOf (viewS f) (itsCtx (viewS f)) = some aHeap ∧ Calm (viewS f) (itsCtx (viewS f)) ∧ RefsPass (viewS f) (itsCtx (viewS f)) 1 true ∧
    acting (viewS f) (itsCtx (viewS f)) ≠ 0 ∧ (∀ l < 32, (acting (viewS f) (itsCtx (viewS f))).getLsbD l = true →
      laneRes (viewS f) (itsCtx (viewS f)) 1 l = .obj (aNarrow f).obj hd1 0x200100 ∧ narrowAt (viewS f) (itsCtx (viewS f)).team.queue (aNarrow f).obj = some (aNarrow f) ∧
      (sthLook (viewS f) (itsCtx (viewS f)) l 4 ((itsCtx (viewS f)).group.vlane 2 l).toNat obj1).opens (viewS f)
        (sthLook (viewS f) (itsCtx (viewS f)) l 4 ((itsCtx (viewS f)).group.vlane 2 l).toNat obj1).part) ∧
    Fits (viewS f) (itsCtx (viewS f)) { frees := mark 1 2 1 ++ mark 0 5 1, h := [healing (viewS f) (itsCtx (viewS f)) 1] } ∧ (viewS f).Inv := by
  simp only [RefsPass, Res.lets_eq, Look.opens, Calm, Fits]; decide +kernel
/-- The page's bytes are reached, and its leaf entry has its bits `a` and `d`; a block's elements, the first and the last. -/
def walkedView : State := (viewS .e4m3).writeNum 0x20003008 8 0xd0030e0000003200
theorem witness_view_elements : walkedView.Inv ∧ (match walk walkedView (itsCtx walkedView).q (0x200100 + 16 + 5) with | .leaf x => decide (x.pa (0x200100 + 16 + 5) = 0x32000115) | _ => false) = true ∧
    (match walk (walkedView.writeNum 0x32000115 1 0x3c) (itsCtx walkedView).q (0x200100 + 16 + 5) with | .leaf y => decide ((walkedLeaf y true).leaf = y.leaf) | _ => false) = true ∧
    (viewS .mxe2m1).wc = [] ∧ wcTimeoutOf (viewS .mxe2m1) (aNarrow .mxe2m1) ≠ 0 ∧ (∀ x ∈ [(0, 0x3f80), (31, 0)], x.1 / 32 = 0) ∧ (∀ x ∈ [(32, 0x3f80), (63, 0)], x.1 / 32 = 1) := by decide +kernel

/-- A slot that names the first object as it was before the cycle that moved it to where the pinned one stands. -/
def movedHeap : Heap := { aHeap with flips := 1, fwd := [{ old := 0x200100, new := 0x200200, cycle := 1, forwarded := true }] }
def staleS : State := { (refS.writeNum 0x30010100 8 0x200100) with heaps := [(0, movedHeap)] }.grp (fun g => { g with splits := [⟨0x10000, 1, 0, [], .none, [], none⟩] })
def slotOf0 : Option Piece := healPiece staleS (itsCtx staleS) (eaOf staleS (itsCtx staleS) 2 2 8 0)
theorem witness_slot_heal : staleS.Inv ∧ heapOf staleS (itsCtx staleS) = some movedHeap ∧ slotOf0.map (·.pa) = some 0x30010100 ∧ staleS.num 0x30010100 8 = 0x200100 ∧
    (resolveFor staleS (itsCtx staleS) 0x200100).heals 0x200100 = 0x4000000000200200 ∧ (resolveFor staleS (itsCtx staleS) 0x200100).object.isSome = true ∧
    (walkedFor staleS (itsCtx staleS) movedHeap [0x200100]).num 0x30010100 8 = 0x200100 ∧
    (lookAt staleS (itsCtx staleS) .load (tabGet (itsCtx staleS).group.lastPage 0) true 0 (eaOf staleS (itsCtx staleS) 2 2 8 0) 8 8).opens staleS
      (lookAt staleS (itsCtx staleS) .load (tabGet (itsCtx staleS).group.lastPage 0) true 0 (eaOf staleS (itsCtx staleS) 2 2 8 0) 8 8).part ∧
    (lookAt staleS (itsCtx staleS) .load (tabGet (itsCtx staleS).group.lastPage 0) true 0 (eaOf staleS (itsCtx staleS) 2 2 8 0) 8 8).part.pa = 0x30010100 := by
  simp only [Look.opens]; decide +kernel
/-- The pages of `hnew` can be written; without room a lane takes null. -/
def newOnes : State × List (Nat × DWord) := newLanes newS (itsCtx newS) aHeap (fun _ => 16) (fun _ => 0x30) (lanesOf (acting newS (itsCtx newS)))
theorem witness_new_pages : newConds newS (newPages newS (itsCtx newS) aHeap (fun _ => 16) newOnes.2) = [] ∧ newFault (newPages newS (itsCtx newS) aHeap (fun _ => 16) newOnes.2) = none ∧
    newOnes.2.all (fun x => x.2 != 0) = true ∧ placeObject newS 0 hostQueue aHeap true 16 = some 0x200000 ∧ placeObject newS 0 hostQueue aHeap true 0x2000 = none := by decide +kernel

/-- Sweep visits of a sealed page whose mass has fallen: a format step, and a cold move. -/
def dueSw : PoolSw := { poolSw with tFp8 := 101, tCold := 101 }
def duePool (x : Nat) : Pool := { sweptPool x with sw := dueSw }
def dueS (x : Nat) : State := { sweepS x with pools := [(5, duePool x)] }
def duePieces (x : Nat) (write : Bool) : List Piece := (thrNeed (dueS x) hostQueue 0 write ((duePool x).entry x) 64 0).pieces
def dueEntry (x : Nat) : DirEnt := entryAt (dueS x) (duePieces x true)
theorem witness_due_visit : visiting (dueS 2) 5 (duePool 2) = true ∧ dieBusy (dueS 2) 5 0 = false ∧ (∀ w ∈ (duePool 2).sweep, itsTurn (dueS 2) 5 (duePool 2) w = true) ∧
    (thrNeed (dueS 2) hostQueue 0 false ((duePool 2).entry 2) 64 0).fine = true ∧ (thrNeed (dueS 2) hostQueue 0 true ((duePool 2).entry 2) 64 0).fine = true ∧
    (duePieces 2 true).length = 1 ∧ heldPieces (dueS 2) (duePieces 2 true) = false := by decide +kernel
theorem witness_due_entry : ∀ x ∈ [2, 3], (fun e : DirEnt => (e.fmt ≠ 7 ∧ e.malformed 16 = false ∧ e.state = 1 ∧ 1 ≤ (1 + 2 ^ 32 - e.sweep) % 2 ^ 32 ∧
    stepThreshold (duePool x) e = some 101 ∧ e.mass - e.mass / 2 ^ 1 = 50)) (dueEntry x) := by decide +kernel
theorem witness_due_need : ∀ w ∈ (duePool 2).sweep, (visitNeed (dueS 2) (duePool 2) hostQueue w (dueEntry 2)).fine = true := by decide +kernel
theorem witness_due_cold : (coldStep ((dueS 3).writeNum 0x300108ec 4 50) 5 (duePool 3) hostQueue 3 (duePieces 3 true) 1 0).2 = .copying := by decide +kernel

/-- A transfer from memory to the scratchpad, and back; of two rows within the scratchpad. -/
def memCopy (out : Bool) : Copy := { aCopy with bar := none, srcSp := if out then .spad else .mem, dstSp := if out then .mem else .spad, src := if out then 0x400 else 0x10100, dst := if out then 0x10100 else 0x200 }
def movesMem (out : Bool) : State := { mapped with ops := [(1, { waitOp with body := .copy (memCopy out) })], nextOp := 2 }
def memPiece (out : Bool) : Piece := (okPiece (copyPiece (movesMem out) 0 hostQueue 0 out 0 0x10100 64)).getD ⟨0, 0, 0, ⟨0, 0, 0, 0, 0, 0⟩, false, .slice⟩
theorem witness_memory_delivery : pageCuts 0x10100 64 = [(0x10100, 64)] ∧ (∀ out ∈ [false, true], okPiece (copyPiece (movesMem out) 0 hostQueue 0 out 0 0x10100 64) = some (memPiece out) ∧
      placeOf (movesMem out) (memPiece out).pa ≠ some .peer ∧ (memPiece out).x.region = 0 ∧ badAdmitted (movesMem out) hostQueue (memPiece out) = none ∧
      deniedClass (movesMem out) hostQueue (memPiece out) = none ∧ writeCause (movesMem out) 0 hostQueue (memPiece out) = none ∧ writeHeld (movesMem out) 0 (memPiece out) = false ∧
      (∀ x ∈ destPieces (memCopy out) (memPiece out).x (memPiece out).walked, deniedClass (movesMem out) hostQueue x = none) ∧
      spadHome (movesMem out) (teamKey 1 0) = .live (itsCtx mapped).team ∧ teamTag (movesMem out) (itsCtx mapped).team 0x200 64 = none ∧ (movesMem out).Inv ∧
      opQueue (movesMem out) { waitOp with body := .copy (memCopy out) } = some hostQueue ∧ (0 : Nat) ∈ (memCopy out).todo) := by decide +kernel
def rowCopy : Copy := { aCopy with rows := 2, spitch := 0x80, dpitch := 0x40 }
theorem witness_row_delivery : (∀ r < rowCopy.rows, teamTag (copying rowCopy) (itsCtx barS).team (rowCopy.dst + r * rowCopy.dpitch) rowCopy.n = none) ∧
    (∀ r < 2, ∀ j < 64, ∀ r' < 2, ∀ j' < 64, 0x200 + r * 0x40 + j ≠ 0x400 + r' * 0x80 + j') ∧ rowCopy.dst = 0x200 ∧ rowCopy.src = 0x400 ∧ rowCopy.n = 64 ∧ 0 ∈ rowCopy.todo := by
  refine ⟨by decide +kernel, ?_, by decide +kernel, by decide +kernel, by decide +kernel, by decide +kernel⟩
  intro r hr j hj r' hr' j' hj' h; omega

/-- A contribution of rank 1 of a collective of two, which queue 3 of device 5 serves: under the identifier 0 or another, or void. -/
def contributed (cid : Nat) (void : Bool) : Contribution :=
  { queue := 0, dev := 5, rank := 3, port := 0, runs := [], bytes := bytesOf 4 cid ++ (collHead (collOf 0) .mxe2m1 1).drop 4 ++ List.replicate 17 0x11, void := void }
theorem witness_void_contribution : ({ mapped with inbox := [contributed 7 true] } : State).inbox.find? (fun y => y.void && y.queue == 0 && y.dev == 5 && y.rank == 3 &&
      y.cid == natOfBytes ((bytesOf 4 7).take 4)) = some (contributed 7 true) ∧
    answered { mapped with inbox := [contributed 7 true] } (aRequest 0x10100 (.reduce (bytesOf 4 7))) = none := by decide +kernel

/-- `lgat` with a row that came and one denied; `mxr` whose ranks contributed, and one whose rank gave another identifier; sends with stamps. -/
def rowReq (l : Nat) (d : Remote) : LinkReq := { aReq (some d) with lane := l }
def endS (l : Link) (inbox : List Contribution) : State :=
  { linkS with ops := [(1, { waitOp with lanes := 3, body := .link l })], nextOp := 2, cycle := 2 ^ 20, inbox := inbox }
def endOps (l : Link) : Op := { waitOp with lanes := 3, body := .link l }
def gatherEnd : Link := { Link.of .lgat [rowReq 0 (.arrived [1, 2, 3, 4] []), rowReq 1 .denied] with pd := 2, dst := 0x200, len := 4 }
theorem witness_gather_end : (∀ r ∈ gatherEnd.reqs, r.denied = none ∧ r.bytes.length = gatherEnd.len ∧
      teamTag (endS gatherEnd []) (itsCtx (endS gatherEnd [])).team (gatherEnd.dst + gatherEnd.len * r.lane) gatherEnd.len = none) ∧
    (gatherEnd.reqs.map (·.done)) = [some (.arrived [1, 2, 3, 4] []), some .denied] ∧ (gatherEnd.reqs.map (·.lane)).Nodup ∧ gatherEnd.pd ≠ 0 ∧ gatherEnd.begun = true ∧
    opCtxAny (endS gatherEnd []) (endOps gatherEnd) = some (itsCtx (endS gatherEnd [])) ∧ (endS gatherEnd []).Inv := by decide +kernel
def reduceEnd : Link := { Link.of .mxr [rowReq 0 (.arrived [] [])] with fmt := .mxe2m1, nb := 1, dst := 0x10300, len := 17, run := List.replicate 17 0x11 }
def reducePiece : Piece := (okPiece (copyPiece (endS reduceEnd []) 0 hostQueue 0 true 0 0x10300 17)).getD ⟨0, 0, 0, ⟨0, 0, 0, 0, 0, 0⟩, false, .slice⟩
theorem witness_reduce_end : contributions (endS reduceEnd [contributed 0 false]) (endOps reduceEnd) reduceEnd = some [contributed 0 false] ∧
    (delivered hostQueue (contributed 0 false)).2 = none ∧ (delivered hostQueue (contributed 0 false)).1.take 8 = collHead (collOf 0) .mxe2m1 1 ∧
    (mxrRun .mxe2m1 1 [reduceEnd.run, (delivered hostQueue (contributed 0 false)).1.drop 8]).length = 17 ∧ pageCuts 0x10300 17 = [(0x10300, 17)] ∧
    okPiece (copyPiece (endS reduceEnd [contributed 0 false]) 0 hostQueue 0 true 0 0x10300 17) = some reducePiece ∧
    writeCause (endS reduceEnd [contributed 0 false]) 0 hostQueue reducePiece = none ∧ writeHeld (endS reduceEnd [contributed 0 false]) 0 reducePiece = false ∧
    contributions (endS reduceEnd [contributed 9 false]) (endOps reduceEnd) reduceEnd = none ∧
    reduceEnd.reqs.any (fun r => (strayOf (endS reduceEnd [contributed 9 false]) 1 (endOps reduceEnd) reduceEnd r).isSome) = true ∧
    reduceEnd.reqs.any (fun r => (strayOf (endS reduceEnd []) 1 (endOps reduceEnd) reduceEnd r).isSome) = false := by decide +kernel
def sendEnd (f : LinkForm) (rs : Bool) : Link := { Link.of f [rowReq 0 (.arrived [] [])] with stamp := some ⟨0x10100, 5⟩, rs := rs, cause := 0 }
theorem witness_send_end : (∀ f ∈ [LinkForm.lwr, .lred], (∀ r ∈ (sendEnd f false).reqs, r.done.isSome = true) ∧ (sendEnd f false).shape ≠ 1 ∧
      (okPiece (copyPiece (endS (sendEnd f false) []) 0 hostQueue 0 true 0 0x10100 8)).map (fun p => (writeCause (endS (sendEnd f false) []) 0 hostQueue p,
        writeHeld (endS (sendEnd f false) []) 0 p)) = some (none, false)) ∧
    peerSlot (endS (sendEnd .lwr true) []) hostQueue (sendEnd .lwr true).peer = some (0, 5, 3) ∧ opQueue (endS (sendEnd .lwr true) []) (endOps (sendEnd .lwr true)) = some hostQueue := by
  decide +kernel

/-- A second save: one block of the scratchpad and one register of a group are dirty. -/
def laterS : State :=
  { (slotS .saving .preempt false false) with spadDirty := [0x80000000 + 3] }.modTeam (teamKey 1 0) (fun t => { t with saves := 1, groups := tabMod t.groups 0 (fun (g : Group) => { g with dirty := [9] }) })
theorem witness_later_save : frameOk laterS (itsCtx laterS).team = true ∧ laterS.Inv ∧ (itsCtx laterS).team.saves ≠ 0 ∧ ((itsCtx laterS).team.groups.map (·.1)).Nodup ∧
    (∀ x ∈ (itsCtx laterS).team.groups, x.1 < (itsCtx laterS).team.groups.length) ∧
    (∃ x ∈ spadBlocks (spadAddr 0 0 + 4096 * (0 / 4096)) 4096, x ∈ laterS.spadDirty) ∧
    (∃ r ∈ frameItems, ∃ x ∈ (itsCtx laterS).team.groups, ∀ d ∈ x.2.dirty, ¬ (r.1 ≤ d ∧ d < r.1 + r.2.1)) ∧
    slotAtIdx laterS 0 0 = some ⟨.saving, teamKey 1 0, 0, false, false⟩ ∧
    (∀ r ∈ savedRegions (itsCtx laterS).team, (itsCtx laterS).team.frame + r.1 + r.2 ≤ spadAddr 0 0) ∧ imageAddr (itsCtx laterS).team + (itsCtx laterS).team.spadSize ≤ spadAddr 0 0 := by
  decide +kernel

/-- The slots of a slice: which one runs, and which SHADOW one waited longest. -/
theorem witness_slice_slots : slotAtIdx sliceS 0 0 = some ⟨.running, teamKey 1 0, 0, false, false⟩ ∧ slotAtIdx sliceS 0 1 = some ⟨.shadow, teamKey 3 0, 0, false, false⟩ ∧
    slotLevel sliceS ⟨.shadow, teamKey 3 0, 0, false, false⟩ = recordLevel sliceS (itsCtx sliceS).team ∧
    (∀ n < 3, ∀ x ∈ slotAtIdx sliceS 0 n, (x.st = .running → n = 0) ∧ (x.st = .shadow → n = 1)) := by decide +kernel
/-- The resident that a gang of higher level displaces at its second age. -/
def agedS : State := readyS true true (heldBy .running) 1048576
def agedRect : Option (Rect × List Nat) := fewest agedS (tableGrid true) (recordLevel agedS (firstTeam 0)) [] [] (.rect [(teamKey 2 0, 0), (teamKey 2 1, 1)])
theorem witness_second_age : (readyTeams agedS).find? (fun t => t.1 == teamKey 2 0) = some (teamKey 2 0, firstTeam 0) ∧
    waitingSince agedS (tableGrid true) (firstTeam 0) (partsFor agedS (tableGrid true) (teamKey 2 0) (firstTeam 0)) + 1048576 ≤ agedS.cycle ∧
    partsFor agedS (tableGrid true) (teamKey 2 0) (firstTeam 0) = [.rect [(teamKey 2 0, 0), (teamKey 2 1, 1)]] ∧ planFor agedS agedS.core (teamKey 2 0) (firstTeam 0) = none ∧
    agedRect.map (·.2) = some [teamKey 1 0] ∧ slotIdx (agedS.core 0) (fun x => x.team == teamKey 1 0 && x.st != .empty) = some 0 ∧
    slotIdx (agedS.core 0) (fun x => x.st == .running) = some 0 := by decide +kernel

/-- Host accesses in a cycle: a source before FINAL, and held; a destination after the flip; a read behind a held write. -/
def hostCycle (st : RelState) (held : List (PAddr × List Byte)) : State := { heapS with heaps := [(0, { aHeap with cycle := some { runCycle st with held := held } })] }
theorem witness_host_in_cycle : meetsVirtual (hostCycle .copying []) hostQueue 0x200100 48 0x32000110 4 = true ∧ heldObject (hostCycle .copying []) 0x32000110 4 = false ∧
    hostPlace heapS 0x32000110 4 = true ∧ (∀ st ∈ [RelState.final, .ack], sourceHolds (hostCycle st []) (0, { aHeap with cycle := some (runCycle st) }) 0x32000110 4 = true) ∧
    sourceHolds (hostCycle .ack []) (0, { aHeap with cycle := some (runCycle .ack) }) 0x32000810 4 = false ∧ destHolds (hostCycle .ack []) 0x32000810 4 = true ∧
    destHolds (hostCycle .final []) 0x32000810 4 = false ∧ behindHeld (hostCycle .final [(0x32000110, [1])]) 0x3200017f 1 = true ∧
    behindHeld (hostCycle .final [(0x32000110, [1])]) 0x32000180 1 = false ∧ sealedAt heapS 0x32000110 4 = false ∧ heldByMigration heapS 0x32000110 4 = false := by decide +kernel
/-- Steps of a cycle with a dirty object and without; a heal pass that nothing holds, of a heap without pools and of one whose directory is not mapped. -/
def healing0 (pools : Tab Pool) (m : List Host.Cell) : State := { heapS with heaps := [(0, { aHeap with heal := true })], pools := pools, mem := m }
theorem witness_heal_pass : healHeld (healing0 [] heapTables) 0 hostQueue { aHeap with heal := true } (allSlots (healing0 [] heapTables) hostQueue { aHeap with heal := true }) = false ∧
    (healFaults (healing0 [] heapTables) 0 hostQueue { aHeap with heal := true }).isNone = true ∧
    (match healFaults (healing0 [(5, { aPool with sw := { poolSw with dirBase := 0x40000, count := 1 } })] heapTables) 0 hostQueue { aHeap with heal := true } with
      | some (.invalid _ _ _ _) => true | _ => false) = true ∧ (runCycle .recopy).dirty = [] ∧ (aCycle .recopy).dirty ≠ [] ∧ (aCycle .recopy).rounds < 4 := by decide +kernel
/-- The byte of an allocation bit is reached, and its leaf entry has its bits `a` and `d`. -/
def walkedHeap : State := heapS.writeNum 0x20004008 8 0xc0030e0000003001
theorem witness_allocation_byte : walkedHeap.Inv ∧ (match walk walkedHeap hostQueue (aHeap.bitAt 0x200100) with
      | .leaf x => decide ((walkedLeaf x true).leaf = x.leaf ∧ x.pa (aHeap.bitAt 0x200100) = 0x30018002)
      | _ => false) = true ∧ walkedHeap.byteAt 0x30018002 = 1 ∧
    (match walk (walkedHeap.write 0x30018002 [0]) hostQueue (aHeap.bitAt 0x200100) with | .leaf x => decide ((walkedLeaf x true).leaf = x.leaf) | _ => false) = true := by decide +kernel
/-- The page of an entry of the write-combining buffers. -/
theorem witness_closed_entry : (let s := { viewS .mxe2m1 with wc := [(1, { aWc with body := 0x200110 })], cycle := 10 }
    tabGet s.queues 0 = some hostQueue ∧ narrowAt s aWc.queue (aWc.body - 16) = some (aNarrow .mxe2m1) ∧ aWc.opened + aWc.timeout ≤ s.cycle) := by decide +kernel

/-- A handover and an owner whose path is down, before and after their times. -/
def handing (now : Nat) : State := { owned State.reset with fw := { (owned State.reset).fw with handover := some (.board, .host), handoverAt := 0, wallAt := now } }
def lapsing (now : Nat) : State := { owned State.reset with fw := { (owned State.reset).fw with i3cUp := false, i3cDownAt := 0, wallAt := now } }
theorem witness_ownership_times : (handing 0).fw.handoverAt + wallMs 100 ≤ wallNow (handing (wallMs 100)) ∧ wallNow (handing (wallMs 100 - 1)) < (handing 0).fw.handoverAt + wallMs 100 ∧
    pathDown (lapsing (wallMs 1000)) .board = some 0 ∧ 0 + wallMs 1000 ≤ wallNow (lapsing (wallMs 1000)) ∧ wallNow (lapsing 0) < 0 + wallMs 1000 ∧ pathDown (handing 0) .board = none := by decide +kernel
/-- Bring-up after a reset; a port at its limit of lane faults. -/
theorem witness_bring_up : Firmware.reset.powered = true ∧ Firmware.reset.booting = false ∧
    (resetDevice State.reset).fw.booting = true ∧ (resetDevice State.reset).fw.powered = true ∧ (powerOff State.reset).fw.powered = false ∧
    tabGet ({ State.reset with ports := [(3, ⟨true, 5, none⟩)] } : State).ports 3 = some ⟨true, 5, none⟩ := by decide +kernel
/-- The latch at a named cycle, with a snapshot held; another name is kept. -/
theorem witness_latch : (let s := { snapped with fw := { snapped.fw with snapPending := [512, 600] }, cycle := 512 }
    512 ∈ s.fw.snapPending ∧ s.fw.snap.isSome = true ∧ s.fw.snapPending.filter (fun n => n != s.cycle) = [600]) ∧ 511 ∉ snapping.fw.snapPending := by decide +kernel

/-- The arguments that select the variants of commands; a kill and a pre-emption that are performed at once and that are not; a slot that awaits its peer. -/
theorem witness_selected : Selected (.qstop (ask 0 0 0 0)) ∧ Selected (.qstopDestroy (ask 0 1 0 0)) ∧ Selected (.faultansKill (ask 0 3 1 0)) ∧ Selected (.resumeEnd (ask 0 1 0 2)) ∧
    Selected (.heapbindUnbind (ask 0 0 1 0)) ∧ ¬ Selected (.qstop (ask 0 1 0 0)) := by
  unfold Selected ask; decide
theorem witness_variants : serves (queueS hostQueue) 0x11 (ask 0 1 0 0) true false = true ∧ serves (teamS .faulted 1) 0x15 (ask 0 3 1 0) true false = true ∧
    serves (teamS .parked 0) 0x16 (ask 0 1 0 1) true false = true ∧ serves (teamS .parked 0) 0x16 (ask 0 1 0 2) true false = true ∧
    serves (bindS [(0, aHeap)] heapTables) 0x19 (ask 0 0x10100 1 0) true false = true := by decide +kernel
theorem witness_performed : performed (teamS .resident 0) (.killed 1) = false ∧ performed (teamS .ended 0) (.killed 1) = true ∧
    performed (teamS .resident 0) (.evicted [(teamKey 1 0, 0)]) = false ∧ (residents (teamS .resident 0) 1).map (·.1) = [teamKey 1 0] := by decide +kernel
def binding : State := { bindS [] heapTables with fw := { (owned bare).fw with binds := [ask 0 2 5 3] } }
theorem witness_peerbind : (∃ b ∈ binding.fw.binds, b.a0.toNat = 0 ∧ b.a1 = 2) ∧ (∀ b ∈ binding.fw.binds, ¬ (b.a0.toNat = 0 ∧ b.a1 = 3)) ∧ binding.Inv ∧
    serves binding 0x1c (ask 0 2 5 3) true false = true ∧ serves binding 0x1c (ask 0 3 5 3) true false = true ∧ (∀ b ∈ (queueS hostQueue).fw.binds, b.a0.toNat ≠ 0) := by decide +kernel

end Sys2Proof.Machine
end

/-! ## Writing a number and reading it back (00 R8) -/

namespace Sys2Proof.Machine

open Sys2Proof

/-- `n` little-endian bytes carry the low `8 n` bits: each byte is one digit in base 256. -/
theorem natOfBytes_bytesOf (n v : Nat) : natOfBytes (bytesOf n v) = v % 2 ^ (8 * n) := by
  induction n generalizing v with
  | zero => simp [bytesOf, natOfBytes, Nat.mod_one]
  | succ n ih =>
    have hpow : 2 ^ (8 * (n + 1)) = 256 * 2 ^ (8 * n) := by rw [Nat.mul_succ, Nat.pow_add]; omega
    calc natOfBytes (bytesOf (n + 1) v)
        = v % 256 + 256 * (v / 256 % 2 ^ (8 * n)) := by simp [bytesOf, natOfBytes, ih]
      _ = v % 2 ^ (8 * (n + 1)) := by rw [hpow, Nat.mod_mul]

/-- The bytes of a written range read back as written, where memory is in its canonical form (log 1). -/
theorem State.bytes_write_same {s : State} (h : s.Inv) (pa : Nat) (bs : List Byte) : (s.write pa bs).bytes pa bs.length = bs :=
  memGetMany_memSetMany pa bs h

theorem State.num_writeNum_same {s : State} (h : s.Inv) (pa n v : Nat) : (s.writeNum pa n v).num pa n = v % 2 ^ (8 * n) := by
  have hbytes := State.bytes_write_same h pa (bytesOf n v)
  rw [bytesOf_length] at hbytes
  rw [State.num, State.writeNum, hbytes, natOfBytes_bytesOf]

theorem State.byteAt_writeNum_outside (s : State) {pa n a : Nat} (v : Nat) (h : a < pa ∨ pa + n ≤ a) :
    (s.writeNum pa n v).byteAt a = s.byteAt a :=
  byteAt_write_outside s (bytesOf n v) (by rwa [bytesOf_length])

/-- Settles O34: the digits of the number, the laws of memory for the bytes, and the canonical form that each write keeps. -/
theorem writeThenRead : Obligations.WriteThenRead := fun s pa n v h =>
  ⟨State.num_writeNum_same h pa n v, fun _ ha => State.byteAt_writeNum_outside s v ha, State.wf_writeNum pa n v h⟩

end Sys2Proof.Machine

/-! ## Decoding an encoding (02 R43 to R68) -/

namespace Sys2Proof.Laws.RoundTrip

/-- The law of each instruction holds; an event has no word, so that its law is void. -/
theorem statement_all (i : Instr) : Statement i := by
  cases i with
  | add => apply add  | sub => apply sub  | mulLo => apply mulLo  | mulHi => apply mulHi  | madLo => apply madLo  | adda => apply adda
  | min => apply min  | max => apply max  | and => apply and  | or => apply or  | xor => apply xor  | andn => apply andn  | shl => apply shl
  | shr => apply shr  | sra => apply sra  | rot => apply rot  | bfe => apply bfe  | bfi => apply bfi  | popc => apply popc  | popcLt => apply popcLt
  | clz => apply clz  | brev => apply brev  | abs => apply abs  | not => apply not  | dot4I8 => apply dot4I8  | addi => apply addi
  | andi => apply andi  | ori => apply ori  | xori => apply xori  | shli => apply shli  | shri => apply shri  | srai => apply srai
  | roti => apply roti  | movi => apply movi  | mini => apply mini  | maxi => apply maxi  | kadd => apply kadd  | ksub => apply ksub
  | kmulLo => apply kmulLo  | kmulHi => apply kmulHi  | kmadLo => apply kmadLo  | kadda => apply kadda  | kmin => apply kmin  | kmax => apply kmax
  | kand => apply kand  | kor => apply kor  | kxor => apply kxor  | kandn => apply kandn  | kshl => apply kshl  | kshr => apply kshr
  | ksra => apply ksra  | krot => apply krot  | kaddi => apply kaddi  | kmovi => apply kmovi  | kbfe => apply kbfe  | kbfi => apply kbfi
  | kpopc => apply kpopc  | kclz => apply kclz  | kbrev => apply kbrev  | knot => apply knot  | kabs => apply kabs  | kmov => apply kmov
  | fadd => apply fadd  | fsub => apply fsub  | fmul => apply fmul  | fma => apply fma  | fmin => apply fmin  | fmax => apply fmax
  | faddBf16x2 => apply faddBf16x2  | fmulBf16x2 => apply fmulBf16x2  | fmaBf16x2 => apply fmaBf16x2  | fminBf16x2 => apply fminBf16x2
  | fmaxBf16x2 => apply fmaxBf16x2  | faddF16x2 => apply faddF16x2  | fmulF16x2 => apply fmulF16x2  | fmaF16x2 => apply fmaF16x2
  | fminF16x2 => apply fminF16x2  | fmaxF16x2 => apply fmaxF16x2  | rcp => apply rcp  | rsqrt => apply rsqrt  | exp2 => apply exp2
  | log2 => apply log2  | cvt => apply cvt  | cmpEq => apply cmpEq  | cmpNe => apply cmpNe  | cmpLt => apply cmpLt  | cmpLe => apply cmpLe
  | cmpGt => apply cmpGt  | cmpGe => apply cmpGe  | pand => apply pand  | por => apply por  | pxor => apply pxor  | pnot => apply pnot
  | sel => apply sel  | mov => apply mov  | movk => apply movk  | sreg => apply sreg  | shflIdx => apply shflIdx  | shflUp => apply shflUp
  | shflDown => apply shflDown  | shflXor => apply shflXor  | xg => apply xg  | permB => apply permB  | voteAny => apply voteAny
  | voteAll => apply voteAll  | voteBallot => apply voteBallot  | gredAdd => apply gredAdd  | gredMin => apply gredMin  | gredMax => apply gredMax
  | gscanAdd => apply gscanAdd  | rbal => apply rbal  | ld => apply ld  | st => apply st  | ldQ => apply ldQ  | stQ => apply stQ  | ldRo => apply ldRo
  | ldk => apply ldk  | ldl => apply ldl  | lds => apply lds  | sts => apply sts  | ldsd => apply ldsd  | stsd => apply stsd  | pf => apply pf
  | mwait => apply mwait  | atomAdd => apply atomAdd  | atomMin => apply atomMin  | atomMax => apply atomMax  | atomAnd => apply atomAnd
  | atomOr => apply atomOr  | atomXor => apply atomXor  | atomExch => apply atomExch  | atomCas => apply atomCas  | redAdd => apply redAdd
  | redMin => apply redMin  | redMax => apply redMax  | redAnd => apply redAnd  | redOr => apply redOr  | redXor => apply redXor
  | bupdAdd => apply bupdAdd  | bupdMin => apply bupdMin  | bupdMax => apply bupdMax  | bredAdd => apply bredAdd  | bredMin => apply bredMin
  | bredMax => apply bredMax  | fence => apply fence  | fenceAcq => apply fenceAcq  | fenceRel => apply fenceRel  | tfence => apply tfence
  | binit => apply binit  | barv => apply barv  | bexp => apply bexp  | btest => apply btest  | bwait => apply bwait  | binval => apply binval
  | tsync => apply tsync  | clsync => apply clsync  | hld => apply hld  | hst => apply hst  | ldh => apply ldh  | sth => apply sth
  | hnew => apply hnew  | hfree => apply hfree  | hpin => apply hpin  | hunpin => apply hunpin  | heq => apply heq  | htag => apply htag
  | qla => apply qla  | qzero => apply qzero  | qrd => apply qrd  | qwr => apply qwr  | qrel => apply qrel  | qmm => apply qmm  | qmmg => apply qmmg
  | qdist => apply qdist  | qtopk => apply qtopk  | qatt => apply qatt  | qatf => apply qatf  | qsel => apply qsel  | mxq => apply mxq
  | mxd => apply mxd  | mload => apply mload  | mfree => apply mfree  | mclass => apply mclass  | mstat => apply mstat  | kvnew => apply kvnew
  | kvseal => apply kvseal  | kvdem => apply kvdem  | kvdemInv => apply kvdemInv  | kvcold => apply kvcold  | kvq => apply kvq
  | kvpolReg => apply kvpolReg  | kvpolSweep => apply kvpolSweep  | kvpolUnreg => apply kvpolUnreg  | kvpolSet => apply kvpolSet  | cpy => apply cpy
  | cpy2d => apply cpy2d  | cpym => apply cpym  | cpyc => apply cpyc  | cpyst => apply cpyst  | cpyx => apply cpyx  | lld => apply lld
  | lgat => apply lgat  | lwr => apply lwr  | lred => apply lred  | mxr => apply mxr  | dlaunch => apply dlaunch  | qsig => apply qsig
  | bra => apply bra  | call => apply call  | trap => apply trap  | snap => apply snap  | csrr => apply csrr  | clock => apply clock
  | jmp => apply jmp  | callIndirect => apply callIndirect  | extImm => apply extImm  | extReg => apply extReg  | mov16 => apply mov16
  | add16 => apply add16  | sub16 => apply sub16  | mul16 => apply mul16  | and16 => apply and16  | or16 => apply or16  | xor16 => apply xor16
  | andn16 => apply andn16  | shl16 => apply shl16  | shr16 => apply shr16  | sra16 => apply sra16  | min16 => apply min16  | max16 => apply max16
  | fadd16 => apply fadd16  | fmul16 => apply fmul16  | fmax16 => apply fmax16  | nop => apply nop  | join => apply join  | yield => apply yield
  | exit => apply exit  | ret => apply ret  | guard => apply guard
  | _ => exact roundTrip_event rfl

end Sys2Proof.Laws.RoundTrip

namespace Sys2Proof

/-- Settles O25: the laws of the single instructions, one for each constructor. -/
theorem decodeOfEncode : Obligations.DecodeOfEncode := Laws.RoundTrip.statement_all

end Sys2Proof

/-! ## Encoding what was decoded (02 R43 to R68) -/

namespace Sys2Proof

/-- What a word holds from bit `lo` up, as an integer: a field is a difference of two of these, so that an equation between fields and words is linear. -/
def highPart (w lo : Nat) : Int := ((w / 2 ^ lo : Nat) : Int)

theorem highPart_zero (w : Nat) : highPart w 0 = w := by simp [highPart]

theorem highPart_of_lt {w n : Nat} (h : w < 2 ^ n) : highPart w n = 0 := by simp [highPart, Nat.div_eq_of_lt h]

theorem bitsOf_cast (w lo n : Nat) : (bitsOf w lo n : Int) = highPart w lo - 2 ^ n * highPart w (lo + n) := by
  have h := Nat.mod_add_div (w / 2 ^ lo) (2 ^ n)
  rw [Nat.div_div_eq_div_mul, ← Nat.pow_add] at h
  rw [highPart, highPart, ← h, bitsOf]
  push_cast
  omega

theorem toNat_fld_cast (w lo n : Nat) : ((fld w lo n).toNat : Int) = highPart w lo - 2 ^ n * highPart w (lo + n) := by
  rw [← bitsOf_cast, fld, BitVec.toNat_ofNat, bitsOf]

/-- Whatever is read from the word `w` has `n` bits, and they are those of `w`. -/
def Reads (n w : Nat) (o : Option Instr) : Prop := ∀ i ∈ o, wordBits i = n ∧ encodeWord i = w

theorem Reads.none {n w : Nat} : Reads n w none := fun _ h => nomatch h

theorem Reads.some {n w : Nat} {i : Instr} (hb : wordBits i = n) (h : encodeWord i = w) : Reads n w (Option.some i) := by
  rintro _ ⟨⟩
  exact ⟨hb, h⟩

theorem Reads.ite {n w : Nat} {p : Prop} [Decidable p] {i : Instr} {o : Option Instr} (ho : Reads n w o) (hb : wordBits i = n)
    (h : p → encodeWord i = w) : Reads n w (if p then Option.some i else o) := by
  split
  · exact .some hb (h ‹p›)
  · exact ho

/-- A 32-bit word of a major: bit 0 is 1, bits [6:1] are the major (02 R47). -/
structure OfMajor (m w : Nat) : Prop where
  odd : bitsOf w 0 1 = 1
  major : bitsOf w 1 6 = m
  lt : w < 2 ^ 32

/-- The fixed ends of a word of a major: its low seven bits, and nothing above bit 31. -/
theorem OfMajor.ends {m w : Nat} (h : OfMajor m w) :
    highPart w 0 = w ∧ highPart w 0 - 2 ^ 7 * highPart w 7 = 2 * m + 1 ∧ highPart w 32 = 0 := by
  obtain ⟨odd, major, lt⟩ := h
  zify [bitsOf_cast, Nat.reduceAdd] at odd major
  exact ⟨highPart_zero w, by omega, highPart_of_lt lt⟩

/-- Majors 0x00 to 0x0b: the lane integer and logic forms. -/
theorem reads_laneInteger {m w : Nat} (hw : OfMajor m w) (hm : m < 0x0c) : Reads 32 w (decodeWord w) := by
  have ⟨zero, low, top⟩ := hw.ends
  rw [decodeWord, hw.major]
  clear hw
  interval_cases m <;> dsimp only [
    decodeMajor00, decodeMajor01, decodeMajor02, decodeMajor03, decodeMajor04, decodeMajor05, decodeMajor06, decodeMajor07, decodeMajor08,
    decodeMajor09, decodeMajor0a, decodeMajor0b]
  all_goals repeat' refine Reads.ite ?_ rfl ?_
  any_goals exact Reads.none
  any_goals refine Reads.some rfl ?_
  all_goals
    unfold encodeWord
    zify [bitsOf_cast, toNat_fld_cast, Nat.reduceAdd]
    omega

/-- Majors 0x0c to 0x0f: the uniform forms. -/
theorem reads_uniform {m w : Nat} (hw : OfMajor m w) (h0 : 0x0c ≤ m) (h1 : m < 0x10) : Reads 32 w (decodeWord w) := by
  have ⟨zero, low, top⟩ := hw.ends
  rw [decodeWord, hw.major]
  clear hw
  interval_cases m <;> dsimp only [
    decodeMajor0c, decodeMajor0d, decodeMajor0e, decodeMajor0f]
  all_goals repeat' refine Reads.ite ?_ rfl ?_
  any_goals exact Reads.none
  all_goals
    unfold encodeWord
    zify [bitsOf_cast, toNat_fld_cast, Nat.reduceAdd]
    omega

/-- Majors 0x10 to 0x17: floating point and conversions; 0x15 to 0x17 are reserved. -/
theorem reads_float {m w : Nat} (hw : OfMajor m w) (h0 : 0x10 ≤ m) (h1 : m < 0x18) : Reads 32 w (decodeWord w) := by
  have ⟨zero, low, top⟩ := hw.ends
  rw [decodeWord, hw.major]
  clear hw
  interval_cases m <;> dsimp only [
    decodeMajor10, decodeMajor11, decodeMajor12, decodeMajor13, decodeMajor14]
  all_goals repeat' refine Reads.ite ?_ rfl ?_
  any_goals exact Reads.none
  all_goals
    unfold encodeWord
    zify [bitsOf_cast, toNat_fld_cast, Nat.reduceAdd]
    omega

/-- Majors 0x18 to 0x1f: compares, predicates, moves and cross-lane forms. -/
theorem reads_crossLane {m w : Nat} (hw : OfMajor m w) (h0 : 0x18 ≤ m) (h1 : m < 0x20) : Reads 32 w (decodeWord w) := by
  have ⟨zero, low, top⟩ := hw.ends
  rw [decodeWord, hw.major]
  clear hw
  interval_cases m <;> dsimp only [
    decodeMajor18, decodeMajor19, decodeMajor1a, decodeMajor1b, decodeMajor1c, decodeMajor1d, decodeMajor1e, decodeMajor1f]
  all_goals repeat' refine Reads.ite ?_ rfl ?_
  any_goals exact Reads.none
  all_goals
    unfold encodeWord
    zify [bitsOf_cast, toNat_fld_cast, Nat.reduceAdd]
    omega

/-- Majors 0x20 to 0x27: loads and stores. -/
theorem reads_loadStore {m w : Nat} (hw : OfMajor m w) (h0 : 0x20 ≤ m) (h1 : m < 0x28) : Reads 32 w (decodeWord w) := by
  have ⟨zero, low, top⟩ := hw.ends
  rw [decodeWord, hw.major]
  clear hw
  interval_cases m <;> dsimp only [
    decodeMajor20, decodeMajor21, decodeMajor22, decodeMajor23, decodeMajor24, decodeMajor25, decodeMajor26, decodeMajor27]
  all_goals repeat' refine Reads.ite ?_ rfl ?_
  any_goals exact Reads.none
  all_goals
    unfold encodeWord
    zify [bitsOf_cast, toNat_fld_cast, Nat.reduceAdd]
    omega

/-- Majors 0x28 to 0x2f: atomics, fences, barriers and heap forms. -/
theorem reads_atomicBarrierHeap {m w : Nat} (hw : OfMajor m w) (h0 : 0x28 ≤ m) (h1 : m < 0x30) : Reads 32 w (decodeWord w) := by
  have ⟨zero, low, top⟩ := hw.ends
  rw [decodeWord, hw.major]
  clear hw
  interval_cases m <;> dsimp only [
    decodeMajor28, decodeMajor29, decodeMajor2a, decodeMajor2b, decodeMajor2c, decodeMajor2d, decodeMajor2e, decodeMajor2f]
  all_goals repeat' refine Reads.ite ?_ rfl ?_
  any_goals exact Reads.none
  all_goals
    unfold encodeWord
    zify [bitsOf_cast, toNat_fld_cast, Nat.reduceAdd]
    omega

/-- Majors 0x30 to 0x37: the engines' forms. -/
theorem reads_engine {m w : Nat} (hw : OfMajor m w) (h0 : 0x30 ≤ m) (h1 : m < 0x38) : Reads 32 w (decodeWord w) := by
  have ⟨zero, low, top⟩ := hw.ends
  rw [decodeWord, hw.major]
  clear hw
  interval_cases m <;> dsimp only [
    decodeMajor30, decodeMajor31, decodeMajor32, decodeMajor33, decodeMajor34, decodeMajor35, decodeMajor36, decodeMajor37]
  all_goals repeat' refine Reads.ite ?_ rfl ?_
  any_goals exact Reads.none
  all_goals
    unfold encodeWord
    zify [bitsOf_cast, toNat_fld_cast, Nat.reduceAdd]
    omega

/-- Majors 0x38 to 0x3f: copies, links, launches, control flow and extensions. -/
theorem reads_copyLinkControl {m w : Nat} (hw : OfMajor m w) (h0 : 0x38 ≤ m) (h1 : m < 0x40) : Reads 32 w (decodeWord w) := by
  have ⟨zero, low, top⟩ := hw.ends
  rw [decodeWord, hw.major]
  clear hw
  interval_cases m <;> dsimp only [
    decodeMajor38, decodeMajor39, decodeMajor3a, decodeMajor3b, decodeMajor3c, decodeMajor3d, decodeMajor3e, decodeMajor3f]
  all_goals repeat' refine Reads.ite ?_ rfl ?_
  any_goals exact Reads.none
  any_goals refine Reads.some rfl ?_
  all_goals
    unfold encodeWord
    zify [bitsOf_cast, toNat_fld_cast, Nat.reduceAdd]
    omega

theorem reads_decodeWord {w : Nat} (odd : bitsOf w 0 1 = 1) (lt : w < 2 ^ 32) : Reads 32 w (decodeWord w) := by
  obtain ⟨m, hm⟩ : ∃ m, bitsOf w 1 6 = m := ⟨_, rfl⟩
  have hw : OfMajor m w := ⟨odd, hm, lt⟩
  have : m < 64 := hm ▸ Nat.mod_lt _ (by decide)
  rcases lt_or_ge m 0x0c with h1 | h0
  · exact reads_laneInteger hw h1
  rcases lt_or_ge m 0x10 with h1 | h0
  · exact reads_uniform hw h0 h1
  rcases lt_or_ge m 0x18 with h1 | h0
  · exact reads_float hw h0 h1
  rcases lt_or_ge m 0x20 with h1 | h0
  · exact reads_crossLane hw h0 h1
  rcases lt_or_ge m 0x28 with h1 | h0
  · exact reads_loadStore hw h0 h1
  rcases lt_or_ge m 0x30 with h1 | h0
  · exact reads_atomicBarrierHeap hw h0 h1
  rcases lt_or_ge m 0x38 with h1 | h0
  · exact reads_engine hw h0 h1
  · exact reads_copyLinkControl hw h0 this

theorem reads_decodeHalf {w : Nat} (lt : w < 2 ^ 16) : Reads 16 w (decodeHalf w) := by
  obtain ⟨m, hm⟩ : ∃ m, bitsOf w 0 6 = m := ⟨_, rfl⟩
  have zero := highPart_zero w
  have low := hm
  have top := highPart_of_lt lt
  zify [bitsOf_cast, Nat.reduceAdd] at low
  rw [decodeHalf, hm]
  clear hm
  split
  all_goals repeat' refine Reads.ite ?_ rfl ?_
  any_goals exact Reads.none
  any_goals refine Reads.some rfl ?_
  all_goals
    unfold encodeWord
    zify [bitsOf_cast, toNat_fld_cast, Nat.reduceAdd]
    omega

/-- The bytes of the number that bytes hold. -/
theorem bytesOf_natOfBytes (bs : List Byte) : bytesOf bs.length (natOfBytes bs) = bs := by
  induction bs with
  | nil => rfl
  | cons b t ih =>
    have hb := b.isLt
    have hlow : BitVec.ofNat 8 (b.toNat + 256 * natOfBytes t) = b := by
      apply BitVec.eq_of_toNat_eq
      rw [BitVec.toNat_ofNat]
      omega
    have hhigh : (b.toNat + 256 * natOfBytes t) / 256 = natOfBytes t := by omega
    rw [List.length_cons, natOfBytes, bytesOf, hlow, hhigh, ih]

theorem natOfBytes_lt (bs : List Byte) : natOfBytes bs < 2 ^ (8 * bs.length) := by
  induction bs with
  | nil => decide
  | cons b t ih =>
    have hb := b.isLt
    have hpow : 2 ^ (8 * (t.length + 1)) = 256 * 2 ^ (8 * t.length) := by rw [Nat.mul_succ, Nat.pow_add]; omega
    rw [List.length_cons, natOfBytes, hpow]
    omega

/-- What is read from the number that bytes hold is encoded by those bytes. -/
theorem Reads.encode_eq {bs : List Byte} {o : Option Instr} {i : Instr} (h : Reads (8 * bs.length) (natOfBytes bs) o) (hi : o = .some i) :
    encode i = bs := by
  obtain ⟨hbits, hword⟩ := h i hi
  rw [encode, hbits, hword, Nat.mul_div_cancel_left _ (by decide), bytesOf_natOfBytes]

/-- The first bit of a number is that of its first byte. -/
theorem bitsOf_natOfBytes_zero (b : Byte) (t : List Byte) : bitsOf (natOfBytes (b :: t)) 0 1 = b.toNat % 2 := by
  rw [natOfBytes, bitsOf]
  omega

/-- What the decoder read: four bytes that form an odd word, or two that form an even halfword, and what follows them. -/
theorem decode_eq_ok {bs rest : List Byte} {i : Instr} (h : decode bs = .ok (i, rest)) : ∃ hd, bs = hd ++ rest ∧
    (hd.length = 4 ∧ bitsOf (natOfBytes hd) 0 1 = 1 ∧ decodeWord (natOfBytes hd) = some i ∨
      hd.length = 2 ∧ bitsOf (natOfBytes hd) 0 1 = 0 ∧ decodeHalf (natOfBytes hd) = some i) := by
  unfold decode at h
  split at h
  · rename_i b0 b1 t
    split at h
    · rename_i odd
      split at h
      · rename_i b2 b3 t
        dsimp only at h
        split at h
        · rename_i j hj
          cases h
          exact ⟨[b0, b1, b2, b3], rfl, .inl ⟨rfl, by rw [bitsOf_natOfBytes_zero]; simpa [bitOf] using odd, hj⟩⟩
        · cases h
      · cases h
    · rename_i even
      dsimp only at h
      split at h
      · rename_i j hj
        cases h
        exact ⟨[b0, b1], rfl, .inr ⟨rfl, by rw [bitsOf_natOfBytes_zero]; simpa [bitOf] using even, hj⟩⟩
      · cases h
  · cases h

/-- Settles O26: each branch of the decoder accounts for every bit of the word, and the bytes are those of the word. -/
theorem encodeOfDecode : Obligations.EncodeOfDecode := by
  intro bs rest i h
  obtain ⟨hd, rfl, ⟨hlen, odd, hi⟩ | ⟨hlen, -, hi⟩⟩ := decode_eq_ok h
  all_goals have hlt := natOfBytes_lt hd
  all_goals rw [hlen] at hlt
  · rw [Reads.encode_eq (by rw [hlen]; exact reads_decodeWord odd hlt) hi]
  · rw [Reads.encode_eq (by rw [hlen]; exact reads_decodeHalf hlt) hi]

end Sys2Proof

/-! ## Prefixes, `snap` and `yield` (02 R44, R53, R57; 05 R173, R174; 17 R481, R482) -/

namespace Sys2Proof.Machine

open Sys2Proof

/-- A unit without register effects needs no register (04 R122, R123). -/
theorem fits_nil (s : State) (c : Ctx) : Fits s c {} := by
  constructor
  · simp [peakCond, created, wholeCond]
  · simp [poolOk, Group.apply, Group.freed]

theorem distinct_nil : Eff.distinct {} := ⟨.nil, .nil, .nil, .nil⟩

/-- A unit without conditions that fits takes effect whole. -/
theorem unitWith_of_fits {s : State} {c : Ctx} {e : Eff} (h : Fits s c e) (act : State → State) : unitWith s c [] e act = finish (act s) c e := by
  obtain ⟨hpeak, hpool⟩ := h
  simp [unitWith, hpeak, hpool, lowest]

/-- The end of a unit without register effects. -/
theorem finish_nil {s : State} {c : Ctx} (h : ctx? s = some c) : Completes s (finish s c {}) c {} := finishAt_spec h distinct_nil _

/-- The trigger changes the firmware's view of snapshots and nothing else. -/
theorem snapTrigger_eq (s : State) : snapTrigger s = { s with fw :=
    if s.fw.snap.isSome = true then { s.fw with missed := s.fw.missed + 1 }
    else if s.cycle + 512 ∈ s.fw.snapPending then s.fw else { s.fw with snapPending := s.fw.snapPending ++ [s.cycle + 512] } } := by
  unfold snapTrigger
  by_cases held : s.fw.snap.isSome = true
  · simp [held]
  · by_cases named : s.cycle + 512 ∈ s.fw.snapPending <;> simp [held, named]

theorem prefixClaim : PrefixClaim := fun _ _ _ _ => ⟨rfl, rfl, rfl⟩

theorem snapClaim : SnapClaim := by
  intro s c h missed named after
  have hact : (if s.fw.snapOn.getLsbD 0 then snapTrigger s else s) = { s with fw := after } := by
    cases on : s.fw.snapOn.getLsbD 0 with
    | false => rw [show after = s.fw from if_pos on]; rfl
    | true => rw [if_pos rfl, snapTrigger_eq, show after = _ from if_neg (by rw [on]; decide)]
  refine ⟨finish { s with fw := after } c {}, ?_, finish_nil h⟩
  change execSnap s = _
  rw [execSnap, issue_eq h, unitWith_of_fits (fits_nil s c), hact]

/-- `yield` with at most 16 groups that hold a ready split only goes on (05 R173). -/
theorem execYield_few {s : State} {c : Ctx} (h : ctx? s = some c) (few : (c.team.groups.filter (fun g => groupReady s c g.2)).length ≤ 16) :
    execYield s = .next (finish s c {}) := by
  rw [execYield, issue_eq h]
  simp [Nat.not_lt.2 few]

/-- `yield` with more: the first able group outside the active set takes the place of the issuing one. -/
theorem execYield_many {s : State} {c : Ctx} (h : ctx? s = some c) (many : 16 < (c.team.groups.filter (fun g => groupReady s c g.2)).length)
    {o : Nat} {gr : Group} {more : List (Nat × Group)}
    (first : (c.team.groups.filter (fun g => groupReady s c g.2)).filter (fun g => !(s.core c.core).active.contains g.1) = (o, gr) :: more) :
    execYield s = .next ((finish s c {}).modCore c.core (fun k => { k with active := k.active.filter (· != c.group.num) ++ [o] })) := by
  have others : (c.team.groups.filter (fun g => groupReady s c g.2 && !(s.core c.core).active.contains g.1)).map (·.1) = o :: more.map (·.1) := by
    rw [List.filter_filter] at first
    simp only [Bool.and_comm] at first ⊢
    rw [first, List.map_cons]
  rw [execYield, issue_eq h]
  simp only [many, decide_true, others]

theorem core_modCore_self (s : State) (n : Nat) (f : Core → Core) : (s.modCore n f).core n = f (s.core n) := by
  simp [State.core, State.modCore]

theorem core_modCore_ne (s : State) {m n : Nat} (f : Core → Core) (h : m ≠ n) : (s.modCore n f).core m = s.core m := by
  simp [State.core, State.modCore, tabGet_tabPut_ne _ _ h]

theorem yieldClaim : YieldClaim := by
  intro s c h able active
  refine ⟨fun few => ⟨_, execYield_few h few, finish_nil h⟩, fun many o gr more first => ⟨_, execYield_many h many first, ?_, ?_, fun n hn => ?_⟩⟩
  · obtain ⟨g', ⟨rest, teams, team⟩, after⟩ := finish_nil h
    exact ⟨g', ⟨rfl, teams, team⟩, after⟩
  · rw [core_modCore_self]
    rfl
  · rw [core_modCore_ne _ _ hn]
    rfl

/-- Settles O21: prefixes by evaluation, `snap` by the cases of the trigger, `yield` by the number of groups that hold a ready split. -/
theorem prefixSnapYield : Obligations.PrefixSnapYield := ⟨prefixClaim, snapClaim, yieldClaim⟩

end Sys2Proof.Machine

/-! ## Taking a trap (04 R110, R126, R132) -/

namespace Sys2Proof.Machine

open Sys2Proof

theorem getElem?_listSet {α : Type} (xs : List α) (i j : Nat) (v : α) : (listSet xs i v)[j]? = if j = i then xs[j]?.map (fun _ => v) else xs[j]? := by
  induction xs generalizing i j with
  | nil => simp [listSet]
  | cons a t ih =>
    cases i with
    | zero => cases j <;> simp [listSet]
    | succ i => cases j <;> simp [listSet, ih]

/-- Resuming the work of a team changes operations in flight and what the cores hold, but no slot. -/
structure SlotsKept (s t : State) : Prop where
  rest : { t with cores := s.cores, ops := s.ops } = s
  slots : ∀ n, (t.core n).slots = (s.core n).slots

theorem SlotsKept.refl (s : State) : SlotsKept s s := ⟨rfl, fun _ => rfl⟩

theorem SlotsKept.trans {s t u : State} (h : SlotsKept s t) (k : SlotsKept t u) : SlotsKept s u :=
  ⟨(congrArg (fun x : State => { x with cores := s.cores, ops := s.ops }) k.rest).trans h.rest, fun n => (k.slots n).trans (h.slots n)⟩

theorem slotsKept_foldl {α : Type} (f : State → α → State) (hf : ∀ s x, SlotsKept s (f s x)) (xs : List α) (s : State) : SlotsKept s (xs.foldl f s) := by
  induction xs generalizing s with
  | nil => exact .refl s
  | cons x t ih => exact (hf s x).trans (ih _)

theorem slots_modCore (s : State) (core n : Nat) (f : Core → Core) (hf : ∀ k, (f k).slots = k.slots) :
    ((s.modCore core f).core n).slots = (s.core n).slots := by
  by_cases h : n = core
  · subst h; rw [core_modCore_self, hf]
  · rw [core_modCore_ne _ _ h]

theorem readmit_slotsKept (s : State) (core key id : Nat) (o : Op) (a : Att) : SlotsKept s (readmit s core key id o a) := by
  unfold readmit
  split
  · exact ⟨rfl, fun _ => rfl⟩
  · split
    · exact ⟨rfl, fun n => slots_modCore s core n (fun k => { k with locks := k.locks ++ a.locks key id }) (fun _ => rfl)⟩
    · exact ⟨rfl, fun _ => rfl⟩

theorem resample_slotsKept (s : State) (core key : Nat) : SlotsKept s (resample s core key) := by
  unfold resample
  apply slotsKept_foldl
  intro s x
  split
  · exact .refl s
  · split
    · exact readmit_slotsKept ..
    · exact ⟨rfl, fun _ => rfl⟩

/-- A fold that keeps what it has or takes the next element answers one of the elements. -/
theorem foldl_choice {α : Type} {P : α → Prop} (f : Option α → α → Option α) (hf : ∀ b x y, f b x = some y → b = some y ∨ y = x)
    (xs : List α) (hx : ∀ x ∈ xs, P x) (b : Option α) (hb : ∀ y, b = some y → P y) {y : α} (h : xs.foldl f b = some y) : P y := by
  induction xs generalizing b with
  | nil => exact hb y h
  | cons x t ih =>
    refine ih (fun z hz => hx z (List.mem_cons_of_mem _ hz)) (f b x) (fun z hz => ?_) h
    rcases hf b x z hz with hz | rfl
    · exact hb z hz
    · exact hx z (List.mem_cons_self ..)

/-- The slot that is switched in is SHADOW (04 R110). -/
theorem shadowPick_shadow {s : State} {k : Core} {i : Nat} (h : shadowPick s k = some i) : ∃ sl, k.slots[i]? = some sl ∧ sl.st = .shadow := by
  unfold shadowPick at h
  extract_lets cand lvl at h
  obtain ⟨⟨j, sl⟩, hp, rfl⟩ := Option.map_eq_some_iff.1 h
  refine foldl_choice (P := fun x => ∃ sl, k.slots[x.1]? = some sl ∧ sl.st = .shadow) _ ?_ _ ?_ none (fun _ h => nomatch h) hp
  · intro b x y hb
    cases b with
    | none => exact .inr (Option.some.inj hb).symm
    | some b =>
      dsimp only at hb
      by_cases better : (lvl b.2 < lvl x.2 || (lvl b.2 == lvl x.2 && decide (x.2.since < b.2.since))) = true
      · rw [if_pos better] at hb
        exact .inr (Option.some.inj hb).symm
      · rw [if_neg better] at hb
        exact .inl hb
  · intro x hx
    obtain ⟨n, -, hn⟩ := List.mem_filterMap.1 hx
    split at hn
    · split at hn
      · rename_i sl hsl hst
        cases hn
        simp only [Bool.and_eq_true, beq_iff_eq] at hst
        exact ⟨sl, hsl, hst.1⟩
      · cases hn
    · cases hn

/-- A switch changes operations in flight and what the cores hold, and no slot that was not SHADOW (04 R110, R126). -/
theorem switchIn_keeps (s : State) (core : Nat) : { switchIn s core with cores := s.cores, ops := s.ops } = s ∧
    ∀ (i : Nat) (sl : Slot), (s.core core).slots[i]? = some sl → sl.st ≠ .shadow → ((switchIn s core).core core).slots[i]? = some sl := by
  unfold switchIn
  dsimp only
  split
  · exact ⟨rfl, fun _ _ h _ => h⟩
  · split
    · exact ⟨rfl, fun _ _ h _ => h⟩
    · rename_i j hj
      obtain ⟨shadow, hshadow, hst⟩ := shadowPick_shadow hj
      rw [hshadow]
      dsimp only
      obtain ⟨rest, slots⟩ := resample_slotsKept ((s.setSlot core j { shadow with st := .running, since := s.cycle, retain := false }).modCore core
        (fun k => { k with active := firstActive s shadow.team })) core shadow.team
      refine ⟨congrArg (fun x : State => { x with cores := s.cores, ops := s.ops }) rest, fun i sl hi hne => ?_⟩
      have hij : i ≠ j := by
        rintro rfl
        rw [hshadow] at hi
        exact hne (Option.some.inj hi ▸ hst)
      rw [slots, core_modCore_self]
      dsimp only
      rw [State.setSlot, core_modCore_self]
      dsimp only
      rw [getElem?_listSet, if_neg hij, hi]

theorem running_slotIdx {k : Core} {sl : Slot} (h : k.running = some sl) :
    ∃ i, slotIdx k (fun x => x.st == .running) = some i ∧ k.slots[i]? = some sl ∧ sl.st = .running := by
  unfold Core.running at h
  have hst : sl.st = .running := by simpa using List.find?_some h
  rw [List.find?_eq_some_iff_getElem] at h
  obtain ⟨-, i, hi, rfl, before⟩ := h
  refine ⟨i, ?_, List.getElem?_eq_getElem hi, hst⟩
  rw [slotIdx, List.findIdx?_eq_some_iff_getElem]
  exact ⟨hi, by simp [hst], fun j hj => by simpa using before j hj⟩

/-- The team of the RUNNING slot leaves: its slot drains, and nothing changes but its record, its mask holds, slots that were SHADOW and the
operations of the team that is switched in (04 R110, R126). -/
theorem leaveRunning_spec {s : State} {core : Nat} {sl : Slot} (h : (s.core core).running = some sl) (why : Cause) (retain : Bool) :
    { leaveRunning s core why retain with teams := s.teams, cores := s.cores, ops := s.ops, maskHolds := s.maskHolds } = s ∧
    (leaveRunning s core why retain).teams =
      tabMod s.teams sl.team (fun t => { t with cause := why, ran := t.ran + (s.cycle - sl.since), requests := [] }) ∧
    ∃ i, slotIdx (s.core core) (fun x => x.st == .running) = some i ∧ (s.core core).slots[i]? = some sl ∧
      ((leaveRunning s core why retain).core core).slots[i]? = some { sl with st := .draining, since := s.cycle, retain := retain } := by
  obtain ⟨i, hidx, hi, -⟩ := running_slotIdx h
  let drained : State := { s.setSlot core i { sl with st := .draining, since := s.cycle, retain := retain } with
    maskHolds := s.maskHolds.filter (fun h => h.team != sl.team) }
  let left := drained.modTeam sl.team (fun t => { t with cause := why, ran := t.ran + (s.cycle - sl.since), requests := [] })
  have heq : leaveRunning s core why retain = switchIn left core := by
    unfold leaveRunning
    dsimp only
    rw [hidx, h]
    rfl
  obtain ⟨rest, slots⟩ := switchIn_keeps left core
  rw [heq]
  refine ⟨?_, ?_, i, hidx, hi, slots i _ ?_ (by simp)⟩
  · exact congrArg (fun x : State => { x with teams := s.teams, cores := s.cores, ops := s.ops, maskHolds := s.maskHolds }) rest
  · exact congrArg (fun x : State => x.teams) rest
  · change ((s.setSlot core i _).core core).slots[i]? = _
    rw [State.setSlot, core_modCore_self]
    dsimp only
    rw [getElem?_listSet, if_pos rfl, hi]
    rfl

/-- The team of the issuing split when it takes a trap: the trap joins its traps, and the group of the split stops. -/
def trapJoins (s : State) (c : Ctx) (k : Cond) (tm : Team) : Team :=
  { tm with
    traps := tm.traps ++ [{ code := k.code, detail0 := BitVec.ofNat 64 k.d0, detail1 := BitVec.ofNat 64 k.d1, unit := s.unit.addr
                            npc := s.unit.npc, cycle := s.cycle, lanes := k.lanes, splitLanes := c.split.mask
                            group := c.group.num, split := c.split.idx, defer := c.split.stack.length, core := c.core
                            drain := false, op := 0, gen := c.q.gen }]
    groups := tabMod tm.groups c.group.num (fun g => { g with stopped := true }) }

/-- A trap of the issuing split's unit: it joins the team's, and the team leaves RUNNING. -/
theorem takeTrap_unit {s : State} {c : Ctx} (h : ctx? s = some c) (k : Cond) :
    takeTrap s (unitSite s c) k = leaveRunning (s.modTeam c.key (trapJoins s c k)) c.core .trap false := by
  obtain ⟨hcore, hteam, -, -, -, -, hq, -, ⟨sl, hrun, hkey⟩, -⟩ := ctxAt_spec h
  have hgen : teamGen s c.key = c.q.gen := by simp [teamGen, hteam, hq]
  rw [← hcore] at hrun
  unfold takeTrap
  simp only [unitSite, haltOp, opGroup, if_true, hrun, hkey, beq_self_eq_true, Bool.not_true, hgen]
  rfl

/-- TAKING A TRAP, for the unit of the issuing split (04 R132). -/
theorem takeTrap_spec {s : State} {c : Ctx} (h : ctx? s = some c) (k : Cond) : TrapTaken s (takeTrap s (unitSite s c) k) c k := by
  obtain ⟨hcore, hteam, -, hgroup, -, -, -, -, ⟨sl, hrun, hkey⟩, -⟩ := ctxAt_spec h
  rw [← hcore] at hrun
  obtain ⟨rest, teams, i, hidx, hi, hdrain⟩ := leaveRunning_spec (s := s.modTeam c.key (trapJoins s c k)) hrun .trap false
  rw [hkey, State.teams_modTeam] at teams
  rw [takeTrap_unit h]
  refine ⟨?_, fun n hn => ?_, ?_, i, sl, hidx, hi, hkey, hdrain⟩
  · exact congrArg (fun x : State => { x with teams := s.teams }) rest
  · rw [teams, tabGet_tabMod_ne _ _ hn, tabGet_tabMod_ne _ _ hn]
  · rw [teams, tabGet_tabMod_self, tabGet_tabMod_self, hteam]
    refine ⟨_, rfl, rfl, rfl, rfl, rfl, ?_, fun n hn => tabGet_tabMod_ne _ _ hn⟩
    rw [trapJoins, tabGet_tabMod_self, hgroup]
    rfl

end Sys2Proof.Machine

/-! ## Fetching and parsing a unit (02 R43 to R46, R69; 07 R228, R237) -/

namespace Sys2Proof.Machine

open Sys2Proof

/-! ### A turn of the current split (log 2) -/

/-- A step is the turn that its agenda lists, or that of the current split. -/
theorem step_of_turn {s s0 : State} {a : Act} (h : TurnOf s s0 a) : step s = runTurn s0 a := by
  unfold step
  rcases h with ⟨hnil, rfl, rfl⟩ | ⟨t, rest, hcons, rfl, rfl⟩
  · rw [hnil]
  · rw [hcons]

/-! A split without a unit to replay first, that waits for nothing and may issue, executes its next unit, or stops where its fetch stops. -/

section Turn
variable {s : State} {w : Who} {c : Ctx} (hc : ctxAt s w = some c) (first : replayFirst s c = none) (calm : c.split.wait = .none)
  (hr : ready s c = true)
include hc first calm hr

theorem issueTurn_unit {hs : List Nat} {used : List (Xlat × Bool)} (hu : NextUnit s c hs used) :
    issueTurn s w = runParts c (parseUnit hs) (startUnit s w c hs used) := by
  unfold issueTurn
  rcases hu with ⟨r, hrep, rfl, rfl⟩ | ⟨hrep, hf⟩
  · simp [hc, first, calm, hr, hrep]
  · simp [hc, first, calm, hr, hrep, hf]

theorem issueTurn_fetchTrap {t : Cond} {ev : Option (Nat × Nat)} {known : List Nat} (hrep : c.split.replay = none)
    (hf : fetchUnit s c = .trap t ev known) : issueTurn s w = .next (fetchTrap s w c t ev known) := by
  unfold issueTurn
  simp [hc, first, calm, hr, hrep, hf]

theorem issueTurn_fetchFault {f : FaultInfo} (hrep : c.split.replay = none) (hf : fetchUnit s c = .fault f) :
    issueTurn s w = .next (fetchFault s w c f) := by
  unfold issueTurn
  simp [hc, first, calm, hr, hrep, hf]

end Turn

/-- The parts of a legal unit run one after another: its prefixes stand in the context when the body executes (02 R44). -/
theorem runUnit_eq (g : Option (BitVec 1 × BitVec 3)) (x : Option Ext) (body : Instr) (s : State) :
    runUnit g x body s = exec body (withPrefixes s g x) := by
  rcases g with _ | ⟨n, p⟩ <;> rcases x with _ | _ | _ <;> rfl

theorem runParts_of_body {c : Ctx} {p : Parts} {body : Instr} (s : State) (hb : p.body = some body) (hl : legalUnit p.guard p.ext body = true) :
    runParts c p s = if interlocked s c p.guard body p.ext then .next s else exec body (withPrefixes s p.guard p.ext) := by
  simp only [runParts, hb, hl, if_true, runUnit_eq]

theorem runParts_of_illegal {c : Ctx} {p : Parts} (s : State) (h : p.body = none ∨ ∃ body, p.body = some body ∧ legalUnit p.guard p.ext body = false) :
    runParts c p s = exec .illegalInstruction s := by
  rcases h with hb | ⟨body, hb, hl⟩
  · simp only [runParts, hb]
  · simp only [runParts, hb, hl, Bool.false_eq_true, if_false]

/-- Settles O27: the turn of the split reaches its unit, whose halfwords are a legal unit or are not. -/
theorem stepRunsDecodedUnit : Obligations.StepRunsDecodedUnit := by
  intro s s0 w c hs used turn hc first calm hr hu s1 p
  have hstep : step s = runParts c p s1 := (step_of_turn turn).trans (issueTurn_unit hc first calm hr hu)
  refine ⟨fun body hb hl hi => ?_, fun body hb hl hi => ?_, fun h => ?_⟩
  · rw [hstep, runParts_of_body s1 hb hl, hi]
    rfl
  · rw [hstep, runParts_of_body s1 hb hl, hi]
    rfl
  · rw [hstep, runParts_of_illegal s1 h]

/-! ### A fetch that fails (02 R46; 07 R228, R237) -/

/-- The first halfword stands at the program counter. -/
theorem pc_first (c : Ctx) : c.split.pc + BitVec.ofNat 64 (2 * 0) = c.split.pc := BitVec.add_zero _

/-! The first halfword decides, where it cannot be fetched (02 R44). -/

theorem fetchUnit_of_trap {s : State} {c : Ctx} {code d1 : Nat} (h : fetchHalf s c c.split.pc.toNat = .trap code d1) :
    fetchUnit s c = .trap ⟨code, c.split.pc.toNat, d1, c.split.mask⟩ none [] := by
  rw [fetchUnit, fetchLoop, if_neg (by decide), List.length_nil, pc_first]
  simp only [h]

theorem fetchUnit_of_fault {s : State} {c : Ctx} {l e : Nat} (h : fetchHalf s c c.split.pc.toNat = .fault l e) :
    fetchUnit s c = .fault ⟨c.split.pc.toNat, c.split.mask, l, e, 3, 0⟩ := by
  rw [fetchUnit, fetchLoop, if_neg (by decide), List.length_nil, pc_first]
  simp only [h]

theorem fetchUnit_of_denied {s : State} {c : Ctx} {cls : Nat} (h : fetchHalf s c c.split.pc.toNat = .denied cls) :
    fetchUnit s c = .trap ⟨0x21, c.split.pc.toNat, cls, c.split.mask⟩ (some (c.split.pc.toNat, cls)) [] := by
  rw [fetchUnit, fetchLoop, if_neg (by decide), List.length_nil, pc_first]
  simp only [h]

/-! The marks of the walk for the first halfword (07 R228): none at an address that is not canonical. -/

theorem noteFetch_one_of_not_canonical {s : State} {c : Ctx} (h : canonical c.split.pc = false) : noteFetch s c 1 = s := by
  rw [noteFetch, List.range_one, List.foldl_cons, List.foldl_nil]
  dsimp only
  rw [pc_first, h]
  split <;> rfl

theorem noteFetch_one_of_leaf {s : State} {c : Ctx} {x : Xlat} (h : canonical c.split.pc = true)
    (hw : (translate s c.q none (some c.core) (dieOf c.core) c.split.pc.toNat false).1 = .leaf x) : noteFetch s c 1 =
    noteXlat s (some c.core) (dieOf c.core) x false (translate s c.q none (some c.core) (dieOf c.core) c.split.pc.toNat false).2 := by
  rw [noteFetch, List.range_one, List.foldl_cons, List.foldl_nil]
  dsimp only
  rw [pc_first, h, ← Prod.mk.eta (p := translate ..), hw]
  rfl

/-- The context of a split does not depend on which split is current, nor on the unit context. -/
theorem ctx?_current (s : State) (w : Who) (u : UnitCtx) : ctx? { s with cur := w, unit := u } = ctxAt s w := rfl

/-- A fetch that traps at its first halfword, without an audit event. -/
theorem fetchTrap_first (s : State) (w : Who) (c : Ctx) (t : Cond) : fetchTrap s w c t none [] =
    let s2 := { noteFetch s c 1 with cur := w, unit := { UnitCtx.reset with addr := c.split.pc, npc := c.split.pc + 2 } }
    takeTrap s2 (unitSite s2 c) t := rfl

theorem unit_snapTrigger (s : State) : (snapTrigger s).unit = s.unit := by rw [snapTrigger_eq]

/-- An audit event leaves the unit as it stands (07 R238). -/
theorem unit_audit (s : State) (qn : Nat) (e : AuditEv) : (audit s qn e).unit = s.unit := by
  unfold audit
  split
  · rfl
  · extract_lets u v
    have hu : u.unit = s.unit := by
      dsimp only [u]
      split
      · exact unit_snapTrigger s
      · rfl
    clear_value u
    split
    · exact (State.unit_putQueue ..).trans hu
    · rw [State.unit_putQueue, State.unit_writeNum, hu]

/-- Where a unit stands does not depend on an audit event that it causes. -/
theorem unitSite_unitAudit (s : State) (c : Ctx) (va lanes count cls path kind : Nat) :
    unitSite (unitAudit s c va lanes count cls path kind) c = unitSite s c := by
  rw [unitSite, unitAudit, unit_audit, unitSite]

/-- A fetch whose first halfword is denied: its audit event precedes the trap (07 R237, R239). -/
theorem fetchTrap_audited {s s2 : State} {w : Who} {c : Ctx} (t : Cond) (va cls : Nat)
    (hs2 : { noteFetch s c 1 with cur := w, unit := { UnitCtx.reset with addr := c.split.pc, npc := c.split.pc + 2 } } = s2) :
    fetchTrap s w c t (some (va, cls)) [] = takeTrap (unitAudit s2 c va c.split.mask.toNat 2 cls 10 0) (unitSite s2 c) t := by
  rw [← unitSite_unitAudit s2 c va c.split.mask.toNat 2 cls 10 0, ← hs2]
  rfl

theorem fetchFault_first (s : State) (w : Who) (c : Ctx) (f : FaultInfo) (h : f.va = c.split.pc.toNat) : fetchFault s w c f =
    let s1 := { s with cur := w, unit := { UnitCtx.reset with addr := c.split.pc, npc := c.split.pc + 2 } }
    takeFault s1 (unitSite s1 c) f := by
  have : (f.va + 2 ^ 64 - c.split.pc.toNat) % 2 ^ 64 / 2 = 0 := by omega
  rw [fetchFault, this]
  rfl

/-! What a fetch meets: no canonical address, an invalid entry, or a class that the queue's grant set denies (07 R236, R237). -/

theorem fetchHalf_of_not_canonical (s : State) {c : Ctx} {va : DWord} (h : canonical va = false) :
    fetchHalf s c va.toNat = .trap 0x11 c.split.mask.toNat := by
  rw [fetchHalf, BitVec.ofNat_toNat, BitVec.setWidth_eq, h]
  rfl

theorem fetchHalf_of_invalid {s : State} {c : Ctx} {va : DWord} {l e : Nat} (h : canonical va = true)
    (hw : (translate s c.q none (some c.core) (dieOf c.core) va.toNat false).1 = .invalid l e) : fetchHalf s c va.toNat = .fault l e := by
  rw [fetchHalf, BitVec.ofNat_toNat, BitVec.setWidth_eq, h, ← Prod.mk.eta (p := translate ..), hw]
  rfl

theorem fetchHalf_of_denied {s : State} {c : Ctx} {va : DWord} {x : Xlat} (h : canonical va = true)
    (hw : (translate s c.q none (some c.core) (dieOf c.core) va.toNat false).1 = .leaf x) (hx : admits c.q x.cls = false)
    (hl : admits c.q (carried s (x.pa va.toNat) x.cls) = true) : fetchHalf s c va.toNat = .denied x.cls := by
  rw [fetchHalf, BitVec.ofNat_toNat, BitVec.setWidth_eq, h, ← Prod.mk.eta (p := translate ..), hw]
  simp only [Bool.not_true, Bool.false_eq_true, if_false, hx, hl, Bool.not_false, if_true]

theorem fetchTrapClaim : FetchTrapClaim := by
  intro s s0 w c turn hc calm first norep hr s1
  have hstep := step_of_turn turn
  refine ⟨fun bad => ?_, fun l e good hw => ?_, fun x good hw own line => ?_⟩
  · have hf := fetchUnit_of_trap (fetchHalf_of_not_canonical s0 bad)
    refine ⟨_, hstep.trans (issueTurn_fetchTrap hc first calm hr norep hf), ?_⟩
    rw [fetchTrap_first, noteFetch_one_of_not_canonical bad]
    exact takeTrap_spec ((ctx?_current s0 w s1.unit).trans hc) _
  · have hf := fetchUnit_of_fault (fetchHalf_of_invalid good hw)
    exact hstep.trans ((issueTurn_fetchFault hc first calm hr norep hf).trans (congrArg _ (fetchFault_first s0 w c _ rfl)))
  · have hf := fetchUnit_of_denied (fetchHalf_of_denied good hw own line)
    intro walked s2
    have hs2 : { noteFetch s0 c 1 with cur := w, unit := s1.unit } = s2 := by rw [noteFetch_one_of_leaf good hw]
    exact hstep.trans ((issueTurn_fetchTrap hc first calm hr norep hf).trans (congrArg _ (fetchTrap_audited _ _ _ hs2)))

/-! ### An encoded instruction is fetched whole (02 R43 to R45) -/

theorem fetchLoop_whole {s : State} {c : Ctx} {hs : List Nat} (h : wants hs ≤ hs.length) (n : Nat) (xs : List (Xlat × Bool)) :
    fetchLoop s c n hs xs = .unit hs xs := by
  cases n with
  | zero => rfl
  | succ n => rw [fetchLoop, if_pos h]

theorem fetchLoop_got {s : State} {c : Ctx} {hs : List Nat} {h : Nat} {x : Xlat} {w : Bool} (hlt : hs.length < wants hs)
    (hh : fetchHalf s c (c.split.pc + BitVec.ofNat 64 (2 * hs.length)).toNat = .got h x w) (n : Nat) (xs : List (Xlat × Bool)) :
    fetchLoop s c (n + 1) hs xs = fetchLoop s c n (hs ++ [h]) (xs ++ [(x, w)]) := by
  rw [fetchLoop, if_neg (Nat.not_le.2 hlt)]
  dsimp only
  rw [hh]

/-- A halfword that is a guard decodes to one (02 R56). -/
theorem decodeHalf_of_isGuardHalf {h : Nat} (hg : isGuardHalf h = true) : decodeHalf h = some (.guard (fld h 9 1) (fld h 6 3)) := by
  simp only [isGuardHalf, Bool.and_eq_true, beq_iff_eq] at hg
  obtain ⟨cop, rest⟩ := hg
  rw [decodeHalf, cop]
  exact if_pos rest

theorem isGuardHalf_of_odd {h : Nat} (odd : h % 2 = 1) : isGuardHalf h = false := by
  simp only [isGuardHalf, bitsOf, Bool.and_eq_false_iff, beq_eq_false_iff_ne]
  omega

/-- A halfword form that is no guard is a whole unit (02 R44). -/
theorem wants_half {h : Nat} (even : h % 2 = 0) (hg : isGuardHalf h = false) : wants [h] = 1 := by
  simp [wants, hg, wantsBody, even]

/-- A unit that begins with a 32-bit word takes its second halfword (02 R43). -/
theorem wants_word_first {h : Nat} (odd : h % 2 = 1) : wants [h] = 2 := by
  have : ¬ h % 2 = 0 := by omega
  simp [wants, isGuardHalf_of_odd odd, wantsBody, this]

/-- A 32-bit word that is no `ext` is a whole unit (02 R44, R53). -/
theorem wants_word {h0 h1 : Nat} (odd : h0 % 2 = 1) (ne : bitsOf h0 1 6 ≠ 63) : wants [h0, h1] = 2 := by
  have : ¬ h0 % 2 = 0 := by omega
  simp [wants, isGuardHalf_of_odd odd, wantsBody, this, ne]

/-- The words of major 63 are the extensions (02 R53). -/
theorem ext_of_decodeWord {w : Nat} {i : Instr} (hm : bitsOf w 1 6 = 63) (h : decodeWord w = some i) :
    (∃ p, i = .extImm p) ∨ ∃ p, i = .extReg p := by
  rw [decodeWord_3f hm, decodeMajor3f] at h
  split at h
  · exact .inl ⟨_, (Option.some.inj h).symm⟩
  · split at h
    · exact .inr ⟨_, (Option.some.inj h).symm⟩
    · cases h

theorem decodeHalves_half {h : Nat} (even : h % 2 = 0) : decodeHalves [h] = decodeHalf h := if_pos even

theorem decodeHalves_word {h0 h1 : Nat} (odd : h0 % 2 = 1) : decodeHalves [h0, h1] = decodeWord (h0 + 65536 * h1) := if_neg (by omega)

/-- A unit of one instruction, which is neither a guard nor an extension (02 R44). -/
theorem parseUnit_of_decodeHalves {hs : List Nat} {i : Instr} (h : decodeHalves hs = some i) (hg : ∀ n p, i ≠ .guard n p)
    (hx : ∀ p, i ≠ .extImm p ∧ i ≠ .extReg p) : parseUnit hs = ⟨none, none, some i⟩ := by
  have hbody : parseBody hs = (none, some i) := by
    unfold parseBody
    rw [h]
    split
    · rename_i p hi
      exact absurd (Option.some.inj hi) (hx p).1
    · rename_i p hi
      exact absurd (Option.some.inj hi) (hx p).2
    · rfl
  unfold parseUnit
  rw [h]
  split
  · rename_i n p hi
    exact absurd (Option.some.inj hi) (hg n p)
  · rw [hbody]

/-- A fetched halfword form that is no guard is a whole unit of one instruction. -/
theorem fetchUnit_half {s : State} {c : Ctx} {i : Instr} {h : Nat} {x : Xlat} {w : Bool} (even : h % 2 = 0) (hdec : decodeHalf h = some i)
    (hg : ∀ n p, i ≠ .guard n p) (hx : ∀ p, i ≠ .extImm p ∧ i ≠ .extReg p) (hh : fetchHalf s c c.split.pc.toNat = .got h x w) :
    fetchUnit s c = .unit [h] [(x, w)] ∧ parseUnit [h] = ⟨none, none, some i⟩ := by
  have noguard : isGuardHalf h = false := by
    by_contra isguard
    rw [decodeHalf_of_isGuardHalf (by simpa using isguard)] at hdec
    exact hg _ _ (Option.some.inj hdec).symm
  rw [← pc_first c] at hh
  have first := fetchLoop_got (hs := []) (by decide) hh 4 []
  exact ⟨first.trans (fetchLoop_whole (Nat.le_of_eq (wants_half even noguard)) 4 _),
    parseUnit_of_decodeHalves ((decodeHalves_half even).trans hdec) hg hx⟩

/-- Two fetched halfwords that form a 32-bit word of no extension are a whole unit of one instruction. -/
theorem fetchUnit_word {s : State} {c : Ctx} {i : Instr} {h0 h1 : Nat} {x0 x1 : Xlat} {w0 w1 : Bool} (odd : h0 % 2 = 1)
    (hdec : decodeWord (h0 + 65536 * h1) = some i) (hg : ∀ n p, i ≠ .guard n p) (hx : ∀ p, i ≠ .extImm p ∧ i ≠ .extReg p)
    (hh0 : fetchHalf s c c.split.pc.toNat = .got h0 x0 w0) (hh1 : fetchHalf s c (c.split.pc + BitVec.ofNat 64 2).toNat = .got h1 x1 w1) :
    fetchUnit s c = .unit [h0, h1] [(x0, w0), (x1, w1)] ∧ parseUnit [h0, h1] = ⟨none, none, some i⟩ := by
  have noext : bitsOf h0 1 6 ≠ 63 := by
    intro h63
    have hmajor : bitsOf (h0 + 65536 * h1) 1 6 = 63 := by
      simp only [bitsOf] at h63 ⊢
      omega
    rcases ext_of_decodeWord hmajor hdec with ⟨p, hp⟩ | ⟨p, hp⟩
    · exact (hx p).1 hp
    · exact (hx p).2 hp
  rw [← pc_first c] at hh0
  have first := fetchLoop_got (hs := []) (by decide) hh0 4 []
  have second := fetchLoop_got (hs := [h0]) (by rw [wants_word_first odd]; exact Nat.lt_succ_self 1) hh1 3 [(x0, w0)]
  exact ⟨first.trans (second.trans (fetchLoop_whole (Nat.le_of_eq (wants_word odd noext)) 3 _)),
    parseUnit_of_decodeHalves ((decodeHalves_word odd).trans hdec) hg hx⟩

theorem encode_length (i : Instr) : (encode i).length = wordBits i / 8 := bytesOf_length _ _

/-- The bytes of an instruction with a word are the two of a halfword, or the four of two halfwords, the first of them odd (02 R43). -/
theorem encode_cases {i : Instr} (h : i.wellFormed = true) :
    (∃ b0 b1, encode i = [b0, b1] ∧ natOfBytes [b0, b1] % 2 = 0 ∧ decodeHalf (natOfBytes [b0, b1]) = some i) ∨
    ∃ b0 b1 b2 b3, encode i = [b0, b1, b2, b3] ∧ natOfBytes [b0, b1] % 2 = 1 ∧
      decodeWord (natOfBytes [b0, b1] + 65536 * natOfBytes [b2, b3]) = some i := by
  obtain ⟨hd, heq, hcases⟩ := decode_eq_ok (decodeOfEncode i h [])
  rw [List.append_cancel_right heq]
  rcases hcases with ⟨hlen, odd, hdec⟩ | ⟨hlen, even, hdec⟩
  · obtain ⟨b0, b1, b2, b3, rfl⟩ := List.length_eq_four.1 hlen
    have hw : natOfBytes [b0, b1, b2, b3] = natOfBytes [b0, b1] + 65536 * natOfBytes [b2, b3] := by
      simp only [natOfBytes]
      omega
    rw [hw] at odd hdec
    refine .inr ⟨b0, b1, b2, b3, rfl, ?_, hdec⟩
    simp only [bitsOf] at odd
    omega
  · obtain ⟨b0, b1, rfl⟩ := List.length_eq_two.1 hlen
    refine .inl ⟨b0, b1, rfl, ?_, hdec⟩
    simpa [bitsOf] using even

theorem fetchEncodedClaim : FetchEncodedClaim := by
  intro i s c hwf hbits hg hx hgot
  have hlen := encode_length i
  rcases encode_cases hwf with ⟨b0, b1, hb, even, hdec⟩ | ⟨b0, b1, b2, b3, hb, odd, hdec⟩ <;> rw [hb] at hlen hgot
  · have hn : wordBits i / 16 = 1 := by simp only [List.length_cons, List.length_nil] at hlen; omega
    rw [hn] at hgot
    obtain ⟨x, w, hh⟩ := hgot 0 (by decide)
    rw [pc_first] at hh
    obtain ⟨hf, hp⟩ := fetchUnit_half even hdec hg hx hh
    exact ⟨_, _, hf, hn.symm, hp⟩
  · have hn : wordBits i / 16 = 2 := by simp only [List.length_cons, List.length_nil] at hlen; omega
    rw [hn] at hgot
    obtain ⟨x0, w0, hh0⟩ := hgot 0 (by decide)
    obtain ⟨x1, w1, hh1⟩ := hgot 1 (by decide)
    rw [pc_first] at hh0
    obtain ⟨hf, hp⟩ := fetchUnit_word odd hdec hg hx hh0 hh1
    exact ⟨_, _, hf, hn.symm, hp⟩

/-- Settles O29: the first halfword decides where it cannot be fetched; the halfwords of an encoded instruction are a whole unit, which parses to it.
The marks that a denied walk leaves are the model's reading (log 23). -/
theorem fetchResults : Obligations.FetchResults := ⟨fetchTrapClaim, fetchEncodedClaim⟩

end Sys2Proof.Machine

/-! ## The host's accesses, releases, write combining (03 R108, 13 R392, 01 R33, 12 R363) -/

namespace Sys2Proof.Machine

open Sys2Proof

/-! ### What the hardware's own writes leave alone (07 R236) -/

/-- Only memory, and the marks that a write of memory leaves, may differ. -/
structure MemoryOnly (s t : State) : Prop where
  rest : { t with mem := s.mem, bad := s.bad, spadDirty := s.spadDirty, l1Lines := s.l1Lines, migrations := s.migrations } = s

namespace MemoryOnly

variable {s t u : State}

theorem refl (s : State) : MemoryOnly s s := ⟨rfl⟩

theorem trans (h : MemoryOnly s t) (k : MemoryOnly t u) : MemoryOnly s u :=
  ⟨(congrArg (fun x : State => { x with
    mem := s.mem, bad := s.bad, spadDirty := s.spadDirty, l1Lines := s.l1Lines, migrations := s.migrations }) k.rest).trans h.rest⟩

theorem heaps (h : MemoryOnly s t) : t.heaps = s.heaps := (congrArg State.heaps h.rest :)

theorem wc (h : MemoryOnly s t) : t.wc = s.wc := (congrArg State.wc h.rest :)

theorem teams (h : MemoryOnly s t) : t.teams = s.teams := (congrArg State.teams h.rest :)

theorem hostReads (h : MemoryOnly s t) : t.hostReads = s.hostReads := (congrArg State.hostReads h.rest :)

end MemoryOnly

theorem write_memoryOnly (s : State) (pa : Nat) (bs : List Byte) : MemoryOnly s (s.write pa bs) := ⟨rfl⟩

theorem hwNote_memoryOnly (s : State) (q : Queue) (va n : Nat) (write : Bool) : MemoryOnly s (hwNote s q va n write) := by
  refine List.foldlRecOn (motive := MemoryOnly s) _ _ (.refl s) fun t h c _ => ?_
  dsimp only
  split
  · split
    · exact h
    · exact h.trans (write_memoryOnly ..)
  · exact h

theorem hwWrite_memoryOnly (s : State) (q : Queue) (va : Nat) (bs : List Byte) : MemoryOnly s (hwWrite s q va bs) := by
  rw [hwWrite]
  split
  · exact .refl s
  · refine .trans ?_ (hwNote_memoryOnly ..)
    exact List.foldlRecOn (motive := fun a : State × List Byte => MemoryOnly s a.1) _ _ (.refl s)
      fun _ h _ _ => h.trans (write_memoryOnly ..)

theorem writeAt_memoryOnly (s : State) (ps : List (PAddr × Nat)) (bs : List Byte) : MemoryOnly s (writeAt s ps bs) := by
  induction ps generalizing s bs with
  | nil => exact .refl s
  | cons p t ih => exact (write_memoryOnly ..).trans (ih _ _)

theorem syncHeap_memoryOnly (s : State) (qn : Nat) : MemoryOnly s (syncHeap s qn) := by
  rw [syncHeap]
  split
  · exact (hwWrite_memoryOnly ..).trans (hwWrite_memoryOnly ..)
  · exact .refl s

/-! ### What the hardware's own accesses do not look at

A walk looks at memory, its bad granules and the size of the cold tier only, so that the releases, the tags of narrow objects and the write-combining
entries can be changed before or after an access of the hardware's own. -/

/-- A state with other releases, tags of narrow objects and write-combining entries. -/
def State.aside (s : State) (rel : List Released) (nar : List Narrow) (wc : Tab WcEntry) : State :=
  { s with released := rel, narrow := nar, wc := wc }

section Aside

variable (s : State) (rel : List Released) (nar : List Narrow) (wc : Tab WcEntry)

theorem walkFrom_aside (asid gen va : Nat) (ls : List (Nat × Nat × Nat)) (table : Nat) :
    walkFrom (s.aside rel nar wc) asid gen va ls table = walkFrom s asid gen va ls table := by
  induction ls generalizing table with
  | nil => rfl
  | cons l ls ih =>
    obtain ⟨level, sh, w⟩ := l
    simp only [walkFrom, ih]
    rfl

theorem walk_aside (q : Queue) (va : Nat) : walk (s.aside rel nar wc) q va = walk s q va := walkFrom_aside ..

theorem hwPieces_aside (q : Queue) (va n : Nat) : hwPieces (s.aside rel nar wc) q va n = hwPieces s q va n := by
  simp only [hwPieces, walk_aside]

theorem hwNum_aside (q : Queue) (va n : Nat) : hwNum (s.aside rel nar wc) q va n = hwNum s q va n := by
  simp only [hwNum, hwRead, hwPieces_aside]
  rfl

theorem hwNote_aside (q : Queue) (va n : Nat) (write : Bool) :
    hwNote (s.aside rel nar wc) q va n write = (hwNote s q va n write).aside rel nar wc := by
  refine List.foldl_hom (fun t : State => t.aside rel nar wc) fun t c => ?_
  simp only [walk_aside]
  split
  · split
    · rfl
    · rfl
  · rfl

theorem hwWrite_aside (q : Queue) (va : Nat) (bs : List Byte) :
    hwWrite (s.aside rel nar wc) q va bs = (hwWrite s q va bs).aside rel nar wc := by
  have pieces (ps : List (Nat × Nat)) := List.foldl_hom (fun a : State × List Byte => (a.1.aside rel nar wc, a.2)) (l := ps) (init := (s, bs))
    (g₁ := fun a p => (a.1.write p.1 (a.2.take p.2), a.2.drop p.2)) (g₂ := fun a p => (a.1.write p.1 (a.2.take p.2), a.2.drop p.2))
    (fun _ _ => rfl)
  rw [hwWrite, hwWrite, hwPieces_aside]
  split
  · rfl
  · rw [pieces, hwNote_aside]

theorem writeAt_aside (ps : List (PAddr × Nat)) (bs : List Byte) : writeAt (s.aside rel nar wc) ps bs = (writeAt s ps bs).aside rel nar wc := by
  induction ps generalizing s bs with
  | nil => rfl
  | cons p t ih => exact ih (s.write p.1 (bs.take p.2)) _

theorem setAlloc_aside (q : Queue) (h : Heap) (va : Nat) (on : Bool) :
    setAlloc (s.aside rel nar wc) q h va on = (setAlloc s q h va on).aside rel nar wc := by
  simp only [setAlloc, hwNum_aside, hwWriteNum, hwWrite_aside]

/-- Where no release changes, the free runs of a heap do not change either. -/
theorem freeIn_aside (qn : Nat) (q : Queue) (h : Heap) (hot : Bool) : freeIn (s.aside s.released nar wc) qn q h hot = freeIn s qn q h hot := by
  simp only [freeIn, occupied, allocBits, headerAt, hwNum_aside, walk_aside]
  rfl

theorem syncHeap_aside (qn : Nat) : syncHeap (s.aside s.released nar wc) qn = (syncHeap s qn).aside s.released nar wc := by
  simp only [syncHeap, freeIn_aside, hwNum_aside, hwWriteNum, hwWrite_aside]
  rw [show (s.aside s.released nar wc).heaps = s.heaps from rfl, show (s.aside s.released nar wc).queues = s.queues from rfl]
  split
  · rfl
  · rfl

end Aside

/-! ### Single bytes -/

/-- The bytes of a range are the single bytes at its addresses. -/
theorem getElem?_memGetMany (m : List Host.Cell) (p : Nat) {n j : Nat} (hj : j < n) : (memGetMany m p n)[j]? = some (memGet m (p + j)) := by
  induction n generalizing p j with
  | zero => omega
  | succ n ih =>
    cases j with
    | zero => rfl
    | succ j =>
      rw [memGetMany, List.getElem?_cons_succ, ih (p + 1) (by omega), Nat.add_right_comm, Nat.add_assoc]

theorem byteAt_write_same {s : State} (hs : s.Inv) (pa : Nat) (bs : List Byte) {j : Nat} (hj : j < bs.length) :
    (s.write pa bs).byteAt (pa + j) = bs.getD j 0 := by
  have h := getElem?_memGetMany (s.write pa bs).mem pa hj
  rw [← State.bytes, State.bytes_write_same hs] at h
  rw [List.getD_eq_getElem?_getD, h]
  rfl

theorem byteAt_write_one {s : State} (hs : s.Inv) (pa : Nat) (v : Byte) : (s.write pa [v]).byteAt pa = v := memGet_memSet_self pa v hs

theorem pageCuts_one (va : Nat) : pageCuts va 1 = [(va, 1)] := by
  have lo : Nat.max va (va / 65536 * 65536) = va := Nat.max_eq_left (by omega)
  have hi : Nat.min (va + 1) ((va / 65536 + 1) * 65536) = va + 1 := Nat.min_eq_left (by omega)
  simp [pageCuts, lo, hi]

section OneByte

variable {s : State} {q : Queue} {va : Nat} {x : Xlat}

theorem hwPieces_one (h : walk s q va = .leaf x) : hwPieces s q va 1 = some [(x.pa va, 1)] := by
  simp [hwPieces, pageCuts_one, h]

theorem hwNum_one (h : walk s q va = .leaf x) : hwNum s q va 1 = (s.byteAt (x.pa va)).toNat := by
  simp [hwNum, hwRead, hwPieces_one h, State.bytes, memGetMany, natOfBytes, State.byteAt]

theorem hwWrite_one (h : walk s q va = .leaf x) (v : Byte) : hwWrite s q va [v] = hwNote (s.write (x.pa va) [v]) q va 1 true := by
  simp [hwWrite, hwPieces_one h]

/-- A walk that meets its leaf with its bits set leaves the state as it is (07 R228). -/
theorem hwNote_one_of_marked (h : ∀ x, walk s q va = .leaf x → (walkedLeaf x true).leaf = x.leaf) : hwNote s q va 1 true = s := by
  rw [hwNote, pageCuts_one, List.foldl_cons, List.foldl_nil]
  split
  · exact if_pos (h _ ‹_›)
  · rfl

end OneByte

/-! ### Allocation bits (13 R376) -/

/-- A byte with the bits of a mask set, or cleared. -/
def maskedByte (b m : Byte) (on : Bool) : Byte := if on then b ||| m else b &&& ~~~m

/-- Setting and clearing bits leaves the other bits of the byte. -/
theorem maskedByte_outside (b m : Byte) (on : Bool) : maskedByte b m on &&& ~~~m = b &&& ~~~m := by
  cases on
  · rw [maskedByte, if_neg Bool.false_ne_true, BitVec.and_assoc, BitVec.and_self]
  · ext i hi
    simp [maskedByte, Bool.and_or_distrib_right]

/-- Taking away the common bits clears them. -/
theorem sub_and_eq_and_not (b m : Byte) : b - (b &&& m) = b &&& ~~~m := by
  have apart : (b &&& ~~~m) &&& (b &&& m) = 0#8 := by ext i hi; simp; tauto
  have whole : (b &&& ~~~m) ||| (b &&& m) = b := by ext i hi; cases hm : m[i] <;> simp [hm]
  rw [sub_eq_iff_eq_add, BitVec.add_eq_or_of_and_eq_zero _ _ apart, whole]

/-- The number that the model computes for a byte with one bit set or cleared. -/
theorem ofNat_maskedByte (b : Byte) (m : Nat) (on : Bool) :
    BitVec.ofNat 8 (if on then Nat.lor b.toNat m else b.toNat - Nat.land b.toNat m) = maskedByte b (BitVec.ofNat 8 m) on := by
  cases on
  · have le : b.toNat &&& m ≤ b.toNat := Nat.and_le_left
    calc BitVec.ofNat 8 (b.toNat - (b.toNat &&& m))
        = BitVec.ofNat 8 b.toNat - BitVec.ofNat 8 (b.toNat &&& m) :=
          (BitVec.ofNat_sub_ofNat_of_le _ _ (Nat.lt_of_le_of_lt le b.isLt) le).symm
      _ = b &&& ~~~BitVec.ofNat 8 m := by rw [BitVec.ofNat_and, BitVec.ofNat_toNat, BitVec.setWidth_eq, sub_and_eq_and_not]
  · exact BitVec.ofNat_or.trans (by rw [BitVec.ofNat_toNat, BitVec.setWidth_eq]; rfl)

/-- The mask of an address's allocation bit in its byte of the bitmap. -/
def allocMask (h : Heap) (va : Nat) : Byte := BitVec.ofNat 8 (2 ^ (h.bitOf va % 8))

theorem setAlloc_eq {s : State} {q : Queue} {h : Heap} {va : Nat} {y : Xlat} (hy : walk s q (h.bitAt va) = .leaf y) (on : Bool) :
    setAlloc s q h va on = hwNote (s.write (y.pa (h.bitAt va)) [maskedByte (s.byteAt (y.pa (h.bitAt va))) (allocMask h va) on]) q (h.bitAt va) 1 true := by
  have bytes (v : Nat) : bytesOf 1 v = [BitVec.ofNat 8 v] := rfl
  simp only [setAlloc, hwNum_one hy, hwWriteNum, bytes, hwWrite_one hy, ofNat_maskedByte, allocMask]

/-- An allocation bit is set or cleared alone, where the write does not touch its own page-table entries. -/
theorem allocBitClaim (s : State) (q : Queue) (h : Heap) (va : Nat) (y : Xlat) (hs : s.Inv) (hy : walk s q (h.bitAt va) = .leaf y) (on : Bool)
    (marked : ∀ v, v &&& ~~~allocMask h va = s.byteAt (y.pa (h.bitAt va)) &&& ~~~allocMask h va → ∀ x,
      walk (s.write (y.pa (h.bitAt va)) [v]) q (h.bitAt va) = .leaf x → (walkedLeaf x true).leaf = x.leaf) :
    (setAlloc s q h va on).byteAt (y.pa (h.bitAt va)) = maskedByte (s.byteAt (y.pa (h.bitAt va))) (allocMask h va) on ∧
      ∀ a, a ≠ y.pa (h.bitAt va) → (setAlloc s q h va on).byteAt a = s.byteAt a := by
  rw [setAlloc_eq hy, hwNote_one_of_marked (marked _ (maskedByte_outside ..))]
  refine ⟨byteAt_write_one hs .., fun a ha => byteAt_write_outside s _ ?_⟩
  rw [List.length_singleton]
  omega

/-! ### Releases (01 R33, 10 R325) -/

theorem exec_objectFree (r : Nat) (s : State) : exec (.objectFree r) s = execObjectFree r s := rfl

/-- Freeing an object changes the tags of narrow objects beside memory only: the heap's fields in memory are those of a state that keeps the tag. -/
theorem freed_eq (s : State) (rel : List Released) (q : Queue) (h : Heap) (qn a : Nat) :
    syncHeap (dropNarrow (setAlloc { s with released := rel } q h a false) qn a) qn =
      (syncHeap { setAlloc s q h a false with released := rel } qn).aside rel (s.narrow.filter (fun u => !(u.queue == qn && u.obj == a))) s.wc := by
  have set : setAlloc { s with released := rel } q h a false = (setAlloc s q h a false).aside rel s.narrow s.wc := setAlloc_aside s rel s.narrow s.wc ..
  rw [set]
  exact syncHeap_aside { setAlloc s q h a false with released := rel } ..

/-- A release that no attention unit's epoch holds is gone from the list, and its object's allocation bit is cleared. -/
theorem objectFree_passed {s : State} {r : Nat} {x : Released} (hx : s.released[r]? = some x) (hp : epochPassed s x.eRel = true) :
    ∃ t, exec (.objectFree r) s = .next t ∧ t.released = s.released.eraseIdx r ∧
      ∀ q h, tabGet s.queues x.queue = some q → tabGet s.heaps x.queue = some h → Synced t (setAlloc s q h x.addr false) x.queue := by
  simp only [exec_objectFree, execObjectFree, hx, hp, Bool.not_true, Bool.false_eq_true, if_false]
  split
  case h_1 q h hq hh =>
    rw [freed_eq]
    refine ⟨_, rfl, rfl, fun q' h' hq' hh' => ?_⟩
    obtain rfl : q = q' := Option.some.inj (hq.symm.trans hq')
    obtain rfl : h = h' := Option.some.inj (hh.symm.trans hh')
    have heaps := (syncHeap_memoryOnly { setAlloc s q h x.addr false with released := s.released.eraseIdx r } x.queue).heaps
    exact congrArg (fun hs => (syncHeap { setAlloc s q h x.addr false with heaps := hs, released := s.released.eraseIdx r } x.queue).mem) heaps.symm
  case h_2 missing => exact ⟨_, rfl, rfl, fun q h hq hh => absurd hh (missing q h hq)⟩

theorem objectFree_held {s : State} {r : Nat} {x : Released} (hx : s.released[r]? = some x) (hp : epochPassed s x.eRel = false) :
    exec (.objectFree r) s = .next s := by
  rw [exec_objectFree, execObjectFree, hx]
  exact if_pos (by rw [hp]; rfl)

/-! ### Write-combining entries (12 R362 to R364) -/

section CloseEntry

variable {s : State} {id : Nat} {w : WcEntry}

/-- Closing an entry takes it out, and changes memory. -/
theorem closeWc_memoryOnly (hw : tabGet s.wc id = some w) : MemoryOnly { s with wc := tabDel s.wc id } (closeWc s id) := by
  simp only [closeWc, hw]
  split
  · exact (((hwNote_memoryOnly ..).trans (hwNote_memoryOnly ..)).trans (writeAt_memoryOnly ..)).trans (writeAt_memoryOnly ..)
  · exact .refl _

theorem closeWc_of_none (hw : tabGet s.wc id = none) : closeWc s id = s := by rw [closeWc, hw]

theorem hostReads_closeWc (s : State) (id : Nat) : (closeWc s id).hostReads = s.hostReads := by
  cases hw : tabGet s.wc id with
  | none => rw [closeWc_of_none hw]
  | some w => exact (closeWc_memoryOnly hw).hostReads

/-- The elements and the scale of an entry's block, encoded and written, where its queue and its page are still there. -/
theorem mem_closeWc (hw : tabGet s.wc id = some w) {q : Queue} {g : Narrow} (hq : tabGet s.queues w.queue = some q)
    (hg : narrowAt s w.queue (w.body - 16) = some g) :
    let f := g.half w.valueHalf
    let ea := g.elemsAt w.valueHalf w.block
    let sa := g.scaleAt w.valueHalf w.block
    let at_ := blockAt s q ea f.blockBytes w.elemsAt
    let sc := blockAt s q sa 1 w.scaleAt
    let was := fun i => mxValue f (natOfBytes (readAt s sc)) (elemAt f.bits (natOfBytes (readAt s at_)) i)
    let new := mxBlock f ((List.range 32).map (fun i => ((tabGet w.vals i).map bf16Num).getD (was i)))
    (closeWc s id).mem = (writeAt (writeAt (hwNote (hwNote s q ea f.blockBytes true) q sa 1 true) at_ (packElems f.bits new.2)) sc (bytesOf 1 new.1)).mem := by
  have deleted : { s with wc := tabDel s.wc id } = s.aside s.released s.narrow (tabDel s.wc id) := rfl
  have page : narrowAt (s.aside s.released s.narrow (tabDel s.wc id)) w.queue (w.body - 16) = some g := hg
  have read (ps : List (PAddr × Nat)) : readAt (s.aside s.released s.narrow (tabDel s.wc id)) ps = readAt s ps := rfl
  have value (o : Option Nat) (was : Num) : (o.map bf16Num).getD was = (match o with | some v => bf16Num v | none => was) := by cases o <;> rfl
  simp only [closeWc, hw, deleted, hq, page, blockAt, hwPieces_aside, read, hwNote_aside, writeAt_aside, value]
  rfl

end CloseEntry

theorem exec_writeCombineTimeout (id : Nat) (s : State) : exec (.writeCombineTimeout id) s = execWriteCombineTimeout id s := rfl

theorem writeCombineTimeout_due {s : State} {id : Nat} {w : WcEntry} (hw : tabGet s.wc id = some w) (due : w.opened + w.timeout ≤ s.cycle) :
    exec (.writeCombineTimeout id) s = .next (closeWc s id) := by
  rw [exec_writeCombineTimeout, execWriteCombineTimeout, hw]
  exact if_pos due

theorem releaseClaim : ReleaseClaim := by
  refine ⟨fun s r x hx => ⟨objectFree_passed hx, fun hp => ⟨s, objectFree_held hx hp, rfl⟩⟩,
    allocBitClaim, fun s id w hw due => ?_⟩
  have only := closeWc_memoryOnly hw
  refine ⟨_, writeCombineTimeout_due hw due, ?_, fun n hn => ?_, only.teams, fun q g hq hg => mem_closeWc hw hq hg⟩
  · rw [only.wc]; exact tabGet_tabDel_self ..
  · rw [only.wc]; exact tabGet_tabDel_ne _ hn

/-! ### Accesses of the host (03 R108, 13 R392) -/

theorem closePhys_of_empty {s : State} (h : s.wc = []) (pa n : Nat) : closePhys s pa n = s := by simp [closePhys, closeWcs, h]

theorem hostReads_closePhys (s : State) (pa n : Nat) : (closePhys s pa n).hostReads = s.hostReads := by
  rw [closePhys, closeWcs]
  split
  · rfl
  · exact List.foldlRecOn (motive := fun t : State => t.hostReads = s.hostReads) _ _ rfl fun t h id _ => (hostReads_closeWc t id).trans h

theorem mem_setAdd {xs : List Nat} {x y : Nat} : y ∈ setAdd xs x ↔ y ∈ xs ∨ y = x := by
  induction xs with
  | nil => simp [setAdd]
  | cons a t ih =>
    rw [setAdd]
    split
    · simp only [List.mem_cons]; tauto
    · split
      · rename_i h; subst h; simp only [List.mem_cons]; tauto
      · simp only [List.mem_cons, ih]; tauto

theorem mem_foldl_setAdd {xs ys : List Nat} {y : Nat} : y ∈ xs.foldl setAdd ys ↔ y ∈ ys ∨ y ∈ xs := by
  induction xs generalizing ys with
  | nil => simp
  | cons x t ih => rw [List.foldl_cons, ih, mem_setAdd, List.mem_cons, or_assoc]

/-- A table whose values are changed by a function that may look at their keys. -/
theorem tabGet_map {β : Type} (t : Tab β) (f : Nat → β → β) (k : Nat) :
    tabGet (t.map (fun x => (x.1, f x.1 x.2))) k = (tabGet t k).map (f k) := by
  induction t with
  | nil => rfl
  | cons x t ih =>
    rw [List.map_cons, tabGet_cons, ih, tabGet_cons]
    by_cases h : x.1 = k
    · simp [h]
    · simp [h]

/-- The dirty bits of the objects of a cycle that a write of the host meets (13 R392). -/
def hostDirty (s : State) (k pa n : Nat) (c : RelCycle) : RelCycle :=
  { c with dirty := ((c.objs.filter (fun o => match tabGet s.queues k with
      | some q => meetsVirtual s q o.old (16 + o.size) pa n
      | none => false)).map (·.old)).foldl setAdd c.dirty }

theorem tabGet_heaps_markHostDirty (s : State) (k pa n : Nat) :
    tabGet (markHostDirty s pa n).heaps k = (tabGet s.heaps k).map (fun h => { h with cycle := h.cycle.map (hostDirty s k pa n) }) :=
  tabGet_map s.heaps (fun k h => { h with cycle := h.cycle.map (hostDirty s k pa n) }) k

theorem mem_dirty_hostDirty {s : State} {k pa n x : Nat} {c : RelCycle} : x ∈ (hostDirty s k pa n c).dirty ↔
    x ∈ c.dirty ∨ ∃ o ∈ c.objs, o.old = x ∧ ∃ q, tabGet s.queues k = some q ∧ meetsVirtual s q o.old (16 + o.size) pa n = true := by
  rw [hostDirty, mem_foldl_setAdd, List.mem_map]
  refine or_congr_right (exists_congr fun o => ?_)
  rw [List.mem_filter]
  cases tabGet s.queues k with
  | none => simp
  | some q => simp only [Option.some.injEq, exists_eq_left']; tauto

theorem exec_hostWrite (a : Nat) (bs : List Byte) (s : State) : exec (.hostWrite a bs) s = execHostWrite a bs s := rfl

theorem exec_hostRead (a n : Nat) (s : State) : exec (.hostRead a n) s = execHostRead a n s := rfl

section HostWrite

variable {s : State} {a : Nat} {bs : List Byte}

/-- A host write that nothing refuses is held, waits, or is performed. -/
theorem exec_hostWrite_admitted (ne : bs ≠ []) (place : hostPlace s a bs.length = true) (still : heldByMigration s a bs.length = false)
    (unsealed : sealedAt s a bs.length = false) : exec (.hostWrite a bs) s =
      (s.heaps.find? (fun h => sourceHolds s h a bs.length)).elim
        (if destHolds s a bs.length then .next s else .next (hostStore (markHostDirty s a bs.length) a bs)) (fun h => .next (holdHostWrite s h a bs)) := by
  have nonempty : bs.isEmpty = false := List.isEmpty_eq_false_iff.2 ne
  simp only [exec_hostWrite, execHostWrite, nonempty, place, still, unsealed, Bool.not_true, Bool.or_false, Bool.false_eq_true, if_false]
  cases s.heaps.find? (fun h => sourceHolds s h a bs.length) with
  | none => rfl
  | some h => rfl

theorem noSource (h : ∀ x ∈ s.heaps, sourceHolds s x a bs.length = false) : s.heaps.find? (fun x => sourceHolds s x a bs.length) = none :=
  List.find?_eq_none.2 (by simpa using h)

/-- Outside descriptors the bytes go to memory as one write. -/
theorem hostStore_of_apart (h : ∀ q ∈ s.queues, overlaps a (a + bs.length) q.2.at_ (q.2.at_ + 256) = false) : hostStore s a bs = s.write a bs :=
  if_neg (by simpa using h)

/-- A write that nothing holds changes its bytes, and the dirty bits of the objects that it meets (13 R392). -/
theorem hostWrite_performed (ne : bs ≠ []) (place : hostPlace s a bs.length = true) (still : heldByMigration s a bs.length = false)
    (free : heldObject s a bs.length = false) (unsealed : sealedAt s a bs.length = false)
    (apart : ∀ q ∈ s.queues, overlaps a (a + bs.length) q.2.at_ (q.2.at_ + 256) = false) :
    exec (.hostWrite a bs) s = .next ((markHostDirty s a bs.length).write a bs) := by
  obtain ⟨sources, dests⟩ := Bool.or_eq_false_iff.1 free
  rw [exec_hostWrite_admitted ne place still unsealed, noSource (by simpa using sources), Option.elim_none, dests, if_neg Bool.false_ne_true,
    hostStore_of_apart (s := markHostDirty s a bs.length) apart]

theorem hostWriteClaim (ne : bs ≠ []) (place : hostPlace s a bs.length = true) (still : heldByMigration s a bs.length = false)
    (free : heldObject s a bs.length = false) (unsealed : sealedAt s a bs.length = false) (hs : s.Inv)
    (apart : ∀ q ∈ s.queues, overlaps a (a + bs.length) q.2.at_ (q.2.at_ + 256) = false) : ∃ t, exec (.hostWrite a bs) s = .next t ∧
      { t with mem := s.mem, bad := s.bad, spadDirty := s.spadDirty, l1Lines := s.l1Lines, migrations := s.migrations, heaps := s.heaps } = s ∧
      (∀ j < bs.length, t.byteAt (a + j) = bs.getD j 0) ∧ (∀ z, ¬ (a ≤ z ∧ z < a + bs.length) → t.byteAt z = s.byteAt z) ∧
      ∀ k h, tabGet s.heaps k = some h → ∃ h', tabGet t.heaps k = some h' ∧ { h' with cycle := h.cycle } = h ∧ (h.cycle = none → h'.cycle = none) ∧
        ∀ y, h.cycle = some y → ∃ ds, h'.cycle = some { y with dirty := ds } ∧
          ∀ x, x ∈ ds ↔ x ∈ y.dirty ∨ ∃ o ∈ y.objs, o.old = x ∧ ∃ q, tabGet s.queues k = some q ∧ meetsVirtual s q o.old (16 + o.size) a bs.length = true := by
  refine ⟨_, hostWrite_performed ne place still free unsealed apart, rfl, fun j hj => byteAt_write_same (wf_markHostDirty s a bs.length hs) a bs hj,
    fun z hz => byteAt_write_outside (markHostDirty s a bs.length) bs (by omega), fun k h hk => ?_⟩
  refine ⟨{ h with cycle := h.cycle.map (hostDirty s k a bs.length) }, ?_, rfl, fun none_ => by rw [none_, Option.map_none], fun y hy => ?_⟩
  · rw [State.heaps_write, tabGet_heaps_markHostDirty, hk, Option.map_some]
  · exact ⟨(hostDirty s k a bs.length y).dirty, by rw [hy, Option.map_some]; rfl, fun x => mem_dirty_hostDirty⟩

/-- A write that meets a source in its hold is kept behind those that came before it; one that meets a destination in its hold waits (13 R392, log 87). -/
theorem hostWriteHeldClaim (ne : bs ≠ []) (place : hostPlace s a bs.length = true) (still : heldByMigration s a bs.length = false)
    (unsealed : sealedAt s a bs.length = false) :
    (∀ h, s.heaps.find? (fun h => sourceHolds s h a bs.length) = some h → ∃ t, exec (.hostWrite a bs) s = .next t ∧ { t with heaps := s.heaps } = s ∧
      tabGet t.heaps h.1 = some { h.2 with cycle := h.2.cycle.map (fun y => { y with held := y.held ++ [(a, bs)] }) } ∧
      ∀ k, k ≠ h.1 → tabGet t.heaps k = tabGet s.heaps k) ∧
    ((∀ h ∈ s.heaps, sourceHolds s h a bs.length = false) → destHolds s a bs.length = true → exec (.hostWrite a bs) s = .next s) := by
  rw [exec_hostWrite_admitted ne place still unsealed]
  constructor
  · intro h found
    rw [found]
    exact ⟨_, rfl, rfl, tabGet_tabPut_self .., fun k hk => tabGet_tabPut_ne _ _ hk⟩
  · intro sources dest
    rw [noSource sources, Option.elim_none, if_pos dest]

end HostWrite

section HostRead

variable {s : State} {a n : Nat}

/-- A read that meets a destination in its hold, or a line with a held write, waits (13 R392, log 87). -/
theorem hostRead_waits (place : hostPlace s a n = true) (held : destHolds s a n = true ∨ behindHeld s a n = true) : exec (.hostRead a n) s = .next s := by
  rw [exec_hostRead, execHostRead]
  exact if_pos (by rw [place, Bool.true_and, Bool.or_eq_true]; exact held)

/-- A read of sound bytes delivers them, once the entries that it meets are closed. -/
theorem hostRead_delivers (place : hostPlace s a n = true) (dest : destHolds s a n = false) (line : behindHeld s a n = false)
    (place1 : hostPlace (closePhys s a n) a n = true) (sound : badIn (closePhys s a n) a n = none) :
    exec (.hostRead a n) s = .next { closePhys s a n with hostReads := (a, (closePhys s a n).bytes a n) :: (closePhys s a n).hostReads } := by
  simp [exec_hostRead, execHostRead, place, dest, line, place1, sound]

/-- A read outside the places that the host reaches delivers free bytes (log 7). -/
theorem hostRead_elsewhere (place : hostPlace s a n = false) : exec (.hostRead a n) s =
    .next { s with hostReads := (a, (List.range n).map (Config.freeByte s.fresh)) :: s.hostReads, fresh := s.fresh + 1 } := by
  simp [exec_hostRead, execHostRead, place]

end HostRead

theorem hostClaim : HostClaim := by
  intro s a
  refine ⟨fun _ => hostWriteClaim, fun _ => hostWriteHeldClaim,
    fun n => ⟨(closePhys_of_empty · a n), hostReads_closePhys s a n, hostRead_waits, fun place dest line place1 sound => ?_, fun place => ?_⟩⟩
  · exact ⟨_, hostRead_delivers place dest line place1 sound, rfl, by rw [hostReads_closePhys]⟩
  · exact ⟨_, _, hostRead_elsewhere place, by rw [List.length_map, List.length_range], rfl⟩

/-- Settles O56: what each access of the host, each release and each timeout of a write-combining entry does. That an access to a destination in its hold, or a read behind
a held write, does nothing, and is presented again, is the model's choice (log 87); the bytes of a read outside the host's places are free (log 7). -/
theorem hostAndReleases : Obligations.HostAndReleases := ⟨hostClaim, releaseClaim⟩

end Sys2Proof.Machine

/-! ## Turns without a unit, and the trap of the issuing split (04 R110, R112, R117, R127, R132; log 2) -/

namespace Sys2Proof.Machine

open Sys2Proof

/-- Settles O7, by the rule for the trap of the issuing split's unit. -/
theorem trapEntry : Obligations.TrapEntry := fun _ _ k h => takeTrap_spec h k

section Turn
variable {s : State} {w : Who} {c : Ctx}

theorem issueTurn_idle (hc : ctxAt s w = none) : issueTurn s w = .next s := by
  simp only [issueTurn, hc]

theorem issueTurn_replayFirst {u : State} (hc : ctxAt s w = some c) (first : replayFirst s c = some u) : issueTurn s w = .next u := by
  simp only [issueTurn, hc, first]

theorem issueTurn_notReady (hc : ctxAt s w = some c) (first : replayFirst s c = none) (calm : c.split.wait = .none) (hr : ready s c = false) :
    issueTurn s w = .next s := by
  simp [issueTurn, hc, first, calm, hr]

theorem issueTurn_waiting (hc : ctxAt s w = some c) (first : replayFirst s c = none) (waits : c.split.wait ≠ .none) :
    issueTurn s w = .next (pollWait s c) := by
  simp [issueTurn, hc, first, waits]

end Turn

theorem runTurn_event {s : State} {e : Instr} (h : wordBits e = 0) : runTurn s (.event e) = exec e s :=
  if_pos (by rw [isEvent, h]; rfl)

theorem cacheWalkAt_only (s : State) (die qn va : Nat) : { cacheWalkAt s die qn va with dieWalk := s.dieWalk } = s := by
  unfold cacheWalkAt
  split <;> rfl

/-- A displaced translation leaves the TLB of one core, or of one die, and nothing else changes (07 R229). -/
theorem displaceXlatAt_only (s : State) (core : Option Nat) (die base : Nat) :
    { displaceXlatAt s core die base with cores := s.cores, dieTlb := s.dieTlb } = s ∧
    ∀ n, { (displaceXlatAt s core die base).core n with tlb := (s.core n).tlb } = s.core n := by
  cases core with
  | none => exact ⟨rfl, fun _ => rfl⟩
  | some k =>
    refine ⟨rfl, fun n => ?_⟩
    by_cases hn : n = k
    · subst hn
      rw [displaceXlatAt, core_modCore_self]
    · rw [displaceXlatAt, core_modCore_ne _ _ hn]

/-- The read-only path keeps what it kept, and at most the present value besides (03 R85). -/
theorem keepPastAt_spec (s : State) (grid unit : Nat) : { keepPastAt s grid unit with past := s.past } = s ∧
    (∀ x ∈ s.past, x ∈ (keepPastAt s grid unit).past) ∧
    ∀ x ∈ (keepPastAt s grid unit).past, x ∈ s.past ∨ x = { grid := grid, unit := unit, value := s.num (8 * unit) 8, on := false } := by
  unfold keepPastAt
  split
  · split
    · exact ⟨rfl, fun _ hx => hx, fun _ hx => .inl hx⟩
    · exact ⟨rfl, fun _ hx => List.mem_append_left _ hx, fun _ hx => by simpa using hx⟩
  · exact ⟨rfl, fun _ hx => hx, fun _ hx => .inl hx⟩

/-- Which value is served changes no value that is kept (03 R85). -/
theorem serveNth_values (grid unit : Nat) (i : Option Nat) (n : Nat) (xs : List Past) :
    (serveNth grid unit i n xs).map (fun x => (x.grid, x.unit, x.value)) = xs.map (fun x => (x.grid, x.unit, x.value)) := by
  induction xs generalizing n with
  | nil => rfl
  | cons x t ih =>
    rw [serveNth]
    split <;> rw [List.map_cons, List.map_cons, ih]

/-- Settles O28: the head of the agenda is one turn, and each kind of turn does what its own rule says (log 2). -/
theorem otherTurns : Obligations.OtherTurns := by
  intro s s0 a turn
  rw [step_of_turn turn]
  refine ⟨?_, ?_, ?_, ?_, ?_, ?_, ?_, ?_, ?_, ?_, ?_, ?_, ?_⟩
  · rintro w rfl hc
    exact issueTurn_idle hc
  · rintro w c u rfl hc first
    exact issueTurn_replayFirst hc first
  · rintro w c rfl hc first calm hr
    exact issueTurn_notReady hc first calm hr
  · rintro w c rfl hc first waits
    exact issueTurn_waiting hc first waits
  · rintro e rfl event
    exact runTurn_event event
  · rintro l rfl
    rfl
  · rintro d k p rfl
    exact ⟨_, rfl, rfl⟩
  · rintro d q v rfl
    exact ⟨_, rfl, cacheWalkAt_only s0 d q v⟩
  · rintro d k v (rfl | rfl)
    · exact ⟨_, rfl, displaceXlatAt_only s0 none d v⟩
    · exact ⟨_, rfl, displaceXlatAt_only s0 (some k) d v⟩
  · rintro g u rfl
    exact ⟨_, rfl, keepPastAt_spec s0 g u⟩
  · rintro g u i rfl
    exact ⟨_, rfl, rfl, serveNth_values g u i 0 s0.past⟩
  · rintro g rfl
    rfl
  · rintro g rfl
    rfl

end Sys2Proof.Machine

/-! ## join, its timeout, the active set (04 R112, R116, R117) -/

namespace Sys2Proof.Machine

open Sys2Proof

/-- The end of a unit of a split of a RUNNING team changes its group alone, whichever split is current. -/
theorem endUnit_only {s : State} {w : Who} {c : Ctx} (h : ctxAt s w = some c) (f : Group → Group) : OnlyGroup s (endUnit s c f) c (f c.live) := by
  obtain ⟨-, teams, team⟩ := modGroup_only (s := { s with cur := w }) h f
  exact ⟨rfl, teams, team⟩

theorem ctxOf_spec {s : State} {key g i : Nat} {c : Ctx} (h : ctxOf s key g i = some c) : ∃ w, ctxAt s w = some c := by
  unfold ctxOf at h
  split at h
  · cases h
  · exact ⟨_, (Option.filter_eq_some_iff.1 h).1⟩

/-! ### Who waits at a join (04 R116, R117) -/

theorem waitsAt_iff {j : DWord} {sp : Split} : waitsAt j sp = true ↔ ∃ n, sp.wait = .join j n := by
  unfold waitsAt
  split
  · rename_i a n hw
    simp [hw]
  · rename_i hw
    simp only [Bool.false_eq_true, false_iff, not_exists]
    exact fun n hn => hw _ _ hn

theorem mem_joiners {g : Group} {j : DWord} {x : Split} : x ∈ joiners g j ↔ x ∈ g.splits ∧ waitsAt j x = true ∧ x.stack = [] := by
  have : joiners g j = g.splits.filter (fun sp => waitsAt j sp && sp.stack.isEmpty) := rfl
  simp [this]

/-- A wait goes on while another split stands below the `join`, or at it without waiting there (04 R117, log 13). -/
theorem joinHeld_iff {g : Group} {i : Nat} {j : DWord} :
    joinHeld g i j = true ↔ ∃ o ∈ g.splits, o.idx ≠ i ∧ (o.pc < j ∨ o.pc = j ∧ ∀ n, o.wait ≠ .join j n) := by
  have waits (o : Split) : waitsAt j o = false ↔ ∀ n, o.wait ≠ .join j n := by
    rw [← Bool.not_eq_true, waitsAt_iff, not_exists]
  simp [joinHeld, waits, BitVec.ult_iff_lt]

/-! ### The merge (04 R116) -/

/-- The index of the split that goes on: the lowest of those that merge. -/
def joinLead (g : Group) (j : DWord) : Nat := ((joiners g j).map (·.idx)).foldl Nat.min 4

theorem foldl_min_le (xs : List Nat) (n : Nat) : xs.foldl Nat.min n ≤ n ∧ ∀ x ∈ xs, xs.foldl Nat.min n ≤ x := by
  induction xs generalizing n with
  | nil => simp
  | cons a t ih =>
    obtain ⟨hn, ht⟩ := ih (Nat.min n a)
    rw [List.foldl_cons]
    refine ⟨hn.trans (Nat.min_le_left n a), fun x hx => ?_⟩
    rcases List.mem_cons.1 hx with rfl | hx
    · exact hn.trans (Nat.min_le_right n x)
    · exact ht x hx

theorem foldl_min_mem (xs : List Nat) (n : Nat) : xs.foldl Nat.min n = n ∨ xs.foldl Nat.min n ∈ xs := by
  induction xs generalizing n with
  | nil => simp
  | cons a t ih =>
    rw [List.foldl_cons]
    rcases ih (Nat.min n a) with h | h
    · rw [h]
      rcases Nat.le_total n a with hle | hle
      · exact .inl (Nat.min_eq_left hle)
      · exact .inr (List.mem_cons.2 (.inl (Nat.min_eq_right hle)))
    · exact .inr (List.mem_cons_of_mem _ h)

theorem joinLead_le {g : Group} {j : DWord} {x : Split} (h : x ∈ joiners g j) : joinLead g j ≤ x.idx :=
  (foldl_min_le _ 4).2 _ (List.mem_map_of_mem h)

/-- Where a split with one of the four indices waits, one of those that wait goes on (04 R113, R116). -/
theorem joinLead_mem {g : Group} {j : DWord} {x : Split} (h : x ∈ joiners g j) (lt : x.idx < 4) : ∃ sp ∈ joiners g j, sp.idx = joinLead g j := by
  rcases foldl_min_mem ((joiners g j).map (·.idx)) 4 with hlead | hlead
  · have : joinLead g j = 4 := hlead
    have := joinLead_le h
    omega
  · exact List.mem_map.1 hlead

/-- What a split becomes when its group merges: the one that goes on takes the lanes of all, and any other is as it was. -/
def afterJoin (g : Group) (j : DWord) (x : Split) : Split :=
  if x.idx = joinLead g j && waitsAt j x then
    { x with pc := j + 2, mask := (joiners g j).foldl (fun m y => m ||| y.mask) 0#32, wait := .none, windows := (joiners g j).flatMap (·.windows) }
  else x

theorem mem_joinMerge {g : Group} {j : DWord} {x : Split} (hx : x ∈ g.splits) (stays : x ∈ joiners g j → x.idx = joinLead g j) :
    afterJoin g j x ∈ (joinMerge g j).splits := by
  refine List.mem_map.2 ⟨x, List.mem_filter.2 ⟨hx, ?_⟩, rfl⟩
  by_cases here : x ∈ joiners g j
  · rw [Bool.or_eq_true]
    exact .inr (beq_iff_eq.2 (stays here))
  · rw [mem_joiners] at here
    simp only [Bool.or_eq_true, Bool.not_eq_true', Bool.and_eq_false_iff, List.isEmpty_eq_false_iff]
    left
    by_contra hn
    simp only [not_or, Bool.not_eq_false, ne_eq, not_not] at hn
    exact here ⟨hx, hn⟩

/-- Of the splits that wait at the `join`, the lowest-numbered goes on with the lanes of all (04 R116). -/
theorem joinMerge_merges {g : Group} {j : DWord} {x : Split} (h : x ∈ joiners g j) (lt : x.idx < 4) :
    ∃ sp ∈ (joinMerge g j).splits, sp.pc = j + 2 ∧ sp.wait = .none ∧ sp.stack = [] ∧
      sp.mask = (joiners g j).foldl (fun m y => m ||| y.mask) 0#32 ∧ ∀ y ∈ joiners g j, sp.idx ≤ y.idx := by
  obtain ⟨lead, hlead, hidx⟩ := joinLead_mem h lt
  obtain ⟨hmem, waits, hstack⟩ := mem_joiners.1 hlead
  have went := mem_joinMerge hmem (fun _ => hidx)
  rw [afterJoin, if_pos (by simp [hidx, waits])] at went
  exact ⟨_, went, rfl, rfl, hstack, rfl, fun y hy => hidx ▸ joinLead_le hy⟩

/-- A split that does not merge, and has the index of none that does, stays as it is. -/
theorem mem_joinMerge_other {g : Group} {j : DWord} {x y : Split} (h : y ∈ joiners g j) (lt : y.idx < 4) (hx : x ∈ g.splits) (apart : x ∉ joiners g j)
    (ne : x.idx ∉ (joiners g j).map (·.idx)) : x ∈ (joinMerge g j).splits := by
  obtain ⟨lead, hlead, hidx⟩ := joinLead_mem h lt
  have hne : x.idx ≠ joinLead g j := fun he => ne (he ▸ hidx ▸ List.mem_map_of_mem hlead)
  have stays := mem_joinMerge hx (fun here => absurd here apart)
  rwa [afterJoin, if_neg (by simp [hne])] at stays

/-! ### The forms -/

section Join
variable {s : State} {c : Ctx}

/-- The group whose split waits at the `join`. -/
def waitingGroup (s : State) (c : Ctx) (m : BitVec 32) : Group :=
  reSplit c (fun sp => { sp with mask := m, stack := [], wait := .join s.unit.addr (runTime s c.team) }) []

theorem reSplit_nil (c : Ctx) (f : Split → Split) : c.live.modSplit c.split.idx (fun sp => f (tick sp)) = reSplit c f [] := by
  simp [reSplit, Group.modSplit]

theorem only_reSplit (h : ctx? s = some c) (f : Split → Split) :
    OnlyGroup s (endUnit s c (fun g => g.modSplit c.split.idx (fun sp => f (tick sp)))) c (reSplit c f []) :=
  reSplit_nil c f ▸ endUnit_only h _

/-- A deferral runs, and the `join` is recorded (04 R116). -/
theorem execJoin_defer (h : ctx? s = some c) {pc : DWord} {ls : BitVec 32} {rest : List StackEnt} (top : c.split.stack = .defer pc ls :: rest) :
    ∃ t, execJoin s = .next t ∧
      OnlyGroup s t c (reSplit c (fun sp => { sp with pc := pc, mask := ls, stack := .merge s.unit.addr sp.mask :: rest }) []) := by
  refine ⟨_, ?_, only_reSplit h _⟩
  rw [execJoin, issue_eq h, top]

/-- A merge record of another address is passed (04 R116). -/
theorem execJoin_passes (h : ctx? s = some c) {a : DWord} {ls : BitVec 32} {rest : List StackEnt} (top : c.split.stack = .merge a ls :: rest)
    (ne : a ≠ s.unit.addr) : ∃ t, execJoin s = .next t ∧ Completes s t c {} := by
  refine ⟨_, ?_, finish_nil h⟩
  rw [execJoin, issue_eq h, top]
  exact congrArg _ (if_pos ne)

/-- A merge record of this address takes its lanes back (04 R116). -/
theorem execJoin_takes (h : ctx? s = some c) {ls : BitVec 32} {e : StackEnt} {rest : List StackEnt}
    (top : c.split.stack = .merge s.unit.addr ls :: e :: rest) : ∃ t, execJoin s = .next t ∧
      OnlyGroup s t c (reSplit c (fun sp => { sp with pc := s.unit.npc, mask := sp.mask ||| ls, stack := e :: rest }) []) := by
  refine ⟨_, ?_, only_reSplit h _⟩
  rw [execJoin, issue_eq h, top]
  exact congrArg _ (if_neg (by simp))

/-- With an empty stack, or none but the record of this address, the split waits, or all that wait merge (04 R116, R117). -/
theorem execJoin_waits (h : ctx? s = some c) {m : BitVec 32}
    (top : c.split.stack = [] ∧ m = c.split.mask ∨ ∃ ls, c.split.stack = [.merge s.unit.addr ls] ∧ m = c.split.mask ||| ls) :
    ∃ t, execJoin s = .next t ∧ OnlyGroup s t c (joinTry s c.core c.key (waitingGroup s c m) c.split.idx s.unit.addr) := by
  refine ⟨endUnit s c (fun g => joinTry s c.core c.key (g.modSplit c.split.idx (fun sp =>
    { tick sp with mask := m, stack := [], wait := .join s.unit.addr (runTime s c.team) })) c.split.idx s.unit.addr), ?_, ?_⟩
  · rcases top with ⟨top, rfl⟩ | ⟨ls, top, rfl⟩ <;> rw [execJoin, issue_eq h, top]
    exact congrArg _ (if_neg (by simp))
  · rw [waitingGroup, ← reSplit_nil]
    exact endUnit_only h _

/-- The issuing split is one of those that wait. -/
theorem waiting_joins (h : ctx? s = some c) (m : BitVec 32) :
    ∃ x ∈ joiners (waitingGroup s c m) s.unit.addr, x.idx = c.split.idx := by
  obtain ⟨-, -, -, -, hmem, -⟩ := ctxAt_spec h
  refine ⟨{ tick c.split with mask := m, stack := [], wait := .join s.unit.addr (runTime s c.team) }, mem_joiners.2 ⟨?_, ?_, rfl⟩, rfl⟩
  · exact List.mem_append_left _ (List.mem_map.2 ⟨c.split, hmem, if_pos rfl⟩)
  · exact waitsAt_iff.2 ⟨_, rfl⟩

end Join

theorem exec_join (s : State) : exec .join s = execJoin s := rfl

/-- What becomes of the waiting group: it stays while a split holds it or accesses are in flight, and merges otherwise (03 R91, 04 R116, R117). -/
theorem joinTry_stays {s : State} {core key i : Nat} {g : Group} {j : DWord}
    (h : joinHeld g i j = true ∨ joinPerformed s core key g j = false) : joinTry s core key g i j = g := by
  unfold joinTry joinRelease
  rcases h with held | open_
  · rw [if_pos held]
  · rw [open_, if_neg Bool.false_ne_true, ite_self]

theorem joinTry_merges {s : State} {core key i : Nat} {g : Group} {j : DWord} (free : ¬ joinHeld g i j = true)
    (performed : joinPerformed s core key g j = true) : joinTry s core key g i j = joinMerge g j := by
  rw [joinTry, if_neg free, joinRelease, if_pos performed]

theorem joinClaim : JoinClaim := by
  intro s c h lt j
  rw [exec_join]
  refine ⟨fun pc ls rest top => execJoin_defer h top, fun a ls rest top ne => execJoin_passes h top ne, fun ls e rest top => execJoin_takes h top,
    fun m top => ?_⟩
  obtain ⟨t, ht, only⟩ := execJoin_waits h top
  obtain ⟨x, hx, hidx⟩ := waiting_joins h m
  refine ⟨fun stays => ⟨t, ht, ?_⟩, fun free performed => ⟨t, joinMerge (waitingGroup s c m) j, ht, ?_, rfl, joinMerge_merges hx (hidx ▸ lt),
    fun y => mem_joinMerge_other hx (hidx ▸ lt)⟩⟩
  · rw [joinTry_stays (g := waitingGroup s c m) (j := s.unit.addr) (stays.imp_left joinHeld_iff.2)] at only
    exact only
  · rwa [joinTry_merges (g := waitingGroup s c m) (j := s.unit.addr) (fun held => free (joinHeld_iff.1 held)) performed] at only

theorem exec_joinWaitTimeout (key g i : Nat) (s : State) : exec (.joinWaitTimeout key g i) s = execJoinWaitTimeout key g i s := rfl

theorem execJoinWaitTimeout_eq {s : State} {key g i since : Nat} {c : Ctx} {j : DWord} (hc : ctxOf s key g i = some c) (hw : c.split.wait = .join j since) :
    execJoinWaitTimeout key g i s = if runTime s c.team ≥ since + 2048 && !c.group.stopped then .next (endUnit s c (joinRelease s c.core c.key j))
      else .next s := by
  simp only [execJoinWaitTimeout, hc, hw]

theorem joinTimeoutClaim : JoinTimeoutClaim := by
  intro s key g i since c j hc hw
  obtain ⟨w, hat⟩ := ctxOf_spec hc
  obtain ⟨-, -, -, -, hmem, -⟩ := ctxAt_spec hat
  rw [exec_joinWaitTimeout, execJoinWaitTimeout_eq hc hw]
  refine ⟨fun early => ?_, fun late going lt empty performed => ⟨_, _, ?_, endUnit_only hat (joinRelease s c.core c.key j), ?_⟩⟩
  · rw [if_neg (by simp [Nat.not_le.2 early])]
  · rw [if_pos (by simp [late, going])]
  · have waits : c.split ∈ joiners c.live j := mem_joiners.2 ⟨hmem, waitsAt_iff.2 ⟨_, hw⟩, empty⟩
    obtain ⟨sp, hsp, hpc, hnone, -, rest⟩ := joinMerge_merges waits lt
    rw [joinRelease, if_pos performed]
    exact ⟨sp, hsp, hpc, hnone, rest⟩

/-! ### The active set (04 R112) -/

theorem exec_activeSetExchange (core : Nat) (gs : List Nat) (s : State) : exec (.activeSetExchange core gs) s = execActiveSetExchange core gs s := rfl

theorem eraseDups_of_nodup {α : Type} [BEq α] [LawfulBEq α] {xs : List α} (h : xs.Nodup) : xs.eraseDups = xs := by
  induction xs with
  | nil => rfl
  | cons a t ih =>
    obtain ⟨ha, ht⟩ := List.nodup_cons.1 h
    rw [List.eraseDups_cons, List.filter_eq_self.2 (fun b hb => ?_), ih ht]
    simp only [Bool.not_eq_true', beq_eq_false_iff_ne]
    rintro rfl
    exact ha hb

/-- The groups of a team that have not ended. -/
def unendedGroups (tm : Team) : List Nat := (tm.groups.filter (fun g => !g.2.ended)).map (·.1)

/-- A list that may become the active set: unended groups without repetition, 16 or all (04 R112). -/
def mayBeActive (tm : Team) (gs : List Nat) : Bool :=
  gs.all (fun g => (unendedGroups tm).contains g) && gs.eraseDups.length == gs.length && gs.length == Nat.min 16 (unendedGroups tm).length

theorem mayBeActive_iff {tm : Team} {gs : List Nat} : mayBeActive tm gs = true ↔
    (∀ g ∈ gs, g ∈ unendedGroups tm) ∧ gs.eraseDups.length = gs.length ∧ gs.length = Nat.min 16 (unendedGroups tm).length := by
  simp only [mayBeActive, Bool.and_eq_true, List.all_eq_true, List.contains_iff_mem, beq_iff_eq, and_assoc]

theorem execActiveSetExchange_eq {s : State} {core : Nat} {sl : Slot} {tm : Team} (hrun : (s.core core).running = some sl)
    (hteam : tabGet s.teams sl.team = some tm) (gs : List Nat) : execActiveSetExchange core gs s =
      if mayBeActive tm gs then .next (s.modCore core (fun k => { k with active := gs })) else .next s := by
  rw [execActiveSetExchange, hrun, Option.bind_some, hteam]
  rfl

theorem activeSetClaim : ActiveSetClaim := by
  intro s core gs sl tm hrun hteam live
  rw [exec_activeSetExchange, execActiveSetExchange_eq hrun hteam]
  refine ⟨fun unended nodup len => ⟨_, if_pos (mayBeActive_iff.2 ⟨unended, ?_, len⟩), rfl, core_modCore_self .., fun n hn => core_modCore_ne _ _ hn⟩,
    fun foreign => if_neg (fun may => foreign (mayBeActive_iff.1 may).1)⟩
  rw [eraseDups_of_nodup nodup]

/-- Settles O22: `join` by the top of the deferral stack, its timeout by the running time, the exchange by the test on the list. Which splits hold
a `join` is the model's reading (log 13). -/
theorem joinResults : Obligations.JoinResults := ⟨joinClaim, joinTimeoutClaim, activeSetClaim⟩

end Sys2Proof.Machine

/-! ## Every instruction and every event answers a next state (04 R132, R135; 02 R69; log 2) -/

namespace Sys2Proof.Machine

open Sys2Proof

/-- A meaning answers a next state: it ends in no fault and in no refusal. -/
def Answers (o : Out) : Prop := ∃ t, o = .next t

theorem answers_next (s : State) : Answers (.next s) := ⟨s, rfl⟩

theorem answers_issue (s : State) (f : Ctx → State) : Answers (issue s f) := by
  unfold issue
  split
  · exact answers_next _
  · exact answers_next s

theorem answers_ite {p : Prop} [Decidable p] {a b : Out} (ha : Answers a) (hb : Answers b) : Answers (if p then a else b) := by
  split
  · exact ha
  · exact hb

/-! ### The shared courses of commands and cycles (17 R472, 13 R392, 07 R233) -/

theorem answers_serve (s : State) (op : Nat) (c : Cmd) (own always bad : Bool) (act : State → Option State) :
    Answers (serve s op c own always bad act) := by
  refine answers_ite (answers_next s) (answers_ite (answers_next _) (answers_ite (answers_next _) (answers_ite (answers_next _) ?_)))
  cases act (takeRecord s c) with
  | some t => exact answers_next t
  | none => exact answers_next s

theorem answers_variant (s : State) (x : DWord) (others : List Nat) {o : Out} (h : Answers o) : Answers (variant s x others o) :=
  answers_ite (answers_next s) h

theorem answers_cycleStep (s : State) (qn : Nat) (st : RelState) (f : Heap → Queue → RelCycle → State) : Answers (cycleStep s qn st f) := by
  unfold cycleStep
  split
  · split
    · exact answers_ite (answers_next _) (answers_next s)
    · exact answers_next s
  · exact answers_next s

theorem answers_migStep (s : State) (g : Nat) (f : Migration → State) (st : MigState) : Answers (migStep s g f st) := by
  unfold migStep
  split
  · exact answers_ite (answers_next _) (answers_next s)
  · exact answers_next s

/-! ### The instruction set -/

/-- No row of the table ends in a fault or a refusal. Commands, relocation cycles and migrations answer by their shared courses; the other events
by the branches of their own meanings; whatever a split issues, by the issue. -/
theorem exec_answers (i : Instr) (s : State) : Answers (exec i s) := by
  cases i
  -- Commands of the firmware (17 R472).
  case ident | claim | handover | attest | loadimg | reset | asgen | invpage | grantref | preempt | framerel | reloc | migrate | peerbind | qread |
    snapcfg | snaptrig | snapread | snaprel | relrep | retire | pwrcap | therm | qcreate | route =>
    dsimp only [exec, execIdent, execClaim, execHandover, execAttest, execLoadimg, execReset, execAsgen, execInvpage, execGrantref, execPreempt,
      execFramerel, execReloc, execMigrate, execPeerbind, execQread, execSnapcfg, execSnaptrig, execSnapread, execSnaprel, execRelrep, execRetire,
      execPwrcap, execTherm, execQcreate, execRoute, onQueue, onGrid]
    exact answers_serve ..
  -- Commands with variants (17 R473).
  case qstop | qstopDestroy | faultansRetry | faultansKill | resumeSkip | resumeRetry | resumeEnd | heapbind | heapbindUnbind =>
    dsimp only [exec, execQstop, execQstopDestroy, execFaultansRetry, execFaultansKill, execResumeSkip, execResumeRetry, execResumeEnd, execHeapbind,
      execHeapbindUnbind, onQueue, resumeCmd]
    exact answers_variant _ _ _ (answers_serve ..)
  -- Relocation cycles (13 R392).
  case relocCopyDone | relocRecopyDone | relocFlip | relocFinalTimeout | relocAck =>
    dsimp only [exec, execRelocCopyDone, execRelocRecopyDone, execRelocFlip, execRelocFinalTimeout, execRelocAck]
    exact answers_cycleStep ..
  -- Page migrations (07 R233).
  case migrationPrecopyDone | migrationRecopyDone | migrationFlip | migrationInvalAck =>
    dsimp only [exec, execMigrationPrecopyDone, execMigrationRecopyDone, execMigrationFlip, execMigrationInvalAck]
    exact answers_migStep ..
  -- Prefixes, and events without a condition of their own.
  case extImm | extReg | guard | passCommit | portFailure | doorbell | dependenceReread | teamPlacement | gangPlacement | hbmChannelFailure |
    thermalLimit | powerDown | pcieLinkDown | pcieLinkUp | passGrant =>
    exact answers_next _
  -- Events that look whether their condition holds (log 2).
  case faultRecordWrite | trapRecordWrite | teamFillComplete | drainComplete | contextSaveComplete | activeSetExchange | joinWaitTimeout | mwaitReread
    | barrierDecrement | updateOnlyTimeout | migrationHoldTimeout | hostWrite | hostRead | fusionWaitExpiry | attentionComplete | conversionComplete |
    objectFree | sweepIntervalStart | sweepRequestStart | sweepVisit | coldMoveCopyDone | sweepComplete | directoryTakeup | directoryBusyTimeout |
    writeCombineTimeout | relocAutoStart | healPassComplete | copyOperationComplete | multicastDelivery | chainRecordFetch | chainWaitTimeout |
    chainRecordComplete | flitArrival | peerRequest | linkRetryTimeout | linkOperationComplete | mxrTimeout | launchRecordRead | waitingLevelAge |
    gangFirstAge | gangSecondAge | timeSliceExpiry | noRoomEviction | gridComplete | queueDestroyComplete | unknownCommand | registerWrite |
    snapshotLatch | ownershipLapse | handoverTimeout | powerOn | coreFailure | linkLaneFault | thermalShutdown =>
    dsimp only [exec, execFaultRecordWrite, execTrapRecordWrite, execTeamFillComplete, execDrainComplete, execContextSaveComplete,
      execActiveSetExchange, execJoinWaitTimeout, execMwaitReread, execBarrierDecrement, execUpdateOnlyTimeout, execMigrationHoldTimeout,
      execHostWrite, execHostRead, execFusionWaitExpiry, execAttentionComplete, execConversionComplete, execObjectFree, execSweepIntervalStart,
      execSweepRequestStart, execSweepVisit, execColdMoveCopyDone, execSweepComplete, execDirectoryTakeup, execDirectoryBusyTimeout,
      execWriteCombineTimeout, execRelocAutoStart, execHealPassComplete, execCopyOperationComplete, execMulticastDelivery, execChainRecordFetch,
      execChainWaitTimeout, execChainRecordComplete, execFlitArrival, execPeerRequest, execLinkRetryTimeout, execLinkOperationComplete,
      execMxrTimeout, execLaunchRecordRead, execWaitingLevelAge, execGangFirstAge, execGangSecondAge, execTimeSliceExpiry, execNoRoomEviction,
      execGridComplete, execQueueDestroyComplete, execUnknownCommand, execRegisterWrite, execSnapshotLatch, execOwnershipLapse, execHandoverTimeout,
      execPowerOn, execCoreFailure, execLinkLaneFault, execThermalShutdown]
    repeat' split
    all_goals exact answers_next _
  -- Units of a split.
  all_goals exact answers_issue s _

/-! ### Steps -/

theorem runParts_answers (c : Ctx) (p : Parts) (s : State) : Answers (runParts c p s) := by
  cases hb : p.body with
  | none => exact runParts_of_illegal s (.inl hb) ▸ exec_answers _ s
  | some body =>
    cases hl : legalUnit p.guard p.ext body with
    | false => exact runParts_of_illegal s (.inr ⟨body, hb, hl⟩) ▸ exec_answers _ s
    | true => exact runParts_of_body s hb hl ▸ answers_ite (answers_next s) (exec_answers body _)

theorem issueTurn_answers (s : State) (w : Who) : Answers (issueTurn s w) := by
  unfold issueTurn
  split
  · exact answers_next s
  · split
    · exact answers_next _
    · refine answers_ite (answers_next _) (answers_ite ?_ (answers_next s))
      split
      · exact runParts_answers ..
      · split
        · exact answers_next _
        · exact answers_next _
        · exact runParts_answers ..

/-- Every turn answers, but for one that presents as an event an instruction that only a fetch may run. -/
theorem runTurn_answers (s : State) (a : Act) (h : ∀ e, a = .event e → wordBits e = 0) : Answers (runTurn s a) := by
  cases a with
  | issue w => exact issueTurn_answers s w
  | event e => exact runTurn_event (s := s) (h e rfl) ▸ exec_answers e s
  | _ => exact answers_next _

/-- Settles O33: every instruction and every event of the table answers a next state, and so does every turn of the agenda (log 2). -/
theorem stepAnswersNext : Obligations.StepAnswersNext := fun _ s0 a turn events => step_of_turn turn ▸ runTurn_answers s0 a events

end Sys2Proof.Machine

/-! ## Records of traps (04 R132, R137, 16 R447) -/

namespace Sys2Proof.Machine

open Sys2Proof

/-- A team that is READY, was never saved, and has a trap without a record: KILL of its grid gives the trap one (04 R128). -/
def trappedTeam : Team :=
  { Team.start 0 1 0 1 4096 0 0x10000 [] with
    traps := [{ code := 1, detail0 := 0, detail1 := 0, unit := 0, npc := 0, cycle := 0, lanes := 0, splitLanes := 0, group := 0, split := 0
                defer := 0, core := 0, drain := false, op := 0, gen := 0 }] }

/-- A state in which a trap record of that team waits under the very name that `nextOp` gives next, and the policy of its queue is KILL. -/
def nameInUse : State :=
  { State.reset with
    queues := [(0, { hostQueue with policy := false })]
    grids := [(1, ⟨0, hostLaunch, [], [], false, false, false, none, none, false⟩)]
    teams := [(teamKey 1 0, trappedTeam)]
    trapRecs := [(1, { queue := 0, bits := 0, team := some (teamKey 1 0) })]
    nextOp := 1 }

/-- A trap record waits under a name in the state that an outcome answers. -/
def recordWaits (o : Out) (r : Nat) : Bool :=
  match o with
  | .next t => (tabGet t.trapRecs r).isSome
  | _ => false

/-- The record that is written leaves, and the one that KILL makes takes its name. -/
theorem nameInUse_waits : recordWaits (exec (.trapRecordWrite 1) nameInUse) 1 = true := by decide +kernel

theorem nameInUse_room : (0 + 2 ^ 32 - tcons nameInUse { hostQueue with policy := false }) % 2 ^ 32 ≠ 2 ^ 4 := by decide +kernel

theorem not_recordClaim : ¬ RecordClaim := by
  rintro ⟨-, traps⟩
  obtain ⟨-, ofTeam⟩ := traps nameInUse 1 _ _ rfl rfl rfl rfl (by decide) nameInUse_room (.inr (by decide))
  obtain ⟨t, ht, gone, -⟩ := (ofTeam _ _ _ rfl rfl rfl (by decide) (by decide)).2 (.inl rfl) rfl
  have waits := nameInUse_waits
  rw [ht, recordWaits, gone] at waits
  cases waits

/-- Refutes O53: a trap record whose name is the next one to be given is still there after its write, since under KILL the unsaved trap of its team becomes a
record of that name (04 R128, R132). `RecordClaim` does not ask that the names in use lie below `nextOp`. -/
theorem not_recordsAndSaves : ¬ Obligations.RecordsAndSaves := fun h => not_recordClaim h.1

end Sys2Proof.Machine

/-! ## Register forms of the core lanes (05 R141 to R166, R174) -/

namespace Sys2Proof

open Sys2Proof.Machine

/-! ### Integer results (05 R144 to R148) -/

theorem clampI32_eq (i : Int) : clampI32 i = satS i := by
  unfold clampI32 satS wordOfInt
  split
  · rw [min_eq_left (by omega), max_eq_left (by omega)]; rfl
  · split
    · rw [min_eq_right (by omega)]; rfl
    · rw [min_eq_left (by omega), max_eq_right (by omega)]

theorem clampN32_eq (i : Int) : clampN32 i = satU i := by
  unfold clampN32 satU wordOfInt
  split
  · rw [min_eq_left (by omega), max_eq_left (by omega)]; rfl
  · split
    · rw [min_eq_right (by omega)]; rfl
    · rw [min_eq_left (by omega), max_eq_right (by omega)]

theorem addOp_eq (m : BitVec 2) : addOp m = sumBy m := by
  funext p q
  simp only [addOp, sumBy, clampI32_eq, clampN32_eq]

theorem subOp_eq (m : BitVec 2) : subOp m = diffBy m := by
  funext p q
  simp only [subOp, diffBy, clampI32_eq, clampN32_eq]

theorem minOp_eq (m : BitVec 2) : minOp m = smallerBy m := by
  funext p q
  unfold minOp smallerBy
  by_cases unsigned : m = 1
  · simp only [unsigned, if_true, BitVec.ult, decide_eq_true_eq]
    split
    · rw [show p.toNat.min q.toNat = p.toNat from Nat.min_eq_left (by omega), BitVec.ofNat_toNat, BitVec.setWidth_eq]
    · rw [show p.toNat.min q.toNat = q.toNat from Nat.min_eq_right (by omega), BitVec.ofNat_toNat, BitVec.setWidth_eq]
  · simp only [unsigned, if_false, BitVec.slt, decide_eq_true_eq]
    split
    · rw [min_eq_left (by omega), BitVec.ofInt_toInt]
    · rw [min_eq_right (by omega), BitVec.ofInt_toInt]

theorem maxOp_eq (m : BitVec 2) : maxOp m = largerBy m := by
  funext p q
  unfold maxOp largerBy
  by_cases unsigned : m = 1
  · simp only [unsigned, if_true, BitVec.ult, decide_eq_true_eq]
    split
    · rw [show p.toNat.max q.toNat = p.toNat from Nat.max_eq_left (by omega), BitVec.ofNat_toNat, BitVec.setWidth_eq]
    · rw [show p.toNat.max q.toNat = q.toNat from Nat.max_eq_right (by omega), BitVec.ofNat_toNat, BitVec.setWidth_eq]
  · simp only [unsigned, if_false, BitVec.slt, decide_eq_true_eq]
    split
    · rw [max_eq_left (by omega), BitVec.ofInt_toInt]
    · rw [max_eq_right (by omega), BitVec.ofInt_toInt]

theorem shlOp_eq : shlOp = shiftedLeft := by
  funext p q
  apply BitVec.eq_of_toNat_eq
  unfold shlOp shiftedLeft
  split
  · rename_i far
    have hdvd : 2 ^ 32 ∣ p.toNat * 2 ^ q.toNat := Dvd.dvd.mul_left (Nat.pow_dvd_pow 2 far) _
    rw [BitVec.toNat_ofNat, Nat.mod_eq_zero_of_dvd hdvd]
    rfl
  · rw [BitVec.toNat_shiftLeft, BitVec.toNat_ofNat, Nat.shiftLeft_eq]

theorem shrOp_eq : shrOp = shiftedRight := by
  funext p q
  apply BitVec.eq_of_toNat_eq
  unfold shrOp shiftedRight
  have hp := p.isLt
  rw [BitVec.toNat_ofNat, Nat.mod_eq_of_lt ((Nat.div_le_self _ _).trans_lt hp)]
  split
  · rename_i far
    rw [Nat.div_eq_of_lt (hp.trans_le (Nat.pow_le_pow_right (by decide) far))]
    rfl
  · rw [BitVec.toNat_ushiftRight, Nat.shiftRight_eq_div_pow]

theorem sraOp_eq : sraOp = shiftedSigned := by
  funext p q
  unfold sraOp shiftedSigned
  have hn : (if q.toNat ≥ 32 then 31 else q.toNat) = Nat.min q.toNat 31 := by
    split
    · exact (Nat.min_eq_right (by omega)).symm
    · exact (Nat.min_eq_left (by omega)).symm
  rw [hn, BitVec.sshiftRight, Int.shiftRight_eq_div_pow]
  rfl

theorem rotOp_eq : rotOp = rotated := by
  funext p q
  rw [rotOp, rotated, BitVec.rotateLeft_def, Nat.mod_mod]

theorem onesBelow_eq : onesBelow = onesUnder := by
  funext n p
  rw [onesBelow, onesUnder, List.countP_eq_length_filter]

theorem popcOp_eq (p : Word) : popcOp p = BitVec.ofNat 32 (onesUnder 32 p) := by rw [popcOp, onesBelow_eq]

theorem popcLtOp_eq (p q : Word) : popcLtOp p q = BitVec.ofNat 32 (onesUnder (Nat.min q.toNat 32) p) := by
  rw [popcLtOp, onesBelow_eq]

theorem absOp_eq (p : Word) : absOp p = BitVec.ofInt 32 (Int.natAbs p.toInt) := by
  apply BitVec.eq_of_toInt_eq
  have hlo := BitVec.le_toInt p
  unfold absOp
  rw [BitVec.msb_eq_toInt, BitVec.toInt_ofInt]
  by_cases neg : p.toInt < 0
  · rw [decide_eq_true neg, if_pos rfl, BitVec.toInt_sub, Int.ofNat_natAbs_of_nonpos neg.le]
    simp
  · rw [decide_eq_false neg, if_neg (by decide), Int.natAbs_of_nonneg (not_lt.1 neg), ← BitVec.toInt_ofInt, BitVec.ofInt_toInt]

/-! The immediate shifts have amounts below 32 (05 R148). -/

theorem shlOp_imm (p : Word) (n : BitVec 5) : shlOp p (n.setWidth 32) = p <<< n.toNat := by
  have hn := n.isLt
  rw [shlOp, BitVec.toNat_setWidth_of_le (by decide), if_neg (by omega)]

theorem shrOp_imm (p : Word) (n : BitVec 5) : shrOp p (n.setWidth 32) = p >>> n.toNat := by
  have hn := n.isLt
  rw [shrOp, BitVec.toNat_setWidth_of_le (by decide), if_neg (by omega)]

theorem sraOp_imm (p : Word) (n : BitVec 5) : sraOp p (n.setWidth 32) = p.sshiftRight n.toNat := by
  have hn := n.isLt
  rw [sraOp, BitVec.toNat_setWidth_of_le (by decide), if_neg (by omega)]

theorem rotOp_imm (p : Word) (n : BitVec 5) : rotOp p (n.setWidth 32) = p <<< n.toNat ||| p >>> (32 - n.toNat) := by
  have hn := n.isLt
  rw [rotOp_eq, rotated, BitVec.toNat_setWidth_of_le (by decide), Nat.mod_eq_of_lt hn]

/-! The halves of a count of 64 bits (05 R174). -/

theorem ofNat_low (n : Nat) : BitVec.ofNat 32 n = (BitVec.ofNat 64 n).extractLsb' 0 32 := by
  apply BitVec.eq_of_toNat_eq
  simp

theorem ofNat_high (n : Nat) : BitVec.ofNat 32 (n / 2 ^ 32) = (BitVec.ofNat 64 n).extractLsb' 32 32 := by
  apply BitVec.eq_of_toNat_eq
  simp only [BitVec.toNat_ofNat, BitVec.extractLsb'_toNat, Nat.shiftRight_eq_div_pow]
  omega

end Sys2Proof

namespace Sys2Proof.Machine

open Sys2Proof

/-- A unit of the issuing split changes registers only, by an effect that names no register twice. -/
structure Acts (s : State) (c : Ctx) (i : Instr) (e : Eff) : Prop where
  runs : exec i s = .next (unit s c e)
  distinct : e.distinct

theorem registerForms_of_acts {eff : State → Ctx → Instr → Option Eff}
    (acts : ∀ {i s c e}, ctx? s = some c → eff s c i = some e → Acts s c i e) : RegisterForms eff := by
  intro i s c e h he fits
  obtain ⟨runs, distinct⟩ := acts h he
  exact ⟨_, runs, unit_spec h distinct fits⟩

/-- New names that take the held count past the peak are the one condition of a register unit (04 R122). -/
theorem peakCond_of_past {c : Ctx} {e : Eff} {n : Nat} {rest : List Nat} (new : created c.live e = n :: rest)
    (past : c.grid.launch.peak < (c.live.apply e).v.length) : peakCond c e = [⟨0x04, n, c.live.v.length, c.split.mask⟩] := by
  simp [peakCond, wholeCond, new, Group.heldCount, past]

theorem peakCond_of_within {c : Ctx} {e : Eff} (within : created c.live e = [] ∨ (c.live.apply e).v.length ≤ c.grid.launch.peak) :
    peakCond c e = [] := by
  rcases within with none_ | le
  · simp [peakCond, wholeCond, none_]
  · simp [peakCond, wholeCond, Group.heldCount, Nat.not_lt.2 le]

theorem unit_of_past {s : State} {c : Ctx} {e : Eff} {k : Cond} (past : peakCond c e = [k]) : unit s c e = takeTrap s (unitSite s c) k := by
  simp [unit, unitWith, past, lowest]

theorem unit_of_noRoom {s : State} {c : Ctx} {e : Eff} (within : peakCond c e = []) (noRoom : poolOk c e = false) : unit s c e = askRegs s c := by
  simp [unit, unitWith, within, noRoom, lowest]

theorem peakForms_of_acts {eff : State → Ctx → Instr → Option Eff}
    (acts : ∀ {i s c e}, ctx? s = some c → eff s c i = some e → Acts s c i e) : PeakForms eff := by
  intro i s c e h he held
  obtain ⟨-, team, -⟩ := ctxAt_spec h
  rw [(acts h he).runs]
  refine ⟨fun n rest new past => ⟨_, rfl, ?_⟩, fun within noRoom => ⟨_, rfl, ?_⟩⟩
  · rw [unit_of_past (peakCond_of_past new past)]
    exact takeTrap_spec h _
  · rw [unit_of_noRoom (peakCond_of_within within) noRoom]
    refine ⟨rfl, fun k hk => tabGet_tabMod_ne _ _ hk, ?_⟩
    rw [askRegs, State.teams_modTeam, tabGet_tabMod_self, team]
    by_cases asked : (c.group.num, c.split.idx) ∈ c.team.requests <;> simp [asked]

/-! ### The shapes of the forms -/

section Forms
variable {s : State} {c : Ctx} {i : Instr} (h : ctx? s = some c)
include h

/-- A form that writes one lane register, in the acting lanes. -/
theorem acts_lane {frees : List Nat} {d : Nat} {f : Ctx → Nat → Word} {g : Nat → Word}
    (runs : exec i s = issue s fun c => unit s c { frees := frees, v := [(d, acting s c, f c)] }) (same : f c = g) :
    Acts s c i { frees := frees, v := [(d, acting s c, g)] } :=
  ⟨runs.trans (same ▸ issue_eq h _), List.nodup_singleton _, .nil, .nil, .nil⟩

/-- A form that writes two neighbouring lane registers, in the acting lanes. -/
theorem acts_lanePair {frees : List Nat} {d : Nat} {lo hi : Ctx → Nat → Word} {glo ghi : Nat → Word}
    (runs : exec i s = issue s fun c => unit s c { frees := frees, v := [(d, acting s c, lo c), (d + 1, acting s c, hi c)] })
    (same : lo c = glo ∧ hi c = ghi) : Acts s c i { frees := frees, v := [(d, acting s c, glo), (d + 1, acting s c, ghi)] } := by
  obtain ⟨rfl, rfl⟩ := same
  exact ⟨runs.trans (issue_eq h _), by simp, .nil, .nil, .nil⟩

/-- A form that writes one uniform register. -/
theorem acts_uniform {d : Nat} {f : Ctx → Word} {x : Word} (runs : exec i s = issue s fun c => unit s c { k := [(d, f c)] }) (same : f c = x) :
    Acts s c i { k := [(d, x)] } :=
  ⟨runs.trans (same ▸ issue_eq h _), .nil, List.nodup_singleton _, .nil, .nil⟩

/-- A form that writes a pair of uniform registers. -/
theorem acts_uniformPair {d : Nat} {lo hi : Ctx → Word} {xlo xhi : Word}
    (runs : exec i s = issue s fun c => unit s c { k := [(d, lo c), (d + 1, hi c)] }) (same : lo c = xlo ∧ hi c = xhi) :
    Acts s c i { k := [(d, xlo), (d + 1, xhi)] } := by
  obtain ⟨rfl, rfl⟩ := same
  exact ⟨runs.trans (issue_eq h _), .nil, by simp, .nil, .nil⟩

/-- A form that writes one predicate, in the acting lanes. -/
theorem acts_predicate {frees : List Nat} {d : Nat} {f : Ctx → BitVec 32} {x : BitVec 32}
    (runs : exec i s = issue s fun c => unit s c { frees := frees, p := [(d, acting s c, f c)] }) (same : f c = x) :
    Acts s c i { frees := frees, p := [(d, acting s c, x)] } :=
  ⟨runs.trans (same ▸ issue_eq h _), .nil, .nil, List.nodup_singleton _, .nil⟩

end Forms

/-! ### Results across lanes (05 R156 to R166) -/

theorem ccHolds_eq (cc : Cc) (lt eq : Bool) : ccHolds cc lt eq =
    match cc with | .eq => eq | .ne => !eq | .lt => lt | .le => lt || eq | .gt => !lt && !eq | .ge => !lt := by
  cases cc <;> simp only [ccHolds, Bool.not_or]

theorem compare_eq (cc : Cc) (ty : BitVec 2) : compare cc ty = relates cc ty := by
  funext p q
  unfold compare relates
  simp only [ccHolds_eq]
  congr 1
  cases cc <;> rfl

/-- A shuffle whose source lane may lie outside the split: the lane keeps its own value there (05 R161). -/
theorem shuffle_own {p : Prop} [Decidable p] (j : Nat) (own : Word) (given : Nat → Word) :
    (match (if p then none else some j) with | none => own | some i => given i) = if p then own else given j := by
  by_cases own_ : p <;> simp only [own_, if_true, if_false]

/-- The four bytes that a word is made of (05 R163). -/
theorem natOfBytes_four (b : Nat → Nat) (lt : ∀ i, b i < 256) : natOfBytes ((List.range 4).map (fun i => BitVec.ofNat 8 (b i))) =
    b 0 + 256 * b 1 + 65536 * b 2 + 16777216 * b 3 := by
  have byte (i : Nat) : (BitVec.ofNat 8 (b i)).toNat = b i := by rw [BitVec.toNat_ofNat, Nat.mod_eq_of_lt (lt i)]
  have four : List.range 4 = [0, 1, 2, 3] := rfl
  simp only [four, List.map_cons, List.map_nil, natOfBytes, byte]
  omega

theorem foldLanes_eq (f : Word → Word → Word) : foldLanes f = foldOver f := by
  funext ws
  cases ws <;> rfl

theorem foldBest_eq (f : Word → Word → Word) : foldBest f = bestOver f := by
  funext ws
  cases ws <;> rfl

theorem findRow_eq : findRow = rowOf := by
  funext rows e
  induction rows generalizing e with
  | nil => rfl
  | cons r t ih => rw [findRow, rowOf, ih]

theorem voteAny_bits (m p : BitVec 32) : (if voteAnyOf m p then 0xffffffff#32 else 0) = if m &&& p = 0 then 0 else 0xffffffff#32 := by
  by_cases none_ : m &&& p = 0 <;> simp [voteAnyOf, none_]

theorem voteAll_bits (m p : BitVec 32) : (if voteAllOf m p then 0xffffffff#32 else 0) = if m &&& p = m then 0xffffffff#32 else 0 := by
  by_cases all : m &&& p = m <;> simp [voteAllOf, all]

/-! ### The four families -/

/-- The lane integer and logic forms run with the effects of their rules (05 R141 to R148, 02 R55). -/
theorem acts_of_laneIntegerEff {i : Instr} {s : State} {c : Ctx} {e : Eff} (h : ctx? s = some c) (he : laneIntegerEff s c i = some e) :
    Acts s c i e := by
  cases i with
  -- Results that the model computes as the rules say them.
  | mulLo | mulHi | madLo | and | or | xor | andn | not | bfe | bfi | clz | brev | dot4I8 | andi | ori | xori | movi | mov16 | add16 | sub16 |
    mul16 | and16 | or16 | xor16 | andn16 =>
    cases he
    exact acts_lane h rfl rfl
  -- Sums, differences, smaller and larger (R144).
  | add | addi => cases he; exact acts_lane h rfl (by rw [addOp_eq])
  | sub => cases he; exact acts_lane h rfl (by rw [subOp_eq])
  | min | mini | min16 => cases he; exact acts_lane h rfl (by rw [minOp_eq])
  | max | maxi | max16 => cases he; exact acts_lane h rfl (by rw [maxOp_eq])
  | adda => cases he; exact acts_lanePair h rfl ⟨rfl, rfl⟩
  -- Shifts and rotations (R145, R148).
  | shl | shl16 => cases he; exact acts_lane h rfl (by rw [shlOp_eq])
  | shr | shr16 => cases he; exact acts_lane h rfl (by rw [shrOp_eq])
  | sra | sra16 => cases he; exact acts_lane h rfl (by rw [sraOp_eq])
  | rot => cases he; exact acts_lane h rfl (by rw [rotOp_eq])
  | shli => cases he; exact acts_lane h rfl (funext fun _ => shlOp_imm _ _)
  | shri => cases he; exact acts_lane h rfl (funext fun _ => shrOp_imm _ _)
  | srai => cases he; exact acts_lane h rfl (funext fun _ => sraOp_imm _ _)
  | roti => cases he; exact acts_lane h rfl (funext fun _ => rotOp_imm _ _)
  -- Counts of bits, and the absolute value (R146).
  | popc => cases he; exact acts_lane h rfl (funext fun _ => popcOp_eq _)
  | popcLt => cases he; exact acts_lane h rfl (funext fun _ => popcLtOp_eq _ _)
  | abs => cases he; exact acts_lane h rfl (funext fun _ => absOp_eq _)
  | _ => cases he

/-- The uniform forms run with the effects of their rules (05 R149, R150, R174). -/
theorem acts_of_uniformEff {i : Instr} {s : State} {c : Ctx} {e : Eff} (h : ctx? s = some c) (he : uniformEff s c i = some e) : Acts s c i e := by
  cases i with
  | kmulLo | kmulHi | kmadLo | kand | kor | kxor | kandn | kaddi | kmovi | kbfe | kbfi | kclz | kbrev | knot | kmov | csrr =>
    cases he
    exact acts_uniform h rfl rfl
  | kadd => cases he; exact acts_uniform h rfl (by rw [addOp_eq])
  | ksub => cases he; exact acts_uniform h rfl (by rw [subOp_eq])
  | kmin => cases he; exact acts_uniform h rfl (by rw [minOp_eq])
  | kmax => cases he; exact acts_uniform h rfl (by rw [maxOp_eq])
  | kshl => cases he; exact acts_uniform h rfl (by rw [shlOp_eq])
  | kshr => cases he; exact acts_uniform h rfl (by rw [shrOp_eq])
  | ksra => cases he; exact acts_uniform h rfl (by rw [sraOp_eq])
  | krot => cases he; exact acts_uniform h rfl (by rw [rotOp_eq])
  | kpopc => cases he; exact acts_uniform h rfl (popcOp_eq _)
  | kabs => cases he; exact acts_uniform h rfl (absOp_eq _)
  | kadda => cases he; exact acts_uniformPair h rfl ⟨rfl, rfl⟩
  | clock => cases he; exact acts_uniformPair h rfl ⟨ofNat_low s.cycle, ofNat_high s.cycle⟩
  | nop => cases he; exact ⟨issue_eq h _, distinct_nil⟩
  | _ => cases he

/-- The floating-point forms run with the effects of their rules (05 R151 to R155, 02 R55): the rules' sums, products and fused sums are the model's. -/
theorem acts_of_floatEff {i : Instr} {s : State} {c : Ctx} {e : Eff} (h : ctx? s = some c) (he : floatEff s c i = some e) : Acts s c i e := by
  cases i with
  | fadd | fsub | fmul | fma | fmin | fmax | faddBf16x2 | fmulBf16x2 | fmaBf16x2 | fminBf16x2 | fmaxBf16x2 | faddF16x2 | fmulF16x2 | fmaF16x2 |
    fminF16x2 | fmaxF16x2 | rcp | rsqrt | exp2 | log2 | cvt | fadd16 | fmul16 | fmax16 =>
    cases he
    exact acts_lane h rfl rfl
  | _ => cases he

/-- The comparisons, predicate forms, moves and cross-lane forms run with the effects of their rules (05 R156 to R166). -/
theorem acts_of_crossEff {i : Instr} {s : State} {c : Ctx} {e : Eff} (h : ctx? s = some c) (he : crossEff s c i = some e) : Acts s c i e := by
  cases i with
  -- Comparisons, predicates and votes (R156, R157, R164).
  | cmpEq | cmpNe | cmpLt | cmpLe | cmpGt | cmpGe => cases he; exact acts_predicate h rfl (by rw [compare_eq])
  | pand | por | pxor | pnot => cases he; exact acts_predicate h rfl rfl
  | voteAny => cases he; exact acts_predicate h rfl (voteAny_bits _ _)
  | voteAll => cases he; exact acts_predicate h rfl (voteAll_bits _ _)
  | voteBallot =>
    cases he
    refine ⟨issue_eq h _, .nil, ?_, .nil, .nil⟩
    dsimp only
    split
    · exact .nil
    · exact List.nodup_singleton _
  -- Selection, moves, shuffles and gathers (R158 to R163).
  | sel | mov | movk | sreg | shflIdx | shflXor | xg => cases he; exact acts_lane h rfl rfl
  | shflUp | shflDown => cases he; exact acts_lane h rfl (funext fun _ => shuffle_own _ _ _)
  | permB => cases he; exact acts_lane h rfl (funext fun _ => congrArg (BitVec.ofNat 32) (natOfBytes_four _ fun _ => Nat.mod_lt _ (by decide)))
  -- Reductions, the scan, and the flattening of rows (R165, R166).
  | gredAdd | gscanAdd => cases he; exact acts_lane h rfl (by rw [foldLanes_eq])
  | gredMin | gredMax => cases he; exact acts_lane h rfl (by rw [foldBest_eq])
  | rbal => cases he; exact acts_lanePair h rfl ⟨findRow_eq ▸ rfl, findRow_eq ▸ rfl⟩
  | _ => cases he

/-- Settles O1: each form is an effect on lane registers, each by the equation of its operation; past the peak and without room by the unit's course. -/
theorem laneIntegerResults : Obligations.LaneIntegerResults :=
  ⟨registerForms_of_acts acts_of_laneIntegerEff, peakForms_of_acts acts_of_laneIntegerEff, peakForms_of_acts acts_of_floatEff,
    peakForms_of_acts acts_of_crossEff⟩

/-- Settles O2: each form is an effect on uniform registers or on nothing. -/
theorem uniformResults : Obligations.UniformResults := registerForms_of_acts acts_of_uniformEff

/-- Settles O3: each form is an effect on lane registers. -/
theorem floatResults : Obligations.FloatResults := registerForms_of_acts acts_of_floatEff

/-- Settles O4: each form is an effect on lane registers, predicates or uniform registers. That a sum over one lane keeps the bits of a NaN is the model's
choice (log 95). -/
theorem crossLaneResults : Obligations.CrossLaneResults := registerForms_of_acts acts_of_crossEff

end Sys2Proof.Machine

/-! ## Predicate forms and `sel` as encoded (05 R157, R158) -/

namespace Sys2Proof

/-- An odd word of the table is read by its major (02 R43, R47). -/
theorem decodeTableWord_odd {w : Nat} (odd : w % 2 = 1) : decodeTableWord 32 w = decodeWord (w % 2 ^ 32) := by
  have first : bitOf (BitVec.ofNat 8 (w % 2 ^ 32)).toNat 0 = true := by
    rw [bitOf, BitVec.toNat_ofNat, beq_iff_eq]
    omega
  unfold decodeTableWord
  simp only [bytesOf, decode, first, if_true, natOfBytes_word (Nat.mod_lt w (Nat.two_pow_pos 32))]
  cases decodeWord (w % 2 ^ 32) <;> rfl

/-- The word that encodes an instruction is read as it. -/
theorem decodeTableWord_of_wordOf {i : Instr} {w u : Nat} (h : WordOf i u) (same : w = u) : decodeTableWord 32 w = some i := by
  obtain ⟨odd, lt, dec⟩ := h
  rw [same, decodeTableWord_odd (by simpa [bitsOf] using odd), Nat.mod_eq_of_lt lt, dec]

end Sys2Proof

namespace Sys2Proof.Machine

open Sys2Proof

theorem pnot_word_reserved {b a d : BitVec 3} (ne : b ≠ 0) :
    decodeTableWord 32 (51 + 2 ^ 7 * d.toNat + 2 ^ 13 * a.toNat + 2 ^ 19 * b.toNat + 2 ^ 25 * 3) = none := by
  obtain ⟨w, hw⟩ : ∃ w, 51 + 2 ^ 7 * d.toNat + 2 ^ 13 * a.toNat + 2 ^ 19 * b.toNat + 2 ^ 25 * 3 = w := ⟨_, rfl⟩
  have hb : b.toNat ≠ 0 := fun h0 => ne (BitVec.eq_of_toNat_eq h0)
  have := b.isLt; have := a.isLt; have := d.isLt
  rw [hw, decodeTableWord_odd (by omega), Nat.mod_eq_of_lt (by omega), decodeWord_19 (by rw [bitsOf]; omega)]
  have func : bitsOf w 22 10 = 24 := by rw [bitsOf]; omega
  have field : bitsOf w 16 16 ≠ 1536 := by rw [bitsOf]; omega
  simp [decodeMajor19, func, field]

/-- A word of major 0x19 that is read has no field above p7 (05 R157). -/
theorem predicate_fields {w : Nat} {i : Instr} (major : w % 2 ^ 7 = 51) (h : decodeTableWord 32 w = some i) :
    bitsOf w 10 3 = 0 ∧ bitsOf w 16 3 = 0 ∧ bitsOf w 22 3 = 0 := by
  rw [decodeTableWord_odd (by omega), decodeWord_19 (by rw [bitsOf]; omega), decodeMajor19] at h
  split_ifs at h with pand por pxor pnot
  · simp only [bitsOf] at pand ⊢; omega
  · simp only [bitsOf] at por ⊢; omega
  · simp only [bitsOf] at pxor ⊢; omega
  · simp only [bitsOf] at pnot ⊢; omega

theorem getLsbD_ones {l : Nat} (hl : l < 32) : (0xffffffff#32).getLsbD l = true := by
  rw [show (0xffffffff#32) = BitVec.allOnes 32 from rfl, BitVec.getLsbD_allOnes, decide_eq_true hl]

/-- One lane of a predicate, p0 reading 1 (05 R157). -/
theorem pread_lane (g : Group) (n : BitVec 3) {l : Nat} (hl : l < 32) :
    (g.pread n.toNat).getLsbD l = if n = 0 then true else ((tabGet g.p n.toNat).getD 0).getLsbD l := by
  have hn : n.toNat = 0 ↔ n = 0 := ⟨fun h0 => BitVec.eq_of_toNat_eq h0, fun h0 => by rw [h0]; rfl⟩
  simp only [Group.pread, hn]
  split
  · exact getLsbD_ones hl
  · rfl

/-- A lane of a predicate after a write in the lanes of a mask. -/
theorem getLsbD_masked (x b m : BitVec 32) {l : Nat} (hl : l < 32) :
    ((x &&& ~~~m) ||| (b &&& m)).getLsbD l = if m.getLsbD l then b.getLsbD l else x.getLsbD l := by
  rw [BitVec.getLsbD_or, BitVec.getLsbD_and, BitVec.getLsbD_and, BitVec.getLsbD_not, decide_eq_true hl]
  cases m.getLsbD l <;> simp

/-- An effect on one predicate may name the bits that the predicate then holds. -/
theorem regsAfter_pread {g g' : Group} {d : Nat} {m b : BitVec 32} (h : RegsAfter g { p := [(d, m, b)] } g') :
    RegsAfter g { p := [(d, m, g'.pread d)] } g' := by
  have others (n : Nat) (hn : ∀ w ∈ [(d, m, g'.pread d)], w.1 ≠ n) : tabGet g'.p n = tabGet g.p n := h.pOther n (by simpa using hn)
  refine ⟨h.v, h.vOther, h.k, h.kOther, fun w hw ne => ?_, others, h.p0, h.h, h.hOther⟩
  obtain rfl := List.mem_singleton.1 hw
  have written := h.p (d, m, b) (List.mem_singleton.2 rfl) ne
  dsimp only at written ⊢
  apply BitVec.eq_of_getLsbD_eq
  intro l hl
  rw [written, getLsbD_masked _ _ _ hl, getLsbD_masked _ _ _ hl, getLsbD_masked _ _ _ hl]
  split <;> rfl

/-- A unit without lane registers needs none from the pool (04 R122, R123). -/
theorem fits_of_noLanes (s : State) {c : Ctx} {e : Eff} (frees : e.frees = []) (lanes : e.v = []) : Fits s c e := by
  have same : (c.live.apply e).v = c.live.v := by
    simp only [Group.apply, hwrites_v, pwrites_v, kwrites_v, lanes, Group.freed, frees, List.foldl_nil]
  constructor
  · simp [peakCond, created, wholeCond, lanes]
  · simp [poolOk, Group.heldCount, Group.freed, frees, same]

/-- A predicate form writes the destination's acting lanes, p0 never (05 R157). -/
theorem predicate_gets {s : State} {c : Ctx} (h : ctx? s = some c) {i : Instr} {d : BitVec 3} {bits : BitVec 32} {f : Nat → Bool}
    (acts : Acts s c i { p := [(d.toNat, acting s c, bits)] }) (lanes : ∀ l < 32, bits.getLsbD l = f l) :
    ∃ t g', exec i s = .next t ∧ OnlyGroup s t c g' ∧
      (∀ l < 32, (g'.pread d.toNat).getLsbD l = if d = 0 then true else if (acting s c).getLsbD l then f l else
        ((tabGet c.live.p d.toNat).getD 0).getLsbD l) ∧
      GroupAfter c { p := [(d.toNat, acting s c, g'.pread d.toNat)] } s.unit.npc g' := by
  obtain ⟨runs, distinct⟩ := acts
  obtain ⟨g', only, ⟨regs, splits, rest⟩⟩ := unit_spec h distinct (fits_of_noLanes s rfl rfl)
  refine ⟨_, g', runs, only, fun l hl => ?_, regsAfter_pread regs, splits, rest⟩
  by_cases p0 : d = 0
  · rw [pread_lane g' d hl, if_pos p0, if_pos p0]
  · have written := regs.p _ (List.mem_singleton.2 rfl) fun h0 => p0 (BitVec.eq_of_toNat_eq h0)
    dsimp only at written
    rw [written, getLsbD_masked _ _ _ hl, lanes l hl, pread_lane c.live d hl, if_neg p0, if_neg p0]

theorem predicate_words (b a d : BitVec 3) : let w := 51 + 2 ^ 7 * d.toNat + 2 ^ 13 * a.toNat
    decodeTableWord 32 (w + 2 ^ 19 * b.toNat) = some (.pand b a d) ∧ decodeTableWord 32 (w + 2 ^ 19 * b.toNat + 2 ^ 25) = some (.por b a d) ∧
    decodeTableWord 32 (w + 2 ^ 19 * b.toNat + 2 ^ 25 * 2) = some (.pxor b a d) ∧
    decodeTableWord 32 (w + 2 ^ 19 * b.toNat + 2 ^ 25 * 3) = if b = 0 then some (.pnot a d) else none := by
  refine ⟨decodeTableWord_of_wordOf (word_pand b a d) ?_, decodeTableWord_of_wordOf (word_por b a d) ?_,
    decodeTableWord_of_wordOf (word_pxor b a d) ?_, ?_⟩
  · rw [encodeWord]; omega
  · rw [encodeWord]; omega
  · rw [encodeWord]; omega
  · split
    · rename_i zero
      refine decodeTableWord_of_wordOf (word_pnot a d) ?_
      rw [encodeWord, zero, show (0 : BitVec 3).toNat = 0 from rfl]
      omega
    · exact pnot_word_reserved ‹_›

theorem predicateClaim : PredicateClaim := by
  refine ⟨predicate_words, fun w i major h => predicate_fields major h, ?_⟩
  intro s c b a d h p gets
  have lane (n : BitVec 3) {l : Nat} (hl : l < 32) : (c.group.pread n.toNat).getLsbD l = p n l := pread_lane c.group n hl
  refine ⟨predicate_gets h (acts_of_crossEff h rfl) fun l hl => ?_, predicate_gets h (acts_of_crossEff h rfl) fun l hl => ?_,
    predicate_gets h (acts_of_crossEff h rfl) fun l hl => ?_, predicate_gets h (acts_of_crossEff h rfl) fun l hl => ?_⟩
  · rw [BitVec.getLsbD_and, lane a hl, lane b hl]
  · rw [BitVec.getLsbD_or, lane a hl, lane b hl]
  · rw [BitVec.getLsbD_xor, lane a hl, lane b hl]
  · rw [BitVec.getLsbD_not, lane a hl, decide_eq_true hl, Bool.true_and]

/-- Settles O5: the words of major 0x19 by their encodings and by the branches of the decoder, the results lane by lane. -/
theorem predicateForms : Obligations.PredicateForms := predicateClaim

/-! ### `sel` (05 R158) -/

theorem sel_words (n y x : BitVec 1) (p : BitVec 3) (b a d : BitVec 6) :
    let w := 53 + 2 ^ 7 * d.toNat + 2 ^ 13 * a.toNat + 2 ^ 19 * b.toNat + 2 ^ 25 * p.toNat + 2 ^ 28 * x.toNat + 2 ^ 29 * y.toNat + 2 ^ 30 * n.toNat
    decodeTableWord 32 w = some (.sel n y x p b a d) ∧ decodeTableWord 32 (w + 2 ^ 31) = none := by
  intro w
  have hw : w = encodeWord (.sel n y x p b a d) := by
    rw [encodeWord]
    omega
  have sel := word_sel n y x p b a d
  rw [← hw] at sel
  refine ⟨decodeTableWord_of_wordOf sel rfl, ?_⟩
  have lt : w < 2 ^ 31 := by
    have := n.isLt; have := y.isLt; have := x.isLt; have := p.isLt; have := b.isLt; have := a.isLt; have := d.isLt
    omega
  have low : w % 2 ^ 7 = 53 := by omega
  clear_value w
  rw [decodeTableWord_odd (by omega), Nat.mod_eq_of_lt (by omega), decodeWord_1a (by rw [bitsOf]; omega), decodeMajor1a, if_neg]
  rw [bitsOf]
  omega

theorem selClaim : SelClaim := by
  refine ⟨sel_words, by decide, ?_⟩
  intro s c n y x p b a d h e fits
  obtain ⟨runs, distinct⟩ := acts_of_crossEff (i := .sel n y x p b a d) h rfl
  obtain ⟨g', only, after⟩ := unit_spec h distinct fits
  refine ⟨_, g', runs, only, after, ?_⟩
  rintro rfl l hl act
  have lane := after.regs.v _ (List.mem_singleton.2 rfl) l hl
  dsimp only at lane
  rw [lane, if_pos act, pread_lane _ _ hl, if_pos rfl]
  obtain rfl | rfl := BitVec.eq_zero_or_eq_one n <;> rfl

/-- Settles O6: the word by its encoding and by the bit that the decoder asks for, the selection by the lane's predicate. -/
theorem selResult : Obligations.SelResult := selClaim

/-! ### Words that the spec writes out -/

/-- Settles O24: each word by evaluating the decoder. -/
theorem specWordsDecode : Obligations.SpecWordsDecode :=
  ⟨by decide, by decide, by decide, by decide, by decide, by decide, by decide⟩

end Sys2Proof.Machine

/-! ## Control transfers (05 R167 to R171, 04 R113 to R115) -/

namespace Sys2Proof

/-- The number that has a bit for each element below `n` that satisfies a test has those bits and no other. -/
theorem bitSum_spec (p : Nat → Bool) (n : Nat) : ((List.range n).filter p).foldl (fun k l => k + 2 ^ l) 0 < 2 ^ n ∧
    ∀ i < n, (((List.range n).filter p).foldl (fun k l => k + 2 ^ l) 0).testBit i = p i := by
  induction n with
  | zero => exact ⟨Nat.zero_lt_one, fun i hi => absurd hi (Nat.not_lt_zero i)⟩
  | succ n ih =>
    obtain ⟨lt, bits⟩ := ih
    rw [List.range_succ, List.filter_append, List.foldl_append]
    generalize ((List.range n).filter p).foldl (fun k l => k + 2 ^ l) 0 = k at lt bits
    cases hp : p n with
    | false =>
      rw [List.filter_cons_of_neg (by simp [hp]), List.filter_nil, List.foldl_nil]
      refine ⟨lt.trans (Nat.pow_lt_pow_right (by decide) (Nat.lt_succ_self n)), fun i hi => ?_⟩
      rcases Nat.lt_succ_iff_lt_or_eq.1 hi with below | rfl
      · exact bits i below
      · rw [Nat.testBit_lt_two_pow lt, hp]
    | true =>
      rw [List.filter_cons_of_pos hp, List.filter_nil, List.foldl_cons, List.foldl_nil, Nat.add_comm]
      refine ⟨by rw [Nat.pow_succ]; omega, fun i hi => ?_⟩
      rcases Nat.lt_succ_iff_lt_or_eq.1 hi with below | rfl
      · rw [Nat.testBit_two_pow_add_gt below, bits i below]
      · rw [Nat.testBit_two_pow_add_eq, Nat.testBit_lt_two_pow lt, hp]
        rfl

/-- The lanes of a test's mask are those that satisfy it. -/
theorem getLsbD_maskOf (p : Nat → Bool) {l : Nat} (hl : l < 32) : (maskOf p).getLsbD l = p l := by
  rw [maskOf, BitVec.getLsbD_ofNat, decide_eq_true hl, Bool.true_and]
  exact (bitSum_spec p 32).2 l hl

end Sys2Proof

namespace Sys2Proof.Machine

open Sys2Proof

/-! ### The parts of a transfer (04 R114, R115) -/

/-- Every part's target is that of a lane. -/
theorem part_target {tgt : Nat → DWord} {ls : List Nat} {p : DWord × BitVec 32} (h : p ∈ partsOf tgt ls) : ∃ l ∈ ls, p.1 = tgt l := by
  induction ls with
  | nil => cases h
  | cons a t ih =>
    rcases List.mem_cons.1 h with rfl | h
    · exact ⟨a, List.mem_cons_self .., rfl⟩
    · obtain ⟨l, hl, same⟩ := ih (List.mem_of_mem_filter h)
      exact ⟨l, List.mem_cons_of_mem _ hl, same⟩

/-- Every lane is in a part, whose target is the lane's. -/
theorem exists_part {tgt : Nat → DWord} {ls : List Nat} {l : Nat} (h : l ∈ ls) (hl : l < 32) :
    ∃ p ∈ partsOf tgt ls, p.1 = tgt l ∧ p.2.getLsbD l = true := by
  induction ls with
  | nil => cases h
  | cons a t ih =>
    by_cases same : tgt l = tgt a
    · refine ⟨_, List.mem_cons_self .., same.symm, ?_⟩
      rw [getLsbD_maskOf _ hl]
      simpa [same] using h
    · have ht : l ∈ t := (List.mem_cons.1 h).resolve_left fun he => same (he ▸ rfl)
      obtain ⟨p, hp, target, bit⟩ := ih ht
      refine ⟨p, List.mem_cons_of_mem _ (List.mem_filter.2 ⟨hp, ?_⟩), target, bit⟩
      rw [target]
      exact bne_iff_ne.2 same

/-- Lanes that share one target form one part. -/
theorem partsOf_uniform {tgt : Nat → DWord} {w : DWord} {m : BitVec 32} (ne : m ≠ 0) (same : ∀ l < 32, m.getLsbD l = true → tgt l = w) :
    partsOf tgt (lanesOf m) = [(w, m)] := by
  have target (l : Nat) (h : l ∈ lanesOf m) : tgt l = w := same l (mem_lanesOf.1 h).1 (mem_lanesOf.1 h).2
  cases lanes : lanesOf m with
  | nil =>
    refine absurd (BitVec.eq_of_getLsbD_eq fun l hl => ?_) ne
    have out : l ∉ lanesOf m := by rw [lanes]; exact List.not_mem_nil
    rw [mem_lanesOf, not_and, Bool.not_eq_true] at out
    rw [out hl]
    simp
  | cons a t =>
    rw [lanes] at target
    have first : tgt a = w := target a (List.mem_cons_self ..)
    have more : (partsOf tgt t).filter (fun p => p.1 != tgt a) = [] := by
      rw [List.filter_eq_nil_iff]
      intro p hp
      obtain ⟨l, hl, hpl⟩ := part_target hp
      simp [hpl, first, target l (List.mem_cons_of_mem _ hl)]
    rw [partsOf, more, first]
    congr 2
    apply BitVec.eq_of_getLsbD_eq
    intro l hl
    have here : l ∈ a :: t ↔ m.getLsbD l = true := by rw [← lanes, mem_lanesOf, and_iff_right hl]
    rw [getLsbD_maskOf _ hl, Bool.eq_iff_iff, ← here]
    simp only [Bool.and_eq_true, Bool.or_eq_true, beq_iff_eq, List.contains_iff_mem, ← List.mem_cons, and_iff_left_iff_imp]
    exact fun hmem => target l hmem

/-- A part either gets one of the free indices, or is left over. -/
theorem mem_zip_or_drop {α β : Type} {x : α} {xs : List α} (ys : List β) (h : x ∈ xs) : (∃ y, (x, y) ∈ xs.zip ys) ∨ x ∈ xs.drop ys.length := by
  induction xs generalizing ys with
  | nil => cases h
  | cons a t ih =>
    cases ys with
    | nil => exact .inr h
    | cons b u =>
      rcases List.mem_cons.1 h with rfl | h
      · exact .inl ⟨b, List.mem_cons_self ..⟩
      · rcases ih u h with ⟨y, hy⟩ | left
        · exact .inl ⟨y, List.mem_cons_of_mem _ hy⟩
        · exact .inr left

theorem getLsbD_unionOf (ps : List (DWord × BitVec 32)) (m : BitVec 32) (l : Nat) :
    (ps.foldl (fun m p => m ||| p.2) m).getLsbD l = true ↔ m.getLsbD l = true ∨ ∃ p ∈ ps, p.2.getLsbD l = true := by
  induction ps generalizing m with
  | nil => simp
  | cons p t ih => rw [List.foldl_cons, ih, BitVec.getLsbD_or, Bool.or_eq_true]; simp [or_assoc]

/-! ### The course of a transfer -/

/-- The lanes that find no free index: they are deferred. -/
def leftOver (c : Ctx) (tgt : Nat → DWord) : BitVec 32 :=
  ((partsOf tgt (lanesOf c.split.mask)).drop (1 + (freeIdx c.group).length)).foldl (fun m p => m ||| p.2) 0#32

/-- The return stacks after the lanes of a list have each pushed or popped theirs. -/
def retsAfter (op : List DWord → List DWord) (ret : Tab (List DWord)) (ls : List Nat) : Tab (List DWord) :=
  ls.foldl (fun r l => tabPut r l (op ((tabGet r l).getD []))) ret

/-- The group after a transfer whose first part is `first` and whose further parts are `placed` at free indices. -/
def landed (s : State) (c : Ctx) (frees : List Nat) (tgt : Nat → DWord) (op : List DWord → List DWord) : Group :=
  let first := (partsOf tgt (lanesOf c.split.mask)).headD (s.unit.npc, c.split.mask)
  let placed := ((partsOf tgt (lanesOf c.split.mask)).drop 1).zip (freeIdx c.group)
  let stack := if leftOver c tgt = 0 then c.split.stack else .defer s.unit.addr (leftOver c tgt) :: c.split.stack
  let g := frees.foldl Group.vfree c.live
  { g with
    ret := retsAfter op g.ret (lanesOf (c.split.mask &&& ~~~leftOver c tgt))
    splits := (g.splits.map fun sp => if sp.idx = c.split.idx then { tick sp with pc := first.1, mask := first.2, stack := stack } else sp) ++
      placed.map fun p => newSplit p.1.1 p.1.2 p.2 (tick c.split).windows }

theorem foldl_rets (op : List DWord → List DWord) (g : Group) (ls : List Nat) :
    ls.foldl (fun g l => { g with ret := tabPut g.ret l (op (g.rets l)) }) g = { g with ret := retsAfter op g.ret ls } := by
  induction ls generalizing g with
  | nil => rfl
  | cons a t ih => rw [List.foldl_cons, ih]; rfl

/-- A transfer that leaves no lane over, or has room on the deferral stack, is stopped by its own conditions alone (04 R115). -/
theorem transfer_traps {s : State} {c : Ctx} {tgt : Nat → DWord} {conds : List Cond} {k : Cond}
    (room : leftOver c tgt = 0 ∨ c.split.stack.length < 8) (hk : lowest conds = some k) (frees : List Nat) (op : List DWord → List DWord) :
    transfer s c frees conds tgt op = takeTrap s (unitSite s c) k := by
  have fits : (leftOver c tgt != 0 && decide (c.split.stack.length ≥ 8)) = false := by
    rcases room with h | h <;> simp [h]
  unfold transfer
  rw [leftOver] at fits
  simp only [fits, wholeCond, Bool.false_eq_true, if_false, List.append_nil, hk]

theorem transfer_lands {s : State} {c : Ctx} {tgt : Nat → DWord} (h : ctx? s = some c)
    (room : leftOver c tgt = 0 ∨ c.split.stack.length < 8) (frees : List Nat) (op : List DWord → List DWord) :
    OnlyGroup s (transfer s c frees [] tgt op) c (landed s c frees tgt op) := by
  have fits : (leftOver c tgt != 0 && decide (c.split.stack.length ≥ 8)) = false := by
    rcases room with h | h <;> simp [h]
  unfold transfer
  rw [leftOver] at fits
  simp only [fits, wholeCond, Bool.false_eq_true, if_false, List.append_nil, lowest, foldl_rets]
  exact endUnit_only h _

/-! ### One target for every lane (05 R169 to R171) -/

theorem leftOver_uniform {c : Ctx} {tgt : Nat → DWord} {w : DWord} (same : ∀ l < 32, c.split.mask.getLsbD l = true → tgt l = w) :
    leftOver c tgt = 0 := by
  by_cases none_ : c.split.mask = 0
  · have parts : partsOf tgt (lanesOf c.split.mask) = [] := by rw [none_, show lanesOf 0 = [] by decide, partsOf]
    rw [leftOver, parts, List.drop_nil]
    rfl
  · rw [leftOver, partsOf_uniform none_ same, List.drop_eq_nil_of_le (by simp)]
    rfl

theorem landed_uniform {s : State} {c : Ctx} {tgt : Nat → DWord} {w : DWord} (ne : c.split.mask ≠ 0)
    (same : ∀ l < 32, c.split.mask.getLsbD l = true → tgt l = w) (frees : List Nat) (op : List DWord → List DWord) :
    landed s c frees tgt op = { frees.foldl Group.vfree c.live with
      ret := retsAfter op (frees.foldl Group.vfree c.live).ret (lanesOf c.split.mask)
      splits := (frees.foldl Group.vfree c.live).splits.map fun sp => if sp.idx = c.split.idx then
        { tick sp with pc := w, mask := c.split.mask, stack := c.split.stack } else sp } := by
  have all : c.split.mask &&& ~~~(0 : BitVec 32) = c.split.mask := by
    rw [show ~~~(0 : BitVec 32) = BitVec.allOnes 32 from rfl, BitVec.and_allOnes]
  rw [landed, leftOver_uniform same, partsOf_uniform ne same, all]
  simp only [List.headD_cons, List.drop_one, List.tail_cons, List.zip_nil_left, List.map_nil, List.append_nil, if_true]

/-- Names that are freed change no more of a group than lane registers and dirty bits. -/
theorem freed_only (frees : List Nat) (g : Group) : { frees.foldl Group.vfree g with v := g.v, dirty := g.dirty } = g := by
  induction frees generalizing g with
  | nil => rfl
  | cons n t ih =>
    rw [List.foldl_cons]
    exact congrArg (fun x : Group => { x with v := g.v, dirty := g.dirty }) (ih (g.vfree n))

theorem freed_splits (frees : List Nat) (g : Group) : (frees.foldl Group.vfree g).splits = g.splits := by
  have := congrArg (fun x : Group => x.splits) (freed_only frees g)
  exact this

theorem freed_ret (frees : List Nat) (g : Group) : (frees.foldl Group.vfree g).ret = g.ret := by
  have := congrArg (fun x : Group => x.ret) (freed_only frees g)
  exact this

theorem retsAfter_get (op : List DWord → List DWord) (ret : Tab (List DWord)) {ls : List Nat} (nodup : ls.Nodup) (l : Nat) :
    (tabGet (retsAfter op ret ls) l).getD [] = if l ∈ ls then op ((tabGet ret l).getD []) else (tabGet ret l).getD [] := by
  induction ls generalizing ret with
  | nil => rfl
  | cons a t ih =>
    obtain ⟨ha, ht⟩ := List.nodup_cons.1 nodup
    rw [retsAfter, List.foldl_cons]
    refine (ih _ ht).trans ?_
    rw [tabGet_tabPut]
    by_cases here : l = a
    · subst here
      simp [ha]
    · simp [here]

theorem nodup_lanesOf (m : BitVec 32) : (lanesOf m).Nodup := List.Nodup.filter _ List.nodup_range

/-- What a transfer with one target leaves (05 R169 to R171): the split moves whole, and its lanes' return stacks change. -/
theorem landed_moves {s : State} {c : Ctx} {tgt : Nat → DWord} {w : DWord} (ne : c.split.mask ≠ 0)
    (same : ∀ l < 32, c.split.mask.getLsbD l = true → tgt l = w) (frees : List Nat) (op : List DWord → List DWord) :
    let g' := landed s c frees tgt op
    g'.splits = (reSplit c (fun sp => { sp with pc := w, mask := c.split.mask, stack := c.split.stack }) []).splits ∧
    (∀ l < 32, g'.rets l = if c.split.mask.getLsbD l then op (c.live.rets l) else c.live.rets l) ∧
    (∀ n, tabGet g'.v n = if n ∈ frees then none else tabGet c.live.v n) ∧
    { g' with v := c.live.v, ret := c.live.ret, splits := c.live.splits, dirty := c.live.dirty } = c.live := by
  rw [landed_uniform ne same]
  refine ⟨?_, fun l hl => ?_, fun n => freed_get frees c.live n, ?_⟩
  · rw [reSplit, List.append_nil, freed_splits]
  · rw [Group.rets, freed_ret, retsAfter_get _ _ (nodup_lanesOf _)]
    simp only [mem_lanesOf, hl, true_and]
    rfl
  · exact congrArg (fun x : Group => { x with ret := c.live.ret, splits := c.live.splits }) (freed_only frees c.live)

/-- No lane of a test's mask: each lane of the split fails the test. -/
theorem and_maskOf_eq_zero {m : BitVec 32} {p : Nat → Bool} (h : ∀ l < 32, m.getLsbD l = true → p l = false) : m &&& maskOf p = 0 := by
  apply BitVec.eq_of_getLsbD_eq
  intro l hl
  rw [BitVec.getLsbD_and, getLsbD_maskOf p hl]
  cases hm : m.getLsbD l with
  | false => simp
  | true => simp [h l hl hm]

theorem laneCond_zero (code : Nat) (d0 d1 : Nat → Nat) : laneCond code 0 d0 d1 = [] := rfl

theorem laneCond_of_ne {m : BitVec 32} (ne : m ≠ 0) (code : Nat) (d0 d1 : Nat → Nat) :
    laneCond code m d0 d1 = [⟨code, d0 (lowLane m), d1 (lowLane m), m⟩] := if_neg ne

theorem uniformTransferClaim : UniformTransferClaim := by
  intro s c w h ne moved room
  have moves {tgt : Nat → DWord} (same : ∀ l < 32, c.split.mask.getLsbD l = true → tgt l = w) (frees : List Nat) (op : List DWord → List DWord) :
      moved (transfer s c frees [] tgt op) frees op :=
    ⟨_, transfer_lands h (.inl (leftOver_uniform same)) frees op, landed_moves ne same frees op⟩
  have notFull (free : room) : fullLanes c = 0 := and_maskOf_eq_zero fun l hl hm => by simpa using free l hl hm
  refine ⟨fun o target free => ⟨_, issue_eq h _, ?_⟩, fun x a good even same => ?_, fun same => ⟨_, issue_eq h _, ?_⟩⟩
  · rw [notFull free, laneCond_zero]
    exact moves (fun _ _ _ => target) _ _
  · have fine : badTargets c (2 * a.toNat) = 0 := and_maskOf_eq_zero fun l hl hm => by simp [same l hl hm, good, even]
    refine ⟨⟨_, issue_eq h _, ?_⟩, fun free => ⟨_, issue_eq h _, ?_⟩⟩
    · rw [badTargetCond, fine, laneCond_zero]
      exact moves same _ _
    · rw [badTargetCond, fine, notFull free, laneCond_zero, laneCond_zero]
      exact moves same _ _
  · have some_ : emptyLanes c = 0 := and_maskOf_eq_zero fun l hl hm => by
      have top := same l hl hm
      cases hr : c.group.rets l <;> simp_all
    rw [if_neg (not_not.2 some_)]
    refine moves (fun l hl hm => ?_) _ _
    rw [List.headD_eq_head?_getD, same l hl hm]
    rfl

/-! ### Targets of the lanes' own (04 R114, R115) -/

/-- The issuing split takes the first part, and defers the lanes that are left over. -/
theorem issuing_landed {s : State} {c : Ctx} (h : ctx? s = some c) (frees : List Nat) (tgt : Nat → DWord) (op : List DWord → List DWord) :
    let first := (partsOf tgt (lanesOf c.split.mask)).headD (s.unit.npc, c.split.mask)
    let stack := if leftOver c tgt = 0 then c.split.stack else .defer s.unit.addr (leftOver c tgt) :: c.split.stack
    { tick c.split with pc := first.1, mask := first.2, stack := stack } ∈ (landed s c frees tgt op).splits := by
  obtain ⟨-, -, -, -, hmem, -⟩ := ctxAt_spec h
  rw [← freed_splits frees] at hmem
  exact List.mem_append_left _ (List.mem_map.2 ⟨c.split, hmem, if_pos rfl⟩)

/-- A further part that gets a free index becomes a split. -/
theorem placed_landed (s : State) (c : Ctx) (frees : List Nat) (tgt : Nat → DWord) (op : List DWord → List DWord) {p : DWord × BitVec 32} {i : Nat}
    (h : (p, i) ∈ ((partsOf tgt (lanesOf c.split.mask)).drop 1).zip (freeIdx c.group)) :
    newSplit p.1 p.2 i (tick c.split).windows ∈ (landed s c frees tgt op).splits :=
  List.mem_append_right _ (List.mem_map.2 ⟨(p, i), h, rfl⟩)

theorem transferLandsClaim : TransferLandsClaim := by
  intro s c frees tgt op h room
  refine ⟨_, transfer_lands h (.inr room) frees op, fun l hl hm => ?_⟩
  obtain ⟨p, hp, target, bit⟩ := exists_part (tgt := tgt) (mem_lanesOf.2 ⟨hl, hm⟩) hl
  have issuing := issuing_landed h frees tgt op
  have placed {i : Nat} := placed_landed s c frees tgt op (p := p) (i := i)
  have left (hleft : p ∈ (partsOf tgt (lanesOf c.split.mask)).drop (1 + (freeIdx c.group).length)) : (leftOver c tgt).getLsbD l = true :=
    (getLsbD_unionOf _ _ l).2 (.inr ⟨p, hleft, bit⟩)
  cases parts : partsOf tgt (lanesOf c.split.mask) with
  | nil => rw [parts] at hp; cases hp
  | cons first more =>
    rw [parts] at hp issuing placed left
    rcases List.mem_cons.1 hp with rfl | later
    · exact .inl ⟨_, issuing, bit, target⟩
    · rcases mem_zip_or_drop (freeIdx c.group) later with ⟨i, hi⟩ | hdrop
      · exact .inl ⟨_, placed hi, bit, target⟩
      · have here := left (by rw [Nat.add_comm, List.drop_succ_cons]; exact hdrop)
        have ne : leftOver c tgt ≠ 0 := fun h0 => by simp [h0] at here
        exact .inr ⟨_, issuing, rfl, _, _, if_neg ne, here⟩

/-- Settles O10: a transfer with one target by its only part, one with targets of the lanes' own by the part of each lane. -/
theorem transferResults : Obligations.TransferResults := ⟨uniformTransferClaim, transferLandsClaim⟩

/-! ### Where control forms trap (02 R69; 05 R169 to R171, R174; 04 R134) -/

theorem softwareTrapsClaim : SoftwareTrapsClaim := fun _ _ h =>
  ⟨fun _ => ⟨_, issue_eq h _, takeTrap_spec h _⟩, _, issue_eq h _, takeTrap_spec h _⟩

theorem emptyLanes_eq (c : Ctx) : emptyLanes c = c.split.mask &&& maskOf (fun l => decide (c.group.rets l = [])) := by
  rw [emptyLanes]
  congr 2
  funext l
  cases c.group.rets l <;> rfl

theorem badTargets_eq (c : Ctx) (a : Nat) : badTargets c a = c.split.mask &&&
    maskOf (fun l => !decide ((c.group.vpair a l).toNat % 2 = 0) || !canonical (c.group.vpair a l)) := by
  rw [badTargets]
  congr 2
  funext l
  rcases Nat.mod_two_eq_zero_or_one (c.group.vpair a l).toNat with even | odd
  · simp [even]
  · simp [odd]

/-- Full return stacks have a lower code than bad targets (01 R40). -/
theorem lowest_full {c : Ctx} (full : fullLanes c ≠ 0) (d0 d1 : Nat → Nat) (a : Nat) : lowest (laneCond 0x08 (fullLanes c) d0 d1 ++ badTargetCond c a) =
    some ⟨0x08, d0 (lowLane (fullLanes c)), d1 (lowLane (fullLanes c)), fullLanes c⟩ := by
  rw [laneCond_of_ne full, badTargetCond]
  by_cases good : badTargets c a = 0
  · rw [good]
    rfl
  · rw [laneCond_of_ne good]
    rfl

theorem transferTrapClaim : TransferTrapClaim := by
  intro s c h full none_ bad
  have isFull : full = fullLanes c := rfl
  have isBad (a : BitVec 5) : bad a = badTargets c (2 * a.toNat) := (badTargets_eq c _).symm
  have isNone : none_ = emptyLanes c := (emptyLanes_eq c).symm
  clear_value full none_ bad
  subst isFull isNone
  simp only [isBad]
  refine ⟨fun ne o => ⟨_, issue_eq h _, ?_⟩, fun ne room x a => ⟨_, issue_eq h _, ?_⟩, fun x a ne room => ⟨_, issue_eq h _, ?_⟩,
    fun free x a ne room => ⟨_, issue_eq h _, ?_⟩, fun ne => ⟨_, issue_eq h _, ?_⟩⟩
  · rw [transfer_traps (.inl (leftOver_uniform fun _ _ _ => rfl)) (congrArg lowest (laneCond_of_ne ne _ _ _))]
    exact takeTrap_spec h _
  · rw [transfer_traps (.inr room) (lowest_full ne _ _ _)]
    exact takeTrap_spec h _
  · rw [badTargetCond, transfer_traps (.inr room) (congrArg lowest (laneCond_of_ne ne _ _ _))]
    exact takeTrap_spec h _
  · rw [free, laneCond_zero, List.nil_append, badTargetCond, transfer_traps (.inr room) (congrArg lowest (laneCond_of_ne ne _ _ _))]
    exact takeTrap_spec h _
  · rw [if_pos ne]
    exact takeTrap_spec h _

/-- Settles O8: each form by the lowest of its conditions; a transfer with room on the deferral stack has none of its own. That an empty return stack
goes before a full deferral stack is the model's choice (log 80). -/
theorem controlTraps : Obligations.ControlTraps := ⟨softwareTrapsClaim, transferTrapClaim⟩

/-! ### `bra` (05 R167, 04 R113 to R115) -/

theorem takenLanes_eq (c : Ctx) (p : BitVec 3) (n : BitVec 1) : takenLanes c.group c.split p n = branchTaken c p n := by
  unfold takenLanes branchTaken
  split <;> rfl

/-- A replay record stands for registers, not for splits (04 R127). -/
theorem group_splits {s : State} {c : Ctx} (h : ctx? s = some c) : c.group.splits = c.live.splits := by
  obtain ⟨-, -, -, -, -, -, -, -, -, under⟩ := ctxAt_spec h
  rw [under]
  cases c.split.replay with
  | none => rfl
  | some r => rfl

theorem lowestFree_eq {s : State} {c : Ctx} (h : ctx? s = some c) : lowestFree c.live = (freeIdx c.group).head? := by
  rw [freeIdx, group_splits h, List.head?_filter]
  rfl

theorem branchClaim : BranchClaim := by
  intro s c o hint n p h tk rest
  have run : exec (.bra o hint n p) s = execBra o hint n p s := rfl
  rw [run, execBra, issue_eq h]
  simp only [takenLanes_eq]
  rw [lowestFree_eq h]
  refine ⟨fun whole => ?_, fun some_ none_ => ⟨_, rfl, ?_⟩, fun some_ ne i hi => ⟨_, rfl, ?_⟩, fun some_ ne full room => ⟨_, rfl, ?_⟩,
    fun some_ ne full deep => ⟨_, rfl, ?_⟩⟩
  -- Every lane takes the branch.
  · obtain ⟨g', only, after⟩ := finishAt_spec h distinct_nil (branchTarget s o)
    rw [if_pos whole]
    exact ⟨_, g', rfl, only, after⟩
  -- No lane takes it.
  · rw [if_neg some_, if_pos none_]
    exact finish_nil h
  -- The taken lanes become a split in the lowest free index.
  · obtain ⟨more, free⟩ := List.head?_eq_some_iff.1 hi
    rw [if_neg some_, if_neg ne, free]
    simp only [Bool.or_eq_true, decide_eq_true_eq]
    exact endUnit_only h _
  -- No index is free: the lanes that do not take it are deferred.
  · rw [if_neg some_, if_neg ne, List.head?_eq_none_iff.1 full]
    dsimp only
    rw [if_neg (Nat.not_le.2 room)]
    exact only_reSplit h fun sp => { sp with pc := branchTarget s o, mask := tk, stack := .defer s.unit.npc rest :: sp.stack }
  -- Nor has the deferral stack room.
  · rw [if_neg some_, if_neg ne, List.head?_eq_none_iff.1 full]
    dsimp only
    rw [if_pos deep]
    exact takeTrap_spec h _

/-- Settles O9: by how many lanes take the branch, and by what room there is for two halves. That the new split has the open lookahead windows of the old
one is the model's reading (log 33). -/
theorem branchResults : Obligations.BranchResults := branchClaim

end Sys2Proof.Machine

/-! ## `exit` (05 R172, 04 R118, R121, R129) -/

namespace Sys2Proof.Machine

open Sys2Proof

/-! ### What other splits, teams and cores do meanwhile leaves the standing of teams alone -/

/-- What the end of a team sets (04 R113, R129): its state, and whether it has a frame and is saved. -/
def Team.standing (t : Team) : TeamState × Bool × Bool := (t.st, t.framed, t.saved)

/-- No team comes or goes, and each stands as before. -/
structure StandingsKept (s t : State) : Prop where
  same : ∀ key, (tabGet t.teams key).map Team.standing = (tabGet s.teams key).map Team.standing

namespace StandingsKept

variable {s t u : State}

theorem refl (s : State) : StandingsKept s s := ⟨fun _ => rfl⟩

theorem trans (h : StandingsKept s t) (k : StandingsKept t u) : StandingsKept s u := ⟨fun key => (k.same key).trans (h.same key)⟩

theorem of_teams (h : t.teams = s.teams) : StandingsKept s t := ⟨fun key => by rw [h]⟩

theorem of_memoryOnly (h : MemoryOnly s t) : StandingsKept s t := of_teams h.teams

theorem foldl {α : Type} {f : State → α → State} (h : ∀ s x, StandingsKept s (f s x)) (xs : List α) (s : State) : StandingsKept s (xs.foldl f s) :=
  List.foldlRecOn (motive := StandingsKept s) xs f (refl s) fun t ht x _ => ht.trans (h t x)

theorem ite {p : Prop} [Decidable p] (h : StandingsKept s t) (k : StandingsKept s u) : StandingsKept s (if p then t else u) := by
  split
  · exact h
  · exact k

theorem of_tabMod {key : Nat} {f : Team → Team} (h : t.teams = tabMod s.teams key f) (hf : ∀ t, (f t).standing = t.standing) :
    StandingsKept s t := by
  refine ⟨fun k => ?_⟩
  rw [h, tabGet_tabMod]
  split
  · rename_i same
    rw [same, Option.map_map]
    exact congrArg (Option.map · _) (funext hf)
  · rfl

theorem modGroup (s : State) (key g : Nat) (f : Group → Group) : StandingsKept s (s.modGroup key g f) := of_tabMod rfl fun _ => rfl

theorem modChannel (s : State) (key ch : Nat) (f : Channel → Channel) : StandingsKept s (s.modChannel key ch f) := of_tabMod rfl fun _ => rfl

/-- A team that stood is there still. -/
theorem isSome (h : StandingsKept s t) {key : Nat} (there : (tabGet s.teams key).isSome = true) : (tabGet t.teams key).isSome = true := by
  have same := congrArg Option.isSome (h.same key)
  rwa [Option.isSome_map, Option.isSome_map, there] at same

end StandingsKept

/-! Writes to memory. -/

theorem flushLine_memoryOnly (s : State) (u : UpdLine) : MemoryOnly s (flushLine s u) :=
  List.foldlRecOn (motive := MemoryOnly s) _ _ (.refl s) fun _ ht _ _ => ht.trans (write_memoryOnly ..)

theorem unpinRef_memoryOnly (s : State) (qn : Nat) (r : DWord) : MemoryOnly s (unpinRef s qn r) := by
  unfold unpinRef
  split
  · split
    · exact hwWrite_memoryOnly ..
    · exact .refl s
  · exact .refl s

theorem releasePins_memoryOnly (s : State) (qn : Nat) (g : Group) : MemoryOnly s (releasePins s qn g) := by
  refine List.foldlRecOn (motive := MemoryOnly s) _ _ (.refl s) fun t ht hr _ => ?_
  refine List.foldlRecOn (motive := MemoryOnly s) _ _ ht fun u hu r _ => ?_
  split
  · exact hu.trans (unpinRef_memoryOnly ..)
  · exact hu

theorem flushCore_standings (s : State) (core : Nat) (p : UpdLine → Bool) : StandingsKept s (flushCore s core p) := by
  unfold flushCore
  dsimp only
  refine .ite (.refl s) (.trans (.foldl (fun t u => .of_memoryOnly (flushLine_memoryOnly t u)) _ s) (.of_teams rfl))

theorem closeWc_standings (s : State) (id : Nat) : StandingsKept s (closeWc s id) := by
  cases hw : tabGet s.wc id with
  | none => simp only [closeWc, hw]; exact .refl s
  | some w => exact .trans (t := { s with wc := tabDel s.wc id }) (.of_teams rfl) (.of_memoryOnly (closeWc_memoryOnly hw))

theorem closeWcs_standings (s : State) (p : WcEntry → Bool) : StandingsKept s (closeWcs s p) :=
  .ite (.refl s) (.foldl closeWc_standings _ s)

/-! Switches. -/

theorem switchIn_teams (s : State) (core : Nat) : (switchIn s core).teams = s.teams := (congrArg State.teams (switchIn_keeps s core).1 :)

theorem leaveRunning_standings (s : State) (core : Nat) (why : Cause) (retain : Bool) : StandingsKept s (leaveRunning s core why retain) := by
  cases hrun : (s.core core).running with
  | none =>
    unfold leaveRunning
    dsimp only
    rw [hrun]
    split
    · contradiction
    · exact .refl s
  | some sl =>
    obtain ⟨-, teams, -⟩ := leaveRunning_spec hrun why retain
    exact .of_tabMod teams fun _ => rfl

theorem switchOut_standings (s : State) (core : Nat) : StandingsKept s (switchOut s core) := by
  unfold switchOut
  split
  · exact .refl s
  · refine .ite (.foldl (fun t x => ?_) _ s) (leaveRunning_standings ..)
    split
    · exact .ite (leaveRunning_standings ..) (.refl t)
    · exact .refl t

theorem gatherMates_standings (s : State) (core : Nat) : StandingsKept s (gatherMates s core) := by
  unfold gatherMates
  split
  · exact .refl s
  · refine .foldl (fun t x => ?_) _ s
    split
    · exact .ite (switchOut_standings ..) (.refl t)
    · exact .refl t

theorem freeSlot_standings (s : State) (core key : Nat) : StandingsKept s (freeSlot s core key) := by
  unfold freeSlot
  split
  · refine .trans ?_ (gatherMates_standings ..)
    exact .of_teams (switchIn_teams ..)
  · exact .refl s

/-! Traps. -/

theorem noteCause_standings (s : State) (core key : Nat) (why : Cause) : StandingsKept s (noteCause s core key why) := by
  unfold noteCause
  dsimp only
  split
  · split
    · exact .of_tabMod rfl fun _ => rfl
    · exact .refl s
  · exact .refl s

theorem haltOp_teams (s : State) (id : Nat) : (haltOp s id).teams = s.teams := by
  unfold haltOp
  split
  · rfl
  · rfl

theorem opGroup_standings (s : State) (id : Nat) (f : Op → Group → Group) : StandingsKept s (opGroup s id f) := by
  unfold opGroup
  refine .ite (.refl s) ?_
  split
  · exact .ite (.refl s) (.modGroup ..)
  · exact .refl s

theorem takeTrap_standings (s : State) (at_ : Site) (k : Cond) : StandingsKept s (takeTrap s at_ k) := by
  unfold takeTrap
  extract_lets running trap stopped
  have stop : StandingsKept s stopped :=
    ((StandingsKept.of_teams (haltOp_teams s _)).trans (opGroup_standings ..)).trans (.of_tabMod rfl fun _ => rfl)
  exact .ite (stop.trans (leaveRunning_standings ..)) (stop.trans (noteCause_standings ..))

/-! Chains. -/

theorem audit_teams (s : State) (qn : Nat) (e : AuditEv) : (audit s qn e).teams = s.teams := by
  unfold audit
  split
  · rfl
  · extract_lets s1
    have triggered : s1.teams = s.teams := by
      unfold s1
      split
      · rw [snapTrigger_eq]
      · rfl
    split
    · rw [State.teams_putQueue]
      exact triggered
    · rw [State.teams_putQueue, State.teams_writeNum]
      exact triggered

theorem opAudit_teams (s : State) (o : Op) (va count detail cls path kind : Nat) : (opAudit s o va count detail cls path kind).teams = s.teams := by
  unfold opAudit opAuditL
  split
  · rfl
  · exact audit_teams ..

theorem noteXlat_teams (s : State) (core : Option Nat) (die : Nat) (x : Xlat) (w k : Bool) : (noteXlat s core die x w k).teams = s.teams := by
  rw [noteXlat_eq, (cached_mem ..).2.1, marked]
  split
  · rfl
  · rfl

theorem notePieces_teams (s : State) (q : Queue) (core : Option Nat) (die : Nat) (w : Bool) (ps : List Piece) :
    (notePieces s q core die w ps).teams = s.teams := by
  refine List.foldlRecOn (motive := fun t : State => t.teams = s.teams) _ _ rfl fun t ht p _ => ?_
  dsimp only
  split
  · exact (noteXlat_teams ..).trans ht
  · exact (noteXlat_teams ..).trans ht

/-- A write of a stamp leaves the teams alone, whether it is made or dropped. -/
theorem stampWrite_teams {s t : State} {qn : Nat} {q : Queue} {die retried : Nat} {va : DWord} {w : Nat} {o : Op}
    (h : stampWrite s qn q die retried va w (opStampAudit o) = .made t ∨ stampWrite s qn q die retried va w (opStampAudit o) = .dropped t) :
    t.teams = s.teams := by
  unfold stampWrite at h
  repeat' split at h
  all_goals simp only [reduceCtorEq, or_false, false_or, or_self, Wrote.made.injEq, Wrote.dropped.injEq] at h
  all_goals subst h
  · rfl
  · exact opAudit_teams ..
  · rfl
  · exact notePieces_teams ..

theorem chainStamp_standings (s : State) (key ch : Nat) : StandingsKept s (chainStamp s key ch) := by
  have close {t : State} (h : t.teams = s.teams) : StandingsKept s (chainClose t key ch) := .trans (.of_teams h) (.modChannel ..)
  unfold chainStamp
  split
  · exact .refl s
  · dsimp only
    split
    · split
      · rename_i made
        exact close (stampWrite_teams (.inl made))
      · rename_i dropped
        exact close (stampWrite_teams (.inr dropped))
      · exact .refl s
      · exact .of_tabMod rfl fun _ => rfl
    · exact close rfl

theorem cancelChain_standings (s : State) (key ch : Nat) (unit : Bool) : StandingsKept s (cancelChain s key ch unit) := by
  unfold cancelChain
  split
  · exact .refl s
  · split
    · exact .refl s
    · exact .ite (.modChannel ..) (.refl s)
    · exact .ite (.refl s) (((StandingsKept.modChannel ..).trans (.modChannel ..)).trans (chainStamp_standings ..))
    · exact .modChannel ..
    · exact .modChannel ..

/-! The end of a team. -/

theorem endOp_standings (s : State) (id : Nat) : StandingsKept s (endOp s id) := by
  refine ⟨fun key => ?_⟩
  have locks := tabGet_map s.teams (fun _ t => { t with locks := t.locks.filter (fun l => !(l.op == id && true)) }) key
  exact (congrArg (Option.map Team.standing) locks).trans (by rw [Option.map_map]; rfl)

theorem dropOps_standings (s : State) (key : Nat) : StandingsKept s (dropOps s key) :=
  .foldl (fun t (o : Nat × Op) => endOp_standings t o.1) _ s

theorem loseWindow_standings (s : State) (key : Nat) : StandingsKept s (loseWindow s key) := by
  unfold loseWindow
  split
  · exact .refl s
  · refine .foldl (fun t u => .ite (.refl t) (.foldl (fun v w => .ite ?_ (.refl v)) _ t)) _ s
    exact ((StandingsKept.of_memoryOnly (write_memoryOnly ..)).trans (.modGroup ..)).trans (takeTrap_standings ..)

theorem closeTeam_standings (s : State) (key : Nat) : StandingsKept s (closeTeam s key) := by
  unfold closeTeam
  split
  · exact .refl s
  · extract_lets s1 s2 s3 s4
    have windows : StandingsKept s s1 := .ite (loseWindow_standings ..) (.refl s)
    have tags : StandingsKept s1 s2 := .ite (.refl s1) (.of_teams rfl)
    have chains : StandingsKept s2 s3 := .foldl (fun t ch => cancelChain_standings t key ch false) _ s2
    have ops : StandingsKept s3 s4 := dropOps_standings ..
    exact (((windows.trans tags).trans chains).trans ops).trans (.of_teams rfl)

theorem tsyncTry_standings (s : State) (key : Nat) : StandingsKept s (tsyncTry s key) := .of_tabMod rfl fun t => by
  split
  · rfl
  · rfl

theorem clsyncTry_standings (s : State) (key : Nat) : StandingsKept s (clsyncTry s key) := by
  unfold clsyncTry
  split
  · exact .refl s
  · refine .ite (.foldl (fun t k => ?_) _ s) (.refl s)
    exact .of_tabMod rfl fun _ => rfl

theorem endGroup_standings (s : State) (core key g : Nat) : StandingsKept s (endGroup s core key g) := by
  unfold endGroup
  split
  · exact .refl s
  · extract_lets s1
    have cleared : StandingsKept s s1 := .trans (.of_memoryOnly (releasePins_memoryOnly ..)) (.modGroup ..)
    refine .trans ?_ (clsyncTry_standings ..)
    refine .trans ?_ (tsyncTry_standings ..)
    exact cleared.trans (.of_teams rfl)

/-- A team that ends is ENDED, without a frame and not saved (04 R113, R129). -/
theorem endTeam_spec {s : State} {core key : Nat} (there : (tabGet s.teams key).isSome = true) :
    ∃ tm, tabGet (endTeam s core key).teams key = some tm ∧ tm.st = .ended ∧ tm.framed = false ∧ tm.saved = false := by
  unfold endTeam
  extract_lets s1 s2
  have closed : StandingsKept s (closeTeam s1 key) :=
    ((flushCore_standings ..).trans (closeWcs_standings ..)).trans (closeTeam_standings ..)
  obtain ⟨tm, htm⟩ := Option.isSome_iff_exists.1 (closed.isSome there)
  have ended : (tabGet s2.teams key).map Team.standing = some (.ended, false, false) := by
    rw [State.teams_modTeam, tabGet_tabMod_self, htm]
    rfl
  have after : StandingsKept s2 (clsyncTry (freeSlot s2 core key) key) := (freeSlot_standings ..).trans (clsyncTry_standings ..)
  obtain ⟨tm', htm', standing⟩ := Option.map_eq_some_iff.1 ((after.same key).trans ended)
  obtain ⟨hst, hrest⟩ := Prod.mk.inj standing
  obtain ⟨hframed, hsaved⟩ := Prod.mk.inj hrest
  exact ⟨tm', htm', hst, hframed, hsaved⟩

/-! ### A group without splits (04 R121) -/

theorem releaseSync_ended (cl : Bool) {g : Group} (h : g.splits = []) : releaseSync cl g = g := by
  cases g
  cases h
  rfl

/-- A change of a team that leaves a group as it is. -/
theorem groupOf_modTeam {s : State} {key k n : Nat} {g : Group} {f : Team → Team} (h : groupOf s key n = some g)
    (hf : ∀ t, tabGet t.groups n = some g → tabGet (f t).groups n = some g) : groupOf (s.modTeam k f) key n = some g := by
  obtain ⟨t, ht, hg⟩ := Option.bind_eq_some_iff.1 h
  rw [groupOf, State.teams_modTeam, tabGet_tabMod]
  split
  · rename_i same
    rw [← same, ht]
    exact hf t hg
  · rw [ht]
    exact hg

theorem tabGet_releaseSync {cl : Bool} {t : Team} {n : Nat} {g : Group} (ended : g.splits = []) (h : tabGet t.groups n = some g) :
    tabGet (t.groups.map (fun x => (x.1, releaseSync cl x.2))) n = some g := by
  rw [tabGet_map t.groups (fun _ => releaseSync cl), h, Option.map_some, releaseSync_ended cl ended]

theorem groupOf_tsyncTry {s : State} {key k n : Nat} {g : Group} (ended : g.splits = []) (h : groupOf s key n = some g) :
    groupOf (tsyncTry s k) key n = some g :=
  groupOf_modTeam h fun t ht => by
    split
    · exact tabGet_releaseSync ended ht
    · exact ht

theorem groupOf_clsyncTry {s : State} {key k n : Nat} {g : Group} (ended : g.splits = []) (h : groupOf s key n = some g) :
    groupOf (clsyncTry s k) key n = some g := by
  unfold clsyncTry
  split
  · exact h
  · dsimp only
    split
    · exact List.foldlRecOn (motive := fun t => groupOf t key n = some g) _ _ h fun t ht k _ =>
        groupOf_modTeam ht fun _ => tabGet_releaseSync ended
    · exact h

/-- A group that ends loses its registers and its splits (04 R121). -/
theorem endGroup_spec {s : State} {core key n : Nat} {g : Group} (h : groupOf s key n = some g) :
    groupOf (endGroup s core key n) key n = some g.cleared := by
  obtain ⟨t, ht, hg⟩ := Option.bind_eq_some_iff.1 h
  have cleared : groupOf ((releasePins s t.queue g).modGroup key n Group.cleared) key n = some g.cleared := by
    rw [groupOf, State.teams_modGroup, (releasePins_memoryOnly s t.queue g).teams, tabGet_tabMod_self, ht]
    exact (tabGet_tabMod_self t.groups n Group.cleared).trans (congrArg (Option.map Group.cleared) hg)
  unfold endGroup
  rw [ht, Option.bind_some, hg]
  exact groupOf_clsyncTry rfl (groupOf_tsyncTry rfl cleared)

theorem foldl_soil (xs : List Nat) (g : Group) : xs.foldl Group.soil g = { g with dirty := xs.foldl setAdd g.dirty } := by
  induction xs generalizing g with
  | nil => rfl
  | cons x t ih => exact ih (g.soil x)

/-! ### The stack below its merge records (04 R118) -/

theorem dropMerges_append {ms : List StackEnt} (merges : ∀ m ∈ ms, ∃ a x, m = .merge a x) (st : List StackEnt) :
    dropMerges (ms ++ st) = dropMerges st := by
  induction ms with
  | nil => rfl
  | cons m t ih =>
    obtain ⟨a, x, rfl⟩ := merges m (List.mem_cons_self ..)
    exact ih fun m hm => merges m (List.mem_cons_of_mem _ hm)

theorem dropMerges_merges {ms : List StackEnt} (merges : ∀ m ∈ ms, ∃ a x, m = .merge a x) : dropMerges ms = [] := by
  have alone := dropMerges_append merges []
  rwa [List.append_nil] at alone

/-! ### The last split of a group and of a team -/

/-- No other split is left where every split of the group is the issuing one. -/
theorem alone_iff (c : Ctx) (g : Group) : (g.splits.all (fun sp => sp.idx == c.split.idx)) = true ↔
    g.splits.filter (fun sp => sp.idx != c.split.idx) = [] := by
  simp [List.filter_eq_nil_iff, List.all_eq_true]

theorem lastSplit_group {c : Ctx} {x : Nat × Group} (last : lastSplit c = true) (hx : x ∈ c.team.groups) (num : x.1 = c.group.num) :
    x.2.splits.filter (fun sp => sp.idx != c.split.idx) = [] := by
  have here := List.all_eq_true.1 last x hx
  rw [if_pos num] at here
  exact (alone_iff c x.2).1 here

theorem lastSplit_other {c : Ctx} {x : Nat × Group} (last : lastSplit c = true) (hx : x ∈ c.team.groups) (num : x.1 ≠ c.group.num) :
    x.2.splits = [] := by
  have here := List.all_eq_true.1 last x hx
  rw [if_neg num] at here
  exact List.isEmpty_iff.1 here

theorem mem_of_tabGet {β : Type} {t : Tab β} {k : Nat} {v : β} (h : tabGet t k = some v) : (k, v) ∈ t := by
  induction t with
  | nil => cases h
  | cons x t ih =>
    rw [tabGet_cons] at h
    split at h
    · rename_i same
      subst same
      cases h
      exact List.mem_cons_self ..
    · exact List.mem_cons_of_mem _ (ih h)

theorem exitClaim : ExitClaim := by
  intro s c h calm rest left
  obtain ⟨-, team, -, group, -, -, -, -, -, -⟩ := ctxAt_spec h
  have held : flushHeld s c.core (fun _ => true) = false := by simp [flushHeld, calm]
  have flushed : flushCore s c.core (fun _ => true) = s := by simp [flushCore, calm]
  have run : exec .exit s = execExit s := rfl
  rw [run, execExit, issue_eq h]
  simp only [held, flushed, Bool.false_eq_true, if_false, group_splits h]
  have ends := endUnit_only h fun g => { g with splits := g.splits.filter (fun sp => sp.idx != c.split.idx) }
  refine ⟨fun some_ => ⟨_, rfl, ?_⟩, fun none_ ms pc ls st stack merges => ⟨_, rfl, ?_⟩, fun none_ merges => ?_⟩
  -- Lanes stay.
  · rw [if_pos some_]
    exact only_reSplit h fun sp => { sp with pc := s.unit.npc, mask := rest }
  -- The youngest deferral runs.
  · rw [if_neg (not_not.2 none_), stack, dropMerges_append merges]
    exact only_reSplit h fun sp => { sp with pc := pc, mask := ls, stack := st }
  -- The split ends.
  · rw [if_neg (not_not.2 none_), dropMerges_merges merges]
    dsimp only
    refine ⟨fun more => ⟨_, rfl, ?_⟩, fun alone others => ?_, fun alone last waits => ?_, fun alone last idle => ?_⟩
    · have notLast : lastSplit c = false := Bool.eq_false_iff.2 fun last => more (lastSplit_group last (mem_of_tabGet group) rfl)
      rw [notLast, Bool.false_and, if_neg Bool.false_ne_true, if_neg fun all => more ((alone_iff c c.live).1 all)]
      exact ends
    -- With the group's last split its registers go.
    · obtain ⟨g, hg, other, unended⟩ := others
      have notLast : lastSplit c = false := Bool.eq_false_iff.2 fun last => unended (lastSplit_other last hg other)
      rw [notLast, Bool.false_and, if_neg Bool.false_ne_true, if_pos ((alone_iff c c.live).2 alone), if_neg Bool.false_ne_true]
      obtain ⟨tm, htm, -, hlive, -⟩ := ends.team
      refine ⟨_, _, rfl, (endGroup_spec (by rw [groupOf, htm]; exact hlive)).trans (congrArg some ?_), fun d => mem_foldl_setAdd⟩
      rw [Group.cleared, foldl_soil]
      rfl
    -- The team's units in flight are waited for.
    · rw [last, waits, Bool.true_and, if_pos rfl]
    -- The team ends.
    · rw [last, idle, Bool.and_false, if_neg Bool.false_ne_true, if_pos ((alone_iff c c.live).2 alone), if_pos rfl]
      obtain ⟨tm, htm, -⟩ := ends.team
      have there := (endGroup_standings _ c.core c.key c.group.num).isSome (Option.isSome_iff_exists.2 ⟨tm, htm⟩)
      obtain ⟨tm', htm', ended⟩ := endTeam_spec (core := c.core) there
      exact ⟨_, tm', rfl, htm', ended⟩

/-- Settles O23: by the lanes that stay, the stack below its merge records, and what the group and the team have left. The end of a team after the units that
are bound to its core (log 17), and the end of a split with merge records alone (log 27), are the model's choices. -/
theorem exitResults : Obligations.ExitResults := exitClaim

end Sys2Proof.Machine

/-! ## `mwait` (06 R188; 03 R94) -/

namespace Sys2Proof.Machine

open Sys2Proof

/-- A group with two splits of index 0, of which the second, which does not issue, holds an open lookahead window. No step of the machine leads there
(04 R113), and `MwaitClaim` does not rule it out. -/
def twinSplits : State :=
  (scaffold State.reset).modGroup (teamKey 1 0) 0 (fun g =>
    { g with splits := [⟨0x10000, 0x0f, 0, [], .none, [], none⟩, ⟨0x10000, 0xf0, 0, [], .none, [(1, 5)], none⟩] })

/-- The context of the first of the two: the one that issues. -/
def twinCtx : Ctx := (ctx? twinSplits).get (by decide +kernel)

theorem ctx?_twinSplits : ctx? twinSplits = some twinCtx := (Option.some_get _).symm

/-- The look of the `mwait` at the word that it awaits, in a page of the scaffold's tables. -/
def twinLook : Look := lookAt twinSplits twinCtx .load none false (lowLane twinCtx.split.mask) (unitEa twinSplits twinCtx.group 0).toNat 8 8

def twinPiece : Piece := twinLook.piece.get (by decide +kernel)

theorem twinLook_opens : twinLook.opens twinSplits twinPiece := by
  unfold Look.opens
  decide +kernel

theorem twinSplits_calm : Calm twinSplits twinCtx := by
  unfold Calm
  decide +kernel

/-- The windows of the splits of the group in the state that an outcome answers. -/
def windowsAfter (o : Out) : List (List (Nat × Nat)) :=
  match o with
  | .next t => ((groupOf t twinCtx.key twinCtx.group.num).map (fun g => g.splits.map (·.windows))).getD []
  | _ => []

/-- The issuing split has no window, so that the model ends none; the other split's has one unit less. -/
theorem twinSplits_model : windowsAfter (exec (.mwait 0 0 0) twinSplits) = [[], [(1, 4)]] := by decide +kernel

/-- The statement would have the other split's window end with that of the `mwait`. -/
theorem twinSplits_stated : (wentOn (withCap twinCtx 0).live 0 twinSplits.unit.npc).map (·.windows) = [[], [(1, 0)]] := by decide +kernel

theorem not_mwaitClaim : ¬ MwaitClaim := by
  intro claim
  obtain ⟨returns, -⟩ := claim twinSplits twinCtx 0 0 0 twinPiece ctx?_twinSplits twinSplits_calm (by decide +kernel) twinLook_opens
  obtain ⟨t, g', run, only, after, -⟩ := returns (by decide +kernel)
  obtain ⟨tm, team, -, group, -⟩ := only.group.team
  have model := twinSplits_model
  have here : groupOf t twinCtx.key twinCtx.group.num = some g' := by rw [groupOf, team]; exact group
  have stated := congrArg (List.map (·.windows)) after.splits
  rw [run, windowsAfter, here] at model
  exact absurd (model.symm.trans (stated.trans twinSplits_stated)) (by decide)

/-- Refutes O15: in a group that holds two splits of one index, the first without a window, `mwait` leaves the second's window open, where `MwaitClaim`
ends it: the claim does not ask that the indices of a group's splits differ (04 R113). -/
theorem not_mwaitResults : ¬ Obligations.MwaitResults := fun h => not_mwaitClaim h.1

end Sys2Proof.Machine

/-! ## `tsync` and `clsync` (06 R204, R205; 04 R127) -/

namespace Sys2Proof.Machine

open Sys2Proof

/-- Without update-only lines and write-combining entries a release has nothing to flush or close (07 R219, 12 R363). -/
theorem releaseWrites_calm {s : State} {c : Ctx} (upd : (s.core c.core).upd = []) (wc : s.wc = []) : releaseWrites s c = s := by
  have flushed : flushCore s c.core (fun _ => true) = s := by simp [flushCore, upd]
  rw [releaseWrites, flushed, closeFor, closeWcs, wc]
  rfl

theorem setAdd_ne_nil (xs : List Nat) (x : Nat) : setAdd xs x ≠ [] := List.ne_nil_of_mem (mem_setAdd.2 (.inr rfl))

/-! The words of the statements are the model's: who is let go, who has arrived, and when a round is complete. -/

theorem releaseSync_eq_letGo (cl : Bool) : releaseSync cl = letGo cl := by
  funext g
  unfold releaseSync letGo
  congr 2
  funext sp
  cases sp.wait <;> cases cl <;> rfl

theorem mem_liveGroups {tm : Team} {n : Nat} : n ∈ liveGroups tm ↔ ∃ g, (n, g) ∈ tm.groups ∧ g.splits ≠ [] := by
  simp [liveGroups, Group.ended]

theorem liveGroups_arrived (tm : Team) (xs : List Nat) : (liveGroups tm).all (fun g => xs.contains g) =
    (tm.groups.filter (fun g => !g.2.splits.isEmpty)).all (fun g => xs.contains g.1) := by
  rw [liveGroups, List.all_map]
  rfl

/-- A team of a cluster holds a round up until it has ended, or each of its unended groups has arrived. -/
theorem clArrivedAll_iff {s : State} {k : Nat} : clArrivedAll s k = true ↔ ∀ u, tabGet s.teams k = some u → u.st ≠ .ended →
    u.clArrived ≠ [] ∧ ∀ g ∈ u.groups, g.2.splits ≠ [] → g.1 ∈ u.clArrived := by
  unfold clArrivedAll
  cases tabGet s.teams k with
  | none => simp
  | some u =>
    have arrived : (liveGroups u).all (fun g => u.clArrived.contains g) = true ↔ ∀ g ∈ u.groups, g.2.splits ≠ [] → g.1 ∈ u.clArrived := by
      simp only [List.all_eq_true, List.contains_iff_mem, mem_liveGroups]
      exact ⟨fun all g hg some_ => all g.1 ⟨g.2, hg, some_⟩, fun all n ⟨g, hg, some_⟩ => all (n, g) hg some_⟩
    simp only [Bool.or_eq_true, beq_iff_eq, Bool.and_eq_true, Bool.not_eq_true', List.isEmpty_eq_false_iff, arrived, or_iff_not_imp_left,
      Option.some.injEq, forall_eq']

/-- To let a group go a second time changes nothing: no split waits there any more. -/
theorem letGo_letGo (cl : Bool) (g : Group) : letGo cl (letGo cl g) = letGo cl g := by
  unfold letGo
  simp only [List.map_map]
  congr 2
  funext sp
  dsimp only [Function.comp_apply]
  cases hw : sp.wait <;> cases cl <;> simp [hw]

/-- The end of a round of `clsync` for one team. -/
def endRound (u : Team) : Team := { u with clArrived := [], groups := u.groups.map (fun g => (g.1, letGo true g.2)) }

theorem endRound_endRound (u : Team) : endRound (endRound u) = endRound u := by
  simp [endRound, Function.comp_def, letGo_letGo]

/-- A round that ends for a list of teams, however often it names one, changes each of them once. -/
theorem tabGet_foldl_endRound (ks : List Nat) (s : State) (k : Nat) : tabGet (ks.foldl (fun s k => s.modTeam k endRound) s).teams k =
    if k ∈ ks then (tabGet s.teams k).map endRound else tabGet s.teams k := by
  induction ks generalizing s with
  | nil => rfl
  | cons a t ih =>
    have once : endRound ∘ endRound = endRound := funext endRound_endRound
    rw [List.foldl_cons, ih, State.teams_modTeam, tabGet_tabMod]
    by_cases here : k = a
    · subst here
      simp [once]
    · simp [here]

/-- The end of a round changes the table of teams alone. -/
theorem foldl_modTeam_only (f : Team → Team) (ks : List Nat) (s : State) : { ks.foldl (fun s k => s.modTeam k f) s with teams := s.teams } = s := by
  induction ks generalizing s with
  | nil => rfl
  | cons a t ih => exact (congrArg (fun x : State => { x with teams := s.teams }) (ih (s.modTeam a f)))

/-! ### The units -/

section Rendezvous
variable {s : State} {c : Ctx} (h : ctx? s = some c)
include h

/-- The arrival of the issuing split changes its team alone. -/
theorem modTeam_arrives (cl : Bool) {f : Team → Team} (hf : f c.team = arrivedTeam s c cl) :
    s.modTeam c.key f = { s with teams := tabPut s.teams c.key (arrivedTeam s c cl) } := by
  obtain ⟨-, team, -⟩ := ctxAt_spec h
  rw [State.modTeam, tabMod_of_get f team, hf]

variable (released : releaseWaits s c = false) (room : replayFull s c = false) (upd : (s.core c.core).upd = []) (wc : s.wc = [])
include released room upd wc

theorem tsyncUnit_eq : tsyncUnit s c = tsyncTry { s with teams := tabPut s.teams c.key (arrivedTeam s c false) } c.key := by
  rw [tsyncUnit, room, released, releaseWrites_calm upd wc, Bool.or_self, if_neg Bool.false_ne_true]
  exact congrArg (tsyncTry · c.key) (modTeam_arrives h false rfl)

theorem execClsync_clustered (clustered : c.grid.launch.clustered = true) : execClsync s =
    .next (clsyncTry { s with teams := tabPut s.teams c.key (arrivedTeam s c true) } c.key) := by
  rw [execClsync, issue_eq h, clustered, Bool.not_true, if_neg Bool.false_ne_true, room, released, releaseWrites_calm upd wc, Bool.or_self,
    if_neg Bool.false_ne_true]
  exact congrArg (fun t : State => Host.Outcome.next (clsyncTry t c.key)) (modTeam_arrives h true rfl)

end Rendezvous

theorem exec_tsync (s : State) : exec .tsync s = execTsync s := rfl

theorem exec_clsync (s : State) : exec .clsync s = execClsync s := rfl

/-- `clsync` acts as `tsync` in a team that is not clustered (06 R205). -/
theorem exec_tsyncUnit {i : Instr} {s : State} {c : Ctx} (h : ctx? s = some c) (form : i = .tsync ∨ i = .clsync ∧ c.grid.launch.clustered = false) :
    exec i s = .next (tsyncUnit s c) := by
  rcases form with rfl | ⟨rfl, alone⟩
  · rw [exec_tsync, execTsync, issue_eq h]
  · rw [exec_clsync, execClsync, issue_eq h, alone]
    rfl

theorem tsyncClaim : TsyncClaim := by
  intro i s c h released room upd wc form tm
  rw [exec_tsyncUnit h form, tsyncUnit_eq h released room upd wc]
  refine ⟨_, rfl, rfl, fun k hk => ?_, ?_⟩
  · rw [tsyncTry, State.teams_modTeam, tabGet_tabMod_ne _ _ hk, tabGet_tabPut_ne _ _ hk]
  · have some_ : tm.arrived.isEmpty = false := List.isEmpty_eq_false_iff.2 (setAdd_ne_nil _ _)
    rw [tsyncTry, State.teams_modTeam, tabGet_tabMod_self, tabGet_tabPut_self, Option.map_some, releaseSync_eq_letGo, liveGroups_arrived, some_,
      Bool.not_false, Bool.true_and]

/-- What `clsync` does once its team has arrived: the round of the cluster ends, or the split waits. -/
theorem clsyncTry_eq {s : State} {key : Nat} {tm : Team} {gr : Grid} (team : tabGet s.teams key = some tm) (grid : tabGet s.grids tm.grid = some gr) :
    clsyncTry s key = if ((gr.launch.cluster tm.teamid).map (teamKey tm.grid)).all (clArrivedAll s)
      then ((gr.launch.cluster tm.teamid).map (teamKey tm.grid)).foldl (fun s k => s.modTeam k endRound) s else s := by
  have round : (fun t : Team => { t with clArrived := [], groups := t.groups.map (fun g => (g.1, releaseSync true g.2)) }) = endRound := by
    rw [releaseSync_eq_letGo]
    rfl
  simp only [clsyncTry, team, clusterKeys, grid, round]

theorem clsyncClaim : ClsyncClaim := by
  intro s c h released room upd wc clustered tm s1 ks all
  obtain ⟨-, -, -, -, -, -, -, grid, -, -⟩ := ctxAt_spec h
  have run : exec .clsync s = .next (if ks.all (clArrivedAll s1) then ks.foldl (fun s k => s.modTeam k endRound) s1 else s1) := by
    rw [exec_clsync, execClsync_clustered h released room upd wc clustered]
    exact congrArg _ (clsyncTry_eq (s := s1) (tm := tm) (tabGet_tabPut_self ..) grid)
  have complete : ks.all (clArrivedAll s1) = true ↔ all := by
    rw [List.all_eq_true]
    exact forall₂_congr fun _ _ => clArrivedAll_iff
  rw [run]
  refine ⟨fun waits => by rw [if_neg (mt complete.1 waits)], fun ends => ?_⟩
  rw [if_pos (complete.2 ends)]
  exact ⟨_, rfl, congrArg (fun x : State => { x with teams := s.teams }) (foldl_modTeam_only endRound ks s1), tabGet_foldl_endRound ks s1⟩

/-- Settles O20: an arrival by the change of its team, the end of a round by the test on the groups of a team, or of every team of the cluster. -/
theorem rendezvousResults : Obligations.RendezvousResults := ⟨tsyncClaim, clsyncClaim⟩

end Sys2Proof.Machine

/-! ## Barrier objects (06 R194 to R203) -/

namespace Sys2Proof.Machine

open Sys2Proof

/-! ### Conditions that stop a unit (01 R40) -/

/-- A unit whose effect needs no lane register is stopped by the lowest of its own conditions. -/
theorem unitWith_traps {s : State} {c : Ctx} {conds : List Cond} {e : Eff} {k : Cond} (fits : Fits s c e) (low : lowest conds = some k)
    (act : State → State) : unitWith s c conds e act = takeTrap s (unitSite s c) k := by
  obtain ⟨peak, -⟩ := fits
  simp only [unitWith, peak, List.nil_append, low]

theorem wholeCond_false (code d0 d1 : Nat) (m : BitVec 32) : wholeCond false code d0 d1 m = [] := rfl

theorem wholeCond_true (code d0 d1 : Nat) (m : BitVec 32) : wholeCond true code d0 d1 m = [⟨code, d0, d1, m⟩] := rfl

theorem lowest_one (k : Cond) : lowest [k] = some k := rfl

/-! ### An object in memory (06 R194, R196) -/

/-- The fields of an object fit their bits (06 R194). -/
structure Bar.Small (b : Bar) : Prop where
  waiters : b.waiters < 2 ^ 16
  expect : b.expect < 2 ^ 16
  arrive : b.arrive < 2 ^ 16
  phase : b.phase < 2 ^ 32

theorem barAt_small (s : State) (pa : Nat) : (barAt s pa).Small :=
  ⟨Nat.mod_lt _ (by decide), Nat.mod_lt _ (by decide), Nat.mod_lt _ (by decide), Nat.mod_lt _ (by decide)⟩

/-- The fields of an object stand apart in its 16 bytes. -/
theorem bar_fields {w e a x p : Nat} (hw : w < 2 ^ 16) (he : e < 2 ^ 16) (ha : a < 2 ^ 16) (hx : x < 2 ^ 32) (hp : p < 2 ^ 32) :
    let v := packBits [(16, 1), (16, w), (16, e), (16, a), (32, x), (32, p)] % 2 ^ (8 * 16)
    bitsOf v 16 16 = w ∧ bitsOf v 32 16 = e ∧ bitsOf v 48 16 = a ∧ v / 2 ^ 64 % 2 ^ 32 = x ∧ bitsOf v 96 32 = p := by
  simp only [packBits, bitsOf]
  omega

theorem barAt_putBar {s : State} (hs : s.Inv) (pa : Nat) {b : Bar} (small : b.Small) : barAt (putBar s pa b) pa = b := by
  obtain ⟨w, e, a, x, p⟩ := b
  obtain ⟨hw, he, ha, hp⟩ := small
  obtain ⟨fw, fe, fa, fx, fp⟩ := bar_fields hw he ha x.isLt hp
  have tx : BitVec.ofNat 32 (packBits [(16, 1), (16, w), (16, e), (16, a), (32, x.toNat), (32, p)] % 2 ^ (8 * 16) / 2 ^ 64) = x :=
    BitVec.eq_of_toNat_eq (by rw [BitVec.toNat_ofNat, fx])
  simp only [barAt, putBar, State.num_writeNum_same hs, fw, fe, fa, tx, fp]

theorem byteAt_putBar_outside (s : State) {pa z : Nat} (b : Bar) (h : z < pa ∨ pa + 16 ≤ z) : (putBar s pa b).byteAt z = s.byteAt z :=
  State.byteAt_writeNum_outside s _ h

theorem settled_small {b : Bar} (small : b.Small) : (settled b).Small := by
  obtain ⟨hw, he, ha, hp⟩ := small
  unfold settled
  split
  · exact ⟨hw, he, he, Nat.mod_lt _ (by decide)⟩
  · exact ⟨hw, he, ha, hp⟩

/-- Cleared bytes read zero. -/
theorem byteAt_zero_inside (s : State) {pa n z : Nat} (lo : pa ≤ z) (hi : z < pa + n) : (s.zero pa n).byteAt z = 0 := by
  change memGet (memClear s.mem pa n) z = memDefault
  induction s.mem with
  | nil => rfl
  | cons x t ih =>
    rw [memClear, List.filter_cons]
    split
    · rename_i kept
      have ne : x.1 ≠ z := by
        rintro rfl
        simp [lo, hi] at kept
      rw [memGet, if_neg ne]
      exact ih
    · exact ih

theorem mem_setDel {xs : List Nat} {x : Nat} : x ∉ setDel xs x := by
  induction xs with
  | nil => exact List.not_mem_nil
  | cons a t ih =>
    rw [setDel]
    split
    · exact ih
    · rename_i ne
      rw [List.mem_cons, not_or]
      exact ⟨Ne.symm ne, ih⟩

/-! ### A unit that writes memory and ends -/

/-- A state that differs from another in memory, and the marks of writes, alone. -/
def OfMemory (s u : State) : Prop := withMemory s u = u

theorem OfMemory.withTags {s u : State} (m : OfMemory s u) (x : List Nat) : OfMemory s { u with tags := x } := by
  have same := congrArg (fun y : State => { y with tags := x }) m
  exact same

theorem OfMemory.ctx? {s u : State} {c : Ctx} (m : OfMemory s u) (h : ctx? s = some c) : ctx? u = some c := by
  rw [← m]
  exact h

theorem finish_ofMemory {s u : State} {c : Ctx} (m : OfMemory s u) (h : ctx? s = some c) {e : Eff} (distinct : e.distinct) :
    Completes (withMemory s (finish u c e)) (finish u c e) c e := by
  have same : withMemory s (finish u c e) = u := m
  rw [same]
  exact finishAt_spec (m.ctx? h) distinct _

theorem onlyGroup_ofMemory {s u : State} {c : Ctx} (m : OfMemory s u) (h : Machine.ctx? s = some c) (f : Group → Group) :
    OnlyGroup (withMemory s (endUnit u c f)) (endUnit u c f) c (f c.live) := by
  have same : withMemory s (endUnit u c f) = u := m
  rw [same]
  exact endUnit_only (m.ctx? h) f

/-! ### The forms -/

theorem exec_binit (w : BitVec 1) (b a : BitVec 5) (s : State) : exec (.binit w b a) s = execBinit w b a s := rfl
theorem exec_barv (w : BitVec 1) (a d : BitVec 5) (s : State) : exec (.barv w a d) s = execBarv w a d s := rfl
theorem exec_bexp (w : BitVec 1) (b a : BitVec 5) (s : State) : exec (.bexp w b a) s = execBexp w b a s := rfl
theorem exec_btest (w : BitVec 1) (b a : BitVec 5) (d : BitVec 3) (s : State) : exec (.btest w b a d) s = execBtest w b a d s := rfl
theorem exec_bwait (w : BitVec 1) (b a : BitVec 5) (s : State) : exec (.bwait w b a) s = execBwait w b a s := rfl
theorem exec_binval (w : BitVec 1) (a : BitVec 5) (s : State) : exec (.binval w a) s = execBinval w a s := rfl

/-- Where the operand reaches an object, only the object itself can stop a form. -/
theorem barCond_of_reached {s : State} {c : Ctx} {w : Bool} {o : Nat} (reached : barConds s c w o = []) (hold : Bool) (code d1 : Nat) :
    barCond s c w o hold code d1 = wholeCond hold code o d1 c.split.mask := by
  rw [barCond, reached]
  rfl

/-- A state whose memory and tags are others differs from the state in memory alone. -/
theorem ofMemory_putBar (s : State) (pa : Nat) (b : Bar) : OfMemory s (putBar s pa b) := rfl

/-- The bits that a predicate write gives lanes outside its mask do not matter. -/
theorem apply_predicate (g : Group) (n : Nat) {m b b' : BitVec 32} (same : b &&& m = b' &&& m) :
    g.apply { p := [(n, m, b)] } = g.apply { p := [(n, m, b')] } := by
  have written := fun x : Group => show x.pwrite n m b = x.pwrite n m b' by rw [Group.pwrite, same, Group.pwrite]
  exact congrArg (fun x : Group => x) (written (g.freed { p := [] }))

theorem finish_congr {e e' : Eff} (same : ∀ g : Group, g.apply e = g.apply e') (s : State) (c : Ctx) : finish s c e = finish s c e' := by
  simp only [finish, finishAt, same]

/-- A value's low bit differs from another's where their sum is odd. -/
theorem add_odd_iff (p : Nat) (k : Word) : ((p + k.toNat) % 2 == 1) = !decide (p % 2 = 1 ↔ k.getLsbD 0 = true) := by
  have low : k.getLsbD 0 = true ↔ k.toNat % 2 = 1 := by
    rw [BitVec.getLsbD, Nat.testBit_zero, decide_eq_true_iff]
  rw [Bool.eq_iff_iff, beq_iff_eq, Bool.not_eq_true', decide_eq_false_iff_not, low]
  omega

section Forms
variable {s : State} {c : Ctx} (h : ctx? s = some c) {w : BitVec 1} {a : BitVec 5} {pa : Nat}
include h

theorem execBinit_makes {b : BitVec 5} {n : Nat} (place : barPlace s c (w == 1) (barOff c a) = []) (new : tagged s (barPa c (w == 1) (barOff c a)) = false)
    (count : (c.group.kread b.toNat).toNat = n) (lo : 1 ≤ n) (hi : n ≤ 65535) : execBinit w b a s =
      .next (finish { putBar s (barPa c (w == 1) (barOff c a)) ⟨0, n, n, 0, 0⟩ with tags := setAdd s.tags (barPa c (w == 1) (barOff c a)) } c {}) := by
  have some_ : decide (n = 0) = false := decide_eq_false (by omega)
  have few : decide (n > 65535) = false := decide_eq_false (by omega)
  simp only [execBinit, issue_eq h, place, new, count, some_, few, List.isEmpty_nil, Bool.and_false, Bool.or_false, wholeCond_false, List.append_nil,
    unitWith_of_fits (fits_nil s c)]
  rfl

variable (reached : barConds s c (w == 1) (barOff c a) = []) (place : barPa c (w == 1) (barOff c a) = pa)
include reached place

theorem execBarv_arrives (d : BitVec 5) (released : releaseWaits s c = false) (upd : (s.core c.core).upd = []) (wc : s.wc = [])
    (some_ : (barAt s pa).arrive ≠ 0) : execBarv w a d s =
      .next (finish (putBar s pa (settled { barAt s pa with arrive := (barAt s pa).arrive - 1 })) c
        { k := [(d.toNat, BitVec.ofNat 32 (barAt s pa).phase)] }) := by
  have hold : ((barAt s pa).arrive == 0) = false := beq_false_of_ne some_
  have fits : Fits s c { k := [(d.toNat, BitVec.ofNat 32 (barAt s pa).phase)] } := fits_of_noLanes s rfl rfl
  simp only [execBarv, issue_eq h, released, if_neg Bool.false_ne_true, barCond_of_reached reached, reached, place, hold, wholeCond_false,
    List.append_nil, unitWith_of_fits fits, releaseWrites_calm upd wc]
  rfl

theorem execBexp_expects {b : BitVec 5} {n : Nat} (count : (c.group.kread b.toNat).toNat = n) (hi : n ≤ 0x7fffffff)
    (room : (barAt s pa).tx.toInt + n ≤ 0x7fffffff) : execBexp w b a s =
      .next (finish (putBar s pa (settled { barAt s pa with tx := (barAt s pa).tx + BitVec.ofNat 32 n })) c {}) := by
  have few : decide (n > 0x7fffffff) = false := decide_eq_false (by omega)
  have fits : decide ((barAt s pa).tx.toInt + n > 0x7fffffff) = false := decide_eq_false (by omega)
  simp only [execBexp, issue_eq h, barCond_of_reached reached, reached, place, count, few, fits, Bool.or_false, wholeCond_false, List.append_nil,
    unitWith_of_fits (fits_nil s c)]
  rfl

theorem execBtest_tells (b : BitVec 5) (d : BitVec 3) (ordered : acquireWaits s c = false) : execBtest w b a d s =
    .next (finish s c { p := [(d.toNat, c.split.mask,
      if ((barAt s pa).phase + (c.group.kread b.toNat).toNat) % 2 == 1 then c.split.mask else 0)] }) := by
  have fits := fun bits : BitVec 32 => fits_of_noLanes (e := { p := [(d.toNat, c.split.mask, bits)] }) (c := c) s rfl rfl
  simp only [execBtest, issue_eq h, reached, place, ordered, Bool.and_false, if_neg Bool.false_ne_true, unitWith_of_fits (fits _), id]

theorem execBwait_eq (b : BitVec 5) (room : replayFull s c = false) : execBwait w b a s =
    .next (if (barAt s pa).phase ≠ (c.group.kread b.toNat).toNat then
        if acquireWaits s c then s else
          endUnit s c (fun g => g.modSplit c.split.idx (fun sp => { tick sp with pc := s.unit.npc, wait := .none }))
      else endUnit (putBar s pa { barAt s pa with waiters := ((barAt s pa).waiters + 1) % 2 ^ 16 }) c
        (fun g => g.modSplit c.split.idx (fun sp => { sp with wait := .bwait (barOff c a) (c.group.kread b.toNat).toNat (w == 1) true s.unit.npc }))) := by
  simp only [execBwait, issue_eq h, room, if_neg Bool.false_ne_true, bwaitOn, reached, place]
  rfl

theorem execBinval_clears (idle : (barAt s pa).waiters = 0) : execBinval w a s =
    .next (finish { s.zero pa 16 with tags := setDel s.tags pa } c {}) := by
  have none_ : ((barAt s pa).waiters != 0) = false := bne_eq_false_iff_eq.2 idle
  simp only [execBinval, issue_eq h, barCond_of_reached reached, reached, place, none_, wholeCond_false, List.append_nil,
    unitWith_of_fits (fits_nil s c)]

end Forms

theorem endUnit_mem (s : State) (c : Ctx) (f : Group → Group) : (endUnit s c f).mem = s.mem := rfl

theorem finish_mem (s : State) (c : Ctx) (e : Eff) : (finish s c e).mem = s.mem := rfl

theorem finish_tags (s : State) (c : Ctx) (e : Eff) : (finish s c e).tags = s.tags := rfl

/-- An object stands in memory alone. -/
theorem barAt_of_mem {s t : State} (same : t.mem = s.mem) (pa : Nat) : barAt t pa = barAt s pa := by
  simp only [barAt, State.num, State.bytes, same]

theorem byteAt_of_mem {s t : State} (same : t.mem = s.mem) (z : Nat) : t.byteAt z = s.byteAt z := by
  rw [State.byteAt, same, State.byteAt]

theorem tags_putBar (s : State) (pa : Nat) (b : Bar) : (putBar s pa b).tags = s.tags := rfl

/-- A unit that writes an object and ends leaves the object, and no other byte changed. -/
theorem putBar_completes {s : State} {c : Ctx} (h : ctx? s = some c) (inv : s.Inv) {pa : Nat} {b : Bar} (small : b.Small) {e : Eff} (distinct : e.distinct) :
    let t := finish (putBar s pa b) c e
    Completes (withMemory s t) t c e ∧ barAt t pa = b ∧ t.tags = s.tags ∧ ∀ z, z < pa ∨ pa + 16 ≤ z → t.byteAt z = s.byteAt z := by
  intro t
  refine ⟨finish_ofMemory (ofMemory_putBar s pa b) h distinct, ?_, ?_, fun z outside => ?_⟩
  · rw [barAt_of_mem (finish_mem ..), barAt_putBar inv pa small]
  · rw [finish_tags, tags_putBar]
  · rw [byteAt_of_mem (finish_mem ..), byteAt_putBar_outside s b outside]

theorem binit_completes {s : State} {c : Ctx} (h : ctx? s = some c) (inv : s.Inv) {pa : Nat} {b : Bar} (small : b.Small) :
    let t := finish { putBar s pa b with tags := setAdd s.tags pa } c {}
    Completes (withMemory s t) t c {} ∧ BarLeft s t pa b := by
  intro t
  have mem : t.mem = (putBar s pa b).mem := finish_mem ..
  refine ⟨finish_ofMemory ((ofMemory_putBar s pa b).withTags _) h distinct_nil, ?_, finish_tags .., fun z outside => ?_⟩
  · rw [barAt_of_mem mem, barAt_putBar inv pa small]
  · rw [byteAt_of_mem mem, byteAt_putBar_outside s b outside]

theorem binval_completes {s : State} {c : Ctx} (h : ctx? s = some c) (pa : Nat) :
    let t := finish { s.zero pa 16 with tags := setDel s.tags pa } c {}
    Completes (withMemory s t) t c {} ∧ pa ∉ t.tags ∧ (∀ z, pa ≤ z → z < pa + 16 → t.byteAt z = 0) ∧ ∀ z, z < pa ∨ pa + 16 ≤ z → t.byteAt z = s.byteAt z := by
  intro t
  have mem : t.mem = (s.zero pa 16).mem := finish_mem ..
  have wiped : OfMemory s (s.zero pa 16) := rfl
  refine ⟨finish_ofMemory (wiped.withTags _) h distinct_nil, ?_, fun z lo hi => ?_, fun z outside => ?_⟩
  · rw [finish_tags]
    exact mem_setDel
  · rw [byteAt_of_mem mem, byteAt_zero_inside s lo hi]
  · rw [byteAt_of_mem mem]
    exact memGet_memClear_of_outside s.mem outside

theorem btest_completes {s : State} {c : Ctx} (h : ctx? s = some c) (d : BitVec 3) (p : Nat) (k : Word) :
    Completes s (finish s c { p := [(d.toNat, c.split.mask, if (p + k.toNat) % 2 == 1 then c.split.mask else 0)] }) c
      { p := [(d.toNat, c.split.mask, if (p % 2 = 1) ↔ (k.getLsbD 0 = true) then 0 else 0xffffffff#32)] } := by
  have bits : (if ((p + k.toNat) % 2 == 1) = true then c.split.mask else 0) &&& c.split.mask =
      (if (p % 2 = 1) ↔ (k.getLsbD 0 = true) then 0 else 0xffffffff#32) &&& c.split.mask := by
    rw [add_odd_iff]
    by_cases same : p % 2 = 1 ↔ k.getLsbD 0 = true
    · simp only [same, decide_true, Bool.not_true, if_neg Bool.false_ne_true, if_true]
    · simp only [same, decide_false, Bool.not_false, if_true, if_false, BitVec.and_self]
      exact BitVec.allOnes_and.symm
  rw [finish_congr (fun g => apply_predicate g d.toNat bits)]
  have distinct : Eff.distinct { p := [(d.toNat, c.split.mask, if (p % 2 = 1) ↔ (k.getLsbD 0 = true) then 0 else 0xffffffff#32)] } :=
    ⟨.nil, .nil, List.nodup_singleton _, .nil⟩
  exact finishAt_spec h distinct _

theorem bwait_counts {s : State} {c : Ctx} (h : ctx? s = some c) (inv : s.Inv) {pa : Nat} {b : Bar} (small : b.Small) (f : Group → Group) :
    let t := endUnit (putBar s pa b) c f
    OnlyGroup (withMemory s t) t c (f c.live) ∧ barAt t pa = b ∧ ∀ z, z < pa ∨ pa + 16 ≤ z → t.byteAt z = s.byteAt z := by
  intro t
  refine ⟨onlyGroup_ofMemory (ofMemory_putBar s pa b) h f, ?_, fun z outside => ?_⟩
  · rw [barAt_of_mem (endUnit_mem ..), barAt_putBar inv pa small]
  · rw [byteAt_of_mem (endUnit_mem ..), byteAt_putBar_outside s b outside]

theorem barrierClaim : BarrierClaim := by
  intro s c w a pa h inv
  obtain ⟨hw, he, ha, hp⟩ := barAt_small s pa
  refine ⟨fun b n place here new count lo hi => ?_, fun ⟨reached, here⟩ => ⟨fun d released upd wc some_ => ?_, fun b n count hi room => ?_,
    fun b d ordered => ?_, fun b passed ordered room => ?_, fun b same room => ?_, fun idle => ?_⟩⟩
  · subst here
    have small : Bar.Small ⟨0, n, n, 0, 0⟩ := ⟨Nat.two_pow_pos _, by dsimp only; omega, by dsimp only; omega, Nat.two_pow_pos _⟩
    exact ⟨_, execBinit_makes h place new count lo hi, binit_completes h inv small⟩
  · have small : { barAt s pa with arrive := (barAt s pa).arrive - 1 }.Small := ⟨hw, he, by dsimp only; omega, hp⟩
    have distinct : Eff.distinct { k := [(d.toNat, BitVec.ofNat 32 (barAt s pa).phase)] } := ⟨.nil, List.nodup_singleton _, .nil, .nil⟩
    exact ⟨_, execBarv_arrives h reached here d released upd wc some_, putBar_completes h inv (settled_small small) distinct⟩
  · have small : { barAt s pa with tx := (barAt s pa).tx + BitVec.ofNat 32 n }.Small := ⟨hw, he, ha, hp⟩
    exact ⟨_, execBexp_expects h reached here count hi room, putBar_completes h inv (settled_small small) distinct_nil⟩
  · exact ⟨_, execBtest_tells h reached here b d ordered, btest_completes h d _ _⟩
  · refine ⟨_, execBwait_eq h reached here b room, ?_⟩
    rw [if_pos passed, ordered, if_neg Bool.false_ne_true]
    exact only_reSplit h (fun sp => { sp with pc := s.unit.npc, wait := .none })
  · refine ⟨_, execBwait_eq h reached here b room, ?_⟩
    rw [if_neg (not_not_intro same)]
    have small : { barAt s pa with waiters := ((barAt s pa).waiters + 1) % 2 ^ 16 }.Small := ⟨Nat.mod_lt _ (Nat.two_pow_pos _), he, ha, hp⟩
    exact bwait_counts h inv small _
  · exact ⟨_, execBinval_clears h reached here idle, binval_completes h pa⟩

/-! ### Where the forms trap (06 R197 to R203) -/

/-- A split has its context still, where its core's slots, its team's place and its group stand as they did. -/
theorem ctxAt_of_same {s t : State} {w : Who} {c : Ctx} (h : ctxAt s w = some c) {tm : Team} {q : Queue} {gr : Grid}
    (slots : (t.core w.core).slots = (s.core w.core).slots) (team : tabGet t.teams c.key = some tm) (group : tabGet tm.groups c.group.num = some c.live)
    (queue : tabGet t.queues tm.queue = some q) (grid : tabGet t.grids tm.grid = some gr) : ctxAt t w = some { c with team := tm, q := q, grid := gr } := by
  have running : (t.core w.core).running = (s.core w.core).running := by rw [Core.running, slots, Core.running]
  unfold ctxAt at h
  split at h
  · cases h
  · rename_i sl hsl
    split at h
    · cases h
    · split at h
      · cases h
      · rename_i g hg
        split at h
        · cases h
        · rename_i sp hsp
          split at h
          · cases h
            obtain ⟨-, named⟩ := Option.filter_eq_some_iff.1 hg
            have number : g.num = w.group := beq_iff_eq.1 named
            rw [under_num, number] at group
            simp only [ctxAt, running, hsl, team, group, Option.filter_some, named, if_true, hsp, queue, grid]
          · cases h

/-- A trap of a state whose table of groups is another's in another order is a trap of that one. -/
theorem TrapTaken.of_regrouped {s t : State} {c : Ctx} {k : Cond} {ts : Tab Team} {gs : Tab Group}
    (taken : TrapTaken { s with teams := ts } t { c with team := { c.team with groups := gs } } k)
    (others : ∀ n, n ≠ c.key → tabGet ts n = tabGet s.teams n) (groups : ∀ n, n ≠ c.group.num → tabGet gs n = tabGet c.team.groups n) :
    TrapTaken s t c k := by
  obtain ⟨rest, teams, ⟨tm, hteam, cause, same, requests, traps, own, rest_⟩, slot⟩ := taken
  refine ⟨congrArg (fun x : State => { x with teams := s.teams }) rest, fun n hn => (teams n hn).trans (others n hn),
    ⟨tm, hteam, cause, congrArg (fun x : Team => { x with groups := c.team.groups }) same, requests, traps, own, fun n hn => ?_⟩, slot⟩
  exact (rest_ n hn).trans (groups n hn)

/-- A split that does not wait ends its wait, and its group is as it was. -/
theorem modSplit_unwaited {g : Group} (calm : ∀ sp ∈ g.splits, sp.wait = .none) (i : Nat) :
    g.modSplit i (fun sp => { sp with wait := .none }) = g := by
  have same : g.splits.map (fun sp => if sp.idx = i then { sp with wait := .none } else sp) = g.splits := by
    refine (List.map_congr_left fun sp hsp => ?_).trans (List.map_id _)
    have unwaited : { sp with wait := .none } = sp := by rw [← calm sp hsp]
    rw [unwaited, ite_self, id]
  rw [Group.modSplit, same]

/-- A trap after a change of the issuing split's group that leaves the group as it is. -/
theorem takeTrap_modGroup {s : State} {c : Ctx} (h : ctx? s = some c) {f : Group → Group} (same : f c.live = c.live) (k : Cond) :
    TrapTaken s (takeTrap (s.modGroup c.key c.group.num f) (unitSite s c) k) c k := by
  obtain ⟨-, team, -, group, -, -, queue, grid, -, -⟩ := ctxAt_spec h
  have found : tabGet (s.modGroup c.key c.group.num f).teams c.key = some { c.team with groups := tabMod c.team.groups c.group.num f } := by
    rw [State.modGroup, State.teams_modTeam, tabGet_tabMod_self, team, Option.map_some]
  have kept : tabGet (tabMod c.team.groups c.group.num f) c.group.num = some c.live := by
    rw [tabGet_tabMod_self, group, Option.map_some, same]
  have here : ctx? (s.modGroup c.key c.group.num f) = some { c with team := { c.team with groups := tabMod c.team.groups c.group.num f } } :=
    ctxAt_of_same h rfl found kept queue grid
  exact (takeTrap_spec here k).of_regrouped (fun n hn => tabGet_tabMod_ne _ _ hn) (fun n hn => tabGet_tabMod_ne _ _ hn)

theorem unitWith_taken {s : State} {c : Ctx} (h : ctx? s = some c) {conds : List Cond} {e : Eff} {k : Cond} (fits : Fits s c e)
    (low : lowest conds = some k) (act : State → State) : TrapTaken s (unitWith s c conds e act) c k := by
  rw [unitWith_traps fits low]
  exact takeTrap_spec h k

section Place
variable {s : State} {c : Ctx} {o : Nat} (inside : o + 16 ≤ c.team.spadSize)
include inside

theorem barPlace_own : barPlace s c false o = wholeCond (o % 16 != 0) 0x16 o 0 c.split.mask := by
  have room : decide (o + 16 > c.team.spadSize) = false := decide_eq_false (by omega)
  simp only [barPlace, room, Bool.false_and, Bool.and_false, wholeCond_false, List.nil_append]

theorem barPlace_odd (odd : o % 16 ≠ 0) : barPlace s c false o = [⟨0x16, o, 0, c.split.mask⟩] := by
  rw [barPlace_own inside, bne_iff_ne.2 odd, wholeCond_true]

theorem barPlace_even (even : o % 16 = 0) : barPlace s c false o = [] := by
  rw [barPlace_own inside, even]
  rfl

theorem barConds_odd (odd : o % 16 ≠ 0) : barConds s c false o = [⟨0x16, o, 0, c.split.mask⟩] := by
  simp only [barConds, barPlace_odd inside odd, List.isEmpty_cons, Bool.false_and, wholeCond_false, List.append_nil]

theorem barConds_even (even : o % 16 = 0) : barConds s c false o = wholeCond (!tagged s (barPa c false o)) 0x18 o 0 c.split.mask := by
  simp only [barConds, barPlace_even inside even, List.isEmpty_nil, Bool.true_and, List.nil_append]

end Place

section Stopped
variable {s : State} {c : Ctx} (h : ctx? s = some c) {w : BitVec 1} {a : BitVec 5} {k : Cond} (stopped : barConds s c (w == 1) (barOff c a) = [k])
include h stopped

theorem btest_stopped (b : BitVec 5) (d : BitVec 3) : ∃ t, exec (.btest w b a d) s = .next t ∧ TrapTaken s t c k := by
  have fits := fun bits : BitVec 32 => fits_of_noLanes (e := { p := [(d.toNat, c.split.mask, bits)] }) (c := c) s rfl rfl
  rw [exec_btest]
  simp only [execBtest, issue_eq h, stopped, List.isEmpty_cons, Bool.and_false, Bool.false_and, if_neg Bool.false_ne_true]
  exact ⟨_, rfl, unitWith_taken h (fits _) (lowest_one k) id⟩

omit h in
theorem barCond_of_stopped (hold : Bool) (code d1 : Nat) : barCond s c (w == 1) (barOff c a) hold code d1 = [] := by
  rw [barCond, stopped]
  rfl

theorem bexp_stopped (b : BitVec 5) : ∃ t, exec (.bexp w b a) s = .next t ∧ TrapTaken s t c k := by
  rw [exec_bexp]
  simp only [execBexp, issue_eq h, stopped, barCond_of_stopped stopped, List.append_nil]
  exact ⟨_, rfl, unitWith_taken h (fits_nil s c) (lowest_one k) _⟩

theorem binval_stopped : ∃ t, exec (.binval w a) s = .next t ∧ TrapTaken s t c k := by
  rw [exec_binval]
  simp only [execBinval, issue_eq h, stopped, barCond_of_stopped stopped, List.append_nil]
  exact ⟨_, rfl, unitWith_taken h (fits_nil s c) (lowest_one k) _⟩

theorem barv_stopped (released : releaseWaits s c = false) (d : BitVec 5) : ∃ t, exec (.barv w a d) s = .next t ∧ TrapTaken s t c k := by
  have fits := fun x : Word => fits_of_noLanes (e := { k := [(d.toNat, x)] }) (c := c) s rfl rfl
  rw [exec_barv]
  simp only [execBarv, issue_eq h, released, if_neg Bool.false_ne_true, stopped, barCond_of_stopped stopped, List.append_nil]
  exact ⟨_, rfl, unitWith_taken h (fits _) (lowest_one k) _⟩

theorem bwait_stopped (room : replayFull s c = false) (unit_ : s.unit.addr = c.split.pc) (calm : ∀ sp ∈ c.live.splits, sp.wait = .none) (b : BitVec 5) :
    ∃ t, exec (.bwait w b a) s = .next t ∧ TrapTaken s t c k := by
  have same : (fun g : Group => g.modSplit c.split.idx (fun sp => { sp with wait := .none })) c.live = c.live := modSplit_unwaited calm c.split.idx
  rw [exec_bwait]
  simp only [execBwait, issue_eq h, room, if_neg Bool.false_ne_true, bwaitOn, stopped, lowest_one, ← unit_]
  exact ⟨_, rfl, takeTrap_modGroup h same k⟩

end Stopped

section Reached
variable {s : State} {c : Ctx} (h : ctx? s = some c) {w : BitVec 1} {a : BitVec 5} (reached : barConds s c (w == 1) (barOff c a) = [])
include h reached

theorem bexp_beyond {b : BitVec 5} {n : Nat} (count : (c.group.kread b.toNat).toNat = n)
    (beyond : 0x7fffffff < n ∨ 0x7fffffff < (barAt s (barPa c (w == 1) (barOff c a))).tx.toInt + n) :
    ∃ t, exec (.bexp w b a) s = .next t ∧ TrapTaken s t c ⟨0x1a, barOff c a, n, c.split.mask⟩ := by
  have hold : (decide (n > 0x7fffffff) || decide ((barAt s (barPa c (w == 1) (barOff c a))).tx.toInt + n > 0x7fffffff)) = true := by
    rw [Bool.or_eq_true, decide_eq_true_iff, decide_eq_true_iff]
    exact beyond
  rw [exec_bexp]
  simp only [execBexp, issue_eq h, reached, barCond_of_reached reached, count, hold, wholeCond_true, List.nil_append]
  exact ⟨_, rfl, unitWith_taken h (fits_nil s c) (lowest_one _) _⟩

theorem barv_idle (d : BitVec 5) (released : releaseWaits s c = false) (idle : (barAt s (barPa c (w == 1) (barOff c a))).arrive = 0) :
    ∃ t, exec (.barv w a d) s = .next t ∧
      TrapTaken s t c ⟨0x19, barOff c a, (barAt s (barPa c (w == 1) (barOff c a))).tx.toNat, c.split.mask⟩ := by
  have fits := fun x : Word => fits_of_noLanes (e := { k := [(d.toNat, x)] }) (c := c) s rfl rfl
  rw [exec_barv]
  simp only [execBarv, issue_eq h, released, if_neg Bool.false_ne_true, reached, barCond_of_reached reached, beq_iff_eq.2 idle, wholeCond_true,
    List.nil_append]
  exact ⟨_, rfl, unitWith_taken h (fits _) (lowest_one _) _⟩

theorem binval_waited (waited : (barAt s (barPa c (w == 1) (barOff c a))).waiters ≠ 0) :
    ∃ t, exec (.binval w a) s = .next t ∧
      TrapTaken s t c ⟨0x15, barOff c a, (barAt s (barPa c (w == 1) (barOff c a))).waiters, c.split.mask⟩ := by
  rw [exec_binval]
  simp only [execBinval, issue_eq h, reached, barCond_of_reached reached, bne_iff_ne.2 waited, wholeCond_true, List.nil_append]
  exact ⟨_, rfl, unitWith_taken h (fits_nil s c) (lowest_one _) _⟩

end Reached

section Binit
variable {s : State} {c : Ctx} (h : ctx? s = some c) {w : BitVec 1} {a : BitVec 5}
include h

theorem binit_misplaced {o : Nat} {m : BitVec 32} (place : barPlace s c (w == 1) (barOff c a) = [⟨0x16, o, 0, m⟩]) (b : BitVec 5) :
    ∃ t, exec (.binit w b a) s = .next t ∧ TrapTaken s t c ⟨0x16, o, 0, m⟩ := by
  have low : ∀ hold n, lowest ([⟨0x16, o, 0, m⟩] ++ wholeCond hold 0x17 (barOff c a) n c.split.mask) = some ⟨0x16, o, 0, m⟩ := by
    intro hold n
    cases hold <;> rfl
  rw [exec_binit]
  simp only [execBinit, issue_eq h, place]
  exact ⟨_, rfl, unitWith_taken h (fits_nil s c) (low _ _) _⟩

theorem binit_refused (place : barPlace s c (w == 1) (barOff c a) = []) {b : BitVec 5} {n : Nat} (count : (c.group.kread b.toNat).toNat = n)
    (refused : tagged s (barPa c (w == 1) (barOff c a)) = true ∨ n = 0 ∨ 65535 < n) :
    ∃ t, exec (.binit w b a) s = .next t ∧ TrapTaken s t c ⟨0x17, barOff c a, n, c.split.mask⟩ := by
  have hold : (tagged s (barPa c (w == 1) (barOff c a)) || decide (n = 0) || decide (n > 65535)) = true := by
    rw [Bool.or_assoc, Bool.or_eq_true, Bool.or_eq_true, decide_eq_true_iff, decide_eq_true_iff]
    exact refused
  rw [exec_binit]
  simp only [execBinit, issue_eq h, place, count, List.isEmpty_nil, Bool.true_and, hold, wholeCond_true, List.nil_append]
  exact ⟨_, rfl, unitWith_taken h (fits_nil s c) (lowest_one _) _⟩

end Binit

theorem barrierTrapClaim : BarrierTrapClaim := by
  intro s c a h o trap pa inside
  refine ⟨fun odd b d => ?_, fun even new b d => ?_, fun even object => ?_⟩
  · have stopped : barConds s c ((0 : BitVec 1) == 1) (barOff c a) = [⟨0x16, o, 0, c.split.mask⟩] := barConds_odd inside odd
    have place : barPlace s c ((0 : BitVec 1) == 1) (barOff c a) = [⟨0x16, o, 0, c.split.mask⟩] := barPlace_odd inside odd
    exact ⟨btest_stopped h stopped b d, binit_misplaced h place b, binval_stopped h stopped⟩
  · have stopped : barConds s c ((0 : BitVec 1) == 1) (barOff c a) = [⟨0x18, o, 0, c.split.mask⟩] :=
      (barConds_even inside even).trans (by rw [new, Bool.not_false, wholeCond_true])
    have place : barPlace s c ((0 : BitVec 1) == 1) (barOff c a) = [] := barPlace_even inside even
    exact ⟨btest_stopped h stopped b d, bexp_stopped h stopped b, binval_stopped h stopped, fun released k => barv_stopped h stopped released k,
      fun room unit_ calm => bwait_stopped h stopped room unit_ calm b, fun refused => binit_refused h place rfl (.inr refused)⟩
  · have reached : barConds s c ((0 : BitVec 1) == 1) (barOff c a) = [] :=
      (barConds_even inside even).trans (by rw [object, Bool.not_true, wholeCond_false])
    have place : barPlace s c ((0 : BitVec 1) == 1) (barOff c a) = [] := barPlace_even inside even
    exact ⟨fun b => binit_refused h place rfl (.inl object), fun b beyond => bexp_beyond h reached rfl beyond,
      fun idle released d => barv_idle h reached d released idle, fun waited => binval_waited h reached waited⟩

/-- Settles O19: each form by its run over an object that its operand reaches, whose 16 bytes hold what was written; each trap by the one condition
that holds. The second detail of 0x19, `tx` without a sign, is the model's choice (log 89). -/
theorem barrierResults : Obligations.BarrierResults := ⟨barrierClaim, barrierTrapClaim⟩

end Sys2Proof.Machine

/-! ## Values between memory and lane registers (06 R182, R185, R186) -/

namespace Sys2Proof.Machine

open Sys2Proof

/-! ### Writes of consecutive lane registers -/

/-- Writes of `k` lane registers from `d` in the lanes of `m`. -/
def laneWrites (d : Nat) (m : BitVec 32) (k : Nat) (f : Nat → Nat → Word) : List (Nat × BitVec 32 × (Nat → Word)) :=
  (List.range k).map (fun j => (d + j, m, f j))

theorem loadWrites_eq (d n : Nat) (m : BitVec 32) (f : Nat → Nat) :
    loadWrites d n m f = laneWrites d m ((n + 3) / 4) (fun j l => BitVec.ofNat 32 (f l / 2 ^ (32 * j))) := rfl

theorem distinct_laneWrites (fr : List Nat) (d : Nat) (m : BitVec 32) (k : Nat) (f : Nat → Nat → Word) :
    Eff.distinct { frees := fr, v := laneWrites d m k f } := by
  refine ⟨?_, .nil, .nil, .nil⟩
  rw [laneWrites, List.map_map]
  exact List.nodup_range.map (fun a b same => by simpa using same)

theorem vwrite_congr (g : Group) (n : Nat) {m : BitVec 32} {f f' : Nat → Word} (same : ∀ l < 32, m.getLsbD l = true → f l = f' l) :
    g.vwrite n m f = g.vwrite n m f' := by
  have lanes : allLanes.map (fun l => if m.getLsbD l then f l else g.vlane n l) = allLanes.map (fun l => if m.getLsbD l then f' l else g.vlane n l) := by
    refine List.map_congr_left fun l hl => ?_
    split
    · rename_i acts
      exact same l (by simpa [allLanes] using hl) acts
    · rfl
  rw [Group.vwrite, lanes, Group.vwrite]

/-- Lanes outside the mask of the writes may get anything. -/
theorem apply_laneWrites_congr (g : Group) (fr : List Nat) (d : Nat) {m : BitVec 32} {k : Nat} {f f' : Nat → Nat → Word}
    (same : ∀ j < k, ∀ l < 32, m.getLsbD l = true → f j l = f' j l) :
    g.apply { frees := fr, v := laneWrites d m k f } = g.apply { frees := fr, v := laneWrites d m k f' } := by
  simp only [Group.apply, laneWrites, List.foldl_map, List.foldl_nil]
  exact List.foldl_ext _ _ _ fun g j hj => vwrite_congr g (d + j) (same j (List.mem_range.1 hj))

/-! ### What a unit needs of the pool does not depend on the values (04 R122, R123) -/

theorem tabPut_keys {β : Type} {t t' : Tab β} (same : t.map (·.1) = t'.map (·.1)) (k : Nat) (v v' : β) :
    (tabPut t k v).map (·.1) = (tabPut t' k v').map (·.1) := by
  induction t generalizing t' with
  | nil =>
    rw [List.map_nil, eq_comm, List.map_eq_nil_iff] at same
    subst same
    rfl
  | cons x t ih =>
    cases t' with
    | nil => cases same
    | cons y t' =>
      simp only [List.map_cons, List.cons.injEq] at same
      obtain ⟨key, rest⟩ := same
      simp only [tabPut, key]
      split
      · simp [rest]
      · split
        · simp [rest]
        · simp [ih rest]

theorem vwrite_keys {g g' : Group} (same : g.v.map (·.1) = g'.v.map (·.1)) (n : Nat) (m : BitVec 32) (f f' : Nat → Word) :
    (g.vwrite n m f).v.map (·.1) = (g'.vwrite n m f').v.map (·.1) := by
  unfold Group.vwrite
  split
  · exact same
  · exact tabPut_keys same ..

theorem heldCount_laneWrites (g : Group) (fr : List Nat) (d : Nat) (m : BitVec 32) (k : Nat) (f f' : Nat → Nat → Word) :
    (g.apply { frees := fr, v := laneWrites d m k f }).heldCount = (g.apply { frees := fr, v := laneWrites d m k f' }).heldCount := by
  have keys : ∀ (js : List Nat) (x y : Group), x.v.map (·.1) = y.v.map (·.1) →
      (js.foldl (fun g j => g.vwrite (d + j) m (f j)) x).v.map (·.1) = (js.foldl (fun g j => g.vwrite (d + j) m (f' j)) y).v.map (·.1) := by
    intro js
    induction js with
    | nil => exact fun x y same => same
    | cons j t ih => exact fun x y same => ih _ _ (vwrite_keys same ..)
  have length := congrArg List.length (keys (List.range k) (g.freed { frees := fr }) _ rfl)
  rw [List.length_map, List.length_map] at length
  simp only [Group.heldCount, Group.apply, laneWrites, List.foldl_map, List.foldl_nil]
  exact length

theorem created_laneWrites (g : Group) (fr : List Nat) (d : Nat) (m : BitVec 32) (k : Nat) (f f' : Nat → Nat → Word) :
    created g { frees := fr, v := laneWrites d m k f } = created g { frees := fr, v := laneWrites d m k f' } := by
  simp only [created, laneWrites, List.filter_map, List.map_map, Function.comp_def]
  rfl

theorem peakCond_laneWrites (c : Ctx) (fr : List Nat) (d : Nat) (m : BitVec 32) (k : Nat) (f f' : Nat → Nat → Word) :
    peakCond c { frees := fr, v := laneWrites d m k f } = peakCond c { frees := fr, v := laneWrites d m k f' } := by
  unfold peakCond
  dsimp only
  rw [created_laneWrites c.live fr d m k f f', heldCount_laneWrites c.live fr d m k f f']

theorem poolOk_laneWrites (c : Ctx) (fr : List Nat) (d : Nat) (m : BitVec 32) (k : Nat) (f f' : Nat → Nat → Word) :
    poolOk c { frees := fr, v := laneWrites d m k f } = poolOk c { frees := fr, v := laneWrites d m k f' } := by
  unfold poolOk
  dsimp only
  rw [heldCount_laneWrites c.live fr d m k f f']
  rfl

theorem fits_laneWrites {s : State} {c : Ctx} {fr : List Nat} {d : Nat} {m : BitVec 32} {k : Nat} {f : Nat → Nat → Word}
    (fits : Fits s c { frees := fr, v := laneWrites d m k f }) (f' : Nat → Nat → Word) : Fits s c { frees := fr, v := laneWrites d m k f' } := by
  obtain ⟨peak, pool⟩ := fits
  exact ⟨(peakCond_laneWrites c fr d m k f' f).trans peak, (poolOk_laneWrites c fr d m k f' f).trans pool⟩

/-! ### The number that bytes hold -/

theorem natOfBytes_drop (bs : List Byte) (k : Nat) : natOfBytes (bs.drop k) = natOfBytes bs / 2 ^ (8 * k) := by
  induction k generalizing bs with
  | zero => simp
  | succ k ih =>
    cases bs with
    | nil => simp [natOfBytes]
    | cons b t =>
      have low : b.toNat < 256 := b.isLt
      have rest : natOfBytes (b :: t) / 2 ^ 8 = natOfBytes t := by
        rw [natOfBytes]
        omega
      rw [List.drop_succ_cons, ih, Nat.mul_succ, Nat.add_comm, Nat.pow_add, ← Nat.div_div_eq_div_mul, rest]

theorem natOfBytes_take (bs : List Byte) (k : Nat) : natOfBytes (bs.take k) = natOfBytes bs % 2 ^ (8 * k) := by
  induction k generalizing bs with
  | zero => simp [natOfBytes, Nat.mod_one]
  | succ k ih =>
    cases bs with
    | nil => simp [natOfBytes]
    | cons b t =>
      have low : b.toNat < 256 := b.isLt
      have first : (b.toNat + 256 * natOfBytes t) % 2 ^ 8 = b.toNat := by omega
      have rest : (b.toNat + 256 * natOfBytes t) / 2 ^ 8 = natOfBytes t := by omega
      rw [List.take_succ_cons, natOfBytes, ih, natOfBytes, Nat.mul_succ, Nat.add_comm (8 * k), Nat.pow_add, Nat.mod_mul, first, rest]

/-- Word `j` of a value is the number of its four bytes. -/
theorem word_of_bytes (bs : List Byte) (j : Nat) :
    BitVec.ofNat 32 (natOfBytes bs / 2 ^ (32 * j)) = BitVec.ofNat 32 (natOfBytes ((bs.drop (4 * j)).take 4)) := by
  rw [natOfBytes_take, natOfBytes_drop, ← Nat.mul_assoc]
  exact BitVec.eq_of_toNat_eq (by simp only [BitVec.toNat_ofNat, Nat.mod_mod, Nat.reduceMul])

theorem signedOf_eq_toInt (w v : Nat) (pos : 0 < w) : signedOf w v = (BitVec.ofNat w v).toInt := by
  obtain ⟨k, rfl⟩ : ∃ k, w = k + 1 := ⟨w - 1, by omega⟩
  rw [signedOf, BitVec.toInt, BitVec.toNat_ofNat, Nat.add_sub_cancel, Nat.pow_succ]
  split <;> rename_i small <;> split <;> rename_i small'
  · rfl
  · omega
  · omega
  · push_cast
    ring

/-- A value below four bytes is extended by its sign where the mode says so (06 R182). -/
theorem extendTo_short {n : Nat} (lo : 0 < n) (hi : n < 4) (sx : Bool) {v : Nat} :
    BitVec.ofNat 32 (extendTo n sx v) = if sx then (BitVec.ofNat (8 * n) v).signExtend 32 else BitVec.ofNat 32 v := by
  have short : decide (n < 4) = true := decide_eq_true hi
  cases sx
  · rfl
  · simp only [extendTo, short, Bool.and_true, if_true, wordOfInt, BitVec.ofNat_toNat, BitVec.setWidth_eq]
    rw [signedOf_eq_toInt _ _ (by omega), BitVec.signExtend]

theorem extendTo_long {n : Nat} (hi : 4 ≤ n) (sx : Bool) (v : Nat) : extendTo n sx v = v := by
  have long : decide (n < 4) = false := decide_eq_false (by omega)
  rw [extendTo, long, Bool.and_false, if_neg Bool.false_ne_true]

/-- The sizes of an access of one lane (06 R182). -/
def LaneSize (n : Nat) : Prop := n = 1 ∨ n = 2 ∨ n = 4 ∨ n = 8 ∨ n = 16

theorem laneSize_sizeOf (sz : BitVec 2) : LaneSize (sizeOf sz) := by
  revert sz
  unfold LaneSize
  decide

/-- The words that the statements give a loaded value are those that a load writes (06 R182). -/
theorem loadedWords_eq {n : Nat} (size : LaneSize n) (d : Nat) (sx : Bool) (m : BitVec 32) (bytes : Nat → List Byte) :
    loadedWords d n sx m bytes = loadWrites d n m (fun l => extendTo n sx (natOfBytes (bytes l))) := by
  have pos : 0 < n := by rcases size with rfl | rfl | rfl | rfl | rfl <;> decide
  unfold loadedWords
  split
  · rename_i short
    have one : (n + 3) / 4 = 1 := by omega
    simp only [loadWrites, one, List.range_one, List.map_cons, List.map_nil, Nat.add_zero, Nat.mul_zero, Nat.pow_zero, Nat.div_one,
      extendTo_short pos short]
  · rename_i long
    have words : n / 4 = (n + 3) / 4 := by rcases size with rfl | rfl | rfl | rfl | rfl <;> omega
    simp only [loadWrites, extendTo_long (Nat.not_lt.1 long), words, word_of_bytes]

theorem fits_loaded {s : State} {c : Ctx} {fr : List Nat} {d n : Nat} {sx : Bool} {m : BitVec 32} {bytes : Nat → List Byte} (size : LaneSize n)
    (fits : Fits s c { frees := fr, v := loadedWords d n sx m bytes }) (f : Nat → Nat) : Fits s c { frees := fr, v := loadWrites d n m f } := by
  rw [loadedWords_eq size, loadWrites_eq] at fits
  exact fits_laneWrites fits _

theorem distinct_loadWrites (fr : List Nat) (d n : Nat) (m : BitVec 32) (f : Nat → Nat) : Eff.distinct { frees := fr, v := loadWrites d n m f } :=
  distinct_laneWrites fr d m _ _

/-- A load that finds the same numbers in the acting lanes ends the same. -/
theorem finish_loadWrites (s : State) (c : Ctx) (fr : List Nat) (d n : Nat) {m : BitVec 32} {f f' : Nat → Nat}
    (same : ∀ l < 32, m.getLsbD l = true → f l = f' l) :
    finish s c { frees := fr, v := loadWrites d n m f } = finish s c { frees := fr, v := loadWrites d n m f' } :=
  finish_congr (fun g => apply_laneWrites_congr g fr d (fun j _ l hl acts => by rw [same l hl acts])) s c

theorem length_memGetMany (mem : List Host.Cell) (pa n : Nat) : (memGetMany mem pa n).length = n := by
  induction n generalizing pa with
  | zero => rfl
  | succ n ih => rw [memGetMany, List.length_cons, ih]

theorem memGetMany_eq_map (mem : List Host.Cell) (pa n : Nat) : memGetMany mem pa n = (List.range n).map (fun j => memGet mem (pa + j)) := by
  refine List.ext_getElem? fun j => ?_
  by_cases hj : j < n
  · rw [getElem?_memGetMany mem pa hj, List.getElem?_map, List.getElem?_range hj]
    rfl
  · rw [List.getElem?_eq_none (by rw [length_memGetMany]; omega), List.getElem?_eq_none (by rw [List.length_map, List.length_range]; omega)]

end Sys2Proof.Machine

/-! ## Bytes that lanes store (06 R182, R186; 03 R87) -/

namespace Sys2Proof.Machine

open Sys2Proof

theorem getD_bytesOf (n v : Nat) {j : Nat} (hj : j < n) : (bytesOf n v).getD j 0 = BitVec.ofNat 8 (v / 2 ^ (8 * j)) := by
  induction n generalizing v j with
  | zero => omega
  | succ n ih =>
    cases j with
    | zero =>
      simp [bytesOf]
    | succ j =>
      rw [bytesOf, List.getD_cons_succ, ih (v / 256) (by omega), Nat.mul_succ, Nat.add_comm, Nat.pow_add, ← Nat.div_div_eq_div_mul]

theorem getD_words (w : Nat → Nat) (k : Nat) {j : Nat} (hj : j < 4 * k) :
    ((List.range k).flatMap (fun i => bytesOf 4 (w i))).getD j 0 = BitVec.ofNat 8 (w (j / 4) / 2 ^ (8 * (j % 4))) := by
  have length : ∀ k, ((List.range k).flatMap (fun i => bytesOf 4 (w i))).length = 4 * k := by
    intro k
    rw [List.length_flatMap]
    simp only [bytesOf_length, List.map_const', List.length_range, List.sum_replicate, smul_eq_mul, Nat.mul_comm]
  induction k with
  | zero => omega
  | succ k ih =>
    rw [List.range_succ, List.flatMap_append, List.flatMap_singleton, List.getD_eq_getElem?_getD]
    by_cases before : j < 4 * k
    · rw [List.getElem?_append_left (by rw [length]; exact before), ← List.getD_eq_getElem?_getD, ih before]
    · rw [List.getElem?_append_right (by rw [length]; omega), length, ← List.getD_eq_getElem?_getD, getD_bytesOf 4 _ (by omega)]
      have word : j / 4 = k := by omega
      have byte : j % 4 = j - 4 * k := by omega
      rw [word, byte]

/-- Byte `j` of what a lane stores (06 R182). -/
theorem getD_storeBytes (c : Ctx) (d n l : Nat) {j : Nat} (hj : j < n) : (storeBytes c.group d n l).getD j 0 = storedByte c d l j := by
  generalize words : (List.range ((n + 3) / 4)).flatMap (fun i => bytesOf 4 (c.group.vlane (d + i) l).toNat) = bs
  have inside : j < 4 * ((n + 3) / 4) := by omega
  have enough : j < bs.length := by
    rw [← words, List.length_flatMap]
    simp only [bytesOf_length, List.map_const', List.length_range, List.sum_replicate, smul_eq_mul]
    omega
  have whole := getD_bytesOf bs.length (natOfBytes bs) enough
  rw [bytesOf_natOfBytes, ← words, getD_words _ _ inside, words] at whole
  rw [storeBytes, words, getD_bytesOf n _ hj, ← whole, storedByte]
  exact BitVec.eq_of_toNat_eq (by rw [BitVec.extractLsb'_toNat, BitVec.toNat_ofNat, Nat.shiftRight_eq_div_pow])

/-- Lanes write their bytes one after another. -/
def writeLanes (s : State) (pa : Nat → Nat) (data : Nat → List Byte) (ls : List Nat) : State := ls.foldl (fun s l => s.write (pa l) (data l)) s

section Lanes
variable {pa : Nat → Nat} {data : Nat → List Byte} {n : Nat} (size : ∀ l, (data l).length = n)
include size

/-- A byte that no lane stores is as it was. -/
theorem byteAt_writeLanes_outside (s : State) (ls : List Nat) {a : Nat} (outside : ∀ l ∈ ls, ¬ (pa l ≤ a ∧ a < pa l + n)) :
    (writeLanes s pa data ls).byteAt a = s.byteAt a := by
  induction ls generalizing s with
  | nil => rfl
  | cons x t ih =>
    have apart : a < pa x ∨ pa x + (data x).length ≤ a := by
      have := outside x (List.mem_cons_self ..)
      rw [size]
      omega
    exact (ih (s.write (pa x) (data x)) (fun l hl => outside l (List.mem_cons_of_mem _ hl))).trans (byteAt_write_outside s (data x) apart)

/-- A byte that lanes store is the highest one's (03 R87). -/
theorem byteAt_writeLanes {s : State} (inv : s.Inv) {ls : List Nat} (rising : ls.Pairwise (· < ·)) {l a : Nat} (hl : l ∈ ls) (lo : pa l ≤ a)
    (hi : a < pa l + n) (highest : ∀ h ∈ ls, l < h → ¬ (pa h ≤ a ∧ a < pa h + n)) :
    (writeLanes s pa data ls).byteAt a = (data l).getD (a - pa l) 0 := by
  induction ls generalizing s with
  | nil => cases hl
  | cons x t ih =>
    obtain ⟨first, rest⟩ := List.pairwise_cons.1 rising
    have later : writeLanes s pa data (x :: t) = writeLanes (s.write (pa x) (data x)) pa data t := rfl
    rw [later]
    rcases List.mem_cons.1 hl with rfl | hl
    · rw [byteAt_writeLanes_outside size _ t (fun h hh => highest h (List.mem_cons_of_mem _ hh) (first h hh))]
      have written := byteAt_write_same inv (pa l) (data l) (j := a - pa l) (by rw [size]; omega)
      rwa [Nat.add_sub_cancel' lo] at written
    · exact ih (State.wf_write _ _ inv) rest hl (fun h hh => highest h (List.mem_cons_of_mem _ hh))

end Lanes

theorem rising_lanesOf (m : BitVec 32) : (lanesOf m).Pairwise (· < ·) := List.Pairwise.filter _ List.pairwise_lt_range

end Sys2Proof.Machine

/-! ## Scratchpad and window accesses (06 R177, R178, R186; 03 R87, R89) -/

namespace Sys2Proof.Machine

open Sys2Proof

theorem find_map_spad {f : Nat → SpadLook} (hf : ∀ l, (f l).lane = l) {ls : List Nat} {l : Nat} (h : l ∈ ls) :
    (ls.map f).find? (fun k => k.lane == l) = some (f l) := by
  induction ls with
  | nil => cases h
  | cons a t ih =>
    rw [List.map_cons, List.find?_cons, hf]
    by_cases here : a = l
    · rw [here, beq_self_eq_true]
    · rw [beq_false_of_ne here]
      exact ih ((List.mem_cons.1 h).resolve_left (Ne.symm here))

/-- A unit whose lanes have no condition, and are behind no earlier access, takes effect. -/
theorem spadCourse_open {s : State} {c : Ctx} {looks : List SpadLook} {e : Eff} (fits : Fits s c e)
    (clear : ∀ k ∈ looks, k.traps = [] ∧ behindEarlier s c k.pa k.n = false) (act : State → State) :
    spadCourse s c looks e act = finish (act s) c e := by
  have none_ : looks.flatMap (·.traps) = [] := List.flatMap_eq_nil_iff.2 fun k hk => (clear k hk).1
  have first : looks.any (fun k => behindEarlier s c k.pa k.n) = false := by
    rw [List.any_eq_false]
    exact fun k hk => by rw [(clear k hk).2]; exact Bool.false_ne_true
  have conds : condsOf none [] = [] := rfl
  simp only [spadCourse, none_, first, conds, Bool.and_false, if_neg Bool.false_ne_true, unitWith_of_fits fits]

theorem exec_lds (r : BitVec 1) (l : BitVec 4) (sz : BitVec 2) (i : BitVec 6) (k : BitVec 5) (d : BitVec 6) (s : State) :
    exec (.lds r l sz i k d) s = execLds r l sz i k d s := rfl
theorem exec_sts (r : BitVec 1) (l : BitVec 4) (sz : BitVec 2) (i : BitVec 6) (k : BitVec 5) (d : BitVec 6) (s : State) :
    exec (.sts r l sz i k d) s = execSts r l sz i k d s := rfl
theorem exec_ldsd (r : BitVec 1) (l : BitVec 4) (sz : BitVec 2) (i : BitVec 6) (k : BitVec 5) (d : BitVec 6) (s : State) :
    exec (.ldsd r l sz i k d) s = execLdsd r l sz i k d s := rfl
theorem exec_stsd (r : BitVec 1) (l : BitVec 4) (sz : BitVec 2) (i : BitVec 6) (k : BitVec 5) (d : BitVec 6) (s : State) :
    exec (.stsd r l sz i k d) s = execStsd r l sz i k d s := rfl

/-- A scratchpad form is a load or a store of lanes that each look at `n` bytes. -/
theorem spadForm_runs {i : Instr} {s : State} {c : Ctx} {st : Bool} {d n : Nat} {fr : List Nat} {look : Nat → SpadLook} (h : ctx? s = some c)
    (form : spadForm s c i = some (st, d, n, fr, look)) :
    LaneSize n ∧ (∀ l, (look l).lane = l) ∧ (∀ l, (look l).n = n) ∧
      exec i s = .next (if st then spadStore s c d n fr look else spadLoad s c d n fr look) := by
  unfold spadForm at form
  split at form <;> cases form
  · exact ⟨laneSize_sizeOf _, fun _ => rfl, fun _ => rfl, by rw [exec_lds, execLds, issue_eq h]; rfl⟩
  · exact ⟨laneSize_sizeOf _, fun _ => rfl, fun _ => rfl, by rw [exec_sts, execSts, issue_eq h]; rfl⟩
  · exact ⟨laneSize_sizeOf _, fun _ => rfl, fun _ => rfl, by rw [exec_ldsd, execLdsd, issue_eq h]; rfl⟩
  · exact ⟨laneSize_sizeOf _, fun _ => rfl, fun _ => rfl, by rw [exec_stsd, execStsd, issue_eq h]; rfl⟩

theorem ofMemory_write (s : State) (pa : Nat) (bs : List Byte) : OfMemory s (s.write pa bs) := rfl

theorem OfMemory.trans {s t u : State} (first : OfMemory s t) (next : OfMemory t u) : OfMemory s u := by
  unfold OfMemory at first
  rw [← next, ← first]
  rfl

theorem ofMemory_writeLanes (s : State) (pa : Nat → Nat) (data : Nat → List Byte) (ls : List Nat) : OfMemory s (writeLanes s pa data ls) := by
  induction ls generalizing s with
  | nil => rfl
  | cons l t ih => exact (ofMemory_write s (pa l) (data l)).trans (ih _)

theorem tags_writeLanes (s : State) (pa : Nat → Nat) (data : Nat → List Byte) (ls : List Nat) : (writeLanes s pa data ls).tags = s.tags := by
  induction ls generalizing s with
  | nil => rfl
  | cons l t ih => exact (ih _).trans rfl

section Spad
variable {s : State} {c : Ctx} (h : ctx? s = some c) {d n : Nat} {fr : List Nat} {look : Nat → SpadLook} (lanes : ∀ l, (look l).lane = l)
  (size : ∀ l, (look l).n = n)
  (clear : ∀ l < 32, (acting s c).getLsbD l = true → (look l).traps = [] ∧ behindEarlier s c (look l).pa (look l).n = false)
include h lanes size clear

omit h lanes size in
theorem looks_clear : ∀ k ∈ (lanesOf (acting s c)).map look, k.traps = [] ∧ behindEarlier s c k.pa k.n = false := by
  intro k hk
  obtain ⟨l, hl, rfl⟩ := List.mem_map.1 hk
  obtain ⟨lt, acts⟩ := mem_lanesOf.1 hl
  exact clear l lt acts

theorem spadLoad_completes (laneSize : LaneSize n) (fits : Fits s c { frees := fr, v := loadedWords d n false (acting s c) (fun _ => []) }) :
    Completes s (spadLoad s c d n fr look) c { frees := fr, v := loadedWords d n false (acting s c) (fun l => s.bytes (look l).pa n) } := by
  have numbers : ∀ l < 32, (acting s c).getLsbD l = true →
      spadNum s ((lanesOf (acting s c)).map look) l = extendTo n false (natOfBytes (s.bytes (look l).pa n)) := by
    intro l lt acts
    rw [spadNum, find_map_spad lanes (mem_lanesOf.2 ⟨lt, acts⟩)]
    dsimp only
    rw [size]
    rfl
  rw [spadLoad, spadCourse_open (fits_loaded laneSize fits _) (looks_clear clear), id, finish_loadWrites s c fr d n numbers, loadedWords_eq laneSize]
  exact finishAt_spec h (distinct_loadWrites ..) _

omit h size in
theorem spadStore_eq (fits : Fits s c { frees := fr }) : spadStore s c d n fr look =
    finish (writeLanes s (fun l => (look l).pa) (fun l => storeBytes c.group d n l) (lanesOf (acting s c))) c { frees := fr } := by
  rw [spadStore, spadCourse_open fits (looks_clear clear), List.foldl_map]
  simp only [lanes]
  rfl

end Spad

theorem scratchpadClaim : ScratchpadClaim := by
  intro i s c d n fr look h clear
  refine ⟨fun form fits => ?_, fun form fits inv => ?_⟩
  · obtain ⟨laneSize, lanes, size, run⟩ := spadForm_runs h form
    exact ⟨_, run, spadLoad_completes h lanes size clear laneSize fits⟩
  · obtain ⟨laneSize, lanes, -, run⟩ := spadForm_runs h form
    rw [if_pos rfl, spadStore_eq lanes clear fits] at run
    have width : ∀ l, (storeBytes c.group d n l).length = n := fun l => bytesOf_length ..
    have distinct : Eff.distinct { frees := fr } := ⟨.nil, .nil, .nil, .nil⟩
    refine ⟨_, run, ?_, fun l lt a ⟨acts, lo, hi⟩ highest => ?_, fun a outside => ?_⟩
    · have done := finish_ofMemory (ofMemory_writeLanes s (fun l => (look l).pa) (fun l => storeBytes c.group d n l) (lanesOf (acting s c))) h distinct
      rw [withMemory, finish_tags, tags_writeLanes] at done
      exact done
    · rw [byteAt_of_mem (finish_mem ..), byteAt_writeLanes width inv (rising_lanesOf _) (mem_lanesOf.2 ⟨lt, acts⟩) lo hi ?_, getD_storeBytes c d n l (by omega)]
      intro k hk later covers
      obtain ⟨kt, kacts⟩ := mem_lanesOf.1 hk
      exact highest k kt later ⟨kacts, covers⟩
    · rw [byteAt_of_mem (finish_mem ..), byteAt_writeLanes_outside width s _ fun l hl covers => ?_]
      obtain ⟨lt, acts⟩ := mem_lanesOf.1 hl
      exact outside l lt ⟨acts, covers⟩

/-- Settles O14: the values of a load lane by lane, the bytes of a store by its lanes in ascending order. What an access that straddles the edge of the
team's own allocation meets is the model's choice (log 102). -/
theorem scratchpadResults : Obligations.ScratchpadResults := scratchpadClaim

end Sys2Proof.Machine

/-! ## What a load delivers, and what its walks leave (06 R182 to R185; 07 R227, R228, R236, R237) -/

namespace Sys2Proof.Machine

open Sys2Proof

/-! ### Classes of the bytes read (07 R236, R237) -/

theorem mem_linesOf {pa n j : Nat} (hj : j < n) : (pa + j) / 128 ∈ linesOf pa n := by
  have some_ : n ≠ 0 := by omega
  rw [linesOf, if_neg some_, List.mem_map]
  exact ⟨(pa + j) / 128 - pa / 128, List.mem_range.2 (by omega), by omega⟩

/-- A piece of which no class is denied has no denied byte. -/
theorem byteDenied_of_admitted {s : State} {q : Queue} {p : Piece} (admitted : deniedClass s q p = none) {j : Nat} (hj : j < p.n) :
    byteDenied s q p j = false := by
  rw [deniedClass, List.min?_eq_none_iff, List.filter_eq_nil_iff] at admitted
  have own := admitted p.x.cls (List.mem_cons_self ..)
  have line := admitted _ (List.mem_cons_of_mem _ (List.mem_map_of_mem (mem_linesOf (pa := p.pa) hj)))
  simp only [Bool.not_eq_true', Bool.not_eq_false] at own line
  rw [byteDenied, own, line]
  rfl

/-- A piece read byte by byte, denied bytes as zeros, whether or not one is denied. -/
theorem readPiece_bytes (s : State) (q : Queue) (p : Piece) :
    readPiece s q p = (List.range p.n).map (fun j => if byteDenied s q p j then 0 else s.byteAt (p.pa + j)) := by
  rw [readPiece]
  split
  · rename_i admitted
    rw [State.bytes, memGetMany_eq_map]
    refine List.map_congr_left fun j hj => ?_
    rw [byteDenied_of_admitted (Option.isNone_iff_eq_none.1 admitted) (List.mem_range.1 hj), if_neg Bool.false_ne_true]
    rfl
  · rfl

/-- Where the read-only path serves no older value, it reads as a load does (03 R85). -/
theorem readOnlyPath_eq {s : State} (none_ : ∀ x ∈ s.past, x.on = false) (q : Queue) (grid : Nat) (p : Piece) :
    readOnlyPath s q grid p = readPiece s q p := by
  have now : ∀ a, roByte s grid a = s.byteAt a := by
    intro a
    have unmatched : s.past.find? (fun x => x.on && x.grid == grid && x.unit == a / 8) = none :=
      List.find?_eq_none.2 fun x hx => by rw [none_ x hx]; exact Bool.false_ne_true
    rw [roByte, unmatched]
    rfl
  simp only [readOnlyPath, now, readPiece_bytes]

/-! ### The looks of a unit's lanes -/

theorem lane_looksOf (s : State) (c : Ctx) (acc : Acc) (m : BitVec 32) (n : Nat) (ea : Nat → Nat) (ro : Bool) :
    (looksOf s c acc m n ea ro).map (·.lane) = lanesOf m := by
  rw [looksOf, List.map_map]
  exact (List.map_congr_left fun l _ => lookAt_lane ..).trans (List.map_id _)

theorem forall_looksOf {s : State} {c : Ctx} {acc : Acc} {m : BitVec 32} {n : Nat} {ea : Nat → Nat} {ro : Bool} {P : Nat → Look → Prop}
    (all : ∀ l < 32, m.getLsbD l = true → P l (lookAt s c acc (tabGet c.group.lastPage l) true l (ea l) n n ro)) :
    ∀ k ∈ looksOf s c acc m n ea ro, P k.lane k := by
  intro k hk
  obtain ⟨l, hl, rfl⟩ := List.mem_map.1 hk
  obtain ⟨lt, acts⟩ := mem_lanesOf.1 hl
  rw [lookAt_lane]
  exact all l lt acts

theorem exists_looksOf {s : State} {c : Ctx} {acc : Acc} {m : BitVec 32} {n : Nat} {ea : Nat → Nat} {ro : Bool} {l : Nat} (hl : l < 32) :
    m.getLsbD l = true ↔ ∃ k ∈ looksOf s c acc m n ea ro, k.lane = l := by
  have lanes : (∃ k ∈ looksOf s c acc m n ea ro, k.lane = l) ↔ l ∈ lanesOf m := by rw [← lane_looksOf s c acc m n ea ro, List.mem_map]
  rw [lanes, mem_lanesOf]
  exact (and_iff_right hl).symm

theorem pieces_looksOf {s : State} {c : Ctx} {acc : Acc} {m : BitVec 32} {n : Nat} {ea : Nat → Nat} {ro : Bool} (p : Nat → Piece) :
    (looksOf s c acc m n ea ro).map (fun k => p k.lane) = (lanesOf m).map p := by
  rw [← lane_looksOf s c acc m n ea ro, List.map_map]
  rfl

theorem find_looksOf (s : State) (c : Ctx) (acc : Acc) (n : Nat) (ea : Nat → Nat) (ro : Bool) {m : BitVec 32} {l : Nat} (hl : l < 32)
    (acts : m.getLsbD l = true) : (looksOf s c acc m n ea ro).find? (fun k => k.lane == l) =
      some (lookAt s c acc (tabGet c.group.lastPage l) true l (ea l) n n ro) :=
  find_map_lane (fun _ => lookAt_lane ..) _ (mem_lanesOf.2 ⟨hl, acts⟩)

/-- The number that a lane of a load delivers, of a state that may differ from the one looked at. -/
theorem loadNum_looksOf (s t : State) (c : Ctx) (n : Nat) (ea : Nat → Nat) (ro : Bool) {m : BitVec 32} {l : Nat} {p : Piece} (hl : l < 32)
    (acts : m.getLsbD l = true) (piece : (lookAt s c .load (tabGet c.group.lastPage l) true l (ea l) n n ro).piece = some p) :
    loadNum t c (looksOf s c .load m n ea ro) l = natOfBytes (readPiece t c.q p) := by
  rw [loadNum, find_looksOf s c .load n ea ro hl acts]
  dsimp only
  rw [piece]

theorem roNum_looksOf (s : State) {t : State} (c : Ctx) (n : Nat) (ea : Nat → Nat) (ro : Bool) {m : BitVec 32} {l : Nat} {p : Piece} (hl : l < 32)
    (acts : m.getLsbD l = true) (piece : (lookAt s c .load (tabGet c.group.lastPage l) true l (ea l) n n ro).piece = some p)
    (none_ : ∀ x ∈ t.past, x.on = false) : roNum t c (looksOf s c .load m n ea ro) l = natOfBytes (readPiece t c.q p) := by
  rw [roNum, find_looksOf s c .load n ea ro hl acts]
  dsimp only
  rw [piece]
  dsimp only
  rw [readOnlyPath_eq none_]

/-! ### The end of a load over its marks -/

/-- Marks leave the unit in its context. -/
theorem Marked.unit {s t : State} (marked : Marked s t) : t.unit = s.unit := by
  have same := congrArg State.unit marked.rest
  exact same

/-- The group of the issuing split, as a state holds it. -/
def HoldsGroup (s : State) (c : Ctx) : Prop := GroupAt s.teams s.teams c c.live

section Noted
variable {s : State} {c : Ctx} (here : HoldsGroup s c) (still : s.migrations = []) {looks : List Look} {p : Nat → Piece}
  (pieces : ∀ k ∈ looks, k.piece = some (p k.lane)) (once : (looks.map (·.lane)).Nodup)
include here still pieces once

/-- A load of lanes ends over the marks of its looks. -/
theorem finish_noted {m : BitVec 32} (lanes : ∀ l < 32, m.getLsbD l = true ↔ ∃ k ∈ looks, k.lane = l) {e : Eff} (distinct : e.distinct) :
    ∃ g', OnlyAccess s (finish (noteLooks s c false true looks) c e) c g' ∧ (finish (noteLooks s c false true looks) c e).bad = s.bad ∧
      GroupAccess c e s.unit.npc false m p g' ∧
      ∀ a, ¬ InWalked (looks.map (fun k => p k.lane)) a → (finish (noteLooks s c false true looks) c e).byteAt a = s.byteAt a := by
  obtain ⟨g, at_, marked, -, bad, bytes, only, pages⟩ := noteLooks_spec false true looks p pieces still c.live here once
  have named : ∀ l < 32, tabGet g.lastPage l =
      if m.getLsbD l = true ∧ (p l).x.region ≠ 1 then some (noted (p l).x false (p l).walked) else tabGet c.live.lastPage l := by
    intro l hl
    rw [pages l]
    simp only [lanes l hl, true_and]
  obtain ⟨g', access, group⟩ := finish_access distinct false m p marked.unit marked at_ only named
  exact ⟨g', access, bad, group, bytes⟩

end Noted

end Sys2Proof.Machine

/-! ## Loads of single lanes (06 R176, R182, R183) -/

namespace Sys2Proof.Machine

open Sys2Proof

theorem exec_ld (m r : BitVec 1) (l : BitVec 4) (sz : BitVec 2) (i : BitVec 6) (k : BitVec 4) (d : BitVec 6) (s : State) :
    exec (.ld m r l sz i k d) s = execLd m r l sz i k d s := rfl
theorem exec_ldRo (m r : BitVec 1) (l : BitVec 4) (sz : BitVec 2) (i : BitVec 6) (k : BitVec 4) (d : BitVec 6) (s : State) :
    exec (.ldRo m r l sz i k d) s = execLdRo m r l sz i k d s := rfl
theorem exec_ldQ (r : BitVec 1) (l : BitVec 4) (i : BitVec 6) (k d : BitVec 4) (s : State) :
    exec (.ldQ r l i k d) s = execLdQ r l i k d s := rfl

theorem loadForm_runs {i : Instr} {s : State} {c : Ctx} {d n : Nat} {sx : Bool} {fr : List Nat} {ea : Nat → Nat} (h : ctx? s = some c)
    (form : loadForm s c i = some (d, n, sx, fr, ea)) :
    LaneSize n ∧ ∃ look, exec i s = .next (loadLanes s c d n sx fr look ea (isRo i)) := by
  unfold loadForm at form
  split at form <;> cases form
  · exact ⟨laneSize_sizeOf _, _, by rw [exec_ld, execLd, issue_eq h]; rfl⟩
  · exact ⟨laneSize_sizeOf _, _, by rw [exec_ldRo, execLdRo, issue_eq h]; rfl⟩
  · exact ⟨.inr (.inr (.inr (.inr rfl))), _, by rw [exec_ldQ, execLdQ, issue_eq h]; rfl⟩

/-! ### The course of a load that only a denial can stop (07 R237) -/

theorem Look.opens.reads {s : State} {k : Look} {p : Piece} (o : k.opens s p) : k.reads s p := by
  obtain ⟨traps, fault, piece, -, near⟩ := o
  exact ⟨traps, fault, piece, near⟩

theorem looks_reads_near {s : State} {looks : List Look} {p : Nat → Piece} (reads : ∀ k ∈ looks, k.reads s (p k.lane)) :
    looks.any (Look.remote s) = false := by
  rw [List.any_eq_false]
  intro k hk
  obtain ⟨-, -, -, near⟩ := reads k hk
  rw [near]
  exact Bool.false_ne_true

theorem memCourse_reads {s : State} {c : Ctx} {e : Eff} (whole : Option (BitVec 32)) (path : Nat) {looks : List Look} (act : State → State) {p : Nat → Piece}
    (calm : Calm s c) (fits : Fits s c e) (reads : ∀ k ∈ looks, k.reads s (p k.lane)) :
    memCourse s c whole .load path looks [] e act = act (denialEvent s c whole path 0 looks) := by
  obtain ⟨peak, pool⟩ := fits
  have traps : looks.flatMap (·.traps) = [] := List.flatMap_eq_nil_iff.2 fun k hk => (reads k hk).1
  have faults : faultOf whole .load looks = none := by
    rw [faultOf, List.filter_eq_nil_iff.2 fun k hk => by rw [(reads k hk).2.1]; exact Bool.false_ne_true]
  have conds : condsOf whole [] = [] := rfl
  have first : lowest (peakCond c e ++ [] ++ condsOf whole []) = none := by
    rw [peak, conds]
    rfl
  simp only [memCourse, traps, first, faults, pool, mustWait_calm calm, Bool.not_true, Bool.or_self, if_neg Bool.false_ne_true]
  rfl

theorem denialEvent_admitted (s : State) (c : Ctx) (whole : Option (BitVec 32)) (path kind : Nat) {looks : List Look}
    (admitted : ∀ k ∈ looks, k.denied = none) : denialEvent s c whole path kind looks = s := by
  rw [denialEvent, List.filter_eq_nil_iff.2 fun k hk => by rw [admitted k hk]; exact Bool.false_ne_true]

section Course
variable {s s1 : State} {c : Ctx} {d n : Nat} {sx : Bool} {fr : List Nat} {ea : Nat → Nat} {ro : Bool} {p : Nat → Piece} (calm : Calm s c)
  (reads : ∀ l < 32, (acting s c).getLsbD l = true → (lookAt s c .load (tabGet c.group.lastPage l) true l (ea l) n n ro).reads s (p l))
  (event : denialEvent s c none 0 0 (looksOf s c .load (acting s c) n ea ro) = s1) (calm1 : Calm s1 c) (aged : ro = true → ∀ x ∈ s1.past, x.on = false)
include calm reads event calm1 aged

/-- A load that nothing but a denial stops ends over its marks, with the bytes that it reads once its audit event is made. -/
theorem loadLanes_reads (size : LaneSize n) (fits : Fits s c { frees := fr, v := loadedWords d n sx (acting s c) (fun _ => []) }) (look : Nat) :
    loadLanes s c d n sx fr look ea ro = finish (noteLooks s1 c false true (looksOf s c .load (acting s c) n ea ro)) c
      { frees := fr, v := loadedWords d n sx (acting s c) (fun l => readPiece s1 c.q (p l)) } := by
  have all : ∀ k ∈ looksOf s c .load (acting s c) n ea ro, k.reads s (p k.lane) := forall_looksOf (P := fun l k => k.reads s (p l)) reads
  have numbers : ∀ l < 32, (acting s c).getLsbD l = true →
      extendTo n sx (if ro then roNum s1 c (looksOf s c .load (acting s c) n ea ro) l else loadNum s1 c (looksOf s c .load (acting s c) n ea ro) l) =
        extendTo n sx (natOfBytes (readPiece s1 c.q (p l))) := by
    intro l hl acts
    obtain ⟨-, -, piece, -⟩ := reads l hl acts
    cases path : ro with
    | true =>
      subst path
      rw [if_pos rfl, roNum_looksOf s c n ea true hl acts piece (aged rfl)]
    | false =>
      subst path
      rw [if_neg Bool.false_ne_true, loadNum_looksOf s s1 c n ea false hl acts piece]
  rw [loadLanes, looks_reads_near all, Bool.false_and, if_neg Bool.false_ne_true, memCourse_reads none 0 _ calm (fits_loaded size fits _) all, event,
    if_neg Bool.false_ne_true, settle_calm calm1, loadedWords_eq size]
  exact finish_loadWrites _ c fr d n numbers

end Course

/-- The end of a load, as the statements say it. -/
theorem load_ends {s s1 : State} {c : Ctx} {d n : Nat} {sx : Bool} {fr : List Nat} {ea : Nat → Nat} {ro : Bool} {p : Nat → Piece} (size : LaneSize n)
    (here : HoldsGroup s1 c) (still : s1.migrations = []) (unit_ : s1.unit = s.unit)
    (pieces : ∀ l < 32, (acting s c).getLsbD l = true → (lookAt s c .load (tabGet c.group.lastPage l) true l (ea l) n n ro).piece = some (p l))
    (bytes : Nat → List Byte) {t : State}
    (ends : finish (noteLooks s1 c false true (looksOf s c .load (acting s c) n ea ro)) c
      { frees := fr, v := loadedWords d n sx (acting s c) bytes } = t) :
    ∃ g', OnlyAccess s1 t c g' ∧ t.bad = s1.bad ∧
      GroupAccess c { frees := fr, v := loadedWords d n sx (acting s c) bytes } s.unit.npc false (acting s c) p g' ∧
      ∀ a, ¬ InWalked ((lanesOf (acting s c)).map p) a → t.byteAt a = s1.byteAt a := by
  have distinct : Eff.distinct { frees := fr, v := loadedWords d n sx (acting s c) bytes } := by
    rw [loadedWords_eq size]
    exact distinct_loadWrites ..
  have once : ((looksOf s c .load (acting s c) n ea ro).map (·.lane)).Nodup := by
    rw [lane_looksOf]
    exact nodup_lanesOf _
  obtain ⟨g', only, bad, group, outside⟩ := finish_noted here still (forall_looksOf (P := fun l k => k.piece = some (p l)) pieces) once
    (fun l hl => exists_looksOf hl) distinct
  rw [pieces_looksOf, ends] at outside
  rw [ends] at only bad
  rw [unit_] at group
  exact ⟨g', only, bad, group, outside⟩

theorem loadClaim : LoadClaim := by
  intro i s c d n sx fr ea p h form calm aged opens fits
  obtain ⟨size, look, run⟩ := loadForm_runs h form
  have reads := fun l hl acts => (opens l hl acts).reads
  have admitted : ∀ k ∈ looksOf s c .load (acting s c) n ea (isRo i), k.denied = none :=
    forall_looksOf (P := fun _ k => k.denied = none) fun l hl acts => (opens l hl acts).2.2.2.1
  have bytes : ∀ l < 32, (acting s c).getLsbD l = true → readPiece s c.q (p l) = s.bytes (p l).pa n := by
    intro l hl acts
    obtain ⟨-, -, piece, denied, -⟩ := opens l hl acts
    obtain ⟨width, class_⟩ := lookAt_piece piece
    rw [readPiece_open (class_.symm.trans denied), width]
  have values : finish (noteLooks s c false true (looksOf s c .load (acting s c) n ea (isRo i))) c
        { frees := fr, v := loadedWords d n sx (acting s c) (fun l => readPiece s c.q (p l)) } =
      finish (noteLooks s c false true (looksOf s c .load (acting s c) n ea (isRo i))) c
        { frees := fr, v := loadedWords d n sx (acting s c) (fun l => s.bytes (p l).pa n) } := by
    rw [loadedWords_eq size, loadedWords_eq size]
    exact finish_loadWrites _ c fr d n fun l hl acts => by rw [bytes l hl acts]
  rw [loadLanes_reads calm reads (denialEvent_admitted s c none 0 0 admitted) calm aged size fits look, values] at run
  obtain ⟨-, -, still, -⟩ := calm
  obtain ⟨g', only, bad, group, outside⟩ := load_ends size (groupAt_refl h) still rfl (fun l hl acts => (opens l hl acts).2.2.1) _ rfl
  exact ⟨_, g', run, only, bad, group, outside⟩

end Sys2Proof.Machine

/-! ## An audit event and the issuing split (07 R237 to R239) -/

namespace Sys2Proof.Machine

open Sys2Proof

/-- An audit event writes memory, the queue and the snapshot trigger, and nothing else. -/
theorem audit_keeps {P : State → Prop} {s : State} (qn : Nat) (ev : AuditEv) (start : P s) (trigger : ∀ t fw, P t → P { t with fw := fw })
    (queue : ∀ t q q', tabGet s.queues qn = some q → q'.gen = q.gen → P t → P (t.putQueue qn q'))
    (write : ∀ t pa n v, P t → P (t.writeNum pa n v)) : P (audit s qn ev) := by
  unfold audit
  split
  · exact start
  · rename_i q hq
    extract_lets s1
    have triggered : P s1 := by
      unfold s1
      split
      · rw [snapTrigger_eq]
        exact trigger _ _ start
      · exact start
    split
    · exact queue _ _ _ hq rfl triggered
    · exact queue _ _ _ hq rfl (write _ _ _ _ triggered)

/-- The issuing split stands in a state as it stands in another: what a unit of it reads of its context is the same, but its queue, of which the
generation is the same. -/
structure SameIssue (s t : State) : Prop where
  cur : t.cur = s.cur
  unit : t.unit = s.unit
  teams : t.teams = s.teams
  grids : t.grids = s.grids
  slots : ∀ n, (t.core n).slots = (s.core n).slots
  queues : ∀ k q, tabGet s.queues k = some q → ∃ q', tabGet t.queues k = some q' ∧ q'.gen = q.gen

namespace SameIssue

theorem refl (s : State) : SameIssue s s := ⟨rfl, rfl, rfl, rfl, fun _ => rfl, fun _ q h => ⟨q, h, rfl⟩⟩

theorem trans {s t u : State} (first : SameIssue s t) (next : SameIssue t u) : SameIssue s u := by
  refine ⟨next.cur.trans first.cur, next.unit.trans first.unit, next.teams.trans first.teams, next.grids.trans first.grids,
    fun n => (next.slots n).trans (first.slots n), fun k q h => ?_⟩
  obtain ⟨q1, h1, gen1⟩ := first.queues k q h
  obtain ⟨q2, h2, gen2⟩ := next.queues k q1 h1
  exact ⟨q2, h2, gen2.trans gen1⟩

theorem write (s : State) (pa : Nat) (bs : List Byte) : SameIssue s (s.write pa bs) := ⟨rfl, rfl, rfl, rfl, fun _ => rfl, fun _ q h => ⟨q, h, rfl⟩⟩

/-- A split that has a context has it still, but for its queue's other fields. -/
theorem ctx? {s t : State} {c : Ctx} (same : SameIssue s t) (h : ctx? s = some c) : ∃ q, Machine.ctx? t = some { c with q := q } ∧ q.gen = c.q.gen := by
  obtain ⟨-, team, -, group, -, -, queue, grid, -, -⟩ := ctxAt_spec h
  obtain ⟨q, found, gen⟩ := same.queues _ _ queue
  refine ⟨q, ?_, gen⟩
  rw [Machine.ctx?, same.cur]
  exact ctxAt_of_same h (same.slots _) (by rw [same.teams]; exact team) group found (by rw [same.grids]; exact grid)

end SameIssue

theorem sameIssue_audit (s : State) (qn : Nat) (ev : AuditEv) : SameIssue s (audit s qn ev) := by
  refine audit_keeps qn ev (.refl s) (fun t fw same => ?_) (fun t q q' found gen same => ?_) (fun t pa n v same => same.trans (.write ..))
  · exact same.trans ⟨rfl, rfl, rfl, rfl, fun _ => rfl, fun _ q h => ⟨q, h, rfl⟩⟩
  · have put : SameIssue s { t with queues := tabPut t.queues qn q' } := by
      refine ⟨same.cur, same.unit, same.teams, same.grids, same.slots, fun k x hx => ?_⟩
      rw [tabGet_tabPut]
      by_cases here : k = qn
      · subst here
        rw [found] at hx
        cases hx
        exact ⟨q', if_pos rfl, gen⟩
      · rw [if_neg here]
        exact same.queues k x hx
    exact put.trans (.write ..)

/-- What an audit event leaves of what an access may have to wait for. -/
structure SameWaits (s t : State) : Prop where
  cores : t.cores = s.cores
  wc : t.wc = s.wc
  ops : t.ops = s.ops
  past : t.past = s.past
  still : s.migrations = [] → t.migrations = []

theorem SameWaits.calm {s t : State} {c : Ctx} (same : SameWaits s t) (calm : Calm s c) : Calm t c := by
  obtain ⟨upd, wc, still, inflight⟩ := calm
  refine ⟨?_, same.wc.trans wc, same.still still, ?_⟩
  · rw [State.core, same.cores]
    exact upd
  · rw [inFlight, same.ops]
    exact inflight

theorem SameWaits.write {s t : State} (same : SameWaits s t) (pa : Nat) (bs : List Byte) : SameWaits s (t.write pa bs) := by
  obtain ⟨cores, wc, ops, past, still⟩ := same
  exact ⟨cores, wc, ops, past, fun calm => (write_marked (still calm) pa bs).2.2⟩

theorem sameWaits_audit (s : State) (qn : Nat) (ev : AuditEv) : SameWaits s (audit s qn ev) := by
  refine audit_keeps qn ev ⟨rfl, rfl, rfl, rfl, id⟩ (fun t fw same => ?_) (fun t q q' found gen same => ?_) (fun t pa n v same => same.write _ _)
  · obtain ⟨cores, wc, ops, past, still⟩ := same
    exact ⟨cores, wc, ops, past, still⟩
  · obtain ⟨cores, wc, ops, past, still⟩ := same
    have put : SameWaits s { t with queues := tabPut t.queues qn q' } := ⟨cores, wc, ops, past, still⟩
    exact put.write _ _

/-! ## A denied load (07 R237, R239; 06 R190) -/

/-- The conditions of an access's address: it is canonical, and aligned (06 R176, R179). -/
def addrTraps (lane va al : Nat) : List LaneTrap :=
  (if canonical (BitVec.ofNat 64 va) then [] else [⟨lane, 0x11, va, none⟩]) ++ (if va % al = 0 then [] else [⟨lane, 0x20, va, none⟩])

/-- The condition of a range lock that the access meets (01 R40, 06 R190). -/
def lockTraps (s : State) (c : Ctx) (acc : Acc) (locks : Bool) (lane va n : Nat) : List LaneTrap :=
  if locks then match virtConflict s c.core c.q.asid va n acc.writes with | some i => [⟨lane, 0x10, va, some i⟩] | none => [] else []

/-- The piece of an access whose page has a leaf entry. -/
def leafPiece (c : Ctx) (acc : Acc) (locks : Bool) (va n : Nat) (ro : Bool) (x : Xlat) (w : Bool) : Piece :=
  { va := va, pa := x.pa va, n := n, x := x, walked := w, via := if acc = .load && locks then (if ro then Via.ro c.core else .l1 c.core) else .slice }

/-- The condition of a write that meets a class not admitted (07 R237). -/
def deniedTraps (s : State) (c : Ctx) (acc : Acc) (lane va : Nat) (p : Piece) : List LaneTrap :=
  match deniedClass s c.q p with | some k => if acc.writes then [⟨lane, 0x21, va, some k⟩] else [] | none => []

/-- The condition of a write to a page that cannot be written (07 R227). -/
def fixedTraps (acc : Acc) (lane va : Nat) (p : Piece) : List LaneTrap :=
  if acc.writes && p.readOnly then [⟨lane, 0x22, va, some p.x.leaf.toNat⟩] else []

/-- The condition of bad check bits, which bytes of an admitted class meet (07 R210). -/
def spoiltTraps (s : State) (c : Ctx) (acc : Acc) (lane va n : Nat) (p : Piece) : List LaneTrap :=
  if (deniedClass s c.q p).isSome then [] else
    match (if acc = .store then badPart s p.pa n else badIn s p.pa n) with | some g => [⟨lane, 0x25, va, some g⟩] | none => []

/-- The conditions of an access at a leaf entry. -/
def leafTraps (s : State) (c : Ctx) (acc : Acc) (lane va n : Nat) (p : Piece) : List LaneTrap :=
  deniedTraps s c acc lane va p ++ fixedTraps acc lane va p ++ regionTraps s c acc lane va n p ++ spoiltTraps s c acc lane va n p

/-- A look that reaches no leaf entry. -/
def Look.lost (lane va n : Nat) (fault : Option (Nat × Nat)) (traps : List LaneTrap) : Look :=
  { lane := lane, va := va, n := n, traps := traps, fault := fault, piece := none, denied := none }

/-- A look that reaches a leaf entry. -/
def Look.found (s : State) (c : Ctx) (lane va n : Nat) (p : Piece) (traps : List LaneTrap) : Look :=
  { lane := lane, va := va, n := n, traps := traps, fault := none, piece := some p, denied := deniedClass s c.q p, count := deniedCount s c.q p }

section LookAt
variable (s : State) (c : Ctx) (acc : Acc) (last : Option Xlat) (locks : Bool) (lane : Nat) {va : Nat} (n : Nat) {al : Nat} (ro : Bool)

theorem lookAt_misplaced (bad : addrTraps lane va al ≠ []) : lookAt s c acc last locks lane va n al ro =
    .lost lane va n none (addrTraps lane va al ++ lockTraps s c acc locks lane va n ++
      (if canonical (BitVec.ofNat 64 va) then skewTraps s c acc last lane va n else [])) := by
  have some_ : (!(addrTraps lane va al).isEmpty) = true := by rw [List.isEmpty_eq_false_iff.2 bad]; rfl
  exact if_pos some_

section Sound
variable (sound : addrTraps lane va al = [])
include sound

theorem lookAt_invalid {l e : Nat} {w : Bool} (walk : translate s c.q last (some c.core) (dieOf c.core) va acc.writes = (.invalid l e, w)) :
    lookAt s c acc last locks lane va n al ro = .lost lane va n (some (l, e)) (lockTraps s c acc locks lane va n) := by
  have none_ : ¬ (!(addrTraps lane va al).isEmpty) = true := by rw [sound]; exact Bool.false_ne_true
  refine (if_neg none_).trans ?_
  rw [walk]
  rfl

theorem lookAt_malformed {l e : Nat} {w : Bool} (walk : translate s c.q last (some c.core) (dieOf c.core) va acc.writes = (.malformed l e, w)) :
    lookAt s c acc last locks lane va n al ro =
      .lost lane va n none (lockTraps s c acc locks lane va n ++ [⟨lane, 0x23, va, some (entryWithLevel l e)⟩]) := by
  have none_ : ¬ (!(addrTraps lane va al).isEmpty) = true := by rw [sound]; exact Bool.false_ne_true
  refine (if_neg none_).trans ?_
  rw [walk]
  rfl

theorem lookAt_bad {g : Nat} {w : Bool} (walk : translate s c.q last (some c.core) (dieOf c.core) va acc.writes = (.bad g, w)) :
    lookAt s c acc last locks lane va n al ro =
      .lost lane va n none (lockTraps s c acc locks lane va n ++ [⟨lane, 0x25, va, some g⟩]) := by
  have none_ : ¬ (!(addrTraps lane va al).isEmpty) = true := by rw [sound]; exact Bool.false_ne_true
  refine (if_neg none_).trans ?_
  rw [walk]
  rfl

theorem lookAt_leaf {x : Xlat} {w : Bool} (walk : translate s c.q last (some c.core) (dieOf c.core) va acc.writes = (.leaf x, w)) :
    lookAt s c acc last locks lane va n al ro = .found s c lane va n (leafPiece c acc locks va n ro x w)
      (lockTraps s c acc locks lane va n ++ leafTraps s c acc lane va n (leafPiece c acc locks va n ro x w)) := by
  have none_ : ¬ (!(addrTraps lane va al).isEmpty) = true := by rw [sound]; exact Bool.false_ne_true
  refine (if_neg none_).trans ?_
  rw [walk]
  rfl

end Sound

/-- A look reaches no leaf entry, or it reaches one. -/
theorem lookAt_cases {P : Look → Prop} (lost : ∀ fault traps, P (.lost lane va n fault traps)) (found : ∀ p traps, P (.found s c lane va n p traps)) :
    P (lookAt s c acc last locks lane va n al ro) := by
  by_cases sound : addrTraps lane va al = []
  · cases walk : translate s c.q last (some c.core) (dieOf c.core) va acc.writes with
    | mk end_ w =>
      cases end_ with
      | leaf x => exact lookAt_leaf s c acc last locks lane n ro sound walk ▸ found _ _
      | invalid l e => exact lookAt_invalid s c acc last locks lane n ro sound walk ▸ lost _ _
      | malformed l e => exact lookAt_malformed s c acc last locks lane n ro sound walk ▸ lost _ _
      | bad g => exact lookAt_bad s c acc last locks lane n ro sound walk ▸ lost _ _
  · exact lookAt_misplaced s c acc last locks lane n ro sound ▸ lost _ _

end LookAt

theorem lookAt_va (s : State) (c : Ctx) (acc : Acc) (last : Option Xlat) (locks : Bool) (lane va n al : Nat) (ro : Bool) :
    (lookAt s c acc last locks lane va n al ro).va = va :=
  lookAt_cases s c acc last locks lane n ro (P := fun k => k.va = va) (fun _ _ => rfl) (fun _ _ => rfl)

/-- The denied bytes that a look counts are its piece's. -/
theorem lookAt_count (s : State) (c : Ctx) (acc : Acc) (last : Option Xlat) (locks : Bool) (lane va n al : Nat) (ro : Bool) :
    ∀ p, (lookAt s c acc last locks lane va n al ro).piece = some p → (lookAt s c acc last locks lane va n al ro).count = deniedCount s c.q p :=
  lookAt_cases s c acc last locks lane n ro (P := fun k => ∀ p, k.piece = some p → k.count = deniedCount s c.q p)
    (fun _ _ _ h => by cases h) (fun _ _ _ h => by cases h; rfl)

theorem maskOf_congr {f g : Nat → Bool} (same : ∀ l < 32, f l = g l) : maskOf f = maskOf g := by
  have lanes : allLanes.filter f = allLanes.filter g := List.filter_congr fun l hl => same l (by simpa [allLanes] using hl)
  rw [maskOf, lanes, maskOf]

theorem lanesOf_maskOf (m : BitVec 32) (f : Nat → Bool) : lanesOf (maskOf (fun l => m.getLsbD l && f l)) = (lanesOf m).filter f := by
  rw [lanesOf, lanesOf, List.filter_filter]
  refine List.filter_congr fun l hl => ?_
  rw [getLsbD_maskOf _ (by simpa [allLanes] using hl), Bool.and_comm]

/-- The audit event of a unit with denied lanes: the lowest denied lane's address, the denied lanes, the denied bytes of all, the lowest class. -/
theorem denialEvent_denied {s : State} {c : Ctx} {acc : Acc} {m : BitVec 32} {n : Nat} {ea : Nat → Nat} {ro : Bool} {p : Nat → Piece} {cls : Nat}
    (path kind : Nat) (pieces : ∀ l < 32, m.getLsbD l = true → (lookAt s c acc (tabGet c.group.lastPage l) true l (ea l) n n ro).piece = some (p l)) :
    let look := fun l => lookAt s c acc (tabGet c.group.lastPage l) true l (ea l) n n ro
    let dm := maskOf (fun l => m.getLsbD l && (look l).denied.isSome)
    ((lanesOf dm).filterMap (fun l => (look l).denied)).min? = some cls →
    denialEvent s c none path kind (looksOf s c acc m n ea ro) = unitAudit s c (ea (lowLane dm)) dm.toNat
      (((lanesOf dm).map (fun l => deniedCount s c.q (p l))).foldl (· + ·) 0) cls path kind := by
  intro look dm low
  have denied : (looksOf s c acc m n ea ro).filter (fun k => k.denied.isSome) = (lanesOf dm).map look := by
    rw [looksOf, List.filter_map, lanesOf_maskOf]
    rfl
  have classes : ((lanesOf dm).map look).filterMap (·.denied) = (lanesOf dm).filterMap (fun l => (look l).denied) := List.filterMap_map
  have counts : ((lanesOf dm).map look).map (·.count) = (lanesOf dm).map (fun l => deniedCount s c.q (p l)) := by
    rw [List.map_map]
    refine List.map_congr_left fun l hl => ?_
    rw [lanesOf_maskOf, List.mem_filter] at hl
    obtain ⟨lt, acts⟩ := mem_lanesOf.1 hl.1
    exact lookAt_count _ _ _ _ _ _ _ _ _ _ _ (pieces l lt acts)
  have mask : maskOf (fun l => ((lanesOf dm).map look).any (fun j => j.lane == l)) = dm := by
    refine maskOf_congr fun l hl => ?_
    have lanes : ((lanesOf dm).map look).any (fun j => j.lane == l) = decide (l ∈ lanesOf dm) := by
      rw [List.any_map, Bool.eq_iff_iff, List.any_eq_true, decide_eq_true_iff]
      simp only [Function.comp_apply, beq_iff_eq, look, lookAt_lane, exists_eq_right]
    rw [lanes, Bool.eq_iff_iff, decide_eq_true_iff, mem_lanesOf, and_iff_right hl, getLsbD_maskOf _ hl]
  obtain ⟨first, rest, some_⟩ : ∃ a t, lanesOf dm = a :: t := by
    cases none_ : lanesOf dm with
    | nil => rw [none_] at low; cases low
    | cons a t => exact ⟨a, t, rfl⟩
  have lowest_ : lowLane dm = first := by rw [lowLane, some_, List.headD_cons]
  have event : denialEvent s c none path kind (looksOf s c acc m n ea ro) = unitAudit s c (look first).va
      (maskOf (fun l => ((lanesOf dm).map look).any (fun j => j.lane == l))).toNat
      ((((lanesOf dm).map look).map (·.count)).foldl (· + ·) 0) ((((lanesOf dm).map look).filterMap (·.denied)).min?.getD 0) path kind := by
    rw [denialEvent, denied, some_]
    rfl
  rw [event, mask, counts, classes, low, lookAt_va, lowest_]
  rfl

end Sys2Proof.Machine

/-! ## What a denied load delivers (07 R237, R239; 06 R190) -/

namespace Sys2Proof.Machine

open Sys2Proof

theorem deniedLoadClaim : DeniedLoadClaim := by
  intro i s c d n sx fr ea p h form calm aged m look reads fits dm bytes cls low s1
  obtain ⟨size, window, run⟩ := loadForm_runs h form
  have pieces := fun l hl acts => (reads l hl acts).2.2.1
  have event : denialEvent s c none 0 0 (looksOf s c .load m n ea (isRo i)) = s1 := denialEvent_denied 0 0 pieces low
  have same : SameIssue s s1 := sameIssue_audit ..
  have waits : SameWaits s s1 := sameWaits_audit ..
  have still1 : s1.migrations = [] := waits.still calm.2.2.1
  have here : HoldsGroup s1 c := by
    rw [HoldsGroup, same.teams]
    exact groupAt_refl h
  have aged1 : isRo i = true → ∀ x ∈ s1.past, x.on = false := by
    rw [waits.past]
    exact aged
  have values : finish (noteLooks s1 c false true (looksOf s c .load m n ea (isRo i))) c
        { frees := fr, v := loadedWords d n sx m (fun l => readPiece s1 c.q (p l)) } =
      finish (noteLooks s1 c false true (looksOf s c .load m n ea (isRo i))) c
        { frees := fr, v := loadedWords d n sx m (fun l =>
          (List.range n).map (fun j => if byteDenied s1 c.q (p l) j then 0 else s1.byteAt ((p l).pa + j))) } := by
    rw [loadedWords_eq size, loadedWords_eq size]
    refine finish_loadWrites _ c fr d n fun l hl acts => ?_
    obtain ⟨width, -⟩ := lookAt_piece (pieces l hl acts)
    rw [readPiece_bytes, width]
  rw [loadLanes_reads calm reads event (waits.calm calm) aged1 size fits window, values] at run
  obtain ⟨g', only, -, group, outside⟩ := load_ends size here still1 same.unit pieces _ rfl
  exact ⟨_, g', run, only, group, outside⟩

end Sys2Proof.Machine

/-! ## What a look finds (06 R179; 07 R213, R226, R227, R236, R237, R241) -/

namespace Sys2Proof.Machine

open Sys2Proof

/-- A code stands among conditions. -/
def Has (ts : List LaneTrap) (code : Nat) : Prop := ∃ t ∈ ts, t.code = code

theorem not_has_nil (code : Nat) : ¬ Has [] code := fun ⟨_, h, _⟩ => List.not_mem_nil h

theorem has_append {a b : List LaneTrap} {code : Nat} : Has (a ++ b) code ↔ Has a code ∨ Has b code := by
  simp only [Has, List.mem_append, or_and_right, exists_or]

theorem has_singleton {t : LaneTrap} {code : Nat} : Has [t] code ↔ t.code = code := by
  simp only [Has, List.mem_singleton, exists_eq_left]

theorem has_addrTraps (lane va al code : Nat) : Has (addrTraps lane va al) code ↔
    canonical (BitVec.ofNat 64 va) = false ∧ code = 0x11 ∨ va % al ≠ 0 ∧ code = 0x20 := by
  rw [addrTraps, has_append]
  refine or_congr ?_ ?_
  · cases canonical (BitVec.ofNat 64 va)
    · rw [if_neg Bool.false_ne_true, has_singleton, eq_comm]
      exact (and_iff_right rfl).symm
    · exact iff_of_false (not_has_nil _) fun h => by cases h.1
  · by_cases aligned : va % al = 0
    · rw [if_pos aligned]
      exact iff_of_false (not_has_nil _) fun h => h.1 aligned
    · rw [if_neg aligned, has_singleton, eq_comm]
      exact (and_iff_right aligned).symm

theorem addrTraps_eq_nil (lane va al : Nat) : addrTraps lane va al = [] ↔ canonical (BitVec.ofNat 64 va) = true ∧ va % al = 0 := by
  rw [addrTraps, List.append_eq_nil_iff]
  refine and_congr ?_ ?_
  · cases canonical (BitVec.ofNat 64 va) <;> simp
  · by_cases aligned : va % al = 0 <;> simp [aligned]

/-- Codes that only an address, a leaf entry and its class give. -/
def OwnCode (code : Nat) : Prop := code = 0x11 ∨ code = 0x20 ∨ code = 0x21 ∨ code = 0x22 ∨ code = 0x23

theorem not_has_lockTraps (s : State) (c : Ctx) (acc : Acc) (locks : Bool) (lane va n : Nat) {code : Nat} (own : OwnCode code) :
    ¬ Has (lockTraps s c acc locks lane va n) code := by
  have other : code ≠ 0x10 := by unfold OwnCode at own; omega
  unfold lockTraps
  split
  · split
    · exact fun h => other (has_singleton.1 h).symm
    · exact not_has_nil code
  · exact not_has_nil code

theorem rawCode_codes {s : State} {qn : Nat} {q : Queue} {va n : Nat} {write : Bool} {code : Nat} (h : code ∈ rawCode s qn q va n write) :
    code = 0x4c ∨ code = 0x4d ∨ code = 0x54 := by
  unfold rawCode at h
  split at h
  · cases h
  · extract_lets objs hdr held body at h
    have one : ∀ (b : Bool) (k : Nat), code ∈ (if b then [k] else []) → code = k := by
      intro b k h
      cases b
      · cases h
      · exact List.mem_singleton.1 h
    rcases List.mem_append.1 h with h | h
    · rcases List.mem_append.1 h with h | h
      · exact .inl (one _ _ h)
      · exact .inr (.inl (one _ _ h))
    · exact .inr (.inr (one _ _ h))

/-- The codes of a region's conditions. -/
theorem regionTraps_codes {s : State} {c : Ctx} {acc : Acc} {lane va n : Nat} {p : Piece} {t : LaneTrap} (h : t ∈ regionTraps s c acc lane va n p) :
    t.code = 0x4c ∨ t.code = 0x4d ∨ t.code = 0x54 ∨ t.code = 0x24 ∨ t.code = 0x13 ∨ t.code = 0x14 ∨ t.code = 0x73 := by
  unfold regionTraps at h
  split at h
  · obtain ⟨k, hk, rfl⟩ := List.mem_map.1 h
    have := rawCode_codes hk
    dsimp only
    omega
  · split at h
    · split at h
      · split at h
        · rw [List.mem_singleton.1 h]
          simp
        · rcases List.mem_append.1 h with h | h
          · split at h
            · rw [List.mem_singleton.1 h]
              simp
            · cases h
          · split at h
            · rw [List.mem_singleton.1 h]
              simp
            · cases h
      · split at h
        · rw [List.mem_singleton.1 h]
          simp
        · split at h
          · rw [List.mem_singleton.1 h]
            simp
          · cases h
      · split at h
        · rw [List.mem_singleton.1 h]
          simp
        · cases h
    · cases h

theorem not_has_regionTraps (s : State) (c : Ctx) (acc : Acc) (lane va n : Nat) (p : Piece) {code : Nat} (own : OwnCode code) :
    ¬ Has (regionTraps s c acc lane va n p) code := by
  rintro ⟨t, ht, rfl⟩
  have := regionTraps_codes ht
  unfold OwnCode at own
  omega

theorem not_has_skewTraps (s : State) (c : Ctx) (acc : Acc) (last : Option Xlat) (lane va n : Nat) {code : Nat} (own : OwnCode code) :
    ¬ Has (skewTraps s c acc last lane va n) code := by
  rintro ⟨t, ht, rfl⟩
  obtain ⟨ht, below⟩ := List.mem_filter.1 ht
  obtain ⟨k, -, ht⟩ := List.mem_flatMap.1 ht
  split at ht
  · have region := regionTraps_codes ht
    rw [decide_eq_true_iff] at below
    unfold OwnCode at own
    omega
  · cases ht

theorem readOnly_iff (p : Piece) : p.readOnly = true ↔ p.x.w = false ∨ p.x.region = 3 := by
  rw [Piece.readOnly, Bool.or_eq_true, Bool.not_eq_true', beq_iff_eq]

/-- A class is denied where it is the translation's, or a line's that the piece touches (07 R236). -/
theorem deniedClass_isSome_iff (s : State) (q : Queue) (p : Piece) : (deniedClass s q p).isSome = true ↔
    admits q p.x.cls = false ∨ ∃ l ∈ linesOf p.pa p.n, admits q (lineCarries s q p.via p.x.cls l) = false := by
  rw [deniedClass, Option.isSome_iff_ne_none, ne_eq, List.min?_eq_none_iff, List.filter_eq_nil_iff]
  simp only [List.mem_cons, List.mem_map, forall_eq_or_imp, forall_exists_index, and_imp, forall_apply_eq_imp_iff₂, Bool.not_eq_true',
    Bool.not_eq_false, not_and_or, not_forall, exists_prop, Bool.not_eq_true]

section LeafTraps
variable (s : State) (c : Ctx) (acc : Acc) (lane va n : Nat) (p : Piece)

theorem has_deniedTraps (code : Nat) : Has (deniedTraps s c acc lane va p) code ↔
    (acc.writes = true ∧ (deniedClass s c.q p).isSome = true) ∧ code = 0x21 := by
  unfold deniedTraps
  cases deniedClass s c.q p with
  | none => exact iff_of_false (not_has_nil code) fun h => by cases h.1.2
  | some k =>
    cases acc.writes
    · exact iff_of_false (not_has_nil code) fun h => by cases h.1.1
    · exact has_singleton.trans (eq_comm.trans (and_iff_right ⟨rfl, rfl⟩).symm)

theorem has_fixedTraps (code : Nat) : Has (fixedTraps acc lane va p) code ↔ (acc.writes = true ∧ p.readOnly = true) ∧ code = 0x22 := by
  rw [fixedTraps, ← Bool.and_eq_true]
  cases acc.writes && p.readOnly
  · exact iff_of_false (not_has_nil code) fun h => by cases h.1
  · exact has_singleton.trans (eq_comm.trans (and_iff_right rfl).symm)

theorem not_has_spoiltTraps {code : Nat} (own : OwnCode code) : ¬ Has (spoiltTraps s c acc lane va n p) code := by
  have other : code ≠ 0x25 := by unfold OwnCode at own; omega
  unfold spoiltTraps
  split
  · exact not_has_nil code
  · split
    · exact fun h => other (has_singleton.1 h).symm
    · exact not_has_nil code

/-- The codes that a leaf entry and its class give, among the conditions of an access that reaches one. -/
theorem has_leafTraps {code : Nat} (own : OwnCode code) : Has (leafTraps s c acc lane va n p) code ↔
    (acc.writes = true ∧ (deniedClass s c.q p).isSome = true) ∧ code = 0x21 ∨ (acc.writes = true ∧ p.readOnly = true) ∧ code = 0x22 := by
  rw [leafTraps, has_append, has_append, has_append, or_iff_left (not_has_spoiltTraps s c acc lane va n p own),
    or_iff_left (not_has_regionTraps s c acc lane va n p own), has_deniedTraps, has_fixedTraps]

end LeafTraps

section Look
variable (s : State) (c : Ctx) (acc : Acc) (last : Option Xlat) (locks : Bool) (lane : Nat) {va : Nat} (n : Nat) {al : Nat} (ro : Bool)

/-- The conditions of an address stand among those of its look, and no others of their codes do. -/
theorem has_lookAt_addr {code : Nat} (addr : code = 0x11 ∨ code = 0x20) :
    Has (lookAt s c acc last locks lane va n al ro).traps code ↔ Has (addrTraps lane va al) code := by
  have own : OwnCode code := by unfold OwnCode; omega
  have unlocked := not_has_lockTraps s c acc locks lane va n own
  by_cases sound : addrTraps lane va al = []
  · rw [sound]
    refine iff_of_false ?_ (not_has_nil code)
    cases walk : translate s c.q last (some c.core) (dieOf c.core) va acc.writes with
    | mk end_ w =>
      cases end_ with
      | leaf x =>
        rw [lookAt_leaf s c acc last locks lane n ro sound walk, Look.found, has_append, has_leafTraps s c acc lane va n _ own]
        rintro (locked | ⟨-, rfl⟩ | ⟨-, rfl⟩)
        · exact unlocked locked
        · omega
        · omega
      | invalid l e => rwa [lookAt_invalid s c acc last locks lane n ro sound walk]
      | malformed l e =>
        rw [lookAt_malformed s c acc last locks lane n ro sound walk, Look.lost, has_append, has_singleton]
        rintro (locked | rfl)
        · exact unlocked locked
        · simp at addr
      | bad g =>
        rw [lookAt_bad s c acc last locks lane n ro sound walk, Look.lost, has_append, has_singleton]
        rintro (locked | rfl)
        · exact unlocked locked
        · simp at addr
  · have skew : ¬ Has (if canonical (BitVec.ofNat 64 va) then skewTraps s c acc last lane va n else []) code := by
      split
      · exact not_has_skewTraps s c acc last lane va n own
      · exact not_has_nil code
    rw [lookAt_misplaced s c acc last locks lane n ro sound, Look.lost, has_append, has_append, or_iff_left skew, or_iff_left unlocked]

end Look

/-- What a look finds where the address has no condition. -/
theorem lookAt_sound (s : State) (c : Ctx) (acc : Acc) (last : Option Xlat) (locks : Bool) (lane va n al : Nat) (ro : Bool)
    (sound : addrTraps lane va al = []) :
    let k := lookAt s c acc last locks lane va n al ro
    let w := translate s c.q last (some c.core) (dieOf c.core) va acc.writes
    (∀ l e, k.fault = some (l, e) ↔ w.1 = .invalid l e) ∧ (Has k.traps 0x23 ↔ ∃ l e, w.1 = .malformed l e) ∧
    ∀ x, w.1 = .leaf x → ∃ p, k.piece = some p ∧ p.va = va ∧ p.pa = x.pa va ∧ p.n = n ∧ p.x = x ∧ p.walked = w.2 ∧
      (Has k.traps 0x22 ↔ acc.writes = true ∧ (x.w = false ∨ x.region = 3)) ∧ (Has k.traps 0x21 ↔ acc.writes = true ∧ k.denied.isSome = true) ∧
      (k.denied.isSome = true ↔ admits c.q x.cls = false ∨ ∃ l ∈ linesOf p.pa n, admits c.q (lineCarries s c.q p.via x.cls l) = false) := by
  intro k w
  have unlocked := fun {code : Nat} (own : OwnCode code) => not_has_lockTraps s c acc locks lane va n own
  have own21 : OwnCode 0x21 := by unfold OwnCode; omega
  have own22 : OwnCode 0x22 := by unfold OwnCode; omega
  have own23 : OwnCode 0x23 := by unfold OwnCode; omega
  cases walk : translate s c.q last (some c.core) (dieOf c.core) va acc.writes with
  | mk end_ b =>
    have ended : w = (end_, b) := walk
    rw [ended]
    cases end_ with
    | leaf x =>
      have look : k = .found s c lane va n (leafPiece c acc locks va n ro x b)
          (lockTraps s c acc locks lane va n ++ leafTraps s c acc lane va n (leafPiece c acc locks va n ro x b)) :=
        lookAt_leaf s c acc last locks lane n ro sound walk
      have codes : ∀ {code}, OwnCode code → (Has k.traps code ↔
          (acc.writes = true ∧ k.denied.isSome = true) ∧ code = 0x21 ∨ (acc.writes = true ∧ (leafPiece c acc locks va n ro x b).readOnly = true) ∧ code = 0x22) := by
        intro code own
        rw [look, Look.found, has_append, or_iff_right (unlocked own), has_leafTraps s c acc lane va n _ own]
      refine ⟨fun l e => iff_of_false (by rw [look]; exact fun h => by cases h) (fun h => by cases h), ?_, ?_⟩
      · rw [codes own23]
        exact iff_of_false (by omega) fun ⟨_, _, h⟩ => by cases h
      · rintro _ ⟨⟩
        refine ⟨leafPiece c acc locks va n ro x b, by rw [look]; rfl, rfl, rfl, rfl, rfl, rfl, ?_, ?_, ?_⟩
        · rw [codes own22, readOnly_iff, and_iff_left rfl]
          exact or_iff_right fun h => absurd h.2 (by decide)
        · rw [codes own21, and_iff_left rfl]
          exact or_iff_left fun h => absurd h.2 (by decide)
        · rw [look]
          exact deniedClass_isSome_iff s c.q _
    | invalid l e =>
      have look : k = .lost lane va n (some (l, e)) (lockTraps s c acc locks lane va n) := lookAt_invalid s c acc last locks lane n ro sound walk
      refine ⟨fun l' e' => ?_, iff_of_false (by rw [look]; exact unlocked own23) fun ⟨_, _, h⟩ => (by cases h), fun _ h => by cases h⟩
      rw [look, Look.lost, Option.some.injEq, Prod.mk.injEq, Walk.invalid.injEq]
    | malformed l e =>
      have look : k = .lost lane va n none (lockTraps s c acc locks lane va n ++ [⟨lane, 0x23, va, some (entryWithLevel l e)⟩]) :=
        lookAt_malformed s c acc last locks lane n ro sound walk
      refine ⟨fun l' e' => iff_of_false (by rw [look]; exact fun h => by cases h) (fun h => by cases h), ?_, fun _ h => by cases h⟩
      rw [look, Look.lost, has_append, has_singleton]
      exact iff_of_true (.inr rfl) ⟨l, e, rfl⟩
    | bad g =>
      have look : k = .lost lane va n none (lockTraps s c acc locks lane va n ++ [⟨lane, 0x25, va, some g⟩]) :=
        lookAt_bad s c acc last locks lane n ro sound walk
      refine ⟨fun l' e' => iff_of_false (by rw [look]; exact fun h => by cases h) (fun h => by cases h), ?_, fun _ h => by cases h⟩
      rw [look, Look.lost, has_append, has_singleton]
      exact iff_of_false (not_or.2 ⟨unlocked own23, show ¬ 0x25 = 0x23 by decide⟩) fun ⟨_, _, h⟩ => by cases h

theorem lookClaim : LookClaim := by
  intro s c acc last lane va n al ro k has w
  have addr := fun code own => has_lookAt_addr s c acc last true lane n ro (va := va) (al := al) (code := code) own
  refine ⟨(addr 0x11 (.inl rfl)).trans ?_, (addr 0x20 (.inr rfl)).trans ?_, fun form aligned =>
    lookAt_sound s c acc last true lane va n al ro ((addrTraps_eq_nil lane va al).2 ⟨form, aligned⟩)⟩
  · rw [has_addrTraps]
    simp
  · rw [has_addrTraps]
    simp

end Sys2Proof.Machine

/-! ## Where accesses stop (01 R40; 06 R179, R190; 07 R213, R237, R241) -/

namespace Sys2Proof.Machine

open Sys2Proof

theorem sameIssue_noteXlat (s : State) (core : Option Nat) (die : Nat) (x : Xlat) (w k : Bool) : SameIssue s (noteXlat s core die x w k) := by
  rw [noteXlat_eq]
  have entry : SameIssue s (marked s x w k) := by
    unfold marked
    split
    · exact .write ..
    · exact .refl s
  refine entry.trans ?_
  cases core with
  | none => exact ⟨rfl, rfl, rfl, rfl, fun _ => rfl, fun _ q h => ⟨q, h, rfl⟩⟩
  | some c =>
    refine ⟨rfl, rfl, rfl, rfl, fun n => ?_, fun _ q h => ⟨q, h, rfl⟩⟩
    have same := (cached_marked (marked s x w k) (some c) die (noted x w k)).cores n
    have slots := congrArg Core.slots same
    exact slots

/-- The walks of a unit's lanes leave its issuing split as it stands (07 R228). -/
theorem sameIssue_noteWalks (s : State) (c : Ctx) (write : Bool) (looks : List Look) : SameIssue s (noteWalks s c write looks) := by
  refine List.foldlRecOn (motive := fun t => SameIssue s t) _ _ (.refl s) fun t same p _ => ?_
  split
  · exact same.trans (sameIssue_noteXlat ..)
  · exact same

theorem sameIssue_denialEvent (s : State) (c : Ctx) (whole : Option (BitVec 32)) (path kind : Nat) (looks : List Look) :
    SameIssue s (denialEvent s c whole path kind looks) := by
  unfold denialEvent
  split
  · exact .refl s
  · exact sameIssue_audit ..

/-- A trap of the issuing split's unit, in a state in which the split stands as it did. -/
theorem takeTrap_same {s t : State} {c : Ctx} (h : ctx? s = some c) (same : SameIssue s t) (k : Cond) : TrapTaken t (takeTrap t (unitSite s c) k) c k := by
  obtain ⟨q, here, gen⟩ := same.ctx? h
  have site : unitSite t { c with q := q } = unitSite s c := by rw [unitSite, same.unit, unitSite]
  obtain ⟨rest, teams, ⟨tm, team, cause, kept, requests, traps, own, others⟩, slot⟩ := takeTrap_spec here k
  rw [site] at rest teams team slot
  rw [gen] at traps
  exact ⟨rest, teams, ⟨tm, team, cause, kept, requests, traps, own, others⟩, slot⟩

section Course
variable {s : State} {c : Ctx} {acc : Acc} {e : Eff} {looks : List Look}

/-- The course of a unit of single lanes that a condition stops, and of one that a fault stops. -/
theorem memCourse_stops (h : ctx? s = some c) (act : State → State) :
    let traps := lowest (peakCond c e ++ condsOf none (looks.flatMap (·.traps)))
    (∀ k, traps = some k →
      let s1 := noteWalks (if k.code = 0x21 then denialEvent s c none acc.path acc.code looks else s) c acc.writes looks
      TrapTaken s1 (memCourse s c none acc acc.path looks [] e act) c k) ∧
    ∀ f, traps = none → faultOf none acc looks = some f →
      memCourse s c none acc acc.path looks [] e act = takeFault (noteWalks s c acc.writes looks) (unitSite s c) f := by
  intro traps
  have first : lowest (peakCond c e ++ [] ++ condsOf none (looks.flatMap (·.traps))) = traps := by rw [List.append_nil]
  constructor
  · intro k low s1
    have same : SameIssue s s1 := by
      refine SameIssue.trans ?_ (sameIssue_noteWalks ..)
      split
      · exact sameIssue_denialEvent ..
      · exact .refl s
    have stopped : memCourse s c none acc acc.path looks [] e act = takeTrap s1 (unitSite s c) k := by
      simp only [memCourse, first, low]
      rfl
    rw [stopped]
    exact takeTrap_same h same k
  · intro f low fault
    simp only [memCourse, first, low, fault]

end Course

/-! ### Loads and stores -/

theorem exec_st (r : BitVec 1) (l : BitVec 4) (sz : BitVec 2) (i : BitVec 6) (k : BitVec 4) (d : BitVec 6) (s : State) :
    exec (.st r l sz i k d) s = execSt r l sz i k d s := rfl
theorem exec_stQ (r : BitVec 1) (l : BitVec 4) (i : BitVec 6) (k d : BitVec 4) (s : State) :
    exec (.stQ r l i k d) s = execStQ r l i k d s := rfl

theorem storeForm_runs {i : Instr} {s : State} {c : Ctx} {d n : Nat} {fr : List Nat} {ea : Nat → Nat} (h : ctx? s = some c)
    (form : storeForm s c i = some (d, n, fr, ea)) :
    ∃ look, exec i s = .next (storeLanes s c n fr look (storeBytes c.group d n) ea) := by
  unfold storeForm at form
  split at form <;> cases form
  · exact ⟨_, by rw [exec_st, execSt, issue_eq h]⟩
  · exact ⟨_, by rw [exec_stQ, execStQ, issue_eq h]⟩

/-- A form of single lanes that loads is a load form. -/
theorem accessForm_load {s : State} {c : Ctx} {i : Instr} {e : Eff} {looks : List Look} (form : accessForm s c i = some (.load, e, looks)) :
    ∃ d n sx fr ea, loadForm s c i = some (d, n, sx, fr, ea) ∧ e = { frees := fr, v := loadedWords d n sx (acting s c) (fun _ => []) } ∧
      looks = looksOf s c .load (acting s c) n ea (isRo i) := by
  unfold accessForm at form
  dsimp only at form
  split at form
  · rename_i d n sx fr ea found
    cases form
    exact ⟨d, n, sx, fr, ea, found, rfl, rfl⟩
  all_goals cases form

/-- A form of single lanes that stores is a store form. -/
theorem accessForm_store {s : State} {c : Ctx} {i : Instr} {e : Eff} {looks : List Look} (form : accessForm s c i = some (.store, e, looks)) :
    ∃ d n fr ea, storeForm s c i = some (d, n, fr, ea) ∧ e = { frees := fr } ∧ looks = looksOf s c .store (acting s c) n ea := by
  unfold accessForm at form
  dsimp only at form
  split at form
  · cases form
  · rename_i d n fr ea found _
    cases form
    exact ⟨d, n, fr, ea, found, rfl, rfl⟩
  all_goals cases form

/-- A load that may be stopped takes the course of a memory unit. -/
theorem load_course {s : State} {c : Ctx} {i : Instr} {d n : Nat} {sx : Bool} {fr : List Nat} {ea : Nat → Nat} (h : ctx? s = some c)
    (form : loadForm s c i = some (d, n, sx, fr, ea)) (room : replayFull s c = false) :
    LaneSize n ∧ ∃ act, exec i s =
      .next (memCourse s c none .load 0 (looksOf s c .load (acting s c) n ea (isRo i)) [] { frees := fr, v := loadWrites d n (acting s c) (fun _ => 0) } act) := by
  obtain ⟨size, look, run⟩ := loadForm_runs h form
  refine ⟨size, ?_⟩
  rw [run, loadLanes, room, Bool.and_false, if_neg Bool.false_ne_true]
  exact ⟨_, rfl⟩

theorem store_course {s : State} {c : Ctx} {i : Instr} {d n : Nat} {fr : List Nat} {ea : Nat → Nat} (h : ctx? s = some c)
    (form : storeForm s c i = some (d, n, fr, ea)) (room : replayFull s c = false) :
    ∃ act, exec i s = .next (memCourse s c none .store 0 (looksOf s c .store (acting s c) n ea) [] { frees := fr } act) := by
  obtain ⟨look, run⟩ := storeForm_runs h form
  rw [run, storeLanes, room, Bool.and_false, if_neg Bool.false_ne_true]
  exact ⟨_, rfl⟩

theorem loadsStop : AccessStops (· == .load) := by
  intro i s c acc e looks h form kind room traps
  obtain rfl : acc = .load := by simpa using kind
  obtain ⟨d, n, sx, fr, ea, found, rfl, rfl⟩ := accessForm_load form
  obtain ⟨size, act, run⟩ := load_course h found room
  have peak : peakCond c { frees := fr, v := loadWrites d n (acting s c) (fun _ => 0) } =
      peakCond c { frees := fr, v := loadedWords d n sx (acting s c) (fun _ => []) } := by
    rw [loadedWords_eq size]
    exact peakCond_laneWrites ..
  obtain ⟨trapped, faulted⟩ := memCourse_stops (acc := .load) (e := { frees := fr, v := loadWrites d n (acting s c) (fun _ => 0) })
    (looks := looksOf s c .load (acting s c) n ea (isRo i)) h act
  rw [peak] at trapped faulted
  exact ⟨fun k low => ⟨_, run, trapped k low⟩, fun f low fault => run.trans (congrArg _ (faulted f low fault))⟩

theorem storesStop : AccessStops (· == .store) := by
  intro i s c acc e looks h form kind room traps
  obtain rfl : acc = .store := by simpa using kind
  obtain ⟨d, n, fr, ea, found, rfl, rfl⟩ := accessForm_store form
  obtain ⟨act, run⟩ := store_course h found room
  obtain ⟨trapped, faulted⟩ := memCourse_stops (acc := .store) (e := { frees := fr }) (looks := looksOf s c .store (acting s c) n ea) h act
  exact ⟨fun k low => ⟨_, run, trapped k low⟩, fun f low fault => run.trans (congrArg _ (faulted f low fault))⟩

/-- Settles O11: a load by its course, which ends over the marks of its walks; a look by the walk that it makes. That a denied `ld.ro` takes event
path 0 is the model's choice (log 103), and so is that the walks' marks stay where the unit traps or faults (log 23). -/
theorem loadResults : Obligations.LoadResults := ⟨loadClaim, lookClaim, loadsStop, deniedLoadClaim⟩

/-! ### Stores (06 R182; 03 R87) -/

theorem storeNear_looksOf (s t : State) (c : Ctx) (n : Nat) (ea : Nat → Nat) {m : BitVec 32} {p : Nat → Piece} (data : Nat → List Byte)
    (pieces : ∀ l < 32, m.getLsbD l = true → (lookAt s c .store (tabGet c.group.lastPage l) true l (ea l) n n).piece = some (p l)) :
    storeNear t (looksOf s c .store m n ea) data = writeLanes t (fun l => (p l).pa) data (lanesOf m) := by
  rw [storeNear, looksOf, List.foldl_map, writeLanes]
  refine List.foldl_ext _ _ _ fun u l hl => ?_
  obtain ⟨lt, acts⟩ := mem_lanesOf.1 hl
  simp only [pieces l lt acts, lookAt_lane]

/-- A store that nothing stops writes its lanes' bytes over the marks of its walks. -/
theorem storeLanes_opens {s : State} {c : Ctx} {n : Nat} {fr : List Nat} {ea : Nat → Nat} {p : Nat → Piece} (calm : Calm s c) (fits : Fits s c { frees := fr })
    (opens : ∀ l < 32, (acting s c).getLsbD l = true → (lookAt s c .store (tabGet c.group.lastPage l) true l (ea l) n n).opens s (p l)) (look : Nat)
    (data : Nat → List Byte) : storeLanes s c n fr look data ea =
      finish (writeLanes (noteLooks s c true true (looksOf s c .store (acting s c) n ea)) (fun l => (p l).pa) data (lanesOf (acting s c))) c { frees := fr } := by
  have all : ∀ k ∈ looksOf s c .store (acting s c) n ea, k.opens s (p k.lane) := forall_looksOf (P := fun l k => k.opens s (p l)) opens
  rw [storeLanes, looks_near all, Bool.false_and, if_neg Bool.false_ne_true, memCourse_opens none .store 0 _ _ p calm fits all, if_neg Bool.false_ne_true,
    settle_calm calm, storeNear_looksOf s _ c n ea data fun l hl acts => (opens l hl acts).2.2.1]

theorem marked_writeLanes {s : State} (still : s.migrations = []) (pa : Nat → Nat) (data : Nat → List Byte) (ls : List Nat) :
    Marked s (writeLanes s pa data ls) ∧ (writeLanes s pa data ls).teams = s.teams := by
  induction ls generalizing s with
  | nil => exact ⟨.refl s, rfl⟩
  | cons l t ih =>
    obtain ⟨marked, teams, still'⟩ := write_marked still (pa l) (data l)
    obtain ⟨marked', teams'⟩ := ih still'
    exact ⟨marked.trans marked', teams'.trans teams⟩

theorem storeClaim : StoreClaim := by
  intro i s c d n fr ea p h form calm inv opens fits m stores
  obtain ⟨look, run⟩ := storeForm_runs h form
  rw [storeLanes_opens calm fits opens] at run
  obtain ⟨-, -, still, -⟩ := calm
  have pieces := forall_looksOf (P := fun l k => k.piece = some (p l)) fun l hl acts => (opens l hl acts).2.2.1
  have once : ((looksOf s c .store m n ea).map (·.lane)).Nodup := by
    rw [lane_looksOf]
    exact nodup_lanesOf _
  obtain ⟨g, at_, marked, still1, -, bytes, only, pages⟩ := noteLooks_spec true true _ p pieces still c.live (groupAt_refl h) once
  have inv1 : (noteLooks s c true true (looksOf s c .store m n ea)).Inv := wf_noteLooks _ _ _ _ _ inv
  obtain ⟨written, teams⟩ := marked_writeLanes still1 (fun l => (p l).pa) (storeBytes c.group d n) (lanesOf m)
  rw [pieces_looksOf] at bytes
  have width : ∀ l, (storeBytes c.group d n l).length = n := fun l => bytesOf_length ..
  have distinct : Eff.distinct { frees := fr } := ⟨.nil, .nil, .nil, .nil⟩
  have whole := marked.trans written
  have named : ∀ l < 32, tabGet g.lastPage l =
      if m.getLsbD l = true ∧ (p l).x.region ≠ 1 then some (noted (p l).x true (p l).walked) else tabGet c.live.lastPage l := by
    intro l hl
    rw [pages l]
    simp only [m, exists_looksOf (s := s) (c := c) (acc := .store) (n := n) (ea := ea) (ro := false) hl, true_and]
  obtain ⟨g', access, group⟩ := finish_access distinct true m p whole.unit whole (by rw [teams]; exact at_) only named
  refine ⟨_, g', run, access, group, fun l lt a ⟨acts, lo, hi⟩ highest => ?_, fun a outside unwalked => ?_⟩
  · rw [byteAt_of_mem (finish_mem ..), byteAt_writeLanes width inv1 (rising_lanesOf _) (mem_lanesOf.2 ⟨lt, acts⟩) lo hi ?_, getD_storeBytes c d n l (by omega)]
    intro k hk later covers
    obtain ⟨kt, kacts⟩ := mem_lanesOf.1 hk
    exact highest k kt later ⟨kacts, covers⟩
  · rw [byteAt_of_mem (finish_mem ..), byteAt_writeLanes_outside width _ _ fun l hl covers => ?_, bytes a unwalked]
    obtain ⟨lt, acts⟩ := mem_lanesOf.1 hl
    exact outside l lt ⟨acts, covers⟩

/-- Settles O12: the bytes by the lanes' writes in ascending order, over the marks of the walks; the stops by the course of a memory unit. That the walks'
marks stay where the unit traps or faults is the model's choice (log 23). -/
theorem storeResults : Obligations.StoreResults := ⟨storeClaim, storesStop⟩

end Sys2Proof.Machine

/-! ## Loads that act once, and prefetch (06 R184, R185, R187) -/

namespace Sys2Proof.Machine

open Sys2Proof

/-! ### The end of a load that names no last page -/

theorem noteLooks_teams (s : State) (c : Ctx) (write : Bool) (looks : List Look) : (noteLooks s c write false looks).teams = s.teams := by
  refine List.foldlRecOn (motive := fun t : State => t.teams = s.teams) _ _ rfl fun t same k _ => ?_
  split
  · exact same
  · dsimp only
    rw [Bool.false_and, if_neg Bool.false_ne_true]
    split
    · exact (noteXlat_teams ..).trans same
    · exact (noteXlat_teams ..).trans same

/-- The group of the issuing split once its unit has ended. -/
theorem groupAfter_ended {s : State} {c : Ctx} (h : ctx? s = some c) {e : Eff} (distinct : e.distinct) (pc : DWord) :
    GroupAfter c e pc ((c.live.apply e).modSplit c.split.idx (fun sp => { tick sp with pc := pc })) := by
  obtain ⟨g, ⟨-, -, tm, team, -, group, -⟩, after⟩ := finishAt_spec h distinct pc
  obtain ⟨-, -, tm', team', -, group', -⟩ := endUnit_only h (fun g => (g.apply e).modSplit c.split.idx (fun sp => { tick sp with pc := pc }))
  obtain rfl : tm = tm' := Option.some.inj (team.symm.trans team')
  rwa [Option.some.inj (group.symm.trans group')] at after

/-- A load that acts once ends over the marks of its looks. -/
theorem finish_once {s : State} {c : Ctx} (h : ctx? s = some c) (still : s.migrations = []) {looks : List Look} {p : Nat → Piece}
    (pieces : ∀ k ∈ looks, k.piece = some (p k.lane)) (once : (looks.map (·.lane)).Nodup) {e : Eff} (distinct : e.distinct) {t : State}
    (ends : finish (noteLooks s c false false looks) c e = t) :
    ∃ g', OnlyAccess s t c g' ∧ GroupAfter c e s.unit.npc g' ∧ ∀ a, ¬ InWalked (looks.map (fun k => p k.lane)) a → t.byteAt a = s.byteAt a := by
  subst ends
  obtain ⟨-, -, marked, -, -, bytes, -, -⟩ := noteLooks_spec false false looks p pieces still c.live (groupAt_refl h) once
  have here : GroupAt s.teams (noteLooks s c false false looks).teams c c.live := by
    rw [noteLooks_teams]
    exact groupAt_refl h
  have after := groupAfter_ended h distinct (noteLooks s c false false looks).unit.npc
  refine ⟨_, ⟨marked.rest, marked.cores, onlyGroup_served (s := { noteLooks s c false false looks with teams := s.teams }) _ rfl here⟩, ?_, bytes⟩
  rw [marked.unit] at after ⊢
  exact after

/-! ### Bytes of a row -/

/-- Four bytes of a range read are the four bytes at their place. -/
theorem drop_take_bytes (s : State) (pa : Nat) {n a b : Nat} (inside : a + b ≤ n) : ((s.bytes pa n).drop a).take b = s.bytes (pa + a) b := by
  refine List.ext_getElem? fun j => ?_
  by_cases hj : j < b
  · rw [List.getElem?_take_of_lt hj, List.getElem?_drop, State.bytes, getElem?_memGetMany _ _ (by omega), State.bytes,
      getElem?_memGetMany _ _ hj, Nat.add_assoc]
  · rw [List.getElem?_eq_none (by rw [List.length_take]; omega), List.getElem?_eq_none (by rw [State.bytes, length_memGetMany]; omega)]

/-! ### ldk -/

theorem exec_ldk (l : BitVec 4) (sz : BitVec 1) (k : BitVec 4) (d : BitVec 5) (s : State) : exec (.ldk l sz k d) s = execLdk l sz k d s := rfl

theorem exec_ldl (l : BitVec 4) (sz : BitVec 2) (k : BitVec 4) (d : BitVec 6) (s : State) : exec (.ldl l sz k d) s = execLdl l sz k d s := rfl

section Once
variable {s : State} {c : Ctx} (h : ctx? s = some c) (calm : Calm s c)
include h calm

theorem ldk_completes (la : BitVec 4) (sz : BitVec 1) (k : BitVec 4) (d : BitVec 5) {p : Piece} {n : Nat} (size : (if sz = 1 then 8 else 4) = n)
    (opens : (lookAt s c .load none true (lowLane c.split.mask) (unitEa s c.group k.toNat).toNat n n).opens s p) :
    ∃ t g', exec (.ldk la sz k d) s = .next t ∧ OnlyAccess s t c g' ∧
      GroupAfter c { k := (List.range (n / 4)).map (fun j => (d.toNat + j, BitVec.ofNat 32 (natOfBytes (s.bytes (p.pa + 4 * j) 4)))) } s.unit.npc g' ∧
      ∀ a, ¬ InWalked [p] a → t.byteAt a = s.byteAt a := by
  obtain ⟨traps, fault, piece, denied, near⟩ := opens
  obtain ⟨width, class_⟩ := lookAt_piece piece
  have all : ∀ x ∈ [lookAt s c .load none true (lowLane c.split.mask) (unitEa s c.group k.toNat).toNat n n], x.opens s p := by
    intro x hx
    rw [List.mem_singleton.1 hx]
    exact ⟨traps, fault, piece, denied, near⟩
  have number : loadNum s c [lookAt s c .load none true (lowLane c.split.mask) (unitEa s c.group k.toNat).toNat n n] (lowLane c.split.mask) =
      natOfBytes (s.bytes p.pa n) := by
    rw [loadNum, List.find?_cons, lookAt_lane, beq_self_eq_true]
    dsimp only
    rw [piece]
    dsimp only
    rw [readPiece_open (class_.symm.trans denied), width]
  have words : ∀ j ∈ List.range (n / 4), (d.toNat + j, BitVec.ofNat 32 (natOfBytes (s.bytes p.pa n) / 2 ^ (32 * j))) =
      (d.toNat + j, BitVec.ofNat 32 (natOfBytes (s.bytes (p.pa + 4 * j) 4))) := by
    intro j hj
    have inside : 4 * j + 4 ≤ n := by
      have := List.mem_range.1 hj
      omega
    rw [word_of_bytes, drop_take_bytes s p.pa inside]
  have distinct : Eff.distinct { k := (List.range (n / 4)).map (fun j => (d.toNat + j, BitVec.ofNat 32 (natOfBytes (s.bytes (p.pa + 4 * j) 4)))) } := by
    refine ⟨.nil, ?_, .nil, .nil⟩
    rw [List.map_map]
    exact List.nodup_range.map fun a b same => by simpa using same
  have run : exec (.ldk la sz k d) s = .next
      (finish (noteLooks s c false false [lookAt s c .load none true (lowLane c.split.mask) (unitEa s c.group k.toNat).toNat n n]) c
        { k := (List.range (n / 4)).map (fun j => (d.toNat + j, BitVec.ofNat 32 (natOfBytes (s.bytes (p.pa + 4 * j) 4)))) }) := by
    rw [exec_ldk, execLdk, issue_eq h]
    dsimp only
    rw [size, looks_near (p := fun _ => p) all, Bool.false_and, if_neg Bool.false_ne_true,
      memCourse_opens (some c.split.mask) .load 0 _ _ (fun _ => p) calm (fits_nil s c) all, if_neg Bool.false_ne_true, settle_calm calm, number,
      List.map_congr_left words]
  obtain ⟨-, -, still, -⟩ := calm
  obtain ⟨g', only, after, bytes⟩ := finish_once h still (p := fun _ => p) (fun x hx => (all x hx).2.2.1) (List.nodup_singleton _) distinct rfl
  exact ⟨_, g', run, only, after, bytes⟩

/-! ### ldl -/

omit h calm in
theorem getD_map_range {α β : Type} (a : Nat → α) (f : α → β) (z : β) {n j : Nat} (hj : j < n) : (((List.range n).map a).map f).getD j z = f (a j) := by
  rw [List.map_map, List.getD_eq_getElem?_getD, List.getElem?_map, List.getElem?_range hj]
  rfl

theorem ldl_completes (la : BitVec 4) (sz : BitVec 2) (k : BitVec 4) (d : BitVec 6) {p : Nat → Piece}
    (opens : ∀ j < sizeOf sz, (lookAt s c .load none true j (((unitEa s c.group k.toNat).toNat + 128 * j) % 2 ^ 64) 128 128).opens s (p j))
    (fits : Fits s c { v := laneWrites d.toNat 0xffffffff#32 (sizeOf sz) (fun _ _ => 0) }) :
    ∃ t g', exec (.ldl la sz k d) s = .next t ∧ OnlyAccess s t c g' ∧
      GroupAfter c { v := laneWrites d.toNat 0xffffffff#32 (sizeOf sz) (fun j l => BitVec.ofNat 32 (natOfBytes (s.bytes ((p j).pa + 4 * l) 4))) } s.unit.npc g' ∧
      ∀ a, ¬ InWalked ((List.range (sizeOf sz)).map p) a → t.byteAt a = s.byteAt a := by
  generalize rows : (fun j => lookAt s c .load none true j (((unitEa s c.group k.toNat).toNat + 128 * j) % 2 ^ 64) 128 128) = row at *
  have named : ∀ j, (row j).lane = j := fun j => by rw [← rows]; exact lookAt_lane ..
  have at_ : ∀ j < sizeOf sz, (row j).opens s (p j) := fun j hj => by rw [← rows]; exact opens j hj
  have whole : ∀ j < sizeOf sz, readPiece s c.q (p j) = s.bytes (p j).pa 128 := by
    intro j hj
    obtain ⟨-, -, piece, denied, -⟩ := opens j hj
    obtain ⟨width, class_⟩ := lookAt_piece piece
    rw [readPiece_open (class_.symm.trans denied), width]
  have all : ∀ x ∈ (List.range (sizeOf sz)).map row, x.opens s (p x.lane) := by
    intro x hx
    obtain ⟨j, hj, rfl⟩ := List.mem_map.1 hx
    rw [named]
    exact at_ j (List.mem_range.1 hj)
  have lanes : ((List.range (sizeOf sz)).map row).map (·.lane) = List.range (sizeOf sz) := by
    rw [List.map_map]
    exact (List.map_congr_left fun j _ => named j).trans (List.map_id _)
  have pieces : ((List.range (sizeOf sz)).map row).map (fun x => p x.lane) = (List.range (sizeOf sz)).map p := by
    rw [List.map_map]
    exact List.map_congr_left fun j _ => congrArg p (named j)
  have need : Fits s c { v := (List.range (sizeOf sz)).map (fun j => (d.toNat + j, 0xffffffff#32, fun _ => 0#32)) } := fits
  have run : exec (.ldl la sz k d) s = .next (finish (noteLooks s c false false ((List.range (sizeOf sz)).map row)) c
      { v := laneWrites d.toNat 0xffffffff#32 (sizeOf sz) (fun j l => BitVec.ofNat 32 (natOfBytes (s.bytes ((p j).pa + 4 * l) 4))) }) := by
    rw [exec_ldl, execLdl, issue_eq h]
    dsimp only
    rw [rows, looks_near all, Bool.false_and, if_neg Bool.false_ne_true,
      memCourse_opens (some c.split.mask) .load 0 _ _ p calm need all, if_neg Bool.false_ne_true, settle_calm calm]
    refine congrArg Host.Outcome.next (finish_congr (fun g => apply_laneWrites_congr g [] d.toNat fun j hj l hl _ => ?_) _ _)
    obtain ⟨-, -, piece, -, -⟩ := at_ j hj
    rw [getD_map_range row _ _ hj, piece]
    dsimp only
    rw [whole j hj, drop_take_bytes s _ (by omega)]
  obtain ⟨-, -, still, -⟩ := calm
  obtain ⟨g', only, after, bytes⟩ := finish_once h still (fun x hx => (all x hx).2.2.1) (by rw [lanes]; exact List.nodup_range)
    (distinct_laneWrites [] d.toNat 0xffffffff#32 (sizeOf sz) _) rfl
  rw [pieces] at bytes
  exact ⟨_, g', run, only, after, bytes⟩

end Once

theorem wholeLoadClaim : WholeLoadClaim := by
  intro s c h calm
  refine ⟨fun la sz k d p => ?_, fun la sz k d p => ?_⟩
  · intro n opens
    exact ldk_completes h calm la sz k d rfl opens
  · intro n words opens fits
    exact ldl_completes h calm la sz k d opens fits

/-! ### pf (06 R187) -/

theorem exec_pf (r : BitVec 1) (la : BitVec 4) (i : BitVec 6) (k : BitVec 4) (s : State) : exec (.pf r la i k) s = execPf r la i k s := rfl

/-- A prefetch in a core without update-only lines flushes none (07 R219). -/
theorem flushMet_lines {s : State} {core : Nat} (upd : (s.core core).upd = []) (ls : List Nat) : ls.foldl (fun s a => flushMet s core a 128) s = s := by
  induction ls with
  | nil => rfl
  | cons a t ih => rw [List.foldl_cons, flushMet_calm upd, ih]

theorem prefetchClaim : PrefetchClaim := by
  intro s c r la i k h upd
  have unheld : ∀ f, flushHeld s c.core f = false := fun f => by rw [flushHeld, upd]; rfl
  have goes : ∀ ls : List Nat, ls.any (fun a => flushHeld s c.core (fun u => u.pa == a)) = false := by
    intro ls
    rw [List.any_eq_false]
    exact fun a _ => by rw [unheld]; exact Bool.false_ne_true
  have distinct : Eff.distinct { frees := indexMark r i } := ⟨.nil, .nil, .nil, .nil⟩
  refine ⟨_, ?_, finishAt_spec h distinct _⟩
  rw [exec_pf, execPf, issue_eq h]
  dsimp only
  rw [goes, if_neg Bool.false_ne_true, flushMet_lines upd, finish]

/-- Settles O13: the words of `ldk` and `ldl` by the bytes of their rows, the end over the marks of their walks; a prefetch by the lines that it does
not flush. That a prefetch does no more than free the names of its index mark and flush update-only lines is deduced (log 35). -/
theorem wholeLoadResults : Obligations.WholeLoadResults := ⟨wholeLoadClaim, prefetchClaim⟩

end Sys2Proof.Machine

/-! ## Every step keeps memory canonical (log 1) -/

namespace Sys2Proof.Machine

open Sys2Proof

theorem wf_runUnit (g : Option (BitVec 1 × BitVec 3)) (x : Option Ext) (body : Instr) (s : State) (h : s.Inv) : KeepsWf (runUnit g x body s) := by
  refine wf_andThen _ _ ?_ fun s1 h1 => wf_andThen _ _ ?_ fun s2 h2 => wf_exec body s2 h2
  · cases g with
    | none => exact KeepsWf.next h
    | some g => exact wf_exec _ s h
  · rcases x with _ | _ | _
    · exact KeepsWf.next h1
    · exact wf_exec _ s1 h1
    · exact wf_exec _ s1 h1

theorem wf_runParts (c : Ctx) (p : Parts) (s : State) (h : s.Inv) : KeepsWf (runParts c p s) := by
  unfold runParts
  split
  · exact wf_exec _ s h
  · split
    · split
      · exact KeepsWf.next h
      · exact wf_runUnit _ _ _ s h
    · exact wf_exec _ s h

theorem wf_issueTurn (s : State) (w : Who) (h : s.Inv) : KeepsWf (issueTurn s w) := by
  unfold issueTurn
  split
  · exact KeepsWf.next h
  · rename_i c _
    split
    · rename_i u first
      exact KeepsWf.next ((wf_replayFirst s c h).some_wf u first)
    · split
      · exact KeepsWf.next (wf_pollWait s c h)
      · split
        · split
          · exact wf_runParts _ _ _ (wf_startUnit s w c _ _ h)
          · split
            · exact KeepsWf.next (wf_fetchTrap s w c _ _ _ h)
            · exact KeepsWf.next (wf_fetchFault s w c _ h)
            · exact wf_runParts _ _ _ (wf_startUnit s w c _ _ h)
        · exact KeepsWf.next h

theorem wf_runTurn (s : State) (a : Act) (h : s.Inv) : KeepsWf (runTurn s a) := by
  cases a with
  | issue w => exact wf_issueTurn s w h
  | event e =>
    rw [runTurn]
    split
    · exact wf_exec e s h
    · exact KeepsWf.refused _
  -- Displacements of cached lines and walks touch no memory.
  | displaceLine | displaceL1 | displaceWalk => exact KeepsWf.next h
  | displaceXlat core die base => exact KeepsWf.next (wf_displaceXlatAt s core die base h)
  | cacheWalk die q va => exact KeepsWf.next (wf_cacheWalkAt s die q va h)
  | keepPast grid unit => exact KeepsWf.next (wf_keepPastAt s grid unit h)
  | servePast grid unit i => exact KeepsWf.next (wf_servePastAt s grid unit i h)
  | bitError g u => exact KeepsWf.next (wf_bitErrorAt s g u h)
  | firmware a => exact KeepsWf.next (wf_fwAct s a h)

theorem wf_step (s : State) (h : s.Inv) : KeepsWf (step s) := by
  unfold step
  split
  · exact wf_runTurn _ _ h
  · exact wf_runTurn _ _ h

/-- Settles O32: whichever turn is next, each of its courses keeps memory canonical. -/
theorem stepKeepsMemoryCanonical : Obligations.StepKeepsMemoryCanonical := fun s t h ht => (wf_step s h).next_wf t ht

end Sys2Proof.Machine

/-! ## Atomics and reductions (07 R211 to R216; 03 R88) -/

namespace Sys2Proof.Machine

open Sys2Proof

/-! ### The operations (07 R212) -/

/-- The bytes of a number are those of its residue. -/
theorem bytesOf_mod (n v : Nat) : bytesOf n (v % 2 ^ (8 * n)) = bytesOf n v := by
  have whole := bytesOf_natOfBytes (bytesOf n v)
  rwa [natOfBytes_bytesOf, bytesOf_length] at whole

/-- A format of 32 bits reads the low 32 bits (08 R243). -/
theorem fdecode_fp32_mod (v : Nat) : fdecode fp32 (v % 2 ^ 32) = fdecode fp32 v := by
  have sign : v % 2 ^ 32 / 2 ^ 31 % 2 = v / 2 ^ 31 % 2 := by omega
  have exponent : v % 2 ^ 32 / 2 ^ 23 % 2 ^ 8 = v / 2 ^ 23 % 2 ^ 8 := by omega
  have fraction : v % 2 ^ 32 % 2 ^ 23 = v % 2 ^ 23 := by omega
  have widths : fp32.ebits = 8 ∧ fp32.mbits = 23 := ⟨rfl, rfl⟩
  simp only [fdecode, widths, Nat.reduceAdd, sign, exponent, fraction]

/-- The bytes that the model's sum of FP32 values leaves are those of the sum rounded once. -/
theorem bytesOf_f32Sum (o b : Nat) :
    bytesOf 4 (f32Bits (faddRne (f32Num (BitVec.ofNat 32 o)) (f32Num (BitVec.ofNat 32 b)))).toNat = bytesOf 4 (sumIn fp32 0 o b) := by
  rw [f32Bits, f32Num, f32Num, BitVec.toNat_ofNat, BitVec.toNat_ofNat, BitVec.toNat_ofNat, fdecode_fp32_mod, fdecode_fp32_mod, bytesOf_mod 4]
  rfl

/-- The signed order of two words (07 R212). -/
theorem signedOf_lt (o b : Nat) : decide (signedOf 32 o < signedOf 32 b) = (BitVec.ofNat 32 o).slt (BitVec.ofNat 32 b) := by
  rw [signedOf_eq_toInt 32 o (by decide), signedOf_eq_toInt 32 b (by decide), BitVec.slt]

/-- The bytes that an operation leaves are those of its result. -/
theorem bytesOf_atomNew (op : AtomOp) (ty : BitVec 2) (o b x : Nat) :
    bytesOf (atomBytes ty) (atomNew op ty o b x) = bytesOf (atomBytes ty) (atomicNew op ty o b x) := by
  cases op with
  | add =>
    by_cases real : ty = 3
    · subst real
      exact bytesOf_f32Sum o b
    · by_cases wide : ty = 2
      · subst wide
        rfl
      · simp only [atomNew, atomicNew, atomBytes, real, wide, if_false]
  | min => simp only [atomNew, atomicNew, signedOf_lt]
  | max => simp only [atomNew, atomicNew, signedOf_lt]
  | and | or | xor | exch | cas => rfl

/-! ### Lanes in turn (03 R88) -/

section Turns
variable {n : Nat} {new new' : Nat → Nat → Nat} {p : Nat → Piece}

/-- A unit's lanes in sequence leave the memory and deliver the values that reading and replacing in turn does. -/
theorem sequence_inTurn (same : ∀ l o, bytesOf n (new l o) = bytesOf n (new' l o)) {looks : List Look}
    (pieces : ∀ k ∈ looks, k.piece = some (p k.lane)) (s : State) :
    (sequence n new s looks).1.mem = (inTurn n new' (fun l => (p l).pa) s.mem (looks.map (·.lane))).1 ∧
    ∀ j, oldOf (sequence n new s looks).2 j = (inTurn n new' (fun l => (p l).pa) s.mem (looks.map (·.lane))).2 j := by
  induction looks generalizing s with
  | nil => exact ⟨rfl, fun _ => rfl⟩
  | cons k t ih =>
    have memory : (s.writeNum (p k.lane).pa n (new k.lane (s.num (p k.lane).pa n))).mem =
        memSetMany s.mem (p k.lane).pa (bytesOf n (new' k.lane (natOfBytes (memGetMany s.mem (p k.lane).pa n)))) := by
      rw [State.mem_writeNum, same]
      rfl
    obtain ⟨left, olds⟩ := ih (fun j hj => pieces j (List.mem_cons_of_mem _ hj)) (s.writeNum (p k.lane).pa n (new k.lane (s.num (p k.lane).pa n)))
    rw [memory] at left olds
    rw [sequence, pieces k (List.mem_cons_self ..)]
    refine ⟨left, fun j => ?_⟩
    rw [List.map_cons, inTurn]
    dsimp only
    rw [← olds j, oldOf, List.find?_cons, oldOf]
    by_cases own : j = k.lane
    · rw [if_pos own, own, beq_self_eq_true]
      rfl
    · rw [if_neg own, beq_eq_false_iff_ne.2 (Ne.symm own)]

/-- A byte outside every lane's element is as it was. -/
theorem memGet_inTurn_outside (pa : Nat → Nat) (m : List Host.Cell) (ls : List Nat) {z : Nat} (outside : ∀ l ∈ ls, z < pa l ∨ pa l + n ≤ z) :
    memGet (inTurn n new pa m ls).1 z = memGet m z := by
  induction ls generalizing m with
  | nil => rfl
  | cons l t ih =>
    rw [inTurn]
    refine (ih _ fun j hj => outside j (List.mem_cons_of_mem _ hj)).trans (memGet_memSetMany_of_outside _ _ ?_)
    rw [bytesOf_length]
    exact outside l (List.mem_cons_self ..)

theorem marked_sequence (n : Nat) (new : Nat → Nat → Nat) {s : State} (still : s.migrations = []) (looks : List Look) :
    Marked s (sequence n new s looks).1 ∧ (sequence n new s looks).1.teams = s.teams := by
  induction looks generalizing s with
  | nil => exact ⟨.refl s, rfl⟩
  | cons k t ih =>
    rw [sequence]
    cases k.piece with
    | none => exact ih still
    | some q =>
      obtain ⟨marked, teams, still'⟩ := write_marked still q.pa (bytesOf n (new k.lane (s.num q.pa n)))
      obtain ⟨marked', teams'⟩ := ih still'
      exact ⟨marked.trans marked', teams'.trans teams⟩

end Turns

/-! ### A unit whose lanes act in sequence over the marks of their walks -/

section Course
variable {s : State} {c : Ctx} {acc : Acc} {m : BitVec 32} {n : Nat} {ea : Nat → Nat} {p : Nat → Piece} (h : ctx? s = some c) (still : s.migrations = [])
  (pieces : ∀ l < 32, m.getLsbD l = true → (lookAt s c acc (tabGet c.group.lastPage l) true l (ea l) n n).piece = some (p l))
include h still pieces

/-- The unit ends with its effect, which may take the old values that its lanes found, and memory is as the lanes in turn leave it. -/
theorem finish_sequence {new new' : Nat → Nat → Nat} (same : ∀ l o, bytesOf n (new l o) = bytesOf n (new' l o)) {e : (Nat → Nat) → Eff}
    (distinct : ∀ f, (e f).distinct) :
    let looks := looksOf s c acc m n ea
    let marks := noteLooks s c true true looks
    let t := finish (sequence n new marks looks).1 c (e (oldOf (sequence n new marks looks).2))
    let r := inTurn n new' (fun l => (p l).pa) marks.mem (lanesOf m)
    ∃ g', OnlyAccess s t c g' ∧ GroupAccess c (e r.2) s.unit.npc true m p g' ∧ t.mem = r.1 ∧
      ∀ z, (∀ l < 32, m.getLsbD l = true → z < (p l).pa ∨ (p l).pa + n ≤ z) → ¬ InWalked ((lanesOf m).map p) z → t.byteAt z = s.byteAt z := by
  intro looks marks t r
  have all : ∀ k ∈ looks, k.piece = some (p k.lane) := forall_looksOf (P := fun l k => k.piece = some (p l)) pieces
  have lanes : looks.map (·.lane) = lanesOf m := lane_looksOf ..
  have once : (looks.map (·.lane)).Nodup := by
    rw [lanes]
    exact nodup_lanesOf _
  obtain ⟨g, at_, marked, still1, -, bytes, only, pages⟩ := noteLooks_spec true true looks p all still c.live (groupAt_refl h) once
  obtain ⟨written, teams⟩ := marked_sequence n new still1 looks
  obtain ⟨memory, olds⟩ := sequence_inTurn (n := n) same all marks
  rw [lanes] at memory olds
  rw [pieces_looksOf] at bytes
  have whole := marked.trans written
  have named : ∀ l < 32, tabGet g.lastPage l =
      if m.getLsbD l = true ∧ (p l).x.region ≠ 1 then some (noted (p l).x true (p l).walked) else tabGet c.live.lastPage l := by
    intro l hl
    rw [pages l]
    simp only [looks, exists_looksOf (s := s) (c := c) (acc := acc) (n := n) (ea := ea) (ro := false) hl, true_and]
  obtain ⟨g', access, group⟩ := finish_access (distinct (oldOf (sequence n new marks looks).2)) true m p whole.unit whole (by rw [teams]; exact at_)
    only named
  rw [funext olds] at group
  refine ⟨g', access, group, memory, fun z outside unwalked => ?_⟩
  have kept : memGet r.1 z = memGet marks.mem z := memGet_inTurn_outside _ _ _ fun l hl => outside l (mem_lanesOf.1 hl).1 (mem_lanesOf.1 hl).2
  rw [← memory] at kept
  exact kept.trans (bytes z unwalked)

end Course

/-! ### The 14 forms -/

theorem atomicForm_runs {i : Instr} {s : State} {c : Ctx} {op : AtomOp} {ty : BitVec 2} {y x : BitVec 1} {b : BitVec 6} {a : BitVec 5}
    {d : Option (BitVec 6)} (h : ctx? s = some c) (form : atomicForm i = some (op, ty, y, x, b, a, d)) :
    exec i s = .next (atomUnit s c op ty y x b a (d.map BitVec.toNat)) := by
  unfold atomicForm at form
  split at form <;> cases form
  all_goals exact issue_eq h _

/-- The words that an `atom` writes are those of a load of its size. -/
theorem words_atomic (ty : BitVec 2) (r : Nat) (m : BitVec 32) (f : Nat → Nat) :
    (List.range (atomBytes ty / 4)).map (fun j => (r + j, m, fun l => BitVec.ofNat 32 (f l / 2 ^ (32 * j)))) = loadWrites r (atomBytes ty) m f := by
  have words : (atomBytes ty + 3) / 4 = atomBytes ty / 4 := by
    unfold atomBytes
    split <;> rfl
  rw [loadWrites, words]

theorem laneNum_atomBytes (g : Group) (ty : BitVec 2) (r l : Nat) :
    laneNum g (atomBytes ty) r l = if ty = 2 then (g.vpair r l).toNat else (g.vlane r l).toNat := by
  by_cases wide : ty = 2 <;> simp [laneNum, atomBytes, wide]

/-- What the unit writes to registers: the old values, where it has a destination. -/
def oldWrites (d : Option (BitVec 6)) (n : Nat) (m : BitVec 32) (f : Nat → Nat) : List (Nat × BitVec 32 × (Nat → Word)) :=
  match d with
  | none => []
  | some r => (List.range (n / 4)).map (fun j => (r.toNat + j, m, fun l => BitVec.ofNat 32 (f l / 2 ^ (32 * j))))

/-- The value that `cas` compares with: its destination's (07 R212). -/
def compared (num : Nat → Nat) (d : Option (BitVec 6)) : Nat := (d.map (fun r => num r.toNat)).getD 0

theorem distinct_oldWrites (fr : List Nat) (d : Option (BitVec 6)) (ty : BitVec 2) (m : BitVec 32) (f : Nat → Nat) :
    Eff.distinct { frees := fr, v := oldWrites d (atomBytes ty) m f } := by
  cases d with
  | none => exact ⟨.nil, .nil, .nil, .nil⟩
  | some r =>
    rw [oldWrites, words_atomic]
    exact distinct_loadWrites ..

section Unit
variable {s : State} {c : Ctx} {ty : BitVec 2} {y x : BitVec 1} {b : BitVec 6} {a : BitVec 5} {d : Option (BitVec 6)} {p : Nat → Piece}

/-- An atomic or a reduction takes the course of a memory unit, in which its lanes act in sequence over the marks of their walks. -/
theorem atomUnit_course (op : AtomOp) :
    let looks := looksOf s c .atomic (acting s c) (atomBytes ty) (pairEa c.group a)
    let frees := mark x (2 * a.toNat) 2 ++ mark y b.toNat (atomBytes ty / 4)
    atomUnit s c op ty y x b a (d.map BitVec.toNat) =
      memCourse s c none .atomic 2 looks [] { frees := frees, v := oldWrites d (atomBytes ty) (acting s c) (fun _ => 0) } fun s' =>
        let r := sequence (atomBytes ty) (fun l o => atomNew op ty o (laneNum c.group (atomBytes ty) b.toNat l)
          (compared (laneNum c.group (atomBytes ty) · l) d)) (noteLooks (settle s' c looks) c true true looks) looks
        finish r.1 c { frees := frees, v := oldWrites d (atomBytes ty) (acting s c) (oldOf r.2) } := by
  cases d with
  | none => rfl
  | some r =>
    simp only [oldWrites, words_atomic]
    rfl

/-- One that nothing stops ends with the old values that its lanes found. -/
theorem atomUnit_opens (calm : Calm s c) (op : AtomOp)
    (opens : ∀ l < 32, (acting s c).getLsbD l = true →
      (lookAt s c .atomic (tabGet c.group.lastPage l) true l (pairEa c.group a l) (atomBytes ty) (atomBytes ty)).opens s (p l))
    (fits : Fits s c { frees := mark x (2 * a.toNat) 2 ++ mark y b.toNat (atomBytes ty / 4), v := oldWrites d (atomBytes ty) (acting s c) (fun _ => 0) }) :
    let looks := looksOf s c .atomic (acting s c) (atomBytes ty) (pairEa c.group a)
    let r := sequence (atomBytes ty) (fun l o => atomNew op ty o (laneNum c.group (atomBytes ty) b.toNat l)
      (compared (laneNum c.group (atomBytes ty) · l) d)) (noteLooks s c true true looks) looks
    atomUnit s c op ty y x b a (d.map BitVec.toNat) = finish r.1 c
      { frees := mark x (2 * a.toNat) 2 ++ mark y b.toNat (atomBytes ty / 4), v := oldWrites d (atomBytes ty) (acting s c) (oldOf r.2) } := by
  intro looks r
  have all : ∀ k ∈ looks, k.opens s (p k.lane) := forall_looksOf (P := fun l k => k.opens s (p l)) opens
  rw [atomUnit_course, memCourse_opens none .atomic 2 _ _ p calm fits all, settle_calm calm]

end Unit

theorem atomicClaim : AtomicClaim := by
  intro i s c op ty y x b a d p form h calm n m ea val olds frees opens fits marks r
  have written : olds = oldWrites d n m := by cases d <;> rfl
  have turns : r = inTurn n (fun l o => atomicNew op ty o (val b.toNat l) (compared (val · l) d)) (fun l => (p l).pa) marks.mem (lanesOf m) := by
    cases d <;> rfl
  have run := atomicForm_runs h form
  rw [written] at fits
  rw [atomUnit_opens calm op opens fits] at run
  have same : ∀ l o, bytesOf n (atomNew op ty o (laneNum c.group (atomBytes ty) b.toNat l) (compared (laneNum c.group (atomBytes ty) · l) d)) =
      bytesOf n (atomicNew op ty o (val b.toNat l) (compared (val · l) d)) := by
    intro l o
    simp only [laneNum_atomBytes]
    exact bytesOf_atomNew ..
  obtain ⟨-, -, still, -⟩ := calm
  obtain ⟨g', access, group, memory, outside⟩ := finish_sequence h still (fun l hl acts => (opens l hl acts).2.2.1) same
    (distinct_oldWrites frees d ty m)
  rw [← turns] at group memory
  rw [written]
  exact ⟨_, g', run, access, group, memory, outside⟩

/-! ### Where they stop -/

/-- A form of single lanes that is atomic is one of the 14. -/
theorem accessForm_atomic {s : State} {c : Ctx} {i : Instr} {e : Eff} {looks : List Look} (form : accessForm s c i = some (.atomic, e, looks)) :
    ∃ op ty y x b a d, atomicForm i = some (op, ty, y, x, b, a, d) ∧
      e = { frees := mark x (2 * a.toNat) 2 ++ mark y b.toNat (atomBytes ty / 4), v := oldWrites d (atomBytes ty) (acting s c) (fun _ => 0) } ∧
      looks = looksOf s c .atomic (acting s c) (atomBytes ty) (pairEa c.group a) := by
  unfold accessForm at form
  dsimp only at form
  split at form
  · cases form
  · cases form
  · rename_i op ty y x b a d found _ _
    cases form
    refine ⟨op, ty, y, x, b, a, d, found, ?_, rfl⟩
    cases d with
    | none => rfl
    | some r => simp only [oldWrites, Nat.zero_div]; rfl
  all_goals cases form

theorem atomicsStop : AccessStops (· == .atomic) := by
  intro i s c acc e looks h form kind _ traps
  obtain rfl : acc = .atomic := by simpa using kind
  obtain ⟨op, ty, y, x, b, a, d, found, rfl, rfl⟩ := accessForm_atomic form
  obtain ⟨act, run⟩ : ∃ act, exec i s = .next (memCourse s c none .atomic 2 (looksOf s c .atomic (acting s c) (atomBytes ty) (pairEa c.group a)) []
      { frees := mark x (2 * a.toNat) 2 ++ mark y b.toNat (atomBytes ty / 4), v := oldWrites d (atomBytes ty) (acting s c) (fun _ => 0) } act) := by
    rw [atomicForm_runs h found, atomUnit_course]
    exact ⟨_, rfl⟩
  obtain ⟨trapped, faulted⟩ := memCourse_stops (acc := .atomic) h act
  exact ⟨fun k low => ⟨_, run, trapped k low⟩, fun f low fault => run.trans (congrArg _ (faulted f low fault))⟩

/-- Settles O16: the operations by their bytes, the lanes in turn over the marks of their walks, the stops by the course of a memory unit. That the walks'
marks stay where the unit traps or faults is the model's choice (log 23). -/
theorem atomicResults : Obligations.AtomicResults := ⟨atomicClaim, atomicsStop⟩

end Sys2Proof.Machine

/-! ## Fences (07 R219, R221, R222; 03 R93; 12 R363) -/

namespace Sys2Proof.Machine

open Sys2Proof

/-! ### What a flush and the closing of an entry leave (07 R218, R219; 12 R363) -/

/-- Only memory with the marks that writes leave, the cores and the write-combining entries may differ. -/
structure WritesOut (s t : State) : Prop where
  rest : { t with mem := s.mem, bad := s.bad, spadDirty := s.spadDirty, l1Lines := s.l1Lines, migrations := s.migrations, cores := s.cores, wc := s.wc } = s

namespace WritesOut

variable {s t u : State}

theorem refl (s : State) : WritesOut s s := ⟨rfl⟩

theorem trans (h : WritesOut s t) (k : WritesOut t u) : WritesOut s u :=
  ⟨(congrArg (fun x : State => { x with
    mem := s.mem, bad := s.bad, spadDirty := s.spadDirty, l1Lines := s.l1Lines, migrations := s.migrations, cores := s.cores
    wc := s.wc }) k.rest).trans h.rest⟩

theorem of_memoryOnly (h : MemoryOnly s t) : WritesOut s t := ⟨(congrArg (fun x : State => { x with cores := s.cores, wc := s.wc }) h.rest :)⟩

theorem teams (h : WritesOut s t) : t.teams = s.teams := (congrArg State.teams h.rest :)

theorem unit (h : WritesOut s t) : t.unit = s.unit := (congrArg State.unit h.rest :)

end WritesOut

theorem flushLines_memoryOnly (s : State) (us : List UpdLine) : MemoryOnly s (us.foldl flushLine s) :=
  List.foldlRecOn (motive := MemoryOnly s) _ _ (.refl s) fun t only u _ => only.trans (flushLine_memoryOnly t u)

theorem MemoryOnly.cores {s t : State} (h : MemoryOnly s t) : t.cores = s.cores := (congrArg State.cores h.rest :)

theorem flushCore_writesOut (s : State) (core : Nat) (p : UpdLine → Bool) : WritesOut s (flushCore s core p) := by
  unfold flushCore
  dsimp only
  split
  · exact .refl s
  · exact .trans (.of_memoryOnly (flushLines_memoryOnly s _)) ⟨rfl⟩

/-- A core keeps the lines that its flush does not pick. -/
theorem upd_flushCore (s : State) (core : Nat) (p : UpdLine → Bool) :
    ((flushCore s core p).core core).upd = (s.core core).upd.filter (fun u => !p u) := by
  unfold flushCore
  dsimp only
  split
  · rename_i none_
    refine (List.filter_eq_self.2 fun u hu => ?_).symm
    simpa using List.filter_eq_nil_iff.1 (List.isEmpty_iff.1 none_) u hu
  · rw [core_modCore_self, State.core, (flushLines_memoryOnly s _).cores, State.core]

theorem wc_flushCore (s : State) (core : Nat) (p : UpdLine → Bool) : (flushCore s core p).wc = s.wc := by
  unfold flushCore
  dsimp only
  split
  · rfl
  · exact (flushLines_memoryOnly s _).wc

theorem closeWc_writesOut (s : State) (id : Nat) : WritesOut s (closeWc s id) ∧ (closeWc s id).cores = s.cores := by
  cases hw : tabGet s.wc id with
  | none =>
    rw [closeWc_of_none hw]
    exact ⟨.refl s, rfl⟩
  | some w =>
    have closed := closeWc_memoryOnly hw
    exact ⟨.trans (t := { s with wc := tabDel s.wc id }) ⟨rfl⟩ (.of_memoryOnly closed), closed.cores⟩

theorem closeWcs_writesOut (s : State) (p : WcEntry → Bool) : WritesOut s (closeWcs s p) ∧ (closeWcs s p).cores = s.cores := by
  unfold closeWcs
  split
  · exact ⟨.refl s, rfl⟩
  · refine List.foldlRecOn (motive := fun t : State => WritesOut s t ∧ t.cores = s.cores) _ _ ⟨.refl s, rfl⟩ fun t kept id _ => ?_
    obtain ⟨out, cores⟩ := closeWc_writesOut t id
    exact ⟨kept.1.trans out, cores.trans kept.2⟩

/-! ### Which entries are closed (12 R363) -/

theorem mem_tabDel {β : Type} {t : Tab β} {k : Nat} {x : Nat × β} : x ∈ tabDel t k ↔ x ∈ t ∧ x.1 ≠ k := by
  induction t with
  | nil => simp [tabDel]
  | cons y t ih =>
    obtain ⟨a, b⟩ := y
    rw [tabDel]
    split
    · rename_i same
      rw [ih, List.mem_cons]
      constructor
      · rintro ⟨there, ne⟩
        exact ⟨.inr there, ne⟩
      · rintro ⟨rfl | there, ne⟩
        · exact absurd same ne
        · exact ⟨there, ne⟩
    · rename_i other
      rw [List.mem_cons, ih, List.mem_cons]
      constructor
      · rintro (rfl | ⟨there, ne⟩)
        · exact ⟨.inl rfl, other⟩
        · exact ⟨.inr there, ne⟩
      · rintro ⟨rfl | there, ne⟩
        · exact .inl rfl
        · exact .inr ⟨there, ne⟩

theorem ne_of_tabGet_none {β : Type} {t : Tab β} {k : Nat} (none_ : tabGet t k = none) {x : Nat × β} (hx : x ∈ t) : x.1 ≠ k := by
  induction t with
  | nil => cases hx
  | cons y t ih =>
    obtain ⟨a, b⟩ := y
    rw [tabGet_cons] at none_
    split at none_
    · cases none_
    · rename_i other
      rcases List.mem_cons.1 hx with rfl | there
      · exact other
      · exact ih none_ there

theorem mem_wc_closeWc {s : State} {id : Nat} {x : Nat × WcEntry} : x ∈ (closeWc s id).wc ↔ x ∈ s.wc ∧ x.1 ≠ id := by
  cases hw : tabGet s.wc id with
  | none =>
    rw [closeWc_of_none hw]
    exact ⟨fun hx => ⟨hx, ne_of_tabGet_none hw hx⟩, And.left⟩
  | some w =>
    rw [(closeWc_memoryOnly hw).wc]
    exact mem_tabDel

theorem mem_wc_foldl_closeWc {s : State} {ids : List Nat} {x : Nat × WcEntry} : x ∈ (ids.foldl closeWc s).wc ↔ x ∈ s.wc ∧ x.1 ∉ ids := by
  induction ids generalizing s with
  | nil => simp
  | cons id t ih => rw [List.foldl_cons, ih, mem_wc_closeWc, List.mem_cons, not_or, and_assoc]

/-- An entry that is picked is closed. -/
theorem unpicked_of_mem_closeWcs {s : State} {p : WcEntry → Bool} {x : Nat × WcEntry} (hx : x ∈ (closeWcs s p).wc) : p x.2 = false := by
  unfold closeWcs at hx
  split at hx
  · rename_i empty
    rw [List.isEmpty_iff.1 empty] at hx
    cases hx
  · obtain ⟨there, open_⟩ := mem_wc_foldl_closeWc.1 hx
    by_contra picked
    exact open_ (List.mem_map.2 ⟨x, List.mem_filter.2 ⟨there, by simpa using picked⟩, rfl⟩)

/-! ### A release (07 R219, R222; 12 R363) -/

/-- A release leaves no update-only line on its core and no write-combining entry with a store of its group. -/
theorem releaseWrites_spec (s : State) (c : Ctx) : WritesOut s (releaseWrites s c) ∧ ((releaseWrites s c).core c.core).upd = [] ∧
    ∀ w ∈ (releaseWrites s c).wc, (c.key, c.group.num) ∉ w.2.writers := by
  obtain ⟨out, cores⟩ := closeWcs_writesOut (flushCore s c.core (fun _ => true)) (fun w => w.writers.contains (c.key, c.group.num))
  refine ⟨(flushCore_writesOut ..).trans out, ?_, fun w hw writes => ?_⟩
  · rw [releaseWrites, closeFor, State.core, cores]
    exact (upd_flushCore ..).trans (List.filter_eq_nil_iff.2 fun _ _ => Bool.false_ne_true)
  · have unpicked := unpicked_of_mem_closeWcs hw
    rw [List.contains_iff_mem.2 writes] at unpicked
    cases unpicked

/-- A unit that ends in a state with the same teams leaves the same teams. -/
theorem finish_teams_of_same {s t : State} (teams : t.teams = s.teams) (unit_ : t.unit = s.unit) (c : Ctx) (e : Eff) :
    (finish t c e).teams = (finish s c e).teams := by
  simp only [finish, finishAt, endUnit, State.modGroup, State.modTeam, teams, unit_]

theorem exec_fenceAcq (sc : BitVec 3) (s : State) : exec (.fenceAcq sc) s = execFenceAcq sc s := rfl

/-- A full fence, a release and `tfence` take the same course, whatever their scope (log 6). -/
theorem exec_release {s : State} {c : Ctx} (h : ctx? s = some c) {sc : BitVec 3} {i : Instr} (hi : i ∈ [Instr.fence sc, .fenceRel sc, .tfence sc]) :
    exec i s = .next (fenceUnit s c) := by
  simp only [List.mem_cons, List.not_mem_nil, or_false] at hi
  rcases hi with rfl | rfl | rfl
  all_goals exact issue_eq h _

theorem fenceClaim : FenceClaim := by
  intro s c sc h
  have ends : Completes s (finish s c {}) c {} := finishAt_spec h distinct_nil _
  refine ⟨fun ready => ⟨_, ?_, ends⟩, fun waits => ?_, fun i hi => ⟨fun waits => ?_, fun ready upd wc => ⟨_, ?_, ends⟩, fun ready => ?_⟩⟩
  · rw [exec_fenceAcq, execFenceAcq, issue_eq h, ready, if_neg Bool.false_ne_true]
  · rw [exec_fenceAcq, execFenceAcq, issue_eq h, waits, if_pos rfl]
  · rw [exec_release h hi, fenceUnit, waits, if_pos rfl]
  · rw [exec_release h hi, fenceUnit, ready, if_neg Bool.false_ne_true, releaseWrites_calm upd wc]
  · obtain ⟨out, lines, entries⟩ := releaseWrites_spec s c
    obtain ⟨g', ⟨-, others, team⟩, after⟩ := ends
    refine ⟨finish (releaseWrites s c) c {}, ?_, lines, entries, g', ?_, after⟩
    · rw [exec_release h hi, fenceUnit, ready, if_neg Bool.false_ne_true]
    · rw [finish_teams_of_same out.teams out.unit]
      exact ⟨others, team⟩

/-- Settles O18: a fence that waits leaves the state as it is; a release by what its flush and its closing of entries leave. That every scope orders for all
is the model's choice (log 6), and that an acquire waits for the bank updates of its team is deduced (log 34). -/
theorem fenceResults : Obligations.FenceResults := fenceClaim

end Sys2Proof.Machine

/-! ## Bank updates (07 R218, R229) -/

namespace Sys2Proof.Machine

open Sys2Proof

/-- A translation to the frame at 0x30000000, writable and dirty, as of a page at `base`. -/
def heldFrom (base : Nat) : Xlat :=
  { base := base, size := 65536, leaf := 0xc0030e0000003000, leafAt := 0x20004000, asid := hostQueue.asid, gen := hostQueue.gen }

/-- A group of two lanes, which address the bytes 0 and 4 with 1 as their operand. The last-page register of lane 1 holds a translation whose base, 3, is no
multiple of a page size, so that byte 4 of its page is byte 1 of the frame. No walk leaves such a translation (07 R223, R225), and `BankClaim` does not rule
it out. -/
def bentPage : State :=
  bare.grp (fun g => flat 12 1 (flat 11 0 (lanes 10 [0, 4]
    { g with lastPage := [(0, heldFrom 0), (1, heldFrom 3)], splits := [⟨0x10000, 0x3, 0, [], .none, [], none⟩] })))

def bentCtx : Ctx := itsCtx bentPage

theorem ctx?_bentPage : ctx? bentPage = some bentCtx := by decide +kernel

theorem bentPage_calm : Calm bentPage bentCtx := by
  unfold Calm
  decide +kernel

/-- The look of a lane of the unit. -/
def bentLook (l : Nat) : Look := lookAt bentPage bentCtx .bank (tabGet bentCtx.group.lastPage l) true l (bentCtx.group.vpair 10 l).toNat 4 4

theorem bentLook_opens : ∀ l < 32, (acting bentPage bentCtx).getLsbD l = true → (bentLook l).opens bentPage (bentLook l).part := by
  unfold Look.opens
  decide +kernel

/-- The update-only lines of core 0 in the state that an outcome answers. -/
def linesAfter (o : Out) : List UpdLine :=
  match o with
  | .next t => (t.core 0).upd
  | _ => []

/-- Bytes 0 and 1 of the frame lie in one element, in which the model merges both operands. -/
theorem bentPage_model : ∀ u ∈ linesAfter (exec (.bupdAdd 2 0 0 12 5) bentPage), tabGet u.elems 0 = some 2#32 := by decide +kernel

/-- The statement counts only the lanes whose physical address is that of lane 0, which is lane 0 itself. -/
theorem bentPage_stated : foldOver (bankUpd 0 2) (((lanesOf (acting bentPage bentCtx)).filter (fun j => (bentLook j).part.pa == (bentLook 0).part.pa)).map
    (fun j => bentCtx.group.vlane 12 j)) = 1#32 := by decide +kernel

theorem not_bankClaim : ¬ BankClaim := by
  intro claim
  obtain ⟨-, merged⟩ := claim (.bupdAdd 2 0 0 12 5) bentPage bentCtx false 0 2 0 0 12 5 (fun l => (bentLook l).part) rfl ctx?_bentPage bentPage_calm
    bentLook_opens
  obtain ⟨t, g', run, -, -, -, lines⟩ := merged rfl
  obtain ⟨u, there, place, -, -, -, -, elem⟩ := lines 0 (by decide) (by decide +kernel)
  have first : ((bentLook 0).part.pa - (bentLook 0).part.pa / 128 * 128) / 4 = 0 := by decide +kernel
  have stated : tabGet u.elems 0 = some 1#32 := by
    rw [place, first] at elem
    exact elem.trans (congrArg some bentPage_stated)
  have model := bentPage_model u (by rw [run]; exact there)
  exact absurd (model.symm.trans stated) (by decide)

/-- Refutes O17: `bupd` merges two lanes whose translations come from last-page registers, one with a base that is no page boundary, into one element, of which
`BankClaim` gives the value of one lane: the claim does not ask that held translations begin at a page (07 R223, R229). -/
theorem not_bankUpdates : ¬ Obligations.BankUpdates := fun h => not_bankClaim h.1

end Sys2Proof.Machine

/-! ## Page migrations (07 R210, R233, R234) -/

namespace Sys2Proof.Machine

open Sys2Proof

/-! ### What a step of a migration leaves of the others, and of the replies -/

/-- A migration's name, and whether its command has begun. -/
def migEntry (x : Nat × Migration) : Nat × Bool := (x.1, x.2.begun)

/-- No migration comes, goes or begins, and no reply is made. -/
structure MigsKept (s t : State) : Prop where
  entries : t.migrations.map migEntry = s.migrations.map migEntry
  replies : t.replies = s.replies

/-- A write marks lines of migrations as dirty, and changes nothing else of them (07 R233). -/
theorem markDirty_entries (ms : Tab Migration) (pa n : Nat) : (markDirty ms pa n).map migEntry = ms.map migEntry := by
  rw [markDirty, List.map_map]
  refine List.map_congr_left fun x _ => ?_
  dsimp only [Function.comp]
  split <;> rfl

namespace MigsKept

variable {s t u : State}

theorem refl (s : State) : MigsKept s s := ⟨rfl, rfl⟩

theorem trans (h : MigsKept s t) (k : MigsKept t u) : MigsKept s u := ⟨k.entries.trans h.entries, k.replies.trans h.replies⟩

theorem write (s : State) (pa : Nat) (bs : List Byte) : MigsKept s (s.write pa bs) := by
  refine ⟨?_, rfl⟩
  rw [State.write, State.touched]
  dsimp only
  split
  · rfl
  · exact markDirty_entries ..

theorem writeNum (s : State) (pa n v : Nat) : MigsKept s (s.writeNum pa n v) := write ..

theorem rung (s : State) (fw : Firmware) : MigsKept s ({ s with fw := fw }.irq 0) := ⟨rfl, rfl⟩

theorem dropPage (s : State) (asid va size : Nat) : MigsKept s (dropPage s asid va size) := ⟨rfl, rfl⟩

theorem moveUpdates (s : State) (m : Migration) : MigsKept s (moveUpdates s m) := ⟨rfl, rfl⟩

theorem foldl {α : Type} {f : State → α → State} (h : ∀ s x, MigsKept s (f s x)) (xs : List α) (s : State) : MigsKept s (xs.foldl f s) :=
  List.foldlRecOn (motive := MigsKept s) xs f (refl s) fun t ht x _ => ht.trans (h t x)

theorem copyLine (s : State) (src dest : Nat) : MigsKept s (copyLine s src dest) :=
  .trans (write s dest (s.bytes src 128)) ⟨rfl, rfl⟩

theorem copyLines (s : State) (m : Migration) (ls : List Nat) : MigsKept s (copyLines s m ls) := foldl (fun s _ => copyLine s _ _) ls s

theorem flushCore (s : State) (core : Nat) (p : UpdLine → Bool) : MigsKept s (flushCore s core p) := by
  have line : ∀ s u, MigsKept s (flushLine s u) := fun s u => foldl (fun s _ => write s _ _) u.elems s
  unfold Machine.flushCore
  dsimp only
  split
  · exact refl s
  · exact .trans (foldl line _ s) ⟨rfl, rfl⟩

/-- None of the others waits. -/
theorem noneWaits (h : MigsKept s t) {g : Nat} (none_ : noneWaits s g) : noneWaits t g := by
  intro x hx ne
  have there : migEntry x ∈ t.migrations.map migEntry := List.mem_map_of_mem hx
  rw [h.entries] at there
  obtain ⟨y, hy, same⟩ := List.mem_map.1 there
  have key : y.1 = x.1 := (congrArg Prod.fst same :)
  have begun : y.2.begun = x.2.begun := (congrArg Prod.snd same :)
  exact begun.symm.trans (none_ y hy (key.trans_ne ne))

theorem tabGet_none (h : MigsKept s t) {g : Nat} (gone : tabGet s.migrations g = none) : tabGet t.migrations g = none := by
  have isNone (ms : Tab Migration) : (tabGet ms g).isNone = ((ms.map migEntry).all fun e => e.1 != g) := by
    induction ms with
    | nil => rfl
    | cons x ms ih =>
      obtain ⟨k, m⟩ := x
      rw [tabGet_cons, List.map_cons, List.all_cons, ← ih]
      by_cases own : k = g <;> simp [migEntry, own]
  rw [← Option.isNone_iff_eq_none, isNone, h.entries, ← isNone, gone]
  rfl

end MigsKept

/-! ### The end of a migration (07 R233; 17 R470) -/

/-- A state after the second reply of a command that was accepted. -/
theorem secondReply_spec (s : State) (cmd : Master × BitVec 32) (r : List DWord) :
    MigsKept { s with replies := { master := cmd.1, tag := cmd.2, status := 0, r := r } :: s.replies } (secondReply s (some cmd) r) := by
  obtain ⟨m, tag⟩ := cmd
  unfold secondReply addReply
  dsimp only
  split
  · refine .trans ?_ (.rung _ _)
    split
    · exact .write ..
    · exact .refl _
  · split
    · exact ⟨rfl, rfl⟩
    · unfold remoteReply
      dsimp only
      split
      · exact .refl _
      · exact ⟨rfl, rfl⟩

/-- A migration is gone and its command has its second reply. -/
def Gone (s t : State) (g : Nat) (m : Migration) (r : DWord) : Prop :=
  tabGet t.migrations g = none ∧ t.replies = { master := m.cmd.1, tag := m.cmd.2, status := 0, r := [r] } :: s.replies

theorem Gone.of_kept {s u t : State} {g : Nat} {m : Migration} {r : DWord} (kept : MigsKept s u) (gone : Gone u t g m r) : Gone s t g m r := by
  obtain ⟨left, replies⟩ := gone
  exact ⟨left, by rw [replies, kept.replies]⟩

/-- Where no command waits, none begins at the end. -/
theorem endMigration_gone {s : State} {g : Nat} (none_ : noneWaits s g) (m : Migration) (r : DWord) : Gone s (endMigration s g m r) g m r := by
  have kept := secondReply_spec { s with migrations := tabDel s.migrations g } m.cmd [r]
  have begun : noneWaits (secondReply { s with migrations := tabDel s.migrations g } (some m.cmd) [r]) g :=
    kept.noneWaits fun x hx ne => none_ x (mem_tabDel.1 hx).1 ne
  have left : tabGet (secondReply { s with migrations := tabDel s.migrations g } (some m.cmd) [r]).migrations g = none :=
    kept.tabGet_none (tabGet_tabDel_self ..)
  unfold endMigration
  dsimp only
  rw [List.filter_eq_nil_iff.2 fun x hx => ?_]
  · exact ⟨left, kept.replies⟩
  · rw [begun x hx (ne_of_tabGet_none left hx)]
    exact Bool.false_ne_true

/-- The end of a migration in a state that a part of its step has led to. -/
theorem endMigration_gone_of_kept {s u : State} {g : Nat} (kept : MigsKept s u) (none_ : noneWaits s g) (m : Migration) (r : DWord) :
    Gone s (endMigration u g m r) g m r :=
  (endMigration_gone (kept.noneWaits none_) m r).of_kept kept

theorem abandonMig_gone {s : State} {g : Nat} (none_ : noneWaits s g) (m : Migration) : Gone s (abandonMig s g m) g m migChanged := by
  unfold abandonMig
  split
  · dsimp only
    split
    · exact endMigration_gone_of_kept (.trans (.writeNum ..) (.dropPage ..)) none_ ..
    · exact endMigration_gone_of_kept (.writeNum ..) none_ ..
  · exact endMigration_gone none_ m migChanged

/-- The end of an acknowledged migration, which is taken out first: its lines are flushed to the destination (07 R219, R233). -/
theorem flushed_gone {s u : State} {g : Nat} (kept : MigsKept s u) (none_ : noneWaits s g) (m : Migration) (cores : List Nat) (p : UpdLine → Bool)
    (r : DWord) : Gone s (endMigration (cores.foldl (fun s c => flushCore s c p) { u with migrations := tabDel u.migrations g }) g m r) g m r := by
  have left : noneWaits { u with migrations := tabDel u.migrations g } g := fun x hx ne => kept.noneWaits none_ x (mem_tabDel.1 hx).1 ne
  obtain ⟨gone, replies⟩ := endMigration_gone_of_kept (.foldl (fun s c => .flushCore s c p) cores _) left m r
  exact ⟨gone, replies.trans (by rw [kept.replies])⟩

/-! ### Copied lines (07 R233) -/

theorem mem_copyLine (s : State) (src dest : Nat) : (copyLine s src dest).mem = (s.write dest (s.bytes src 128)).mem := by rw [copyLine]

theorem byteAt_copyLine {s : State} (inv : s.Inv) (src dest : Nat) {j : Nat} (hj : j < 128) :
    (copyLine s src dest).byteAt (dest + j) = s.byteAt (src + j) := by
  have length : (s.bytes src 128).length = 128 := length_memGetMany ..
  rw [byteAt_of_mem (mem_copyLine s src dest), byteAt_write_same inv dest _ (by rwa [length]), List.getD_eq_getElem?_getD, State.bytes,
    getElem?_memGetMany _ _ hj]
  rfl

theorem byteAt_copyLine_outside (s : State) {src dest a : Nat} (outside : a < dest ∨ dest + 128 ≤ a) : (copyLine s src dest).byteAt a = s.byteAt a := by
  have length : (s.bytes src 128).length = 128 := length_memGetMany ..
  rw [byteAt_of_mem (mem_copyLine s src dest), byteAt_write_outside s _ (by rwa [length])]

section Page
variable {s : State} {m : Migration} (inv : s.Inv) (source : m.src % 128 = 0) (apart : m.src + m.size ≤ m.dest ∨ m.dest + m.size ≤ m.src)
include inv source apart

/-- The first lines of a page, copied to a frame that does not meet it. -/
theorem byteAt_copyLines_first {k : Nat} (inside : 128 * k ≤ m.size) :
    let t := copyLines s m ((List.range k).map (fun i => m.src / 128 + i))
    (∀ j < 128 * k, t.byteAt (m.dest + j) = s.byteAt (m.src + j)) ∧ ∀ a, ¬ (m.dest ≤ a ∧ a < m.dest + 128 * k) → t.byteAt a = s.byteAt a := by
  induction k with
  | zero => exact ⟨fun j hj => absurd hj (by omega), fun _ _ => rfl⟩
  | succ k ih =>
    obtain ⟨copied, kept⟩ := ih (by omega)
    have line : 128 * (m.src / 128 + k) = m.src + 128 * k := by omega
    have place : m.dest + (m.src + 128 * k - m.src) = m.dest + 128 * k := by omega
    have next : copyLines s m ((List.range (k + 1)).map (fun i => m.src / 128 + i)) =
        copyLine (copyLines s m ((List.range k).map (fun i => m.src / 128 + i))) (m.src + 128 * k) (m.dest + 128 * k) := by
      rw [List.range_succ, List.map_append, copyLines, List.foldl_append, List.map_singleton, List.foldl_cons, List.foldl_nil, line, place, copyLines]
    rw [next]
    refine ⟨fun j hj => ?_, fun a outside => ?_⟩
    · by_cases before : j < 128 * k
      · rw [byteAt_copyLine_outside _ (by omega), copied j before]
      · obtain ⟨i, rfl⟩ : ∃ i, j = 128 * k + i := ⟨j - 128 * k, by omega⟩
        rw [← Nat.add_assoc, byteAt_copyLine (wf_copyLines _ _ _ inv) _ _ (by omega), kept _ (by omega), Nat.add_assoc]
    · rw [byteAt_copyLine_outside _ (by omega), kept a (by omega)]

/-- A page copied whole. -/
theorem byteAt_copyLines_all (whole : m.size % 128 = 0) :
    (∀ j < m.size, (copyLines s m m.all).byteAt (m.dest + j) = s.byteAt (m.src + j)) ∧
    ∀ a, ¬ (m.dest ≤ a ∧ a < m.dest + m.size) → (copyLines s m m.all).byteAt a = s.byteAt a := by
  have size : 128 * (m.size / 128) = m.size := by omega
  have first := byteAt_copyLines_first inv source apart (k := m.size / 128) (by omega)
  rw [size] at first
  exact first

end Page

/-! ### The steps -/

section Steps
variable {s : State} {g : Nat} {m : Migration}

theorem copyOr_sound {ls : List Nat} (sound : ∀ l ∈ ls, badIn s (128 * l) 128 = none) (next : State → State) :
    copyOr s g m ls next = next (copyLines s m ls) :=
  if_neg fun bad => by
    obtain ⟨l, hl, some_⟩ := List.any_eq_true.1 bad
    rw [sound l hl] at some_
    cases some_

theorem copyOr_unsound {ls : List Nat} (unsound : ¬ ∀ l ∈ ls, badIn s (128 * l) 128 = none) (next : State → State) :
    copyOr s g m ls next = abandonMig s g m := by
  refine if_pos (List.any_eq_true.2 ?_)
  by_contra all
  refine unsound fun l hl => ?_
  by_contra bad
  exact all ⟨l, hl, Option.isSome_iff_ne_none.2 bad⟩

theorem exec_migrationPrecopyDone (g : Nat) (s : State) : exec (.migrationPrecopyDone g) s = execMigrationPrecopyDone g s := rfl
theorem exec_migrationRecopyDone (g : Nat) (s : State) : exec (.migrationRecopyDone g) s = execMigrationRecopyDone g s := rfl
theorem exec_migrationFlip (g : Nat) (s : State) : exec (.migrationFlip g) s = execMigrationFlip g s := rfl
theorem exec_migrationInvalAck (g : Nat) (s : State) : exec (.migrationInvalAck g) s = execMigrationInvalAck g s := rfl
theorem exec_migrationHoldTimeout (g : Nat) (s : State) : exec (.migrationHoldTimeout g) s = execMigrationHoldTimeout g s := rfl

variable (found : tabGet s.migrations g = some m) (begun : m.begun = true)
include found begun

/-- A migration that has begun takes the step of the state in which it is. -/
theorem migStep_eq {st : MigState} (at_ : m.st = st) (f : Migration → State) : migStep s g f st = .next (f m) := by
  rw [migStep, found]
  exact if_pos (by rw [begun, at_, beq_self_eq_true]; rfl)

theorem precopy_copies (at_ : m.st = .precopy) (sound : ∀ l ∈ m.all, badIn s (128 * l) 128 = none) :
    exec (.migrationPrecopyDone g) s = .next ((copyLines s m m.all).putMig g { m with st := .recopy }) := by
  rw [exec_migrationPrecopyDone, execMigrationPrecopyDone, migStep_eq found begun at_, copyOr_sound sound]

theorem precopy_abandons (at_ : m.st = .precopy) (unsound : ¬ ∀ l ∈ m.all, badIn s (128 * l) 128 = none) :
    exec (.migrationPrecopyDone g) s = .next (abandonMig s g m) := by
  rw [exec_migrationPrecopyDone, execMigrationPrecopyDone, migStep_eq found begun at_, copyOr_unsound unsound]

theorem recopy_copies (at_ : m.st = .recopy) (some_ : m.lines ≠ []) (more : m.rounds < 4) (sound : ∀ l ∈ m.lines, badIn s (128 * l) 128 = none) :
    exec (.migrationRecopyDone g) s = .next ((copyLines s m m.lines).putMig g { m with rounds := m.rounds + 1, lines := [] }) := by
  rw [exec_migrationRecopyDone, execMigrationRecopyDone, migStep_eq found begun at_, if_pos (by simp [some_, more]), copyOr_sound sound]

theorem recopy_holds (at_ : m.st = .recopy) (last : m.lines = [] ∨ 4 ≤ m.rounds) :
    exec (.migrationRecopyDone g) s = .next (s.putMig g { m with st := .final, finalAt := s.cycle }) := by
  rw [exec_migrationRecopyDone, execMigrationRecopyDone, migStep_eq found begun at_, if_neg]
  rcases last with none_ | le
  · simp [none_]
  · simp [Nat.not_lt.2 le]

section Flip
variable (at_ : m.st = .final)
include at_

theorem flip_exchanges (inTime : s.cycle ≤ m.finalAt + 6000) (sound : ∀ l ∈ m.lines, badIn s (128 * l) 128 = none)
    (unchanged : leafCore (BitVec.ofNat 64 ((copyLines s m m.lines).num m.leafAt 8)) = leafCore m.e0) : let u := copyLines s m m.lines
    exec (.migrationFlip g) s = .next ((u.writeNum m.leafAt 8 (movedLeaf u (BitVec.ofNat 64 (u.num m.leafAt 8)) m.dest m.wasDirty).toNat).putMig g
      { m with st := .inval, lines := [] }) := by
  have held : holdOver s m = false := decide_eq_false (Nat.not_lt.2 inTime)
  rw [exec_migrationFlip, execMigrationFlip, migStep_eq found begun at_, held, if_neg Bool.false_ne_true, copyOr_sound sound]
  dsimp only
  rw [if_neg (not_not.2 unchanged)]

theorem flip_changed (inTime : s.cycle ≤ m.finalAt + 6000) (sound : ∀ l ∈ m.lines, badIn s (128 * l) 128 = none)
    (changed : leafCore (BitVec.ofNat 64 ((copyLines s m m.lines).num m.leafAt 8)) ≠ leafCore m.e0) :
    exec (.migrationFlip g) s = .next (abandonMig (copyLines s m m.lines) g m) := by
  have held : holdOver s m = false := decide_eq_false (Nat.not_lt.2 inTime)
  rw [exec_migrationFlip, execMigrationFlip, migStep_eq found begun at_, held, if_neg Bool.false_ne_true, copyOr_sound sound]
  dsimp only
  rw [if_pos changed]

theorem flip_abandons (stop : m.finalAt + 6000 < s.cycle ∨ ¬ ∀ l ∈ m.lines, badIn s (128 * l) 128 = none) :
    exec (.migrationFlip g) s = .next (abandonMig s g m) := by
  rw [exec_migrationFlip, execMigrationFlip, migStep_eq found begun at_]
  by_cases late : holdOver s m = true
  · rw [if_pos late]
  · have inTime : ¬ m.finalAt + 6000 < s.cycle := fun past => late (decide_eq_true past)
    rw [if_neg late, copyOr_unsound (stop.resolve_left inTime)]

end Flip

/-- Acknowledged in time, the migration ends: what the caches and the cores' lines lose is no migration's. -/
theorem inval_ends (at_ : m.st = .inval) (inTime : s.cycle ≤ m.finalAt + 6000) (none_ : noneWaits s g) :
    ∃ t, exec (.migrationInvalAck g) s = .next t ∧ Gone s t g m migDone := by
  have held : holdOver s m = false := decide_eq_false (Nat.not_lt.2 inTime)
  refine ⟨_, (exec_migrationInvalAck g s).trans (migStep_eq found begun at_ _), ?_⟩
  dsimp only
  rw [held, if_neg Bool.false_ne_true]
  split
  · exact flushed_gone (.trans (.moveUpdates s m) (.dropPage ..)) none_ ..
  · exact flushed_gone (.moveUpdates s m) none_ ..

theorem holdTimeout_abandons (at_ : m.st = .final ∨ m.st = .inval) (due : m.finalAt + 6000 ≤ s.cycle) :
    exec (.migrationHoldTimeout g) s = .next (abandonMig s g m) := by
  rw [exec_migrationHoldTimeout, execMigrationHoldTimeout, found]
  dsimp only
  rw [if_neg (by simp [begun, due]), if_pos (by simpa using at_)]

end Steps

theorem migrationClaim : MigrationClaim := by
  intro s g m found begun sound gone
  refine ⟨fun at_ inv source dest whole apart good => ?_, fun at_ bad none_ => ?_, fun at_ => ⟨fun more good => ?_, fun last => ?_⟩,
    fun at_ inv inTime good => ⟨fun unchanged => ?_, fun changed none_ => ?_⟩, fun at_ stop none_ => ?_, fun at_ inTime none_ => ?_,
    fun at_ due none_ => ?_⟩
  · obtain ⟨copied, kept⟩ := byteAt_copyLines_all inv source apart whole
    exact ⟨_, precopy_copies found begun at_ good, tabGet_tabPut_self .., copied, kept⟩
  · exact ⟨_, precopy_abandons found begun at_ bad, abandonMig_gone none_ m⟩
  · exact ⟨_, recopy_copies found begun at_ more.1 more.2 good, rfl, tabGet_tabPut_self ..⟩
  · exact ⟨_, recopy_holds found begun at_ last, rfl, tabGet_tabPut_self ..⟩
  · refine ⟨_, flip_exchanges found begun at_ inTime good unchanged, tabGet_tabPut_self .., ?_, fun a outside => ?_⟩
    · exact (State.num_writeNum_same (wf_copyLines _ _ _ inv) ..).trans (Nat.mod_eq_of_lt (BitVec.isLt _))
    · exact State.byteAt_writeNum_outside _ _ ((not_and_or.1 outside).imp not_le.1 not_lt.1)
  · have kept := MigsKept.copyLines s m m.lines
    exact ⟨_, flip_changed found begun at_ inTime good changed, (abandonMig_gone (kept.noneWaits none_) m).of_kept kept⟩
  · exact ⟨_, flip_abandons found begun at_ stop, abandonMig_gone none_ m⟩
  · exact inval_ends found begun at_ inTime none_
  · exact ⟨_, holdTimeout_abandons found begun at_ due, abandonMig_gone none_ m⟩

/-- Settles O55: each step by the state in which it finds the migration, the page line by line, the end by the migrations that are left. The numbers of the
outcomes are the model's choice (log 18), and so is that a line that cannot be copied ends the migration (log 88). -/
theorem migrationResults : Obligations.MigrationResults := migrationClaim

end Sys2Proof.Machine

/-! ## Conversions `mxq` and `mxd` (08 R268 to R273) -/

namespace Sys2Proof.Machine

open Sys2Proof

/-! ### An engine operation goes in flight (02 R60, 03 R95 to R97) -/

/-- The group of a unit that has ended changes once more. -/
theorem groupIs_modGroup {ts : Tab Team} {s : State} {c : Ctx} {g' : Group} (h : GroupIs ts s.teams c g') (f : Group → Group) :
    GroupIs ts (s.modGroup c.key c.group.num f).teams c (f g') :=
  groupAt_modGroup (c := { c with team := c.team.served c.group.num c.split.idx }) h f

/-- A state with the teams, the cores and the operations of another. -/
def withUnits (s t : State) : State := { t with teams := s.teams, cores := s.cores, ops := s.ops, nextOp := s.nextOp }

theorem withUnits_enterLocks (s t : State) (core : Nat) (ls : List RangeLock) : withUnits s (enterLocks t core ls) = withUnits s t := rfl

theorem withUnits_finish (s t : State) (c : Ctx) (e : Eff) : withUnits s (finish t c e) = withUnits s t := rfl

theorem withUnits_beginOp (s t : State) (c : Ctx) (lanes : BitVec 32) (look : Nat) (body : OpBody) :
    withUnits s (beginOp t c lanes look body) = withUnits s t := rfl

/-- Nothing but its own group, the table of operations and the core's range table tells of the issue of an engine operation. -/
theorem issueOp_issued {s : State} {c : Ctx} (h : ctx? s = some c) {rs : List Rng} (free : EngineFree s c rs) {e : Eff} (distinct : e.distinct)
    (look : Nat) (body : OpBody) : ∃ g', OpIssued s (issueOp s c rs e look body) c e rs [look] body g' := by
  obtain ⟨g, ⟨-, others, team⟩, after⟩ : Completes s (finish s c e) c e := finishAt_spec h distinct _
  have ended : GroupIs s.teams (finish (enterLocks s c.core (rngLocks s c rs s.nextOp)) c e).teams c g := by
    rw [finish_teams_of_same (s := s) (t := enterLocks s c.core (rngLocks s c rs s.nextOp)) rfl rfl]
    exact ⟨others, team⟩
  rw [issueOp, releaseWrites_calm free.upd free.wc]
  have entered : (beginOp (finish (enterLocks s c.core (rngLocks s c rs s.nextOp)) c e) c c.split.mask look body).core =
      (enterLocks s c.core (rngLocks s c rs s.nextOp)).core := rfl
  exact ⟨_, {
    rest := (withUnits_beginOp ..).trans ((withUnits_finish ..).trans (withUnits_enterLocks s s ..))
    group := groupIs_modGroup ended _
    op := tabGet_tabPut_self ..
    ops := fun _ other => tabGet_tabPut_ne _ _ other
    name := rfl
    locks := by rw [entered, enterLocks, core_modCore_self]
    cores := fun _ other => by rw [entered, enterLocks, core_modCore_ne _ _ other]
    regs := { after.regs with }
    splits := by rw [Group.modSplit, after.splits]; rfl }⟩

/-! ### The issue of a conversion -/

theorem exec_mxq (l : BitVec 4) (f : BitVec 3) (d sp ty : BitVec 1) (k : BitVec 2) (s : State) :
    exec (.mxq l f d sp ty k) s = execMxq l f d sp ty k s := rfl

theorem exec_mxd (l : BitVec 4) (f : BitVec 3) (d sp ty : BitVec 1) (k : BitVec 2) (s : State) :
    exec (.mxd l f d sp ty k) s = execMxd l f d sp ty k s := rfl

/-- Both forms take the course of a conversion, each in its own direction. -/
theorem exec_conversion {s : State} {c : Ctx} (h : ctx? s = some c) (quant : Bool) (l : BitVec 4) (f : BitVec 3) (d sp ty : BitVec 1) (k : BitVec 2) :
    exec (if quant then .mxq l f d sp ty k else .mxd l f d sp ty k) s = .next (convUnit s c quant f d sp ty k l.toNat) := by
  cases quant with
  | true => exact (exec_mxq ..).trans (issue_eq h _)
  | false => exact (exec_mxd ..).trans (issue_eq h _)

/-- A conversion that nothing stops, and for which there is room, goes in flight. -/
theorem convUnit_issues {s : State} {c : Ctx} {quant : Bool} {f : BitVec 3} {fmt : QFmt} {d sp ty : BitVec 1} {k : BitVec 2}
    (format : mxfmtOf f.toNat = some fmt) {v : Conv} (operands : v = convOf c quant fmt d sp ty k) (legal : convConds s c v true = [])
    (source : quernFault s c v.source = none) (dest : quernFault s c v.dest = none) (room : replayFull s c = false)
    (free : EngineFree s c [v.source, v.dest]) (look : Nat) :
    convUnit s c quant f d sp ty k look = issueOp s c [v.source, v.dest] {} look (.conv v) := by
  subst operands
  unfold convOf at *
  rw [convUnit, format]
  dsimp only [Option.getD_some] at *
  simp only [legal, lowest, source, dest, Option.or_none, room, free.waits, free.room, Bool.or_self, Bool.not_true, Bool.false_eq_true, if_false]

/-! ### The completion of a conversion -/

theorem exec_conversionComplete (id : Nat) (s : State) : exec (.conversionComplete id) s = execConversionComplete id s := rfl

/-- Without write-combining entries a range closes none (12 R363). -/
theorem rngClose_calm {s : State} (wc : s.wc = []) (c : Ctx) (r : Rng) : rngClose s c r = s := by
  refine List.foldlRecOn (motive := fun t : State => t = s) _ _ rfl fun t same p _ => ?_
  subst same
  rw [closeRead_calm wc, ite_self]

/-- The state once the converted bytes of the source stand in the destination, over the marks of the walks of both ranges. -/
def converted (s : State) (c : Ctx) (v : Conv) : State :=
  rngWrite (rngNote (rngNote s c v.source) c v.dest) c v.dest (v.result (rngBytes s c v.source))

/-- A conversion that nothing stops or denies ends over its destination. -/
theorem conversion_completes {s : State} {id : Nat} {o : Op} {c : Ctx} {v : Conv} (there : tabGet s.ops id = some o)
    (ctx : opCtxAny s o = some c) (body : o.body = .conv v) (runs : o.halted = false) (legal : convConds s c v false = [])
    (source : quernFault s c v.source = none) (dest : quernFault s c v.dest = none) (still : rngHeld s c v.dest = false) (wc : s.wc = [])
    (allowed : piecesDenied s c (rngReach s c v.source).pieces = none) :
    exec (.conversionComplete id) s = .next (endOp (converted s c v) id) := by
  rw [exec_conversionComplete, execConversionComplete]
  simp only [there, ctx, body, runs, legal, lowest, source, dest, still, rngClose_calm wc, allowed, Option.or_none, Bool.false_eq_true, if_false]
  rfl

theorem tabGet_endOp_self (s : State) (id : Nat) : tabGet (endOp s id).ops id = none := tabGet_tabDel_self ..

/-- No core keeps an entry of an operation that has ended (03 R99). -/
theorem endOp_unlocked (s : State) (id n : Nat) : ∀ x ∈ ((endOp s id).core n).locks, x.op ≠ id := by
  intro x hx
  rw [State.core, endOp, releaseLocks, tabGet_map s.cores (fun _ k => { k with locks := k.locks.filter fun l => !(l.op == id && true) })] at hx
  cases there : tabGet s.cores n with
  | none =>
    rw [there] at hx
    cases hx
  | some k =>
    rw [there] at hx
    have kept := (List.mem_filter.1 hx).2
    simpa using kept

theorem endOp_mem (s : State) (id : Nat) : (endOp s id).mem = s.mem := rfl

/-- Nothing is translated for a range of the scratchpad, so that it leaves no marks. -/
theorem rngNote_spad (s : State) (c : Ctx) {r : Rng} (spad : r.sp = .spad) : rngNote s c r = s := by
  rw [rngNote, rngReach, spad]
  rfl

theorem rngBytes_spad (s : State) (c : Ctx) {r : Rng} (spad : r.sp = .spad) : rngBytes s c r = s.bytes (c.team.spadAt r.addr) r.n := by
  rw [rngBytes, spad]

theorem rngWrite_spad (s : State) (c : Ctx) {r : Rng} (spad : r.sp = .spad) (bs : List Byte) :
    rngWrite s c r bs = s.write (c.team.spadAt r.addr) bs := by
  rw [rngWrite, spad]

/-- Within the scratchpad a conversion is one write. -/
theorem converted_spad (s : State) (c : Ctx) {v : Conv} (source : v.srcSp = .spad) (dest : v.dstSp = .spad) :
    converted s c v = s.write (c.team.spadAt v.dst) (v.result (s.bytes (c.team.spadAt v.src) v.source.n)) := by
  rw [converted, rngNote_spad s c (r := v.source) source, rngNote_spad s c (r := v.dest) dest, rngBytes_spad s c (r := v.source) source,
    rngWrite_spad s c (r := v.dest) dest]
  rfl

theorem conversionClaim : ConversionClaim := by
  constructor
  · intro s c l f fmt d sp ty k quant h format v legal source dest room free
    obtain ⟨g', issued⟩ := issueOp_issued h free distinct_nil l.toNat (.conv v)
    refine ⟨_, g', ?_, issued⟩
    rw [exec_conversion h, convUnit_issues format rfl legal source dest room free]
  · intro s id o c v there ctx body runs legal source dest still wc allowed inv
    refine ⟨_, conversion_completes there ctx body runs legal source dest still wc allowed, tabGet_endOp_self .., endOp_unlocked _ _,
      fun inSource inDest => ?_, endOp_mem ..⟩
    rw [converted_spad s c inSource inDest]
    exact ⟨fun j hj => (byteAt_of_mem (endOp_mem ..) _).trans (byteAt_write_same inv _ _ hj),
      fun a outside => (byteAt_of_mem (endOp_mem ..) _).trans (byteAt_write_outside s _ ((not_and_or.1 outside).imp not_le.1 not_lt.1))⟩

/-- Settles O42: the issue by the end of its unit and the entries that its core gains, the completion by its writes over the marks of the walks, after which
neither the table of operations nor a core's range table names the conversion. -/
theorem conversionResults : Obligations.ConversionResults := conversionClaim

end Sys2Proof.Machine

/-! ## Tiles of accumulator handles and the A latch (09 R275 to R280, R293 to R297) -/

namespace Sys2Proof.Machine

open Sys2Proof

/-! ### Quarter tiles (09 R275 to R277) -/

theorem mem_quarters {m : BitVec 4} {q : Nat} : q ∈ quarters m ↔ q < 4 ∧ m.getLsbD q = true := by
  rw [quarters, List.mem_filter, List.mem_range]

theorem nodup_quarters (m : BitVec 4) : (quarters m).Nodup := List.nodup_range.filter _

theorem setTile_tile (g : Group) (d : Nat) {i : Nat} (hi : i < 4) (x : Option Tile) (m : Nat) {q : Nat} (hq : q < 4) :
    (g.setTile d i x).tile m q = if m = d ∧ q = i then x else g.tile m q := by
  have key : 4 * m + q = 4 * d + i ↔ m = d ∧ q = i := by omega
  cases x with
  | none => simp only [Group.setTile, Group.tile, tabGet_tabDel, key]
  | some x => simp only [Group.setTile, Group.tile, tabGet_tabPut, key]

/-- Of a group the tiles, the latch and dirty bits may differ. -/
def OnlyTiles (g x : Group) : Prop := ∃ ts l ds, x = { g with tiles := ts, latch := l, dirty := ds }

theorem OnlyTiles.refl (g : Group) : OnlyTiles g g := ⟨g.tiles, g.latch, g.dirty, rfl⟩

theorem OnlyTiles.trans {g x y : Group} (h : OnlyTiles g x) (k : OnlyTiles x y) : OnlyTiles g y := by
  obtain ⟨_, _, _, rfl⟩ := h
  obtain ⟨ts, l, ds, rfl⟩ := k
  exact ⟨ts, l, ds, rfl⟩

theorem onlyTiles_setTile (g : Group) (d i : Nat) (x : Option Tile) : OnlyTiles g (g.setTile d i x) := by
  cases x with
  | none => exact ⟨_, _, _, rfl⟩
  | some x => exact ⟨_, _, _, rfl⟩

theorem setTile_latch (g : Group) (d i : Nat) (x : Option Tile) : (g.setTile d i x).latch = g.latch := by cases x <;> rfl

/-- Quarters of one handle take new tiles, or are released. -/
def Group.setTiles (g : Group) (d : Nat) (x : Nat → Option Tile) (qs : List Nat) : Group := qs.foldl (fun g i => g.setTile d i (x i)) g

theorem onlyTiles_setTiles (g : Group) (d : Nat) (x : Nat → Option Tile) (qs : List Nat) : OnlyTiles g (g.setTiles d x qs) :=
  List.foldlRecOn (motive := OnlyTiles g) _ _ (.refl g) fun _ only _ _ => only.trans (onlyTiles_setTile ..)

theorem setTiles_latch (g : Group) (d : Nat) (x : Nat → Option Tile) (qs : List Nat) : (g.setTiles d x qs).latch = g.latch :=
  List.foldlRecOn (motive := fun g' : Group => g'.latch = g.latch) _ _ rfl fun _ same _ _ => (setTile_latch ..).trans same

theorem setTiles_tile (g : Group) (d : Nat) (x : Nat → Option Tile) {qs : List Nat} (small : ∀ i ∈ qs, i < 4) (m : Nat) {q : Nat} (hq : q < 4) :
    (g.setTiles d x qs).tile m q = if m = d ∧ q ∈ qs then x q else g.tile m q := by
  induction qs generalizing g with
  | nil => simp [Group.setTiles]
  | cons i t ih =>
    have later : (g.setTiles d x (i :: t)).tile m q = ((g.setTile d i (x i)).setTiles d x t).tile m q := rfl
    rw [later, ih _ fun j hj => small j (List.mem_cons_of_mem _ hj), setTile_tile _ _ (small i (List.mem_cons_self ..)) _ _ hq]
    simp only [List.mem_cons]
    by_cases handle : m = d
    · by_cases first : q = i
      · simp [handle, first]
      · simp [handle, first]
    · simp [handle]

/-- Changes of one quarter after another, each of which looks only at the tiles of its own quarter, are independent of each other. -/
theorem foldl_eq_setTiles {f : Group → Nat → Group} {d : Nat} {x : Nat → Option Tile} {qs : List Nat} (distinct : qs.Nodup)
    (small : ∀ i ∈ qs, i < 4) {g : Group}
    (step : ∀ i ∈ qs, ∀ g' : Group, (∀ m, g'.tile m i = g.tile m i) → f g' i = g'.setTile d i (x i)) : qs.foldl f g = g.setTiles d x qs := by
  induction qs generalizing g with
  | nil => rfl
  | cons i t ih =>
    obtain ⟨new, distinct⟩ := List.nodup_cons.1 distinct
    have first : f g i = g.setTile d i (x i) := step i (List.mem_cons_self ..) g fun _ => rfl
    have later : g.setTiles d x (i :: t) = (g.setTile d i (x i)).setTiles d x t := rfl
    rw [List.foldl_cons, first, later]
    refine ih distinct (fun j hj => small j (List.mem_cons_of_mem _ hj)) fun j hj g' same => step j (List.mem_cons_of_mem _ hj) g' fun m => ?_
    have other : ¬ (m = d ∧ j = i) := fun same => new (same.2 ▸ hj)
    rw [same, setTile_tile _ _ (small i (List.mem_cons_self ..)) _ _ (small j (List.mem_cons_of_mem _ hj)), if_neg other]

/-- A replay record shows registers alone (04 R127). -/
theorem group_tiles {s : State} {c : Ctx} (h : ctx? s = some c) : c.group.tiles = c.live.tiles ∧ c.group.latch = c.live.latch := by
  obtain ⟨-, -, -, -, -, -, -, -, -, under⟩ := ctxAt_spec h
  rw [under]
  cases c.split.replay with
  | none => exact ⟨rfl, rfl⟩
  | some r => exact ⟨rfl, rfl⟩

theorem group_tile {s : State} {c : Ctx} (h : ctx? s = some c) (m q : Nat) : c.group.tile m q = c.live.tile m q := by
  rw [Group.tile, (group_tiles h).1, Group.tile]

/-! ### Units on handles (09 R276) -/

/-- One group stands in the place of the issuing one. -/
theorem GroupIs.unique {ts ts' : Tab Team} {c : Ctx} {g g' : Group} (h : GroupIs ts ts' c g) (h' : GroupIs ts ts' c g') : g = g' := by
  obtain ⟨-, tm, team, -, group, -⟩ := h
  obtain ⟨-, tm', team', -, group', -⟩ := h'
  obtain rfl : tm = tm' := Option.some.inj (team.symm.trans team')
  exact Option.some.inj (group.symm.trans group')

/-- A group whose unit has ended. -/
def Group.ending (g : Group) (e : Eff) (i : Nat) (pc : DWord) : Group := (g.apply e).modSplit i (fun sp => { tick sp with pc := pc })

theorem groupAfter_ending {s : State} {c : Ctx} (h : ctx? s = some c) {e : Eff} (distinct : e.distinct) (pc : DWord) :
    GroupAfter c e pc (c.live.ending e c.split.idx pc) := by
  obtain ⟨g', ⟨-, others, team⟩, after⟩ := finishAt_spec h distinct pc
  obtain ⟨-, others', team'⟩ : OnlyGroup s (finishAt s c e pc) c (c.live.ending e c.split.idx pc) := endUnit_only h _
  have same : g' = c.live.ending e c.split.idx pc := GroupIs.unique ⟨others, team⟩ ⟨others', team'⟩
  rwa [same] at after

/-- A unit ends over a change of its group. -/
theorem onlyGroup_changed {s : State} {c : Ctx} (h : ctx? s = some c) (e : Eff) (f : Group → Group) :
    OnlyGroup s (finish (s.modGroup c.key c.group.num f) c e) c ((f c.live).ending e c.split.idx s.unit.npc) :=
  onlyGroup_served _ rfl (groupAt_modGroup (groupAt_refl h) f)

theorem handleUnit_of_fits {s : State} {c : Ctx} {ms : List Nat} {conds : List Cond} {e : Eff} (free : ∀ m ∈ ms, handleBusy s c m = false)
    (legal : conds = []) (fits : Fits s c e) (f : Group → Group) :
    handleUnit s c ms conds e f = finish (s.modGroup c.key c.group.num f) c e := by
  have idle : ms.any (handleBusy s c) = false := List.any_eq_false.2 fun m hm => by simp only [free m hm, Bool.false_eq_true, not_false_eq_true]
  rw [handleUnit, idle, if_neg Bool.false_ne_true, legal, unitWith_of_fits fits]

/-- A unit ends over a change of the tiles and of the latch of its group. -/
theorem quernUnit_changed {s : State} {c : Ctx} (h : ctx? s = some c) {f : Group → Group} (only : OnlyTiles c.live (f c.live))
    {tile : Nat → Nat → Option Tile} (tiles : ∀ m q, q < 4 → (f c.live).tile m q = tile m q) :
    QuernUnit s (finish (s.modGroup c.key c.group.num f) c {}) c {} tile (f c.live).latch := by
  have after := groupAfter_ending h distinct_nil s.unit.npc
  obtain ⟨sameTiles, sameLatch⟩ := group_tiles h
  refine ⟨_, onlyGroup_changed h {} f, ?_, rfl, tiles⟩
  obtain ⟨ts, l, ds, changed⟩ := only
  rw [changed, sameTiles, sameLatch]
  exact { regs := { after.regs with }, splits := after.splits, rest := after.rest }

/-- A unit that nothing stops changes quarters of one handle. -/
theorem quernUnit_setTiles {s : State} {c : Ctx} (h : ctx? s = some c) {ms : List Nat} {conds : List Cond} {f : Group → Group} {d : Nat}
    {x : Nat → Option Tile} {qs : List Nat} {sel : Nat → Bool} (free : ∀ m ∈ ms, handleBusy s c m = false) (legal : conds = [])
    (chosen : ∀ q, q ∈ qs ↔ q < 4 ∧ sel q = true) (sets : f c.live = c.live.setTiles d x qs) :
    QuernUnit s (handleUnit s c ms conds {} f) c {} (tilesWith c d sel x) c.group.latch := by
  have latch : (f c.live).latch = c.group.latch := by rw [sets, setTiles_latch, (group_tiles h).2]
  rw [handleUnit_of_fits free legal (fits_nil s c), ← latch]
  refine quernUnit_changed h (sets ▸ onlyTiles_setTiles ..) fun m q hq => ?_
  rw [sets, setTiles_tile _ _ _ (fun i hi => ((chosen i).1 hi).1) _ hq, tilesWith, group_tile h]
  simp only [chosen, hq, true_and]

theorem fullCond_of_room {c : Ctx} {m : Nat} {qs : List Nat} (room : RoomFor c m qs) : fullCond c m qs = [] := by
  have fits : (decide ((qs.filter (fun q => (c.group.tile m q).isNone)).length > 0) &&
      decide (tilesHeld c.team + (qs.filter (fun q => (c.group.tile m q).isNone)).length > 128)) = false := by
    rw [← Bool.decide_and, decide_eq_false_iff_not]
    unfold RoomFor at room
    omega
  rw [fullCond, fits, wholeCond_false]

theorem tileCond_nil (c : Ctx) (m : Nat) : tileCond c m [] = [] := rfl

/-- The code of a tile of numbers (09 R297). -/
theorem tileCode_numbers {x : Tile} {int : Prop} [Decidable int] (kind : x.kind = if int then .i32 else .f32) :
    tileCode (some x) = if int then 2 else 1 := by
  by_cases holds : int
  · simp only [tileCode, kind, if_pos holds]
  · simp only [tileCode, kind, if_neg holds]

/-! ### qzero and qrel (09 R293) -/

/-- The tile that `qzero` leaves: zeros, or empty lists. -/
def freshTile (v : BitVec 1) (ty : BitVec 2) (n : BitVec 5) : Tile :=
  if ty = 0 then zeroTile false else if ty = 1 then zeroTile true else emptyTopk (n.toNat + 1) (ty == 2) (v == 1)

theorem exec_qzero {s : State} {c : Ctx} (h : ctx? s = some c) (l : BitVec 4) (v : BitVec 1) (ty : BitVec 2) (n : BitVec 5) (q : BitVec 4) (d : BitVec 3) :
    exec (.qzero l v ty n q d) s = .next (handleUnit s c [d.toNat] (fullCond c d.toNat (quarters q)) {}
      (fun g => g.setTiles d.toNat (fun _ => some (freshTile v ty n)) (quarters q))) := by
  have types : ty = 0 ∨ ty = 1 ∨ ty = 2 ∨ ty = 3 := by
    revert ty
    decide
  rcases types with rfl | rfl | rfl | rfl
  all_goals exact issue_eq h _

theorem exec_qrel {s : State} {c : Ctx} (h : ctx? s = some c) (l q : BitVec 4) (d : BitVec 3) : exec (.qrel l q d) s =
    .next (handleUnit s c [d.toNat] [] {} (fun g => g.setTiles d.toNat (fun _ => none) (quarters q))) := issue_eq h _

/-! ### qwr (09 R293) -/

/-- A quarter tile after `qwr`: the columns of the window from registers, the others as they were, or zero where the tile was RELEASED. -/
def writtenTile (c : Ctx) (int : Bool) (cs n : BitVec 2) (r : BitVec 6) (old : Option Tile) (q : Nat) : Tile :=
  (old.getD (zeroTile int)).fillFrom c.group q (8 * cs.toNat) (windowRegs n) r.toNat

theorem getD_map_upTo {α : Type} (f : Nat → α) (z : α) {n i : Nat} (hi : i < n) : ((List.range n).map f).getD i z = f i := by
  rw [List.getD_eq_getElem?_getD, List.getElem?_map, List.getElem?_range hi]
  rfl

/-- An element of a tile that is given by rows and columns. -/
theorem at_of_rows (kind : TileKind) (f : Nat → Nat → Word) (lists : List (List (Word × Word))) {r col : Nat} (hr : r < 8) (hc : col < 32) :
    Tile.at_ { kind := kind, elems := (List.range 8).map (fun r => (List.range 32).map (f r)), lists := lists } r col = f r col := by
  rw [Tile.at_, getD_map_upTo _ _ hr, getD_map_upTo _ _ hc]

theorem zeroTile_at (int : Bool) {r col : Nat} (hr : r < 8) (hc : col < 32) : (zeroTile int).at_ r col = 0 := by
  have row : (List.replicate 8 (List.replicate 32 (0 : Word))).getD r [] = List.replicate 32 0 := by
    rw [List.getD_eq_getElem?_getD, List.getElem?_replicate_of_lt hr]
    rfl
  rw [Tile.at_, zeroTile, row, List.getD_eq_getElem?_getD, List.getElem?_replicate_of_lt hc]
  rfl

theorem writtenTile_at (c : Ctx) (int : Bool) (cs n : BitVec 2) (r : BitVec 6) (old : Option Tile) (q : Nat) {row col : Nat} (hr : row < 8) (hc : col < 32) :
    (writtenTile c int cs n r old q).at_ row col =
      if 8 * cs.toNat ≤ col ∧ col < 8 * cs.toNat + windowRegs n then c.group.vlane (r.toNat + (col - 8 * cs.toNat)) (8 * q + row)
      else match old with | some y => y.at_ row col | none => 0 := by
  rw [writtenTile, Tile.fillFrom, at_of_rows _ _ _ hr hc]
  cases old with
  | none => rw [Option.getD_none, zeroTile_at int hr hc]
  | some y => rfl

theorem writtenTile_kind (c : Ctx) {int : Bool} (cs n : BitVec 2) (r : BitVec 6) {old : Option Tile} (q : Nat)
    (kind : old = none ∨ ∃ y, old = some y ∧ y.kind = if int then .i32 else .f32) : (writtenTile c int cs n r old q).kind = if int then .i32 else .f32 := by
  obtain rfl | ⟨y, rfl, kind⟩ := kind
  · rfl
  · exact kind

/-- Quarters that `qwr` does not accept. -/
def badWritten (c : Ctx) (m : Nat) (ty : BitVec 1) : List Nat :=
  (List.range 4).filter (fun q => tileCode (c.group.tile m q) != 0 && tileCode (c.group.tile m q) != if ty = 1 then 2 else 1)

theorem badWritten_nil {c : Ctx} {m : Nat} {ty : BitVec 1}
    (kinds : ∀ q < 4, c.group.tile m q = none ∨ ∃ x, c.group.tile m q = some x ∧ x.kind = if ty = 1 then .i32 else .f32) : badWritten c m ty = [] := by
  refine List.filter_eq_nil_iff.2 fun q hq => ?_
  obtain none_ | ⟨x, there, kind⟩ := kinds q (List.mem_range.1 hq)
  · simp [none_, tileCode]
  · rw [there, tileCode_numbers kind]
    simp

theorem exec_qwr {s : State} {c : Ctx} (h : ctx? s = some c) (l : BitVec 4) (ty : BitVec 1) (n cs : BitVec 2) (r : BitVec 6) (d : BitVec 3) :
    exec (.qwr l ty n cs r d) s = .next (handleUnit s c [d.toNat]
      (tileCond c d.toNat (badWritten c d.toNat ty) ++ fullCond c d.toNat (List.range 4)) {}
      (fun g => (List.range 4).foldl (fun g q => g.setTile d.toNat q (some (writtenTile c (ty == 1) cs n r (g.tile d.toNat q) q))) g)) := issue_eq h _

theorem tileClaim : TileClaim := by
  intro s c l d h idle
  have free : ∀ m ∈ [d.toNat], handleBusy s c m = false := by simpa using idle
  refine ⟨fun v ty n q room => ⟨_, exec_qzero h .., ?_⟩, fun q => ⟨_, exec_qrel h .., ?_⟩, fun ty n cs r room kinds =>
    ⟨_, fun q => writtenTile c (ty == 1) cs n r (c.group.tile d.toNat q) q, exec_qwr h .., ?_, fun q hq => ⟨?_, fun row hr col hc => ?_⟩⟩⟩
  · exact quernUnit_setTiles h free (fullCond_of_room room) (fun _ => mem_quarters) rfl
  · exact quernUnit_setTiles h free rfl (fun _ => mem_quarters) rfl
  · refine quernUnit_setTiles (qs := List.range 4) h free ?_ (by simp) (foldl_eq_setTiles List.nodup_range (fun _ => List.mem_range.1) fun q _ g same => ?_)
    · rw [badWritten_nil kinds, tileCond_nil, fullCond_of_room room, List.append_nil]
    · rw [same, ← group_tile h]
  · simpa only [beq_iff_eq] using writtenTile_kind c (int := ty == 1) cs n r q (by simpa only [beq_iff_eq] using kinds q hq)
  · exact writtenTile_at c _ cs n r _ q hr hc

/-! ### qrd and qtopk (09 R293 to R296) -/

/-- Only tiles of numbers have no ranks to read. -/
theorem tileCode_ranked {t : Option Tile} (ranked : ∀ x, t = some x → x.kind ≠ .f32 ∧ x.kind ≠ .i32) : (tileCode t == 1 || tileCode t == 2) = false := by
  cases t with
  | none => rfl
  | some x =>
    obtain ⟨notFloat, notInt⟩ := ranked x rfl
    unfold tileCode
    cases kind : x.kind with
    | f32 => exact absurd kind notFloat
    | i32 => exact absurd kind notInt
    | topk k m i => simp [kind]

/-- Quarters that `qrd` does not accept: those without ranks, where it reads ranks. -/
def badRead (c : Ctx) (m : Nat) (i : BitVec 1) : List Nat :=
  if i = 1 then (List.range 4).filter (fun q => tileCode (c.group.tile m q) == 1 || tileCode (c.group.tile m q) == 2) else []

theorem badRead_nil {c : Ctx} {m : Nat} {i : BitVec 1}
    (ranked : i = 1 → ∀ q < 4, ∀ x, c.group.tile m q = some x → x.kind ≠ .f32 ∧ x.kind ≠ .i32) : badRead c m i = [] := by
  unfold badRead
  split
  case isTrue index =>
    exact List.filter_eq_nil_iff.2 fun q hq => Bool.not_eq_true _ ▸ tileCode_ranked (ranked index q (List.mem_range.1 hq))
  case isFalse => rfl

/-- The registers that `qrd` writes. -/
def readWindow (c : Ctx) (i : BitVec 1) (n cs : BitVec 2) (r : BitVec 6) (d : BitVec 3) : Eff :=
  { v := (List.range (windowRegs n)).map (fun j => (r.toNat + j, 0xffffffff#32,
      fun l => tileRead (c.group.tile d.toNat (l / 8)) (i == 1) (l % 8) (8 * cs.toNat + j))) }

theorem exec_qrd {s : State} {c : Ctx} (h : ctx? s = some c) (l : BitVec 4) (i : BitVec 1) (n cs : BitVec 2) (r : BitVec 6) (d : BitVec 3) :
    exec (.qrd l i n cs r d) s =
      .next (handleUnit s c [d.toNat] (tileCond c d.toNat (badRead c d.toNat i)) (readWindow c i n cs r d) id) := issue_eq h _

/-- Registers in a row have different names. -/
theorem distinct_window (r n : Nat) (m : BitVec 32) (f : Nat → Nat → Word) :
    Eff.distinct { v := (List.range n).map (fun j => (r + j, m, f j)) } := by
  refine ⟨?_, .nil, .nil, .nil⟩
  rw [List.map_map]
  exact List.nodup_range.map fun _ _ same => Nat.add_left_cancel same

theorem qrd_completes {s : State} {c : Ctx} (h : ctx? s = some c) (l : BitVec 4) {i : BitVec 1} {n cs : BitVec 2} {r : BitVec 6} {d : BitVec 3}
    (free : handleBusy s c d.toNat = false) (ranked : i = 1 → ∀ q < 4, ∀ x, c.group.tile d.toNat q = some x → x.kind ≠ .f32 ∧ x.kind ≠ .i32)
    (fits : Fits s c (readWindow c i n cs r d)) : ∃ t, exec (.qrd l i n cs r d) s = .next t ∧ Completes s t c (readWindow c i n cs r d) := by
  refine ⟨_, exec_qrd h .., ?_⟩
  rw [badRead_nil ranked, tileCond_nil, handleUnit_of_fits (by simpa using free) rfl fits]
  exact ⟨_, onlyGroup_changed h _ id, groupAfter_ending h (distinct_window ..) _⟩

/-- A list tile after it has been offered the rows of a tile of numbers. -/
def offeredTile (k base : Nat) (wantMax int : Bool) (src dst : Tile) : Tile :=
  { dst with lists := (List.range 8).map (fun row => offerRow k wantMax int base src row (dst.lists.getD row [])) }

/-- What `qtopk` does to one quarter of a group. -/
def offerQuarter (base ms md : Nat) (g : Group) (i : Nat) : Group :=
  match g.tile ms i, g.tile md i with
  | some src, some dst =>
    (match dst.kind with
      | .topk kk wantMax int => g.setTile md i (some (offeredTile kk base wantMax int src dst))
      | _ => g)
  | _, _ => g

/-- A quarter of the source holds numbers, and the same quarter of the destination lists of such numbers. -/
structure Offers (c : Ctx) (ms md i : Nat) (src dst : Tile) (k : Nat) (wantMax int : Bool) : Prop where
  source : c.group.tile ms i = some src
  numbers : src.kind = if int then .i32 else .f32
  dest : c.group.tile md i = some dst
  lists : dst.kind = .topk k wantMax int

/-- Quarters whose source `qtopk` does not accept. -/
def badSources (c : Ctx) (ms : Nat) (q : BitVec 4) : List Nat :=
  (quarters q).filter (fun i => !(tileCode (c.group.tile ms i) == 1 || tileCode (c.group.tile ms i) == 2))

/-- Quarters whose destination `qtopk` does not accept. -/
def badLists (c : Ctx) (ms md : Nat) (q : BitVec 4) : List Nat :=
  (quarters q).filter (fun i =>
    match c.group.tile md i with
    | some t => (match t.kind with | .topk _ _ int => (tileCode (c.group.tile ms i) == 1 && int) || (tileCode (c.group.tile ms i) == 2 && !int) | _ => true)
    | none => true)

theorem exec_qtopk {s : State} {c : Ctx} (h : ctx? s = some c) (l : BitVec 4) (k : BitVec 5) (q : BitVec 4) (ms md : BitVec 3) :
    exec (.qtopk l k q ms md) s = .next (handleUnit s c [ms.toNat, md.toNat]
      (if !(badSources c ms.toNat q).isEmpty then tileCond c ms.toNat (badSources c ms.toNat q) else tileCond c md.toNat (badLists c ms.toNat md.toNat q)) {}
      (fun g => (quarters q).foldl (offerQuarter (c.group.kread k.toNat).toNat ms.toNat md.toNat) g)) := issue_eq h _

section Offered
variable {c : Ctx} {ms md i : Nat} {src dst : Tile} {k : Nat} {wantMax int : Bool} (offers : Offers c ms md i src dst k wantMax int)
include offers

theorem Offers.code : tileCode (c.group.tile ms i) = if int then 2 else 1 := by
  rw [offers.source]
  exact tileCode_numbers offers.numbers

theorem Offers.source_good : (!(tileCode (c.group.tile ms i) == 1 || tileCode (c.group.tile ms i) == 2)) = false := by
  rw [offers.code]
  cases int <;> rfl

theorem Offers.quarter (base : Nat) {g : Group} (same : ∀ m, g.tile m i = c.group.tile m i) :
    offerQuarter base ms md g i = g.setTile md i (some (offeredTile k base wantMax int src dst)) := by
  simp only [offerQuarter, same, offers.source, offers.dest, offers.lists]

end Offered

theorem qtopk_offers {s : State} {c : Ctx} (h : ctx? s = some c) {l : BitVec 4} {k : BitVec 5} {q : BitVec 4} {ms md : BitVec 3} {src dst : Nat → Tile}
    {kk : Nat → Nat} {wm int : Nat → Bool} (freeS : handleBusy s c ms.toNat = false) (freeD : handleBusy s c md.toNat = false)
    (offers : ∀ i < 4, q.getLsbD i = true → Offers c ms.toNat md.toNat i (src i) (dst i) (kk i) (wm i) (int i)) :
    ∃ t, exec (.qtopk l k q ms md) s = .next t ∧ QuernUnit s t c {} (tilesWith c md.toNat q.getLsbD
      (fun i => some (offeredTile (kk i) (c.group.kread k.toNat).toNat (wm i) (int i) (src i) (dst i)))) c.group.latch := by
  have each : ∀ i ∈ quarters q, Offers c ms.toNat md.toNat i (src i) (dst i) (kk i) (wm i) (int i) := fun i hi =>
    offers i (mem_quarters.1 hi).1 (mem_quarters.1 hi).2
  have sources : badSources c ms.toNat q = [] := List.filter_eq_nil_iff.2 fun i hi => Bool.not_eq_true _ ▸ (each i hi).source_good
  have lists : badLists c ms.toNat md.toNat q = [] := by
    refine List.filter_eq_nil_iff.2 fun i hi => ?_
    simp only [(each i hi).dest, (each i hi).lists, (each i hi).code]
    cases int i <;> decide
  refine ⟨_, exec_qtopk h .., quernUnit_setTiles h (by simp [freeS, freeD]) ?_ (fun _ => mem_quarters)
    (foldl_eq_setTiles (nodup_quarters q) (fun i hi => (mem_quarters.1 hi).1) fun i hi g same => ?_)⟩
  · rw [sources, lists]
    rfl
  · exact (each i hi).quarter _ fun m => (same m).trans (group_tile h m i).symm

/-! ### qla (09 R278 to R280) -/

/-- The bytes of consecutive registers in one lane. -/
def laneBytes (g : Group) (first count lane : Nat) : List Byte := (List.range count).flatMap (fun j => bytesOf 4 (g.vlane (first + j) lane).toNat)

theorem laneBytes_length (g : Group) (first count lane : Nat) : (laneBytes g first count lane).length = 4 * count := by
  rw [laneBytes, List.length_flatMap]
  simp only [bytesOf_length, List.map_const', List.length_range, List.sum_replicate, smul_eq_mul, Nat.mul_comm]

theorem getD_laneBytes (g : Group) (first lane : Nat) {count j : Nat} (hj : j < 4 * count) :
    (laneBytes g first count lane).getD j 0 = (g.vlane (first + j / 4) lane).extractLsb' (8 * (j % 4)) 8 :=
  (getD_words _ count hj).trans <| BitVec.eq_of_toNat_eq (by rw [BitVec.extractLsb'_toNat, BitVec.toNat_ofNat, Nat.shiftRight_eq_div_pow])

/-- A lane's row of A: its data bytes, and its scale bytes (09 R280). -/
def latchRow (g : Group) (fmt : QFmt) (nb a lane : Nat) : List Byte × List Byte :=
  (laneBytes g a (nb * fmt.blockBytes / 4) lane,
    if fmt.isMx then (laneBytes g (a + nb * fmt.blockBytes / 4) ((nb + 3) / 4) lane).take nb else [])

/-- Blocks are whole words (09 R279). -/
theorem words_of_blocks (fmt : QFmt) (nb : Nat) : 4 * (nb * fmt.blockBytes / 4) = nb * fmt.blockBytes := by
  rw [QFmt.blockBytes, ← Nat.mul_assoc]
  omega

theorem latchRow_spec (g : Group) (fmt : QFmt) (nb a lane : Nat) :
    (latchRow g fmt nb a lane).1.length = nb * fmt.blockBytes ∧
    (∀ j < nb * fmt.blockBytes, (latchRow g fmt nb a lane).1.getD j 0 = (g.vlane (a + j / 4) lane).extractLsb' (8 * (j % 4)) 8) ∧
    (latchRow g fmt nb a lane).2.length = (if fmt.isMx then nb else 0) ∧
    ∀ j < (latchRow g fmt nb a lane).2.length,
      (latchRow g fmt nb a lane).2.getD j 0 = (g.vlane (a + nb * fmt.blockBytes / 4 + j / 4) lane).extractLsb' (8 * (j % 4)) 8 := by
  refine ⟨(laneBytes_length ..).trans (words_of_blocks fmt nb), fun j hj => getD_laneBytes _ _ _ ((words_of_blocks fmt nb).symm ▸ hj), ?_, ?_⟩
  · unfold latchRow
    cases fmt.isMx with
    | false => rfl
    | true =>
      simp only [if_true, List.length_take, laneBytes_length]
      omega
  · unfold latchRow
    cases fmt.isMx with
    | false => exact fun j hj => absurd hj (Nat.not_lt_zero j)
    | true =>
      simp only [if_true, List.length_take, laneBytes_length]
      intro j hj
      have inside : j < nb := by omega
      rw [List.getD_eq_getElem?_getD, List.getElem?_take_of_lt inside, ← List.getD_eq_getElem?_getD]
      exact getD_laneBytes _ _ _ (by omega)

/-- The latch that `qla` fills. -/
def filledLatch (g : Group) (fmt : QFmt) (nb : Nat) (ru : Bool) (a : Nat) : Latch :=
  { afmt := fmt, nb := nb, ru := ru, rows := allLanes.map (latchRow g fmt nb a) }

theorem exec_qla {s : State} {c : Ctx} (h : ctx? s = some c) (l : BitVec 4) (u : BitVec 1) {f : BitVec 4} (n : BitVec 3) (a : BitVec 6) {fmt : QFmt}
    (format : qfmtOf f.toNat = some fmt) : exec (.qla l u f n a) s = .next (finish (s.modGroup c.key c.group.num (fun g =>
      { g with latch := some (filledLatch c.group fmt (n.toNat + 1) (u == 1) a.toNat) })) c {}) := by
  have started : exec (.qla l u f n a) s = execQla l u f n a s := rfl
  rw [started, execQla, issue_eq h, unitWith_of_fits (fits_nil s c), format]
  rfl

theorem tileReadClaim : TileReadClaim := by
  intro s c l h
  refine ⟨?_, ?_, ?_⟩
  · intro i n cs r d free ranked e fits
    exact qrd_completes h l free ranked fits
  · intro k q ms md src dst kk wm int freeS freeD good
    refine qtopk_offers h freeS freeD fun i hi chosen => ?_
    obtain ⟨there, numbers, lists, kind⟩ := good i hi chosen
    exact ⟨there, numbers, lists, kind⟩
  · intro u f n a fmt format nb nd regByte
    refine ⟨_, filledLatch c.group fmt nb (u == 1) a.toNat, exec_qla h l u n a format, ?_, rfl, rfl, rfl, fun lane hl => ?_⟩
    · exact quernUnit_changed h ⟨_, _, _, rfl⟩ fun m q _ => (group_tile h m q).symm
    · have row : (filledLatch c.group fmt nb (u == 1) a.toNat).rows.getD lane ([], []) = latchRow c.group fmt nb a.toNat lane := getD_allLanes _ _ hl
      rw [row]
      exact latchRow_spec ..

/-- Settles O39: each form is a change of the tiles of single quarters, which do not depend on each other, or of the latch, or an effect on lane registers. -/
theorem tileResults : Obligations.TileResults := ⟨tileClaim, tileReadClaim⟩

end Sys2Proof.Machine

/-! ## Matrix units at issue (09 R281 to R283, R288) -/

namespace Sys2Proof.Machine

open Sys2Proof

/-- Under `z` the selected tiles are zero at once (09 R283). -/
theorem zeroed_eq (p : Pass) (g : Group) : p.zeroed g =
    if p.z then g.setTiles p.md (fun _ => some (zeroTile (p.latch.afmt == .i8))) (quarters p.qmask) else g := rfl

theorem zeroed_tile (p : Pass) (g : Group) (m : Nat) {q : Nat} (hq : q < 4) : (p.zeroed g).tile m q =
    if m = p.md ∧ (p.qmask.getLsbD q && p.z) = true then some (zeroTile (p.latch.afmt == .i8)) else g.tile m q := by
  rw [zeroed_eq]
  cases p.z with
  | false => simp
  | true =>
    rw [if_pos rfl, setTiles_tile _ _ _ (fun i hi => (mem_quarters.1 hi).1) _ hq]
    simp only [mem_quarters, hq, true_and, Bool.and_true]

theorem zeroed_latch (p : Pass) (g : Group) : (p.zeroed g).latch = g.latch := by
  rw [zeroed_eq]
  split
  · exact setTiles_latch ..
  · rfl

theorem onlyTiles_zeroed (p : Pass) (g : Group) : OnlyTiles g (p.zeroed g) := by
  rw [zeroed_eq]
  split
  · exact onlyTiles_setTiles ..
  · exact .refl g

/-- What the issue of a matrix unit does to its group: the selected tiles under `z`, and the latch, which is kept under the reuse flag only (09 R280, R283). -/
def Pass.posts (p : Pass) (g : Group) : Group := if p.latch.ru then p.zeroed g else { p.zeroed g with latch := none }

theorem posts_tile (p : Pass) (g : Group) (m q : Nat) : (p.posts g).tile m q = (p.zeroed g).tile m q := by
  unfold Pass.posts
  split <;> rfl

theorem posts_latch (p : Pass) (g : Group) : (p.posts g).latch = if p.latch.ru then g.latch else none := by
  unfold Pass.posts
  split
  · exact zeroed_latch p g
  · rfl

theorem onlyTiles_posts (p : Pass) (g : Group) : OnlyTiles g (p.posts g) := by
  unfold Pass.posts
  split
  · exact onlyTiles_zeroed p g
  · exact (onlyTiles_zeroed p g).trans ⟨_, _, _, rfl⟩

/-! ### The group of an engine operation that goes in flight -/

/-- The issuing group has ended its unit, and its split has a lookahead window more (02 R60). -/
theorem issueOp_group {s : State} {c : Ctx} (h : ctx? s = some c) {rs : List Rng} (free : EngineFree s c rs) (e : Eff) (look : Nat) (body : OpBody) :
    GroupIs s.teams (issueOp s c rs e look body).teams c ((c.live.ending e c.split.idx s.unit.npc).modSplit c.split.idx
      (fun sp => { sp with windows := sp.windows ++ [(s.nextOp, look)] })) := by
  obtain ⟨-, others, team⟩ : OnlyGroup s (finish s c e) c (c.live.ending e c.split.idx s.unit.npc) := endUnit_only h _
  have ended : GroupIs s.teams (finish (enterLocks s c.core (rngLocks s c rs s.nextOp)) c e).teams c (c.live.ending e c.split.idx s.unit.npc) := by
    rw [finish_teams_of_same (s := s) (t := enterLocks s c.core (rngLocks s c rs s.nextOp)) rfl rfl]
    exact ⟨others, team⟩
  rw [issueOp, releaseWrites_calm free.upd free.wc]
  exact groupIs_modGroup ended _

/-- The issue leaves the tiles and the latch of the group alone. -/
theorem issueOp_tiles {s t : State} {c : Ctx} (h : ctx? s = some c) {rs : List Rng} (free : EngineFree s c rs) {look : Nat} {body : OpBody} {g' : Group}
    (issued : issueOp s c rs {} look body = t) (group : GroupIs s.teams t.teams c g') : g'.tiles = c.live.tiles ∧ g'.latch = c.live.latch := by
  subst issued
  rw [group.unique (issueOp_group h free {} look body)]
  exact ⟨rfl, rfl⟩

/-- The tiles and the latch of the group of an operation that goes in flight may change with its issue. -/
theorem OpIssued.retiled {s t : State} {c : Ctx} {e : Eff} {rs : List Rng} {win : List Nat} {body : OpBody} {g' : Group}
    (issued : OpIssued s t c e rs win body g') {f : Group → Group} (only : OnlyTiles g' (f g')) :
    OpIssued s (t.modGroup c.key c.group.num f) c e rs win body (f g') := by
  have group := groupIs_modGroup issued.group f
  obtain ⟨ts, l, ds, changed⟩ := only
  rw [changed] at group ⊢
  exact { rest := issued.rest, group := group, op := issued.op, ops := issued.ops, name := issued.name, locks := issued.locks, cores := issued.cores
          regs := { issued.regs with }, splits := issued.splits }

/-! ### The three forms -/

theorem exec_passForm {i : Instr} {s : State} {c : Ctx} {l : BitVec 4} {form : Nat} {z : BitVec 1} {f q : BitVec 4} {d : BitVec 3} {sp : Space}
    {cols : List Nat} (h : ctx? s = some c) (operands : passForm c i = some (l, form, z, f, q, d, sp, cols)) :
    exec i s = .next (passUnit s c form z f q d sp cols l.toNat) := by
  unfold passForm at operands
  split at operands
  case h_4 => cases operands
  all_goals
    cases operands
    exact issue_eq h _

theorem passUnit_traps {s : State} {c : Ctx} (empty : c.group.latch = none) (form : Nat) (z : BitVec 1) (f q : BitVec 4) (d : BitVec 3) (sp : Space)
    (cols : List Nat) (look : Nat) :
    passUnit s c form z f q d sp cols look = takeTrap s (unitSite s c) ⟨0x31, s.unit.addr.toNat, 0, c.split.mask⟩ := by
  rw [passUnit, empty]

/-- A matrix unit that nothing stops, and for which there is room, is posted. -/
theorem passUnit_posts {s : State} {c : Ctx} {lt : Latch} (full : c.group.latch = some lt) {form : Nat} {z : BitVec 1} {f q : BitVec 4} {d : BitVec 3}
    {sp : Space} {cols : List Nat} {p : Pass} (operands : p = passOf s c form lt z f q d sp cols) (free : handleBusy s c d.toNat = false)
    (legal : passConds s c p = []) (room : replayFull s c = false) (engine : EngineFree s c [p.hull])
    (entries : quernEntries s (quadOf c.core) + (quarters q).length ≤ 32) (look : Nat) :
    passUnit s c form z f q d sp cols look = (issueOp s c [p.hull] {} look (.pass p)).modGroup c.key c.group.num p.posts := by
  subst operands
  have fit : entriesFit s c.core q = true := decide_eq_true entries
  unfold passOf at *
  rw [passUnit, full]
  simp only [free, legal, lowest, room, engine.waits, engine.room, fit, Bool.or_self, Bool.not_true, Bool.false_eq_true, if_false]
  rfl

theorem passIssueClaim : PassIssueClaim := by
  intro i s c l form z f q d sp cols h operands
  refine ⟨fun empty => ⟨_, exec_passForm h operands, passUnit_traps empty .. ▸ takeTrap_spec h _⟩, ?_⟩
  intro lt full p free legal room engine entries
  obtain ⟨g', issued⟩ := issueOp_issued h engine distinct_nil l.toNat (.pass p)
  obtain ⟨tiles, latch⟩ := issueOp_tiles h engine rfl issued.group
  refine ⟨_, p.posts g', ?_, issued.retiled (onlyTiles_posts p g'), ?_, fun m k hk => ?_⟩
  · rw [exec_passForm h operands, passUnit_posts full rfl free legal room engine entries]
  · rw [posts_latch, latch, ← (group_tiles h).2, full]
    rfl
  · rw [posts_tile, zeroed_tile _ _ _ hk, Group.tile, tiles, ← (group_tiles h).1]
    rfl

/-- Settles O40: an empty latch traps before all else; a unit that nothing stops goes in flight as every engine operation does, and its group changes in
the selected tiles and the latch. -/
theorem matrixIssue : Obligations.MatrixIssue := passIssueClaim

end Sys2Proof.Machine

/-! ## The arbiter, and the commit of a pass (09 R283 to R290) -/

namespace Sys2Proof.Machine

open Sys2Proof

/-! ### The quarters of the next pass (09 R289, R290) -/

theorem leaderOf_cons (x : Quarter) (t : List Quarter) : leaderOf (x :: t) = some (match leaderOf t with
    | none => x
    | some y => if y.level > x.level || (y.level == x.level && decide (y.posted < x.posted)) then y else x) := by
  rw [leaderOf]
  cases leaderOf t with
  | none => rfl
  | some y => exact (apply_ite some ..).symm

/-- The leader waits, and no entry that waits has a higher level. -/
theorem leaderOf_spec {qs : List Quarter} {ld : Quarter} (leads : leaderOf qs = some ld) : ld ∈ qs ∧ ∀ x ∈ qs, x.level ≤ ld.level := by
  induction qs generalizing ld with
  | nil => cases leads
  | cons x t ih =>
    rw [leaderOf_cons, Option.some.injEq] at leads
    cases later : leaderOf t with
    | none =>
      rw [later] at leads
      cases t with
      | nil =>
        subst leads
        simp
      | cons y t => rw [leaderOf_cons] at later; cases later
    | some y =>
      obtain ⟨waits, highest⟩ := ih later
      simp only [later] at leads
      split at leads
      case isTrue higher =>
        subst leads
        have above : x.level ≤ y.level := by
          simp only [Bool.or_eq_true, decide_eq_true_eq, Bool.and_eq_true, beq_iff_eq] at higher
          omega
        exact ⟨List.mem_cons_of_mem _ waits, List.forall_mem_cons.2 ⟨above, highest⟩⟩
      case isFalse lower =>
        subst leads
        have above : y.level ≤ x.level := by
          simp only [Bool.or_eq_true, decide_eq_true_eq, not_or] at lower
          omega
        exact ⟨List.mem_cons_self .., List.forall_mem_cons.2 ⟨le_rfl, fun z hz => (highest z hz).trans above⟩⟩

theorem mem_insertAge {x z : Quarter} {ys : List Quarter} : z ∈ insertAge x ys ↔ z = x ∨ z ∈ ys := by
  induction ys with
  | nil => simp [insertAge]
  | cons y t ih =>
    rw [insertAge]
    split
    · exact List.mem_cons
    · rw [List.mem_cons, ih, List.mem_cons, or_left_comm]

theorem mem_foldl_insertAge {z : Quarter} {xs ys : List Quarter} : z ∈ xs.foldl (fun ys x => insertAge x ys) ys ↔ z ∈ xs ∨ z ∈ ys := by
  induction xs generalizing ys with
  | nil => simp
  | cons x t ih => rw [List.foldl_cons, ih, mem_insertAge, List.mem_cons, or_left_comm, or_assoc]

/-- Nothing is granted, or the leader with at most 15 waiting entries of its key. -/
theorem nextPass_cases (s : State) (quern : Nat) : nextPass s quern = [] ∨ ∃ ld rest, nextPass s quern = ld :: rest ∧
    leaderOf (waitingQuarters s quern) = some ld ∧ rest.length ≤ 15 ∧ ∀ x ∈ rest, x ∈ waitingQuarters s quern ∧ sameKey ld x = true := by
  unfold nextPass
  dsimp only
  split
  case h_1 ld _ leads =>
    refine .inr ⟨ld, _, rfl, leads, List.length_take_le .., fun x hx => ?_⟩
    obtain inKey | none_ := mem_foldl_insertAge.1 (List.mem_of_mem_take hx)
    · obtain ⟨waits, key⟩ := List.mem_filter.1 inKey
      exact ⟨waits, (Bool.and_eq_true_iff.1 key).1⟩
    · cases none_
  case h_2 => exact .inl rfl

/-! ### A grant (09 R290) -/

/-- A quarter of an operation is taken into the pass. -/
def Op.granted (o : Op) (q : Nat) : Op :=
  match o.body with
  | .pass p => { o with body := .pass { p with inPass := p.inPass ||| BitVec.ofNat 4 (2 ^ q) } }
  | _ => o

theorem granted_pass {o : Op} {p : Pass} (body : o.body = .pass p) (q : Nat) :
    o.granted q = { o with body := .pass { p with inPass := p.inPass ||| BitVec.ofNat 4 (2 ^ q) } } := by
  rw [Op.granted, body]

theorem granted_other {o : Op} (other : ∀ p, o.body ≠ .pass p) (q : Nat) : o.granted q = o := by
  unfold Op.granted
  split
  case h_1 p body => exact absurd body (other p)
  case h_2 => rfl

theorem getLsbD_or_quarter (m : BitVec 4) (k : Nat) {q : Nat} (hq : q < 4) : (m ||| BitVec.ofNat 4 (2 ^ k)).getLsbD q = (m.getLsbD q || k == q) := by
  rw [BitVec.getLsbD_or, BitVec.getLsbD_ofNat, Nat.testBit_two_pow, decide_eq_true hq, Bool.true_and, beq_eq_decide]

/-- Exactly these quarters are marked, and nothing else changes. -/
def Granted (s t : State) (qs : List Quarter) : Prop := { t with ops := s.ops } = s ∧
  (∀ id o, tabGet s.ops id = some o → (∀ p, o.body ≠ .pass p) → tabGet t.ops id = some o) ∧
  ∀ id o p, tabGet s.ops id = some o → o.body = .pass p → ∃ p', tabGet t.ops id = some { o with body := .pass p' } ∧
    { p' with inPass := p.inPass } = p ∧ ∀ q < 4, p'.inPass.getLsbD q = (p.inPass.getLsbD q || qs.any (fun x => x.op == id && x.q == q))

/-- The pass takes one quarter. -/
def State.grantOne (s : State) (x : Quarter) : State := { s with ops := tabMod s.ops x.op (fun o => o.granted x.q) }

theorem grantPass_cons (s : State) (x : Quarter) (t : List Quarter) : grantPass s (x :: t) = grantPass (s.grantOne x) t := rfl

theorem grantOne_ops {s : State} {id : Nat} {o : Op} (there : tabGet s.ops id = some o) (x : Quarter) :
    tabGet (s.grantOne x).ops id = some (if id = x.op then o.granted x.q else o) := by
  rw [State.grantOne, tabGet_tabMod]
  split
  case isTrue same =>
    subst same
    rw [there]
    rfl
  case isFalse => exact there

theorem granted_grantPass (s : State) (qs : List Quarter) : Granted s (grantPass s qs) qs := by
  induction qs generalizing s with
  | nil => exact ⟨rfl, fun _ _ there _ => there, fun _ o p there body => ⟨p, by rw [← body]; exact there, rfl, by simp⟩⟩
  | cons x t ih =>
    obtain ⟨rest, others, passes⟩ := ih (s.grantOne x)
    rw [grantPass_cons]
    refine ⟨?_, fun id o there other => others id o ?_ other, fun id o p there body => ?_⟩
    · have same := congrArg (fun u : State => { u with ops := s.ops }) rest
      exact same
    · rw [grantOne_ops there, granted_other other, ite_self]
    · have there := grantOne_ops there x
      by_cases same : id = x.op
      · rw [if_pos same, granted_pass body] at there
        obtain ⟨p', after, only, marks⟩ := passes id _ _ there rfl
        have only := congrArg (fun y : Pass => { y with inPass := p.inPass }) only
        refine ⟨p', after, only, fun q hq => ?_⟩
        rw [marks q hq, getLsbD_or_quarter _ _ hq, List.any_cons, same, beq_self_eq_true, Bool.true_and, Bool.or_assoc]
      · rw [if_neg same] at there
        obtain ⟨p', after, only, marks⟩ := passes id o p there body
        refine ⟨p', after, only, fun q hq => ?_⟩
        rw [marks q hq, List.any_cons, beq_false_of_ne (Ne.symm same), Bool.false_and, Bool.false_or]

theorem exec_passGrant (quern : Nat) (s : State) :
    exec (.passGrant quern) s = .next (grantPass (repostAll s quern) (nextPass (repostAll s quern) quern)) := rfl

theorem exec_fusionWaitExpiry {s : State} {quern : Nat} (few : (nextPass s quern).length < 16) :
    exec (.fusionWaitExpiry quern) s = .next (grantPass s (nextPass s quern)) := if_pos few

theorem passGrantClaim : PassGrantClaim := by
  intro s quern qs grants
  refine ⟨⟨_, exec_passGrant .., granted_grantPass ..⟩, fun few => ⟨_, exec_fusionWaitExpiry few, granted_grantPass ..⟩, ?_⟩
  obtain none_ | ⟨ld, rest, all, leads, few, keyed⟩ := nextPass_cases s quern
  · have none_ : qs = [] := none_
    rw [none_]
    exact ⟨Nat.zero_le _, fun _ hx => absurd hx List.not_mem_nil, fun _ _ some_ => (List.cons_ne_nil _ _ some_.symm).elim⟩
  · have all : qs = ld :: rest := all
    obtain ⟨waits, highest⟩ := leaderOf_spec leads
    rw [all]
    refine ⟨Nat.succ_le_succ few, List.forall_mem_cons.2 ⟨waits, fun x hx => (keyed x hx).1⟩, fun ld' rest' same => ?_⟩
    obtain ⟨rfl, rfl⟩ := List.cons.inj same
    exact ⟨fun x hx => (keyed x hx).2, highest⟩

/-! ### The elements of a pass (09 R283, R284) -/

/-- A tile after a pass, element by element. -/
theorem passTile_at (p : Pass) (old : Tile) (cols : Nat → List Byte) (q : Nat) {r col : Nat} (hr : r < 8) (hc : col < 32) :
    (passTile p old ((List.range 32).map cols) q).at_ r col =
      if p.latch.afmt = .i8 then passElemInt p.form (old.at_ r col) ((p.latch.rows.getD (8 * q + r) ([], [])).1.map (fun x => x.toInt))
        ((cols col).map (fun x => x.toInt))
      else passElem p.form p.latch.nb (old.at_ r col)
        (runValues p.latch.afmt p.latch.nb ((p.latch.rows.getD (8 * q + r) ([], [])).1 ++ (p.latch.rows.getD (8 * q + r) ([], [])).2))
        (runValues p.bfmt p.latch.nb (cols col)) := by
  unfold passTile
  split
  · rw [at_of_rows _ _ _ hr hc, getD_map_range _ _ _ hc]
  · rw [at_of_rows _ _ _ hr hc, getD_map_range _ _ _ hc]

theorem passTile_kind (p : Pass) (old : Tile) (cols : List (List Byte)) (q : Nat) :
    (passTile p old cols q).kind = if p.latch.afmt = .i8 then .i32 else .f32 := by
  unfold passTile
  split <;> rfl

/-- The tile that a pass sums into: zero under `z` (09 R283). -/
def Pass.oldTile (p : Pass) (t : Option Tile) : Tile := if p.z then zeroTile (p.latch.afmt == .i8) else t.getD (zeroTile (p.latch.afmt == .i8))

theorem oldTile_at (p : Pass) (t : Option Tile) {r col : Nat} (hr : r < 8) (hc : col < 32) :
    (p.oldTile t).at_ r col = if p.z then 0 else match t with | some x => x.at_ r col | none => 0 := by
  unfold Pass.oldTile
  split
  · exact zeroTile_at _ hr hc
  · cases t with
    | none => exact zeroTile_at _ hr hc
    | some x => rfl

/-! ### A unit's quarters of a pass that ends (09 R285) -/

/-- What a commit does to the group. -/
def Pass.commits (p : Pass) (cols : List (List Byte)) (g : Group) : Group :=
  (quarters p.inPass).foldl (fun g q => g.setTile p.md q (some (passTile p (p.oldTile (g.tile p.md q)) cols q))) g

theorem commits_eq (p : Pass) (cols : List (List Byte)) (g : Group) : p.commits cols g =
    g.setTiles p.md (fun q => some (passTile p (p.oldTile (g.tile p.md q)) cols q)) (quarters p.inPass) :=
  foldl_eq_setTiles (nodup_quarters _) (fun _ hi => (mem_quarters.1 hi).1) fun _ _ _ same => by rw [same]

theorem commits_tile (p : Pass) (cols : List (List Byte)) (g : Group) (m : Nat) {q : Nat} (hq : q < 4) : (p.commits cols g).tile m q =
    if m = p.md ∧ p.inPass.getLsbD q = true then some (passTile p (p.oldTile (g.tile p.md q)) cols q) else g.tile m q := by
  rw [commits_eq, setTiles_tile _ _ _ (fun i hi => (mem_quarters.1 hi).1) _ hq]
  simp only [mem_quarters, hq, true_and]

/-- A commit changes tiles and dirty bits alone. -/
theorem commits_rest (p : Pass) (cols : List (List Byte)) (g : Group) : { p.commits cols g with tiles := g.tiles, dirty := g.dirty } = g := by
  have latch : (p.commits cols g).latch = g.latch := by rw [commits_eq, setTiles_latch]
  obtain ⟨ts, l, ds, changed⟩ : OnlyTiles g (p.commits cols g) := commits_eq p cols g ▸ onlyTiles_setTiles ..
  rw [changed] at latch ⊢
  obtain rfl : l = g.latch := latch
  rfl

/-- The bytes of the 32 columns of B (09 R282). -/
def readColumns (s : State) (c : Ctx) (p : Pass) : List (List Byte) := (List.range 32).map (fun i => rngBytes s c (p.column i))

/-- The state once the tiles of a unit's group are committed, over the marks of the walks for its columns. -/
def committed (s : State) (o : Op) (p : Pass) (c : Ctx) : State :=
  (((List.range 32).map p.column).foldl (fun s r => rngNote s c r) s).modLive o.team o.group
    (p.commits (readColumns s c p))

/-- Nothing stops or denies a column of B. -/
def ColumnsClear (s : State) (c : Ctx) (p : Pass) : Prop :=
  ∀ i < 32, quernPageConds s c (p.column i) = [] ∧ quernFault s c (p.column i) = none ∧ piecesDenied s c (rngReach s c (p.column i)).pieces = none

section Columns
variable {s : State} {c : Ctx} {p : Pass} (clear : ColumnsClear s c p)
include clear

theorem columns_legal : ((List.range 32).map p.column).flatMap (quernPageConds s c) = [] := by
  rw [List.flatMap_eq_nil_iff, List.forall_mem_map]
  exact fun i hi => (clear i (List.mem_range.1 hi)).1

theorem columns_mapped : ((List.range 32).map p.column).findSome? (quernFault s c) = none := by
  rw [List.findSome?_eq_none_iff, List.forall_mem_map]
  exact fun i hi => (clear i (List.mem_range.1 hi)).2.1

theorem columns_allowed : piecesDenied s c (((List.range 32).map p.column).flatMap (fun r => (rngReach s c r).pieces)) = none := by
  rw [piecesDenied, List.min?_eq_none_iff, List.filterMap_flatMap, List.flatMap_eq_nil_iff, List.forall_mem_map]
  exact fun i hi => List.min?_eq_none_iff.1 (clear i (List.mem_range.1 hi)).2.2

end Columns

/-- Without write-combining entries ranges close none (12 R363). -/
theorem foldl_rngClose_calm {s : State} (wc : s.wc = []) (c : Ctx) (rs : List Rng) : rs.foldl (fun s r => rngClose s c r) s = s :=
  List.foldlRecOn (motive := fun t : State => t = s) _ _ rfl fun _ same r _ => same ▸ rngClose_calm wc c r

/-- A unit that nothing stops or denies commits its quarters of the pass, and ends with its last ones. -/
theorem commitUnit_clear {s : State} {id : Nat} {o : Op} {p : Pass} {c : Ctx} (body : o.body = .pass p) (ctx : opCtxAny s o = some c) (wc : s.wc = [])
    (clear : ColumnsClear s c p) : commitUnit s (id, o) =
      if p.left &&& ~~~p.inPass = 0 then endOp (committed s o p c) id
      else (committed s o p c).putOp id { o with body := .pass { p with inPass := 0, left := p.left &&& ~~~p.inPass } } := by
  rw [commitUnit]
  simp only [body, ctx, columns_legal clear, lowest, columns_mapped clear, foldl_rngClose_calm wc, columns_allowed clear, Option.filter_none,
    Option.isSome_none, Bool.or_false, List.map_map]
  rfl

/-- Only marks of walks stand between a state and its notes of ranges. -/
theorem foldl_rngNote_teams (s : State) (c : Ctx) (rs : List Rng) : (rs.foldl (fun s r => rngNote s c r) s).teams = s.teams :=
  List.foldlRecOn (motive := fun t : State => t.teams = s.teams) _ _ rfl fun _ same _ _ => (notePieces_teams ..).trans same

/-- The group of an operation, and its context. -/
theorem opCtxAny_group {s : State} {o : Op} {c : Ctx} (ctx : opCtxAny s o = some c) : groupOf s o.team o.group = some c.group ∧ c.group = c.live := by
  unfold opCtxAny at ctx
  split at ctx
  case h_1 t q g team _ _ =>
    obtain ⟨gr, group, rfl⟩ := Option.map_eq_some_iff.1 ctx
    exact ⟨by rw [groupOf, team]; exact group, rfl⟩
  case h_2 => cases ctx

theorem groupOf_modLive {s : State} {key n : Nat} {g : Group} (there : groupOf s key n = some g) (live : g.splits ≠ []) (f : Group → Group) :
    groupOf (s.modLive key n f) key n = some (f g) := by
  obtain ⟨t, team, group⟩ := Option.bind_eq_some_iff.1 there
  have unended : g.ended = false := List.isEmpty_eq_false_iff.2 live
  rw [groupOf, State.modLive, State.modGroup, State.teams_modTeam, tabGet_tabMod_self, team]
  simp only [Option.map_some, Option.bind_some, tabGet_tabMod_self, group, unended, Bool.false_eq_true, if_false]

/-- The end of an operation leaves the groups alone. -/
theorem groupOf_endOp (s : State) (id key n : Nat) : groupOf (endOp s id) key n = groupOf s key n := by
  rw [groupOf, endOp, releaseLocks, tabGet_map s.teams (fun _ t => { t with locks := t.locks.filter fun l => !(l.op == id && true) }), groupOf]
  cases tabGet s.teams key <;> rfl

theorem groupOf_committed {s : State} {o : Op} {p : Pass} {c : Ctx} (ctx : opCtxAny s o = some c) (live : c.live.splits ≠ []) :
    groupOf (committed s o p c) o.team o.group = some (p.commits (readColumns s c p) c.group) := by
  obtain ⟨there, same⟩ := opCtxAny_group ctx
  refine groupOf_modLive ?_ (same ▸ live) _
  rw [groupOf, foldl_rngNote_teams]
  exact there

/-- A pass of one unit's quarters commits that unit. -/
theorem exec_passCommit {s : State} {quern id : Nat} {o : Op}
    (one : s.ops.filter (fun o => quadOf o.2.core == quern && !o.2.halted && (match o.2.body with | .pass p => p.inPass != 0 | _ => false)) = [(id, o)]) :
    exec (.passCommit quern) s = .next (commitUnit s (id, o)) :=
  congrArg (fun xs => Host.Outcome.next (List.foldl commitUnit s xs)) one

theorem passCommitClaim : PassCommitClaim := by
  intro s quern id o p c one body ctx live wc clear elem
  have tiles := fun m (q : Nat) (hq : q < 4) => commits_tile p (readColumns s c p) c.group m hq
  have ends := (exec_passCommit one).trans (congrArg Host.Outcome.next (commitUnit_clear body ctx wc clear))
  refine ⟨_, p.commits (readColumns s c p) c.group, ends, ?_, commits_rest .., ?_, ?_, ?_⟩
  · split
    · exact (groupOf_endOp ..).trans (groupOf_committed ctx live)
    · exact groupOf_committed ctx live
  · intro m q hq outside
    rw [tiles m q hq, if_neg outside]
  · intro q hq inside
    refine ⟨_, (tiles p.md q hq).trans (if_pos ⟨rfl, inside⟩), passTile_kind .., fun r hr col hc => ?_⟩
    have value := passTile_at p (p.oldTile (c.group.tile p.md q)) (fun i => rngBytes s c (p.column i)) q hr hc
    rw [oldTile_at _ _ hr hc] at value
    exact value
  · split
    · exact tabGet_endOp_self ..
    · exact tabGet_tabPut_self ..

/-- Settles O41: a grant marks the quarters of its list one by one, and the leader is above every entry by induction over the entries; a commit replaces the
tiles of its quarters, each element by the form's own sum, over marks of walks that leave the teams alone. -/
theorem matrixPasses : Obligations.MatrixPasses := ⟨passGrantClaim, passCommitClaim⟩

end Sys2Proof.Machine

/-! ## Attention units at issue (10 R303 to R308) -/

namespace Sys2Proof.Machine

open Sys2Proof

/-- The three forms issue one unit, each under its own number. -/
theorem exec_attForm {i : Instr} {s : State} {c : Ctx} {l : BitVec 4} {form : Nat} {h q : BitVec 4} {slot : BitVec 3} {me : BitVec 1} {kq : BitVec 2}
    (here : ctx? s = some c) (operands : attForm i = some (l, form, h, q, slot, me, kq)) :
    exec i s = .next (attUnit s c form h q slot me kq l.toNat) := by
  unfold attForm at operands
  split at operands
  case h_4 => cases operands
  all_goals
    cases operands
    exact issue_eq here _

/-- The null reference resolves to none, where there is a heap (13 R380). -/
theorem resolveFor_zero (s : State) (c : Ctx) : resolveFor s c 0 = .null := by
  unfold resolveFor
  split
  · exact if_pos rfl
  · rfl

/-- The null reference makes no walk (07 R228). -/
theorem noteRefs_zero (s : State) (q : Queue) (h : Option Heap) : noteRefs s q h [0] = s := by
  cases h <;> rfl

/-- The mask of a mask's lowest lane, as a number. -/
theorem toNat_lowLane_mask (m : BitVec 32) : (BitVec.ofNat 32 (2 ^ lowLane m)).toNat = 2 ^ lowLane m := by
  have lane : lowLane m < 32 := by
    unfold lowLane
    cases lanes : lanesOf m with
    | nil => decide
    | cons l _ => exact (mem_lanesOf.1 (lanes ▸ List.mem_cons_self ..)).1
  rw [BitVec.toNat_ofNat, Nat.mod_eq_of_lt (Nat.pow_lt_pow_right (by decide) lane)]

/-- A null list is the condition 0x50 of the unit's lowest lane (10 R308, 13 R401). -/
theorem listCond_null {s : State} {c : Ctx} (heap : (heapOf s c).isSome = true) (lane : Nat) : listCond s c lane .null =
    [{ code := 0x50, d0 := s.unit.addr.toNat, d1 := (BitVec.ofNat 32 (2 ^ lane)).toNat, lanes := BitVec.ofNat 32 (2 ^ lane) }] := by
  rw [listCond, if_neg (by rw [Option.isNone_eq_false_iff.2 heap]; decide)]

theorem listCond_obj {s : State} {c : Ctx} (heap : (heapOf s c).isSome = true) (lane o : Nat) (hd : Header) (v : DWord) :
    listCond s c lane (.obj o hd v) = [] := if_neg (by rw [Option.isNone_eq_false_iff.2 heap]; decide)

/-- Each scratchpad range has one entry (03 R97). -/
theorem length_rngLocks_hulls (s : State) (c : Ctx) (hulls : List (Nat × Nat × Bool)) (op : Nat) :
    (rngLocks s c (hulls.map hullRng) op).length = hulls.length := by
  have one : ∀ h, entriesFor s c.q c.core c.key c.team.spadOff (hullRng h) op = [rangeEntry c.key c.q.asid (hullRng h) op] := fun _ => rfl
  simp only [rngLocks, List.flatMap_map, one, List.length_flatMap, List.length_singleton, List.map_const', List.sum_replicate, smul_eq_mul, Nat.mul_one]

/-- The mask program that the unit names, if any, does not make it wait (11 R329). -/
def Bindable (s : State) (c : Ctx) (slot : BitVec 3) (me : BitVec 1) : Prop :=
  me = 1 → slotHeld s c.team.queue slot.toNat = false ∧ bindFull s c.core c.team.queue slot.toNat = false

theorem Bindable.goes {s : State} {c : Ctx} {slot : BitVec 3} {me : BitVec 1} (bindable : Bindable s c slot me) :
    (decide (me = 1) && (slotHeld s c.team.queue slot.toNat || bindFull s c.core c.team.queue slot.toNat)) = false := by
  by_cases masked : me = 1
  · obtain ⟨held, full⟩ := bindable masked
    rw [held, full, Bool.or_self, Bool.and_false]
  · rw [decide_eq_false masked, Bool.false_and]

section Issue
variable {s : State} {c : Ctx} {form : Nat} {h q : BitVec 4} {slot : BitVec 3} {me : BitVec 1} {kq : BitVec 2} (bindable : Bindable s c slot me)
  (heap : (heapOf s c).isSome = true) {a : Att} (unit : a = attOf s c form h q slot me kq) (legal : attConds s c a = [])
include bindable heap unit legal

/-- A unit with legal operands whose list is null traps (10 R308). -/
theorem attUnit_null (null : c.group.hlane h.toNat (lowLane c.split.mask) = 0) (look : Nat) :
    attUnit s c form h q slot me kq look = takeTrap s (unitSite s c)
      ⟨0x50, s.unit.addr.toNat, 2 ^ lowLane c.split.mask, BitVec.ofNat 32 (2 ^ lowLane c.split.mask)⟩ := by
  subst unit
  unfold attOf at legal
  dsimp only at legal
  rw [attUnit]
  simp only [bindable.goes, null, resolveFor_zero, listCond_null heap, toNat_lowLane_mask, noteRefs_zero] at legal ⊢
  simp only [legal, List.nil_append, lowest_one, Bool.false_eq_true, if_false]

/-- A unit that nothing stops, and for which there is room, goes in flight with its rows latched (10 R307, R308). -/
theorem attUnit_issues {o : Nat} {hd : Header} {v : DWord} (resolved : resolveFor s c (c.group.hlane h.toNat (lowLane c.split.mask)) = .obj o hd v)
    (still : resHeld s c false (.obj o hd v) = false) (room : replayFull s c = false) (engine : EngineFree s c (a.hulls.map hullRng))
    (entries : quernEntries s (quadOf c.core) + (quarters q).length ≤ 32) (look : Nat) :
    attUnit s c form h q slot me kq look = issueOp s c (a.hulls.map hullRng)
      { h := [(h.toNat, BitVec.ofNat 32 (2 ^ lowLane c.split.mask), fun _ => v)] } look (.att { a with rows := latchRows s c a }) := by
  have fit : entriesFit s c.core q = true := decide_eq_true entries
  have locks : locksFit s c.core a.hulls.length = true := by
    rw [← length_rngLocks_hulls s c a.hulls s.nextOp]
    exact engine.room
  subst unit
  unfold attOf at *
  dsimp only at *
  rw [attUnit]
  simp only [bindable.goes, resolved, listCond_obj heap, healedOf] at legal ⊢
  simp only [legal, List.append_nil, lowest, resFault, room, engine.waits, locks, still, fit, Bool.or_self, Bool.not_true, Bool.false_eq_true, if_false]

end Issue

theorem attentionIssueClaim : AttentionIssueClaim := by
  intro i s c l form h q slot me kq here operands heap bindable a ref legal
  refine ⟨fun null => ⟨_, exec_attForm here operands, ?_⟩, fun o hd v resolved still room engine entries => ?_⟩
  · rw [attUnit_null bindable heap rfl legal null]
    exact takeTrap_spec here _
  · have healed : Eff.distinct { h := [(h.toNat, BitVec.ofNat 32 (2 ^ lowLane c.split.mask), fun _ => v)] } :=
      ⟨.nil, .nil, .nil, List.nodup_singleton _⟩
    obtain ⟨g', issued⟩ := issueOp_issued here engine healed l.toNat (.att { a with rows := latchRows s c a })
    refine ⟨_, g', ?_, issued⟩
    rw [exec_attForm here operands, attUnit_issues bindable heap rfl legal resolved still room engine entries]

/-- Settles O44: a null list is the only condition that stands, and its walks leave no marks; a unit that nothing stops goes in flight as every engine
operation does, each of its scratchpad ranges with one entry. -/
theorem attentionIssue : Obligations.AttentionIssue := attentionIssueClaim

end Sys2Proof.Machine

/-! ## The completion of attention units (10 R309 to R319; 11 R345) -/

namespace Sys2Proof.Machine

open Sys2Proof

/-! ### What a unit owes (10 R319, 11 R345) -/

theorem exec_attentionComplete (id : Nat) (s : State) : exec (.attentionComplete id) s = execAttentionComplete id s := rfl

/-- A unit completes over what it owes, in the state that the choice, if one was made, leaves (log 4). -/
theorem moveCounters_whole {s : State} {d : AttDone} (whole : choice s ≠ 1 ∨ d.moves.length ≤ 1) (id : Nat) (o : Op) (c : Ctx) (a : Att) :
    moveCounters s id o c a d = endOp (attEnds (if d.moves.length ≤ 1 then s else s.chosen) o c d) id := by
  unfold moveCounters
  split
  · rename_i moves
    have several : ¬ d.moves.length ≤ 1 := by
      rw [moves, List.length_cons, List.length_cons]
      omega
    rw [if_neg (whole.resolve_right several), if_neg several]
    rfl
  · rename_i other
    have one : d.moves.length ≤ 1 := by
      match moves : d.moves with
      | [] => decide
      | [m] => exact Nat.le_refl 1
      | m :: n :: t => exact absurd moves (other m n t)
    rw [if_pos one]
    rfl

/-- By the choice 1 the first of several counters moves alone (log 4, log 111). -/
theorem moveCounters_first {s : State} {d : AttDone} {m n : Nat × Nat} {ms : List (Nat × Nat)} (chosen : choice s = 1) (moves : d.moves = m :: n :: ms)
    (id : Nat) (o : Op) (c : Ctx) (a : Att) : moveCounters s id o c a d =
      (addCounter s.chosen c.q m.1 m.2).putOp id { o with body := .att { a with owed := some { d with moves := n :: ms } } } := by
  simp only [moveCounters, moves, chosen, if_true]

/-- The unit goes on with what it owes: it completes in one event, or moves one counter and owes the rest. -/
def GoesOn (s : State) (id : Nat) (o : Op) (c : Ctx) (a : Att) (u : State) (d : AttDone) : Prop :=
  ((choice u ≠ 1 ∨ d.moves.length ≤ 1) → ∃ t, exec (.attentionComplete id) s = .next t ∧ tabGet t.ops id = none ∧
    t.mem = (attEnds (if d.moves.length ≤ 1 then u else u.chosen) o c d).mem) ∧
  (∀ m n ms, choice u = 1 → d.moves = m :: n :: ms → ∃ t, exec (.attentionComplete id) s = .next t ∧
    tabGet t.ops id = some { o with body := .att { a with owed := some { d with moves := n :: ms } } } ∧
    t.mem = (addCounter u.chosen c.q m.1 m.2).mem)

theorem goesOn_of_exec {s u : State} {id : Nat} {o : Op} {c : Ctx} {a : Att} {d : AttDone}
    (runs : exec (.attentionComplete id) s = .next (moveCounters u id o c a d)) : GoesOn s id o c a u d := by
  refine ⟨fun whole => ⟨_, runs, ?_⟩, fun m n ms chosen moves => ⟨_, runs, ?_⟩⟩
  · rw [moveCounters_whole whole]
    exact ⟨tabGet_endOp_self .., endOp_mem ..⟩
  · rw [moveCounters_first chosen moves]
    exact ⟨tabGet_tabPut_self .., rfl⟩

/-! ### The chain of a unit that nothing stops (10 R309, R315) -/

theorem lowest_flatMap_nil {α : Type} {xs : List α} {f : α → List Cond} (clear : ∀ x ∈ xs, f x = []) : lowest (xs.flatMap f) = none := by
  rw [List.flatMap_eq_nil_iff.2 clear, lowest]

section InFlight
variable {s : State} {id : Nat} {o : Op} {c : Ctx} {a : Att} (there : tabGet s.ops id = some o) (ctx : opCtxAny s o = some c) (body : o.body = .att a)
include there ctx body

theorem exec_owing {d : AttDone} (owed : a.owed = some d) : exec (.attentionComplete id) s = .next (moveCounters s id o c a d) := by
  rw [exec_attentionComplete, execAttentionComplete]
  simp only [there, ctx, body, owed]

theorem exec_chain {obj : Nat} (runs : o.halted = false) (owed : a.owed = none) (sampled : a.sample.isSome = true) (list : a.list = some obj) :
    exec (.attentionComplete id) s = .next (attComplete s id o c a obj) := by
  have begun : a.sample.isNone = false := Option.isNone_eq_false_iff.2 sampled
  rw [exec_attentionComplete, execAttentionComplete]
  simp only [there, ctx, body, owed, runs, begun, list, Bool.or_self, Bool.false_eq_true, if_false]

end InFlight

section Chain
variable {s : State} {id : Nat} {o : Op} {c : Ctx} {a : Att} {obj : Nat}

/-- A chain that nothing stops leaves its effects and what the unit owes. -/
theorem attComplete_clear {h : PageList} {looks : List PageLook} {reads : List Rng} (read : lookList s c a obj = .ok h looks reads)
    (clear : ∀ x ∈ looks, (∀ cs, x ≠ .stop cs) ∧ (∀ f, x ≠ .fault f) ∧ x ≠ .held) (room : a.form = 1 → (s.core c.core).upd.length + looks.length ≤ 32)
    {s1 : State} (closed : attClose s c a h looks = s1) {rows : List (Nat × RowOut)} (results : (if a.form = 2 then [] else attRows s1 c a h looks) = rows)
    {masses : List (Nat × Nat)} (additions : (if a.form = 1 then attMasses rows (livePages looks) else []) = masses)
    (pages : ∀ x ∈ masses, quernPageConds s c (massRng x.1) = [] ∧ quernFault s c (massRng x.1) = none) :
    attComplete s id o c a obj = moveCounters (attEffect (attWalks s1 c a obj (tokensOf h.tcode) looks) c a h looks reads masses) id o c a
      (attOwes s1 c a h looks rows) := by
  have unheld : looks.contains .held = false := by
    rw [← Bool.not_eq_true, List.contains_iff_mem]
    exact fun held => (clear _ held).2.2 rfl
  have fits : (a.form == 1 && decide ((s.core c.core).upd.length + looks.length > 32)) = false := by
    by_cases adds : a.form = 1
    · rw [decide_eq_false (Nat.not_lt.2 (room adds)), Bool.and_false]
    · rw [beq_false_of_ne adds, Bool.false_and]
  unfold attComplete
  rw [read]
  dsimp only
  rw [lowest_flatMap_nil (xs := looks), (List.findSome?_eq_none_iff (l := looks)).2]
  · simp only [unheld, fits, closed, results, additions, Bool.false_and, Bool.or_self, Bool.false_eq_true, if_false]
    rw [lowest_flatMap_nil fun x hx => (pages x hx).1, List.findSome?_eq_none_iff.2 fun x hx => (pages x hx).2]
  · intro x hx
    cases x with
    | fault f => exact absurd rfl ((clear _ hx).2.1 f)
    | gone | excluded | stop | held | page => rfl
  · intro x hx
    cases x with
    | stop cs => exact absurd rfl ((clear _ hx).1 cs)
    | gone | excluded | fault | held | page => rfl

theorem attComplete_denied {va k : Nat} (denied : lookList s c a obj = .denied va k) :
    attComplete s id o c a obj = endOp (attDenied s o c a va k) id := by
  rw [attComplete, denied]

end Chain

/-! ### Output where no barrier was initialised (10 R306, R309; log 112) -/

theorem tags_opAudit (s : State) (o : Op) (va count detail cls path kind : Nat) : (opAudit s o va count detail cls path kind).tags = s.tags := by
  unfold opAudit opAuditL
  split
  · rfl
  · exact audit_keeps (P := fun t => t.tags = s.tags) _ _ rfl (fun _ _ same => same) (fun _ _ _ _ _ same => (State.tags_putQueue ..).trans same)
      (fun _ _ _ _ same => same)

theorem teamTag_of_tags {s t : State} (same : t.tags = s.tags) (tm : Team) (o n : Nat) : teamTag t tm o n = teamTag s tm o n := by
  rw [teamTag, tagIn, same, teamTag, tagIn]

theorem spadAt_add (tm : Team) (o j : Nat) : tm.spadAt (o + j) = tm.spadAt o + j := by
  simp only [Team.spadAt, spadAddr]
  split <;> omega

theorem writeOut_untagged {s : State} {tm : Team} {o : Nat} {bs : List Byte} (untagged : teamTag s tm o bs.length = none) :
    writeOut s tm o bs = s.write (tm.spadAt o) bs := by
  rw [writeOut, untagged]
  rfl

/-- Outputs that meet no barrier are written one after another. -/
theorem foldl_writeOut_untagged {s : State} {tm : Team} {off : Nat → Nat} {bs : List Byte} {js : List Nat}
    (untagged : ∀ j ∈ js, teamTag s tm (off j) bs.length = none) :
    (js.map (fun j => (off j, bs))).foldl (fun s x => writeOut s tm x.1 x.2) s = writeLanes s (fun j => tm.spadAt (off j)) (fun _ => bs) js := by
  induction js generalizing s with
  | nil => rfl
  | cons j js ih =>
    rw [List.map_cons, List.foldl_cons, writeOut_untagged (untagged j (List.mem_cons_self ..))]
    exact ih fun i hi => (teamTag_of_tags rfl ..).trans (untagged i (List.mem_cons_of_mem _ hi))

theorem length_emptyRow (n : Nat) : (emptyRow n).bytes.length = outBytes n := by
  simp only [RowOut.bytes, emptyRow, List.length_append, List.length_flatMap, bytesOf_length, List.map_const', List.length_replicate, List.sum_replicate,
    smul_eq_mul, outBytes]
  omega

theorem rising_rowsOf (m : BitVec 4) : (rowsOf m).Pairwise (· < ·) := by
  have quarters_rising : (quarters m).Pairwise (· < ·) := List.Pairwise.filter _ List.pairwise_lt_range
  refine List.pairwise_flatMap.2 ⟨fun q _ => ?_, quarters_rising.imp fun before x hx y hy => ?_⟩
  · exact List.pairwise_map.2 (List.pairwise_lt_range.imp fun h => by omega)
  · obtain ⟨i, hi, rfl⟩ := List.mem_map.1 hx
    obtain ⟨j, -, rfl⟩ := List.mem_map.1 hy
    have := List.mem_range.1 hi
    omega

theorem bytes_eq {s : State} {pa : Nat} {bs : List Byte} (same : ∀ j < bs.length, s.byteAt (pa + j) = bs.getD j 0) : s.bytes pa bs.length = bs := by
  rw [State.bytes, memGetMany_eq_map]
  refine List.ext_getElem (by rw [List.length_map, List.length_range]) fun j _ hj => ?_
  rw [List.getElem_map, List.getElem_range]
  exact (same j hj).trans (List.getD_eq_getElem _ _ hj)

/-- Rows of equal length that are written at their places stand there: rows are apart (10 R306). -/
theorem bytes_writeLanes_rows {s : State} (inv : s.Inv) (base : Nat) {bs : List Byte} {js : List Nat} (rising : js.Pairwise (· < ·)) {j : Nat}
    (hj : j ∈ js) : (writeLanes s (fun i => base + bs.length * i) (fun _ => bs) js).bytes (base + bs.length * j) bs.length = bs := by
  refine bytes_eq fun x hx => ?_
  have apart : ∀ i ∈ js, j < i → ¬ (base + bs.length * i ≤ base + bs.length * j + x ∧ base + bs.length * j + x < base + bs.length * i + bs.length) := by
    intro i _ above
    have := Nat.mul_le_mul_left bs.length (Nat.succ_le_of_lt above)
    rw [Nat.mul_succ] at this
    omega
  rw [byteAt_writeLanes (fun _ => rfl) inv rising hj (by omega) (by omega) apart, Nat.add_sub_cancel_left]

section Denied
variable {s : State} (c : Ctx) {a : Att} (o : Op) (va k : Nat)

/-- The selection of a unit whose list is denied is empty (10 R309). -/
theorem num_attDenied (inv : s.Inv) (selects : a.form = 2) (untagged : teamTag s c.team (a.op 2) 8 = none) :
    (attDenied s o c a va k).num (c.team.spadAt (a.op 2)) 8 = 0 := by
  have untagged' : teamTag (opAudit s o va 0 0 k 7 0) c.team (a.op 2) (bytesOf 8 0).length = none :=
    (teamTag_of_tags (tags_opAudit ..) ..).trans (by rwa [bytesOf_length])
  have written : attDenied s o c a va k = (opAudit s o va 0 0 k 7 0).writeNum (c.team.spadAt (a.op 2)) 8 0 := by
    rw [attDenied, if_pos selects]
    exact writeOut_untagged untagged'
  rw [written, State.num_writeNum_same (wf_opAudit _ _ _ _ _ _ _ _ inv)]
  rfl

/-- The rows of a unit whose list is denied are without contribution (10 R309). -/
theorem bytes_attDenied (inv : s.Inv) (rows : a.form ≠ 2)
    (untagged : ∀ j ∈ rowsOf a.qmask, teamTag s c.team (a.op 2 + outBytes a.chans * j) (outBytes a.chans) = none) {j : Nat} (hj : j ∈ rowsOf a.qmask) :
    (attDenied s o c a va k).bytes (c.team.spadAt (a.op 2 + outBytes a.chans * j)) (outBytes a.chans) = (emptyRow a.chans).bytes := by
  rw [← length_emptyRow] at untagged ⊢
  have untagged' : ∀ i ∈ rowsOf a.qmask, teamTag (opAudit s o va 0 0 k 7 0) c.team (a.op 2 + (emptyRow a.chans).bytes.length * i)
      (emptyRow a.chans).bytes.length = none := fun i hi => (teamTag_of_tags (tags_opAudit ..) ..).trans (untagged i hi)
  have written := foldl_writeOut_untagged untagged'
  simp only [spadAt_add] at written ⊢
  rw [attDenied, if_neg rows, rowOuts, List.map_map, ← length_emptyRow]
  exact (congrArg (fun t : State => t.bytes _ _) written).trans (bytes_writeLanes_rows (wf_opAudit _ _ _ _ _ _ _ _ inv) _ (rising_rowsOf _) hj)

end Denied

/-! ### Rows (10 R313, R314) -/

theorem rowResult_nil (a : Att) (row : Nat × List Nat × Nat × Nat) : rowResult a [] row = emptyRow a.chans := rfl

/-- A score that spoils its row is not negative infinity, which would leave its token out. -/
theorem not_isNegInf_of_spoils {x : Num} (spoilt : spoils x = true) : isNegInf x = false := by
  refine beq_eq_false_iff_ne.2 ?_
  rintro rfl
  exact absurd spoilt (by decide)

/-- One admitted score that is NaN or positive infinity spoils the row (10 R314). -/
theorem rowResult_spoilt {a : Att} {row : Nat × List Nat × Nat × Nat} {p : AttPage} {b : Body} {t : Nat} (admits : t ∈ admitted a p row)
    (spoilt : spoils (scoreOf a.chans (f32Num (a.k.getD 3 0)) (row.2.1.map bf16Num) (tokenRow b false a.chans t)) = true) :
    ∃ used, rowResult a [(p, b)] row = { o := List.replicate a.chans (f32Bits .nan), m := f32Bits .nan, l := f32Bits .nan, used := used, mass := [] } := by
  refine ⟨_, if_pos (List.any_eq_true.2 ⟨_, List.mem_singleton_self _, List.any_eq_true.2 ⟨_, List.mem_filter.2 ⟨List.mem_map_of_mem admits, ?_⟩, spoilt⟩⟩)⟩
  rw [not_isNegInf_of_spoils spoilt]
  rfl

theorem attentionCompleteClaim : AttentionCompleteClaim := by
  refine ⟨?_, rowResult_nil, ?_⟩
  · intro s id o c a obj there ctx body goes
    refine ⟨fun d owed => goesOn_of_exec (exec_owing there ctx body owed), fun runs owed sampled list => ?_⟩
    have chain := exec_chain there ctx body runs owed sampled list
    constructor
    · intro h looks reads read clear room s1 rows masses pages
      exact goesOn_of_exec (chain.trans (congrArg Host.Outcome.next (attComplete_clear read clear room rfl rfl rfl pages)))
    · intro va k denied inv
      refine ⟨_, chain, ?_⟩
      rw [attComplete_denied denied]
      exact ⟨tabGet_endOp_self .., fun selects untagged => num_attDenied c o va k inv selects untagged,
        fun rows untagged j hj => bytes_attDenied c o va k inv rows untagged hj⟩
  · intro a row p b t admits spoilt
    obtain ⟨used, result⟩ := rowResult_spoilt admits spoilt
    rw [result]
    exact ⟨rfl, rfl, rfl⟩

/-- Settles O45: a unit that owes, or whose chain nothing stops, goes on by the moves of its counters; a denied list's output is written row by row, each
apart from the others, over an event that leaves barrier tags alone; a spoiling score is not left out as negative infinity is. -/
theorem attentionCompletion : Obligations.AttentionCompletion := attentionCompleteClaim

end Sys2Proof.Machine

/-! ## Slots of mask programs (11 R327, R328) -/

namespace Sys2Proof

theorem packWidth_append (xs ys : List (Nat × Nat)) : packWidth (xs ++ ys) = packWidth xs + packWidth ys := by
  induction xs with
  | nil => exact (Nat.zero_add _).symm
  | cons x t ih => rw [List.cons_append, packWidth, ih, packWidth, Nat.add_assoc]

/-- Fields of one width take that width each. -/
theorem packWidth_map {α : Type} (w : Nat) (f : α → Nat) (xs : List α) : packWidth (xs.map fun x => (w, f x)) = w * xs.length := by
  induction xs with
  | nil => rfl
  | cons x t ih => rw [List.map_cons, packWidth, ih, List.length_cons, Nat.mul_succ, Nat.add_comm]

/-- A packed word loses nothing where its fields have room. -/
theorem packBits_mod {fs : List (Nat × Nat)} {n : Nat} (room : packWidth fs ≤ n) : packBits fs % 2 ^ n = packBits fs :=
  Nat.mod_eq_of_lt ((packBits_lt fs).trans_le (Nat.pow_le_pow_right Nat.two_pos room))

/-- The sum of the powers of two of the numbers that satisfy a test, with zero for each of the others. -/
theorem foldl_powers (p : Nat → Bool) (is : List Nat) :
    (is.map fun i => if p i then 2 ^ i else 0).foldl (· + ·) 0 = (is.filter p).foldl (fun k l => k + 2 ^ l) 0 := by
  rw [List.foldl_map, List.foldl_filter]
  refine congrArg (fun f => is.foldl f 0) (funext fun k => funext fun i => ?_)
  split <;> rfl

end Sys2Proof

namespace Sys2Proof.Machine

open Sys2Proof

/-- A number inside a longer one. -/
theorem State.num_within (s : State) (pa : Nat) {n a b : Nat} (inside : a + b ≤ n) : s.num (pa + a) b = bitsOf (s.num pa n) (8 * a) (8 * b) := by
  rw [State.num, ← drop_take_bytes s pa inside, natOfBytes_take, natOfBytes_drop, State.num, bitsOf]

/-! ### The entry of a slot (11 R328) -/

/-- The fields of a slot's entry, lowest first. -/
def entryFields (seq : Nat) (ws : List Word) : List (Nat × Nat) :=
  [(5, ws.length), (3, 0), (1, if ws.isEmpty then 0 else 1), (23, 0), (32, seq)] ++ (List.range 16).map (fun i => (32, ((ws.getD i 0).toNat : Nat)))

/-- The number of changes of a slot, raised by one (11 R328). -/
def nextSeq (s : State) (q : Queue) (slot : Nat) : Nat := (s.num (slotAt q slot + 4) 4 + 1) % 2 ^ 32

theorem putSlot_eq (s : State) (q : Queue) (slot : Nat) (ws : List Word) :
    putSlot s q slot ws = s.writeNum (slotAt q slot) 128 (packBits (entryFields (nextSeq s q slot) ws)) := rfl

theorem packWidth_entryFields (seq : Nat) (ws : List Word) : packWidth (entryFields seq ws) = 576 := by
  rw [entryFields, packWidth_append, packWidth_map]
  rfl

section Entry
variable {seq : Nat} {ws : List Word} {e : Nat} (entry : e = packBits (entryFields seq ws))
include entry

theorem entry_lt : e < 2 ^ 576 := by
  rw [entry, ← packWidth_entryFields seq ws]
  exact packBits_lt _

theorem entry_word {i : Nat} (hi : i < 16) : bitsOf e (64 + 32 * i) 32 = (ws.getD i 0).toNat := by
  have field : (entryFields seq ws)[5 + i]? = some (32, (ws.getD i 0).toNat) := by
    rw [entryFields, List.getElem?_append_right (by simp), List.getElem?_map, List.getElem?_range (by simp; omega)]
    simp
  have place : packWidth ((entryFields seq ws).take (5 + i)) + 0 = 64 + 32 * i := by
    have words : (entryFields seq ws).take (5 + i) =
        (entryFields seq ws).take 5 ++ ((List.range 16).take i).map fun i => (32, (ws.getD i 0).toNat) := by
      rw [List.take_add, List.map_take]
      rfl
    rw [words, packWidth_append, packWidth_map, List.length_take, List.length_range, Nat.min_eq_left (by omega)]
    rfl
  exact bits_at entry (5 + i) 0 field place le_rfl (by rw [Nat.pow_zero, Nat.div_one, Nat.mod_eq_of_lt (BitVec.isLt _)])

theorem entry_seq (small : seq < 2 ^ 32) : bitsOf e 32 32 = seq :=
  bits_at entry 4 0 rfl rfl le_rfl (by rw [Nat.pow_zero, Nat.div_one, Nat.mod_eq_of_lt small])

theorem entry_count (few : ws.length ≤ 16) : bitsOf e 0 5 = ws.length :=
  bits_at entry 0 0 rfl rfl le_rfl (by omega)

theorem entry_valid : bitOf e 8 = !ws.isEmpty := by
  have bit : bitsOf e 8 1 = if ws.isEmpty then 0 else 1 := bits_at entry 2 0 rfl rfl le_rfl (by split <;> rfl)
  rw [bitOf]
  rw [bitsOf, Nat.pow_one] at bit
  rw [bit]
  cases ws.isEmpty <;> rfl

/-- The reserved bits are zero. -/
theorem entry_reserved : bitsOf e 5 3 = 0 ∧ bitsOf e 9 23 = 0 ∧ bitsOf e 576 448 = 0 :=
  ⟨bits_at entry 1 0 rfl rfl le_rfl rfl, bits_at entry 3 0 rfl rfl le_rfl rfl,
    by rw [bitsOf, Nat.div_eq_of_lt (entry_lt entry)]; exact Nat.zero_mod _⟩

end Entry

theorem byteAt_putSlot_outside (s : State) (q : Queue) (slot : Nat) (ws : List Word) {a : Nat}
    (outside : ¬ (slotAt q slot ≤ a ∧ a < slotAt q slot + 128)) : (putSlot s q slot ws).byteAt a = s.byteAt a :=
  State.byteAt_writeNum_outside s _ ((not_and_or.1 outside).imp not_le.1 not_lt.1)

theorem putSlot_marked {s : State} (still : s.migrations = []) (q : Queue) (slot : Nat) (ws : List Word) :
    Marked s (putSlot s q slot ws) ∧ (putSlot s q slot ws).teams = s.teams ∧ (putSlot s q slot ws).migrations = [] := by
  rw [putSlot_eq]
  exact write_marked still ..

/-- A program stands in memory alone. -/
theorem slotProgram_of_mem {s t : State} (same : t.mem = s.mem) (q : Queue) (slot : Nat) : slotProgram t q slot = slotProgram s q slot := by
  have entry : t.num (slotAt q slot) 128 = s.num (slotAt q slot) 128 := by simp only [State.num, State.bytes, same]
  rw [slotProgram, entry, slotProgram]

section Put
variable {s : State} (inv : s.Inv) (q : Queue) (slot : Nat)
include inv

theorem num_putSlot (ws : List Word) : (putSlot s q slot ws).num (slotAt q slot) 128 = packBits (entryFields (nextSeq s q slot) ws) := by
  have fits : packWidth (entryFields (nextSeq s q slot) ws) ≤ 8 * 128 := by
    rw [packWidth_entryFields]
    decide
  rw [putSlot_eq, State.num_writeNum_same inv]
  exact packBits_mod fits

/-- A slot holds what was put in it; no words leave it empty. -/
theorem slotProgram_putSlot {ws : List Word} (few : ws.length ≤ 16) :
    slotProgram (putSlot s q slot ws) q slot = if ws.isEmpty then none else some ws := by
  have entry := num_putSlot inv q slot ws
  generalize held : (putSlot s q slot ws).num (slotAt q slot) 128 = e at entry
  obtain ⟨low, mid, high⟩ := entry_reserved entry
  have words : (List.range ws.length).map (fun i => BitVec.ofNat 32 (bitsOf e (64 + 32 * i) 32)) = ws := by
    refine List.ext_getElem (by simp) fun i hi hi' => ?_
    rw [List.getElem_map, List.getElem_range, entry_word entry (by omega), BitVec.ofNat_toNat, BitVec.setWidth_eq, List.getD_eq_getElem _ _ hi']
  rw [slotProgram, held]
  simp only [entry_valid entry, entry_count entry few, low, mid, high, words]
  cases ws with
  | nil => rfl
  | cons w t => simpa using few

theorem seq_putSlot (ws : List Word) : (putSlot s q slot ws).num (slotAt q slot + 4) 4 = nextSeq s q slot := by
  rw [State.num_within _ _ (n := 128) (by decide), num_putSlot inv]
  exact entry_seq rfl (Nat.mod_lt _ (Nat.two_pow_pos 32))

end Put

end Sys2Proof.Machine

/-! ## Mask units (11 R338 to R344) -/

namespace Sys2Proof.Machine

open Sys2Proof

/-! ### A unit that changes a slot (11 R340, R342) -/

/-- The state once the issuing split no longer holds the slot. -/
def unhold (s : State) (c : Ctx) (slot : Nat) : State := { s with maskHolds := s.maskHolds.filter (fun x => x != ownHold c slot) }

/-- Where no unit in flight is bound to the slot, the unit acts, and its hold ends. -/
theorem slotUnit_free {s : State} {c : Ctx} {slot : Nat} (free : slotBound s c.team.queue slot = false) (act : State → State) :
    slotUnit s c slot act = act (unhold s c slot) := by
  rw [slotUnit, free]
  rfl

/-- A split that did not wait for the slot ends no hold. -/
theorem unhold_of_not_mem {s : State} {c : Ctx} {slot : Nat} (unheld : ownHold c slot ∉ s.maskHolds) : unhold s c slot = s := by
  have kept : s.maskHolds.filter (fun x => x != ownHold c slot) = s.maskHolds := by
    refine List.filter_eq_self.2 fun x hx => bne_iff_ne.2 ?_
    rintro rfl
    exact unheld hx
  rw [unhold, kept]

/-! ### mfree (11 R342) -/

theorem exec_mfree (l : BitVec 4) (slot : BitVec 3) (s : State) : exec (.mfree l slot) s = execMfree l slot s := rfl

/-- A state with the memory of another, the marks that writes leave there, and its holds on slots. -/
def withSlot (s u : State) : State :=
  { s with mem := u.mem, bad := u.bad, spadDirty := u.spadDirty, l1Lines := u.l1Lines, migrations := u.migrations, maskHolds := u.maskHolds }

theorem withSlot_unhold (s : State) (c : Ctx) (slot : Nat) : withSlot s (unhold s c slot) = unhold s c slot := rfl

theorem withSlot_writeNum (s : State) (c : Ctx) (slot pa n v : Nat) :
    withSlot s ((unhold s c slot).writeNum pa n v) = (unhold s c slot).writeNum pa n v := rfl

theorem finish_withSlot {s u : State} {c : Ctx} (m : withSlot s u = u) (h : ctx? s = some c) :
    Completes (withSlot s (finish u c {})) (finish u c {}) c {} := by
  have same : withSlot s (finish u c {}) = u := m
  have here : ctx? u = some c := by
    rw [← m]
    exact h
  rw [same]
  exact finish_nil here

/-- The state once `mfree` has emptied the slot, where it held a program. -/
def slotFreed (s : State) (c : Ctx) (slot : Nat) : State :=
  if (slotProgram s c.q slot).isSome then putSlot (unhold s c slot) c.q slot [] else unhold s c slot

theorem exec_mfree_free {s : State} {c : Ctx} (h : ctx? s = some c) (l : BitVec 4) {slot : BitVec 3}
    (free : slotBound s c.team.queue slot.toNat = false) : exec (.mfree l slot) s = .next (finish (slotFreed s c slot.toNat) c {}) := by
  rw [exec_mfree, execMfree, issue_eq h, slotUnit_free free]
  rfl

theorem slotFreed_spec {s : State} (inv : s.Inv) (c : Ctx) (slot : Nat) :
    let u := slotFreed s c slot
    withSlot s u = u ∧ slotProgram u c.q slot = none ∧
      (∀ a, ¬ (slotAt c.q slot ≤ a ∧ a < slotAt c.q slot + 128) → u.byteAt a = s.byteAt a) ∧
      u.num (slotAt c.q slot + 4) 4 =
        if (slotProgram s c.q slot).isSome then (s.num (slotAt c.q slot + 4) 4 + 1) % 2 ^ 32 else s.num (slotAt c.q slot + 4) 4 := by
  have inv' : (unhold s c slot).Inv := inv
  cases held : slotProgram s c.q slot with
  | none =>
    have same : slotFreed s c slot = unhold s c slot := by rw [slotFreed, held]; rfl
    rw [same]
    exact ⟨withSlot_unhold s c slot, held, fun _ _ => rfl, rfl⟩
  | some ws =>
    have same : slotFreed s c slot = putSlot (unhold s c slot) c.q slot [] := by rw [slotFreed, held]; rfl
    rw [same]
    refine ⟨withSlot_writeNum .., ?_, fun a outside => byteAt_putSlot_outside (unhold s c slot) c.q slot [] outside, ?_⟩
    · exact slotProgram_putSlot inv' c.q slot (Nat.zero_le 16)
    · exact seq_putSlot inv' c.q slot []

/-! ### mclass and mstat (11 R343, R344) -/

theorem exec_mclass (l : BitVec 4) (q : BitVec 2) (d : BitVec 5) (slot : BitVec 3) (s : State) :
    exec (.mclass l q d slot) s = execMclass l q d slot s := rfl
theorem exec_mstat (l d : BitVec 4) (sel : BitVec 3) (s : State) : exec (.mstat l d sel) s = execMstat l d sel s := rfl

/-- What `mstat` finds: a counter, or the bitmap of the slots that hold a program (11 R344). -/
def statOf (s : State) (c : Ctx) (sel : Nat) : Nat :=
  if sel < 4 then s.num (c.q.mblock + 8 * sel) 8
  else ((List.range 8).map (fun i => if (slotProgram s c.q i).isSome then 2 ^ i else 0)).foldl (· + ·) 0

theorem statOf_bitmap (s : State) (c : Ctx) : statOf s c 4 < 256 ∧ ∀ i < 8, (statOf s c 4).testBit i = (slotProgram s c.q i).isSome := by
  rw [statOf, if_neg (Nat.lt_irrefl 4), foldl_powers fun i => (slotProgram s c.q i).isSome]
  exact bitSum_spec _ 8

section Reads
variable {s : State} {c : Ctx} (h : ctx? s = some c)
include h

/-- A unit that writes uniform registers alone completes. -/
theorem unit_uniform {ks : List (Nat × Word)} (distinct : (ks.map (·.1)).Nodup) : Completes s (unit s c { k := ks }) c { k := ks } :=
  unit_spec h ⟨.nil, distinct, .nil, .nil⟩ (fits_of_noLanes s rfl rfl)

/-- With no interval upside down, `mclass` writes the class that the slot's program gives (11 R334, R343). -/
theorem mclass_classifies (l : BitVec 4) (q : BitVec 2) (d : BitVec 5) {slot : BitVec 3} {prog : List Word}
    (free : slotHeld s c.team.queue slot.toNat = false) (room : bindFull s c.core c.team.queue slot.toNat = false)
    (loaded : slotProgram s c.q slot.toNat = some prog) :
    let k := fun (i : Nat) => ((c.group.kread (8 * q.toNat + i)).toNat : Int)
    k 0 ≤ k 1 → k 2 ≤ k 3 → k 4 ≤ k 5 → exec (.mclass l q d slot) s =
      .next (unit s c { k := [(d.toNat, BitVec.ofNat 32 (classify prog (k 0, k 1) (k 2, k 3) (k 4, k 5) (k 6, k 6)))] }) := by
  intro k query key doc
  have rising : [0, 2, 4].find?
      (fun i => decide ((c.group.kread (8 * q.toNat + i)).toNat > (c.group.kread (8 * q.toNat + (i + 1))).toNat)) = none := by
    rw [List.find?_eq_none]
    intro i hi
    simp only [k, Nat.cast_le] at query key doc
    rw [decide_eq_true_iff, not_lt]
    rcases List.mem_cons.1 hi with rfl | hi
    · exact query
    rcases List.mem_cons.1 hi with rfl | hi
    · exact key
    rcases List.mem_singleton.1 hi with rfl
    exact doc
  have legal : emptySlot s c slot.toNat = [] := by
    rw [emptySlot, loaded]
    rfl
  rw [exec_mclass, execMclass, issue_eq h]
  simp only [free, room, rising, legal, loaded, Bool.or_false, Bool.false_eq_true, if_false]
  rfl

/-- `mstat` waits for every earlier unit of its split but copies that have their entries (11 R344, 14 R410, R424). -/
theorem mstat_reads (l d : BitVec 4) (sel : BitVec 3) (idle : ∀ w ∈ c.split.windows, tabGet s.ops w.1 = none)
    (copies : ∀ o ∈ groupOps s c.key c.group.num, o.2.split = c.split.idx → ∃ cp, o.2.body = .copy cp) :
    exec (.mstat l d sel) s = .next (unit s c { k := [(2 * d.toNat, BitVec.ofNat 32 (statOf s c sel.toNat)),
      (2 * d.toNat + 1, BitVec.ofNat 32 (statOf s c sel.toNat / 2 ^ 32))] }) := by
  rw [exec_mstat, execMstat, issue_eq h]
  refine congrArg Host.Outcome.next (if_neg fun busy => ?_)
  rcases (Bool.or_eq_true ..).mp busy with open_ | other
  · obtain ⟨w, hw, flies⟩ := List.any_eq_true.1 open_
    rw [idle w hw] at flies
    exact Bool.false_ne_true flies
  · obtain ⟨o, ho, flies⟩ := List.any_eq_true.1 other
    rw [Bool.and_eq_true, beq_iff_eq] at flies
    obtain ⟨own, body⟩ := flies
    obtain ⟨cp, copy⟩ := copies o ho own
    rw [copy] at body
    exact Bool.false_ne_true body

end Reads

/-! ### A unit that ends over marks and writes -/

/-- A unit whose accesses left marks and writes, and its group as it was, ends. -/
theorem finish_marked {s u : State} {c : Ctx} (h : ctx? s = some c) (marked : Marked s u) (teams : u.teams = s.teams) {e : Eff}
    (distinct : e.distinct) : ∃ g', OnlyAccess s (finish u c e) c g' ∧ GroupAfter c e s.unit.npc g' := by
  have here : GroupAt s.teams u.teams c c.live := by
    rw [teams]
    exact groupAt_refl h
  have after := groupAfter_ended h distinct u.unit.npc
  refine ⟨_, ⟨marked.rest, marked.cores, onlyGroup_served (s := { u with teams := s.teams }) _ rfl here⟩, ?_⟩
  rw [marked.unit] at after ⊢
  exact after

/-! ### mload (11 R340) -/

theorem exec_mload (l k : BitVec 4) (slot : BitVec 3) (s : State) : exec (.mload l k slot) s = execMload l k slot s := rfl

/-- Outside the device regions a word of an image is read as an ordinary load reads it. -/
theorem imageLook_opens {s : State} {k : Look} {p : Piece} (opens : k.opens s p) (memory : p.x.region ≠ 2) : imageLook k = k := by
  obtain ⟨traps, -, piece, -, -⟩ := opens
  have ordinary : k.piece.any (fun p => p.x.region == 2) = false := by
    rw [piece]
    exact beq_false_of_ne memory
  rw [imageLook, ordinary, traps, List.filter_nil, if_neg Bool.false_ne_true, List.append_nil, ← traps]

/-- What a load of one lane delivers, where nothing stops it. -/
theorem loadNum_opens {s : State} {c : Ctx} {last : Option Xlat} {locks ro : Bool} {lane va n al : Nat} {p : Piece}
    (opens : (lookAt s c .load last locks lane va n al ro).opens s p) :
    loadNum s c [lookAt s c .load last locks lane va n al ro] lane = s.num p.pa n := by
  obtain ⟨-, -, piece, denied, -⟩ := opens
  obtain ⟨width, class_⟩ := lookAt_piece piece
  rw [loadNum, List.find?_cons, lookAt_lane, beq_self_eq_true]
  dsimp only
  rw [piece]
  dsimp only
  rw [readPiece_open (class_.symm.trans denied), width, State.num]

/-- Looks of which several may be one lane's, none with anything that stops or denies it: the unit takes its effect. -/
theorem memCourse_unstopped {s : State} {c : Ctx} {e : Eff} (whole : Option (BitVec 32)) (acc : Acc) (path : Nat) {looks : List Look}
    (act : State → State) (calm : Calm s c) (fits : Fits s c e) (opens : ∀ k ∈ looks, ∃ p, k.opens s p) :
    memCourse s c whole acc path looks [] e act = act s := by
  obtain ⟨peak, pool⟩ := fits
  have traps : looks.flatMap (·.traps) = [] := List.flatMap_eq_nil_iff.2 fun k hk => by
    obtain ⟨p, traps, -⟩ := opens k hk
    exact traps
  have faults : faultOf whole acc looks = none := by
    rw [faultOf, List.filter_eq_nil_iff.2]
    intro k hk
    obtain ⟨p, -, fault, -⟩ := opens k hk
    rw [fault]
    exact Bool.false_ne_true
  have admitted : denialEvent s c whole path 0 looks = s := denialEvent_admitted s c whole path 0 fun k hk => by
    obtain ⟨p, -, -, -, denied, -⟩ := opens k hk
    exact denied
  have first : lowest (peakCond c e ++ [] ++ condsOf whole []) = none := by
    rw [peak]
    rfl
  simp only [memCourse, traps, first, faults, pool, mustWait_calm calm, admitted, Bool.not_true, Bool.or_self, Bool.false_eq_true, if_false,
    ite_self]

theorem noteOne_marked {s : State} (still : s.migrations = []) (c : Ctx) (write : Bool) (k : Look) (p : Piece) :
    let t := noteOne s c write false k p
    Marked s t ∧ t.migrations = [] ∧ ∀ a, ¬ (p.walked = true ∧ p.x.leafAt ≤ a ∧ a < p.x.leafAt + 8) → t.byteAt a = s.byteAt a := by
  obtain ⟨note, -, still', -, bytes⟩ := noteXlat_marked still (some c.core) (dieOf c.core) p.x write p.walked
  dsimp only
  rw [noteOne, Bool.false_and, if_neg Bool.false_ne_true]
  split
  · exact ⟨note, still', bytes⟩
  · exact ⟨note.trans (fill_marked ..), still', bytes⟩

/-- The marks of looks of which several may be one lane's, and which name no last page. -/
theorem noteLooks_marked {s : State} (still : s.migrations = []) (c : Ctx) (write : Bool) (looks : List Look) :
    let t := noteLooks s c write false looks
    Marked s t ∧ t.migrations = [] ∧ ∀ a, ¬ InWalked (piecesOf looks) a → t.byteAt a = s.byteAt a := by
  induction looks generalizing s with
  | nil => exact ⟨.refl s, still, fun _ _ => rfl⟩
  | cons k t ih =>
    cases piece : k.piece with
    | none =>
      have same : noteLooks s c write false (k :: t) = noteLooks s c write false t := by
        rw [noteLooks, List.foldl_cons, piece]
        rfl
      have pieces : piecesOf (k :: t) = piecesOf t := List.filterMap_cons_none piece
      rw [same, pieces]
      exact ih still
    | some p =>
      have pieces : piecesOf (k :: t) = p :: piecesOf t := List.filterMap_cons_some piece
      obtain ⟨marked, still1, bytes⟩ := noteOne_marked still c write k p
      obtain ⟨marked', still', bytes'⟩ := ih still1
      rw [noteLooks_cons piece, pieces]
      exact ⟨marked.trans marked', still', fun a outside =>
        (bytes' a fun ⟨q, hq, within⟩ => outside ⟨q, List.mem_cons_of_mem _ hq, within⟩).trans
          (bytes a fun within => outside ⟨p, List.mem_cons_self .., within⟩)⟩

/-- In a legal image neither the header nor an instruction holds a code (11 R338). -/
theorem codes_of_legal {header : Word} {ws : List Word} {m : BitVec 32} (legal : imageCond header ws m = []) :
    (if mCount header = 0 || decide (mCount header > 16) || header.toNat / 32 != 0 then [(0x44, 16, header)] else []) ++
      mCheck ws 0 [(0, 0), (1, 0), (2, 0), (3, 0)] = [] := by
  unfold imageCond at legal
  dsimp only at legal
  generalize (if mCount header = 0 || decide (mCount header > 16) || header.toNat / 32 != 0 then [(0x44, 16, header)] else []) ++
      mCheck ws 0 [(0, 0), (1, 0), (2, 0), (3, 0)] = codes at legal ⊢
  split at legal
  next none_ => exact List.map_eq_nil_iff.1 (List.min?_eq_none_iff.1 none_)
  next k least =>
    obtain ⟨x, hx, rfl⟩ := List.mem_map.1 (List.min?_mem least)
    rw [List.map_eq_nil_iff, Option.toList_eq_nil_iff, List.find?_eq_none] at legal
    exact absurd (beq_self_eq_true x.1) (legal x hx)

/-- A legal image has 1 to 16 instructions (11 R331, R338). -/
theorem count_of_legal {header : Word} {ws : List Word} {m : BitVec 32} (legal : imageCond header ws m = []) :
    mCount header ≠ 0 ∧ mCount header ≤ 16 := by
  obtain ⟨head, -⟩ := List.append_eq_nil_iff.1 (codes_of_legal legal)
  split at head
  · cases head
  next fits =>
    simp only [Bool.or_eq_true, decide_eq_true_eq, not_or] at fits
    omega

section Mload
variable {s : State} {c : Ctx} (h : ctx? s = some c) (calm : Calm s c) (inv : s.Inv) {p : Nat → Piece} {k : BitVec 4} {slot : BitVec 3}
  (free : slotBound s c.team.queue slot.toNat = false) (unheld : ownHold c slot.toNat ∉ s.maskHolds)
  {header : Word} {ws : List Word} {row : Nat → Look}
  (rows : ∀ i, lookAt s c .load none false (lowLane c.split.mask) (((c.group.kpair (2 * k.toNat)).toNat + 4 * i) % 2 ^ 64) 4 4 = row i)
  (first : BitVec.ofNat 32 (s.num (p 0).pa 4) = header)
  (words : (List.range (mCount header)).map (fun i => BitVec.ofNat 32 (s.num (p (i + 1)).pa 4)) = ws)
  (opens : ∀ i ≤ mCount header, (row i).opens s (p i) ∧ (p i).x.region ≠ 2)

include rows opens in
/-- The words of the image, as the unit reads them. -/
theorem image_word {i : Nat} (hi : i ≤ mCount header) :
    imageLook (row i) = row i ∧ loadNum s c [row i] (lowLane c.split.mask) = s.num (p i).pa 4 := by
  obtain ⟨at_, memory⟩ := opens i hi
  refine ⟨imageLook_opens at_ memory, ?_⟩
  rw [← rows] at at_ ⊢
  exact loadNum_opens at_

include h calm free unheld rows first words opens in
/-- A legal image is published over the marks of the walks to its words (11 R340). -/
theorem mload_publishes (l : BitVec 4) (legal : imageCond header ws c.split.mask = []) :
    exec (.mload l k slot) s =
      .next (finish (putSlot (noteLooks s c false false ((List.range (mCount header + 1)).map row)) c.q slot.toNat ws) c {}) := by
  obtain ⟨plain0, number0⟩ := image_word rows opens (Nat.zero_le _)
  obtain ⟨⟨traps0, fault0, -⟩, -⟩ := opens 0 (Nat.zero_le _)
  have plain : (List.range (mCount header)).map (fun i => imageLook (row (i + 1))) = (List.range (mCount header)).map (fun i => row (i + 1)) :=
    List.map_congr_left fun i hi => (image_word rows opens (Nat.succ_le_of_lt (List.mem_range.1 hi))).1
  have code : ((List.range (mCount header)).map (fun i => row (i + 1))).map
      (fun x => BitVec.ofNat 32 (loadNum s c [x] (lowLane c.split.mask))) = ws := by
    rw [List.map_map, ← words]
    exact List.map_congr_left fun i hi => congrArg _ (image_word rows opens (Nat.succ_le_of_lt (List.mem_range.1 hi))).2
  have looks : (List.range (mCount header + 1)).map row = row 0 :: (List.range (mCount header)).map (fun i => row (i + 1)) := by
    rw [List.range_succ_eq_map, List.map_cons, List.map_map]
    rfl
  have all : ∀ x ∈ (List.range (mCount header + 1)).map row, ∃ p, x.opens s p := by
    intro x hx
    obtain ⟨i, hi, rfl⟩ := List.mem_map.1 hx
    exact ⟨p i, (opens i (Nat.le_of_lt_succ (List.mem_range.1 hi))).1⟩
  rw [exec_mload, execMload, issue_eq h, slotUnit_free free, unhold_of_not_mem unheld]
  dsimp only
  simp only [rows, plain0, settle_calm calm, number0, first, traps0, fault0, List.isEmpty_nil, Option.isNone_none,
    Bool.and_self, if_true, plain, ← looks]
  rw [memCourse_unstopped (some c.split.mask) .load 0 _ calm (fits_nil s c) all]
  simp only [settle_calm calm, code, legal, lowest]

include opens in
theorem image_pieces : piecesOf ((List.range (mCount header + 1)).map row) = (List.range (mCount header + 1)).map p := by
  rw [piecesOf, List.filterMap_map, ← List.filterMap_eq_map]
  refine List.filterMap_congr fun i hi => ?_
  obtain ⟨⟨-, -, piece, -⟩, -⟩ := opens i (Nat.le_of_lt_succ (List.mem_range.1 hi))
  exact piece

include h calm inv free unheld rows first words opens in
/-- The unit ends with its program in the slot, and changes no other byte but those of the entries that its walks mark. -/
theorem mload_completes (l : BitVec 4) (legal : imageCond header ws c.split.mask = []) :
    ∃ t g', exec (.mload l k slot) s = .next t ∧ OnlyAccess s t c g' ∧ GroupAfter c {} s.unit.npc g' ∧ slotProgram t c.q slot.toNat = some ws ∧
      ∀ a, ¬ InWalked ((List.range (mCount header + 1)).map p) a → ¬ (slotAt c.q slot.toNat ≤ a ∧ a < slotAt c.q slot.toNat + 128) →
        t.byteAt a = s.byteAt a := by
  have run := mload_publishes h calm free unheld rows first words opens l legal
  obtain ⟨some_, few⟩ := count_of_legal legal
  have length : ws.length = mCount header := by rw [← words, List.length_map, List.length_range]
  obtain ⟨-, -, still, -⟩ := calm
  have marks := noteLooks_marked still c false ((List.range (mCount header + 1)).map row)
  have teams := noteLooks_teams s c false ((List.range (mCount header + 1)).map row)
  have canonical_ := wf_noteLooks s c false false ((List.range (mCount header + 1)).map row) inv
  rw [image_pieces opens] at marks
  generalize noteLooks s c false false ((List.range (mCount header + 1)).map row) = u at run marks teams canonical_
  obtain ⟨marked, still', bytes⟩ := marks
  obtain ⟨written, teams', -⟩ := putSlot_marked still' c.q slot.toNat ws
  obtain ⟨g', only, after⟩ := finish_marked h (marked.trans written) (teams'.trans teams) distinct_nil
  refine ⟨_, g', run, only, after, ?_, fun a unwalked outside => ?_⟩
  · rw [slotProgram_of_mem (finish_mem ..), slotProgram_putSlot canonical_ c.q slot.toNat (length ▸ few), if_neg]
    rw [List.isEmpty_iff_length_eq_zero, length]
    exact some_
  · exact (byteAt_of_mem (finish_mem ..) a).trans ((byteAt_putSlot_outside u c.q slot.toNat ws outside).trans (bytes a unwalked))

end Mload

theorem maskClaim : MaskClaim := by
  intro s c l slot h at_
  refine ⟨fun k p calm inv free unheld => ?_, fun free inv => ?_, fun q d prog free room loaded => ?_, fun d sel range idle copies => ?_⟩
  · intro ea header ws opens legal
    exact mload_completes h calm inv free unheld (fun _ => rfl) rfl rfl opens l legal
  · obtain ⟨only, empty, bytes, seq⟩ := slotFreed_spec inv c slot.toNat
    exact ⟨_, exec_mfree_free h l free, finish_withSlot only h, empty, bytes, seq⟩
  · intro k query key doc
    exact ⟨_, mclass_classifies h l q d free room loaded query key doc, unit_uniform h (List.nodup_singleton _)⟩
  · refine ⟨_, _, mstat_reads h l d sel idle copies, unit_uniform h (by simp), fun counter => if_pos counter, fun bitmap => ?_⟩
    rw [bitmap]
    exact statOf_bitmap s c

/-- Settles O43: `mload` by the words of its image, read before the marks of its walks, and by the fields of the entry that it packs over them, which read
back as the program; `mfree` by an entry without words; `mclass` by its rising intervals; `mstat` by the bits of the sum over the slots that hold a program. -/
theorem maskResults : Obligations.MaskResults := maskClaim

end Sys2Proof.Machine
